-- ==== Sys2Proof/Word.lean ====
section
/-! DEFINITION. The word types of the model and the bounded numbers that name instances (R11, R15, R16). -/

namespace Sys2Proof

/-- A register (R16: 32 bits). -/
abbrev Word := BitVec 32

/-- One byte of memory. -/
abbrev Byte := BitVec 8

/-- One H-form word of a store (R190: 144 bits). -/
abbrev HBits := BitVec 144

/-- One frame or one tenon of 64 grains by 16 slots by 4 bits (R73, R215). -/
abbrev FrameBits := BitVec 4096

/-- PIN p (R11). -/
abbrev PinNo := Fin 1024
/-- Unit index u of a pin in its cluster (R25). -/
abbrev UnitNo := Fin 16
/-- CL c (R11). -/
abbrev ClNo := Fin 64
/-- RG r, and HB r, PF r, PC r (R11). -/
abbrev RgNo := Fin 8
/-- SD s (R11). -/
abbrev DieNo := Fin 4
/-- EN e (R11). -/
abbrev EngNo := Fin 256
/-- DG d (R11). -/
abbrev DigNo := Fin 128
/-- P n (R11). -/
abbrev PortNo := Fin 6
/-- X n (R11). -/
abbrev ExpNo := Fin 4
/-- V n (R11). -/
abbrev LinkNo := Fin 8
/-- FL n (R11). -/
abbrev FlowNo := Fin 8
/-- Ring ID (R358: 16 bits). -/
abbrev RingNo := Fin 65536
/-- DMA engine (R358). -/
abbrev DmaNo := Fin 16
/-- Package ID (R30). -/
abbrev PkgNo := Fin 16

end Sys2Proof
end

