-- ==== Sys2Proof/Syntax.lean ====
section
/-! DEFINITION. The commands of the block: one constructor per row of spec/opcode_table.json, in the table's order, with the
operands of the step. Grains are counts of GT since it was last loaded. An operand `port` is the partner port whose request
it is; what only the outside of the package can know (comparator input voltages in µV, converter codes, outcomes of ECC,
flash and link measurements) is an operand too; `remote` is what another package returned for an access that left this one. -/

namespace Sys2Proof

/-- What error correction finds in a line or word as it is read (R334, R335): an input from the memory cells. -/
inductive EccFind where
  | clean
  | corrected
  | uncorrectable
  deriving DecidableEq, Repr

/-- What an access to another package returns, and what a message between packages carries for a line: bytes, the news that it is
poisoned (R335, R336), or an error. -/
inductive Payload where
  | data (bytes : List Byte)
  | poisoned
  | error
  deriving DecidableEq, Repr

/-- Whether the data write of a DMA beat and a completion write to another package are answered with a bus error (R366, R375). -/
structure WriteFails where
  data : Bool := false
  completion : Bool := false
  deriving DecidableEq, Repr

/-- What error correction finds in the lines, by the address of their first byte, and store words, by their reported address
(R518), that a command reads; a line or word that is not listed is clean. -/
abbrev Finds := List (Nat × EccFind)

/-- The four drive edges of a cycle (R106). -/
inductive EdgeKind where
  | d1
  | d2
  | don
  | doff
  deriving DecidableEq, Repr

/-- The tag of a compare result (R163, R164). -/
inductive StrobeTag where
  | a
  | b
  | w
  deriving DecidableEq, Repr

/-- Where the code of a cycle comes from when the fabric writes a tenon (R188). -/
inductive CodeSource where
  /-- the next vector of the engine's stream, at this VADDR (STREAM) -/
  | vector (vaddr : Nat)
  /-- the vector of the engine's last STREAM cycle, at this VADDR (HOLD) -/
  | held (vaddr : Nat)
  /-- the cycle plays the served pins' idle codes (IDLE, or HOLD before any STREAM cycle) -/
  | idle
  deriving DecidableEq, Repr

/-- One cycle start that the fabric places into a tenon: the engine index of the cluster, the grain of the tenon and the
source of the codes of the served pins (R73, R94, R195). -/
structure CycleSlot where
  eng : Fin 4
  grain : Fin 64
  src : CodeSource
  deriving DecidableEq, Repr

/-- The two decode lanes of a cluster (R195). -/
inductive Lane where
  | main
  | shadow
  deriving DecidableEq, Repr

/-- A converter: the SAR converter of a cluster or the precision converter of a region (R288, R300). -/
inductive ConvNo where
  | sar (c : ClNo)
  | pc (r : RgNo)
  deriving DecidableEq, Repr

/-- The two kinds of calibration (R306). -/
inductive CalKind where
  | dc
  | timing
  deriving DecidableEq, Repr

/-- What the two passes of a calibration measured, by unit index (R315, R316, R318): a pair per shim e = 0 to 6 for timing or
per DC item for DC, and the eye counts. -/
structure CalResults where
  pairs : List (List (Int × Int))
  eye : List Nat
  deriving DecidableEq, Repr

/-- The scrub walkers (R337). -/
inductive Walker where
  | hbm (r : RgNo)
  | sram (r : RgNo)
  | hub
  deriving DecidableEq, Repr

/-- The block testers (R345). -/
inductive Tester where
  | region (r : RgNo)
  | hub
  deriving DecidableEq, Repr

/-- The front-end rails of R510. -/
inductive FeRail where
  | vddFe
  | vddPinh
  | vddPinl
  deriving DecidableEq, Repr

/-- The core rails of R510. -/
inductive CoreRail where
  | vddIo
  | vddCore
  deriving DecidableEq, Repr

/-- The two dies that send heartbeats to PF r (R46). -/
inductive LinkDie where
  | slice
  | hub
  deriving DecidableEq, Repr

/-- What a package tells about itself over a Vyene link (R467). -/
structure Identity where
  uid : Nat
  tag : Nat
  id : PkgNo
  eligible : Bool
  priority : Nat
  deriving DecidableEq, Repr

/-- A system condition message (R485): a flag change decided at grain s, or the contribution of a package to the FAIL_SYS
branch of a run. -/
inductive SysMessage where
  | flag (fromPkg : PkgNo) (src : Nat) (f : Fin 64) (set : Bool) (s : Nat)
  | failSys (fromPkg : PkgNo) (eng : EngNo) (failed : Bool) (s : Nat)
  deriving DecidableEq, Repr

/-- One timestamp pair exchange of Dowel, in 1/16 kf (R480). -/
structure StampPair where
  t1 : Int
  t2 : Int
  t3 : Int
  t4 : Int
  deriving DecidableEq, Repr

/-- A link between two packages of a sync domain with its δ in kf, as Dowel has measured it (R480, R483). -/
structure PkgLink where
  a : PkgNo
  b : PkgNo
  delta : Nat
  deriving DecidableEq, Repr

/-- What a neighbour tells of itself before an alignment: its hops to the master, and whether it has aligned (R480). -/
structure Neighbour where
  hops : Nat
  aligned : Bool
  deriving DecidableEq, Repr

/-- A package summary (Table 14-5). -/
structure PkgSummary where
  pkg : Nat
  flow : Nat
  insert : Nat
  gt : Nat
  sites : Nat
  bins : List Nat
  deriving DecidableEq, Repr

/-- The answer of another package's cache to a snoop (R490). -/
inductive SnoopAnswer where
  | ack
  | data (bytes : Payload)
  | writebackInFlight (bytes : Payload)
  | cleanEviction
  deriving DecidableEq, Repr

/-- How a flash or service command of the hardware ended (R434, R442, Table 15-4, R423). -/
inductive SvcEnd where
  | ok
  | digestMismatch
  | flashError
  | calRejected
  | calDiscarded
  deriving DecidableEq, Repr

/-- The commands. -/
inductive Instr where
  -- reset, boot and rails
  | resetNLow
  | resetNHigh
  | bootHeadersRead (errorA errorB : Bool)
  | bootSectionLoad (flashError : Bool) (fetchErrors : List Nat)
  | fetchTimeout
  | bootPhase8 (g : Nat)
  | hbmInitDone (r : RgNo)
  | railUndervoltage (rail : CoreRail)
  | frontEndRailFault (rail : FeRail)
  | hbmRailFault (r : RgNo)
  | tempRead (g : Nat) (codes : List (BitVec 12))
  | vcoreMeasure (g : Nat) (replicas : List Nat)
  | timebaseLock (g : Nat)
  | holdoverEntry (g : Nat)
  | refReturn (g : Nat) (phaseKf : Int)
  | phaseSlewStep (g : Nat)
  | holdoverTimeout (g : Nat)
  | refCtrlWrite (port : PortNo) (value : Word) (be : BitVec 4)
  -- registers
  | gtLoRead (port : PortNo) (addr : Nat)
  | registerWrite (port : PortNo) (addr : Nat) (value : Word) (be : BitVec 4) (finds : Finds)
  | rcFieldRead (port : PortNo) (addr : Nat) (be : BitVec 4) (coinciding : Nat)
  | writeReachesPinTime (addr : Nat) (b : Nat)
  | unitMaskWrite (port : PortNo) (c : ClNo) (value : Word) (be : BitVec 4)
  -- tenons and links to the pin front-end dies
  | tenonProduced (c : ClNo) (lane : Lane) (stamp : Nat) (slots : List CycleSlot)
  | tenonBoundary (c : ClNo) (b : Nat) (finds : Finds)
  | runStartGrain (e : EngNo) (g : Nat)
  | linkHeartbeat (r : RgNo) (die : LinkDie) (g : Nat)
  | linkSilent (r : RgNo) (die : LinkDie) (g : Nat)
  | safeStateEntry (r : RgNo) (g : Nat)
  | sliceDieFence (d : DieNo)
  | engStart (port : PortNo) (e : EngNo) (value : Word)
  | runStart (e : EngNo) (finds : Finds)
  -- cycles, edges and strobes
  | cycleStart (p : PinNo) (g : Nat) (finds : Finds)
  | driveEdge (p : PinNo) (k : EdgeKind) (start : Nat)
  | strobeTaken (p : PinNo) (tag : StrobeTag) (start : Nat) (microvolts : List Int)
  -- Scribe
  | scribeLineWrite (c : ClNo)
  | scrFlush (port : PortNo) (c : ClNo)
  | scrRptrWrite (port : PortNo) (c : ClNo) (value : Word)
  | scribeConfigWrite (port : PortNo) (c : ClNo) (drain : Bool) (value : Word) (be : BitVec 4)
  -- time intervals and shims
  | pinEdgeStamped (p : PinNo) (rising : Bool) (t16 : Nat)
  | tiaModeWrite (port : PortNo) (c : ClNo) (u : UnitNo) (value : Word)
  | tiaRes0Read (port : PortNo) (c : ClNo) (u : UnitNo)
  | shimTargetWrite (port : PortNo) (c : ClNo) (i : Fin 128) (value : Word)
  -- Marquetry
  | handoverStart (p : PinNo) (b : Nat) (finds : Finds)
  | advCondSample (p : PinNo) (g : Nat)
  | delta4Convert (port : PortNo) (c : ClNo) (value : Word)
  | delta4Done (c : ClNo) (finds : Finds)
  -- protection
  | protectionSample (p : PinNo) (g : Nat) (microvolts : Int)
  | latchClearWrite (port : PortNo) (c : ClNo) (mask : BitVec 16) (b : Nat)
  -- microwords
  | wordOpen (e : EngNo) (g : Nat) (finds : Finds)
  | next (e : EngNo) (g : Nat)
  | jump (e : EngNo) (g : Nat)
  | branchTakeEffect (e : EngNo) (g : Nat)
  | call (e : EngNo) (g : Nat)
  | ret (e : EngNo) (g : Nat)
  | loop (e : EngNo) (g : Nat)
  | ldcnt (e : EngNo) (g : Nat)
  | wait (e : EngNo) (g : Nat)
  | waitCheck (e : EngNo) (g : Nat)
  | resume (e : EngNo) (g : Nat)
  | halt (e : EngNo) (g : Nat)
  | romcall (e : EngNo) (g : Nat)
  | badop (e : EngNo) (g : Nat)
  -- V-form
  | vopNop (e : EngNo) (g : Nat) (finds : Finds)
  | vopStream (e : EngNo) (g : Nat) (finds : Finds)
  | vopTset (e : EngNo) (g : Nat) (finds : Finds)
  | vopSeek (e : EngNo) (g : Nat) (finds : Finds)
  | vopLdcnt (e : EngNo) (g : Nat) (finds : Finds)
  | vopLoopb (e : EngNo) (g : Nat) (finds : Finds)
  | vopCall (e : EngNo) (g : Nat) (finds : Finds)
  | vopRet (e : EngNo) (g : Nat) (finds : Finds)
  | vopBrcond (e : EngNo) (g : Nat) (finds : Finds)
  | vopWaitf (e : EngNo) (g : Nat) (finds : Finds)
  | vopSigf (e : EngNo) (g : Nat) (finds : Finds)
  | vopAct (e : EngNo) (g : Nat) (finds : Finds)
  | vopDict (e : EngNo) (g : Nat) (finds : Finds)
  | vopSubst (e : EngNo) (g : Nat) (finds : Finds)
  | vopHalt (e : EngNo) (g : Nat) (finds : Finds)
  | vopBad (e : EngNo) (g : Nat) (finds : Finds)
  -- flags, deadlock, run end
  | systemFlagTakeEffect (f : Fin 64) (g : Nat)
  | flagSetWrite (port : PortNo) (addr : Nat) (value : Word) (b : Nat)
  | flagClrWrite (port : PortNo) (addr : Nat) (value : Word) (b : Nat)
  | deadlock (e : EngNo) (g : Nat)
  | runEnd (e : EngNo) (g : Nat)
  -- control stores, decoders, shares
  | csRead (port : PortNo) (c : ClNo) (value : Word) (finds : Finds)
  | csWrite (port : PortNo) (c : ClNo) (value : Word)
  | csStoreRefused (port : PortNo) (c : ClNo) (value : Word)
  | engPmWrite (port : PortNo) (c : ClNo) (n : Fin 64) (value : Word)
  | decoderRestart (e : EngNo) (lane : Lane) (v : Nat)
  | vectorLineFetch (e : EngNo) (lane : Lane) (addr : Nat) (finds : Finds)
  | frameDecode (e : EngNo) (lane : Lane)
  | hbmShareWrite (port : PortNo) (r : RgNo) (value : Word) (be : BitVec 4)
  -- digitisers
  | acqArm (port : PortNo) (d : DigNo) (b : Nat)
  | acqAbort (port : PortNo) (d : DigNo) (b : Nat)
  | trigger (d : DigNo) (n : Nat) (input : List Int)
  | autoTimeout (d : DigNo) (input : List Int)
  | triggerFlagSet (d : DigNo) (b : Nat)
  | recordLastSample (d : DigNo) (n : Nat) (input : List Int)
  | acqRangeWrite (port : PortNo) (d : DigNo) (value : Word) (b : Nat)
  | acqLineStage (d : DigNo) (ring : Fin 3) (input : List Int)
  -- force pulses and converters
  | pulseStart (port : PortNo) (c : ClNo) (mask : BitVec 16) (b : Nat)
  | pulseEnd (p : PinNo) (g : Nat)
  | adcStart (port : PortNo) (c : ClNo) (b : Nat)
  | adcTimerEvent (c : ClNo) (g : Nat)
  | adcSequenceBegin (c : ClNo) (g : Nat)
  | adcSequenceEnd (c : ClNo) (g : Nat) (codes : List (BitVec 12))
  | adcResultRead (port : PortNo) (conv : ConvNo)
  | pcCtrlWrite (port : PortNo) (r : RgNo) (value : Word) (be : BitVec 4) (b : Nat)
  | pcConversion (r : RgNo) (g : Nat) (code : BitVec 12)
  -- calibration and references
  | calRequestTiming (port : PortNo) (c : ClNo) (b : Nat)
  | calRequestDc (port : PortNo) (c : ClNo) (b : Nat)
  | calStart (c : ClNo) (kind : CalKind) (g : Nat)
  | calPass2 (c : ClNo) (g : Nat)
  | calEnd (c : ClNo) (g : Nat) (res : CalResults)
  | calApply (c : ClNo) (b : Nat)
  | driftMeasure (g : Nat) (refA refB vrefA vrefB : Int)
  | timingFailover (g : Nat) (othersIdle : Bool)
  -- memory integrity
  | scrubRead (w : Walker) (finds : Finds)
  | storeReload (storeAddr : Nat) (flashError : Bool)
  | blockTest (t : Tester)
  | blockTestDone (t : Tester) (faultyRows : List Nat)
  | pprGo (port : PortNo) (r : RgNo) (value : Word)
  | pprDone (r : RgNo) (resourceLeft : Bool)
  | memPatWrite (port : PortNo) (r : RgNo) (n : Fin 16) (w : Fin 5) (value : Word) (be : BitVec 4)
  -- secure scratchpad
  | wipe (port : PortNo)
  | wipeEnd
  | tamper
  -- DMA
  | ringTailWrite (port : PortNo) (ring : RingNo) (tail : BitVec 16)
  | doorbell (port : PortNo) (value : Word)
  | descriptorFetch (ring : RingNo) (finds : Finds) (remote : Payload) (fails : Bool)
  | ringRestart (port : PortNo) (ring : RingNo)
  | burstStart (ring : RingNo) (g : Nat) (finds : Finds) (remote : List Payload)
  | dmaBeat (e : DmaNo) (finds : Finds) (remote : Payload) (fails : WriteFails)
  | burstComplete (ring : RingNo) (finds : Finds) (fails : Bool)
  | ringAlloc (port : PortNo) (r : RgNo)
  | ringFree (port : PortNo) (r : RgNo) (value : Word)
  | poolTake (port : PortNo) (r : RgNo)
  | poolPut (port : PortNo) (r : RgNo) (value : Word)
  -- flow services
  | flowGo (port : PortNo) (n : FlowNo)
  | flowStartFlag (n : FlowNo)
  | flowCont (port : PortNo) (n : FlowNo)
  | pattern (n : FlowNo) (finds : Finds)
  | measure (n : FlowNo) (finds : Finds)
  | limit (n : FlowNo) (finds : Finds)
  | branch (n : FlowNo) (finds : Finds)
  | bin (n : FlowNo) (finds : Finds)
  | log (n : FlowNo) (finds : Finds)
  | cal (n : FlowNo) (finds : Finds)
  | flowWait (n : FlowNo) (finds : Finds)
  | share (n : FlowNo) (finds : Finds)
  | endEntry (n : FlowNo) (finds : Finds)
  | flowEntryComplete (n : FlowNo) (g : Nat)
  | logRptrWrite (port : PortNo) (value : Word)
  | flowConfigWrite (port : PortNo) (addr : Nat) (value : Word) (be : BitVec 4)
  | summaryArrive (c : ClNo)
  | benchTake
  | packageSummaryTake (arrived : List PkgSummary)
  -- modes and live service
  | modReqWrite (port : PortNo) (c : ClNo) (value : Word) (be : BitVec 4)
  | modeShutdownDone (c : ClNo) (mode : Fin 6) (b : Nat)
  | drain (port : PortNo) (c : ClNo) (cut : Bool) (d : Nat)
  | drainEnd (c : ClNo) (g : Nat)
  | drained (c : ClNo)
  | reload (port : PortNo) (c : ClNo)
  | memtest (port : PortNo) (c : ClNo)
  | activate (port : PortNo) (c : ClNo)
  | recover (port : PortNo) (c : ClNo) (resume : BitVec 6) (b : Nat)
  | svcOpRefused (port : PortNo) (c : ClNo) (value : Word)
  | svcCommandDone (c : ClNo) (g : Nat) (result : SvcEnd) (faultyRows : List Nat)
  -- flash, boot control, life cycle
  | flashRead (port : PortNo)
  | flashProgram (port : PortNo)
  | flashErase (port : PortNo)
  | flashOpRefused (port : PortNo)
  | flashCmdDone (error : Bool)
  | reboot (port : PortNo)
  | actHub (port : PortNo)
  | actHubDone (flashError : Bool) (fetchErrors : List Nat)
  | lcTransition (port : PortNo) (value : Word)
  | lcFusesProgrammed
  | repairAppend (array inst bank row spare : Nat)
  -- partner ports
  | partnerLinkTrained (port : PortNo) (rate : Fin 7) (width : Fin 3)
  | partnerMemoryWrite (port : PortNo) (offset : Nat) (data : List (Option Byte)) (finds : Finds)
  | partnerMemoryRead (port : PortNo) (offset : Nat) (len : Nat) (finds : Finds) (remote : Payload)
  | partnerReadTimeout (port : PortNo) (addr : Nat)
  | oversizedRegisterRequest (port : PortNo) (addr : Nat) (isWrite : Bool)
  | evtRptrWrite (port n : PortNo) (value : Word)
  -- expansion ports and Vyene links
  | expansionLinkChange (x : ExpNo) (up : Bool) (bytes : Nat)
  | vyeneLinkTrained (n : LinkNo) (lanes : Nat) (peer : Identity) (peerLink : LinkNo) (w : Nat)
  | vyeneLinkDrop (n : Option LinkNo) (lost : List Nat)
  | systemDeclare (w : Nat)
  | idAssignment (tag : Nat) (uids : List Nat) (reserved : BitVec 16) (declared : Bool)
  | systemJoin (n : LinkNo) (joiner : Identity) (refused : Option LinkNo)
  | elect (port : PortNo)
  | election (others : List (BitVec 32))
  | lease (g : Nat)
  | leaseReceive (n : LinkNo) (epoch : BitVec 32) (master : PkgNo) (gt : Nat)
  | leaseLapse (g : Nat)
  | conflict (g : Nat) (claimant : PkgNo)
  | conflictSafeState (g : Nat)
  | dowel (port : Option PortNo)
  | release (port : PortNo) (id : PkgNo)
  | alignment (n : LinkNo) (g : Nat) (pairs : List StampPair) (far : List Neighbour)
  | lAdopt (g : Nat) (links : List PkgLink)
  | systemConditionMessage (m : SysMessage) (g : Nat)
  | syncOutPulse (g : Nat)
  | syncInEdge (g : Nat)
  -- coherence of the shared flow space
  | readS (requester : PkgNo) (line : Nat) (reply : Payload) (finds : Finds)
  | readX (requester : PkgNo) (line : Nat) (reply : Payload) (finds : Finds)
  | upgrade (requester : PkgNo) (line : Nat) (finds : Finds)
  | putM (sender : PkgNo) (line : Nat) (data : Payload) (finds : Finds)
  | putE (sender : PkgNo) (line : Nat) (finds : Finds)
  | fwdS (target : PkgNo) (line : Nat) (answer : SnoopAnswer) (finds : Finds)
  | fwdX (target : PkgNo) (line : Nat) (answer : SnoopAnswer) (finds : Finds)
  | inv (target : PkgNo) (line : Nat) (finds : Finds)
  | snoopTargetUnreachable (target : PkgNo)
  -- further rows
  | tamperNHigh
  | flitResend (n : LinkNo)
  | atomicopRequest (port : PortNo)
  | remoteAccess (fromPkg : PkgNo) (addr : Nat) (data : List (Option Byte)) (len : Nat) (poison : Bool) (finds : Finds)
  deriving DecidableEq, Repr

end Sys2Proof
end

