-- ==== Sys2Proof/Machine/Bits.lean ====
section
/-! DEFINITION. Bit fields of registers, sign extension, byte order (R16, R17) and byte enables (R452). -/

namespace Sys2Proof.Machine

/-- A register field, bits hi:lo. -/
structure Fld where
  hi : Nat
  lo : Nat
  deriving DecidableEq, Repr

/-- Width of a field. -/
def Fld.width (f : Fld) : Nat := f.hi + 1 - f.lo

/-- The bits of a field as a mask. -/
def Fld.mask (f : Fld) : Word := BitVec.ofNat 32 ((2 ^ f.width - 1) <<< f.lo)

/-- The value of a field. -/
def getF (w : Word) (f : Fld) : Nat := w.toNat / 2 ^ f.lo % 2 ^ f.width

/-- A word with one field replaced by the low bits of v. -/
def setF (w : Word) (f : Fld) (v : Nat) : Word :=
  BitVec.ofNat 32 (w.toNat / 2 ^ (f.hi + 1) * 2 ^ (f.hi + 1) + (v % 2 ^ f.width) * 2 ^ f.lo + w.toNat % 2 ^ f.lo)

/-- A one-bit flag of a word. -/
def getB (w : Word) (n : Nat) : Bool := w.getLsbD n

/-- Bit n of a number. -/
def nbit (v n : Nat) : Bool := v / 2 ^ n % 2 == 1

/-- A number with bit n set or cleared. -/
def setNBit (v n : Nat) (b : Bool) : Nat :=
  v / 2 ^ (n + 1) * 2 ^ (n + 1) + (if b then 2 ^ n else 0) + v % 2 ^ n

/-- The indexes of the bits set among the low n bits. -/
def bitsOf (n v : Nat) : List Nat := (List.range n).filter (nbit v)

/-- The lowest set bit among the low n bits. -/
def lowBit (n v : Nat) : Option Nat := (List.range n).find? (nbit v)

/-- The number whose set bits are the listed indexes. -/
def maskOf (l : List Nat) : Nat := l.foldl (fun m n => setNBit m n true) 0

/-- Two's complement reading of an n-bit value (R17). -/
def sx (n v : Nat) : Int := if v % 2 ^ n < 2 ^ (n - 1) then (v % 2 ^ n : Nat) else ((v % 2 ^ n : Nat) : Int) - 2 ^ n

/-- The n-bit two's complement pattern of an integer. -/
def ux (n : Nat) (v : Int) : Nat := (v % (2 ^ n : Int)).toNat

/-- A saturating counter of n bits (R22). -/
def satAdd (n v k : Nat) : Nat := min (v + k) (2 ^ n - 1)

/-- The bits that byte enables cover. -/
def beMask (be : BitVec 4) : Word :=
  BitVec.ofNat 32 ((if be.getLsbD 0 then 0xFF else 0) + (if be.getLsbD 1 then 0xFF00 else 0) +
    (if be.getLsbD 2 then 0xFF0000 else 0) + (if be.getLsbD 3 then 0xFF000000 else 0))

/-- The k bytes of a number, least significant first. -/
def leBytes : Nat → Nat → List Byte
  | 0, _ => []
  | k + 1, v => BitVec.ofNat 8 v :: leBytes k (v / 256)

/-- The number whose bytes, least significant first, are listed. -/
def ofLe : List Byte → Nat
  | [] => 0
  | b :: t => b.toNat + 256 * ofLe t

/-- Bits [lo+n-1:lo] of a number. -/
def slice (v lo n : Nat) : Nat := v / 2 ^ lo % 2 ^ n

/-- A number of 64 bits as two registers. -/
def loHalf (v : Nat) : Word := BitVec.ofNat 32 v

/-- The upper half of a number of 64 bits. -/
def hiHalf (v : Nat) : Word := BitVec.ofNat 32 (v / 2 ^ 32)

/-- Replace element n of a list. -/
def setAt {α : Type} (l : List α) (n : Nat) (v : α) : List α := l.set n v

end Sys2Proof.Machine
end

