-- ==== Sys2Proof/Machine/Regs.lean ====
section
/-! DEFINITION. The register map: the address of every register (R49, R57, Table 1-12 and the register tables of the chapters),
its fields, and for each register the reset value and the masks of its field kinds (R20: RW, W1C, W1S, WO, RC). -/

namespace Sys2Proof.Machine

/-- Base of block `blk` of the cluster window of CL c (R57). -/
def clBlk (c blk : Nat) : Nat := 0x3F000000000 + c * 0x1000000 + blk * 0x100000
/-- Base of block `blk` of the region window of RG r (R57). -/
def rgBlk (r blk : Nat) : Nat := 0x3F100000000 + r * 0x1000000 + blk * 0x100000
/-- Base of block `blk` of the hub window (R57). -/
def hubBlk (blk : Nat) : Nat := 0x3F200000000 + blk * 0x1000000
/-- Base of the system register window (R57). -/
def sysBase : Nat := 0x3F300000000

/-- Table 1-7. -/
def SYS_UNIT_MASK (c : Nat) : Nat := clBlk c 0 + 0x4
/-- RW. -/
def SYS_UNIT_MASK_EN_MASK : Fld := ⟨19, 16⟩
/-- RW. -/
def SYS_UNIT_MASK_PIN_MASK : Fld := ⟨15, 0⟩
/-- Table 1-8. -/
def CL_SYS_IDENT (c : Nat) : Nat := clBlk c 0
/-- RO. -/
def SYS_IDENT_PKG_ID : Fld := ⟨31, 28⟩
/-- RO. -/
def SYS_IDENT_SD : Fld := ⟨27, 26⟩
/-- RO. -/
def SYS_IDENT_RG : Fld := ⟨25, 23⟩
/-- RO. -/
def SYS_IDENT_CL : Fld := ⟨22, 17⟩
/-- RO. -/
def SYS_IDENT_LEVEL : Fld := ⟨16, 15⟩
/-- RO. -/
def SYS_IDENT_STEP : Fld := ⟨7, 0⟩
/-- Table 1-8. -/
def RG_SYS_IDENT (r : Nat) : Nat := rgBlk r 0
/-- Table 1-8. -/
def HUB_SYS_IDENT : Nat := 0x3f200000000
/-- Table 2-3. -/
def SYS_REF_CTRL : Nat := 0x3f200000100
/-- RO. -/
def SYS_REF_CTRL_LOCKED : Fld := ⟨31, 31⟩
/-- RO. -/
def SYS_REF_CTRL_HOLDOVER : Fld := ⟨30, 30⟩
/-- RW. -/
def SYS_REF_CTRL_TFREQ : Fld := ⟨1, 1⟩
/-- RW. -/
def SYS_REF_CTRL_TSEL : Fld := ⟨0, 0⟩
/-- Table 2-4. -/
def SYS_GT_LO : Nat := 0x3f200000200
/-- Table 2-4. -/
def SYS_GT_HI : Nat := 0x3f200000204
/-- Table 2-5. -/
def TMG_LEAD (c : Nat) : Nat := clBlk c 2 + 0xf0000
/-- W1C. -/
def TMG_LEAD_UNDERRUN : Fld := ⟨31, 31⟩
/-- W1C. -/
def TMG_LEAD_LEAD_LOW : Fld := ⟨30, 30⟩
/-- RC. -/
def TMG_LEAD_MIN_LEVEL : Fld := ⟨25, 16⟩
/-- RO. -/
def TMG_LEAD_LEVEL : Fld := ⟨9, 0⟩
/-- Table 2-6. -/
def TMG_LEAD_CTRL (c : Nat) : Nat := clBlk c 2 + 0xf0004
/-- RW. -/
def TMG_LEAD_CTRL_START_FILL : Fld := ⟨9, 0⟩
/-- Table 2-7. -/
def TMG_IDLE (c i : Nat) : Nat := clBlk c 2 + 0xf0020 + i * 4
/-- RW. -/
def TMG_IDLE_IDLE_CODE : Fld := ⟨31, 0⟩
/-- Table 2-8. -/
def TMG_UR_GT_LO (c : Nat) : Nat := clBlk c 2 + 0xf0008
/-- RO. -/
def TMG_UR_GT_LO_GT_LO : Fld := ⟨31, 0⟩
/-- Table 2-8. -/
def TMG_UR_GT_HI (c : Nat) : Nat := clBlk c 2 + 0xf000c
/-- RO. -/
def TMG_UR_GT_HI_GT_HI : Fld := ⟨31, 0⟩
/-- Table 2-8. -/
def TMG_UR_LOST (c : Nat) : Nat := clBlk c 2 + 0xf0010
/-- RO. -/
def TMG_UR_LOST_LOST : Fld := ⟨31, 0⟩
/-- Table 3-2. -/
def TSET_PERIOD (c i : Nat) : Nat := clBlk c 2 + i * 2048
/-- RW. -/
def TSET_PERIOD_PERIOD_M1 : Fld := ⟨31, 0⟩
/-- Table 3-3. -/
def TSET_PIN_CTRL (c i j : Nat) : Nat := clBlk c 2 + 0x40 + i * 2048 + j * 64
/-- RW. -/
def TSET_PIN_CTRL_STROBE_MODE : Fld := ⟨1, 1⟩
/-- RW. -/
def TSET_PIN_CTRL_CLASS : Fld := ⟨0, 0⟩
/-- Table 3-4. -/
def TSET_EDGE_DON_G (c i j : Nat) : Nat := clBlk c 2 + 0x48 + i * 2048 + j * 64
/-- RW. -/
def TSET_EDGE_DON_G_GRAIN : Fld := ⟨31, 0⟩
/-- Table 3-4. -/
def TSET_EDGE_D1_G (c i j : Nat) : Nat := clBlk c 2 + 0x50 + i * 2048 + j * 64
/-- RW. -/
def TSET_EDGE_D1_G_GRAIN : Fld := ⟨31, 0⟩
/-- Table 3-4. -/
def TSET_EDGE_D2_G (c i j : Nat) : Nat := clBlk c 2 + 0x58 + i * 2048 + j * 64
/-- RW. -/
def TSET_EDGE_D2_G_GRAIN : Fld := ⟨31, 0⟩
/-- Table 3-4. -/
def TSET_EDGE_DOFF_G (c i j : Nat) : Nat := clBlk c 2 + 0x60 + i * 2048 + j * 64
/-- RW. -/
def TSET_EDGE_DOFF_G_GRAIN : Fld := ⟨31, 0⟩
/-- Table 3-4. -/
def TSET_STROBE_A_G (c i j : Nat) : Nat := clBlk c 2 + 0x68 + i * 2048 + j * 64
/-- RW. -/
def TSET_STROBE_A_G_GRAIN : Fld := ⟨31, 0⟩
/-- Table 3-4. -/
def TSET_STROBE_B_G (c i j : Nat) : Nat := clBlk c 2 + 0x70 + i * 2048 + j * 64
/-- RW. -/
def TSET_STROBE_B_G_GRAIN : Fld := ⟨31, 0⟩
/-- Table 3-4. -/
def TSET_EDGE_DON_K (c i j : Nat) : Nat := clBlk c 2 + 0x4c + i * 2048 + j * 64
/-- RW. -/
def TSET_EDGE_DON_K_EN : Fld := ⟨31, 31⟩
/-- RW. -/
def TSET_EDGE_DON_K_KERF : Fld := ⟨5, 0⟩
/-- Table 3-4. -/
def TSET_EDGE_D1_K (c i j : Nat) : Nat := clBlk c 2 + 0x54 + i * 2048 + j * 64
/-- RW. -/
def TSET_EDGE_D1_K_EN : Fld := ⟨31, 31⟩
/-- RW. -/
def TSET_EDGE_D1_K_KERF : Fld := ⟨5, 0⟩
/-- Table 3-4. -/
def TSET_EDGE_D2_K (c i j : Nat) : Nat := clBlk c 2 + 0x5c + i * 2048 + j * 64
/-- RW. -/
def TSET_EDGE_D2_K_EN : Fld := ⟨31, 31⟩
/-- RW. -/
def TSET_EDGE_D2_K_KERF : Fld := ⟨5, 0⟩
/-- Table 3-4. -/
def TSET_EDGE_DOFF_K (c i j : Nat) : Nat := clBlk c 2 + 0x64 + i * 2048 + j * 64
/-- RW. -/
def TSET_EDGE_DOFF_K_EN : Fld := ⟨31, 31⟩
/-- RW. -/
def TSET_EDGE_DOFF_K_KERF : Fld := ⟨5, 0⟩
/-- Table 3-4. -/
def TSET_STROBE_A_K (c i j : Nat) : Nat := clBlk c 2 + 0x6c + i * 2048 + j * 64
/-- RW. -/
def TSET_STROBE_A_K_EN : Fld := ⟨31, 31⟩
/-- RW. -/
def TSET_STROBE_A_K_KERF : Fld := ⟨5, 0⟩
/-- Table 3-4. -/
def TSET_STROBE_B_K (c i j : Nat) : Nat := clBlk c 2 + 0x74 + i * 2048 + j * 64
/-- RW. -/
def TSET_STROBE_B_K_EN : Fld := ⟨31, 31⟩
/-- RW. -/
def TSET_STROBE_B_K_KERF : Fld := ⟨5, 0⟩
/-- Table 3-6. -/
def TMG_EDGE_STAT (c : Nat) : Nat := clBlk c 2 + 0x40000
/-- W1C. -/
def TMG_EDGE_STAT_MERGED : Fld := ⟨31, 16⟩
/-- W1C. -/
def TMG_EDGE_STAT_ORDER : Fld := ⟨15, 0⟩
/-- Table 3-8. -/
def TMG_SHIM (c i : Nat) : Nat := clBlk c 2 + 0x20000 + i * 4
/-- RO. -/
def TMG_SHIM_MOVING : Fld := ⟨31, 31⟩
/-- RW. -/
def TMG_SHIM_TARGET : Fld := ⟨24, 16⟩
/-- RO. -/
def TMG_SHIM_ACTIVE : Fld := ⟨8, 0⟩
/-- Table 3-9. -/
def TMG_TIA_CTRL (c i : Nat) : Nat := clBlk c 2 + 0x30000 + i * 32
/-- RW. -/
def TMG_TIA_CTRL_GATE : Fld := ⟨18, 18⟩
/-- RW. -/
def TMG_TIA_CTRL_STOP_EDGE : Fld := ⟨17, 16⟩
/-- RW. -/
def TMG_TIA_CTRL_STOP_SRC : Fld := ⟨15, 12⟩
/-- RW. -/
def TMG_TIA_CTRL_START_EDGE : Fld := ⟨9, 8⟩
/-- RW. -/
def TMG_TIA_CTRL_START_SRC : Fld := ⟨7, 4⟩
/-- RW. -/
def TMG_TIA_CTRL_MODE : Fld := ⟨1, 0⟩
/-- Table 3-10. -/
def TIA_RES0 (c i : Nat) : Nat := clBlk c 2 + 0x30004 + i * 32
/-- RO. -/
def TIA_RES0_LOW : Fld := ⟨31, 0⟩
/-- Table 3-10. -/
def TIA_RES1 (c i : Nat) : Nat := clBlk c 2 + 0x30008 + i * 32
/-- RO. -/
def TIA_RES1_HIGH : Fld := ⟨15, 0⟩
/-- Table 3-10. -/
def TIA_RES2 (c i : Nat) : Nat := clBlk c 2 + 0x3000c + i * 32
/-- RO. -/
def TIA_RES2_VALID : Fld := ⟨31, 31⟩
/-- RO. -/
def TIA_RES2_COINCIDENT : Fld := ⟨30, 30⟩
/-- RO. -/
def TIA_RES2_ORDER : Fld := ⟨29, 29⟩
/-- RO. -/
def TIA_RES2_SAT : Fld := ⟨28, 28⟩
/-- RO. -/
def TIA_RES2_WRAP : Fld := ⟨27, 27⟩
/-- RO. -/
def TIA_RES2_FALL : Fld := ⟨26, 26⟩
/-- RO. -/
def TIA_RES2_KERF : Fld := ⟨5, 0⟩
/-- Table 3-10. -/
def TIA_STAT (c i : Nat) : Nat := clBlk c 2 + 0x30010 + i * 32
/-- RC. -/
def TIA_STAT_DROP : Fld := ⟨31, 16⟩
/-- RO. -/
def TIA_STAT_LEVEL : Fld := ⟨6, 0⟩
/-- Table 4-2. -/
def FMT_SHAPE (c i : Nat) : Nat := clBlk c 3 + i * 4
/-- RW. -/
def FMT_SHAPE_SHAPE : Fld := ⟨31, 0⟩
/-- Table 4-4. -/
def FMT_VH (c i : Nat) : Nat := clBlk c 3 + 0x10000 + i * 16
/-- RW. -/
def FMT_VH_VH : Fld := ⟨15, 0⟩
/-- Table 4-4. -/
def FMT_VL (c i : Nat) : Nat := clBlk c 3 + 0x10004 + i * 16
/-- RW. -/
def FMT_VL_VL : Fld := ⟨15, 0⟩
/-- Table 4-4. -/
def FMT_VT (c i : Nat) : Nat := clBlk c 3 + 0x10008 + i * 16
/-- RW. -/
def FMT_VT_VT : Fld := ⟨15, 0⟩
/-- Table 4-4. -/
def FMT_TERM (c i : Nat) : Nat := clBlk c 3 + 0x1000c + i * 16
/-- RW. -/
def FMT_TERM_TERM_EN : Fld := ⟨0, 0⟩
/-- Table 4-5. -/
def FMT_STAT (c : Nat) : Nat := clBlk c 3 + 0x20000
/-- W1C. -/
def FMT_STAT_NOSOURCE : Fld := ⟨31, 16⟩
/-- W1C. -/
def FMT_STAT_BADCODE : Fld := ⟨15, 0⟩
/-- Table 4-6. -/
def SEG_SST_W0 (c i : Nat) : Nat := clBlk c 6 + i * 16
/-- RW. -/
def SEG_SST_W0_VALID : Fld := ⟨31, 31⟩
/-- RW. -/
def SEG_SST_W0_CODING : Fld := ⟨24, 24⟩
/-- RW. -/
def SEG_SST_W0_ANCHOR : Fld := ⟨21, 16⟩
/-- RW. -/
def SEG_SST_W0_START : Fld := ⟨15, 0⟩
/-- Table 4-6. -/
def SEG_SST_W1 (c i : Nat) : Nat := clBlk c 6 + 0x4 + i * 16
/-- RW. -/
def SEG_SST_W1_LENGTH : Fld := ⟨15, 0⟩
/-- Table 4-6. -/
def SEG_SST_W2 (c i : Nat) : Nat := clBlk c 6 + 0x8 + i * 16
/-- RW. -/
def SEG_SST_W2_FOREVER : Fld := ⟨31, 31⟩
/-- RW. -/
def SEG_SST_W2_REPEAT : Fld := ⟨15, 0⟩
/-- Table 4-6. -/
def SEG_SST_W3 (c i : Nat) : Nat := clBlk c 6 + 0xc + i * 16
/-- RW. -/
def SEG_SST_W3_END : Fld := ⟨31, 31⟩
/-- RW. -/
def SEG_SST_W3_ADV_COND : Fld := ⟨19, 16⟩
/-- RW. -/
def SEG_SST_W3_ALT : Fld := ⟨15, 8⟩
/-- RW. -/
def SEG_SST_W3_NEXT : Fld := ⟨7, 0⟩
/-- Table 4-7. -/
def SEG_PIN (c i : Nat) : Nat := clBlk c 6 + 0x10000 + i * 4
/-- RO. -/
def SEG_PIN_PLAYING : Fld := ⟨31, 31⟩
/-- RO. -/
def SEG_PIN_CUR_ENTRY : Fld := ⟨23, 16⟩
/-- RW. -/
def SEG_PIN_START_ENTRY : Fld := ⟨7, 0⟩
/-- Table 4-7. -/
def SEG_STAT (c : Nat) : Nat := clBlk c 6 + 0x20008
/-- W1C. -/
def SEG_STAT_INVALID : Fld := ⟨15, 0⟩
/-- Table 4-8. -/
def SEG_CODE_CMD (c : Nat) : Nat := clBlk c 6 + 0x20000
/-- WO. -/
def SEG_CODE_CMD_GO : Fld := ⟨31, 31⟩
/-- WO. -/
def SEG_CODE_CMD_ENTRY : Fld := ⟨7, 0⟩
/-- Table 4-8. -/
def SEG_CODE_STAT (c : Nat) : Nat := clBlk c 6 + 0x20004
/-- RO. -/
def SEG_CODE_STAT_BUSY : Fld := ⟨31, 31⟩
/-- W1C. -/
def SEG_CODE_STAT_DONE : Fld := ⟨30, 30⟩
/-- W1C. -/
def SEG_CODE_STAT_REFUSED : Fld := ⟨29, 29⟩
/-- RO. -/
def SEG_CODE_STAT_SAT_COUNT : Fld := ⟨20, 0⟩
/-- Table 5-1. -/
def CMP_VTH_H (c i : Nat) : Nat := clBlk c 4 + i * 16
/-- RW. -/
def CMP_VTH_H_VTH_H : Fld := ⟨15, 0⟩
/-- Table 5-1. -/
def CMP_VTH_L (c i : Nat) : Nat := clBlk c 4 + 0x4 + i * 16
/-- RW. -/
def CMP_VTH_L_VTH_L : Fld := ⟨15, 0⟩
/-- Table 5-1. -/
def CMP_DAC (c i : Nat) : Nat := clBlk c 4 + 0x8 + i * 16
/-- RO. -/
def CMP_DAC_CODE_H : Fld := ⟨25, 16⟩
/-- RO. -/
def CMP_DAC_CODE_L : Fld := ⟨9, 0⟩
/-- Table 5-4. -/
def CMP_FAIL_STICKY (c : Nat) : Nat := clBlk c 4 + 0x10000
/-- W1C. -/
def CMP_FAIL_STICKY_HF : Fld := ⟨31, 16⟩
/-- W1C. -/
def CMP_FAIL_STICKY_LF : Fld := ⟨15, 0⟩
/-- Table 5-4. -/
def CMP_FCNT (c i : Nat) : Nat := clBlk c 4 + 0x20000 + i * 4
/-- RC. -/
def CMP_FCNT_COUNT : Fld := ⟨31, 0⟩
/-- Table 5-6. -/
def CLP_VP_H (c i : Nat) : Nat := clBlk c 5 + i * 16
/-- RW. -/
def CLP_VP_H_VP_H : Fld := ⟨15, 0⟩
/-- Table 5-6. -/
def CLP_VP_L (c i : Nat) : Nat := clBlk c 5 + 0x4 + i * 16
/-- RW. -/
def CLP_VP_L_VP_L : Fld := ⟨15, 0⟩
/-- Table 5-6. -/
def CLP_DAC (c i : Nat) : Nat := clBlk c 5 + 0x8 + i * 16
/-- RO. -/
def CLP_DAC_CODE_H : Fld := ⟨25, 16⟩
/-- RO. -/
def CLP_DAC_CODE_L : Fld := ⟨9, 0⟩
/-- Table 5-6. -/
def CLP_CTRL (c i : Nat) : Nat := clBlk c 5 + 0xc + i * 16
/-- RW. -/
def CLP_CTRL_CLR_MODE : Fld := ⟨1, 1⟩
/-- RW. -/
def CLP_CTRL_EN : Fld := ⟨0, 0⟩
/-- Table 5-6. -/
def CLP_STAT (c : Nat) : Nat := clBlk c 5 + 0x10000
/-- W1C. -/
def CLP_STAT_TRIPPED : Fld := ⟨31, 16⟩
/-- W1C. -/
def CLP_STAT_LATCH : Fld := ⟨15, 0⟩
/-- Table 5-6. -/
def CLP_TRIP_CNT (c i : Nat) : Nat := clBlk c 5 + 0x20000 + i * 4
/-- RC. -/
def CLP_TRIP_CNT_COUNT : Fld := ⟨15, 0⟩
/-- Table 5-7. -/
def CMP_RB_SEL (c : Nat) : Nat := clBlk c 4 + 0x30000
/-- RW. -/
def CMP_RB_SEL_DAC : Fld := ⟨5, 4⟩
/-- RW. -/
def CMP_RB_SEL_UNIT : Fld := ⟨3, 0⟩
/-- Table 6-7. -/
def ENG_SERVE (c : Nat) : Nat := clBlk c 7
/-- RW. -/
def ENG_SERVE_SERVE : Fld := ⟨31, 0⟩
/-- Table 6-7. -/
def ENG_CTRL (c i : Nat) : Nat := clBlk c 7 + 0x10 + i * 4
/-- WO. -/
def ENG_CTRL_START : Fld := ⟨31, 31⟩
/-- RW. -/
def ENG_CTRL_VFORM : Fld := ⟨29, 29⟩
/-- RW. -/
def ENG_CTRL_LEAD : Fld := ⟨23, 16⟩
/-- RW. -/
def ENG_CTRL_START_ADDR : Fld := ⟨15, 0⟩
/-- Table 6-7. -/
def ENG_STAT (c i : Nat) : Nat := clBlk c 7 + 0x20 + i * 4
/-- RO. -/
def ENG_STAT_RUNNING : Fld := ⟨31, 31⟩
/-- RO. -/
def ENG_STAT_WAITING : Fld := ⟨30, 30⟩
/-- RO. -/
def ENG_STAT_BR_PEND : Fld := ⟨29, 29⟩
/-- W1C. -/
def ENG_STAT_NEST : Fld := ⟨28, 28⟩
/-- W1C. -/
def ENG_STAT_BADOP : Fld := ⟨27, 27⟩
/-- W1C. -/
def ENG_STAT_STACK : Fld := ⟨26, 26⟩
/-- W1C. -/
def ENG_STAT_VBAD : Fld := ⟨25, 25⟩
/-- W1C. -/
def ENG_STAT_SUBST_END : Fld := ⟨24, 24⟩
/-- RO. -/
def ENG_STAT_END_CODE : Fld := ⟨23, 16⟩
/-- RO. -/
def ENG_STAT_PC : Fld := ⟨15, 0⟩
/-- Table 6-7. -/
def ENG_CS_CMD (c : Nat) : Nat := clBlk c 7 + 0x30
/-- WO. -/
def ENG_CS_CMD_GO : Fld := ⟨31, 31⟩
/-- WO. -/
def ENG_CS_CMD_WR : Fld := ⟨30, 30⟩
/-- W1C. -/
def ENG_CS_CMD_REFUSED : Fld := ⟨29, 29⟩
/-- RO. -/
def ENG_CS_CMD_BUSY : Fld := ⟨28, 28⟩
/-- WO. -/
def ENG_CS_CMD_STORE : Fld := ⟨26, 24⟩
/-- WO. -/
def ENG_CS_CMD_ADDR : Fld := ⟨14, 0⟩
/-- Table 6-7. -/
def ENG_CS_DATA (c i : Nat) : Nat := clBlk c 7 + 0x34 + i * 4
/-- RW. -/
def ENG_CS_DATA_DATA : Fld := ⟨31, 0⟩
/-- Table 6-7. -/
def ENG_SEEK_LO (c i j : Nat) : Nat := clBlk c 7 + 0x10000 + i * 8192 + j * 8
/-- RW. -/
def ENG_SEEK_LO_VADDR_LO : Fld := ⟨31, 0⟩
/-- Table 6-7. -/
def ENG_SEEK_HI (c i j : Nat) : Nat := clBlk c 7 + 0x10004 + i * 8192 + j * 8
/-- RW. -/
def ENG_SEEK_HI_VADDR_HI : Fld := ⟨7, 0⟩
/-- Table 6-7. -/
def ENG_SUBST_LO (c i j : Nat) : Nat := clBlk c 7 + 0x20000 + i * 32 + j * 8
/-- RW. -/
def ENG_SUBST_LO_BIT_ADDR : Fld := ⟨22, 0⟩
/-- Table 6-7. -/
def ENG_SUBST_HI (c i j : Nat) : Nat := clBlk c 7 + 0x20004 + i * 32 + j * 8
/-- RW. -/
def ENG_SUBST_HI_UNIT_MASK : Fld := ⟨15, 0⟩
/-- Table 6-7. -/
def ENG_PM (c i : Nat) : Nat := clBlk c 7 + 0x30000 + i * 4
/-- RW. -/
def ENG_PM_EN : Fld := ⟨31, 31⟩
/-- RW. -/
def ENG_PM_ROM_ADDR : Fld := ⟨22, 8⟩
/-- RW. -/
def ENG_PM_PATCH_ADDR : Fld := ⟨7, 0⟩
/-- Table 6-7. -/
def ENG_FLAG_CL_SET (c : Nat) : Nat := clBlk c 7 + 0x40000
/-- W1S. -/
def ENG_FLAG_CL_SET_FLAG : Fld := ⟨7, 0⟩
/-- Table 6-7. -/
def ENG_FLAG_CL_CLR (c : Nat) : Nat := clBlk c 7 + 0x40004
/-- W1C. -/
def ENG_FLAG_CL_CLR_FLAG : Fld := ⟨7, 0⟩
/-- Table 6-7. -/
def ENG_FLAG_RG_SET (c i : Nat) : Nat := clBlk c 7 + 0x40010 + i * 4
/-- W1S. -/
def ENG_FLAG_RG_SET_FLAG : Fld := ⟨31, 0⟩
/-- Table 6-7. -/
def ENG_FLAG_RG_CLR (c i : Nat) : Nat := clBlk c 7 + 0x40020 + i * 4
/-- W1C. -/
def ENG_FLAG_RG_CLR_FLAG : Fld := ⟨31, 0⟩
/-- Table 6-7. -/
def ENG_FLAG_PKG_SET (c i : Nat) : Nat := clBlk c 7 + 0x40040 + i * 4
/-- W1S. -/
def ENG_FLAG_PKG_SET_FLAG : Fld := ⟨31, 0⟩
/-- Table 6-7. -/
def ENG_FLAG_PKG_CLR (c i : Nat) : Nat := clBlk c 7 + 0x40060 + i * 4
/-- W1C. -/
def ENG_FLAG_PKG_CLR_FLAG : Fld := ⟨31, 0⟩
/-- Table 6-7. -/
def ENG_FLAG_SYS_SET (c i : Nat) : Nat := clBlk c 7 + 0x40080 + i * 4
/-- W1S. -/
def ENG_FLAG_SYS_SET_FLAG : Fld := ⟨31, 0⟩
/-- Table 6-7. -/
def ENG_FLAG_SYS_CLR (c i : Nat) : Nat := clBlk c 7 + 0x40090 + i * 4
/-- W1C. -/
def ENG_FLAG_SYS_CLR_FLAG : Fld := ⟨31, 0⟩
/-- Table 6-7. -/
def ENG_DL_WAIT (c i : Nat) : Nat := clBlk c 7 + 0x50000 + i * 4
/-- RO. -/
def ENG_DL_WAIT_VALID : Fld := ⟨31, 31⟩
/-- RO. -/
def ENG_DL_WAIT_WAIT_SEL : Fld := ⟨30, 21⟩
/-- RO. -/
def ENG_DL_WAIT_ADDR : Fld := ⟨15, 0⟩
/-- Table 7-3. -/
def MEM_HBM_SHARE (r : Nat) : Nat := rgBlk r 2 + 0x80000
/-- RW. -/
def MEM_HBM_SHARE_ACQ : Fld := ⟨23, 16⟩
/-- RW. -/
def MEM_HBM_SHARE_FAIL : Fld := ⟨15, 8⟩
/-- RW. -/
def MEM_HBM_SHARE_VEC : Fld := ⟨7, 0⟩
/-- Table 7-3. -/
def MEM_VEC_RESV (r : Nat) : Nat := rgBlk r 2 + 0x80004
/-- RO. -/
def MEM_VEC_RESV_BYTES : Fld := ⟨20, 0⟩
/-- Table 7-3. -/
def MEM_RBUS_RESV (r : Nat) : Nat := rgBlk r 2 + 0x80008
/-- RO. -/
def MEM_RBUS_RESV_OPS : Fld := ⟨14, 0⟩
/-- Table 7-4. -/
def VNR_BUNDLE_LO (c : Nat) : Nat := clBlk c 8
/-- RW. -/
def VNR_BUNDLE_LO_ADDR_LO : Fld := ⟨31, 7⟩
/-- Table 7-4. -/
def VNR_BUNDLE_HI (c : Nat) : Nat := clBlk c 8 + 0x4
/-- RW. -/
def VNR_BUNDLE_HI_ADDR_HI : Fld := ⟨9, 0⟩
/-- Table 7-4. -/
def VNR_STAT (c : Nat) : Nat := clBlk c 8 + 0x10
/-- W1C. -/
def VNR_STAT_ADM_REFUSED : Fld := ⟨31, 31⟩
/-- W1C. -/
def VNR_STAT_MALFORMED : Fld := ⟨30, 30⟩
/-- RO. -/
def VNR_STAT_ADM_CAUSE : Fld := ⟨29, 27⟩
/-- RO. -/
def VNR_STAT_ADM_REGION : Fld := ⟨26, 24⟩
/-- RO. -/
def VNR_STAT_DICT_VALID : Fld := ⟨12, 12⟩
/-- RO. -/
def VNR_STAT_DICT_IMG : Fld := ⟨11, 0⟩
/-- Table 7-4. -/
def VNR_ERR_ADDR_LO (c : Nat) : Nat := clBlk c 8 + 0x14
/-- RO. -/
def VNR_ERR_ADDR_LO_ADDR_LO : Fld := ⟨31, 0⟩
/-- Table 7-4. -/
def VNR_ERR_ADDR_HI (c : Nat) : Nat := clBlk c 8 + 0x18
/-- RO. -/
def VNR_ERR_ADDR_HI_ADDR_HI : Fld := ⟨9, 0⟩
/-- Table 7-4. -/
def VNR_LINES (c : Nat) : Nat := clBlk c 8 + 0x20
/-- RC. -/
def VNR_LINES_LINES : Fld := ⟨31, 0⟩
/-- Table 8-4. -/
def SCR_CTRL (c : Nat) : Nat := clBlk c 9
/-- RW. -/
def SCR_CTRL_KSHIFT : Fld := ⟨13, 8⟩
/-- RW. -/
def SCR_CTRL_START_COUNTED : Fld := ⟨3, 3⟩
/-- RW. -/
def SCR_CTRL_POLICY : Fld := ⟨2, 2⟩
/-- RW. -/
def SCR_CTRL_MODE : Fld := ⟨1, 0⟩
/-- Table 8-4. -/
def SCR_WM (c : Nat) : Nat := clBlk c 9 + 0x4
/-- RW. -/
def SCR_WM_HIGH : Fld := ⟨31, 16⟩
/-- RW. -/
def SCR_WM_LOW : Fld := ⟨15, 0⟩
/-- Table 8-4. -/
def SCR_DRAIN (c : Nat) : Nat := clBlk c 9 + 0x8
/-- RW. -/
def SCR_DRAIN_DRAIN_EN : Fld := ⟨31, 31⟩
/-- RW. -/
def SCR_DRAIN_RING : Fld := ⟨15, 0⟩
/-- Table 8-4. -/
def SCR_WPTR (c : Nat) : Nat := clBlk c 9 + 0xc
/-- RO. -/
def SCR_WPTR_WPTR : Fld := ⟨31, 0⟩
/-- Table 8-4. -/
def SCR_RPTR (c : Nat) : Nat := clBlk c 9 + 0x10
/-- RW. -/
def SCR_RPTR_RPTR : Fld := ⟨31, 0⟩
/-- Table 8-4. -/
def SCR_STAT (c : Nat) : Nat := clBlk c 9 + 0x14
/-- RO. -/
def SCR_STAT_COUNTED_NOW : Fld := ⟨31, 31⟩
/-- W1C. -/
def SCR_STAT_COUNTED : Fld := ⟨30, 30⟩
/-- W1C. -/
def SCR_STAT_LOST : Fld := ⟨29, 29⟩
/-- W1C. -/
def SCR_STAT_SAT : Fld := ⟨28, 28⟩
/-- RO. -/
def SCR_STAT_FILL : Fld := ⟨16, 0⟩
/-- Table 8-4. -/
def SCR_LOST_TOTAL (c : Nat) : Nat := clBlk c 9 + 0x18
/-- RO. -/
def SCR_LOST_TOTAL_COUNT : Fld := ⟨31, 0⟩
/-- Table 8-4. -/
def SCR_FLUSH (c : Nat) : Nat := clBlk c 9 + 0x1c
/-- WO. -/
def SCR_FLUSH_FLUSH : Fld := ⟨0, 0⟩
/-- Table 8-4. -/
def SCR_LOST (c i : Nat) : Nat := clBlk c 9 + 0x100 + i * 4
/-- RO. -/
def SCR_LOST_COUNT : Fld := ⟨31, 0⟩
/-- Table 8-4. -/
def SCR_SIG (c i : Nat) : Nat := clBlk c 9 + 0x200 + i * 4
/-- RO. -/
def SCR_SIG_SIG : Fld := ⟨31, 0⟩
/-- Table 9-4. -/
def ACQ_CTRL (c i : Nat) : Nat := clBlk c 10 + i * 256
/-- WO. -/
def ACQ_CTRL_ARM : Fld := ⟨31, 31⟩
/-- WO. -/
def ACQ_CTRL_ABORT : Fld := ⟨30, 30⟩
/-- RW. -/
def ACQ_CTRL_REARM : Fld := ⟨29, 29⟩
/-- RW. -/
def ACQ_CTRL_AUTO : Fld := ⟨28, 28⟩
/-- RW. -/
def ACQ_CTRL_FLAG_EN : Fld := ⟨27, 27⟩
/-- RW. -/
def ACQ_CTRL_FLAG : Fld := ⟨26, 24⟩
/-- RW. -/
def ACQ_CTRL_DECIM : Fld := ⟨23, 20⟩
/-- RW. -/
def ACQ_CTRL_PHASE : Fld := ⟨17, 12⟩
/-- RW. -/
def ACQ_CTRL_SRC_UNIT : Fld := ⟨11, 8⟩
/-- RW. -/
def ACQ_CTRL_RED_EN : Fld := ⟨2, 0⟩
/-- Table 9-4. -/
def ACQ_TRIG (c i : Nat) : Nat := clBlk c 10 + 0x4 + i * 256
/-- RW. -/
def ACQ_TRIG_TYPE : Fld := ⟨31, 29⟩
/-- RW. -/
def ACQ_TRIG_POL : Fld := ⟨28, 28⟩
/-- RW. -/
def ACQ_TRIG_OUTSIDE : Fld := ⟨27, 27⟩
/-- RW. -/
def ACQ_TRIG_LEVEL_A : Fld := ⟨15, 8⟩
/-- RW. -/
def ACQ_TRIG_LEVEL_B : Fld := ⟨7, 0⟩
/-- Table 9-4. -/
def ACQ_TMIN (c i : Nat) : Nat := clBlk c 10 + 0x8 + i * 256
/-- RW. -/
def ACQ_TMIN_T_MIN : Fld := ⟨31, 0⟩
/-- Table 9-4. -/
def ACQ_TMAX (c i : Nat) : Nat := clBlk c 10 + 0xc + i * 256
/-- RW. -/
def ACQ_TMAX_T_MAX : Fld := ⟨31, 0⟩
/-- Table 9-4. -/
def ACQ_PRE (c i : Nat) : Nat := clBlk c 10 + 0x10 + i * 256
/-- RW. -/
def ACQ_PRE_PRE : Fld := ⟨16, 0⟩
/-- Table 9-4. -/
def ACQ_POST (c i : Nat) : Nat := clBlk c 10 + 0x14 + i * 256
/-- RW. -/
def ACQ_POST_POST_M1 : Fld := ⟨31, 0⟩
/-- Table 9-4. -/
def ACQ_AUTO (c i : Nat) : Nat := clBlk c 10 + 0x18 + i * 256
/-- RW. -/
def ACQ_AUTO_AUTO_TIMEOUT : Fld := ⟨31, 0⟩
/-- Table 9-4. -/
def ACQ_BLOCK (c i : Nat) : Nat := clBlk c 10 + 0x1c + i * 256
/-- RW. -/
def ACQ_BLOCK_MEAN_B : Fld := ⟨13, 8⟩
/-- RW. -/
def ACQ_BLOCK_MM_B : Fld := ⟨5, 0⟩
/-- Table 9-4. -/
def ACQ_RING (c i : Nat) : Nat := clBlk c 10 + 0x20 + i * 256
/-- RW. -/
def ACQ_RING_MM_RING : Fld := ⟨31, 16⟩
/-- RW. -/
def ACQ_RING_RAW_RING : Fld := ⟨15, 0⟩
/-- Table 9-4. -/
def ACQ_RING2 (c i : Nat) : Nat := clBlk c 10 + 0x24 + i * 256
/-- RW. -/
def ACQ_RING2_MEAN_RING : Fld := ⟨15, 0⟩
/-- Table 9-4. -/
def ACQ_RANGE (c i : Nat) : Nat := clBlk c 10 + 0x28 + i * 256
/-- RW. -/
def ACQ_RANGE_FS : Fld := ⟨17, 16⟩
/-- RW. -/
def ACQ_RANGE_CENTER : Fld := ⟨15, 0⟩
/-- Table 9-4. -/
def ACQ_STAT (c i : Nat) : Nat := clBlk c 10 + 0x30 + i * 256
/-- RO. -/
def ACQ_STAT_ARMED : Fld := ⟨31, 31⟩
/-- RO. -/
def ACQ_STAT_ACQUIRING : Fld := ⟨30, 30⟩
/-- RO. -/
def ACQ_STAT_PRE_FULL : Fld := ⟨29, 29⟩
/-- W1C. -/
def ACQ_STAT_OVF : Fld := ⟨28, 28⟩
/-- W1C. -/
def ACQ_STAT_GAP : Fld := ⟨27, 27⟩
/-- W1C. -/
def ACQ_STAT_FORCED : Fld := ⟨26, 26⟩
/-- W1C. -/
def ACQ_STAT_ARM_IGNORED : Fld := ⟨25, 25⟩
/-- W1C. -/
def ACQ_STAT_ABORTED : Fld := ⟨24, 24⟩
/-- RO. -/
def ACQ_STAT_RANGE_HELD : Fld := ⟨23, 23⟩
/-- RO. -/
def ACQ_STAT_SEQ : Fld := ⟨15, 0⟩
/-- Table 10-2. -/
def PMU_CTRL (c i : Nat) : Nat := clBlk c 11 + i * 16
/-- RW. -/
def PMU_CTRL_RANGE : Fld := ⟨7, 5⟩
/-- RW. -/
def PMU_CTRL_MODE : Fld := ⟨1, 0⟩
/-- Table 10-2. -/
def PMU_FORCE (c i : Nat) : Nat := clBlk c 11 + 0x4 + i * 16
/-- RW. -/
def PMU_FORCE_FORCE : Fld := ⟨15, 0⟩
/-- Table 10-2. -/
def PMU_PULSE (c i : Nat) : Nat := clBlk c 11 + 0x8 + i * 16
/-- RW. -/
def PMU_PULSE_WIDTH : Fld := ⟨31, 16⟩
/-- RW. -/
def PMU_PULSE_LEVEL : Fld := ⟨15, 0⟩
/-- Table 10-2. -/
def PMU_PULSE_CMD (c : Nat) : Nat := clBlk c 11 + 0x10000
/-- WO. -/
def PMU_PULSE_CMD_GO : Fld := ⟨15, 0⟩
/-- Table 10-6. -/
def ADC_CTRL (c : Nat) : Nat := clBlk c 12
/-- RW. -/
def ADC_CTRL_STAY_ON : Fld := ⟨30, 30⟩
/-- RW. -/
def ADC_CTRL_LOWPWR : Fld := ⟨29, 29⟩
/-- RW. -/
def ADC_CTRL_DMA_EN : Fld := ⟨28, 28⟩
/-- RW. -/
def ADC_CTRL_SRC : Fld := ⟨27, 26⟩
/-- RW. -/
def ADC_CTRL_PULSE_UNIT : Fld := ⟨25, 22⟩
/-- RW. -/
def ADC_CTRL_AVG_SHIFT : Fld := ⟨21, 18⟩
/-- RW. -/
def ADC_CTRL_CHAN : Fld := ⟨7, 0⟩
/-- Table 10-6. -/
def ADC_DELAY (c : Nat) : Nat := clBlk c 12 + 0x4
/-- RW. -/
def ADC_DELAY_DELAY : Fld := ⟨15, 0⟩
/-- Table 10-6. -/
def ADC_TIMER (c : Nat) : Nat := clBlk c 12 + 0x8
/-- RW. -/
def ADC_TIMER_PERIOD : Fld := ⟨31, 0⟩
/-- Table 10-6. -/
def ADC_CMD (c : Nat) : Nat := clBlk c 12 + 0xc
/-- WO. -/
def ADC_CMD_START : Fld := ⟨0, 0⟩
/-- Table 10-6. -/
def ADC_RESULT (c : Nat) : Nat := clBlk c 12 + 0x10
/-- RO. -/
def ADC_RESULT_ENTRY : Fld := ⟨31, 0⟩
/-- Table 10-6. -/
def ADC_QSTAT (c : Nat) : Nat := clBlk c 12 + 0x14
/-- RC. -/
def ADC_QSTAT_MISSED : Fld := ⟨31, 24⟩
/-- RC. -/
def ADC_QSTAT_DROP : Fld := ⟨23, 16⟩
/-- RO. -/
def ADC_QSTAT_LEVEL : Fld := ⟨8, 0⟩
/-- Table 10-6. -/
def ADC_DMA (c : Nat) : Nat := clBlk c 12 + 0x18
/-- RW. -/
def ADC_DMA_RING : Fld := ⟨15, 0⟩
/-- Table 10-6. -/
def ADC_STAT (c : Nat) : Nat := clBlk c 12 + 0x1c
/-- RO. -/
def ADC_STAT_BUSY : Fld := ⟨31, 31⟩
/-- RO. -/
def ADC_STAT_POWERED : Fld := ⟨30, 30⟩
/-- RO. -/
def ADC_STAT_PENDING : Fld := ⟨29, 29⟩
/-- Table 10-7. -/
def PC_CTRL (r : Nat) : Nat := rgBlk r 3
/-- RW. -/
def PC_CTRL_EN : Fld := ⟨31, 31⟩
/-- RW. -/
def PC_CTRL_NOTCH_BASE : Fld := ⟨30, 29⟩
/-- RW. -/
def PC_CTRL_NOTCH_MULT : Fld := ⟨28, 23⟩
/-- RW. -/
def PC_CTRL_ORDER : Fld := ⟨22, 21⟩
/-- RW. -/
def PC_CTRL_DECIM : Fld := ⟨20, 8⟩
/-- RW. -/
def PC_CTRL_CHAN : Fld := ⟨7, 0⟩
/-- Table 10-7. -/
def PC_INTERVAL (r : Nat) : Nat := rgBlk r 3 + 0x4
/-- RO. -/
def PC_INTERVAL_NOTCH_LIMIT : Fld := ⟨31, 31⟩
/-- RO. -/
def PC_INTERVAL_I : Fld := ⟨30, 0⟩
/-- Table 10-7. -/
def PC_LOWPWR (r : Nat) : Nat := rgBlk r 3 + 0x8
/-- RW. -/
def PC_LOWPWR_LOWPWR : Fld := ⟨0, 0⟩
/-- Table 10-7. -/
def PC_RESULT (r : Nat) : Nat := rgBlk r 3 + 0x10
/-- RO. -/
def PC_RESULT_ENTRY : Fld := ⟨31, 0⟩
/-- Table 10-7. -/
def PC_QSTAT (r : Nat) : Nat := rgBlk r 3 + 0x14
/-- RC. -/
def PC_QSTAT_MISSED : Fld := ⟨31, 24⟩
/-- RC. -/
def PC_QSTAT_DROP : Fld := ⟨23, 16⟩
/-- RO. -/
def PC_QSTAT_LEVEL : Fld := ⟨8, 0⟩
/-- Table 10-7. -/
def PC_DMA (r : Nat) : Nat := rgBlk r 3 + 0x18
/-- RW. -/
def PC_DMA_RING : Fld := ⟨15, 0⟩
/-- Table 11-3. -/
def CAL_CTRL (c : Nat) : Nat := clBlk c 13
/-- W1S. -/
def CAL_CTRL_REQ_T : Fld := ⟨31, 31⟩
/-- W1S. -/
def CAL_CTRL_REQ_DC : Fld := ⟨30, 30⟩
/-- RW. -/
def CAL_CTRL_TEMP_EN : Fld := ⟨10, 10⟩
/-- RW. -/
def CAL_CTRL_APPLY : Fld := ⟨9, 8⟩
/-- RW. -/
def CAL_CTRL_DELTA_T : Fld := ⟨5, 0⟩
/-- Table 11-3. -/
def CAL_STAT (c : Nat) : Nat := clBlk c 13 + 0x4
/-- RO. -/
def CAL_STAT_BUSY : Fld := ⟨31, 31⟩
/-- RO. -/
def CAL_STAT_KIND : Fld := ⟨30, 30⟩
/-- W1C. -/
def CAL_STAT_DISAGREE : Fld := ⟨29, 29⟩
/-- RO. -/
def CAL_STAT_UNVER_T : Fld := ⟨28, 28⟩
/-- RO. -/
def CAL_STAT_UNVER_DC : Fld := ⟨27, 27⟩
/-- RO. -/
def CAL_STAT_PEND_T : Fld := ⟨26, 26⟩
/-- RO. -/
def CAL_STAT_PEND_DC : Fld := ⟨25, 25⟩
/-- RO. -/
def CAL_STAT_DIS_KIND : Fld := ⟨20, 20⟩
/-- RO. -/
def CAL_STAT_DIS_UNIT : Fld := ⟨19, 16⟩
/-- Table 11-3. -/
def CAL_TREF (c : Nat) : Nat := clBlk c 13 + 0x8
/-- RO. -/
def CAL_TREF_T_REF_DC : Fld := ⟨27, 16⟩
/-- RO. -/
def CAL_TREF_T_REF_T : Fld := ⟨11, 0⟩
/-- Table 11-3. -/
def CAL_EXCL (c : Nat) : Nat := clBlk c 13 + 0xc
/-- RO. -/
def CAL_EXCL_RANGE : Fld := ⟨31, 16⟩
/-- RO. -/
def CAL_EXCL_EXCLUDED : Fld := ⟨15, 0⟩
/-- Table 11-3. -/
def CAL_INT_GT_LO (c : Nat) : Nat := clBlk c 13 + 0x10
/-- RO. -/
def CAL_INT_GT_LO_GT_LO : Fld := ⟨31, 0⟩
/-- Table 11-3. -/
def CAL_INT_GT_HI (c : Nat) : Nat := clBlk c 13 + 0x14
/-- RO. -/
def CAL_INT_GT_HI_GT_HI : Fld := ⟨31, 0⟩
/-- Table 11-3. -/
def CAL_COUNT (c : Nat) : Nat := clBlk c 13 + 0x18
/-- RO. -/
def CAL_COUNT_REJECT : Fld := ⟨31, 16⟩
/-- RO. -/
def CAL_COUNT_ACCEPT : Fld := ⟨15, 0⟩
/-- Table 11-3. -/
def CAL_TNOW (c : Nat) : Nat := clBlk c 13 + 0x1c
/-- RO. -/
def CAL_TNOW_T_NOW : Fld := ⟨11, 0⟩
/-- Table 11-3. -/
def CAL_QUAL (c i : Nat) : Nat := clBlk c 13 + 0x100 + i * 4
/-- RO. -/
def CAL_QUAL_RESID_DC : Fld := ⟨31, 24⟩
/-- RO. -/
def CAL_QUAL_RESID_T : Fld := ⟨23, 16⟩
/-- RO. -/
def CAL_QUAL_EYE : Fld := ⟨6, 0⟩
/-- Table 11-4. -/
def CAL_REF_CTRL : Nat := 0x3f208000000
/-- RO. -/
def CAL_REF_CTRL_AUTO_T : Fld := ⟨31, 31⟩
/-- RO. -/
def CAL_REF_CTRL_AUTO_V : Fld := ⟨30, 30⟩
/-- RW. -/
def CAL_REF_CTRL_VSEL : Fld := ⟨0, 0⟩
/-- Table 11-4. -/
def CAL_TOL : Nat := 0x3f208000004
/-- RW. -/
def CAL_TOL_TOL_DC : Fld := ⟨15, 8⟩
/-- RW. -/
def CAL_TOL_TOL_T : Fld := ⟨7, 0⟩
/-- Table 11-4. -/
def CAL_LIM_T : Nat := 0x3f208000008
/-- RW. -/
def CAL_LIM_T_TOL_F : Fld := ⟨31, 16⟩
/-- RW. -/
def CAL_LIM_T_SLOPE_F : Fld := ⟨15, 0⟩
/-- Table 11-4. -/
def CAL_LIM_V : Nat := 0x3f20800000c
/-- RW. -/
def CAL_LIM_V_TOL_V : Fld := ⟨31, 16⟩
/-- RW. -/
def CAL_LIM_V_SLOPE_V : Fld := ⟨15, 0⟩
/-- Table 11-4. -/
def CAL_REF_STAT : Nat := 0x3f208000010
/-- W1C. -/
def CAL_REF_STAT_SUSPECT_T : Fld := ⟨31, 31⟩
/-- RO. -/
def CAL_REF_STAT_FAIL_T : Fld := ⟨30, 30⟩
/-- RO. -/
def CAL_REF_STAT_STOP_T : Fld := ⟨29, 29⟩
/-- W1C. -/
def CAL_REF_STAT_FAILOVER_T : Fld := ⟨28, 28⟩
/-- W1C. -/
def CAL_REF_STAT_SUSPECT_V : Fld := ⟨27, 27⟩
/-- RO. -/
def CAL_REF_STAT_FAIL_V : Fld := ⟨26, 26⟩
/-- RO. -/
def CAL_REF_STAT_STOP_V : Fld := ⟨25, 25⟩
/-- W1C. -/
def CAL_REF_STAT_FAILOVER_V : Fld := ⟨24, 24⟩
/-- RO. -/
def CAL_REF_STAT_HFILL : Fld := ⟨5, 0⟩
/-- Table 11-4. -/
def CAL_HIST (i j k : Nat) : Nat := hubBlk 8 + 0x1000 + i * 256 + j * 128 + k * 4
/-- RO. -/
def CAL_HIST_DEV : Fld := ⟨31, 0⟩
/-- Table 12-4. -/
def MEM_SCRUB_CTRL (r : Nat) : Nat := rgBlk r 2
/-- RW. -/
def MEM_SCRUB_CTRL_EN : Fld := ⟨31, 31⟩
/-- RW. -/
def MEM_SCRUB_CTRL_INTERVAL : Fld := ⟨15, 0⟩
/-- Table 12-4. -/
def MEM_CE_COUNT (r : Nat) : Nat := rgBlk r 2 + 0x4
/-- RC. -/
def MEM_CE_COUNT_COUNT : Fld := ⟨31, 0⟩
/-- Table 12-4. -/
def MEM_BT_CTRL (r : Nat) : Nat := rgBlk r 2 + 0x10
/-- RW. -/
def MEM_BT_CTRL_EN : Fld := ⟨31, 31⟩
/-- RW. -/
def MEM_BT_CTRL_INTERVAL : Fld := ⟨15, 0⟩
/-- Table 12-4. -/
def MEM_BT_STAT (r : Nat) : Nat := rgBlk r 2 + 0x14
/-- RO. -/
def MEM_BT_STAT_BUSY : Fld := ⟨31, 31⟩
/-- W1C. -/
def MEM_BT_STAT_NOSPARE : Fld := ⟨30, 30⟩
/-- RO. -/
def MEM_BT_STAT_BLOCKS : Fld := ⟨29, 0⟩
/-- Table 12-4. -/
def MEM_PPR_CMD (r : Nat) : Nat := rgBlk r 2 + 0x20
/-- WO. -/
def MEM_PPR_CMD_GO : Fld := ⟨31, 31⟩
/-- WO. -/
def MEM_PPR_CMD_HARD : Fld := ⟨30, 30⟩
/-- WO. -/
def MEM_PPR_CMD_ADDR : Fld := ⟨29, 0⟩
/-- Table 12-4. -/
def MEM_PPR_STAT (r : Nat) : Nat := rgBlk r 2 + 0x24
/-- RO. -/
def MEM_PPR_STAT_BUSY : Fld := ⟨31, 31⟩
/-- W1C. -/
def MEM_PPR_STAT_DONE : Fld := ⟨30, 30⟩
/-- W1C. -/
def MEM_PPR_STAT_REFUSED : Fld := ⟨29, 29⟩
/-- W1C. -/
def MEM_PPR_STAT_NORES : Fld := ⟨28, 28⟩
/-- Table 12-4. -/
def MEM_ERR_HEAD (r : Nat) : Nat := rgBlk r 2 + 0x100
/-- RO. -/
def MEM_ERR_HEAD_HEAD : Fld := ⟨31, 0⟩
/-- Table 12-4. -/
def MEM_ERR_LOG_W0 (r i : Nat) : Nat := rgBlk r 2 + 0x110 + i * 16
/-- RO. -/
def MEM_ERR_LOG_W0_ADDR_LO : Fld := ⟨31, 0⟩
/-- Table 12-4. -/
def MEM_ERR_LOG_W1 (r i : Nat) : Nat := rgBlk r 2 + 0x114 + i * 16
/-- RO. -/
def MEM_ERR_LOG_W1_OUTCOME : Fld := ⟨31, 28⟩
/-- RO. -/
def MEM_ERR_LOG_W1_SRC : Fld := ⟨27, 26⟩
/-- RO. -/
def MEM_ERR_LOG_W1_ADDR_HI : Fld := ⟨9, 0⟩
/-- Table 12-4. -/
def MEM_ERR_LOG_W2 (r i : Nat) : Nat := rgBlk r 2 + 0x118 + i * 16
/-- Table 12-4. -/
def MEM_ERR_LOG_W3 (r i : Nat) : Nat := rgBlk r 2 + 0x11c + i * 16
/-- Table 12-4. -/
def MEM_PAT_W0 (r i : Nat) : Nat := rgBlk r 2 + 0x10000 + i * 32
/-- RW. -/
def MEM_PAT_W0_BASE_LO : Fld := ⟨31, 0⟩
/-- Table 12-4. -/
def MEM_PAT_W1 (r i : Nat) : Nat := rgBlk r 2 + 0x10004 + i * 32
/-- RW. -/
def MEM_PAT_W1_VALID : Fld := ⟨31, 31⟩
/-- RW. -/
def MEM_PAT_W1_MIRROR_EN : Fld := ⟨30, 30⟩
/-- RO. -/
def MEM_PAT_W1_DAMAGED : Fld := ⟨29, 29⟩
/-- RO. -/
def MEM_PAT_W1_MIRROR_BAD : Fld := ⟨28, 28⟩
/-- RW. -/
def MEM_PAT_W1_BASE_HI : Fld := ⟨9, 0⟩
/-- Table 12-4. -/
def MEM_PAT_W2 (r i : Nat) : Nat := rgBlk r 2 + 0x10008 + i * 32
/-- RW. -/
def MEM_PAT_W2_LENGTH : Fld := ⟨31, 0⟩
/-- Table 12-4. -/
def MEM_PAT_W3 (r i : Nat) : Nat := rgBlk r 2 + 0x1000c + i * 32
/-- RW. -/
def MEM_PAT_W3_MIRROR_LO : Fld := ⟨31, 0⟩
/-- Table 12-4. -/
def MEM_PAT_W4 (r i : Nat) : Nat := rgBlk r 2 + 0x10010 + i * 32
/-- RW. -/
def MEM_PAT_W4_MIRROR_HI : Fld := ⟨9, 0⟩
/-- Table 12-5. -/
def SEC_STAT : Nat := 0x3f206000000
/-- RO. -/
def SEC_STAT_LC : Fld := ⟨31, 30⟩
/-- RO. -/
def SEC_STAT_WIPING : Fld := ⟨29, 29⟩
/-- W1C. -/
def SEC_STAT_TAMPERED : Fld := ⟨28, 28⟩
/-- RO. -/
def SEC_STAT_TAMPER_NOW : Fld := ⟨27, 27⟩
/-- RO. -/
def SEC_STAT_WIPES : Fld := ⟨15, 0⟩
/-- Table 12-5. -/
def SEC_CTRL : Nat := 0x3f206000004
/-- WO. -/
def SEC_CTRL_WIPE : Fld := ⟨0, 0⟩
/-- Table 12-6. -/
def MEM_CL_CE (c : Nat) : Nat := clBlk c 14
/-- RC. -/
def MEM_CL_CE_COUNT : Fld := ⟨31, 0⟩
/-- Table 12-6. -/
def MEM_CL_UE (c : Nat) : Nat := clBlk c 14 + 0x4
/-- RC. -/
def MEM_CL_UE_COUNT : Fld := ⟨31, 0⟩
/-- Table 12-6. -/
def MEM_CL_SPARE_LO (c : Nat) : Nat := clBlk c 14 + 0x8
/-- RO. -/
def MEM_CL_SPARE_LO_USED : Fld := ⟨31, 0⟩
/-- Table 12-6. -/
def MEM_CL_SPARE_HI (c : Nat) : Nat := clBlk c 14 + 0xc
/-- RO. -/
def MEM_CL_SPARE_HI_USED : Fld := ⟨31, 0⟩
/-- Table 12-6. -/
def MEM_CL_MEMTEST (c : Nat) : Nat := clBlk c 14 + 0x10
/-- RO. -/
def MEM_CL_MEMTEST_BUSY : Fld := ⟨31, 31⟩
/-- W1C. -/
def MEM_CL_MEMTEST_NOSPARE : Fld := ⟨30, 30⟩
/-- RO. -/
def MEM_CL_MEMTEST_BLOCKS : Fld := ⟨10, 0⟩
/-- Table 13-2. -/
def DMA_CH_CTRL (r i : Nat) : Nat := rgBlk r 1 + 0x1000 + i * 16
/-- RW. -/
def DMA_CH_CTRL_EN : Fld := ⟨31, 31⟩
/-- RW. -/
def DMA_CH_CTRL_PACE : Fld := ⟨4, 4⟩
/-- RW. -/
def DMA_CH_CTRL_PRIO : Fld := ⟨2, 0⟩
/-- Table 13-2. -/
def DMA_CH_STAT (r i : Nat) : Nat := rgBlk r 1 + 0x1004 + i * 16
/-- RO. -/
def DMA_CH_STAT_BUSY : Fld := ⟨31, 31⟩
/-- RO. -/
def DMA_CH_STAT_PREEMPTED : Fld := ⟨30, 30⟩
/-- RO. -/
def DMA_CH_STAT_RING : Fld := ⟨5, 0⟩
/-- Table 13-2. -/
def RING_BASE_LO (r i : Nat) : Nat := rgBlk r 1 + 0x20000 + i * 16
/-- RW. -/
def RING_BASE_LO_BASE_LO : Fld := ⟨31, 6⟩
/-- Table 13-2. -/
def RING_CFG (r i : Nat) : Nat := rgBlk r 1 + 0x20004 + i * 16
/-- RW. -/
def RING_CFG_EN : Fld := ⟨31, 31⟩
/-- RO. -/
def RING_CFG_ALLOC : Fld := ⟨30, 30⟩
/-- RW. -/
def RING_CFG_KIND : Fld := ⟨29, 29⟩
/-- RW. -/
def RING_CFG_SIZE_LOG2 : Fld := ⟨23, 20⟩
/-- RW. -/
def RING_CFG_EVT_PORT : Fld := ⟨19, 17⟩
/-- RW. -/
def RING_CFG_BASE_HI : Fld := ⟨13, 0⟩
/-- Table 13-2. -/
def RING_PTR (r i : Nat) : Nat := rgBlk r 1 + 0x20008 + i * 16
/-- RW. -/
def RING_PTR_TAIL : Fld := ⟨31, 16⟩
/-- RO. -/
def RING_PTR_HEAD : Fld := ⟨15, 0⟩
/-- Table 13-2. -/
def RING_STAT (r i : Nat) : Nat := rgBlk r 1 + 0x2000c + i * 16
/-- RO. -/
def RING_STAT_REQ : Fld := ⟨31, 31⟩
/-- RO. -/
def RING_STAT_STARVED : Fld := ⟨30, 30⟩
/-- RO. -/
def RING_STAT_STOPPED : Fld := ⟨29, 29⟩
/-- RO. -/
def RING_STAT_NOBUF : Fld := ⟨28, 28⟩
/-- RO. -/
def RING_STAT_CODE : Fld := ⟨23, 16⟩
/-- RC. -/
def RING_STAT_DONE : Fld := ⟨15, 0⟩
/-- Table 13-2. -/
def DMA_ALLOC (r : Nat) : Nat := rgBlk r 1 + 0x40000
/-- RO. -/
def DMA_ALLOC_CODE : Fld := ⟨31, 24⟩
/-- RO. -/
def DMA_ALLOC_RING : Fld := ⟨15, 0⟩
/-- Table 13-2. -/
def DMA_FREE (r : Nat) : Nat := rgBlk r 1 + 0x40004
/-- WO. -/
def DMA_FREE_RING : Fld := ⟨15, 0⟩
/-- Table 13-2. -/
def DMA_POOL_BASE_LO (r : Nat) : Nat := rgBlk r 1 + 0x40010
/-- RW. -/
def DMA_POOL_BASE_LO_BASE_LO : Fld := ⟨31, 8⟩
/-- Table 13-2. -/
def DMA_POOL_BASE_HI (r : Nat) : Nat := rgBlk r 1 + 0x40014
/-- RW. -/
def DMA_POOL_BASE_HI_BASE_HI : Fld := ⟨9, 0⟩
/-- Table 13-2. -/
def DMA_POOL_CFG (r : Nat) : Nat := rgBlk r 1 + 0x40018
/-- RW. -/
def DMA_POOL_CFG_POOL_LOG2 : Fld := ⟨19, 16⟩
/-- RW. -/
def DMA_POOL_CFG_COUNT : Fld := ⟨12, 0⟩
/-- Table 13-2. -/
def DMA_POOL_TAKE (r : Nat) : Nat := rgBlk r 1 + 0x4001c
/-- RO. -/
def DMA_POOL_TAKE_CODE : Fld := ⟨31, 24⟩
/-- RO. -/
def DMA_POOL_TAKE_INDEX : Fld := ⟨11, 0⟩
/-- Table 13-2. -/
def DMA_POOL_PUT (r : Nat) : Nat := rgBlk r 1 + 0x40020
/-- WO. -/
def DMA_POOL_PUT_INDEX : Fld := ⟨11, 0⟩
/-- Table 13-2. -/
def DMA_POOL_STAT (r : Nat) : Nat := rgBlk r 1 + 0x40024
/-- RC. -/
def DMA_POOL_STAT_NOBUF : Fld := ⟨31, 16⟩
/-- RO. -/
def DMA_POOL_STAT_FREE : Fld := ⟨12, 0⟩
/-- Table 14-6. -/
def FLW_CTRL (i : Nat) : Nat := hubBlk 1 + i * 64
/-- WO. -/
def FLW_CTRL_GO : Fld := ⟨31, 31⟩
/-- WO. -/
def FLW_CTRL_CONT : Fld := ⟨30, 30⟩
/-- RW. -/
def FLW_CTRL_SYS_REPORT : Fld := ⟨29, 29⟩
/-- RW. -/
def FLW_CTRL_START_SRC : Fld := ⟨9, 8⟩
/-- RW. -/
def FLW_CTRL_START_FLAG : Fld := ⟨7, 0⟩
/-- Table 14-6. -/
def FLW_TABLE_LO (i : Nat) : Nat := hubBlk 1 + 0x4 + i * 64
/-- RW. -/
def FLW_TABLE_LO_BASE : Fld := ⟨31, 6⟩
/-- Table 14-6. -/
def FLW_TABLE_HI (i : Nat) : Nat := hubBlk 1 + 0x8 + i * 64
/-- RW. -/
def FLW_TABLE_HI_BASE : Fld := ⟨9, 0⟩
/-- Table 14-6. -/
def FLW_RETEST (i : Nat) : Nat := hubBlk 1 + 0xc + i * 64
/-- RW. -/
def FLW_RETEST_RETEST_MASK : Fld := ⟨31, 0⟩
/-- Table 14-6. -/
def FLW_CFG (i : Nat) : Nat := hubBlk 1 + 0x10 + i * 64
/-- RW. -/
def FLW_CFG_RETEST_MAX : Fld := ⟨27, 24⟩
/-- RW. -/
def FLW_CFG_ERR_HBIN : Fld := ⟨20, 16⟩
/-- RW. -/
def FLW_CFG_ERR_SBIN : Fld := ⟨9, 0⟩
/-- Table 14-6. -/
def FLW_STAT (i : Nat) : Nat := hubBlk 1 + 0x14 + i * 64
/-- RO. -/
def FLW_STAT_RUNNING : Fld := ⟨31, 31⟩
/-- RO. -/
def FLW_STAT_LOGWAIT : Fld := ⟨30, 30⟩
/-- RO. -/
def FLW_STAT_ENTRY : Fld := ⟨15, 0⟩
/-- Table 14-6. -/
def FLW_INSERT (i : Nat) : Nat := hubBlk 1 + 0x18 + i * 64
/-- RO. -/
def FLW_INSERT_COUNT : Fld := ⟨31, 0⟩
/-- Table 14-6. -/
def FLW_SITE_W0 (i : Nat) : Nat := hubBlk 1 + 0x1000 + i * 32
/-- RW. -/
def FLW_SITE_W0_CL_MASK : Fld := ⟨31, 0⟩
/-- Table 14-6. -/
def FLW_SITE_W1 (i : Nat) : Nat := hubBlk 1 + 0x1004 + i * 32
/-- RW. -/
def FLW_SITE_W1_CL_MASK : Fld := ⟨31, 0⟩
/-- Table 14-6. -/
def FLW_SITE_CFG (i : Nat) : Nat := hubBlk 1 + 0x1008 + i * 32
/-- RW. -/
def FLW_SITE_CFG_EN : Fld := ⟨31, 31⟩
/-- RW. -/
def FLW_SITE_CFG_ENGINE : Fld := ⟨2, 0⟩
/-- Table 14-6. -/
def FLW_SITE_STAT (i : Nat) : Nat := hubBlk 1 + 0x100c + i * 32
/-- RO. -/
def FLW_SITE_STAT_DONE : Fld := ⟨31, 31⟩
/-- RO. -/
def FLW_SITE_STAT_FAIL : Fld := ⟨30, 30⟩
/-- RO. -/
def FLW_SITE_STAT_BINNED : Fld := ⟨29, 29⟩
/-- RO. -/
def FLW_SITE_STAT_RETESTS : Fld := ⟨28, 25⟩
/-- RO. -/
def FLW_SITE_STAT_HBIN : Fld := ⟨24, 20⟩
/-- RO. -/
def FLW_SITE_STAT_SBIN : Fld := ⟨19, 10⟩
/-- RO. -/
def FLW_SITE_STAT_ERR : Fld := ⟨7, 0⟩
/-- Table 14-6. -/
def FLW_VAL_LO (i j : Nat) : Nat := hubBlk 1 + 0x10000 + i * 128 + j * 8
/-- RW. -/
def FLW_VAL_LO_VAL : Fld := ⟨31, 0⟩
/-- Table 14-6. -/
def FLW_VAL_HI (i j : Nat) : Nat := hubBlk 1 + 0x10004 + i * 128 + j * 8
/-- RW. -/
def FLW_VAL_HI_VAL : Fld := ⟨31, 0⟩
/-- Table 14-6. -/
def FLW_HBIN_CNT (i : Nat) : Nat := hubBlk 1 + 0x20000 + i * 4
/-- RC. -/
def FLW_HBIN_CNT_COUNT : Fld := ⟨31, 0⟩
/-- Table 14-6. -/
def FLW_SBIN_CNT (i : Nat) : Nat := hubBlk 1 + 0x21000 + i * 4
/-- RC. -/
def FLW_SBIN_CNT_COUNT : Fld := ⟨31, 0⟩
/-- Table 14-6. -/
def FLW_LOG_BASE_LO : Nat := 0x3f201030000
/-- RW. -/
def FLW_LOG_BASE_LO_BASE : Fld := ⟨31, 4⟩
/-- Table 14-6. -/
def FLW_LOG_BASE_HI : Nat := 0x3f201030004
/-- RW. -/
def FLW_LOG_BASE_HI_BASE : Fld := ⟨9, 0⟩
/-- Table 14-6. -/
def FLW_LOG_CFG : Nat := 0x3f201030008
/-- RW. -/
def FLW_LOG_CFG_POLICY : Fld := ⟨31, 31⟩
/-- RW. -/
def FLW_LOG_CFG_SIZE_LOG2 : Fld := ⟨4, 0⟩
/-- Table 14-6. -/
def FLW_LOG_WPTR : Nat := 0x3f20103000c
/-- RO. -/
def FLW_LOG_WPTR_WPTR : Fld := ⟨31, 0⟩
/-- Table 14-6. -/
def FLW_LOG_RPTR : Nat := 0x3f201030010
/-- RW. -/
def FLW_LOG_RPTR_RPTR : Fld := ⟨31, 0⟩
/-- Table 14-6. -/
def FLW_LOG_SEQ : Nat := 0x3f201030014
/-- RO. -/
def FLW_LOG_SEQ_SEQ : Fld := ⟨31, 0⟩
/-- Table 14-6. -/
def FLW_LOG_STAT : Nat := 0x3f201030018
/-- RO. -/
def FLW_LOG_STAT_EPOCH : Fld := ⟨31, 24⟩
/-- RC. -/
def FLW_LOG_STAT_DROP : Fld := ⟨15, 0⟩
/-- Table 14-6. -/
def BNC_STAT : Nat := 0x3f202000000
/-- RO. -/
def BNC_STAT_WAITING : Fld := ⟨8, 0⟩
/-- Table 15-5. -/
def MOD_REQ (c : Nat) : Nat := clBlk c 1
/-- RW. -/
def MOD_REQ_REQ : Fld := ⟨5, 0⟩
/-- Table 15-5. -/
def MOD_ACTIVE (c : Nat) : Nat := clBlk c 1 + 0x4
/-- RO. -/
def MOD_ACTIVE_PENDING : Fld := ⟨21, 16⟩
/-- RO. -/
def MOD_ACTIVE_STOPPING : Fld := ⟨13, 8⟩
/-- RO. -/
def MOD_ACTIVE_ACTIVE : Fld := ⟨5, 0⟩
/-- Table 15-5. -/
def MOD_SVC_CMD (c : Nat) : Nat := clBlk c 1 + 0x8
/-- WO. -/
def MOD_SVC_CMD_GO : Fld := ⟨31, 31⟩
/-- WO. -/
def MOD_SVC_CMD_CUT : Fld := ⟨30, 30⟩
/-- WO. -/
def MOD_SVC_CMD_RESUME : Fld := ⟨13, 8⟩
/-- WO. -/
def MOD_SVC_CMD_OP : Fld := ⟨2, 0⟩
/-- Table 15-5. -/
def MOD_SVC_STAT (c : Nat) : Nat := clBlk c 1 + 0xc
/-- RO. -/
def MOD_SVC_STAT_BUSY : Fld := ⟨31, 31⟩
/-- RO. -/
def MOD_SVC_STAT_DRAINED : Fld := ⟨30, 30⟩
/-- W1C. -/
def MOD_SVC_STAT_DONE : Fld := ⟨29, 29⟩
/-- W1C. -/
def MOD_SVC_STAT_REFUSED : Fld := ⟨28, 28⟩
/-- W1C. -/
def MOD_SVC_STAT_FAILED : Fld := ⟨27, 27⟩
/-- RO. -/
def MOD_SVC_STAT_BANK : Fld := ⟨26, 26⟩
/-- RO. -/
def MOD_SVC_STAT_CODE : Fld := ⟨23, 16⟩
/-- RO. -/
def MOD_SVC_STAT_OP : Fld := ⟨2, 0⟩
/-- Table 15-5. -/
def MOD_DRAIN_GT_LO (c : Nat) : Nat := clBlk c 1 + 0x10
/-- RO. -/
def MOD_DRAIN_GT_LO_GT_LO : Fld := ⟨31, 0⟩
/-- Table 15-5. -/
def MOD_DRAIN_GT_HI (c : Nat) : Nat := clBlk c 1 + 0x14
/-- RO. -/
def MOD_DRAIN_GT_HI_GT_HI : Fld := ⟨31, 0⟩
/-- Table 16-6. -/
def BOOT_STAT : Nat := 0x3f203000000
/-- RO. -/
def BOOT_STAT_DONE : Fld := ⟨31, 31⟩
/-- RO. -/
def BOOT_STAT_FAILED : Fld := ⟨30, 30⟩
/-- RO. -/
def BOOT_STAT_BOOTING : Fld := ⟨29, 29⟩
/-- RO. -/
def BOOT_STAT_ACTIVE_BANK : Fld := ⟨28, 28⟩
/-- RO. -/
def BOOT_STAT_FALLBACK : Fld := ⟨27, 27⟩
/-- W1C. -/
def BOOT_STAT_REPAIR_FULL : Fld := ⟨26, 26⟩
/-- RO. -/
def BOOT_STAT_ACTIVATING : Fld := ⟨25, 25⟩
/-- W1C. -/
def BOOT_STAT_ACT_FAILED : Fld := ⟨24, 24⟩
/-- RO. -/
def BOOT_STAT_SECTION : Fld := ⟨23, 20⟩
/-- RO. -/
def BOOT_STAT_CAUSE : Fld := ⟨19, 16⟩
/-- Table 16-6. -/
def BOOT_GEN : Nat := 0x3f203000004
/-- RO. -/
def BOOT_GEN_GENERATION : Fld := ⟨31, 0⟩
/-- Table 16-6. -/
def BOOT_CTRL : Nat := 0x3f203000008
/-- WO. -/
def BOOT_CTRL_REBOOT : Fld := ⟨31, 31⟩
/-- WO. -/
def BOOT_CTRL_ACT_HUB : Fld := ⟨30, 30⟩
/-- Table 16-6. -/
def BOOT_FL_CMD : Nat := 0x3f203000010
/-- WO. -/
def BOOT_FL_CMD_GO : Fld := ⟨31, 31⟩
/-- WO. -/
def BOOT_FL_CMD_OP : Fld := ⟨30, 29⟩
/-- RO. -/
def BOOT_FL_CMD_BUSY : Fld := ⟨28, 28⟩
/-- W1C. -/
def BOOT_FL_CMD_REFUSED : Fld := ⟨27, 27⟩
/-- W1C. -/
def BOOT_FL_CMD_ERROR : Fld := ⟨26, 26⟩
/-- Table 16-6. -/
def BOOT_FL_ADDR : Nat := 0x3f203000014
/-- RW. -/
def BOOT_FL_ADDR_ADDR : Fld := ⟨30, 0⟩
/-- Table 16-6. -/
def BOOT_LC_CMD : Nat := 0x3f203000020
/-- WO. -/
def BOOT_LC_CMD_GO : Fld := ⟨31, 31⟩
/-- RO. -/
def BOOT_LC_CMD_BUSY : Fld := ⟨30, 30⟩
/-- W1C. -/
def BOOT_LC_CMD_REFUSED : Fld := ⟨29, 29⟩
/-- WO. -/
def BOOT_LC_CMD_TARGET : Fld := ⟨17, 16⟩
/-- WO. -/
def BOOT_LC_CMD_CONFIRM : Fld := ⟨15, 0⟩
/-- Table 16-6. -/
def BOOT_FL_DATA (i : Nat) : Nat := hubBlk 3 + 0x100 + i * 4
/-- RW. -/
def BOOT_FL_DATA_DATA : Fld := ⟨31, 0⟩
/-- Table 17-2. -/
def PRT_VLOG_E0 (i : Nat) : Nat := hubBlk 4 + 0x100100 + i * 32
/-- RO. -/
def PRT_VLOG_E0_CAUSE : Fld := ⟨31, 24⟩
/-- RO. -/
def PRT_VLOG_E0_PORT : Fld := ⟨23, 20⟩
/-- RO. -/
def PRT_VLOG_E0_PKG : Fld := ⟨19, 16⟩
/-- RO. -/
def PRT_VLOG_E0_INST : Fld := ⟨15, 0⟩
/-- Table 17-2. -/
def PRT_VLOG_E1 (i : Nat) : Nat := hubBlk 4 + 0x100104 + i * 32
/-- RO. -/
def PRT_VLOG_E1_ADDR_LO : Fld := ⟨31, 0⟩
/-- Table 17-2. -/
def PRT_VLOG_E2 (i : Nat) : Nat := hubBlk 4 + 0x100108 + i * 32
/-- RO. -/
def PRT_VLOG_E2_ADDR_HI : Fld := ⟨9, 0⟩
/-- Table 17-2. -/
def PRT_VLOG_E3 (i : Nat) : Nat := hubBlk 4 + 0x10010c + i * 32
/-- Table 17-2. -/
def PRT_VLOG_E4 (i : Nat) : Nat := hubBlk 4 + 0x100110 + i * 32
/-- Table 17-2. -/
def PRT_VLOG_E5 (i : Nat) : Nat := hubBlk 4 + 0x100114 + i * 32
/-- Table 17-2. -/
def PRT_VLOG_E6 (i : Nat) : Nat := hubBlk 4 + 0x100118 + i * 32
/-- Table 17-2. -/
def PRT_VLOG_E7 (i : Nat) : Nat := hubBlk 4 + 0x10011c + i * 32
/-- Table 17-4. -/
def PRT_LINK (i : Nat) : Nat := hubBlk 4 + i * 256
/-- RO. -/
def PRT_LINK_UP : Fld := ⟨31, 31⟩
/-- RO. -/
def PRT_LINK_RATE : Fld := ⟨30, 28⟩
/-- RO. -/
def PRT_LINK_WIDTH : Fld := ⟨27, 26⟩
/-- Table 17-4. -/
def PRT_BAR2 (i : Nat) : Nat := hubBlk 4 + 0x4 + i * 256
/-- RW. -/
def PRT_BAR2_BASE : Fld := ⟨15, 0⟩
/-- Table 17-4. -/
def PRT_DB (i : Nat) : Nat := hubBlk 4 + 0x8 + i * 256
/-- WO. -/
def PRT_DB_TAIL : Fld := ⟨31, 16⟩
/-- WO. -/
def PRT_DB_RING : Fld := ⟨15, 0⟩
/-- Table 17-4. -/
def PRT_EVT_BASE_LO (i : Nat) : Nat := hubBlk 4 + 0x10 + i * 256
/-- RW. -/
def PRT_EVT_BASE_LO_BASE_LO : Fld := ⟨31, 6⟩
/-- Table 17-4. -/
def PRT_EVT_BASE_HI (i : Nat) : Nat := hubBlk 4 + 0x14 + i * 256
/-- RW. -/
def PRT_EVT_BASE_HI_BASE_HI : Fld := ⟨9, 0⟩
/-- Table 17-4. -/
def PRT_EVT_CFG (i : Nat) : Nat := hubBlk 4 + 0x18 + i * 256
/-- RW. -/
def PRT_EVT_CFG_EN : Fld := ⟨31, 31⟩
/-- RW. -/
def PRT_EVT_CFG_IRQ_EN : Fld := ⟨30, 30⟩
/-- RW. -/
def PRT_EVT_CFG_SIZE_LOG2 : Fld := ⟨3, 0⟩
/-- Table 17-4. -/
def PRT_EVT_WPTR (i : Nat) : Nat := hubBlk 4 + 0x1c + i * 256
/-- RO. -/
def PRT_EVT_WPTR_WPTR : Fld := ⟨31, 0⟩
/-- Table 17-4. -/
def PRT_EVT_RPTR (i : Nat) : Nat := hubBlk 4 + 0x20 + i * 256
/-- RW. -/
def PRT_EVT_RPTR_RPTR : Fld := ⟨31, 0⟩
/-- Table 17-4. -/
def PRT_EVT_STAT (i : Nat) : Nat := hubBlk 4 + 0x24 + i * 256
/-- RC. -/
def PRT_EVT_STAT_LOST : Fld := ⟨15, 0⟩
/-- Table 17-4. -/
def PRT_VLOG_WPTR : Nat := 0x3f204100000
/-- RO. -/
def PRT_VLOG_WPTR_WPTR : Fld := ⟨31, 0⟩
/-- Table 17-4. -/
def PRT_VLOG_RPTR : Nat := 0x3f204100004
/-- RW. -/
def PRT_VLOG_RPTR_RPTR : Fld := ⟨31, 0⟩
/-- Table 17-4. -/
def PRT_VLOG_LOST : Nat := 0x3f204100008
/-- RC. -/
def PRT_VLOG_LOST_LOST : Fld := ⟨15, 0⟩
/-- Table 18-2. -/
def VYN_LINK (i : Nat) : Nat := hubBlk 5 + i * 64
/-- RO. -/
def VYN_LINK_UP : Fld := ⟨31, 31⟩
/-- RO. -/
def VYN_LINK_STATE : Fld := ⟨30, 28⟩
/-- RO. -/
def VYN_LINK_LANES : Fld := ⟨27, 24⟩
/-- RO. -/
def VYN_LINK_PEER_ID : Fld := ⟨23, 20⟩
/-- RO. -/
def VYN_LINK_PEER_LINK : Fld := ⟨19, 17⟩
/-- Table 18-2. -/
def VYN_LINK_DELAY (i : Nat) : Nat := hubBlk 5 + 0x4 + i * 64
/-- RO. -/
def VYN_LINK_DELAY_DELAY : Fld := ⟨31, 0⟩
/-- Table 18-2. -/
def VYN_LINK_ERR (i : Nat) : Nat := hubBlk 5 + 0x8 + i * 64
/-- RC. -/
def VYN_LINK_ERR_RETRY : Fld := ⟨31, 16⟩
/-- RC. -/
def VYN_LINK_ERR_DOWN : Fld := ⟨15, 0⟩
/-- Table 18-2. -/
def VYN_UID_LO : Nat := 0x3f205001000
/-- RO. -/
def VYN_UID_LO_UID_LO : Fld := ⟨31, 0⟩
/-- Table 18-2. -/
def VYN_UID_HI : Nat := 0x3f205001004
/-- RO. -/
def VYN_UID_HI_UID_HI : Fld := ⟨31, 0⟩
/-- Table 18-2. -/
def VYN_ROLES : Nat := 0x3f205001008
/-- RO. -/
def VYN_ROLES_MASTER_ELIGIBLE : Fld := ⟨31, 31⟩
/-- RO. -/
def VYN_ROLES_ELECT_PRIORITY : Fld := ⟨23, 16⟩
/-- RO. -/
def VYN_ROLES_LINK_EN : Fld := ⟨7, 0⟩
/-- Table 18-3. -/
def VYN_SYS_STAT : Nat := 0x3f300800000
/-- RO. -/
def VYN_SYS_STAT_IS_MASTER : Fld := ⟨31, 31⟩
/-- RO. -/
def VYN_SYS_STAT_ALIGNED : Fld := ⟨30, 30⟩
/-- RO. -/
def VYN_SYS_STAT_CONFLICT : Fld := ⟨29, 29⟩
/-- RO. -/
def VYN_SYS_STAT_NOMASTER : Fld := ⟨28, 28⟩
/-- RO. -/
def VYN_SYS_STAT_MASTER_ID : Fld := ⟨27, 24⟩
/-- RO. -/
def VYN_SYS_STAT_PKG_COUNT : Fld := ⟨23, 19⟩
/-- Table 18-3. -/
def VYN_EPOCH : Nat := 0x3f300800004
/-- RO. -/
def VYN_EPOCH_EPOCH : Fld := ⟨31, 0⟩
/-- Table 18-3. -/
def VYN_IDS : Nat := 0x3f300800008
/-- RO. -/
def VYN_IDS_RESERVED : Fld := ⟨31, 16⟩
/-- RO. -/
def VYN_IDS_PRESENT : Fld := ⟨15, 0⟩
/-- Table 18-3. -/
def VYN_L : Nat := 0x3f30080000c
/-- RO. -/
def VYN_L_L : Fld := ⟨31, 0⟩
/-- Table 18-3. -/
def VYN_TAG_LO : Nat := 0x3f300800010
/-- RO. -/
def VYN_TAG_LO_TAG_LO : Fld := ⟨31, 0⟩
/-- Table 18-3. -/
def VYN_TAG_HI : Nat := 0x3f300800014
/-- RO. -/
def VYN_TAG_HI_TAG_HI : Fld := ⟨31, 0⟩
/-- Table 18-3. -/
def VYN_OFFSET : Nat := 0x3f300800018
/-- RO. -/
def VYN_OFFSET_THETA : Fld := ⟨31, 0⟩
/-- Table 18-3. -/
def VYN_CMD : Nat := 0x3f300800020
/-- WO. -/
def VYN_CMD_ELECT : Fld := ⟨31, 31⟩
/-- WO. -/
def VYN_CMD_DOWEL : Fld := ⟨30, 30⟩
/-- WO. -/
def VYN_CMD_RELEASE : Fld := ⟨29, 29⟩
/-- WO. -/
def VYN_CMD_ID : Fld := ⟨3, 0⟩
/-- Table 18-3. -/
def VYN_SYNC_GT_LO : Nat := 0x3f300800028
/-- RO. -/
def VYN_SYNC_GT_LO_GT_LO : Fld := ⟨31, 0⟩
/-- Table 18-3. -/
def VYN_SYNC_GT_HI : Nat := 0x3f30080002c
/-- RO. -/
def VYN_SYNC_GT_HI_GT_HI : Fld := ⟨31, 0⟩
/-- Table 20-3. -/
def SYS_VCORE_CTRL : Nat := 0x3f200000400
/-- RW. -/
def SYS_VCORE_CTRL_MODE : Fld := ⟨31, 31⟩
/-- RW. -/
def SYS_VCORE_CTRL_TARGET : Fld := ⟨25, 16⟩
/-- RW. -/
def SYS_VCORE_CTRL_FIXED : Fld := ⟨5, 0⟩
/-- Table 20-3. -/
def SYS_VCORE_LIM : Nat := 0x3f200000404
/-- RW. -/
def SYS_VCORE_LIM_CEIL : Fld := ⟨13, 8⟩
/-- RW. -/
def SYS_VCORE_LIM_FLOOR : Fld := ⟨5, 0⟩
/-- Table 20-3. -/
def SYS_VCORE_STAT : Nat := 0x3f200000408
/-- RO. -/
def SYS_VCORE_STAT_ST_PS : Fld := ⟨25, 16⟩
/-- RO. -/
def SYS_VCORE_STAT_VID : Fld := ⟨5, 0⟩
/-- Table 20-3. -/
def SYS_THERM : Nat := 0x3f20000040c
/-- RO. -/
def SYS_THERM_TRIPPED : Fld := ⟨31, 31⟩
/-- RO. -/
def SYS_THERM_HOT_CL : Fld := ⟨21, 16⟩
/-- RO. -/
def SYS_THERM_T_MAX : Fld := ⟨11, 0⟩
/-- Table 7-3. -/
def SYS_PBUS_RESV : Nat := 0x3f200000300
/-- RO. -/
def SYS_PBUS_RESV_OPS : Fld := ⟨14, 0⟩
/-- Table 12-4. -/
def HD_MEM_SCRUB_CTRL : Nat := 0x3f207000000
/-- RW. -/
def HD_MEM_SCRUB_CTRL_EN : Fld := ⟨31, 31⟩
/-- RW. -/
def HD_MEM_SCRUB_CTRL_INTERVAL : Fld := ⟨15, 0⟩
/-- Table 12-4. -/
def HD_MEM_CE_COUNT : Nat := 0x3f207000004
/-- RC. -/
def HD_MEM_CE_COUNT_COUNT : Fld := ⟨31, 0⟩
/-- Table 12-4. -/
def HD_MEM_BT_CTRL : Nat := 0x3f207000010
/-- RW. -/
def HD_MEM_BT_CTRL_EN : Fld := ⟨31, 31⟩
/-- RW. -/
def HD_MEM_BT_CTRL_INTERVAL : Fld := ⟨15, 0⟩
/-- Table 12-4. -/
def HD_MEM_BT_STAT : Nat := 0x3f207000014
/-- RO. -/
def HD_MEM_BT_STAT_BUSY : Fld := ⟨31, 31⟩
/-- W1C. -/
def HD_MEM_BT_STAT_NOSPARE : Fld := ⟨30, 30⟩
/-- RO. -/
def HD_MEM_BT_STAT_BLOCKS : Fld := ⟨29, 0⟩
/-- Table 12-4. -/
def HD_MEM_ERR_HEAD : Nat := 0x3f207000100
/-- RO. -/
def HD_MEM_ERR_HEAD_HEAD : Fld := ⟨31, 0⟩
/-- Table 12-4. -/
def HD_MEM_ERR_LOG_W0 (i : Nat) : Nat := hubBlk 7 + 0x110 + i * 16
/-- RO. -/
def HD_MEM_ERR_LOG_W0_ADDR_LO : Fld := ⟨31, 0⟩
/-- Table 12-4. -/
def HD_MEM_ERR_LOG_W1 (i : Nat) : Nat := hubBlk 7 + 0x114 + i * 16
/-- RO. -/
def HD_MEM_ERR_LOG_W1_OUTCOME : Fld := ⟨31, 28⟩
/-- RO. -/
def HD_MEM_ERR_LOG_W1_SRC : Fld := ⟨27, 26⟩
/-- RO. -/
def HD_MEM_ERR_LOG_W1_ADDR_HI : Fld := ⟨9, 0⟩
/-- Table 12-4. -/
def HD_MEM_ERR_LOG_W2 (i : Nat) : Nat := hubBlk 7 + 0x118 + i * 16
/-- Table 12-4. -/
def HD_MEM_ERR_LOG_W3 (i : Nat) : Nat := hubBlk 7 + 0x11c + i * 16

/-- A row of the register map: offset in its block, (stride, count) of each index, reset value, and the masks of the RW, W1C,
W1S, WO and RC bits. -/
structure RegRow where
  off : Nat
  dims : List (Nat × Nat)
  rst : Nat
  rw : Nat
  w1c : Nat
  w1s : Nat
  wo : Nat
  rc : Nat
  deriving DecidableEq, Repr

/-- Registers of cl block 0. -/
def regRows_cl_0 : List RegRow :=
  [⟨0, [], 0x1, 0, 0, 0, 0, 0⟩,
   ⟨0x4, [], 0, 0xfffff, 0, 0, 0, 0⟩]
/-- Registers of cl block 1. -/
def regRows_cl_1 : List RegRow :=
  [⟨0, [], 0, 0x3f, 0, 0, 0, 0⟩,
   ⟨0x4, [], 0, 0, 0, 0, 0, 0⟩,
   ⟨0x8, [], 0, 0, 0, 0, 0xc0003f07, 0⟩,
   ⟨0xc, [], 0, 0, 0x38000000, 0, 0, 0⟩,
   ⟨0x10, [], 0, 0, 0, 0, 0, 0⟩,
   ⟨0x14, [], 0, 0, 0, 0, 0, 0⟩]
/-- Registers of cl block 2. -/
def regRows_cl_2 : List RegRow :=
  [⟨0, [(2048, 64)], 0x7, 0xffffffff, 0, 0, 0, 0⟩,
   ⟨0x40, [(2048, 64), (64, 16)], 0, 0x3, 0, 0, 0, 0⟩,
   ⟨0x48, [(2048, 64), (64, 16)], 0, 0xffffffff, 0, 0, 0, 0⟩,
   ⟨0x4c, [(2048, 64), (64, 16)], 0, 0x8000003f, 0, 0, 0, 0⟩,
   ⟨0x50, [(2048, 64), (64, 16)], 0, 0xffffffff, 0, 0, 0, 0⟩,
   ⟨0x54, [(2048, 64), (64, 16)], 0, 0x8000003f, 0, 0, 0, 0⟩,
   ⟨0x58, [(2048, 64), (64, 16)], 0, 0xffffffff, 0, 0, 0, 0⟩,
   ⟨0x5c, [(2048, 64), (64, 16)], 0, 0x8000003f, 0, 0, 0, 0⟩,
   ⟨0x60, [(2048, 64), (64, 16)], 0, 0xffffffff, 0, 0, 0, 0⟩,
   ⟨0x64, [(2048, 64), (64, 16)], 0, 0x8000003f, 0, 0, 0, 0⟩,
   ⟨0x68, [(2048, 64), (64, 16)], 0, 0xffffffff, 0, 0, 0, 0⟩,
   ⟨0x6c, [(2048, 64), (64, 16)], 0, 0x8000003f, 0, 0, 0, 0⟩,
   ⟨0x70, [(2048, 64), (64, 16)], 0, 0xffffffff, 0, 0, 0, 0⟩,
   ⟨0x74, [(2048, 64), (64, 16)], 0, 0x8000003f, 0, 0, 0, 0⟩,
   ⟨0x20000, [(4, 128)], 0, 0x1ff0000, 0, 0, 0, 0⟩,
   ⟨0x30000, [(32, 16)], 0, 0x7f3f3, 0, 0, 0, 0⟩,
   ⟨0x30004, [(32, 16)], 0, 0, 0, 0, 0, 0⟩,
   ⟨0x30008, [(32, 16)], 0, 0, 0, 0, 0, 0⟩,
   ⟨0x3000c, [(32, 16)], 0, 0, 0, 0, 0, 0⟩,
   ⟨0x30010, [(32, 16)], 0, 0, 0, 0, 0, 0xffff0000⟩] ++
  [⟨0x40000, [], 0, 0, 0xffffffff, 0, 0, 0⟩,
   ⟨0xf0000, [], 0x2000000, 0, 0xc0000000, 0, 0, 0x3ff0000⟩,
   ⟨0xf0004, [], 0x200, 0x3ff, 0, 0, 0, 0⟩,
   ⟨0xf0008, [], 0, 0, 0, 0, 0, 0⟩,
   ⟨0xf000c, [], 0, 0, 0, 0, 0, 0⟩,
   ⟨0xf0010, [], 0, 0, 0, 0, 0, 0⟩,
   ⟨0xf0020, [(4, 2)], 0x22222222, 0xffffffff, 0, 0, 0, 0⟩]
/-- Registers of cl block 3. -/
def regRows_cl_3 : List RegRow :=
  [⟨0, [(4, 64)], 0, 0xffffffff, 0, 0, 0, 0⟩,
   ⟨0x10000, [(16, 16)], 0, 0xffff, 0, 0, 0, 0⟩,
   ⟨0x10004, [(16, 16)], 0, 0xffff, 0, 0, 0, 0⟩,
   ⟨0x10008, [(16, 16)], 0, 0xffff, 0, 0, 0, 0⟩,
   ⟨0x1000c, [(16, 16)], 0x1, 0x1, 0, 0, 0, 0⟩,
   ⟨0x20000, [], 0, 0, 0xffffffff, 0, 0, 0⟩]
/-- Registers of cl block 4. -/
def regRows_cl_4 : List RegRow :=
  [⟨0, [(16, 16)], 0, 0xffff, 0, 0, 0, 0⟩,
   ⟨0x4, [(16, 16)], 0, 0xffff, 0, 0, 0, 0⟩,
   ⟨0x8, [(16, 16)], 0x1240124, 0, 0, 0, 0, 0⟩,
   ⟨0x10000, [], 0, 0, 0xffffffff, 0, 0, 0⟩,
   ⟨0x20000, [(4, 16)], 0, 0, 0, 0, 0, 0xffffffff⟩,
   ⟨0x30000, [], 0, 0x3f, 0, 0, 0, 0⟩]
/-- Registers of cl block 5. -/
def regRows_cl_5 : List RegRow :=
  [⟨0, [(16, 16)], 0xb54, 0xffff, 0, 0, 0, 0⟩,
   ⟨0x4, [(16, 16)], 0xfa88, 0xffff, 0, 0, 0, 0⟩,
   ⟨0x8, [(16, 16)], 0x3e80017, 0, 0, 0, 0, 0⟩,
   ⟨0xc, [(16, 16)], 0x1, 0x3, 0, 0, 0, 0⟩,
   ⟨0x10000, [], 0, 0, 0xffffffff, 0, 0, 0⟩,
   ⟨0x20000, [(4, 16)], 0, 0, 0, 0, 0, 0xffff⟩]
/-- Registers of cl block 6. -/
def regRows_cl_6 : List RegRow :=
  [⟨0, [(16, 256)], 0, 0x813fffff, 0, 0, 0, 0⟩,
   ⟨0x4, [(16, 256)], 0, 0xffff, 0, 0, 0, 0⟩,
   ⟨0x8, [(16, 256)], 0, 0x8000ffff, 0, 0, 0, 0⟩,
   ⟨0xc, [(16, 256)], 0, 0x800fffff, 0, 0, 0, 0⟩,
   ⟨0x10000, [(4, 16)], 0, 0xff, 0, 0, 0, 0⟩,
   ⟨0x20000, [], 0, 0, 0, 0, 0x800000ff, 0⟩,
   ⟨0x20004, [], 0, 0, 0x60000000, 0, 0, 0⟩,
   ⟨0x20008, [], 0, 0, 0xffff, 0, 0, 0⟩]
/-- Registers of cl block 7. -/
def regRows_cl_7 : List RegRow :=
  [⟨0, [], 0, 0xffffffff, 0, 0, 0, 0⟩,
   ⟨0x10, [(4, 4)], 0, 0x20ffffff, 0, 0, 0x80000000, 0⟩,
   ⟨0x20, [(4, 4)], 0, 0, 0x1f000000, 0, 0, 0⟩,
   ⟨0x30, [], 0, 0, 0x20000000, 0, 0xc7007fff, 0⟩,
   ⟨0x34, [(4, 5)], 0, 0xffffffff, 0, 0, 0, 0⟩,
   ⟨0x10000, [(8192, 4), (8, 1024)], 0, 0xffffffff, 0, 0, 0, 0⟩,
   ⟨0x10004, [(8192, 4), (8, 1024)], 0, 0xff, 0, 0, 0, 0⟩,
   ⟨0x20000, [(32, 4), (8, 4)], 0, 0x7fffff, 0, 0, 0, 0⟩,
   ⟨0x20004, [(32, 4), (8, 4)], 0, 0xffff, 0, 0, 0, 0⟩,
   ⟨0x30000, [(4, 64)], 0, 0x807fffff, 0, 0, 0, 0⟩,
   ⟨0x40000, [], 0, 0, 0, 0xff, 0, 0⟩,
   ⟨0x40004, [], 0, 0, 0xff, 0, 0, 0⟩,
   ⟨0x40010, [(4, 2)], 0, 0, 0, 0xffffffff, 0, 0⟩,
   ⟨0x40020, [(4, 2)], 0, 0, 0xffffffff, 0, 0, 0⟩,
   ⟨0x40040, [(4, 8)], 0, 0, 0, 0xffffffff, 0, 0⟩,
   ⟨0x40060, [(4, 8)], 0, 0, 0xffffffff, 0, 0, 0⟩,
   ⟨0x40080, [(4, 2)], 0, 0, 0, 0xffffffff, 0, 0⟩,
   ⟨0x40090, [(4, 2)], 0, 0, 0xffffffff, 0, 0, 0⟩,
   ⟨0x50000, [(4, 4)], 0, 0, 0, 0, 0, 0⟩]
/-- Registers of cl block 8. -/
def regRows_cl_8 : List RegRow :=
  [⟨0, [], 0, 0xffffff80, 0, 0, 0, 0⟩,
   ⟨0x4, [], 0, 0x3ff, 0, 0, 0, 0⟩,
   ⟨0x10, [], 0, 0, 0xc0000000, 0, 0, 0⟩,
   ⟨0x14, [], 0, 0, 0, 0, 0, 0⟩,
   ⟨0x18, [], 0, 0, 0, 0, 0, 0⟩,
   ⟨0x20, [], 0, 0, 0, 0, 0, 0xffffffff⟩]
/-- Registers of cl block 9. -/
def regRows_cl_9 : List RegRow :=
  [⟨0, [], 0x1000, 0x3f0f, 0, 0, 0, 0⟩,
   ⟨0x4, [], 0xc0004000, 0xffffffff, 0, 0, 0, 0⟩,
   ⟨0x8, [], 0x80000000, 0x8000ffff, 0, 0, 0, 0⟩,
   ⟨0xc, [], 0, 0, 0, 0, 0, 0⟩,
   ⟨0x10, [], 0, 0xffffffff, 0, 0, 0, 0⟩,
   ⟨0x14, [], 0, 0, 0x70000000, 0, 0, 0⟩,
   ⟨0x18, [], 0, 0, 0, 0, 0, 0⟩,
   ⟨0x1c, [], 0, 0, 0, 0, 0x1, 0⟩,
   ⟨0x100, [(4, 16)], 0, 0, 0, 0, 0, 0⟩,
   ⟨0x200, [(4, 16)], 0xffffffff, 0, 0, 0, 0, 0⟩]
/-- Registers of cl block 10. -/
def regRows_cl_10 : List RegRow :=
  [⟨0, [(256, 2)], 0x1, 0x3ff3ff07, 0, 0, 0xc0000000, 0⟩,
   ⟨0x4, [(256, 2)], 0x8040, 0xf800ffff, 0, 0, 0, 0⟩,
   ⟨0x8, [(256, 2)], 0, 0xffffffff, 0, 0, 0, 0⟩,
   ⟨0xc, [(256, 2)], 0xffffffff, 0xffffffff, 0, 0, 0, 0⟩,
   ⟨0x10, [(256, 2)], 0, 0x1ffff, 0, 0, 0, 0⟩,
   ⟨0x14, [(256, 2)], 0xffff, 0xffffffff, 0, 0, 0, 0⟩,
   ⟨0x18, [(256, 2)], 0x100000, 0xffffffff, 0, 0, 0, 0⟩,
   ⟨0x1c, [(256, 2)], 0xa08, 0x3f3f, 0, 0, 0, 0⟩,
   ⟨0x20, [(256, 2)], 0, 0xffffffff, 0, 0, 0, 0⟩,
   ⟨0x24, [(256, 2)], 0, 0xffff, 0, 0, 0, 0⟩,
   ⟨0x28, [(256, 2)], 0x10000, 0x3ffff, 0, 0, 0, 0⟩,
   ⟨0x30, [(256, 2)], 0, 0, 0x1f000000, 0, 0, 0⟩]
/-- Registers of cl block 11. -/
def regRows_cl_11 : List RegRow :=
  [⟨0, [(16, 16)], 0, 0xe3, 0, 0, 0, 0⟩,
   ⟨0x4, [(16, 16)], 0, 0xffff, 0, 0, 0, 0⟩,
   ⟨0x8, [(16, 16)], 0x10000, 0xffffffff, 0, 0, 0, 0⟩,
   ⟨0x10000, [], 0, 0, 0, 0, 0xffff, 0⟩]
/-- Registers of cl block 12. -/
def regRows_cl_12 : List RegRow :=
  [⟨0, [], 0x20000000, 0x7ffc00ff, 0, 0, 0, 0⟩,
   ⟨0x4, [], 0, 0xffff, 0, 0, 0, 0⟩,
   ⟨0x8, [], 0x3e8, 0xffffffff, 0, 0, 0, 0⟩,
   ⟨0xc, [], 0, 0, 0, 0, 0x1, 0⟩,
   ⟨0x10, [], 0, 0, 0, 0, 0, 0⟩,
   ⟨0x14, [], 0, 0, 0, 0, 0, 0xffff0000⟩,
   ⟨0x18, [], 0, 0xffff, 0, 0, 0, 0⟩,
   ⟨0x1c, [], 0, 0, 0, 0, 0, 0⟩]
/-- Registers of cl block 13. -/
def regRows_cl_13 : List RegRow :=
  [⟨0, [], 0x50a, 0x73f, 0, 0xc0000000, 0, 0⟩,
   ⟨0x4, [], 0x18000000, 0, 0x20000000, 0, 0, 0⟩,
   ⟨0x8, [], 0, 0, 0, 0, 0, 0⟩,
   ⟨0xc, [], 0, 0, 0, 0, 0, 0⟩,
   ⟨0x10, [], 0, 0, 0, 0, 0, 0⟩,
   ⟨0x14, [], 0, 0, 0, 0, 0, 0⟩,
   ⟨0x18, [], 0, 0, 0, 0, 0, 0⟩,
   ⟨0x1c, [], 0, 0, 0, 0, 0, 0⟩,
   ⟨0x100, [(4, 16)], 0, 0, 0, 0, 0, 0⟩]
/-- Registers of cl block 14. -/
def regRows_cl_14 : List RegRow :=
  [⟨0, [], 0, 0, 0, 0, 0, 0xffffffff⟩,
   ⟨0x4, [], 0, 0, 0, 0, 0, 0xffffffff⟩,
   ⟨0x8, [], 0, 0, 0, 0, 0, 0⟩,
   ⟨0xc, [], 0, 0, 0, 0, 0, 0⟩,
   ⟨0x10, [], 0, 0, 0x40000000, 0, 0, 0⟩]
/-- Registers of hub block 0. -/
def regRows_hub_0 : List RegRow :=
  [⟨0, [], 0x1, 0, 0, 0, 0, 0⟩,
   ⟨0x100, [], 0, 0x3, 0, 0, 0, 0⟩,
   ⟨0x200, [], 0, 0, 0, 0, 0, 0⟩,
   ⟨0x204, [], 0, 0, 0, 0, 0, 0⟩,
   ⟨0x300, [], 0, 0, 0, 0, 0, 0⟩,
   ⟨0x400, [], 0x2bc0014, 0x83ff003f, 0, 0, 0, 0⟩,
   ⟨0x404, [], 0x2610, 0x3f3f, 0, 0, 0, 0⟩,
   ⟨0x408, [], 0x14, 0, 0, 0, 0, 0⟩,
   ⟨0x40c, [], 0, 0, 0, 0, 0, 0⟩]
/-- Registers of hub block 1. -/
def regRows_hub_1 : List RegRow :=
  [⟨0, [(64, 8)], 0, 0x200003ff, 0, 0, 0xc0000000, 0⟩,
   ⟨0x4, [(64, 8)], 0, 0xffffffc0, 0, 0, 0, 0⟩,
   ⟨0x8, [(64, 8)], 0, 0x3ff, 0, 0, 0, 0⟩,
   ⟨0xc, [(64, 8)], 0, 0xffffffff, 0, 0, 0, 0⟩,
   ⟨0x10, [(64, 8)], 0x1f03ff, 0xf1f03ff, 0, 0, 0, 0⟩,
   ⟨0x14, [(64, 8)], 0, 0, 0, 0, 0, 0⟩,
   ⟨0x18, [(64, 8)], 0, 0, 0, 0, 0, 0⟩,
   ⟨0x1000, [(32, 64)], 0, 0xffffffff, 0, 0, 0, 0⟩,
   ⟨0x1004, [(32, 64)], 0, 0xffffffff, 0, 0, 0, 0⟩,
   ⟨0x1008, [(32, 64)], 0, 0x80000007, 0, 0, 0, 0⟩,
   ⟨0x100c, [(32, 64)], 0, 0, 0, 0, 0, 0⟩,
   ⟨0x10000, [(128, 64), (8, 16)], 0, 0xffffffff, 0, 0, 0, 0⟩,
   ⟨0x10004, [(128, 64), (8, 16)], 0, 0xffffffff, 0, 0, 0, 0⟩,
   ⟨0x20000, [(4, 32)], 0, 0, 0, 0, 0, 0xffffffff⟩,
   ⟨0x21000, [(4, 1024)], 0, 0, 0, 0, 0, 0xffffffff⟩,
   ⟨0x30000, [], 0, 0xfffffff0, 0, 0, 0, 0⟩,
   ⟨0x30004, [], 0, 0x3ff, 0, 0, 0, 0⟩,
   ⟨0x30008, [], 0x10, 0x8000001f, 0, 0, 0, 0⟩,
   ⟨0x3000c, [], 0, 0, 0, 0, 0, 0⟩,
   ⟨0x30010, [], 0, 0xffffffff, 0, 0, 0, 0⟩] ++
  [⟨0x30014, [], 0, 0, 0, 0, 0, 0⟩,
   ⟨0x30018, [], 0, 0, 0, 0, 0, 0xffff⟩]
/-- Registers of hub block 2. -/
def regRows_hub_2 : List RegRow :=
  [⟨0, [], 0, 0, 0, 0, 0, 0⟩]
/-- Registers of hub block 3. -/
def regRows_hub_3 : List RegRow :=
  [⟨0, [], 0x20000000, 0, 0x5000000, 0, 0, 0⟩,
   ⟨0x4, [], 0, 0, 0, 0, 0, 0⟩,
   ⟨0x8, [], 0, 0, 0, 0, 0xc0000000, 0⟩,
   ⟨0x10, [], 0, 0, 0xc000000, 0, 0xe0000000, 0⟩,
   ⟨0x14, [], 0, 0x7fffffff, 0, 0, 0, 0⟩,
   ⟨0x20, [], 0, 0, 0x20000000, 0, 0x8003ffff, 0⟩,
   ⟨0x100, [(4, 64)], 0, 0xffffffff, 0, 0, 0, 0⟩]
/-- Registers of hub block 4. -/
def regRows_hub_4 : List RegRow :=
  [⟨0, [(256, 6)], 0, 0, 0, 0, 0, 0⟩,
   ⟨0x4, [(256, 6)], 0, 0xffff, 0, 0, 0, 0⟩,
   ⟨0x8, [(256, 6)], 0, 0, 0, 0, 0xffffffff, 0⟩,
   ⟨0x10, [(256, 6)], 0, 0xffffffc0, 0, 0, 0, 0⟩,
   ⟨0x14, [(256, 6)], 0, 0x3ff, 0, 0, 0, 0⟩,
   ⟨0x18, [(256, 6)], 0x4, 0xc000000f, 0, 0, 0, 0⟩,
   ⟨0x1c, [(256, 6)], 0, 0, 0, 0, 0, 0⟩,
   ⟨0x20, [(256, 6)], 0, 0xffffffff, 0, 0, 0, 0⟩,
   ⟨0x24, [(256, 6)], 0, 0, 0, 0, 0, 0xffff⟩,
   ⟨0x100000, [], 0, 0, 0, 0, 0, 0⟩,
   ⟨0x100004, [], 0, 0xffffffff, 0, 0, 0, 0⟩,
   ⟨0x100008, [], 0, 0, 0, 0, 0, 0xffff⟩,
   ⟨0x100100, [(32, 16)], 0, 0, 0, 0, 0, 0⟩,
   ⟨0x100104, [(32, 16)], 0, 0, 0, 0, 0, 0⟩,
   ⟨0x100108, [(32, 16)], 0, 0, 0, 0, 0, 0⟩,
   ⟨0x10010c, [(32, 16)], 0, 0, 0, 0, 0, 0⟩,
   ⟨0x100110, [(32, 16)], 0, 0, 0, 0, 0, 0⟩,
   ⟨0x100114, [(32, 16)], 0, 0, 0, 0, 0, 0⟩,
   ⟨0x100118, [(32, 16)], 0, 0, 0, 0, 0, 0⟩,
   ⟨0x10011c, [(32, 16)], 0, 0, 0, 0, 0, 0⟩]
/-- Registers of hub block 5. -/
def regRows_hub_5 : List RegRow :=
  [⟨0, [(64, 8)], 0, 0, 0, 0, 0, 0⟩,
   ⟨0x4, [(64, 8)], 0, 0, 0, 0, 0, 0⟩,
   ⟨0x8, [(64, 8)], 0, 0, 0, 0, 0, 0xffffffff⟩,
   ⟨0x1000, [], 0, 0, 0, 0, 0, 0⟩,
   ⟨0x1004, [], 0, 0, 0, 0, 0, 0⟩,
   ⟨0x1008, [], 0, 0, 0, 0, 0, 0⟩]
/-- Registers of hub block 6. -/
def regRows_hub_6 : List RegRow :=
  [⟨0, [], 0x20000000, 0, 0x10000000, 0, 0, 0⟩,
   ⟨0x4, [], 0, 0, 0, 0, 0x1, 0⟩]
/-- Registers of hub block 7. -/
def regRows_hub_7 : List RegRow :=
  [⟨0, [], 0x80000001, 0x8000ffff, 0, 0, 0, 0⟩,
   ⟨0x4, [], 0, 0, 0, 0, 0, 0xffffffff⟩,
   ⟨0x10, [], 0x80000010, 0x8000ffff, 0, 0, 0, 0⟩,
   ⟨0x14, [], 0, 0, 0x40000000, 0, 0, 0⟩,
   ⟨0x100, [], 0, 0, 0, 0, 0, 0⟩,
   ⟨0x110, [(16, 32)], 0, 0, 0, 0, 0, 0⟩,
   ⟨0x114, [(16, 32)], 0, 0, 0, 0, 0, 0⟩,
   ⟨0x118, [(16, 32)], 0, 0, 0, 0, 0, 0⟩,
   ⟨0x11c, [(16, 32)], 0, 0, 0, 0, 0, 0⟩]
/-- Registers of hub block 8. -/
def regRows_hub_8 : List RegRow :=
  [⟨0, [], 0, 0x1, 0, 0, 0, 0⟩,
   ⟨0x4, [], 0x1820, 0xffff, 0, 0, 0, 0⟩,
   ⟨0x8, [], 0x3e80064, 0xffffffff, 0, 0, 0, 0⟩,
   ⟨0xc, [], 0x1f40032, 0xffffffff, 0, 0, 0, 0⟩,
   ⟨0x10, [], 0, 0, 0x99000000, 0, 0, 0⟩,
   ⟨0x1000, [(256, 2), (128, 2), (4, 32)], 0, 0, 0, 0, 0, 0⟩]
/-- Registers of rg block 0. -/
def regRows_rg_0 : List RegRow :=
  [⟨0, [], 0x1, 0, 0, 0, 0, 0⟩]
/-- Registers of rg block 1. -/
def regRows_rg_1 : List RegRow :=
  [⟨0x1000, [(16, 128)], 0, 0x80000017, 0, 0, 0, 0⟩,
   ⟨0x1004, [(16, 128)], 0, 0, 0, 0, 0, 0⟩,
   ⟨0x20000, [(16, 8192)], 0, 0xffffffc0, 0, 0, 0, 0⟩,
   ⟨0x20004, [(16, 8192)], 0x4e0000, 0xa0fe3fff, 0, 0, 0, 0⟩,
   ⟨0x20008, [(16, 8192)], 0, 0xffff0000, 0, 0, 0, 0⟩,
   ⟨0x2000c, [(16, 8192)], 0, 0, 0, 0, 0, 0xffff⟩,
   ⟨0x40000, [], 0, 0, 0, 0, 0, 0⟩,
   ⟨0x40004, [], 0, 0, 0, 0, 0xffff, 0⟩,
   ⟨0x40010, [], 0, 0xffffff00, 0, 0, 0, 0⟩,
   ⟨0x40014, [], 0, 0x3ff, 0, 0, 0, 0⟩,
   ⟨0x40018, [], 0x80000, 0xf1fff, 0, 0, 0, 0⟩,
   ⟨0x4001c, [], 0, 0, 0, 0, 0, 0⟩,
   ⟨0x40020, [], 0, 0, 0, 0, 0xfff, 0⟩,
   ⟨0x40024, [], 0, 0, 0, 0, 0, 0xffff0000⟩]
/-- Registers of rg block 2. -/
def regRows_rg_2 : List RegRow :=
  [⟨0, [], 0x80000001, 0x8000ffff, 0, 0, 0, 0⟩,
   ⟨0x4, [], 0, 0, 0, 0, 0, 0xffffffff⟩,
   ⟨0x10, [], 0x80000010, 0x8000ffff, 0, 0, 0, 0⟩,
   ⟨0x14, [], 0, 0, 0x40000000, 0, 0, 0⟩,
   ⟨0x20, [], 0, 0, 0, 0, 0xffffffff, 0⟩,
   ⟨0x24, [], 0, 0, 0x70000000, 0, 0, 0⟩,
   ⟨0x100, [], 0, 0, 0, 0, 0, 0⟩,
   ⟨0x110, [(16, 32)], 0, 0, 0, 0, 0, 0⟩,
   ⟨0x114, [(16, 32)], 0, 0, 0, 0, 0, 0⟩,
   ⟨0x118, [(16, 32)], 0, 0, 0, 0, 0, 0⟩,
   ⟨0x11c, [(16, 32)], 0, 0, 0, 0, 0, 0⟩,
   ⟨0x10000, [(32, 16)], 0, 0xffffffff, 0, 0, 0, 0⟩,
   ⟨0x10004, [(32, 16)], 0, 0xc00003ff, 0, 0, 0, 0⟩,
   ⟨0x10008, [(32, 16)], 0, 0xffffffff, 0, 0, 0, 0⟩,
   ⟨0x1000c, [(32, 16)], 0, 0xffffffff, 0, 0, 0, 0⟩,
   ⟨0x10010, [(32, 16)], 0, 0x3ff, 0, 0, 0, 0⟩,
   ⟨0x80000, [], 0x604036, 0xffffff, 0, 0, 0, 0⟩,
   ⟨0x80004, [], 0, 0, 0, 0, 0, 0⟩,
   ⟨0x80008, [], 0, 0, 0, 0, 0, 0⟩]
/-- Registers of rg block 3. -/
def regRows_rg_3 : List RegRow :=
  [⟨0, [], 0x801000, 0xffffffff, 0, 0, 0, 0⟩,
   ⟨0x4, [], 0xfa00, 0, 0, 0, 0, 0⟩,
   ⟨0x8, [], 0x1, 0x1, 0, 0, 0, 0⟩,
   ⟨0x10, [], 0, 0, 0, 0, 0, 0⟩,
   ⟨0x14, [], 0, 0, 0, 0, 0, 0xffff0000⟩,
   ⟨0x18, [], 0, 0xffff, 0, 0, 0, 0⟩]
/-- Registers of sys block 0. -/
def regRows_sys_0 : List RegRow :=
  [⟨0x800000, [], 0x80000, 0, 0, 0, 0, 0⟩,
   ⟨0x800004, [], 0, 0, 0, 0, 0, 0⟩,
   ⟨0x800008, [], 0x1, 0, 0, 0, 0, 0⟩,
   ⟨0x80000c, [], 0, 0, 0, 0, 0, 0⟩,
   ⟨0x800010, [], 0, 0, 0, 0, 0, 0⟩,
   ⟨0x800014, [], 0, 0, 0, 0, 0, 0⟩,
   ⟨0x800018, [], 0, 0, 0, 0, 0, 0⟩,
   ⟨0x800020, [], 0, 0, 0, 0, 0xe000000f, 0⟩,
   ⟨0x800028, [], 0, 0, 0, 0, 0, 0⟩,
   ⟨0x80002c, [], 0, 0, 0, 0, 0, 0⟩]

/-- Where a register address lies: window 0 cluster, 1 region, 2 hub, 3 system; the window's number; block; offset. -/
structure RegLoc where
  win : Nat
  num : Nat
  blk : Nat
  off : Nat
  deriving DecidableEq, Repr

/-- The window, number, block and offset of a package-local register address (R49, R57). -/
def regLoc (a : Nat) : Option RegLoc :=
  if 0x3F000000000 ≤ a ∧ a < 0x3F040000000 then
    some ⟨0, (a - 0x3F000000000) / 0x1000000, (a - 0x3F000000000) % 0x1000000 / 0x100000, a % 0x100000⟩
  else if 0x3F100000000 ≤ a ∧ a < 0x3F108000000 then
    some ⟨1, (a - 0x3F100000000) / 0x1000000, (a - 0x3F100000000) % 0x1000000 / 0x100000, a % 0x100000⟩
  else if 0x3F200000000 ≤ a ∧ a < 0x3F210000000 then
    some ⟨2, 0, (a - 0x3F200000000) / 0x1000000, a % 0x1000000⟩
  else if 0x3F300000000 ≤ a ∧ a < 0x3F301000000 then some ⟨3, 0, 0, a % 0x1000000⟩
  else none

/-- The rows of a block of a window. -/
def regRows (win blk : Nat) : List RegRow :=
  match win, blk with
  | 0, 0 => regRows_cl_0
  | 0, 1 => regRows_cl_1
  | 0, 2 => regRows_cl_2
  | 0, 3 => regRows_cl_3
  | 0, 4 => regRows_cl_4
  | 0, 5 => regRows_cl_5
  | 0, 6 => regRows_cl_6
  | 0, 7 => regRows_cl_7
  | 0, 8 => regRows_cl_8
  | 0, 9 => regRows_cl_9
  | 0, 10 => regRows_cl_10
  | 0, 11 => regRows_cl_11
  | 0, 12 => regRows_cl_12
  | 0, 13 => regRows_cl_13
  | 0, 14 => regRows_cl_14
  | 2, 0 => regRows_hub_0
  | 2, 1 => regRows_hub_1
  | 2, 2 => regRows_hub_2
  | 2, 3 => regRows_hub_3
  | 2, 4 => regRows_hub_4
  | 2, 5 => regRows_hub_5
  | 2, 6 => regRows_hub_6
  | 2, 7 => regRows_hub_7
  | 2, 8 => regRows_hub_8
  | 1, 0 => regRows_rg_0
  | 1, 1 => regRows_rg_1
  | 1, 2 => regRows_rg_2
  | 1, 3 => regRows_rg_3
  | 3, 0 => regRows_sys_0
  | _, _ => []

/-- Whether an offset past a row's first register is one of its instances. -/
def dimHit : List (Nat × Nat) → Nat → Bool
  | [], o => o == 0
  | (st, n) :: ds, o => decide (o / st < n) && dimHit ds (o % st)

/-- Whether a row covers an offset. -/
def RegRow.hit (x : RegRow) (o : Nat) : Bool := decide (x.off ≤ o) && dimHit x.dims (o - x.off)

/-- The row of an address; none at a reserved offset or outside the register ranges. -/
def regRow (a : Nat) : Option RegRow :=
  match regLoc a with
  | none => none
  | some l => (regRows l.win l.blk).find? (fun x => x.hit l.off)

/-- The reset value of SYS_IDENT (Table 1-8): SD, RG, CL and LEVEL by instance, STEP 0x01. -/
def identReset (l : RegLoc) : Nat :=
  match l.win with
  | 0 => l.num / 16 * 2 ^ 26 + l.num / 8 * 2 ^ 23 + l.num * 2 ^ 17 + 1
  | 1 => l.num / 2 * 2 ^ 26 + l.num * 2 ^ 23 + 1 * 2 ^ 15 + 1
  | _ => 2 * 2 ^ 15 + 1

/-- The reset value of a register, 0 at an address that holds none. SYS_IDENT is by instance; ENG_CTRL[i] resets LEAD to
4c + i (Table 6-10). -/
def regReset (a : Nat) : Word :=
  match regLoc a with
  | none => 0
  | some l =>
    if l.win < 3 ∧ l.blk = 0 ∧ l.off = 0 then BitVec.ofNat 32 (identReset l)
    else match (regRows l.win l.blk).find? (fun x => x.hit l.off) with
      | none => 0
      | some x =>
        if l.win = 0 ∧ l.blk = 7 ∧ x.off = 0x10 then BitVec.ofNat 32 (x.rst + (4 * l.num + (l.off - 0x10) / 4) * 2 ^ 16)
        else BitVec.ofNat 32 x.rst

end Sys2Proof.Machine
end

