-- ==== Sys2Proof/Config.lean ====
section
/-! DEFINITION. What an implementation fixes and the free values: constants without a body, so that nothing can be proved of
their values. Each is named in the assumption log. -/

namespace Sys2Proof

/-- The fused unique number VYN_UID of this package (R467, Table 18-2: "per fuses"). Log entry 9. -/
opaque Config.uid : BitVec 64

/-- The words of the cluster ROM (R212: the addresses are given, the words are not). Log entry 8. -/
opaque Config.romWord : Nat → HBits

/-- Whether PC r drains its queue by DMA: R299 applies to it unchanged, but no register of PC r has a DMA_EN. Log entry 23. -/
opaque Config.precDma : Nat → Bool

/-- A free natural number for the n-th open value (old or new word of R102, driver state after R105, an open outcome of
R209, bytes without defined content of R156). Log entry 3. -/
opaque Config.freeNat : Nat → Nat

/-- A free natural number for the n-th open value at an index: the samples of a mixture of R152. Log entry 3. -/
opaque Config.freeAt : Nat → Nat → Nat

/-- A free bit for the n-th open value. Log entry 3. -/
opaque Config.freeBool : Nat → Bool

/-- A free byte for the n-th open value. Log entry 3. -/
opaque Config.freeByte : Nat → Byte

/-- The RESULT that the digital corrections make of an uncorrected one under the DC items that act on it, in the order offset, gain of
the converter, then of the measurement (R320: the items are named, their arithmetic is not). Log entry 55. -/
opaque Config.dcCorrect : Nat → List Int → Nat

end Sys2Proof
end

