-- ==== Sys2Proof/Machine/State.lean ====
section
/-! DEFINITION. The state of one T1024 package as plain data. Registers stand in one file keyed by package-local address
(R12, R49); what no register holds stands in records keyed by instance number. A sparse table is a list of (key, value)
pairs with rising keys and no default value in it (Tbl.lean). -/

namespace Sys2Proof.Machine

/-- A sparse table: rising keys, no entry equal to the default. -/
abbrev Tbl (α : Type) := List (Nat × α)

/-- What a pin's driver, termination and PPMU forcer present at its contact (R130, R136-R138, R281-R283): the driver at a level
in 1/63 mV, the 50 Ω termination to a voltage in mV, nothing, a voltage in mV forced with its current limit in pA, or a current
forced, in pA / 32,768, while the pin voltage is held within two bounds in mV (R282). -/
inductive Contact where
  | drive (mv63 : Int)
  | term (mv : Int)
  | open_
  | volt (mv : Int) (limit : Nat)
  | amp (pa32768 loMv hiMv : Int)
  deriving DecidableEq, Repr

/-- The words of one edge member of a timing set as a cycle copies them (Table 3-4, R101). -/
structure EdgeWord where
  en : Bool := false
  grain : Nat := 0
  kerf : Nat := 0
  deriving DecidableEq, Repr

/-- A cycle of a pin on its own copy of the timing set (R94, R101, R117). `edges` and `trims` stand in the order of Table 3-7:
DON, D1, D2, DOFF, STROBE_A, STROBE_B. -/
structure Cycle where
  start : Nat
  period : Nat
  ts : Nat
  stream : Bool
  window : Bool
  shape : Nat
  code : Nat
  edges : List EdgeWord
  trims : List Int
  count : Nat
  vaddr : Nat
  eng : Nat
  counted : Bool := false
  missing : Bool := false
  idle : Bool := false
  unpred : Bool := false
  /-- edges and strobes whose programmed grain is at or after this grain are not placed or taken (R185, R194, R342) -/
  cut : Option Nat := none
  /-- a WAVE cycle that plays as DZ from this boundary on (Table 15-1): no edge programmed before it is placed -/
  dzFrom : Option Nat := none
  deriving DecidableEq, Repr

/-- The pending edge of the merge rule (R109): programmed time in kerfs, what it does, and its shim. -/
structure PendingEdge where
  time : Nat
  kind : EdgeKind
  turnOn : Option Bool
  level : Option Nat
  trim : Int
  deriving DecidableEq, Repr

/-- One entry of a time-interval result queue: the words RES0, RES1 and RES2 (Table 3-10). -/
structure TiaEntry where
  res0 : Word
  res1 : Word
  res2 : Word
  deriving DecidableEq, Repr

/-- A time-interval unit (R121-R127): results, and unpaired starts and stops in 1/16 kf. -/
structure Tia where
  results : List TiaEntry := []
  starts : List Nat := []
  stops : List Nat := []
  deriving DecidableEq, Repr

/-- What follows the play in progress (R149-R151). -/
inductive SegNext where
  | play (entry : Nat) (plays : Nat)
  | hold
  deriving DecidableEq, Repr

/-- The four words of a sequence table entry (Table 4-6). -/
structure SegEntry where
  w0 : Word
  w1 : Word
  w2 : Word
  w3 : Word
  deriving DecidableEq, Repr

/-- A Delta-4 conversion in progress (R153-R157): the entry number, its words at the start, and whether the entry or its segment
has been written since. -/
structure Delta4 where
  entry : Nat
  words : SegEntry
  spoiled : Bool := false
  deriving DecidableEq, Repr

/-- A Marquetry player (R141-R151): the entry in play and its words as the present play took them, the grain this play began, the
sample played before it, how many plays of the entry are complete, the choice already sampled for what follows, the held sample
if playing is over, and a waiting trigger. -/
structure Player where
  entry : Nat
  words : SegEntry
  playStart : Nat
  last : Nat
  plays : Nat
  chosen : Option SegNext := none
  held : Option Nat := none
  trig : Bool := false
  /-- the boundary at which the play in progress began, and CUR_ENTRY and INVALID before it: the play was not reached when the handover
  ends there (R142, R151) -/
  undo : Option (Nat × Nat × Bool) := none
  /-- old values of table words and of segment bytes within reach that have been written since the handover began, by address (R152) -/
  oldWords : List (Nat × Word) := []
  oldBytes : List (Nat × Byte) := []
  deriving DecidableEq, Repr

/-- A counted window of a pin (R252, R253): its number, its first counted cycle, its failing cycles, the last of them, and once
it is closed the grain at which its COUNT record stands (R242). -/
structure CountWindow where
  index : Nat
  first : Nat
  fails : Nat := 0
  lastFail : Option Nat := none
  due : Nat := 0
  deriving DecidableEq, Repr

/-- What no register holds of a pin. -/
structure PinSt where
  cyc : Option Cycle := none
  prev : Option Cycle := none
  count : Nat := 0
  hadCycle : Bool := false
  /-- R106: driver state and data level (DAC code) -/
  on : Bool := false
  level : Nat := 0
  pendEdge : Option PendingEdge := none
  /-- R136: a hold has not yet been released by a cycle or a boundary, and the grain at whose kerf 0 it began -/
  held : Bool := false
  heldFrom : Nat := 0
  /-- R284: no case in which the PPMU acts as MV has held since a tenon boundary; a Clamp latch is told apart -/
  pmuOn : Bool := false
  /-- the boundary at which a MEASURE entry's setting of the pin's PPMU last came into force (R389) -/
  pmuSince : Nat := 0
  /-- the receiver codes in force before the boundaries at which they changed, newest first (R160) -/
  oldCodes : List (Nat × Word) := []
  /-- the idle code the pin plays now, if it idles (R79, R183) -/
  idle : Option Nat := none
  /-- the boundary at which the pin's player drove again after an underrun, and the on or off state and level that the idle code had
  left (R79, R143) -/
  idleLeft : Option (Nat × Bool × Nat) := none
  /-- R171: the last five protection samples, newest first, true = out of window -/
  filter : List Bool := [false, false, false, false, false]
  latchAt : Option Nat := none
  /-- the spans of grains in which the latch was set and cleared again (R167) -/
  latchSpans : List (Nat × Nat) := []
  /-- R120: last grains in which a rising and a falling edge was stamped -/
  lastRise : Option Nat := none
  lastFall : Option Nat := none
  tia : Tia := {}
  /-- R286: the running force pulse: its end grain and its level word -/
  pulse : Option (Nat × Nat) := none
  player : Option Player := none
  window : Option CountWindow := none
  oldWindow : Option CountWindow := none
  /-- R255: a strobe of the run was not taken because of a missing tenon -/
  gap : Bool := false
  deriving DecidableEq, Repr

/-- A frame as its decoder holds it: the codes, laid over the copy of a dictionary entry when it derives from one (R215, R217):
the entry and the number of the copy. -/
structure SymFrame where
  dict : Option (Nat × Nat) := none
  bits : FrameBits := 0
  deriving DecidableEq, Repr

/-- Why a decoder cannot supply vectors from some VADDR on (R221, R342): a stream fault at an address, or a lost line. -/
inductive DecoderFault where
  | stream (addr : Nat)
  | lost
  deriving DecidableEq, Repr

/-- A cycle start in a tenon: the engine index, the grain of the tenon, the source of the codes, the 64 bits of codes of its
grain (R73), the dictionary entry and copy they are laid over, and the fault that its vector depends on. -/
structure TenonSlot where
  eng : Nat
  grain : Nat
  src : CodeSource
  dict : Option (Nat × Nat)
  codes : Nat
  fault : Option DecoderFault
  deriving DecidableEq, Repr

/-- A tenon in the Mortise or the shadow array: the boundary it is stamped for, the engine indexes whose path it holds, as a mask,
and its cycle starts (R73, R74, R195). Before its run's start grain is fixed the stamp counts from that grain. -/
structure Tenon where
  stamp : Nat
  engs : Nat
  slots : List TenonSlot
  deriving DecidableEq, Repr

/-- A record in the crossing queue with its grain and its rank within the grain (R242). -/
structure QueuedRecord where
  grain : Nat
  rank : Nat
  bits : BitVec 128
  deriving DecidableEq, Repr

/-- Scribe of a cluster (R244-R258): the crossing queue, flush, and the marks of the run. -/
structure Scribe where
  queue : List QueuedRecord := []
  flush : Bool := false
  active : Bool := false
  start : Nat := 0
  /-- the place, as grain and rank, of the first record lost since the last one written (R247) -/
  lossMark : Option (Nat × Nat) := none
  lossEvent : Bool := false
  countedEvent : Bool := false
  countedSince : Option Nat := none
  /-- the ring of another region that the setting in force names (R360) -/
  ringBad : Option Nat := none
  deriving DecidableEq, Repr

/-- A cluster summary (Table 14-5), field by field; `flow` is the flow engine that started the run. -/
structure Summary where
  cluster : Nat
  endCode : Nat
  flags : Nat
  lowEng : Nat
  gt : Nat
  failPins : Nat
  tripPins : Nat
  failResults : Nat
  firstFail : Nat
  records : Nat
  lost : Nat
  urLost : Nat
  minLead : Nat
  flow : Option Nat
  run : Nat
  deriving DecidableEq, Repr

/-- The run figures of a cluster that its summary reports (Table 14-5). -/
structure RunFigures where
  lowEng : Nat := 0
  underrun : Bool := false
  leadLow : Bool := false
  counted : Bool := false
  lost : Bool := false
  sat : Bool := false
  failPins : Nat := 0
  tripPins : Nat := 0
  failResults : Nat := 0
  firstFail : Option (Nat × Nat) := none
  minLead : Nat := 512
  /-- R107: EDGE_ORDER has been written in this run -/
  orderEvent : Bool := false
  written : Nat := 0
  lostCount : Nat := 0
  deriving DecidableEq, Repr

/-- A converter start by its start grain (R289, R292); a self-test start of RECOVER or a conversion of a flow's MEASURE entry. -/
structure ConvStart where
  grain : Nat
  selfTest : Bool := false
  flow : Bool := false
  deriving DecidableEq, Repr

/-- A converter sequence: its start, the grain of its first conversion, whether it has begun, and the settings it took. -/
structure ConvSeq where
  start : ConvStart
  begin_ : Nat
  begun : Bool := false
  chan : Nat := 0
  avg : Nat := 0
  lowPower : Bool := false
  /-- the effective mode and the range of the PPMU that it measures, at its first sampling grain (R296) -/
  mode : Nat := 0
  range : Nat := 0
  /-- the outputs in 1/1,023 mV of the threshold DACs that its conversions so far have found selected (R182) -/
  dacs : List Int := []
  deriving DecidableEq, Repr

/-- The SAR converter of a cluster (R288-R299); BUSY, POWERED and PENDING stand in ADC_STAT. -/
structure Adc where
  /-- accepted starts whose start grain has not come, in order -/
  starts : List ConvStart := []
  /-- the start grain of the last start that was discarded (R291) -/
  refused : Option Nat := none
  seq : Option ConvSeq := none
  /-- the grain at which the last sequence ended (R292) -/
  lastEnd : Option Nat := none
  waiting : Option ConvStart := none
  queue : List Word := []
  /-- entries that reads have taken from the queue (R297) -/
  popped : Nat := 0
  overrun : Bool := false
  timerSince : Nat := 0
  /-- the ring of another region that the setting in force names (R360) -/
  ringBad : Option Nat := none
  deriving DecidableEq, Repr

/-- An accepted calibration that awaits its boundary (R319), and whether it counts as verified (R326). -/
structure PendingCorr where
  values : Tbl Int
  verified : Bool
  deriving DecidableEq, Repr

/-- Gauge in a cluster (R306-R330). -/
structure Gauge where
  /-- interruption in progress: kind, start grain, pass 2 begun -/
  interruption : Option (CalKind × Nat × Bool) := none
  /-- selected reference at the start, 0 A or 1 B (R305) -/
  refSel : Nat := 0
  /-- pins that do not take part (R314) -/
  excluded : Nat := 0
  pendT : Option PendingCorr := none
  pendDc : Option PendingCorr := none
  /-- DC corrections in force (R320) -/
  dcForce : Tbl Int := []
  /-- last verified sets, none until one is accepted (R322) -/
  verT : Option (Tbl Int) := none
  verDc : Option (Tbl Int) := none
  /-- ends of calibrations of each kind since boot's phase 7, and rejections counted for waiting CAL entries -/
  endedT : Nat := 0
  endedDc : Nat := 0
  /-- R386: the flow step's end has not yet reached the cluster -/
  inStep : Bool := false
  /-- the boundary at which a pending result is applied, once it is known (R319, Table 11-2) -/
  applyAt : Option Nat := none
  /-- the grain at which a flow step ended for which a pending result waits (Table 11-2, R496) -/
  stepEnd : Option Nat := none
  deriving DecidableEq, Repr

/-- A service command in progress (R418-R424). -/
structure Service where
  op : Nat
  cut : Bool := false
  /-- a DRAIN that waits for the end of an interruption (R419) -/
  waits : Bool := false
  resume : Nat := 0
  /-- DRAIN: D and, once known, E -/
  dGrain : Nat := 0
  eGrain : Option Nat := none
  /-- RECOVER: R, self-test conversions queued so far, LOWPWR and ADC_CTRL before -/
  rGrain : Nat := 0
  selfTests : Nat := 0
  oldLowPower : Nat := 0
  doneDc : Bool := false
  doneT : Bool := false
  /-- the code with which a calibration of RECOVER failed (R423) -/
  calFail : Option Nat := none
  /-- RECOVER: the grain at which its second calibration was accepted, or one failed (R423, R424) -/
  endAt : Option Nat := none
  /-- ACTIVATE: the flash bytes, by first byte and number, that were written in the bank meanwhile (R426) -/
  spoilt : List (Nat × Nat) := []
  deriving DecidableEq, Repr

/-- What no register holds of a cluster. -/
structure ClSt where
  mortise : List Tenon := []
  shadow : List Tenon := []
  /-- tenons of both lanes made for a run, by its identifier, before its start grain is fixed (R76, R195) -/
  fill : List (Nat × Tenon) := []
  fillShadow : List (Nat × Tenon) := []
  /-- tenons of a run that has started, for which the full Mortise has no room yet (R74) -/
  waitTenons : List Tenon := []
  curMain : Option Tenon := none
  curShadow : Option Tenon := none
  boundary : Option Nat := none
  missing : Bool := false
  /-- the boundaries of the runs in progress whose tenons were missing, newest first (R81, R82, R255) -/
  missed : List Nat := []
  /-- first missing boundary and the count of the open gap (R241 INVALID) -/
  gapStart : Option Nat := none
  gapCount : Nat := 0
  /-- R78: a LEAD_LOW event may be raised -/
  leadArmed : Bool := true
  /-- the first boundary at or after which production stopped by a cut (R420) -/
  cutEnd : Option Nat := none
  /-- the tenon that was in production at the cut has not been completed since (R420) -/
  cutLast : Bool := false
  /-- the jig bank from which the stores were last loaded (R340) -/
  storeBank : Nat := 0
  scr : Scribe := {}
  /-- the figures of the runs of the cluster, by run identifier -/
  figs : List (Nat × RunFigures) := []
  adc : Adc := {}
  gauge : Gauge := {}
  svc : Option Service := none
  /-- a summary found Bench full and is kept (R503) -/
  kept : Bool := false
  /-- summaries not yet sent to Bench, oldest first (R401) -/
  toSend : List Summary := []
  deriving DecidableEq, Repr

/-- The fields of an H-form microword (Table 6-1). -/
structure Micro where
  seqOp : Nat := 8
  target : Nat := 0
  cond : Nat := 0
  condInv : Bool := false
  loopSel : Nat := 0
  loopLoad : Nat := 0
  tsEn : Bool := false
  ts : Nat := 0
  cycles : Nat := 0
  vmode : Nat := 0
  seekEn : Bool := false
  seekIdx : Nat := 0
  dictEn : Bool := false
  dictImg : Nat := 0
  segTrig : Bool := false
  capEn : Bool := false
  adcStart : Bool := false
  acqArm : Nat := 0
  waitSel : Nat := 0
  sigOp : Nat := 0
  sigSel : Nat := 0
  substEn : Bool := false
  substPtr : Nat := 0
  deriving DecidableEq, Repr

/-- Where an engine fetches (R211-R213). -/
inductive StoreSel where
  | ws
  | rom
  | patch
  deriving DecidableEq, Repr

/-- A call stack entry (R191): return address with its store, and VADDR. -/
structure StackEntry where
  sel : StoreSel
  pc : Nat
  romX : Nat
  vaddr : Nat
  deriving DecidableEq, Repr

/-- Where the lead of a ganged group stands in its program, followed by each member (R208): the lead's loop counters and the V addresses
to which its calls return. -/
structure LeadPath where
  counters : List Nat := [0, 0, 0, 0]
  calls : List Nat := []
  deriving DecidableEq, Repr

/-- What admission has read for an engine (R225, R226, R232): the leaf table and leaf count of its directory entry, DICT_COUNT and DICT_DIR
of its bundle. -/
structure EngStream where
  table : Nat := 0
  leaves : Nat := 0
  dictCount : Nat := 0
  dictDir : Nat := 0
  deriving DecidableEq, Repr

/-- The results a word's branch collects, by scope (R192), and whether the last strobe of the scope lay in a missing tenon
(R82). -/
structure Collected where
  cl : Bool := false
  rg : Bool := false
  pkg : Bool := false
  sys : Bool := false
  missCl : Bool := false
  missRg : Bool := false
  missPkg : Bool := false
  deriving DecidableEq, Repr

/-- A pending branch or WAIT exit (R192-R196, R202): close grain s, take-effect grain s + D, span of the word that collects. -/
structure PendBranch where
  s : Nat
  at_ : Nat
  level : Nat
  cond : Nat
  condInv : Bool
  flagSet : Bool
  target : Nat
  vform : Bool
  openAt : Nat
  coll : Collected
  /-- a WAIT exit: always taken, continues with the next word -/
  isWait : Bool := false
  /-- FAIL_SYS: packages whose contribution has arrived (R485) -/
  heard : Nat := 0
  /-- FAIL_SYS: the other packages of the sync domain present at grain s, whose contributions are awaited (R485) -/
  expected : Nat := 0
  /-- the settings of the taken path that the last V-form operations left (Table 6-7a) -/
  vCap : Bool := false
  vSubst : Bool := false
  vSubstPtr : Nat := 0
  vFlag : Nat := 0
  /-- the engine's state at the close grain, from which the taken path goes on (log entry 21) -/
  counters : List Nat := [0, 0, 0, 0]
  stack : List StackEntry := []
  path : LeadPath := {}
  vaddr : Nat := 0
  lastStream : Option Nat := none
  ts : Nat := 0
  sel : StoreSel := .ws
  romX : Nat := 0
  /-- the flag selector of COND FLAG -/
  flagSel : Nat := 0
  deriving DecidableEq, Repr

/-- A decode lane of an engine (R195, R216-R220): leaf table, leaf, next frame in the leaf, byte address of the next frame,
previous frame, vectors before `from_` are discarded, decoded frames by frame number, the lines fetched whole and the lines
that cannot be used, and the first vector that depends on a fault. -/
structure Decoder where
  active : Bool := false
  table : Nat := 0
  leaves : Nat := 0
  leaf : Nat := 0
  frame : Nat := 0
  /-- none until the leaf table entry has been read -/
  addr : Option Nat := none
  prevFrame : SymFrame := {}
  from_ : Nat := 0
  frames : List (Nat × SymFrame) := []
  /-- the vectors that this lane has put into tenons, by VADDR: copy of a dictionary entry and codes (R188) -/
  filled : List (Nat × Option (Nat × Nat) × Nat) := []
  lines : List Nat := []
  badLines : List Nat := []
  fault : Option (Nat × DecoderFault) := none
  deriving DecidableEq, Repr

/-- What no register holds of an engine. -/
structure EngSt where
  run : Option Nat := none
  vform : Bool := false
  lead : Nat := 0
  sel : StoreSel := .ws
  pc : Nat := 0
  /-- the ROM address that the patch store stands for (R213) -/
  romX : Nat := 0
  vaddr : Nat := 0
  counters : List Nat := [0, 0, 0, 0]
  stack : List StackEntry := []
  /-- the word in progress and its open grain; its cycle `baseCyc` starts at `baseAt`, and from there on the period holds -/
  word : Option Micro := none
  openAt : Nat := 0
  baseAt : Nat := 0
  baseCyc : Nat := 0
  ts : Nat := 0
  /-- the grain at which the word closes, or at which the next word opens when none is in progress -/
  nextAt : Option Nat := none
  /-- VADDR of the last STREAM cycle of the run (R188) -/
  lastStream : Option Nat := none
  capEn : Bool := false
  /-- V-form settings that hold from now on (Table 6-7a) -/
  vCap : Bool := false
  vSubst : Bool := false
  vSubstPtr : Nat := 0
  vFlag : Nat := 0
  coll : Collected := {}
  pend : Option PendBranch := none
  waiting : Bool := false
  waitFrom : Nat := 0
  /-- the part of the run has ended: close grain of HALT (R185) -/
  halted : Option Nat := none
  /-- lane in play and the grain from which it plays (R195) -/
  live : Lane := .main
  liveFrom : Nat := 0
  main : Decoder := {}
  shadow : Decoder := {}
  /-- R340: a START held while the store reloads -/
  heldStart : Option Nat := none
  /-- copies of dictionary entries that DICT frames have made, by number, and the number of the next copy (R217) -/
  copies : List (Nat × FrameBits) := []
  copyNo : Nat := 0
  /-- the latest grain at which substituted bits were drawn, the units that got one, and the bits (R198) -/
  drawn : Option (Nat × Nat × Nat) := none
  /-- a member of a ganged group: the lead's path up to its next operation (R208) -/
  path : LeadPath := {}
  /-- a member in a patch of an expansion: the V address of the operation after it, and the operand of the expanded one (R213) -/
  vpc : Nat := 0
  vOperand : Nat := 0
  /-- the expansion goes on at this ROM address after a RESUME (R213) -/
  vResume : Option Nat := none
  stream : EngStream := {}
  /-- grain of the last flag check of the WAIT in progress (R200, R202) -/
  lastCheck : Option Nat := none
  /-- substitution pointers that have passed the end of the secure scratchpad, as a mask (R198) -/
  substPast : Nat := 0
  /-- pins served in the run, by unit index, as ENG_SERVE stood at the start grain (R183) -/
  served : Nat := 0
  /-- period in grains of the timing set of the word in progress -/
  period : Nat := 8
  /-- the latest grain at which a pin of the engine started a cycle, and the period that it copied (R102) -/
  copied : Option (Nat × Nat) := none
  /-- R102: two pins copied different periods on one grain; the engine's pins are unpredictable to the end of the run -/
  unpred : Bool := false
  /-- R224: the last branch was taken: its close grain and its take-effect grain -/
  took : Option (Nat × Nat) := none
  /-- the close grain of the last branch that has been decided (R209) -/
  lastBr : Option Nat := none
  /-- the grain + 1 of the last check of each system flag (R485) -/
  sysChecks : Tbl Nat := []
  deriving DecidableEq, Repr

/-- A run (R184, R185). -/
structure Run where
  id : Nat
  engines : List Nat
  admitted : Bool := false
  start : Option Nat := none
  /-- clusters that have reported START_FILL, and the grain at which the last report reached pin time (R76) -/
  reports : List Nat := []
  lastReport : Nat := 0
  /-- reservations: bytes per region, region-bus operations per region, package-bus operations (R232) -/
  resBytes : List Nat := []
  resRbus : List Nat := []
  resPbus : Nat := 0
  /-- a status that ends the run, and the grain at which it reaches pin time if it is fixed (R185, R342) -/
  endCode : Option Nat := none
  endAt : Option Nat := none
  underrun : Bool := false
  flow : Option Nat := none
  deriving DecidableEq, Repr

/-- A ring of an acquisition record (R272-R279): pending gap count, units kept, dropped and staged lines (64 B each). -/
structure AcqRing where
  gap : Nat := 0
  gapSat : Bool := false
  kept : Nat := 0
  dropped : Nat := 0
  lastBlock : Nat := 0
  staged : List (List Byte) := []
  ovf : Bool := false
  /-- the DMA ring that the setting in force names, and the rings on whose lines it has raised requests that no burst has served -/
  dest : Nat := 0
  asked : List Nat := []
  /-- the ring of another region that the setting in force names (R360) -/
  ringBad : Option Nat := none
  deriving DecidableEq, Repr

/-- The settings of a digitiser in force from an arm grain (R268). -/
structure AcqCfg where
  ctrl : Word
  trig : Word
  tmin : Word
  tmax : Word
  pre : Word
  post : Word
  auto : Word
  block : Word
  ring : Word
  ring2 : Word
  deriving DecidableEq, Repr

/-- Idle, armed with its arm grain, or acquiring with its trigger sample (R263-R267). -/
inductive AcqPhase where
  | idle
  | armed (a : Nat)
  | acquiring (a n : Nat) (forced : Bool)
  deriving DecidableEq, Repr

/-- What no register holds of a digitiser. -/
structure DigSt where
  phase : AcqPhase := .idle
  cfg : Option AcqCfg := none
  /-- the codes of the samples from the arm grain on: the history buffer and what a record takes after it (R265) -/
  samples : List Byte := []
  rangeForce : Word := 0x00010000
  /-- the ACQ_RANGE value that is held (R268) -/
  rangeHold : Option Word := none
  /-- the boundary at which a held ACQ_RANGE write takes effect (R268) -/
  rangeDue : Option Nat := none
  /-- flags to set and their boundaries (R271) -/
  flagDue : List (Nat × Nat) := []
  raw : AcqRing := {}
  minMax : AcqRing := {}
  mean : AcqRing := {}
  ovfEvent : Bool := false
  deriving DecidableEq, Repr

/-- An entry of a precision converter before it is written: CLIP, CLAMP, LP, BADCH, the tag and the uncorrected result (Table
10-5). -/
structure PrecEntry where
  clip : Bool
  clamp : Bool
  lowPower : Bool
  bad : Bool
  tag : Nat
  result : Nat
  deriving DecidableEq, Repr

/-- The sinc filter and queue of a precision converter (R300-R303): integrators, combs, conversions since the restart. -/
structure PrecConv where
  running : Bool := false
  /-- the grain of the next conversion -/
  nextAt : Nat := 0
  count : Nat := 0
  integ : List Int := [0, 0, 0, 0]
  comb : List Int := [0, 0, 0, 0]
  lowPower : Bool := false
  /-- CLIP and CLAMP of the present M conversions and of the M-blocks before, newest first -/
  marks : Bool × Bool := (false, false)
  oldMarks : List (Bool × Bool) := []
  queue : List Word := []
  /-- entries that reads have taken from the queue (R297) -/
  popped : Nat := 0
  overrun : Bool := false
  /-- the entry whose last conversion ends at a grain (R302) -/
  due : Option (Nat × PrecEntry) := none
  /-- the ring of another region that the setting in force names (R360) -/
  ringBad : Option Nat := none
  deriving DecidableEq, Repr

/-- A block under test: its first byte address (R345). -/
structure BlockTester where
  next : Nat := 0
  block : Option Nat := none
  deriving DecidableEq, Repr

/-- What no register holds of a region. -/
structure RgSt where
  fenced : Bool := false
  /-- grain of a fence or of a declared silence whose safe state is due (R45) -/
  safeDue : Option Nat := none
  safe : Bool := false
  lastSlice : Nat := 0
  lastHub : Nat := 0
  silentSlice : Bool := false
  silentHub : Bool := false
  /-- window number and the Scribe and acquisition bytes begun in it (R246, R277) -/
  winIndex : Nat := 0
  winFail : Nat := 0
  winAcq : Nat := 0
  hbmWalk : Nat := 0
  sramWalk : Nat := 0
  tester : BlockTester := {}
  hbmInit : Bool := false
  ppr : Option (Nat × Bool) := none
  poolFree : List Nat := []
  poolWait : List Nat := []
  prec : PrecConv := {}
  deriving DecidableEq, Repr

/-- What a burst carries back to when it completes (R374). -/
inductive BurstSource where
  | scribe (c : Nat) (records : Nat)
  | acq (d : Nat) (ring : Nat) (lines : Nat)
  | conv (c : Nat) (entries : Nat)
  | prec (r : Nat) (entries : Nat)
  | copy
  deriving DecidableEq, Repr

/-- A burst in progress (R369): its ring, the beats still to move (64 B each) for RECEIVE, or the bytes still to move for
COPY. -/
structure Burst where
  ring : Nat
  src : BurstSource
  beats : List (List Byte) := []
  left : Nat := 0
  /-- a beat of it has moved -/
  moving : Bool := false
  /-- it moved the last beat among the channels of its PRIO: its turn goes on (R372, R373) -/
  serving : Bool := false
  noBuf : Bool := false
  /-- how many entries its source had given up when the burst began (R374) -/
  base : Nat := 0
  /-- for each beat, the poisoned source line that it carries (R336) -/
  bad : List (Option Nat) := []
  deriving DecidableEq, Repr

/-- A DMA channel (R361, R372). -/
structure ChanSt where
  burst : Option Burst := none
  lastRing : Nat := 63
  deriving DecidableEq, Repr

/-- A descriptor held by the engine (Table 13-1). -/
structure Desc where
  addr : Nat
  copy : Bool
  close : Bool
  evt : Bool
  pool : Bool
  length : Nat
  a : Nat
  b : Nat
  deriving DecidableEq, Repr

/-- A completion that has begun (R365): result, side, code and error address. -/
structure Completion where
  result : Nat
  side : Nat
  code : Nat
  errAddr : Option Nat
  deriving DecidableEq, Repr

/-- A ring (R362-R371): descriptor at HEAD, fill offset or bytes copied, first poisoned source line, completion write that
failed, OWN 0 met below TAIL, and room for a burst found short since the last TAIL write. -/
structure RingSt where
  desc : Option Desc := none
  off : Nat := 0
  poisonAt : Option Nat := none
  failed : Option Completion := none
  waitTail : Bool := false
  short : Bool := false
  deriving DecidableEq, Repr

/-- What a flow entry in progress waits for (R388-R393). -/
inductive FlowWaitFor where
  | none
  | run (id : Nat) (clusters : List Nat) (results : List (Nat × Nat × Nat × Nat))
  /-- SETTLE of a MEASURE entry, the pins still to convert and the results (R389) -/
  | measure (settle : Nat) (todo : List Nat) (results : List (Nat × Int))
  /-- the kinds and clusters of a CAL entry, and the clusters of the calibrations rejected or discarded since, one for each -/
  | cal (timing dc : Bool) (clusters rejects : List Nat)
  | gt (until_ : Nat)
  | flag (f : Nat)
  | cont
  | done
  deriving DecidableEq, Repr

/-- A flow entry in progress: its index, the sites it still serves and its 64 bytes (R385, R387). -/
structure FlowEntry where
  idx : Nat
  sites : List Nat
  bytes : List Byte
  deriving DecidableEq, Repr

/-- What a writer of the datalog does as its turn comes, with the flow engine of those that have one: a record, the START record of a
site, or all that END of a site is (R396, R399, R400). -/
inductive LogTask where
  | record (bytes : List Byte)
  | start (flow site test : Nat)
  | siteEnd (flow site test : Nat) (err : Bool)
  deriving DecidableEq, Repr

/-- A flow engine (R381-R397). -/
structure FlowSt where
  entry : Option FlowEntry := none
  waiting : FlowWaitFor := .none
  deriving DecidableEq, Repr

/-- A site (R382, R384): its pointer, the pointer after the entry in progress, FLW_INSERT at the insertion start, whether it takes part
in the insertion. -/
structure SiteSt where
  ptr : Nat := 0
  next : Nat := 0
  insert : Nat := 0
  active : Bool := false
  deriving DecidableEq, Repr

/-- A partner port (R456, R458). -/
structure PortSt where
  outstanding : Bool := false
  loss : Bool := false
  deriving DecidableEq, Repr

/-- The hub's timebase, secure scratchpad, thermal, voltage and memory-walker state. -/
structure HubSt where
  gtCleared : Bool := false
  holdSince : Option Nat := none
  phaseErr : Int := 0
  slewing : Bool := false
  /-- the first grain at which the phase may move another 1 kf (R68) -/
  slewAt : Nat := 0
  aligning : Bool := false
  holdSafe : Bool := false
  failoverT : Bool := false
  failoverPending : Bool := false
  conflictSafe : Bool := false
  conflictAt : Option Nat := none
  thermTripLow : Bool := false
  /-- the voltage reference selected in force, 0 A or 1 B: a VSEL write acts from the next DC interruption start (Table 11-4) -/
  vsel : Nat := 0
  walk : Nat := 0
  tester : BlockTester := {}
  histFill : Nat := 0
  histFillV : Nat := 0
  deriving DecidableEq, Repr

/-- Boot controller (R427-R445). -/
structure BootSt where
  /-- 0 in reset, 1 SFDP, 2 headers, 3 REPAIR, 4 CONFIG, 5 other sections, 6 lock, 7 calibration, 8 done -/
  phase : Nat := 0
  bank : Nat := 0
  tried : List Nat := []
  /-- section to load next, 1 CONFIG to 9 ROLES; 8 REPAIR first -/
  section_ : Nat := 8
  expDown : Bool := false
  lateFetch : List (Nat × Nat) := []
  flashOp : Option (Nat × Nat) := none
  actHub : Bool := false
  lcTarget : Option Nat := none
  /-- spare rows in use: (array, inst, bank, row, spare) -/
  repairs : List (Nat × Nat × Nat × Nat × Nat) := []
  /-- repairs not yet programmed into the REPAIR section (R347, R440) -/
  appends : List (Nat × Nat × Nat × Nat × Nat) := []
  reports : Nat := 0
  modes : List Nat := []
  deriving DecidableEq, Repr

/-- Vyene system state (R465-R486): the identities learned of other packages, the count of the watchdog oscillator in grains when a UID
was last learned (R468), the UID at the far end of each link, the grain of the last LEASE, an election to be held, whether the package
joined its system since the link term in force was adopted (R484), and the links of the domain with which that term was found (R483). -/
structure VynSt where
  known : List Identity := []
  learnedAt : Nat := 0
  peers : List (LinkNo × Nat) := []
  lastLease : Nat := 0
  electing : Bool := false
  joined : Bool := false
  links : List PkgLink := []
  deriving DecidableEq, Repr

/-- State of a line of the shared-flow cache (R488). -/
inductive LineState where
  | m
  | e
  | s
  | i
  deriving DecidableEq, Repr

/-- A cache line: state and 64 bytes of data; `put` tells that it was evicted from M (true) or E (false) and not asked for since: a
snoop that finds it so meets a PUT in flight (R490). -/
structure CacheLine where
  st : LineState := .i
  data : List Byte := []
  put : Option Bool := none
  deriving DecidableEq, Repr

/-- A home directory entry (R488): I, S with a mask of sharers, X with an owner. -/
inductive DirEntry where
  | i
  | s (mask : Nat)
  | x (owner : Nat)
  deriving DecidableEq, Repr

/-- A request that waits for a snoop at the home (R489, R490): requester, exclusive or shared, sharers still to answer. -/
structure HomeBusy where
  requester : Nat
  exclusive : Bool
  toAnswer : Nat
  upgrade : Bool := false
  deriving DecidableEq, Repr

/-- A request of a cache to a line's home (Table 18-1). -/
inductive HomeReq where
  | readS
  | readX
  | upgrade
  deriving DecidableEq, Repr

/-- A request that waits at the home for a busy line (R489). -/
structure HomeWait where
  line : Nat
  requester : Nat
  req : HomeReq
  deriving DecidableEq, Repr

/-- A write of bytes within a line of the shared flow space; absent bytes are not enabled. `poison` tells that it carries poison
(R376). -/
structure FlowStore where
  line : Nat
  off : Nat
  data : List (Option Byte)
  poison : Bool := false
  deriving DecidableEq, Repr

/-- What the package sends out. -/
inductive Output where
  /-- completion of a partner read: port, status 0 SC, 1 CA, 2 UR, 3 SC with EP; data bytes -/
  | completion (port : Nat) (status : Nat) (data : List Byte)
  /-- MSI-X message of a port (R458) -/
  | msix (port : Nat)
  /-- the contact of a pin changes at a time in kerfs: a placed drive edge (R114), or a boundary, a hold or a handover -/
  | contact (pin : Nat) (timeKf : Int) (what : Contact)
  /-- heartbeat to PF r (R46) -/
  | heartbeat (r : Nat) (hub : Bool)
  /-- SYNC_OUT pulse at a GT (R486) -/
  | syncOut (gt : Nat)
  /-- Vyene message: kind, destination package or 16 for every link, arguments -/
  | vyene (kind : String) (dest : Nat) (args : List Nat)
  /-- coherence message for a line, with data -/
  | coherence (kind : String) (dest : Nat) (line : Nat) (data : Payload)
  /-- THERMTRIP_N driven low (R514) -/
  | thermtrip
  /-- answer to another package's access -/
  | remoteReply (pkg : Nat) (answer : Payload)
  /-- a write to an address of another package; absent bytes are not enabled; `poison` tells that the line is poisoned (R376) -/
  | remoteWrite (pkg addr : Nat) (data : List (Option Byte)) (poison : Bool)
  deriving DecidableEq, Repr

/-- A message to a cluster timebase (R84, R139, R201, R496): a register, the value that a write gave it or the bits of a command
that acts at a tenon boundary, the requester, the grain at which it left, and the grain at which it reached pin time. -/
structure PinMsg where
  addr : Nat
  value : Word
  port : Nat
  sent : Nat := 0
  reached : Option Nat := none
  deriving DecidableEq, Repr

/-- The state of the package. -/
structure State where
  /-- commands waiting, first in, first out -/
  pending : List Instr := []
  gt : Nat := 0
  regs : Tbl Word := []
  force : Tbl Word := []
  /-- messages on their way to the timebases, oldest first (R496) -/
  inFlight : List PinMsg := []
  shadows : Tbl Word := []
  free : Nat := 0
  outs : List Output := []
  mem : List Host.Cell := []
  poison : Tbl Bool := []
  stores : Tbl HBits := []
  storePoison : Tbl Bool := []
  storeWritten : Tbl Bool := []
  /-- the Delta-4 conversion that runs in a cluster (R153-R157) -/
  codings : Tbl (Option Delta4) := []
  flags : Tbl Bool := []
  /-- last set of a flag: grain + 1 and source + 1 (R200: a set wins over a clear of another source on one grain) -/
  flagSets : Tbl (Nat × Nat) := []
  /-- system flag changes to come: flag, grain, set or clear, source (R200) -/
  sysFlagDue : List (Nat × Nat × Bool × Nat) := []
  /-- late system flag changes: flag, take-effect grain missed, boundary at which it changes (R485) -/
  lateFlags : List (Nat × Nat × Nat) := []
  pins : Tbl PinSt := []
  clusters : Tbl ClSt := []
  engines : Tbl EngSt := []
  runs : List Run := []
  nextRun : Nat := 0
  digs : Tbl DigSt := []
  regions : Tbl RgSt := []
  dmaLast : Tbl Nat := []
  chans : Tbl ChanSt := []
  rings : Tbl RingSt := []
  flows : Tbl FlowSt := []
  sites : Tbl SiteSt := []
  bench : List Summary := []
  pkgBench : List PkgSummary := []
  logWait : List LogTask := []
  /-- bytes of written records whose place is in registers, on their way there (R48, R398) -/
  flowRegs : List (Nat × List Byte) := []
  ports : Tbl PortSt := []
  hub : HubSt := {}
  boot : BootSt := {}
  vyn : VynSt := {}
  cache : Tbl CacheLine := []
  dir : Tbl DirEntry := []
  homeBusy : Tbl HomeBusy := []
  /-- requests of caches that wait at their home for a busy line (R489) -/
  homeWaits : List HomeWait := []
  /-- writes of this package that wait for their cache to own a line, oldest first (R488) -/
  flowStores : List FlowStore := []
  expCap : Tbl Nat := []
  flash : List Host.Cell := []
  fuses : Nat := 0
  /-- RESET_N is high -/
  resetN : Bool := false
  /-- TAMPER_N is high -/
  tamperN : Bool := true
  deriving DecidableEq, Repr

/-- No command of the model ends in a fault: every error of the block is an effect on State. The one constructor is kept for
the interface and raised by nobody (safe). -/
inductive Fault where
  | unreachable
  deriving DecidableEq, Repr

/-- Refusals. `notModelled` names a command without a meaning; no arm of exec raises it any more (safe). -/
inductive Refusal where
  | notModelled (mnemonic : String)
  deriving DecidableEq, Repr

/-- The package right after reset, RESET_N low (R508, R509): every register at its reset value, every memory zero, every store
word HALT (R517), the reset wipe in progress (SEC_STAT.WIPING resets to 1), no command waiting. -/
def State.reset : State := {}

end Sys2Proof.Machine
end

