-- ==== Sys2Proof/Machine/Tbl.lean ====
section
/-! DEFINITION. Reads and writes of sparse tables. The default of each key is a function of the key; a table in canonical form
has rising keys and no entry equal to its key's default. -/

namespace Sys2Proof.Machine

/-- The value at a key. -/
def tget {α : Type} (d : Nat → α) : Tbl α → Nat → α
  | [], n => d n
  | (k, v) :: t, n => if k = n then v else tget d t n

/-- Remove a key. -/
def tdel {α : Type} : Tbl α → Nat → Tbl α
  | [], _ => []
  | (k, v) :: t, n => if k = n then tdel t n else (k, v) :: tdel t n

/-- Insert a key that is absent, keeping the keys rising. -/
def tins {α : Type} : Tbl α → Nat → α → Tbl α
  | [], n, x => [(n, x)]
  | (k, v) :: t, n, x => if k < n then (k, v) :: tins t n x else (n, x) :: (k, v) :: t

/-- Write a key; writing the default removes the entry. -/
def tput {α : Type} [DecidableEq α] (d : Nat → α) (t : Tbl α) (n : Nat) (x : α) : Tbl α :=
  if x = d n then tdel t n else tins (tdel t n) n x

/-- All keys of a table lie above a bound and rise, and no entry equals its default. -/
def twfFrom {α : Type} [DecidableEq α] (d : Nat → α) : Option Nat → Tbl α → Bool
  | _, [] => true
  | b, (k, v) :: t =>
    (match b with
      | none => true
      | some m => decide (m < k)) && decide (v ≠ d k) && twfFrom d (some k) t

/-- The canonical form. -/
def twf {α : Type} [DecidableEq α] (d : Nat → α) (t : Tbl α) : Bool := twfFrom d none t

/-- Write consecutive keys. -/
def tputs {α : Type} [DecidableEq α] (d : Nat → α) (t : Tbl α) (n : Nat) : List α → Tbl α
  | [] => t
  | x :: xs => tputs d (tput d t n x) (n + 1) xs

/-- Read consecutive keys. -/
def tgets {α : Type} (d : Nat → α) (t : Tbl α) (n : Nat) : Nat → List α
  | 0 => []
  | k + 1 => tget d t n :: tgets d t (n + 1) k

end Sys2Proof.Machine
end

