-- ==== Sys2Proof/Machine/Ops.lean ====
section
/-! DEFINITION. The operations every meaning shares: records of an instance, register reads and writes, the grain counter, free
values, outputs and the address map. -/

namespace Sys2Proof.Machine

/-- The next state. -/
abbrev ok (s : State) : Host.Outcome State Fault Refusal := .next s

/-! Records. -/

/-- Pin p. -/
def State.pin (s : State) (p : Nat) : PinSt := tget (fun _ => {}) s.pins p
/-- Write pin p. -/
def State.setPin (s : State) (p : Nat) (x : PinSt) : State := { s with pins := tput (fun _ => {}) s.pins p x }
/-- Update pin p. -/
def State.updPin (s : State) (p : Nat) (f : PinSt → PinSt) : State := s.setPin p (f (s.pin p))
/-- Cluster c. -/
def State.cl (s : State) (c : Nat) : ClSt := tget (fun _ => {}) s.clusters c
/-- Write cluster c. -/
def State.setCl (s : State) (c : Nat) (x : ClSt) : State := { s with clusters := tput (fun _ => {}) s.clusters c x }
/-- Update cluster c. -/
def State.updCl (s : State) (c : Nat) (f : ClSt → ClSt) : State := s.setCl c (f (s.cl c))
/-- Engine e. -/
def State.eng (s : State) (e : Nat) : EngSt := tget (fun _ => {}) s.engines e
/-- Write engine e. -/
def State.setEng (s : State) (e : Nat) (x : EngSt) : State := { s with engines := tput (fun _ => {}) s.engines e x }
/-- Update engine e. -/
def State.updEng (s : State) (e : Nat) (f : EngSt → EngSt) : State := s.setEng e (f (s.eng e))
/-- Digitiser d. -/
def State.dig (s : State) (d : Nat) : DigSt := tget (fun _ => {}) s.digs d
/-- Write digitiser d. -/
def State.setDig (s : State) (d : Nat) (x : DigSt) : State := { s with digs := tput (fun _ => {}) s.digs d x }
/-- Update digitiser d. -/
def State.updDig (s : State) (d : Nat) (f : DigSt → DigSt) : State := s.setDig d (f (s.dig d))
/-- Region r. -/
def State.rg (s : State) (r : Nat) : RgSt := tget (fun _ => {}) s.regions r
/-- Write region r. -/
def State.setRg (s : State) (r : Nat) (x : RgSt) : State := { s with regions := tput (fun _ => {}) s.regions r x }
/-- Update region r. -/
def State.updRg (s : State) (r : Nat) (f : RgSt → RgSt) : State := s.setRg r (f (s.rg r))
/-- Update the hub. -/
def State.updHub (s : State) (f : HubSt → HubSt) : State := { s with hub := f s.hub }
/-- Update what boot holds. -/
def State.updBoot (s : State) (f : BootSt → BootSt) : State := { s with boot := f s.boot }
/-- Update what the package knows of the VYENE system. -/
def State.updVyn (s : State) (f : VynSt → VynSt) : State := { s with vyn := f s.vyn }
/-- DMA channel, numbered 128 × region + 64 × (engine mod 2) + channel. -/
def State.chan (s : State) (n : Nat) : ChanSt := tget (fun _ => {}) s.chans n
/-- Write a DMA channel. -/
def State.setChan (s : State) (n : Nat) (x : ChanSt) : State := { s with chans := tput (fun _ => {}) s.chans n x }
/-- Ring. -/
def State.ring (s : State) (n : Nat) : RingSt := tget (fun _ => {}) s.rings n
/-- Write a ring. -/
def State.setRing (s : State) (n : Nat) (x : RingSt) : State := { s with rings := tput (fun _ => {}) s.rings n x }
/-- Update a ring. -/
def State.updRing (s : State) (n : Nat) (f : RingSt → RingSt) : State := s.setRing n (f (s.ring n))
/-- Flow engine n. -/
def State.flow (s : State) (n : Nat) : FlowSt := tget (fun _ => {}) s.flows n
/-- Write flow engine n. -/
def State.setFlow (s : State) (n : Nat) (x : FlowSt) : State := { s with flows := tput (fun _ => {}) s.flows n x }
/-- Update flow engine n. -/
def State.updFlow (s : State) (n : Nat) (f : FlowSt → FlowSt) : State := s.setFlow n (f (s.flow n))
/-- Site k of the package (R382). -/
def State.site (s : State) (k : Nat) : SiteSt := tget (fun _ => {}) s.sites k
/-- Write a site. -/
def State.setSite (s : State) (k : Nat) (x : SiteSt) : State := { s with sites := tput (fun _ => {}) s.sites k x }
/-- Update a site. -/
def State.updSite (s : State) (k : Nat) (f : SiteSt → SiteSt) : State := s.setSite k (f (s.site k))
/-- Partner port n. -/
def State.port (s : State) (n : Nat) : PortSt := tget (fun _ => {}) s.ports n
/-- Write partner port n. -/
def State.setPort (s : State) (n : Nat) (x : PortSt) : State := { s with ports := tput (fun _ => {}) s.ports n x }
/-- A flag, by flag key (Engine flags, Table 6-4). -/
def State.flag (s : State) (k : Nat) : Bool := tget (fun _ => false) s.flags k
/-- Write a flag. -/
def State.setFlag (s : State) (k : Nat) (b : Bool) : State := { s with flags := tput (fun _ => false) s.flags k b }
/-- The run with an identifier. -/
def State.runOf (s : State) (id : Nat) : Option Run := s.runs.find? (fun r => r.id == id)
/-- Update a run. -/
def State.updRun (s : State) (id : Nat) (f : Run → Run) : State :=
  { s with runs := s.runs.map (fun r => if r.id = id then f r else r) }

/-! Registers. -/

/-- The stored value of a register. -/
def State.reg (s : State) (a : Nat) : Word := tget regReset s.regs a
/-- Store a register. -/
def State.setReg (s : State) (a : Nat) (w : Word) : State := { s with regs := tput regReset s.regs a w }
/-- A field of a register. -/
def State.fld (s : State) (a : Nat) (f : Fld) : Nat := getF (s.reg a) f
/-- Store a field; the register's other bits keep their values. -/
def State.setFld (s : State) (a : Nat) (f : Fld) (v : Nat) : State := s.setReg a (setF (s.reg a) f v)
/-- A one-bit field. -/
def State.bit (s : State) (a : Nat) (f : Fld) : Bool := s.fld a f == 1
/-- Store a one-bit field. -/
def State.setBit (s : State) (a : Nat) (f : Fld) (b : Bool) : State := s.setFld a f (if b then 1 else 0)
/-- Add to a counter field that saturates at its largest value (R502). -/
def State.countSat (s : State) (a : Nat) (f : Fld) (k : Nat) : State := s.setFld a f (satAdd f.width (s.fld a f) k)
/-- Set bit u of a field of sticky bits. -/
def State.orBit (s : State) (a : Nat) (f : Fld) (u : Nat) : State := s.setFld a f (setNBit (s.fld a f) u true)
/-- Bit u of a field. -/
def State.fbit (s : State) (a : Nat) (f : Fld) (u : Nat) : Bool := nbit (s.fld a f) u
/-- Store a number of 64 bits in a _LO and _HI pair of registers. -/
def State.setPair (s : State) (lo hi : Nat) (v : Nat) : State := (s.setReg lo (loHalf v)).setReg hi (hiHalf v)
/-- The value of a _LO and _HI pair. -/
def State.pair (s : State) (lo hi : Nat) : Nat := (s.reg lo).toNat + (s.reg hi).toNat * 2 ^ 32

/-- The value of a register in force in pin time (R84, R139). -/
def State.inForce (s : State) (a : Nat) : Word := tget regReset s.force a
/-- A field of a register in force. -/
def State.ffld (s : State) (a : Nat) (f : Fld) : Nat := getF (s.inForce a) f
/-- A one-bit field of a register in force. -/
def State.fbitF (s : State) (a : Nat) (f : Fld) : Bool := s.ffld a f == 1
/-- Bring a value into force. -/
def State.setForce (s : State) (a : Nat) (w : Word) : State := { s with force := tput regReset s.force a w }
/-- Store a register and bring it into force (boot, R432). -/
def State.setBoth (s : State) (a : Nat) (w : Word) : State := (s.setReg a w).setForce a w
/-- A message of a requester leaves for a cluster timebase (R496). -/
def State.sendAct (s : State) (port a : Nat) (w : Word) : State :=
  { s with inFlight := s.inFlight ++ [{ addr := a, value := w, port := port, sent := s.gt }] }
/-- A message with a written value leaves for a cluster timebase (R496). -/
def State.sendPin (s : State) (a : Nat) (w : Word) : State := s.sendAct 0 a w

/-- The value a partner write gives a register (R19, R452): the bytes enabled by `be` act, a disabled byte acts as its present
value in an RW field and as 0 in a W1C field. W1S, WO, RO and RC bits are left to the command's own rule. -/
def writeWord (x : RegRow) (old v : Word) (be : BitVec 4) : Word :=
  let rw := BitVec.ofNat 32 x.rw &&& beMask be
  let w1c := BitVec.ofNat 32 x.w1c &&& beMask be
  ((old &&& ~~~rw) ||| (v &&& rw)) &&& ~~~(v &&& w1c)

/-- A partner write applied to the stored register (R20); a reserved offset ignores it (R52). -/
def State.partnerWrite (s : State) (a : Nat) (v : Word) (be : BitVec 4) : State :=
  match regRow a with
  | none => s
  | some x => s.setReg a (writeWord x (s.reg a) v be)

/-- The write as if its disabled bytes held their present value in RW fields and 0 elsewhere (R452). -/
def State.effective (s : State) (a : Nat) (v : Word) (be : BitVec 4) : Word :=
  match regRow a with
  | none => v &&& beMask be
  | some x => (v &&& beMask be) ||| (s.reg a &&& BitVec.ofNat 32 x.rw &&& ~~~beMask be)

/-- A read returns RC fields to their reset values (R19, R21). -/
def State.clearRc (s : State) (a : Nat) : State :=
  match regRow a with
  | none => s
  | some x =>
    let m := BitVec.ofNat 32 x.rc
    if m = 0 then s else s.setReg a ((s.reg a &&& ~~~m) ||| (BitVec.ofNat 32 x.rst &&& m))

/-- The bits a read of a register returns (WO bits read 0, R19). -/
def readMask (a : Nat) : Word :=
  match regRow a with
  | none => 0
  | some x => ~~~(BitVec.ofNat 32 x.wo)

/-! Time, free values, outputs. -/

/-- Pin time has reached grain g. -/
def State.at (s : State) (g : Nat) : State := { s with gt := max s.gt g }
/-- The GT register value (R70: 64 bits). -/
def State.gt64 (s : State) : Nat := s.gt % 2 ^ 64
/-- The first tenon boundary at or after a grain (R71). -/
def boundaryAt (g : Nat) : Nat := (g + 63) / 64 * 64
/-- The first tenon boundary after a grain. -/
def boundaryAfter (g : Nat) : Nat := (g / 64 + 1) * 64
/-- A transfer from SD r / 2 has reached PF r: the link is not silent (R46). -/
def State.sliceSeen (s : State) (r : Nat) : State := s.updRg r (fun x => { x with lastSlice := max s.gt x.lastSlice })
/-- What a partner wrote reaches cluster c at boundary b, over the link of its slice die (R46, R496). -/
def State.atCluster (s : State) (c b : Nat) : State := (s.at b).sliceSeen (c / 8)

/-- The counter of free values advances. -/
def State.useFree (s : State) : State := { s with free := s.free + 1 }
/-- n bytes without defined content, the first with number f (R156, R261). -/
def freeBytes (f n : Nat) : List Byte := (List.range n).map (fun i => Config.freeByte (f + i))
/-- An output leaves the package. -/
def State.send (s : State) (o : Output) : State := { s with outs := s.outs ++ [o] }
/-- This package's ID (R30, R37). -/
def State.pkgId (s : State) : Nat := s.fld HUB_SYS_IDENT SYS_IDENT_PKG_ID
/-- Bit k of VYN_IDS.PRESENT. -/
def State.present (s : State) (k : Nat) : Bool := s.fbit VYN_IDS VYN_IDS_PRESENT k

/-- The other packages of this package's sync domain, as a mask of IDs (R471, R475): none when no master is known. -/
def State.domainOthers (s : State) : Nat :=
  if s.bit VYN_SYS_STAT VYN_SYS_STAT_NOMASTER then 0 else setNBit (s.fld VYN_IDS VYN_IDS_PRESENT) s.pkgId false

/-! Status and event codes (Table 17-3). -/

def codeOk : Nat := 0x00
def codeBadDesc : Nat := 0x01
def codeBusError : Nat := 0x02
def codeNoBuffer : Nat := 0x03
def codeNoRing : Nat := 0x04
def codeUnderrun : Nat := 0x10
def codeLeadLow : Nat := 0x11
def codeDataLost : Nat := 0x12
def codeDeadlock : Nat := 0x13
def codeTrip : Nat := 0x14
def codeCounted : Nat := 0x15
def codeOvf : Nat := 0x16
def codeAdmission : Nat := 0x17
def codeEdgeOrder : Nat := 0x20
def codeOrder : Nat := 0x21
def codeCoincident : Nat := 0x22
def codeRefSuspect : Nat := 0x30
def codeCalDisagree : Nat := 0x31
def codeCalUnverified : Nat := 0x32
def codeViolation : Nat := 0x40
def codeEpochConflict : Nat := 0x41
def codeSystemFull : Nat := 0x42
def codePoison : Nat := 0x50
def codeDamaged : Nat := 0x51

/-! Address kinds (Table 1-11). -/

/-- What a package-local address names (Table 1-11). -/
inductive AddrKind where
  | hbm (r : Nat)
  | expansion (x : Nat)
  | scratch (c : Nat)
  | regionSram (r : Nat)
  | hubSram
  | flow (home : Nat)
  | register
  | secure
  | unmapped
  deriving DecidableEq, Repr

/-- The range of Table 1-11 that holds an address. -/
def addrKind (a : Nat) : AddrKind :=
  if a < 0x03000000000 then .hbm (a / 0x600000000)
  else if 0x10000000000 ≤ a ∧ a < 0x20000000000 then .expansion ((a - 0x10000000000) / 0x4000000000)
  else if 0x30000000000 ≤ a ∧ a < 0x30010000000 then .scratch ((a - 0x30000000000) / 0x400000)
  else if 0x30100000000 ≤ a ∧ a < 0x30104000000 then .regionSram ((a - 0x30100000000) / 0x800000)
  else if (0x30200000000 ≤ a ∧ a < 0x30201A00000) ∨ (0x30201E00000 ≤ a ∧ a < 0x30202000000) then .hubSram
  else if 0x30300000000 ≤ a ∧ a < 0x30304000000 then .flow ((a - 0x30300000000) / 0x400000)
  else if (0x3F000000000 ≤ a ∧ a < 0x3F040000000) ∨ (0x3F100000000 ≤ a ∧ a < 0x3F108000000) ∨
      (0x3F200000000 ≤ a ∧ a < 0x3F210000000) ∨ (0x3F300000000 ≤ a ∧ a < 0x3F301000000) then .register
  else if 0x3FF00000000 ≤ a ∧ a < 0x3FF00100000 then .secure
  else .unmapped

/-- The region an address belongs to, for fences (R42): HBM, scratchpads, region SRAM and registers of a region. -/
def addrRegion (a : Nat) : Option Nat :=
  match addrKind a with
  | .hbm r => some r
  | .scratch c => some (c / 8)
  | .regionSram r => some r
  | .register =>
    match regLoc a with
    | some l => if l.win = 0 then some (l.num / 8) else if l.win = 1 then some l.num else none
    | none => none
  | _ => none

/-- Whether the region of an address is fenced (R42). -/
def State.fencedAt (s : State) (a : Nat) : Bool :=
  match addrRegion a with
  | some r => (s.rg r).fenced
  | none => false

/-- The capacity of expansion port X n (R51). -/
def State.expCapOf (s : State) (n : Nat) : Nat := tget (fun _ => 0) s.expCap n

/-- Whether an access to a memory address completes with BUS_ERROR (R42, R51, R349, R487). Registers and the secure scratchpad
are told apart by the caller. -/
def State.busErrorAt (s : State) (a : Nat) : Bool :=
  s.fencedAt a ||
  match addrKind a with
  | .hbm r => s.bit (MEM_PPR_STAT r) MEM_PPR_STAT_BUSY
  | .expansion x => decide (s.expCapOf x ≤ a - (0x10000000000 + x * 0x4000000000))
  | .flow h => !s.present h
  | .unmapped => true
  | _ => false

/-- Whether an address lies in plain memory. -/
def isMemory (a : Nat) : Bool :=
  match addrKind a with
  | .register => false
  | .secure => false
  | .unmapped => false
  | _ => true

/-- Whether all of [a, a + n) is memory that can be reached now. -/
def State.memOk (s : State) (a n : Nat) : Bool :=
  isMemory a && isMemory (a + n - 1) && !s.busErrorAt a && !s.busErrorAt (a + n - 1)

end Sys2Proof.Machine
end

