-- ==== Sys2Proof/Machine/Segment.lean ====
section
/-! DEFINITION. The segment store and the sequence table as memory: entries (Table 4-6), the entries and bytes that a playing pin can
reach, and what a write of them does (R145, R148-R152, R157). -/

namespace Sys2Proof.Machine

/-- VALID of an entry (Table 4-6). -/
def SegEntry.valid (x : SegEntry) : Bool := getB x.w0 31
/-- CODING 1, Delta-4. -/
def SegEntry.delta (x : SegEntry) : Bool := getB x.w0 24
def SegEntry.anchor (x : SegEntry) : Nat := getF x.w0 SEG_SST_W0_ANCHOR
def SegEntry.start (x : SegEntry) : Nat := getF x.w0 SEG_SST_W0_START * 16
def SegEntry.len (x : SegEntry) : Nat := getF x.w1 SEG_SST_W1_LENGTH
def SegEntry.forever (x : SegEntry) : Bool := getB x.w2 31
def SegEntry.repeats (x : SegEntry) : Nat := getF x.w2 SEG_SST_W2_REPEAT
def SegEntry.isEnd (x : SegEntry) : Bool := getB x.w3 31
def SegEntry.adv (x : SegEntry) : Nat := getF x.w3 SEG_SST_W3_ADV_COND
def SegEntry.alt (x : SegEntry) : Nat := getF x.w3 SEG_SST_W3_ALT
def SegEntry.nextEntry (x : SegEntry) : Nat := getF x.w3 SEG_SST_W3_NEXT
/-- Bytes of the segment (R145). -/
def SegEntry.bytes (x : SegEntry) : Nat := x.len * (if x.delta then 32 else 48)

/-- A sequence table entry as stored. -/
def State.segStored (s : State) (c n : Nat) : SegEntry :=
  ⟨s.reg (SEG_SST_W0 c n), s.reg (SEG_SST_W1 c n), s.reg (SEG_SST_W2 c n), s.reg (SEG_SST_W3 c n)⟩
/-- The address of byte o of the segment store of CL c (R50). -/
def segAddr (c o : Nat) : Nat := 0x30000000000 + c * 0x400000 + 0x200000 + o
/-- Whether an address lies in the segment store of CL c. -/
def inSegments (c a : Nat) : Bool := decide (segAddr c 0 ≤ a) && decide (a < segAddr c 0x100000)

/-! Reach (R152). -/

/-- The entries that may follow an entry: ALT and NEXT of its stored word and of the old values that a player may still take. -/
def State.successors (s : State) (c : Nat) (y : Player) (n : Nat) : List Nat :=
  let a := SEG_SST_W3 c n
  (s.reg a :: (y.oldWords.filter (fun x => x.1 == a)).map (·.2)).flatMap (fun w =>
    [getF w SEG_SST_W3_ALT, getF w SEG_SST_W3_NEXT])
/-- The entries that a player can reach from a list of entries in k steps, with those of the list. -/
def State.reachFrom (s : State) (c : Nat) (y : Player) (l : List Nat) : Nat → List Nat
  | 0 => l
  | k + 1 =>
    let more := (l.flatMap (s.successors c y)).foldl (fun m n => if m.contains n then m else m ++ [n]) l
    if more.length = l.length then l else s.reachFrom c y more k
/-- The entries that a playing pin of cluster c can reach: that in play, the one chosen to follow it, and those after them. -/
def State.reachable (s : State) (c : Nat) (y : Player) : List Nat :=
  let first := match y.chosen with
    | some (.play n _) => [y.entry, n, getF y.words.w3 SEG_SST_W3_ALT, getF y.words.w3 SEG_SST_W3_NEXT]
    | _ => [y.entry, getF y.words.w3 SEG_SST_W3_ALT, getF y.words.w3 SEG_SST_W3_NEXT]
  if y.held.isSome then [] else s.reachFrom c y first.eraseDups 256
/-- The spans of bytes, as first address and length, that a playing pin can reach: the segment in play and those of reachable entries. -/
def State.reachSpans (s : State) (c : Nat) (y : Player) : List (Nat × Nat) :=
  if y.held.isSome then []
  else (y.words :: (s.reachable c y).map (s.segStored c)).map (fun x => (segAddr c x.start, x.bytes))

/-! Writes of what a pin plays. -/

/-- A table word is written: the pins that can reach its entry may take its old value still (R152). -/
def State.wordTouched (s : State) (c n a : Nat) (old : Word) : State :=
  (List.range 16).foldl (fun t u =>
    match (t.pin (16 * c + u)).player with
    | some y =>
      if (t.reachable c y).contains n then
        t.updPin (16 * c + u) (fun x => { x with player := some { y with oldWords := (a, old) :: y.oldWords } })
      else t
    | none => t) s
/-- The Delta-4 conversion of a cluster (R153). -/
def State.coding (s : State) (c : Nat) : Option Delta4 := tget (fun _ => none) s.codings c
/-- Write it. -/
def State.setCoding (s : State) (c : Nat) (x : Option Delta4) : State := { s with codings := tput (fun _ => none) s.codings c x }
/-- A word of cluster c's sequence table is written: a pin that can reach its entry may take the value in force before it (R152), and a
conversion of that entry is spoiled (R157). -/
def State.segWordWritten (s : State) (c a : Nat) : State :=
  let n := (a - SEG_SST_W0 c 0) / 16
  if a < SEG_SST_W0 c 0 ∨ 256 ≤ n then s
  else
    (s.setCoding c ((s.coding c).map (fun d => if d.entry = n then { d with spoiled := true } else d))).wordTouched c n a
      (s.inForce a)
/-- A conversion in progress has its segment written (R157). -/
def Delta4.touch (c a n : Nat) (d : Delta4) : Delta4 :=
  let o := segAddr c (getF d.words.w0 SEG_SST_W0_START * 16)
  if a < o + 48 * getF d.words.w1 SEG_SST_W1_LENGTH ∧ o < a + n then { d with spoiled := true } else d
/-- The bytes from an address on that lie in the reach of a playing pin, with their addresses and old values. -/
def oldBytesOf (spans : List (Nat × Nat)) : Nat → List Byte → List (Nat × Byte)
  | _, [] => []
  | a, b :: l =>
    if spans.any (fun x => decide (x.1 ≤ a) && decide (a < x.1 + x.2)) then (a, b) :: oldBytesOf spans (a + 1) l
    else oldBytesOf spans (a + 1) l
/-- What a write over the bytes `old` from address a on does to a segment store: a pin that can reach them may play the old ones still
(R152), and a conversion of a segment that it meets is spoiled (R157). -/
def State.segTouch (s : State) (a : Nat) (old : List Byte) : State :=
  match addrKind a with
  | .scratch c =>
    if a < segAddr c 0x100000 ∧ segAddr c 0 < a + old.length then
      let t := s.setCoding c ((s.coding c).map (Delta4.touch c a old.length))
      (List.range 16).foldl (fun t u =>
        match (t.pin (16 * c + u)).player with
        | some y =>
          match oldBytesOf (t.reachSpans c y) a old with
          | [] => t
          | l => t.updPin (16 * c + u) (fun x => { x with player := some { y with oldBytes := l ++ y.oldBytes } })
        | none => t) t
    else s
  | _ => s

end Sys2Proof.Machine
end

