-- ==== Sys2Proof/Machine/Shared.lean ====
section
/-! DEFINITION. Memory bytes, and the shared flow space: this package's cache, the directory of the lines that it is the home of, and
the requests between them (R335, R336, R487-R491, Table 18-1). -/

namespace Sys2Proof.Machine

/-! Memory bytes. -/

/-- The byte at an address of plain memory: 0 where nothing has been written (R517). -/
def State.byteAt (s : State) (a : Nat) : Byte := tget (fun _ => 0) s.mem a
/-- n bytes of plain memory. -/
def State.bytesAt (s : State) (a n : Nat) : List Byte := tgets (fun _ => (0 : Byte)) s.mem a n
/-- Whether the line of an address is poisoned (R335). -/
def State.poisoned (s : State) (a : Nat) : Bool := tget (fun _ => false) s.poison (a / 64)
/-- Poison or unpoison the line of an address. -/
def State.setPoison (s : State) (a : Nat) (b : Bool) : State :=
  { s with poison := tput (fun _ => false) s.poison (a / 64) b }
/-- The lines that [a, a + n) touches, by line number. -/
def linesOf (a n : Nat) : List Nat := if n = 0 then [] else (List.range ((a + n - 1) / 64 - a / 64 + 1)).map (· + a / 64)
/-- Write bytes of plain memory. -/
def State.putBytes (s : State) (a : Nat) (l : List Byte) : State :=
  { s.segTouch a (s.bytesAt a l.length) with mem := tputs (fun _ => (0 : Byte)) s.mem a l }
/-- Write the enabled bytes of plain memory from an address on. -/
def State.putEnabled (s : State) : Nat → List (Option Byte) → State
  | _, [] => s
  | a, some b :: l => (s.putBytes a [b]).putEnabled (a + 1) l
  | a, none :: l => s.putEnabled (a + 1) l
/-- Whether any line of [a, a + n) is poisoned. -/
def State.anyPoison (s : State) (a n : Nat) : Bool := (linesOf a n).any (fun k => tget (fun _ => false) s.poison k)
/-- Lift the poison of every line that [a, a + n) covers whole (R335). -/
def State.unpoison (s : State) (a n : Nat) : State :=
  (linesOf a n).foldl (fun t k => if a ≤ 64 * k ∧ 64 * k + 64 ≤ a + n then t.setPoison (64 * k) false else t) s

/-! Lines of the shared flow space. -/

/-- A cache line of the shared flow space (R488). -/
def State.cline (s : State) (l : Nat) : CacheLine := tget (fun _ => {}) s.cache l
/-- Write a cache line. -/
def State.setCline (s : State) (l : Nat) (x : CacheLine) : State := { s with cache := tput (fun _ => {}) s.cache l x }
/-- A home directory entry (R488). -/
def State.dirOf (s : State) (l : Nat) : DirEntry := tget (fun _ => .i) s.dir l
/-- Write a directory entry. -/
def State.setDir (s : State) (l : Nat) (x : DirEntry) : State := { s with dir := tput (fun _ => .i) s.dir l x }
/-- The line of a shared flow space address. -/
def flowLine (a : Nat) : Nat := (a - 0x30300000000) / 64
/-- The home package of a line (R54). -/
def lineHome (l : Nat) : Nat := l / 65536
/-- The shared flow space address of a line. -/
def lineAddr (l : Nat) : Nat := 0x30300000000 + 64 * l
/-- Where the home holds a line (R487). -/
def homeAddr (l : Nat) : Nat := 0x30201A00000 + 64 * (l % 65536)
/-- A line's home is this package. -/
def State.isHome (s : State) (l : Nat) : Bool := lineHome l == s.pkgId
/-- Whether an address lies in the shared flow space. -/
def isFlow (a : Nat) : Bool :=
  match addrKind a with
  | .flow _ => true
  | _ => false
/-- The snoop that a line waits for (R489): none when the home serves no request for it. -/
def State.busyOf (s : State) (l : Nat) : Option HomeBusy := tget (fun _ => none) (s.homeBusy.map (fun x => (x.1, some x.2))) l
/-- The home waits for the answers of a snoop. -/
def State.setBusy (s : State) (l : Nat) (x : HomeBusy) : State := { s with homeBusy := tins (tdel s.homeBusy l) l x }
/-- The home has served the request of a line. -/
def State.clearBusy (s : State) (l : Nat) : State := { s with homeBusy := tdel s.homeBusy l }

/-! The data of a line. -/

/-- What a message carries for a line of 64 bytes: its data, or the news that it is poisoned (R336). -/
def payloadOf (bad : Bool) (d : List Byte) : Payload := if bad then .poisoned else .data d
/-- A payload with nothing in it. -/
def noData : Payload := .data []
/-- A payload of a whole line, poisoned or not. -/
def wholeLine : Payload → Bool
  | .data d => d.length == 64
  | .poisoned => true
  | .error => false
/-- The home's copy of a line. -/
def State.homeData (s : State) (l : Nat) : Payload := payloadOf (s.poisoned (homeAddr l)) (s.bytesAt (homeAddr l) 64)
/-- The home's copy of a line is written whole, which lifts its poison, or takes the poison of what arrives (R335, R336). -/
def State.setHomeData (s : State) (l : Nat) : Payload → State
  | .data d => (s.putBytes (homeAddr l) (d.take 64)).setPoison (homeAddr l) false
  | .poisoned => s.setPoison (homeAddr l) true
  | .error => s
/-- This package's copy of a line, as it leaves its cache. -/
def State.lineData (s : State) (l : Nat) : Payload := payloadOf (s.poisoned (lineAddr l)) (s.cline l).data
/-- A line leaves this package's cache with its poison. -/
def State.dropLine (s : State) (l : Nat) (x : CacheLine) : State := (s.setCline l x).setPoison (lineAddr l) false

/-! The cache: 16 ways of 8,192 sets (R488, log entry 77). -/

/-- This package's cache evicts a line that it owns: to its own home at once, else by a PUT (Table 18-1). -/
def State.evictOwn (s : State) (l : Nat) (dirty : Bool) : State :=
  if s.isHome l then
    ((if dirty then s.setHomeData l (s.lineData l) else s).setDir l .i).dropLine l {}
  else (s.dropLine l { put := some dirty }).send
    (.coherence (if dirty then "PUT_M" else "PUT_E") (lineHome l) l (if dirty then s.lineData l else noData))
/-- This package's cache evicts a line: M and E with a PUT, S silently (R488). -/
def State.evict (s : State) (l : Nat) : State :=
  match (s.cline l).st with
  | .m => s.evictOwn l true
  | .e => s.evictOwn l false
  | .s => s.dropLine l {}
  | .i => s
/-- The lines that the cache holds in the set of a line, apart from that line. -/
def State.waysTaken (s : State) (l : Nat) : List Nat :=
  (s.cache.filter (fun x => x.2.st != .i && x.1 != l && x.1 % 8192 == l % 8192)).map (·.1)
/-- A full set evicts one of its lines, freely, before another enters it (log entry 77). -/
def State.makeRoom (s : State) (l : Nat) : State :=
  let w := s.waysTaken l
  if w.length < 16 then s else (s.evict (w.getD (Config.freeNat s.free % w.length) 0)).useFree
/-- A line enters this package's cache, poisoned as it came (R336). -/
def State.fillLine (s : State) (l : Nat) (st : LineState) : Payload → State
  | .data d => ((s.makeRoom l).setCline l { st := st, data := d.take 64 }).setPoison (lineAddr l) false
  | .poisoned => ((s.makeRoom l).setCline l { st := st, data := List.replicate 64 0 }).setPoison (lineAddr l) true
  | .error => s

/-- Bytes of a line from offset o on replaced by those enabled. -/
def patchLine (d : List Byte) (o : Nat) (l : List (Option Byte)) : List Byte :=
  (List.range 64).map (fun i => ((if o ≤ i then l.getD (i - o) none else none)).getD (d.getD i 0))
/-- A write acts on a line that the cache holds in M: a whole line lifts poison, a write that carries poison marks it (R335, R376). -/
def State.flowPut (s : State) (x : FlowStore) : State :=
  let t := s.setCline x.line { s.cline x.line with st := .m, data := patchLine (s.cline x.line).data x.off x.data }
  let a := lineAddr x.line
  if x.poison then t.setPoison a true
  else if x.data.length = 64 ∧ x.data.all Option.isSome then t.setPoison a false
  else t
/-- The writes that wait for a line act in order once the cache owns it (R451, R488). -/
def State.storesGo (s : State) (l : Nat) : State :=
  match (s.cline l).st with
  | .i => s
  | .s => s
  | _ =>
    (s.flowStores.filter (fun x => x.line == l)).foldl State.flowPut { s with flowStores := s.flowStores.filter (fun x => x.line != l) }

/-! The home serves requests (R488, R489, Table 18-1). -/

/-- The home grants a line to a requester for reading, beside the sharers in a mask. -/
def State.grantShared (s : State) (l r mask : Nat) : State :=
  let t := (s.clearBusy l).setDir l (.s (setNBit mask r true))
  if r = s.pkgId then t.fillLine l .s (s.homeData l) else t.send (.coherence "DATA_S" r l (s.homeData l))
/-- The home grants a line to a requester for writing; writes of this package that waited for it act. An upgrade carries no data (Table
18-1). -/
def State.grantExclusive (s : State) (l r : Nat) (upgrade : Bool) : State :=
  let t := (s.clearBusy l).setDir l (.x r)
  if r = s.pkgId then
    (if upgrade && (s.cline l).st == .s then t.setCline l { t.cline l with st := .e } else t.fillLine l .e (s.homeData l)).storesGo l
  else t.send (.coherence (if upgrade then "GRANT_X" else "DATA_X") r l (if upgrade then noData else s.homeData l))
/-- This package's own cache gives up a line to the home, which takes its data: to S, or out of the cache. -/
def State.recallOwn (s : State) (l : Nat) (keep : Bool) : State :=
  let x := s.cline l
  let t := if x.st = .m then s.setHomeData l (s.lineData l) else s
  if keep then t.setCline l { x with st := .s } else t.dropLine l {}
/-- The home serves READ_S of a requester (Table 18-1). -/
def State.homeReadS (s : State) (r l : Nat) : State :=
  match s.dirOf l with
  | .i => s.grantShared l r 0
  | .s m => s.grantShared l r m
  | .x o =>
    if o = s.pkgId then (s.recallOwn l true).grantShared l r (2 ^ o)
    else (s.setBusy l { requester := r, exclusive := false, toAnswer := 2 ^ o }).send (.coherence "FWD_S" o l noData)
/-- The home invalidates the sharers in a mask, its own copy at once, and then grants the line (Table 18-1). -/
def State.homeInvalidate (s : State) (r l mask : Nat) (upgrade : Bool) : State :=
  let t := if nbit mask s.pkgId && r != s.pkgId then s.dropLine l {} else s
  let rest := bitsOf 16 (setNBit (setNBit mask r false) s.pkgId false)
  if rest.isEmpty then t.grantExclusive l r upgrade
  else
    rest.foldl (fun u k => u.send (.coherence "INV" k l noData))
      (t.setBusy l { requester := r, exclusive := true, toAnswer := maskOf rest, upgrade := upgrade })
/-- The home serves READ_X of a requester (Table 18-1). -/
def State.homeReadX (s : State) (r l : Nat) : State :=
  match s.dirOf l with
  | .i => s.grantExclusive l r false
  | .s m => s.homeInvalidate r l m false
  | .x o =>
    if o = s.pkgId then (s.recallOwn l false).grantExclusive l r false
    else (s.setBusy l { requester := r, exclusive := true, toAnswer := 2 ^ o }).send (.coherence "FWD_X" o l noData)
/-- The home serves UPGRADE of a sharer; that of a cache which has lost the line since acts as READ_X (Table 18-1, log entry 110). -/
def State.homeUpgrade (s : State) (r l : Nat) : State :=
  match s.dirOf l with
  | .s m => if nbit m r then s.homeInvalidate r l m true else s.homeReadX r l
  | _ => s.homeReadX r l
/-- The home serves a request (Table 18-1). -/
def State.homeServe (s : State) (r l : Nat) : HomeReq → State
  | .readS => s.homeReadS r l
  | .readX => s.homeReadX r l
  | .upgrade => s.homeUpgrade r l
/-- A request reaches its home: it is served, or waits while the home serves another one for the line (R489). -/
def State.homeRequest (s : State) (r l : Nat) (q : HomeReq) : State :=
  let w : HomeWait := ⟨l, r, q⟩
  if (s.busyOf l).isSome then (if s.homeWaits.contains w then s else { s with homeWaits := s.homeWaits ++ [w] })
  else { s with homeWaits := s.homeWaits.filter (fun x => x != w) }.homeServe r l q
/-- Up to n requests that wait for a line are served while it is not busy, in an order that is free (R489). -/
def State.serveWaiting (s : State) (l : Nat) : Nat → State
  | 0 => s
  | n + 1 =>
    let ws := s.homeWaits.filter (fun x => x.line == l)
    if (s.busyOf l).isSome then s
    else match ws[Config.freeNat s.free % ws.length]? with
      | some w =>
        ({ s.useFree with homeWaits := s.homeWaits.filter (fun x => x != w) }.homeServe w.requester l w.req).serveWaiting l n
      | none => s

/-! Accesses of this package through its cache. -/

/-- Whether a write of this package waits for a line. -/
def State.storeWaits (s : State) (l : Nat) : Bool := s.flowStores.any (fun x => x.line == l)
/-- This package's cache holds a line for reading after this, or the access must wait (R488, R489): a line of its own home that no
other cache owns is taken with READ_S at once. A line that a write of this package waits for is not read before that write (R451). -/
def State.flowRead (s : State) (l : Nat) : Option State :=
  if s.storeWaits l then none
  else match (s.cline l).st with
    | .i =>
      if s.isHome l ∧ s.busyOf l = none then
        match s.dirOf l with
        | .i => some (s.grantShared l s.pkgId 0)
        | .s m => some (s.grantShared l s.pkgId m)
        | .x _ => none
      else none
    | _ => some s
/-- This package's cache holds a line in M after this, or the access must wait (R488, R489): a line of its own home that no other
cache shares or owns is taken with READ_X or UPGRADE at once. -/
def State.flowWrite (s : State) (l : Nat) : Option State :=
  if s.storeWaits l then none
  else match (s.cline l).st with
    | .m => some s
    | .e => some (s.setCline l { s.cline l with st := .m })
    | st =>
      let own := s.grantExclusive l s.pkgId (st == .s)
      let own := own.setCline l { own.cline l with st := .m }
      if s.isHome l ∧ s.busyOf l = none then
        match s.dirOf l with
        | .i => some own
        | .s m => if m = 2 ^ s.pkgId ∨ m = 0 then some own else none
        | .x _ => none
      else none
/-- This package's cache asks a line's home for ownership (Table 18-1). -/
def State.flowAsk (s : State) (l : Nat) : State :=
  let q : HomeReq := if (s.cline l).st = .s then .upgrade else .readX
  if s.isHome l then s.homeRequest s.pkgId l q
  else s.send (.coherence (if q = .upgrade then "UPGRADE" else "READ_X") (lineHome l) l noData)
/-- A write within a line of the shared flow space goes through this package's cache: at once when the cache has or can take the
line, else it waits until the home has granted it (R488, R491, log entry 141). -/
def State.flowStore1 (s : State) (x : FlowStore) : State :=
  match s.flowWrite x.line with
  | some t => t.flowPut x
  | none =>
    let t := if s.storeWaits x.line then s else s.flowAsk x.line
    { t with flowStores := t.flowStores ++ [x] }

/-- Whether a read of a memory address completes with BUS_ERROR: a line of the shared flow space that the cache holds stays readable when
its home cannot be reached (R487, R492). -/
def State.readErrorAt (s : State) (a : Nat) : Bool := s.busErrorAt a && !(isFlow a && (s.cline (flowLine a)).st != .i)
/-- Whether all of [a, a + n) is memory that can be read now. -/
def State.readOk (s : State) (a n : Nat) : Bool :=
  isMemory a && isMemory (a + n - 1) && !s.readErrorAt a && !s.readErrorAt (a + n - 1)
/-- The bytes an access reads at a memory address, within one line in the shared flow space. -/
def State.load (s : State) (a n : Nat) : List Byte :=
  if isFlow a then ((s.cline (flowLine a)).data.drop (a % 64)).take n else s.bytesAt a n
/-- Whether an address lies in the dictionary part of a scratchpad, which changes through image loads only (R50, R222). -/
def inDictionary (a : Nat) : Bool :=
  match addrKind a with
  | .scratch c => decide (0x1E0000 ≤ a - (0x30000000000 + c * 0x400000)) && decide (a - (0x30000000000 + c * 0x400000) < 0x200000)
  | _ => false
/-- The device writes enabled bytes within one line at a memory address that it can reach, with poison when what it writes carries it
(R335, R376); in a dictionary nothing changes (R222, log entry 45). -/
def State.storeOpt (s : State) (a : Nat) (l : List (Option Byte)) (bad : Bool) : State :=
  if inDictionary a then s
  else if isFlow a then s.flowStore1 { line := flowLine a, off := a % 64, data := l, poison := bad }
  else
    let t := s.putEnabled a l
    if bad then t.setPoison a true
    else if l.length = 64 ∧ l.all Option.isSome then t.setPoison a false
    else t
/-- The device writes bytes within one line at a memory address that it can reach. -/
def State.store (s : State) (a : Nat) (l : List Byte) : State :=
  if inDictionary a then s
  else if isFlow a then s.flowStore1 { line := flowLine a, off := a % 64, data := l.map some }
  else (s.putBytes a l).unpoison a l.length
/-- The device writes bytes line by line. -/
def State.storeLines (s : State) (a : Nat) (l : List Byte) : Nat → State
  | 0 => s
  | k + 1 =>
    if l.isEmpty then s
    else (s.store a (l.take (64 - a % 64))).storeLines (a + (64 - a % 64)) (l.drop (64 - a % 64)) k
/-- A list of bytes stored from an address on. -/
def State.storeAll (s : State) (a : Nat) (l : List Byte) : State := s.storeLines a l (l.length / 64 + 2)
/-- The bytes of [a, a + n) read line by line. -/
def State.loadLines (s : State) (a n : Nat) : Nat → List Byte
  | 0 => []
  | k + 1 => if n = 0 then [] else
      let m := min n (64 - a % 64)
      s.load a m ++ s.loadLines (a + m) (n - m) k
/-- All bytes of [a, a + n). -/
def State.loadAll (s : State) (a n : Nat) : List Byte := s.loadLines a n (n / 64 + 2)
/-- Every shared flow space line of [a, a + n) taken for reading or writing; none while one must wait. -/
def State.flowTake (s : State) (a n : Nat) (write : Bool) : Option State :=
  if isFlow a then
    (linesOf a n).foldl (fun o k => o.bind (fun t =>
      if write then t.flowWrite (k - 0x30300000000 / 64) else t.flowRead (k - 0x30300000000 / 64))) (some s)
  else some s

end Sys2Proof.Machine
end

