-- ==== Sys2Proof/Machine/Log.lean ====
section
/-! DEFINITION. The event rings and the violation log, and what every partner access of a register meets first. -/

namespace Sys2Proof.Machine

/-! Event rings (R455-R458) and the violation log (R459-R461). -/

/-- log2 of the entries of a port's event ring: below 4 acts as 4 (Table 17-4). -/
def State.evtLog2 (s : State) (n : Nat) : Nat := max 4 (s.fld (PRT_EVT_CFG n) PRT_EVT_CFG_SIZE_LOG2)

/-- The address of entry k of a port's event ring (R456). -/
def State.evtAddr (s : State) (n k : Nat) : Nat :=
  s.fld (PRT_EVT_BASE_LO n) PRT_EVT_BASE_LO_BASE_LO * 64 +
    s.fld (PRT_EVT_BASE_HI n) PRT_EVT_BASE_HI_BASE_HI * 2 ^ 32 + 32 * (k % 2 ^ s.evtLog2 n)

/-- The 32 bytes of an event entry (Table 17-1). VALUE carries the low 64 bits; WRAP is set when it exceeds them (R129). -/
def eventBytes (pkg : Nat) (code src unit arg value : Nat) (loss : Bool) : List Byte :=
  leBytes 1 code ++ leBytes 1 src ++
  leBytes 1 ((if loss then 1 else 0) + (if 2 ^ 64 ≤ value then 2 else 0)) ++ leBytes 1 pkg ++
  leBytes 4 unit ++ leBytes 8 arg ++ leBytes 8 (value % 2 ^ 64) ++ leBytes 8 0

/-- Whether an event can enter a port's ring now (R456). -/
def State.evtRoom (s : State) (n : Nat) : Bool :=
  s.bit (PRT_EVT_CFG n) PRT_EVT_CFG_EN &&
  decide ((s.reg (PRT_EVT_WPTR n) - s.reg (PRT_EVT_RPTR n)).toNat < 2 ^ s.evtLog2 n) &&
  s.memOk (s.evtAddr n (s.reg (PRT_EVT_WPTR n)).toNat) 32

/-- The port's MSI-X message, when interrupts are on and none is outstanding (R458). -/
def State.msix (s : State) (n : Nat) : State :=
  if s.bit (PRT_EVT_CFG n) PRT_EVT_CFG_IRQ_EN && !(s.port n).outstanding then
    (s.send (.msix n)).setPort n { s.port n with outstanding := true }
  else s

/-- One event offered to one port's ring: written, or dropped with LOST and LOSS (R456, R457). -/
def State.eventPort (s : State) (code src unit arg value : Nat) (n : Nat) : State :=
  if s.evtRoom n then
    let t := s.store (s.evtAddr n (s.reg (PRT_EVT_WPTR n)).toNat)
      (eventBytes s.pkgId code src unit arg value (s.port n).loss)
    let t := t.setReg (PRT_EVT_WPTR n) (s.reg (PRT_EVT_WPTR n) + 1)
    (t.setPort n { t.port n with loss := false }).msix n
  else
    let t := s.countSat (PRT_EVT_STAT n) PRT_EVT_STAT_LOST 1
    t.setPort n { t.port n with loss := true }

/-- An event written to every partner's event ring (R456). -/
def State.event (s : State) (code src unit arg value : Nat) : State :=
  [0, 1, 2, 3, 4, 5].foldl (State.eventPort · code src unit arg value) s

/-- The PORT field of a violation log entry for an engine or flow engine, the DMA, the device and another package. -/
def byEngine : Nat := 8
def byDma : Nat := 9
def byDevice : Nat := 10
def byPackage : Nat := 11

/-- The requester of an access from package p, where a partner's number stands otherwise. -/
def fromPackage (p : Nat) : Nat := 16 + p
/-- The PORT and PKG fields of a violation log entry. -/
def whoField (port pkg : Nat) : Nat :=
  if 16 ≤ port then byPackage * 2 ^ 20 + (port - 16) * 2 ^ 16 else port * 2 ^ 20 + pkg * 2 ^ 16

/-- A violation enters the log and VIOLATION goes to every event ring (R459-R461, Table 17-2). -/
def State.violation (s : State) (cause port pkg inst addr : Nat) : State :=
  let w := s.reg PRT_VLOG_WPTR
  let i := w.toNat % 16
  let t := if 16 ≤ (w - s.reg PRT_VLOG_RPTR).toNat then
      (s.setReg PRT_VLOG_RPTR (s.reg PRT_VLOG_RPTR + 1)).countSat PRT_VLOG_LOST PRT_VLOG_LOST_LOST 1
    else s
  let t := t.setReg (PRT_VLOG_E0 i) (BitVec.ofNat 32 (cause * 2 ^ 24 + whoField port pkg + inst % 2 ^ 16))
  let t := t.setPair (PRT_VLOG_E1 i) (PRT_VLOG_E2 i) (addr % 2 ^ 42)
  let t := (t.setReg (PRT_VLOG_E3 i) 0).setPair (PRT_VLOG_E4 i) (PRT_VLOG_E5 i) s.gt64
  let t := ((t.setReg (PRT_VLOG_E6 i) 0).setReg (PRT_VLOG_E7 i) 0).setReg PRT_VLOG_WPTR (w + 1)
  t.event codeViolation 6 w.toNat cause (addr % 2 ^ 42)

/-! Clusters and modes used by every family. -/

/-- The cluster of a pin (R11). -/
def pinCl (p : Nat) : Nat := p / 16
/-- The unit index of a pin (R25). -/
def pinUnit (p : Nat) : Nat := p % 16
/-- The cluster of an engine (R11). -/
def engCl (e : Nat) : Nat := e / 4
/-- The ACTIVE bits of a cluster (Table 15-2). -/
def State.active (s : State) (c : Nat) : Nat := s.fld (MOD_ACTIVE c) MOD_ACTIVE_ACTIVE
/-- Whether a cluster has a mode in ACTIVE: 0 RUN, 1 SOURCE, 2 CAPTURE, 3 MEASURE, 4 CALIBRATE, 5 SERVICE. -/
def State.hasMode (s : State) (c m : Nat) : Bool := nbit (s.active c) m
/-- The PIN_MASK bit of a pin in force (R33). -/
def State.pinMasked (s : State) (p : Nat) : Bool :=
  nbit (s.ffld (SYS_UNIT_MASK (pinCl p)) SYS_UNIT_MASK_PIN_MASK) (pinUnit p)

/-! What every partner access to a register meets first. -/

/-- A partner's write of a register is ignored and logged: BOOTING outside the hub BOOT block (R435), FAILED outside the hub BOOT and PRT
blocks (R434). -/
def State.writeBarred (s : State) (a : Nat) : Bool :=
  let boot := decide (hubBlk 3 ≤ a) && decide (a < hubBlk 4)
  let prt := decide (hubBlk 4 ≤ a) && decide (a < hubBlk 5)
  (s.bit BOOT_STAT BOOT_STAT_BOOTING && !boot) || (s.bit BOOT_STAT BOOT_STAT_FAILED && !boot && !prt)

/-- A partner's write of a register acts, or is discarded: while writes are barred it is logged with its address (R434, R435), in a fenced
region it completes with BUS_ERROR (R42; log entry 29). -/
def State.reach (s : State) (port a : Nat) (act : State → State) : State :=
  if s.writeBarred a then s.violation 0x01 port 0 0 a else if s.fencedAt a then s else act s

/-- A partner's read of a register in a fenced region is answered with Completer Abort (R42, R519); another returns its value, with
the effect of the read. -/
def State.readReach (s : State) (port a : Nat) (r : Word × State) : State :=
  if s.fencedAt a then s.send (.completion port 1 []) else r.2.send (.completion port 0 (leBytes 4 r.1.toNat))

end Sys2Proof.Machine
end

