-- ==== Sys2Proof/Machine/Operands.lean ====
section
/-! DEFINITION. Operand forms: the fields of an H-form microword (Table 6-1) and of a V-form operation (Tables 6-6, 6-7a), and
flag selectors (Table 6-5), and formatter codes (Tables 3-5, 4-1, 4-3). -/

namespace Sys2Proof.Machine

/-- The fields of an H-form microword (Table 6-1). -/
def microOf (w : HBits) : Micro :=
  let v := w.toNat
  { seqOp := slice v 140 4, target := slice v 126 14, cond := slice v 120 6, condInv := nbit v 119, loopSel := slice v 117 2,
    loopLoad := slice v 93 24, tsEn := nbit v 92, ts := slice v 86 6, cycles := slice v 62 24,
    vmode := (if slice v 60 2 = 3 then 1 else slice v 60 2), seekEn := nbit v 59, seekIdx := slice v 49 10,
    dictEn := nbit v 48, dictImg := slice v 36 12, segTrig := nbit v 35, capEn := nbit v 34, adcStart := nbit v 33,
    acqArm := slice v 31 2, waitSel := slice v 21 10, sigOp := slice v 19 2, sigSel := slice v 9 10, substEn := nbit v 8,
    substPtr := slice v 6 2 }

/-- A V-form operation (Table 6-6): VOP and OPERAND. -/
structure VOp where
  vop : Nat
  operand : Nat
  deriving DecidableEq, Repr

/-- The V-form operation `a mod 4` of a store word (R207). -/
def vopOf (w : HBits) (k : Nat) : VOp :=
  let v := slice w.toNat (32 * k) 32
  { vop := slice v 26 5, operand := slice v 0 26 }

/-- The flag key of a selector as an engine of cluster c uses it, none when it names no flag (R199, Table 6-5). -/
def flagOfSel (c sel : Nat) : Option Nat :=
  let k := sel % 256
  match sel / 256 % 4 with
  | 0 => if k < 8 then some (c * 8 + k) else none
  | 1 => if k < 64 then some (1000 + c / 8 * 64 + k) else none
  | 2 => some (2000 + k)
  | _ => if k < 64 then some (3000 + k) else none

/-- The level of a selector: 0 cluster, 1 region, 2 package, 3 system. -/
def selLevel (sel : Nat) : Nat := sel / 256 % 4

/-- The level of a branch condition: that of Table 6-3; a condition without a level acts at cluster level (log entry 22). -/
def condLevel (cond sel : Nat) : Nat :=
  match cond with
  | 2 => 1
  | 3 => 2
  | 4 => 3
  | 5 => selLevel sel
  | _ => 0

/-- D for a level (Table 6-4), with the system term L. -/
def State.latency (s : State) (level : Nat) : Nat :=
  match level with
  | 0 => 2048
  | 1 => 3072
  | 2 => 4096
  | _ => 16384 + (s.reg VYN_L).toNat

/-! Formatter codes (Table 4-1). -/

/-- Whether a code drives data through the pin's shape: D0, D1, D0L, D1H. -/
def isShaped (code : Nat) : Bool := code == 0 || code == 1 || code == 13 || code == 14
/-- The data value of a shaped code. -/
def codeData (code : Nat) : Bool := code == 1 || code == 14
/-- Whether a code takes strobes: EL, EH, EM, EV, D0L, D1H. -/
def takesStrobes (code : Nat) : Bool := code == 4 || code == 5 || code == 6 || code == 7 || code == 13 || code == 14
/-- Whether a code acts as DZ: DZ, EL, EH, EM, EV, 0xF. -/
def isOff (code : Nat) : Bool := code == 2 || code == 4 || code == 5 || code == 6 || code == 7 || code == 15
/-- Whether a code is P0 to P3. -/
def isPam (code : Nat) : Bool := decide (8 ≤ code) && decide (code ≤ 11)
/-- DAC code of level d. -/
def levelOf (d : Bool) : Nat := if d then 63 else 0

/-- Whether a code uses edge e (0 DON, 1 D1, 2 D2, 3 DOFF, 4 A, 5 B) in a class, STREAM or EDGE, with a shape (Tables 3-5, 4-1,
4-3). -/
def usesEdge (stream : Bool) (shape code e : Nat) : Bool :=
  if stream then
    match e with
    | 1 => isShaped code || isOff code || isPam code
    | 4 => takesStrobes code
    | _ => false
  else
    match e with
    | 0 => isShaped code || isPam code
    | 1 => isShaped code || isPam code
    | 2 => isShaped code && shape != 0
    | 3 => isShaped code || isPam code || isOff code
    | _ => takesStrobes code

/-- Edge e of a cycle, when it is enabled and the cycle's code uses it (R100). -/
def Cycle.used (x : Cycle) (e : Nat) : Option EdgeWord :=
  match x.edges[e]? with
  | some w => if w.en && usesEdge x.stream x.shape x.code e then some w else none
  | none => none

end Sys2Proof.Machine
end

