-- ==== Sys2Proof/Machine/Integrity.lean ====
section
/-! DEFINITION. Error correction and poison (R333-R344, R518): what a read that finds an error does, the error logs, the pattern
table MEM_PAT, and the H-form stores. -/

namespace Sys2Proof.Machine

/-- The address reported for word k of the writable store of EN e (R518). -/
def wsAddr (e k : Nat) : Nat := 0x3FE00000000 + e * 0x10000 + k
/-- The address reported for word k of the patch store of CL c (R518). -/
def psAddr (c k : Nat) : Nat := 0x3FE01000000 + c * 0x100 + k
/-- Whether an address is a store address of R518. -/
def isStoreAddr (a : Nat) : Bool := decide (0x3FE00000000 ≤ a) && decide (a < 0x3FF00000000)
/-- A HALT word: SEQ_OP 0x8, other bits 0 (R517). -/
def haltWord : HBits := BitVec.ofNat 144 (8 * 2 ^ 140)
/-- A word of a writable or patch store. -/
def State.storeWord (s : State) (a : Nat) : HBits := tget (fun _ => haltWord) s.stores a
/-- Write a word of a store. -/
def State.setStoreWord (s : State) (a : Nat) (w : HBits) : State := { s with stores := tput (fun _ => haltWord) s.stores a w }
/-- Whether a store word is poisoned. -/
def State.storeBad (s : State) (a : Nat) : Bool := tget (fun _ => false) s.storePoison a
/-- Poison or unpoison a store word. -/
def State.setStoreBad (s : State) (a : Nat) (b : Bool) : State :=
  { s with storePoison := tput (fun _ => false) s.storePoison a b }
/-- Whether a partner has written the store word since it was loaded (Table 12-2). -/
def State.storeHeld (s : State) (a : Nat) : Bool := tget (fun _ => false) s.storeWritten a
/-- Mark a store word as written by a partner or as loaded. -/
def State.setStoreHeld (s : State) (a : Nat) (b : Bool) : State :=
  { s with storeWritten := tput (fun _ => false) s.storeWritten a b }

/-- The region whose logs and counters an address belongs to; 8 is the hub (R334, R338). -/
def memUnit (a : Nat) : Nat :=
  if isStoreAddr a then
    (if a < 0x3FE01000000 then (a - 0x3FE00000000) / 0x10000 / 32 else (a - 0x3FE01000000) / 0x100 / 8)
  else match addrKind a with
    | .hbm r => r
    | .scratch c => c / 8
    | .regionSram r => r
    | _ => 8

/-- The cluster that owns the array of an address (R357). -/
def memCluster (a : Nat) : Option Nat :=
  if isStoreAddr a then
    some (if a < 0x3FE01000000 then (a - 0x3FE00000000) / 0x10000 / 4 else (a - 0x3FE01000000) / 0x100)
  else match addrKind a with
    | .scratch c => some c
    | _ => none

/-- A single-bit error was corrected and written back: the counters of the array count it (R334, R357). -/
def State.corrected (s : State) (a : Nat) : State :=
  let t := if memUnit a = 8 then s.countSat HD_MEM_CE_COUNT HD_MEM_CE_COUNT_COUNT 1
    else s.countSat (MEM_CE_COUNT (memUnit a)) MEM_CE_COUNT_COUNT 1
  match memCluster a with
  | some c => t.countSat (MEM_CL_CE c) MEM_CL_CE_COUNT 1
  | none => t

/-- An entry of the error log of a region or of the hub (Table 12-4). -/
def State.errorLog (s : State) (u addr outcome src : Nat) : State :=
  let w1 := BitVec.ofNat 32 (outcome * 2 ^ 28 + src * 2 ^ 26 + addr / 2 ^ 32 % 2 ^ 10)
  if u = 8 then
    let h := s.reg HD_MEM_ERR_HEAD
    let i := h.toNat % 32
    ((((s.setReg (HD_MEM_ERR_LOG_W0 i) (loHalf addr)).setReg (HD_MEM_ERR_LOG_W1 i) w1).setPair
      (HD_MEM_ERR_LOG_W2 i) (HD_MEM_ERR_LOG_W3 i) s.gt64)).setReg HD_MEM_ERR_HEAD (h + 1)
  else
    let h := s.reg (MEM_ERR_HEAD u)
    let i := h.toNat % 32
    ((((s.setReg (MEM_ERR_LOG_W0 u i) (loHalf addr)).setReg (MEM_ERR_LOG_W1 u i) w1).setPair
      (MEM_ERR_LOG_W2 u i) (MEM_ERR_LOG_W3 u i) s.gt64)).setReg (MEM_ERR_HEAD u) (h + 1)

/-! The pattern table (R341). -/

/-- BASE of MEM_PAT[n] of region r. -/
def State.patBase (s : State) (r n : Nat) : Nat :=
  s.fld (MEM_PAT_W0 r n) MEM_PAT_W0_BASE_LO + s.fld (MEM_PAT_W1 r n) MEM_PAT_W1_BASE_HI * 2 ^ 32
/-- MIRROR of MEM_PAT[n] of region r. -/
def State.patMirror (s : State) (r n : Nat) : Nat :=
  s.fld (MEM_PAT_W3 r n) MEM_PAT_W3_MIRROR_LO + s.fld (MEM_PAT_W4 r n) MEM_PAT_W4_MIRROR_HI * 2 ^ 32
/-- LENGTH of MEM_PAT[n] in bytes. -/
def State.patLen (s : State) (r n : Nat) : Nat := s.fld (MEM_PAT_W2 r n) MEM_PAT_W2_LENGTH * 4096
/-- VALID of MEM_PAT[n]. -/
def State.patValid (s : State) (r n : Nat) : Bool := s.bit (MEM_PAT_W1 r n) MEM_PAT_W1_VALID
/-- MIRROR_EN of MEM_PAT[n]. -/
def State.patMirrorEn (s : State) (r n : Nat) : Bool := s.bit (MEM_PAT_W1 r n) MEM_PAT_W1_MIRROR_EN
/-- Every (region, entry) pair of the pattern tables. -/
def allPats : List (Nat × Nat) := (List.range 8).flatMap (fun r => (List.range 16).map (fun n => (r, n)))
/-- The valid entries whose range holds a line. -/
def State.patsAt (s : State) (a : Nat) : List (Nat × Nat) :=
  allPats.filter (fun x => s.patValid x.1 x.2 && decide (s.patBase x.1 x.2 ≤ a / 64 * 64) &&
    decide (a / 64 * 64 < s.patBase x.1 x.2 + s.patLen x.1 x.2))
/-- The valid entries whose mirror range holds a line. -/
def State.mirrorsAt (s : State) (a : Nat) : List (Nat × Nat) :=
  allPats.filter (fun x => s.patValid x.1 x.2 && s.patMirrorEn x.1 x.2 && decide (s.patMirror x.1 x.2 ≤ a / 64 * 64) &&
    decide (a / 64 * 64 < s.patMirror x.1 x.2 + s.patLen x.1 x.2))
/-- The mirror line of a primary line in an entry (Table 12-2). -/
def State.mirrorLine (s : State) (r n a : Nat) : Nat := s.patMirror r n + (a / 64 * 64 - s.patBase r n)
/-- The entry, if any, whose mirror of a line can be read now. -/
def State.usableMirror (s : State) (a : Nat) : Option (Nat × Nat) :=
  (s.patsAt a).find? (fun x => s.patMirrorEn x.1 x.2 && s.memOk (s.mirrorLine x.1 x.2 a) 64 &&
    !s.poisoned (s.mirrorLine x.1 x.2 a))
/-- The primary line rewritten from the mirror line and unpoisoned (Table 12-2). -/
def State.repairFromMirror (s : State) (a : Nat) (x : Nat × Nat) : State :=
  (s.putBytes (a / 64 * 64) (s.bytesAt (s.mirrorLine x.1 x.2 a) 64)).setPoison a false

/-- What a command's finds say of a line or store word: one entry for each word of it in which an error was found. -/
def findsAt (f : Finds) (a : Nat) : List EccFind := (f.filter (fun x => x.1 == a)).map (·.2)
/-- An uncorrectable error was counted in the cluster's arrays (R357). -/
def State.countUe (s : State) (a : Nat) : State :=
  match memCluster a with
  | some c => s.countSat (MEM_CL_UE c) MEM_CL_UE_COUNT 1
  | none => s

/-- An error was counted, logged and reported with its outcome (R338). -/
def State.reportError (s : State) (a out src : Nat) : State :=
  (s.errorLog (memUnit a) a out src).event codePoison 4 (memUnit a) out a

/-- MIRROR_BAD is set in the entries whose mirror holds a line (Table 12-2). -/
def State.mirrorBad (s : State) (a : Nat) : State :=
  (s.mirrorsAt a).foldl (fun t x => t.setBit (MEM_PAT_W1 x.1 x.2) MEM_PAT_W1_MIRROR_BAD true) s

/-- DAMAGED is set in the entries whose range holds a line (Table 12-2). -/
def State.damage (s : State) (a : Nat) : State :=
  (s.patsAt a).foldl (fun t x => t.setBit (MEM_PAT_W1 x.1 x.2) MEM_PAT_W1_DAMAGED true) s

/-- The mirror of a poisoned line is read: a usable one without an uncorrectable error repairs the line, a fresh error poisons the mirror
line (Table 12-2). The answer tells whether the line is repaired. -/
def State.readMirror (s : State) (a : Nat) (f : Finds) (src : Nat) : Bool × State :=
  match s.usableMirror a with
  | none => (false, s)
  | some x =>
    let m := s.mirrorLine x.1 x.2 a
    let e := findsAt f m
    let t := (e.filter (· == .corrected)).foldl (fun t _ => t.corrected m) s
    if e.contains .uncorrectable then (false, (((t.setPoison m true).countUe m).mirrorBad m).reportError m 6 src)
    else (true, t.repairFromMirror a x)

/-- A line of cluster c's vector cache is invalidated: one of the lines that its decoders hold, or none of them, must be fetched again
before its next use. Which one lay there is free, since the spec gives no placement (Table 12-2, log entry 43). -/
def State.dropVectorLine (s : State) (c : Nat) : State :=
  let held := [0, 1, 2, 3].flatMap (fun i => (s.eng (4 * c + i)).main.lines ++ (s.eng (4 * c + i)).shadow.lines)
  match held[Config.freeNat s.free % (held.length + 1)]? with
  | some l => [0, 1, 2, 3].foldl (fun t i => t.updEng (4 * c + i) (fun x => { x with
      main := { x.main with lines := x.main.lines.filter (· != l) }
      shadow := { x.shadow with lines := x.shadow.lines.filter (· != l) } })) s.useFree
  | none => s.useFree
/-- The outcome of Table 12-2 for a line outside the stores, with the state it leaves; the line is poisoned already. -/
def State.poisonOutcome (s : State) (a : Nat) (f : Finds) (src : Nat) : Nat × State :=
  match addrKind a with
  | .scratch c =>
    if (s.mirrorsAt a).isEmpty = false then (6, s.mirrorBad a)
    else if a - (0x30000000000 + c * 0x400000) < 0x1E0000 then (3, s.dropVectorLine c)
    else (0, s)
  | .hbm _ =>
    let r := s.readMirror a f src
    if r.1 then (4, r.2)
    else if (s.patsAt a).isEmpty then (if (s.mirrorsAt a).isEmpty then (0, r.2) else (6, r.2.mirrorBad a))
    else (5, r.2.damage a)
  | _ => if (s.mirrorsAt a).isEmpty then (0, s) else (6, s.mirrorBad a)

/-- A read found an uncorrectable error in a line or store word: it is poisoned, logged and acted on by kind of data, unless it
was poisoned already (R335, R338, Table 12-2). `src` is 0 for a scrub walker, 1 for a demand read. -/
def State.uncorrectable (s : State) (a : Nat) (f : Finds) (src : Nat) : State :=
  if isStoreAddr a then
    if s.storeBad a then s
    else
      let out := if s.storeHeld a then 2 else 1
      ((s.setStoreBad a true).countUe a).reportError a out src
  else if s.poisoned a then s
  else
    let t := (s.setPoison a true).countUe a
    let r := t.poisonOutcome a f src
    r.2.reportError (a / 64 * 64) r.1 src

/-- What error correction does when the line or store word at an address is read (R334, R338). -/
def State.eccRead (s : State) (a : Nat) (f : Finds) (src : Nat) : State :=
  (findsAt f a).foldl (fun t e => match e with
    | .clean => t
    | .corrected => t.corrected a
    | .uncorrectable => t.uncorrectable a f src) s

/-- Error correction as the lines of [a, a + n) are read (R334, R338). -/
def State.meet (s : State) (a n : Nat) (f : Finds) (src : Nat) : State :=
  match f with
  | [] => s
  | _ => (linesOf a n).foldl (fun t k => t.eccRead (64 * k) f src) s

/-- Error correction as a word of a writable or patch store is read (R334, R338). -/
def State.meetWord (s : State) (a : Nat) (f : Finds) : State := s.eccRead a f 1

end Sys2Proof.Machine
end

