-- ==== Sys2Proof/Machine/Rings.lean ====
section
/-! DEFINITION. DMA rings: identity (R358), kind and source requests (R359, R360, R368), idleness (R378). -/

namespace Sys2Proof.Machine

/-- The region of a ring (R358). -/
def ringRg (n : Nat) : Nat := n / 8192
/-- The local ring number (R358). -/
def ringLr (n : Nat) : Nat := n % 8192
/-- The channel of a ring, 0 to 1,023 (R358). -/
def ringCh (n : Nat) : Nat := n / 64
/-- RING_CFG of a ring. -/
def ringCfg (n : Nat) : Nat := RING_CFG (ringRg n) (ringLr n)
/-- RING_PTR of a ring. -/
def ringPtr (n : Nat) : Nat := RING_PTR (ringRg n) (ringLr n)
/-- RING_STAT of a ring. -/
def ringStat (n : Nat) : Nat := RING_STAT (ringRg n) (ringLr n)
/-- DMA_CH_CTRL of a channel 0 to 1,023. -/
def chanCtrl (ch : Nat) : Nat := DMA_CH_CTRL (ch / 128) (ch % 128)
/-- DMA_CH_STAT of a channel 0 to 1,023. -/
def chanStat (ch : Nat) : Nat := DMA_CH_STAT (ch / 128) (ch % 128)

/-- Whether a ring is a COPY ring (R359). -/
def State.isCopy (s : State) (n : Nat) : Bool := s.bit (ringCfg n) RING_CFG_KIND
/-- The number of descriptors of a ring (Table 13-2: below 4 acts as 4). -/
def State.ringSize (s : State) (n : Nat) : Nat := 2 ^ max 4 (s.fld (ringCfg n) RING_CFG_SIZE_LOG2)
/-- HEAD of a ring. -/
def State.ringHead (s : State) (n : Nat) : Nat := s.fld (ringPtr n) RING_PTR_HEAD
/-- TAIL of a ring. -/
def State.ringTail (s : State) (n : Nat) : Nat := s.fld (ringPtr n) RING_PTR_TAIL
/-- BASE of a ring, a system address. -/
def State.ringBase (s : State) (n : Nat) : Nat :=
  s.fld (RING_BASE_LO (ringRg n) (ringLr n)) RING_BASE_LO_BASE_LO * 64 + s.fld (ringCfg n) RING_CFG_BASE_HI * 2 ^ 32
/-- Raise the request flag (R368). -/
def State.raise (s : State) (n : Nat) : State := s.setBit (ringStat n) RING_STAT_REQ true
/-- Whether the request flag is set. -/
def State.requested (s : State) (n : Nat) : Bool := s.bit (ringStat n) RING_STAT_REQ
/-- The burst of a ring's channel, when it is this ring's. -/
def State.ringBurst (s : State) (n : Nat) : Option Burst :=
  match (s.chan (ringCh n)).burst with
  | some b => if b.ring = n then some b else none
  | none => none

/-- A request of a device source: a COPY ring ignores it and logs VIOLATION with the ring ID (R359). -/
def State.sourceRequest (s : State) (n : Nat) : State :=
  if s.isCopy n then s.violation 0x06 byDevice 0 n 0 else s.raise n

/-- A ring is idle: no burst of it is in progress or paused, and its request flag is clear (R378). -/
def State.ringIdle (s : State) (n : Nat) : Bool := (s.ringBurst n).isNone && !s.requested n

/-- A source checks a ring setting as it takes effect: a ring of another region logs VIOLATION once and disables the drain
(R360). `bad` is the foreign ring that the setting before named, if it did; the answer gives the one that it names now. -/
def State.checkRing (s : State) (r n : Nat) (bad : Option Nat) : Option Nat × State :=
  if ringRg n = r then (none, s) else (some n, if bad = some n then s else s.violation 0x06 byDevice 0 n 0)

/-- Where a 46-bit system address leads (R53, R54). -/
inductive SysAddr where
  | here (a : Nat)
  | remote (pkg a : Nat)
  | absent
  deriving DecidableEq, Repr

/-- Resolve a system address: the package ID of a shared flow space address is ignored (R53, R54). -/
def State.resolve (s : State) (a : Nat) : SysAddr :=
  let p := a / 2 ^ 42 % 16
  let l := a % 2 ^ 42
  if isFlow l then .here l
  else if p = s.pkgId then .here l
  else if s.present p then .remote p l
  else .absent

/-! Allocation and pools (R378-R380). -/

/-- The lowest-numbered ring of a region that is not allocated, by local number. -/
def State.freeRingOf (s : State) (r : Nat) : Option Nat :=
  (List.range 8192).find? (fun k => !s.bit (RING_CFG r k) RING_CFG_ALLOC)

/-- A ring found is allocated; with none the answer is NO_RING. -/
def State.allocAs (s : State) (r : Nat) (k : Option Nat) : Word × State :=
  match k with
  | some k => (BitVec.ofNat 32 (codeOk * 2 ^ 24 + 8192 * r + k), s.setBit (RING_CFG r k) RING_CFG_ALLOC true)
  | none => (BitVec.ofNat 32 (codeNoRing * 2 ^ 24), s)

/-- A read of DMA_ALLOC: the lowest free ring of the region is allocated, or NO_RING. -/
def State.allocRing (s : State) (r : Nat) : Word × State := s.allocAs r (s.freeRingOf r)

/-- A buffer is taken: which free one is open (a free value); none is NO_BUFFER, which is counted. -/
def State.takeBuffer (s : State) (r : Nat) : Option Nat × State :=
  match (s.rg r).poolFree with
  | [] => (none, s.countSat (DMA_POOL_STAT r) DMA_POOL_STAT_NOBUF 1)
  | l =>
    let k := l.getD (Config.freeNat s.free % l.length) 0
    (some k, s.useFree.updRg r (fun x => { x with poolFree := x.poolFree.erase k }))

/-- A read of DMA_POOL_TAKE. -/
def State.poolRead (s : State) (r : Nat) : Word × State :=
  match s.takeBuffer r with
  | (some k, t) => (BitVec.ofNat 32 (codeOk * 2 ^ 24 + k), t)
  | (none, t) => (BitVec.ofNat 32 (codeNoBuffer * 2 ^ 24), t)

end Sys2Proof.Machine
end

