-- ==== Sys2Proof/Machine/Scribe.lean ====
section
/-! DEFINITION. Scribe fail capture (R237-R258): records and markers, counted mode, signatures, the buffer and its drain. -/

namespace Sys2Proof.Machine

/-- The 128 bits of a record (Table 8-1). `flags` is the 14-bit FLAGS field. -/
def scribeBits (flags vaddr ts kind pin cycle : Nat) : BitVec 128 :=
  BitVec.ofNat 128 (flags % 2 ^ 14 * 2 ^ 114 + vaddr % 2 ^ 40 * 2 ^ 74 + ts % 2 ^ 6 * 2 ^ 68 + kind % 4 * 2 ^ 66 +
    pin % 2 ^ 10 * 2 ^ 56 + cycle % 2 ^ 56)

/-- SCR_CTRL.MODE in force: 0 RECORD, 1 SIGNATURE, 2 OFF; 3 acts as 0 (Table 8-4). -/
def State.scrMode (s : State) (c : Nat) : Nat :=
  let m := s.ffld (SCR_CTRL c) SCR_CTRL_MODE
  if m = 3 then 0 else m

/-- KSHIFT in force: below 10 acts as 10, above 32 acts as 32 (Table 8-4). -/
def State.kshift (s : State) (c : Nat) : Nat := max 10 (min 32 (s.ffld (SCR_CTRL c) SCR_CTRL_KSHIFT))

/-- Update Scribe of a cluster. -/
def State.updScr (s : State) (c : Nat) (f : Scribe → Scribe) : State := s.updCl c (fun x => { x with scr := f x.scr })

/-- Update the figures of every run of a cluster. -/
def State.updFigs (s : State) (c : Nat) (f : RunFigures → RunFigures) : State :=
  s.updCl c (fun x => { x with figs := x.figs.map (fun y => (y.1, f y.2)) })

/-- Update the figures of one run of a cluster. -/
def State.updFig (s : State) (c id : Nat) (f : RunFigures → RunFigures) : State :=
  s.updCl c (fun x => { x with figs := x.figs.map (fun y => if y.1 = id then (y.1, f y.2) else y) })

/-- The figures of a run of a cluster. -/
def State.fig (s : State) (c id : Nat) : RunFigures :=
  match (s.cl c).figs.find? (fun y => y.1 == id) with
  | some y => y.2
  | none => {}

/-- Records that the buffer holds (R244). -/
def State.scrHeld (s : State) (c : Nat) : Nat := (s.reg (SCR_WPTR c) - s.reg (SCR_RPTR c)).toNat

/-- FILL: records in the queue and the buffer together, computed in pin time with SCR_RPTR as the synchroniser has delivered it
(R245): that value stands among the values in force. -/
def State.scrFill (s : State) (c : Nat) : Nat :=
  (s.cl c).scr.queue.length + (s.reg (SCR_WPTR c) - s.inForce (SCR_RPTR c)).toNat

/-- Records are released: SCR_RPTR moves at once, and pin time sees the release when it has crossed (R93, R245). -/
def State.scrRelease (s : State) (c : Nat) (v : Word) : State := (s.setReg (SCR_RPTR c) v).sendPin (SCR_RPTR c) v

/-- Insert a record in order of grain, then of rank within the grain (R242). -/
def queueInsert (q : List QueuedRecord) (r : QueuedRecord) : List QueuedRecord :=
  match q with
  | [] => [r]
  | x :: xs => if r.grain < x.grain ∨ (r.grain = x.grain ∧ r.rank < x.rank) then r :: x :: xs else x :: queueInsert xs r

/-- The run whose records those of a pin are: the run of the engine that serves it (R183, R401). -/
def State.unitRun (s : State) (c u : Nat) : Option Nat :=
  (([0, 1, 2, 3].map (· + 4 * c)).find? (fun e => (s.eng e).run.isSome && nbit (s.eng e).served u)).bind (fun e => (s.eng e).run)

/-- Update the figures that count a record: those of its pin's run, or for a cluster marker those of every run of the cluster (R401, log
entry 144). -/
def State.recordFigs (s : State) (c : Nat) (unit : Option Nat) (f : RunFigures → RunFigures) : State :=
  match unit with
  | none => s.updFigs c f
  | some u => (match s.unitRun c u with
    | some id => s.updFig c id f
    | none => s)

/-- Whether a place, as grain and rank, stands before another in the order of R242. -/
def placeBefore (a b : Nat × Nat) : Bool := decide (a.1 < b.1) || (a.1 == b.1 && decide (a.2 < b.2))

/-- The closed windows of a cluster whose COUNT record stands before a place in the order of R242. -/
def State.countsBefore (s : State) (c : Nat) (place : Nat × Nat) : List Nat :=
  (List.range 16).filter (fun u => match (s.pin (16 * c + u)).oldWindow with
    | some w => decide (2 ≤ w.fails) && placeBefore (w.due, 1 + u) place
    | none => false)

/-- Whether the crossing queue has no room for a record: the COUNT records that stand before it, whose grain has not passed yet, have
their places (R242, R245). -/
def State.queueFull (s : State) (c : Nat) (place : Nat × Nat) : Bool :=
  decide (2048 ≤ (s.cl c).scr.queue.length + (s.countsBefore c place).length)

/-- A record enters the crossing queue at its place, or is lost when the queue is full (R245, R247). `unit` is the pin of a record of
one pin, none for a cluster marker. LOSS marks the next written record that stands after a lost one. -/
def State.queueRecord (s : State) (c : Nat) (unit : Option Nat) (grain rank flags vaddr ts kind pin cycle : Nat) : State :=
  let sat := decide (2 ^ 56 ≤ cycle)
  let t := if sat then s.setBit (SCR_STAT c) SCR_STAT_SAT true else s
  let x := (t.cl c).scr
  if t.queueFull c (grain, rank) then
    let t := (t.countSat (SCR_LOST_TOTAL c) SCR_LOST_TOTAL_COUNT 1).setBit (SCR_STAT c) SCR_STAT_LOST true
    let t := match unit with
      | some u => t.countSat (SCR_LOST c u) SCR_LOST_COUNT 1
      | none => t
    let t := t.updScr c (fun y => { y with
      lossMark := (match y.lossMark with
        | some m => if placeBefore (grain, rank) m then some (grain, rank) else some m
        | none => some (grain, rank)),
      lossEvent := true })
    let t := t.recordFigs c unit (fun y => { y with lost := true, lostCount := y.lostCount + 1 })
    if x.lossEvent then t else t.event codeDataLost 1 c 0 grain
  else
    let loss := match x.lossMark with
      | some m => placeBefore m (grain, rank)
      | none => false
    let fl := flags + (if loss then 2 ^ 9 else 0) + (if sat then 2 ^ 8 else 0)
    let cyc := if sat then 2 ^ 56 - 1 else cycle
    let t := t.updScr c (fun y => { y with
      queue := queueInsert y.queue ⟨grain, rank, scribeBits fl vaddr ts kind pin cyc⟩
      lossMark := if loss then none else y.lossMark })
    t.recordFigs c unit (fun y => { y with written := y.written + 1, sat := y.sat || sat })

/-- The COUNT record of a closed window, written when the window had two or more failing cycles (Table 8-3, R253). -/
def State.emitCount (s : State) (c u : Nat) (w : CountWindow) (grain : Nat) : State :=
  if 2 ≤ w.fails then s.queueRecord c (some u) grain (1 + u) (5 * 2 ^ 10 + 2 ^ 7) w.fails 0 0 (16 * c + u) w.first else s

/-- The COUNT record of a pin's closed window is written once its grain has passed: a strobe of that grain still counts (R242,
R252). -/
def State.flushOld (s : State) (c u g : Nat) : State :=
  match (s.pin (16 * c + u)).oldWindow with
  | some w =>
    if w.due < g then (s.updPin (16 * c + u) (fun x => { x with oldWindow := none })).emitCount c u w w.due else s
  | none => s

/-- A record enters the crossing queue, after the COUNT records of earlier grains (R242). -/
def State.scribePut (s : State) (c : Nat) (unit : Option Nat) (grain rank flags vaddr ts kind pin cycle : Nat) : State :=
  ((List.range 16).foldl (fun t u => t.flushOld c u grain) s).queueRecord c unit grain rank flags vaddr ts kind pin cycle

/-- A cluster marker at a grain (R241): CYCLE as given. -/
def State.scribeMarker (s : State) (c mtype grain cycle vaddr flags : Nat) : State :=
  s.scribePut c none grain 0 (mtype * 2 ^ 10 + flags) vaddr 0 0 (16 * c) cycle

/-- Grains from the run's start grain. -/
def State.scrOffset (s : State) (c g : Nat) : Nat := g - (s.cl c).scr.start

/-- The SCR_DRAIN in force tells Scribe to drain: DRAIN_EN 1 and a ring of its own region (R246, R360). -/
def State.scrDrains (s : State) (c : Nat) : Bool :=
  s.fbitF (SCR_DRAIN c) SCR_DRAIN_DRAIN_EN && (s.cl c).scr.ringBad.isNone

/-- The ring of the SCR_DRAIN in force. -/
def State.scrRing (s : State) (c : Nat) : Nat := s.ffld (SCR_DRAIN c) SCR_DRAIN_RING

/-- Whether a burst of Scribe of a cluster is being served. -/
def State.scrServing (s : State) (c : Nat) : Bool :=
  match s.ringBurst (s.scrRing c) with
  | some b => (match b.src with
    | .scribe c' _ => c' == c
    | _ => false)
  | none => false

/-- Scribe raises a drain request when R246 calls for one, and leaves flush when the buffer and the queue are empty. -/
def State.scribeDrain (s : State) (c : Nat) : State :=
  let s := if s.scrHeld c = 0 ∧ (s.cl c).scr.queue = [] then s.updScr c (fun x => { x with flush := false }) else s
  if s.scrDrains c then
    if 256 ≤ s.scrHeld c ∨
        ((s.cl c).scr.flush ∧ 0 < s.scrHeld c ∧ ¬ s.requested (s.scrRing c) ∧ ¬ s.scrServing c) then
      s.sourceRequest (s.scrRing c)
    else s
  else s

/-- Scribe writes one record into its buffer (R244). -/
def State.scribeWriteOne (s : State) (c : Nat) (r : QueuedRecord) : State :=
  let w := s.reg (SCR_WPTR c)
  (s.store (0x30000000000 + c * 0x400000 + 0x300000 + 16 * (w.toNat % 65536)) (leBytes 16 r.bits.toNat)).setReg
    (SCR_WPTR c) (w + 1)

/-- Whether the COUNT record of a closed window of the cluster stands before a record in the order of R242. -/
def State.countBefore (s : State) (c : Nat) (r : QueuedRecord) : Bool := !(s.countsBefore c (r.grain, r.rank)).isEmpty

/-- Up to n records move from the crossing queue into the buffer while it holds fewer than 65,536 (R242, R244, R245). -/
def State.scribeMove (s : State) (c : Nat) : Nat → State
  | 0 => s
  | n + 1 =>
    match (s.cl c).scr.queue with
    | [] => s
    | r :: q =>
      if s.scrHeld c < 65536 ∧ s.countBefore c r = false then
        ((s.updScr c (fun x => { x with queue := q })).scribeWriteOne c r).scribeMove c n
      else s

/-- The latest programmed grain of a strobe that a cycle takes, 0 with none. A strobe that a branch or the run's end cuts counts as
programmed (log entry 136). -/
def Cycle.lastStrobe (x : Cycle) : Nat :=
  [4, 5].foldl (fun m e => match x.used e with
    | some w => max m (x.start + w.grain)
    | none => m) 0

/-- The latest strobe of a pin's cycle when that cycle belongs to a counted window. -/
def CountWindow.late (w : CountWindow) (k : Nat) (x : Option Cycle) : Nat :=
  match x with
  | some y => if y.counted = true ∧ w.first ≤ y.count ∧ y.count / 2 ^ k = w.index then y.lastStrobe else 0
  | none => 0

/-- A window of a pin closes at grain g: its COUNT record waits for a later strobe of its cycles (R242, R252). -/
def State.closeWindow (s : State) (c u g : Nat) : State :=
  let x := s.pin (16 * c + u)
  match x.window with
  | none => s
  | some w =>
    let late := max (w.late (s.kshift c) x.cyc) (w.late (s.kshift c) x.prev)
    let s := match x.oldWindow with
      | some o => (s.updPin (16 * c + u) (fun x => { x with oldWindow := none })).emitCount c u o o.due
      | none => s
    s.updPin (16 * c + u) (fun x => { x with window := none, oldWindow := some { w with due := max g late } })

/-- Every window of a cluster closes at grain g. -/
def State.closeWindows (s : State) (c g : Nat) : State :=
  (List.range 16).foldl (fun t u => t.closeWindow c u g) s

/-- A pin starts its cycle `n` in counted mode at grain g: an older window closes and the cycle's window opens (R252). -/
def State.windowCycle (s : State) (c u n g : Nat) : State :=
  let w := n / 2 ^ s.kshift c
  match (s.pin (16 * c + u)).window with
  | some o => if o.index = w then s
      else (s.closeWindow c u g).updPin (16 * c + u) (fun x => { x with window := some { index := w, first := n } })
  | none => s.updPin (16 * c + u) (fun x => { x with window := some { index := w, first := n } })

/-- Counted mode starts at grain g (R249). -/
def State.countedOn (s : State) (c g : Nat) : State :=
  let t := s.scribeMarker c 3 g (s.scrOffset c g) 0 0
  let t := (t.setBit (SCR_STAT c) SCR_STAT_COUNTED_NOW true).setBit (SCR_STAT c) SCR_STAT_COUNTED true
  let first := !(s.cl c).scr.countedEvent
  let t := t.updScr c (fun x => { x with countedSince := some g, countedEvent := true })
  let t := t.updFigs c (fun x => { x with counted := true })
  if first then t.event codeCounted 1 c 0 g else t

/-- Counted mode ends at boundary g (R250, R252). -/
def State.countedOff (s : State) (c g : Nat) : State :=
  let t := s.scribeMarker c 4 g (s.scrOffset c g) 0 0
  let t := (t.closeWindows c g).setBit (SCR_STAT c) SCR_STAT_COUNTED_NOW false
  t.updScr c (fun x => { x with countedSince := none })

/-- The decision of counted mode at a tenon boundary of a run in RECORD mode (R249, R250). A LOW above HIGH acts as HIGH.
Counted mode that START_COUNTED began may end at the boundary of the start grain itself (log entry 140). -/
def State.countedDecide (s : State) (c g : Nat) : State :=
  if (s.cl c).scr.active ∧ s.scrMode c = 0 then
    let high := s.ffld (SCR_WM c) SCR_WM_HIGH
    let low := min high (s.ffld (SCR_WM c) SCR_WM_LOW)
    match (s.cl c).scr.countedSince with
    | none => if high < s.scrFill c ∨ 960 < (s.cl c).scr.queue.length then s.countedOn c g else s
    | some _ =>
      if s.fbitF (SCR_CTRL c) SCR_CTRL_POLICY ∧ s.scrFill c < low then s.countedOff c g else s
  else s

/-- One bit into a signature (R255). -/
def sigStep (sig : Word) (b : Bool) : Word :=
  if Bool.xor (sig.getLsbD 31) b then (sig <<< 1) ^^^ 0x04C11DB7#32 else sig <<< 1

/-- A result of a pin reaches Scribe (R237, R253, R255): `tag` 0 A, 1 B, 2 W, `grain` the programmed grain of its strobe or
closing strobe. -/
def State.scribeResult (s : State) (p : Nat) (x : Cycle) (tag grain : Nat) (lf hf tripped : Bool) : State :=
  let c := pinCl p
  let u := pinUnit p
  if !(s.cl c).scr.active then s
  else match s.scrMode c with
    | 1 => s.setReg (SCR_SIG c u) (sigStep (sigStep (s.reg (SCR_SIG c u)) lf) hf)
    | 0 =>
      if lf || hf then
        let kind := if lf && hf then 3 else if lf then 1 else 2
        let fl (n : Nat) := n + (if tripped then 2 ^ 6 else 0) + tag * 2 ^ 4
        let put (t : State) (n : Nat) :=
          t.scribePut c (some u) grain (100 + 4 * u + tag) (fl n) x.vaddr x.ts kind p x.count
        if x.counted then
          let bump (w : CountWindow) : CountWindow :=
            { w with fails := if w.lastFail = some x.count then w.fails else w.fails + 1, lastFail := some x.count }
          match (s.pin p).oldWindow with
          | some o =>
            if decide (o.first ≤ x.count) && (match (s.pin p).window with
                | some w => decide (x.count < w.first)
                | none => true) then
              let t := if o.fails = 0 then put s (2 ^ 7) else s
              t.updPin p (fun y => { y with oldWindow := some (bump o) })
            else match (s.pin p).window with
              | some w =>
                let t := if w.fails = 0 then put s (2 ^ 7) else s
                t.updPin p (fun y => { y with window := some (bump w) })
              | none => s
          | none => match (s.pin p).window with
            | some w =>
              let t := if w.fails = 0 then put s (2 ^ 7) else s
              t.updPin p (fun y => { y with window := some (bump w) })
            | none => s
        else put s 0
      else s
    | _ => s

/-- The ring of the SCR_DRAIN in force is checked as the setting takes effect; a bad ring is logged once (R360). -/
def State.scribeRing (s : State) (c : Nat) : Option Nat × State := s.checkRing (c / 8) (s.scrRing c) (s.cl c).scr.ringBad

/-- Scribe at a run start of its cluster (R257): counters cleared, settings loaded, START written, counted mode from the start
grain when START_COUNTED is 1 (R249). `units` are the unit indexes that the run's engines serve. -/
def State.scribeStart (s : State) (c g id lowEng : Nat) (units : List Nat) : State :=
  let t := s.setReg (SCR_LOST_TOTAL c) 0
  let t := (List.range 16).foldl (fun t u => t.setReg (SCR_LOST c u) 0) t
  let t := (t.setForce (SCR_CTRL c) (s.reg (SCR_CTRL c))).setForce (SCR_DRAIN c) (s.reg (SCR_DRAIN c))
  let t := t.setBit (SCR_STAT c) SCR_STAT_COUNTED_NOW false
  let t := if t.scrMode c = 1 then (List.range 16).foldl (fun t u => t.setReg (SCR_SIG c u) 0xFFFFFFFF) t else t
  let k := t.scribeRing c
  let t := k.2.updCl c (fun x => { x with
    scr := { x.scr with active := true, start := g, lossEvent := false, countedEvent := false, countedSince := none,
                        ringBad := k.1, lossMark := x.scr.lossMark.map (fun _ => (0, 0)) },
    figs := x.figs ++ [(id, { lowEng := lowEng })], gapStart := none, gapCount := 0 })
  let t := units.foldl (fun t u => t.updPin (16 * c + u) (fun x => { x with
    count := 0, hadCycle := false, window := none, oldWindow := none, gap := false })) t
  let t := t.scribePut c none g 0 (1 * 2 ^ 10) 0 0 0 (16 * c) (g % 2 ^ 56)
  if t.scrMode c = 0 ∧ t.fbitF (SCR_CTRL c) SCR_CTRL_START_COUNTED then t.countedOn c g else t

/-- The INVALID marker of the open gap of missing tenons (R241). -/
def State.invalidMarker (s : State) (c g : Nat) : State :=
  match (s.cl c).gapStart with
  | some b =>
    let t := if s.scrMode c = 2 then s else s.scribeMarker c 2 g (s.scrOffset c b) (s.cl c).gapCount 0
    t.updCl c (fun x => { x with gapStart := none, gapCount := 0 })
  | none => s

/-- The windows of a pin end with the run at grain g (R252, R258). -/
def State.endWindows (s : State) (c u g : Nat) : State :=
  let x := s.pin (16 * c + u)
  let t := s.updPin (16 * c + u) (fun x => { x with window := none, oldWindow := none })
  let t := match x.oldWindow with
    | some o => t.emitCount c u o (min o.due g)
    | none => t
  match x.window with
  | some w => t.emitCount c u w g
  | none => t

/-- The SIGNATURE record of a unit that had a cycle (R255). -/
def State.signature (s : State) (c g u : Nat) : State :=
  let x := s.pin (16 * c + u)
  if x.hadCycle then
    s.scribePut c (some u) g (60 + u) (6 * 2 ^ 10 + (if x.gap then 2 ^ 3 else 0)) (s.reg (SCR_SIG c u)).toNat 0 0
      (16 * c + u) (x.count + 1)
  else s

/-- Scribe at the run's end, grain g (R258): INVALID, COUNT, SIGNATURE, END, then flush. Scribe goes on while another run of the
cluster plays (`more`). COUNTED_NOW reads as counted mode left it until the next run start (R257, log entry 139). -/
def State.scribeEnd (s : State) (c g id : Nat) (units : List Nat) (more : Bool) : State :=
  let t := s.invalidMarker c g
  let t := units.foldl (fun t u => t.endWindows c u g) t
  let t := if t.scrMode c = 1 then units.foldl (fun t u => t.signature c g u) t else t
  let t := t.scribePut c none g 90 (7 * 2 ^ 10) (min (t.fig c id).lostCount (2 ^ 40 - 1)) 0 0 (16 * c) (s.scrOffset c g)
  (t.updScr c (fun x => { x with
    active := more, flush := true, countedSince := if more then x.countedSince else none })).scribeDrain c

/-! The commands of Scribe. -/

/-- SCRIBE_LINE_WRITE: up to one 64 B line of records moves into the buffer, and the drain request follows (R245, R246). -/
def execScribeLineWrite (c : ClNo) (s : State) : Host.Outcome State Fault Refusal :=
  ok ((s.scribeMove c.val 4).scribeDrain c.val)

/-- SCR_FLUSH: Scribe enters flush (R246); while the DRAIN_EN in force is 0 the flush stands and acts once it is 1 (log entry 138). -/
def execScrFlush (port : PortNo) (c : ClNo) (s : State) : Host.Outcome State Fault Refusal :=
  ok (s.reach port.val (SCR_FLUSH c.val) (fun s =>
    (s.updScr c.val (fun x => { x with flush := true })).scribeDrain c.val))

/-- Records are released while Scribe does not drain, with the DRAIN_EN in force 0 or as if it were (R360); a value ahead of WPTR acts
as WPTR (R244, R246, Table 8-4), and so does a value behind RPTR, which counts as ahead modulo 2^32 (log entry 137). -/
def State.scrConsume (s : State) (c : Nat) (value : Word) : State :=
  if s.scrDrains c then s
  else
    let w := s.reg (SCR_WPTR c)
    let r := s.reg (SCR_RPTR c)
    let v := if (value - r).toNat ≤ (w - r).toNat then value else w
    (s.scrRelease c v).scribeDrain c

/-- SCR_RPTR_WRITE: a partner's write of SCR_RPTR. -/
def execScrRptrWrite (port : PortNo) (c : ClNo) (value : Word) (s : State) : Host.Outcome State Fault Refusal :=
  ok (s.reach port.val (SCR_RPTR c.val) (fun s => s.scrConsume c.val value))

/-- A write of SCR_CTRL or SCR_DRAIN: stored at once; outside a run it goes to the cluster (R257). -/
def State.scribeConfig (s : State) (c a : Nat) (value : Word) (be : BitVec 4) : State :=
  let t := s.partnerWrite a value be
  if (s.cl c).scr.active then t else t.sendPin a (t.reg a)

/-- A write of SCR_CTRL or SCR_DRAIN has reached the cluster: it is in force, unless a run has begun, which has loaded it (R257). -/
def State.scribeSetting (s : State) (c a : Nat) (w : Word) : State :=
  if (s.cl c).scr.active then s
  else
    let t := s.setForce a w
    let k := t.scribeRing c
    if a = SCR_DRAIN c then (k.2.updScr c (fun x => { x with ringBad := k.1 })).scribeDrain c else t

/-- SCRIBE_CONFIG_WRITE: SCR_CTRL or SCR_DRAIN is stored; during a run it takes effect at the next run start, outside a run once
it reaches the cluster (R257). -/
def execScribeConfigWrite (port : PortNo) (c : ClNo) (drain : Bool) (value : Word) (be : BitVec 4) (s : State) :
    Host.Outcome State Fault Refusal :=
  let a := if drain then SCR_DRAIN c.val else SCR_CTRL c.val
  ok (s.reach port.val a (fun s => s.scribeConfig c.val a value be))

end Sys2Proof.Machine
end

