-- ==== Sys2Proof/Machine/Drive.lean ====
section
/-! DEFINITION. What every pin operation shares: holds (R136), idle codes (Table 2-7), shims (R113-R118), the values of words
while a write reaches pin time (R102, R152), runs seen from a pin (R183). -/

namespace Sys2Proof.Machine

/-- The engine that serves a pin in a run, as ENG_SERVE stood at the start grain (R183). -/
def State.servedBy (s : State) (p : Nat) : Option Nat :=
  ([0, 1, 2, 3].map (· + 4 * pinCl p)).find? (fun e =>
    (s.eng e).run.isSome && nbit (s.eng e).served (pinUnit p))

/-- Whether a pin's serving engine holds a run (R183, R284): from its START on, before the start grain by ENG_SERVE in force. -/
def State.engineHolds (s : State) (p : Nat) : Bool :=
  let e := 4 * pinCl p + slice (s.ffld (ENG_SERVE (pinCl p)) ENG_SERVE_SERVE) (2 * pinUnit p) 2
  (s.servedBy p).isSome || (match (s.eng e).run.bind s.runOf with
    | some r => r.start.isNone
    | none => false)

/-- Whether the safe state holds a pin (R44, R45, R66, R69, R478). -/
def State.safePin (s : State) (p : Nat) : Bool :=
  (s.rg (p / 128)).safe || s.hub.holdSafe || s.hub.conflictSafe || !s.bit SYS_REF_CTRL SYS_REF_CTRL_LOCKED

/-- The LATCH bit of a pin (Table 5-6). -/
def State.latchBit (s : State) (p : Nat) : Bool := s.fbit (CLP_STAT (pinCl p)) CLP_STAT_LATCH (pinUnit p)
/-- Whether a pin's Clamp latch is set now: a trip sets it at the grain after the one that decides it (R172). -/
def State.latched (s : State) (p : Nat) : Bool :=
  s.latchBit p && (match (s.pin p).latchAt with
    | some a => decide (a ≤ s.gt)
    | none => true)

/-- Whether a calibration interruption is in progress in a cluster (R308). -/
def State.interrupted (s : State) (c : Nat) : Bool := (s.cl c).gauge.interruption.isSome

/-- A case of R284 holds in which a pin's PPMU acts as MV, the Clamp latch apart. Idle code 0x4 is the safe state (Table 2-7). -/
def State.pmuBarred (s : State) (p : Nat) : Bool :=
  !s.hasMode (pinCl p) 3 || s.engineHolds p || s.pinMasked p || s.safePin p || (s.pin p).idle == some 4

/-- The cases of R284 are looked at for a pin at a tenon boundary. -/
def State.pmuSettle (s : State) (p : Nat) : State := s.updPin p (fun x => { x with pmuOn := !s.pmuBarred p })

/-- The effective mode of a pin's PPMU: 0 MV, 1 FVMI, 2 FIMV (R281). MODE applies from the first tenon boundary at which no case of
R284 holds, after a Clamp clear from the clearing grain. -/
def State.pmuMode (s : State) (p : Nat) : Nat :=
  if s.pmuBarred p || !(s.pin p).pmuOn || s.latched p then 0
  else
    let m := s.ffld (PMU_CTRL (pinCl p) (pinUnit p)) PMU_CTRL_MODE
    if m = 3 then 0 else m

/-- Whether a pin's driver is held at high-Z (R136, R283, R308). -/
def State.holdNow (s : State) (p : Nat) : Bool :=
  s.pinMasked p || s.safePin p || s.latched p || s.interrupted (pinCl p) || s.pmuMode p != 0

/-- A hold begins for a pin at kerf 0 of grain g: it lasts until a cycle or boundary releases it (R136). -/
def PinSt.hold (g : Nat) (x : PinSt) : PinSt := if x.held then x else { x with held := true, heldFrom := g }

/-- A hold begins for a pin at grain g (R136). -/
def State.holdPin (s : State) (p g : Nat) : State := s.updPin p (PinSt.hold g)

/-- The safe state takes a pin at grain g: its driver is held and its PPMU acts as MV until a tenon boundary (R44, R284). -/
def State.safeHold (s : State) (p g : Nat) : State := s.updPin p (fun x => { x.hold g with pmuOn := false })

/-! The contact: drive levels, termination and the PPMU forcer (R130, R136-R138, R281-R283). -/

/-- A level or termination voltage in mV: a value outside −1,000 mV to +2,500 mV acts as the nearer limit (R138). -/
def levelMv (v : Nat) : Int := max (-1000) (min 2500 (sx 16 v))

/-- The voltage of DAC code k in 1/63 mV: VL + k × (VH − VL) / 63 with the levels in force (R137-R139). -/
def State.driveMv63 (s : State) (p k : Nat) : Int :=
  let h := levelMv (s.ffld (FMT_VH (pinCl p) (pinUnit p)) FMT_VH_VH)
  let l := levelMv (s.ffld (FMT_VL (pinCl p) (pinUnit p)) FMT_VL_VL)
  63 * l + k * (h - l)

/-- What the termination of a driver that is off presents: VT through 50 Ω, or an open pin with TERM_EN 0 (Table 4-4). -/
def State.terminated (s : State) (p : Nat) : Contact :=
  if s.fbitF (FMT_TERM (pinCl p) (pinUnit p)) FMT_TERM_TERM_EN then
    .term (levelMv (s.ffld (FMT_VT (pinCl p) (pinUnit p)) FMT_VT_VT))
  else .open_

/-- The current full scale of a PPMU range in pA (Table 10-1). -/
def fullScale (range : Nat) : Int :=
  match range with
  | 1 => 20000000
  | 2 => 200000000
  | 3 => 2000000000
  | 4 => 40000000000
  | _ => 2000000

/-- The FORCE word that a PPMU forces at grain g: the level of a pulse in progress, else PMU_FORCE in force (R286, R287). -/
def State.forceWord (s : State) (p g : Nat) : Nat :=
  let f := s.ffld (PMU_FORCE (pinCl p) (pinUnit p)) PMU_FORCE_FORCE
  match (s.pin p).pulse with
  | some x => if g < x.1 then x.2 else f
  | none => f

/-- What a PPMU in FVMI or FIMV forces at grain g (R282, Table 10-2): a voltage limited to −1,500 mV to +3,000 mV whose current is
limited to the full scale of the range, or the current FORCE × full scale / 32,768 while the pin voltage is held within −1,500 mV to
+3,000 mV. -/
def State.forcer (s : State) (p g : Nat) : Contact :=
  let fs := fullScale (s.ffld (PMU_CTRL (pinCl p) (pinUnit p)) PMU_CTRL_RANGE)
  let v := sx 16 (s.forceWord p g)
  if s.pmuMode p = 1 then .volt (max (-1500) (min 3000 v)) fs.toNat else .amp (v * fs) (-1500) 3000

/-- What a pin presents at its contact at grain g, which may lie before the present hold began: nothing in the safe state, which idle code 0x4 is too (R44, Table 2-7), and in a calibration interruption (R308), the
forcer of a PPMU that forces (R283), the termination under a mask or a Clamp hold and whenever the driver is off, else the driver at
DAC code k (R130, R136-R138). -/
def State.contactAs (s : State) (p g : Nat) (on : Bool) (k : Nat) : Contact :=
  let before := (s.pin p).held && decide (g < (s.pin p).heldFrom)
  if (s.safePin p || s.interrupted (pinCl p)) && !before || (s.pin p).idle == some 4 then .open_
  else if s.pmuMode p != 0 then s.forcer p g
  else if (s.pin p).held && decide ((s.pin p).heldFrom ≤ g) then s.terminated p
  else if on then .drive (s.driveMv63 p k)
  else s.terminated p

/-- The idle code of a pin in force: 0x5 to 0xF act as 0x2 (R84, Table 2-7). -/
def State.idleCode (s : State) (p : Nat) : Nat :=
  let w := s.inForce (TMG_IDLE (pinCl p) (pinUnit p / 8))
  let k := slice w.toNat (4 * (pinUnit p % 8)) 4
  if 5 ≤ k then 2 else k

/-- A pin plays an idle code: its driver's on or off state and data level (R79, Table 2-7). -/
def PinSt.playIdle (x : PinSt) (code : Nat) : PinSt :=
  match code with
  | 0 => { x with idle := some 0, on := true, level := 0 }
  | 1 => { x with idle := some 1, on := true, level := 63 }
  | 3 => { x with idle := some 3 }
  | n => { x with idle := some n, on := false }

/-- Outside a run a pin whose holds have ended plays its idle code from boundary b (R136). -/
def State.releaseIdle (s : State) (p b : Nat) : State :=
  if s.holdNow p then s.holdPin p b
  else if (s.pin p).held then
    s.updPin p (fun x => PinSt.playIdle { x with held := false, on := x.on && s.idleCode p != 3 } (s.idleCode p))
  else s

/-! Shims. -/

/-- A shim's TARGET in kerfs (Table 3-8). -/
def State.shimTarget (s : State) (c i : Nat) : Int := sx 9 (s.fld (TMG_SHIM c i) TMG_SHIM_TARGET)
/-- A shim's ACTIVE in kerfs (Table 3-8). -/
def State.shimActive (s : State) (c i : Nat) : Int := sx 9 (s.fld (TMG_SHIM c i) TMG_SHIM_ACTIVE)

/-- MOVING is 1 while ACTIVE differs from TARGET (Table 3-8). -/
def State.shimMoving (s : State) (c i : Nat) : State :=
  s.setBit (TMG_SHIM c i) TMG_SHIM_MOVING (s.fld (TMG_SHIM c i) TMG_SHIM_TARGET != s.fld (TMG_SHIM c i) TMG_SHIM_ACTIVE)

/-- Write a shim's TARGET; ACTIVE never jumps (R118). Edge index 7 is reserved (Table 3-7). -/
def State.shimSet (s : State) (c i : Nat) (target : Nat) : State :=
  if i % 8 = 7 then s else (s.setFld (TMG_SHIM c i) TMG_SHIM_TARGET target).shimMoving c i

/-- One shim at a step point: ACTIVE moves 1 kf towards TARGET (R116). -/
def State.shimStep (s : State) (c i : Nat) : State :=
  let t := s.shimTarget c i
  let a := s.shimActive c i
  if t = a then s
  else (s.setFld (TMG_SHIM c i) TMG_SHIM_ACTIVE (ux 9 (if a < t then a + 1 else a - 1))).shimMoving c i

/-- A step point of a pin (R116). -/
def State.stepPin (s : State) (p : Nat) : State :=
  (List.range 7).foldl (fun t e => t.shimStep (pinCl p) (8 * pinUnit p + e)) s

/-- Whether any shim of a cluster is moving (R310). -/
def State.anyMoving (s : State) (c : Nat) : Bool :=
  (List.range 128).any (fun i => s.bit (TMG_SHIM c i) TMG_SHIM_MOVING)

/-- Every condition of R310 for a calibration of a kind but the idle converter. -/
def State.calReady (s : State) (c : Nat) (kind : CalKind) : Bool :=
  let r := CAL_REF_STAT
  s.hasMode c 4 && !s.interrupted c && !s.anyMoving c &&
  [0, 1, 2, 3].all (fun i => (s.eng (4 * c + i)).run.isNone) &&
  s.fld (SYS_UNIT_MASK c) SYS_UNIT_MASK_EN_MASK != 15 &&
  (match kind with
    | .dc => s.bit (CAL_CTRL c) CAL_CTRL_REQ_DC && !s.bit r CAL_REF_STAT_STOP_V
    | .timing => s.bit (CAL_CTRL c) CAL_CTRL_REQ_T && !s.bit r CAL_REF_STAT_STOP_T &&
        s.bit SYS_REF_CTRL SYS_REF_CTRL_LOCKED && !s.bit SYS_REF_CTRL SYS_REF_CTRL_HOLDOVER)

/-! Words in pin time. -/

/-- The values of writes to a word that have reached pin time by grain g and have not come into force yet (R102). -/
def State.wordsDue (s : State) (a g : Nat) : List Word :=
  (s.inFlight.filter (fun m => m.addr == a && (match m.reached with
    | some b => decide (b ≤ g)
    | none => false))).map (·.value)

/-- The value of a timing or sequence word at grain g: while writes to it have reached pin time and are not yet due, the old value or
one of the new ones, freely (R102, R152). -/
def State.wordAt (s : State) (a g : Nat) : Word × State :=
  match s.wordsDue a g with
  | [] => (s.inForce a, s)
  | l => ((s.inForce a :: l).getD (Config.freeNat s.free % (l.length + 1)) (s.inForce a), s.useFree)

/-- Whether the tenon that holds a grain was missing (R79, R81). -/
def State.missingAt (s : State) (c g : Nat) : Bool := (s.cl c).missed.any (fun b => decide (b ≤ g) && decide (g < b + 64))

/-- Whether a missing tenon lies in the span of grains from lo to hi, which a window with strobes there meets (R81). -/
def State.missingIn (s : State) (c lo hi : Nat) : Bool := (s.cl c).missed.any (fun b => decide (lo < b + 64) && decide (b ≤ hi))

end Sys2Proof.Machine
end

