-- ==== Sys2Proof/Machine/Flags.lean ====
section
/-! DEFINITION. Event flags (R199-R202, R271): sets and clears at a grain, the checks they decide, the SET and CLR registers. -/

namespace Sys2Proof.Machine

/-- Whether the flag a WAIT or COND FLAG names reads as wanted: set, or clear when inverted; a selector that names no flag reads
as clear (R199, R202). -/
def State.selMet (s : State) (c sel : Nat) (inv : Bool) : Bool :=
  Bool.xor (match flagOfSel c sel with
    | some k => s.flag k
    | none => false) inv

/-- The exit of a WAIT word whose check at grain g succeeded (R202). -/
def State.waitExit (s : State) (x : EngSt) (w : Micro) (g : Nat) : PendBranch :=
  { s := g
    at_ := g + s.latency (selLevel w.waitSel)
    level := selLevel w.waitSel
    cond := 5
    condInv := w.condInv
    flagSet := true
    target := 0
    vform := x.vform
    openAt := x.openAt
    coll := {}
    isWait := true }

/-- An engine has checked the flag of a selector at grain g; checks of system flags are kept (R485). -/
def EngSt.noteCheck (x : EngSt) (c sel g : Nat) : EngSt :=
  match flagOfSel c sel with
  | some k => if 3000 ≤ k then { x with sysChecks := tput (fun _ => 0) x.sysChecks (k - 3000) (g + 1) } else x
  | none => x

/-- The check of a WAIT at its grain s: on success the next word opens at s + D, else the engine waits (R202). A check made while
a branch of the engine is pending is no check. -/
def State.waitCheckAt (s : State) (e g : Nat) : State :=
  match (s.eng e).word with
  | some w =>
    let x := (s.eng e).noteCheck (engCl e) w.waitSel g
    if s.selMet (engCl e) w.waitSel w.condInv then
      s.setEng e { x with lastCheck := some g, pend := some (s.waitExit x w g) }
    else
      (s.setEng e { x with
        lastCheck := some g, pend := none, waiting := true,
        waitFrom := if x.waiting then x.waitFrom else g }).setBit (ENG_STAT (engCl e) (e % 4)) ENG_STAT_WAITING true
  | none => s

/-- A first check of a WAIT that is decided anew and met found nothing to wait for: the engine has not been waiting (R200, R202). -/
def State.unwait (s : State) (e g : Nat) : State :=
  let x := s.eng e
  if x.pend.isSome ∧ x.waiting ∧ x.waitFrom = g then
    (s.setEng e { x with waiting := false }).setBit (ENG_STAT (engCl e) (e % 4)) ENG_STAT_WAITING false
  else s

/-- A flag took a new value at grain g: checks already made at that grain are decided anew (R200). -/
def State.recheck (s : State) (key g : Nat) (e : Nat) : State :=
  let x := s.eng e
  match x.word, x.pend with
  | some w, none =>
    if w.seqOp = 6 ∧ x.lastCheck = some g ∧ flagOfSel (engCl e) w.waitSel = some key then
      (s.waitCheckAt e g).unwait e g
    else s
  | some w, some p =>
    if p.isWait ∧ p.s = g ∧ flagOfSel (engCl e) w.waitSel = some key then s.waitCheckAt e g
    else if ¬ p.isWait ∧ p.cond = 5 ∧ p.s = g ∧ flagOfSel (engCl e) p.flagSel = some key then
      s.setEng e { x with pend := some { p with flagSet := s.flag key } }
    else s
  | none, some p =>
    if ¬ p.isWait ∧ p.cond = 5 ∧ p.s = g ∧ flagOfSel (engCl e) p.flagSel = some key then
      s.setEng e { x with pend := some { p with flagSet := s.flag key } }
    else s
  | none, none => s

/-- The engines of the package that hold a run. -/
def State.runningEngines (s : State) : List Nat := s.runs.flatMap (·.engines)

/-- A flag is set at grain g by a source, and checks of that grain see it (R200). -/
def State.flagSetAt (s : State) (key g src : Nat) : State :=
  let old := tget (fun _ => ((0, 0) : Nat × Nat)) s.flagSets key
  let mark : Nat × Nat := if old.1 = g + 1 ∧ old.2 ≠ src + 1 then (g + 1, 0) else (g + 1, src + 1)
  let t := { (s.setFlag key true) with flagSets := tput (fun _ => ((0, 0) : Nat × Nat)) s.flagSets key mark }
  t.runningEngines.foldl (fun u e => u.recheck key g e) t

/-- A flag is cleared at grain g by a source, unless another source set it at that grain (R200). -/
def State.flagClrAt (s : State) (key g src : Nat) : State :=
  let old := tget (fun _ => ((0, 0) : Nat × Nat)) s.flagSets key
  if old.1 = g + 1 ∧ old.2 ≠ src + 1 then s
  else
    let t := s.setFlag key false
    t.runningEngines.foldl (fun u e => u.recheck key g e) t

/-- A flag changes at grain g: at once for a cluster, region or package flag; for a system flag, with decision grain g, at
g + 16,384 + L in every package of the sync domain, which Vyene tells the others (R200, R201, R485). `sys` numbers a system flag. -/
def State.flagChange (s : State) (key g src : Nat) (set : Bool) : State :=
  if 3000 ≤ key then
    let due := g + s.latency 3
    let rest := s.sysFlagDue.filter (fun x => !(x.1 == key - 3000 && x.2.1 == due && x.2.2.2 == src))
    let t := { s with sysFlagDue := rest ++ [(key - 3000, due, set, src)] }
    if s.domainOthers = 0 then t else t.send (.vyene "FLAG" 16 [key - 3000, if set then 1 else 0, g, src])
  else if set then s.flagSetAt key g src
  else s.flagClrAt key g src

/-- The source number of an engine, a partner, a digitiser and the system in flag changes. -/
def srcEngine (e : Nat) : Nat := e
/-- The source number of the partners: which port carried a write makes no difference, and their writes act in the order in which
they reach the flag (R447, log entry 143). -/
def srcPartner : Nat := 1000
/-- The source number of digitiser d. -/
def srcDig (d : Nat) : Nat := 2000 + d
/-- The source number of a source of another package. -/
def srcPackage (pkg src : Nat) : Nat := 10000 * (pkg + 1) + src
/-- The source number of system flag changes. -/
def srcSystem : Nat := 3000

/-- The flag keys of a SET or CLR register, with whether it sets, none for another register (Table 6-7). -/
def flagReg (a : Nat) : Option (List Nat × Bool) :=
  match regLoc a with
  | none => none
  | some l =>
    if l.win = 0 ∧ l.blk = 7 then
      let o := l.off
      if o = 0x40000 then some ((List.range 8).map (· + 8 * l.num), true)
      else if o = 0x40004 then some ((List.range 8).map (· + 8 * l.num), false)
      else if 0x40010 ≤ o ∧ o < 0x40018 then
        some ((List.range 32).map (· + (1000 + l.num / 8 * 64 + (o - 0x40010) * 8)), true)
      else if 0x40020 ≤ o ∧ o < 0x40028 then
        some ((List.range 32).map (· + (1000 + l.num / 8 * 64 + (o - 0x40020) * 8)), false)
      else if 0x40040 ≤ o ∧ o < 0x40060 then some ((List.range 32).map (· + (2000 + (o - 0x40040) * 8)), true)
      else if 0x40060 ≤ o ∧ o < 0x40080 then some ((List.range 32).map (· + (2000 + (o - 0x40060) * 8)), false)
      else if 0x40080 ≤ o ∧ o < 0x40088 then some ((List.range 32).map (· + (3000 + (o - 0x40080) * 8)), true)
      else if 0x40090 ≤ o ∧ o < 0x40098 then some ((List.range 32).map (· + (3000 + (o - 0x40090) * 8)), false)
      else none
    else none

/-- The cluster of a SET or CLR register, whose timebase a write of it reaches (R201). -/
def flagRegCl (a : Nat) : Nat :=
  match regLoc a with
  | some l => l.num
  | none => 0

/-- What a SET or CLR register reads: the present state of its flags (Table 6-7). -/
def State.flagWord (s : State) (keys : List Nat) : Word :=
  BitVec.ofNat 32 (keys.reverse.foldl (fun m k => 2 * m + (if s.flag k then 1 else 0)) 0)

/-- The flags whose bit of the written value is 1 change at boundary b (R201). -/
def State.flagRegWrite (s : State) (keys : List Nat) (set : Bool) (value : Word) (b : Nat) : State :=
  (List.range keys.length).foldl (fun t i =>
    if nbit value.toNat i then t.flagChange (keys.getD i 0) b srcPartner set else t) s

/-- FLAG_SET_WRITE: sets flags at boundary b (R201). -/
def execFlagSetWrite (port : PortNo) (addr : Nat) (value : Word) (b : Nat) (s : State) : Host.Outcome State Fault Refusal :=
  match flagReg addr with
  | some (keys, true) =>
    ok (s.reach port.val addr (fun s => (s.atCluster (flagRegCl addr) b).flagRegWrite keys true value b))
  | _ => ok s

/-- FLAG_CLR_WRITE: clears flags at boundary b (R201). -/
def execFlagClrWrite (port : PortNo) (addr : Nat) (value : Word) (b : Nat) (s : State) : Host.Outcome State Fault Refusal :=
  match flagReg addr with
  | some (keys, false) =>
    ok (s.reach port.val addr (fun s => (s.atCluster (flagRegCl addr) b).flagRegWrite keys false value b))
  | _ => ok s

end Sys2Proof.Machine
end

