-- ==== Sys2Proof/Machine/Acq.lean ====
section
/-! DEFINITION. Digitisers, triggers and acquisition records (R259-R280). -/

namespace Sys2Proof.Machine

/-- The cluster of a digitiser (R259). -/
def digCl (d : Nat) : Nat := d / 2
/-- ACQ_STAT of a digitiser. -/
def acqStat (d : Nat) : Nat := ACQ_STAT (digCl d) (d % 2)
/-- The settings that an arm grain brings into force (R268). -/
def State.acqSnapshot (s : State) (d : Nat) : AcqCfg :=
  let c := digCl d
  let k := d % 2
  { ctrl := s.reg (ACQ_CTRL c k), trig := s.reg (ACQ_TRIG c k), tmin := s.reg (ACQ_TMIN c k), tmax := s.reg (ACQ_TMAX c k),
    pre := s.reg (ACQ_PRE c k), post := s.reg (ACQ_POST c k), auto := s.reg (ACQ_AUTO c k), block := s.reg (ACQ_BLOCK c k),
    ring := s.reg (ACQ_RING c k), ring2 := s.reg (ACQ_RING2 c k) }

/-- PRE: above 65,536 acts as 65,536. -/
def AcqCfg.preN (x : AcqCfg) : Nat := min 65536 (getF x.pre ACQ_PRE_PRE)
/-- POST = POST_M1 + 1. -/
def AcqCfg.postN (x : AcqCfg) : Nat := x.post.toNat + 1
/-- b of a block ring: 0 acts as 1, above 32 acts as 32 (R274). -/
def AcqCfg.blockB (x : AcqCfg) (ring : Nat) : Nat :=
  max 1 (min 32 (if ring = 1 then getF x.block ACQ_BLOCK_MM_B else getF x.block ACQ_BLOCK_MEAN_B))
/-- d of R273. -/
def AcqCfg.decim (x : AcqCfg) : Nat := getF x.ctrl ACQ_CTRL_DECIM
/-- Whether a ring is enabled (R272): 0 raw, 1 min/max, 2 mean. -/
def AcqCfg.enabled (x : AcqCfg) (ring : Nat) : Bool := nbit (getF x.ctrl ACQ_CTRL_RED_EN) ring
/-- The DMA ring of a ring. -/
def AcqCfg.ringId (x : AcqCfg) (ring : Nat) : Nat :=
  match ring with
  | 0 => getF x.ring ACQ_RING_RAW_RING
  | 1 => getF x.ring ACQ_RING_MM_RING
  | _ => getF x.ring2 ACQ_RING2_MEAN_RING

/-- A ring of a digitiser. -/
def DigSt.ringOf (x : DigSt) (ring : Nat) : AcqRing :=
  match ring with
  | 0 => x.raw
  | 1 => x.minMax
  | _ => x.mean
/-- Write a ring of a digitiser. -/
def DigSt.setRingOf (x : DigSt) (ring : Nat) (r : AcqRing) : DigSt :=
  match ring with
  | 0 => { x with raw := r }
  | 1 => { x with minMax := r }
  | _ => { x with mean := r }
/-- Update a ring of a digitiser. -/
def State.updAcqRing (s : State) (d ring : Nat) (f : AcqRing → AcqRing) : State :=
  s.updDig d (fun x => x.setRingOf ring (f (x.ringOf ring)))

/-- Lines the staging of a ring holds (R277). -/
def stagingCap (ring : Nat) : Nat := if ring = 0 then 256 else 32
/-- Lines at which staging raises a request (R277). -/
def stagingLevel (ring : Nat) : Nat := if ring = 0 then 64 else 8

/-! Triggers (R269, R270). -/

/-- The trigger logic between two samples: the sample before, the pending first crossing, whether it is spoilt, and the count of
TIMEOUT. -/
structure TrigState where
  prev : Option Nat := none
  first : Option Nat := none
  spoilt : Bool := false
  count : Nat := 0
  deriving DecidableEq, Repr

/-- A rising crossing of a level (R269). -/
def rises (prev : Option Nat) (x level : Nat) : Bool :=
  match prev with
  | some y => decide (y < level) && decide (level ≤ x)
  | none => false

/-- A falling crossing of a level (R269). -/
def falls (prev : Option Nat) (x level : Nat) : Bool :=
  match prev with
  | some y => decide (level ≤ y) && decide (x < level)
  | none => false

/-- t is in range, or outside it with OUTSIDE 1 (R270). -/
def AcqCfg.inRange (x : AcqCfg) (t : Nat) : Bool :=
  let isIn := decide (x.tmin.toNat ≤ t) && decide (t ≤ x.tmax.toNat)
  if getB x.trig 27 then !isIn else isIn

/-- One sample into the trigger logic: whether a trigger completes at it (Table 9-1). `i` counts samples from A. -/
def AcqCfg.trigStep (x : AcqCfg) (t : TrigState) (i v : Nat) : Bool × TrigState :=
  let la := getF x.trig ACQ_TRIG_LEVEL_A
  let lb := getF x.trig ACQ_TRIG_LEVEL_B
  let pol := getB x.trig 28
  let ra := rises t.prev v la
  let fa := falls t.prev v la
  let rb := rises t.prev v lb
  let fb := falls t.prev v lb
  let t1 := { t with prev := some v }
  match getF x.trig ACQ_TRIG_TYPE with
  | 1 =>
    let opens := if pol then fa else ra
    let closes := if pol then ra else fa
    if closes then
      ((match t.first with
        | some n => x.inRange (i - n)
        | none => false), { t1 with first := none })
    else (false, if opens then { t1 with first := some i } else t1)
  | 2 =>
    if la ≤ lb then (false, t1)
    else
      let opens := if pol then fa else rb
      let closes := if pol then ra else fb
      let spoils := if pol then fb else ra
      if closes then (t.first.isSome && !t.spoilt, { t1 with first := none, spoilt := false })
      else if opens then (false, { t1 with first := some i, spoilt := spoils })
      else (false, { t1 with spoilt := t.spoilt || spoils })
  | 3 =>
    let hit := if pol then decide (v < la) else decide (la ≤ v)
    let n := if hit then t.count + 1 else 0
    (decide (n = max 1 x.tmin.toNat), { t1 with count := n })
  | 4 =>
    if la ≤ lb then (false, t1)
    else
      let opens := if pol then fa else rb
      let closes := if pol then fb else ra
      let spoils := if pol then ra else fb
      let first := if spoils then none else if opens then some i else t.first
      if closes then
        ((match first with
          | some n => x.inRange (i - n)
          | none => false), { t1 with first := none })
      else (false, { t1 with first := first })
  | _ => (if pol then fa else ra, t1)

/-- The samples, counted from A, at which triggers complete. -/
def AcqCfg.triggers (x : AcqCfg) (t : TrigState) : Nat → List Byte → List Nat
  | _, [] => []
  | i, v :: vs =>
    let r := x.trigStep t i v.toNat
    if r.1 then i :: x.triggers r.2 (i + 1) vs else x.triggers r.2 (i + 1) vs

/-! Lines (R276, R278). -/

/-- A line of 64 bytes: the header word and its content (Table 9-2). -/
def acqLine (type ring seq n : Nat) (body : List Byte) : List Byte :=
  leBytes 4 (type * 2 ^ 28 + ring * 2 ^ 26 + seq % 2 ^ 16 * 2 ^ 8 + n) ++ (body ++ List.replicate 60 0).take 60

/-- The HEAD line's content (Table 9-3). -/
def State.headBody (s : State) (d n : Nat) (forced : Bool) (x : AcqCfg) : List Byte :=
  leBytes 8 (n % 2 ^ 64) ++
  leBytes 1 (getF x.ctrl ACQ_CTRL_PHASE + (if 2 ^ 64 ≤ n then 64 else 0) + (if forced then 128 else 0)) ++
  leBytes 1 d ++
  leBytes 2 (16 * digCl d + getF x.ctrl ACQ_CTRL_SRC_UNIT + s.pkgId * 2 ^ 12) ++
  leBytes 4 (getF x.pre ACQ_PRE_PRE) ++ leBytes 4 x.post.toNat ++
  leBytes 1 (getF x.trig ACQ_TRIG_TYPE) ++ leBytes 1 x.decim ++ leBytes 1 (getF x.block ACQ_BLOCK_MM_B) ++
  leBytes 1 (getF x.block ACQ_BLOCK_MEAN_B) ++ leBytes 4 (s.dig d).rangeForce.toNat

/-- The SEQ of the record in progress. -/
def State.recordSeq (s : State) (d : Nat) : Nat := (s.fld (acqStat d) ACQ_STAT_SEQ + 2 ^ 16 - 1) % 2 ^ 16

/-- A ring raises a request on the line of the ring that its setting in force names when its staging holds enough lines (R277);
`endLine` raises it always. -/
def State.acqRequest (s : State) (d ring : Nat) (endLine : Bool) : State :=
  let r := (s.dig d).ringOf ring
  if r.ringBad.isNone && (endLine || decide (stagingLevel ring ≤ r.staged.length)) then
    (s.updAcqRing d ring (fun r => { r with asked := r.dest :: r.asked.filter (· != r.dest) })).sourceRequest r.dest
  else s

/-- Lines enter the staging of a ring. -/
def State.stageLines (s : State) (d ring : Nat) (lines : List (List Byte)) : State :=
  s.updAcqRing d ring (fun r => { r with staged := r.staged ++ lines })

/-- The pending gap as a GAP line, if any (R278). -/
def State.gapLines (s : State) (d ring : Nat) : List (List Byte) :=
  let r := (s.dig d).ringOf ring
  if r.gap = 0 then []
  else [acqLine 3 ring (s.recordSeq d) 0 (leBytes 5 r.gap ++ leBytes 1 (if r.gapSat then 1 else 0))]

/-- A completed line of n units is staged with any pending gap before it, or dropped into the gap (R278). -/
def State.stageData (s : State) (d ring n : Nat) (body : List Byte) : State :=
  let r := (s.dig d).ringOf ring
  let g := s.gapLines d ring
  if r.staged.length + g.length + 1 + 3 ≤ stagingCap ring then
    let t := s.stageLines d ring (g ++ [acqLine 2 ring (s.recordSeq d) n body])
    let t := t.updAcqRing d ring (fun r => { r with kept := r.kept + n, gap := 0, gapSat := false })
    t.acqRequest d ring false
  else
    let t := s.updAcqRing d ring (fun r => { r with
      dropped := r.dropped + n, gap := min (r.gap + n) (2 ^ 40 - 1), gapSat := r.gapSat || decide (2 ^ 40 - 1 < r.gap + n) })
    t.setBit (acqStat d) ACQ_STAT_GAP true

/-! Arming (R263, R264, R268). -/

/-- A held ACQ_RANGE write takes effect once its boundary has come (R268). -/
def State.settleRange (s : State) (d g : Nat) : State :=
  match (s.dig d).rangeDue with
  | some b =>
    if b ≤ g then
      (s.updDig d (fun x => { x with rangeForce := x.rangeHold.getD x.rangeForce, rangeHold := none, rangeDue := none })).setBit
        (acqStat d) ACQ_STAT_RANGE_HELD false
    else s
  | none => s

/-- A ring of the settings is checked as an arm brings it into force (R360). -/
def State.checkAcqRing (s : State) (d : Nat) (x : AcqCfg) (ring : Nat) : State :=
  let k := s.checkRing (digCl d / 8) (x.ringId ring) ((s.dig d).ringOf ring).ringBad
  k.2.updAcqRing d ring (fun r => { r with ringBad := k.1, dest := x.ringId ring })

/-- The digitiser is armed at grain a: the settings come into force, and from here on a write of ACQ_RANGE that is held already
stays held to the end of the record (R268). -/
def State.armNow (s : State) (d a : Nat) : State :=
  let x := s.acqSnapshot d
  let t := (s.updDig d (fun y => { y with phase := .armed a, cfg := some x, samples := [], rangeDue := none })).setBit
    (acqStat d) ACQ_STAT_ARMED true
  [0, 1, 2].foldl (fun t r => t.checkAcqRing d x r) t

/-- A re-armed digitiser whose arm grain is boundary b takes its settings there, with the held ACQ_RANGE write in force
(R267, R268). -/
def State.armDue (s : State) (d b : Nat) : State :=
  let t := s.settleRange d b
  match (t.dig d).phase, (t.dig d).cfg with
  | .armed a, none => if a ≤ b then t.armNow d a else t
  | _, _ => t

/-- An arm at grain a: ignored when the digitiser is busy or the cluster has no CAPTURE; two arms of one grain count as one
(R263, R264). -/
def State.armDig (s : State) (d a : Nat) : State :=
  let t := s.settleRange d a
  match (t.dig d).phase with
  | .armed b => if a = b then t else t.setBit (acqStat d) ACQ_STAT_ARM_IGNORED true
  | .acquiring _ _ _ => t.setBit (acqStat d) ACQ_STAT_ARM_IGNORED true
  | .idle => if t.hasMode (digCl d) 2 then t.armNow d a else t.setBit (acqStat d) ACQ_STAT_ARM_IGNORED true

/-- ACQ_ARM: a partner's arm at boundary b (R263, R264). -/
def execAcqArm (port : PortNo) (d : DigNo) (b : Nat) (s : State) : Host.Outcome State Fault Refusal :=
  ok (s.reach port.val (ACQ_CTRL (digCl d.val) (d.val % 2)) (fun s => (s.atCluster (digCl d.val) b).armDig d.val b))

/-! Records. -/

/-- The digitiser leaves its record or disarms after grain g; a held ACQ_RANGE write is due at the first boundary after. -/
def State.digIdle (s : State) (d g : Nat) : State :=
  let t := s.updDig d (fun x => { x with
    phase := .idle, rangeDue := if x.rangeHold.isSome then some (boundaryAfter g) else none })
  (t.setBit (acqStat d) ACQ_STAT_ARMED false).setBit (acqStat d) ACQ_STAT_ACQUIRING false

/-- One ring's record begins with its HEAD line (R272, R276). -/
def State.beginRing (s : State) (d n : Nat) (forced : Bool) (x : AcqCfg) (seq ring : Nat) : State :=
  if x.enabled ring then
    let t := s.updAcqRing d ring (fun r => { r with
      gap := 0, gapSat := false, kept := 0, dropped := 0, lastBlock := 0, ovf := false })
    (t.stageLines d ring [acqLine 1 ring seq 0 (s.headBody d n forced x)]).acqRequest d ring false
  else s

/-- A record begins with trigger sample n (R265, R266, R271). -/
def State.beginRecord (s : State) (d a n : Nat) (forced : Bool) (x : AcqCfg) : State :=
  let t := s.settleRange d n
  let seq := t.fld (acqStat d) ACQ_STAT_SEQ
  let t := [0, 1, 2].foldl (fun t r => t.beginRing d n forced x seq r) t
  let t := t.setFld (acqStat d) ACQ_STAT_SEQ (seq + 1)
  let t := (t.setBit (acqStat d) ACQ_STAT_ARMED false).setBit (acqStat d) ACQ_STAT_ACQUIRING true
  let t := if forced then t.setBit (acqStat d) ACQ_STAT_FORCED true else t
  t.updDig d (fun y => { y with
    phase := .acquiring a n forced, ovfEvent := false,
    flagDue := if getB x.ctrl 27 then
        y.flagDue ++ [(digCl d * 8 + getF x.ctrl ACQ_CTRL_FLAG, boundaryAt (n + 128))] else y.flagDue })

/-- The forced trigger sample of auto mode (R266). -/
def AcqCfg.autoSample (x : AcqCfg) (a : Nat) : Nat := a + x.preN + x.auto.toNat

/-- The samples of a digitiser, counted from A, at which a trigger starts a record (R265). -/
def AcqCfg.hits (x : AcqCfg) (samples : List Byte) : List Nat :=
  (x.triggers {} 0 samples).filter (fun i => decide (x.preN ≤ i))

/-- The full scale of an ACQ_RANGE in mV (Table 9-4). -/
def rangeFs (w : Word) : Int := 500 * 2 ^ getF w ACQ_RANGE_FS

/-- The code of an input of `uv` µV: code c stands for CENTER + (c − 128) × FS / 256 mV, an input outside the range gives 0 or 255
(R261). Between the voltages of two codes the spec does not say which one it gives: `up` chooses. -/
def acqCode (range : Word) (up : Bool) (uv : Int) : Byte :=
  let fs := rangeFs range * 1000
  let v := (uv - sx 16 (getF range ACQ_RANGE_CENTER) * 1000) * 256
  BitVec.ofNat 8 (max 0 (min 255 (v / fs + 128 + (if v % fs ≠ 0 ∧ up = true then 1 else 0)))).toNat

/-- The codes of inputs in µV; f numbers the free value of the first (R261, log entry 54). -/
def acqCodes (range : Word) : Nat → List Int → List Byte
  | _, [] => []
  | f, v :: vs => acqCode range (Config.freeBool f) v :: acqCodes range (f + 1) vs

/-- A digitiser takes the samples that follow those it has: inputs in µV (R260, R261). -/
def State.feed (s : State) (d : Nat) (input : List Int) : State :=
  let t := s.updDig d (fun x => { x with samples := x.samples ++ acqCodes x.rangeForce s.free input })
  { t with free := t.free + input.length }

/-- A digitiser has taken n samples from A on: the inputs that no command gave are free values (log entry 54). -/
def State.feedTo (s : State) (d n : Nat) : State :=
  let k := n - (s.dig d).samples.length
  let t := s.updDig d (fun x => { x with samples := x.samples ++ freeBytes s.free k })
  { t with free := t.free + k }

/-- TRIGGER: the condition completes at sample n, the first such at or after A + PRE; `input` are the inputs in µV of the samples up
to n that the digitiser has not taken yet (R265, R269, R270). -/
def execTrigger (d : DigNo) (n : Nat) (input : List Int) (s : State) : Host.Outcome State Fault Refusal :=
  match (s.dig d.val).phase, (s.dig d.val).cfg with
  | .armed a, some x =>
    let t := (s.at n).feed d.val input
    let l := (t.dig d.val).samples
    if a ≤ n ∧ l.length = n - a + 1 ∧ (x.hits l).head? = some (n - a) ∧ (getB x.ctrl 28 = true → n ≤ x.autoSample a) then
      ok (t.beginRecord d.val a n false x)
    else ok s
  | _, _ => ok s

/-- AUTO_TIMEOUT: in auto mode a record is forced at A + PRE + AUTO_TIMEOUT when no trigger has occurred up to that sample; `input`
are the inputs of the samples not taken yet (R266). -/
def execAutoTimeout (d : DigNo) (input : List Int) (s : State) : Host.Outcome State Fault Refusal :=
  match (s.dig d.val).phase, (s.dig d.val).cfg with
  | .armed a, some x =>
    let n := x.autoSample a
    let t := (s.at n).feed d.val input
    let l := (t.dig d.val).samples
    if getB x.ctrl 28 = true ∧ l.length = n - a + 1 ∧ x.hits l = [] then ok (t.beginRecord d.val a n true x) else ok s
  | _, _ => ok s

/-- TRIGGER_FLAG_SET: at boundary b every trigger whose flag is due there sets its cluster flag (R271). -/
def execTriggerFlagSet (d : DigNo) (b : Nat) (s : State) : Host.Outcome State Fault Refusal :=
  let due := (s.dig d.val).flagDue.filter (fun x => x.2 == b)
  if due = [] then ok s
  else
    let t := (s.at b).updDig d.val (fun y => { y with flagDue := y.flagDue.filter (fun z => z.2 != b) })
    ok (due.foldl (fun t x => t.flagSetAt x.1 b (srcDig d.val)) t)

/-! Units and blocks (R273-R275, R280). -/

/-- The 16 bits of a mean block of `m` samples with an exact sum, and whether its accumulator saturated (R275). -/
def meanEntry (b sum m : Nat) : Nat × Bool :=
  if 2 ^ 36 - 1 < sum then (0xFF + 2 ^ 8, true)
  else if m = 2 ^ b then ((sum + 2 ^ (b - 1)) / 2 ^ b, false)
  else ((2 * sum + m) / (2 * m), false)

/-- The units that the first `total` samples of a record have in a ring: samples whose offset from the trigger sample is a multiple
of 2^d, or blocks (R273, R274). -/
def AcqCfg.unitsOf (x : AcqCfg) (ring total : Nat) : Nat :=
  if ring = 0 then (total - x.preN % 2 ^ x.decim + 2 ^ x.decim - 1) / 2 ^ x.decim
  else (total + 2 ^ x.blockB ring - 1) / 2 ^ x.blockB ring

/-- The record's sample, by number, that raw unit j is (R273, R280). -/
def AcqCfg.rawIndex (x : AcqCfg) (j : Nat) : Nat := x.preN % 2 ^ x.decim + 2 ^ x.decim * j

/-- The samples of block j of a record whose samples are `l` (R274). -/
def AcqCfg.blockOf (x : AcqCfg) (ring j : Nat) (l : List Byte) : List Byte :=
  (l.drop (2 ^ x.blockB ring * j)).take (2 ^ x.blockB ring)

/-- The number of samples by which unit j of a record of `total` samples is complete. -/
def AcqCfg.unitEnd (x : AcqCfg) (ring total j : Nat) : Nat :=
  if ring = 0 then x.rawIndex j + 1 else min total (2 ^ x.blockB ring * (j + 1))

/-- The entry of mean block j. -/
def AcqCfg.meanOf (x : AcqCfg) (j : Nat) (l : List Byte) : Nat × Bool :=
  let k := x.blockOf 2 j l
  meanEntry (x.blockB 2) (k.foldl (fun m v => m + v.toNat) 0) k.length

/-- The bytes of unit j in a DATA line (Table 9-3). -/
def AcqCfg.unitBytes (x : AcqCfg) (ring j : Nat) (l : List Byte) : List Byte :=
  match ring with
  | 0 => [l.getD (x.rawIndex j) 0]
  | 1 =>
    let k := (x.blockOf 1 j l).map (·.toNat)
    [BitVec.ofNat 8 (k.foldl min 255), BitVec.ofNat 8 (k.foldl max 0)]
  | _ => leBytes 2 (x.meanOf j l).1

/-- The units that a DATA line holds at most (Table 9-2). -/
def lineCap (ring : Nat) : Nat := if ring = 0 then 60 else 30

/-- The OVF marks of mean blocks j to j + k - 1: sticky bit, END mark and the record's one event with the GT of the first such
block's first sample (R275). -/
def State.meanOvf (s : State) (d n : Nat) (x : AcqCfg) (j k : Nat) (l : List Byte) : State :=
  match (List.range k).find? (fun i => (x.meanOf (j + i) l).2) with
  | none => s
  | some i =>
    let t := (s.setBit (acqStat d) ACQ_STAT_OVF true).updAcqRing d 2 (fun r => { r with ovf := true })
    if (t.dig d).ovfEvent then t
    else (t.updDig d (fun y => { y with ovfEvent := true })).event codeOvf 3 d 0 (n - x.preN + 2 ^ x.blockB 2 * (j + i))

/-- The samples of the record that began with trigger sample n after an arm at a. -/
def DigSt.record (y : DigSt) (x : AcqCfg) (a n : Nat) : List Byte := y.samples.drop (n - x.preN - a)

/-- The next DATA line of a ring, of at most the units that stand below `units`, is staged or dropped (R276, R278). -/
def State.nextLine (s : State) (d n : Nat) (x : AcqCfg) (ring units : Nat) (l : List Byte) : State :=
  let r := (s.dig d).ringOf ring
  let j := r.kept + r.dropped
  let k := min (lineCap ring) (units - j)
  if k = 0 then s
  else
    let t := if ring = 2 then s.meanOvf d n x j k l else s
    t.stageData d ring k ((List.range k).flatMap (fun i => x.unitBytes ring (j + i) l))

/-- The DATA lines of a ring that are still to come. -/
def State.restLines (d n : Nat) (x : AcqCfg) (ring units : Nat) (l : List Byte) : Nat → State → State
  | 0, s => s
  | k + 1, s => State.restLines d n x ring units l k (s.nextLine d n x ring units l)

/-- The number of samples of the record in its last block (R274); 0 in the raw ring (Table 9-3). -/
def AcqCfg.lastBlockOf (x : AcqCfg) (ring total : Nat) : Nat :=
  if ring = 0 then 0
  else if total % 2 ^ x.blockB ring = 0 then 2 ^ x.blockB ring else total % 2 ^ x.blockB ring

/-- One ring's record of `total` samples ends: its last DATA lines, the pending gap, then END (R276, R278, R279). -/
def State.endRing (s : State) (d n : Nat) (x : AcqCfg) (l : List Byte) (aborted : Bool) (ring : Nat) : State :=
  if x.enabled ring then
    let u := x.unitsOf ring l.length
    let r := (s.dig d).ringOf ring
    let s := State.restLines d n x ring u l ((u - r.kept - r.dropped) / lineCap ring + 1) s
    let r := (s.dig d).ringOf ring
    let body := leBytes 8 r.kept ++ leBytes 8 r.dropped ++ leBytes 4 (x.lastBlockOf ring l.length) ++
      leBytes 1 ((if r.ovf then 1 else 0) + (if aborted then 2 else 0))
    let t := s.stageLines d ring (s.gapLines d ring ++ [acqLine 4 ring (s.recordSeq d) 0 body])
    (t.updAcqRing d ring (fun r => { r with gap := 0, gapSat := false })).acqRequest d ring true
  else s

/-- A record with arm grain a and trigger sample n ends with sample m: the lines that it still lacks and its END lines. -/
def State.endRecord (s : State) (d a n m : Nat) (x : AcqCfg) (aborted : Bool) : State :=
  let t := s.feedTo d (m + 1 - a)
  let l := ((t.dig d).samples.take (m + 1 - a)).drop (n - x.preN - a)
  [0, 1, 2].foldl (fun t r => t.endRing d n x l aborted r) t

/-- A digitiser with REARM re-arms after the record's last sample n, with a held ACQ_RANGE write at the boundary at which that takes
effect (R267). -/
def State.rearm (s : State) (d n : Nat) : State :=
  if (s.dig d).rangeDue.isSome then
    (s.updDig d (fun y => { y with phase := .armed (boundaryAfter n), cfg := none })).setBit (acqStat d) ACQ_STAT_ARMED true
  else s.armNow d (n + 1)

/-- RECORD_LAST_SAMPLE: the record's last sample n passes; its last lines and END lines are staged, and the digitiser is idle or
re-arms (R267). `input` are the inputs of the samples not taken yet. -/
def execRecordLastSample (d : DigNo) (n : Nat) (input : List Int) (s : State) : Host.Outcome State Fault Refusal :=
  match (s.dig d.val).phase, (s.dig d.val).cfg with
  | .acquiring a m _, some x =>
    if n = m + x.postN - 1 then
      let t := (((s.at n).feed d.val input).endRecord d.val a m n x false).digIdle d.val n
      ok (if getB x.ctrl 29 then t.rearm d.val n else t)
    else ok s
  | _, _ => ok s

/-- An abort at boundary b: a record ends with sample b - 1, an armed digitiser disarms (R267). -/
def State.abortDig (s : State) (d b : Nat) : State :=
  match (s.dig d).phase, (s.dig d).cfg with
  | .acquiring a n _, some x =>
    ((s.endRecord d a n (b - 1) x true).digIdle d (b - 1)).setBit (acqStat d) ACQ_STAT_ABORTED true
  | .armed _, _ => s.digIdle d b
  | _, _ => s

/-- ACQ_ABORT (R267). -/
def execAcqAbort (port : PortNo) (d : DigNo) (b : Nat) (s : State) : Host.Outcome State Fault Refusal :=
  ok (s.reach port.val (ACQ_CTRL (digCl d.val) (d.val % 2)) (fun s => (s.atCluster (digCl d.val) b).abortDig d.val b))

/-- A written ACQ_RANGE value reaches boundary b: it is in force there in an idle digitiser, else held (R268). -/
def State.acqRangeDue (s : State) (d : Nat) (w : Word) (b : Nat) : State :=
  let t := s.settleRange d b
  if (t.dig d).phase = .idle ∧ (t.dig d).rangeDue = none then t.updDig d (fun x => { x with rangeForce := w })
  else (t.updDig d (fun x => { x with rangeHold := some w })).setBit (acqStat d) ACQ_STAT_RANGE_HELD true

/-- A write of ACQ_RANGE that reaches boundary b: stored at once, in force or held from there on (R268). -/
def State.acqRange (s : State) (d : Nat) (value : Word) (b : Nat) : State :=
  let t := (s.atCluster (digCl d) b).partnerWrite (ACQ_RANGE (digCl d) (d % 2)) value 15
  t.acqRangeDue d (t.reg (ACQ_RANGE (digCl d) (d % 2))) b

/-- ACQ_RANGE_WRITE: a partner's write of ACQ_RANGE that reaches boundary b (R268). -/
def execAcqRangeWrite (port : PortNo) (d : DigNo) (value : Word) (b : Nat) (s : State) :
    Host.Outcome State Fault Refusal :=
  ok (s.reach port.val (ACQ_RANGE (digCl d.val) (d.val % 2)) (fun s => s.acqRange d.val value b))

/-- ACQ_LINE_STAGE: the next DATA line of a ring of the record in progress is complete and is staged or dropped (R273-R276, R278).
`input` are the inputs in µV of the samples not taken yet. -/
def execAcqLineStage (d : DigNo) (ring : Fin 3) (input : List Int) (s : State) : Host.Outcome State Fault Refusal :=
  match (s.dig d.val).phase, (s.dig d.val).cfg with
  | .acquiring a n _, some x =>
    let t := s.feed d.val input
    let l := (t.dig d.val).record x a n
    let total := x.preN + x.postN
    let r := (s.dig d.val).ringOf ring.val
    let j := r.kept + r.dropped
    let k := min (lineCap ring.val) (x.unitsOf ring.val total - j)
    if x.enabled ring.val = true ∧ 0 < k ∧ x.unitEnd ring.val total (j + k - 1) ≤ l.length ∧ l.length ≤ total then
      ok (t.nextLine d.val n x ring.val (j + k) l)
    else ok s
  | _, _ => ok s

end Sys2Proof.Machine
end

