-- ==== Sys2Proof/Machine/Marquetry.lean ====
section
/-! DEFINITION. Marquetry: the segment store, the sequence table, players and Delta-4 (R140-R157). -/

namespace Sys2Proof.Machine

/-- A word of a sequence table entry as a player takes it for a play that begins at grain g: of a word that has been written while the
player could reach it, an old or the new value, freely (R152). -/
def State.segWord (s : State) (y : Option Player) (a g : Nat) : Word × State :=
  let r := s.wordAt a g
  match (y.map (fun z => (z.oldWords.filter (fun o => o.1 == a)).map (·.2))).getD [] with
  | [] => r
  | l => ((r.1 :: l).getD (Config.freeNat r.2.free % (l.length + 1)) r.1, r.2.useFree)

/-- A sequence table entry as a player takes it for a play that begins at grain g (R152). -/
def State.segAt (s : State) (c n : Nat) (y : Option Player) (g : Nat) : SegEntry × State :=
  let a := s.segWord y (SEG_SST_W0 c n) g
  let b := a.2.segWord y (SEG_SST_W1 c n) g
  let d := b.2.segWord y (SEG_SST_W2 c n) g
  let e := d.2.segWord y (SEG_SST_W3 c n) g
  (⟨a.1, b.1, d.1, e.1⟩, e.2)

/-- An entry is invalid: VALID 0, LENGTH below 16, past the store's end, or a poisoned line (R151, R339). -/
def State.segBad (s : State) (c : Nat) (x : SegEntry) : Bool :=
  !x.valid || decide (x.len < 16) || decide (0x100000 < x.start + x.bytes) || s.anyPoison (segAddr c x.start) x.bytes

/-- A byte each of whose bits is that of `b` or of one of its old values, freely. -/
def mixByte (f a : Nat) (b : Byte) : List Byte → Byte
  | [] => b
  | o :: l =>
    let m : Byte := BitVec.ofNat 8 (Config.freeAt (f + l.length) a)
    (mixByte f a b l &&& m) ||| (o &&& ~~~m)
/-- A byte of the segment store with the old values that a player may still play: once it has been written in mid-play its bits are a
free mixture of the old and the new ones (R152). -/
def State.segByte (s : State) (old : List (Nat × Byte)) (a : Nat) : Byte :=
  mixByte s.free a (s.byteAt a) ((old.filter (fun o => o.1 == a)).map (·.2))

/-- Raw sample i of a segment (R146). -/
def State.rawSample (s : State) (c : Nat) (old : List (Nat × Byte)) (x : SegEntry) (i : Nat) : Nat :=
  let a := segAddr c (x.start + 3 * (i / 4))
  slice (ofLe [s.segByte old a, s.segByte old (a + 1), s.segByte old (a + 2)]) (6 * (i % 4)) 6

/-- The delta of sample i: 4-bit two's complement, 0b1000 as 0 (R147). -/
def State.deltaOf (s : State) (c : Nat) (old : List (Nat × Byte)) (x : SegEntry) (i : Nat) : Int :=
  let n := slice (s.segByte old (segAddr c (x.start + i / 2))).toNat (4 * (i % 2)) 4
  if n = 8 then 0 else sx 4 n

/-- Delta-4 sample i (R147). -/
def State.deltaSample (s : State) (c : Nat) (old : List (Nat × Byte)) (x : SegEntry) : Nat → Nat
  | 0 => x.anchor
  | i + 1 => (max 0 (min 63 ((s.deltaSample c old x i : Int) + s.deltaOf c old x (i + 1)))).toNat

/-- Sample i of a segment (R146, R147), with the bytes that may be old ones. -/
def State.sample (s : State) (c : Nat) (old : List (Nat × Byte)) (x : SegEntry) (i : Nat) : Nat :=
  if x.delta then s.deltaSample c old x i else s.rawSample c old x i

/-- The DAC code a player plays at grain g (R149, R151, R152). -/
def State.playerCode (s : State) (p g : Nat) : Nat :=
  match (s.pin p).player with
  | none => (s.pin p).level
  | some y =>
    match y.held with
    | some k => k
    | none => if g < y.playStart then y.last else s.sample (pinCl p) y.oldBytes y.words (g - y.playStart)

/-- What a pin presents at its contact at grain g: the sample in play, or the driver's state. -/
def State.contactNow (s : State) (p g : Nat) : Contact := s.contactAs p g (s.pin p).on (s.playerCode p g)

/-- The contact of a pin is reported when it is another at kerf 0 of grain g than it was before that in the state `old`. -/
def State.showContact (s : State) (old : State) (p g : Nat) : State :=
  if s.contactNow p g = old.contactNow p (g - 1) then s else s.send (.contact p (64 * g) (s.contactNow p g))

/-- The first byte and the number of bytes of granule k of a segment (R145). -/
def SegEntry.granule (c : Nat) (x : SegEntry) (k : Nat) : Nat × Nat :=
  let n := if x.delta then 32 else 48
  (segAddr c (x.start + n * k), n)

/-- The player holds a sample until the handover ends, because its entry is invalid (R151). -/
def State.holdInvalid (s : State) (p k : Nat) (y : Player) : State :=
  (s.orBit (SEG_STAT (pinCl p)) SEG_STAT_INVALID (pinUnit p)).updPin p (fun x => { x with
    player := some { y with last := k, plays := 0, held := some k, chosen := none, trig := false } })

/-- The player begins a play of an entry at grain g, whose first granule is read, or holds the last sample when the entry is invalid
(R151). `last` is the sample played before, 0 with none; what the play replaces is kept in case the handover ends at g, which then has
not reached it (R142). -/
def State.playEntry (s : State) (p n g plays last : Nat) (trig : Bool) (finds : Finds) : State :=
  let c := pinCl p
  let u := pinUnit p
  let y := (s.pin p).player
  let x := s.segAt c n y g
  let t := x.2.setFld (SEG_PIN c u) SEG_PIN_CUR_ENTRY n
  let gr := x.1.granule c 0
  let t := if x.2.segBad c x.1 then t else t.meet gr.1 gr.2 finds 1
  let z : Player := {
    entry := n, words := x.1, playStart := g, last := last, plays := plays, trig := trig
    undo := some (g, s.fld (SEG_PIN c u) SEG_PIN_CUR_ENTRY, s.fbit (SEG_STAT c) SEG_STAT_INVALID u)
    oldWords := (y.map (·.oldWords)).getD [], oldBytes := (y.map (·.oldBytes)).getD [] }
  if t.segBad c x.1 then t.holdInvalid p last z else t.updPin p (fun w => { w with player := some z })

/-- A player begins a granule of its play at boundary g: its lines are read, and a poisoned one makes the entry invalid from there on
(R339, log entry 142). -/
def State.playGranule (s : State) (p g : Nat) (y : Player) (finds : Finds) : State :=
  let gr := y.words.granule (pinCl p) ((g - y.playStart) / 64)
  let t := s.meet gr.1 gr.2 finds 1
  if t.anyPoison gr.1 gr.2 then t.holdInvalid p (s.playerCode p (g - 1)) y else t

/-- A player at grain g: within a play a new granule begins at a boundary, and the choice already sampled takes effect when the play
ends (R149, R150). -/
def State.settlePlayer (s : State) (p g : Nat) (finds : Finds) : State :=
  match (s.pin p).player with
  | none => s
  | some y =>
    let fin := y.playStart + 64 * y.words.len
    if y.held.isSome ∨ g ≤ y.playStart then s
    else if g < fin then (if g % 64 = 0 then s.playGranule p g y finds else s)
    else
      match y.chosen with
      | none => s
      | some .hold => s.updPin p (fun z => { z with player := some { y with
          held := some (s.playerCode p (fin - 1)), chosen := none } })
      | some (.play n k) => s.playEntry p n fin k (s.playerCode p (fin - 1)) (k != 0 && y.trig) finds

/-- A play that began at the grain at which the handover ends was not reached: CUR_ENTRY and INVALID are as before (R142, R151). -/
def State.undoPlay (s : State) (p g : Nat) (y : Player) : State :=
  match y.undo with
  | some (b, n, bad) =>
    if b = g then
      let a := SEG_STAT (pinCl p)
      let t := s.setFld (SEG_PIN (pinCl p) (pinUnit p)) SEG_PIN_CUR_ENTRY n
      if bad then t
      else t.setFld a SEG_STAT_INVALID (setNBit (t.fld a SEG_STAT_INVALID) (pinUnit p) false)
    else s
  | none => s

/-- The state in which a player that stops at grain g leaves the driver: on with the last sample (R142); that which the idle code left
when the player idles (R143); or that which it had before the player took it at g. -/
def PinSt.afterPlay (x : PinSt) (g k : Nat) : PinSt :=
  match x.idleLeft.filter (fun l => l.1 == g) with
  | some l => { x with player := none, on := l.2.1, level := l.2.2 }
  | none => if x.idle.isSome then { x with player := none } else { x with player := none, on := true, level := k }

/-- The handover of a pin ends at grain g: its player stops after the grain before it (R142). SEG_PIN keeps the number of the last entry
played (log entry 41). -/
def State.stopPlayer (s : State) (p g : Nat) : State :=
  let t := s.setBit (SEG_PIN (pinCl p) (pinUnit p)) SEG_PIN_PLAYING false
  match (s.pin p).player with
  | none => t
  | some y =>
    let t := (t.undoPlay p g y).updPin p (fun x => x.afterPlay g (s.playerCode p (g - 1)))
    let t := t.updPin p (fun x => { x with idleLeft := none })
    t.send (.contact p (64 * g) (t.contactNow p g))

/-- SOURCE leaves force at boundary b: the player stops, and a WAVE cycle in progress plays as DZ from b (Table 15-1, R140). -/
def State.endWave (s : State) (p b : Nat) : State :=
  let t := s.stopPlayer p b
  match (t.pin p).cyc with
  | some x =>
    if x.code ≠ 12 then t
    else if x.missing then t.updPin p (fun y => { y with cyc := some { x with code := 3 } })
    else (t.orBit (FMT_STAT (pinCl p)) FMT_STAT_NOSOURCE (pinUnit p)).updPin p (fun y => { y with
      cyc := some { x with code := 2, dzFrom := some b } })
  | none => t

/-- Whether the advance condition of an entry is met (R150). -/
def State.advMet (s : State) (p : Nat) (adv : Nat) : Bool :=
  if 1 ≤ adv ∧ adv ≤ 8 then s.flag (pinCl p * 8 + (adv - 1))
  else if adv = 9 then (match (s.pin p).player with
    | some y => y.trig
    | none => false)
  else false

/-- ADV_COND_SAMPLE: at the first grain of the last granule of a play the player chooses what follows (R149, R150); a condition
sampled in a missing tenon reads as not met (R143). -/
def execAdvCondSample (p : PinNo) (g : Nat) (s : State) : Host.Outcome State Fault Refusal :=
  let s1 := s.settlePlayer p.val g []
  match (s1.pin p.val).player with
  | some y =>
    let x := y.words
    if y.held = none ∧ y.chosen = none ∧ g = y.playStart + 64 * (x.len - 1) then
      let t := s1.at g
      let met := t.advMet p.val x.adv && !t.missingAt (pinCl p.val) g
      let ch : SegNext := if met then .play x.alt 0
        else if x.forever ∨ y.plays < x.repeats then .play y.entry (y.plays + 1)
        else if x.isEnd then .hold
        else .play x.nextEntry 0
      ok (t.updPin p.val (fun z => { z with player := some { y with
        chosen := some ch, trig := y.trig && !(met && x.adv == 9) } }))
    else ok s
  | none => ok s

/-! Delta-4 (R153-R157). -/

/-- The encoder of R155 over the raw samples after the first: y of the last sample, then for each sample its delta and whether
it saturated. -/
def encodeDeltas : Nat → List Nat → List (Int × Bool)
  | _, [] => []
  | y, x :: xs =>
    let d : Int := (x : Int) - y
    let q := min (max d (-7)) 7
    (q, d != q) :: encodeDeltas ((y : Int) + q).toNat xs

/-- Bytes from 4-bit values, low nibble first. -/
def packNibbles : List Nat → List Byte
  | a :: b :: t => BitVec.ofNat 8 (a + 16 * b) :: packNibbles t
  | [a] => [BitVec.ofNat 8 a]
  | [] => []

/-- Bytes from bits, bit 0 first, for a list whose length is a multiple of 8. -/
def packBits : Nat → List Bool → List Byte
  | 0, _ => []
  | n + 1, l => BitVec.ofNat 8 ((l.take 8).foldr (fun b m => 2 * m + (if b then 1 else 0)) 0) :: packBits n (l.drop 8)

/-- The free values that a conversion uses when its entry or segment has been written in mid-conversion, or a line of it turned out
poisoned (R157, log entry 142): any bytes where the raw segment stood, any SAT_COUNT and any ANCHOR. -/
def State.spoiledDelta4 (s : State) (c n : Nat) (x : SegEntry) : Nat × State :=
  let t := s.storeAll (segAddr c x.start) (freeBytes s.free (48 * x.len))
  let t := { t with free := t.free + 48 * x.len }
  let w := setF (setF (s.segStored c n).w0 SEG_SST_W0_CODING 1) SEG_SST_W0_ANCHOR (Config.freeNat t.free)
  (Config.freeNat (t.free + 1), (t.useFree.useFree).setBoth (SEG_SST_W0 c n) w)

/-- An entry with the words x is converted in place: data, saturation map, free rest, CODING, ANCHOR (R155, R156). The answer
carries the number of saturated samples. -/
def State.toDelta4 (s : State) (c n : Nat) (x : SegEntry) : Nat × State :=
  let raw := (List.range (64 * x.len)).map (s.rawSample c [] x)
  let y0 := raw.headD 0
  let enc := encodeDeltas y0 (raw.drop 1)
  let data := packNibbles (0 :: enc.map (fun q => ux 4 q.1))
  let map := packBits (8 * x.len) (false :: enc.map (·.2))
  let t := s.storeAll (segAddr c x.start) (data ++ map ++ freeBytes s.free (8 * x.len))
  let t := { t with free := t.free + 8 * x.len }
  let w := setF (setF x.w0 SEG_SST_W0_CODING 1) SEG_SST_W0_ANCHOR y0
  ((enc.filter (·.2)).length, t.setBoth (SEG_SST_W0 c n) w)

/-- A conversion ends: its result, free when the entry or the segment was written during it (R156, R157). Poisoned lines of the raw
segment stay poisoned: what they held is not passed off as valid (R336). A write of word 0 that is still under way has been converted
with the entry. -/
def State.delta4Result (s : State) (c : Nat) (d : Delta4) : Nat × State :=
  let a := segAddr c d.words.start
  let bad := (linesOf a (48 * d.words.len)).filter (fun k => s.poisoned (64 * k))
  let r := if d.spoiled || !bad.isEmpty then s.spoiledDelta4 c d.entry d.words else s.toDelta4 c d.entry d.words
  (r.1, { bad.foldl (fun t k => t.setPoison (64 * k) true) r.2 with
    inFlight := r.2.inFlight.filter (fun m => m.addr != SEG_SST_W0 c d.entry) })

/-- A conversion is refused (R154). -/
def State.delta4Refused (s : State) (c n : Nat) : Bool :=
  s.segBad c (s.segStored c n) || (s.segStored c n).delta || s.hasMode c 1 || (s.coding c).isSome

/-- A conversion is refused: REFUSED is set and VIOLATION logged with the entry number (R154). -/
def State.delta4Refuse (s : State) (port c n : Nat) : State :=
  (s.setBit (SEG_CODE_STAT c) SEG_CODE_STAT_REFUSED true).violation 0x02 port 0 n (SEG_CODE_CMD c)

/-- A GO starts the conversion of an entry or is refused (R153, R154). -/
def State.delta4Command (s : State) (port c : Nat) (value : Word) : State :=
  let n := getF value SEG_CODE_CMD_ENTRY
  if !getB value 31 then s
  else if s.delta4Refused c n then s.delta4Refuse port c n
  else (s.setBit (SEG_CODE_STAT c) SEG_CODE_STAT_BUSY true).setCoding c (some { entry := n, words := s.segStored c n })

/-- DELTA4_CONVERT: a partner's write of SEG_CODE_CMD (R153, R154). -/
def execDelta4Convert (port : PortNo) (c : ClNo) (value : Word) (s : State) : Host.Outcome State Fault Refusal :=
  ok (s.reach port.val (SEG_CODE_CMD c.val) (fun s => s.delta4Command port.val c.val value))

/-- DELTA4_DONE: the conversion, which has read the raw segment, ends (R156). -/
def execDelta4Done (c : ClNo) (finds : Finds) (s : State) : Host.Outcome State Fault Refusal :=
  match s.coding c.val with
  | none => ok s
  | some d =>
    let r := (s.meet (segAddr c.val d.words.start) (48 * d.words.len) finds 1).delta4Result c.val d
    let t := r.2.setFld (SEG_CODE_STAT c.val) SEG_CODE_STAT_SAT_COUNT r.1
    let t := (t.setBit (SEG_CODE_STAT c.val) SEG_CODE_STAT_BUSY false).setBit (SEG_CODE_STAT c.val) SEG_CODE_STAT_DONE true
    ok (t.setCoding c.val none)

end Sys2Proof.Machine
end

