-- ==== Sys2Proof/Machine/Clamp.lean ====
section
/-! DEFINITION. Threshold DACs (R158-R160, R169) and Clamp protection (R170-R180). Voltages are in µV. -/

namespace Sys2Proof.Machine

/-- DAC code of a threshold of `mv` mV over a span from `lo` to `hi` mV: floor((V - lo) × 1,023 / (hi - lo) + 0.5), limited to
the span (R159, R169). -/
def dacCode (lo hi : Int) (mv : Int) : Nat :=
  let v := max lo (min hi mv)
  ((2 * (v - lo) * 1023 + (hi - lo)) / (2 * (hi - lo))).toNat

/-- The code of a receiver threshold (R159). -/
def thresholdCode (w : Word) : Nat := dacCode (-1000) 2500 (sx 16 (getF w ⟨15, 0⟩))
/-- The code of a protection threshold (R169). -/
def clampCode (w : Word) : Nat := dacCode (-1500) 3000 (sx 16 (getF w ⟨15, 0⟩))

/-- A voltage lies above the voltage of a DAC code of the span from lo to hi mV (R158, R170). -/
def aboveCode (lo hi : Int) (code : Nat) (uv : Int) : Bool :=
  decide ((uv - lo * 1000) * 1023 > (code : Int) * ((hi - lo) * 1000))

/-- A voltage lies below the voltage of a DAC code (R170). -/
def belowCode (lo hi : Int) (code : Nat) (uv : Int) : Bool :=
  decide ((uv - lo * 1000) * 1023 < (code : Int) * ((hi - lo) * 1000))

/-- The receiver codes, as CMP_DAC shows them, that were in force at grain g (R160). -/
def State.dacAt (s : State) (p g : Nat) : Word :=
  match ((s.pin p).oldCodes.filter (fun x => decide (g < x.1))).getLast? with
  | some x => x.2
  | none => s.reg (CMP_DAC (pinCl p) (pinUnit p))

/-- QH at a pin voltage sampled at grain g (R158, R160). -/
def State.qh (s : State) (p g : Nat) (uv : Int) : Bool := aboveCode (-1000) 2500 (getF (s.dacAt p g) CMP_DAC_CODE_H) uv
/-- QL at a pin voltage sampled at grain g (R158, R160). -/
def State.ql (s : State) (p g : Nat) (uv : Int) : Bool := aboveCode (-1000) 2500 (getF (s.dacAt p g) CMP_DAC_CODE_L) uv

/-- A receiver code changes at boundary b: the codes before it stay known for samples of earlier grains (R160). -/
def State.setCode (s : State) (c u b : Nat) (f : Fld) (code : Nat) : State :=
  let a := CMP_DAC c u
  if s.fld a f = code then s
  else (s.updPin (16 * c + u) (fun x => { x with oldCodes := (b, s.reg a) :: x.oldCodes })).setFld a f code

/-- A protection sample is out of window (R170). -/
def State.outOfWindow (s : State) (p : Nat) (uv : Int) : Bool :=
  aboveCode (-1500) 3000 (s.fld (CLP_DAC (pinCl p) (pinUnit p)) CLP_DAC_CODE_H) uv ||
    belowCode (-1500) 3000 (s.fld (CLP_DAC (pinCl p) (pinUnit p)) CLP_DAC_CODE_L) uv

/-- Five in-window samples (R173). -/
def freshFilter : List Bool := [false, false, false, false, false]

/-- The majority filter's output is Trip (R171, Table 5-5). -/
def filterTrips (l : List Bool) : Bool := decide (3 ≤ (l.filter (· == true)).length)

/-- The pin's latch sets at kerf 0 of a grain: from there the driver is held, the trip is counted and reported once until TRIPPED is
cleared (R172, R180). -/
def State.trip (s : State) (p g : Nat) : State :=
  let c := pinCl p
  let u := pinUnit p
  let first := !s.fbit (CLP_STAT c) CLP_STAT_TRIPPED u
  let t := (s.orBit (CLP_STAT c) CLP_STAT_LATCH u).updPin p (fun x => { x.hold g with latchAt := some g })
  let t := t.countSat (CLP_TRIP_CNT c u) CLP_TRIP_CNT_COUNT 1
  let t := match (t.servedBy p).bind (fun e => (t.eng e).run) with
    | some id => t.updFig c id (fun x => { x with tripPins := setNBit x.tripPins u true })
    | none => t
  if first then (t.orBit (CLP_STAT c) CLP_STAT_TRIPPED u).event codeTrip 0 p 0 g else t

/-- A latch clears at a grain, and the filter history starts anew (R173, R176). A latch that sets in that grain stays set
(R177). -/
def State.clearLatch (s : State) (p g : Nat) : State :=
  match (s.pin p).latchAt with
  | some a =>
    if a < g ∧ s.latchBit p then
      let f := CLP_STAT_LATCH
      let t := s.setFld (CLP_STAT (pinCl p)) f (setNBit (s.fld (CLP_STAT (pinCl p)) f) (pinUnit p) false)
      t.updPin p (fun x => { x with latchAt := none, latchSpans := (a, g) :: x.latchSpans, filter := freshFilter })
    else s
  | none => s

/-- Whether the latch of a pin was set at any of the grains lo to hi (R167, Table 10-5). -/
def State.trippedIn (s : State) (p lo hi : Nat) : Bool :=
  (match (s.pin p).latchAt with
    | some a => s.latchBit p && decide (a ≤ hi)
    | none => false) ||
  (s.pin p).latchSpans.any (fun x => decide (lo < x.2) && decide (x.1 ≤ hi))

/-- PROTECTION_SAMPLE: at kerf 0 of grain g the protection comparator is sampled into the 3-of-5 filter; a Trip sets the latch at
the next grain (R170-R172). -/
def execProtectionSample (p : PinNo) (g : Nat) (microvolts : Int) (s : State) : Host.Outcome State Fault Refusal :=
  if !s.fbitF (CLP_CTRL (pinCl p.val) (pinUnit p.val)) CLP_CTRL_EN || s.latchBit p.val then ok (s.at g)
  else
    let l := s.outOfWindow p.val microvolts :: (s.pin p.val).filter.take 4
    let t := (s.at g).updPin p.val (fun x => { x with filter := l })
    ok (if filterTrips l then (t.trip p.val (g + 1)).showContact t p.val (g + 1) else t)

/-- In WRITE mode a 1 clears the pin's latch at tenon boundary b (R175, R176); a write that was made in WRITE mode clears nothing when
the mode is PERIOD at that boundary (log entry 132). Outside a run the pin then plays its idle code (R136). -/
def State.clearLatches (s : State) (c mask b : Nat) : State :=
  (bitsOf 16 mask).foldl (fun t u =>
    if t.fbitF (CLP_CTRL c u) CLP_CTRL_CLR_MODE then t
    else
      let t := t.clearLatch (16 * c + u) b
      if (t.servedBy (16 * c + u)).isNone then t.releaseIdle (16 * c + u) b else t) (s.at b)

/-- The LATCH bits of a write that act: a pin in PERIOD mode ignores its bit (R175). -/
def State.latchMask (s : State) (c mask : Nat) : Nat :=
  maskOf ((bitsOf 16 mask).filter (fun u => !s.bit (CLP_CTRL c u) CLP_CTRL_CLR_MODE))

/-- LATCH_CLEAR_WRITE: a partner's write of LATCH bits that reaches boundary b (R175). -/
def execLatchClearWrite (port : PortNo) (c : ClNo) (mask : BitVec 16) (b : Nat) (s : State) :
    Host.Outcome State Fault Refusal :=
  ok (s.reach port.val (CLP_STAT c.val) (fun s => (s.atCluster c.val b).clearLatches c.val mask.toNat b))

end Sys2Proof.Machine
end

