-- ==== Sys2Proof/Machine/Conv.lean ====
section
/-! DEFINITION. PPMU force pulses (R286, R287), the cluster SAR converter (R288-R299) and the precision converters
(R300-R303). -/

namespace Sys2Proof.Machine

/-- Update the SAR converter of a cluster. -/
def State.updAdc (s : State) (c : Nat) (f : Adc → Adc) : State := s.updCl c (fun x => { x with adc := f x.adc })
/-- The SAR converter of a cluster. -/
def State.adc (s : State) (c : Nat) : Adc := (s.cl c).adc

/-- Grains of one conversion (R288). -/
def convGrains (lowPower : Bool) : Nat := if lowPower then 256000 else 64000

/-- AVG_SHIFT in force: above 8 acts as 8. -/
def State.avgShift (s : State) (c : Nat) : Nat := min 8 (s.ffld (ADC_CTRL c) ADC_CTRL_AVG_SHIFT)
/-- LOWPWR in force. -/
def State.adcLowPower (s : State) (c : Nat) : Bool := s.fbitF (ADC_CTRL c) ADC_CTRL_LOWPWR

/-- A start was discarded (R291, R292). -/
def State.adcMissed (s : State) (c : Nat) : State := s.countSat (ADC_QSTAT c) ADC_QSTAT_MISSED 1

/-- The grain at which a sequence ends. -/
def ConvSeq.endGrain (q : ConvSeq) (avg : Nat) (lowPower : Bool) : Nat := q.begin_ + 2 ^ avg * convGrains lowPower

/-- Show PENDING. -/
def State.adcPending (s : State) (c : Nat) : State := s.setBit (ADC_STAT c) ADC_STAT_PENDING (s.adc c).waiting.isSome

/-- The grain at which a sequence begins that is to start at grain g with no other in progress: at g when the converter is powered, in
low-power mode, or ends a sequence at that very grain, else 128,000 gr later (R289, R292). -/
def State.adcBegin (s : State) (c g : Nat) : Nat :=
  if s.bit (ADC_STAT c) ADC_STAT_POWERED || s.adcLowPower c || (s.adc c).lastEnd == some g then g else g + 128000

/-- A start whose grain has come: its sequence is prepared, or it becomes the single pending start, or it is discarded (R289,
R292), as it is when the cluster no longer accepts starts (R291, R309, log entry 57). -/
def State.adcTake (s : State) (c : Nat) (x : ConvStart) : State :=
  let a := s.adc c
  let miss := (s.adcMissed c).updAdc c (fun y => { y with refused := some x.grain })
  if s.interrupted c || !(s.hasMode c 3 || s.hasMode c 4) then miss
  else match a.seq, a.waiting with
  | none, _ => s.updAdc c (fun y => { y with seq := some { start := x, begin_ := s.adcBegin c x.grain } })
  | some _, none => (s.updAdc c (fun y => { y with waiting := some x })).adcPending c
  | some _, some _ => miss

/-- Every start up to grain g is taken in order. -/
def State.adcSettle (s : State) (c g : Nat) : Nat → State
  | 0 => s
  | n + 1 =>
    match (s.adc c).starts with
    | x :: r =>
      if x.grain ≤ g then ((s.updAdc c (fun y => { y with starts := r })).adcTake c x).adcSettle c g n else s
    | [] => s

/-- Every start whose grain has come by grain g is taken. -/
def State.adcCatchUp (s : State) (c g : Nat) : State := s.adcSettle c g (s.adc c).starts.length

/-- Starts in order of their grain. -/
def startInsert (x : ConvStart) : List ConvStart → List ConvStart
  | [] => [x]
  | y :: ys => if x.grain < y.grain then x :: y :: ys else y :: startInsert x ys

/-- Whether the converter already has a start with this start grain (R291). -/
def Adc.sameStart (a : Adc) (g : Nat) : Bool :=
  a.refused == some g || a.starts.any (fun x => x.grain == g) || (match a.waiting with
    | some x => x.grain == g
    | none => false) || (match a.seq with
    | some q => q.start.grain == g
    | none => false)

/-- Starts are accepted: MEASURE or CALIBRATE is set, no interruption owns the converter and no calibration waits for it alone;
self-test conversions of RECOVER under SERVICE alone (R291, R309, Table 15-3 note f). -/
def State.adcAccepts (s : State) (c : Nat) (selfTest : Bool) : Bool :=
  !s.interrupted c && !s.calReady c .dc && !s.calReady c .timing &&
    (s.hasMode c 3 || s.hasMode c 4 || (selfTest && s.active c == 32))

/-- A start event at grain e gives a start at e + 64 × DELAY (R289-R291). -/
def State.adcEvent (s : State) (c e : Nat) : State :=
  let g := e + 64 * s.ffld (ADC_DELAY c) ADC_DELAY_DELAY
  let s := s.adcCatchUp c e
  if (s.adc c).sameStart g then s
  else if !s.adcAccepts c false then (s.adcMissed c).updAdc c (fun y => { y with refused := some g })
  else (s.updAdc c (fun y => { y with starts := startInsert { grain := g } y.starts })).adcCatchUp c e

/-- ADC_START: a partner's start event at boundary b (R290). -/
def execAdcStart (port : PortNo) (c : ClNo) (b : Nat) (s : State) : Host.Outcome State Fault Refusal :=
  ok (s.reach port.val (ADC_CMD c.val) (fun s => (s.atCluster c.val b).adcEvent c.val b))

/-- ADC_TIMER_EVENT: with SRC 1, every 64 × PERIOD gr from the boundary at which SRC or PERIOD took effect (R290). -/
def execAdcTimerEvent (c : ClNo) (g : Nat) (s : State) : Host.Outcome State Fault Refusal :=
  let p := 64 * max 1 (s.inForce (ADC_TIMER c.val)).toNat
  let b := (s.adc c.val).timerSince
  if s.ffld (ADC_CTRL c.val) ADC_CTRL_SRC = 1 ∧ b < g ∧ (g - b) % p = 0 then ok ((s.at g).adcEvent c.val g)
  else ok s

/-- Whether a setting that a MEASURE entry has written to a pin's PPMU is on its way to pin time. -/
def State.pmuInFlight (s : State) (p : Nat) : Bool :=
  s.inFlight.any (fun m => m.port == byEngine && (m.addr == PMU_CTRL (pinCl p) (pinUnit p) || m.addr == PMU_FORCE (pinCl p) (pinUnit p)))

/-- Every cluster of the site of an entry that holds cluster c has MEASURE (R389). -/
def State.siteMeasures (s : State) (sites : List Nat) (c : Nat) : Bool :=
  sites.any (fun k =>
    let m := s.pair (FLW_SITE_W0 k) (FLW_SITE_W1 k)
    nbit m c && (bitsOf 64 m).all (s.hasMode · 3))

/-- The pin of a cluster that a MEASURE entry converts next at grain g and its AVG_SHIFT: the settings of the cluster's pins are in
force, SETTLE has passed, and each cluster of the site has MEASURE (R389). -/
def State.flowDemand (s : State) (c g : Nat) : Option (Nat × Nat) :=
  (List.range 8).findSome? (fun n =>
    match (s.flow n).waiting, (s.flow n).entry with
    | .measure settle todo _, some x =>
      let own := todo.filter (fun p => pinCl p == c)
      if own.any (fun p => s.pmuInFlight p || decide (g < (s.pin p).pmuSince + 64 * settle)) || !s.siteMeasures x.sites c then none
      else own.head?.map (fun p => (p, min 8 (x.bytes.getD 20 0).toNat))
    | _, _ => none)

/-- The sequence of a MEASURE entry is prepared at grain g, when one is wanted and the converter is free (R289, R389): at the boundary at
which the wait ends, or where the sequence before it ends, so that the sequences stand back to back (Table 19-4). -/
def State.flowConvert (s : State) (c g : Nat) : State :=
  match s.flowDemand c g with
  | some d =>
    if (s.adc c).seq.isNone && !s.interrupted c then
      s.updAdc c (fun y => { y with seq := some {
        start := { grain := g, flow := true }, begin_ := s.adcBegin c g, chan := pinUnit d.1, avg := d.2 } })
    else s
  | none => s

/-- The tag of RECOVER's next self-test conversion: 0x80 to 0x86 (R423). -/
def State.selfTestTag (s : State) (c : Nat) : Nat := 0x80 + (match (s.cl c).svc with
  | some v => v.selfTests
  | none => 0)

/-- ADC_SEQUENCE_BEGIN: the prepared sequence begins at its grain with the settings now in force; a MEASURE entry brings its own channel and
AVG_SHIFT (R289, R294, R389). -/
def execAdcSequenceBegin (c : ClNo) (g : Nat) (s : State) : Host.Outcome State Fault Refusal :=
  let t := s.adcCatchUp c.val g
  match (t.adc c.val).seq with
  | some q =>
    if q.begin_ = g ∧ q.begun = false then
      let t := t.at g
      let q := { q with
        begun := true, lowPower := t.adcLowPower c.val,
        chan := if q.start.flow then q.chan else if q.start.selfTest then t.selfTestTag c.val
          else t.ffld (ADC_CTRL c.val) ADC_CTRL_CHAN,
        avg := if q.start.flow then q.avg else if q.start.selfTest then 0 else t.avgShift c.val }
      let q := { q with
        mode := t.pmuMode (16 * c.val + q.chan), range := t.ffld (PMU_CTRL c.val (q.chan % 16)) PMU_CTRL_RANGE }
      let t := t.updAdc c.val (fun y => { y with seq := some q })
      ok ((t.setBit (ADC_STAT c.val) ADC_STAT_BUSY true).setBit (ADC_STAT c.val) ADC_STAT_POWERED true)
    else ok s
  | none => ok s

/-- The pin a channel tag names, for the SAR converter of cluster c (R296). -/
def sarPin (c tag : Nat) : Option Nat := if tag < 16 then some (16 * c + tag) else none
/-- The pin a channel tag names, for PC r (R300). -/
def precPin (r tag : Nat) : Option Nat := if tag < 128 then some (128 * r + tag) else none
/-- Whether a tag names a channel other than a PPMU (Table 10-4). -/
def isSupply (tag : Nat) : Bool := decide (0x80 ≤ tag) && decide (tag ≤ 0x87)

/-- A queue entry (Table 10-5) but for VALID's OVR mark. -/
def queueEntry (clip clamp lp unver badch : Bool) (tag result : Nat) : Nat :=
  2 ^ 31 + (if clip then 2 ^ 29 else 0) + (if clamp then 2 ^ 28 else 0) + (if lp then 2 ^ 27 else 0) +
    (if unver then 2 ^ 26 else 0) + (if badch then 2 ^ 25 else 0) + tag * 2 ^ 16 + result

/-- The averaged code of a sequence (R295). -/
def average (n sum : Nat) : Nat := if n = 0 then sum else (sum + 2 ^ (n - 1)) / 2 ^ n

/-- The voltage in 1/1,023 mV of the threshold DAC that CMP_RB_SEL in force selects (R158, R170, R181, Table 5-7). -/
def State.selectedDac (s : State) (c : Nat) : Int :=
  let u := s.ffld (CMP_RB_SEL c) CMP_RB_SEL_UNIT
  match s.ffld (CMP_RB_SEL c) CMP_RB_SEL_DAC with
  | 0 => 3500 * s.fld (CMP_DAC c u) CMP_DAC_CODE_H - 1023000
  | 1 => 3500 * s.fld (CMP_DAC c u) CMP_DAC_CODE_L - 1023000
  | 2 => 4500 * s.fld (CLP_DAC c u) CLP_DAC_CODE_H - 1534500
  | _ => 4500 * s.fld (CLP_DAC c u) CLP_DAC_CODE_L - 1534500

/-- The output in 1/1,023 mV of the selected threshold DAC: off its voltage by at most the threshold accuracy of its kind, freely
(log entry 56). -/
def State.dacOutput (s : State) (c : Nat) : Int :=
  let v := s.selectedDac c
  let acc : Nat := if s.ffld (CMP_RB_SEL c) CMP_RB_SEL_DAC < 2 then v.natAbs * 3 / 1000 + 5115 else v.natAbs * 5 / 1000 + 10230
  v + (Config.freeNat s.free % (2 * acc + 1) : Nat) - acc

/-- The code of a voltage in 1/1,023 mV on the read-back channel: −1,500 + k × 4,500 / 4,095 mV is nearest to it, or at most one step
away, freely (R181, Table 10-4, log entry 56). -/
def readBackCode (f : Nat) (v : Int) : Nat :=
  let k := (2 * (v + 1534500) * 4095 + 4603500) / (2 * 4603500)
  (max 0 (min 4095 (k + (Config.freeNat f % 3 : Nat) - 1))).toNat

/-- The conversions of a sequence that have started before grain g. -/
def ConvSeq.startedBy (q : ConvSeq) (g : Nat) : Nat :=
  min (2 ^ q.avg) ((g - q.begin_ + convGrains q.lowPower - 1) / convGrains q.lowPower)

/-- Every conversion of the read-back channel that has started before grain g measures the DAC selected until then (R182): called
before a boundary changes the selection or a code, and at the end of the sequence. -/
def State.latchDacs (s : State) (c g : Nat) : State :=
  match (s.adc c).seq with
  | some q =>
    if q.begun ∧ q.chan = 0x87 then
      (s.updAdc c (fun y => { y with seq := some { q with
        dacs := q.dacs ++ List.replicate (q.startedBy g - q.dacs.length) (s.dacOutput c) } })).useFree
    else s
  | none => s

/-- The codes of a sequence's conversions: of the read-back channel those that its DACs give (R181, R182), else the measured ones. -/
def ConvSeq.codes (q : ConvSeq) (free : Nat) (codes : List (BitVec 12)) : List Nat :=
  if q.chan = 0x87 then (List.range q.dacs.length).map (fun i => readBackCode (free + i) (q.dacs.getD i 0))
  else codes.map (·.toNat)

/-- The DC items in force that act on a measurement by a cluster's converter: its offset and gain, and for the PPMU of a unit index the
measure offset and gain of its range (R320, items of the CALSEED section). -/
def State.dcItems (s : State) (c : Nat) (unit : Option Nat) (range : Nat) : List Int :=
  let item (i : Nat) : Int := tget (fun _ => (0 : Int)) (s.cl c).gauge.dcForce i
  let k := if range < 5 then range else 0
  [item 28, item 29] ++ match unit with
    | some u => [item (32 * u + 10 + 4 * k), item (32 * u + 11 + 4 * k)]
    | none => []

/-- A RESULT under the digital corrections in force (R320, log entry 55). -/
def dcCorrected (items : List Int) (bits result : Nat) : Nat :=
  if items.all (· == 0) then result else Config.dcCorrect result items % 2 ^ bits

/-- The result of a finished sequence of a cluster, with the corrections in force (R295, R320). -/
def State.adcResult (s : State) (c : Nat) (q : ConvSeq) (ns : List Nat) : Nat :=
  dcCorrected (s.dcItems c (if q.chan < 16 then some q.chan else none) q.range) 12 (average q.avg ns.sum)

/-- The entry of a finished sequence of a cluster (R295, R296, Table 10-5). -/
def State.adcEntry (s : State) (c : Nat) (q : ConvSeq) (ns : List Nat) : Nat :=
  let bad := !((sarPin c q.chan).isSome || isSupply q.chan)
  let clamp := match sarPin c q.chan with
    | some p => (List.range ns.length).any (fun i =>
        s.trippedIn p (q.begin_ + i * convGrains q.lowPower) (q.begin_ + i * convGrains q.lowPower))
    | none => false
  queueEntry (!bad && ns.any (fun k => k == 0 || k == 4095)) clamp q.lowPower
    (s.bit (CAL_STAT c) CAL_STAT_UNVER_DC) bad q.chan (if bad then 0 else s.adcResult c q ns)

/-- A cluster converter raises a request while its queue holds 64 entries or more and DMA drains it (R299, R360). -/
def State.adcDemand (s : State) (c : Nat) : State :=
  if s.fbitF (ADC_CTRL c) ADC_CTRL_DMA_EN && (s.adc c).ringBad.isNone && decide (64 ≤ (s.adc c).queue.length) then
    s.sourceRequest (s.ffld (ADC_DMA c) ADC_DMA_RING)
  else s

/-- A result enters the queue of a cluster converter, or is dropped; a DMA request follows (R298, R299). -/
def State.adcPush (s : State) (c entry : Nat) : State :=
  let a := s.adc c
  if 256 ≤ a.queue.length then
    ((s.countSat (ADC_QSTAT c) ADC_QSTAT_DROP 1).updAdc c (fun y => { y with overrun := true })).adcDemand c
  else
    (s.updAdc c (fun y => { y with
      queue := y.queue ++ [BitVec.ofNat 32 (entry + (if y.overrun then 2 ^ 30 else 0))], overrun := false })).adcDemand c

/-- The converter after a sequence that ended at grain g, in low-power mode or not: the pending start begins, or the converter may
power down (R292-R294). -/
def State.adcAfter (s : State) (c g : Nat) (lowPower : Bool) : State :=
  let t := s.setBit (ADC_STAT c) ADC_STAT_BUSY false
  match (t.adc c).waiting with
  | some x =>
    (t.updAdc c (fun y => { y with seq := some { start := x, begin_ := max x.grain g }, waiting := none })).adcPending c
  | none =>
    let t := t.updAdc c (fun y => { y with seq := none, lastEnd := some g })
    if lowPower || t.fbitF (ADC_CTRL c) ADC_CTRL_STAY_ON then t else t.setBit (ADC_STAT c) ADC_STAT_POWERED false

/-- A PPMU code scaled under Table 10-4 to pA (FVMI) or µV, rounded half up (R389). -/
def pmuValue (mode range code : Nat) : Int :=
  if mode = 1 then (2 * ((code : Int) - 2048) * fullScale range + 2048) / 4096
  else (2 * (code : Int) * 4500000 + 4095) / 8190 - 1500000

/-- A conversion of a MEASURE entry has ended: its value goes to the entry and not to the queue (R389, log entry 33). -/
def State.flowResult (s : State) (c : Nat) (q : ConvSeq) (ns : List Nat) : State :=
  let p := 16 * c + q.chan
  let v := pmuValue q.mode q.range (s.adcResult c q ns)
  (List.range 8).foldl (fun t n => t.updFlow n (fun f => match f.waiting with
    | .measure settle todo res =>
      if todo.contains p then { f with waiting := .measure settle (todo.erase p) (res ++ [(p, v)]) } else f
    | _ => f)) s

/-- A self-test conversion of RECOVER has ended (R423). -/
def State.countSelfTest (s : State) (c : Nat) (q : ConvSeq) : State :=
  if q.start.selfTest then
    s.updCl c (fun x => { x with svc := match x.svc with
      | some v => some { v with selfTests := v.selfTests + 1 }
      | none => none })
  else s

/-- The device writes a mode word to REQ at a boundary: earlier writes on their way have no effect (R405, R419, R423). -/
def State.modReqNow (s : State) (c w : Nat) : State :=
  ({ s with inFlight := s.inFlight.filter (fun m => m.addr != MOD_REQ c) }).setBoth (MOD_REQ c) (BitVec.ofNat 32 w)

/-- RECOVER converts its next tag from grain g when the converter is free and accepts it (R291, R423). -/
def State.nextSelfTest (s : State) (c g : Nat) : State :=
  match (s.cl c).svc with
  | some v =>
    if v.op = 5 ∧ v.selfTests < 7 then
      if (s.adc c).seq.isNone && s.adcAccepts c true then
        s.updAdc c (fun y => { y with seq := some { start := { grain := g, selfTest := true }, begin_ := s.adcBegin c g } })
      else s
    else s
  | none => s

/-- The seventh self-test conversion has ended: CALIBRATE and both requests (R423). -/
def State.selfTestsDone (s : State) (c : Nat) : State :=
  ((s.modReqNow c 0x30).setBit (CAL_CTRL c) CAL_CTRL_REQ_DC true).setBit (CAL_CTRL c) CAL_CTRL_REQ_T true

/-- ADC_SEQUENCE_END: the last conversion ends at grain g with the sequence's codes (R288, R289, R295-R299). -/
def execAdcSequenceEnd (c : ClNo) (g : Nat) (codes : List (BitVec 12)) (s : State) : Host.Outcome State Fault Refusal :=
  let t := (s.adcCatchUp c.val g).latchDacs c.val g
  match (t.adc c.val).seq with
  | some q =>
    if q.begun ∧ g = q.endGrain q.avg q.lowPower ∧ codes.length = 2 ^ q.avg then
      let ns := q.codes t.free codes
      let t : State := { t.at g with free := t.free + q.dacs.length }
      let t := if q.start.flow then t.flowResult c.val q ns else t.adcPush c.val (t.adcEntry c.val q ns)
      let t := (t.countSelfTest c.val q).adcAfter c.val g q.lowPower
      ok (if q.start.selfTest ∧ t.selfTestTag c.val = 0x87 then t.selfTestsDone c.val
        else (t.nextSelfTest c.val g).flowConvert c.val g)
    else ok s
  | none => ok s

/-! Force pulses. -/

/-- A pulse request of one pin at boundary b (R286, R287); its pulse event starts the converter with SRC 2 (R290). -/
def State.pulsePin (s : State) (p b : Nat) : State :=
  let c := pinCl p
  let u := pinUnit p
  let busy := match (s.pin p).pulse with
    | some x => decide (b < x.1)
    | none => false
  if s.pmuMode p == 0 || busy then s
  else
    let width := max 1 (s.ffld (PMU_PULSE c u) PMU_PULSE_WIDTH)
    let t := s.updPin p (fun x => { x with pulse := some (b + 64 * width, s.ffld (PMU_PULSE c u) PMU_PULSE_LEVEL) })
    if t.ffld (ADC_CTRL c) ADC_CTRL_SRC = 2 ∧ t.ffld (ADC_CTRL c) ADC_CTRL_PULSE_UNIT = u then t.adcEvent c b
    else t

/-- PULSE_START: force pulses of the units in the mask at boundary b (R286, R287). -/
def execPulseStart (port : PortNo) (c : ClNo) (mask : BitVec 16) (b : Nat) (s : State) : Host.Outcome State Fault Refusal :=
  ok (s.reach port.val (PMU_PULSE_CMD c.val) (fun s =>
    (bitsOf 16 mask.toNat).foldl (fun t u => (t.pulsePin (16 * c.val + u) b).showContact t (16 * c.val + u) b) (s.atCluster c.val b)))

/-- PULSE_END: at B + 64 × WIDTH gr the PPMU returns to PMU_FORCE (R286). -/
def execPulseEnd (p : PinNo) (g : Nat) (s : State) : Host.Outcome State Fault Refusal :=
  match (s.pin p.val).pulse with
  | some x =>
    if x.1 = g then ok (((s.at g).updPin p.val (fun y => { y with pulse := none })).showContact s p.val g) else ok s
  | none => ok s

/-! Precision converters. -/

/-- Update the precision converter of a region. -/
def State.updPrec (s : State) (r : Nat) (f : PrecConv → PrecConv) : State := s.updRg r (fun x => { x with prec := f x.prec })

/-- M of PC r: below 16 acts as 16, above 4,096 acts as 4,096. -/
def precDecim (w : Word) : Nat := max 16 (min 4096 (getF w PC_CTRL_DECIM))

/-- The conversion interval I and NOTCH_LIMIT of a PC_CTRL value (R301, R303). -/
def precInterval (w : Word) (lowPower : Bool) : Nat × Bool :=
  let least := convGrains lowPower
  let hz := match getF w PC_CTRL_NOTCH_BASE with
    | 1 => 50
    | 2 => 60
    | _ => 0
  if hz = 0 then (least, false)
  else
    let fm := max 1 (getF w PC_CTRL_NOTCH_MULT) * hz * precDecim w
    let i := (2 * (64 * 10 ^ 9) + fm) / (2 * fm)
    (max least i, decide (i < least))

/-- PC_INTERVAL shows the interval of a mode (R301, R303). -/
def State.precShow (s : State) (r : Nat) (lowPower : Bool) : State :=
  let i := precInterval (s.inForce (PC_CTRL r)) lowPower
  (s.setFld (PC_INTERVAL r) PC_INTERVAL_I i.1).setBit (PC_INTERVAL r) PC_INTERVAL_NOTCH_LIMIT i.2

/-- PC r raises a request while its queue holds 64 entries or more and DMA drains it (R299, R360, log entry 23). -/
def State.precDemand (s : State) (r : Nat) : State :=
  let a := (s.rg r).prec
  if Config.precDma r && a.ringBad.isNone && decide (64 ≤ a.queue.length) then s.sourceRequest (s.fld (PC_DMA r) PC_DMA_RING)
  else s

/-- A result enters the queue of PC r, or is dropped; a DMA request follows (R298, R299). -/
def State.precPush (s : State) (r entry : Nat) : State :=
  let a := (s.rg r).prec
  if 256 ≤ a.queue.length then
    ((s.countSat (PC_QSTAT r) PC_QSTAT_DROP 1).updPrec r (fun y => { y with overrun := true })).precDemand r
  else
    (s.updPrec r (fun y => { y with
      queue := y.queue ++ [BitVec.ofNat 32 (entry + (if y.overrun then 2 ^ 30 else 0))], overrun := false })).precDemand r

/-- The DC items in force that act on a measurement by PC r, whose offset and gain CL8r's DC calibration covers (Table 11-1), and for
the PPMU of a pin those of its measurement (R320). -/
def State.precItems (s : State) (r tag : Nat) : List Int :=
  s.dcItems (8 * r) none 0 ++ match precPin r tag with
    | some p => (s.dcItems (pinCl p) (some (pinUnit p)) (s.ffld (PMU_CTRL (pinCl p) (pinUnit p)) PMU_CTRL_RANGE)).drop 2
    | none => []

/-- An entry of PC r is written with the corrections in force (R320, Table 10-5). -/
def State.precWrite (s : State) (r : Nat) (x : PrecEntry) : State :=
  let items := s.precItems r x.tag
  s.precPush r (queueEntry x.clip x.clamp x.lowPower (s.bit (CAL_STAT (8 * r)) CAL_STAT_UNVER_DC) x.bad x.tag
    (if x.bad then 0 else dcCorrected items 16 x.result))

/-- The entry whose last conversion has ended by grain g is written (R302). -/
def State.precDue (s : State) (r g : Nat) : State :=
  match (s.rg r).prec.due with
  | some (e, x) => if e ≤ g then (s.updPrec r (fun y => { y with due := none })).precWrite r x else s
  | none => s

/-- The filter of PC r is emptied. With EN 1 conversions restart 128,000 gr after grain b, but not while a DC interruption of CL8r
holds them off (R303, R309); with EN 0 they stop. -/
def State.precRestart (s : State) (r b : Nat) : State :=
  let lp := s.bit (PC_LOWPWR r) PC_LOWPWR_LOWPWR
  let held := match (s.cl (8 * r)).gauge.interruption with
    | some x => x.1 == .dc
    | none => false
  ((s.precDue r b).precShow r lp).updPrec r (fun x => { x with
    running := getB (s.inForce (PC_CTRL r)) 31 && !held, nextAt := b + 128000, count := 0, integ := [0, 0, 0, 0],
    comb := [0, 0, 0, 0], lowPower := lp, marks := (false, false), oldMarks := [], due := none })

/-- A written PC_CTRL takes effect at boundary b (R303). -/
def State.precCtrl (s : State) (r b : Nat) (w : Word) : State :=
  let old := s.inForce (PC_CTRL r)
  let t := s.setForce (PC_CTRL r) w
  if getB w 31 || getB old 31 then t.precRestart r b else t.precShow r (t.bit (PC_LOWPWR r) PC_LOWPWR_LOWPWR)

/-- PC_CTRL_WRITE: the filter is emptied; conversions restart 128,000 gr after boundary b (R303). -/
def execPcCtrlWrite (port : PortNo) (r : RgNo) (value : Word) (be : BitVec 4) (b : Nat) (s : State) :
    Host.Outcome State Fault Refusal :=
  ok (s.reach port.val (PC_CTRL r.val) (fun s =>
    let t := (s.atCluster (8 * r.val) b).partnerWrite (PC_CTRL r.val) value be
    t.precCtrl r.val b (t.reg (PC_CTRL r.val))))

/-- The integrators of a sinc filter of order n take a sample. -/
def integrate : Nat → Int → List Int → List Int
  | 0, _, l => l
  | _ + 1, _, [] => []
  | n + 1, x, i :: l => (i + x) :: integrate n (i + x) l

/-- The combs of a sinc filter of order n: the output and their new state. -/
def combs : Nat → Int → List Int → Int × List Int
  | 0, x, l => (x, l)
  | _ + 1, x, [] => (x, [])
  | n + 1, x, c :: l =>
    let r := combs n (x - c) l
    (r.1, x :: r.2)

/-- RESULT of a filter output S: floor(16 × S / M^r + 0.5) (R302). -/
def precResult (m r : Nat) (out : Int) : Nat := ((32 * out + (m ^ r : Nat)) / (2 * (m ^ r : Nat) : Int)).toNat

/-- The code that PC r converts: of tag 0x87 the one that the output of the DAC selected in CL8r gives (R181, R182, R300). -/
def State.precCode (s : State) (r tag : Nat) (code : BitVec 12) : Nat :=
  if tag = 0x87 then readBackCode (s.free + 1) (s.dacOutput (8 * r)) else code.toNat

/-- PC_CONVERSION: the conversion that starts at grain g feeds the sinc filter; every M conversions from the (r × M)-th on an
entry follows, one interval later (R301, R302). A new LOWPWR acts from this conversion on (R303). -/
def execPcConversion (r : RgNo) (g : Nat) (code : BitVec 12) (s : State) : Host.Outcome State Fault Refusal :=
  let x := (s.rg r.val).prec
  let w := s.inForce (PC_CTRL r.val)
  let m := precDecim w
  let n := getF w PC_CTRL_ORDER + 1
  if x.running ∧ g = x.nextAt then
    let t := (s.at g).precDue r.val g
    let lp := t.bit (PC_LOWPWR r.val) PC_LOWPWR_LOWPWR
    let t := if lp = x.lowPower then t else t.precShow r.val lp
    let next := g + (precInterval w lp).1
    let tag := getF w PC_CTRL_CHAN
    let k := t.precCode r.val tag code
    let t := if tag = 0x87 then t.useFree.useFree else t
    let clamp := match precPin r.val tag with
      | some p => t.trippedIn p g g
      | none => false
    let mark := (x.marks.1 || k == 0 || k == 4095, x.marks.2 || clamp)
    let integ := integrate n (k : Int) x.integ
    let count := x.count + 1
    let t := t.updPrec r.val (fun y => { y with nextAt := next, lowPower := lp, count := count, integ := integ })
    if count % m = 0 then
      let o := combs n (integ.getD (n - 1) 0) x.comb
      let marks := (mark :: x.oldMarks).take n
      let t := t.updPrec r.val (fun y => { y with comb := o.2, marks := (false, false), oldMarks := marks })
      if n * m ≤ count then
        let bad := !((precPin r.val tag).isSome || isSupply tag)
        ok (t.updPrec r.val (fun y => { y with due := some (next, {
          clip := !bad && marks.any (·.1), clamp := marks.any (·.2), lowPower := lp, bad := bad, tag := tag,
          result := precResult m n o.1 }) }))
      else ok t
    else ok (t.updPrec r.val (fun y => { y with marks := mark }))
  else ok s

/-- A read of ADC_RESULT or PC_RESULT takes the oldest entry; an empty queue reads 0 (R297). -/
def State.convRead (s : State) (x : ConvNo) : Word × State :=
  match x with
  | .sar c =>
    match (s.adc c.val).queue with
    | w :: r => (w, s.updAdc c.val (fun y => { y with queue := r, popped := y.popped + 1 }))
    | [] => (0, s)
  | .pc r =>
    match (s.rg r.val).prec.queue with
    | w :: l => (w, s.updPrec r.val (fun y => { y with queue := l, popped := y.popped + 1 }))
    | [] => (0, s)

/-- The result register of a converter. -/
def convResult : ConvNo → Nat
  | .sar c => ADC_RESULT c.val
  | .pc r => PC_RESULT r.val

/-- ADC_RESULT_READ: the entry returns to the port (R297). -/
def execAdcResultRead (port : PortNo) (conv : ConvNo) (s : State) : Host.Outcome State Fault Refusal :=
  ok (s.readReach port.val (convResult conv) (s.convRead conv))

end Sys2Proof.Machine
end

