-- ==== Sys2Proof/Machine/Pins.lean ====
section
/-! DEFINITION. Cycles, drive edges and strobes of a pin (R94-R112, R130-R142, R161-R168, R198). -/

namespace Sys2Proof.Machine

/-! Formatter codes (Table 4-1). -/

/-- The address of the GRAIN word of an edge member of TS t, unit u, by index e of Table 3-7. -/
def edgeG (c t u e : Nat) : Nat :=
  match e with
  | 0 => TSET_EDGE_DON_G c t u
  | 1 => TSET_EDGE_D1_G c t u
  | 2 => TSET_EDGE_D2_G c t u
  | 3 => TSET_EDGE_DOFF_G c t u
  | 4 => TSET_STROBE_A_G c t u
  | _ => TSET_STROBE_B_G c t u

/-- The address of the EN and KERF word of an edge member. -/
def edgeK (c t u e : Nat) : Nat :=
  match e with
  | 0 => TSET_EDGE_DON_K c t u
  | 1 => TSET_EDGE_D1_K c t u
  | 2 => TSET_EDGE_D2_K c t u
  | 3 => TSET_EDGE_DOFF_K c t u
  | 4 => TSET_STROBE_A_K c t u
  | _ => TSET_STROBE_B_K c t u

/-- What an edge of a cycle does: the driver turned on or off, and the level it sets (Tables 4-1, 4-3, R137). -/
def edgeAction (stream : Bool) (shape code : Nat) (k : EdgeKind) : Option Bool × Option Nat :=
  let d := codeData code
  if stream then
    match k with
    | .d1 =>
      if isOff code then (some false, none)
      else if isPam code then (some true, some (21 * (code - 8)))
      else (some true, some (levelOf d))
    | _ => (none, none)
  else
    match k with
    | .don => (some true, if shape = 3 ∧ isShaped code then some (levelOf (!d)) else none)
    | .d1 => (none, if isPam code then some (21 * (code - 8)) else some (levelOf d))
    | .d2 => (none, some (match shape with
        | 1 => 0
        | 2 => 63
        | _ => levelOf (!d)))
    | .doff => (some false, none)

/-- The index of a drive edge in Table 3-7. -/
def edgeIdx : EdgeKind → Nat
  | .don => 0
  | .d1 => 1
  | .d2 => 2
  | .doff => 3

/-- Priority of a drive edge in a merge (R109). -/
def edgePrio : EdgeKind → Nat
  | .doff => 4
  | .don => 3
  | .d2 => 2
  | .d1 => 1

/-- Fail bits LF and HF of a sample by code and comparator state (Table 5-2). -/
def judge (code : Nat) (ql qh : Bool) : Bool × Bool :=
  match code with
  | 4 => (ql, false)
  | 13 => (ql, false)
  | 5 => (false, !qh)
  | 14 => (false, !qh)
  | 6 => (!ql, qh)
  | 7 => (ql && !qh, ql && !qh)
  | _ => (false, false)

/-! Merging (R109). -/

/-- Place a drive edge: at its programmed time plus its shim, the driver follows (R114, R106), without driving from the instant of
a hold on (R136, R172); before a hold that has begun since, it drives up to that instant. -/
def State.placeEdge (s : State) (p : Nat) (x : PendingEdge) : State :=
  let t := s.updPin p (fun y => { y with
    on := match x.turnOn with
      | some b => b
      | none => y.on,
    level := match x.level with
      | some l => l
      | none => y.level })
  let time : Int := (x.time : Int) + x.trim
  let y := t.pin p
  if y.held && decide ((y.heldFrom : Int) * 64 ≤ time) then t
  else
    let t := t.send (.contact p time (t.contactAs p (time / 64).toNat y.on y.level))
    if y.held then t.send (.contact p (64 * y.heldFrom) (t.contactAs p y.heldFrom y.on y.level)) else t

/-- The pending edge is placed: no edge can merge with it any more (R109). -/
def State.flushEdge (s : State) (p : Nat) : State :=
  match (s.pin p).pendEdge with
  | some x => (s.placeEdge p x).updPin p (fun y => { y with pendEdge := none })
  | none => s

/-- The pending edge is placed once grain g lies one grain or more after it. -/
def State.flushEdgeBy (s : State) (p g : Nat) : State :=
  match (s.pin p).pendEdge with
  | some x => if x.time + 64 ≤ g * 64 then s.flushEdge p else s
  | none => s

/-- A drive edge joins the merge rule of its pin (R109, R110). -/
def State.mergeEdge (s : State) (p : Nat) (x : PendingEdge) : State :=
  match (s.pin p).pendEdge with
  | none => s.updPin p (fun y => { y with pendEdge := some x })
  | some y =>
    if x.time < y.time + 64 then
      let t := s.orBit (TMG_EDGE_STAT (pinCl p)) TMG_EDGE_STAT_MERGED (pinUnit p)
      if edgePrio y.kind < edgePrio x.kind then t.updPin p (fun z => { z with pendEdge := some x }) else t
    else (s.placeEdge p y).updPin p (fun z => { z with pendEdge := some x })

/-! The cycle's copy of its timing set (R101). -/

/-- The copy of one edge member at grain g; a STREAM-class cycle ignores GRAIN (Table 3-5). -/
def State.copyEdge (s : State) (c t u e g : Nat) (stream : Bool) : EdgeWord × State :=
  let a := s.wordAt (edgeG c t u e) g
  let b := a.2.wordAt (edgeK c t u e) g
  ({ en := getB b.1 31, grain := if stream then 0 else a.1.toNat, kerf := getF b.1 TSET_EDGE_DON_K_KERF }, b.2)

/-- The copies of the six edge members. -/
def State.copyEdges (s : State) (c t u g : Nat) (stream : Bool) : List Nat → List EdgeWord × State
  | [] => ([], s)
  | e :: es =>
    let a := s.copyEdge c t u e g stream
    let r := a.2.copyEdges c t u g stream es
    (a.1 :: r.1, r.2)

/-- The byte address of dictionary entry n of CL c (R222). -/
def dictAddr (c n : Nat) : Nat := 0x30000000000 + c * 0x400000 + 0x1E0000 + 512 * n

/-- The cycle start of an engine at a grain in the tenon that plays (R73, R195), with the source the engine's word asks for. -/
def State.tenonSlot (s : State) (e g : Nat) (lane : Lane) (src : CodeSource) : Option TenonSlot :=
  let t := match lane with
    | .main => (s.cl (engCl e)).curMain
    | .shadow => (s.cl (engCl e)).curShadow
  match t with
  | some x => x.slots.find? (fun y => y.eng == e % 4 && y.grain == g % 64 && decide (y.src = src))
  | none => none

/-- The frame that a cycle start is laid over: the copy of a dictionary entry, made when a cycle first plays a vector of it
(log entry 44), none when a line of the entry is poisoned (R217, R339); the zero frame without a dictionary entry. -/
def State.dictCopy (s : State) (e : Nat) (x : TenonSlot) (finds : Finds) : State × Option FrameBits :=
  match x.dict with
  | none => (s, some 0)
  | some (n, key) =>
    match (s.eng e).copies.find? (fun y => y.1 == key) with
    | some y => (s, some y.2)
    | none =>
      let a := dictAddr (engCl e) n
      let t := s.meet a 512 finds 1
      if t.anyPoison a 512 then (t, none)
      else
        let b : FrameBits := BitVec.ofNat 4096 (ofLe (t.bytesAt a 512))
        (t.updEng e (fun y => { y with copies := (key, b) :: y.copies }), some b)

/-- The code of unit u of a cycle start whose vector has number v, laid over a frame (R215, R217). -/
def TenonSlot.code (x : TenonSlot) (base : FrameBits) (v u : Nat) : Nat :=
  Nat.xor (slice x.codes (4 * u) 4) (slice base.toNat (64 * (v % 64) + 4 * u) 4)

/-- The lane that feeds an engine's pins at a grain (R195). -/
def EngSt.laneAt (x : EngSt) (g : Nat) : Lane :=
  if x.liveFrom ≤ g then x.live else (match x.live with
    | .main => .shadow
    | .shadow => .main)

/-- The programmed time of an edge in kerfs from the cycle start (R99). -/
def EdgeWord.time (x : EdgeWord) : Nat := x.grain * 64 + x.kerf

/-- Times in programmed order. -/
def naturalOrder : List EdgeWord → Bool
  | a :: b :: t => decide (a.time ≤ b.time) && naturalOrder (b :: t)
  | _ => true

/-- Whether a cycle's placed edges keep the natural order, and its window's strobes too (R106, R108). -/
def Cycle.ordered (x : Cycle) : Bool :=
  naturalOrder ([0, 1, 2, 3].filterMap x.used) && (!x.window || naturalOrder ([4, 5].filterMap x.used))

/-- Whether an EDGE-class cycle breaks the limits of R105: its period, or the GRAIN of an enabled edge, used by the code or not. -/
def Cycle.faulty (x : Cycle) : Bool :=
  !x.stream && (decide (x.period < 8) || x.edges.any (fun e => e.en && decide (x.period ≤ e.grain)))

/-! Substitution (R198). -/

/-- LC: the number of consecutive programmed fuses from fuse 0 (R445). -/
def State.lc (s : State) : Nat :=
  if nbit s.fuses 0 then (if nbit s.fuses 1 then (if nbit s.fuses 2 then 3 else 2) else 1) else 0

/-- Whether the secure scratchpad answers reads now (R354-R356): no wipe, TAMPER_N high, PRODUCTION or FIELD. -/
def State.secureOpen (s : State) : Bool :=
  !s.bit SEC_STAT SEC_STAT_WIPING && s.tamperN && (s.lc == 1 || s.lc == 2)

/-- The next secret bit of a substitution pointer k of engine index i, advancing the pointer; past the end of the secure
scratchpad bits read 0 and SUBST_END is set. After the last bit BIT_ADDR, which has 23 bits, reads 0 and stays (log entry 133). -/
def State.secretBit (s : State) (e k : Nat) : Bool × State :=
  let c := engCl e
  let a := ENG_SUBST_LO c (e % 4) k
  let n := s.fld a ENG_SUBST_LO_BIT_ADDR
  if nbit (s.eng e).substPast k then
    (false, (s.setBit (ENG_STAT c (e % 4)) ENG_STAT_SUBST_END true))
  else
    let b := s.secureOpen && nbit (s.byteAt (0x3FF00000000 + n / 8)).toNat (n % 8)
    let t := s.setFld a ENG_SUBST_LO_BIT_ADDR (n + 1)
    (b, if n + 1 = 2 ^ 23 then t.updEng e (fun x => { x with substPast := setNBit x.substPast k true }) else t)

/-- Whether the next secret bit lies in a poisoned line (R344). -/
def State.secretPoisoned (s : State) (e k : Nat) : Bool :=
  !nbit (s.eng e).substPast k && s.secureOpen &&
    s.poisoned (0x3FF00000000 + s.fld (ENG_SUBST_LO (engCl e) (e % 4) k) ENG_SUBST_LO_BIT_ADDR / 8)

/-- The run of an engine is to end with a status at grain g, none while the grain is not fixed; the earliest end stands (R185). -/
def State.endRun (s : State) (e code : Nat) (g : Option Nat) : State :=
  match (s.eng e).run with
  | some id => s.updRun id (fun r => match r.endCode with
      | some _ => (match r.endAt, g with
        | some a, some b => if b < a then { r with endCode := some code, endAt := some b } else r
        | some _, none => r
        | none, _ => r)
      | none => { r with endCode := some code, endAt := g })
  | none => s

/-- The lowest engine of an engine's run. -/
def State.lowestEngine (s : State) (e : Nat) : Nat :=
  match (s.eng e).run with
  | some id => (match s.runOf id with
    | some r => r.engines.foldl min e
    | none => e)
  | none => e

/-! The cycle start. -/

/-- The number of cycles of the word in progress that end by grain g, when a cycle ends or starts there. -/
def EngSt.cyclesBy (x : EngSt) (g : Nat) : Option Nat :=
  if x.baseAt ≤ g ∧ (g - x.baseAt) % x.period = 0 then some (x.baseCyc + (g - x.baseAt) / x.period) else none

/-- A pending branch or WAIT exit is due by grain g. -/
def EngSt.pendDue (x : EngSt) (g : Nat) : Bool :=
  match x.pend with
  | some p => decide (p.at_ ≤ g)
  | none => false

/-- The engine word that plays a cycle at grain g: a cycle of it starts there (R186, R188, R202). The answer is the number of the
cycle within the word. -/
def EngSt.cycleIndex (x : EngSt) (g : Nat) : Option Nat :=
  match x.word, x.cyclesBy g with
  | some w, some k => if x.halted = none ∧ x.pendDue g = false ∧ (w.seqOp = 6 ∨ k < w.cycles) then some k else none
  | _, _ => none

/-- The line of the secure scratchpad that holds a pointer's next bit is read (R334, R344). -/
def State.meetSecret (s : State) (e k : Nat) (finds : Finds) : State :=
  if nbit (s.eng e).substPast k || !s.secureOpen then s
  else s.meet (0x3FF00000000 + s.fld (ENG_SUBST_LO (engCl e) (e % 4) k) ENG_SUBST_LO_BIT_ADDR / 8) 1 finds 1

/-- Secret bits for units in ascending order, added to a mask of units and to their bits; none at a poisoned line (R198, R344). -/
def State.drawUnits (s : State) (e k : Nat) (finds : Finds) : List Nat → Nat → Nat → State × Option (Nat × Nat)
  | [], m, b => (s, some (m, b))
  | u :: us, m, b =>
    let t := s.meetSecret e k finds
    if t.secretPoisoned e k then (t, none)
    else
      let r := t.secretBit e k
      r.2.drawUnits e k finds us (setNBit m u true) (setNBit b u r.1)

/-- The secret bits of the cycle of an engine that starts at grain g are drawn and kept for its pins: for the served units in the
pointer's mask whose code is D0 or D1, in ascending unit index (R198). -/
def State.drawNow (s : State) (e g : Nat) (w : Micro) (code : Nat → Nat) (finds : Finds) : State × Option (Nat × Nat) :=
  let mask := s.fld (ENG_SUBST_HI (engCl e) (e % 4) w.substPtr) ENG_SUBST_HI_UNIT_MASK
  let units := (bitsOf 16 (s.eng e).served).filter (fun u => nbit mask u && (code u == 0 || code u == 1))
  let r := s.drawUnits e w.substPtr finds units 0 0
  match r.2 with
  | some (m, b) => (r.1.updEng e (fun y => { y with drawn := some (g, m, b) }), r.2)
  | none => r

/-- The secret bits of a cycle, drawn when its first pin starts it: the units that get one, and the bits (R198). -/
def State.draw (s : State) (e g : Nat) (w : Micro) (code : Nat → Nat) (finds : Finds) : State × Option (Nat × Nat) :=
  if !w.substEn then (s, some (0, 0))
  else match (s.eng e).drawn with
    | some (g', m, b) => if g' = g then (s, some (m, b)) else s.drawNow e g w code finds
    | none => s.drawNow e g w code finds

/-- The checks and reports of a cycle that places edges: BADCODE, ORDER and EDGE_ORDER (R107, R132); ORDER is free for an
unpredictable cycle (R105). -/
def State.reportCycle (s : State) (p : Nat) (x : Cycle) (raw : Nat) : State :=
  let c := pinCl p
  let t := if raw = 15 then s.orBit (FMT_STAT c) FMT_STAT_BADCODE (pinUnit p) else s
  let ordered := if x.unpred then Config.freeBool t.free else x.ordered
  let t := if x.unpred then t.useFree else t
  if ordered then t
  else
    let t := t.orBit (TMG_EDGE_STAT c) TMG_EDGE_STAT_ORDER (pinUnit p)
    match (t.eng x.eng).run with
    | some id =>
      if (t.fig c id).orderEvent then t
      else (t.updFig c id (fun y => { y with orderEvent := true })).event codeEdgeOrder 0 p 0 x.start
    | none => t

/-- The pin's new cycle stands as its present one; the earlier one may still place late edges. Receiver codes replaced before that
one began are forgotten. -/
def State.pushCycle (s : State) (p : Nat) (x : Cycle) : State :=
  s.updPin p (fun y => { y with
    prev := y.cyc, cyc := some x, count := x.count, hadCycle := true
    oldCodes := y.oldCodes.filter (fun o => match y.cyc with
      | some z => decide (z.start ≤ o.1)
      | none => true) })

/-- Scribe's windows see the cycle (R251, R252). -/
def State.scribeCycle (s : State) (p : Nat) (x : Cycle) : State :=
  let s := s.flushOld (pinCl p) (pinUnit p) x.start
  if x.counted then s.windowCycle (pinCl p) (pinUnit p) x.count x.start else s

/-- Whether the pin's previous cycle left a handover that a cycle in a missing tenon goes on with (R142, R143). -/
def PinSt.waving (x : PinSt) : Bool := x.player.isSome || (match x.cyc with
  | some y => y.code == 12
  | none => false)

/-- What comes before a cycle at a grain: the step point of APPLY PERIOD (R116, R117, Table 11-2), the clear of a latch in
PERIOD mode (R175, R176), the release of the driver (R136). -/
def State.beforeCycle (s : State) (p g : Nat) : State :=
  let c := pinCl p
  let t := if s.fld (CAL_CTRL c) CAL_CTRL_APPLY = 2 then s.stepPin p else s
  let t := if t.fbitF (CLP_CTRL c (pinUnit p)) CLP_CTRL_CLR_MODE then t.clearLatch p g else t
  let t := t.flushEdgeBy p g
  if t.holdNow p then t.holdPin p g else t.updPin p (fun y => { y with held := false })

/-- Whether a cycle's start grain lies in counted mode (R251). -/
def State.isCounted (s : State) (c g : Nat) : Bool :=
  match (s.cl c).scr.countedSince with
  | some b => decide (b ≤ g) && (s.cl c).scr.active && s.scrMode c == 0
  | none => false

/-- The engine's cycles follow a period that its pins copied at grain g, where a cycle of its word starts (R101, R102). -/
def EngSt.retime (x : EngSt) (g period : Nat) : EngSt :=
  match x.word, x.cyclesBy g with
  | some w, some k =>
    if period = x.period then x
    else { x with
      baseAt := g, baseCyc := k, period := period, nextAt := x.nextAt.map (fun _ => g + (w.cycles - k) * period) }
  | _, _ => x

/-- Two pins of an engine copied different periods on one grain: from there to the end of the run the pins that it serves are
unpredictable (R102). -/
def State.spoilEngine (s : State) (e : Nat) : State :=
  (bitsOf 16 (s.eng e).served).foldl (fun t u => t.updPin (16 * engCl e + u) (fun x => { x with
    cyc := x.cyc.map (fun y => { y with unpred := true }) })) (s.updEng e (fun x => { x with unpred := true }))

/-- A pin copies the period of the engine's timing set for the cycle that starts at grain g (R101, R102). -/
def State.copyPeriod (s : State) (e g : Nat) : Nat × State :=
  let per := s.wordAt (TSET_PERIOD (engCl e) (s.eng e).ts) g
  let n := per.1.toNat + 1
  let first := per.2.updEng e (fun x => { x.retime g n with copied := some (g, n) })
  match (per.2.eng e).copied with
  | some (g', n') => if g' = g then (n, if n' = n then per.2 else per.2.spoilEngine e) else (n, first)
  | none => (n, first)

/-- A pin starts a cycle in a missing tenon, or a cycle that plays idle codes: it places and takes nothing (R81, R188). -/
def State.startBare (s : State) (p e g vaddr : Nat) (missing idle : Bool) : State :=
  let per := s.copyPeriod e g
  let y := per.2.pin p
  let x : Cycle := {
    start := g, period := per.1, ts := (s.eng e).ts, stream := false, window := false, shape := 0,
    code := if missing ∧ y.waving then 12 else 3, edges := [], trims := [],
    count := if y.hadCycle then y.count + 1 else 0, vaddr := vaddr, eng := e,
    counted := per.2.isCounted (pinCl p) g, missing := missing, idle := idle }
  let t := (per.2.pushCycle p x).scribeCycle p x
  if idle ∧ !missing then
    (((t.flushEdge p).stopPlayer p g).updPin p (fun z => z.playIdle (s.idleCode p))).showContact s p g
  else t

/-- A pin starts a cycle with a code of a present tenon (R94, R95, R101, R130); a handover is in progress from the start of its first WAVE
cycle on (R141, Table 4-7). -/
def State.startCoded (s : State) (p e g vaddr raw : Nat) : State :=
  let c := pinCl p
  let u := pinUnit p
  let ts := (s.eng e).ts
  let y := s.pin p
  let nosource := raw = 12 ∧ ¬ s.hasMode c 1
  let code := if nosource then 2 else raw
  let s := if nosource then s.orBit (FMT_STAT c) FMT_STAT_NOSOURCE u else s
  let per := s.copyPeriod e g
  let ctl := per.2.wordAt (TSET_PIN_CTRL c ts u) g
  let stream := getB ctl.1 0
  let es := ctl.2.copyEdges c ts u g stream [0, 1, 2, 3, 4, 5]
  let t := es.2
  let x : Cycle := {
    start := g, period := per.1, ts := ts, stream := stream, window := getB ctl.1 1,
    shape := slice (t.inForce (FMT_SHAPE c ts)).toNat (2 * u) 2, code := code, edges := es.1,
    trims := (List.range 6).map (fun i => t.shimActive c (8 * u + i)),
    count := if y.hadCycle then y.count + 1 else 0, vaddr := vaddr, eng := e, counted := t.isCounted c g }
  let x := { x with unpred := x.faulty || (t.eng e).unpred }
  let t := if code = 12 then t.setBit (SEG_PIN c u) SEG_PIN_PLAYING true else t.stopPlayer p g
  let t := (t.pushCycle p x).updPin p (fun z => { z with idle := none })
  (t.reportCycle p x raw).scribeCycle p x

/-- A pin of an engine whose pins are unpredictable starts a cycle of any kind at any grain (R102). -/
def State.startFree (s : State) (p e g vaddr : Nat) : State :=
  let f := s.free
  let y := s.pin p
  let code := Config.freeNat f % 16
  let x : Cycle := {
    start := g, period := Config.freeNat (f + 1) % 2 ^ 32 + 1, ts := (s.eng e).ts, stream := Config.freeBool f,
    window := Config.freeBool (f + 1), shape := Config.freeNat (f + 2) % 4, code := code, edges := [],
    trims := [0, 0, 0, 0, 0, 0], count := if y.hadCycle then y.count + 1 else 0, vaddr := vaddr, eng := e,
    counted := s.isCounted (pinCl p) g, unpred := true }
  let t := { s with free := f + 3 }
  let t := if code = 12 then t else t.stopPlayer p g
  let t := (t.pushCycle p x).updPin p (fun z => { z with idle := none })
  (t.reportCycle p x code).scribeCycle p x

/-- The run of an engine ends at the start grain of cycle V, which depends on a stream fault or a lost line: the status, the
registers of R221 and the event of R342. -/
def State.lostVector (s : State) (e v g : Nat) (f : DecoderFault) : State :=
  let c := engCl e
  let s := s.updEng e (fun x => { x with halted := some g, capEn := false })
  match f with
  | .stream a =>
    let t := (s.setBit (VNR_STAT c) VNR_STAT_MALFORMED true).setPair (VNR_ERR_ADDR_LO c) (VNR_ERR_ADDR_HI c) (a % 2 ^ 42)
    (t.endRun e codeViolation (some g)).violation 0x05 byEngine 0 e a
  | .lost => (s.endRun e codeDataLost (some g)).event codeDataLost 2 e v g

/-- The source of the codes of a cycle with number k of a word (R188). -/
def EngSt.cycleSource (x : EngSt) (w : Micro) (k : Nat) : CodeSource :=
  match w.vmode, x.lastStream with
  | 0, _ => .vector ((x.vaddr + k) % 2 ^ 40)
  | 1, some v => .held v
  | _, _ => .idle

/-- A pin starts a cycle with the vector v that a slot of its tenon carries; a vector that depends on a stream fault or a lost line
ends the run there (R221, R339, R342, R344). -/
def State.startVector (s : State) (p e g va v : Nat) (w : Micro) (y : TenonSlot) (finds : Finds) : State :=
  match y.fault with
  | some f => s.lostVector e v g f
  | none =>
    let d := s.dictCopy e y finds
    match d.2 with
    | none => d.1.lostVector e v g .lost
    | some base =>
      let u := pinUnit p
      let r := (d.1.beforeCycle p g).draw e g w (y.code base v) finds
      match r.2 with
      | none => r.1.lostVector e va g .lost
      | some (m, b) => r.1.startCoded p e g va (if nbit m u then (if nbit b u then 1 else 0) else y.code base v u)

/-- CYCLE_START: at grain g a pin starts a cycle of the word that its engine plays, copies the words of the timing set and takes
the shim values and the code in force (R94-R107, R116, R117, R130-R142, R188). Outside such a grain nothing happens, unless the
engine's pins have become unpredictable (R102). -/
def execCycleStart (p : PinNo) (g : Nat) (finds : Finds) (s : State) : Host.Outcome State Fault Refusal :=
  match s.servedBy p.val with
  | none => ok s
  | some e =>
    let x := s.eng e
    let c := pinCl p.val
    if x.unpred && x.halted.isNone && !s.missingAt c g then ok (((s.at g).beforeCycle p.val g).startFree p.val e g x.vaddr)
    else match x.cycleIndex g, x.word with
      | some k, some w =>
        let va := if w.vmode = 0 then (x.vaddr + k) % 2 ^ 40 else x.vaddr
        if s.missingAt c g then ok (((s.at g).beforeCycle p.val g).startBare p.val e g va true false)
        else
          match s.tenonSlot e g (x.laneAt g) (x.cycleSource w k), x.cycleSource w k with
          | some _, .idle => ok (((s.at g).beforeCycle p.val g).startBare p.val e g va false true)
          | some y, .vector v => ok ((s.at g).startVector p.val e g va v w y finds)
          | some y, .held v => ok ((s.at g).startVector p.val e g va v w y finds)
          | none, _ => ok s
      | _, _ => ok s

/-- The cycle of a pin that started at a grain, its present one or the one before. -/
def State.cycleOf (s : State) (p start : Nat) : Option Cycle :=
  match (s.pin p).cyc with
  | some x => if x.start = start then some x else (match (s.pin p).prev with
    | some y => if y.start = start then some y else none
    | none => none)
  | none => none

/-- Whether an edge or strobe of a cycle with a programmed grain is cut (R194, R185). -/
def Cycle.cutAt (x : Cycle) (g : Nat) : Bool :=
  match x.cut with
  | some k => decide (k ≤ g)
  | none => false

/-- Whether a WAVE cycle that plays as DZ from a boundary has an edge before it: that edge is not placed (Table 15-1). -/
def Cycle.beforeDz (x : Cycle) (g : Nat) : Bool :=
  match x.dzFrom with
  | some b => decide (g < b)
  | none => false

/-- An edge of an unpredictable cycle: it may act on the driver in any way and at any time, and MERGED may be set (R102, R105). -/
def State.freeEdge (s : State) (p start : Nat) : State :=
  let f := s.free
  let t := { s with free := f + 3 }
  let t := if Config.freeBool f then t.orBit (TMG_EDGE_STAT (pinCl p)) TMG_EDGE_STAT_MERGED (pinUnit p) else t
  t.placeEdge p {
    time := 64 * start + Config.freeNat f, kind := .d1, turnOn := some (Config.freeBool (f + 1)),
    level := some (Config.freeNat (f + 1) % 64), trim := 0 }

/-- DRIVE_EDGE: a drive edge that the cycle uses is merged with its neighbours or placed (R100, R109-R115); one in a missing
tenon, of a cycle that started in one, or cut, is not placed (R81, R194). -/
def execDriveEdge (p : PinNo) (k : EdgeKind) (start : Nat) (s : State) : Host.Outcome State Fault Refusal :=
  match s.cycleOf p.val start with
  | none => ok s
  | some x =>
    if x.missing || x.idle then ok s
    else if x.unpred then ok ((s.at start).freeEdge p.val start)
    else match x.used (edgeIdx k) with
      | none => ok s
      | some e =>
        let g := start + e.grain
        if x.cutAt g || x.beforeDz g || s.missingAt (pinCl p.val) g then ok s
        else
          let a := edgeAction x.stream x.shape x.code k
          ok ((s.at g).mergeEdge p.val ⟨start * 64 + e.time, k, a.1, a.2, x.trims.getD (edgeIdx k) 0⟩)

/-! Strobes. -/

/-- The strobes a tag stands for: opening and closing programmed times in kerfs from the cycle start, and the index of the opening
strobe in Table 3-7 (R108, R163-R165). -/
def Cycle.strobeSpan (x : Cycle) (tag : StrobeTag) : Option (Nat × Nat × Nat) :=
  match tag, x.used 4, x.used 5 with
  | .a, some a, _ => if x.window then none else some (a.time, a.time, 4)
  | .b, _, some b => if x.window then none else some (b.time, b.time, 5)
  | .w, some a, some b =>
    if !x.window then none
    else if a.time ≤ b.time then some (a.time, b.time, 4) else some (b.time, a.time, 5)
  | .w, some a, none => if x.window then some (a.time, a.time, 4) else none
  | .w, none, some b => if x.window then some (b.time, b.time, 5) else none
  | _, _, _ => none

/-- The number of samples of a strobe or window (R164). -/
def sampleCount (o : Nat × Nat × Nat) : Nat := (o.2.1 - o.1) / 64 + 1

/-- The fail bits of a strobe's or window's samples, taken at consecutive grains from g on: the OR over the samples, each judged
against the thresholds of its grain (R160, R161, R164). -/
def State.judgeAll (s : State) (p code : Nat) : Nat → List Int → Bool × Bool
  | _, [] => (false, false)
  | g, v :: vs =>
    let x := judge code (s.ql p g v) (s.qh p g v)
    let r := s.judgeAll p code (g + 1) vs
    (x.1 || r.1, x.2 || r.2)

/-- The number a record's TAG field has for a tag (Table 8-2). -/
def tagNum : StrobeTag → Nat
  | .a => 0
  | .b => 1
  | .w => 2

/-- The engine's word closes at or before a grain: strobes from there on belong to the next word. -/
def EngSt.closedBy (x : EngSt) (g : Nat) : Bool :=
  match x.nextAt with
  | some n => decide (n ≤ g)
  | none => false

/-- A strobe of pin p at programmed grain g is seen by the branches that collect it: each running engine of the same run with an
open word; `miss` when it lay in a missing tenon (R82, R192, R197). -/
def State.collect (s : State) (p e g : Nat) (fail miss : Bool) : State :=
  match (s.eng e).run with
  | none => s
  | some id =>
    match s.runOf id with
    | none => s
    | some r =>
      r.engines.foldl (fun t k =>
        let x := t.eng k
        if x.word.isSome ∧ x.openAt ≤ g ∧ ¬ x.closedBy g then
          let own := k = e
          let reg := k / 32 = p / 128
          t.setEng k { x with coll := { x.coll with
            cl := x.coll.cl || (decide own && fail), rg := x.coll.rg || (decide reg && fail),
            pkg := x.coll.pkg || fail, sys := x.coll.sys || fail,
            missCl := if own then miss else x.coll.missCl, missRg := if reg then miss else x.coll.missRg,
            missPkg := miss } }
        else t) s

/-- A result of a pin whose deciding strobe has a programmed grain: sticky bits, CMP_FCNT, the run's figures, Scribe and branch
conditions (R162, R166-R168). -/
def State.result (s : State) (p : Nat) (x : Cycle) (tag grain : Nat) (lf hf tripped : Bool) : State :=
  let c := pinCl p
  let u := pinUnit p
  let t := if lf then s.orBit (CMP_FAIL_STICKY c) CMP_FAIL_STICKY_LF u else s
  let t := if hf then t.orBit (CMP_FAIL_STICKY c) CMP_FAIL_STICKY_HF u else t
  let t := if lf || hf then
      let t := t.countSat (CMP_FCNT c u) CMP_FCNT_COUNT 1
      match (t.eng x.eng).run with
      | some id => t.updFig c id (fun y => { y with
          failPins := setNBit y.failPins u true, failResults := satAdd 32 y.failResults 1,
          firstFail := match y.firstFail with
            | some z => some z
            | none => some (x.count, u) })
      | none => t
    else t
  (t.scribeResult p x tag grain lf hf tripped).collect p x.eng grain (lf || hf) false

/-- A strobe or window gives no result because of a missing tenon (R81): the pin's gap is marked when the grain of a strobe lay in
one (R255), and branches learn whether the deciding strobe did (R82, R197). -/
def State.lostStrobe (s : State) (p : Nat) (x : Cycle) (grain : Nat) (gap miss : Bool) : State :=
  (if gap then s.updPin p (fun y => { y with gap := true }) else s).collect p x.eng grain false miss

/-- STROBE_TAKEN: a taken strobe, or a window at its closing strobe, compares its samples with the expectation (R161-R168). The
pin voltages of the samples are in µV, taken from the placed time of the opening strobe on (R114, R164). A masked pin or one in the
safe state produces no result (R33, R44), nor does a cut strobe (R194), nor one that a missing tenon suppresses (R81). The result of
an unpredictable cycle is free (R102, R105). -/
def execStrobeTaken (p : PinNo) (tag : StrobeTag) (start : Nat) (microvolts : List Int) (s : State) :
    Host.Outcome State Fault Refusal :=
  match s.cycleOf p.val start with
  | none => ok s
  | some x =>
    let c := pinCl p.val
    if s.pinMasked p.val || s.safePin p.val then ok s
    else if x.missing then ok ((s.at start).lostStrobe p.val x start true true)
    else if x.unpred then
      ok (({ s.at start with free := s.free + 2 }).result p.val x (tagNum tag) (start + Config.freeNat s.free)
        (Config.freeBool s.free) (Config.freeBool (s.free + 1)) (s.trippedIn p.val start start))
    else match x.strobeSpan tag with
      | none => ok s
      | some o =>
        let g0 := start + o.1 / 64
        let o := if x.cutAt (start + o.2.1 / 64) && !x.cutAt g0 then (o.1, o.1, o.2.2) else o
        let g1 := start + o.2.1 / 64
        if x.cutAt g1 then ok s
        else if s.missingIn c g0 g1 then
          ok ((s.at g1).lostStrobe p.val x g1 (s.missingAt c g0 || s.missingAt c g1) (s.missingAt c g1))
        else if microvolts.length ≠ sampleCount o then ok s
        else
          let placed := (((start * 64 + o.1 : Nat) : Int) + x.trims.getD o.2.2 0) / 64
          let f := s.judgeAll p.val x.code placed.toNat microvolts
          ok ((s.at g1).result p.val x (tagNum tag) g1 f.1 f.2
            (s.trippedIn p.val placed.toNat (placed.toNat + microvolts.length - 1)))

/-! The start of a handover. -/

/-- HANDOVER_START: at the first tenon boundary at or after a WAVE cycle's start the player starts at START_ENTRY and the driver
turns on and plays samples (R141); in an underrun the player advances without driving (R143). -/
def execHandoverStart (p : PinNo) (b : Nat) (finds : Finds) (s : State) : Host.Outcome State Fault Refusal :=
  match (s.pin p.val).cyc with
  | some x =>
    if x.code = 12 ∧ (s.pin p.val).player = none ∧ s.hasMode (pinCl p.val) 1 ∧ b = boundaryAt x.start then
      let u := pinUnit p.val
      let t := ((s.at b).flushEdge p.val).setBit (SEG_PIN (pinCl p.val) u) SEG_PIN_PLAYING true
      let t := t.playEntry p.val (t.ffld (SEG_PIN (pinCl p.val) u) SEG_PIN_START_ENTRY) b 0 0 false finds
      if t.missingAt (pinCl p.val) b then ok t
      else
        let t := t.updPin p.val (fun y => { y with
          idleLeft := some (b, y.on, y.level), on := true, level := t.playerCode p.val b, idle := none })
        ok (t.showContact s p.val b)
    else ok s
  | none => ok s

end Sys2Proof.Machine
end

