-- ==== Sys2Proof/Machine/Decoder.lean ====
section
/-! DEFINITION. The Veneer decoder (R215-R221, R342, R343), the tenon dictionary (R222-R224, R214) and the fabric's writes of
tenons (R62, R74-R76, R80). -/

namespace Sys2Proof.Machine

/-- The bundle address of a cluster (Table 7-4). -/
def State.bundleOf (s : State) (c : Nat) : Nat :=
  s.fld (VNR_BUNDLE_LO c) VNR_BUNDLE_LO_ADDR_LO * 128 + s.fld (VNR_BUNDLE_HI c) VNR_BUNDLE_HI_ADDR_HI * 2 ^ 32

/-- The byte address of the directory entry of EN e in a bundle (R226). -/
def dirEntry (b e : Nat) : Nat := b + 0x80 + 16 * e

/-- A little-endian number of n bytes of memory, which may lie in the shared flow space (R48, R225). -/
def State.leAt (s : State) (a n : Nat) : Nat := ofLe (s.loadAll a n)

/-- Whether a byte address lies in HBM (Table 1-11). -/
def inHbm (a : Nat) : Bool := decide (a < 0x03000000000)

/-- A decode lane of an engine. -/
def EngSt.decoder (x : EngSt) : Lane → Decoder
  | .main => x.main
  | .shadow => x.shadow

/-- Write a decode lane of an engine. -/
def State.setDecoder (s : State) (e : Nat) (l : Lane) (d : Decoder) : State :=
  s.updEng e (fun x => match l with
    | .main => { x with main := d }
    | .shadow => { x with shadow := d })

/-- The address of the leaf table entry of a decoder's leaf (R216). -/
def Decoder.entryAddr (d : Decoder) : Nat := d.table + 8 * d.leaf

/-- A fault on which every vector from v on depends, but none before the restart's vector. -/
def Decoder.fail (d : Decoder) (v : Nat) (f : DecoderFault) : Decoder :=
  match d.fault with
  | some _ => d
  | none => { d with fault := some (max v d.from_, f) }

/-- The leaf table entry of the decoder's leaf is taken once its line is there (R216, R220, R221, R342). -/
def State.takeEntry (s : State) (d : Decoder) : Decoder :=
  if d.addr.isSome || d.fault.isSome then d
  else if d.leaves ≤ d.leaf then
    d.fail (4096 * d.leaf) (.stream (d.table + 8 * (max (4096 * d.leaf) d.from_ / 4096)))
  else if d.badLines.contains (d.entryAddr / 64) then d.fail (4096 * d.leaf) .lost
  else if d.lines.contains (d.entryAddr / 64) then
    let a := s.leAt d.entryAddr 8
    if a % 64 = 0 ∧ inHbm a then { d with addr := some a, frame := 0, prevFrame := {} }
    else d.fail (4096 * d.leaf) (.stream d.entryAddr)
  else d

/-- An engine decodes: its run has been admitted (R232, R234). -/
def State.decodes (s : State) (e : Nat) : Bool :=
  match (s.eng e).run.bind s.runOf with
  | some r => r.admitted
  | none => false

/-- DECODER_RESTART: a lane of an engine of an admitted run decodes anew from VADDR v, through the leaf table that admission has found in
the engine's directory entry: at the run start, a seek or a RET (R220, R226). -/
def execDecoderRestart (e : EngNo) (lane : Lane) (v : Nat) (s : State) : Host.Outcome State Fault Refusal :=
  if s.decodes e.val then
    let x := s.eng e.val
    let d : Decoder := {
      active := true, table := x.stream.table, leaves := x.stream.leaves, leaf := v / 4096, from_ := v,
      filled := (x.decoder lane).filled }
    ok (s.setDecoder e.val lane (s.takeEntry d))
  else ok s

/-- The lines a decoder may fetch next: that of its leaf table entry, or those its next frame can reach (at most 5 bytes and 16
bodies of 64 run tokens). -/
def Decoder.wants (d : Decoder) (line : Nat) : Bool :=
  match d.addr with
  | none => line == d.entryAddr / 64
  | some a => decide (a / 64 ≤ line) && decide (line ≤ (a + 1029) / 64)

/-- VECTOR_LINE_FETCH: a line of the stream or of the leaf table arrives; one that is poisoned, uncorrectable or answered with
BUS_ERROR is read from its mirror or cannot be used (R335, R342, Table 7-4). Only the number of the line is kept: where it lies in
the vector cache the spec does not say, and no scratchpad byte changes (log entry 43). -/
def execVectorLineFetch (e : EngNo) (lane : Lane) (addr : Nat) (finds : Finds) (s : State) :
    Host.Outcome State Fault Refusal :=
  let d := (s.eng e.val).decoder lane
  let line := addr / 64
  if d.active ∧ s.decodes e.val = true ∧ d.wants line ∧ ¬ d.lines.contains line ∧ ¬ d.badLines.contains line then
    let t := s.countSat (VNR_LINES (engCl e.val)) VNR_LINES_LINES 1
    let bad (t : State) : State := t.setDecoder e.val lane (t.takeEntry { d with badLines := line :: d.badLines })
    let good (t : State) : State := t.setDecoder e.val lane (t.takeEntry { d with lines := line :: d.lines })
    if !t.readOk (64 * line) 64 then ok (bad t)
    else
      let t := t.eccRead (64 * line) finds 1
      if t.poisoned (64 * line) then
        let r := t.readMirror (64 * line) finds 1
        ok (if r.1 then good r.2 else bad r.2)
      else ok (good t)
  else ok s

/-! Frames (R217-R219, Table 7-1). -/

/-- What parsing a run of bytes gave: the value, the bytes consumed, or a malformed coding found after so many bytes. -/
inductive Parsed (α : Type) where
  | got (x : α) (used : Nat)
  | malformed (used : Nat)

/-- The values of 64 vectors coded in run tokens: `left` vectors are missing, `used` bytes have been consumed (R218). -/
def parseTokens (left used : Nat) : List Byte → Parsed (List Nat)
  | [] => .malformed used
  | b :: bs =>
    let n := b.toNat % 16 + 1
    if left < n then .malformed (used + 1)
    else if n = left then .got (List.replicate n (b.toNat / 16)) (used + 1)
    else match parseTokens (left - n) (used + 1) bs with
      | .got l u => .got (List.replicate n (b.toNat / 16) ++ l) u
      | .malformed u => .malformed u

/-- The values of 64 vectors in a raw body of 32 bytes: the even vector in the low nibble (R218). -/
def rawBody (l : List Byte) : List Nat := (l.take 32).flatMap (fun b => [b.toNat % 16, b.toNat / 16])

/-- The frame bits of the lane values of one unit (R215). -/
def laneBits (u : Nat) (vals : List Nat) : FrameBits :=
  BitVec.ofNat 4096 ((vals.foldr (fun v m => 2 ^ 64 * m + v % 16) 0) * 2 ^ (4 * u))

/-- The lane bodies of the units u, u + 1, … in ascending order (R218). -/
def parseLanes (present raw : Nat) (used : Nat) : Nat → Nat → List Byte → FrameBits → Parsed FrameBits
  | 0, _, _, acc => .got acc used
  | n + 1, u, l, acc =>
    if nbit present u then
      if nbit raw u then parseLanes present raw (used + 32) n (u + 1) (l.drop 32) (acc ||| laneBits u (rawBody l))
      else match parseTokens 64 0 l with
        | .got v k => parseLanes present raw (used + k) n (u + 1) (l.drop k) (acc ||| laneBits u v)
        | .malformed k => .malformed (used + k)
    else parseLanes present raw used n (u + 1) l acc

/-- A frame header with what follows: the frames it produces (Table 7-1). A DICT frame is copy `copy` of its dictionary entry. -/
def parseFrame (prev : SymFrame) (frame copy : Nat) (l : List Byte) : Parsed (List SymFrame) :=
  let h := (l.headD 0).toNat
  match h / 64 with
  | 2 => .got [{ dict := some (((l.drop 1).headD 0).toNat, copy) }] 2
  | 3 => if 64 < frame + h % 64 + 1 then .malformed 1 else .got (List.replicate (h % 64 + 1) prev) 1
  | k =>
    match parseLanes (ofLe ((l.drop 1).take 2)) (ofLe ((l.drop 3).take 2)) 5 16 0 (l.drop 5) 0 with
    | .got x used => .got [if k = 0 then { bits := x } else { prev with bits := prev.bits ^^^ x }] used
    | .malformed used => .malformed used

/-- Frames numbered from n on are added to those decoded. -/
def numberFrames (n : Nat) : List SymFrame → List (Nat × SymFrame)
  | [] => []
  | x :: xs => (n, x) :: numberFrames (n + 1) xs

/-- FRAME_DECODE: the next frame of a leaf is decoded once every byte of it has been fetched; a malformed one is a stream fault,
and one with a byte in a line that cannot be used is lost (R217-R221, R342). -/
def execFrameDecode (e : EngNo) (lane : Lane) (s : State) : Host.Outcome State Fault Refusal :=
  let d := (s.eng e.val).decoder lane
  match d.addr with
  | some a =>
    if d.active ∧ d.fault = none ∧ s.decodes e.val = true then
      let n := 64 * d.leaf + d.frame
      let r := parseFrame d.prevFrame d.frame (s.eng e.val).copyNo (s.bytesAt a 1029)
      let used := match r with
        | .got _ k => k
        | .malformed k => k
      let need := linesOf a used
      let firstOff := need.find? (fun k => !d.lines.contains k)
      match firstOff with
      | some k =>
        if d.badLines.contains k then ok (s.setDecoder e.val lane (d.fail (64 * n) .lost)) else ok s
      | none =>
        match r with
        | .malformed _ => ok (s.setDecoder e.val lane (d.fail (64 * n) (.stream a)))
        | .got fs _ =>
          let d := { d with
            frames := d.frames ++ numberFrames n fs, prevFrame := fs.getLastD {}, frame := d.frame + fs.length,
            addr := some (a + used) }
          let d := if 64 ≤ d.frame then s.takeEntry { d with leaf := d.leaf + 1, frame := 0, addr := none, prevFrame := {} } else d
          ok ((s.setDecoder e.val lane d).updEng e.val (fun x => { x with copyNo := x.copyNo + 1 }))
    else ok s
  | none => ok s

/-! Tenons. -/

/-- START_FILL in force: below 128 acts as 128, above 512 acts as 512 (Table 2-6). -/
def State.startFill (s : State) (c : Nat) : Nat := max 128 (min 512 (s.ffld (TMG_LEAD_CTRL c) TMG_LEAD_CTRL_START_FILL))

/-- The lead of a cluster (R75): the tenons held ahead of the pins in the array that plays. Those made for a run that has not
started share the entries of that array (log entry 49). -/
def ClSt.lead (x : ClSt) (shadowLive : Bool) : Nat :=
  max (if shadowLive then x.shadow.length else x.mortise.length) x.fill.length

/-- The engines of a cluster. -/
def clEngines (c : Nat) : List Nat := [4 * c, 4 * c + 1, 4 * c + 2, 4 * c + 3]

/-- An engine plays: its run has started and its part has not ended. -/
def State.playing (s : State) (e : Nat) : Bool :=
  (match (s.eng e).run with
    | some id => (match s.runOf id with
      | some r => r.start.isSome
      | none => false)
    | none => false) && (s.eng e).halted.isNone

/-- Every playing engine of the cluster plays from the shadow array at a grain (R195). -/
def State.shadowLive (s : State) (c g : Nat) : Bool :=
  let l := (clEngines c).filter s.playing
  !l.isEmpty && l.all (fun e => decide ((s.eng e).laneAt g = .shadow))

/-- LEVEL of a cluster (Table 2-5). -/
def State.level (s : State) (c : Nat) : Nat := min 512 ((s.cl c).lead (s.shadowLive c s.gt))

/-- A vector that a lane of an engine has put into a tenon (R188): the lane's latest, or else the other lane's (log entry 46). -/
def EngSt.filledVector (x : EngSt) (lane : Lane) (v : Nat) : Option (Option (Nat × Nat) × Nat) :=
  match (x.decoder lane).filled.find? (fun y => y.1 == v), (x.main.filled ++ x.shadow.filled).find? (fun y => y.1 == v) with
  | some y, _ => some y.2
  | none, some y => some y.2
  | none, none => none

/-- The cycle start of a slot: its codes come from the engine's decoded frames in a STREAM cycle, from the vector filled last in a
HOLD cycle; none while the vector is not there yet (R73, R188, R195). -/
def State.fillSlot (s : State) (c : Nat) (lane : Lane) (y : CycleSlot) : Option TenonSlot :=
  let x := s.eng (4 * c + y.eng.val)
  let base : TenonSlot := { eng := y.eng.val, grain := y.grain.val, src := y.src, dict := none, codes := 0, fault := none }
  let failing (v : Nat) : Option TenonSlot := match (x.decoder lane).fault with
    | some f => if f.1 ≤ v then some { base with fault := some f.2 } else none
    | none => none
  match y.src with
  | .idle => some base
  | .vector v =>
    match (x.decoder lane).frames.find? (fun f => f.1 == v / 64) with
    | some f => some { base with dict := f.2.dict, codes := slice f.2.bits.toNat (64 * (v % 64)) 64 }
    | none => failing v
  | .held v =>
    match x.filledVector lane v with
    | some f => some { base with dict := f.1, codes := f.2 }
    | none => failing v

/-- The vectors of a tenon's STREAM cycles stand as filled by a lane (R188). -/
def State.noteFilled (s : State) (c : Nat) (lane : Lane) (l : List TenonSlot) : State :=
  l.foldl (fun t y => match y.src with
    | .vector v =>
      let d := (t.eng (4 * c + y.eng)).decoder lane
      t.setDecoder (4 * c + y.eng) lane { d with filled := (v, y.dict, y.codes) :: d.filled.filter (fun z => z.1 != v) }
    | _ => t) s

/-- Every slot of a tenon, or none while one is not there. -/
def State.fillSlots (s : State) (c : Nat) (lane : Lane) : List CycleSlot → Option (List TenonSlot)
  | [] => some []
  | y :: ys => match s.fillSlot c lane y, s.fillSlots c lane ys with
    | some a, some l => some (a :: l)
    | _, _ => none

/-- A tenon joins an array: its cycle starts are added to the tenon with the same stamp, if the array holds one. -/
def addTenon (l : List Tenon) (t : Tenon) : List Tenon :=
  if l.any (fun x => x.stamp == t.stamp) then
    l.map (fun x => if x.stamp = t.stamp then { x with engs := x.engs ||| t.engs, slots := x.slots ++ t.slots } else x)
  else l ++ [t]

/-- An array of 512 tenons has room for a tenon: a free entry, or one with its stamp (R74). -/
def hasEntry (l : List Tenon) (t : Tenon) : Bool := decide (l.length < 512) || l.any (fun x => x.stamp == t.stamp)

/-- Tenons enter an array in order while it has room; the others are left over (R74). -/
def addTenons (l : List Tenon) : List Tenon → List Tenon × List Tenon
  | [] => (l, [])
  | t :: ts =>
    if hasEntry l t then addTenons (addTenon l t) ts
    else
      let r := addTenons l ts
      (r.1, t :: r.2)

/-- A cluster reports to its forming run when its lead has reached START_FILL, unless an interruption or a kept summary holds the
report back, or the package has joined a domain whose link term is not yet adopted (R76, R311, R484, R503). -/
def State.reportFill (s : State) (c : Nat) : State :=
  if s.interrupted c ∨ (s.cl c).kept = true ∨ (s.vyn.joined = true ∧ s.domainOthers ≠ 0) then s
  else
    { s with runs := s.runs.map (fun r =>
        if r.start = none ∧ r.admitted = true ∧ ¬ r.reports.contains c ∧
            r.engines.any (fun e => engCl e == c) = true ∧
            s.startFill c ≤ ((s.cl c).fill.filter (fun x => x.1 == r.id)).length then
          { r with reports := c :: r.reports, lastReport := s.gt }
        else r) }

/-- The run for which a tenon of a cluster is made: the started run of the engines of its slots, or the forming run of the
cluster. -/
def State.formingIn (s : State) (c : Nat) : Option Run :=
  s.runs.find? (fun r => r.start.isNone && r.admitted && r.engines.any (fun e => engCl e == c))

/-- Whether a cluster plays a started run. -/
def State.clPlaying (s : State) (c : Nat) : Bool := (clEngines c).any s.playing

/-- The engine indexes of a cluster whose path a tenon of a lane holds (R195): those that play from the lane, those that its cycle
starts name, those with a pending branch; with none of these, every playing engine (log entry 52). -/
def State.pathMask (s : State) (c : Nat) (lane : Lane) (l : List TenonSlot) : Nat :=
  let act := (clEngines c).filter s.playing
  let mine := act.filter (fun e => decide ((s.eng e).live = lane) || l.any (fun y => y.eng == e % 4) ||
    (match (s.eng e).pend with
      | some p => !p.isWait
      | none => false))
  maskOf ((if mine.isEmpty then act else mine).map (· % 4))

/-- The array that a lane of a cluster fills. -/
def ClSt.array (x : ClSt) : Lane → List Tenon
  | .main => x.mortise
  | .shadow => x.shadow

/-- A tenon enters an array that has room for it (R74). -/
def State.enterTenon (s : State) (c : Nat) (lane : Lane) (t : Tenon) : State :=
  let u := if hasEntry ((s.cl c).array lane) t then s.updCl c (fun y => match lane with
      | .main => { y with mortise := addTenon y.mortise t }
      | .shadow => { y with shadow := addTenon y.shadow t }) else s
  u.noteFilled c lane t.slots

/-- A cut run ends one tenon later, since the tenon that was in production at the cut has been completed (R420). -/
def Run.cutLater (b : Nat) (r : Run) : Run := if r.endAt = some (b - 1) then { r with endAt := some (b + 63) } else r

/-- The tenon stamped for boundary b that was in production at a cut is completed: the cluster's part of its runs ends after it (R420, log
entry 81). -/
def State.completeCut (s : State) (c b : Nat) (lane : Lane) (t : Tenon) : State :=
  if hasEntry ((s.cl c).array lane) t then
    let u := (s.enterTenon c lane t).updCl c (fun x => { x with
      cutEnd := some (b + 64), cutLast := false, svc := x.svc.map (fun v => { v with eGrain := some (b + 64) }) })
    { u with runs := u.runs.map (fun r => if r.engines.any (fun e => engCl e == c) then r.cutLater b else r) }
  else s

/-- A tenon of a started run enters the Mortise or the shadow array, or is lost when its boundary has passed; after a cut only the tenon
that was in production then is still made (R74, R80, R195, R420). -/
def State.storeTenon (s : State) (c : Nat) (lane : Lane) (t : Tenon) : State :=
  let x := s.cl c
  let late := match x.boundary with
    | some b => decide (t.stamp ≤ b)
    | none => false
  match x.cutEnd with
  | some b =>
    if t.stamp = b ∧ x.cutLast = true ∧ late = false then s.completeCut c b lane t
    else if b ≤ t.stamp then s
    else if late then s.countSat (TMG_UR_LOST c) TMG_UR_LOST_LOST 1
    else s.enterTenon c lane t
  | none => if late then s.countSat (TMG_UR_LOST c) TMG_UR_LOST_LOST 1 else s.enterTenon c lane t

/-- LEAD_LOW events are armed again once LEVEL has reached 128 (R78). -/
def State.armLead (s : State) (c : Nat) : State :=
  if 128 ≤ s.level c then s.updCl c (fun y => { y with leadArmed := true }) else s

/-- TENON_PRODUCED: the fabric writes one tenon (R62, R73-R76, R80). The codes come from the decoded frames of the engines that the
cycle starts name; while a vector is missing no tenon is made. It is a transfer on the link of the slice die (R46). Before a run's start grain is fixed the stamp counts from it. -/
def execTenonProduced (c : ClNo) (lane : Lane) (stamp : Nat) (slots : List CycleSlot) (s : State) :
    Host.Outcome State Fault Refusal :=
  match s.fillSlots c.val lane slots with
  | none => ok s
  | some l =>
    let s := s.sliceSeen (c.val / 8)
    let own (r : Run) : Bool := l.all (fun y => r.engines.contains (4 * c.val + y.eng))
    let playing : State := if s.clPlaying c.val then
        (s.storeTenon c.val lane ⟨stamp, s.pathMask c.val lane l, l⟩).armLead c.val
      else s
    match s.formingIn c.val with
    | some r =>
      if own r ∧ (l ≠ [] ∨ ¬ s.clPlaying c.val) then
        let x : Tenon := ⟨stamp, maskOf ((r.engines.filter (fun e => engCl e == c.val)).map (· % 4)), l⟩
        let u := match lane with
          | .main => if 512 ≤ (s.cl c.val).fill.length then s
              else s.updCl c.val (fun y => { y with fill := y.fill ++ [(r.id, x)] })
          | .shadow => if 512 ≤ (s.cl c.val).fillShadow.length then s
              else s.updCl c.val (fun y => { y with fillShadow := y.fillShadow ++ [(r.id, x)] })
        ok (((u.noteFilled c.val lane l).reportFill c.val).armLead c.val)
      else ok playing
    | none => ok playing

end Sys2Proof.Machine
end

