-- ==== Sys2Proof/Machine/Tia.lean ====
section
/-! DEFINITION. Time-interval measurement (R119-R129) and writes of shim targets (R113, R118). Times are in 1/16 kf. -/

namespace Sys2Proof.Machine

/-- 1/16 kf of one grain. -/
def t16PerGrain : Nat := 1024

/-- The time span of GT in 1/16 kf: 2^70 kf (R126). -/
def t16Span : Nat := 2 ^ 74

/-- The reported time of a stamp: the raw time minus the ACTIVE value of the pin's STAMP shim (R114); before GT 0 it is taken
modulo the span. -/
def State.stampTime (s : State) (p t16 : Nat) : Nat :=
  let v : Int := (t16 : Int) - 16 * s.shimActive (pinCl p) (8 * pinUnit p + 6)
  if v < 0 then (v % (t16Span : Int)).toNat else v.toNat

/-- An edge direction matches START_EDGE or STOP_EDGE: 0 rise, 1 fall, 2 either, 3 acts as 0 (Table 3-9). -/
def edgeMatches (sel : Nat) (rising : Bool) : Bool :=
  match sel with
  | 1 => !rising
  | 2 => true
  | _ => rising

/-- MODE in force of a time-interval unit: 0 off, 1 STAMP, 2 INTERVAL; 3 acts as 0. -/
def State.tiaMode (s : State) (c u : Nat) : Nat :=
  let m := s.ffld (TMG_TIA_CTRL c u) TMG_TIA_CTRL_MODE
  if m = 3 then 0 else m

/-- Whether a unit uses a pin of its cluster as a source, by unit index (R120): units that are off use none, and STOP_SRC counts in
INTERVAL mode only (log entry 58). -/
def State.tiaUses (s : State) (c u src : Nat) : Bool :=
  (s.tiaMode c u != 0 && s.ffld (TMG_TIA_CTRL c u) TMG_TIA_CTRL_START_SRC == src) ||
    (s.tiaMode c u == 2 && s.ffld (TMG_TIA_CTRL c u) TMG_TIA_CTRL_STOP_SRC == src)

/-- One event or result of a unit was discarded (Table 3-10). -/
def State.tiaDrop (s : State) (c u : Nat) : State := s.countSat (TIA_STAT c u) TIA_STAT_DROP 1

/-- A result enters the queue of 64 entries, or is discarded (R127). -/
def State.tiaPush (s : State) (c u : Nat) (x : TiaEntry) : State :=
  if 64 ≤ (s.pin (16 * c + u)).tia.results.length then s.tiaDrop c u
  else s.updPin (16 * c + u) (fun y => { y with tia := { y.tia with results := y.tia.results ++ [x] } })

/-- The WRAP flag of a time as it is reported, after the STAMP shim (R129, log entry 131). -/
def wrapped (t : Nat) : Bool := decide (t16Span ≤ t)

/-- The result entry of a stamp (R123, Table 3-10). -/
def stampEntry (t : Nat) (rising : Bool) : TiaEntry :=
  let gt := t / t16PerGrain % 2 ^ 64
  { res0 := BitVec.ofNat 32 gt, res1 := BitVec.ofNat 32 (gt / 2 ^ 32),
    res2 := BitVec.ofNat 32 (2 ^ 31 + (if wrapped t then 2 ^ 27 else 0) + (if rising then 0 else 2 ^ 26) +
      t / 16 % 64) }

/-- The interval of a pair in kerfs: stop minus start modulo 2^70 kf, read as signed, truncated towards zero (R126). -/
def intervalKf (start stop : Nat) : Int := (sx 74 (ux 74 ((stop : Int) - start))).tdiv 16

/-- The result entry of a pair (R126, Table 3-10). -/
def intervalEntry (start stop : Nat) : TiaEntry :=
  let d := intervalKf start stop
  let sat := decide ((2 : Int) ^ 47 ≤ d.natAbs)
  let v : Int := if sat then (if d < 0 then -(2 ^ 47 - 1) else 2 ^ 47 - 1) else d
  let w := ux 48 v
  { res0 := BitVec.ofNat 32 w, res1 := BitVec.ofNat 32 (w / 2 ^ 32),
    res2 := BitVec.ofNat 32 (2 ^ 31 + (if d = 0 then 2 ^ 30 else 0) + (if d < 0 then 2 ^ 29 else 0) +
      (if sat then 2 ^ 28 else 0) + (if wrapped stop then 2 ^ 27 else 0)) }

/-- A start event of a unit in INTERVAL mode (R124). -/
def State.tiaStart (s : State) (c u t : Nat) : State :=
  let x := (s.pin (16 * c + u)).tia
  match x.stops with
  | e :: r => (s.updPin (16 * c + u) (fun y => { y with tia := { y.tia with stops := r } })).tiaPush c u (intervalEntry t e)
  | [] =>
    if 16 ≤ x.starts.length then s.tiaDrop c u
    else s.updPin (16 * c + u) (fun y => { y with tia := { y.tia with starts := y.tia.starts ++ [t] } })

/-- A stop event of a unit in INTERVAL mode (R124). -/
def State.tiaStop (s : State) (c u t : Nat) : State :=
  let x := (s.pin (16 * c + u)).tia
  match x.starts with
  | b :: r => (s.updPin (16 * c + u) (fun y => { y with tia := { y.tia with starts := r } })).tiaPush c u (intervalEntry b t)
  | [] =>
    if 16 ≤ x.stops.length then s.tiaDrop c u
    else s.updPin (16 * c + u) (fun y => { y with tia := { y.tia with stops := y.tia.stops ++ [t] } })

/-- GATE lets an event of a grain through: with GATE 1 only grains where the capture enable of the serving engine, taken as that of
the event's source pin (log entry 59), is set and the tenon was present (R121, Table 3-9). -/
def State.tiaGate (s : State) (c u src g : Nat) : Bool :=
  if s.fbitF (TMG_TIA_CTRL c u) TMG_TIA_CTRL_GATE then
    (match s.servedBy (16 * c + src) with
      | some e => (s.eng e).capEn
      | none => false) && !s.missingAt c g
  else true

/-- One stamped event offered to unit u (R121-R125). -/
def State.tiaEvent (s : State) (c src g t : Nat) (rising : Bool) (u : Nat) : State :=
  let a := TMG_TIA_CTRL c u
  if s.tiaUses c u src && s.tiaGate c u src g then
    let isStart := s.ffld a TMG_TIA_CTRL_START_SRC = src ∧ edgeMatches (s.ffld a TMG_TIA_CTRL_START_EDGE) rising
    if s.tiaMode c u = 1 then (if isStart then s.tiaPush c u (stampEntry t rising) else s)
    else
      let isStop := s.ffld a TMG_TIA_CTRL_STOP_SRC = src ∧ edgeMatches (s.ffld a TMG_TIA_CTRL_STOP_EDGE) rising
      if isStart ∧ isStop then
        (if (s.pin (16 * c + u)).tia.starts = [] then s.tiaStart c u t else s.tiaStop c u t)
      else if isStart then s.tiaStart c u t
      else if isStop then s.tiaStop c u t
      else s
  else s

/-- PIN_EDGE_STAMPED: the receiver of pin p sees an edge at raw time t16. The first of its direction in its grain is stamped and
offered to every unit of the cluster; a further one is dropped by every unit that uses the pin (R119-R127). -/
def execPinEdgeStamped (p : PinNo) (rising : Bool) (t16 : Nat) (s : State) : Host.Outcome State Fault Refusal :=
  let c := pinCl p.val
  let src := pinUnit p.val
  let g := t16 / t16PerGrain
  let x := s.pin p.val
  let last := if rising then x.lastRise else x.lastFall
  if last = some g then
    ok ((List.range 16).foldl (fun t u => if t.tiaUses c u src then t.tiaDrop c u else t) (s.at g))
  else
    let t := (s.at g).updPin p.val (fun y => if rising then { y with lastRise := some g } else { y with lastFall := some g })
    let time := t.stampTime p.val t16
    ok ((List.range 16).foldl (fun t u => t.tiaEvent c src g time rising u) t)

/-- A write of TMG_TIA_CTRL: one that changes MODE empties the result queue and the pending events; what is written takes effect
from a tenon boundary (R122). -/
def State.tiaWrite (s : State) (c u : Nat) (value : Word) : State :=
  let a := TMG_TIA_CTRL c u
  let old := s.fld a TMG_TIA_CTRL_MODE
  let t := s.partnerWrite a value 15
  let t := if t.fld a TMG_TIA_CTRL_MODE = old then t else t.updPin (16 * c + u) (fun y => { y with tia := {} })
  t.sendPin a (t.reg a)

/-- TIA_MODE_WRITE. -/
def execTiaModeWrite (port : PortNo) (c : ClNo) (u : UnitNo) (value : Word) (s : State) : Host.Outcome State Fault Refusal :=
  ok (s.reach port.val (TMG_TIA_CTRL c.val u.val) (fun s => s.tiaWrite c.val u.val value))

/-- A read of TIA_RES0 takes the oldest entry and loads the shadows RES1 and RES2 (R128). -/
def State.tiaRead (s : State) (c u : Nat) : Word × State :=
  match (s.pin (16 * c + u)).tia.results with
  | x :: r =>
    (x.res0, ((s.updPin (16 * c + u) (fun y => { y with tia := { y.tia with results := r } })).setReg
      (TIA_RES1 c u) x.res1).setReg (TIA_RES2 c u) x.res2)
  | [] => (0, s.setBit (TIA_RES2 c u) TIA_RES2_VALID false)

/-- TIA_RES0_READ: the entry's RES0 word returns to the port; an empty queue returns 0 (R128). -/
def execTiaRes0Read (port : PortNo) (c : ClNo) (u : UnitNo) (s : State) : Host.Outcome State Fault Refusal :=
  ok (s.readReach port.val (TIA_RES0 c.val u.val) (s.tiaRead c.val u.val))

/-- SHIM_TARGET_WRITE: the movement of the shim goes on from its present ACTIVE value (R113, R118). -/
def execShimTargetWrite (port : PortNo) (c : ClNo) (i : Fin 128) (value : Word) (s : State) :
    Host.Outcome State Fault Refusal :=
  ok (s.reach port.val (TMG_SHIM c.val i.val) (fun s => s.shimSet c.val i.val (getF value TMG_SHIM_TARGET)))

end Sys2Proof.Machine
end

