-- ==== Sys2Proof/Machine/Reads.lean ====
section
/-! DEFINITION. What a read of a register returns and leaves (R19, R21, R52, R72), and reads of any address by the pattern engines and
flow engines of the package (R48, R353). -/

namespace Sys2Proof.Machine

/-! Registers. -/

/-- The _HI register of a pair read as R72, by its _LO register. -/
def pairHi (a : Nat) : Option Nat :=
  match regLoc a with
  | none => none
  | some l =>
    if a = SYS_GT_LO then some SYS_GT_HI
    else if a = VYN_SYNC_GT_LO then some VYN_SYNC_GT_HI
    else if l.win = 0 ∧ (a = TMG_UR_GT_LO l.num ∨ a = CAL_INT_GT_LO l.num ∨ a = MOD_DRAIN_GT_LO l.num) then some (a + 4)
    else none

/-- Whether a register is the _HI register of such a pair. -/
def isPairHi (a : Nat) : Bool := decide (4 ≤ a) && (pairHi (a - 4) == some a)

/-- The 64 bits of a pair now. -/
def State.pairNow (s : State) (lo hi : Nat) : Nat := if lo = SYS_GT_LO then s.gt64 else s.pair lo hi

/-- A read of a _LO register takes the pair's shadow (R72). -/
def State.pairRead (s : State) (lo hi : Nat) : Word × State :=
  (loHalf (s.pairNow lo hi), { s with shadows := tput (fun _ => 0) s.shadows hi (hiHalf (s.pairNow lo hi)) })

/-- PRE_FULL: sample A + PRE of an armed or acquiring digitiser has passed (Table 9-5). -/
def State.preFull (s : State) (d : Nat) : Bool :=
  match (s.dig d).phase, (s.dig d).cfg with
  | .armed a, some x => decide (a + x.preN < s.gt)
  | .acquiring a _ _, some x => decide (a + x.preN < s.gt)
  | _, _ => false

/-- A cluster register's value now: what follows from the rest of the state is put in. -/
def State.liveCluster (s : State) (c blk off : Nat) (w : Word) : Word :=
  match blk with
  | 2 =>
    if off = 0xf0000 then setF w TMG_LEAD_LEVEL (s.level c)
    else if 0x30000 ≤ off ∧ off < 0x30200 ∧ off % 32 = 16 then
      setF w TIA_STAT_LEVEL (s.pin (16 * c + (off - 0x30000) / 32)).tia.results.length
    else w
  | 9 => if off = 0x14 then setF w SCR_STAT_FILL (s.scrFill c) else w
  | 10 => if off % 256 = 0x30 then setF w ACQ_STAT_PRE_FULL (if s.preFull (2 * c + off / 256) then 1 else 0) else w
  | 12 => if off = 0x14 then setF w ADC_QSTAT_LEVEL (s.adc c).queue.length else w
  | _ => w

/-- A register's value now. PKG_ID of every SYS_IDENT, LC, TAMPER_NOW, the UID and the levels of queues are not stored (R37, R445, R355,
R467). -/
def State.live (s : State) (a : Nat) (l : RegLoc) : Word :=
  let w := s.reg a
  if l.blk = 0 ∧ l.off = 0 ∧ l.win < 3 then setF w SYS_IDENT_PKG_ID s.pkgId
  else if l.win = 0 then s.liveCluster l.num l.blk l.off w
  else if a = BNC_STAT then setF w BNC_STAT_WAITING s.bench.length
  else if a = VYN_UID_LO then loHalf Config.uid.toNat
  else if a = VYN_UID_HI then hiHalf Config.uid.toNat
  else if a = SEC_STAT then setF (setF w SEC_STAT_LC s.lc) SEC_STAT_TAMPER_NOW (if s.tamperN then 0 else 1)
  else if l.win = 1 ∧ a = PC_QSTAT l.num then setF w PC_QSTAT_LEVEL (s.rg l.num).prec.queue.length
  else if l.win = 1 ∧ a = DMA_POOL_STAT l.num then setF w DMA_POOL_STAT_FREE (s.rg l.num).poolFree.length
  else w

/-- A read of MEM_CL_MEMTEST while MEMTEST runs: BLOCKS has risen by a free value since it was last read, since stage turns are not
counted (log entry 7). -/
def State.memtestRead (s : State) (a : Nat) : Word × State :=
  let k := s.fld a MEM_CL_MEMTEST_BLOCKS
  let t := (s.setFld a MEM_CL_MEMTEST_BLOCKS (k + Config.freeNat s.free % (1025 - k))).useFree
  (t.reg a, t)

/-- A read of a register whose read is more than its value: queues, allocation, flags; none for another register. -/
def State.readSpecial (s : State) (a : Nat) (l : RegLoc) : Option (Word × State) :=
  if l.win = 0 ∧ l.blk = 2 ∧ 0x30000 ≤ l.off ∧ l.off < 0x30200 ∧ l.off % 32 = 4 then
    some (s.tiaRead l.num ((l.off - 0x30000) / 32))
  else if l.win = 0 ∧ a = ADC_RESULT l.num then some (s.convRead (.sar (Fin.ofNat 64 l.num)))
  else if l.win = 1 ∧ a = PC_RESULT l.num then some (s.convRead (.pc (Fin.ofNat 8 l.num)))
  else if l.win = 1 ∧ a = DMA_ALLOC l.num then some (s.allocRing l.num)
  else if l.win = 1 ∧ a = DMA_POOL_TAKE l.num then some (s.poolRead l.num)
  else if l.win = 0 ∧ a = MEM_CL_MEMTEST l.num ∧ s.bit a MEM_CL_MEMTEST_BUSY then
    some (s.memtestRead a)
  else (flagReg a).map (fun x => (s.flagWord x.1, s))

/-- A read of a register with its side effects (R19, R21, R72). A reserved offset reads 0 (R52). -/
def State.readReg (s : State) (a : Nat) : Word × State :=
  match regLoc a with
  | none => (0, s)
  | some l =>
    match pairHi a with
    | some hi => s.pairRead a hi
    | none =>
      if isPairHi a then (tget (fun _ => 0) s.shadows a, s)
      else match s.readSpecial a l with
        | some r => r
        | none => (s.live a l &&& readMask a, s.clearRc a)

/-- The dwords that a request touches, by address / 4. -/
def dwordsOf (a n : Nat) : List Nat := if n = 0 then [] else (List.range ((a + n - 1) / 4 - a / 4 + 1)).map (· + a / 4)

/-- Registers read in rising order: the bytes of the request. -/
def State.readRegs (s : State) (a n : Nat) : List Byte × State :=
  (dwordsOf a n).foldl (fun x k =>
    let r := x.2.readReg (4 * k)
    (x.1 ++ ([0, 1, 2, 3].filter (fun i => decide (a ≤ 4 * k + i) && decide (4 * k + i < a + n))).map
      (fun i => BitVec.ofNat 8 (r.1.toNat / 256 ^ i)), r.2)) ([], s)

/-! Engines of the package. -/

/-- Whether [a, a + n) lies in the secure scratchpad. -/
def inSecure (a n : Nat) : Bool := addrKind a == .secure && addrKind (a + n - 1) == .secure

/-- The home's copies of the lines of the shared flow space that [a, a + n) touches are read from hub SRAM as this package's cache takes
them (R334, R335, R487). -/
def State.meetFlow (s : State) (a n : Nat) (finds : Finds) : State :=
  if isFlow a then
    (linesOf a n).foldl (fun t k =>
      let l := k - 0x30300000000 / 64
      if t.isHome l && (t.cline l).st == .i then t.eccRead (homeAddr l) finds 1 else t) s
  else s

/-- A pattern engine or flow engine reads n bytes: what it gets, with the state that the read leaves, or none while the read must wait for
the shared flow space (log entry 51). It reaches registers and its package's secure scratchpad too, whose bytes read 0 while it is closed
(R48, R335, R338, R353-R356). -/
def State.engRead (s : State) (a n : Nat) (finds : Finds) : Option (Payload × State) :=
  if addrKind a = .register then
    some (if s.fencedAt a then (.error, s) else (.data (s.readRegs a n).1, (s.readRegs a n).2))
  else if inSecure a n then
    if s.secureOpen then
      let t := s.meet a n finds 1
      some (payloadOf (t.anyPoison a n) (t.bytesAt a n), t)
    else some (.data (List.replicate n 0), s)
  else if !s.readOk a n then some (.error, s)
  else ((s.meetFlow a n finds).flowTake a n false).map (fun t =>
    let t := t.meet a n finds 1
    (payloadOf (t.anyPoison a n) (t.loadAll a n), t))

end Sys2Proof.Machine
end

