-- ==== Sys2Proof/Machine/Bundle.lean ====
section
/-! DEFINITION. Pattern bundles (R225, R226), the admission of a run (R232-R236, R341) and loads of the tenon dictionary (R214,
R222-R224). -/

namespace Sys2Proof.Machine

/-! Reads of a bundle. -/

/-- The number at an offset of bytes that have been read, little-endian. -/
def numAt (l : List Byte) (off n : Nat) : Nat := ofLe ((l.drop off).take n)

/-- The bytes of a payload, none when it is poisoned or an error. -/
def goodBytes : Payload → Option (List Byte)
  | .data l => some l
  | _ => none

/-- Reads one after another: what each gets, and the state after them; none while one must wait. -/
def State.engReads (s : State) (finds : Finds) : List (Nat × Nat) → Option (List (Option (List Byte)) × State)
  | [] => some ([], s)
  | x :: xs => (s.engRead x.1 x.2 finds).bind (fun r =>
      (r.2.engReads finds xs).map (fun rest => (goodBytes r.1 :: rest.1, rest.2)))

/-- The clusters of a run, each once. -/
def Run.clusters (r : Run) : List Nat := (r.engines.map engCl).eraseDups

/-- The lowest engine of a run. -/
def Run.lowest (r : Run) : Nat := r.engines.foldl min (r.engines.headD 0)

/-- The distinct bundles of a run's clusters. -/
def State.bundlesOf (s : State) (r : Run) : List Nat := (r.clusters.map s.bundleOf).eraseDups

/-- What the admission of a run has read: the header of each of its bundles by address, and the directory entry of each engine (R225,
R226). -/
structure AdmissionData where
  heads : List (Nat × Option (List Byte))
  dirs : List (Nat × Option (List Byte))

/-- The reads of an admission. -/
def State.admissionReads (s : State) (r : Run) (finds : Finds) : Option (AdmissionData × State) :=
  let bs := s.bundlesOf r
  (s.engReads finds (bs.map (fun b => (b, 128)))).bind (fun h =>
    (h.2.engReads finds (r.engines.map (fun e => (dirEntry (s.bundleOf (engCl e)) e, 16)))).map (fun d =>
      (⟨bs.zip h.1, r.engines.zip d.1⟩, d.2)))

/-! Admission (R232-R236, R341). -/

/-- Whether a header refuses the run: it could not be read, or MAGIC or VERSION is wrong (R232 case 1). -/
def headBad : Option (List Byte) → Bool
  | some l => numAt l 0 4 != 0x31524E56 || numAt l 4 2 != 1
  | none => true

/-- Whether a directory entry refuses the run: it could not be read, or its leaf table lies outside HBM (R232 case 1). -/
def dirBad : Option (List Byte) → Bool
  | some l => !inHbm (numAt l 0 8)
  | none => true

/-- The sum over the headers of a field of n bytes at an offset. -/
def AdmissionData.peak (x : AdmissionData) (off n : Nat) : Nat :=
  x.heads.foldl (fun m h => m + numAt (h.2.getD []) off n) 0

/-- The admission of a run: the cause and region of its refusal, or none (R232). -/
def State.admission (s : State) (x : AdmissionData) : Option (Nat × Nat) :=
  if x.heads.any (fun h => headBad h.2) || x.dirs.any (fun d => dirBad d.2) then some (1, 0)
  else match (List.range 8).find? (fun k => decide (s.fld (MEM_HBM_SHARE k) MEM_HBM_SHARE_VEC * 4915 <
      x.peak (0x20 + 4 * k) 4 + s.fld (MEM_VEC_RESV k) MEM_VEC_RESV_BYTES)) with
    | some k => some (2, k)
    | none => match (List.range 8).find? (fun k => decide (16384 <
        x.peak (0x40 + 2 * k) 2 + s.fld (MEM_RBUS_RESV k) MEM_RBUS_RESV_OPS)) with
      | some k => some (3, k)
      | none => if 16384 < x.peak 0x50 2 + s.fld SYS_PBUS_RESV SYS_PBUS_RESV_OPS then some (4, 0) else none

/-- The reservations of a run are given back (R235). -/
def State.releaseRun (s : State) (r : Run) : State :=
  let t := (List.range 8).foldl (fun t k =>
    (t.setFld (MEM_VEC_RESV k) MEM_VEC_RESV_BYTES (t.fld (MEM_VEC_RESV k) MEM_VEC_RESV_BYTES - r.resBytes.getD k 0)).setFld
      (MEM_RBUS_RESV k) MEM_RBUS_RESV_OPS (t.fld (MEM_RBUS_RESV k) MEM_RBUS_RESV_OPS - r.resRbus.getD k 0)) s
  t.setFld SYS_PBUS_RESV SYS_PBUS_RESV_OPS (t.fld SYS_PBUS_RESV SYS_PBUS_RESV_OPS - r.resPbus)

/-- The device adds the run's peaks to the reservations (R232). -/
def State.reserveRun (s : State) (r : Run) (x : AdmissionData) : State :=
  let bytes := (List.range 8).map (fun k => x.peak (0x20 + 4 * k) 4)
  let ops := (List.range 8).map (fun k => x.peak (0x40 + 2 * k) 2)
  let pbus := x.peak 0x50 2
  let t := (List.range 8).foldl (fun t k =>
    (t.setFld (MEM_VEC_RESV k) MEM_VEC_RESV_BYTES (t.fld (MEM_VEC_RESV k) MEM_VEC_RESV_BYTES + bytes.getD k 0)).setFld
      (MEM_RBUS_RESV k) MEM_RBUS_RESV_OPS (t.fld (MEM_RBUS_RESV k) MEM_RBUS_RESV_OPS + ops.getD k 0)) s
  let t := t.setFld SYS_PBUS_RESV SYS_PBUS_RESV_OPS (t.fld SYS_PBUS_RESV SYS_PBUS_RESV_OPS + pbus)
  t.updRun r.id (fun y => { y with resBytes := bytes, resRbus := ops, resPbus := pbus })

/-- Each engine of an admitted run keeps its stream: what its directory entry and the header of its bundle say (R225, R226). -/
def State.keepStreams (s : State) (x : AdmissionData) : State :=
  x.dirs.foldl (fun t d =>
    let h := (((x.heads.find? (fun h => h.1 == s.bundleOf (engCl d.1))).bind (·.2)).getD [])
    let l := d.2.getD []
    t.updEng d.1 (fun y => { y with
      stream := { table := numAt l 0 8, leaves := numAt l 8 4, dictCount := numAt h 6 2, dictDir := numAt h 0x10 8 } })) s

/-! The dictionary (R214, R222-R224). -/

/-- Whether a DICT_EN word opens on a taken path within the shadow span of a pending branch of an engine of the cluster (R224): the span
of its own branch, or of a branch of another engine, with the engine on the path that its last taken branch opened. The span has both
its ends in it (R194 says from s to s + D; DESIGN CHOICE, log entry 135). -/
def State.inShadow (s : State) (e g : Nat) : Bool :=
  match (s.eng e).took with
  | none => false
  | some k =>
    (decide (k.1 ≤ g) && decide (g ≤ k.2)) ||
    [0, 1, 2, 3].any (fun i => i != e % 4 && (match (s.eng (4 * engCl e + i)).pend with
      | some p => !p.isWait && decide (p.s ≤ g) && decide (g ≤ p.at_)
      | none => false))

/-- The entries of a dictionary image at address a are written from FIRST on (R222, R223). -/
def State.putImage (s : State) (c first a : Nat) (l : List Byte) : State :=
  ((s.putBytes (dictAddr c first) l).unpoison (dictAddr c first) l.length).countSat (VNR_LINES c) VNR_LINES_LINES
    (linesOf a (8 + l.length)).length

/-- The reads of an image: its address, its header, then its entries with the header; none when one cannot be read (R223). -/
def State.readImage (s : State) (dir img : Nat) (finds : Finds) : Option (Nat × List Byte) × State :=
  let at_ (p : Nat) (x : Option (List Byte) × State) : Option (Nat × List Byte) × State := (x.1.map (fun l => (p, l)), x.2)
  let get (t : State) (a n : Nat) : Option (List Byte) × State := match t.engRead a n finds with
    | some r => (goodBytes r.1, r.2)
    | none => (none, t)
  let d := get s (dir + 8 * img) 8
  match d.1 with
  | none => (none, d.2)
  | some p =>
    let h := get d.2 (ofLe p) 8
    match h.1 with
    | none => (none, h.2)
    | some x => at_ (ofLe p) (if numAt x 2 2 = 0 ∨ 256 < numAt x 2 2 then (some x, h.2)
        else get h.2 (ofLe p) (8 + 512 * numAt x 2 2))

/-- A dictionary image is loaded at a word's open grain g, or the load is ignored and logged (R214, R223, R224). An image line that cannot
be read ends the run as a lost line does; so does one that would have to wait for the shared flow space (log entry 51). -/
def State.loadDict (s : State) (e img g : Nat) (finds : Finds) : State :=
  let c := engCl e
  let x := (s.eng e).stream
  if s.ffld (ENG_SERVE c) ENG_SERVE_SERVE % 4 ≠ e % 4 ∨ s.inShadow e g then s.violation 0x05 byEngine 0 e (s.bundleOf c)
  else if x.dictCount ≤ img then s.violation 0x05 byEngine 0 img (s.bundleOf c)
  else
    let r := s.readImage x.dictDir img finds
    match r.1 with
    | none => r.2.lostVector e (r.2.eng e).vaddr g .lost
    | some x =>
      let first := numAt x.2 0 1
      let count := numAt x.2 2 2
      if count = 0 ∨ 256 < count ∨ 256 < first + count then r.2.violation 0x05 byEngine 0 img (s.bundleOf c)
      else
        let t := r.2.putImage c first x.1 (x.2.drop 8)
        (t.setBit (VNR_STAT c) VNR_STAT_DICT_VALID true).setFld (VNR_STAT c) VNR_STAT_DICT_IMG img

end Sys2Proof.Machine
end

