-- ==== Sys2Proof/Machine/Engine.lean ====
section
/-! DEFINITION. Pattern engines: the open grain of a microword and its side fields (R186-R190), the sequencing operations (R191),
conditional branches (R192-R197, R209), WAIT (R202), fetches from stores, ROM and patches (R211-R214, R344), and the V-form
operations (R207-R209, Table 6-7a). -/

namespace Sys2Proof.Machine

/-! Fetch. -/

/-- A field of an engine's status register. -/
def engStat (e : Nat) : Nat := ENG_STAT (engCl e) (e % 4)

/-- The lowest-numbered enabled ENG_PM register of a cluster that matches a ROM address (R213). -/
def State.patchOf (s : State) (c a : Nat) : Option Nat :=
  (List.range 64).find? (fun n => s.bit (ENG_PM c n) ENG_PM_EN && s.fld (ENG_PM c n) ENG_PM_ROM_ADDR == a)

/-- A word of the cluster ROM (R212): its last quarter holds HALT words. -/
def romAt (a : Nat) : HBits := if 0x6000 ≤ a then haltWord else Config.romWord a

/-- Where an H-form engine's next word comes from, after the patch match of R213. -/
def State.steer (s : State) (e : Nat) : EngSt :=
  let x := s.eng e
  match x.sel with
  | .rom =>
    match s.patchOf (engCl e) (x.pc % 32768) with
    | some n => { x with sel := .patch, romX := x.pc % 32768, pc := s.fld (ENG_PM (engCl e) n) ENG_PM_PATCH_ADDR }
    | none => { x with pc := x.pc % 32768 }
  | .ws => { x with pc := x.pc % 16384 }
  | .patch => x

/-- The store word of an engine's next fetch, none past the end of the patch store (R213). -/
def State.fetched (s : State) (e : Nat) (x : EngSt) : Option HBits :=
  match x.sel with
  | .ws => some (s.storeWord (wsAddr e x.pc))
  | .rom => some (romAt x.pc)
  | .patch => if x.pc < 256 then some (s.storeWord (psAddr (engCl e) x.pc)) else none

/-- Whether the store word of an engine's next fetch is poisoned (R344). -/
def State.fetchBad (s : State) (e : Nat) (x : EngSt) : Bool :=
  match x.sel with
  | .ws => s.storeBad (wsAddr e x.pc)
  | .rom => false
  | .patch => decide (x.pc < 256) && s.storeBad (psAddr (engCl e) x.pc)

/-- The address after an engine's present one, in the same store. -/
def EngSt.nextPc (x : EngSt) : Nat :=
  match x.sel with
  | .ws => (x.pc + 1) % 16384
  | .rom => (x.pc + 1) % 32768
  | .patch => x.pc + 1

/-- An engine executes H-form words: its own program, or as a member of a ganged group words that a patch has put into a V-form
expansion (R213). -/
def EngSt.hform (x : EngSt) : Bool := !x.vform || decide (x.sel ≠ .ws)

/-- An engine's part of its run ends at grain g, and with its last word its capture enable (R185, R191, Table 6-1). -/
def State.haltEngine (s : State) (e g : Nat) : State :=
  (s.updEng e (fun x => { x with
    halted := some g, word := none, nextAt := none, pend := none, waiting := false, capEn := false })).setFld
    (engStat e) ENG_STAT_WAITING 0 |>.setFld (engStat e) ENG_STAT_BR_PEND 0

/-- A poisoned store word ends the run at the open grain (R344). -/
def State.storeLost (s : State) (e g : Nat) : State :=
  ((s.haltEngine e g).endRun e codeDataLost (some g)).event codeDataLost 2 e (s.eng e).vaddr g

/-! The open grain. -/

/-- A segment trigger reaches every served pin (Table 6-1, R150). -/
def State.segTrigger (s : State) (e : Nat) : State :=
  (bitsOf 16 (s.eng e).served).foldl (fun t u => t.updPin (16 * engCl e + u) (fun x => { x with
    player := x.player.map (fun y => { y with trig := true }) })) s

/-- The side actions that travel in the tenon of a word's open grain g (Table 6-1); in a missing tenon none of them happens. R262 and
R290 say so of ACQ_ARM and ADC_START; of SIG_OP and SEG_TRIG it is DEDUCED (log entry 134). -/
def State.sideActions (s : State) (e g : Nat) (w : Micro) : State :=
  let c := engCl e
  if s.missingAt c g then s
  else
    let t := if w.segTrig then s.segTrigger e else s
    let t := if w.adcStart ∧ t.ffld (ADC_CTRL c) ADC_CTRL_SRC = 3 then t.adcEvent c g else t
    let t := (bitsOf 2 w.acqArm).foldl (fun t k => t.armDig (2 * c + k) g) t
    if w.sigOp = 1 ∨ w.sigOp = 2 then
      match flagOfSel c w.sigSel with
      | some key => t.flagChange key g (srcEngine e) (w.sigOp == 1)
      | none => t
    else t

/-- The side fields of a word at its open grain g (R186, R187, R189, R214). -/
def State.sideFields (s : State) (e g : Nat) (w : Micro) (finds : Finds) : State :=
  let c := engCl e
  let t := s.updEng e (fun x => { x with
    ts := if w.tsEn then w.ts else x.ts,
    vaddr := if w.seekEn then s.pair (ENG_SEEK_LO c (e % 4) w.seekIdx) (ENG_SEEK_HI c (e % 4) w.seekIdx) % 2 ^ 40
      else x.vaddr,
    capEn := w.capEn })
  let t := if w.dictEn then t.loadDict e w.dictImg g finds else t
  t.sideActions e g w

/-- The cycles a word plays: the body of a WAIT has at least one (R202). -/
def Micro.body (w : Micro) : Nat := if w.seqOp = 6 then max 1 w.cycles else w.cycles

/-- A word opens at grain g: its first cycle starts there, its close grain follows from the period in force (R186). -/
def State.openWord (s : State) (e g : Nat) (w : Micro) (finds : Finds) : State :=
  let ts := if w.tsEn then w.ts else (s.eng e).ts
  let per := s.wordAt (TSET_PERIOD (engCl e) ts) g
  let p := per.1.toNat + 1
  let t := per.2.updEng e (fun x => { x with
    word := some { w with cycles := w.body }, openAt := g, baseAt := g, baseCyc := 0, period := p,
    nextAt := some (g + w.body * p), coll := {}, lastCheck := none })
  t.sideFields e g w finds

/-- The cycles of a word leave VADDR and the vector that HOLD repeats (R188). -/
def EngSt.advance (x : EngSt) (w : Micro) (n : Nat) : EngSt :=
  if w.vmode = 0 ∧ 0 < n then
    { x with vaddr := (x.vaddr + n) % 2 ^ 40, lastStream := some ((x.vaddr + n - 1) % 2 ^ 40) }
  else x

/-- VADDR of an engine at grain g: it has moved past each STREAM cycle of the word in progress that has ended by then (R188). -/
def EngSt.vaddrAt (x : EngSt) (g : Nat) : Nat :=
  match x.word with
  | some w =>
    let k := x.baseCyc + (g - x.baseAt) / x.period
    (x.advance w (if w.seqOp = 6 then k else min k w.cycles)).vaddr
  | none => x.vaddr

/-- The cycles of the word in progress that have begun before grain g. -/
def EngSt.begun (x : EngSt) (g : Nat) : Nat := x.baseCyc + (g - x.baseAt + x.period - 1) / x.period

/-- The cycles in progress of an engine's pins are cut at grain g (R194). -/
def State.cutPins (s : State) (e g : Nat) : State :=
  (bitsOf 16 (s.eng e).served).foldl (fun t u => t.updPin (16 * engCl e + u) (fun x => { x with
    cyc := x.cyc.map (fun y => if y.cut.isSome then y else { y with cut := some g }) })) s

/-- The exit of a WAIT at grain g: the pass in progress is cut and the engine stands before the next word (R202). -/
def State.waitLeave (s : State) (e g : Nat) (w : Micro) : State :=
  let t := s.cutPins e g
  let t := t.updEng e (fun x =>
    { (x.advance w (x.begun g)) with
      word := none, pend := none, waiting := false, nextAt := some g,
      pc := if x.hform then x.nextPc else x.pc })
  t.setFld (engStat e) ENG_STAT_WAITING 0

/-- An engine of a started run whose part has not ended. -/
def State.engRuns (s : State) (e : Nat) : Bool := s.playing e

/-- The engine stands before its next word at grain g, after the exit of a WAIT that is due there; none when no word of it opens
at g. -/
def State.atOpen (s : State) (e g : Nat) : Option State :=
  let x := s.eng e
  if !s.engRuns e then none
  else match x.word, x.pend with
    | some w, some p => if p.isWait ∧ p.at_ = g then some ((s.at g).waitLeave e g w) else none
    | none, some p => if x.nextAt = some g ∧ g < p.at_ then some (s.at g) else none
    | none, none => if x.nextAt = some g then some (s.at g) else none
    | some _, none => none

/-- The address at which errors of an engine's next fetch are reported, none for the ROM and past the end of the patch store
(R518). -/
def EngSt.fetchAddr (x : EngSt) (e : Nat) : Option Nat :=
  match x.sel with
  | .ws => some (wsAddr e x.pc)
  | .rom => none
  | .patch => if x.pc < 256 then some (psAddr (engCl e) x.pc) else none

/-- Error correction as an engine fetches a word (R334, R338). -/
def State.meetFetch (s : State) (a : Option Nat) (finds : Finds) : State :=
  match a with
  | some a => s.meetWord a finds
  | none => s

/-- WORD_OPEN: at grain g the engine fetches its next H-form word, applies its side fields and begins its cycles (R186-R190,
R211-R214, R344). -/
def execWordOpen (e : EngNo) (g : Nat) (finds : Finds) (s : State) : Host.Outcome State Fault Refusal :=
  if !(s.eng e.val).hform then ok s
  else match s.atOpen e.val g with
    | none => ok s
    | some t =>
      let x := t.steer e.val
      let t := (t.setEng e.val x).meetFetch (x.fetchAddr e.val) finds
      let t := if x.vform then t else t.setFld (engStat e.val) ENG_STAT_PC x.pc
      if t.fetchBad e.val x then ok (t.storeLost e.val g)
      else match t.fetched e.val x with
        | some w => ok (t.openWord e.val g (microOf w) finds)
        | none => ok ((t.setFld (engStat e.val) ENG_STAT_BADOP 1).openWord e.val g (microOf haltWord) finds)

/-! The close grain. -/

/-- The H-form word that an engine closes at grain g with a sequencing operation, none when no such close is due. -/
def State.closing (s : State) (e g : Nat) (op : Nat → Bool) : Option Micro :=
  let x := s.eng e
  match x.word with
  | some w => if s.engRuns e ∧ x.hform = true ∧ x.nextAt = some g ∧ x.pendDue g = false ∧ op w.seqOp = true then some w
      else none
  | none => none

/-- The word in progress closes at grain g: the engine stands after its last cycle (R186, R188). -/
def State.closeWord (s : State) (e g : Nat) (w : Micro) : State :=
  (s.at g).updEng e (fun x => { (x.advance w w.cycles) with word := none })

/-- The engine goes on at an address of the store it fetches from. -/
def State.goTo (s : State) (e target : Nat) : State := s.updEng e (fun x => { x with pc := target })

/-- A close that continues with the next store word. -/
def State.fallThrough (s : State) (e : Nat) : State := s.goTo e (s.eng e).nextPc

/-- NEXT: continue with the next store word (Table 6-2). -/
def execNext (e : EngNo) (g : Nat) (s : State) : Host.Outcome State Fault Refusal :=
  match s.closing e.val g (· == 0) with
  | some w => ok ((s.closeWord e.val g w).fallThrough e.val)
  | none => ok s

/-- A conditional branch closes at grain g (R192, R193, R196): it is pending until g + D, unless an earlier branch of the engine
still is. `target` is where the taken path goes on. -/
def State.startBranch (s : State) (e g cond : Nat) (inv : Bool) (sel target : Nat) : State :=
  let x := s.eng e
  match x.pend with
  | some _ => s.setFld (engStat e) ENG_STAT_NEST 1
  | none =>
    let level := condLevel cond sel
    let p : PendBranch := {
      s := g, at_ := g + s.latency level, level := level, cond := cond, condInv := inv,
      flagSet := s.selMet (engCl e) sel false, target := target, vform := !x.hform, openAt := x.openAt, coll := x.coll,
      counters := x.counters, stack := x.stack, path := x.path, vaddr := x.vaddr, lastStream := x.lastStream, ts := x.ts, sel := x.sel,
      romX := x.romX, flagSel := sel, vCap := x.vCap, vSubst := x.vSubst, vSubstPtr := x.vSubstPtr, vFlag := x.vFlag,
      expected := if cond = 4 then s.domainOthers else 0 }
    let y : EngSt := { x with pend := some p }
    let t := (s.setEng e (if cond = 5 then y.noteCheck (engCl e) sel g else y)).setFld (engStat e) ENG_STAT_BR_PEND 1
    if cond = 4 ∧ s.domainOthers ≠ 0 then
      t.send (.vyene "FAIL_SYS" 16 [e, if x.coll.sys && !x.coll.missPkg then 1 else 0, g])
    else t

/-- JUMP: a plain jump continues at TARGET; any other condition is a conditional branch (Table 6-2, R192). -/
def execJump (e : EngNo) (g : Nat) (s : State) : Host.Outcome State Fault Refusal :=
  match s.closing e.val g (· == 1) with
  | some w =>
    let t := s.closeWord e.val g w
    if w.cond = 0 ∧ w.condInv = false then ok (t.goTo e.val w.target)
    else ok ((t.startBranch e.val g w.cond w.condInv w.waitSel w.target).fallThrough e.val)
  | none => ok s

/-- A stack error ends the run with VIOLATION and sets STACK (R191). -/
def State.stackError (s : State) (e g : Nat) : State :=
  ((s.haltEngine e g).setFld (engStat e) ENG_STAT_STACK 1).endRun e codeViolation (some g)

/-- Push a return address and VADDR and go on elsewhere, or a stack error when the stack holds 8 entries (R191). -/
def State.pushCall (s : State) (e g ret : Nat) (sel : StoreSel) (target : Nat) : State :=
  let x := s.eng e
  if 8 ≤ x.stack.length then s.stackError e g
  else s.setEng e { x with stack := ⟨x.sel, ret, x.romX, x.vaddr⟩ :: x.stack, sel := sel, pc := target }

/-- CALL: push the next address and VADDR, continue at TARGET (Table 6-2). -/
def execCall (e : EngNo) (g : Nat) (s : State) : Host.Outcome State Fault Refusal :=
  match s.closing e.val g (· == 2) with
  | some w =>
    let t := s.closeWord e.val g w
    ok (t.pushCall e.val g (t.eng e.val).nextPc (t.eng e.val).sel w.target)
  | none => ok s

/-- ROMCALL: push as CALL, continue at ROM address 2 × TARGET (Table 6-2). -/
def execRomcall (e : EngNo) (g : Nat) (s : State) : Host.Outcome State Fault Refusal :=
  match s.closing e.val g (· == 9) with
  | some w =>
    let t := s.closeWord e.val g w
    ok (t.pushCall e.val g (t.eng e.val).nextPc .rom (2 * w.target))
  | none => ok s

/-- Pop the stack: continue at the popped address with the popped VADDR, or a stack error when it is empty (R191). -/
def State.popCall (s : State) (e g : Nat) : State :=
  let x := s.eng e
  match x.stack with
  | [] => s.stackError e g
  | y :: ys => s.setEng e { x with stack := ys, sel := y.sel, pc := y.pc, romX := y.romX, vaddr := y.vaddr }

/-- RET (Table 6-2). -/
def execRet (e : EngNo) (g : Nat) (s : State) : Host.Outcome State Fault Refusal :=
  match s.closing e.val g (· == 3) with
  | some w => ok ((s.closeWord e.val g w).popCall e.val g)
  | none => ok s

/-- LOOP on a counter: whether it jumps back, and the counter afterwards (Table 6-2). -/
def loopStep (n : Nat) : Bool × Nat := (decide (1 < n), n - 1)

/-- A loop operation: continue at the target while the counter, decremented, is not 0, else at the next address. -/
def State.loopTo (s : State) (e k target next : Nat) : State :=
  s.updEng e (fun x =>
    let r := loopStep (x.counters.getD k 0)
    { x with counters := setAt x.counters k r.2, pc := if r.1 then target else next })

/-- LOOP (Table 6-2). -/
def execLoop (e : EngNo) (g : Nat) (s : State) : Host.Outcome State Fault Refusal :=
  match s.closing e.val g (· == 4) with
  | some w =>
    let t := s.closeWord e.val g w
    ok (t.loopTo e.val w.loopSel w.target (t.eng e.val).nextPc)
  | none => ok s

/-- A loop counter is loaded (Table 6-2). -/
def State.loadCounter (s : State) (e k n : Nat) : State :=
  s.updEng e (fun x => { x with counters := setAt x.counters k n })

/-- LDCNT (Table 6-2). -/
def execLdcnt (e : EngNo) (g : Nat) (s : State) : Host.Outcome State Fault Refusal :=
  match s.closing e.val g (· == 5) with
  | some w => ok (((s.closeWord e.val g w).loadCounter e.val w.loopSel w.loopLoad).fallThrough e.val)
  | none => ok s

/-- WAIT: the first pass of the body closes at grain g; a check follows unless a branch of the engine is pending (R202). A
member's WAITF plays the same word. -/
def execWait (e : EngNo) (g : Nat) (s : State) : Host.Outcome State Fault Refusal :=
  let x := s.eng e.val
  match x.word with
  | some w =>
    if s.engRuns e.val ∧ w.seqOp = 6 ∧ x.nextAt = some g ∧ x.pendDue g = false then
      let t := (s.at g).setEng e.val { x with nextAt := none }
      ok (if x.pend.isSome then t else t.waitCheckAt e.val g)
    else ok s
  | none => ok s

/-- WAIT_CHECK: a later pass of a WAIT body closes at grain g and the flag is checked, unless an exit or a branch is pending
(R202). -/
def execWaitCheck (e : EngNo) (g : Nat) (s : State) : Host.Outcome State Fault Refusal :=
  let x := s.eng e.val
  match x.word, x.cyclesBy g with
  | some w, some k =>
    if s.engRuns e.val ∧ w.seqOp = 6 ∧ x.nextAt = none ∧ x.pend = none ∧ x.lastCheck ≠ some g ∧ w.cycles < k ∧
        k % w.cycles = 0 then ok ((s.at g).waitCheckAt e.val g)
    else ok s
  | _, _ => ok s

/-- The H-form words of an operation's expansion (Table 6-7a). -/
def vWords (vop : Nat) : Nat :=
  match vop with
  | 0 => 0
  | 5 => 2
  | 6 => 2
  | 7 => 2
  | 8 => 3
  | 9 => 2
  | 14 => 2
  | k => if k ≤ 13 then 1 else 0

/-- An engine goes on at a ROM address after a patch. A ganged member whose address lies in a word of an expansion goes on with that word,
and where none lies there, with its next operation (R212, R213, log entry 48). -/
def EngSt.resumeAt (x : EngSt) (a : Nat) : EngSt :=
  if x.vform && decide (a < 0x200) then
    { x with sel := .ws, pc := x.vpc, vResume := if a % 16 < vWords (a / 16) then some a else none }
  else { x with sel := .rom, pc := a }

/-- RESUME: from the patch store, continue at ROM address x + 1 + TARGET (R213). Elsewhere the address it returns to is a free value (log
entry 24). -/
def execResume (e : EngNo) (g : Nat) (s : State) : Host.Outcome State Fault Refusal :=
  match s.closing e.val g (· == 7) with
  | some w =>
    let t := s.closeWord e.val g w
    if (t.eng e.val).sel = .patch then
      ok (t.updEng e.val (fun x => x.resumeAt ((x.romX + 1 + w.target) % 32768)))
    else ok (t.useFree.updEng e.val (fun x => { x with sel := .rom, pc := Config.freeNat t.free % 32768 }))
  | none => ok s

/-- HALT: the engine's part of the run ends (Table 6-2, R185). -/
def execHalt (e : EngNo) (g : Nat) (s : State) : Host.Outcome State Fault Refusal :=
  match s.closing e.val g (· == 8) with
  | some w => ok ((s.closeWord e.val g w).haltEngine e.val g)
  | none => ok s

/-- BADOP: SEQ_OP 0xA to 0xF act as HALT and set BADOP (Table 6-2). -/
def execBadop (e : EngNo) (g : Nat) (s : State) : Host.Outcome State Fault Refusal :=
  match s.closing e.val g (fun k => decide (10 ≤ k)) with
  | some w => ok (((s.closeWord e.val g w).haltEngine e.val g).setFld (engStat e.val) ENG_STAT_BADOP 1)
  | none => ok s

/-! Branches take effect. -/

/-- The other members of an engine's ganged group whose parts have not ended (R207). -/
def State.groupMates (s : State) (e : Nat) : List Nat :=
  match (s.eng e).run with
  | none => []
  | some id => match s.runOf id with
    | none => []
    | some r => r.engines.filter (fun k => k != e && (s.eng k).vform && (s.eng k).lead == (s.eng e).lead &&
        (s.eng k).halted.isNone)

/-- Whether a region or package branch of a ganged group closed at grain k in every member (R209). -/
def State.sameClose (s : State) (e k : Nat) : Bool :=
  (s.groupMates e).all (fun m => (s.eng m).lastBr == some k || (match (s.eng m).pend with
    | some p => p.s == k
    | none => false))

/-- Whether a pending branch is met (Table 6-3, R82, R192): a deciding strobe in a missing tenon makes the condition not met. -/
def PendBranch.met (p : PendBranch) : Bool :=
  match p.cond with
  | 0 => Bool.xor true p.condInv
  | 1 => !p.coll.missCl && Bool.xor p.coll.cl p.condInv
  | 2 => !p.coll.missRg && Bool.xor p.coll.rg p.condInv
  | 3 => !p.coll.missPkg && Bool.xor p.coll.pkg p.condInv
  | 4 => !p.coll.missPkg && Bool.xor p.coll.sys p.condInv
  | 5 => Bool.xor p.flagSet p.condInv
  | _ => Bool.xor false p.condInv

/-- Tenons of an array without the path of one engine; a tenon that holds no path any more leaves the array. -/
def stripEngine (i : Nat) (l : List Tenon) : List Tenon :=
  (l.map (fun t => { t with engs := setNBit t.engs i false, slots := t.slots.filter (fun y => y.eng != i) })).filter
    (fun t => t.engs != 0)

/-- The cycle starts of an engine on the path it leaves are discarded from their array (R195). Of the vectors that this lane has put into
tenons only the last one before the branch stays, which later HOLD cycles may repeat (R188). -/
def State.dropPath (s : State) (e : Nat) (lane : Lane) (keep : Option Nat) : State :=
  (s.updCl (engCl e) (fun x => match lane with
    | .main => { x with mortise := stripEngine (e % 4) x.mortise }
    | .shadow => { x with shadow := stripEngine (e % 4) x.shadow })).setDecoder e lane
      { (s.eng e).decoder lane with filled := ((s.eng e).decoder lane).filled.filter (fun y => keep == some y.1) }

/-- The other lane. -/
def otherLane : Lane → Lane
  | .main => .shadow
  | .shadow => .main

/-- A branch is taken: at its take-effect grain the engine stands before the word at TARGET with the state of its close grain, and its
pins play from the other lane, whose lead may arm LEAD_LOW again (R78, R194, R195). -/
def State.takeBranch (s : State) (e : Nat) (p : PendBranch) : State :=
  let old := (s.eng e).live
  let t := s.cutPins e p.at_
  let t := t.updEng e (fun x => { x with
    word := none, pend := none, waiting := false, nextAt := some p.at_, pc := p.target, sel := p.sel, romX := p.romX,
    counters := p.counters, stack := p.stack, path := p.path, vResume := none, vaddr := p.vaddr, lastStream := p.lastStream, ts := p.ts,
    vCap := p.vCap, vSubst := p.vSubst, vSubstPtr := p.vSubstPtr, vFlag := p.vFlag,
    took := some (p.s, p.at_), lastBr := some p.s, live := otherLane old, liveFrom := p.at_ })
  (((t.dropPath e old p.lastStream).setFld (engStat e) ENG_STAT_WAITING 0).setFld (engStat e) ENG_STAT_BR_PEND 0).armLead (engCl e)

/-- A branch is not taken: the stream continues (R194). -/
def State.leaveBranch (s : State) (e : Nat) (p : PendBranch) : State :=
  let t := s.updEng e (fun x => { x with pend := none, took := none, lastBr := some p.s })
  (t.dropPath e (otherLane (t.eng e).live) p.lastStream).setFld (engStat e) ENG_STAT_BR_PEND 0

/-- The outcome that the lead of a ganged group has given to the branch that closed at grain k, none when no branch of the lead
did. -/
def State.leadOutcome (s : State) (e k : Nat) : Option Bool :=
  let x := s.eng (s.eng e).lead
  let past := if x.lastBr = some k then some (match x.took with
      | some y => y.1 == k
      | none => false) else none
  match x.pend with
  | some q => if q.s = k ∧ q.isWait = false then some q.met else past
  | none => past

/-- Whether a pending branch of an engine is met. The lead follows the branches of its group: a member follows the outcome of the
lead's branch with the same close grain (R208, log entry 47). -/
def State.branchMet (s : State) (e : Nat) (p : PendBranch) : Bool :=
  if p.vform ∧ e ≠ (s.eng e).lead then (match s.leadOutcome e p.s with
    | some b => b
    | none => p.met)
  else p.met

/-- BRANCH_TAKE_EFFECT: at s + D the pending branch is taken or not (R192-R195). A region or package branch of a ganged group that
did not close at one grain in all members has a free outcome (R209). A FAIL_SYS branch that has not heard every package ends the
run with DATA_LOST (R485). -/
def execBranchTakeEffect (e : EngNo) (g : Nat) (s : State) : Host.Outcome State Fault Refusal :=
  match (s.eng e.val).pend with
  | some p =>
    if p.isWait = false ∧ p.at_ = g ∧ s.engRuns e.val then
      let t := s.at g
      if p.vform ∧ (p.level = 1 ∨ p.level = 2) ∧ s.sameClose e.val p.s = false then
        ok (if Config.freeBool t.free then t.useFree.takeBranch e.val p else t.useFree.leaveBranch e.val p)
      else if p.cond = 4 ∧ maskOf (bitsOf 16 p.expected) ≠ maskOf ((bitsOf 16 p.expected).filter (nbit p.heard)) then
        let l := t.lowestEngine e.val
        ok (((t.leaveBranch e.val p).endRun e.val codeDataLost (some g)).event codeDataLost 2 l ((t.eng l).vaddrAt g) g)
      else ok (if s.branchMet e.val p then t.takeBranch e.val p else t.leaveBranch e.val p)
    else ok s
  | none => ok s

/-! V-form operations (Table 6-7a). Each member executes the lead's operations against its own pins, counters, stack and
VADDR. -/

/-- A member stands before its next V-form operation at grain g: a STREAM word that closes there has been closed and a WAIT whose
exit is due there has been left. -/
def State.vReady (s : State) (e g : Nat) : Option State :=
  let x := s.eng e
  if x.hform then none
  else match x.word with
    | some w => if s.engRuns e ∧ w.seqOp ≠ 6 ∧ x.nextAt = some g ∧ x.pendDue g = false then some (s.closeWord e g w)
        else s.atOpen e g
    | none => s.atOpen e g

/-- The first address of an operation's expansion, from its word i on, that an ENG_PM register matches, with its patch address (R212,
R213). -/
def State.vPatch (s : State) (c vop i : Nat) : Option (Nat × Nat) :=
  ((List.range (vWords vop)).drop i).findSome? (fun j => (s.patchOf c (16 * vop + j)).map (fun n =>
    (16 * vop + j, s.fld (ENG_PM c n) ENG_PM_PATCH_ADDR)))

/-- A member's expansion goes on in the patch store (R213, log entry 48). -/
def State.enterPatch (s : State) (e : Nat) (x : Nat × Nat) : State :=
  s.updEng e (fun y => { y with sel := .patch, pc := x.2, romX := x.1, vpc := y.pc })

/-- The path of the lead after an operation at a V address, and the address of the operation after it: loops, calls and jumps (R208). -/
def LeadPath.after (x : LeadPath) (vop operand pc : Nat) : LeadPath × Nat :=
  let next := (pc + 1) % 65536
  let target := slice operand 0 16
  let k := slice operand 24 2
  match vop with
  | 4 => ({ x with counters := setAt x.counters k (slice operand 0 24) }, next)
  | 5 =>
    let r := loopStep (x.counters.getD k 0)
    ({ x with counters := setAt x.counters k r.2 }, if r.1 then target else next)
  | 6 => ({ x with calls := next :: x.calls }, target)
  | 7 => ({ x with calls := x.calls.tail }, x.calls.headD next)
  | 8 => (x, if slice operand 19 7 = 0 then target else next)
  | _ => (x, next)

/-- A member executes the expansion of an operation from its word i on: in the patch store where a word is patched, else its effect, which
its last word has (R213, log entry 48). -/
def State.vExpand (s : State) (e vop operand i : Nat) (act : Nat → State → State) : State :=
  match s.vPatch (engCl e) vop i with
  | some y => s.enterPatch e y
  | none => act operand s

/-- Run the operation that the group's lead has for a member at grain g when its VOP is the expected one (R207, R208); a poisoned
store word ends the run (R344), a patched expansion goes on in the patch store and comes back from it (R213). `act` gets the operand and
the state in which the member follows the lead to its next operation, by the lead's own loops and calls (log entry 47). -/
def State.vRun (s : State) (e g : Nat) (finds : Finds) (vop : Nat → Bool) (act : Nat → State → State) : State :=
  match s.vReady e g with
  | none => s
  | some t =>
    let x := t.eng e
    match x.vResume with
    | some k => if vop (k / 16) then (t.setEng e { x with vResume := none }).vExpand e (k / 16) x.vOperand (k % 16) act else s
    | none =>
      let a := wsAddr x.lead (x.pc % 65536 / 4)
      let t := (t.meetWord a finds).setFld (engStat e) ENG_STAT_PC (x.pc % 65536)
      if t.storeBad a then t.storeLost e g
      else
        let v := vopOf (t.storeWord a) (x.pc % 4)
        if vop v.vop then
          let n := x.path.after v.vop v.operand (x.pc % 65536)
          (t.updEng e (fun y => { y with path := n.1, pc := n.2, vOperand := v.operand })).vExpand e v.vop v.operand 0 act
        else s

/-- The fields that every word of a member's expansion carries: CAP_EN and substitution as last set (Table 6-7a). -/
def EngSt.vWord (x : EngSt) : Micro :=
  { seqOp := 0, capEn := x.vCap, substEn := x.vSubst, substPtr := x.vSubstPtr }

/-- NOP: no H-form word. -/
def execVopNop (e : EngNo) (g : Nat) (finds : Finds) (s : State) : Host.Outcome State Fault Refusal :=
  ok (s.vRun e.val g finds (· == 0) (fun _ t => t))

/-- STREAM: a word of VMODE and CYCLES; its next address is that of the next operation. -/
def execVopStream (e : EngNo) (g : Nat) (finds : Finds) (s : State) : Host.Outcome State Fault Refusal :=
  ok (s.vRun e.val g finds (· == 1) (fun o t =>
    let m := slice o 24 2
    t.openWord e.val g { (t.eng e.val).vWord with vmode := if m = 3 then 1 else m, cycles := slice o 0 24 } finds))

/-- TSET: the timing set, and CAP_EN from now on. -/
def execVopTset (e : EngNo) (g : Nat) (finds : Finds) (s : State) : Host.Outcome State Fault Refusal :=
  ok (s.vRun e.val g finds (· == 2) (fun o t =>
    let t := t.updEng e.val (fun x => { x with vCap := nbit o 6 })
    t.sideFields e.val g { (t.eng e.val).vWord with tsEn := true, ts := slice o 0 6 } finds))

/-- SEEK. -/
def execVopSeek (e : EngNo) (g : Nat) (finds : Finds) (s : State) : Host.Outcome State Fault Refusal :=
  ok (s.vRun e.val g finds (· == 3) (fun o t =>
    t.sideFields e.val g { (t.eng e.val).vWord with seekEn := true, seekIdx := slice o 0 10 } finds))

/-- LDCNT. -/
def execVopLdcnt (e : EngNo) (g : Nat) (finds : Finds) (s : State) : Host.Outcome State Fault Refusal :=
  ok (s.vRun e.val g finds (· == 4) (fun o t => t.loadCounter e.val (slice o 24 2) (slice o 0 24)))

/-- LOOPB: as LOOP on the member's own counter; the lead's counter decides where the group goes on (R208). -/
def execVopLoopb (e : EngNo) (g : Nat) (finds : Finds) (s : State) : Host.Outcome State Fault Refusal :=
  ok (s.vRun e.val g finds (· == 5) (fun o t => t.updEng e.val (fun x =>
    { x with counters := setAt x.counters (slice o 24 2) (loopStep (x.counters.getD (slice o 24 2) 0)).2 })))

/-- CALL, to a V target. -/
def execVopCall (e : EngNo) (g : Nat) (finds : Finds) (s : State) : Host.Outcome State Fault Refusal :=
  ok (s.vRun e.val g finds (· == 6) (fun o t =>
    t.pushCall e.val g ((t.eng e.val).path.calls.headD 0) .ws (slice o 0 16)))

/-- RET: VADDR comes from the member's stack; the group goes on where the lead's call left off (R208). -/
def execVopRet (e : EngNo) (g : Nat) (finds : Finds) (s : State) : Host.Outcome State Fault Refusal :=
  ok (s.vRun e.val g finds (· == 7) (fun _ t =>
    (t.popCall e.val g).updEng e.val (fun x => { x with sel := .ws, pc := (t.eng e.val).pc })))

/-- BRCOND: COND 0 with COND_INV 0 is a plain jump, as in H-form; a cluster-level condition is not met and sets VBAD (R209). Its
results are those of the operation that last held pin time, its flag the last one named (log entry 25). -/
def execVopBrcond (e : EngNo) (g : Nat) (finds : Finds) (s : State) : Host.Outcome State Fault Refusal :=
  ok (s.vRun e.val g finds (· == 8) (fun o t =>
    let cond := slice o 20 6
    let inv := nbit o 19
    let sel := (t.eng e.val).vFlag
    if cond = 0 ∧ inv = false then t
    else if cond = 1 ∨ (cond = 5 ∧ selLevel sel = 0) then t.setFld (engStat e.val) ENG_STAT_VBAD 1
    else t.startBranch e.val g cond inv sel (slice o 0 16)))

/-- WAITF: a WAIT word on the named flag. Its body plays HOLD: Table 6-7a gives its cycles and no VMODE (PRESUMED, log entry 25). -/
def execVopWaitf (e : EngNo) (g : Nat) (finds : Finds) (s : State) : Host.Outcome State Fault Refusal :=
  ok (s.vRun e.val g finds (· == 9) (fun o t =>
    let x := t.eng e.val
    let t := t.setEng e.val { x with vFlag := slice o 0 10 }
    t.openWord e.val g { x.vWord with seqOp := 6, vmode := 1, cycles := slice o 10 16, waitSel := slice o 0 10 } finds))

/-- SIGF: SIG_OP on the named flag. -/
def execVopSigf (e : EngNo) (g : Nat) (finds : Finds) (s : State) : Host.Outcome State Fault Refusal :=
  ok (s.vRun e.val g finds (· == 10) (fun o t =>
    let t := t.updEng e.val (fun x => { x with vFlag := slice o 0 10 })
    t.sideFields e.val g { (t.eng e.val).vWord with sigOp := slice o 10 2, sigSel := slice o 0 10 } finds))

/-- ACT: digitiser arming, converter start and segment trigger. -/
def execVopAct (e : EngNo) (g : Nat) (finds : Finds) (s : State) : Host.Outcome State Fault Refusal :=
  ok (s.vRun e.val g finds (· == 11) (fun o t =>
    t.sideFields e.val g { (t.eng e.val).vWord with acqArm := slice o 2 2, adcStart := nbit o 1, segTrig := nbit o 0 } finds))

/-- DICT. -/
def execVopDict (e : EngNo) (g : Nat) (finds : Finds) (s : State) : Host.Outcome State Fault Refusal :=
  ok (s.vRun e.val g finds (· == 12) (fun o t =>
    t.sideFields e.val g { (t.eng e.val).vWord with dictEn := true, dictImg := slice o 0 12 } finds))

/-- SUBST: substitution from now on. -/
def execVopSubst (e : EngNo) (g : Nat) (finds : Finds) (s : State) : Host.Outcome State Fault Refusal :=
  ok (s.vRun e.val g finds (· == 13) (fun o t =>
    t.updEng e.val (fun x => { x with vSubst := nbit o 2, vSubstPtr := slice o 0 2 })))

/-- HALT. -/
def execVopHalt (e : EngNo) (g : Nat) (finds : Finds) (s : State) : Host.Outcome State Fault Refusal :=
  ok (s.vRun e.val g finds (· == 14) (fun _ t => t.haltEngine e.val g))

/-- VOP 0x0F to 0x1F: no word; sets BADOP. -/
def execVopBad (e : EngNo) (g : Nat) (finds : Finds) (s : State) : Host.Outcome State Fault Refusal :=
  ok (s.vRun e.val g finds (fun k => decide (15 ≤ k)) (fun _ t => t.setFld (engStat e.val) ENG_STAT_BADOP 1))

end Sys2Proof.Machine
end

