-- ==== Sys2Proof/Machine/Runs.lean ====
section
/-! DEFINITION. Runs (R184, R185): START, admission, start grain, tenon boundaries with underrun (R71-R85), the mode word at a
boundary (R405-R407, R416, R417), deadlock (R203-R206) and the run's end. -/

namespace Sys2Proof.Machine

/-! Starts. -/

/-- Whether a store word that a partner wrote is held poisoned in an engine's store or its cluster's patch store (Table 12-2). -/
def State.storeHeldBad (s : State) (e : Nat) : Bool :=
  s.storePoison.any (fun x => s.storeHeld x.1 &&
    ((decide (wsAddr e 0 ≤ x.1) && decide (x.1 < wsAddr e 0 + 16384)) ||
     (decide (psAddr (engCl e) 0 ≤ x.1) && decide (x.1 < psAddr (engCl e) 0 + 256))))

/-- Whether a reload quiesces an engine (R340). -/
def State.quiesced (s : State) (e : Nat) : Bool :=
  s.storePoison.any (fun x => !s.storeHeld x.1 &&
    ((decide (wsAddr e 0 ≤ x.1) && decide (x.1 < wsAddr e 0 + 16384)) ||
     (decide (psAddr (engCl e) 0 ≤ x.1) && decide (x.1 < psAddr (engCl e) 0 + 256))))

/-- Why a START of an engine is refused: no RUN mode (R409), a masked engine (R36), an unaligned package of a domain of two or more
(R482), post-package repair of the region's stack (R349); DAMAGED for a held store word (Table 12-2). -/
def State.startRefusal (s : State) (e : Nat) : Option Nat :=
  let c := engCl e
  if !s.hasMode c 0 || s.fbit (SYS_UNIT_MASK c) SYS_UNIT_MASK_EN_MASK (e % 4) ||
      (!s.bit VYN_SYS_STAT VYN_SYS_STAT_ALIGNED && s.domainOthers != 0) ||
      s.bit (MEM_PPR_STAT (c / 8)) MEM_PPR_STAT_BUSY then some codeViolation
  else if s.storeHeldBad e then some codeDamaged
  else none

/-- Write END_CODE of an engine. -/
def State.endCode (s : State) (e code : Nat) : State := s.setFld (engStat e) ENG_STAT_END_CODE code

/-- A refused START: END_CODE, and for VIOLATION an entry of the violation log with the engine number (R36, R409). -/
def State.refuseStart (s : State) (port e code : Nat) : State :=
  let t := s.endCode e code
  if code = codeViolation then t.violation 0x02 port 0 e (ENG_CTRL (engCl e) (e % 4)) else t

/-- The pins that an engine serves, as ENG_SERVE stands (R183). -/
def State.servedMask (s : State) (e : Nat) : Nat :=
  maskOf ((List.range 16).filter (fun u => slice (s.ffld (ENG_SERVE (engCl e)) ENG_SERVE_SERVE) (2 * u) 2 == e % 4))

/-- The PPMUs of an engine's pins act as MV from its START on, until a tenon boundary with no case of R284 (R284). -/
def State.measureOnly (s : State) (e : Nat) : State :=
  (bitsOf 16 (s.servedMask e)).foldl (fun t u => t.updPin (16 * engCl e + u) (fun x => { x with pmuOn := false })) s

/-- An engine joins a run with what its ENG_CTRL holds at the START: RUNNING reads 1 from there. -/
def State.joinRun (s : State) (e id : Nat) : State :=
  let a := ENG_CTRL (engCl e) (e % 4)
  (s.updEng e (fun x => { x with
    run := some id, vform := s.bit a ENG_CTRL_VFORM, lead := s.fld a ENG_CTRL_LEAD, sel := .ws,
    pc := s.fld a ENG_CTRL_START_ADDR, word := none, pend := none, nextAt := none, waiting := false, halted := none,
    served := 0, heldStart := none, live := .main, liveFrom := 0, main := {}, shadow := {}, copies := [], copyNo := 0 })
    |>.measureOnly e).setFld (engStat e) ENG_STAT_RUNNING 1

/-- The run that a partner's STARTs still form: one whose start grain has not been fixed (R184). -/
def State.formingRun (s : State) : Option Run := s.runs.find? (fun r => r.start.isNone && r.flow.isNone && r.endCode.isNone)

/-- A new run of one engine or none yet. -/
def State.newRun (s : State) (flow : Option Nat) : Nat × State :=
  (s.nextRun, { s with
    runs := s.runs ++ [{ id := s.nextRun, engines := [], flow := flow }], nextRun := s.nextRun + 1 })

/-! Admission (R232-R236, R341). -/

/-- The pattern table entry, if any, that refuses a bundle with DAMAGED (R341). -/
def State.damagedPat (s : State) (b : Nat) : Option (Nat × Nat) :=
  allPats.find? (fun x => s.patValid x.1 x.2 && s.bit (MEM_PAT_W1 x.1 x.2) MEM_PAT_W1_DAMAGED && s.patBase x.1 x.2 == b)

/-- An engine leaves its run: it decodes no more, and RUNNING, WAITING and BR_PEND read 0. -/
def State.leaveRun (s : State) (e : Nat) : State :=
  let t := s.updEng e (fun x => { x with
    run := none, word := none, pend := none, nextAt := none, waiting := false, capEn := false, served := 0, main := {},
    shadow := {}, copies := [] })
  ((t.setFld (engStat e) ENG_STAT_RUNNING 0).setFld (engStat e) ENG_STAT_WAITING 0).setFld (engStat e) ENG_STAT_BR_PEND 0

/-- A run ends before its start grain: no engine of it starts, its end code stands in each, its reservations and tenons are given
back, the flow entry that started it learns the code (R234, R341, R388, R420). -/
def State.refuseRun (s : State) (r : Run) (code : Nat) : State :=
  let t := r.engines.foldl (fun t e => (t.endCode e code).leaveRun e) (s.releaseRun r)
  let t := r.clusters.foldl (fun t c => t.updCl c (fun x => { x with fill := x.fill.filter (fun y => y.1 != r.id), fillShadow := x.fillShadow.filter (fun y => y.1 != r.id) })) t
  let t := { t with runs := t.runs.filter (fun x => x.id != r.id) }
  match r.flow with
  | some n => t.updFlow n (fun f => match f.waiting with
    | .run id cls res =>
      if id = r.id then { f with waiting := .run id cls (res ++ r.clusters.map (fun c => (c, code, 0, 0))) } else f
    | _ => f)
  | none => t

/-- The run that partners' STARTs form is refused with an engine of it that lacks RUN: each engine of it is, with its entry of the violation
log (R409). -/
def State.refuseForming (s : State) (port : Nat) : State :=
  match s.formingRun with
  | some r => r.engines.foldl (fun t e => t.violation 0x02 port 0 e (ENG_CTRL (engCl e) (e % 4))) (s.refuseRun r codeViolation)
  | none => s

/-- A START that is not held back: the engine joins the forming run or forms a new one, or is refused. -/
def State.startNow (s : State) (port e : Nat) : State :=
  match s.startRefusal e with
  | some code =>
    let t := s.refuseStart port e code
    if s.hasMode (engCl e) 0 then t else t.refuseForming port
  | none =>
    let t := match s.formingRun with
      | some r => (r.id, s)
      | none => s.newRun none
    (t.2.updRun t.1 (fun r => { r with engines := r.engines ++ [e], admitted := false })).joinRun e t.1

/-- A partner's write of ENG_CTRL (R184, R340, R36, R409). An engine that already holds a run refuses a START (log entry 26). -/
def State.startCommand (s : State) (port e : Nat) (value : Word) : State :=
  let a := ENG_CTRL (engCl e) (e % 4)
  let t := s.partnerWrite a value 15
  if getF value ENG_CTRL_START = 0 then t
  else if (s.eng e).run.isSome then t.violation 0x02 port 0 e a
  else
    let t := t.setFld (ENG_DL_WAIT (engCl e) (e % 4)) ENG_DL_WAIT_VALID 0
    if t.quiesced e then t.updEng e (fun x => { x with heldStart := some port })
    else t.startNow port e

/-- ENG_START: a write of ENG_CTRL with START 1 (R184, R340, R36, R409). An engine that already holds a run refuses it
(log entry 26). -/
def execEngStart (port : PortNo) (e : EngNo) (value : Word) (s : State) : Host.Outcome State Fault Refusal :=
  ok (s.reach port.val (ENG_CTRL (engCl e.val) (e.val % 4)) (fun s => s.startCommand port.val e.val value))

/-- The run that an engine holds. -/
def State.engRun (s : State) (e : Nat) : Option Run := (s.eng e).run.bind s.runOf

/-- The admission of a run decides on what it has read (R232-R234). -/
def State.admitRun (s : State) (r : Run) (x : AdmissionData) : State :=
  let t := s.releaseRun r
  match t.admission x with
  | some (cause, region) =>
    let u := (t.refuseRun { r with resBytes := [], resRbus := [], resPbus := 0 } codeAdmission)
    let u := r.clusters.foldl (fun u c =>
      ((u.setFld (VNR_STAT c) VNR_STAT_ADM_REFUSED 1).setFld (VNR_STAT c) VNR_STAT_ADM_CAUSE cause).setFld
        (VNR_STAT c) VNR_STAT_ADM_REGION region) u
    u.event codeAdmission 2 r.lowest (cause + region * 2 ^ 8) 0
  | none => ((t.reserveRun r x).keepStreams x).updRun r.id (fun y => { y with admitted := true })

/-- RUN_START: the admission of the run that an engine has joined, after the DAMAGED check of R341 (R232-R234). A run that gained an
engine is admitted anew. While a read must wait for the shared flow space nothing happens (log entry 51). -/
def execRunStart (e : EngNo) (finds : Finds) (s : State) : Host.Outcome State Fault Refusal :=
  match s.engRun e.val with
  | none => ok s
  | some r =>
    if r.admitted ∨ r.start.isSome then ok s
    else match (s.bundlesOf r).findSome? s.damagedPat with
      | some x => ok ((s.refuseRun r codeDamaged).event codeDamaged 4 x.1 x.2 0)
      | none => match s.admissionReads r finds with
        | some x => ok (x.2.admitRun r x.1)
        | none => ok s

/-! The start grain. -/

/-- An engine starts at the run's start grain g (R76, R188). -/
def State.startEngine (s : State) (e g : Nat) : State :=
  s.updEng e (fun x => { x with
    pc := if x.vform then s.fld (ENG_CTRL (x.lead / 4) (x.lead % 4)) ENG_CTRL_START_ADDR else x.pc,
    path := { counters := (s.eng x.lead).counters }, vResume := none, vaddr := 0, stack := [], lastStream := none, nextAt := some g, served := s.servedMask e, lastCheck := none,
    unpred := false, copied := none, drawn := none, took := none, lastBr := none, capEn := false, coll := {},
    sysChecks := [] })

/-- A cluster starts its part of a run at grain g: the underrun registers clear, its tenons count from g and enter the arrays, where
those that the Mortise has no room for wait (R74, log entry 49), and Scribe starts (R76, R85, R257). -/
def State.startCluster (s : State) (r : Run) (g c : Nat) : State :=
  let t := ((s.setReg (TMG_UR_GT_LO c) 0).setReg (TMG_UR_GT_HI c) 0).setReg (TMG_UR_LOST c) 0
  let own (l : List (Nat × Tenon)) : List Tenon :=
    (l.filter (fun y => y.1 == r.id)).map (fun y => { y.2 with stamp := y.2.stamp + g })
  let t := t.updCl c (fun x =>
    let m := addTenons x.mortise (own x.fill)
    { x with
      mortise := m.1, waitTenons := x.waitTenons ++ m.2, shadow := (addTenons x.shadow (own x.fillShadow)).1,
      fill := x.fill.filter (fun y => y.1 != r.id), fillShadow := x.fillShadow.filter (fun y => y.1 != r.id),
      cutEnd := none, cutLast := false })
  let units := bitsOf 16 ((r.engines.filter (fun e => engCl e == c)).foldl (fun m e => m ||| (t.eng e).served) 0)
  (t.scribeStart c g r.id r.lowest units).armLead c

/-- RUN_START_GRAIN: once every cluster of the run has reported START_FILL, the run starts 2,048 gr after the boundary at which the last
report reaches pin time, which lies at least 128 gr after it was made; an alignment to come holds it (R76, R77, R480, R496, R497). -/
def execRunStartGrain (e : EngNo) (g : Nat) (s : State) : Host.Outcome State Fault Refusal :=
  match s.engRun e.val with
  | none => ok s
  | some r =>
    if r.admitted ∧ r.start = none ∧ r.endCode = none ∧ r.clusters.all r.reports.contains ∧ g % 64 = 0 ∧
        r.lastReport + 2176 ≤ g ∧ s.gt ≤ g ∧ (s.bit VYN_SYS_STAT VYN_SYS_STAT_ALIGNED ∨ s.domainOthers = 0) then
      let t := (s.at g).updRun r.id (fun x => { x with start := some g })
      let t := r.engines.foldl (fun t k => t.startEngine k g) t
      ok (r.clusters.foldl (fun t c => t.startCluster r g c) t)
    else ok s

/-! Messages in pin time (R84, R139, R160, R496). -/

/-- What a value that comes into force does besides (R122, R159, R169, R173, R290, R299). `old` is the value before. -/
def State.forceEffect (s : State) (c b a : Nat) (old w : Word) : State :=
  match regLoc a with
  | none => s
  | some l =>
    if l.blk = 4 ∧ l.off < 0x100 then
      let u := l.off / 16
      if l.off % 16 = 0 then s.setCode c u b CMP_DAC_CODE_H (thresholdCode w)
      else if l.off % 16 = 4 then s.setCode c u b CMP_DAC_CODE_L (thresholdCode w)
      else s
    else if l.blk = 5 ∧ l.off < 0x100 then
      let u := l.off / 16
      if l.off % 16 = 0 then s.setFld (CLP_DAC c u) CLP_DAC_CODE_H (clampCode w)
      else if l.off % 16 = 4 then s.setFld (CLP_DAC c u) CLP_DAC_CODE_L (clampCode w)
      else if l.off % 16 = 12 ∧ getF old CLP_CTRL_EN ≠ getF w CLP_CTRL_EN then
        s.updPin (16 * c + u) (fun x => { x with filter := freshFilter })
      else s
    else if l.blk = 12 then
      (if l.off = 0 ∧ getF old ADC_CTRL_SRC ≠ getF w ADC_CTRL_SRC ∨ l.off = 8 then
        s.updAdc c (fun x => { x with timerSince := b })
      else s).adcDemand c
    else if l.blk = 2 ∧ 0x30000 ≤ l.off ∧ l.off < 0x30200 ∧ l.off % 32 = 0 ∧
        getF old TMG_TIA_CTRL_MODE ≠ getF w TMG_TIA_CTRL_MODE then
      s.updPin (16 * c + (l.off - 0x30000) / 32) (fun x => { x with tia := { x.tia with starts := [], stops := [] } })
    else if l.blk = 2 ∧ l.off < 0x20000 ∧ l.off % 2048 = 0 ∧ old ≠ w then
      (clEngines c).foldl (fun t e =>
        let x := t.eng e
        if x.word.isSome ∧ x.ts = l.off / 2048 ∧ x.baseAt < b then
          let k := (b - x.baseAt + x.period - 1) / x.period
          let at_ := x.baseAt + k * x.period
          let p := w.toNat + 1
          t.setEng e { x with
            baseAt := at_, baseCyc := x.baseCyc + k, period := p,
            nextAt := match x.word, x.nextAt with
              | some m, some _ => if x.baseCyc + k ≤ m.cycles then some (at_ + (m.cycles - (x.baseCyc + k)) * p) else x.nextAt
              | _, _ => none }
        else t) s
    else s

/-! The mode word at a boundary (R405-R407, R416, R417, Table 15-1). -/

/-- What the shutdown of a mode does at its boundary: players stop, digitisers abort, a pending converter start is discarded. -/
def State.beginShutdown (s : State) (c b m : Nat) : State :=
  match m with
  | 1 => (List.range 16).foldl (fun t u => t.endWave (16 * c + u) b) s
  | 2 => (s.abortDig (2 * c) b).abortDig (2 * c + 1) b
  | 3 =>
    let n := (match (s.adc c).waiting with
      | some _ => 1
      | none => 0)
    let t := if n = 1 then s.adcMissed c else s
    (t.updAdc c (fun x => { x with waiting := none })).adcPending c
  | _ => s

/-- One mode of the word at a boundary. -/
def State.stepMode (s : State) (c b m : Nat) : State :=
  let a := MOD_ACTIVE c
  let req := nbit (s.ffld (MOD_REQ c) MOD_REQ_REQ) m
  let act := s.fbit a MOD_ACTIVE_ACTIVE m
  let stop := s.fbit a MOD_ACTIVE_STOPPING m
  let set (t : State) (f : Fld) (v : Bool) : State := t.setFld a f (setNBit (t.fld a f) m v)
  if req then
    if act then s else if stop then set s MOD_ACTIVE_PENDING true else set s MOD_ACTIVE_ACTIVE true
  else if act then
    (set (set s MOD_ACTIVE_ACTIVE false) MOD_ACTIVE_STOPPING true).beginShutdown c b m
  else set s MOD_ACTIVE_PENDING false

/-- The mode word at a boundary (R405). -/
def State.stepModes (s : State) (c b : Nat) : State := [0, 1, 2, 3, 4, 5].foldl (fun t m => t.stepMode c b m) s

/-! The tenon boundary (R71-R85). -/

/-- The run of an engine has ended by a boundary: all that it plays stops before (R185). -/
def State.endedBy (s : State) (e b : Nat) : Bool :=
  match s.engRun e with
  | some r => (match r.endAt with
    | some a => decide (boundaryAfter a ≤ b)
    | none => false)
  | none => true

/-- An engine plays in the tenon that begins at a boundary. -/
def State.playsIn (s : State) (e b : Nat) : Bool :=
  s.playing e && !s.endedBy e b && (match s.engRun e with
    | some r => (match r.start with
      | some g => decide (g ≤ b)
      | none => false)
    | none => false)

/-- The lanes that feed an engine's pins in the tenon at a boundary: both when a met branch takes effect inside it (R195). -/
def State.lanesIn (s : State) (e b : Nat) : List Lane :=
  let x := s.eng e
  match x.pend with
  | some p =>
    if p.isWait = false ∧ p.at_ < b + 64 ∧ s.branchMet e p = true then
      (if b < p.at_ then [x.laneAt b] else []) ++ [otherLane x.live]
    else [x.laneAt b, x.laneAt (b + 63)]
  | none => [x.laneAt b, x.laneAt (b + 63)]

/-! The end of a run (R185). -/

/-- Whether every engine of a run has passed the close of its HALT, and the latest of these grains. -/
def State.allHalted (s : State) (r : Run) : Option Nat :=
  if r.engines.all (fun e => (s.eng e).halted.isSome) then
    some (r.engines.foldl (fun m e => max m ((s.eng e).halted.getD 0)) 0)
  else none

/-- The end code of a run that ends at grain g, none when it does not end there. -/
def State.endsAt (s : State) (r : Run) (g : Nat) : Option Nat :=
  let fine := if r.underrun then codeUnderrun else codeOk
  match r.endCode, s.allHalted r with
  | none, some h => if g = boundaryAfter h then some fine else none
  | some k, h =>
    match r.endAt, h with
    | some a, some h =>
      if boundaryAfter h < boundaryAfter a then (if g = boundaryAfter h then some fine else none)
      else if g = boundaryAfter a then some k else none
    | some a, none => if g = boundaryAfter a then some k else none
    | none, _ => if g % 64 = 0 ∧ s.gt ≤ g then some k else none
  | none, none => none

/-- The pins of an engine play their idle codes from the end of the run: no later edge or strobe of a cycle in progress (R185). -/
def State.endPins (s : State) (e g : Nat) : State :=
  let t := s.cutPins e g
  (bitsOf 16 (s.eng e).served).foldl (fun t u =>
    let p := 16 * engCl e + u
    let t := (t.flushEdge p).stopPlayer p g
    if t.holdNow p then t.holdPin p g else t.updPin p (fun x => x.playIdle (s.idleCode p))) t

/-- The cluster summary of a run (Table 14-5). -/
def State.summaryOf (s : State) (r : Run) (c code g : Nat) : Summary :=
  let f := s.fig c r.id
  let b (x : Bool) (k : Nat) : Nat := if x then 2 ^ k else 0
  { cluster := c
    endCode := code
    flags := b f.underrun 0 + b f.leadLow 1 + b f.counted 2 + b f.lost 3 +
      b (s.bit (CAL_STAT c) CAL_STAT_UNVER_T || s.bit (CAL_STAT c) CAL_STAT_UNVER_DC) 4 + b r.flow.isSome 5 + b f.sat 6
    lowEng := r.lowest
    gt := g
    failPins := f.failPins
    tripPins := f.tripPins
    failResults := f.failResults
    firstFail := match f.firstFail with
      | some x => x.1 % 2 ^ 56 + x.2 * 2 ^ 56 + 2 ^ 63
      | none => 0
    records := f.written
    lost := f.lostCount
    urLost := s.fld (TMG_UR_LOST c) TMG_UR_LOST_LOST
    minLead := f.minLead
    flow := r.flow
    run := r.id }

/-- A DRAIN with CUT 0 learns the boundary at which a run of its cluster ended (R420). -/
def noteDrainEnd (g : Nat) (v : Service) : Service := if v.op = 1 ∧ v.cut = false then { v with eGrain := some g } else v

/-- A cluster's part of a run ends at grain g: Scribe's end, the summary, the arrays (R185, R258, R401). -/
def State.endCluster (s : State) (r : Run) (code g c : Nat) : State :=
  let mine := r.engines.filter (fun e => engCl e == c)
  let units := bitsOf 16 (mine.foldl (fun m e => m ||| (s.eng e).served) 0)
  let more := (clEngines c).any (fun e => !mine.contains e && s.playing e)
  let t := mine.foldl (fun t e => t.endPins e g) s
  let t := t.scribeEnd c g r.id units more
  let y := t.summaryOf r c code g
  t.updCl c (fun x => { x with
    toSend := x.toSend ++ [y], figs := x.figs.filter (fun z => z.1 != r.id), svc := x.svc.map (noteDrainEnd g),
    waitTenons := if more then mine.foldl (fun l e => stripEngine (e % 4) l) x.waitTenons else [],
    mortise := if more then mine.foldl (fun l e => stripEngine (e % 4) l) x.mortise else [],
    shadow := if more then mine.foldl (fun l e => stripEngine (e % 4) l) x.shadow else [],
    curMain := if more then x.curMain else none, curShadow := if more then x.curShadow else none,
    missing := more && x.missing, cutEnd := if more then x.cutEnd else none, cutLast := more && x.cutLast })

/-- A started run ends at grain g with a code. -/
def State.finishRun (s : State) (r : Run) (code g : Nat) : State :=
  let t := r.clusters.foldl (fun t c => t.endCluster r code g c) (s.at g)
  let t := r.clusters.foldl (fun t c => (List.range 16).foldl (fun t u => t.showContact s (16 * c + u) g) t) t
  let t := r.engines.foldl (fun t e => (t.endCode e code).leaveRun e) t
  let t := r.clusters.foldl (fun t c => t.armLead c) t
  { (t.releaseRun r) with runs := (t.releaseRun r).runs.filter (fun x => x.id != r.id) }

/-- RUN_END: the run of an engine ends at tenon boundary g, after the close of its last HALT or after a status that ended it; a run
whose start grain has not been fixed ends as one refused at its start (R83, R185, R235, R258, R401, R420). -/
def execRunEnd (e : EngNo) (g : Nat) (s : State) : Host.Outcome State Fault Refusal :=
  match s.engRun e.val with
  | none => ok s
  | some r =>
    match r.start with
    | none => (match r.endCode with
      | some k => ok (s.refuseRun r k)
      | none => ok s)
    | some _ => (match s.endsAt r g with
      | some code => ok (s.finishRun r code g)
      | none => ok s)

/-! Deadlock (R203-R206). -/

/-- The selector that an engine waits on. -/
def State.waitSelOf (s : State) (e : Nat) : Nat :=
  match (s.eng e).word with
  | some w => w.waitSel
  | none => 0

/-- An engine has left a WAIT by a check that succeeded, and the word that it has sequenced next sets a flag (R202, R204). -/
def State.nextSets (s : State) (e key : Nat) : Bool :=
  let x := s.eng e
  (match x.pend with
    | some p => p.isWait
    | none => false) &&
  if x.hform then
    let y := (s.setEng e { x with pc := x.nextPc }).steer e
    match s.fetched e y with
    | some h => (microOf h).sigOp == 1 && flagOfSel (engCl e) (microOf h).sigSel == some key
    | none => false
  else
    let v := vopOf (s.storeWord (wsAddr x.lead (x.pc % 65536 / 4))) (x.pc % 4)
    v.vop == 10 && slice v.operand 10 2 == 1 && flagOfSel (engCl e) (slice v.operand 0 10) == some key

/-- A release source for the flags a run waits on: a running engine of the package that neither waits nor has halted, a SIG_OP that sets
the waited flag in the word after a WAIT that has been met, a set of a system flag that is due, or a partner write of the flag that
has not taken effect, on its way to pin time or due as a system flag (R204). Sources of other packages and their messages are the
sender's to rule out (log entry 53). -/
def State.releaseSource (s : State) (r : Run) : Bool :=
  s.runningEngines.any (fun e => !(s.eng e).waiting && (s.eng e).halted.isNone) ||
  (r.engines.filter (fun e => (s.eng e).waiting)).any (fun e =>
    match flagOfSel (engCl e) (s.waitSelOf e) with
    | some k => s.runningEngines.any (fun j => s.nextSets j k) ||
        s.sysFlagDue.any (fun x => x.1 + 3000 == k && (x.2.2.1 || x.2.2.2 % 10000 == srcPartner)) ||
        s.inFlight.any (fun m => match flagReg m.addr with
          | some (keys, _) => (bitsOf keys.length m.value.toNat).any (fun i => keys.getD i 0 == k)
          | _ => false)
    | none => false)

/-- ENG_DL_WAIT of an engine of a run that ends with DEADLOCK (R206); a halted engine's WAIT_SEL is a free value (log entry 27). -/
def State.recordWait (s : State) (e : Nat) : State :=
  let a := ENG_DL_WAIT (engCl e) (e % 4)
  let sel := if (s.eng e).waiting then s.waitSelOf e else Config.freeNat s.free % 1024
  let t := if (s.eng e).waiting then s else s.useFree
  ((t.setFld a ENG_DL_WAIT_VALID 1).setFld a ENG_DL_WAIT_WAIT_SEL sel).setFld a ENG_DL_WAIT_ADDR (t.fld (engStat e) ENG_STAT_PC)

/-- DEADLOCK: the detector has counted 4,096 quiet stage turns of the run of an engine; the end reaches pin time at grain g (R203,
R205, R206). -/
def execDeadlock (e : EngNo) (g : Nat) (s : State) : Host.Outcome State Fault Refusal :=
  match s.engRun e.val with
  | none => ok s
  | some r =>
    if r.start.isSome ∧ r.endCode = none ∧
        r.engines.all (fun k => (s.eng k).waiting || (s.eng k).halted.isSome) = true ∧
        r.engines.any (fun k => (s.eng k).waiting) = true ∧ s.releaseSource r = false then
      let t := r.engines.foldl (fun t k => t.recordWait k) (s.at g)
      ok ((t.endRun e.val codeDeadlock (some g)).event codeDeadlock 2 r.lowest 0 g)
    else ok s

end Sys2Proof.Machine
end

