-- ==== Sys2Proof/Machine/Stores.lean ====
section
/-! DEFINITION. Control stores as partners reach them (R211-R213), HBM shares (R227, R233), links to the pin front-end dies,
fences and the safe state (R41-R46). -/

namespace Sys2Proof.Machine

/-! Indirect access to stores (R211, Table 6-7). -/

/-- STORE and ADDR of a written ENG_CS_CMD. -/
def csStore (v : Word) : Nat := getF v ENG_CS_CMD_STORE
/-- The word address, within the store. -/
def csAddr (v : Word) : Nat :=
  if csStore v < 4 then getF v ENG_CS_CMD_ADDR % 16384 else if csStore v = 4 then getF v ENG_CS_CMD_ADDR % 256
  else getF v ENG_CS_CMD_ADDR

/-- The store address of R518 of a word of store 0 to 4 of a cluster. -/
def csTarget (c : Nat) (v : Word) : Nat := if csStore v < 4 then wsAddr (4 * c + csStore v) (csAddr v) else psAddr c (csAddr v)

/-- The five words of ENG_CS_DATA of an H-form word (R211). -/
def State.putCsData (s : State) (c : Nat) (w : HBits) : State :=
  [0, 1, 2, 3, 4].foldl (fun t k => t.setReg (ENG_CS_DATA c k) (BitVec.ofNat 32 (slice w.toNat (32 * k) (if k = 4 then 16 else 32)))) s

/-- The H-form word that ENG_CS_DATA holds (R211). -/
def State.csData (s : State) (c : Nat) : HBits :=
  BitVec.ofNat 144 ([0, 1, 2, 3, 4].foldl (fun m k =>
    m + (s.reg (ENG_CS_DATA c k)).toNat % 2 ^ (if k = 4 then 16 else 32) * 2 ^ (32 * k)) 0)

/-- An ENG_CS_CMD access is refused: REFUSED and a violation (R211). -/
def State.csRefuse (s : State) (port c inst : Nat) : State :=
  (s.setFld (ENG_CS_CMD c) ENG_CS_CMD_REFUSED 1).violation 0x02 port 0 inst (ENG_CS_CMD c)

/-- A store access is a read or a write of stores 0 to 5. -/
def csGo (v : Word) (wr : Bool) : Bool :=
  getF v ENG_CS_CMD_GO == 1 && getF v ENG_CS_CMD_WR == (if wr then 1 else 0) && decide (csStore v < 6)

/-- A read of a store, patch store or ROM word; one that is poisoned reads as ones, and the read may find an error (R211, R334, R336,
R338). -/
def State.csReadNow (s : State) (c : Nat) (v : Word) (finds : Finds) : State :=
  if csStore v = 5 then s.putCsData c (romAt (csAddr v))
  else
    let s := s.meetWord (csTarget c v) finds
    if s.storeBad (csTarget c v) then s.putCsData c (BitVec.allOnes 144)
    else s.putCsData c (s.storeWord (csTarget c v))

/-- Whether a write of a store is refused: the engine runs, an engine of the cluster runs for the patch store, the ROM always
(R211). -/
def State.csBusy (s : State) (c : Nat) (v : Word) : Bool :=
  if csStore v < 4 then (s.eng (4 * c + csStore v)).run.isSome
  else if csStore v = 4 then (clEngines c).any (fun e => (s.eng e).run.isSome)
  else true

/-- The engines that a reload of a store word quiesces. -/
def storeEngines (a : Nat) : List Nat :=
  if a < 0x3FE01000000 then [(a - 0x3FE00000000) / 0x10000] else clEngines ((a - 0x3FE01000000) / 0x100)

/-- A START held during a quiesce takes effect when nothing quiesces the engine any more. -/
def State.releaseStart (s : State) (e : Nat) : State :=
  match (s.eng e).heldStart with
  | some port =>
    if s.quiesced e then s else (s.updEng e (fun x => { x with heldStart := none })).startNow port e
  | none => s

/-- A write of a store word, which counts as written by a partner and lifts its poison (R211, Table 12-2);
a START that a reload of the word held takes effect (R340). -/
def State.csWriteNow (s : State) (port c : Nat) (v : Word) : State :=
  if s.csBusy c v then s.csRefuse port c (if csStore v < 4 then 4 * c + csStore v else c)
  else
    let a := csTarget c v
    (storeEngines a).foldl State.releaseStart (((s.setStoreWord a (s.csData c)).setStoreBad a false).setStoreHeld a true)

/-- CS_READ: ENG_CS_CMD with GO 1 and WR 0. -/
def execCsRead (port : PortNo) (c : ClNo) (value : Word) (finds : Finds) (s : State) : Host.Outcome State Fault Refusal :=
  ok (s.reach port.val (ENG_CS_CMD c.val) (fun s => if csGo value false then s.csReadNow c.val value finds else s))

/-- CS_WRITE: ENG_CS_CMD with GO 1 and WR 1. -/
def execCsWrite (port : PortNo) (c : ClNo) (value : Word) (s : State) : Host.Outcome State Fault Refusal :=
  ok (s.reach port.val (ENG_CS_CMD c.val) (fun s => if csGo value true then s.csWriteNow port.val c.val value else s))

/-- CS_STORE_REFUSED: STORE 6 and 7 are refused (Table 6-7). -/
def execCsStoreRefused (port : PortNo) (c : ClNo) (value : Word) (s : State) : Host.Outcome State Fault Refusal :=
  ok (s.reach port.val (ENG_CS_CMD c.val) (fun s =>
    if getF value ENG_CS_CMD_GO = 1 ∧ 6 ≤ csStore value then s.csRefuse port.val c.val c.val else s))

/-- ENG_PM_WRITE: a patch match register is stored unless an engine of the cluster runs (R213). -/
def execEngPmWrite (port : PortNo) (c : ClNo) (n : Fin 64) (value : Word) (s : State) : Host.Outcome State Fault Refusal :=
  let a := ENG_PM c.val n.val
  ok (s.reach port.val a (fun s =>
    if (clEngines c.val).any (fun e => (s.eng e).run.isSome) then s.violation 0x01 port.val 0 c.val a
    else s.partnerWrite a value 15))

/-- HBM_SHARE_WRITE: the shares are stored unless they exceed 240 together (R227, R233). -/
def execHbmShareWrite (port : PortNo) (r : RgNo) (value : Word) (be : BitVec 4) (s : State) :
    Host.Outcome State Fault Refusal :=
  let a := MEM_HBM_SHARE r.val
  ok (s.reach port.val a (fun s =>
    let w := (s.partnerWrite a value be).reg a
    if 240 < getF w MEM_HBM_SHARE_VEC + getF w MEM_HBM_SHARE_FAIL + getF w MEM_HBM_SHARE_ACQ then
      s.violation 0x01 port.val 0 r.val a
    else s.partnerWrite a value be))

/-! Links, fences, the safe state. -/

/-- LINK_HEARTBEAT: SD r / 2 or HD sends PF r a heartbeat (R46). -/
def execLinkHeartbeat (r : RgNo) (die : LinkDie) (g : Nat) (s : State) : Host.Outcome State Fault Refusal :=
  let t := (s.at g).updRg r.val (fun x => match die with
    | .slice => { x with lastSlice := max g x.lastSlice }
    | .hub => { x with lastHub := max g x.lastHub })
  ok (t.send (.heartbeat r.val (die == .hub)))

/-- Whether a link of PF r has been declared silent. -/
def RgSt.silent (x : RgSt) : LinkDie → Bool
  | .slice => x.silentSlice
  | .hub => x.silentHub

/-- The grain of the last transfer on a link of PF r. -/
def RgSt.lastOn (x : RgSt) : LinkDie → Nat
  | .slice => x.lastSlice
  | .hub => x.lastHub

/-- The safe state of a region becomes due, unless it is due or in force already (R45). -/
def State.safeFrom (s : State) (r g : Nat) : State :=
  s.updRg r (fun x => if x.safe || x.safeDue.isSome then x else { x with safeDue := some (g + 4096) })

/-- LINK_SILENT: no transfer on a link for 32,768 gr at grain g: the link is declared silent (R46). -/
def execLinkSilent (r : RgNo) (die : LinkDie) (g : Nat) (s : State) : Host.Outcome State Fault Refusal :=
  if (s.rg r.val).lastOn die + 32768 ≤ g ∧ (s.rg r.val).silent die = false then
    let t := (s.at g).updRg r.val (fun x => match die with
      | .slice => { x with silentSlice := true }
      | .hub => { x with silentHub := true })
    ok (t.safeFrom r.val g)
  else ok s

/-- The pins of region r. -/
def regionPins (r : Nat) : List Nat := (List.range 128).map (· + 128 * r)

/-- SAFE_STATE_ENTRY: 4,096 gr after a fence or a declared silence every pin of region r enters the safe state (R44, R45, R497). No rule
says when the safe state that a silent link has caused ends, should the link carry transfers again: it lasts until the package reset
(DESIGN CHOICE, log entry 130). -/
def execSafeStateEntry (r : RgNo) (g : Nat) (s : State) : Host.Outcome State Fault Refusal :=
  match (s.rg r.val).safeDue with
  | some d =>
    if s.gt ≤ g ∧ g = d then
      let t := (s.at g).updRg r.val (fun x => { x with safe := true, safeDue := none })
      ok ((regionPins r.val).foldl (fun u p => (u.safeHold p g).showContact s p g) t)
    else ok s
  | none => ok s

/-- Every run with a cluster for which a test holds ends with a status that reaches the pins at no fixed grain. -/
def State.endRunsIf (s : State) (code : Nat) (g : Option Nat) (test : Run → Bool) : State :=
  (s.runs.filter test).foldl (fun t r => t.endRun r.lowest code g) s

/-- Regions 2s and 2s + 1 are fenced: their runs end with DATA_LOST (R41-R43, R45). -/
def State.fence (s : State) (d : Nat) : State :=
  if (s.rg (2 * d)).fenced && (s.rg (2 * d + 1)).fenced then s
  else
    let t := [2 * d, 2 * d + 1].foldl (fun t r => (t.updRg r (fun x => { x with fenced := true })).safeFrom r s.gt) s
    let t := t.endRunsIf codeDataLost none (fun r => r.clusters.any (fun c => c / 16 == d))
    t.event codeDataLost 4 (2 * d) (maskOf [2 * d, 2 * d + 1]) 0

/-- SLICE_DIE_FENCE: an uncorrectable spine error or a spine handshake of 16,384 st fences slice die d (R41). -/
def execSliceDieFence (d : DieNo) (s : State) : Host.Outcome State Fault Refusal :=
  ok (s.fence d.val)

end Sys2Proof.Machine
end

