-- ==== Sys2Proof/Machine/Reference.lean ====
section
/-! DEFINITION. The timebase and its reference (R63-R70), package reset, core voltage (R506, R507) and the rails (R509, R510). -/

namespace Sys2Proof.Machine

/-! Package reset. -/

/-- The fuses as a package reset leaves them: one that comes while fuses are programmed leaves a free number of those still to be
programmed, from fuse 0 up (R444, R445). -/
def State.fusesLeft (s : State) : Nat :=
  match s.boot.lcTarget with
  | some n => s.fuses ||| (2 ^ (s.lc + Config.freeNat s.free % (n - s.lc + 1)) - 1)
  | none => s.fuses

/-- Package reset (R509, R517): everything at its reset value but the flash, the fuses and the levels of the pins; GT goes on
counting until the first lock clears it (R70), a wrap before the reset forgotten (R129), and boot starts when RESET_N is high. -/
def State.packageReset (s : State) : State :=
  let t : State := { State.reset with
    pending := s.pending, gt := s.gt64, free := s.free + 1, outs := s.outs, flash := s.flash, fuses := s.fusesLeft,
    resetN := s.resetN, tamperN := s.tamperN, boot := { phase := if s.resetN then 1 else 0 } }
  (List.range 8).foldl (fun t r => t.updRg r (fun x => { x with lastSlice := s.gt64, lastHub := s.gt64 })) t

/-! GT loads. -/

/-- Every entry of a table changed, in canonical form. -/
def tmap {α : Type} [DecidableEq α] (d : Nat → α) (f : α → α) (t : Tbl α) : Tbl α :=
  t.foldl (fun u x => tput d u x.1 (f x.2)) []

/-- A grain counted from the old GT, counted from the new one: the grains that have passed stay the same. -/
def moved (old new x : Nat) : Nat := x + new - old

/-- A time in 1/16 kf counted from the old GT, counted from the new one. -/
def movedT (f : Nat → Nat) (t : Nat) : Nat := f (t / 1024) * 1024 + t % 1024

/-- The grains that a pin remembers, when GT is loaded; the cycles of ended runs are forgotten. -/
def PinSt.rebase (f : Nat → Nat) (x : PinSt) : PinSt :=
  { x with
    heldFrom := f x.heldFrom, oldCodes := x.oldCodes.map (fun y => (f y.1, y.2)), latchAt := x.latchAt.map f
    latchSpans := x.latchSpans.map (fun y => (f y.1, f y.2)), lastRise := x.lastRise.map f, lastFall := x.lastFall.map f
    pulse := x.pulse.map (fun y => (f y.1, y.2)), pmuSince := f x.pmuSince, cyc := none, prev := none
    tia := { x.tia with starts := x.tia.starts.map (movedT f), stops := x.tia.stops.map (movedT f) } }

/-- A converter start, when GT is loaded. -/
def ConvStart.rebase (f : Nat → Nat) (x : ConvStart) : ConvStart := { x with grain := f x.grain }

/-- The grains that a cluster converter remembers, when GT is loaded. -/
def Adc.rebase (f : Nat → Nat) (x : Adc) : Adc :=
  { x with
    starts := x.starts.map (ConvStart.rebase f), waiting := x.waiting.map (ConvStart.rebase f), timerSince := f x.timerSince,
    refused := x.refused.map f, lastEnd := x.lastEnd.map f, seq := x.seq.map (fun q => { q with start := q.start.rebase f, begin_ := f q.begin_ }) }

/-- The grains that a cluster remembers, when GT is loaded: its next tenon boundary is the next multiple of 64 of the new GT. -/
def ClSt.rebase (f : Nat → Nat) (x : ClSt) : ClSt :=
  { x with
    boundary := none, missed := [], adc := x.adc.rebase f,
    gauge := { x.gauge with
      interruption := x.gauge.interruption.map (fun y => (y.1, f y.2.1, y.2.2)), applyAt := x.gauge.applyAt.map f,
      stepEnd := x.gauge.stepEnd.map f },
    svc := x.svc.map (fun v => { v with dGrain := f v.dGrain, eGrain := v.eGrain.map f, rGrain := f v.rGrain, endAt := v.endAt.map f }) }

/-- The grains of a digitiser's phase, when GT is loaded. -/
def AcqPhase.rebase (f : Nat → Nat) : AcqPhase → AcqPhase
  | .idle => .idle
  | .armed a => .armed (f a)
  | .acquiring a n forced => .acquiring (f a) (f n) forced

/-- The grains that a digitiser remembers, when GT is loaded. -/
def DigSt.rebase (f : Nat → Nat) (x : DigSt) : DigSt :=
  { x with phase := x.phase.rebase f, rangeDue := x.rangeDue.map f, flagDue := x.flagDue.map (fun y => (y.1, f y.2)) }

/-- The grains that a region remembers, when GT is loaded. -/
def RgSt.rebase (f : Nat → Nat) (x : RgSt) : RgSt :=
  { x with
    safeDue := x.safeDue.map f, lastSlice := f x.lastSlice, lastHub := f x.lastHub,
    prec := { x.prec with nextAt := f x.prec.nextAt, due := x.prec.due.map (fun y => (f y.1, y.2)) } }

/-- What a flow entry waits for, when GT is loaded. -/
def FlowWaitFor.rebase (f : Nat → Nat) : FlowWaitFor → FlowWaitFor
  | .gt u => .gt (f u)
  | x => x

/-- GT is loaded with a new value; no run is in progress. Grains that stand for elapsed time move with it. -/
def State.loadGt (s : State) (new : Nat) : State :=
  let f := moved s.gt new
  { s with
    gt := new
    inFlight := s.inFlight.map (fun m => { m with sent := f m.sent, reached := m.reached.map f })
    flagSets := []
    sysFlagDue := s.sysFlagDue.map (fun x => (x.1, f x.2.1, x.2.2))
    lateFlags := s.lateFlags.map (fun x => (x.1, f x.2.1, f x.2.2))
    pins := tmap (fun _ => {}) (PinSt.rebase f) s.pins
    clusters := tmap (fun _ => {}) (ClSt.rebase f) s.clusters
    digs := tmap (fun _ => {}) (DigSt.rebase f) s.digs
    regions := tmap (fun _ => {}) (RgSt.rebase f) s.regions
    flows := tmap (fun _ => {}) (fun x => { x with waiting := x.waiting.rebase f }) s.flows
    runs := s.runs.map (fun r => { r with lastReport := f r.lastReport })
    hub := { s.hub with holdSince := s.hub.holdSince.map f, slewAt := f s.hub.slewAt, conflictAt := s.hub.conflictAt.map f }
    vyn := { s.vyn with lastLease := f s.vyn.lastLease } }

/-! Lock, holdover, return. -/

/-- Every pin of the package is held (R44). -/
def State.holdAll (s : State) : State := (List.range 1024).foldl (fun t p => t.safeHold p s.gt) s

/-- HD.SYS_REF_CTRL.TSEL: the selected timing reference. -/
def State.tsel (s : State) : Nat := s.fld SYS_REF_CTRL SYS_REF_CTRL_TSEL

/-- REF_SUSPECT for reference x of a quantity (0 timing, 1 voltage) with a cause (Table 17-3). -/
def State.refSuspect (s : State) (x quantity cause : Nat) : State :=
  s.event codeRefSuspect 6 x (quantity + cause * 2 ^ 8) 0

/-- HOLDOVER ends: the phase error is below 1 kf, or the reference changes (R68, R69). -/
def State.endHoldover (s : State) : State :=
  (s.setBit SYS_REF_CTRL SYS_REF_CTRL_HOLDOVER false).updHub (fun h =>
    { h with holdSince := none, phaseErr := 0, slewing := false, holdSafe := false })

/-- The reference is switched: the timebase leaves lock, every pin is in the safe state, and in a sync domain of two or more packages
ALIGNED clears (R66, R482). It ends holdover, a change of TFREQ alone too, for the frequency that was held counts no more; R69 names
only the return and the change of TSEL (DESIGN CHOICE, log entry 65). -/
def State.refSwitch (s : State) : State :=
  let t := (s.endHoldover).setBit SYS_REF_CTRL SYS_REF_CTRL_LOCKED false
  let t := t.updHub (fun h => { h with aligning := false })
  let t := if t.domainOthers = 0 then t else t.setBit VYN_SYS_STAT VYN_SYS_STAT_ALIGNED false
  t.holdAll

/-- Phase 7 of boot begins: every cluster enters CALIBRATE and is asked for both calibrations, whose ends count from here on (Table 16-5,
R312, R437). -/
def State.bootCalibrate (s : State) : State :=
  let t := (List.range 64).foldl (fun t c =>
    let t := t.updCl c (fun x => { x with gauge := { x.gauge with endedT := 0, endedDc := 0 } })
    ((t.modReqNow c 0x10).setBit (CAL_CTRL c) CAL_CTRL_REQ_DC true).setBit (CAL_CTRL c) CAL_CTRL_REQ_T true) s
  t.updBoot (fun b => { b with phase := 7 })

/-- The first lock after a package reset clears GT (R70). -/
def State.firstLock (s : State) : State :=
  let t := s.loadGt 0
  if s.hub.gtCleared then s else t.updHub (fun h => { h with gtCleared := true })

/-- A timing failover is over: STOP_T clears (R329). -/
def State.failoverDone (s : State) : State :=
  let t := s.setBit CAL_REF_STAT CAL_REF_STAT_STOP_T false
  t.updHub (fun h => { h with failoverT := false })

/-- TIMEBASE_LOCK: at grain g the timebase reaches lock; after a package reset GT is cleared there (R66, R70). A package in a sync
domain of one is its own master and aligned (R469, log entry 14); a timing failover clears STOP_T (R329). Before the CONFIG prelude and
after a failed boot the timebase does not lock. Boot that has loaded every section goes on with phase 7. -/
def execTimebaseLock (g : Nat) (s : State) : Host.Outcome State Fault Refusal :=
  if s.bit SYS_REF_CTRL SYS_REF_CTRL_LOCKED = false ∧ 5 ≤ s.boot.phase ∧ s.boot.phase ≤ 8 then
    let t := s.at g
    let t := t.firstLock.setBit SYS_REF_CTRL SYS_REF_CTRL_LOCKED true
    let t := if t.boot.phase = 6 then t.bootCalibrate else t
    let t := if t.domainOthers = 0 then
        (t.setBit VYN_SYS_STAT VYN_SYS_STAT_ALIGNED true).setBit VYN_SYS_STAT VYN_SYS_STAT_IS_MASTER
          (!t.bit VYN_SYS_STAT VYN_SYS_STAT_NOMASTER)
      else t
    ok (if t.hub.failoverT then t.failoverDone else t)
  else ok s

/-- HOLDOVER_ENTRY: the selected reference shows no edge for 16 periods at grain g (R67). GT keeps counting at the last frequency and
LOCKED stays 1 meanwhile; Table 2-3 does not say it (DESIGN CHOICE, log entry 66). -/
def execHoldoverEntry (g : Nat) (s : State) : Host.Outcome State Fault Refusal :=
  if s.bit SYS_REF_CTRL SYS_REF_CTRL_LOCKED ∧ s.bit SYS_REF_CTRL SYS_REF_CTRL_HOLDOVER = false then
    let t := (s.at g).setBit SYS_REF_CTRL SYS_REF_CTRL_HOLDOVER true
    ok ((t.updHub (fun h => { h with holdSince := some g })).refSuspect t.tsel 0 0)
  else ok s

/-- REF_RETURN: the selected reference returns at grain g with a phase error in kf; below 1 kf holdover ends at once (R68). -/
def execRefReturn (g : Nat) (phaseKf : Int) (s : State) : Host.Outcome State Fault Refusal :=
  if s.bit SYS_REF_CTRL SYS_REF_CTRL_HOLDOVER then
    let t := s.at g
    if phaseKf = 0 then ok t.endHoldover
    else ok (t.updHub (fun h => { h with phaseErr := phaseKf, slewing := true, slewAt := g + 64 }))
  else ok s

/-- The phase error after a step of 1 kf. -/
def slewed (x : Int) : Int := if 0 < x then x - 1 else x + 1

/-- An alignment is complete: ALIGNED, and pins leave the safe state of an epoch conflict. One that has not been entered yet is still
due, C + 4,096 gr being exact (R478, R480). -/
def State.alignDone (s : State) : State :=
  let t := s.setBit VYN_SYS_STAT VYN_SYS_STAT_ALIGNED true
  t.updHub (fun h => { h with phaseErr := 0, aligning := false, conflictSafe := false })

/-- PHASE_SLEW_STEP: the phase moves 1 kf, at most once in 64 gr; below 1 kf holdover ends, or the correction of an alignment, which
is then measured again (R68, R480). -/
def execPhaseSlewStep (g : Nat) (s : State) : Host.Outcome State Fault Refusal :=
  if (s.hub.slewing || s.hub.aligning) ∧ s.hub.phaseErr ≠ 0 ∧ s.hub.slewAt ≤ g then
    let e := slewed s.hub.phaseErr
    let t := s.at g
    let t := t.updHub (fun h => { h with phaseErr := e, slewAt := g + 64 })
    if e ≠ 0 then ok t
    else
      let u := t.updHub (fun h => { h with aligning := false })
      ok (if t.hub.slewing then u.endHoldover else u)
  else ok s

/-- HOLDOVER_TIMEOUT: after 67,108,864 gr of holdover every pin goes to the safe state and every run ends with REF_SUSPECT (R69). -/
def execHoldoverTimeout (g : Nat) (s : State) : Host.Outcome State Fault Refusal :=
  if s.bit SYS_REF_CTRL SYS_REF_CTRL_HOLDOVER ∧ s.hub.holdSince = some (g - 67108864) ∧ 67108864 ≤ g then
    let t := s.at g
    let t := t.updHub (fun h => { h with holdSafe := true })
    ok ((t.holdAll).endRunsIf codeRefSuspect (some g) (fun _ => true))
  else ok s

/-- Whether any cluster has RUN, SOURCE, CAPTURE or CALIBRATE in ACTIVE (R65). -/
def State.anyBusyMode (s : State) : Bool := (List.range 64).any (fun c => s.active c &&& 23 != 0)

/-- A partner's write of SYS_REF_CTRL: one that changes TSEL or TFREQ switches the reference, or is ignored and logged while a cluster
is busy (R65, R66). -/
def State.refCtrl (s : State) (port : Nat) (value : Word) (be : BitVec 4) : State :=
  let t := s.partnerWrite SYS_REF_CTRL value be
  if t.reg SYS_REF_CTRL = s.reg SYS_REF_CTRL then s
  else if s.anyBusyMode then s.violation 0x01 port 0 0 SYS_REF_CTRL
  else t.refSwitch

/-- REF_CTRL_WRITE (R65, R66). -/
def execRefCtrlWrite (port : PortNo) (value : Word) (be : BitVec 4) (s : State) : Host.Outcome State Fault Refusal :=
  ok (s.reach port.val SYS_REF_CTRL (fun s => s.refCtrl port.val value be))

/-! Core voltage. -/

/-- FIXED as it acts: 2 to 38 (Table 20-3). -/
def State.vidFixed (s : State) : Nat := max 2 (min 38 (s.fld SYS_VCORE_CTRL SYS_VCORE_CTRL_FIXED))
/-- CEIL as it acts: at most 38, at least 2 (R506). -/
def State.vidCeil (s : State) : Nat := max 2 (min 38 (s.fld SYS_VCORE_LIM SYS_VCORE_LIM_CEIL))
/-- FLOOR as it acts: at least 2; above CEIL it acts as CEIL (R507). -/
def State.vidFloor (s : State) : Nat := min s.vidCeil (max 2 (s.fld SYS_VCORE_LIM SYS_VCORE_LIM_FLOOR))

/-- The code that VID shows after a measurement of the replicas (R507). -/
def State.vidNext (s : State) (replicas : List Nat) : Nat :=
  let v := s.fld SYS_VCORE_STAT SYS_VCORE_STAT_VID
  let slowest := replicas.foldl max 0
  let target := s.fld SYS_VCORE_CTRL SYS_VCORE_CTRL_TARGET
  if s.bit SYS_VCORE_CTRL SYS_VCORE_CTRL_MODE then
    max s.vidFloor (min s.vidCeil (if target < slowest then v + 1 else if slowest + 50 < target then v - 1 else v))
  else s.vidFixed

/-- VCORE_MEASURE: every 1,048,576 gr the replica stage turns are measured, in ps (R507). -/
def execVcoreMeasure (g : Nat) (replicas : List Nat) (s : State) : Host.Outcome State Fault Refusal :=
  if g % 1048576 = 0 then
    let v := s.vidNext replicas
    ok (((s.at g).setFld SYS_VCORE_STAT SYS_VCORE_STAT_ST_PS (min 1023 (replicas.foldl max 0))).setFld
      SYS_VCORE_STAT SYS_VCORE_STAT_VID v)
  else ok s

/-! Rails. -/

/-- RAIL_UNDERVOLTAGE: VDD_IO or VDD_CORE below its limit for 1 µs is a package reset (R510). -/
def execRailUndervoltage (_rail : CoreRail) (s : State) : Host.Outcome State Fault Refusal := ok s.packageReset

/-- FRONT_END_RAIL_FAULT: every slice die is fenced (R510). -/
def execFrontEndRailFault (_rail : FeRail) (s : State) : Host.Outcome State Fault Refusal :=
  ok ([0, 1, 2, 3].foldl State.fence s)

/-- HBM_RAIL_FAULT: the slice die of the stack is fenced (R510). -/
def execHbmRailFault (r : RgNo) (s : State) : Host.Outcome State Fault Refusal := ok (s.fence (r.val / 2))

end Sys2Proof.Machine
end

