-- ==== Sys2Proof/Machine/Gauge.lean ====
section
/-! DEFINITION. Gauge (R304-R330): requests, interruptions, acceptance, application, drift of the references, failover, and the
temperature reads with the thermal trip (R313, R514). -/

namespace Sys2Proof.Machine

/-! The registers of a kind. -/

/-- The request bit of a kind in CAL_CTRL. -/
def reqFld : CalKind → Fld
  | .dc => CAL_CTRL_REQ_DC
  | .timing => CAL_CTRL_REQ_T
/-- UNVER of a kind. -/
def unverFld : CalKind → Fld
  | .dc => CAL_STAT_UNVER_DC
  | .timing => CAL_STAT_UNVER_T
/-- PEND of a kind. -/
def pendFld : CalKind → Fld
  | .dc => CAL_STAT_PEND_DC
  | .timing => CAL_STAT_PEND_T
/-- T_REF of a kind. -/
def tRefFld : CalKind → Fld
  | .dc => CAL_TREF_T_REF_DC
  | .timing => CAL_TREF_T_REF_T
/-- SUSPECT of a kind's quantity. -/
def suspectFld : CalKind → Fld
  | .dc => CAL_REF_STAT_SUSPECT_V
  | .timing => CAL_REF_STAT_SUSPECT_T
/-- FAIL of a kind's quantity. -/
def failFld : CalKind → Fld
  | .dc => CAL_REF_STAT_FAIL_V
  | .timing => CAL_REF_STAT_FAIL_T
/-- STOP of a kind's quantity. -/
def stopFld : CalKind → Fld
  | .dc => CAL_REF_STAT_STOP_V
  | .timing => CAL_REF_STAT_STOP_T
/-- The number of a kind in fields and events: 0 DC, 1 timing. -/
def kindNo : CalKind → Nat
  | .dc => 0
  | .timing => 1
/-- The grains of an interruption (Table 11-1). -/
def calGrains : CalKind → Nat
  | .dc => 134217728
  | .timing => 4194304

/-- Update Gauge of a cluster. -/
def State.updGauge (s : State) (c : Nat) (f : Gauge → Gauge) : State := s.updCl c (fun x => { x with gauge := f x.gauge })

/-! Requests (R312). -/

/-- A request of a kind; requests merge while one is pending. -/
def State.calRequest (s : State) (c : Nat) (kind : CalKind) : State := s.setBit (CAL_CTRL c) (reqFld kind) true

/-- CAL_REQUEST_TIMING: a partner's request, effective at boundary b. -/
def execCalRequestTiming (port : PortNo) (c : ClNo) (b : Nat) (s : State) : Host.Outcome State Fault Refusal :=
  ok (s.reach port.val (CAL_CTRL c.val) (fun s => (s.atCluster c.val b).calRequest c.val .timing))

/-- CAL_REQUEST_DC: a partner's request, effective at boundary b. -/
def execCalRequestDc (port : PortNo) (c : ClNo) (b : Nat) (s : State) : Host.Outcome State Fault Refusal :=
  ok (s.reach port.val (CAL_CTRL c.val) (fun s => (s.atCluster c.val b).calRequest c.val .dc))

/-! Interruptions (R307-R311). -/

/-- Every condition of R310 holds for a kind in a cluster. -/
def State.calCan (s : State) (c : Nat) (kind : CalKind) : Bool :=
  s.calReady c kind && !s.bit (ADC_STAT c) ADC_STAT_BUSY && !s.bit (ADC_STAT c) ADC_STAT_PENDING

/-- CAL entries that wait for a cluster count a calibration rejected or discarded (R391). -/
def State.flowCalFailed (s : State) (c : Nat) : State :=
  (List.range 8).foldl (fun t n => t.updFlow n (fun f => match f.waiting with
    | .cal ti dc cs rej => if cs.contains c then { f with waiting := .cal ti dc cs (rej ++ [c]) } else f
    | _ => f)) s

/-- PC r stops converting at grain g and its filter is emptied (R309). -/
def State.precStop (s : State) (r g : Nat) : State :=
  (s.precDue r g).updPrec r (fun x => { x with
    running := false, count := 0, integ := [0, 0, 0, 0], comb := [0, 0, 0, 0], marks := (false, false), oldMarks := [],
    due := none })

/-- A start of the converter that waits for power-up when an interruption begins is one in its time: it is discarded and counted; a
MEASURE entry's conversion starts again afterwards (R309, log entry 67). -/
def State.calTakesAdc (s : State) (c : Nat) : State :=
  match (s.adc c).seq with
  | some q =>
    let t := s.updAdc c (fun y => { y with seq := none })
    if q.start.flow then t else t.adcMissed c
  | none => s

/-- The voltage reference of a DC interruption: VSEL as it stands at its start, which a write reaches only here (R304, Table 11-4). -/
def State.latchVsel (s : State) : State :=
  s.updHub (fun h => { h with vsel := s.fld CAL_REF_CTRL CAL_REF_CTRL_VSEL })

/-- The contacts of a cluster after a step at grain g from a state. -/
def State.showCluster (t s : State) (c g : Nat) : State :=
  (List.range 16).foldl (fun u i => u.showContact s (16 * c + i) g) t

/-- An interruption of a kind begins in a cluster at boundary g (R304, R305, R307-R309, R313, R314). -/
def State.calBegin (s : State) (c : Nat) (kind : CalKind) (g : Nat) : State :=
  let s := if kind = .dc then (s.calTakesAdc c).latchVsel else s.calTakesAdc c
  let excl := maskOf ((List.range 16).filter (fun u => s.pinMasked (16 * c + u)))
  let ref := match kind with
    | .timing => s.tsel
    | .dc => s.hub.vsel
  let t := s.setBit (CAL_CTRL c) (reqFld kind) false
  let t := (t.setBit (CAL_STAT c) CAL_STAT_BUSY true).setFld (CAL_STAT c) CAL_STAT_KIND (kindNo kind)
  let t := t.setPair (CAL_INT_GT_LO c) (CAL_INT_GT_HI c) (g % 2 ^ 64)
  let t := t.setFld (CAL_TREF c) (tRefFld kind) (t.fld (CAL_TNOW c) CAL_TNOW_T_NOW)
  let t := t.updGauge c (fun x => { x with interruption := some (kind, g, false), refSel := ref, excluded := excl })
  let t := ((List.range 16).foldl (fun t u => t.holdPin (16 * c + u) g) t).showCluster s c g
  if kind = .dc ∧ c % 8 = 0 then t.precStop (c / 8) g else t

/-- CAL_START: at boundary g every condition of R310 holds for the kind; DC runs before timing. -/
def execCalStart (c : ClNo) (kind : CalKind) (g : Nat) (s : State) : Host.Outcome State Fault Refusal :=
  let t := (s.at g).adcCatchUp c.val g
  if g % 64 = 0 ∧ t.calCan c.val kind ∧ (kind = .dc ∨ t.calCan c.val .dc = false) then ok (t.calBegin c.val kind g)
  else ok s

/-- CAL_PASS2: pass 2 begins half-way through the interruption (R307). -/
def execCalPass2 (c : ClNo) (g : Nat) (s : State) : Host.Outcome State Fault Refusal :=
  match (s.cl c.val).gauge.interruption with
  | some (kind, start, _) =>
    if g = start + calGrains kind / 2 then
      ok ((s.at g).updGauge c.val (fun x => { x with interruption := some (kind, start, true) }))
    else ok s
  | none => ok s

/-! Agreement (R314-R318). -/

/-- The tolerance of a kind, in 1/16 kf or 1/16 LSB. -/
def State.calTol (s : State) (kind : CalKind) : Nat :=
  match kind with
  | .dc => s.fld CAL_TOL CAL_TOL_TOL_DC
  | .timing => s.fld CAL_TOL CAL_TOL_TOL_T

/-- How many shims or items of a pin a kind measures: shims e = 0 to 6, DC items 0 to 31. -/
def calItems : CalKind → Nat
  | .dc => 32
  | .timing => 7

/-- The measured pairs of a unit index. -/
def resultsOf (res : CalResults) (kind : CalKind) (u : Nat) : List (Int × Int) := (res.pairs.getD u []).take (calItems kind)

/-- The first unit index among the pins that take part whose passes disagree (R315-R317). -/
def disagreeing (res : CalResults) (kind : CalKind) (tol : Nat) (units : List Nat) : Option Nat :=
  units.find? (fun u => (resultsOf res kind u).any (fun x => decide (tol < (x.1 - x.2).natAbs)))

/-- The trim of a shim in kf: floor((t1 + t2) / 32 + 0.5), before it is limited (R315). -/
def trimOf (x : Int × Int) : Int := (x.1 + x.2 + 16) / 32
/-- A trim limited to -256 to +255 kf (R315). -/
def limited (x : Int) : Int := max (-256) (min 255 x)
/-- The value of a DC item: floor((d1 + d2) / 2 + 0.5) (R316). -/
def itemOf (x : Int × Int) : Int := (x.1 + x.2 + 1) / 2

/-- The key of shim e or item e of a unit index in a set of corrections: the shim's number 8u + e, or 32u + item. -/
def calKey (kind : CalKind) (u e : Nat) : Nat :=
  match kind with
  | .dc => 32 * u + e
  | .timing => 8 * u + e

/-- The accepted values of the pins that take part. -/
def acceptedValues (res : CalResults) (kind : CalKind) (units : List Nat) : List (Nat × Int) :=
  units.flatMap (fun u => (List.range (resultsOf res kind u).length).map (fun e =>
    let x := (resultsOf res kind u).getD e (0, 0)
    (calKey kind u e, match kind with
      | .dc => itemOf x
      | .timing => limited (trimOf x))))

/-- The unit indexes of which a trim was limited (R315). -/
def rangeMask (res : CalResults) (units : List Nat) : Nat :=
  maskOf (units.filter (fun u => (resultsOf res .timing u).any (fun x => trimOf x != limited (trimOf x))))

/-- What is left of a shim's or an item's pass 2 once its accepted value is applied, in 1/16 kf or 1/16 LSB (R318, log entry 60). -/
def residual (kind : CalKind) (x : Int × Int) : Nat :=
  match kind with
  | .dc => (itemOf x - x.2).natAbs
  | .timing => (16 * limited (trimOf x) - x.2).natAbs

/-- The largest residual of a pin, saturating at 0xFF (R318). -/
def residualOf (res : CalResults) (kind : CalKind) (u : Nat) : Nat :=
  min 255 (((resultsOf res kind u).map (residual kind)).foldl max 0)

/-- The quality figures of the pins that take part (R318). -/
def State.calQuality (s : State) (c : Nat) (kind : CalKind) (res : CalResults) (units : List Nat) : State :=
  units.foldl (fun t u => match kind with
    | .dc => t.setFld (CAL_QUAL c u) CAL_QUAL_RESID_DC (residualOf res kind u)
    | .timing => (t.setFld (CAL_QUAL c u) CAL_QUAL_RESID_T (residualOf res kind u)).setFld
        (CAL_QUAL c u) CAL_QUAL_EYE (min 64 (res.eye.getD u 0))) s

/-- RECOVER learns how a calibration ended at grain g (R423, R424). -/
def State.svcCal (s : State) (c : Nat) (kind : CalKind) (fail : Option Nat) (g : Nat) : State :=
  s.updCl c (fun x => { x with svc := x.svc.map (fun v =>
    match fail, kind with
    | some code, _ => { v with calFail := some code, endAt := some g }
    | none, .dc => { v with doneDc := true, endAt := some g }
    | none, .timing => { v with doneT := true, endAt := some g }) })

/-- Whether a cluster is held in a flow step, whose end FLOW_STEP waits for; RECOVER's corrections apply as outside any (R386, R424, Table
11-2). -/
def State.stepHeld (s : State) (c : Nat) : Bool :=
  s.fld (CAL_CTRL c) CAL_CTRL_APPLY == 0 && (s.cl c).gauge.inStep && !(s.cl c).svc.any (fun v => v.op == 5)

/-- A calibration is rejected because its passes disagree at a unit index (R317). -/
def State.calReject (s : State) (c : Nat) (kind : CalKind) (u g : Nat) : State :=
  let t := ((s.setBit (CAL_STAT c) CAL_STAT_DISAGREE true).setFld (CAL_STAT c) CAL_STAT_DIS_KIND (kindNo kind)).setFld
    (CAL_STAT c) CAL_STAT_DIS_UNIT u
  let t := (t.countSat (CAL_COUNT c) CAL_COUNT_REJECT 1).event codeCalDisagree 1 c (kindNo kind + u * 2 ^ 8) 0
  (t.svcCal c kind (some codeCalDisagree) g).flowCalFailed c

/-- A calibration is discarded because FAIL is set for its quantity (R327). -/
def State.calDiscard (s : State) (c : Nat) (kind : CalKind) (g : Nat) : State :=
  ((s.countSat (CAL_COUNT c) CAL_COUNT_REJECT 1).svcCal c kind (some codeRefSuspect) g).flowCalFailed c

/-- An accepted result waits for its boundary: that which ends the interruption, or under FLOW_STEP, while a flow step holds the
cluster, one that is not known yet (R319, Table 11-2). APPLY counts as it stands at acceptance (log entry 68). -/
def State.calSchedule (s : State) (c g : Nat) : State :=
  s.updGauge c (fun x => { x with applyAt := if s.stepHeld c then none else some g })

/-- A calibration is accepted at grain g: its result waits for its boundary (R315-R319). -/
def State.calAccept (s : State) (c : Nat) (kind : CalKind) (res : CalResults) (units : List Nat) (g : Nat) : State :=
  let p : PendingCorr :=
    { values := acceptedValues res kind units
      verified := !s.bit CAL_REF_STAT (suspectFld kind) }
  let t := (s.countSat (CAL_COUNT c) CAL_COUNT_ACCEPT 1).setBit (CAL_STAT c) (pendFld kind) true
  let t := match kind with
    | .dc => t.updGauge c (fun x => { x with pendDc := some p })
    | .timing => (t.updGauge c (fun x => { x with pendT := some p })).setFld (CAL_EXCL c) CAL_EXCL_RANGE (rangeMask res units)
  ((t.calQuality c kind res units).svcCal c kind none g).calSchedule c g

/-- The interruption is over: contacts return at this boundary, a withheld fill report is made, and PC r restarts (R308, R309,
R311). -/
def State.calOver (s : State) (c : Nat) (kind : CalKind) (g : Nat) : State :=
  let t := (s.setBit (CAL_STAT c) CAL_STAT_BUSY false).updGauge c (fun x => match kind with
    | .dc => { x with interruption := none, endedDc := x.endedDc + 1 }
    | .timing => { x with interruption := none, endedT := x.endedT + 1 })
  let t := (t.showCluster s c g).reportFill c
  if kind = .dc ∧ c % 8 = 0 then t.precRestart (c / 8) g else t

/-- What the measurements of a calibration that ends at grain g lead to. -/
def State.calJudge (s : State) (c : Nat) (kind : CalKind) (res : CalResults) (units : List Nat) (g : Nat) : State :=
  if s.bit CAL_REF_STAT (failFld kind) then s.calDiscard c kind g
  else match disagreeing res kind (s.calTol kind) units with
    | some u => s.calReject c kind u g
    | none => s.calAccept c kind res units g

/-- CAL_END: the interruption ends at its exact grain with what its two passes measured (R306, R314-R318, R326, R327). -/
def execCalEnd (c : ClNo) (g : Nat) (res : CalResults) (s : State) : Host.Outcome State Fault Refusal :=
  match (s.cl c.val).gauge.interruption with
  | some (kind, start, true) =>
    if g = start + calGrains kind then
      let k := c.val
      let out (u : Nat) : Bool := nbit (s.cl k).gauge.excluded u || s.trippedIn (16 * k + u) start (g - 1)
      let units := (List.range 16).filter (fun u => !out u)
      let t := (s.at g).adcCatchUp k (g - 1)
      let t := t.setFld (CAL_EXCL k) CAL_EXCL_EXCLUDED (maskOf ((List.range 16).filter out))
      ok ((t.calOver k kind g).calJudge k kind res units g)
    else ok s
  | _ => ok s

/-! Application (R319-R322, R326, R330). -/

/-- The corrections of a kind become unverified, with CAL_UNVERIFIED when that is new (R326). -/
def State.calUnverified (s : State) (c : Nat) (kind : CalKind) : State :=
  let t := s.setBit (CAL_STAT c) (unverFld kind) true
  if s.bit (CAL_STAT c) (unverFld kind) then t else t.event codeCalUnverified 1 c (kindNo kind) 0

/-- Values come into force: shim TARGETs are written, or DC corrections act in one step (R320, R321). -/
def State.calPut (s : State) (c : Nat) (kind : CalKind) (values : Tbl Int) : State :=
  match kind with
  | .timing => values.foldl (fun t x => t.shimSet c x.1 (ux 9 x.2)) s
  | .dc => s.updGauge c (fun x => { x with
      dcForce := values.foldl (fun u y => tput (fun _ => (0 : Int)) u y.1 y.2) x.dcForce })

/-- The set of a kind that is in force, or on its way to it: every shim's TARGET, or the DC corrections. -/
def State.calSet (s : State) (c : Nat) (kind : CalKind) : Tbl Int :=
  match kind with
  | .timing => (List.range 128).map (fun i => (i, s.shimTarget c i))
  | .dc => (s.cl c).gauge.dcForce

/-- A pending result of a kind is applied (R319-R322, R326). -/
def State.calApplyKind (s : State) (c : Nat) (kind : CalKind) : State :=
  let g := (s.cl c).gauge
  match (match kind with
    | .timing => g.pendT
    | .dc => g.pendDc) with
  | none => s
  | some p =>
    let t := (s.calPut c kind p.values).setBit (CAL_STAT c) (pendFld kind) false
    let t := t.updGauge c (fun x => match kind with
      | .timing => { x with pendT := none }
      | .dc => { x with pendDc := none })
    if p.verified ∧ s.bit CAL_REF_STAT (suspectFld kind) = false then
      (t.setBit (CAL_STAT c) (unverFld kind) false).updGauge c (fun x => match kind with
        | .timing => { x with verT := some (t.calSet c .timing) }
        | .dc => { x with verDc := some (t.calSet c .dc) })
    else t.calUnverified c kind

/-- While STOP is set, unverified corrections give way to the last verified set (R330). -/
def State.calFallback (s : State) (c : Nat) (kind : CalKind) : State :=
  if s.bit CAL_REF_STAT (stopFld kind) && s.bit (CAL_STAT c) (unverFld kind) then
    match kind with
    | .timing => (match (s.cl c).gauge.verT with
      | some v => s.calPut c .timing v
      | none => s)
    | .dc => (match (s.cl c).gauge.verDc with
      | some v => s.updGauge c (fun x => { x with dcForce := v })
      | none => s)
  else s

/-- Whether boundary b is the first one after the end of a flow step has reached the cluster timebase, which it does 128 gr to 192 gr
after it left (Table 11-2, R496). -/
def State.stepEndsAt (s : State) (c b : Nat) : Bool :=
  match (s.cl c).gauge.stepEnd with
  | some g => decide (g + 192 ≤ b) && decide (b ≤ g + 256)
  | none => false

/-- Whether boundary b is one at which pending results of a cluster are applied (R319, Table 11-2). -/
def State.calDueAt (s : State) (c b : Nat) : Bool := (s.cl c).gauge.applyAt == some b || s.stepEndsAt c b

/-- The pending results of a cluster take effect at their boundary (R319-R322, R326). -/
def State.calApplyDue (s : State) (c b : Nat) : State :=
  if s.calDueAt c b then
    ((s.calApplyKind c .dc).calApplyKind c .timing).updGauge c (fun x => { x with applyAt := none, stepEnd := none })
  else s

/-- The next boundary of Table 11-2 for a verified set (R330, log entry 69): under FLOW_STEP in a flow step that of the step's end,
else the end of an interruption, or any boundary outside one. -/
def State.calMayFall (s : State) (c b : Nat) : Bool :=
  s.calDueAt c b || (!s.interrupted c && !s.stepHeld c)

/-- CAL_APPLY: pending results take effect at boundary b, and verified sets while STOP is set (R319-R322, R326, R330). -/
def execCalApply (c : ClNo) (b : Nat) (s : State) : Host.Outcome State Fault Refusal :=
  if b % 64 = 0 ∧ s.calMayFall c.val b then
    ok ((((s.at b).calApplyDue c.val b).calFallback c.val .dc).calFallback c.val .timing)
  else ok s

/-! Temperature (R313, R514). -/

/-- DELTA_T as it acts, in sensor codes: 0.5 °C is 8 codes (tag 0x86 of Table 10-4). -/
def State.calDelta (s : State) (c : Nat) : Nat := 8 * max 1 (min 40 (s.fld (CAL_CTRL c) CAL_CTRL_DELTA_T))

/-- A sensor code is read into CAL_TNOW and may request calibration (R313). -/
def State.tempCluster (s : State) (c code : Nat) : State :=
  let t := s.setFld (CAL_TNOW c) CAL_TNOW_T_NOW code
  [CalKind.dc, CalKind.timing].foldl (fun t kind =>
    let ref := t.fld (CAL_TREF c) (tRefFld kind)
    if t.bit (CAL_CTRL c) CAL_CTRL_TEMP_EN && decide (t.calDelta c < ((code : Int) - ref).natAbs) then t.calRequest c kind
    else t) t

/-- The sensor code of 115 °C: codes are 1/16 °C from -64 °C (Table 10-4). -/
def tripCode : Nat := 2864

/-- A thermal trip (R514). -/
def State.thermalTrip (s : State) : State :=
  let t := s.setBit SYS_THERM SYS_THERM_TRIPPED true
  let t := if t.hub.thermTripLow then t else (t.send .thermtrip).updHub (fun h => { h with thermTripLow := true })
  [0, 1, 2, 3].foldl State.fence t

/-- TEMP_READ: at a multiple of 16,777,216 gr every cluster sensor is read (R313, R514, Table 20-3). -/
def execTempRead (g : Nat) (codes : List (BitVec 12)) (s : State) : Host.Outcome State Fault Refusal :=
  if g % 16777216 = 0 then
    let code (c : Nat) : Nat := (codes.getD c 0).toNat
    let t := (List.range 64).foldl (fun t c => t.tempCluster c (code c)) (s.at g)
    let hot := (List.range 64).foldl (fun h c => if code h < code c then c else h) 0
    let t := (t.setFld SYS_THERM SYS_THERM_HOT_CL hot).setFld SYS_THERM SYS_THERM_T_MAX (code hot)
    ok (if tripCode ≤ code hot then t.thermalTrip else t)
  else ok s

/-! Drift (R323-R330). -/

/-- Entry n of the history of reference x (0 A, 1 B) of a quantity (0 timing, 1 voltage), in 1/256 ppb or 1/256 µV. -/
def State.hist (s : State) (q x n : Nat) : Int := sx 32 (s.reg (CAL_HIST q x n)).toNat

/-- A measurement enters a history (R323). -/
def State.pushHist (s : State) (q x : Nat) (v : Int) : State :=
  let t := (List.range 31).foldl (fun t k => t.setReg (CAL_HIST q x (31 - k)) (s.reg (CAL_HIST q x (30 - k)))) s
  t.setReg (CAL_HIST q x 0) (BitVec.ofInt 32 v)

/-- The kind of calibration that a quantity governs. -/
def kindOf (q : Nat) : CalKind := if q = 0 then .timing else .dc

/-- A deviation in tolerance (R324). -/
def State.inTol (s : State) (q : Nat) (v : Int) : Bool :=
  decide (v.natAbs ≤ 256 * (if q = 0 then s.fld CAL_LIM_T CAL_LIM_T_TOL_F else s.fld CAL_LIM_V CAL_LIM_V_TOL_V))

/-- A slope beyond its limit (R325). -/
def State.steep (s : State) (q : Nat) (v : Int) : Bool :=
  decide (256 * (if q = 0 then s.fld CAL_LIM_T CAL_LIM_T_SLOPE_F else s.fld CAL_LIM_V CAL_LIM_V_SLOPE_V) < v.natAbs)

/-- The selected reference of a quantity. -/
def State.refSel (s : State) (q : Nat) : Nat := if q = 0 then s.tsel else s.hub.vsel

/-- The other reference. -/
def otherRef (x : Nat) : Nat := 1 - x

/-- The selected reference is out of tolerance: failover, or STOP (R327-R330). -/
def State.refFailed (s : State) (q : Nat) : State :=
  let x := s.refSel q
  let r := CAL_REF_STAT
  let t := (s.setBit r (failFld (kindOf q)) true).refSuspect x q 2
  let good := s.inTol q (s.hist q (otherRef x) 0)
  if q = 0 then
    let t := t.setBit r CAL_REF_STAT_STOP_T true
    if good && s.bit CAL_REF_CTRL CAL_REF_CTRL_AUTO_T then t.updHub (fun h => { h with failoverPending := true }) else t
  else if good && s.bit CAL_REF_CTRL CAL_REF_CTRL_AUTO_V then
    let t := ((t.setFld CAL_REF_CTRL CAL_REF_CTRL_VSEL (otherRef x)).latchVsel).setBit r CAL_REF_STAT_FAILOVER_V true
    (List.range 64).foldl (fun t c => t.calRequest c .dc) (t.refSuspect x q 3)
  else t.setBit r CAL_REF_STAT_STOP_V true

/-- The selected reference is in tolerance: FAIL and STOP clear, and a steep slope is suspect (R325, R327, R330). -/
def State.refGood (s : State) (q fill : Nat) : State :=
  let x := s.refSel q
  let r := CAL_REF_STAT
  let t := s.setBit r (failFld (kindOf q)) false
  let t := if q = 0 && (t.hub.failoverPending || t.hub.failoverT) then t else t.setBit r (stopFld (kindOf q)) false
  if fill = 32 && s.steep q (s.hist q x 0 - s.hist q x 31) then
    (t.setBit r (suspectFld (kindOf q)) true).refSuspect x q 1
  else t

/-- New entries of a quantity are judged (R324-R330). -/
def State.refCheck (s : State) (q fill : Nat) : State :=
  if s.inTol q (s.hist q (s.refSel q) 0) then s.refGood q fill else s.refFailed q

/-- DRIFT_MEASURE: every 1,073,741,824 gr each external reference is measured, in 1/256 ppb and 1/256 µV (R323-R330). -/
def execDriftMeasure (g : Nat) (refA refB vrefA vrefB : Int) (s : State) : Host.Outcome State Fault Refusal :=
  if g % 1073741824 = 0 then
    let t := s.at g
    let hold := t.bit SYS_REF_CTRL SYS_REF_CTRL_HOLDOVER
    let t := if hold then t
      else
        let u := (t.pushHist 0 0 refA).pushHist 0 1 refB
        u.updHub (fun h => { h with histFill := min 32 (h.histFill + 1) })
    let t := (t.pushHist 1 0 vrefA).pushHist 1 1 vrefB
    let t := t.updHub (fun h => { h with histFillV := min 32 (h.histFillV + 1) })
    let t := t.setFld CAL_REF_STAT CAL_REF_STAT_HFILL (min t.hub.histFill t.hub.histFillV)
    let t := if hold then t else t.refCheck 0 t.hub.histFill
    ok (t.refCheck 1 t.hub.histFillV)
  else ok s

/-- The timing master of a domain of two or more packages (R475, R479). -/
def State.leadsDomain (s : State) : Bool := s.bit VYN_SYS_STAT VYN_SYS_STAT_IS_MASTER && s.domainOthers != 0

/-- TIMING_FAILOVER: at the first tenon boundary with no run in the package and no interruption in progress, TSEL is switched and
timing calibration of every cluster is requested; STOP_T clears at lock (R329). A timing master waits until no other package of its
domain holds a run either, as `othersIdle` tells, and has them realign (R479). -/
def execTimingFailover (g : Nat) (othersIdle : Bool) (s : State) : Host.Outcome State Fault Refusal :=
  if s.hub.failoverPending ∧ g % 64 = 0 ∧ s.runs = [] ∧ (List.range 64).all (fun c => !s.interrupted c) ∧
      (othersIdle = true ∨ s.leadsDomain = false) then
    let x := s.tsel
    let t := ((s.at g).setFld SYS_REF_CTRL SYS_REF_CTRL_TSEL (otherRef x)).refSwitch
    let t := (t.setBit CAL_REF_STAT CAL_REF_STAT_FAILOVER_T true).refSuspect x 0 3
    let t := (List.range 64).foldl (fun t c => t.calRequest c .timing) t
    let t := t.updHub (fun h => { h with failoverPending := false, failoverT := true })
    ok (if s.leadsDomain then t.send (.vyene "DOWEL" 16 []) else t)
  else ok s

end Sys2Proof.Machine
end

