-- ==== Sys2Proof/Machine/Jig.lean ====
section
/-! DEFINITION. The jig flash (R427-R434): its bytes, the digests SHA-256 and CRC-32 (PRESUMED from FIPS 180-4 and IEEE 802.3, log entry
30), headers, sections, and the store words of a bank. -/

namespace Sys2Proof.Machine

/-! SHA-256 and CRC-32. -/

/-- The largest x below 2^(b) more than `x` whose k-th power does not exceed n, bit by bit from bit b - 1 down. -/
def rootFrom (k n : Nat) : Nat → Nat → Nat
  | 0, x => x
  | b + 1, x => rootFrom k n b (if (x + 2 ^ b) ^ k ≤ n then x + 2 ^ b else x)

/-- The first 32 bits of the fraction of the k-th root of p: how SHA-256 chooses its constants. -/
def rootFraction (k p : Nat) : Word := BitVec.ofNat 32 (rootFrom k (p * 2 ^ (32 * k)) 40 0)

/-- The primes below n. -/
def primesBelow (n : Nat) : List Nat :=
  (List.range n).filter (fun p => decide (2 ≤ p) && (List.range p).all (fun d => decide (d < 2) || p % d != 0))

/-- The round constants: from the cube roots of the first 64 primes. -/
def shaKeys : List Word := (primesBelow 312).map (rootFraction 3)

/-- The initial hash value: from the square roots of the first 8 primes. -/
def shaStart : List Word := (primesBelow 20).map (rootFraction 2)

/-- The XOR of a word turned right by each of some distances. -/
def turns (l : List Nat) (x : Word) : Word := l.foldl (fun m n => m ^^^ x.rotateRight n) 0

/-- One round on the eight working words, with the sum of a round constant and a schedule word. -/
def shaRound (kw : Word) : List Word → List Word
  | [a, b, c, d, e, f, g, h] =>
    let pick := g ^^^ (e &&& (f ^^^ g))
    let most := (a &&& b) ||| (c &&& (a ||| b))
    let sum := h + turns [6, 11, 25] e + pick + kw
    [sum + turns [2, 13, 22] a + most, a, b, c, d + sum, e, f, g]
  | l => l

/-- The schedule of a block with n more words, from its last 16 words. -/
def shaSchedule : Nat → List Word → List Word
  | 0, w => w
  | n + 1, w =>
    let near := w.getD 14 0
    let far := w.getD 1 0
    let next := w.getD 0 0 + (turns [7, 18] far ^^^ far >>> 3) + w.getD 9 0 + (turns [17, 19] near ^^^ near >>> 10)
    w.headD 0 :: shaSchedule n (w.tail ++ [next])

/-- A big-endian word of four bytes. -/
def beWord (l : List Byte) : Word := BitVec.ofNat 32 (ofLe l.reverse)

/-- Big-endian words of a list of bytes. -/
def beWords : Nat → List Byte → List Word
  | 0, _ => []
  | n + 1, l => beWord (l.take 4) :: beWords n (l.drop 4)

/-- The hash value after one block of 64 bytes. -/
def shaBlock (hash : List Word) (block : List Byte) : List Word :=
  let kws := List.zipWith (· + ·) shaKeys (shaSchedule 48 (beWords 16 block))
  List.zipWith (· + ·) hash (kws.foldl (fun x kw => shaRound kw x) hash)

/-- n blocks of 64 bytes. -/
def shaBlocks : Nat → List Word → List Byte → List Word
  | 0, x, _ => x
  | n + 1, x, l => shaBlocks n (shaBlock x (l.take 64)) (l.drop 64)

/-- SHA-256 of a list of bytes. -/
def sha256 (l : List Byte) : List Byte :=
  let pad := List.replicate ((119 - l.length % 64) % 64) (0 : Byte)
  let m := l ++ [0x80] ++ pad ++ (leBytes 8 (8 * l.length)).reverse
  (shaBlocks (m.length / 64) shaStart m).flatMap (fun w => (leBytes 4 w.toNat).reverse)

/-- n bit steps of the reflected CRC-32. -/
def crcBits : Nat → Word → Word
  | 0, c => c
  | n + 1, c => crcBits n (if c.getLsbD 0 then (c >>> 1) ^^^ 0xEDB88320 else c >>> 1)

/-- CRC-32 with the IEEE 802.3 polynomial (Table 16-4). -/
def crc32 (l : List Byte) : Word :=
  ~~~(l.foldl (fun c b => crcBits 8 (c ^^^ b.zeroExtend 32)) 0xFFFFFFFF)

/-! The flash. -/

/-- A byte of the flash: 0xFF where it is erased (log entry 6). -/
def State.flashByte (s : State) (a : Nat) : Byte := tget (fun _ => (0xFF : Byte)) s.flash a
/-- n bytes of the flash. -/
def State.flashBytes (s : State) (a n : Nat) : List Byte := tgets (fun _ => (0xFF : Byte)) s.flash a n
/-- A little-endian number of n bytes in the flash. -/
def State.flashNat (s : State) (a n : Nat) : Nat := ofLe (s.flashBytes a n)
/-- Write bytes of the flash. -/
def State.putFlash (s : State) (a : Nat) (l : List Byte) : State :=
  { s with flash := tputs (fun _ => (0xFF : Byte)) s.flash a l }

/-- The first flash byte of a bank (R428). -/
def bankBase (b : Nat) : Nat := b * 0x40000000
/-- The other bank. -/
def otherBank (b : Nat) : Nat := 1 - b

/-- OFFSET of section n, 1 CONFIG to 9 ROLES (Table 16-1). -/
def State.secOff (s : State) (b n : Nat) : Nat := s.flashNat (bankBase b + 0x10 + 48 * (n - 1)) 8
/-- LENGTH of section n; 0 means absent. -/
def State.secLen (s : State) (b n : Nat) : Nat := s.flashNat (bankBase b + 0x10 + 48 * (n - 1) + 8) 8
/-- The digest that the header holds for section n. -/
def State.secDigest (s : State) (b n : Nat) : List Byte := s.flashBytes (bankBase b + 0x10 + 48 * (n - 1) + 16) 32
/-- Whether section n is present. -/
def State.secHas (s : State) (b n : Nat) : Bool := s.secLen b n != 0
/-- The flash address of byte o of section n. -/
def State.secAddr (s : State) (b n o : Nat) : Nat := bankBase b + s.secOff b n + o
/-- A little-endian number of k bytes at offset o of section n. -/
def State.secNat (s : State) (b n o k : Nat) : Nat := s.flashNat (s.secAddr b n o) k
/-- k bytes at offset o of section n. -/
def State.secBytes (s : State) (b n o k : Nat) : List Byte := s.flashBytes (s.secAddr b n o) k
/-- Whether the digest of section n matches; that of REPAIR is ignored (R429). -/
def State.secGood (s : State) (b n : Nat) : Bool :=
  !s.secHas b n || n == 8 || sha256 (s.secBytes b n 0 (s.secLen b n)) == s.secDigest b n

/-- GENERATION of a bank. -/
def State.bankGen (s : State) (b : Nat) : Nat := s.flashNat (bankBase b + 8) 4

/-- The sections 1 to 9. -/
def sections : List Nat := [1, 2, 3, 4, 5, 6, 7, 8, 9]

/-- The present sections stand in order without overlapping, after the header. -/
def State.secsInOrder (s : State) (b : Nat) : Bool :=
  (sections.foldl (fun (x : Bool × Nat) n =>
    if s.secHas b n then (x.1 && decide (x.2 ≤ s.secOff b n), s.secOff b n + s.secLen b n) else x) (true, 1024)).1

/-- Whether the header of a bank is valid (R429). -/
def State.headerValid (s : State) (b : Nat) : Bool :=
  s.flashNat (bankBase b) 4 == 0x3147494A && s.flashNat (bankBase b + 4) 2 == 1 &&
  sha256 (s.flashBytes (bankBase b) 0x3E0) == s.flashBytes (bankBase b + 0x3E0) 32 &&
  sections.all (fun n => !s.secHas b n ||
    (s.secOff b n % 4096 == 0 && decide (s.secOff b n + s.secLen b n ≤ 0x40000000))) &&
  s.secsInOrder b && decide (128 ≤ s.secLen b 1)

/-! Stores (Table 16-2). -/

/-- The offset of what a directory entry names in its section, and its number of words: CSTORE by engine, PATCH by cluster. A count
above the capacity of the store acts as the capacity (log entry 129). -/
def State.storeDir (s : State) (b n k cap : Nat) : Nat × Nat :=
  if s.secHas b n then (s.secNat b n (8 * k) 4, min cap (s.secNat b n (8 * k + 4) 4)) else (0, 0)

/-- An H-form word in 18 bytes of a section. -/
def State.secWord (s : State) (b n o : Nat) : HBits := BitVec.ofNat 144 (s.secNat b n o 18)

/-- The word that a bank gives a store address of R518; unloaded words hold HALT. -/
def State.jigWord (s : State) (b a : Nat) : HBits :=
  if a < 0x3FE01000000 then
    let k := a % 0x10000
    let d := s.storeDir b 2 ((a - 0x3FE00000000) / 0x10000) 16384
    if k < d.2 then s.secWord b 2 (d.1 + 18 * k) else haltWord
  else
    let k := a % 0x100
    let d := s.storeDir b 3 ((a - 0x3FE01000000) / 0x100) 256
    if k < d.2 then s.secWord b 3 (d.1 + 256 + 18 * k) else haltWord

/-- Every word from a store address on holds HALT, unpoisoned and loaded. -/
def State.clearStore (s : State) (a n : Nat) : State :=
  let out {α : Type} (t : Tbl α) : Tbl α := t.filter (fun x => decide (x.1 < a) || decide (a + n ≤ x.1))
  { s with stores := out s.stores, storePoison := out s.storePoison, storeWritten := out s.storeWritten }

/-- A store of `cap` words at an address is loaded from a bank. -/
def State.loadStore (s : State) (b n k a cap : Nat) : State :=
  (List.range (s.storeDir b n k cap).2).foldl (fun t i => t.setStoreWord (a + i) (s.jigWord b (a + i))) (s.clearStore a cap)

/-- The writable stores of a cluster are loaded from CSTORE, and their words are those of that bank from here on (R340). -/
def State.loadCstore (s : State) (b c : Nat) : State :=
  ((clEngines c).foldl (fun t e => t.loadStore b 2 e (wsAddr e 0) 16384) s).updCl c (fun x => { x with storeBank := b })

/-- STARTs that a quiesce held in a cluster take effect, the loading having lifted the poison that it was for (R340, Table 12-2). -/
def State.releaseStarts (s : State) (c : Nat) : State := (clEngines c).foldl State.releaseStart s

/-- The patch store and ENG_PM of a cluster are loaded from PATCH. -/
def State.loadPatch (s : State) (b c : Nat) : State :=
  let t := s.loadStore b 3 c (psAddr c 0) 256
  let off := (s.storeDir b 3 c 256).1
  if s.secHas b 3 = false then t
  else (List.range 64).foldl (fun t i => t.partnerWrite (ENG_PM c i) (BitVec.ofNat 32 (s.secNat b 3 (off + 4 * i) 4)) 15) t

end Sys2Proof.Machine
end

