-- ==== Sys2Proof/Machine/Scrub.lean ====
section
/-! DEFINITION. Scrub walkers (R337, R338), store reloads (R340), block testers (R345-R347), post-package repair (R349), the pattern
table (R341) and the secure scratchpad (R353-R356). -/

namespace Sys2Proof.Machine

/-! Scrub walkers. -/

/-- Where a walker stands: a line or store word by its address, or a line of the shared-flow cache, whose address no rule gives
(Table 12-7). -/
inductive WalkAt where
  | addr (a : Nat)
  | cacheLine
  deriving DecidableEq, Repr

/-- Position i of the SRAM walker of region r (Table 12-7). -/
def sramWalkAt (r i : Nat) : Nat :=
  if i < 131072 then 0x30100000000 + r * 0x800000 + 64 * i
  else if i < 655360 then
    let j := i - 131072
    0x30000000000 + (8 * r + j / 65536) * 0x400000 + 64 * (j % 65536)
  else if i < 1179648 then
    let j := i - 655360
    wsAddr (32 * r + j / 16384) (j % 16384)
  else
    let j := i - 1179648
    psAddr (8 * r + j / 256) (j % 256)

/-- Position i of the hub walker (Table 12-7). -/
def hubWalkAt (i : Nat) : WalkAt :=
  if i < 524288 then .addr (0x30200000000 + 64 * i)
  else if i < 655360 then .cacheLine
  else .addr (0x3FF00000000 + 64 * (i - 655360))

/-- The number of positions of a walker. -/
def walkLen : Walker → Nat
  | .hbm _ => 402653184
  | .sram _ => 1181696
  | .hub => 671744

/-- The present position of a walker. -/
def State.walkPos (s : State) : Walker → Nat
  | .hbm r => (s.rg r.val).hbmWalk
  | .sram r => (s.rg r.val).sramWalk
  | .hub => s.hub.walk

/-- What a walker reads next. -/
def State.walkAt (s : State) (w : Walker) : WalkAt :=
  match w with
  | .hbm r => .addr (r.val * 0x600000000 + 64 * s.walkPos w)
  | .sram r => .addr (sramWalkAt r.val (s.walkPos w))
  | .hub => hubWalkAt (s.walkPos w)

/-- A walker moves on, wrapping at the end of its range. -/
def State.walkOn (s : State) (w : Walker) : State :=
  let n := (s.walkPos w + 1) % walkLen w
  match w with
  | .hbm r => s.updRg r.val (fun x => { x with hbmWalk := n })
  | .sram r => s.updRg r.val (fun x => { x with sramWalk := n })
  | .hub => s.updHub (fun h => { h with walk := n })

/-- MEM_SCRUB_CTRL of a walker. -/
def scrubCtrl : Walker → Nat
  | .hbm r => MEM_SCRUB_CTRL r.val
  | .sram r => MEM_SCRUB_CTRL r.val
  | .hub => HD_MEM_SCRUB_CTRL

/-- A walker runs: EN is 1 and its range has been initialised (R337); the HBM walker of a stack stands still during its post-package
repair, which reads the stack alone (R349). -/
def State.walkRuns (s : State) (w : Walker) : Bool :=
  s.bit (scrubCtrl w) MEM_SCRUB_CTRL_EN && (match w with
    | .hbm r => (s.rg r.val).hbmInit && !s.bit (MEM_PPR_STAT r.val) MEM_PPR_STAT_BUSY
    | _ => decide (4 ≤ s.boot.phase))

/-- What error correction finds in a line of the shared-flow cache. Which line of the shared flow space stands at a set and way no rule
gives: it is a free choice among the lines that the cache holds, and the line is poisoned there; with none the address that is reported
is a free value (log entry 31). -/
def State.cacheScrub (s : State) (f : Finds) : State :=
  match f with
  | [] => s
  | x :: _ =>
    let held := (s.cache.filter (fun y => y.2.st != .i)).map (·.1)
    let a := if held = [] then Config.freeNat s.free % 2 ^ 42 else lineAddr (held.getD (Config.freeNat s.free % held.length) 0)
    match x.2 with
    | .clean => s
    | .corrected => s.corrected a
    | .uncorrectable => if held = [] then s.useFree.reportError a 0 0 else s.useFree.uncorrectable a [] 0

/-- SCRUB_READ: a walker reads its next line or store word, and moves on (R334, R337, R338). -/
def execScrubRead (w : Walker) (finds : Finds) (s : State) : Host.Outcome State Fault Refusal :=
  if s.walkRuns w then
    let t := match s.walkAt w with
      | .addr a => s.eccRead a finds 0
      | .cacheLine => s.cacheScrub finds
    ok (t.walkOn w)
  else ok s

/-! Store reloads (R340). -/

/-- The newest log entry of a store word, RELOADED, now says HELD: the flash could not be read (R340). -/
def State.reloadFailed (s : State) (a : Nat) : State :=
  let u := memUnit a
  let h := s.reg (MEM_ERR_HEAD u)
  let slot (k : Nat) : Nat := (h.toNat + 31 - k) % 32
  match (List.range 32).find? (fun k =>
      s.reg (MEM_ERR_LOG_W0 u (slot k)) == loHalf a && s.fld (MEM_ERR_LOG_W1 u (slot k)) MEM_ERR_LOG_W1_ADDR_HI == a / 2 ^ 32 % 2 ^ 10) with
  | some k =>
    if s.fld (MEM_ERR_LOG_W1 u (slot k)) MEM_ERR_LOG_W1_OUTCOME = 1 then s.setFld (MEM_ERR_LOG_W1 u (slot k)) MEM_ERR_LOG_W1_OUTCOME 2
    else s
  | none => s

/-- STORE_RELOAD: a poisoned store word that the jig loaded is read again from the bank that its store was loaded from while its engines hold no run; a
flash error leaves it HELD (R340). -/
def execStoreReload (storeAddr : Nat) (flashError : Bool) (s : State) : Host.Outcome State Fault Refusal :=
  let es := storeEngines storeAddr
  if isStoreAddr storeAddr && s.storeBad storeAddr && !s.storeHeld storeAddr && es.all (fun e => (s.eng e).run.isNone) then
    let bank := (s.cl ((memCluster storeAddr).getD 0)).storeBank
    let t := if flashError then (s.setStoreHeld storeAddr true).reloadFailed storeAddr
      else (s.setStoreWord storeAddr (s.jigWord bank storeAddr)).setStoreBad storeAddr false
    ok (es.foldl State.releaseStart t)
  else ok s

/-! Block testers (R345-R347). -/

/-- The array of a block, in the numbers of Table 16-4, its instance, its first byte in the array, and the number of its banks. -/
structure BlockAt where
  array : Nat
  inst : Nat
  off : Nat
  banks : Nat
  deriving DecidableEq, Repr

/-- Block i of a region's tester: region SRAM, then the scratchpads of its clusters. -/
def regionBlock (r i : Nat) : BlockAt :=
  if i < 2048 then ⟨1, r, 4096 * i, 32⟩ else ⟨0, 8 * r + (i - 2048) / 1024, 4096 * ((i - 2048) % 1024), 16⟩

/-- Block i of the hub's tester: hub SRAM, the shared-flow cache, the secure scratchpad. -/
def hubBlock (i : Nat) : BlockAt :=
  if i < 8192 then ⟨2, 0, 4096 * i, 128⟩
  else if i < 10240 then ⟨4, 0, 4096 * (i - 8192), 32⟩
  else ⟨3, 0, 4096 * (i - 10240), 4⟩

/-- The package-local address of a block, for the log; the cache has none and reports its offset. -/
def BlockAt.addr (x : BlockAt) : Nat :=
  match x.array with
  | 0 => 0x30000000000 + x.inst * 0x400000 + x.off
  | 1 => 0x30100000000 + x.inst * 0x800000 + x.off
  | 2 => 0x30200000000 + x.off
  | 3 => 0x3FF00000000 + x.off
  | _ => x.off

/-- The row that a block occupies in each of its banks: consecutive 64 B lines fall in consecutive banks, and a row holds 16 lines
(R332, Table 12-1). -/
def BlockAt.row (x : BlockAt) : Nat := x.off / 64 / x.banks / 16

/-- A block of a scratchpad whose cluster has RUN, SOURCE or CAPTURE set is skipped (R346). -/
def State.blockSkipped (s : State) (x : BlockAt) : Bool := x.array == 0 && s.active x.inst &&& 7 != 0

/-- The tester's record. -/
def State.tester (s : State) : Tester → BlockTester
  | .region r => (s.rg r.val).tester
  | .hub => s.hub.tester

/-- Write the tester's record. -/
def State.setTester (s : State) (t : Tester) (x : BlockTester) : State :=
  match t with
  | .region r => s.updRg r.val (fun y => { y with tester := x })
  | .hub => s.updHub (fun h => { h with tester := x })

/-- MEM_BT_STAT of a tester. -/
def btStat : Tester → Nat
  | .region r => MEM_BT_STAT r.val
  | .hub => HD_MEM_BT_STAT
/-- MEM_BT_CTRL of a tester. -/
def btCtrl : Tester → Nat
  | .region r => MEM_BT_CTRL r.val
  | .hub => HD_MEM_BT_CTRL
/-- The number of blocks of a tester. -/
def blockCount : Tester → Nat
  | .region _ => 10240
  | .hub => 10496
/-- Block i of a tester. -/
def blockAt (t : Tester) (i : Nat) : BlockAt :=
  match t with
  | .region r => regionBlock r.val i
  | .hub => hubBlock i

/-- BLOCK_TEST: the tester takes its next block, or skips it (R345, R346), once boot has applied the repair map (R348). -/
def execBlockTest (t : Tester) (s : State) : Host.Outcome State Fault Refusal :=
  if s.bit (btCtrl t) MEM_BT_CTRL_EN ∧ (s.tester t).block = none ∧ 4 ≤ s.boot.phase then
    let i := (s.tester t).next
    let n := (i + 1) % blockCount t
    if s.blockSkipped (blockAt t i) then ok (s.setTester t ⟨n, none⟩)
    else ok ((s.setTester t ⟨n, some i⟩).setBit (btStat t) MEM_BT_STAT_BUSY true)
  else ok s

/-- The spare rows of a bank not in use. -/
def State.sparesLeft (s : State) (array inst bank : Nat) : List Nat :=
  (List.range 8).filter (fun k => !s.boot.repairs.any (fun x =>
    x.1 == array && x.2.1 == inst && x.2.2.1 == bank && x.2.2.2.2 == k))

/-- A spare row of a cluster scratchpad bank is in use: the cluster's count rises (R357). -/
def State.countSpare (s : State) (array inst bank : Nat) : State :=
  if array = 0 then
    let a := if bank < 8 then MEM_CL_SPARE_LO inst else MEM_CL_SPARE_HI inst
    let f : Fld := ⟨4 * (bank % 8) + 3, 4 * (bank % 8)⟩
    s.setFld a f (s.fld a f + 1)
  else s

/-- A row is mapped to a spare row: the repair map holds it (R347, R348). -/
def State.mapRow (s : State) (array inst bank row spare : Nat) : State :=
  (s.countSpare array inst bank).updBoot (fun b => { b with repairs := b.repairs ++ [(array, inst, bank, row, spare)] })

/-- A faulty row of a block: it is mapped to a spare row of its bank, which one of those left being open (log entry 32), and the
repair waits to be appended; with none left NOSPARE, of a scratchpad in its own register too, and OUTCOME 7 report it (R347,
Table 12-6). -/
def State.repairRow (s : State) (x : BlockAt) (nospare : State → State) (bank : Nat) : State :=
  match s.sparesLeft x.array x.inst bank with
  | [] =>
    let u := if x.array = 0 then x.inst / 8 else if x.array = 1 then x.inst else 8
    let t := if x.array = 0 then s.setBit (MEM_CL_MEMTEST x.inst) MEM_CL_MEMTEST_NOSPARE true else s
    (nospare t).errorLog u x.addr 7 2
  | l =>
    let spare := l.getD (Config.freeNat s.free % l.length) 0
    let t := (s.useFree).mapRow x.array x.inst bank x.row spare
    t.updBoot (fun b => { b with appends := b.appends ++ [(x.array, x.inst, bank, x.row, spare)] })

/-- The banks that lines of a block lie in. -/
def BlockAt.hasBank (x : BlockAt) (bank : Nat) : Bool :=
  decide (bank < x.banks) && (decide (x.banks ≤ 64) || bank / 64 == x.off / 64 % x.banks / 64)

/-- BLOCK_TEST_DONE: the block is restored; `faultyRows` names the banks in which its row has a faulty cell (R345, R347). -/
def execBlockTestDone (t : Tester) (faultyRows : List Nat) (s : State) : Host.Outcome State Fault Refusal :=
  match (s.tester t).block with
  | some i =>
    let x := blockAt t i
    let u := (s.setTester t ⟨(s.tester t).next, none⟩).setBit (btStat t) MEM_BT_STAT_BUSY false
    let u := u.countSat (btStat t) MEM_BT_STAT_BLOCKS 1
    ok ((faultyRows.eraseDups.filter x.hasBank).foldl (fun v b =>
      v.repairRow x (fun w => w.setBit (btStat t) MEM_BT_STAT_NOSPARE true) b) u)
  | none => ok s

/-! Post-package repair (R349, R413). -/

/-- Whether a repair is accepted: SERVICE in a cluster of the region, none of RUN, SOURCE and CAPTURE in any, the row in HB r, no
repair in progress. -/
def State.pprAccepted (s : State) (r : Nat) (value : Word) : Bool :=
  let cs := (List.range 8).map (· + 8 * r)
  let a := getF value MEM_PPR_CMD_ADDR * 256
  cs.any (fun c => s.hasMode c 5) && cs.all (fun c => s.active c &&& 7 == 0) &&
    decide (r * 0x600000000 ≤ a) && decide (a < (r + 1) * 0x600000000) && (s.rg r).ppr.isNone

/-- A partner's write of MEM_PPR_CMD. -/
def State.pprCommand (s : State) (port r : Nat) (value : Word) : State :=
  if getF value MEM_PPR_CMD_GO = 0 then s
  else if s.pprAccepted r value then
    (s.setBit (MEM_PPR_STAT r) MEM_PPR_STAT_BUSY true).updRg r (fun x => { x with
      ppr := some (getF value MEM_PPR_CMD_ADDR * 256, getF value MEM_PPR_CMD_HARD == 1) })
  else (s.setBit (MEM_PPR_STAT r) MEM_PPR_STAT_REFUSED true).violation 0x02 port 0 0 (MEM_PPR_CMD r)

/-- PPR_GO (R349). -/
def execPprGo (port : PortNo) (r : RgNo) (value : Word) (s : State) : Host.Outcome State Fault Refusal :=
  ok (s.reach port.val (MEM_PPR_CMD r.val) (fun s => s.pprCommand port.val r.val value))

/-- PPR_DONE: the repaired row holds its old bytes and poison again; without a spare resource NORES is set and nothing changes
(R349). -/
def execPprDone (r : RgNo) (resourceLeft : Bool) (s : State) : Host.Outcome State Fault Refusal :=
  match (s.rg r.val).ppr with
  | some _ =>
    let t := (s.setBit (MEM_PPR_STAT r.val) MEM_PPR_STAT_BUSY false).updRg r.val (fun x => { x with ppr := none })
    ok (t.setBit (MEM_PPR_STAT r.val) (if resourceLeft then MEM_PPR_STAT_DONE else MEM_PPR_STAT_NORES) true)
  | none => ok s

/-! The pattern table. -/

/-- The register of word w of MEM_PAT[n]. -/
def patReg (r n w : Nat) : Nat :=
  match w with
  | 0 => MEM_PAT_W0 r n
  | 1 => MEM_PAT_W1 r n
  | 2 => MEM_PAT_W2 r n
  | 3 => MEM_PAT_W3 r n
  | _ => MEM_PAT_W4 r n

/-- Any write to an entry clears DAMAGED and MIRROR_BAD (Table 12-4). -/
def State.patWritten (s : State) (r n : Nat) : State :=
  (s.setBit (MEM_PAT_W1 r n) MEM_PAT_W1_DAMAGED false).setBit (MEM_PAT_W1 r n) MEM_PAT_W1_MIRROR_BAD false

/-- MEM_PAT_WRITE (R341). -/
def execMemPatWrite (port : PortNo) (r : RgNo) (n : Fin 16) (w : Fin 5) (value : Word) (be : BitVec 4) (s : State) :
    Host.Outcome State Fault Refusal :=
  let a := patReg r.val n.val w.val
  ok (s.reach port.val a (fun s => (s.partnerWrite a value be).patWritten r.val n.val))

/-! The secure scratchpad. -/

/-- A wipe begins, unless one is in progress: the scratchpad holds zeros, without poison (R354). -/
def State.beginWipe (s : State) : State :=
  if s.bit SEC_STAT SEC_STAT_WIPING then s
  else
    let t := s.setBit SEC_STAT SEC_STAT_WIPING true
    let lo := 0x3FF00000000
    let hi := 0x3FF00100000
    { t with
      mem := t.mem.filter (fun x => decide (x.1 < lo) || decide (hi ≤ x.1))
      poison := t.poison.filter (fun x => decide (x.1 < lo / 64) || decide (hi / 64 ≤ x.1)) }

/-- WIPE: a partner's write of 1 to SEC_CTRL.WIPE (R354). -/
def execWipe (port : PortNo) (s : State) : Host.Outcome State Fault Refusal :=
  ok (s.reach port.val SEC_CTRL State.beginWipe)

/-- WIPE_END: 16,384 st later the wipe ends and WIPES counts it (R354). -/
def execWipeEnd (s : State) : Host.Outcome State Fault Refusal :=
  if s.bit SEC_STAT SEC_STAT_WIPING then
    ok ((s.setBit SEC_STAT SEC_STAT_WIPING false).countSat SEC_STAT SEC_STAT_WIPES 1)
  else ok s

/-- TAMPER: sixteen consecutive low samples of TAMPER_N: a wipe begins, TAMPERED sets and VIOLATION is written with the cause tamper
(R355, R459). -/
def execTamper (s : State) : Host.Outcome State Fault Refusal :=
  let t := ({ s with tamperN := false }).beginWipe
  ok ((t.setBit SEC_STAT SEC_STAT_TAMPERED true).violation 0x07 byDevice 0 0 0)

/-- TAMPER_N_HIGH: a sample finds TAMPER_N high; TAMPER_NOW clears (R355). -/
def execTamperNHigh (s : State) : Host.Outcome State Fault Refusal := ok { s with tamperN := true }

end Sys2Proof.Machine
end

