-- ==== Sys2Proof/Machine/RingCommands.lean ====
section
/-! DEFINITION. What partners, flow engines and the jig command of DMA rings and buffer pools: TAIL writes and doorbells (R359, R368,
R454), ring restart (R366), ring allocation (R378) and the buffer pools (R379, R380). -/

namespace Sys2Proof.Machine

/-! TAIL, doorbells, restart. -/

/-- A write of TAIL: descriptors are handed over; a COPY ring's request is raised, and a ring that stopped at OWN 0 reads that
descriptor again; a burst short of room is tried again (R359, R363, R368, R370). -/
def State.tailWrite (s : State) (n tail : Nat) : State :=
  let t := (s.setFld (ringPtr n) RING_PTR_TAIL tail).updRing n (fun x => { x with waitTail := false, short := false })
  if s.isCopy n then t.raise n else t

/-- RING_TAIL_WRITE (R359). -/
def execRingTailWrite (port : PortNo) (ring : RingNo) (tail : BitVec 16) (s : State) : Host.Outcome State Fault Refusal :=
  ok (s.reach port.val (ringPtr ring.val) (fun s => s.tailWrite ring.val tail.toNat))

/-- DOORBELL: a write of PRT_DB acts as a TAIL write of the named ring (R454). -/
def execDoorbell (port : PortNo) (value : Word) (s : State) : Host.Outcome State Fault Refusal :=
  let n := getF value PRT_DB_RING
  ok (s.reach port.val (PRT_DB port.val) (fun s =>
    s.reach port.val (ringPtr n) (fun s => s.tailWrite n (getF value PRT_DB_TAIL))))

/-- A stopped ring restarts at HEAD: the descriptor there is fetched again, and the fetch then repeats a completion write that failed
(R366). -/
def State.restartRing (s : State) (n : Nat) : State :=
  (s.setBit (ringStat n) RING_STAT_STOPPED false).updRing n (fun x => { x with waitTail := false, short := false, desc := none })

/-- A write of RING_CFG with EN 1 (R366). -/
def State.ringEnable (s : State) (n : Nat) : State :=
  if s.bit (ringStat n) RING_STAT_STOPPED then s.restartRing n else s

/-- RING_RESTART: a partner's write of 1 to RING_CFG.EN (R366). -/
def execRingRestart (port : PortNo) (ring : RingNo) (s : State) : Host.Outcome State Fault Refusal :=
  ok (s.reach port.val (ringCfg ring.val) (fun s =>
    (s.setBit (ringCfg ring.val) RING_CFG_EN true).ringEnable ring.val))

/-! Allocation (R378). -/

/-- RING_ALLOC: a partner's read of DMA_ALLOC. -/
def execRingAlloc (port : PortNo) (r : RgNo) (s : State) : Host.Outcome State Fault Refusal :=
  ok (s.readReach port.val (DMA_ALLOC r.val) (s.allocRing r.val))

/-- A write of DMA_FREE: an idle ring of the region whose HEAD equals TAIL is freed; otherwise the write is ignored and logged. -/
def State.freeRing (s : State) (port r n : Nat) : State :=
  if ringRg n = r ∧ s.ringIdle n ∧ s.ringHead n = s.ringTail n then
    (s.setBit (ringCfg n) RING_CFG_ALLOC false).setBit (ringCfg n) RING_CFG_EN false
  else s.violation 0x01 port 0 n (DMA_FREE r)

/-- RING_FREE. -/
def execRingFree (port : PortNo) (r : RgNo) (value : Word) (s : State) : Host.Outcome State Fault Refusal :=
  ok (s.reach port.val (DMA_FREE r.val) (fun s => s.freeRing port.val r.val (getF value DMA_FREE_RING)))

/-! Buffer pools (R379, R380). -/

/-- COUNT of a region's pool: above 4,096 acts as 4,096. -/
def State.poolCount (s : State) (r : Nat) : Nat := min 4096 (s.fld (DMA_POOL_CFG r) DMA_POOL_CFG_COUNT)
/-- log2 of a buffer of the pool: 8 to 12. -/
def State.poolLog2 (s : State) (r : Nat) : Nat := max 8 (min 12 (s.fld (DMA_POOL_CFG r) DMA_POOL_CFG_POOL_LOG2))
/-- The package-local address of buffer k of the pool. -/
def State.poolAddr (s : State) (r k : Nat) : Nat :=
  s.fld (DMA_POOL_BASE_LO r) DMA_POOL_BASE_LO_BASE_LO * 256 + s.fld (DMA_POOL_BASE_HI r) DMA_POOL_BASE_HI_BASE_HI * 2 ^ 32 +
    k * 2 ^ s.poolLog2 r

/-- POOL_TAKE: a partner's read of DMA_POOL_TAKE. -/
def execPoolTake (port : PortNo) (r : RgNo) (s : State) : Host.Outcome State Fault Refusal :=
  ok (s.readReach port.val (DMA_POOL_TAKE r.val) (s.poolRead r.val))

/-- The rings that wait for a buffer are retried: NOBUF clears until one of their takes fails again (R380). -/
def State.retryBuffers (s : State) (r : Nat) : State :=
  let t := (s.rg r).poolWait.foldl (fun t n =>
    let x := t.chan (ringCh n)
    (t.setChan (ringCh n) { x with burst := x.burst.map (fun b => { b with noBuf := false }) }).setBit
      (ringStat n) RING_STAT_NOBUF false) s
  t.updRg r (fun x => { x with poolWait := [] })

/-- A write of DMA_POOL_PUT: the buffer returns and the waiters are retried; an index of COUNT or more is ignored and logged. The return of
a buffer that is already free is unpredictable: whether it is then free twice is a free value. -/
def State.poolReturn (s : State) (port r k : Nat) : State :=
  if s.poolCount r ≤ k then s.violation 0x01 port 0 k (DMA_POOL_PUT r)
  else
    let again := (s.rg r).poolFree.contains k
    let t := if again then s.useFree else s
    let t := if again && !Config.freeBool s.free then t else t.updRg r (fun x => { x with poolFree := k :: x.poolFree })
    t.retryBuffers r

/-- POOL_PUT. -/
def execPoolPut (port : PortNo) (r : RgNo) (value : Word) (s : State) : Host.Outcome State Fault Refusal :=
  ok (s.reach port.val (DMA_POOL_PUT r.val) (fun s => s.poolReturn port.val r.val (getF value DMA_POOL_PUT_INDEX)))

/-- A write of DMA_POOL_CFG fills the free list with all COUNT buffers. -/
def State.poolConfigured (s : State) (r : Nat) : State :=
  (s.updRg r (fun x => { x with poolFree := List.range (s.poolCount r) })).retryBuffers r

end Sys2Proof.Machine
end

