-- ==== Sys2Proof/Machine/Flow.lean ====
section
/-! DEFINITION. Flow services: what flow engines reach in memory (R48, R353), the datalog ring (R398-R400), insertions (R383, R384,
R386, R396, R397), and the configuration of flow engines. The entries stand in Entries.lean. -/

namespace Sys2Proof.Machine

/-! Memory, as a flow engine reaches it (R48, R353, R354). -/

/-- Whether a flow engine's access to [a, a + n) of memory ends without a bus error: it reaches its package's secure scratchpad too. -/
def State.flowMemOk (s : State) (a n : Nat) : Bool := s.memOk a n || inSecure a n

/-- A flow engine writes bytes that it reaches; a closed secure scratchpad discards them (R354-R356). -/
def State.flowStore (s : State) (a : Nat) (l : List Byte) : State :=
  if inSecure a l.length && !s.secureOpen then s else s.storeAll a l

/-! The datalog (R398-R400). -/

/-- The size of the datalog ring in bytes (Table 14-6). -/
def State.logSize (s : State) : Nat := 2 ^ max 12 (min 30 (s.fld FLW_LOG_CFG FLW_LOG_CFG_SIZE_LOG2))
/-- Whether a record of n bytes fits. -/
def State.logFits (s : State) (n : Nat) : Bool :=
  decide (n + (s.reg FLW_LOG_WPTR - s.reg FLW_LOG_RPTR).toNat ≤ s.logSize)
/-- FLW_LOG_BASE. -/
def State.logBase (s : State) : Nat :=
  s.fld FLW_LOG_BASE_LO FLW_LOG_BASE_LO_BASE * 16 + s.fld FLW_LOG_BASE_HI FLW_LOG_BASE_HI_BASE * 2 ^ 32

/-- Bytes of a record stored where the ring lies: those in registers leave for them, those that meet a bus error are stored nowhere (R48,
log entry 71). -/
def State.logStore (s : State) (a : Nat) (l : List Byte) : State :=
  if l.isEmpty then s
  else if addrKind a = .register then { s with flowRegs := s.flowRegs ++ [(a, l)] }
  else if s.flowMemOk a l.length then s.flowStore a l else s

/-- The next SEQ is consumed (R399). -/
def State.nextSeq (s : State) : State :=
  let t := s.setReg FLW_LOG_SEQ (s.reg FLW_LOG_SEQ + 1)
  if s.reg FLW_LOG_SEQ = 0xFFFFFFFF then t.setFld FLW_LOG_STAT FLW_LOG_STAT_EPOCH (t.fld FLW_LOG_STAT FLW_LOG_STAT_EPOCH + 1) else t

/-- Bytes from offset o of a list on replaced. -/
def patchList (l : List Byte) (o : Nat) (new : List Byte) : List Byte := l.take o ++ new ++ l.drop (o + new.length)

/-- A record with its SEQ and EPOCH is written whole at the ring offset of WPTR (R398, R399). -/
def State.logWrite (s : State) (r : List Byte) : State :=
  let r := patchList r 4 (leBytes 4 (s.reg FLW_LOG_SEQ).toNat ++ leBytes 1 (s.fld FLW_LOG_STAT FLW_LOG_STAT_EPOCH))
  let o := (s.reg FLW_LOG_WPTR).toNat % s.logSize
  let k := s.logSize - o
  let t := (s.logStore (s.logBase + o) (r.take k)).logStore s.logBase (r.drop k)
  (t.setReg FLW_LOG_WPTR (s.reg FLW_LOG_WPTR + BitVec.ofNat 32 r.length)).nextSeq

/-- The flow engine of a record's header, none with NOSITE (Table 14-3). -/
def recFlow (r : List Byte) : Option Nat :=
  let w := ofLe ((r.drop 2).take 2)
  if nbit w 13 then none else some (slice w 10 3)

/-- The flow engine of a writer of the datalog. -/
def LogTask.engine : LogTask → Option Nat
  | .record r => recFlow r
  | .start n _ _ => some n
  | .siteEnd n _ _ _ => some n

/-- LOGWAIT of every flow engine shows whether it waits to write a record. -/
def State.showLogWait (s : State) : State :=
  (List.range 8).foldl (fun t n => t.setBit (FLW_STAT n) FLW_STAT_LOGWAIT (t.logWait.any (fun x => x.engine == some n))) s

/-- A record is written when it fits, else dropped under POLICY 1; none while it must wait (R400). -/
def State.logPut (s : State) (r : List Byte) : Option State :=
  if s.logFits r.length then some (s.logWrite r)
  else if s.bit FLW_LOG_CFG FLW_LOG_CFG_POLICY then some ((s.nextSeq).countSat FLW_LOG_STAT FLW_LOG_STAT_DROP 1)
  else none

/-! Sites (R382, R384). -/

/-- CL_MASK of a site. -/
def State.siteMask (s : State) (k : Nat) : Nat := s.pair (FLW_SITE_W0 k) (FLW_SITE_W1 k)
/-- The clusters of a site, rising. -/
def State.siteClusters (s : State) (k : Nat) : List Nat := bitsOf 64 (s.siteMask k)
/-- Whether a site is enabled. -/
def State.siteOn (s : State) (k : Nat) : Bool := s.bit (FLW_SITE_CFG k) FLW_SITE_CFG_EN
/-- The enabled sites of flow engine n, rising. -/
def State.sitesOf (s : State) (n : Nat) : List Nat :=
  (List.range 64).filter (fun k => s.siteOn k && s.fld (FLW_SITE_CFG k) FLW_SITE_CFG_ENGINE == n)
/-- The pins of a site in order of their site-relative number (R382). -/
def State.sitePins (s : State) (k : Nat) : List Nat := (s.siteClusters k).flatMap (fun c => (List.range 16).map (· + 16 * c))
/-- VAL[k] of a site. -/
def State.val (s : State) (site k : Nat) : Int := sx 64 (s.pair (FLW_VAL_LO site k) (FLW_VAL_HI site k))
/-- Write VAL[k] of a site: 64 bits. -/
def State.setVal (s : State) (site k : Nat) (v : Int) : State := s.setPair (FLW_VAL_LO site k) (FLW_VAL_HI site k) (ux 64 v)

/-- Bytes 0 to 15 of a record; SEQ and EPOCH come when it is written (Table 14-3). -/
def State.recHead (s : State) (type len n site test : Nat) : List Byte :=
  leBytes 1 type ++ leBytes 1 len ++ leBytes 2 (site + s.pkgId * 2 ^ 6 + n * 2 ^ 10) ++ leBytes 4 0 ++ leBytes 1 0 ++
  leBytes 1 (s.fld (FLW_SITE_STAT site) FLW_SITE_STAT_RETESTS) ++ leBytes 2 test ++ leBytes 4 (s.site site).insert

/-- The START record of a site, with GT as it is written (Table 14-4). -/
def State.startBytes (s : State) (n site test : Nat) : List Byte :=
  s.recHead 1 2 n site test ++ leBytes 8 s.gt64 ++ leBytes 8 (s.siteMask site)

/-- A site is set as at the start of an insertion, with a number of retests (R384, R396). -/
def State.siteReset (s : State) (site retests : Nat) : State :=
  let t := (s.setReg (FLW_SITE_STAT site) 0).setFld (FLW_SITE_STAT site) FLW_SITE_STAT_RETESTS retests
  let t := t.updSite site (fun x => { x with ptr := 0, next := 0 })
  (List.range 16).foldl (fun t k => t.setVal site k 0) t

/-- The clusters of a site are held in a flow step, or its end leaves for their timebases, where results that wait for it take effect
(R319, R386, Table 11-2, R496). -/
def State.stepHold (s : State) (site : Nat) (b : Bool) : State :=
  (s.siteClusters site).foldl (fun t c =>
    let pends := t.bit (CAL_STAT c) CAL_STAT_PEND_T || t.bit (CAL_STAT c) CAL_STAT_PEND_DC || t.bit CAL_REF_STAT CAL_REF_STAT_STOP_T ||
      t.bit CAL_REF_STAT CAL_REF_STAT_STOP_V
    t.updGauge c (fun x => { x with
      inStep := b
      stepEnd := if !b && x.inStep && pends then some s.gt else x.stepEnd })) s

/-- A site leaves the entry in progress. -/
def State.leaveEntry (s : State) (n site : Nat) : State :=
  s.updFlow n (fun f => { f with entry := f.entry.map (fun x => { x with sites := x.sites.filter (· != site) }) })

/-- A site without a bin takes the error bin of its engine (R396). -/
def State.errorBin (s : State) (n site : Nat) : State :=
  let a := FLW_SITE_STAT site
  ((s.setFld a FLW_SITE_STAT_HBIN (s.fld (FLW_CFG n) FLW_CFG_ERR_HBIN)).setFld a
    FLW_SITE_STAT_SBIN (s.fld (FLW_CFG n) FLW_CFG_ERR_SBIN)).setBit a FLW_SITE_STAT_BINNED true

/-- Whether a site at END is tested again (R396). -/
def State.retests (s : State) (n site : Nat) (err : Bool) : Bool :=
  let a := FLW_SITE_STAT site
  nbit (s.reg (FLW_RETEST n)).toNat (s.fld a FLW_SITE_STAT_HBIN) &&
    decide (s.fld a FLW_SITE_STAT_RETESTS < s.fld (FLW_CFG n) FLW_CFG_RETEST_MAX) && !err

/-- The BIN record of a site at END, with GT as it is written (Table 14-4). -/
def State.binBytes (s : State) (n site test : Nat) (nobin err : Bool) : List Byte :=
  let a := FLW_SITE_STAT site
  let flags := (if s.retests n site err then 1 else 0) + (if nobin then 2 else 0) + (if err then 4 else 0)
  s.recHead 4 2 n site test ++ leBytes 1 (s.fld a FLW_SITE_STAT_HBIN) ++ leBytes 1 flags ++ leBytes 2 (s.fld a FLW_SITE_STAT_SBIN) ++
    leBytes 1 (s.fld a FLW_SITE_STAT_ERR) ++ leBytes 3 0 ++ leBytes 8 s.gt64

/-- What follows the BIN record of a site at END: its flow step ends, and it is tested again or done (R386, R396). The START record of a
retest carries the TEST of the entry that brought the site to END, as its BIN record does (log entry 75). -/
def State.siteLeaves (s : State) (n site test : Nat) (again : Bool) : State :=
  let a := FLW_SITE_STAT site
  let t := s.stepHold site false
  if again then
    let u := t.siteReset site (t.fld a FLW_SITE_STAT_RETESTS + 1)
    { u with logWait := .start n site test :: u.logWait }
  else ((t.setBit a FLW_SITE_STAT_DONE true).countSat (FLW_HBIN_CNT (t.fld a FLW_SITE_STAT_HBIN)) FLW_HBIN_CNT_COUNT 1).countSat
    (FLW_SBIN_CNT (t.fld a FLW_SITE_STAT_SBIN)) FLW_SBIN_CNT_COUNT 1

/-- A writer of the datalog acts as its turn comes; none while it must wait (R396, R400). -/
def State.logStep (s : State) : LogTask → Option State
  | .record r => s.logPut r
  | .start n site test => s.logPut (s.startBytes n site test)
  | .siteEnd n site test err =>
    let nobin := !s.bit (FLW_SITE_STAT site) FLW_SITE_STAT_BINNED
    let t := if nobin then s.errorBin n site else s
    (t.logPut (t.binBytes n site test nobin err)).map (fun u => u.siteLeaves n site test (t.retests n site err))

/-- Waiting writers act in order while they need not wait (R399, R400). -/
def State.logRun (s : State) : Nat → State
  | 0 => s
  | k + 1 =>
    match s.logWait with
    | x :: l => (({ s with logWait := l }).logStep x).elim s (fun t => t.logRun k)
    | [] => s

/-- Every waiting writer that can acts; each may bring one more, the START record of a retest. -/
def State.logDrain (s : State) : State := (s.logRun (2 * s.logWait.length)).showLogWait

/-- A writer of the datalog takes its place behind those that wait (R399). -/
def State.logTask (s : State) (x : LogTask) : State := ({ s with logWait := s.logWait ++ [x] }).logDrain

/-- A record is written, or waits, or is dropped, as POLICY says (R400). -/
def State.logEmit (s : State) (r : List Byte) : State := s.logTask (.record r)

/-- A START record of a site (Table 14-4). -/
def State.startRecord (s : State) (n site test : Nat) : State := s.logTask (.start n site test)

/-- LOG_RPTR_WRITE: ring bytes are released; a value ahead of WPTR acts as WPTR (Table 14-6). -/
def State.logRelease (s : State) (value : Word) : State :=
  let w := s.reg FLW_LOG_WPTR
  let r := s.reg FLW_LOG_RPTR
  let v := if (value - r).toNat ≤ (w - r).toNat then value else w
  (s.setReg FLW_LOG_RPTR v).logDrain

/-- A site at END: it leaves the entry in progress, and gets its bin, its record, and a retest or DONE once the records before it are
written (R396, R400). `err` tells that an entry error brought it there. -/
def State.siteEnd (s : State) (n site test : Nat) (err : Bool) : State := (s.leaveEntry n site).logTask (.siteEnd n site test err)

/-- An entry error of a site: the error bin, its code, and END without retest (R394). -/
def State.siteError (s : State) (n site test code : Nat) : State :=
  ((s.errorBin n site).setFld (FLW_SITE_STAT site) FLW_SITE_STAT_ERR code).siteEnd n site test true

/-- An entry error with VIOLATION, which the violation log records with the entry index (R394). -/
def State.siteViolation (s : State) (n site test cause idx : Nat) : State :=
  (s.violation cause byEngine 0 idx (s.fld (FLW_TABLE_LO n) FLW_TABLE_LO_BASE * 64 +
    s.fld (FLW_TABLE_HI n) FLW_TABLE_HI_BASE * 2 ^ 32 + 64 * idx)).siteError n site test codeViolation

/-! Insertions (R383, R384, R397). -/

/-- Whether flow engine n runs. -/
def State.flowOn (s : State) (n : Nat) : Bool := s.bit (FLW_STAT n) FLW_STAT_RUNNING

/-- Whether an insertion cannot start: the engine runs, has no enabled site, or shares a cluster with another enabled site (R383). -/
def State.cannotInsert (s : State) (n : Nat) : Bool :=
  s.flowOn n || (s.sitesOf n).isEmpty ||
  (s.sitesOf n).any (fun k => (List.range 64).any (fun j => j != k && s.siteOn j && s.siteMask k &&& s.siteMask j != 0))

/-- An insertion starts (R384). -/
def State.insertion (s : State) (n : Nat) : State :=
  let t := s.setBit (FLW_STAT n) FLW_STAT_RUNNING true
  let t := t.setFlow n {}
  let i := (s.reg (FLW_INSERT n)).toNat
  let t := (List.range 64).foldl (fun t k =>
    if s.siteOn k && s.fld (FLW_SITE_CFG k) FLW_SITE_CFG_ENGINE == n then
      (t.siteReset k 0).setSite k { ptr := 0, next := 0, insert := i, active := true }
    else t) t
  (s.sitesOf n).foldl (fun t k => t.startRecord n k 0) t

/-- A GO write: refused with VIOLATION, or an insertion starts (R383, R443). -/
def State.goCommand (s : State) (port n : Nat) : State :=
  if s.cannotInsert n || s.bit BOOT_STAT BOOT_STAT_ACTIVATING then s.violation 0x02 port 0 n (FLW_CTRL n) else s.insertion n

/-- The package flag that a number names, as a flag key (Table 6-4). -/
def pkgFlag (f : Nat) : Nat := 2000 + f % 256

/-- A CONT write completes a WAIT with SRC 2 (R392). -/
def State.contCommand (s : State) (n : Nat) : State :=
  s.updFlow n (fun f => match f.waiting with
    | .cont => { f with waiting := .done }
    | _ => f)

/-- FLOW_CONT. -/
def execFlowCont (port : PortNo) (n : FlowNo) (s : State) : Host.Outcome State Fault Refusal :=
  ok (s.reach port.val (FLW_CTRL n.val) (fun s => s.contCommand n.val))

/-- The sites of an insertion of engine n, rising. -/
def State.inserted (s : State) (n : Nat) : List Nat := (s.sitesOf n).filter (fun k => (s.site k).active)

/-- The package summary of an insertion (Table 14-5). -/
def State.packageSummary (s : State) (n : Nat) : PkgSummary :=
  let hb (k : Nat) : Nat := s.fld (FLW_SITE_STAT k) FLW_SITE_STAT_HBIN
  { pkg := s.pkgId
    flow := n
    insert := (s.reg (FLW_INSERT n)).toNat
    gt := s.gt64
    sites := maskOf (s.inserted n)
    bins := (List.range 32).map (fun h => ((s.inserted n).filter (fun k => hb k == h)).length) }

/-- The bytes of a package summary. -/
def pkgBytes (x : PkgSummary) : List Byte :=
  leBytes 1 2 ++ leBytes 1 x.pkg ++ leBytes 1 x.flow ++ leBytes 1 0 ++ leBytes 4 x.insert ++ leBytes 8 x.gt ++
  leBytes 8 x.sites ++ x.bins.flatMap (leBytes 1) ++ leBytes 8 0

/-- An insertion whose sites are all done completes (R397); its package summary goes to the timing master's Bench (R403). -/
def State.insertionEnd (s : State) (n : Nat) : State :=
  if s.flowOn n && (s.inserted n).all (fun k => s.bit (FLW_SITE_STAT k) FLW_SITE_STAT_DONE) then
    let t := (s.setReg (FLW_INSERT n) (s.reg (FLW_INSERT n) + 1)).setBit (FLW_STAT n) FLW_STAT_RUNNING false
    let y := t.packageSummary n
    let u := (s.inserted n).foldl (fun u k => u.updSite k (fun x => { x with active := false })) t
    if !s.bit (FLW_CTRL n) FLW_CTRL_SYS_REPORT then u
    else if s.bit VYN_SYS_STAT VYN_SYS_STAT_IS_MASTER then { u with pkgBench := u.pkgBench ++ [y] }
    else u.send (.vyene "PACKAGE_SUMMARY" (s.fld VYN_SYS_STAT VYN_SYS_STAT_MASTER_ID) ((pkgBytes y).map (·.toNat)))
  else s

/-! Configuration of a running engine. -/

/-- Whether an address is a flow configuration register, and whether an engine it concerns runs (Table 14-6). -/
def State.flowCfg (s : State) (a : Nat) : Option Bool :=
  match (List.range 8).find? (fun n => a == FLW_TABLE_LO n || a == FLW_TABLE_HI n || a == FLW_RETEST n || a == FLW_CFG n) with
  | some n => some (s.flowOn n)
  | none =>
    match (List.range 64).find? (fun k => a == FLW_SITE_W0 k || a == FLW_SITE_W1 k || a == FLW_SITE_CFG k) with
    | some k => some (s.flowOn (s.fld (FLW_SITE_CFG k) FLW_SITE_CFG_ENGINE))
    | none => if a = FLW_LOG_CFG then some ((List.range 8).any s.flowOn) else none

/-- A write of a flow configuration register: stored, or ignored and logged while its engine runs. -/
def State.flowCfgWrite (s : State) (port a : Nat) (value : Word) (be : BitVec 4) : State :=
  match s.flowCfg a with
  | some true => s.violation 0x01 port 0 0 a
  | some false => s.partnerWrite a value be
  | none => s

/-- FLOW_CONFIG_WRITE. -/
def execFlowConfigWrite (port : PortNo) (addr : Nat) (value : Word) (be : BitVec 4) (s : State) :
    Host.Outcome State Fault Refusal :=
  ok (s.reach port.val addr (fun s => s.flowCfgWrite port.val addr value be))

end Sys2Proof.Machine
end

