-- ==== Sys2Proof/Machine/Modes.lean ====
section
/-! DEFINITION. The mode word and live service (R404-R424): MOD_REQ writes, shutdowns, DRAIN, and the acceptance of the other service
commands. What a service command does when it completes stands in JigLoad.lean. -/

namespace Sys2Proof.Machine

/-- Whether a service command of a cluster is busy. -/
def State.svcBusy (s : State) (c : Nat) : Bool := s.bit (MOD_SVC_STAT c) MOD_SVC_STAT_BUSY

/-- A partner's write of MOD_REQ: stored and on its way to pin time, or ignored and logged while a service command is busy (R405,
R418). -/
def State.modReq (s : State) (port c : Nat) (value : Word) (be : BitVec 4) : State :=
  let a := MOD_REQ c
  if s.svcBusy c then s.violation 0x01 port 0 c a
  else
    let t := s.partnerWrite a value be
    t.sendPin a (t.reg a)

/-- MOD_REQ_WRITE (R404, R405, R418). -/
def execModReqWrite (port : PortNo) (c : ClNo) (value : Word) (be : BitVec 4) (s : State) :
    Host.Outcome State Fault Refusal :=
  ok (s.reach port.val (MOD_REQ c.val) (fun s => s.modReq port.val c.val value be))

/-! Shutdowns (Table 15-1). -/

/-- Whether a run includes a cluster. -/
def Run.hasCluster (r : Run) (c : Nat) : Bool := r.engines.any (fun e => engCl e == c)

/-- Whether the shutdown of a mode is complete. Players stop and END lines are staged at the boundary at which the shutdown begins;
no segment fetch is a state of its own. -/
def State.shutdownComplete (s : State) (c m : Nat) : Bool :=
  match m with
  | 0 => (clEngines c).all (fun e => (s.eng e).run.isNone)
  | 3 => !s.bit (ADC_STAT c) ADC_STAT_BUSY && (s.adc c).seq.isNone &&
      (List.range 16).all (fun u => (s.pin (16 * c + u)).pulse.isNone)
  | 4 => !s.interrupted c
  | 5 => !s.svcBusy c
  | _ => true

/-- The shutdown of a mode ends: STOPPING clears, and a pending enable enters force (R407, R416). -/
def State.endShutdown (s : State) (c m : Nat) : State :=
  let a := MOD_ACTIVE c
  let set (t : State) (f : Fld) (v : Bool) : State := t.setFld a f (setNBit (t.fld a f) m v)
  let t := set s MOD_ACTIVE_STOPPING false
  if s.fbit a MOD_ACTIVE_PENDING m then set (set t MOD_ACTIVE_PENDING false) MOD_ACTIVE_ACTIVE true else t

/-- MODE_SHUTDOWN_DONE: at tenon boundary b a mode's shutdown completes (R407, R416, Table 15-1). -/
def execModeShutdownDone (c : ClNo) (mode : Fin 6) (b : Nat) (s : State) : Host.Outcome State Fault Refusal :=
  if b % 64 = 0 ∧ s.fbit (MOD_ACTIVE c.val) MOD_ACTIVE_STOPPING mode.val ∧ s.shutdownComplete c.val mode.val then
    ok ((s.at b).endShutdown c.val mode.val)
  else ok s

/-! Service commands (R418, Table 15-4). -/

/-- A service command is not accepted: REFUSED and VIOLATION with the cluster number; nothing else changes. -/
def State.svcRefuse (s : State) (port c : Nat) : State :=
  (s.setBit (MOD_SVC_STAT c) MOD_SVC_STAT_REFUSED true).violation 0x02 port 0 c (MOD_SVC_CMD c)

/-- The modes of a cluster in force or stopping (R411). -/
def State.modesHeld (s : State) (c : Nat) : Nat :=
  s.active c ||| s.fld (MOD_ACTIVE c) MOD_ACTIVE_STOPPING

/-- What each service command requires besides that none is busy: RECOVER needs the converter and Gauge, which MEASURE and CALIBRATE hold
(R410, R411, R414, Table 15-4). -/
def State.svcRequires (s : State) (c op : Nat) : Bool :=
  match op with
  | 1 => !s.bit (MOD_SVC_STAT c) MOD_SVC_STAT_DRAINED
  | 2 => s.hasMode c 5 && s.modesHeld c &&& 1 == 0
  | 3 => s.hasMode c 5 && s.modesHeld c &&& 7 == 0
  | 4 => s.active c == 0x20 && s.fld (MOD_ACTIVE c) MOD_ACTIVE_STOPPING == 0
  | 5 => s.hasMode c 5 && s.bit (MOD_SVC_STAT c) MOD_SVC_STAT_DRAINED && s.modesHeld c &&& 0x18 == 0
  | _ => false

/-- Whether a service command is accepted now. -/
def State.svcAccepts (s : State) (c op : Nat) : Bool := !s.svcBusy c && s.svcRequires c op

/-- A service command begins: BUSY and OP. -/
def State.svcBegin (s : State) (c : Nat) (v : Service) : State :=
  ((s.setBit (MOD_SVC_STAT c) MOD_SVC_STAT_BUSY true).setFld (MOD_SVC_STAT c) MOD_SVC_STAT_OP v.op).updCl c
    (fun x => { x with svc := some v })

/-- A service command that is accepted begins with an action; another is refused. -/
def State.svcIssue (s : State) (port c op : Nat) (act : State → State) : State :=
  if s.svcAccepts c op then act s else s.svcRefuse port c

/-! DRAIN (R419-R421). -/

/-- A converter sequence in progress is abandoned at grain g and writes no entry (R419). -/
def State.abandonSeq (s : State) (c g : Nat) : State :=
  match (s.adc c).seq with
  | some q => s.adcAfter c g (q.lowPower || !q.begun && s.adcLowPower c)
  | none => s

/-- Whether an engine of a cluster plays from a lane at grain d. -/
def State.laneLive (s : State) (c d : Nat) (lane : Lane) : Bool :=
  (clEngines c).any (fun e => s.playing e && decide ((s.eng e).laneAt d = lane))

/-- The boundary that follows the last tenon that a cluster has in the arrays it plays from, or d when it lies before d (R420). -/
def State.lastTenonEnd (s : State) (c d : Nat) : Nat :=
  let x := s.cl c
  let l := (if s.laneLive c d .main then x.curMain.toList ++ x.mortise else []) ++
    (if s.laneLive c d .shadow then x.curShadow.toList ++ x.shadow else [])
  l.foldl (fun m t => max m (t.stamp + 64)) d

/-- The array that does not play is discarded with the tenons that have no room yet; the tenon in production is completed, and no later one
is produced (R420, log entry 81). -/
def State.cutProduction (s : State) (c d e : Nat) : State :=
  s.updCl c (fun x => { x with
    cutEnd := some e, cutLast := true, waitTenons := [], mortise := if s.laneLive c d .main then x.mortise else []
    shadow := if s.laneLive c d .shadow then x.shadow else [] })

/-- DRAIN cuts the runs of a cluster at boundary d (R420): one not yet started ends as refused at its start; the others are to end
with VIOLATION at E. -/
def State.cutRuns (s : State) (c d : Nat) : State :=
  let runs := s.runs.filter (fun r => r.hasCluster c)
  let t := (runs.filter (fun r => r.start.isNone)).foldl (fun t r => t.refuseRun r codeViolation) s
  let live := runs.filter (fun r => r.start.isSome)
  if live.isEmpty then t.svcBegin c { op := 1, cut := true, dGrain := d, eGrain := some d }
  else
    let e := s.lastTenonEnd c d
    let t := live.foldl (fun t r => t.endRun r.lowest codeViolation (some (e - 1))) t
    (t.cutProduction c d e).svcBegin c { op := 1, cut := true, dGrain := d, eGrain := some e }

/-- DRAIN takes effect at boundary d: REQ, the shutdowns, the converter, the runs (R419, R420). -/
def State.drainAt (s : State) (c : Nat) (cut : Bool) (d : Nat) : State :=
  let t := (((s.at d).modReqNow c 0x20).stepModes c d).abandonSeq c d
  if cut then t.cutRuns c d
  else t.svcBegin c
    { op := 1, cut := false, dGrain := d
      eGrain := if t.runs.any (fun r => r.hasCluster c) then none else some d }

/-- DRAIN meets boundary d: it takes effect there, or waits for the boundary that ends an interruption in progress (R419). -/
def State.drainMeets (s : State) (c : Nat) (cut : Bool) (d : Nat) : State :=
  match (s.cl c).gauge.interruption with
  | some (kind, start, _) => (s.at d).svcBegin c { op := 1, cut := cut, waits := true, dGrain := start + calGrains kind }
  | none => s.drainAt c cut d

/-- A DRAIN that has waited for the end of an interruption takes effect at its boundary (R419). -/
def State.drainDue (s : State) (c b : Nat) : State :=
  match (s.cl c).svc with
  | some v => if v.waits ∧ v.dGrain ≤ b then s.drainAt c v.cut b else s
  | none => s

/-- DRAIN (R418-R420). -/
def execDrain (port : PortNo) (c : ClNo) (cut : Bool) (d : Nat) (s : State) : Host.Outcome State Fault Refusal :=
  ok (s.reach port.val (MOD_SVC_CMD c.val) (fun s =>
    s.svcIssue port.val c.val 1 (fun s => s.drainMeets c.val cut d)))

/-- DRAIN_END: at E the runs that DRAIN has cut end with VIOLATION (R420, R185). -/
def execDrainEnd (c : ClNo) (g : Nat) (s : State) : Host.Outcome State Fault Refusal :=
  match (s.cl c.val).svc with
  | some v =>
    if v.op = 1 ∧ v.cut ∧ v.eGrain = some g then
      ok ((s.runs.filter (fun r => r.hasCluster c.val && r.start.isSome)).foldl (fun t r =>
        match t.endsAt r g with
        | some code => t.finishRun r code g
        | none => t) s)
    else ok s
  | none => ok s

/-- A service command completes: BUSY clears, DONE or FAILED sets, CODE says how. -/
def State.svcEnd (s : State) (c : Nat) (good : Bool) (code : Nat) : State :=
  let a := MOD_SVC_STAT c
  let t := (s.setBit a MOD_SVC_STAT_BUSY false).setFld a MOD_SVC_STAT_CODE code
  (t.setBit a (if good then MOD_SVC_STAT_DONE else MOD_SVC_STAT_FAILED) true).updCl c (fun x => { x with svc := none })

/-- DRAINED: after E, once no engine of the cluster holds a run, DRAINED sets, BUSY clears and MOD_DRAIN_GT records E (R421). -/
def execDrained (c : ClNo) (s : State) : Host.Outcome State Fault Refusal :=
  match (s.cl c.val).svc with
  | some v =>
    let e := v.eGrain.getD v.dGrain
    if v.op = 1 ∧ v.waits = false ∧ (clEngines c.val).all (fun k => (s.eng k).run.isNone) = true ∧ e ≤ s.gt then
      let t := s.setPair (MOD_DRAIN_GT_LO c.val) (MOD_DRAIN_GT_HI c.val) (e % 2 ^ 64)
      ok ((t.setBit (MOD_SVC_STAT c.val) MOD_SVC_STAT_DRAINED true).svcEnd c.val true codeOk)
    else ok s
  | none => ok s

/-! The other commands. -/

/-- RELOAD begins (Table 15-4). -/
def execReload (port : PortNo) (c : ClNo) (s : State) : Host.Outcome State Fault Refusal :=
  ok (s.reach port.val (MOD_SVC_CMD c.val) (fun s =>
    s.svcIssue port.val c.val 2 (fun s => s.svcBegin c.val { op := 2 })))

/-- MEMTEST starts on a cluster's scratchpad (Table 15-4, Table 12-5). -/
def State.memtestStart (s : State) (c : Nat) : State :=
  ((s.setBit (MEM_CL_MEMTEST c) MEM_CL_MEMTEST_BUSY true).setFld (MEM_CL_MEMTEST c) MEM_CL_MEMTEST_BLOCKS 0).svcBegin c
    { op := 3 }

/-- MEMTEST begins. -/
def execMemtest (port : PortNo) (c : ClNo) (s : State) : Host.Outcome State Fault Refusal :=
  ok (s.reach port.val (MOD_SVC_CMD c.val) (fun s => s.svcIssue port.val c.val 3 (fun s => s.memtestStart c.val)))

/-- ACTIVATE begins (R414, Table 15-4). -/
def execActivate (port : PortNo) (c : ClNo) (s : State) : Host.Outcome State Fault Refusal :=
  ok (s.reach port.val (MOD_SVC_CMD c.val) (fun s =>
    s.svcIssue port.val c.val 4 (fun s => s.svcBegin c.val { op := 4 })))

/-- RECOVER begins at boundary r: LOWPWR, and the first self-test conversion, which waits for a sequence in progress (R423). -/
def State.recoverAt (s : State) (c resume r : Nat) : State :=
  let a := ADC_CTRL c
  let t := (s.at r).svcBegin c
    { op := 5, resume := resume, rGrain := r, oldLowPower := s.fld a ADC_CTRL_LOWPWR }
  (t.setBoth a (setF (t.reg a) ADC_CTRL_LOWPWR 1)).nextSelfTest c r

/-- RECOVER (R418, R423). -/
def execRecover (port : PortNo) (c : ClNo) (resume : BitVec 6) (b : Nat) (s : State) : Host.Outcome State Fault Refusal :=
  ok (s.reach port.val (MOD_SVC_CMD c.val) (fun s =>
    s.svcIssue port.val c.val 5 (fun s => s.recoverAt c.val resume.toNat b)))

/-- What a service command begins with; DRAIN and RECOVER at boundary b. -/
def State.svcAct (s : State) (c op : Nat) (value : Word) (b : Nat) : State :=
  match op with
  | 1 => s.drainMeets c (getF value MOD_SVC_CMD_CUT == 1) b
  | 3 => s.memtestStart c
  | 5 => s.recoverAt c (getF value MOD_SVC_CMD_RESUME) b
  | k => s.svcBegin c { op := k }

/-- An accepted DRAIN or RECOVER meets boundary b. -/
def State.svcWrite (s : State) (port c : Nat) (value : Word) (b : Nat) : State :=
  let op := getF value MOD_SVC_CMD_OP
  if getF value MOD_SVC_CMD_GO = 0 then s
  else if (s.cl c).svc.any (fun v => v.op == 0) then s.svcAct c op value b
  else s.svcIssue port c op (fun s => s.svcAct c op value b)

/-- An accepted DRAIN or RECOVER goes to the cluster timebase; the cluster is busy with it from here on (log entry 82). -/
def State.svcTravel (s : State) (port c op : Nat) (value : Word) : State :=
  ((s.svcBegin c { op := 0 }).setFld (MOD_SVC_STAT c) MOD_SVC_STAT_OP op).sendAct port (MOD_SVC_CMD c) value

/-- A partner's write of MOD_SVC_CMD: DRAIN and RECOVER, once accepted, take effect at a boundary (R419, R423); the others begin at
once. -/
def State.svcSend (s : State) (port c : Nat) (value : Word) : State :=
  let op := getF value MOD_SVC_CMD_OP
  if getF value MOD_SVC_CMD_GO = 1 ∧ (op = 1 ∨ op = 5) then s.svcIssue port c op (fun s => s.svcTravel port c op value)
  else s.svcWrite port c value s.gt

/-- SVC_OP_REFUSED: OP 0, 6 or 7, or a command that is not accepted (R418). -/
def execSvcOpRefused (port : PortNo) (c : ClNo) (value : Word) (s : State) : Host.Outcome State Fault Refusal :=
  ok (s.reach port.val (MOD_SVC_CMD c.val) (fun s =>
    if getF value MOD_SVC_CMD_GO = 1 ∧ s.svcAccepts c.val (getF value MOD_SVC_CMD_OP) = false then s.svcRefuse port.val c.val
    else s))

end Sys2Proof.Machine
end

