-- ==== Sys2Proof/Machine/Vyene.lean ====
section
/-! DEFINITION. Vyene links (R465-R467), package IDs (R468-R473), timing mastership (R474-R479), Dowel (R480-R482), the link term and
system conditions (R200, R483-R486). -/

namespace Sys2Proof.Machine

/-! Identities. -/

/-- The system tag: 0 for an untagged package. -/
def State.tag (s : State) : Nat := s.pair VYN_TAG_LO VYN_TAG_HI
/-- MASTER_ELIGIBLE. -/
def State.eligible (s : State) : Bool := s.bit VYN_ROLES VYN_ROLES_MASTER_ELIGIBLE
/-- ELECT_PRIORITY. -/
def State.priority (s : State) : Nat := s.fld VYN_ROLES VYN_ROLES_ELECT_PRIORITY
/-- IS_MASTER. -/
def State.isMaster (s : State) : Bool := s.bit VYN_SYS_STAT VYN_SYS_STAT_IS_MASTER
/-- The links that carry traffic, as a mask. -/
def State.linksUp (s : State) : Nat := maskOf ((List.range 8).filter (fun n => s.bit (VYN_LINK n) VYN_LINK_UP))

/-- What an IDENTITY message says of a package (R467), sent over a mask of links. -/
def State.sendIdentity (s : State) (links uid tag id : Nat) (el : Bool) (prio : Nat) : State :=
  if links = 0 then s else s.send (.vyene "IDENTITY" 16 [links, uid, tag, id, if el then 1 else 0, prio])

/-- The present packages (R471); PKG_COUNT follows. -/
def State.setPresent (s : State) (present reserved : Nat) : State :=
  let t := (s.setFld VYN_IDS VYN_IDS_PRESENT present).setFld VYN_IDS VYN_IDS_RESERVED reserved
  t.setFld VYN_SYS_STAT VYN_SYS_STAT_PKG_COUNT (bitsOf 16 present).length
/-- PRESENT. -/
def State.presentIds (s : State) : Nat := s.fld VYN_IDS VYN_IDS_PRESENT
/-- RESERVED. -/
def State.reservedIds (s : State) : Nat := s.fld VYN_IDS VYN_IDS_RESERVED

/-- ALIGNED clears and an alignment in progress ends (R482). -/
def State.unalign (s : State) : State :=
  (s.setBit VYN_SYS_STAT VYN_SYS_STAT_ALIGNED false).updHub (fun h => { h with aligning := false })

/-- What this package knows of a UID. -/
def State.knows (s : State) (uid : Nat) : Option Identity := s.vyn.known.find? (fun x => x.uid == uid)

/-- An identity is learned; a package of this system takes its reserved ID back (R467, R471). -/
def State.learn (s : State) (x : Identity) : State :=
  let t := s.updVyn (fun v => { v with known := v.known.filter (fun y => y.uid != x.uid) ++ [x] })
  if s.tag ≠ 0 ∧ x.tag = s.tag then
    t.setPresent (setNBit t.presentIds x.id.val true) (setNBit t.reservedIds x.id.val false)
  else t

/-- An identity is learned as the watchdog oscillator has counted w grains: from a new UID on the registrar waits anew (R468). -/
def State.learnAt (s : State) (x : Identity) (w : Nat) : State :=
  if (s.knows x.uid).isNone then (s.learn x).updVyn (fun v => { v with learnedAt := w }) else s.learn x

/-! Links. -/

/-- A link changes STATE, UP and LANES. -/
def State.setLink (s : State) (n state lanes : Nat) (up : Bool) : State :=
  ((s.setFld (VYN_LINK n) VYN_LINK_STATE state).setFld (VYN_LINK n) VYN_LINK_LANES lanes).setBit (VYN_LINK n) VYN_LINK_UP up

/-- The link to a package left without an ID is held untrained (R472). -/
def State.holdLink (s : State) (n : Nat) : State := s.setLink n 3 0 false

/-- A link is refused: SYSTEM_FULL in every event ring of this package, and a message that tells the others of the system (R472). -/
def State.refuseLink (s : State) (n : Nat) : State :=
  ((s.holdLink n).event codeSystemFull 7 n 0 0).send (.vyene "SYSTEM_FULL" 16 [n])

/-- A link that is up and leads to a package of another system carries no traffic from here on (R473). -/
def State.judgeLink (s : State) (n : Nat) (peer : Identity) : State :=
  if s.tag ≠ 0 ∧ peer.tag ≠ 0 ∧ s.tag ≠ peer.tag then s.setLink n 4 (s.fld (VYN_LINK n) VYN_LINK_LANES) false else s

/-- PEER_ID of the links that are up follows what is known of the packages at their far ends, and a link between two systems goes to
STATE 4 (R473, Table 18-2). -/
def State.judgeLinks (s : State) : State :=
  (s.vyn.peers.filter (fun p => s.bit (VYN_LINK p.1.val) VYN_LINK_UP)).foldl (fun t p => match t.knows p.2 with
    | some x => (t.setFld (VYN_LINK p.1.val) VYN_LINK_PEER_ID x.id.val).judgeLink p.1.val x
    | none => t) s

/-- This package's identity goes out over a mask of links (R467). -/
def State.sendOwn (s : State) (links : Nat) : State := s.sendIdentity links Config.uid.toNat s.tag s.pkgId s.eligible s.priority

/-- An identity is forwarded over a mask of links (R467). -/
def State.forwardIdentity (s : State) (links : Nat) (x : Identity) : State :=
  s.sendIdentity links x.uid x.tag x.id.val x.eligible x.priority

/-- A link trains as the watchdog oscillator has counted w grains: both ends exchange identities, each sends what it has learned before, and
foreign systems stay apart (R467, R473). -/
def State.trainLink (s : State) (link : LinkNo) (lanes : Nat) (peer : Identity) (peerLink w : Nat) : State :=
  let n := link.val
  let t := s.setLink n 2 lanes true
  let t := (t.setFld (VYN_LINK n) VYN_LINK_PEER_ID peer.id.val).setFld (VYN_LINK n) VYN_LINK_PEER_LINK peerLink
  let t := t.updVyn (fun v => { v with peers := v.peers.filter (fun x => x.1 != link) ++ [(link, peer.uid)] })
  let t := ((t.learnAt peer w).sendOwn (2 ^ n)).judgeLink n peer
  let others := s.vyn.known.filter (fun x => x.uid != peer.uid)
  let t := if t.bit (VYN_LINK n) VYN_LINK_UP then others.foldl (fun u x => u.forwardIdentity (2 ^ n) x) t else t
  t.forwardIdentity (setNBit t.linksUp n false) peer

/-- An identity that another package forwarded arrives over a trained link and is forwarded in turn when it is new (R467). -/
def State.hearIdentity (s : State) (n : Nat) (x : Identity) (w : Nat) : State :=
  if s.vyn.known.contains x then s
  else ((s.learnAt x w).judgeLinks).forwardIdentity (setNBit s.linksUp n false) x

/-- VYENE_LINK_TRAINED: an enabled link trains with the widest group of lanes that passes (R465-R467, R473); over a link that is up
it brings an identity forwarded by the neighbour (log entry 34). `w` is the count of the watchdog oscillator in nominal grains (R468). -/
def execVyeneLinkTrained (n : LinkNo) (lanes : Nat) (peer : Identity) (peerLink : LinkNo) (w : Nat) (s : State) :
    Host.Outcome State Fault Refusal :=
  let st := s.fld (VYN_LINK n.val) VYN_LINK_STATE
  if nbit (s.fld VYN_ROLES VYN_ROLES_LINK_EN) n.val = false then ok s
  else if st = 1 ∧ (lanes = 12 ∨ lanes = 8 ∨ lanes = 4) then ok (s.trainLink n lanes peer peerLink.val w)
  else if st = 2 then ok (s.hearIdentity n.val peer w)
  else ok s

/-- Writes that wait for a line whose home is no longer present end in a bus error, and so do requests of packages that are gone (R487,
R492). -/
def State.dropWaiting (s : State) : State :=
  { s with
    flowStores := s.flowStores.filter (fun x => s.present (lineHome x.line))
    homeWaits := s.homeWaits.filter (fun x => s.present x.requester) }

/-- A package left alone in its sync domain is aligned (R482). -/
def State.aloneAligned (s : State) : State :=
  if s.tag ≠ 0 ∧ s.domainOthers = 0 then
    (s.setBit VYN_SYS_STAT VYN_SYS_STAT_ALIGNED true).updHub (fun h => { h with aligning := false })
  else s

/-- The packages with some UIDs have become unreachable: their IDs are reserved (R471). -/
def State.loseUids (s : State) (lost : List Nat) : State :=
  let gone := ((s.vyn.known.filter (fun x => lost.contains x.uid && x.tag == s.tag && s.tag != 0)).map (·.id.val)).filter (fun k =>
    s.present k && k != s.pkgId)
  let t := s.updVyn (fun v => { v with known := v.known.filter (fun x => !lost.contains x.uid) })
  ((t.setPresent (gone.foldl (fun m k => setNBit m k false) s.presentIds)
    (gone.foldl (fun m k => setNBit m k true) s.reservedIds)).dropWaiting).aloneAligned

/-- VYENE_LINK_DROP: a trained link drops and trains again; with no link, one between two other packages has dropped. The packages with the
UIDs `lost` become unreachable by it: they count no longer, and their IDs are reserved (R466, R468, R471). -/
def execVyeneLinkDrop (n : Option LinkNo) (lost : List Nat) (s : State) : Host.Outcome State Fault Refusal :=
  match n with
  | none => ok (s.loseUids lost)
  | some n =>
    let st := s.fld (VYN_LINK n.val) VYN_LINK_STATE
    if st = 2 ∨ st = 4 then
      let t := (s.setLink n.val 1 0 false).countSat (VYN_LINK_ERR n.val) VYN_LINK_ERR_DOWN 1
      let t := t.updVyn (fun v => { v with peers := v.peers.filter (fun x => x.1 != n) })
      ok (t.loseUids lost)
    else ok s

/-- FLIT_RESEND: a flit received over a link fails its CRC and is sent again (R465, Table 18-2). -/
def execFlitResend (n : LinkNo) (s : State) : Host.Outcome State Fault Refusal :=
  if s.bit (VYN_LINK n.val) VYN_LINK_UP then ok (s.countSat (VYN_LINK_ERR n.val) VYN_LINK_ERR_RETRY 1) else ok s

/-! Package IDs. -/

/-- Numbers in rising order, each once. -/
def insertNat (x : Nat) : List Nat → List Nat
  | [] => [x]
  | y :: ys => if x < y then x :: y :: ys else if x = y then y :: ys else y :: insertNat x ys

/-- A list of numbers sorted. -/
def sortNats (l : List Nat) : List Nat := l.foldl (fun m x => insertNat x m) []

/-- The IDs that an assignment names: entry k is the UID of the package with ID k, 0 for none. -/
def assigned (uids : List Nat) : Nat := maskOf ((List.range 16).filter (fun k => uids.getD k 0 != 0))

/-- What a package learns of the others from an assignment. -/
def relabel (tag : Nat) (uids : List Nat) (x : Identity) : Identity :=
  match (List.range 16).find? (fun k => uids.getD k 0 == x.uid) with
  | some k => { x with tag := tag, id := Fin.ofNat 16 k }
  | none => x

/-- The links to untagged packages that an assignment leaves out are refused (R472). -/
def State.refuseLeftOut (s : State) (uids : List Nat) : State :=
  (s.vyn.peers.filter (fun p => !uids.contains p.2 && s.vyn.known.any (fun x => x.uid == p.2 && x.tag == 0))).foldl
    (fun t p => t.refuseLink p.1.val) s

/-- What is known of the packages that an assignment names changes with it, and so do the links to them (R468, R473). -/
def State.relabelAll (s : State) (tag : Nat) (uids : List Nat) : State :=
  (s.updVyn (fun v => { v with known := v.known.map (relabel tag uids) })).judgeLinks

/-- The assignment of a system goes out to every package of it, with the reserved IDs (R468, R471). -/
def State.sendAssign (s : State) (uids : List Nat) (declared : Bool) : State :=
  s.send (.vyene "ASSIGN" 16 (s.tag :: (if declared then 1 else 0) :: s.reservedIds :: uids))

/-- A package takes its ID in a system (R468, R482): it is in a sync domain to be, unaligned, and has no master until one is known. A
declaration leads to an election, a join does not (R475). -/
def State.enterSystem (s : State) (tag id : Nat) (uids : List Nat) (reserved : Nat) (declared : Bool) : State :=
  let t := (s.refuseLeftOut uids).setPair VYN_TAG_LO VYN_TAG_HI tag
  let t := t.setFld HUB_SYS_IDENT SYS_IDENT_PKG_ID id
  let t := t.setPresent (assigned uids) reserved
  let t := (t.updVyn (fun v => { v with electing := declared, joined := true })).relabelAll tag uids
  ((t.setBit VYN_SYS_STAT VYN_SYS_STAT_IS_MASTER false).unalign).sendAssign uids declared

/-- SYSTEM_DECLARE: the registrar of the untagged packages declares the system once it has learned no new UID for 1,048,576 gr, counted on
its watchdog oscillator, whose count in nominal grains is `w` (R468, R472). -/
def execSystemDeclare (w : Nat) (s : State) : Host.Outcome State Fault Refusal :=
  let own := Config.uid.toNat
  let others := (s.vyn.known.filter (fun x => x.tag == 0)).map (·.uid)
  if s.tag = 0 ∧ others ≠ [] ∧ others.all (fun u => decide (own < u)) ∧ s.vyn.learnedAt + 1048576 ≤ w then
    ok (s.enterSystem own 0 ((sortNats (own :: others)).take 16) 0 true)
  else ok s

/-- ID_ASSIGNMENT: an assignment of the packages of a system reaches this package: an untagged one loads its ID or is left out and
held, a member learns the present packages and the reserved IDs (R468, R470-R472). -/
def execIdAssignment (tag : Nat) (uids : List Nat) (reserved : BitVec 16) (declared : Bool) (s : State) :
    Host.Outcome State Fault Refusal :=
  if tag = 0 then ok s
  else if s.tag = tag then
    let m := s.presentIds ||| assigned uids
    ok ((s.setPresent m (maskOf ((bitsOf 16 reserved.toNat).filter (fun k => !nbit m k)))).relabelAll tag uids)
  else if s.tag = 0 then
    match (List.range 16).find? (fun k => uids.getD k 0 == Config.uid.toNat) with
    | some id => ok (s.enterSystem tag id (uids.take 16) reserved.toNat declared)
    | none => ok (((s.vyn.peers.filter (fun p => uids.contains p.2)).foldl (fun t p => t.holdLink p.1.val) s).relabelAll tag uids)
  else ok s

/-- The lowest ID that is neither present nor reserved (R470). -/
def State.freeId (s : State) : Option Nat := (List.range 16).find? (fun k => !nbit (s.presentIds ||| s.reservedIds) k)

/-- The UIDs of the system by ID, as this package knows them. -/
def State.uidsById (s : State) : List Nat :=
  (List.range 16).map (fun k => if k = s.pkgId then Config.uid.toNat
    else if s.present k then (match s.vyn.known.find? (fun x => x.tag == s.tag && x.id.val == k) with
      | some x => x.uid
      | none => 0) else 0)

/-- Whether a UID holds an ID of this system already (R470). -/
def State.hasId (s : State) (uid : Nat) : Bool := (s.knows uid).any (fun x => x.tag == s.tag && s.present x.id.val)

/-- The master gives a joiner the lowest free ID, or tells again the one that it holds (R470). -/
def State.admitPackage (s : State) (joiner : Identity) (k : Nat) : State :=
  let t := if s.hasId joiner.uid then s else (s.learn { joiner with tag := s.tag, id := Fin.ofNat 16 k }).judgeLinks
  t.sendAssign t.uidsById false

/-- SYSTEM_JOIN: an untagged package asks to join over a link: the master gives it an ID, another package passes the request on, and
with no ID left the package at the far end of its link refuses it. With `refused`, link n brings the news that another package of the
system has refused its link, which goes to the event rings here too (R470, R472). -/
def execSystemJoin (n : LinkNo) (joiner : Identity) (refused : Option LinkNo) (s : State) : Host.Outcome State Fault Refusal :=
  if s.tag = 0 ∨ s.bit (VYN_LINK n.val) VYN_LINK_UP = false then ok s
  else match refused with
    | some m => ok (s.event codeSystemFull 7 m.val 0 0)
    | none =>
      if joiner.tag ≠ 0 then ok s
      else match s.freeId, s.hasId joiner.uid with
        | none, false => ok (if s.vyn.peers.contains (n, joiner.uid) then s.refuseLink n.val else s)
        | k, _ =>
          if s.isMaster then ok (s.admitPackage joiner (k.getD 0))
          else ok (s.send (.vyene "JOIN" (s.fld VYN_SYS_STAT VYN_SYS_STAT_MASTER_ID)
            [joiner.uid, if joiner.eligible then 1 else 0, joiner.priority]))

/-- A RELEASE command: a reserved ID is free again, as every package of the system learns; a present one is ignored and logged (R471, Table
18-3). -/
def State.releaseId (s : State) (port id : Nat) : State :=
  if s.present id then s.violation 0x01 port 0 id VYN_CMD
  else
    let t := s.setFld VYN_IDS VYN_IDS_RESERVED (setNBit s.reservedIds id false)
    if s.tag = 0 then t else t.sendAssign t.uidsById false

/-- RELEASE (R471). -/
def execRelease (port : PortNo) (id : PkgNo) (s : State) : Host.Outcome State Fault Refusal :=
  ok (s.reach port.val VYN_CMD (fun s => s.releaseId port.val id.val))

/-! Timing mastership. -/

/-- An ELECT command: CONFLICT clears and an election is to be held (R475, R478). -/
def State.electNow (s : State) : State :=
  let t := s.setBit VYN_SYS_STAT VYN_SYS_STAT_CONFLICT false
  (t.updVyn (fun v => { v with electing := true })).send (.vyene "ELECT" 16 [])

/-- ELECT (R475, R478). -/
def execElect (port : PortNo) (s : State) : Host.Outcome State Fault Refusal :=
  ok (s.reach port.val VYN_CMD State.electNow)

/-- The candidates of an election as (ID, priority): the reachable eligible packages of the system (R475). -/
def State.candidates (s : State) : List (Nat × Nat) :=
  (if s.eligible then [(s.pkgId, s.priority)] else []) ++
  ((s.vyn.known.filter (fun x => x.tag == s.tag && s.present x.id.val && x.eligible)).map (fun x => (x.id.val, x.priority)))

/-- The better of two candidates: the higher priority, then the lower ID. -/
def better (x y : Nat × Nat) : Nat × Nat := if x.2 < y.2 ∨ (x.2 = y.2 ∧ y.1 < x.1) then y else x

/-- The winner of an election. -/
def elected : List (Nat × Nat) → Option Nat
  | [] => none
  | x :: xs => some (xs.foldl better x).1

/-- This package follows a master with an epoch; a new master leaves it unaligned (R475, R476, R482). -/
def State.follow (s : State) (m : Nat) (epoch : Word) : State :=
  let a := VYN_SYS_STAT
  let same := !s.bit a VYN_SYS_STAT_NOMASTER && decide (s.fld a VYN_SYS_STAT_MASTER_ID = m)
  let t := (s.setReg VYN_EPOCH epoch).setFld a VYN_SYS_STAT_MASTER_ID m
  let t := (t.setBit a VYN_SYS_STAT_NOMASTER false).setBit a VYN_SYS_STAT_IS_MASTER (m == s.pkgId)
  let t := t.updVyn (fun v => { v with electing := false, lastLease := t.gt })
  if m = s.pkgId then t.alignDone else if same then t else t.unalign

/-- No reachable package is eligible: every package is a sync domain of its own (R475). -/
def State.noMaster (s : State) : State :=
  let a := VYN_SYS_STAT
  let t := ((s.setBit a VYN_SYS_STAT_NOMASTER true).setBit a VYN_SYS_STAT_IS_MASTER false).setReg VYN_L 0
  (t.updVyn (fun v => { v with electing := false })).alignDone

/-- Whether epoch a is newer than b (R475). -/
def newer (a b : Word) : Bool := a - b != 0 && decide ((a - b).toNat < 2 ^ 31)

/-- The newest of an epoch and others (R475). -/
def newestEpoch (a : Word) (l : List Word) : Word := l.foldl (fun m b => if newer b m then b else m) a

/-- ELECTION: the election that this package started, or in which it takes part, is held; `others` are the epochs known to the other
packages that take part (R475). It ends a conflict (R478). A system of one stays its own master (R469). -/
def execElection (others : List (BitVec 32)) (s : State) : Host.Outcome State Fault Refusal :=
  if s.vyn.electing || !others.isEmpty then
    if s.tag = 0 then ok (s.updVyn (fun v => { v with electing := false })).alignDone
    else
      let t := s.setBit VYN_SYS_STAT VYN_SYS_STAT_CONFLICT false
      match elected t.candidates with
      | some m => ok (t.follow m (newestEpoch (t.reg VYN_EPOCH) others + 1))
      | none => ok t.noMaster
  else ok s

/-- LEASE: at a multiple of 2^24 gr the master renews its lease over every link (R476). -/
def execLease (g : Nat) (s : State) : Host.Outcome State Fault Refusal :=
  if s.isMaster ∧ g % 2 ^ 24 = 0 then
    ok ((s.at g).send (.vyene "LEASE" 16 [(s.reg VYN_EPOCH).toNat, s.pkgId, g]))
  else ok s

/-- An epoch conflict is detected at grain c: CONFLICT is forwarded, a claimant steps down, ALIGNED clears, and no election is held but
one that a partner starts (R478, R482). -/
def State.conflictNow (s : State) (c : Nat) (claims : Bool) : State :=
  if s.bit VYN_SYS_STAT VYN_SYS_STAT_CONFLICT then s
  else
    let t := (s.setBit VYN_SYS_STAT VYN_SYS_STAT_CONFLICT true).setBit VYN_SYS_STAT VYN_SYS_STAT_IS_MASTER false
    let t := (t.unalign.updHub (fun h => { h with conflictAt := some c })).send (.vyene "CONFLICT" 16 [])
    let t := t.updVyn (fun v => { v with electing := false })
    if claims then t.event codeEpochConflict 7 s.pkgId (s.reg VYN_EPOCH).toNat 0 else t

/-- LEASE_RECEIVE: a newer epoch is adopted, the lease of the present master is renewed, and an equal epoch of another package is a
conflict (R476-R478). A newer epoch is adopted while CONFLICT reads 1 too (log entry 109). -/
def execLeaseReceive (n : LinkNo) (epoch : BitVec 32) (master : PkgNo) (_gt : Nat) (s : State) :
    Host.Outcome State Fault Refusal :=
  let a := VYN_SYS_STAT
  if s.bit (VYN_LINK n.val) VYN_LINK_UP = false then ok s
  else if newer epoch (s.reg VYN_EPOCH) then ok (s.follow master.val epoch)
  else if epoch ≠ s.reg VYN_EPOCH ∨ s.bit a VYN_SYS_STAT_NOMASTER ∨ s.bit a VYN_SYS_STAT_CONFLICT then ok s
  else if master.val = s.fld a VYN_SYS_STAT_MASTER_ID then ok (s.updVyn (fun v => { v with lastLease := s.gt }))
  else ok (s.conflictNow s.gt s.isMaster)

/-- LEASE_LAPSE: no LEASE for 3 × 2^24 gr at grain g: an election among the reachable packages is to be held (R477). -/
def execLeaseLapse (g : Nat) (s : State) : Host.Outcome State Fault Refusal :=
  let a := VYN_SYS_STAT
  if s.tag ≠ 0 ∧ s.isMaster = false ∧ s.bit a VYN_SYS_STAT_NOMASTER = false ∧ s.bit a VYN_SYS_STAT_CONFLICT = false ∧
      s.vyn.lastLease + 3 * 2 ^ 24 ≤ g then
    ok ((((s.at g).updVyn (fun v => { v with electing := true }))).send (.vyene "ELECT" 16 []))
  else ok s

/-- CONFLICT: a CONFLICT message that names a claimant reaches this package at grain g (R478). -/
def execConflict (g : Nat) (claimant : PkgNo) (s : State) : Host.Outcome State Fault Refusal :=
  ok ((s.at g).conflictNow g (s.isMaster || s.pkgId == claimant.val))

/-- CONFLICT_SAFE_STATE: at exactly C + 4,096 gr every pin is in the safe state and every run of the package ends with EPOCH_CONFLICT
(R478). When an election and alignment have been completed before it, the pins leave the safe state at the next boundary. -/
def execConflictSafeState (g : Nat) (s : State) : Host.Outcome State Fault Refusal :=
  match s.hub.conflictAt with
  | some c =>
    if g = c + 4096 then
      let t := s.at g
      let past := !t.bit VYN_SYS_STAT VYN_SYS_STAT_CONFLICT && t.bit VYN_SYS_STAT VYN_SYS_STAT_ALIGNED
      let t := t.updHub (fun h => { h with conflictSafe := !past, conflictAt := none })
      ok ((t.holdAll).endRunsIf codeEpochConflict (some g) (fun _ => true))
    else ok s
  | none => ok s

/-! Dowel. -/

/-- A DOWEL command: in a domain of two or more packages ALIGNED clears (R482). -/
def State.dowelNow (s : State) : State := if s.domainOthers = 0 then s else s.unalign

/-- DOWEL: a partner's command (R482), or, with no port, the request of a timing master that has switched TSEL (R479). -/
def execDowel (port : Option PortNo) (s : State) : Host.Outcome State Fault Refusal :=
  match port with
  | some p => ok (s.reach p.val VYN_CMD State.dowelNow)
  | none => ok (if s.isMaster then s else s.dowelNow)

/-- The sum of (t2 - t1) - (t4 - t3) over pairs, in 1/16 kf. -/
def thetaSum (l : List StampPair) : Int := l.foldl (fun m p => m + ((p.t2 - p.t1) - (p.t4 - p.t3))) 0
/-- The sum of (t2 - t1) + (t4 - t3) over pairs, in 1/16 kf. -/
def deltaSum (l : List StampPair) : Int := l.foldl (fun m p => m + ((p.t2 - p.t1) + (p.t4 - p.t3))) 0
/-- Half the average over 16 pairs of a sum in 1/16 kf, truncated to whole kerfs (R480). -/
def halfAverage (sum : Int) : Int := sum.tdiv (2 * 16 * 16)

/-- An offset below 1 kf completes the alignment; another one is corrected, to be measured again: its whole grains are subtracted from GT
and the remaining kerfs are slewed (R480). -/
def State.alignBy (s : State) (theta : Int) : State :=
  if theta = 0 then s.alignDone
  else
  let t := s.loadGt (((s.gt64 : Int) - theta.tdiv 64) % 2 ^ 64).toNat
  let r := theta.tmod 64
  if r = 0 then t else t.updHub (fun h => { h with phaseErr := r, aligning := true, slewAt := t.gt + 64 })

/-- The package at the far end of a link. -/
def State.peerOf (s : State) (n : Nat) : Nat := s.fld (VYN_LINK n) VYN_LINK_PEER_ID

/-- Whether a link leads to this package's parent, which has aligned: the neighbour with the fewest hops to the master, the lower ID among
equals. `far` tells by link what the neighbours say of themselves (R480). -/
def State.isParent (s : State) (n : Nat) (far : List Neighbour) : Bool :=
  let at_ (m : Nat) : Neighbour := far.getD m { hops := 16, aligned := false }
  (at_ n).aligned && (bitsOf 8 s.linksUp).all (fun m =>
    decide ((at_ n).hops < (at_ m).hops) || ((at_ n).hops == (at_ m).hops && decide (s.peerOf n ≤ s.peerOf m)))

/-- Whether a run of the package is in progress: one whose start is still held is not (R480). -/
def State.running (s : State) : Bool := s.runs.any (fun r => r.start.isSome)

/-- ALIGNMENT: 16 timestamp pairs exchanged over a link: with the parent, at tenon boundary g with no run in progress, or, by an aligned
package, with a package that aligns to it, which leaves only the link's δ here. A master that has lost ALIGNED has no parent: it is
aligned again at such a boundary (R480, log entry 14). -/
def execAlignment (n : LinkNo) (g : Nat) (pairs : List StampPair) (far : List Neighbour) (s : State) :
    Host.Outcome State Fault Refusal :=
  let theta := halfAverage (thetaSum pairs)
  let delta := halfAverage (deltaSum pairs)
  if pairs.length ≠ 16 ∨ s.bit (VYN_LINK n.val) VYN_LINK_UP = false ∨ s.domainOthers = 0 then ok s
  else if s.bit VYN_SYS_STAT VYN_SYS_STAT_ALIGNED then ok (s.setReg (VYN_LINK_DELAY n.val) (BitVec.ofInt 32 delta))
  else if g % 64 ≠ 0 ∨ s.running then ok s
  else if s.isMaster then ok (s.at g).alignDone
  else if s.isParent n.val far ∧ s.hub.aligning = false then
    let l := VYN_LINK n.val
    let t := ((s.at g).setReg VYN_OFFSET (BitVec.ofInt 32 theta)).setReg (VYN_LINK_DELAY n.val) (BitVec.ofInt 32 delta)
    let t := t.send (.vyene "DELAY" (s.fld l VYN_LINK_PEER_ID) [s.fld l VYN_LINK_PEER_LINK, delta.toNat])
    ok (t.alignBy theta)
  else ok s

/-! The link term and system conditions. -/

/-- The package at the other end of a link. -/
def linkBeyond (x : PkgLink) (p : Nat) : Option Nat :=
  if x.a.val = p then some x.b.val else if x.b.val = p then some x.a.val else none

/-- The packages within k hops of a package. -/
def within (ls : List PkgLink) (p : Nat) : Nat → List Nat
  | 0 => [p]
  | k + 1 =>
    let near := within ls p k
    (near ++ near.flatMap (fun q => ls.filterMap (fun x => linkBeyond x q))).eraseDups

/-- The fewest hops between two packages. -/
def hopsBetween (ls : List PkgLink) (p q : Nat) : Option Nat := (List.range 16).find? (fun k => (within ls p k).contains q)

/-- The cost of a link in grains: its δ, rounded up to whole grains, and 8,192 (R483). -/
def linkCost (x : PkgLink) : Nat := (x.delta + 63) / 64 + 8192

/-- The largest cost of a path of k hops from p to q on which every package lies at its fewest hops from p (R483). Among paths of equally few
hops the costliest counts (log entry 146). -/
def pathCost (ls : List PkgLink) (p : Nat) : Nat → Nat → Nat
  | 0, _ => 0
  | k + 1, q =>
    (ls.filterMap (fun x => (linkBeyond x q).bind (fun m =>
      if hopsBetween ls p m = some k then some (pathCost ls p k m + linkCost x) else none))).foldl max 0

/-- The link term: the largest cost of any ordered pair of packages along its path of fewest hops (R483). -/
def linkTerm (ls : List PkgLink) : Nat :=
  ((List.range 16).flatMap (fun p => (List.range 16).map (fun q =>
    match hopsBetween ls p q with
    | some k => pathCost ls p k q
    | none => 0))).foldl max 0

/-- Whether a list of links is that of the domain as this package sees it: its own links with their δ, and a way to every package (R483). -/
def State.knowsLinks (s : State) (ls : List PkgLink) : Bool :=
  (bitsOf 8 s.linksUp).all (fun n => ls.any (fun x =>
    linkBeyond x s.pkgId == some (s.peerOf n) && x.delta == (s.reg (VYN_LINK_DELAY n)).toNat)) &&
  (bitsOf 16 s.domainOthers).all (fun q => (hopsBetween ls s.pkgId q).isSome)

/-- L_ADOPT: the link term of the domain's links is adopted at a grain at which no run is in progress; clusters report what they withheld
(R483, R484). -/
def execLAdopt (g : Nat) (links : List PkgLink) (s : State) : Host.Outcome State Fault Refusal :=
  if s.running = false ∧ s.domainOthers ≠ 0 ∧ s.knowsLinks links then
    let t := (s.at g).setReg VYN_L (BitVec.ofNat 32 (linkTerm links))
    ok ((List.range 64).foldl State.reportFill (t.updVyn (fun v => { v with joined := false, links := links })))
  else ok s

/-- The neighbours to which this package forwards what package src sends: those one hop farther from it whose way of fewest hops leads
through here, and through no neighbour with a lower ID (R483, log entry 146). -/
def State.forwardsTo (s : State) (src : Nat) : List Nat :=
  let ls := s.vyn.links
  (List.range 16).filter (fun q => match hopsBetween ls src q with
    | some (k + 1) => (List.range 16).find? (fun p => hopsBetween ls src p == some k && ls.any (fun x => linkBeyond x p == some q)) == some s.pkgId
    | _ => false)

/-- A system condition message of another package goes on along its paths of fewest hops (R483). -/
def State.forwardCond (s : State) (src : Nat) (name : String) (l : List Nat) : State :=
  if src = s.pkgId then s else (s.forwardsTo src).foldl (fun t q => t.send (.vyene name q l)) s

/-- The change of a system flag told by another package at grain g: it takes effect at its grain, or, late, at the next boundary
(R485). -/
def State.flagMessage (s : State) (src f : Nat) (set : Bool) (due g : Nat) : State :=
  let rest (d : Nat) := s.sysFlagDue.filter (fun x => !(x.1 == f && x.2.1 == d && x.2.2.2 == src))
  if g ≤ due then { s with sysFlagDue := rest due ++ [(f, due, set, src)] }
  else
    let b := boundaryAfter g
    { s with sysFlagDue := rest b ++ [(f, b, set, src)], lateFlags := s.lateFlags ++ [(f, due, b)] }

/-- The contribution of a package to the FAIL_SYS branch that an engine decided at grain sGrain (R485). -/
def State.failMessage (s : State) (pkg e : Nat) (failed : Bool) (sGrain : Nat) : State :=
  match (s.eng e).pend with
  | some p =>
    if p.isWait = false ∧ p.cond = 4 ∧ p.s = sGrain then
      s.updEng e (fun x => { x with
        pend := some { p with heard := setNBit p.heard pkg true, coll := { p.coll with sys := p.coll.sys || failed } } })
    else s
  | none => s

/-- SYSTEM_CONDITION_MESSAGE: a message arrives at grain g, acts here and goes on to the packages behind (R483, R485). In a sync domain of
one package it has no effect (R475). -/
def execSystemConditionMessage (m : SysMessage) (g : Nat) (s : State) : Host.Outcome State Fault Refusal :=
  if s.domainOthers = 0 then ok s
  else match m with
  | .flag pkg src f set sGrain =>
    ok (((s.at g).flagMessage (srcPackage pkg.val src) f.val set (sGrain + s.latency 3) g).forwardCond pkg.val "FLAG"
      [f.val, if set then 1 else 0, sGrain, src, pkg.val])
  | .failSys pkg e failed sGrain =>
    ok (((s.at g).failMessage pkg.val e.val failed sGrain).forwardCond pkg.val "FAIL_SYS"
      [e.val, if failed then 1 else 0, sGrain, pkg.val])

/-- Whether an engine of a run checked a system flag at or after a grain. -/
def State.checkedSince (s : State) (r : Run) (f t : Nat) : Bool :=
  r.engines.any (fun e => decide (t + 1 ≤ tget (fun _ => 0) (s.eng e).sysChecks f))

/-- A late flag change at boundary b ends the runs that checked the flag since its take-effect grain t with DATA_LOST (R485). -/
def State.lateFlag (s : State) (f t b : Nat) : State :=
  (s.runs.filter (fun r => r.start.isSome && s.checkedSince r f t)).foldl (fun u r =>
    (u.endRun r.lowest codeDataLost (some (b - 1))).event codeDataLost 2 r.lowest ((u.eng r.lowest).vaddrAt b) b) s

/-- SYSTEM_FLAG_TAKE_EFFECT: the changes of a system flag that are due at grain g take effect; a set wins over a clear (R200, R485). -/
def execSystemFlagTakeEffect (f : Fin 64) (g : Nat) (s : State) : Host.Outcome State Fault Refusal :=
  let due := s.sysFlagDue.filter (fun x => x.1 == f.val && x.2.1 == g)
  if due.isEmpty then ok s
  else
    let late := s.lateFlags.filter (fun x => x.1 == f.val && x.2.2 == g)
    let t := s.at g
    let t := { t with
      sysFlagDue := t.sysFlagDue.filter (fun x => !(x.1 == f.val && x.2.1 == g))
      lateFlags := t.lateFlags.filter (fun x => !(x.1 == f.val && x.2.2 == g)) }
    let t := late.foldl (fun u x => u.lateFlag f.val x.2.1 g) t
    ok (if due.any (·.2.2.1) then t.flagSetAt (3000 + f.val) g srcSystem else t.flagClrAt (3000 + f.val) g srcSystem)

/-- SYNC_OUT_PULSE (R486). -/
def execSyncOutPulse (g : Nat) (s : State) : Host.Outcome State Fault Refusal :=
  if g % 2 ^ 24 = 0 then ok ((s.at g).send (.syncOut g)) else ok s

/-- SYNC_IN_EDGE: the grain of a rising edge is stamped (R486). -/
def execSyncInEdge (g : Nat) (s : State) : Host.Outcome State Fault Refusal :=
  ok ((s.at g).setPair VYN_SYNC_GT_LO VYN_SYNC_GT_HI (g % 2 ^ 64))

/-- A partner's write of VYN_CMD: each bit of it acts (Table 18-3). -/
def State.vynCommand (s : State) (port : Nat) (value : Word) : State :=
  let t := if getF value VYN_CMD_ELECT = 1 then s.electNow else s
  let t := if getF value VYN_CMD_DOWEL = 1 then t.dowelNow else t
  if getF value VYN_CMD_RELEASE = 1 then t.releaseId port (getF value VYN_CMD_ID) else t

end Sys2Proof.Machine
end

