-- ==== Sys2Proof/Machine/Coherence.lean ====
section
/-! DEFINITION. Coherence of the shared flow space (R487-R492): the requests of caches, the evictions, the snoops of the home and
their answers. Each command is seen from the package that it reaches: the requester or target itself, or the home. -/

namespace Sys2Proof.Machine

/-- What error correction finds as the home's copy of a line, or this package's own copy, is read for a request (R334, R335). -/
def State.meetLine (s : State) (l : Nat) (finds : Finds) : State :=
  let t := if s.isHome l then s.eccRead (homeAddr l) finds 1 else s
  if (t.cline l).st = .i then t else t.eccRead (lineAddr l) finds 1

/-- READ_S: this package's cache misses for a read, and `reply` is what a remote home returns; or the request of another
package reaches its home here (R488). -/
def execReadS (requester : PkgNo) (line : Nat) (reply : Payload) (finds : Finds) (s : State) : Host.Outcome State Fault Refusal :=
  if s.isHome line then ok ((s.meetLine line finds).homeRequest requester.val line .readS)
  else if requester.val = s.pkgId ∧ s.present (lineHome line) ∧ wholeLine reply = true ∧ (s.cline line).st = .i then
    ok (s.fillLine line .s reply)
  else ok s

/-- READ_X: as READ_S, for a write; the writes that wait for the line act (R488). -/
def execReadX (requester : PkgNo) (line : Nat) (reply : Payload) (finds : Finds) (s : State) : Host.Outcome State Fault Refusal :=
  if s.isHome line then ok ((s.meetLine line finds).homeRequest requester.val line .readX)
  else if requester.val = s.pkgId ∧ s.present (lineHome line) ∧ wholeLine reply = true ∧ (s.cline line).st = .i then
    ok ((s.fillLine line .e reply).storesGo line)
  else ok s

/-- UPGRADE: this package's cache in S is granted the line by a remote home, where the writes that wait for it act; or the request of a
sharer reaches its home here (R488). -/
def execUpgrade (requester : PkgNo) (line : Nat) (finds : Finds) (s : State) : Host.Outcome State Fault Refusal :=
  if s.isHome line then ok ((s.meetLine line finds).homeRequest requester.val line .upgrade)
  else if requester.val = s.pkgId ∧ s.present (lineHome line) ∧ (s.cline line).st = .s then
    ok (((s.meetLine line finds).setCline line { s.cline line with st := .e }).storesGo line)
  else ok s

/-! Evictions. -/

/-- The request that waited for a snoop is granted, `mask` being the sharers that stay; those that wait for the line are served then (R489,
R490). -/
def State.completeSnoop (s : State) (l mask : Nat) (x : HomeBusy) : State :=
  (if x.exclusive then s.grantExclusive l x.requester x.upgrade else s.grantShared l x.requester mask).serveWaiting l
    s.homeWaits.length

/-- The home takes an eviction of the owner: memory as given, entry I; a snoop that waits for the owner is completed; an eviction of a
package that is no longer the owner is discarded (R488, R490). -/
def State.homePut (s : State) (sender l : Nat) (data : Option Payload) : State :=
  if s.dirOf l = .x sender then
    let t := match data with
      | some d => s.setHomeData l d
      | none => s
    match s.busyOf l with
    | some x => t.completeSnoop l 0 x
    | none => t.setDir l .i
  else s

/-- PUT_M: this package evicts an M line, or the eviction of another package reaches its home here (R488, R490). -/
def execPutM (sender : PkgNo) (line : Nat) (data : Payload) (finds : Finds) (s : State) : Host.Outcome State Fault Refusal :=
  if sender.val = s.pkgId then ok (if (s.cline line).st = .m then (s.meetLine line finds).evictOwn line true else s)
  else if s.isHome line then ok (s.homePut sender.val line (some data))
  else ok s

/-- PUT_E: this package evicts an E line, or the eviction of another package reaches its home here (R488, R490). -/
def execPutE (sender : PkgNo) (line : Nat) (finds : Finds) (s : State) : Host.Outcome State Fault Refusal :=
  if sender.val = s.pkgId then ok (if (s.cline line).st = .e then s.evictOwn line false else s)
  else if s.isHome line then ok ((s.meetLine line finds).homePut sender.val line none)
  else ok s

/-! Snoops. -/

/-- This package answers a snoop of a remote home: with its data, or with the PUT in flight, or ACK for a line that it does not hold
(R488, R490). A shared snoop leaves the line in S. -/
def State.answerSnoop (s : State) (l : Nat) (shared : Bool) : State :=
  let x := s.cline l
  match x.st, x.put with
  | .i, some true => s.send (.coherence "WRITEBACK_IN_FLIGHT" (lineHome l) l noData)
  | .i, some false => s.send (.coherence "CLEAN_EVICTION_IN_FLIGHT" (lineHome l) l noData)
  | .i, none => s.send (.coherence "ACK" (lineHome l) l noData)
  | _, _ =>
    (if shared then s.setCline l { x with st := .s } else s.dropLine l {}).send (.coherence "DATA" (lineHome l) l (s.lineData l))

/-- The answer of an owner completes the snoop of a line at its home (R490). -/
def State.ownerAnswers (s : State) (target l : Nat) (answer : SnoopAnswer) (x : HomeBusy) : State :=
  match answer with
  | .data d => (s.setHomeData l d).completeSnoop l (2 ^ target) x
  | .writebackInFlight d => (s.setHomeData l d).completeSnoop l 0 x
  | .cleanEviction => s.completeSnoop l 0 x
  | .ack => s.completeSnoop l 0 x

/-- A snoop of the owner: this package answers as the target, or its home learns the answer of the target. -/
def State.snoopOwner (s : State) (target l : Nat) (shared : Bool) (answer : SnoopAnswer) : State :=
  if s.isHome l then
    match s.busyOf l with
    | some x => if nbit x.toAnswer target && s.dirOf l == .x target && x.exclusive != shared then s.ownerAnswers target l answer x
        else s
    | none => s
  else if target = s.pkgId then s.answerSnoop l shared
  else s

/-- FWD_S (R488, R490). -/
def execFwdS (target : PkgNo) (line : Nat) (answer : SnoopAnswer) (finds : Finds) (s : State) : Host.Outcome State Fault Refusal :=
  ok ((s.meetLine line finds).snoopOwner target.val line true answer)

/-- FWD_X (R488, R490). -/
def execFwdX (target : PkgNo) (line : Nat) (answer : SnoopAnswer) (finds : Finds) (s : State) : Host.Outcome State Fault Refusal :=
  ok ((s.meetLine line finds).snoopOwner target.val line false answer)

/-- A sharer has answered INV; after the last answer the request is granted. -/
def State.sharerAnswers (s : State) (target l : Nat) (x : HomeBusy) : State :=
  let m := setNBit x.toAnswer target false
  if m = 0 then s.completeSnoop l 0 x else s.setBusy l { x with toAnswer := m }

/-- This package drops its copy at INV and answers ACK, or tells of a PUT in flight (R488, R490). -/
def State.dropCopy (s : State) (l : Nat) : State :=
  match (s.cline l).st with
  | .i => s.answerSnoop l false
  | _ => (s.dropLine l {}).send (.coherence "ACK" (lineHome l) l noData)

/-- INV: this package drops its copy and answers ACK, or the home learns the answer of a sharer (R488, R490). -/
def execInv (target : PkgNo) (line : Nat) (finds : Finds) (s : State) : Host.Outcome State Fault Refusal :=
  if s.isHome line then
    match s.busyOf line with
    | some x => ok (if nbit x.toAnswer target.val && x.exclusive then (s.meetLine line finds).sharerAnswers target.val line x else s)
    | none => ok s
  else if target.val = s.pkgId then ok (s.dropCopy line)
  else ok s

/-- A line whose owner or sharer cannot be reached is lost: its home poisons it, its entry is I, and POISON is written (R492); the OUTCOME
that POISON carries is 0, the one of other data (Table 12-2, log entry 35). -/
def State.loseLine (s : State) (l : Nat) : State :=
  (((s.setPoison (homeAddr l) true).clearBusy l).setDir l .i).event codePoison 4 8 0 (lineAddr l)

/-- SNOOP_TARGET_UNREACHABLE: the lines whose snoop waits for the package are lost; the requests that wait for them are served from there
(R489, R492). -/
def execSnoopTargetUnreachable (target : PkgNo) (s : State) : Host.Outcome State Fault Refusal :=
  ok ((s.homeBusy.filter (fun x => nbit x.2.toAnswer target.val)).foldl (fun t x =>
    let u := t.loseLine x.1
    (if x.2.requester = target.val then u else u.homeServe x.2.requester x.1 (if x.2.exclusive then .readX else .readS)).serveWaiting x.1
      u.homeWaits.length) s)

end Sys2Proof.Machine
end

