-- ==== Sys2Proof/Machine/Boot.lean ====
section
/-! DEFINITION. The boot controller's commands (R433, R434, R439-R445, R508, R509): RESET_N, the choice of a bank, flash commands, hub
activation, life cycle, repair appends. What the sections load stands in JigLoad.lean. -/

namespace Sys2Proof.Machine

/-! RESET_N. -/

/-- RESET_N_LOW: a package reset that lasts while RESET_N is low (R509). -/
def execResetNLow (s : State) : Host.Outcome State Fault Refusal := ok ({ s with resetN := false }).packageReset

/-- RESET_N_HIGH: boot starts with phase 1 (R508, Table 16-5). -/
def execResetNHigh (s : State) : Host.Outcome State Fault Refusal :=
  if s.resetN then ok s else ok { s with resetN := true, boot := { s.boot with phase := 1 } }

/-- REBOOT: a partner's write of 1 to BOOT_CTRL.REBOOT is a package reset (R434). -/
def execReboot (port : PortNo) (s : State) : Host.Outcome State Fault Refusal :=
  ok (s.reach port.val BOOT_CTRL State.packageReset)

/-- HBM_INIT_DONE: the controller of HB r has written zeros with valid check bits to its whole stack; the HBM walker may run (R337,
R517). -/
def execHbmInitDone (r : RgNo) (s : State) : Host.Outcome State Fault Refusal :=
  ok (s.updRg r.val (fun x => { x with hbmInit := true }))

/-! Choosing a bank (R433, R434). -/

/-- Boot fails: FAILED with its cause and section, BOOTING clears, every pin stays in the safe state (R434). -/
def State.bootFailed (s : State) (sect cause : Nat) : State :=
  let b := BOOT_STAT
  let t := (s.setBit b BOOT_STAT_FAILED true).setBit b BOOT_STAT_BOOTING false
  let t := (t.setFld b BOOT_STAT_SECTION sect).setFld b BOOT_STAT_CAUSE cause
  (t.updBoot (fun b => { b with phase := 9 })).holdAll

/-- Boot goes on with a bank, from its REPAIR section. -/
def State.bootBank (s : State) (bank : Nat) : State :=
  let t := (s.setFld BOOT_STAT BOOT_STAT_ACTIVE_BANK bank).setReg BOOT_GEN (BitVec.ofNat 32 (s.bankGen bank))
  t.updBoot (fun b => { b with phase := 3, bank := bank, tried := b.tried ++ [bank], section_ := 8, reports := 0 })

/-- The bank to boot from: the valid one with the larger GENERATION, bank A when they are equal (R433). -/
def State.chooseBank (s : State) : Option Nat :=
  if s.headerValid 0 then (if s.headerValid 1 && decide (s.bankGen 0 < s.bankGen 1) then some 1 else some 0)
  else if s.headerValid 1 then some 1 else none

/-- A flash error as a bank's header is read is a load failure of that bank: boot goes on with the other one, whose header has been read
and is valid, or fails (R434, log entry 129). -/
def State.headerFailed (s : State) (bank : Nat) (otherFails : Bool) : State :=
  let o := otherBank bank
  if otherFails || !s.headerValid o then s.bootFailed 0 4
  else ((s.setBit BOOT_STAT BOOT_STAT_FALLBACK true).updBoot (fun b => { b with tried := b.tried ++ [bank] })).bootBank o

/-- BOOT_HEADERS_READ: both headers are read, with what the flash reports of each (R433, R434). -/
def execBootHeadersRead (errorA errorB : Bool) (s : State) : Host.Outcome State Fault Refusal :=
  if s.boot.phase = 1 then
    if errorA then ok (s.headerFailed 0 errorB)
    else if errorB then ok (s.headerFailed 1 false)
    else match s.chooseBank with
      | some b => ok (s.bootBank b)
      | none => ok (s.bootFailed 0 1)
  else ok s

/-- FETCH_TIMEOUT: 100 ms have passed since package reset; no FETCH waits any longer for its expansion port (R438). -/
def execFetchTimeout (s : State) : Host.Outcome State Fault Refusal :=
  ok (s.updBoot (fun b => { b with expDown := true }))

/-! Flash commands (R442). -/

/-- The flash bytes that a command works on: 256 or 65,536. -/
def flUnit (op : Nat) : Nat := if op = 2 then 65536 else 256

/-- Whether a bank is named by ACTIVE_BANK or a cluster's BANK; while FAILED is 1 none is (R434, R442). -/
def State.bankNamed (s : State) (b : Nat) : Bool :=
  !s.bit BOOT_STAT BOOT_STAT_FAILED &&
  (s.fld BOOT_STAT BOOT_STAT_ACTIVE_BANK == b || (List.range 64).any (fun c => s.fld (MOD_SVC_STAT c) MOD_SVC_STAT_BANK == b))

/-- Flash bytes of a bank are written while clusters load from it with ACTIVATE: what those get of them is unpredictable (R426). -/
def State.spoilLoads (s : State) (a n : Nat) : State :=
  (List.range 64).foldl (fun t c =>
    if (t.cl c).svc.any (fun v => v.op == 4) && otherBank (t.fld (MOD_SVC_STAT c) MOD_SVC_STAT_BANK) == a / 0x40000000 then
      t.updCl c (fun x => { x with svc := x.svc.map (fun v => { v with spoilt := v.spoilt ++ [(a, n)] }) })
    else t) s

/-- Whether a flash command is refused. -/
def State.flRefused (s : State) (op : Nat) : Bool :=
  s.bit BOOT_FL_CMD BOOT_FL_CMD_BUSY || s.bit BOOT_STAT BOOT_STAT_BOOTING || op == 3 ||
  ((op == 1 || op == 2) && s.bankNamed ((s.reg BOOT_FL_ADDR).toNat % 2 ^ 31 / 0x40000000))

/-- The first byte that a command works on. An address that is no multiple of the unit names no page or sector: which one is then
worked on is a free value (log entry 36). -/
def State.flTarget (s : State) (op : Nat) : Nat × State :=
  let a := s.fld BOOT_FL_ADDR BOOT_FL_ADDR_ADDR
  if a % flUnit op = 0 then (a, s) else (Config.freeNat s.free % 2 ^ 31 / flUnit op * flUnit op, s.useFree)

/-- A flash command: it begins, or REFUSED sets and VIOLATION is logged. -/
def State.flCommand (s : State) (port op : Nat) : State :=
  if s.flRefused op then (s.setBit BOOT_FL_CMD BOOT_FL_CMD_REFUSED true).violation 0x02 port 0 0 BOOT_FL_CMD
  else
    let x := s.flTarget op
    let t := if op = 0 then x.2 else x.2.spoilLoads x.1 (flUnit op)
    (t.setBit BOOT_FL_CMD BOOT_FL_CMD_BUSY true).updBoot (fun b => { b with flashOp := some (op, x.1) })

/-- FLASH_READ. -/
def execFlashRead (port : PortNo) (s : State) : Host.Outcome State Fault Refusal :=
  ok (s.reach port.val BOOT_FL_CMD (fun s => s.flCommand port.val 0))

/-- FLASH_PROGRAM. -/
def execFlashProgram (port : PortNo) (s : State) : Host.Outcome State Fault Refusal :=
  ok (s.reach port.val BOOT_FL_CMD (fun s => s.flCommand port.val 1))

/-- FLASH_ERASE. -/
def execFlashErase (port : PortNo) (s : State) : Host.Outcome State Fault Refusal :=
  ok (s.reach port.val BOOT_FL_CMD (fun s => s.flCommand port.val 2))

/-- FLASH_OP_REFUSED: OP 3. -/
def execFlashOpRefused (port : PortNo) (s : State) : Host.Outcome State Fault Refusal :=
  ok (s.reach port.val BOOT_FL_CMD (fun s => s.flCommand port.val 3))

/-- n free bytes. -/
def State.freeBytes (s : State) (n : Nat) : List Byte := Machine.freeBytes s.free n
/-- The free values of n bytes have been used. -/
def State.useFrees (s : State) (n : Nat) : State := { s with free := s.free + n }

/-- The 256 bytes of BOOT_FL_DATA. -/
def State.flData (s : State) : List Byte := (List.range 64).flatMap (fun k => leBytes 4 (s.reg (BOOT_FL_DATA k)).toNat)
/-- BOOT_FL_DATA is written from 256 bytes. -/
def State.setFlData (s : State) (l : List Byte) : State :=
  (List.range 64).foldl (fun t k => t.setReg (BOOT_FL_DATA k) (BitVec.ofNat 32 (ofLe ((l.drop (4 * k)).take 4)))) s

/-- A byte programmed over another: over an erased byte it stands; over a byte that differs the outcome is a free value. -/
def programmed (old new free : Byte) : Byte := if old = 0xFF ∨ old = new then new else free

/-- The n bytes of flash from an address on are erased. -/
def State.eraseFlash (s : State) (a n : Nat) : State :=
  { s with flash := s.flash.filter (fun x => decide (x.1 < a) || decide (a + n ≤ x.1)) }

/-- What a flash command leaves when it completes. What it leaves after a flash error is free. -/
def State.flEffect (s : State) (op a : Nat) (error : Bool) : State :=
  let n := flUnit op
  match op with
  | 0 => if error then (s.setFlData (s.freeBytes n)).useFrees n else s.setFlData (s.flashBytes a n)
  | 1 =>
    if error then (s.putFlash a (s.freeBytes n)).useFrees n
    else (s.putFlash a ((List.range n).map (fun i =>
      programmed (s.flashByte (a + i)) (s.flData.getD i 0) (Config.freeByte (s.free + i))))).useFrees n
  | _ =>
    if error then (s.putFlash a (s.freeBytes n)).useFrees n
    else s.eraseFlash a n

/-- FLASH_CMD_DONE (R442). -/
def execFlashCmdDone (error : Bool) (s : State) : Host.Outcome State Fault Refusal :=
  match s.boot.flashOp with
  | some x =>
    let t := (s.flEffect x.1 x.2 error).setBit BOOT_FL_CMD BOOT_FL_CMD_BUSY false
    let t := if x.1 = 0 then t else t.spoilLoads x.2 (flUnit x.1)
    let t := if error then t.setBit BOOT_FL_CMD BOOT_FL_CMD_ERROR true else t
    ok (t.updBoot (fun b => { b with flashOp := none }))
  | none => ok s

/-- A partner's write of BOOT_FL_CMD. -/
def State.flWrite (s : State) (port : Nat) (value : Word) : State :=
  if getF value BOOT_FL_CMD_GO = 1 then s.flCommand port (getF value BOOT_FL_CMD_OP) else s

/-! Hub activation (R443). -/

/-- A partner's ACT_HUB: it begins when it is accepted. -/
def State.actHubBegin (s : State) : State :=
  let b := BOOT_STAT
  if s.bit b BOOT_STAT_BOOTING || s.bit b BOOT_STAT_ACTIVATING || (List.range 8).any s.flowOn ||
      !s.headerValid (otherBank (s.fld b BOOT_STAT_ACTIVE_BANK)) then s
  else (s.setBit b BOOT_STAT_ACTIVATING true).updBoot (fun b => { b with actHub := true })

/-- ACT_HUB. -/
def execActHub (port : PortNo) (s : State) : Host.Outcome State Fault Refusal :=
  ok (s.reach port.val BOOT_CTRL State.actHubBegin)

/-- A partner's write of BOOT_CTRL: ACT_HUB, then REBOOT. -/
def State.bootCtrlWrite (s : State) (value : Word) : State :=
  let t := if getF value BOOT_CTRL_ACT_HUB = 1 then s.actHubBegin else s
  if getF value BOOT_CTRL_REBOOT = 1 then t.packageReset else t

/-! Life cycle (R356, R444, R445). -/

/-- Whether a transition to TARGET is accepted. -/
def State.lcAccepts (s : State) (target : Nat) : Bool :=
  decide (s.lc < target) && !s.bit BOOT_STAT BOOT_STAT_BOOTING && s.runs.isEmpty && !(List.range 8).any s.flowOn

/-- A partner's write of BOOT_LC_CMD with GO and CONFIRM. -/
def State.lcCommand (s : State) (port : Nat) (value : Word) : State :=
  let target := getF value BOOT_LC_CMD_TARGET
  if getF value BOOT_LC_CMD_GO = 0 ∨ getF value BOOT_LC_CMD_CONFIRM ≠ 0x4C43 then s
  else if s.lcAccepts target then
    (s.setBit BOOT_LC_CMD BOOT_LC_CMD_BUSY true).updBoot (fun b => { b with lcTarget := some (max target (b.lcTarget.getD 0)) })
  else (s.setBit BOOT_LC_CMD BOOT_LC_CMD_REFUSED true).violation 0x02 port 0 0 BOOT_LC_CMD

/-- LC_TRANSITION (R444). -/
def execLcTransition (port : PortNo) (value : Word) (s : State) : Host.Outcome State Fault Refusal :=
  ok (s.reach port.val BOOT_LC_CMD (fun s => s.lcCommand port.val value))

/-- The lifecycle fuses up to fuse n - 1 are programmed. -/
def State.programFuses (s : State) (n : Nat) : State := { s with fuses := s.fuses ||| (2 ^ n - 1) }

/-- LC_FUSES_PROGRAMMED: the last fuse up to TARGET - 1 is programmed and a wipe begins (R444, R354). -/
def execLcFusesProgrammed (s : State) : Host.Outcome State Fault Refusal :=
  match s.boot.lcTarget with
  | some n =>
    ok (((s.setBit BOOT_LC_CMD BOOT_LC_CMD_BUSY false).beginWipe.programFuses n).updBoot (fun b => { b with lcTarget := none }))
  | none => ok s

/-! Repair appends (R440). -/

/-- The 16 bytes of a REPAIR entry (Table 16-4). -/
def repairEntry (array inst bank row spare : Nat) : List Byte :=
  let l := leBytes 1 1 ++ leBytes 1 array ++ leBytes 1 inst ++ leBytes 1 bank ++ leBytes 2 row ++ leBytes 1 spare ++ leBytes 5 0
  l ++ leBytes 4 (crc32 l).toNat

/-- The offset in the flash of the first erased REPAIR entry of a bank. -/
def State.erasedRepair (s : State) (b : Nat) : Option Nat :=
  ((List.range (s.secLen b 8 / 16)).find? (fun k => s.flashByte (s.secAddr b 8 (16 * k)) == 0xFF)).map
    (fun k => s.secAddr b 8 (16 * k))

/-- REPAIR_APPEND: a repair of the block tester or of MEMTEST is programmed into the active bank (R347, R440). -/
def execRepairAppend (array inst bank row spare : Nat) (s : State) : Host.Outcome State Fault Refusal :=
  let x := (array, inst, bank, row, spare)
  if s.boot.appends.contains x then
    let t := s.updBoot (fun b => { b with appends := b.appends.erase x })
    match s.erasedRepair (s.fld BOOT_STAT BOOT_STAT_ACTIVE_BANK) with
    | some a => ok (t.putFlash a (repairEntry array inst bank row spare))
    | none => ok (t.setBit BOOT_STAT BOOT_STAT_REPAIR_FULL true)
  else ok s

end Sys2Proof.Machine
end

