-- ==== Sys2Proof/Machine/Boundary.lean ====
section
/-! DEFINITION. What happens at a cluster timebase: writes and commands reach it (R496), and the tenon boundary, at which they come
into force, the mode word steps, and the tenon is taken or missing (R33, R71-R85, R139, R405-R407). -/

namespace Sys2Proof.Machine

/-! Messages (R84, R139, R201, R496). -/

/-- The cluster to whose timebase a message of a register goes: PC r's CTRL goes to that of CL8r (R303). -/
def messageCluster (a : Nat) : Option Nat :=
  match regLoc a with
  | some l => if l.win = 0 then some l.num else if l.win = 1 ∧ a = PC_CTRL l.num then some (8 * l.num) else none
  | none => none

/-- The oldest message of a register that is still on its way, and the messages without it. -/
def takeMessage (a : Nat) : List PinMsg → Option (PinMsg × List PinMsg)
  | [] => none
  | m :: l =>
    if m.addr = a ∧ m.reached = none then some (m, l)
    else (takeMessage a l).map (fun r => (r.1, m :: r.2))

/-- The oldest message of a register that is still on its way reaches pin time at grain b. -/
def markReached (a b : Nat) : List PinMsg → List PinMsg
  | [] => []
  | m :: l => if m.addr = a ∧ m.reached = none then { m with reached := some b } :: l else m :: markReached a b l

/-- Whether a message acts as it arrives, and not at a boundary: Scribe's settings (R257) and a release of records (R245). -/
def actsOnArrival (c a : Nat) : Bool := a == SCR_CTRL c || a == SCR_DRAIN c || a == SCR_RPTR c

/-- A message that acts on its arrival. -/
def State.arrival (s : State) (c : Nat) (m : PinMsg) : State :=
  if m.addr = SCR_RPTR c then s.setForce m.addr m.value else s.scribeSetting c m.addr m.value

/-- WRITE_REACHES_PIN_TIME: the oldest message of a register that is on its way reaches its cluster timebase at a tenon boundary b, over
the link of its slice die (R46). Its way through the fabric takes what it takes; from the synchroniser on it takes 128 gr to 192 gr, so
that b lies at least 128 gr after it was sent. It acts at the first tenon boundary after b, or at once (R139, R245, R257, R496). -/
def execWriteReachesPinTime (addr : Nat) (b : Nat) (s : State) : Host.Outcome State Fault Refusal :=
  match messageCluster addr, takeMessage addr s.inFlight with
  | some c, some (m, rest) =>
    if b % 64 ≠ 0 ∨ b < m.sent + 128 then ok s
    else
    let t := (s.at b).sliceSeen (c / 8)
    ok (if actsOnArrival c addr then { t with inFlight := rest }.arrival c m
      else { t with inFlight := markReached addr b s.inFlight })
  | _, _ => ok s

/-- A message that reached pin time before a boundary of its cluster acts there. -/
def PinMsg.dueAt (c b : Nat) (m : PinMsg) : Bool :=
  messageCluster m.addr == some c && (match m.reached with
    | some r => decide (r < b)
    | none => false)

/-- The ABORT and ARM bits of a command to a digitiser act at a boundary (R263, R267). -/
def State.acqCommand (s : State) (d b : Nat) (w : Word) : State :=
  let t := if getF w ACQ_CTRL_ABORT = 1 then s.abortDig d b else s
  if getF w ACQ_CTRL_ARM = 1 then t.armDig d b else t

/-- The requests of a command to Gauge act at a boundary (R312). -/
def State.calCommand (s : State) (c : Nat) (w : Word) : State :=
  let t := if getF w CAL_CTRL_REQ_T = 1 then s.calRequest c .timing else s
  if getF w CAL_CTRL_REQ_DC = 1 then t.calRequest c .dc else t

/-- The force pulses of a mask of units start at a boundary (R286). -/
def State.pulseCommand (s : State) (c b mask : Nat) : State := (bitsOf 16 mask).foldl (fun t u => t.pulsePin (16 * c + u) b) s

/-- The effect at boundary b of a command of cluster c by the register that takes it. -/
def State.boundaryAct (s : State) (c b : Nat) (m : PinMsg) : State :=
  let a := m.addr
  let w := m.value
  match flagReg a with
  | some (keys, set) => s.flagRegWrite keys set w b
  | none =>
    if a = ADC_CMD c then s.adcEvent c b
    else if a = CLP_STAT c then s.clearLatches c w.toNat b
    else if a = ACQ_CTRL c 0 then s.acqCommand (2 * c) b w
    else if a = ACQ_CTRL c 1 then s.acqCommand (2 * c + 1) b w
    else if a = ACQ_RANGE c 0 then s.acqRangeDue (2 * c) w b
    else if a = ACQ_RANGE c 1 then s.acqRangeDue (2 * c + 1) w b
    else if a = CAL_CTRL c then s.calCommand c w
    else if a = MOD_SVC_CMD c then s.svcWrite m.port c w b
    else if a = PC_CTRL (c / 8) ∧ c % 8 = 0 then s.precCtrl (c / 8) b w
    else s

/-- The pin of a cluster whose PPMU settings a register holds. -/
def pmuPin (c a : Nat) : Option Nat :=
  ((List.range 16).find? (fun u => a == PMU_CTRL c u || a == PMU_FORCE c u)).map (· + 16 * c)

/-- A value comes into force at boundary b of cluster c; from a MEASURE entry's setting of a PPMU on its SETTLE counts (R84, R139,
R389). -/
def State.valueAct (s : State) (c b : Nat) (m : PinMsg) : State :=
  let t := (s.setForce m.addr m.value).forceEffect c b m.addr (s.inForce m.addr) m.value
  match (if m.port = byEngine then pmuPin c m.addr else none) with
  | some p => t.updPin p (fun x => { x with pmuSince := b })
  | none => t

/-- The command registers of a cluster whose commands act at a boundary once the mode word has stepped, the force pulses apart. -/
def isCommand (c a : Nat) : Bool :=
  (flagReg a).isSome || a == ADC_CMD c || a == CLP_STAT c || a == ACQ_CTRL c 0 || a == ACQ_CTRL c 1 || a == ACQ_RANGE c 0 ||
    a == ACQ_RANGE c 1 || a == CAL_CTRL c || a == MOD_SVC_CMD c || (a == PC_CTRL (c / 8) && c % 8 == 0)

/-- The values due at a boundary come into force in their order (R139). -/
def State.applyValues (s : State) (c b : Nat) (due : List PinMsg) : State :=
  (due.filter (fun m => !isCommand c m.addr && m.addr != PMU_PULSE_CMD c)).foldl (fun t m => t.valueAct c b m) s

/-- The commands due at a boundary act in their order (R201, R263, R267, R268, R290, R303, R312, R419, R423). -/
def State.applyCommands (s : State) (c b : Nat) (due : List PinMsg) : State :=
  (due.filter (fun m => isCommand c m.addr)).foldl (fun t m => t.boundaryAct c b m) s

/-- The force pulses due at a boundary start, after the cases of R284 have been looked at there (R286, R287). -/
def State.applyPulses (s : State) (c b : Nat) (due : List PinMsg) : State :=
  (due.filter (fun m => m.addr == PMU_PULSE_CMD c)).foldl (fun t m => t.pulseCommand c b m.value.toNat) s

/-- The messages due at a boundary are on their way no more. -/
def State.dropDue (s : State) (c b : Nat) : State := { s with inFlight := s.inFlight.filter (fun m => !m.dueAt c b) }

/-! The tenon (R71-R83). -/

/-- The tenon of an array for a boundary, and the array without it and without what is older. -/
def takeTenon (b : Nat) (l : List Tenon) : Option Tenon × List Tenon :=
  (l.find? (fun t => t.stamp == b), l.filter (fun t => decide (b < t.stamp)))

/-- A pin idles in an underrun: its pending edge stands where it was programmed, and a playing pin first shows the level of its last
sample (R79, R109, R143). -/
def State.idleOut (s : State) (p b : Nat) : State :=
  let t := s.flushEdge p
  let k := t.playerCode p (b - 1)
  t.updPin p (fun x => PinSt.playIdle (if x.idle.isNone then { x with level := k } else x) (s.idleCode p))

/-- An underrun at a boundary: UNDERRUN and its first GT, the gap, the idle pins (R79, R83). UNDERRUN is set at every underrun, so
that a bit that a partner cleared is set again by a later one of the run (log entry 62). -/
def State.underrun (s : State) (c b : Nat) : State :=
  let first := (s.cl c).figs.any (fun y => !y.2.underrun)
  let t := s.setFld (TMG_LEAD c) TMG_LEAD_UNDERRUN 1
  let t := if first then t.setPair (TMG_UR_GT_LO c) (TMG_UR_GT_HI c) (b % 2 ^ 64) else t
  let t := t.updFigs c (fun y => { y with underrun := true })
  let mark (r : Run) : Run := if (t.cl c).figs.any (fun y => y.1 == r.id) then { r with underrun := true } else r
  let t := { t with runs := t.runs.map mark }
  let t := t.updCl c (fun x => { x with
    missing := true, missed := b :: x.missed, gapStart := (match x.gapStart with
      | some g => some g
      | none => some b), gapCount := x.gapCount + 1 })
  (List.range 16).foldl (fun t u => t.idleOut (16 * c + u) b) t

/-- A pin after an underrun, at the first boundary b whose tenon is present: it idles no more, but for one in a cycle that plays idle
codes; a player that went on drives its samples again (R79, R143, R188). -/
def PinSt.resume (b : Nat) (x : PinSt) : PinSt :=
  if x.player.isSome then { x with on := true, idle := none, idleLeft := some (b, x.on, x.level) }
  else if x.cyc.any (·.idle) then x
  else { x with idle := none }

/-- A present tenon: the gap before it closes with its INVALID marker, and the pins go on (R79, R143, R241). -/
def State.resumePlay (s : State) (c b : Nat) : State :=
  let t := s.invalidMarker c b
  let t := t.updCl c (fun x => { x with missing := false })
  if (s.cl c).missing then (List.range 16).foldl (fun t u => t.updPin (16 * c + u) (PinSt.resume b)) t else t

/-- The lead after a take: MIN_LEVEL, and LEAD_LOW when the level falls from 64 to 63 during a run (R75, R78). MIN_LEVEL takes a lower
lead here and nowhere else (log entry 63). -/
def State.leadTaken (s : State) (c b before : Nat) : State :=
  let l := s.level c
  let a := TMG_LEAD c
  let t := s.setFld a TMG_LEAD_MIN_LEVEL (min l (s.fld a TMG_LEAD_MIN_LEVEL))
  let t := t.updFigs c (fun y => { y with minLead := min l y.minLead })
  if 64 ≤ before ∧ l < 64 then
    let t := (t.setFld a TMG_LEAD_LEAD_LOW 1).updFigs c (fun y => { y with leadLow := true })
    if (t.cl c).leadArmed then
      (t.updCl c (fun x => { x with leadArmed := false })).event codeLeadLow 1 c 0 b
    else t
  else t

/-- Whether a lane of a boundary lacks the path of an engine (R79, R195). -/
def lacks (main shadow : Option Tenon) (e : Nat) (lane : Lane) : Bool :=
  match (match lane with
    | .main => main
    | .shadow => shadow) with
  | some t => !nbit t.engs (e % 4)
  | none => true

/-- Tenons that the Mortise had no room for enter it as entries come free (R74, log entry 49). -/
def State.fillMortise (s : State) (c b : Nat) : State :=
  s.updCl c (fun x =>
    let m := addTenons x.mortise x.waitTenons
    { x with mortise := m.1, waitTenons := m.2.filter (fun t => decide (b < t.stamp)) })

/-- The cluster takes the tenon stamped for a boundary: each playing engine needs its path in every lane that feeds its pins (R74,
R79, R195). -/
def State.takeTenons (s : State) (c b : Nat) : State :=
  let s := s.fillMortise c b
  let act := (clEngines c).filter (fun e => s.playsIn e b)
  let before := s.level c
  let m := takeTenon b (s.cl c).mortise
  let h := takeTenon b (s.cl c).shadow
  let t := s.updCl c (fun x => { x with
    boundary := some b, mortise := m.2, shadow := h.2, curMain := m.1, curShadow := h.1 })
  if act = [] then t.updCl c (fun x => { x with missing := false, missed := [] })
  else
    let gone := act.any (fun e => (s.lanesIn e b).any (lacks m.1 h.1 e))
    (if gone then t.underrun c b else t.resumePlay c b).leadTaken c b before

/-! Pins at a boundary. -/

/-- A pin's engine has ended its part of the run before a boundary, or no engine of a run serves it: such a pin is outside a run,
whatever other engines of its cluster do (R183, R185, log entry 64). -/
def State.idleNow (s : State) (p b : Nat) : Bool :=
  match s.servedBy p with
  | none => true
  | some e => (match (s.eng e).halted with
      | some h => decide (h < b)
      | none => false) || !s.playsIn e b && (s.engRun e).any (fun r => r.start.isNone)

/-- A pin outside a run, or in a cycle that plays idle codes, plays its idle code from boundary b (R84, R183, R188); one whose engine has
ended places no later edge. -/
def State.idlePin (s : State) (p b : Nat) : State :=
  if s.idleNow p b then
    ((s.flushEdge p).stopPlayer p b).updPin p (fun x => PinSt.playIdle
      { x with cyc := x.cyc.map (fun y => if y.cut.isSome then y else { y with cut := some b }) } (s.idleCode p))
  else if (s.pin p).idle.isSome && (s.pin p).cyc.any (·.idle) then s.updPin p (fun x => x.playIdle (s.idleCode p))
  else s

/-- A hold that acts at boundary b begins there; outside a run one that has ended is released (R33, R136, R283). -/
def State.boundaryHold (s : State) (p b : Nat) : State :=
  if s.holdNow p then s.holdPin p b
  else if s.idleNow p b then s.releaseIdle p b
  else s

/-- A pin at a tenon boundary: its player goes on, outside a run its shims step, idle codes act, the PPMU's cases are looked at, holds
begin or end (R84, R116, R136, R149, R183, R284). -/
def State.pinBoundary (s : State) (c b u : Nat) (finds : Finds) : State :=
  let p := 16 * c + u
  let t := s.settlePlayer p b finds
  let t := if (t.servedBy p).isNone then t.stepPin p else t
  ((t.idlePin p b).pmuSettle p).boundaryHold p b

/-- What comes into force at boundary b, after the converter starts and conversions of earlier grains (R182, R289): values, the mode word
(R405, R406), then the commands that act in it. -/
def State.forceBoundary (s : State) (c b : Nat) (due : List PinMsg) : State :=
  let t := (((s.adcCatchUp c (b - 1)).latchDacs c b).applyValues c b due).stepModes c b
  (((t.applyCommands c b due).drainDue c b).adcCatchUp c b).nextSelfTest c b

/-- Boundary b of a cluster on the state in which pin time has reached it. -/
def State.boundary (s : State) (c b : Nat) (finds : Finds) : State :=
  let due := s.inFlight.filter (PinMsg.dueAt c b)
  let t := ((s.dropDue c b).forceBoundary c b due).takeTenons c b
  let t := (List.range 16).foldl (fun t u => (t.pinBoundary c b u finds).flushOld c u b) t
  let t := (t.applyPulses c b due).flowConvert c b
  let t := (t.armDue (2 * c) b).armDue (2 * c + 1) b
  let t := (t.countedDecide c b).reportFill c
  (List.range 16).foldl (fun t u => t.showContact s (16 * c + u) b) t

/-- TENON_BOUNDARY: at boundary b of a cluster due messages act, the mode word steps, the tenon stamped for b is taken or missing, and
what else a boundary does happens; what error correction finds in the segment granules that begin there is `finds` (R33, R71-R85, R116, R136, R139, R149, R160, R195, R241, R249, R250, R268, R405-R407). -/
def execTenonBoundary (c : ClNo) (b : Nat) (finds : Finds) (s : State) : Host.Outcome State Fault Refusal :=
  let late := match (s.cl c.val).boundary with
    | some x => decide (b ≤ x)
    | none => false
  if b % 64 ≠ 0 ∨ late = true then ok s else ok ((s.at b).boundary c.val b finds)

end Sys2Proof.Machine
end

