-- ==== Sys2Proof/Machine/Access.lean ====
section
/-! DEFINITION. Register access (R19-R21, R56-R58, R72, R452, R453, R496): what a read returns and what a write does, register by register;
and the accesses of partners and of other packages to memory and registers (R42, R51-R55, R335, R336, R352, R353, R448-R450, R519). -/

namespace Sys2Proof.Machine

/-! Writes. -/

/-- Whether a write of a cluster register reaches pin time as a message (R84, R139, R257, R496). -/
def reachesPin (blk off : Nat) : Bool :=
  blk = 0 || (blk = 1 && off = 0) || blk = 2 || blk = 3 || blk = 4 || blk = 5 || blk = 6 || (blk = 7 && off = 0) || (blk = 9 && off = 4) ||
  blk = 11 || blk = 12

/-- A write that stores its fields and, for a register of pin time, sends them there (R20, R496). -/
def State.writeField (s : State) (a : Nat) (l : RegLoc) (v : Word) (be : BitVec 4) : State :=
  let t := s.partnerWrite a v be
  if l.win = 0 ∧ reachesPin l.blk l.off ∧ (regRow a).any (fun x => x.rw != 0) then t.sendPin a (t.reg a) else t

/-- A converter's ring setting is stored and checked as it is written, beside the foreign ring that the one before named (R360). -/
def State.convRing (s : State) (a : Nat) (v : Word) (be : BitVec 4) (r : Nat) (bad : Option Nat) : Option Nat × State :=
  let w := (s.partnerWrite a v be).reg a
  (s.setBoth a w).checkRing r (w.toNat % 65536) bad

/-- A write of ADC_DMA of cluster c (R299, R360). -/
def State.adcDmaWrite (s : State) (c : Nat) (v : Word) (be : BitVec 4) : State :=
  let k := s.convRing (ADC_DMA c) v be (c / 8) (s.adc c).ringBad
  (k.2.updAdc c (fun y => { y with ringBad := k.1 })).adcDemand c

/-- A write of PC_DMA of region r (R299, R360). -/
def State.precDmaWrite (s : State) (r : Nat) (v : Word) (be : BitVec 4) : State :=
  let k := s.convRing (PC_DMA r) v be r ((s.rg r).prec).ringBad
  (k.2.updPrec r (fun y => { y with ringBad := k.1 })).precDemand r

/-- A write of PC_LOWPWR: a running converter takes it with its next conversion, PC_INTERVAL of another shows it at once (R303). -/
def State.precPowerWrite (s : State) (r : Nat) (v : Word) (be : BitVec 4) : State :=
  let t := s.partnerWrite (PC_LOWPWR r) v be
  if ((t.rg r).prec).running then t else t.precShow r (t.bit (PC_LOWPWR r) PC_LOWPWR_LOWPWR)

/-- A write whose fields are stored at once and whose command bits go to the cluster timebase, where they act at a boundary (R201,
R263, R267, R286, R290, R312, R496). -/
def State.commandBits (s : State) (port a : Nat) (v : Word) (be : BitVec 4) (cmd : Word) : State :=
  let w := v &&& beMask be &&& cmd
  let t := s.partnerWrite a (v &&& ~~~cmd) be
  if w = 0 then t else t.sendAct port a w

/-- The engine index and the pointer of a substitution register of cluster c, by its address. -/
def substAt (c a : Nat) : Option (Nat × Nat) :=
  ([0, 1, 2, 3].flatMap (fun i => [0, 1, 2, 3].map (fun k => (i, k)))).find? (fun x => a == ENG_SUBST_LO c x.1 x.2)

/-- A write of ENG_SUBST_LO gives the pointer a new BIT_ADDR, from which bits are drawn again (R198). -/
def State.substWrite (s : State) (c a : Nat) (v : Word) (be : BitVec 4) : State :=
  let t := s.partnerWrite a v be
  match substAt c a with
  | some x => if be = 0 then t else t.updEng (4 * c + x.1) (fun y => { y with substPast := setNBit y.substPast x.2 false })
  | none => t

/-- A write of ENG_CS_CMD: REFUSED clears, then GO acts (R211). -/
def State.csCommand (s : State) (port c : Nat) (v : Word) (be : BitVec 4) (finds : Finds) : State :=
  let w := v &&& beMask be
  let t := s.partnerWrite (ENG_CS_CMD c) v be
  if csGo w false then t.csReadNow c w finds
  else if csGo w true then t.csWriteNow port c w
  else if getF w ENG_CS_CMD_GO = 1 then t.csRefuse port c c
  else t

/-- A write of ENG_PM (R213). -/
def State.pmWrite (s : State) (port c a : Nat) (v : Word) (be : BitVec 4) : State :=
  if (clEngines c).any (fun e => (s.eng e).run.isSome) then s.violation 0x01 port 0 c a else s.partnerWrite a v be

/-- A write of HBM_SHARE (R227, R233). -/
def State.shareWrite (s : State) (port r : Nat) (v : Word) (be : BitVec 4) : State :=
  let a := MEM_HBM_SHARE r
  let w := (s.partnerWrite a v be).reg a
  if 240 < getF w MEM_HBM_SHARE_VEC + getF w MEM_HBM_SHARE_FAIL + getF w MEM_HBM_SHARE_ACQ then s.violation 0x01 port 0 r a
  else s.partnerWrite a v be

/-- A write of a register of a digitiser: ACQ_CTRL stores its fields and sends ARM and ABORT, ACQ_RANGE goes to a boundary (R263, R267,
R268). -/
def State.acqWrite (s : State) (port a : Nat) (l : RegLoc) (v : Word) (be : BitVec 4) : State :=
  if l.off % 256 = 0 then s.commandBits port a v be 0xC0000000
  else
    let t := s.partnerWrite a v be
    if l.off % 256 = 0x28 then t.sendAct port a (t.reg a) else t

/-- A write of CLP_STAT: the LATCH bits of pins in PERIOD mode are ignored, the others go to the cluster timebase (R175). -/
def State.latchWrite (s : State) (port c : Nat) (v : Word) (be : BitVec 4) : State :=
  s.commandBits port (CLP_STAT c) (setF v CLP_STAT_LATCH (s.latchMask c (getF v CLP_STAT_LATCH))) be 0xFFFF

/-- A write of a cluster register. What acts at a tenon boundary leaves as a message to the cluster timebase (R496). -/
def State.writeCluster (s : State) (port a : Nat) (l : RegLoc) (v : Word) (be : BitVec 4) (finds : Finds) : State :=
  let c := l.num
  let w := s.effective a v be
  match l.blk with
  | 1 => if l.off = 0 then s.modReq port c v be else if l.off = 8 then s.svcSend port c w else s.partnerWrite a v be
  | 2 =>
    if 0x20000 ≤ l.off ∧ l.off < 0x20200 then s.shimSet c ((l.off - 0x20000) / 4) (getF w TMG_SHIM_TARGET)
    else if 0x30000 ≤ l.off ∧ l.off < 0x30200 ∧ l.off % 32 = 0 then s.tiaWrite c ((l.off - 0x30000) / 32) w
    else s.writeField a l v be
  | 5 => if a = CLP_STAT c then s.latchWrite port c v be else s.writeField a l v be
  | 6 => if a = SEG_CODE_CMD c then s.delta4Command port c w else (s.segWordWritten c a).writeField a l v be
  | 7 =>
    if 0x10 ≤ l.off ∧ l.off < 0x20 then s.startCommand port (4 * c + (l.off - 0x10) / 4) w
    else if a = ENG_CS_CMD c then s.csCommand port c v be finds
    else if 0x30000 ≤ l.off ∧ l.off < 0x30100 then s.pmWrite port c a v be
    else if 0x20000 ≤ l.off ∧ l.off < 0x30000 then s.substWrite c a v be
    else if (flagReg a).isSome then s.commandBits port a v be (BitVec.allOnes 32)
    else s.writeField a l v be
  | 9 =>
    if a = SCR_FLUSH c then
      (if getF w SCR_FLUSH_FLUSH = 1 then (s.updScr c (fun x => { x with flush := true })).scribeDrain c else s)
    else if a = SCR_RPTR c then s.scrConsume c w
    else if a = SCR_CTRL c ∨ a = SCR_DRAIN c then s.scribeConfig c a v be
    else s.writeField a l v be
  | 10 => s.acqWrite port a l v be
  | 11 => if a = PMU_PULSE_CMD c then s.commandBits port a v be 0xFFFF else s.writeField a l v be
  | 12 =>
    if a = ADC_CMD c then s.commandBits port a v be (setF 0 ADC_CMD_START 1)
    else if a = ADC_DMA c then s.adcDmaWrite c v be
    else s.writeField a l v be
  | 13 => if a = CAL_CTRL c then s.commandBits port a v be 0xC0000000 else s.partnerWrite a v be
  | _ => s.writeField a l v be

/-- A write of a region register. -/
def State.writeRegion (s : State) (port a : Nat) (l : RegLoc) (v : Word) (be : BitVec 4) : State :=
  let r := l.num
  let w := s.effective a v be
  match l.blk with
  | 1 =>
    if 0x20000 ≤ l.off ∧ l.off < 0x40000 then
      let n := 8192 * r + (l.off - 0x20000) / 16
      if l.off % 16 = 8 then s.tailWrite n (getF w RING_PTR_TAIL)
      else if l.off % 16 = 4 then
        let t := s.partnerWrite a v be
        if getF w RING_CFG_EN = 1 then t.ringEnable n else t
      else s.partnerWrite a v be
    else if a = DMA_FREE r then s.freeRing port r (getF w DMA_FREE_RING)
    else if a = DMA_POOL_CFG r then (s.partnerWrite a v be).poolConfigured r
    else if a = DMA_POOL_PUT r then s.poolReturn port r (getF w DMA_POOL_PUT_INDEX)
    else s.partnerWrite a v be
  | 2 =>
    if a = MEM_PPR_CMD r then s.pprCommand port r w
    else if a = MEM_HBM_SHARE r then s.shareWrite port r v be
    else if 0x10000 ≤ l.off ∧ l.off < 0x10200 ∧ l.off % 32 < 20 then
      (s.partnerWrite a v be).patWritten r ((l.off - 0x10000) / 32)
    else s.partnerWrite a v be
  | 3 =>
    if a = PC_CTRL r then (let t := s.partnerWrite a v be; t.sendAct port a (t.reg a))
    else if a = PC_LOWPWR r then s.precPowerWrite r v be
    else if a = PC_DMA r then s.precDmaWrite r v be
    else s.partnerWrite a v be
  | _ => s.partnerWrite a v be

/-- A write of PRT_EVT_RPTR of port n: the outstanding message ends, and a new one is sent if entries remain (R458). -/
def State.evtRelease (s : State) (n : Nat) (value : Word) : State :=
  let wp := s.reg (PRT_EVT_WPTR n)
  let r := s.reg (PRT_EVT_RPTR n)
  let v := if (value - r).toNat ≤ (wp - r).toNat then value else wp
  let t := (s.setReg (PRT_EVT_RPTR n) v).setPort n { s.port n with outstanding := false }
  if v = wp then t else t.msix n

/-- A write of PRT_VLOG_RPTR: a value ahead of WPTR acts as WPTR (Table 17-4). -/
def State.vlogRelease (s : State) (value : Word) : State :=
  let wp := s.reg PRT_VLOG_WPTR
  let r := s.reg PRT_VLOG_RPTR
  s.setReg PRT_VLOG_RPTR (if (value - r).toNat ≤ (wp - r).toNat then value else wp)

/-- A write of FLW_CTRL: its fields, then CONT and GO (R383, R392). -/
def State.flowCtrl (s : State) (port n : Nat) (v : Word) (be : BitVec 4) : State :=
  let w := v &&& beMask be
  let t := s.partnerWrite (FLW_CTRL n) v be
  let t := if getF w FLW_CTRL_CONT = 1 then t.contCommand n else t
  if getF w FLW_CTRL_GO = 1 then t.goCommand port n else t

/-- A write of a hub register. -/
def State.writeHub (s : State) (port a : Nat) (l : RegLoc) (v : Word) (be : BitVec 4) : State :=
  let w := s.effective a v be
  match l.blk with
  | 0 => if a = SYS_REF_CTRL then s.refCtrl port v be else s.partnerWrite a v be
  | 1 =>
    if l.off < 0x200 ∧ l.off % 64 = 0 then s.flowCtrl port (l.off / 64) v be
    else if a = FLW_LOG_RPTR then s.logRelease w
    else if (s.flowCfg a).isSome then s.flowCfgWrite port a v be
    else s.partnerWrite a v be
  | 3 =>
    if a = BOOT_CTRL then s.bootCtrlWrite w
    else if a = BOOT_FL_CMD then (s.partnerWrite a v be).flWrite port (v &&& beMask be)
    else if a = BOOT_LC_CMD then (s.partnerWrite a v be).lcCommand port (v &&& beMask be)
    else s.partnerWrite a v be
  | 4 =>
    if a = PRT_VLOG_RPTR then s.vlogRelease w
    else if l.off < 0x600 ∧ l.off % 256 = 8 then
      s.reach port (ringPtr (getF w PRT_DB_RING)) (fun s => s.tailWrite (getF w PRT_DB_RING) (getF w PRT_DB_TAIL))
    else if l.off < 0x600 ∧ l.off % 256 = 0x20 then s.evtRelease (l.off / 256) w
    else s.partnerWrite a v be
  | 6 => if a = SEC_CTRL then (if getF w SEC_CTRL_WIPE = 1 then s.beginWipe else s) else s.partnerWrite a v be
  | _ => s.partnerWrite a v be

/-- A write of a register by a requester: each register has the rule of its own command (R20, R452), `finds` being what a read of a
control store word that it commands finds. A reserved offset ignores it (R52). -/
def State.writeReg (s : State) (port a : Nat) (v : Word) (be : BitVec 4) (finds : Finds) : State :=
  match regLoc a, regRow a with
  | some l, some _ =>
    if be = 0 then s
    else match l.win with
      | 0 => s.writeCluster port a l v be finds
      | 1 => s.writeRegion port a l v be
      | 2 => s.writeHub port a l v be
      | _ => if a = VYN_CMD then s.vynCommand port (v &&& beMask be) else s.partnerWrite a v be
  | _, _ => s

/-- A write of a register through a partner port (R42, R434, R435). -/
def State.portWriteReg (s : State) (port a : Nat) (v : Word) (be : BitVec 4) (finds : Finds) : State :=
  s.reach port a (fun s => s.writeReg port a v be finds)

/-! Wide accesses of registers (R452, R453). -/

/-- The enables of a dword within a request of n bytes at an address. -/
def laneEnables (a n k : Nat) : BitVec 4 :=
  BitVec.ofNat 4 (maskOf ([0, 1, 2, 3].filter (fun i => decide (a ≤ 4 * k + i) && decide (4 * k + i < a + n))))

/-- The word and enables of dword k of a write of bytes at an address. -/
def writeLanes (a : Nat) (data : List (Option Byte)) (k : Nat) : Word × BitVec 4 :=
  let at_ (i : Nat) : Option Byte := if a ≤ 4 * k + i then (data.getD (4 * k + i - a) none) else none
  (BitVec.ofNat 32 ([0, 1, 2, 3].foldl (fun m i => m + ((at_ i).getD 0).toNat * 256 ^ i) 0),
    BitVec.ofNat 4 (maskOf ([0, 1, 2, 3].filter (fun i => (at_ i).isSome))))

/-- Registers written in rising order, each by a write that reaches it as `put` says. -/
def State.writeRegs (s : State) (a : Nat) (data : List (Option Byte)) (put : State → Nat → Word → BitVec 4 → State) : State :=
  (dwordsOf a data.length).foldl (fun t k =>
    let x := writeLanes a data k
    if x.2 = 0 then t else put t (4 * k) x.1 x.2) s

/-! Register commands. -/

/-- A dword-aligned register address, or an address of no register. -/
def regAligned (a : Nat) : Bool := (regLoc a).isSome && a % 4 == 0

/-- An address that is no register is outside the map of BAR0: a write is discarded and logged (R51, R56). -/
def State.outside (s : State) (port a : Nat) : State := s.violation 0x03 port 0 0 (a % 2 ^ 42)

/-- Bytes of datalog records that lie over registers are written there (R48, R398, log entry 71). -/
def State.putRecordRegs (s : State) : State :=
  s.flowRegs.foldl (fun t x =>
    if t.fencedAt x.1 then t
    else t.writeRegs x.1 (x.2.map some) (fun u k v be => u.writeReg byEngine k v be [])) { s with flowRegs := [] }

/-- The state `t` that a command leaves from `s`: what it has put into the datalog over registers is written there (R48, log entry 71). -/
def State.putNewRecords (t s : State) : State := if t.flowRegs = s.flowRegs then t else t.putRecordRegs

/-- REGISTER_WRITE: a partner's narrow or whole write of one register (R20, R452). -/
def execRegisterWrite (port : PortNo) (addr : Nat) (value : Word) (be : BitVec 4) (finds : Finds) (s : State) :
    Host.Outcome State Fault Refusal :=
  ok (if regAligned addr then s.reach port.val addr (fun s => (s.writeReg port.val addr value be finds).putNewRecords s)
    else s.outside port.val addr)

/-- UNIT_MASK_WRITE: PIN_MASK acts at the next tenon boundary, EN_MASK on the next START of an engine (R33, R36). -/
def execUnitMaskWrite (port : PortNo) (c : ClNo) (value : Word) (be : BitVec 4) (s : State) :
    Host.Outcome State Fault Refusal :=
  let a := SYS_UNIT_MASK c.val
  ok (s.reach port.val a (fun s => (s.partnerWrite a value be).sendPin a ((s.partnerWrite a value be).reg a)))

/-- GT_LO_READ: a partner reads a _LO register of a pair (R72). -/
def execGtLoRead (port : PortNo) (addr : Nat) (s : State) : Host.Outcome State Fault Refusal :=
  match pairHi addr with
  | some hi => ok (s.readReach port.val addr (s.pairRead addr hi))
  | none => ok s

/-- The bytes of a word that byte enables let through. -/
def enabledBytes (w : Word) (be : BitVec 4) : Word := w &&& beMask be

/-- The RC bits of a register after a read that coincides with a hardware update: the reset fields with the update applied. `coinciding`
gives them, the reset value where no update coincides; MIN_LEVEL, which takes the lowest lead, never rises above its reset value (R21,
Table 2-5). -/
def coincided (a rc : Nat) (coinciding : Nat) : Word :=
  let w := BitVec.ofNat 32 coinciding
  let w := match regLoc a with
    | some l => if l.win = 0 ∧ a = TMG_LEAD l.num then setF w TMG_LEAD_MIN_LEVEL (min (getF w TMG_LEAD_MIN_LEVEL) 512) else w
    | none => w
  w &&& BitVec.ofNat 32 rc

/-- RC_FIELD_READ: RC fields return their values and reset; a hardware update that coincides is applied to the reset field; a read with
no byte enabled has no effect (R19, R21, R452). -/
def execRcFieldRead (port : PortNo) (addr : Nat) (be : BitVec 4) (coinciding : Nat) (s : State) :
    Host.Outcome State Fault Refusal :=
  if regAligned addr = false then ok s
  else if be = 0 then ok (s.readReach port.val addr (0, s))
  else
    let r := s.readReg addr
    let rc := ((regRow addr).map (·.rc)).getD 0
    let t := r.2.setReg addr (r.2.reg addr &&& ~~~(BitVec.ofNat 32 rc) ||| coincided addr rc coinciding)
    ok (s.readReach port.val addr (enabledBytes r.1 be, if rc = 0 then r.2 else t))

/-! Memory (R335, R336, R352, R488). -/

/-- Whether a write of bytes within one line leaves a protected word of 64 bits partly unwritten, so that the word is read first
(R333, R352). -/
def partWord (a : Nat) (l : List (Option Byte)) : Bool :=
  let on (i : Nat) : Bool := decide (a ≤ i) && (l.getD (i - a) none).isSome
  (List.range 8).any (fun w =>
    let bytes := (List.range 8).map (fun i => on (a / 64 * 64 + 8 * w + i))
    bytes.any id && !bytes.all id)

/-- Bytes within one line stored with byte enables, with poison when what is written carries it: a line of the shared flow space is taken
first, then the read of a partly written word may find an error (R335, R352, R376, R488). -/
def State.storePiece (s : State) (a : Nat) (l : List (Option Byte)) (bad : Bool) (finds : Finds) : State :=
  let read (t : State) : State := if partWord a l then t.eccRead (a / 64 * 64) finds 1 else t
  if isFlow a then
    match (s.meetFlow a l.length finds).flowWrite (flowLine a) with
    | some t => (read t).storeOpt a l bad
    | none => s.storeOpt a l bad
  else (read s).storeOpt a l bad

/-- Bytes stored line by line with byte enables. -/
def State.storeBytes (s : State) (a : Nat) (l : List (Option Byte)) (bad : Bool) (finds : Finds) : State :=
  (linesOf a l.length).foldl (fun t k =>
    let lo := max a (64 * k)
    let hi := min (a + l.length) (64 * k + 64)
    t.storePiece lo ((l.drop (lo - a)).take (hi - lo)) bad finds) s

/-- A cache fetches a line of the shared flow space for reading with what its home or owner returns, when it does not hold it; none while
it must wait for that. A home or owner that cannot be reached returns an error: the line is not held then, or it is lost (R488, R489,
R492). -/
def State.flowFetch (s : State) (l : Nat) (reply : Payload) : Option State :=
  match s.flowRead l with
  | some t => some t
  | none =>
    if s.storeWaits l then none
    else if s.isHome l then
      match s.busyOf l, s.dirOf l, reply with
      | none, .x _, .error => some ((s.loseLine l).grantShared l s.pkgId 0)
      | none, .x o, _ =>
        if wholeLine reply then some (((s.setHomeData l reply).fillLine l .s reply).setDir l (.s (setNBit (2 ^ o) s.pkgId true)))
        else none
      | _, _, _ => none
    else if reply = .error then some s
    else if wholeLine reply then some (s.fillLine l .s reply)
    else none

/-- The reply for the next line that misses, and those for the lines after it. -/
def nextReply : Payload → Payload × Payload
  | .data l => (.data (l.take 64), .data (l.drop 64))
  | x => (x, x)

/-- Every line of a range of the shared flow space is held for reading; `replies` are the 64 B replies of those that miss, in order, or
the news that these lines are poisoned or cannot be reached. -/
def State.flowFetchAll (s : State) : List Nat → Payload → Option State
  | [], _ => some s
  | l :: ls, replies =>
    if (s.flowRead l).isSome then (s.flowFetch l noData).bind (fun t => t.flowFetchAll ls replies)
    else (s.flowFetch l (nextReply replies).1).bind (fun t => t.flowFetchAll ls (nextReply replies).2)

/-- The lines of the shared flow space that a range touches. -/
def flowLines (a n : Nat) : List Nat := (linesOf a n).map (fun k => k - 0x30300000000 / 64)

/-- Whether this package's cache lacks a line of the shared flow space that a range touches. -/
def State.flowLacks (s : State) (a n : Nat) : Bool := isFlow a && (flowLines a n).any (fun l => (s.cline l).st == .i)

/-- Whether an address lies in an on-die array whose repair map boot has still to apply: no access reaches it before that (R348, R517,
log entry 83). -/
def State.repairDue (s : State) (a : Nat) : Bool :=
  decide (s.boot.phase < 4) && match addrKind a with
    | .scratch _ => true
    | .regionSram _ => true
    | .hubSram => true
    | .flow _ => true
    | .secure => true
    | _ => false

/-- A demand read of n bytes of package memory (R335, R336, R338): bytes, the news that a line is poisoned, or an error; none while it must
wait. -/
def State.readMem (s : State) (a n : Nat) (finds : Finds) (replies : Payload) : Option (Payload × State) :=
  if !s.readOk a n then some (.error, s)
  else if s.repairDue a then none
  else
    (if isFlow a then (s.meetFlow a n finds).flowFetchAll (flowLines a n) replies else some s).map (fun t =>
      if t.flowLacks a n then (.error, t)
      else
        let t := t.meet a n finds 1
        (payloadOf (t.anyPoison a n) (t.loadAll a n), t))

/-! Partner ports. -/

/-- The system address of BAR2 offset o of a port (R448). -/
def State.bar2 (s : State) (port o : Nat) : Nat := s.fld (PRT_BAR2 port) PRT_BAR2_BASE * 2 ^ 30 + o

/-- A partner's write of bytes at a package-local address (R42, R51, R353, R434, R435, R449, R453). -/
def State.localWrite (s : State) (port a : Nat) (data : List (Option Byte)) (finds : Finds) : State :=
  match addrKind a with
  | .register =>
    if 64 < data.length then s.violation 0x03 port 0 0 a
    else (s.writeRegs a data (fun t k v be => t.portWriteReg port k v be finds)).putNewRecords s
  | .secure => s.violation 0x04 port 0 0 a
  | .unmapped => s.violation 0x03 port 0 0 a
  | _ =>
    if s.writeBarred a then s.violation 0x01 port 0 0 a
    else if s.busErrorAt a || s.busErrorAt (a + data.length - 1) then
      (match addrKind a with
        | .expansion _ => s.violation 0x03 port 0 0 a
        | _ => s)
    else s.storeBytes a data false finds

/-- Whether a request of n bytes at a package-local address is a register request longer than 64 B (R453). -/
def oversized (a n : Nat) : Bool := addrKind a == .register && decide (64 < n)

/-- PARTNER_MEMORY_WRITE: a BAR2 write (R448, R449). One that leaves the package, or that names an absent one, is barred during boot and
after its failure as well (R434, R435), and a register request longer than 64 B stays here (R453). -/
def execPartnerMemoryWrite (port : PortNo) (offset : Nat) (data : List (Option Byte)) (finds : Finds) (s : State) :
    Host.Outcome State Fault Refusal :=
  let a := s.bar2 port.val offset
  if data = [] then ok s
  else if 2 ^ 46 ≤ a then ok (s.violation 0x03 port.val 0 0 (a % 2 ^ 42))
  else match s.resolve a with
    | .here l => ok (s.localWrite port.val l data finds)
    | .remote p l =>
      ok (if s.writeBarred 0 then s.violation 0x01 port.val 0 0 l
        else if oversized l data.length then s.violation 0x03 port.val 0 0 l
        else s.send (.remoteWrite p l data false))
    | .absent => ok (if s.writeBarred 0 then s.violation 0x01 port.val 0 0 (a % 2 ^ 42) else s)

/-- The completion of a partner read (R336, R519): 0 data, 1 Completer Abort, 3 poisoned data. -/
def State.complete64 (s : State) (port n : Nat) (r : Payload) : State :=
  match r with
  | .data l => s.send (.completion port 0 l)
  | .poisoned => s.send (.completion port 3 (List.replicate n 0xFF))
  | .error => s.send (.completion port 1 [])

/-- A partner's read of n bytes at a package-local address; one that must wait is made again. -/
def State.localRead (s : State) (port a n : Nat) (finds : Finds) (replies : Payload) : State :=
  match addrKind a with
  | .register =>
    if 64 < n then (s.violation 0x03 port 0 0 a).complete64 port n .error
    else if s.fencedAt a then s.complete64 port n .error
    else
      let r := s.readRegs a n
      r.2.complete64 port n (.data r.1)
  | .secure => (s.violation 0x04 port 0 0 a).complete64 port n .error
  | _ => (s.readMem a n finds replies).elim s (fun r => r.2.complete64 port n r.1)

/-- What another package returns for a read of n bytes; data of another length is an error. -/
def replyOf (n : Nat) : Payload → Payload
  | .data l => if l.length = n then .data l else .error
  | x => x

/-- PARTNER_MEMORY_READ: a BAR2 read (R336, R448, R519). `remote` is what another package returns, or the 64 B replies of shared flow
space lines that miss; a read with no byte enabled returns 0 (R452). -/
def execPartnerMemoryRead (port : PortNo) (offset : Nat) (len : Nat) (finds : Finds) (remote : Payload) (s : State) :
    Host.Outcome State Fault Refusal :=
  let a := s.bar2 port.val offset
  if len = 0 then ok (s.complete64 port.val 4 (.data (List.replicate 4 0)))
  else if 2 ^ 46 ≤ a then ok ((s.violation 0x03 port.val 0 0 (a % 2 ^ 42)).complete64 port.val len .error)
  else match s.resolve a with
    | .here l => ok (s.localRead port.val l len finds remote)
    | .remote _ l =>
      if oversized l len then ok ((s.violation 0x03 port.val 0 0 l).complete64 port.val len .error)
      else ok (s.complete64 port.val len (replyOf len remote))
    | .absent => ok (s.complete64 port.val len .error)

/-- PARTNER_READ_TIMEOUT: a read that did not complete within 65,536 st (R450). -/
def execPartnerReadTimeout (port : PortNo) (addr : Nat) (s : State) : Host.Outcome State Fault Refusal :=
  ok ((s.violation 0x03 port.val 0 0 (addr % 2 ^ 42)).complete64 port.val 4 .error)

/-- OVERSIZED_REGISTER_REQUEST: a register request longer than 64 B is not performed (R453). -/
def execOversizedRegisterRequest (port : PortNo) (addr : Nat) (isWrite : Bool) (s : State) :
    Host.Outcome State Fault Refusal :=
  let t := s.violation 0x03 port.val 0 0 (addr % 2 ^ 42)
  ok (if isWrite then t else t.complete64 port.val 64 .error)

/-- ATOMICOP_REQUEST: answered with Unsupported Request (R446). -/
def execAtomicopRequest (port : PortNo) (s : State) : Host.Outcome State Fault Refusal :=
  ok (s.send (.completion port.val 2 []))

/-- EVT_RPTR_WRITE: a partner writes PRT_EVT_RPTR of port n (R458). -/
def execEvtRptrWrite (port n : PortNo) (value : Word) (s : State) : Host.Outcome State Fault Refusal :=
  ok (s.reach port.val (PRT_EVT_RPTR n.val) (fun s => s.evtRelease n.val value))

/-- PARTNER_LINK_TRAINED: a port trains at a rate and width, or drops with rate 0; PRT_LINK follows (R446). -/
def execPartnerLinkTrained (port : PortNo) (rate : Fin 7) (width : Fin 3) (s : State) : Host.Outcome State Fault Refusal :=
  let a := PRT_LINK port.val
  if rate.val = 0 then
    ok (((s.setFld a PRT_LINK_UP 0).setFld a PRT_LINK_RATE 0).setFld a PRT_LINK_WIDTH 0)
  else if width.val = 0 then ok s
  else ok (((s.setFld a PRT_LINK_UP 1).setFld a PRT_LINK_RATE rate.val).setFld a PRT_LINK_WIDTH width.val)

/-- EXPANSION_LINK_CHANGE: the capacity that the device on X n reports, in whole lines and at most 256 GiB; 0 while the link is down
(R51). -/
def execExpansionLinkChange (x : ExpNo) (up : Bool) (bytes : Nat) (s : State) : Host.Outcome State Fault Refusal :=
  ok { s with expCap := tput (fun _ => 0) s.expCap x.val (if up then min 0x4000000000 (bytes / 64 * 64) else 0) }

/-! Accesses of other packages (R55). -/

/-- A write of another package at a local address, with the poison of the line that it carries (R376); the answer tells whether it was
served. -/
def State.remoteWriteHere (s : State) (pkg a : Nat) (data : List (Option Byte)) (poison : Bool) (finds : Finds) : Bool × State :=
  match addrKind a with
  | .register =>
    if 64 < data.length then (false, s.violation 0x03 (fromPackage pkg) pkg 0 a)
    else if s.fencedAt a then (false, s)
    else (true, (s.writeRegs a data (fun t k v be => t.writeReg (fromPackage pkg) k v be finds)).putNewRecords s)
  | .unmapped => (false, s.violation 0x03 (fromPackage pkg) pkg 0 a)
  | .secure => (false, s.violation 0x04 (fromPackage pkg) pkg 0 a)
  | _ =>
    if s.busErrorAt a || s.busErrorAt (a + data.length - 1) then (false, s)
    else (true, s.storeBytes a data poison finds)

/-- A read of another package at a local address: what is returned. -/
def State.remoteReadHere (s : State) (pkg a n : Nat) (finds : Finds) : Payload × State :=
  match addrKind a with
  | .register =>
    if 64 < n then (.error, s.violation 0x03 (fromPackage pkg) pkg 0 a)
    else if s.fencedAt a then (.error, s)
    else (.data (s.readRegs a n).1, (s.readRegs a n).2)
  | .secure => (.error, s.violation 0x04 (fromPackage pkg) pkg 0 a)
  | .unmapped => (.error, s.violation 0x03 (fromPackage pkg) pkg 0 a)
  | _ => (s.readMem a n finds .error).getD (.error, s)

/-- REMOTE_ACCESS: an access of another package is served locally; one to the secure scratchpad is an error, which is logged with PORT 11
(R55, Table 17-2). With no data it is a read of `len` bytes. -/
def execRemoteAccess (fromPkg : PkgNo) (addr : Nat) (data : List (Option Byte)) (len : Nat) (poison : Bool) (finds : Finds)
    (s : State) : Host.Outcome State Fault Refusal :=
  let a := addr % 2 ^ 42
  if data = [] then
    let r := s.remoteReadHere fromPkg.val a len finds
    ok (r.2.send (.remoteReply fromPkg.val r.1))
  else
    let r := s.remoteWriteHere fromPkg.val a data poison finds
    ok (r.2.send (.remoteReply fromPkg.val (if r.1 then noData else .error)))

end Sys2Proof.Machine
end

