-- ==== Sys2Proof/Machine/Entries.lean ====
section
/-! DEFINITION. The entries of a flow table (R385-R395), Bench and its summaries (R401-R403, R503). -/

namespace Sys2Proof.Machine

/-! Commands of the datalog ring and of insertions. -/

/-- LOG_RPTR_WRITE (R398, R400). -/
def execLogRptrWrite (port : PortNo) (value : Word) (s : State) : Host.Outcome State Fault Refusal :=
  ok (s.reach port.val FLW_LOG_RPTR (fun s => (s.logRelease value).putNewRecords s))

/-- FLOW_GO. -/
def execFlowGo (port : PortNo) (n : FlowNo) (s : State) : Host.Outcome State Fault Refusal :=
  ok (s.reach port.val (FLW_CTRL n.val) (fun s => (s.goCommand port.val n.val).putNewRecords s))

/-- FLOW_START_FLAG: with START_SRC 1 the engine finds its package flag set, clears it and starts an insertion (R384). -/
def execFlowStartFlag (n : FlowNo) (s : State) : Host.Outcome State Fault Refusal :=
  let f := pkgFlag (s.fld (FLW_CTRL n.val) FLW_CTRL_START_FLAG)
  if s.fld (FLW_CTRL n.val) FLW_CTRL_START_SRC = 1 ∧ s.flag f ∧ s.cannotInsert n.val = false then
    ok (((s.setFlag f false).insertion n.val).putNewRecords s)
  else ok s

/-! Entries (R385, R387, R394). -/

/-- A number of k bytes at byte i of an entry. -/
def FlowEntry.num (x : FlowEntry) (i k : Nat) : Nat := ofLe ((x.bytes.drop i).take k)
/-- A signed 64-bit number at byte i. -/
def FlowEntry.int (x : FlowEntry) (i : Nat) : Int := sx 64 (x.num i 8)
/-- KIND. -/
def FlowEntry.kind (x : FlowEntry) : Nat := x.num 0 1
/-- STEP_END. -/
def FlowEntry.stepEnd (x : FlowEntry) : Bool := nbit (x.num 1 1) 0
/-- LOG. -/
def FlowEntry.log (x : FlowEntry) : Bool := nbit (x.num 1 1) 1
/-- TEST. -/
def FlowEntry.test (x : FlowEntry) : Nat := x.num 2 2
/-- SLOT: 0 to 15. -/
def FlowEntry.slot (x : FlowEntry) : Nat := x.num 4 1 % 16
/-- The field values of a header are known: two FLAGS, and a SLOT that a site has (Table 14-1; log entry 76). -/
def FlowEntry.headGood (x : FlowEntry) : Bool := decide (x.num 1 1 < 4) && decide (x.num 4 1 < 16)

/-- The table address of engine n. -/
def State.flowTable (s : State) (n : Nat) : Nat :=
  s.fld (FLW_TABLE_LO n) FLW_TABLE_LO_BASE * 64 + s.fld (FLW_TABLE_HI n) FLW_TABLE_HI_BASE * 2 ^ 32

/-- The sites of engine n that are not done and the lowest pointer among them (R385). -/
def State.nextEntry (s : State) (n : Nat) : Option (Nat × List Nat) :=
  let l := (s.inserted n).filter (fun k => !s.bit (FLW_SITE_STAT k) FLW_SITE_STAT_DONE)
  match l with
  | [] => none
  | k :: _ =>
    let p := l.foldl (fun m j => min m (s.site j).ptr) (s.site k).ptr
    some (p, l.filter (fun j => (s.site j).ptr == p))

/-- Every site of the entry in progress, in ascending order. -/
def State.eachSite (s : State) (x : FlowEntry) (act : State → Nat → State) : State := x.sites.foldl act s

/-- An entry begins: its sites are held in a flow step and go on with the next entry unless it says otherwise (R386, R387). -/
def State.entryBegin (s : State) (n : Nat) (x : FlowEntry) : State :=
  let t := (s.setFld (FLW_STAT n) FLW_STAT_ENTRY x.idx).setFlow n { entry := some x, waiting := .done }
  x.sites.foldl (fun t k => (t.updSite k (fun y => { y with next := y.ptr + 1 })).stepHold k true) t

/-- Engine n executes the entry at its lowest pointer if it is of the wanted KIND; a table read that fails, an unknown KIND and a wrong
field value are entry errors of every site of the step, whichever KIND is wanted (R385, R394). A read that must wait for the shared
flow space waits. -/
def State.flowEntry (s : State) (n kind : Nat) (finds : Finds) (good : FlowEntry → Bool) (act : FlowEntry → State → State) : State :=
  if s.flowOn n && (s.flow n).entry.isNone && !s.bit (FLW_STAT n) FLW_STAT_LOGWAIT then
    match s.nextEntry n with
    | none => s
    | some (i, sites) =>
      let a := s.flowTable n + 64 * i
      let fails (code : Nat) (t : State) : State :=
        let x : FlowEntry := ⟨i, sites, []⟩
        (t.entryBegin n x).eachSite x (fun t k => t.siteError n k 0 code)
      match s.engRead a 64 finds with
      | none => s
      | some (.error, t) => fails codeBusError t
      | some (.poisoned, t) => fails codePoison t
      | some (.data bytes, t) =>
        let x : FlowEntry := ⟨i, sites, bytes⟩
        if x.kind = 0 ∨ 10 < x.kind then
          (t.entryBegin n x).eachSite x (fun u k => u.siteViolation n k x.test 0x05 i)
        else if x.kind ≠ kind then s
        else if x.headGood && good x then act x (t.entryBegin n x)
        else (t.entryBegin n x).eachSite x (fun u k => u.siteViolation n k x.test 0x05 i)
  else s

/-- The entry of a command is executed, and what it puts into the datalog over registers is written there. -/
def State.flowRun (s : State) (n kind : Nat) (finds : Finds) (good : FlowEntry → Bool) (act : FlowEntry → State → State) : State :=
  (s.flowEntry n kind finds good act).putNewRecords s

/-- What an entry in progress waits for. -/
def State.flowWaits (s : State) (n : Nat) (w : FlowWaitFor) : State := s.updFlow n (fun f => { f with waiting := w })

/-- The sites still served by the entry in progress of engine n. -/
def State.servedSites (s : State) (n : Nat) : List Nat :=
  match (s.flow n).entry with
  | some x => x.sites
  | none => []

/-- Sites with a cluster that lacks a mode take an entry error (R394). -/
def State.needMode (s : State) (n : Nat) (x : FlowEntry) (m : Nat) : State :=
  s.eachSite x (fun t k =>
    if (t.siteClusters k).all (fun c => t.hasMode c m) then t else t.siteViolation n k x.test 0x02 x.idx)

/-- Sites with a cluster in a fenced region take an entry error: the entry's accesses to its registers end in a bus error (R42, log
entry 70). -/
def State.needReach (s : State) (n : Nat) (x : FlowEntry) : State :=
  (s.servedSites n).foldl (fun t k =>
    if (t.siteClusters k).any (fun c => (t.rg (c / 8)).fenced) then t.siteError n k x.test codeBusError else t) s

/-! PATTERN (R388). -/

/-- The engines of the run of a PATTERN entry. -/
def State.patternEngines (s : State) (x : FlowEntry) (sites : List Nat) : List Nat :=
  (sites.flatMap s.siteClusters).flatMap (fun c => (bitsOf 4 (x.num 18 1)).map (· + 4 * c))

/-- The registers that a PATTERN entry writes before START. -/
def State.patternSetup (s : State) (x : FlowEntry) (cs : List Nat) : State :=
  let vform := nbit (x.num 19 1) 0
  let low := cs.foldl min (cs.headD 0)
  cs.foldl (fun t c =>
    let t := (t.partnerWrite (VNR_BUNDLE_LO c) (BitVec.ofNat 32 (x.num 8 4)) 15).partnerWrite (VNR_BUNDLE_HI c)
      (BitVec.ofNat 32 (x.num 12 4)) 15
    (bitsOf 4 (x.num 18 1)).foldl (fun t i =>
      let a := ENG_CTRL c i
      let t := (t.setFld a ENG_CTRL_START_ADDR (x.num 16 2)).setBit a ENG_CTRL_VFORM vform
      if vform then t.setFld a ENG_CTRL_LEAD (4 * low + x.num 20 1) else t) t) s

/-- The run of a PATTERN entry forms, or is refused with the code of its first refused engine (R36, R409, R388). -/
def State.patternRun (s : State) (n : Nat) (x : FlowEntry) : State :=
  let sites := s.servedSites n
  let cs := sites.flatMap s.siteClusters
  let es := s.patternEngines x sites
  let t := s.patternSetup x cs
  let refusal (e : Nat) : Option Nat := if (t.eng e).run.isSome then some codeViolation else t.startRefusal e
  match es.findSome? refusal with
  | some code =>
    let u := es.foldl (fun u e => match refusal e with
      | some k => u.refuseStart byEngine e k
      | none => u) t
    sites.foldl (fun u k => u.siteError n k x.test code) u
  | none =>
    let r := t.newRun (some n)
    let u := es.foldl (fun u e => (u.setFld (ENG_DL_WAIT (engCl e) (e % 4)) ENG_DL_WAIT_VALID 0).joinRun e r.1)
      (r.2.updRun r.1 (fun y => { y with engines := es }))
    if sites.isEmpty then u else u.flowWaits n (.run r.1 cs [])

/-- The field values of a PATTERN entry are known: a V address has 16 bits (R207), the address of an H-form word 14. -/
def patternGood (x : FlowEntry) : Bool :=
  (nbit (x.num 19 1) 0 || decide (x.num 16 2 < 16384)) && x.num 18 1 != 0 && decide (x.num 18 1 < 16) && decide (x.num 19 1 < 2) && decide (x.num 20 1 < 4)

/-- PATTERN (R388). A reload that quiesces an engine of the run holds the entry (R340). -/
def execPattern (n : FlowNo) (finds : Finds) (s : State) : Host.Outcome State Fault Refusal :=
  ok (s.flowRun n.val 1 finds patternGood (fun x t =>
    let u := (t.needMode n.val x 0).needReach n.val x
    if (u.servedSites n.val).isEmpty then u
    else if (u.patternEngines x (u.servedSites n.val)).any u.quiesced then s
    else u.patternRun n.val x))

/-- A run that a PATTERN entry waits for has ended in every cluster: values, FAIL, or entry errors (R388, R394). -/
def State.patternDone (s : State) (n : Nat) (x : FlowEntry) (res : List (Nat × Nat × Nat × Nat)) : State :=
  x.sites.foldl (fun t k =>
    let mine := res.filter (fun y => (t.siteClusters k).contains y.1)
    match mine.find? (fun y => y.2.1 != codeOk) with
    | some y => t.siteError n k x.test y.2.1
    | none =>
      let u := t.setVal k x.slot ((mine.map (fun y => y.2.2.2)).sum : Nat)
      if mine.any (fun y => y.2.2.1 != 0) then u.setBit (FLW_SITE_STAT k) FLW_SITE_STAT_FAIL true else u) s

/-! MEASURE (R389). -/

/-- The pins of a site that a MEASURE entry measures. -/
def State.measurePins (s : State) (x : FlowEntry) (site : Nat) : List Nat :=
  ((s.sitePins site).drop (x.num 8 2)).take (x.num 10 2)

/-- The field values of a MEASURE entry are known. -/
def measureGood (x : FlowEntry) : Bool :=
  decide (x.num 12 1 < 4) && decide (x.num 13 1 < 8) && decide (x.num 20 1 < 16) && x.num 10 2 != 0

/-- The PPMU settings of a pin are written (R285, R389). -/
def State.measureSet (s : State) (x : FlowEntry) (p : Nat) : State :=
  let c := pinCl p
  let u := pinUnit p
  let t := (s.setFld (PMU_CTRL c u) PMU_CTRL_MODE (x.num 12 1)).setFld (PMU_CTRL c u) PMU_CTRL_RANGE (x.num 13 1)
  let t := t.setFld (PMU_FORCE c u) PMU_FORCE_FORCE (x.num 14 2)
  (t.sendAct byEngine (PMU_CTRL c u) (t.reg (PMU_CTRL c u))).sendAct byEngine (PMU_FORCE c u) (t.reg (PMU_FORCE c u))

/-- MEASURE: a pin range that a site does not have is an unknown field value (R389, R394). -/
def execMeasure (n : FlowNo) (finds : Finds) (s : State) : Host.Outcome State Fault Refusal :=
  ok (s.flowRun n.val 2 finds measureGood (fun x t =>
    let t := (t.needMode n.val x 3).needReach n.val x
    let t := (t.servedSites n.val).foldl (fun u k =>
      if (u.sitePins k).length < x.num 8 2 + x.num 10 2 then u.siteViolation n.val k x.test 0x05 x.idx else u) t
    let pins := (t.servedSites n.val).flatMap (t.measurePins x)
    (pins.foldl (fun u p => u.measureSet x p) t).flowWaits n.val (.measure (x.num 16 4) pins [])))

/-- A PARAM record of a site (Table 14-4). -/
def State.paramRecord (s : State) (n site : Nat) (x : FlowEntry) (lo hi : Int) (flags : Nat) : State :=
  let a := FLW_SITE_STAT site
  s.logEmit (s.recHead 2 3 n site x.test ++ leBytes 8 (ux 64 (s.val site x.slot)) ++ leBytes 8 (ux 64 lo) ++
    leBytes 8 (ux 64 hi) ++ leBytes 1 flags ++ leBytes 1 (s.fld a FLW_SITE_STAT_HBIN) ++
    leBytes 2 (s.fld a FLW_SITE_STAT_SBIN) ++ leBytes 4 0)

/-- Every pin of a MEASURE entry has been converted: the extremes of each site (R389). -/
def State.measureDone (s : State) (n : Nat) (x : FlowEntry) (res : List (Nat × Int)) : State :=
  x.sites.foldl (fun t k =>
    let vs := (res.filter (fun y => (t.measurePins x k).contains y.1)).map (·.2)
    let u := (t.setVal k x.slot (vs.foldl max (vs.headD 0))).setVal k ((x.slot + 1) % 16) (vs.foldl min (vs.headD 0))
    if x.log then u.paramRecord n k x 0 0 0 else u) s

/-! LIMIT (R390). -/

/-- How an access of an entry to the shared flow space ends, with the state that it leaves, or none while it must wait (R336, R338, R393,
R394). A shared address with bits above bit 41 is outside the map: it is taken as a package-local one, without the package ID bits of a
system address (R54; DESIGN CHOICE, log entry 72). -/
def State.sharedRead (s : State) (a n : Nat) (write : Bool) (finds : Finds) : Option (Payload × State) :=
  if !isFlow a || !isFlow (a + n - 1) || !(if write then s.memOk a n else s.readOk a n) then some (.error, s)
  else ((s.meetFlow a n finds).flowTake a n write).map (fun t =>
    let t := t.meet a n finds 1
    (payloadOf (t.anyPoison a n) (t.loadAll a n), t))

/-- An access to the shared flow space that fails is an entry error of every site of the step; one that succeeds goes on (R394). -/
def State.sharedThen (n : Nat) (x : FlowEntry) (r : Payload × State)
    (act : List Byte → State → State) : State :=
  match r.1 with
  | .error => r.2.eachSite x (fun u k => u.siteError n k x.test codeBusError)
  | .poisoned => r.2.eachSite x (fun u k => u.siteError n k x.test codePoison)
  | .data b => act b r.2

/-- The field values of a LIMIT entry are known. -/
def limitGood (x : FlowEntry) : Bool :=
  decide (x.num 24 1 < 16) && decide (x.num 25 1 < 32) && decide (x.num 26 2 < 1024)

/-- A LIMIT entry checks one site. -/
def State.limitSite (s : State) (n : Nat) (x : FlowEntry) (lo hi : Int) (site : Nat) : State :=
  let f := x.num 24 1
  let a := FLW_SITE_STAT site
  let v := s.val site x.slot
  let fail := (nbit f 0 && decide (v < lo)) || (nbit f 1 && decide (hi < v))
  let t := if fail then
      let t := s.setBit a FLW_SITE_STAT_FAIL true
      if s.bit a FLW_SITE_STAT_BINNED then t
      else ((t.setFld a FLW_SITE_STAT_HBIN (x.num 25 1)).setFld a FLW_SITE_STAT_SBIN (x.num 26 2)).setBit a
        FLW_SITE_STAT_BINNED true
    else s
  if x.log then t.paramRecord n site x lo hi ((if fail then 1 else 0) + (if nbit f 0 then 2 else 0) + (if nbit f 1 then 4 else 0))
  else t

/-- A LIMIT entry checks its sites, and with STOP its failing sites go to END after its records. -/
def State.limitAll (s : State) (n : Nat) (x : FlowEntry) (lo hi : Int) : State :=
  let f := x.num 24 1
  let bad (k : Nat) : Bool := (nbit f 0 && decide (s.val k x.slot < lo)) || (nbit f 1 && decide (hi < s.val k x.slot))
  let t := x.sites.foldl (fun t k => t.limitSite n x lo hi k) s
  if nbit f 3 then (x.sites.filter bad).foldl (fun t k => t.siteEnd n k x.test false) t else t

/-- LIMIT (R390). -/
def execLimit (n : FlowNo) (finds : Finds) (s : State) : Host.Outcome State Fault Refusal :=
  ok (s.flowRun n.val 3 finds limitGood (fun x t =>
    if nbit (x.num 24 1) 2 then
      (t.sharedRead (x.num 32 8) 16 false finds).elim s (fun r =>
        State.sharedThen n.val x r (fun b u => u.limitAll n.val x (sx 64 (ofLe (b.take 8))) (sx 64 (ofLe (b.drop 8)))))
    else t.limitAll n.val x (x.int 8) (x.int 16)))

/-! BRANCH, BIN, LOG. -/

/-- Whether a BRANCH entry's COND holds for a site (Table 14-2). -/
def State.branchHolds (s : State) (x : FlowEntry) (site : Nat) : Bool :=
  let a := FLW_SITE_STAT site
  match x.num 10 1 with
  | 0 => true
  | 1 => s.bit a FLW_SITE_STAT_FAIL
  | 2 => !s.bit a FLW_SITE_STAT_FAIL
  | 3 => decide (s.val site x.slot < x.int 16)
  | 4 => decide (x.int 16 ≤ s.val site x.slot)
  | _ => decide (x.int 16 ≤ (s.fld a FLW_SITE_STAT_RETESTS : Int))

/-- BRANCH (R387). -/
def execBranch (n : FlowNo) (finds : Finds) (s : State) : Host.Outcome State Fault Refusal :=
  ok (s.flowRun n.val 4 finds (fun x => decide (x.num 10 1 < 6)) (fun x t => t.eachSite x (fun u k =>
    if u.branchHolds x k then u.updSite k (fun y => { y with next := x.num 8 2 }) else u)))

/-- BIN (R387). -/
def execBin (n : FlowNo) (finds : Finds) (s : State) : Host.Outcome State Fault Refusal :=
  ok (s.flowRun n.val 5 finds (fun x => decide (x.num 8 1 < 32) && decide (x.num 10 2 < 1024) && decide (x.num 12 1 < 2))
    (fun x t => t.eachSite x (fun u k =>
      let a := FLW_SITE_STAT k
      if u.bit a FLW_SITE_STAT_BINNED && !nbit (x.num 12 1) 0 then u
      else ((u.setFld a FLW_SITE_STAT_HBIN (x.num 8 1)).setFld a FLW_SITE_STAT_SBIN (x.num 10 2)).setBit a
        FLW_SITE_STAT_BINNED true)))

/-- LOG: a USER record (Table 14-4). -/
def execLog (n : FlowNo) (finds : Finds) (s : State) : Host.Outcome State Fault Refusal :=
  ok (s.flowRun n.val 6 finds (fun _ => true) (fun x t => t.eachSite x (fun u k =>
    u.logEmit (u.recHead 3 4 n.val k x.test ++ leBytes 8 (x.num 8 8) ++
      ([0, 1, 2, 3].flatMap (fun i => leBytes 8 (ux 64 (u.val k ((x.slot + i) % 16))))) ++ leBytes 8 0))))

/-! CAL, WAIT, SHARE, END. -/

/-- CAL: requests for every cluster of the sites; with WAIT the entry waits for them (R391). -/
def execCal (n : FlowNo) (finds : Finds) (s : State) : Host.Outcome State Fault Refusal :=
  ok (s.flowRun n.val 7 finds (fun x => decide (x.num 8 1 < 8)) (fun x t =>
    let f := x.num 8 1
    let t := t.needReach n.val x
    let cs := (t.servedSites n.val).flatMap t.siteClusters
    let u := cs.foldl (fun u c =>
      let u := if nbit f 0 then u.calRequest c .timing else u
      if nbit f 1 then u.calRequest c .dc else u) t
    if nbit f 2 then u.flowWaits n.val (.cal (nbit f 0) (nbit f 1) cs []) else u))

/-- Whether the calibrations of a CAL entry are over: no request of its kinds pending, no interruption in progress (R391). -/
def State.calsOver (s : State) (timing dc : Bool) (cs : List Nat) : Bool :=
  cs.all (fun c => !s.interrupted c && !(timing && s.bit (CAL_CTRL c) CAL_CTRL_REQ_T) && !(dc && s.bit (CAL_CTRL c) CAL_CTRL_REQ_DC))

/-- A CAL entry with WAIT completes: VAL[SLOT] counts the calibrations rejected or discarded (R391). -/
def State.calDone (s : State) (x : FlowEntry) (rejects : List Nat) : State :=
  x.sites.foldl (fun t k => t.setVal k x.slot ((rejects.filter (fun c => (t.siteClusters k).contains c)).length : Nat)) s

/-- FLOW_WAIT: a WAIT entry (R392). -/
def execFlowWait (n : FlowNo) (finds : Finds) (s : State) : Host.Outcome State Fault Refusal :=
  ok (s.flowRun n.val 8 finds (fun x => decide (x.num 8 1 < 3)) (fun x t =>
    t.flowWaits n.val (match x.num 8 1 with
      | 0 => .gt (t.gt + x.num 16 8)
      | 1 => .flag (pkgFlag (x.num 9 1))
      | _ => .cont)))

/-- A SHARE operation of one site on the word with the line held in M (R393). -/
def State.shareSite (s : State) (x : FlowEntry) (a site : Nat) : State :=
  let w := ofLe (s.loadAll a 8)
  match x.num 8 1 with
  | 0 => s.setVal site x.slot (sx 64 w)
  | 1 => s.storeAll a (leBytes 8 (ux 64 (s.val site x.slot)))
  | _ =>
    let v := (w + ux 64 (s.val site x.slot)) % 2 ^ 64
    (s.storeAll a (leBytes 8 v)).setVal site x.slot (sx 64 v)

/-- SHARE: an 8 B word of the shared flow space with its line exclusive; while the line cannot be taken the entry waits (R393). -/
def execShare (n : FlowNo) (finds : Finds) (s : State) : Host.Outcome State Fault Refusal :=
  ok (s.flowRun n.val 9 finds (fun x => decide (x.num 8 1 < 3)) (fun x t =>
    let a := x.num 16 8 / 8 * 8
    (t.sharedRead a 8 true finds).elim s (fun r =>
      State.sharedThen n.val x r (fun _ u => u.eachSite x (fun u k => u.shareSite x a k)))))

/-- END: every site of the step reaches END (R396). -/
def execEndEntry (n : FlowNo) (finds : Finds) (s : State) : Host.Outcome State Fault Refusal :=
  ok (s.flowRun n.val 10 finds (fun _ => true) (fun x t => t.eachSite x (fun u k => u.siteEnd n.val k x.test false)))

/-! Completion of an entry (R386, R395). -/

/-- What has to be done when the wait of an entry in progress is over at grain g; none while it is not. -/
def State.waitOver (s : State) (n g : Nat) (x : FlowEntry) : Option State :=
  match (s.flow n).waiting with
  | .none => none
  | .done => some s
  | .run _ cs res => if cs.all (fun c => res.any (fun y => y.1 == c)) then some (s.patternDone n x res) else none
  | .measure _ todo res => if todo.isEmpty then some (s.measureDone n x res) else none
  | .cal ti dc cs rej => if s.calsOver ti dc cs then some (s.calDone x rej) else none
  | .gt u => if u ≤ g then some s else none
  | .flag f => if s.flag f then some s else none
  | .cont => none

/-- The sites still served go on to their next entries; with STEP_END their flow step ends (R386, R387). -/
def State.advanceSites (s : State) (n : Nat) (x : FlowEntry) : State :=
  (s.servedSites n).foldl (fun t k =>
    let u := t.updSite k (fun y => { y with ptr := y.next })
    if x.stepEnd then u.stepHold k false else u) s

/-- The entry of engine n whose wait is over: it stays in progress while a writer of its records waits for room, else its sites go on, and
an insertion whose sites are all done completes with it (R395, R397, R400). -/
def State.entryOver (s : State) (n : Nat) (x : FlowEntry) : State :=
  if s.bit (FLW_STAT n) FLW_STAT_LOGWAIT then s.flowWaits n .done
  else ((s.advanceSites n x).setFlow n {}).insertionEnd n

/-- FLOW_ENTRY_COMPLETE: the entry in progress completes at grain g when nothing that it waits for is left, its records written (R386, R395,
R397, R400). -/
def execFlowEntryComplete (n : FlowNo) (g : Nat) (s : State) : Host.Outcome State Fault Refusal :=
  match (s.flow n.val).entry with
  | none => ok s
  | some x => ok (((s.at g).waitOver n.val g x).elim s (fun t => (t.entryOver n.val x).putNewRecords s))

/-! Bench (R401-R403). -/

/-- SUMMARY_ARRIVE: a cluster's oldest summary reaches Bench, or is kept while 256 wait; once none is kept a withheld fill report is made (R76,
R401, R503). -/
def execSummaryArrive (c : ClNo) (s : State) : Host.Outcome State Fault Refusal :=
  match (s.cl c.val).toSend with
  | [] => ok s
  | y :: l =>
    if s.bench.length < 256 then
      ok ((({ s with bench := s.bench ++ [y] }).updCl c.val (fun x => { x with toSend := l, kept := x.kept && !l.isEmpty })).reportFill
        c.val)
    else ok (s.updCl c.val (fun x => { x with kept := true }))

/-- The bytes of a cluster summary (Table 14-5). -/
def Summary.bytes (y : Summary) : List Byte :=
  leBytes 1 1 ++ leBytes 1 y.cluster ++ leBytes 1 y.endCode ++ leBytes 1 y.flags ++ leBytes 4 y.lowEng ++
  leBytes 8 (y.gt % 2 ^ 64) ++ leBytes 2 y.failPins ++ leBytes 2 y.tripPins ++ leBytes 4 (min y.failResults (2 ^ 32 - 1)) ++
  leBytes 8 y.firstFail ++ leBytes 4 y.records ++ leBytes 4 y.lost ++ leBytes 4 y.urLost ++ leBytes 2 y.minLead ++ List.replicate 18 0

/-- The waiting summary with the lowest cluster, and of these the one of the older run (R402). -/
def lowestSummary (l : List Summary) : Option Summary :=
  match l with
  | [] => none
  | y :: ys => some (ys.foldl (fun m z => if z.cluster < m.cluster ∨ (z.cluster = m.cluster ∧ z.run < m.run) then z else m) y)

/-- The site that holds a cluster, among the enabled sites. -/
def State.siteOfCluster (s : State) (c : Nat) : Option Nat :=
  (List.range 64).find? (fun k => s.siteOn k && nbit (s.siteMask k) c)

/-- The TEST of the PATTERN entry that started a run, 0 if none. -/
def State.testOf (s : State) (y : Summary) : Nat :=
  match y.flow with
  | some n => (match (s.flow n).waiting, (s.flow n).entry with
    | .run id _ _, some x => if id = y.run then x.test else 0
    | _, _ => 0)
  | none => 0

/-- The SUMMARY record of a summary (Table 14-3, Table 14-4). -/
def State.summaryRecord (s : State) (y : Summary) : List Byte :=
  match s.siteOfCluster y.cluster with
  | some k => s.recHead 5 5 (s.fld (FLW_SITE_CFG k) FLW_SITE_CFG_ENGINE) k (s.testOf y) ++ y.bytes
  | none => leBytes 1 5 ++ leBytes 1 5 ++ leBytes 2 (2 ^ 13) ++ leBytes 12 0 ++ y.bytes

/-- A summary is delivered to the PATTERN entry that started its run (R402). -/
def State.deliver (s : State) (y : Summary) : State :=
  match y.flow with
  | some n => s.updFlow n (fun f => match f.waiting with
    | .run id cs res =>
      if id = y.run then { f with waiting := .run id cs (res ++ [(y.cluster, y.endCode, y.failPins, y.failResults)]) } else f
    | _ => f)
  | none => s

/-- Bench may take under POLICY 0 only when the record fits (R402). -/
def State.benchReady (s : State) : Bool :=
  s.bit FLW_LOG_CFG FLW_LOG_CFG_POLICY || (s.logWait.isEmpty && s.logFits 80)

/-- BENCH_TAKE: the lowest cluster's oldest waiting summary is recorded and delivered (R402). -/
def execBenchTake (s : State) : Host.Outcome State Fault Refusal :=
  match lowestSummary s.bench with
  | none => ok s
  | some y =>
    if s.benchReady then
      let t := { s with bench := s.bench.erase y }
      ok (((t.logEmit (t.summaryRecord y)).deliver y).putNewRecords s)
    else ok s

/-- The waiting package summary with the lowest package ID. -/
def lowestPackage (l : List PkgSummary) : Option PkgSummary :=
  match l with
  | [] => none
  | y :: ys => some (ys.foldl (fun m z => if z.pkg < m.pkg then z else m) y)

/-- PACKAGE_SUMMARY_TAKE: the timing master's Bench records the waiting package summary with the lowest package ID; `arrived` are the
summaries of other packages that have come since the last take (R403). -/
def execPackageSummaryTake (arrived : List PkgSummary) (s : State) : Host.Outcome State Fault Refusal :=
  let s := if s.bit VYN_SYS_STAT VYN_SYS_STAT_IS_MASTER then { s with pkgBench := s.pkgBench ++ arrived } else s
  match lowestPackage s.pkgBench with
  | none => ok s
  | some y =>
    if s.bit VYN_SYS_STAT VYN_SYS_STAT_IS_MASTER && s.benchReady then
      let t := { s with pkgBench := s.pkgBench.erase y }
      ok ((t.logEmit (leBytes 1 6 ++ leBytes 1 5 ++ leBytes 2 (2 ^ 13 + y.pkg * 2 ^ 6 + y.flow * 2 ^ 10) ++
        leBytes 8 0 ++ leBytes 4 ((y.insert + (2 ^ 32 - 1)) % 2 ^ 32) ++ pkgBytes y)).putNewRecords s)
    else ok s

end Sys2Proof.Machine
end

