-- ==== Sys2Proof/Machine/Dma.lean ====
section
/-! DEFINITION. The DMA engines (R358-R380): descriptor fetches, the start of a burst, beats with pre-emption, and the completion of a
burst. -/

namespace Sys2Proof.Machine

/-! What a DMA engine reads and writes (R53-R55). -/

/-- A system address names the secure scratchpad of some package. -/
def isSecureSys (a : Nat) : Bool := addrKind (a % 2 ^ 42) == .secure

/-- Whether a system address leads to another package. -/
def State.isRemote (s : State) (a : Nat) : Bool :=
  match s.resolve a with
  | .remote _ _ => true
  | _ => false

/-- An access of the DMA to the secure scratchpad of this package is logged (R353); that of another package logs its own (R55). -/
def State.dmaSecure (s : State) (n a : Nat) : State :=
  match s.resolve a with
  | .here l => if isSecureSys a then s.violation 0x04 byDma 0 n l else s
  | _ => s

/-- What a read by a DMA engine gives: it must wait, it ends in a bus error, or it returns bytes, which are poisoned or not. -/
inductive DmaData where
  | waits
  | error
  | got (poison : Bool) (bytes : List Byte)
  deriving DecidableEq, Repr

/-- A read of k bytes at a system address, with the state that it leaves (R53, R336, R353, R376). `remote` is what another package
returns, or the replies of shared flow space lines that miss. A poisoned line gives its bytes when it lies here. -/
def State.dmaRead (s : State) (a k : Nat) (finds : Finds) (remote : Payload) : DmaData × State :=
  if isSecureSys a then (.error, s)
  else match s.resolve a with
  | .absent => (.error, s)
  | .remote _ _ =>
    match replyOf k remote with
      | .data l => (.got false l, s)
      | .poisoned => (.got true (List.replicate k 0), s)
      | .error => (.error, s)
  | .here l =>
    if addrKind l = .register then
      (if s.fencedAt l then (.error, s) else (.got false (s.readRegs l k).1, (s.readRegs l k).2))
    else match s.readMem l k finds remote with
      | some (.data d, t) => (.got false d, t)
      | some (.poisoned, t) => (.got true (t.loadAll l k), t)
      | some (.error, t) => (.error, t)
      | none => (.waits, s)

/-- Whether a write of n bytes within one line at a system address ends in a bus error: an absent package, an address outside memory
and registers, the secure scratchpad (R42, R51, R53, R353); `fails` tells that another package answers it with one. -/
def State.sysWriteBad (s : State) (a n : Nat) (fails : Bool) : Bool :=
  match s.resolve a with
  | .here l => isSecureSys a || (!s.memOk l n && !(addrKind l == .register && !s.fencedAt l))
  | .remote _ _ => isSecureSys a || fails
  | .absent => true

/-- Whether a write of 64 bytes at a system address ends in a bus error. -/
def State.dmaWriteBad (s : State) (a : Nat) (fails : Bool) : Bool :=
  s.sysWriteBad a (min 64 (64 - a % 64)) fails || s.sysWriteBad (a + 63) 1 fails

/-- A write of bytes at a system address that takes them; `poison` tells that they are a poisoned line, which stays one (R376). -/
def State.dmaWrite (s : State) (a : Nat) (l : List Byte) (finds : Finds) (poison : Bool) : State :=
  match s.resolve a with
  | .here k =>
    if addrKind k = .register then (s.writeRegs k (l.map some) (fun t x v be => t.writeReg byDma x v be finds)).putNewRecords s
    else s.storeBytes k (l.map some) poison finds
  | .remote p k => s.send (.remoteWrite p k (l.map some) poison)
  | .absent => s

/-- A write that another package answers with an error has left all the same. -/
def State.triedWrite (s : State) (a : Nat) (l : List Byte) (poison : Bool) : State :=
  if s.isRemote a then s.dmaWrite a l [] poison else s

/-! Completion (R365-R367, R375, R376). -/

/-- The system address of the descriptor at index i of a ring (R362). -/
def State.descAddr (s : State) (n i : Nat) : Nat := s.ringBase n + 32 * (i % s.ringSize n)

/-- The STATUS word of a completed descriptor but for OWN. -/
def statusWord (x : Completion) : Nat := x.side * 2 ^ 30 + x.code * 2 ^ 16

/-- Bytes 0x10 to 0x1F as the first write of a completion puts them: ADDR_B, RESULT, and STATUS with OWN still 1. -/
def completionBytes (addrB : Nat) (x : Completion) : List Byte :=
  leBytes 8 addrB ++ leBytes 4 x.result ++ leBytes 4 (2 ^ 31 + statusWord x)

/-- The ring stops with a code at the descriptor of index i: STOPPED, CODE and an event with the descriptor's address to every ring
(R366). -/
def State.stopRingAt (s : State) (n i code : Nat) : State :=
  let t := (s.setBit (ringStat n) RING_STAT_STOPPED true).setFld (ringStat n) RING_STAT_CODE code
  t.event code 5 n i (s.descAddr n i)

/-- The ring stops with a code at the descriptor at HEAD. -/
def State.stopRing (s : State) (n code : Nat) : State := s.stopRingAt n (s.ringHead n) code

/-- The completion event of a descriptor, to EVT_PORT only (R367). -/
def State.doneEvent (s : State) (n : Nat) (d : Desc) (x : Completion) : State :=
  let p := s.fld (ringCfg n) RING_CFG_EVT_PORT
  if (d.evt || x.code != codeOk) && decide (p < 6) then
    s.eventPort x.code 5 n (s.ringHead n) (if x.code = codeOk then 0 else x.errAddr.getD 0) p
  else s

/-- The two writes of a completion: the fields with OWN 1, then the STATUS word with OWN 0 (R365). -/
def State.completionWrites (s : State) (d : Desc) (x : Completion) (finds : Finds) : State :=
  (s.dmaWrite (d.addr + 0x10) (completionBytes (x.errAddr.getD d.b) x) finds false).dmaWrite (d.addr + 0x1C)
    (leBytes 4 (statusWord x)) finds false

/-- The descriptor at HEAD completes: its two writes, then HEAD advances; a write that ends in a bus error stops the ring, with the
completion to be repeated (R365, R366). Both writes lie in one line, so the first fails when either does. -/
def State.complete (s : State) (n : Nat) (x : Completion) (finds : Finds) (fails : Bool) : State :=
  match (s.ring n).desc with
  | none => s
  | some d =>
    if s.sysWriteBad (d.addr + 0x10) 16 fails then
      ((s.triedWrite (d.addr + 0x10) (completionBytes (x.errAddr.getD d.b) x) false).updRing n (fun y => { y with
        failed := some x })).stopRing n codeBusError
    else
      let t := s.completionWrites d x finds
      let t := t.doneEvent n d x
      let t := t.updRing n (fun y => { y with desc := none, off := 0, poisonAt := none, failed := none })
      let t := t.setFld (ringPtr n) RING_PTR_HEAD (s.ringHead n + 1)
      (t.setFld (ringStat n) RING_STAT_CODE x.code).countSat (ringStat n) RING_STAT_DONE 1

/-! Descriptors (R363, R364, R366). -/

/-- A field of a descriptor of 32 bytes. -/
def descNat (l : List Byte) (off k : Nat) : Nat := ofLe ((l.drop off).take k)

/-- OWN of a descriptor. -/
def descOwn (l : List Byte) : Bool := nbit (descNat l 0x1C 4) 31

/-- The descriptor that 32 bytes at an address spell (Table 13-1). -/
def descOf (addr : Nat) (l : List Byte) : Desc :=
  let w := descNat l 0 4
  { addr := addr
    copy := w / 2 ^ 28 == 1
    close := nbit w 27
    evt := nbit w 26
    pool := nbit w 25
    length := descNat l 4 4
    a := descNat l 8 8
    b := descNat l 0x10 8 }

/-- A LENGTH of its range: a multiple of 64, from 256 B to 16 MiB for RECEIVE, from 64 B for COPY (Table 13-1). -/
def lengthOk (copy : Bool) (n : Nat) : Bool :=
  n % 64 == 0 && (if copy then decide (64 ≤ n) else decide (256 ≤ n) && decide (n ≤ 0x1000000))

/-- A descriptor breaks the rules of Table 13-1 for a ring of a KIND (R364). -/
def descBad (kindCopy : Bool) (l : List Byte) : Bool :=
  let d := descOf 0 l
  let type := descNat l 0 4 / 2 ^ 28
  decide (1 < type) || (d.copy != kindCopy) ||
  (if d.copy then !lengthOk true d.length || decide (2 ^ 46 ≤ d.a) || decide (2 ^ 46 ≤ d.b)
   else !d.pool && (!lengthOk false d.length || decide (2 ^ 46 ≤ d.a)))

/-- An engine holds a descriptor: POOL stands for the pool's buffer size (R370). -/
def State.holdDesc (s : State) (n addr : Nat) (l : List Byte) : State :=
  let d := descOf addr l
  let d := if d.pool ∧ d.copy = false then { d with length := 2 ^ s.poolLog2 (ringRg n) } else d
  s.updRing n (fun x => { x with desc := some d })

/-- An engine takes a descriptor; one that breaks the rules of Table 13-1 completes with BAD_DESC (R364). -/
def State.takeDesc (s : State) (n addr : Nat) (l : List Byte) (finds : Finds) (fails : Bool) : State :=
  let t := s.holdDesc n addr l
  if descBad (s.isCopy n) l then t.complete n { result := 0, side := 0, code := codeBadDesc, errAddr := some addr } finds fails else t

/-- Whether a ring's engine serves it now: EN of ring and channel, and not stopped. -/
def State.ringServed (s : State) (n : Nat) : Bool :=
  s.bit (ringCfg n) RING_CFG_EN && s.bit (chanCtrl (ringCh n)) DMA_CH_CTRL_EN && !s.bit (ringStat n) RING_STAT_STOPPED

/-- Whether the descriptor at HEAD can be fetched: it lies below TAIL, the engine does not hold it, and no OWN 0 has been met in it
(R363). -/
def State.toFetch (s : State) (n : Nat) : Bool :=
  s.ringHead n != s.ringTail n && (s.ring n).desc.isNone && !(s.ring n).waitTail

/-- What a fetched descriptor leads to: a completion write that failed is repeated, or the descriptor is taken, or the ring waits at
OWN 0 for the next write of TAIL (R363, R366). -/
def State.fetchedDesc (s : State) (n addr : Nat) (l : List Byte) (finds : Finds) (fails : Bool) : State :=
  match (s.ring n).failed with
  | some x => (s.holdDesc n addr l).complete n x finds fails
  | none => if descOwn l then s.takeDesc n addr l finds fails else s.updRing n (fun x => { x with waitTail := true })

/-- DESCRIPTOR_FETCH: the engine reads the descriptor at HEAD below TAIL (R362-R364, R366). -/
def execDescriptorFetch (ring : RingNo) (finds : Finds) (remote : Payload) (fails : Bool) (s : State) :
    Host.Outcome State Fault Refusal :=
  let n := ring.val
  if s.ringServed n && s.toFetch n then
    let addr := s.descAddr n (s.ringHead n)
    match s.dmaRead addr 32 finds remote with
    | (.waits, _) => ok s
    | (.error, t) => ok ((t.dmaSecure n addr).stopRing n codeBusError)
    | (.got true _, t) => ok (t.stopRing n codePoison)
    | (.got false l, t) => ok (t.fetchedDesc n addr l finds fails)
  else ok s

/-! The start of a burst (R368-R374). -/

/-- What a source offers a ring: where it comes from, its beats, and the poisoned source line of each beat that has one (R336). -/
structure Offer where
  src : BurstSource
  beats : List (List Byte)
  bad : List (Option Nat) := []
  deriving DecidableEq, Repr

/-- Bytes cut into beats of 64, the last padded with zeros. -/
def beatsOf : Nat → List Byte → List (List Byte)
  | 0, _ => []
  | n + 1, l => if l.isEmpty then [] else ((l ++ List.replicate 63 (0 : Byte)).take 64) :: beatsOf n (l.drop 64)

/-- Where the fail capture buffer of a cluster holds record i (R50, R244). -/
def recordAddr (c i : Nat) : Nat := 0x30000000000 + c * 0x400000 + 0x300000 + 16 * (i % 65536)

/-- Scribe's records for a ring: up to 256, in record order (R246). A beat that holds part of a poisoned line carries the poison (R336,
log entry 147). -/
def State.scribeOffer (s : State) (n c : Nat) : Option Offer :=
  if s.scrDrains c ∧ s.scrRing c = n then
    let k := min 256 (s.scrHeld c)
    let r := (s.reg (SCR_RPTR c)).toNat
    let beats := beatsOf 64 ((List.range k).flatMap (fun i => s.bytesAt (recordAddr c (r + i)) 16))
    let bad (b : Nat) : Option Nat := (([0, 1, 2, 3].filter (fun i => 4 * b + i < k)).map (fun i => recordAddr c (r + 4 * b + i))).find? s.poisoned
    some { src := .scribe c k, beats := beats, bad := (List.range beats.length).map (fun b => (bad b).map (fun a => s.pkgId * 2 ^ 42 + a / 64 * 64)) }
  else none

/-- A digitiser's staged lines for a ring, up to 64: for the ring that the setting in force names, and for one on whose line it has
raised a request before (R277, log entry 145). -/
def State.acqOffer (s : State) (n d ring : Nat) : Option Offer :=
  let r := (s.dig d).ringOf ring
  if (r.asked.contains n ∨ (r.dest = n ∧ r.ringBad = none)) ∧ r.staged ≠ [] then
    some { src := .acq d ring (min 64 r.staged.length), beats := r.staged.take 64 }
  else none

/-- 64 entries of a converter's queue (R299). -/
def convBeats (q : List Word) : List (List Byte) := beatsOf 4 ((q.take 64).flatMap (fun w => leBytes 4 w.toNat))

/-- A cluster converter's entries for a ring. -/
def State.convOffer (s : State) (n c : Nat) : Option Offer :=
  let a := s.adc c
  if s.fbitF (ADC_CTRL c) ADC_CTRL_DMA_EN ∧ s.ffld (ADC_DMA c) ADC_DMA_RING = n ∧ a.ringBad = none ∧ 64 ≤ a.queue.length then
    some { src := .conv c 64, beats := convBeats a.queue }
  else none

/-- A precision converter's entries for a ring. -/
def State.precOffer (s : State) (n r : Nat) : Option Offer :=
  let a := (s.rg r).prec
  if Config.precDma r ∧ s.fld (PC_DMA r) PC_DMA_RING = n ∧ a.ringBad = none ∧ 64 ≤ a.queue.length then
    some { src := .prec r 64, beats := convBeats a.queue }
  else none

/-- The source that offers data for a RECEIVE ring; each ring is fed by one. -/
def State.ringOffer (s : State) (n : Nat) : Option Offer :=
  let r := ringRg n
  let cs := (List.range 8).map (fun k => 8 * r + k)
  let of (l : List (Option Offer)) : Option Offer := l.findSome? id
  (of (cs.map (s.scribeOffer n))).orElse (fun _ =>
  (of (cs.flatMap (fun c => [0, 1].flatMap (fun k => [0, 1, 2].map (s.acqOffer n (2 * c + k)))))).orElse (fun _ =>
  (of (cs.map (s.convOffer n))).orElse (fun _ => s.precOffer n r)))

/-- The room that the 32 bytes of a later descriptor give a burst: none when it is not owned, 0 when it breaks the rules (R370). -/
def State.descRoom (s : State) (n : Nat) (l : List Byte) : Option Nat :=
  if descOwn l then
    some (if descBad false l then 0 else if (descOf 0 l).pool then 2 ^ s.poolLog2 (ringRg n) else (descOf 0 l).length)
  else none

/-- What the descriptors of a ring say to a burst: there is room for it or not, a read of one must wait, or one cannot be read, with its
index and the code of the stop (R366, R370). -/
inductive Room where
  | enough
  | short
  | waits
  | fails (i code : Nat)
  deriving DecidableEq, Repr

/-- Whether k descriptors of a ring from index i on have room for what is needed, with the state that reading them leaves; `replies` are
what other packages return for them, one for each. -/
def State.roomFrom (s : State) (n : Nat) (finds : Finds) : Nat → Nat → Nat → List Payload → Room × State
  | 0, _, need, _ => (if need = 0 then .enough else .short, s)
  | k + 1, i, need, replies =>
    if need = 0 then (.enough, s)
    else
      let addr := s.descAddr n i
      match s.dmaRead addr 32 finds (replies.headD noData) with
      | (.waits, _) => (.waits, s)
      | (.error, t) => (.fails i codeBusError, t.dmaSecure n addr)
      | (.got true _, t) => (.fails i codePoison, t)
      | (.got false l, t) =>
        match t.descRoom n l with
        | some len => t.roomFrom n finds k (i + 1) (need - len) (replies.drop 1)
        | none => (.short, t)

/-- Whether the owned descriptors can take a burst of `need` bytes. -/
def State.hasRoom (s : State) (n need : Nat) (finds : Finds) (replies : List Payload) : Room × State :=
  match (s.ring n).desc with
  | some d =>
    let h := s.ringHead n
    s.roomFrom n finds ((s.ringTail n + 65536 - (h + 1)) % 65536) (h + 1) (need - (d.length - (s.ring n).off)) replies
  | none => (.short, s)

/-- The bytes of fail records and of acquisition lines begun in the present window of a region (R246, R277). -/
def State.winBytes (s : State) (r g : Nat) (acq : Bool) : Nat :=
  let x := s.rg r
  if x.winIndex = g / 65536 then (if acq then x.winAcq else x.winFail) else 0

/-- The bytes of a share in a window (R228). -/
def State.share (s : State) (r : Nat) (acq : Bool) : Nat :=
  4915 * s.fld (MEM_HBM_SHARE r) (if acq then MEM_HBM_SHARE_ACQ else MEM_HBM_SHARE_FAIL)

/-- Whether the share of the source leaves room for a burst in the window of grain g (R246, R277). -/
def State.shareAllows (s : State) (r g bytes : Nat) : BurstSource → Bool
  | .scribe _ _ => decide (s.winBytes r g false + bytes ≤ s.share r false)
  | .acq _ _ _ => decide (s.winBytes r g true + bytes ≤ s.share r true)
  | _ => true

/-- The bytes of a burst count in the window in which it begins. -/
def State.countShare (s : State) (r g bytes : Nat) : BurstSource → State
  | .scribe _ _ => s.updRg r (fun x => { x with
      winFail := s.winBytes r g false + bytes, winAcq := s.winBytes r g true, winIndex := g / 65536 })
  | .acq _ _ _ => s.updRg r (fun x => { x with
      winFail := s.winBytes r g false, winAcq := s.winBytes r g true + bytes, winIndex := g / 65536 })
  | _ => s

/-- The burst that a ring's request would begin: none while no descriptor is at hand for a COPY, and an empty one when a source offers
nothing. -/
def State.nextBurst (s : State) (n : Nat) : Option Burst :=
  if s.isCopy n then
    (s.ring n).desc.map (fun d => { ring := n, src := .copy, left := min 4096 (d.length - (s.ring n).off) })
  else match s.ringOffer n with
    | some o => some { ring := n, src := o.src, beats := o.beats, bad := o.bad }
    | none => some { ring := n, src := .copy }

/-- The bytes of a RECEIVE burst. -/
def Burst.bytes (b : Burst) : Nat := 64 * b.beats.length

/-- Two bursts of one source. -/
def sameSource : BurstSource → BurstSource → Bool
  | .scribe c _, .scribe d _ => c == d
  | .acq d k _, .acq e j _ => d == e && k == j
  | .conv c _, .conv d _ => c == d
  | .prec r _, .prec q _ => r == q
  | _, _ => false

/-- Whether another burst of a source is in progress in its region: the source offers its next data once that one is complete (R374). -/
def State.srcBusy (s : State) (r : Nat) (x : BurstSource) : Bool :=
  (List.range 128).any (fun k => (s.chan (128 * r + k)).burst.any (fun b => sameSource b.src x))

/-- Whether a ring has no owned descriptor for a burst: none below TAIL, or OWN 0 at HEAD (R363, R370). -/
def State.noDesc (s : State) (n : Nat) : Bool := (s.ring n).desc.isNone && !s.toFetch n

/-- Whether a ring's request is to be served at grain g: one short of room waits for a write of TAIL, and one whose share is used up for
the next window (R246, R277, R370). -/
def State.wantsBurst (s : State) (n g : Nat) : Bool :=
  s.ringServed n && s.requested n && !(s.ring n).short && !(s.isCopy n && s.noDesc n) &&
  match s.nextBurst n with
  | some b => s.shareAllows (ringRg n) g b.bytes b.src && !s.srcBusy (ringRg n) b.src
  | none => true

/-- A ring's turn within its channel: no ring between the one served last and it has a request to be served (R372). -/
def State.ringTurn (s : State) (n g : Nat) : Bool :=
  let base := n / 64 * 64
  let last := (s.chan (ringCh n)).lastRing
  let ahead := (n % 64 + 127 - last) % 64
  (List.range ahead).all (fun k => !s.wantsBurst (base + (last + 1 + k) % 64) g)

/-- How many entries a source has given up (R374). -/
def State.givenUp (s : State) : BurstSource → Nat
  | .scribe c _ => (s.reg (SCR_RPTR c)).toNat
  | .conv c _ => (s.adc c).popped
  | .prec r _ => (s.rg r).prec.popped
  | _ => 0

/-- A source is read as its burst begins: Scribe's lines of the scratchpad may show an error (R334, R335); a digitiser's request on the
ring is served. -/
def State.readSource (s : State) (n : Nat) (finds : Finds) : BurstSource → State
  | .scribe c k =>
    let r := (s.reg (SCR_RPTR c)).toNat
    let lines := ((List.range k).map (fun i => recordAddr c (r + i) / 64)).dedup
    lines.foldl (fun t l => t.eccRead (64 * l) finds 1) s
  | .acq d ring _ => s.updAcqRing d ring (fun r => { r with asked := r.asked.filter (· != n) })
  | _ => s

/-- A burst begins in its channel: the flag clears and the channel is busy; a request without data only clears it. -/
def State.beginBurst (s : State) (n g : Nat) (b : Burst) : State :=
  let ch := ringCh n
  let b := { b with base := s.givenUp b.src }
  let t := (s.setBit (ringStat n) RING_STAT_REQ false).setBit (ringStat n) RING_STAT_STARVED false
  let t := t.countShare (ringRg n) g b.bytes b.src
  if b.beats.isEmpty ∧ b.left = 0 then t.setChan ch { t.chan ch with lastRing := n % 64 }
  else
    let t := t.setChan ch { burst := some b, lastRing := n % 64 }
    (t.setBit (chanStat ch) DMA_CH_STAT_BUSY true).setFld (chanStat ch) DMA_CH_STAT_RING (n % 64)

/-- A burst finds too little room: STARVED, until the next write of TAIL (R370). -/
def State.starve (s : State) (n : Nat) : State :=
  (s.setBit (ringStat n) RING_STAT_STARVED true).updRing n (fun x => { x with short := true })

/-- BURST_START: an engine begins the burst that serves a ring's request (R368-R370, R372); short of room the flag stays set and STARVED
reads 1. A descriptor at HEAD that can be fetched is fetched first. The descriptors after it are read for their room: `remote` is what other
packages return for them, and one that cannot be read stops the ring (R366). -/
def execBurstStart (ring : RingNo) (g : Nat) (finds : Finds) (remote : List Payload) (s : State) : Host.Outcome State Fault Refusal :=
  let n := ring.val
  let t := s.at g
  if t.ringServed n && t.requested n && !(t.ring n).short && (t.chan (ringCh n)).burst.isNone && t.ringTurn n g then
    match t.nextBurst n with
    | some b =>
      if b.beats.isEmpty then ok (t.beginBurst n g b)
      else if t.srcBusy (ringRg n) b.src || !t.shareAllows (ringRg n) g b.bytes b.src then ok t
      else (match t.hasRoom n b.bytes finds remote with
        | (.enough, u) => ok (((u.readSource n finds b.src).nextBurst n).elim u (fun b => (u.readSource n finds b.src).beginBurst n g b))
        | (.short, u) => ok (if u.toFetch n then u else u.starve n)
        | (.waits, _) => ok t
        | (.fails i code, u) => ok (u.stopRingAt n i code))
    | none => ok (if t.toFetch n then t else t.starve n)
  else ok s

/-! Beats (R361, R371-R377, R380). -/

/-- Whether a channel has a burst to run: beats are left, and a descriptor is at hand or can be fetched (R372). -/
def State.chanRuns (s : State) (ch : Nat) : Bool :=
  match (s.chan ch).burst with
  | some b =>
    s.bit (chanCtrl ch) DMA_CH_CTRL_EN && !s.bit (ringStat b.ring) RING_STAT_STOPPED && !b.noBuf &&
    ((s.ring b.ring).desc.isSome || s.toFetch b.ring) && (!b.beats.isEmpty || b.left != 0)
  | none => false

/-- PRIO of a channel. -/
def State.prio (s : State) (ch : Nat) : Nat := s.fld (chanCtrl ch) DMA_CH_CTRL_PRIO

/-- Whether a channel's burst is under way: a beat of it has moved and it is not complete. -/
def State.underWay (s : State) (ch : Nat) : Bool :=
  match (s.chan ch).burst with
  | some b => b.moving
  | none => false

/-- Whether a channel's turn goes on: its burst moved the last beat among the channels of its PRIO (R372, R373). -/
def State.inTurn (s : State) (ch : Nat) : Bool :=
  match (s.chan ch).burst with
  | some b => b.serving
  | none => false

/-- The channel of an engine that moves the next beat: the highest PRIO; within it the channel whose burst is in its turn, then turns in
ascending order after the channel served last (R372, R373). -/
def State.beatChan (s : State) (e : Nat) : Option Nat :=
  let last := tget (fun _ => 63) s.dmaLast e
  let order := ((List.range 64).map (fun k => 64 * e + (last + 1 + k) % 64)).filter s.chanRuns
  let top := order.foldl (fun m ch => max m (s.prio ch)) 0
  let best := order.filter (fun ch => s.prio ch == top)
  (best.find? s.inTurn).orElse (fun _ => best.head?)

/-- PREEMPTED of the channels whose bursts are under way while a channel of higher PRIO moves a beat (R373). -/
def State.markPreempted (s : State) (e ch : Nat) : State :=
  let t := (List.range 64).foldl (fun t k =>
    let c := 64 * e + k
    if t.underWay c && t.chanRuns c && decide (t.prio c < t.prio ch) then t.setBit (chanStat c) DMA_CH_STAT_PREEMPTED true else t) s
  t.setBit (chanStat ch) DMA_CH_STAT_PREEMPTED false

/-- Update the burst of a channel. -/
def State.updBurst (s : State) (ch : Nat) (f : Burst → Burst) : State :=
  s.setChan ch { s.chan ch with burst := (s.chan ch).burst.map f }

/-- A channel moves a beat: its burst is under way and in its turn among the channels of its PRIO (R372). -/
def State.takeTurn (s : State) (e ch : Nat) : State :=
  let t := (List.range 64).foldl (fun t k =>
    let c := 64 * e + k
    if t.inTurn c && t.prio c == t.prio ch then t.updBurst c (fun b => { b with serving := false }) else t) s
  t.updBurst ch (fun b => { b with moving := true, serving := true })

/-- The address of a beat's access, at its 64 B boundary. -/
def beatAddr (a : Nat) : Nat := a / 64 * 64

/-- A RECEIVE descriptor completes with the bytes written, with POISON and the first poisoned source line if a beat carried poison (R336,
R371, log entry 147). -/
def State.completeRecv (s : State) (n result : Nat) (finds : Finds) (fails : Bool) : State :=
  let bad := (s.ring n).poisonAt
  s.complete n { result := result, side := 0, code := if bad.isSome then codePoison else codeOk, errAddr := bad } finds fails

/-- A beat of a RECEIVE burst is written at the fill offset of the descriptor at HEAD, or ends the descriptor with BUS_ERROR and the
rest of its part of the burst is discarded (R371, R375). -/
def State.receiveBeat (s : State) (ch n : Nat) (d : Desc) (b : Burst) (finds : Finds) (fails : WriteFails) : State :=
  let off := (s.ring n).off
  let a := d.a + off
  if s.dmaWriteBad a fails.data then
    let t := (s.triedWrite a (b.beats.headD []) false).dmaSecure n a
    let k := (d.length - off) / 64
    let t := t.updBurst ch (fun b => { b with beats := b.beats.drop k, bad := b.bad.drop k })
    t.complete n { result := off, side := 1, code := codeBusError, errAddr := some (beatAddr a) } finds fails.completion
  else
    let bad := b.bad.headD none
    let t := (s.dmaWrite a (b.beats.headD []) finds bad.isSome).updBurst ch (fun b => { b with
      beats := b.beats.drop 1, bad := b.bad.drop 1 })
    let t := t.updRing n (fun x => { x with off := off + 64, poisonAt := x.poisonAt.orElse (fun _ => bad) })
    if off + 64 = d.length then t.completeRecv n d.length finds fails.completion else t

/-- A POOL descriptor takes its buffer as a burst first writes to it, and its address goes into ADDR_A unless that write meets a bus error
(R349, log entry 148); with none free the channel pauses with NOBUF (R379, R380). -/
def State.poolBeat (s : State) (ch n : Nat) (d : Desc) (b : Burst) (finds : Finds) (fails : WriteFails) : State :=
  let r := ringRg n
  match s.takeBuffer r with
  | (some k, t) =>
    let a := s.pkgId * 2 ^ 42 + s.poolAddr r k
    let t := if t.sysWriteBad (d.addr + 8) 8 false then t else t.dmaWrite (d.addr + 8) (leBytes 8 a) finds false
    let t := t.updRing n (fun x => { x with desc := some { d with a := a } })
    t.receiveBeat ch n { d with a := a } b finds fails
  | (none, t) =>
    let t := (t.updBurst ch (fun b => { b with noBuf := true })).setBit (ringStat n) RING_STAT_NOBUF true
    t.updRg r (fun x => { x with poolWait := x.poolWait ++ [n] })

/-- The place that a system address names: the package ID of a shared flow space address counts for nothing (R54). -/
def placeOf (a : Nat) : Nat := if isFlow (a % 2 ^ 42) then a % 2 ^ 42 else a

/-- The offset of the next beat of a COPY descriptor: descending when the destination lies above an overlapping source (R377). -/
def copyOff (d : Desc) (off : Nat) : Nat :=
  if placeOf d.a < placeOf d.b ∧ placeOf d.b < placeOf d.a + d.length then d.length - off - 64 else off

/-- A COPY descriptor ends with an error and the rest of it is not moved (R375). -/
def State.copyError (s : State) (ch n side a : Nat) (finds : Finds) (fails : Bool) : State :=
  let t := (s.dmaSecure n a).updBurst ch (fun b => { b with left := 0 })
  t.complete n { result := (s.ring n).off, side := side, code := codeBusError, errAddr := some (beatAddr a) } finds fails

/-- The lines of a beat that are poisoned, or its own address when another reader found it so. -/
def State.poisonLine (s : State) (a : Nat) : Nat :=
  match s.resolve a with
  | .here l => (((linesOf l 64).find? (fun k => s.poisoned (64 * k))).map (fun k => a - l + 64 * k)).getD (beatAddr a)
  | _ => beatAddr a

/-- A beat of a COPY burst (R369, R375-R377). -/
def State.copyBeat (s : State) (ch n : Nat) (d : Desc) (finds : Finds) (remote : Payload) (fails : WriteFails) : State :=
  let x := s.ring n
  let o := copyOff d x.off
  match s.dmaRead (d.a + o) 64 finds remote with
  | (.waits, _) => s
  | (.error, t) => t.copyError ch n 0 (d.a + o) finds fails.completion
  | (.got bad l, t) =>
    if t.dmaWriteBad (d.b + o) fails.data then
      (t.triedWrite (d.b + o) l bad).copyError ch n 1 (d.b + o) finds fails.completion
    else
      let here := t.poisonLine (d.a + o)
      let mark := if bad then some (min here (x.poisonAt.getD here)) else x.poisonAt
      let u := t.dmaWrite (d.b + o) l finds bad
      let u := (u.updBurst ch (fun b => { b with left := b.left - 64 })).updRing n (fun y => { y with
        off := x.off + 64, poisonAt := mark })
      if x.off + 64 = d.length then
        u.complete n { result := d.length, side := 0, code := if mark.isSome then codePoison else codeOk, errAddr := mark } finds
          fails.completion
      else u

/-- One beat of a channel's burst, once the descriptor at HEAD is at hand. -/
def State.moveBeat (s : State) (ch : Nat) (finds : Finds) (remote : Payload) (fails : WriteFails) : State :=
  match (s.chan ch).burst with
  | some b =>
    match (s.ring b.ring).desc with
    | some d =>
      if b.src = .copy then s.copyBeat ch b.ring d finds remote fails
      else if d.pool ∧ (s.ring b.ring).off = 0 then s.poolBeat ch b.ring d b finds fails
      else s.receiveBeat ch b.ring d b finds fails
    | none => s
  | none => s

/-- The channel that an engine served last. -/
def State.setDmaLast (s : State) (e ch : Nat) : State := { s with dmaLast := tput (fun _ => 63) s.dmaLast e ch }

/-- Whether a channel's burst has its descriptor at hand. -/
def State.descAtHand (s : State) (ch : Nat) : Bool :=
  match (s.chan ch).burst with
  | some b => (s.ring b.ring).desc.isSome
  | none => false

/-- DMA_BEAT: an engine moves one 64 B beat (R361, R371-R377). The channel whose turn it is moves none before the descriptor at HEAD is
fetched. -/
def execDmaBeat (e : DmaNo) (finds : Finds) (remote : Payload) (fails : WriteFails) (s : State) : Host.Outcome State Fault Refusal :=
  match s.beatChan e.val with
  | some ch =>
    if s.descAtHand ch then
      let t := ((s.markPreempted e.val ch).setDmaLast e.val (ch % 64)).takeTurn e.val ch
      ok (t.moveBeat ch finds remote fails)
    else ok s
  | none => ok s

/-! The completion of a burst (R368, R371, R374). -/

/-- Whether a list of staged lines holds an END line. -/
def hasEndLine (l : List (List Byte)) : Bool := l.any (fun x => (x.getD 3 0).toNat / 16 == 4)

/-- The source releases what a burst has moved and has not left it otherwise since the burst began, and raises its next request when it has
cause to (R246, R277, R299, R374). -/
def State.releaseBurst (s : State) (base : Nat) : BurstSource → State
  | .scribe c k =>
    let r := BitVec.ofNat 32 (base + k)
    (if (r - s.reg (SCR_RPTR c)).toNat ≤ s.scrHeld c then s.scrRelease c r else s).scribeDrain c
  | .acq d ring k =>
    let t := s.updAcqRing d ring (fun r => { r with staged := r.staged.drop k })
    t.acqRequest d ring (hasEndLine ((t.dig d).ringOf ring).staged)
  | .conv c k =>
    (s.updAdc c (fun y => { y with queue := y.queue.drop (base + k - y.popped), popped := max y.popped (base + k) })).adcDemand c
  | .prec r k =>
    (s.updPrec r (fun y => { y with queue := y.queue.drop (base + k - y.popped), popped := max y.popped (base + k) })).precDemand r
  | .copy => s

/-- After a COPY burst a channel with PACE 1 raises its ring again while owned work remains (R368). -/
def State.paceRing (s : State) (n : Nat) : State :=
  if s.isCopy n && s.bit (chanCtrl (ringCh n)) DMA_CH_CTRL_PACE && s.ringHead n != s.ringTail n && !(s.ring n).waitTail then
    s.raise n
  else s

/-- A RECEIVE descriptor with CLOSE 1 that has been written to completes at the end of the burst (R371). -/
def State.closeDesc (s : State) (n : Nat) (finds : Finds) (fails : Bool) : State :=
  match (s.ring n).desc with
  | some d =>
    if d.close && !d.copy && (s.ring n).off != 0 then
      s.completeRecv n (s.ring n).off finds fails
    else s
  | none => s

/-- BURST_COMPLETE: all beats of a burst have moved (R371, R374); a completion write that fails keeps the burst (R366). -/
def execBurstComplete (ring : RingNo) (finds : Finds) (fails : Bool) (s : State) : Host.Outcome State Fault Refusal :=
  let n := ring.val
  match s.ringBurst n with
  | some b =>
    if b.beats.isEmpty && b.left == 0 && !s.bit (ringStat n) RING_STAT_STOPPED && (s.ring n).failed.isNone then
      let t := s.closeDesc n finds fails
      if t.bit (ringStat n) RING_STAT_STOPPED then ok t
      else
        let ch := ringCh n
        let t := t.setChan ch { t.chan ch with burst := none }
        let t := (t.setBit (chanStat ch) DMA_CH_STAT_BUSY false).setBit (chanStat ch) DMA_CH_STAT_PREEMPTED false
        ok ((t.releaseBurst b.base b.src).paceRing n)
    else ok s
  | none => ok s

end Sys2Proof.Machine
end

