-- ==== Sys2Proof/Machine/JigLoad.lean ====
section
/-! DEFINITION. What the sections of a jig load (R430-R432, R434, R436-R441): the boot phases that read sections, phase 8, hub activation
(R443), and the completion of the service commands that load from the jig, test a scratchpad or recover a cluster (R418, R423). -/

namespace Sys2Proof.Machine

/-! Boot report (R441). -/

/-- The first byte of the boot report. -/
def reportBase : Nat := 0x30201FF0000

/-- The header of the report: no entry yet, GENERATION and bank. -/
def State.reportHead (s : State) (bank : Nat) : State :=
  s.putBytes reportBase (leBytes 4 0 ++ leBytes 4 (s.bankGen bank) ++ leBytes 1 bank)

/-- An entry of the report; those beyond 4,092 are counted only. -/
def State.report (s : State) (kind inst idx sat addr : Nat) : State :=
  let n := s.boot.reports
  let t := s.putBytes reportBase (leBytes 4 (n + 1))
  let t := if n < 4092 then
      t.putBytes (reportBase + 64 + 16 * n)
        (leBytes 1 kind ++ leBytes 1 inst ++ leBytes 2 idx ++ leBytes 4 sat ++ leBytes 8 addr)
    else t
  t.updBoot (fun b => { b with reports := n + 1 })

/-! REPAIR (R348, R439, Table 16-4). -/

/-- Clusters or regions that hold an array, and its banks (Table 12-1, Table 16-4). -/
def arraySize (array : Nat) : Nat × Nat :=
  match array with
  | 0 => (64, 16)
  | 1 => (8, 32)
  | 2 => (1, 128)
  | 3 => (1, 4)
  | 4 => (1, 32)
  | _ => (0, 0)

/-- An entry of a REPAIR section whose CRC is good and whose fields are in range: array, inst, bank, row, spare. -/
def repairOf (l : List Byte) : Option (Nat × Nat × Nat × Nat × Nat) :=
  let array := descNat l 1 1
  let inst := descNat l 2 1
  let bank := descNat l 3 1
  let row := descNat l 4 2
  let spare := descNat l 6 1
  if descNat l 12 4 = (crc32 (l.take 12)).toNat ∧ descNat l 0 1 = 1 ∧ inst < (arraySize array).1 ∧ bank < (arraySize array).2 ∧
      row < 256 ∧ spare < 8 then some (array, inst, bank, row, spare) else none

/-- A repair can be applied: its row is not mapped and its spare row is free in its bank. -/
def State.repairFree (s : State) (x : Nat × Nat × Nat × Nat × Nat) : Bool :=
  !s.boot.repairs.any (fun y =>
    y.1 == x.1 && y.2.1 == x.2.1 && y.2.2.1 == x.2.2.1 && (y.2.2.2.1 == x.2.2.2.1 || y.2.2.2.2 == x.2.2.2.2))

/-- Entry k of a bank's REPAIR section is applied, or skipped and reported; which address a report of it names is open (a free
value). -/
def State.applyRepair (s : State) (b k : Nat) : State :=
  let l := s.secBytes b 8 (16 * k) 16
  let skip := (s.useFree).report 4 (descNat l 2 1) k 0 (Config.freeNat s.free % 2 ^ 46)
  match repairOf l with
  | some x => if s.repairFree x then s.mapRow x.1 x.2.1 x.2.2.1 x.2.2.2.1 x.2.2.2.2 else skip
  | none => skip

/-- The entries of a bank's REPAIR section from entry k on, up to the first erased one. -/
def State.applyRepairs (s : State) (b : Nat) : Nat → Nat → State
  | 0, _ => s
  | n + 1, k => if s.flashByte (s.secAddr b 8 (16 * k)) = 0xFF then s else (s.applyRepair b k).applyRepairs b n (k + 1)

/-- The REPAIR section of a bank, when its header is valid and the section is present. -/
def State.loadRepair (s : State) (b : Nat) : State :=
  if s.headerValid b && s.secHas b 8 then s.applyRepairs b (s.secLen b 8 / 16) 0 else s

/-! CONFIG (Table 16-2, R432). -/

/-- A register write of the CONFIG format lies outside the register windows (R432). -/
def writeOutside (a : Nat) : Bool := decide (a < 0x3F000000000) || decide (0x3F300FFFFFF < a)

/-- The number of writes of a bank's CONFIG section that it holds whole. -/
def State.configCount (s : State) (b : Nat) : Nat := min (s.secNat b 1 4 4) ((s.secLen b 1 - 128) / 16)

/-- The address of write k of CONFIG. -/
def State.configAddr (s : State) (b k : Nat) : Nat := s.secNat b 1 (128 + 16 * k) 8

/-- LOWPWR of a converter stays 1 until boot enters the modes of the jig: a write of it before has it set (R294). -/
def State.keptLowPower (s : State) (a v : Nat) : Word :=
  let w := BitVec.ofNat 32 v
  if s.bit BOOT_STAT BOOT_STAT_BOOTING = false then w
  else match regLoc a with
    | some l => if a = ADC_CTRL l.num then setF w ADC_CTRL_LOWPWR 1 else if a = PC_LOWPWR l.num then setF w PC_LOWPWR_LOWPWR 1 else w
    | none => w

/-- The device writes a register, as a partner's write of it acts (R432); in a fenced region nothing changes (R42). -/
def State.deviceWrite (s : State) (a v : Nat) : State :=
  if s.fencedAt a then s else s.writeReg byDevice a (s.keptLowPower a v) 15 []

/-- Write k of CONFIG: skipped and reported outside the register windows. -/
def State.configWrite (s : State) (b k : Nat) : State :=
  let a := s.configAddr b k
  if writeOutside a then s.report 3 0 k 0 a else s.deviceWrite a (s.secNat b 1 (136 + 16 * k) 4)

/-- The prelude: reference selection, which is in force from here on (R304), and the modes to enter at phase 8. -/
def State.configPrelude (s : State) (b : Nat) : State :=
  let p := s.secNat b 1 0 1
  let bitAt (i : Nat) : Nat := p / 2 ^ i % 2
  let t := (s.setFld SYS_REF_CTRL SYS_REF_CTRL_TSEL (bitAt 0)).setFld SYS_REF_CTRL SYS_REF_CTRL_TFREQ (bitAt 1)
  let t := ((t.setFld CAL_REF_CTRL CAL_REF_CTRL_VSEL (bitAt 2)).latchVsel).setFld CAL_REF_CTRL CAL_REF_CTRL_AUTO_T (bitAt 3)
  let t := t.setFld CAL_REF_CTRL CAL_REF_CTRL_AUTO_V (bitAt 4)
  t.updBoot (fun bt => { bt with modes := (s.secBytes b 1 64 64).map (fun x => x.toNat % 64) })

/-- CONFIG: the prelude, then the writes in order. -/
def State.loadConfig (s : State) (b : Nat) : State :=
  (List.range (s.configCount b)).foldl (fun t k => t.configWrite b k) (s.configPrelude b)

/-! Records (R431, R432, Table 16-3). -/

/-- A record: its index, header fields, and the offset of its payload in the section. -/
structure JigRec where
  idx : Nat
  type : Nat
  cl : Nat
  arg : Nat
  len : Nat
  dest : Nat
  off : Nat
  deriving DecidableEq, Repr

/-- The records of a section from an offset on; none when the last one runs beyond the section. -/
def State.recordsFrom (s : State) (b n : Nat) : Nat → Nat → Nat → Option (List JigRec)
  | 0, _, _ => some []
  | k + 1, idx, o =>
    if s.secLen b n ≤ o then some []
    else
      let x : JigRec :=
        { idx := idx, type := s.secNat b n o 1, cl := s.secNat b n (o + 1) 1, arg := s.secNat b n (o + 2) 2
          len := s.secNat b n (o + 4) 4, dest := s.secNat b n (o + 8) 8, off := o + 16 }
      if s.secLen b n < o + 16 + x.len then none
      else (s.recordsFrom b n k (idx + 1) (o + 16 + (x.len + 15) / 16 * 16)).map (x :: ·)

/-- The records of a section; an absent section has none. -/
def State.records (s : State) (b n : Nat) : Option (List JigRec) :=
  if s.secHas b n then s.recordsFrom b n (s.secLen b n / 16 + 1) 0 0 else some []

/-- A range that COPY and FETCH may write: within HBM, one cluster scratchpad, region SRAM or hub SRAM, and outside the report. -/
def copyDest (a n : Nat) : Bool :=
  let e := a + (n - 1)
  (match addrKind a, addrKind e with
    | .hbm _, .hbm _ => true
    | .scratch c, .scratch d => c == d
    | .regionSram _, .regionSram _ => true
    | .hubSram, .hubSram => decide (e < 0x30201A00000) || decide (0x30201E00000 ≤ a)
    | _, _ => false) && (decide (e < reportBase) || decide (0x30202000000 ≤ a))

/-- The writes of a REG record lie in the hub FLW block. -/
def State.regDests (s : State) (b : Nat) (x : JigRec) : Bool :=
  (List.range (x.len / 16)).all (fun k =>
    let a := s.secNat b 4 (x.off + 16 * k) 8
    decide (hubBlk 1 ≤ a) && decide (a < hubBlk 2))

/-- A record error that is known before the record acts (R432). -/
def State.recordBad (s : State) (b n : Nat) (x : JigRec) : Bool :=
  match x.type with
  | 1 => !(n == 4 || n == 5 || n == 6) || !copyDest x.dest x.len
  | 2 => n != 4 || x.len % 16 != 0 || !s.regDests b x
  | 3 => n != 5 || x.len != 320 || decide (8 ≤ x.cl)
  | 4 => n != 5 || x.len != 48 || !copyDest x.dest (s.secNat b 5 (x.off + 8) 8)
  | 5 => n != 6 || x.len != 4096 || decide (64 ≤ x.cl)
  | 6 => n != 6 || x.len != 0 || decide (64 ≤ x.cl) || decide (256 ≤ x.arg)
  | _ => true

/-- Whether an address lies in a fail capture buffer, which no service command alters (R422). -/
def inFailBuffer (a : Nat) : Bool :=
  match addrKind a with
  | .scratch c => decide (0x30000000000 + c * 0x400000 + 0x300000 ≤ a)
  | _ => false

/-- The device writes bytes line by line where memory can be reached: a line in a fenced region, in a stack under repair, or to be kept
stays as it is (R42, R349). -/
def State.storeReached (s : State) (a : Nat) (l : List Byte) (kept : Nat → Bool) : State :=
  (linesOf a l.length).foldl (fun t k =>
    let lo := max a (64 * k)
    let hi := min (a + l.length) (64 * k + 64)
    if t.busErrorAt lo || kept lo then t else t.storeAll lo ((l.drop (lo - a)).take (hi - lo))) s

/-- A FETCH succeeds: its port is up, the whole source can be read, and the digest matches (R438). -/
def State.fetchGood (s : State) (b : Nat) (x : JigRec) (fetchErrors : List Nat) : Bool :=
  let src := s.secNat b 5 x.off 8
  let n := s.secNat b 5 (x.off + 8) 8
  !fetchErrors.contains x.idx && (match addrKind src with
    | .expansion _ => s.memOk src (max 1 n) && !s.anyPoison src n &&
        sha256 (s.bytesAt src n) == s.secBytes b 5 (x.off + 16) 32
    | _ => false)

/-- Words of a register table from a payload. -/
def State.loadWords (s : State) (b n off k : Nat) (put : State → Nat → Word → State) : State :=
  (List.range k).foldl (fun t i => put t i (BitVec.ofNat 32 (s.secNat b n (off + 4 * i) 4))) s

/-- The register of word w of entry i of a sequence table. -/
def sstReg (c i w : Nat) : Nat :=
  match w with
  | 0 => SEG_SST_W0 c i
  | 1 => SEG_SST_W1 c i
  | 2 => SEG_SST_W2 c i
  | _ => SEG_SST_W3 c i

/-- A register is stored and in force. -/
def State.loadReg (s : State) (a : Nat) (w : Word) : State :=
  if s.fencedAt a then s
  else
    let t := s.partnerWrite a w 15
    t.setForce a (t.reg a)

/-- CODE: an entry is converted to Delta-4 by the boot controller, or refused, which is a record error; the answer tells whether it was
converted (R153-R156, R432). -/
def State.codeRecord (s : State) (x : JigRec) (boot : Bool) : Bool × State :=
  if s.delta4Refused x.cl x.arg then (false, s.delta4Refuse byDevice x.cl x.arg)
  else
    let a := SEG_CODE_STAT x.cl
    let r := s.toDelta4 x.cl x.arg (s.segStored x.cl x.arg)
    let t := (r.2.setFld a SEG_CODE_STAT_SAT_COUNT r.1).setBit a SEG_CODE_STAT_DONE true
    (true, if boot then t.report 1 x.cl x.arg r.1 (segAddr x.cl (s.segStored x.cl x.arg).start) else t)

/-- A record acts; the answer tells whether it did, or was a record error. A failed FETCH is noted for the end of the section. -/
def State.doRecord (s : State) (b n : Nat) (boot : Bool) (fetchErrors : List Nat) (x : JigRec) : Bool × State :=
  if s.recordBad b n x then (false, s)
  else match x.type with
    | 1 => (true, s.storeReached x.dest (s.secBytes b n x.off x.len) (fun a => n == 6 && !boot && inFailBuffer a))
    | 2 => (true, (List.range (x.len / 16)).foldl (fun t k =>
        t.deviceWrite (s.secNat b n (x.off + 16 * k) 8) (s.secNat b n (x.off + 16 * k + 8) 4)) s)
    | 3 => (true, (if (s.rg x.cl).fenced then [] else List.range 16).foldl (fun t e =>
        (t.loadWords b n (x.off + 20 * e) 5 (fun u w v => u.partnerWrite (patReg x.cl e w) v 15)).patWritten x.cl e) s)
    | 4 =>
      let k := s.secNat b n (x.off + 8) 8
      if s.fetchGood b x fetchErrors then (true, s.storeReached x.dest (s.bytesAt (s.secNat b n x.off 8) k) (fun _ => false))
      else
        let t := if boot then s.report 2 x.cl x.idx 0 x.dest else s
        (true, t.updBoot (fun b => { b with lateFetch := b.lateFetch ++ [(x.dest, k)] }))
    | 5 => (true, s.loadWords b n x.off 1024 (fun u i v => u.loadReg (sstReg x.cl (i / 4) (i % 4)) v))
    | _ => s.codeRecord x boot

/-- Records in order, up to the first error, which the answer tells of. -/
def State.doRecords (s : State) (b n : Nat) (boot : Bool) (fetchErrors : List Nat) : List JigRec → Bool × State
  | [] => (true, s)
  | x :: l =>
    let r := s.doRecord b n boot fetchErrors x
    if r.1 then r.2.doRecords b n boot fetchErrors l else r

/-- The state after records without an error. -/
def loaded (r : Bool × State) : Option State := if r.1 then some r.2 else none

/-- Every VALID MEM_PAT entry that overlaps a range is damaged; an empty range overlaps none (R438). -/
def State.damageRange (s : State) (dest n : Nat) : State :=
  allPats.foldl (fun t x =>
    if n != 0 && t.patValid x.1 x.2 && decide (t.patBase x.1 x.2 < dest + n) && decide (dest < t.patBase x.1 x.2 + t.patLen x.1 x.2) then
      t.setBit (MEM_PAT_W1 x.1 x.2) MEM_PAT_W1_DAMAGED true
    else t) s

/-- After the PATTERN section the ranges of its failed FETCHes are damaged (R438). -/
def State.damageLate (s : State) : State :=
  let t := s.boot.lateFetch.foldl (fun t x => t.damageRange x.1 x.2) s
  t.updBoot (fun b => { b with lateFetch := [] })

/-! CALSEED and ROLES. -/

/-- The corrections of a cluster from CALSEED come into force as unverified (R322, R426). -/
def State.loadCalseed (s : State) (b c : Nat) : State :=
  let off := s.secNat b 7 (8 * c) 4
  if s.secHas b 7 && s.secNat b 7 (8 * c + 4) 4 == 1280 then
    let t := (List.range 128).foldl (fun t i => t.shimSet c i (s.secNat b 7 (off + 2 * i) 2 % 512)) s
    let dc := (List.range 512).foldl (fun u i =>
      tput (fun _ => (0 : Int)) u i (sx 16 (s.secNat b 7 (off + 256 + 2 * i) 2))) []
    let t := t.updGauge c (fun x => { x with dcForce := dc })
    (t.setBit (CAL_STAT c) CAL_STAT_UNVER_T true).setBit (CAL_STAT c) CAL_STAT_UNVER_DC true
  else s

/-- ROLES: eligibility, priority, and the links that begin training (R466). -/
def State.loadRoles (s : State) (b : Nat) : State :=
  if s.secHas b 9 then
    let en := s.secNat b 9 2 1
    let t := s.setFld VYN_ROLES VYN_ROLES_MASTER_ELIGIBLE (s.secNat b 9 0 1 % 2)
    let t := (t.setFld VYN_ROLES VYN_ROLES_ELECT_PRIORITY (s.secNat b 9 1 1)).setFld VYN_ROLES VYN_ROLES_LINK_EN en
    (bitsOf 8 en).foldl (fun t n => t.setFld (VYN_LINK n) VYN_LINK_STATE 1) t
  else s

/-! The boot sequence (R434, R436-R438). -/

/-- The registers of the boot controller, the fuses and what it goes on with, taken over from another state. -/
def State.takeBoot (t s : State) : State :=
  { t with
    fuses := s.fuses
    regs := s.regs.filter (fun x => decide (hubBlk 3 ≤ x.1) && decide (x.1 < hubBlk 4))
    boot := { s.boot with repairs := [], appends := [], lateFetch := [], modes := [] } }

/-- A reset that is no package reset leaves the fences standing, with the safe state of their pins (R41, R44). -/
def State.keepFences (t s : State) : State :=
  ((List.range 8).filter (fun r => (s.rg r).fenced)).foldl (fun u r =>
    let u := u.updRg r (fun x => { x with fenced := true, safe := (s.rg r).safe, safeDue := (s.rg r).safeDue })
    if (s.rg r).safe then (regionPins r).foldl (fun v p => v.safeHold p s.gt) u else u) t

/-- Boot starts again with the other bank, or fails, after a load failure: everything but the boot controller and the flash is reset
(R434); a fence stands (R41). -/
def State.loadFailed (s : State) (sect cause : Nat) : State :=
  let t := (s.packageReset.takeBoot s).keepFences s
  let o := otherBank s.boot.bank
  if t.headerValid o && !s.boot.tried.contains o then (t.setBit BOOT_STAT BOOT_STAT_FALLBACK true).bootBank o
  else t.bootFailed sect cause

/-- What loading a section of a bank gives: none for a record error. -/
def State.loadSection (s : State) (b n : Nat) (fetchErrors : List Nat) : Option State :=
  match n with
  | 1 => some (s.loadConfig b)
  | 2 => some ((List.range 64).foldl (fun t c =>
      (t.loadCstore b c).setFld (MOD_SVC_STAT c) MOD_SVC_STAT_BANK b) s)
  | 3 => some ((List.range 64).foldl (fun t c => t.loadPatch b c) s)
  | 5 => ((s.records b 5).bind (fun l => loaded (s.doRecords b 5 true fetchErrors l))).map State.damageLate
  | 7 => some ((List.range 64).foldl (fun t c => t.loadCalseed b c) s)
  | 8 => some (((s.reportHead b).loadRepair b).loadRepair (otherBank b))
  | 9 => some (s.loadRoles b)
  | _ => (s.records b n).bind (fun l => loaded (s.doRecords b n true fetchErrors l))

/-- The section after one that has loaded, and the boot phase it belongs to (Table 16-5): REPAIR first, then section order. -/
def nextSection (n : Nat) : Nat × Nat :=
  match n with
  | 8 => (1, 4)
  | 1 => (2, 5)
  | 7 => (9, 5)
  | 9 => (10, 6)
  | k => (k + 1, 5)

/-- A FETCH of the PATTERN section still waits for its expansion port (R438). -/
def State.fetchWaits (s : State) (b : Nat) : Bool :=
  !s.boot.expDown && ((s.records b 5).getD []).any (fun x => x.type == 4 &&
    (match addrKind (s.secNat b 5 x.off 8) with
      | .expansion k => s.expCapOf k == 0
      | _ => false))

/-- BOOT_SECTION_LOAD: the next section of the bank is read, checked and applied (R434, R436-R439). -/
def execBootSectionLoad (flashError : Bool) (fetchErrors : List Nat) (s : State) : Host.Outcome State Fault Refusal :=
  let b := s.boot.bank
  let n := s.boot.section_
  if 3 ≤ s.boot.phase ∧ s.boot.phase ≤ 5 then
    if flashError then ok (s.loadFailed n 4)
    else if s.secGood b n = false then ok (s.loadFailed n 2)
    else if n = 5 ∧ s.fetchWaits b then ok s
    else match s.loadSection b n fetchErrors with
      | some t =>
        let x := nextSection n
        let t := t.updBoot (fun b => { b with section_ := x.1, phase := x.2 })
        ok (if x.2 = 6 ∧ t.bit SYS_REF_CTRL SYS_REF_CTRL_LOCKED then t.bootCalibrate else t)
      | none => ok (s.loadFailed n 3)
  else ok s

/-- A calibration of a kind is held back by a condition of R310 other than the mode word, shim movement or converter idleness
(R437). -/
def State.calHeld (s : State) (c : Nat) (kind : CalKind) : Bool :=
  s.bit (CAL_CTRL c) (reqFld kind) &&
  ((clEngines c).any (fun e => (s.eng e).run.isSome) || s.fld (SYS_UNIT_MASK c) SYS_UNIT_MASK_EN_MASK == 15 ||
    s.bit CAL_REF_STAT (stopFld kind) ||
    (kind == .timing && (!s.bit SYS_REF_CTRL SYS_REF_CTRL_LOCKED || s.bit SYS_REF_CTRL SYS_REF_CTRL_HOLDOVER)))

/-- A cluster has ended both its calibrations, or one is held back (R437). -/
def State.bootCalibrated (s : State) (c : Nat) : Bool :=
  let g := (s.cl c).gauge
  (decide (1 ≤ g.endedDc) && decide (1 ≤ g.endedT)) || s.calHeld c .dc || s.calHeld c .timing

/-- Phase 8 in the clusters and regions: LOWPWR clears and REQ holds the modes of the jig (R294, R408). -/
def State.enterModes (s : State) : State :=
  let t := (List.range 64).foldl (fun t c =>
    (t.setBoth (ADC_CTRL c) (setF (t.reg (ADC_CTRL c)) ADC_CTRL_LOWPWR 0)).modReqNow c (s.boot.modes.getD c 0)) s
  (List.range 8).foldl (fun t r => t.precPowerWrite r 0 15) t

/-- BOOT_PHASE_8 (R437, Table 16-5). -/
def execBootPhase8 (g : Nat) (s : State) : Host.Outcome State Fault Refusal :=
  if g % 64 = 0 ∧ s.boot.phase = 7 ∧ (List.range 64).all s.bootCalibrated then
    let t := (s.at g).enterModes
    let t := (t.setBit BOOT_STAT BOOT_STAT_DONE true).setBit BOOT_STAT BOOT_STAT_BOOTING false
    let t := t.updBoot (fun b => { b with phase := 8 })
    ok ((List.range 8).foldl (fun t n =>
      if t.fld (FLW_CTRL n) FLW_CTRL_START_SRC = 2 ∧ t.cannotInsert n = false then (t.insertion n).putNewRecords t else t) t)
  else ok s

/-! Hub activation (R443). -/

/-- The FLOW and PATTERN sections of a bank applied; none for a digest mismatch or a record error, which is found before anything
changes. -/
def State.activateHub (s : State) (b : Nat) (fetchErrors : List Nat) : Option State :=
  if s.secGood b 4 && s.secGood b 5 then
    match s.records b 4, s.records b 5 with
    | some l, some m =>
      if l.any (s.recordBad b 4) || m.any (s.recordBad b 5) then none
      else (loaded (s.doRecords b 4 false fetchErrors l)).bind (fun t =>
        (loaded (t.doRecords b 5 false fetchErrors m)).map State.damageLate)
    | _, _ => none
  else none

/-- ACT_HUB_DONE: hub activation ends; its FETCHes too wait for their ports up to 100 ms from package reset (R438, R443). -/
def execActHubDone (flashError : Bool) (fetchErrors : List Nat) (s : State) : Host.Outcome State Fault Refusal :=
  if s.boot.actHub then
    let o := otherBank (s.fld BOOT_STAT BOOT_STAT_ACTIVE_BANK)
    let fin (t : State) : State :=
      (t.setBit BOOT_STAT BOOT_STAT_ACTIVATING false).updBoot (fun b => { b with actHub := false })
    if flashError = false ∧ s.fetchWaits o then ok s
    else match (if flashError then none else s.activateHub o fetchErrors) with
    | some t => ok (fin ((t.setFld BOOT_STAT BOOT_STAT_ACTIVE_BANK o).setReg BOOT_GEN (BitVec.ofNat 32 (s.bankGen o))))
    | none => ok (fin (s.setBit BOOT_STAT BOOT_STAT_ACT_FAILED true))
  else ok s

/-! Service commands (R418, R423, Table 15-4). -/

/-- A service command that could not read the flash: FAILED, with a CODE that no rule gives (a free value). -/
def State.svcFlashFail (s : State) (c : Nat) : State := (s.useFree).svcEnd c false (Config.freeNat s.free % 256)

/-- RELOAD completes. -/
def State.reloadDone (s : State) (c : Nat) (result : SvcEnd) : State :=
  let b := s.fld (MOD_SVC_STAT c) MOD_SVC_STAT_BANK
  if result = .flashError then s.svcFlashFail c
  else if result = .digestMismatch ∨ s.secGood b 2 = false ∨ s.secGood b 3 = false then s.svcEnd c false codeViolation
  else (((s.loadCstore b c).loadPatch b c).releaseStarts c).svcEnd c true codeOk

/-- MEMTEST completes: every block is restored, and the faulty rows, each as 16 × row + bank, are repaired (R345, R347). -/
def State.memtestDone (s : State) (c : Nat) (faultyRows : List Nat) : State :=
  let a := MEM_CL_MEMTEST c
  let t := (s.setBit a MEM_CL_MEMTEST_BUSY false).setFld a MEM_CL_MEMTEST_BLOCKS 1024
  let t := (faultyRows.eraseDups.filter (fun k => decide (k < 4096))).foldl (fun t k =>
    t.repairRow ⟨0, c, 16384 * (k / 16), 16⟩ (fun w => w.setBit a MEM_CL_MEMTEST_NOSPARE true) (k % 16)) t
  t.svcEnd c true codeOk

/-- The records of SEGMENT that concern a cluster. -/
def JigRec.forCluster (x : JigRec) (c : Nat) : Bool :=
  if x.type = 1 then addrKind x.dest == .scratch c else x.cl == c

/-- The CONFIG entries in a cluster's window are written. -/
def State.clusterConfig (s : State) (b c : Nat) : State :=
  (List.range (s.configCount b)).foldl (fun t k =>
    let a := s.configAddr b k
    match regLoc a with
    | some l => if l.win = 0 ∧ l.num = c then t.deviceWrite a (s.secNat b 1 (136 + 16 * k) 4) else t
    | none => t) s

/-- A cluster's parts of a bank are loaded; the answer tells whether all were. A record error ends it where it stands (log entry 73). -/
def State.activateParts (s : State) (b c : Nat) : Bool × State :=
  match s.records b 6 with
  | some l =>
    let m := l.filter (fun x => x.forCluster c)
    let r := (((s.loadCstore b c).loadPatch b c).releaseStarts c).doRecords b 6 false [] m
    if r.1 then (true, ((r.2.loadCalseed b c).clusterConfig b c).setFld (MOD_SVC_STAT c) MOD_SVC_STAT_BANK b) else r
  | none => (false, s)

/-- A cluster's parts of a bank, found good by its header and digests before anything changes. -/
def State.activateCluster (s : State) (b c : Nat) : Bool × State :=
  if s.headerValid b && [1, 2, 3, 6, 7].all (s.secGood b) then s.activateParts b c else (false, s)

/-- A cluster's parts of a bank that was written meanwhile: the bytes that were written read as free values, and whether the digests are
found good is one too (R426, log entry 126). -/
def State.activateSpoilt (s : State) (b c : Nat) (spoilt : List (Nat × Nat)) : Bool × State :=
  let t := spoilt.foldl (fun t x => (t.putFlash x.1 (t.freeBytes x.2)).useFrees x.2) s
  let r := if Config.freeNat t.free % 2 = 0 then (false, t.useFree) else t.useFree.activateParts b c
  (r.1, { r.2 with flash := s.flash })

/-- ACTIVATE completes: the parts of the bank other than the cluster's BANK are loaded and BANK names it (R443, Table 15-4). -/
def State.activateDone (s : State) (c : Nat) (v : Service) (result : SvcEnd) : State :=
  let b := otherBank (s.fld (MOD_SVC_STAT c) MOD_SVC_STAT_BANK)
  if result = .flashError then s.svcFlashFail c
  else
    let r := if v.spoilt ≠ [] then s.activateSpoilt b c v.spoilt
      else if result = .digestMismatch then (false, s) else s.activateCluster b c
    r.2.svcEnd c r.1 (if r.1 then codeOk else codeViolation)

/-- LOWPWR as it stood before RECOVER. -/
def State.lowPowerBack (s : State) (c : Nat) (v : Service) : State :=
  s.setBoth (ADC_CTRL c) (setF (s.reg (ADC_CTRL c)) ADC_CTRL_LOWPWR v.oldLowPower)

/-- RECOVER completes: with both calibrations accepted the cluster resumes; a rejected or discarded one ends it with FAILED (R423). -/
def State.recoverDone (s : State) (c : Nat) (v : Service) : State :=
  match v.calFail with
  | some code => (s.lowPowerBack c v).svcEnd c false code
  | none =>
    if v.doneDc ∧ v.doneT then
      (((s.lowPowerBack c v).modReqNow c v.resume).setBit (MOD_SVC_STAT c) MOD_SVC_STAT_DRAINED false).svcEnd c true codeOk
    else s

/-- SVC_COMMAND_DONE: a RELOAD, MEMTEST, ACTIVATE or RECOVER completes at grain g; RECOVER does so where its second calibration ends
accepted, or one of them fails, and so 140,204,032 gr after R when nothing holds it back (R418, R423, R424, Table 15-4). -/
def execSvcCommandDone (c : ClNo) (g : Nat) (result : SvcEnd) (faultyRows : List Nat) (s : State) : Host.Outcome State Fault Refusal :=
  match (s.cl c.val).svc with
  | some v => ok (match v.op with
    | 2 => s.reloadDone c.val result
    | 3 => s.memtestDone c.val faultyRows
    | 4 => s.activateDone c.val v result
    | 5 => if v.endAt = some g then (s.at g).recoverDone c.val v else s
    | _ => s)
  | none => ok s

end Sys2Proof.Machine
end

