-- ==== Sys2Proof/Machine/Dispatch.lean ====
section
/-! DEFINITION. The dispatch: one arm per command. -/

namespace Sys2Proof.Machine

/-- The effect of a command on everything but the queue. -/
def exec (i : Instr) (s : State) : Host.Outcome State Fault Refusal :=
  match i with
  | .resetNLow => Sys2Proof.Machine.execResetNLow s
  | .resetNHigh => Sys2Proof.Machine.execResetNHigh s
  | .bootHeadersRead errorA errorB => Sys2Proof.Machine.execBootHeadersRead errorA errorB s
  | .bootSectionLoad flashError fetchErrors => Sys2Proof.Machine.execBootSectionLoad flashError fetchErrors s
  | .fetchTimeout => Sys2Proof.Machine.execFetchTimeout s
  | .bootPhase8 g => Sys2Proof.Machine.execBootPhase8 g s
  | .hbmInitDone r => Sys2Proof.Machine.execHbmInitDone r s
  | .railUndervoltage rail => Sys2Proof.Machine.execRailUndervoltage rail s
  | .frontEndRailFault rail => Sys2Proof.Machine.execFrontEndRailFault rail s
  | .hbmRailFault r => Sys2Proof.Machine.execHbmRailFault r s
  | .tempRead g codes => Sys2Proof.Machine.execTempRead g codes s
  | .vcoreMeasure g replicas => Sys2Proof.Machine.execVcoreMeasure g replicas s
  | .timebaseLock g => Sys2Proof.Machine.execTimebaseLock g s
  | .holdoverEntry g => Sys2Proof.Machine.execHoldoverEntry g s
  | .refReturn g phaseKf => Sys2Proof.Machine.execRefReturn g phaseKf s
  | .phaseSlewStep g => Sys2Proof.Machine.execPhaseSlewStep g s
  | .holdoverTimeout g => Sys2Proof.Machine.execHoldoverTimeout g s
  | .refCtrlWrite port value be => Sys2Proof.Machine.execRefCtrlWrite port value be s
  | .gtLoRead port addr => Sys2Proof.Machine.execGtLoRead port addr s
  | .registerWrite port addr value be finds => Sys2Proof.Machine.execRegisterWrite port addr value be finds s
  | .rcFieldRead port addr be coinciding => Sys2Proof.Machine.execRcFieldRead port addr be coinciding s
  | .writeReachesPinTime addr b => Sys2Proof.Machine.execWriteReachesPinTime addr b s
  | .unitMaskWrite port c value be => Sys2Proof.Machine.execUnitMaskWrite port c value be s
  | .tenonProduced c lane stamp slots => Sys2Proof.Machine.execTenonProduced c lane stamp slots s
  | .tenonBoundary c b finds => Sys2Proof.Machine.execTenonBoundary c b finds s
  | .runStartGrain e g => Sys2Proof.Machine.execRunStartGrain e g s
  | .linkHeartbeat r die g => Sys2Proof.Machine.execLinkHeartbeat r die g s
  | .linkSilent r die g => Sys2Proof.Machine.execLinkSilent r die g s
  | .safeStateEntry r g => Sys2Proof.Machine.execSafeStateEntry r g s
  | .sliceDieFence d => Sys2Proof.Machine.execSliceDieFence d s
  | .engStart port e value => Sys2Proof.Machine.execEngStart port e value s
  | .runStart e finds => Sys2Proof.Machine.execRunStart e finds s
  | .cycleStart p g finds => Sys2Proof.Machine.execCycleStart p g finds s
  | .driveEdge p k start => Sys2Proof.Machine.execDriveEdge p k start s
  | .strobeTaken p tag start microvolts => Sys2Proof.Machine.execStrobeTaken p tag start microvolts s
  | .scribeLineWrite c => Sys2Proof.Machine.execScribeLineWrite c s
  | .scrFlush port c => Sys2Proof.Machine.execScrFlush port c s
  | .scrRptrWrite port c value => Sys2Proof.Machine.execScrRptrWrite port c value s
  | .scribeConfigWrite port c drain value be => Sys2Proof.Machine.execScribeConfigWrite port c drain value be s
  | .pinEdgeStamped p rising t16 => Sys2Proof.Machine.execPinEdgeStamped p rising t16 s
  | .tiaModeWrite port c u value => Sys2Proof.Machine.execTiaModeWrite port c u value s
  | .tiaRes0Read port c u => Sys2Proof.Machine.execTiaRes0Read port c u s
  | .shimTargetWrite port c k value => Sys2Proof.Machine.execShimTargetWrite port c k value s
  | .handoverStart p b finds => Sys2Proof.Machine.execHandoverStart p b finds s
  | .advCondSample p g => Sys2Proof.Machine.execAdvCondSample p g s
  | .delta4Convert port c value => Sys2Proof.Machine.execDelta4Convert port c value s
  | .delta4Done c finds => Sys2Proof.Machine.execDelta4Done c finds s
  | .protectionSample p g microvolts => Sys2Proof.Machine.execProtectionSample p g microvolts s
  | .latchClearWrite port c mask b => Sys2Proof.Machine.execLatchClearWrite port c mask b s
  | .wordOpen e g finds => Sys2Proof.Machine.execWordOpen e g finds s
  | .next e g => Sys2Proof.Machine.execNext e g s
  | .jump e g => Sys2Proof.Machine.execJump e g s
  | .branchTakeEffect e g => Sys2Proof.Machine.execBranchTakeEffect e g s
  | .call e g => Sys2Proof.Machine.execCall e g s
  | .ret e g => Sys2Proof.Machine.execRet e g s
  | .loop e g => Sys2Proof.Machine.execLoop e g s
  | .ldcnt e g => Sys2Proof.Machine.execLdcnt e g s
  | .wait e g => Sys2Proof.Machine.execWait e g s
  | .waitCheck e g => Sys2Proof.Machine.execWaitCheck e g s
  | .resume e g => Sys2Proof.Machine.execResume e g s
  | .halt e g => Sys2Proof.Machine.execHalt e g s
  | .romcall e g => Sys2Proof.Machine.execRomcall e g s
  | .badop e g => Sys2Proof.Machine.execBadop e g s
  | .vopNop e g finds => Sys2Proof.Machine.execVopNop e g finds s
  | .vopStream e g finds => Sys2Proof.Machine.execVopStream e g finds s
  | .vopTset e g finds => Sys2Proof.Machine.execVopTset e g finds s
  | .vopSeek e g finds => Sys2Proof.Machine.execVopSeek e g finds s
  | .vopLdcnt e g finds => Sys2Proof.Machine.execVopLdcnt e g finds s
  | .vopLoopb e g finds => Sys2Proof.Machine.execVopLoopb e g finds s
  | .vopCall e g finds => Sys2Proof.Machine.execVopCall e g finds s
  | .vopRet e g finds => Sys2Proof.Machine.execVopRet e g finds s
  | .vopBrcond e g finds => Sys2Proof.Machine.execVopBrcond e g finds s
  | .vopWaitf e g finds => Sys2Proof.Machine.execVopWaitf e g finds s
  | .vopSigf e g finds => Sys2Proof.Machine.execVopSigf e g finds s
  | .vopAct e g finds => Sys2Proof.Machine.execVopAct e g finds s
  | .vopDict e g finds => Sys2Proof.Machine.execVopDict e g finds s
  | .vopSubst e g finds => Sys2Proof.Machine.execVopSubst e g finds s
  | .vopHalt e g finds => Sys2Proof.Machine.execVopHalt e g finds s
  | .vopBad e g finds => Sys2Proof.Machine.execVopBad e g finds s
  | .systemFlagTakeEffect f g => Sys2Proof.Machine.execSystemFlagTakeEffect f g s
  | .flagSetWrite port addr value b => Sys2Proof.Machine.execFlagSetWrite port addr value b s
  | .flagClrWrite port addr value b => Sys2Proof.Machine.execFlagClrWrite port addr value b s
  | .deadlock e g => Sys2Proof.Machine.execDeadlock e g s
  | .runEnd e g => Sys2Proof.Machine.execRunEnd e g s
  | .csRead port c value finds => Sys2Proof.Machine.execCsRead port c value finds s
  | .csWrite port c value => Sys2Proof.Machine.execCsWrite port c value s
  | .csStoreRefused port c value => Sys2Proof.Machine.execCsStoreRefused port c value s
  | .engPmWrite port c n value => Sys2Proof.Machine.execEngPmWrite port c n value s
  | .decoderRestart e lane v => Sys2Proof.Machine.execDecoderRestart e lane v s
  | .vectorLineFetch e lane addr finds => Sys2Proof.Machine.execVectorLineFetch e lane addr finds s
  | .frameDecode e lane => Sys2Proof.Machine.execFrameDecode e lane s
  | .hbmShareWrite port r value be => Sys2Proof.Machine.execHbmShareWrite port r value be s
  | .acqArm port d b => Sys2Proof.Machine.execAcqArm port d b s
  | .acqAbort port d b => Sys2Proof.Machine.execAcqAbort port d b s
  | .trigger d n input => Sys2Proof.Machine.execTrigger d n input s
  | .autoTimeout d input => Sys2Proof.Machine.execAutoTimeout d input s
  | .triggerFlagSet d b => Sys2Proof.Machine.execTriggerFlagSet d b s
  | .recordLastSample d n input => Sys2Proof.Machine.execRecordLastSample d n input s
  | .acqRangeWrite port d value b => Sys2Proof.Machine.execAcqRangeWrite port d value b s
  | .acqLineStage d ring input => Sys2Proof.Machine.execAcqLineStage d ring input s
  | .pulseStart port c mask b => Sys2Proof.Machine.execPulseStart port c mask b s
  | .pulseEnd p g => Sys2Proof.Machine.execPulseEnd p g s
  | .adcStart port c b => Sys2Proof.Machine.execAdcStart port c b s
  | .adcTimerEvent c g => Sys2Proof.Machine.execAdcTimerEvent c g s
  | .adcSequenceBegin c g => Sys2Proof.Machine.execAdcSequenceBegin c g s
  | .adcSequenceEnd c g codes => Sys2Proof.Machine.execAdcSequenceEnd c g codes s
  | .adcResultRead port conv => Sys2Proof.Machine.execAdcResultRead port conv s
  | .pcCtrlWrite port r value be b => Sys2Proof.Machine.execPcCtrlWrite port r value be b s
  | .pcConversion r g code => Sys2Proof.Machine.execPcConversion r g code s
  | .calRequestTiming port c b => Sys2Proof.Machine.execCalRequestTiming port c b s
  | .calRequestDc port c b => Sys2Proof.Machine.execCalRequestDc port c b s
  | .calStart c kind g => Sys2Proof.Machine.execCalStart c kind g s
  | .calPass2 c g => Sys2Proof.Machine.execCalPass2 c g s
  | .calEnd c g res => Sys2Proof.Machine.execCalEnd c g res s
  | .calApply c b => Sys2Proof.Machine.execCalApply c b s
  | .driftMeasure g refA refB vrefA vrefB => Sys2Proof.Machine.execDriftMeasure g refA refB vrefA vrefB s
  | .timingFailover g othersIdle => Sys2Proof.Machine.execTimingFailover g othersIdle s
  | .scrubRead w finds => Sys2Proof.Machine.execScrubRead w finds s
  | .storeReload storeAddr flashError => Sys2Proof.Machine.execStoreReload storeAddr flashError s
  | .blockTest t => Sys2Proof.Machine.execBlockTest t s
  | .blockTestDone t faultyRows => Sys2Proof.Machine.execBlockTestDone t faultyRows s
  | .pprGo port r value => Sys2Proof.Machine.execPprGo port r value s
  | .pprDone r resourceLeft => Sys2Proof.Machine.execPprDone r resourceLeft s
  | .memPatWrite port r n w value be => Sys2Proof.Machine.execMemPatWrite port r n w value be s
  | .wipe port => Sys2Proof.Machine.execWipe port s
  | .wipeEnd => Sys2Proof.Machine.execWipeEnd s
  | .tamper => Sys2Proof.Machine.execTamper s
  | .ringTailWrite port ring tail => Sys2Proof.Machine.execRingTailWrite port ring tail s
  | .doorbell port value => Sys2Proof.Machine.execDoorbell port value s
  | .descriptorFetch ring finds remote fails => Sys2Proof.Machine.execDescriptorFetch ring finds remote fails s
  | .ringRestart port ring => Sys2Proof.Machine.execRingRestart port ring s
  | .burstStart ring g finds remote => Sys2Proof.Machine.execBurstStart ring g finds remote s
  | .dmaBeat e finds remote fails => Sys2Proof.Machine.execDmaBeat e finds remote fails s
  | .burstComplete ring finds fails => Sys2Proof.Machine.execBurstComplete ring finds fails s
  | .ringAlloc port r => Sys2Proof.Machine.execRingAlloc port r s
  | .ringFree port r value => Sys2Proof.Machine.execRingFree port r value s
  | .poolTake port r => Sys2Proof.Machine.execPoolTake port r s
  | .poolPut port r value => Sys2Proof.Machine.execPoolPut port r value s
  | .flowGo port n => Sys2Proof.Machine.execFlowGo port n s
  | .flowStartFlag n => Sys2Proof.Machine.execFlowStartFlag n s
  | .flowCont port n => Sys2Proof.Machine.execFlowCont port n s
  | .pattern n finds => Sys2Proof.Machine.execPattern n finds s
  | .measure n finds => Sys2Proof.Machine.execMeasure n finds s
  | .limit n finds => Sys2Proof.Machine.execLimit n finds s
  | .branch n finds => Sys2Proof.Machine.execBranch n finds s
  | .bin n finds => Sys2Proof.Machine.execBin n finds s
  | .log n finds => Sys2Proof.Machine.execLog n finds s
  | .cal n finds => Sys2Proof.Machine.execCal n finds s
  | .flowWait n finds => Sys2Proof.Machine.execFlowWait n finds s
  | .share n finds => Sys2Proof.Machine.execShare n finds s
  | .endEntry n finds => Sys2Proof.Machine.execEndEntry n finds s
  | .flowEntryComplete n g => Sys2Proof.Machine.execFlowEntryComplete n g s
  | .logRptrWrite port value => Sys2Proof.Machine.execLogRptrWrite port value s
  | .flowConfigWrite port addr value be => Sys2Proof.Machine.execFlowConfigWrite port addr value be s
  | .summaryArrive c => Sys2Proof.Machine.execSummaryArrive c s
  | .benchTake => Sys2Proof.Machine.execBenchTake s
  | .packageSummaryTake arrived => Sys2Proof.Machine.execPackageSummaryTake arrived s
  | .modReqWrite port c value be => Sys2Proof.Machine.execModReqWrite port c value be s
  | .modeShutdownDone c mode b => Sys2Proof.Machine.execModeShutdownDone c mode b s
  | .drain port c cut d => Sys2Proof.Machine.execDrain port c cut d s
  | .drainEnd c g => Sys2Proof.Machine.execDrainEnd c g s
  | .drained c => Sys2Proof.Machine.execDrained c s
  | .reload port c => Sys2Proof.Machine.execReload port c s
  | .memtest port c => Sys2Proof.Machine.execMemtest port c s
  | .activate port c => Sys2Proof.Machine.execActivate port c s
  | .recover port c resume b => Sys2Proof.Machine.execRecover port c resume b s
  | .svcOpRefused port c value => Sys2Proof.Machine.execSvcOpRefused port c value s
  | .svcCommandDone c g result faultyRows => Sys2Proof.Machine.execSvcCommandDone c g result faultyRows s
  | .flashRead port => Sys2Proof.Machine.execFlashRead port s
  | .flashProgram port => Sys2Proof.Machine.execFlashProgram port s
  | .flashErase port => Sys2Proof.Machine.execFlashErase port s
  | .flashOpRefused port => Sys2Proof.Machine.execFlashOpRefused port s
  | .flashCmdDone error => Sys2Proof.Machine.execFlashCmdDone error s
  | .reboot port => Sys2Proof.Machine.execReboot port s
  | .actHub port => Sys2Proof.Machine.execActHub port s
  | .actHubDone flashError fetchErrors => Sys2Proof.Machine.execActHubDone flashError fetchErrors s
  | .lcTransition port value => Sys2Proof.Machine.execLcTransition port value s
  | .lcFusesProgrammed => Sys2Proof.Machine.execLcFusesProgrammed s
  | .repairAppend array inst bank row spare => Sys2Proof.Machine.execRepairAppend array inst bank row spare s
  | .partnerLinkTrained port rate width => Sys2Proof.Machine.execPartnerLinkTrained port rate width s
  | .partnerMemoryWrite port offset data finds => Sys2Proof.Machine.execPartnerMemoryWrite port offset data finds s
  | .partnerMemoryRead port offset len finds remote => Sys2Proof.Machine.execPartnerMemoryRead port offset len finds remote s
  | .partnerReadTimeout port addr => Sys2Proof.Machine.execPartnerReadTimeout port addr s
  | .oversizedRegisterRequest port addr isWrite => Sys2Proof.Machine.execOversizedRegisterRequest port addr isWrite s
  | .evtRptrWrite port n value => Sys2Proof.Machine.execEvtRptrWrite port n value s
  | .expansionLinkChange x up bytes => Sys2Proof.Machine.execExpansionLinkChange x up bytes s
  | .vyeneLinkTrained n lanes peer peerLink w => Sys2Proof.Machine.execVyeneLinkTrained n lanes peer peerLink w s
  | .vyeneLinkDrop n lost => Sys2Proof.Machine.execVyeneLinkDrop n lost s
  | .systemDeclare w => Sys2Proof.Machine.execSystemDeclare w s
  | .idAssignment tag uids reserved declared => Sys2Proof.Machine.execIdAssignment tag uids reserved declared s
  | .systemJoin n joiner refused => Sys2Proof.Machine.execSystemJoin n joiner refused s
  | .elect port => Sys2Proof.Machine.execElect port s
  | .election others => Sys2Proof.Machine.execElection others s
  | .lease g => Sys2Proof.Machine.execLease g s
  | .leaseReceive n epoch master gt => Sys2Proof.Machine.execLeaseReceive n epoch master gt s
  | .leaseLapse g => Sys2Proof.Machine.execLeaseLapse g s
  | .conflict g claimant => Sys2Proof.Machine.execConflict g claimant s
  | .conflictSafeState g => Sys2Proof.Machine.execConflictSafeState g s
  | .dowel port => Sys2Proof.Machine.execDowel port s
  | .release port id => Sys2Proof.Machine.execRelease port id s
  | .alignment n g pairs far => Sys2Proof.Machine.execAlignment n g pairs far s
  | .lAdopt g links => Sys2Proof.Machine.execLAdopt g links s
  | .systemConditionMessage m g => Sys2Proof.Machine.execSystemConditionMessage m g s
  | .syncOutPulse g => Sys2Proof.Machine.execSyncOutPulse g s
  | .syncInEdge g => Sys2Proof.Machine.execSyncInEdge g s
  | .readS requester line reply finds => Sys2Proof.Machine.execReadS requester line reply finds s
  | .readX requester line reply finds => Sys2Proof.Machine.execReadX requester line reply finds s
  | .upgrade requester line finds => Sys2Proof.Machine.execUpgrade requester line finds s
  | .putM sender line data finds => Sys2Proof.Machine.execPutM sender line data finds s
  | .putE sender line finds => Sys2Proof.Machine.execPutE sender line finds s
  | .fwdS target line answer finds => Sys2Proof.Machine.execFwdS target line answer finds s
  | .fwdX target line answer finds => Sys2Proof.Machine.execFwdX target line answer finds s
  | .inv target line finds => Sys2Proof.Machine.execInv target line finds s
  | .snoopTargetUnreachable target => Sys2Proof.Machine.execSnoopTargetUnreachable target s
  | .tamperNHigh => Sys2Proof.Machine.execTamperNHigh s
  | .flitResend n => Sys2Proof.Machine.execFlitResend n s
  | .atomicopRequest port => Sys2Proof.Machine.execAtomicopRequest port s
  | .remoteAccess fromPkg addr data len poison finds => Sys2Proof.Machine.execRemoteAccess fromPkg addr data len poison finds s

end Sys2Proof.Machine
end

