-- ==== Sys2Proof/Safety.lean ====
section
/-! DEFINITION. What a sound state is: every sparse table and every memory in its one canonical form, so that equal contents are equal
data. -/

namespace Sys2Proof.Machine

/-- The canonical form of a memory of bytes: rising addresses, no byte that an unlisted address reads as (0, R517). -/
def Memory.wf (m : List Host.Cell) : Bool := twf (fun _ => (0 : Byte)) m

/-- The keys of a table rise above a bound. -/
def risingFrom {α : Type} : Option Nat → Tbl α → Bool
  | _, [] => true
  | none, x :: t => risingFrom (some x.1) t
  | some m, x :: t => decide (m < x.1) && risingFrom (some x.1) t

/-- Every table of the state is canonical. -/
structure Canonical (s : State) : Prop where
  regs : twf regReset s.regs = true
  force : twf regReset s.force = true
  shadows : twf (fun _ => (0 : Word)) s.shadows = true
  mem : Memory.wf s.mem = true
  poison : twf (fun _ => false) s.poison = true
  stores : twf (fun _ => haltWord) s.stores = true
  storePoison : twf (fun _ => false) s.storePoison = true
  storeWritten : twf (fun _ => false) s.storeWritten = true
  codings : twf (fun _ => none) s.codings = true
  flags : twf (fun _ => false) s.flags = true
  flagSets : twf (fun _ => ((0, 0) : Nat × Nat)) s.flagSets = true
  pins : twf (fun _ => ({} : PinSt)) s.pins = true
  clusters : twf (fun _ => ({} : ClSt)) s.clusters = true
  engines : twf (fun _ => ({} : EngSt)) s.engines = true
  digs : twf (fun _ => ({} : DigSt)) s.digs = true
  regions : twf (fun _ => ({} : RgSt)) s.regions = true
  dmaLast : twf (fun _ => 63) s.dmaLast = true
  chans : twf (fun _ => ({} : ChanSt)) s.chans = true
  rings : twf (fun _ => ({} : RingSt)) s.rings = true
  flows : twf (fun _ => ({} : FlowSt)) s.flows = true
  sites : twf (fun _ => ({} : SiteSt)) s.sites = true
  ports : twf (fun _ => ({} : PortSt)) s.ports = true
  cache : twf (fun _ => ({} : CacheLine)) s.cache = true
  dir : twf (fun _ => DirEntry.i) s.dir = true
  homeBusy : risingFrom none s.homeBusy = true
  expCap : twf (fun _ => 0) s.expCap = true
  flash : twf (fun _ => (0xFF : Byte)) s.flash = true

/-- A partner's write of the register at an address reaches it: its region is not fenced (R42), and boot neither is in progress nor has
failed, where that bars the write (R434, R435). -/
abbrev State.reaches (s : State) (a : Nat) : Prop := s.fencedAt a = false ∧ s.writeBarred a = false

/-- What a command keeps: the queue it finds, and the canonical form of what it finds in canonical form. -/
structure Keep (s t : State) : Prop where
  queue : t.pending = s.pending
  canonical : Canonical s → Canonical t

/-! Terms of the statements. -/

/-- Every register but those of a list is as before. -/
def State.regsKept (s t : State) (l : List Nat) : Prop := ∀ a, a ∉ l → t.reg a = s.reg a

/-- Every pin of two states agrees in all but its player, which notes the bytes of its segments that are written over (R152): an event may
be written there. -/
def State.pinsKept (s t : State) : Prop := ∀ p, { t.pin p with player := none } = { s.pin p with player := none }

/-- The package-local bytes from a on, n of them, lie in one memory range outside the shared flow space and answer accesses. -/
abbrev State.plain (s : State) (a n : Nat) : Prop :=
  isMemory a = true ∧ isFlow a = false ∧ (∀ i, i < n → addrKind (a + i) = addrKind a) ∧ ∀ i, i < n → s.busErrorAt (a + i) = false

/-- The H-form word w of engine e closes at grain g: it plays, its last cycle ends there, and no pending branch is due by then (R186). -/
abbrev State.closesAt (s : State) (e g : Nat) (w : Micro) : Prop :=
  (s.eng e).word = some w ∧ s.engRuns e = true ∧ (s.eng e).vform = false ∧ (s.eng e).nextAt = some g ∧ (s.eng e).pendDue g = false

/-- Two states differ in the grain and engine e only. -/
abbrev State.onlyEngine (s t : State) (e g : Nat) : Prop :=
  t = { s with gt := max s.gt g, engines := t.engines } ∧ ∀ k, k ≠ e → t.eng k = s.eng k

/-- The datalog ring lies over no register, and no writer waits for room in it: a record that fits is stored in memory at once (R398, R400). -/
abbrev State.logFree (s : State) : Prop := s.logWait = [] ∧ ∀ o, o < s.logSize → addrKind (s.logBase + o) ≠ .register
/-- Flow engine n is about to execute the entry x: it runs with no entry in progress and no record of it waiting, x is the entry at the lowest
pointer for the sites there (R385), and its 64 bytes lie in plain memory that is not poisoned. -/
abbrev State.entryDue (s : State) (n : Nat) (x : FlowEntry) : Prop :=
  s.flowOn n = true ∧ (s.flow n).entry = none ∧ s.bit (FLW_STAT n) FLW_STAT_LOGWAIT = false ∧ s.nextEntry n = some (x.idx, x.sites) ∧
  s.plain (s.flowTable n + 64 * x.idx) 64 ∧ s.anyPoison (s.flowTable n + 64 * x.idx) 64 = false ∧
  x.bytes = (List.range 64).map (fun i => s.byteAt (s.flowTable n + 64 * x.idx + i))

/-- The port and the register of a command that is a partner's write of one register; none for the other commands. -/
def writtenRegister : Instr → Option (PortNo × Nat)
  | .registerWrite p a _ _ _ => if regAligned a then some (p, a) else none
  | .unitMaskWrite p c _ _ => some (p, SYS_UNIT_MASK c.val)
  | .evtRptrWrite p n _ => some (p, PRT_EVT_RPTR n.val)
  | .acqArm p d _ => some (p, ACQ_CTRL (digCl d.val) (d.val % 2))
  | .acqAbort p d _ => some (p, ACQ_CTRL (digCl d.val) (d.val % 2))
  | .acqRangeWrite p d _ _ => some (p, ACQ_RANGE (digCl d.val) (d.val % 2))
  | .reboot p => some (p, BOOT_CTRL)
  | .flashRead p => some (p, BOOT_FL_CMD)
  | .flashProgram p => some (p, BOOT_FL_CMD)
  | .flashErase p => some (p, BOOT_FL_CMD)
  | .flashOpRefused p => some (p, BOOT_FL_CMD)
  | .actHub p => some (p, BOOT_CTRL)
  | .lcTransition p _ => some (p, BOOT_LC_CMD)
  | .latchClearWrite p c _ _ => some (p, CLP_STAT c.val)
  | .adcStart p c _ => some (p, ADC_CMD c.val)
  | .pulseStart p c _ _ => some (p, PMU_PULSE_CMD c.val)
  | .pcCtrlWrite p r _ _ _ => some (p, PC_CTRL r.val)
  | .flagSetWrite p a _ _ => match flagReg a with
    | some (_, true) => some (p, a)
    | _ => none
  | .flagClrWrite p a _ _ => match flagReg a with
    | some (_, false) => some (p, a)
    | _ => none
  | .logRptrWrite p _ => some (p, FLW_LOG_RPTR)
  | .flowGo p n => some (p, FLW_CTRL n.val)
  | .flowCont p n => some (p, FLW_CTRL n.val)
  | .flowConfigWrite p a _ _ => some (p, a)
  | .calRequestTiming p c _ => some (p, CAL_CTRL c.val)
  | .calRequestDc p c _ => some (p, CAL_CTRL c.val)
  | .delta4Convert p c _ => some (p, SEG_CODE_CMD c.val)
  | .modReqWrite p c _ _ => some (p, MOD_REQ c.val)
  | .drain p c _ _ => some (p, MOD_SVC_CMD c.val)
  | .reload p c => some (p, MOD_SVC_CMD c.val)
  | .memtest p c => some (p, MOD_SVC_CMD c.val)
  | .activate p c => some (p, MOD_SVC_CMD c.val)
  | .recover p c _ _ => some (p, MOD_SVC_CMD c.val)
  | .svcOpRefused p c _ => some (p, MOD_SVC_CMD c.val)
  | .refCtrlWrite p _ _ => some (p, SYS_REF_CTRL)
  | .ringTailWrite p r _ => some (p, ringPtr r.val)
  | .doorbell p _ => some (p, PRT_DB p.val)
  | .ringRestart p r => some (p, ringCfg r.val)
  | .ringFree p r _ => some (p, DMA_FREE r.val)
  | .poolPut p r _ => some (p, DMA_POOL_PUT r.val)
  | .engStart p e _ => some (p, ENG_CTRL (engCl e.val) (e.val % 4))
  | .scrFlush p c => some (p, SCR_FLUSH c.val)
  | .scrRptrWrite p c _ => some (p, SCR_RPTR c.val)
  | .scribeConfigWrite p c drain _ _ => some (p, if drain then SCR_DRAIN c.val else SCR_CTRL c.val)
  | .pprGo p r _ => some (p, MEM_PPR_CMD r.val)
  | .memPatWrite p r n w _ _ => some (p, patReg r.val n.val w.val)
  | .wipe p => some (p, SEC_CTRL)
  | .csRead p c _ _ => some (p, ENG_CS_CMD c.val)
  | .csWrite p c _ => some (p, ENG_CS_CMD c.val)
  | .csStoreRefused p c _ => some (p, ENG_CS_CMD c.val)
  | .engPmWrite p c n _ => some (p, ENG_PM c.val n.val)
  | .hbmShareWrite p r _ _ => some (p, MEM_HBM_SHARE r.val)
  | .tiaModeWrite p c u _ => some (p, TMG_TIA_CTRL c.val u.val)
  | .shimTargetWrite p c i _ => some (p, TMG_SHIM c.val i.val)
  | .release p _ => some (p, VYN_CMD)
  | .elect p => some (p, VYN_CMD)
  | .dowel (some p) => some (p, VYN_CMD)
  | _ => none

end Sys2Proof.Machine
end

