-- ==== Sys2Proof/Certificates/Slice0/Obligations.lean ====
section
/-! DEFINITION. The statements about the model, by family of commands. -/

set_option linter.unusedVariables false

open Sys2Proof Sys2Proof.Machine

/-- Each step takes the command at the front of the queue and is exec of it with the queue's rest; with no command waiting one grain passes,
and nothing else changes (log entry 1: the model's choice). -/
def Obligations.StepRunsTheFrontCommand : Prop :=
  (∀ (c : Instr) (rest : List Instr) (s : State), s.pending = c :: rest → step s = exec c { s with pending := rest }) ∧
  (∀ s : State, s.pending = [] → step s = .next { s with gt := s.gt + 1 })

/-- The state after reset is in canonical form, its memory lists nothing and no command waits. -/
def Obligations.ResetIsCanonical : Prop :=
  Canonical State.reset ∧ Memory.wf State.reset.mem = true ∧ State.reset.mem = [] ∧ State.reset.pending = []

/-- The model's invariant: every step from a state whose tables and memories are in canonical form ends in such a state. No step stops, and
the queue loses its front command and nothing else. -/
def Obligations.EveryStepKeepsTheCanonicalForm : Prop :=
  ∀ s : State, Canonical s → ∃ t, step s = .next t ∧ Canonical t ∧ t.pending = s.pending.tail

/-- R435, R434: while boot is in progress a partner's write of a register outside the hub BOOT block, and after a failed boot one outside
the hub BOOT and PRT blocks, is ignored and logged with its address, in a fenced region too (log entry 29). R42: another one of a register
of a fenced region changes nothing. This holds for every command that is such a write. -/
def Obligations.FencedAndBarredWritesDoNotAct : Prop :=
  ∀ (i : Instr) (p : PortNo) (a : Nat) (s : State), writtenRegister i = some (p, a) →
    (s.fencedAt a = true → s.writeBarred a = false → exec i s = .next s) ∧
    (s.bit BOOT_STAT BOOT_STAT_BOOTING = true → ¬ (hubBlk 3 ≤ a ∧ a < hubBlk 4) →
      exec i s = .next (s.violation 0x01 p.val 0 0 a)) ∧
    (s.bit BOOT_STAT BOOT_STAT_FAILED = true → ¬ (hubBlk 3 ≤ a ∧ a < hubBlk 5) →
      exec i s = .next (s.violation 0x01 p.val 0 0 a))

/-- R509, R510, R434, R517: RESET_N low, an under-voltage of VDD_IO or VDD_CORE and a REBOOT are package resets: every register reads its
reset value, every memory, store, run and pin is as after reset, and the flash stands, and the fuses too unless they are being programmed
(log entry 149). RESET_N high then starts boot. -/
def Obligations.PackageResetsAndBootStart : Prop :=
  ∀ (port : PortNo) (rail : CoreRail) (s : State),
    (∃ t, exec .resetNLow s = .next t ∧ t.resetN = false ∧ t.boot.phase = 0 ∧ (∀ a, t.reg a = regReset a) ∧ t.mem = [] ∧
      t.stores = [] ∧ t.runs = [] ∧ t.pins = [] ∧ t.engines = [] ∧ t.clusters = [] ∧ t.flash = s.flash ∧
      (s.boot.lcTarget = none → t.fuses = s.fuses)) ∧
    (∃ t, exec (.railUndervoltage rail) s = .next t ∧ t.resetN = s.resetN ∧ (∀ a, t.reg a = regReset a) ∧ t.mem = [] ∧
      t.stores = [] ∧ t.runs = [] ∧ t.pins = [] ∧ t.flash = s.flash ∧ (s.boot.lcTarget = none → t.fuses = s.fuses)) ∧
    (s.reaches BOOT_CTRL → ∃ t, exec (.reboot port) s = .next t ∧ (∀ a, t.reg a = regReset a) ∧ t.mem = [] ∧ t.runs = [] ∧
      t.boot.phase = (if s.resetN then 1 else 0) ∧ t.flash = s.flash ∧ (s.boot.lcTarget = none → t.fuses = s.fuses)) ∧
    (s.resetN = false → ∃ t, exec .resetNHigh s = .next t ∧ t.boot.phase = 1 ∧
      t = { s with resetN := true, boot := { s.boot with phase := 1 } })

/-- R433, R434: boot takes the valid bank with the larger GENERATION, bank A when they are equal, and goes on with its REPAIR section; after
a flash error on one header it goes on with the other bank and sets FALLBACK, when that is valid (log entry 129); with no bank left it
fails, says why, and every pin is held. R437, R294, R408: at a tenon boundary at which each cluster has ended, or cannot start, its
calibrations, boot is done and every cluster is asked for the mode its jig gives it; the engines that start with boot begin their
insertions. FETCH_TIMEOUT (R438): no FETCH waits any longer. -/
def Obligations.BootChoosesABankAndEnds : Prop :=
  (∀ (s : State), s.boot.phase = 1 →
    (∀ b, b < 2 → s.headerValid b = true → (s.headerValid (1 - b) = true → s.bankGen (1 - b) < s.bankGen b ∨
        (s.bankGen (1 - b) = s.bankGen b ∧ b = 0)) →
      ∃ t, exec (.bootHeadersRead false false) s = .next t ∧ t.fld BOOT_STAT BOOT_STAT_ACTIVE_BANK = b ∧
        t.reg BOOT_GEN = BitVec.ofNat 32 (s.bankGen b) ∧
        t.boot = { s.boot with phase := 3, bank := b, tried := s.boot.tried ++ [b], section_ := 8, reports := 0 } ∧
        t = { s with regs := t.regs, boot := t.boot } ∧ s.regsKept t [BOOT_STAT, BOOT_GEN] ∧
        ∀ f : Fld, f.lo ≤ f.hi → (f.hi < BOOT_STAT_ACTIVE_BANK.lo ∨ BOOT_STAT_ACTIVE_BANK.hi < f.lo) →
          t.fld BOOT_STAT f = s.fld BOOT_STAT f) ∧
    (∀ o, o < 2 → s.headerValid o = true → ∃ t, exec (.bootHeadersRead (o == 1) (o == 0)) s = .next t ∧
      t.bit BOOT_STAT BOOT_STAT_FALLBACK = true ∧ t.fld BOOT_STAT BOOT_STAT_ACTIVE_BANK = o ∧
      t.reg BOOT_GEN = BitVec.ofNat 32 (s.bankGen o) ∧
      t.boot = { s.boot with phase := 3, bank := o, tried := s.boot.tried ++ [1 - o] ++ [o], section_ := 8, reports := 0 } ∧
      t = { s with regs := t.regs, boot := t.boot } ∧ s.regsKept t [BOOT_STAT, BOOT_GEN]) ∧
    (∀ eA eB, ((eA = true ∨ s.headerValid 0 = false) ∧ (eB = true ∨ s.headerValid 1 = false)) →
      ∃ t, exec (.bootHeadersRead eA eB) s = .next t ∧ t.bit BOOT_STAT BOOT_STAT_FAILED = true ∧ t.bit BOOT_STAT BOOT_STAT_BOOTING = false ∧
        t.fld BOOT_STAT BOOT_STAT_CAUSE = (if eA || eB then 4 else 1) ∧ t.fld BOOT_STAT BOOT_STAT_SECTION = 0 ∧
        (∀ p, p < 1024 → (t.pin p).held = true) ∧ t = { s with regs := t.regs, boot := t.boot, pins := t.pins } ∧
        s.regsKept t [BOOT_STAT])) ∧
  (∀ (g : Nat) (s : State),
    (g % 64 = 0 → s.boot.phase = 7 → (∀ c, c < 64 → s.bootCalibrated c = true) →
      ∃ u, exec (.bootPhase8 g) s = .next ((List.range 8).foldl (fun t n =>
          if t.fld (FLW_CTRL n) FLW_CTRL_START_SRC = 2 ∧ t.cannotInsert n = false then (t.insertion n).putNewRecords t else t) u) ∧
        u.boot = { s.boot with phase := 8 } ∧ u.bit BOOT_STAT BOOT_STAT_DONE = true ∧ u.bit BOOT_STAT BOOT_STAT_BOOTING = false ∧
        (∀ c, c < 64 → u.inForce (MOD_REQ c) = BitVec.ofNat 32 (s.boot.modes.getD c 0)) ∧ u.gt = max s.gt g ∧
        u = { s with gt := u.gt, regs := u.regs, force := u.force, inFlight := u.inFlight, boot := u.boot }) ∧
    exec .fetchTimeout s = .next { s with boot := { s.boot with expDown := true } })

/-- R434, R436: a good section is loaded and the next one follows in the order of Table 16-5, whatever REPAIR, CONFIG, CSTORE, PATCH, CALSEED
and ROLES hold, and without FLOW, PATTERN or SEGMENT; PATTERN waits for the ports its FETCHes need
(R438); a flash error, a digest mismatch or a record error sends boot to the other bank, or ends it when no bank remains. -/
def Obligations.BootLoadsSections : Prop :=
  ∀ (e : Bool) (f : List Nat) (s : State), 3 ≤ s.boot.phase → s.boot.phase ≤ 5 → s.boot.section_ ≤ 9 →
    (∀ u, e = false → s.secGood s.boot.bank s.boot.section_ = true → ¬(s.boot.section_ = 5 ∧ s.fetchWaits s.boot.bank = true) →
      s.loadSection s.boot.bank s.boot.section_ f = some u →
      ∃ t, exec (.bootSectionLoad e f) s = .next t ∧ t.boot.section_ = (nextSection s.boot.section_).1 ∧
        (((nextSection s.boot.section_).2 ≠ 6 ∨ u.bit SYS_REF_CTRL SYS_REF_CTRL_LOCKED = false) →
          t = { u with boot := { u.boot with section_ := (nextSection s.boot.section_).1, phase := (nextSection s.boot.section_).2 } }) ∧
        ((nextSection s.boot.section_).2 = 6 → u.bit SYS_REF_CTRL SYS_REF_CTRL_LOCKED = true → t.boot.phase = 7 ∧
          ∀ c, c < 64 → t.bit (CAL_CTRL c) CAL_CTRL_REQ_DC = true ∧ t.bit (CAL_CTRL c) CAL_CTRL_REQ_T = true)) ∧
    (e = false → s.secGood s.boot.bank s.boot.section_ = true → (s.boot.section_ ∈ [1, 2, 3, 7, 8, 9] ∨
        (s.boot.section_ ∈ [4, 5, 6] ∧ s.secHas s.boot.bank s.boot.section_ = false)) →
      ∃ t, exec (.bootSectionLoad e f) s = .next t ∧ t.boot.section_ = (nextSection s.boot.section_).1 ∧
        (t.boot.phase = (nextSection s.boot.section_).2 ∨ (s.boot.section_ = 9 ∧ t.boot.phase = 7)) ∧
        (s.boot.section_ ∈ [4, 6] → t.regs = s.regs ∧ t.mem = s.mem ∧ t.stores = s.stores ∧ t.flash = s.flash)) ∧
    (e = false → s.boot.section_ = 5 → s.secGood s.boot.bank 5 = true → s.fetchWaits s.boot.bank = true →
      exec (.bootSectionLoad e f) s = .next s) ∧
    ((e = true ∨ s.secGood s.boot.bank s.boot.section_ = false ∨
        (¬(s.boot.section_ = 5 ∧ s.fetchWaits s.boot.bank = true) ∧ s.loadSection s.boot.bank s.boot.section_ f = none)) →
      (s.headerValid (otherBank s.boot.bank) = true → otherBank s.boot.bank ∉ s.boot.tried →
        ∃ t, exec (.bootSectionLoad e f) s = .next t ∧ t.bit BOOT_STAT BOOT_STAT_FALLBACK = true ∧ t.boot.phase = 3 ∧
          t.boot.bank = otherBank s.boot.bank ∧ t.fld BOOT_STAT BOOT_STAT_ACTIVE_BANK = otherBank s.boot.bank ∧ t.mem = [] ∧
          t.stores = [] ∧ t.flash = s.flash ∧ t.fuses = s.fuses ∧ (∀ a, a < hubBlk 3 ∨ hubBlk 4 ≤ a → t.reg a = regReset a)) ∧
      ((s.headerValid (otherBank s.boot.bank) = false ∨ otherBank s.boot.bank ∈ s.boot.tried) →
        ∃ t, exec (.bootSectionLoad e f) s = .next t ∧ t.bit BOOT_STAT BOOT_STAT_FAILED = true ∧
          t.bit BOOT_STAT BOOT_STAT_BOOTING = false ∧
          t.fld BOOT_STAT BOOT_STAT_CAUSE = (if e then 4 else if s.secGood s.boot.bank s.boot.section_ = false then 2 else 3) ∧
          t.fld BOOT_STAT BOOT_STAT_SECTION = s.boot.section_ ∧ (∀ p, p < 1024 → (t.pin p).held = true) ∧ t.mem = [] ∧
          t.flash = s.flash ∧ (∀ a, a < hubBlk 3 ∨ hubBlk 4 ≤ a → t.reg a = regReset a)))

/-- R442: a flash command begins and reads BUSY unless BUSY or BOOTING is 1, OP is 3, or it programs or erases a bank that is named; then
REFUSED sets and the flash is as before. An address that is no multiple of the unit is worked on at a free unit (log entry 36). A flash
command that ends without a flash error has read 256 bytes into BOOT_FL_DATA, programmed them from it over erased bytes, or erased a
sector; no other byte of the flash changes, BUSY reads 0. A cluster that loads nothing is as before (R426). -/
def Obligations.FlashCommandsRunOrAreRefused : Prop :=
  (∀ (port : PortNo) (s : State), s.reaches BOOT_FL_CMD → s.bit BOOT_STAT BOOT_STAT_BOOTING = false →
    (∀ x ∈ [((0, 256), Instr.flashRead port), ((1, 256), Instr.flashProgram port), ((2, 65536), Instr.flashErase port)],
      s.bit BOOT_FL_CMD BOOT_FL_CMD_BUSY = false →
      (x.1.1 = 0 ∨ s.bankNamed ((s.reg BOOT_FL_ADDR).toNat % 2 ^ 31 / 0x40000000) = false) →
      ∃ t a, exec x.2 s = .next t ∧ t.bit BOOT_FL_CMD BOOT_FL_CMD_BUSY = true ∧ t.boot = { s.boot with flashOp := some (x.1.1, a) } ∧
        a % x.1.2 = 0 ∧ (∀ c, (s.cl c).svc = none → t.cl c = s.cl c) ∧ (s.fld BOOT_FL_ADDR BOOT_FL_ADDR_ADDR % x.1.2 = 0 → a = s.fld BOOT_FL_ADDR BOOT_FL_ADDR_ADDR ∧ t.free = s.free) ∧
        t = { s with regs := t.regs, boot := t.boot, free := t.free, clusters := t.clusters } ∧ s.regsKept t [BOOT_FL_CMD]) ∧
    (∀ x ∈ [(0, Instr.flashRead port), (1, Instr.flashProgram port), (2, Instr.flashErase port), (3, Instr.flashOpRefused port)],
      (s.bit BOOT_FL_CMD BOOT_FL_CMD_BUSY = true ∨ x.1 = 3 ∨
        (1 ≤ x.1 ∧ s.bankNamed ((s.reg BOOT_FL_ADDR).toNat % 2 ^ 31 / 0x40000000) = true)) →
      ∃ t, exec x.2 s = .next t ∧ t.bit BOOT_FL_CMD BOOT_FL_CMD_REFUSED = true ∧
        t.bit BOOT_FL_CMD BOOT_FL_CMD_BUSY = s.bit BOOT_FL_CMD BOOT_FL_CMD_BUSY ∧ t.boot = s.boot ∧ t.flash = s.flash)) ∧
  (∀ (a : Nat) (s : State),
    (s.boot.flashOp = some (0, a) → ∃ t, exec (.flashCmdDone false) s = .next t ∧
      (∀ k, k < 64 → t.reg (BOOT_FL_DATA k) = BitVec.ofNat 32 (ofLe (((s.flashBytes a 256).drop (4 * k)).take 4))) ∧
      t.bit BOOT_FL_CMD BOOT_FL_CMD_BUSY = false ∧ t.boot = { s.boot with flashOp := none } ∧
      t = { s with regs := t.regs, boot := t.boot } ∧ s.regsKept t (BOOT_FL_CMD :: (List.range 64).map BOOT_FL_DATA)) ∧
    (s.boot.flashOp = some (1, a) → ∃ t, exec (.flashCmdDone false) s = .next t ∧
      (∀ i, i < 256 → s.flashByte (a + i) = 0xFF → t.flashByte (a + i) = s.flData.getD i 0) ∧
      (∀ m, m < a ∨ a + 256 ≤ m → t.flashByte m = s.flashByte m) ∧
      t.bit BOOT_FL_CMD BOOT_FL_CMD_BUSY = false ∧ t.boot = { s.boot with flashOp := none } ∧
      (∀ c, (s.cl c).svc = none → t.cl c = s.cl c) ∧
      t = { s with regs := t.regs, boot := t.boot, flash := t.flash, free := t.free, clusters := t.clusters } ∧
      s.regsKept t [BOOT_FL_CMD]) ∧
    (s.boot.flashOp = some (2, a) → ∃ t, exec (.flashCmdDone false) s = .next t ∧
      (∀ m, t.flashByte m = if a ≤ m ∧ m < a + 65536 then 0xFF else s.flashByte m) ∧
      t.bit BOOT_FL_CMD BOOT_FL_CMD_BUSY = false ∧ t.boot = { s.boot with flashOp := none } ∧
      (∀ c, (s.cl c).svc = none → t.cl c = s.cl c) ∧
      t = { s with regs := t.regs, boot := t.boot, flash := t.flash, clusters := t.clusters } ∧ s.regsKept t [BOOT_FL_CMD]))

/-- R443: a write of ACT_HUB begins a hub activation when no boot, activation or flow engine is under way and the other bank's header is
valid, and is otherwise without effect; its end waits for the ports of its FETCHes (R438), and makes the other bank the active one, or
sets ACT_FAILED. -/
def Obligations.HubActivationBeginsAndEnds : Prop :=
  ∀ (port : PortNo) (e : Bool) (f : List Nat) (s : State),
    (s.reaches BOOT_CTRL → s.bit BOOT_STAT BOOT_STAT_BOOTING = false →
      (s.bit BOOT_STAT BOOT_STAT_ACTIVATING = false → (∀ n, n < 8 → s.bit (FLW_STAT n) FLW_STAT_RUNNING = false) →
        s.headerValid (otherBank (s.fld BOOT_STAT BOOT_STAT_ACTIVE_BANK)) = true →
        ∃ t, exec (.actHub port) s = .next t ∧ t.bit BOOT_STAT BOOT_STAT_ACTIVATING = true ∧ t.boot = { s.boot with actHub := true } ∧
          t = { s with regs := t.regs, boot := t.boot } ∧ s.regsKept t [BOOT_STAT]) ∧
      ((s.bit BOOT_STAT BOOT_STAT_ACTIVATING = true ∨ (∃ n, n < 8 ∧ s.bit (FLW_STAT n) FLW_STAT_RUNNING = true) ∨
        s.headerValid (otherBank (s.fld BOOT_STAT BOOT_STAT_ACTIVE_BANK)) = false) → exec (.actHub port) s = .next s)) ∧
    (s.boot.actHub = true →
      (e = false → s.fetchWaits (otherBank (s.fld BOOT_STAT BOOT_STAT_ACTIVE_BANK)) = true → exec (.actHubDone e f) s = .next s) ∧
      (∀ u, e = false → s.fetchWaits (otherBank (s.fld BOOT_STAT BOOT_STAT_ACTIVE_BANK)) = false →
        s.activateHub (otherBank (s.fld BOOT_STAT BOOT_STAT_ACTIVE_BANK)) f = some u →
        ∃ t, exec (.actHubDone e f) s = .next t ∧ t.bit BOOT_STAT BOOT_STAT_ACTIVATING = false ∧
          t.fld BOOT_STAT BOOT_STAT_ACTIVE_BANK = otherBank (s.fld BOOT_STAT BOOT_STAT_ACTIVE_BANK) ∧
          t.reg BOOT_GEN = BitVec.ofNat 32 (s.bankGen (otherBank (s.fld BOOT_STAT BOOT_STAT_ACTIVE_BANK))) ∧
          t.boot = { u.boot with actHub := false } ∧ t = { u with regs := t.regs, boot := t.boot } ∧
          u.regsKept t [BOOT_STAT, BOOT_GEN]) ∧
      ((e = true ∨ (s.fetchWaits (otherBank (s.fld BOOT_STAT BOOT_STAT_ACTIVE_BANK)) = false ∧
        s.activateHub (otherBank (s.fld BOOT_STAT BOOT_STAT_ACTIVE_BANK)) f = none)) →
        ∃ t, exec (.actHubDone e f) s = .next t ∧ t.bit BOOT_STAT BOOT_STAT_ACTIVATING = false ∧
          t.bit BOOT_STAT BOOT_STAT_ACT_FAILED = true ∧ t.fld BOOT_STAT BOOT_STAT_ACTIVE_BANK = s.fld BOOT_STAT BOOT_STAT_ACTIVE_BANK ∧
          t.boot = { s.boot with actHub := false } ∧ t = { s with regs := t.regs, boot := t.boot } ∧ s.regsKept t [BOOT_STAT]))

/-- R444, R354: a life-cycle transition is accepted only forward, out of boot, with no run and no flow engine running; when its fuses are
programmed, those below TARGET are 1 and the secure scratchpad is wiped. R440: a repair is programmed into the first erased entry of the active bank; no other byte of the flash
changes; without an erased entry REPAIR_FULL sets. R354: a write of 1 to WIPE that reaches SEC_CTRL begins a wipe unless one is in
progress: every byte and poison mark of the scratchpad clears and no other memory changes; it ends with WIPES counted. R355: sixteen low
samples begin a wipe in the same way, set TAMPERED and log VIOLATION with the cause tamper; a high sample ends the substitution's state of
the pin. -/
def Obligations.LifeCycleRepairsAndWipes : Prop :=
  (∀ (port : PortNo) (v : Word) (s : State),
    (s.reaches BOOT_LC_CMD → getF v BOOT_LC_CMD_GO = 1 → getF v BOOT_LC_CMD_CONFIRM = 0x4C43 →
      (s.lc < getF v BOOT_LC_CMD_TARGET → s.bit BOOT_STAT BOOT_STAT_BOOTING = false → s.runs = [] →
        (∀ n, n < 8 → s.bit (FLW_STAT n) FLW_STAT_RUNNING = false) →
        ∃ t, exec (.lcTransition port v) s = .next t ∧ t.bit BOOT_LC_CMD BOOT_LC_CMD_BUSY = true ∧
          t.boot = { s.boot with lcTarget := some (max (getF v BOOT_LC_CMD_TARGET) (s.boot.lcTarget.getD 0)) } ∧
          t = { s with regs := t.regs, boot := t.boot } ∧ s.regsKept t [BOOT_LC_CMD]) ∧
      ((getF v BOOT_LC_CMD_TARGET ≤ s.lc ∨ s.bit BOOT_STAT BOOT_STAT_BOOTING = true ∨ s.runs ≠ [] ∨
        (∃ n, n < 8 ∧ s.bit (FLW_STAT n) FLW_STAT_RUNNING = true)) →
        ∃ t, exec (.lcTransition port v) s = .next t ∧ t.bit BOOT_LC_CMD BOOT_LC_CMD_REFUSED = true ∧ t.boot = s.boot ∧
          t.fuses = s.fuses)) ∧
    (∀ n, s.boot.lcTarget = some n → s.bit SEC_STAT SEC_STAT_WIPING = false →
      ∃ t, exec .lcFusesProgrammed s = .next t ∧ t.fuses = s.fuses ||| (2 ^ n - 1) ∧ t.bit BOOT_LC_CMD BOOT_LC_CMD_BUSY = false ∧
        t.bit SEC_STAT SEC_STAT_WIPING = true ∧ t.boot = { s.boot with lcTarget := none } ∧
        (∀ a, t.byteAt a = if 0x3FF00000000 ≤ a ∧ a < 0x3FF00100000 then 0 else s.byteAt a))) ∧
  (∀ (array inst bank row spare : Nat) (s : State), (array, inst, bank, row, spare) ∈ s.boot.appends →
    (∀ a, s.erasedRepair (s.fld BOOT_STAT BOOT_STAT_ACTIVE_BANK) = some a →
      ∃ t, exec (.repairAppend array inst bank row spare) s = .next t ∧
        (∀ m, t.flashByte m = if a ≤ m ∧ m < a + 16 then (repairEntry array inst bank row spare).getD (m - a) 0 else s.flashByte m) ∧
        t.boot = { s.boot with appends := s.boot.appends.erase (array, inst, bank, row, spare) } ∧
        t = { s with boot := t.boot, flash := t.flash }) ∧
    (s.erasedRepair (s.fld BOOT_STAT BOOT_STAT_ACTIVE_BANK) = none →
      ∃ t, exec (.repairAppend array inst bank row spare) s = .next t ∧ t.bit BOOT_STAT BOOT_STAT_REPAIR_FULL = true ∧
        t.boot = { s.boot with appends := s.boot.appends.erase (array, inst, bank, row, spare) } ∧
        t = { s with regs := t.regs, boot := t.boot } ∧ s.regsKept t [BOOT_STAT])) ∧
  (∀ (port : PortNo) (s : State),
    (s.reaches SEC_CTRL → s.bit SEC_STAT SEC_STAT_WIPING = false →
      ∃ t, exec (.wipe port) s = .next t ∧ t.bit SEC_STAT SEC_STAT_WIPING = true ∧
        (∀ a, t.byteAt a = if 0x3FF00000000 ≤ a ∧ a < 0x3FF00100000 then 0 else s.byteAt a) ∧
        (∀ l, tget (fun _ => false) t.poison l = (if 0x3FF00000000 / 64 ≤ l ∧ l < 0x3FF00100000 / 64 then false else tget (fun _ => false) s.poison l)) ∧
        t = { s with regs := t.regs, mem := t.mem, poison := t.poison } ∧ s.regsKept t [SEC_STAT]) ∧
    (s.reaches SEC_CTRL → s.bit SEC_STAT SEC_STAT_WIPING = true → exec (.wipe port) s = .next s) ∧
    (s.bit SEC_STAT SEC_STAT_WIPING = true → s.fld SEC_STAT SEC_STAT_WIPES < 2 ^ SEC_STAT_WIPES.width - 1 →
      ∃ t, exec .wipeEnd s = .next t ∧ t.bit SEC_STAT SEC_STAT_WIPING = false ∧
        t.fld SEC_STAT SEC_STAT_WIPES = s.fld SEC_STAT SEC_STAT_WIPES + 1 ∧ t = { s with regs := t.regs } ∧ s.regsKept t [SEC_STAT]) ∧
    (∃ t, exec .tamper s = .next t ∧ t.tamperN = false ∧
      t.bit SEC_STAT SEC_STAT_TAMPERED = true ∧ t.bit SEC_STAT SEC_STAT_WIPING = true ∧
      t = (({ s with tamperN := false }.beginWipe).setBit SEC_STAT SEC_STAT_TAMPERED true).violation 0x07 byDevice 0 0 0) ∧
    exec .tamperNHigh s = .next { s with tamperN := true })

/-- R66, R70: the timebase locks; the first lock after a package reset clears GT, a later one leaves it running. R67: a selected reference
that is lost puts the timebase into holdover. R69: after 67,108,864 gr of holdover every pin goes to the safe state and every run ends
with REF_SUSPECT. R68: a reference that returns in phase ends holdover at once; otherwise the phase moves 1 kf towards it, at most once in
64 gr, and holdover ends when the error is below 1 kf. R480: an alignment is corrected in the same steps. -/
def Obligations.TheTimebaseLocksHoldsOverAndSlews : Prop :=
  (∀ (g : Nat) (s : State),
    (s.bit SYS_REF_CTRL SYS_REF_CTRL_LOCKED = false → 5 ≤ s.boot.phase → s.boot.phase ≤ 8 →
      ∃ t, exec (.timebaseLock g) s = .next t ∧ t.bit SYS_REF_CTRL SYS_REF_CTRL_LOCKED = true ∧
        (s.hub.gtCleared = false → t.gt = 0) ∧ (s.hub.gtCleared = true → t.gt = max s.gt g) ∧
        t.flash = s.flash ∧ t.mem = s.mem ∧ ∀ e, t.eng e = s.eng e) ∧
    (s.bit SYS_REF_CTRL SYS_REF_CTRL_LOCKED = true → s.bit SYS_REF_CTRL SYS_REF_CTRL_HOLDOVER = false →
      ∃ t, exec (.holdoverEntry g) s = .next t ∧ t.bit SYS_REF_CTRL SYS_REF_CTRL_HOLDOVER = true ∧
        t.bit SYS_REF_CTRL SYS_REF_CTRL_LOCKED = true ∧ t.hub = { s.hub with holdSince := some g } ∧ t.runs = s.runs ∧
        s.pinsKept t) ∧
    (s.bit SYS_REF_CTRL SYS_REF_CTRL_HOLDOVER = true → 67108864 ≤ g → s.hub.holdSince = some (g - 67108864) →
      ∃ t u : State, exec (.holdoverTimeout g) s = .next t ∧ t = u.endRunsIf codeRefSuspect (some g) (fun _ => true) ∧ u.runs = s.runs ∧
        (∀ p, p < 1024 → (t.pin p).held = true) ∧ t.hub = { s.hub with holdSafe := true } ∧
        t = { s with gt := t.gt, hub := t.hub, pins := t.pins, runs := t.runs })) ∧
  (∀ (g : Nat) (e : Int) (s : State),
    (s.bit SYS_REF_CTRL SYS_REF_CTRL_HOLDOVER = true →
      ∃ t, exec (.refReturn g e) s = .next t ∧ t.hub.phaseErr = e ∧ t.hub.slewing = decide (e ≠ 0) ∧
        t.bit SYS_REF_CTRL SYS_REF_CTRL_HOLDOVER = decide (e ≠ 0) ∧ (e ≠ 0 → t.hub.slewAt = g + 64) ∧
        t = { s with gt := max s.gt g, regs := t.regs, hub := t.hub } ∧ s.regsKept t [SYS_REF_CTRL]) ∧
    (s.hub.slewing = true → s.hub.phaseErr ≠ 0 → s.hub.slewAt ≤ g →
      s.bit SYS_REF_CTRL SYS_REF_CTRL_HOLDOVER = true →
      ∃ t, exec (.phaseSlewStep g) s = .next t ∧ t.hub.phaseErr.natAbs + 1 = s.hub.phaseErr.natAbs ∧ t.hub.slewAt = g + 64 ∧
        t.hub.slewing = decide (t.hub.phaseErr ≠ 0) ∧ t.bit SYS_REF_CTRL SYS_REF_CTRL_HOLDOVER = decide (t.hub.phaseErr ≠ 0) ∧
        t = { s with gt := max s.gt g, regs := t.regs, hub := t.hub } ∧ s.regsKept t [SYS_REF_CTRL]) ∧
    (s.hub.slewing = false → s.hub.aligning = true → s.hub.phaseErr ≠ 0 → s.hub.slewAt ≤ g →
      ∃ t, exec (.phaseSlewStep g) s = .next t ∧ t.hub.phaseErr.natAbs + 1 = s.hub.phaseErr.natAbs ∧ t.hub.slewAt = g + 64 ∧
        t.hub.aligning = decide (t.hub.phaseErr ≠ 0) ∧ t = { s with gt := max s.gt g, hub := t.hub }))

/-- R65, R66: a write that changes TSEL or TFREQ is ignored while a cluster is busy; otherwise the timebase leaves lock and every pin goes to
the safe state. R329: a pending failover switches the timing reference at a tenon boundary with no run and no interruption, and asks every
cluster for a timing calibration. R479: the master of a domain waits until no package of it holds a run. -/
def Obligations.ReferenceSwitchesHoldThePins : Prop :=
  ∀ (port : PortNo) (v : Word) (be : BitVec 4) (g : Nat) (othersIdle : Bool) (s : State),
    (s.reaches SYS_REF_CTRL → (s.partnerWrite SYS_REF_CTRL v be).reg SYS_REF_CTRL ≠ s.reg SYS_REF_CTRL →
      ((∃ c, c < 64 ∧ s.active c &&& 23 ≠ 0) → ∃ t, exec (.refCtrlWrite port v be) s = .next t ∧
        t.reg SYS_REF_CTRL = s.reg SYS_REF_CTRL ∧ t.hub = s.hub ∧ t.runs = s.runs ∧ s.pinsKept t) ∧
      ((∀ c, c < 64 → s.active c &&& 23 = 0) → ∃ t, exec (.refCtrlWrite port v be) s = .next t ∧
        t.bit SYS_REF_CTRL SYS_REF_CTRL_LOCKED = false ∧ t.bit SYS_REF_CTRL SYS_REF_CTRL_HOLDOVER = false ∧
        t.fld SYS_REF_CTRL SYS_REF_CTRL_TSEL = (s.partnerWrite SYS_REF_CTRL v be).fld SYS_REF_CTRL SYS_REF_CTRL_TSEL ∧
        (∀ p, p < 1024 → (t.pin p).held = true) ∧ s.regsKept t [SYS_REF_CTRL, VYN_SYS_STAT])) ∧
    (s.reaches SYS_REF_CTRL → (s.partnerWrite SYS_REF_CTRL v be).reg SYS_REF_CTRL = s.reg SYS_REF_CTRL →
      exec (.refCtrlWrite port v be) s = .next s) ∧
    (othersIdle = false → s.leadsDomain = true → exec (.timingFailover g othersIdle) s = .next s) ∧
    (s.hub.failoverPending = true → g % 64 = 0 → s.runs = [] → (∀ c, c < 64 → (s.cl c).gauge.interruption = none) →
      (othersIdle = true ∨ s.leadsDomain = false) →
      ∃ t, exec (.timingFailover g othersIdle) s = .next t ∧
        t.fld SYS_REF_CTRL SYS_REF_CTRL_TSEL = otherRef (s.fld SYS_REF_CTRL SYS_REF_CTRL_TSEL) ∧
        t.bit SYS_REF_CTRL SYS_REF_CTRL_LOCKED = false ∧ t.bit CAL_REF_STAT CAL_REF_STAT_FAILOVER_T = true ∧
        (∀ c, c < 64 → t.bit (CAL_CTRL c) CAL_CTRL_REQ_T = true) ∧ (∀ p, p < 1024 → (t.pin p).held = true) ∧
        t.hub.failoverPending = false ∧ t.hub.failoverT = true)

/-- R72: a read of a _LO register answers the low half of the pair and keeps the high half of the same moment for the read of the _HI
register. R507: VCORE_MEASURE moves VID by the rule of MODE. R313, R514: every 16,777,216 gr each sensor is read; T_MAX is the largest
code; at 115 °C or above the package trips and fences every slice die. R323: every 1,073,741,824 gr the deviations of both references
enter the histories, those of the timing references only outside holdover. -/
def Obligations.PairReadsAndMeasurements : Prop :=
  (∀ (port : PortNo) (addr hi g : Nat) (l : List Nat) (s : State),
    (pairHi addr = some hi → s.fencedAt addr = false → ∃ t, exec (.gtLoRead port addr) s = .next t ∧
      t.outs = s.outs ++ [.completion port.val 0 (leBytes 4 (loHalf (s.pairNow addr hi)).toNat)] ∧
      tget (fun _ => (0 : Word)) t.shadows hi = hiHalf (s.pairNow addr hi) ∧
      (∀ k, k ≠ hi → tget (fun _ => (0 : Word)) t.shadows k = tget (fun _ => (0 : Word)) s.shadows k) ∧
      t = { s with shadows := t.shadows, outs := t.outs }) ∧
    (g % 1048576 = 0 → ∃ t, exec (.vcoreMeasure g l) s = .next t ∧
      t.fld SYS_VCORE_STAT SYS_VCORE_STAT_ST_PS = min 1023 (l.foldl max 0) ∧
      (s.bit SYS_VCORE_CTRL SYS_VCORE_CTRL_MODE = false → t.fld SYS_VCORE_STAT SYS_VCORE_STAT_VID = s.vidFixed) ∧
      (s.bit SYS_VCORE_CTRL SYS_VCORE_CTRL_MODE = true →
        s.vidFloor ≤ t.fld SYS_VCORE_STAT SYS_VCORE_STAT_VID ∧ t.fld SYS_VCORE_STAT SYS_VCORE_STAT_VID ≤ max s.vidFloor s.vidCeil ∧
        (s.vidFloor ≤ s.fld SYS_VCORE_STAT SYS_VCORE_STAT_VID → s.fld SYS_VCORE_STAT SYS_VCORE_STAT_VID < s.vidCeil →
          s.fld SYS_VCORE_CTRL SYS_VCORE_CTRL_TARGET < l.foldl max 0 →
          t.fld SYS_VCORE_STAT SYS_VCORE_STAT_VID = s.fld SYS_VCORE_STAT SYS_VCORE_STAT_VID + 1)) ∧
      t = { s with gt := max s.gt g, regs := t.regs } ∧ s.regsKept t [SYS_VCORE_STAT])) ∧
  (∀ (g : Nat) (codes : List (BitVec 12)) (a b va vb : Int) (s : State),
    (g % 16777216 = 0 → ∃ t, exec (.tempRead g codes) s = .next t ∧
      (∀ c, c < 64 → t.fld (CAL_TNOW c) CAL_TNOW_T_NOW = (codes.getD c 0).toNat ∧
        (codes.getD c 0).toNat ≤ t.fld SYS_THERM SYS_THERM_T_MAX) ∧
      (∃ c, c < 64 ∧ t.fld SYS_THERM SYS_THERM_HOT_CL = c ∧ t.fld SYS_THERM SYS_THERM_T_MAX = (codes.getD c 0).toNat) ∧
      (2864 ≤ t.fld SYS_THERM SYS_THERM_T_MAX → t.bit SYS_THERM SYS_THERM_TRIPPED = true ∧ ∀ r, r < 8 → (t.rg r).fenced = true) ∧
      (t.fld SYS_THERM SYS_THERM_T_MAX < 2864 → t.bit SYS_THERM SYS_THERM_TRIPPED = s.bit SYS_THERM SYS_THERM_TRIPPED ∧
        t.regions = s.regions ∧ t.runs = s.runs)) ∧
    (g % 1073741824 = 0 → ∃ t, exec (.driftMeasure g a b va vb) s = .next t ∧
      t.reg (CAL_HIST 1 0 0) = BitVec.ofInt 32 va ∧ t.reg (CAL_HIST 1 1 0) = BitVec.ofInt 32 vb ∧
      (∀ x k, x < 2 → k < 31 → t.reg (CAL_HIST 1 x (k + 1)) = s.reg (CAL_HIST 1 x k)) ∧
      (s.bit SYS_REF_CTRL SYS_REF_CTRL_HOLDOVER = false → t.reg (CAL_HIST 0 0 0) = BitVec.ofInt 32 a ∧
        t.reg (CAL_HIST 0 1 0) = BitVec.ofInt 32 b ∧
        ∀ x k, x < 2 → k < 31 → t.reg (CAL_HIST 0 x (k + 1)) = s.reg (CAL_HIST 0 x k)) ∧
      (s.bit SYS_REF_CTRL SYS_REF_CTRL_HOLDOVER = true → ∀ x k, x < 2 → k < 32 → t.reg (CAL_HIST 0 x k) = s.reg (CAL_HIST 0 x k)) ∧
      t.runs = s.runs ∧ s.pinsKept t))

/-- R19, R20, R52, R452: a partner's write of a register changes the enabled bytes of its RW fields and clears the W1C bits it writes 1 to;
nothing else changes. A register of pin time keeps its value in force and the write travels to the cluster (R496). A write outside the
register ranges is discarded and logged (R51, R56). R33, R36: a write of SYS_UNIT_MASK travels to pin time. R139, R496: the oldest write
of a register that is on its way reaches its cluster at a tenon boundary, 128 gr or more after it left, and waits there for its boundary,
the order of the writes staying; a release of Scribe records (R245) and Scribe's settings (R257) act as they arrive. R46: the message is a
transfer over the link of its slice die. -/
def Obligations.RegisterWritesReachTheirFields : Prop :=
  (∀ (port : PortNo) (a : Nat) (v : Word) (be : BitVec 4) (l : RegLoc) (x : RegRow) (finds : Finds) (s : State),
    (regLoc a = some l → regRow a = some x → a % 4 = 0 → be ≠ 0 → s.reaches a →
      (l.win = 2 → (l.blk = 2 ∨ l.blk = 5 ∨ 7 ≤ l.blk) →
        ∃ t, exec (.registerWrite port a v be finds) s = .next t ∧ t.reg a = writeWord x (s.reg a) v be ∧ s.regsKept t [a] ∧
          t = { s with regs := t.regs }) ∧
      (l.win = 0 → (l.blk = 0 ∨ l.blk = 3 ∨ l.blk = 4) → x.rw ≠ 0 →
        ∃ t, exec (.registerWrite port a v be finds) s = .next t ∧ t.reg a = writeWord x (s.reg a) v be ∧ s.regsKept t [a] ∧
          t.inFlight = s.inFlight ++ [{ addr := a, value := writeWord x (s.reg a) v be, port := 0, sent := s.gt }] ∧ t.inForce a = s.inForce a ∧
          t = { s with regs := t.regs, inFlight := t.inFlight })) ∧
    ((regLoc a = none ∨ a % 4 ≠ 0) → ∃ t, exec (.registerWrite port a v be finds) s = .next t ∧
      (∀ k, k < hubBlk 4 ∨ hubBlk 5 ≤ k → t.reg k = s.reg k) ∧ t.inFlight = s.inFlight ∧ t.runs = s.runs ∧ s.pinsKept t)) ∧
  (∀ (port : PortNo) (c : ClNo) (v : Word) (be : BitVec 4) (s : State),
    (s.reaches (SYS_UNIT_MASK c.val) → ∃ t, exec (.unitMaskWrite port c v be) s = .next t ∧
      (∃ x, regRow (SYS_UNIT_MASK c.val) = some x ∧ t.reg (SYS_UNIT_MASK c.val) = writeWord x (s.reg (SYS_UNIT_MASK c.val)) v be) ∧
      t.inFlight = s.inFlight ++ [{ addr := SYS_UNIT_MASK c.val, value := t.reg (SYS_UNIT_MASK c.val), port := 0, sent := s.gt }] ∧
      t = { s with regs := t.regs, inFlight := t.inFlight } ∧ s.regsKept t [SYS_UNIT_MASK c.val]) ∧
    (∀ (a b k : Nat) (m : PinMsg) (before after : List PinMsg), messageCluster a = some k → s.inFlight = before ++ m :: after →
      m.addr = a → m.reached = none → (∀ n ∈ before, n.addr = a → n.reached ≠ none) →
      ((b % 64 ≠ 0 ∨ b < m.sent + 128) → exec (.writeReachesPinTime a b) s = .next s) ∧
      (b % 64 = 0 → m.sent + 128 ≤ b →
      (actsOnArrival k a = false → ∃ t, exec (.writeReachesPinTime a b) s = .next t ∧
        t.inFlight = before ++ { m with reached := some b } :: after ∧ t.gt = max s.gt b ∧ (t.rg (k / 8)).lastSlice = max t.gt (s.rg (k / 8)).lastSlice ∧
        t = { s with gt := t.gt, regions := t.regions, inFlight := t.inFlight }) ∧
      (a = SCR_RPTR k → ∃ t, exec (.writeReachesPinTime a b) s = .next t ∧ t.inFlight = before ++ after ∧ t.inForce a = m.value ∧
        t.gt = max s.gt b ∧ t = { s with gt := t.gt, regions := t.regions, inFlight := t.inFlight, force := t.force }) ∧
      ((a = SCR_CTRL k ∨ a = SCR_DRAIN k) → ∃ t u : State, exec (.writeReachesPinTime a b) s = .next t ∧ u.inFlight = before ++ after ∧
        t = u.scribeSetting k a m.value ∧ u.gt = max s.gt b ∧ u = { s with gt := u.gt, regions := u.regions, inFlight := u.inFlight }))))

/-- R21: a read of a register with RC fields answers the value and resets those fields, to which a hardware update of the same moment is
applied; `n` is their value after it, and MIN_LEVEL takes no lead above its reset value. R446, R450, R453: an AtomicOp is answered with
Unsupported Request; a register read longer than 64 B or without an answer in time with Completer Abort, and both are logged. R446: a
port's link trains at a rate and width, or drops. R458: a write of PRT_EVT_RPTR ends the outstanding message; with entries left and IRQ_EN
a new one is sent at once, and a value ahead of WPTR acts as WPTR. R51: an expansion link's capacity is the whole lines its device
reports, at most 256 GiB, and 0 while it is down. -/
def Obligations.PartnerReadsAndPorts : Prop :=
  (∀ (port : PortNo) (a : Nat) (be : BitVec 4) (n : Nat) (l : RegLoc) (x : RegRow) (s : State),
    (regLoc a = some l → regRow a = some x → x.rc ≠ 0 → a % 4 = 0 → be ≠ 0 → s.fencedAt a = false → pairHi a = none → isPairHi a = false →
      s.readSpecial a l = none →
      ∃ t, exec (.rcFieldRead port a be n) s = .next t ∧
        t.outs = s.outs ++ [.completion port.val 0 (leBytes 4 (s.live a l &&& readMask a &&& beMask be).toNat)] ∧
        ((∀ c, c < 64 → a ≠ TMG_LEAD c) → t.reg a = (s.reg a &&& ~~~BitVec.ofNat 32 x.rc) ||| (BitVec.ofNat 32 n &&& BitVec.ofNat 32 x.rc)) ∧
        (∀ c, c < 64 → a = TMG_LEAD c → t.fld a TMG_LEAD_MIN_LEVEL = min (getF (BitVec.ofNat 32 n) TMG_LEAD_MIN_LEVEL) 512) ∧
        t = { s with regs := t.regs, outs := t.outs } ∧ s.regsKept t [a]) ∧
    exec (.atomicopRequest port) s = .next { s with outs := s.outs ++ [.completion port.val 2 []] } ∧
    (∃ t, exec (.partnerReadTimeout port a) s = .next t ∧ t.outs.getLast? = some (.completion port.val 1 []) ∧ t.runs = s.runs ∧
      (∀ k, k < hubBlk 4 ∨ hubBlk 5 ≤ k → t.reg k = s.reg k)) ∧
    (∃ t, exec (.oversizedRegisterRequest port a false) s = .next t ∧ t.outs.getLast? = some (.completion port.val 1 []) ∧
      (∀ k, k < hubBlk 4 ∨ hubBlk 5 ≤ k → t.reg k = s.reg k)) ∧
    (∃ t, exec (.oversizedRegisterRequest port a true) s = .next t ∧ t.runs = s.runs ∧
      (∀ k, k < hubBlk 4 ∨ hubBlk 5 ≤ k → t.reg k = s.reg k))) ∧
  (∀ (port n : PortNo) (x : ExpNo) (rate : Fin 7) (width : Fin 3) (up : Bool) (b : Nat) (value : Word) (s : State),
    (rate.val ≠ 0 → width.val ≠ 0 → ∃ t, exec (.partnerLinkTrained port rate width) s = .next t ∧ t.fld (PRT_LINK port.val) PRT_LINK_UP = 1 ∧
      t.fld (PRT_LINK port.val) PRT_LINK_RATE = rate.val ∧ t.fld (PRT_LINK port.val) PRT_LINK_WIDTH = width.val ∧
      t = { s with regs := t.regs } ∧ s.regsKept t [PRT_LINK port.val]) ∧
    (rate.val = 0 → ∃ t, exec (.partnerLinkTrained port rate width) s = .next t ∧ t.fld (PRT_LINK port.val) PRT_LINK_UP = 0 ∧
      t.fld (PRT_LINK port.val) PRT_LINK_RATE = 0 ∧ t.fld (PRT_LINK port.val) PRT_LINK_WIDTH = 0 ∧
      t = { s with regs := t.regs } ∧ s.regsKept t [PRT_LINK port.val]) ∧
    (∃ t, exec (.expansionLinkChange x up b) s = .next t ∧ (t.expCapOf x.val = if up then min (256 * 2 ^ 30) (b / 64 * 64) else 0) ∧
      (∀ k, k ≠ x.val → t.expCapOf k = s.expCapOf k) ∧ t = { s with expCap := t.expCap }) ∧
    (s.reaches (PRT_EVT_RPTR n.val) → value = s.reg (PRT_EVT_WPTR n.val) →
      ∃ t, exec (.evtRptrWrite port n value) s = .next t ∧ t.reg (PRT_EVT_RPTR n.val) = value ∧ (t.port n.val).outstanding = false ∧
        t = { s with regs := t.regs, ports := t.ports } ∧ s.regsKept t [PRT_EVT_RPTR n.val] ∧ ∀ k, k ≠ n.val → t.port k = s.port k) ∧
    (s.reaches (PRT_EVT_RPTR n.val) → value ≠ s.reg (PRT_EVT_WPTR n.val) → s.bit (PRT_EVT_CFG n.val) PRT_EVT_CFG_IRQ_EN = true →
      (value - s.reg (PRT_EVT_RPTR n.val)).toNat ≤ (s.reg (PRT_EVT_WPTR n.val) - s.reg (PRT_EVT_RPTR n.val)).toNat →
      ∃ t, exec (.evtRptrWrite port n value) s = .next t ∧ t.reg (PRT_EVT_RPTR n.val) = value ∧ (t.port n.val).outstanding = true ∧
        t = { s with regs := t.regs, ports := t.ports, outs := s.outs ++ [.msix n.val] } ∧ s.regsKept t [PRT_EVT_RPTR n.val]))

/-- R53, R448, R449: a BAR2 write to plain memory of this package writes exactly its enabled bytes; no other byte changes, and none of the
dictionary (R222, log entry 45). A read is answered with the bytes. R336: a poisoned line is answered with its poisoned-data bit. R55:
another package's access is served in the same way. -/
def Obligations.MemoryAccessesReadAndWriteBytes : Prop :=
  ∀ (port : PortNo) (pkg : PkgNo) (off n : Nat) (data : List (Option Byte)) (remote : Payload) (s : State),
    0 < n → s.bar2 port.val off / 2 ^ 42 = s.pkgId → s.pkgId < 16 →
    (data.length = n → s.plain (s.bar2 port.val off % 2 ^ 42) n → s.writeBarred (s.bar2 port.val off % 2 ^ 42) = false →
      ∀ x ∈ [(exec (.partnerMemoryWrite port off data []) s, s.outs),
             (exec (.remoteAccess pkg (s.bar2 port.val off) data n false []) s, s.outs ++ [.remoteReply pkg.val (.data [])])],
      ∃ t, x.1 = .next t ∧
        (∀ i b, data[i]? = some (some b) → inDictionary (s.bar2 port.val off % 2 ^ 42 + i) = false →
          t.byteAt (s.bar2 port.val off % 2 ^ 42 + i) = b) ∧
        (∀ i, (data[i]? = some none ∨ inDictionary (s.bar2 port.val off % 2 ^ 42 + i) = true) →
          t.byteAt (s.bar2 port.val off % 2 ^ 42 + i) = s.byteAt (s.bar2 port.val off % 2 ^ 42 + i)) ∧
        (∀ m, m < s.bar2 port.val off % 2 ^ 42 ∨ s.bar2 port.val off % 2 ^ 42 + n ≤ m → t.byteAt m = s.byteAt m) ∧
        s.pinsKept t ∧ t = { s with mem := t.mem, poison := t.poison, codings := t.codings, pins := t.pins, outs := x.2 }) ∧
    (s.plain (s.bar2 port.val off % 2 ^ 42) n → s.repairDue (s.bar2 port.val off % 2 ^ 42) = false →
      s.anyPoison (s.bar2 port.val off % 2 ^ 42) n = false →
      exec (.partnerMemoryRead port off n [] remote) s =
        .next (s.send (.completion port.val 0 ((List.range n).map (fun i => s.byteAt (s.bar2 port.val off % 2 ^ 42 + i))))) ∧
      exec (.remoteAccess pkg (s.bar2 port.val off) [] n false []) s =
        .next (s.send (.remoteReply pkg.val (.data ((List.range n).map (fun i => s.byteAt (s.bar2 port.val off % 2 ^ 42 + i))))))) ∧
    (s.plain (s.bar2 port.val off % 2 ^ 42) n → s.repairDue (s.bar2 port.val off % 2 ^ 42) = false →
      s.anyPoison (s.bar2 port.val off % 2 ^ 42) n = true →
      exec (.partnerMemoryRead port off n [] remote) s = .next (s.send (.completion port.val 3 (List.replicate n 0xFF))) ∧
      exec (.remoteAccess pkg (s.bar2 port.val off) [] n false []) s = .next (s.send (.remoteReply pkg.val .poisoned)))

/-- R45, R46: a heartbeat of a link's die is answered to the fabric at the grain it is sent; a link with no transfer for 32,768 gr is declared
silent, and the safe state of its region becomes due 4,096 gr later, unless it is due or in force already. R44: when it is
entered, every pin of the region is held and its PPMU acts as MV (R284), and no other pin changes. R41, R42, R510: a spine error, a
front-end rail fault and an HBM rail fault fence the slice dies they name, both regions of each; a fenced region stays so. -/
def Obligations.SilentLinksAndFencesHoldRegions : Prop :=
  (∀ (r : RgNo) (die : LinkDie) (g : Nat) (s : State),
    (∃ t, exec (.linkHeartbeat r die g) s = .next t ∧ g ≤ (t.rg r.val).lastOn die ∧
      (∀ d, d ≠ die → (t.rg r.val).lastOn d = (s.rg r.val).lastOn d) ∧ t.outs = s.outs ++ [.heartbeat r.val (die == .hub)] ∧
      (∀ k, k ≠ r.val → t.rg k = s.rg k) ∧ t = { s with gt := max s.gt g, regions := t.regions, outs := t.outs }) ∧
    ((s.rg r.val).lastOn die + 32768 ≤ g → (s.rg r.val).silent die = false →
      ∃ t, exec (.linkSilent r die g) s = .next t ∧ (t.rg r.val).silent die = true ∧
        ((s.rg r.val).safe = false → (s.rg r.val).safeDue = none → (t.rg r.val).safeDue = some (g + 4096)) ∧
        (((s.rg r.val).safe = true ∨ (s.rg r.val).safeDue ≠ none) → (t.rg r.val).safeDue = (s.rg r.val).safeDue) ∧
        (∀ k, k ≠ r.val → t.rg k = s.rg k) ∧ t = { s with gt := max s.gt g, regions := t.regions }) ∧
    (g < (s.rg r.val).lastOn die + 32768 → exec (.linkSilent r die g) s = .next s) ∧
    ((s.rg r.val).safeDue ≠ some g → exec (.safeStateEntry r g) s = .next s) ∧
    ((s.rg r.val).safeDue = some g → s.gt ≤ g →
      ∃ t, exec (.safeStateEntry r g) s = .next t ∧ (t.rg r.val).safe = true ∧ (t.rg r.val).safeDue = none ∧
        (∀ p ∈ regionPins r.val, t.pin p = { (s.pin p).hold g with pmuOn := false }) ∧ (∀ p ∈ regionPins r.val, (t.pin p).held = true) ∧
        (∀ p, p ∉ regionPins r.val → t.pin p = s.pin p) ∧
        (∀ k, k ≠ r.val → t.rg k = s.rg k) ∧ t = { s with gt := g, regions := t.regions, pins := t.pins, outs := t.outs })) ∧
  (∀ (d : DieNo) (r : RgNo) (rail : FeRail) (s : State),
    (∃ t, exec (.sliceDieFence d) s = .next t ∧ (t.rg (2 * d.val)).fenced = true ∧ (t.rg (2 * d.val + 1)).fenced = true ∧
      ∀ k, k ≠ 2 * d.val → k ≠ 2 * d.val + 1 → t.rg k = s.rg k) ∧
    (∃ t, exec (.hbmRailFault r) s = .next t ∧ (t.rg r.val).fenced = true) ∧
    (∃ t, exec (.frontEndRailFault rail) s = .next t ∧ ∀ k, k < 8 → (t.rg k).fenced = true) ∧
    (∃ t, exec (.hbmInitDone r) s = .next t ∧ (t.rg r.val).hbmInit = true ∧ t = { s with regions := t.regions } ∧
      ∀ k, k ≠ r.val → t.rg k = s.rg k))

/-- R216, R217, R220, R221: a restart begins a lane at the leaf of its vector; a line of the stream that can be read is taken in; the next
frame of a leaf whose bytes are all there is decoded with its successor address, and a malformed one is a stream fault at its address on
which every vector from it on depends. No other engine and nothing else of the package changes, but for the line count and the error logs
of a fetch. -/
def Obligations.DecodersFollowTheStream : Prop :=
  ∀ (e : EngNo) (lane : Lane) (v addr : Nat) (s : State), s.decodes e.val = true →
    (v / 4096 < (s.eng e.val).stream.leaves →
      ∃ t, exec (.decoderRestart e lane v) s = .next t ∧
        (t.eng e.val).decoder lane = {
          active := true, table := (s.eng e.val).stream.table, leaves := (s.eng e.val).stream.leaves, leaf := v / 4096, from_ := v,
          filled := ((s.eng e.val).decoder lane).filled } ∧
        t = { s with engines := t.engines } ∧ ∀ k, k ≠ e.val → t.eng k = s.eng k) ∧
    (∀ d, (s.eng e.val).decoder lane = d → d.active = true → d.wants (addr / 64) = true → addr / 64 ∉ d.lines →
      addr / 64 ∉ d.badLines → s.readOk (64 * (addr / 64)) 64 = true → s.poisoned (64 * (addr / 64)) = false →
      ∃ t, exec (.vectorLineFetch e lane addr []) s = .next t ∧
        (t.eng e.val).decoder lane = s.takeEntry { d with lines := addr / 64 :: d.lines } ∧
        t.fld (VNR_LINES (engCl e.val)) VNR_LINES_LINES = satAdd VNR_LINES_LINES.width (s.fld (VNR_LINES (engCl e.val)) VNR_LINES_LINES) 1 ∧
        t = { s with regs := t.regs, engines := t.engines } ∧ s.regsKept t [VNR_LINES (engCl e.val)]) ∧
    (∀ d a fs n, (s.eng e.val).decoder lane = d → d.active = true → d.fault = none → d.addr = some a →
      parseFrame d.prevFrame d.frame (s.eng e.val).copyNo (s.bytesAt a 1029) = .got fs n → (∀ k ∈ linesOf a n, k ∈ d.lines) → d.frame + fs.length < 64 →
      ∃ t, exec (.frameDecode e lane) s = .next t ∧
        (t.eng e.val).decoder lane = { d with
          frames := d.frames ++ numberFrames (64 * d.leaf + d.frame) fs, prevFrame := fs.getLastD {}, frame := d.frame + fs.length,
          addr := some (a + n) } ∧
        (t.eng e.val).copyNo = (s.eng e.val).copyNo + 1 ∧ t = { s with engines := t.engines } ∧ ∀ k, k ≠ e.val → t.eng k = s.eng k) ∧
    (∀ d a n, (s.eng e.val).decoder lane = d → d.active = true → d.fault = none → d.addr = some a →
      parseFrame d.prevFrame d.frame (s.eng e.val).copyNo (s.bytesAt a 1029) = .malformed n → (∀ k ∈ linesOf a n, k ∈ d.lines) →
      ∃ t, exec (.frameDecode e lane) s = .next t ∧
        (t.eng e.val).decoder lane = { d with fault := some (max (64 * (64 * d.leaf + d.frame)) d.from_, .stream a) } ∧
        t = { s with engines := t.engines } ∧ ∀ k, k ≠ e.val → t.eng k = s.eng k)

/-- R62, R73, R74, R80: a tenon of a playing cluster whose vectors are all there enters the array of its lane while it has room, or is lost
and counted when its boundary has passed; while a vector is missing no tenon is made. R33, R71, R74, R79, R139: at a tenon boundary the
messages that reached pin time before it act in their order: a value comes into force; then the mode word steps, the commands act, and the
cluster takes the tenon stamped for the boundary; older tenons are gone. A missing tenon of a playing cluster is an underrun. A boundary that has passed, or
a grain that is no multiple of 64, is none. -/
def Obligations.TenonsEnterAndLeaveTheMortise : Prop :=
  (∀ (c : ClNo) (stamp : Nat) (slots : List CycleSlot) (l : List TenonSlot) (s : State), s.clPlaying c.val = true →
    s.formingIn c.val = none → (s.cl c.val).cutEnd = none →
    (∀ lane, (∀ y ∈ slots, s.fillSlot c.val lane y ≠ none) → ∃ t, exec (.tenonProduced c lane stamp slots) s = .next t ∧
      (t.rg (c.val / 8)).lastSlice = max s.gt (s.rg (c.val / 8)).lastSlice ∧
      t = { s with regs := t.regs, clusters := t.clusters, engines := t.engines, regions := t.regions } ∧
      s.regsKept t [TMG_UR_LOST c.val] ∧ ∀ k, k ≠ c.val → t.cl k = s.cl k) ∧
    (s.fillSlots c.val .main slots = some l → (∀ b, (s.cl c.val).boundary = some b → b < stamp) →
      (hasEntry (s.cl c.val).mortise ⟨stamp, s.pathMask c.val .main l, l⟩ = true →
        ∃ t, exec (.tenonProduced c .main stamp slots) s = .next t ∧
          (t.cl c.val).mortise = addTenon (s.cl c.val).mortise ⟨stamp, s.pathMask c.val .main l, l⟩ ∧
          t = { s with clusters := t.clusters, engines := t.engines, regions := t.regions } ∧ ∀ k, k ≠ c.val → t.cl k = s.cl k) ∧
      (hasEntry (s.cl c.val).mortise ⟨stamp, s.pathMask c.val .main l, l⟩ = false →
        ∃ t, exec (.tenonProduced c .main stamp slots) s = .next t ∧ (t.cl c.val).mortise = (s.cl c.val).mortise)) ∧
    (s.fillSlots c.val .shadow slots = some l → (∀ b, (s.cl c.val).boundary = some b → b < stamp) →
      hasEntry (s.cl c.val).shadow ⟨stamp, s.pathMask c.val .shadow l, l⟩ = true →
        ∃ t, exec (.tenonProduced c .shadow stamp slots) s = .next t ∧ (t.cl c.val).mortise = (s.cl c.val).mortise ∧
          (t.cl c.val).shadow = addTenon (s.cl c.val).shadow ⟨stamp, s.pathMask c.val .shadow l, l⟩) ∧
    (∀ b lane, s.fillSlots c.val lane slots = some l → (s.cl c.val).boundary = some b → stamp ≤ b →
      ∃ t, exec (.tenonProduced c lane stamp slots) s = .next t ∧ (t.cl c.val).mortise = (s.cl c.val).mortise ∧
        (t.cl c.val).shadow = (s.cl c.val).shadow ∧
        t.fld (TMG_UR_LOST c.val) TMG_UR_LOST_LOST = satAdd TMG_UR_LOST_LOST.width (s.fld (TMG_UR_LOST c.val) TMG_UR_LOST_LOST) 1 ∧
        s.regsKept t [TMG_UR_LOST c.val]) ∧
    (∀ lane, s.fillSlots c.val lane slots = none → exec (.tenonProduced c lane stamp slots) s = .next s)) ∧
  (∀ (c : ClNo) (b : Nat) (finds : Finds) (s : State),
    (b % 64 = 0 → (∀ x, (s.cl c.val).boundary = some x → x < b) →
      (∃ t, exec (.tenonBoundary c b finds) s = .next t ∧ (t.cl c.val).boundary = some b ∧ t.flash = s.flash) ∧
      ∃ due t1 t2, due = s.inFlight.filter (PinMsg.dueAt c.val b) ∧ t1 = ((s.at b).dropDue c.val b).forceBoundary c.val b due ∧
        t2 = t1.takeTenons c.val b ∧
        exec (.tenonBoundary c b finds) s = .next ((List.range 16).foldl (fun t u => t.showContact (s.at b) (16 * c.val + u) b)
          ((((((((List.range 16).foldl (fun t u => (t.pinBoundary c.val b u finds).flushOld c.val u b) t2).applyPulses c.val b due).flowConvert
            c.val b).armDue (2 * c.val) b).armDue (2 * c.val + 1) b).countedDecide c.val b).reportFill c.val)) ∧
        (∀ m, due = [m] → isCommand c.val m.addr = false → m.addr ≠ PMU_PULSE_CMD c.val →
          ∀ u : State, (u.applyValues c.val b due).inForce m.addr = m.value ∧
            ∀ k, k ≠ m.addr → (u.applyValues c.val b due).inForce k = u.inForce k) ∧
        ((∀ e ∈ clEngines c.val, t1.playsIn e b = false) →
          ∃ l, l = addTenons (t1.cl c.val).mortise (t1.cl c.val).waitTenons ∧
          (t2.cl c.val).boundary = some b ∧ (t2.cl c.val).curMain = l.1.find? (fun x => x.stamp == b) ∧
          (t2.cl c.val).mortise = l.1.filter (fun x => decide (b < x.stamp)) ∧ (t2.cl c.val).missing = false ∧
          t2 = { t1 with clusters := t2.clusters }) ∧
        (∀ e ∈ clEngines c.val, t1.playsIn e b = true → (t1.eng e).pend = none → (t1.eng e).laneAt b = .main →
          (∀ x ∈ (addTenons (t1.cl c.val).mortise (t1.cl c.val).waitTenons).1, x.stamp = b → nbit x.engs (e % 4) = false) →
          (t2.cl c.val).missing = true ∧ (t2.cl c.val).missed = b :: (t1.cl c.val).missed ∧
          t2.fld (TMG_LEAD c.val) TMG_LEAD_UNDERRUN = 1 ∧
          (∀ y ∈ (t1.cl c.val).figs, ∀ r ∈ t2.runs, r.id = y.1 → r.underrun = true))) ∧
    ((b % 64 ≠ 0 ∨ ∃ x, (s.cl c.val).boundary = some x ∧ b ≤ x) → exec (.tenonBoundary c b finds) s = .next s))

/-- R184, R36, R409, R482: a START of an engine in mode RUN that is neither masked nor in a run joins the forming run, or forms a new one; its
ENG_CTRL is stored, RUNNING reads 1 and it begins at START_ADDR. A START without RUN in ACTIVE, or of a masked engine, is refused with
VIOLATION in END_CODE; one without RUN takes the forming run with it. R232, R234, R341: a run that is not admitted yet is refused with
DAMAGED for a damaged pattern; otherwise its bundles are read, and it is refused with ADMISSION for a bundle or a sum beyond its limit, or
admitted with its peaks reserved and the streams of its engines kept. While a shared flow space line of a bundle is not there, nothing
happens (log entry 51). -/
def Obligations.RunsFormAndAreAdmitted : Prop :=
  (∀ (port : PortNo) (e : EngNo) (v : Word) (s : State), s.reaches (ENG_CTRL (engCl e.val) (e.val % 4)) → getF v ENG_CTRL_START = 1 →
    (s.eng e.val).run = none →
    (s.hasMode (engCl e.val) 0 = true → s.fbit (SYS_UNIT_MASK (engCl e.val)) SYS_UNIT_MASK_EN_MASK (e.val % 4) = false →
      s.domainOthers = 0 → s.bit (MEM_PPR_STAT (engCl e.val / 8)) MEM_PPR_STAT_BUSY = false → s.storePoison = [] →
      ∃ t id, exec (.engStart port e v) s = .next t ∧ (t.eng e.val).run = some id ∧ (t.eng e.val).halted = none ∧
        (t.eng e.val).pc = t.fld (ENG_CTRL (engCl e.val) (e.val % 4)) ENG_CTRL_START_ADDR ∧
        t.fld (engStat e.val) ENG_STAT_RUNNING = 1 ∧ (∀ k, k ≠ e.val → t.eng k = s.eng k) ∧
        (s.formingRun = none → id = s.nextRun ∧ t.nextRun = s.nextRun + 1) ∧
        (∀ r, s.formingRun = some r → id = r.id ∧ t.nextRun = s.nextRun)) ∧
    ((s.hasMode (engCl e.val) 0 = false ∨ s.fbit (SYS_UNIT_MASK (engCl e.val)) SYS_UNIT_MASK_EN_MASK (e.val % 4) = true) → s.storePoison = [] →
      (s.hasMode (engCl e.val) 0 = true ∨ s.formingRun = none) → ∃ t, exec (.engStart port e v) s = .next t ∧ t.fld (engStat e.val) ENG_STAT_END_CODE = codeViolation ∧ t.runs = s.runs ∧
        ∀ k, t.eng k = s.eng k) ∧
    (∀ r, s.hasMode (engCl e.val) 0 = false → s.storePoison = [] → s.formingRun = some r → ∃ t, exec (.engStart port e v) s = .next t ∧
      t.fld (engStat e.val) ENG_STAT_END_CODE = codeViolation ∧ (∀ y ∈ t.runs, y.id ≠ r.id) ∧
      ∀ k ∈ r.engines, (t.eng k).run = none ∧ t.fld (engStat k) ENG_STAT_END_CODE = codeViolation)) ∧
  (∀ (e : EngNo) (finds : Finds) (r : Run) (s : State), s.engRun e.val = some r → r.admitted = false → r.start = none →
    (∀ x, (s.bundlesOf r).findSome? s.damagedPat = some x →
      exec (.runStart e finds) s = .next ((s.refuseRun r codeDamaged).event codeDamaged 4 x.1 x.2 0)) ∧
    ((s.bundlesOf r).findSome? s.damagedPat = none → s.admissionReads r finds = none → exec (.runStart e finds) s = .next s) ∧
    (∀ d u, (s.bundlesOf r).findSome? s.damagedPat = none → s.admissionReads r finds = some (d, u) →
      ((u.releaseRun r).admission d = none →
        ∃ t, exec (.runStart e finds) s = .next t ∧
          t = (((u.releaseRun r).reserveRun r d).keepStreams d).updRun r.id (fun x => { x with admitted := true }) ∧
          (∀ x ∈ t.runs, x.id = r.id → x.admitted = true) ∧
          (∀ k, { t.eng k with stream := {} } = { u.eng k with stream := {} }) ∧
          t = { u with regs := t.regs, runs := t.runs, engines := t.engines }) ∧
      (∀ x, (u.releaseRun r).admission d = some x →
        ∃ t, exec (.runStart e finds) s = .next t ∧
          (∀ y ∈ t.runs, y.id ≠ r.id) ∧ (∀ k ∈ r.engines, (t.eng k).run = none) ∧
          ∀ c ∈ r.clusters, t.fld (VNR_STAT c) VNR_STAT_ADM_CAUSE = x.1 % 2 ^ VNR_STAT_ADM_CAUSE.width)))

/-- R76, R77, R496: an admitted run starts at a tenon boundary 2,048 gr or more after the last START_FILL report has crossed to pin time.
R185, R83: it ends at a tenon boundary after its last HALT, or with the status that ended it, and no engine holds it any more. R203, R206:
a run whose engines all wait or have halted, with no source to release it, ends with DEADLOCK. -/
def Obligations.RunsStartAndEnd : Prop :=
  ∀ (e : EngNo) (g : Nat) (r : Run) (s : State), s.engRun e.val = some r →
    (r.admitted = true → r.start = none → r.endCode = none → (∀ c ∈ r.clusters, c ∈ r.reports) → g % 64 = 0 → r.lastReport + 2176 ≤ g →
      s.gt ≤ g → (s.bit VYN_SYS_STAT VYN_SYS_STAT_ALIGNED = true ∨ s.domainOthers = 0) →
      ∃ t, exec (.runStartGrain e g) s = .next t ∧
        t = r.clusters.foldl (fun t c => t.startCluster r g c) (r.engines.foldl (fun t k => t.startEngine k g)
          ((s.at g).updRun r.id (fun x => { x with start := some g })))) ∧
    (∀ g0 code, r.start = some g0 → s.endsAt r g = some code →
      ∃ t, exec (.runEnd e g) s = .next t ∧ (∀ x ∈ t.runs, x.id ≠ r.id) ∧ (∀ k ∈ r.engines, (t.eng k).run = none)) ∧
    (∀ g0, r.start = some g0 → s.endsAt r g = none → exec (.runEnd e g) s = .next s) ∧
    (∀ code, r.start = none → r.endCode = some code → exec (.runEnd e g) s = .next (s.refuseRun r code)) ∧
    (∀ g0, r.start = some g0 → r.endCode = none → (∀ k ∈ r.engines, (s.eng k).waiting = true ∨ (s.eng k).halted.isSome = true) →
      (∃ k ∈ r.engines, (s.eng k).waiting = true) → s.releaseSource r = false →
      ∃ t, exec (.deadlock e g) s = .next t ∧
        t = ((r.engines.foldl (fun t k => t.recordWait k) (s.at g)).endRun e.val codeDeadlock (some g)).event codeDeadlock 2 r.lowest 0 g)

/-- R201, R200: a write of a SET register sets at boundary b every flag below system level whose bit is 1 and changes no other; a write of a
CLR register clears them, but for a flag that another source set at b; of a system flag the change is due 16,384 + L later. R200, R485:
the changes of a system flag that are due at a grain take effect there, a set winning over a clear, and are due no more; no other flag
changes. A message that arrives in time is due at its decision grain plus 16,384 and L, and goes on along its paths of fewest hops (R483,
log entry 146); in a sync domain of one package it has no effect (R475). -/
def Obligations.FlagsChangeByRegisterAndMessage : Prop :=
  (∀ (port : PortNo) (addr : Nat) (value : Word) (b : Nat) (s : State) (keys : List Nat), s.reaches addr →
    (flagReg addr = some (keys, true) → ∃ t, exec (.flagSetWrite port addr value b) s = .next t ∧
      (∀ i, i < keys.length → keys.getD i 0 < 3000 → nbit value.toNat i = true → t.flag (keys.getD i 0) = true) ∧
      ∀ k, (∀ i, i < keys.length → keys.getD i 0 = k → nbit value.toNat i = true → 3000 ≤ k) → t.flag k = s.flag k) ∧
    (flagReg addr = some (keys, false) → ∃ t, exec (.flagClrWrite port addr value b) s = .next t ∧
      (∀ i, i < keys.length → keys.getD i 0 < 3000 → nbit value.toNat i = true →
        (tget (fun _ => ((0, 0) : Nat × Nat)) s.flagSets (keys.getD i 0)).1 ≠ b + 1 → t.flag (keys.getD i 0) = false) ∧
      ∀ k, (∀ i, i < keys.length → keys.getD i 0 = k → nbit value.toNat i = true → 3000 ≤ k) → t.flag k = s.flag k)) ∧
  (∀ (f : Fin 64) (set : Bool) (g sg src : Nat) (pkg : PkgNo) (s : State),
    ((∃ x ∈ s.sysFlagDue, x.1 = f.val ∧ x.2.1 = g) → (∀ x ∈ s.lateFlags, ¬(x.1 = f.val ∧ x.2.2 = g)) →
      ((∃ x ∈ s.sysFlagDue, x.1 = f.val ∧ x.2.1 = g ∧ x.2.2.1 = true) ∨
        (tget (fun _ => ((0, 0) : Nat × Nat)) s.flagSets (3000 + f.val)).1 ≠ g + 1) →
      ∃ t, exec (.systemFlagTakeEffect f g) s = .next t ∧
        (t.flag (3000 + f.val) = true ↔ ∃ x ∈ s.sysFlagDue, x.1 = f.val ∧ x.2.1 = g ∧ x.2.2.1 = true) ∧
        (∀ k, k ≠ 3000 + f.val → t.flag k = s.flag k) ∧ t.sysFlagDue = s.sysFlagDue.filter (fun x => !(x.1 == f.val && x.2.1 == g)) ∧
        t.pins = s.pins ∧ t.runs = s.runs ∧ t.mem = s.mem) ∧
    ((∀ x ∈ s.sysFlagDue, ¬(x.1 = f.val ∧ x.2.1 = g)) → exec (.systemFlagTakeEffect f g) s = .next s) ∧
    (s.domainOthers = 0 → exec (.systemConditionMessage (.flag pkg src f set sg) g) s = .next s) ∧
    (s.domainOthers ≠ 0 → g ≤ sg + 16384 + (s.reg VYN_L).toNat → (∀ x ∈ s.sysFlagDue, x.2.2.2 ≠ srcPackage pkg.val src) →
      exec (.systemConditionMessage (.flag pkg src f set sg) g) s = .next
        { s with
          gt := max s.gt g
          sysFlagDue := s.sysFlagDue ++ [(f.val, sg + 16384 + (s.reg VYN_L).toNat, set, srcPackage pkg.val src)]
          outs := s.outs ++ (if pkg.val = s.pkgId then [] else (s.forwardsTo pkg.val).map (fun q =>
            .vyene "FLAG" q [f.val, if set then 1 else 0, sg, src, pkg.val])) }))

/-- R94, R95, R101, R130, R188, R215: where the engine that serves a pin plays a cycle of a word with vectors, the pin starts it with the code
that the tenon holds, laid over the copy of its dictionary entry, counts it, and copies the period in force; a WAVE code without its
source acts as DZ. R81: in a missing tenon it places and takes nothing. R221, R342: a vector that rests on a lost line or a stream fault
ends the run there. R136: the driver is released from a hold that has ended. R100, R109, R114: an edge of a cycle that is enabled and used
joins its pin's merge. Less than a grain after the pending edge it merges: MERGED sets and the edge of higher priority stays. Later, the
pending edge is placed at its time plus its shim, at the contact unless a hold of an earlier instant bars it and up to a hold that has
begun since (R136), and the new one is pending.
R81, R194: an edge that is not used, of a missing tenon or cut is not placed. -/
def Obligations.PinsDriveTheirEdges : Prop :=
  (∀ (p : PinNo) (g e k : Nat) (w : Micro) (finds : Finds) (s : State), s.servedBy p.val = some e → (s.eng e).unpred = false →
    (s.eng e).cycleIndex g = some k → (s.eng e).word = some w →
    (s.missingAt (pinCl p.val) g = false → w.vmode = 0 → ∀ y v, v = ((s.eng e).vaddr + k) % 2 ^ 40 →
      s.tenonSlot e g ((s.eng e).laneAt g) (.vector v) = some y →
      (∀ f, y.fault = some f → exec (.cycleStart p g finds) s = .next ((s.at g).lostVector e v g f)) ∧
      (∀ u, y.fault = none → (s.at g).dictCopy e y finds = (u, none) → exec (.cycleStart p g finds) s = .next (u.lostVector e v g .lost)) ∧
      (∀ u base, y.fault = none → (s.at g).dictCopy e y [] = (u, some base) → w.substEn = false → ∃ t x, exec (.cycleStart p g []) s = .next t ∧
        (t.pin p.val).cyc = some x ∧ x.start = g ∧ x.eng = e ∧
        x.vaddr = v ∧ x.ts = (s.eng e).ts ∧
        x.code = (let raw := y.code base v (pinUnit p.val)
          if raw = 12 ∧ s.hasMode (pinCl p.val) 1 = false then 2 else raw) ∧
        x.count = (if (s.pin p.val).hadCycle then (s.pin p.val).count + 1 else 0) ∧
        (s.inFlight = [] → x.period = (s.inForce (TSET_PERIOD (engCl e) (s.eng e).ts)).toNat + 1) ∧
        ((∀ z, (s.eng e).copied = some z → z.1 ≠ g) → (t.pin p.val).prev = (s.pin p.val).cyc ∧
          ∀ q, q ≠ p.val → { t.pin q with player := none } = { s.pin q with player := none }) ∧
        (∀ c, c ≠ pinCl p.val → t.cl c = s.cl c) ∧ (∀ k, k ≠ e → t.eng k = s.eng k) ∧
        t.runs = s.runs ∧ t.flags = s.flags ∧ t.force = s.force ∧ t.stores = s.stores ∧ t.hub = s.hub)) ∧
    (s.missingAt (pinCl p.val) g = true → ∃ t x, exec (.cycleStart p g finds) s = .next t ∧ (t.pin p.val).cyc = some x ∧ x.missing = true ∧
      x.edges = [] ∧ x.start = g ∧ ((∀ z, (s.eng e).copied = some z → z.1 ≠ g) → (t.pin p.val).prev = (s.pin p.val).cyc ∧
        ∀ q, q ≠ p.val → { t.pin q with player := none } = { s.pin q with player := none }) ∧
      t.runs = s.runs ∧ t.flags = s.flags ∧ t.force = s.force ∧ t.stores = s.stores ∧ t.hub = s.hub)) ∧
  (∀ (p : PinNo) (k : EdgeKind) (start : Nat) (x : Cycle) (s : State), s.cycleOf p.val start = some x →
    ((x.missing = true ∨ x.idle = true ∨ (x.unpred = false ∧ x.used (edgeIdx k) = none)) → exec (.driveEdge p k start) s = .next s) ∧
    (x.missing = false → x.idle = false → x.unpred = true → exec (.driveEdge p k start) s = .next ((s.at start).freeEdge p.val start)) ∧
    (∀ ed, x.missing = false → x.idle = false → x.unpred = false → x.used (edgeIdx k) = some ed →
      ((x.cutAt (start + ed.grain) = true ∨ x.beforeDz (start + ed.grain) = true ∨ s.missingAt (pinCl p.val) (start + ed.grain) = true) →
        exec (.driveEdge p k start) s = .next s) ∧
      (x.cutAt (start + ed.grain) = false → x.beforeDz (start + ed.grain) = false → s.missingAt (pinCl p.val) (start + ed.grain) = false →
        ∀ n : PendingEdge, n = ⟨start * 64 + ed.time, k, (edgeAction x.stream x.shape x.code k).1,
          (edgeAction x.stream x.shape x.code k).2, x.trims.getD (edgeIdx k) 0⟩ →
        ((s.pin p.val).pendEdge = none → ∃ t, exec (.driveEdge p k start) s = .next t ∧ t.pin p.val = { s.pin p.val with pendEdge := some n } ∧
          (∀ q, q ≠ p.val → t.pin q = s.pin q) ∧ t = { s with gt := max s.gt (start + ed.grain), pins := t.pins }) ∧
        (∀ y, (s.pin p.val).pendEdge = some y → n.time < y.time + 64 → ∃ t, exec (.driveEdge p k start) s = .next t ∧
          t.pin p.val = { s.pin p.val with pendEdge := some (if edgePrio y.kind < edgePrio n.kind then n else y) } ∧
          t.fbit (TMG_EDGE_STAT (pinCl p.val)) TMG_EDGE_STAT_MERGED (pinUnit p.val) = true ∧ (∀ q, q ≠ p.val → t.pin q = s.pin q) ∧
          t = { s with gt := max s.gt (start + ed.grain), pins := t.pins, regs := t.regs } ∧ s.regsKept t [TMG_EDGE_STAT (pinCl p.val)]) ∧
        (∀ y time, (s.pin p.val).pendEdge = some y → y.time + 64 ≤ n.time → time = (y.time : Int) + y.trim →
          ∃ t, exec (.driveEdge p k start) s = .next t ∧
          t.pin p.val = { s.pin p.val with pendEdge := some n, on := y.turnOn.getD (s.pin p.val).on, level := y.level.getD (s.pin p.val).level } ∧
          (∀ q, q ≠ p.val → t.pin q = s.pin q) ∧
          (((s.pin p.val).held = true ∧ ((s.pin p.val).heldFrom : Int) * 64 ≤ time) → t.outs = s.outs) ∧
          ((s.pin p.val).held = false → t.outs = s.outs ++ [.contact p.val time
            (t.contactAs p.val (time / 64).toNat (t.pin p.val).on (t.pin p.val).level)]) ∧
          (((s.pin p.val).held = true ∧ time < ((s.pin p.val).heldFrom : Int) * 64) → t.outs = s.outs ++ [
            .contact p.val time (t.contactAs p.val (time / 64).toNat (t.pin p.val).on (t.pin p.val).level),
            .contact p.val (64 * (s.pin p.val).heldFrom)
              (t.contactAs p.val (s.pin p.val).heldFrom (t.pin p.val).on (t.pin p.val).level)]) ∧
          t = { s with gt := max s.gt (start + ed.grain), pins := t.pins, outs := t.outs }))))

/-- R161-R166: a strobe of a cycle that is neither cut nor in a missing tenon, on a pin that is not masked or in the safe state, compares its
samples, taken from its placed time on, with the expectation of the code; a failing one sets the pin's LF and HF bits and counts in
CMP_FCNT. R33, R44: a masked pin or one in the safe state produces no result. R82: in a missing tenon none is taken. -/
def Obligations.StrobesCompareTheirSamples : Prop :=
  ∀ (p : PinNo) (tag : StrobeTag) (start : Nat) (uv : List Int) (x : Cycle) (o : Nat × Nat × Nat) (s : State),
    s.cycleOf p.val start = some x →
    ((s.pinMasked p.val = true ∨ s.safePin p.val = true) → exec (.strobeTaken p tag start uv) s = .next s) ∧
    (s.pinMasked p.val = false → s.safePin p.val = false → x.missing = true →
      exec (.strobeTaken p tag start uv) s = .next ((s.at start).lostStrobe p.val x start true true)) ∧
    (s.pinMasked p.val = false → s.safePin p.val = false → x.missing = false → x.unpred = false → x.strobeSpan tag = some o →
      x.cutAt (start + o.2.1 / 64) = false →
      s.missingIn (pinCl p.val) (start + o.1 / 64) (start + o.2.1 / 64) = false → uv.length = sampleCount o →
      ∀ placed lf hf, placed = ((((start * 64 + o.1 : Nat) : Int) + x.trims.getD o.2.2 0) / 64).toNat →
        (lf = true ↔ ∃ i v, uv[i]? = some v ∧ (judge x.code (s.ql p.val (placed + i) v) (s.qh p.val (placed + i) v)).1 = true) →
        (hf = true ↔ ∃ i v, uv[i]? = some v ∧ (judge x.code (s.ql p.val (placed + i) v) (s.qh p.val (placed + i) v)).2 = true) →
      ∃ t, exec (.strobeTaken p tag start uv) s = .next t ∧
        t.fbit (CMP_FAIL_STICKY (pinCl p.val)) CMP_FAIL_STICKY_LF (pinUnit p.val) =
          (s.fbit (CMP_FAIL_STICKY (pinCl p.val)) CMP_FAIL_STICKY_LF (pinUnit p.val) || lf) ∧
        t.fbit (CMP_FAIL_STICKY (pinCl p.val)) CMP_FAIL_STICKY_HF (pinUnit p.val) =
          (s.fbit (CMP_FAIL_STICKY (pinCl p.val)) CMP_FAIL_STICKY_HF (pinUnit p.val) || hf) ∧
        t.fld (CMP_FCNT (pinCl p.val) (pinUnit p.val)) CMP_FCNT_COUNT =
          min (2 ^ CMP_FCNT_COUNT.width - 1) (s.fld (CMP_FCNT (pinCl p.val) (pinUnit p.val)) CMP_FCNT_COUNT + if lf || hf then 1 else 0) ∧
        (∀ c, c ≠ pinCl p.val → t.cl c = s.cl c) ∧
        (∀ q, q ≠ p.val → { t.pin q with player := none, oldWindow := none } = { s.pin q with player := none, oldWindow := none }) ∧
        t.runs = s.runs ∧ t.flags = s.flags ∧ t.force = s.force ∧ t.stores = s.stores ∧ t.hub = s.hub) ∧
    (∀ ql qh, judge 4 ql qh = (ql, false) ∧ judge 5 ql qh = (false, !qh) ∧ judge 6 ql qh = (!ql, qh) ∧ judge 7 ql qh = (ql && !qh, ql && !qh) ∧
      judge 13 ql qh = (ql, false) ∧ judge 14 ql qh = (false, !qh))

/-- R141: at the tenon boundary at or after a WAVE cycle's start the player begins at START_ENTRY, and the driver turns on at its first
sample; R143: in an underrun it advances without driving. R151: an invalid entry sets INVALID and holds. R149, R150: at the first grain of
the last granule of a play the player chooses: the alternative when the condition is met, another play, the hold, or the next entry. R153,
R154: a GO begins the conversion of an entry, or is refused and logged when the entry is invalid or converted already, its cluster has
WAVE, or a conversion is in progress. R155, R156: it ends with CODING 1, the first sample in ANCHOR, the number of saturated samples in
SAT_COUNT and DONE. R157: with its entry or segment written in mid-conversion it ends with free values there. -/
def Obligations.PlayersAndDelta4Conversions : Prop :=
  (∀ (p : PinNo) (g : Nat) (s : State),
    (∀ x, (s.pin p.val).cyc = some x → x.code = 12 → (s.pin p.val).player = none → s.hasMode (pinCl p.val) 1 = true → g = boundaryAt x.start →
      ∃ t y, exec (.handoverStart p g []) s = .next t ∧ (t.pin p.val).player = some y ∧
        y.entry = s.ffld (SEG_PIN (pinCl p.val) (pinUnit p.val)) SEG_PIN_START_ENTRY ∧ y.playStart = g ∧ y.plays = 0 ∧
        y.words = (s.segAt (pinCl p.val) y.entry none g).1 ∧ (t.pin p.val).pendEdge = none ∧
        (s.missingAt (pinCl p.val) g = false → (t.pin p.val).on = true) ∧
        t.bit (SEG_PIN (pinCl p.val) (pinUnit p.val)) SEG_PIN_PLAYING = true ∧
        (s.segBad (pinCl p.val) y.words = true →
          y.held = some 0 ∧ t.fbit (SEG_STAT (pinCl p.val)) SEG_STAT_INVALID (pinUnit p.val) = true) ∧
        (s.segBad (pinCl p.val) y.words = false → y.held = none) ∧
        (∀ q, q ≠ p.val → t.pin q = s.pin q) ∧
        t = { s with gt := max s.gt g, regs := t.regs, pins := t.pins, free := t.free, outs := t.outs } ∧
        s.regsKept t [SEG_PIN (pinCl p.val) (pinUnit p.val), SEG_STAT (pinCl p.val)]) ∧
    (∀ y, (s.pin p.val).player = some y → y.held = none → y.chosen = none → g = y.playStart + 64 * (y.words.len - 1) →
      s.anyPoison (y.words.granule (pinCl p.val) ((g - y.playStart) / 64)).1 (y.words.granule (pinCl p.val) ((g - y.playStart) / 64)).2 = false →
      ∃ t z, exec (.advCondSample p g) s = .next t ∧ (t.pin p.val).player = some z ∧
        z.chosen = some (if (s.at g).advMet p.val y.words.adv = true ∧ s.missingAt (pinCl p.val) g = false then .play y.words.alt 0
          else if y.words.forever = true ∨ y.plays < y.words.repeats then .play y.entry (y.plays + 1)
          else if y.words.isEnd then .hold else .play y.words.nextEntry 0) ∧
        (z.entry, z.words, z.playStart, z.plays, z.held) = (y.entry, y.words, y.playStart, y.plays, y.held) ∧
        (∀ q, q ≠ p.val → t.pin q = s.pin q) ∧ t = { s with gt := max s.gt g, pins := t.pins })) ∧
  (∀ (port : PortNo) (c : ClNo) (value : Word) (n : Nat) (s : State),
    (s.reaches (SEG_CODE_CMD c.val) → getB value 31 = true → n = getF value SEG_CODE_CMD_ENTRY →
      (s.segBad c.val (s.segStored c.val n) = false → (s.segStored c.val n).delta = false → s.hasMode c.val 1 = false → s.coding c.val = none →
        ∃ t, exec (.delta4Convert port c value) s = .next t ∧ t.coding c.val = some { entry := n, words := s.segStored c.val n } ∧
          t.bit (SEG_CODE_STAT c.val) SEG_CODE_STAT_BUSY = true ∧ (∀ k, k ≠ c.val → t.coding k = s.coding k) ∧
          t = { s with regs := t.regs, codings := t.codings } ∧ s.regsKept t [SEG_CODE_STAT c.val]) ∧
      ((s.segBad c.val (s.segStored c.val n) = true ∨ (s.segStored c.val n).delta = true ∨ s.hasMode c.val 1 = true ∨ s.coding c.val ≠ none) →
        exec (.delta4Convert port c value) s =
          .next ((s.setBit (SEG_CODE_STAT c.val) SEG_CODE_STAT_REFUSED true).violation 0x02 port.val 0 n (SEG_CODE_CMD c.val)))) ∧
    (∀ d, d.entry < 256 → s.coding c.val = some d → 0 < d.words.len → ∃ t, exec (.delta4Done c []) s = .next t ∧
      t.fld (SEG_SST_W0 c.val d.entry) SEG_SST_W0_CODING = 1 ∧
      (d.spoiled = false → s.anyPoison (segAddr c.val d.words.start) (48 * d.words.len) = false →
        t.fld (SEG_SST_W0 c.val d.entry) SEG_SST_W0_ANCHOR = s.rawSample c.val [] d.words 0 ∧
        t.fld (SEG_CODE_STAT c.val) SEG_CODE_STAT_SAT_COUNT = ((encodeDeltas (s.rawSample c.val [] d.words 0)
          (((List.range (64 * d.words.len)).map (s.rawSample c.val [] d.words)).drop 1)).filter (·.2)).length %
            2 ^ SEG_CODE_STAT_SAT_COUNT.width) ∧
      t.bit (SEG_CODE_STAT c.val) SEG_CODE_STAT_BUSY = false ∧ t.bit (SEG_CODE_STAT c.val) SEG_CODE_STAT_DONE = true ∧
      t.coding c.val = none ∧ (∀ k, t.cl k = s.cl k) ∧ s.regsKept t [SEG_SST_W0 c.val d.entry, SEG_CODE_STAT c.val] ∧
      ∀ a, a < segAddr c.val d.words.start ∨ segAddr c.val (d.words.start + 48 * d.words.len) ≤ a → t.byteAt a = s.byteAt a))

/-- R244, R245: a line write always completes: up to four records move from the crossing queue into the buffer while it has room and no COUNT
record is due before them, each counted by SCR_WPTR and, while Scribe does not drain, in its 16 bytes of the buffer. R246: a write of
SCR_FLUSH that reaches it starts the flush. R244: a write of SCR_RPTR releases records while Scribe does not drain, a value ahead of WPTR
acting as WPTR, and sends the release to pin time; while it drains it has no effect. R257: SCR_CTRL and SCR_DRAIN are stored at once and,
outside a run, travel to the cluster. -/
def Obligations.ScribeMovesAndReleasesRecords : Prop :=
  ∀ (port : PortNo) (c : ClNo) (drain : Bool) (value : Word) (be : BitVec 4) (s : State),
    (∃ t n, exec (.scribeLineWrite c) s = .next t ∧ n ≤ 4 ∧ n ≤ (s.cl c.val).scr.queue.length ∧
      t.reg (SCR_WPTR c.val) = s.reg (SCR_WPTR c.val) + BitVec.ofNat 32 n ∧
      (t.cl c.val).scr.queue = (s.cl c.val).scr.queue.drop n ∧
      (n = 4 ∨ n = (s.cl c.val).scr.queue.length ∨ 65536 ≤ s.scrHeld c.val + n ∨
        ∃ r l, (s.cl c.val).scr.queue.drop n = r :: l ∧ s.countBefore c.val r = true) ∧
      (∀ k, k ≠ c.val → t.cl k = s.cl k) ∧ s.pinsKept t ∧ t.engines = s.engines ∧ t.runs = s.runs ∧ t.force = s.force ∧
      (s.scrDrains c.val = false →
        (∀ i r, i < n → (s.cl c.val).scr.queue[i]? = some r → ∀ k, k < 16 →
          t.byteAt (recordAddr c.val ((s.reg (SCR_WPTR c.val)).toNat + i) + k) = (leBytes 16 r.bits.toNat).getD k 0) ∧
        t = { s with regs := t.regs, clusters := t.clusters, mem := t.mem, poison := t.poison } ∧ s.regsKept t [SCR_WPTR c.val])) ∧
    (s.reaches (SCR_FLUSH c.val) → ∃ t, exec (.scrFlush port c) s = .next t ∧
      ((0 < s.scrHeld c.val ∨ (s.cl c.val).scr.queue ≠ []) → (t.cl c.val).scr.flush = true) ∧
      (s.scrHeld c.val = 0 → (s.cl c.val).scr.queue = [] → (t.cl c.val).scr.flush = false) ∧
      (∀ k, k ≠ c.val → t.cl k = s.cl k) ∧ s.pinsKept t ∧ t.engines = s.engines ∧ t.runs = s.runs) ∧
    (s.reaches (SCR_RPTR c.val) → s.scrDrains c.val = false → ∃ t, exec (.scrRptrWrite port c value) s = .next t ∧
      t.reg (SCR_RPTR c.val) = (if (value - s.reg (SCR_RPTR c.val)).toNat ≤ (s.reg (SCR_WPTR c.val) - s.reg (SCR_RPTR c.val)).toNat then value
        else s.reg (SCR_WPTR c.val)) ∧ (∀ k, k ≠ c.val → t.cl k = s.cl k) ∧
      t = { s with
        regs := t.regs, clusters := t.clusters
        inFlight := s.inFlight ++ [{ addr := SCR_RPTR c.val, value := t.reg (SCR_RPTR c.val), port := 0, sent := s.gt }] } ∧ s.regsKept t [SCR_RPTR c.val]) ∧
    (s.reaches (SCR_RPTR c.val) → s.scrDrains c.val = true → exec (.scrRptrWrite port c value) s = .next s) ∧
    (∀ a, a = (if drain then SCR_DRAIN c.val else SCR_CTRL c.val) → s.reaches a →
      ∃ t, exec (.scribeConfigWrite port c drain value be) s = .next t ∧
        (∃ x, regRow a = some x ∧ t.reg a = writeWord x (s.reg a) value be) ∧
        ((s.cl c.val).scr.active = true → t.inFlight = s.inFlight) ∧
        ((s.cl c.val).scr.active = false → t.inFlight = s.inFlight ++ [{ addr := a, value := t.reg a, port := 0, sent := s.gt }]) ∧
        t = { s with regs := t.regs, inFlight := t.inFlight } ∧ s.regsKept t [a])

/-- R119, R120, R123, R127: the first edge of its direction in a grain is stamped; each unit in STAMP mode that takes it as its start gains a
result, or counts DROP when its queue of 64 is full. A further edge of that direction only counts DROP in the units that use the pin.
R122: a write of a unit's control that changes MODE empties its results and pending events; any other keeps them. R128: a read of RES0
takes the oldest entry, whose RES1 and RES2 stay readable; an empty queue reads 0 with VALID 0. R113, R118: a write of a shim's TARGET
leaves ACTIVE and MOVING tells whether they differ; edge index 7 is reserved. -/
def Obligations.EdgesAreStampedAndPaired : Prop :=
  (∀ (p : PinNo) (rising : Bool) (t16 : Nat) (s : State),
    ((if rising then (s.pin p.val).lastRise else (s.pin p.val).lastFall) ≠ some (t16 / 1024) →
      ∃ t, exec (.pinEdgeStamped p rising t16) s = .next t ∧
        (if rising then (t.pin p.val).lastRise else (t.pin p.val).lastFall) = some (t16 / 1024) ∧
        (∀ u, u < 16 → s.tiaMode (pinCl p.val) u = 1 → s.ffld (TMG_TIA_CTRL (pinCl p.val) u) TMG_TIA_CTRL_START_SRC = pinUnit p.val →
          edgeMatches (s.ffld (TMG_TIA_CTRL (pinCl p.val) u) TMG_TIA_CTRL_START_EDGE) rising = true →
          s.fbitF (TMG_TIA_CTRL (pinCl p.val) u) TMG_TIA_CTRL_GATE = false →
          ((s.pin (16 * pinCl p.val + u)).tia.results.length < 64 →
            (t.pin (16 * pinCl p.val + u)).tia.results =
              (s.pin (16 * pinCl p.val + u)).tia.results ++ [stampEntry (s.stampTime p.val t16) rising] ∧
            t.reg (TIA_STAT (pinCl p.val) u) = s.reg (TIA_STAT (pinCl p.val) u)) ∧
          (64 ≤ (s.pin (16 * pinCl p.val + u)).tia.results.length →
            (t.pin (16 * pinCl p.val + u)).tia = (s.pin (16 * pinCl p.val + u)).tia ∧ t.fld (TIA_STAT (pinCl p.val) u) TIA_STAT_DROP =
              min (2 ^ TIA_STAT_DROP.width - 1) (s.fld (TIA_STAT (pinCl p.val) u) TIA_STAT_DROP + 1))) ∧
        (∀ u, u < 16 → s.tiaUses (pinCl p.val) u (pinUnit p.val) = false →
          (t.pin (16 * pinCl p.val + u)).tia = (s.pin (16 * pinCl p.val + u)).tia ∧
          t.reg (TIA_STAT (pinCl p.val) u) = s.reg (TIA_STAT (pinCl p.val) u)) ∧
        (∀ q, pinCl q ≠ pinCl p.val → t.pin q = s.pin q) ∧ t = { s with gt := max s.gt (t16 / 1024), regs := t.regs, pins := t.pins } ∧
        s.regsKept t ((List.range 16).map (TIA_STAT (pinCl p.val)))) ∧
    ((if rising then (s.pin p.val).lastRise else (s.pin p.val).lastFall) = some (t16 / 1024) →
      ∃ t, exec (.pinEdgeStamped p rising t16) s = .next t ∧
        (∀ u, u < 16 → t.fld (TIA_STAT (pinCl p.val) u) TIA_STAT_DROP = min (2 ^ TIA_STAT_DROP.width - 1)
          (s.fld (TIA_STAT (pinCl p.val) u) TIA_STAT_DROP + if s.tiaUses (pinCl p.val) u (pinUnit p.val) then 1 else 0)) ∧
        t = { s with gt := max s.gt (t16 / 1024), regs := t.regs } ∧ s.regsKept t ((List.range 16).map (TIA_STAT (pinCl p.val))))) ∧
  (∀ (port : PortNo) (c : ClNo) (u : UnitNo) (i : Fin 128) (value : Word) (s : State),
    (s.reaches (TMG_TIA_CTRL c.val u.val) → ∃ t, exec (.tiaModeWrite port c u value) s = .next t ∧
      t.fld (TMG_TIA_CTRL c.val u.val) TMG_TIA_CTRL_MODE = getF value TMG_TIA_CTRL_MODE ∧
      (getF value TMG_TIA_CTRL_MODE ≠ s.fld (TMG_TIA_CTRL c.val u.val) TMG_TIA_CTRL_MODE → (t.pin (16 * c.val + u.val)).tia = {}) ∧
      (getF value TMG_TIA_CTRL_MODE = s.fld (TMG_TIA_CTRL c.val u.val) TMG_TIA_CTRL_MODE → t.pins = s.pins) ∧
      (∀ q, q ≠ 16 * c.val + u.val → t.pin q = s.pin q) ∧
      t = { s with
        regs := t.regs, pins := t.pins
        inFlight := s.inFlight ++ [{ addr := TMG_TIA_CTRL c.val u.val, value := t.reg (TMG_TIA_CTRL c.val u.val), port := 0, sent := s.gt }] } ∧
      s.regsKept t [TMG_TIA_CTRL c.val u.val]) ∧
    (s.fencedAt (TIA_RES0 c.val u.val) = false →
      (∀ x l, (s.pin (16 * c.val + u.val)).tia.results = x :: l → ∃ t, exec (.tiaRes0Read port c u) s = .next t ∧
        t.reg (TIA_RES1 c.val u.val) = x.res1 ∧ t.reg (TIA_RES2 c.val u.val) = x.res2 ∧
        (t.pin (16 * c.val + u.val)).tia = { (s.pin (16 * c.val + u.val)).tia with results := l } ∧
        (∀ q, q ≠ 16 * c.val + u.val → t.pin q = s.pin q) ∧
        t = { s with regs := t.regs, pins := t.pins, outs := s.outs ++ [.completion port.val 0 (leBytes 4 x.res0.toNat)] } ∧
        s.regsKept t [TIA_RES1 c.val u.val, TIA_RES2 c.val u.val]) ∧
      ((s.pin (16 * c.val + u.val)).tia.results = [] → ∃ t, exec (.tiaRes0Read port c u) s = .next t ∧
        t.bit (TIA_RES2 c.val u.val) TIA_RES2_VALID = false ∧
        t = { s with regs := t.regs, outs := s.outs ++ [.completion port.val 0 (leBytes 4 0)] } ∧ s.regsKept t [TIA_RES2 c.val u.val])) ∧
    (s.reaches (TMG_SHIM c.val i.val) → i.val % 8 ≠ 7 → ∃ t, exec (.shimTargetWrite port c i value) s = .next t ∧
      t.fld (TMG_SHIM c.val i.val) TMG_SHIM_TARGET = getF value TMG_SHIM_TARGET ∧
      t.fld (TMG_SHIM c.val i.val) TMG_SHIM_ACTIVE = s.fld (TMG_SHIM c.val i.val) TMG_SHIM_ACTIVE ∧
      t.bit (TMG_SHIM c.val i.val) TMG_SHIM_MOVING = (getF value TMG_SHIM_TARGET != s.fld (TMG_SHIM c.val i.val) TMG_SHIM_ACTIVE) ∧
      t = { s with regs := t.regs } ∧ s.regsKept t [TMG_SHIM c.val i.val]) ∧
    (s.reaches (TMG_SHIM c.val i.val) → i.val % 8 = 7 → exec (.shimTargetWrite port c i value) s = .next s))

/-- R170, R171: with protection on and no latch, a sample enters the filter of the last five; fewer than three out of window hold. R172, R180:
three trip: the latch sets at the next grain, holds the driver, counts, and sets TRIPPED. R175, R177: in WRITE mode a 1 clears the latch
at the boundary unless it set in that grain or later, and the filter starts anew; in PERIOD mode it is ignored (log entry 132: the mode in
force at the boundary counts). -/
def Obligations.ClampTripsAndClears : Prop :=
  ∀ (port : PortNo) (p : PinNo) (g b : Nat) (uv : Int) (s : State),
    ((s.fbitF (CLP_CTRL (pinCl p.val) (pinUnit p.val)) CLP_CTRL_EN = false ∨ s.latchBit p.val = true) →
      exec (.protectionSample p g uv) s = .next (s.at g)) ∧
    (s.fbitF (CLP_CTRL (pinCl p.val) (pinUnit p.val)) CLP_CTRL_EN = true → s.latchBit p.val = false →
      ∀ l, l = s.outOfWindow p.val uv :: (s.pin p.val).filter.take 4 →
      ((l.filter (· == true)).length < 3 → ∃ t, exec (.protectionSample p g uv) s = .next t ∧ t.pin p.val = { s.pin p.val with filter := l } ∧
        (∀ q, q ≠ p.val → t.pin q = s.pin q) ∧ t = { s with gt := max s.gt g, pins := t.pins }) ∧
      (3 ≤ (l.filter (· == true)).length → ∃ t, exec (.protectionSample p g uv) s = .next t ∧ t.latchBit p.val = true ∧
        { t.pin p.val with player := none } =
          { (s.pin p.val).hold (g + 1) with filter := l, latchAt := some (g + 1), player := none } ∧ (t.pin p.val).held = true ∧
        t.fld (CLP_TRIP_CNT (pinCl p.val) (pinUnit p.val)) CLP_TRIP_CNT_COUNT =
          min (2 ^ CLP_TRIP_CNT_COUNT.width - 1) (s.fld (CLP_TRIP_CNT (pinCl p.val) (pinUnit p.val)) CLP_TRIP_CNT_COUNT + 1) ∧
        t.fbit (CLP_STAT (pinCl p.val)) CLP_STAT_TRIPPED (pinUnit p.val) = true ∧
        (∀ q, q ≠ p.val → { t.pin q with player := none } = { s.pin q with player := none } ∧
          (pinCl q = pinCl p.val → t.latchBit q = s.latchBit q)) ∧
        (∀ c, c ≠ pinCl p.val → t.cl c = s.cl c) ∧ t.engines = s.engines ∧ t.runs = s.runs ∧ t.force = s.force ∧
        (s.fbit (CLP_STAT (pinCl p.val)) CLP_STAT_TRIPPED (pinUnit p.val) = true → t.mem = s.mem ∧
          s.regsKept t [CLP_STAT (pinCl p.val), CLP_TRIP_CNT (pinCl p.val) (pinUnit p.val)]))) ∧
    (∀ c : ClNo, c.val = pinCl p.val → s.reaches (CLP_STAT c.val) →
      (s.fbitF (CLP_CTRL c.val (pinUnit p.val)) CLP_CTRL_CLR_MODE = true → ∀ m, m.toNat = 2 ^ pinUnit p.val →
        exec (.latchClearWrite port c m b) s = .next (s.atCluster c.val b)) ∧
      (s.fbitF (CLP_CTRL c.val (pinUnit p.val)) CLP_CTRL_CLR_MODE = false → (s.servedBy p.val).isSome = true →
        (∀ a, (s.pin p.val).latchAt = some a → a < b → s.latchBit p.val = true → ∀ m, m.toNat = 2 ^ pinUnit p.val →
          ∃ t, exec (.latchClearWrite port c m b) s = .next t ∧ t.latchBit p.val = false ∧
            t.pin p.val = { s.pin p.val with latchAt := none, latchSpans := (a, b) :: (s.pin p.val).latchSpans, filter := freshFilter } ∧
            (∀ q, q ≠ p.val → t.pin q = s.pin q) ∧
            t = { s.atCluster c.val b with regs := t.regs, pins := t.pins } ∧ s.regsKept t [CLP_STAT c.val]) ∧
        (∀ a, (s.pin p.val).latchAt = some a → b ≤ a → ∀ m, m.toNat = 2 ^ pinUnit p.val →
          exec (.latchClearWrite port c m b) s = .next (s.atCluster c.val b))))

/-- R186, R188, R191, R213: at its close grain a word with vectors has moved VADDR past its cycles, and the engine goes on as its SEQ_OP says:
NEXT, a plain JUMP, CALL and ROMCALL with the return address and VADDR on the stack, RET, LOOP, LDCNT, RESUME. Nothing else changes. R185,
R191: HALT ends the engine's part of the run at its close grain; SEQ_OP 10 to 15 act as HALT and set BADOP. A call on a full stack and a
return on an empty one end the part with STACK set and the run with VIOLATION. -/
def Obligations.SequencingGoesOnOrEnds : Prop :=
  (∀ (e : EngNo) (g : Nat) (w : Micro) (s : State), s.closesAt e.val g w →
    ∀ a : EngSt, a = { ((s.eng e.val).advance w w.cycles) with word := none } →
    (w.vmode = 0 → 0 < w.cycles → a.vaddr = ((s.eng e.val).vaddr + w.cycles) % 2 ^ 40) ∧ (w.vmode ≠ 0 → a.vaddr = (s.eng e.val).vaddr) ∧
    (w.seqOp = 0 → ∃ t, exec (.next e g) s = .next t ∧ t.eng e.val = { a with pc := a.nextPc } ∧ s.onlyEngine t e.val g) ∧
    (w.seqOp = 1 → w.cond = 0 → w.condInv = false →
      ∃ t, exec (.jump e g) s = .next t ∧ t.eng e.val = { a with pc := w.target } ∧ s.onlyEngine t e.val g) ∧
    (w.seqOp = 2 → a.stack.length < 8 → ∃ t, exec (.call e g) s = .next t ∧
      t.eng e.val = { a with stack := ⟨a.sel, a.nextPc, a.romX, a.vaddr⟩ :: a.stack, pc := w.target } ∧ s.onlyEngine t e.val g) ∧
    (w.seqOp = 9 → a.stack.length < 8 → ∃ t, exec (.romcall e g) s = .next t ∧
      t.eng e.val = { a with stack := ⟨a.sel, a.nextPc, a.romX, a.vaddr⟩ :: a.stack, sel := .rom, pc := 2 * w.target } ∧ s.onlyEngine t e.val g) ∧
    (∀ y ys, w.seqOp = 3 → a.stack = y :: ys → ∃ t, exec (.ret e g) s = .next t ∧
      t.eng e.val = { a with stack := ys, sel := y.sel, pc := y.pc, romX := y.romX, vaddr := y.vaddr } ∧ s.onlyEngine t e.val g) ∧
    (w.seqOp = 4 → ∃ t, exec (.loop e g) s = .next t ∧
      t.eng e.val = { a with
        counters := a.counters.set w.loopSel (a.counters.getD w.loopSel 0 - 1)
        pc := if 1 < a.counters.getD w.loopSel 0 then w.target else a.nextPc } ∧ s.onlyEngine t e.val g) ∧
    (w.seqOp = 5 → ∃ t, exec (.ldcnt e g) s = .next t ∧
      t.eng e.val = { a with counters := a.counters.set w.loopSel w.loopLoad, pc := a.nextPc } ∧ s.onlyEngine t e.val g) ∧
    (w.seqOp = 7 → a.sel = .patch → ∃ t, exec (.resume e g) s = .next t ∧
      t.eng e.val = { a with sel := .rom, pc := (a.romX + 1 + w.target) % 32768 } ∧ s.onlyEngine t e.val g)) ∧
  (∀ (e : EngNo) (g : Nat) (w : Micro) (s : State), s.closesAt e.val g w →
    (w.seqOp = 8 → ∃ t, exec (.halt e g) s = .next t ∧ (t.eng e.val).halted = some g ∧ (t.eng e.val).word = none ∧
      (t.eng e.val).nextAt = none ∧ (t.eng e.val).pend = none ∧ (∀ k, k ≠ e.val → t.eng k = s.eng k) ∧
      t = { s with gt := max s.gt g, engines := t.engines, regs := t.regs } ∧ s.regsKept t [engStat e.val] ∧
      t.fld (engStat e.val) ENG_STAT_BADOP = s.fld (engStat e.val) ENG_STAT_BADOP) ∧
    (10 ≤ w.seqOp → ∃ t, exec (.badop e g) s = .next t ∧ (t.eng e.val).halted = some g ∧ (t.eng e.val).word = none ∧
      t.fld (engStat e.val) ENG_STAT_BADOP = 1 ∧ (∀ k, k ≠ e.val → t.eng k = s.eng k) ∧
      t = { s with gt := max s.gt g, engines := t.engines, regs := t.regs } ∧ s.regsKept t [engStat e.val]) ∧
    (∀ x ∈ [(2, Instr.call e g), (9, Instr.romcall e g), (3, Instr.ret e g)], w.seqOp = x.1 →
      (if x.1 = 3 then (s.eng e.val).stack = [] else 8 ≤ (s.eng e.val).stack.length) →
      ∃ t, exec x.2 s = .next t ∧ (t.eng e.val).halted = some g ∧ t.fld (engStat e.val) ENG_STAT_STACK = 1 ∧
        ((∀ r ∈ s.runs, some r.id = (s.eng e.val).run → r.endCode = none) →
          ∀ y ∈ t.runs, some y.id = (s.eng e.val).run → (y.endCode, y.endAt) = (some codeViolation, some g)) ∧
        (∀ k, k ≠ e.val → t.eng k = s.eng k) ∧
        t = { s with gt := max s.gt g, engines := t.engines, regs := t.regs, runs := t.runs } ∧ s.regsKept t [engStat e.val]))

/-- R192, R193, R196: a JUMP with a condition is pending until its close grain plus the latency of its level, and the engine goes on with the
next word; with a branch pending already NEST sets. R194, R195: at that grain a branch that is met goes on at TARGET with the state it
kept, its pins play from the other lane and the cycles in progress are cut; one that is not met changes nothing of the word in progress. -/
def Obligations.BranchesArePendingThenDecided : Prop :=
  ∀ (e : EngNo) (g : Nat) (w : Micro) (s : State),
    (s.closesAt e.val g w → w.seqOp = 1 → (w.cond ≠ 0 ∨ w.condInv = true) →
      ((s.eng e.val).pend = none → ∃ t p, exec (.jump e g) s = .next t ∧ (t.eng e.val).pend = some p ∧ p.s = g ∧ p.isWait = false ∧
        p.at_ = g + (match condLevel w.cond w.waitSel with
          | 0 => 2048
          | 1 => 3072
          | 2 => 4096
          | _ => 16384 + (s.reg VYN_L).toNat) ∧
        (p.cond, p.condInv, p.target, p.coll) = (w.cond, w.condInv, w.target, (s.eng e.val).coll) ∧
        t.fld (engStat e.val) ENG_STAT_BR_PEND = 1 ∧ (t.eng e.val).pc = (s.eng e.val).nextPc ∧ (t.eng e.val).word = none ∧
        (∀ k, k ≠ e.val → t.eng k = s.eng k) ∧ t = { s with gt := max s.gt g, engines := t.engines, regs := t.regs, outs := t.outs } ∧
        s.regsKept t [engStat e.val]) ∧
      ((s.eng e.val).pend ≠ none → ∃ t, exec (.jump e g) s = .next t ∧ t.fld (engStat e.val) ENG_STAT_NEST = 1 ∧
        (t.eng e.val).pend = (s.eng e.val).pend ∧ (t.eng e.val).pc = (s.eng e.val).nextPc ∧ (t.eng e.val).word = none ∧
        (∀ k, k ≠ e.val → t.eng k = s.eng k) ∧ t = { s with gt := max s.gt g, engines := t.engines, regs := t.regs } ∧
        s.regsKept t [engStat e.val])) ∧
    (∀ p, (s.eng e.val).pend = some p → p.isWait = false → p.at_ = g → s.engRuns e.val = true → p.vform = false → p.cond ≠ 4 →
      (p.met = true → ∃ t, exec (.branchTakeEffect e g) s = .next t ∧
        (t.eng e.val).pc = p.target ∧ (t.eng e.val).pend = none ∧ (t.eng e.val).word = none ∧ (t.eng e.val).nextAt = some g ∧
        ((t.eng e.val).counters, (t.eng e.val).stack, (t.eng e.val).vaddr, (t.eng e.val).ts) = (p.counters, p.stack, p.vaddr, p.ts) ∧
        (t.eng e.val).live = otherLane (s.eng e.val).live ∧ (t.eng e.val).liveFrom = g ∧ t.fld (engStat e.val) ENG_STAT_BR_PEND = 0 ∧
        (∀ u, u < 16 → nbit (s.eng e.val).served u = true → ∀ x, (s.pin (16 * engCl e.val + u)).cyc = some x → x.cut = none →
          (t.pin (16 * engCl e.val + u)).cyc = some { x with cut := some g }) ∧
        (∀ k, k ≠ e.val → t.eng k = s.eng k) ∧ (∀ c, c ≠ engCl e.val → t.cl c = s.cl c) ∧
        t = { s with gt := max s.gt g, engines := t.engines, regs := t.regs, pins := t.pins, clusters := t.clusters } ∧
        s.regsKept t [engStat e.val]) ∧
      (p.met = false → ∃ t, exec (.branchTakeEffect e g) s = .next t ∧
        (t.eng e.val).pend = none ∧ (t.eng e.val).lastBr = some p.s ∧
        ((t.eng e.val).word, (t.eng e.val).sel, (t.eng e.val).pc, (t.eng e.val).nextAt, (t.eng e.val).live, (t.eng e.val).ts) =
          ((s.eng e.val).word, (s.eng e.val).sel, (s.eng e.val).pc, (s.eng e.val).nextAt, (s.eng e.val).live, (s.eng e.val).ts) ∧
        ((t.eng e.val).counters, (t.eng e.val).stack, (t.eng e.val).vaddr) = ((s.eng e.val).counters, (s.eng e.val).stack, (s.eng e.val).vaddr) ∧
        t.fld (engStat e.val) ENG_STAT_BR_PEND = 0 ∧
        (∀ k, k ≠ e.val → t.eng k = s.eng k) ∧ (∀ c, c ≠ engCl e.val → t.cl c = s.cl c) ∧
        t = { s with gt := max s.gt g, engines := t.engines, regs := t.regs, clusters := t.clusters } ∧ s.regsKept t [engStat e.val]))

/-- R186, R189, R211: an engine that stands before its next word at grain g fetches it from the writable store and plays its cycles: its
timing set, its vector address and its close grain follow. R202: a WAIT whose first or later pass closes checks its flag: found as wanted,
the next word opens the latency later; otherwise WAITING reads 1 and the body repeats. -/
def Obligations.WordsOpenAndWait : Prop :=
  ∀ (e : EngNo) (g : Nat) (w : Micro) (s : State),
    ((s.eng e.val).vform = false → s.engRuns e.val = true → (s.eng e.val).word = none → (s.eng e.val).pend = none →
      (s.eng e.val).nextAt = some g → (s.eng e.val).sel = .ws → (s.eng e.val).pc < 16384 →
      s.storeBad (wsAddr e.val (s.eng e.val).pc) = false → w = microOf (s.storeWord (wsAddr e.val (s.eng e.val).pc)) →
      w.dictEn = false → w.segTrig = false → w.adcStart = false → w.acqArm = 0 → w.sigOp ≠ 1 → w.sigOp ≠ 2 → s.inFlight = [] →
      ∃ t, exec (.wordOpen e g []) s = .next t ∧
        (let ts := if w.tsEn then w.ts else (s.eng e.val).ts
         let n := if w.seqOp = 6 then max 1 w.cycles else w.cycles
         let p := (s.inForce (TSET_PERIOD (engCl e.val) ts)).toNat + 1
         t.eng e.val = { s.eng e.val with
           word := some { w with cycles := n }, openAt := g, baseAt := g, baseCyc := 0, period := p, nextAt := some (g + n * p), coll := {}
           lastCheck := none, ts := ts, capEn := w.capEn
           vaddr := if w.seekEn then (s.fld (ENG_SEEK_LO (engCl e.val) (e.val % 4) w.seekIdx) ENG_SEEK_LO_VADDR_LO +
               2 ^ 32 * s.fld (ENG_SEEK_HI (engCl e.val) (e.val % 4) w.seekIdx) ENG_SEEK_HI_VADDR_HI) % 2 ^ 40
             else (s.eng e.val).vaddr }) ∧
        t.fld (engStat e.val) ENG_STAT_PC = (s.eng e.val).pc ∧ (∀ k, k ≠ e.val → t.eng k = s.eng k) ∧
        t = { s with gt := max s.gt g, engines := t.engines, regs := t.regs } ∧ s.regsKept t [engStat e.val]) ∧
    ((s.eng e.val).word = some w → w.seqOp = 6 → s.engRuns e.val = true → (s.eng e.val).pend = none →
      ∀ x ∈ [(Instr.wait e g, (s.eng e.val).nextAt = some g),
             (Instr.waitCheck e g, (s.eng e.val).nextAt = none ∧ (s.eng e.val).lastCheck ≠ some g ∧
               ∃ k, (s.eng e.val).cyclesBy g = some k ∧ w.cycles < k ∧ k % w.cycles = 0)], x.2 →
      (s.selMet (engCl e.val) w.waitSel w.condInv = true → ∃ t p, exec x.1 s = .next t ∧ (t.eng e.val).pend = some p ∧ p.isWait = true ∧
        p.s = g ∧ p.at_ = g + s.latency (selLevel w.waitSel) ∧ (t.eng e.val).word = some w ∧ (t.eng e.val).nextAt = none ∧
        s.onlyEngine t e.val g) ∧
      (s.selMet (engCl e.val) w.waitSel w.condInv = false → ∃ t, exec x.1 s = .next t ∧ (t.eng e.val).pend = none ∧
        (t.eng e.val).waiting = true ∧ t.bit (engStat e.val) ENG_STAT_WAITING = true ∧ (t.eng e.val).word = some w ∧
        (t.eng e.val).nextAt = none ∧ (∀ k, k ≠ e.val → t.eng k = s.eng k) ∧
        t = { s with gt := max s.gt g, engines := t.engines, regs := t.regs } ∧ s.regsKept t [engStat e.val]))

/-- R207, R208: a member of a V-form group stands before its next operation when it is due with no word in progress, or when a STREAM word
closes. Table 6-7a: NOP, TSET, SEEK, LDCNT, LOOPB, CALL, RET, SUBST and an undefined VOP change the engine as they say and take no pin
time, and where a loop or a return goes on the lead's own counters and calls decide (R208, log entry 47); STREAM opens a word of its
vectors. R344: a poisoned store word ends the run. -/
def Obligations.VectorOperationsRun : Prop :=
  ∀ (e : EngNo) (g : Nat) (s u : State) (v : VOp) (n : LeadPath × Nat) (z : State),
    ((s.eng e.val).vform = true → (s.eng e.val).sel = .ws → s.engRuns e.val = true → (s.eng e.val).pend = none → (s.eng e.val).nextAt = some g →
      ((s.eng e.val).word = none → s.vReady e.val g = some (s.at g)) ∧
      (∀ w, (s.eng e.val).word = some w → w.seqOp ≠ 6 → s.vReady e.val g = some (s.closeWord e.val g w))) ∧
    (s.vReady e.val g = some u → (u.eng e.val).vResume = none →
      u.storeBad (wsAddr (u.eng e.val).lead ((u.eng e.val).pc % 65536 / 4)) = true →
      ∃ t, exec (.vopNop e g []) s = .next t ∧ (t.eng e.val).halted = some g ∧
        ((∀ r ∈ u.runs, some r.id = (u.eng e.val).run → r.endCode = none) →
          ∀ y ∈ t.runs, some y.id = (u.eng e.val).run → (y.endCode, y.endAt) = (some codeDataLost, some g))) ∧
    (s.vReady e.val g = some u → u.storeBad (wsAddr (u.eng e.val).lead ((u.eng e.val).pc % 65536 / 4)) = false →
      v = vopOf (u.storeWord (wsAddr (u.eng e.val).lead ((u.eng e.val).pc % 65536 / 4))) ((u.eng e.val).pc % 65536 % 4) → u.vPatch (engCl e.val) v.vop 0 = none →
      (u.eng e.val).vResume = none →
      n = (u.eng e.val).path.after v.vop v.operand ((u.eng e.val).pc % 65536) →
      z = (u.setFld (engStat e.val) ENG_STAT_PC ((u.eng e.val).pc % 65536)).updEng e.val
        (fun x => { x with path := n.1, pc := n.2, vOperand := v.operand }) →
      (v.vop = 0 → exec (.vopNop e g []) s = .next z) ∧
      (v.vop = 1 → u.inFlight = [] → ∃ t, exec (.vopStream e g []) s = .next t ∧
        (let p := (u.inForce (TSET_PERIOD (engCl e.val) (u.eng e.val).ts)).toNat + 1
         t.eng e.val = { z.eng e.val with
           word := some { (z.eng e.val).vWord with
             vmode := if v.operand / 2 ^ 24 % 4 = 3 then 1 else v.operand / 2 ^ 24 % 4
             cycles := v.operand % 2 ^ 24 }
           openAt := g, baseAt := g, baseCyc := 0, period := p, nextAt := some (g + v.operand % 2 ^ 24 * p), coll := {}, lastCheck := none
           capEn := (z.eng e.val).vCap }) ∧
        (∀ k, k ≠ e.val → t.eng k = z.eng k) ∧ t = { z with engines := t.engines }) ∧
      (v.vop = 2 → ∃ t, exec (.vopTset e g []) s = .next t ∧
        t.eng e.val = { z.eng e.val with ts := v.operand % 64, vCap := nbit v.operand 6, capEn := nbit v.operand 6 } ∧
        (∀ k, k ≠ e.val → t.eng k = z.eng k) ∧ t = { z with engines := t.engines }) ∧
      (v.vop = 3 → ∃ t, exec (.vopSeek e g []) s = .next t ∧
        t.eng e.val = { z.eng e.val with
          capEn := (z.eng e.val).vCap
          vaddr := (u.fld (ENG_SEEK_LO (engCl e.val) (e.val % 4) (v.operand % 2 ^ 10)) ENG_SEEK_LO_VADDR_LO + 2 ^ 32 *
            u.fld (ENG_SEEK_HI (engCl e.val) (e.val % 4) (v.operand % 2 ^ 10)) ENG_SEEK_HI_VADDR_HI) % 2 ^ 40 } ∧
        (∀ k, k ≠ e.val → t.eng k = z.eng k) ∧ t = { z with engines := t.engines }) ∧
      (v.vop = 4 → exec (.vopLdcnt e g []) s = .next (z.updEng e.val (fun x => { x with
        counters := x.counters.set (v.operand / 2 ^ 24 % 4) (v.operand % 2 ^ 24) }))) ∧
      (v.vop = 5 → exec (.vopLoopb e g []) s = .next (z.updEng e.val (fun x => { x with
        counters := x.counters.set (v.operand / 2 ^ 24 % 4) (x.counters.getD (v.operand / 2 ^ 24 % 4) 0 - 1) })) ∧
        (z.eng e.val).pc = if 1 < (u.eng e.val).path.counters.getD (v.operand / 2 ^ 24 % 4) 0 then v.operand % 2 ^ 16
          else ((u.eng e.val).pc % 65536 + 1) % 65536) ∧
      (v.vop = 6 → (z.eng e.val).stack.length < 8 → exec (.vopCall e g []) s = .next (z.updEng e.val (fun x => { x with
        stack := ⟨x.sel, ((u.eng e.val).pc % 65536 + 1) % 65536, x.romX, x.vaddr⟩ :: x.stack, sel := .ws, pc := v.operand % 2 ^ 16 }))) ∧
      (∀ y ys, v.vop = 7 → (z.eng e.val).stack = y :: ys → exec (.vopRet e g []) s = .next (z.updEng e.val (fun x => { x with
        stack := ys, sel := .ws, romX := y.romX, vaddr := y.vaddr })) ∧
        (z.eng e.val).pc = (u.eng e.val).path.calls.headD (((u.eng e.val).pc % 65536 + 1) % 65536)) ∧
      (v.vop = 13 → exec (.vopSubst e g []) s = .next (z.updEng e.val (fun x => { x with
        vSubst := nbit v.operand 2, vSubstPtr := v.operand % 4 }))) ∧
      (15 ≤ v.vop → exec (.vopBad e g []) s = .next (z.setFld (engStat e.val) ENG_STAT_BADOP 1)))

/-- Table 6-7a, R209: BRCOND jumps, or is pending until its latency; a cluster-level condition sets VBAD and is not met. WAITF opens a WAIT
word on the flag it names, whose body plays HOLD (log entry 25); SIGF sets or clears that flag; ACT and DICT act as the side fields of an
H-form word; HALT ends the engine's part. -/
def Obligations.VectorBranchesAndActions : Prop :=
  ∀ (e : EngNo) (g : Nat) (s u : State) (v : VOp) (n : LeadPath × Nat) (z : State),
    s.vReady e.val g = some u → u.storeBad (wsAddr (u.eng e.val).lead ((u.eng e.val).pc % 65536 / 4)) = false →
    v = vopOf (u.storeWord (wsAddr (u.eng e.val).lead ((u.eng e.val).pc % 65536 / 4))) ((u.eng e.val).pc % 65536 % 4) → u.vPatch (engCl e.val) v.vop 0 = none →
      (u.eng e.val).vResume = none →
    n = (u.eng e.val).path.after v.vop v.operand ((u.eng e.val).pc % 65536) →
    z = (u.setFld (engStat e.val) ENG_STAT_PC ((u.eng e.val).pc % 65536)).updEng e.val
      (fun x => { x with path := n.1, pc := n.2, vOperand := v.operand }) →
    (v.vop = 8 → v.operand / 2 ^ 20 % 64 = 0 → nbit v.operand 19 = false →
      exec (.vopBrcond e g []) s = .next z ∧ (z.eng e.val).pc = v.operand % 2 ^ 16) ∧
    (v.vop = 8 → (v.operand / 2 ^ 20 % 64 = 1 ∨ (v.operand / 2 ^ 20 % 64 = 5 ∧ (z.eng e.val).vFlag / 256 % 4 = 0)) →
      exec (.vopBrcond e g []) s = .next (z.setFld (engStat e.val) ENG_STAT_VBAD 1)) ∧
    (v.vop = 8 → (v.operand / 2 ^ 20 % 64 = 2 ∨ v.operand / 2 ^ 20 % 64 = 3) → (z.eng e.val).pend = none →
      ∃ t p, exec (.vopBrcond e g []) s = .next t ∧ t.eng e.val = { z.eng e.val with pend := some p } ∧ p.s = g ∧
        p.at_ = g + (if v.operand / 2 ^ 20 % 64 = 2 then 3072 else 4096) ∧ p.target = v.operand % 2 ^ 16 ∧
        t.fld (engStat e.val) ENG_STAT_BR_PEND = 1 ∧ (∀ k, k ≠ e.val → t.eng k = z.eng k) ∧
        t = { z with engines := t.engines, regs := t.regs } ∧ z.regsKept t [engStat e.val]) ∧
    (v.vop = 9 → u.inFlight = [] → ∃ t w, exec (.vopWaitf e g []) s = .next t ∧ (t.eng e.val).word = some w ∧ w.seqOp = 6 ∧
      w.waitSel = v.operand % 2 ^ 10 ∧ w.cycles = max 1 (v.operand / 2 ^ 10 % 2 ^ 16) ∧ w.vmode = 1 ∧ (t.eng e.val).vFlag = v.operand % 2 ^ 10 ∧
      (t.eng e.val).pc = ((u.eng e.val).pc % 65536 + 1) % 65536 ∧ (t.eng e.val).openAt = g ∧
      (t.eng e.val).nextAt = some (g + w.cycles * ((u.inForce (TSET_PERIOD (engCl e.val) (u.eng e.val).ts)).toNat + 1)) ∧
      (∀ k, k ≠ e.val → t.eng k = z.eng k) ∧ t = { z with engines := t.engines }) ∧
    (v.vop = 10 → ∀ k set, (v.operand / 2 ^ 10 % 4, set) = (1, true) ∨ (v.operand / 2 ^ 10 % 4, set) = (2, false) →
      flagOfSel (engCl e.val) (v.operand % 2 ^ 10) = some k → k < 3000 → u.missingAt (engCl e.val) g = false →
      (tget (fun _ => ((0, 0) : Nat × Nat)) u.flagSets k).1 ≠ g + 1 →
      ∃ t, exec (.vopSigf e g []) s = .next t ∧ t.flag k = set ∧ (∀ m, m ≠ k → t.flag m = u.flag m) ∧
        (t.eng e.val).vFlag = v.operand % 2 ^ 10 ∧ (t.eng e.val).pc = (z.eng e.val).pc ∧ t.pins = z.pins ∧ t.runs = z.runs ∧ t.mem = z.mem) ∧
    (v.vop = 11 → exec (.vopAct e g []) s = .next (z.sideFields e.val g { (z.eng e.val).vWord with
      acqArm := v.operand / 4 % 4, adcStart := nbit v.operand 1, segTrig := nbit v.operand 0 } [])) ∧
    (v.vop = 11 → v.operand % 16 = 1 → z.missingAt (engCl e.val) g = false → ∃ t, exec (.vopAct e g []) s = .next t ∧
      t.eng e.val = { z.eng e.val with capEn := (z.eng e.val).vCap } ∧
      (∀ i, i < 16 → nbit (z.eng e.val).served i = true → ∀ y, (z.pin (16 * engCl e.val + i)).player = some y →
        (t.pin (16 * engCl e.val + i)).player = some { y with trig := true }) ∧
      t = { z with engines := t.engines, pins := t.pins }) ∧
    (v.vop = 12 → exec (.vopDict e g []) s = .next (z.sideFields e.val g { (z.eng e.val).vWord with
      dictEn := true, dictImg := v.operand % 2 ^ 12 } [])) ∧
    (v.vop = 14 → ∃ t, exec (.vopHalt e g []) s = .next t ∧ (t.eng e.val).halted = some g ∧ (t.eng e.val).nextAt = none ∧
      (∀ k, k ≠ e.val → t.eng k = z.eng k) ∧ t = { z with engines := t.engines, regs := t.regs } ∧ z.regsKept t [engStat e.val])

/-- R211: a partner reads a word of a store into ENG_CS_DATA, a poisoned one as ones, and writes one from it, which lifts its poison; the ROM,
the store of an engine in a run, the patch store of a cluster with one and stores 6 and 7 are refused with REFUSED. R213: a patch match
register is stored while no engine of its cluster holds a run, and the write is logged and ignored otherwise. R227, R233: shares of HBM
that exceed 240 together are ignored and logged; others are stored. -/
def Obligations.StoresPatchesAndShares : Prop :=
  (∀ (port : PortNo) (c : ClNo) (v : Word) (s : State), s.reaches (ENG_CS_CMD c.val) → getF v ENG_CS_CMD_GO = 1 →
    (getF v ENG_CS_CMD_WR = 0 → csStore v < 6 → ∃ t, exec (.csRead port c v []) s = .next t ∧
      (∀ k, k < 5 → t.reg (ENG_CS_DATA c.val k) = BitVec.ofNat 32
        ((if csStore v = 5 then romAt (csAddr v) else if s.storeBad (csTarget c.val v) = true then BitVec.allOnes 144
          else s.storeWord (csTarget c.val v)).toNat / 2 ^ (32 * k) % 2 ^ (if k = 4 then 16 else 32))) ∧
      t = { s with regs := t.regs } ∧ s.regsKept t ((List.range 5).map (ENG_CS_DATA c.val))) ∧
    (getF v ENG_CS_CMD_WR = 1 → csStore v < 5 → s.csBusy c.val v = false →
      (∀ e ∈ storeEngines (csTarget c.val v), (s.eng e).heldStart = none) → ∃ t, exec (.csWrite port c v) s = .next t ∧
      t.storeWord (csTarget c.val v) = s.csData c.val ∧ t.storeBad (csTarget c.val v) = false ∧
      (∀ a, a ≠ csTarget c.val v → t.storeWord a = s.storeWord a ∧ t.storeBad a = s.storeBad a) ∧
      t = { s with stores := t.stores, storePoison := t.storePoison, storeWritten := t.storeWritten }) ∧
    (getF v ENG_CS_CMD_WR = 1 → csStore v < 6 →
      (csStore v = 5 ∨ (csStore v < 4 ∧ (s.eng (4 * c.val + csStore v)).run.isSome = true) ∨
        (csStore v = 4 ∧ ∃ e ∈ clEngines c.val, (s.eng e).run.isSome = true)) →
      ∃ t, exec (.csWrite port c v) s = .next t ∧ t.fld (ENG_CS_CMD c.val) ENG_CS_CMD_REFUSED = 1 ∧
        t.stores = s.stores ∧ t.storePoison = s.storePoison ∧ t.engines = s.engines) ∧
    (6 ≤ csStore v → ∃ t, exec (.csStoreRefused port c v) s = .next t ∧ t.fld (ENG_CS_CMD c.val) ENG_CS_CMD_REFUSED = 1 ∧
      t.stores = s.stores ∧ t.storePoison = s.storePoison ∧ t.engines = s.engines)) ∧
  (∀ (port : PortNo) (c : ClNo) (n : Fin 64) (r : RgNo) (value : Word) (s : State),
    (s.reaches (ENG_PM c.val n.val) → (∀ e ∈ clEngines c.val, (s.eng e).run = none) →
      ∃ t, exec (.engPmWrite port c n value) s = .next t ∧ t.fld (ENG_PM c.val n.val) ENG_PM_EN = getF value ENG_PM_EN ∧
        t.fld (ENG_PM c.val n.val) ENG_PM_ROM_ADDR = getF value ENG_PM_ROM_ADDR ∧
        t.fld (ENG_PM c.val n.val) ENG_PM_PATCH_ADDR = getF value ENG_PM_PATCH_ADDR ∧
        t = { s with regs := t.regs } ∧ s.regsKept t [ENG_PM c.val n.val]) ∧
    (s.reaches (ENG_PM c.val n.val) → (∃ e ∈ clEngines c.val, (s.eng e).run ≠ none) →
      exec (.engPmWrite port c n value) s = .next (s.violation 0x01 port.val 0 c.val (ENG_PM c.val n.val))) ∧
    (s.reaches (MEM_HBM_SHARE r.val) →
      (getF value MEM_HBM_SHARE_VEC + getF value MEM_HBM_SHARE_FAIL + getF value MEM_HBM_SHARE_ACQ ≤ 240 →
        ∃ t, exec (.hbmShareWrite port r value 15) s = .next t ∧
          t.fld (MEM_HBM_SHARE r.val) MEM_HBM_SHARE_VEC = getF value MEM_HBM_SHARE_VEC ∧
          t.fld (MEM_HBM_SHARE r.val) MEM_HBM_SHARE_FAIL = getF value MEM_HBM_SHARE_FAIL ∧
          t.fld (MEM_HBM_SHARE r.val) MEM_HBM_SHARE_ACQ = getF value MEM_HBM_SHARE_ACQ ∧
          t = { s with regs := t.regs } ∧ s.regsKept t [MEM_HBM_SHARE r.val]) ∧
      (240 < getF value MEM_HBM_SHARE_VEC + getF value MEM_HBM_SHARE_FAIL + getF value MEM_HBM_SHARE_ACQ →
        exec (.hbmShareWrite port r value 15) s = .next (s.violation 0x01 port.val 0 r.val (MEM_HBM_SHARE r.val)))))

/-- R263, R264, R268: an arm at a boundary arms an idle digitiser of a cluster with CAPTURE with its settings as they stand; two arms of one
grain are one; any other arm only sets ARM_IGNORED. R267: an abort disarms an armed digitiser. R268: a written range is in force at once
in an idle digitiser and held while it is armed or acquires. -/
def Obligations.DigitisersArmAndHoldTheirRange : Prop :=
  ∀ (port : PortNo) (d : DigNo) (b : Nat) (value : Word) (s : State), (s.dig d.val).rangeDue = none →
    (s.reaches (ACQ_CTRL (digCl d.val) (d.val % 2)) →
      ((s.dig d.val).phase = .idle → s.hasMode (digCl d.val) 2 = true → ∃ t, exec (.acqArm port d b) s = .next t ∧
        (t.dig d.val).phase = .armed b ∧ (t.dig d.val).cfg = some (s.acqSnapshot d.val) ∧ t.bit (acqStat d.val) ACQ_STAT_ARMED = true ∧
        (∀ k, k ≠ d.val → t.dig k = s.dig k) ∧ t.gt = max s.gt b ∧ s.pinsKept t ∧ t.engines = s.engines ∧ t.clusters = s.clusters) ∧
      ((s.dig d.val).phase = .armed b → exec (.acqArm port d b) s = .next (s.atCluster (digCl d.val) b)) ∧
      (((∃ a, (s.dig d.val).phase = .armed a ∧ a ≠ b) ∨ (∃ a n f, (s.dig d.val).phase = .acquiring a n f) ∨
          ((s.dig d.val).phase = .idle ∧ s.hasMode (digCl d.val) 2 = false)) →
        exec (.acqArm port d b) s = .next ((s.atCluster (digCl d.val) b).setBit (acqStat d.val) ACQ_STAT_ARM_IGNORED true)) ∧
      (∀ a, (s.dig d.val).phase = .armed a → ∃ t, exec (.acqAbort port d b) s = .next t ∧ (t.dig d.val).phase = .idle ∧
        t.bit (acqStat d.val) ACQ_STAT_ARMED = false ∧ (∀ k, k ≠ d.val → t.dig k = s.dig k) ∧
        t = { s.atCluster (digCl d.val) b with digs := t.digs, regs := t.regs } ∧ s.regsKept t [acqStat d.val]) ∧
      ((s.dig d.val).phase = .idle → exec (.acqAbort port d b) s = .next (s.atCluster (digCl d.val) b))) ∧
    (s.reaches (ACQ_RANGE (digCl d.val) (d.val % 2)) → ∃ t, exec (.acqRangeWrite port d value b) s = .next t ∧
      t.fld (ACQ_RANGE (digCl d.val) (d.val % 2)) ACQ_RANGE_FS = getF value ACQ_RANGE_FS ∧
      t.fld (ACQ_RANGE (digCl d.val) (d.val % 2)) ACQ_RANGE_CENTER = getF value ACQ_RANGE_CENTER ∧
      ((s.dig d.val).phase = .idle → (t.dig d.val).rangeForce = t.reg (ACQ_RANGE (digCl d.val) (d.val % 2)) ∧
        s.regsKept t [ACQ_RANGE (digCl d.val) (d.val % 2)]) ∧
      ((s.dig d.val).phase ≠ .idle → t.dig d.val = { s.dig d.val with rangeHold := some (t.reg (ACQ_RANGE (digCl d.val) (d.val % 2))) } ∧ t.bit (acqStat d.val) ACQ_STAT_RANGE_HELD = true ∧
        s.regsKept t [ACQ_RANGE (digCl d.val) (d.val % 2), acqStat d.val]) ∧
      (∀ k, k ≠ d.val → t.dig k = s.dig k) ∧ t = { s.atCluster (digCl d.val) b with digs := t.digs, regs := t.regs })

/-- R265, R266, R271: a record begins at the first sample at or after A + PRE at which the trigger completes, or in auto mode, forced, at A +
PRE + AUTO: SEQ counts it, ACQUIRING reads 1, ARMED 0, and with FLAG_EN its cluster flag is due at the first boundary 128 gr or more after
the trigger. At that boundary the flag sets. R261, R273, R276, R278: a full line of the raw ring holds the samples of its units, and is
staged, or when the staging has no room it is dropped, counted in the gap, and GAP sets. R267, R279: a record's last sample is POST - 1
samples after its trigger; then the ring ends with an END line whose kept and dropped units are all the record's units, and the digitiser
is idle, or armed again with REARM. -/
def Obligations.RecordsBeginAndEnd : Prop :=
  (∀ (d : DigNo) (n a b : Nat) (input : List Int) (l : List Byte) (x : AcqCfg) (s : State),
    (s.dig d.val).rangeDue = none → (s.dig d.val).cfg = some x → (s.dig d.val).phase = .armed a →
    l = (s.dig d.val).samples ++ acqCodes (s.dig d.val).rangeForce s.free input →
    (∀ y ∈ [(Instr.trigger d n input, n, false, a ≤ n ∧ l.length = n - a + 1 ∧
          ((x.triggers {} 0 l).filter (fun i => decide (x.preN ≤ i))).head? = some (n - a) ∧
          (getB x.ctrl 28 = true → n ≤ a + x.preN + x.auto.toNat)),
        (Instr.autoTimeout d input, a + x.preN + x.auto.toNat, true, getB x.ctrl 28 = true ∧
          l.length = x.preN + x.auto.toNat + 1 ∧ (x.triggers {} 0 l).filter (fun i => decide (x.preN ≤ i)) = [])], y.2.2.2 →
      ∃ t, exec y.1 s = .next t ∧ (t.dig d.val).phase = .acquiring a y.2.1 y.2.2.1 ∧ (t.dig d.val).cfg = some x ∧ (t.dig d.val).samples = l ∧
        t.fld (acqStat d.val) ACQ_STAT_SEQ = (s.fld (acqStat d.val) ACQ_STAT_SEQ + 1) % 2 ^ ACQ_STAT_SEQ.width ∧
        t.bit (acqStat d.val) ACQ_STAT_ARMED = false ∧ t.bit (acqStat d.val) ACQ_STAT_ACQUIRING = true ∧
        (y.2.2.1 = true → t.bit (acqStat d.val) ACQ_STAT_FORCED = true) ∧
        (t.dig d.val).flagDue = (s.dig d.val).flagDue ++ (if getB x.ctrl 27 then
          [(digCl d.val * 8 + getF x.ctrl ACQ_CTRL_FLAG, boundaryAt (y.2.1 + 128))] else []) ∧
        (x.enabled 0 = false → (t.dig d.val).raw = (s.dig d.val).raw) ∧
        (x.enabled 0 = true → (t.dig d.val).raw.staged.length = (s.dig d.val).raw.staged.length + 1 ∧ (t.dig d.val).raw.kept = 0) ∧
        (∀ k, k ≠ d.val → t.dig k = s.dig k) ∧ t.gt = max s.gt y.2.1 ∧ s.pinsKept t ∧ t.engines = s.engines ∧ t.flags = s.flags) ∧
    ((∃ z ∈ (s.dig d.val).flagDue, z.2 = b) → ∃ t, exec (.triggerFlagSet d b) s = .next t ∧
      (∀ z ∈ (s.dig d.val).flagDue, z.2 = b → t.flag z.1 = true) ∧
      (∀ m, (m, b) ∉ (s.dig d.val).flagDue → t.flag m = s.flag m) ∧ (t.dig d.val).flagDue = (s.dig d.val).flagDue.filter (fun z => z.2 != b) ∧
      (t.dig d.val).phase = .armed a ∧ (∀ k, k ≠ d.val → t.dig k = s.dig k) ∧ t.pins = s.pins ∧ t.runs = s.runs ∧ t.mem = s.mem)) ∧
  (∀ (d : DigNo) (a n m j k : Nat) (f : Bool) (input : List Int) (l : List Byte) (x : AcqCfg) (s : State),
    (s.dig d.val).cfg = some x → (s.dig d.val).phase = .acquiring a n f →
    (m = n + x.postN - 1 → getB x.ctrl 29 = false → ∃ t, exec (.recordLastSample d m input) s = .next t ∧ (t.dig d.val).phase = .idle ∧
      t.bit (acqStat d.val) ACQ_STAT_ACQUIRING = false ∧ t.bit (acqStat d.val) ACQ_STAT_ARMED = false ∧
      (x.enabled 0 = true → (t.dig d.val).raw.staged.getLast? = some (acqLine 4 0 (s.recordSeq d.val) 0
          (leBytes 8 (t.dig d.val).raw.kept ++ leBytes 8 (t.dig d.val).raw.dropped ++ leBytes 4 0 ++
            leBytes 1 (if (t.dig d.val).raw.ovf then 1 else 0))) ∧
        (a + x.preN ≤ n → (s.dig d.val).raw.kept + (s.dig d.val).raw.dropped ≤ x.unitsOf 0 (x.preN + x.postN) →
          (t.dig d.val).raw.kept + (t.dig d.val).raw.dropped = x.unitsOf 0 (x.preN + x.postN))) ∧
      (∀ k, k ≠ d.val → t.dig k = s.dig k) ∧ t.gt = max s.gt m ∧ s.pinsKept t ∧ t.engines = s.engines ∧ t.flags = s.flags) ∧
    (m = n + x.postN - 1 → getB x.ctrl 29 = true →
      ∃ t, exec (.recordLastSample d m input) s = .next t ∧
        ((s.dig d.val).rangeHold = none → (t.dig d.val).phase = .armed (m + 1)) ∧
        ((s.dig d.val).rangeHold ≠ none → (t.dig d.val).phase = .armed (boundaryAfter m)) ∧
        t.bit (acqStat d.val) ACQ_STAT_ACQUIRING = false ∧ t.bit (acqStat d.val) ACQ_STAT_ARMED = true ∧
        (∀ k, k ≠ d.val → t.dig k = s.dig k) ∧ s.pinsKept t ∧ t.engines = s.engines ∧ t.flags = s.flags) ∧
    (m ≠ n + x.postN - 1 → exec (.recordLastSample d m input) s = .next s) ∧
    (x.enabled 0 = true → l = ((s.dig d.val).samples ++ acqCodes (s.dig d.val).rangeForce s.free input).drop (n - x.preN - a) →
      j = (s.dig d.val).raw.kept + (s.dig d.val).raw.dropped → k = min 60 (x.unitsOf 0 (x.preN + x.postN) - j) → 0 < k →
      x.rawIndex (j + k - 1) < l.length → l.length ≤ x.preN + x.postN →
      ((s.dig d.val).raw.gap = 0 → (s.dig d.val).raw.gapSat = false → (s.dig d.val).raw.staged.length + 4 ≤ 256 →
        ∃ t, exec (.acqLineStage d 0 input) s = .next t ∧
        (t.dig d.val).raw.staged = (s.dig d.val).raw.staged ++
          [acqLine 2 0 (s.recordSeq d.val) k ((List.range k).map (fun i => l.getD (x.rawIndex (j + i)) 0))] ∧
        (t.dig d.val).raw.kept = (s.dig d.val).raw.kept + k ∧ (t.dig d.val).raw.dropped = (s.dig d.val).raw.dropped ∧
        (∀ k, k ≠ d.val → t.dig k = s.dig k) ∧ s.pinsKept t ∧ t.engines = s.engines ∧ t.flags = s.flags) ∧
      (256 < (s.dig d.val).raw.staged.length + 4 → ∃ t, exec (.acqLineStage d 0 input) s = .next t ∧
        (t.dig d.val).raw.staged = (s.dig d.val).raw.staged ∧ (t.dig d.val).raw.dropped = (s.dig d.val).raw.dropped + k ∧
        (t.dig d.val).raw.kept = (s.dig d.val).raw.kept ∧
        (t.dig d.val).raw.gap = min ((s.dig d.val).raw.gap + k) (2 ^ 40 - 1) ∧ t.bit (acqStat d.val) ACQ_STAT_GAP = true ∧
        (∀ k, k ≠ d.val → t.dig k = s.dig k) ∧ t = { s with digs := t.digs, regs := t.regs, free := t.free } ∧
        s.regsKept t [acqStat d.val])))

/-- R286, R287: at a boundary a request gives each unit of its mask whose PPMU is in a forcing mode and has no pulse a pulse of WIDTH
granules, and it ends at its grain. R289-R291: a start event gives an idle converter a sequence DELAY granules later; with MEASURE and
CALIBRATE clear it is discarded and MISSED counts it; a timer event does the same at every multiple of its period. -/
def Obligations.PulsesAndConversionStarts : Prop :=
  ∀ (port : PortNo) (c : ClNo) (p : PinNo) (b g : Nat) (s : State),
    (∀ u : Nat, u < 16 → s.reaches (PMU_PULSE_CMD c.val) → (s.atCluster c.val b).pmuMode (16 * c.val + u) ≠ 0 →
      (∀ x, (s.pin (16 * c.val + u)).pulse = some x → x.1 ≤ b) → s.ffld (ADC_CTRL c.val) ADC_CTRL_SRC ≠ 2 →
      ∃ t, exec (.pulseStart port c (BitVec.ofNat 16 (2 ^ u)) b) s = .next t ∧ t.pin (16 * c.val + u) = { s.pin (16 * c.val + u) with
          pulse := some (b + 64 * max 1 (s.ffld (PMU_PULSE c.val u) PMU_PULSE_WIDTH), s.ffld (PMU_PULSE c.val u) PMU_PULSE_LEVEL) } ∧
        (∀ q, q ≠ 16 * c.val + u → t.pin q = s.pin q) ∧ t = { s.atCluster c.val b with pins := t.pins, outs := t.outs }) ∧
    (∀ x, (s.pin p.val).pulse = some x → x.1 = g → ∃ t, exec (.pulseEnd p g) s = .next t ∧ t.pin p.val = { s.pin p.val with pulse := none } ∧
      (∀ q, q ≠ p.val → t.pin q = s.pin q) ∧ t = { s with gt := max s.gt g, pins := t.pins, outs := t.outs }) ∧
    (∀ y ∈ [(Instr.adcStart port c g, s.reaches (ADC_CMD c.val)),
        (Instr.adcTimerEvent c g, s.ffld (ADC_CTRL c.val) ADC_CTRL_SRC = 1 ∧ (s.adc c.val).timerSince < g ∧
          (g - (s.adc c.val).timerSince) % (64 * max 1 (s.inForce (ADC_TIMER c.val)).toNat) = 0)], y.2 →
      ((s.adc c.val).starts = [] → (s.adc c.val).seq = none → (s.adc c.val).waiting = none → (s.adc c.val).refused = none →
        s.adcAccepts c.val false = true →
        s.ffld (ADC_DELAY c.val) ADC_DELAY_DELAY = 0 → ∃ t q, exec y.1 s = .next t ∧ (t.adc c.val).seq = some q ∧ q.start.grain = g ∧
          q.begun = false ∧ q.begin_ = (if s.bit (ADC_STAT c.val) ADC_STAT_POWERED = true ∨ s.adcLowPower c.val = true ∨
            (s.adc c.val).lastEnd = some g then g else g + 128000) ∧
          (∀ k, k ≠ c.val → t.cl k = s.cl k) ∧ t = { s with gt := max s.gt g, clusters := t.clusters, regions := t.regions }) ∧
      ((s.adc c.val).starts = [] → (s.adc c.val).seq = none → (s.adc c.val).waiting = none → (s.adc c.val).refused = none →
        s.adcAccepts c.val false = true →
        0 < s.ffld (ADC_DELAY c.val) ADC_DELAY_DELAY → ∃ t x, exec y.1 s = .next t ∧ (t.adc c.val).starts = [x] ∧
          x.grain = g + 64 * s.ffld (ADC_DELAY c.val) ADC_DELAY_DELAY ∧ (t.adc c.val).seq = none ∧
          (∀ k, k ≠ c.val → t.cl k = s.cl k) ∧ t = { s with gt := max s.gt g, clusters := t.clusters, regions := t.regions }) ∧
      ((s.adc c.val).starts = [] → (s.adc c.val).seq = none → (s.adc c.val).waiting = none → (s.adc c.val).refused = none →
        s.hasMode c.val 3 = false → s.hasMode c.val 4 = false → ∃ t, exec y.1 s = .next t ∧
        t.fld (ADC_QSTAT c.val) ADC_QSTAT_MISSED = min (2 ^ ADC_QSTAT_MISSED.width - 1) (s.fld (ADC_QSTAT c.val) ADC_QSTAT_MISSED + 1) ∧
        (t.adc c.val).seq = none ∧ (∀ k, k ≠ c.val → t.cl k = s.cl k) ∧
        t = { s with gt := max s.gt g, regs := t.regs, clusters := t.clusters, regions := t.regions } ∧ s.regsKept t [ADC_QSTAT c.val]))

/-- R288, R289, R294: a prepared sequence begins at its grain with the channel, averaging and power setting in force: BUSY and POWERED read 1.
R295-R299: after its last conversion its averaged code enters the queue of 256, or DROP counts it, and the converter is idle. R297: a read
takes the oldest entry; an empty queue reads 0. -/
def Obligations.ConversionsRunAndAreRead : Prop :=
  ∀ (port : PortNo) (conv : ConvNo) (c : ClNo) (g : Nat) (codes : List (BitVec 12)) (q : ConvSeq) (s : State), (s.adc c.val).starts = [] →
    ((s.adc c.val).seq = some q → q.begin_ = g → q.begun = false → q.start.flow = false → q.start.selfTest = false →
      ∃ t r, exec (.adcSequenceBegin c g) s = .next t ∧ (t.adc c.val).seq = some r ∧ r.begun = true ∧ r.begin_ = g ∧
        r.chan = s.ffld (ADC_CTRL c.val) ADC_CTRL_CHAN ∧ r.avg = min 8 (s.ffld (ADC_CTRL c.val) ADC_CTRL_AVG_SHIFT) ∧
        r.lowPower = s.fbitF (ADC_CTRL c.val) ADC_CTRL_LOWPWR ∧ t.bit (ADC_STAT c.val) ADC_STAT_BUSY = true ∧
        t.bit (ADC_STAT c.val) ADC_STAT_POWERED = true ∧ (∀ k, k ≠ c.val → t.cl k = s.cl k) ∧
        t = { s with gt := max s.gt g, clusters := t.clusters, regs := t.regs } ∧ s.regsKept t [ADC_STAT c.val]) ∧
    ((s.adc c.val).seq = some q → q.begun = true → q.start.flow = false → q.start.selfTest = false → (s.cl c.val).svc = none →
      (∀ n, n < 8 → (s.flow n).waiting = .none) → g = q.begin_ + 2 ^ q.avg * (if q.lowPower then 256000 else 64000) → codes.length = 2 ^ q.avg → (s.adc c.val).waiting = none →
      s.fbitF (ADC_CTRL c.val) ADC_CTRL_DMA_EN = false →
      ((s.adc c.val).queue.length < 256 → q.chan < 16 → (∀ y ∈ s.dcItems c.val (some q.chan) q.range, y = 0) → ∃ t w, exec (.adcSequenceEnd c g codes) s = .next t ∧
        (t.adc c.val).queue = (s.adc c.val).queue ++ [w] ∧
        w.toNat % 2 ^ 12 = (if q.avg = 0 then (codes.map (·.toNat)).sum
          else ((codes.map (·.toNat)).sum + 2 ^ (q.avg - 1)) / 2 ^ q.avg) % 2 ^ 12 ∧ getF w ⟨23, 16⟩ = q.chan ∧
        getB w 31 = true ∧ getB w 30 = (s.adc c.val).overrun ∧ getB w 27 = q.lowPower ∧ (t.adc c.val).seq = none ∧
        t.bit (ADC_STAT c.val) ADC_STAT_BUSY = false ∧ (∀ k, k ≠ c.val → t.cl k = s.cl k) ∧
        t = { s with gt := max s.gt g, clusters := t.clusters, regs := t.regs, free := t.free } ∧ s.regsKept t [ADC_STAT c.val]) ∧
      (256 ≤ (s.adc c.val).queue.length → ∃ t, exec (.adcSequenceEnd c g codes) s = .next t ∧ (t.adc c.val).queue = (s.adc c.val).queue ∧
        (t.adc c.val).overrun = true ∧
        t.fld (ADC_QSTAT c.val) ADC_QSTAT_DROP = min (2 ^ ADC_QSTAT_DROP.width - 1) (s.fld (ADC_QSTAT c.val) ADC_QSTAT_DROP + 1) ∧
        (t.adc c.val).seq = none ∧ t.bit (ADC_STAT c.val) ADC_STAT_BUSY = false)) ∧
    (∀ d, conv = .sar d → s.fencedAt (ADC_RESULT d.val) = false →
      (∀ w l, (s.adc d.val).queue = w :: l → ∃ t, exec (.adcResultRead port conv) s = .next t ∧ (t.adc d.val).queue = l ∧
        (∀ k, k ≠ d.val → t.cl k = s.cl k) ∧
        t = { s with clusters := t.clusters, outs := s.outs ++ [.completion port.val 0 (leBytes 4 w.toNat)] }) ∧
      ((s.adc d.val).queue = [] → exec (.adcResultRead port conv) s = .next (s.send (.completion port.val 0 (leBytes 4 0))))) ∧
    (∀ r, conv = .pc r → s.fencedAt (PC_RESULT r.val) = false →
      ∀ w l, (s.rg r.val).prec.queue = w :: l → ∃ t, exec (.adcResultRead port conv) s = .next t ∧ (t.rg r.val).prec.queue = l ∧
        (∀ k, k ≠ r.val → t.rg k = s.rg k) ∧
        t = { s with regions := t.regions, outs := s.outs ++ [.completion port.val 0 (leBytes 4 w.toNat)] })

/-- R303: a write of PC_CTRL with EN in the old or the new value empties the filter of its converter, which restarts 128,000 gr after the
boundary. R301, R302: each conversion enters the integrators of the filter and the next follows one interval later; every M of them from
the ORDER-th block on give an entry, written once the last of them has ended, and between them none. -/
def Obligations.PrecisionConvertersFilter : Prop :=
  ∀ (port : PortNo) (r : RgNo) (value : Word) (b g : Nat) (code : BitVec 12) (s : State),
    (s.reaches (PC_CTRL r.val) → (getB value 31 = true ∨ getB (s.inForce (PC_CTRL r.val)) 31 = true) →
      (s.cl (8 * r.val)).gauge.interruption = none → (s.rg r.val).prec.due = none → ∃ t, exec (.pcCtrlWrite port r value 15 b) s = .next t ∧
      t.fld (PC_CTRL r.val) PC_CTRL_CHAN = getF value PC_CTRL_CHAN ∧ t.fld (PC_CTRL r.val) PC_CTRL_DECIM = getF value PC_CTRL_DECIM ∧
      t.inForce (PC_CTRL r.val) = t.reg (PC_CTRL r.val) ∧
      (t.rg r.val).prec.running = getB value 31 ∧ (t.rg r.val).prec.nextAt = b + 128000 ∧ (t.rg r.val).prec.count = 0 ∧
      (t.rg r.val).prec.integ = [0, 0, 0, 0] ∧ (t.rg r.val).prec.comb = [0, 0, 0, 0] ∧
      (t.rg r.val).prec.queue = (s.rg r.val).prec.queue ∧ (∀ k, k ≠ r.val → t.rg k = s.rg k) ∧
      t = { s with gt := max s.gt b, regs := t.regs, regions := t.regions, force := t.force } ∧
      s.regsKept t [PC_CTRL r.val, PC_INTERVAL r.val]) ∧
    (∀ x w m n next, x = (s.rg r.val).prec → w = s.inForce (PC_CTRL r.val) → x.running = true → g = x.nextAt →
      m = max 16 (min 4096 (getF w PC_CTRL_DECIM)) → n = getF w PC_CTRL_ORDER + 1 → getF w PC_CTRL_CHAN ≠ 0x87 →
      next = g + (precInterval w (s.bit (PC_LOWPWR r.val) PC_LOWPWR_LOWPWR)).1 →
      (x.integ.length = 4 → ∃ t, exec (.pcConversion r g code) s = .next t ∧ (t.rg r.val).prec.count = x.count + 1 ∧
        (t.rg r.val).prec.integ.headD 0 = x.integ.headD 0 + code.toNat ∧ (t.rg r.val).prec.nextAt = next ∧
        (∀ k, k ≠ r.val → t.rg k = s.rg k) ∧ s.pinsKept t ∧ t.clusters = s.clusters) ∧
      (x.due = none → ((x.count + 1) % m ≠ 0 ∨ x.count + 1 < n * m) → ∃ t, exec (.pcConversion r g code) s = .next t ∧
        (t.rg r.val).prec.queue = x.queue ∧ (t.rg r.val).prec.due = none ∧
        t = { s with gt := max s.gt g, regions := t.regions, regs := t.regs } ∧ s.regsKept t [PC_INTERVAL r.val]) ∧
      ((x.count + 1) % m = 0 → n * m ≤ x.count + 1 → ∃ t e, exec (.pcConversion r g code) s = .next t ∧
        (t.rg r.val).prec.due = some (next, e) ∧ e.tag = getF w PC_CTRL_CHAN ∧ e.lowPower = s.bit (PC_LOWPWR r.val) PC_LOWPWR_LOWPWR ∧
        (0x88 ≤ getF w PC_CTRL_CHAN → e.bad = true)) ∧
      (∀ d e, x.due = some (d, e) → d ≤ g → x.queue.length < 256 → e.tag < 256 → e.result < 2 ^ 16 →
        ∃ t v, exec (.pcConversion r g code) s = .next t ∧ (t.rg r.val).prec.queue = x.queue ++ [v] ∧ getB v 31 = true ∧
          getB v 30 = x.overrun ∧ getF v ⟨23, 16⟩ = e.tag ∧ getB v 27 = e.lowPower ∧
          (e.bad = true → getB v 25 = true ∧ getF v ⟨15, 0⟩ = 0)))

/-- R312: a request of a kind sets its bit. R307, R308, R310: at a boundary where every condition holds for the kind, a DC calibration going
first, the interruption begins: its request clears, BUSY and KIND show it and every pin of the cluster is held; pass 2 begins half-way. -/
def Obligations.CalibrationsAreRequestedAndBegin : Prop :=
  ∀ (port : PortNo) (c : ClNo) (kind : CalKind) (g : Nat) (s : State),
    (s.reaches (CAL_CTRL c.val) → ∀ y ∈ [(Instr.calRequestTiming port c g, CAL_CTRL_REQ_T), (Instr.calRequestDc port c g, CAL_CTRL_REQ_DC)],
      ∃ t, exec y.1 s = .next t ∧ t.bit (CAL_CTRL c.val) y.2 = true ∧ t = { s.atCluster c.val g with regs := t.regs } ∧
        s.regsKept t [CAL_CTRL c.val] ∧ t.fld (CAL_CTRL c.val) CAL_CTRL_APPLY = s.fld (CAL_CTRL c.val) CAL_CTRL_APPLY) ∧
    ((s.adc c.val).starts = [] → g % 64 = 0 → s.calCan c.val kind = true → (kind = .dc ∨ s.calCan c.val .dc = false) →
      ∃ t, exec (.calStart c kind g) s = .next t ∧ (t.cl c.val).gauge.interruption = some (kind, g, false) ∧
        t.bit (CAL_CTRL c.val) (reqFld kind) = false ∧ t.bit (CAL_STAT c.val) CAL_STAT_BUSY = true ∧
        t.fld (CAL_STAT c.val) CAL_STAT_KIND = (match kind with | .dc => 0 | .timing => 1) ∧
        t.fld (CAL_TREF c.val) (tRefFld kind) = s.fld (CAL_TNOW c.val) CAL_TNOW_T_NOW ∧
        (∀ u, u < 16 → { t.pin (16 * c.val + u) with player := none } = { s.pin (16 * c.val + u) with
          held := true, heldFrom := (t.pin (16 * c.val + u)).heldFrom, player := none }) ∧
        (∀ q, pinCl q ≠ c.val → { t.pin q with player := none } = { s.pin q with player := none }) ∧ (∀ k, k ≠ c.val → t.cl k = s.cl k) ∧
        (kind = .timing → t.hub = s.hub) ∧ (kind = .dc → t.hub.vsel = s.fld CAL_REF_CTRL CAL_REF_CTRL_VSEL) ∧
        ((s.rg (c.val / 8)).prec.due = none →
          t = { s with gt := max s.gt g, regs := t.regs, clusters := t.clusters, pins := t.pins, regions := t.regions, hub := t.hub,
                       outs := t.outs } ∧
          s.regsKept t [CAL_CTRL c.val, CAL_STAT c.val, CAL_INT_GT_LO c.val, CAL_INT_GT_HI c.val, CAL_TREF c.val, ADC_QSTAT c.val])) ∧
    ((s.adc c.val).starts = [] → (g % 64 ≠ 0 ∨ s.calCan c.val kind = false ∨ (kind = .timing ∧ s.calCan c.val .dc = true)) →
      exec (.calStart c kind g) s = .next s) ∧
    (∀ b, (s.cl c.val).gauge.interruption = some (kind, b, false) →
      g = b + (match kind with | .dc => 67108864 | .timing => 2097152) →
      ∃ t, exec (.calPass2 c g) s = .next t ∧ (t.cl c.val).gauge = { (s.cl c.val).gauge with interruption := some (kind, b, true) } ∧
        (∀ k, k ≠ c.val → t.cl k = s.cl k) ∧ t = { s with gt := max s.gt g, clusters := t.clusters })

/-- R306, R307, R314-R318, R327: at the exact end of an interruption its result is judged. With FAIL set it is discarded; where the passes of
a pin that takes part differ by more than the tolerance it is rejected with DISAGREE; otherwise it is accepted and pends. REJECT or ACCEPT
counts it, and BUSY reads 0. R319-R322: at its boundary, the end of the interruption or of the flow step that holds the cluster, a pending
result comes into force: the shims' TARGETs or the DC corrections take its values, PEND clears, and UNVER clears when the result and its
reference are in order. -/
def Obligations.CalibrationsEndAndAreApplied : Prop :=
  (∀ (c : ClNo) (kind : CalKind) (g b : Nat) (res : CalResults) (s : State), (s.adc c.val).starts = [] →
    (s.cl c.val).gauge.interruption = some (kind, b, true) → g = b + (match kind with | .dc => 134217728 | .timing => 4194304) →
    ∀ units, units = (List.range 16).filter (fun u => !(nbit (s.cl c.val).gauge.excluded u || s.trippedIn (16 * c.val + u) b (g - 1))) →
    ∃ t, exec (.calEnd c g res) s = .next t ∧ (t.cl c.val).gauge.interruption = none ∧ t.bit (CAL_STAT c.val) CAL_STAT_BUSY = false ∧
      (∀ k, k ≠ c.val → t.cl k = s.cl k) ∧ s.pinsKept t ∧ t.engines = s.engines ∧
      (∀ r ∈ t.runs, ∃ q ∈ s.runs, r = { q with reports := r.reports, lastReport := r.lastReport }) ∧ t.flags = s.flags ∧ t.stores = s.stores ∧
      (s.bit CAL_REF_STAT (failFld kind) = true → t.fld (CAL_COUNT c.val) CAL_COUNT_REJECT =
          min (2 ^ CAL_COUNT_REJECT.width - 1) (s.fld (CAL_COUNT c.val) CAL_COUNT_REJECT + 1) ∧
        t.fld (CAL_COUNT c.val) CAL_COUNT_ACCEPT = s.fld (CAL_COUNT c.val) CAL_COUNT_ACCEPT ∧
        (t.cl c.val).gauge.pendDc = (s.cl c.val).gauge.pendDc ∧ (t.cl c.val).gauge.pendT = (s.cl c.val).gauge.pendT) ∧
      (∀ u, s.bit CAL_REF_STAT (failFld kind) = false → disagreeing res kind (s.calTol kind) units = some u →
        t.bit (CAL_STAT c.val) CAL_STAT_DISAGREE = true ∧ t.fld (CAL_STAT c.val) CAL_STAT_DIS_UNIT = u ∧
        t.fld (CAL_COUNT c.val) CAL_COUNT_REJECT =
          min (2 ^ CAL_COUNT_REJECT.width - 1) (s.fld (CAL_COUNT c.val) CAL_COUNT_REJECT + 1) ∧
        (t.cl c.val).gauge.pendDc = (s.cl c.val).gauge.pendDc ∧ (t.cl c.val).gauge.pendT = (s.cl c.val).gauge.pendT) ∧
      (s.bit CAL_REF_STAT (failFld kind) = false → disagreeing res kind (s.calTol kind) units = none →
        t.bit (CAL_STAT c.val) (pendFld kind) = true ∧
        t.fld (CAL_COUNT c.val) CAL_COUNT_ACCEPT =
          min (2 ^ CAL_COUNT_ACCEPT.width - 1) (s.fld (CAL_COUNT c.val) CAL_COUNT_ACCEPT + 1) ∧
        t.fld (CAL_COUNT c.val) CAL_COUNT_REJECT = s.fld (CAL_COUNT c.val) CAL_COUNT_REJECT ∧
        (∀ u ∈ units, t.fld (CAL_QUAL c.val u) (match kind with | .dc => CAL_QUAL_RESID_DC | .timing => CAL_QUAL_RESID_T) =
          residualOf res kind u) ∧
        (t.cl c.val).gauge.applyAt = (if s.stepHeld c.val = true then none else some g) ∧
        ∃ p, (match kind with | .dc => (t.cl c.val).gauge.pendDc | .timing => (t.cl c.val).gauge.pendT) = some p ∧
          p.values = acceptedValues res kind units ∧ p.verified = !s.bit CAL_REF_STAT (suspectFld kind))) ∧
  (∀ (c : ClNo) (b : Nat) (p : PendingCorr) (s : State), b % 64 = 0 →
    s.bit CAL_REF_STAT CAL_REF_STAT_STOP_T = false → s.bit CAL_REF_STAT CAL_REF_STAT_STOP_V = false →
    (s.calDueAt c.val b = true → (s.cl c.val).gauge.pendDc = none → (s.cl c.val).gauge.pendT = none →
      exec (.calApply c b) s = .next ((s.at b).updGauge c.val (fun x => { x with applyAt := none, stepEnd := none }))) ∧
    (s.calDueAt c.val b = true → (s.cl c.val).gauge.pendDc = some p → (s.cl c.val).gauge.pendT = none → p.verified = true →
      s.bit CAL_REF_STAT CAL_REF_STAT_SUSPECT_V = false →
      ∃ t, exec (.calApply c b) s = .next t ∧ (t.cl c.val).gauge.applyAt = none ∧ (t.cl c.val).gauge.pendDc = none ∧
        (t.cl c.val).gauge.dcForce = p.values.foldl (fun u y => tput (fun _ => (0 : Int)) u y.1 y.2) (s.cl c.val).gauge.dcForce ∧
        (t.cl c.val).gauge.verDc = some (t.cl c.val).gauge.dcForce ∧
        t.bit (CAL_STAT c.val) CAL_STAT_PEND_DC = false ∧ t.bit (CAL_STAT c.val) CAL_STAT_UNVER_DC = false ∧
        (∀ k, k ≠ c.val → t.cl k = s.cl k) ∧ t = { s with gt := max s.gt b, clusters := t.clusters, regs := t.regs } ∧
        s.regsKept t [CAL_STAT c.val]) ∧
    (s.calDueAt c.val b = true → (s.cl c.val).gauge.pendDc = none → (s.cl c.val).gauge.pendT = some p → p.verified = true →
      s.bit CAL_REF_STAT CAL_REF_STAT_SUSPECT_T = false → ∀ i v, i < 128 → i % 8 ≠ 7 → -256 ≤ v → v ≤ 255 → p.values = [(i, v)] →
      ∃ t, exec (.calApply c b) s = .next t ∧ (t.cl c.val).gauge.applyAt = none ∧ (t.cl c.val).gauge.pendT = none ∧ t.shimTarget c.val i = v ∧
        t.fld (TMG_SHIM c.val i) TMG_SHIM_ACTIVE = s.fld (TMG_SHIM c.val i) TMG_SHIM_ACTIVE ∧
        t.bit (CAL_STAT c.val) CAL_STAT_PEND_T = false ∧ t.bit (CAL_STAT c.val) CAL_STAT_UNVER_T = false ∧
        (∀ k, k ≠ c.val → t.cl k = s.cl k) ∧ t = { s with gt := max s.gt b, clusters := t.clusters, regs := t.regs } ∧
        s.regsKept t [CAL_STAT c.val, TMG_SHIM c.val i]) ∧
    (s.calDueAt c.val b = false → ∃ t, exec (.calApply c b) s = .next t ∧ (t = s ∨ t = s.at b)))

/-- R337: a walker that runs reads one line and moves on, wrapping at the end of its range; one that does not run stands still. R334: a
corrected error counts once. R338: an uncorrectable one in a line of HBM that no pattern entry names poisons it. R340: a poisoned store
word that the jig loaded is read again from the bank its store was loaded from while its engine holds no run; a flash error leaves it held. -/
def Obligations.WalkersScrubAndStoresReload : Prop :=
  ∀ (w : Walker) (finds : Finds) (err : Bool) (e : EngNo) (k : Nat) (r : RgNo) (s : State),
    (s.walkRuns w = false → exec (.scrubRead w finds) s = .next s) ∧
    (s.walkRuns w = true → (∃ t, exec (.scrubRead w []) s = .next t ∧ t.walkPos w = (s.walkPos w + 1) % walkLen w ∧
      t = { s with regions := t.regions, hub := t.hub })) ∧
    (s.walkRuns (.hbm r) = true → (s.rg r.val).hbmWalk < 402653184 → ∃ t,
      exec (.scrubRead (.hbm r) [(r.val * 0x600000000 + 64 * (s.rg r.val).hbmWalk, .corrected)]) s = .next t ∧
      t.fld (MEM_CE_COUNT r.val) MEM_CE_COUNT_COUNT =
        min (2 ^ MEM_CE_COUNT_COUNT.width - 1) (s.fld (MEM_CE_COUNT r.val) MEM_CE_COUNT_COUNT + 1) ∧
      (t.rg r.val).hbmWalk = ((s.rg r.val).hbmWalk + 1) % 402653184 ∧ (∀ q, q ≠ r.val → t.rg q = s.rg q) ∧
      t = { s with regs := t.regs, regions := t.regions } ∧ s.regsKept t [MEM_CE_COUNT r.val]) ∧
    (s.walkRuns (.hbm r) = true → (s.rg r.val).hbmWalk < 402653184 → ∀ a, a = r.val * 0x600000000 + 64 * (s.rg r.val).hbmWalk →
      s.patsAt a = [] → s.mirrorsAt a = [] → s.poisoned a = false →
      ∃ t, exec (.scrubRead (.hbm r) [(a, .uncorrectable)]) s = .next t ∧ t.poisoned a = true ∧
        t.reg (MEM_ERR_HEAD r.val) = s.reg (MEM_ERR_HEAD r.val) + 1 ∧ t.runs = s.runs ∧ s.pinsKept t ∧ t.stores = s.stores) ∧
    (k < 16384 → s.storeBad (wsAddr e.val k) = true → s.storeHeld (wsAddr e.val k) = false → (s.eng e.val).run = none →
      (s.eng e.val).heldStart = none →
      (∃ t, exec (.storeReload (wsAddr e.val k) false) s = .next t ∧ t.storeBad (wsAddr e.val k) = false ∧
        t.storeWord (wsAddr e.val k) = s.jigWord (s.cl (engCl e.val)).storeBank (wsAddr e.val k) ∧
        (∀ a, a ≠ wsAddr e.val k → t.storeWord a = s.storeWord a ∧ t.storeBad a = s.storeBad a) ∧
        t = { s with stores := t.stores, storePoison := t.storePoison }) ∧
      (∃ t, exec (.storeReload (wsAddr e.val k) true) s = .next t ∧ t.storeHeld (wsAddr e.val k) = true ∧
        t = { s with storeWritten := t.storeWritten, regs := t.regs } ∧
        s.regsKept t ((List.range 32).map (MEM_ERR_LOG_W1 (memUnit (wsAddr e.val k)))))) ∧
    (s.storeBad (wsAddr e.val k) = false → exec (.storeReload (wsAddr e.val k) err) s = .next s)

/-- R345, R346: an enabled tester takes its next block, or skips a scratchpad block of a cluster with RUN, SOURCE or CAPTURE. R347: the test
of a block ends with BLOCKS counted; a faulty row is mapped to a spare row of its bank that was not in use, and waits to be appended, or
with none left NOSPARE sets. R349: a repair is accepted with SERVICE in a cluster of the region, none of RUN, SOURCE and CAPTURE in any,
its row in the region's HBM and no repair in progress; else it is refused. It ends with DONE, or NORES where no spare resource is left,
and memory is unchanged. Table 12-4: a write of a pattern entry stores its word and clears DAMAGED and MIRROR_BAD. -/
def Obligations.MemoriesAreTestedAndRepaired : Prop :=
  (∀ (x : Tester) (i bank : Nat) (s : State),
    (s.bit (btCtrl x) MEM_BT_CTRL_EN = true → (s.tester x).block = none → 4 ≤ s.boot.phase →
      (s.blockSkipped (blockAt x (s.tester x).next) = false → ∃ t, exec (.blockTest x) s = .next t ∧
        (t.tester x).block = some (s.tester x).next ∧ (t.tester x).next = ((s.tester x).next + 1) % blockCount x ∧
        t.bit (btStat x) MEM_BT_STAT_BUSY = true ∧ t = { s with regs := t.regs, regions := t.regions, hub := t.hub } ∧
        s.regsKept t [btStat x]) ∧
      (s.blockSkipped (blockAt x (s.tester x).next) = true → ∃ t, exec (.blockTest x) s = .next t ∧ (t.tester x).block = none ∧
        (t.tester x).next = ((s.tester x).next + 1) % blockCount x ∧ t = { s with regions := t.regions, hub := t.hub })) ∧
    ((s.bit (btCtrl x) MEM_BT_CTRL_EN = false ∨ (s.tester x).block ≠ none ∨ s.boot.phase < 4) → exec (.blockTest x) s = .next s) ∧
    ((s.tester x).block = some i →
      (∃ t, exec (.blockTestDone x []) s = .next t ∧ (t.tester x).block = none ∧ t.bit (btStat x) MEM_BT_STAT_BUSY = false ∧
        t.fld (btStat x) MEM_BT_STAT_BLOCKS = min (2 ^ MEM_BT_STAT_BLOCKS.width - 1) (s.fld (btStat x) MEM_BT_STAT_BLOCKS + 1) ∧
        t = { s with regs := t.regs, regions := t.regions, hub := t.hub } ∧ s.regsKept t [btStat x]) ∧
      ((blockAt x i).hasBank bank = true → s.sparesLeft (blockAt x i).array (blockAt x i).inst bank ≠ [] →
        ∃ t k, exec (.blockTestDone x [bank]) s = .next t ∧ k ∈ s.sparesLeft (blockAt x i).array (blockAt x i).inst bank ∧
          t.boot.repairs = s.boot.repairs ++ [((blockAt x i).array, (blockAt x i).inst, bank, (blockAt x i).row, k)] ∧
          t.boot.appends = s.boot.appends ++ [((blockAt x i).array, (blockAt x i).inst, bank, (blockAt x i).row, k)] ∧
          (t.tester x).block = none ∧ t.mem = s.mem) ∧
      ((blockAt x i).hasBank bank = true → s.sparesLeft (blockAt x i).array (blockAt x i).inst bank = [] →
        ∃ t, exec (.blockTestDone x [bank]) s = .next t ∧ t.bit (btStat x) MEM_BT_STAT_NOSPARE = true ∧ t.boot = s.boot ∧
          (t.tester x).block = none ∧ t.mem = s.mem))) ∧
  (∀ (port : PortNo) (r : RgNo) (n : Fin 16) (w : Fin 5) (value : Word) (left : Bool) (s : State),
    (s.reaches (MEM_PPR_CMD r.val) → getF value MEM_PPR_CMD_GO = 1 →
      (s.pprAccepted r.val value = true → ∃ t, exec (.pprGo port r value) s = .next t ∧ t.bit (MEM_PPR_STAT r.val) MEM_PPR_STAT_BUSY = true ∧
        (t.rg r.val).ppr = some (getF value MEM_PPR_CMD_ADDR * 256, getF value MEM_PPR_CMD_HARD == 1) ∧
        (∀ k, k ≠ r.val → t.rg k = s.rg k) ∧ t = { s with regs := t.regs, regions := t.regions } ∧ s.regsKept t [MEM_PPR_STAT r.val]) ∧
      (s.pprAccepted r.val value = false → exec (.pprGo port r value) s =
        .next ((s.setBit (MEM_PPR_STAT r.val) MEM_PPR_STAT_REFUSED true).violation 0x02 port.val 0 0 (MEM_PPR_CMD r.val)))) ∧
    ((s.rg r.val).ppr ≠ none → ∃ t, exec (.pprDone r left) s = .next t ∧ (t.rg r.val).ppr = none ∧
      t.bit (MEM_PPR_STAT r.val) MEM_PPR_STAT_BUSY = false ∧
      t.bit (MEM_PPR_STAT r.val) (if left then MEM_PPR_STAT_DONE else MEM_PPR_STAT_NORES) = true ∧
      (∀ k, k ≠ r.val → t.rg k = s.rg k) ∧ t = { s with regs := t.regs, regions := t.regions } ∧ s.regsKept t [MEM_PPR_STAT r.val]) ∧
    (s.reaches (patReg r.val n.val w.val) → ∃ t, exec (.memPatWrite port r n w value 15) s = .next t ∧
      (w.val = 0 → t.fld (MEM_PAT_W0 r.val n.val) MEM_PAT_W0_BASE_LO = getF value MEM_PAT_W0_BASE_LO) ∧
      (w.val = 1 → t.fld (MEM_PAT_W1 r.val n.val) MEM_PAT_W1_BASE_HI = getF value MEM_PAT_W1_BASE_HI ∧
        t.fld (MEM_PAT_W1 r.val n.val) MEM_PAT_W1_VALID = getF value MEM_PAT_W1_VALID) ∧
      (w.val = 2 → t.fld (MEM_PAT_W2 r.val n.val) MEM_PAT_W2_LENGTH = getF value MEM_PAT_W2_LENGTH) ∧
      (w.val = 3 → t.fld (MEM_PAT_W3 r.val n.val) MEM_PAT_W3_MIRROR_LO = getF value MEM_PAT_W3_MIRROR_LO) ∧
      (w.val = 4 → t.fld (MEM_PAT_W4 r.val n.val) MEM_PAT_W4_MIRROR_HI = getF value MEM_PAT_W4_MIRROR_HI) ∧
      t.bit (MEM_PAT_W1 r.val n.val) MEM_PAT_W1_DAMAGED = false ∧ t.bit (MEM_PAT_W1 r.val n.val) MEM_PAT_W1_MIRROR_BAD = false ∧
      t = { s with regs := t.regs } ∧ s.regsKept t [patReg r.val n.val w.val, MEM_PAT_W1 r.val n.val]))

/-- R359, R363, R368, R454: a write of TAIL, or of a port's doorbell for a ring, hands descriptors over, and raises a COPY ring's request.
R366: EN 1 written to a stopped ring clears STOPPED and the descriptor is fetched again. R378: a read of DMA_ALLOC allocates the lowest
free ring of its region, or answers NO_RING; an idle ring of the region with nothing left is freed, and any other is not. R379: a read of
DMA_POOL_TAKE takes some free buffer (which one is free), or answers NO_BUFFER and counts it. R380: a buffer that is put back is free
again, and the rings that wait for one are retried; an index of COUNT or more is ignored and logged. -/
def Obligations.RingsAndPoolsGiveAndTake : Prop :=
  (∀ (port : PortNo) (ring : RingNo) (r : RgNo) (tail : BitVec 16) (value : Word) (s : State),
    (∀ y ∈ [(Instr.ringTailWrite port ring tail, s.reaches (ringPtr ring.val)),
        (Instr.doorbell port value, s.reaches (PRT_DB port.val) ∧ s.reaches (ringPtr ring.val) ∧ getF value PRT_DB_RING = ring.val ∧
          getF value PRT_DB_TAIL = tail.toNat)], y.2 →
      ∃ t, exec y.1 s = .next t ∧ t.ringTail ring.val = tail.toNat ∧ t.ringHead ring.val = s.ringHead ring.val ∧
        (t.ring ring.val).waitTail = false ∧ (t.ring ring.val).short = false ∧ (t.ring ring.val).desc = (s.ring ring.val).desc ∧
        t.requested ring.val = (s.isCopy ring.val || s.requested ring.val) ∧ (∀ k, k ≠ ring.val → t.ring k = s.ring k) ∧
        t = { s with regs := t.regs, rings := t.rings } ∧ s.regsKept t [ringPtr ring.val, ringStat ring.val]) ∧
    (s.reaches (ringCfg ring.val) →
      (s.bit (ringStat ring.val) RING_STAT_STOPPED = true →
        ∃ t, exec (.ringRestart port ring) s = .next t ∧ t.bit (ringStat ring.val) RING_STAT_STOPPED = false ∧
          t.bit (ringCfg ring.val) RING_CFG_EN = true ∧ (t.ring ring.val).desc = none ∧ (t.ring ring.val).waitTail = false ∧
          (t.ring ring.val).failed = (s.ring ring.val).failed ∧ (t.ring ring.val).off = (s.ring ring.val).off ∧ (∀ k, k ≠ ring.val → t.ring k = s.ring k) ∧
          t = { s with regs := t.regs, rings := t.rings } ∧ s.regsKept t [ringCfg ring.val, ringStat ring.val]) ∧
      (s.bit (ringStat ring.val) RING_STAT_STOPPED = false → ∃ t, exec (.ringRestart port ring) s = .next t ∧
        t.bit (ringCfg ring.val) RING_CFG_EN = true ∧ t = { s with regs := t.regs } ∧ s.regsKept t [ringCfg ring.val])) ∧
    (s.fencedAt (DMA_ALLOC r.val) = false →
      (∀ k, k < 8192 → s.bit (RING_CFG r.val k) RING_CFG_ALLOC = false → (∀ j, j < k → s.bit (RING_CFG r.val j) RING_CFG_ALLOC = true) →
        ∃ t, exec (.ringAlloc port r) s = .next t ∧ t.bit (RING_CFG r.val k) RING_CFG_ALLOC = true ∧
          t = { s with regs := t.regs, outs := s.outs ++ [.completion port.val 0 (leBytes 4 (codeOk * 2 ^ 24 + 8192 * r.val + k))] } ∧
          s.regsKept t [RING_CFG r.val k]) ∧
      ((∀ j, j < 8192 → s.bit (RING_CFG r.val j) RING_CFG_ALLOC = true) →
        exec (.ringAlloc port r) s = .next (s.send (.completion port.val 0 (leBytes 4 (codeNoRing * 2 ^ 24)))))) ∧
    (s.reaches (DMA_FREE r.val) → ∀ n, n = getF value DMA_FREE_RING →
      (n / 8192 = r.val → s.ringIdle n = true → s.ringHead n = s.ringTail n → ∃ t, exec (.ringFree port r value) s = .next t ∧
        t.bit (ringCfg n) RING_CFG_ALLOC = false ∧ t.bit (ringCfg n) RING_CFG_EN = false ∧ t = { s with regs := t.regs } ∧
        s.regsKept t [ringCfg n]) ∧
      ((n / 8192 ≠ r.val ∨ s.ringIdle n = false ∨ s.ringHead n ≠ s.ringTail n) →
        exec (.ringFree port r value) s = .next (s.violation 0x01 port.val 0 n (DMA_FREE r.val))))) ∧
  (∀ (port : PortNo) (r : RgNo) (value : Word) (s : State),
    (s.fencedAt (DMA_POOL_TAKE r.val) = false →
      ((s.rg r.val).poolFree ≠ [] → ∃ t k, exec (.poolTake port r) s = .next t ∧ k ∈ (s.rg r.val).poolFree ∧
        (t.rg r.val).poolFree = (s.rg r.val).poolFree.erase k ∧ (∀ q, q ≠ r.val → t.rg q = s.rg q) ∧
        t = { s with
          regions := t.regions, free := t.free
          outs := s.outs ++ [.completion port.val 0 (leBytes 4 (BitVec.ofNat 32 (codeOk * 2 ^ 24 + k)).toNat)] }) ∧
      ((s.rg r.val).poolFree = [] → ∃ t, exec (.poolTake port r) s = .next t ∧
        t.fld (DMA_POOL_STAT r.val) DMA_POOL_STAT_NOBUF =
          min (2 ^ DMA_POOL_STAT_NOBUF.width - 1) (s.fld (DMA_POOL_STAT r.val) DMA_POOL_STAT_NOBUF + 1) ∧
        t = { s with regs := t.regs, outs := s.outs ++ [.completion port.val 0 (leBytes 4 (codeNoBuffer * 2 ^ 24))] } ∧
        s.regsKept t [DMA_POOL_STAT r.val])) ∧
    (s.reaches (DMA_POOL_PUT r.val) → ∀ k, k = getF value DMA_POOL_PUT_INDEX →
      (k < s.poolCount r.val → k ∉ (s.rg r.val).poolFree → ∃ t, exec (.poolPut port r value) s = .next t ∧
        (t.rg r.val).poolFree = k :: (s.rg r.val).poolFree ∧ (t.rg r.val).poolWait = [] ∧
        (∀ n ∈ (s.rg r.val).poolWait, t.bit (ringStat n) RING_STAT_NOBUF = false) ∧ (∀ q, q ≠ r.val → t.rg q = s.rg q) ∧
        t = { s with regs := t.regs, regions := t.regions, chans := t.chans } ∧ s.regsKept t ((s.rg r.val).poolWait.map ringStat)) ∧
      (s.poolCount r.val ≤ k → exec (.poolPut port r value) s = .next (s.violation 0x01 port.val 0 k (DMA_POOL_PUT r.val)))))

/-- R362-R364: an engine that serves a ring with descriptors handed over takes the one at HEAD, here from plain memory of this package, when
it is owned and keeps the rules of Table 13-1; one that is not owned is waited for. R368-R370: the burst of a COPY ring's request begins
in an idle channel; without a descriptor the ring is STARVED. -/
def Obligations.DescriptorsAreFetchedAndBurstsBegin : Prop :=
  ∀ (ring : RingNo) (g a : Nat) (l : List Byte) (s : State), s.ringServed ring.val = true →
    (s.ringHead ring.val ≠ s.ringTail ring.val → (s.ring ring.val).desc = none → (s.ring ring.val).waitTail = false →
      (s.ring ring.val).failed = none → s.resolve (s.descAddr ring.val (s.ringHead ring.val)) = .here a → s.plain a 32 → s.repairDue a = false → s.anyPoison a 32 = false →
      isSecureSys (s.descAddr ring.val (s.ringHead ring.val)) = false → l = (List.range 32).map (fun i => s.byteAt (a + i)) →
      (descOwn l = true → descBad (s.isCopy ring.val) l = false → (descOf 0 l).pool = false →
        ∃ t, exec (.descriptorFetch ring [] (.data []) false) s = .next t ∧
          (t.ring ring.val).desc = some { descOf 0 l with addr := s.descAddr ring.val (s.ringHead ring.val) } ∧
          (∀ k, k ≠ ring.val → t.ring k = s.ring k) ∧ t = { s with rings := t.rings }) ∧
      (descOwn l = false → ∃ t, exec (.descriptorFetch ring [] (.data []) false) s = .next t ∧ (t.ring ring.val).waitTail = true ∧
        (t.ring ring.val).desc = none ∧ (∀ k, k ≠ ring.val → t.ring k = s.ring k) ∧ t = { s with rings := t.rings })) ∧
    (s.isCopy ring.val = true → s.requested ring.val = true → (s.ring ring.val).short = false → (s.chan (ringCh ring.val)).burst = none → (s.at g).ringTurn ring.val g = true →
      (∀ d, (s.ring ring.val).desc = some d → (s.ring ring.val).off < d.length → ∃ t b, exec (.burstStart ring g [] []) s = .next t ∧
        (t.chan (ringCh ring.val)).burst = some b ∧ b.ring = ring.val ∧ b.src = .copy ∧ b.left = min 4096 (d.length - (s.ring ring.val).off) ∧
        t.requested ring.val = false ∧ t.bit (chanStat (ringCh ring.val)) DMA_CH_STAT_BUSY = true ∧
        t.fld (chanStat (ringCh ring.val)) DMA_CH_STAT_RING = ring.val % 64 ∧ (∀ k, k ≠ ringCh ring.val → t.chan k = s.chan k) ∧
        t = { s with gt := max s.gt g, regs := t.regs, chans := t.chans } ∧
        s.regsKept t [ringStat ring.val, chanStat (ringCh ring.val)]) ∧
      ((s.ring ring.val).desc = none → (s.ringHead ring.val = s.ringTail ring.val ∨ (s.ring ring.val).waitTail = true) →
        ∃ t, exec (.burstStart ring g [] []) s = .next t ∧ t.bit (ringStat ring.val) RING_STAT_STARVED = true ∧
        t.requested ring.val = true ∧ t.ring ring.val = { s.ring ring.val with short := true } ∧ (∀ k, k ≠ ring.val → t.ring k = s.ring k) ∧
        t = { s with gt := max s.gt g, regs := t.regs, rings := t.rings } ∧ s.regsKept t [ringStat ring.val]) ∧
      ((s.ring ring.val).desc = none → s.ringHead ring.val ≠ s.ringTail ring.val → (s.ring ring.val).waitTail = false →
        exec (.burstStart ring g [] []) s = .next (s.at g)))

/-- R369, R371-R373, R377: the channel whose turn it is moves one beat: a COPY beat carries 64 bytes from its source to its destination, here
plain memory of this package, and nothing else of memory changes. R374: a burst whose beats have moved leaves its channel idle. -/
def Obligations.BeatsMoveBytesAndBurstsComplete : Prop :=
  ∀ (e : DmaNo) (ring : RingNo) (ch : Nat) (b : Burst) (d : Desc) (s : State),
    (s.beatChan e.val = some ch → (s.chan ch).burst = some b → b.src = .copy → (s.ring b.ring).desc = some d →
      ∀ o x y, o = copyOff d (s.ring b.ring).off → (s.ring b.ring).off + 64 < d.length → (s.ring b.ring).poisonAt = none →
      (d.a + o) / 2 ^ 42 = s.pkgId → (d.b + o) / 2 ^ 42 = s.pkgId → s.pkgId < 16 →
      x = (d.a + o) % 2 ^ 42 → y = (d.b + o) % 2 ^ 42 → s.plain x 64 → s.plain y 64 → s.repairDue x = false → s.anyPoison x 64 = false →
      ∃ t, exec (.dmaBeat e [] (.data []) {}) s = .next t ∧
        (∀ i, i < 64 → inDictionary (y + i) = false → t.byteAt (y + i) = s.byteAt (x + i)) ∧
        (∀ m, (m < y ∨ y + 64 ≤ m ∨ inDictionary m = true) → t.byteAt m = s.byteAt m) ∧ (t.ring b.ring).off = (s.ring b.ring).off + 64 ∧
        (t.ring b.ring).desc = some d ∧ (t.chan ch).burst = some { b with moving := true, serving := true, left := b.left - 64 } ∧
        (∀ k, k ≠ b.ring → t.ring k = s.ring k) ∧
        (∀ k, k ≠ ch → t.chan k = { s.chan k with burst := (t.chan k).burst } ∧
          ((t.chan k).burst = (s.chan k).burst ∨ ∃ y, (s.chan k).burst = some y ∧ (t.chan k).burst = some { y with serving := false })) ∧
        t = { s with regs := t.regs, dmaLast := t.dmaLast, chans := t.chans, rings := t.rings, mem := t.mem, poison := t.poison,
                     codings := t.codings, pins := t.pins } ∧
        s.pinsKept t ∧
        s.regsKept t ((List.range 1024).map chanStat)) ∧
    (s.ringBurst ring.val = some b → b.src = .copy → b.beats = [] → b.left = 0 → s.bit (ringStat ring.val) RING_STAT_STOPPED = false →
      (s.ring ring.val).failed = none → (∀ x, (s.ring ring.val).desc = some x → x.copy = true) → ∃ t, exec (.burstComplete ring [] false) s = .next t ∧
        (t.chan (ringCh ring.val)).burst = none ∧ t.bit (chanStat (ringCh ring.val)) DMA_CH_STAT_BUSY = false ∧
        t.requested ring.val = (s.requested ring.val || (s.isCopy ring.val && s.bit (chanCtrl (ringCh ring.val)) DMA_CH_CTRL_PACE &&
          s.ringHead ring.val != s.ringTail ring.val && !(s.ring ring.val).waitTail)) ∧
        (∀ k, k ≠ ringCh ring.val → t.chan k = s.chan k) ∧ t = { s with regs := t.regs, chans := t.chans } ∧
        s.regsKept t [ringStat ring.val, chanStat (ringCh ring.val)])

/-- R385-R387: the entry at the lowest pointer begins for its sites, which go on with the next entry unless it says otherwise. BRANCH sends
the sites for which its condition holds elsewhere; BIN sets the bins of its sites that are not binned, or all with OVERRIDE; LIMIT
compares VAL with its bounds and sets FAIL, and the bins of a failing site that has none; WAIT and CAL wait as they say. -/
def Obligations.FlowEntriesAct : Prop :=
  ∀ (n : FlowNo) (x : FlowEntry) (s : State), s.entryDue n.val x → x.headGood = true →
    (x.kind = 4 → x.num 10 1 < 6 → ∃ t, exec (.branch n []) s = .next t ∧ (t.flow n.val).entry = some x ∧ (t.flow n.val).waiting = .done ∧
      t.fld (FLW_STAT n.val) FLW_STAT_ENTRY = x.idx % 2 ^ FLW_STAT_ENTRY.width ∧
      (∀ k ∈ x.sites, (t.site k).ptr = (s.site k).ptr ∧
        (t.site k).next = if s.branchHolds x k then x.num 8 2 else (s.site k).ptr + 1) ∧
      (∀ k, k ∉ x.sites → t.site k = s.site k) ∧ (∀ m, m ≠ n.val → t.flow m = s.flow m) ∧
      t = { s with regs := t.regs, flows := t.flows, sites := t.sites, clusters := t.clusters } ∧ s.regsKept t [FLW_STAT n.val]) ∧
    (x.kind = 5 → x.num 8 1 < 32 → x.num 10 2 < 1024 → x.num 12 1 < 2 → ∃ t, exec (.bin n []) s = .next t ∧
      (∀ k ∈ x.sites, t.bit (FLW_SITE_STAT k) FLW_SITE_STAT_BINNED = true ∧
        (s.bit (FLW_SITE_STAT k) FLW_SITE_STAT_BINNED = false ∨ x.num 12 1 = 1 →
          t.fld (FLW_SITE_STAT k) FLW_SITE_STAT_HBIN = x.num 8 1 ∧ t.fld (FLW_SITE_STAT k) FLW_SITE_STAT_SBIN = x.num 10 2) ∧
        (s.bit (FLW_SITE_STAT k) FLW_SITE_STAT_BINNED = true → x.num 12 1 = 0 → t.reg (FLW_SITE_STAT k) = s.reg (FLW_SITE_STAT k))) ∧
      (t.flow n.val).entry = some x ∧ (t.flow n.val).waiting = .done ∧
      t = { s with regs := t.regs, flows := t.flows, sites := t.sites, clusters := t.clusters } ∧
      s.regsKept t (FLW_STAT n.val :: x.sites.map FLW_SITE_STAT)) ∧
    (x.kind = 3 → x.num 24 1 < 4 → x.num 25 1 < 32 → x.num 26 2 < 1024 → x.log = false → ∃ t, exec (.limit n []) s = .next t ∧
      (∀ k ∈ x.sites, ∀ bad : Bool, bad = ((nbit (x.num 24 1) 0 && decide (s.val k x.slot < x.int 8)) ||
          (nbit (x.num 24 1) 1 && decide (x.int 16 < s.val k x.slot))) →
        (bad = true → t.bit (FLW_SITE_STAT k) FLW_SITE_STAT_FAIL = true ∧ t.bit (FLW_SITE_STAT k) FLW_SITE_STAT_BINNED = true ∧
          (s.bit (FLW_SITE_STAT k) FLW_SITE_STAT_BINNED = false → t.fld (FLW_SITE_STAT k) FLW_SITE_STAT_HBIN = x.num 25 1 ∧
            t.fld (FLW_SITE_STAT k) FLW_SITE_STAT_SBIN = x.num 26 2)) ∧
        (bad = false → t.reg (FLW_SITE_STAT k) = s.reg (FLW_SITE_STAT k))) ∧
      t = { s with regs := t.regs, flows := t.flows, sites := t.sites, clusters := t.clusters } ∧
      s.regsKept t (FLW_STAT n.val :: x.sites.map FLW_SITE_STAT)) ∧
    (x.kind = 8 → x.num 8 1 < 3 → ∃ t, exec (.flowWait n []) s = .next t ∧
      (x.num 8 1 = 0 → (t.flow n.val).waiting = .gt (s.gt + x.num 16 8)) ∧ (x.num 8 1 = 1 → (t.flow n.val).waiting = .flag (2000 + x.num 9 1)) ∧
      (x.num 8 1 = 2 → (t.flow n.val).waiting = .cont) ∧ (t.flow n.val).entry = some x ∧
      t = { s with regs := t.regs, flows := t.flows, sites := t.sites, clusters := t.clusters } ∧ s.regsKept t [FLW_STAT n.val]) ∧
    (x.kind = 7 → x.num 8 1 < 8 → (∀ k ∈ x.sites, ∀ c ∈ s.siteClusters k, (s.rg (c / 8)).fenced = false) → ∃ t, exec (.cal n []) s = .next t ∧
      (∀ k ∈ x.sites, ∀ c ∈ s.siteClusters k, (nbit (x.num 8 1) 0 = true → t.bit (CAL_CTRL c) CAL_CTRL_REQ_T = true) ∧
        (nbit (x.num 8 1) 1 = true → t.bit (CAL_CTRL c) CAL_CTRL_REQ_DC = true)) ∧
      (nbit (x.num 8 1) 2 = true → (t.flow n.val).waiting =
        .cal (nbit (x.num 8 1) 0) (nbit (x.num 8 1) 1) (x.sites.flatMap s.siteClusters) []) ∧
      (nbit (x.num 8 1) 2 = false → (t.flow n.val).waiting = .done) ∧ (t.flow n.val).entry = some x ∧
      t = { s with regs := t.regs, flows := t.flows, sites := t.sites, clusters := t.clusters } ∧
      s.regsKept t (FLW_STAT n.val :: (List.range 64).map CAL_CTRL))

/-- R388, R389, R393, R396, R398-R400: for an entry of one site, PATTERN forms the run of the site's engines, MEASURE sets the PPMUs of its
pins and waits for their conversions, LOG writes one record of 64 bytes at WPTR with its user value, and SHARE reads, writes or adds on its
word of the shared flow space. END of a site, which takes the error bin when it has none, makes it done, and counts it, or has it tested
again; while its record finds no room under POLICY 0 it waits. -/
def Obligations.FlowEntriesOfASite : Prop :=
  ∀ (n : FlowNo) (x : FlowEntry) (k : Nat) (s : State), s.entryDue n.val x → x.headGood = true → x.sites = [k] → ∀ e, e = s.entryBegin n.val x →
    (x.kind = 1 → patternGood x = true → (∀ c ∈ s.siteClusters k, s.hasMode c 0 = true) →
      (∀ c ∈ s.siteClusters k, (s.rg (c / 8)).fenced = false) → (e.patternEngines x [k]).any e.quiesced = false →
      (∀ i ∈ e.patternEngines x [k], (e.eng i).run = none ∧ (e.patternSetup x (s.siteClusters k)).startRefusal i = none) →
      ∃ t, exec (.pattern n []) s = .next t ∧ (t.flow n.val).waiting = .run s.nextRun (s.siteClusters k) [] ∧ (t.flow n.val).entry = some x ∧
        (∀ i ∈ e.patternEngines x [k], (t.eng i).run = some s.nextRun) ∧ (∀ i, i ∉ e.patternEngines x [k] → t.eng i = s.eng i) ∧
        t.pins = s.pins ∧ t.flags = s.flags ∧ t.mem = s.mem) ∧
    (x.kind = 2 → measureGood x = true → (∀ c ∈ s.siteClusters k, s.hasMode c 3 = true) →
      (∀ c ∈ s.siteClusters k, (s.rg (c / 8)).fenced = false) → x.num 8 2 + x.num 10 2 ≤ (s.sitePins k).length →
      ∃ t, exec (.measure n []) s = .next t ∧ (t.flow n.val).waiting = .measure (x.num 16 4) (s.measurePins x k) [] ∧
        (t.flow n.val).entry = some x ∧
        (∀ p ∈ s.measurePins x k, t.fld (PMU_CTRL (pinCl p) (pinUnit p)) PMU_CTRL_MODE = x.num 12 1 ∧
          t.fld (PMU_CTRL (pinCl p) (pinUnit p)) PMU_CTRL_RANGE = x.num 13 1 ∧
          t.fld (PMU_FORCE (pinCl p) (pinUnit p)) PMU_FORCE_FORCE = x.num 14 2 % 2 ^ PMU_FORCE_FORCE.width) ∧
        t = { s with regs := t.regs, flows := t.flows, sites := t.sites, clusters := t.clusters, inFlight := t.inFlight }) ∧
    (x.kind = 6 → s.logFree → s.logFits 64 = true → ∃ t, exec (.log n []) s = .next t ∧ t.reg FLW_LOG_WPTR = s.reg FLW_LOG_WPTR + 64 ∧
      t.reg FLW_LOG_SEQ = s.reg FLW_LOG_SEQ + 1 ∧ t.logWait = [] ∧ (t.flow n.val).entry = some x ∧
      (∀ o a, o = (s.reg FLW_LOG_WPTR).toNat % s.logSize → o + 64 ≤ s.logSize → a = s.logBase + o → s.plain a 64 →
        (∀ i, i < 64 → inDictionary (a + i) = false) →
        t.byteAt a = 3 ∧ t.byteAt (a + 1) = 4 ∧ ∀ i, i < 8 → t.byteAt (a + 16 + i) = (leBytes 8 (x.num 8 8)).getD i 0) ∧
      s.pinsKept t ∧ t.engines = s.engines ∧ t.runs = s.runs ∧ t.flags = s.flags) ∧
    (∀ u b, x.kind = 9 → e.sharedRead (x.num 16 8 / 8 * 8) 8 true [] = some (.data b, u) →
      (x.num 8 1 = 0 → exec (.share n []) s = .next (u.setVal k x.slot (sx 64 (ofLe (u.loadAll (x.num 16 8 / 8 * 8) 8))))) ∧
      (x.num 8 1 = 1 → exec (.share n []) s = .next (u.storeAll (x.num 16 8 / 8 * 8) (leBytes 8 (ux 64 (u.val k x.slot))))) ∧
      (∀ v, x.num 8 1 = 2 → v = (ofLe (u.loadAll (x.num 16 8 / 8 * 8) 8) + ux 64 (u.val k x.slot)) % 2 ^ 64 →
        exec (.share n []) s = .next ((u.storeAll (x.num 16 8 / 8 * 8) (leBytes 8 v)).setVal k x.slot (sx 64 v)))) ∧
    (x.kind = 10 → s.logFree → ∀ h, h = (if s.bit (FLW_SITE_STAT k) FLW_SITE_STAT_BINNED then s.fld (FLW_SITE_STAT k) FLW_SITE_STAT_HBIN
        else s.fld (FLW_CFG n.val) FLW_CFG_ERR_HBIN) →
      (s.logFits 32 = false → s.bit FLW_LOG_CFG FLW_LOG_CFG_POLICY = false → ∃ t, exec (.endEntry n []) s = .next t ∧
        t.bit (FLW_STAT n.val) FLW_STAT_LOGWAIT = true ∧ t.logWait = [.siteEnd n.val k x.test false] ∧
        t.reg (FLW_SITE_STAT k) = s.reg (FLW_SITE_STAT k)) ∧
      ((s.logFits 32 = true ∨ s.bit FLW_LOG_CFG FLW_LOG_CFG_POLICY = true) →
       (nbit (s.reg (FLW_RETEST n.val)).toNat h = false → ∃ t, exec (.endEntry n []) s = .next t ∧
        t.bit (FLW_SITE_STAT k) FLW_SITE_STAT_DONE = true ∧ t.bit (FLW_SITE_STAT k) FLW_SITE_STAT_BINNED = true ∧
        t.fld (FLW_SITE_STAT k) FLW_SITE_STAT_HBIN = h ∧
        t.fld (FLW_HBIN_CNT h) FLW_HBIN_CNT_COUNT =
          min (2 ^ FLW_HBIN_CNT_COUNT.width - 1) (s.fld (FLW_HBIN_CNT h) FLW_HBIN_CNT_COUNT + 1) ∧
        s.pinsKept t ∧ t.engines = s.engines ∧ t.runs = s.runs ∧ t.flags = s.flags) ∧
       (nbit (s.reg (FLW_RETEST n.val)).toNat h = true →
        s.fld (FLW_SITE_STAT k) FLW_SITE_STAT_RETESTS < s.fld (FLW_CFG n.val) FLW_CFG_RETEST_MAX → ∃ t, exec (.endEntry n []) s = .next t ∧
        t.bit (FLW_SITE_STAT k) FLW_SITE_STAT_DONE = false ∧
        t.fld (FLW_SITE_STAT k) FLW_SITE_STAT_RETESTS = s.fld (FLW_SITE_STAT k) FLW_SITE_STAT_RETESTS + 1 ∧
        (t.site k).ptr = 0 ∧ (∀ i, i < 16 → t.val k i = 0) ∧ s.pinsKept t ∧ t.engines = s.engines ∧ t.runs = s.runs ∧ t.flags = s.flags)))

/-- R383, R384, R443: GO starts an insertion of a flow engine that can start one, and is refused otherwise; a package flag starts one too and
is cleared: every enabled site begins at entry 0 with VAL 0. R392: CONT ends a wait for it. R386, R387, R397: an entry that waits for
nothing more completes, its sites move to their next entries, and with all sites done the insertion ends and is counted. -/
def Obligations.InsertionsBeginAndEnd : Prop :=
  ∀ (port : PortNo) (n : FlowNo) (g : Nat) (s : State),
    (s.cannotInsert n.val = false → s.logFree →
      ∀ y ∈ [(Instr.flowGo port n, s.reaches (FLW_CTRL n.val) ∧ s.bit BOOT_STAT BOOT_STAT_ACTIVATING = false, s.flags),
        (Instr.flowStartFlag n, s.fld (FLW_CTRL n.val) FLW_CTRL_START_SRC = 1 ∧
          s.flag (2000 + s.fld (FLW_CTRL n.val) FLW_CTRL_START_FLAG) = true,
          (s.setFlag (2000 + s.fld (FLW_CTRL n.val) FLW_CTRL_START_FLAG) false).flags)], y.2.1 →
      ∃ t, exec y.1 s = .next t ∧ t.bit (FLW_STAT n.val) FLW_STAT_RUNNING = true ∧ t.flow n.val = {} ∧ t.flags = y.2.2 ∧
        (∀ k ∈ s.sitesOf n.val, t.site k = { ptr := 0, next := 0, insert := (s.reg (FLW_INSERT n.val)).toNat, active := true } ∧
          t.reg (FLW_SITE_STAT k) = 0 ∧ ∀ i, i < 16 → t.val k i = 0) ∧ (∀ k, k ∉ s.sitesOf n.val → t.site k = s.site k) ∧
        (∀ m, m ≠ n.val → t.flow m = s.flow m) ∧ s.pinsKept t ∧ t.engines = s.engines ∧ t.runs = s.runs) ∧
    (s.reaches (FLW_CTRL n.val) → (s.cannotInsert n.val = true ∨ s.bit BOOT_STAT BOOT_STAT_ACTIVATING = true) →
      exec (.flowGo port n) s = .next (s.violation 0x02 port.val 0 n.val (FLW_CTRL n.val))) ∧
    (s.reaches (FLW_CTRL n.val) → (s.flow n.val).waiting = .cont → ∃ t, exec (.flowCont port n) s = .next t ∧
      t.flow n.val = { s.flow n.val with waiting := .done } ∧ (∀ m, m ≠ n.val → t.flow m = s.flow m) ∧ t = { s with flows := t.flows }) ∧
    (∀ x, (s.flow n.val).entry = some x → s.bit (FLW_STAT n.val) FLW_STAT_LOGWAIT = false →
      ((s.flow n.val).waiting = .done ∨ (∃ u, (s.flow n.val).waiting = .gt u ∧ u ≤ g) ∨
        (∃ f, (s.flow n.val).waiting = .flag f ∧ s.flag f = true)) → x.sites.Nodup →
      ∃ t, exec (.flowEntryComplete n g) s = .next t ∧ (t.flow n.val).entry = none ∧
        (∀ k ∈ x.sites, (t.site k).ptr = (s.site k).next) ∧ (∀ k, k ∉ x.sites → (t.site k).ptr = (s.site k).ptr) ∧
        ((∃ k ∈ s.inserted n.val, s.bit (FLW_SITE_STAT k) FLW_SITE_STAT_DONE = false) →
          t.bit (FLW_STAT n.val) FLW_STAT_RUNNING = s.bit (FLW_STAT n.val) FLW_STAT_RUNNING ∧
          t = { s with gt := max s.gt g, flows := t.flows, sites := t.sites, clusters := t.clusters }) ∧
        (s.flowOn n.val = true → (∀ k ∈ s.inserted n.val, s.bit (FLW_SITE_STAT k) FLW_SITE_STAT_DONE = true) →
          t.bit (FLW_STAT n.val) FLW_STAT_RUNNING = false ∧ t.reg (FLW_INSERT n.val) = s.reg (FLW_INSERT n.val) + 1 ∧
          ∀ k ∈ s.inserted n.val, (t.site k).active = false))

/-- R398, R400: a write of FLW_LOG_RPTR releases bytes; a value ahead of WPTR acts as WPTR. R383, Table 14-6: FLW_CFG of a flow engine
is stored while the engine does not run, and the write is logged and ignored while it runs. R401: a cluster's oldest summary
reaches Bench unless 256 wait. R402: Bench takes the summary of the lowest cluster that waits, of these that of the oldest run, records it
in 80 bytes and delivers it. R403: so does the timing master's Bench with the package summary of the lowest package ID, its own or one that
has arrived. -/
def Obligations.DatalogAndBench : Prop :=
  ∀ (port : PortNo) (n : FlowNo) (c : ClNo) (value : Word) (s : State),
    (s.reaches FLW_LOG_RPTR → s.logWait = [] → ∃ t, exec (.logRptrWrite port value) s = .next t ∧
      t.reg FLW_LOG_RPTR = (if (value - s.reg FLW_LOG_RPTR).toNat ≤ (s.reg FLW_LOG_WPTR - s.reg FLW_LOG_RPTR).toNat then value
        else s.reg FLW_LOG_WPTR) ∧ t = { s with regs := t.regs } ∧ s.regsKept t (FLW_LOG_RPTR :: (List.range 8).map FLW_STAT)) ∧
    (s.reaches (FLW_CFG n.val) → s.flowOn n.val = false → ∃ t, exec (.flowConfigWrite port (FLW_CFG n.val) value 15) s = .next t ∧
      t.fld (FLW_CFG n.val) FLW_CFG_ERR_HBIN = getF value FLW_CFG_ERR_HBIN ∧ t.fld (FLW_CFG n.val) FLW_CFG_RETEST_MAX = getF value FLW_CFG_RETEST_MAX ∧
      t = { s with regs := t.regs } ∧ s.regsKept t [FLW_CFG n.val]) ∧
    (s.reaches (FLW_CFG n.val) → s.flowOn n.val = true →
      exec (.flowConfigWrite port (FLW_CFG n.val) value 15) s = .next (s.violation 0x01 port.val 0 0 (FLW_CFG n.val))) ∧
    (∀ y l, (s.cl c.val).toSend = y :: l →
      (s.bench.length < 256 → ∃ t, exec (.summaryArrive c) s = .next t ∧ t.bench = s.bench ++ [y] ∧ (t.cl c.val).toSend = l ∧
        (∀ k, k ≠ c.val → t.cl k = s.cl k) ∧ t = { s with bench := t.bench, clusters := t.clusters, runs := t.runs } ∧
        ∀ r ∈ t.runs, ∃ q ∈ s.runs, r = { q with reports := r.reports, lastReport := r.lastReport }) ∧
      (256 ≤ s.bench.length → ∃ t, exec (.summaryArrive c) s = .next t ∧ (t.cl c.val).toSend = y :: l ∧ (t.cl c.val).kept = true ∧
        (∀ k, k ≠ c.val → t.cl k = s.cl k) ∧ t = { s with clusters := t.clusters })) ∧
    (∀ y, lowestSummary s.bench = some y → s.logFree → s.logFits 80 = true → ∃ t, exec .benchTake s = .next t ∧
      t.bench = s.bench.erase y ∧ (∀ z ∈ s.bench, y.cluster < z.cluster ∨ (y.cluster = z.cluster ∧ y.run ≤ z.run)) ∧ t.reg FLW_LOG_WPTR = s.reg FLW_LOG_WPTR + 80 ∧
      t.reg FLW_LOG_SEQ = s.reg FLW_LOG_SEQ + 1 ∧
      (∀ m id cs res, y.flow = some m → (s.flow m).waiting = .run id cs res → id = y.run →
        (t.flow m).waiting = .run id cs (res ++ [(y.cluster, y.endCode, y.failPins, y.failResults)])) ∧
      s.pinsKept t ∧ t.engines = s.engines ∧ t.flags = s.flags) ∧
    (∀ y arrived, lowestPackage (s.pkgBench ++ arrived) = some y → s.bit VYN_SYS_STAT VYN_SYS_STAT_IS_MASTER = true → s.logFree →
      s.logFits 80 = true → y.bins.length = 32 → ∃ t, exec (.packageSummaryTake arrived) s = .next t ∧
        t.pkgBench = (s.pkgBench ++ arrived).erase y ∧ (∀ z ∈ s.pkgBench ++ arrived, y.pkg ≤ z.pkg) ∧
        t.reg FLW_LOG_WPTR = s.reg FLW_LOG_WPTR + 80 ∧ t.reg FLW_LOG_SEQ = s.reg FLW_LOG_SEQ + 1 ∧
        s.pinsKept t ∧ t.engines = s.engines ∧ t.flags = s.flags)

/-- R404, R405: a partner's write of MOD_REQ stores the wanted mode word and sends it to pin time; while a service command is busy it is
ignored and logged (R418). R407, R416: at the tenon boundary at which a mode's shutdown completes its STOPPING bit clears, and a pending
enable enters force; at another grain, or with the shutdown not complete, nothing changes. -/
def Obligations.ModesAreWantedAndShutDown : Prop :=
  ∀ (port : PortNo) (c : ClNo) (m : Fin 6) (value : Word) (b : Nat) (s : State),
    (s.reaches (MOD_REQ c.val) →
      (s.bit (MOD_SVC_STAT c.val) MOD_SVC_STAT_BUSY = false → ∃ t, exec (.modReqWrite port c value 15) s = .next t ∧
        t.fld (MOD_REQ c.val) MOD_REQ_REQ = getF value MOD_REQ_REQ ∧ t.inFlight = s.inFlight ++ [{ addr := MOD_REQ c.val, value := t.reg (MOD_REQ c.val), port := 0, sent := s.gt }] ∧
        t = { s with regs := t.regs, inFlight := t.inFlight } ∧ s.regsKept t [ MOD_REQ c.val]) ∧
      (s.bit (MOD_SVC_STAT c.val) MOD_SVC_STAT_BUSY = true →
        exec (.modReqWrite port c value 15) s = .next (s.violation 0x01 port.val 0 c.val (MOD_REQ c.val)))) ∧
    (b % 64 = 0 → s.fbit (MOD_ACTIVE c.val) MOD_ACTIVE_STOPPING m.val = true → s.shutdownComplete c.val m.val = true →
      ∃ t, exec (.modeShutdownDone c m b) s = .next t ∧ t.fbit (MOD_ACTIVE c.val) MOD_ACTIVE_STOPPING m.val = false ∧
        t.fbit (MOD_ACTIVE c.val) MOD_ACTIVE_PENDING m.val = false ∧
        t.fbit (MOD_ACTIVE c.val) MOD_ACTIVE_ACTIVE m.val =
          (s.fbit (MOD_ACTIVE c.val) MOD_ACTIVE_PENDING m.val || s.fbit (MOD_ACTIVE c.val) MOD_ACTIVE_ACTIVE m.val) ∧
        (∀ k, k < 6 → k ≠ m.val → ∀ f ∈ [ MOD_ACTIVE_STOPPING, MOD_ACTIVE_PENDING, MOD_ACTIVE_ACTIVE],
          t.fbit (MOD_ACTIVE c.val) f k = s.fbit (MOD_ACTIVE c.val) f k) ∧
        t = { s with gt := max s.gt b, regs := t.regs } ∧ s.regsKept t [ MOD_ACTIVE c.val]) ∧
    ((b % 64 ≠ 0 ∨ s.fbit (MOD_ACTIVE c.val) MOD_ACTIVE_STOPPING m.val = false ∨ s.shutdownComplete c.val m.val = false) →
      exec (.modeShutdownDone c m b) s = .next s)

/-- R418, Table 15-4: a service command is accepted only while no command is busy and, but for DRAIN, while SERVICE is in ACTIVE; one that is
not accepted sets REFUSED, logs VIOLATION with the cluster number and changes nothing else. RELOAD, MEMTEST, ACTIVATE and RECOVER begin
when Table 15-4 allows them: BUSY and OP say so, MEMTEST shows BUSY, RECOVER sets LOWPWR. -/
def Obligations.ServiceCommandsAreAcceptedOrRefused : Prop :=
  ∀ (port : PortNo) (c : ClNo) (cut : Bool) (d b : Nat) (w : BitVec 6) (value : Word) (s : State), s.reaches (MOD_SVC_CMD c.val) →
    (∀ y ∈ [(Instr.drain port c cut d, s.bit (MOD_SVC_STAT c.val) MOD_SVC_STAT_DRAINED = true),
        (Instr.reload port c, s.hasMode c.val 5 = false ∨ s.modesHeld c.val &&& 1 ≠ 0),
        (Instr.memtest port c, s.hasMode c.val 5 = false ∨ s.modesHeld c.val &&& 7 ≠ 0),
        (Instr.activate port c, s.active c.val ≠ 0x20 ∨ s.fld (MOD_ACTIVE c.val) MOD_ACTIVE_STOPPING ≠ 0),
        (Instr.recover port c w b, s.hasMode c.val 5 = false ∨ s.bit (MOD_SVC_STAT c.val) MOD_SVC_STAT_DRAINED = false ∨ s.modesHeld c.val &&& 0x18 ≠ 0),
        (Instr.svcOpRefused port c value, getF value MOD_SVC_CMD_OP ∈ [0, 6, 7])],
      (s.bit (MOD_SVC_STAT c.val) MOD_SVC_STAT_BUSY = true ∨ y.2) →
      (y.1 = .svcOpRefused port c value → getF value MOD_SVC_CMD_GO = 1) →
      exec y.1 s = .next ((s.setBit (MOD_SVC_STAT c.val) MOD_SVC_STAT_REFUSED true).violation 0x02 port.val 0 c.val (MOD_SVC_CMD c.val))) ∧
    (s.bit (MOD_SVC_STAT c.val) MOD_SVC_STAT_BUSY = false →
      (∀ y ∈ [(Instr.reload port c, s.hasMode c.val 5 = true ∧ s.modesHeld c.val &&& 1 = 0, 2),
          (Instr.activate port c, s.active c.val = 0x20 ∧ s.fld (MOD_ACTIVE c.val) MOD_ACTIVE_STOPPING = 0, 4)], y.2.1 →
        ∃ t, exec y.1 s = .next t ∧ t.bit (MOD_SVC_STAT c.val) MOD_SVC_STAT_BUSY = true ∧ t.fld (MOD_SVC_STAT c.val) MOD_SVC_STAT_OP = y.2.2 ∧
          t.cl c.val = { s.cl c.val with svc := some { op := y.2.2 } } ∧ (∀ k, k ≠ c.val → t.cl k = s.cl k) ∧
          t = { s with regs := t.regs, clusters := t.clusters } ∧ s.regsKept t [ MOD_SVC_STAT c.val]) ∧
      (s.hasMode c.val 5 = true → s.modesHeld c.val &&& 7 = 0 → ∃ t, exec (.memtest port c) s = .next t ∧
        t.bit (MOD_SVC_STAT c.val) MOD_SVC_STAT_BUSY = true ∧ t.fld (MOD_SVC_STAT c.val) MOD_SVC_STAT_OP = 3 ∧
        t.bit (MEM_CL_MEMTEST c.val) MEM_CL_MEMTEST_BUSY = true ∧ t.cl c.val = { s.cl c.val with svc := some { op := 3 } } ∧
        (∀ k, k ≠ c.val → t.cl k = s.cl k) ∧ t = { s with regs := t.regs, clusters := t.clusters } ∧
        s.regsKept t [ MOD_SVC_STAT c.val, MEM_CL_MEMTEST c.val]) ∧
      (s.hasMode c.val 5 = true → s.bit (MOD_SVC_STAT c.val) MOD_SVC_STAT_DRAINED = true → s.modesHeld c.val &&& 0x18 = 0 → ∃ t, exec (.recover port c w b) s = .next t ∧
        t.gt = max s.gt b ∧ t.bit (MOD_SVC_STAT c.val) MOD_SVC_STAT_BUSY = true ∧ t.fld (MOD_SVC_STAT c.val) MOD_SVC_STAT_OP = 5 ∧
        t.fld (ADC_CTRL c.val) ADC_CTRL_LOWPWR = 1 ∧ t.ffld (ADC_CTRL c.val) ADC_CTRL_LOWPWR = 1 ∧
        (t.cl c.val).svc = some { op := 5, resume := w.toNat, rGrain := b, oldLowPower := s.fld (ADC_CTRL c.val) ADC_CTRL_LOWPWR } ∧
        ((s.adc c.val).seq = none → s.adcAccepts c.val true = true → (t.adc c.val).seq = some { start := { grain := b, selfTest := true }, begin_ := b }) ∧
        (∀ x, (s.adc c.val).seq = some x → (t.adc c.val).seq = some x) ∧ (t.adc c.val).waiting = (s.adc c.val).waiting ∧
        (∀ k, k ≠ c.val → t.cl k = s.cl k) ∧ t.pins = s.pins ∧ t.engines = s.engines ∧ t.runs = s.runs ∧ t.flags = s.flags ∧ t.mem = s.mem))

/-- R419: DRAIN takes effect at D, the boundary it meets, or waits for the end of an interruption in progress: REQ becomes SERVICE alone and
the other modes stop; with CUT 0 no run is cut. R420: with CUT 1 a run of the cluster that plays is to end with VIOLATION at E, the
boundary that follows the last tenon produced; with no run, E is D. At E the run ends. R421: once no engine of the cluster holds a run,
DRAINED sets, BUSY clears and MOD_DRAIN_GT records E. -/
def Obligations.DrainsStopAndCut : Prop :=
  ∀ (port : PortNo) (c : ClNo) (cut : Bool) (g d : Nat) (s : State),
    (s.reaches (MOD_SVC_CMD c.val) → s.bit (MOD_SVC_STAT c.val) MOD_SVC_STAT_BUSY = false →
      s.bit (MOD_SVC_STAT c.val) MOD_SVC_STAT_DRAINED = false → ∀ kind start pass2,
      (s.cl c.val).gauge.interruption = some (kind, start, pass2) → ∃ t, exec (.drain port c cut g) s = .next t ∧
      t.bit (MOD_SVC_STAT c.val) MOD_SVC_STAT_BUSY = true ∧ t.fld (MOD_SVC_STAT c.val) MOD_SVC_STAT_OP = 1 ∧
      t.cl c.val = { s.cl c.val with svc := some { op := 1, cut := cut, waits := true, dGrain := start + calGrains kind } } ∧
      (∀ k, k ≠ c.val → t.cl k = s.cl k) ∧ t = { s with gt := max s.gt g, regs := t.regs, clusters := t.clusters } ∧
      s.regsKept t [ MOD_SVC_STAT c.val]) ∧
    (s.reaches (MOD_SVC_CMD c.val) → s.bit (MOD_SVC_STAT c.val) MOD_SVC_STAT_BUSY = false →
      s.bit (MOD_SVC_STAT c.val) MOD_SVC_STAT_DRAINED = false → (s.cl c.val).gauge.interruption = none → d = g →
      ∃ t, exec (.drain port c cut g) s = .next t ∧ t.bit (MOD_SVC_STAT c.val) MOD_SVC_STAT_BUSY = true ∧
        t.fld (MOD_SVC_STAT c.val) MOD_SVC_STAT_OP = 1 ∧ t.reg (MOD_REQ c.val) = 0x20 ∧ t.inForce (MOD_REQ c.val) = 0x20 ∧
        (∀ m, m < 5 → t.fbit (MOD_ACTIVE c.val) MOD_ACTIVE_ACTIVE m = false ∧ t.fbit (MOD_ACTIVE c.val) MOD_ACTIVE_STOPPING m =
          (s.fbit (MOD_ACTIVE c.val) MOD_ACTIVE_ACTIVE m || s.fbit (MOD_ACTIVE c.val) MOD_ACTIVE_STOPPING m)) ∧
        (cut = false → t.runs = s.runs ∧ (t.cl c.val).svc = some (if s.runs.any (fun r => r.hasCluster c.val) then { op := 1, dGrain := d }
          else { op := 1, dGrain := d, eGrain := some d })) ∧
        (cut = true → s.runs.filter (fun r => r.hasCluster c.val) = [] → t.runs = s.runs ∧
          (t.cl c.val).svc = some { op := 1, cut := true, dGrain := d, eGrain := some d }) ∧
        (∀ r, cut = true → s.runs.filter (fun r => r.hasCluster c.val) = [r] → r.start.isSome = true → r.endCode = none →
          (s.eng r.lowest).run = some r.id → (∀ q ∈ s.runs, q.id = r.id → q = r) →
          t.runs = s.runs.map (fun q => if q.id = r.id then
            { q with endCode := some codeViolation, endAt := some (s.lastTenonEnd c.val d - 1) } else q) ∧
          (t.cl c.val).svc = some { op := 1, cut := true, dGrain := d, eGrain := some (s.lastTenonEnd c.val d) } ∧
          (t.cl c.val).cutEnd = some (s.lastTenonEnd c.val d) ∧ d ≤ s.lastTenonEnd c.val d)) ∧
    (∀ v, (s.cl c.val).svc = some v → v.op = 1 → v.cut = true → v.eGrain = some g →
      (s.runs.filter (fun r => r.hasCluster c.val && r.start.isSome) = [] → exec (.drainEnd c g) s = .next s) ∧
      (∀ r a, s.runs.filter (fun r => r.hasCluster c.val && r.start.isSome) = [r] → r.endCode = some codeViolation → r.endAt = some a →
        boundaryAfter a = g → s.allHalted r = none → exec (.drainEnd c g) s = .next (s.finishRun r codeViolation g))) ∧
    (∀ v e, (s.cl c.val).svc = some v → v.op = 1 → v.waits = false → e = v.eGrain.getD v.dGrain →
      (e ≤ s.gt → (∀ k ∈ clEngines c.val, (s.eng k).run = none) → ∃ t, exec (.drained c) s = .next t ∧
        t.bit (MOD_SVC_STAT c.val) MOD_SVC_STAT_DRAINED = true ∧ t.bit (MOD_SVC_STAT c.val) MOD_SVC_STAT_BUSY = false ∧
        t.bit (MOD_SVC_STAT c.val) MOD_SVC_STAT_DONE = true ∧ t.fld (MOD_SVC_STAT c.val) MOD_SVC_STAT_CODE = codeOk ∧
        t.pair (MOD_DRAIN_GT_LO c.val) (MOD_DRAIN_GT_HI c.val) = e % 2 ^ 64 ∧ t.cl c.val = { s.cl c.val with svc := none } ∧
        (∀ k, k ≠ c.val → t.cl k = s.cl k) ∧ t = { s with regs := t.regs, clusters := t.clusters } ∧
        s.regsKept t [ MOD_SVC_STAT c.val, MOD_DRAIN_GT_LO c.val, MOD_DRAIN_GT_HI c.val]) ∧
      ((s.gt < e ∨ ∃ k ∈ clEngines c.val, (s.eng k).run ≠ none) → exec (.drained c) s = .next s))

/-- Table 15-4: RELOAD, MEMTEST and ACTIVATE complete with DONE, or with FAILED and CODE VIOLATION after a digest mismatch; MEMTEST without a
faulty row has tested 1,024 blocks; ACTIVATE sets BANK to the other bank; of a bank that was written meanwhile how it ends is open (R426).
R423: RECOVER completes with the wanted mode word, DRAINED clear and LOWPWR as before at the grain at which its second calibration was
accepted, and with FAILED and the code when one failed; at another grain nothing changes. -/
def Obligations.ServiceCommandsComplete : Prop :=
  ∀ (c : ClNo) (g : Nat) (result : SvcEnd) (v : Service) (s : State), (s.cl c.val).svc = some v →
    ∀ a bank, a = MOD_SVC_STAT c.val → bank = s.fld (MOD_SVC_STAT c.val) MOD_SVC_STAT_BANK →
    ∀ good : State → Nat → Prop, good = (fun t code => t.bit a MOD_SVC_STAT_BUSY = false ∧ t.bit a MOD_SVC_STAT_DONE = true ∧
        t.fld a MOD_SVC_STAT_CODE = code ∧ (t.cl c.val).svc = none) →
    ∀ bad : State → Nat → Prop, bad = (fun t code => t.bit a MOD_SVC_STAT_BUSY = false ∧ t.bit a MOD_SVC_STAT_FAILED = true ∧
        t.fld a MOD_SVC_STAT_CODE = code ∧ (t.cl c.val).svc = none ∧ ∀ k, k ≠ c.val → t.cl k = s.cl k) →
    (v.op = 2 →
      (result ≠ .flashError → result ≠ .digestMismatch → s.secGood bank 2 = true → s.secGood bank 3 = true →
        ∃ t, exec (.svcCommandDone c g result []) s = .next t ∧ good t codeOk ∧
          t.stores = ((s.loadCstore bank c.val).loadPatch bank c.val).stores ∧
          ((∀ e ∈ clEngines c.val, (s.eng e).heldStart = none) → t.mem = s.mem ∧ t.pins = s.pins ∧ t.runs = s.runs)) ∧
      ((result = .digestMismatch ∨ (result ≠ .flashError ∧ (s.secGood bank 2 = false ∨ s.secGood bank 3 = false))) →
        ∃ t, exec (.svcCommandDone c g result []) s = .next t ∧ bad t codeViolation ∧
          t = { s with regs := t.regs, clusters := t.clusters } ∧ s.regsKept t [a])) ∧
    (v.op = 3 → ∃ t, exec (.svcCommandDone c g result []) s = .next t ∧ good t codeOk ∧
      t.bit (MEM_CL_MEMTEST c.val) MEM_CL_MEMTEST_BUSY = false ∧ t.fld (MEM_CL_MEMTEST c.val) MEM_CL_MEMTEST_BLOCKS = 1024 ∧
      t = { s with regs := t.regs, clusters := t.clusters } ∧ s.regsKept t [a, MEM_CL_MEMTEST c.val]) ∧
    (v.op = 4 →
      (∀ u, v.spoilt = [] → result ≠ .flashError → result ≠ .digestMismatch → s.activateCluster (otherBank bank) c.val = (true, u) →
        ∃ t, exec (.svcCommandDone c g result []) s = .next t ∧ good t codeOk ∧ t.fld a MOD_SVC_STAT_BANK = otherBank bank ∧
          t = { u with regs := t.regs, clusters := t.clusters } ∧ u.regsKept t [a]) ∧
      (∀ u, v.spoilt = [] → result ≠ .flashError → result ≠ .digestMismatch → s.activateCluster (otherBank bank) c.val = (false, u) →
        ∃ t, exec (.svcCommandDone c g result []) s = .next t ∧ t.bit a MOD_SVC_STAT_BUSY = false ∧ t.bit a MOD_SVC_STAT_FAILED = true ∧
          t.fld a MOD_SVC_STAT_CODE = codeViolation ∧ (t.cl c.val).svc = none ∧ (∀ k, k ≠ c.val → t.cl k = u.cl k) ∧
          t = { u with regs := t.regs, clusters := t.clusters } ∧ u.regsKept t [a]) ∧
      (v.spoilt = [] → result = .digestMismatch → ∃ t, exec (.svcCommandDone c g result []) s = .next t ∧ bad t codeViolation ∧
          t = { s with regs := t.regs, clusters := t.clusters } ∧ s.regsKept t [a]) ∧
      (v.spoilt ≠ [] → result ≠ .flashError → ∃ t, exec (.svcCommandDone c g result []) s = .next t ∧ t.bit a MOD_SVC_STAT_BUSY = false ∧
        (t.cl c.val).svc = none ∧ t.flash = s.flash)) ∧
    (v.op = 5 → v.endAt = some g →
      (v.calFail = none → v.doneDc = true → v.doneT = true → ∃ t, exec (.svcCommandDone c g result []) s = .next t ∧ good t codeOk ∧
        t.reg (MOD_REQ c.val) = BitVec.ofNat 32 v.resume ∧ t.inForce (MOD_REQ c.val) = BitVec.ofNat 32 v.resume ∧
        t.bit a MOD_SVC_STAT_DRAINED = false ∧ t.fld (ADC_CTRL c.val) ADC_CTRL_LOWPWR = v.oldLowPower % 2 ^ ADC_CTRL_LOWPWR.width ∧
        t = { s with gt := max s.gt g, regs := t.regs, force := t.force, inFlight := t.inFlight, clusters := t.clusters } ∧
        s.regsKept t [a, MOD_REQ c.val, ADC_CTRL c.val]) ∧
      (∀ code, v.calFail = some code → ∃ t, exec (.svcCommandDone c g result []) s = .next t ∧ bad t (code % 256) ∧
        t.bit a MOD_SVC_STAT_DRAINED = s.bit a MOD_SVC_STAT_DRAINED ∧
        t = { s with gt := max s.gt g, regs := t.regs, force := t.force, clusters := t.clusters } ∧ s.regsKept t [a, ADC_CTRL c.val])) ∧
    (v.op = 5 → v.endAt ≠ some g → exec (.svcCommandDone c g result []) s = .next s)

/-- R465-R467, R473: an enabled link that trains with 12, 8 or 4 lanes knows its peer, tells it this package's identity and those that it has
learned before, and tells the others of the peer; it carries traffic, but between two different systems it goes to STATE 4. A link that
drops trains again and DOWN counts; the packages that become unreachable by it, or by the drop of a link elsewhere, are no longer known or
present and their IDs are reserved (R471). A flit that is sent again counts in RETRY. -/
def Obligations.LinksTrainDropAndResend : Prop :=
  ∀ (n pl : LinkNo) (lanes w : Nat) (peer : Identity) (lost : List Nat) (s : State),
    (nbit (s.fld VYN_ROLES VYN_ROLES_LINK_EN) n.val = true → s.fld (VYN_LINK n.val) VYN_LINK_STATE = 1 → lanes ∈ [4, 8, 12] →
      ∀ apart : Bool, apart = (s.tag != 0 && peer.tag != 0 && s.tag != peer.tag) →
      ∃ t, exec (.vyeneLinkTrained n lanes peer pl w) s = .next t ∧ t.fld (VYN_LINK n.val) VYN_LINK_STATE = (if apart then 4 else 2) ∧
        t.bit (VYN_LINK n.val) VYN_LINK_UP = !apart ∧ t.fld (VYN_LINK n.val) VYN_LINK_LANES = lanes ∧
        t.fld (VYN_LINK n.val) VYN_LINK_PEER_ID = peer.id.val ∧ t.fld (VYN_LINK n.val) VYN_LINK_PEER_LINK = pl.val ∧
        peer ∈ t.vyn.known ∧ (n, peer.uid) ∈ t.vyn.peers ∧
        Output.vyene "IDENTITY" 16 [2 ^ n.val, Config.uid.toNat, s.tag, s.pkgId, if s.eligible then 1 else 0, s.priority] ∈ t.outs ∧
        (apart = false → ∀ x ∈ s.vyn.known, x.uid ≠ peer.uid →
          Output.vyene "IDENTITY" 16 [2 ^ n.val, x.uid, x.tag, x.id.val, if x.eligible then 1 else 0, x.priority] ∈ t.outs) ∧
        (setNBit s.linksUp n.val false ≠ 0 → Output.vyene "IDENTITY" 16 [setNBit s.linksUp n.val false, peer.uid, peer.tag, peer.id.val,
          if peer.eligible then 1 else 0, peer.priority] ∈ t.outs) ∧
        t = { s with regs := t.regs, vyn := t.vyn, outs := t.outs } ∧ s.regsKept t [VYN_LINK n.val, VYN_IDS, VYN_SYS_STAT]) ∧
    (∀ link : Option LinkNo, (∀ k, link = some k → s.fld (VYN_LINK k.val) VYN_LINK_STATE = 2 ∨ s.fld (VYN_LINK k.val) VYN_LINK_STATE = 4) →
      ∀ gone : Nat → Bool, gone = (fun k => s.tag != 0 && k != s.pkgId &&
        s.vyn.known.any (fun x => lost.contains x.uid && x.tag == s.tag && x.id.val == k)) →
      ∃ t, exec (.vyeneLinkDrop link lost) s = .next t ∧
        (∀ k, link = some k → t.fld (VYN_LINK k.val) VYN_LINK_STATE = 1 ∧ t.bit (VYN_LINK k.val) VYN_LINK_UP = false ∧
          t.fld (VYN_LINK_ERR k.val) VYN_LINK_ERR_DOWN = min (2 ^ 16 - 1) (s.fld (VYN_LINK_ERR k.val) VYN_LINK_ERR_DOWN + 1)) ∧
        (∀ k, k < 16 → t.present k = (s.present k && !gone k) ∧
          nbit t.reservedIds k = (nbit s.reservedIds k || (s.present k && gone k))) ∧
        t.vyn.known = s.vyn.known.filter (fun x => !lost.contains x.uid) ∧
        t = { s with regs := t.regs, vyn := t.vyn, hub := t.hub, flowStores := t.flowStores, homeWaits := t.homeWaits } ∧
        s.regsKept t ((link.map (fun k => [VYN_LINK k.val, VYN_LINK_ERR k.val])).getD [] ++ [VYN_IDS, VYN_SYS_STAT])) ∧
    (s.bit (VYN_LINK n.val) VYN_LINK_UP = true → ∃ t, exec (.flitResend n) s = .next t ∧
      t.fld (VYN_LINK_ERR n.val) VYN_LINK_ERR_RETRY = min (2 ^ 16 - 1) (s.fld (VYN_LINK_ERR n.val) VYN_LINK_ERR_RETRY + 1) ∧
      t.fld (VYN_LINK_ERR n.val) VYN_LINK_ERR_DOWN = s.fld (VYN_LINK_ERR n.val) VYN_LINK_ERR_DOWN ∧
      t = { s with regs := t.regs } ∧ s.regsKept t [VYN_LINK_ERR n.val])

/-- R468: once it has learned no new UID for 1,048,576 gr, the registrar of untagged packages gives IDs in rising order of UID and sets the
tag to its own UID; an untagged package named by an assignment takes its ID and tag, and the present and reserved IDs; it is unaligned
(R482). A member learns the IDs that an assignment adds. R470: the master gives a joining package the lowest ID that is neither present nor
reserved, or tells the one that it holds; another package passes the request on. R471: RELEASE frees a reserved ID, and a present one is
ignored and logged. R472: with no ID left, SYSTEM_FULL is written here, and by the packages that the message of it reaches. -/
def Obligations.PackagesTakeTheirIds : Prop :=
  ∀ (n : LinkNo) (port : PortNo) (tag w : Nat) (uids : List Nat) (reserved : BitVec 16) (declared : Bool) (x : Identity) (id : PkgNo)
    (s : State),
    (∀ others, others = (s.vyn.known.filter (fun y => y.tag == 0)).map (·.uid) → Config.uid.toNat ≠ 0 →
      (∀ u ∈ others, Config.uid.toNat < u) → others ≠ [] → others.length ≤ 15 → s.tag = 0 →
      (w < s.vyn.learnedAt + 1048576 → exec (.systemDeclare w) s = .next s) ∧
      (s.vyn.learnedAt + 1048576 ≤ w → ∃ t, exec (.systemDeclare w) s = .next t ∧ t.tag = Config.uid.toNat ∧ t.pkgId = 0 ∧
        t.present 0 = true ∧ t.vyn.electing = true ∧ t.bit VYN_SYS_STAT VYN_SYS_STAT_ALIGNED = false ∧
        t.outs = s.outs ++ [.vyene "ASSIGN" 16 (Config.uid.toNat :: 1 :: 0 :: sortNats (Config.uid.toNat :: others))] ∧
        t = { s with regs := t.regs, vyn := t.vyn, hub := t.hub, outs := t.outs } ∧
        s.regsKept t ([VYN_TAG_LO, VYN_TAG_HI, HUB_SYS_IDENT, VYN_IDS, VYN_SYS_STAT] ++ s.vyn.peers.map (fun p => VYN_LINK p.1.val)))) ∧
    ((∀ p ∈ s.vyn.peers, p.2 ∈ uids) → s.tag = 0 → 0 < tag → tag < 2 ^ 64 → Config.uid.toNat ≠ 0 → uids.length = 16 → ∀ k, k < 16 →
      uids.getD k 0 = Config.uid.toNat → (∀ j, j < k → uids.getD j 0 ≠ Config.uid.toNat) →
      ∃ t, exec (.idAssignment tag uids reserved declared) s = .next t ∧ t.tag = tag ∧ t.pkgId = k ∧
        (∀ j, j < 16 → t.present j = (uids.getD j 0 != 0)) ∧ t.reservedIds = reserved.toNat ∧ t.vyn.electing = declared ∧
        t.bit VYN_SYS_STAT VYN_SYS_STAT_ALIGNED = false ∧ t.bit VYN_SYS_STAT VYN_SYS_STAT_IS_MASTER = false ∧
        t = { s with regs := t.regs, vyn := t.vyn, hub := t.hub, outs := t.outs } ∧
        s.regsKept t ([VYN_TAG_LO, VYN_TAG_HI, HUB_SYS_IDENT, VYN_IDS, VYN_SYS_STAT] ++ s.vyn.peers.map (fun p => VYN_LINK p.1.val))) ∧
    (s.tag ≠ 0 → tag = s.tag → ∃ t, exec (.idAssignment tag uids reserved declared) s = .next t ∧
      (∀ j, j < 16 → t.present j = (s.present j || uids.getD j 0 != 0) ∧
        nbit t.reservedIds j = (reserved.getLsbD j && !t.present j)) ∧
      t = { s with regs := t.regs, vyn := t.vyn } ∧ s.regsKept t ([VYN_IDS, VYN_SYS_STAT] ++ s.vyn.peers.map (fun p => VYN_LINK p.1.val))) ∧
    (s.tag ≠ 0 → s.bit (VYN_LINK n.val) VYN_LINK_UP = true →
      (∀ m, exec (.systemJoin n x (some m)) s = .next (s.event codeSystemFull 7 m.val 0 0)) ∧
      (x.tag = 0 →
        (∀ k, s.hasId x.uid = false → s.freeId = some k → s.isMaster = true → ∃ t, exec (.systemJoin n x none) s = .next t ∧
          t.present k = true ∧ (∀ j, j < 16 → j ≠ k → t.present j = s.present j) ∧
          { x with tag := s.tag, id := Fin.ofNat 16 k } ∈ t.vyn.known ∧
          t.outs = s.outs ++ [.vyene "ASSIGN" 16 (s.tag :: 0 :: t.reservedIds :: t.uidsById)] ∧
          t = { s with regs := t.regs, vyn := t.vyn, outs := t.outs } ∧
          s.regsKept t ([VYN_IDS, VYN_SYS_STAT] ++ s.vyn.peers.map (fun p => VYN_LINK p.1.val))) ∧
        (s.hasId x.uid = true → s.isMaster = true → exec (.systemJoin n x none) s =
          .next (s.send (.vyene "ASSIGN" 16 (s.tag :: 0 :: s.reservedIds :: s.uidsById)))) ∧
        ((s.hasId x.uid = true ∨ s.freeId ≠ none) → s.isMaster = false → exec (.systemJoin n x none) s =
          .next (s.send (.vyene "JOIN" (s.fld VYN_SYS_STAT VYN_SYS_STAT_MASTER_ID) [x.uid, if x.eligible then 1 else 0, x.priority]))) ∧
        (s.hasId x.uid = false → s.freeId = none → s.vyn.peers.contains (n, x.uid) = true → exec (.systemJoin n x none) s =
          .next (((s.holdLink n.val).event codeSystemFull 7 n.val 0 0).send (.vyene "SYSTEM_FULL" 16 [n.val]))))) ∧
    (s.reaches VYN_CMD →
      (s.present id.val = false → ∃ t, exec (.release port id) s = .next t ∧ nbit t.reservedIds id.val = false ∧
        (∀ j, j < 16 → j ≠ id.val → nbit t.reservedIds j = nbit s.reservedIds j) ∧ t.presentIds = s.presentIds ∧
        (s.tag ≠ 0 → t.outs = s.outs ++ [.vyene "ASSIGN" 16 (s.tag :: 0 :: t.reservedIds :: t.uidsById)]) ∧ (s.tag = 0 → t.outs = s.outs) ∧
        t = { s with regs := t.regs, outs := t.outs } ∧ s.regsKept t [VYN_IDS]) ∧
      (s.present id.val = true → exec (.release port id) s = .next (s.violation 0x01 port.val 0 id.val VYN_CMD)))

/-- R475: an election picks, among the eligible packages, the highest priority and then the lowest ID, with an epoch one greater than the
newest known; with none eligible NOMASTER reads 1, ALIGNED 1 and L 0. R476: the master sends a LEASE at every multiple of 2^24 gr; a LEASE
with a newer epoch makes its master the one followed. R477: after 3 × 2^24 gr without a LEASE an election is to be held. -/
def Obligations.MastersAreElectedAndHoldTheLease : Prop :=
  ∀ (n : LinkNo) (port : PortNo) (e : BitVec 32) (m : PkgNo) (gt g : Nat) (others : List (BitVec 32)) (s : State),
    (s.reaches VYN_CMD → ∃ t, exec (.elect port) s = .next t ∧ t.bit VYN_SYS_STAT VYN_SYS_STAT_CONFLICT = false ∧
      t.vyn = { s.vyn with electing := true } ∧ t.outs = s.outs ++ [.vyene "ELECT" 16 []] ∧
      t = { s with regs := t.regs, vyn := t.vyn, outs := t.outs } ∧ s.regsKept t [VYN_SYS_STAT]) ∧
    ((s.vyn.electing = true ∨ others ≠ []) → s.tag ≠ 0 →
      (∀ k p, (k, p) ∈ s.candidates → k < 16 → (∀ y ∈ s.candidates, y = (k, p) ∨ y.2 < p ∨ (y.2 = p ∧ k < y.1)) →
        ∃ t, exec (.election others) s = .next t ∧ t.fld VYN_SYS_STAT VYN_SYS_STAT_MASTER_ID = k ∧ t.reg VYN_EPOCH = newestEpoch (s.reg VYN_EPOCH) others + 1 ∧
          t.bit VYN_SYS_STAT VYN_SYS_STAT_NOMASTER = false ∧ t.isMaster = (k == s.pkgId) ∧ t.vyn.electing = false ∧
          t.bit VYN_SYS_STAT VYN_SYS_STAT_CONFLICT = false ∧
          (k = s.pkgId → t.bit VYN_SYS_STAT VYN_SYS_STAT_ALIGNED = true) ∧
          t = { s with regs := t.regs, vyn := t.vyn, hub := t.hub } ∧ s.regsKept t [VYN_SYS_STAT, VYN_EPOCH]) ∧
      (s.candidates = [] → ∃ t, exec (.election others) s = .next t ∧ t.bit VYN_SYS_STAT VYN_SYS_STAT_NOMASTER = true ∧
        t.bit VYN_SYS_STAT VYN_SYS_STAT_ALIGNED = true ∧ t.isMaster = false ∧ t.reg VYN_L = 0 ∧ t.vyn.electing = false ∧
        t = { s with regs := t.regs, vyn := t.vyn, hub := t.hub } ∧ s.regsKept t [VYN_SYS_STAT, VYN_L])) ∧
    (s.isMaster = true → g % 2 ^ 24 = 0 → ∃ t, exec (.lease g) s = .next t ∧
      t.outs = s.outs ++ [.vyene "LEASE" 16 [(s.reg VYN_EPOCH).toNat, s.pkgId, g]] ∧ t = { s with gt := max s.gt g, outs := t.outs }) ∧
    (s.bit (VYN_LINK n.val) VYN_LINK_UP = true →
      (0 < (e - s.reg VYN_EPOCH).toNat → (e - s.reg VYN_EPOCH).toNat < 2 ^ 31 → ∃ t, exec (.leaseReceive n e m gt) s = .next t ∧
        t.reg VYN_EPOCH = e ∧ t.fld VYN_SYS_STAT VYN_SYS_STAT_MASTER_ID = m.val ∧ t.isMaster = (m.val == s.pkgId) ∧
        t.vyn.lastLease = s.gt ∧ t.vyn.electing = false ∧
        (m.val ≠ s.pkgId → s.fld VYN_SYS_STAT VYN_SYS_STAT_MASTER_ID ≠ m.val → t.bit VYN_SYS_STAT VYN_SYS_STAT_ALIGNED = false) ∧
        t = { s with regs := t.regs, vyn := t.vyn, hub := t.hub } ∧ s.regsKept t [VYN_SYS_STAT, VYN_EPOCH]) ∧
      (e = s.reg VYN_EPOCH → s.bit VYN_SYS_STAT VYN_SYS_STAT_CONFLICT = false → s.bit VYN_SYS_STAT VYN_SYS_STAT_NOMASTER = false → m.val = s.fld VYN_SYS_STAT VYN_SYS_STAT_MASTER_ID →
        exec (.leaseReceive n e m gt) s = .next { s with vyn := { s.vyn with lastLease := s.gt } })) ∧
    (s.tag ≠ 0 → s.isMaster = false → s.bit VYN_SYS_STAT VYN_SYS_STAT_NOMASTER = false → s.bit VYN_SYS_STAT VYN_SYS_STAT_CONFLICT = false →
      s.vyn.lastLease + 3 * 2 ^ 24 ≤ g → ∃ t, exec (.leaseLapse g) s = .next t ∧ t.vyn = { s.vyn with electing := true } ∧
        t.outs = s.outs ++ [.vyene "ELECT" 16 []] ∧ t = { s with gt := max s.gt g, vyn := t.vyn, outs := t.outs })

/-- R478: an epoch conflict at grain C sets CONFLICT and is forwarded, and who claims the mastership steps down; at exactly C + 4,096 gr the
pins are in the safe state and every run of the package is to end with EPOCH_CONFLICT; at no other grain. R482: DOWEL clears ALIGNED in a
domain of two or more packages. R480: at a tenon boundary with no run in progress, a package that is no master computes θ and δ from 16
pairs of stamps exchanged with its aligned parent, subtracts the whole grains of θ from GT and leaves the remaining kerfs to be slewed; an
offset of 0 sets ALIGNED; an aligned package takes only the delay of the link, and a master is aligned at once. R484: the link term of R483
is adopted while no run is in progress. R486: SYNC_OUT pulses at the multiples of 2^24 gr and SYNC_IN stamps its grain. -/
def Obligations.ConflictsAndAlignment : Prop :=
  (∀ (g : Nat) (claimant : PkgNo) (n : LinkNo) (e : BitVec 32) (m : PkgNo) (s : State),
    (s.bit VYN_SYS_STAT VYN_SYS_STAT_CONFLICT = false → s.bit (VYN_LINK n.val) VYN_LINK_UP = true → e = s.reg VYN_EPOCH → s.bit VYN_SYS_STAT VYN_SYS_STAT_NOMASTER = false →
      m.val ≠ s.fld VYN_SYS_STAT VYN_SYS_STAT_MASTER_ID → ∃ t, exec (.leaseReceive n e m g) s = .next t ∧
      t.bit VYN_SYS_STAT VYN_SYS_STAT_CONFLICT = true ∧ t.isMaster = false ∧ t.hub.conflictAt = some s.gt ∧ t.gt = s.gt ∧
      Output.vyene "CONFLICT" 16 [] ∈ t.outs ∧ t.vyn.electing = false ∧ s.pinsKept t ∧ t.runs = s.runs ∧ t.engines = s.engines ∧ t.flags = s.flags) ∧
    (s.bit VYN_SYS_STAT VYN_SYS_STAT_CONFLICT = false → ∃ t, exec (.conflict g claimant) s = .next t ∧
      t.bit VYN_SYS_STAT VYN_SYS_STAT_CONFLICT = true ∧ t.isMaster = false ∧ t.bit VYN_SYS_STAT VYN_SYS_STAT_ALIGNED = false ∧
      t.hub = { s.hub with aligning := false, conflictAt := some g } ∧ t.gt = max s.gt g ∧ Output.vyene "CONFLICT" 16 [] ∈ t.outs ∧
      (s.isMaster = false → claimant.val ≠ s.pkgId →
        t = { s with gt := t.gt, regs := t.regs, hub := t.hub, outs := t.outs, vyn := { s.vyn with electing := false } } ∧
        s.regsKept t [VYN_SYS_STAT]) ∧ s.pinsKept t ∧ t.runs = s.runs ∧ t.engines = s.engines ∧ t.flags = s.flags) ∧
    (∀ c, s.hub.conflictAt = some c →
      (g = c + 4096 → ∃ t, exec (.conflictSafeState g) s = .next t ∧ t.hub = { s.hub with
          conflictSafe := s.bit VYN_SYS_STAT VYN_SYS_STAT_CONFLICT || !s.bit VYN_SYS_STAT VYN_SYS_STAT_ALIGNED
          conflictAt := none } ∧
        (∀ p, p < 1024 → (t.pin p).held = true) ∧
        (∀ r ∈ s.runs, r.endCode = none → (s.eng r.lowest).run = some r.id →
          ∃ q ∈ t.runs, q.id = r.id ∧ q.endCode = some codeEpochConflict ∧ q.endAt = some g)) ∧
      (g ≠ c + 4096 → exec (.conflictSafeState g) s = .next s))) ∧
  (∀ (n : LinkNo) (port : PortNo) (g : Nat) (pairs : List StampPair) (far : List Neighbour) (links : List PkgLink) (s : State),
    (∀ y ∈ [(some port, s.reaches VYN_CMD), (none, s.isMaster = false)], y.2 →
      (s.domainOthers ≠ 0 → ∃ t, exec (.dowel y.1) s = .next t ∧ t.bit VYN_SYS_STAT VYN_SYS_STAT_ALIGNED = false ∧
        t.hub = { s.hub with aligning := false } ∧ t = { s with regs := t.regs, hub := t.hub } ∧ s.regsKept t [VYN_SYS_STAT]) ∧
      (s.domainOthers = 0 → exec (.dowel y.1) s = .next s)) ∧
    (pairs.length = 16 → s.bit (VYN_LINK n.val) VYN_LINK_UP = true → s.domainOthers ≠ 0 →
      ∀ θ δ : Int, θ = (pairs.foldl (fun (a : Int) p => a + ((p.t2 - p.t1) - (p.t4 - p.t3))) 0).tdiv 512 →
        δ = (pairs.foldl (fun (a : Int) p => a + ((p.t2 - p.t1) + (p.t4 - p.t3))) 0).tdiv 512 →
      (s.bit VYN_SYS_STAT VYN_SYS_STAT_ALIGNED = true → ∃ t, exec (.alignment n g pairs far) s = .next t ∧
        t.reg (VYN_LINK_DELAY n.val) = BitVec.ofInt 32 δ ∧ t = { s with regs := t.regs } ∧ s.regsKept t [VYN_LINK_DELAY n.val]) ∧
      (s.bit VYN_SYS_STAT VYN_SYS_STAT_ALIGNED = false → g % 64 = 0 → s.running = false → s.isMaster = true →
        ∃ t, exec (.alignment n g pairs far) s = .next t ∧ t.bit VYN_SYS_STAT VYN_SYS_STAT_ALIGNED = true ∧
        t = { s with gt := max s.gt g, regs := t.regs, hub := t.hub } ∧ s.regsKept t [VYN_SYS_STAT]) ∧
      (s.bit VYN_SYS_STAT VYN_SYS_STAT_ALIGNED = false → g % 64 = 0 → s.running = false → s.isMaster = false → s.hub.aligning = false →
        s.isParent n.val far = true → ∃ t, exec (.alignment n g pairs far) s = .next t ∧
        (θ = 0 → t.gt = max s.gt g ∧ t.bit VYN_SYS_STAT VYN_SYS_STAT_ALIGNED = true) ∧
        (θ ≠ 0 → t.gt = ((((max s.gt g % 2 ^ 64 : Nat) : Int) - θ.tdiv 64) % 2 ^ 64).toNat ∧
          t.bit VYN_SYS_STAT VYN_SYS_STAT_ALIGNED = false) ∧
        t.reg VYN_OFFSET = BitVec.ofInt 32 θ ∧ t.reg (VYN_LINK_DELAY n.val) = BitVec.ofInt 32 δ ∧
        t.outs = s.outs ++ [.vyene "DELAY" (s.peerOf n.val) [s.fld (VYN_LINK n.val) VYN_LINK_PEER_LINK, δ.toNat]] ∧
        (θ.tmod 64 ≠ 0 → t.hub.aligning = true ∧ t.hub.phaseErr = θ.tmod 64) ∧
        t.engines = s.engines ∧ t.mem = s.mem ∧ s.regsKept t [VYN_OFFSET, VYN_LINK_DELAY n.val, VYN_SYS_STAT])) ∧
    (s.running = false → s.domainOthers ≠ 0 → s.knowsLinks links = true → ∃ t, exec (.lAdopt g links) s = .next t ∧
      t.reg VYN_L = BitVec.ofNat 32 (linkTerm links) ∧ t.vyn = { s.vyn with joined := false, links := links } ∧
      (∀ r ∈ t.runs, ∃ q ∈ s.runs, r = { q with reports := r.reports, lastReport := r.lastReport }) ∧
      t = { s with gt := max s.gt g, regs := t.regs, vyn := t.vyn, runs := t.runs } ∧ s.regsKept t [VYN_L]) ∧
    (s.running = true → exec (.lAdopt g links) s = .next s) ∧
    (g % 2 ^ 24 = 0 → exec (.syncOutPulse g) s = .next { s with gt := max s.gt g, outs := s.outs ++ [.syncOut g] }) ∧
    (∃ t, exec (.syncInEdge g) s = .next t ∧ t.pair VYN_SYNC_GT_LO VYN_SYNC_GT_HI = g % 2 ^ 64 ∧
      t = { s with gt := max s.gt g, regs := t.regs } ∧ s.regsKept t [VYN_SYNC_GT_LO, VYN_SYNC_GT_HI]))

/-- Table 18-1, R488, R489: with the home here and no request of the line under way, READ_S of another package gets memory's data when the
entry is I or S, and FWD_S goes to another owner; READ_X and UPGRADE send INV to every other sharer and wait for all answers, or grant the
line when there is none; a request for a line whose home serves another one waits. Away from home, the reply of the home fills this
package's cache, in a set that has room without another change, and a poisoned one leaves the line poisoned (R336); with the line owned the
writes that wait for it act (R488, R491). -/
def Obligations.CoherenceRequestsAreServed : Prop :=
  ∀ (r : PkgNo) (l : Nat) (reply : Payload) (d : List Byte) (s : State),
    (s.isHome l = true → s.busyOf l = none → r.val ≠ s.pkgId →
      (∀ m, (s.dirOf l = .s m ∨ (s.dirOf l = .i ∧ m = 0)) → ∃ t, exec (.readS r l reply []) s = .next t ∧ t.dirOf l = .s (setNBit m r.val true) ∧
        t.outs = s.outs ++ [.coherence "DATA_S" r.val l (s.homeData l)] ∧ t.busyOf l = none ∧ (∀ k, k ≠ l → t.dirOf k = s.dirOf k) ∧
        t = { s with dir := t.dir, homeBusy := t.homeBusy, homeWaits := t.homeWaits, outs := t.outs }) ∧
      (∀ o, s.dirOf l = .x o → o ≠ s.pkgId → ∃ t, exec (.readS r l reply []) s = .next t ∧ t.dirOf l = .x o ∧
        t.outs = s.outs ++ [.coherence "FWD_S" o l noData] ∧ t.busyOf l = some { requester := r.val, exclusive := false, toAnswer := 2 ^ o } ∧
        t = { s with homeBusy := t.homeBusy, homeWaits := t.homeWaits, outs := t.outs }) ∧
      (∀ o, s.dirOf l = .x o → o ≠ s.pkgId → ∃ t, exec (.readX r l reply []) s = .next t ∧ t.dirOf l = .x o ∧
        t.outs = s.outs ++ [.coherence "FWD_X" o l noData] ∧ t.busyOf l = some { requester := r.val, exclusive := true, toAnswer := 2 ^ o } ∧
        t = { s with homeBusy := t.homeBusy, homeWaits := t.homeWaits, outs := t.outs }) ∧
      (s.dirOf l = .i → ∃ t, exec (.readX r l reply []) s = .next t ∧ t.dirOf l = .x r.val ∧
        t.outs = s.outs ++ [.coherence "DATA_X" r.val l (s.homeData l)] ∧ (∀ k, k ≠ l → t.dirOf k = s.dirOf k) ∧
        t = { s with dir := t.dir, homeBusy := t.homeBusy, homeWaits := t.homeWaits, outs := t.outs }) ∧
      (∀ m, s.dirOf l = .s m → m < 2 ^ 16 → ∀ others, others = (bitsOf 16 m).filter (fun k => k ≠ r.val ∧ k ≠ s.pkgId) →
        ∀ y ∈ [(Instr.readX r l reply [], false, Output.coherence "DATA_X" r.val l (s.homeData l)),
          (Instr.upgrade r l [], true, Output.coherence "GRANT_X" r.val l noData)], (y.2.1 = true → nbit m r.val = true) →
        ∃ t, exec y.1 s = .next t ∧ (nbit m s.pkgId = true → (t.cline l).st = .i) ∧
          (others = [] → t.dirOf l = .x r.val ∧ t.outs = s.outs ++ [y.2.2] ∧ t.busyOf l = none) ∧
          (others ≠ [] → t.dirOf l = .s m ∧ t.outs = s.outs ++ others.map (fun k => Output.coherence "INV" k l noData) ∧
            ∃ b, t.busyOf l = some b ∧ b.requester = r.val ∧ b.exclusive = true ∧ b.upgrade = y.2.1 ∧ bitsOf 16 b.toAnswer = others) ∧
          (∀ k, k ≠ l → t.dirOf k = s.dirOf k ∧ t.cline k = s.cline k) ∧
          t = { s with
            dir := t.dir, homeBusy := t.homeBusy, homeWaits := t.homeWaits, cache := t.cache, outs := t.outs, poison := t.poison })) ∧
    (s.isHome l = true → s.busyOf l ≠ none →
      ∀ y ∈ [(Instr.readS r l reply [], HomeReq.readS), (.readX r l reply [], .readX), (.upgrade r l [], .upgrade)],
        (HomeWait.mk l r.val y.2 ∈ s.homeWaits → exec y.1 s = .next s) ∧
        (HomeWait.mk l r.val y.2 ∉ s.homeWaits → exec y.1 s = .next { s with homeWaits := s.homeWaits ++ [⟨l, r.val, y.2⟩] })) ∧
    (s.isHome l = false → r.val = s.pkgId → s.present (lineHome l) = true → ∀ st, st = (s.cline l).st →
      (d.length = 64 → st = .i → s.storeWaits l = false →
        ∀ y ∈ [(Instr.readS r l (.data d) [], LineState.s), (.readX r l (.data d) [], .e)],
        ∃ t, exec y.1 s = .next t ∧ t.cline l = { st := y.2, data := d } ∧ t.poisoned (lineAddr l) = false ∧
          ((s.waysTaken l).length < 16 → (∀ k, k ≠ l → t.cline k = s.cline k) ∧ t = { s with cache := t.cache, poison := t.poison })) ∧
      (st = .i → s.storeWaits l = false → ∀ y ∈ [(Instr.readS r l .poisoned [], LineState.s), (.readX r l .poisoned [], .e)],
        ∃ t, exec y.1 s = .next t ∧ (t.cline l).st = y.2 ∧ t.poisoned (lineAddr l) = true ∧
          ((s.waysTaken l).length < 16 → (∀ k, k ≠ l → t.cline k = s.cline k) ∧ t = { s with cache := t.cache, poison := t.poison })) ∧
      (st = .s → s.storeWaits l = false → ∃ t, exec (.upgrade r l []) s = .next t ∧ t.cline l = { s.cline l with st := .e } ∧
        (∀ k, k ≠ l → t.cline k = s.cline k) ∧ t = { s with cache := t.cache }) ∧
      (s.storeWaits l = true → ∀ y ∈ [(Instr.readX r l (.data d) [], st = .i ∧ d.length = 64), (.upgrade r l [], st = .s)], y.2 →
        ∃ t, exec y.1 s = .next t ∧ (t.cline l).st = .m ∧ t.flowStores = s.flowStores.filter (fun x => x.line != l)))

/-- Table 18-1, R490: PUT_M writes memory and leaves the entry I, PUT_E leaves the entry I; a PUT of a package that no longer owns the line is
discarded. An owner answers FWD_S or FWD_X with its data; a cache without the line answers ACK, or tells of its PUT in flight; INV drops a
copy. At the home, with no other request waiting for the line, the data of the answer is written and given to the requester, and after the
last sharer's answer the line is granted. R492: a line whose snoop target is unreachable is poisoned and its entry is I, POISON is written,
and the request that it served is served from there. -/
def Obligations.EvictionsAndSnoopsAreAnswered : Prop :=
  ∀ (p : PkgNo) (l : Nat) (d : List Byte) (answer : SnoopAnswer) (s : State),
    (p.val ≠ s.pkgId → s.isHome l = true → d.length = 64 →
      (s.dirOf l = .x p.val → s.busyOf l = none →
        (∃ t, exec (.putM p l (.data d) []) s = .next t ∧ t.dirOf l = .i ∧ t.homeData l = .data d ∧ (∀ k, k ≠ l → t.dirOf k = s.dirOf k) ∧
          t.outs = s.outs ∧ t.cache = s.cache ∧ t.pins = s.pins ∧ t.engines = s.engines) ∧
        (∃ t, exec (.putE p l []) s = .next t ∧ t.dirOf l = .i ∧ (∀ k, k ≠ l → t.dirOf k = s.dirOf k) ∧ t = { s with dir := t.dir })) ∧
      (s.dirOf l ≠ .x p.val → exec (.putM p l (.data d) []) s = .next s ∧ exec (.putE p l []) s = .next s) ∧
      (∀ b, (∀ w ∈ s.homeWaits, w.line ≠ l) → s.busyOf l = some b → nbit b.toAnswer p.val = true → b.exclusive = true →
        b.requester ≠ s.pkgId → b.upgrade = false →
        (setNBit b.toAnswer p.val false = 0 → ∃ t, exec (.inv p l []) s = .next t ∧ t.dirOf l = .x b.requester ∧ t.busyOf l = none ∧
          t.outs = s.outs ++ [.coherence "DATA_X" b.requester l (s.homeData l)] ∧
          t = { s with dir := t.dir, homeBusy := t.homeBusy, outs := t.outs }) ∧
        (setNBit b.toAnswer p.val false ≠ 0 → ∃ t, exec (.inv p l []) s = .next t ∧
          t.busyOf l = some { b with toAnswer := setNBit b.toAnswer p.val false } ∧ t = { s with homeBusy := t.homeBusy }) ∧
        (s.dirOf l = .x p.val → ∃ t, exec (.fwdX p l (.data (.data d)) []) s = .next t ∧ t.dirOf l = .x b.requester ∧
          t.busyOf l = none ∧ t.homeData l = .data d ∧ t.outs = s.outs ++ [.coherence "DATA_X" b.requester l (.data d)])) ∧
      (∀ b, (∀ w ∈ s.homeWaits, w.line ≠ l) → s.busyOf l = some b → nbit b.toAnswer p.val = true → b.exclusive = false →
        b.requester ≠ s.pkgId → s.dirOf l = .x p.val →
        ∃ t, exec (.fwdS p l (.data (.data d)) []) s = .next t ∧ t.dirOf l = .s (setNBit (2 ^ p.val) b.requester true) ∧
          t.busyOf l = none ∧ t.homeData l = .data d ∧ t.outs = s.outs ++ [.coherence "DATA_S" b.requester l (.data d)])) ∧
    (p.val = s.pkgId → s.isHome l = false → ∀ x, x = s.cline l →
      (x.st = .m → ∃ t, exec (.putM p l (.data d) []) s = .next t ∧ t.cline l = { put := some true } ∧
        t.outs = s.outs ++ [.coherence "PUT_M" (lineHome l) l (s.lineData l)] ∧ (∀ k, k ≠ l → t.cline k = s.cline k) ∧
        t = { s with cache := t.cache, outs := t.outs, poison := t.poison }) ∧
      (x.st = .e → ∃ t, exec (.putE p l []) s = .next t ∧ t.cline l = { put := some false } ∧
        t.outs = s.outs ++ [.coherence "PUT_E" (lineHome l) l noData] ∧ (∀ k, k ≠ l → t.cline k = s.cline k) ∧
        t = { s with cache := t.cache, outs := t.outs, poison := t.poison }) ∧
      (x.st ≠ .i →
        (∃ t, exec (.fwdS p l answer []) s = .next t ∧ t.cline l = { x with st := .s } ∧
          t.outs = s.outs ++ [.coherence "DATA" (lineHome l) l (s.lineData l)] ∧ (∀ k, k ≠ l → t.cline k = s.cline k) ∧
          t = { s with cache := t.cache, outs := t.outs, poison := t.poison }) ∧
        (∃ t, exec (.fwdX p l answer []) s = .next t ∧ t.cline l = {} ∧ t.outs = s.outs ++ [.coherence "DATA" (lineHome l) l (s.lineData l)] ∧
          (∀ k, k ≠ l → t.cline k = s.cline k) ∧ t = { s with cache := t.cache, outs := t.outs, poison := t.poison }) ∧
        (∃ t, exec (.inv p l []) s = .next t ∧ t.cline l = {} ∧ t.outs = s.outs ++ [.coherence "ACK" (lineHome l) l noData] ∧
          (∀ k, k ≠ l → t.cline k = s.cline k) ∧ t = { s with cache := t.cache, outs := t.outs, poison := t.poison })) ∧
      (x.st = .i → ∀ i ∈ [Instr.fwdS p l answer [], .fwdX p l answer [], .inv p l []],
        exec i s = .next (s.send (.coherence (match x.put with
          | some true => "WRITEBACK_IN_FLIGHT"
          | some false => "CLEAN_EVICTION_IN_FLIGHT"
          | none => "ACK") (lineHome l) l noData)))) ∧
    (∀ b u, s.homeBusy = [(l, b)] → nbit b.toAnswer p.val = true → (∀ w ∈ s.homeWaits, w.line ≠ l) →
      u = ((s.setPoison (homeAddr l) true).clearBusy l).setDir l .i →
      u.dirOf l = .i ∧ u.busyOf l = none ∧ u.poisoned (homeAddr l) = true ∧ (∀ k, k ≠ l → u.dirOf k = s.dirOf k) ∧
      (b.requester = p.val → exec (.snoopTargetUnreachable p) s = .next (u.event codePoison 4 8 0 (lineAddr l))) ∧
      (b.requester ≠ p.val → exec (.snoopTargetUnreachable p) s =
        .next ((u.event codePoison 4 8 0 (lineAddr l)).homeServe b.requester l (if b.exclusive then .readX else .readS))))
end

