-- ==== Sys2Proof/Laws/Bits.lean ====
section
/-! SUPPORT. A field read after a field write. -/

namespace Sys2Proof.Machine

/-- A field that lies in a 32-bit register. -/
theorem setF_toNat (w : Word) (f : Fld) (v : Nat) (h : f.lo ≤ f.hi) (k : f.hi < 32) :
    (setF w f v).toNat =
      w.toNat / 2 ^ (f.hi + 1) * 2 ^ (f.hi + 1) + (v % 2 ^ f.width) * 2 ^ f.lo + w.toNat % 2 ^ f.lo := by
  have e : f.hi + 1 = f.lo + f.width := by unfold Fld.width; omega
  have h1 : v % 2 ^ f.width < 2 ^ f.width := Nat.mod_lt _ (Nat.two_pow_pos _)
  have h2 : w.toNat % 2 ^ f.lo < 2 ^ f.lo := Nat.mod_lt _ (Nat.two_pow_pos _)
  have h3 : 2 ^ (f.hi + 1) = 2 ^ f.lo * 2 ^ f.width := by rw [e, Nat.pow_add]
  have h4 : (v % 2 ^ f.width) * 2 ^ f.lo + w.toNat % 2 ^ f.lo < 2 ^ (f.hi + 1) := by
    rw [h3]
    calc (v % 2 ^ f.width) * 2 ^ f.lo + w.toNat % 2 ^ f.lo
        < (v % 2 ^ f.width) * 2 ^ f.lo + 2 ^ f.lo := by omega
      _ = (v % 2 ^ f.width + 1) * 2 ^ f.lo := by rw [Nat.add_mul, Nat.one_mul]
      _ ≤ 2 ^ f.width * 2 ^ f.lo := Nat.mul_le_mul_right _ h1
      _ = 2 ^ f.lo * 2 ^ f.width := Nat.mul_comm _ _
  have h5 : w.toNat < 2 ^ 32 := w.isLt
  have h6 : 2 ^ 32 = 2 ^ (31 - f.hi) * 2 ^ (f.hi + 1) := by rw [← Nat.pow_add]; congr 1; omega
  have h7 : w.toNat / 2 ^ (f.hi + 1) < 2 ^ (31 - f.hi) := by
    rw [Nat.div_lt_iff_lt_mul (Nat.two_pow_pos _), ← h6]; exact h5
  have h8 : w.toNat / 2 ^ (f.hi + 1) * 2 ^ (f.hi + 1) + 2 ^ (f.hi + 1) ≤ 2 ^ 32 := by
    rw [h6]
    calc w.toNat / 2 ^ (f.hi + 1) * 2 ^ (f.hi + 1) + 2 ^ (f.hi + 1)
        = (w.toNat / 2 ^ (f.hi + 1) + 1) * 2 ^ (f.hi + 1) := by rw [Nat.add_mul, Nat.one_mul]
      _ ≤ _ := Nat.mul_le_mul_right _ h7
  unfold setF
  rw [BitVec.toNat_ofNat, Nat.mod_eq_of_lt]
  omega

theorem getF_setF (w : Word) (f : Fld) (v : Nat) (h : f.lo ≤ f.hi) (k : f.hi < 32) :
    getF (setF w f v) f = v % 2 ^ f.width := by
  have e : f.hi + 1 = f.lo + f.width := by unfold Fld.width; omega
  unfold getF
  rw [setF_toNat w f v h k, e, Nat.pow_add, ← Nat.mul_assoc, Nat.mul_right_comm, ← Nat.add_mul,
    Nat.add_comm _ (w.toNat % 2 ^ f.lo), Nat.add_mul_div_right _ _ (Nat.two_pow_pos _),
    Nat.div_eq_of_lt (Nat.mod_lt _ (Nat.two_pow_pos _)), Nat.zero_add, Nat.add_comm, Nat.add_mul_mod_self_right, Nat.mod_mod]

theorem getF_setF_low (w : Word) (f g : Fld) (v : Nat) (h : f.lo ≤ f.hi) (k : f.hi < 32) (hg : g.lo ≤ g.hi) (d : g.hi < f.lo) :
    getF (setF w f v) g = getF w g := by
  have e : f.hi + 1 = f.lo + f.width := by unfold Fld.width; omega
  have eg : g.lo + g.width ≤ f.lo := by unfold Fld.width; omega
  unfold getF
  rw [setF_toNat w f v h k, ← Nat.mod_mul_right_div_self, ← Nat.mod_mul_right_div_self, ← Nat.pow_add]
  congr 1
  obtain ⟨n, hn⟩ := Nat.pow_dvd_pow 2 eg
  have h1 : w.toNat / 2 ^ (f.hi + 1) * 2 ^ (f.hi + 1) + v % 2 ^ f.width * 2 ^ f.lo =
      2 ^ (g.lo + g.width) * (n * (w.toNat / 2 ^ (f.hi + 1) * 2 ^ f.width + v % 2 ^ f.width)) := by
    rw [← Nat.mul_assoc, ← hn, e, Nat.pow_add, Nat.mul_add]
    congr 1
    · rw [Nat.mul_left_comm, Nat.mul_left_comm]
    · rw [Nat.mul_comm]
  rw [h1, Nat.mul_add_mod, Nat.mod_mod_of_dvd _ (Nat.pow_dvd_pow 2 eg)]

theorem getF_setF_high (w : Word) (f g : Fld) (v : Nat) (h : f.lo ≤ f.hi) (k : f.hi < 32) (d : f.hi < g.lo) :
    getF (setF w f v) g = getF w g := by
  have e : f.hi + 1 = f.lo + f.width := by unfold Fld.width; omega
  have h1 : v % 2 ^ f.width < 2 ^ f.width := Nat.mod_lt _ (Nat.two_pow_pos _)
  have h2 : w.toNat % 2 ^ f.lo < 2 ^ f.lo := Nat.mod_lt _ (Nat.two_pow_pos _)
  have h3 : 2 ^ (f.hi + 1) = 2 ^ f.lo * 2 ^ f.width := by rw [e, Nat.pow_add]
  have h4 : (v % 2 ^ f.width) * 2 ^ f.lo + w.toNat % 2 ^ f.lo < 2 ^ (f.hi + 1) := by
    rw [h3]
    calc (v % 2 ^ f.width) * 2 ^ f.lo + w.toNat % 2 ^ f.lo
        < (v % 2 ^ f.width) * 2 ^ f.lo + 2 ^ f.lo := by omega
      _ = (v % 2 ^ f.width + 1) * 2 ^ f.lo := by rw [Nat.add_mul, Nat.one_mul]
      _ ≤ 2 ^ f.width * 2 ^ f.lo := Nat.mul_le_mul_right _ h1
      _ = 2 ^ f.lo * 2 ^ f.width := Nat.mul_comm _ _
  have h5 : 2 ^ g.lo = 2 ^ (f.hi + 1) * 2 ^ (g.lo - (f.hi + 1)) := by rw [← Nat.pow_add]; congr 1; omega
  unfold getF
  rw [setF_toNat w f v h k, h5, ← Nat.div_div_eq_div_mul, ← Nat.div_div_eq_div_mul, Nat.add_assoc, Nat.add_comm,
    Nat.add_mul_div_right _ _ (Nat.two_pow_pos _), Nat.div_eq_of_lt h4, Nat.zero_add]

/-- Two fields of a register share no bit. -/
def Fld.apart (f g : Fld) : Bool := decide (f.lo ≤ f.hi) && decide (f.hi < 32) && decide (g.lo ≤ g.hi) &&
  (decide (g.hi < f.lo) || decide (f.hi < g.lo))

theorem getF_setF_apart (w : Word) (f g : Fld) (v : Nat) (h : f.apart g = true) : getF (setF w f v) g = getF w g := by
  simp only [Fld.apart, Bool.and_eq_true, Bool.or_eq_true, decide_eq_true_eq] at h
  obtain ⟨⟨⟨a, b⟩, c⟩, d | d⟩ := h
  · exact getF_setF_low w f g v a b c d
  · exact getF_setF_high w f g v a b d

end Sys2Proof.Machine
end

