-- ==== Sys2Proof/Laws/Tbl.lean ====
section
/-! SUPPORT. Laws of sparse tables: a read after a write, and the canonical form kept by every operation. -/

namespace Sys2Proof.Machine

section
variable {α : Type}

theorem tget_tdel_same (d : Nat → α) (t : Tbl α) (n : Nat) : tget d (tdel t n) n = d n := by
  induction t with
  | nil => rfl
  | cons x t ih =>
    obtain ⟨k, v⟩ := x
    by_cases h : k = n
    · simp [tdel, h, ih]
    · simp [tdel, tget, h, ih]

theorem tget_tdel_ne (d : Nat → α) (t : Tbl α) {n m : Nat} (h : n ≠ m) : tget d (tdel t n) m = tget d t m := by
  induction t with
  | nil => rfl
  | cons x t ih =>
    obtain ⟨k, v⟩ := x
    by_cases hk : k = n
    · subst hk; simp [tdel, tget, h, ih]
    · by_cases hm : k = m
      · subst hm; simp [tdel, tget, hk]
      · simp [tdel, tget, hk, hm, ih]

theorem tget_tins_same (d : Nat → α) (t : Tbl α) (n : Nat) (x : α) (h : ∀ y ∈ t, y.1 ≠ n) : tget d (tins t n x) n = x := by
  induction t with
  | nil => simp [tins, tget]
  | cons y t ih =>
    obtain ⟨k, v⟩ := y
    have hk : k ≠ n := h (k, v) (by simp)
    by_cases hl : k < n
    · simp [tins, tget, hl, hk, ih (fun y hy => h y (by simp [hy]))]
    · simp [tins, tget, hl]

theorem tget_tins_ne (d : Nat → α) (t : Tbl α) {n m : Nat} (x : α) (h : n ≠ m) : tget d (tins t n x) m = tget d t m := by
  induction t with
  | nil => simp [tins, tget, h]
  | cons y t ih =>
    obtain ⟨k, v⟩ := y
    by_cases hl : k < n
    · by_cases hm : k = m
      · subst hm; simp [tins, tget, hl]
      · simp [tins, tget, hl, hm, ih]
    · simp [tins, tget, hl, h]

theorem tdel_keys (t : Tbl α) (n : Nat) : ∀ y ∈ tdel t n, y.1 ≠ n := by
  induction t with
  | nil => simp [tdel]
  | cons x t ih =>
    obtain ⟨k, v⟩ := x
    by_cases h : k = n
    · simpa [tdel, h] using ih
    · intro y hy
      simp only [tdel, h, if_false, List.mem_cons] at hy
      rcases hy with rfl | hy
      · exact h
      · exact ih y hy

variable [DecidableEq α]

/-- A read of the key that was written gives what was written. -/
@[simp] theorem tget_tput_same (d : Nat → α) (t : Tbl α) (n : Nat) (x : α) : tget d (tput d t n x) n = x := by
  unfold tput
  split
  · next h => rw [tget_tdel_same, h]
  · exact tget_tins_same d _ n x (tdel_keys t n)

/-- A write leaves every other key alone. -/
theorem tget_tput_ne (d : Nat → α) (t : Tbl α) {n m : Nat} (x : α) (h : n ≠ m) : tget d (tput d t n x) m = tget d t m := by
  unfold tput
  split
  · exact tget_tdel_ne d t h
  · rw [tget_tins_ne d _ x h, tget_tdel_ne d t h]

/-! The canonical form. -/

/-- All keys lie above a bound. -/
def above (b : Option Nat) (n : Nat) : Prop := match b with
  | none => True
  | some m => m < n

theorem twfFrom_cons (d : Nat → α) (b : Option Nat) (k : Nat) (v : α) (t : Tbl α) :
    twfFrom d b ((k, v) :: t) = true ↔ above b k ∧ v ≠ d k ∧ twfFrom d (some k) t = true := by
  cases b <;> simp [twfFrom, above, and_assoc]

theorem twfFrom_mono (d : Nat → α) {b : Option Nat} {k : Nat} (hb : above b k) (t : Tbl α)
    (h : twfFrom d (some k) t = true) : twfFrom d b t = true := by
  cases t with
  | nil => rfl
  | cons x t =>
    obtain ⟨m, v⟩ := x
    rw [twfFrom_cons] at h ⊢
    refine ⟨?_, h.2⟩
    cases b with
    | none => trivial
    | some j => exact Nat.lt_trans hb h.1

theorem twfFrom_filter (d : Nat → α) (p : Nat × α → Bool) (t : Tbl α) :
    ∀ b, twfFrom d b t = true → twfFrom d b (t.filter p) = true := by
  induction t with
  | nil => intro b h; exact h
  | cons x t ih =>
    intro b h
    obtain ⟨k, v⟩ := x
    rw [twfFrom_cons] at h
    by_cases hp : p (k, v) = true
    · rw [List.filter_cons_of_pos hp, twfFrom_cons]
      exact ⟨h.1, h.2.1, ih _ h.2.2⟩
    · rw [List.filter_cons_of_neg hp]
      exact ih _ (twfFrom_mono d h.1 t h.2.2)

theorem twfFrom_tdel (d : Nat → α) (n : Nat) (t : Tbl α) : ∀ b, twfFrom d b t = true → twfFrom d b (tdel t n) = true := by
  induction t with
  | nil => intro b h; exact h
  | cons x t ih =>
    intro b h
    obtain ⟨k, v⟩ := x
    rw [twfFrom_cons] at h
    by_cases hk : k = n
    · simp only [tdel, hk, if_true]
      exact ih _ (twfFrom_mono d h.1 t h.2.2)
    · simp only [tdel, hk, if_false, twfFrom_cons]
      exact ⟨h.1, h.2.1, ih _ h.2.2⟩

theorem twfFrom_tins (d : Nat → α) (n : Nat) (x : α) (hx : x ≠ d n) (t : Tbl α) (hn : ∀ y ∈ t, y.1 ≠ n) :
    ∀ b, above b n → twfFrom d b t = true → twfFrom d b (tins t n x) = true := by
  induction t with
  | nil => intro b hb _; simp only [tins, twfFrom_cons]; exact ⟨hb, hx, rfl⟩
  | cons y t ih =>
    intro b hb h
    obtain ⟨k, v⟩ := y
    have hk : k ≠ n := hn (k, v) (by simp)
    by_cases hl : k < n
    · rw [twfFrom_cons] at h
      simp only [tins, hl, if_true, twfFrom_cons]
      exact ⟨h.1, h.2.1, ih (fun y hy => hn y (by simp [hy])) (some k) hl h.2.2⟩
    · simp only [tins, hl, if_false]
      rw [twfFrom_cons]
      refine ⟨hb, hx, ?_⟩
      rw [twfFrom_cons] at h ⊢
      exact ⟨by show n < k; omega, h.2⟩

/-- A write keeps the canonical form. -/
theorem twf_tput (d : Nat → α) (t : Tbl α) (n : Nat) (x : α) (h : twf d t = true) : twf d (tput d t n x) = true := by
  unfold tput
  split
  · exact twfFrom_tdel d n t none h
  · next hx => exact twfFrom_tins d n x hx _ (tdel_keys t n) none trivial (twfFrom_tdel d n t none h)

/-- Writes of consecutive keys keep the canonical form. -/
theorem twf_tputs (d : Nat → α) (l : List α) : ∀ (t : Tbl α) (n : Nat), twf d t = true → twf d (tputs d t n l) = true := by
  induction l with
  | nil => intro t n h; exact h
  | cons x l ih => intro t n h; exact ih _ _ (twf_tput d t n x h)

/-- Entries left out keep the canonical form. -/
theorem twf_filter (d : Nat → α) (p : Nat × α → Bool) (t : Tbl α) (h : twf d t = true) : twf d (t.filter p) = true :=
  twfFrom_filter d p t none h

/-- A table changed entry by entry is canonical. -/
theorem twf_tmap (d : Nat → α) (f : α → α) (t : Tbl α) : twf d (tmap d f t) = true := by
  unfold tmap
  suffices h : ∀ u : Tbl α, twf d u = true → twf d (t.foldl (fun u x => tput d u x.1 (f x.2)) u) = true from h [] rfl
  induction t with
  | nil => intro u h; exact h
  | cons x t ih => intro u h; exact ih _ (twf_tput d u x.1 (f x.2) h)

end

/-! Rising keys alone. -/

section
variable {α : Type}

theorem risingFrom_cons (b : Option Nat) (x : Nat × α) (t : Tbl α) :
    risingFrom b (x :: t) = true ↔ above b x.1 ∧ risingFrom (some x.1) t = true := by
  cases b <;> simp [risingFrom, above]

theorem risingFrom_mono {b : Option Nat} {k : Nat} (hb : above b k) (t : Tbl α) (h : risingFrom (some k) t = true) :
    risingFrom b t = true := by
  cases t with
  | nil => cases b <;> rfl
  | cons x t =>
    rw [risingFrom_cons] at h ⊢
    refine ⟨?_, h.2⟩
    cases b with
    | none => trivial
    | some j => exact Nat.lt_trans hb h.1

theorem risingFrom_tdel (n : Nat) (t : Tbl α) : ∀ b, risingFrom b t = true → risingFrom b (tdel t n) = true := by
  induction t with
  | nil => intro b h; exact h
  | cons x t ih =>
    intro b h
    obtain ⟨k, v⟩ := x
    rw [risingFrom_cons] at h
    by_cases hk : k = n
    · simp only [tdel, hk, if_true]; exact ih _ (risingFrom_mono h.1 t h.2)
    · simp only [tdel, hk, if_false]; exact (risingFrom_cons b (k, v) _).2 ⟨h.1, ih _ h.2⟩

theorem risingFrom_tins (n : Nat) (x : α) (t : Tbl α) (hn : ∀ y ∈ t, y.1 ≠ n) :
    ∀ b, above b n → risingFrom b t = true → risingFrom b (tins t n x) = true := by
  induction t with
  | nil => intro b hb _; simp only [tins]; exact (risingFrom_cons b (n, x) _).2 ⟨hb, rfl⟩
  | cons y t ih =>
    intro b hb h
    obtain ⟨k, v⟩ := y
    have hk : k ≠ n := hn (k, v) (by simp)
    rw [risingFrom_cons] at h
    by_cases hl : k < n
    · simp only [tins, hl, if_true]
      exact (risingFrom_cons b (k, v) _).2 ⟨h.1, ih (fun y hy => hn y (by simp [hy])) (some k) hl h.2⟩
    · simp only [tins, hl, if_false]
      exact (risingFrom_cons b (n, x) _).2 ⟨hb, (risingFrom_cons _ (k, v) _).2 ⟨by show n < k; omega, h.2⟩⟩

end

end Sys2Proof.Machine
end

