-- ==== Sys2Proof/Laws/State.lean ====
section
/-! SUPPORT. What each named operation on State leaves as it was, and what it writes. -/

namespace Sys2Proof.Machine

variable (s : State)

/-! setPin -/

@[simp] theorem State.setPin_pending (p : Nat) (x : PinSt) : (s.setPin p x).pending = s.pending := by rfl
@[simp] theorem State.setPin_logWait (p : Nat) (x : PinSt) : (s.setPin p x).logWait = s.logWait := by rfl
@[simp] theorem State.setPin_flowStores (p : Nat) (x : PinSt) : (s.setPin p x).flowStores = s.flowStores := by rfl
@[simp] theorem State.setPin_gt (p : Nat) (x : PinSt) : (s.setPin p x).gt = s.gt := by rfl
@[simp] theorem State.setPin_inFlight (p : Nat) (x : PinSt) : (s.setPin p x).inFlight = s.inFlight := by rfl
@[simp] theorem State.setPin_free (p : Nat) (x : PinSt) : (s.setPin p x).free = s.free := by rfl
@[simp] theorem State.setPin_outs (p : Nat) (x : PinSt) : (s.setPin p x).outs = s.outs := by rfl
@[simp] theorem State.setPin_runs (p : Nat) (x : PinSt) : (s.setPin p x).runs = s.runs := by rfl
@[simp] theorem State.setPin_hub (p : Nat) (x : PinSt) : (s.setPin p x).hub = s.hub := by rfl
@[simp] theorem State.setPin_boot (p : Nat) (x : PinSt) : (s.setPin p x).boot = s.boot := by rfl
@[simp] theorem State.setPin_vyn (p : Nat) (x : PinSt) : (s.setPin p x).vyn = s.vyn := by rfl
@[simp] theorem State.setPin_bench (p : Nat) (x : PinSt) : (s.setPin p x).bench = s.bench := by rfl
@[simp] theorem State.setPin_flash (p : Nat) (x : PinSt) : (s.setPin p x).flash = s.flash := by rfl
@[simp] theorem State.setPin_fuses (p : Nat) (x : PinSt) : (s.setPin p x).fuses = s.fuses := by rfl
@[simp] theorem State.setPin_mem (p : Nat) (x : PinSt) : (s.setPin p x).mem = s.mem := by rfl
@[simp] theorem State.setPin_cl (p : Nat) (x : PinSt) (k : Nat) : (s.setPin p x).cl k = s.cl k := by rfl
@[simp] theorem State.setPin_eng (p : Nat) (x : PinSt) (k : Nat) : (s.setPin p x).eng k = s.eng k := by rfl
@[simp] theorem State.setPin_dig (p : Nat) (x : PinSt) (k : Nat) : (s.setPin p x).dig k = s.dig k := by rfl
@[simp] theorem State.setPin_rg (p : Nat) (x : PinSt) (k : Nat) : (s.setPin p x).rg k = s.rg k := by rfl
@[simp] theorem State.setPin_chan (p : Nat) (x : PinSt) (k : Nat) : (s.setPin p x).chan k = s.chan k := by rfl
@[simp] theorem State.setPin_ring (p : Nat) (x : PinSt) (k : Nat) : (s.setPin p x).ring k = s.ring k := by rfl
@[simp] theorem State.setPin_flow (p : Nat) (x : PinSt) (k : Nat) : (s.setPin p x).flow k = s.flow k := by rfl
@[simp] theorem State.setPin_site (p : Nat) (x : PinSt) (k : Nat) : (s.setPin p x).site k = s.site k := by rfl
@[simp] theorem State.setPin_port (p : Nat) (x : PinSt) (k : Nat) : (s.setPin p x).port k = s.port k := by rfl
@[simp] theorem State.setPin_flag (p : Nat) (x : PinSt) (k : Nat) : (s.setPin p x).flag k = s.flag k := by rfl
@[simp] theorem State.setPin_reg (p : Nat) (x : PinSt) (k : Nat) : (s.setPin p x).reg k = s.reg k := by rfl
@[simp] theorem State.setPin_fld (p : Nat) (x : PinSt) (k : Nat) (g : Fld) : (s.setPin p x).fld k g = s.fld k g := by rfl
@[simp] theorem State.setPin_bit (p : Nat) (x : PinSt) (k : Nat) (g : Fld) : (s.setPin p x).bit k g = s.bit k g := by rfl
@[simp] theorem State.setPin_inForce (p : Nat) (x : PinSt) (k : Nat) : (s.setPin p x).inForce k = s.inForce k := by rfl
@[simp] theorem State.setPin_poisoned (p : Nat) (x : PinSt) (k : Nat) : (s.setPin p x).poisoned k = s.poisoned k := by rfl
@[simp] theorem State.setPin_cline (p : Nat) (x : PinSt) (k : Nat) : (s.setPin p x).cline k = s.cline k := by rfl
@[simp] theorem State.setPin_dirOf (p : Nat) (x : PinSt) (k : Nat) : (s.setPin p x).dirOf k = s.dirOf k := by rfl
@[simp] theorem State.setPin_coding (p : Nat) (x : PinSt) (k : Nat) : (s.setPin p x).coding k = s.coding k := by rfl
@[simp] theorem State.setPin_fencedAt (p : Nat) (x : PinSt) (k : Nat) : (s.setPin p x).fencedAt k = s.fencedAt k := by rfl
@[simp] theorem State.setPin_writeBarred (p : Nat) (x : PinSt) (k : Nat) : (s.setPin p x).writeBarred k = s.writeBarred k := by rfl

/-! updPin -/

@[simp] theorem State.updPin_pending (p : Nat) (f : PinSt → PinSt) : (s.updPin p f).pending = s.pending := by rfl
@[simp] theorem State.updPin_logWait (p : Nat) (f : PinSt → PinSt) : (s.updPin p f).logWait = s.logWait := by rfl
@[simp] theorem State.updPin_flowStores (p : Nat) (f : PinSt → PinSt) : (s.updPin p f).flowStores = s.flowStores := by rfl
@[simp] theorem State.updPin_gt (p : Nat) (f : PinSt → PinSt) : (s.updPin p f).gt = s.gt := by rfl
@[simp] theorem State.updPin_inFlight (p : Nat) (f : PinSt → PinSt) : (s.updPin p f).inFlight = s.inFlight := by rfl
@[simp] theorem State.updPin_free (p : Nat) (f : PinSt → PinSt) : (s.updPin p f).free = s.free := by rfl
@[simp] theorem State.updPin_outs (p : Nat) (f : PinSt → PinSt) : (s.updPin p f).outs = s.outs := by rfl
@[simp] theorem State.updPin_runs (p : Nat) (f : PinSt → PinSt) : (s.updPin p f).runs = s.runs := by rfl
@[simp] theorem State.updPin_hub (p : Nat) (f : PinSt → PinSt) : (s.updPin p f).hub = s.hub := by rfl
@[simp] theorem State.updPin_boot (p : Nat) (f : PinSt → PinSt) : (s.updPin p f).boot = s.boot := by rfl
@[simp] theorem State.updPin_vyn (p : Nat) (f : PinSt → PinSt) : (s.updPin p f).vyn = s.vyn := by rfl
@[simp] theorem State.updPin_bench (p : Nat) (f : PinSt → PinSt) : (s.updPin p f).bench = s.bench := by rfl
@[simp] theorem State.updPin_flash (p : Nat) (f : PinSt → PinSt) : (s.updPin p f).flash = s.flash := by rfl
@[simp] theorem State.updPin_fuses (p : Nat) (f : PinSt → PinSt) : (s.updPin p f).fuses = s.fuses := by rfl
@[simp] theorem State.updPin_mem (p : Nat) (f : PinSt → PinSt) : (s.updPin p f).mem = s.mem := by rfl
@[simp] theorem State.updPin_cl (p : Nat) (f : PinSt → PinSt) (k : Nat) : (s.updPin p f).cl k = s.cl k := by rfl
@[simp] theorem State.updPin_eng (p : Nat) (f : PinSt → PinSt) (k : Nat) : (s.updPin p f).eng k = s.eng k := by rfl
@[simp] theorem State.updPin_dig (p : Nat) (f : PinSt → PinSt) (k : Nat) : (s.updPin p f).dig k = s.dig k := by rfl
@[simp] theorem State.updPin_rg (p : Nat) (f : PinSt → PinSt) (k : Nat) : (s.updPin p f).rg k = s.rg k := by rfl
@[simp] theorem State.updPin_chan (p : Nat) (f : PinSt → PinSt) (k : Nat) : (s.updPin p f).chan k = s.chan k := by rfl
@[simp] theorem State.updPin_ring (p : Nat) (f : PinSt → PinSt) (k : Nat) : (s.updPin p f).ring k = s.ring k := by rfl
@[simp] theorem State.updPin_flow (p : Nat) (f : PinSt → PinSt) (k : Nat) : (s.updPin p f).flow k = s.flow k := by rfl
@[simp] theorem State.updPin_site (p : Nat) (f : PinSt → PinSt) (k : Nat) : (s.updPin p f).site k = s.site k := by rfl
@[simp] theorem State.updPin_port (p : Nat) (f : PinSt → PinSt) (k : Nat) : (s.updPin p f).port k = s.port k := by rfl
@[simp] theorem State.updPin_flag (p : Nat) (f : PinSt → PinSt) (k : Nat) : (s.updPin p f).flag k = s.flag k := by rfl
@[simp] theorem State.updPin_reg (p : Nat) (f : PinSt → PinSt) (k : Nat) : (s.updPin p f).reg k = s.reg k := by rfl
@[simp] theorem State.updPin_fld (p : Nat) (f : PinSt → PinSt) (k : Nat) (g : Fld) : (s.updPin p f).fld k g = s.fld k g := by rfl
@[simp] theorem State.updPin_bit (p : Nat) (f : PinSt → PinSt) (k : Nat) (g : Fld) : (s.updPin p f).bit k g = s.bit k g := by rfl
@[simp] theorem State.updPin_inForce (p : Nat) (f : PinSt → PinSt) (k : Nat) : (s.updPin p f).inForce k = s.inForce k := by rfl
@[simp] theorem State.updPin_poisoned (p : Nat) (f : PinSt → PinSt) (k : Nat) : (s.updPin p f).poisoned k = s.poisoned k := by rfl
@[simp] theorem State.updPin_cline (p : Nat) (f : PinSt → PinSt) (k : Nat) : (s.updPin p f).cline k = s.cline k := by rfl
@[simp] theorem State.updPin_dirOf (p : Nat) (f : PinSt → PinSt) (k : Nat) : (s.updPin p f).dirOf k = s.dirOf k := by rfl
@[simp] theorem State.updPin_coding (p : Nat) (f : PinSt → PinSt) (k : Nat) : (s.updPin p f).coding k = s.coding k := by rfl
@[simp] theorem State.updPin_fencedAt (p : Nat) (f : PinSt → PinSt) (k : Nat) : (s.updPin p f).fencedAt k = s.fencedAt k := by rfl
@[simp] theorem State.updPin_writeBarred (p : Nat) (f : PinSt → PinSt) (k : Nat) :
    (s.updPin p f).writeBarred k = s.writeBarred k := by rfl

/-! setCl -/

@[simp] theorem State.setCl_pending (c : Nat) (x : ClSt) : (s.setCl c x).pending = s.pending := by rfl
@[simp] theorem State.setCl_logWait (c : Nat) (x : ClSt) : (s.setCl c x).logWait = s.logWait := by rfl
@[simp] theorem State.setCl_flowStores (c : Nat) (x : ClSt) : (s.setCl c x).flowStores = s.flowStores := by rfl
@[simp] theorem State.setCl_gt (c : Nat) (x : ClSt) : (s.setCl c x).gt = s.gt := by rfl
@[simp] theorem State.setCl_inFlight (c : Nat) (x : ClSt) : (s.setCl c x).inFlight = s.inFlight := by rfl
@[simp] theorem State.setCl_free (c : Nat) (x : ClSt) : (s.setCl c x).free = s.free := by rfl
@[simp] theorem State.setCl_outs (c : Nat) (x : ClSt) : (s.setCl c x).outs = s.outs := by rfl
@[simp] theorem State.setCl_runs (c : Nat) (x : ClSt) : (s.setCl c x).runs = s.runs := by rfl
@[simp] theorem State.setCl_hub (c : Nat) (x : ClSt) : (s.setCl c x).hub = s.hub := by rfl
@[simp] theorem State.setCl_boot (c : Nat) (x : ClSt) : (s.setCl c x).boot = s.boot := by rfl
@[simp] theorem State.setCl_vyn (c : Nat) (x : ClSt) : (s.setCl c x).vyn = s.vyn := by rfl
@[simp] theorem State.setCl_bench (c : Nat) (x : ClSt) : (s.setCl c x).bench = s.bench := by rfl
@[simp] theorem State.setCl_flash (c : Nat) (x : ClSt) : (s.setCl c x).flash = s.flash := by rfl
@[simp] theorem State.setCl_fuses (c : Nat) (x : ClSt) : (s.setCl c x).fuses = s.fuses := by rfl
@[simp] theorem State.setCl_mem (c : Nat) (x : ClSt) : (s.setCl c x).mem = s.mem := by rfl
@[simp] theorem State.setCl_pin (c : Nat) (x : ClSt) (k : Nat) : (s.setCl c x).pin k = s.pin k := by rfl
@[simp] theorem State.setCl_eng (c : Nat) (x : ClSt) (k : Nat) : (s.setCl c x).eng k = s.eng k := by rfl
@[simp] theorem State.setCl_dig (c : Nat) (x : ClSt) (k : Nat) : (s.setCl c x).dig k = s.dig k := by rfl
@[simp] theorem State.setCl_rg (c : Nat) (x : ClSt) (k : Nat) : (s.setCl c x).rg k = s.rg k := by rfl
@[simp] theorem State.setCl_chan (c : Nat) (x : ClSt) (k : Nat) : (s.setCl c x).chan k = s.chan k := by rfl
@[simp] theorem State.setCl_ring (c : Nat) (x : ClSt) (k : Nat) : (s.setCl c x).ring k = s.ring k := by rfl
@[simp] theorem State.setCl_flow (c : Nat) (x : ClSt) (k : Nat) : (s.setCl c x).flow k = s.flow k := by rfl
@[simp] theorem State.setCl_site (c : Nat) (x : ClSt) (k : Nat) : (s.setCl c x).site k = s.site k := by rfl
@[simp] theorem State.setCl_port (c : Nat) (x : ClSt) (k : Nat) : (s.setCl c x).port k = s.port k := by rfl
@[simp] theorem State.setCl_flag (c : Nat) (x : ClSt) (k : Nat) : (s.setCl c x).flag k = s.flag k := by rfl
@[simp] theorem State.setCl_reg (c : Nat) (x : ClSt) (k : Nat) : (s.setCl c x).reg k = s.reg k := by rfl
@[simp] theorem State.setCl_fld (c : Nat) (x : ClSt) (k : Nat) (g : Fld) : (s.setCl c x).fld k g = s.fld k g := by rfl
@[simp] theorem State.setCl_bit (c : Nat) (x : ClSt) (k : Nat) (g : Fld) : (s.setCl c x).bit k g = s.bit k g := by rfl
@[simp] theorem State.setCl_inForce (c : Nat) (x : ClSt) (k : Nat) : (s.setCl c x).inForce k = s.inForce k := by rfl
@[simp] theorem State.setCl_poisoned (c : Nat) (x : ClSt) (k : Nat) : (s.setCl c x).poisoned k = s.poisoned k := by rfl
@[simp] theorem State.setCl_cline (c : Nat) (x : ClSt) (k : Nat) : (s.setCl c x).cline k = s.cline k := by rfl
@[simp] theorem State.setCl_dirOf (c : Nat) (x : ClSt) (k : Nat) : (s.setCl c x).dirOf k = s.dirOf k := by rfl
@[simp] theorem State.setCl_coding (c : Nat) (x : ClSt) (k : Nat) : (s.setCl c x).coding k = s.coding k := by rfl
@[simp] theorem State.setCl_fencedAt (c : Nat) (x : ClSt) (k : Nat) : (s.setCl c x).fencedAt k = s.fencedAt k := by rfl
@[simp] theorem State.setCl_writeBarred (c : Nat) (x : ClSt) (k : Nat) : (s.setCl c x).writeBarred k = s.writeBarred k := by rfl

/-! updCl -/

@[simp] theorem State.updCl_pending (c : Nat) (f : ClSt → ClSt) : (s.updCl c f).pending = s.pending := by rfl
@[simp] theorem State.updCl_logWait (c : Nat) (f : ClSt → ClSt) : (s.updCl c f).logWait = s.logWait := by rfl
@[simp] theorem State.updCl_flowStores (c : Nat) (f : ClSt → ClSt) : (s.updCl c f).flowStores = s.flowStores := by rfl
@[simp] theorem State.updCl_gt (c : Nat) (f : ClSt → ClSt) : (s.updCl c f).gt = s.gt := by rfl
@[simp] theorem State.updCl_inFlight (c : Nat) (f : ClSt → ClSt) : (s.updCl c f).inFlight = s.inFlight := by rfl
@[simp] theorem State.updCl_free (c : Nat) (f : ClSt → ClSt) : (s.updCl c f).free = s.free := by rfl
@[simp] theorem State.updCl_outs (c : Nat) (f : ClSt → ClSt) : (s.updCl c f).outs = s.outs := by rfl
@[simp] theorem State.updCl_runs (c : Nat) (f : ClSt → ClSt) : (s.updCl c f).runs = s.runs := by rfl
@[simp] theorem State.updCl_hub (c : Nat) (f : ClSt → ClSt) : (s.updCl c f).hub = s.hub := by rfl
@[simp] theorem State.updCl_boot (c : Nat) (f : ClSt → ClSt) : (s.updCl c f).boot = s.boot := by rfl
@[simp] theorem State.updCl_vyn (c : Nat) (f : ClSt → ClSt) : (s.updCl c f).vyn = s.vyn := by rfl
@[simp] theorem State.updCl_bench (c : Nat) (f : ClSt → ClSt) : (s.updCl c f).bench = s.bench := by rfl
@[simp] theorem State.updCl_flash (c : Nat) (f : ClSt → ClSt) : (s.updCl c f).flash = s.flash := by rfl
@[simp] theorem State.updCl_fuses (c : Nat) (f : ClSt → ClSt) : (s.updCl c f).fuses = s.fuses := by rfl
@[simp] theorem State.updCl_mem (c : Nat) (f : ClSt → ClSt) : (s.updCl c f).mem = s.mem := by rfl
@[simp] theorem State.updCl_pin (c : Nat) (f : ClSt → ClSt) (k : Nat) : (s.updCl c f).pin k = s.pin k := by rfl
@[simp] theorem State.updCl_eng (c : Nat) (f : ClSt → ClSt) (k : Nat) : (s.updCl c f).eng k = s.eng k := by rfl
@[simp] theorem State.updCl_dig (c : Nat) (f : ClSt → ClSt) (k : Nat) : (s.updCl c f).dig k = s.dig k := by rfl
@[simp] theorem State.updCl_rg (c : Nat) (f : ClSt → ClSt) (k : Nat) : (s.updCl c f).rg k = s.rg k := by rfl
@[simp] theorem State.updCl_chan (c : Nat) (f : ClSt → ClSt) (k : Nat) : (s.updCl c f).chan k = s.chan k := by rfl
@[simp] theorem State.updCl_ring (c : Nat) (f : ClSt → ClSt) (k : Nat) : (s.updCl c f).ring k = s.ring k := by rfl
@[simp] theorem State.updCl_flow (c : Nat) (f : ClSt → ClSt) (k : Nat) : (s.updCl c f).flow k = s.flow k := by rfl
@[simp] theorem State.updCl_site (c : Nat) (f : ClSt → ClSt) (k : Nat) : (s.updCl c f).site k = s.site k := by rfl
@[simp] theorem State.updCl_port (c : Nat) (f : ClSt → ClSt) (k : Nat) : (s.updCl c f).port k = s.port k := by rfl
@[simp] theorem State.updCl_flag (c : Nat) (f : ClSt → ClSt) (k : Nat) : (s.updCl c f).flag k = s.flag k := by rfl
@[simp] theorem State.updCl_reg (c : Nat) (f : ClSt → ClSt) (k : Nat) : (s.updCl c f).reg k = s.reg k := by rfl
@[simp] theorem State.updCl_fld (c : Nat) (f : ClSt → ClSt) (k : Nat) (g : Fld) : (s.updCl c f).fld k g = s.fld k g := by rfl
@[simp] theorem State.updCl_bit (c : Nat) (f : ClSt → ClSt) (k : Nat) (g : Fld) : (s.updCl c f).bit k g = s.bit k g := by rfl
@[simp] theorem State.updCl_inForce (c : Nat) (f : ClSt → ClSt) (k : Nat) : (s.updCl c f).inForce k = s.inForce k := by rfl
@[simp] theorem State.updCl_poisoned (c : Nat) (f : ClSt → ClSt) (k : Nat) : (s.updCl c f).poisoned k = s.poisoned k := by rfl
@[simp] theorem State.updCl_cline (c : Nat) (f : ClSt → ClSt) (k : Nat) : (s.updCl c f).cline k = s.cline k := by rfl
@[simp] theorem State.updCl_dirOf (c : Nat) (f : ClSt → ClSt) (k : Nat) : (s.updCl c f).dirOf k = s.dirOf k := by rfl
@[simp] theorem State.updCl_coding (c : Nat) (f : ClSt → ClSt) (k : Nat) : (s.updCl c f).coding k = s.coding k := by rfl
@[simp] theorem State.updCl_fencedAt (c : Nat) (f : ClSt → ClSt) (k : Nat) : (s.updCl c f).fencedAt k = s.fencedAt k := by rfl
@[simp] theorem State.updCl_writeBarred (c : Nat) (f : ClSt → ClSt) (k : Nat) :
    (s.updCl c f).writeBarred k = s.writeBarred k := by rfl

/-! setEng -/

@[simp] theorem State.setEng_pending (e : Nat) (x : EngSt) : (s.setEng e x).pending = s.pending := by rfl
@[simp] theorem State.setEng_logWait (e : Nat) (x : EngSt) : (s.setEng e x).logWait = s.logWait := by rfl
@[simp] theorem State.setEng_flowStores (e : Nat) (x : EngSt) : (s.setEng e x).flowStores = s.flowStores := by rfl
@[simp] theorem State.setEng_gt (e : Nat) (x : EngSt) : (s.setEng e x).gt = s.gt := by rfl
@[simp] theorem State.setEng_inFlight (e : Nat) (x : EngSt) : (s.setEng e x).inFlight = s.inFlight := by rfl
@[simp] theorem State.setEng_free (e : Nat) (x : EngSt) : (s.setEng e x).free = s.free := by rfl
@[simp] theorem State.setEng_outs (e : Nat) (x : EngSt) : (s.setEng e x).outs = s.outs := by rfl
@[simp] theorem State.setEng_runs (e : Nat) (x : EngSt) : (s.setEng e x).runs = s.runs := by rfl
@[simp] theorem State.setEng_hub (e : Nat) (x : EngSt) : (s.setEng e x).hub = s.hub := by rfl
@[simp] theorem State.setEng_boot (e : Nat) (x : EngSt) : (s.setEng e x).boot = s.boot := by rfl
@[simp] theorem State.setEng_vyn (e : Nat) (x : EngSt) : (s.setEng e x).vyn = s.vyn := by rfl
@[simp] theorem State.setEng_bench (e : Nat) (x : EngSt) : (s.setEng e x).bench = s.bench := by rfl
@[simp] theorem State.setEng_flash (e : Nat) (x : EngSt) : (s.setEng e x).flash = s.flash := by rfl
@[simp] theorem State.setEng_fuses (e : Nat) (x : EngSt) : (s.setEng e x).fuses = s.fuses := by rfl
@[simp] theorem State.setEng_mem (e : Nat) (x : EngSt) : (s.setEng e x).mem = s.mem := by rfl
@[simp] theorem State.setEng_pin (e : Nat) (x : EngSt) (k : Nat) : (s.setEng e x).pin k = s.pin k := by rfl
@[simp] theorem State.setEng_cl (e : Nat) (x : EngSt) (k : Nat) : (s.setEng e x).cl k = s.cl k := by rfl
@[simp] theorem State.setEng_dig (e : Nat) (x : EngSt) (k : Nat) : (s.setEng e x).dig k = s.dig k := by rfl
@[simp] theorem State.setEng_rg (e : Nat) (x : EngSt) (k : Nat) : (s.setEng e x).rg k = s.rg k := by rfl
@[simp] theorem State.setEng_chan (e : Nat) (x : EngSt) (k : Nat) : (s.setEng e x).chan k = s.chan k := by rfl
@[simp] theorem State.setEng_ring (e : Nat) (x : EngSt) (k : Nat) : (s.setEng e x).ring k = s.ring k := by rfl
@[simp] theorem State.setEng_flow (e : Nat) (x : EngSt) (k : Nat) : (s.setEng e x).flow k = s.flow k := by rfl
@[simp] theorem State.setEng_site (e : Nat) (x : EngSt) (k : Nat) : (s.setEng e x).site k = s.site k := by rfl
@[simp] theorem State.setEng_port (e : Nat) (x : EngSt) (k : Nat) : (s.setEng e x).port k = s.port k := by rfl
@[simp] theorem State.setEng_flag (e : Nat) (x : EngSt) (k : Nat) : (s.setEng e x).flag k = s.flag k := by rfl
@[simp] theorem State.setEng_reg (e : Nat) (x : EngSt) (k : Nat) : (s.setEng e x).reg k = s.reg k := by rfl
@[simp] theorem State.setEng_fld (e : Nat) (x : EngSt) (k : Nat) (g : Fld) : (s.setEng e x).fld k g = s.fld k g := by rfl
@[simp] theorem State.setEng_bit (e : Nat) (x : EngSt) (k : Nat) (g : Fld) : (s.setEng e x).bit k g = s.bit k g := by rfl
@[simp] theorem State.setEng_inForce (e : Nat) (x : EngSt) (k : Nat) : (s.setEng e x).inForce k = s.inForce k := by rfl
@[simp] theorem State.setEng_poisoned (e : Nat) (x : EngSt) (k : Nat) : (s.setEng e x).poisoned k = s.poisoned k := by rfl
@[simp] theorem State.setEng_cline (e : Nat) (x : EngSt) (k : Nat) : (s.setEng e x).cline k = s.cline k := by rfl
@[simp] theorem State.setEng_dirOf (e : Nat) (x : EngSt) (k : Nat) : (s.setEng e x).dirOf k = s.dirOf k := by rfl
@[simp] theorem State.setEng_coding (e : Nat) (x : EngSt) (k : Nat) : (s.setEng e x).coding k = s.coding k := by rfl
@[simp] theorem State.setEng_fencedAt (e : Nat) (x : EngSt) (k : Nat) : (s.setEng e x).fencedAt k = s.fencedAt k := by rfl
@[simp] theorem State.setEng_writeBarred (e : Nat) (x : EngSt) (k : Nat) : (s.setEng e x).writeBarred k = s.writeBarred k := by rfl

/-! updEng -/

@[simp] theorem State.updEng_pending (e : Nat) (f : EngSt → EngSt) : (s.updEng e f).pending = s.pending := by rfl
@[simp] theorem State.updEng_logWait (e : Nat) (f : EngSt → EngSt) : (s.updEng e f).logWait = s.logWait := by rfl
@[simp] theorem State.updEng_flowStores (e : Nat) (f : EngSt → EngSt) : (s.updEng e f).flowStores = s.flowStores := by rfl
@[simp] theorem State.updEng_gt (e : Nat) (f : EngSt → EngSt) : (s.updEng e f).gt = s.gt := by rfl
@[simp] theorem State.updEng_inFlight (e : Nat) (f : EngSt → EngSt) : (s.updEng e f).inFlight = s.inFlight := by rfl
@[simp] theorem State.updEng_free (e : Nat) (f : EngSt → EngSt) : (s.updEng e f).free = s.free := by rfl
@[simp] theorem State.updEng_outs (e : Nat) (f : EngSt → EngSt) : (s.updEng e f).outs = s.outs := by rfl
@[simp] theorem State.updEng_runs (e : Nat) (f : EngSt → EngSt) : (s.updEng e f).runs = s.runs := by rfl
@[simp] theorem State.updEng_hub (e : Nat) (f : EngSt → EngSt) : (s.updEng e f).hub = s.hub := by rfl
@[simp] theorem State.updEng_boot (e : Nat) (f : EngSt → EngSt) : (s.updEng e f).boot = s.boot := by rfl
@[simp] theorem State.updEng_vyn (e : Nat) (f : EngSt → EngSt) : (s.updEng e f).vyn = s.vyn := by rfl
@[simp] theorem State.updEng_bench (e : Nat) (f : EngSt → EngSt) : (s.updEng e f).bench = s.bench := by rfl
@[simp] theorem State.updEng_flash (e : Nat) (f : EngSt → EngSt) : (s.updEng e f).flash = s.flash := by rfl
@[simp] theorem State.updEng_fuses (e : Nat) (f : EngSt → EngSt) : (s.updEng e f).fuses = s.fuses := by rfl
@[simp] theorem State.updEng_mem (e : Nat) (f : EngSt → EngSt) : (s.updEng e f).mem = s.mem := by rfl
@[simp] theorem State.updEng_pin (e : Nat) (f : EngSt → EngSt) (k : Nat) : (s.updEng e f).pin k = s.pin k := by rfl
@[simp] theorem State.updEng_cl (e : Nat) (f : EngSt → EngSt) (k : Nat) : (s.updEng e f).cl k = s.cl k := by rfl
@[simp] theorem State.updEng_dig (e : Nat) (f : EngSt → EngSt) (k : Nat) : (s.updEng e f).dig k = s.dig k := by rfl
@[simp] theorem State.updEng_rg (e : Nat) (f : EngSt → EngSt) (k : Nat) : (s.updEng e f).rg k = s.rg k := by rfl
@[simp] theorem State.updEng_chan (e : Nat) (f : EngSt → EngSt) (k : Nat) : (s.updEng e f).chan k = s.chan k := by rfl
@[simp] theorem State.updEng_ring (e : Nat) (f : EngSt → EngSt) (k : Nat) : (s.updEng e f).ring k = s.ring k := by rfl
@[simp] theorem State.updEng_flow (e : Nat) (f : EngSt → EngSt) (k : Nat) : (s.updEng e f).flow k = s.flow k := by rfl
@[simp] theorem State.updEng_site (e : Nat) (f : EngSt → EngSt) (k : Nat) : (s.updEng e f).site k = s.site k := by rfl
@[simp] theorem State.updEng_port (e : Nat) (f : EngSt → EngSt) (k : Nat) : (s.updEng e f).port k = s.port k := by rfl
@[simp] theorem State.updEng_flag (e : Nat) (f : EngSt → EngSt) (k : Nat) : (s.updEng e f).flag k = s.flag k := by rfl
@[simp] theorem State.updEng_reg (e : Nat) (f : EngSt → EngSt) (k : Nat) : (s.updEng e f).reg k = s.reg k := by rfl
@[simp] theorem State.updEng_fld (e : Nat) (f : EngSt → EngSt) (k : Nat) (g : Fld) : (s.updEng e f).fld k g = s.fld k g := by rfl
@[simp] theorem State.updEng_bit (e : Nat) (f : EngSt → EngSt) (k : Nat) (g : Fld) : (s.updEng e f).bit k g = s.bit k g := by rfl
@[simp] theorem State.updEng_inForce (e : Nat) (f : EngSt → EngSt) (k : Nat) : (s.updEng e f).inForce k = s.inForce k := by rfl
@[simp] theorem State.updEng_poisoned (e : Nat) (f : EngSt → EngSt) (k : Nat) : (s.updEng e f).poisoned k = s.poisoned k := by rfl
@[simp] theorem State.updEng_cline (e : Nat) (f : EngSt → EngSt) (k : Nat) : (s.updEng e f).cline k = s.cline k := by rfl
@[simp] theorem State.updEng_dirOf (e : Nat) (f : EngSt → EngSt) (k : Nat) : (s.updEng e f).dirOf k = s.dirOf k := by rfl
@[simp] theorem State.updEng_coding (e : Nat) (f : EngSt → EngSt) (k : Nat) : (s.updEng e f).coding k = s.coding k := by rfl
@[simp] theorem State.updEng_fencedAt (e : Nat) (f : EngSt → EngSt) (k : Nat) : (s.updEng e f).fencedAt k = s.fencedAt k := by rfl
@[simp] theorem State.updEng_writeBarred (e : Nat) (f : EngSt → EngSt) (k : Nat) :
    (s.updEng e f).writeBarred k = s.writeBarred k := by rfl

/-! setDig -/

@[simp] theorem State.setDig_pending (d : Nat) (x : DigSt) : (s.setDig d x).pending = s.pending := by rfl
@[simp] theorem State.setDig_logWait (d : Nat) (x : DigSt) : (s.setDig d x).logWait = s.logWait := by rfl
@[simp] theorem State.setDig_flowStores (d : Nat) (x : DigSt) : (s.setDig d x).flowStores = s.flowStores := by rfl
@[simp] theorem State.setDig_gt (d : Nat) (x : DigSt) : (s.setDig d x).gt = s.gt := by rfl
@[simp] theorem State.setDig_inFlight (d : Nat) (x : DigSt) : (s.setDig d x).inFlight = s.inFlight := by rfl
@[simp] theorem State.setDig_free (d : Nat) (x : DigSt) : (s.setDig d x).free = s.free := by rfl
@[simp] theorem State.setDig_outs (d : Nat) (x : DigSt) : (s.setDig d x).outs = s.outs := by rfl
@[simp] theorem State.setDig_runs (d : Nat) (x : DigSt) : (s.setDig d x).runs = s.runs := by rfl
@[simp] theorem State.setDig_hub (d : Nat) (x : DigSt) : (s.setDig d x).hub = s.hub := by rfl
@[simp] theorem State.setDig_boot (d : Nat) (x : DigSt) : (s.setDig d x).boot = s.boot := by rfl
@[simp] theorem State.setDig_vyn (d : Nat) (x : DigSt) : (s.setDig d x).vyn = s.vyn := by rfl
@[simp] theorem State.setDig_bench (d : Nat) (x : DigSt) : (s.setDig d x).bench = s.bench := by rfl
@[simp] theorem State.setDig_flash (d : Nat) (x : DigSt) : (s.setDig d x).flash = s.flash := by rfl
@[simp] theorem State.setDig_fuses (d : Nat) (x : DigSt) : (s.setDig d x).fuses = s.fuses := by rfl
@[simp] theorem State.setDig_mem (d : Nat) (x : DigSt) : (s.setDig d x).mem = s.mem := by rfl
@[simp] theorem State.setDig_pin (d : Nat) (x : DigSt) (k : Nat) : (s.setDig d x).pin k = s.pin k := by rfl
@[simp] theorem State.setDig_cl (d : Nat) (x : DigSt) (k : Nat) : (s.setDig d x).cl k = s.cl k := by rfl
@[simp] theorem State.setDig_eng (d : Nat) (x : DigSt) (k : Nat) : (s.setDig d x).eng k = s.eng k := by rfl
@[simp] theorem State.setDig_rg (d : Nat) (x : DigSt) (k : Nat) : (s.setDig d x).rg k = s.rg k := by rfl
@[simp] theorem State.setDig_chan (d : Nat) (x : DigSt) (k : Nat) : (s.setDig d x).chan k = s.chan k := by rfl
@[simp] theorem State.setDig_ring (d : Nat) (x : DigSt) (k : Nat) : (s.setDig d x).ring k = s.ring k := by rfl
@[simp] theorem State.setDig_flow (d : Nat) (x : DigSt) (k : Nat) : (s.setDig d x).flow k = s.flow k := by rfl
@[simp] theorem State.setDig_site (d : Nat) (x : DigSt) (k : Nat) : (s.setDig d x).site k = s.site k := by rfl
@[simp] theorem State.setDig_port (d : Nat) (x : DigSt) (k : Nat) : (s.setDig d x).port k = s.port k := by rfl
@[simp] theorem State.setDig_flag (d : Nat) (x : DigSt) (k : Nat) : (s.setDig d x).flag k = s.flag k := by rfl
@[simp] theorem State.setDig_reg (d : Nat) (x : DigSt) (k : Nat) : (s.setDig d x).reg k = s.reg k := by rfl
@[simp] theorem State.setDig_fld (d : Nat) (x : DigSt) (k : Nat) (g : Fld) : (s.setDig d x).fld k g = s.fld k g := by rfl
@[simp] theorem State.setDig_bit (d : Nat) (x : DigSt) (k : Nat) (g : Fld) : (s.setDig d x).bit k g = s.bit k g := by rfl
@[simp] theorem State.setDig_inForce (d : Nat) (x : DigSt) (k : Nat) : (s.setDig d x).inForce k = s.inForce k := by rfl
@[simp] theorem State.setDig_poisoned (d : Nat) (x : DigSt) (k : Nat) : (s.setDig d x).poisoned k = s.poisoned k := by rfl
@[simp] theorem State.setDig_cline (d : Nat) (x : DigSt) (k : Nat) : (s.setDig d x).cline k = s.cline k := by rfl
@[simp] theorem State.setDig_dirOf (d : Nat) (x : DigSt) (k : Nat) : (s.setDig d x).dirOf k = s.dirOf k := by rfl
@[simp] theorem State.setDig_coding (d : Nat) (x : DigSt) (k : Nat) : (s.setDig d x).coding k = s.coding k := by rfl
@[simp] theorem State.setDig_fencedAt (d : Nat) (x : DigSt) (k : Nat) : (s.setDig d x).fencedAt k = s.fencedAt k := by rfl
@[simp] theorem State.setDig_writeBarred (d : Nat) (x : DigSt) (k : Nat) : (s.setDig d x).writeBarred k = s.writeBarred k := by rfl

/-! updDig -/

@[simp] theorem State.updDig_pending (d : Nat) (f : DigSt → DigSt) : (s.updDig d f).pending = s.pending := by rfl
@[simp] theorem State.updDig_logWait (d : Nat) (f : DigSt → DigSt) : (s.updDig d f).logWait = s.logWait := by rfl
@[simp] theorem State.updDig_flowStores (d : Nat) (f : DigSt → DigSt) : (s.updDig d f).flowStores = s.flowStores := by rfl
@[simp] theorem State.updDig_gt (d : Nat) (f : DigSt → DigSt) : (s.updDig d f).gt = s.gt := by rfl
@[simp] theorem State.updDig_inFlight (d : Nat) (f : DigSt → DigSt) : (s.updDig d f).inFlight = s.inFlight := by rfl
@[simp] theorem State.updDig_free (d : Nat) (f : DigSt → DigSt) : (s.updDig d f).free = s.free := by rfl
@[simp] theorem State.updDig_outs (d : Nat) (f : DigSt → DigSt) : (s.updDig d f).outs = s.outs := by rfl
@[simp] theorem State.updDig_runs (d : Nat) (f : DigSt → DigSt) : (s.updDig d f).runs = s.runs := by rfl
@[simp] theorem State.updDig_hub (d : Nat) (f : DigSt → DigSt) : (s.updDig d f).hub = s.hub := by rfl
@[simp] theorem State.updDig_boot (d : Nat) (f : DigSt → DigSt) : (s.updDig d f).boot = s.boot := by rfl
@[simp] theorem State.updDig_vyn (d : Nat) (f : DigSt → DigSt) : (s.updDig d f).vyn = s.vyn := by rfl
@[simp] theorem State.updDig_bench (d : Nat) (f : DigSt → DigSt) : (s.updDig d f).bench = s.bench := by rfl
@[simp] theorem State.updDig_flash (d : Nat) (f : DigSt → DigSt) : (s.updDig d f).flash = s.flash := by rfl
@[simp] theorem State.updDig_fuses (d : Nat) (f : DigSt → DigSt) : (s.updDig d f).fuses = s.fuses := by rfl
@[simp] theorem State.updDig_mem (d : Nat) (f : DigSt → DigSt) : (s.updDig d f).mem = s.mem := by rfl
@[simp] theorem State.updDig_pin (d : Nat) (f : DigSt → DigSt) (k : Nat) : (s.updDig d f).pin k = s.pin k := by rfl
@[simp] theorem State.updDig_cl (d : Nat) (f : DigSt → DigSt) (k : Nat) : (s.updDig d f).cl k = s.cl k := by rfl
@[simp] theorem State.updDig_eng (d : Nat) (f : DigSt → DigSt) (k : Nat) : (s.updDig d f).eng k = s.eng k := by rfl
@[simp] theorem State.updDig_rg (d : Nat) (f : DigSt → DigSt) (k : Nat) : (s.updDig d f).rg k = s.rg k := by rfl
@[simp] theorem State.updDig_chan (d : Nat) (f : DigSt → DigSt) (k : Nat) : (s.updDig d f).chan k = s.chan k := by rfl
@[simp] theorem State.updDig_ring (d : Nat) (f : DigSt → DigSt) (k : Nat) : (s.updDig d f).ring k = s.ring k := by rfl
@[simp] theorem State.updDig_flow (d : Nat) (f : DigSt → DigSt) (k : Nat) : (s.updDig d f).flow k = s.flow k := by rfl
@[simp] theorem State.updDig_site (d : Nat) (f : DigSt → DigSt) (k : Nat) : (s.updDig d f).site k = s.site k := by rfl
@[simp] theorem State.updDig_port (d : Nat) (f : DigSt → DigSt) (k : Nat) : (s.updDig d f).port k = s.port k := by rfl
@[simp] theorem State.updDig_flag (d : Nat) (f : DigSt → DigSt) (k : Nat) : (s.updDig d f).flag k = s.flag k := by rfl
@[simp] theorem State.updDig_reg (d : Nat) (f : DigSt → DigSt) (k : Nat) : (s.updDig d f).reg k = s.reg k := by rfl
@[simp] theorem State.updDig_fld (d : Nat) (f : DigSt → DigSt) (k : Nat) (g : Fld) : (s.updDig d f).fld k g = s.fld k g := by rfl
@[simp] theorem State.updDig_bit (d : Nat) (f : DigSt → DigSt) (k : Nat) (g : Fld) : (s.updDig d f).bit k g = s.bit k g := by rfl
@[simp] theorem State.updDig_inForce (d : Nat) (f : DigSt → DigSt) (k : Nat) : (s.updDig d f).inForce k = s.inForce k := by rfl
@[simp] theorem State.updDig_poisoned (d : Nat) (f : DigSt → DigSt) (k : Nat) : (s.updDig d f).poisoned k = s.poisoned k := by rfl
@[simp] theorem State.updDig_cline (d : Nat) (f : DigSt → DigSt) (k : Nat) : (s.updDig d f).cline k = s.cline k := by rfl
@[simp] theorem State.updDig_dirOf (d : Nat) (f : DigSt → DigSt) (k : Nat) : (s.updDig d f).dirOf k = s.dirOf k := by rfl
@[simp] theorem State.updDig_coding (d : Nat) (f : DigSt → DigSt) (k : Nat) : (s.updDig d f).coding k = s.coding k := by rfl
@[simp] theorem State.updDig_fencedAt (d : Nat) (f : DigSt → DigSt) (k : Nat) : (s.updDig d f).fencedAt k = s.fencedAt k := by rfl
@[simp] theorem State.updDig_writeBarred (d : Nat) (f : DigSt → DigSt) (k : Nat) :
    (s.updDig d f).writeBarred k = s.writeBarred k := by rfl

/-! setRg -/

@[simp] theorem State.setRg_pending (r : Nat) (x : RgSt) : (s.setRg r x).pending = s.pending := by rfl
@[simp] theorem State.setRg_logWait (r : Nat) (x : RgSt) : (s.setRg r x).logWait = s.logWait := by rfl
@[simp] theorem State.setRg_flowStores (r : Nat) (x : RgSt) : (s.setRg r x).flowStores = s.flowStores := by rfl
@[simp] theorem State.setRg_gt (r : Nat) (x : RgSt) : (s.setRg r x).gt = s.gt := by rfl
@[simp] theorem State.setRg_inFlight (r : Nat) (x : RgSt) : (s.setRg r x).inFlight = s.inFlight := by rfl
@[simp] theorem State.setRg_free (r : Nat) (x : RgSt) : (s.setRg r x).free = s.free := by rfl
@[simp] theorem State.setRg_outs (r : Nat) (x : RgSt) : (s.setRg r x).outs = s.outs := by rfl
@[simp] theorem State.setRg_runs (r : Nat) (x : RgSt) : (s.setRg r x).runs = s.runs := by rfl
@[simp] theorem State.setRg_hub (r : Nat) (x : RgSt) : (s.setRg r x).hub = s.hub := by rfl
@[simp] theorem State.setRg_boot (r : Nat) (x : RgSt) : (s.setRg r x).boot = s.boot := by rfl
@[simp] theorem State.setRg_vyn (r : Nat) (x : RgSt) : (s.setRg r x).vyn = s.vyn := by rfl
@[simp] theorem State.setRg_bench (r : Nat) (x : RgSt) : (s.setRg r x).bench = s.bench := by rfl
@[simp] theorem State.setRg_flash (r : Nat) (x : RgSt) : (s.setRg r x).flash = s.flash := by rfl
@[simp] theorem State.setRg_fuses (r : Nat) (x : RgSt) : (s.setRg r x).fuses = s.fuses := by rfl
@[simp] theorem State.setRg_mem (r : Nat) (x : RgSt) : (s.setRg r x).mem = s.mem := by rfl
@[simp] theorem State.setRg_pin (r : Nat) (x : RgSt) (k : Nat) : (s.setRg r x).pin k = s.pin k := by rfl
@[simp] theorem State.setRg_cl (r : Nat) (x : RgSt) (k : Nat) : (s.setRg r x).cl k = s.cl k := by rfl
@[simp] theorem State.setRg_eng (r : Nat) (x : RgSt) (k : Nat) : (s.setRg r x).eng k = s.eng k := by rfl
@[simp] theorem State.setRg_dig (r : Nat) (x : RgSt) (k : Nat) : (s.setRg r x).dig k = s.dig k := by rfl
@[simp] theorem State.setRg_chan (r : Nat) (x : RgSt) (k : Nat) : (s.setRg r x).chan k = s.chan k := by rfl
@[simp] theorem State.setRg_ring (r : Nat) (x : RgSt) (k : Nat) : (s.setRg r x).ring k = s.ring k := by rfl
@[simp] theorem State.setRg_flow (r : Nat) (x : RgSt) (k : Nat) : (s.setRg r x).flow k = s.flow k := by rfl
@[simp] theorem State.setRg_site (r : Nat) (x : RgSt) (k : Nat) : (s.setRg r x).site k = s.site k := by rfl
@[simp] theorem State.setRg_port (r : Nat) (x : RgSt) (k : Nat) : (s.setRg r x).port k = s.port k := by rfl
@[simp] theorem State.setRg_flag (r : Nat) (x : RgSt) (k : Nat) : (s.setRg r x).flag k = s.flag k := by rfl
@[simp] theorem State.setRg_reg (r : Nat) (x : RgSt) (k : Nat) : (s.setRg r x).reg k = s.reg k := by rfl
@[simp] theorem State.setRg_fld (r : Nat) (x : RgSt) (k : Nat) (g : Fld) : (s.setRg r x).fld k g = s.fld k g := by rfl
@[simp] theorem State.setRg_bit (r : Nat) (x : RgSt) (k : Nat) (g : Fld) : (s.setRg r x).bit k g = s.bit k g := by rfl
@[simp] theorem State.setRg_inForce (r : Nat) (x : RgSt) (k : Nat) : (s.setRg r x).inForce k = s.inForce k := by rfl
@[simp] theorem State.setRg_poisoned (r : Nat) (x : RgSt) (k : Nat) : (s.setRg r x).poisoned k = s.poisoned k := by rfl
@[simp] theorem State.setRg_cline (r : Nat) (x : RgSt) (k : Nat) : (s.setRg r x).cline k = s.cline k := by rfl
@[simp] theorem State.setRg_dirOf (r : Nat) (x : RgSt) (k : Nat) : (s.setRg r x).dirOf k = s.dirOf k := by rfl
@[simp] theorem State.setRg_coding (r : Nat) (x : RgSt) (k : Nat) : (s.setRg r x).coding k = s.coding k := by rfl
@[simp] theorem State.setRg_writeBarred (r : Nat) (x : RgSt) (k : Nat) : (s.setRg r x).writeBarred k = s.writeBarred k := by rfl

/-! updRg -/

@[simp] theorem State.updRg_pending (r : Nat) (f : RgSt → RgSt) : (s.updRg r f).pending = s.pending := by rfl
@[simp] theorem State.updRg_logWait (r : Nat) (f : RgSt → RgSt) : (s.updRg r f).logWait = s.logWait := by rfl
@[simp] theorem State.updRg_flowStores (r : Nat) (f : RgSt → RgSt) : (s.updRg r f).flowStores = s.flowStores := by rfl
@[simp] theorem State.updRg_gt (r : Nat) (f : RgSt → RgSt) : (s.updRg r f).gt = s.gt := by rfl
@[simp] theorem State.updRg_inFlight (r : Nat) (f : RgSt → RgSt) : (s.updRg r f).inFlight = s.inFlight := by rfl
@[simp] theorem State.updRg_free (r : Nat) (f : RgSt → RgSt) : (s.updRg r f).free = s.free := by rfl
@[simp] theorem State.updRg_outs (r : Nat) (f : RgSt → RgSt) : (s.updRg r f).outs = s.outs := by rfl
@[simp] theorem State.updRg_runs (r : Nat) (f : RgSt → RgSt) : (s.updRg r f).runs = s.runs := by rfl
@[simp] theorem State.updRg_hub (r : Nat) (f : RgSt → RgSt) : (s.updRg r f).hub = s.hub := by rfl
@[simp] theorem State.updRg_boot (r : Nat) (f : RgSt → RgSt) : (s.updRg r f).boot = s.boot := by rfl
@[simp] theorem State.updRg_vyn (r : Nat) (f : RgSt → RgSt) : (s.updRg r f).vyn = s.vyn := by rfl
@[simp] theorem State.updRg_bench (r : Nat) (f : RgSt → RgSt) : (s.updRg r f).bench = s.bench := by rfl
@[simp] theorem State.updRg_flash (r : Nat) (f : RgSt → RgSt) : (s.updRg r f).flash = s.flash := by rfl
@[simp] theorem State.updRg_fuses (r : Nat) (f : RgSt → RgSt) : (s.updRg r f).fuses = s.fuses := by rfl
@[simp] theorem State.updRg_mem (r : Nat) (f : RgSt → RgSt) : (s.updRg r f).mem = s.mem := by rfl
@[simp] theorem State.updRg_pin (r : Nat) (f : RgSt → RgSt) (k : Nat) : (s.updRg r f).pin k = s.pin k := by rfl
@[simp] theorem State.updRg_cl (r : Nat) (f : RgSt → RgSt) (k : Nat) : (s.updRg r f).cl k = s.cl k := by rfl
@[simp] theorem State.updRg_eng (r : Nat) (f : RgSt → RgSt) (k : Nat) : (s.updRg r f).eng k = s.eng k := by rfl
@[simp] theorem State.updRg_dig (r : Nat) (f : RgSt → RgSt) (k : Nat) : (s.updRg r f).dig k = s.dig k := by rfl
@[simp] theorem State.updRg_chan (r : Nat) (f : RgSt → RgSt) (k : Nat) : (s.updRg r f).chan k = s.chan k := by rfl
@[simp] theorem State.updRg_ring (r : Nat) (f : RgSt → RgSt) (k : Nat) : (s.updRg r f).ring k = s.ring k := by rfl
@[simp] theorem State.updRg_flow (r : Nat) (f : RgSt → RgSt) (k : Nat) : (s.updRg r f).flow k = s.flow k := by rfl
@[simp] theorem State.updRg_site (r : Nat) (f : RgSt → RgSt) (k : Nat) : (s.updRg r f).site k = s.site k := by rfl
@[simp] theorem State.updRg_port (r : Nat) (f : RgSt → RgSt) (k : Nat) : (s.updRg r f).port k = s.port k := by rfl
@[simp] theorem State.updRg_flag (r : Nat) (f : RgSt → RgSt) (k : Nat) : (s.updRg r f).flag k = s.flag k := by rfl
@[simp] theorem State.updRg_reg (r : Nat) (f : RgSt → RgSt) (k : Nat) : (s.updRg r f).reg k = s.reg k := by rfl
@[simp] theorem State.updRg_fld (r : Nat) (f : RgSt → RgSt) (k : Nat) (g : Fld) : (s.updRg r f).fld k g = s.fld k g := by rfl
@[simp] theorem State.updRg_bit (r : Nat) (f : RgSt → RgSt) (k : Nat) (g : Fld) : (s.updRg r f).bit k g = s.bit k g := by rfl
@[simp] theorem State.updRg_inForce (r : Nat) (f : RgSt → RgSt) (k : Nat) : (s.updRg r f).inForce k = s.inForce k := by rfl
@[simp] theorem State.updRg_poisoned (r : Nat) (f : RgSt → RgSt) (k : Nat) : (s.updRg r f).poisoned k = s.poisoned k := by rfl
@[simp] theorem State.updRg_cline (r : Nat) (f : RgSt → RgSt) (k : Nat) : (s.updRg r f).cline k = s.cline k := by rfl
@[simp] theorem State.updRg_dirOf (r : Nat) (f : RgSt → RgSt) (k : Nat) : (s.updRg r f).dirOf k = s.dirOf k := by rfl
@[simp] theorem State.updRg_coding (r : Nat) (f : RgSt → RgSt) (k : Nat) : (s.updRg r f).coding k = s.coding k := by rfl
@[simp] theorem State.updRg_writeBarred (r : Nat) (f : RgSt → RgSt) (k : Nat) :
    (s.updRg r f).writeBarred k = s.writeBarred k := by rfl

/-! updHub -/

@[simp] theorem State.updHub_pending (f : HubSt → HubSt) : (s.updHub f).pending = s.pending := by rfl
@[simp] theorem State.updHub_logWait (f : HubSt → HubSt) : (s.updHub f).logWait = s.logWait := by rfl
@[simp] theorem State.updHub_flowStores (f : HubSt → HubSt) : (s.updHub f).flowStores = s.flowStores := by rfl
@[simp] theorem State.updHub_gt (f : HubSt → HubSt) : (s.updHub f).gt = s.gt := by rfl
@[simp] theorem State.updHub_inFlight (f : HubSt → HubSt) : (s.updHub f).inFlight = s.inFlight := by rfl
@[simp] theorem State.updHub_free (f : HubSt → HubSt) : (s.updHub f).free = s.free := by rfl
@[simp] theorem State.updHub_outs (f : HubSt → HubSt) : (s.updHub f).outs = s.outs := by rfl
@[simp] theorem State.updHub_runs (f : HubSt → HubSt) : (s.updHub f).runs = s.runs := by rfl
@[simp] theorem State.updHub_boot (f : HubSt → HubSt) : (s.updHub f).boot = s.boot := by rfl
@[simp] theorem State.updHub_vyn (f : HubSt → HubSt) : (s.updHub f).vyn = s.vyn := by rfl
@[simp] theorem State.updHub_bench (f : HubSt → HubSt) : (s.updHub f).bench = s.bench := by rfl
@[simp] theorem State.updHub_flash (f : HubSt → HubSt) : (s.updHub f).flash = s.flash := by rfl
@[simp] theorem State.updHub_fuses (f : HubSt → HubSt) : (s.updHub f).fuses = s.fuses := by rfl
@[simp] theorem State.updHub_mem (f : HubSt → HubSt) : (s.updHub f).mem = s.mem := by rfl
@[simp] theorem State.updHub_pin (f : HubSt → HubSt) (k : Nat) : (s.updHub f).pin k = s.pin k := by rfl
@[simp] theorem State.updHub_cl (f : HubSt → HubSt) (k : Nat) : (s.updHub f).cl k = s.cl k := by rfl
@[simp] theorem State.updHub_eng (f : HubSt → HubSt) (k : Nat) : (s.updHub f).eng k = s.eng k := by rfl
@[simp] theorem State.updHub_dig (f : HubSt → HubSt) (k : Nat) : (s.updHub f).dig k = s.dig k := by rfl
@[simp] theorem State.updHub_rg (f : HubSt → HubSt) (k : Nat) : (s.updHub f).rg k = s.rg k := by rfl
@[simp] theorem State.updHub_chan (f : HubSt → HubSt) (k : Nat) : (s.updHub f).chan k = s.chan k := by rfl
@[simp] theorem State.updHub_ring (f : HubSt → HubSt) (k : Nat) : (s.updHub f).ring k = s.ring k := by rfl
@[simp] theorem State.updHub_flow (f : HubSt → HubSt) (k : Nat) : (s.updHub f).flow k = s.flow k := by rfl
@[simp] theorem State.updHub_site (f : HubSt → HubSt) (k : Nat) : (s.updHub f).site k = s.site k := by rfl
@[simp] theorem State.updHub_port (f : HubSt → HubSt) (k : Nat) : (s.updHub f).port k = s.port k := by rfl
@[simp] theorem State.updHub_flag (f : HubSt → HubSt) (k : Nat) : (s.updHub f).flag k = s.flag k := by rfl
@[simp] theorem State.updHub_reg (f : HubSt → HubSt) (k : Nat) : (s.updHub f).reg k = s.reg k := by rfl
@[simp] theorem State.updHub_fld (f : HubSt → HubSt) (k : Nat) (g : Fld) : (s.updHub f).fld k g = s.fld k g := by rfl
@[simp] theorem State.updHub_bit (f : HubSt → HubSt) (k : Nat) (g : Fld) : (s.updHub f).bit k g = s.bit k g := by rfl
@[simp] theorem State.updHub_inForce (f : HubSt → HubSt) (k : Nat) : (s.updHub f).inForce k = s.inForce k := by rfl
@[simp] theorem State.updHub_poisoned (f : HubSt → HubSt) (k : Nat) : (s.updHub f).poisoned k = s.poisoned k := by rfl
@[simp] theorem State.updHub_cline (f : HubSt → HubSt) (k : Nat) : (s.updHub f).cline k = s.cline k := by rfl
@[simp] theorem State.updHub_dirOf (f : HubSt → HubSt) (k : Nat) : (s.updHub f).dirOf k = s.dirOf k := by rfl
@[simp] theorem State.updHub_coding (f : HubSt → HubSt) (k : Nat) : (s.updHub f).coding k = s.coding k := by rfl
@[simp] theorem State.updHub_fencedAt (f : HubSt → HubSt) (k : Nat) : (s.updHub f).fencedAt k = s.fencedAt k := by rfl
@[simp] theorem State.updHub_writeBarred (f : HubSt → HubSt) (k : Nat) : (s.updHub f).writeBarred k = s.writeBarred k := by rfl

/-! updBoot -/

@[simp] theorem State.updBoot_pending (f : BootSt → BootSt) : (s.updBoot f).pending = s.pending := by rfl
@[simp] theorem State.updBoot_logWait (f : BootSt → BootSt) : (s.updBoot f).logWait = s.logWait := by rfl
@[simp] theorem State.updBoot_flowStores (f : BootSt → BootSt) : (s.updBoot f).flowStores = s.flowStores := by rfl
@[simp] theorem State.updBoot_gt (f : BootSt → BootSt) : (s.updBoot f).gt = s.gt := by rfl
@[simp] theorem State.updBoot_inFlight (f : BootSt → BootSt) : (s.updBoot f).inFlight = s.inFlight := by rfl
@[simp] theorem State.updBoot_free (f : BootSt → BootSt) : (s.updBoot f).free = s.free := by rfl
@[simp] theorem State.updBoot_outs (f : BootSt → BootSt) : (s.updBoot f).outs = s.outs := by rfl
@[simp] theorem State.updBoot_runs (f : BootSt → BootSt) : (s.updBoot f).runs = s.runs := by rfl
@[simp] theorem State.updBoot_hub (f : BootSt → BootSt) : (s.updBoot f).hub = s.hub := by rfl
@[simp] theorem State.updBoot_vyn (f : BootSt → BootSt) : (s.updBoot f).vyn = s.vyn := by rfl
@[simp] theorem State.updBoot_bench (f : BootSt → BootSt) : (s.updBoot f).bench = s.bench := by rfl
@[simp] theorem State.updBoot_flash (f : BootSt → BootSt) : (s.updBoot f).flash = s.flash := by rfl
@[simp] theorem State.updBoot_fuses (f : BootSt → BootSt) : (s.updBoot f).fuses = s.fuses := by rfl
@[simp] theorem State.updBoot_mem (f : BootSt → BootSt) : (s.updBoot f).mem = s.mem := by rfl
@[simp] theorem State.updBoot_pin (f : BootSt → BootSt) (k : Nat) : (s.updBoot f).pin k = s.pin k := by rfl
@[simp] theorem State.updBoot_cl (f : BootSt → BootSt) (k : Nat) : (s.updBoot f).cl k = s.cl k := by rfl
@[simp] theorem State.updBoot_eng (f : BootSt → BootSt) (k : Nat) : (s.updBoot f).eng k = s.eng k := by rfl
@[simp] theorem State.updBoot_dig (f : BootSt → BootSt) (k : Nat) : (s.updBoot f).dig k = s.dig k := by rfl
@[simp] theorem State.updBoot_rg (f : BootSt → BootSt) (k : Nat) : (s.updBoot f).rg k = s.rg k := by rfl
@[simp] theorem State.updBoot_chan (f : BootSt → BootSt) (k : Nat) : (s.updBoot f).chan k = s.chan k := by rfl
@[simp] theorem State.updBoot_ring (f : BootSt → BootSt) (k : Nat) : (s.updBoot f).ring k = s.ring k := by rfl
@[simp] theorem State.updBoot_flow (f : BootSt → BootSt) (k : Nat) : (s.updBoot f).flow k = s.flow k := by rfl
@[simp] theorem State.updBoot_site (f : BootSt → BootSt) (k : Nat) : (s.updBoot f).site k = s.site k := by rfl
@[simp] theorem State.updBoot_port (f : BootSt → BootSt) (k : Nat) : (s.updBoot f).port k = s.port k := by rfl
@[simp] theorem State.updBoot_flag (f : BootSt → BootSt) (k : Nat) : (s.updBoot f).flag k = s.flag k := by rfl
@[simp] theorem State.updBoot_reg (f : BootSt → BootSt) (k : Nat) : (s.updBoot f).reg k = s.reg k := by rfl
@[simp] theorem State.updBoot_fld (f : BootSt → BootSt) (k : Nat) (g : Fld) : (s.updBoot f).fld k g = s.fld k g := by rfl
@[simp] theorem State.updBoot_bit (f : BootSt → BootSt) (k : Nat) (g : Fld) : (s.updBoot f).bit k g = s.bit k g := by rfl
@[simp] theorem State.updBoot_inForce (f : BootSt → BootSt) (k : Nat) : (s.updBoot f).inForce k = s.inForce k := by rfl
@[simp] theorem State.updBoot_poisoned (f : BootSt → BootSt) (k : Nat) : (s.updBoot f).poisoned k = s.poisoned k := by rfl
@[simp] theorem State.updBoot_cline (f : BootSt → BootSt) (k : Nat) : (s.updBoot f).cline k = s.cline k := by rfl
@[simp] theorem State.updBoot_dirOf (f : BootSt → BootSt) (k : Nat) : (s.updBoot f).dirOf k = s.dirOf k := by rfl
@[simp] theorem State.updBoot_coding (f : BootSt → BootSt) (k : Nat) : (s.updBoot f).coding k = s.coding k := by rfl
@[simp] theorem State.updBoot_fencedAt (f : BootSt → BootSt) (k : Nat) : (s.updBoot f).fencedAt k = s.fencedAt k := by rfl
@[simp] theorem State.updBoot_writeBarred (f : BootSt → BootSt) (k : Nat) : (s.updBoot f).writeBarred k = s.writeBarred k := by rfl

/-! updVyn -/

@[simp] theorem State.updVyn_pending (f : VynSt → VynSt) : (s.updVyn f).pending = s.pending := by rfl
@[simp] theorem State.updVyn_logWait (f : VynSt → VynSt) : (s.updVyn f).logWait = s.logWait := by rfl
@[simp] theorem State.updVyn_flowStores (f : VynSt → VynSt) : (s.updVyn f).flowStores = s.flowStores := by rfl
@[simp] theorem State.updVyn_gt (f : VynSt → VynSt) : (s.updVyn f).gt = s.gt := by rfl
@[simp] theorem State.updVyn_inFlight (f : VynSt → VynSt) : (s.updVyn f).inFlight = s.inFlight := by rfl
@[simp] theorem State.updVyn_free (f : VynSt → VynSt) : (s.updVyn f).free = s.free := by rfl
@[simp] theorem State.updVyn_outs (f : VynSt → VynSt) : (s.updVyn f).outs = s.outs := by rfl
@[simp] theorem State.updVyn_runs (f : VynSt → VynSt) : (s.updVyn f).runs = s.runs := by rfl
@[simp] theorem State.updVyn_hub (f : VynSt → VynSt) : (s.updVyn f).hub = s.hub := by rfl
@[simp] theorem State.updVyn_boot (f : VynSt → VynSt) : (s.updVyn f).boot = s.boot := by rfl
@[simp] theorem State.updVyn_bench (f : VynSt → VynSt) : (s.updVyn f).bench = s.bench := by rfl
@[simp] theorem State.updVyn_flash (f : VynSt → VynSt) : (s.updVyn f).flash = s.flash := by rfl
@[simp] theorem State.updVyn_fuses (f : VynSt → VynSt) : (s.updVyn f).fuses = s.fuses := by rfl
@[simp] theorem State.updVyn_mem (f : VynSt → VynSt) : (s.updVyn f).mem = s.mem := by rfl
@[simp] theorem State.updVyn_pin (f : VynSt → VynSt) (k : Nat) : (s.updVyn f).pin k = s.pin k := by rfl
@[simp] theorem State.updVyn_cl (f : VynSt → VynSt) (k : Nat) : (s.updVyn f).cl k = s.cl k := by rfl
@[simp] theorem State.updVyn_eng (f : VynSt → VynSt) (k : Nat) : (s.updVyn f).eng k = s.eng k := by rfl
@[simp] theorem State.updVyn_dig (f : VynSt → VynSt) (k : Nat) : (s.updVyn f).dig k = s.dig k := by rfl
@[simp] theorem State.updVyn_rg (f : VynSt → VynSt) (k : Nat) : (s.updVyn f).rg k = s.rg k := by rfl
@[simp] theorem State.updVyn_chan (f : VynSt → VynSt) (k : Nat) : (s.updVyn f).chan k = s.chan k := by rfl
@[simp] theorem State.updVyn_ring (f : VynSt → VynSt) (k : Nat) : (s.updVyn f).ring k = s.ring k := by rfl
@[simp] theorem State.updVyn_flow (f : VynSt → VynSt) (k : Nat) : (s.updVyn f).flow k = s.flow k := by rfl
@[simp] theorem State.updVyn_site (f : VynSt → VynSt) (k : Nat) : (s.updVyn f).site k = s.site k := by rfl
@[simp] theorem State.updVyn_port (f : VynSt → VynSt) (k : Nat) : (s.updVyn f).port k = s.port k := by rfl
@[simp] theorem State.updVyn_flag (f : VynSt → VynSt) (k : Nat) : (s.updVyn f).flag k = s.flag k := by rfl
@[simp] theorem State.updVyn_reg (f : VynSt → VynSt) (k : Nat) : (s.updVyn f).reg k = s.reg k := by rfl
@[simp] theorem State.updVyn_fld (f : VynSt → VynSt) (k : Nat) (g : Fld) : (s.updVyn f).fld k g = s.fld k g := by rfl
@[simp] theorem State.updVyn_bit (f : VynSt → VynSt) (k : Nat) (g : Fld) : (s.updVyn f).bit k g = s.bit k g := by rfl
@[simp] theorem State.updVyn_inForce (f : VynSt → VynSt) (k : Nat) : (s.updVyn f).inForce k = s.inForce k := by rfl
@[simp] theorem State.updVyn_poisoned (f : VynSt → VynSt) (k : Nat) : (s.updVyn f).poisoned k = s.poisoned k := by rfl
@[simp] theorem State.updVyn_cline (f : VynSt → VynSt) (k : Nat) : (s.updVyn f).cline k = s.cline k := by rfl
@[simp] theorem State.updVyn_dirOf (f : VynSt → VynSt) (k : Nat) : (s.updVyn f).dirOf k = s.dirOf k := by rfl
@[simp] theorem State.updVyn_coding (f : VynSt → VynSt) (k : Nat) : (s.updVyn f).coding k = s.coding k := by rfl
@[simp] theorem State.updVyn_fencedAt (f : VynSt → VynSt) (k : Nat) : (s.updVyn f).fencedAt k = s.fencedAt k := by rfl
@[simp] theorem State.updVyn_writeBarred (f : VynSt → VynSt) (k : Nat) : (s.updVyn f).writeBarred k = s.writeBarred k := by rfl

/-! setChan -/

@[simp] theorem State.setChan_pending (n : Nat) (x : ChanSt) : (s.setChan n x).pending = s.pending := by rfl
@[simp] theorem State.setChan_logWait (n : Nat) (x : ChanSt) : (s.setChan n x).logWait = s.logWait := by rfl
@[simp] theorem State.setChan_flowStores (n : Nat) (x : ChanSt) : (s.setChan n x).flowStores = s.flowStores := by rfl
@[simp] theorem State.setChan_gt (n : Nat) (x : ChanSt) : (s.setChan n x).gt = s.gt := by rfl
@[simp] theorem State.setChan_inFlight (n : Nat) (x : ChanSt) : (s.setChan n x).inFlight = s.inFlight := by rfl
@[simp] theorem State.setChan_free (n : Nat) (x : ChanSt) : (s.setChan n x).free = s.free := by rfl
@[simp] theorem State.setChan_outs (n : Nat) (x : ChanSt) : (s.setChan n x).outs = s.outs := by rfl
@[simp] theorem State.setChan_runs (n : Nat) (x : ChanSt) : (s.setChan n x).runs = s.runs := by rfl
@[simp] theorem State.setChan_hub (n : Nat) (x : ChanSt) : (s.setChan n x).hub = s.hub := by rfl
@[simp] theorem State.setChan_boot (n : Nat) (x : ChanSt) : (s.setChan n x).boot = s.boot := by rfl
@[simp] theorem State.setChan_vyn (n : Nat) (x : ChanSt) : (s.setChan n x).vyn = s.vyn := by rfl
@[simp] theorem State.setChan_bench (n : Nat) (x : ChanSt) : (s.setChan n x).bench = s.bench := by rfl
@[simp] theorem State.setChan_flash (n : Nat) (x : ChanSt) : (s.setChan n x).flash = s.flash := by rfl
@[simp] theorem State.setChan_fuses (n : Nat) (x : ChanSt) : (s.setChan n x).fuses = s.fuses := by rfl
@[simp] theorem State.setChan_mem (n : Nat) (x : ChanSt) : (s.setChan n x).mem = s.mem := by rfl
@[simp] theorem State.setChan_pin (n : Nat) (x : ChanSt) (k : Nat) : (s.setChan n x).pin k = s.pin k := by rfl
@[simp] theorem State.setChan_cl (n : Nat) (x : ChanSt) (k : Nat) : (s.setChan n x).cl k = s.cl k := by rfl
@[simp] theorem State.setChan_eng (n : Nat) (x : ChanSt) (k : Nat) : (s.setChan n x).eng k = s.eng k := by rfl
@[simp] theorem State.setChan_dig (n : Nat) (x : ChanSt) (k : Nat) : (s.setChan n x).dig k = s.dig k := by rfl
@[simp] theorem State.setChan_rg (n : Nat) (x : ChanSt) (k : Nat) : (s.setChan n x).rg k = s.rg k := by rfl
@[simp] theorem State.setChan_ring (n : Nat) (x : ChanSt) (k : Nat) : (s.setChan n x).ring k = s.ring k := by rfl
@[simp] theorem State.setChan_flow (n : Nat) (x : ChanSt) (k : Nat) : (s.setChan n x).flow k = s.flow k := by rfl
@[simp] theorem State.setChan_site (n : Nat) (x : ChanSt) (k : Nat) : (s.setChan n x).site k = s.site k := by rfl
@[simp] theorem State.setChan_port (n : Nat) (x : ChanSt) (k : Nat) : (s.setChan n x).port k = s.port k := by rfl
@[simp] theorem State.setChan_flag (n : Nat) (x : ChanSt) (k : Nat) : (s.setChan n x).flag k = s.flag k := by rfl
@[simp] theorem State.setChan_reg (n : Nat) (x : ChanSt) (k : Nat) : (s.setChan n x).reg k = s.reg k := by rfl
@[simp] theorem State.setChan_fld (n : Nat) (x : ChanSt) (k : Nat) (g : Fld) : (s.setChan n x).fld k g = s.fld k g := by rfl
@[simp] theorem State.setChan_bit (n : Nat) (x : ChanSt) (k : Nat) (g : Fld) : (s.setChan n x).bit k g = s.bit k g := by rfl
@[simp] theorem State.setChan_inForce (n : Nat) (x : ChanSt) (k : Nat) : (s.setChan n x).inForce k = s.inForce k := by rfl
@[simp] theorem State.setChan_poisoned (n : Nat) (x : ChanSt) (k : Nat) : (s.setChan n x).poisoned k = s.poisoned k := by rfl
@[simp] theorem State.setChan_cline (n : Nat) (x : ChanSt) (k : Nat) : (s.setChan n x).cline k = s.cline k := by rfl
@[simp] theorem State.setChan_dirOf (n : Nat) (x : ChanSt) (k : Nat) : (s.setChan n x).dirOf k = s.dirOf k := by rfl
@[simp] theorem State.setChan_coding (n : Nat) (x : ChanSt) (k : Nat) : (s.setChan n x).coding k = s.coding k := by rfl
@[simp] theorem State.setChan_fencedAt (n : Nat) (x : ChanSt) (k : Nat) : (s.setChan n x).fencedAt k = s.fencedAt k := by rfl
@[simp] theorem State.setChan_writeBarred (n : Nat) (x : ChanSt) (k : Nat) :
    (s.setChan n x).writeBarred k = s.writeBarred k := by rfl

/-! setRing -/

@[simp] theorem State.setRing_pending (n : Nat) (x : RingSt) : (s.setRing n x).pending = s.pending := by rfl
@[simp] theorem State.setRing_logWait (n : Nat) (x : RingSt) : (s.setRing n x).logWait = s.logWait := by rfl
@[simp] theorem State.setRing_flowStores (n : Nat) (x : RingSt) : (s.setRing n x).flowStores = s.flowStores := by rfl
@[simp] theorem State.setRing_gt (n : Nat) (x : RingSt) : (s.setRing n x).gt = s.gt := by rfl
@[simp] theorem State.setRing_inFlight (n : Nat) (x : RingSt) : (s.setRing n x).inFlight = s.inFlight := by rfl
@[simp] theorem State.setRing_free (n : Nat) (x : RingSt) : (s.setRing n x).free = s.free := by rfl
@[simp] theorem State.setRing_outs (n : Nat) (x : RingSt) : (s.setRing n x).outs = s.outs := by rfl
@[simp] theorem State.setRing_runs (n : Nat) (x : RingSt) : (s.setRing n x).runs = s.runs := by rfl
@[simp] theorem State.setRing_hub (n : Nat) (x : RingSt) : (s.setRing n x).hub = s.hub := by rfl
@[simp] theorem State.setRing_boot (n : Nat) (x : RingSt) : (s.setRing n x).boot = s.boot := by rfl
@[simp] theorem State.setRing_vyn (n : Nat) (x : RingSt) : (s.setRing n x).vyn = s.vyn := by rfl
@[simp] theorem State.setRing_bench (n : Nat) (x : RingSt) : (s.setRing n x).bench = s.bench := by rfl
@[simp] theorem State.setRing_flash (n : Nat) (x : RingSt) : (s.setRing n x).flash = s.flash := by rfl
@[simp] theorem State.setRing_fuses (n : Nat) (x : RingSt) : (s.setRing n x).fuses = s.fuses := by rfl
@[simp] theorem State.setRing_mem (n : Nat) (x : RingSt) : (s.setRing n x).mem = s.mem := by rfl
@[simp] theorem State.setRing_pin (n : Nat) (x : RingSt) (k : Nat) : (s.setRing n x).pin k = s.pin k := by rfl
@[simp] theorem State.setRing_cl (n : Nat) (x : RingSt) (k : Nat) : (s.setRing n x).cl k = s.cl k := by rfl
@[simp] theorem State.setRing_eng (n : Nat) (x : RingSt) (k : Nat) : (s.setRing n x).eng k = s.eng k := by rfl
@[simp] theorem State.setRing_dig (n : Nat) (x : RingSt) (k : Nat) : (s.setRing n x).dig k = s.dig k := by rfl
@[simp] theorem State.setRing_rg (n : Nat) (x : RingSt) (k : Nat) : (s.setRing n x).rg k = s.rg k := by rfl
@[simp] theorem State.setRing_chan (n : Nat) (x : RingSt) (k : Nat) : (s.setRing n x).chan k = s.chan k := by rfl
@[simp] theorem State.setRing_flow (n : Nat) (x : RingSt) (k : Nat) : (s.setRing n x).flow k = s.flow k := by rfl
@[simp] theorem State.setRing_site (n : Nat) (x : RingSt) (k : Nat) : (s.setRing n x).site k = s.site k := by rfl
@[simp] theorem State.setRing_port (n : Nat) (x : RingSt) (k : Nat) : (s.setRing n x).port k = s.port k := by rfl
@[simp] theorem State.setRing_flag (n : Nat) (x : RingSt) (k : Nat) : (s.setRing n x).flag k = s.flag k := by rfl
@[simp] theorem State.setRing_reg (n : Nat) (x : RingSt) (k : Nat) : (s.setRing n x).reg k = s.reg k := by rfl
@[simp] theorem State.setRing_fld (n : Nat) (x : RingSt) (k : Nat) (g : Fld) : (s.setRing n x).fld k g = s.fld k g := by rfl
@[simp] theorem State.setRing_bit (n : Nat) (x : RingSt) (k : Nat) (g : Fld) : (s.setRing n x).bit k g = s.bit k g := by rfl
@[simp] theorem State.setRing_inForce (n : Nat) (x : RingSt) (k : Nat) : (s.setRing n x).inForce k = s.inForce k := by rfl
@[simp] theorem State.setRing_poisoned (n : Nat) (x : RingSt) (k : Nat) : (s.setRing n x).poisoned k = s.poisoned k := by rfl
@[simp] theorem State.setRing_cline (n : Nat) (x : RingSt) (k : Nat) : (s.setRing n x).cline k = s.cline k := by rfl
@[simp] theorem State.setRing_dirOf (n : Nat) (x : RingSt) (k : Nat) : (s.setRing n x).dirOf k = s.dirOf k := by rfl
@[simp] theorem State.setRing_coding (n : Nat) (x : RingSt) (k : Nat) : (s.setRing n x).coding k = s.coding k := by rfl
@[simp] theorem State.setRing_fencedAt (n : Nat) (x : RingSt) (k : Nat) : (s.setRing n x).fencedAt k = s.fencedAt k := by rfl
@[simp] theorem State.setRing_writeBarred (n : Nat) (x : RingSt) (k : Nat) :
    (s.setRing n x).writeBarred k = s.writeBarred k := by rfl

/-! updRing -/

@[simp] theorem State.updRing_pending (n : Nat) (f : RingSt → RingSt) : (s.updRing n f).pending = s.pending := by rfl
@[simp] theorem State.updRing_logWait (n : Nat) (f : RingSt → RingSt) : (s.updRing n f).logWait = s.logWait := by rfl
@[simp] theorem State.updRing_flowStores (n : Nat) (f : RingSt → RingSt) : (s.updRing n f).flowStores = s.flowStores := by rfl
@[simp] theorem State.updRing_gt (n : Nat) (f : RingSt → RingSt) : (s.updRing n f).gt = s.gt := by rfl
@[simp] theorem State.updRing_inFlight (n : Nat) (f : RingSt → RingSt) : (s.updRing n f).inFlight = s.inFlight := by rfl
@[simp] theorem State.updRing_free (n : Nat) (f : RingSt → RingSt) : (s.updRing n f).free = s.free := by rfl
@[simp] theorem State.updRing_outs (n : Nat) (f : RingSt → RingSt) : (s.updRing n f).outs = s.outs := by rfl
@[simp] theorem State.updRing_runs (n : Nat) (f : RingSt → RingSt) : (s.updRing n f).runs = s.runs := by rfl
@[simp] theorem State.updRing_hub (n : Nat) (f : RingSt → RingSt) : (s.updRing n f).hub = s.hub := by rfl
@[simp] theorem State.updRing_boot (n : Nat) (f : RingSt → RingSt) : (s.updRing n f).boot = s.boot := by rfl
@[simp] theorem State.updRing_vyn (n : Nat) (f : RingSt → RingSt) : (s.updRing n f).vyn = s.vyn := by rfl
@[simp] theorem State.updRing_bench (n : Nat) (f : RingSt → RingSt) : (s.updRing n f).bench = s.bench := by rfl
@[simp] theorem State.updRing_flash (n : Nat) (f : RingSt → RingSt) : (s.updRing n f).flash = s.flash := by rfl
@[simp] theorem State.updRing_fuses (n : Nat) (f : RingSt → RingSt) : (s.updRing n f).fuses = s.fuses := by rfl
@[simp] theorem State.updRing_mem (n : Nat) (f : RingSt → RingSt) : (s.updRing n f).mem = s.mem := by rfl
@[simp] theorem State.updRing_pin (n : Nat) (f : RingSt → RingSt) (k : Nat) : (s.updRing n f).pin k = s.pin k := by rfl
@[simp] theorem State.updRing_cl (n : Nat) (f : RingSt → RingSt) (k : Nat) : (s.updRing n f).cl k = s.cl k := by rfl
@[simp] theorem State.updRing_eng (n : Nat) (f : RingSt → RingSt) (k : Nat) : (s.updRing n f).eng k = s.eng k := by rfl
@[simp] theorem State.updRing_dig (n : Nat) (f : RingSt → RingSt) (k : Nat) : (s.updRing n f).dig k = s.dig k := by rfl
@[simp] theorem State.updRing_rg (n : Nat) (f : RingSt → RingSt) (k : Nat) : (s.updRing n f).rg k = s.rg k := by rfl
@[simp] theorem State.updRing_chan (n : Nat) (f : RingSt → RingSt) (k : Nat) : (s.updRing n f).chan k = s.chan k := by rfl
@[simp] theorem State.updRing_flow (n : Nat) (f : RingSt → RingSt) (k : Nat) : (s.updRing n f).flow k = s.flow k := by rfl
@[simp] theorem State.updRing_site (n : Nat) (f : RingSt → RingSt) (k : Nat) : (s.updRing n f).site k = s.site k := by rfl
@[simp] theorem State.updRing_port (n : Nat) (f : RingSt → RingSt) (k : Nat) : (s.updRing n f).port k = s.port k := by rfl
@[simp] theorem State.updRing_flag (n : Nat) (f : RingSt → RingSt) (k : Nat) : (s.updRing n f).flag k = s.flag k := by rfl
@[simp] theorem State.updRing_reg (n : Nat) (f : RingSt → RingSt) (k : Nat) : (s.updRing n f).reg k = s.reg k := by rfl
@[simp] theorem State.updRing_fld (n : Nat) (f : RingSt → RingSt) (k : Nat) (g : Fld) :
    (s.updRing n f).fld k g = s.fld k g := by rfl
@[simp] theorem State.updRing_bit (n : Nat) (f : RingSt → RingSt) (k : Nat) (g : Fld) :
    (s.updRing n f).bit k g = s.bit k g := by rfl
@[simp] theorem State.updRing_inForce (n : Nat) (f : RingSt → RingSt) (k : Nat) : (s.updRing n f).inForce k = s.inForce k := by rfl
@[simp] theorem State.updRing_poisoned (n : Nat) (f : RingSt → RingSt) (k : Nat) :
    (s.updRing n f).poisoned k = s.poisoned k := by rfl
@[simp] theorem State.updRing_cline (n : Nat) (f : RingSt → RingSt) (k : Nat) : (s.updRing n f).cline k = s.cline k := by rfl
@[simp] theorem State.updRing_dirOf (n : Nat) (f : RingSt → RingSt) (k : Nat) : (s.updRing n f).dirOf k = s.dirOf k := by rfl
@[simp] theorem State.updRing_coding (n : Nat) (f : RingSt → RingSt) (k : Nat) : (s.updRing n f).coding k = s.coding k := by rfl
@[simp] theorem State.updRing_fencedAt (n : Nat) (f : RingSt → RingSt) (k : Nat) :
    (s.updRing n f).fencedAt k = s.fencedAt k := by rfl
@[simp] theorem State.updRing_writeBarred (n : Nat) (f : RingSt → RingSt) (k : Nat) :
    (s.updRing n f).writeBarred k = s.writeBarred k := by rfl

/-! setFlow -/

@[simp] theorem State.setFlow_pending (n : Nat) (x : FlowSt) : (s.setFlow n x).pending = s.pending := by rfl
@[simp] theorem State.setFlow_logWait (n : Nat) (x : FlowSt) : (s.setFlow n x).logWait = s.logWait := by rfl
@[simp] theorem State.setFlow_flowStores (n : Nat) (x : FlowSt) : (s.setFlow n x).flowStores = s.flowStores := by rfl
@[simp] theorem State.setFlow_gt (n : Nat) (x : FlowSt) : (s.setFlow n x).gt = s.gt := by rfl
@[simp] theorem State.setFlow_inFlight (n : Nat) (x : FlowSt) : (s.setFlow n x).inFlight = s.inFlight := by rfl
@[simp] theorem State.setFlow_free (n : Nat) (x : FlowSt) : (s.setFlow n x).free = s.free := by rfl
@[simp] theorem State.setFlow_outs (n : Nat) (x : FlowSt) : (s.setFlow n x).outs = s.outs := by rfl
@[simp] theorem State.setFlow_runs (n : Nat) (x : FlowSt) : (s.setFlow n x).runs = s.runs := by rfl
@[simp] theorem State.setFlow_hub (n : Nat) (x : FlowSt) : (s.setFlow n x).hub = s.hub := by rfl
@[simp] theorem State.setFlow_boot (n : Nat) (x : FlowSt) : (s.setFlow n x).boot = s.boot := by rfl
@[simp] theorem State.setFlow_vyn (n : Nat) (x : FlowSt) : (s.setFlow n x).vyn = s.vyn := by rfl
@[simp] theorem State.setFlow_bench (n : Nat) (x : FlowSt) : (s.setFlow n x).bench = s.bench := by rfl
@[simp] theorem State.setFlow_flash (n : Nat) (x : FlowSt) : (s.setFlow n x).flash = s.flash := by rfl
@[simp] theorem State.setFlow_fuses (n : Nat) (x : FlowSt) : (s.setFlow n x).fuses = s.fuses := by rfl
@[simp] theorem State.setFlow_mem (n : Nat) (x : FlowSt) : (s.setFlow n x).mem = s.mem := by rfl
@[simp] theorem State.setFlow_pin (n : Nat) (x : FlowSt) (k : Nat) : (s.setFlow n x).pin k = s.pin k := by rfl
@[simp] theorem State.setFlow_cl (n : Nat) (x : FlowSt) (k : Nat) : (s.setFlow n x).cl k = s.cl k := by rfl
@[simp] theorem State.setFlow_eng (n : Nat) (x : FlowSt) (k : Nat) : (s.setFlow n x).eng k = s.eng k := by rfl
@[simp] theorem State.setFlow_dig (n : Nat) (x : FlowSt) (k : Nat) : (s.setFlow n x).dig k = s.dig k := by rfl
@[simp] theorem State.setFlow_rg (n : Nat) (x : FlowSt) (k : Nat) : (s.setFlow n x).rg k = s.rg k := by rfl
@[simp] theorem State.setFlow_chan (n : Nat) (x : FlowSt) (k : Nat) : (s.setFlow n x).chan k = s.chan k := by rfl
@[simp] theorem State.setFlow_ring (n : Nat) (x : FlowSt) (k : Nat) : (s.setFlow n x).ring k = s.ring k := by rfl
@[simp] theorem State.setFlow_site (n : Nat) (x : FlowSt) (k : Nat) : (s.setFlow n x).site k = s.site k := by rfl
@[simp] theorem State.setFlow_port (n : Nat) (x : FlowSt) (k : Nat) : (s.setFlow n x).port k = s.port k := by rfl
@[simp] theorem State.setFlow_flag (n : Nat) (x : FlowSt) (k : Nat) : (s.setFlow n x).flag k = s.flag k := by rfl
@[simp] theorem State.setFlow_reg (n : Nat) (x : FlowSt) (k : Nat) : (s.setFlow n x).reg k = s.reg k := by rfl
@[simp] theorem State.setFlow_fld (n : Nat) (x : FlowSt) (k : Nat) (g : Fld) : (s.setFlow n x).fld k g = s.fld k g := by rfl
@[simp] theorem State.setFlow_bit (n : Nat) (x : FlowSt) (k : Nat) (g : Fld) : (s.setFlow n x).bit k g = s.bit k g := by rfl
@[simp] theorem State.setFlow_inForce (n : Nat) (x : FlowSt) (k : Nat) : (s.setFlow n x).inForce k = s.inForce k := by rfl
@[simp] theorem State.setFlow_poisoned (n : Nat) (x : FlowSt) (k : Nat) : (s.setFlow n x).poisoned k = s.poisoned k := by rfl
@[simp] theorem State.setFlow_cline (n : Nat) (x : FlowSt) (k : Nat) : (s.setFlow n x).cline k = s.cline k := by rfl
@[simp] theorem State.setFlow_dirOf (n : Nat) (x : FlowSt) (k : Nat) : (s.setFlow n x).dirOf k = s.dirOf k := by rfl
@[simp] theorem State.setFlow_coding (n : Nat) (x : FlowSt) (k : Nat) : (s.setFlow n x).coding k = s.coding k := by rfl
@[simp] theorem State.setFlow_fencedAt (n : Nat) (x : FlowSt) (k : Nat) : (s.setFlow n x).fencedAt k = s.fencedAt k := by rfl
@[simp] theorem State.setFlow_writeBarred (n : Nat) (x : FlowSt) (k : Nat) :
    (s.setFlow n x).writeBarred k = s.writeBarred k := by rfl

/-! updFlow -/

@[simp] theorem State.updFlow_pending (n : Nat) (f : FlowSt → FlowSt) : (s.updFlow n f).pending = s.pending := by rfl
@[simp] theorem State.updFlow_logWait (n : Nat) (f : FlowSt → FlowSt) : (s.updFlow n f).logWait = s.logWait := by rfl
@[simp] theorem State.updFlow_flowStores (n : Nat) (f : FlowSt → FlowSt) : (s.updFlow n f).flowStores = s.flowStores := by rfl
@[simp] theorem State.updFlow_gt (n : Nat) (f : FlowSt → FlowSt) : (s.updFlow n f).gt = s.gt := by rfl
@[simp] theorem State.updFlow_inFlight (n : Nat) (f : FlowSt → FlowSt) : (s.updFlow n f).inFlight = s.inFlight := by rfl
@[simp] theorem State.updFlow_free (n : Nat) (f : FlowSt → FlowSt) : (s.updFlow n f).free = s.free := by rfl
@[simp] theorem State.updFlow_outs (n : Nat) (f : FlowSt → FlowSt) : (s.updFlow n f).outs = s.outs := by rfl
@[simp] theorem State.updFlow_runs (n : Nat) (f : FlowSt → FlowSt) : (s.updFlow n f).runs = s.runs := by rfl
@[simp] theorem State.updFlow_hub (n : Nat) (f : FlowSt → FlowSt) : (s.updFlow n f).hub = s.hub := by rfl
@[simp] theorem State.updFlow_boot (n : Nat) (f : FlowSt → FlowSt) : (s.updFlow n f).boot = s.boot := by rfl
@[simp] theorem State.updFlow_vyn (n : Nat) (f : FlowSt → FlowSt) : (s.updFlow n f).vyn = s.vyn := by rfl
@[simp] theorem State.updFlow_bench (n : Nat) (f : FlowSt → FlowSt) : (s.updFlow n f).bench = s.bench := by rfl
@[simp] theorem State.updFlow_flash (n : Nat) (f : FlowSt → FlowSt) : (s.updFlow n f).flash = s.flash := by rfl
@[simp] theorem State.updFlow_fuses (n : Nat) (f : FlowSt → FlowSt) : (s.updFlow n f).fuses = s.fuses := by rfl
@[simp] theorem State.updFlow_mem (n : Nat) (f : FlowSt → FlowSt) : (s.updFlow n f).mem = s.mem := by rfl
@[simp] theorem State.updFlow_pin (n : Nat) (f : FlowSt → FlowSt) (k : Nat) : (s.updFlow n f).pin k = s.pin k := by rfl
@[simp] theorem State.updFlow_cl (n : Nat) (f : FlowSt → FlowSt) (k : Nat) : (s.updFlow n f).cl k = s.cl k := by rfl
@[simp] theorem State.updFlow_eng (n : Nat) (f : FlowSt → FlowSt) (k : Nat) : (s.updFlow n f).eng k = s.eng k := by rfl
@[simp] theorem State.updFlow_dig (n : Nat) (f : FlowSt → FlowSt) (k : Nat) : (s.updFlow n f).dig k = s.dig k := by rfl
@[simp] theorem State.updFlow_rg (n : Nat) (f : FlowSt → FlowSt) (k : Nat) : (s.updFlow n f).rg k = s.rg k := by rfl
@[simp] theorem State.updFlow_chan (n : Nat) (f : FlowSt → FlowSt) (k : Nat) : (s.updFlow n f).chan k = s.chan k := by rfl
@[simp] theorem State.updFlow_ring (n : Nat) (f : FlowSt → FlowSt) (k : Nat) : (s.updFlow n f).ring k = s.ring k := by rfl
@[simp] theorem State.updFlow_site (n : Nat) (f : FlowSt → FlowSt) (k : Nat) : (s.updFlow n f).site k = s.site k := by rfl
@[simp] theorem State.updFlow_port (n : Nat) (f : FlowSt → FlowSt) (k : Nat) : (s.updFlow n f).port k = s.port k := by rfl
@[simp] theorem State.updFlow_flag (n : Nat) (f : FlowSt → FlowSt) (k : Nat) : (s.updFlow n f).flag k = s.flag k := by rfl
@[simp] theorem State.updFlow_reg (n : Nat) (f : FlowSt → FlowSt) (k : Nat) : (s.updFlow n f).reg k = s.reg k := by rfl
@[simp] theorem State.updFlow_fld (n : Nat) (f : FlowSt → FlowSt) (k : Nat) (g : Fld) :
    (s.updFlow n f).fld k g = s.fld k g := by rfl
@[simp] theorem State.updFlow_bit (n : Nat) (f : FlowSt → FlowSt) (k : Nat) (g : Fld) :
    (s.updFlow n f).bit k g = s.bit k g := by rfl
@[simp] theorem State.updFlow_inForce (n : Nat) (f : FlowSt → FlowSt) (k : Nat) : (s.updFlow n f).inForce k = s.inForce k := by rfl
@[simp] theorem State.updFlow_poisoned (n : Nat) (f : FlowSt → FlowSt) (k : Nat) :
    (s.updFlow n f).poisoned k = s.poisoned k := by rfl
@[simp] theorem State.updFlow_cline (n : Nat) (f : FlowSt → FlowSt) (k : Nat) : (s.updFlow n f).cline k = s.cline k := by rfl
@[simp] theorem State.updFlow_dirOf (n : Nat) (f : FlowSt → FlowSt) (k : Nat) : (s.updFlow n f).dirOf k = s.dirOf k := by rfl
@[simp] theorem State.updFlow_coding (n : Nat) (f : FlowSt → FlowSt) (k : Nat) : (s.updFlow n f).coding k = s.coding k := by rfl
@[simp] theorem State.updFlow_fencedAt (n : Nat) (f : FlowSt → FlowSt) (k : Nat) :
    (s.updFlow n f).fencedAt k = s.fencedAt k := by rfl
@[simp] theorem State.updFlow_writeBarred (n : Nat) (f : FlowSt → FlowSt) (k : Nat) :
    (s.updFlow n f).writeBarred k = s.writeBarred k := by rfl

/-! setSite -/

@[simp] theorem State.setSite_pending (k : Nat) (x : SiteSt) : (s.setSite k x).pending = s.pending := by rfl
@[simp] theorem State.setSite_logWait (k : Nat) (x : SiteSt) : (s.setSite k x).logWait = s.logWait := by rfl
@[simp] theorem State.setSite_flowStores (k : Nat) (x : SiteSt) : (s.setSite k x).flowStores = s.flowStores := by rfl
@[simp] theorem State.setSite_gt (k : Nat) (x : SiteSt) : (s.setSite k x).gt = s.gt := by rfl
@[simp] theorem State.setSite_inFlight (k : Nat) (x : SiteSt) : (s.setSite k x).inFlight = s.inFlight := by rfl
@[simp] theorem State.setSite_free (k : Nat) (x : SiteSt) : (s.setSite k x).free = s.free := by rfl
@[simp] theorem State.setSite_outs (k : Nat) (x : SiteSt) : (s.setSite k x).outs = s.outs := by rfl
@[simp] theorem State.setSite_runs (k : Nat) (x : SiteSt) : (s.setSite k x).runs = s.runs := by rfl
@[simp] theorem State.setSite_hub (k : Nat) (x : SiteSt) : (s.setSite k x).hub = s.hub := by rfl
@[simp] theorem State.setSite_boot (k : Nat) (x : SiteSt) : (s.setSite k x).boot = s.boot := by rfl
@[simp] theorem State.setSite_vyn (k : Nat) (x : SiteSt) : (s.setSite k x).vyn = s.vyn := by rfl
@[simp] theorem State.setSite_bench (k : Nat) (x : SiteSt) : (s.setSite k x).bench = s.bench := by rfl
@[simp] theorem State.setSite_flash (k : Nat) (x : SiteSt) : (s.setSite k x).flash = s.flash := by rfl
@[simp] theorem State.setSite_fuses (k : Nat) (x : SiteSt) : (s.setSite k x).fuses = s.fuses := by rfl
@[simp] theorem State.setSite_mem (k : Nat) (x : SiteSt) : (s.setSite k x).mem = s.mem := by rfl
@[simp] theorem State.setSite_pin (k : Nat) (x : SiteSt) (j : Nat) : (s.setSite k x).pin j = s.pin j := by rfl
@[simp] theorem State.setSite_cl (k : Nat) (x : SiteSt) (j : Nat) : (s.setSite k x).cl j = s.cl j := by rfl
@[simp] theorem State.setSite_eng (k : Nat) (x : SiteSt) (j : Nat) : (s.setSite k x).eng j = s.eng j := by rfl
@[simp] theorem State.setSite_dig (k : Nat) (x : SiteSt) (j : Nat) : (s.setSite k x).dig j = s.dig j := by rfl
@[simp] theorem State.setSite_rg (k : Nat) (x : SiteSt) (j : Nat) : (s.setSite k x).rg j = s.rg j := by rfl
@[simp] theorem State.setSite_chan (k : Nat) (x : SiteSt) (j : Nat) : (s.setSite k x).chan j = s.chan j := by rfl
@[simp] theorem State.setSite_ring (k : Nat) (x : SiteSt) (j : Nat) : (s.setSite k x).ring j = s.ring j := by rfl
@[simp] theorem State.setSite_flow (k : Nat) (x : SiteSt) (j : Nat) : (s.setSite k x).flow j = s.flow j := by rfl
@[simp] theorem State.setSite_port (k : Nat) (x : SiteSt) (j : Nat) : (s.setSite k x).port j = s.port j := by rfl
@[simp] theorem State.setSite_flag (k : Nat) (x : SiteSt) (j : Nat) : (s.setSite k x).flag j = s.flag j := by rfl
@[simp] theorem State.setSite_reg (k : Nat) (x : SiteSt) (j : Nat) : (s.setSite k x).reg j = s.reg j := by rfl
@[simp] theorem State.setSite_fld (k : Nat) (x : SiteSt) (j : Nat) (g : Fld) : (s.setSite k x).fld j g = s.fld j g := by rfl
@[simp] theorem State.setSite_bit (k : Nat) (x : SiteSt) (j : Nat) (g : Fld) : (s.setSite k x).bit j g = s.bit j g := by rfl
@[simp] theorem State.setSite_inForce (k : Nat) (x : SiteSt) (j : Nat) : (s.setSite k x).inForce j = s.inForce j := by rfl
@[simp] theorem State.setSite_poisoned (k : Nat) (x : SiteSt) (j : Nat) : (s.setSite k x).poisoned j = s.poisoned j := by rfl
@[simp] theorem State.setSite_cline (k : Nat) (x : SiteSt) (j : Nat) : (s.setSite k x).cline j = s.cline j := by rfl
@[simp] theorem State.setSite_dirOf (k : Nat) (x : SiteSt) (j : Nat) : (s.setSite k x).dirOf j = s.dirOf j := by rfl
@[simp] theorem State.setSite_coding (k : Nat) (x : SiteSt) (j : Nat) : (s.setSite k x).coding j = s.coding j := by rfl
@[simp] theorem State.setSite_fencedAt (k : Nat) (x : SiteSt) (j : Nat) : (s.setSite k x).fencedAt j = s.fencedAt j := by rfl
@[simp] theorem State.setSite_writeBarred (k : Nat) (x : SiteSt) (j : Nat) :
    (s.setSite k x).writeBarred j = s.writeBarred j := by rfl

/-! updSite -/

@[simp] theorem State.updSite_pending (k : Nat) (f : SiteSt → SiteSt) : (s.updSite k f).pending = s.pending := by rfl
@[simp] theorem State.updSite_logWait (k : Nat) (f : SiteSt → SiteSt) : (s.updSite k f).logWait = s.logWait := by rfl
@[simp] theorem State.updSite_flowStores (k : Nat) (f : SiteSt → SiteSt) : (s.updSite k f).flowStores = s.flowStores := by rfl
@[simp] theorem State.updSite_gt (k : Nat) (f : SiteSt → SiteSt) : (s.updSite k f).gt = s.gt := by rfl
@[simp] theorem State.updSite_inFlight (k : Nat) (f : SiteSt → SiteSt) : (s.updSite k f).inFlight = s.inFlight := by rfl
@[simp] theorem State.updSite_free (k : Nat) (f : SiteSt → SiteSt) : (s.updSite k f).free = s.free := by rfl
@[simp] theorem State.updSite_outs (k : Nat) (f : SiteSt → SiteSt) : (s.updSite k f).outs = s.outs := by rfl
@[simp] theorem State.updSite_runs (k : Nat) (f : SiteSt → SiteSt) : (s.updSite k f).runs = s.runs := by rfl
@[simp] theorem State.updSite_hub (k : Nat) (f : SiteSt → SiteSt) : (s.updSite k f).hub = s.hub := by rfl
@[simp] theorem State.updSite_boot (k : Nat) (f : SiteSt → SiteSt) : (s.updSite k f).boot = s.boot := by rfl
@[simp] theorem State.updSite_vyn (k : Nat) (f : SiteSt → SiteSt) : (s.updSite k f).vyn = s.vyn := by rfl
@[simp] theorem State.updSite_bench (k : Nat) (f : SiteSt → SiteSt) : (s.updSite k f).bench = s.bench := by rfl
@[simp] theorem State.updSite_flash (k : Nat) (f : SiteSt → SiteSt) : (s.updSite k f).flash = s.flash := by rfl
@[simp] theorem State.updSite_fuses (k : Nat) (f : SiteSt → SiteSt) : (s.updSite k f).fuses = s.fuses := by rfl
@[simp] theorem State.updSite_mem (k : Nat) (f : SiteSt → SiteSt) : (s.updSite k f).mem = s.mem := by rfl
@[simp] theorem State.updSite_pin (k : Nat) (f : SiteSt → SiteSt) (j : Nat) : (s.updSite k f).pin j = s.pin j := by rfl
@[simp] theorem State.updSite_cl (k : Nat) (f : SiteSt → SiteSt) (j : Nat) : (s.updSite k f).cl j = s.cl j := by rfl
@[simp] theorem State.updSite_eng (k : Nat) (f : SiteSt → SiteSt) (j : Nat) : (s.updSite k f).eng j = s.eng j := by rfl
@[simp] theorem State.updSite_dig (k : Nat) (f : SiteSt → SiteSt) (j : Nat) : (s.updSite k f).dig j = s.dig j := by rfl
@[simp] theorem State.updSite_rg (k : Nat) (f : SiteSt → SiteSt) (j : Nat) : (s.updSite k f).rg j = s.rg j := by rfl
@[simp] theorem State.updSite_chan (k : Nat) (f : SiteSt → SiteSt) (j : Nat) : (s.updSite k f).chan j = s.chan j := by rfl
@[simp] theorem State.updSite_ring (k : Nat) (f : SiteSt → SiteSt) (j : Nat) : (s.updSite k f).ring j = s.ring j := by rfl
@[simp] theorem State.updSite_flow (k : Nat) (f : SiteSt → SiteSt) (j : Nat) : (s.updSite k f).flow j = s.flow j := by rfl
@[simp] theorem State.updSite_port (k : Nat) (f : SiteSt → SiteSt) (j : Nat) : (s.updSite k f).port j = s.port j := by rfl
@[simp] theorem State.updSite_flag (k : Nat) (f : SiteSt → SiteSt) (j : Nat) : (s.updSite k f).flag j = s.flag j := by rfl
@[simp] theorem State.updSite_reg (k : Nat) (f : SiteSt → SiteSt) (j : Nat) : (s.updSite k f).reg j = s.reg j := by rfl
@[simp] theorem State.updSite_fld (k : Nat) (f : SiteSt → SiteSt) (j : Nat) (g : Fld) :
    (s.updSite k f).fld j g = s.fld j g := by rfl
@[simp] theorem State.updSite_bit (k : Nat) (f : SiteSt → SiteSt) (j : Nat) (g : Fld) :
    (s.updSite k f).bit j g = s.bit j g := by rfl
@[simp] theorem State.updSite_inForce (k : Nat) (f : SiteSt → SiteSt) (j : Nat) : (s.updSite k f).inForce j = s.inForce j := by rfl
@[simp] theorem State.updSite_poisoned (k : Nat) (f : SiteSt → SiteSt) (j : Nat) :
    (s.updSite k f).poisoned j = s.poisoned j := by rfl
@[simp] theorem State.updSite_cline (k : Nat) (f : SiteSt → SiteSt) (j : Nat) : (s.updSite k f).cline j = s.cline j := by rfl
@[simp] theorem State.updSite_dirOf (k : Nat) (f : SiteSt → SiteSt) (j : Nat) : (s.updSite k f).dirOf j = s.dirOf j := by rfl
@[simp] theorem State.updSite_coding (k : Nat) (f : SiteSt → SiteSt) (j : Nat) : (s.updSite k f).coding j = s.coding j := by rfl
@[simp] theorem State.updSite_fencedAt (k : Nat) (f : SiteSt → SiteSt) (j : Nat) :
    (s.updSite k f).fencedAt j = s.fencedAt j := by rfl
@[simp] theorem State.updSite_writeBarred (k : Nat) (f : SiteSt → SiteSt) (j : Nat) :
    (s.updSite k f).writeBarred j = s.writeBarred j := by rfl

/-! setPort -/

@[simp] theorem State.setPort_pending (n : Nat) (x : PortSt) : (s.setPort n x).pending = s.pending := by rfl
@[simp] theorem State.setPort_logWait (n : Nat) (x : PortSt) : (s.setPort n x).logWait = s.logWait := by rfl
@[simp] theorem State.setPort_flowStores (n : Nat) (x : PortSt) : (s.setPort n x).flowStores = s.flowStores := by rfl
@[simp] theorem State.setPort_gt (n : Nat) (x : PortSt) : (s.setPort n x).gt = s.gt := by rfl
@[simp] theorem State.setPort_inFlight (n : Nat) (x : PortSt) : (s.setPort n x).inFlight = s.inFlight := by rfl
@[simp] theorem State.setPort_free (n : Nat) (x : PortSt) : (s.setPort n x).free = s.free := by rfl
@[simp] theorem State.setPort_outs (n : Nat) (x : PortSt) : (s.setPort n x).outs = s.outs := by rfl
@[simp] theorem State.setPort_runs (n : Nat) (x : PortSt) : (s.setPort n x).runs = s.runs := by rfl
@[simp] theorem State.setPort_hub (n : Nat) (x : PortSt) : (s.setPort n x).hub = s.hub := by rfl
@[simp] theorem State.setPort_boot (n : Nat) (x : PortSt) : (s.setPort n x).boot = s.boot := by rfl
@[simp] theorem State.setPort_vyn (n : Nat) (x : PortSt) : (s.setPort n x).vyn = s.vyn := by rfl
@[simp] theorem State.setPort_bench (n : Nat) (x : PortSt) : (s.setPort n x).bench = s.bench := by rfl
@[simp] theorem State.setPort_flash (n : Nat) (x : PortSt) : (s.setPort n x).flash = s.flash := by rfl
@[simp] theorem State.setPort_fuses (n : Nat) (x : PortSt) : (s.setPort n x).fuses = s.fuses := by rfl
@[simp] theorem State.setPort_mem (n : Nat) (x : PortSt) : (s.setPort n x).mem = s.mem := by rfl
@[simp] theorem State.setPort_pin (n : Nat) (x : PortSt) (k : Nat) : (s.setPort n x).pin k = s.pin k := by rfl
@[simp] theorem State.setPort_cl (n : Nat) (x : PortSt) (k : Nat) : (s.setPort n x).cl k = s.cl k := by rfl
@[simp] theorem State.setPort_eng (n : Nat) (x : PortSt) (k : Nat) : (s.setPort n x).eng k = s.eng k := by rfl
@[simp] theorem State.setPort_dig (n : Nat) (x : PortSt) (k : Nat) : (s.setPort n x).dig k = s.dig k := by rfl
@[simp] theorem State.setPort_rg (n : Nat) (x : PortSt) (k : Nat) : (s.setPort n x).rg k = s.rg k := by rfl
@[simp] theorem State.setPort_chan (n : Nat) (x : PortSt) (k : Nat) : (s.setPort n x).chan k = s.chan k := by rfl
@[simp] theorem State.setPort_ring (n : Nat) (x : PortSt) (k : Nat) : (s.setPort n x).ring k = s.ring k := by rfl
@[simp] theorem State.setPort_flow (n : Nat) (x : PortSt) (k : Nat) : (s.setPort n x).flow k = s.flow k := by rfl
@[simp] theorem State.setPort_site (n : Nat) (x : PortSt) (k : Nat) : (s.setPort n x).site k = s.site k := by rfl
@[simp] theorem State.setPort_flag (n : Nat) (x : PortSt) (k : Nat) : (s.setPort n x).flag k = s.flag k := by rfl
@[simp] theorem State.setPort_reg (n : Nat) (x : PortSt) (k : Nat) : (s.setPort n x).reg k = s.reg k := by rfl
@[simp] theorem State.setPort_fld (n : Nat) (x : PortSt) (k : Nat) (g : Fld) : (s.setPort n x).fld k g = s.fld k g := by rfl
@[simp] theorem State.setPort_bit (n : Nat) (x : PortSt) (k : Nat) (g : Fld) : (s.setPort n x).bit k g = s.bit k g := by rfl
@[simp] theorem State.setPort_inForce (n : Nat) (x : PortSt) (k : Nat) : (s.setPort n x).inForce k = s.inForce k := by rfl
@[simp] theorem State.setPort_poisoned (n : Nat) (x : PortSt) (k : Nat) : (s.setPort n x).poisoned k = s.poisoned k := by rfl
@[simp] theorem State.setPort_cline (n : Nat) (x : PortSt) (k : Nat) : (s.setPort n x).cline k = s.cline k := by rfl
@[simp] theorem State.setPort_dirOf (n : Nat) (x : PortSt) (k : Nat) : (s.setPort n x).dirOf k = s.dirOf k := by rfl
@[simp] theorem State.setPort_coding (n : Nat) (x : PortSt) (k : Nat) : (s.setPort n x).coding k = s.coding k := by rfl
@[simp] theorem State.setPort_fencedAt (n : Nat) (x : PortSt) (k : Nat) : (s.setPort n x).fencedAt k = s.fencedAt k := by rfl
@[simp] theorem State.setPort_writeBarred (n : Nat) (x : PortSt) (k : Nat) :
    (s.setPort n x).writeBarred k = s.writeBarred k := by rfl

/-! setFlag -/

@[simp] theorem State.setFlag_pending (k : Nat) (b : Bool) : (s.setFlag k b).pending = s.pending := by rfl
@[simp] theorem State.setFlag_logWait (k : Nat) (b : Bool) : (s.setFlag k b).logWait = s.logWait := by rfl
@[simp] theorem State.setFlag_flowStores (k : Nat) (b : Bool) : (s.setFlag k b).flowStores = s.flowStores := by rfl
@[simp] theorem State.setFlag_gt (k : Nat) (b : Bool) : (s.setFlag k b).gt = s.gt := by rfl
@[simp] theorem State.setFlag_inFlight (k : Nat) (b : Bool) : (s.setFlag k b).inFlight = s.inFlight := by rfl
@[simp] theorem State.setFlag_free (k : Nat) (b : Bool) : (s.setFlag k b).free = s.free := by rfl
@[simp] theorem State.setFlag_outs (k : Nat) (b : Bool) : (s.setFlag k b).outs = s.outs := by rfl
@[simp] theorem State.setFlag_runs (k : Nat) (b : Bool) : (s.setFlag k b).runs = s.runs := by rfl
@[simp] theorem State.setFlag_hub (k : Nat) (b : Bool) : (s.setFlag k b).hub = s.hub := by rfl
@[simp] theorem State.setFlag_boot (k : Nat) (b : Bool) : (s.setFlag k b).boot = s.boot := by rfl
@[simp] theorem State.setFlag_vyn (k : Nat) (b : Bool) : (s.setFlag k b).vyn = s.vyn := by rfl
@[simp] theorem State.setFlag_bench (k : Nat) (b : Bool) : (s.setFlag k b).bench = s.bench := by rfl
@[simp] theorem State.setFlag_flash (k : Nat) (b : Bool) : (s.setFlag k b).flash = s.flash := by rfl
@[simp] theorem State.setFlag_fuses (k : Nat) (b : Bool) : (s.setFlag k b).fuses = s.fuses := by rfl
@[simp] theorem State.setFlag_mem (k : Nat) (b : Bool) : (s.setFlag k b).mem = s.mem := by rfl
@[simp] theorem State.setFlag_pin (k : Nat) (b : Bool) (j : Nat) : (s.setFlag k b).pin j = s.pin j := by rfl
@[simp] theorem State.setFlag_cl (k : Nat) (b : Bool) (j : Nat) : (s.setFlag k b).cl j = s.cl j := by rfl
@[simp] theorem State.setFlag_eng (k : Nat) (b : Bool) (j : Nat) : (s.setFlag k b).eng j = s.eng j := by rfl
@[simp] theorem State.setFlag_dig (k : Nat) (b : Bool) (j : Nat) : (s.setFlag k b).dig j = s.dig j := by rfl
@[simp] theorem State.setFlag_rg (k : Nat) (b : Bool) (j : Nat) : (s.setFlag k b).rg j = s.rg j := by rfl
@[simp] theorem State.setFlag_chan (k : Nat) (b : Bool) (j : Nat) : (s.setFlag k b).chan j = s.chan j := by rfl
@[simp] theorem State.setFlag_ring (k : Nat) (b : Bool) (j : Nat) : (s.setFlag k b).ring j = s.ring j := by rfl
@[simp] theorem State.setFlag_flow (k : Nat) (b : Bool) (j : Nat) : (s.setFlag k b).flow j = s.flow j := by rfl
@[simp] theorem State.setFlag_site (k : Nat) (b : Bool) (j : Nat) : (s.setFlag k b).site j = s.site j := by rfl
@[simp] theorem State.setFlag_port (k : Nat) (b : Bool) (j : Nat) : (s.setFlag k b).port j = s.port j := by rfl
@[simp] theorem State.setFlag_reg (k : Nat) (b : Bool) (j : Nat) : (s.setFlag k b).reg j = s.reg j := by rfl
@[simp] theorem State.setFlag_fld (k : Nat) (b : Bool) (j : Nat) (g : Fld) : (s.setFlag k b).fld j g = s.fld j g := by rfl
@[simp] theorem State.setFlag_bit (k : Nat) (b : Bool) (j : Nat) (g : Fld) : (s.setFlag k b).bit j g = s.bit j g := by rfl
@[simp] theorem State.setFlag_inForce (k : Nat) (b : Bool) (j : Nat) : (s.setFlag k b).inForce j = s.inForce j := by rfl
@[simp] theorem State.setFlag_poisoned (k : Nat) (b : Bool) (j : Nat) : (s.setFlag k b).poisoned j = s.poisoned j := by rfl
@[simp] theorem State.setFlag_cline (k : Nat) (b : Bool) (j : Nat) : (s.setFlag k b).cline j = s.cline j := by rfl
@[simp] theorem State.setFlag_dirOf (k : Nat) (b : Bool) (j : Nat) : (s.setFlag k b).dirOf j = s.dirOf j := by rfl
@[simp] theorem State.setFlag_coding (k : Nat) (b : Bool) (j : Nat) : (s.setFlag k b).coding j = s.coding j := by rfl
@[simp] theorem State.setFlag_fencedAt (k : Nat) (b : Bool) (j : Nat) : (s.setFlag k b).fencedAt j = s.fencedAt j := by rfl
@[simp] theorem State.setFlag_writeBarred (k : Nat) (b : Bool) (j : Nat) : (s.setFlag k b).writeBarred j = s.writeBarred j := by rfl

/-! updRun -/

@[simp] theorem State.updRun_pending (i : Nat) (f : Run → Run) : (s.updRun i f).pending = s.pending := by rfl
@[simp] theorem State.updRun_logWait (i : Nat) (f : Run → Run) : (s.updRun i f).logWait = s.logWait := by rfl
@[simp] theorem State.updRun_flowStores (i : Nat) (f : Run → Run) : (s.updRun i f).flowStores = s.flowStores := by rfl
@[simp] theorem State.updRun_gt (i : Nat) (f : Run → Run) : (s.updRun i f).gt = s.gt := by rfl
@[simp] theorem State.updRun_inFlight (i : Nat) (f : Run → Run) : (s.updRun i f).inFlight = s.inFlight := by rfl
@[simp] theorem State.updRun_free (i : Nat) (f : Run → Run) : (s.updRun i f).free = s.free := by rfl
@[simp] theorem State.updRun_outs (i : Nat) (f : Run → Run) : (s.updRun i f).outs = s.outs := by rfl
@[simp] theorem State.updRun_hub (i : Nat) (f : Run → Run) : (s.updRun i f).hub = s.hub := by rfl
@[simp] theorem State.updRun_boot (i : Nat) (f : Run → Run) : (s.updRun i f).boot = s.boot := by rfl
@[simp] theorem State.updRun_vyn (i : Nat) (f : Run → Run) : (s.updRun i f).vyn = s.vyn := by rfl
@[simp] theorem State.updRun_bench (i : Nat) (f : Run → Run) : (s.updRun i f).bench = s.bench := by rfl
@[simp] theorem State.updRun_flash (i : Nat) (f : Run → Run) : (s.updRun i f).flash = s.flash := by rfl
@[simp] theorem State.updRun_fuses (i : Nat) (f : Run → Run) : (s.updRun i f).fuses = s.fuses := by rfl
@[simp] theorem State.updRun_mem (i : Nat) (f : Run → Run) : (s.updRun i f).mem = s.mem := by rfl
@[simp] theorem State.updRun_pin (i : Nat) (f : Run → Run) (k : Nat) : (s.updRun i f).pin k = s.pin k := by rfl
@[simp] theorem State.updRun_cl (i : Nat) (f : Run → Run) (k : Nat) : (s.updRun i f).cl k = s.cl k := by rfl
@[simp] theorem State.updRun_eng (i : Nat) (f : Run → Run) (k : Nat) : (s.updRun i f).eng k = s.eng k := by rfl
@[simp] theorem State.updRun_dig (i : Nat) (f : Run → Run) (k : Nat) : (s.updRun i f).dig k = s.dig k := by rfl
@[simp] theorem State.updRun_rg (i : Nat) (f : Run → Run) (k : Nat) : (s.updRun i f).rg k = s.rg k := by rfl
@[simp] theorem State.updRun_chan (i : Nat) (f : Run → Run) (k : Nat) : (s.updRun i f).chan k = s.chan k := by rfl
@[simp] theorem State.updRun_ring (i : Nat) (f : Run → Run) (k : Nat) : (s.updRun i f).ring k = s.ring k := by rfl
@[simp] theorem State.updRun_flow (i : Nat) (f : Run → Run) (k : Nat) : (s.updRun i f).flow k = s.flow k := by rfl
@[simp] theorem State.updRun_site (i : Nat) (f : Run → Run) (k : Nat) : (s.updRun i f).site k = s.site k := by rfl
@[simp] theorem State.updRun_port (i : Nat) (f : Run → Run) (k : Nat) : (s.updRun i f).port k = s.port k := by rfl
@[simp] theorem State.updRun_flag (i : Nat) (f : Run → Run) (k : Nat) : (s.updRun i f).flag k = s.flag k := by rfl
@[simp] theorem State.updRun_reg (i : Nat) (f : Run → Run) (k : Nat) : (s.updRun i f).reg k = s.reg k := by rfl
@[simp] theorem State.updRun_fld (i : Nat) (f : Run → Run) (k : Nat) (g : Fld) : (s.updRun i f).fld k g = s.fld k g := by rfl
@[simp] theorem State.updRun_bit (i : Nat) (f : Run → Run) (k : Nat) (g : Fld) : (s.updRun i f).bit k g = s.bit k g := by rfl
@[simp] theorem State.updRun_inForce (i : Nat) (f : Run → Run) (k : Nat) : (s.updRun i f).inForce k = s.inForce k := by rfl
@[simp] theorem State.updRun_poisoned (i : Nat) (f : Run → Run) (k : Nat) : (s.updRun i f).poisoned k = s.poisoned k := by rfl
@[simp] theorem State.updRun_cline (i : Nat) (f : Run → Run) (k : Nat) : (s.updRun i f).cline k = s.cline k := by rfl
@[simp] theorem State.updRun_dirOf (i : Nat) (f : Run → Run) (k : Nat) : (s.updRun i f).dirOf k = s.dirOf k := by rfl
@[simp] theorem State.updRun_coding (i : Nat) (f : Run → Run) (k : Nat) : (s.updRun i f).coding k = s.coding k := by rfl
@[simp] theorem State.updRun_fencedAt (i : Nat) (f : Run → Run) (k : Nat) : (s.updRun i f).fencedAt k = s.fencedAt k := by rfl
@[simp] theorem State.updRun_writeBarred (i : Nat) (f : Run → Run) (k : Nat) :
    (s.updRun i f).writeBarred k = s.writeBarred k := by rfl

/-! setReg -/

@[simp] theorem State.setReg_pending (a : Nat) (w : Word) : (s.setReg a w).pending = s.pending := by rfl
@[simp] theorem State.setReg_logWait (a : Nat) (w : Word) : (s.setReg a w).logWait = s.logWait := by rfl
@[simp] theorem State.setReg_flowStores (a : Nat) (w : Word) : (s.setReg a w).flowStores = s.flowStores := by rfl
@[simp] theorem State.setReg_gt (a : Nat) (w : Word) : (s.setReg a w).gt = s.gt := by rfl
@[simp] theorem State.setReg_inFlight (a : Nat) (w : Word) : (s.setReg a w).inFlight = s.inFlight := by rfl
@[simp] theorem State.setReg_free (a : Nat) (w : Word) : (s.setReg a w).free = s.free := by rfl
@[simp] theorem State.setReg_outs (a : Nat) (w : Word) : (s.setReg a w).outs = s.outs := by rfl
@[simp] theorem State.setReg_runs (a : Nat) (w : Word) : (s.setReg a w).runs = s.runs := by rfl
@[simp] theorem State.setReg_hub (a : Nat) (w : Word) : (s.setReg a w).hub = s.hub := by rfl
@[simp] theorem State.setReg_boot (a : Nat) (w : Word) : (s.setReg a w).boot = s.boot := by rfl
@[simp] theorem State.setReg_vyn (a : Nat) (w : Word) : (s.setReg a w).vyn = s.vyn := by rfl
@[simp] theorem State.setReg_bench (a : Nat) (w : Word) : (s.setReg a w).bench = s.bench := by rfl
@[simp] theorem State.setReg_flash (a : Nat) (w : Word) : (s.setReg a w).flash = s.flash := by rfl
@[simp] theorem State.setReg_fuses (a : Nat) (w : Word) : (s.setReg a w).fuses = s.fuses := by rfl
@[simp] theorem State.setReg_mem (a : Nat) (w : Word) : (s.setReg a w).mem = s.mem := by rfl
@[simp] theorem State.setReg_pin (a : Nat) (w : Word) (k : Nat) : (s.setReg a w).pin k = s.pin k := by rfl
@[simp] theorem State.setReg_cl (a : Nat) (w : Word) (k : Nat) : (s.setReg a w).cl k = s.cl k := by rfl
@[simp] theorem State.setReg_eng (a : Nat) (w : Word) (k : Nat) : (s.setReg a w).eng k = s.eng k := by rfl
@[simp] theorem State.setReg_dig (a : Nat) (w : Word) (k : Nat) : (s.setReg a w).dig k = s.dig k := by rfl
@[simp] theorem State.setReg_rg (a : Nat) (w : Word) (k : Nat) : (s.setReg a w).rg k = s.rg k := by rfl
@[simp] theorem State.setReg_chan (a : Nat) (w : Word) (k : Nat) : (s.setReg a w).chan k = s.chan k := by rfl
@[simp] theorem State.setReg_ring (a : Nat) (w : Word) (k : Nat) : (s.setReg a w).ring k = s.ring k := by rfl
@[simp] theorem State.setReg_flow (a : Nat) (w : Word) (k : Nat) : (s.setReg a w).flow k = s.flow k := by rfl
@[simp] theorem State.setReg_site (a : Nat) (w : Word) (k : Nat) : (s.setReg a w).site k = s.site k := by rfl
@[simp] theorem State.setReg_port (a : Nat) (w : Word) (k : Nat) : (s.setReg a w).port k = s.port k := by rfl
@[simp] theorem State.setReg_flag (a : Nat) (w : Word) (k : Nat) : (s.setReg a w).flag k = s.flag k := by rfl
@[simp] theorem State.setReg_inForce (a : Nat) (w : Word) (k : Nat) : (s.setReg a w).inForce k = s.inForce k := by rfl
@[simp] theorem State.setReg_poisoned (a : Nat) (w : Word) (k : Nat) : (s.setReg a w).poisoned k = s.poisoned k := by rfl
@[simp] theorem State.setReg_cline (a : Nat) (w : Word) (k : Nat) : (s.setReg a w).cline k = s.cline k := by rfl
@[simp] theorem State.setReg_dirOf (a : Nat) (w : Word) (k : Nat) : (s.setReg a w).dirOf k = s.dirOf k := by rfl
@[simp] theorem State.setReg_coding (a : Nat) (w : Word) (k : Nat) : (s.setReg a w).coding k = s.coding k := by rfl
@[simp] theorem State.setReg_fencedAt (a : Nat) (w : Word) (k : Nat) : (s.setReg a w).fencedAt k = s.fencedAt k := by rfl

/-! setFld -/

@[simp] theorem State.setFld_pending (a : Nat) (f : Fld) (v : Nat) : (s.setFld a f v).pending = s.pending := by rfl
@[simp] theorem State.setFld_logWait (a : Nat) (f : Fld) (v : Nat) : (s.setFld a f v).logWait = s.logWait := by rfl
@[simp] theorem State.setFld_flowStores (a : Nat) (f : Fld) (v : Nat) : (s.setFld a f v).flowStores = s.flowStores := by rfl
@[simp] theorem State.setFld_gt (a : Nat) (f : Fld) (v : Nat) : (s.setFld a f v).gt = s.gt := by rfl
@[simp] theorem State.setFld_inFlight (a : Nat) (f : Fld) (v : Nat) : (s.setFld a f v).inFlight = s.inFlight := by rfl
@[simp] theorem State.setFld_free (a : Nat) (f : Fld) (v : Nat) : (s.setFld a f v).free = s.free := by rfl
@[simp] theorem State.setFld_outs (a : Nat) (f : Fld) (v : Nat) : (s.setFld a f v).outs = s.outs := by rfl
@[simp] theorem State.setFld_runs (a : Nat) (f : Fld) (v : Nat) : (s.setFld a f v).runs = s.runs := by rfl
@[simp] theorem State.setFld_hub (a : Nat) (f : Fld) (v : Nat) : (s.setFld a f v).hub = s.hub := by rfl
@[simp] theorem State.setFld_boot (a : Nat) (f : Fld) (v : Nat) : (s.setFld a f v).boot = s.boot := by rfl
@[simp] theorem State.setFld_vyn (a : Nat) (f : Fld) (v : Nat) : (s.setFld a f v).vyn = s.vyn := by rfl
@[simp] theorem State.setFld_bench (a : Nat) (f : Fld) (v : Nat) : (s.setFld a f v).bench = s.bench := by rfl
@[simp] theorem State.setFld_flash (a : Nat) (f : Fld) (v : Nat) : (s.setFld a f v).flash = s.flash := by rfl
@[simp] theorem State.setFld_fuses (a : Nat) (f : Fld) (v : Nat) : (s.setFld a f v).fuses = s.fuses := by rfl
@[simp] theorem State.setFld_mem (a : Nat) (f : Fld) (v : Nat) : (s.setFld a f v).mem = s.mem := by rfl
@[simp] theorem State.setFld_pin (a : Nat) (f : Fld) (v : Nat) (k : Nat) : (s.setFld a f v).pin k = s.pin k := by rfl
@[simp] theorem State.setFld_cl (a : Nat) (f : Fld) (v : Nat) (k : Nat) : (s.setFld a f v).cl k = s.cl k := by rfl
@[simp] theorem State.setFld_eng (a : Nat) (f : Fld) (v : Nat) (k : Nat) : (s.setFld a f v).eng k = s.eng k := by rfl
@[simp] theorem State.setFld_dig (a : Nat) (f : Fld) (v : Nat) (k : Nat) : (s.setFld a f v).dig k = s.dig k := by rfl
@[simp] theorem State.setFld_rg (a : Nat) (f : Fld) (v : Nat) (k : Nat) : (s.setFld a f v).rg k = s.rg k := by rfl
@[simp] theorem State.setFld_chan (a : Nat) (f : Fld) (v : Nat) (k : Nat) : (s.setFld a f v).chan k = s.chan k := by rfl
@[simp] theorem State.setFld_ring (a : Nat) (f : Fld) (v : Nat) (k : Nat) : (s.setFld a f v).ring k = s.ring k := by rfl
@[simp] theorem State.setFld_flow (a : Nat) (f : Fld) (v : Nat) (k : Nat) : (s.setFld a f v).flow k = s.flow k := by rfl
@[simp] theorem State.setFld_site (a : Nat) (f : Fld) (v : Nat) (k : Nat) : (s.setFld a f v).site k = s.site k := by rfl
@[simp] theorem State.setFld_port (a : Nat) (f : Fld) (v : Nat) (k : Nat) : (s.setFld a f v).port k = s.port k := by rfl
@[simp] theorem State.setFld_flag (a : Nat) (f : Fld) (v : Nat) (k : Nat) : (s.setFld a f v).flag k = s.flag k := by rfl
@[simp] theorem State.setFld_inForce (a : Nat) (f : Fld) (v : Nat) (k : Nat) : (s.setFld a f v).inForce k = s.inForce k := by rfl
@[simp] theorem State.setFld_poisoned (a : Nat) (f : Fld) (v : Nat) (k : Nat) : (s.setFld a f v).poisoned k = s.poisoned k := by rfl
@[simp] theorem State.setFld_cline (a : Nat) (f : Fld) (v : Nat) (k : Nat) : (s.setFld a f v).cline k = s.cline k := by rfl
@[simp] theorem State.setFld_dirOf (a : Nat) (f : Fld) (v : Nat) (k : Nat) : (s.setFld a f v).dirOf k = s.dirOf k := by rfl
@[simp] theorem State.setFld_coding (a : Nat) (f : Fld) (v : Nat) (k : Nat) : (s.setFld a f v).coding k = s.coding k := by rfl
@[simp] theorem State.setFld_fencedAt (a : Nat) (f : Fld) (v : Nat) (k : Nat) : (s.setFld a f v).fencedAt k = s.fencedAt k := by rfl

/-! setBit -/

@[simp] theorem State.setBit_pending (a : Nat) (f : Fld) (b : Bool) : (s.setBit a f b).pending = s.pending := by rfl
@[simp] theorem State.setBit_logWait (a : Nat) (f : Fld) (b : Bool) : (s.setBit a f b).logWait = s.logWait := by rfl
@[simp] theorem State.setBit_flowStores (a : Nat) (f : Fld) (b : Bool) : (s.setBit a f b).flowStores = s.flowStores := by rfl
@[simp] theorem State.setBit_gt (a : Nat) (f : Fld) (b : Bool) : (s.setBit a f b).gt = s.gt := by rfl
@[simp] theorem State.setBit_inFlight (a : Nat) (f : Fld) (b : Bool) : (s.setBit a f b).inFlight = s.inFlight := by rfl
@[simp] theorem State.setBit_free (a : Nat) (f : Fld) (b : Bool) : (s.setBit a f b).free = s.free := by rfl
@[simp] theorem State.setBit_outs (a : Nat) (f : Fld) (b : Bool) : (s.setBit a f b).outs = s.outs := by rfl
@[simp] theorem State.setBit_runs (a : Nat) (f : Fld) (b : Bool) : (s.setBit a f b).runs = s.runs := by rfl
@[simp] theorem State.setBit_hub (a : Nat) (f : Fld) (b : Bool) : (s.setBit a f b).hub = s.hub := by rfl
@[simp] theorem State.setBit_boot (a : Nat) (f : Fld) (b : Bool) : (s.setBit a f b).boot = s.boot := by rfl
@[simp] theorem State.setBit_vyn (a : Nat) (f : Fld) (b : Bool) : (s.setBit a f b).vyn = s.vyn := by rfl
@[simp] theorem State.setBit_bench (a : Nat) (f : Fld) (b : Bool) : (s.setBit a f b).bench = s.bench := by rfl
@[simp] theorem State.setBit_flash (a : Nat) (f : Fld) (b : Bool) : (s.setBit a f b).flash = s.flash := by rfl
@[simp] theorem State.setBit_fuses (a : Nat) (f : Fld) (b : Bool) : (s.setBit a f b).fuses = s.fuses := by rfl
@[simp] theorem State.setBit_mem (a : Nat) (f : Fld) (b : Bool) : (s.setBit a f b).mem = s.mem := by rfl
@[simp] theorem State.setBit_pin (a : Nat) (f : Fld) (b : Bool) (k : Nat) : (s.setBit a f b).pin k = s.pin k := by rfl
@[simp] theorem State.setBit_cl (a : Nat) (f : Fld) (b : Bool) (k : Nat) : (s.setBit a f b).cl k = s.cl k := by rfl
@[simp] theorem State.setBit_eng (a : Nat) (f : Fld) (b : Bool) (k : Nat) : (s.setBit a f b).eng k = s.eng k := by rfl
@[simp] theorem State.setBit_dig (a : Nat) (f : Fld) (b : Bool) (k : Nat) : (s.setBit a f b).dig k = s.dig k := by rfl
@[simp] theorem State.setBit_rg (a : Nat) (f : Fld) (b : Bool) (k : Nat) : (s.setBit a f b).rg k = s.rg k := by rfl
@[simp] theorem State.setBit_chan (a : Nat) (f : Fld) (b : Bool) (k : Nat) : (s.setBit a f b).chan k = s.chan k := by rfl
@[simp] theorem State.setBit_ring (a : Nat) (f : Fld) (b : Bool) (k : Nat) : (s.setBit a f b).ring k = s.ring k := by rfl
@[simp] theorem State.setBit_flow (a : Nat) (f : Fld) (b : Bool) (k : Nat) : (s.setBit a f b).flow k = s.flow k := by rfl
@[simp] theorem State.setBit_site (a : Nat) (f : Fld) (b : Bool) (k : Nat) : (s.setBit a f b).site k = s.site k := by rfl
@[simp] theorem State.setBit_port (a : Nat) (f : Fld) (b : Bool) (k : Nat) : (s.setBit a f b).port k = s.port k := by rfl
@[simp] theorem State.setBit_flag (a : Nat) (f : Fld) (b : Bool) (k : Nat) : (s.setBit a f b).flag k = s.flag k := by rfl
@[simp] theorem State.setBit_inForce (a : Nat) (f : Fld) (b : Bool) (k : Nat) : (s.setBit a f b).inForce k = s.inForce k := by rfl
@[simp] theorem State.setBit_poisoned (a : Nat) (f : Fld) (b : Bool) (k : Nat) :
    (s.setBit a f b).poisoned k = s.poisoned k := by rfl
@[simp] theorem State.setBit_cline (a : Nat) (f : Fld) (b : Bool) (k : Nat) : (s.setBit a f b).cline k = s.cline k := by rfl
@[simp] theorem State.setBit_dirOf (a : Nat) (f : Fld) (b : Bool) (k : Nat) : (s.setBit a f b).dirOf k = s.dirOf k := by rfl
@[simp] theorem State.setBit_coding (a : Nat) (f : Fld) (b : Bool) (k : Nat) : (s.setBit a f b).coding k = s.coding k := by rfl
@[simp] theorem State.setBit_fencedAt (a : Nat) (f : Fld) (b : Bool) (k : Nat) :
    (s.setBit a f b).fencedAt k = s.fencedAt k := by rfl

/-! countSat -/

@[simp] theorem State.countSat_pending (a : Nat) (f : Fld) (k : Nat) : (s.countSat a f k).pending = s.pending := by rfl
@[simp] theorem State.countSat_logWait (a : Nat) (f : Fld) (k : Nat) : (s.countSat a f k).logWait = s.logWait := by rfl
@[simp] theorem State.countSat_flowStores (a : Nat) (f : Fld) (k : Nat) : (s.countSat a f k).flowStores = s.flowStores := by rfl
@[simp] theorem State.countSat_gt (a : Nat) (f : Fld) (k : Nat) : (s.countSat a f k).gt = s.gt := by rfl
@[simp] theorem State.countSat_inFlight (a : Nat) (f : Fld) (k : Nat) : (s.countSat a f k).inFlight = s.inFlight := by rfl
@[simp] theorem State.countSat_free (a : Nat) (f : Fld) (k : Nat) : (s.countSat a f k).free = s.free := by rfl
@[simp] theorem State.countSat_outs (a : Nat) (f : Fld) (k : Nat) : (s.countSat a f k).outs = s.outs := by rfl
@[simp] theorem State.countSat_runs (a : Nat) (f : Fld) (k : Nat) : (s.countSat a f k).runs = s.runs := by rfl
@[simp] theorem State.countSat_hub (a : Nat) (f : Fld) (k : Nat) : (s.countSat a f k).hub = s.hub := by rfl
@[simp] theorem State.countSat_boot (a : Nat) (f : Fld) (k : Nat) : (s.countSat a f k).boot = s.boot := by rfl
@[simp] theorem State.countSat_vyn (a : Nat) (f : Fld) (k : Nat) : (s.countSat a f k).vyn = s.vyn := by rfl
@[simp] theorem State.countSat_bench (a : Nat) (f : Fld) (k : Nat) : (s.countSat a f k).bench = s.bench := by rfl
@[simp] theorem State.countSat_flash (a : Nat) (f : Fld) (k : Nat) : (s.countSat a f k).flash = s.flash := by rfl
@[simp] theorem State.countSat_fuses (a : Nat) (f : Fld) (k : Nat) : (s.countSat a f k).fuses = s.fuses := by rfl
@[simp] theorem State.countSat_mem (a : Nat) (f : Fld) (k : Nat) : (s.countSat a f k).mem = s.mem := by rfl
@[simp] theorem State.countSat_pin (a : Nat) (f : Fld) (k : Nat) (j : Nat) : (s.countSat a f k).pin j = s.pin j := by rfl
@[simp] theorem State.countSat_cl (a : Nat) (f : Fld) (k : Nat) (j : Nat) : (s.countSat a f k).cl j = s.cl j := by rfl
@[simp] theorem State.countSat_eng (a : Nat) (f : Fld) (k : Nat) (j : Nat) : (s.countSat a f k).eng j = s.eng j := by rfl
@[simp] theorem State.countSat_dig (a : Nat) (f : Fld) (k : Nat) (j : Nat) : (s.countSat a f k).dig j = s.dig j := by rfl
@[simp] theorem State.countSat_rg (a : Nat) (f : Fld) (k : Nat) (j : Nat) : (s.countSat a f k).rg j = s.rg j := by rfl
@[simp] theorem State.countSat_chan (a : Nat) (f : Fld) (k : Nat) (j : Nat) : (s.countSat a f k).chan j = s.chan j := by rfl
@[simp] theorem State.countSat_ring (a : Nat) (f : Fld) (k : Nat) (j : Nat) : (s.countSat a f k).ring j = s.ring j := by rfl
@[simp] theorem State.countSat_flow (a : Nat) (f : Fld) (k : Nat) (j : Nat) : (s.countSat a f k).flow j = s.flow j := by rfl
@[simp] theorem State.countSat_site (a : Nat) (f : Fld) (k : Nat) (j : Nat) : (s.countSat a f k).site j = s.site j := by rfl
@[simp] theorem State.countSat_port (a : Nat) (f : Fld) (k : Nat) (j : Nat) : (s.countSat a f k).port j = s.port j := by rfl
@[simp] theorem State.countSat_flag (a : Nat) (f : Fld) (k : Nat) (j : Nat) : (s.countSat a f k).flag j = s.flag j := by rfl
@[simp] theorem State.countSat_inForce (a : Nat) (f : Fld) (k : Nat) (j : Nat) :
    (s.countSat a f k).inForce j = s.inForce j := by rfl
@[simp] theorem State.countSat_poisoned (a : Nat) (f : Fld) (k : Nat) (j : Nat) :
    (s.countSat a f k).poisoned j = s.poisoned j := by rfl
@[simp] theorem State.countSat_cline (a : Nat) (f : Fld) (k : Nat) (j : Nat) : (s.countSat a f k).cline j = s.cline j := by rfl
@[simp] theorem State.countSat_dirOf (a : Nat) (f : Fld) (k : Nat) (j : Nat) : (s.countSat a f k).dirOf j = s.dirOf j := by rfl
@[simp] theorem State.countSat_coding (a : Nat) (f : Fld) (k : Nat) (j : Nat) : (s.countSat a f k).coding j = s.coding j := by rfl
@[simp] theorem State.countSat_fencedAt (a : Nat) (f : Fld) (k : Nat) (j : Nat) :
    (s.countSat a f k).fencedAt j = s.fencedAt j := by rfl

/-! orBit -/

@[simp] theorem State.orBit_pending (a : Nat) (f : Fld) (u : Nat) : (s.orBit a f u).pending = s.pending := by rfl
@[simp] theorem State.orBit_logWait (a : Nat) (f : Fld) (u : Nat) : (s.orBit a f u).logWait = s.logWait := by rfl
@[simp] theorem State.orBit_flowStores (a : Nat) (f : Fld) (u : Nat) : (s.orBit a f u).flowStores = s.flowStores := by rfl
@[simp] theorem State.orBit_gt (a : Nat) (f : Fld) (u : Nat) : (s.orBit a f u).gt = s.gt := by rfl
@[simp] theorem State.orBit_inFlight (a : Nat) (f : Fld) (u : Nat) : (s.orBit a f u).inFlight = s.inFlight := by rfl
@[simp] theorem State.orBit_free (a : Nat) (f : Fld) (u : Nat) : (s.orBit a f u).free = s.free := by rfl
@[simp] theorem State.orBit_outs (a : Nat) (f : Fld) (u : Nat) : (s.orBit a f u).outs = s.outs := by rfl
@[simp] theorem State.orBit_runs (a : Nat) (f : Fld) (u : Nat) : (s.orBit a f u).runs = s.runs := by rfl
@[simp] theorem State.orBit_hub (a : Nat) (f : Fld) (u : Nat) : (s.orBit a f u).hub = s.hub := by rfl
@[simp] theorem State.orBit_boot (a : Nat) (f : Fld) (u : Nat) : (s.orBit a f u).boot = s.boot := by rfl
@[simp] theorem State.orBit_vyn (a : Nat) (f : Fld) (u : Nat) : (s.orBit a f u).vyn = s.vyn := by rfl
@[simp] theorem State.orBit_bench (a : Nat) (f : Fld) (u : Nat) : (s.orBit a f u).bench = s.bench := by rfl
@[simp] theorem State.orBit_flash (a : Nat) (f : Fld) (u : Nat) : (s.orBit a f u).flash = s.flash := by rfl
@[simp] theorem State.orBit_fuses (a : Nat) (f : Fld) (u : Nat) : (s.orBit a f u).fuses = s.fuses := by rfl
@[simp] theorem State.orBit_mem (a : Nat) (f : Fld) (u : Nat) : (s.orBit a f u).mem = s.mem := by rfl
@[simp] theorem State.orBit_pin (a : Nat) (f : Fld) (u : Nat) (k : Nat) : (s.orBit a f u).pin k = s.pin k := by rfl
@[simp] theorem State.orBit_cl (a : Nat) (f : Fld) (u : Nat) (k : Nat) : (s.orBit a f u).cl k = s.cl k := by rfl
@[simp] theorem State.orBit_eng (a : Nat) (f : Fld) (u : Nat) (k : Nat) : (s.orBit a f u).eng k = s.eng k := by rfl
@[simp] theorem State.orBit_dig (a : Nat) (f : Fld) (u : Nat) (k : Nat) : (s.orBit a f u).dig k = s.dig k := by rfl
@[simp] theorem State.orBit_rg (a : Nat) (f : Fld) (u : Nat) (k : Nat) : (s.orBit a f u).rg k = s.rg k := by rfl
@[simp] theorem State.orBit_chan (a : Nat) (f : Fld) (u : Nat) (k : Nat) : (s.orBit a f u).chan k = s.chan k := by rfl
@[simp] theorem State.orBit_ring (a : Nat) (f : Fld) (u : Nat) (k : Nat) : (s.orBit a f u).ring k = s.ring k := by rfl
@[simp] theorem State.orBit_flow (a : Nat) (f : Fld) (u : Nat) (k : Nat) : (s.orBit a f u).flow k = s.flow k := by rfl
@[simp] theorem State.orBit_site (a : Nat) (f : Fld) (u : Nat) (k : Nat) : (s.orBit a f u).site k = s.site k := by rfl
@[simp] theorem State.orBit_port (a : Nat) (f : Fld) (u : Nat) (k : Nat) : (s.orBit a f u).port k = s.port k := by rfl
@[simp] theorem State.orBit_flag (a : Nat) (f : Fld) (u : Nat) (k : Nat) : (s.orBit a f u).flag k = s.flag k := by rfl
@[simp] theorem State.orBit_inForce (a : Nat) (f : Fld) (u : Nat) (k : Nat) : (s.orBit a f u).inForce k = s.inForce k := by rfl
@[simp] theorem State.orBit_poisoned (a : Nat) (f : Fld) (u : Nat) (k : Nat) : (s.orBit a f u).poisoned k = s.poisoned k := by rfl
@[simp] theorem State.orBit_cline (a : Nat) (f : Fld) (u : Nat) (k : Nat) : (s.orBit a f u).cline k = s.cline k := by rfl
@[simp] theorem State.orBit_dirOf (a : Nat) (f : Fld) (u : Nat) (k : Nat) : (s.orBit a f u).dirOf k = s.dirOf k := by rfl
@[simp] theorem State.orBit_coding (a : Nat) (f : Fld) (u : Nat) (k : Nat) : (s.orBit a f u).coding k = s.coding k := by rfl
@[simp] theorem State.orBit_fencedAt (a : Nat) (f : Fld) (u : Nat) (k : Nat) : (s.orBit a f u).fencedAt k = s.fencedAt k := by rfl

/-! setPair -/

@[simp] theorem State.setPair_pending (lo hi v : Nat) : (s.setPair lo hi v).pending = s.pending := by rfl
@[simp] theorem State.setPair_logWait (lo hi v : Nat) : (s.setPair lo hi v).logWait = s.logWait := by rfl
@[simp] theorem State.setPair_flowStores (lo hi v : Nat) : (s.setPair lo hi v).flowStores = s.flowStores := by rfl
@[simp] theorem State.setPair_gt (lo hi v : Nat) : (s.setPair lo hi v).gt = s.gt := by rfl
@[simp] theorem State.setPair_inFlight (lo hi v : Nat) : (s.setPair lo hi v).inFlight = s.inFlight := by rfl
@[simp] theorem State.setPair_free (lo hi v : Nat) : (s.setPair lo hi v).free = s.free := by rfl
@[simp] theorem State.setPair_outs (lo hi v : Nat) : (s.setPair lo hi v).outs = s.outs := by rfl
@[simp] theorem State.setPair_runs (lo hi v : Nat) : (s.setPair lo hi v).runs = s.runs := by rfl
@[simp] theorem State.setPair_hub (lo hi v : Nat) : (s.setPair lo hi v).hub = s.hub := by rfl
@[simp] theorem State.setPair_boot (lo hi v : Nat) : (s.setPair lo hi v).boot = s.boot := by rfl
@[simp] theorem State.setPair_vyn (lo hi v : Nat) : (s.setPair lo hi v).vyn = s.vyn := by rfl
@[simp] theorem State.setPair_bench (lo hi v : Nat) : (s.setPair lo hi v).bench = s.bench := by rfl
@[simp] theorem State.setPair_flash (lo hi v : Nat) : (s.setPair lo hi v).flash = s.flash := by rfl
@[simp] theorem State.setPair_fuses (lo hi v : Nat) : (s.setPair lo hi v).fuses = s.fuses := by rfl
@[simp] theorem State.setPair_mem (lo hi v : Nat) : (s.setPair lo hi v).mem = s.mem := by rfl
@[simp] theorem State.setPair_pin (lo hi v : Nat) (k : Nat) : (s.setPair lo hi v).pin k = s.pin k := by rfl
@[simp] theorem State.setPair_cl (lo hi v : Nat) (k : Nat) : (s.setPair lo hi v).cl k = s.cl k := by rfl
@[simp] theorem State.setPair_eng (lo hi v : Nat) (k : Nat) : (s.setPair lo hi v).eng k = s.eng k := by rfl
@[simp] theorem State.setPair_dig (lo hi v : Nat) (k : Nat) : (s.setPair lo hi v).dig k = s.dig k := by rfl
@[simp] theorem State.setPair_rg (lo hi v : Nat) (k : Nat) : (s.setPair lo hi v).rg k = s.rg k := by rfl
@[simp] theorem State.setPair_chan (lo hi v : Nat) (k : Nat) : (s.setPair lo hi v).chan k = s.chan k := by rfl
@[simp] theorem State.setPair_ring (lo hi v : Nat) (k : Nat) : (s.setPair lo hi v).ring k = s.ring k := by rfl
@[simp] theorem State.setPair_flow (lo hi v : Nat) (k : Nat) : (s.setPair lo hi v).flow k = s.flow k := by rfl
@[simp] theorem State.setPair_site (lo hi v : Nat) (k : Nat) : (s.setPair lo hi v).site k = s.site k := by rfl
@[simp] theorem State.setPair_port (lo hi v : Nat) (k : Nat) : (s.setPair lo hi v).port k = s.port k := by rfl
@[simp] theorem State.setPair_flag (lo hi v : Nat) (k : Nat) : (s.setPair lo hi v).flag k = s.flag k := by rfl
@[simp] theorem State.setPair_inForce (lo hi v : Nat) (k : Nat) : (s.setPair lo hi v).inForce k = s.inForce k := by rfl
@[simp] theorem State.setPair_poisoned (lo hi v : Nat) (k : Nat) : (s.setPair lo hi v).poisoned k = s.poisoned k := by rfl
@[simp] theorem State.setPair_cline (lo hi v : Nat) (k : Nat) : (s.setPair lo hi v).cline k = s.cline k := by rfl
@[simp] theorem State.setPair_dirOf (lo hi v : Nat) (k : Nat) : (s.setPair lo hi v).dirOf k = s.dirOf k := by rfl
@[simp] theorem State.setPair_coding (lo hi v : Nat) (k : Nat) : (s.setPair lo hi v).coding k = s.coding k := by rfl
@[simp] theorem State.setPair_fencedAt (lo hi v : Nat) (k : Nat) : (s.setPair lo hi v).fencedAt k = s.fencedAt k := by rfl

/-! setForce -/

@[simp] theorem State.setForce_pending (a : Nat) (w : Word) : (s.setForce a w).pending = s.pending := by rfl
@[simp] theorem State.setForce_logWait (a : Nat) (w : Word) : (s.setForce a w).logWait = s.logWait := by rfl
@[simp] theorem State.setForce_flowStores (a : Nat) (w : Word) : (s.setForce a w).flowStores = s.flowStores := by rfl
@[simp] theorem State.setForce_gt (a : Nat) (w : Word) : (s.setForce a w).gt = s.gt := by rfl
@[simp] theorem State.setForce_inFlight (a : Nat) (w : Word) : (s.setForce a w).inFlight = s.inFlight := by rfl
@[simp] theorem State.setForce_free (a : Nat) (w : Word) : (s.setForce a w).free = s.free := by rfl
@[simp] theorem State.setForce_outs (a : Nat) (w : Word) : (s.setForce a w).outs = s.outs := by rfl
@[simp] theorem State.setForce_runs (a : Nat) (w : Word) : (s.setForce a w).runs = s.runs := by rfl
@[simp] theorem State.setForce_hub (a : Nat) (w : Word) : (s.setForce a w).hub = s.hub := by rfl
@[simp] theorem State.setForce_boot (a : Nat) (w : Word) : (s.setForce a w).boot = s.boot := by rfl
@[simp] theorem State.setForce_vyn (a : Nat) (w : Word) : (s.setForce a w).vyn = s.vyn := by rfl
@[simp] theorem State.setForce_bench (a : Nat) (w : Word) : (s.setForce a w).bench = s.bench := by rfl
@[simp] theorem State.setForce_flash (a : Nat) (w : Word) : (s.setForce a w).flash = s.flash := by rfl
@[simp] theorem State.setForce_fuses (a : Nat) (w : Word) : (s.setForce a w).fuses = s.fuses := by rfl
@[simp] theorem State.setForce_mem (a : Nat) (w : Word) : (s.setForce a w).mem = s.mem := by rfl
@[simp] theorem State.setForce_pin (a : Nat) (w : Word) (k : Nat) : (s.setForce a w).pin k = s.pin k := by rfl
@[simp] theorem State.setForce_cl (a : Nat) (w : Word) (k : Nat) : (s.setForce a w).cl k = s.cl k := by rfl
@[simp] theorem State.setForce_eng (a : Nat) (w : Word) (k : Nat) : (s.setForce a w).eng k = s.eng k := by rfl
@[simp] theorem State.setForce_dig (a : Nat) (w : Word) (k : Nat) : (s.setForce a w).dig k = s.dig k := by rfl
@[simp] theorem State.setForce_rg (a : Nat) (w : Word) (k : Nat) : (s.setForce a w).rg k = s.rg k := by rfl
@[simp] theorem State.setForce_chan (a : Nat) (w : Word) (k : Nat) : (s.setForce a w).chan k = s.chan k := by rfl
@[simp] theorem State.setForce_ring (a : Nat) (w : Word) (k : Nat) : (s.setForce a w).ring k = s.ring k := by rfl
@[simp] theorem State.setForce_flow (a : Nat) (w : Word) (k : Nat) : (s.setForce a w).flow k = s.flow k := by rfl
@[simp] theorem State.setForce_site (a : Nat) (w : Word) (k : Nat) : (s.setForce a w).site k = s.site k := by rfl
@[simp] theorem State.setForce_port (a : Nat) (w : Word) (k : Nat) : (s.setForce a w).port k = s.port k := by rfl
@[simp] theorem State.setForce_flag (a : Nat) (w : Word) (k : Nat) : (s.setForce a w).flag k = s.flag k := by rfl
@[simp] theorem State.setForce_reg (a : Nat) (w : Word) (k : Nat) : (s.setForce a w).reg k = s.reg k := by rfl
@[simp] theorem State.setForce_fld (a : Nat) (w : Word) (k : Nat) (g : Fld) : (s.setForce a w).fld k g = s.fld k g := by rfl
@[simp] theorem State.setForce_bit (a : Nat) (w : Word) (k : Nat) (g : Fld) : (s.setForce a w).bit k g = s.bit k g := by rfl
@[simp] theorem State.setForce_poisoned (a : Nat) (w : Word) (k : Nat) : (s.setForce a w).poisoned k = s.poisoned k := by rfl
@[simp] theorem State.setForce_cline (a : Nat) (w : Word) (k : Nat) : (s.setForce a w).cline k = s.cline k := by rfl
@[simp] theorem State.setForce_dirOf (a : Nat) (w : Word) (k : Nat) : (s.setForce a w).dirOf k = s.dirOf k := by rfl
@[simp] theorem State.setForce_coding (a : Nat) (w : Word) (k : Nat) : (s.setForce a w).coding k = s.coding k := by rfl
@[simp] theorem State.setForce_fencedAt (a : Nat) (w : Word) (k : Nat) : (s.setForce a w).fencedAt k = s.fencedAt k := by rfl
@[simp] theorem State.setForce_writeBarred (a : Nat) (w : Word) (k : Nat) :
    (s.setForce a w).writeBarred k = s.writeBarred k := by rfl

/-! setBoth -/

@[simp] theorem State.setBoth_pending (a : Nat) (w : Word) : (s.setBoth a w).pending = s.pending := by rfl
@[simp] theorem State.setBoth_logWait (a : Nat) (w : Word) : (s.setBoth a w).logWait = s.logWait := by rfl
@[simp] theorem State.setBoth_flowStores (a : Nat) (w : Word) : (s.setBoth a w).flowStores = s.flowStores := by rfl
@[simp] theorem State.setBoth_gt (a : Nat) (w : Word) : (s.setBoth a w).gt = s.gt := by rfl
@[simp] theorem State.setBoth_inFlight (a : Nat) (w : Word) : (s.setBoth a w).inFlight = s.inFlight := by rfl
@[simp] theorem State.setBoth_free (a : Nat) (w : Word) : (s.setBoth a w).free = s.free := by rfl
@[simp] theorem State.setBoth_outs (a : Nat) (w : Word) : (s.setBoth a w).outs = s.outs := by rfl
@[simp] theorem State.setBoth_runs (a : Nat) (w : Word) : (s.setBoth a w).runs = s.runs := by rfl
@[simp] theorem State.setBoth_hub (a : Nat) (w : Word) : (s.setBoth a w).hub = s.hub := by rfl
@[simp] theorem State.setBoth_boot (a : Nat) (w : Word) : (s.setBoth a w).boot = s.boot := by rfl
@[simp] theorem State.setBoth_vyn (a : Nat) (w : Word) : (s.setBoth a w).vyn = s.vyn := by rfl
@[simp] theorem State.setBoth_bench (a : Nat) (w : Word) : (s.setBoth a w).bench = s.bench := by rfl
@[simp] theorem State.setBoth_flash (a : Nat) (w : Word) : (s.setBoth a w).flash = s.flash := by rfl
@[simp] theorem State.setBoth_fuses (a : Nat) (w : Word) : (s.setBoth a w).fuses = s.fuses := by rfl
@[simp] theorem State.setBoth_mem (a : Nat) (w : Word) : (s.setBoth a w).mem = s.mem := by rfl
@[simp] theorem State.setBoth_pin (a : Nat) (w : Word) (k : Nat) : (s.setBoth a w).pin k = s.pin k := by rfl
@[simp] theorem State.setBoth_cl (a : Nat) (w : Word) (k : Nat) : (s.setBoth a w).cl k = s.cl k := by rfl
@[simp] theorem State.setBoth_eng (a : Nat) (w : Word) (k : Nat) : (s.setBoth a w).eng k = s.eng k := by rfl
@[simp] theorem State.setBoth_dig (a : Nat) (w : Word) (k : Nat) : (s.setBoth a w).dig k = s.dig k := by rfl
@[simp] theorem State.setBoth_rg (a : Nat) (w : Word) (k : Nat) : (s.setBoth a w).rg k = s.rg k := by rfl
@[simp] theorem State.setBoth_chan (a : Nat) (w : Word) (k : Nat) : (s.setBoth a w).chan k = s.chan k := by rfl
@[simp] theorem State.setBoth_ring (a : Nat) (w : Word) (k : Nat) : (s.setBoth a w).ring k = s.ring k := by rfl
@[simp] theorem State.setBoth_flow (a : Nat) (w : Word) (k : Nat) : (s.setBoth a w).flow k = s.flow k := by rfl
@[simp] theorem State.setBoth_site (a : Nat) (w : Word) (k : Nat) : (s.setBoth a w).site k = s.site k := by rfl
@[simp] theorem State.setBoth_port (a : Nat) (w : Word) (k : Nat) : (s.setBoth a w).port k = s.port k := by rfl
@[simp] theorem State.setBoth_flag (a : Nat) (w : Word) (k : Nat) : (s.setBoth a w).flag k = s.flag k := by rfl
@[simp] theorem State.setBoth_poisoned (a : Nat) (w : Word) (k : Nat) : (s.setBoth a w).poisoned k = s.poisoned k := by rfl
@[simp] theorem State.setBoth_cline (a : Nat) (w : Word) (k : Nat) : (s.setBoth a w).cline k = s.cline k := by rfl
@[simp] theorem State.setBoth_dirOf (a : Nat) (w : Word) (k : Nat) : (s.setBoth a w).dirOf k = s.dirOf k := by rfl
@[simp] theorem State.setBoth_coding (a : Nat) (w : Word) (k : Nat) : (s.setBoth a w).coding k = s.coding k := by rfl
@[simp] theorem State.setBoth_fencedAt (a : Nat) (w : Word) (k : Nat) : (s.setBoth a w).fencedAt k = s.fencedAt k := by rfl

/-! sendPin -/

@[simp] theorem State.sendPin_pending (a : Nat) (w : Word) : (s.sendPin a w).pending = s.pending := by rfl
@[simp] theorem State.sendPin_logWait (a : Nat) (w : Word) : (s.sendPin a w).logWait = s.logWait := by rfl
@[simp] theorem State.sendPin_flowStores (a : Nat) (w : Word) : (s.sendPin a w).flowStores = s.flowStores := by rfl
@[simp] theorem State.sendPin_gt (a : Nat) (w : Word) : (s.sendPin a w).gt = s.gt := by rfl
@[simp] theorem State.sendPin_free (a : Nat) (w : Word) : (s.sendPin a w).free = s.free := by rfl
@[simp] theorem State.sendPin_outs (a : Nat) (w : Word) : (s.sendPin a w).outs = s.outs := by rfl
@[simp] theorem State.sendPin_runs (a : Nat) (w : Word) : (s.sendPin a w).runs = s.runs := by rfl
@[simp] theorem State.sendPin_hub (a : Nat) (w : Word) : (s.sendPin a w).hub = s.hub := by rfl
@[simp] theorem State.sendPin_boot (a : Nat) (w : Word) : (s.sendPin a w).boot = s.boot := by rfl
@[simp] theorem State.sendPin_vyn (a : Nat) (w : Word) : (s.sendPin a w).vyn = s.vyn := by rfl
@[simp] theorem State.sendPin_bench (a : Nat) (w : Word) : (s.sendPin a w).bench = s.bench := by rfl
@[simp] theorem State.sendPin_flash (a : Nat) (w : Word) : (s.sendPin a w).flash = s.flash := by rfl
@[simp] theorem State.sendPin_fuses (a : Nat) (w : Word) : (s.sendPin a w).fuses = s.fuses := by rfl
@[simp] theorem State.sendPin_mem (a : Nat) (w : Word) : (s.sendPin a w).mem = s.mem := by rfl
@[simp] theorem State.sendPin_pin (a : Nat) (w : Word) (k : Nat) : (s.sendPin a w).pin k = s.pin k := by rfl
@[simp] theorem State.sendPin_cl (a : Nat) (w : Word) (k : Nat) : (s.sendPin a w).cl k = s.cl k := by rfl
@[simp] theorem State.sendPin_eng (a : Nat) (w : Word) (k : Nat) : (s.sendPin a w).eng k = s.eng k := by rfl
@[simp] theorem State.sendPin_dig (a : Nat) (w : Word) (k : Nat) : (s.sendPin a w).dig k = s.dig k := by rfl
@[simp] theorem State.sendPin_rg (a : Nat) (w : Word) (k : Nat) : (s.sendPin a w).rg k = s.rg k := by rfl
@[simp] theorem State.sendPin_chan (a : Nat) (w : Word) (k : Nat) : (s.sendPin a w).chan k = s.chan k := by rfl
@[simp] theorem State.sendPin_ring (a : Nat) (w : Word) (k : Nat) : (s.sendPin a w).ring k = s.ring k := by rfl
@[simp] theorem State.sendPin_flow (a : Nat) (w : Word) (k : Nat) : (s.sendPin a w).flow k = s.flow k := by rfl
@[simp] theorem State.sendPin_site (a : Nat) (w : Word) (k : Nat) : (s.sendPin a w).site k = s.site k := by rfl
@[simp] theorem State.sendPin_port (a : Nat) (w : Word) (k : Nat) : (s.sendPin a w).port k = s.port k := by rfl
@[simp] theorem State.sendPin_flag (a : Nat) (w : Word) (k : Nat) : (s.sendPin a w).flag k = s.flag k := by rfl
@[simp] theorem State.sendPin_reg (a : Nat) (w : Word) (k : Nat) : (s.sendPin a w).reg k = s.reg k := by rfl
@[simp] theorem State.sendPin_fld (a : Nat) (w : Word) (k : Nat) (g : Fld) : (s.sendPin a w).fld k g = s.fld k g := by rfl
@[simp] theorem State.sendPin_bit (a : Nat) (w : Word) (k : Nat) (g : Fld) : (s.sendPin a w).bit k g = s.bit k g := by rfl
@[simp] theorem State.sendPin_inForce (a : Nat) (w : Word) (k : Nat) : (s.sendPin a w).inForce k = s.inForce k := by rfl
@[simp] theorem State.sendPin_poisoned (a : Nat) (w : Word) (k : Nat) : (s.sendPin a w).poisoned k = s.poisoned k := by rfl
@[simp] theorem State.sendPin_cline (a : Nat) (w : Word) (k : Nat) : (s.sendPin a w).cline k = s.cline k := by rfl
@[simp] theorem State.sendPin_dirOf (a : Nat) (w : Word) (k : Nat) : (s.sendPin a w).dirOf k = s.dirOf k := by rfl
@[simp] theorem State.sendPin_coding (a : Nat) (w : Word) (k : Nat) : (s.sendPin a w).coding k = s.coding k := by rfl
@[simp] theorem State.sendPin_fencedAt (a : Nat) (w : Word) (k : Nat) : (s.sendPin a w).fencedAt k = s.fencedAt k := by rfl
@[simp] theorem State.sendPin_writeBarred (a : Nat) (w : Word) (k : Nat) : (s.sendPin a w).writeBarred k = s.writeBarred k := by rfl

/-! at -/

@[simp] theorem State.at_pending (g : Nat) : (s.at g).pending = s.pending := by rfl
@[simp] theorem State.at_logWait (g : Nat) : (s.at g).logWait = s.logWait := by rfl
@[simp] theorem State.at_flowStores (g : Nat) : (s.at g).flowStores = s.flowStores := by rfl
@[simp] theorem State.at_inFlight (g : Nat) : (s.at g).inFlight = s.inFlight := by rfl
@[simp] theorem State.at_free (g : Nat) : (s.at g).free = s.free := by rfl
@[simp] theorem State.at_outs (g : Nat) : (s.at g).outs = s.outs := by rfl
@[simp] theorem State.at_runs (g : Nat) : (s.at g).runs = s.runs := by rfl
@[simp] theorem State.at_hub (g : Nat) : (s.at g).hub = s.hub := by rfl
@[simp] theorem State.at_boot (g : Nat) : (s.at g).boot = s.boot := by rfl
@[simp] theorem State.at_vyn (g : Nat) : (s.at g).vyn = s.vyn := by rfl
@[simp] theorem State.at_bench (g : Nat) : (s.at g).bench = s.bench := by rfl
@[simp] theorem State.at_flash (g : Nat) : (s.at g).flash = s.flash := by rfl
@[simp] theorem State.at_fuses (g : Nat) : (s.at g).fuses = s.fuses := by rfl
@[simp] theorem State.at_mem (g : Nat) : (s.at g).mem = s.mem := by rfl
@[simp] theorem State.at_pin (g : Nat) (k : Nat) : (s.at g).pin k = s.pin k := by rfl
@[simp] theorem State.at_cl (g : Nat) (k : Nat) : (s.at g).cl k = s.cl k := by rfl
@[simp] theorem State.at_eng (g : Nat) (k : Nat) : (s.at g).eng k = s.eng k := by rfl
@[simp] theorem State.at_dig (g : Nat) (k : Nat) : (s.at g).dig k = s.dig k := by rfl
@[simp] theorem State.at_rg (g : Nat) (k : Nat) : (s.at g).rg k = s.rg k := by rfl
@[simp] theorem State.at_chan (g : Nat) (k : Nat) : (s.at g).chan k = s.chan k := by rfl
@[simp] theorem State.at_ring (g : Nat) (k : Nat) : (s.at g).ring k = s.ring k := by rfl
@[simp] theorem State.at_flow (g : Nat) (k : Nat) : (s.at g).flow k = s.flow k := by rfl
@[simp] theorem State.at_site (g : Nat) (k : Nat) : (s.at g).site k = s.site k := by rfl
@[simp] theorem State.at_port (g : Nat) (k : Nat) : (s.at g).port k = s.port k := by rfl
@[simp] theorem State.at_flag (g : Nat) (k : Nat) : (s.at g).flag k = s.flag k := by rfl
@[simp] theorem State.at_reg (g : Nat) (k : Nat) : (s.at g).reg k = s.reg k := by rfl
@[simp] theorem State.at_fld (g : Nat) (k : Nat) (q : Fld) : (s.at g).fld k q = s.fld k q := by rfl
@[simp] theorem State.at_bit (g : Nat) (k : Nat) (q : Fld) : (s.at g).bit k q = s.bit k q := by rfl
@[simp] theorem State.at_inForce (g : Nat) (k : Nat) : (s.at g).inForce k = s.inForce k := by rfl
@[simp] theorem State.at_poisoned (g : Nat) (k : Nat) : (s.at g).poisoned k = s.poisoned k := by rfl
@[simp] theorem State.at_cline (g : Nat) (k : Nat) : (s.at g).cline k = s.cline k := by rfl
@[simp] theorem State.at_dirOf (g : Nat) (k : Nat) : (s.at g).dirOf k = s.dirOf k := by rfl
@[simp] theorem State.at_coding (g : Nat) (k : Nat) : (s.at g).coding k = s.coding k := by rfl
@[simp] theorem State.at_fencedAt (g : Nat) (k : Nat) : (s.at g).fencedAt k = s.fencedAt k := by rfl
@[simp] theorem State.at_writeBarred (g : Nat) (k : Nat) : (s.at g).writeBarred k = s.writeBarred k := by rfl

/-! useFree -/

@[simp] theorem State.useFree_pending : (s.useFree).pending = s.pending := by rfl
@[simp] theorem State.useFree_logWait : (s.useFree).logWait = s.logWait := by rfl
@[simp] theorem State.useFree_flowStores : (s.useFree).flowStores = s.flowStores := by rfl
@[simp] theorem State.useFree_gt : (s.useFree).gt = s.gt := by rfl
@[simp] theorem State.useFree_inFlight : (s.useFree).inFlight = s.inFlight := by rfl
@[simp] theorem State.useFree_outs : (s.useFree).outs = s.outs := by rfl
@[simp] theorem State.useFree_runs : (s.useFree).runs = s.runs := by rfl
@[simp] theorem State.useFree_hub : (s.useFree).hub = s.hub := by rfl
@[simp] theorem State.useFree_boot : (s.useFree).boot = s.boot := by rfl
@[simp] theorem State.useFree_vyn : (s.useFree).vyn = s.vyn := by rfl
@[simp] theorem State.useFree_bench : (s.useFree).bench = s.bench := by rfl
@[simp] theorem State.useFree_flash : (s.useFree).flash = s.flash := by rfl
@[simp] theorem State.useFree_fuses : (s.useFree).fuses = s.fuses := by rfl
@[simp] theorem State.useFree_mem : (s.useFree).mem = s.mem := by rfl
@[simp] theorem State.useFree_pin (k : Nat) : (s.useFree).pin k = s.pin k := by rfl
@[simp] theorem State.useFree_cl (k : Nat) : (s.useFree).cl k = s.cl k := by rfl
@[simp] theorem State.useFree_eng (k : Nat) : (s.useFree).eng k = s.eng k := by rfl
@[simp] theorem State.useFree_dig (k : Nat) : (s.useFree).dig k = s.dig k := by rfl
@[simp] theorem State.useFree_rg (k : Nat) : (s.useFree).rg k = s.rg k := by rfl
@[simp] theorem State.useFree_chan (k : Nat) : (s.useFree).chan k = s.chan k := by rfl
@[simp] theorem State.useFree_ring (k : Nat) : (s.useFree).ring k = s.ring k := by rfl
@[simp] theorem State.useFree_flow (k : Nat) : (s.useFree).flow k = s.flow k := by rfl
@[simp] theorem State.useFree_site (k : Nat) : (s.useFree).site k = s.site k := by rfl
@[simp] theorem State.useFree_port (k : Nat) : (s.useFree).port k = s.port k := by rfl
@[simp] theorem State.useFree_flag (k : Nat) : (s.useFree).flag k = s.flag k := by rfl
@[simp] theorem State.useFree_reg (k : Nat) : (s.useFree).reg k = s.reg k := by rfl
@[simp] theorem State.useFree_fld (k : Nat) (g : Fld) : (s.useFree).fld k g = s.fld k g := by rfl
@[simp] theorem State.useFree_bit (k : Nat) (g : Fld) : (s.useFree).bit k g = s.bit k g := by rfl
@[simp] theorem State.useFree_inForce (k : Nat) : (s.useFree).inForce k = s.inForce k := by rfl
@[simp] theorem State.useFree_poisoned (k : Nat) : (s.useFree).poisoned k = s.poisoned k := by rfl
@[simp] theorem State.useFree_cline (k : Nat) : (s.useFree).cline k = s.cline k := by rfl
@[simp] theorem State.useFree_dirOf (k : Nat) : (s.useFree).dirOf k = s.dirOf k := by rfl
@[simp] theorem State.useFree_coding (k : Nat) : (s.useFree).coding k = s.coding k := by rfl
@[simp] theorem State.useFree_fencedAt (k : Nat) : (s.useFree).fencedAt k = s.fencedAt k := by rfl
@[simp] theorem State.useFree_writeBarred (k : Nat) : (s.useFree).writeBarred k = s.writeBarred k := by rfl

/-! send -/

@[simp] theorem State.send_pending (o : Output) : (s.send o).pending = s.pending := by rfl
@[simp] theorem State.send_logWait (o : Output) : (s.send o).logWait = s.logWait := by rfl
@[simp] theorem State.send_flowStores (o : Output) : (s.send o).flowStores = s.flowStores := by rfl
@[simp] theorem State.send_gt (o : Output) : (s.send o).gt = s.gt := by rfl
@[simp] theorem State.send_inFlight (o : Output) : (s.send o).inFlight = s.inFlight := by rfl
@[simp] theorem State.send_free (o : Output) : (s.send o).free = s.free := by rfl
@[simp] theorem State.send_runs (o : Output) : (s.send o).runs = s.runs := by rfl
@[simp] theorem State.send_hub (o : Output) : (s.send o).hub = s.hub := by rfl
@[simp] theorem State.send_boot (o : Output) : (s.send o).boot = s.boot := by rfl
@[simp] theorem State.send_vyn (o : Output) : (s.send o).vyn = s.vyn := by rfl
@[simp] theorem State.send_bench (o : Output) : (s.send o).bench = s.bench := by rfl
@[simp] theorem State.send_flash (o : Output) : (s.send o).flash = s.flash := by rfl
@[simp] theorem State.send_fuses (o : Output) : (s.send o).fuses = s.fuses := by rfl
@[simp] theorem State.send_mem (o : Output) : (s.send o).mem = s.mem := by rfl
@[simp] theorem State.send_pin (o : Output) (k : Nat) : (s.send o).pin k = s.pin k := by rfl
@[simp] theorem State.send_cl (o : Output) (k : Nat) : (s.send o).cl k = s.cl k := by rfl
@[simp] theorem State.send_eng (o : Output) (k : Nat) : (s.send o).eng k = s.eng k := by rfl
@[simp] theorem State.send_dig (o : Output) (k : Nat) : (s.send o).dig k = s.dig k := by rfl
@[simp] theorem State.send_rg (o : Output) (k : Nat) : (s.send o).rg k = s.rg k := by rfl
@[simp] theorem State.send_chan (o : Output) (k : Nat) : (s.send o).chan k = s.chan k := by rfl
@[simp] theorem State.send_ring (o : Output) (k : Nat) : (s.send o).ring k = s.ring k := by rfl
@[simp] theorem State.send_flow (o : Output) (k : Nat) : (s.send o).flow k = s.flow k := by rfl
@[simp] theorem State.send_site (o : Output) (k : Nat) : (s.send o).site k = s.site k := by rfl
@[simp] theorem State.send_port (o : Output) (k : Nat) : (s.send o).port k = s.port k := by rfl
@[simp] theorem State.send_flag (o : Output) (k : Nat) : (s.send o).flag k = s.flag k := by rfl
@[simp] theorem State.send_reg (o : Output) (k : Nat) : (s.send o).reg k = s.reg k := by rfl
@[simp] theorem State.send_fld (o : Output) (k : Nat) (g : Fld) : (s.send o).fld k g = s.fld k g := by rfl
@[simp] theorem State.send_bit (o : Output) (k : Nat) (g : Fld) : (s.send o).bit k g = s.bit k g := by rfl
@[simp] theorem State.send_inForce (o : Output) (k : Nat) : (s.send o).inForce k = s.inForce k := by rfl
@[simp] theorem State.send_poisoned (o : Output) (k : Nat) : (s.send o).poisoned k = s.poisoned k := by rfl
@[simp] theorem State.send_cline (o : Output) (k : Nat) : (s.send o).cline k = s.cline k := by rfl
@[simp] theorem State.send_dirOf (o : Output) (k : Nat) : (s.send o).dirOf k = s.dirOf k := by rfl
@[simp] theorem State.send_coding (o : Output) (k : Nat) : (s.send o).coding k = s.coding k := by rfl
@[simp] theorem State.send_fencedAt (o : Output) (k : Nat) : (s.send o).fencedAt k = s.fencedAt k := by rfl
@[simp] theorem State.send_writeBarred (o : Output) (k : Nat) : (s.send o).writeBarred k = s.writeBarred k := by rfl

/-! setCoding -/

@[simp] theorem State.setCoding_pending (c : Nat) (x : Option Delta4) : (s.setCoding c x).pending = s.pending := by rfl
@[simp] theorem State.setCoding_logWait (c : Nat) (x : Option Delta4) : (s.setCoding c x).logWait = s.logWait := by rfl
@[simp] theorem State.setCoding_flowStores (c : Nat) (x : Option Delta4) : (s.setCoding c x).flowStores = s.flowStores := by rfl
@[simp] theorem State.setCoding_gt (c : Nat) (x : Option Delta4) : (s.setCoding c x).gt = s.gt := by rfl
@[simp] theorem State.setCoding_inFlight (c : Nat) (x : Option Delta4) : (s.setCoding c x).inFlight = s.inFlight := by rfl
@[simp] theorem State.setCoding_free (c : Nat) (x : Option Delta4) : (s.setCoding c x).free = s.free := by rfl
@[simp] theorem State.setCoding_outs (c : Nat) (x : Option Delta4) : (s.setCoding c x).outs = s.outs := by rfl
@[simp] theorem State.setCoding_runs (c : Nat) (x : Option Delta4) : (s.setCoding c x).runs = s.runs := by rfl
@[simp] theorem State.setCoding_hub (c : Nat) (x : Option Delta4) : (s.setCoding c x).hub = s.hub := by rfl
@[simp] theorem State.setCoding_boot (c : Nat) (x : Option Delta4) : (s.setCoding c x).boot = s.boot := by rfl
@[simp] theorem State.setCoding_vyn (c : Nat) (x : Option Delta4) : (s.setCoding c x).vyn = s.vyn := by rfl
@[simp] theorem State.setCoding_bench (c : Nat) (x : Option Delta4) : (s.setCoding c x).bench = s.bench := by rfl
@[simp] theorem State.setCoding_flash (c : Nat) (x : Option Delta4) : (s.setCoding c x).flash = s.flash := by rfl
@[simp] theorem State.setCoding_fuses (c : Nat) (x : Option Delta4) : (s.setCoding c x).fuses = s.fuses := by rfl
@[simp] theorem State.setCoding_mem (c : Nat) (x : Option Delta4) : (s.setCoding c x).mem = s.mem := by rfl
@[simp] theorem State.setCoding_pin (c : Nat) (x : Option Delta4) (k : Nat) : (s.setCoding c x).pin k = s.pin k := by rfl
@[simp] theorem State.setCoding_cl (c : Nat) (x : Option Delta4) (k : Nat) : (s.setCoding c x).cl k = s.cl k := by rfl
@[simp] theorem State.setCoding_eng (c : Nat) (x : Option Delta4) (k : Nat) : (s.setCoding c x).eng k = s.eng k := by rfl
@[simp] theorem State.setCoding_dig (c : Nat) (x : Option Delta4) (k : Nat) : (s.setCoding c x).dig k = s.dig k := by rfl
@[simp] theorem State.setCoding_rg (c : Nat) (x : Option Delta4) (k : Nat) : (s.setCoding c x).rg k = s.rg k := by rfl
@[simp] theorem State.setCoding_chan (c : Nat) (x : Option Delta4) (k : Nat) : (s.setCoding c x).chan k = s.chan k := by rfl
@[simp] theorem State.setCoding_ring (c : Nat) (x : Option Delta4) (k : Nat) : (s.setCoding c x).ring k = s.ring k := by rfl
@[simp] theorem State.setCoding_flow (c : Nat) (x : Option Delta4) (k : Nat) : (s.setCoding c x).flow k = s.flow k := by rfl
@[simp] theorem State.setCoding_site (c : Nat) (x : Option Delta4) (k : Nat) : (s.setCoding c x).site k = s.site k := by rfl
@[simp] theorem State.setCoding_port (c : Nat) (x : Option Delta4) (k : Nat) : (s.setCoding c x).port k = s.port k := by rfl
@[simp] theorem State.setCoding_flag (c : Nat) (x : Option Delta4) (k : Nat) : (s.setCoding c x).flag k = s.flag k := by rfl
@[simp] theorem State.setCoding_reg (c : Nat) (x : Option Delta4) (k : Nat) : (s.setCoding c x).reg k = s.reg k := by rfl
@[simp] theorem State.setCoding_fld (c : Nat) (x : Option Delta4) (k : Nat) (g : Fld) :
    (s.setCoding c x).fld k g = s.fld k g := by rfl
@[simp] theorem State.setCoding_bit (c : Nat) (x : Option Delta4) (k : Nat) (g : Fld) :
    (s.setCoding c x).bit k g = s.bit k g := by rfl
@[simp] theorem State.setCoding_inForce (c : Nat) (x : Option Delta4) (k : Nat) :
    (s.setCoding c x).inForce k = s.inForce k := by rfl
@[simp] theorem State.setCoding_poisoned (c : Nat) (x : Option Delta4) (k : Nat) :
    (s.setCoding c x).poisoned k = s.poisoned k := by rfl
@[simp] theorem State.setCoding_cline (c : Nat) (x : Option Delta4) (k : Nat) : (s.setCoding c x).cline k = s.cline k := by rfl
@[simp] theorem State.setCoding_dirOf (c : Nat) (x : Option Delta4) (k : Nat) : (s.setCoding c x).dirOf k = s.dirOf k := by rfl
@[simp] theorem State.setCoding_fencedAt (c : Nat) (x : Option Delta4) (k : Nat) :
    (s.setCoding c x).fencedAt k = s.fencedAt k := by rfl
@[simp] theorem State.setCoding_writeBarred (c : Nat) (x : Option Delta4) (k : Nat) :
    (s.setCoding c x).writeBarred k = s.writeBarred k := by rfl

/-! setPoison -/

@[simp] theorem State.setPoison_pending (a : Nat) (b : Bool) : (s.setPoison a b).pending = s.pending := by rfl
@[simp] theorem State.setPoison_logWait (a : Nat) (b : Bool) : (s.setPoison a b).logWait = s.logWait := by rfl
@[simp] theorem State.setPoison_flowStores (a : Nat) (b : Bool) : (s.setPoison a b).flowStores = s.flowStores := by rfl
@[simp] theorem State.setPoison_gt (a : Nat) (b : Bool) : (s.setPoison a b).gt = s.gt := by rfl
@[simp] theorem State.setPoison_inFlight (a : Nat) (b : Bool) : (s.setPoison a b).inFlight = s.inFlight := by rfl
@[simp] theorem State.setPoison_free (a : Nat) (b : Bool) : (s.setPoison a b).free = s.free := by rfl
@[simp] theorem State.setPoison_outs (a : Nat) (b : Bool) : (s.setPoison a b).outs = s.outs := by rfl
@[simp] theorem State.setPoison_runs (a : Nat) (b : Bool) : (s.setPoison a b).runs = s.runs := by rfl
@[simp] theorem State.setPoison_hub (a : Nat) (b : Bool) : (s.setPoison a b).hub = s.hub := by rfl
@[simp] theorem State.setPoison_boot (a : Nat) (b : Bool) : (s.setPoison a b).boot = s.boot := by rfl
@[simp] theorem State.setPoison_vyn (a : Nat) (b : Bool) : (s.setPoison a b).vyn = s.vyn := by rfl
@[simp] theorem State.setPoison_bench (a : Nat) (b : Bool) : (s.setPoison a b).bench = s.bench := by rfl
@[simp] theorem State.setPoison_flash (a : Nat) (b : Bool) : (s.setPoison a b).flash = s.flash := by rfl
@[simp] theorem State.setPoison_fuses (a : Nat) (b : Bool) : (s.setPoison a b).fuses = s.fuses := by rfl
@[simp] theorem State.setPoison_mem (a : Nat) (b : Bool) : (s.setPoison a b).mem = s.mem := by rfl
@[simp] theorem State.setPoison_pin (a : Nat) (b : Bool) (k : Nat) : (s.setPoison a b).pin k = s.pin k := by rfl
@[simp] theorem State.setPoison_cl (a : Nat) (b : Bool) (k : Nat) : (s.setPoison a b).cl k = s.cl k := by rfl
@[simp] theorem State.setPoison_eng (a : Nat) (b : Bool) (k : Nat) : (s.setPoison a b).eng k = s.eng k := by rfl
@[simp] theorem State.setPoison_dig (a : Nat) (b : Bool) (k : Nat) : (s.setPoison a b).dig k = s.dig k := by rfl
@[simp] theorem State.setPoison_rg (a : Nat) (b : Bool) (k : Nat) : (s.setPoison a b).rg k = s.rg k := by rfl
@[simp] theorem State.setPoison_chan (a : Nat) (b : Bool) (k : Nat) : (s.setPoison a b).chan k = s.chan k := by rfl
@[simp] theorem State.setPoison_ring (a : Nat) (b : Bool) (k : Nat) : (s.setPoison a b).ring k = s.ring k := by rfl
@[simp] theorem State.setPoison_flow (a : Nat) (b : Bool) (k : Nat) : (s.setPoison a b).flow k = s.flow k := by rfl
@[simp] theorem State.setPoison_site (a : Nat) (b : Bool) (k : Nat) : (s.setPoison a b).site k = s.site k := by rfl
@[simp] theorem State.setPoison_port (a : Nat) (b : Bool) (k : Nat) : (s.setPoison a b).port k = s.port k := by rfl
@[simp] theorem State.setPoison_flag (a : Nat) (b : Bool) (k : Nat) : (s.setPoison a b).flag k = s.flag k := by rfl
@[simp] theorem State.setPoison_reg (a : Nat) (b : Bool) (k : Nat) : (s.setPoison a b).reg k = s.reg k := by rfl
@[simp] theorem State.setPoison_fld (a : Nat) (b : Bool) (k : Nat) (g : Fld) : (s.setPoison a b).fld k g = s.fld k g := by rfl
@[simp] theorem State.setPoison_bit (a : Nat) (b : Bool) (k : Nat) (g : Fld) : (s.setPoison a b).bit k g = s.bit k g := by rfl
@[simp] theorem State.setPoison_inForce (a : Nat) (b : Bool) (k : Nat) : (s.setPoison a b).inForce k = s.inForce k := by rfl
@[simp] theorem State.setPoison_cline (a : Nat) (b : Bool) (k : Nat) : (s.setPoison a b).cline k = s.cline k := by rfl
@[simp] theorem State.setPoison_dirOf (a : Nat) (b : Bool) (k : Nat) : (s.setPoison a b).dirOf k = s.dirOf k := by rfl
@[simp] theorem State.setPoison_coding (a : Nat) (b : Bool) (k : Nat) : (s.setPoison a b).coding k = s.coding k := by rfl
@[simp] theorem State.setPoison_fencedAt (a : Nat) (b : Bool) (k : Nat) : (s.setPoison a b).fencedAt k = s.fencedAt k := by rfl
@[simp] theorem State.setPoison_writeBarred (a : Nat) (b : Bool) (k : Nat) :
    (s.setPoison a b).writeBarred k = s.writeBarred k := by rfl

/-! setCline -/

@[simp] theorem State.setCline_pending (l : Nat) (x : CacheLine) : (s.setCline l x).pending = s.pending := by rfl
@[simp] theorem State.setCline_logWait (l : Nat) (x : CacheLine) : (s.setCline l x).logWait = s.logWait := by rfl
@[simp] theorem State.setCline_flowStores (l : Nat) (x : CacheLine) : (s.setCline l x).flowStores = s.flowStores := by rfl
@[simp] theorem State.setCline_gt (l : Nat) (x : CacheLine) : (s.setCline l x).gt = s.gt := by rfl
@[simp] theorem State.setCline_inFlight (l : Nat) (x : CacheLine) : (s.setCline l x).inFlight = s.inFlight := by rfl
@[simp] theorem State.setCline_free (l : Nat) (x : CacheLine) : (s.setCline l x).free = s.free := by rfl
@[simp] theorem State.setCline_outs (l : Nat) (x : CacheLine) : (s.setCline l x).outs = s.outs := by rfl
@[simp] theorem State.setCline_runs (l : Nat) (x : CacheLine) : (s.setCline l x).runs = s.runs := by rfl
@[simp] theorem State.setCline_hub (l : Nat) (x : CacheLine) : (s.setCline l x).hub = s.hub := by rfl
@[simp] theorem State.setCline_boot (l : Nat) (x : CacheLine) : (s.setCline l x).boot = s.boot := by rfl
@[simp] theorem State.setCline_vyn (l : Nat) (x : CacheLine) : (s.setCline l x).vyn = s.vyn := by rfl
@[simp] theorem State.setCline_bench (l : Nat) (x : CacheLine) : (s.setCline l x).bench = s.bench := by rfl
@[simp] theorem State.setCline_flash (l : Nat) (x : CacheLine) : (s.setCline l x).flash = s.flash := by rfl
@[simp] theorem State.setCline_fuses (l : Nat) (x : CacheLine) : (s.setCline l x).fuses = s.fuses := by rfl
@[simp] theorem State.setCline_mem (l : Nat) (x : CacheLine) : (s.setCline l x).mem = s.mem := by rfl
@[simp] theorem State.setCline_pin (l : Nat) (x : CacheLine) (k : Nat) : (s.setCline l x).pin k = s.pin k := by rfl
@[simp] theorem State.setCline_cl (l : Nat) (x : CacheLine) (k : Nat) : (s.setCline l x).cl k = s.cl k := by rfl
@[simp] theorem State.setCline_eng (l : Nat) (x : CacheLine) (k : Nat) : (s.setCline l x).eng k = s.eng k := by rfl
@[simp] theorem State.setCline_dig (l : Nat) (x : CacheLine) (k : Nat) : (s.setCline l x).dig k = s.dig k := by rfl
@[simp] theorem State.setCline_rg (l : Nat) (x : CacheLine) (k : Nat) : (s.setCline l x).rg k = s.rg k := by rfl
@[simp] theorem State.setCline_chan (l : Nat) (x : CacheLine) (k : Nat) : (s.setCline l x).chan k = s.chan k := by rfl
@[simp] theorem State.setCline_ring (l : Nat) (x : CacheLine) (k : Nat) : (s.setCline l x).ring k = s.ring k := by rfl
@[simp] theorem State.setCline_flow (l : Nat) (x : CacheLine) (k : Nat) : (s.setCline l x).flow k = s.flow k := by rfl
@[simp] theorem State.setCline_site (l : Nat) (x : CacheLine) (k : Nat) : (s.setCline l x).site k = s.site k := by rfl
@[simp] theorem State.setCline_port (l : Nat) (x : CacheLine) (k : Nat) : (s.setCline l x).port k = s.port k := by rfl
@[simp] theorem State.setCline_flag (l : Nat) (x : CacheLine) (k : Nat) : (s.setCline l x).flag k = s.flag k := by rfl
@[simp] theorem State.setCline_reg (l : Nat) (x : CacheLine) (k : Nat) : (s.setCline l x).reg k = s.reg k := by rfl
@[simp] theorem State.setCline_fld (l : Nat) (x : CacheLine) (k : Nat) (g : Fld) : (s.setCline l x).fld k g = s.fld k g := by rfl
@[simp] theorem State.setCline_bit (l : Nat) (x : CacheLine) (k : Nat) (g : Fld) : (s.setCline l x).bit k g = s.bit k g := by rfl
@[simp] theorem State.setCline_inForce (l : Nat) (x : CacheLine) (k : Nat) : (s.setCline l x).inForce k = s.inForce k := by rfl
@[simp] theorem State.setCline_poisoned (l : Nat) (x : CacheLine) (k : Nat) : (s.setCline l x).poisoned k = s.poisoned k := by rfl
@[simp] theorem State.setCline_dirOf (l : Nat) (x : CacheLine) (k : Nat) : (s.setCline l x).dirOf k = s.dirOf k := by rfl
@[simp] theorem State.setCline_coding (l : Nat) (x : CacheLine) (k : Nat) : (s.setCline l x).coding k = s.coding k := by rfl
@[simp] theorem State.setCline_fencedAt (l : Nat) (x : CacheLine) (k : Nat) : (s.setCline l x).fencedAt k = s.fencedAt k := by rfl
@[simp] theorem State.setCline_writeBarred (l : Nat) (x : CacheLine) (k : Nat) :
    (s.setCline l x).writeBarred k = s.writeBarred k := by rfl

/-! setDir -/

@[simp] theorem State.setDir_pending (l : Nat) (x : DirEntry) : (s.setDir l x).pending = s.pending := by rfl
@[simp] theorem State.setDir_logWait (l : Nat) (x : DirEntry) : (s.setDir l x).logWait = s.logWait := by rfl
@[simp] theorem State.setDir_flowStores (l : Nat) (x : DirEntry) : (s.setDir l x).flowStores = s.flowStores := by rfl
@[simp] theorem State.setDir_gt (l : Nat) (x : DirEntry) : (s.setDir l x).gt = s.gt := by rfl
@[simp] theorem State.setDir_inFlight (l : Nat) (x : DirEntry) : (s.setDir l x).inFlight = s.inFlight := by rfl
@[simp] theorem State.setDir_free (l : Nat) (x : DirEntry) : (s.setDir l x).free = s.free := by rfl
@[simp] theorem State.setDir_outs (l : Nat) (x : DirEntry) : (s.setDir l x).outs = s.outs := by rfl
@[simp] theorem State.setDir_runs (l : Nat) (x : DirEntry) : (s.setDir l x).runs = s.runs := by rfl
@[simp] theorem State.setDir_hub (l : Nat) (x : DirEntry) : (s.setDir l x).hub = s.hub := by rfl
@[simp] theorem State.setDir_boot (l : Nat) (x : DirEntry) : (s.setDir l x).boot = s.boot := by rfl
@[simp] theorem State.setDir_vyn (l : Nat) (x : DirEntry) : (s.setDir l x).vyn = s.vyn := by rfl
@[simp] theorem State.setDir_bench (l : Nat) (x : DirEntry) : (s.setDir l x).bench = s.bench := by rfl
@[simp] theorem State.setDir_flash (l : Nat) (x : DirEntry) : (s.setDir l x).flash = s.flash := by rfl
@[simp] theorem State.setDir_fuses (l : Nat) (x : DirEntry) : (s.setDir l x).fuses = s.fuses := by rfl
@[simp] theorem State.setDir_mem (l : Nat) (x : DirEntry) : (s.setDir l x).mem = s.mem := by rfl
@[simp] theorem State.setDir_pin (l : Nat) (x : DirEntry) (k : Nat) : (s.setDir l x).pin k = s.pin k := by rfl
@[simp] theorem State.setDir_cl (l : Nat) (x : DirEntry) (k : Nat) : (s.setDir l x).cl k = s.cl k := by rfl
@[simp] theorem State.setDir_eng (l : Nat) (x : DirEntry) (k : Nat) : (s.setDir l x).eng k = s.eng k := by rfl
@[simp] theorem State.setDir_dig (l : Nat) (x : DirEntry) (k : Nat) : (s.setDir l x).dig k = s.dig k := by rfl
@[simp] theorem State.setDir_rg (l : Nat) (x : DirEntry) (k : Nat) : (s.setDir l x).rg k = s.rg k := by rfl
@[simp] theorem State.setDir_chan (l : Nat) (x : DirEntry) (k : Nat) : (s.setDir l x).chan k = s.chan k := by rfl
@[simp] theorem State.setDir_ring (l : Nat) (x : DirEntry) (k : Nat) : (s.setDir l x).ring k = s.ring k := by rfl
@[simp] theorem State.setDir_flow (l : Nat) (x : DirEntry) (k : Nat) : (s.setDir l x).flow k = s.flow k := by rfl
@[simp] theorem State.setDir_site (l : Nat) (x : DirEntry) (k : Nat) : (s.setDir l x).site k = s.site k := by rfl
@[simp] theorem State.setDir_port (l : Nat) (x : DirEntry) (k : Nat) : (s.setDir l x).port k = s.port k := by rfl
@[simp] theorem State.setDir_flag (l : Nat) (x : DirEntry) (k : Nat) : (s.setDir l x).flag k = s.flag k := by rfl
@[simp] theorem State.setDir_reg (l : Nat) (x : DirEntry) (k : Nat) : (s.setDir l x).reg k = s.reg k := by rfl
@[simp] theorem State.setDir_fld (l : Nat) (x : DirEntry) (k : Nat) (g : Fld) : (s.setDir l x).fld k g = s.fld k g := by rfl
@[simp] theorem State.setDir_bit (l : Nat) (x : DirEntry) (k : Nat) (g : Fld) : (s.setDir l x).bit k g = s.bit k g := by rfl
@[simp] theorem State.setDir_inForce (l : Nat) (x : DirEntry) (k : Nat) : (s.setDir l x).inForce k = s.inForce k := by rfl
@[simp] theorem State.setDir_poisoned (l : Nat) (x : DirEntry) (k : Nat) : (s.setDir l x).poisoned k = s.poisoned k := by rfl
@[simp] theorem State.setDir_cline (l : Nat) (x : DirEntry) (k : Nat) : (s.setDir l x).cline k = s.cline k := by rfl
@[simp] theorem State.setDir_coding (l : Nat) (x : DirEntry) (k : Nat) : (s.setDir l x).coding k = s.coding k := by rfl
@[simp] theorem State.setDir_fencedAt (l : Nat) (x : DirEntry) (k : Nat) : (s.setDir l x).fencedAt k = s.fencedAt k := by rfl
@[simp] theorem State.setDir_writeBarred (l : Nat) (x : DirEntry) (k : Nat) :
    (s.setDir l x).writeBarred k = s.writeBarred k := by rfl

/-! putBytes -/

/-- What every step of a fold keeps holds after it. -/
theorem foldl_holds {α : Type} {P : State → Prop} {f : State → α → State} (hf : ∀ t x, P t → P (f t x)) :
    ∀ (l : List α) (t : State), P t → P (l.foldl f t)
  | [], _, h => h
  | x :: l, t, h => foldl_holds hf l (f t x) (hf t x h)
/-- A write of bytes of plain memory touches besides what plays or converts them. -/
theorem State.segTouch_frame (a : Nat) (l : List Byte) : ∃ x p, s.segTouch a l = { s with codings := x, pins := p } := by
  unfold State.segTouch
  split
  · split
    · refine foldl_holds (P := fun t => ∃ x p, t = { s with codings := x, pins := p }) (fun t u ht => ?_) _ _ ⟨_, _, rfl⟩
      obtain ⟨x, p, rfl⟩ := ht
      split
      · split
        · exact ⟨x, p, rfl⟩
        · exact ⟨x, _, rfl⟩
      · exact ⟨x, p, rfl⟩
    · exact ⟨_, _, rfl⟩
  · exact ⟨_, _, rfl⟩
theorem State.putBytes_frame (a : Nat) (l : List Byte) : ∃ m x p, s.putBytes a l = { s with mem := m, codings := x, pins := p } := by
  obtain ⟨_, _, e⟩ := s.segTouch_frame a (s.bytesAt a l.length)
  exact ⟨_, _, _, by unfold State.putBytes; rw [e]⟩
@[simp] theorem State.putBytes_mem (a : Nat) (l : List Byte) : (s.putBytes a l).mem = tputs (fun _ => (0 : Byte)) s.mem a l := by
  rfl
@[simp] theorem State.putBytes_pending (a : Nat) (l : List Byte) : (s.putBytes a l).pending = s.pending := by
  obtain ⟨_, _, _, e⟩ := s.putBytes_frame a l; rw [e]
@[simp] theorem State.putBytes_logWait (a : Nat) (l : List Byte) : (s.putBytes a l).logWait = s.logWait := by
  obtain ⟨_, _, _, e⟩ := s.putBytes_frame a l; rw [e]
@[simp] theorem State.putBytes_flowStores (a : Nat) (l : List Byte) : (s.putBytes a l).flowStores = s.flowStores := by
  obtain ⟨_, _, _, e⟩ := s.putBytes_frame a l; rw [e]
@[simp] theorem State.putBytes_gt (a : Nat) (l : List Byte) : (s.putBytes a l).gt = s.gt := by
  obtain ⟨_, _, _, e⟩ := s.putBytes_frame a l; rw [e]
@[simp] theorem State.putBytes_inFlight (a : Nat) (l : List Byte) : (s.putBytes a l).inFlight = s.inFlight := by
  obtain ⟨_, _, _, e⟩ := s.putBytes_frame a l; rw [e]
@[simp] theorem State.putBytes_free (a : Nat) (l : List Byte) : (s.putBytes a l).free = s.free := by
  obtain ⟨_, _, _, e⟩ := s.putBytes_frame a l; rw [e]
@[simp] theorem State.putBytes_outs (a : Nat) (l : List Byte) : (s.putBytes a l).outs = s.outs := by
  obtain ⟨_, _, _, e⟩ := s.putBytes_frame a l; rw [e]
@[simp] theorem State.putBytes_runs (a : Nat) (l : List Byte) : (s.putBytes a l).runs = s.runs := by
  obtain ⟨_, _, _, e⟩ := s.putBytes_frame a l; rw [e]
@[simp] theorem State.putBytes_hub (a : Nat) (l : List Byte) : (s.putBytes a l).hub = s.hub := by
  obtain ⟨_, _, _, e⟩ := s.putBytes_frame a l; rw [e]
@[simp] theorem State.putBytes_boot (a : Nat) (l : List Byte) : (s.putBytes a l).boot = s.boot := by
  obtain ⟨_, _, _, e⟩ := s.putBytes_frame a l; rw [e]
@[simp] theorem State.putBytes_vyn (a : Nat) (l : List Byte) : (s.putBytes a l).vyn = s.vyn := by
  obtain ⟨_, _, _, e⟩ := s.putBytes_frame a l; rw [e]
@[simp] theorem State.putBytes_bench (a : Nat) (l : List Byte) : (s.putBytes a l).bench = s.bench := by
  obtain ⟨_, _, _, e⟩ := s.putBytes_frame a l; rw [e]
@[simp] theorem State.putBytes_flash (a : Nat) (l : List Byte) : (s.putBytes a l).flash = s.flash := by
  obtain ⟨_, _, _, e⟩ := s.putBytes_frame a l; rw [e]
@[simp] theorem State.putBytes_fuses (a : Nat) (l : List Byte) : (s.putBytes a l).fuses = s.fuses := by
  obtain ⟨_, _, _, e⟩ := s.putBytes_frame a l; rw [e]
@[simp] theorem State.putBytes_cl (a : Nat) (l : List Byte) (k : Nat) : (s.putBytes a l).cl k = s.cl k := by
  obtain ⟨_, _, _, e⟩ := s.putBytes_frame a l; rw [e]; rfl
@[simp] theorem State.putBytes_eng (a : Nat) (l : List Byte) (k : Nat) : (s.putBytes a l).eng k = s.eng k := by
  obtain ⟨_, _, _, e⟩ := s.putBytes_frame a l; rw [e]; rfl
@[simp] theorem State.putBytes_dig (a : Nat) (l : List Byte) (k : Nat) : (s.putBytes a l).dig k = s.dig k := by
  obtain ⟨_, _, _, e⟩ := s.putBytes_frame a l; rw [e]; rfl
@[simp] theorem State.putBytes_rg (a : Nat) (l : List Byte) (k : Nat) : (s.putBytes a l).rg k = s.rg k := by
  obtain ⟨_, _, _, e⟩ := s.putBytes_frame a l; rw [e]; rfl
@[simp] theorem State.putBytes_chan (a : Nat) (l : List Byte) (k : Nat) : (s.putBytes a l).chan k = s.chan k := by
  obtain ⟨_, _, _, e⟩ := s.putBytes_frame a l; rw [e]; rfl
@[simp] theorem State.putBytes_ring (a : Nat) (l : List Byte) (k : Nat) : (s.putBytes a l).ring k = s.ring k := by
  obtain ⟨_, _, _, e⟩ := s.putBytes_frame a l; rw [e]; rfl
@[simp] theorem State.putBytes_flow (a : Nat) (l : List Byte) (k : Nat) : (s.putBytes a l).flow k = s.flow k := by
  obtain ⟨_, _, _, e⟩ := s.putBytes_frame a l; rw [e]; rfl
@[simp] theorem State.putBytes_site (a : Nat) (l : List Byte) (k : Nat) : (s.putBytes a l).site k = s.site k := by
  obtain ⟨_, _, _, e⟩ := s.putBytes_frame a l; rw [e]; rfl
@[simp] theorem State.putBytes_port (a : Nat) (l : List Byte) (k : Nat) : (s.putBytes a l).port k = s.port k := by
  obtain ⟨_, _, _, e⟩ := s.putBytes_frame a l; rw [e]; rfl
@[simp] theorem State.putBytes_flag (a : Nat) (l : List Byte) (k : Nat) : (s.putBytes a l).flag k = s.flag k := by
  obtain ⟨_, _, _, e⟩ := s.putBytes_frame a l; rw [e]; rfl
@[simp] theorem State.putBytes_reg (a : Nat) (l : List Byte) (k : Nat) : (s.putBytes a l).reg k = s.reg k := by
  obtain ⟨_, _, _, e⟩ := s.putBytes_frame a l; rw [e]; rfl
@[simp] theorem State.putBytes_fld (a : Nat) (l : List Byte) (k : Nat) (g : Fld) : (s.putBytes a l).fld k g = s.fld k g := by
  obtain ⟨_, _, _, e⟩ := s.putBytes_frame a l; rw [e]; rfl
@[simp] theorem State.putBytes_bit (a : Nat) (l : List Byte) (k : Nat) (g : Fld) : (s.putBytes a l).bit k g = s.bit k g := by
  obtain ⟨_, _, _, e⟩ := s.putBytes_frame a l; rw [e]; rfl
@[simp] theorem State.putBytes_inForce (a : Nat) (l : List Byte) (k : Nat) : (s.putBytes a l).inForce k = s.inForce k := by
  obtain ⟨_, _, _, e⟩ := s.putBytes_frame a l; rw [e]; rfl
@[simp] theorem State.putBytes_poisoned (a : Nat) (l : List Byte) (k : Nat) : (s.putBytes a l).poisoned k = s.poisoned k := by
  obtain ⟨_, _, _, e⟩ := s.putBytes_frame a l; rw [e]; rfl
@[simp] theorem State.putBytes_cline (a : Nat) (l : List Byte) (k : Nat) : (s.putBytes a l).cline k = s.cline k := by
  obtain ⟨_, _, _, e⟩ := s.putBytes_frame a l; rw [e]; rfl
@[simp] theorem State.putBytes_dirOf (a : Nat) (l : List Byte) (k : Nat) : (s.putBytes a l).dirOf k = s.dirOf k := by
  obtain ⟨_, _, _, e⟩ := s.putBytes_frame a l; rw [e]; rfl
@[simp] theorem State.putBytes_fencedAt (a : Nat) (l : List Byte) (k : Nat) : (s.putBytes a l).fencedAt k = s.fencedAt k := by
  obtain ⟨_, _, _, e⟩ := s.putBytes_frame a l; rw [e]; rfl
@[simp] theorem State.putBytes_writeBarred (a : Nat) (l : List Byte) (k : Nat) : (s.putBytes a l).writeBarred k = s.writeBarred k := by
  obtain ⟨_, _, _, e⟩ := s.putBytes_frame a l; rw [e]; rfl

/-! A record read after it is written. -/

@[simp] theorem State.setPin_pin (p : Nat) (x : PinSt) : (s.setPin p x).pin p = x := tget_tput_same _ _ _ _
theorem State.setPin_pin_ne (p : Nat) (x : PinSt) (m : Nat) (h : m ≠ p) : (s.setPin p x).pin m = s.pin m :=
  tget_tput_ne _ _ _ h.symm
@[simp] theorem State.setCl_cl (c : Nat) (x : ClSt) : (s.setCl c x).cl c = x := tget_tput_same _ _ _ _
theorem State.setCl_cl_ne (c : Nat) (x : ClSt) (m : Nat) (h : m ≠ c) : (s.setCl c x).cl m = s.cl m :=
  tget_tput_ne _ _ _ h.symm
@[simp] theorem State.setEng_eng (e : Nat) (x : EngSt) : (s.setEng e x).eng e = x := tget_tput_same _ _ _ _
theorem State.setEng_eng_ne (e : Nat) (x : EngSt) (m : Nat) (h : m ≠ e) : (s.setEng e x).eng m = s.eng m :=
  tget_tput_ne _ _ _ h.symm
@[simp] theorem State.setDig_dig (d : Nat) (x : DigSt) : (s.setDig d x).dig d = x := tget_tput_same _ _ _ _
theorem State.setDig_dig_ne (d : Nat) (x : DigSt) (m : Nat) (h : m ≠ d) : (s.setDig d x).dig m = s.dig m :=
  tget_tput_ne _ _ _ h.symm
@[simp] theorem State.setRg_rg (r : Nat) (x : RgSt) : (s.setRg r x).rg r = x := tget_tput_same _ _ _ _
theorem State.setRg_rg_ne (r : Nat) (x : RgSt) (m : Nat) (h : m ≠ r) : (s.setRg r x).rg m = s.rg m :=
  tget_tput_ne _ _ _ h.symm
@[simp] theorem State.setChan_chan (n : Nat) (x : ChanSt) : (s.setChan n x).chan n = x := tget_tput_same _ _ _ _
theorem State.setChan_chan_ne (n : Nat) (x : ChanSt) (m : Nat) (h : m ≠ n) : (s.setChan n x).chan m = s.chan m :=
  tget_tput_ne _ _ _ h.symm
@[simp] theorem State.setRing_ring (n : Nat) (x : RingSt) : (s.setRing n x).ring n = x := tget_tput_same _ _ _ _
theorem State.setRing_ring_ne (n : Nat) (x : RingSt) (m : Nat) (h : m ≠ n) : (s.setRing n x).ring m = s.ring m :=
  tget_tput_ne _ _ _ h.symm
@[simp] theorem State.setFlow_flow (n : Nat) (x : FlowSt) : (s.setFlow n x).flow n = x := tget_tput_same _ _ _ _
theorem State.setFlow_flow_ne (n : Nat) (x : FlowSt) (m : Nat) (h : m ≠ n) : (s.setFlow n x).flow m = s.flow m :=
  tget_tput_ne _ _ _ h.symm
@[simp] theorem State.setSite_site (k : Nat) (x : SiteSt) : (s.setSite k x).site k = x := tget_tput_same _ _ _ _
theorem State.setSite_site_ne (k : Nat) (x : SiteSt) (m : Nat) (h : m ≠ k) : (s.setSite k x).site m = s.site m :=
  tget_tput_ne _ _ _ h.symm
@[simp] theorem State.setPort_port (n : Nat) (x : PortSt) : (s.setPort n x).port n = x := tget_tput_same _ _ _ _
theorem State.setPort_port_ne (n : Nat) (x : PortSt) (m : Nat) (h : m ≠ n) : (s.setPort n x).port m = s.port m :=
  tget_tput_ne _ _ _ h.symm
@[simp] theorem State.setFlag_flag (k : Nat) (x : Bool) : (s.setFlag k x).flag k = x := tget_tput_same _ _ _ _
theorem State.setFlag_flag_ne (k : Nat) (x : Bool) (m : Nat) (h : m ≠ k) : (s.setFlag k x).flag m = s.flag m :=
  tget_tput_ne _ _ _ h.symm
@[simp] theorem State.setReg_reg (a : Nat) (x : Word) : (s.setReg a x).reg a = x := tget_tput_same _ _ _ _
theorem State.setReg_reg_ne (a : Nat) (x : Word) (m : Nat) (h : m ≠ a) : (s.setReg a x).reg m = s.reg m :=
  tget_tput_ne _ _ _ h.symm
@[simp] theorem State.setForce_inForce (a : Nat) (x : Word) : (s.setForce a x).inForce a = x := tget_tput_same _ _ _ _
theorem State.setForce_inForce_ne (a : Nat) (x : Word) (m : Nat) (h : m ≠ a) : (s.setForce a x).inForce m = s.inForce m :=
  tget_tput_ne _ _ _ h.symm
@[simp] theorem State.setCline_cline (l : Nat) (x : CacheLine) : (s.setCline l x).cline l = x := tget_tput_same _ _ _ _
theorem State.setCline_cline_ne (l : Nat) (x : CacheLine) (m : Nat) (h : m ≠ l) : (s.setCline l x).cline m = s.cline m :=
  tget_tput_ne _ _ _ h.symm
@[simp] theorem State.setDir_dirOf (l : Nat) (x : DirEntry) : (s.setDir l x).dirOf l = x := tget_tput_same _ _ _ _
theorem State.setDir_dirOf_ne (l : Nat) (x : DirEntry) (m : Nat) (h : m ≠ l) : (s.setDir l x).dirOf m = s.dirOf m :=
  tget_tput_ne _ _ _ h.symm
@[simp] theorem State.setCoding_coding (c : Nat) (x : Option Delta4) : (s.setCoding c x).coding c = x := tget_tput_same _ _ _ _
theorem State.setCoding_coding_ne (c : Nat) (x : Option Delta4) (m : Nat) (h : m ≠ c) : (s.setCoding c x).coding m = s.coding m :=
  tget_tput_ne _ _ _ h.symm
@[simp] theorem State.updPin_pin (p : Nat) (f : PinSt → PinSt) : (s.updPin p f).pin p = f (s.pin p) := tget_tput_same _ _ _ _
theorem State.updPin_pin_ne (p : Nat) (f : PinSt → PinSt) (m : Nat) (h : m ≠ p) : (s.updPin p f).pin m = s.pin m :=
  tget_tput_ne _ _ _ h.symm
@[simp] theorem State.updCl_cl (c : Nat) (f : ClSt → ClSt) : (s.updCl c f).cl c = f (s.cl c) := tget_tput_same _ _ _ _
theorem State.updCl_cl_ne (c : Nat) (f : ClSt → ClSt) (m : Nat) (h : m ≠ c) : (s.updCl c f).cl m = s.cl m :=
  tget_tput_ne _ _ _ h.symm
@[simp] theorem State.updEng_eng (e : Nat) (f : EngSt → EngSt) : (s.updEng e f).eng e = f (s.eng e) := tget_tput_same _ _ _ _
theorem State.updEng_eng_ne (e : Nat) (f : EngSt → EngSt) (m : Nat) (h : m ≠ e) : (s.updEng e f).eng m = s.eng m :=
  tget_tput_ne _ _ _ h.symm
@[simp] theorem State.updDig_dig (d : Nat) (f : DigSt → DigSt) : (s.updDig d f).dig d = f (s.dig d) := tget_tput_same _ _ _ _
theorem State.updDig_dig_ne (d : Nat) (f : DigSt → DigSt) (m : Nat) (h : m ≠ d) : (s.updDig d f).dig m = s.dig m :=
  tget_tput_ne _ _ _ h.symm
@[simp] theorem State.updRg_rg (r : Nat) (f : RgSt → RgSt) : (s.updRg r f).rg r = f (s.rg r) := tget_tput_same _ _ _ _
theorem State.updRg_rg_ne (r : Nat) (f : RgSt → RgSt) (m : Nat) (h : m ≠ r) : (s.updRg r f).rg m = s.rg m :=
  tget_tput_ne _ _ _ h.symm
@[simp] theorem State.updRing_ring (n : Nat) (f : RingSt → RingSt) : (s.updRing n f).ring n = f (s.ring n) := tget_tput_same _ _ _ _
theorem State.updRing_ring_ne (n : Nat) (f : RingSt → RingSt) (m : Nat) (h : m ≠ n) : (s.updRing n f).ring m = s.ring m :=
  tget_tput_ne _ _ _ h.symm
@[simp] theorem State.updFlow_flow (n : Nat) (f : FlowSt → FlowSt) : (s.updFlow n f).flow n = f (s.flow n) := tget_tput_same _ _ _ _
theorem State.updFlow_flow_ne (n : Nat) (f : FlowSt → FlowSt) (m : Nat) (h : m ≠ n) : (s.updFlow n f).flow m = s.flow m :=
  tget_tput_ne _ _ _ h.symm
@[simp] theorem State.updSite_site (k : Nat) (f : SiteSt → SiteSt) : (s.updSite k f).site k = f (s.site k) := tget_tput_same _ _ _ _
theorem State.updSite_site_ne (k : Nat) (f : SiteSt → SiteSt) (m : Nat) (h : m ≠ k) : (s.updSite k f).site m = s.site m :=
  tget_tput_ne _ _ _ h.symm
@[simp] theorem State.updHub_hub (f : HubSt → HubSt) : (s.updHub f).hub = f s.hub := by rfl
@[simp] theorem State.updBoot_boot (f : BootSt → BootSt) : (s.updBoot f).boot = f s.boot := by rfl
@[simp] theorem State.updVyn_vyn (f : VynSt → VynSt) : (s.updVyn f).vyn = f s.vyn := by rfl
@[simp] theorem State.at_gt (g : Nat) : (s.at g).gt = max s.gt g := by rfl
@[simp] theorem State.useFree_free : s.useFree.free = s.free + 1 := by rfl
@[simp] theorem State.send_outs (o : Output) : (s.send o).outs = s.outs ++ [o] := by rfl
@[simp] theorem State.sendPin_inFlight (a : Nat) (w : Word) : (s.sendPin a w).inFlight = s.inFlight ++ [{ addr := a, value := w, port := 0, sent := s.gt }] := by rfl

/-! Registers and their fields. -/

@[simp] theorem State.setFld_reg (a : Nat) (f : Fld) (v : Nat) : (s.setFld a f v).reg a = setF (s.reg a) f v := tget_tput_same _ _ _ _
theorem State.setFld_reg_ne (a : Nat) (f : Fld) (v m : Nat) (h : m ≠ a) : (s.setFld a f v).reg m = s.reg m :=
  tget_tput_ne _ _ _ h.symm
@[simp] theorem State.setBit_reg (a : Nat) (f : Fld) (b : Bool) : (s.setBit a f b).reg a = setF (s.reg a) f (if b then 1 else 0) :=
  tget_tput_same _ _ _ _
theorem State.setBit_reg_ne (a : Nat) (f : Fld) (b : Bool) (m : Nat) (h : m ≠ a) : (s.setBit a f b).reg m = s.reg m :=
  tget_tput_ne _ _ _ h.symm
@[simp] theorem State.setBoth_reg (a : Nat) (w : Word) : (s.setBoth a w).reg a = w := tget_tput_same _ _ _ _
@[simp] theorem State.setBoth_inForce (a : Nat) (w : Word) : (s.setBoth a w).inForce a = w := tget_tput_same _ _ _ _
theorem State.setReg_fld (a : Nat) (w : Word) (f : Fld) : (s.setReg a w).fld a f = getF w f := by
  unfold State.fld; rw [State.setReg_reg]
theorem State.setReg_fld_ne (a : Nat) (w : Word) (m : Nat) (f : Fld) (h : m ≠ a) : (s.setReg a w).fld m f = s.fld m f := by
  unfold State.fld; rw [State.setReg_reg_ne _ _ _ _ h]
theorem State.setReg_bit_ne (a : Nat) (w : Word) (m : Nat) (f : Fld) (h : m ≠ a) : (s.setReg a w).bit m f = s.bit m f := by
  unfold State.bit; rw [State.setReg_fld_ne _ _ _ _ _ h]
theorem State.setFld_fld (a : Nat) (f : Fld) (v : Nat) (h : f.lo ≤ f.hi) (k : f.hi < 32) :
    (s.setFld a f v).fld a f = v % 2 ^ f.width := by
  unfold State.fld; rw [State.setFld_reg, getF_setF _ _ _ h k]
theorem State.setFld_fld_apart (a : Nat) (f g : Fld) (v : Nat) (h : f.apart g = true) : (s.setFld a f v).fld a g = s.fld a g := by
  unfold State.fld; rw [State.setFld_reg, getF_setF_apart _ _ _ _ h]
theorem State.setFld_fld_ne (a : Nat) (f : Fld) (v m : Nat) (g : Fld) (h : m ≠ a) : (s.setFld a f v).fld m g = s.fld m g := by
  unfold State.fld; rw [State.setFld_reg_ne _ _ _ _ _ h]
theorem State.setFld_bit_apart (a : Nat) (f g : Fld) (v : Nat) (h : f.apart g = true) : (s.setFld a f v).bit a g = s.bit a g := by
  unfold State.bit; rw [State.setFld_fld_apart _ _ _ _ _ h]
theorem State.setFld_bit_ne (a : Nat) (f : Fld) (v m : Nat) (g : Fld) (h : m ≠ a) : (s.setFld a f v).bit m g = s.bit m g := by
  unfold State.bit; rw [State.setFld_fld_ne _ _ _ _ _ _ h]
theorem State.setBit_bit (a : Nat) (f : Fld) (b : Bool) (h : f.lo = f.hi) (k : f.hi < 32) : (s.setBit a f b).bit a f = b := by
  unfold State.bit State.setBit
  rw [State.setFld_fld _ _ _ _ (by omega) k]
  have e : f.width = 1 := by unfold Fld.width; omega
  rw [e]; cases b <;> rfl
theorem State.setBit_bit_apart (a : Nat) (f g : Fld) (b : Bool) (h : f.apart g = true) : (s.setBit a f b).bit a g = s.bit a g := by
  unfold State.bit State.setBit; rw [State.setFld_fld_apart _ _ _ _ _ h]
theorem State.setBit_fld_apart (a : Nat) (f g : Fld) (b : Bool) (h : f.apart g = true) : (s.setBit a f b).fld a g = s.fld a g := by
  unfold State.setBit; rw [State.setFld_fld_apart _ _ _ _ _ h]
theorem State.setBit_bit_ne (a : Nat) (f : Fld) (b : Bool) (m : Nat) (g : Fld) (h : m ≠ a) : (s.setBit a f b).bit m g = s.bit m g := by
  unfold State.bit State.setBit; rw [State.setFld_fld_ne _ _ _ _ _ _ h]
theorem State.setBit_fld_ne (a : Nat) (f : Fld) (b : Bool) (m : Nat) (g : Fld) (h : m ≠ a) : (s.setBit a f b).fld m g = s.fld m g := by
  unfold State.setBit; rw [State.setFld_fld_ne _ _ _ _ _ _ h]

/-! What every partner access to a register meets (R42, R434, R435). -/

theorem State.reach_open (port a : Nat) (act : State → State) (h : s.fencedAt a = false) (k : s.writeBarred a = false) :
    s.reach port a act = act s := by
  unfold State.reach; rw [h, k]; rfl

theorem State.reach_barred (port a : Nat) (act : State → State) (k : s.writeBarred a = true) :
    s.reach port a act = s.violation 0x01 port 0 0 a := by
  unfold State.reach; rw [k]; rfl

theorem State.reach_fenced (port a : Nat) (act : State → State) (h : s.fencedAt a = true) (k : s.writeBarred a = false) :
    s.reach port a act = s := by
  unfold State.reach; rw [h, k]; rfl

theorem State.readReach_open (port a : Nat) (r : Word × State) (h : s.fencedAt a = false) :
    s.readReach port a r = r.2.send (.completion port 0 (leBytes 4 r.1.toNat)) := by
  unfold State.readReach; rw [h]; rfl

end Sys2Proof.Machine
end

