-- ==== Sys2Proof/Laws/Event.lean ====
section
/-! SUPPORT. What a device write, an event and a violation leave as it was: a device write touches memory, what plays or converts it, the
cache, the directory and the outputs; an event touches besides the registers and records of the partner ports. -/

namespace Sys2Proof.Machine

/-- The state but for memory, the coherence of the shared flow space, what plays or converts the segment stores, the outputs and the
counter of free values. -/
def State.sansMem (s : State) : State :=
  { s with
    mem := [], poison := [], cache := [], dir := [], homeBusy := [], homeWaits := [], flowStores := [], outs := [], free := 0
    codings := [], pins := [] }

/-- A fold of steps that leave the rest of the state leaves it. -/
theorem sansMem_foldl {α : Type} {f : State → α → State} (hf : ∀ t x, (f t x).sansMem = t.sansMem) (l : List α) (s : State) :
    (l.foldl f s).sansMem = s.sansMem :=
  foldl_holds (P := fun t => t.sansMem = s.sansMem) (fun t x h => (hf t x).trans h) l s (by rfl)

section

variable (s : State)

@[simp] theorem State.setCline_sansMem (l : Nat) (x : CacheLine) : (s.setCline l x).sansMem = s.sansMem := by rfl
@[simp] theorem State.setDir_sansMem (l : Nat) (x : DirEntry) : (s.setDir l x).sansMem = s.sansMem := by rfl
@[simp] theorem State.setPoison_sansMem (a : Nat) (b : Bool) : (s.setPoison a b).sansMem = s.sansMem := by rfl
@[simp] theorem State.send_sansMem (o : Output) : (s.send o).sansMem = s.sansMem := by rfl
@[simp] theorem State.setBusy_sansMem (l : Nat) (x : HomeBusy) : (s.setBusy l x).sansMem = s.sansMem := by rfl
@[simp] theorem State.clearBusy_sansMem (l : Nat) : (s.clearBusy l).sansMem = s.sansMem := by rfl
@[simp] theorem State.useFree_sansMem : s.useFree.sansMem = s.sansMem := by rfl
@[simp] theorem State.dropLine_sansMem (l : Nat) (x : CacheLine) : (s.dropLine l x).sansMem = s.sansMem := by rfl

@[simp] theorem State.putBytes_sansMem (a : Nat) (l : List Byte) : (s.putBytes a l).sansMem = s.sansMem := by
  obtain ⟨m, x, p, e⟩ := s.putBytes_frame a l
  rw [e]; rfl

@[simp] theorem State.putEnabled_sansMem (a : Nat) (l : List (Option Byte)) : (s.putEnabled a l).sansMem = s.sansMem := by
  induction l generalizing s a with
  | nil => rfl
  | cons x l ih => cases x <;> simp [State.putEnabled, ih]

@[simp] theorem State.unpoison_sansMem (a n : Nat) : (s.unpoison a n).sansMem = s.sansMem := by
  unfold State.unpoison
  refine sansMem_foldl (fun t k => ?_) _ _
  split <;> simp

@[simp] theorem State.setHomeData_sansMem (l : Nat) (x : Payload) : (s.setHomeData l x).sansMem = s.sansMem := by
  cases x <;> simp [State.setHomeData]

@[simp] theorem State.evictOwn_sansMem (l : Nat) (b : Bool) : (s.evictOwn l b).sansMem = s.sansMem := by
  unfold State.evictOwn
  split
  · cases b <;> simp
  · simp

@[simp] theorem State.evict_sansMem (l : Nat) : (s.evict l).sansMem = s.sansMem := by
  unfold State.evict
  split <;> simp

@[simp] theorem State.makeRoom_sansMem (l : Nat) : (s.makeRoom l).sansMem = s.sansMem := by
  unfold State.makeRoom
  dsimp only
  split <;> simp

@[simp] theorem State.fillLine_sansMem (l : Nat) (st : LineState) (x : Payload) : (s.fillLine l st x).sansMem = s.sansMem := by
  cases x <;> simp [State.fillLine]

@[simp] theorem State.flowPut_sansMem (x : FlowStore) : (s.flowPut x).sansMem = s.sansMem := by
  unfold State.flowPut
  dsimp only
  split
  · simp
  · split <;> simp

@[simp] theorem State.storesGo_sansMem (l : Nat) : (s.storesGo l).sansMem = s.sansMem := by
  unfold State.storesGo
  split
  · rfl
  · rfl
  · exact (sansMem_foldl (fun t x => t.flowPut_sansMem x) _ _).trans rfl

@[simp] theorem State.grantShared_sansMem (l r m : Nat) : (s.grantShared l r m).sansMem = s.sansMem := by
  unfold State.grantShared
  dsimp only
  split <;> simp

@[simp] theorem State.grantExclusive_sansMem (l r : Nat) (b : Bool) : (s.grantExclusive l r b).sansMem = s.sansMem := by
  unfold State.grantExclusive
  dsimp only
  split
  · split <;> simp
  · simp

@[simp] theorem State.recallOwn_sansMem (l : Nat) (b : Bool) : (s.recallOwn l b).sansMem = s.sansMem := by
  unfold State.recallOwn
  extract_lets x t
  have ht : t.sansMem = s.sansMem := by dsimp only [t]; split <;> simp
  cases b <;> simp [ht]

@[simp] theorem State.homeReadS_sansMem (r l : Nat) : (s.homeReadS r l).sansMem = s.sansMem := by
  unfold State.homeReadS
  split
  · simp
  · simp
  · split <;> simp

@[simp] theorem State.homeInvalidate_sansMem (r l m : Nat) (b : Bool) : (s.homeInvalidate r l m b).sansMem = s.sansMem := by
  unfold State.homeInvalidate
  extract_lets t rest
  have ht : t.sansMem = s.sansMem := by dsimp only [t]; split <;> simp
  split
  · simp [ht]
  · exact ((sansMem_foldl (fun t k => t.send_sansMem _) _ _).trans (t.setBusy_sansMem _ _)).trans ht

@[simp] theorem State.homeReadX_sansMem (r l : Nat) : (s.homeReadX r l).sansMem = s.sansMem := by
  unfold State.homeReadX
  split
  · simp
  · simp
  · split <;> simp

@[simp] theorem State.homeUpgrade_sansMem (r l : Nat) : (s.homeUpgrade r l).sansMem = s.sansMem := by
  unfold State.homeUpgrade
  split
  · split <;> simp
  · simp

@[simp] theorem State.homeServe_sansMem (r l : Nat) (q : HomeReq) : (s.homeServe r l q).sansMem = s.sansMem := by
  cases q <;> simp [State.homeServe]

@[simp] theorem State.homeRequest_sansMem (r l : Nat) (q : HomeReq) : (s.homeRequest r l q).sansMem = s.sansMem := by
  unfold State.homeRequest
  dsimp only
  split
  · split <;> rfl
  · exact (State.homeServe_sansMem _ _ _ _).trans rfl

@[simp] theorem State.flowAsk_sansMem (l : Nat) : (s.flowAsk l).sansMem = s.sansMem := by
  unfold State.flowAsk
  dsimp only
  split <;> simp

theorem State.flowWrite_sansMem {t : State} {l : Nat} (e : s.flowWrite l = some t) : t.sansMem = s.sansMem := by
  unfold State.flowWrite at e
  dsimp only at e
  repeat' first
    | (rw [Option.some.injEq] at e; subst e; simp)
    | (split at e)
    | (cases e)

@[simp] theorem State.flowStore1_sansMem (x : FlowStore) : (s.flowStore1 x).sansMem = s.sansMem := by
  unfold State.flowStore1
  split
  · next t ht => exact (t.flowPut_sansMem x).trans (s.flowWrite_sansMem ht)
  · dsimp only
    split
    · rfl
    · exact (rfl : _ = (s.flowAsk x.line).sansMem).trans (s.flowAsk_sansMem _)

/-- A device write touches memory, what plays or converts it, the cache, its directory and the outputs. -/
@[simp] theorem State.store_sansMem (a : Nat) (l : List Byte) : (s.store a l).sansMem = s.sansMem := by
  unfold State.store
  split
  · rfl
  · split <;> simp

/-- So does one with byte enables. -/
@[simp] theorem State.storeOpt_sansMem (a : Nat) (l : List (Option Byte)) (b : Bool) : (s.storeOpt a l b).sansMem = s.sansMem := by
  unfold State.storeOpt
  split
  · rfl
  · split
    · simp
    · dsimp only
      split
      · simp
      · split <;> simp

end

/-! An event and a violation. -/

/-- Besides, only the registers of the hub PRT block and the records of the ports differ. -/
structure PortsOnly (s t : State) : Prop where
  rest : { t.sansMem with regs := [], ports := [] } = { s.sansMem with regs := [], ports := [] }
  regs : ∀ a, a < hubBlk 4 ∨ hubBlk 5 ≤ a → t.reg a = s.reg a

theorem PortsOnly.refl (s : State) : PortsOnly s s := ⟨by rfl, fun _ _ => by rfl⟩
theorem PortsOnly.trans {s t u : State} (h : PortsOnly s t) (k : PortsOnly t u) : PortsOnly s u :=
  ⟨k.rest.trans h.rest, fun a ha => (k.regs a ha).trans (h.regs a ha)⟩
theorem PortsOnly.of_sansMem {s t : State} (h : t.sansMem = s.sansMem) : PortsOnly s t :=
  ⟨by rw [h], fun a _ => by have := congrArg (State.reg · a) h; exact this⟩
theorem PortsOnly.setReg {s : State} (a : Nat) (w : Word) (h : hubBlk 4 ≤ a) (k : a < hubBlk 5) : PortsOnly s (s.setReg a w) :=
  ⟨by rfl, fun m hm => State.setReg_reg_ne s a w m (by omega)⟩
theorem PortsOnly.countSat {s : State} (a : Nat) (f : Fld) (k : Nat) (h : hubBlk 4 ≤ a) (h' : a < hubBlk 5) :
    PortsOnly s (s.countSat a f k) := PortsOnly.setReg _ _ h h'
theorem PortsOnly.setPort {s : State} (n : Nat) (x : PortSt) : PortsOnly s (s.setPort n x) := ⟨by rfl, fun _ _ => by rfl⟩
theorem PortsOnly.setPair {s : State} (a b v : Nat) (h : hubBlk 4 ≤ a) (k : a < hubBlk 5) (h' : hubBlk 4 ≤ b) (k' : b < hubBlk 5) :
    PortsOnly s (s.setPair a b v) := PortsOnly.trans (PortsOnly.setReg _ _ h k) (PortsOnly.setReg _ _ h' k')

/-- The registers of the event rings and of the violation log lie in the hub PRT block. -/
theorem prt_range (i : Nat) (h : i < 0x1000000) : hubBlk 4 ≤ hubBlk 4 + i ∧ hubBlk 4 + i < hubBlk 5 := by
  unfold hubBlk; omega

theorem State.msix_portsOnly (s : State) (n : Nat) : PortsOnly s (s.msix n) := by
  unfold State.msix
  split
  · exact ⟨by rfl, fun _ _ => by rfl⟩
  · exact PortsOnly.refl s

theorem State.eventPort_portsOnly (s : State) (code src unit arg value n : Nat) (h : n < 6) :
    PortsOnly s (s.eventPort code src unit arg value n) := by
  have wp := prt_range (0x1c + n * 256) (by omega)
  have st := prt_range (0x24 + n * 256) (by omega)
  unfold State.eventPort
  split
  · refine (PortsOnly.of_sansMem (State.store_sansMem s _ _)).trans (PortsOnly.trans (PortsOnly.setReg _ _ ?_ ?_)
      (PortsOnly.trans (PortsOnly.setPort _ _) (State.msix_portsOnly _ _))) <;> unfold PRT_EVT_WPTR <;> omega
  · refine PortsOnly.trans (PortsOnly.countSat _ _ _ ?_ ?_) (PortsOnly.setPort _ _) <;> unfold PRT_EVT_STAT <;> omega

/-- An event touches what a device write touches, and the partner ports. -/
theorem State.event_portsOnly (s : State) (code src unit arg value : Nat) : PortsOnly s (s.event code src unit arg value) := by
  have h : ∀ (l : List Nat) (t : State), (∀ n ∈ l, n < 6) → PortsOnly s t →
      PortsOnly s (l.foldl (State.eventPort · code src unit arg value) t) := by
    intro l
    induction l with
    | nil => exact fun _ _ k => k
    | cons n l ih =>
      exact fun t b k => ih _ (fun m hm => b m (List.mem_cons_of_mem _ hm))
        (k.trans (t.eventPort_portsOnly code src unit arg value n (b n (List.mem_cons_self ..))))
  exact h _ _ (by decide) (PortsOnly.refl s)

/-- A violation touches what a device write touches, and the partner ports. -/
theorem State.violation_portsOnly (s : State) (cause port pkg inst addr : Nat) : PortsOnly s (s.violation cause port pkg inst addr) := by
  unfold State.violation
  extract_lets w i t1 t2 t3 t4 t5
  have hi : i < 16 := Nat.mod_lt _ (by decide)
  have r : ∀ k, k < 8 → hubBlk 4 ≤ hubBlk 4 + (0x100100 + i * 32 + 4 * k) ∧ hubBlk 4 + (0x100100 + i * 32 + 4 * k) < hubBlk 5 :=
    fun k hk => prt_range _ (by omega)
  have c : hubBlk 4 ≤ PRT_VLOG_WPTR ∧ PRT_VLOG_WPTR < hubBlk 5 := prt_range 0x100000 (by decide)
  have d : hubBlk 4 ≤ PRT_VLOG_RPTR ∧ PRT_VLOG_RPTR < hubBlk 5 := prt_range 0x100004 (by decide)
  have e : hubBlk 4 ≤ PRT_VLOG_LOST ∧ PRT_VLOG_LOST < hubBlk 5 := prt_range 0x100008 (by decide)
  have h1 : PortsOnly s t1 := by
    dsimp only [t1]
    split
    · exact PortsOnly.trans (PortsOnly.setReg _ _ d.1 d.2) (PortsOnly.countSat _ _ _ e.1 e.2)
    · exact PortsOnly.refl s
  have put : ∀ (t : State) (k a : Nat) (v : Word), k < 8 → a = hubBlk 4 + (0x100100 + i * 32 + 4 * k) → PortsOnly t (t.setReg a v) :=
    fun t k a v hk ha => PortsOnly.setReg _ _ (by have := r k hk; omega) (by have := r k hk; omega)
  have h2 : PortsOnly t1 t2 := put _ 0 _ _ (by decide) (by unfold PRT_VLOG_E0; omega)
  have h3 : PortsOnly t2 t3 := (put _ 1 _ _ (by decide) (by unfold PRT_VLOG_E1; omega)).trans
    (put _ 2 _ _ (by decide) (by unfold PRT_VLOG_E2; omega))
  have h4 : PortsOnly t3 t4 := (put _ 3 _ _ (by decide) (by unfold PRT_VLOG_E3; omega)).trans
    ((put _ 4 _ _ (by decide) (by unfold PRT_VLOG_E4; omega)).trans (put _ 5 _ _ (by decide) (by unfold PRT_VLOG_E5; omega)))
  have h5 : PortsOnly t4 t5 := (put _ 6 _ _ (by decide) (by unfold PRT_VLOG_E6; omega)).trans
    ((put _ 7 _ _ (by decide) (by unfold PRT_VLOG_E7; omega)).trans (PortsOnly.setReg _ _ c.1 c.2))
  clear_value t1 t2 t3 t4 t5
  exact h1.trans (h2.trans (h3.trans (h4.trans (h5.trans (State.event_portsOnly _ _ _ _ _ _)))))

/-! What follows for the records of a state. -/

section

variable (s : State)

@[simp] theorem State.store_pending (a : Nat) (l : List Byte) : (s.store a l).pending = s.pending := by
  have e := congrArg State.pending (s.store_sansMem a l)
  exact e
@[simp] theorem State.store_gt (a : Nat) (l : List Byte) : (s.store a l).gt = s.gt := by
  have e := congrArg State.gt (s.store_sansMem a l)
  exact e
@[simp] theorem State.store_inFlight (a : Nat) (l : List Byte) : (s.store a l).inFlight = s.inFlight := by
  have e := congrArg State.inFlight (s.store_sansMem a l)
  exact e
@[simp] theorem State.store_runs (a : Nat) (l : List Byte) : (s.store a l).runs = s.runs := by
  have e := congrArg State.runs (s.store_sansMem a l)
  exact e
@[simp] theorem State.store_hub (a : Nat) (l : List Byte) : (s.store a l).hub = s.hub := by
  have e := congrArg State.hub (s.store_sansMem a l)
  exact e
@[simp] theorem State.store_boot (a : Nat) (l : List Byte) : (s.store a l).boot = s.boot := by
  have e := congrArg State.boot (s.store_sansMem a l)
  exact e
@[simp] theorem State.store_vyn (a : Nat) (l : List Byte) : (s.store a l).vyn = s.vyn := by
  have e := congrArg State.vyn (s.store_sansMem a l)
  exact e
@[simp] theorem State.store_bench (a : Nat) (l : List Byte) : (s.store a l).bench = s.bench := by
  have e := congrArg State.bench (s.store_sansMem a l)
  exact e
@[simp] theorem State.store_flash (a : Nat) (l : List Byte) : (s.store a l).flash = s.flash := by
  have e := congrArg State.flash (s.store_sansMem a l)
  exact e
@[simp] theorem State.store_fuses (a : Nat) (l : List Byte) : (s.store a l).fuses = s.fuses := by
  have e := congrArg State.fuses (s.store_sansMem a l)
  exact e
@[simp] theorem State.store_logWait (a : Nat) (l : List Byte) : (s.store a l).logWait = s.logWait := by
  have e := congrArg State.logWait (s.store_sansMem a l)
  exact e
@[simp] theorem State.store_cl (a : Nat) (l : List Byte) (j : Nat) : (s.store a l).cl j = s.cl j := by
  have e := congrArg (State.cl · j) (s.store_sansMem a l)
  exact e
@[simp] theorem State.store_eng (a : Nat) (l : List Byte) (j : Nat) : (s.store a l).eng j = s.eng j := by
  have e := congrArg (State.eng · j) (s.store_sansMem a l)
  exact e
@[simp] theorem State.store_dig (a : Nat) (l : List Byte) (j : Nat) : (s.store a l).dig j = s.dig j := by
  have e := congrArg (State.dig · j) (s.store_sansMem a l)
  exact e
@[simp] theorem State.store_rg (a : Nat) (l : List Byte) (j : Nat) : (s.store a l).rg j = s.rg j := by
  have e := congrArg (State.rg · j) (s.store_sansMem a l)
  exact e
@[simp] theorem State.store_chan (a : Nat) (l : List Byte) (j : Nat) : (s.store a l).chan j = s.chan j := by
  have e := congrArg (State.chan · j) (s.store_sansMem a l)
  exact e
@[simp] theorem State.store_ring (a : Nat) (l : List Byte) (j : Nat) : (s.store a l).ring j = s.ring j := by
  have e := congrArg (State.ring · j) (s.store_sansMem a l)
  exact e
@[simp] theorem State.store_flow (a : Nat) (l : List Byte) (j : Nat) : (s.store a l).flow j = s.flow j := by
  have e := congrArg (State.flow · j) (s.store_sansMem a l)
  exact e
@[simp] theorem State.store_site (a : Nat) (l : List Byte) (j : Nat) : (s.store a l).site j = s.site j := by
  have e := congrArg (State.site · j) (s.store_sansMem a l)
  exact e
@[simp] theorem State.store_flag (a : Nat) (l : List Byte) (j : Nat) : (s.store a l).flag j = s.flag j := by
  have e := congrArg (State.flag · j) (s.store_sansMem a l)
  exact e
@[simp] theorem State.store_inForce (a : Nat) (l : List Byte) (j : Nat) : (s.store a l).inForce j = s.inForce j := by
  have e := congrArg (State.inForce · j) (s.store_sansMem a l)
  exact e
@[simp] theorem State.store_fencedAt (a : Nat) (l : List Byte) (j : Nat) : (s.store a l).fencedAt j = s.fencedAt j := by
  have e := congrArg (State.fencedAt · j) (s.store_sansMem a l)
  exact e
@[simp] theorem State.store_port (a : Nat) (l : List Byte) (j : Nat) : (s.store a l).port j = s.port j := by
  have e := congrArg (State.port · j) (s.store_sansMem a l)
  exact e
@[simp] theorem State.store_reg (a : Nat) (l : List Byte) (j : Nat) : (s.store a l).reg j = s.reg j := by
  have e := congrArg (State.reg · j) (s.store_sansMem a l)
  exact e
@[simp] theorem State.store_writeBarred (a : Nat) (l : List Byte) (j : Nat) : (s.store a l).writeBarred j = s.writeBarred j := by
  have e := congrArg (State.writeBarred · j) (s.store_sansMem a l)
  exact e
@[simp] theorem State.event_pending (code src unit arg value : Nat) : (s.event code src unit arg value).pending = s.pending := by
  have e := congrArg State.pending (s.event_portsOnly code src unit arg value).rest
  exact e
@[simp] theorem State.event_gt (code src unit arg value : Nat) : (s.event code src unit arg value).gt = s.gt := by
  have e := congrArg State.gt (s.event_portsOnly code src unit arg value).rest
  exact e
@[simp] theorem State.event_inFlight (code src unit arg value : Nat) : (s.event code src unit arg value).inFlight = s.inFlight := by
  have e := congrArg State.inFlight (s.event_portsOnly code src unit arg value).rest
  exact e
@[simp] theorem State.event_runs (code src unit arg value : Nat) : (s.event code src unit arg value).runs = s.runs := by
  have e := congrArg State.runs (s.event_portsOnly code src unit arg value).rest
  exact e
@[simp] theorem State.event_hub (code src unit arg value : Nat) : (s.event code src unit arg value).hub = s.hub := by
  have e := congrArg State.hub (s.event_portsOnly code src unit arg value).rest
  exact e
@[simp] theorem State.event_boot (code src unit arg value : Nat) : (s.event code src unit arg value).boot = s.boot := by
  have e := congrArg State.boot (s.event_portsOnly code src unit arg value).rest
  exact e
@[simp] theorem State.event_vyn (code src unit arg value : Nat) : (s.event code src unit arg value).vyn = s.vyn := by
  have e := congrArg State.vyn (s.event_portsOnly code src unit arg value).rest
  exact e
@[simp] theorem State.event_bench (code src unit arg value : Nat) : (s.event code src unit arg value).bench = s.bench := by
  have e := congrArg State.bench (s.event_portsOnly code src unit arg value).rest
  exact e
@[simp] theorem State.event_flash (code src unit arg value : Nat) : (s.event code src unit arg value).flash = s.flash := by
  have e := congrArg State.flash (s.event_portsOnly code src unit arg value).rest
  exact e
@[simp] theorem State.event_fuses (code src unit arg value : Nat) : (s.event code src unit arg value).fuses = s.fuses := by
  have e := congrArg State.fuses (s.event_portsOnly code src unit arg value).rest
  exact e
@[simp] theorem State.event_logWait (code src unit arg value : Nat) : (s.event code src unit arg value).logWait = s.logWait := by
  have e := congrArg State.logWait (s.event_portsOnly code src unit arg value).rest
  exact e
@[simp] theorem State.event_cl (code src unit arg value : Nat) (j : Nat) : (s.event code src unit arg value).cl j = s.cl j := by
  have e := congrArg (State.cl · j) (s.event_portsOnly code src unit arg value).rest
  exact e
@[simp] theorem State.event_eng (code src unit arg value : Nat) (j : Nat) : (s.event code src unit arg value).eng j = s.eng j := by
  have e := congrArg (State.eng · j) (s.event_portsOnly code src unit arg value).rest
  exact e
@[simp] theorem State.event_dig (code src unit arg value : Nat) (j : Nat) : (s.event code src unit arg value).dig j = s.dig j := by
  have e := congrArg (State.dig · j) (s.event_portsOnly code src unit arg value).rest
  exact e
@[simp] theorem State.event_rg (code src unit arg value : Nat) (j : Nat) : (s.event code src unit arg value).rg j = s.rg j := by
  have e := congrArg (State.rg · j) (s.event_portsOnly code src unit arg value).rest
  exact e
@[simp] theorem State.event_chan (code src unit arg value : Nat) (j : Nat) : (s.event code src unit arg value).chan j = s.chan j := by
  have e := congrArg (State.chan · j) (s.event_portsOnly code src unit arg value).rest
  exact e
@[simp] theorem State.event_ring (code src unit arg value : Nat) (j : Nat) : (s.event code src unit arg value).ring j = s.ring j := by
  have e := congrArg (State.ring · j) (s.event_portsOnly code src unit arg value).rest
  exact e
@[simp] theorem State.event_flow (code src unit arg value : Nat) (j : Nat) : (s.event code src unit arg value).flow j = s.flow j := by
  have e := congrArg (State.flow · j) (s.event_portsOnly code src unit arg value).rest
  exact e
@[simp] theorem State.event_site (code src unit arg value : Nat) (j : Nat) : (s.event code src unit arg value).site j = s.site j := by
  have e := congrArg (State.site · j) (s.event_portsOnly code src unit arg value).rest
  exact e
@[simp] theorem State.event_flag (code src unit arg value : Nat) (j : Nat) : (s.event code src unit arg value).flag j = s.flag j := by
  have e := congrArg (State.flag · j) (s.event_portsOnly code src unit arg value).rest
  exact e
@[simp] theorem State.event_inForce (code src unit arg value : Nat) (j : Nat) : (s.event code src unit arg value).inForce j = s.inForce j := by
  have e := congrArg (State.inForce · j) (s.event_portsOnly code src unit arg value).rest
  exact e
@[simp] theorem State.event_fencedAt (code src unit arg value : Nat) (j : Nat) : (s.event code src unit arg value).fencedAt j = s.fencedAt j := by
  have e := congrArg (State.fencedAt · j) (s.event_portsOnly code src unit arg value).rest
  exact e
@[simp] theorem State.violation_pending (cause port pkg inst addr : Nat) : (s.violation cause port pkg inst addr).pending = s.pending := by
  have e := congrArg State.pending (s.violation_portsOnly cause port pkg inst addr).rest
  exact e
@[simp] theorem State.violation_gt (cause port pkg inst addr : Nat) : (s.violation cause port pkg inst addr).gt = s.gt := by
  have e := congrArg State.gt (s.violation_portsOnly cause port pkg inst addr).rest
  exact e
@[simp] theorem State.violation_inFlight (cause port pkg inst addr : Nat) : (s.violation cause port pkg inst addr).inFlight = s.inFlight := by
  have e := congrArg State.inFlight (s.violation_portsOnly cause port pkg inst addr).rest
  exact e
@[simp] theorem State.violation_runs (cause port pkg inst addr : Nat) : (s.violation cause port pkg inst addr).runs = s.runs := by
  have e := congrArg State.runs (s.violation_portsOnly cause port pkg inst addr).rest
  exact e
@[simp] theorem State.violation_hub (cause port pkg inst addr : Nat) : (s.violation cause port pkg inst addr).hub = s.hub := by
  have e := congrArg State.hub (s.violation_portsOnly cause port pkg inst addr).rest
  exact e
@[simp] theorem State.violation_boot (cause port pkg inst addr : Nat) : (s.violation cause port pkg inst addr).boot = s.boot := by
  have e := congrArg State.boot (s.violation_portsOnly cause port pkg inst addr).rest
  exact e
@[simp] theorem State.violation_vyn (cause port pkg inst addr : Nat) : (s.violation cause port pkg inst addr).vyn = s.vyn := by
  have e := congrArg State.vyn (s.violation_portsOnly cause port pkg inst addr).rest
  exact e
@[simp] theorem State.violation_bench (cause port pkg inst addr : Nat) : (s.violation cause port pkg inst addr).bench = s.bench := by
  have e := congrArg State.bench (s.violation_portsOnly cause port pkg inst addr).rest
  exact e
@[simp] theorem State.violation_flash (cause port pkg inst addr : Nat) : (s.violation cause port pkg inst addr).flash = s.flash := by
  have e := congrArg State.flash (s.violation_portsOnly cause port pkg inst addr).rest
  exact e
@[simp] theorem State.violation_fuses (cause port pkg inst addr : Nat) : (s.violation cause port pkg inst addr).fuses = s.fuses := by
  have e := congrArg State.fuses (s.violation_portsOnly cause port pkg inst addr).rest
  exact e
@[simp] theorem State.violation_logWait (cause port pkg inst addr : Nat) : (s.violation cause port pkg inst addr).logWait = s.logWait := by
  have e := congrArg State.logWait (s.violation_portsOnly cause port pkg inst addr).rest
  exact e
@[simp] theorem State.violation_cl (cause port pkg inst addr : Nat) (j : Nat) : (s.violation cause port pkg inst addr).cl j = s.cl j := by
  have e := congrArg (State.cl · j) (s.violation_portsOnly cause port pkg inst addr).rest
  exact e
@[simp] theorem State.violation_eng (cause port pkg inst addr : Nat) (j : Nat) : (s.violation cause port pkg inst addr).eng j = s.eng j := by
  have e := congrArg (State.eng · j) (s.violation_portsOnly cause port pkg inst addr).rest
  exact e
@[simp] theorem State.violation_dig (cause port pkg inst addr : Nat) (j : Nat) : (s.violation cause port pkg inst addr).dig j = s.dig j := by
  have e := congrArg (State.dig · j) (s.violation_portsOnly cause port pkg inst addr).rest
  exact e
@[simp] theorem State.violation_rg (cause port pkg inst addr : Nat) (j : Nat) : (s.violation cause port pkg inst addr).rg j = s.rg j := by
  have e := congrArg (State.rg · j) (s.violation_portsOnly cause port pkg inst addr).rest
  exact e
@[simp] theorem State.violation_chan (cause port pkg inst addr : Nat) (j : Nat) : (s.violation cause port pkg inst addr).chan j = s.chan j := by
  have e := congrArg (State.chan · j) (s.violation_portsOnly cause port pkg inst addr).rest
  exact e
@[simp] theorem State.violation_ring (cause port pkg inst addr : Nat) (j : Nat) : (s.violation cause port pkg inst addr).ring j = s.ring j := by
  have e := congrArg (State.ring · j) (s.violation_portsOnly cause port pkg inst addr).rest
  exact e
@[simp] theorem State.violation_flow (cause port pkg inst addr : Nat) (j : Nat) : (s.violation cause port pkg inst addr).flow j = s.flow j := by
  have e := congrArg (State.flow · j) (s.violation_portsOnly cause port pkg inst addr).rest
  exact e
@[simp] theorem State.violation_site (cause port pkg inst addr : Nat) (j : Nat) : (s.violation cause port pkg inst addr).site j = s.site j := by
  have e := congrArg (State.site · j) (s.violation_portsOnly cause port pkg inst addr).rest
  exact e
@[simp] theorem State.violation_flag (cause port pkg inst addr : Nat) (j : Nat) : (s.violation cause port pkg inst addr).flag j = s.flag j := by
  have e := congrArg (State.flag · j) (s.violation_portsOnly cause port pkg inst addr).rest
  exact e
@[simp] theorem State.violation_inForce (cause port pkg inst addr : Nat) (j : Nat) : (s.violation cause port pkg inst addr).inForce j = s.inForce j := by
  have e := congrArg (State.inForce · j) (s.violation_portsOnly cause port pkg inst addr).rest
  exact e
@[simp] theorem State.violation_fencedAt (cause port pkg inst addr : Nat) (j : Nat) : (s.violation cause port pkg inst addr).fencedAt j = s.fencedAt j := by
  have e := congrArg (State.fencedAt · j) (s.violation_portsOnly cause port pkg inst addr).rest
  exact e

@[simp] theorem State.store_fld (a : Nat) (l : List Byte) (j : Nat) (g : Fld) : (s.store a l).fld j g = s.fld j g := by
  have e := congrArg (State.fld · j g) (s.store_sansMem a l)
  exact e
@[simp] theorem State.store_bit (a : Nat) (l : List Byte) (j : Nat) (g : Fld) : (s.store a l).bit j g = s.bit j g := by
  have e := congrArg (State.bit · j g) (s.store_sansMem a l)
  exact e

theorem State.event_reg (code src unit arg value a : Nat) (h : a < hubBlk 4 ∨ hubBlk 5 ≤ a) :
    (s.event code src unit arg value).reg a = s.reg a := (s.event_portsOnly code src unit arg value).regs a h

theorem State.violation_reg (cause port pkg inst addr a : Nat) (h : a < hubBlk 4 ∨ hubBlk 5 ≤ a) :
    (s.violation cause port pkg inst addr).reg a = s.reg a := (s.violation_portsOnly cause port pkg inst addr).regs a h

theorem State.event_fld (code src unit arg value a : Nat) (f : Fld) (h : a < hubBlk 4 ∨ hubBlk 5 ≤ a) :
    (s.event code src unit arg value).fld a f = s.fld a f := by unfold State.fld; rw [State.event_reg _ _ _ _ _ _ _ h]

theorem State.event_bit (code src unit arg value a : Nat) (f : Fld) (h : a < hubBlk 4 ∨ hubBlk 5 ≤ a) :
    (s.event code src unit arg value).bit a f = s.bit a f := by unfold State.bit; rw [State.event_fld _ _ _ _ _ _ _ _ h]

theorem State.violation_fld (cause port pkg inst addr a : Nat) (f : Fld) (h : a < hubBlk 4 ∨ hubBlk 5 ≤ a) :
    (s.violation cause port pkg inst addr).fld a f = s.fld a f := by unfold State.fld; rw [State.violation_reg _ _ _ _ _ _ _ h]

theorem State.violation_bit (cause port pkg inst addr a : Nat) (f : Fld) (h : a < hubBlk 4 ∨ hubBlk 5 ≤ a) :
    (s.violation cause port pkg inst addr).bit a f = s.bit a f := by unfold State.bit; rw [State.violation_fld _ _ _ _ _ _ _ _ h]

end

end Sys2Proof.Machine
end

