-- ==== Sys2Proof/Laws/Flags.lean ====
section
/-! SUPPORT. What a flag change does to the flags. -/

namespace Sys2Proof.Machine

theorem State.waitCheckAt_flag (s : State) (e g k : Nat) : (s.waitCheckAt e g).flag k = s.flag k := by
  delta State.waitCheckAt
  split
  · dsimp only
    split
    · rw [State.setEng_flag]
    · rw [State.setBit_flag, State.setEng_flag]
  · rfl

theorem State.unwait_flag (s : State) (e g k : Nat) : (s.unwait e g).flag k = s.flag k := by
  delta State.unwait
  dsimp only
  split
  · rw [State.setBit_flag, State.setEng_flag]
  · rfl

theorem State.recheck_flag (s : State) (key g e k : Nat) : (s.recheck key g e).flag k = s.flag k := by
  unfold State.recheck
  dsimp only
  repeat' split
  all_goals first
    | rfl
    | exact State.waitCheckAt_flag _ _ _ _
    | exact (State.unwait_flag _ _ _ _).trans (State.waitCheckAt_flag _ _ _ _)

theorem State.rechecks_flag (l : List Nat) (s : State) (key g k : Nat) :
    (l.foldl (fun u e => u.recheck key g e) s).flag k = s.flag k := by
  induction l generalizing s with
  | nil => rfl
  | cons e l ih => exact (ih _).trans (State.recheck_flag s key g e k)

/-- Setting a flag sets it and no other. -/
theorem State.flagSetAt_flag (s : State) (key g src k : Nat) :
    (s.flagSetAt key g src).flag k = if k = key then true else s.flag k := by
  unfold State.flagSetAt
  dsimp only
  rw [State.rechecks_flag]
  show (s.setFlag key true).flag k = _
  by_cases h : k = key
  · subst h; rw [if_pos rfl]; exact State.setFlag_flag s k true
  · rw [if_neg h]; exact State.setFlag_flag_ne s key true k h

/-- Clearing a flag clears it, unless another source set it at that grain, and clears no other (R200). -/
theorem State.flagClrAt_flag (s : State) (key g src k : Nat) :
    (s.flagClrAt key g src).flag k =
      if k = key then
        (let old := tget (fun _ => ((0, 0) : Nat × Nat)) s.flagSets key
         if old.1 = g + 1 ∧ old.2 ≠ src + 1 then s.flag k else false)
      else s.flag k := by
  unfold State.flagClrAt
  dsimp only
  split
  · split <;> rfl
  · rw [State.rechecks_flag]
    split
    · next h => subst h; exact State.setFlag_flag s k false
    · next h => exact State.setFlag_flag_ne s key false k h

theorem State.setBit_flagSets (s : State) (a : Nat) (f : Fld) (b : Bool) : (s.setBit a f b).flagSets = s.flagSets := rfl

theorem State.setEng_flagSets (s : State) (e : Nat) (x : EngSt) : (s.setEng e x).flagSets = s.flagSets := rfl

theorem State.waitCheckAt_flagSets (s : State) (e g : Nat) : (s.waitCheckAt e g).flagSets = s.flagSets := by
  delta State.waitCheckAt
  split
  · dsimp only
    split
    · rw [State.setEng_flagSets]
    · rw [State.setBit_flagSets, State.setEng_flagSets]
  · rfl

theorem State.unwait_flagSets (s : State) (e g : Nat) : (s.unwait e g).flagSets = s.flagSets := by
  delta State.unwait
  dsimp only
  split
  · rw [State.setBit_flagSets, State.setEng_flagSets]
  · rfl

theorem State.recheck_flagSets (s : State) (key g e : Nat) : (s.recheck key g e).flagSets = s.flagSets := by
  unfold State.recheck
  dsimp only
  repeat' split
  all_goals first
    | rfl
    | exact State.waitCheckAt_flagSets _ _ _
    | exact (State.unwait_flagSets _ _ _).trans (State.waitCheckAt_flagSets _ _ _)

theorem State.rechecks_flagSets (l : List Nat) (s : State) (key g : Nat) :
    (l.foldl (fun u e => u.recheck key g e) s).flagSets = s.flagSets := by
  induction l generalizing s with
  | nil => rfl
  | cons e l ih => exact (ih _).trans (State.recheck_flagSets s key g e)

theorem State.flagClrAt_flagSets (s : State) (key g src : Nat) : (s.flagClrAt key g src).flagSets = s.flagSets := by
  unfold State.flagClrAt
  dsimp only
  split
  · rfl
  · rw [State.rechecks_flagSets]; rfl

/-- A change of a flag of another level than the system's is made at once. -/
theorem State.flagChange_flag_low (s : State) (key g src : Nat) (set : Bool) (h : key < 3000) :
    s.flagChange key g src set = if set then s.flagSetAt key g src else s.flagClrAt key g src := by
  unfold State.flagChange
  rw [if_neg (by omega)]

/-- A change of a system flag changes no flag yet (R200). -/
theorem State.flagChange_flag_sys (s : State) (key g src k : Nat) (set : Bool) (h : 3000 ≤ key) :
    (s.flagChange key g src set).flag k = s.flag k := by
  unfold State.flagChange
  rw [if_pos h]
  dsimp only
  split <;> rfl

end Sys2Proof.Machine
end

