-- ==== Sys2Proof/Laws/Runs.lean ====
section
/-! SUPPORT. What ending runs and holding pins leave as it was. -/

namespace Sys2Proof.Machine

/-- Ending a run touches the list of runs only. -/
theorem State.endRun_runsOnly (s : State) (e code : Nat) (g : Option Nat) : ∃ r, s.endRun e code g = { s with runs := r } := by
  unfold State.endRun
  split
  · exact ⟨_, rfl⟩
  · exact ⟨_, rfl⟩

/-- Ending many runs touches the list of runs only. -/
theorem State.endRunsIf_runsOnly (s : State) (code : Nat) (g : Option Nat) (test : Run → Bool) :
    ∃ r, s.endRunsIf code g test = { s with runs := r } := by
  unfold State.endRunsIf
  generalize s.runs.filter test = l
  induction l generalizing s with
  | nil => exact ⟨_, rfl⟩
  | cons x l ih =>
    obtain ⟨r, hr⟩ := State.endRun_runsOnly s x.lowest code g
    obtain ⟨q, hq⟩ := ih (s.endRun x.lowest code g)
    exact ⟨q, by rw [List.foldl_cons, hq, hr]⟩

theorem PinSt.hold_held (g : Nat) (x : PinSt) : (PinSt.hold g x).held = true := by
  unfold PinSt.hold
  split
  · assumption
  · rfl

/-- The safe state of pins touches the pins only. -/
theorem State.safeHolds_pinsOnly (g : Nat) (l : List Nat) (s : State) :
    ∃ p, l.foldl (fun t p => t.safeHold p g) s = { s with pins := p } := by
  induction l generalizing s with
  | nil => exact ⟨_, rfl⟩
  | cons x l ih =>
    obtain ⟨q, hq⟩ := ih (s.safeHold x g)
    exact ⟨q, by rw [List.foldl_cons, hq]; rfl⟩

theorem State.safeHold_held (s : State) (p g : Nat) : ((s.safeHold p g).pin p).held = true := by
  unfold State.safeHold
  rw [State.updPin_pin]
  exact PinSt.hold_held _ _

/-- Pins stay held while others are held. -/
theorem State.safeHolds_stay (g : Nat) (l : List Nat) (s : State) (p : Nat) (h : (s.pin p).held = true) :
    ((l.foldl (fun t p => t.safeHold p g) s).pin p).held = true := by
  induction l generalizing s with
  | nil => exact h
  | cons x l ih =>
    refine ih _ ?_
    by_cases e : p = x
    · subst e; exact State.safeHold_held s p g
    · unfold State.safeHold
      rw [State.updPin_pin_ne _ _ _ _ e]; exact h

/-- Every pin of the list is held. -/
theorem State.safeHolds_held (g : Nat) (l : List Nat) (s : State) (p : Nat) (h : p ∈ l) :
    ((l.foldl (fun t p => t.safeHold p g) s).pin p).held = true := by
  induction l generalizing s with
  | nil => cases h
  | cons x l ih =>
    rcases List.mem_cons.1 h with rfl | h
    · exact State.safeHolds_stay g l _ _ (State.safeHold_held s p g)
    · exact ih _ h

/-- Every pin of the package is held (R44). -/
theorem State.holdAll_held (s : State) (p : Nat) (h : p < 1024) : (s.holdAll.pin p).held = true :=
  State.safeHolds_held s.gt _ s p (List.mem_range.2 h)

theorem State.holdAll_pinsOnly (s : State) : ∃ p, s.holdAll = { s with pins := p } := State.safeHolds_pinsOnly _ _ s

end Sys2Proof.Machine
end

