-- ==== Sys2Proof/Laws/Frame.lean ====
section
/-! SUPPORT. Of each operation on the state, what it can touch: everything else is as it was. -/

namespace Sys2Proof.Machine

variable (s : State)

theorem State.setPin_frame (p : Nat) (x : PinSt) : ∃ t1, s.setPin p x = { s with pins := t1 } := ⟨_, rfl⟩
theorem State.updPin_frame (p : Nat) (f : PinSt → PinSt) : ∃ t1, s.updPin p f = { s with pins := t1 } := ⟨_, rfl⟩
theorem State.setCl_frame (c : Nat) (x : ClSt) : ∃ t1, s.setCl c x = { s with clusters := t1 } := ⟨_, rfl⟩
theorem State.updCl_frame (c : Nat) (f : ClSt → ClSt) : ∃ t1, s.updCl c f = { s with clusters := t1 } := ⟨_, rfl⟩
theorem State.setEng_frame (e : Nat) (x : EngSt) : ∃ t1, s.setEng e x = { s with engines := t1 } := ⟨_, rfl⟩
theorem State.updEng_frame (e : Nat) (f : EngSt → EngSt) : ∃ t1, s.updEng e f = { s with engines := t1 } := ⟨_, rfl⟩
theorem State.setDig_frame (d : Nat) (x : DigSt) : ∃ t1, s.setDig d x = { s with digs := t1 } := ⟨_, rfl⟩
theorem State.updDig_frame (d : Nat) (f : DigSt → DigSt) : ∃ t1, s.updDig d f = { s with digs := t1 } := ⟨_, rfl⟩
theorem State.setRg_frame (r : Nat) (x : RgSt) : ∃ t1, s.setRg r x = { s with regions := t1 } := ⟨_, rfl⟩
theorem State.updRg_frame (r : Nat) (f : RgSt → RgSt) : ∃ t1, s.updRg r f = { s with regions := t1 } := ⟨_, rfl⟩
theorem State.updHub_frame (f : HubSt → HubSt) : ∃ t1, s.updHub f = { s with hub := t1 } := ⟨_, rfl⟩
theorem State.updBoot_frame (f : BootSt → BootSt) : ∃ t1, s.updBoot f = { s with boot := t1 } := ⟨_, rfl⟩
theorem State.updVyn_frame (f : VynSt → VynSt) : ∃ t1, s.updVyn f = { s with vyn := t1 } := ⟨_, rfl⟩
theorem State.setChan_frame (n : Nat) (x : ChanSt) : ∃ t1, s.setChan n x = { s with chans := t1 } := ⟨_, rfl⟩
theorem State.setRing_frame (n : Nat) (x : RingSt) : ∃ t1, s.setRing n x = { s with rings := t1 } := ⟨_, rfl⟩
theorem State.updRing_frame (n : Nat) (f : RingSt → RingSt) : ∃ t1, s.updRing n f = { s with rings := t1 } := ⟨_, rfl⟩
theorem State.setFlow_frame (n : Nat) (x : FlowSt) : ∃ t1, s.setFlow n x = { s with flows := t1 } := ⟨_, rfl⟩
theorem State.updFlow_frame (n : Nat) (f : FlowSt → FlowSt) : ∃ t1, s.updFlow n f = { s with flows := t1 } := ⟨_, rfl⟩
theorem State.setSite_frame (k : Nat) (x : SiteSt) : ∃ t1, s.setSite k x = { s with sites := t1 } := ⟨_, rfl⟩
theorem State.updSite_frame (k : Nat) (f : SiteSt → SiteSt) : ∃ t1, s.updSite k f = { s with sites := t1 } := ⟨_, rfl⟩
theorem State.setPort_frame (n : Nat) (x : PortSt) : ∃ t1, s.setPort n x = { s with ports := t1 } := ⟨_, rfl⟩
theorem State.setFlag_frame (k : Nat) (b : Bool) : ∃ t1, s.setFlag k b = { s with flags := t1 } := ⟨_, rfl⟩
theorem State.updRun_frame (i : Nat) (f : Run → Run) : ∃ t1, s.updRun i f = { s with runs := t1 } := ⟨_, rfl⟩
theorem State.setReg_frame (a : Nat) (w : Word) : ∃ t1, s.setReg a w = { s with regs := t1 } := ⟨_, rfl⟩
theorem State.setFld_frame (a : Nat) (f : Fld) (v : Nat) : ∃ t1, s.setFld a f v = { s with regs := t1 } := ⟨_, rfl⟩
theorem State.setBit_frame (a : Nat) (f : Fld) (b : Bool) : ∃ t1, s.setBit a f b = { s with regs := t1 } := ⟨_, rfl⟩
theorem State.countSat_frame (a : Nat) (f : Fld) (k : Nat) : ∃ t1, s.countSat a f k = { s with regs := t1 } := ⟨_, rfl⟩
theorem State.orBit_frame (a : Nat) (f : Fld) (u : Nat) : ∃ t1, s.orBit a f u = { s with regs := t1 } := ⟨_, rfl⟩
theorem State.setPair_frame (lo hi v : Nat) : ∃ t1, s.setPair lo hi v = { s with regs := t1 } := ⟨_, rfl⟩
theorem State.setForce_frame (a : Nat) (w : Word) : ∃ t1, s.setForce a w = { s with force := t1 } := ⟨_, rfl⟩
theorem State.setBoth_frame (a : Nat) (w : Word) : ∃ t1 t2, s.setBoth a w = { s with regs := t1, force := t2 } := ⟨_, _, rfl⟩
theorem State.sendPin_frame (a : Nat) (w : Word) : ∃ t1, s.sendPin a w = { s with inFlight := t1 } := ⟨_, rfl⟩
theorem State.at_frame (g : Nat) : ∃ t1, s.at g = { s with gt := t1 } := ⟨_, rfl⟩
theorem State.useFree_frame : ∃ t1, s.useFree = { s with free := t1 } := ⟨_, rfl⟩
theorem State.send_frame (o : Output) : ∃ t1, s.send o = { s with outs := t1 } := ⟨_, rfl⟩
theorem State.setCoding_frame (c : Nat) (x : Option Delta4) : ∃ t1, s.setCoding c x = { s with codings := t1 } := ⟨_, rfl⟩
theorem State.setPoison_frame (a : Nat) (b : Bool) : ∃ t1, s.setPoison a b = { s with poison := t1 } := ⟨_, rfl⟩
theorem State.setCline_frame (l : Nat) (x : CacheLine) : ∃ t1, s.setCline l x = { s with cache := t1 } := ⟨_, rfl⟩
theorem State.setDir_frame (l : Nat) (x : DirEntry) : ∃ t1, s.setDir l x = { s with dir := t1 } := ⟨_, rfl⟩

theorem State.holdPin_frame (p g : Nat) : ∃ x, s.holdPin p g = { s with pins := x } := ⟨_, rfl⟩
theorem State.safeHold_frame (p g : Nat) : ∃ x, s.safeHold p g = { s with pins := x } := ⟨_, rfl⟩
theorem State.holdAll_frame : ∃ x, s.holdAll = { s with pins := x } := s.holdAll_pinsOnly
theorem State.endRun_frame (e code : Nat) (g : Option Nat) : ∃ x, s.endRun e code g = { s with runs := x } := s.endRun_runsOnly e code g
theorem State.endRunsIf_frame (code : Nat) (g : Option Nat) (test : Run → Bool) :
    ∃ x, s.endRunsIf code g test = { s with runs := x } := s.endRunsIf_runsOnly code g test

@[simp] theorem State.holdPin_pending (p j : Nat) : (s.holdPin p j).pending = s.pending := by
  obtain ⟨_, e⟩ := s.holdPin_frame p j; rw [e]
@[simp] theorem State.holdPin_gt (p j : Nat) : (s.holdPin p j).gt = s.gt := by
  obtain ⟨_, e⟩ := s.holdPin_frame p j; rw [e]
@[simp] theorem State.holdPin_inFlight (p j : Nat) : (s.holdPin p j).inFlight = s.inFlight := by
  obtain ⟨_, e⟩ := s.holdPin_frame p j; rw [e]
@[simp] theorem State.holdPin_free (p j : Nat) : (s.holdPin p j).free = s.free := by
  obtain ⟨_, e⟩ := s.holdPin_frame p j; rw [e]
@[simp] theorem State.holdPin_outs (p j : Nat) : (s.holdPin p j).outs = s.outs := by
  obtain ⟨_, e⟩ := s.holdPin_frame p j; rw [e]
@[simp] theorem State.holdPin_runs (p j : Nat) : (s.holdPin p j).runs = s.runs := by
  obtain ⟨_, e⟩ := s.holdPin_frame p j; rw [e]
@[simp] theorem State.holdPin_hub (p j : Nat) : (s.holdPin p j).hub = s.hub := by
  obtain ⟨_, e⟩ := s.holdPin_frame p j; rw [e]
@[simp] theorem State.holdPin_boot (p j : Nat) : (s.holdPin p j).boot = s.boot := by
  obtain ⟨_, e⟩ := s.holdPin_frame p j; rw [e]
@[simp] theorem State.holdPin_vyn (p j : Nat) : (s.holdPin p j).vyn = s.vyn := by
  obtain ⟨_, e⟩ := s.holdPin_frame p j; rw [e]
@[simp] theorem State.holdPin_bench (p j : Nat) : (s.holdPin p j).bench = s.bench := by
  obtain ⟨_, e⟩ := s.holdPin_frame p j; rw [e]
@[simp] theorem State.holdPin_flash (p j : Nat) : (s.holdPin p j).flash = s.flash := by
  obtain ⟨_, e⟩ := s.holdPin_frame p j; rw [e]
@[simp] theorem State.holdPin_fuses (p j : Nat) : (s.holdPin p j).fuses = s.fuses := by
  obtain ⟨_, e⟩ := s.holdPin_frame p j; rw [e]
@[simp] theorem State.holdPin_mem (p j : Nat) : (s.holdPin p j).mem = s.mem := by
  obtain ⟨_, e⟩ := s.holdPin_frame p j; rw [e]
@[simp] theorem State.holdPin_cl (p j : Nat) (k : Nat) : (s.holdPin p j).cl k = s.cl k := by
  obtain ⟨_, e⟩ := s.holdPin_frame p j; rw [e]; rfl
@[simp] theorem State.holdPin_eng (p j : Nat) (k : Nat) : (s.holdPin p j).eng k = s.eng k := by
  obtain ⟨_, e⟩ := s.holdPin_frame p j; rw [e]; rfl
@[simp] theorem State.holdPin_dig (p j : Nat) (k : Nat) : (s.holdPin p j).dig k = s.dig k := by
  obtain ⟨_, e⟩ := s.holdPin_frame p j; rw [e]; rfl
@[simp] theorem State.holdPin_rg (p j : Nat) (k : Nat) : (s.holdPin p j).rg k = s.rg k := by
  obtain ⟨_, e⟩ := s.holdPin_frame p j; rw [e]; rfl
@[simp] theorem State.holdPin_chan (p j : Nat) (k : Nat) : (s.holdPin p j).chan k = s.chan k := by
  obtain ⟨_, e⟩ := s.holdPin_frame p j; rw [e]; rfl
@[simp] theorem State.holdPin_ring (p j : Nat) (k : Nat) : (s.holdPin p j).ring k = s.ring k := by
  obtain ⟨_, e⟩ := s.holdPin_frame p j; rw [e]; rfl
@[simp] theorem State.holdPin_flow (p j : Nat) (k : Nat) : (s.holdPin p j).flow k = s.flow k := by
  obtain ⟨_, e⟩ := s.holdPin_frame p j; rw [e]; rfl
@[simp] theorem State.holdPin_site (p j : Nat) (k : Nat) : (s.holdPin p j).site k = s.site k := by
  obtain ⟨_, e⟩ := s.holdPin_frame p j; rw [e]; rfl
@[simp] theorem State.holdPin_port (p j : Nat) (k : Nat) : (s.holdPin p j).port k = s.port k := by
  obtain ⟨_, e⟩ := s.holdPin_frame p j; rw [e]; rfl
@[simp] theorem State.holdPin_flag (p j : Nat) (k : Nat) : (s.holdPin p j).flag k = s.flag k := by
  obtain ⟨_, e⟩ := s.holdPin_frame p j; rw [e]; rfl
@[simp] theorem State.holdPin_reg (p j : Nat) (k : Nat) : (s.holdPin p j).reg k = s.reg k := by
  obtain ⟨_, e⟩ := s.holdPin_frame p j; rw [e]; rfl
@[simp] theorem State.holdPin_fld (p j : Nat) (k : Nat) (g : Fld) : (s.holdPin p j).fld k g = s.fld k g := by
  obtain ⟨_, e⟩ := s.holdPin_frame p j; rw [e]; rfl
@[simp] theorem State.holdPin_bit (p j : Nat) (k : Nat) (g : Fld) : (s.holdPin p j).bit k g = s.bit k g := by
  obtain ⟨_, e⟩ := s.holdPin_frame p j; rw [e]; rfl
@[simp] theorem State.holdPin_inForce (p j : Nat) (k : Nat) : (s.holdPin p j).inForce k = s.inForce k := by
  obtain ⟨_, e⟩ := s.holdPin_frame p j; rw [e]; rfl
@[simp] theorem State.holdPin_poisoned (p j : Nat) (k : Nat) : (s.holdPin p j).poisoned k = s.poisoned k := by
  obtain ⟨_, e⟩ := s.holdPin_frame p j; rw [e]; rfl
@[simp] theorem State.holdPin_cline (p j : Nat) (k : Nat) : (s.holdPin p j).cline k = s.cline k := by
  obtain ⟨_, e⟩ := s.holdPin_frame p j; rw [e]; rfl
@[simp] theorem State.holdPin_dirOf (p j : Nat) (k : Nat) : (s.holdPin p j).dirOf k = s.dirOf k := by
  obtain ⟨_, e⟩ := s.holdPin_frame p j; rw [e]; rfl
@[simp] theorem State.holdPin_coding (p j : Nat) (k : Nat) : (s.holdPin p j).coding k = s.coding k := by
  obtain ⟨_, e⟩ := s.holdPin_frame p j; rw [e]; rfl
@[simp] theorem State.holdPin_fencedAt (p j : Nat) (k : Nat) : (s.holdPin p j).fencedAt k = s.fencedAt k := by
  obtain ⟨_, e⟩ := s.holdPin_frame p j; rw [e]; rfl
@[simp] theorem State.holdPin_writeBarred (p j : Nat) (k : Nat) : (s.holdPin p j).writeBarred k = s.writeBarred k := by
  obtain ⟨_, e⟩ := s.holdPin_frame p j; rw [e]; rfl
@[simp] theorem State.safeHold_pending (p j : Nat) : (s.safeHold p j).pending = s.pending := by
  obtain ⟨_, e⟩ := s.safeHold_frame p j; rw [e]
@[simp] theorem State.safeHold_gt (p j : Nat) : (s.safeHold p j).gt = s.gt := by
  obtain ⟨_, e⟩ := s.safeHold_frame p j; rw [e]
@[simp] theorem State.safeHold_inFlight (p j : Nat) : (s.safeHold p j).inFlight = s.inFlight := by
  obtain ⟨_, e⟩ := s.safeHold_frame p j; rw [e]
@[simp] theorem State.safeHold_free (p j : Nat) : (s.safeHold p j).free = s.free := by
  obtain ⟨_, e⟩ := s.safeHold_frame p j; rw [e]
@[simp] theorem State.safeHold_outs (p j : Nat) : (s.safeHold p j).outs = s.outs := by
  obtain ⟨_, e⟩ := s.safeHold_frame p j; rw [e]
@[simp] theorem State.safeHold_runs (p j : Nat) : (s.safeHold p j).runs = s.runs := by
  obtain ⟨_, e⟩ := s.safeHold_frame p j; rw [e]
@[simp] theorem State.safeHold_hub (p j : Nat) : (s.safeHold p j).hub = s.hub := by
  obtain ⟨_, e⟩ := s.safeHold_frame p j; rw [e]
@[simp] theorem State.safeHold_boot (p j : Nat) : (s.safeHold p j).boot = s.boot := by
  obtain ⟨_, e⟩ := s.safeHold_frame p j; rw [e]
@[simp] theorem State.safeHold_vyn (p j : Nat) : (s.safeHold p j).vyn = s.vyn := by
  obtain ⟨_, e⟩ := s.safeHold_frame p j; rw [e]
@[simp] theorem State.safeHold_bench (p j : Nat) : (s.safeHold p j).bench = s.bench := by
  obtain ⟨_, e⟩ := s.safeHold_frame p j; rw [e]
@[simp] theorem State.safeHold_flash (p j : Nat) : (s.safeHold p j).flash = s.flash := by
  obtain ⟨_, e⟩ := s.safeHold_frame p j; rw [e]
@[simp] theorem State.safeHold_fuses (p j : Nat) : (s.safeHold p j).fuses = s.fuses := by
  obtain ⟨_, e⟩ := s.safeHold_frame p j; rw [e]
@[simp] theorem State.safeHold_mem (p j : Nat) : (s.safeHold p j).mem = s.mem := by
  obtain ⟨_, e⟩ := s.safeHold_frame p j; rw [e]
@[simp] theorem State.safeHold_cl (p j : Nat) (k : Nat) : (s.safeHold p j).cl k = s.cl k := by
  obtain ⟨_, e⟩ := s.safeHold_frame p j; rw [e]; rfl
@[simp] theorem State.safeHold_eng (p j : Nat) (k : Nat) : (s.safeHold p j).eng k = s.eng k := by
  obtain ⟨_, e⟩ := s.safeHold_frame p j; rw [e]; rfl
@[simp] theorem State.safeHold_dig (p j : Nat) (k : Nat) : (s.safeHold p j).dig k = s.dig k := by
  obtain ⟨_, e⟩ := s.safeHold_frame p j; rw [e]; rfl
@[simp] theorem State.safeHold_rg (p j : Nat) (k : Nat) : (s.safeHold p j).rg k = s.rg k := by
  obtain ⟨_, e⟩ := s.safeHold_frame p j; rw [e]; rfl
@[simp] theorem State.safeHold_chan (p j : Nat) (k : Nat) : (s.safeHold p j).chan k = s.chan k := by
  obtain ⟨_, e⟩ := s.safeHold_frame p j; rw [e]; rfl
@[simp] theorem State.safeHold_ring (p j : Nat) (k : Nat) : (s.safeHold p j).ring k = s.ring k := by
  obtain ⟨_, e⟩ := s.safeHold_frame p j; rw [e]; rfl
@[simp] theorem State.safeHold_flow (p j : Nat) (k : Nat) : (s.safeHold p j).flow k = s.flow k := by
  obtain ⟨_, e⟩ := s.safeHold_frame p j; rw [e]; rfl
@[simp] theorem State.safeHold_site (p j : Nat) (k : Nat) : (s.safeHold p j).site k = s.site k := by
  obtain ⟨_, e⟩ := s.safeHold_frame p j; rw [e]; rfl
@[simp] theorem State.safeHold_port (p j : Nat) (k : Nat) : (s.safeHold p j).port k = s.port k := by
  obtain ⟨_, e⟩ := s.safeHold_frame p j; rw [e]; rfl
@[simp] theorem State.safeHold_flag (p j : Nat) (k : Nat) : (s.safeHold p j).flag k = s.flag k := by
  obtain ⟨_, e⟩ := s.safeHold_frame p j; rw [e]; rfl
@[simp] theorem State.safeHold_reg (p j : Nat) (k : Nat) : (s.safeHold p j).reg k = s.reg k := by
  obtain ⟨_, e⟩ := s.safeHold_frame p j; rw [e]; rfl
@[simp] theorem State.safeHold_fld (p j : Nat) (k : Nat) (g : Fld) : (s.safeHold p j).fld k g = s.fld k g := by
  obtain ⟨_, e⟩ := s.safeHold_frame p j; rw [e]; rfl
@[simp] theorem State.safeHold_bit (p j : Nat) (k : Nat) (g : Fld) : (s.safeHold p j).bit k g = s.bit k g := by
  obtain ⟨_, e⟩ := s.safeHold_frame p j; rw [e]; rfl
@[simp] theorem State.safeHold_inForce (p j : Nat) (k : Nat) : (s.safeHold p j).inForce k = s.inForce k := by
  obtain ⟨_, e⟩ := s.safeHold_frame p j; rw [e]; rfl
@[simp] theorem State.safeHold_poisoned (p j : Nat) (k : Nat) : (s.safeHold p j).poisoned k = s.poisoned k := by
  obtain ⟨_, e⟩ := s.safeHold_frame p j; rw [e]; rfl
@[simp] theorem State.safeHold_cline (p j : Nat) (k : Nat) : (s.safeHold p j).cline k = s.cline k := by
  obtain ⟨_, e⟩ := s.safeHold_frame p j; rw [e]; rfl
@[simp] theorem State.safeHold_dirOf (p j : Nat) (k : Nat) : (s.safeHold p j).dirOf k = s.dirOf k := by
  obtain ⟨_, e⟩ := s.safeHold_frame p j; rw [e]; rfl
@[simp] theorem State.safeHold_coding (p j : Nat) (k : Nat) : (s.safeHold p j).coding k = s.coding k := by
  obtain ⟨_, e⟩ := s.safeHold_frame p j; rw [e]; rfl
@[simp] theorem State.safeHold_fencedAt (p j : Nat) (k : Nat) : (s.safeHold p j).fencedAt k = s.fencedAt k := by
  obtain ⟨_, e⟩ := s.safeHold_frame p j; rw [e]; rfl
@[simp] theorem State.safeHold_writeBarred (p j : Nat) (k : Nat) : (s.safeHold p j).writeBarred k = s.writeBarred k := by
  obtain ⟨_, e⟩ := s.safeHold_frame p j; rw [e]; rfl
@[simp] theorem State.holdAll_pending : (s.holdAll).pending = s.pending := by
  obtain ⟨_, e⟩ := s.holdAll_frame; rw [e]
@[simp] theorem State.holdAll_gt : (s.holdAll).gt = s.gt := by
  obtain ⟨_, e⟩ := s.holdAll_frame; rw [e]
@[simp] theorem State.holdAll_inFlight : (s.holdAll).inFlight = s.inFlight := by
  obtain ⟨_, e⟩ := s.holdAll_frame; rw [e]
@[simp] theorem State.holdAll_free : (s.holdAll).free = s.free := by
  obtain ⟨_, e⟩ := s.holdAll_frame; rw [e]
@[simp] theorem State.holdAll_outs : (s.holdAll).outs = s.outs := by
  obtain ⟨_, e⟩ := s.holdAll_frame; rw [e]
@[simp] theorem State.holdAll_runs : (s.holdAll).runs = s.runs := by
  obtain ⟨_, e⟩ := s.holdAll_frame; rw [e]
@[simp] theorem State.holdAll_hub : (s.holdAll).hub = s.hub := by
  obtain ⟨_, e⟩ := s.holdAll_frame; rw [e]
@[simp] theorem State.holdAll_boot : (s.holdAll).boot = s.boot := by
  obtain ⟨_, e⟩ := s.holdAll_frame; rw [e]
@[simp] theorem State.holdAll_vyn : (s.holdAll).vyn = s.vyn := by
  obtain ⟨_, e⟩ := s.holdAll_frame; rw [e]
@[simp] theorem State.holdAll_bench : (s.holdAll).bench = s.bench := by
  obtain ⟨_, e⟩ := s.holdAll_frame; rw [e]
@[simp] theorem State.holdAll_flash : (s.holdAll).flash = s.flash := by
  obtain ⟨_, e⟩ := s.holdAll_frame; rw [e]
@[simp] theorem State.holdAll_fuses : (s.holdAll).fuses = s.fuses := by
  obtain ⟨_, e⟩ := s.holdAll_frame; rw [e]
@[simp] theorem State.holdAll_mem : (s.holdAll).mem = s.mem := by
  obtain ⟨_, e⟩ := s.holdAll_frame; rw [e]
@[simp] theorem State.holdAll_cl (k : Nat) : (s.holdAll).cl k = s.cl k := by
  obtain ⟨_, e⟩ := s.holdAll_frame ; rw [e]; rfl
@[simp] theorem State.holdAll_eng (k : Nat) : (s.holdAll).eng k = s.eng k := by
  obtain ⟨_, e⟩ := s.holdAll_frame ; rw [e]; rfl
@[simp] theorem State.holdAll_dig (k : Nat) : (s.holdAll).dig k = s.dig k := by
  obtain ⟨_, e⟩ := s.holdAll_frame ; rw [e]; rfl
@[simp] theorem State.holdAll_rg (k : Nat) : (s.holdAll).rg k = s.rg k := by
  obtain ⟨_, e⟩ := s.holdAll_frame ; rw [e]; rfl
@[simp] theorem State.holdAll_chan (k : Nat) : (s.holdAll).chan k = s.chan k := by
  obtain ⟨_, e⟩ := s.holdAll_frame ; rw [e]; rfl
@[simp] theorem State.holdAll_ring (k : Nat) : (s.holdAll).ring k = s.ring k := by
  obtain ⟨_, e⟩ := s.holdAll_frame ; rw [e]; rfl
@[simp] theorem State.holdAll_flow (k : Nat) : (s.holdAll).flow k = s.flow k := by
  obtain ⟨_, e⟩ := s.holdAll_frame ; rw [e]; rfl
@[simp] theorem State.holdAll_site (k : Nat) : (s.holdAll).site k = s.site k := by
  obtain ⟨_, e⟩ := s.holdAll_frame ; rw [e]; rfl
@[simp] theorem State.holdAll_port (k : Nat) : (s.holdAll).port k = s.port k := by
  obtain ⟨_, e⟩ := s.holdAll_frame ; rw [e]; rfl
@[simp] theorem State.holdAll_flag (k : Nat) : (s.holdAll).flag k = s.flag k := by
  obtain ⟨_, e⟩ := s.holdAll_frame ; rw [e]; rfl
@[simp] theorem State.holdAll_reg (k : Nat) : (s.holdAll).reg k = s.reg k := by
  obtain ⟨_, e⟩ := s.holdAll_frame ; rw [e]; rfl
@[simp] theorem State.holdAll_fld (k : Nat) (g : Fld) : (s.holdAll).fld k g = s.fld k g := by
  obtain ⟨_, e⟩ := s.holdAll_frame ; rw [e]; rfl
@[simp] theorem State.holdAll_bit (k : Nat) (g : Fld) : (s.holdAll).bit k g = s.bit k g := by
  obtain ⟨_, e⟩ := s.holdAll_frame ; rw [e]; rfl
@[simp] theorem State.holdAll_inForce (k : Nat) : (s.holdAll).inForce k = s.inForce k := by
  obtain ⟨_, e⟩ := s.holdAll_frame ; rw [e]; rfl
@[simp] theorem State.holdAll_poisoned (k : Nat) : (s.holdAll).poisoned k = s.poisoned k := by
  obtain ⟨_, e⟩ := s.holdAll_frame ; rw [e]; rfl
@[simp] theorem State.holdAll_cline (k : Nat) : (s.holdAll).cline k = s.cline k := by
  obtain ⟨_, e⟩ := s.holdAll_frame ; rw [e]; rfl
@[simp] theorem State.holdAll_dirOf (k : Nat) : (s.holdAll).dirOf k = s.dirOf k := by
  obtain ⟨_, e⟩ := s.holdAll_frame ; rw [e]; rfl
@[simp] theorem State.holdAll_coding (k : Nat) : (s.holdAll).coding k = s.coding k := by
  obtain ⟨_, e⟩ := s.holdAll_frame ; rw [e]; rfl
@[simp] theorem State.holdAll_fencedAt (k : Nat) : (s.holdAll).fencedAt k = s.fencedAt k := by
  obtain ⟨_, e⟩ := s.holdAll_frame ; rw [e]; rfl
@[simp] theorem State.holdAll_writeBarred (k : Nat) : (s.holdAll).writeBarred k = s.writeBarred k := by
  obtain ⟨_, e⟩ := s.holdAll_frame ; rw [e]; rfl
@[simp] theorem State.endRun_pending (e code : Nat) (q : Option Nat) : (s.endRun e code q).pending = s.pending := by
  obtain ⟨_, e⟩ := s.endRun_frame e code q; rw [e]
@[simp] theorem State.endRun_gt (e code : Nat) (q : Option Nat) : (s.endRun e code q).gt = s.gt := by
  obtain ⟨_, e⟩ := s.endRun_frame e code q; rw [e]
@[simp] theorem State.endRun_inFlight (e code : Nat) (q : Option Nat) : (s.endRun e code q).inFlight = s.inFlight := by
  obtain ⟨_, e⟩ := s.endRun_frame e code q; rw [e]
@[simp] theorem State.endRun_free (e code : Nat) (q : Option Nat) : (s.endRun e code q).free = s.free := by
  obtain ⟨_, e⟩ := s.endRun_frame e code q; rw [e]
@[simp] theorem State.endRun_outs (e code : Nat) (q : Option Nat) : (s.endRun e code q).outs = s.outs := by
  obtain ⟨_, e⟩ := s.endRun_frame e code q; rw [e]
@[simp] theorem State.endRun_hub (e code : Nat) (q : Option Nat) : (s.endRun e code q).hub = s.hub := by
  obtain ⟨_, e⟩ := s.endRun_frame e code q; rw [e]
@[simp] theorem State.endRun_boot (e code : Nat) (q : Option Nat) : (s.endRun e code q).boot = s.boot := by
  obtain ⟨_, e⟩ := s.endRun_frame e code q; rw [e]
@[simp] theorem State.endRun_vyn (e code : Nat) (q : Option Nat) : (s.endRun e code q).vyn = s.vyn := by
  obtain ⟨_, e⟩ := s.endRun_frame e code q; rw [e]
@[simp] theorem State.endRun_bench (e code : Nat) (q : Option Nat) : (s.endRun e code q).bench = s.bench := by
  obtain ⟨_, e⟩ := s.endRun_frame e code q; rw [e]
@[simp] theorem State.endRun_flash (e code : Nat) (q : Option Nat) : (s.endRun e code q).flash = s.flash := by
  obtain ⟨_, e⟩ := s.endRun_frame e code q; rw [e]
@[simp] theorem State.endRun_fuses (e code : Nat) (q : Option Nat) : (s.endRun e code q).fuses = s.fuses := by
  obtain ⟨_, e⟩ := s.endRun_frame e code q; rw [e]
@[simp] theorem State.endRun_mem (e code : Nat) (q : Option Nat) : (s.endRun e code q).mem = s.mem := by
  obtain ⟨_, e⟩ := s.endRun_frame e code q; rw [e]
@[simp] theorem State.endRun_pin (e code : Nat) (q : Option Nat) (k : Nat) : (s.endRun e code q).pin k = s.pin k := by
  obtain ⟨_, e⟩ := s.endRun_frame e code q; rw [e]; rfl
@[simp] theorem State.endRun_cl (e code : Nat) (q : Option Nat) (k : Nat) : (s.endRun e code q).cl k = s.cl k := by
  obtain ⟨_, e⟩ := s.endRun_frame e code q; rw [e]; rfl
@[simp] theorem State.endRun_eng (e code : Nat) (q : Option Nat) (k : Nat) : (s.endRun e code q).eng k = s.eng k := by
  obtain ⟨_, e⟩ := s.endRun_frame e code q; rw [e]; rfl
@[simp] theorem State.endRun_dig (e code : Nat) (q : Option Nat) (k : Nat) : (s.endRun e code q).dig k = s.dig k := by
  obtain ⟨_, e⟩ := s.endRun_frame e code q; rw [e]; rfl
@[simp] theorem State.endRun_rg (e code : Nat) (q : Option Nat) (k : Nat) : (s.endRun e code q).rg k = s.rg k := by
  obtain ⟨_, e⟩ := s.endRun_frame e code q; rw [e]; rfl
@[simp] theorem State.endRun_chan (e code : Nat) (q : Option Nat) (k : Nat) : (s.endRun e code q).chan k = s.chan k := by
  obtain ⟨_, e⟩ := s.endRun_frame e code q; rw [e]; rfl
@[simp] theorem State.endRun_ring (e code : Nat) (q : Option Nat) (k : Nat) : (s.endRun e code q).ring k = s.ring k := by
  obtain ⟨_, e⟩ := s.endRun_frame e code q; rw [e]; rfl
@[simp] theorem State.endRun_flow (e code : Nat) (q : Option Nat) (k : Nat) : (s.endRun e code q).flow k = s.flow k := by
  obtain ⟨_, e⟩ := s.endRun_frame e code q; rw [e]; rfl
@[simp] theorem State.endRun_site (e code : Nat) (q : Option Nat) (k : Nat) : (s.endRun e code q).site k = s.site k := by
  obtain ⟨_, e⟩ := s.endRun_frame e code q; rw [e]; rfl
@[simp] theorem State.endRun_port (e code : Nat) (q : Option Nat) (k : Nat) : (s.endRun e code q).port k = s.port k := by
  obtain ⟨_, e⟩ := s.endRun_frame e code q; rw [e]; rfl
@[simp] theorem State.endRun_flag (e code : Nat) (q : Option Nat) (k : Nat) : (s.endRun e code q).flag k = s.flag k := by
  obtain ⟨_, e⟩ := s.endRun_frame e code q; rw [e]; rfl
@[simp] theorem State.endRun_reg (e code : Nat) (q : Option Nat) (k : Nat) : (s.endRun e code q).reg k = s.reg k := by
  obtain ⟨_, e⟩ := s.endRun_frame e code q; rw [e]; rfl
@[simp] theorem State.endRun_fld (e code : Nat) (q : Option Nat) (k : Nat) (g : Fld) : (s.endRun e code q).fld k g = s.fld k g := by
  obtain ⟨_, e⟩ := s.endRun_frame e code q; rw [e]; rfl
@[simp] theorem State.endRun_bit (e code : Nat) (q : Option Nat) (k : Nat) (g : Fld) : (s.endRun e code q).bit k g = s.bit k g := by
  obtain ⟨_, e⟩ := s.endRun_frame e code q; rw [e]; rfl
@[simp] theorem State.endRun_inForce (e code : Nat) (q : Option Nat) (k : Nat) : (s.endRun e code q).inForce k = s.inForce k := by
  obtain ⟨_, e⟩ := s.endRun_frame e code q; rw [e]; rfl
@[simp] theorem State.endRun_poisoned (e code : Nat) (q : Option Nat) (k : Nat) : (s.endRun e code q).poisoned k = s.poisoned k := by
  obtain ⟨_, e⟩ := s.endRun_frame e code q; rw [e]; rfl
@[simp] theorem State.endRun_cline (e code : Nat) (q : Option Nat) (k : Nat) : (s.endRun e code q).cline k = s.cline k := by
  obtain ⟨_, e⟩ := s.endRun_frame e code q; rw [e]; rfl
@[simp] theorem State.endRun_dirOf (e code : Nat) (q : Option Nat) (k : Nat) : (s.endRun e code q).dirOf k = s.dirOf k := by
  obtain ⟨_, e⟩ := s.endRun_frame e code q; rw [e]; rfl
@[simp] theorem State.endRun_coding (e code : Nat) (q : Option Nat) (k : Nat) : (s.endRun e code q).coding k = s.coding k := by
  obtain ⟨_, e⟩ := s.endRun_frame e code q; rw [e]; rfl
@[simp] theorem State.endRun_fencedAt (e code : Nat) (q : Option Nat) (k : Nat) : (s.endRun e code q).fencedAt k = s.fencedAt k := by
  obtain ⟨_, e⟩ := s.endRun_frame e code q; rw [e]; rfl
@[simp] theorem State.endRun_writeBarred (e code : Nat) (q : Option Nat) (k : Nat) : (s.endRun e code q).writeBarred k = s.writeBarred k := by
  obtain ⟨_, e⟩ := s.endRun_frame e code q; rw [e]; rfl
@[simp] theorem State.endRunsIf_pending (code : Nat) (q : Option Nat) (test : Run → Bool) : (s.endRunsIf code q test).pending = s.pending := by
  obtain ⟨_, e⟩ := s.endRunsIf_frame code q test; rw [e]
@[simp] theorem State.endRunsIf_gt (code : Nat) (q : Option Nat) (test : Run → Bool) : (s.endRunsIf code q test).gt = s.gt := by
  obtain ⟨_, e⟩ := s.endRunsIf_frame code q test; rw [e]
@[simp] theorem State.endRunsIf_inFlight (code : Nat) (q : Option Nat) (test : Run → Bool) : (s.endRunsIf code q test).inFlight = s.inFlight := by
  obtain ⟨_, e⟩ := s.endRunsIf_frame code q test; rw [e]
@[simp] theorem State.endRunsIf_free (code : Nat) (q : Option Nat) (test : Run → Bool) : (s.endRunsIf code q test).free = s.free := by
  obtain ⟨_, e⟩ := s.endRunsIf_frame code q test; rw [e]
@[simp] theorem State.endRunsIf_outs (code : Nat) (q : Option Nat) (test : Run → Bool) : (s.endRunsIf code q test).outs = s.outs := by
  obtain ⟨_, e⟩ := s.endRunsIf_frame code q test; rw [e]
@[simp] theorem State.endRunsIf_hub (code : Nat) (q : Option Nat) (test : Run → Bool) : (s.endRunsIf code q test).hub = s.hub := by
  obtain ⟨_, e⟩ := s.endRunsIf_frame code q test; rw [e]
@[simp] theorem State.endRunsIf_boot (code : Nat) (q : Option Nat) (test : Run → Bool) : (s.endRunsIf code q test).boot = s.boot := by
  obtain ⟨_, e⟩ := s.endRunsIf_frame code q test; rw [e]
@[simp] theorem State.endRunsIf_vyn (code : Nat) (q : Option Nat) (test : Run → Bool) : (s.endRunsIf code q test).vyn = s.vyn := by
  obtain ⟨_, e⟩ := s.endRunsIf_frame code q test; rw [e]
@[simp] theorem State.endRunsIf_bench (code : Nat) (q : Option Nat) (test : Run → Bool) : (s.endRunsIf code q test).bench = s.bench := by
  obtain ⟨_, e⟩ := s.endRunsIf_frame code q test; rw [e]
@[simp] theorem State.endRunsIf_flash (code : Nat) (q : Option Nat) (test : Run → Bool) : (s.endRunsIf code q test).flash = s.flash := by
  obtain ⟨_, e⟩ := s.endRunsIf_frame code q test; rw [e]
@[simp] theorem State.endRunsIf_fuses (code : Nat) (q : Option Nat) (test : Run → Bool) : (s.endRunsIf code q test).fuses = s.fuses := by
  obtain ⟨_, e⟩ := s.endRunsIf_frame code q test; rw [e]
@[simp] theorem State.endRunsIf_mem (code : Nat) (q : Option Nat) (test : Run → Bool) : (s.endRunsIf code q test).mem = s.mem := by
  obtain ⟨_, e⟩ := s.endRunsIf_frame code q test; rw [e]
@[simp] theorem State.endRunsIf_pin (code : Nat) (q : Option Nat) (test : Run → Bool) (k : Nat) : (s.endRunsIf code q test).pin k = s.pin k := by
  obtain ⟨_, e⟩ := s.endRunsIf_frame code q test; rw [e]; rfl
@[simp] theorem State.endRunsIf_cl (code : Nat) (q : Option Nat) (test : Run → Bool) (k : Nat) : (s.endRunsIf code q test).cl k = s.cl k := by
  obtain ⟨_, e⟩ := s.endRunsIf_frame code q test; rw [e]; rfl
@[simp] theorem State.endRunsIf_eng (code : Nat) (q : Option Nat) (test : Run → Bool) (k : Nat) : (s.endRunsIf code q test).eng k = s.eng k := by
  obtain ⟨_, e⟩ := s.endRunsIf_frame code q test; rw [e]; rfl
@[simp] theorem State.endRunsIf_dig (code : Nat) (q : Option Nat) (test : Run → Bool) (k : Nat) : (s.endRunsIf code q test).dig k = s.dig k := by
  obtain ⟨_, e⟩ := s.endRunsIf_frame code q test; rw [e]; rfl
@[simp] theorem State.endRunsIf_rg (code : Nat) (q : Option Nat) (test : Run → Bool) (k : Nat) : (s.endRunsIf code q test).rg k = s.rg k := by
  obtain ⟨_, e⟩ := s.endRunsIf_frame code q test; rw [e]; rfl
@[simp] theorem State.endRunsIf_chan (code : Nat) (q : Option Nat) (test : Run → Bool) (k : Nat) : (s.endRunsIf code q test).chan k = s.chan k := by
  obtain ⟨_, e⟩ := s.endRunsIf_frame code q test; rw [e]; rfl
@[simp] theorem State.endRunsIf_ring (code : Nat) (q : Option Nat) (test : Run → Bool) (k : Nat) : (s.endRunsIf code q test).ring k = s.ring k := by
  obtain ⟨_, e⟩ := s.endRunsIf_frame code q test; rw [e]; rfl
@[simp] theorem State.endRunsIf_flow (code : Nat) (q : Option Nat) (test : Run → Bool) (k : Nat) : (s.endRunsIf code q test).flow k = s.flow k := by
  obtain ⟨_, e⟩ := s.endRunsIf_frame code q test; rw [e]; rfl
@[simp] theorem State.endRunsIf_site (code : Nat) (q : Option Nat) (test : Run → Bool) (k : Nat) : (s.endRunsIf code q test).site k = s.site k := by
  obtain ⟨_, e⟩ := s.endRunsIf_frame code q test; rw [e]; rfl
@[simp] theorem State.endRunsIf_port (code : Nat) (q : Option Nat) (test : Run → Bool) (k : Nat) : (s.endRunsIf code q test).port k = s.port k := by
  obtain ⟨_, e⟩ := s.endRunsIf_frame code q test; rw [e]; rfl
@[simp] theorem State.endRunsIf_flag (code : Nat) (q : Option Nat) (test : Run → Bool) (k : Nat) : (s.endRunsIf code q test).flag k = s.flag k := by
  obtain ⟨_, e⟩ := s.endRunsIf_frame code q test; rw [e]; rfl
@[simp] theorem State.endRunsIf_reg (code : Nat) (q : Option Nat) (test : Run → Bool) (k : Nat) : (s.endRunsIf code q test).reg k = s.reg k := by
  obtain ⟨_, e⟩ := s.endRunsIf_frame code q test; rw [e]; rfl
@[simp] theorem State.endRunsIf_fld (code : Nat) (q : Option Nat) (test : Run → Bool) (k : Nat) (g : Fld) : (s.endRunsIf code q test).fld k g = s.fld k g := by
  obtain ⟨_, e⟩ := s.endRunsIf_frame code q test; rw [e]; rfl
@[simp] theorem State.endRunsIf_bit (code : Nat) (q : Option Nat) (test : Run → Bool) (k : Nat) (g : Fld) : (s.endRunsIf code q test).bit k g = s.bit k g := by
  obtain ⟨_, e⟩ := s.endRunsIf_frame code q test; rw [e]; rfl
@[simp] theorem State.endRunsIf_inForce (code : Nat) (q : Option Nat) (test : Run → Bool) (k : Nat) : (s.endRunsIf code q test).inForce k = s.inForce k := by
  obtain ⟨_, e⟩ := s.endRunsIf_frame code q test; rw [e]; rfl
@[simp] theorem State.endRunsIf_poisoned (code : Nat) (q : Option Nat) (test : Run → Bool) (k : Nat) : (s.endRunsIf code q test).poisoned k = s.poisoned k := by
  obtain ⟨_, e⟩ := s.endRunsIf_frame code q test; rw [e]; rfl
@[simp] theorem State.endRunsIf_cline (code : Nat) (q : Option Nat) (test : Run → Bool) (k : Nat) : (s.endRunsIf code q test).cline k = s.cline k := by
  obtain ⟨_, e⟩ := s.endRunsIf_frame code q test; rw [e]; rfl
@[simp] theorem State.endRunsIf_dirOf (code : Nat) (q : Option Nat) (test : Run → Bool) (k : Nat) : (s.endRunsIf code q test).dirOf k = s.dirOf k := by
  obtain ⟨_, e⟩ := s.endRunsIf_frame code q test; rw [e]; rfl
@[simp] theorem State.endRunsIf_coding (code : Nat) (q : Option Nat) (test : Run → Bool) (k : Nat) : (s.endRunsIf code q test).coding k = s.coding k := by
  obtain ⟨_, e⟩ := s.endRunsIf_frame code q test; rw [e]; rfl
@[simp] theorem State.endRunsIf_fencedAt (code : Nat) (q : Option Nat) (test : Run → Bool) (k : Nat) : (s.endRunsIf code q test).fencedAt k = s.fencedAt k := by
  obtain ⟨_, e⟩ := s.endRunsIf_frame code q test; rw [e]; rfl
@[simp] theorem State.endRunsIf_writeBarred (code : Nat) (q : Option Nat) (test : Run → Bool) (k : Nat) : (s.endRunsIf code q test).writeBarred k = s.writeBarred k := by
  obtain ⟨_, e⟩ := s.endRunsIf_frame code q test; rw [e]; rfl

/-! Reads of other registers and of what is in force. -/

theorem State.setBoth_reg_ne (a : Nat) (w : Word) (m : Nat) (h : m ≠ a) : (s.setBoth a w).reg m = s.reg m := State.setReg_reg_ne s a w m h
theorem State.setBoth_inForce_ne (a : Nat) (w : Word) (m : Nat) (h : m ≠ a) : (s.setBoth a w).inForce m = s.inForce m :=
  State.setForce_inForce_ne s a w m h
theorem State.setBoth_fld_ne (a : Nat) (w : Word) (m : Nat) (f : Fld) (h : m ≠ a) : (s.setBoth a w).fld m f = s.fld m f := by
  unfold State.fld; rw [State.setBoth_reg_ne _ _ _ _ h]
theorem State.setBoth_bit_ne (a : Nat) (w : Word) (m : Nat) (f : Fld) (h : m ≠ a) : (s.setBoth a w).bit m f = s.bit m f := by
  unfold State.bit; rw [State.setBoth_fld_ne _ _ _ _ _ h]
theorem State.setBoth_fld (a : Nat) (w : Word) (f : Fld) : (s.setBoth a w).fld a f = getF w f := by
  unfold State.fld; rw [State.setBoth_reg]
theorem State.countSat_reg_ne (a : Nat) (f : Fld) (k m : Nat) (h : m ≠ a) : (s.countSat a f k).reg m = s.reg m := State.setFld_reg_ne s a f _ m h
theorem State.countSat_fld_ne (a : Nat) (f : Fld) (k m : Nat) (g : Fld) (h : m ≠ a) : (s.countSat a f k).fld m g = s.fld m g :=
  State.setFld_fld_ne s a f _ m g h
theorem State.countSat_bit_ne (a : Nat) (f : Fld) (k m : Nat) (g : Fld) (h : m ≠ a) : (s.countSat a f k).bit m g = s.bit m g :=
  State.setFld_bit_ne s a f _ m g h
theorem State.orBit_reg_ne (a : Nat) (f : Fld) (u m : Nat) (h : m ≠ a) : (s.orBit a f u).reg m = s.reg m := State.setFld_reg_ne s a f _ m h
theorem State.orBit_fld_ne (a : Nat) (f : Fld) (u m : Nat) (g : Fld) (h : m ≠ a) : (s.orBit a f u).fld m g = s.fld m g :=
  State.setFld_fld_ne s a f _ m g h
theorem State.orBit_bit_ne (a : Nat) (f : Fld) (u m : Nat) (g : Fld) (h : m ≠ a) : (s.orBit a f u).bit m g = s.bit m g :=
  State.setFld_bit_ne s a f _ m g h
theorem State.setPair_reg_ne (lo hi v m : Nat) (h : m ≠ lo) (k : m ≠ hi) : (s.setPair lo hi v).reg m = s.reg m := by
  unfold State.setPair; rw [State.setReg_reg_ne _ _ _ _ k, State.setReg_reg_ne _ _ _ _ h]

/-! Folds over instance numbers. -/

/-- What every step of a fold keeps, the fold keeps. -/
theorem foldl_obs {α β : Type} (f : State → α → State) (o : State → β) (h : ∀ t x, o (f t x) = o t) (l : List α) :
    ∀ s, o (l.foldl f s) = o s := by
  induction l with
  | nil => intro s; rfl
  | cons x l ih => intro s; rw [List.foldl_cons, ih, h]

/-- What the step of every element of the list keeps, the fold keeps. -/
theorem foldl_obs_mem {α β : Type} (f : State → α → State) (o : State → β) (l : List α) (h : ∀ x ∈ l, ∀ t, o (f t x) = o t) :
    ∀ s, o (l.foldl f s) = o s := by
  induction l with
  | nil => intro s; rfl
  | cons x l ih =>
    intro s
    rw [List.foldl_cons, ih (fun y hy => h y (List.mem_cons_of_mem _ hy)), h x (List.mem_cons_self ..)]

/-- What the step of one element sets and the others keep, the fold sets. -/
theorem foldl_set {α β : Type} (f : State → α → State) (o : State → β) (x : α) (v : β) (hx : ∀ t, o (f t x) = v)
    (h : ∀ t y, y ≠ x → o (f t y) = o t) (l : List α) : ∀ s, x ∈ l → o (l.foldl f s) = v := by
  have aux : ∀ (l : List α) s, o s = v → o (l.foldl f s) = v := by
    intro l
    induction l with
    | nil => intro s hs; exact hs
    | cons y l ih =>
      intro s hs
      refine ih _ ?_
      by_cases e : y = x
      · subst e; exact hx _
      · show o (f s y) = v
        rw [h _ _ e]; exact hs
  induction l with
  | nil => intro s hs; cases hs
  | cons y l ih =>
    intro s hs
    by_cases e : y = x
    · subst e; exact aux l _ (hx _)
    · exact ih _ (by simpa [Ne.symm e] using hs)

/-- A relation that holds of every step holds of the fold. -/
theorem foldl_rel {α : Type} (r : State → State → Prop) (hr : ∀ t, r t t) (ht : ∀ t u v, r t u → r u v → r t v) (f : State → α → State)
    (h : ∀ t x, r t (f t x)) (l : List α) : ∀ s, r s (l.foldl f s) := by
  induction l with
  | nil => exact hr
  | cons x l ih => exact fun s => ht _ _ _ (h s x) (ih _)

theorem State.updRgs_frame (f : RgSt → RgSt) (l : List Nat) : ∀ u : State, ∃ rg, l.foldl (fun t r => t.updRg r f) u = { u with regions := rg } := by
  induction l with
  | nil => exact fun u => ⟨_, rfl⟩
  | cons x l ih =>
    intro u
    obtain ⟨r, e⟩ := State.updRg_frame u x f
    obtain ⟨q, k⟩ := ih { u with regions := r }
    exact ⟨q, by rw [List.foldl_cons, e, k]⟩

/-- Package reset (R509): everything is as in `State.reset` but what R509 and R434 leave standing. -/
theorem State.packageReset_eq : ∃ rg, s.packageReset = { State.reset with
    pending := s.pending, gt := s.gt64, free := s.free + 1, outs := s.outs, flash := s.flash, fuses := s.fusesLeft,
    resetN := s.resetN, tamperN := s.tamperN, boot := { phase := if s.resetN then 1 else 0 }, regions := rg } := by
  unfold State.packageReset
  dsimp only
  obtain ⟨rg, e⟩ := State.updRgs_frame (fun x => { x with lastSlice := s.gt64, lastHub := s.gt64 }) (List.range 8) ({ State.reset with
    pending := s.pending, gt := s.gt64, free := s.free + 1, outs := s.outs, flash := s.flash, fuses := s.fusesLeft,
    resetN := s.resetN, tamperN := s.tamperN, boot := { phase := if s.resetN then 1 else 0 } } : State)
  exact ⟨rg, by rw [e]⟩

theorem tget_filter {α : Type} (d : Nat → α) (p : Nat → Bool) (t : Tbl α) (a : Nat) :
    tget d (t.filter (fun x => p x.1)) a = if p a then tget d t a else d a := by
  induction t with
  | nil => rw [List.filter_nil]; unfold tget; split <;> rfl
  | cons x t ih =>
    obtain ⟨k, v⟩ := x
    by_cases h : p k = true
    · rw [List.filter_cons_of_pos (by simpa using h)]
      unfold tget
      by_cases e : k = a
      · subst e; rw [if_pos rfl, if_pos h, if_pos rfl]
      · rw [if_neg e, if_neg e]; exact ih
    · rw [List.filter_cons_of_neg (by simpa using h), ih]
      conv => rhs; unfold tget
      by_cases e : k = a
      · subst e; rw [if_neg h, if_neg h]
      · rw [if_neg e]

/-! Consecutive keys. -/

/-- A read after a write of consecutive keys. -/
theorem tget_tputs {α : Type} [DecidableEq α] (d : Nat → α) (l : List α) (x : α) : ∀ (t : Tbl α) (n m : Nat),
    tget d (tputs d t n l) m = if n ≤ m ∧ m < n + l.length then l.getD (m - n) x else tget d t m := by
  induction l with
  | nil => intro t n m; unfold tputs; rw [if_neg (by simp)]
  | cons y l ih =>
    intro t n m
    unfold tputs
    rw [ih]
    by_cases h : n + 1 ≤ m ∧ m < n + 1 + l.length
    · rw [if_pos h, if_pos ⟨by omega, by rw [List.length_cons]; omega⟩]
      obtain ⟨k, hk⟩ : ∃ k, m - n = k + 1 := ⟨m - n - 1, by omega⟩
      rw [hk, List.getD_cons_succ, show m - (n + 1) = k by omega]
    · rw [if_neg h]
      by_cases e : n = m
      · subst e
        rw [tget_tput_same, if_pos ⟨Nat.le_refl _, by rw [List.length_cons]; omega⟩, Nat.sub_self, List.getD_cons_zero]
      · rw [tget_tput_ne _ _ _ e, if_neg]
        rw [List.length_cons]; omega

/-- What reading consecutive keys gives. -/
theorem tgets_getD {α : Type} (d : Nat → α) (t : Tbl α) (x : α) : ∀ (k n i : Nat), i < k → (tgets d t n k).getD i x = tget d t (n + i) := by
  intro k
  induction k with
  | zero => intro n i h; omega
  | succ k ih =>
    intro n i h
    unfold tgets
    cases i with
    | zero => rfl
    | succ i => rw [List.getD_cons_succ, ih _ _ (by omega)]; congr 1; omega

theorem tgets_length {α : Type} (d : Nat → α) (t : Tbl α) : ∀ (k n : Nat), (tgets d t n k).length = k := by
  intro k
  induction k with
  | zero => intro n; rfl
  | succ k ih => intro n; unfold tgets; rw [List.length_cons, ih]

end Sys2Proof.Machine
end

