-- ==== Sys2Proof/Laws/Keep.lean ====
section
/-! SUPPORT. The queue and the canonical form of every table, as the shapes that operations are built from and the named writes of State
keep them. -/

namespace Sys2Proof.Machine

theorem Keep.rfl' (s : State) : Keep s s := ⟨rfl, id⟩

theorem Keep.trans {s t u : State} (h : Keep s t) (k : Keep t u) : Keep s u :=
  ⟨k.queue.trans h.queue, fun c => k.canonical (h.canonical c)⟩

/-- What is in no table may change. -/
theorem Keep.same {s0 s t : State} (h : Keep s0 s) (q : t.pending = s.pending) (k : Canonical s → Canonical t) : Keep s0 t :=
  h.trans ⟨q, k⟩

theorem Keep.ite {s0 a b : State} {c : Prop} [Decidable c] (ha : Keep s0 a) (hb : Keep s0 b) : Keep s0 (if c then a else b) := by
  split <;> assumption

theorem Keep.foldl {s0 s : State} {α : Type} {f : State → α → State} {l : List α} (h : Keep s0 s)
    (hf : ∀ t x, Keep s0 t → Keep s0 (f t x)) : Keep s0 (l.foldl f s) := foldl_holds (P := Keep s0) hf l s h

/-- A meaning keeps what its next state keeps. -/
def Keeps (s : State) (o : Host.Outcome State Fault Refusal) : Prop := ∀ t, o = .next t → Keep s t

theorem Keeps.ok {s t : State} (h : Keep s t) : Keeps s (ok t) := by
  intro u e
  cases e
  exact h

theorem Keeps.ite {s : State} {a b : Host.Outcome State Fault Refusal} {c : Prop} [Decidable c] (ha : Keeps s a) (hb : Keeps s b) :
    Keeps s (if c then a else b) := by
  split <;> assumption

/-! The primitive writes: the table that one writes stays canonical, the others are as they were. -/

section

variable {s0 s : State}

theorem State.setPin_keep (k : Nat) (x : PinSt) (h : Keep s0 s) : Keep s0 (s.setPin k x) :=
  h.same rfl fun c => { c with pins := twf_tput _ _ _ _ c.pins }
theorem State.setCl_keep (k : Nat) (x : ClSt) (h : Keep s0 s) : Keep s0 (s.setCl k x) :=
  h.same rfl fun c => { c with clusters := twf_tput _ _ _ _ c.clusters }
theorem State.setEng_keep (k : Nat) (x : EngSt) (h : Keep s0 s) : Keep s0 (s.setEng k x) :=
  h.same rfl fun c => { c with engines := twf_tput _ _ _ _ c.engines }
theorem State.setDig_keep (k : Nat) (x : DigSt) (h : Keep s0 s) : Keep s0 (s.setDig k x) :=
  h.same rfl fun c => { c with digs := twf_tput _ _ _ _ c.digs }
theorem State.setRg_keep (k : Nat) (x : RgSt) (h : Keep s0 s) : Keep s0 (s.setRg k x) :=
  h.same rfl fun c => { c with regions := twf_tput _ _ _ _ c.regions }
theorem State.setChan_keep (k : Nat) (x : ChanSt) (h : Keep s0 s) : Keep s0 (s.setChan k x) :=
  h.same rfl fun c => { c with chans := twf_tput _ _ _ _ c.chans }
theorem State.setRing_keep (k : Nat) (x : RingSt) (h : Keep s0 s) : Keep s0 (s.setRing k x) :=
  h.same rfl fun c => { c with rings := twf_tput _ _ _ _ c.rings }
theorem State.setFlow_keep (k : Nat) (x : FlowSt) (h : Keep s0 s) : Keep s0 (s.setFlow k x) :=
  h.same rfl fun c => { c with flows := twf_tput _ _ _ _ c.flows }
theorem State.setSite_keep (k : Nat) (x : SiteSt) (h : Keep s0 s) : Keep s0 (s.setSite k x) :=
  h.same rfl fun c => { c with sites := twf_tput _ _ _ _ c.sites }
theorem State.setPort_keep (k : Nat) (x : PortSt) (h : Keep s0 s) : Keep s0 (s.setPort k x) :=
  h.same rfl fun c => { c with ports := twf_tput _ _ _ _ c.ports }
theorem State.setFlag_keep (k : Nat) (x : Bool) (h : Keep s0 s) : Keep s0 (s.setFlag k x) :=
  h.same rfl fun c => { c with flags := twf_tput _ _ _ _ c.flags }
theorem State.setReg_keep (k : Nat) (x : Word) (h : Keep s0 s) : Keep s0 (s.setReg k x) :=
  h.same rfl fun c => { c with regs := twf_tput _ _ _ _ c.regs }
theorem State.setForce_keep (k : Nat) (x : Word) (h : Keep s0 s) : Keep s0 (s.setForce k x) :=
  h.same rfl fun c => { c with force := twf_tput _ _ _ _ c.force }
theorem State.setPoison_keep (k : Nat) (x : Bool) (h : Keep s0 s) : Keep s0 (s.setPoison k x) :=
  h.same rfl fun c => { c with poison := twf_tput _ _ _ _ c.poison }
theorem State.setCline_keep (k : Nat) (x : CacheLine) (h : Keep s0 s) : Keep s0 (s.setCline k x) :=
  h.same rfl fun c => { c with cache := twf_tput _ _ _ _ c.cache }
theorem State.setDir_keep (k : Nat) (x : DirEntry) (h : Keep s0 s) : Keep s0 (s.setDir k x) :=
  h.same rfl fun c => { c with dir := twf_tput _ _ _ _ c.dir }
theorem State.setStoreWord_keep (k : Nat) (x : HBits) (h : Keep s0 s) : Keep s0 (s.setStoreWord k x) :=
  h.same rfl fun c => { c with stores := twf_tput _ _ _ _ c.stores }
theorem State.setStoreBad_keep (k : Nat) (x : Bool) (h : Keep s0 s) : Keep s0 (s.setStoreBad k x) :=
  h.same rfl fun c => { c with storePoison := twf_tput _ _ _ _ c.storePoison }
theorem State.setStoreHeld_keep (k : Nat) (x : Bool) (h : Keep s0 s) : Keep s0 (s.setStoreHeld k x) :=
  h.same rfl fun c => { c with storeWritten := twf_tput _ _ _ _ c.storeWritten }
theorem State.setCoding_keep (k : Nat) (x : Option Delta4) (h : Keep s0 s) : Keep s0 (s.setCoding k x) :=
  h.same rfl fun c => { c with codings := twf_tput _ _ _ _ c.codings }

/-! Updates of one record or register, and of what is in no table. -/

theorem State.updPin_keep (k : Nat) (f : PinSt → PinSt) (h : Keep s0 s) : Keep s0 (s.updPin k f) := State.setPin_keep _ _ h
theorem State.updCl_keep (k : Nat) (f : ClSt → ClSt) (h : Keep s0 s) : Keep s0 (s.updCl k f) := State.setCl_keep _ _ h
theorem State.updEng_keep (k : Nat) (f : EngSt → EngSt) (h : Keep s0 s) : Keep s0 (s.updEng k f) := State.setEng_keep _ _ h
theorem State.updDig_keep (k : Nat) (f : DigSt → DigSt) (h : Keep s0 s) : Keep s0 (s.updDig k f) := State.setDig_keep _ _ h
theorem State.updRg_keep (k : Nat) (f : RgSt → RgSt) (h : Keep s0 s) : Keep s0 (s.updRg k f) := State.setRg_keep _ _ h
theorem State.updRing_keep (k : Nat) (f : RingSt → RingSt) (h : Keep s0 s) : Keep s0 (s.updRing k f) := State.setRing_keep _ _ h
theorem State.updFlow_keep (k : Nat) (f : FlowSt → FlowSt) (h : Keep s0 s) : Keep s0 (s.updFlow k f) := State.setFlow_keep _ _ h
theorem State.updSite_keep (k : Nat) (f : SiteSt → SiteSt) (h : Keep s0 s) : Keep s0 (s.updSite k f) := State.setSite_keep _ _ h
theorem State.setFld_keep (k : Nat) (f : Fld) (v : Nat) (h : Keep s0 s) : Keep s0 (s.setFld k f v) := State.setReg_keep _ _ h
theorem State.setBit_keep (k : Nat) (f : Fld) (b : Bool) (h : Keep s0 s) : Keep s0 (s.setBit k f b) := State.setReg_keep _ _ h
theorem State.countSat_keep (k : Nat) (f : Fld) (n : Nat) (h : Keep s0 s) : Keep s0 (s.countSat k f n) := State.setReg_keep _ _ h
theorem State.orBit_keep (k : Nat) (f : Fld) (u : Nat) (h : Keep s0 s) : Keep s0 (s.orBit k f u) := State.setReg_keep _ _ h
theorem State.setPair_keep (lo hi v : Nat) (h : Keep s0 s) : Keep s0 (s.setPair lo hi v) :=
  State.setReg_keep _ _ (State.setReg_keep _ _ h)
theorem State.setBoth_keep (k : Nat) (w : Word) (h : Keep s0 s) : Keep s0 (s.setBoth k w) :=
  State.setForce_keep _ _ (State.setReg_keep _ _ h)
theorem State.updHub_keep (f : HubSt → HubSt) (h : Keep s0 s) : Keep s0 (s.updHub f) := h.same rfl fun c => { c with regs := c.regs }
theorem State.updBoot_keep (f : BootSt → BootSt) (h : Keep s0 s) : Keep s0 (s.updBoot f) := h.same rfl fun c => { c with regs := c.regs }
theorem State.updVyn_keep (f : VynSt → VynSt) (h : Keep s0 s) : Keep s0 (s.updVyn f) := h.same rfl fun c => { c with regs := c.regs }
theorem State.updRun_keep (i : Nat) (f : Run → Run) (h : Keep s0 s) : Keep s0 (s.updRun i f) := h.same rfl fun c => { c with regs := c.regs }
theorem State.sendAct_keep (port k : Nat) (w : Word) (h : Keep s0 s) : Keep s0 (s.sendAct port k w) := h.same rfl fun c => { c with regs := c.regs }
theorem State.sendPin_keep (k : Nat) (w : Word) (h : Keep s0 s) : Keep s0 (s.sendPin k w) := h.same rfl fun c => { c with regs := c.regs }
theorem State.at_keep (g : Nat) (h : Keep s0 s) : Keep s0 (s.at g) := h.same rfl fun c => { c with regs := c.regs }
theorem State.send_keep (x : Output) (h : Keep s0 s) : Keep s0 (s.send x) := h.same rfl fun c => { c with regs := c.regs }
theorem State.useFree_keep (h : Keep s0 s) : Keep s0 (s.useFree) := h.same rfl fun c => { c with regs := c.regs }

theorem State.putBytes_keep (a : Nat) (l : List Byte) (h : Keep s0 s) : Keep s0 (s.putBytes a l) := by
  unfold State.putBytes
  have k : Keep s0 (s.segTouch a (s.bytesAt a l.length)) := by
    unfold State.segTouch
    split
    · split
      · refine foldl_holds (P := fun t => Keep s0 t) (fun t u ht => ?_) _ _ (State.setCoding_keep _ _ h)
        split
        · split
          · exact ht
          · exact State.setPin_keep _ _ ht
        · exact ht
      · exact h
    · exact h
  obtain ⟨_, _, e⟩ := s.segTouch_frame a (s.bytesAt a l.length)
  exact k.same rfl fun c => { c with mem := twf_tputs _ _ _ _ (by have m := c.mem; rw [e] at m; exact m) }

theorem State.setBusy_keep (l : Nat) (x : HomeBusy) (h : Keep s0 s) : Keep s0 (s.setBusy l x) :=
  h.same rfl fun c => { c with
    homeBusy := risingFrom_tins _ _ _ (tdel_keys _ _) none trivial (risingFrom_tdel _ _ none c.homeBusy) }
theorem State.clearBusy_keep (l : Nat) (h : Keep s0 s) : Keep s0 (s.clearBusy l) :=
  h.same rfl fun c => { c with homeBusy := risingFrom_tdel _ _ none c.homeBusy }
theorem State.putFlash_keep (a : Nat) (l : List Byte) (h : Keep s0 s) : Keep s0 (s.putFlash a l) :=
  h.same rfl fun c => { c with flash := twf_tputs _ _ _ _ c.flash }

end

end Sys2Proof.Machine
end

