-- ==== Sys2Proof/WellFormed.lean ====
section
/-! DEFINITION. Which operands a command can carry: grains that stand on tenon boundaries (R71), register addresses of whole words (R19),
lines of the shared flow space (R487), lengths that the spec fixes. A command that is not well formed names no event of the block; exec
gives it a meaning all the same. -/

namespace Sys2Proof

/-- A grain on a tenon boundary (R71). -/
def onBoundary (b : Nat) : Bool := b % 64 == 0
/-- The address of a whole register (R19, R58). -/
def wordAddr (a : Nat) : Bool := a % 4 == 0
/-- A multiple of n. -/
def multipleOf (n a : Nat) : Bool := a % n == 0
/-- A number of n bits. -/
def fits (n a : Nat) : Bool := decide (a < 2 ^ n)
/-- A list of length n. -/
def ofLength {α : Type} (n : Nat) (l : List α) : Bool := l.length == n
/-- A list of at most n elements. -/
def atMost {α : Type} (n : Nat) (l : List α) : Bool := decide (l.length ≤ n)
/-- A list that is not empty. -/
def nonempty {α : Type} (l : List α) : Bool := !l.isEmpty
/-- A list of numbers without repeats. -/
def noRepeat : List Nat → Bool
  | [] => true
  | x :: l => !l.contains x && noRepeat l
/-- A line of the shared flow space: 64 MiB in lines of 64 B (Table 1-11, R487). -/
def lineNo (l : Nat) : Bool := decide (l < 1048576)
/-- What a home or owner returns: a whole line, a poisoned one, an error, or nothing. -/
def lineReply : Payload → Bool
  | .data l => l.length == 0 || l.length == 64
  | .poisoned => true
  | .error => true
/-- A line that another package sends: whole, or poisoned (R490, R492). -/
def lineSent : Payload → Bool
  | .data l => l.length == 64
  | .poisoned => true
  | .error => false
/-- No two cycle starts of one engine on one grain of a tenon (R73). -/
def lineOfSlots : List CycleSlot → Bool
  | [] => true
  | x :: l => l.all (fun y => y.eng != x.eng || y.grain != x.grain) && lineOfSlots l
/-- The conversions of a sequence: 2^n for n = 0 to 8 (R295). -/
def codeCount (n : Nat) : Bool := [1, 2, 4, 8, 16, 32, 64, 128, 256].contains n
/-- The data of a snoop's answer is a whole line or a poisoned one (R490). -/
def answerFits : SnoopAnswer → Bool
  | .data p => lineSent p
  | .writebackInFlight p => lineSent p
  | .ack => true
  | .cleanEviction => true
/-- Lanes that a link trains with: 12, 8 or 4 (R465). -/
def laneGroup (n : Nat) : Bool := n == 12 || n == 8 || n == 4
/-- The fields of an identity in their widths (R467). -/
def identityFits (x : Identity) : Bool := fits 64 x.uid && fits 64 x.tag && fits 8 x.priority
/-- A row repair in the ranges of Table 16-4. -/
def repairFits (array inst bank row spare : Nat) : Bool :=
  decide (array < 5) && decide (inst < 64) && decide (bank < 128) && decide (row < 256) && decide (spare < 8)
/-- A package summary counts each of the 32 hard bins (Table 14-5). -/
def summaryFits (x : PkgSummary) : Bool := x.bins.length == 32
/-- An address that names a store word (R518). -/
def storeAddress (a : Nat) : Bool := decide (0x3FE00000000 ≤ a) && decide (a < 0x3FF00000000)

/-- The operands of a command are well formed. -/
def Instr.wf : Instr → Bool
  | .bootPhase8 g => onBoundary g
  | .tempRead g codes => multipleOf 16777216 g && ofLength 64 codes
  | .vcoreMeasure g replicas => multipleOf 1048576 g && ofLength 4 replicas
  | .gtLoRead _ addr => wordAddr addr
  | .registerWrite _ addr _ _ _ => wordAddr addr
  | .rcFieldRead _ addr _ coinciding => wordAddr addr && fits 32 coinciding
  | .writeReachesPinTime addr _ => wordAddr addr
  | .tenonProduced _ _ stamp slots => onBoundary stamp && lineOfSlots slots
  | .tenonBoundary _ b _ => onBoundary b
  | .runStartGrain _ g => onBoundary g
  | .handoverStart _ b _ => onBoundary b
  | .latchClearWrite _ _ _ b => onBoundary b
  | .flagSetWrite _ addr _ b => wordAddr addr && onBoundary b
  | .flagClrWrite _ addr _ b => wordAddr addr && onBoundary b
  | .vectorLineFetch _ _ addr _ => multipleOf 64 addr
  | .acqArm _ _ b => onBoundary b
  | .acqAbort _ _ b => onBoundary b
  | .triggerFlagSet _ b => onBoundary b
  | .acqRangeWrite _ _ _ b => onBoundary b
  | .pulseStart _ _ _ b => onBoundary b
  | .adcStart _ _ b => onBoundary b
  | .adcSequenceEnd _ _ codes => codeCount codes.length
  | .pcCtrlWrite _ _ _ _ b => onBoundary b
  | .calRequestTiming _ _ b => onBoundary b
  | .calRequestDc _ _ b => onBoundary b
  | .calStart _ _ g => onBoundary g
  | .calPass2 _ g => onBoundary g
  | .calEnd _ g _ => onBoundary g
  | .calApply _ b => onBoundary b
  | .storeReload storeAddr _ => storeAddress storeAddr
  | .blockTestDone _ faultyRows => noRepeat faultyRows
  | .flowConfigWrite _ addr _ _ => wordAddr addr
  | .packageSummaryTake arrived => arrived.all summaryFits
  | .modeShutdownDone _ _ b => onBoundary b
  | .drain _ _ _ d => onBoundary d
  | .recover _ _ _ b => onBoundary b
  | .svcCommandDone _ _ _ faultyRows => noRepeat faultyRows
  | .repairAppend array inst bank row spare => repairFits array inst bank row spare
  | .partnerMemoryWrite _ offset data _ => fits 46 offset && nonempty data
  | .partnerMemoryRead _ offset _ _ _ => fits 46 offset
  | .partnerReadTimeout _ addr => fits 46 addr
  | .oversizedRegisterRequest _ addr _ => fits 46 addr
  | .vyeneLinkTrained _ lanes peer _ _ => laneGroup lanes && identityFits peer
  | .idAssignment tag uids _ _ => fits 64 tag && atMost 16 uids && uids.all (fits 64)
  | .systemJoin _ joiner _ => identityFits joiner
  | .alignment _ g pairs _ => onBoundary g && ofLength 16 pairs
  | .readS _ line reply _ => lineNo line && lineReply reply
  | .readX _ line reply _ => lineNo line && lineReply reply
  | .upgrade _ line _ => lineNo line
  | .putM _ line data _ => lineNo line && lineSent data
  | .putE _ line _ => lineNo line
  | .fwdS _ line answer _ => lineNo line && answerFits answer
  | .fwdX _ line answer _ => lineNo line && answerFits answer
  | .inv _ line _ => lineNo line
  | .remoteAccess _ addr _ _ _ _ => fits 46 addr
  | .resetNLow | .resetNHigh | .bootHeadersRead .. | .bootSectionLoad .. | .fetchTimeout | .hbmInitDone ..
  | .railUndervoltage .. | .frontEndRailFault .. | .hbmRailFault .. | .timebaseLock .. | .holdoverEntry .. | .refReturn ..
  | .phaseSlewStep .. | .holdoverTimeout .. | .refCtrlWrite .. | .unitMaskWrite .. | .linkHeartbeat .. | .linkSilent ..
  | .safeStateEntry .. | .sliceDieFence .. | .engStart .. | .runStart .. | .cycleStart .. | .driveEdge .. | .strobeTaken ..
  | .scribeLineWrite .. | .scrFlush .. | .scrRptrWrite .. | .scribeConfigWrite .. | .pinEdgeStamped .. | .tiaModeWrite ..
  | .tiaRes0Read .. | .shimTargetWrite .. | .advCondSample .. | .delta4Convert .. | .delta4Done .. | .protectionSample ..
  | .wordOpen .. | .next .. | .jump .. | .branchTakeEffect .. | .call .. | .ret .. | .loop .. | .ldcnt .. | .wait ..
  | .waitCheck .. | .resume .. | .halt .. | .romcall .. | .badop .. | .vopNop .. | .vopStream .. | .vopTset .. | .vopSeek ..
  | .vopLdcnt .. | .vopLoopb .. | .vopCall .. | .vopRet .. | .vopBrcond .. | .vopWaitf .. | .vopSigf .. | .vopAct ..
  | .vopDict .. | .vopSubst .. | .vopHalt .. | .vopBad .. | .systemFlagTakeEffect .. | .deadlock .. | .runEnd .. | .csRead ..
  | .csWrite .. | .csStoreRefused .. | .engPmWrite .. | .decoderRestart .. | .frameDecode .. | .hbmShareWrite .. | .trigger ..
  | .autoTimeout .. | .recordLastSample .. | .acqLineStage .. | .pulseEnd .. | .adcTimerEvent .. | .adcSequenceBegin ..
  | .adcResultRead .. | .pcConversion .. | .driftMeasure .. | .timingFailover .. | .scrubRead .. | .blockTest .. | .pprGo ..
  | .pprDone .. | .memPatWrite .. | .wipe .. | .wipeEnd | .tamper | .ringTailWrite .. | .doorbell .. | .descriptorFetch ..
  | .ringRestart .. | .burstStart .. | .dmaBeat .. | .burstComplete .. | .ringAlloc .. | .ringFree .. | .poolTake ..
  | .poolPut .. | .flowGo .. | .flowStartFlag .. | .flowCont .. | .pattern .. | .measure .. | .limit .. | .branch .. | .bin ..
  | .log .. | .cal .. | .flowWait .. | .share .. | .endEntry .. | .flowEntryComplete .. | .logRptrWrite .. | .summaryArrive ..
  | .benchTake | .modReqWrite .. | .drainEnd .. | .drained .. | .reload .. | .memtest .. | .activate .. | .svcOpRefused ..
  | .flashRead .. | .flashProgram .. | .flashErase .. | .flashOpRefused .. | .flashCmdDone .. | .reboot .. | .actHub ..
  | .actHubDone .. | .lcTransition .. | .lcFusesProgrammed | .partnerLinkTrained .. | .evtRptrWrite ..
  | .expansionLinkChange .. | .vyeneLinkDrop .. | .systemDeclare .. | .elect .. | .election .. | .lease .. | .leaseReceive ..
  | .leaseLapse .. | .conflict .. | .conflictSafeState .. | .dowel .. | .release .. | .lAdopt .. | .systemConditionMessage ..
  | .syncOutPulse .. | .syncInEdge .. | .snoopTargetUnreachable .. | .tamperNHigh | .flitResend .. | .atomicopRequest .. => true

/-- The tenon boundary that a command names, for one that happens at or meets a boundary (R71). -/
def Instr.boundary : Instr → Option Nat
  | .bootPhase8 g => some g
  | .tenonProduced _ _ stamp _ => some stamp
  | .tenonBoundary _ b _ => some b
  | .runStartGrain _ g => some g
  | .handoverStart _ b _ => some b
  | .latchClearWrite _ _ _ b => some b
  | .flagSetWrite _ _ _ b => some b
  | .flagClrWrite _ _ _ b => some b
  | .acqArm _ _ b => some b
  | .acqAbort _ _ b => some b
  | .triggerFlagSet _ b => some b
  | .acqRangeWrite _ _ _ b => some b
  | .pulseStart _ _ _ b => some b
  | .adcStart _ _ b => some b
  | .pcCtrlWrite _ _ _ _ b => some b
  | .calRequestTiming _ _ b => some b
  | .calRequestDc _ _ b => some b
  | .calStart _ _ g => some g
  | .calPass2 _ g => some g
  | .calEnd _ g _ => some g
  | .calApply _ b => some b
  | .modeShutdownDone _ _ b => some b
  | .drain _ _ _ d => some d
  | .recover _ _ _ b => some b
  | .alignment _ g _ _ => some g
  | .resetNLow | .resetNHigh | .bootHeadersRead .. | .bootSectionLoad .. | .fetchTimeout | .hbmInitDone ..
  | .railUndervoltage .. | .frontEndRailFault .. | .hbmRailFault .. | .tempRead .. | .vcoreMeasure .. | .timebaseLock ..
  | .holdoverEntry .. | .refReturn .. | .phaseSlewStep .. | .holdoverTimeout .. | .refCtrlWrite .. | .gtLoRead ..
  | .registerWrite .. | .rcFieldRead .. | .writeReachesPinTime .. | .unitMaskWrite .. | .linkHeartbeat .. | .linkSilent ..
  | .safeStateEntry .. | .sliceDieFence .. | .engStart .. | .runStart .. | .cycleStart .. | .driveEdge .. | .strobeTaken ..
  | .scribeLineWrite .. | .scrFlush .. | .scrRptrWrite .. | .scribeConfigWrite .. | .pinEdgeStamped .. | .tiaModeWrite ..
  | .tiaRes0Read .. | .shimTargetWrite .. | .advCondSample .. | .delta4Convert .. | .delta4Done .. | .protectionSample ..
  | .wordOpen .. | .next .. | .jump .. | .branchTakeEffect .. | .call .. | .ret .. | .loop .. | .ldcnt .. | .wait ..
  | .waitCheck .. | .resume .. | .halt .. | .romcall .. | .badop .. | .vopNop .. | .vopStream .. | .vopTset .. | .vopSeek ..
  | .vopLdcnt .. | .vopLoopb .. | .vopCall .. | .vopRet .. | .vopBrcond .. | .vopWaitf .. | .vopSigf .. | .vopAct ..
  | .vopDict .. | .vopSubst .. | .vopHalt .. | .vopBad .. | .systemFlagTakeEffect .. | .deadlock .. | .runEnd .. | .csRead ..
  | .csWrite .. | .csStoreRefused .. | .engPmWrite .. | .decoderRestart .. | .vectorLineFetch .. | .frameDecode ..
  | .hbmShareWrite .. | .trigger .. | .autoTimeout .. | .recordLastSample .. | .acqLineStage .. | .pulseEnd ..
  | .adcTimerEvent .. | .adcSequenceBegin .. | .adcSequenceEnd .. | .adcResultRead .. | .pcConversion .. | .driftMeasure ..
  | .timingFailover .. | .scrubRead .. | .storeReload .. | .blockTest .. | .blockTestDone .. | .pprGo .. | .pprDone ..
  | .memPatWrite .. | .wipe .. | .wipeEnd | .tamper | .ringTailWrite .. | .doorbell .. | .descriptorFetch .. | .ringRestart ..
  | .burstStart .. | .dmaBeat .. | .burstComplete .. | .ringAlloc .. | .ringFree .. | .poolTake .. | .poolPut .. | .flowGo ..
  | .flowStartFlag .. | .flowCont .. | .pattern .. | .measure .. | .limit .. | .branch .. | .bin .. | .log .. | .cal ..
  | .flowWait .. | .share .. | .endEntry .. | .flowEntryComplete .. | .logRptrWrite .. | .flowConfigWrite ..
  | .summaryArrive .. | .benchTake | .packageSummaryTake .. | .modReqWrite .. | .drainEnd .. | .drained .. | .reload ..
  | .memtest .. | .activate .. | .svcOpRefused .. | .svcCommandDone .. | .flashRead .. | .flashProgram .. | .flashErase ..
  | .flashOpRefused .. | .flashCmdDone .. | .reboot .. | .actHub .. | .actHubDone .. | .lcTransition .. | .lcFusesProgrammed
  | .repairAppend .. | .partnerLinkTrained .. | .partnerMemoryWrite .. | .partnerMemoryRead .. | .partnerReadTimeout ..
  | .oversizedRegisterRequest .. | .evtRptrWrite .. | .expansionLinkChange .. | .vyeneLinkTrained .. | .vyeneLinkDrop ..
  | .systemDeclare .. | .idAssignment .. | .systemJoin .. | .elect .. | .election .. | .lease .. | .leaseReceive ..
  | .leaseLapse .. | .conflict .. | .conflictSafeState .. | .dowel .. | .release .. | .lAdopt .. | .systemConditionMessage ..
  | .syncOutPulse .. | .syncInEdge .. | .readS .. | .readX .. | .upgrade .. | .putM .. | .putE .. | .fwdS .. | .fwdX ..
  | .inv .. | .snoopTargetUnreachable .. | .tamperNHigh | .flitResend .. | .atomicopRequest .. | .remoteAccess .. => none

end Sys2Proof
end

