-- ==== Sys2Proof/Laws/PerInstr.lean ====
section
/-! SUPPORT. One lemma per command: a well-formed command names no grain as a boundary that is none. -/

namespace Sys2Proof.Laws.Boundary

/-- The boundary that a well-formed command names is a tenon boundary (R71). -/
def Statement (i : Instr) : Prop := i.wf = true → ∀ b, i.boundary = some b → b % 64 = 0

theorem resetNLow : Statement (.resetNLow) :=
  fun _ _ h => nomatch h

theorem resetNHigh : Statement (.resetNHigh) :=
  fun _ _ h => nomatch h

theorem bootHeadersRead (errorA : Bool) (errorB : Bool) : Statement (.bootHeadersRead errorA errorB) :=
  fun _ _ h => nomatch h

theorem bootSectionLoad (flashError : Bool) (fetchErrors : List Nat) : Statement (.bootSectionLoad flashError fetchErrors) :=
  fun _ _ h => nomatch h

theorem fetchTimeout : Statement (.fetchTimeout) :=
  fun _ _ h => nomatch h

theorem bootPhase8 (g : Nat) : Statement (.bootPhase8 g) := by
  intro w x h
  have w : (onBoundary g) = true := w
  have h : some g = some x := h
  simp only [onBoundary, beq_iff_eq, Option.some.injEq] at w h
  omega

theorem hbmInitDone (r : RgNo) : Statement (.hbmInitDone r) :=
  fun _ _ h => nomatch h

theorem railUndervoltage (rail : CoreRail) : Statement (.railUndervoltage rail) :=
  fun _ _ h => nomatch h

theorem frontEndRailFault (rail : FeRail) : Statement (.frontEndRailFault rail) :=
  fun _ _ h => nomatch h

theorem hbmRailFault (r : RgNo) : Statement (.hbmRailFault r) :=
  fun _ _ h => nomatch h

theorem tempRead (g : Nat) (codes : List (BitVec 12)) : Statement (.tempRead g codes) :=
  fun _ _ h => nomatch h

theorem vcoreMeasure (g : Nat) (replicas : List Nat) : Statement (.vcoreMeasure g replicas) :=
  fun _ _ h => nomatch h

theorem timebaseLock (g : Nat) : Statement (.timebaseLock g) :=
  fun _ _ h => nomatch h

theorem holdoverEntry (g : Nat) : Statement (.holdoverEntry g) :=
  fun _ _ h => nomatch h

theorem refReturn (g : Nat) (phaseKf : Int) : Statement (.refReturn g phaseKf) :=
  fun _ _ h => nomatch h

theorem phaseSlewStep (g : Nat) : Statement (.phaseSlewStep g) :=
  fun _ _ h => nomatch h

theorem holdoverTimeout (g : Nat) : Statement (.holdoverTimeout g) :=
  fun _ _ h => nomatch h

theorem refCtrlWrite (port : PortNo) (value : Word) (be : BitVec 4) : Statement (.refCtrlWrite port value be) :=
  fun _ _ h => nomatch h

theorem gtLoRead (port : PortNo) (addr : Nat) : Statement (.gtLoRead port addr) :=
  fun _ _ h => nomatch h

theorem registerWrite (port : PortNo) (addr : Nat) (value : Word) (be : BitVec 4) (finds : Finds) : Statement (.registerWrite port addr value be finds) :=
  fun _ _ h => nomatch h

theorem rcFieldRead (port : PortNo) (addr : Nat) (be : BitVec 4) (coinciding : Nat) : Statement (.rcFieldRead port addr be coinciding) :=
  fun _ _ h => nomatch h

theorem writeReachesPinTime (addr : Nat) (b : Nat) : Statement (.writeReachesPinTime addr b) :=
  fun _ _ h => nomatch h

theorem unitMaskWrite (port : PortNo) (c : ClNo) (value : Word) (be : BitVec 4) : Statement (.unitMaskWrite port c value be) :=
  fun _ _ h => nomatch h

theorem tenonProduced (c : ClNo) (lane : Lane) (stamp : Nat) (slots : List CycleSlot) : Statement (.tenonProduced c lane stamp slots) := by
  intro w x h
  have w : (onBoundary stamp && lineOfSlots slots) = true := w
  have h : some stamp = some x := h
  simp only [onBoundary, Bool.and_eq_true, beq_iff_eq, Option.some.injEq] at w h
  omega

theorem tenonBoundary (c : ClNo) (b : Nat) (finds : Finds) : Statement (.tenonBoundary c b finds) := by
  intro w x h
  have w : (onBoundary b) = true := w
  have h : some b = some x := h
  simp only [onBoundary, beq_iff_eq, Option.some.injEq] at w h
  omega

theorem runStartGrain (e : EngNo) (g : Nat) : Statement (.runStartGrain e g) := by
  intro w x h
  have w : (onBoundary g) = true := w
  have h : some g = some x := h
  simp only [onBoundary, beq_iff_eq, Option.some.injEq] at w h
  omega

theorem linkHeartbeat (r : RgNo) (die : LinkDie) (g : Nat) : Statement (.linkHeartbeat r die g) :=
  fun _ _ h => nomatch h

theorem linkSilent (r : RgNo) (die : LinkDie) (g : Nat) : Statement (.linkSilent r die g) :=
  fun _ _ h => nomatch h

theorem safeStateEntry (r : RgNo) (g : Nat) : Statement (.safeStateEntry r g) :=
  fun _ _ h => nomatch h

theorem sliceDieFence (d : DieNo) : Statement (.sliceDieFence d) :=
  fun _ _ h => nomatch h

theorem engStart (port : PortNo) (e : EngNo) (value : Word) : Statement (.engStart port e value) :=
  fun _ _ h => nomatch h

theorem runStart (e : EngNo) (finds : Finds) : Statement (.runStart e finds) :=
  fun _ _ h => nomatch h

theorem cycleStart (p : PinNo) (g : Nat) (finds : Finds) : Statement (.cycleStart p g finds) :=
  fun _ _ h => nomatch h

theorem driveEdge (p : PinNo) (k : EdgeKind) (start : Nat) : Statement (.driveEdge p k start) :=
  fun _ _ h => nomatch h

theorem strobeTaken (p : PinNo) (tag : StrobeTag) (start : Nat) (microvolts : List Int) : Statement (.strobeTaken p tag start microvolts) :=
  fun _ _ h => nomatch h

theorem scribeLineWrite (c : ClNo) : Statement (.scribeLineWrite c) :=
  fun _ _ h => nomatch h

theorem scrFlush (port : PortNo) (c : ClNo) : Statement (.scrFlush port c) :=
  fun _ _ h => nomatch h

theorem scrRptrWrite (port : PortNo) (c : ClNo) (value : Word) : Statement (.scrRptrWrite port c value) :=
  fun _ _ h => nomatch h

theorem scribeConfigWrite (port : PortNo) (c : ClNo) (drain : Bool) (value : Word) (be : BitVec 4) : Statement (.scribeConfigWrite port c drain value be) :=
  fun _ _ h => nomatch h

theorem pinEdgeStamped (p : PinNo) (rising : Bool) (t16 : Nat) : Statement (.pinEdgeStamped p rising t16) :=
  fun _ _ h => nomatch h

theorem tiaModeWrite (port : PortNo) (c : ClNo) (u : UnitNo) (value : Word) : Statement (.tiaModeWrite port c u value) :=
  fun _ _ h => nomatch h

theorem tiaRes0Read (port : PortNo) (c : ClNo) (u : UnitNo) : Statement (.tiaRes0Read port c u) :=
  fun _ _ h => nomatch h

theorem shimTargetWrite (port : PortNo) (c : ClNo) (i : Fin 128) (value : Word) : Statement (.shimTargetWrite port c i value) :=
  fun _ _ h => nomatch h

theorem handoverStart (p : PinNo) (b : Nat) (finds : Finds) : Statement (.handoverStart p b finds) := by
  intro w x h
  have w : (onBoundary b) = true := w
  have h : some b = some x := h
  simp only [onBoundary, beq_iff_eq, Option.some.injEq] at w h
  omega

theorem advCondSample (p : PinNo) (g : Nat) : Statement (.advCondSample p g) :=
  fun _ _ h => nomatch h

theorem delta4Convert (port : PortNo) (c : ClNo) (value : Word) : Statement (.delta4Convert port c value) :=
  fun _ _ h => nomatch h

theorem delta4Done (c : ClNo) (finds : Finds) : Statement (.delta4Done c finds) :=
  fun _ _ h => nomatch h

theorem protectionSample (p : PinNo) (g : Nat) (microvolts : Int) : Statement (.protectionSample p g microvolts) :=
  fun _ _ h => nomatch h

theorem latchClearWrite (port : PortNo) (c : ClNo) (mask : BitVec 16) (b : Nat) : Statement (.latchClearWrite port c mask b) := by
  intro w x h
  have w : (onBoundary b) = true := w
  have h : some b = some x := h
  simp only [onBoundary, beq_iff_eq, Option.some.injEq] at w h
  omega

theorem wordOpen (e : EngNo) (g : Nat) (finds : Finds) : Statement (.wordOpen e g finds) :=
  fun _ _ h => nomatch h

theorem next (e : EngNo) (g : Nat) : Statement (.next e g) :=
  fun _ _ h => nomatch h

theorem jump (e : EngNo) (g : Nat) : Statement (.jump e g) :=
  fun _ _ h => nomatch h

theorem branchTakeEffect (e : EngNo) (g : Nat) : Statement (.branchTakeEffect e g) :=
  fun _ _ h => nomatch h

theorem call (e : EngNo) (g : Nat) : Statement (.call e g) :=
  fun _ _ h => nomatch h

theorem ret (e : EngNo) (g : Nat) : Statement (.ret e g) :=
  fun _ _ h => nomatch h

theorem loop (e : EngNo) (g : Nat) : Statement (.loop e g) :=
  fun _ _ h => nomatch h

theorem ldcnt (e : EngNo) (g : Nat) : Statement (.ldcnt e g) :=
  fun _ _ h => nomatch h

theorem wait (e : EngNo) (g : Nat) : Statement (.wait e g) :=
  fun _ _ h => nomatch h

theorem waitCheck (e : EngNo) (g : Nat) : Statement (.waitCheck e g) :=
  fun _ _ h => nomatch h

theorem resume (e : EngNo) (g : Nat) : Statement (.resume e g) :=
  fun _ _ h => nomatch h

theorem halt (e : EngNo) (g : Nat) : Statement (.halt e g) :=
  fun _ _ h => nomatch h

theorem romcall (e : EngNo) (g : Nat) : Statement (.romcall e g) :=
  fun _ _ h => nomatch h

theorem badop (e : EngNo) (g : Nat) : Statement (.badop e g) :=
  fun _ _ h => nomatch h

theorem vopNop (e : EngNo) (g : Nat) (finds : Finds) : Statement (.vopNop e g finds) :=
  fun _ _ h => nomatch h

theorem vopStream (e : EngNo) (g : Nat) (finds : Finds) : Statement (.vopStream e g finds) :=
  fun _ _ h => nomatch h

theorem vopTset (e : EngNo) (g : Nat) (finds : Finds) : Statement (.vopTset e g finds) :=
  fun _ _ h => nomatch h

theorem vopSeek (e : EngNo) (g : Nat) (finds : Finds) : Statement (.vopSeek e g finds) :=
  fun _ _ h => nomatch h

theorem vopLdcnt (e : EngNo) (g : Nat) (finds : Finds) : Statement (.vopLdcnt e g finds) :=
  fun _ _ h => nomatch h

theorem vopLoopb (e : EngNo) (g : Nat) (finds : Finds) : Statement (.vopLoopb e g finds) :=
  fun _ _ h => nomatch h

theorem vopCall (e : EngNo) (g : Nat) (finds : Finds) : Statement (.vopCall e g finds) :=
  fun _ _ h => nomatch h

theorem vopRet (e : EngNo) (g : Nat) (finds : Finds) : Statement (.vopRet e g finds) :=
  fun _ _ h => nomatch h

theorem vopBrcond (e : EngNo) (g : Nat) (finds : Finds) : Statement (.vopBrcond e g finds) :=
  fun _ _ h => nomatch h

theorem vopWaitf (e : EngNo) (g : Nat) (finds : Finds) : Statement (.vopWaitf e g finds) :=
  fun _ _ h => nomatch h

theorem vopSigf (e : EngNo) (g : Nat) (finds : Finds) : Statement (.vopSigf e g finds) :=
  fun _ _ h => nomatch h

theorem vopAct (e : EngNo) (g : Nat) (finds : Finds) : Statement (.vopAct e g finds) :=
  fun _ _ h => nomatch h

theorem vopDict (e : EngNo) (g : Nat) (finds : Finds) : Statement (.vopDict e g finds) :=
  fun _ _ h => nomatch h

theorem vopSubst (e : EngNo) (g : Nat) (finds : Finds) : Statement (.vopSubst e g finds) :=
  fun _ _ h => nomatch h

theorem vopHalt (e : EngNo) (g : Nat) (finds : Finds) : Statement (.vopHalt e g finds) :=
  fun _ _ h => nomatch h

theorem vopBad (e : EngNo) (g : Nat) (finds : Finds) : Statement (.vopBad e g finds) :=
  fun _ _ h => nomatch h

theorem systemFlagTakeEffect (f : Fin 64) (g : Nat) : Statement (.systemFlagTakeEffect f g) :=
  fun _ _ h => nomatch h

theorem flagSetWrite (port : PortNo) (addr : Nat) (value : Word) (b : Nat) : Statement (.flagSetWrite port addr value b) := by
  intro w x h
  have w : (wordAddr addr && onBoundary b) = true := w
  have h : some b = some x := h
  simp only [onBoundary, Bool.and_eq_true, beq_iff_eq, Option.some.injEq] at w h
  omega

theorem flagClrWrite (port : PortNo) (addr : Nat) (value : Word) (b : Nat) : Statement (.flagClrWrite port addr value b) := by
  intro w x h
  have w : (wordAddr addr && onBoundary b) = true := w
  have h : some b = some x := h
  simp only [onBoundary, Bool.and_eq_true, beq_iff_eq, Option.some.injEq] at w h
  omega

theorem deadlock (e : EngNo) (g : Nat) : Statement (.deadlock e g) :=
  fun _ _ h => nomatch h

theorem runEnd (e : EngNo) (g : Nat) : Statement (.runEnd e g) :=
  fun _ _ h => nomatch h

theorem csRead (port : PortNo) (c : ClNo) (value : Word) (finds : Finds) : Statement (.csRead port c value finds) :=
  fun _ _ h => nomatch h

theorem csWrite (port : PortNo) (c : ClNo) (value : Word) : Statement (.csWrite port c value) :=
  fun _ _ h => nomatch h

theorem csStoreRefused (port : PortNo) (c : ClNo) (value : Word) : Statement (.csStoreRefused port c value) :=
  fun _ _ h => nomatch h

theorem engPmWrite (port : PortNo) (c : ClNo) (n : Fin 64) (value : Word) : Statement (.engPmWrite port c n value) :=
  fun _ _ h => nomatch h

theorem decoderRestart (e : EngNo) (lane : Lane) (v : Nat) : Statement (.decoderRestart e lane v) :=
  fun _ _ h => nomatch h

theorem vectorLineFetch (e : EngNo) (lane : Lane) (addr : Nat) (finds : Finds) : Statement (.vectorLineFetch e lane addr finds) :=
  fun _ _ h => nomatch h

theorem frameDecode (e : EngNo) (lane : Lane) : Statement (.frameDecode e lane) :=
  fun _ _ h => nomatch h

theorem hbmShareWrite (port : PortNo) (r : RgNo) (value : Word) (be : BitVec 4) : Statement (.hbmShareWrite port r value be) :=
  fun _ _ h => nomatch h

theorem acqArm (port : PortNo) (d : DigNo) (b : Nat) : Statement (.acqArm port d b) := by
  intro w x h
  have w : (onBoundary b) = true := w
  have h : some b = some x := h
  simp only [onBoundary, beq_iff_eq, Option.some.injEq] at w h
  omega

theorem acqAbort (port : PortNo) (d : DigNo) (b : Nat) : Statement (.acqAbort port d b) := by
  intro w x h
  have w : (onBoundary b) = true := w
  have h : some b = some x := h
  simp only [onBoundary, beq_iff_eq, Option.some.injEq] at w h
  omega

theorem trigger (d : DigNo) (n : Nat) (input : List Int) : Statement (.trigger d n input) :=
  fun _ _ h => nomatch h

theorem autoTimeout (d : DigNo) (input : List Int) : Statement (.autoTimeout d input) :=
  fun _ _ h => nomatch h

theorem triggerFlagSet (d : DigNo) (b : Nat) : Statement (.triggerFlagSet d b) := by
  intro w x h
  have w : (onBoundary b) = true := w
  have h : some b = some x := h
  simp only [onBoundary, beq_iff_eq, Option.some.injEq] at w h
  omega

theorem recordLastSample (d : DigNo) (n : Nat) (input : List Int) : Statement (.recordLastSample d n input) :=
  fun _ _ h => nomatch h

theorem acqRangeWrite (port : PortNo) (d : DigNo) (value : Word) (b : Nat) : Statement (.acqRangeWrite port d value b) := by
  intro w x h
  have w : (onBoundary b) = true := w
  have h : some b = some x := h
  simp only [onBoundary, beq_iff_eq, Option.some.injEq] at w h
  omega

theorem acqLineStage (d : DigNo) (ring : Fin 3) (input : List Int) : Statement (.acqLineStage d ring input) :=
  fun _ _ h => nomatch h

theorem pulseStart (port : PortNo) (c : ClNo) (mask : BitVec 16) (b : Nat) : Statement (.pulseStart port c mask b) := by
  intro w x h
  have w : (onBoundary b) = true := w
  have h : some b = some x := h
  simp only [onBoundary, beq_iff_eq, Option.some.injEq] at w h
  omega

theorem pulseEnd (p : PinNo) (g : Nat) : Statement (.pulseEnd p g) :=
  fun _ _ h => nomatch h

theorem adcStart (port : PortNo) (c : ClNo) (b : Nat) : Statement (.adcStart port c b) := by
  intro w x h
  have w : (onBoundary b) = true := w
  have h : some b = some x := h
  simp only [onBoundary, beq_iff_eq, Option.some.injEq] at w h
  omega

theorem adcTimerEvent (c : ClNo) (g : Nat) : Statement (.adcTimerEvent c g) :=
  fun _ _ h => nomatch h

theorem adcSequenceBegin (c : ClNo) (g : Nat) : Statement (.adcSequenceBegin c g) :=
  fun _ _ h => nomatch h

theorem adcSequenceEnd (c : ClNo) (g : Nat) (codes : List (BitVec 12)) : Statement (.adcSequenceEnd c g codes) :=
  fun _ _ h => nomatch h

theorem adcResultRead (port : PortNo) (conv : ConvNo) : Statement (.adcResultRead port conv) :=
  fun _ _ h => nomatch h

theorem pcCtrlWrite (port : PortNo) (r : RgNo) (value : Word) (be : BitVec 4) (b : Nat) : Statement (.pcCtrlWrite port r value be b) := by
  intro w x h
  have w : (onBoundary b) = true := w
  have h : some b = some x := h
  simp only [onBoundary, beq_iff_eq, Option.some.injEq] at w h
  omega

theorem pcConversion (r : RgNo) (g : Nat) (code : BitVec 12) : Statement (.pcConversion r g code) :=
  fun _ _ h => nomatch h

theorem calRequestTiming (port : PortNo) (c : ClNo) (b : Nat) : Statement (.calRequestTiming port c b) := by
  intro w x h
  have w : (onBoundary b) = true := w
  have h : some b = some x := h
  simp only [onBoundary, beq_iff_eq, Option.some.injEq] at w h
  omega

theorem calRequestDc (port : PortNo) (c : ClNo) (b : Nat) : Statement (.calRequestDc port c b) := by
  intro w x h
  have w : (onBoundary b) = true := w
  have h : some b = some x := h
  simp only [onBoundary, beq_iff_eq, Option.some.injEq] at w h
  omega

theorem calStart (c : ClNo) (kind : CalKind) (g : Nat) : Statement (.calStart c kind g) := by
  intro w x h
  have w : (onBoundary g) = true := w
  have h : some g = some x := h
  simp only [onBoundary, beq_iff_eq, Option.some.injEq] at w h
  omega

theorem calPass2 (c : ClNo) (g : Nat) : Statement (.calPass2 c g) := by
  intro w x h
  have w : (onBoundary g) = true := w
  have h : some g = some x := h
  simp only [onBoundary, beq_iff_eq, Option.some.injEq] at w h
  omega

theorem calEnd (c : ClNo) (g : Nat) (res : CalResults) : Statement (.calEnd c g res) := by
  intro w x h
  have w : (onBoundary g) = true := w
  have h : some g = some x := h
  simp only [onBoundary, beq_iff_eq, Option.some.injEq] at w h
  omega

theorem calApply (c : ClNo) (b : Nat) : Statement (.calApply c b) := by
  intro w x h
  have w : (onBoundary b) = true := w
  have h : some b = some x := h
  simp only [onBoundary, beq_iff_eq, Option.some.injEq] at w h
  omega

theorem driftMeasure (g : Nat) (refA : Int) (refB : Int) (vrefA : Int) (vrefB : Int) : Statement (.driftMeasure g refA refB vrefA vrefB) :=
  fun _ _ h => nomatch h

theorem timingFailover (g : Nat) (othersIdle : Bool) : Statement (.timingFailover g othersIdle) :=
  fun _ _ h => nomatch h

theorem scrubRead (w : Walker) (finds : Finds) : Statement (.scrubRead w finds) :=
  fun _ _ h => nomatch h

theorem storeReload (storeAddr : Nat) (flashError : Bool) : Statement (.storeReload storeAddr flashError) :=
  fun _ _ h => nomatch h

theorem blockTest (t : Tester) : Statement (.blockTest t) :=
  fun _ _ h => nomatch h

theorem blockTestDone (t : Tester) (faultyRows : List Nat) : Statement (.blockTestDone t faultyRows) :=
  fun _ _ h => nomatch h

theorem pprGo (port : PortNo) (r : RgNo) (value : Word) : Statement (.pprGo port r value) :=
  fun _ _ h => nomatch h

theorem pprDone (r : RgNo) (resourceLeft : Bool) : Statement (.pprDone r resourceLeft) :=
  fun _ _ h => nomatch h

theorem memPatWrite (port : PortNo) (r : RgNo) (n : Fin 16) (w : Fin 5) (value : Word) (be : BitVec 4) : Statement (.memPatWrite port r n w value be) :=
  fun _ _ h => nomatch h

theorem wipe (port : PortNo) : Statement (.wipe port) :=
  fun _ _ h => nomatch h

theorem wipeEnd : Statement (.wipeEnd) :=
  fun _ _ h => nomatch h

theorem tamper : Statement (.tamper) :=
  fun _ _ h => nomatch h

theorem ringTailWrite (port : PortNo) (ring : RingNo) (tail : BitVec 16) : Statement (.ringTailWrite port ring tail) :=
  fun _ _ h => nomatch h

theorem doorbell (port : PortNo) (value : Word) : Statement (.doorbell port value) :=
  fun _ _ h => nomatch h

theorem descriptorFetch (ring : RingNo) (finds : Finds) (remote : Payload) (fails : Bool) : Statement (.descriptorFetch ring finds remote fails) :=
  fun _ _ h => nomatch h

theorem ringRestart (port : PortNo) (ring : RingNo) : Statement (.ringRestart port ring) :=
  fun _ _ h => nomatch h

theorem burstStart (ring : RingNo) (g : Nat) (finds : Finds) (remote : List Payload) : Statement (.burstStart ring g finds remote) :=
  fun _ _ h => nomatch h

theorem dmaBeat (e : DmaNo) (finds : Finds) (remote : Payload) (fails : WriteFails) : Statement (.dmaBeat e finds remote fails) :=
  fun _ _ h => nomatch h

theorem burstComplete (ring : RingNo) (finds : Finds) (fails : Bool) : Statement (.burstComplete ring finds fails) :=
  fun _ _ h => nomatch h

theorem ringAlloc (port : PortNo) (r : RgNo) : Statement (.ringAlloc port r) :=
  fun _ _ h => nomatch h

theorem ringFree (port : PortNo) (r : RgNo) (value : Word) : Statement (.ringFree port r value) :=
  fun _ _ h => nomatch h

theorem poolTake (port : PortNo) (r : RgNo) : Statement (.poolTake port r) :=
  fun _ _ h => nomatch h

theorem poolPut (port : PortNo) (r : RgNo) (value : Word) : Statement (.poolPut port r value) :=
  fun _ _ h => nomatch h

theorem flowGo (port : PortNo) (n : FlowNo) : Statement (.flowGo port n) :=
  fun _ _ h => nomatch h

theorem flowStartFlag (n : FlowNo) : Statement (.flowStartFlag n) :=
  fun _ _ h => nomatch h

theorem flowCont (port : PortNo) (n : FlowNo) : Statement (.flowCont port n) :=
  fun _ _ h => nomatch h

theorem pattern (n : FlowNo) (finds : Finds) : Statement (.pattern n finds) :=
  fun _ _ h => nomatch h

theorem measure (n : FlowNo) (finds : Finds) : Statement (.measure n finds) :=
  fun _ _ h => nomatch h

theorem limit (n : FlowNo) (finds : Finds) : Statement (.limit n finds) :=
  fun _ _ h => nomatch h

theorem branch (n : FlowNo) (finds : Finds) : Statement (.branch n finds) :=
  fun _ _ h => nomatch h

theorem bin (n : FlowNo) (finds : Finds) : Statement (.bin n finds) :=
  fun _ _ h => nomatch h

theorem log (n : FlowNo) (finds : Finds) : Statement (.log n finds) :=
  fun _ _ h => nomatch h

theorem cal (n : FlowNo) (finds : Finds) : Statement (.cal n finds) :=
  fun _ _ h => nomatch h

theorem flowWait (n : FlowNo) (finds : Finds) : Statement (.flowWait n finds) :=
  fun _ _ h => nomatch h

theorem share (n : FlowNo) (finds : Finds) : Statement (.share n finds) :=
  fun _ _ h => nomatch h

theorem endEntry (n : FlowNo) (finds : Finds) : Statement (.endEntry n finds) :=
  fun _ _ h => nomatch h

theorem flowEntryComplete (n : FlowNo) (g : Nat) : Statement (.flowEntryComplete n g) :=
  fun _ _ h => nomatch h

theorem logRptrWrite (port : PortNo) (value : Word) : Statement (.logRptrWrite port value) :=
  fun _ _ h => nomatch h

theorem flowConfigWrite (port : PortNo) (addr : Nat) (value : Word) (be : BitVec 4) : Statement (.flowConfigWrite port addr value be) :=
  fun _ _ h => nomatch h

theorem summaryArrive (c : ClNo) : Statement (.summaryArrive c) :=
  fun _ _ h => nomatch h

theorem benchTake : Statement (.benchTake) :=
  fun _ _ h => nomatch h

theorem packageSummaryTake (arrived : List PkgSummary) : Statement (.packageSummaryTake arrived) :=
  fun _ _ h => nomatch h

theorem modReqWrite (port : PortNo) (c : ClNo) (value : Word) (be : BitVec 4) : Statement (.modReqWrite port c value be) :=
  fun _ _ h => nomatch h

theorem modeShutdownDone (c : ClNo) (mode : Fin 6) (b : Nat) : Statement (.modeShutdownDone c mode b) := by
  intro w x h
  have w : (onBoundary b) = true := w
  have h : some b = some x := h
  simp only [onBoundary, beq_iff_eq, Option.some.injEq] at w h
  omega

theorem drain (port : PortNo) (c : ClNo) (cut : Bool) (d : Nat) : Statement (.drain port c cut d) := by
  intro w x h
  have w : (onBoundary d) = true := w
  have h : some d = some x := h
  simp only [onBoundary, beq_iff_eq, Option.some.injEq] at w h
  omega

theorem drainEnd (c : ClNo) (g : Nat) : Statement (.drainEnd c g) :=
  fun _ _ h => nomatch h

theorem drained (c : ClNo) : Statement (.drained c) :=
  fun _ _ h => nomatch h

theorem reload (port : PortNo) (c : ClNo) : Statement (.reload port c) :=
  fun _ _ h => nomatch h

theorem memtest (port : PortNo) (c : ClNo) : Statement (.memtest port c) :=
  fun _ _ h => nomatch h

theorem activate (port : PortNo) (c : ClNo) : Statement (.activate port c) :=
  fun _ _ h => nomatch h

theorem recover (port : PortNo) (c : ClNo) (resume : BitVec 6) (b : Nat) : Statement (.recover port c resume b) := by
  intro w x h
  have w : (onBoundary b) = true := w
  have h : some b = some x := h
  simp only [onBoundary, beq_iff_eq, Option.some.injEq] at w h
  omega

theorem svcOpRefused (port : PortNo) (c : ClNo) (value : Word) : Statement (.svcOpRefused port c value) :=
  fun _ _ h => nomatch h

theorem svcCommandDone (c : ClNo) (g : Nat) (result : SvcEnd) (faultyRows : List Nat) : Statement (.svcCommandDone c g result faultyRows) :=
  fun _ _ h => nomatch h

theorem flashRead (port : PortNo) : Statement (.flashRead port) :=
  fun _ _ h => nomatch h

theorem flashProgram (port : PortNo) : Statement (.flashProgram port) :=
  fun _ _ h => nomatch h

theorem flashErase (port : PortNo) : Statement (.flashErase port) :=
  fun _ _ h => nomatch h

theorem flashOpRefused (port : PortNo) : Statement (.flashOpRefused port) :=
  fun _ _ h => nomatch h

theorem flashCmdDone (error : Bool) : Statement (.flashCmdDone error) :=
  fun _ _ h => nomatch h

theorem reboot (port : PortNo) : Statement (.reboot port) :=
  fun _ _ h => nomatch h

theorem actHub (port : PortNo) : Statement (.actHub port) :=
  fun _ _ h => nomatch h

theorem actHubDone (flashError : Bool) (fetchErrors : List Nat) : Statement (.actHubDone flashError fetchErrors) :=
  fun _ _ h => nomatch h

theorem lcTransition (port : PortNo) (value : Word) : Statement (.lcTransition port value) :=
  fun _ _ h => nomatch h

theorem lcFusesProgrammed : Statement (.lcFusesProgrammed) :=
  fun _ _ h => nomatch h

theorem repairAppend (array : Nat) (inst : Nat) (bank : Nat) (row : Nat) (spare : Nat) : Statement (.repairAppend array inst bank row spare) :=
  fun _ _ h => nomatch h

theorem partnerLinkTrained (port : PortNo) (rate : Fin 7) (width : Fin 3) : Statement (.partnerLinkTrained port rate width) :=
  fun _ _ h => nomatch h

theorem partnerMemoryWrite (port : PortNo) (offset : Nat) (data : List (Option Byte)) (finds : Finds) : Statement (.partnerMemoryWrite port offset data finds) :=
  fun _ _ h => nomatch h

theorem partnerMemoryRead (port : PortNo) (offset : Nat) (len : Nat) (finds : Finds) (remote : Payload) : Statement (.partnerMemoryRead port offset len finds remote) :=
  fun _ _ h => nomatch h

theorem partnerReadTimeout (port : PortNo) (addr : Nat) : Statement (.partnerReadTimeout port addr) :=
  fun _ _ h => nomatch h

theorem oversizedRegisterRequest (port : PortNo) (addr : Nat) (isWrite : Bool) : Statement (.oversizedRegisterRequest port addr isWrite) :=
  fun _ _ h => nomatch h

theorem evtRptrWrite (port : PortNo) (n : PortNo) (value : Word) : Statement (.evtRptrWrite port n value) :=
  fun _ _ h => nomatch h

theorem expansionLinkChange (x : ExpNo) (up : Bool) (bytes : Nat) : Statement (.expansionLinkChange x up bytes) :=
  fun _ _ h => nomatch h

theorem vyeneLinkTrained (n : LinkNo) (lanes : Nat) (peer : Identity) (peerLink : LinkNo) (w : Nat) : Statement (.vyeneLinkTrained n lanes peer peerLink w) :=
  fun _ _ h => nomatch h

theorem vyeneLinkDrop (n : Option LinkNo) (lost : List Nat) : Statement (.vyeneLinkDrop n lost) :=
  fun _ _ h => nomatch h

theorem systemDeclare (w : Nat) : Statement (.systemDeclare w) :=
  fun _ _ h => nomatch h

theorem idAssignment (tag : Nat) (uids : List Nat) (reserved : BitVec 16) (declared : Bool) : Statement (.idAssignment tag uids reserved declared) :=
  fun _ _ h => nomatch h

theorem systemJoin (n : LinkNo) (joiner : Identity) (refused : Option LinkNo) : Statement (.systemJoin n joiner refused) :=
  fun _ _ h => nomatch h

theorem elect (port : PortNo) : Statement (.elect port) :=
  fun _ _ h => nomatch h

theorem election (others : List (BitVec 32)) : Statement (.election others) :=
  fun _ _ h => nomatch h

theorem lease (g : Nat) : Statement (.lease g) :=
  fun _ _ h => nomatch h

theorem leaseReceive (n : LinkNo) (epoch : BitVec 32) (master : PkgNo) (gt : Nat) : Statement (.leaseReceive n epoch master gt) :=
  fun _ _ h => nomatch h

theorem leaseLapse (g : Nat) : Statement (.leaseLapse g) :=
  fun _ _ h => nomatch h

theorem conflict (g : Nat) (claimant : PkgNo) : Statement (.conflict g claimant) :=
  fun _ _ h => nomatch h

theorem conflictSafeState (g : Nat) : Statement (.conflictSafeState g) :=
  fun _ _ h => nomatch h

theorem dowel (port : Option PortNo) : Statement (.dowel port) :=
  fun _ _ h => nomatch h

theorem release (port : PortNo) (id : PkgNo) : Statement (.release port id) :=
  fun _ _ h => nomatch h

theorem alignment (n : LinkNo) (g : Nat) (pairs : List StampPair) (far : List Neighbour) : Statement (.alignment n g pairs far) := by
  intro w x h
  have w : (onBoundary g && ofLength 16 pairs) = true := w
  have h : some g = some x := h
  simp only [onBoundary, Bool.and_eq_true, beq_iff_eq, Option.some.injEq] at w h
  omega

theorem lAdopt (g : Nat) (links : List PkgLink) : Statement (.lAdopt g links) :=
  fun _ _ h => nomatch h

theorem systemConditionMessage (m : SysMessage) (g : Nat) : Statement (.systemConditionMessage m g) :=
  fun _ _ h => nomatch h

theorem syncOutPulse (g : Nat) : Statement (.syncOutPulse g) :=
  fun _ _ h => nomatch h

theorem syncInEdge (g : Nat) : Statement (.syncInEdge g) :=
  fun _ _ h => nomatch h

theorem readS (requester : PkgNo) (line : Nat) (reply : Payload) (finds : Finds) : Statement (.readS requester line reply finds) :=
  fun _ _ h => nomatch h

theorem readX (requester : PkgNo) (line : Nat) (reply : Payload) (finds : Finds) : Statement (.readX requester line reply finds) :=
  fun _ _ h => nomatch h

theorem upgrade (requester : PkgNo) (line : Nat) (finds : Finds) : Statement (.upgrade requester line finds) :=
  fun _ _ h => nomatch h

theorem putM (sender : PkgNo) (line : Nat) (data : Payload) (finds : Finds) : Statement (.putM sender line data finds) :=
  fun _ _ h => nomatch h

theorem putE (sender : PkgNo) (line : Nat) (finds : Finds) : Statement (.putE sender line finds) :=
  fun _ _ h => nomatch h

theorem fwdS (target : PkgNo) (line : Nat) (answer : SnoopAnswer) (finds : Finds) : Statement (.fwdS target line answer finds) :=
  fun _ _ h => nomatch h

theorem fwdX (target : PkgNo) (line : Nat) (answer : SnoopAnswer) (finds : Finds) : Statement (.fwdX target line answer finds) :=
  fun _ _ h => nomatch h

theorem inv (target : PkgNo) (line : Nat) (finds : Finds) : Statement (.inv target line finds) :=
  fun _ _ h => nomatch h

theorem snoopTargetUnreachable (target : PkgNo) : Statement (.snoopTargetUnreachable target) :=
  fun _ _ h => nomatch h

theorem tamperNHigh : Statement (.tamperNHigh) :=
  fun _ _ h => nomatch h

theorem flitResend (n : LinkNo) : Statement (.flitResend n) :=
  fun _ _ h => nomatch h

theorem atomicopRequest (port : PortNo) : Statement (.atomicopRequest port) :=
  fun _ _ h => nomatch h

theorem remoteAccess (fromPkg : PkgNo) (addr : Nat) (data : List (Option Byte)) (len : Nat) (poison : Bool) (finds : Finds) : Statement (.remoteAccess fromPkg addr data len poison finds) :=
  fun _ _ h => nomatch h

end Sys2Proof.Laws.Boundary
end

