-- ==== Sys2Proof/Tests/Slice0.lean ====
section
/-! SUPPORT. Small tests: what WellFormed refuses, a state for the hypotheses of every statement, and results the spec works out. -/

namespace Sys2Proof.Tests

open Sys2Proof Sys2Proof.Machine

set_option Elab.async false

/-! States to start from. -/

/-- A package with boot done. -/
def awake : State :=
  ({ State.reset with resetN := true, boot := { phase := 8 } }).setBit BOOT_STAT BOOT_STAT_BOOTING false

/-- A state with registers at other values. -/
def given (s : State) (l : List (Nat × Word)) : State := l.foldl (fun s x => s.setReg x.1 x.2) s

/-- A word with some fields at other values. -/
def fields (l : List (Fld × Nat)) : Word := l.foldl (fun w x => setF w x.1 x.2) 0

/-- Bytes listed from a key on. -/
def cells (a : Nat) : List Byte → Tbl Byte
  | [] => []
  | b :: l => (a, b) :: cells (a + 1) l

/-- Table 16-1 for a bank whose only section is CONFIG, 128 erased bytes at 4,096. -/
def headerBody : List Byte :=
  leBytes 4 0x3147494A ++ leBytes 4 1 ++ leBytes 4 7 ++ leBytes 4 0 ++ leBytes 8 4096 ++ leBytes 8 128 ++
    sha256 (List.replicate 128 0xFF) ++ List.replicate 928 0

/-- Bank A holds a jig. -/
def jig : State := { awake with flash := cells 0 (headerBody ++ sha256 headerBody) }

theorem tget_cells_above (l : List Byte) : ∀ (a n : Nat), n < a → tget (fun _ => (0xFF : Byte)) (cells a l) n = 0xFF := by
  induction l with
  | nil => intro a n _; rfl
  | cons b l ih => intro a n h; simp only [cells, tget]; rw [if_neg (by omega)]; exact ih _ _ (by omega)

theorem tget_cells (l : List Byte) : ∀ (a i : Nat) (h : i < l.length),
    tget (fun _ => (0xFF : Byte)) (cells a l) (a + i) = l[i] := by
  induction l with
  | nil => intro a i h; simp at h
  | cons b l ih =>
    intro a i h
    cases i with
    | zero => simp [cells, tget]
    | succ i =>
      simp only [cells, tget]; rw [if_neg (by omega)]
      have := ih (a + 1) i (by simpa using h)
      rw [show a + (i + 1) = a + 1 + i by omega, this]; rfl

theorem tgets_cells (l : List Byte) : ∀ (n i : Nat), i + n ≤ l.length →
    tgets (fun _ => (0xFF : Byte)) (cells 0 l) i n = (l.drop i).take n := by
  intro n
  induction n with
  | zero => intro i _; simp [tgets]
  | succ n ih =>
    intro i h
    have hi : i < l.length := by omega
    have e := tget_cells l 0 i hi
    rw [Nat.zero_add] at e
    rw [tgets, e, ih (i + 1) (by omega), List.drop_eq_getElem_cons hi, List.take_succ_cons]

theorem headerBody_length : headerBody.length = 992 := by decide +kernel

/-- What a bank read from the start of the flash holds. -/
theorem jig_bytes (i n : Nat) (h : i + n ≤ 992) : jig.flashBytes i n = (headerBody.drop i).take n := by
  have e : headerBody.length = 992 := headerBody_length
  have := tgets_cells (headerBody ++ sha256 headerBody) n i (by rw [List.length_append]; omega)
  unfold State.flashBytes
  rw [show jig.flash = cells 0 (headerBody ++ sha256 headerBody) from rfl, this]
  rw [List.drop_append_of_le_length (by omega), List.take_append_of_le_length (by rw [List.length_drop]; omega)]

theorem shaRound_length (k : Word) (l : List Word) : (shaRound k l).length = l.length := by
  unfold shaRound; split <;> rfl

theorem shaBlocks_length (n : Nat) : ∀ (x : List Word) (l : List Byte), (shaBlocks n x l).length = x.length := by
  have key : ∀ (ks l : List Word), (ks.foldl (fun x kw => shaRound kw x) l).length = l.length := by
    intro ks
    induction ks with
    | nil => intro l; rfl
    | cons k ks ih => intro l; rw [List.foldl_cons, ih, shaRound_length]
  induction n with
  | zero => intro x l; rfl
  | succ n ih =>
    intro x l
    rw [shaBlocks, ih, shaBlock, List.length_zipWith, key, Nat.min_self]

/-- A digest has 32 bytes. -/
theorem sha256_length (l : List Byte) : (sha256 l).length = 32 := by
  have e : shaStart.length = 8 := by decide +kernel
  unfold sha256
  rw [List.length_flatMap, List.map_congr_left (g := fun _ => 4) (fun w _ => by simp [leBytes]), List.map_const', shaBlocks_length, e]
  rfl

theorem jig_headerValid : jig.headerValid 0 = true := by
  have e : headerBody.length = 992 := headerBody_length
  have len : (sha256 headerBody).length = 32 := sha256_length _
  have dig : jig.flashBytes 0x3E0 32 = sha256 headerBody := by
    have := tgets_cells (headerBody ++ sha256 headerBody) 32 992 (by rw [List.length_append]; omega)
    unfold State.flashBytes
    rw [show jig.flash = cells 0 (headerBody ++ sha256 headerBody) from rfl, this, List.drop_left' e, List.take_of_length_le (by omega)]
  have all : jig.flashBytes 0 992 = headerBody := by
    rw [jig_bytes 0 992 (by omega), List.drop_zero, List.take_of_length_le (by omega)]
  have num : ∀ i n, i + n ≤ 992 → jig.flashNat i n = ofLe ((headerBody.drop i).take n) := fun i n h => by
    unfold State.flashNat; rw [jig_bytes i n h]
  generalize jig = s at dig all num
  have len (n : Nat) (h : n ∈ sections) : s.secLen 0 n = if n = 1 then 128 else 0 := by
    unfold State.secLen
    simp only [sections, List.mem_cons, List.not_mem_nil, or_false] at h
    rcases h with rfl | rfl | rfl | rfl | rfl | rfl | rfl | rfl | rfl <;> rw [show bankBase 0 = 0 from rfl, num _ _ (by omega)] <;> decide +kernel
  have off : s.secOff 0 1 = 4096 := by
    unfold State.secOff; rw [show bankBase 0 = 0 from rfl, num _ _ (by omega)]; decide +kernel
  have has (n : Nat) (h : n ∈ sections) : s.secHas 0 n = decide (n = 1) := by
    unfold State.secHas; rw [len n h]; by_cases e : n = 1 <;> simp [e]
  have magic : s.flashNat 0 4 = 0x3147494A ∧ s.flashNat 4 2 = 1 := by
    rw [num _ _ (by omega), num _ _ (by omega)]; decide +kernel
  have h1 : s.secHas 0 1 = true := by rw [has 1 (by decide)]; rfl
  have no (n : Nat) (h : n ∈ sections) (e : n ≠ 1) : s.secHas 0 n = false := by rw [has n h]; simp [e]
  have l1 : s.secLen 0 1 = 128 := len 1 (by decide)
  unfold State.headerValid State.secsInOrder
  simp [bankBase, dig, all, magic.1, magic.2, sections, h1, l1, off, no 2 (by decide) (by decide), no 3 (by decide) (by decide),
    no 4 (by decide) (by decide), no 5 (by decide) (by decide), no 6 (by decide) (by decide), no 7 (by decide) (by decide),
    no 8 (by decide) (by decide), no 9 (by decide) (by decide)]

/-! For every statement, a state and operands that meet its hypotheses. -/

/-- This package is package 0 of a system with tag 9 and package 3, and its master. -/
def inDomain : State :=
  given awake [(VYN_TAG_LO, 9), (VYN_IDS, fields [(VYN_IDS_PRESENT, 9)]), (VYN_SYS_STAT, fields [(VYN_SYS_STAT_IS_MASTER, 1)])]

theorem meets_FlagsChangeByRegisterAndMessage :
    awake.reaches (ENG_FLAG_CL_SET 5) ∧ (∃ k, flagReg (ENG_FLAG_CL_SET 5) = some (k, true)) ∧
    (∃ k, flagReg (ENG_FLAG_CL_SET 5 + 4) = some (k, false)) ∧
    (let s := { inDomain with sysFlagDue := [(5, 64, true, 9)] }
     (∃ x ∈ s.sysFlagDue, x.1 = 5 ∧ x.2.1 = 64 ∧ x.2.2.1 = true) ∧ s.lateFlags = [] ∧ s.domainOthers ≠ 0 ∧
     ∀ x ∈ s.sysFlagDue, x.2.2.2 ≠ srcPackage 3 1) ∧ awake.domainOthers = 0 := by
  refine ⟨by decide +kernel, ⟨_, rfl⟩, ⟨_, rfl⟩, by decide +kernel⟩

theorem meets_PackageResetsAndBootStart : awake.reaches BOOT_CTRL ∧ awake.boot.lcTarget = none ∧ State.reset.resetN = false := by decide +kernel

/-- The jig read during boot. -/
def jigRead : State := { jig with boot := { phase := 1 } }

/-- Boot waits at phase 7 with every calibration done. -/
def calibrated : State :=
  { State.reset with boot := { phase := 7, modes := [3, 5] }
                     clusters := (List.range 64).map (fun c => (c, { gauge := { endedT := 1, endedDc := 1 } })) }

theorem meets_BootChoosesABankAndEnds :
    jigRead.boot.phase = 1 ∧ jigRead.headerValid 0 = true ∧ (jigRead.headerValid 1 = true → jigRead.bankGen 1 < jigRead.bankGen 0) ∧
    ({ State.reset with boot := { phase := 1 } } : State).headerValid 0 = false ∧
    ({ State.reset with boot := { phase := 1 } } : State).headerValid 1 = false ∧
    calibrated.boot.phase = 7 ∧ (∀ c, c < 64 → calibrated.bootCalibrated c = true) ∧
    State.reset.bit BOOT_STAT BOOT_STAT_BOOTING = true := by
  refine ⟨rfl, jig_headerValid, fun h => ?_, ?_⟩
  · have : jigRead.headerValid 1 = false := by decide +kernel
    rw [this] at h; cases h
  · decide +kernel

/-- A directory entry for PATTERN at 8,192 and one FETCH record there, from expansion port 0, with its digest. -/
def fetchRecord : List Byte :=
  leBytes 4 4 ++ leBytes 4 48 ++ leBytes 8 0x30200000000 ++ leBytes 8 0x10000000000 ++ leBytes 8 64 ++ List.replicate 32 0

/-- Boot at PATTERN, which holds one record, in a bank without FLOW. -/
def patternOf (l : List Byte) : State :=
  { State.reset with
    boot := { phase := 5, section_ := 5 }
    flash := cells (0x10 + 48 * 3) (List.replicate 48 0 ++ leBytes 8 8192 ++ leBytes 8 64 ++ sha256 l) ++ cells 8192 l }

/-- It waits for the expansion port. -/
def patternRead : State := patternOf fetchRecord

/-- Its record is of a kind that Table 16-3 does not know. -/
def patternBad : State := patternOf (leBytes 4 99 ++ leBytes 4 48 ++ List.replicate 56 0)

theorem meets_BootLoadsSections :
    ({ jig with boot := { phase := 3 } } : State).secGood 0 8 = true ∧
    (({ jig with boot := { phase := 3 } } : State).loadSection 0 8 []).isSome = true ∧
    ({ jig with boot := { phase := 4 } } : State).secGood 0 4 = true ∧ ({ jig with boot := { phase := 4 } } : State).secHas 0 4 = false ∧
    patternRead.secGood 0 5 = true ∧ patternRead.fetchWaits 0 = true ∧
    patternBad.secGood 0 5 = true ∧ patternBad.fetchWaits 0 = false ∧ (patternBad.loadSection 0 5 []).isNone = true ∧
    ({ jig with boot := { phase := 3, bank := 1 } } : State).headerValid (otherBank 1) = true ∧ otherBank 1 ∉ ([] : List Nat) ∧
    otherBank 1 ∈ [0] := by
  refine ⟨?_, rfl, ?_, ?_, ?_, ?_, ?_, ?_, ?_, jig_headerValid, ?_⟩ <;> decide +kernel

theorem meets_FlashCommandsRunOrAreRefused :
    (given awake [(BOOT_FL_ADDR, 0x40010100)]).reaches BOOT_FL_CMD ∧
    (given awake [(BOOT_FL_ADDR, 0x40010100)]).bit BOOT_STAT BOOT_STAT_BOOTING = false ∧
    (given awake [(BOOT_FL_ADDR, 0x40010100)]).bit BOOT_FL_CMD BOOT_FL_CMD_BUSY = false ∧
    (given awake [(BOOT_FL_ADDR, 0x40010100)]).bankNamed 1 = false ∧ awake.bankNamed 0 = true ∧
    ({ awake with boot := { flashOp := some (2, 65536) } } : State).boot.flashOp = some (2, 65536) := by decide +kernel

/-- Bank A is the other bank. -/
def otherJig : State := given jig [(BOOT_STAT, fields [(BOOT_STAT_ACTIVE_BANK, 1)])]

theorem meets_HubActivationBeginsAndEnds :
    otherJig.reaches BOOT_CTRL ∧ otherJig.bit BOOT_STAT BOOT_STAT_ACTIVATING = false ∧ otherJig.bit BOOT_STAT BOOT_STAT_BOOTING = false ∧
    (∀ n, n < 8 → otherJig.bit (FLW_STAT n) FLW_STAT_RUNNING = false) ∧
    otherJig.headerValid (otherBank (otherJig.fld BOOT_STAT BOOT_STAT_ACTIVE_BANK)) = true ∧
    ({ otherJig with boot := { otherJig.boot with actHub := true } } : State).boot.actHub = true ∧
    otherJig.fetchWaits (otherBank (otherJig.fld BOOT_STAT BOOT_STAT_ACTIVE_BANK)) = false ∧
    (otherJig.activateHub (otherBank (otherJig.fld BOOT_STAT BOOT_STAT_ACTIVE_BANK)) []).isSome = true ∧
    (let s := given patternRead [(BOOT_STAT, fields [(BOOT_STAT_ACTIVE_BANK, 1)])]
     s.fetchWaits (otherBank (s.fld BOOT_STAT BOOT_STAT_ACTIVE_BANK)) = true ∧
     s.fld BOOT_STAT BOOT_STAT_ACTIVE_BANK = 1) ∧
    (let s := given patternBad [(BOOT_STAT, fields [(BOOT_STAT_ACTIVE_BANK, 1)])]
     s.fetchWaits (otherBank (s.fld BOOT_STAT BOOT_STAT_ACTIVE_BANK)) = false ∧
     (s.activateHub (otherBank (s.fld BOOT_STAT BOOT_STAT_ACTIVE_BANK)) []).isNone = true) ∧
    awake.headerValid (otherBank (awake.fld BOOT_STAT BOOT_STAT_ACTIVE_BANK)) = false := by
  have e : otherBank (otherJig.fld BOOT_STAT BOOT_STAT_ACTIVE_BANK) = 0 := by decide +kernel
  rw [e]
  refine ⟨?_, ?_, ?_, ?_, jig_headerValid, ?_⟩ <;> decide +kernel

/-- A package with a repair to program and one erased REPAIR entry at 8,192. -/
def repairing : State :=
  { awake with
    boot := { appends := [(0, 3, 2, 1, 4)], lcTarget := some 2 }
    flash := cells (0x10 + 48 * 7) (leBytes 8 8192 ++ leBytes 8 16) }

theorem meets_LifeCycleRepairsAndWipes :
    awake.reaches BOOT_LC_CMD ∧ getF (0x80014C43 : Word) BOOT_LC_CMD_GO = 1 ∧ awake.runs = [] ∧
    (∀ n, n < 8 → awake.bit (FLW_STAT n) FLW_STAT_RUNNING = false) ∧ repairing.boot.lcTarget = some 2 ∧
    (given repairing [(SEC_STAT, 0)]).bit SEC_STAT SEC_STAT_WIPING = false ∧
    (0, 3, 2, 1, 4) ∈ repairing.boot.appends ∧ repairing.erasedRepair 0 = some 8192 ∧
    ({ repairing with flash := cells (0x10 + 48 * 7) (List.replicate 16 0) } : State).erasedRepair 0 = none ∧ awake.reaches SEC_CTRL ∧
    State.reset.bit SEC_STAT SEC_STAT_WIPING = true ∧ State.reset.fld SEC_STAT SEC_STAT_WIPES < 2 ^ SEC_STAT_WIPES.width - 1 := by
  decide +kernel

theorem meets_TheTimebaseLocksHoldsOverAndSlews :
    awake.bit SYS_REF_CTRL SYS_REF_CTRL_LOCKED = false ∧ 5 ≤ awake.boot.phase ∧ awake.boot.phase ≤ 8 ∧
    (given awake [(SYS_REF_CTRL, fields [(SYS_REF_CTRL_LOCKED, 1)])]).bit SYS_REF_CTRL SYS_REF_CTRL_HOLDOVER = false ∧
    (let s := { given awake [(SYS_REF_CTRL, fields [(SYS_REF_CTRL_HOLDOVER, 1)])] with
       hub := { holdSince := some 5, slewing := true, phaseErr := -3, slewAt := 64 } }
     s.bit SYS_REF_CTRL SYS_REF_CTRL_HOLDOVER = true ∧ s.hub.holdSince = some (67108869 - 67108864) ∧ s.hub.slewing = true ∧
     s.hub.phaseErr ≠ 0 ∧ s.hub.slewAt ≤ 64) ∧
    (let h : HubSt := { aligning := true, phaseErr := 1 }
     h.slewing = false ∧ h.aligning = true ∧ h.phaseErr ≠ 0) := by decide +kernel

/-- A register is locked to its reference. -/
def locked (s : State) : State := given s [(SYS_REF_CTRL, fields [(SYS_REF_CTRL_LOCKED, 1)])]

theorem meets_ReferenceSwitchesHoldThePins :
    awake.reaches SYS_REF_CTRL ∧ (awake.partnerWrite SYS_REF_CTRL 0xFFFFFFFF 15).reg SYS_REF_CTRL ≠ awake.reg SYS_REF_CTRL ∧
    (∀ c, c < 64 → awake.active c &&& 23 = 0) ∧
    ((given awake [(MOD_ACTIVE 63, 1)]).active 63 &&& 23 ≠ 0) ∧
    (awake.partnerWrite SYS_REF_CTRL 0 0).reg SYS_REF_CTRL = awake.reg SYS_REF_CTRL ∧
    ({ awake with hub := { failoverPending := true } } : State).hub.failoverPending = true ∧ awake.runs = [] ∧ awake.leadsDomain = false ∧
    inDomain.leadsDomain = true ∧
    (∀ c, c < 64 → (awake.cl c).gauge.interruption = none) := by decide +kernel

theorem meets_PairReadsAndMeasurements :
    pairHi SYS_GT_LO = some SYS_GT_HI ∧ awake.fencedAt SYS_GT_LO = false ∧
    (given awake [(SYS_VCORE_CTRL, fields [(SYS_VCORE_CTRL_MODE, 1)])]).bit SYS_VCORE_CTRL SYS_VCORE_CTRL_MODE = true := by decide +kernel

theorem meets_RegisterWritesReachTheirFields :
    (regLoc FLW_LOG_WPTR).isSome ∧ awake.reaches (PRT_BAR2 5) ∧ ((regLoc (PRT_EVT_CFG 1)).map (·.win)) = some 2 ∧
    ((regLoc (VYN_LINK_ERR 7)).map (·.blk)) = some 5 ∧ (regRow (VYN_LINK_ERR 7)).isSome ∧ awake.reaches (VYN_LINK_ERR 7) ∧
    ((regLoc (MOD_REQ 0)).map (·.win)) = some 0 ∧ ((regLoc (CMP_VTH_H 3 0)).map (·.blk)) = some 4 ∧
    ((regRow (CMP_VTH_H 3 0)).map (·.rw)) ≠ some 0 ∧ (regRow (CMP_VTH_H 3 0)).isSome ∧ awake.reaches (SYS_UNIT_MASK 63) ∧ regLoc 5 = none ∧
    (∀ a ∈ [SYS_UNIT_MASK 63, SCR_RPTR 63, SCR_CTRL 63, SCR_DRAIN 63],
      let m : PinMsg := { addr := a, value := 1, port := 0, sent := 64 }
      messageCluster a = some 63 ∧ (({ awake with inFlight := [m] } : State).inFlight = [] ++ m :: []) ∧ m.reached = none ∧ m.sent + 128 ≤ 192) ∧
    actsOnArrival 63 (SYS_UNIT_MASK 63) = false := by
  decide +kernel

theorem meets_PartnerReadsAndPorts :
    (regLoc (VYN_LINK_ERR 7)).isSome ∧ ((regRow (VYN_LINK_ERR 7)).map (·.rc)) ≠ some 0 ∧ awake.fencedAt (VYN_LINK_ERR 7) = false ∧
    pairHi (VYN_LINK_ERR 7) = none ∧ isPairHi (VYN_LINK_ERR 7) = false ∧
    (awake.readSpecial (VYN_LINK_ERR 7) ⟨2, 0, 5, 0x1C8⟩).isNone ∧ awake.reaches (PRT_EVT_RPTR 5) ∧
    (3 : Word) ≠ (given awake [(PRT_EVT_WPTR 5, 4), (PRT_EVT_CFG 5, fields [(PRT_EVT_CFG_IRQ_EN, 1)])]).reg (PRT_EVT_WPTR 5) ∧
    (given awake [(PRT_EVT_WPTR 5, 4), (PRT_EVT_CFG 5, fields [(PRT_EVT_CFG_IRQ_EN, 1)])]).bit (PRT_EVT_CFG 5) PRT_EVT_CFG_IRQ_EN = true := by
  decide +kernel

/-- BAR2 of port 2 begins at hub SRAM. -/
def bar2At : State := given awake [(PRT_BAR2 2, fields [(PRT_BAR2_BASE, 0x302)])]

theorem meets_MemoryAccessesReadAndWriteBytes :
    bar2At.bar2 2 0 / 2 ^ 42 = bar2At.pkgId ∧ bar2At.pkgId < 16 ∧ awake.bar2 2 5 = 5 ∧ awake.plain 5 4 ∧ awake.writeBarred 5 = false ∧
    awake.repairDue 5 = false ∧
    awake.anyPoison 5 4 = false ∧ (awake.setPoison 5 true).anyPoison 5 4 = true := by decide +kernel

theorem meets_SilentLinksAndFencesHoldRegions :
    (awake.rg 3).lastOn .hub + 32768 ≤ 32768 ∧ (awake.rg 3).silent .hub = false ∧ (awake.rg 3).safe = false ∧ (awake.rg 3).safeDue = none ∧
    ((awake.setRg 3 { safeDue := some 9 }).rg 3).safeDue = some 9 ∧ (awake.setRg 3 { safeDue := some 9 }).gt ≤ 9 := by decide +kernel

/-- Engine 0 plays in run 7, its bundle at address 0 with one leaf. -/
def playingState : State :=
  { awake with
    runs := [{ id := 7, engines := [0], admitted := true, start := some 0 }], nextRun := 8
    engines := [(0, { run := some 7, stream := { table := 0x1000, leaves := 1 } })] }

/-- Engine 0 with a decoder at the first frame of a leaf at address 4,096, whose lines are there. -/
def decoding (b : Byte) : State :=
  { playingState with
    engines := [(0, { run := some 7, main := { active := true, leaves := 1, addr := some 4096, lines := [64, 65] } })]
    mem := [(4096, b)] }

/-- Engine 0 with a decoder that has yet to read its leaf table at address 4,096. -/
def fetching : State := playingState.setEng 0 { run := some 7, main := { active := true, table := 0x1000, leaves := 1 } }

theorem meets_DecodersFollowTheStream :
    playingState.decodes 0 = true ∧ 0 / 4096 < (playingState.eng 0).stream.leaves ∧
    fetching.decodes 0 = true ∧ (fetching.eng 0).main.active = true ∧ (fetching.eng 0).main.wants (0x1000 / 64) = true ∧
    0x1000 / 64 ∉ (fetching.eng 0).main.lines ∧ 0x1000 / 64 ∉ (fetching.eng 0).main.badLines ∧
    fetching.readOk (64 * (0x1000 / 64)) 64 = true ∧ fetching.poisoned (64 * (0x1000 / 64)) = false ∧
    (decoding 0xC1).decodes 0 = true ∧
    (match parseFrame {} 0 0 ((decoding 0xC1).bytesAt 4096 1029) with
      | .got fs n => fs.length == 2 && n == 1
      | _ => false) = true ∧
    (∀ k ∈ linesOf 4096 1, k ∈ ((decoding 0xC1).eng 0).main.lines) ∧
    (match parseFrame {} 60 0 ((decoding 0xC7).bytesAt 4096 1029) with
      | .malformed n => n == 1
      | _ => false) = true := by decide +kernel

/-- A unit mask write that reached pin time before boundary 64. -/
def maskOnItsWay : State := { awake with inFlight := [{ addr := SYS_UNIT_MASK 1, value := 3, port := 0, reached := some 0 }] }

theorem meets_TenonsEnterAndLeaveTheMortise :
    playingState.clPlaying 0 = true ∧ playingState.formingIn 0 = none ∧ (playingState.cl 0).cutEnd = none ∧
    (playingState.fillSlots 0 .main [⟨0, 5, .idle⟩]).isSome ∧ (playingState.fillSlots 0 .shadow [⟨0, 5, .idle⟩]).isSome ∧
    (∀ l, hasEntry (playingState.cl 0).mortise ⟨64, playingState.pathMask 0 .main l, l⟩ = true) ∧
    (∀ l, hasEntry (playingState.cl 0).shadow ⟨64, playingState.pathMask 0 .shadow l, l⟩ = true) ∧
    (playingState.cl 0).boundary = none ∧ (playingState.setCl 0 { boundary := some 64 }).clPlaying 0 = true ∧
    ((playingState.setCl 0 { boundary := some 64 }).cl 0).boundary = some 64 ∧
    (playingState.fillSlots 0 .main [⟨0, 5, .vector 3⟩]).isNone ∧
    (∀ e ∈ clEngines 1, playingState.playsIn e 64 = false) ∧
    isCommand 1 (SYS_UNIT_MASK 1) = false ∧ SYS_UNIT_MASK 1 ≠ PMU_PULSE_CMD 1 ∧
    (playingState.forceBoundary 0 64 []).playsIn 0 64 = true ∧ ((playingState.forceBoundary 0 64 []).eng 0).pend.isNone = true ∧
    ((playingState.forceBoundary 0 64 []).eng 0).laneAt 64 = .main ∧
    (addTenons ((playingState.forceBoundary 0 64 []).cl 0).mortise ((playingState.forceBoundary 0 64 []).cl 0).waitTenons).1 = [] ∧
    maskOnItsWay.inFlight.filter (PinMsg.dueAt 1 64) = [{ addr := SYS_UNIT_MASK 1, value := 3, port := 0, reached := some 0 }] := by
  have hm : (playingState.cl 0).mortise = [] := by decide +kernel
  have hs : (playingState.cl 0).shadow = [] := by decide +kernel
  rw [hm, hs]
  (repeat' apply And.intro) <;> first | exact fun l => rfl | decide +kernel

/-- Run 7 of engine 0 waits for its admission. -/
def formed : Run := { id := 7, engines := [0] }

/-- Its package. -/
def formedState : State := { awake with runs := [formed], nextRun := 8, engines := [(0, { run := some 7 })] }

/-- Its bundle, at address 0, is one that admission takes. -/
def goodBundle : State := { formedState with mem := [(0, 0x56), (1, 0x4E), (2, 0x52), (3, 0x31), (4, 1)] }

theorem meets_RunsFormAndAreAdmitted :
    (given awake [(MOD_ACTIVE 63, 1)]).reaches (ENG_CTRL 63 3) ∧ getF (0x80000000 : Word) ENG_CTRL_START = 1 ∧ (awake.eng 255).run = none ∧
    (given awake [(MOD_ACTIVE 63, 1)]).hasMode 63 0 = true ∧
    (given awake [(MOD_ACTIVE 63, 1)]).fbit (SYS_UNIT_MASK 63) SYS_UNIT_MASK_EN_MASK 3 = false ∧
    (given awake [(MOD_ACTIVE 63, 1)]).domainOthers = 0 ∧ awake.storePoison = [] ∧
    awake.bit (MEM_PPR_STAT 7) MEM_PPR_STAT_BUSY = false ∧ awake.hasMode 63 0 = false ∧ awake.formingRun = none ∧
    formedState.formingRun = some formed ∧ formedState.hasMode 63 0 = false ∧
    formedState.engRun 0 = some formed ∧ (formedState.bundlesOf formed).findSome? formedState.damagedPat = none ∧
    (formedState.admissionReads formed []).any (fun y => ((y.2.releaseRun formed).admission y.1).isSome) = true ∧
    (let s := given formedState [(MEM_PAT_W1 0 0, fields [(MEM_PAT_W1_VALID, 1), (MEM_PAT_W1_DAMAGED, 1)]), (MEM_PAT_W2 0 0, 1)]
     (s.bundlesOf formed).findSome? s.damagedPat = some (0, 0)) ∧
    (let s := { given inDomain [(VNR_BUNDLE_LO 0, fields [(VNR_BUNDLE_LO_ADDR_LO, 0xC00000 / 128)]),
        (VNR_BUNDLE_HI 0, fields [(VNR_BUNDLE_HI_ADDR_HI, 0x303)])] with runs := [formed] }
     (s.bundlesOf formed).findSome? s.damagedPat = none ∧ (s.admissionReads formed []).isNone = true) ∧
    (goodBundle.bundlesOf formed).findSome? goodBundle.damagedPat = none ∧
    (goodBundle.admissionReads formed []).any (fun y => ((y.2.releaseRun formed).admission y.1).isNone) = true := by decide +kernel

/-- Engine 0 of run 7 waits, with no source to release it. -/
def waitingState : State := { playingState with engines := [(0, { run := some 7, waiting := true })] }

theorem meets_RunsStartAndEnd :
    (playingState.engRun 0).isSome ∧
    (({ playingState with runs := [{ id := 7, engines := [0], admitted := true, reports := [0] }] } : State).engRun 0) =
      some { id := 7, engines := [0], admitted := true, reports := [0] } ∧ playingState.gt ≤ 2176 ∧ playingState.domainOthers = 0 ∧
    (playingState.endsAt { id := 7, engines := [0], admitted := true, start := some 0 } 64).isNone ∧
    ({ playingState with engines := [(0, { run := some 7, halted := some 3 })] } : State).endsAt
      { id := 7, engines := [0], admitted := true, start := some 0 } 64 = some codeOk ∧
    (waitingState.eng 0).waiting = true ∧ waitingState.releaseSource { id := 7, engines := [0], admitted := true, start := some 0 } = false := by
  decide +kernel

/-- Engine 0 of run 7, started at grain 0. -/
def playingWith (x : EngSt) : State := { playingState with engines := [(0, { x with run := some 7 })] }

/-- Engine 0 plays a word that closes at grain 64. -/
def wordState (w : Micro) (x : EngSt) : State := playingWith { x with word := some w, nextAt := some 64 }

/-- A cycle of pin 0 with one drive edge and one strobe. -/
def someCycle : Cycle :=
  { start := 64, period := 64, ts := 0, stream := false, window := false, shape := 0, code := 4
    edges := [⟨true, 1, 0⟩, ⟨true, 2, 0⟩, {}, {}, ⟨true, 8, 0⟩, {}], trims := [0, 0, 0, 0, 0, 0], count := 0, vaddr := 0, eng := 0 }

/-- Engine 0 serves pin 0 and plays a word of vectors; the tenon in play holds that cycle start. -/
def slotState (y : TenonSlot) : State :=
  { playingWith { served := 1, word := some { cycles := 4, vmode := 0 }, period := 64, nextAt := some 256 } with
    clusters := [(0, { curMain := some ⟨0, 1, [y]⟩, boundary := some 0 })] }

/-- The cycle start is at grain 0. -/
def vectorState : State := slotState ⟨0, 0, .vector 0, none, 0, none⟩

theorem meets_PinsDriveTheirEdges :
    vectorState.servedBy 0 = some 0 ∧ (vectorState.eng 0).unpred = false ∧ (vectorState.eng 0).cycleIndex 0 = some 0 ∧
    (vectorState.eng 0).word = some { cycles := 4, vmode := 0 } ∧ vectorState.missingAt 0 0 = false ∧
    vectorState.tenonSlot 0 0 ((vectorState.eng 0).laneAt 0) (.vector 0) = some ⟨0, 0, .vector 0, none, 0, none⟩ ∧
    ((vectorState.at 0).dictCopy 0 ⟨0, 0, .vector 0, none, 0, none⟩ []).2.isSome = true ∧
    (let y : TenonSlot := ⟨0, 0, .vector 0, none, 0, some .lost⟩
     (slotState y).tenonSlot 0 0 (((slotState y).eng 0).laneAt 0) (.vector 0) = some y ∧ (slotState y).missingAt 0 0 = false) ∧
    (let y : TenonSlot := ⟨0, 0, .vector 0, some (5, 9), 0, none⟩
     (slotState y).tenonSlot 0 0 (((slotState y).eng 0).laneAt 0) (.vector 0) = some y ∧
     ((((slotState y).setPoison (dictAddr 0 5) true).at 0).dictCopy 0 y []).2.isNone = true) ∧
    (vectorState.updCl 0 (fun x => { x with missed := [0] })).missingAt 0 0 = true ∧
    ({ awake with pins := [(0, { cyc := some someCycle })] } : State).cycleOf 0 64 = some someCycle ∧
    someCycle.used (edgeIdx .don) = none ∧
    ({ someCycle with code := 1 } : Cycle).used (edgeIdx .d1) = some ⟨true, 2, 0⟩ ∧ ({ someCycle with code := 1 } : Cycle).cutAt 66 = false ∧
    ({ someCycle with code := 1 } : Cycle).beforeDz 66 = false ∧ awake.missingAt 0 66 = false := by decide +kernel

theorem meets_StrobesCompareTheirSamples :
    (locked awake).pinMasked 0 = false ∧ (locked awake).safePin 0 = false ∧ awake.safePin 0 = true ∧
    someCycle.strobeSpan .a = some (512, 512, 4) ∧ someCycle.cutAt (64 + 512 / 64) = false ∧
    awake.missingIn 0 (64 + 512 / 64) (64 + 512 / 64) = false ∧
    sampleCount (512, 512, 4) = 1 := by decide +kernel

/-- A Delta-4 entry of 16 granules, and its conversion. -/
def codingState : State := given awake [(SEG_SST_W0 0 3, fields [(SEG_SST_W0_VALID, 1)]), (SEG_SST_W1 0 3, fields [(SEG_SST_W1_LENGTH, 16)])]

theorem meets_PlayersAndDelta4Conversions :
    (given awake [(MOD_ACTIVE 0, 2)]).hasMode 0 1 = true ∧ awake.reaches (SEG_CODE_CMD 0) ∧ getB (0x80000003 : Word) 31 = true ∧
    getF (0x80000003 : Word) SEG_CODE_CMD_ENTRY = 3 ∧ codingState.segBad 0 (codingState.segStored 0 3) = false ∧
    (codingState.segStored 0 3).delta = false ∧ codingState.hasMode 0 1 = false ∧ codingState.coding 0 = none ∧
    awake.segBad 0 (awake.segStored 0 3) = true ∧
    (codingState.setCoding 0 (some { entry := 3, words := codingState.segStored 0 3 })).coding 0 =
      some { entry := 3, words := codingState.segStored 0 3 } ∧ 0 < (codingState.segStored 0 3).len ∧
    ({ awake with pins := [(0, { player := some { entry := 3, words := codingState.segStored 0 3, playStart := 64, last := 0, plays := 0 } })] }
      : State).pin 0 = { player := some { entry := 3, words := codingState.segStored 0 3, playStart := 64, last := 0, plays := 0 } } ∧
    codingState.anyPoison (segAddr 0 (codingState.segStored 0 3).start) (48 * (codingState.segStored 0 3).len) = false ∧
    codingState.anyPoison ((codingState.segStored 0 3).granule 0 15).1 ((codingState.segStored 0 3).granule 0 15).2 = false ∧
    ((given awake [(MOD_ACTIVE 0, 2)]).setPin 0 { cyc := some { someCycle with code := 12 } }).missingAt 0 64 = false ∧
    (((given awake [(MOD_ACTIVE 0, 2)]).setPin 0 { cyc := some { someCycle with code := 12 } }).pin 0).player.isNone = true := by
  decide +kernel

theorem meets_ScribeMovesAndReleasesRecords :
    awake.reaches (SCR_FLUSH 63) ∧ awake.reaches (SCR_RPTR 63) ∧ (awake.setBoth (SCR_DRAIN 63) 0).scrDrains 63 = false ∧ awake.scrHeld 63 = 0 ∧
    (awake.cl 63).scr.queue = [] ∧ 0 < (given awake [(SCR_WPTR 63, 5)]).scrHeld 63 ∧
    awake.scrDrains 63 = true ∧
    awake.reaches (SCR_DRAIN 63) ∧ awake.reaches (SCR_CTRL 63) ∧
    ((awake.updScr 63 (fun x => { x with active := true })).cl 63).scr.active = true := by decide +kernel

/-- Unit 5 of cluster 2 stamps rising edges of unit index 5's pin. -/
def stamping : State := awake.setBoth (TMG_TIA_CTRL 2 5) (fields [(TMG_TIA_CTRL_MODE, 1), (TMG_TIA_CTRL_START_SRC, 5)])

theorem meets_EdgesAreStampedAndPaired :
    (stamping.pin 37).lastRise ≠ some (99 / 1024) ∧ stamping.tiaMode 2 5 = 1 ∧ stamping.ffld (TMG_TIA_CTRL 2 5) TMG_TIA_CTRL_START_SRC = 5 ∧
    edgeMatches (stamping.ffld (TMG_TIA_CTRL 2 5) TMG_TIA_CTRL_START_EDGE) true = true ∧
    stamping.fbitF (TMG_TIA_CTRL 2 5) TMG_TIA_CTRL_GATE = false ∧ (stamping.pin 37).tia.results.length < 64 ∧
    64 ≤ ((stamping.setPin 37 { tia := { results := List.replicate 64 ⟨0, 0, 0⟩ } }).pin 37).tia.results.length ∧
    stamping.tiaUses 2 6 5 = false ∧ ((stamping.setPin 37 { lastRise := some 0 }).pin 37).lastRise = some (99 / 1024) ∧
    awake.reaches (TMG_TIA_CTRL 2 5) ∧ awake.fencedAt (TIA_RES0 2 5) = false ∧ awake.reaches (TMG_SHIM 2 126) ∧ 126 % 8 ≠ 7 ∧
    awake.reaches (TMG_SHIM 2 127) ∧ 127 % 8 = 7 ∧
    ((stamping.setPin 37 { tia := { results := [⟨1, 2, 3⟩] } }).pin 37).tia.results = [⟨1, 2, 3⟩] ∧ (stamping.pin 37).tia.results = [] := by
  decide +kernel

/-- Unit 0 of cluster 0 is protected, its window from code 100 to 900. -/
def protected_ : State :=
  (given awake [(CLP_DAC 0 0, fields [(CLP_DAC_CODE_H, 900), (CLP_DAC_CODE_L, 100)])]).setBoth (CLP_CTRL 0 0) (fields [(CLP_CTRL_EN, 1)])

theorem meets_ClampTripsAndClears :
    protected_.fbitF (CLP_CTRL 0 0) CLP_CTRL_EN = true ∧ protected_.latchBit 0 = false ∧ (awake.setBoth (CLP_CTRL 0 0) 0).fbitF (CLP_CTRL 0 0) CLP_CTRL_EN = false ∧
    ((protected_.outOfWindow 0 0 :: (protected_.pin 0).filter.take 4).filter (· == true)).length < 3 ∧
    3 ≤ (((protected_.setPin 0 { filter := [true, true, false, false, false] }).outOfWindow 0 3000000 ::
      ((protected_.setPin 0 { filter := [true, true, false, false, false] }).pin 0).filter.take 4).filter (· == true)).length ∧
    awake.reaches (CLP_STAT 0) ∧ (vectorState.servedBy 0).isSome = true ∧ awake.fbitF (CLP_CTRL 0 0) CLP_CTRL_CLR_MODE = false ∧
    (awake.setBoth (CLP_CTRL 0 0) (fields [(CLP_CTRL_CLR_MODE, 1)])).fbitF (CLP_CTRL 0 0) CLP_CTRL_CLR_MODE = true ∧
    ((given vectorState [(CLP_STAT 0, fields [(CLP_STAT_LATCH, 1)])]).setPin 0 { latchAt := some 7 }).latchBit 0 = true ∧
    (((given vectorState [(CLP_STAT 0, fields [(CLP_STAT_LATCH, 1)])]).setPin 0 { latchAt := some 7 }).pin 0).latchAt = some 7 := by
  decide +kernel

theorem meets_SequencingGoesOnOrEnds :
    (∀ op, op ≤ 12 → (wordState { seqOp := op, cycles := 3 } {}).closesAt 0 64 { seqOp := op, cycles := 3 }) ∧
    (wordState { seqOp := 7 } { sel := .patch }).closesAt 0 64 { seqOp := 7 } ∧
    (wordState { seqOp := 3 } { stack := [⟨.ws, 5, 0, 9⟩] }).closesAt 0 64 { seqOp := 3 } ∧
    (wordState { seqOp := 2 } { stack := List.replicate 8 ⟨.ws, 5, 0, 9⟩ }).closesAt 0 64 { seqOp := 2 } ∧
    (∀ r ∈ (wordState { seqOp := 2 } {}).runs, some r.id = ((wordState { seqOp := 2 } {}).eng 0).run → r.endCode = none) := by decide +kernel

/-- A pending branch of engine 0 whose take-effect grain is 2,112. -/
def pending_ (cond : Nat) (inv : Bool) : PendBranch :=
  { s := 64, at_ := 2112, level := 0, cond := cond, condInv := inv, flagSet := false, target := 9, vform := false, openAt := 0, coll := {} }

theorem meets_BranchesArePendingThenDecided :
    (wordState { seqOp := 1, cond := 1 } {}).closesAt 0 64 { seqOp := 1, cond := 1 } ∧
    (wordState { seqOp := 1, cond := 1 } { pend := some (pending_ 1 false) }).closesAt 0 64 { seqOp := 1, cond := 1 } ∧
    (playingWith { pend := some (pending_ 1 true) }).engRuns 0 = true ∧ (pending_ 1 true).met = true ∧ (pending_ 1 false).met = false ∧
    (pending_ 1 true).isWait = false ∧ (pending_ 1 true).at_ = 2112 := by decide +kernel

theorem meets_WordsOpenAndWait :
    (playingWith { nextAt := some 64 }).engRuns 0 = true ∧ ((playingWith { nextAt := some 64 }).eng 0).vform = false ∧
    (playingWith { nextAt := some 64 }).storeBad (wsAddr 0 0) = false ∧ (microOf haltWord).dictEn = false ∧ (microOf haltWord).segTrig = false ∧
    (microOf haltWord).adcStart = false ∧ (microOf haltWord).acqArm = 0 ∧ (microOf haltWord).sigOp ≠ 1 ∧ (microOf haltWord).sigOp ≠ 2 ∧
    (playingWith { nextAt := some 64 }).storeWord (wsAddr 0 0) = haltWord ∧ (playingWith { nextAt := some 64 }).inFlight = [] ∧
    ((wordState { seqOp := 6, cycles := 4 } {}).eng 0).nextAt = some 64 ∧ (wordState { seqOp := 6, cycles := 4 } {}).engRuns 0 = true ∧
    (wordState { seqOp := 6, cycles := 4 } {}).selMet 0 0 true = true ∧ (wordState { seqOp := 6, cycles := 4 } {}).selMet 0 0 false = false ∧
    ((playingWith { word := some { seqOp := 6, cycles := 4 }, period := 8 }).eng 0).cyclesBy 64 = some 8 := by decide +kernel

/-- Engine 0 is the only member of its group and stands before V-form word 0, whose first operation is `w`. -/
def vState (w : Nat) : State := { playingWith { vform := true, lead := 0, nextAt := some 64 } with stores := [(wsAddr 0 0, BitVec.ofNat 144 w)] }

theorem meets_VectorOperationsRun :
    (∀ k, k < 16 → ((vState (k * 2 ^ 26 + 5)).vReady 0 64).any (fun u => !u.storeBad (wsAddr (u.eng 0).lead ((u.eng 0).pc % 65536 / 4)) &&
      (vopOf (u.storeWord (wsAddr (u.eng 0).lead ((u.eng 0).pc % 65536 / 4))) ((u.eng 0).pc % 65536 % 4)).vop == k &&
      (u.vPatch 0 k 0).isNone && (u.eng 0).vResume.isNone) = true) ∧
    (vState 0).engRuns 0 = true ∧ ((vState 0).eng 0).vform = true ∧ ((vState 0).eng 0).pend = none ∧ (vState 0).inFlight = [] ∧
    ({ vState 0 with storePoison := [(wsAddr 0 0, true)] } : State).storeBad (wsAddr 0 0) = true := by decide +kernel

theorem meets_VectorBranchesAndActions :
    ((vState (8 * 2 ^ 26 + 2 * 2 ^ 20 + 5)).vReady 0 64).any (fun u => !u.storeBad (wsAddr (u.eng 0).lead ((u.eng 0).pc % 65536 / 4)) &&
      (vopOf (u.storeWord (wsAddr (u.eng 0).lead ((u.eng 0).pc % 65536 / 4))) ((u.eng 0).pc % 65536 % 4)).operand / 2 ^ 20 % 64 == 2 &&
      (u.eng 0).pend.isNone && (u.vPatch 0 8 0).isNone && (u.eng 0).vResume.isNone) = true ∧
    flagOfSel 0 0x005 = some 5 ∧ (vState 0).missingAt 0 64 = false ∧ (tget (fun _ => ((0, 0) : Nat × Nat)) (vState 0).flagSets 5).1 ≠ 64 + 1 ∧
    (11 * 2 ^ 26 + 1) % 16 = 1 := by decide +kernel

/-- ENG_CS_CMD with GO for a store. -/
def csCmd (wr store : Nat) : Word := fields [(ENG_CS_CMD_GO, 1), (ENG_CS_CMD_WR, wr), (ENG_CS_CMD_STORE, store)]

theorem meets_StoresPatchesAndShares :
    awake.reaches (ENG_CS_CMD 63) ∧ getF (csCmd 0 5) ENG_CS_CMD_GO = 1 ∧ getF (csCmd 0 5) ENG_CS_CMD_WR = 0 ∧ csStore (csCmd 0 5) < 6 ∧
    getF (csCmd 1 4) ENG_CS_CMD_WR = 1 ∧ csStore (csCmd 1 4) < 5 ∧ awake.csBusy 63 (csCmd 1 4) = false ∧
    (∀ e ∈ storeEngines (csTarget 63 (csCmd 1 4)), (awake.eng e).heldStart = none) ∧ csStore (csCmd 1 0) < 4 ∧
    (playingState.eng (4 * 0 + csStore (csCmd 1 0))).run.isSome = true ∧ 6 ≤ csStore (csCmd 0 7) ∧ awake.reaches (ENG_PM 63 63) ∧
    (∀ e ∈ clEngines 63, (awake.eng e).run = none) ∧ (∃ e ∈ clEngines 0, (playingState.eng e).run ≠ none) ∧
    awake.reaches (MEM_HBM_SHARE 7) ∧
    getF (fields [(MEM_HBM_SHARE_VEC, 120), (MEM_HBM_SHARE_FAIL, 60), (MEM_HBM_SHARE_ACQ, 60)]) MEM_HBM_SHARE_VEC +
      getF (fields [(MEM_HBM_SHARE_VEC, 120), (MEM_HBM_SHARE_FAIL, 60), (MEM_HBM_SHARE_ACQ, 60)]) MEM_HBM_SHARE_FAIL +
      getF (fields [(MEM_HBM_SHARE_VEC, 120), (MEM_HBM_SHARE_FAIL, 60), (MEM_HBM_SHARE_ACQ, 60)]) MEM_HBM_SHARE_ACQ = 240 := by
  decide +kernel

theorem meets_DigitisersArmAndHoldTheirRange :
    (awake.dig 127).rangeDue = none ∧ awake.reaches (ACQ_CTRL 63 1) ∧ awake.reaches (ACQ_RANGE 63 1) ∧ (awake.dig 127).phase = .idle ∧
    (given awake [(MOD_ACTIVE 63, 4)]).hasMode 63 2 = true ∧ awake.hasMode 63 2 = false ∧
    ((awake.setDig 127 { phase := .armed 64 }).dig 127).phase = .armed 64 ∧
    ((awake.setDig 127 { phase := .acquiring 64 70 false }).dig 127).phase = .acquiring 64 70 false := by decide +kernel

/-- The settings of a digitiser with the raw ring, PRE 0, a record of 8 samples and auto mode after 4. -/
def acqCfg (ctrl : List (Fld × Nat)) : AcqCfg :=
  { ctrl := fields ((ACQ_CTRL_RED_EN, 1) :: ctrl), trig := fields [(ACQ_TRIG_LEVEL_A, 200)], tmin := 0, tmax := 0, pre := 0, post := 7, auto := 4
    block := 0, ring := 0, ring2 := 0 }

/-- Digitiser 127, armed at 64 with that sample codes, or acquiring. -/
def armed (x : AcqCfg) (phase : AcqPhase) (l : List Byte) : State :=
  awake.setDig 127 { phase := phase, cfg := some x, samples := l, flagDue := [(5, 256)] }

theorem meets_RecordsBeginAndEnd :
    ((armed (acqCfg []) (.armed 64) [100, 210]).dig 127).rangeDue = none ∧
    ((armed (acqCfg []) (.armed 64) [100, 210]).dig 127).phase = .armed 64 ∧
    (((acqCfg []).triggers {} 0 [100, 210]).filter (fun i => decide ((acqCfg []).preN ≤ i))).head? = some (65 - 64) ∧
    getB (acqCfg [(ACQ_CTRL_AUTO, 1)]).ctrl 28 = true ∧ ([100, 100, 100, 100, 100] : List Byte).length = (acqCfg []).preN + (acqCfg []).auto.toNat + 1 ∧
    ((acqCfg []).triggers {} 0 [100, 100, 100, 100, 100]).filter (fun i => decide ((acqCfg []).preN ≤ i)) = [] ∧
    (∃ z ∈ ((armed (acqCfg []) (.armed 64) []).dig 127).flagDue, z.2 = 256) ∧
    72 = 65 + (acqCfg []).postN - 1 ∧ getB (acqCfg []).ctrl 29 = false ∧ getB (acqCfg [(ACQ_CTRL_REARM, 1)]).ctrl 29 = true ∧
    (acqCfg []).enabled 0 = true ∧ min 60 ((acqCfg []).unitsOf 0 ((acqCfg []).preN + (acqCfg []).postN) - 0) = 8 ∧
    (acqCfg []).rawIndex (0 + 8 - 1) < 8 := by decide +kernel

/-- Pin 0 of cluster 0 forces a current in MEASURE mode. -/
def forcing : State :=
  ((given (locked awake) [(MOD_ACTIVE 0, 8)]).setBoth (PMU_CTRL 0 0) (fields [(PMU_CTRL_MODE, 2)])).setPin 0 { pmuOn := true }

theorem meets_PulsesAndConversionStarts :
    awake.reaches (PMU_PULSE_CMD 0) ∧ forcing.pmuMode 0 ≠ 0 ∧ (forcing.pin 0).pulse = none ∧ forcing.ffld (ADC_CTRL 0) ADC_CTRL_SRC ≠ 2 ∧
    ((awake.setPin 3 { pulse := some (640, 5) }).pin 3).pulse = some (640, 5) ∧ awake.reaches (ADC_CMD 0) ∧
    (awake.setBoth (ADC_CTRL 0) (fields [(ADC_CTRL_SRC, 1)])).ffld (ADC_CTRL 0) ADC_CTRL_SRC = 1 ∧ (awake.adc 0).timerSince < 64 ∧
    ((awake.setBoth (ADC_TIMER 0) 2).inForce (ADC_TIMER 0)).toNat = 2 ∧ (128 - 0) % (64 * max 1 2) = 0 ∧ (awake.adc 0).starts = [] ∧
    (awake.adc 0).seq = none ∧ (awake.adc 0).waiting = none ∧ (awake.adc 0).refused = none ∧ (forcing.atCluster 0 64).pmuMode 0 ≠ 0 ∧
    (given awake [(MOD_ACTIVE 0, 8)]).adcAccepts 0 false = true ∧ awake.ffld (ADC_DELAY 0) ADC_DELAY_DELAY = 0 ∧
    0 < (awake.setBoth (ADC_DELAY 0) 3).ffld (ADC_DELAY 0) ADC_DELAY_DELAY ∧ awake.hasMode 0 3 = false ∧ awake.hasMode 0 4 = false := by
  decide +kernel

/-- A sequence of cluster 5's converter. -/
def convState (q : ConvSeq) (l : List Word) : State := awake.setCl 5 { adc := { seq := some q, queue := l } }

theorem meets_ConversionsRunAndAreRead :
    ((convState ⟨⟨64, false, false⟩, 64, false, 0, 0, false, 0, 0, []⟩ []).adc 5).starts = [] ∧
    ((convState ⟨⟨64, false, false⟩, 64, false, 0, 0, false, 0, 0, []⟩ []).adc 5).seq = some ⟨⟨64, false, false⟩, 64, false, 0, 0, false, 0, 0, []⟩ ∧
    ((convState ⟨⟨64, false, false⟩, 64, true, 15, 0, false, 0, 0, []⟩ []).cl 5).svc = none ∧
    (∀ n, n < 8 → ((convState ⟨⟨64, false, false⟩, 64, true, 15, 0, false, 0, 0, []⟩ []).flow n).waiting = .none) ∧
    (convState ⟨⟨64, false, false⟩, 64, true, 15, 0, false, 0, 0, []⟩ []).fbitF (ADC_CTRL 5) ADC_CTRL_DMA_EN = false ∧
    64064 = 64 + 2 ^ 0 * 64000 ∧ (∀ y ∈ awake.dcItems 5 (some 15) 0, y = 0) ∧
    256 ≤ ((convState ⟨⟨64, false, false⟩, 64, true, 15, 0, false, 0, 0, []⟩ (List.replicate 256 0)).adc 5).queue.length ∧
    awake.fencedAt (ADC_RESULT 63) = false ∧ awake.fencedAt (PC_RESULT 7) = false ∧
    ((awake.setRg 7 { prec := { queue := [9] } }).rg 7).prec.queue = [9] := by decide +kernel

/-- PC 7 runs. -/
def precRuns (n : Nat) (due : Option (Nat × PrecEntry)) : State :=
  (awake.setBoth (PC_CTRL 7) (fields [(PC_CTRL_EN, 1), (PC_CTRL_DECIM, 16), (PC_CTRL_ORDER, 1)])).setRg 7
    { prec := { running := true, nextAt := 1000, count := n, due := due } }

theorem meets_PrecisionConvertersFilter :
    awake.reaches (PC_CTRL 7) ∧ getB (0x80000000 : Word) 31 = true ∧ (awake.cl 56).gauge.interruption = none ∧ (awake.rg 7).prec.due = none ∧
    ((precRuns 0 none).rg 7).prec.running = true ∧ ((precRuns 0 none).rg 7).prec.nextAt = 1000 ∧ ((precRuns 0 none).rg 7).prec.integ.length = 4 ∧
    getF ((precRuns 0 none).inForce (PC_CTRL 7)) PC_CTRL_CHAN ≠ 0x87 ∧
    (let w := (precRuns 31 none).inForce (PC_CTRL 7)
     let m := max 16 (min 4096 (getF w PC_CTRL_DECIM))
     (((precRuns 31 none).rg 7).prec.count + 1) % m = 0 ∧ (getF w PC_CTRL_ORDER + 1) * m ≤ ((precRuns 31 none).rg 7).prec.count + 1 ∧
     (((precRuns 0 none).rg 7).prec.count + 1) % m ≠ 0) ∧
    ((precRuns 0 (some (900, ⟨false, false, false, false, 5, 77⟩))).rg 7).prec.due = some (900, ⟨false, false, false, false, 5, 77⟩) := by
  decide +kernel

/-- Cluster 9 in CALIBRATE with both kinds requested, at a locked timebase. -/
def calState : State :=
  given (locked awake) [(MOD_ACTIVE 9, 16), (CAL_CTRL 9, fields [(CAL_CTRL_REQ_T, 1), (CAL_CTRL_REQ_DC, 1)])]

theorem meets_CalibrationsAreRequestedAndBegin :
    awake.reaches (CAL_CTRL 9) ∧ (calState.adc 9).starts = [] ∧ calState.calCan 9 .dc = true ∧
    (given (locked awake) [(MOD_ACTIVE 9, 16), (CAL_CTRL 9, fields [(CAL_CTRL_REQ_T, 1)])]).calCan 9 .timing = true ∧
    (given (locked awake) [(MOD_ACTIVE 9, 16), (CAL_CTRL 9, fields [(CAL_CTRL_REQ_T, 1)])]).calCan 9 .dc = false ∧
    awake.calCan 9 .timing = false ∧ (calState.rg (9 / 8)).prec.due = none ∧
    ((awake.setCl 9 { gauge := { interruption := some (.timing, 64, false) } }).cl 9).gauge.interruption = some (.timing, 64, false) := by
  decide +kernel

/-- A result of a timing calibration in which unit 0's first shim measured 0 and then t2. -/
def calResult (t2 : Int) : CalResults := { pairs := [[(0, t2)]], eye := [] }

theorem meets_CalibrationsEndAndAreApplied :
    (awake.adc 9).starts = [] ∧
    ((awake.setCl 9 { gauge := { interruption := some (.timing, 64, true) } }).cl 9).gauge.interruption = some (.timing, 64, true) ∧
    awake.stepHeld 9 = false ∧ (awake.setCl 9 { gauge := { applyAt := some 64 } }).calDueAt 9 64 = true ∧ awake.calDueAt 9 64 = false ∧
    ((awake.setCl 9 { gauge := { applyAt := some 64, pendDc := some ⟨[(3, 5)], true⟩ } }).cl 9).gauge.pendDc = some ⟨[(3, 5)], true⟩ ∧
    awake.bit CAL_REF_STAT (failFld .timing) = false ∧
    (given awake [(CAL_REF_STAT, fields [(failFld .timing, 1)])]).bit CAL_REF_STAT (failFld .timing) = true ∧
    disagreeing (calResult 0) .timing (awake.calTol .timing) [0] = none ∧
    disagreeing (calResult 1000) .timing (awake.calTol .timing) [0] = some 0 ∧
    awake.bit CAL_REF_STAT CAL_REF_STAT_STOP_T = false ∧ awake.bit CAL_REF_STAT CAL_REF_STAT_STOP_V = false ∧
    awake.bit CAL_REF_STAT CAL_REF_STAT_SUSPECT_T = false ∧ awake.bit CAL_REF_STAT CAL_REF_STAT_SUSPECT_V = false ∧
    ((awake.setCl 9 { gauge := { applyAt := some 64, pendT := some ⟨[(120, -256)], true⟩ } }).cl 9).gauge.pendT = some ⟨[(120, -256)], true⟩ := by
  decide +kernel

/-- Region 3's HBM walker runs. -/
def walking : State := { (given awake [(MEM_SCRUB_CTRL 3, fields [(MEM_SCRUB_CTRL_EN, 1)])]) with regions := [(3, { hbmInit := true })] }

theorem meets_WalkersScrubAndStoresReload :
    walking.walkRuns (.hbm 3) = true ∧ (walking.setBit (scrubCtrl (.hbm 3)) MEM_SCRUB_CTRL_EN false).walkRuns (.hbm 3) = false ∧
    (walking.rg 3).hbmWalk < 402653184 ∧ walking.patsAt (3 * 0x600000000) = [] ∧ walking.mirrorsAt (3 * 0x600000000) = [] ∧
    walking.poisoned (3 * 0x600000000) = false ∧
    ({ awake with storePoison := [(wsAddr 255 16383, true)] } : State).storeBad (wsAddr 255 16383) = true ∧
    ({ awake with storePoison := [(wsAddr 255 16383, true)] } : State).storeHeld (wsAddr 255 16383) = false ∧ (awake.eng 255).run = none ∧
    (awake.eng 255).heldStart = none ∧ awake.storeBad (wsAddr 255 16383) = false := by decide +kernel

/-- Every spare row of bank 0 of a block's array is in use. -/
def noSpares (x : BlockAt) : State :=
  { awake with boot := { phase := 8, repairs := (List.range 8).map (fun k => (x.array, x.inst, 0, 1, k)) } }

theorem meets_MemoriesAreTestedAndRepaired :
    awake.bit (btCtrl (.region 7)) MEM_BT_CTRL_EN = true ∧ (awake.tester (.region 7)).block = none ∧ 4 ≤ awake.boot.phase ∧
    awake.blockSkipped (blockAt (.region 7) (awake.tester (.region 7)).next) = false ∧
    ((given awake [(MOD_ACTIVE 56, 1)]).setRg 7 { tester := { next := 2048 } }).blockSkipped (blockAt (.region 7) 2048) = true ∧
    (awake.setBit (btCtrl (.region 7)) MEM_BT_CTRL_EN false).bit (btCtrl (.region 7)) MEM_BT_CTRL_EN = false ∧
    ((awake.setRg 7 { tester := { block := some 0 } }).tester (.region 7)).block = some 0 ∧ (blockAt (.region 7) 0).hasBank 0 = true ∧
    awake.sparesLeft (blockAt (.region 7) 0).array (blockAt (.region 7) 0).inst 0 ≠ [] ∧
    (noSpares (blockAt (.region 7) 0)).sparesLeft
      (blockAt (.region 7) 0).array (blockAt (.region 7) 0).inst 0 = [] ∧
    awake.reaches (MEM_PPR_CMD 0) ∧ getF (fields [(MEM_PPR_CMD_GO, 1)]) MEM_PPR_CMD_GO = 1 ∧
    (given awake [(MOD_ACTIVE 0, 32)]).pprAccepted 0 (fields [(MEM_PPR_CMD_GO, 1)]) = true ∧
    awake.pprAccepted 0 (fields [(MEM_PPR_CMD_GO, 1)]) = false ∧ ((awake.setRg 0 { ppr := some (256, true) }).rg 0).ppr ≠ none ∧
    awake.reaches (patReg 7 15 4) := by decide +kernel

theorem meets_RingsAndPoolsGiveAndTake :
    awake.reaches (ringPtr 65535) ∧ awake.reaches (PRT_DB 5) ∧ getF (fields [(PRT_DB_RING, 65535), (PRT_DB_TAIL, 3)]) PRT_DB_RING = 65535 ∧
    getF (fields [(PRT_DB_RING, 65535), (PRT_DB_TAIL, 3)]) PRT_DB_TAIL = 3 ∧ awake.reaches (ringCfg 65535) ∧
    (awake.setBit (ringStat 65535) RING_STAT_STOPPED true).bit (ringStat 65535) RING_STAT_STOPPED = true ∧
    awake.bit (ringStat 65535) RING_STAT_STOPPED = false ∧ awake.fencedAt (DMA_ALLOC 7) = false ∧
    awake.bit (RING_CFG 7 0) RING_CFG_ALLOC = false ∧ awake.reaches (DMA_FREE 7) ∧ 65535 / 8192 = 7 ∧ awake.ringIdle 65535 = true ∧
    awake.ringHead 65535 = awake.ringTail 65535 ∧ 8191 / 8192 ≠ 7 ∧ awake.fencedAt (DMA_POOL_TAKE 7) = false ∧
    ((awake.setRg 7 { poolFree := [4, 5] }).rg 7).poolFree ≠ [] ∧ (awake.rg 7).poolFree = [] ∧ awake.reaches (DMA_POOL_PUT 7) ∧
    6 < (given awake [(DMA_POOL_CFG 7, fields [(DMA_POOL_CFG_COUNT, 9)])]).poolCount 7 ∧ awake.poolCount 7 ≤ 6 := by decide +kernel

/-- The configuration registers of region 7's rings from k on, n of them, with ALLOC 1. -/
def allocated (k : Nat) : Nat → Tbl Word
  | 0 => []
  | n + 1 => (RING_CFG 7 k, fields [(RING_CFG_ALLOC, 1)]) :: allocated (k + 1) n

theorem tget_allocated (n : Nat) : ∀ k j, k ≤ j → j < k + n → tget regReset (allocated k n) (RING_CFG 7 j) = fields [(RING_CFG_ALLOC, 1)] := by
  induction n with
  | zero => intro k j h1 h2; omega
  | succ n ih =>
    intro k j h1 h2
    by_cases e : j = k
    · simp [allocated, tget, e]
    · have := ih (k + 1) j (by omega) (by omega)
      simp only [allocated, tget]
      rw [if_neg (by simp only [RING_CFG]; omega), this]

/-- Every ring of region 7 can be allocated at once. -/
theorem meets_RingsAndPoolsGiveAndTake_full :
    ∃ s : State, s.fencedAt (DMA_ALLOC 7) = false ∧ ∀ j, j < 8192 → s.bit (RING_CFG 7 j) RING_CFG_ALLOC = true :=
  ⟨{ awake with regs := allocated 0 8192 }, by decide +kernel, fun j h => by
    unfold State.bit State.fld State.reg
    rw [show ({ awake with regs := allocated 0 8192 } : State).regs = allocated 0 8192 from rfl, tget_allocated 8192 0 j (by omega) (by omega)]
    decide +kernel⟩

/-- Table 13-1: an owned COPY descriptor of 128 bytes from 0x302_0000_1000 to 0x302_0000_2000. -/
def copyBytes (own : Byte) : List Byte :=
  leBytes 4 0x10000000 ++ leBytes 4 128 ++ leBytes 8 0x30200001000 ++ leBytes 8 0x30200002000 ++ List.replicate 7 0 ++ [own]

/-- Ring 0 is a COPY ring at 0x302_0000_0000 with one descriptor handed over and its request set. -/
def ringState (l : List Byte) : State :=
  { given awake [(RING_CFG 0 0, fields [(RING_CFG_EN, 1), (RING_CFG_KIND, 1), (RING_CFG_BASE_HI, 0x302)]),
      (DMA_CH_CTRL 0 0, fields [(DMA_CH_CTRL_EN, 1)]), (RING_PTR 0 0, fields [(RING_PTR_TAIL, 1)]),
      (RING_STAT 0 0, fields [(RING_STAT_REQ, 1)])] with mem := cells 0x30200000000 l }

/-- The descriptor that these bytes spell. -/
def copyDesc : Desc := { descOf 0 (copyBytes 0x80) with addr := 0x30200000000 }

/-- Ring 0 holds its descriptor. -/
def fetchedState : State := (ringState (copyBytes 0x80)).setRing 0 { desc := some copyDesc }

theorem meets_DescriptorsAreFetchedAndBurstsBegin :
    (∀ own ∈ [(0x80 : Byte), 0], (ringState (copyBytes own)).ringServed 0 = true ∧
      (ringState (copyBytes own)).ringHead 0 ≠ (ringState (copyBytes own)).ringTail 0 ∧ ((ringState (copyBytes own)).ring 0).desc = none ∧
      ((ringState (copyBytes own)).ring 0).waitTail = false ∧ ((ringState (copyBytes own)).ring 0).failed = none ∧
      (ringState (copyBytes own)).resolve ((ringState (copyBytes own)).descAddr 0 ((ringState (copyBytes own)).ringHead 0)) = .here 0x30200000000 ∧
      (ringState (copyBytes own)).plain 0x30200000000 32 ∧ (ringState (copyBytes own)).repairDue 0x30200000000 = false ∧
      (ringState (copyBytes own)).anyPoison 0x30200000000 32 = false ∧
      isSecureSys 0x30200000000 = false ∧ copyBytes own = (List.range 32).map (fun i => (ringState (copyBytes own)).byteAt (0x30200000000 + i)) ∧
      descOwn (copyBytes own) = (own == 0x80)) ∧
    descBad ((ringState (copyBytes 0x80)).isCopy 0) (copyBytes 0x80) = false ∧ (descOf 0 (copyBytes 0x80)).pool = false ∧
    (∀ s ∈ [fetchedState, ringState (copyBytes 0x80), given (ringState []) [(RING_PTR 0 0, 0)]],
      s.ringServed 0 = true ∧ s.isCopy 0 = true ∧ s.requested 0 = true ∧ (s.ring 0).short = false ∧ (s.chan (ringCh 0)).burst = none ∧
      (s.at 64).ringTurn 0 64 = true) ∧
    (fetchedState.ring 0).desc = some copyDesc ∧ (fetchedState.ring 0).off < copyDesc.length ∧
    ((given (ringState []) [(RING_PTR 0 0, 0)]).ring 0).desc = none ∧
    (given (ringState []) [(RING_PTR 0 0, 0)]).ringHead 0 = (given (ringState []) [(RING_PTR 0 0, 0)]).ringTail 0 := by decide +kernel

/-- Its burst is under way. -/
def burstState (left : Nat) : State := fetchedState.setChan 0 { burst := some { ring := 0, src := .copy, left := left } }

theorem meets_BeatsMoveBytesAndBurstsComplete :
    (burstState 128).beatChan 0 = some 0 ∧ ((burstState 128).chan 0).burst = some { ring := 0, src := .copy, left := 128 } ∧
    ((burstState 128).ring 0).desc = some copyDesc ∧ copyOff copyDesc ((burstState 128).ring 0).off = 0 ∧
    ((burstState 128).ring 0).off + 64 < copyDesc.length ∧ ((burstState 128).ring 0).poisonAt = none ∧
    copyDesc.a / 2 ^ 42 = (burstState 128).pkgId ∧ copyDesc.b / 2 ^ 42 = (burstState 128).pkgId ∧ (burstState 128).pkgId < 16 ∧
    (burstState 128).plain (copyDesc.a % 2 ^ 42) 64 ∧ (burstState 128).plain (copyDesc.b % 2 ^ 42) 64 ∧
    (burstState 128).repairDue (copyDesc.a % 2 ^ 42) = false ∧
    (burstState 128).anyPoison (copyDesc.a % 2 ^ 42) 64 = false ∧ inDictionary (copyDesc.b % 2 ^ 42) = false ∧
    (burstState 0).ringBurst 0 = some { ring := 0, src := .copy, left := 0 } ∧ (burstState 0).bit (ringStat 0) RING_STAT_STOPPED = false ∧
    ((burstState 0).ring 0).failed = none ∧ (∀ x ∈ ((burstState 0).ring 0).desc, x.copy = true) := by decide +kernel

/-- A datalog ring that ends below the first address past HBM lies over no register. -/
theorem ring_below_registers (s : State) (h : s.logBase + s.logSize ≤ 0x3000000000) : ∀ o, o < s.logSize → addrKind (s.logBase + o) ≠ .register := by
  intro o ho
  rw [addrKind, if_pos (by omega)]
  intro h; cases h

/-- A flow entry of 64 bytes: its kind, and the bytes that are not 0. -/
def entryBytes (kind : Nat) (l : List (Nat × Byte)) : List Byte :=
  (List.range 64).map (fun i => if i = 0 then BitVec.ofNat 8 kind else ((l.find? (fun x => x.1 == i)).map (·.2)).getD 0)

/-- Flow engine 0 stands at that entry for site 0, which is cluster 0; a table at 0x302_0001_0000. -/
def flowState (kind : Nat) (l : List (Nat × Byte)) : State :=
  { given awake [(FLW_STAT 0, fields [(FLW_STAT_RUNNING, 1)]), (FLW_TABLE_LO 0, fields [(FLW_TABLE_LO_BASE, 0x400)]),
      (FLW_TABLE_HI 0, fields [(FLW_TABLE_HI_BASE, 0x302)]), (FLW_SITE_CFG 0, fields [(FLW_SITE_CFG_EN, 1)]), (FLW_SITE_W0 0, 1)] with
    mem := cells 0x30200010000 (entryBytes kind l), sites := [(0, { active := true })] }

/-- The entry. -/
def entryOf (kind : Nat) (l : List (Nat × Byte)) : FlowEntry := ⟨0, [0], entryBytes kind l⟩

theorem meets_FlowEntriesAct :
    (∀ k ∈ [3, 4, 5, 7, 8], (flowState k []).entryDue 0 (entryOf k []) ∧ (entryOf k []).headGood = true ∧ (entryOf k []).kind = k ∧
      (entryOf k []).num 8 1 = 0 ∧ (entryOf k []).num 10 1 = 0 ∧ (entryOf k []).num 10 2 = 0 ∧ (entryOf k []).num 12 1 = 0 ∧
      (entryOf k []).num 24 1 = 0 ∧ (entryOf k []).num 25 1 = 0 ∧ (entryOf k []).num 26 2 = 0 ∧ (entryOf k []).log = false) ∧
    (∀ k ∈ (entryOf 7 []).sites, ∀ c ∈ (flowState 7 []).siteClusters k, ((flowState 7 []).rg (c / 8)).fenced = false) := by decide +kernel

/-- Flow engine 0 at a PATTERN entry for engine 0 of each cluster, in a cluster with PATTERN active. -/
def atPattern : State := given (flowState 1 [(18, 1)]) [(MOD_ACTIVE 0, 1)]

/-- Flow engine 0 at a MEASURE entry of one pin, in a cluster with MEASURE active. -/
def atMeasure : State := given (flowState 2 [(10, 1)]) [(MOD_ACTIVE 0, 8)]

/-- The bytes of a SHARE entry at the first word of the shared flow space. -/
def shareBytes (op : Byte) : List (Nat × Byte) := [(8, op), (20, 0x03), (21, 0x03)]

theorem meets_FlowEntriesOfASite :
    (∀ y ∈ [(1, [(18, 1)], atPattern), (2, [(10, 1)], atMeasure), (6, [], flowState 6 []), (9, shareBytes 1, flowState 9 (shareBytes 1)),
        (10, [], given (flowState 10 []) [(FLW_SITE_STAT 0, fields [(FLW_SITE_STAT_BINNED, 1)])])],
      y.2.2.entryDue 0 (entryOf y.1 y.2.1) ∧ (entryOf y.1 y.2.1).headGood = true ∧ (entryOf y.1 y.2.1).kind = y.1) ∧
    patternGood (entryOf 1 [(18, 1)]) = true ∧ (∀ c ∈ atPattern.siteClusters 0, atPattern.hasMode c 0 = true ∧ (atPattern.rg (c / 8)).fenced = false) ∧
    (let e := atPattern.entryBegin 0 (entryOf 1 [(18, 1)])
     (e.patternEngines (entryOf 1 [(18, 1)]) [0]).any e.quiesced = false ∧
     (∀ i ∈ e.patternEngines (entryOf 1 [(18, 1)]) [0], (e.eng i).run = none ∧
       (e.patternSetup (entryOf 1 [(18, 1)]) (atPattern.siteClusters 0)).startRefusal i = none)) ∧
    measureGood (entryOf 2 [(10, 1)]) = true ∧ (∀ c ∈ atMeasure.siteClusters 0, atMeasure.hasMode c 3 = true ∧ (atMeasure.rg (c / 8)).fenced = false) ∧
    (entryOf 2 [(10, 1)]).num 8 2 + (entryOf 2 [(10, 1)]).num 10 2 ≤ (atMeasure.sitePins 0).length ∧
    (flowState 6 []).logFree ∧ (flowState 6 []).logFits 64 = true ∧ (flowState 10 []).logFree ∧ (flowState 10 []).logFits 32 = true ∧
    (let s := given (flowState 10 []) [(FLW_LOG_WPTR, BitVec.ofNat 32 (flowState 10 []).logSize), (FLW_LOG_CFG, 0)]
     s.logFree ∧ s.logFits 32 = false ∧ s.bit FLW_LOG_CFG FLW_LOG_CFG_POLICY = false) ∧
    (∀ op ∈ [(0 : Byte), 1, 2], (entryOf 9 (shareBytes op)).num 8 1 = op.toNat ∧
      (match ((flowState 9 (shareBytes op)).entryBegin 0 (entryOf 9 (shareBytes op))).sharedRead
          ((entryOf 9 (shareBytes op)).num 16 8 / 8 * 8) 8 true [] with
        | some (.data _, _) => true
        | _ => false) = true) ∧
    (given (flowState 10 []) [(FLW_SITE_STAT 0, fields [(FLW_SITE_STAT_BINNED, 1)])]).bit (FLW_SITE_STAT 0) FLW_SITE_STAT_BINNED = true ∧
    nbit ((flowState 10 []).reg (FLW_RETEST 0)).toNat 0 = false ∧ nbit ((given (flowState 10 []) [(FLW_RETEST 0, 1)]).reg (FLW_RETEST 0)).toNat 0 = true ∧
    (given (flowState 10 []) [(FLW_CFG 0, fields [(FLW_CFG_RETEST_MAX, 1)])]).fld (FLW_SITE_STAT 0) FLW_SITE_STAT_RETESTS <
      (given (flowState 10 []) [(FLW_CFG 0, fields [(FLW_CFG_RETEST_MAX, 1)])]).fld (FLW_CFG 0) FLW_CFG_RETEST_MAX := by
  (repeat' apply And.intro) <;> first | (refine ring_below_registers _ ?_; decide +kernel) | decide +kernel

/-- Flow engine 0 with site 0 in cluster 0, not running. -/
def flowIdle : State := given awake [(FLW_SITE_CFG 0, fields [(FLW_SITE_CFG_EN, 1)]), (FLW_SITE_W0 0, 1)]

/-- An entry of flow engine 0 is in progress. -/
def flowWaits (w : FlowWaitFor) : State := (flowState 8 []).setFlow 0 { entry := some (entryOf 8 []), waiting := w }

theorem meets_InsertionsBeginAndEnd :
    flowIdle.cannotInsert 0 = false ∧ flowIdle.logFree ∧ flowIdle.reaches (FLW_CTRL 0) ∧ flowIdle.bit BOOT_STAT BOOT_STAT_ACTIVATING = false ∧
    (given flowIdle [(FLW_CTRL 0, fields [(FLW_CTRL_START_SRC, 1), (FLW_CTRL_START_FLAG, 5)])]).fld (FLW_CTRL 0) FLW_CTRL_START_SRC = 1 ∧
    ((given flowIdle [(FLW_CTRL 0, fields [(FLW_CTRL_START_SRC, 1), (FLW_CTRL_START_FLAG, 5)])]).setFlag (2000 + 5) true).flag (2000 +
      (given flowIdle [(FLW_CTRL 0, fields [(FLW_CTRL_START_SRC, 1), (FLW_CTRL_START_FLAG, 5)])]).fld (FLW_CTRL 0) FLW_CTRL_START_FLAG) = true ∧
    awake.cannotInsert 7 = true ∧ awake.reaches (FLW_CTRL 7) ∧ ((flowWaits .cont).flow 0).waiting = .cont ∧ (flowWaits .cont).reaches (FLW_CTRL 0) ∧
    (∀ w ∈ [FlowWaitFor.done, .gt 64, .flag 2005], ((flowWaits w).flow 0).entry = some (entryOf 8 []) ∧
      (flowWaits w).bit (FLW_STAT 0) FLW_STAT_LOGWAIT = false ∧ ((flowWaits w).flow 0).waiting = w) ∧
    ((flowWaits (.flag 2005)).setFlag 2005 true).flag 2005 = true ∧ (entryOf 8 []).sites.Nodup ∧
    (∃ k ∈ (flowWaits .done).inserted 0, (flowWaits .done).bit (FLW_SITE_STAT k) FLW_SITE_STAT_DONE = false) ∧
    (flowWaits .done).flowOn 0 = true ∧
    (∀ k ∈ (given (flowWaits .done) [(FLW_SITE_STAT 0, fields [(FLW_SITE_STAT_DONE, 1)])]).inserted 0,
      (given (flowWaits .done) [(FLW_SITE_STAT 0, fields [(FLW_SITE_STAT_DONE, 1)])]).bit (FLW_SITE_STAT k) FLW_SITE_STAT_DONE = true) := by
  (repeat' apply And.intro) <;> first | (refine ring_below_registers _ ?_; decide +kernel) | decide +kernel

/-- A summary of cluster c. -/
def summaryOf (c : Nat) : Summary := ⟨c, 0, 0, 4 * c, 64, 0, 0, 0, 0, 0, 0, 0, 512, some 0, 7⟩

/-- A package summary of package p. -/
def packageSummary (p : Nat) : PkgSummary := ⟨p, 0, 0, 64, 1, List.replicate 32 0⟩

theorem meets_DatalogAndBench :
    awake.reaches FLW_LOG_RPTR ∧ awake.logWait = [] ∧ awake.logFree ∧ awake.reaches (FLW_CFG 7) ∧ awake.flowOn 7 = false ∧
    (given awake [(FLW_STAT 7, fields [(FLW_STAT_RUNNING, 1)])]).flowOn 7 = true ∧
    ((awake.updCl 63 (fun x => { x with toSend := [summaryOf 63] })).cl 63).toSend = [summaryOf 63] ∧ awake.bench.length < 256 ∧
    256 ≤ ({ awake with bench := List.replicate 256 (summaryOf 3) } : State).bench.length ∧
    lowestSummary ({ awake with bench := [summaryOf 3, { summaryOf 2 with run := 8 }, summaryOf 2] } : State).bench = some (summaryOf 2) ∧
    awake.logFits 80 = true ∧
    ((flowWaits (.run 7 [0] [])).flow 0).waiting = .run 7 [0] [] ∧
    lowestPackage (({ awake with pkgBench := [packageSummary 4] } : State).pkgBench ++ [packageSummary 3]) = some (packageSummary 3) ∧
    (given awake [(VYN_SYS_STAT, fields [(VYN_SYS_STAT_IS_MASTER, 1)])]).bit VYN_SYS_STAT VYN_SYS_STAT_IS_MASTER = true ∧
    (packageSummary 3).bins.length = 32 := by
  (repeat' apply And.intro) <;> first | (refine ring_below_registers _ ?_; decide +kernel) | decide +kernel

/-- Cluster 5 with its mode word, bits of SVC_STAT and a service command in progress. -/
def serviceState (active : Nat) (stat : List (Fld × Nat)) (v : Option Service) : State :=
  (given awake [(MOD_ACTIVE 5, fields [(MOD_ACTIVE_ACTIVE, active)]), (MOD_SVC_STAT 5, fields stat)]).updCl 5 (fun x => { x with svc := v })

theorem meets_ModesAreWantedAndShutDown :
    awake.reaches (MOD_REQ 63) ∧ awake.bit (MOD_SVC_STAT 63) MOD_SVC_STAT_BUSY = false ∧
    (serviceState 0 [(MOD_SVC_STAT_BUSY, 1)] none).bit (MOD_SVC_STAT 5) MOD_SVC_STAT_BUSY = true ∧
    (∀ m, m < 6 → (given awake [(MOD_ACTIVE 5, fields [(MOD_ACTIVE_STOPPING, 63)])]).fbit (MOD_ACTIVE 5) MOD_ACTIVE_STOPPING m = true ∧
      (given awake [(MOD_ACTIVE 5, fields [(MOD_ACTIVE_STOPPING, 63)])]).shutdownComplete 5 m = true ∧
      awake.fbit (MOD_ACTIVE 5) MOD_ACTIVE_STOPPING m = false) ∧
    (serviceState 0 [] (some { op := 2 })).shutdownComplete 5 5 = (serviceState 0 [] none).shutdownComplete 5 5 := by decide +kernel

theorem meets_ServiceCommandsAreAcceptedOrRefused :
    awake.reaches (MOD_SVC_CMD 5) ∧ (serviceState 32 [(MOD_SVC_STAT_BUSY, 1)] none).bit (MOD_SVC_STAT 5) MOD_SVC_STAT_BUSY = true ∧
    (serviceState 0 [(MOD_SVC_STAT_DRAINED, 1)] none).bit (MOD_SVC_STAT 5) MOD_SVC_STAT_DRAINED = true ∧ awake.hasMode 5 5 = false ∧
    (serviceState 33 [] none).modesHeld 5 &&& 1 ≠ 0 ∧ (serviceState 36 [] none).modesHeld 5 &&& 7 ≠ 0 ∧
    (serviceState 40 [] none).modesHeld 5 &&& 0x18 ≠ 0 ∧ (serviceState 33 [] none).active 5 ≠ 0x20 ∧
    awake.bit (MOD_SVC_STAT 5) MOD_SVC_STAT_DRAINED = false ∧ getF (0x86000000 : Word) MOD_SVC_CMD_GO = 1 ∧
    getF (fields [(MOD_SVC_CMD_OP, 6)]) MOD_SVC_CMD_OP ∈ [0, 6, 7] ∧
    (let s := serviceState 32 [(MOD_SVC_STAT_DRAINED, 1)] none
     s.reaches (MOD_SVC_CMD 5) ∧ s.bit (MOD_SVC_STAT 5) MOD_SVC_STAT_BUSY = false ∧ s.hasMode 5 5 = true ∧ s.modesHeld 5 &&& 7 = 0 ∧
     s.modesHeld 5 &&& 0x18 = 0 ∧ s.active 5 = 0x20 ∧ s.fld (MOD_ACTIVE 5) MOD_ACTIVE_STOPPING = 0 ∧ s.bit (MOD_SVC_STAT 5) MOD_SVC_STAT_DRAINED = true ∧
     (s.adc 5).seq = none ∧ s.adcAccepts 5 true = true) := by decide +kernel

/-- Run 7 of engine 0 plays, and is cut to end after grain 127. -/
def cutRun : Run := { id := 7, engines := [0], admitted := true, start := some 0, endCode := some codeViolation, endAt := some 127 }

theorem meets_DrainsStopAndCut :
    awake.reaches (MOD_SVC_CMD 0) ∧ awake.bit (MOD_SVC_STAT 0) MOD_SVC_STAT_BUSY = false ∧
    awake.bit (MOD_SVC_STAT 0) MOD_SVC_STAT_DRAINED = false ∧ (awake.cl 0).gauge.interruption = none ∧
    ((awake.setCl 0 { gauge := { interruption := some (.dc, 64, false) } }).cl 0).gauge.interruption = some (.dc, 64, false) ∧
    awake.runs.filter (fun r => r.hasCluster 0) = [] ∧
    playingState.runs.filter (fun r => r.hasCluster 0) = [{ id := 7, engines := [0], admitted := true, start := some 0 }] ∧
    (playingState.eng (Run.lowest { id := 7, engines := [0] })).run = some 7 ∧
    (∀ q ∈ playingState.runs, q.id = 7 → q = { id := 7, engines := [0], admitted := true, start := some 0 }) ∧
    (let s := { playingState with runs := [cutRun], clusters := [(0, { svc := some { op := 1, cut := true, dGrain := 64, eGrain := some 128 } })] }
     s.runs.filter (fun r => r.hasCluster 0 && r.start.isSome) = [cutRun] ∧ boundaryAfter 127 = 128 ∧ s.allHalted cutRun = none) ∧
    (let s := { awake with gt := 128, clusters := [(0, { svc := some { op := 1, dGrain := 64, eGrain := some 128 } })] }
     (s.cl 0).svc = some { op := 1, dGrain := 64, eGrain := some 128 } ∧ 128 ≤ s.gt ∧ (∀ k ∈ clEngines 0, (s.eng k).run = none)) ∧
    playingState.gt < 128 ∧ (∃ k ∈ clEngines 0, (playingState.eng k).run ≠ none) := by decide +kernel

/-- Bank B is in use by cluster 5, bank A holds the jig, and a service command is in progress. -/
def svcJig (bank : Nat) (v : Service) : State :=
  (given jig [(MOD_SVC_STAT 5, fields [(MOD_SVC_STAT_BUSY, 1), (MOD_SVC_STAT_BANK, bank)])]).updCl 5 (fun x => { x with svc := some v })

theorem svcJig_activates : ((svcJig 1 { op := 4 }).activateCluster 0 5).1 = true := by
  have h : (svcJig 1 { op := 4 }).headerValid 0 = true := jig_headerValid
  unfold State.activateCluster
  rw [h]
  decide +kernel

theorem meets_ServiceCommandsComplete :
    (∀ op ∈ [2, 3, 4], ((svcJig 1 { op := op }).cl 5).svc = some { op := op }) ∧
    (svcJig 0 { op := 2 }).fld (MOD_SVC_STAT 5) MOD_SVC_STAT_BANK = 0 ∧
    (svcJig 0 { op := 2 }).secGood 0 2 = true ∧ (svcJig 0 { op := 2 }).secGood 0 3 = true ∧
    otherBank ((svcJig 1 { op := 4 }).fld (MOD_SVC_STAT 5) MOD_SVC_STAT_BANK) = 0 ∧
    ((svcJig 1 { op := 4 }).activateCluster 0 5).1 = true ∧
    ((svcJig 0 { op := 4 }).activateCluster (otherBank ((svcJig 0 { op := 4 }).fld (MOD_SVC_STAT 5) MOD_SVC_STAT_BANK)) 5).1 = false ∧
    ((svcJig 1 { op := 4, spoilt := [(4096, 256)] }).cl 5).svc = some { op := 4, spoilt := [(4096, 256)] } ∧
    (∀ v ∈ [({ op := 5, doneDc := true, doneT := true, endAt := some 640 } : Service), { op := 5, calFail := some codeCalDisagree, endAt := some 640 }],
      ((serviceState 32 [] (some v)).cl 5).svc = some v ∧ v.op = 5 ∧ v.endAt = some 640) := by
  refine ⟨?_, ?_, ?_, ?_, ?_, svcJig_activates, ?_, ?_, ?_⟩ <;> decide +kernel

/-- Link 7 is up; this package is package 0 of a system with tag 9 and package 3. -/
def linked : State :=
  let s := (given awake [(VYN_LINK 7, fields [(VYN_LINK_UP, 1), (VYN_LINK_STATE, 2), (VYN_LINK_PEER_ID, 3)]), (VYN_TAG_LO, 9), (VYN_IDS, fields [(VYN_IDS_PRESENT, 9)]),
    (VYN_ROLES, fields [(VYN_ROLES_LINK_EN, 255)]), (VYN_SYS_STAT, 0)])
  { s with vyn := { known := [⟨77, 9, 3, true, 200⟩], peers := [(7, 77)] } }

theorem meets_LinksTrainDropAndResend :
    (∀ tag ∈ [0, 9, 10], let s := given linked [(VYN_LINK 7, fields [(VYN_LINK_STATE, 1)])]
      nbit (s.fld VYN_ROLES VYN_ROLES_LINK_EN) 7 = true ∧ s.fld (VYN_LINK 7) VYN_LINK_STATE = 1 ∧ s.tag = 9 ∧
      ((tag = 10 ∧ s.tag ≠ 0 ∧ tag ≠ 0 ∧ s.tag ≠ tag) ∨ tag = 0 ∨ s.tag = tag)) ∧
    linked.fld (VYN_LINK 7) VYN_LINK_STATE = 2 ∧ linked.bit (VYN_LINK 7) VYN_LINK_UP = true ∧
    (∃ x ∈ linked.vyn.known, x.uid ≠ 78) ∧ setNBit linked.linksUp 6 false ≠ 0 ∧ linked.present 3 = true ∧
    linked.vyn.known.any (fun x => [77].contains x.uid && x.tag == linked.tag && x.id.val == 3) = true := by decide +kernel

/-- Package 0 knows an untagged package with a higher UID. -/
def untagged : State := { awake with vyn := { known := [⟨Config.uid.toNat + 1, 0, 0, true, 200⟩] } }

/-- The linked package as the master of its domain. -/
def mastering : State := given linked [(VYN_SYS_STAT, fields [(VYN_SYS_STAT_IS_MASTER, 1)])]

/-- For a package whose UID is not 0 (a free value of the configuration). -/
theorem meets_PackagesTakeTheirIds (h : Config.uid.toNat ≠ 0) :
    (Config.uid.toNat ≠ 0 ∧ (untagged.vyn.known.filter (fun y => y.tag == 0)).map (·.uid) = [Config.uid.toNat + 1] ∧
      (∀ u ∈ [Config.uid.toNat + 1], Config.uid.toNat < u) ∧ [Config.uid.toNat + 1].length ≤ 15 ∧ untagged.tag = 0 ∧
      untagged.vyn.learnedAt + 1048576 ≤ 1048576 ∧ 64 < untagged.vyn.learnedAt + 1048576) ∧
    (awake.tag = 0 ∧ (Config.uid.toNat :: List.replicate 15 0).length = 16 ∧ (Config.uid.toNat :: List.replicate 15 0).getD 0 0 = Config.uid.toNat ∧
      (∀ p ∈ awake.vyn.peers, p.2 ∈ Config.uid.toNat :: List.replicate 15 0)) ∧
    (linked.tag ≠ 0 ∧ linked.bit (VYN_LINK 7) VYN_LINK_UP = true ∧ mastering.freeId = some 1 ∧ mastering.isMaster = true ∧
      linked.isMaster = false ∧ linked.hasId 5 = false ∧ linked.hasId 77 = true ∧
      (given linked [(VYN_IDS, fields [(VYN_IDS_PRESENT, 65535)])]).freeId = none ∧ linked.vyn.peers.contains (7, 77) = true ∧
      ({ linked with vyn := { linked.vyn with known := [] } } : State).hasId 77 = false) ∧
    linked.reaches VYN_CMD ∧ linked.present 2 = false ∧ linked.present 3 = true := by
  refine ⟨⟨h, by simp [untagged], by simp, by simp, ?_, by simp [untagged], by simp [untagged]⟩, ⟨by decide +kernel, rfl, rfl, by decide +kernel⟩, ?_⟩
  · rw [show untagged.tag = awake.tag from rfl]; decide +kernel
  · decide +kernel

theorem meets_MastersAreElectedAndHoldTheLease :
    linked.reaches VYN_CMD ∧ ({ linked with vyn := { linked.vyn with electing := true } } : State).vyn.electing = true ∧ linked.tag ≠ 0 ∧
    (3, 200) ∈ linked.candidates ∧ (∀ y ∈ linked.candidates, y = (3, 200) ∨ y.2 < 200 ∨ (y.2 = 200 ∧ 3 < y.1)) ∧
    ({ linked with vyn := {} } : State).candidates = [] ∧
    (given linked [(VYN_SYS_STAT, fields [(VYN_SYS_STAT_IS_MASTER, 1)])]).isMaster = true ∧ linked.bit (VYN_LINK 7) VYN_LINK_UP = true ∧
    linked.bit VYN_SYS_STAT VYN_SYS_STAT_CONFLICT = false ∧ 0 < ((5 : Word) - linked.reg VYN_EPOCH).toNat ∧
    ((5 : Word) - linked.reg VYN_EPOCH).toNat < 2 ^ 31 ∧ linked.bit VYN_SYS_STAT VYN_SYS_STAT_NOMASTER = false ∧
    linked.fld VYN_SYS_STAT VYN_SYS_STAT_MASTER_ID = 0 ∧ linked.isMaster = false ∧ linked.vyn.lastLease + 3 * 2 ^ 24 ≤ 50331648 := by decide +kernel

/-- Package 3 is one hop from the master and has aligned. -/
def neighbours : List Neighbour := List.replicate 8 ⟨1, true⟩

theorem meets_ConflictsAndAlignment :
    linked.bit VYN_SYS_STAT VYN_SYS_STAT_CONFLICT = false ∧ linked.bit (VYN_LINK 7) VYN_LINK_UP = true ∧
    linked.bit VYN_SYS_STAT VYN_SYS_STAT_NOMASTER = false ∧ 3 ≠ linked.fld VYN_SYS_STAT VYN_SYS_STAT_MASTER_ID ∧ linked.isMaster = false ∧
    3 ≠ linked.pkgId ∧ ({ playingState with hub := { conflictAt := some 5 } } : State).hub.conflictAt = some 5 ∧
    (∀ r ∈ playingState.runs, r.endCode = none ∧ (playingState.eng r.lowest).run = some r.id) ∧ linked.reaches VYN_CMD ∧ linked.domainOthers ≠ 0 ∧
    awake.domainOthers = 0 ∧ linked.running = false ∧ linked.bit VYN_SYS_STAT VYN_SYS_STAT_ALIGNED = false ∧ linked.hub.aligning = false ∧
    linked.isParent 7 neighbours = true ∧ mastering.isMaster = true ∧ mastering.bit VYN_SYS_STAT VYN_SYS_STAT_ALIGNED = false ∧
    (given linked [(VYN_SYS_STAT, fields [(VYN_SYS_STAT_ALIGNED, 1)])]).bit VYN_SYS_STAT VYN_SYS_STAT_ALIGNED = true ∧
    linked.knowsLinks [⟨0, 3, 0⟩] = true ∧ playingState.running = true := by decide +kernel

/-- Line 0, whose home is this package, with a directory entry and a request that waits. -/
def homeLine (e : DirEntry) (b : Option HomeBusy) : State := { awake with dir := [(0, e)], homeBusy := (b.map (fun x => (0, x))).toList }

/-- A write of this package that waits for that line. -/
def waitingStore : FlowStore := { line := 196608, off := 0, data := [some 7] }

/-- Line 3 × 65,536, whose home is package 3, in this package's cache. -/
def awayLine (x : CacheLine) : State := { linked with cache := [(196608, x)] }

theorem meets_CoherenceRequestsAreServed :
    awake.isHome 0 = true ∧ awake.busyOf 0 = none ∧ 5 ≠ awake.pkgId ∧
    (∀ e ∈ [DirEntry.i, .s 0x22, .s 0x20, .x 6], (homeLine e none).dirOf 0 = e ∧ (homeLine e none).busyOf 0 = none) ∧ nbit 0x22 5 = true ∧
    (bitsOf 16 0x20).filter (fun k => k ≠ 5 ∧ k ≠ awake.pkgId) = [] ∧ (bitsOf 16 0x22).filter (fun k => k ≠ 5 ∧ k ≠ awake.pkgId) ≠ [] ∧
    (homeLine (.x 6) (some { requester := 5, exclusive := true, toAnswer := 64 })).busyOf 0 ≠ none ∧
    HomeWait.mk 0 5 .readS ∉ (homeLine (.x 6) none).homeWaits ∧
    HomeWait.mk 0 5 .readS ∈ ({ homeLine (.x 6) none with homeWaits := [⟨0, 5, .readS⟩] } : State).homeWaits ∧ (awayLine {}).isHome 196608 = false ∧
    (awayLine {}).present (lineHome 196608) = true ∧ (List.replicate 64 (0 : Byte)).length = 64 ∧
    (∀ st ∈ [LineState.i, .s], ((awayLine { st := st }).cline 196608).st = st ∧ (awayLine { st := st }).storeWaits 196608 = false ∧
      ({ awayLine { st := st } with flowStores := [waitingStore] } : State).storeWaits 196608 = true) ∧
    ((awayLine {}).waysTaken 196608).length < 16 := by decide +kernel

theorem meets_EvictionsAndSnoopsAreAnswered :
    6 ≠ awake.pkgId ∧ (homeLine (.x 6) none).dirOf 0 = .x 6 ∧ (homeLine (.x 6) none).busyOf 0 = none ∧ (homeLine (.s 2) none).dirOf 0 ≠ .x 6 ∧
    (∀ x ∈ [true, false], ∀ m ∈ [64, 66], let b : HomeBusy := { requester := 5, exclusive := x, toAnswer := m }
      (homeLine (.x 6) (some b)).busyOf 0 = some b ∧ (∀ w ∈ (homeLine (.x 6) (some b)).homeWaits, w.line ≠ 0) ∧ nbit b.toAnswer 6 = true ∧ b.requester ≠ awake.pkgId ∧ (homeLine (.x 6) (some b)).homeBusy = [(0, b)]) ∧
    setNBit 64 6 false = 0 ∧ setNBit 66 6 false ≠ 0 ∧ (awayLine {}).isHome 196608 = false ∧
    (∀ st ∈ [LineState.m, .e, .s, .i], ((awayLine { st := st }).cline 196608).st = st) := by decide +kernel

theorem meets_FencedAndBarredWritesDoNotAct :
    writtenRegister (.registerWrite 0 (MOD_REQ 0) 1 15 []) = some (0, MOD_REQ 0) ∧
    (awake.setRg 0 { fenced := true }).fencedAt (MOD_REQ 0) = true ∧ awake.fencedAt (MOD_REQ 0) = false ∧
    State.reset.bit BOOT_STAT BOOT_STAT_BOOTING = true ∧ ¬ (hubBlk 3 ≤ MOD_REQ 0 ∧ MOD_REQ 0 < hubBlk 4) ∧
    (given awake [(BOOT_STAT, fields [(BOOT_STAT_FAILED, 1)])]).bit BOOT_STAT BOOT_STAT_FAILED = true ∧
    ¬ (hubBlk 3 ≤ MOD_REQ 0 ∧ MOD_REQ 0 < hubBlk 5) := by decide +kernel

theorem meets_StepRunsTheFrontCommand :
    ({ awake with pending := [.lease 64, .benchTake] } : State).pending = .lease 64 :: [.benchTake] ∧ awake.pending = [] := by decide +kernel

theorem meets_EveryStepKeepsTheCanonicalForm : Canonical { regs := [(MOD_REQ 0, 1)], pending := [.benchTake] } := by
  constructor <;> decide +kernel

/-! For every check of WellFormed, a command that it refuses. -/

theorem test_wf_onBoundary : (Instr.drain 0 0 false 65).wf = false ∧ (Instr.tenonBoundary 0 63 []).wf = false := by decide
theorem test_wf_wordAddr : (Instr.registerWrite 0 (SYS_REF_CTRL + 2) 0 15 []).wf = false := by decide
theorem test_wf_multipleOf : (Instr.tempRead 64 (List.replicate 64 0)).wf = false := by decide
theorem test_wf_fits : (Instr.partnerReadTimeout 0 (2 ^ 46)).wf = false := by decide
theorem test_wf_ofLength : (Instr.alignment 0 64 [] (List.replicate 8 ⟨1, true⟩)).wf = false := by decide
theorem test_wf_atMost : (Instr.idAssignment 1 (List.replicate 17 0) 0 true).wf = false := by decide
theorem test_wf_nonempty : (Instr.partnerMemoryWrite 0 64 [] []).wf = false := by decide
theorem test_wf_noRepeat : (Instr.blockTestDone (.region 0) [3, 3]).wf = false := by decide
theorem test_wf_lineNo : (Instr.putE 0 1048576 []).wf = false := by decide
theorem test_wf_lineReply : (Instr.readS 0 0 (.data [1]) []).wf = false := by decide
theorem test_wf_lineSent : (Instr.putM 0 0 .error []).wf = false := by decide
theorem test_wf_lineOfSlots : (Instr.tenonProduced 0 .main 64 [⟨0, 5, .idle⟩, ⟨0, 5, .vector 1⟩]).wf = false := by decide
theorem test_wf_codeCount : (Instr.adcSequenceEnd 0 64 [1, 2, 3]).wf = false := by decide
theorem test_wf_answerFits : (Instr.fwdS 0 0 (.data .error) []).wf = false := by decide
theorem test_wf_laneGroup : (Instr.vyeneLinkTrained 0 5 ⟨1, 0, 0, true, 0⟩ 0 64).wf = false := by decide
theorem test_wf_identityFits : (Instr.systemJoin 0 ⟨2 ^ 64, 0, 0, true, 0⟩ none).wf = false := by decide
theorem test_wf_repairFits : (Instr.repairAppend 5 0 0 0 0).wf = false := by decide
theorem test_wf_storeAddress : (Instr.storeReload 0x3FF00000000 false).wf = false := by decide
/-- Commands as their rows give them pass. -/
theorem test_wf_good : (Instr.drain 0 0 false 64).wf = true ∧ (Instr.registerWrite 0 SYS_REF_CTRL 0 15 []).wf = true ∧
    (Instr.adcSequenceEnd 0 64 [1, 2]).wf = true ∧ (Instr.tenonProduced 0 .main 64 [⟨0, 5, .idle⟩, ⟨1, 5, .vector 1⟩]).wf = true := by decide

/-! Results that the spec works out. -/

/-- 01_architecture.md, "Locating CL45 in package 3": the SCR block, the engines, digitisers and pins, the buffer. -/
theorem test_locate_cl45 : clBlk 45 9 = 0x3F02D900000 ∧ addrKind 0x3000B700000 = .scratch 45 ∧
    engCl 180 = 45 ∧ engCl 183 = 45 ∧ digCl 90 = 45 ∧ digCl 91 = 45 ∧ pinCl 720 = 45 ∧ pinCl 735 = 45 := by decide
/-- 13_dma_and_queues.md: ring ID 0x40C5 is index 5 of channel 259, in region 2, its context at 0x3F1_0212_0C50. -/
theorem test_locate_ring : ringCh 0x40C5 = 259 ∧ ringRg 0x40C5 = 2 ∧ ringLr 0x40C5 = 197 ∧ RING_BASE_LO 2 197 = 0x3F102120C50 := by decide
/-- 18_vyene_system.md: two links of 20,480 kf and 25,610 kf that follow one another cost 17,105 gr. -/
theorem test_link_term : linkTerm [⟨0, 1, 20480⟩, ⟨1, 2, 25610⟩] = 17105 := by decide +kernel
/-- 05_compare_and_protection.md: a threshold of +400 mV drives code 409. -/
theorem test_threshold_400 : thresholdCode 400 = 409 := by decide
/-- 04_drive_and_waveforms.md: with VL −200 mV and VH +1,060 mV a sample of 33 drives +460 mV. -/
theorem test_drive_460 : ((awake.setBoth (FMT_VH 0 0) (BitVec.ofNat 32 1060)).setBoth (FMT_VL 0 0) (BitVec.ofInt 32 (-200) &&& 0xFFFF)).driveMv63 0 33 = 63 * 460 := by
  decide +kernel
/-- 08_fail_capture.md: the record of PIN 50, kind LOW, TS 2, VADDR and cycle 4,096, and its bytes. -/
theorem test_fail_record : scribeBits 0 4096 2 1 50 4096 = 0x00000000004000243200000000001000 ∧
    leBytes 16 (scribeBits 0 4096 2 1 50 4096).toNat = [0, 0x10, 0, 0, 0, 0, 0, 0x32, 0x24, 0, 0x40, 0, 0, 0, 0, 0] := by decide +kernel
/-- 07_vector_coding.md: frame 0 of the example leaf takes 45 bytes, frame 1 takes 9, one REPEAT byte gives the other 62. -/
theorem test_leaf_example :
    let l0 : List Byte := [0, 7, 0, 4, 0, 0x1F, 0x1F, 0x0F, 0x0F, 0x5F, 0x5F, 0x5F, 0x5F] ++ List.replicate 32 0x10
    let l1 : List Byte := [0x40, 1, 0, 0, 0, 0x0F, 0x0F, 0x1F, 0x1F]
    ∃ f0 f1 : SymFrame, parseFrame {} 0 0 (l0 ++ l1 ++ [0xFD]) = .got [f0] 45 ∧ parseFrame f0 1 0 (l1 ++ [0xFD]) = .got [f1] 9 ∧
      parseFrame f1 2 0 [0xFD] = .got (List.replicate 62 f1) 1 ∧ slice f0.bits.toNat 0 16 = 0x0051 ∧ slice f0.bits.toNat (64 * 33) 16 = 0x0150 ∧
      slice f1.bits.toNat (64 * 33) 16 = 0x0151 := by
  exact ⟨_, _, rfl, rfl, rfl, by decide +kernel, by decide +kernel, by decide +kernel⟩
/-- FIPS 180-4, which R429 names: the digest of "abc". -/
theorem test_sha256_abc : sha256 [0x61, 0x62, 0x63] =
    [0xBA, 0x78, 0x16, 0xBF, 0x8F, 0x01, 0xCF, 0xEA, 0x41, 0x41, 0x40, 0xDE, 0x5D, 0xAE, 0x22, 0x23,
     0xB0, 0x03, 0x61, 0xA3, 0x96, 0x17, 0x7A, 0x9C, 0xB4, 0x10, 0xFF, 0x61, 0xF2, 0x00, 0x15, 0xAD] := by decide +kernel
/-- Reset leaves no command waiting, and a command put in front runs on the rest of the queue. -/
theorem test_step_front : step { awake with pending := [.syncOutPulse 16777216] } =
    .next { awake with gt := 16777216, outs := [.syncOut 16777216] } := by
  rfl

end Sys2Proof.Tests
end

section
namespace Sys2Proof.Machine

/-- Every command that is a partner's write of one register acts only as far as its write reaches the register. -/
theorem exec_of_writtenRegister (i : Instr) (p : PortNo) (a : Nat) (s : State) (h : writtenRegister i = some (p, a)) :
    ∃ act, exec i s = .next (s.reach p.val a act) := by
  cases i with
  | registerWrite port addr value be finds =>
    by_cases hr : regAligned addr = true
    · rw [writtenRegister, if_pos hr] at h
      cases h
      exact ⟨_, by rw [exec, execRegisterWrite, if_pos hr]⟩
    · rw [writtenRegister, if_neg hr] at h
      cases h
  | flagSetWrite port addr value b =>
    dsimp only [writtenRegister] at h
    split at h
    · next keys hk =>
      cases h
      exact ⟨_, by rw [exec, execFlagSetWrite, hk]⟩
    · cases h
  | flagClrWrite port addr value b =>
    dsimp only [writtenRegister] at h
    split at h
    · next keys hk =>
      cases h
      exact ⟨_, by rw [exec, execFlagClrWrite, hk]⟩
    · cases h
  | dowel port =>
    cases port with
    | none => cases h
    | some q =>
      cases h
      exact ⟨_, rfl⟩
  | _ => cases h <;> exact ⟨_, rfl⟩

theorem State.writeBarred_of_booting (s : State) (a : Nat) (h : s.bit BOOT_STAT BOOT_STAT_BOOTING = true)
    (ha : ¬ (hubBlk 3 ≤ a ∧ a < hubBlk 4)) : s.writeBarred a = true := by
  simp only [State.writeBarred, h, ← Bool.decide_and, decide_eq_false ha, Bool.not_false, Bool.and_true, Bool.true_or]

theorem State.writeBarred_of_failed (s : State) (a : Nat) (h : s.bit BOOT_STAT BOOT_STAT_FAILED = true)
    (ha : ¬ (hubBlk 3 ≤ a ∧ a < hubBlk 5)) : s.writeBarred a = true := by
  have hboot : ¬ (hubBlk 3 ≤ a ∧ a < hubBlk 4) := fun hb => ha ⟨hb.1, hb.2.trans (by decide)⟩
  have hprt : ¬ (hubBlk 4 ≤ a ∧ a < hubBlk 5) := fun hb => ha ⟨le_trans (by decide) hb.1, hb.2⟩
  simp only [State.writeBarred, h, ← Bool.decide_and, decide_eq_false hboot, decide_eq_false hprt, Bool.not_false, Bool.and_true,
    Bool.or_true]

/-- Settles O4: each such command is a `reach` of its register. -/
theorem fencedAndBarredWritesDoNotAct : Obligations.FencedAndBarredWritesDoNotAct := by
  intro i p a s h
  obtain ⟨act, hexec⟩ := exec_of_writtenRegister i p a s h
  rw [hexec]
  refine ⟨fun hf hb => ?_, fun hb ha => ?_, fun hf ha => ?_⟩
  · rw [s.reach_fenced _ _ _ hf hb]
  · rw [s.reach_barred _ _ _ (s.writeBarred_of_booting a hb ha)]
  · rw [s.reach_barred _ _ _ (s.writeBarred_of_failed a hf ha)]
end Sys2Proof.Machine
end

section
namespace Sys2Proof.Machine

/-! What a device write and an event leave of the pins: a write over the segment that a pin plays notes the old bytes with its player
(R152). -/

/-- A pin but for its player. -/
def State.pinView (s : State) (p : Nat) : PinSt := { s.pin p with player := none }

theorem State.pinsKept_of_pinView {s t : State} (h : t.pinView = s.pinView) : s.pinsKept t := fun p => congrFun h p

theorem State.updPin_pinView {s : State} (p : Nat) (f : PinSt → PinSt)
    (h : ∀ x, ({ f x with player := none } : PinSt) = { x with player := none }) : (s.updPin p f).pinView = s.pinView := by
  funext q
  by_cases hq : q = p
  · subst hq
    simp only [State.pinView, State.updPin_pin, h]
  · simp only [State.pinView, State.updPin_pin_ne _ _ _ _ hq]

theorem pinView_foldl {α : Type} {f : State → α → State} (hf : ∀ t x, (f t x).pinView = t.pinView) (l : List α) (s : State) :
    (l.foldl f s).pinView = s.pinView := foldl_obs f State.pinView hf l s

section

variable (s : State)

@[simp] theorem State.setCline_pinView (l : Nat) (x : CacheLine) : (s.setCline l x).pinView = s.pinView := by rfl
@[simp] theorem State.setDir_pinView (l : Nat) (x : DirEntry) : (s.setDir l x).pinView = s.pinView := by rfl
@[simp] theorem State.setPoison_pinView (a : Nat) (b : Bool) : (s.setPoison a b).pinView = s.pinView := by rfl
@[simp] theorem State.send_pinView (o : Output) : (s.send o).pinView = s.pinView := by rfl
@[simp] theorem State.setBusy_pinView (l : Nat) (x : HomeBusy) : (s.setBusy l x).pinView = s.pinView := by rfl
@[simp] theorem State.clearBusy_pinView (l : Nat) : (s.clearBusy l).pinView = s.pinView := by rfl
@[simp] theorem State.useFree_pinView : s.useFree.pinView = s.pinView := by rfl
@[simp] theorem State.dropLine_pinView (l : Nat) (x : CacheLine) : (s.dropLine l x).pinView = s.pinView := by rfl
@[simp] theorem State.setReg_pinView (a : Nat) (w : Word) : (s.setReg a w).pinView = s.pinView := by rfl
@[simp] theorem State.setPair_pinView (lo hi v : Nat) : (s.setPair lo hi v).pinView = s.pinView := by rfl
@[simp] theorem State.countSat_pinView (a : Nat) (f : Fld) (k : Nat) : (s.countSat a f k).pinView = s.pinView := by rfl
@[simp] theorem State.setPort_pinView (n : Nat) (x : PortSt) : (s.setPort n x).pinView = s.pinView := by rfl

@[simp] theorem State.segTouch_pinView (a : Nat) (l : List Byte) : (s.segTouch a l).pinView = s.pinView := by
  unfold State.segTouch
  split
  · split
    · refine (pinView_foldl (fun t u => ?_) _ _).trans rfl
      split
      · split
        · rfl
        · exact State.updPin_pinView _ _ fun _ => rfl
      · rfl
    · rfl
  · rfl

@[simp] theorem State.putBytes_pinView (a : Nat) (l : List Byte) : (s.putBytes a l).pinView = s.pinView :=
  s.segTouch_pinView a _

@[simp] theorem State.putEnabled_pinView (a : Nat) (l : List (Option Byte)) : (s.putEnabled a l).pinView = s.pinView := by
  induction l generalizing s a with
  | nil => rfl
  | cons x l ih => cases x <;> simp [State.putEnabled, ih]

@[simp] theorem State.unpoison_pinView (a n : Nat) : (s.unpoison a n).pinView = s.pinView := by
  unfold State.unpoison
  refine pinView_foldl (fun t k => ?_) _ _
  split <;> simp

@[simp] theorem State.setHomeData_pinView (l : Nat) (x : Payload) : (s.setHomeData l x).pinView = s.pinView := by
  cases x <;> simp [State.setHomeData]

@[simp] theorem State.evictOwn_pinView (l : Nat) (b : Bool) : (s.evictOwn l b).pinView = s.pinView := by
  unfold State.evictOwn
  split
  · cases b <;> simp
  · simp

@[simp] theorem State.evict_pinView (l : Nat) : (s.evict l).pinView = s.pinView := by
  unfold State.evict
  split <;> simp

@[simp] theorem State.makeRoom_pinView (l : Nat) : (s.makeRoom l).pinView = s.pinView := by
  unfold State.makeRoom
  dsimp only
  split <;> simp

@[simp] theorem State.fillLine_pinView (l : Nat) (st : LineState) (x : Payload) : (s.fillLine l st x).pinView = s.pinView := by
  cases x <;> simp [State.fillLine]

@[simp] theorem State.flowPut_pinView (x : FlowStore) : (s.flowPut x).pinView = s.pinView := by
  unfold State.flowPut
  dsimp only
  split
  · simp
  · split <;> simp

@[simp] theorem State.storesGo_pinView (l : Nat) : (s.storesGo l).pinView = s.pinView := by
  unfold State.storesGo
  split
  · rfl
  · rfl
  · exact (pinView_foldl (fun t x => t.flowPut_pinView x) _ _).trans rfl

@[simp] theorem State.grantShared_pinView (l r m : Nat) : (s.grantShared l r m).pinView = s.pinView := by
  unfold State.grantShared
  dsimp only
  split <;> simp

@[simp] theorem State.grantExclusive_pinView (l r : Nat) (b : Bool) : (s.grantExclusive l r b).pinView = s.pinView := by
  unfold State.grantExclusive
  dsimp only
  split
  · split <;> simp
  · simp

@[simp] theorem State.recallOwn_pinView (l : Nat) (b : Bool) : (s.recallOwn l b).pinView = s.pinView := by
  unfold State.recallOwn
  extract_lets x t
  have ht : t.pinView = s.pinView := by dsimp only [t]; split <;> simp
  cases b <;> simp [ht]

@[simp] theorem State.homeReadS_pinView (r l : Nat) : (s.homeReadS r l).pinView = s.pinView := by
  unfold State.homeReadS
  split
  · simp
  · simp
  · split <;> simp

@[simp] theorem State.homeInvalidate_pinView (r l m : Nat) (b : Bool) : (s.homeInvalidate r l m b).pinView = s.pinView := by
  unfold State.homeInvalidate
  extract_lets t rest
  have ht : t.pinView = s.pinView := by dsimp only [t]; split <;> simp
  split
  · simp [ht]
  · exact ((pinView_foldl (fun t k => t.send_pinView _) _ _).trans (t.setBusy_pinView _ _)).trans ht

@[simp] theorem State.homeReadX_pinView (r l : Nat) : (s.homeReadX r l).pinView = s.pinView := by
  unfold State.homeReadX
  split
  · simp
  · simp
  · split <;> simp

@[simp] theorem State.homeUpgrade_pinView (r l : Nat) : (s.homeUpgrade r l).pinView = s.pinView := by
  unfold State.homeUpgrade
  split
  · split <;> simp
  · simp

@[simp] theorem State.homeServe_pinView (r l : Nat) (q : HomeReq) : (s.homeServe r l q).pinView = s.pinView := by
  cases q <;> simp [State.homeServe]

@[simp] theorem State.homeRequest_pinView (r l : Nat) (q : HomeReq) : (s.homeRequest r l q).pinView = s.pinView := by
  unfold State.homeRequest
  dsimp only
  split
  · split <;> rfl
  · exact (State.homeServe_pinView _ _ _ _).trans rfl

@[simp] theorem State.flowAsk_pinView (l : Nat) : (s.flowAsk l).pinView = s.pinView := by
  unfold State.flowAsk
  dsimp only
  split <;> simp

theorem State.flowWrite_pinView {t : State} {l : Nat} (e : s.flowWrite l = some t) : t.pinView = s.pinView := by
  unfold State.flowWrite at e
  dsimp only at e
  split at e
  · cases e
  · split at e
    · cases e
      rfl
    · cases e
      simp
    · split at e
      · split at e
        · cases e
          simp
        · split at e
          · cases e
            simp
          · cases e
        · cases e
      · cases e

@[simp] theorem State.flowStore1_pinView (x : FlowStore) : (s.flowStore1 x).pinView = s.pinView := by
  unfold State.flowStore1
  split
  · next t ht => exact (t.flowPut_pinView x).trans (s.flowWrite_pinView ht)
  · dsimp only
    split
    · rfl
    · exact (rfl : _ = (s.flowAsk x.line).pinView).trans (s.flowAsk_pinView _)

/-- A device write leaves the pins but for their players. -/
@[simp] theorem State.store_pinView (a : Nat) (l : List Byte) : (s.store a l).pinView = s.pinView := by
  unfold State.store
  split
  · rfl
  · split <;> simp

@[simp] theorem State.msix_pinView (n : Nat) : (s.msix n).pinView = s.pinView := by
  unfold State.msix
  split <;> simp

@[simp] theorem State.eventPort_pinView (code src unit arg value n : Nat) :
    (s.eventPort code src unit arg value n).pinView = s.pinView := by
  unfold State.eventPort
  split <;> simp

/-- So does an event. -/
@[simp] theorem State.event_pinView (code src unit arg value : Nat) : (s.event code src unit arg value).pinView = s.pinView :=
  pinView_foldl (fun t n => t.eventPort_pinView code src unit arg value n) _ s

end

end Sys2Proof.Machine
end

section
namespace Sys2Proof.Machine

/-! What Scribe does with a result of a pin (R237-R258): it touches the registers of the cluster's SCR block, what an event touches, the
records of the cluster and of the pin, and the closed counting windows of its other pins. -/

/-- The state but for what Scribe, an event and a collecting branch touch. -/
def State.sansResult (s : State) : State :=
  { s.sansMem with gt := 0, regs := [], ports := [], clusters := [], engines := [] }

/-- From s to t a result of pin p has touched nothing but what such a result touches. -/
structure ResultOnly (p : Nat) (s t : State) : Prop where
  rest : t.sansResult = s.sansResult
  regs : ∀ a, a < clBlk (pinCl p) 9 ∨ clBlk (pinCl p) 10 ≤ a → a < hubBlk 4 ∨ hubBlk 5 ≤ a → t.reg a = s.reg a
  cl : ∀ c, c ≠ pinCl p → t.cl c = s.cl c
  pin : ∀ q, q ≠ p → ({ t.pin q with player := none, oldWindow := none } : PinSt) = { s.pin q with player := none, oldWindow := none }

namespace ResultOnly

variable {p : Nat} {s t u : State}

theorem refl (p : Nat) (s : State) : ResultOnly p s s := ⟨rfl, fun _ _ _ => rfl, fun _ _ => rfl, fun _ _ => rfl⟩

theorem trans (h : ResultOnly p s t) (k : ResultOnly p t u) : ResultOnly p s u :=
  ⟨k.rest.trans h.rest, fun a ha hb => (k.regs a ha hb).trans (h.regs a ha hb), fun c hc => (k.cl c hc).trans (h.cl c hc),
    fun q hq => (k.pin q hq).trans (h.pin q hq)⟩

theorem ite {c : Prop} [Decidable c] (h : ResultOnly p s t) (k : ResultOnly p s u) : ResultOnly p s (if c then t else u) := by
  split <;> assumption

theorem foldl {α : Type} {f : State → α → State} (l : List α) (hf : ∀ x ∈ l, ∀ t, ResultOnly p t (f t x)) (s : State) :
    ResultOnly p s (l.foldl f s) := by
  induction l generalizing s with
  | nil => exact refl p s
  | cons x l ih =>
    exact (hf x (List.mem_cons_self ..) s).trans (ih (fun y hy => hf y (List.mem_cons_of_mem _ hy)) (f s x))

theorem event (p : Nat) (s : State) (code src unit arg value : Nat) : ResultOnly p s (s.event code src unit arg value) where
  rest := congrArg (fun x : State => ({ x with gt := 0, clusters := [], engines := [] } : State)) (s.event_portsOnly code src unit arg value).rest
  regs a _ ha := (s.event_portsOnly code src unit arg value).regs a ha
  cl c _ := s.event_cl code src unit arg value c
  pin q _ := congrArg (fun x : PinSt => ({ x with oldWindow := none } : PinSt)) (congrFun (s.event_pinView code src unit arg value) q)

theorem setReg (p : Nat) (s : State) (a : Nat) (w : Word) (h : clBlk (pinCl p) 9 ≤ a) (k : a < clBlk (pinCl p) 10) :
    ResultOnly p s (s.setReg a w) :=
  ⟨rfl, fun m hm _ => State.setReg_reg_ne s a w m (by omega), fun _ _ => rfl, fun _ _ => rfl⟩

theorem updCl (p : Nat) (s : State) (f : ClSt → ClSt) : ResultOnly p s (s.updCl (pinCl p) f) :=
  ⟨rfl, fun _ _ _ => rfl, fun c hc => State.updCl_cl_ne s _ f c hc, fun _ _ => rfl⟩

theorem updPin (s : State) (q : Nat) (f : PinSt → PinSt)
    (h : q = p ∨ ∀ x, ({ f x with player := none, oldWindow := none } : PinSt) = { x with player := none, oldWindow := none }) :
    ResultOnly p s (s.updPin q f) := by
  refine ⟨rfl, fun _ _ _ => rfl, fun _ _ => rfl, fun m hm => ?_⟩
  by_cases e : m = q
  · subst e
    rw [State.updPin_pin]
    exact h.elim (fun e => absurd e hm) (fun h => h _)
  · rw [State.updPin_pin_ne _ _ _ _ e]

theorem setEng (p : Nat) (s : State) (e : Nat) (x : EngSt) : ResultOnly p s (s.setEng e x) :=
  ⟨rfl, fun _ _ _ => rfl, fun _ _ => rfl, fun _ _ => rfl⟩

end ResultOnly

variable {p : Nat} (s : State)

/-- The registers of the SCR block of a cluster. -/
theorem State.setScr_resultOnly (i : Nat) {a : Nat} (w : Word) (h : a = clBlk (pinCl p) 9 + i) (hi : i < 0x100000) :
    ResultOnly p s (s.setReg a w) := by
  refine ResultOnly.setReg p s a w ?_ ?_ <;> unfold clBlk at * <;> omega

theorem State.recordFigs_resultOnly (unit : Option Nat) (f : RunFigures → RunFigures) :
    ResultOnly p s (s.recordFigs (pinCl p) unit f) := by
  unfold State.recordFigs
  split
  · exact ResultOnly.updCl p s _
  · split
    · exact ResultOnly.updCl p s _
    · exact ResultOnly.refl p s

theorem State.queueRecord_resultOnly (unit : Option Nat) (hu : ∀ u, unit = some u → u < 16)
    (grain rank flags vaddr ts kind pin cycle : Nat) :
    ResultOnly p s (s.queueRecord (pinCl p) unit grain rank flags vaddr ts kind pin cycle) := by
  unfold State.queueRecord
  extract_lets sat t0 x t1 t2 t3 t4 loss fl cyc t5
  have h0 : ResultOnly p s t0 := ResultOnly.ite (s.setScr_resultOnly 0x14 _ rfl (by decide)) (ResultOnly.refl p s)
  split
  · have h1 : ResultOnly p t0 t1 :=
      (t0.setScr_resultOnly 0x18 _ rfl (by decide)).trans (State.setScr_resultOnly _ 0x14 _ rfl (by decide))
    have h2 : ResultOnly p t1 t2 := by
      dsimp only [t2]
      split
      · next u =>
        have := hu u rfl
        exact t1.setScr_resultOnly (0x100 + u * 4) _ (Nat.add_assoc ..) (by omega)
      · exact ResultOnly.refl p t1
    have h4 : ResultOnly p t2 t4 := (ResultOnly.updCl p t2 _).trans (State.recordFigs_resultOnly t3 unit _)
    have h : ResultOnly p s t4 := h0.trans (h1.trans (h2.trans h4))
    exact ResultOnly.ite h (h.trans (ResultOnly.event p t4 ..))
  · exact h0.trans ((ResultOnly.updCl p t0 _).trans (State.recordFigs_resultOnly t5 unit _))

theorem State.flushOld_resultOnly (u : Nat) (hu : u < 16) (g : Nat) : ResultOnly p s (s.flushOld (pinCl p) u g) := by
  unfold State.flushOld
  split
  · refine ResultOnly.ite ?_ (ResultOnly.refl p s)
    have h : ResultOnly p s (s.updPin (16 * pinCl p + u) fun x => { x with oldWindow := none }) :=
      ResultOnly.updPin s _ _ (.inr fun _ => rfl)
    refine h.trans ?_
    unfold State.emitCount
    exact ResultOnly.ite (State.queueRecord_resultOnly _ (some u) (fun v hv => by cases hv; exact hu) ..) (ResultOnly.refl p _)
  · exact ResultOnly.refl p s

theorem State.scribePut_resultOnly (u : Nat) (hu : u < 16) (grain rank flags vaddr ts kind pin cycle : Nat) :
    ResultOnly p s (s.scribePut (pinCl p) (some u) grain rank flags vaddr ts kind pin cycle) := by
  unfold State.scribePut
  have h : ResultOnly p s ((List.range 16).foldl (fun t u => t.flushOld (pinCl p) u grain) s) :=
    ResultOnly.foldl _ (fun v hv t => t.flushOld_resultOnly v (List.mem_range.mp hv) grain) s
  exact h.trans (State.queueRecord_resultOnly _ (some u) (fun v hv => by cases hv; exact hu) ..)

theorem State.scribeResult_resultOnly (x : Cycle) (tag grain : Nat) (lf hf tripped : Bool) :
    ResultOnly p s (s.scribeResult p x tag grain lf hf tripped) := by
  have hu : pinUnit p < 16 := Nat.mod_lt _ (by decide)
  unfold State.scribeResult
  extract_lets c u kind fl put bump
  have hput : ∀ (t : State) (n : Nat), ResultOnly p t (put t n) := fun t n => t.scribePut_resultOnly u hu ..
  have hown : ∀ (b : Prop) [Decidable b] (n : Nat) (f : PinSt → PinSt), ResultOnly p s ((if b then put s n else s).updPin p f) :=
    fun b _ n f => (ResultOnly.ite (hput s n) (ResultOnly.refl p s)).trans (ResultOnly.updPin _ p f (.inl rfl))
  split
  · exact ResultOnly.refl p s
  · split
    · exact s.setScr_resultOnly (0x200 + u * 4) _ (Nat.add_assoc ..) (by omega)
    · refine ResultOnly.ite (ResultOnly.ite ?_ (hput s 0)) (ResultOnly.refl p s)
      split
      · refine ResultOnly.ite (hown _ _ _) ?_
        split
        · exact hown _ _ _
        · exact ResultOnly.refl p s
      · split
        · exact hown _ _ _
        · exact ResultOnly.refl p s
    · exact ResultOnly.refl p s

theorem State.collect_resultOnly (e g : Nat) (fail miss : Bool) : ResultOnly p s (s.collect p e g fail miss) := by
  unfold State.collect
  split
  · exact ResultOnly.refl p s
  · split
    · exact ResultOnly.refl p s
    · refine ResultOnly.foldl _ (fun k _ t => ?_) s
      exact ResultOnly.ite (ResultOnly.setEng p t _ _) (ResultOnly.refl p t)

end Sys2Proof.Machine
end

section
namespace Sys2Proof.Machine

/-! Bits of a number and sticky bits of a register. -/

theorem nbit_eq_testBit (v n : Nat) : nbit v n = v.testBit n := by
  rw [Nat.testBit_eq_decide_div_mod_eq]
  exact beq_eq_decide _ _

theorem nbit_mod_two_pow (v : Nat) {n w : Nat} (h : n < w) : nbit (v % 2 ^ w) n = nbit v n := by
  simp only [nbit_eq_testBit, Nat.testBit_mod_two_pow, h, decide_true, Bool.true_and]

theorem nbit_setNBit_true (v n : Nat) : nbit (setNBit v n true) n = true := by
  have hlt : v % 2 ^ n < 2 ^ n := Nat.mod_lt _ (Nat.two_pow_pos n)
  have hdiv : setNBit v n true / 2 ^ n = 2 * (v / 2 ^ (n + 1)) + 1 := by
    have e : setNBit v n true = v % 2 ^ n + (2 * (v / 2 ^ (n + 1)) + 1) * 2 ^ n := by
      simp only [setNBit, if_true, pow_succ]; ring
    rw [e, Nat.add_mul_div_right _ _ (Nat.two_pow_pos n), Nat.div_eq_of_lt hlt, Nat.zero_add]
  simp only [nbit, hdiv, beq_iff_eq]
  omega

theorem State.orBit_fbit (s : State) (a : Nat) (f : Fld) (u : Nat) (h : f.lo ≤ f.hi) (k : f.hi < 32) (hu : u < f.width) :
    (s.orBit a f u).fbit a f u = true := by
  unfold State.fbit State.orBit
  rw [State.setFld_fld _ _ _ _ h k, nbit_mod_two_pow _ hu, nbit_setNBit_true]

theorem State.orBit_fbit_apart (s : State) (a : Nat) (f g : Fld) (u n : Nat) (h : f.apart g = true) :
    (s.orBit a f u).fbit a g n = s.fbit a g n := by
  unfold State.fbit State.orBit
  rw [State.setFld_fld_apart _ _ _ _ _ h]

theorem State.fld_lt (s : State) (a : Nat) (f : Fld) : s.fld a f < 2 ^ f.width := Nat.mod_lt _ (Nat.two_pow_pos _)

theorem State.countSat_fld (s : State) (a : Nat) (f : Fld) (k : Nat) (h : f.lo ≤ f.hi) (hf : f.hi < 32) :
    (s.countSat a f k).fld a f = satAdd f.width (s.fld a f) k := by
  unfold State.countSat
  rw [State.setFld_fld _ _ _ _ h hf, Nat.mod_eq_of_lt]
  have := Nat.two_pow_pos f.width
  unfold satAdd
  omega

/-! The judgement of a strobe's samples (R160, R161, R164). -/

theorem exists_getElem?_cons {α : Type} (P : Nat → α → Prop) (a : α) (l : List α) :
    (∃ i v, (a :: l)[i]? = some v ∧ P i v) ↔ P 0 a ∨ ∃ i v, l[i]? = some v ∧ P (i + 1) v := by
  constructor
  · rintro ⟨i, v, hv, h⟩
    cases i with
    | zero => cases hv; exact .inl h
    | succ i => exact .inr ⟨i, v, hv, h⟩
  · rintro (h | ⟨i, v, hv, h⟩)
    · exact ⟨0, a, rfl, h⟩
    · exact ⟨i + 1, v, hv, h⟩

/-- The fail bits of a strobe are those of any of its samples, each taken at its own grain. -/
theorem State.judgeAll_iff (s : State) (p code : Nat) (l : List Int) (g : Nat) :
    ((s.judgeAll p code g l).1 = true ↔
      ∃ i v, l[i]? = some v ∧ (judge code (s.ql p (g + i) v) (s.qh p (g + i) v)).1 = true) ∧
    ((s.judgeAll p code g l).2 = true ↔
      ∃ i v, l[i]? = some v ∧ (judge code (s.ql p (g + i) v) (s.qh p (g + i) v)).2 = true) := by
  induction l generalizing g with
  | nil => simp [State.judgeAll]
  | cons a l ih =>
    obtain ⟨hl, hh⟩ := ih (g + 1)
    rw [exists_getElem?_cons (fun i v => (judge code (s.ql p (g + i) v) (s.qh p (g + i) v)).1 = true),
      exists_getElem?_cons (fun i v => (judge code (s.ql p (g + i) v) (s.qh p (g + i) v)).2 = true)]
    simp only [State.judgeAll, Bool.or_eq_true, hl, hh, Nat.add_zero, Nat.add_comm 1, Nat.add_assoc, and_self]

/-! The marks of a result (R162, R166). -/

/-- A result's pin marked: its sticky bits and CMP_FCNT. -/
def State.markRegs (s : State) (p : Nat) (lf hf : Bool) : State :=
  let t := if lf then s.orBit (CMP_FAIL_STICKY (pinCl p)) CMP_FAIL_STICKY_LF (pinUnit p) else s
  let t := if hf then t.orBit (CMP_FAIL_STICKY (pinCl p)) CMP_FAIL_STICKY_HF (pinUnit p) else t
  if lf || hf then t.countSat (CMP_FCNT (pinCl p) (pinUnit p)) CMP_FCNT_COUNT 1 else t

/-- After the marks a result touches the figures, Scribe and the branches that collect it. -/
theorem State.result_resultOnly (s : State) (p : Nat) (x : Cycle) (tag grain : Nat) (lf hf tripped : Bool) :
    ResultOnly p (s.markRegs p lf hf) (s.result p x tag grain lf hf tripped) := by
  unfold State.result State.markRegs
  extract_lets m0 m1 c u t0 t1 t2 t3
  have h : ResultOnly p (if lf || hf then t2 else t1) t3 := by
    dsimp only [t3]
    split
    · split
      · exact ResultOnly.updCl p t2 _
      · exact ResultOnly.refl p t2
    · exact ResultOnly.refl p t1
  exact h.trans ((t3.scribeResult_resultOnly ..).trans (State.collect_resultOnly ..))

theorem State.markRegs_frame (s : State) (p : Nat) (lf hf : Bool) : ∃ r, s.markRegs p lf hf = { s with regs := r } := by
  unfold State.markRegs
  extract_lets t0 t1
  obtain ⟨r0, e0⟩ : ∃ r, t0 = { s with regs := r } := by
    cases lf
    · exact ⟨_, rfl⟩
    · exact s.orBit_frame _ _ _
  obtain ⟨r1, e1⟩ : ∃ r, t1 = { s with regs := r } := by
    dsimp only [t1]
    rw [e0]
    cases hf
    · exact ⟨r0, rfl⟩
    · exact ⟨_, rfl⟩
  rw [e1]
  cases lf || hf
  · exact ⟨r1, rfl⟩
  · exact ⟨_, rfl⟩

theorem sticky_ne_fcnt (c u : Nat) (h : u < 16) : CMP_FAIL_STICKY c ≠ CMP_FCNT c u := by
  unfold CMP_FAIL_STICKY CMP_FCNT; omega

section

variable (s : State) (p : Nat) (lf hf : Bool)

theorem pinUnit_lt (p : Nat) : pinUnit p < 16 := Nat.mod_lt _ (by decide)

theorem State.markRegs_lf : (s.markRegs p lf hf).fbit (CMP_FAIL_STICKY (pinCl p)) CMP_FAIL_STICKY_LF (pinUnit p) =
    (s.fbit (CMP_FAIL_STICKY (pinCl p)) CMP_FAIL_STICKY_LF (pinUnit p) || lf) := by
  have hu := pinUnit_lt p
  have hcount : ∀ t : State, (t.countSat (CMP_FCNT (pinCl p) (pinUnit p)) CMP_FCNT_COUNT 1).fbit (CMP_FAIL_STICKY (pinCl p))
      CMP_FAIL_STICKY_LF (pinUnit p) = t.fbit (CMP_FAIL_STICKY (pinCl p)) CMP_FAIL_STICKY_LF (pinUnit p) := fun t => by
    unfold State.fbit; rw [State.countSat_fld_ne _ _ _ _ _ _ (sticky_ne_fcnt _ _ hu)]
  have hset := fun t : State => t.orBit_fbit (CMP_FAIL_STICKY (pinCl p)) CMP_FAIL_STICKY_LF (pinUnit p) (by decide) (by decide) hu
  have hhigh := fun t : State => t.orBit_fbit_apart (CMP_FAIL_STICKY (pinCl p)) CMP_FAIL_STICKY_HF CMP_FAIL_STICKY_LF (pinUnit p)
    (pinUnit p) (by decide)
  cases lf <;> cases hf <;> simp [State.markRegs, hcount, hset, hhigh]

theorem State.markRegs_hf : (s.markRegs p lf hf).fbit (CMP_FAIL_STICKY (pinCl p)) CMP_FAIL_STICKY_HF (pinUnit p) =
    (s.fbit (CMP_FAIL_STICKY (pinCl p)) CMP_FAIL_STICKY_HF (pinUnit p) || hf) := by
  have hu := pinUnit_lt p
  have hcount : ∀ t : State, (t.countSat (CMP_FCNT (pinCl p) (pinUnit p)) CMP_FCNT_COUNT 1).fbit (CMP_FAIL_STICKY (pinCl p))
      CMP_FAIL_STICKY_HF (pinUnit p) = t.fbit (CMP_FAIL_STICKY (pinCl p)) CMP_FAIL_STICKY_HF (pinUnit p) := fun t => by
    unfold State.fbit; rw [State.countSat_fld_ne _ _ _ _ _ _ (sticky_ne_fcnt _ _ hu)]
  have hset := fun t : State => t.orBit_fbit (CMP_FAIL_STICKY (pinCl p)) CMP_FAIL_STICKY_HF (pinUnit p) (by decide) (by decide) hu
  have hlow := fun t : State => t.orBit_fbit_apart (CMP_FAIL_STICKY (pinCl p)) CMP_FAIL_STICKY_LF CMP_FAIL_STICKY_HF (pinUnit p)
    (pinUnit p) (by decide)
  cases lf <;> cases hf <;> simp [State.markRegs, hcount, hset, hlow]

theorem State.markRegs_fcnt : (s.markRegs p lf hf).fld (CMP_FCNT (pinCl p) (pinUnit p)) CMP_FCNT_COUNT =
    min (2 ^ CMP_FCNT_COUNT.width - 1) (s.fld (CMP_FCNT (pinCl p) (pinUnit p)) CMP_FCNT_COUNT + if lf || hf then 1 else 0) := by
  have hcount := fun t : State => t.countSat_fld (CMP_FCNT (pinCl p) (pinUnit p)) CMP_FCNT_COUNT 1 (by decide) (by decide)
  have hor := fun (t : State) (f : Fld) => t.orBit_fld_ne (CMP_FAIL_STICKY (pinCl p)) f (pinUnit p) _ CMP_FCNT_COUNT
    (sticky_ne_fcnt _ _ (pinUnit_lt p)).symm
  have hlt := s.fld_lt (CMP_FCNT (pinCl p) (pinUnit p)) CMP_FCNT_COUNT
  cases lf <;> cases hf <;> simp [State.markRegs, hcount, hor, satAdd] <;> omega

end

end Sys2Proof.Machine
end

section
namespace Sys2Proof.Machine

section

variable {s : State} {p : PinNo} {tag : StrobeTag} {start : Nat} {uv : List Int} {x : Cycle}

/-- A masked pin, or one in the safe state, produces no result (R33, R44). -/
theorem strobeTaken_masked (hx : s.cycleOf p.val start = some x) (h : s.pinMasked p.val = true ∨ s.safePin p.val = true) :
    exec (.strobeTaken p tag start uv) s = .next s := by
  change execStrobeTaken p tag start uv s = _
  simp only [execStrobeTaken, hx, Bool.or_eq_true, h, if_true, ok]

/-- A cycle that started in a missing tenon takes no strobe (R81, R82). -/
theorem strobeTaken_missing (hx : s.cycleOf p.val start = some x) (hm : s.pinMasked p.val = false) (hs : s.safePin p.val = false)
    (h : x.missing = true) :
    exec (.strobeTaken p tag start uv) s = .next ((s.at start).lostStrobe p.val x start true true) := by
  change execStrobeTaken p tag start uv s = _
  simp only [execStrobeTaken, hx, hm, hs, h, Bool.or_self, Bool.false_eq_true, if_true, if_false, ok]

/-- A strobe that is taken gives the result of its samples, taken from the placed time of the opening strobe on (R114, R161, R164). -/
theorem strobeTaken_result {o : Nat × Nat × Nat} (hx : s.cycleOf p.val start = some x) (hm : s.pinMasked p.val = false)
    (hs : s.safePin p.val = false) (hmiss : x.missing = false) (hu : x.unpred = false) (ho : x.strobeSpan tag = some o)
    (hcut : x.cutAt (start + o.2.1 / 64) = false) (hin : s.missingIn (pinCl p.val) (start + o.1 / 64) (start + o.2.1 / 64) = false)
    (hlen : uv.length = sampleCount o) {placed : Nat}
    (hp : placed = ((((start * 64 + o.1 : Nat) : Int) + x.trims.getD o.2.2 0) / 64).toNat) :
    exec (.strobeTaken p tag start uv) s = .next ((s.at (start + o.2.1 / 64)).result p.val x (tagNum tag) (start + o.2.1 / 64)
      (s.judgeAll p.val x.code placed uv).1 (s.judgeAll p.val x.code placed uv).2
      (s.trippedIn p.val placed (placed + uv.length - 1))) := by
  subst hp
  change execStrobeTaken p tag start uv s = _
  simp only [execStrobeTaken, hx, hm, hs, hmiss, hu, ho, hcut, hin, hlen, Bool.or_self, Bool.false_and, Bool.false_eq_true,
    if_false, ne_eq, not_true_eq_false, ok]

end

theorem judge_table (ql qh : Bool) : judge 4 ql qh = (ql, false) ∧ judge 5 ql qh = (false, !qh) ∧ judge 6 ql qh = (!ql, qh) ∧
    judge 7 ql qh = (ql && !qh, ql && !qh) ∧ judge 13 ql qh = (ql, false) ∧ judge 14 ql qh = (false, !qh) := by
  cases ql <;> cases qh <;> decide

/-- What a result touches leaves the runs, the flags, the values in force, the stores and the hub. -/
theorem State.of_sansResult {s t : State} (h : t.sansResult = s.sansResult) :
    t.runs = s.runs ∧ t.flags = s.flags ∧ t.force = s.force ∧ t.stores = s.stores ∧ t.hub = s.hub := by
  have hruns := congrArg State.runs h
  have hflags := congrArg State.flags h
  have hforce := congrArg State.force h
  have hstores := congrArg State.stores h
  have hhub := congrArg State.hub h
  exact ⟨hruns, hflags, hforce, hstores, hhub⟩

/-- The registers of the compare block of a cluster lie outside its SCR block and the hub PRT block. -/
theorem ResultOnly.compare_reg {p : Nat} {s t : State} (h : ResultOnly p s t) (hp : p < 1024) (i : Nat) (hi : i < 0x100000) :
    t.reg (clBlk (pinCl p) 4 + i) = s.reg (clBlk (pinCl p) 4 + i) := by
  have hc : pinCl p < 64 := by unfold pinCl; omega
  refine h.regs _ ?_ ?_ <;> unfold clBlk
  · omega
  · unfold hubBlk; omega

/-- Settles O24: a taken strobe marks the pin with the judgement of its samples, and what follows leaves the marks. -/
theorem strobesCompareTheirSamples : Obligations.StrobesCompareTheirSamples := by
  intro p tag start uv x o s hx
  refine ⟨strobeTaken_masked hx, strobeTaken_missing hx, ?_, judge_table⟩
  intro hm hs hmiss hunpred ho hcut hin hlen placed lf hf hplaced hlf hhf
  obtain ⟨hl, hh⟩ := s.judgeAll_iff p.val x.code uv placed
  have elf : (s.judgeAll p.val x.code placed uv).1 = lf := Bool.eq_iff_iff.mpr (hl.trans hlf.symm)
  have ehf : (s.judgeAll p.val x.code placed uv).2 = hf := Bool.eq_iff_iff.mpr (hh.trans hhf.symm)
  refine ⟨_, strobeTaken_result hx hm hs hmiss hunpred ho hcut hin hlen hplaced, ?_⟩
  rw [elf, ehf]
  generalize tagNum tag = n
  generalize start + o.2.1 / 64 = g
  generalize s.trippedIn p.val placed (placed + uv.length - 1) = tripped
  have h := (s.at g).result_resultOnly p.val x n g lf hf tripped
  obtain ⟨r, hr⟩ := (s.at g).markRegs_frame p.val lf hf
  have hsticky : ∀ f, ((s.at g).result p.val x n g lf hf tripped).fbit (CMP_FAIL_STICKY (pinCl p.val)) f (pinUnit p.val) =
      ((s.at g).markRegs p.val lf hf).fbit (CMP_FAIL_STICKY (pinCl p.val)) f (pinUnit p.val) := fun f => by
    unfold State.fbit State.fld CMP_FAIL_STICKY
    rw [h.compare_reg p.isLt _ (by decide)]
  have hfcnt : ((s.at g).result p.val x n g lf hf tripped).fld (CMP_FCNT (pinCl p.val) (pinUnit p.val)) CMP_FCNT_COUNT =
      ((s.at g).markRegs p.val lf hf).fld (CMP_FCNT (pinCl p.val) (pinUnit p.val)) CMP_FCNT_COUNT := by
    have := pinUnit_lt p.val
    unfold State.fld CMP_FCNT
    rw [Nat.add_assoc, h.compare_reg p.isLt _ (by omega)]
  have hrest : ((s.at g).result p.val x n g lf hf tripped).sansResult = s.sansResult := h.rest.trans (by rw [hr]; rfl)
  refine ⟨(hsticky _).trans (State.markRegs_lf ..), (hsticky _).trans (State.markRegs_hf ..), hfcnt.trans (State.markRegs_fcnt ..),
    fun c hc => (h.cl c hc).trans (by rw [hr]; rfl), fun q hq => (h.pin q hq).trans (by rw [hr]; rfl), ?_⟩
  exact State.of_sansResult hrest

end Sys2Proof.Machine
end

section
namespace Sys2Proof.Machine

/-! Bytes of plain memory: what a read returns after a write, and what a write leaves (R53, R335). -/

theorem foldl_set_mem {α β : Type} (f : State → α → State) (o : State → β) (x : α) (v : β) (hx : ∀ t, o (f t x) = v) (l : List α)
    (h : ∀ y ∈ l, y ≠ x → ∀ t, o (f t y) = o t) (s : State) (hl : x ∈ l) : o (l.foldl f s) = v := by
  induction l generalizing s with
  | nil => cases hl
  | cons y l ih =>
    by_cases hm : x ∈ l
    · exact ih (fun z hz => h z (List.mem_cons_of_mem _ hz)) _ hm
    · have hy : x = y := (List.mem_cons.mp hl).resolve_right hm
      subst hy
      exact (foldl_obs_mem f o l (fun z hz => h z (List.mem_cons_of_mem _ hz) fun e => hm (e ▸ hz)) _).trans (hx s)

theorem tgets_eq_map {α : Type} (d : Nat → α) (t : Tbl α) (k n : Nat) : tgets d t n k = (List.range k).map (fun i => tget d t (n + i)) := by
  induction k generalizing n with
  | zero => rfl
  | succ k ih =>
    rw [tgets, ih, List.range_succ_eq_map, List.map_cons, List.map_map]
    exact congrArg _ (List.map_congr_left fun i _ => congrArg (tget d t) (by simp only [Nat.succ_eq_add_one]; omega))

variable (s : State)

theorem State.bytesAt_eq_map (a n : Nat) : s.bytesAt a n = (List.range n).map (fun i => s.byteAt (a + i)) := tgets_eq_map ..

theorem State.putBytes_byteAt_one (a : Nat) (b : Byte) (m : Nat) :
    (s.putBytes a [b]).byteAt m = if m = a then b else s.byteAt m := by
  unfold State.byteAt
  rw [State.putBytes_mem, tputs, tputs]
  split
  · next h => rw [h, tget_tput_same]
  · next h => rw [tget_tput_ne _ _ _ (Ne.symm h)]

/-- A write with byte enables: of each byte it covers the enabled value, of every other the old one. -/
theorem State.putEnabled_byteAt (a : Nat) (l : List (Option Byte)) (m : Nat) :
    (s.putEnabled a l).byteAt m = (if a ≤ m then l.getD (m - a) none else none).getD (s.byteAt m) := by
  induction l generalizing s a with
  | nil => simp [State.putEnabled]
  | cons x l ih =>
    have hrest : ∀ t : State, (t.putEnabled (a + 1) l).byteAt m =
        if m = a then t.byteAt m else (if a ≤ m then (x :: l).getD (m - a) none else none).getD (t.byteAt m) := fun t => by
      rw [ih]
      rcases Nat.lt_trichotomy m a with h | h | h
      · rw [if_neg (by omega), if_neg (by omega), if_neg (by omega)]
      · rw [if_neg (by omega), if_pos h, Option.getD_none]
      · rw [if_pos (by omega), if_neg (by omega), if_pos (by omega), show m - a = (m - (a + 1)) + 1 by omega, List.getD_cons_succ]
    cases x with
    | none =>
      rw [State.putEnabled, hrest]
      split
      · next h => subst h; simp
      · rfl
    | some b =>
      rw [State.putEnabled, hrest, State.putBytes_byteAt_one]
      split
      · next h => subst h; simp
      · rfl

/-- Two states differ in memory, its poison, and what plays or converts it. -/
def State.memOnly (s t : State) : Prop := t = { s with mem := t.mem, poison := t.poison, codings := t.codings, pins := t.pins }

theorem State.memOnly_refl : s.memOnly s := rfl

theorem State.memOnly_trans {s t u : State} (h : s.memOnly t) (k : t.memOnly u) : s.memOnly u := by
  unfold State.memOnly at h k ⊢
  rw [h] at k
  exact k

theorem State.putEnabled_memOnly (a : Nat) (l : List (Option Byte)) : s.memOnly (s.putEnabled a l) := by
  induction l generalizing s a with
  | nil => exact s.memOnly_refl
  | cons x l ih =>
    cases x with
    | none => exact ih s (a + 1)
    | some b =>
      obtain ⟨m, x, p, e⟩ := s.putBytes_frame a [b]
      exact State.memOnly_trans (by rw [e]; rfl) (ih (s.putBytes a [b]) (a + 1))

/-! One piece: the bytes of a write that lie in one line. -/

section

variable (a : Nat) (l : List (Option Byte))

/-- A piece outside the shared flow space, with nothing found by error correction, is written unless it lies in a dictionary. -/
theorem State.storePiece_of_plain (hf : isFlow a = false) :
    s.storePiece a l false [] = if inDictionary a then s
      else if l.length = 64 ∧ l.all Option.isSome then (s.putEnabled a l).setPoison a false else s.putEnabled a l := by
  unfold State.storePiece State.storeOpt
  simp only [hf, Bool.false_eq_true, if_false]
  have hread : (if partWord a l = true then s.eccRead (a / 64 * 64) [] 1 else s) = s := by split <;> rfl
  rw [hread]

theorem State.storePiece_memOnly (hf : isFlow a = false) : s.memOnly (s.storePiece a l false []) := by
  rw [s.storePiece_of_plain a l hf]
  split
  · exact s.memOnly_refl
  · split
    · exact State.memOnly_trans (s.putEnabled_memOnly a l) rfl
    · exact s.putEnabled_memOnly a l

theorem State.storePiece_pinView (hf : isFlow a = false) : (s.storePiece a l false []).pinView = s.pinView := by
  rw [s.storePiece_of_plain a l hf]
  split
  · rfl
  · split <;> simp

theorem State.storePiece_byteAt (hf : isFlow a = false) (m : Nat) : (s.storePiece a l false []).byteAt m =
    if inDictionary a then s.byteAt m else (if a ≤ m then l.getD (m - a) none else none).getD (s.byteAt m) := by
  rw [s.storePiece_of_plain a l hf, ← State.putEnabled_byteAt]
  split
  · rfl
  · split <;> rfl

end

/-- A line of a dictionary lies in it whole (R50). -/
theorem inDictionary_of_line {a b : Nat} (hk : addrKind a = addrKind b) (h : a / 64 = b / 64) : inDictionary a = inDictionary b := by
  unfold inDictionary
  rw [hk]
  split
  · next c _ =>
    have hlo : 0x1E0000 ≤ a - (0x30000000000 + c * 0x400000) ↔ 0x1E0000 ≤ b - (0x30000000000 + c * 0x400000) := by omega
    have hhi : a - (0x30000000000 + c * 0x400000) < 0x200000 ↔ b - (0x30000000000 + c * 0x400000) < 0x200000 := by omega
    rw [decide_eq_decide.mpr hlo, decide_eq_decide.mpr hhi]
  · rfl

/-! A whole write. -/

/-- The bytes of a write lie in one memory range outside the shared flow space. -/
structure OneRange (a n : Nat) : Prop where
  flow : isFlow a = false
  kind : ∀ i, i < n → addrKind (a + i) = addrKind a

namespace OneRange

variable {a n : Nat}

theorem notFlow (h : OneRange a n) {m : Nat} (hm : a ≤ m) (hn : m < a + n) : isFlow m = false := by
  have hk := h.kind (m - a) (by omega)
  rw [Nat.add_sub_cancel' hm] at hk
  have hf := h.flow
  unfold isFlow at hf ⊢
  rwa [hk]

theorem kind_eq (h : OneRange a n) {m : Nat} (hm : a ≤ m) (hn : m < a + n) : addrKind m = addrKind a := by
  have hk := h.kind (m - a) (by omega)
  rwa [Nat.add_sub_cancel' hm] at hk

end OneRange

/-- The lines that a write touches are those of its bytes. -/
theorem mem_linesOf {a n k : Nat} (hn : 0 < n) : k ∈ linesOf a n ↔ a / 64 ≤ k ∧ k ≤ (a + n - 1) / 64 := by
  unfold linesOf
  rw [if_neg (by omega)]
  simp only [List.mem_map, List.mem_range]
  constructor
  · rintro ⟨i, hi, rfl⟩; omega
  · rintro ⟨h1, h2⟩; exact ⟨k - a / 64, by omega, by omega⟩

theorem line_mem_linesOf {a n i : Nat} (hi : i < n) : (a + i) / 64 ∈ linesOf a n := by
  rw [mem_linesOf (by omega)]; omega

/-- The part of a write of bytes l from address a on that lies in line k. -/
def linePiece (a : Nat) (l : List (Option Byte)) (k : Nat) : List (Option Byte) :=
  (l.drop (max a (64 * k) - a)).take (min (a + l.length) (64 * k + 64) - max a (64 * k))

theorem State.storeBytes_eq (a : Nat) (l : List (Option Byte)) : s.storeBytes a l false [] =
    (linesOf a l.length).foldl (fun t k => t.storePiece (max a (64 * k)) (linePiece a l k) false []) s := rfl

theorem linePiece_getD (a : Nat) (l : List (Option Byte)) (k m : Nat) :
    (if max a (64 * k) ≤ m then (linePiece a l k).getD (m - max a (64 * k)) none else none) =
      if m / 64 = k ∧ a ≤ m then l.getD (m - a) none else none := by
  unfold linePiece
  simp only [List.getD_eq_getElem?_getD]
  by_cases hm : max a (64 * k) ≤ m
  · rw [if_pos hm, List.getElem?_take, List.getElem?_drop, show max a (64 * k) - a + (m - max a (64 * k)) = m - a by omega]
    by_cases hlt : m - max a (64 * k) < min (a + l.length) (64 * k + 64) - max a (64 * k)
    · rw [if_pos hlt, if_pos (by omega)]
    · rw [if_neg hlt]
      by_cases hk : m / 64 = k ∧ a ≤ m
      · rw [if_pos hk, List.getElem?_eq_none (by omega)]
      · rw [if_neg hk, Option.getD_none]
  · rw [if_neg hm, if_neg (by omega)]

section

variable {a : Nat} {l : List (Option Byte)} (hl : 0 < l.length) (h : OneRange a l.length)
include hl h

theorem OneRange.piece_notFlow {k : Nat} (hk : k ∈ linesOf a l.length) : isFlow (max a (64 * k)) = false := by
  rw [mem_linesOf hl] at hk
  exact h.notFlow (by omega) (by omega)

theorem State.storeBytes_memOnly : s.memOnly (s.storeBytes a l false []) := by
  rw [State.storeBytes_eq]
  have aux : ∀ ks : List Nat, (∀ k ∈ ks, k ∈ linesOf a l.length) → ∀ t : State,
      t.memOnly (ks.foldl (fun t k => t.storePiece (max a (64 * k)) (linePiece a l k) false []) t) := by
    intro ks
    induction ks with
    | nil => exact fun _ t => t.memOnly_refl
    | cons k ks ih =>
      intro hks t
      exact State.memOnly_trans (t.storePiece_memOnly _ _ (h.piece_notFlow hl (hks k (List.mem_cons_self ..))))
        (ih (fun x hx => hks x (List.mem_cons_of_mem _ hx)) _)
  exact aux _ (fun _ hk => hk) s

theorem State.storeBytes_pinView : (s.storeBytes a l false []).pinView = s.pinView :=
  foldl_obs_mem _ State.pinView _ (fun _ hk t => t.storePiece_pinView _ _ (h.piece_notFlow hl hk)) s

/-- A line of the write leaves the bytes of other lines. -/
theorem OneRange.piece_byteAt_ne {m k : Nat} (hk : k ∈ linesOf a l.length) (hm : k ≠ m / 64) (t : State) :
    (t.storePiece (max a (64 * k)) (linePiece a l k) false []).byteAt m = t.byteAt m := by
  rw [State.storePiece_byteAt _ _ _ (h.piece_notFlow hl hk), linePiece_getD,
    if_neg (show ¬(m / 64 = k ∧ a ≤ m) from fun e => hm e.1.symm), Option.getD_none, ite_self]

theorem State.storeBytes_byteAt_outside {m : Nat} (hm : m < a ∨ a + l.length ≤ m) :
    (s.storeBytes a l false []).byteAt m = s.byteAt m := by
  refine foldl_obs_mem _ (fun t => t.byteAt m) _ (fun k hk t => ?_) s
  show (t.storePiece (max a (64 * k)) (linePiece a l k) false []).byteAt m = t.byteAt m
  rw [State.storePiece_byteAt _ _ _ (h.piece_notFlow hl hk), linePiece_getD]
  have hnone : (if m / 64 = k ∧ a ≤ m then l.getD (m - a) none else none) = none := by
    split
    · exact List.getD_eq_default _ _ (by omega)
    · rfl
  rw [hnone, Option.getD_none, ite_self]

/-- The piece that holds byte i of a write, at that byte. -/
theorem OneRange.piece_byteAt {i : Nat} (hi : i < l.length) (t : State) :
    (t.storePiece (max a (64 * ((a + i) / 64))) (linePiece a l ((a + i) / 64)) false []).byteAt (a + i) =
      if inDictionary (a + i) then t.byteAt (a + i) else (l.getD i none).getD (t.byteAt (a + i)) := by
  have hdict : inDictionary (max a (64 * ((a + i) / 64))) = inDictionary (a + i) :=
    inDictionary_of_line ((h.kind_eq (by omega) (by omega)).trans (h.kind_eq (by omega) (by omega)).symm) (by omega)
  rw [State.storePiece_byteAt _ _ _ (h.piece_notFlow hl (line_mem_linesOf hi)), linePiece_getD,
    if_pos (show (a + i) / 64 = (a + i) / 64 ∧ a ≤ a + i from ⟨rfl, Nat.le_add_right a i⟩), hdict, Nat.add_sub_cancel_left]

theorem State.storeBytes_byteAt_written {i : Nat} {b : Byte} (hi : l[i]? = some (some b)) (hd : inDictionary (a + i) = false) :
    (s.storeBytes a l false []).byteAt (a + i) = b := by
  have hlt : i < l.length := (List.getElem?_eq_some_iff.mp hi).1
  refine foldl_set_mem _ (fun t => t.byteAt (a + i)) ((a + i) / 64) b (fun t => ?_) _ (fun k hk hne t => ?_) s (line_mem_linesOf hlt)
  · refine (h.piece_byteAt hl hlt t).trans ?_
    rw [hd, List.getD_eq_getElem?_getD, hi]
    rfl
  · exact h.piece_byteAt_ne hl hk hne t

theorem State.storeBytes_byteAt_kept {i : Nat} (hi : l[i]? = some none ∨ inDictionary (a + i) = true) :
    (s.storeBytes a l false []).byteAt (a + i) = s.byteAt (a + i) := by
  by_cases hlt : i < l.length
  · refine foldl_obs_mem _ (fun t => t.byteAt (a + i)) _ (fun k hk t => ?_) s
    by_cases hne : k = (a + i) / 64
    · subst hne
      refine (h.piece_byteAt hl hlt t).trans ?_
      rcases hi with hi | hd
      · rw [List.getD_eq_getElem?_getD, hi]
        exact ite_self _
      · rw [if_pos hd]
    · exact h.piece_byteAt_ne hl hk hne t
  · exact s.storeBytes_byteAt_outside hl h (by omega)

end

end Sys2Proof.Machine
end

section
namespace Sys2Proof.Machine

/-! Accesses of plain memory of this package (R53, R55, R336, R448, R449). -/

section

variable (s : State)

/-- Bytes outside the shared flow space, read line by line. -/
theorem State.loadLines_eq_map (k : Nat) : ∀ a n : Nat, (n = 0 ∨ n + a % 64 ≤ 64 * k) → (∀ i, i < n → isFlow (a + i) = false) →
    s.loadLines a n k = (List.range n).map (fun i => s.byteAt (a + i)) := by
  induction k with
  | zero =>
    intro a n hn _
    have : n = 0 := by omega
    subst this
    rfl
  | succ k ih =>
    intro a n hn hf
    rw [State.loadLines]
    split
    · next h0 => subst h0; rfl
    · next h0 =>
      extract_lets m
      have hm : m ≤ n := Nat.min_le_left _ _
      have hload : s.load a m = (List.range m).map (fun i => s.byteAt (a + i)) := by
        unfold State.load
        rw [if_neg (by simp [show isFlow a = false from hf 0 (by omega)]), State.bytesAt_eq_map]
      have hrest : s.loadLines (a + m) (n - m) k = (List.range (n - m)).map (fun i => s.byteAt (a + (m + i))) := by
        simp only [← Nat.add_assoc]
        refine ih (a + m) (n - m) ?_ (fun i hi => ?_)
        · omega
        · rw [Nat.add_assoc]
          exact hf (m + i) (by omega)
      rw [hload, hrest]
      conv => rhs; rw [show n = m + (n - m) by omega, List.range_add, List.map_append, List.map_map]
      rfl

theorem State.loadAll_eq_map (a n : Nat) (hf : ∀ i, i < n → isFlow (a + i) = false) :
    s.loadAll a n = (List.range n).map (fun i => s.byteAt (a + i)) :=
  s.loadLines_eq_map _ a n (by omega) hf

end

variable {s : State} {a n : Nat}

theorem oneRange_of_plain (h : s.plain a n) : OneRange a n := ⟨h.2.1, h.2.2.1⟩

theorem isMemory_of_kind {a b : Nat} (h : addrKind a = addrKind b) : isMemory a = isMemory b := by
  unfold isMemory; rw [h]

theorem State.plain_last (h : s.plain a n) (hn : 0 < n) : isMemory (a + n - 1) = true ∧ s.busErrorAt (a + n - 1) = false := by
  obtain ⟨hmem, -, hkind, hbus⟩ := h
  rw [Nat.add_sub_assoc hn]
  exact ⟨(isMemory_of_kind (hkind (n - 1) (by omega))).trans hmem, hbus (n - 1) (by omega)⟩

theorem State.plain_first (h : s.plain a n) (hn : 0 < n) : s.busErrorAt a = false := h.2.2.2 0 hn

/-- A read of plain memory with nothing found by error correction (R335, R336). -/
theorem State.readMem_of_plain (h : s.plain a n) (hn : 0 < n) (hr : s.repairDue a = false) (replies : Payload) :
    s.readMem a n [] replies = some (payloadOf (s.anyPoison a n) ((List.range n).map (fun i => s.byteAt (a + i))), s) := by
  obtain ⟨hmemLast, hbusLast⟩ := s.plain_last h hn
  have hbus := s.plain_first h hn
  have hrange := oneRange_of_plain h
  have hok : s.readOk a n = true := by
    simp only [State.readOk, State.readErrorAt, h.1, hmemLast, hbus, hbusLast, Bool.false_and, Bool.not_false, Bool.and_self]
  have hlacks : s.flowLacks a n = false := by simp only [State.flowLacks, hrange.flow, Bool.false_and]
  simp only [State.readMem, hok, hr, hrange.flow, hlacks, Bool.not_true, Bool.false_eq_true, if_false, Option.map_some, State.meet,
    s.loadAll_eq_map a n fun i hi => hrange.notFlow (Nat.le_add_right a i) (by omega)]

/-- What a partner meets at an address of memory is neither a register, nor the secure scratchpad, nor nothing (Table 1-11). -/
theorem isMemory_iff (a : Nat) : isMemory a = true ↔ addrKind a ≠ .register ∧ addrKind a ≠ .secure ∧ addrKind a ≠ .unmapped := by
  unfold isMemory
  cases addrKind a <;> simp

theorem State.localRead_of_memory (hm : isMemory a = true) (port n : Nat) (finds : Finds) (replies : Payload) :
    s.localRead port a n finds replies = (s.readMem a n finds replies).elim s (fun r => r.2.complete64 port n r.1) := by
  obtain ⟨h1, h2, -⟩ := (isMemory_iff a).mp hm
  unfold State.localRead
  split
  · next h => exact absurd h h1
  · next h => exact absurd h h2
  · rfl

theorem State.remoteReadHere_of_memory (hm : isMemory a = true) (pkg n : Nat) (finds : Finds) :
    s.remoteReadHere pkg a n finds = (s.readMem a n finds .error).getD (.error, s) := by
  obtain ⟨h1, h2, h3⟩ := (isMemory_iff a).mp hm
  unfold State.remoteReadHere
  split
  · next h => exact absurd h h1
  · next h => exact absurd h h2
  · next h => exact absurd h h3
  · rfl

theorem State.localWrite_of_plain {data : List (Option Byte)} (h : s.plain a data.length) (hn : 0 < data.length)
    (hb : s.writeBarred a = false) (port : Nat) (finds : Finds) : s.localWrite port a data finds = s.storeBytes a data false finds := by
  obtain ⟨h1, h2, h3⟩ := (isMemory_iff a).mp h.1
  unfold State.localWrite
  split
  · next h => exact absurd h h1
  · next h => exact absurd h h2
  · next h => exact absurd h h3
  · rw [hb, s.plain_first h hn, (s.plain_last h hn).2]
    rfl

theorem State.remoteWriteHere_of_plain {data : List (Option Byte)} (h : s.plain a data.length) (hn : 0 < data.length)
    (pkg : Nat) (poison : Bool) (finds : Finds) :
    s.remoteWriteHere pkg a data poison finds = (true, s.storeBytes a data poison finds) := by
  obtain ⟨h1, h2, h3⟩ := (isMemory_iff a).mp h.1
  unfold State.remoteWriteHere
  split
  · next h => exact absurd h h1
  · next h => exact absurd h h3
  · next h => exact absurd h h2
  · rw [s.plain_first h hn, (s.plain_last h hn).2]
    rfl

/-- An address of this package is resolved here (R53). -/
theorem State.resolve_here {b : Nat} (h : b / 2 ^ 42 = s.pkgId) (hp : s.pkgId < 16) : s.resolve b = .here (b % 2 ^ 42) := by
  unfold State.resolve
  rw [h, Nat.mod_eq_of_lt hp]
  dsimp only
  rw [if_pos rfl, ite_self]

/-! The commands. -/

section

variable {port : PortNo} {pkg : PkgNo} {off : Nat} (hn : 0 < n) (hpkg : s.bar2 port.val off / 2 ^ 42 = s.pkgId) (hid : s.pkgId < 16)
include hpkg hid

theorem partnerMemoryWrite_here {data : List (Option Byte)} (hd : data ≠ []) (finds : Finds) :
    exec (.partnerMemoryWrite port off data finds) s = .next (s.localWrite port.val (s.bar2 port.val off % 2 ^ 42) data finds) := by
  change execPartnerMemoryWrite port off data finds s = _
  unfold execPartnerMemoryWrite
  dsimp only
  rw [if_neg hd, if_neg (by omega), s.resolve_here hpkg hid]

include hn

theorem partnerMemoryRead_here (finds : Finds) (remote : Payload) :
    exec (.partnerMemoryRead port off n finds remote) s =
      .next (s.localRead port.val (s.bar2 port.val off % 2 ^ 42) n finds remote) := by
  change execPartnerMemoryRead port off n finds remote s = _
  unfold execPartnerMemoryRead
  dsimp only
  rw [if_neg (by omega), if_neg (by omega), s.resolve_here hpkg hid]

theorem partnerMemoryRead_of_plain (h : s.plain (s.bar2 port.val off % 2 ^ 42) n)
    (hr : s.repairDue (s.bar2 port.val off % 2 ^ 42) = false) (remote : Payload) :
    exec (.partnerMemoryRead port off n [] remote) s =
      .next (s.complete64 port.val n (payloadOf (s.anyPoison (s.bar2 port.val off % 2 ^ 42) n)
        ((List.range n).map (fun i => s.byteAt (s.bar2 port.val off % 2 ^ 42 + i))))) := by
  rw [partnerMemoryRead_here hn hpkg hid, s.localRead_of_memory h.1, s.readMem_of_plain h hn hr]
  rfl

end

theorem remoteAccess_read_of_plain {pkg : PkgNo} {b : Nat} (h : s.plain (b % 2 ^ 42) n) (hn : 0 < n)
    (hr : s.repairDue (b % 2 ^ 42) = false) :
    exec (.remoteAccess pkg b [] n false []) s = .next (s.send (.remoteReply pkg.val (payloadOf (s.anyPoison (b % 2 ^ 42) n)
      ((List.range n).map (fun i => s.byteAt (b % 2 ^ 42 + i)))))) := by
  change execRemoteAccess pkg b [] n false [] s = _
  unfold execRemoteAccess
  dsimp only
  rw [if_pos rfl, s.remoteReadHere_of_memory h.1, s.readMem_of_plain h hn hr]
  rfl

theorem remoteAccess_write_of_plain {pkg : PkgNo} {b : Nat} {data : List (Option Byte)} (h : s.plain (b % 2 ^ 42) data.length)
    (hn : 0 < data.length) (len : Nat) :
    exec (.remoteAccess pkg b data len false []) s =
      .next ((s.storeBytes (b % 2 ^ 42) data false []).send (.remoteReply pkg.val (.data []))) := by
  change execRemoteAccess pkg b data len false [] s = _
  unfold execRemoteAccess
  dsimp only
  rw [if_neg (List.ne_nil_of_length_pos hn), s.remoteWriteHere_of_plain h hn]
  rfl

theorem partnerMemoryWrite_of_plain {port : PortNo} {off : Nat} {data : List (Option Byte)}
    (hpkg : s.bar2 port.val off / 2 ^ 42 = s.pkgId) (hid : s.pkgId < 16) (h : s.plain (s.bar2 port.val off % 2 ^ 42) data.length)
    (hn : 0 < data.length) (hb : s.writeBarred (s.bar2 port.val off % 2 ^ 42) = false) :
    exec (.partnerMemoryWrite port off data []) s = .next (s.storeBytes (s.bar2 port.val off % 2 ^ 42) data false []) := by
  rw [partnerMemoryWrite_here hpkg hid (List.ne_nil_of_length_pos hn), s.localWrite_of_plain h hn hb]

/-- Settles O16: the write is that of `storeBytes`, the reads are that of `readMem`. -/
theorem memoryAccessesReadAndWriteBytes : Obligations.MemoryAccessesReadAndWriteBytes := by
  intro port pkg off n data remote s hn hpkg hid
  refine ⟨?_, ?_, ?_⟩
  · rintro rfl hplain hb x hx
    have hrange := oneRange_of_plain hplain
    have hmem := s.storeBytes_memOnly hn hrange
    have hpins := State.pinsKept_of_pinView (s.storeBytes_pinView hn hrange)
    have hwritten := fun i b => s.storeBytes_byteAt_written (i := i) (b := b) hn hrange
    have hkept := fun i => s.storeBytes_byteAt_kept (i := i) hn hrange
    have houtside := fun m => s.storeBytes_byteAt_outside (m := m) hn hrange
    simp only [List.mem_cons, List.not_mem_nil, or_false] at hx
    rcases hx with rfl | rfl
    · exact ⟨_, partnerMemoryWrite_of_plain hpkg hid hplain hn hb, hwritten, hkept, houtside, hpins,
        hmem.trans (by rw [hmem])⟩
    · refine ⟨_, remoteAccess_write_of_plain hplain hn _, hwritten, hkept, houtside, hpins, ?_⟩
      rw [hmem]
      rfl
  · intro hplain hr hp
    rw [partnerMemoryRead_of_plain hn hpkg hid hplain hr, remoteAccess_read_of_plain hplain hn hr, hp]
    exact ⟨rfl, rfl⟩
  · intro hplain hr hp
    rw [partnerMemoryRead_of_plain hn hpkg hid hplain hr, remoteAccess_read_of_plain hplain hn hr, hp]
    exact ⟨rfl, rfl⟩

end Sys2Proof.Machine
end

section
namespace Sys2Proof.Machine

/-! What every operation at a tenon boundary leaves, but the take of the tenon: the flash and the boundaries that the clusters have
reached. -/

/-- The flash, and the last boundary of each cluster. -/
def State.tick (s : State) : Tbl Byte × (Nat → Option Nat) := (s.flash, fun c => (s.cl c).boundary)

theorem State.tick_eq_iff {s t : State} : t.tick = s.tick ↔ t.flash = s.flash ∧ ∀ c, (t.cl c).boundary = (s.cl c).boundary := by
  unfold State.tick
  rw [Prod.mk.injEq, funext_iff]

@[simp] theorem tick_foldl {α : Type} {f : State → α → State} (hf : ∀ t x, (f t x).tick = t.tick) (l : List α) (s : State) :
    (l.foldl f s).tick = s.tick := foldl_obs f State.tick hf l s

section

variable (s : State)

/-! Writes of one record or register. -/

@[simp] theorem State.setPin_tick (p : Nat) (x : PinSt) : (s.setPin p x).tick = s.tick := by rfl
@[simp] theorem State.updPin_tick (p : Nat) (f : PinSt → PinSt) : (s.updPin p f).tick = s.tick := by rfl
@[simp] theorem State.setEng_tick (e : Nat) (x : EngSt) : (s.setEng e x).tick = s.tick := by rfl
@[simp] theorem State.updEng_tick (e : Nat) (f : EngSt → EngSt) : (s.updEng e f).tick = s.tick := by rfl
@[simp] theorem State.updDig_tick (d : Nat) (f : DigSt → DigSt) : (s.updDig d f).tick = s.tick := by rfl
@[simp] theorem State.updRg_tick (r : Nat) (f : RgSt → RgSt) : (s.updRg r f).tick = s.tick := by rfl
@[simp] theorem State.updFlow_tick (n : Nat) (f : FlowSt → FlowSt) : (s.updFlow n f).tick = s.tick := by rfl
@[simp] theorem State.setFlag_tick (k : Nat) (b : Bool) : (s.setFlag k b).tick = s.tick := by rfl
@[simp] theorem State.updRun_tick (i : Nat) (f : Run → Run) : (s.updRun i f).tick = s.tick := by rfl
@[simp] theorem State.setReg_tick (a : Nat) (w : Word) : (s.setReg a w).tick = s.tick := by rfl
@[simp] theorem State.setFld_tick (a : Nat) (f : Fld) (v : Nat) : (s.setFld a f v).tick = s.tick := by rfl
@[simp] theorem State.setBit_tick (a : Nat) (f : Fld) (b : Bool) : (s.setBit a f b).tick = s.tick := by rfl
@[simp] theorem State.countSat_tick (a : Nat) (f : Fld) (k : Nat) : (s.countSat a f k).tick = s.tick := by rfl
@[simp] theorem State.orBit_tick (a : Nat) (f : Fld) (u : Nat) : (s.orBit a f u).tick = s.tick := by rfl
@[simp] theorem State.setPair_tick (lo hi v : Nat) : (s.setPair lo hi v).tick = s.tick := by rfl
@[simp] theorem State.setForce_tick (a : Nat) (w : Word) : (s.setForce a w).tick = s.tick := by rfl
@[simp] theorem State.setBoth_tick (a : Nat) (w : Word) : (s.setBoth a w).tick = s.tick := by rfl
@[simp] theorem State.at_tick (g : Nat) : (s.at g).tick = s.tick := by rfl
@[simp] theorem State.useFree_tick : s.useFree.tick = s.tick := by rfl
@[simp] theorem State.send_tick (o : Output) : (s.send o).tick = s.tick := by rfl
@[simp] theorem State.setPoison_tick (a : Nat) (b : Bool) : (s.setPoison a b).tick = s.tick := by rfl
@[simp] theorem State.setStoreBad_tick (a : Nat) (b : Bool) : (s.setStoreBad a b).tick = s.tick := by rfl
@[simp] theorem State.updPrec_tick (r : Nat) (f : PrecConv → PrecConv) : (s.updPrec r f).tick = s.tick := by rfl
@[simp] theorem State.withRuns_tick (r : List Run) : ({ s with runs := r } : State).tick = s.tick := by rfl
@[simp] theorem State.withFree_tick (n : Nat) : ({ s with free := n } : State).tick = s.tick := by rfl
@[simp] theorem State.withInFlight_tick (l : List PinMsg) : ({ s with inFlight := l } : State).tick = s.tick := by rfl
@[simp] theorem State.withFlagSets_tick (l : Tbl (Nat × Nat)) : ({ s with flagSets := l } : State).tick = s.tick := by rfl

@[simp] theorem State.updCl_tick (c : Nat) (f : ClSt → ClSt) (h : ∀ x, (f x).boundary = x.boundary) : (s.updCl c f).tick = s.tick := by
  refine State.tick_eq_iff.mpr ⟨rfl, fun k => ?_⟩
  by_cases e : k = c
  · subst e
    rw [State.updCl_cl, h]
  · rw [State.updCl_cl_ne _ _ _ _ e]

@[simp] theorem State.updScr_tick (c : Nat) (f : Scribe → Scribe) : (s.updScr c f).tick = s.tick := s.updCl_tick c _ fun _ => rfl
@[simp] theorem State.updFigs_tick (c : Nat) (f : RunFigures → RunFigures) : (s.updFigs c f).tick = s.tick :=
  s.updCl_tick c _ fun _ => rfl
@[simp] theorem State.updFig_tick (c i : Nat) (f : RunFigures → RunFigures) : (s.updFig c i f).tick = s.tick :=
  s.updCl_tick c _ fun _ => rfl
@[simp] theorem State.updAdc_tick (c : Nat) (f : Adc → Adc) : (s.updAdc c f).tick = s.tick := s.updCl_tick c _ fun _ => rfl
@[simp] theorem State.updAcqRing_tick (d r : Nat) (f : AcqRing → AcqRing) : (s.updAcqRing d r f).tick = s.tick := by rfl

@[simp] theorem State.putBytes_tick (a : Nat) (l : List Byte) : (s.putBytes a l).tick = s.tick :=
  State.tick_eq_iff.mpr ⟨s.putBytes_flash a l, fun k => by rw [s.putBytes_cl]⟩
@[simp] theorem State.event_tick (code src unit arg value : Nat) : (s.event code src unit arg value).tick = s.tick :=
  State.tick_eq_iff.mpr ⟨s.event_flash .., fun k => by rw [s.event_cl]⟩
@[simp] theorem State.violation_tick (cause port pkg inst addr : Nat) : (s.violation cause port pkg inst addr).tick = s.tick :=
  State.tick_eq_iff.mpr ⟨s.violation_flash .., fun k => by rw [s.violation_cl]⟩

end

end Sys2Proof.Machine
end

section
namespace Sys2Proof.Machine

/-! The pins, Scribe and error correction keep the flash and the boundaries. -/

section

variable (s : State)

/-! Edges, holds and shims of a pin. -/

@[simp] theorem State.placeEdge_tick (p : Nat) (x : PendingEdge) : (s.placeEdge p x).tick = s.tick := by
  unfold State.placeEdge
  extract_lets t time y u
  split
  · simp [t]
  · split <;> simp [u, t]

@[simp] theorem State.flushEdge_tick (p : Nat) : (s.flushEdge p).tick = s.tick := by
  unfold State.flushEdge
  split <;> simp

@[simp] theorem State.idleOut_tick (p b : Nat) : (s.idleOut p b).tick = s.tick := by
  simp [State.idleOut]

@[simp] theorem State.undoPlay_tick (p g : Nat) (y : Player) : (s.undoPlay p g y).tick = s.tick := by
  unfold State.undoPlay
  split
  · split
    · dsimp only
      split <;> simp
    · rfl
  · rfl

@[simp] theorem State.stopPlayer_tick (p g : Nat) : (s.stopPlayer p g).tick = s.tick := by
  unfold State.stopPlayer
  dsimp only
  split <;> simp

@[simp] theorem State.endWave_tick (p b : Nat) : (s.endWave p b).tick = s.tick := by
  unfold State.endWave
  dsimp only
  split
  · split
    · simp
    · split <;> simp
  · simp

@[simp] theorem State.holdPin_tick (p g : Nat) : (s.holdPin p g).tick = s.tick := s.updPin_tick p _

@[simp] theorem State.releaseIdle_tick (p b : Nat) : (s.releaseIdle p b).tick = s.tick := by
  unfold State.releaseIdle
  split
  · simp
  · split <;> simp

@[simp] theorem State.boundaryHold_tick (p b : Nat) : (s.boundaryHold p b).tick = s.tick := by
  unfold State.boundaryHold
  split
  · simp
  · split <;> simp

@[simp] theorem State.pmuSettle_tick (p : Nat) : (s.pmuSettle p).tick = s.tick := s.updPin_tick p _

@[simp] theorem State.idlePin_tick (p b : Nat) : (s.idlePin p b).tick = s.tick := by
  unfold State.idlePin
  split
  · simp
  · split <;> simp

@[simp] theorem State.shimStep_tick (c i : Nat) : (s.shimStep c i).tick = s.tick := by
  unfold State.shimStep State.shimMoving
  dsimp only
  split <;> simp

@[simp] theorem State.stepPin_tick (p : Nat) : (s.stepPin p).tick = s.tick := by
  simp [State.stepPin]

@[simp] theorem State.showContact_tick (old : State) (p g : Nat) : (s.showContact old p g).tick = s.tick := by
  unfold State.showContact
  split <;> simp

/-! Scribe. -/

@[simp] theorem State.recordFigs_tick (c : Nat) (unit : Option Nat) (f : RunFigures → RunFigures) :
    (s.recordFigs c unit f).tick = s.tick := by
  unfold State.recordFigs
  split
  · simp
  · split <;> simp

@[simp] theorem State.queueRecord_tick (c : Nat) (unit : Option Nat) (grain rank flags vaddr ts kind pin cycle : Nat) :
    (s.queueRecord c unit grain rank flags vaddr ts kind pin cycle).tick = s.tick := by
  unfold State.queueRecord
  extract_lets sat t x t1 t2 t3 t4 loss fl cyc t5
  have ht : t.tick = s.tick := by
    unfold t
    split <;> simp
  have ht2 : t2.tick = t1.tick := by
    unfold t2
    split <;> simp
  split
  · split <;> simp [t4, t3, ht2, t1, ht]
  · simp [t5, ht]

@[simp] theorem State.emitCount_tick (c u : Nat) (w : CountWindow) (g : Nat) : (s.emitCount c u w g).tick = s.tick := by
  unfold State.emitCount
  split <;> simp

@[simp] theorem State.flushOld_tick (c u g : Nat) : (s.flushOld c u g).tick = s.tick := by
  unfold State.flushOld
  split
  · split <;> simp
  · rfl

@[simp] theorem State.scribePut_tick (c : Nat) (unit : Option Nat) (grain rank flags vaddr ts kind pin cycle : Nat) :
    (s.scribePut c unit grain rank flags vaddr ts kind pin cycle).tick = s.tick := by
  simp [State.scribePut]

@[simp] theorem State.scribeMarker_tick (c mtype grain cycle vaddr flags : Nat) :
    (s.scribeMarker c mtype grain cycle vaddr flags).tick = s.tick := by
  simp [State.scribeMarker]

@[simp] theorem State.invalidMarker_tick (c g : Nat) : (s.invalidMarker c g).tick = s.tick := by
  unfold State.invalidMarker
  split
  · dsimp only
    split <;> simp
  · rfl

@[simp] theorem State.countedOn_tick (c g : Nat) : (s.countedOn c g).tick = s.tick := by
  unfold State.countedOn
  dsimp only
  split <;> simp

@[simp] theorem State.closeWindow_tick (c u g : Nat) : (s.closeWindow c u g).tick = s.tick := by
  unfold State.closeWindow
  dsimp only
  split
  · rfl
  · rw [State.updPin_tick]
    split <;> simp

@[simp] theorem State.countedOff_tick (c g : Nat) : (s.countedOff c g).tick = s.tick := by
  simp [State.countedOff, State.closeWindows]

@[simp] theorem State.countedDecide_tick (c g : Nat) : (s.countedDecide c g).tick = s.tick := by
  unfold State.countedDecide
  split
  · dsimp only
    split <;> split <;> simp
  · rfl

@[simp] theorem State.reportFill_tick (c : Nat) : (s.reportFill c).tick = s.tick := by
  unfold State.reportFill
  split <;> simp

/-! Error correction (R331-R341). -/

@[simp] theorem State.corrected_tick (a : Nat) : (s.corrected a).tick = s.tick := by
  unfold State.corrected
  dsimp only
  split <;> split <;> simp

@[simp] theorem State.errorLog_tick (u addr outcome src : Nat) : (s.errorLog u addr outcome src).tick = s.tick := by
  unfold State.errorLog
  dsimp only
  split <;> simp

@[simp] theorem State.reportError_tick (a out src : Nat) : (s.reportError a out src).tick = s.tick := by
  simp [State.reportError]

@[simp] theorem State.countUe_tick (a : Nat) : (s.countUe a).tick = s.tick := by
  unfold State.countUe
  split <;> simp

@[simp] theorem State.mirrorBad_tick (a : Nat) : (s.mirrorBad a).tick = s.tick := by
  simp [State.mirrorBad]

@[simp] theorem State.damage_tick (a : Nat) : (s.damage a).tick = s.tick := by
  simp [State.damage]

@[simp] theorem State.dropVectorLine_tick (c : Nat) : (s.dropVectorLine c).tick = s.tick := by
  unfold State.dropVectorLine
  dsimp only
  split <;> simp

@[simp] theorem State.readMirror_tick (a : Nat) (f : Finds) (src : Nat) : (s.readMirror a f src).2.tick = s.tick := by
  unfold State.readMirror State.repairFromMirror
  split
  · rfl
  · dsimp only
    split <;> simp

@[simp] theorem State.poisonOutcome_tick (a : Nat) (f : Finds) (src : Nat) : (s.poisonOutcome a f src).2.tick = s.tick := by
  unfold State.poisonOutcome
  split
  case h_1 c =>
    split
    · simp
    · split <;> simp
  case h_2 =>
    dsimp only
    split
    · simp
    · split
      · split <;> simp
      · simp
  case h_3 => split <;> simp

@[simp] theorem State.uncorrectable_tick (a : Nat) (f : Finds) (src : Nat) : (s.uncorrectable a f src).tick = s.tick := by
  unfold State.uncorrectable
  split
  · split <;> simp
  · split <;> simp

@[simp] theorem State.eccRead_tick (a : Nat) (f : Finds) (src : Nat) : (s.eccRead a f src).tick = s.tick :=
  tick_foldl (fun t e => by cases e <;> simp) _ s

@[simp] theorem State.meet_tick (a n : Nat) (f : Finds) (src : Nat) : (s.meet a n f src).tick = s.tick := by
  unfold State.meet
  split <;> simp

/-! The player of a pin. -/

@[simp] theorem State.holdInvalid_tick (p k : Nat) (y : Player) : (s.holdInvalid p k y).tick = s.tick := by
  simp [State.holdInvalid]

@[simp] theorem State.playGranule_tick (p g : Nat) (y : Player) (finds : Finds) : (s.playGranule p g y finds).tick = s.tick := by
  unfold State.playGranule
  dsimp only
  split <;> simp

@[simp] theorem State.wordAt_tick (a g : Nat) : (s.wordAt a g).2.tick = s.tick := by
  unfold State.wordAt
  split <;> simp

@[simp] theorem State.segWord_tick (y : Option Player) (a g : Nat) : (s.segWord y a g).2.tick = s.tick := by
  unfold State.segWord
  dsimp only
  split <;> simp

@[simp] theorem State.segAt_tick (c n : Nat) (y : Option Player) (g : Nat) : (s.segAt c n y g).2.tick = s.tick := by
  simp [State.segAt]

@[simp] theorem State.playEntry_tick (p n g plays last : Nat) (trig : Bool) (finds : Finds) :
    (s.playEntry p n g plays last trig finds).tick = s.tick := by
  unfold State.playEntry
  extract_lets c u y x t gr t1 z
  have ht : t.tick = s.tick := by simp [t, x]
  have ht1 : t1.tick = s.tick := by
    unfold t1
    split <;> simp [ht]
  split <;> simp [ht1]

@[simp] theorem State.settlePlayer_tick (p g : Nat) (finds : Finds) : (s.settlePlayer p g finds).tick = s.tick := by
  unfold State.settlePlayer
  split
  · rfl
  · dsimp only
    split
    · rfl
    · split
      · split <;> simp
      · split <;> simp

@[simp] theorem State.pinBoundary_tick (c b u : Nat) (finds : Finds) : (s.pinBoundary c b u finds).tick = s.tick := by
  unfold State.pinBoundary
  extract_lets p t t1
  have ht : t1.tick = s.tick := by
    unfold t1
    split <;> simp [t]
  simp [ht]

end

end Sys2Proof.Machine
end

section
namespace Sys2Proof.Machine

/-! The digitisers, the converters, the values and the mode word keep the flash and the boundaries. -/

section

variable (s : State)

/-! The digitisers and their records (R259-R282). -/

@[simp] theorem State.digIdle_tick (d g : Nat) : (s.digIdle d g).tick = s.tick := by
  simp [State.digIdle]

@[simp] theorem State.feedTo_tick (d n : Nat) : (s.feedTo d n).tick = s.tick := by
  exact (State.withFree_tick _ _).trans (s.updDig_tick ..)

@[simp] theorem State.meanOvf_tick (d n : Nat) (x : AcqCfg) (j k : Nat) (l : List Byte) : (s.meanOvf d n x j k l).tick = s.tick := by
  unfold State.meanOvf
  split
  · rfl
  · dsimp only
    split <;> simp

@[simp] theorem State.stageLines_tick (d ring : Nat) (lines : List (List Byte)) : (s.stageLines d ring lines).tick = s.tick := by
  simp [State.stageLines]

@[simp] theorem State.sourceRequest_tick (n : Nat) : (s.sourceRequest n).tick = s.tick := by
  unfold State.sourceRequest State.raise
  split <;> simp

@[simp] theorem State.acqRequest_tick (d ring : Nat) (endLine : Bool) : (s.acqRequest d ring endLine).tick = s.tick := by
  unfold State.acqRequest
  dsimp only
  split <;> simp

@[simp] theorem State.stageData_tick (d ring n : Nat) (body : List Byte) : (s.stageData d ring n body).tick = s.tick := by
  unfold State.stageData
  dsimp only
  split <;> simp

@[simp] theorem State.nextLine_tick (d n : Nat) (x : AcqCfg) (ring units : Nat) (l : List Byte) :
    (s.nextLine d n x ring units l).tick = s.tick := by
  unfold State.nextLine
  dsimp only
  split
  · rfl
  · split <;> simp

@[simp] theorem State.restLines_tick (d n : Nat) (x : AcqCfg) (ring units : Nat) (l : List Byte) (k : Nat) :
    (State.restLines d n x ring units l k s).tick = s.tick := by
  induction k generalizing s with
  | zero => rfl
  | succ k ih => simp [State.restLines, ih]

@[simp] theorem State.endRing_tick (d n : Nat) (x : AcqCfg) (l : List Byte) (aborted : Bool) (ring : Nat) :
    (s.endRing d n x l aborted ring).tick = s.tick := by
  unfold State.endRing
  dsimp only
  split <;> simp

@[simp] theorem State.endRecord_tick (d a n m : Nat) (x : AcqCfg) (aborted : Bool) : (s.endRecord d a n m x aborted).tick = s.tick := by
  unfold State.endRecord
  dsimp only
  rw [tick_foldl (by simp)]
  simp

@[simp] theorem State.abortDig_tick (d b : Nat) : (s.abortDig d b).tick = s.tick := by
  unfold State.abortDig
  split <;> simp

@[simp] theorem State.settleRange_tick (d g : Nat) : (s.settleRange d g).tick = s.tick := by
  unfold State.settleRange
  split
  · split <;> simp
  · rfl

@[simp] theorem State.checkRing_tick (r n : Nat) (bad : Option Nat) : (s.checkRing r n bad).2.tick = s.tick := by
  unfold State.checkRing
  split
  · rfl
  · dsimp only
    split <;> simp

@[simp] theorem State.checkAcqRing_tick (d : Nat) (x : AcqCfg) (ring : Nat) : (s.checkAcqRing d x ring).tick = s.tick := by
  simp [State.checkAcqRing]

@[simp] theorem State.armNow_tick (d a : Nat) : (s.armNow d a).tick = s.tick := by
  unfold State.armNow
  dsimp only
  rw [tick_foldl (by simp)]
  simp

@[simp] theorem State.armDig_tick (d a : Nat) : (s.armDig d a).tick = s.tick := by
  unfold State.armDig
  dsimp only
  split
  · split <;> simp
  · simp
  · split <;> simp

@[simp] theorem State.armDue_tick (d b : Nat) : (s.armDue d b).tick = s.tick := by
  unfold State.armDue
  dsimp only
  split
  · split <;> simp
  · simp

@[simp] theorem State.acqCommand_tick (d b : Nat) (w : Word) : (s.acqCommand d b w).tick = s.tick := by
  unfold State.acqCommand
  dsimp only
  split <;> split <;> simp

@[simp] theorem State.acqRangeDue_tick (d : Nat) (w : Word) (b : Nat) : (s.acqRangeDue d w b).tick = s.tick := by
  unfold State.acqRangeDue
  dsimp only
  split <;> simp

/-! The scanned converter (R283-R302). -/

@[simp] theorem State.adcMissed_tick (c : Nat) : (s.adcMissed c).tick = s.tick := s.countSat_tick ..
@[simp] theorem State.adcPending_tick (c : Nat) : (s.adcPending c).tick = s.tick := s.setBit_tick ..

@[simp] theorem State.adcDemand_tick (c : Nat) : (s.adcDemand c).tick = s.tick := by
  unfold State.adcDemand
  split <;> simp

@[simp] theorem State.latchDacs_tick (c g : Nat) : (s.latchDacs c g).tick = s.tick := by
  unfold State.latchDacs
  split
  · split <;> simp
  · rfl

@[simp] theorem State.adcTake_tick (c : Nat) (x : ConvStart) : (s.adcTake c x).tick = s.tick := by
  unfold State.adcTake
  dsimp only
  split
  · simp
  · split <;> simp

@[simp] theorem State.adcSettle_tick (c g n : Nat) : (s.adcSettle c g n).tick = s.tick := by
  induction n generalizing s with
  | zero => rfl
  | succ n ih =>
    unfold State.adcSettle
    split
    · split <;> simp [ih]
    · rfl

@[simp] theorem State.adcCatchUp_tick (c g : Nat) : (s.adcCatchUp c g).tick = s.tick := s.adcSettle_tick ..

@[simp] theorem State.nextSelfTest_tick (c g : Nat) : (s.nextSelfTest c g).tick = s.tick := by
  unfold State.nextSelfTest
  split
  · split
    · split <;> simp
    · rfl
  · rfl

@[simp] theorem State.adcAfter_tick (c g : Nat) (lowPower : Bool) : (s.adcAfter c g lowPower).tick = s.tick := by
  unfold State.adcAfter
  dsimp only
  split
  · simp
  · split <;> simp

@[simp] theorem State.abandonSeq_tick (c g : Nat) : (s.abandonSeq c g).tick = s.tick := by
  unfold State.abandonSeq
  split <;> simp

@[simp] theorem State.adcEvent_tick (c e : Nat) : (s.adcEvent c e).tick = s.tick := by
  unfold State.adcEvent
  dsimp only
  split
  · simp
  · split <;> simp

@[simp] theorem State.flowConvert_tick (c g : Nat) : (s.flowConvert c g).tick = s.tick := by
  unfold State.flowConvert
  split
  · split <;> simp
  · rfl

@[simp] theorem State.pulsePin_tick (p b : Nat) : (s.pulsePin p b).tick = s.tick := by
  unfold State.pulsePin
  dsimp only
  split <;> split
  · rfl
  · split <;> simp
  · rfl
  · split <;> simp

@[simp] theorem State.pulseCommand_tick (c b mask : Nat) : (s.pulseCommand c b mask).tick = s.tick := by
  simp [State.pulseCommand]

@[simp] theorem State.applyPulses_tick (c b : Nat) (due : List PinMsg) : (s.applyPulses c b due).tick = s.tick := by
  simp [State.applyPulses]

/-! The mode word (R405). -/

@[simp] theorem State.beginShutdown_tick (c b m : Nat) : (s.beginShutdown c b m).tick = s.tick := by
  unfold State.beginShutdown
  split
  · simp
  · simp
  · dsimp only
    rw [State.adcPending_tick, State.updAdc_tick]
    split <;> split <;> simp
  · rfl

@[simp] theorem State.stepMode_tick (c b m : Nat) : (s.stepMode c b m).tick = s.tick := by
  unfold State.stepMode
  dsimp only
  split
  · split
    · rfl
    · split <;> simp
  · split <;> simp

@[simp] theorem State.stepModes_tick (c b : Nat) : (s.stepModes c b).tick = s.tick := by
  unfold State.stepModes
  exact tick_foldl (by simp) _ s

/-! Values that come into force (R139). -/

@[simp] theorem State.setCode_tick (c u b : Nat) (f : Fld) (code : Nat) : (s.setCode c u b f code).tick = s.tick := by
  unfold State.setCode
  dsimp only
  split <;> simp

end

end Sys2Proof.Machine
end

section
namespace Sys2Proof.Machine

/-! Values, flags, services and the other commands that act at a boundary keep the flash and the boundaries. -/

section

variable (s : State)

/-! Values that come into force (R139). -/

@[simp] theorem State.forceEffect_tick (c b a : Nat) (old w : Word) : (s.forceEffect c b a old w).tick = s.tick := by
  unfold State.forceEffect
  split
  case h_1 => rfl
  case h_2 l _ =>
    by_cases hcmp : l.blk = 4 ∧ l.off < 0x100
    · rw [if_pos hcmp]
      dsimp only
      split
      · simp
      · split <;> simp
    rw [if_neg hcmp]
    by_cases hclp : l.blk = 5 ∧ l.off < 0x100
    · rw [if_pos hclp]
      dsimp only
      split
      · simp
      · split
        · simp
        · split <;> simp
    rw [if_neg hclp]
    split
    · rw [State.adcDemand_tick]
      split <;> simp
    split
    · simp
    split
    · refine tick_foldl (fun t e => ?_) _ s
      dsimp only
      split <;> simp
    · rfl

@[simp] theorem State.valueAct_tick (c b : Nat) (m : PinMsg) : (s.valueAct c b m).tick = s.tick := by
  unfold State.valueAct
  dsimp only
  split <;> simp

@[simp] theorem State.applyValues_tick (c b : Nat) (due : List PinMsg) : (s.applyValues c b due).tick = s.tick := by
  simp [State.applyValues]

/-! Services and the runs that one cuts (R418-R423). -/

@[simp] theorem State.modReqNow_tick (c w : Nat) : (s.modReqNow c w).tick = s.tick := by
  unfold State.modReqNow
  rw [State.setBoth_tick, State.withInFlight_tick]

@[simp] theorem State.leaveRun_tick (e : Nat) : (s.leaveRun e).tick = s.tick := by
  simp [State.leaveRun]

@[simp] theorem State.endCode_tick (e code : Nat) : (s.endCode e code).tick = s.tick := s.setFld_tick ..

@[simp] theorem State.releaseRun_tick (r : Run) : (s.releaseRun r).tick = s.tick := by
  simp [State.releaseRun]

@[simp] theorem State.refuseRun_tick (r : Run) (code : Nat) : (s.refuseRun r code).tick = s.tick := by
  unfold State.refuseRun
  extract_lets t t1 t2
  have ht : t2.tick = s.tick := by
    unfold t2 t1 t
    rw [State.withRuns_tick, tick_foldl (by simp), tick_foldl (by simp), State.releaseRun_tick]
  split <;> simp [ht]

@[simp] theorem State.svcBegin_tick (c : Nat) (v : Service) : (s.svcBegin c v).tick = s.tick := by
  simp [State.svcBegin]

@[simp] theorem State.endRun_tick (e code : Nat) (g : Option Nat) : (s.endRun e code g).tick = s.tick := by
  unfold State.endRun
  split <;> simp

@[simp] theorem State.cutProduction_tick (c d e : Nat) : (s.cutProduction c d e).tick = s.tick := by
  simp [State.cutProduction]

@[simp] theorem State.cutRuns_tick (c d : Nat) : (s.cutRuns c d).tick = s.tick := by
  unfold State.cutRuns
  dsimp only
  split <;> simp

@[simp] theorem State.drainAt_tick (c : Nat) (cut : Bool) (d : Nat) : (s.drainAt c cut d).tick = s.tick := by
  unfold State.drainAt
  dsimp only
  split <;> simp

@[simp] theorem State.drainDue_tick (c b : Nat) : (s.drainDue c b).tick = s.tick := by
  unfold State.drainDue
  split
  · split <;> simp
  · rfl

@[simp] theorem State.drainMeets_tick (c : Nat) (cut : Bool) (d : Nat) : (s.drainMeets c cut d).tick = s.tick := by
  unfold State.drainMeets
  split <;> simp

@[simp] theorem State.memtestStart_tick (c : Nat) : (s.memtestStart c).tick = s.tick := by
  simp [State.memtestStart]

@[simp] theorem State.recoverAt_tick (c resume r : Nat) : (s.recoverAt c resume r).tick = s.tick := by
  simp [State.recoverAt]

@[simp] theorem State.svcAct_tick (c op : Nat) (value : Word) (b : Nat) : (s.svcAct c op value b).tick = s.tick := by
  unfold State.svcAct
  split <;> simp

@[simp] theorem State.svcWrite_tick (port c : Nat) (value : Word) (b : Nat) : (s.svcWrite port c value b).tick = s.tick := by
  unfold State.svcWrite State.svcIssue State.svcRefuse
  dsimp only
  split
  · rfl
  · split
    · simp
    · split <;> simp

/-! Flags (R201). -/

@[simp] theorem State.unwait_tick (e g : Nat) : (s.unwait e g).tick = s.tick := by
  unfold State.unwait
  dsimp only
  split <;> simp

@[simp] theorem State.waitCheckAt_tick (e g : Nat) : (s.waitCheckAt e g).tick = s.tick := by
  unfold State.waitCheckAt
  split
  · dsimp only
    split <;> simp
  · rfl

@[simp] theorem State.recheck_tick (key g e : Nat) : (s.recheck key g e).tick = s.tick := by
  unfold State.recheck
  dsimp only
  split
  · split <;> simp
  · split
    · simp
    · split <;> simp
  · split <;> simp
  · rfl

@[simp] theorem State.flagSetAt_tick (key g src : Nat) : (s.flagSetAt key g src).tick = s.tick := by
  unfold State.flagSetAt
  dsimp only
  rw [tick_foldl (by simp), State.withFlagSets_tick, State.setFlag_tick]

@[simp] theorem State.flagClrAt_tick (key g src : Nat) : (s.flagClrAt key g src).tick = s.tick := by
  unfold State.flagClrAt
  dsimp only
  split <;> simp

@[simp] theorem State.flagChange_tick (key g src : Nat) (set : Bool) : (s.flagChange key g src set).tick = s.tick := by
  unfold State.flagChange
  split
  · dsimp only
    split <;> rfl
  · split <;> simp

@[simp] theorem State.flagRegWrite_tick (keys : List Nat) (set : Bool) (value : Word) (b : Nat) :
    (s.flagRegWrite keys set value b).tick = s.tick := by
  refine tick_foldl (fun t i => ?_) _ s
  split <;> simp

/-! The precision converter and the other commands (R139). -/

@[simp] theorem State.precShow_tick (r : Nat) (lowPower : Bool) : (s.precShow r lowPower).tick = s.tick := by
  simp [State.precShow]

@[simp] theorem State.precDemand_tick (r : Nat) : (s.precDemand r).tick = s.tick := by
  unfold State.precDemand
  dsimp only
  split <;> simp

@[simp] theorem State.precPush_tick (r entry : Nat) : (s.precPush r entry).tick = s.tick := by
  unfold State.precPush
  dsimp only
  split <;> simp

@[simp] theorem State.precDue_tick (r g : Nat) : (s.precDue r g).tick = s.tick := by
  unfold State.precDue State.precWrite
  split
  · split <;> simp
  · rfl

@[simp] theorem State.precCtrl_tick (r b : Nat) (w : Word) : (s.precCtrl r b w).tick = s.tick := by
  unfold State.precCtrl State.precRestart
  dsimp only
  split <;> simp

@[simp] theorem State.clearLatch_tick (p g : Nat) : (s.clearLatch p g).tick = s.tick := by
  unfold State.clearLatch
  split
  · split <;> simp
  · rfl

@[simp] theorem State.clearLatches_tick (c mask b : Nat) : (s.clearLatches c mask b).tick = s.tick := by
  unfold State.clearLatches
  refine (tick_foldl (fun t u => ?_) _ _).trans (s.at_tick b)
  dsimp only
  split
  · rfl
  · split <;> simp

@[simp] theorem State.calCommand_tick (c : Nat) (w : Word) : (s.calCommand c w).tick = s.tick := by
  unfold State.calCommand State.calRequest
  dsimp only
  split <;> split <;> simp

@[simp] theorem State.boundaryAct_tick (c b : Nat) (m : PinMsg) : (s.boundaryAct c b m).tick = s.tick := by
  unfold State.boundaryAct
  dsimp only
  split
  · simp
  · simp only [apply_ite State.tick, State.adcEvent_tick, State.clearLatches_tick, State.acqCommand_tick, State.acqRangeDue_tick,
      State.calCommand_tick, State.svcWrite_tick, State.precCtrl_tick, ite_self]

@[simp] theorem State.applyCommands_tick (c b : Nat) (due : List PinMsg) : (s.applyCommands c b due).tick = s.tick := by
  simp [State.applyCommands]

/-! All of a boundary up to the take of the tenon (R139, R405). -/

@[simp] theorem State.forceBoundary_tick (c b : Nat) (due : List PinMsg) : (s.forceBoundary c b due).tick = s.tick := by
  simp [State.forceBoundary]

@[simp] theorem State.dropDue_tick (c b : Nat) : (s.dropDue c b).tick = s.tick := State.withInFlight_tick s _

end

end Sys2Proof.Machine
end

section
namespace Sys2Proof.Machine

/-! The take of a tenon (R74, R79), and what a boundary does to the flash and to the boundary its cluster has reached. -/

section

variable (s : State) (c b : Nat)

@[simp] theorem State.updFigs_cl (f : RunFigures → RunFigures) :
    (s.updFigs c f).cl c = { s.cl c with figs := (s.cl c).figs.map (fun y => (y.1, f y.2)) } := s.updCl_cl c _
@[simp] theorem State.updFigs_runs (f : RunFigures → RunFigures) : (s.updFigs c f).runs = s.runs := by rfl
@[simp] theorem State.updFigs_fld (f : RunFigures → RunFigures) (a : Nat) (g : Fld) : (s.updFigs c f).fld a g = s.fld a g := by rfl
@[simp] theorem State.withRuns_cl (l : List Run) (k : Nat) : ({ s with runs := l } : State).cl k = s.cl k := by rfl
@[simp] theorem State.withRuns_fld (l : List Run) (a : Nat) (g : Fld) : ({ s with runs := l } : State).fld a g = s.fld a g := by rfl

/-! The idle of the pins in an underrun. -/

/-- The registers, the clusters and the runs. -/
def State.tenonView (s : State) : Tbl Word × Tbl ClSt × List Run := (s.regs, s.clusters, s.runs)

theorem State.placeEdge_tenonView (p : Nat) (x : PendingEdge) : (s.placeEdge p x).tenonView = s.tenonView := by
  unfold State.placeEdge
  extract_lets t time y u
  have ht : t.tenonView = s.tenonView := rfl
  split
  · exact ht
  · split <;> exact ht

theorem State.idleOut_tenonView (p : Nat) : (s.idleOut p b).tenonView = s.tenonView := by
  change (s.flushEdge p).tenonView = s.tenonView
  unfold State.flushEdge
  split
  · exact s.placeEdge_tenonView p _
  · rfl

theorem State.idlePins_tenonView :
    ((List.range 16).foldl (fun t u => t.idleOut (16 * c + u) b) s).tenonView = s.tenonView :=
  foldl_obs _ State.tenonView (fun t u => t.idleOut_tenonView b (16 * c + u)) _ s

theorem State.idlePins_cl (k : Nat) : ((List.range 16).foldl (fun t u => t.idleOut (16 * c + u) b) s).cl k = s.cl k :=
  congrArg (fun v : Tbl Word × Tbl ClSt × List Run => ({ s with clusters := v.2.1 } : State).cl k) (s.idlePins_tenonView c b)

theorem State.idlePins_runs : ((List.range 16).foldl (fun t u => t.idleOut (16 * c + u) b) s).runs = s.runs :=
  congrArg (fun v : Tbl Word × Tbl ClSt × List Run => v.2.2) (s.idlePins_tenonView c b)

theorem State.idlePins_fld (a : Nat) (f : Fld) :
    ((List.range 16).foldl (fun t u => t.idleOut (16 * c + u) b) s).fld a f = s.fld a f :=
  congrArg (fun v : Tbl Word × Tbl ClSt × List Run => ({ s with regs := v.1 } : State).fld a f) (s.idlePins_tenonView c b)

/-! An underrun (R79, R83). -/

theorem State.underrun_missing : ((s.underrun c b).cl c).missing = true := by
  unfold State.underrun
  dsimp only
  rw [State.idlePins_cl, State.updCl_cl]

theorem State.underrun_missed : ((s.underrun c b).cl c).missed = b :: (s.cl c).missed := by
  unfold State.underrun
  extract_lets first t t1 t2 mark t3 t4
  have h1 : t1.cl c = s.cl c := by
    unfold t1
    split <;> simp [t]
  rw [State.idlePins_cl, State.updCl_cl, State.withRuns_cl, State.updFigs_cl, h1]

theorem State.underrun_runs : (s.underrun c b).runs =
    s.runs.map (fun r => if (s.cl c).figs.any (fun y => y.1 == r.id) then { r with underrun := true } else r) := by
  unfold State.underrun
  extract_lets first t t1 t2 mark t3 t4
  have h1 : t1.cl c = s.cl c ∧ t1.runs = s.runs := by
    unfold t1
    split <;> simp [t]
  rw [State.idlePins_runs, State.updCl_runs]
  simp only [t3, mark, t2, State.updFigs_cl, State.updFigs_runs, List.any_map, h1]
  rfl

theorem State.underrun_fld : (s.underrun c b).fld (TMG_LEAD c) TMG_LEAD_UNDERRUN = 1 := by
  have hlo : TMG_LEAD c ≠ TMG_UR_GT_LO c := by unfold TMG_LEAD TMG_UR_GT_LO; omega
  have hhi : TMG_LEAD c ≠ TMG_UR_GT_HI c := by unfold TMG_LEAD TMG_UR_GT_HI; omega
  unfold State.underrun
  extract_lets first t t1 t2 mark t3 t4
  have ht : t.fld (TMG_LEAD c) TMG_LEAD_UNDERRUN = 1 := State.setFld_fld s _ _ _ (by decide) (by decide)
  rw [State.idlePins_fld, State.updCl_fld, State.withRuns_fld, State.updFigs_fld]
  unfold t1
  split
  · unfold State.fld
    rw [State.setPair_reg_ne _ _ _ _ _ hlo hhi]
    exact ht
  · exact ht

@[simp] theorem State.underrun_tick : (s.underrun c b).tick = s.tick := by
  unfold State.underrun
  extract_lets first t t1 t2 mark t3 t4
  have h1 : t1.tick = s.tick := by
    unfold t1
    split <;> simp [t]
  have h3 : t3.tick = s.tick := by
    unfold t3
    rw [State.withRuns_tick]
    simp [t2, h1]
  rw [tick_foldl (by simp)]
  simp [t4, h3]

@[simp] theorem State.resumePlay_tick : (s.resumePlay c b).tick = s.tick := by
  unfold State.resumePlay
  dsimp only
  split <;> simp

/-! The lead after a take (R75, R78). -/

section

variable (before : Nat)

@[simp] theorem State.leadTaken_tick : (s.leadTaken c b before).tick = s.tick := by
  unfold State.leadTaken
  dsimp only
  split
  · split <;> simp
  · simp

theorem State.leadTaken_missing : ((s.leadTaken c b before).cl c).missing = (s.cl c).missing := by
  unfold State.leadTaken State.updFigs
  dsimp only
  split
  · split <;> simp
  · simp

theorem State.leadTaken_missed : ((s.leadTaken c b before).cl c).missed = (s.cl c).missed := by
  unfold State.leadTaken State.updFigs
  dsimp only
  split
  · split <;> simp
  · simp

theorem State.leadTaken_runs : (s.leadTaken c b before).runs = s.runs := by
  unfold State.leadTaken State.updFigs
  dsimp only
  split
  · split <;> simp
  · simp

theorem State.leadTaken_underrun (h : TMG_LEAD c < hubBlk 4 ∨ hubBlk 5 ≤ TMG_LEAD c) :
    (s.leadTaken c b before).fld (TMG_LEAD c) TMG_LEAD_UNDERRUN = s.fld (TMG_LEAD c) TMG_LEAD_UNDERRUN := by
  unfold State.leadTaken
  extract_lets l a t t1 t2
  have ht : t1.fld (TMG_LEAD c) TMG_LEAD_UNDERRUN = s.fld (TMG_LEAD c) TMG_LEAD_UNDERRUN := by
    rw [State.updFigs_fld, State.setFld_fld_apart _ _ _ _ _ (by decide)]
  have ht2 : t2.fld (TMG_LEAD c) TMG_LEAD_UNDERRUN = s.fld (TMG_LEAD c) TMG_LEAD_UNDERRUN := by
    rw [State.updFigs_fld, State.setFld_fld_apart _ _ _ _ _ (by decide), ht]
  split
  · split
    · rw [State.event_fld _ _ _ _ _ _ _ _ h, State.updCl_fld, ht2]
    · exact ht2
  · exact ht

end

/-! The take (R74). -/

/-- The tenons of the Mortise once those that wait have entered it as far as it has room. -/
def ClSt.ready (x : ClSt) : List Tenon := (addTenons x.mortise x.waitTenons).1

/-- The state in which the cluster has taken the tenons stamped for a boundary, none missing yet. -/
def State.taken (s : State) (c b : Nat) : State :=
  (s.fillMortise c b).updCl c (fun x => { x with
    boundary := some b, mortise := (takeTenon b x.mortise).2, shadow := (takeTenon b x.shadow).2,
    curMain := (takeTenon b x.mortise).1, curShadow := (takeTenon b x.shadow).1 })

theorem State.taken_cl : (s.taken c b).cl c = { s.cl c with
    boundary := some b, mortise := (takeTenon b (s.cl c).ready).2, shadow := (takeTenon b (s.cl c).shadow).2,
    curMain := (takeTenon b (s.cl c).ready).1, curShadow := (takeTenon b (s.cl c).shadow).1,
    waitTenons := ((addTenons (s.cl c).mortise (s.cl c).waitTenons).2.filter (fun t => decide (b < t.stamp))) } := by
  unfold State.taken State.fillMortise
  rw [State.updCl_cl, State.updCl_cl]
  rfl

theorem State.takeTenons_of_idle (h : ∀ e ∈ clEngines c, s.playsIn e b = false) :
    s.takeTenons c b = (s.taken c b).updCl c (fun x => { x with missing := false, missed := [] }) := by
  have hact : (clEngines c).filter (fun e => (s.fillMortise c b).playsIn e b) = [] :=
    List.filter_eq_nil_iff.mpr fun e he => by
      change ¬ s.playsIn e b = true
      rw [h e he]
      exact Bool.false_ne_true
  unfold State.takeTenons
  dsimp only
  rw [if_pos hact]
  rfl

/-- Whether a playing engine lacks its path in a lane that feeds its pins (R79, R195). -/
def State.tenonGone (s : State) (c b : Nat) : Bool :=
  ((clEngines c).filter (fun e => s.playsIn e b)).any (fun e =>
    (s.lanesIn e b).any (lacks (takeTenon b (s.cl c).ready).1 (takeTenon b (s.cl c).shadow).1 e))

theorem State.takeTenons_of_plays (e : Nat) (he : e ∈ clEngines c) (hp : s.playsIn e b = true) :
    ∃ before, s.takeTenons c b =
      (if s.tenonGone c b then (s.taken c b).underrun c b else (s.taken c b).resumePlay c b).leadTaken c b before := by
  have hact : (clEngines c).filter (fun e => (s.fillMortise c b).playsIn e b) ≠ [] := fun h =>
    List.filter_eq_nil_iff.mp h e he hp
  refine ⟨(s.fillMortise c b).level c, ?_⟩
  have hm : (s.cl c).ready = ((s.fillMortise c b).cl c).mortise := by
    unfold State.fillMortise
    rw [State.updCl_cl]
    rfl
  have hh : (s.cl c).shadow = ((s.fillMortise c b).cl c).shadow := by
    unfold State.fillMortise
    rw [State.updCl_cl]
  unfold State.takeTenons State.tenonGone
  dsimp only
  rw [if_neg hact, hm, hh]
  rfl

theorem State.takeTenons_tick : (s.takeTenons c b).tick = (s.taken c b).tick := by
  by_cases h : ∀ e ∈ clEngines c, s.playsIn e b = false
  · rw [s.takeTenons_of_idle c b h]
    simp
  · simp only [not_forall, Bool.not_eq_false] at h
    obtain ⟨e, he, hp⟩ := h
    obtain ⟨n, hn⟩ := s.takeTenons_of_plays c b e he hp
    rw [hn, State.leadTaken_tick]
    split <;> simp

theorem State.takeTenons_boundary : ((s.takeTenons c b).cl c).boundary = some b := by
  rw [(State.tick_eq_iff.mp (s.takeTenons_tick c b)).2 c, State.taken_cl]

theorem State.takeTenons_flash : (s.takeTenons c b).flash = s.flash := (State.tick_eq_iff.mp (s.takeTenons_tick c b)).1

/-- A playing engine that plays from the main array has its path missing when no tenon of the boundary in that array holds it. -/
theorem State.tenonGone_of_lacks (e : Nat) (he : e ∈ clEngines c) (hp : s.playsIn e b = true) (hb : (s.eng e).pend = none)
    (hl : (s.eng e).laneAt b = .main) (hx : ∀ x ∈ (s.cl c).ready, x.stamp = b → nbit x.engs (e % 4) = false) :
    s.tenonGone c b = true := by
  have hlane : Lane.main ∈ s.lanesIn e b := by
    unfold State.lanesIn
    dsimp only
    rw [hb, ← hl]
    exact List.mem_cons_self ..
  have hlack : lacks (takeTenon b (s.cl c).ready).1 (takeTenon b (s.cl c).shadow).1 e .main = true := by
    unfold lacks takeTenon
    dsimp only
    split
    case h_1 t ht =>
      rw [hx t (List.mem_of_find?_eq_some ht) (by simpa using List.find?_some ht)]
      rfl
    case h_2 => rfl
  exact List.any_eq_true.mpr ⟨e, List.mem_filter.mpr ⟨he, hp⟩, List.any_eq_true.mpr ⟨_, hlane, hlack⟩⟩

/-- An underrun at the take is marked in the cluster, in its register and in its runs (R79, R83). -/
theorem State.takeTenons_of_gone (e : Nat) (he : e ∈ clEngines c) (hp : s.playsIn e b = true) (hg : s.tenonGone c b = true)
    (hc : TMG_LEAD c < hubBlk 4 ∨ hubBlk 5 ≤ TMG_LEAD c) :
    ((s.takeTenons c b).cl c).missing = true ∧ ((s.takeTenons c b).cl c).missed = b :: (s.cl c).missed ∧
      (s.takeTenons c b).fld (TMG_LEAD c) TMG_LEAD_UNDERRUN = 1 ∧
      ∀ y ∈ (s.cl c).figs, ∀ r ∈ (s.takeTenons c b).runs, r.id = y.1 → r.underrun = true := by
  obtain ⟨n, hn⟩ := s.takeTenons_of_plays c b e he hp
  rw [hn, if_pos hg]
  refine ⟨?_, ?_, ?_, fun y hy r hr hid => ?_⟩
  · rw [State.leadTaken_missing, State.underrun_missing]
  · rw [State.leadTaken_missed, State.underrun_missed, State.taken_cl]
  · rw [State.leadTaken_underrun _ _ _ _ hc, State.underrun_fld]
  · rw [State.leadTaken_runs, State.underrun_runs, State.taken_cl] at hr
    obtain ⟨r0, -, rfl⟩ := List.mem_map.mp hr
    have hany : (s.cl c).figs.any (fun y => y.1 == r0.id) = true := by
      refine List.any_eq_true.mpr ⟨y, hy, beq_iff_eq.mpr (hid.symm.trans ?_)⟩
      split <;> rfl
    exact congrArg Run.underrun (if_pos hany)

/-! The boundary as a whole. -/

/-- Everything of a boundary after the take keeps the flash and the boundaries. -/
theorem State.boundary_tick (finds : Finds) : (s.boundary c b finds).tick =
    (((s.dropDue c b).forceBoundary c b (s.inFlight.filter (PinMsg.dueAt c b))).takeTenons c b).tick := by
  unfold State.boundary
  simp

end

end Sys2Proof.Machine
end

section
namespace Sys2Proof.Machine

/-! How a tenon of a playing cluster enters an array or is lost (R62, R74, R80), and how a value comes into force (R139). -/

section

variable (s : State) (c : Nat) (lane : Lane)

/-! The steps of a tenon's way in. -/

theorem State.fillSlots_isSome (slots : List CycleSlot) (h : ∀ y ∈ slots, s.fillSlot c lane y ≠ none) :
    ∃ l, s.fillSlots c lane slots = some l := by
  induction slots with
  | nil => exact ⟨[], rfl⟩
  | cons y ys ih =>
    obtain ⟨a, ha⟩ := Option.ne_none_iff_exists'.mp (h y (List.mem_cons_self ..))
    obtain ⟨l, hl⟩ := ih fun z hz => h z (List.mem_cons_of_mem _ hz)
    exact ⟨a :: l, by unfold State.fillSlots; rw [ha, hl]⟩

theorem State.noteFilled_frame (l : List TenonSlot) : ∃ e, s.noteFilled c lane l = { s with engines := e } := by
  unfold State.noteFilled
  induction l generalizing s with
  | nil => exact ⟨s.engines, rfl⟩
  | cons y l ih =>
    rw [List.foldl_cons]
    obtain ⟨e, he⟩ := ih _
    rw [he]
    split <;> exact ⟨e, rfl⟩

theorem State.noteFilled_cl (l : List TenonSlot) (k : Nat) : (s.noteFilled c lane l).cl k = s.cl k := by
  obtain ⟨e, he⟩ := s.noteFilled_frame c lane l
  rw [he]
  rfl

theorem State.enterTenon_frame (t : Tenon) : ∃ k e, s.enterTenon c lane t = { s with clusters := k, engines := e } := by
  unfold State.enterTenon
  dsimp only
  split
  · obtain ⟨e, he⟩ := (s.updCl c _).noteFilled_frame c lane t.slots
    exact ⟨_, e, he⟩
  · obtain ⟨e, he⟩ := s.noteFilled_frame c lane t.slots
    exact ⟨s.clusters, e, he⟩

theorem State.enterTenon_cl_ne (t : Tenon) (k : Nat) (h : k ≠ c) : (s.enterTenon c lane t).cl k = s.cl k := by
  unfold State.enterTenon
  dsimp only
  rw [State.noteFilled_cl]
  split
  · rw [State.updCl_cl_ne _ _ _ _ h]
  · rfl

theorem State.enterTenon_full (t : Tenon) (h : hasEntry ((s.cl c).array lane) t = false) (k : Nat) :
    (s.enterTenon c lane t).cl k = s.cl k := by
  unfold State.enterTenon
  rw [h]
  exact State.noteFilled_cl ..

theorem State.enterTenon_main (t : Tenon) (h : hasEntry (s.cl c).mortise t = true) :
    (s.enterTenon c .main t).cl c = { s.cl c with mortise := addTenon (s.cl c).mortise t } := by
  unfold State.enterTenon
  dsimp only
  rw [State.noteFilled_cl]
  change (if hasEntry (s.cl c).mortise t = true then _ else _ : State).cl c = _
  rw [if_pos h, State.updCl_cl]

theorem State.enterTenon_shadow (t : Tenon) (h : hasEntry (s.cl c).shadow t = true) :
    (s.enterTenon c .shadow t).cl c = { s.cl c with shadow := addTenon (s.cl c).shadow t } := by
  unfold State.enterTenon
  dsimp only
  rw [State.noteFilled_cl]
  change (if hasEntry (s.cl c).shadow t = true then _ else _ : State).cl c = _
  rw [if_pos h, State.updCl_cl]

theorem State.storeTenon_early (t : Tenon) (h : (s.cl c).cutEnd = none) (hb : ∀ b, (s.cl c).boundary = some b → b < t.stamp) :
    s.storeTenon c lane t = s.enterTenon c lane t := by
  unfold State.storeTenon
  dsimp only
  rw [h]
  cases e : (s.cl c).boundary with
  | none => rfl
  | some b => exact if_neg (by simpa using hb b e)

theorem State.storeTenon_late (t : Tenon) (h : (s.cl c).cutEnd = none) (b : Nat) (e : (s.cl c).boundary = some b) (hb : t.stamp ≤ b) :
    s.storeTenon c lane t = s.countSat (TMG_UR_LOST c) TMG_UR_LOST_LOST 1 := by
  unfold State.storeTenon
  dsimp only
  rw [h, e]
  exact if_pos (decide_eq_true hb)

theorem State.armLead_frame : ∃ k, s.armLead c = { s with clusters := k } := by
  unfold State.armLead
  split <;> exact ⟨_, rfl⟩

theorem State.armLead_reg (a : Nat) : (s.armLead c).reg a = s.reg a := by
  unfold State.armLead
  split <;> rfl

theorem State.armLead_cl_ne (k : Nat) (h : k ≠ c) : (s.armLead c).cl k = s.cl k := by
  unfold State.armLead
  split
  · rw [State.updCl_cl_ne _ _ _ _ h]
  · rfl

theorem State.armLead_mortise : ((s.armLead c).cl c).mortise = (s.cl c).mortise := by
  unfold State.armLead
  split
  · rw [State.updCl_cl]
  · rfl

theorem State.armLead_shadow : ((s.armLead c).cl c).shadow = (s.cl c).shadow := by
  unfold State.armLead
  split
  · rw [State.updCl_cl]
  · rfl

end

/-! TENON_PRODUCED in a cluster that plays a started run and has none forming. -/

section

variable (s : State) (c : ClNo) (lane : Lane) (stamp : Nat) (slots : List CycleSlot) (l : List TenonSlot)

theorem exec_tenonProduced_none (h : s.fillSlots c.val lane slots = none) : exec (.tenonProduced c lane stamp slots) s = .next s := by
  change execTenonProduced c lane stamp slots s = .next s
  unfold execTenonProduced
  rw [h]

/-- What the fabric's tenon leaves of the state. -/
def State.produced (s : State) (c : Nat) (lane : Lane) (stamp : Nat) (l : List TenonSlot) : State :=
  ((s.sliceSeen (c / 8)).storeTenon c lane ⟨stamp, s.pathMask c lane l, l⟩).armLead c

theorem exec_tenonProduced_some (hp : s.clPlaying c.val = true) (hf : s.formingIn c.val = none)
    (h : s.fillSlots c.val lane slots = some l) :
    exec (.tenonProduced c lane stamp slots) s = .next (s.produced c.val lane stamp l) := by
  have hp' : (s.sliceSeen (c.val / 8)).clPlaying c.val = true := hp
  have hf' : (s.sliceSeen (c.val / 8)).formingIn c.val = none := hf
  change execTenonProduced c lane stamp slots s = .next (s.produced c.val lane stamp l)
  unfold execTenonProduced
  rw [h]
  dsimp only
  rw [hf', if_pos hp']
  rfl

end

section

variable (s : State) (c : Nat) (lane : Lane) (stamp : Nat) (l : List TenonSlot)

/-- The region's own slice die is seen (R46). -/
theorem State.lastSlice_of_sliceSeen (t : State) (h : t.regions = (s.sliceSeen (c / 8)).regions) :
    (t.rg (c / 8)).lastSlice = max s.gt (s.rg (c / 8)).lastSlice := by
  have e : t.rg (c / 8) = (s.sliceSeen (c / 8)).rg (c / 8) := congrArg (fun x => tget (fun _ => ({} : RgSt)) x (c / 8)) h
  rw [e]
  exact congrArg RgSt.lastSlice (s.updRg_rg (c / 8) _)

variable (h : (s.cl c).cutEnd = none)
include h

theorem State.produced_early (hb : ∀ b, (s.cl c).boundary = some b → b < stamp) :
    s.produced c lane stamp l = ((s.sliceSeen (c / 8)).enterTenon c lane ⟨stamp, s.pathMask c lane l, l⟩).armLead c := by
  unfold State.produced
  exact congrArg (fun t => State.armLead t c) (State.storeTenon_early (s.sliceSeen (c / 8)) c lane ⟨stamp, s.pathMask c lane l, l⟩ h hb)

theorem State.produced_late (b : Nat) (e : (s.cl c).boundary = some b) (hb : stamp ≤ b) :
    s.produced c lane stamp l = ((s.sliceSeen (c / 8)).countSat (TMG_UR_LOST c) TMG_UR_LOST_LOST 1).armLead c := by
  unfold State.produced
  exact congrArg (fun t => State.armLead t c) (State.storeTenon_late (s.sliceSeen (c / 8)) c lane ⟨stamp, s.pathMask c lane l, l⟩ h b e hb)

/-- An early tenon touches the clusters, the engines and the region's link alone. -/
theorem State.produced_early_frame (hb : ∀ b, (s.cl c).boundary = some b → b < stamp) :
    ∃ k e, s.produced c lane stamp l = { s.sliceSeen (c / 8) with clusters := k, engines := e } := by
  rw [s.produced_early c lane stamp l h hb]
  obtain ⟨k1, e, h1⟩ := (s.sliceSeen (c / 8)).enterTenon_frame c lane ⟨stamp, s.pathMask c lane l, l⟩
  obtain ⟨k, h2⟩ := State.armLead_frame ((s.sliceSeen (c / 8)).enterTenon c lane ⟨stamp, s.pathMask c lane l, l⟩) c
  exact ⟨k, e, by rw [h2, h1]⟩

/-- A tenon that comes late touches the cluster's count of lost tenons, its lead and the region's link alone. -/
theorem State.produced_late_frame (b : Nat) (e : (s.cl c).boundary = some b) (hb : stamp ≤ b) :
    ∃ r k, s.produced c lane stamp l = { s.sliceSeen (c / 8) with regs := r, clusters := k } := by
  rw [s.produced_late c lane stamp l h b e hb]
  obtain ⟨r, hr⟩ : ∃ r, (s.sliceSeen (c / 8)).countSat (TMG_UR_LOST c) TMG_UR_LOST_LOST 1 = { s.sliceSeen (c / 8) with regs := r } :=
    ⟨_, rfl⟩
  obtain ⟨k, hk⟩ := State.armLead_frame { s.sliceSeen (c / 8) with regs := r } c
  exact ⟨r, k, by rw [hr, hk]⟩

theorem State.produced_late_regsKept (b : Nat) (e : (s.cl c).boundary = some b) (hb : stamp ≤ b) :
    s.regsKept (s.produced c lane stamp l) [TMG_UR_LOST c] := by
  intro a ha
  rw [s.produced_late c lane stamp l h b e hb, State.armLead_reg]
  exact State.countSat_reg_ne _ _ _ _ _ (by simpa using ha)

theorem State.produced_late_lost (b : Nat) (e : (s.cl c).boundary = some b) (hb : stamp ≤ b) :
    (s.produced c lane stamp l).fld (TMG_UR_LOST c) TMG_UR_LOST_LOST =
      satAdd TMG_UR_LOST_LOST.width (s.fld (TMG_UR_LOST c) TMG_UR_LOST_LOST) 1 := by
  have hr : ∀ t : State, (t.armLead c).fld (TMG_UR_LOST c) TMG_UR_LOST_LOST = t.fld (TMG_UR_LOST c) TMG_UR_LOST_LOST := fun t =>
    congrArg (fun w => getF w TMG_UR_LOST_LOST) (t.armLead_reg c _)
  rw [s.produced_late c lane stamp l h b e hb, hr]
  exact State.countSat_fld (s.sliceSeen (c / 8)) _ _ 1 (by decide) (by decide)

theorem State.produced_frame :
    ((s.produced c lane stamp l).rg (c / 8)).lastSlice = max s.gt (s.rg (c / 8)).lastSlice ∧
      s.produced c lane stamp l = { s with
        regs := (s.produced c lane stamp l).regs, clusters := (s.produced c lane stamp l).clusters,
        engines := (s.produced c lane stamp l).engines, regions := (s.produced c lane stamp l).regions } ∧
      s.regsKept (s.produced c lane stamp l) [TMG_UR_LOST c] ∧ ∀ k, k ≠ c → (s.produced c lane stamp l).cl k = s.cl k := by
  by_cases hb : ∀ b, (s.cl c).boundary = some b → b < stamp
  · obtain ⟨k, e, hk⟩ := s.produced_early_frame c lane stamp l h hb
    refine ⟨s.lastSlice_of_sliceSeen c _ (by rw [hk]), by rw [hk]; rfl, fun a _ => by rw [hk]; rfl, fun j hj => ?_⟩
    rw [s.produced_early c lane stamp l h hb, State.armLead_cl_ne _ _ _ hj, State.enterTenon_cl_ne _ _ _ _ _ hj]
    rfl
  · simp only [not_forall, Nat.not_lt] at hb
    obtain ⟨b, e, hb⟩ := hb
    obtain ⟨r, k, hk⟩ := s.produced_late_frame c lane stamp l h b e hb
    refine ⟨s.lastSlice_of_sliceSeen c _ (by rw [hk]), by rw [hk]; rfl,
      s.produced_late_regsKept c lane stamp l h b e hb, fun j hj => ?_⟩
    rw [s.produced_late c lane stamp l h b e hb, State.armLead_cl_ne _ _ _ hj, State.countSat_cl]
    rfl

end

/-! A value comes into force and changes no other value in force (R84, R139). -/

section

variable (s : State) (c b : Nat)

theorem State.adcDemand_inForce (k : Nat) : (s.adcDemand c).inForce k = s.inForce k := by
  unfold State.adcDemand State.sourceRequest State.raise
  split
  · split <;> simp
  · rfl

theorem State.setCode_inForce (u : Nat) (f : Fld) (code k : Nat) : (s.setCode c u b f code).inForce k = s.inForce k := by
  unfold State.setCode
  dsimp only
  split <;> simp

theorem State.forceEffect_inForce (a : Nat) (old w : Word) (k : Nat) : (s.forceEffect c b a old w).inForce k = s.inForce k := by
  unfold State.forceEffect
  split
  case h_1 => rfl
  case h_2 l _ =>
    by_cases hcmp : l.blk = 4 ∧ l.off < 0x100
    · rw [if_pos hcmp]
      dsimp only
      split
      · rw [State.setCode_inForce]
      · split
        · rw [State.setCode_inForce]
        · rfl
    rw [if_neg hcmp]
    by_cases hclp : l.blk = 5 ∧ l.off < 0x100
    · rw [if_pos hclp]
      dsimp only
      split
      · simp
      · split
        · simp
        · split <;> simp
    rw [if_neg hclp]
    split
    · rw [State.adcDemand_inForce]
      split <;> rfl
    split
    · simp
    split
    · refine foldl_obs _ (fun t => t.inForce k) (fun t e => ?_) _ s
      dsimp only
      split <;> rfl
    · rfl

theorem State.valueAct_inForce (m : PinMsg) (k : Nat) :
    (s.valueAct c b m).inForce k = (s.setForce m.addr m.value).inForce k := by
  unfold State.valueAct
  dsimp only
  split
  · rw [State.updPin_inForce, State.forceEffect_inForce]
  · rw [State.forceEffect_inForce]

theorem State.applyValues_inForce (m : PinMsg) (hc : isCommand c m.addr = false) (hp : m.addr ≠ PMU_PULSE_CMD c) :
    (s.applyValues c b [m]).inForce m.addr = m.value ∧
      ∀ k, k ≠ m.addr → (s.applyValues c b [m]).inForce k = s.inForce k := by
  have e : s.applyValues c b [m] = s.valueAct c b m := by
    have hf : [m].filter (fun m => !isCommand c m.addr && m.addr != PMU_PULSE_CMD c) = [m] := by simp [hc, hp]
    unfold State.applyValues
    rw [hf]
    rfl
  rw [e]
  exact ⟨(s.valueAct_inForce c b m _).trans (State.setForce_inForce ..), fun k hk =>
    (s.valueAct_inForce c b m k).trans (State.setForce_inForce_ne _ _ _ _ hk)⟩

end

end Sys2Proof.Machine
end

section
namespace Sys2Proof.Machine

/-! Tenons enter the Mortise in order and are taken at their boundary, or the cluster underruns. -/

theorem tmgLead_outside_hub (c : ClNo) : TMG_LEAD c.val < hubBlk 4 ∨ hubBlk 5 ≤ TMG_LEAD c.val := by
  have := c.isLt
  unfold TMG_LEAD clBlk hubBlk
  omega

/-! The tenon of a playing cluster (R62, R73, R74, R80). -/

section

variable {c : ClNo} {stamp : Nat} {slots : List CycleSlot} {l : List TenonSlot} {s : State}
  (hp : s.clPlaying c.val = true) (hf : s.formingIn c.val = none) (hcut : (s.cl c.val).cutEnd = none)
include hp hf hcut

theorem tenonProduced_frame (lane : Lane) (h : ∀ y ∈ slots, s.fillSlot c.val lane y ≠ none) :
    ∃ t, exec (.tenonProduced c lane stamp slots) s = .next t ∧
      (t.rg (c.val / 8)).lastSlice = max s.gt (s.rg (c.val / 8)).lastSlice ∧
      t = { s with regs := t.regs, clusters := t.clusters, engines := t.engines, regions := t.regions } ∧
      s.regsKept t [TMG_UR_LOST c.val] ∧ ∀ k, k ≠ c.val → t.cl k = s.cl k := by
  obtain ⟨l, hl⟩ := s.fillSlots_isSome c.val lane slots h
  exact ⟨_, exec_tenonProduced_some s c lane stamp slots l hp hf hl, s.produced_frame c.val lane stamp l hcut⟩

theorem tenonProduced_main (hl : s.fillSlots c.val .main slots = some l) (hb : ∀ b, (s.cl c.val).boundary = some b → b < stamp) :
    (hasEntry (s.cl c.val).mortise ⟨stamp, s.pathMask c.val .main l, l⟩ = true →
      ∃ t, exec (.tenonProduced c .main stamp slots) s = .next t ∧
        (t.cl c.val).mortise = addTenon (s.cl c.val).mortise ⟨stamp, s.pathMask c.val .main l, l⟩ ∧
        t = { s with clusters := t.clusters, engines := t.engines, regions := t.regions } ∧ ∀ k, k ≠ c.val → t.cl k = s.cl k) ∧
    (hasEntry (s.cl c.val).mortise ⟨stamp, s.pathMask c.val .main l, l⟩ = false →
      ∃ t, exec (.tenonProduced c .main stamp slots) s = .next t ∧ (t.cl c.val).mortise = (s.cl c.val).mortise) := by
  have hx := exec_tenonProduced_some s c .main stamp slots l hp hf hl
  have he := s.produced_early c.val .main stamp l hcut hb
  obtain ⟨-, -, -, hne⟩ := s.produced_frame c.val .main stamp l hcut
  refine ⟨fun hroom => ⟨_, hx, ?_, ?_, hne⟩, fun hfull => ⟨_, hx, ?_⟩⟩
  · rw [he, State.armLead_mortise]
    exact congrArg ClSt.mortise (State.enterTenon_main (s.sliceSeen (c.val / 8)) c.val _ hroom)
  · obtain ⟨k, e, hk⟩ := s.produced_early_frame c.val .main stamp l hcut hb
    rw [hk]
    rfl
  · rw [he, State.armLead_mortise]
    exact congrArg ClSt.mortise (State.enterTenon_full (s.sliceSeen (c.val / 8)) c.val .main _ hfull c.val)

theorem tenonProduced_shadow (hl : s.fillSlots c.val .shadow slots = some l)
    (hb : ∀ b, (s.cl c.val).boundary = some b → b < stamp)
    (hroom : hasEntry (s.cl c.val).shadow ⟨stamp, s.pathMask c.val .shadow l, l⟩ = true) :
    ∃ t, exec (.tenonProduced c .shadow stamp slots) s = .next t ∧ (t.cl c.val).mortise = (s.cl c.val).mortise ∧
      (t.cl c.val).shadow = addTenon (s.cl c.val).shadow ⟨stamp, s.pathMask c.val .shadow l, l⟩ := by
  have he := s.produced_early c.val .shadow stamp l hcut hb
  have henter := State.enterTenon_shadow (s.sliceSeen (c.val / 8)) c.val ⟨stamp, s.pathMask c.val .shadow l, l⟩ hroom
  refine ⟨_, exec_tenonProduced_some s c .shadow stamp slots l hp hf hl, ?_, ?_⟩
  · rw [he, State.armLead_mortise]
    exact (congrArg ClSt.mortise henter).trans rfl
  · rw [he, State.armLead_shadow]
    exact congrArg ClSt.shadow henter

theorem tenonProduced_late (lane : Lane) (b : Nat) (hl : s.fillSlots c.val lane slots = some l)
    (hb : (s.cl c.val).boundary = some b) (hlate : stamp ≤ b) :
    ∃ t, exec (.tenonProduced c lane stamp slots) s = .next t ∧ (t.cl c.val).mortise = (s.cl c.val).mortise ∧
      (t.cl c.val).shadow = (s.cl c.val).shadow ∧
      t.fld (TMG_UR_LOST c.val) TMG_UR_LOST_LOST = satAdd TMG_UR_LOST_LOST.width (s.fld (TMG_UR_LOST c.val) TMG_UR_LOST_LOST) 1 ∧
      s.regsKept t [TMG_UR_LOST c.val] := by
  have he := s.produced_late c.val lane stamp l hcut b hb hlate
  refine ⟨_, exec_tenonProduced_some s c lane stamp slots l hp hf hl, ?_, ?_,
    s.produced_late_lost c.val lane stamp l hcut b hb hlate, s.produced_late_regsKept c.val lane stamp l hcut b hb hlate⟩
  · rw [he, State.armLead_mortise, State.countSat_cl]
    rfl
  · rw [he, State.armLead_shadow, State.countSat_cl]
    rfl

end

/-! The boundary (R33, R71, R74, R79, R139). -/

section

variable (c : ClNo) (b : Nat) (finds : Finds) (s : State)

theorem exec_tenonBoundary (h : b % 64 = 0) (hb : ∀ x, (s.cl c.val).boundary = some x → x < b) :
    exec (.tenonBoundary c b finds) s = .next ((s.at b).boundary c.val b finds) := by
  change execTenonBoundary c b finds s = _
  unfold execTenonBoundary
  cases e : (s.cl c.val).boundary with
  | none => simp [h]
  | some x => simp [h, hb x e]

theorem exec_tenonBoundary_none (h : b % 64 ≠ 0 ∨ ∃ x, (s.cl c.val).boundary = some x ∧ b ≤ x) :
    exec (.tenonBoundary c b finds) s = .next s := by
  change execTenonBoundary c b finds s = _
  unfold execTenonBoundary
  dsimp only
  refine if_pos (h.imp_right ?_)
  rintro ⟨x, e, hx⟩
  rw [e]
  exact decide_eq_true hx

end

theorem State.boundary_reached (s : State) (c b : Nat) (finds : Finds) :
    ((s.boundary c b finds).cl c).boundary = some b ∧ (s.boundary c b finds).flash = s.flash := by
  obtain ⟨hflash, hcl⟩ := State.tick_eq_iff.mp (s.boundary_tick c b finds)
  refine ⟨(hcl c).trans (State.takeTenons_boundary ..), hflash.trans ((State.takeTenons_flash ..).trans ?_)⟩
  exact (State.tick_eq_iff.mp ((State.forceBoundary_tick ..).trans (s.dropDue_tick c b))).1

/-- A boundary in which no engine plays: the tenon stamped for it is taken and older ones are gone (R74). -/
theorem State.takeTenons_idle (s : State) (c b : Nat) (h : ∀ e ∈ clEngines c, s.playsIn e b = false) :
    ∃ l, l = addTenons (s.cl c).mortise (s.cl c).waitTenons ∧
      ((s.takeTenons c b).cl c).boundary = some b ∧ ((s.takeTenons c b).cl c).curMain = l.1.find? (fun x => x.stamp == b) ∧
      ((s.takeTenons c b).cl c).mortise = l.1.filter (fun x => decide (b < x.stamp)) ∧
      ((s.takeTenons c b).cl c).missing = false ∧
      s.takeTenons c b = { s with clusters := (s.takeTenons c b).clusters } := by
  have e : (s.takeTenons c b).cl c = { (s.taken c b).cl c with missing := false, missed := [] } := by
    rw [s.takeTenons_of_idle c b h, State.updCl_cl]
  refine ⟨_, rfl, s.takeTenons_boundary c b, ?_, ?_, ?_, ?_⟩
  · rw [e, State.taken_cl]
    rfl
  · rw [e, State.taken_cl]
    rfl
  · rw [e]
  · rw [s.takeTenons_of_idle c b h]
    rfl

/-- Settles O19: what enters an array by the rules of a tenon's way in; what a boundary does by the one equation of `State.boundary`, by
the frame of its operations (`State.boundary_tick`) and by the take (`State.takeTenons_idle`, `State.takeTenons_of_gone`). -/
theorem tenonsEnterAndLeaveTheMortise : Obligations.TenonsEnterAndLeaveTheMortise := by
  unfold Obligations.TenonsEnterAndLeaveTheMortise
  refine ⟨fun c stamp slots l s hp hf hcut => ⟨fun lane h => tenonProduced_frame hp hf hcut lane h,
    fun hl hb => tenonProduced_main hp hf hcut hl hb, fun hl hb hroom => tenonProduced_shadow hp hf hcut hl hb hroom,
    fun b lane hl hb hlate => tenonProduced_late hp hf hcut lane b hl hb hlate,
    fun lane h => exec_tenonProduced_none s c lane stamp slots h⟩,
    fun c b finds s => ⟨fun hgrain hnew => ?_, exec_tenonBoundary_none c b finds s⟩⟩
  have hexec := exec_tenonBoundary c b finds s hgrain hnew
  obtain ⟨hbound, hflash⟩ := (s.at b).boundary_reached c.val b finds
  refine ⟨⟨_, hexec, hbound, hflash⟩, _, _, _, rfl, rfl, rfl, hexec, ?_, ?_, ?_⟩
  · intro m hm hcmd hpulse u
    rw [hm]
    exact u.applyValues_inForce c.val b m hcmd hpulse
  · exact State.takeTenons_idle _ c.val b
  · intro e he hplays hpend hlane hlack
    exact State.takeTenons_of_gone _ c.val b e he hplays (State.tenonGone_of_lacks _ c.val b e he hplays hpend hlane hlack)
      (tmgLead_outside_hub c)

end Sys2Proof.Machine
end
section
namespace Sys2Proof.Machine

/-! Which registers a write of one field leaves. -/

theorem State.regsKept_trans {s t u : State} {l : List Nat} (h : s.regsKept t l) (k : t.regsKept u l) : s.regsKept u l :=
  fun a ha => (k a ha).trans (h a ha)

theorem State.setFld_regsKept (s : State) {a : Nat} (f : Fld) (v : Nat) {l : List Nat} (h : a ∈ l) : s.regsKept (s.setFld a f v) l :=
  fun m hm => s.setFld_reg_ne a f v m fun e => hm (e ▸ h)

/-! The timebase locks (R66, R70). -/

/-- What the lock of the timebase is told to leave, and the register that shows it. -/
def State.lockView (s : State) : Nat × Tbl Byte × Tbl Byte × (Nat → EngSt) × Word := (s.gt, s.flash, s.mem, s.eng, s.reg SYS_REF_CTRL)

section

variable (s : State)

theorem State.setReg_lockView (a : Nat) (w : Word) (h : a ≠ SYS_REF_CTRL) : (s.setReg a w).lockView = s.lockView := by
  unfold State.lockView
  rw [s.setReg_reg_ne a w _ h.symm]
  rfl

theorem State.setBit_lockView (a : Nat) (f : Fld) (b : Bool) (h : a ≠ SYS_REF_CTRL) : (s.setBit a f b).lockView = s.lockView :=
  s.setReg_lockView a _ h

theorem calCtrl_ne_of_low {a : Nat} (c : Nat) (ha : a % 0x1000000 < 0x100000) : CAL_CTRL c ≠ a := by
  unfold CAL_CTRL clBlk
  omega

theorem modReq_ne_of_low {a : Nat} (c : Nat) (ha : a % 0x1000000 < 0x100000) : MOD_REQ c ≠ a := by
  unfold MOD_REQ clBlk
  omega

theorem State.updHub_lockView (f : HubSt → HubSt) : (s.updHub f).lockView = s.lockView := by rfl
theorem State.updBoot_lockView (f : BootSt → BootSt) : (s.updBoot f).lockView = s.lockView := by rfl
theorem State.updCl_lockView (c : Nat) (f : ClSt → ClSt) : (s.updCl c f).lockView = s.lockView := by rfl

theorem State.setForce_lockView (a : Nat) (w : Word) : (s.setForce a w).lockView = s.lockView := by rfl
theorem State.withInFlight_lockView (l : List PinMsg) : ({ s with inFlight := l } : State).lockView = s.lockView := by rfl

theorem State.modReqNow_lockView (c w : Nat) : (s.modReqNow c w).lockView = s.lockView := by
  unfold State.modReqNow State.setBoth
  rw [State.setForce_lockView, State.setReg_lockView _ _ _ (modReq_ne_of_low c (by decide)), State.withInFlight_lockView]

theorem State.bootCalibrate_lockView : s.bootCalibrate.lockView = s.lockView := by
  unfold State.bootCalibrate
  dsimp only
  rw [State.updBoot_lockView]
  refine foldl_obs _ State.lockView (fun t c => ?_) _ s
  have hc : CAL_CTRL c ≠ SYS_REF_CTRL := calCtrl_ne_of_low c (by decide)
  rw [State.setBit_lockView _ _ _ _ hc, State.setBit_lockView _ _ _ _ hc, State.modReqNow_lockView, State.updCl_lockView]

theorem State.failoverDone_lockView : s.failoverDone.lockView = s.lockView := by
  unfold State.failoverDone
  dsimp only
  rw [State.updHub_lockView, State.setBit_lockView _ _ _ _ (by decide)]

theorem State.firstLock_gt : s.firstLock.gt = if s.hub.gtCleared then s.gt else 0 := by
  unfold State.firstLock
  split <;> rfl

theorem State.firstLock_frame : s.firstLock.flash = s.flash ∧ s.firstLock.mem = s.mem ∧ s.firstLock.eng = s.eng := by
  unfold State.firstLock
  split <;> exact ⟨rfl, rfl, rfl⟩

end

section

variable (g : Nat) (s : State)

/-- What follows the lock itself leaves LOCKED, GT, the flash, memory and the engines. -/
theorem exec_timebaseLock (hl : s.bit SYS_REF_CTRL SYS_REF_CTRL_LOCKED = false) (h5 : 5 ≤ s.boot.phase) (h8 : s.boot.phase ≤ 8) :
    ∃ t, exec (.timebaseLock g) s = .next t ∧ t.lockView = ((s.at g).firstLock.setBit SYS_REF_CTRL SYS_REF_CTRL_LOCKED true).lockView := by
  have hexec : exec (.timebaseLock g) s = execTimebaseLock g s := rfl
  rw [hexec, execTimebaseLock, if_pos ⟨hl, h5, h8⟩]
  extract_lets t0 t1 t2 t3
  have h2 : t2.lockView = t1.lockView := by
    dsimp only [t2]
    split
    · exact t1.bootCalibrate_lockView
    · rfl
  have h3 : t3.lockView = t2.lockView := by
    dsimp only [t3]
    split
    · rw [State.setBit_lockView _ _ _ _ (by decide), State.setBit_lockView _ _ _ _ (by decide)]
    · rfl
  refine ⟨_, rfl, Eq.trans ?_ (h3.trans h2)⟩
  split
  · exact t3.failoverDone_lockView
  · rfl

theorem timebaseLock_locks (hl : s.bit SYS_REF_CTRL SYS_REF_CTRL_LOCKED = false) (h5 : 5 ≤ s.boot.phase) (h8 : s.boot.phase ≤ 8) :
    ∃ t, exec (.timebaseLock g) s = .next t ∧ t.bit SYS_REF_CTRL SYS_REF_CTRL_LOCKED = true ∧
      (s.hub.gtCleared = false → t.gt = 0) ∧ (s.hub.gtCleared = true → t.gt = max s.gt g) ∧
      t.flash = s.flash ∧ t.mem = s.mem ∧ ∀ e, t.eng e = s.eng e := by
  obtain ⟨t, hexec, hview⟩ := exec_timebaseLock g s hl h5 h8
  simp only [State.lockView, Prod.mk.injEq] at hview
  obtain ⟨hgt, hflash, hmem, heng, hreg⟩ := hview
  rw [State.setBit_gt, State.firstLock_gt] at hgt
  rw [State.setBit_flash] at hflash
  rw [State.setBit_mem] at hmem
  obtain ⟨kflash, kmem, keng⟩ := (s.at g).firstLock_frame
  refine ⟨t, hexec, ?_, fun h => ?_, fun h => ?_, hflash.trans kflash, hmem.trans kmem, fun e => ?_⟩
  · unfold State.bit State.fld
    rw [hreg]
    exact State.setBit_bit (s.at g).firstLock SYS_REF_CTRL SYS_REF_CTRL_LOCKED true (by decide) (by decide)
  · rw [hgt, State.at_hub, h]
    rfl
  · rw [hgt, State.at_hub, h]
    rfl
  · rw [heng, State.setBit_eng, keng, State.at_eng]

/-! Holdover (R67-R69). -/

theorem holdoverEntry_holds (hl : s.bit SYS_REF_CTRL SYS_REF_CTRL_LOCKED = true) (hh : s.bit SYS_REF_CTRL SYS_REF_CTRL_HOLDOVER = false) :
    ∃ t, exec (.holdoverEntry g) s = .next t ∧ t.bit SYS_REF_CTRL SYS_REF_CTRL_HOLDOVER = true ∧
      t.bit SYS_REF_CTRL SYS_REF_CTRL_LOCKED = true ∧ t.hub = { s.hub with holdSince := some g } ∧ t.runs = s.runs ∧
      s.pinsKept t := by
  have hexec : exec (.holdoverEntry g) s = execHoldoverEntry g s := rfl
  have hout : SYS_REF_CTRL < hubBlk 4 ∨ hubBlk 5 ≤ SYS_REF_CTRL := .inl (by decide)
  rw [hexec, execHoldoverEntry, if_pos ⟨hl, hh⟩]
  refine ⟨_, rfl, ?_, ?_, State.event_hub .., State.event_runs .., State.pinsKept_of_pinView (State.event_pinView ..)⟩
  · exact (State.event_bit _ _ _ _ _ _ _ _ hout).trans (State.setBit_bit (s.at g) SYS_REF_CTRL SYS_REF_CTRL_HOLDOVER true (by decide) (by decide))
  · exact (State.event_bit _ _ _ _ _ _ _ _ hout).trans
      ((State.setBit_bit_apart (s.at g) SYS_REF_CTRL SYS_REF_CTRL_HOLDOVER SYS_REF_CTRL_LOCKED true (by decide)).trans hl)

theorem holdoverTimeout_ends (hh : s.bit SYS_REF_CTRL SYS_REF_CTRL_HOLDOVER = true) (hg : 67108864 ≤ g)
    (hs : s.hub.holdSince = some (g - 67108864)) :
    ∃ t u : State, exec (.holdoverTimeout g) s = .next t ∧ t = u.endRunsIf codeRefSuspect (some g) (fun _ => true) ∧ u.runs = s.runs ∧
      (∀ p, p < 1024 → (t.pin p).held = true) ∧ t.hub = { s.hub with holdSafe := true } ∧
      t = { s with gt := t.gt, hub := t.hub, pins := t.pins, runs := t.runs } := by
  have hexec : exec (.holdoverTimeout g) s = execHoldoverTimeout g s := rfl
  rw [hexec, execHoldoverTimeout, if_pos ⟨hh, hs, hg⟩]
  extract_lets t0 t1
  refine ⟨_, t1.holdAll, rfl, rfl, t1.holdAll_runs, fun p hp => ?_, ?_, ?_⟩
  · rw [State.endRunsIf_pin]
    exact t1.holdAll_held p hp
  · rw [State.endRunsIf_hub, State.holdAll_hub]
    rfl
  · obtain ⟨r, hr⟩ := t1.holdAll.endRunsIf_frame codeRefSuspect (some g) (fun _ => true)
    obtain ⟨x, hx⟩ := t1.holdAll_frame
    rw [hr, hx]
    rfl

theorem State.endHoldover_reg (t : State) (a : Nat) :
    t.endHoldover.reg a = (t.setBit SYS_REF_CTRL SYS_REF_CTRL_HOLDOVER false).reg a := State.updHub_reg ..

theorem State.endHoldover_bit (t : State) : t.endHoldover.bit SYS_REF_CTRL SYS_REF_CTRL_HOLDOVER = false := by
  unfold State.bit State.fld
  rw [t.endHoldover_reg]
  exact t.setBit_bit SYS_REF_CTRL SYS_REF_CTRL_HOLDOVER false (by decide) (by decide)

theorem State.endHoldover_regsKept (t : State) : t.regsKept t.endHoldover [SYS_REF_CTRL] := by
  intro a ha
  rw [t.endHoldover_reg]
  exact t.setFld_regsKept SYS_REF_CTRL_HOLDOVER 0 (List.mem_singleton_self _) a ha

theorem refReturn_slews (e : Int) (hh : s.bit SYS_REF_CTRL SYS_REF_CTRL_HOLDOVER = true) :
    ∃ t, exec (.refReturn g e) s = .next t ∧ t.hub.phaseErr = e ∧ t.hub.slewing = decide (e ≠ 0) ∧
      t.bit SYS_REF_CTRL SYS_REF_CTRL_HOLDOVER = decide (e ≠ 0) ∧ (e ≠ 0 → t.hub.slewAt = g + 64) ∧
      t = { s with gt := max s.gt g, regs := t.regs, hub := t.hub } ∧ s.regsKept t [SYS_REF_CTRL] := by
  have hexec : exec (.refReturn g e) s = execRefReturn g e s := rfl
  rw [hexec, execRefReturn, if_pos hh]
  by_cases he : e = 0
  · subst he
    exact ⟨_, if_pos rfl, rfl, rfl, (s.at g).endHoldover_bit, fun h => absurd rfl h, rfl, (s.at g).endHoldover_regsKept⟩
  · exact ⟨_, if_neg he, rfl, (decide_eq_true he).symm, hh.trans (decide_eq_true he).symm, fun _ => rfl, rfl, fun _ _ => rfl⟩

/-! Steps of the phase (R68, R480). -/

theorem slewed_natAbs {x : Int} (h : x ≠ 0) : (slewed x).natAbs + 1 = x.natAbs := by
  unfold slewed
  split <;> omega

theorem phaseSlewStep_slews (hs : s.hub.slewing = true) (he : s.hub.phaseErr ≠ 0) (hg : s.hub.slewAt ≤ g)
    (hh : s.bit SYS_REF_CTRL SYS_REF_CTRL_HOLDOVER = true) :
    ∃ t, exec (.phaseSlewStep g) s = .next t ∧ t.hub.phaseErr.natAbs + 1 = s.hub.phaseErr.natAbs ∧ t.hub.slewAt = g + 64 ∧
      t.hub.slewing = decide (t.hub.phaseErr ≠ 0) ∧ t.bit SYS_REF_CTRL SYS_REF_CTRL_HOLDOVER = decide (t.hub.phaseErr ≠ 0) ∧
      t = { s with gt := max s.gt g, regs := t.regs, hub := t.hub } ∧ s.regsKept t [SYS_REF_CTRL] := by
  have hexec : exec (.phaseSlewStep g) s = execPhaseSlewStep g s := rfl
  have hn := slewed_natAbs he
  rw [hexec, execPhaseSlewStep, if_pos ⟨by rw [hs]; rfl, he, hg⟩]
  extract_lets e t0 t1 u
  by_cases h0 : e = 0
  · refine ⟨u.endHoldover, ?_, ?_, rfl, rfl, u.endHoldover_bit, rfl, u.endHoldover_regsKept⟩
    · have ht : t1.hub.slewing = true := hs
      rw [if_neg (not_not.mpr h0), if_pos ht]
    · rw [← hn]
      exact congrArg (fun x : Int => x.natAbs + 1) h0.symm
  · exact ⟨t1, if_pos h0, hn, rfl, hs.trans (decide_eq_true h0).symm, hh.trans (decide_eq_true h0).symm, rfl, fun _ _ => rfl⟩

theorem phaseSlewStep_aligns (hs : s.hub.slewing = false) (ha : s.hub.aligning = true) (he : s.hub.phaseErr ≠ 0) (hg : s.hub.slewAt ≤ g) :
    ∃ t, exec (.phaseSlewStep g) s = .next t ∧ t.hub.phaseErr.natAbs + 1 = s.hub.phaseErr.natAbs ∧ t.hub.slewAt = g + 64 ∧
      t.hub.aligning = decide (t.hub.phaseErr ≠ 0) ∧ t = { s with gt := max s.gt g, hub := t.hub } := by
  have hexec : exec (.phaseSlewStep g) s = execPhaseSlewStep g s := rfl
  have hn := slewed_natAbs he
  rw [hexec, execPhaseSlewStep, if_pos ⟨by rw [hs, ha]; rfl, he, hg⟩]
  extract_lets e t0 t1 u
  by_cases h0 : e = 0
  · refine ⟨u, ?_, hn, rfl, ?_, rfl⟩
    · have ht : t1.hub.slewing = false := hs
      rw [if_neg (not_not.mpr h0), ht]
      rfl
    · exact (decide_eq_false (not_not.mpr h0)).symm
  · exact ⟨t1, if_pos h0, hn, rfl, ha.trans (decide_eq_true h0).symm, rfl⟩

end

/-- Settles O11, a lemma for each event of the timebase. -/
theorem theTimebaseLocksHoldsOverAndSlews : Obligations.TheTimebaseLocksHoldsOverAndSlews := by
  unfold Obligations.TheTimebaseLocksHoldsOverAndSlews
  exact ⟨fun g s => ⟨timebaseLock_locks g s, holdoverEntry_holds g s, holdoverTimeout_ends g s⟩,
    fun g e s => ⟨refReturn_slews g s e, phaseSlewStep_slews g s, phaseSlewStep_aligns g s⟩⟩

end Sys2Proof.Machine
end
section
namespace Sys2Proof.Machine

/-! A switch of the reference (R66) and what it leaves. -/

theorem State.fld_of_reg {s t : State} {a : Nat} (f : Fld) (h : t.reg a = s.reg a) : t.fld a f = s.fld a f := congrArg (getF · f) h

theorem State.bit_of_reg {s t : State} {a : Nat} (f : Fld) (h : t.reg a = s.reg a) : t.bit a f = s.bit a f :=
  congrArg (· == 1) (State.fld_of_reg f h)

section

variable (s : State)

@[simp] theorem State.violation_pinView (cause port pkg inst addr : Nat) : (s.violation cause port pkg inst addr).pinView = s.pinView := by
  unfold State.violation
  simp only [State.event_pinView, State.setReg_pinView, State.setPair_pinView]
  split
  · rw [State.countSat_pinView, State.setReg_pinView]
  · rfl

theorem State.refSwitch_reg {a : Nat} (ha : a ≠ VYN_SYS_STAT) :
    s.refSwitch.reg a = (s.endHoldover.setBit SYS_REF_CTRL SYS_REF_CTRL_LOCKED false).reg a := by
  unfold State.refSwitch
  dsimp only
  rw [State.holdAll_reg]
  split
  · rw [State.updHub_reg]
  · rw [State.setBit_reg_ne _ _ _ _ _ ha, State.updHub_reg]

theorem State.refSwitch_regsKept : s.regsKept s.refSwitch [SYS_REF_CTRL, VYN_SYS_STAT] := by
  intro a ha
  obtain ⟨hr, hv⟩ : a ≠ SYS_REF_CTRL ∧ a ≠ VYN_SYS_STAT := by simpa using ha
  rw [s.refSwitch_reg hv, State.setBit_reg_ne _ _ _ _ _ hr, State.endHoldover_reg, State.setBit_reg_ne _ _ _ _ _ hr]

theorem State.refSwitch_locked : s.refSwitch.bit SYS_REF_CTRL SYS_REF_CTRL_LOCKED = false := by
  rw [State.bit_of_reg _ (s.refSwitch_reg (by decide)), State.setBit_bit _ _ _ _ (by decide) (by decide)]

theorem State.refSwitch_holdover : s.refSwitch.bit SYS_REF_CTRL SYS_REF_CTRL_HOLDOVER = false := by
  rw [State.bit_of_reg _ (s.refSwitch_reg (by decide)), State.setBit_bit_apart _ _ _ _ _ (by decide), State.endHoldover_bit]

theorem State.refSwitch_tsel : s.refSwitch.fld SYS_REF_CTRL SYS_REF_CTRL_TSEL = s.fld SYS_REF_CTRL SYS_REF_CTRL_TSEL := by
  rw [State.fld_of_reg _ (s.refSwitch_reg (by decide)), State.setBit_fld_apart _ _ _ _ _ (by decide),
    State.fld_of_reg _ (s.endHoldover_reg _), State.setBit_fld_apart _ _ _ _ _ (by decide)]

theorem State.refSwitch_held {p : Nat} (hp : p < 1024) : (s.refSwitch.pin p).held = true := State.holdAll_held _ p hp

/-! A partner's write of SYS_REF_CTRL (R65). -/

theorem State.anyBusyMode_iff : s.anyBusyMode = true ↔ ∃ c, c < 64 ∧ s.active c &&& 23 ≠ 0 := by
  simp [State.anyBusyMode]

theorem State.partnerWrite_regsKept (a : Nat) (v : Word) (be : BitVec 4) : s.regsKept (s.partnerWrite a v be) [a] := by
  intro m hm
  unfold State.partnerWrite
  split
  · rfl
  · exact State.setReg_reg_ne _ _ _ _ (by simpa using hm)

end

section

variable (port : PortNo) (v : Word) (be : BitVec 4) (s : State)

theorem exec_refCtrlWrite (hr : s.reaches SYS_REF_CTRL) : exec (.refCtrlWrite port v be) s = .next (s.refCtrl port.val v be) :=
  congrArg Host.Outcome.next (s.reach_open port.val SYS_REF_CTRL (fun s => s.refCtrl port.val v be) hr.1 hr.2)

theorem refCtrlWrite_unchanged (hr : s.reaches SYS_REF_CTRL) (h : (s.partnerWrite SYS_REF_CTRL v be).reg SYS_REF_CTRL = s.reg SYS_REF_CTRL) :
    exec (.refCtrlWrite port v be) s = .next s := by
  rw [exec_refCtrlWrite port v be s hr]
  exact congrArg Host.Outcome.next (if_pos h)

theorem refCtrlWrite_busy (hr : s.reaches SYS_REF_CTRL) (h : (s.partnerWrite SYS_REF_CTRL v be).reg SYS_REF_CTRL ≠ s.reg SYS_REF_CTRL)
    (hb : ∃ c, c < 64 ∧ s.active c &&& 23 ≠ 0) : ∃ t, exec (.refCtrlWrite port v be) s = .next t ∧
      t.reg SYS_REF_CTRL = s.reg SYS_REF_CTRL ∧ t.hub = s.hub ∧ t.runs = s.runs ∧ s.pinsKept t := by
  rw [exec_refCtrlWrite port v be s hr]
  have he : s.refCtrl port.val v be = s.violation 0x01 port.val 0 0 SYS_REF_CTRL := by
    unfold State.refCtrl
    dsimp only
    rw [if_neg h, if_pos (s.anyBusyMode_iff.mpr hb)]
  rw [he]
  exact ⟨_, rfl, s.violation_reg _ _ _ _ _ _ (.inl (by decide)), s.violation_hub .., s.violation_runs ..,
    State.pinsKept_of_pinView (s.violation_pinView ..)⟩

theorem refCtrlWrite_switches (hr : s.reaches SYS_REF_CTRL) (h : (s.partnerWrite SYS_REF_CTRL v be).reg SYS_REF_CTRL ≠ s.reg SYS_REF_CTRL)
    (hb : ∀ c, c < 64 → s.active c &&& 23 = 0) : ∃ t, exec (.refCtrlWrite port v be) s = .next t ∧
      t.bit SYS_REF_CTRL SYS_REF_CTRL_LOCKED = false ∧ t.bit SYS_REF_CTRL SYS_REF_CTRL_HOLDOVER = false ∧
      t.fld SYS_REF_CTRL SYS_REF_CTRL_TSEL = (s.partnerWrite SYS_REF_CTRL v be).fld SYS_REF_CTRL SYS_REF_CTRL_TSEL ∧
      (∀ p, p < 1024 → (t.pin p).held = true) ∧ s.regsKept t [SYS_REF_CTRL, VYN_SYS_STAT] := by
  rw [exec_refCtrlWrite port v be s hr]
  have hidle : ¬ s.anyBusyMode = true := fun k => by
    obtain ⟨c, hc, hne⟩ := s.anyBusyMode_iff.mp k
    exact hne (hb c hc)
  have he : s.refCtrl port.val v be = (s.partnerWrite SYS_REF_CTRL v be).refSwitch := by
    unfold State.refCtrl
    dsimp only
    rw [if_neg h, if_neg hidle]
  rw [he]
  refine ⟨_, rfl, State.refSwitch_locked _, State.refSwitch_holdover _, State.refSwitch_tsel _, fun p hp => State.refSwitch_held _ hp,
    State.regsKept_trans (fun a ha => s.partnerWrite_regsKept SYS_REF_CTRL v be a ?_) (State.refSwitch_regsKept _)⟩
  exact fun hm => ha (List.mem_cons.mpr (.inl (List.mem_singleton.mp hm)))

end

/-! A timing failover (R329, R479). -/

section

variable (s : State)

/-- Every cluster is asked for a calibration of a kind. -/
def State.calRequests (s : State) (kind : CalKind) : State := (List.range 64).foldl (fun t c => t.calRequest c kind) s

theorem State.calRequests_reg (kind : CalKind) {a : Nat} (ha : a % 0x1000000 < 0x100000) : (s.calRequests kind).reg a = s.reg a :=
  foldl_obs _ (fun t => t.reg a) (fun t c => t.setBit_reg_ne _ _ _ a (calCtrl_ne_of_low c ha).symm) _ s

theorem State.calRequests_frame (kind : CalKind) : ∃ r, s.calRequests kind = { s with regs := r } := by
  refine foldl_holds (P := fun t => ∃ r, t = { s with regs := r }) (fun t c ht => ?_) _ s ⟨_, rfl⟩
  obtain ⟨r, rfl⟩ := ht
  exact ⟨_, rfl⟩

theorem calCtrl_inj {c d : Nat} (h : CAL_CTRL c = CAL_CTRL d) : c = d := by
  unfold CAL_CTRL clBlk at h
  omega

theorem reqFld_bit (kind : CalKind) : (reqFld kind).lo = (reqFld kind).hi ∧ (reqFld kind).hi < 32 := by
  cases kind <;> decide

theorem State.calRequest_bit (c : Nat) (kind : CalKind) : (s.calRequest c kind).bit (CAL_CTRL c) (reqFld kind) = true := by
  rw [State.calRequest, State.setBit_bit _ _ _ _ (reqFld_bit kind).1 (reqFld_bit kind).2]

theorem State.calRequest_bit_ne {c d : Nat} (kind : CalKind) (f : Fld) (h : d ≠ c) :
    (s.calRequest d kind).bit (CAL_CTRL c) f = s.bit (CAL_CTRL c) f := by
  rw [State.calRequest, State.setBit_bit_ne _ _ _ _ _ _ fun e => h (calCtrl_inj e).symm]

theorem State.calRequests_bit (kind : CalKind) {c : Nat} (hc : c < 64) : (s.calRequests kind).bit (CAL_CTRL c) (reqFld kind) = true :=
  foldl_set (fun t d => t.calRequest d kind) (fun t => t.bit (CAL_CTRL c) (reqFld kind)) c true (fun t => t.calRequest_bit c kind)
    (fun t _ hd => t.calRequest_bit_ne kind _ hd) _ s (List.mem_range.mpr hc)

theorem State.calRequests_pin (kind : CalKind) (p : Nat) : (s.calRequests kind).pin p = s.pin p := by
  obtain ⟨r, hr⟩ := s.calRequests_frame kind
  rw [hr]
  rfl

theorem State.event_held (code src unit arg value p : Nat) : ((s.event code src unit arg value).pin p).held = (s.pin p).held :=
  have h : (s.event code src unit arg value).pinView p = s.pinView p := congrFun (s.event_pinView code src unit arg value) p
  (congrArg PinSt.held h :)

theorem State.send_if (b : Bool) (o : Output) : (if b then s.send o else s).reg = s.reg ∧ (if b then s.send o else s).pin = s.pin ∧
    (if b then s.send o else s).hub = s.hub := by
  cases b <;> exact ⟨rfl, rfl, rfl⟩

theorem otherRef_tsel : otherRef s.tsel % 2 ^ SYS_REF_CTRL_TSEL.width = otherRef s.tsel :=
  Nat.mod_eq_of_lt (Nat.lt_succ_of_le (Nat.sub_le 1 _))

/-- The reference has been switched and every cluster asked for a timing calibration. -/
def State.failedOver (s : State) (g : Nat) : State :=
  ((((((s.at g).setFld SYS_REF_CTRL SYS_REF_CTRL_TSEL (otherRef s.tsel)).refSwitch).setBit CAL_REF_STAT CAL_REF_STAT_FAILOVER_T
    true).refSuspect s.tsel 0 3).calRequests .timing).updHub (fun h => { h with failoverPending := false, failoverT := true })

variable (g : Nat) (othersIdle : Bool)

theorem timingFailover_waits (ho : othersIdle = false) (hl : s.leadsDomain = true) : exec (.timingFailover g othersIdle) s = .next s := by
  have hexec : exec (.timingFailover g othersIdle) s = execTimingFailover g othersIdle s := rfl
  rw [hexec, execTimingFailover, if_neg]
  rintro ⟨-, -, -, -, h | h⟩
  · rw [ho] at h
    cases h
  · rw [hl] at h
    cases h

theorem exec_timingFailover (hp : s.hub.failoverPending = true) (hg : g % 64 = 0) (hr : s.runs = [])
    (hi : ∀ c, c < 64 → (s.cl c).gauge.interruption = none) (ho : othersIdle = true ∨ s.leadsDomain = false) :
    ∃ t, exec (.timingFailover g othersIdle) s = .next t ∧ t.reg = (s.failedOver g).reg ∧ t.pin = (s.failedOver g).pin ∧
      t.hub = (s.failedOver g).hub := by
  have hexec : exec (.timingFailover g othersIdle) s = execTimingFailover g othersIdle s := rfl
  have hint : ((List.range 64).all fun c => !s.interrupted c) = true := by
    rw [List.all_eq_true]
    intro c hc
    unfold State.interrupted
    rw [hi c (List.mem_range.mp hc)]
    rfl
  rw [hexec, execTimingFailover, if_pos ⟨hp, hg, hr, hint, ho⟩]
  exact ⟨_, rfl, (s.failedOver g).send_if s.leadsDomain _⟩

/-- A register of the hub's first blocks after a failover. -/
theorem State.failedOver_reg {a : Nat} (ha : a % 0x1000000 < 0x100000) (hp : a < hubBlk 4 ∨ hubBlk 5 ≤ a) : (s.failedOver g).reg a =
    (((s.at g).setFld SYS_REF_CTRL SYS_REF_CTRL_TSEL (otherRef s.tsel)).refSwitch.setBit CAL_REF_STAT CAL_REF_STAT_FAILOVER_T true).reg a := by
  unfold State.failedOver State.refSuspect
  rw [State.updHub_reg, State.calRequests_reg _ _ ha, State.event_reg _ _ _ _ _ _ _ hp]

theorem State.failedOver_held {p : Nat} (hp : p < 1024) : ((s.failedOver g).pin p).held = true := by
  unfold State.failedOver State.refSuspect
  rw [State.updHub_pin, State.calRequests_pin, State.event_held, State.setBit_pin]
  exact State.refSwitch_held _ hp

theorem State.failedOver_req {c : Nat} (hc : c < 64) : (s.failedOver g).bit (CAL_CTRL c) CAL_CTRL_REQ_T = true := by
  unfold State.failedOver
  rw [State.updHub_bit]
  exact State.calRequests_bit _ .timing hc

theorem timingFailover_switches (hp : s.hub.failoverPending = true) (hg : g % 64 = 0) (hr : s.runs = [])
    (hi : ∀ c, c < 64 → (s.cl c).gauge.interruption = none) (ho : othersIdle = true ∨ s.leadsDomain = false) :
    ∃ t, exec (.timingFailover g othersIdle) s = .next t ∧
      t.fld SYS_REF_CTRL SYS_REF_CTRL_TSEL = otherRef (s.fld SYS_REF_CTRL SYS_REF_CTRL_TSEL) ∧
      t.bit SYS_REF_CTRL SYS_REF_CTRL_LOCKED = false ∧ t.bit CAL_REF_STAT CAL_REF_STAT_FAILOVER_T = true ∧
      (∀ c, c < 64 → t.bit (CAL_CTRL c) CAL_CTRL_REQ_T = true) ∧ (∀ p, p < 1024 → (t.pin p).held = true) ∧
      t.hub.failoverPending = false ∧ t.hub.failoverT = true := by
  obtain ⟨t, hexec, hreg, hpin, hhub⟩ := exec_timingFailover s g othersIdle hp hg hr hi ho
  have hout : ∀ a, t.reg a = (s.failedOver g).reg a := congrFun hreg
  have hctrl : t.reg SYS_REF_CTRL = ((s.at g).setFld SYS_REF_CTRL SYS_REF_CTRL_TSEL (otherRef s.tsel)).refSwitch.reg SYS_REF_CTRL := by
    rw [hout, s.failedOver_reg g (by decide) (.inl (by decide)), State.setBit_reg_ne _ _ _ _ _ (by decide)]
  refine ⟨t, hexec, ?_, ?_, ?_, fun c hc => ?_, fun p hp => ?_, ?_, ?_⟩
  · rw [State.fld_of_reg _ hctrl, State.refSwitch_tsel, State.setFld_fld _ _ _ _ (by decide) (by decide), otherRef_tsel]
    rfl
  · rw [State.bit_of_reg _ hctrl, State.refSwitch_locked]
  · rw [State.bit_of_reg _ (hout _), State.bit_of_reg _ (s.failedOver_reg g (by decide) (.inr (by decide))),
      State.setBit_bit _ _ _ _ (by decide) (by decide)]
  · rw [State.bit_of_reg _ (hout _), s.failedOver_req g hc]
  · rw [hpin, s.failedOver_held g hp]
  · rw [hhub]
    rfl
  · rw [hhub]
    rfl

end

/-- Settles O12: a write of SYS_REF_CTRL and a failover are `State.refSwitch` where they act. -/
theorem referenceSwitchesHoldThePins : Obligations.ReferenceSwitchesHoldThePins := by
  unfold Obligations.ReferenceSwitchesHoldThePins
  exact fun port v be g othersIdle s => ⟨fun hr h => ⟨refCtrlWrite_busy port v be s hr h, refCtrlWrite_switches port v be s hr h⟩,
    refCtrlWrite_unchanged port v be s, timingFailover_waits s g othersIdle, timingFailover_switches s g othersIdle⟩

end Sys2Proof.Machine
end
section
namespace Sys2Proof.Machine

/-! Pairs of registers and the core voltage (R72, R506, R507). -/

theorem gtLoRead_pair (port : PortNo) (addr hi : Nat) (s : State) (hp : pairHi addr = some hi) (hf : s.fencedAt addr = false) :
    ∃ t, exec (.gtLoRead port addr) s = .next t ∧
      t.outs = s.outs ++ [.completion port.val 0 (leBytes 4 (loHalf (s.pairNow addr hi)).toNat)] ∧
      tget (fun _ => (0 : Word)) t.shadows hi = hiHalf (s.pairNow addr hi) ∧
      (∀ k, k ≠ hi → tget (fun _ => (0 : Word)) t.shadows k = tget (fun _ => (0 : Word)) s.shadows k) ∧
      t = { s with shadows := t.shadows, outs := t.outs } := by
  have hexec : exec (.gtLoRead port addr) s = execGtLoRead port addr s := rfl
  rw [hexec, execGtLoRead, hp]
  dsimp only
  rw [s.readReach_open _ _ _ hf]
  exact ⟨_, rfl, rfl, tget_tput_same .., fun k hk => tget_tput_ne _ _ _ hk.symm, rfl⟩

section

variable (s : State) (g : Nat) (l : List Nat)

theorem State.vidCeil_le : s.vidCeil ≤ 38 := by
  unfold State.vidCeil
  omega

theorem State.vidFloor_le : s.vidFloor ≤ s.vidCeil := Nat.min_le_left ..

theorem State.vidNext_fixed (h : s.bit SYS_VCORE_CTRL SYS_VCORE_CTRL_MODE = false) : s.vidNext l = s.vidFixed := by
  unfold State.vidNext
  rw [h]
  rfl

theorem State.vidNext_moving (h : s.bit SYS_VCORE_CTRL SYS_VCORE_CTRL_MODE = true) :
    s.vidFloor ≤ s.vidNext l ∧ s.vidNext l ≤ s.vidCeil := by
  have hf := s.vidFloor_le
  unfold State.vidNext
  rw [h]
  exact ⟨Nat.le_max_left .., Nat.max_le.mpr ⟨hf, Nat.min_le_left ..⟩⟩

theorem State.vidNext_rises (h : s.bit SYS_VCORE_CTRL SYS_VCORE_CTRL_MODE = true)
    (hf : s.vidFloor ≤ s.fld SYS_VCORE_STAT SYS_VCORE_STAT_VID) (hc : s.fld SYS_VCORE_STAT SYS_VCORE_STAT_VID < s.vidCeil)
    (ht : s.fld SYS_VCORE_CTRL SYS_VCORE_CTRL_TARGET < l.foldl max 0) :
    s.vidNext l = s.fld SYS_VCORE_STAT SYS_VCORE_STAT_VID + 1 := by
  unfold State.vidNext
  dsimp only
  rw [h, if_pos rfl, if_pos ht]
  omega

theorem State.vidNext_le : s.vidNext l ≤ 38 := by
  cases h : s.bit SYS_VCORE_CTRL SYS_VCORE_CTRL_MODE with
  | true => exact (s.vidNext_moving l h).2.trans s.vidCeil_le
  | false =>
    rw [s.vidNext_fixed l h]
    unfold State.vidFixed
    omega

theorem vcoreMeasure_moves (hg : g % 1048576 = 0) : ∃ t, exec (.vcoreMeasure g l) s = .next t ∧
    t.fld SYS_VCORE_STAT SYS_VCORE_STAT_ST_PS = min 1023 (l.foldl max 0) ∧ t.fld SYS_VCORE_STAT SYS_VCORE_STAT_VID = s.vidNext l ∧
    t = { s with gt := max s.gt g, regs := t.regs } ∧ s.regsKept t [SYS_VCORE_STAT] := by
  have hexec : exec (.vcoreMeasure g l) s = execVcoreMeasure g l s := rfl
  have hmem : SYS_VCORE_STAT ∈ [SYS_VCORE_STAT] := List.mem_singleton_self _
  rw [hexec, execVcoreMeasure, if_pos hg]
  refine ⟨_, rfl, ?_, ?_, rfl, State.regsKept_trans ((s.at g).setFld_regsKept _ _ hmem) (State.setFld_regsKept _ _ _ hmem)⟩
  · rw [State.setFld_fld_apart _ _ _ _ _ (by decide), State.setFld_fld _ _ _ _ (by decide) (by decide)]
    exact Nat.mod_eq_of_lt (Nat.lt_succ_of_le (Nat.min_le_left ..))
  · rw [State.setFld_fld _ _ _ _ (by decide) (by decide)]
    exact Nat.mod_eq_of_lt (Nat.lt_of_le_of_lt (s.vidNext_le l) (by decide))

end

end Sys2Proof.Machine
end

section
namespace Sys2Proof.Machine

/-! The sensors (R313, R514). -/

/-- The code that cluster c's sensor gives. -/
def sensorCode (codes : List (BitVec 12)) (c : Nat) : Nat := (codes.getD c 0).toNat

/-- The first of the clusters with the largest code, from `h` on. -/
def hottestFrom (code : Nat → Nat) (l : List Nat) (h : Nat) : Nat := l.foldl (fun h c => if code h < code c then c else h) h

theorem hottestFrom_cons (code : Nat → Nat) (x : Nat) (l : List Nat) (h : Nat) :
    hottestFrom code (x :: l) h = hottestFrom code l (if code h < code x then x else h) := rfl

theorem hottestFrom_largest (code : Nat → Nat) (l : List Nat) : ∀ h, (hottestFrom code l h = h ∨ hottestFrom code l h ∈ l) ∧
    code h ≤ code (hottestFrom code l h) ∧ ∀ c ∈ l, code c ≤ code (hottestFrom code l h) := by
  induction l with
  | nil => exact fun h => ⟨.inl rfl, le_rfl, fun _ hc => nomatch hc⟩
  | cons x l ih =>
    intro h
    obtain ⟨hmem, hle, hall⟩ := ih (if code h < code x then x else h)
    rw [hottestFrom_cons]
    by_cases hx : code h < code x
    · rw [if_pos hx] at hmem hle hall ⊢
      refine ⟨.inr (List.mem_cons.mpr hmem), hx.le.trans hle, fun c hc => ?_⟩
      rcases List.mem_cons.mp hc with rfl | hc
      · exact hle
      · exact hall c hc
    · rw [if_neg hx] at hmem hle hall ⊢
      refine ⟨hmem.imp_right (List.mem_cons_of_mem _), hle, fun c hc => ?_⟩
      rcases List.mem_cons.mp hc with rfl | hc
      · exact (not_lt.mp hx).trans hle
      · exact hall c hc

theorem sensorCode_lt (codes : List (BitVec 12)) (c : Nat) : sensorCode codes c < 2 ^ 12 := BitVec.isLt _

section

variable (s : State)

theorem State.tempCluster_frame (c code : Nat) : ∃ r, s.tempCluster c code = { s with regs := r } := by
  unfold State.tempCluster
  refine foldl_holds (P := fun t => ∃ r, t = { s with regs := r }) (fun t kind ht => ?_) _ _ ⟨_, rfl⟩
  obtain ⟨r, rfl⟩ := ht
  dsimp only
  split <;> exact ⟨_, rfl⟩

theorem State.tempCluster_reg_of_ne {c a : Nat} (code : Nat) (ha : a ≠ CAL_CTRL c) :
    (s.tempCluster c code).reg a = (s.setFld (CAL_TNOW c) CAL_TNOW_T_NOW code).reg a := by
  unfold State.tempCluster
  refine foldl_obs _ (fun t => t.reg a) (fun t kind => ?_) _ _
  dsimp only
  split
  · exact State.setBit_reg_ne _ _ _ _ _ ha
  · rfl

theorem calTnow_ne_calCtrl (c d : Nat) : CAL_TNOW c ≠ CAL_CTRL d := by
  unfold CAL_TNOW CAL_CTRL clBlk
  omega

theorem calTnow_inj {c d : Nat} (h : CAL_TNOW c = CAL_TNOW d) : c = d := by
  unfold CAL_TNOW clBlk at h
  omega

theorem calTnow_ne_of_low {a : Nat} (c : Nat) (ha : a % 0x1000000 < 0x100000) : CAL_TNOW c ≠ a := by
  unfold CAL_TNOW clBlk
  omega

variable (codes : List (BitVec 12))

/-- The sensors of all clusters are read. -/
def State.readSensors (s : State) (codes : List (BitVec 12)) : State :=
  (List.range 64).foldl (fun t c => t.tempCluster c (sensorCode codes c)) s

theorem State.readSensors_frame : ∃ r, s.readSensors codes = { s with regs := r } := by
  unfold State.readSensors
  refine foldl_holds (P := fun t => ∃ r, t = { s with regs := r }) (fun t c ht => ?_) _ _ ⟨_, rfl⟩
  obtain ⟨r, rfl⟩ := ht
  obtain ⟨q, hq⟩ := State.tempCluster_frame { s with regs := r } c (sensorCode codes c)
  exact ⟨q, hq⟩

theorem State.readSensors_reg {a : Nat} (ha : a % 0x1000000 < 0x100000) : (s.readSensors codes).reg a = s.reg a :=
  foldl_obs _ (fun t => t.reg a) (fun t c => (t.tempCluster_reg_of_ne _ (calCtrl_ne_of_low c ha).symm).trans
    (t.setFld_reg_ne _ _ _ _ (calTnow_ne_of_low c ha).symm)) _ s

theorem State.readSensors_tnow {c : Nat} (hc : c < 64) :
    (s.readSensors codes).fld (CAL_TNOW c) CAL_TNOW_T_NOW = sensorCode codes c := by
  refine foldl_set (fun t c => t.tempCluster c (sensorCode codes c)) (fun t => t.fld (CAL_TNOW c) CAL_TNOW_T_NOW) c
    (sensorCode codes c) (fun t => ?_) (fun t d hd => ?_) _ s (List.mem_range.mpr hc)
  · rw [State.fld_of_reg _ (t.tempCluster_reg_of_ne _ (calTnow_ne_calCtrl c c)), State.setFld_fld _ _ _ _ (by decide) (by decide)]
    exact Nat.mod_eq_of_lt (sensorCode_lt codes c)
  · rw [State.fld_of_reg _ (t.tempCluster_reg_of_ne _ (calTnow_ne_calCtrl c d)),
      State.setFld_fld_ne _ _ _ _ _ _ fun e => hd (calTnow_inj e).symm]

/-! A fence and a thermal trip (R41, R514). -/

theorem State.safeFrom_reg (r g a : Nat) : (s.safeFrom r g).reg a = s.reg a := s.updRg_reg r _ a

theorem State.fence_reg (d : Nat) {a : Nat} (ha : a < hubBlk 4 ∨ hubBlk 5 ≤ a) : (s.fence d).reg a = s.reg a := by
  unfold State.fence
  split
  · rfl
  · dsimp only
    rw [State.event_reg _ _ _ _ _ _ _ ha, State.endRunsIf_reg]
    exact foldl_obs _ (fun t => t.reg a) (fun t r => (State.safeFrom_reg ..).trans (t.updRg_reg ..)) _ s

theorem State.safeFrom_fenced (r g k : Nat) : ((s.safeFrom r g).rg k).fenced = (s.rg k).fenced := by
  unfold State.safeFrom
  by_cases h : k = r
  · subst h
    rw [State.updRg_rg]
    split <;> rfl
  · rw [State.updRg_rg_ne _ _ _ _ h]

theorem State.fence_fenced (d r : Nat) : ((s.fence d).rg r).fenced = if r / 2 = d then true else (s.rg r).fenced := by
  have hstep : ∀ (t : State) (k : Nat), (((t.updRg k fun x => { x with fenced := true }).safeFrom k s.gt).rg r).fenced =
      if r = k then true else (t.rg r).fenced := by
    intro t k
    rw [State.safeFrom_fenced]
    split
    · next h => rw [h, State.updRg_rg]
    · next h => rw [State.updRg_rg_ne _ _ _ _ h]
  unfold State.fence
  split
  · next h =>
    obtain ⟨h0, h1⟩ := Bool.and_eq_true_iff.mp h
    split
    · obtain hr | hr : r = 2 * d ∨ r = 2 * d + 1 := by omega
      · rw [hr, h0]
      · rw [hr, h1]
    · rfl
  · dsimp only
    rw [State.event_rg, State.endRunsIf_rg]
    simp only [List.foldl_cons, List.foldl_nil, hstep]
    by_cases h0 : r = 2 * d + 1
    · rw [if_pos h0, if_pos (by omega)]
    · rw [if_neg h0]
      by_cases h1 : r = 2 * d
      · rw [if_pos h1, if_pos (by omega)]
      · rw [if_neg h1, if_neg (by omega)]

theorem State.thermalTrip_reg {a : Nat} (ha : a < hubBlk 4 ∨ hubBlk 5 ≤ a) :
    s.thermalTrip.reg a = (s.setBit SYS_THERM SYS_THERM_TRIPPED true).reg a := by
  unfold State.thermalTrip
  dsimp only
  rw [foldl_obs State.fence (fun t => t.reg a) (fun t d => t.fence_reg d ha)]
  split
  · rfl
  · rw [State.updHub_reg, State.send_reg]

theorem State.thermalTrip_fenced {r : Nat} (hr : r < 8) : (s.thermalTrip.rg r).fenced = true := by
  have hmem : ∀ d, d < 4 → d ∈ [0, 1, 2, 3] := by decide
  refine foldl_set State.fence (fun t => (t.rg r).fenced) (r / 2) true (fun t => ?_) (fun t d hd => ?_) _ _ (hmem _ (by omega))
  · rw [t.fence_fenced, if_pos rfl]
  · exact (t.fence_fenced d r).trans (if_neg hd.symm)

/-- The sensors have been read, and SYS_THERM shows the hottest. -/
def State.thermShown (s : State) (codes : List (BitVec 12)) : State :=
  ((s.readSensors codes).setFld SYS_THERM SYS_THERM_HOT_CL (hottestFrom (sensorCode codes) (List.range 64) 0)).setFld SYS_THERM
    SYS_THERM_T_MAX (sensorCode codes (hottestFrom (sensorCode codes) (List.range 64) 0))

/-- The cluster with the largest code. -/
theorem hottest_lt (code : Nat → Nat) : hottestFrom code (List.range 64) 0 < 64 := by
  rcases (hottestFrom_largest code (List.range 64) 0).1 with h | h
  · rw [h]
    decide
  · exact List.mem_range.mp h

theorem State.thermShown_tmax : (s.thermShown codes).fld SYS_THERM SYS_THERM_T_MAX =
    sensorCode codes (hottestFrom (sensorCode codes) (List.range 64) 0) :=
  (State.setFld_fld _ _ _ _ (by decide) (by decide)).trans (Nat.mod_eq_of_lt (sensorCode_lt codes _))

theorem State.thermShown_hot : (s.thermShown codes).fld SYS_THERM SYS_THERM_HOT_CL = hottestFrom (sensorCode codes) (List.range 64) 0 :=
  (State.setFld_fld_apart _ _ _ _ _ (by decide)).trans
    ((State.setFld_fld _ _ _ _ (by decide) (by decide)).trans (Nat.mod_eq_of_lt (hottest_lt _)))

theorem State.thermShown_tnow {c : Nat} (hc : c < 64) : (s.thermShown codes).fld (CAL_TNOW c) CAL_TNOW_T_NOW = sensorCode codes c := by
  have hne : CAL_TNOW c ≠ SYS_THERM := calTnow_ne_of_low c (by decide)
  exact (State.setFld_fld_ne _ _ _ _ _ _ hne).trans ((State.setFld_fld_ne _ _ _ _ _ _ hne).trans (s.readSensors_tnow codes hc))

theorem State.thermShown_tripped : (s.thermShown codes).bit SYS_THERM SYS_THERM_TRIPPED = s.bit SYS_THERM SYS_THERM_TRIPPED := by
  unfold State.thermShown
  rw [State.setFld_bit_apart _ _ _ _ _ (by decide), State.setFld_bit_apart _ _ _ _ _ (by decide)]
  exact State.bit_of_reg _ (s.readSensors_reg codes (by decide))

theorem State.thermShown_frame : ∃ r, s.thermShown codes = { s with regs := r } := by
  obtain ⟨r, hr⟩ := s.readSensors_frame codes
  unfold State.thermShown
  rw [hr]
  obtain ⟨q, hq⟩ := State.setFld_frame { s with regs := r } SYS_THERM SYS_THERM_HOT_CL
    (hottestFrom (sensorCode codes) (List.range 64) 0)
  rw [hq]
  exact State.setFld_frame { s with regs := q } _ _ _

theorem exec_tempRead {g : Nat} (hg : g % 16777216 = 0) : exec (.tempRead g codes) s = .next
    (if 2864 ≤ sensorCode codes (hottestFrom (sensorCode codes) (List.range 64) 0) then ((s.at g).thermShown codes).thermalTrip
      else (s.at g).thermShown codes) := by
  have hexec : exec (.tempRead g codes) s = execTempRead g codes s := rfl
  rw [hexec, execTempRead, if_pos hg]
  rfl

theorem tempRead_shows {g : Nat} (hg : g % 16777216 = 0) : ∃ t, exec (.tempRead g codes) s = .next t ∧
      (∀ c, c < 64 → t.fld (CAL_TNOW c) CAL_TNOW_T_NOW = (codes.getD c 0).toNat ∧
        (codes.getD c 0).toNat ≤ t.fld SYS_THERM SYS_THERM_T_MAX) ∧
      (∃ c, c < 64 ∧ t.fld SYS_THERM SYS_THERM_HOT_CL = c ∧ t.fld SYS_THERM SYS_THERM_T_MAX = (codes.getD c 0).toNat) ∧
      (2864 ≤ t.fld SYS_THERM SYS_THERM_T_MAX → t.bit SYS_THERM SYS_THERM_TRIPPED = true ∧ ∀ r, r < 8 → (t.rg r).fenced = true) ∧
      (t.fld SYS_THERM SYS_THERM_T_MAX < 2864 → t.bit SYS_THERM SYS_THERM_TRIPPED = s.bit SYS_THERM SYS_THERM_TRIPPED ∧
        t.regions = s.regions ∧ t.runs = s.runs) := by
  obtain ⟨-, -, hall⟩ := hottestFrom_largest (sensorCode codes) (List.range 64) 0
  have hle : ∀ c, c < 64 → sensorCode codes c ≤ _ := fun c hc => hall c (List.mem_range.mpr hc)
  have htnow := fun (c : Nat) (hc : c < 64) => (s.at g).thermShown_tnow codes hc
  have htmax := (s.at g).thermShown_tmax codes
  have hhot := (s.at g).thermShown_hot codes
  rw [exec_tempRead s codes hg]
  split
  · next ht =>
    have hreg : ∀ (a : Nat) (f : Fld), a < hubBlk 4 → SYS_THERM_TRIPPED.apart f = true ∨ a ≠ SYS_THERM →
        (((s.at g).thermShown codes).thermalTrip).fld a f = ((s.at g).thermShown codes).fld a f := by
      intro a f ha hf
      rw [State.fld_of_reg f (State.thermalTrip_reg _ (.inl ha))]
      by_cases he : a = SYS_THERM
      · subst he
        exact State.setBit_fld_apart _ _ _ _ _ (hf.resolve_right (not_not.mpr rfl))
      · exact State.setBit_fld_ne _ _ _ _ _ _ he
    have hlow : ∀ c, c < 64 → CAL_TNOW c < hubBlk 4 := by
      intro c hc
      unfold CAL_TNOW clBlk hubBlk
      omega
    have kmax := (hreg SYS_THERM SYS_THERM_T_MAX (by decide) (.inl (by decide))).trans htmax
    refine ⟨_, rfl, fun c hc => ⟨(hreg _ _ (hlow c hc) (.inr (calTnow_ne_of_low c (by decide)))).trans (htnow c hc), ?_⟩,
      ⟨_, hottest_lt _, (hreg SYS_THERM SYS_THERM_HOT_CL (by decide) (.inl (by decide))).trans hhot, kmax⟩,
      fun _ => ⟨?_, fun r hr => State.thermalTrip_fenced _ hr⟩, fun h => absurd h (not_lt.mpr ?_)⟩
    · rw [kmax]
      exact hle c hc
    · rw [State.bit_of_reg _ (State.thermalTrip_reg _ (.inl (by decide))), State.setBit_bit _ _ _ _ (by decide) (by decide)]
    · rw [kmax]
      exact ht
  · next ht =>
    obtain ⟨r, hr⟩ := (s.at g).thermShown_frame codes
    refine ⟨_, rfl, fun c hc => ⟨htnow c hc, ?_⟩, ⟨_, hottest_lt _, hhot, htmax⟩, fun h => absurd h ?_, fun _ => ⟨?_, ?_, ?_⟩⟩
    · rw [htmax]
      exact hle c hc
    · rw [htmax]
      exact ht
    · rw [State.thermShown_tripped, State.at_bit]
    · rw [hr]
      rfl
    · rw [hr]
      rfl

end

end Sys2Proof.Machine
end

section
namespace Sys2Proof.Machine

/-! The references (R323-R330). -/

/-- From s to t new entries of the histories have been judged, and nothing the histories, the runs or the pins hold has changed. -/
structure JudgeOnly (s t : State) : Prop where
  hist : ∀ q x k, x < 2 → k < 32 → q < 2 → t.reg (CAL_HIST q x k) = s.reg (CAL_HIST q x k)
  runs : t.runs = s.runs
  pins : t.pinView = s.pinView

namespace JudgeOnly

variable {s t u : State}

theorem refl (s : State) : JudgeOnly s s := ⟨fun _ _ _ _ _ _ => rfl, rfl, rfl⟩

theorem trans (h : JudgeOnly s t) (k : JudgeOnly t u) : JudgeOnly s u :=
  ⟨fun q x n hx hn hq => (k.hist q x n hx hn hq).trans (h.hist q x n hx hn hq), k.runs.trans h.runs, k.pins.trans h.pins⟩

theorem ite {c : Prop} [Decidable c] (h : JudgeOnly s t) (k : JudgeOnly s u) : JudgeOnly s (if c then t else u) := by
  split <;> assumption

theorem setReg (s : State) {a : Nat} (w : Word) (ha : a < CAL_HIST 0 0 0) : JudgeOnly s (s.setReg a w) := by
  have hne : ∀ q x k, CAL_HIST q x k ≠ a := by
    intro q x k
    unfold CAL_HIST at *
    omega
  exact ⟨fun q x k _ _ _ => s.setReg_reg_ne a w _ (hne q x k), s.setReg_runs a w, s.setReg_pinView a w⟩

theorem updHub (s : State) (f : HubSt → HubSt) : JudgeOnly s (s.updHub f) := ⟨fun _ _ _ _ _ _ => rfl, rfl, rfl⟩

theorem event (s : State) (code src unit arg value : Nat) : JudgeOnly s (s.event code src unit arg value) := by
  refine ⟨fun q x k _ _ _ => s.event_reg _ _ _ _ _ _ (.inr ?_), s.event_runs .., s.event_pinView ..⟩
  unfold CAL_HIST hubBlk
  omega

theorem calRequests (s : State) (kind : CalKind) : JudgeOnly s (s.calRequests kind) := by
  obtain ⟨r, hr⟩ := s.calRequests_frame kind
  refine ⟨fun q x k _ _ _ => s.calRequests_reg kind ?_, by rw [hr], by rw [hr]; rfl⟩
  unfold CAL_HIST hubBlk
  omega

end JudgeOnly

section

variable (s : State)

theorem State.refGood_judgeOnly (q fill : Nat) : JudgeOnly s (s.refGood q fill) := by
  unfold State.refGood
  extract_lets x r t0 t1
  have h1 : JudgeOnly s t1 := (JudgeOnly.setReg s _ (by decide)).trans (.ite (.refl t0) (JudgeOnly.setReg t0 _ (by decide)))
  exact .ite (h1.trans ((JudgeOnly.setReg t1 _ (by decide)).trans (JudgeOnly.event ..))) h1

theorem State.refFailed_judgeOnly (q : Nat) : JudgeOnly s (s.refFailed q) := by
  unfold State.refFailed
  extract_lets x r t0 good t1 t2
  have h0 : JudgeOnly s t0 := (JudgeOnly.setReg s _ (by decide)).trans (JudgeOnly.event ..)
  have h1 : JudgeOnly s t1 := h0.trans (JudgeOnly.setReg t0 _ (by decide))
  have h2 : JudgeOnly s t2 := h0.trans ((JudgeOnly.setReg t0 _ (by decide)).trans ((JudgeOnly.updHub ..).trans (JudgeOnly.setReg _ _ (by decide))))
  refine .ite (.ite (h1.trans (JudgeOnly.updHub ..)) h1) (.ite ?_ (h0.trans (JudgeOnly.setReg t0 _ (by decide))))
  exact h2.trans ((JudgeOnly.event ..).trans (JudgeOnly.calRequests _ .dc))

theorem State.refCheck_judgeOnly (q fill : Nat) : JudgeOnly s (s.refCheck q fill) :=
  .ite (s.refGood_judgeOnly q fill) (s.refFailed_judgeOnly q)

/-! A measurement enters a history (R323). -/

theorem calHist_inj {i j k i' j' k' : Nat} (hj : j < 2) (hk : k < 32) (hj' : j' < 2) (hk' : k' < 32)
    (h : CAL_HIST i j k = CAL_HIST i' j' k') : i = i' ∧ j = j' ∧ k = k' := by
  unfold CAL_HIST at h
  omega

/-- The entries of a history have moved on by one. -/
def State.shiftHist (s : State) (q x : Nat) : State :=
  (List.range 31).foldl (fun t k => t.setReg (CAL_HIST q x (31 - k)) (s.reg (CAL_HIST q x (30 - k)))) s

theorem State.shiftHist_frame (q x : Nat) : ∃ r, s.shiftHist q x = { s with regs := r } := by
  refine foldl_holds (P := fun t => ∃ r, t = { s with regs := r }) (fun t k ht => ?_) _ _ ⟨_, rfl⟩
  obtain ⟨r, rfl⟩ := ht
  exact ⟨_, rfl⟩

theorem State.pushHist_frame (q x : Nat) (v : Int) : ∃ r, s.pushHist q x v = { s with regs := r } := by
  obtain ⟨r, hr⟩ := s.shiftHist_frame q x
  exact ⟨_, (congrArg (fun t : State => t.setReg (CAL_HIST q x 0) (BitVec.ofInt 32 v)) hr).trans rfl⟩

variable {q x : Nat} (v : Int)

theorem State.pushHist_new : (s.pushHist q x v).reg (CAL_HIST q x 0) = BitVec.ofInt 32 v := State.setReg_reg ..

theorem State.pushHist_old (hx : x < 2) {k : Nat} (hk : k < 31) : (s.pushHist q x v).reg (CAL_HIST q x (k + 1)) = s.reg (CAL_HIST q x k) := by
  have hne : ∀ n, n < 32 → n ≠ k + 1 → CAL_HIST q x (k + 1) ≠ CAL_HIST q x n := fun n hn h e =>
    h (calHist_inj hx (by omega) hx hn e).2.2.symm
  refine (State.setReg_reg_ne _ _ _ _ (hne 0 (by decide) (by omega))).trans ?_
  refine foldl_set _ (fun t => t.reg (CAL_HIST q x (k + 1))) (30 - k) (s.reg (CAL_HIST q x k)) (fun t => ?_) (fun t n hn => ?_) _ s
    (List.mem_range.mpr (by omega))
  · have h1 : 31 - (30 - k) = k + 1 := by omega
    have h2 : 30 - (30 - k) = k := by omega
    rw [h1, h2]
    exact State.setReg_reg ..
  · exact State.setReg_reg_ne _ _ _ _ (hne _ (by omega) (by omega))

theorem State.pushHist_other (hx : x < 2) {i j k : Nat} (hj : j < 2) (hk : k < 32) (h : i ≠ q ∨ j ≠ x) :
    (s.pushHist q x v).reg (CAL_HIST i j k) = s.reg (CAL_HIST i j k) := by
  have hne : ∀ n, n < 32 → CAL_HIST i j k ≠ CAL_HIST q x n := fun n hn e => by
    obtain ⟨hi, hj, -⟩ := calHist_inj hj hk hx hn e
    exact h.elim (absurd hi) (absurd hj)
  refine (State.setReg_reg_ne _ _ _ _ (hne 0 (by decide))).trans ?_
  exact foldl_obs _ (fun t => t.reg (CAL_HIST i j k)) (fun t n => State.setReg_reg_ne _ _ _ _ (hne _ (by omega))) _ s

end

/-- A measurement of each reference of a quantity enters its history. -/
def State.pushRefs (s : State) (q : Nat) (a b : Int) : State := (s.pushHist q 0 a).pushHist q 1 b

section

variable (s : State) (q : Nat) (a b : Int)

theorem State.pushRefs_frame : ∃ r, s.pushRefs q a b = { s with regs := r } := by
  obtain ⟨r, hr⟩ := s.pushHist_frame q 0 a
  obtain ⟨r', hr'⟩ := (s.pushHist q 0 a).pushHist_frame q 1 b
  exact ⟨r', hr'.trans (by rw [hr])⟩

theorem State.pushRefs_a : (s.pushRefs q a b).reg (CAL_HIST q 0 0) = BitVec.ofInt 32 a :=
  (State.pushHist_other _ b (by decide) (by decide) (by decide) (.inr (by decide))).trans (s.pushHist_new a)

theorem State.pushRefs_b : (s.pushRefs q a b).reg (CAL_HIST q 1 0) = BitVec.ofInt 32 b := State.pushHist_new _ b

theorem State.pushRefs_old {x k : Nat} (hx : x < 2) (hk : k < 31) :
    (s.pushRefs q a b).reg (CAL_HIST q x (k + 1)) = s.reg (CAL_HIST q x k) := by
  obtain rfl | rfl : x = 0 ∨ x = 1 := by omega
  · exact (State.pushHist_other _ b (by decide) hx (by omega) (.inr (by decide))).trans (s.pushHist_old a hx hk)
  · exact (State.pushHist_old _ b hx hk).trans (s.pushHist_other a (by decide) hx (by omega) (.inr (by decide)))

theorem State.pushRefs_other {i x k : Nat} (hi : i ≠ q) (hx : x < 2) (hk : k < 32) :
    (s.pushRefs q a b).reg (CAL_HIST i x k) = s.reg (CAL_HIST i x k) :=
  (State.pushHist_other _ b (by decide) hx hk (.inl hi)).trans (s.pushHist_other a (by decide) hx hk (.inl hi))

end

section

variable (g : Nat) (a b va vb : Int) (s : State)

/-- The timing references enter their histories outside holdover. -/
def State.timingMeasured (s : State) (a b : Int) : State :=
  if s.bit SYS_REF_CTRL SYS_REF_CTRL_HOLDOVER then s
  else (s.pushRefs 0 a b).updHub (fun h => { h with histFill := min 32 (h.histFill + 1) })

theorem exec_driftMeasure (hg : g % 1073741824 = 0) :
    ∃ t, exec (.driftMeasure g a b va vb) s = .next t ∧ JudgeOnly (((s.at g).timingMeasured a b).pushRefs 1 va vb) t := by
  have hexec : exec (.driftMeasure g a b va vb) s = execDriftMeasure g a b va vb s := rfl
  rw [hexec, execDriftMeasure, if_pos hg]
  extract_lets t0 hold u t1 t2 t3 t4 t5
  have h4 : JudgeOnly t2 t4 := (JudgeOnly.updHub t2 _).trans (JudgeOnly.setReg t3 _ (by decide))
  have h5 : JudgeOnly t4 t5 := .ite (.refl t4) (t4.refCheck_judgeOnly 0 _)
  exact ⟨_, rfl, h4.trans (h5.trans (t5.refCheck_judgeOnly 1 _))⟩

theorem driftMeasure_enters (hg : g % 1073741824 = 0) : ∃ t, exec (.driftMeasure g a b va vb) s = .next t ∧
      t.reg (CAL_HIST 1 0 0) = BitVec.ofInt 32 va ∧ t.reg (CAL_HIST 1 1 0) = BitVec.ofInt 32 vb ∧
      (∀ x k, x < 2 → k < 31 → t.reg (CAL_HIST 1 x (k + 1)) = s.reg (CAL_HIST 1 x k)) ∧
      (s.bit SYS_REF_CTRL SYS_REF_CTRL_HOLDOVER = false → t.reg (CAL_HIST 0 0 0) = BitVec.ofInt 32 a ∧
        t.reg (CAL_HIST 0 1 0) = BitVec.ofInt 32 b ∧
        ∀ x k, x < 2 → k < 31 → t.reg (CAL_HIST 0 x (k + 1)) = s.reg (CAL_HIST 0 x k)) ∧
      (s.bit SYS_REF_CTRL SYS_REF_CTRL_HOLDOVER = true → ∀ x k, x < 2 → k < 32 → t.reg (CAL_HIST 0 x k) = s.reg (CAL_HIST 0 x k)) ∧
      t.runs = s.runs ∧ s.pinsKept t := by
  obtain ⟨t, hexec, hist, hruns, hpins⟩ := exec_driftMeasure g a b va vb s hg
  have hframe : ∃ r h, ((s.at g).timingMeasured a b).pushRefs 1 va vb = { s.at g with regs := r, hub := h } := by
    obtain ⟨r, hr⟩ := ((s.at g).timingMeasured a b).pushRefs_frame 1 va vb
    obtain ⟨r', hr'⟩ := (s.at g).pushRefs_frame 0 a b
    rw [hr]
    unfold State.timingMeasured
    split
    · exact ⟨_, _, rfl⟩
    · exact ⟨_, _, by rw [hr']; rfl⟩
  have hvolt : ∀ x k, x < 2 → k < 32 → ((s.at g).timingMeasured a b).reg (CAL_HIST 1 x k) = s.reg (CAL_HIST 1 x k) := by
    intro x k hx hk
    unfold State.timingMeasured
    split
    · rw [State.at_reg]
    · rw [State.updHub_reg, State.pushRefs_other _ _ _ _ (by decide) hx hk, State.at_reg]
  have htime : ∀ x k, x < 2 → k < 32 → t.reg (CAL_HIST 0 x k) = ((s.at g).timingMeasured a b).reg (CAL_HIST 0 x k) := fun x k hx hk =>
    (hist 0 x k hx hk (by decide)).trans (State.pushRefs_other _ 1 va vb (by decide) hx hk)
  have hopen : s.bit SYS_REF_CTRL SYS_REF_CTRL_HOLDOVER = false → ∀ x k, x < 2 → k < 32 →
      t.reg (CAL_HIST 0 x k) = ((s.at g).pushRefs 0 a b).reg (CAL_HIST 0 x k)  := by
    intro hh x k hx hk
    rw [htime x k hx hk, State.timingMeasured, State.at_bit, hh, if_neg Bool.false_ne_true, State.updHub_reg]
  obtain ⟨r, h, hframe⟩ := hframe
  refine ⟨t, hexec, (hist 1 0 0 (by decide) (by decide) (by decide)).trans (State.pushRefs_a ..),
    (hist 1 1 0 (by decide) (by decide) (by decide)).trans (State.pushRefs_b ..), fun x k hx hk => ?_, fun hh => ?_, fun hh x k hx hk => ?_,
    ?_, ?_⟩
  · exact (hist 1 x (k + 1) hx (by omega) (by decide)).trans ((State.pushRefs_old _ 1 va vb hx hk).trans (hvolt x k hx (by omega)))
  · refine ⟨(hopen hh 0 0 (by decide) (by decide)).trans (State.pushRefs_a ..), (hopen hh 1 0 (by decide) (by decide)).trans
      (State.pushRefs_b ..), fun x k hx hk => ?_⟩
    exact (hopen hh x (k + 1) hx (by omega)).trans ((s.at g).pushRefs_old 0 a b hx hk)
  · rw [htime x k hx hk, State.timingMeasured, State.at_bit, hh, if_pos rfl, State.at_reg]
  · exact hruns.trans (by rw [hframe]; rfl)
  · exact State.pinsKept_of_pinView (hpins.trans (by rw [hframe]; rfl))

end

/-- Settles O13: a lemma for each read and measurement. -/
theorem pairReadsAndMeasurements : Obligations.PairReadsAndMeasurements := by
  unfold Obligations.PairReadsAndMeasurements
  refine ⟨fun port addr hi g l s => ⟨gtLoRead_pair port addr hi s, fun hg => ?_⟩,
    fun g codes a b va vb s => ⟨tempRead_shows s codes, driftMeasure_enters g a b va vb s⟩⟩
  obtain ⟨t, hexec, hst, hvid, hframe, hregs⟩ := vcoreMeasure_moves s g l hg
  refine ⟨t, hexec, hst, fun hm => hvid.trans (s.vidNext_fixed l hm), fun hm => ?_, hframe, hregs⟩
  obtain ⟨hfloor, hceil⟩ := s.vidNext_moving l hm
  rw [hvid]
  exact ⟨hfloor, hceil.trans (Nat.le_max_right ..), s.vidNext_rises l hm⟩

end Sys2Proof.Machine
end

section
namespace Sys2Proof.Machine

/-! What a cycle start of a pin may touch: the registers, the outputs, the counter of free values and the event rings, the pin's cluster, the
engine that serves it, the pin itself, and the players of the other pins. -/

/-- The fields of a pin that only the start of a cycle writes. -/
def PinSt.cycleView (x : PinSt) : PinSt := { cyc := x.cyc, prev := x.prev, count := x.count, hadCycle := x.hadCycle }

/-- The state but for what a cycle start of pin p by engine e may touch, without the pins. -/
def State.startRest (p e : Nat) (s : State) : State × (Nat → ClSt) × (Nat → EngSt) :=
  (s.sansResult, fun c => if c = pinCl p then {} else s.cl c, fun k => if k = e then {} else s.eng k)

/-- The state but for what the steps of a cycle start touch before and after the new cycle stands. -/
def State.startView (p e : Nat) (s : State) : (State × (Nat → ClSt) × (Nat → EngSt)) × (Nat → PinSt) :=
  (s.startRest p e, fun q => if q = p then (s.pin q).cycleView else s.pinView q)

theorem pin_eq_unit (p : Nat) : 16 * pinCl p + pinUnit p = p := by
  unfold pinCl pinUnit
  omega

section

variable {p e : Nat} {s t : State}

theorem State.startRest_of_view (h : t.startView p e = s.startView p e) : t.startRest p e = s.startRest p e := congrArg Prod.fst h

theorem State.pin_of_startView (h : t.startView p e = s.startView p e) :
    (t.pin p).cyc = (s.pin p).cyc ∧ (t.pin p).prev = (s.pin p).prev ∧ (t.pin p).count = (s.pin p).count ∧
      (t.pin p).hadCycle = (s.pin p).hadCycle := by
  have hp : (t.pin p).cycleView = (s.pin p).cycleView := by simpa [State.startView] using congrFun (congrArg Prod.snd h) p
  exact ⟨(congrArg PinSt.cyc hp :), (congrArg PinSt.prev hp :), (congrArg PinSt.count hp :), (congrArg PinSt.hadCycle hp :)⟩

theorem State.pinView_of_startView (h : t.startView p e = s.startView p e) {q : Nat} (hq : q ≠ p) : t.pinView q = s.pinView q := by
  simpa [State.startView, hq] using congrFun (congrArg Prod.snd h) q

theorem State.sansResult_of_startRest (h : t.startRest p e = s.startRest p e) : t.sansResult = s.sansResult := congrArg (·.1) h

theorem State.cl_of_startRest (h : t.startRest p e = s.startRest p e) {c : Nat} (hc : c ≠ pinCl p) : t.cl c = s.cl c := by
  have hcl : (if c = pinCl p then ({} : ClSt) else t.cl c) = if c = pinCl p then {} else s.cl c := congrFun (congrArg (·.2.1) h) c
  rwa [if_neg hc, if_neg hc] at hcl

theorem State.eng_of_startRest (h : t.startRest p e = s.startRest p e) {k : Nat} (hk : k ≠ e) : t.eng k = s.eng k := by
  have heng : (if k = e then ({} : EngSt) else t.eng k) = if k = e then {} else s.eng k := congrFun (congrArg (·.2.2) h) k
  rwa [if_neg hk, if_neg hk] at heng

/-- A step that keeps the parts keeps the view. -/
theorem State.startRest_ext (hrest : t.sansResult = s.sansResult) (hcl : ∀ c, c ≠ pinCl p → t.cl c = s.cl c)
    (heng : ∀ k, k ≠ e → t.eng k = s.eng k) : t.startRest p e = s.startRest p e := by
  refine Prod.ext hrest (Prod.ext (funext fun c => ?_) (funext fun k => ?_))
  · exact ite_congr rfl (fun _ => rfl) (hcl c)
  · exact ite_congr rfl (fun _ => rfl) (heng k)

theorem State.startView_ext (hrest : t.startRest p e = s.startRest p e) (hp : (t.pin p).cycleView = (s.pin p).cycleView)
    (hpins : ∀ q, q ≠ p → t.pinView q = s.pinView q) : t.startView p e = s.startView p e :=
  Prod.ext hrest (funext fun q => ite_congr rfl (fun h => h ▸ hp) (hpins q))

end

section

variable (p e : Nat) (s : State)

@[simp] theorem State.setReg_startView (a : Nat) (w : Word) : (s.setReg a w).startView p e = s.startView p e := by rfl
@[simp] theorem State.setFld_startView (a : Nat) (f : Fld) (v : Nat) : (s.setFld a f v).startView p e = s.startView p e := by rfl
@[simp] theorem State.setBit_startView (a : Nat) (f : Fld) (b : Bool) : (s.setBit a f b).startView p e = s.startView p e := by rfl
@[simp] theorem State.orBit_startView (a : Nat) (f : Fld) (u : Nat) : (s.orBit a f u).startView p e = s.startView p e := by rfl
@[simp] theorem State.countSat_startView (a : Nat) (f : Fld) (k : Nat) : (s.countSat a f k).startView p e = s.startView p e := by rfl
@[simp] theorem State.send_startView (o : Output) : (s.send o).startView p e = s.startView p e := by rfl
@[simp] theorem State.useFree_startView : s.useFree.startView p e = s.startView p e := by rfl
@[simp] theorem State.at_startView (g : Nat) : (s.at g).startView p e = s.startView p e := by rfl

@[simp] theorem State.updCl_startView (f : ClSt → ClSt) : (s.updCl (pinCl p) f).startView p e = s.startView p e :=
  State.startView_ext (State.startRest_ext rfl (fun c hc => s.updCl_cl_ne _ f c hc) fun _ _ => rfl) rfl fun _ _ => rfl
@[simp] theorem State.updScr_startView (f : Scribe → Scribe) : (s.updScr (pinCl p) f).startView p e = s.startView p e :=
  s.updCl_startView p e _
@[simp] theorem State.updFigs_startView (f : RunFigures → RunFigures) : (s.updFigs (pinCl p) f).startView p e = s.startView p e :=
  s.updCl_startView p e _
@[simp] theorem State.updFig_startView (i : Nat) (f : RunFigures → RunFigures) :
    (s.updFig (pinCl p) i f).startView p e = s.startView p e := s.updCl_startView p e _

@[simp] theorem State.updEng_startView (f : EngSt → EngSt) : (s.updEng e f).startView p e = s.startView p e :=
  State.startView_ext (State.startRest_ext rfl (fun _ _ => rfl) fun k hk => s.updEng_eng_ne _ f k hk) rfl fun _ _ => rfl

/-- Pin p changes in what a cycle start does not write. -/
@[simp] theorem State.updPin_startView (f : PinSt → PinSt)
    (h : ∀ x, (f x).cyc = x.cyc ∧ (f x).prev = x.prev ∧ (f x).count = x.count ∧ (f x).hadCycle = x.hadCycle) :
    (s.updPin p f).startView p e = s.startView p e := by
  obtain ⟨hcyc, hprev, hcount, hhad⟩ := h (s.pin p)
  refine State.startView_ext rfl ?_ fun q hq => ?_
  · rw [State.updPin_pin, PinSt.cycleView, hcyc, hprev, hcount, hhad]
    rfl
  · rw [State.pinView, State.updPin_pin_ne _ _ _ _ hq]
    rfl

@[simp] theorem State.event_startView (code src unit arg value : Nat) :
    (s.event code src unit arg value).startView p e = s.startView p e :=
  have hpins := s.event_pinView code src unit arg value
  State.startView_ext (State.startRest_ext (ResultOnly.event p s ..).rest (fun c _ => s.event_cl _ _ _ _ _ c)
    fun k _ => s.event_eng _ _ _ _ _ k) (congrArg PinSt.cycleView (congrFun hpins p) :) fun q _ => congrFun hpins q

/-! The edges, holds and shims of the pin. -/

@[simp] theorem State.placeEdge_startView (x : PendingEdge) : (s.placeEdge p x).startView p e = s.startView p e := by
  unfold State.placeEdge
  extract_lets t time y u
  split
  · simp [t]
  · split <;> simp [u, t]

@[simp] theorem State.flushEdge_startView : (s.flushEdge p).startView p e = s.startView p e := by
  unfold State.flushEdge
  split <;> simp

@[simp] theorem State.flushEdgeBy_startView (g : Nat) : (s.flushEdgeBy p g).startView p e = s.startView p e := by
  unfold State.flushEdgeBy
  split
  · split <;> simp
  · rfl

@[simp] theorem State.holdPin_startView (g : Nat) : (s.holdPin p g).startView p e = s.startView p e :=
  s.updPin_startView p e _ fun x => by
    unfold PinSt.hold
    split <;> simp

@[simp] theorem State.clearLatch_startView (g : Nat) : (s.clearLatch p g).startView p e = s.startView p e := by
  unfold State.clearLatch
  split
  · split <;> simp
  · rfl

@[simp] theorem State.shimStep_startView (c i : Nat) : (s.shimStep c i).startView p e = s.startView p e := by
  unfold State.shimStep State.shimMoving
  dsimp only
  split <;> simp

@[simp] theorem State.stepPin_startView (q : Nat) : (s.stepPin q).startView p e = s.startView p e :=
  foldl_obs _ (State.startView p e) (fun t _ => t.shimStep_startView p e _ _) _ s

/-- What comes before a cycle touches no cycle. -/
@[simp] theorem State.beforeCycle_startView (g : Nat) : (s.beforeCycle p g).startView p e = s.startView p e := by
  unfold State.beforeCycle
  extract_lets c t1 t2 t3
  have h1 : t1.startView p e = s.startView p e := by
    unfold t1
    split <;> simp
  have h2 : t2.startView p e = t1.startView p e := by
    unfold t2
    split <;> simp
  split <;> simp [t3, h2, h1]

/-! The player and the contact. -/

@[simp] theorem State.undoPlay_startView (q g : Nat) (y : Player) : (s.undoPlay q g y).startView p e = s.startView p e := by
  unfold State.undoPlay
  split
  · split
    · dsimp only
      split <;> simp
    · rfl
  · rfl

theorem PinSt.afterPlay_cycleView (x : PinSt) (g k : Nat) : (x.afterPlay g k).cyc = x.cyc ∧ (x.afterPlay g k).prev = x.prev ∧
    (x.afterPlay g k).count = x.count ∧ (x.afterPlay g k).hadCycle = x.hadCycle := by
  unfold PinSt.afterPlay
  split
  · simp
  · split <;> simp

@[simp] theorem State.stopPlayer_startView (g : Nat) : (s.stopPlayer p g).startView p e = s.startView p e := by
  unfold State.stopPlayer
  dsimp only
  split
  · simp
  · rw [State.send_startView, State.updPin_startView _ _ _ _ (by simp),
      State.updPin_startView _ _ _ _ fun x => x.afterPlay_cycleView _ _]
    simp

/-! Scribe. -/

@[simp] theorem State.recordFigs_startView (unit : Option Nat) (f : RunFigures → RunFigures) :
    (s.recordFigs (pinCl p) unit f).startView p e = s.startView p e := by
  unfold State.recordFigs
  split
  · simp
  · split <;> simp

@[simp] theorem State.queueRecord_startView (unit : Option Nat) (grain rank flags vaddr ts kind pin cycle : Nat) :
    (s.queueRecord (pinCl p) unit grain rank flags vaddr ts kind pin cycle).startView p e = s.startView p e := by
  unfold State.queueRecord
  extract_lets sat t x t1 t2 t3 t4 loss fl cyc t5
  have ht : t.startView p e = s.startView p e := by
    unfold t
    split <;> simp
  have ht2 : t2.startView p e = t1.startView p e := by
    unfold t2
    split <;> simp
  split
  · split <;> simp [t4, t3, ht2, t1, ht]
  · simp [t5, ht]

@[simp] theorem State.emitCount_startView (u : Nat) (w : CountWindow) (g : Nat) :
    (s.emitCount (pinCl p) u w g).startView p e = s.startView p e := by
  unfold State.emitCount
  split <;> simp

@[simp] theorem State.flushOld_startView (g : Nat) : (s.flushOld (pinCl p) (pinUnit p) g).startView p e = s.startView p e := by
  unfold State.flushOld
  rw [pin_eq_unit]
  split
  · split <;> simp
  · rfl

@[simp] theorem State.closeWindow_startView (g : Nat) : (s.closeWindow (pinCl p) (pinUnit p) g).startView p e = s.startView p e := by
  unfold State.closeWindow
  rw [pin_eq_unit]
  dsimp only
  split
  · rfl
  · rw [State.updPin_startView _ _ _ _ (by simp)]
    split <;> simp

@[simp] theorem State.windowCycle_startView (n g : Nat) :
    (s.windowCycle (pinCl p) (pinUnit p) n g).startView p e = s.startView p e := by
  unfold State.windowCycle
  rw [pin_eq_unit]
  dsimp only
  split
  · split <;> simp
  · simp

@[simp] theorem State.scribeCycle_startView (x : Cycle) : (s.scribeCycle p x).startView p e = s.startView p e := by
  unfold State.scribeCycle
  dsimp only
  split <;> simp

@[simp] theorem State.reportCycle_startView (x : Cycle) (raw : Nat) : (s.reportCycle p x raw).startView p e = s.startView p e := by
  unfold State.reportCycle
  extract_lets c t ordered t1 t2
  have ht : t.startView p e = s.startView p e := by
    unfold t
    split <;> simp
  have ht1 : t1.startView p e = t.startView p e := by
    unfold t1
    split <;> simp
  have ht2 : t2.startView p e = s.startView p e := by simp [t2, ht1, ht]
  split
  · exact ht1.trans ht
  · split
    · split <;> simp [c, ht2]
    · exact ht2

/-! The words of the timing set. -/

@[simp] theorem State.wordAt_startView (a g : Nat) : (s.wordAt a g).2.startView p e = s.startView p e := by
  unfold State.wordAt
  split <;> simp

@[simp] theorem State.copyEdge_startView (c t u i g : Nat) (stream : Bool) :
    (s.copyEdge c t u i g stream).2.startView p e = s.startView p e := by
  simp [State.copyEdge]

@[simp] theorem State.copyEdges_startView (c t u g : Nat) (stream : Bool) (l : List Nat) :
    (s.copyEdges c t u g stream l).2.startView p e = s.startView p e := by
  induction l generalizing s with
  | nil => rfl
  | cons i l ih => simp [State.copyEdges, ih]

end

end Sys2Proof.Machine
end

section
namespace Sys2Proof.Machine

/-! A pin starts a cycle: the copies it takes, and the cycle that then stands. -/

section

variable (p e : Nat) (s : State)

theorem State.updPin_startRest (q : Nat) (f : PinSt → PinSt) : (s.updPin q f).startRest p e = s.startRest p e := by rfl

theorem State.spoilEngine_startRest : (s.spoilEngine e).startRest p e = s.startRest p e := by
  unfold State.spoilEngine
  rw [foldl_obs _ (State.startRest p e) fun t u => t.updPin_startRest p e _ _]
  exact State.startRest_of_view (s.updEng_startView p e _)

theorem State.wordAt_settled (a g : Nat) (h : s.inFlight = []) : s.wordAt a g = (s.inForce a, s) := by
  simp [State.wordAt, State.wordsDue, h]

theorem State.wordAt_eng (a g k : Nat) : (s.wordAt a g).2.eng k = s.eng k := by
  unfold State.wordAt
  split <;> rfl

theorem State.copyPeriod_fst (g : Nat) :
    (s.copyPeriod e g).1 = (s.wordAt (TSET_PERIOD (engCl e) (s.eng e).ts) g).1.toNat + 1 := by
  unfold State.copyPeriod
  dsimp only
  split
  · split <;> rfl
  · rfl

theorem State.copyPeriod_startRest (g : Nat) : (s.copyPeriod e g).2.startRest p e = s.startRest p e := by
  have hword := State.startRest_of_view (s.wordAt_startView p e (TSET_PERIOD (engCl e) (s.eng e).ts) g)
  have hfirst := fun f => (State.startRest_of_view (State.updEng_startView p e _ f)).trans hword
  unfold State.copyPeriod
  dsimp only
  split
  · split
    · dsimp only
      split
      · exact hword
      · exact (State.spoilEngine_startRest ..).trans hword
    · exact hfirst _
  · exact hfirst _

/-- The first pin of an engine that copies the period at a grain touches no pin. -/
theorem State.copyPeriod_startView {g : Nat} (h : ∀ z, (s.eng e).copied = some z → z.1 ≠ g) :
    (s.copyPeriod e g).2.startView p e = s.startView p e := by
  unfold State.copyPeriod
  dsimp only
  rw [State.wordAt_eng]
  split
  · next z hz =>
    rw [if_neg (h _ hz)]
    simp
  · simp

end

/-- From s to t pin p, served by engine e, has started the cycle x at grain g. -/
structure CycleStarted (p e g : Nat) (s t : State) (x : Cycle) : Prop where
  cyc : (t.pin p).cyc = some x
  rest : t.startRest p e = s.startRest p e
  pins : (∀ z, (s.eng e).copied = some z → z.1 ≠ g) → (t.pin p).prev = (s.pin p).cyc ∧ ∀ q, q ≠ p → t.pinView q = s.pinView q

section

variable {p e g : Nat} {s t u : State} {x : Cycle}

theorem State.pushCycle_pin (q : Nat) (hq : q ≠ p) : (u.pushCycle p x).pin q = u.pin q := u.updPin_pin_ne _ _ _ hq

/-- The cycle stands once it has been pushed, when what comes before it and after it keeps the view. -/
theorem CycleStarted.of_push (hrest : u.startRest p e = s.startRest p e)
    (hview : (∀ z, (s.eng e).copied = some z → z.1 ≠ g) → u.startView p e = s.startView p e)
    (ht : t.startView p e = (u.pushCycle p x).startView p e) : CycleStarted p e g s t x := by
  obtain ⟨hcyc, hprev, -, -⟩ := State.pin_of_startView ht
  have hpush : ((u.pushCycle p x).pin p).cyc = some x ∧ ((u.pushCycle p x).pin p).prev = (u.pin p).cyc := by
    rw [State.pushCycle, State.updPin_pin]
    exact ⟨rfl, rfl⟩
  refine ⟨hcyc.trans hpush.1, (State.startRest_of_view ht).trans hrest, fun hc => ⟨?_, fun q hq => ?_⟩⟩
  · exact hprev.trans (hpush.2.trans (State.pin_of_startView (hview hc)).1)
  · rw [State.pinView_of_startView ht hq, State.pinView, State.pushCycle_pin q hq]
    exact State.pinView_of_startView (hview hc) hq

/-- A start in a missing tenon. -/
theorem State.startBare_started (vaddr : Nat) : ∃ x, CycleStarted p e g s (s.startBare p e g vaddr true false) x ∧ x.missing = true ∧
    x.edges = [] ∧ x.start = g := by
  unfold State.startBare
  extract_lets per y x t
  rw [if_neg (by simp)]
  exact ⟨x, CycleStarted.of_push (s.copyPeriod_startRest p e g) (s.copyPeriod_startView p e) (State.scribeCycle_startView ..), rfl,
    rfl, rfl⟩

/-- The code that a pin plays: a WAVE code without its source acts as DZ (R130). -/
def State.playedCode (s : State) (p raw : Nat) : Nat := if raw = 12 ∧ s.hasMode (pinCl p) 1 = false then 2 else raw

/-- A start with a code of a present tenon. -/
theorem State.startCoded_started (vaddr raw : Nat) : ∃ x, CycleStarted p e g s (s.startCoded p e g vaddr raw) x ∧
    x.start = g ∧ x.eng = e ∧ x.vaddr = vaddr ∧ x.ts = (s.eng e).ts ∧ x.code = s.playedCode p raw ∧
    x.count = (if (s.pin p).hadCycle then (s.pin p).count + 1 else 0) ∧
    (s.inFlight = [] → x.period = (s.inForce (TSET_PERIOD (engCl e) (s.eng e).ts)).toNat + 1) := by
  unfold State.startCoded
  extract_lets c u ts y nosource code s1 per ctl stream es t x0 x t1 t2
  have hs1 : s1.startView p e = s.startView p e := by
    unfold s1
    split <;> simp
  have heng : s1.eng e = s.eng e := by
    unfold s1
    split <;> simp
  have hfly : s1.inFlight = s.inFlight := by
    unfold s1
    split <;> simp
  have hforce : ∀ a, s1.inForce a = s.inForce a := by
    intro a
    unfold s1
    split <;> simp
  have ht : t.startView p e = per.2.startView p e := by simp [t, es, ctl]
  have ht1 : t1.startView p e = per.2.startView p e := by
    unfold t1
    split <;> simp [ht]
  refine ⟨x, CycleStarted.of_push (u := t1) ?_ (fun hc => ?_) ?_, rfl, rfl, rfl, rfl, ?_, rfl, fun h => ?_⟩
  · exact (State.startRest_of_view ht1).trans ((s1.copyPeriod_startRest p e g).trans (State.startRest_of_view hs1))
  · exact ht1.trans ((s1.copyPeriod_startView p e (heng ▸ hc)).trans hs1)
  · simp [t2]
  · exact if_congr (by simp [nosource, c]) rfl rfl
  · have hper : per.1 = _ := s1.copyPeriod_fst e g
    exact hper.trans (by rw [s1.wordAt_settled _ _ (hfly.trans h), heng, hforce])

end

end Sys2Proof.Machine
end

section
namespace Sys2Proof.Machine

/-! What comes before a cycle keeps the engines, the words in force and the modes. -/

section

variable (p g : Nat) (s : State)

theorem State.setFld_active {a c : Nat} (f : Fld) (v : Nat) (h : a ≠ MOD_ACTIVE c) : (s.setFld a f v).active c = s.active c :=
  State.setFld_fld_ne _ _ _ _ _ _ h.symm

theorem tmgShim_ne_modActive (c i : Nat) : TMG_SHIM c i ≠ MOD_ACTIVE c := by
  unfold TMG_SHIM MOD_ACTIVE clBlk
  omega

theorem clpStat_ne_modActive (c : Nat) : CLP_STAT c ≠ MOD_ACTIVE c := by
  unfold CLP_STAT MOD_ACTIVE clBlk
  omega

theorem State.shimStep_active (c i : Nat) : (s.shimStep c i).active c = s.active c := by
  have hne := tmgShim_ne_modActive c i
  unfold State.shimStep State.shimMoving State.setBit
  dsimp only
  split
  · rfl
  · rw [State.setFld_active _ _ _ hne, State.setFld_active _ _ _ hne]

theorem State.stepPin_active : (s.stepPin p).active (pinCl p) = s.active (pinCl p) :=
  foldl_obs _ (State.active · (pinCl p)) (fun t _ => t.shimStep_active _ _) _ s

theorem State.updPin_active (q c : Nat) (f : PinSt → PinSt) : (s.updPin q f).active c = s.active c := s.updPin_fld q f _ _

theorem State.send_active (o : Output) (c : Nat) : (s.send o).active c = s.active c := s.send_fld o _ _

theorem State.clearLatch_active : (s.clearLatch p g).active (pinCl p) = s.active (pinCl p) := by
  unfold State.clearLatch
  split
  · split
    · dsimp only
      rw [State.updPin_active, State.setFld_active _ _ _ (clpStat_ne_modActive _)]
    · rfl
  · rfl

theorem State.placeEdge_active (x : PendingEdge) (c : Nat) : (s.placeEdge p x).active c = s.active c := by
  unfold State.placeEdge
  extract_lets t time y u
  have ht : t.active c = s.active c := s.updPin_active p c _
  split
  · exact ht
  · split
    · rw [State.send_active, State.send_active, ht]
    · rw [State.send_active, ht]

theorem State.flushEdgeBy_active (c : Nat) : (s.flushEdgeBy p g).active c = s.active c := by
  unfold State.flushEdgeBy State.flushEdge
  split
  · split
    · split
      · rw [State.updPin_active, State.placeEdge_active]
      · rfl
    · rfl
  · rfl

theorem State.beforeCycle_active : (s.beforeCycle p g).active (pinCl p) = s.active (pinCl p) := by
  unfold State.beforeCycle
  extract_lets c t1 t2 t3
  have h1 : t1.active c = s.active c := by
    unfold t1
    split
    · exact s.stepPin_active p
    · rfl
  have h2 : t2.active c = s.active c := by
    unfold t2
    split
    · exact (t1.clearLatch_active p g).trans h1
    · exact h1
  have h3 : t3.active c = s.active c := (t2.flushEdgeBy_active p g c).trans h2
  split
  · exact (t3.updPin_active p c _).trans h3
  · exact (t3.updPin_active p c _).trans h3

/-- No engine is touched: the view of a start by another engine holds it. -/
theorem State.beforeCycle_eng (k : Nat) : (s.beforeCycle p g).eng k = s.eng k :=
  State.eng_of_startRest (State.startRest_of_view (s.beforeCycle_startView p (k + 1) g)) (Nat.ne_of_lt (Nat.lt_succ_self k))

end

/-- From s to t nothing has changed that the start of a cycle of pin p by engine e copies. -/
structure BeforeStart (p e : Nat) (s t : State) : Prop where
  view : t.startView p e = s.startView p e
  ts : (t.eng e).ts = (s.eng e).ts
  copied : (t.eng e).copied = (s.eng e).copied
  active : t.active (pinCl p) = s.active (pinCl p)

section

variable {p e g : Nat} {s t u : State}

theorem BeforeStart.trans (h : BeforeStart p e s t) (k : BeforeStart p e t u) : BeforeStart p e s u :=
  ⟨k.view.trans h.view, k.ts.trans h.ts, k.copied.trans h.copied, k.active.trans h.active⟩

theorem BeforeStart.at (p e : Nat) (s : State) (g : Nat) : BeforeStart p e s (s.at g) :=
  ⟨s.at_startView p e g, by rw [State.at_eng], by rw [State.at_eng], s.at_fld g _ _⟩

theorem BeforeStart.beforeCycle (p e : Nat) (s : State) (g : Nat) : BeforeStart p e s (s.beforeCycle p g) :=
  ⟨s.beforeCycle_startView p e g, by rw [State.beforeCycle_eng], by rw [State.beforeCycle_eng], s.beforeCycle_active p g⟩

theorem State.meet_nil (s : State) (a n src : Nat) : s.meet a n [] src = s := by rfl

/-- A copy of a dictionary entry is kept with the engine. -/
theorem State.dictCopy_copies (e : Nat) (y : TenonSlot) (s : State) :
    (s.dictCopy e y []).1 = s ∨ ∃ l, (s.dictCopy e y []).1 = s.updEng e (fun x => { x with copies := l :: x.copies }) := by
  unfold State.dictCopy
  split
  · exact .inl rfl
  · split
    · exact .inl rfl
    · extract_lets a t
      have ht : t = s := s.meet_nil a 512 1
      split
      · exact .inl ht
      · exact .inr ⟨_, by rw [ht]⟩

theorem BeforeStart.dictCopy (p e : Nat) (y : TenonSlot) (s : State) : BeforeStart p e s (s.dictCopy e y []).1 := by
  obtain h | ⟨l, h⟩ := s.dictCopy_copies e y
  · rw [h]
    exact ⟨rfl, rfl, rfl, rfl⟩
  · rw [h]
    refine ⟨State.updEng_startView .., ?_, ?_, State.updEng_fld ..⟩
    · rw [State.updEng_eng]
    · rw [State.updEng_eng]

theorem CycleStarted.after {x : Cycle} (h : BeforeStart p e s t) (k : CycleStarted p e g t u x) : CycleStarted p e g s u x where
  cyc := k.cyc
  rest := k.rest.trans (State.startRest_of_view h.view)
  pins hc := by
    obtain ⟨hprev, hpins⟩ := k.pins (h.copied ▸ hc)
    exact ⟨hprev.trans (State.pin_of_startView h.view).1, fun q hq => (hpins q hq).trans (State.pinView_of_startView h.view hq)⟩

theorem BeforeStart.playedCode (h : BeforeStart p e s t) (raw : Nat) : t.playedCode p raw = s.playedCode p raw := by
  unfold State.playedCode State.hasMode
  rw [h.active]

theorem BeforeStart.inFlight (h : BeforeStart p e s t) : t.inFlight = s.inFlight :=
  (congrArg State.inFlight (State.sansResult_of_startRest (State.startRest_of_view h.view)) :)

theorem BeforeStart.inForce (h : BeforeStart p e s t) (a : Nat) : t.inForce a = s.inForce a := by
  obtain ⟨-, -, hforce, -, -⟩ := State.of_sansResult (State.sansResult_of_startRest (State.startRest_of_view h.view))
  rw [State.inForce, hforce]
  rfl

/-- The start of a cycle whose preparation changed nothing that it copies. -/
theorem BeforeStart.startCoded (h : BeforeStart p e s t) (vaddr raw : Nat) :
    ∃ x, CycleStarted p e g s (t.startCoded p e g vaddr raw) x ∧ x.start = g ∧ x.eng = e ∧ x.vaddr = vaddr ∧ x.ts = (s.eng e).ts ∧
      x.code = s.playedCode p raw ∧ x.count = (if (s.pin p).hadCycle then (s.pin p).count + 1 else 0) ∧
      (s.inFlight = [] → x.period = (s.inForce (TSET_PERIOD (engCl e) (s.eng e).ts)).toNat + 1) := by
  obtain ⟨x, hstarted, hstart, heng, hvaddr, hts, hcode, hcount, hperiod⟩ := t.startCoded_started (p := p) (e := e) (g := g) vaddr raw
  obtain ⟨-, -, hcnt, hhad⟩ := State.pin_of_startView h.view
  refine ⟨x, hstarted.after h, hstart, heng, hvaddr, hts.trans h.ts, hcode.trans (h.playedCode raw), ?_, fun hf => ?_⟩
  · rw [hcount, hhad, hcnt]
  · rw [hperiod (h.inFlight.trans hf), h.ts, h.inForce]

end

section

variable {p : PinNo} {g e k : Nat} {w : Micro} {finds : Finds} {s : State}

/-- A cycle of a word with vectors takes the vector that its tenon holds. -/
theorem EngSt.cycleSource_vector (x : EngSt) (k : Nat) (hv : w.vmode = 0) : x.cycleSource w k = .vector ((x.vaddr + k) % 2 ^ 40) := by
  simp only [EngSt.cycleSource, hv]

theorem exec_cycleStart_missing (hserved : s.servedBy p.val = some e) (hunpred : (s.eng e).unpred = false)
    (hindex : (s.eng e).cycleIndex g = some k) (hword : (s.eng e).word = some w) (hmiss : s.missingAt (pinCl p.val) g = true) :
    ∃ va, exec (.cycleStart p g finds) s = .next (((s.at g).beforeCycle p.val g).startBare p.val e g va true false) := by
  have hexec : exec (.cycleStart p g finds) s = execCycleStart p g finds s := rfl
  rw [hexec, execCycleStart, hserved]
  dsimp only
  rw [hunpred, hindex, hword, hmiss]
  exact ⟨_, rfl⟩

theorem exec_cycleStart_vector {y : TenonSlot} (hserved : s.servedBy p.val = some e) (hunpred : (s.eng e).unpred = false)
    (hindex : (s.eng e).cycleIndex g = some k) (hword : (s.eng e).word = some w) (hmiss : s.missingAt (pinCl p.val) g = false)
    (hv : w.vmode = 0)
    (hslot : s.tenonSlot e g ((s.eng e).laneAt g) (.vector (((s.eng e).vaddr + k) % 2 ^ 40)) = some y) :
    exec (.cycleStart p g finds) s = .next ((s.at g).startVector p.val e g (((s.eng e).vaddr + k) % 2 ^ 40)
      (((s.eng e).vaddr + k) % 2 ^ 40) w y finds) := by
  have hexec : exec (.cycleStart p g finds) s = execCycleStart p g finds s := rfl
  rw [hexec, execCycleStart, hserved]
  dsimp only
  rw [hunpred, hindex, hword, hmiss]
  rw [Bool.false_and, Bool.false_and, if_neg Bool.false_ne_true]
  dsimp only
  rw [if_neg Bool.false_ne_true, if_pos hv, EngSt.cycleSource_vector _ _ hv, hslot]

end

section

variable (p e g va v : Nat) (w : Micro) (y : TenonSlot) (finds : Finds) (s : State)

theorem State.startVector_fault {f : DecoderFault} (h : y.fault = some f) : s.startVector p e g va v w y finds = s.lostVector e v g f := by
  rw [State.startVector, h]

theorem State.startVector_lost {u : State} (h : y.fault = none) (hd : s.dictCopy e y finds = (u, none)) :
    s.startVector p e g va v w y finds = u.lostVector e v g .lost := by
  rw [State.startVector, h]
  dsimp only
  rw [hd]

theorem State.startVector_coded {u : State} {base : FrameBits} (h : y.fault = none) (hd : s.dictCopy e y finds = (u, some base))
    (hw : w.substEn = false) :
    s.startVector p e g va v w y finds = (u.beforeCycle p g).startCoded p e g va (y.code base v (pinUnit p)) := by
  have hdraw : ∀ t : State, t.draw e g w (y.code base v) finds = (t, some (0, 0)) := fun t => by rw [State.draw, hw]; rfl
  have hbit : nbit 0 (pinUnit p) = false := by simp [nbit]
  rw [State.startVector, h]
  dsimp only
  rw [hd]
  dsimp only
  rw [hdraw]
  dsimp only
  rw [hbit, if_neg Bool.false_ne_true]

end

end Sys2Proof.Machine
end

section
namespace Sys2Proof.Machine

/-! The two kinds of cycle start of the statement. -/

section

variable {p : PinNo} {g e k : Nat} {w : Micro} {s t : State} {x : Cycle}

/-- What a cycle start keeps, in the statement's words. -/
theorem CycleStarted.kept (h : CycleStarted p.val e g s t x) :
    (∀ c, c ≠ pinCl p.val → t.cl c = s.cl c) ∧ (∀ k, k ≠ e → t.eng k = s.eng k) ∧
      t.runs = s.runs ∧ t.flags = s.flags ∧ t.force = s.force ∧ t.stores = s.stores ∧ t.hub = s.hub :=
  ⟨fun _ hc => State.cl_of_startRest h.rest hc, fun _ hk => State.eng_of_startRest h.rest hk,
    State.of_sansResult (State.sansResult_of_startRest h.rest)⟩

theorem exec_cycleStart_coded {y : TenonSlot} {v : Nat} {u : State} {base : FrameBits}
    (hstart : ∀ finds, exec (.cycleStart p g finds) s = .next ((s.at g).startVector p.val e g v v w y finds)) (hfault : y.fault = none)
    (hdict : (s.at g).dictCopy e y [] = (u, some base)) (hsubst : w.substEn = false) :
    ∃ t x, exec (.cycleStart p g []) s = .next t ∧ CycleStarted p.val e g s t x ∧ x.start = g ∧ x.eng = e ∧ x.vaddr = v ∧
      x.ts = (s.eng e).ts ∧ x.code = s.playedCode p.val (y.code base v (pinUnit p.val)) ∧
      x.count = (if (s.pin p.val).hadCycle then (s.pin p.val).count + 1 else 0) ∧
      (s.inFlight = [] → x.period = (s.inForce (TSET_PERIOD (engCl e) (s.eng e).ts)).toNat + 1) := by
  have hcopy : BeforeStart p.val e s u := by
    have hu := BeforeStart.dictCopy p.val e y (s.at g)
    rw [hdict] at hu
    exact (BeforeStart.at p.val e s g).trans hu
  obtain ⟨x, hx⟩ := (hcopy.trans (BeforeStart.beforeCycle p.val e u g)).startCoded (g := g) v (y.code base v (pinUnit p.val))
  exact ⟨_, x, (hstart []).trans (congrArg _ (State.startVector_coded _ _ _ _ _ w y [] _ hfault hdict hsubst)), hx⟩

theorem cycleStart_missing {finds : Finds} (hserved : s.servedBy p.val = some e) (hunpred : (s.eng e).unpred = false)
    (hindex : (s.eng e).cycleIndex g = some k) (hword : (s.eng e).word = some w) (hmiss : s.missingAt (pinCl p.val) g = true) :
    ∃ t x, exec (.cycleStart p g finds) s = .next t ∧ CycleStarted p.val e g s t x ∧ x.missing = true ∧ x.edges = [] ∧ x.start = g := by
  obtain ⟨va, hexec⟩ := exec_cycleStart_missing (finds := finds) hserved hunpred hindex hword hmiss
  obtain ⟨x, hstarted, hx⟩ := ((s.at g).beforeCycle p.val g).startBare_started (p := p.val) (e := e) (g := g) va
  exact ⟨_, x, hexec, hstarted.after ((BeforeStart.at p.val e s g).trans (BeforeStart.beforeCycle p.val e (s.at g) g)), hx⟩

end

end Sys2Proof.Machine
end

section
namespace Sys2Proof.Machine

/-! What a pin presents at its contact does not depend on the pending edge or the outputs. -/

section

variable (p : Nat) (s : State)

theorem State.updPin_safePin (q : Nat) (f : PinSt → PinSt) : (s.updPin q f).safePin p = s.safePin p := by rfl
theorem State.updPin_interrupted (q c : Nat) (f : PinSt → PinSt) : (s.updPin q f).interrupted c = s.interrupted c := by rfl
theorem State.updPin_engineHolds (q : Nat) (f : PinSt → PinSt) : (s.updPin q f).engineHolds p = s.engineHolds p := by rfl
theorem State.updPin_pinMasked (q : Nat) (f : PinSt → PinSt) : (s.updPin q f).pinMasked p = s.pinMasked p := by rfl
theorem State.updPin_hasMode (q c m : Nat) (f : PinSt → PinSt) : (s.updPin q f).hasMode c m = s.hasMode c m := by rfl
theorem State.updPin_latchBit (q : Nat) (f : PinSt → PinSt) : (s.updPin q f).latchBit p = s.latchBit p := by rfl
theorem State.updPin_ffld (q a : Nat) (h : Fld) (f : PinSt → PinSt) : (s.updPin q f).ffld a h = s.ffld a h := by rfl
theorem State.updPin_terminated (q : Nat) (f : PinSt → PinSt) : (s.updPin q f).terminated p = s.terminated p := by rfl
theorem State.updPin_driveMv63 (q k : Nat) (f : PinSt → PinSt) : (s.updPin q f).driveMv63 p k = s.driveMv63 p k := by rfl

variable (v : Option PendingEdge)

theorem State.pendEdge_latched : (s.updPin p fun z => { z with pendEdge := v }).latched p = s.latched p := by
  rw [State.latched, State.updPin_latchBit, State.updPin_pin]
  rfl

theorem State.pendEdge_pmuBarred : (s.updPin p fun z => { z with pendEdge := v }).pmuBarred p = s.pmuBarred p := by
  simp only [State.pmuBarred, State.updPin_pin, State.updPin_safePin, State.updPin_engineHolds, State.updPin_pinMasked,
    State.updPin_hasMode]

theorem State.pendEdge_pmuMode : (s.updPin p fun z => { z with pendEdge := v }).pmuMode p = s.pmuMode p := by
  rw [State.pmuMode, State.pendEdge_pmuBarred, State.pendEdge_latched, State.updPin_pin, State.updPin_ffld]
  rfl

theorem State.pendEdge_forcer (g : Nat) : (s.updPin p fun z => { z with pendEdge := v }).forcer p g = s.forcer p g := by
  simp only [State.forcer, State.forceWord, State.pendEdge_pmuMode, State.updPin_pin, State.updPin_ffld]

theorem State.pendEdge_contactAs (g : Nat) (on : Bool) (k : Nat) :
    (s.updPin p fun z => { z with pendEdge := v }).contactAs p g on k = s.contactAs p g on k := by
  simp only [State.contactAs, State.pendEdge_pmuMode, State.pendEdge_forcer, State.updPin_pin, State.updPin_safePin,
    State.updPin_interrupted, State.updPin_terminated, State.updPin_driveMv63]

end

/-- Outputs leave the package, in order. -/
def State.sendAll (s : State) (l : List Output) : State := { s with outs := s.outs ++ l }

theorem State.sendAll_contactAs (s : State) (l : List Output) (p g : Nat) (on : Bool) (k : Nat) :
    (s.sendAll l).contactAs p g on k = s.contactAs p g on k := by rfl

theorem State.sendAll_nil (s : State) : s.sendAll [] = s := by rw [State.sendAll, List.append_nil]

theorem State.sendAll_cons (s : State) (o : Output) (l : List Output) : s.sendAll (o :: l) = (s.send o).sendAll l := by
  rw [State.sendAll, List.append_cons]
  rfl

end Sys2Proof.Machine
end

section
namespace Sys2Proof.Machine

/-! An edge that is placed (R106, R114, R136). -/

/-- The driver of a pin follows an edge. -/
def State.drivenBy (s : State) (p : Nat) (x : PendingEdge) : State :=
  s.updPin p (fun y => { y with on := x.turnOn.getD y.on, level := x.level.getD y.level })

/-- The output of an edge: what the pin presents at a time. -/
def State.contactOut (s : State) (p g : Nat) (time : Int) : Output :=
  .contact p time (s.contactAs p g (s.pin p).on (s.pin p).level)

section

variable (p : Nat) (x : PendingEdge) (s : State)

theorem State.drivenBy_pin : (s.drivenBy p x).pin p =
    { s.pin p with on := x.turnOn.getD (s.pin p).on, level := x.level.getD (s.pin p).level } := State.updPin_pin ..

/-- What an edge leaves to the outputs: nothing from the instant of a hold on, else its contact, and that of a hold that has begun since. -/
def State.edgeOuts (s : State) (p : Nat) (time : Int) : List Output :=
  if (s.pin p).held && decide (((s.pin p).heldFrom : Int) * 64 ≤ time) then []
  else if (s.pin p).held then [s.contactOut p (time / 64).toNat time, s.contactOut p (s.pin p).heldFrom (64 * (s.pin p).heldFrom)]
  else [s.contactOut p (time / 64).toNat time]

theorem State.placeEdge_eq : s.placeEdge p x = (s.drivenBy p x).sendAll ((s.drivenBy p x).edgeOuts p (x.time + x.trim)) := by
  unfold State.placeEdge State.edgeOuts
  extract_lets t time y u
  have ht : t = s.drivenBy p x := by
    refine congrArg (s.updPin p) (funext fun y => ?_)
    obtain ⟨time, kind, turnOn, level, trim⟩ := x
    cases turnOn <;> cases level <;> rfl
  rw [← ht]
  split
  · exact t.sendAll_nil.symm
  · split
    · rw [State.sendAll_cons]
      rfl
    · rfl

end

end Sys2Proof.Machine
end

section
namespace Sys2Proof.Machine

/-! An edge joins the merge of its pin (R109). -/

section

variable (p : Nat) (x : PendingEdge) (s : State)

/-- An edge is pending at a pin. -/
def State.pendWith (s : State) (p : Nat) (x : PendingEdge) : State := s.updPin p fun z => { z with pendEdge := some x }

theorem State.pendWith_pin : (s.pendWith p x).pin p = { s.pin p with pendEdge := some x } := State.updPin_pin ..

theorem State.pendWith_pin_ne {q : Nat} (hq : q ≠ p) : (s.pendWith p x).pin q = s.pin q := State.updPin_pin_ne _ _ _ _ hq

theorem State.pendWith_reg (a : Nat) : (s.pendWith p x).reg a = s.reg a := by rfl

theorem State.pendWith_fbit (a : Nat) (f : Fld) (n : Nat) : (s.pendWith p x).fbit a f n = s.fbit a f n := by rfl

theorem State.drivenBy_pin_ne {q : Nat} (hq : q ≠ p) : (s.drivenBy p x).pin q = s.pin q := State.updPin_pin_ne _ _ _ _ hq

theorem State.mergeEdge_first (h : (s.pin p).pendEdge = none) : s.mergeEdge p x = s.pendWith p x := by
  rw [State.mergeEdge, h]
  rfl

theorem State.mergeEdge_placed {y : PendingEdge} (h : (s.pin p).pendEdge = some y) (ht : y.time + 64 ≤ x.time) :
    s.mergeEdge p x = (s.placeEdge p y).pendWith p x := by
  rw [State.mergeEdge, h]
  dsimp only
  rw [if_neg (by omega)]
  rfl

/-- MERGED of a pin sets. -/
def State.setMerged (s : State) (p : Nat) : State := s.orBit (TMG_EDGE_STAT (pinCl p)) TMG_EDGE_STAT_MERGED (pinUnit p)

theorem State.mergeEdge_merged {y : PendingEdge} (h : (s.pin p).pendEdge = some y) (ht : x.time < y.time + 64) :
    s.mergeEdge p x = if edgePrio y.kind < edgePrio x.kind then (s.setMerged p).pendWith p x else s.setMerged p := by
  rw [State.mergeEdge, h]
  dsimp only
  rw [if_pos ht]
  rfl

theorem State.setMerged_pin (q : Nat) : (s.setMerged p).pin q = s.pin q := State.orBit_pin ..

theorem State.setMerged_fbit : (s.setMerged p).fbit (TMG_EDGE_STAT (pinCl p)) TMG_EDGE_STAT_MERGED (pinUnit p) = true :=
  State.orBit_fbit _ _ _ _ (by decide) (by decide) (Nat.mod_lt p (by decide))

theorem State.setMerged_reg {a : Nat} (h : a ≠ TMG_EDGE_STAT (pinCl p)) : (s.setMerged p).reg a = s.reg a :=
  State.orBit_reg_ne _ _ _ _ _ h

theorem State.setMerged_frame : ∃ r, s.setMerged p = { s with regs := r } := State.setFld_frame ..

/-- The edge of higher priority stays, the pending one on a tie. -/
theorem State.mergeEdge_prior {y : PendingEdge} (h : (s.pin p).pendEdge = some y) (ht : x.time < y.time + 64) :
    (s.mergeEdge p x).pin p = { s.pin p with pendEdge := some (if edgePrio y.kind < edgePrio x.kind then x else y) } ∧
      (s.mergeEdge p x).fbit (TMG_EDGE_STAT (pinCl p)) TMG_EDGE_STAT_MERGED (pinUnit p) = true ∧
      (∀ q, q ≠ p → (s.mergeEdge p x).pin q = s.pin q) ∧
      s.mergeEdge p x = { s with pins := (s.mergeEdge p x).pins, regs := (s.mergeEdge p x).regs } ∧
      s.regsKept (s.mergeEdge p x) [TMG_EDGE_STAT (pinCl p)] := by
  have hkept : s.regsKept (s.setMerged p) [TMG_EDGE_STAT (pinCl p)] := fun a ha => s.setMerged_reg p (fun e => ha (by simp [e]))
  obtain ⟨r, hr⟩ := s.setMerged_frame p
  rw [s.mergeEdge_merged p x h ht]
  split
  · refine ⟨?_, (State.pendWith_fbit ..).trans (s.setMerged_fbit p), fun q hq => ?_, ?_,
      fun a ha => (State.pendWith_reg ..).trans (hkept a ha)⟩
    · rw [State.pendWith_pin, State.setMerged_pin]
    · rw [State.pendWith_pin_ne _ _ _ hq, State.setMerged_pin]
    · rw [hr]
      rfl
  · refine ⟨?_, s.setMerged_fbit p, fun q _ => s.setMerged_pin p q, ?_, hkept⟩
    · rw [State.setMerged_pin, ← h]
    · rw [hr]

/-- The pending edge is placed and the new one waits. -/
theorem State.mergeEdge_later {y : PendingEdge} (h : (s.pin p).pendEdge = some y) (ht : y.time + 64 ≤ x.time) :
    (s.mergeEdge p x).pin p = { s.pin p with
      pendEdge := some x, on := y.turnOn.getD (s.pin p).on, level := y.level.getD (s.pin p).level } ∧
    (∀ q, q ≠ p → (s.mergeEdge p x).pin q = s.pin q) ∧
    (s.mergeEdge p x).outs = s.outs ++ (s.mergeEdge p x).edgeOuts p (y.time + y.trim) ∧
    s.mergeEdge p x = { s with pins := (s.mergeEdge p x).pins, outs := (s.mergeEdge p x).outs } := by
  rw [s.mergeEdge_placed p x h ht, State.placeEdge_eq]
  refine ⟨?_, fun q hq => ?_, ?_, rfl⟩
  · rw [State.pendWith_pin]
    exact congrArg (fun z : PinSt => { z with pendEdge := some x }) (s.drivenBy_pin p y)
  · exact (State.pendWith_pin_ne _ _ _ hq).trans (s.drivenBy_pin_ne p y hq)
  · have houts : ∀ t l, ((State.sendAll t l).pendWith p x).edgeOuts p (y.time + y.trim) = t.edgeOuts p (y.time + y.trim) := by
      intro t l
      unfold State.edgeOuts State.contactOut
      rw [State.pendWith_pin]
      unfold State.pendWith
      simp only [State.pendEdge_contactAs, State.sendAll_contactAs]
      rfl
    rw [houts]
    rfl

end

section

variable {p : PinNo} {k : EdgeKind} {start : Nat} {x : Cycle} {s : State} (hcycle : s.cycleOf p.val start = some x)

include hcycle

theorem exec_driveEdge_none (h : x.missing = true ∨ x.idle = true ∨ (x.unpred = false ∧ x.used (edgeIdx k) = none)) :
    exec (.driveEdge p k start) s = .next s := by
  have hexec : exec (.driveEdge p k start) s = execDriveEdge p k start s := rfl
  rw [hexec, execDriveEdge, hcycle]
  dsimp only
  obtain h | h | ⟨hu, he⟩ := h
  · rw [h, Bool.true_or, if_pos rfl]
  · rw [h, Bool.or_true, if_pos rfl]
  · rw [hu, he]
    split <;> rfl

theorem exec_driveEdge_free (hm : x.missing = false) (hi : x.idle = false) (hu : x.unpred = true) :
    exec (.driveEdge p k start) s = .next ((s.at start).freeEdge p.val start) := by
  have hexec : exec (.driveEdge p k start) s = execDriveEdge p k start s := rfl
  rw [hexec, execDriveEdge, hcycle]
  dsimp only
  rw [hm, hi, hu, Bool.false_or, if_neg Bool.false_ne_true, if_pos rfl]

theorem exec_driveEdge_used {ed : EdgeWord} (hm : x.missing = false) (hi : x.idle = false) (hu : x.unpred = false)
    (he : x.used (edgeIdx k) = some ed) : exec (.driveEdge p k start) s =
    if x.cutAt (start + ed.grain) || x.beforeDz (start + ed.grain) || s.missingAt (pinCl p.val) (start + ed.grain) then .next s
    else .next ((s.at (start + ed.grain)).mergeEdge p.val ⟨start * 64 + ed.time, k, (edgeAction x.stream x.shape x.code k).1,
      (edgeAction x.stream x.shape x.code k).2, x.trims.getD (edgeIdx k) 0⟩) := by
  have hexec : exec (.driveEdge p k start) s = execDriveEdge p k start s := rfl
  rw [hexec, execDriveEdge, hcycle]
  dsimp only
  rw [hm, hi, hu, he, Bool.false_or, if_neg Bool.false_ne_true, if_neg Bool.false_ne_true]

end

end Sys2Proof.Machine
end

section
namespace Sys2Proof.Machine

/-! The statement's clauses for the start of a cycle and for an edge that joins the merge. -/

section

variable (p : Nat) {time : Int} (s : State)

theorem State.edgeOuts_barred (h : (s.pin p).held = true) (ht : ((s.pin p).heldFrom : Int) * 64 ≤ time) : s.edgeOuts p time = [] := by
  rw [State.edgeOuts, h, decide_eq_true ht]
  rfl

theorem State.edgeOuts_free (h : (s.pin p).held = false) : s.edgeOuts p time = [s.contactOut p (time / 64).toNat time] := by
  rw [State.edgeOuts, h]
  rfl

theorem State.edgeOuts_until (h : (s.pin p).held = true) (ht : time < ((s.pin p).heldFrom : Int) * 64) : s.edgeOuts p time =
    [s.contactOut p (time / 64).toNat time, s.contactOut p (s.pin p).heldFrom (64 * (s.pin p).heldFrom)] := by
  rw [State.edgeOuts, h, decide_eq_false (by omega)]
  rfl

end

section

variable {p : PinNo} {g : Nat} {s : State} {n y : PendingEdge}

theorem mergeEdge_at_first (h : (s.pin p.val).pendEdge = none) : ∃ t, (s.at g).mergeEdge p.val n = t ∧
    t.pin p.val = { s.pin p.val with pendEdge := some n } ∧ (∀ q, q ≠ p.val → t.pin q = s.pin q) ∧
    t = { s with gt := max s.gt g, pins := t.pins } := by
  refine ⟨_, (s.at g).mergeEdge_first p.val n h, (s.at g).pendWith_pin p.val n, fun q hq => ?_, rfl⟩
  exact (s.at g).pendWith_pin_ne p.val n hq

theorem mergeEdge_at_prior (h : (s.pin p.val).pendEdge = some y) (ht : n.time < y.time + 64) : ∃ t, (s.at g).mergeEdge p.val n = t ∧
    t.pin p.val = { s.pin p.val with pendEdge := some (if edgePrio y.kind < edgePrio n.kind then n else y) } ∧
    t.fbit (TMG_EDGE_STAT (pinCl p.val)) TMG_EDGE_STAT_MERGED (pinUnit p.val) = true ∧ (∀ q, q ≠ p.val → t.pin q = s.pin q) ∧
    t = { s with gt := max s.gt g, pins := t.pins, regs := t.regs } ∧ s.regsKept t [TMG_EDGE_STAT (pinCl p.val)] :=
  ⟨_, rfl, (s.at g).mergeEdge_prior p.val n h ht⟩

theorem mergeEdge_at_later {time : Int} (h : (s.pin p.val).pendEdge = some y) (ht : y.time + 64 ≤ n.time)
    (htime : time = (y.time : Int) + y.trim) : ∃ t, (s.at g).mergeEdge p.val n = t ∧
    t.pin p.val = { s.pin p.val with
      pendEdge := some n, on := y.turnOn.getD (s.pin p.val).on, level := y.level.getD (s.pin p.val).level } ∧
    (∀ q, q ≠ p.val → t.pin q = s.pin q) ∧
    (((s.pin p.val).held = true ∧ ((s.pin p.val).heldFrom : Int) * 64 ≤ time) → t.outs = s.outs) ∧
    ((s.pin p.val).held = false → t.outs = s.outs ++ [.contact p.val time
      (t.contactAs p.val (time / 64).toNat (t.pin p.val).on (t.pin p.val).level)]) ∧
    (((s.pin p.val).held = true ∧ time < ((s.pin p.val).heldFrom : Int) * 64) → t.outs = s.outs ++ [
      .contact p.val time (t.contactAs p.val (time / 64).toNat (t.pin p.val).on (t.pin p.val).level),
      .contact p.val (64 * (s.pin p.val).heldFrom)
        (t.contactAs p.val (s.pin p.val).heldFrom (t.pin p.val).on (t.pin p.val).level)]) ∧
    t = { s with gt := max s.gt g, pins := t.pins, outs := t.outs } := by
  obtain ⟨hpin, hpins, houts, hframe⟩ := (s.at g).mergeEdge_later p.val n h ht
  rw [← htime] at houts
  generalize (s.at g).mergeEdge p.val n = t at hpin hpins houts hframe
  have hheld : (t.pin p.val).held = (s.pin p.val).held := (congrArg PinSt.held hpin :)
  have hfrom : (t.pin p.val).heldFrom = (s.pin p.val).heldFrom := (congrArg PinSt.heldFrom hpin :)
  refine ⟨t, rfl, hpin, hpins, fun ⟨hh, hle⟩ => ?_, fun hh => ?_, fun ⟨hh, hlt⟩ => ?_, hframe⟩
  · rw [houts, t.edgeOuts_barred p.val (hheld.trans hh) (hfrom ▸ hle), List.append_nil, State.at_outs]
  · rw [houts, t.edgeOuts_free p.val (hheld.trans hh), State.at_outs]
    rfl
  · rw [houts, t.edgeOuts_until p.val (hheld.trans hh) (hfrom ▸ hlt), hfrom, State.at_outs]
    rfl

end

/-- Settles O23: the cases of a start, with `CycleStarted` for what it leaves; those of an edge, with a lemma for each way it merges. -/
theorem pinsDriveTheirEdges : Obligations.PinsDriveTheirEdges := by
  unfold Obligations.PinsDriveTheirEdges
  refine ⟨fun p g e k w finds s hserved hunpred hindex hword => ⟨fun hmiss hv y v hvdef hslot => ?_, fun hmiss => ?_⟩,
    fun p k start x s hcycle => ⟨exec_driveEdge_none hcycle, exec_driveEdge_free hcycle, fun ed hm hi hu he => ?_⟩⟩
  · subst hvdef
    have hexec := fun finds => exec_cycleStart_vector (finds := finds) hserved hunpred hindex hword hmiss hv hslot
    refine ⟨fun f hf => ?_, fun u hf hd => ?_, fun u base hf hd hw => ?_⟩
    · rw [hexec, State.startVector_fault _ _ _ _ _ _ _ _ _ hf]
    · rw [hexec, State.startVector_lost _ _ _ _ _ _ _ _ _ hf hd]
    · obtain ⟨t, x, ht, hstarted, hstart, heng, hvaddr, hts, hcode, hcount, hperiod⟩ := exec_cycleStart_coded hexec hf hd hw
      exact ⟨t, x, ht, hstarted.cyc, hstart, heng, hvaddr, hts, hcode, hcount, hperiod, hstarted.pins, hstarted.kept⟩
  · obtain ⟨t, x, ht, hstarted, hmissing, hedges, hstart⟩ := cycleStart_missing (finds := finds) hserved hunpred hindex hword hmiss
    obtain ⟨-, -, hkept⟩ := hstarted.kept
    exact ⟨t, x, ht, hstarted.cyc, hmissing, hedges, hstart, hstarted.pins, hkept⟩
  · have hexec := exec_driveEdge_used hcycle hm hi hu he
    refine ⟨fun hcut => ?_, fun hcut hdz hmiss n hn => ?_⟩
    · rw [hexec, if_pos (by rwa [Bool.or_eq_true, Bool.or_eq_true, or_assoc])]
    · rw [hexec, hcut, hdz, hmiss, ← hn, if_neg (by decide)]
      simp only [Host.Outcome.next.injEq]
      exact ⟨mergeEdge_at_first, fun y => mergeEdge_at_prior, fun y time => mergeEdge_at_later⟩

end Sys2Proof.Machine
end
section
namespace Sys2Proof.Machine

/-! What an event offered to one time-interval unit may change (R119-R127), and what the offer to all 16 units of a cluster comes to. -/

/-- A pin but for its time-interval unit. -/
def PinSt.sansTia (x : PinSt) : PinSt := { x with tia := {} }

/-- The state without the registers and the pins. -/
def State.sansTia (s : State) : State := { s with regs := [], pins := [] }

/-- What unit u of cluster c goes by and what it keeps: the values in force, its queues and TIA_STAT. -/
def State.unitView (c u : Nat) (s : State) : Tbl Word × Tia × Word := (s.force, (s.pin (16 * c + u)).tia, s.reg (TIA_STAT c u))

theorem tiaStat_inj {c u v : Nat} : TIA_STAT c u = TIA_STAT c v ↔ u = v := by
  unfold TIA_STAT
  omega

theorem State.eq_of_sansTia {s t : State} (h : t.sansTia = s.sansTia) : t = { s with regs := t.regs, pins := t.pins } :=
  congrArg (fun x : State => { x with regs := t.regs, pins := t.pins }) h

/-- From s to t nothing changes but unit u of cluster c and its TIA_STAT. -/
structure TiaOnly (c u : Nat) (s t : State) : Prop where
  rest : t.sansTia = s.sansTia
  reg : ∀ a, a ≠ TIA_STAT c u → t.reg a = s.reg a
  pin : ∀ q, q ≠ 16 * c + u → t.pin q = s.pin q
  own : ∀ q, (t.pin q).sansTia = (s.pin q).sansTia

namespace TiaOnly

variable {c u : Nat} {s t w : State}

theorem refl (c u : Nat) (s : State) : TiaOnly c u s s := ⟨rfl, fun _ _ => rfl, fun _ _ => rfl, fun _ => rfl⟩

theorem trans (h : TiaOnly c u s t) (k : TiaOnly c u t w) : TiaOnly c u s w :=
  ⟨k.rest.trans h.rest, fun a ha => (k.reg a ha).trans (h.reg a ha), fun q hq => (k.pin q hq).trans (h.pin q hq),
    fun q => (k.own q).trans (h.own q)⟩

theorem ite {b : Prop} [Decidable b] (h : TiaOnly c u s t) (k : TiaOnly c u s w) : TiaOnly c u s (if b then t else w) := by
  split <;> assumption

theorem unitView_ne (h : TiaOnly c u s t) {v : Nat} (hv : u ≠ v) : t.unitView c v = s.unitView c v :=
  Prod.ext (congrArg State.force h.rest :)
    (Prod.ext (congrArg PinSt.tia (h.pin _ (by omega))) (h.reg _ fun e => hv (tiaStat_inj.mp e).symm))

end TiaOnly

/-! Each step of one unit. -/

section

variable (s : State) (c u : Nat)

theorem State.updTia_only (f : Tia → Tia) : TiaOnly c u s (s.updPin (16 * c + u) fun y => { y with tia := f y.tia }) := by
  refine ⟨rfl, fun _ _ => rfl, fun q hq => State.updPin_pin_ne _ _ _ _ hq, fun q => ?_⟩
  by_cases e : q = 16 * c + u
  · rw [e, State.updPin_pin]
    rfl
  · rw [State.updPin_pin_ne _ _ _ _ e]

theorem State.countSat_sansTia (a : Nat) (f : Fld) (k : Nat) : (s.countSat a f k).sansTia = s.sansTia := by rfl

theorem State.tiaDrop_only : TiaOnly c u s (s.tiaDrop c u) := by
  unfold State.tiaDrop
  exact ⟨s.countSat_sansTia .., fun a ha => s.countSat_reg_ne _ _ _ a ha, fun q _ => s.countSat_pin ..,
    fun q => congrArg PinSt.sansTia (s.countSat_pin ..)⟩

theorem State.tiaPush_only (x : TiaEntry) : TiaOnly c u s (s.tiaPush c u x) :=
  .ite (s.tiaDrop_only c u) (s.updTia_only c u fun y => { y with results := y.results ++ [x] })

theorem State.tiaStart_only (t : Nat) : TiaOnly c u s (s.tiaStart c u t) := by
  unfold State.tiaStart
  dsimp only
  split
  · next e r _ => exact (s.updTia_only c u fun y => { y with stops := r }).trans (State.tiaPush_only _ c u _)
  · exact .ite (s.tiaDrop_only c u) (s.updTia_only c u fun y => { y with starts := y.starts ++ [t] })

theorem State.tiaStop_only (t : Nat) : TiaOnly c u s (s.tiaStop c u t) := by
  unfold State.tiaStop
  dsimp only
  split
  · next b r _ => exact (s.updTia_only c u fun y => { y with starts := r }).trans (State.tiaPush_only _ c u _)
  · exact .ite (s.tiaDrop_only c u) (s.updTia_only c u fun y => { y with stops := y.stops ++ [t] })

theorem State.tiaEvent_only (src g t : Nat) (rising : Bool) : TiaOnly c u s (s.tiaEvent c src g t rising u) :=
  have hstart := s.tiaStart_only c u t
  have hstop := s.tiaStop_only c u t
  .ite (.ite (.ite (s.tiaPush_only c u _) (.refl c u s)) (.ite (.ite hstart hstop) (.ite hstart (.ite hstop (.refl c u s))))) (.refl c u s)

/-- A further edge of a direction within a grain, at one unit: dropped where the unit uses the pin (R120). -/
def State.tiaMissed (s : State) (c src u : Nat) : State := if s.tiaUses c u src then s.tiaDrop c u else s

theorem State.tiaMissed_only (src : Nat) : TiaOnly c u s (s.tiaMissed c src u) := .ite (s.tiaDrop_only c u) (.refl c u s)

theorem State.tiaDrop_pin (q : Nat) : (s.tiaDrop c u).pin q = s.pin q := by
  unfold State.tiaDrop
  exact s.countSat_pin ..

theorem State.tiaDrop_fld : (s.tiaDrop c u).fld (TIA_STAT c u) TIA_STAT_DROP =
    min (2 ^ TIA_STAT_DROP.width - 1) (s.fld (TIA_STAT c u) TIA_STAT_DROP + 1) := by
  unfold State.tiaDrop
  rw [State.countSat_fld _ _ _ _ (by decide) (by decide), satAdd, Nat.min_comm]

theorem State.tiaMissed_fld (src : Nat) : (s.tiaMissed c src u).fld (TIA_STAT c u) TIA_STAT_DROP =
    min (2 ^ TIA_STAT_DROP.width - 1) (s.fld (TIA_STAT c u) TIA_STAT_DROP + if s.tiaUses c u src then 1 else 0) := by
  have hlt := s.fld_lt (TIA_STAT c u) TIA_STAT_DROP
  unfold State.tiaMissed
  split
  · exact s.tiaDrop_fld c u
  · omega

end

/-! All 16 units. -/

section

variable {c : Nat} {f : State → Nat → State} (hf : ∀ u t, TiaOnly c u t (f t u)) (s : State)

include hf

theorem foldUnits_sansTia : ((List.range 16).foldl f s).sansTia = s.sansTia := foldl_obs f State.sansTia (fun t u => (hf u t).rest) _ s

theorem foldUnits_own (q : Nat) : (((List.range 16).foldl f s).pin q).sansTia = (s.pin q).sansTia :=
  foldl_obs f (fun t => (t.pin q).sansTia) (fun t u => (hf u t).own q) _ s

theorem foldUnits_regsKept : s.regsKept ((List.range 16).foldl f s) ((List.range 16).map (TIA_STAT c)) := fun a ha =>
  foldl_obs_mem f (·.reg a) _ (fun _ hu t => (hf _ t).reg a fun e => ha (e ▸ List.mem_map_of_mem hu)) s

theorem foldUnits_pin {q : Nat} (hq : pinCl q ≠ c) : ((List.range 16).foldl f s).pin q = s.pin q := by
  refine foldl_obs_mem f (·.pin q) _ (fun u hu t => (hf u t).pin q fun e => hq ?_) s
  have := List.mem_range.mp hu
  unfold pinCl
  omega

/-- The fold does to a unit what the unit's own step does, in a state that the unit cannot tell from the first. -/
theorem foldUnits_unit {u : Nat} (hu : u < 16) : ∃ a : State, a.unitView c u = s.unitView c u ∧
    ((List.range 16).foldl f s).unitView c u = (f a u).unitView c u := by
  obtain ⟨l, r, hl⟩ := List.append_of_mem (List.mem_range.mpr hu)
  have hnodup : (l ++ u :: r).Nodup := hl ▸ List.nodup_range
  obtain ⟨hunot, -⟩ := List.nodup_cons.mp (List.nodup_middle.mp hnodup)
  have hkeep : ∀ k : List Nat, u ∉ k → ∀ t, (k.foldl f t).unitView c u = t.unitView c u := fun k hk =>
    foldl_obs_mem f (State.unitView c u) k fun v hv t => (hf v t).unitView_ne fun e => hk (e ▸ hv)
  rw [hl, List.foldl_append, List.foldl_cons]
  exact ⟨l.foldl f s, hkeep l (fun h => hunot (List.mem_append_left _ h)) s, hkeep r (fun h => hunot (List.mem_append_right _ h)) _⟩

end

/-! A unit's settings follow from its view. -/

section

variable {c u : Nat} {s t : State} (h : t.unitView c u = s.unitView c u)

include h

theorem State.tia_of_unitView : (t.pin (16 * c + u)).tia = (s.pin (16 * c + u)).tia := congrArg (·.2.1) h

theorem State.stat_of_unitView : t.reg (TIA_STAT c u) = s.reg (TIA_STAT c u) := congrArg (·.2.2) h

theorem State.ffld_of_unitView (a : Nat) (f : Fld) : t.ffld a f = s.ffld a f :=
  congrArg (fun x : Tbl Word × Tia × Word => getF (tget regReset x.1 a) f) h

theorem State.tiaMode_of_unitView : t.tiaMode c u = s.tiaMode c u := by
  simp only [State.tiaMode, State.ffld_of_unitView h]

theorem State.tiaUses_of_unitView (src : Nat) : t.tiaUses c u src = s.tiaUses c u src := by
  simp only [State.tiaUses, State.tiaMode_of_unitView h, State.ffld_of_unitView h]

end

end Sys2Proof.Machine
end

section
namespace Sys2Proof.Machine

/-! An edge that a pin's receiver sees (R119-R123, R127). -/

section

variable {s : State} {c u src g t : Nat} {rising : Bool}

theorem State.tiaEvent_unused (h : s.tiaUses c u src = false) : s.tiaEvent c src g t rising u = s := by
  simp [State.tiaEvent, h]

/-- A unit in STAMP mode whose start is this edge, and whose GATE is 0, takes it (R121, R123). -/
theorem State.tiaEvent_stamps (hm : s.tiaMode c u = 1) (hs : s.ffld (TMG_TIA_CTRL c u) TMG_TIA_CTRL_START_SRC = src)
    (he : edgeMatches (s.ffld (TMG_TIA_CTRL c u) TMG_TIA_CTRL_START_EDGE) rising = true)
    (hg : s.fbitF (TMG_TIA_CTRL c u) TMG_TIA_CTRL_GATE = false) :
    s.tiaEvent c src g t rising u = s.tiaPush c u (stampEntry t rising) := by
  simp [State.tiaEvent, State.tiaUses, State.tiaGate, hm, hs, he, hg]

theorem State.tiaPush_room (x : TiaEntry) (h : (s.pin (16 * c + u)).tia.results.length < 64) :
    ((s.tiaPush c u x).pin (16 * c + u)).tia.results = (s.pin (16 * c + u)).tia.results ++ [x] ∧
      (s.tiaPush c u x).reg (TIA_STAT c u) = s.reg (TIA_STAT c u) := by
  rw [State.tiaPush, if_neg (by omega), State.updPin_pin]
  exact ⟨rfl, rfl⟩

theorem State.tiaPush_full (x : TiaEntry) (h : 64 ≤ (s.pin (16 * c + u)).tia.results.length) : s.tiaPush c u x = s.tiaDrop c u := if_pos h

end

/-- A pin notes the grain of the edge that is stamped, by its direction (R119). -/
def PinSt.noteEdge (x : PinSt) (rising : Bool) (g : Nat) : PinSt :=
  if rising then { x with lastRise := some g } else { x with lastFall := some g }

/-- The grain of the last stamped edge of a direction. -/
def PinSt.lastEdge (x : PinSt) (rising : Bool) : Option Nat := if rising then x.lastRise else x.lastFall

theorem PinSt.noteEdge_lastEdge (x : PinSt) (rising : Bool) (g : Nat) : (x.noteEdge rising g).lastEdge rising = some g := by
  cases rising <;> rfl

theorem PinSt.noteEdge_tia (x : PinSt) (rising : Bool) (g : Nat) : (x.noteEdge rising g).tia = x.tia := by
  cases rising <;> rfl

theorem PinSt.lastEdge_of_sansTia {x y : PinSt} (h : x.sansTia = y.sansTia) (rising : Bool) : x.lastEdge rising = y.lastEdge rising :=
  (congrArg (fun z : PinSt => z.lastEdge rising) h :)

/-- The state in which the first edge of its direction in its grain is offered to the units. -/
def State.edgeNoted (s : State) (p : Nat) (rising : Bool) (g : Nat) : State := (s.at g).updPin p fun y => y.noteEdge rising g

theorem State.edgeNoted_unitView (s : State) (p : Nat) (rising : Bool) (g c u : Nat) :
    (s.edgeNoted p rising g).unitView c u = s.unitView c u := by
  refine Prod.ext rfl (Prod.ext ?_ rfl)
  by_cases e : 16 * c + u = p
  · rw [State.unitView, State.unitView, e, State.edgeNoted, State.updPin_pin]
    exact PinSt.noteEdge_tia ..
  · exact congrArg PinSt.tia (State.updPin_pin_ne _ _ _ _ e)

section

variable (p : PinNo) (rising : Bool) (t16 : Nat) (s : State)

/-- The state after a first edge has been offered to the 16 units. -/
def State.edgeStamped (s : State) (p : Nat) (rising : Bool) (t16 : Nat) : State :=
  (List.range 16).foldl (fun t u => t.tiaEvent (pinCl p) (pinUnit p) (t16 / 1024) (s.stampTime p t16) rising u)
    (s.edgeNoted p rising (t16 / 1024))

/-- The state after a further edge has been dropped by the units that use the pin. -/
def State.edgeMissed (s : State) (p t16 : Nat) : State :=
  (List.range 16).foldl (fun t u => t.tiaMissed (pinCl p) (pinUnit p) u) (s.at (t16 / 1024))

theorem exec_pinEdgeStamped_first (h : (s.pin p.val).lastEdge rising ≠ some (t16 / 1024)) :
    exec (.pinEdgeStamped p rising t16) s = .next (s.edgeStamped p.val rising t16) := if_neg h

theorem exec_pinEdgeStamped_further (h : (s.pin p.val).lastEdge rising = some (t16 / 1024)) :
    exec (.pinEdgeStamped p rising t16) s = .next (s.edgeMissed p.val t16) := if_pos h

end

end Sys2Proof.Machine
end

section
namespace Sys2Proof.Machine

/-! What the units of the cluster hold after a first edge, and after a further one. -/

section

variable {p : Nat} {rising : Bool} {t16 u : Nat} {s : State}

theorem State.edgeStamped_unit (hu : u < 16) : ∃ a : State, a.unitView (pinCl p) u = s.unitView (pinCl p) u ∧
    (s.edgeStamped p rising t16).unitView (pinCl p) u =
      (a.tiaEvent (pinCl p) (pinUnit p) (t16 / 1024) (s.stampTime p t16) rising u).unitView (pinCl p) u := by
  obtain ⟨a, ha, hstamped⟩ := foldUnits_unit
    (fun u t => t.tiaEvent_only (pinCl p) u (pinUnit p) (t16 / 1024) (s.stampTime p t16) rising) (s.edgeNoted p rising (t16 / 1024)) hu
  exact ⟨a, ha.trans (s.edgeNoted_unitView ..), hstamped⟩

/-- A unit in STAMP mode that takes the edge as its start (R121, R123, R127). -/
theorem State.edgeStamped_takes (hu : u < 16) (hm : s.tiaMode (pinCl p) u = 1)
    (hs : s.ffld (TMG_TIA_CTRL (pinCl p) u) TMG_TIA_CTRL_START_SRC = pinUnit p)
    (he : edgeMatches (s.ffld (TMG_TIA_CTRL (pinCl p) u) TMG_TIA_CTRL_START_EDGE) rising = true)
    (hg : s.fbitF (TMG_TIA_CTRL (pinCl p) u) TMG_TIA_CTRL_GATE = false) :
    ((s.pin (16 * pinCl p + u)).tia.results.length < 64 →
      ((s.edgeStamped p rising t16).pin (16 * pinCl p + u)).tia.results =
        (s.pin (16 * pinCl p + u)).tia.results ++ [stampEntry (s.stampTime p t16) rising] ∧
      (s.edgeStamped p rising t16).reg (TIA_STAT (pinCl p) u) = s.reg (TIA_STAT (pinCl p) u)) ∧
    (64 ≤ (s.pin (16 * pinCl p + u)).tia.results.length →
      ((s.edgeStamped p rising t16).pin (16 * pinCl p + u)).tia = (s.pin (16 * pinCl p + u)).tia ∧
      (s.edgeStamped p rising t16).fld (TIA_STAT (pinCl p) u) TIA_STAT_DROP =
        min (2 ^ TIA_STAT_DROP.width - 1) (s.fld (TIA_STAT (pinCl p) u) TIA_STAT_DROP + 1)) := by
  obtain ⟨a, ha, hstamped⟩ := s.edgeStamped_unit (rising := rising) (t16 := t16) hu
  have htia := State.tia_of_unitView ha
  rw [State.tiaEvent_stamps ((State.tiaMode_of_unitView ha).trans hm) ((State.ffld_of_unitView ha ..).trans hs)
    (by rwa [State.ffld_of_unitView ha]) (by rwa [State.fbitF, State.ffld_of_unitView ha])] at hstamped
  rw [← htia, State.tia_of_unitView hstamped, State.stat_of_unitView hstamped, State.fld_of_reg _ (State.stat_of_unitView hstamped),
    ← State.stat_of_unitView ha, ← State.fld_of_reg _ (State.stat_of_unitView ha)]
  refine ⟨fun h => State.tiaPush_room _ h, fun h => ?_⟩
  rw [State.tiaPush_full _ h]
  exact ⟨congrArg PinSt.tia (a.tiaDrop_pin ..), a.tiaDrop_fld ..⟩

theorem State.edgeStamped_unused (hu : u < 16) (h : s.tiaUses (pinCl p) u (pinUnit p) = false) :
    ((s.edgeStamped p rising t16).pin (16 * pinCl p + u)).tia = (s.pin (16 * pinCl p + u)).tia ∧
      (s.edgeStamped p rising t16).reg (TIA_STAT (pinCl p) u) = s.reg (TIA_STAT (pinCl p) u) := by
  obtain ⟨a, ha, hstamped⟩ := s.edgeStamped_unit (rising := rising) (t16 := t16) hu
  rw [State.tiaEvent_unused ((State.tiaUses_of_unitView ha _).trans h)] at hstamped
  have hview := hstamped.trans ha
  exact ⟨State.tia_of_unitView hview, State.stat_of_unitView hview⟩

theorem State.edgeStamped_lastEdge : ((s.edgeStamped p rising t16).pin p).lastEdge rising = some (t16 / 1024) := by
  rw [State.edgeStamped, PinSt.lastEdge_of_sansTia (foldUnits_own (fun u t => t.tiaEvent_only (pinCl p) u ..) _ p), State.edgeNoted,
    State.updPin_pin]
  exact PinSt.noteEdge_lastEdge ..

theorem State.edgeStamped_pin {q : Nat} (hq : pinCl q ≠ pinCl p) : (s.edgeStamped p rising t16).pin q = s.pin q :=
  (foldUnits_pin (fun u t => t.tiaEvent_only (pinCl p) u ..) _ hq).trans (State.updPin_pin_ne _ _ _ _ fun e => hq (congrArg pinCl e))

theorem State.edgeStamped_frame : s.edgeStamped p rising t16 =
    { s with gt := max s.gt (t16 / 1024), regs := (s.edgeStamped p rising t16).regs, pins := (s.edgeStamped p rising t16).pins } :=
  State.eq_of_sansTia (foldUnits_sansTia (fun u t => t.tiaEvent_only (pinCl p) u ..) _)

theorem State.edgeStamped_regsKept : s.regsKept (s.edgeStamped p rising t16) ((List.range 16).map (TIA_STAT (pinCl p))) :=
  foldUnits_regsKept (fun u t => t.tiaEvent_only (pinCl p) u ..) (s.edgeNoted p rising (t16 / 1024))

theorem State.edgeMissed_fld (hu : u < 16) : (s.edgeMissed p t16).fld (TIA_STAT (pinCl p) u) TIA_STAT_DROP =
    min (2 ^ TIA_STAT_DROP.width - 1)
      (s.fld (TIA_STAT (pinCl p) u) TIA_STAT_DROP + if s.tiaUses (pinCl p) u (pinUnit p) then 1 else 0) := by
  obtain ⟨a, ha, hmissed⟩ := foldUnits_unit (fun u t => t.tiaMissed_only (pinCl p) u (pinUnit p)) (s.at (t16 / 1024)) hu
  have hview : a.unitView (pinCl p) u = s.unitView (pinCl p) u := ha
  rw [State.edgeMissed, State.fld_of_reg _ (State.stat_of_unitView hmissed), State.tiaMissed_fld, State.tiaUses_of_unitView hview,
    State.fld_of_reg _ (State.stat_of_unitView hview)]

theorem State.tiaMissed_pins (s : State) (c src u : Nat) : (s.tiaMissed c src u).pins = s.pins := by
  unfold State.tiaMissed State.tiaDrop
  split
  · obtain ⟨r, hr⟩ := s.countSat_frame (TIA_STAT c u) TIA_STAT_DROP 1
    rw [hr]
  · rfl

theorem State.edgeMissed_frame : s.edgeMissed p t16 = { s with gt := max s.gt (t16 / 1024), regs := (s.edgeMissed p t16).regs } := by
  have hpins : (s.edgeMissed p t16).pins = s.pins := foldl_obs _ State.pins (fun t u => t.tiaMissed_pins _ _ u) _ _
  have hframe := State.eq_of_sansTia (foldUnits_sansTia (fun u t => t.tiaMissed_only (pinCl p) u (pinUnit p)) (s.at (t16 / 1024)))
  exact hframe.trans (congrArg (fun x => { s with gt := max s.gt (t16 / 1024), regs := (s.edgeMissed p t16).regs, pins := x }) hpins)

theorem State.edgeMissed_regsKept : s.regsKept (s.edgeMissed p t16) ((List.range 16).map (TIA_STAT (pinCl p))) :=
  foldUnits_regsKept (fun u t => t.tiaMissed_only (pinCl p) u (pinUnit p)) (s.at (t16 / 1024))

end

end Sys2Proof.Machine
end

section
namespace Sys2Proof.Machine

/-! Where a cluster's register lies, and a field that a partner's write gives. -/

theorem regLoc_clBlk {c blk o : Nat} (hc : c < 64) (hb : blk < 16) (ho : o < 0x100000) :
    regLoc (clBlk c blk + o) = some ⟨0, c, blk, o⟩ := by
  unfold regLoc clBlk
  rw [if_pos (by omega)]
  simp only [Option.some.injEq, RegLoc.mk.injEq, true_and]
  omega

theorem getF_lt (w : Word) (f : Fld) : getF w f < 2 ^ f.width := Nat.mod_lt _ (Nat.two_pow_pos _)

theorem testBit_getF (w : Word) (f : Fld) (i : Nat) : (getF w f).testBit i = (decide (i < f.width) && w.getLsbD (f.lo + i)) := by
  unfold getF
  rw [Nat.testBit_mod_two_pow, Nat.testBit_div_two_pow, BitVec.getLsbD, Nat.add_comm]

/-- A field whose bits a write gives, and of which no bit is W1C, reads what is written (R20). -/
theorem getF_writeWord {x : RegRow} {f : Fld} {be : BitVec 4} (old v : Word)
    (hrw : ∀ i, i < f.width → (BitVec.ofNat 32 x.rw &&& beMask be).getLsbD (f.lo + i) = true)
    (hw1c : ∀ i, i < f.width → (BitVec.ofNat 32 x.w1c &&& beMask be).getLsbD (f.lo + i) = false) :
    getF (writeWord x old v be) f = getF v f := by
  refine Nat.eq_of_testBit_eq fun i => ?_
  rw [testBit_getF, testBit_getF]
  by_cases hi : i < f.width
  · have hset := hrw i hi
    have hclear := hw1c i hi
    have hbit : f.lo + i < 32 := BitVec.lt_of_getLsbD hset
    simp only [writeWord, BitVec.getLsbD_and, BitVec.getLsbD_or, BitVec.getLsbD_not] at hset hclear ⊢
    simp only [hset, hclear, hbit, decide_true, Bool.not_true, Bool.not_false, Bool.and_true, Bool.and_false, Bool.false_or]
  · simp [hi]

end Sys2Proof.Machine
end

section
namespace Sys2Proof.Machine

/-! Frames of a few writes, for any address and field: with those of one register written out the kernel would compute with them. -/

section

variable (s t : State) (a b p : Nat) (f : PinSt → PinSt) (v w : Word)

theorem State.frame_of_setReg_sendPin (h : t = (s.setReg a w).sendPin a w) : t = { s with
    regs := t.regs, pins := t.pins
    inFlight := s.inFlight ++ [{ addr := a, value := t.reg a, port := 0, sent := s.gt }] } := by
  subst h
  rw [State.sendPin_reg, State.setReg_reg]
  rfl

theorem State.withRegsInFlight_pins (r : Tbl Word) (l : List PinMsg) : ({ s with regs := r, inFlight := l } : State).pins = s.pins := by rfl

theorem State.setReg_sendPin_pins : ((s.setReg a w).sendPin a w).pins = s.pins := s.withRegsInFlight_pins _ _

theorem State.frame_of_setReg_updPin_sendPin (h : t = ((s.setReg a w).updPin p f).sendPin a w) : t = { s with
    regs := t.regs, pins := t.pins
    inFlight := s.inFlight ++ [{ addr := a, value := t.reg a, port := 0, sent := s.gt }] } := by
  subst h
  rw [State.sendPin_reg, State.updPin_reg, State.setReg_reg]
  rfl

theorem State.frame_of_updPin_setReg_send (o : Output) (h : t = (((s.updPin p f).setReg a v).setReg b w).send o) :
    t = { s with regs := t.regs, pins := t.pins, outs := s.outs ++ [o] } := by
  subst h
  rfl

theorem State.frame_of_setBit_send (g : Fld) (x : Bool) (o : Output) (h : t = (s.setBit a g x).send o) :
    t = { s with regs := t.regs, outs := s.outs ++ [o] } := by
  subst h
  rfl

theorem State.frame_of_setFld_setBit (g k : Fld) (n : Nat) (x : Bool) (h : t = (s.setFld a g n).setBit a k x) :
    t = { s with regs := t.regs } := by
  subst h
  rfl

end

/-! A partner's accesses: the control and the results of a time-interval unit (R122, R128), and a shim's TARGET (R113, R118). -/

/-- The row of TMG_TIA_CTRL (Table 3-9). -/
def tiaCtrlRow : RegRow := ⟨0x30000, [(32, 16)], 0, 0x7f3f3, 0, 0, 0, 0⟩

theorem regRow_tiaCtrl (c : ClNo) (u : UnitNo) : regRow (TMG_TIA_CTRL c.val u.val) = some tiaCtrlRow := by
  have hrow : ∀ v : UnitNo, (regRows 0 2).find? (fun x => x.hit (0x30000 + v.val * 32)) = some tiaCtrlRow := by decide
  rw [regRow, TMG_TIA_CTRL, Nat.add_assoc, regLoc_clBlk c.isLt (by decide) (by omega)]
  exact hrow u

section

variable (c : ClNo) (u : UnitNo) (value : Word) (s : State)

/-- The word that a partner's write leaves in a unit's control. -/
def State.tiaCtrlWord (s : State) (a : Nat) (value : Word) : Word := writeWord tiaCtrlRow (s.reg a) value 15

theorem State.tiaCtrlWord_mode (a : Nat) : getF (s.tiaCtrlWord a value) TMG_TIA_CTRL_MODE = getF value TMG_TIA_CTRL_MODE :=
  getF_writeWord _ _ (by decide) (by decide)

theorem State.partnerWrite_tiaCtrl : s.partnerWrite (TMG_TIA_CTRL c.val u.val) value 15 =
    s.setReg (TMG_TIA_CTRL c.val u.val) (s.tiaCtrlWord (TMG_TIA_CTRL c.val u.val) value) := by
  rw [State.partnerWrite, regRow_tiaCtrl]
  rfl

theorem State.tiaWrite_same (h : getF value TMG_TIA_CTRL_MODE = s.fld (TMG_TIA_CTRL c.val u.val) TMG_TIA_CTRL_MODE) :
    s.tiaWrite c.val u.val value =
      (s.setReg (TMG_TIA_CTRL c.val u.val) (s.tiaCtrlWord (TMG_TIA_CTRL c.val u.val) value)).sendPin (TMG_TIA_CTRL c.val u.val)
        (s.tiaCtrlWord (TMG_TIA_CTRL c.val u.val) value) := by
  unfold State.tiaWrite
  dsimp only
  rw [s.partnerWrite_tiaCtrl, State.setReg_fld, State.tiaCtrlWord_mode, if_pos h, State.setReg_reg]

theorem State.tiaWrite_changed (h : getF value TMG_TIA_CTRL_MODE ≠ s.fld (TMG_TIA_CTRL c.val u.val) TMG_TIA_CTRL_MODE) :
    s.tiaWrite c.val u.val value =
      ((s.setReg (TMG_TIA_CTRL c.val u.val) (s.tiaCtrlWord (TMG_TIA_CTRL c.val u.val) value)).updPin (16 * c.val + u.val)
        fun y => { y with tia := {} }).sendPin (TMG_TIA_CTRL c.val u.val) (s.tiaCtrlWord (TMG_TIA_CTRL c.val u.val) value) := by
  unfold State.tiaWrite
  dsimp only
  rw [s.partnerWrite_tiaCtrl, State.setReg_fld, State.tiaCtrlWord_mode, if_neg h, State.updPin_reg, State.setReg_reg]

theorem exec_tiaModeWrite (port : PortNo) (h : s.reaches (TMG_TIA_CTRL c.val u.val)) :
    exec (.tiaModeWrite port c u value) s = .next (s.tiaWrite c.val u.val value) :=
  congrArg Host.Outcome.next (s.reach_open port.val _ (fun s => s.tiaWrite c.val u.val value) h.1 h.2)

theorem tiaModeWrite_writes (port : PortNo) (h : s.reaches (TMG_TIA_CTRL c.val u.val)) :
    ∃ t, exec (.tiaModeWrite port c u value) s = .next t ∧
    t.fld (TMG_TIA_CTRL c.val u.val) TMG_TIA_CTRL_MODE = getF value TMG_TIA_CTRL_MODE ∧
    (getF value TMG_TIA_CTRL_MODE ≠ s.fld (TMG_TIA_CTRL c.val u.val) TMG_TIA_CTRL_MODE → (t.pin (16 * c.val + u.val)).tia = {}) ∧
    (getF value TMG_TIA_CTRL_MODE = s.fld (TMG_TIA_CTRL c.val u.val) TMG_TIA_CTRL_MODE → t.pins = s.pins) ∧
    (∀ q, q ≠ 16 * c.val + u.val → t.pin q = s.pin q) ∧
    t = { s with
      regs := t.regs, pins := t.pins
      inFlight := s.inFlight ++ [{ addr := TMG_TIA_CTRL c.val u.val, value := t.reg (TMG_TIA_CTRL c.val u.val), port := 0, sent := s.gt }] } ∧
    s.regsKept t [TMG_TIA_CTRL c.val u.val] := by
  rw [exec_tiaModeWrite c u value s port h]
  have hsame := s.tiaWrite_same c u value
  have hchanged := s.tiaWrite_changed c u value
  have hmode := s.tiaCtrlWord_mode value (TMG_TIA_CTRL c.val u.val)
  generalize s.tiaWrite c.val u.val value = t at *
  generalize s.tiaCtrlWord (TMG_TIA_CTRL c.val u.val) value = w at *
  generalize TMG_TIA_CTRL c.val u.val = a at *
  refine ⟨t, rfl, ?_⟩
  by_cases hm : getF value TMG_TIA_CTRL_MODE = s.fld a TMG_TIA_CTRL_MODE
  · have ht := hsame hm
    refine ⟨?_, fun k => absurd hm k, fun _ => ?_, fun q _ => ?_, s.frame_of_setReg_sendPin t a w ht, fun b hb => ?_⟩
    · rw [ht, State.sendPin_fld, State.setReg_fld, hmode]
    · rw [ht, State.setReg_sendPin_pins]
    · rw [ht, State.sendPin_pin, State.setReg_pin]
    · rw [ht, State.sendPin_reg, State.setReg_reg_ne _ _ _ _ (by simpa using hb)]
  · have ht := hchanged hm
    refine ⟨?_, fun _ => ?_, fun k => absurd k hm, fun q hq => ?_, s.frame_of_setReg_updPin_sendPin t a _ _ w ht, fun b hb => ?_⟩
    · rw [ht, State.sendPin_fld, State.updPin_fld, State.setReg_fld, hmode]
    · rw [ht, State.sendPin_pin, State.updPin_pin]
    · rw [ht, State.sendPin_pin, State.updPin_pin_ne _ _ _ _ hq, State.setReg_pin]
    · rw [ht, State.sendPin_reg, State.updPin_reg, State.setReg_reg_ne _ _ _ _ (by simpa using hb)]

end

section

variable (port : PortNo) (c : ClNo) (u : UnitNo) (s : State)

theorem exec_tiaRes0Read (h : s.fencedAt (TIA_RES0 c.val u.val) = false) : exec (.tiaRes0Read port c u) s =
    .next ((s.tiaRead c.val u.val).2.send (.completion port.val 0 (leBytes 4 (s.tiaRead c.val u.val).1.toNat))) :=
  congrArg Host.Outcome.next (s.readReach_open port.val _ _ h)

theorem tiaRes2_ne_tiaRes1 (c u : Nat) : TIA_RES2 c u ≠ TIA_RES1 c u := by
  unfold TIA_RES1 TIA_RES2
  omega

theorem State.tiaRead_cons {x : TiaEntry} {l : List TiaEntry} (hx : (s.pin (16 * c.val + u.val)).tia.results = x :: l) :
    s.tiaRead c.val u.val = (x.res0, ((s.updPin (16 * c.val + u.val) fun y => { y with tia := { y.tia with results := l } }).setReg
      (TIA_RES1 c.val u.val) x.res1).setReg (TIA_RES2 c.val u.val) x.res2) := by
  rw [State.tiaRead, hx]

theorem State.tiaRead_nil (hx : (s.pin (16 * c.val + u.val)).tia.results = []) :
    s.tiaRead c.val u.val = (0, s.setBit (TIA_RES2 c.val u.val) TIA_RES2_VALID false) := by
  rw [State.tiaRead, hx]

theorem tiaRes0Read_oldest (h : s.fencedAt (TIA_RES0 c.val u.val) = false) {x : TiaEntry} {l : List TiaEntry}
    (hx : (s.pin (16 * c.val + u.val)).tia.results = x :: l) : ∃ t, exec (.tiaRes0Read port c u) s = .next t ∧
      t.reg (TIA_RES1 c.val u.val) = x.res1 ∧ t.reg (TIA_RES2 c.val u.val) = x.res2 ∧
      (t.pin (16 * c.val + u.val)).tia = { (s.pin (16 * c.val + u.val)).tia with results := l } ∧
      (∀ q, q ≠ 16 * c.val + u.val → t.pin q = s.pin q) ∧
      t = { s with regs := t.regs, pins := t.pins, outs := s.outs ++ [.completion port.val 0 (leBytes 4 x.res0.toNat)] } ∧
      s.regsKept t [TIA_RES1 c.val u.val, TIA_RES2 c.val u.val] := by
  have hne := tiaRes2_ne_tiaRes1 c.val u.val
  rw [exec_tiaRes0Read port c u s h, s.tiaRead_cons c u hx]
  generalize TIA_RES1 c.val u.val = r1, TIA_RES2 c.val u.val = r2 at *
  refine ⟨_, rfl, ?_, ?_, ?_, fun q hq => ?_, s.frame_of_updPin_setReg_send _ r1 r2 _ _ x.res1 x.res2 _ rfl, fun a ha => ?_⟩
  · rw [State.send_reg, State.setReg_reg_ne _ _ _ _ hne.symm, State.setReg_reg]
  · rw [State.send_reg, State.setReg_reg]
  · rw [State.send_pin, State.setReg_pin, State.setReg_pin, State.updPin_pin]
  · rw [State.send_pin, State.setReg_pin, State.setReg_pin, State.updPin_pin_ne _ _ _ _ hq]
  · obtain ⟨h1, h2⟩ := not_or.mp fun e => ha (by simpa using e)
    rw [State.send_reg, State.setReg_reg_ne _ _ _ _ h2, State.setReg_reg_ne _ _ _ _ h1, State.updPin_reg]

theorem tiaRes0Read_empty (h : s.fencedAt (TIA_RES0 c.val u.val) = false) (hx : (s.pin (16 * c.val + u.val)).tia.results = []) :
    ∃ t, exec (.tiaRes0Read port c u) s = .next t ∧ t.bit (TIA_RES2 c.val u.val) TIA_RES2_VALID = false ∧
      t = { s with regs := t.regs, outs := s.outs ++ [.completion port.val 0 (leBytes 4 0)] } ∧ s.regsKept t [TIA_RES2 c.val u.val] := by
  rw [exec_tiaRes0Read port c u s h, s.tiaRead_nil c u hx]
  generalize TIA_RES2 c.val u.val = r2
  refine ⟨_, rfl, ?_, s.frame_of_setBit_send _ r2 _ _ _ rfl, fun a ha => ?_⟩
  · rw [State.send_bit, State.setBit_bit _ _ _ _ rfl (by decide)]
  · rw [State.send_reg, State.setBit_reg_ne _ _ _ _ _ (by simpa using ha)]

end

section

variable (port : PortNo) (c : ClNo) (i : Fin 128) (value : Word) (s : State)

theorem exec_shimTargetWrite (h : s.reaches (TMG_SHIM c.val i.val)) : exec (.shimTargetWrite port c i value) s =
    .next (s.shimSet c.val i.val (getF value TMG_SHIM_TARGET)) :=
  congrArg Host.Outcome.next (s.reach_open port.val _ (fun s => s.shimSet c.val i.val (getF value TMG_SHIM_TARGET)) h.1 h.2)

theorem shimTargetWrite_stores (h : s.reaches (TMG_SHIM c.val i.val)) (hi : i.val % 8 ≠ 7) :
    ∃ t, exec (.shimTargetWrite port c i value) s = .next t ∧
      t.fld (TMG_SHIM c.val i.val) TMG_SHIM_TARGET = getF value TMG_SHIM_TARGET ∧
      t.fld (TMG_SHIM c.val i.val) TMG_SHIM_ACTIVE = s.fld (TMG_SHIM c.val i.val) TMG_SHIM_ACTIVE ∧
      t.bit (TMG_SHIM c.val i.val) TMG_SHIM_MOVING = (getF value TMG_SHIM_TARGET != s.fld (TMG_SHIM c.val i.val) TMG_SHIM_ACTIVE) ∧
      t = { s with regs := t.regs } ∧ s.regsKept t [TMG_SHIM c.val i.val] := by
  rw [exec_shimTargetWrite port c i value s h, State.shimSet, if_neg hi]
  unfold State.shimMoving
  generalize TMG_SHIM c.val i.val = a
  have hmem : a ∈ [a] := List.mem_singleton_self _
  have htarget : (s.setFld a TMG_SHIM_TARGET (getF value TMG_SHIM_TARGET)).fld a TMG_SHIM_TARGET = getF value TMG_SHIM_TARGET := by
    rw [State.setFld_fld _ _ _ _ (by decide) (by decide), Nat.mod_eq_of_lt (getF_lt ..)]
  have hactive : (s.setFld a TMG_SHIM_TARGET (getF value TMG_SHIM_TARGET)).fld a TMG_SHIM_ACTIVE = s.fld a TMG_SHIM_ACTIVE :=
    State.setFld_fld_apart _ _ _ _ _ (by decide)
  refine ⟨_, rfl, ?_, ?_, ?_, s.frame_of_setFld_setBit _ a _ _ _ _ rfl,
    State.regsKept_trans (s.setFld_regsKept _ _ hmem) (State.setFld_regsKept _ _ _ hmem)⟩
  · rw [State.setBit_fld_apart _ _ _ _ _ (by decide), htarget]
  · rw [State.setBit_fld_apart _ _ _ _ _ (by decide), hactive]
  · rw [State.setBit_bit _ _ _ _ rfl (by decide), htarget, hactive]

theorem shimTargetWrite_reserved (h : s.reaches (TMG_SHIM c.val i.val)) (hi : i.val % 8 = 7) :
    exec (.shimTargetWrite port c i value) s = .next s := by
  rw [exec_shimTargetWrite port c i value s h, State.shimSet, if_pos hi]

end

/-- Settles O27: a stamped edge through what one unit's offer may change, a partner's accesses by a lemma for each case. -/
theorem edgesAreStampedAndPaired : Obligations.EdgesAreStampedAndPaired := by
  unfold Obligations.EdgesAreStampedAndPaired
  refine ⟨fun p rising t16 s => ⟨fun hfirst => ?_, fun hfurther => ?_⟩, fun port c u i value s =>
    ⟨tiaModeWrite_writes c u value s port, fun hf => ⟨fun x l => tiaRes0Read_oldest port c u s hf, tiaRes0Read_empty port c u s hf⟩,
      shimTargetWrite_stores port c i value s, shimTargetWrite_reserved port c i value s⟩⟩
  · exact ⟨_, exec_pinEdgeStamped_first p rising t16 s hfirst, State.edgeStamped_lastEdge, fun _ => State.edgeStamped_takes,
      fun _ => State.edgeStamped_unused, fun _ => State.edgeStamped_pin, State.edgeStamped_frame, State.edgeStamped_regsKept⟩
  · exact ⟨_, exec_pinEdgeStamped_further p rising t16 s hfurther, fun _ => State.edgeMissed_fld, State.edgeMissed_frame,
      State.edgeMissed_regsKept⟩

end Sys2Proof.Machine
end

section
namespace Sys2Proof.Machine

/-! A player chooses what follows its play (R149, R150). -/

section

variable (p : PinNo) (g : Nat) (s : State) {y : Player}

/-- At the last granule of a play that is not held and meets no poison the player is settled already. -/
theorem State.settlePlayer_lastGranule (hy : (s.pin p.val).player = some y) (hg : g = y.playStart + 64 * (y.words.len - 1))
    (hclean : s.anyPoison (y.words.granule (pinCl p.val) ((g - y.playStart) / 64)).1
      (y.words.granule (pinCl p.val) ((g - y.playStart) / 64)).2 = false) : s.settlePlayer p.val g [] = s := by
  have hgranule : s.playGranule p.val g y [] = s := by
    simp only [State.playGranule, State.meet_nil, hclean, Bool.false_eq_true, if_false]
  simp only [State.settlePlayer, hy, hgranule, ite_self]
  split
  · rfl
  · next hlate =>
    rw [not_or, Nat.not_le] at hlate
    rw [if_pos (by omega)]

/-- The advance condition of a play is met where it is sampled, which a missing tenon prevents (R143, R150). -/
def State.advances (s : State) (p g : Nat) (y : Player) : Bool := (s.at g).advMet p y.words.adv && !s.missingAt (pinCl p) g

/-- What follows a play of a player (R149). -/
def State.nextPlay (s : State) (p g : Nat) (y : Player) : SegNext :=
  if s.advances p g y = true then .play y.words.alt 0
  else if y.words.forever = true ∨ y.plays < y.words.repeats then .play y.entry (y.plays + 1)
  else if y.words.isEnd then .hold else .play y.words.nextEntry 0

/-- The player that has chosen what follows its play; a trigger that it advanced on is used up. -/
def State.chosenBy (s : State) (p g : Nat) (y : Player) : Player :=
  { y with chosen := some (s.nextPlay p g y), trig := y.trig && !(s.advances p g y && y.words.adv == 9) }

theorem exec_advCondSample (hy : (s.pin p.val).player = some y) (hheld : y.held = none) (hchosen : y.chosen = none)
    (hg : g = y.playStart + 64 * (y.words.len - 1))
    (hclean : s.anyPoison (y.words.granule (pinCl p.val) ((g - y.playStart) / 64)).1
      (y.words.granule (pinCl p.val) ((g - y.playStart) / 64)).2 = false) :
    exec (.advCondSample p g) s =
      .next ((s.at g).updPin p.val (fun z => { z with player := some (s.chosenBy p.val g y) })) := by
  have harm : exec (.advCondSample p g) s = execAdvCondSample p g s := rfl
  rw [harm, execAdvCondSample]
  simp only [s.settlePlayer_lastGranule p g hy hg hclean, hy]
  rw [if_pos ⟨hheld, hchosen, hg⟩]
  rfl

theorem State.nextPlay_eq : s.nextPlay p.val g y =
    if (s.at g).advMet p.val y.words.adv = true ∧ s.missingAt (pinCl p.val) g = false then .play y.words.alt 0
    else if y.words.forever = true ∨ y.plays < y.words.repeats then .play y.entry (y.plays + 1)
    else if y.words.isEnd then .hold else .play y.words.nextEntry 0 := by
  simp only [State.nextPlay, State.advances, Bool.and_eq_true, Bool.not_eq_true']

end

end Sys2Proof.Machine
end

section
namespace Sys2Proof.Machine

/-! A GO starts a Delta-4 conversion or is refused (R153, R154). -/

/-- A frame for any address: with one written out the kernel would compute with it. -/
theorem State.frame_of_setBit_setCoding (s t : State) (a k : Nat) (f : Fld) (b : Bool) (x : Option Delta4)
    (h : t = (s.setBit a f b).setCoding k x) : t = { s with regs := t.regs, codings := t.codings } := by
  subst h
  rfl

section

variable (port : PortNo) (c : ClNo) (value : Word) (s : State)

theorem exec_delta4Convert (h : s.reaches (SEG_CODE_CMD c.val)) :
    exec (.delta4Convert port c value) s = .next (s.delta4Command port.val c.val value) :=
  congrArg Host.Outcome.next (s.reach_open port.val _ (fun s => s.delta4Command port.val c.val value) h.1 h.2)

theorem State.delta4Refused_iff (n : Nat) : s.delta4Refused c.val n = true ↔
    s.segBad c.val (s.segStored c.val n) = true ∨ (s.segStored c.val n).delta = true ∨ s.hasMode c.val 1 = true ∨
      s.coding c.val ≠ none := by
  simp only [State.delta4Refused, Bool.or_eq_true, or_assoc, Option.isSome_iff_ne_none]

/-- The state in which the conversion of an entry is in progress. -/
def State.delta4Begun (s : State) (c n : Nat) : State :=
  (s.setBit (SEG_CODE_STAT c) SEG_CODE_STAT_BUSY true).setCoding c (some { entry := n, words := s.segStored c n })

theorem State.delta4Command_begins {n : Nat} (hgo : getB value 31 = true) (hn : n = getF value SEG_CODE_CMD_ENTRY)
    (h : s.delta4Refused c.val n = false) : s.delta4Command port.val c.val value = s.delta4Begun c.val n := by
  subst hn
  simp only [State.delta4Command, hgo, h, Bool.not_true, Bool.false_eq_true, if_false, State.delta4Begun]

theorem State.delta4Command_refused {n : Nat} (hgo : getB value 31 = true) (hn : n = getF value SEG_CODE_CMD_ENTRY)
    (h : s.delta4Refused c.val n = true) : s.delta4Command port.val c.val value = s.delta4Refuse port.val c.val n := by
  subst hn
  simp only [State.delta4Command, hgo, h, Bool.not_true, Bool.false_eq_true, if_false, if_true]

end

section

variable (s : State) (c n : Nat)

theorem State.delta4Begun_bit : (s.delta4Begun c n).bit (SEG_CODE_STAT c) SEG_CODE_STAT_BUSY = true := by
  rw [State.delta4Begun, State.setCoding_bit, State.setBit_bit _ _ _ _ rfl (by decide)]

theorem State.delta4Begun_coding : (s.delta4Begun c n).coding c = some { entry := n, words := s.segStored c n } := by
  rw [State.delta4Begun, State.setCoding_coding]

theorem State.delta4Begun_coding_ne {k : Nat} (hk : k ≠ c) : (s.delta4Begun c n).coding k = s.coding k := by
  rw [State.delta4Begun, State.setCoding_coding_ne _ _ _ _ hk, State.setBit_coding]

theorem State.delta4Begun_frame : s.delta4Begun c n =
    { s with regs := (s.delta4Begun c n).regs, codings := (s.delta4Begun c n).codings } :=
  s.frame_of_setBit_setCoding _ _ _ _ _ _ (by rw [State.delta4Begun])

theorem State.delta4Begun_regsKept : s.regsKept (s.delta4Begun c n) [SEG_CODE_STAT c] := fun k hk => by
  rw [State.delta4Begun, State.setCoding_reg, State.setBit_reg_ne _ _ _ _ _ (by simpa using hk)]

end

end Sys2Proof.Machine
end

section
namespace Sys2Proof.Machine

/-! Bytes stored outside the shared flow space: what they leave. -/

/-- What lies below the shared flow space does not lie in it (Table 1-11). -/
theorem isFlow_of_lt {a : Nat} (h : a < 0x30300000000) : isFlow a = false := by
  have hkind : ∀ k, addrKind a ≠ .flow k := fun k hk => by
    unfold addrKind at hk
    split_ifs at hk
    omega
  unfold isFlow
  split
  · next k hk => exact absurd hk (hkind k)
  · rfl

section

variable (s : State)

theorem State.unpoison_memOnly (a n : Nat) : s.memOnly (s.unpoison a n) :=
  foldl_rel State.memOnly State.memOnly_refl (fun _ _ _ => State.memOnly_trans) _
    (fun t k => by split <;> rfl) _ s

theorem State.putBytes_memOnly (a : Nat) (l : List Byte) : s.memOnly (s.putBytes a l) := by
  obtain ⟨m, x, p, e⟩ := s.putBytes_frame a l
  rw [e]
  rfl

theorem State.unpoison_byteAt (a n m : Nat) : (s.unpoison a n).byteAt m = s.byteAt m :=
  foldl_obs _ (fun t => t.byteAt m) (fun t k => by split <;> rfl) _ s

theorem State.putBytes_byteAt_outside {a : Nat} {l : List Byte} {m : Nat} (hm : m < a ∨ a + l.length ≤ m) :
    (s.putBytes a l).byteAt m = s.byteAt m := by
  rw [State.byteAt, State.putBytes_mem, tget_tputs _ l 0, if_neg (by omega)]
  rfl

theorem State.store_memOnly {a : Nat} (l : List Byte) (hf : isFlow a = false) : s.memOnly (s.store a l) := by
  simp only [State.store, hf, Bool.false_eq_true, if_false]
  split
  · exact s.memOnly_refl
  · exact State.memOnly_trans (s.putBytes_memOnly a l) (State.unpoison_memOnly _ a _)

theorem State.store_byteAt_outside {a : Nat} {l : List Byte} {m : Nat} (hf : isFlow a = false) (hm : m < a ∨ a + l.length ≤ m) :
    (s.store a l).byteAt m = s.byteAt m := by
  simp only [State.store, hf, Bool.false_eq_true, if_false]
  split
  · rfl
  · rw [State.unpoison_byteAt, s.putBytes_byteAt_outside hm]

theorem State.storeLines_memOnly {a : Nat} {l : List Byte} (h : a + l.length ≤ 0x30300000000) (k : Nat) :
    s.memOnly (s.storeLines a l k) := by
  induction k generalizing s a l with
  | zero => exact s.memOnly_refl
  | succ k ih =>
    rw [State.storeLines]
    split
    · exact s.memOnly_refl
    · next hl =>
      have hpos : 0 < l.length := List.length_pos_iff.mpr (mt List.isEmpty_iff.mpr hl)
      have hlt : a < 0x30300000000 := by omega
      refine State.memOnly_trans (s.store_memOnly (l.take (64 - a % 64)) (isFlow_of_lt hlt)) ?_
      by_cases hlong : 64 - a % 64 ≤ l.length
      · exact ih _ (by rw [List.length_drop]; omega)
      · rw [List.drop_eq_nil_of_le (by omega)]
        cases k <;> rfl

theorem State.storeLines_byteAt_outside {a : Nat} {l : List Byte} (h : a + l.length ≤ 0x30300000000) {m : Nat}
    (hm : m < a ∨ a + l.length ≤ m) (k : Nat) : (s.storeLines a l k).byteAt m = s.byteAt m := by
  induction k generalizing s a l with
  | zero => rfl
  | succ k ih =>
    rw [State.storeLines]
    split
    · rfl
    · next hl =>
      have hpos : 0 < l.length := List.length_pos_iff.mpr (mt List.isEmpty_iff.mpr hl)
      have hfirst : (s.store a (l.take (64 - a % 64))).byteAt m = s.byteAt m :=
        s.store_byteAt_outside (isFlow_of_lt (by omega)) (by rw [List.length_take]; omega)
      by_cases hlong : 64 - a % 64 ≤ l.length
      · rw [ih _ (by rw [List.length_drop]; omega) (by rw [List.length_drop]; omega), hfirst]
      · rw [List.drop_eq_nil_of_le (by omega), ← hfirst]
        cases k <;> rfl

end

end Sys2Proof.Machine
end

section
namespace Sys2Proof.Machine

/-! A Delta-4 conversion ends (R155-R157): its bytes stay in the segment, its word 0 says CODING 1. -/

theorem length_encodeDeltas (y : Nat) (l : List Nat) : (encodeDeltas y l).length = l.length := by
  induction l generalizing y with
  | nil => rfl
  | cons x l ih => rw [encodeDeltas, List.length_cons, List.length_cons, ih]

theorem length_packNibbles (l : List Nat) : (packNibbles l).length = (l.length + 1) / 2 := by
  induction l using packNibbles.induct with
  | case1 a b t ih => rw [packNibbles, List.length_cons, ih, List.length_cons, List.length_cons]; omega
  | case2 a => rw [packNibbles, List.length_singleton, List.length_singleton]
  | case3 => rw [packNibbles]; rfl

theorem length_packBits (n : Nat) (l : List Bool) : (packBits n l).length = n := by
  induction n generalizing l with
  | zero => rfl
  | succ n ih => rw [packBits, List.length_cons, ih]

theorem length_freeBytes (f n : Nat) : (freeBytes f n).length = n := by
  rw [freeBytes, List.length_map, List.length_range]

/-- A segment, whatever its words say, ends below the shared flow space (Table 4-6, Table 1-11). -/
theorem segment_below_flow (c : ClNo) (x : SegEntry) : segAddr c.val x.start + 48 * x.len ≤ 0x30300000000 := by
  have hstart : getF x.w0 SEG_SST_W0_START < 65536 := getF_lt ..
  have hlen : getF x.w1 SEG_SST_W1_LENGTH < 65536 := getF_lt ..
  have hc := c.isLt
  unfold segAddr SegEntry.start SegEntry.len
  omega

/-- The first sample fits in ANCHOR. -/
theorem State.rawSample_lt (s : State) (c : Nat) (old : List (Nat × Byte)) (x : SegEntry) (i : Nat) :
    s.rawSample c old x i < 64 := Nat.mod_lt _ (by decide)

/-- Word 0 of a converted entry: CODING 1 and the first sample in ANCHOR (R156). -/
def codedWord (w : Word) (anchor : Nat) : Word := setF (setF w SEG_SST_W0_CODING 1) SEG_SST_W0_ANCHOR anchor

theorem codedWord_coding (w : Word) (anchor : Nat) : getF (codedWord w anchor) SEG_SST_W0_CODING = 1 := by
  rw [codedWord, getF_setF_apart _ _ _ _ (by decide), getF_setF _ _ _ (by decide) (by decide)]
  rfl

theorem codedWord_anchor (w : Word) (anchor : Nat) : getF (codedWord w anchor) SEG_SST_W0_ANCHOR = anchor % 64 :=
  getF_setF _ _ _ (by decide) (by decide)

theorem State.setBoth_byteAt (s : State) (a : Nat) (w : Word) (m : Nat) : (s.setBoth a w).byteAt m = s.byteAt m := by rfl

/-- Bytes are stored from an address on, free values are used up to f, and word 0 of an entry becomes w. -/
def State.segmentBecomes (s : State) (c n a : Nat) (l : List Byte) (f : Nat) (w : Word) : State :=
  ({ s.storeAll a l with free := f } : State).setBoth (SEG_SST_W0 c n) w

section

variable (s : State) (c n : Nat) {a : Nat} {l : List Byte} (f : Nat) (w : Word)

theorem State.segmentBecomes_reg_ne (h : a + l.length ≤ 0x30300000000) {k : Nat} (hk : k ≠ SEG_SST_W0 c n) :
    (s.segmentBecomes c n a l f w).reg k = s.reg k := by
  have hstore : s.memOnly (s.storeAll a l) := s.storeLines_memOnly h _
  rw [State.segmentBecomes, State.setBoth_reg_ne _ _ _ _ hk, hstore]
  rfl

theorem State.segmentBecomes_cl (h : a + l.length ≤ 0x30300000000) (k : Nat) : (s.segmentBecomes c n a l f w).cl k = s.cl k := by
  have hstore : s.memOnly (s.storeAll a l) := s.storeLines_memOnly h _
  rw [State.segmentBecomes, State.setBoth_cl, hstore]
  rfl

theorem State.segmentBecomes_byteAt (h : a + l.length ≤ 0x30300000000) {m : Nat} (hm : m < a ∨ a + l.length ≤ m) :
    (s.segmentBecomes c n a l f w).byteAt m = s.byteAt m := by
  rw [State.segmentBecomes, State.setBoth_byteAt, ← s.storeLines_byteAt_outside h hm (l.length / 64 + 2)]
  rfl

theorem State.segmentBecomes_fld (g : Fld) : (s.segmentBecomes c n a l f w).fld (SEG_SST_W0 c n) g = getF w g :=
  State.setBoth_fld ..

end

section

variable (s : State) (c n : Nat) (x : SegEntry)

/-- The deltas of a segment's raw samples after the first (R155). -/
def State.deltasOf (s : State) (c : Nat) (x : SegEntry) : List (Int × Bool) :=
  encodeDeltas (s.rawSample c [] x 0) (((List.range (64 * x.len)).map (s.rawSample c [] x)).drop 1)

theorem State.firstSample (h : 0 < x.len) : ((List.range (64 * x.len)).map (s.rawSample c [] x)).headD 0 = s.rawSample c [] x 0 := by
  obtain ⟨k, hk⟩ : ∃ k, 64 * x.len = k + 1 := ⟨64 * x.len - 1, by omega⟩
  rw [hk, List.range_succ_eq_map, List.map_cons, List.headD_cons]

/-- The bytes of a converted segment: its deltas, its saturation map, and the rest free (R155). -/
def State.deltaBytes (s : State) (c : Nat) (x : SegEntry) : List Byte :=
  packNibbles (0 :: (s.deltasOf c x).map (fun q => ux 4 q.1)) ++ packBits (8 * x.len) (false :: (s.deltasOf c x).map (·.2)) ++
    Machine.freeBytes s.free (8 * x.len)

theorem State.length_deltaBytes (h : 0 < x.len) : (s.deltaBytes c x).length = 48 * x.len := by
  have hdeltas : (s.deltasOf c x).length = 64 * x.len - 1 := by
    rw [State.deltasOf, length_encodeDeltas, List.length_drop, List.length_map, List.length_range]
  rw [State.deltaBytes, List.length_append, List.length_append, length_packNibbles, length_packBits, length_freeBytes,
    List.length_cons, List.length_map, hdeltas]
  omega

theorem State.toDelta4_eq (h : 0 < x.len) : s.toDelta4 c n x = (((s.deltasOf c x).filter (·.2)).length,
    s.segmentBecomes c n (segAddr c x.start) (s.deltaBytes c x) ((s.storeAll (segAddr c x.start) (s.deltaBytes c x)).free + 8 * x.len)
      (codedWord x.w0 (s.rawSample c [] x 0))) := by
  simp only [State.toDelta4, s.firstSample c x h, State.segmentBecomes, State.deltaBytes, State.deltasOf, codedWord]

theorem State.spoiledDelta4_eq : ∃ l f v, l.length = 48 * x.len ∧
    (s.spoiledDelta4 c n x).2 = s.segmentBecomes c n (segAddr c x.start) l f (codedWord (s.segStored c n).w0 v) :=
  ⟨Machine.freeBytes s.free (48 * x.len), _, _, length_freeBytes .., rfl⟩

end

section

variable (s : State) (c : Nat) (d : Delta4)

/-- What a conversion makes of its segment and of word 0, before the poison of the raw segment is put back (R336). -/
def State.converted (s : State) (c : Nat) (d : Delta4) : Nat × State :=
  if d.spoiled || !((linesOf (segAddr c d.words.start) (48 * d.words.len)).filter (fun k => s.poisoned (64 * k))).isEmpty then
    s.spoiledDelta4 c d.entry d.words
  else s.toDelta4 c d.entry d.words

theorem State.converted_becomes (h : 0 < d.words.len) : ∃ l f w v, l.length = 48 * d.words.len ∧
    (s.converted c d).2 = s.segmentBecomes c d.entry (segAddr c d.words.start) l f (codedWord w v) := by
  unfold State.converted
  split
  · obtain ⟨l, f, v, hl, e⟩ := s.spoiledDelta4_eq c d.entry d.words
    exact ⟨l, f, _, v, hl, e⟩
  · exact ⟨_, _, _, _, s.length_deltaBytes c d.words h, congrArg Prod.snd (s.toDelta4_eq c d.entry d.words h)⟩

theorem State.converted_clean (hfresh : d.spoiled = false)
    (hclean : s.anyPoison (segAddr c d.words.start) (48 * d.words.len) = false) :
    s.converted c d = s.toDelta4 c d.entry d.words := by
  have hnone : (linesOf (segAddr c d.words.start) (48 * d.words.len)).filter (fun k => s.poisoned (64 * k)) = [] := by
    rw [List.filter_eq_nil_iff]
    intro k hk
    have hline := List.any_eq_false.mp hclean k hk
    rwa [State.poisoned, Nat.mul_div_cancel_left k (by decide)]
  rw [State.converted, hfresh, hnone]
  rfl

/-- Lines are poisoned. -/
def State.poisonLines (s : State) (ks : List Nat) : State := ks.foldl (fun t k => t.setPoison (64 * k) true) s

theorem State.poisonLines_frame (ks : List Nat) : ∃ p, s.poisonLines ks = { s with poison := p } :=
  foldl_holds (P := fun t => ∃ p, t = { s with poison := p })
    (fun t k ht => by
      obtain ⟨p, rfl⟩ := ht
      exact ⟨_, rfl⟩) ks s ⟨_, rfl⟩

/-- Poison and what is under way to pin time are replaced. -/
def State.withPoisonAndFlight (s : State) (p : Tbl Bool) (i : List PinMsg) : State := { s with poison := p, inFlight := i }

theorem State.withPoisonAndFlight_reg (p : Tbl Bool) (i : List PinMsg) (a : Nat) : (s.withPoisonAndFlight p i).reg a = s.reg a := by rfl
theorem State.withPoisonAndFlight_cl (p : Tbl Bool) (i : List PinMsg) (k : Nat) : (s.withPoisonAndFlight p i).cl k = s.cl k := by rfl
theorem State.withPoisonAndFlight_byteAt (p : Tbl Bool) (i : List PinMsg) (m : Nat) :
    (s.withPoisonAndFlight p i).byteAt m = s.byteAt m := by rfl
theorem State.withPoisonAndFlight_fld (p : Tbl Bool) (i : List PinMsg) (a : Nat) (g : Fld) :
    (s.withPoisonAndFlight p i).fld a g = s.fld a g := by rfl

theorem State.delta4Result_eq : ∃ p i, s.delta4Result c d = ((s.converted c d).1, (s.converted c d).2.withPoisonAndFlight p i) := by
  obtain ⟨p, e⟩ := (s.converted c d).2.poisonLines_frame
    ((linesOf (segAddr c d.words.start) (48 * d.words.len)).filter (fun k => s.poisoned (64 * k)))
  exact ⟨p, _, congrArg (fun u : State => ((s.converted c d).1, { u with
    inFlight := (s.converted c d).2.inFlight.filter (fun m => m.addr != SEG_SST_W0 c d.entry) })) e⟩

/-- A conversion that ends shows its count of saturated samples and DONE (R156). -/
def State.delta4Finish (s : State) (c count : Nat) : State :=
  (((s.setFld (SEG_CODE_STAT c) SEG_CODE_STAT_SAT_COUNT count).setBit (SEG_CODE_STAT c) SEG_CODE_STAT_BUSY false).setBit
    (SEG_CODE_STAT c) SEG_CODE_STAT_DONE true).setCoding c none

end

section

variable (s : State) (c count : Nat)

theorem State.delta4Finish_count : (s.delta4Finish c count).fld (SEG_CODE_STAT c) SEG_CODE_STAT_SAT_COUNT =
    count % 2 ^ SEG_CODE_STAT_SAT_COUNT.width := by
  rw [State.delta4Finish, State.setCoding_fld, State.setBit_fld_apart _ _ _ _ _ (by decide),
    State.setBit_fld_apart _ _ _ _ _ (by decide), State.setFld_fld _ _ _ _ (by decide) (by decide)]

theorem State.delta4Finish_busy : (s.delta4Finish c count).bit (SEG_CODE_STAT c) SEG_CODE_STAT_BUSY = false := by
  rw [State.delta4Finish, State.setCoding_bit, State.setBit_bit_apart _ _ _ _ _ (by decide), State.setBit_bit _ _ _ _ rfl (by decide)]

theorem State.delta4Finish_done : (s.delta4Finish c count).bit (SEG_CODE_STAT c) SEG_CODE_STAT_DONE = true := by
  rw [State.delta4Finish, State.setCoding_bit, State.setBit_bit _ _ _ _ rfl (by decide)]

theorem State.delta4Finish_coding : (s.delta4Finish c count).coding c = none := State.setCoding_coding ..

theorem State.delta4Finish_reg_ne {k : Nat} (hk : k ≠ SEG_CODE_STAT c) : (s.delta4Finish c count).reg k = s.reg k := by
  rw [State.delta4Finish, State.setCoding_reg, State.setBit_reg_ne _ _ _ _ _ hk, State.setBit_reg_ne _ _ _ _ _ hk,
    State.setFld_reg_ne _ _ _ _ _ hk]

theorem State.delta4Finish_fld_ne {k : Nat} (g : Fld) (hk : k ≠ SEG_CODE_STAT c) :
    (s.delta4Finish c count).fld k g = s.fld k g := congrArg (getF · g) (s.delta4Finish_reg_ne c count hk)

theorem State.delta4Finish_cl (k : Nat) : (s.delta4Finish c count).cl k = s.cl k := by
  rw [State.delta4Finish, State.setCoding_cl, State.setBit_cl, State.setBit_cl, State.setFld_cl]

theorem State.delta4Finish_byteAt (m : Nat) : (s.delta4Finish c count).byteAt m = s.byteAt m := by
  rw [State.byteAt, State.delta4Finish, State.setCoding_mem, State.setBit_mem, State.setBit_mem, State.setFld_mem, State.byteAt]

end

/-- The state in which the conversion d of a cluster has ended. -/
def State.delta4Ended (s : State) (c : Nat) (d : Delta4) : State := (s.delta4Result c d).2.delta4Finish c (s.delta4Result c d).1

section

variable (c : ClNo) (s : State) (d : Delta4)

theorem exec_delta4Done (hd : s.coding c.val = some d) : exec (.delta4Done c []) s = .next (s.delta4Ended c.val d) := by
  have harm : exec (.delta4Done c []) s = execDelta4Done c [] s := rfl
  rw [harm, execDelta4Done, hd]
  rfl

theorem entryWord_ne_codeStat (n : Nat) : SEG_SST_W0 c.val n ≠ SEG_CODE_STAT c.val := by
  unfold SEG_SST_W0 SEG_CODE_STAT
  omega

theorem State.delta4Ended_becomes (h : 0 < d.words.len) : ∃ l f w v p i count, l.length = 48 * d.words.len ∧ s.delta4Ended c.val d =
    ((s.segmentBecomes c.val d.entry (segAddr c.val d.words.start) l f (codedWord w v)).withPoisonAndFlight p i).delta4Finish
      c.val count := by
  obtain ⟨p, i, e⟩ := s.delta4Result_eq c.val d
  obtain ⟨l, f, w, v, hl, becomes⟩ := s.converted_becomes c.val d h
  exact ⟨l, f, w, v, p, i, _, hl, by rw [State.delta4Ended, e, becomes]⟩

/-- A conversion that nothing has disturbed gives the deltas of the raw samples (R155). -/
theorem State.delta4Ended_clean (h : 0 < d.words.len) (hfresh : d.spoiled = false)
    (hclean : s.anyPoison (segAddr c.val d.words.start) (48 * d.words.len) = false) : ∃ f p i, s.delta4Ended c.val d =
    ((s.segmentBecomes c.val d.entry (segAddr c.val d.words.start) (s.deltaBytes c.val d.words) f
      (codedWord d.words.w0 (s.rawSample c.val [] d.words 0))).withPoisonAndFlight p i).delta4Finish c.val
        ((s.deltasOf c.val d.words).filter (·.2)).length := by
  obtain ⟨p, i, e⟩ := s.delta4Result_eq c.val d
  exact ⟨_, p, i, by rw [State.delta4Ended, e, s.converted_clean c.val d hfresh hclean, s.toDelta4_eq c.val d.entry d.words h]⟩

theorem State.delta4Ended_coding (h : 0 < d.words.len) :
    (s.delta4Ended c.val d).fld (SEG_SST_W0 c.val d.entry) SEG_SST_W0_CODING = 1 := by
  obtain ⟨l, f, w, v, p, i, count, -, e⟩ := s.delta4Ended_becomes c d h
  rw [e, State.delta4Finish_fld_ne _ _ _ _ (entryWord_ne_codeStat c _), State.withPoisonAndFlight_fld, State.segmentBecomes_fld,
    codedWord_coding]

theorem State.delta4Ended_anchor (h : 0 < d.words.len) (hfresh : d.spoiled = false)
    (hclean : s.anyPoison (segAddr c.val d.words.start) (48 * d.words.len) = false) :
    (s.delta4Ended c.val d).fld (SEG_SST_W0 c.val d.entry) SEG_SST_W0_ANCHOR = s.rawSample c.val [] d.words 0 := by
  obtain ⟨f, p, i, e⟩ := s.delta4Ended_clean c d h hfresh hclean
  rw [e, State.delta4Finish_fld_ne _ _ _ _ (entryWord_ne_codeStat c _), State.withPoisonAndFlight_fld, State.segmentBecomes_fld,
    codedWord_anchor, Nat.mod_eq_of_lt (s.rawSample_lt ..)]

theorem State.delta4Ended_count (h : 0 < d.words.len) (hfresh : d.spoiled = false)
    (hclean : s.anyPoison (segAddr c.val d.words.start) (48 * d.words.len) = false) :
    (s.delta4Ended c.val d).fld (SEG_CODE_STAT c.val) SEG_CODE_STAT_SAT_COUNT =
      ((s.deltasOf c.val d.words).filter (·.2)).length % 2 ^ SEG_CODE_STAT_SAT_COUNT.width := by
  obtain ⟨f, p, i, e⟩ := s.delta4Ended_clean c d h hfresh hclean
  rw [e, State.delta4Finish_count]

theorem State.delta4Ended_cl (h : 0 < d.words.len) (k : Nat) : (s.delta4Ended c.val d).cl k = s.cl k := by
  obtain ⟨l, f, w, v, p, i, count, hl, e⟩ := s.delta4Ended_becomes c d h
  rw [e, State.delta4Finish_cl, State.withPoisonAndFlight_cl,
    State.segmentBecomes_cl _ _ _ _ _ (hl ▸ segment_below_flow c d.words)]

theorem State.delta4Ended_regsKept (h : 0 < d.words.len) :
    s.regsKept (s.delta4Ended c.val d) [SEG_SST_W0 c.val d.entry, SEG_CODE_STAT c.val] := by
  intro k hk
  rw [List.mem_cons, List.mem_singleton, not_or] at hk
  obtain ⟨l, f, w, v, p, i, count, hl, e⟩ := s.delta4Ended_becomes c d h
  rw [e, State.delta4Finish_reg_ne _ _ _ hk.2, State.withPoisonAndFlight_reg,
    State.segmentBecomes_reg_ne _ _ _ _ _ (hl ▸ segment_below_flow c d.words) hk.1]

theorem State.delta4Ended_byteAt (h : 0 < d.words.len) {a : Nat}
    (ha : a < segAddr c.val d.words.start ∨ segAddr c.val (d.words.start + 48 * d.words.len) ≤ a) :
    (s.delta4Ended c.val d).byteAt a = s.byteAt a := by
  obtain ⟨l, f, w, v, p, i, count, hl, e⟩ := s.delta4Ended_becomes c d h
  have hend : segAddr c.val (d.words.start + 48 * d.words.len) = segAddr c.val d.words.start + l.length := by
    rw [hl, segAddr, segAddr, Nat.add_assoc _ d.words.start]
  rw [e, State.delta4Finish_byteAt, State.withPoisonAndFlight_byteAt,
    State.segmentBecomes_byteAt _ _ _ _ _ (hl ▸ segment_below_flow c d.words) (hend ▸ ha)]

end

end Sys2Proof.Machine
end

section
namespace Sys2Proof.Machine

/-! A player takes the words of an entry (R152): what they depend on, and that only free values are used. -/

/-- Two states agree in what is in force, what is under way to it, and the free values to come. -/
structure SameForce (s t : State) : Prop where
  force : t.force = s.force
  inFlight : t.inFlight = s.inFlight
  free : t.free = s.free

section

variable (s : State)

/-- Two states differ in the free values used. -/
def State.freeOnly (s t : State) : Prop := t = { s with free := t.free }

theorem State.freeOnly_trans {s t u : State} (h : s.freeOnly t) (k : t.freeOnly u) : s.freeOnly u := by
  unfold State.freeOnly at h k ⊢
  rw [h] at k
  exact k

theorem State.wordAt_freeOnly (a g : Nat) : s.freeOnly (s.wordAt a g).2 := by
  unfold State.wordAt
  split <;> rfl

theorem State.segWord_freeOnly (y : Option Player) (a g : Nat) : s.freeOnly (s.segWord y a g).2 := by
  unfold State.segWord
  dsimp only
  split
  · exact s.wordAt_freeOnly a g
  · exact State.freeOnly_trans (s.wordAt_freeOnly a g) rfl

theorem State.segAt_freeOnly (c n : Nat) (y : Option Player) (g : Nat) : s.freeOnly (s.segAt c n y g).2 := by
  unfold State.segAt
  extract_lets a b d e
  have ha : s.freeOnly a.2 := s.segWord_freeOnly ..
  have hb : a.2.freeOnly b.2 := a.2.segWord_freeOnly ..
  have hd : b.2.freeOnly d.2 := b.2.segWord_freeOnly ..
  have he : d.2.freeOnly e.2 := d.2.segWord_freeOnly ..
  exact State.freeOnly_trans (State.freeOnly_trans (State.freeOnly_trans ha hb) hd) he

theorem State.segAt_pin (c n : Nat) (y : Option Player) (g q : Nat) : (s.segAt c n y g).2.pin q = s.pin q := by
  rw [s.segAt_freeOnly c n y g]
  rfl

theorem State.segAt_bit (c n : Nat) (y : Option Player) (g a : Nat) (k : Fld) : (s.segAt c n y g).2.bit a k = s.bit a k := by
  rw [s.segAt_freeOnly c n y g]
  rfl

end

theorem SameForce.trans {s t u : State} (h : SameForce s t) (k : SameForce t u) : SameForce s u :=
  ⟨k.force.trans h.force, k.inFlight.trans h.inFlight, k.free.trans h.free⟩

theorem State.at_sameForce (s : State) (g : Nat) : SameForce s (s.at g) := ⟨rfl, rfl, rfl⟩

theorem State.updPin_sameForce (s : State) (p : Nat) (f : PinSt → PinSt) : SameForce s (s.updPin p f) := ⟨rfl, rfl, rfl⟩

theorem State.sendAll_sameForce (s : State) (l : List Output) : SameForce s (s.sendAll l) := ⟨rfl, rfl, rfl⟩

theorem State.setBit_sameForce (s : State) (a : Nat) (f : Fld) (b : Bool) : SameForce s (s.setBit a f b) := ⟨rfl, rfl, rfl⟩

section

variable {s t : State} (h : SameForce s t)
include h

theorem SameForce.wordAt (a g : Nat) : (t.wordAt a g).1 = (s.wordAt a g).1 ∧ SameForce (s.wordAt a g).2 (t.wordAt a g).2 := by
  have hdue : t.wordsDue a g = s.wordsDue a g := by rw [State.wordsDue, h.inFlight]; rfl
  have hforce : t.inForce a = s.inForce a := by rw [State.inForce, h.force]; rfl
  unfold State.wordAt
  rw [hdue, hforce, h.free]
  split
  · exact ⟨rfl, h⟩
  · exact ⟨rfl, h.force, h.inFlight, congrArg (· + 1) h.free⟩

theorem SameForce.segWord (y : Option Player) (a g : Nat) :
    (t.segWord y a g).1 = (s.segWord y a g).1 ∧ SameForce (s.segWord y a g).2 (t.segWord y a g).2 := by
  obtain ⟨hword, hleft⟩ := h.wordAt a g
  unfold State.segWord
  dsimp only
  rw [hword, hleft.free]
  split
  · exact ⟨hword, hleft⟩
  · exact ⟨rfl, hleft.force, hleft.inFlight, congrArg (· + 1) hleft.free⟩

theorem SameForce.segAt (c n : Nat) (y : Option Player) (g : Nat) : (t.segAt c n y g).1 = (s.segAt c n y g).1 := by
  unfold State.segAt
  extract_lets a b d e a' b' d' e'
  obtain ⟨h0, ha⟩ := h.segWord y (SEG_SST_W0 c n) g
  obtain ⟨h1, hb⟩ := ha.segWord y (SEG_SST_W1 c n) g
  obtain ⟨h2, hd⟩ := hb.segWord y (SEG_SST_W2 c n) g
  obtain ⟨h3, -⟩ := hd.segWord y (SEG_SST_W3 c n) g
  rw [SegEntry.mk.injEq]
  exact ⟨h0, h1, h2, h3⟩

end

end Sys2Proof.Machine
end

section
namespace Sys2Proof.Machine

/-! What the player of a pin touches: the pin, what shows its play, free values and outputs. -/

/-- From s to t the player of pin p has touched nothing but its own. -/
structure PlayerOnly (p : Nat) (s t : State) : Prop where
  rest : t = { s with regs := t.regs, pins := t.pins, free := t.free, outs := t.outs }
  pins : ∀ q, q ≠ p → t.pin q = s.pin q
  regs : s.regsKept t [SEG_PIN (pinCl p) (pinUnit p), SEG_STAT (pinCl p)]

section

variable {p : Nat} {s t u : State}

theorem PlayerOnly.refl (p : Nat) (s : State) : PlayerOnly p s s := ⟨rfl, fun _ _ => rfl, fun _ _ => rfl⟩

theorem PlayerOnly.trans (h : PlayerOnly p s t) (k : PlayerOnly p t u) : PlayerOnly p s u where
  rest := by
    have e := k.rest
    rw [h.rest] at e
    exact e
  pins := fun q hq => (k.pins q hq).trans (h.pins q hq)
  regs := State.regsKept_trans h.regs k.regs

theorem PlayerOnly.missingAt (h : PlayerOnly p s t) (c g : Nat) : t.missingAt c g = s.missingAt c g := by
  rw [h.rest]
  rfl

theorem PlayerOnly.segBad (h : PlayerOnly p s t) (c : Nat) (x : SegEntry) : t.segBad c x = s.segBad c x := by
  rw [h.rest]
  rfl

theorem PlayerOnly.ffld (h : PlayerOnly p s t) (a : Nat) (f : Fld) : t.ffld a f = s.ffld a f := by
  rw [h.rest]
  rfl

theorem PlayerOnly.of_updPin (f : PinSt → PinSt) : PlayerOnly p s (s.updPin p f) :=
  ⟨rfl, fun _ hq => s.updPin_pin_ne p f _ hq, fun _ _ => rfl⟩

theorem PlayerOnly.of_setFld {a : Nat} (f : Fld) (v : Nat) (ha : a ∈ [SEG_PIN (pinCl p) (pinUnit p), SEG_STAT (pinCl p)]) :
    PlayerOnly p s (s.setFld a f v) :=
  ⟨rfl, fun _ _ => rfl, s.setFld_regsKept f v ha⟩

theorem PlayerOnly.of_setBit {a : Nat} (f : Fld) (b : Bool) (ha : a ∈ [SEG_PIN (pinCl p) (pinUnit p), SEG_STAT (pinCl p)]) :
    PlayerOnly p s (s.setBit a f b) := .of_setFld f _ ha

theorem PlayerOnly.of_orBit {a : Nat} (f : Fld) (u : Nat) (ha : a ∈ [SEG_PIN (pinCl p) (pinUnit p), SEG_STAT (pinCl p)]) :
    PlayerOnly p s (s.orBit a f u) := .of_setFld f _ ha

theorem PlayerOnly.of_freeOnly (h : s.freeOnly t) : PlayerOnly p s t := by
  rw [h]
  exact ⟨rfl, fun _ _ => rfl, fun _ _ => rfl⟩

theorem PlayerOnly.of_send (o : Output) : PlayerOnly p s (s.send o) := ⟨rfl, fun _ _ => rfl, fun _ _ => rfl⟩

theorem PlayerOnly.of_sendAll (l : List Output) : PlayerOnly p s (s.sendAll l) := ⟨rfl, fun _ _ => rfl, fun _ _ => rfl⟩

end

section

variable (p : Nat) (s : State)

theorem State.sendAll_pin (l : List Output) (q : Nat) : (s.sendAll l).pin q = s.pin q := by rfl

theorem State.updPin_fbit (f : PinSt → PinSt) (a : Nat) (g : Fld) (u : Nat) : (s.updPin p f).fbit a g u = s.fbit a g u := by rfl

theorem PlayerOnly.of_showContact (old : State) (g : Nat) : PlayerOnly p s (s.showContact old p g) := by
  unfold State.showContact
  split
  · exact .refl p s
  · exact .of_send _

theorem State.showContact_pin (old : State) (g q : Nat) : (s.showContact old p g).pin q = s.pin q := by
  unfold State.showContact
  split <;> rfl

theorem State.showContact_reg (old : State) (g a : Nat) : (s.showContact old p g).reg a = s.reg a := by
  unfold State.showContact
  split <;> rfl

/-- The pending edge is placed or there is none; the driver may follow it (R109). -/
theorem State.flushEdge_pin : ((s.flushEdge p).pin p).player = (s.pin p).player ∧ ((s.flushEdge p).pin p).pendEdge = none := by
  unfold State.flushEdge
  split
  · next x _ =>
    rw [State.updPin_pin, s.placeEdge_eq, State.sendAll_pin, s.drivenBy_pin]
    exact ⟨rfl, rfl⟩
  · next h => exact ⟨rfl, h⟩

theorem PlayerOnly.of_flushEdge : PlayerOnly p s (s.flushEdge p) := by
  unfold State.flushEdge
  split
  · next x _ =>
    rw [s.placeEdge_eq]
    exact ((PlayerOnly.of_updPin _).trans (.of_sendAll _)).trans (.of_updPin _)
  · exact .refl p s

theorem State.flushEdge_sameForce : SameForce s (s.flushEdge p) := by
  unfold State.flushEdge
  split
  · rw [s.placeEdge_eq]
    exact ((s.updPin_sameForce ..).trans (State.sendAll_sameForce ..)).trans (State.updPin_sameForce ..)
  · exact ⟨rfl, rfl, rfl⟩

end

/-! A player begins to play an entry (R149, R151). -/

/-- The player of a pin that begins a play of entry n, with nothing known of its validity. -/
def State.playerOf (s : State) (p n g plays last : Nat) (trig : Bool) : Player :=
  { entry := n, words := (s.segAt (pinCl p) n (s.pin p).player g).1, playStart := g, last := last, plays := plays, trig := trig
    undo := some (g, s.fld (SEG_PIN (pinCl p) (pinUnit p)) SEG_PIN_CUR_ENTRY, s.fbit (SEG_STAT (pinCl p)) SEG_STAT_INVALID (pinUnit p))
    oldWords := ((s.pin p).player.map (·.oldWords)).getD [], oldBytes := ((s.pin p).player.map (·.oldBytes)).getD [] }

/-- The words of an entry are taken and CUR_ENTRY names it. -/
def State.entryTaken (s : State) (p n g : Nat) : State :=
  (s.segAt (pinCl p) n (s.pin p).player g).2.setFld (SEG_PIN (pinCl p) (pinUnit p)) SEG_PIN_CUR_ENTRY n

section

variable (p n g plays last : Nat) (trig : Bool) (s : State)

theorem PlayerOnly.of_entryTaken : PlayerOnly p s (s.entryTaken p n g) :=
  (PlayerOnly.of_freeOnly (s.segAt_freeOnly ..)).trans (.of_setFld _ _ (List.mem_cons_self ..))

theorem State.entryTaken_pin (q : Nat) : (s.entryTaken p n g).pin q = s.pin q := by
  rw [State.entryTaken, State.setFld_pin, State.segAt_pin]

theorem State.entryTaken_playing : (s.entryTaken p n g).bit (SEG_PIN (pinCl p) (pinUnit p)) SEG_PIN_PLAYING =
    s.bit (SEG_PIN (pinCl p) (pinUnit p)) SEG_PIN_PLAYING := by
  rw [State.entryTaken, State.setFld_bit_apart _ _ _ _ _ (by decide), State.segAt_bit]

theorem State.playEntry_eq : s.playEntry p n g plays last trig [] =
    if s.segBad (pinCl p) (s.playerOf p n g plays last trig).words then
      (s.entryTaken p n g).holdInvalid p last (s.playerOf p n g plays last trig)
    else (s.entryTaken p n g).updPin p (fun w => { w with player := some (s.playerOf p n g plays last trig) }) := by
  unfold State.playEntry
  simp only [State.meet_nil, ite_self]
  rw [← (PlayerOnly.of_entryTaken p n g s).segBad]
  rfl

end

section

variable (p k : Nat) (y : Player) (s : State)

theorem PlayerOnly.of_holdInvalid : PlayerOnly p s (s.holdInvalid p k y) := by
  rw [State.holdInvalid]
  exact (PlayerOnly.of_orBit _ _ (List.mem_cons_of_mem _ (List.mem_singleton_self _))).trans (.of_updPin _)

theorem State.holdInvalid_pin : (s.holdInvalid p k y).pin p =
    { s.pin p with player := some { y with last := k, plays := 0, held := some k, chosen := none, trig := false } } := by
  rw [State.holdInvalid, State.updPin_pin, State.orBit_pin]

theorem State.holdInvalid_invalid : (s.holdInvalid p k y).fbit (SEG_STAT (pinCl p)) SEG_STAT_INVALID (pinUnit p) = true := by
  rw [State.holdInvalid, State.updPin_fbit,
    State.orBit_fbit _ _ _ _ (by decide) (by decide) (show p % 16 < 16 from Nat.mod_lt _ (by decide))]

theorem segPin_ne_segStat : SEG_PIN (pinCl p) (pinUnit p) ≠ SEG_STAT (pinCl p) := by
  unfold SEG_PIN SEG_STAT pinUnit
  omega

theorem State.holdInvalid_playing : (s.holdInvalid p k y).bit (SEG_PIN (pinCl p) (pinUnit p)) SEG_PIN_PLAYING =
    s.bit (SEG_PIN (pinCl p) (pinUnit p)) SEG_PIN_PLAYING := by
  rw [State.holdInvalid, State.updPin_bit, State.orBit_bit_ne _ _ _ _ _ _ (segPin_ne_segStat p)]

end

end Sys2Proof.Machine
end

section
namespace Sys2Proof.Machine

/-! A handover starts (R141, R143, R151). -/

/-- What a play that begins shows: the pin's player, on its first sample or held at the last one when its entry is invalid, and
INVALID then. -/
structure Begins (p n g last : Nat) (s t : State) (y : Player) : Prop where
  player : (t.pin p).player = some y
  entry : y.entry = n
  start : y.playStart = g
  plays : y.plays = 0
  words : y.words = (s.segAt (pinCl p) n (s.pin p).player g).1
  invalid : s.segBad (pinCl p) y.words = true →
    y.held = some last ∧ t.fbit (SEG_STAT (pinCl p)) SEG_STAT_INVALID (pinUnit p) = true
  valid : s.segBad (pinCl p) y.words = false → y.held = none

section

variable (p n g last : Nat) (trig : Bool) (s : State)

theorem PlayerOnly.of_playEntry (plays : Nat) : PlayerOnly p s (s.playEntry p n g plays last trig []) := by
  rw [State.playEntry_eq]
  split
  · exact (PlayerOnly.of_entryTaken p n g s).trans (.of_holdInvalid ..)
  · exact (PlayerOnly.of_entryTaken p n g s).trans (.of_updPin _)

theorem State.playEntry_playing (plays : Nat) :
    (s.playEntry p n g plays last trig []).bit (SEG_PIN (pinCl p) (pinUnit p)) SEG_PIN_PLAYING =
      s.bit (SEG_PIN (pinCl p) (pinUnit p)) SEG_PIN_PLAYING := by
  rw [State.playEntry_eq, ← s.entryTaken_playing p n g]
  split
  · exact State.holdInvalid_playing ..
  · rw [State.updPin_bit]

theorem State.playEntry_pendEdge (plays : Nat) : ((s.playEntry p n g plays last trig []).pin p).pendEdge = (s.pin p).pendEdge := by
  rw [State.playEntry_eq, ← s.entryTaken_pin p n g]
  split
  · rw [State.holdInvalid_pin]
  · rw [State.updPin_pin]

theorem State.playEntry_begins : ∃ y, Begins p n g last s (s.playEntry p n g 0 last trig []) y := by
  rw [State.playEntry_eq]
  split
  · next hbad =>
    exact ⟨_, congrArg PinSt.player (State.holdInvalid_pin ..), rfl, rfl, rfl, rfl,
      fun _ => ⟨rfl, State.holdInvalid_invalid ..⟩, fun h => absurd (hbad.symm.trans h) (by decide)⟩
  · next hgood =>
    exact ⟨_, congrArg PinSt.player (State.updPin_pin ..), rfl, rfl, rfl, rfl, fun h => absurd h hgood, fun _ => rfl⟩

end

/-- At a boundary the pending edge is placed and PLAYING is set. -/
def State.handoverOpens (s : State) (p b : Nat) : State :=
  ((s.at b).flushEdge p).setBit (SEG_PIN (pinCl p) (pinUnit p)) SEG_PIN_PLAYING true

/-- The player of a pin begins at START_ENTRY. -/
def State.handoverPlays (s : State) (p b : Nat) : State :=
  (s.handoverOpens p b).playEntry p (s.ffld (SEG_PIN (pinCl p) (pinUnit p)) SEG_PIN_START_ENTRY) b 0 0 false []

/-- The player takes the driver: on, at its sample. -/
def State.playerDrives (s : State) (p b : Nat) : State :=
  s.updPin p (fun y => { y with idleLeft := some (b, y.on, y.level), on := true, level := s.playerCode p b, idle := none })

/-- The player of a pin begins, and in a tenon that is not missing it drives (R143). -/
def State.handoverStarted (s : State) (p b : Nat) : State :=
  if s.missingAt (pinCl p) b then s.handoverPlays p b
  else ((s.handoverPlays p b).playerDrives p b).showContact s p b

section

variable (p b : Nat) (s : State)

theorem PlayerOnly.of_handoverOpens : PlayerOnly p (s.at b) (s.handoverOpens p b) :=
  (PlayerOnly.of_flushEdge p _).trans (.of_setBit _ _ (List.mem_cons_self ..))

theorem PlayerOnly.of_handoverPlays : PlayerOnly p (s.at b) (s.handoverPlays p b) :=
  (PlayerOnly.of_handoverOpens p b s).trans (.of_playEntry ..)

theorem PlayerOnly.of_handoverStarted : PlayerOnly p (s.at b) (s.handoverStarted p b) := by
  unfold State.handoverStarted
  split
  · exact .of_handoverPlays p b s
  · exact ((PlayerOnly.of_handoverPlays p b s).trans (.of_updPin _)).trans (.of_showContact ..)

theorem State.handoverOpens_sameForce : SameForce s (s.handoverOpens p b) := by
  rw [State.handoverOpens]
  exact ((s.at_sameForce b).trans ((s.at b).flushEdge_sameForce p)).trans (State.setBit_sameForce ..)

theorem State.handoverOpens_player : ((s.handoverOpens p b).pin p).player = (s.pin p).player := by
  rw [State.handoverOpens, State.setBit_pin, ((s.at b).flushEdge_pin p).1, State.at_pin]

theorem State.handoverPlays_pendEdge : ((s.handoverPlays p b).pin p).pendEdge = none := by
  rw [State.handoverPlays, State.playEntry_pendEdge, State.handoverOpens, State.setBit_pin, ((s.at b).flushEdge_pin p).2]

theorem State.handoverPlays_playing : (s.handoverPlays p b).bit (SEG_PIN (pinCl p) (pinUnit p)) SEG_PIN_PLAYING = true := by
  rw [State.handoverPlays, State.playEntry_playing, State.handoverOpens, State.setBit_bit _ _ _ _ rfl (by decide)]

theorem State.handoverPlays_begins (h : (s.pin p).player = none) : ∃ y,
    Begins p (s.ffld (SEG_PIN (pinCl p) (pinUnit p)) SEG_PIN_START_ENTRY) b 0 s (s.handoverPlays p b) y := by
  obtain ⟨y, hplayer, hentry, hstart, hplays, hwords, hinvalid, hvalid⟩ := (s.handoverOpens p b).playEntry_begins p
    (s.ffld (SEG_PIN (pinCl p) (pinUnit p)) SEG_PIN_START_ENTRY) b 0 false
  rw [s.handoverOpens_player, h, (s.handoverOpens_sameForce p b).segAt] at hwords
  rw [(PlayerOnly.of_handoverOpens p b s).segBad] at hinvalid hvalid
  exact ⟨y, hplayer, hentry, hstart, hplays, by rw [hwords, h], hinvalid, hvalid⟩

/-- The driver that the player takes changes neither the player nor a register. -/
theorem State.handoverStarted_reg (a : Nat) : (s.handoverStarted p b).reg a = (s.handoverPlays p b).reg a := by
  unfold State.handoverStarted
  split
  · rfl
  · exact State.showContact_reg ..

theorem State.handoverStarted_pin : ((s.handoverStarted p b).pin p).player = ((s.handoverPlays p b).pin p).player ∧
    ((s.handoverStarted p b).pin p).pendEdge = ((s.handoverPlays p b).pin p).pendEdge := by
  unfold State.handoverStarted
  split
  · exact ⟨rfl, rfl⟩
  · rw [State.showContact_pin, State.playerDrives, State.updPin_pin]
    exact ⟨rfl, rfl⟩

theorem State.handoverStarted_on (h : s.missingAt (pinCl p) b = false) : ((s.handoverStarted p b).pin p).on = true := by
  rw [State.handoverStarted, h, if_neg Bool.false_ne_true, State.showContact_pin, State.playerDrives, State.updPin_pin]

end

section

variable (p : PinNo) (g : Nat) (s : State) {x : Cycle}

theorem exec_handoverStart (hx : (s.pin p.val).cyc = some x) (hcode : x.code = 12) (hnone : (s.pin p.val).player = none)
    (hmode : s.hasMode (pinCl p.val) 1 = true) (hg : g = boundaryAt x.start) :
    exec (.handoverStart p g []) s = .next (s.handoverStarted p.val g) := by
  have harm : exec (.handoverStart p g []) s = execHandoverStart p g [] s := rfl
  have hstart : (s.handoverOpens p.val g).ffld (SEG_PIN (pinCl p.val) (pinUnit p.val)) SEG_PIN_START_ENTRY =
      s.ffld (SEG_PIN (pinCl p.val) (pinUnit p.val)) SEG_PIN_START_ENTRY := (PlayerOnly.of_handoverOpens p.val g s).ffld ..
  have hmissing : (s.handoverPlays p.val g).missingAt (pinCl p.val) g = s.missingAt (pinCl p.val) g :=
    (PlayerOnly.of_handoverPlays p.val g s).missingAt ..
  rw [harm, execHandoverStart, hx]
  dsimp only
  rw [if_pos ⟨hcode, hnone, hmode, hg⟩, ← State.handoverOpens, hstart, ← State.handoverPlays, hmissing, State.handoverStarted]
  split <;> rfl

theorem handoverStart_starts (hx : (s.pin p.val).cyc = some x) (hcode : x.code = 12) (hnone : (s.pin p.val).player = none)
    (hmode : s.hasMode (pinCl p.val) 1 = true) (hg : g = boundaryAt x.start) :
    ∃ t y, exec (.handoverStart p g []) s = .next t ∧ (t.pin p.val).player = some y ∧
      y.entry = s.ffld (SEG_PIN (pinCl p.val) (pinUnit p.val)) SEG_PIN_START_ENTRY ∧ y.playStart = g ∧ y.plays = 0 ∧
      y.words = (s.segAt (pinCl p.val) y.entry none g).1 ∧ (t.pin p.val).pendEdge = none ∧
      (s.missingAt (pinCl p.val) g = false → (t.pin p.val).on = true) ∧
      t.bit (SEG_PIN (pinCl p.val) (pinUnit p.val)) SEG_PIN_PLAYING = true ∧
      (s.segBad (pinCl p.val) y.words = true →
        y.held = some 0 ∧ t.fbit (SEG_STAT (pinCl p.val)) SEG_STAT_INVALID (pinUnit p.val) = true) ∧
      (s.segBad (pinCl p.val) y.words = false → y.held = none) ∧
      (∀ q, q ≠ p.val → t.pin q = s.pin q) ∧
      t = { s with gt := max s.gt g, regs := t.regs, pins := t.pins, free := t.free, outs := t.outs } ∧
      s.regsKept t [SEG_PIN (pinCl p.val) (pinUnit p.val), SEG_STAT (pinCl p.val)] := by
  obtain ⟨y, hplayer, hentry, hstart, hplays, hwords, hinvalid, hvalid⟩ := s.handoverPlays_begins p.val g hnone
  obtain ⟨hsame, hedge⟩ := s.handoverStarted_pin p.val g
  have honly : PlayerOnly p.val (s.at g) (s.handoverStarted p.val g) := .of_handoverStarted p.val g s
  have hfbit (a : Nat) (f : Fld) (u : Nat) : (s.handoverStarted p.val g).fbit a f u = (s.handoverPlays p.val g).fbit a f u :=
    congrArg (fun w => nbit (getF w f) u) (s.handoverStarted_reg p.val g a)
  have hplaying : (s.handoverStarted p.val g).bit (SEG_PIN (pinCl p.val) (pinUnit p.val)) SEG_PIN_PLAYING = true :=
    (congrArg (fun w => getF w SEG_PIN_PLAYING == 1) (s.handoverStarted_reg p.val g _)).trans (s.handoverPlays_playing p.val g)
  exact ⟨_, y, exec_handoverStart p g s hx hcode hnone hmode hg, hsame.trans hplayer, hentry, hstart, hplays,
    by rw [hwords, hnone, hentry], hedge.trans (s.handoverPlays_pendEdge p.val g), s.handoverStarted_on p.val g, hplaying,
    fun h => ⟨(hinvalid h).1, (hfbit ..).trans (hinvalid h).2⟩, hvalid, honly.pins, honly.rest, honly.regs⟩

end

/-- Settles O25: a handover's start and a conversion's end by what each of their parts touches, a choice and a GO by cases. -/
theorem playersAndDelta4Conversions : Obligations.PlayersAndDelta4Conversions := by
  unfold Obligations.PlayersAndDelta4Conversions
  refine ⟨fun p g s => ⟨fun x hx hcode hnone hmode hg => handoverStart_starts p g s hx hcode hnone hmode hg,
    fun y hy hheld hchosen hg hclean => ?_⟩,
    fun port c value n s => ⟨fun hreach hgo hn => ⟨fun hbad hdelta hmode hcoding => ?_, fun href => ?_⟩, fun d _ hd hlen => ?_⟩⟩
  · refine ⟨_, _, exec_advCondSample p g s hy hheld hchosen hg hclean, congrArg PinSt.player (State.updPin_pin ..),
      congrArg some (s.nextPlay_eq p g), rfl, fun q hq => State.updPin_pin_ne _ _ _ _ hq, rfl⟩
  · have hgoes : s.delta4Refused c.val n = false := by
      rw [State.delta4Refused, hbad, hdelta, hmode, hcoding]
      rfl
    rw [exec_delta4Convert port c value s hreach, s.delta4Command_begins port c value hgo hn hgoes]
    exact ⟨_, rfl, s.delta4Begun_coding c.val n, s.delta4Begun_bit c.val n, fun k hk => s.delta4Begun_coding_ne c.val n hk,
      s.delta4Begun_frame c.val n, s.delta4Begun_regsKept c.val n⟩
  · rw [exec_delta4Convert port c value s hreach, s.delta4Command_refused port c value hgo hn ((s.delta4Refused_iff c _).mpr href),
      State.delta4Refuse]
  · exact ⟨_, exec_delta4Done c s d hd, s.delta4Ended_coding c d hlen,
      fun hfresh hclean => ⟨s.delta4Ended_anchor c d hlen hfresh hclean, s.delta4Ended_count c d hlen hfresh hclean⟩,
      State.delta4Finish_busy .., State.delta4Finish_done .., State.delta4Finish_coding .., s.delta4Ended_cl c d hlen,
      s.delta4Ended_regsKept c d hlen, fun a => s.delta4Ended_byteAt c d hlen⟩

end Sys2Proof.Machine
end

section
namespace Sys2Proof.Machine

/-! Bits of a number when one of them is set or cleared. -/

theorem nbit_setNBit (v n m : Nat) (b : Bool) : nbit (setNBit v n b) m = if m = n then b else nbit v m := by
  have hlow : v % 2 ^ n < 2 ^ n := Nat.mod_lt _ (Nat.two_pow_pos n)
  have hbit : (if b then 2 ^ n else 0) = 2 ^ n * b.toNat := by cases b <;> simp
  have hmid : 2 ^ n * b.toNat + v % 2 ^ n < 2 ^ (n + 1) := by
    have hb : 2 ^ n * b.toNat ≤ 2 ^ n := by cases b <;> simp
    omega
  have hset : setNBit v n b = 2 ^ (n + 1) * (v / 2 ^ (n + 1)) + (2 ^ n * b.toNat + v % 2 ^ n) := by
    rw [setNBit, hbit, Nat.mul_comm, Nat.add_assoc]
  rw [nbit_eq_testBit, nbit_eq_testBit, hset, Nat.testBit_two_pow_mul_add _ hmid, Nat.testBit_two_pow_mul_add _ hlow]
  rcases lt_trichotomy m n with h | rfl | h
  · rw [if_pos (by omega), if_pos h, if_neg h.ne, Nat.testBit_mod_two_pow, decide_eq_true h, Bool.true_and]
  · rw [if_pos (by omega), if_neg (lt_irrefl m), if_pos rfl, Nat.sub_self]
    cases b <;> rfl
  · rw [if_neg (by omega), if_neg h.ne', Nat.testBit_div_two_pow, Nat.sub_add_cancel (by omega)]

/-- A bit of a field in which one bit is set or cleared. -/
theorem State.setFld_setNBit_fbit (s : State) (a : Nat) (f : Fld) (n m : Nat) (b : Bool) (h : f.lo ≤ f.hi) (k : f.hi < 32)
    (hm : m < f.width) : (s.setFld a f (setNBit (s.fld a f) n b)).fbit a f m = if m = n then b else s.fbit a f m := by
  rw [State.fbit, State.setFld_fld _ _ _ _ h k, nbit_mod_two_pow _ hm, nbit_setNBit]
  rfl

theorem bitsOf_two_pow : ∀ u, u < 16 → bitsOf 16 (2 ^ u) = [u] := by decide

end Sys2Proof.Machine
end

section
namespace Sys2Proof.Machine

/-! The Clamp registers of a cluster lie outside the hub PRT block and apart from one another. -/

theorem clpStat_outside {p : Nat} (hp : p < 1024) : CLP_STAT (pinCl p) < hubBlk 4 ∨ hubBlk 5 ≤ CLP_STAT (pinCl p) := by
  unfold CLP_STAT clBlk hubBlk pinCl
  omega

theorem clpTripCnt_outside {p : Nat} (hp : p < 1024) :
    CLP_TRIP_CNT (pinCl p) (pinUnit p) < hubBlk 4 ∨ hubBlk 5 ≤ CLP_TRIP_CNT (pinCl p) (pinUnit p) := by
  unfold CLP_TRIP_CNT clBlk hubBlk pinCl pinUnit
  omega

theorem clpTripCnt_ne_clpStat (c u : Nat) : CLP_TRIP_CNT c u ≠ CLP_STAT c := by
  unfold CLP_TRIP_CNT CLP_STAT
  omega

end Sys2Proof.Machine
end

section
namespace Sys2Proof.Machine

/-! A latch sets (R172, R180): the latch itself, then its report. -/

/-- The latch of a pin stands from grain g on, the driver is held, and the trip is counted. -/
def State.latchSet (s : State) (p g : Nat) : State :=
  ((s.orBit (CLP_STAT (pinCl p)) CLP_STAT_LATCH (pinUnit p)).updPin p (fun x => { x.hold g with latchAt := some g })).countSat
    (CLP_TRIP_CNT (pinCl p) (pinUnit p)) CLP_TRIP_CNT_COUNT 1

/-- The trip of a pin enters the figures of the run that the pin serves. -/
def State.tripFigured (s : State) (p : Nat) : State :=
  match (s.servedBy p).bind (fun e => (s.eng e).run) with
  | some id => s.updFig (pinCl p) id (fun x => { x with tripPins := setNBit x.tripPins (pinUnit p) true })
  | none => s

/-- A trip of a pin that has not tripped since TRIPPED was cleared. -/
def State.tripReported (s : State) (p g : Nat) : State :=
  (s.orBit (CLP_STAT (pinCl p)) CLP_STAT_TRIPPED (pinUnit p)).event codeTrip 0 p 0 g

section

variable (s : State) (p g : Nat)

theorem State.trip_again (h : s.fbit (CLP_STAT (pinCl p)) CLP_STAT_TRIPPED (pinUnit p) = true) :
    s.trip p g = (s.latchSet p g).tripFigured p := by
  simp only [State.trip, h, Bool.not_true, Bool.false_eq_true, if_false]
  rfl

theorem State.trip_first (h : s.fbit (CLP_STAT (pinCl p)) CLP_STAT_TRIPPED (pinUnit p) = false) :
    s.trip p g = ((s.latchSet p g).tripFigured p).tripReported p g := by
  simp only [State.trip, h, Bool.not_false, if_true]
  rfl

/-! The latch itself. -/

/-- A hold does not look at the filter. -/
theorem PinSt.hold_filter (x : PinSt) (l : List Bool) : ({ x with filter := l } : PinSt).hold g = { x.hold g with filter := l } := by
  unfold PinSt.hold
  split <;> rfl

theorem State.latchSet_pin : (s.latchSet p g).pin p = { (s.pin p).hold g with latchAt := some g } := by
  rw [State.latchSet, State.countSat_pin, State.updPin_pin, State.orBit_pin]

theorem State.latchSet_pin_ne {q : Nat} (hq : q ≠ p) : (s.latchSet p g).pin q = s.pin q := by
  rw [State.latchSet, State.countSat_pin, State.updPin_pin_ne _ _ _ _ hq, State.orBit_pin]

theorem State.latchSet_mem : (s.latchSet p g).mem = s.mem := by
  rw [State.latchSet, State.countSat_mem, State.updPin_mem, State.orBit_mem]

theorem State.latchSet_latch {n : Nat} (hn : n < 16) : (s.latchSet p g).fbit (CLP_STAT (pinCl p)) CLP_STAT_LATCH n =
    if n = pinUnit p then true else s.fbit (CLP_STAT (pinCl p)) CLP_STAT_LATCH n := by
  rw [State.fbit, State.latchSet, State.countSat_fld_ne _ _ _ _ _ _ (clpTripCnt_ne_clpStat _ _).symm, State.updPin_fld]
  exact s.setFld_setNBit_fbit _ _ _ _ _ (by decide) (by decide) hn

theorem State.latchSet_tripped (n : Nat) : (s.latchSet p g).fbit (CLP_STAT (pinCl p)) CLP_STAT_TRIPPED n =
    s.fbit (CLP_STAT (pinCl p)) CLP_STAT_TRIPPED n := by
  rw [State.fbit, State.latchSet, State.countSat_fld_ne _ _ _ _ _ _ (clpTripCnt_ne_clpStat _ _).symm, State.updPin_fld]
  exact s.orBit_fbit_apart _ _ _ _ _ (by decide)

theorem State.latchSet_count : (s.latchSet p g).fld (CLP_TRIP_CNT (pinCl p) (pinUnit p)) CLP_TRIP_CNT_COUNT =
    min (2 ^ CLP_TRIP_CNT_COUNT.width - 1) (s.fld (CLP_TRIP_CNT (pinCl p) (pinUnit p)) CLP_TRIP_CNT_COUNT + 1) := by
  rw [State.latchSet, State.countSat_fld _ _ _ _ (by decide) (by decide), State.updPin_fld,
    State.orBit_fld_ne _ _ _ _ _ _ (clpTripCnt_ne_clpStat _ _), satAdd, Nat.min_comm]

theorem State.latchSet_regsKept : s.regsKept (s.latchSet p g) [CLP_STAT (pinCl p), CLP_TRIP_CNT (pinCl p) (pinUnit p)] := by
  intro a ha
  obtain ⟨hstat, hcount⟩ : a ≠ CLP_STAT (pinCl p) ∧ a ≠ CLP_TRIP_CNT (pinCl p) (pinUnit p) := by simpa using ha
  rw [State.latchSet, State.countSat_reg_ne _ _ _ _ _ hcount, State.updPin_reg, State.orBit_reg_ne _ _ _ _ _ hstat]

end

/-! Its report. -/

/-- From s to t the report of a trip of pin p has touched nothing but what it may: TRIPPED, the figures of the cluster's run, and what
an event touches. -/
structure TripReport (p : Nat) (s t : State) : Prop where
  pins : t.pinView = s.pinView
  latch : ∀ n, t.fbit (CLP_STAT (pinCl p)) CLP_STAT_LATCH n = s.fbit (CLP_STAT (pinCl p)) CLP_STAT_LATCH n
  count : t.reg (CLP_TRIP_CNT (pinCl p) (pinUnit p)) = s.reg (CLP_TRIP_CNT (pinCl p) (pinUnit p))
  cl : ∀ c, c ≠ pinCl p → t.cl c = s.cl c
  rest : (t.engines, t.runs, t.force) = (s.engines, s.runs, s.force)

section

variable {p : Nat} {s t u : State}

theorem TripReport.refl (p : Nat) (s : State) : TripReport p s s := ⟨rfl, fun _ => rfl, rfl, fun _ _ => rfl, rfl⟩

theorem TripReport.trans (h : TripReport p s t) (k : TripReport p t u) : TripReport p s u :=
  ⟨k.pins.trans h.pins, fun n => (k.latch n).trans (h.latch n), k.count.trans h.count, fun c hc => (k.cl c hc).trans (h.cl c hc),
    k.rest.trans h.rest⟩

theorem TripReport.of_tripFigured (p : Nat) (s : State) : TripReport p s (s.tripFigured p) := by
  unfold State.tripFigured
  split
  · exact ⟨rfl, fun _ => rfl, rfl, fun c hc => s.updCl_cl_ne _ _ c hc, rfl⟩
  · exact .refl p s

theorem TripReport.of_event (hp : p < 1024) (s : State) (code src unit arg value : Nat) :
    TripReport p s (s.event code src unit arg value) where
  pins := s.event_pinView code src unit arg value
  latch n := congrArg (nbit · n) (s.event_fld code src unit arg value _ _ (clpStat_outside hp))
  count := s.event_reg code src unit arg value _ (clpTripCnt_outside hp)
  cl c _ := s.event_cl code src unit arg value c
  rest := (congrArg (fun x : State => (x.engines, x.runs, x.force)) (s.event_portsOnly code src unit arg value).rest :)

theorem TripReport.of_tripReported (hp : p < 1024) (s : State) (g : Nat) : TripReport p s (s.tripReported p g) := by
  have hset : TripReport p s (s.orBit (CLP_STAT (pinCl p)) CLP_STAT_TRIPPED (pinUnit p)) := by
    obtain ⟨r, hframe⟩ := s.orBit_frame (CLP_STAT (pinCl p)) CLP_STAT_TRIPPED (pinUnit p)
    refine ⟨?_, fun n => s.orBit_fbit_apart _ _ _ _ n (by decide), s.orBit_reg_ne _ _ _ _ (clpTripCnt_ne_clpStat _ _),
      fun c _ => s.orBit_cl _ _ _ c, ?_⟩
    · rw [hframe]
      rfl
    · rw [hframe]
  rw [State.tripReported]
  exact hset.trans (.of_event hp ..)

theorem TripReport.of_trip (hp : p < 1024) (s : State) (g : Nat) : TripReport p (s.latchSet p g) (s.trip p g) := by
  cases h : s.fbit (CLP_STAT (pinCl p)) CLP_STAT_TRIPPED (pinUnit p) with
  | true =>
    rw [s.trip_again p g h]
    exact .of_tripFigured p _
  | false =>
    rw [s.trip_first p g h]
    exact (TripReport.of_tripFigured p _).trans (.of_tripReported hp ..)

theorem TripReport.of_showContact (p : Nat) (s old : State) (g : Nat) : TripReport p s (s.showContact old p g) := by
  unfold State.showContact
  split
  · exact .refl p s
  · exact ⟨rfl, fun _ => rfl, rfl, fun _ _ => rfl, rfl⟩

end

section

variable (s : State) (p g : Nat)

theorem State.tripFigured_reg (a : Nat) : (s.tripFigured p).reg a = s.reg a := by
  unfold State.tripFigured
  split <;> rfl

theorem State.tripFigured_mem : (s.tripFigured p).mem = s.mem := by
  unfold State.tripFigured
  split <;> rfl

theorem State.showContact_mem (old : State) : (s.showContact old p g).mem = s.mem := by
  unfold State.showContact
  split <;> rfl

/-- A trip leaves TRIPPED set, whether it was or not. -/
theorem State.trip_tripped (hp : p < 1024) : (s.trip p g).fbit (CLP_STAT (pinCl p)) CLP_STAT_TRIPPED (pinUnit p) = true := by
  cases h : s.fbit (CLP_STAT (pinCl p)) CLP_STAT_TRIPPED (pinUnit p) with
  | true =>
    rw [s.trip_again p g h, State.fbit, State.fld, State.tripFigured_reg]
    exact (s.latchSet_tripped p g _).trans h
  | false =>
    rw [s.trip_first p g h, State.tripReported, State.fbit, State.event_fld _ _ _ _ _ _ _ _ (clpStat_outside hp)]
    exact State.orBit_fbit _ _ _ _ (by decide) (by decide) (pinUnit_lt p)

/-- With TRIPPED set already, no event is raised: memory stays and two registers change. -/
theorem State.trip_again_kept (h : s.fbit (CLP_STAT (pinCl p)) CLP_STAT_TRIPPED (pinUnit p) = true) :
    (s.trip p g).mem = s.mem ∧ s.regsKept (s.trip p g) [CLP_STAT (pinCl p), CLP_TRIP_CNT (pinCl p) (pinUnit p)] := by
  rw [s.trip_again p g h]
  exact ⟨(State.tripFigured_mem _ p).trans (s.latchSet_mem p g),
    fun a ha => (State.tripFigured_reg _ p a).trans (s.latchSet_regsKept p g a ha)⟩

end

end Sys2Proof.Machine
end

section
namespace Sys2Proof.Machine

/-! A protection sample (R170, R171). -/

theorem filterTrips_iff (l : List Bool) : filterTrips l = true ↔ 3 ≤ (l.filter (· == true)).length := decide_eq_true_iff

/-- The sample of grain g has entered the filter. -/
def State.sampled (s : State) (p g : Nat) (l : List Bool) : State := (s.at g).updPin p (fun x => { x with filter := l })

/-- The sample of grain g trips: the latch sets at the next grain, and what the pin presents from there on shows. -/
def State.tripTaken (s : State) (p g : Nat) (l : List Bool) : State :=
  ((s.sampled p g l).trip p (g + 1)).showContact (s.sampled p g l) p (g + 1)

section

variable (p : PinNo) (g : Nat) (uv : Int) (s : State)

theorem exec_protectionSample_idle (h : s.fbitF (CLP_CTRL (pinCl p.val) (pinUnit p.val)) CLP_CTRL_EN = false ∨ s.latchBit p.val = true) :
    exec (.protectionSample p g uv) s = .next (s.at g) := by
  have harm : exec (.protectionSample p g uv) s = execProtectionSample p g uv s := rfl
  rw [harm, execProtectionSample, if_pos]
  rcases h with h | h <;> simp [h]

variable (hen : s.fbitF (CLP_CTRL (pinCl p.val) (pinUnit p.val)) CLP_CTRL_EN = true) (hlatch : s.latchBit p.val = false) {l : List Bool}
  (hl : l = s.outOfWindow p.val uv :: (s.pin p.val).filter.take 4)

include hen hlatch hl

theorem exec_protectionSample_taken : exec (.protectionSample p g uv) s =
    .next (if filterTrips l then s.tripTaken p.val g l else s.sampled p.val g l) := by
  have harm : exec (.protectionSample p g uv) s = execProtectionSample p g uv s := rfl
  rw [harm, execProtectionSample, hen, hlatch, ← hl]
  rfl

theorem protectionSample_holds (hfew : (l.filter (· == true)).length < 3) :
    exec (.protectionSample p g uv) s = .next (s.sampled p.val g l) := by
  rw [exec_protectionSample_taken p g uv s hen hlatch hl, if_neg (by rw [filterTrips_iff]; omega)]

theorem protectionSample_trips (hmany : 3 ≤ (l.filter (· == true)).length) :
    exec (.protectionSample p g uv) s = .next (s.tripTaken p.val g l) := by
  rw [exec_protectionSample_taken p g uv s hen hlatch hl, if_pos ((filterTrips_iff l).mpr hmany)]

end

section

variable (s : State) (p g : Nat) (l : List Bool)

theorem State.sampled_pin : (s.sampled p g l).pin p = { s.pin p with filter := l } := by
  rw [State.sampled, State.updPin_pin, State.at_pin]

theorem State.sampled_pin_ne {q : Nat} (hq : q ≠ p) : (s.sampled p g l).pin q = s.pin q := by
  rw [State.sampled, State.updPin_pin_ne _ _ _ _ hq, State.at_pin]

end

/-! A sample that trips: the latch sets, and the rest reports it. -/

section

variable (s : State) {p : Nat} (hp : p < 1024) (g : Nat) (l : List Bool)

/-- With TRIPPED set already, memory and the other registers stay. -/
theorem State.tripTaken_again (h : s.fbit (CLP_STAT (pinCl p)) CLP_STAT_TRIPPED (pinUnit p) = true) :
    (s.tripTaken p g l).mem = s.mem ∧
      s.regsKept (s.tripTaken p g l) [CLP_STAT (pinCl p), CLP_TRIP_CNT (pinCl p) (pinUnit p)] := by
  obtain ⟨hmem, hregs⟩ := (s.sampled p g l).trip_again_kept p (g + 1) h
  exact ⟨(State.showContact_mem ..).trans hmem, fun a ha => (State.showContact_reg ..).trans (hregs a ha)⟩

include hp

theorem State.tripTaken_report : TripReport p ((s.sampled p g l).latchSet p (g + 1)) (s.tripTaken p g l) :=
  (TripReport.of_trip hp ..).trans (.of_showContact p ..)

theorem State.tripTaken_pin : ({ (s.tripTaken p g l).pin p with player := none } : PinSt) =
    { (s.pin p).hold (g + 1) with filter := l, latchAt := some (g + 1), player := none } := by
  have hview := congrFun (s.tripTaken_report hp g l).pins p
  rw [State.pinView, State.pinView, State.latchSet_pin, State.sampled_pin, PinSt.hold_filter] at hview
  exact hview

theorem State.tripTaken_held : ((s.tripTaken p g l).pin p).held = true :=
  (congrArg PinSt.held (s.tripTaken_pin hp g l) :).trans (PinSt.hold_held ..)

theorem State.tripTaken_pin_ne {q : Nat} (hq : q ≠ p) :
    ({ (s.tripTaken p g l).pin q with player := none } : PinSt) = { s.pin q with player := none } := by
  have hview := congrFun (s.tripTaken_report hp g l).pins q
  rw [State.pinView, State.pinView, State.latchSet_pin_ne _ _ _ hq, State.sampled_pin_ne _ _ _ _ hq] at hview
  exact hview

theorem State.tripTaken_latch : (s.tripTaken p g l).latchBit p = true := by
  rw [State.latchBit, (s.tripTaken_report hp g l).latch, State.latchSet_latch _ _ _ (pinUnit_lt p), if_pos rfl]

/-- The latches of the cluster's other pins stay. -/
theorem State.tripTaken_latch_ne {q : Nat} (hq : q ≠ p) (hcl : pinCl q = pinCl p) : (s.tripTaken p g l).latchBit q = s.latchBit q := by
  have hunit : pinUnit q ≠ pinUnit p := fun h => hq (by rw [← pin_eq_unit q, ← pin_eq_unit p, hcl, h])
  rw [State.latchBit, State.latchBit, hcl, (s.tripTaken_report hp g l).latch, State.latchSet_latch _ _ _ (pinUnit_lt q), if_neg hunit]
  rfl

theorem State.tripTaken_count : (s.tripTaken p g l).fld (CLP_TRIP_CNT (pinCl p) (pinUnit p)) CLP_TRIP_CNT_COUNT =
    min (2 ^ CLP_TRIP_CNT_COUNT.width - 1) (s.fld (CLP_TRIP_CNT (pinCl p) (pinUnit p)) CLP_TRIP_CNT_COUNT + 1) :=
  (congrArg (getF · CLP_TRIP_CNT_COUNT) (s.tripTaken_report hp g l).count).trans ((s.sampled p g l).latchSet_count p (g + 1))

theorem State.tripTaken_tripped : (s.tripTaken p g l).fbit (CLP_STAT (pinCl p)) CLP_STAT_TRIPPED (pinUnit p) = true := by
  rw [State.fbit, State.fld, State.tripTaken, State.showContact_reg]
  exact State.trip_tripped _ p _ hp

end

end Sys2Proof.Machine
end

section
namespace Sys2Proof.Machine

/-! A latch clears by a write (R175-R177). -/

/-- The latch that set at grain a has cleared at boundary b. -/
def State.latchCleared (s : State) (p a b : Nat) : State :=
  (s.setFld (CLP_STAT (pinCl p)) CLP_STAT_LATCH (setNBit (s.fld (CLP_STAT (pinCl p)) CLP_STAT_LATCH) (pinUnit p) false)).updPin p
    (fun x => { x with latchAt := none, latchSpans := (a, b) :: x.latchSpans, filter := freshFilter })

section

variable (s : State) {p a b c u : Nat}

theorem State.clearLatch_clears (ha : (s.pin p).latchAt = some a) (hab : a < b) (hlatch : s.latchBit p = true) :
    s.clearLatch p b = s.latchCleared p a b := by
  rw [State.clearLatch, ha]
  exact if_pos ⟨hab, hlatch⟩

/-- A latch that set in the grain of the clear, or later, stays set (R177). -/
theorem State.clearLatch_late (ha : (s.pin p).latchAt = some a) (hab : b ≤ a) : s.clearLatch p b = s := by
  rw [State.clearLatch, ha]
  exact if_neg fun h => absurd h.1 hab.not_gt

theorem State.latchCleared_latch : (s.latchCleared p a b).latchBit p = false := by
  rw [State.latchCleared, State.updPin_latchBit, State.latchBit,
    s.setFld_setNBit_fbit _ _ _ _ _ (by decide) (by decide) (pinUnit_lt p), if_pos rfl]

theorem State.latchCleared_pin : (s.latchCleared p a b).pin p =
    { s.pin p with latchAt := none, latchSpans := (a, b) :: (s.pin p).latchSpans, filter := freshFilter } := by
  rw [State.latchCleared, State.updPin_pin, State.setFld_pin]

theorem State.latchCleared_pin_ne {q : Nat} (hq : q ≠ p) : (s.latchCleared p a b).pin q = s.pin q := by
  rw [State.latchCleared, State.updPin_pin_ne _ _ _ _ hq, State.setFld_pin]

theorem State.setFld_updPin_frame (k : Nat) (f : Fld) (v q : Nat) (h : PinSt → PinSt) : (s.setFld k f v).updPin q h =
    { s with regs := ((s.setFld k f v).updPin q h).regs, pins := ((s.setFld k f v).updPin q h).pins } := by rfl

theorem State.latchCleared_frame :
    s.latchCleared p a b = { s with regs := (s.latchCleared p a b).regs, pins := (s.latchCleared p a b).pins } := by
  rw [State.latchCleared]
  exact s.setFld_updPin_frame ..

theorem State.latchCleared_regsKept : s.regsKept (s.latchCleared p a b) [CLP_STAT (pinCl p)] := by
  rw [State.latchCleared]
  exact State.regsKept_trans (s.setFld_regsKept _ _ (List.mem_singleton_self _)) fun a _ => State.updPin_reg _ _ _ a

theorem State.clearLatch_servedBy (q : Nat) : (s.clearLatch p b).servedBy q = s.servedBy q := by
  unfold State.clearLatch
  split
  · split
    · simp only [State.servedBy, State.updPin_eng, State.setFld_eng]
    · rfl
  · rfl

theorem State.clearLatches_period (hu : u < 16) (hmode : s.fbitF (CLP_CTRL c u) CLP_CTRL_CLR_MODE = true) :
    s.clearLatches c (2 ^ u) b = s.at b := by
  rw [State.clearLatches, bitsOf_two_pow u hu]
  exact if_pos hmode

theorem State.clearLatches_write (hu : u < 16) (hmode : s.fbitF (CLP_CTRL c u) CLP_CTRL_CLR_MODE = false)
    (hserved : (s.servedBy (16 * c + u)).isSome = true) : s.clearLatches c (2 ^ u) b = (s.at b).clearLatch (16 * c + u) b := by
  have hwrite : (s.at b).fbitF (CLP_CTRL c u) CLP_CTRL_CLR_MODE = false := hmode
  have hrun : (((s.at b).clearLatch (16 * c + u) b).servedBy (16 * c + u)).isSome = true := (State.clearLatch_servedBy ..).symm ▸ hserved
  rw [State.clearLatches, bitsOf_two_pow u hu]
  exact (if_neg (by rw [hwrite]; decide)).trans (if_neg (by rw [← Option.not_isSome, hrun]; decide))

theorem State.atCluster_at : (s.atCluster c b).at b = s.atCluster c b := by
  have hgt : max (s.atCluster c b).gt b = (s.atCluster c b).gt := max_eq_left (le_max_right s.gt b)
  rw [State.at, hgt]

end

section

variable (port : PortNo) (p : PinNo) (c : ClNo) (b : Nat) (s : State) (hc : c.val = pinCl p.val) (hreach : s.reaches (CLP_STAT c.val))
  {m : BitVec 16} (hm : m.toNat = 2 ^ pinUnit p.val)

include hreach hm

theorem exec_latchClearWrite : exec (.latchClearWrite port c m b) s =
    .next ((s.atCluster c.val b).clearLatches c.val (2 ^ pinUnit p.val) b) := by
  have harm : exec (.latchClearWrite port c m b) s = execLatchClearWrite port c m b s := rfl
  rw [harm, execLatchClearWrite, State.reach_open _ _ _ _ hreach.1 hreach.2, hm]

theorem latchClearWrite_period (hmode : s.fbitF (CLP_CTRL c.val (pinUnit p.val)) CLP_CTRL_CLR_MODE = true) :
    exec (.latchClearWrite port c m b) s = .next (s.atCluster c.val b) := by
  rw [exec_latchClearWrite port p c b s hreach hm, State.clearLatches_period (s.atCluster c.val b) (pinUnit_lt _) hmode, State.atCluster_at]

include hc

theorem latchClearWrite_write (hmode : s.fbitF (CLP_CTRL c.val (pinUnit p.val)) CLP_CTRL_CLR_MODE = false)
    (hserved : (s.servedBy p.val).isSome = true) :
    exec (.latchClearWrite port c m b) s = .next ((s.atCluster c.val b).clearLatch p.val b) := by
  have hpin : 16 * c.val + pinUnit p.val = p.val := by rw [hc, pin_eq_unit]
  rw [exec_latchClearWrite port p c b s hreach hm,
    State.clearLatches_write (s.atCluster c.val b) (pinUnit_lt _) hmode (by rw [hpin]; exact hserved), State.atCluster_at, hpin]

end

/-- Settles O28: a sample that trips sets the latch, and what follows only reports it; a write clears at most the one latch of its mask. -/
theorem clampTripsAndClears : Obligations.ClampTripsAndClears := by
  unfold Obligations.ClampTripsAndClears
  intro port p g b uv s
  refine ⟨exec_protectionSample_idle p g uv s, fun hen hlatch l hl => ⟨fun hfew => ?_, fun hmany => ?_⟩,
    fun c hc hreach => ⟨fun hmode m hm => latchClearWrite_period port p c b s hreach hm hmode,
      fun hmode hserved => ⟨fun a ha hab hset m hm => ?_, fun a ha hba m hm => ?_⟩⟩⟩
  · exact ⟨_, protectionSample_holds p g uv s hen hlatch hl hfew, s.sampled_pin p.val g l,
      fun q hq => s.sampled_pin_ne p.val g l hq, rfl⟩
  · have hreport := s.tripTaken_report p.isLt g l
    obtain ⟨hengines, hruns, hforce⟩ : _ ∧ _ ∧ _ := by simpa only [Prod.mk.injEq] using hreport.rest
    exact ⟨_, protectionSample_trips p g uv s hen hlatch hl hmany, s.tripTaken_latch p.isLt g l, s.tripTaken_pin p.isLt g l,
      s.tripTaken_held p.isLt g l, s.tripTaken_count p.isLt g l, s.tripTaken_tripped p.isLt g l,
      fun q hq => ⟨s.tripTaken_pin_ne p.isLt g l hq, s.tripTaken_latch_ne p.isLt g l hq⟩,
      hreport.cl, hengines, hruns, hforce, s.tripTaken_again g l⟩
  · rw [latchClearWrite_write port p c b s hc hreach hm hmode hserved, State.clearLatch_clears (s.atCluster c.val b) ha hab hset]
    exact ⟨_, rfl, State.latchCleared_latch _, State.latchCleared_pin _, fun q hq => State.latchCleared_pin_ne _ hq,
      State.latchCleared_frame _, hc ▸ State.latchCleared_regsKept _⟩
  · rw [latchClearWrite_write port p c b s hc hreach hm hmode hserved, State.clearLatch_late (s.atCluster c.val b) ha hba]

end Sys2Proof.Machine
end

section
namespace Sys2Proof.Machine

/-! A record that is written twice, and what touches one engine and its status register alone. -/

section

variable {α : Type}

theorem tdel_of_absent (t : Tbl α) (n : Nat) (h : ∀ y ∈ t, y.1 ≠ n) : tdel t n = t := by
  induction t with
  | nil => rfl
  | cons x t ih =>
    obtain ⟨k, v⟩ := x
    have hk : k ≠ n := h (k, v) (List.mem_cons_self ..)
    rw [tdel, if_neg hk, ih fun y hy => h y (List.mem_cons_of_mem _ hy)]

theorem tdel_tins_same (t : Tbl α) (n : Nat) (x : α) : tdel (tins t n x) n = tdel t n := by
  induction t with
  | nil => simp [tins, tdel]
  | cons y t ih =>
    obtain ⟨k, v⟩ := y
    by_cases hk : k < n
    · simp [tins, tdel, hk, ih]
    · simp [tins, tdel, hk]

variable [DecidableEq α] (d : Nat → α)

theorem tdel_tput_same (t : Tbl α) (n : Nat) (x : α) : tdel (tput d t n x) n = tdel t n := by
  have hself : tdel (tdel t n) n = tdel t n := tdel_of_absent _ n (tdel_keys t n)
  unfold tput
  split
  · exact hself
  · rw [tdel_tins_same, hself]

theorem tput_tput_same (t : Tbl α) (n : Nat) (x y : α) : tput d (tput d t n x) n y = tput d t n y := by
  rw [tput, tdel_tput_same, ← tput]

end

section

variable (s : State) (e : Nat)

@[simp] theorem State.setEng_setEng (x y : EngSt) : (s.setEng e x).setEng e y = s.setEng e y :=
  congrArg (fun t => { s with engines := t }) (tput_tput_same _ s.engines e x y)

@[simp] theorem State.setEng_updEng (x : EngSt) (f : EngSt → EngSt) : (s.setEng e x).updEng e f = s.setEng e (f x) := by
  rw [State.updEng, State.setEng_eng, State.setEng_setEng]

/-- Only engine e and its status register differ. -/
structure EngineOnly (e : Nat) (s t : State) : Prop where
  rest : { t with engines := [], regs := [] } = { s with engines := [], regs := [] }
  others : ∀ k, k ≠ e → t.eng k = s.eng k
  regs : s.regsKept t [engStat e]

variable {s e} {t u : State}

theorem EngineOnly.refl : EngineOnly e s s := ⟨rfl, fun _ _ => rfl, fun _ _ => rfl⟩

theorem EngineOnly.trans (h : EngineOnly e s t) (k : EngineOnly e t u) : EngineOnly e s u :=
  ⟨k.rest.trans h.rest, fun i hi => (k.others i hi).trans (h.others i hi), State.regsKept_trans h.regs k.regs⟩

theorem EngineOnly.setEng (h : EngineOnly e s t) (x : EngSt) : EngineOnly e s (t.setEng e x) :=
  h.trans ⟨rfl, fun k hk => t.setEng_eng_ne e x k hk, fun _ _ => rfl⟩

theorem EngineOnly.updEng (h : EngineOnly e s t) (f : EngSt → EngSt) : EngineOnly e s (t.updEng e f) := h.setEng _

theorem EngineOnly.of_setFld {a : Nat} (f : Fld) (v : Nat) (ha : a ∈ [engStat e]) : EngineOnly e t (t.setFld a f v) :=
  ⟨rfl, fun _ _ => rfl, t.setFld_regsKept f v ha⟩

theorem EngineOnly.setFld (h : EngineOnly e s t) (f : Fld) (v : Nat) : EngineOnly e s (t.setFld (engStat e) f v) :=
  h.trans (.of_setFld f v (List.mem_singleton_self _))

theorem EngineOnly.setBit (h : EngineOnly e s t) (f : Fld) (b : Bool) : EngineOnly e s (t.setBit (engStat e) f b) := h.setFld ..

theorem EngineOnly.frame (h : EngineOnly e s t) : t = { s with engines := t.engines, regs := t.regs } :=
  congrArg (fun r : State => { r with engines := t.engines, regs := t.regs }) h.rest

end

end Sys2Proof.Machine
end

section
namespace Sys2Proof.Machine

/-! The close of an H-form word (R186, R188) and how its engine goes on (R191, Table 6-2). -/

section

variable (s : State) (e g : Nat) (w : Micro)

/-- The engine of a word that closes: it stands after the word's last cycle (R186, R188). -/
def EngSt.closed (x : EngSt) (w : Micro) : EngSt := { (x.advance w w.cycles) with word := none }

theorem State.closeWord_eq : s.closeWord e g w = (s.at g).setEng e ((s.eng e).closed w) := rfl

@[simp] theorem State.closeWord_eng : (s.closeWord e g w).eng e = (s.eng e).closed w := State.setEng_eng ..

theorem State.closeWord_engineOnly : EngineOnly e (s.at g) (s.closeWord e g w) := EngineOnly.refl.setEng _

/-- What a close keeps of its engine: all but VADDR, the vector that HOLD repeats, and the word. -/
theorem EngSt.closed_eq (x : EngSt) (w : Micro) :
    x.closed w = { x with vaddr := (x.closed w).vaddr, lastStream := (x.closed w).lastStream, word := none } := by
  unfold EngSt.closed EngSt.advance
  split <;> rfl

@[simp] theorem EngSt.closed_nextPc (x : EngSt) (w : Micro) : (x.closed w).nextPc = x.nextPc := by rw [EngSt.closed_eq]; rfl
@[simp] theorem EngSt.closed_coll (x : EngSt) (w : Micro) : (x.closed w).coll = x.coll := by rw [EngSt.closed_eq]
@[simp] theorem EngSt.closed_vform (x : EngSt) (w : Micro) : (x.closed w).vform = x.vform := by rw [EngSt.closed_eq]
@[simp] theorem EngSt.closed_run (x : EngSt) (w : Micro) : (x.closed w).run = x.run := by rw [EngSt.closed_eq]
@[simp] theorem EngSt.closed_stack (x : EngSt) (w : Micro) : (x.closed w).stack = x.stack := by rw [EngSt.closed_eq]

theorem EngSt.closed_vaddr_stream (x : EngSt) {w : Micro} (hm : w.vmode = 0) (hc : 0 < w.cycles) :
    (x.closed w).vaddr = (x.vaddr + w.cycles) % 2 ^ 40 := by
  rw [EngSt.closed, EngSt.advance, if_pos ⟨hm, hc⟩]

theorem EngSt.closed_vaddr_other (x : EngSt) {w : Micro} (hm : w.vmode ≠ 0) : (x.closed w).vaddr = x.vaddr := by
  rw [EngSt.closed, EngSt.advance, if_neg fun h => hm h.1]

variable {s e g w}

@[simp] theorem State.fallThrough_eng : (s.fallThrough e).eng e = { s.eng e with pc := (s.eng e).nextPc } := State.updEng_eng ..

@[simp] theorem State.fallThrough_fld (a : Nat) (f : Fld) : (s.fallThrough e).fld a f = s.fld a f := State.updEng_fld ..

theorem EngineOnly.fallThrough {t : State} (h : EngineOnly e s t) : EngineOnly e s (t.fallThrough e) :=
  h.updEng fun x => { x with pc := (t.eng e).nextPc }

theorem State.closing_of_closesAt (h : s.closesAt e g w) {op : Nat → Bool} (hop : op w.seqOp = true) : s.closing e g op = some w := by
  obtain ⟨hword, hruns, hvform, hnext, hpend⟩ := h
  have hform : (s.eng e).hform = true := by rw [EngSt.hform, hvform]; rfl
  simp only [State.closing, hword]
  rw [if_pos ⟨hruns, hform, hnext, hpend, hop⟩]

end

/-! The end of an engine's part of its run (R185), and of the run with a stack error (R191). -/

section

variable (s : State) (e g : Nat)

/-- An engine whose part of the run has ended at grain g. -/
def EngSt.haltedAt (x : EngSt) (g : Nat) : EngSt :=
  { x with halted := some g, word := none, nextAt := none, pend := none, waiting := false, capEn := false }

@[simp] theorem State.haltEngine_eng : (s.haltEngine e g).eng e = (s.eng e).haltedAt g := by
  rw [State.haltEngine, State.setFld_eng, State.setFld_eng, State.updEng_eng]
  rfl

@[simp] theorem State.haltEngine_runs : (s.haltEngine e g).runs = s.runs := by
  rw [State.haltEngine, State.setFld_runs, State.setFld_runs, State.updEng_runs]

theorem State.haltEngine_engineOnly : EngineOnly e s (s.haltEngine e g) := ((EngineOnly.refl.updEng _).setFld _ _).setFld _ _

theorem State.haltEngine_fld {f : Fld} (hw : ENG_STAT_WAITING.apart f = true) (hb : ENG_STAT_BR_PEND.apart f = true) :
    (s.haltEngine e g).fld (engStat e) f = s.fld (engStat e) f := by
  rw [State.haltEngine, State.setFld_fld_apart _ _ _ _ _ hb, State.setFld_fld_apart _ _ _ _ _ hw, State.updEng_fld]

/-- A status that ends a run without one is the run's (R185). -/
theorem State.endRun_ends (code : Nat) (h : ∀ r ∈ s.runs, some r.id = (s.eng e).run → r.endCode = none) :
    ∀ y ∈ (s.endRun e code (some g)).runs, some y.id = (s.eng e).run → (y.endCode, y.endAt) = (some code, some g) := by
  intro y hy hid
  cases hrun : (s.eng e).run with
  | none => rw [hrun] at hid; cases hid
  | some id =>
    simp only [State.endRun, hrun, State.updRun, List.mem_map] at hy
    obtain ⟨r, hr, rfl⟩ := hy
    by_cases hrid : r.id = id
    · simp only [if_pos hrid, h r hr (by rw [hrun, hrid])]
    · rw [if_neg hrid, hrun] at hid
      exact absurd (Option.some.inj hid) hrid

/-- What a stack error leaves: the part has ended, STACK is set and the run ends with VIOLATION (R191). -/
structure StackFault (e g : Nat) (s t : State) : Prop where
  halted : (t.eng e).halted = some g
  stack : t.fld (engStat e) ENG_STAT_STACK = 1
  ends : (∀ r ∈ s.runs, some r.id = (s.eng e).run → r.endCode = none) →
    ∀ y ∈ t.runs, some y.id = (s.eng e).run → (y.endCode, y.endAt) = (some codeViolation, some g)
  others : ∀ k, k ≠ e → t.eng k = s.eng k
  frame : t = { s with engines := t.engines, regs := t.regs, runs := t.runs }
  regs : s.regsKept t [engStat e]

theorem EngineOnly.withRuns_frame {e : Nat} {s t : State} (h : EngineOnly e s t) (r : List Run) : ({ t with runs := r } : State) =
    { s with engines := t.engines, regs := t.regs, runs := r } := congrArg (fun t : State => { t with runs := r }) h.frame

theorem State.stackError_fault : StackFault e g s (s.stackError e g) := by
  have honly : EngineOnly e s ((s.haltEngine e g).setFld (engStat e) ENG_STAT_STACK 1) := (s.haltEngine_engineOnly e g).setFld _ _
  have heng : ((s.haltEngine e g).setFld (engStat e) ENG_STAT_STACK 1).eng e = (s.eng e).haltedAt g := by
    rw [State.setFld_eng, State.haltEngine_eng]
  have hends := ((s.haltEngine e g).setFld (engStat e) ENG_STAT_STACK 1).endRun_ends e g codeViolation
  have hstack : ((s.haltEngine e g).setFld (engStat e) ENG_STAT_STACK 1).fld (engStat e) ENG_STAT_STACK = 1 :=
    State.setFld_fld _ _ _ _ (by decide) (by decide)
  rw [heng, State.setFld_runs, State.haltEngine_runs] at hends
  rw [State.stackError]
  generalize (s.haltEngine e g).setFld (engStat e) ENG_STAT_STACK 1 = t at *
  obtain ⟨r, hr⟩ := t.endRun_frame e codeViolation (some g)
  exact {
    halted := by rw [State.endRun_eng, heng]; rfl
    stack := by rw [State.endRun_fld, hstack]
    ends := hends
    others := fun k hk => by rw [State.endRun_eng, honly.others k hk]
    frame := by rw [hr]; exact honly.withRuns_frame r
    regs := fun a ha => by rw [State.endRun_reg, honly.regs a ha] }

end

/-! Calls, returns and loops. -/

section

variable (s : State) (e g : Nat)

theorem State.pushCall_full {ret target : Nat} {sel : StoreSel} (h : 8 ≤ (s.eng e).stack.length) :
    s.pushCall e g ret sel target = s.stackError e g := if_pos h

theorem State.pushCall_room {ret target : Nat} {sel : StoreSel} (h : (s.eng e).stack.length < 8) :
    s.pushCall e g ret sel target = s.setEng e { s.eng e with
      stack := ⟨(s.eng e).sel, ret, (s.eng e).romX, (s.eng e).vaddr⟩ :: (s.eng e).stack, sel := sel, pc := target } :=
  if_neg (Nat.not_le.mpr h)

theorem State.popCall_empty (h : (s.eng e).stack = []) : s.popCall e g = s.stackError e g := by
  simp only [State.popCall, h]

theorem State.popCall_cons {y : StackEntry} {ys : List StackEntry} (h : (s.eng e).stack = y :: ys) :
    s.popCall e g = s.setEng e { s.eng e with stack := ys, sel := y.sel, pc := y.pc, romX := y.romX, vaddr := y.vaddr } := by
  simp only [State.popCall, h]

theorem State.loadCounter_fallThrough (k n : Nat) : (s.loadCounter e k n).fallThrough e =
    s.setEng e { s.eng e with counters := (s.eng e).counters.set k n, pc := (s.eng e).nextPc } := by
  rw [State.fallThrough, State.goTo, State.loadCounter, State.updEng_eng, State.updEng, State.updEng, State.setEng_eng, State.setEng_setEng]
  rfl

theorem State.loopTo_eq (k target next : Nat) : s.loopTo e k target next = s.setEng e { s.eng e with
    counters := (s.eng e).counters.set k ((s.eng e).counters.getD k 0 - 1)
    pc := if 1 < (s.eng e).counters.getD k 0 then target else next } := by
  simp only [State.loopTo, State.updEng, loopStep, setAt, decide_eq_true_eq]

end

/-! The sequencing operations. -/

section

variable {e : EngNo} {g : Nat} {w : Micro} {s : State}

/-- A close that changes nothing but its engine. -/
theorem State.goesOn {i : Instr} {y : EngSt} (hx : exec i s = .next ((s.closeWord e.val g w).setEng e.val y)) :
    ∃ t, exec i s = .next t ∧ t.eng e.val = y ∧ s.onlyEngine t e.val g := by
  rw [State.closeWord_eq, State.setEng_setEng] at hx
  exact ⟨_, hx, State.setEng_eng .., rfl, fun k hk => State.setEng_eng_ne _ _ _ k hk⟩

variable (h : s.closesAt e.val g w)
include h

theorem exec_next (hop : w.seqOp = 0) : exec (.next e g) s =
    .next ((s.closeWord e.val g w).setEng e.val { (s.eng e.val).closed w with pc := ((s.eng e.val).closed w).nextPc }) := by
  show execNext e g s = _
  rw [execNext, State.closing_of_closesAt h (by simp [hop]), ← State.closeWord_eng]
  rfl

theorem exec_jump_plain (hop : w.seqOp = 1) (hc : w.cond = 0) (hi : w.condInv = false) : exec (.jump e g) s =
    .next ((s.closeWord e.val g w).setEng e.val { (s.eng e.val).closed w with pc := w.target }) := by
  show execJump e g s = _
  rw [execJump, State.closing_of_closesAt h (by simp [hop]), ← State.closeWord_eng s]
  exact if_pos ⟨hc, hi⟩

theorem exec_call (hop : w.seqOp = 2) : exec (.call e g) s = .next ((s.closeWord e.val g w).pushCall e.val g
    ((s.eng e.val).closed w).nextPc ((s.eng e.val).closed w).sel w.target) := by
  show execCall e g s = _
  rw [execCall, State.closing_of_closesAt h (by simp [hop]), ← State.closeWord_eng s]

theorem exec_romcall (hop : w.seqOp = 9) : exec (.romcall e g) s = .next ((s.closeWord e.val g w).pushCall e.val g
    ((s.eng e.val).closed w).nextPc .rom (2 * w.target)) := by
  show execRomcall e g s = _
  rw [execRomcall, State.closing_of_closesAt h (by simp [hop]), ← State.closeWord_eng s]

theorem exec_ret (hop : w.seqOp = 3) : exec (.ret e g) s = .next ((s.closeWord e.val g w).popCall e.val g) := by
  show execRet e g s = _
  rw [execRet, State.closing_of_closesAt h (by simp [hop])]

theorem exec_loop (hop : w.seqOp = 4) : exec (.loop e g) s = .next ((s.closeWord e.val g w).loopTo e.val w.loopSel w.target
    ((s.eng e.val).closed w).nextPc) := by
  show execLoop e g s = _
  rw [execLoop, State.closing_of_closesAt h (by simp [hop]), ← State.closeWord_eng s]

theorem exec_ldcnt (hop : w.seqOp = 5) : exec (.ldcnt e g) s =
    .next (((s.closeWord e.val g w).loadCounter e.val w.loopSel w.loopLoad).fallThrough e.val) := by
  show execLdcnt e g s = _
  rw [execLdcnt, State.closing_of_closesAt h (by simp [hop])]

theorem exec_halt (hop : w.seqOp = 8) : exec (.halt e g) s = .next ((s.closeWord e.val g w).haltEngine e.val g) := by
  show execHalt e g s = _
  rw [execHalt, State.closing_of_closesAt h (by simp [hop])]

theorem exec_badop (hop : 10 ≤ w.seqOp) : exec (.badop e g) s =
    .next (((s.closeWord e.val g w).haltEngine e.val g).setFld (engStat e.val) ENG_STAT_BADOP 1) := by
  show execBadop e g s = _
  rw [execBadop, State.closing_of_closesAt h (by simp [hop])]

theorem exec_resume (hop : w.seqOp = 7) (hsel : ((s.eng e.val).closed w).sel = .patch) : exec (.resume e g) s =
    .next ((s.closeWord e.val g w).setEng e.val { (s.eng e.val).closed w with
      sel := .rom, pc := (((s.eng e.val).closed w).romX + 1 + w.target) % 32768 }) := by
  show execResume e g s = _
  have hvform : ((s.eng e.val).closed w).vform = false := by rw [EngSt.closed_vform]; exact h.2.2.1
  simp only [execResume, State.closing_of_closesAt h (op := (· == 7)) (by simp [hop]), State.closeWord_eng, if_pos hsel, State.updEng,
    EngSt.resumeAt, hvform, Bool.false_and, Bool.false_eq_true, if_false]

omit h in
/-- A stack error at a close, as the statement says it of the state before the close. -/
theorem State.closeFault {i : Instr} (hx : exec i s = .next ((s.closeWord e.val g w).stackError e.val g)) :
    ∃ t, exec i s = .next t ∧ (t.eng e.val).halted = some g ∧ t.fld (engStat e.val) ENG_STAT_STACK = 1 ∧
      ((∀ r ∈ s.runs, some r.id = (s.eng e.val).run → r.endCode = none) →
        ∀ y ∈ t.runs, some y.id = (s.eng e.val).run → (y.endCode, y.endAt) = (some codeViolation, some g)) ∧
      (∀ k, k ≠ e.val → t.eng k = s.eng k) ∧
      t = { s with gt := max s.gt g, engines := t.engines, regs := t.regs, runs := t.runs } ∧ s.regsKept t [engStat e.val] := by
  have hclose := s.closeWord_engineOnly e.val g w
  have hrun : ((s.closeWord e.val g w).eng e.val).run = (s.eng e.val).run := by rw [State.closeWord_eng, EngSt.closed_run]
  have hf := (s.closeWord e.val g w).stackError_fault e.val g
  have hends := hf.ends
  rw [hrun] at hends
  refine ⟨_, hx, hf.halted, hf.stack, hends, fun k hk => (hf.others k hk).trans (hclose.others k hk), ?_,
    State.regsKept_trans hclose.regs hf.regs⟩
  exact hf.frame.trans rfl

end

/-- Settles O29: the engine of a close is `EngSt.closed`, and each sequencing operation writes it once more or ends its part of the run. -/
theorem sequencingGoesOnOrEnds : Obligations.SequencingGoesOnOrEnds := by
  unfold Obligations.SequencingGoesOnOrEnds
  refine ⟨fun e g w s h a ha => ?_, fun e g w s h => ⟨fun hop => ?_, fun hop => ?_, ?_⟩⟩
  · obtain rfl : a = (s.eng e.val).closed w := ha
    have heng := s.closeWord_eng e.val g w
    refine ⟨EngSt.closed_vaddr_stream _, EngSt.closed_vaddr_other _, fun hop => State.goesOn (exec_next h hop),
      fun hop hc hi => State.goesOn (exec_jump_plain h hop hc hi), fun hop hroom => State.goesOn (w := w) ?_,
      fun hop hroom => State.goesOn (w := w) ?_, fun y ys hop hstack => State.goesOn (w := w) ?_, fun hop => State.goesOn (w := w) ?_,
      fun hop => State.goesOn (w := w) ?_, fun hop hsel => State.goesOn (exec_resume h hop hsel)⟩
    · rw [exec_call h hop, State.pushCall_room _ _ _ (heng.symm ▸ hroom), heng]
    · rw [exec_romcall h hop, State.pushCall_room _ _ _ (heng.symm ▸ hroom), heng]
    · rw [exec_ret h hop, State.popCall_cons _ _ _ (heng.symm ▸ hstack), heng]
    · rw [exec_loop h hop, State.loopTo_eq, heng]
    · rw [exec_ldcnt h hop, State.loadCounter_fallThrough, heng]
  · have honly := (s.closeWord_engineOnly e.val g w).trans (State.haltEngine_engineOnly _ e.val g)
    have heng := (s.closeWord e.val g w).haltEngine_eng e.val g
    refine ⟨_, exec_halt h hop, by rw [heng]; rfl, by rw [heng]; rfl, by rw [heng]; rfl, by rw [heng]; rfl, honly.others,
      honly.frame, honly.regs, ?_⟩
    rw [State.haltEngine_fld _ _ _ (by decide) (by decide), State.closeWord_eq, State.setEng_fld, State.at_fld]
  · have honly := ((s.closeWord_engineOnly e.val g w).trans (State.haltEngine_engineOnly _ e.val g)).setFld ENG_STAT_BADOP 1
    have heng := (s.closeWord e.val g w).haltEngine_eng e.val g
    exact ⟨_, exec_badop h hop, by rw [State.setFld_eng, heng]; rfl, by rw [State.setFld_eng, heng]; rfl,
      State.setFld_fld _ _ _ _ (by decide) (by decide), honly.others, honly.frame, honly.regs⟩
  · have heng : ((s.closeWord e.val g w).eng e.val).stack = (s.eng e.val).stack := by rw [State.closeWord_eng, EngSt.closed_stack]
    intro x hx hop hstack
    simp only [List.mem_cons, List.not_mem_nil, or_false] at hx
    rcases hx with rfl | rfl | rfl
    · exact State.closeFault (by rw [exec_call h hop, State.pushCall_full _ _ _ (heng.symm ▸ hstack)])
    · exact State.closeFault (by rw [exec_romcall h hop, State.pushCall_full _ _ _ (heng.symm ▸ hstack)])
    · exact State.closeFault (by rw [exec_ret h hop, State.popCall_empty _ _ _ (heng.trans hstack)])

end Sys2Proof.Machine
end

section
namespace Sys2Proof.Machine

/-! A conditional branch (R192-R196): the close that makes it pending, and its take-effect grain. -/

section

variable (s : State) (e g : Nat)

/-- A check of a flag is kept in the engine's record alone. -/
theorem EngSt.noteCheck_eq (x : EngSt) (c sel : Nat) :
    x.noteCheck c sel g = { x with sysChecks := (x.noteCheck c sel g).sysChecks } := by
  unfold EngSt.noteCheck
  split
  · split <;> rfl
  · rfl

/-- The branch that a close at grain g makes pending, with what it keeps of its engine (R192, R196). -/
def State.branchAt (s : State) (e g cond : Nat) (inv : Bool) (sel target : Nat) : PendBranch :=
  let x := s.eng e
  { s := g, at_ := g + s.latency (condLevel cond sel), level := condLevel cond sel, cond := cond, condInv := inv,
    flagSet := s.selMet (engCl e) sel false, target := target, vform := !x.hform, openAt := x.openAt, coll := x.coll,
    counters := x.counters, stack := x.stack, path := x.path, vaddr := x.vaddr, lastStream := x.lastStream, ts := x.ts, sel := x.sel,
    romX := x.romX, flagSel := sel, vCap := x.vCap, vSubst := x.vSubst, vSubstPtr := x.vSubstPtr, vFlag := x.vFlag,
    expected := if cond = 4 then s.domainOthers else 0 }

/-- The engine with a branch pending. -/
def State.branching (s : State) (e g cond : Nat) (inv : Bool) (sel target : Nat) : EngSt :=
  let y : EngSt := { s.eng e with pend := some (s.branchAt e g cond inv sel target) }
  if cond = 5 then y.noteCheck (engCl e) sel g else y

theorem State.withOuts_fallThrough (o : List Output) :
    ({ s with outs := o } : State).fallThrough e = { s.fallThrough e with outs := o } := rfl

theorem EngineOnly.withOuts_frame {e : Nat} {s t : State} (h : EngineOnly e s t) (o : List Output) :
    ({ t with outs := o } : State) = { s with engines := t.engines, regs := t.regs, outs := o } :=
  congrArg (fun t : State => { t with outs := o }) h.frame

variable (cond : Nat) (inv : Bool) (sel target : Nat)

theorem State.branching_eq : s.branching e g cond inv sel target = { s.eng e with
    pend := some (s.branchAt e g cond inv sel target), sysChecks := (s.branching e g cond inv sel target).sysChecks } := by
  unfold State.branching
  dsimp only
  split
  · rw [EngSt.noteCheck_eq]
  · rfl

@[simp] theorem State.branching_pend : (s.branching e g cond inv sel target).pend = some (s.branchAt e g cond inv sel target) := by
  rw [State.branching_eq]
@[simp] theorem State.branching_nextPc : (s.branching e g cond inv sel target).nextPc = (s.eng e).nextPc := by
  rw [State.branching_eq]; rfl
@[simp] theorem State.branching_word : (s.branching e g cond inv sel target).word = (s.eng e).word := by rw [State.branching_eq]

/-- A branch becomes pending, and BR_PEND sets (R192). -/
def State.branchStarted (s : State) (e g cond : Nat) (inv : Bool) (sel target : Nat) : State :=
  (s.setEng e (s.branching e g cond inv sel target)).setFld (engStat e) ENG_STAT_BR_PEND 1

@[simp] theorem State.branchStarted_eng :
    (s.branchStarted e g cond inv sel target).eng e = s.branching e g cond inv sel target := by
  rw [State.branchStarted, State.setFld_eng, State.setEng_eng]

theorem State.branchStarted_fld : (s.branchStarted e g cond inv sel target).fld (engStat e) ENG_STAT_BR_PEND = 1 :=
  State.setFld_fld _ _ _ _ (by decide) (by decide)

theorem EngineOnly.branchStarted {s t : State} (h : EngineOnly e s t) : EngineOnly e s (t.branchStarted e g cond inv sel target) :=
  (h.setEng _).setFld _ _

theorem State.branching_of_ne (h : cond ≠ 5) :
    s.branching e g cond inv sel target = { s.eng e with pend := some (s.branchAt e g cond inv sel target) } := if_neg h

theorem State.startBranch_nested (h : (s.eng e).pend ≠ none) :
    s.startBranch e g cond inv sel target = s.setFld (engStat e) ENG_STAT_NEST 1 := by
  obtain ⟨p, hp⟩ := Option.ne_none_iff_exists'.mp h
  simp only [State.startBranch, hp]

/-- A branch becomes pending; a FAIL_SYS branch is told to the other packages (R485). -/
theorem State.startBranch_pends (h : (s.eng e).pend = none) : ∃ o, s.startBranch e g cond inv sel target =
    { s.branchStarted e g cond inv sel target with outs := o } := by
  simp only [State.startBranch, h]
  split
  · exact ⟨_, rfl⟩
  · exact ⟨s.outs, rfl⟩

theorem State.startBranch_plain (h : (s.eng e).pend = none) (hc : cond ≠ 4) :
    s.startBranch e g cond inv sel target = s.branchStarted e g cond inv sel target := by
  simp only [State.startBranch, h]
  exact if_neg fun hsys => hc hsys.1

end

section

variable {e : EngNo} {g : Nat} {w : Micro} {s : State} (h : s.closesAt e.val g w) (hop : w.seqOp = 1)
  (hcond : w.cond ≠ 0 ∨ w.condInv = true)
include h hop hcond

theorem exec_jump_branch : exec (.jump e g) s = .next
    (((s.closeWord e.val g w).startBranch e.val g w.cond w.condInv w.waitSel w.target).fallThrough e.val) := by
  show execJump e g s = _
  rw [execJump, State.closing_of_closesAt h (by simp [hop])]
  exact if_neg fun hplain => hcond.elim (· hplain.1) (fun hinv => Bool.noConfusion (hinv.symm.trans hplain.2))

theorem jump_nests (hpend : (s.eng e.val).pend ≠ none) : ∃ t, exec (.jump e g) s = .next t ∧
    t.fld (engStat e.val) ENG_STAT_NEST = 1 ∧ (t.eng e.val).pend = (s.eng e.val).pend ∧ (t.eng e.val).pc = (s.eng e.val).nextPc ∧
    (t.eng e.val).word = none ∧ (∀ k, k ≠ e.val → t.eng k = s.eng k) ∧
    t = { s with gt := max s.gt g, engines := t.engines, regs := t.regs } ∧ s.regsKept t [engStat e.val] := by
  have hclosed : ((s.closeWord e.val g w).eng e.val).pend ≠ none := by rw [State.closeWord_eng, EngSt.closed_eq]; exact hpend
  have hx := exec_jump_branch h hop hcond
  rw [State.startBranch_nested _ _ _ _ _ _ _ hclosed] at hx
  have honly := ((s.closeWord_engineOnly e.val g w).setFld ENG_STAT_NEST 1).fallThrough
  have heng : (((s.closeWord e.val g w).setFld (engStat e.val) ENG_STAT_NEST 1).fallThrough e.val).eng e.val =
      { (s.eng e.val).closed w with pc := ((s.eng e.val).closed w).nextPc } := by
    rw [State.fallThrough_eng, State.setFld_eng, State.closeWord_eng]
  rw [EngSt.closed_eq] at heng
  exact ⟨_, hx, by rw [State.fallThrough_fld, State.setFld_fld _ _ _ _ (by decide) (by decide)]; rfl, by rw [heng], by rw [heng]; rfl,
    by rw [heng], honly.others, honly.frame, honly.regs⟩

theorem jump_pends (hpend : (s.eng e.val).pend = none) : ∃ t p, exec (.jump e g) s = .next t ∧ (t.eng e.val).pend = some p ∧
    p.s = g ∧ p.isWait = false ∧ p.at_ = g + s.latency (condLevel w.cond w.waitSel) ∧
    (p.cond, p.condInv, p.target, p.coll) = (w.cond, w.condInv, w.target, (s.eng e.val).coll) ∧
    t.fld (engStat e.val) ENG_STAT_BR_PEND = 1 ∧ (t.eng e.val).pc = (s.eng e.val).nextPc ∧ (t.eng e.val).word = none ∧
    (∀ k, k ≠ e.val → t.eng k = s.eng k) ∧ t = { s with gt := max s.gt g, engines := t.engines, regs := t.regs, outs := t.outs } ∧
    s.regsKept t [engStat e.val] := by
  have hclosed : ((s.closeWord e.val g w).eng e.val).pend = none := by rw [State.closeWord_eng, EngSt.closed_eq]; exact hpend
  have hx := exec_jump_branch h hop hcond
  obtain ⟨o, ho⟩ := (s.closeWord e.val g w).startBranch_pends e.val g w.cond w.condInv w.waitSel w.target hclosed
  rw [ho, State.withOuts_fallThrough] at hx
  have honly := ((s.closeWord_engineOnly e.val g w).branchStarted e.val g w.cond w.condInv w.waitSel w.target).fallThrough
  have heng := ((s.closeWord e.val g w).branchStarted e.val g w.cond w.condInv w.waitSel w.target).fallThrough_eng (e := e.val)
  have hfld := (s.closeWord e.val g w).branchStarted_fld e.val g w.cond w.condInv w.waitSel w.target
  rw [← State.fallThrough_fld (e := e.val)] at hfld
  rw [State.branchStarted_eng, State.branching_nextPc, State.closeWord_eng, EngSt.closed_nextPc] at heng
  generalize State.fallThrough _ _ = t at *
  refine ⟨_, _, hx, (congrArg EngSt.pend heng).trans (State.branching_pend ..), rfl, rfl, rfl, ?_, hfld, congrArg EngSt.pc heng,
    (congrArg EngSt.word heng).trans ?_, honly.others, honly.withOuts_frame o, honly.regs⟩
  · simp only [State.branchAt, State.closeWord_eng, EngSt.closed_coll]
  · simp only [State.branching_word, State.closeWord_eng]
    rfl

end

/-! What a branch does at its take-effect grain (R194, R195). -/

/-- One update of several pins of a cluster: each pin of the list gets it once. -/
theorem State.updPins_pin (f : PinSt → PinSt) (b u : Nat) (l : List Nat) : ∀ s : State, l.Nodup →
    (l.foldl (fun t k => t.updPin (b + k) f) s).pin (b + u) = if u ∈ l then f (s.pin (b + u)) else s.pin (b + u) := by
  induction l with
  | nil => exact fun s _ => (if_neg List.not_mem_nil).symm
  | cons k l ih =>
    intro s hl
    obtain ⟨hk, hl⟩ := List.nodup_cons.mp hl
    rw [List.foldl_cons, ih _ hl]
    by_cases hu : u = k
    · subst hu
      rw [if_neg hk, if_pos (List.mem_cons_self ..), State.updPin_pin]
    · rw [State.updPin_pin_ne _ _ _ _ (by omega)]
      simp only [List.mem_cons, hu, false_or]

theorem State.updPins_frame (f : PinSt → PinSt) (b : Nat) (l : List Nat) : ∀ s : State,
    ∃ p, l.foldl (fun t k => t.updPin (b + k) f) s = { s with pins := p } := by
  induction l with
  | nil => exact fun s => ⟨_, rfl⟩
  | cons k l ih =>
    intro s
    obtain ⟨p, hp⟩ := ih (s.updPin (b + k) f)
    exact ⟨p, by rw [List.foldl_cons, hp]; rfl⟩

theorem bitsOf_nodup (n v : Nat) : (bitsOf n v).Nodup := List.Nodup.filter _ List.nodup_range

theorem mem_bitsOf {n v u : Nat} : u ∈ bitsOf n v ↔ u < n ∧ nbit v u = true := by rw [bitsOf, List.mem_filter, List.mem_range]

section

variable (s : State) (e : Nat) (lane : Lane) (keep : Option Nat)

theorem State.cutPins_frame (g : Nat) : ∃ p, s.cutPins e g = { s with pins := p } := State.updPins_frame ..

theorem State.cutPins_cyc {g u : Nat} (hu : u < 16) (hs : nbit (s.eng e).served u = true) {x : Cycle}
    (hx : (s.pin (16 * engCl e + u)).cyc = some x) (hcut : x.cut = none) :
    ((s.cutPins e g).pin (16 * engCl e + u)).cyc = some { x with cut := some g } := by
  rw [State.cutPins, State.updPins_pin _ _ _ _ _ (bitsOf_nodup ..), if_pos (mem_bitsOf.mpr ⟨hu, hs⟩)]
  simp only [hx, Option.map_some, hcut, Option.isSome_none, Bool.false_eq_true, if_false]

theorem State.dropPath_eng : ∃ m d, (s.dropPath e lane keep).eng e = { s.eng e with main := m, shadow := d } := by
  rw [State.dropPath, State.setDecoder, State.updEng_eng, State.updCl_eng]
  cases lane
  · exact ⟨_, (s.eng e).shadow, rfl⟩
  · exact ⟨(s.eng e).main, _, rfl⟩

theorem State.dropPath_eng_ne {k : Nat} (hk : k ≠ e) : (s.dropPath e lane keep).eng k = s.eng k := by
  rw [State.dropPath, State.setDecoder, State.updEng_eng_ne _ _ _ _ hk, State.updCl_eng]

theorem State.dropPath_cl_ne {c : Nat} (hc : c ≠ engCl e) : (s.dropPath e lane keep).cl c = s.cl c := by
  rw [State.dropPath, State.setDecoder, State.updEng_cl, State.updCl_cl_ne _ _ _ _ hc]

theorem State.dropPath_frame : ∃ k x, s.dropPath e lane keep = { s with clusters := k, engines := x } := ⟨_, _, rfl⟩

theorem State.dropPath_reg (a : Nat) : (s.dropPath e lane keep).reg a = s.reg a := by
  obtain ⟨k, x, h⟩ := s.dropPath_frame e lane keep
  rw [h]
  rfl

variable (p : PendBranch)

/-- The engine whose branch is taken: before the word at TARGET, with the state of the branch's close grain, and in another lane (R194, R195). -/
def EngSt.branchTaken (x : EngSt) (p : PendBranch) (lane : Lane) : EngSt :=
  { x with
    word := none, pend := none, waiting := false, nextAt := some p.at_, pc := p.target, sel := p.sel, romX := p.romX
    counters := p.counters, stack := p.stack, path := p.path, vResume := none, vaddr := p.vaddr, lastStream := p.lastStream, ts := p.ts
    vCap := p.vCap, vSubst := p.vSubst, vSubstPtr := p.vSubstPtr, vFlag := p.vFlag
    took := some (p.s, p.at_), lastBr := some p.s, live := lane, liveFrom := p.at_ }

/-- The engine whose branch is not taken (R194). -/
def EngSt.branchLeft (x : EngSt) (p : PendBranch) : EngSt := { x with pend := none, took := none, lastBr := some p.s }

/-- The pins' cycles are cut, and the engine goes on where its branch goes. -/
def State.branchGone (s : State) (e : Nat) (p : PendBranch) : State := (s.cutPins e p.at_).updEng e (·.branchTaken p (otherLane (s.eng e).live))

theorem State.takeBranch_eq : s.takeBranch e p = ((((s.branchGone e p).dropPath e (s.eng e).live p.lastStream).setFld
    (engStat e) ENG_STAT_WAITING 0).setFld (engStat e) ENG_STAT_BR_PEND 0).armLead (engCl e) := rfl

theorem State.leaveBranch_eq : s.leaveBranch e p = ((s.updEng e (·.branchLeft p)).dropPath e (otherLane (s.eng e).live) p.lastStream).setFld
    (engStat e) ENG_STAT_BR_PEND 0 := by
  have hlive : ((s.updEng e (·.branchLeft p)).eng e).live = (s.eng e).live := by rw [State.updEng_eng]; rfl
  rw [← hlive]
  rfl

theorem State.branchGone_eng : (s.branchGone e p).eng e = (s.eng e).branchTaken p (otherLane (s.eng e).live) := by
  obtain ⟨_, h⟩ := s.cutPins_frame e p.at_
  rw [State.branchGone, State.updEng_eng, h]
  rfl

end

/-- Only engine e, its status register and its cluster differ. -/
structure LaneOnly (e : Nat) (s t : State) : Prop where
  rest : { t with engines := [], regs := [], clusters := [] } = { s with engines := [], regs := [], clusters := [] }
  others : ∀ k, k ≠ e → t.eng k = s.eng k
  clusters : ∀ c, c ≠ engCl e → t.cl c = s.cl c
  regs : s.regsKept t [engStat e]

section

variable {s t u : State} {e : Nat}

theorem LaneOnly.trans (h : LaneOnly e s t) (k : LaneOnly e t u) : LaneOnly e s u :=
  ⟨k.rest.trans h.rest, fun i hi => (k.others i hi).trans (h.others i hi), fun c hc => (k.clusters c hc).trans (h.clusters c hc),
    State.regsKept_trans h.regs k.regs⟩

theorem EngineOnly.laneOnly (h : EngineOnly e s t) : LaneOnly e s t :=
  ⟨congrArg (fun r : State => { r with clusters := [] }) h.rest, h.others,
    fun c _ => by have hc := congrArg (State.cl · c) h.rest; exact hc, h.regs⟩

theorem LaneOnly.dropPath (h : LaneOnly e s t) (lane : Lane) (keep : Option Nat) : LaneOnly e s (t.dropPath e lane keep) :=
  h.trans ⟨rfl, fun _ hk => t.dropPath_eng_ne e lane keep hk, fun _ hc => t.dropPath_cl_ne e lane keep hc,
    fun a _ => t.dropPath_reg e lane keep a⟩

theorem LaneOnly.setFld (h : LaneOnly e s t) (f : Fld) (v : Nat) : LaneOnly e s (t.setFld (engStat e) f v) :=
  h.trans (EngineOnly.refl.setFld f v).laneOnly

theorem LaneOnly.armLead (h : LaneOnly e s t) : LaneOnly e s (t.armLead (engCl e)) := by
  obtain ⟨k, hk⟩ := State.armLead_frame (s := t) (c := engCl e)
  exact h.trans ⟨by rw [hk], fun i _ => by rw [hk]; rfl, fun c hc => State.armLead_cl_ne _ _ c hc, fun a _ => State.armLead_reg _ _ a⟩

theorem LaneOnly.frame (h : LaneOnly e s t) : t = { s with engines := t.engines, regs := t.regs, clusters := t.clusters } :=
  congrArg (fun r : State => { r with engines := t.engines, regs := t.regs, clusters := t.clusters }) h.rest

theorem LaneOnly.frame_pins {x : Tbl PinSt} (h : LaneOnly e { s with pins := x } t) :
    t = { s with engines := t.engines, regs := t.regs, pins := t.pins, clusters := t.clusters } :=
  congrArg (fun r : State => { r with engines := t.engines, regs := t.regs, pins := t.pins, clusters := t.clusters }) h.rest

theorem LaneOnly.pin (h : LaneOnly e s t) (q : Nat) : t.pin q = s.pin q := by
  have hp := congrArg (State.pin · q) h.rest
  exact hp

end

section

variable (s : State) (e : Nat) (p : PendBranch)

theorem State.armLead_eng (c k : Nat) : (s.armLead c).eng k = s.eng k := by
  obtain ⟨x, hx⟩ := s.armLead_frame c
  rw [hx]
  rfl

theorem State.takeBranch_laneOnly : LaneOnly e (s.cutPins e p.at_) (s.takeBranch e p) :=
  ((((EngineOnly.refl.updEng _).laneOnly.dropPath _ _).setFld _ _).setFld _ _).armLead

theorem State.leaveBranch_laneOnly : LaneOnly e s (s.leaveBranch e p) :=
  (((EngineOnly.refl.updEng _).laneOnly.dropPath _ _).setFld _ _)

theorem State.takeBranch_eng : ∃ m d,
    (s.takeBranch e p).eng e = { (s.eng e).branchTaken p (otherLane (s.eng e).live) with main := m, shadow := d } := by
  obtain ⟨m, d, heng⟩ := (s.branchGone e p).dropPath_eng e (s.eng e).live p.lastStream
  rw [State.branchGone_eng] at heng
  exact ⟨m, d, by rw [State.takeBranch_eq, State.armLead_eng, State.setFld_eng, State.setFld_eng, heng]⟩

theorem State.leaveBranch_eng : ∃ m d, (s.leaveBranch e p).eng e = { (s.eng e).branchLeft p with main := m, shadow := d } := by
  obtain ⟨m, d, heng⟩ := (s.updEng e (·.branchLeft p)).dropPath_eng e (otherLane (s.eng e).live) p.lastStream
  rw [State.updEng_eng] at heng
  exact ⟨m, d, by rw [State.leaveBranch_eq, State.setFld_eng, heng]⟩

theorem State.takeBranch_fld : (s.takeBranch e p).fld (engStat e) ENG_STAT_BR_PEND = 0 := by
  rw [State.takeBranch_eq, State.fld, State.armLead_reg]
  exact State.setFld_fld _ _ _ _ (by decide) (by decide)

theorem State.leaveBranch_fld : (s.leaveBranch e p).fld (engStat e) ENG_STAT_BR_PEND = 0 := by
  rw [State.leaveBranch_eq]
  exact State.setFld_fld _ _ _ _ (by decide) (by decide)

end

section

variable {e : EngNo} {g : Nat} {s : State} {p : PendBranch} (hp : (s.eng e.val).pend = some p) (hw : p.isWait = false)
  (hg : p.at_ = g) (hr : s.engRuns e.val = true) (hv : p.vform = false) (hc : p.cond ≠ 4)
include hp hw hg hr hv hc

theorem exec_branchTakeEffect : exec (.branchTakeEffect e g) s =
    .next (if p.met then (s.at g).takeBranch e.val p else (s.at g).leaveBranch e.val p) := by
  show execBranchTakeEffect e g s = _
  have hmet : s.branchMet e.val p = p.met := by rw [State.branchMet, hv]; exact if_neg fun h => Bool.noConfusion h.1
  simp only [execBranchTakeEffect, hp]
  rw [if_pos ⟨hw, hg, hr⟩, if_neg fun h => Bool.noConfusion (hv.symm.trans h.1), if_neg fun h => hc h.1, hmet]

end

/-- Settles O30: a jump starts a branch as `State.branchStarted`, and its decision touches one engine and the lane of its pins. -/
theorem branchesArePendingThenDecided : Obligations.BranchesArePendingThenDecided := by
  unfold Obligations.BranchesArePendingThenDecided
  refine fun e g w s => ⟨fun h hop hcond => ⟨jump_pends h hop hcond, jump_nests h hop hcond⟩,
    fun p hp hw hg hr hv hc => ⟨fun hmet => ?_, fun hmet => ?_⟩⟩
  · have hx := exec_branchTakeEffect hp hw hg hr hv hc
    rw [if_pos hmet] at hx
    subst hg
    have honly := (s.at p.at_).takeBranch_laneOnly e.val p
    obtain ⟨m, d, heng⟩ := (s.at p.at_).takeBranch_eng e.val p
    have hpin := honly.pin
    have hcut := fun u hu hs x => (s.at p.at_).cutPins_cyc e.val (g := p.at_) (u := u) (x := x) hu hs
    obtain ⟨pins, hpins⟩ := (s.at p.at_).cutPins_frame e.val p.at_
    simp only [← hpin] at hcut
    rw [hpins] at honly
    exact ⟨_, hx, by rw [heng]; rfl, by rw [heng]; rfl, by rw [heng]; rfl, by rw [heng]; rfl, by rw [heng]; rfl, by rw [heng]; rfl,
      by rw [heng]; rfl, State.takeBranch_fld _ _ _, hcut, honly.others, honly.clusters, honly.frame_pins, honly.regs⟩
  · have hx := exec_branchTakeEffect hp hw hg hr hv hc
    rw [if_neg (by simp [hmet])] at hx
    have honly := (s.at g).leaveBranch_laneOnly e.val p
    obtain ⟨m, d, heng⟩ := (s.at g).leaveBranch_eng e.val p
    exact ⟨_, hx, by rw [heng]; rfl, by rw [heng]; rfl, by rw [heng]; rfl, by rw [heng]; rfl, State.leaveBranch_fld _ _ _,
      honly.others, honly.clusters, honly.frame, honly.regs⟩

end Sys2Proof.Machine
end

section
namespace Sys2Proof.Machine

/-! Where an engine's registers lie: its status register apart from the SEEK and patch match registers of its cluster. -/

theorem engStat_ne_seekLo (e j : Nat) : ENG_SEEK_LO (engCl e) (e % 4) j ≠ engStat e := by
  unfold engStat ENG_STAT ENG_SEEK_LO
  generalize clBlk (engCl e) 7 = b, e % 4 = i
  omega

theorem engStat_ne_seekHi (e j : Nat) : ENG_SEEK_HI (engCl e) (e % 4) j ≠ engStat e := by
  unfold engStat ENG_STAT ENG_SEEK_HI
  generalize clBlk (engCl e) 7 = b, e % 4 = i
  omega

theorem engStat_ne_patchMatch (e n : Nat) : ENG_PM (engCl e) n ≠ engStat e := by
  unfold engStat ENG_STAT ENG_PM
  omega

/-! A word opens (R186-R189). -/

section

variable (s : State) (e g : Nat) (w : Micro)

/-- VADDR as a SEEK register gives it (R189). -/
def State.seekVaddr (s : State) (e j : Nat) : Nat :=
  (s.fld (ENG_SEEK_LO (engCl e) (e % 4) j) ENG_SEEK_LO_VADDR_LO +
    2 ^ 32 * s.fld (ENG_SEEK_HI (engCl e) (e % 4) j) ENG_SEEK_HI_VADDR_HI) % 2 ^ 40

theorem State.pair_seek (lo hi : Nat) : s.pair lo hi % 2 ^ 40 =
    (s.fld lo ENG_SEEK_LO_VADDR_LO + 2 ^ 32 * s.fld hi ENG_SEEK_HI_VADDR_HI) % 2 ^ 40 := by
  have hlo : (s.reg lo).toNat < 2 ^ 32 := (s.reg lo).isLt
  simp only [State.pair, State.fld, getF, Fld.width, ENG_SEEK_LO_VADDR_LO, ENG_SEEK_HI_VADDR_HI]
  omega

/-- A word asks for nothing but its timing set, its vector address and its capture enable (Table 6-1). -/
structure Micro.Quiet (w : Micro) : Prop where
  dict : w.dictEn = false
  seg : w.segTrig = false
  adc : w.adcStart = false
  arm : w.acqArm = 0
  set : w.sigOp ≠ 1
  clear : w.sigOp ≠ 2

/-- The engine after the side fields of a word (R187, R189). -/
def State.sideEng (s : State) (e : Nat) (w : Micro) : EngSt :=
  { s.eng e with
    ts := if w.tsEn then w.ts else (s.eng e).ts
    vaddr := if w.seekEn then s.seekVaddr e w.seekIdx else (s.eng e).vaddr
    capEn := w.capEn }

theorem State.sideFields_eq (finds : Finds) : s.sideFields e g w finds =
    (if w.dictEn then (s.setEng e (s.sideEng e w)).loadDict e w.dictImg g finds else s.setEng e (s.sideEng e w)).sideActions e g w := by
  unfold State.sideFields State.sideEng State.seekVaddr
  simp only [State.pair_seek]
  rfl

variable {w}

theorem State.sideActions_quiet (h : w.Quiet) : s.sideActions e g w = s := by
  have hno : ¬(w.sigOp = 1 ∨ w.sigOp = 2) := fun hs => hs.elim h.set h.clear
  have hbits : bitsOf 2 0 = [] := rfl
  simp [State.sideActions, h.seg, h.adc, h.arm, hbits, hno]

theorem State.sideFields_quiet (h : w.Quiet) (finds : Finds) : s.sideFields e g w finds = s.setEng e (s.sideEng e w) := by
  rw [State.sideFields_eq, h.dict, if_neg Bool.false_ne_true, State.sideActions_quiet _ _ _ h]

/-- The period of the timing set that a word plays with (R186). -/
def State.wordPeriod (s : State) (e : Nat) (w : Micro) : Nat :=
  (s.inForce (TSET_PERIOD (engCl e) (if w.tsEn then w.ts else (s.eng e).ts))).toNat + 1

/-- The engine whose word opens at grain g (R186-R189). -/
def State.openedEng (s : State) (e g : Nat) (w : Micro) : EngSt :=
  { s.sideEng e w with
    word := some { w with cycles := w.body }, openAt := g, baseAt := g, baseCyc := 0, period := s.wordPeriod e w
    nextAt := some (g + w.body * s.wordPeriod e w), coll := {}, lastCheck := none }

theorem State.openWord_quiet (h : w.Quiet) (hs : s.inFlight = []) (finds : Finds) :
    s.openWord e g w finds = s.setEng e (s.openedEng e g w) := by
  simp only [State.openWord, s.wordAt_settled _ _ hs]
  rw [State.sideFields_quiet _ _ _ h, State.updEng, State.setEng_setEng, State.sideEng, State.setEng_eng]
  rfl

end

section

variable {e : EngNo} {g : Nat} {w : Micro} {s : State}

theorem State.atOpen_next (hr : s.engRuns e.val = true) (hw : (s.eng e.val).word = none) (hp : (s.eng e.val).pend = none)
    (hn : (s.eng e.val).nextAt = some g) : s.atOpen e.val g = some (s.at g) := by
  simp only [State.atOpen, hr, hw, hp, hn, Bool.not_true, Bool.false_eq_true, if_false, if_true]

theorem State.meetFetch_nil (t : State) (a : Option Nat) : t.meetFetch a [] = t := by cases a <;> rfl

/-- The engine has fetched, and ENG_STAT.PC shows the address (R211). -/
def State.fetchDone (s : State) (e g : Nat) : State :=
  ((s.at g).setEng e (s.eng e)).setFld (engStat e) ENG_STAT_PC (s.eng e).pc

theorem exec_wordOpen (hv : (s.eng e.val).vform = false) (hr : s.engRuns e.val = true) (hw : (s.eng e.val).word = none)
    (hp : (s.eng e.val).pend = none) (hn : (s.eng e.val).nextAt = some g) (hsel : (s.eng e.val).sel = .ws)
    (hpc : (s.eng e.val).pc < 16384) (hbad : s.storeBad (wsAddr e.val (s.eng e.val).pc) = false) :
    exec (.wordOpen e g []) s =
      .next ((s.fetchDone e.val g).openWord e.val g (microOf (s.storeWord (wsAddr e.val (s.eng e.val).pc))) []) := by
  show execWordOpen e g [] s = _
  have hform : (s.eng e.val).hform = true := by rw [EngSt.hform, hv]; rfl
  have hsteer : (s.at g).steer e.val = s.eng e.val := by
    simp only [State.steer, State.at_eng, hsel, Nat.mod_eq_of_lt hpc]
    rw [← hsel]
  have hgood : (s.fetchDone e.val g).fetchBad e.val (s.eng e.val) = false := by rw [State.fetchBad, hsel]; exact hbad
  simp only [execWordOpen, hform, Bool.not_true, Bool.false_eq_true, if_false, State.atOpen_next hr hw hp hn, hsteer, hv]
  rw [State.meetFetch_nil, ← State.fetchDone, hgood, if_neg Bool.false_ne_true, State.fetched, hsel]
  rfl

end

section

variable (s : State) (e g : Nat) (w : Micro)

theorem State.setFld_seekVaddr (f : Fld) (v j : Nat) : (s.setFld (engStat e) f v).seekVaddr e j = s.seekVaddr e j := by
  unfold State.seekVaddr
  rw [State.setFld_fld_ne _ _ _ _ _ _ (engStat_ne_seekLo e j), State.setFld_fld_ne _ _ _ _ _ _ (engStat_ne_seekHi e j)]

/-- How a word opens is read from the engine, what is in force and the SEEK register. -/
theorem State.openedEng_congr {t : State} (he : t.eng e = s.eng e) (hf : ∀ a, t.inForce a = s.inForce a)
    (hk : t.seekVaddr e w.seekIdx = s.seekVaddr e w.seekIdx) : t.openedEng e g w = s.openedEng e g w := by
  simp only [State.openedEng, State.sideEng, State.wordPeriod, he, hf, hk]

end

section

variable (s : State) (e g : Nat) (w : Micro)

theorem State.fetchDone_engineOnly : EngineOnly e (s.at g) (s.fetchDone e g) := (EngineOnly.refl.setEng _).setFld _ _

theorem State.fetchDone_openedEng : (s.fetchDone e g).openedEng e g w = s.openedEng e g w := by
  refine s.openedEng_congr e g w ?_ (fun _ => rfl) ?_
  · rw [State.fetchDone, State.setFld_eng, State.setEng_eng]
  · rw [State.fetchDone, State.setFld_seekVaddr]
    rfl

theorem State.fetchDone_fld : (s.fetchDone e g).fld (engStat e) ENG_STAT_PC = (s.eng e).pc % 2 ^ 16 :=
  State.setFld_fld _ _ _ _ (by decide) (by decide)

end

/-! The check of a WAIT (R202). -/

section

variable (s : State) (e g : Nat) {w : Micro} (hw : (s.eng e).word = some w)
include hw

theorem State.waitCheckAt_met (h : s.selMet (engCl e) w.waitSel w.condInv = true) : s.waitCheckAt e g = s.setEng e
    { (s.eng e).noteCheck (engCl e) w.waitSel g with lastCheck := some g, pend := some (s.waitExit
      ((s.eng e).noteCheck (engCl e) w.waitSel g) w g) } := by
  simp only [State.waitCheckAt, hw]
  exact if_pos h

theorem State.waitCheckAt_unmet (h : s.selMet (engCl e) w.waitSel w.condInv = false) : s.waitCheckAt e g = (s.setEng e
    { (s.eng e).noteCheck (engCl e) w.waitSel g with
      lastCheck := some g, pend := none, waiting := true
      waitFrom := if ((s.eng e).noteCheck (engCl e) w.waitSel g).waiting then ((s.eng e).noteCheck (engCl e) w.waitSel g).waitFrom else g
      }).setBit (engStat e) ENG_STAT_WAITING true := by
  simp only [State.waitCheckAt, hw]
  exact if_neg (by rw [h]; exact Bool.false_ne_true)

end

section

variable {e g : Nat} {s u : State} (h : s.onlyEngine u e g)
include h

theorem State.onlyEngine_setEng (x : EngSt) : s.onlyEngine (u.setEng e x) e g :=
  ⟨congrArg (fun r : State => { r with engines := (u.setEng e x).engines }) h.1,
    fun k hk => (u.setEng_eng_ne e x k hk).trans (h.2 k hk)⟩

theorem State.engineOnly_of_onlyEngine : EngineOnly e (s.at g) u :=
  ⟨congrArg (fun r : State => { r with engines := [], regs := [] }) h.1, h.2,
    fun a _ => by have hr := congrArg (State.reg · a) h.1; exact hr⟩

theorem State.onlyEngine_selMet (c sel : Nat) (inv : Bool) : u.selMet c sel inv = s.selMet c sel inv := by
  have hs := congrArg (State.selMet · c sel inv) h.1
  exact hs

theorem State.onlyEngine_latency (k : Nat) : u.latency k = s.latency k := by
  have hs := congrArg (State.latency · k) h.1
  exact hs

end

section

variable {e : EngNo} {g : Nat} {w : Micro} {s u : State} (hw : (s.eng e.val).word = some w) (hu : s.onlyEngine u e.val g)
  (hn : u.eng e.val = { s.eng e.val with nextAt := none }) {x : Instr} (hx : exec x s = .next (u.waitCheckAt e.val g))
include hw hu hn hx

theorem wait_met (h : s.selMet (engCl e.val) w.waitSel w.condInv = true) : ∃ t p, exec x s = .next t ∧ (t.eng e.val).pend = some p ∧
    p.isWait = true ∧ p.s = g ∧ p.at_ = g + s.latency (selLevel w.waitSel) ∧ (t.eng e.val).word = some w ∧
    (t.eng e.val).nextAt = none ∧ s.onlyEngine t e.val g := by
  have hword : (u.eng e.val).word = some w := by rw [hn]; exact hw
  rw [State.waitCheckAt_met u _ _ hword ((State.onlyEngine_selMet hu ..).trans h), EngSt.noteCheck_eq] at hx
  refine ⟨_, _, hx, by rw [State.setEng_eng], rfl, rfl, ?_, by rw [State.setEng_eng]; exact hword, by rw [State.setEng_eng, hn],
    State.onlyEngine_setEng hu _⟩
  rw [← State.onlyEngine_latency hu]
  rfl

theorem wait_unmet (h : s.selMet (engCl e.val) w.waitSel w.condInv = false) : ∃ t, exec x s = .next t ∧ (t.eng e.val).pend = none ∧
    (t.eng e.val).waiting = true ∧ t.bit (engStat e.val) ENG_STAT_WAITING = true ∧ (t.eng e.val).word = some w ∧
    (t.eng e.val).nextAt = none ∧ (∀ k, k ≠ e.val → t.eng k = s.eng k) ∧
    t = { s with gt := max s.gt g, engines := t.engines, regs := t.regs } ∧ s.regsKept t [engStat e.val] := by
  have hword : (u.eng e.val).word = some w := by rw [hn]; exact hw
  rw [State.waitCheckAt_unmet u _ _ hword ((State.onlyEngine_selMet hu ..).trans h), EngSt.noteCheck_eq] at hx
  have honly := ((State.engineOnly_of_onlyEngine hu).setEng { (u.eng e.val) with
    sysChecks := ((u.eng e.val).noteCheck (engCl e.val) w.waitSel g).sysChecks
    lastCheck := some g, pend := none, waiting := true
    waitFrom := if (u.eng e.val).waiting then (u.eng e.val).waitFrom else g }).setBit ENG_STAT_WAITING true
  exact ⟨_, hx, by rw [State.setBit_eng, State.setEng_eng], by rw [State.setBit_eng, State.setEng_eng],
    State.setBit_bit _ _ _ _ rfl (by decide), by rw [State.setBit_eng, State.setEng_eng]; exact hword,
    by rw [State.setBit_eng, State.setEng_eng, hn], honly.others, honly.frame, honly.regs⟩

end

section

variable {e : EngNo} {g : Nat} {w : Micro} {s : State} (hw : (s.eng e.val).word = some w) (hop : w.seqOp = 6)
  (hr : s.engRuns e.val = true) (hp : (s.eng e.val).pend = none)
include hw hop hr hp

theorem exec_wait (hn : (s.eng e.val).nextAt = some g) : exec (.wait e g) s =
    .next (((s.at g).setEng e.val { s.eng e.val with nextAt := none }).waitCheckAt e.val g) := by
  show execWait e g s = _
  have hdue : (s.eng e.val).pendDue g = false := by rw [EngSt.pendDue, hp]
  simp only [execWait, hw]
  rw [if_pos ⟨hr, hop, hn, hdue⟩, hp]
  rfl

theorem exec_waitCheck (hn : (s.eng e.val).nextAt = none) (hl : (s.eng e.val).lastCheck ≠ some g) {k : Nat}
    (hk : (s.eng e.val).cyclesBy g = some k) (hlater : w.cycles < k) (hpass : k % w.cycles = 0) : exec (.waitCheck e g) s =
    .next ((s.at g).waitCheckAt e.val g) := by
  show execWaitCheck e g s = _
  simp only [execWaitCheck, hw, hk]
  exact if_pos ⟨hr, hop, hn, hp, hl, hlater, hpass⟩

end

/-- Settles O31: a word opens as `State.openedEng`; both kinds of check are that of `State.waitCheckAt`. -/
theorem wordsOpenAndWait : Obligations.WordsOpenAndWait := by
  unfold Obligations.WordsOpenAndWait
  refine fun e g w s => ⟨fun hv hr hword hp hn hsel hpc hbad hw hdict hseg hadc harm hset hclr hflight => ?_,
    fun hword hop hr hp x hx hdue => ?_⟩
  · have hx := exec_wordOpen hv hr hword hp hn hsel hpc hbad
    have hfree : (s.fetchDone e.val g).inFlight = [] := hflight
    rw [← hw, State.openWord_quiet _ _ _ ⟨hdict, hseg, hadc, harm, hset, hclr⟩ hfree, State.fetchDone_openedEng] at hx
    have honly := (s.fetchDone_engineOnly e.val g).setEng (s.openedEng e.val g w)
    refine ⟨_, hx, State.setEng_eng .., ?_, honly.others, honly.frame, honly.regs⟩
    rw [State.setEng_fld, State.fetchDone_fld]
    exact Nat.mod_eq_of_lt (hpc.trans (by decide))
  · simp only [List.mem_cons, List.not_mem_nil, or_false] at hx
    rcases hx with rfl | rfl
    · have hgo := exec_wait hword hop hr hp hdue
      have hu : s.onlyEngine ((s.at g).setEng e.val { s.eng e.val with nextAt := none }) e.val g :=
        ⟨rfl, fun k hk => State.setEng_eng_ne _ _ _ k hk⟩
      exact ⟨wait_met hword hu (State.setEng_eng ..) hgo, wait_unmet hword hu (State.setEng_eng ..) hgo⟩
    · obtain ⟨hn, hl, k, hk, hlater, hpass⟩ := hdue
      have hgo := exec_waitCheck hword hop hr hp hn hl hk hlater hpass
      have hu : s.onlyEngine (s.at g) e.val g := ⟨rfl, fun _ _ => rfl⟩
      have hnext : (s.at g).eng e.val = { s.eng e.val with nextAt := none } := by rw [State.at_eng, ← hn]
      exact ⟨wait_met hword hu hnext hgo, wait_unmet hword hu hnext hgo⟩

end Sys2Proof.Machine
end

section
namespace Sys2Proof.Machine

/-! A member of a V-form group runs the operation that it stands before (R207, R208, Table 6-7a). -/

section

variable (s : State) (e : Nat)

/-- The patch matches of a cluster do not read an engine's status register (R213). -/
theorem State.vPatch_congr {t : State} (c vop i : Nat) (h : ∀ n, t.reg (ENG_PM c n) = s.reg (ENG_PM c n)) :
    t.vPatch c vop i = s.vPatch c vop i := by
  simp only [State.vPatch, State.patchOf, State.bit, State.fld, h]

theorem State.meetWord_nil (a : Nat) : s.meetWord a [] = s := by rfl

@[simp] theorem State.setFld_storeBad (a : Nat) (f : Fld) (v k : Nat) : (s.setFld a f v).storeBad k = s.storeBad k := by rfl

@[simp] theorem State.setFld_storeWord (a : Nat) (f : Fld) (v k : Nat) : (s.setFld a f v).storeWord k = s.storeWord k := by rfl

end

/-- A member that is due stands before its next operation: with no word in progress, or when a STREAM word closes (R207). -/
theorem State.vReady_next {s : State} {e : EngNo} {g : Nat} (hv : (s.eng e.val).vform = true) (hsel : (s.eng e.val).sel = .ws)
    (hr : s.engRuns e.val = true) (hp : (s.eng e.val).pend = none) (hn : (s.eng e.val).nextAt = some g) :
    ((s.eng e.val).word = none → s.vReady e.val g = some (s.at g)) ∧
    (∀ w, (s.eng e.val).word = some w → w.seqOp ≠ 6 → s.vReady e.val g = some (s.closeWord e.val g w)) := by
  have hform : (s.eng e.val).hform = false := by rw [EngSt.hform, hv, hsel]; rfl
  have hdue : (s.eng e.val).pendDue g = false := by rw [EngSt.pendDue, hp]
  refine ⟨fun hw => ?_, fun w hw hop => ?_⟩
  · simp only [State.vReady, hform, hw, State.atOpen_next hr hw hp hn, Bool.false_eq_true, if_false]
  · simp only [State.vReady, hform, hw, Bool.false_eq_true, if_false]
    exact if_pos ⟨hr, hop, hn, hdue⟩

/-- A poisoned store word ends the engine's part and its run (R344). -/
theorem State.storeLost_ends (s : State) (e g : Nat) : ((s.storeLost e g).eng e).halted = some g ∧
    ((∀ r ∈ s.runs, some r.id = (s.eng e).run → r.endCode = none) →
      ∀ y ∈ (s.storeLost e g).runs, some y.id = (s.eng e).run → (y.endCode, y.endAt) = (some codeDataLost, some g)) := by
  have hends := (s.haltEngine e g).endRun_ends e g codeDataLost
  rw [State.haltEngine_eng, State.haltEngine_runs] at hends
  rw [State.storeLost, State.event_eng, State.event_runs, State.endRun_eng, State.haltEngine_eng]
  exact ⟨rfl, hends⟩

/-- A member stands in u before the operation v, of which no word is patched or poisoned, and follows its lead to the state z. -/
structure VStep (e g : Nat) (s u : State) (v : VOp) (n : LeadPath × Nat) (z : State) : Prop where
  ready : s.vReady e g = some u
  good : u.storeBad (wsAddr (u.eng e).lead ((u.eng e).pc % 65536 / 4)) = false
  op : v = vopOf (u.storeWord (wsAddr (u.eng e).lead ((u.eng e).pc % 65536 / 4))) ((u.eng e).pc % 65536 % 4)
  unpatched : u.vPatch (engCl e) v.vop 0 = none
  fresh : (u.eng e).vResume = none
  follows : n = (u.eng e).path.after v.vop v.operand ((u.eng e).pc % 65536)
  done : z = (u.setFld (engStat e) ENG_STAT_PC ((u.eng e).pc % 65536)).updEng e
    (fun x => { x with path := n.1, pc := n.2, vOperand := v.operand })

theorem State.vRun_poisoned {e g : Nat} {s u : State} (hu : s.vReady e g = some u) (hr : (u.eng e).vResume = none)
    (hb : u.storeBad (wsAddr (u.eng e).lead ((u.eng e).pc % 65536 / 4)) = true) (vop : Nat → Bool) (act : Nat → State → State) :
    s.vRun e g [] vop act = (u.setFld (engStat e) ENG_STAT_PC ((u.eng e).pc % 65536)).storeLost e g := by
  simp only [State.vRun, hu, hr, State.meetWord_nil, State.setFld_storeBad, hb, if_true]

section

variable {e g : Nat} {s u : State} {v : VOp} {n : LeadPath × Nat} {z : State} (h : VStep e g s u v n z)
include h

theorem VStep.eng : z.eng e = { u.eng e with path := n.1, pc := n.2, vOperand := v.operand } := by
  rw [h.done, State.updEng_eng, State.setFld_eng]

theorem VStep.inFlight : z.inFlight = u.inFlight := by rw [h.done, State.updEng_inFlight, State.setFld_inFlight]

theorem VStep.inForce (a : Nat) : z.inForce a = u.inForce a := by rw [h.done, State.updEng_inForce, State.setFld_inForce]

theorem VStep.seekVaddr (j : Nat) : z.seekVaddr e j = u.seekVaddr e j := by
  rw [← u.setFld_seekVaddr e ENG_STAT_PC ((u.eng e).pc % 65536) j, h.done]
  simp only [State.seekVaddr, State.updEng_fld]

/-- The operation has its effect on the state in which the member follows its lead. -/
theorem VStep.acts {vop : Nat → Bool} (hvop : vop v.vop = true) (act : Nat → State → State) : s.vRun e g [] vop act = act v.operand z := by
  obtain ⟨hu, hb, hv, hp, hr, hn, hz⟩ := h
  have hmod : (u.eng e).pc % 65536 % 4 = (u.eng e).pc % 4 := Nat.mod_mod_of_dvd _ (by decide)
  have hpatch : z.vPatch (engCl e) v.vop 0 = none := by
    rw [← hp]
    exact State.vPatch_congr u (engCl e) v.vop 0 fun i => by
      rw [hz, State.updEng_reg, State.setFld_reg_ne _ _ _ _ _ (engStat_ne_patchMatch e i)]
  rw [hmod] at hv
  simp only [State.vRun, hu, hr, State.meetWord_nil, State.setFld_storeBad, State.setFld_storeWord, hb, Bool.false_eq_true, if_false,
    ← hv, hvop, if_true, ← hn, ← hz, State.vExpand, hpatch]

end

/-- A word with no side action and no dictionary is quiet. -/
theorem Micro.quiet_of_none {w : Micro} (hd : w.dictEn = false) (hs : w.segTrig = false) (ha : w.adcStart = false) (hr : w.acqArm = 0)
    (ho : w.sigOp = 0) : w.Quiet := ⟨hd, hs, ha, hr, by rw [ho]; decide, by rw [ho]; decide⟩

theorem slice_zero (v n : Nat) : slice v 0 n = v % 2 ^ n := by rw [slice, Nat.pow_zero, Nat.div_one]

/-- The words of an expansion ask for nothing of their own (Table 6-7a). -/
theorem State.openedEng_plain (s : State) (e g : Nat) {w : Micro} (ht : w.tsEn = false) (hs : w.seekEn = false) {p : Nat}
    (hp : p = (s.inForce (TSET_PERIOD (engCl e) (s.eng e).ts)).toNat + 1) : s.openedEng e g w = { s.eng e with
      word := some { w with cycles := w.body }, openAt := g, baseAt := g, baseCyc := 0, period := p, nextAt := some (g + w.body * p)
      coll := {}, lastCheck := none, capEn := w.capEn } := by
  simp only [State.openedEng, State.sideEng, State.wordPeriod, ht, hs, hp, Bool.false_eq_true, if_false]

/-- The word of a STREAM operation (Table 6-7a). -/
def EngSt.streamWord (x : EngSt) (o : Nat) : Micro :=
  { x.vWord with vmode := if o / 2 ^ 24 % 4 = 3 then 1 else o / 2 ^ 24 % 4, cycles := o % 2 ^ 24 }

section

variable {e : EngNo} {g : Nat} {s u : State} {v : VOp} {n : LeadPath × Nat} {z : State} (h : VStep e.val g s u v n z)
include h

theorem exec_vopStream (hop : v.vop = 1) :
    exec (.vopStream e g []) s = .next (z.openWord e.val g ((z.eng e.val).streamWord v.operand) []) := by
  refine (congrArg Host.Outcome.next (h.acts (vop := (· == 1)) (by simp [hop]) _)).trans ?_
  simp only [slice_zero]
  rfl

theorem VStep.period : (u.inForce (TSET_PERIOD (engCl e.val) (u.eng e.val).ts)).toNat + 1 =
    (z.inForce (TSET_PERIOD (engCl e.val) (z.eng e.val).ts)).toNat + 1 := by rw [h.inForce, h.eng]

theorem vopStream_opens (hop : v.vop = 1) (hfree : u.inFlight = []) : ∃ t, exec (.vopStream e g []) s = .next t ∧
    (let p := (u.inForce (TSET_PERIOD (engCl e.val) (u.eng e.val).ts)).toNat + 1
     t.eng e.val = { z.eng e.val with
       word := some { (z.eng e.val).vWord with
         vmode := if v.operand / 2 ^ 24 % 4 = 3 then 1 else v.operand / 2 ^ 24 % 4
         cycles := v.operand % 2 ^ 24 }
       openAt := g, baseAt := g, baseCyc := 0, period := p, nextAt := some (g + v.operand % 2 ^ 24 * p), coll := {}, lastCheck := none
       capEn := (z.eng e.val).vCap }) ∧
    (∀ k, k ≠ e.val → t.eng k = z.eng k) ∧ t = { z with engines := t.engines } := by
  have hquiet : ((z.eng e.val).streamWord v.operand).Quiet := Micro.quiet_of_none rfl rfl rfl rfl rfl
  have hx := exec_vopStream h hop
  rw [State.openWord_quiet _ _ _ hquiet (h.inFlight.trans hfree), State.openedEng_plain _ _ _ rfl rfl h.period] at hx
  exact ⟨_, hx, State.setEng_eng .., fun k hk => State.setEng_eng_ne _ _ _ k hk, rfl⟩

/-- An operation whose effect is to write the member's record. -/
theorem vop_writes {i : Instr} {vop : Nat → Bool} {act : Nat → State → State} {x : EngSt}
    (hx : exec i s = .next (s.vRun e.val g [] vop act)) (hop : vop v.vop = true) (hact : act v.operand z = z.setEng e.val x) :
    ∃ t, exec i s = .next t ∧ t.eng e.val = x ∧ (∀ k, k ≠ e.val → t.eng k = z.eng k) ∧ t = { z with engines := t.engines } :=
  ⟨z.setEng e.val x, by rw [hx, h.acts hop, hact], State.setEng_eng .., fun k hk => State.setEng_eng_ne _ _ _ k hk, rfl⟩

theorem vopTset_sets (hop : v.vop = 2) : ∃ t, exec (.vopTset e g []) s = .next t ∧
    t.eng e.val = { z.eng e.val with ts := v.operand % 64, vCap := nbit v.operand 6, capEn := nbit v.operand 6 } ∧
    (∀ k, k ≠ e.val → t.eng k = z.eng k) ∧ t = { z with engines := t.engines } := by
  refine vop_writes h rfl (by simp [hop]) ?_
  rw [State.sideFields_quiet _ _ _ (Micro.quiet_of_none rfl rfl rfl rfl rfl), State.updEng, State.setEng_setEng, State.sideEng,
    State.setEng_eng, slice_zero]
  rfl

theorem vopSeek_seeks (hop : v.vop = 3) : ∃ t, exec (.vopSeek e g []) s = .next t ∧
    t.eng e.val = { z.eng e.val with
      capEn := (z.eng e.val).vCap
      vaddr := (u.fld (ENG_SEEK_LO (engCl e.val) (e.val % 4) (v.operand % 2 ^ 10)) ENG_SEEK_LO_VADDR_LO + 2 ^ 32 *
        u.fld (ENG_SEEK_HI (engCl e.val) (e.val % 4) (v.operand % 2 ^ 10)) ENG_SEEK_HI_VADDR_HI) % 2 ^ 40 } ∧
    (∀ k, k ≠ e.val → t.eng k = z.eng k) ∧ t = { z with engines := t.engines } := by
  refine vop_writes h rfl (by simp [hop]) ?_
  rw [State.sideFields_quiet _ _ _ (Micro.quiet_of_none rfl rfl rfl rfl rfl), State.sideEng, h.seekVaddr, slice_zero]
  rfl

theorem exec_vopLdcnt (hop : v.vop = 4) : exec (.vopLdcnt e g []) s = .next (z.updEng e.val (fun x => { x with
    counters := x.counters.set (v.operand / 2 ^ 24 % 4) (v.operand % 2 ^ 24) })) := by
  refine (congrArg Host.Outcome.next (h.acts (vop := (· == 4)) (by simp [hop]) _)).trans ?_
  rw [slice_zero]
  rfl

theorem exec_vopLoopb (hop : v.vop = 5) : exec (.vopLoopb e g []) s = .next (z.updEng e.val (fun x => { x with
    counters := x.counters.set (v.operand / 2 ^ 24 % 4) (x.counters.getD (v.operand / 2 ^ 24 % 4) 0 - 1) })) :=
  congrArg Host.Outcome.next (h.acts (vop := (· == 5)) (by simp [hop]) _)

theorem VStep.pc : (z.eng e.val).pc = ((u.eng e.val).path.after v.vop v.operand ((u.eng e.val).pc % 65536)).2 := by
  rw [h.eng, h.follows]

theorem VStep.pc_loopb (hop : v.vop = 5) : (z.eng e.val).pc =
    if 1 < (u.eng e.val).path.counters.getD (v.operand / 2 ^ 24 % 4) 0 then v.operand % 2 ^ 16
      else ((u.eng e.val).pc % 65536 + 1) % 65536 := by
  rw [h.pc, hop]
  simp only [LeadPath.after, loopStep, slice_zero, decide_eq_true_eq]
  rfl

theorem exec_vopCall (hop : v.vop = 6) (hroom : (z.eng e.val).stack.length < 8) : exec (.vopCall e g []) s =
    .next (z.updEng e.val (fun x => { x with
      stack := ⟨x.sel, ((u.eng e.val).pc % 65536 + 1) % 65536, x.romX, x.vaddr⟩ :: x.stack, sel := .ws, pc := v.operand % 2 ^ 16 })) := by
  have hret : (z.eng e.val).path.calls.headD 0 = ((u.eng e.val).pc % 65536 + 1) % 65536 := by
    rw [h.eng, h.follows, hop]
    rfl
  refine (congrArg Host.Outcome.next (h.acts (vop := (· == 6)) (by simp [hop]) _)).trans ?_
  rw [State.pushCall_room _ _ _ hroom, hret, slice_zero]
  rfl

theorem exec_vopRet {y : StackEntry} {ys : List StackEntry} (hop : v.vop = 7) (hstack : (z.eng e.val).stack = y :: ys) :
    exec (.vopRet e g []) s = .next (z.updEng e.val (fun x => { x with stack := ys, sel := .ws, romX := y.romX, vaddr := y.vaddr })) := by
  refine (congrArg Host.Outcome.next (h.acts (vop := (· == 7)) (by simp [hop]) _)).trans ?_
  rw [State.popCall_cons _ _ _ hstack, State.setEng_updEng]
  rfl

theorem VStep.pc_ret (hop : v.vop = 7) : (z.eng e.val).pc =
    (u.eng e.val).path.calls.headD (((u.eng e.val).pc % 65536 + 1) % 65536) := by
  rw [h.pc, hop]
  rfl

theorem exec_vopSubst (hop : v.vop = 13) : exec (.vopSubst e g []) s = .next (z.updEng e.val (fun x => { x with
    vSubst := nbit v.operand 2, vSubstPtr := v.operand % 4 })) := by
  refine (congrArg Host.Outcome.next (h.acts (vop := (· == 13)) (by simp [hop]) _)).trans ?_
  rw [slice_zero]
  rfl

end

/-- Settles O32: each operation acts on the state of `VStep`, and those that open a word or have side fields ask for nothing else. -/
theorem vectorOperationsRun : Obligations.VectorOperationsRun := by
  unfold Obligations.VectorOperationsRun
  refine fun e g s u v n z => ⟨State.vReady_next, fun hu hr hbad => ?_, fun hu hb hv hp hr hn hz => ?_⟩
  · have hx : exec (.vopNop e g []) s = .next _ := congrArg Host.Outcome.next (State.vRun_poisoned hu hr hbad (· == 0) (fun _ t => t))
    obtain ⟨hhalt, hends⟩ := (u.setFld (engStat e.val) ENG_STAT_PC ((u.eng e.val).pc % 65536)).storeLost_ends e.val g
    rw [State.setFld_eng, State.setFld_runs] at hends
    exact ⟨_, hx, hhalt, hends⟩
  · have h : VStep e.val g s u v n z := ⟨hu, hb, hv, hp, hr, hn, hz⟩
    exact ⟨fun hop => congrArg Host.Outcome.next (h.acts (vop := (· == 0)) (by simp [hop]) _), vopStream_opens h, vopTset_sets h,
      vopSeek_seeks h, exec_vopLdcnt h, fun hop => ⟨exec_vopLoopb h hop, h.pc_loopb hop⟩, exec_vopCall h,
      fun y ys hop hstack => ⟨exec_vopRet h hop hstack, h.pc_ret hop⟩, exec_vopSubst h,
      fun hop => congrArg Host.Outcome.next (h.acts (vop := fun k => decide (15 ≤ k)) (by simp [hop]) _)⟩

end Sys2Proof.Machine
end

section
namespace Sys2Proof.Machine

/-! Side actions of a word one at a time (Table 6-1). -/

section

variable (s : State) (e g : Nat) {w : Micro}

theorem State.sideFields_noDict (h : w.dictEn = false) (finds : Finds) :
    s.sideFields e g w finds = (s.setEng e (s.sideEng e w)).sideActions e g w := by
  rw [State.sideFields_eq, h, if_neg Bool.false_ne_true]

/-- A word that asks for nothing but a change of a flag changes it (R190). -/
theorem State.sideActions_flag {k : Nat} {set : Bool} (hm : s.missingAt (engCl e) g = false) (hseg : w.segTrig = false)
    (hadc : w.adcStart = false) (harm : w.acqArm = 0) (hop : (w.sigOp, set) = (1, true) ∨ (w.sigOp, set) = (2, false))
    (hk : flagOfSel (engCl e) w.sigSel = some k) : s.sideActions e g w = s.flagChange k g (srcEngine e) set := by
  have hbits : bitsOf 2 0 = [] := rfl
  simp only [Prod.mk.injEq] at hop
  rcases hop with ⟨ho, rfl⟩ | ⟨ho, rfl⟩ <;> simp [State.sideActions, hm, hseg, hadc, harm, hbits, ho, hk]

/-- A word that asks for nothing but a segment trigger triggers (R150). -/
theorem State.sideActions_seg (hm : s.missingAt (engCl e) g = false) (hseg : w.segTrig = true) (hadc : w.adcStart = false)
    (harm : w.acqArm = 0) (ho : w.sigOp = 0) : s.sideActions e g w = s.segTrigger e := by
  have hbits : bitsOf 2 0 = [] := rfl
  simp [State.sideActions, hm, hseg, hadc, harm, hbits, ho]

theorem State.segTrigger_frame : ∃ p, s.segTrigger e = { s with pins := p } := State.updPins_frame ..

theorem State.segTrigger_player {i : Nat} (hi : i < 16) (hs : nbit (s.eng e).served i = true) {y : Player}
    (hy : (s.pin (16 * engCl e + i)).player = some y) :
    ((s.segTrigger e).pin (16 * engCl e + i)).player = some { y with trig := true } := by
  rw [State.segTrigger, State.updPins_pin _ _ _ _ _ (bitsOf_nodup ..), if_pos (mem_bitsOf.mpr ⟨hi, hs⟩)]
  simp only [hy, Option.map_some]

end

/-! A change of a flag decides checks anew (R200), and leaves the pins, the runs, memory and where the engines stand. -/

section

variable (s : State)

/-- What a change of a flag leaves as it was. -/
def State.checkView (s : State) : (Nat → Nat × Nat) × Tbl PinSt × List Run × Tbl Byte :=
  (fun k => ((s.eng k).vFlag, (s.eng k).pc), s.pins, s.runs, s.mem)

theorem State.setEng_checkView (e : Nat) {x : EngSt} (hf : x.vFlag = (s.eng e).vFlag) (hp : x.pc = (s.eng e).pc) :
    (s.setEng e x).checkView = s.checkView := by
  refine congrArg (·, s.pins, s.runs, s.mem) (funext fun k => ?_)
  by_cases hk : k = e
  · rw [hk, State.setEng_eng, hf, hp]
  · rw [State.setEng_eng_ne _ _ _ _ hk]

theorem State.setBit_checkView (a : Nat) (f : Fld) (b : Bool) : (s.setBit a f b).checkView = s.checkView := by rfl

theorem State.waitCheckAt_checkView (e g : Nat) : (s.waitCheckAt e g).checkView = s.checkView := by
  unfold State.waitCheckAt
  split
  · dsimp only
    rw [EngSt.noteCheck_eq]
    split
    · exact s.setEng_checkView e rfl rfl
    · rw [State.setBit_checkView]
      exact s.setEng_checkView e rfl rfl
  · rfl

theorem State.unwait_checkView (e g : Nat) : (s.unwait e g).checkView = s.checkView := by
  unfold State.unwait
  dsimp only
  split
  · rw [State.setBit_checkView]
    exact s.setEng_checkView e rfl rfl
  · rfl

theorem State.recheck_checkView (key g e : Nat) : (s.recheck key g e).checkView = s.checkView := by
  unfold State.recheck
  dsimp only
  split
  · split
    · rw [State.unwait_checkView, State.waitCheckAt_checkView]
    · rfl
  · split
    · rw [State.waitCheckAt_checkView]
    · split
      · exact s.setEng_checkView e rfl rfl
      · rfl
  · split
    · exact s.setEng_checkView e rfl rfl
    · rfl
  · rfl

theorem State.flagSetAt_checkView (key g src : Nat) : (s.flagSetAt key g src).checkView = s.checkView := by
  unfold State.flagSetAt
  exact foldl_obs _ State.checkView (fun t e => t.recheck_checkView key g e) _ _

theorem State.flagClrAt_checkView (key g src : Nat) : (s.flagClrAt key g src).checkView = s.checkView := by
  unfold State.flagClrAt
  dsimp only
  split
  · rfl
  · exact foldl_obs _ State.checkView (fun t e => t.recheck_checkView key g e) _ _

/-- A flag below the system's changes at once, and no other does, where no other source has set it at that grain (R200). -/
theorem State.flagChange_changes {key g : Nat} (src : Nat) (set : Bool) (h : key < 3000)
    (hold : (tget (fun _ => ((0, 0) : Nat × Nat)) s.flagSets key).1 ≠ g + 1) :
    (s.flagChange key g src set).flag key = set ∧ (∀ m, m ≠ key → (s.flagChange key g src set).flag m = s.flag m) ∧
    (s.flagChange key g src set).checkView = s.checkView := by
  rw [State.flagChange_flag_low _ _ _ _ _ h]
  cases set
  · simp only [Bool.false_eq_true, if_false]
    refine ⟨?_, fun m hm => ?_, s.flagClrAt_checkView key g src⟩
    · rw [State.flagClrAt_flag, if_pos rfl]
      exact if_neg fun ho => hold ho.1
    · rw [State.flagClrAt_flag, if_neg hm]
  · simp only [if_true]
    refine ⟨?_, fun m hm => ?_, s.flagSetAt_checkView key g src⟩
    · rw [State.flagSetAt_flag, if_pos rfl]
    · rw [State.flagSetAt_flag, if_neg hm]

end

/-! V-form branches and actions (R209, Table 6-7a). -/

section

variable {e : EngNo} {g : Nat} {s u : State} {v : VOp} {n : LeadPath × Nat} {z : State} (h : VStep e.val g s u v n z)
include h

theorem VStep.missingAt (c k : Nat) : z.missingAt c k = u.missingAt c k := by
  rw [h.done]
  simp only [State.missingAt, State.updEng_cl, State.setFld_cl]

omit h in
theorem State.setFld_flagSets (s : State) (a : Nat) (f : Fld) (v : Nat) : (s.setFld a f v).flagSets = s.flagSets := by rfl

theorem VStep.flagSets : z.flagSets = u.flagSets := by
  rw [h.done, State.updEng, State.setEng_flagSets, State.setFld_flagSets]

theorem VStep.flag (m : Nat) : z.flag m = u.flag m := by rw [h.done, State.updEng_flag, State.setFld_flag]

theorem exec_vopBrcond (hop : v.vop = 8) : exec (.vopBrcond e g []) s = .next
    (if v.operand / 2 ^ 20 % 64 = 0 ∧ nbit v.operand 19 = false then z
     else if v.operand / 2 ^ 20 % 64 = 1 ∨ (v.operand / 2 ^ 20 % 64 = 5 ∧ (z.eng e.val).vFlag / 256 % 4 = 0) then
       z.setFld (engStat e.val) ENG_STAT_VBAD 1
     else z.startBranch e.val g (v.operand / 2 ^ 20 % 64) (nbit v.operand 19) (z.eng e.val).vFlag (v.operand % 2 ^ 16)) := by
  refine (congrArg Host.Outcome.next (h.acts (vop := (· == 8)) (by simp [hop]) _)).trans ?_
  rw [slice_zero]
  rfl

theorem VStep.pc_jump (hop : v.vop = 8) (hc : v.operand / 2 ^ 20 % 64 = 0) (hi : nbit v.operand 19 = false) :
    (z.eng e.val).pc = v.operand % 2 ^ 16 := by
  have hplain : slice v.operand 19 7 = 0 := by
    simp only [nbit, beq_eq_false_iff_ne] at hi
    simp only [slice]
    omega
  rw [h.pc, hop]
  simp only [LeadPath.after, hplain, if_true, slice_zero]

theorem vopBrcond_pends (hop : v.vop = 8) (hc : v.operand / 2 ^ 20 % 64 = 2 ∨ v.operand / 2 ^ 20 % 64 = 3)
    (hp : (z.eng e.val).pend = none) : ∃ t p, exec (.vopBrcond e g []) s = .next t ∧ t.eng e.val = { z.eng e.val with pend := some p } ∧
      p.s = g ∧ p.at_ = g + (if v.operand / 2 ^ 20 % 64 = 2 then 3072 else 4096) ∧ p.target = v.operand % 2 ^ 16 ∧
      t.fld (engStat e.val) ENG_STAT_BR_PEND = 1 ∧ (∀ k, k ≠ e.val → t.eng k = z.eng k) ∧
      t = { z with engines := t.engines, regs := t.regs } ∧ z.regsKept t [engStat e.val] := by
  have hx := exec_vopBrcond h hop
  generalize v.operand / 2 ^ 20 % 64 = cond at *
  have hlow : cond ≠ 0 ∧ cond ≠ 1 ∧ cond ≠ 4 ∧ cond ≠ 5 := by omega
  obtain ⟨h0, h1, h4, h5⟩ := hlow
  rw [if_neg fun k => h0 k.1, if_neg fun k => k.elim h1 fun k => h5 k.1, State.startBranch_plain _ _ _ _ _ _ _ hp h4] at hx
  have honly := (EngineOnly.refl (s := z)).branchStarted e.val g cond (nbit v.operand 19) (z.eng e.val).vFlag (v.operand % 2 ^ 16)
  refine ⟨_, _, hx, (State.branchStarted_eng ..).trans (State.branching_of_ne _ _ _ _ _ _ _ h5), rfl, ?_, rfl,
    State.branchStarted_fld .., honly.others, honly.frame, honly.regs⟩
  rcases hc with rfl | rfl <;> rfl

omit h in
/-- A member has named a flag, which its later conditions read (Table 6-7a, log entry 25). -/
def State.flagNamed (s : State) (e o : Nat) : State := s.setEng e { s.eng e with vFlag := o % 2 ^ 10 }

omit h in
theorem State.flagNamed_eng (s : State) (e o : Nat) : (s.flagNamed e o).eng e = { s.eng e with vFlag := o % 2 ^ 10 } :=
  State.setEng_eng ..

omit h in
theorem State.flagNamed_setEng (s : State) (e o : Nat) (x : EngSt) : (s.flagNamed e o).setEng e x = s.setEng e x := State.setEng_setEng ..

/-- The word of a WAITF operation: its body plays HOLD (Table 6-7a, log entry 25). -/
def EngSt.waitfWord (x : EngSt) (o : Nat) : Micro :=
  { x.vWord with seqOp := 6, vmode := 1, cycles := o / 2 ^ 10 % 2 ^ 16, waitSel := o % 2 ^ 10 }

theorem exec_vopWaitf (hop : v.vop = 9) : exec (.vopWaitf e g []) s =
    .next ((z.flagNamed e.val v.operand).openWord e.val g ((z.eng e.val).waitfWord v.operand) []) := by
  refine (congrArg Host.Outcome.next (h.acts (vop := (· == 9)) (by simp [hop]) _)).trans ?_
  rw [slice_zero]
  rfl

theorem vopWaitf_opens (hop : v.vop = 9) (hfree : u.inFlight = []) : ∃ t w, exec (.vopWaitf e g []) s = .next t ∧
    (t.eng e.val).word = some w ∧ w.seqOp = 6 ∧ w.waitSel = v.operand % 2 ^ 10 ∧ w.cycles = max 1 (v.operand / 2 ^ 10 % 2 ^ 16) ∧
    w.vmode = 1 ∧ (t.eng e.val).vFlag = v.operand % 2 ^ 10 ∧ (t.eng e.val).pc = ((u.eng e.val).pc % 65536 + 1) % 65536 ∧
    (t.eng e.val).openAt = g ∧
    (t.eng e.val).nextAt = some (g + w.cycles * ((u.inForce (TSET_PERIOD (engCl e.val) (u.eng e.val).ts)).toNat + 1)) ∧
    (∀ k, k ≠ e.val → t.eng k = z.eng k) ∧ t = { z with engines := t.engines } := by
  have hquiet : ((z.eng e.val).waitfWord v.operand).Quiet := Micro.quiet_of_none rfl rfl rfl rfl rfl
  have hx := exec_vopWaitf h hop
  have hpc : (z.eng e.val).pc = ((u.eng e.val).pc % 65536 + 1) % 65536 := by rw [h.pc, hop]; rfl
  have hnamed : (z.flagNamed e.val v.operand).inFlight = [] := h.inFlight.trans hfree
  have hperiod : (u.inForce (TSET_PERIOD (engCl e.val) (u.eng e.val).ts)).toNat + 1 =
      ((z.flagNamed e.val v.operand).inForce (TSET_PERIOD (engCl e.val) ((z.flagNamed e.val v.operand).eng e.val).ts)).toNat + 1 := by
    rw [State.flagNamed_eng, h.period]
    rfl
  rw [State.openWord_quiet _ _ _ hquiet hnamed, State.openedEng_plain _ _ _ rfl rfl hperiod, State.flagNamed_setEng,
    State.flagNamed_eng] at hx
  exact ⟨_, _, hx, by rw [State.setEng_eng], rfl, rfl, rfl, rfl, by rw [State.setEng_eng], by rw [State.setEng_eng]; exact hpc,
    by rw [State.setEng_eng], by rw [State.setEng_eng], fun k hk => State.setEng_eng_ne _ _ _ k hk, rfl⟩

omit h in
/-- The word of a SIGF operation (Table 6-7a). -/
def EngSt.sigfWord (x : EngSt) (o : Nat) : Micro := { x.vWord with sigOp := o / 2 ^ 10 % 4, sigSel := o % 2 ^ 10 }

theorem exec_vopSigf (hop : v.vop = 10) : exec (.vopSigf e g []) s = .next ((z.flagNamed e.val v.operand).sideFields e.val g
    (((z.flagNamed e.val v.operand).eng e.val).sigfWord v.operand) []) := by
  refine (congrArg Host.Outcome.next (h.acts (vop := (· == 10)) (by simp [hop]) _)).trans ?_
  rw [slice_zero]
  rfl

theorem vopSigf_changes (hop : v.vop = 10) {k : Nat} {set : Bool}
    (ho : (v.operand / 2 ^ 10 % 4, set) = (1, true) ∨ (v.operand / 2 ^ 10 % 4, set) = (2, false))
    (hk : flagOfSel (engCl e.val) (v.operand % 2 ^ 10) = some k) (hlow : k < 3000) (hm : u.missingAt (engCl e.val) g = false)
    (hold : (tget (fun _ => ((0, 0) : Nat × Nat)) u.flagSets k).1 ≠ g + 1) : ∃ t, exec (.vopSigf e g []) s = .next t ∧
      t.flag k = set ∧ (∀ m, m ≠ k → t.flag m = u.flag m) ∧ (t.eng e.val).vFlag = v.operand % 2 ^ 10 ∧
      (t.eng e.val).pc = (z.eng e.val).pc ∧ t.pins = z.pins ∧ t.runs = z.runs ∧ t.mem = z.mem := by
  have hx := exec_vopSigf h hop
  have heng : (z.flagNamed e.val v.operand).sideEng e.val (((z.flagNamed e.val v.operand).eng e.val).sigfWord v.operand) =
      { z.eng e.val with vFlag := v.operand % 2 ^ 10, capEn := (z.eng e.val).vCap } := by
    rw [State.sideEng, State.flagNamed_eng]
    rfl
  rw [State.sideFields_noDict _ _ _ rfl, State.flagNamed_setEng, heng] at hx
  generalize hy : z.setEng e.val _ = y at hx
  have hmiss : y.missingAt (engCl e.val) g = false := by rw [← hm, ← h.missingAt, ← hy]; rfl
  have hsets : y.flagSets = u.flagSets := by rw [← hy, State.setEng_flagSets, h.flagSets]
  have hflag : ∀ m, y.flag m = u.flag m := fun m => by rw [← hy, State.setEng_flag, h.flag]
  rw [State.sideActions_flag _ _ _ hmiss rfl rfl rfl ho hk] at hx
  obtain ⟨hset, hother, hview⟩ := y.flagChange_changes (srcEngine e.val) set hlow (by rw [hsets]; exact hold)
  obtain ⟨hf, hp⟩ := Prod.mk.inj (congrFun (congrArg Prod.fst hview) e.val)
  have hrest : (_, _, _) = (_, _, _) := congrArg Prod.snd hview
  obtain ⟨hpins, hruns, hmem⟩ : _ ∧ _ ∧ _ := by simpa only [Prod.mk.injEq] using hrest
  refine ⟨_, hx, hset, fun m hmk => (hother m hmk).trans (hflag m), hf.trans ?_, hp.trans ?_, hpins.trans ?_, hruns.trans ?_,
    hmem.trans ?_⟩
  all_goals subst hy
  · rw [State.setEng_eng]
  · rw [State.setEng_eng]
  all_goals rfl

theorem exec_vopAct (hop : v.vop = 11) : exec (.vopAct e g []) s = .next (z.sideFields e.val g { (z.eng e.val).vWord with
    acqArm := v.operand / 4 % 4, adcStart := nbit v.operand 1, segTrig := nbit v.operand 0 } []) :=
  congrArg Host.Outcome.next (h.acts (vop := (· == 11)) (by simp [hop]) _)

theorem exec_vopDict (hop : v.vop = 12) : exec (.vopDict e g []) s = .next (z.sideFields e.val g { (z.eng e.val).vWord with
    dictEn := true, dictImg := v.operand % 2 ^ 12 } []) := by
  refine (congrArg Host.Outcome.next (h.acts (vop := (· == 12)) (by simp [hop]) _)).trans ?_
  rw [slice_zero]

theorem exec_vopHalt (hop : v.vop = 14) : exec (.vopHalt e g []) s = .next (z.haltEngine e.val g) :=
  congrArg Host.Outcome.next (h.acts (vop := (· == 14)) (by simp [hop]) _)

theorem vopAct_triggers (hop : v.vop = 11) (ho : v.operand % 16 = 1) (hm : z.missingAt (engCl e.val) g = false) :
    ∃ t, exec (.vopAct e g []) s = .next t ∧ t.eng e.val = { z.eng e.val with capEn := (z.eng e.val).vCap } ∧
      (∀ i, i < 16 → nbit (z.eng e.val).served i = true → ∀ y, (z.pin (16 * engCl e.val + i)).player = some y →
        (t.pin (16 * engCl e.val + i)).player = some { y with trig := true }) ∧
      t = { z with engines := t.engines, pins := t.pins } := by
  have hx := exec_vopAct h hop
  have harm : v.operand / 4 % 4 = 0 := by omega
  have hadc : nbit v.operand 1 = false := by simp only [nbit, beq_eq_false_iff_ne]; omega
  have hseg : nbit v.operand 0 = true := by simp only [nbit, beq_iff_eq]; omega
  rw [harm, hadc, hseg, State.sideFields_noDict _ _ _ rfl, State.sideEng] at hx
  generalize hy : z.setEng e.val _ = y at hx
  have hmiss : y.missingAt (engCl e.val) g = false := by rw [← hm, ← hy]; rfl
  rw [State.sideActions_seg _ _ _ hmiss rfl rfl rfl rfl] at hx
  have heng : y.eng e.val = { z.eng e.val with capEn := (z.eng e.val).vCap } := by rw [← hy, State.setEng_eng]; rfl
  have hplay := fun i hi hs x => y.segTrigger_player e.val (i := i) (y := x) hi hs
  obtain ⟨pins, hpins⟩ := y.segTrigger_frame e.val
  refine ⟨_, hx, ?_, fun i hi hs x hxp => hplay i hi (by rw [heng]; exact hs) x (by rw [← hy]; exact hxp), ?_⟩
  · rw [← heng, hpins]
    rfl
  · rw [hpins, ← hy]
    rfl

end

/-- Settles O33: each operation acts on the state of `VStep`, a branch as `State.startBranch`, a flag as `State.flagChange`. -/
theorem vectorBranchesAndActions : Obligations.VectorBranchesAndActions := by
  unfold Obligations.VectorBranchesAndActions
  intro e g s u v n z hu hb hv hp hr hn hz
  have h : VStep e.val g s u v n z := ⟨hu, hb, hv, hp, hr, hn, hz⟩
  refine ⟨fun hop hc hi => ⟨(exec_vopBrcond h hop).trans ?_, h.pc_jump hop hc hi⟩, fun hop hbad => (exec_vopBrcond h hop).trans ?_,
    vopBrcond_pends h, vopWaitf_opens h, fun hop k set => vopSigf_changes h hop, exec_vopAct h, vopAct_triggers h, exec_vopDict h,
    fun hop => ?_⟩
  · rw [if_pos ⟨hc, hi⟩]
  · rw [if_neg (fun k => by omega), if_pos hbad]
  · have honly := z.haltEngine_engineOnly e.val g
    exact ⟨_, exec_vopHalt h hop, by rw [State.haltEngine_eng]; rfl, by rw [State.haltEngine_eng]; rfl, honly.others, honly.frame,
      honly.regs⟩

end Sys2Proof.Machine
end

section
namespace Sys2Proof.Machine

/-! A partner's write of a register of a known row (R19, R20, R452). -/

section

variable (s : State) {a : Nat} {x : RegRow} (hrow : regRow a = some x) (v : Word) (be : BitVec 4)
include hrow

theorem State.partnerWrite_of_row : s.partnerWrite a v be = s.setReg a (writeWord x (s.reg a) v be) := by rw [State.partnerWrite, hrow]

theorem State.partnerWrite_fld {f : Fld} (hrw : ∀ i, i < f.width → (BitVec.ofNat 32 x.rw &&& beMask be).getLsbD (f.lo + i) = true)
    (hw1c : ∀ i, i < f.width → (BitVec.ofNat 32 x.w1c &&& beMask be).getLsbD (f.lo + i) = false) :
    (s.partnerWrite a v be).fld a f = getF v f := by
  rw [s.partnerWrite_of_row hrow, State.setReg_fld, getF_writeWord _ _ hrw hw1c]

theorem State.partnerWrite_frame : s.partnerWrite a v be = { s with regs := (s.partnerWrite a v be).regs } := by
  rw [s.partnerWrite_of_row hrow]
  rfl

end

/-! Control stores as partners reach them (R211). -/

section

variable (s : State) (c : Nat)

theorem engCsData_inj {j k : Nat} (h : ENG_CS_DATA c j = ENG_CS_DATA c k) : j = k := by
  unfold ENG_CS_DATA at h
  omega

/-- Storing a row of registers changes registers only. -/
theorem State.setRegs_frame {α : Type} (h : α → Nat) (v : α → Word) (l : List α) :
    l.foldl (fun t k => t.setReg (h k) (v k)) s = { s with regs := (l.foldl (fun t k => t.setReg (h k) (v k)) s).regs } := by
  generalize ht : l.foldl (fun t k => t.setReg (h k) (v k)) s = t
  have hrest : ({ t with regs := [] } : State) = { s with regs := [] } := by
    rw [← ht]
    exact foldl_obs _ (fun t : State => ({ t with regs := [] } : State)) (fun _ _ => by rfl) l s
  have hput := congrArg (fun x : State => ({ x with regs := t.regs } : State)) hrest
  exact hput

theorem State.putCsData_frame (w : HBits) : s.putCsData c w = { s with regs := (s.putCsData c w).regs } := by
  unfold State.putCsData
  exact s.setRegs_frame (ENG_CS_DATA c) _ _

theorem State.putCsData_reg (w : HBits) {k : Nat} (hk : k < 5) : (s.putCsData c w).reg (ENG_CS_DATA c k) =
    BitVec.ofNat 32 (w.toNat / 2 ^ (32 * k) % 2 ^ (if k = 4 then 16 else 32)) := by
  have hmem : k ∈ [0, 1, 2, 3, 4] := by simp only [List.mem_cons, List.not_mem_nil, or_false]; omega
  exact foldl_set _ (State.reg · (ENG_CS_DATA c k)) k _ (fun t => State.setReg_reg t _ _)
    (fun t j hj => State.setReg_reg_ne t _ _ _ fun he => hj (engCsData_inj c he.symm)) _ s hmem

theorem State.putCsData_regsKept (w : HBits) : s.regsKept (s.putCsData c w) ((List.range 5).map (ENG_CS_DATA c)) := by
  intro a ha
  refine foldl_obs_mem _ (State.reg · a) [0, 1, 2, 3, 4] (fun k hk t => State.setReg_reg_ne t _ _ _ fun he => ha ?_) s
  rw [he]
  refine List.mem_map_of_mem (List.mem_range.mpr ?_)
  simp only [List.mem_cons, List.not_mem_nil, or_false] at hk
  omega

/-- The word that a read of a store answers: the ROM's, ones for a poisoned one (R211). -/
def State.csAnswer (s : State) (c : Nat) (v : Word) : HBits :=
  if csStore v = 5 then romAt (csAddr v) else if s.storeBad (csTarget c v) = true then BitVec.allOnes 144
  else s.storeWord (csTarget c v)

theorem State.csReadNow_eq (v : Word) : s.csReadNow c v [] = s.putCsData c (s.csAnswer c v) := by
  unfold State.csReadNow State.csAnswer
  rw [State.meetWord_nil]
  split
  · rfl
  · dsimp only
    split <;> rfl

theorem State.releaseStart_none {e : Nat} (h : (s.eng e).heldStart = none) : s.releaseStart e = s := by rw [State.releaseStart, h]

theorem State.releaseStarts_none {l : List Nat} (h : ∀ e ∈ l, (s.eng e).heldStart = none) : l.foldl State.releaseStart s = s := by
  induction l with
  | nil => rfl
  | cons e l ih =>
    rw [List.foldl_cons, s.releaseStart_none (h e (List.mem_cons_self ..))]
    exact ih fun k hk => h k (List.mem_cons_of_mem _ hk)

/-- The state with a word of a store written by a partner, its poison lifted (R211). -/
def State.csWritten (s : State) (a : Nat) (w : HBits) : State := ((s.setStoreWord a w).setStoreBad a false).setStoreHeld a true

theorem State.csWritten_storeWord (a : Nat) (w : HBits) : (s.csWritten a w).storeWord a = w := tget_tput_same _ _ _ _

theorem State.csWritten_storeBad (a : Nat) (w : HBits) : (s.csWritten a w).storeBad a = false :=
  tget_tput_same (fun _ => false) s.storePoison a false

theorem State.csWritten_eng (a : Nat) (w : HBits) (e : Nat) : (s.csWritten a w).eng e = s.eng e := by rfl

theorem State.csWritten_frame (a : Nat) (w : HBits) : s.csWritten a w = { s with
    stores := (s.csWritten a w).stores, storePoison := (s.csWritten a w).storePoison, storeWritten := (s.csWritten a w).storeWritten } := by
  rfl

theorem State.csWritten_others {a m : Nat} (w : HBits) (h : m ≠ a) :
    (s.csWritten a w).storeWord m = s.storeWord m ∧ (s.csWritten a w).storeBad m = s.storeBad m :=
  ⟨tget_tput_ne (fun _ => haltWord) s.stores w h.symm, tget_tput_ne (fun _ => false) s.storePoison false h.symm⟩

theorem State.csWriteNow_free (port : Nat) {v : Word} (hfree : s.csBusy c v = false)
    (hheld : ∀ e ∈ storeEngines (csTarget c v), (s.eng e).heldStart = none) :
    s.csWriteNow port c v = s.csWritten (csTarget c v) (s.csData c) := by
  have hstarts : (storeEngines (csTarget c v)).foldl State.releaseStart (s.csWritten (csTarget c v) (s.csData c)) =
      s.csWritten (csTarget c v) (s.csData c) :=
    State.releaseStarts_none _ fun e he => by rw [State.csWritten_eng, hheld e he]
  simp only [State.csWriteNow, hfree, Bool.false_eq_true, if_false]
  exact hstarts

theorem State.csWriteNow_busy (port : Nat) {v : Word} (hbusy : s.csBusy c v = true) :
    s.csWriteNow port c v = s.csRefuse port c (if csStore v < 4 then 4 * c + csStore v else c) := by
  rw [State.csWriteNow, hbusy]
  rfl

/-- The ROM is never written, nor a store in use by a run (R211). -/
theorem State.csBusy_of {v : Word} (h : csStore v = 5 ∨ (csStore v < 4 ∧ (s.eng (4 * c + csStore v)).run.isSome = true) ∨
    (csStore v = 4 ∧ ∃ e ∈ clEngines c, (s.eng e).run.isSome = true)) : s.csBusy c v = true := by
  unfold State.csBusy
  obtain h5 | ⟨hlt, hrun⟩ | ⟨h4, hany⟩ := h
  · rw [if_neg (by omega), if_neg (by omega)]
  · rw [if_pos hlt, hrun]
  · rw [if_neg (by omega), if_pos h4]
    exact List.any_eq_true.mpr hany

/-- A field that is set and a violation that is logged leave the stores and the engines as they were. -/
theorem State.setFld_violation_stores (a : Nat) (f : Fld) (n cause port pkg inst addr : Nat) :
    ((s.setFld a f n).violation cause port pkg inst addr).stores = s.stores ∧
    ((s.setFld a f n).violation cause port pkg inst addr).storePoison = s.storePoison ∧
    ((s.setFld a f n).violation cause port pkg inst addr).engines = s.engines := by
  have hrest := (State.violation_portsOnly (s.setFld a f n) cause port pkg inst addr).rest
  have hstores := congrArg State.stores hrest
  have hpoison := congrArg State.storePoison hrest
  have hengines := congrArg State.engines hrest
  exact ⟨hstores, hpoison, hengines⟩

/-- A refused access: REFUSED reads 1 and the stores and the engines are as they were (R211). -/
theorem State.csRefuse_refuses (port inst : Nat) (hc : c < 64) : (s.csRefuse port c inst).fld (ENG_CS_CMD c) ENG_CS_CMD_REFUSED = 1 ∧
    (s.csRefuse port c inst).stores = s.stores ∧ (s.csRefuse port c inst).storePoison = s.storePoison ∧
    (s.csRefuse port c inst).engines = s.engines := by
  have hbelow : ENG_CS_CMD c < hubBlk 4 := by unfold ENG_CS_CMD clBlk hubBlk; omega
  rw [State.csRefuse]
  refine ⟨?_, s.setFld_violation_stores _ _ _ _ _ _ _ _⟩
  rw [State.violation_fld _ _ _ _ _ _ _ _ (.inl hbelow)]
  exact State.setFld_fld _ _ _ _ (by decide) (by decide)

end

/-! ENG_CS_CMD (R211). -/

theorem csGo_of {v : Word} (wr : Bool) (hgo : getF v ENG_CS_CMD_GO = 1) (hwr : getF v ENG_CS_CMD_WR = if wr then 1 else 0)
    (hst : csStore v < 6) : csGo v wr = true := by
  simp only [csGo, hgo, hwr, hst, beq_self_eq_true, decide_true, Bool.and_self]

section

variable (port : PortNo) (c : ClNo) (v : Word) (s : State) (hr : s.reaches (ENG_CS_CMD c.val)) (hgo : getF v ENG_CS_CMD_GO = 1)
include hr hgo

theorem exec_csRead (hwr : getF v ENG_CS_CMD_WR = 0) (hst : csStore v < 6) :
    exec (.csRead port c v []) s = .next (s.putCsData c.val (s.csAnswer c.val v)) := by
  have hexec : exec (.csRead port c v []) s = .next (if csGo v false then s.csReadNow c.val v [] else s) :=
    congrArg Host.Outcome.next (s.reach_open port.val _ (fun s => if csGo v false then s.csReadNow c.val v [] else s) hr.1 hr.2)
  rw [hexec, if_pos (csGo_of false hgo hwr hst), State.csReadNow_eq]

theorem exec_csWrite (hwr : getF v ENG_CS_CMD_WR = 1) (hst : csStore v < 6) :
    exec (.csWrite port c v) s = .next (s.csWriteNow port.val c.val v) := by
  have hexec : exec (.csWrite port c v) s = .next (if csGo v true then s.csWriteNow port.val c.val v else s) :=
    congrArg Host.Outcome.next (s.reach_open port.val _ (fun s => if csGo v true then s.csWriteNow port.val c.val v else s) hr.1 hr.2)
  rw [hexec, if_pos (csGo_of true hgo hwr hst)]

theorem exec_csStoreRefused (hst : 6 ≤ csStore v) :
    exec (.csStoreRefused port c v) s = .next (s.csRefuse port.val c.val c.val) := by
  have hexec : exec (.csStoreRefused port c v) s =
      .next (if getF v ENG_CS_CMD_GO = 1 ∧ 6 ≤ csStore v then s.csRefuse port.val c.val c.val else s) :=
    congrArg Host.Outcome.next (s.reach_open port.val _
      (fun s => if getF v ENG_CS_CMD_GO = 1 ∧ 6 ≤ csStore v then s.csRefuse port.val c.val c.val else s) hr.1 hr.2)
  rw [hexec, if_pos ⟨hgo, hst⟩]

end

/-! Patch match registers and shares of HBM (R213, R227, R233). -/

/-- The row of the patch match registers. -/
def engPmRow : RegRow := ⟨0x30000, [(4, 64)], 0, 0x807fffff, 0, 0, 0, 0⟩

theorem regRow_engPm (c : ClNo) (n : Fin 64) : regRow (ENG_PM c.val n.val) = some engPmRow := by
  have hrow : ∀ k : Fin 64, (regRows 0 7).find? (fun x => x.hit (0x30000 + k.val * 4)) = some engPmRow := by decide
  rw [regRow, ENG_PM, Nat.add_assoc, regLoc_clBlk c.isLt (by decide) (by omega)]
  exact hrow n

/-- The row of the shares of HBM. -/
def hbmShareRow : RegRow := ⟨0x80000, [], 0x604036, 0xffffff, 0, 0, 0, 0⟩

theorem regLoc_rgBlk {r blk o : Nat} (hr : r < 8) (hb : blk < 16) (ho : o < 0x100000) :
    regLoc (rgBlk r blk + o) = some ⟨1, r, blk, o⟩ := by
  unfold regLoc rgBlk
  rw [if_neg (by omega), if_pos (by omega)]
  simp only [Option.some.injEq, RegLoc.mk.injEq, true_and]
  omega

theorem regRow_hbmShare (r : RgNo) : regRow (MEM_HBM_SHARE r.val) = some hbmShareRow := by
  have hrow : (regRows 1 2).find? (fun x => x.hit 0x80000) = some hbmShareRow := by decide
  rw [regRow, MEM_HBM_SHARE, regLoc_rgBlk r.isLt (by decide) (by decide)]
  exact hrow

section

variable (s : State) (v : Word)

theorem State.partnerWrite_engPm (c : ClNo) (n : Fin 64) :
    (s.partnerWrite (ENG_PM c.val n.val) v 15).fld (ENG_PM c.val n.val) ENG_PM_EN = getF v ENG_PM_EN ∧
    (s.partnerWrite (ENG_PM c.val n.val) v 15).fld (ENG_PM c.val n.val) ENG_PM_ROM_ADDR = getF v ENG_PM_ROM_ADDR ∧
    (s.partnerWrite (ENG_PM c.val n.val) v 15).fld (ENG_PM c.val n.val) ENG_PM_PATCH_ADDR = getF v ENG_PM_PATCH_ADDR :=
  have hrow := regRow_engPm c n
  ⟨s.partnerWrite_fld hrow v 15 (by decide) (by decide), s.partnerWrite_fld hrow v 15 (by decide) (by decide),
    s.partnerWrite_fld hrow v 15 (by decide) (by decide)⟩

theorem State.partnerWrite_hbmShare (r : RgNo) :
    (s.partnerWrite (MEM_HBM_SHARE r.val) v 15).fld (MEM_HBM_SHARE r.val) MEM_HBM_SHARE_VEC = getF v MEM_HBM_SHARE_VEC ∧
    (s.partnerWrite (MEM_HBM_SHARE r.val) v 15).fld (MEM_HBM_SHARE r.val) MEM_HBM_SHARE_FAIL = getF v MEM_HBM_SHARE_FAIL ∧
    (s.partnerWrite (MEM_HBM_SHARE r.val) v 15).fld (MEM_HBM_SHARE r.val) MEM_HBM_SHARE_ACQ = getF v MEM_HBM_SHARE_ACQ :=
  have hrow := regRow_hbmShare r
  ⟨s.partnerWrite_fld hrow v 15 (by decide) (by decide), s.partnerWrite_fld hrow v 15 (by decide) (by decide),
    s.partnerWrite_fld hrow v 15 (by decide) (by decide)⟩

/-- A write of a patch match register, by whether an engine of the cluster runs (R213). -/
def State.engPm (s : State) (port : PortNo) (c : ClNo) (n : Fin 64) (v : Word) : State :=
  if (clEngines c.val).any (fun e => (s.eng e).run.isSome) then s.violation 0x01 port.val 0 c.val (ENG_PM c.val n.val)
  else s.partnerWrite (ENG_PM c.val n.val) v 15

theorem exec_engPmWrite (port : PortNo) (c : ClNo) (n : Fin 64) (hr : s.reaches (ENG_PM c.val n.val)) :
    exec (.engPmWrite port c n v) s = .next (s.engPm port c n v) :=
  congrArg Host.Outcome.next (s.reach_open port.val _ (fun s => s.engPm port c n v) hr.1 hr.2)

/-- A write of a region's shares, by whether they exceed 240 together (R227, R233). -/
def State.hbmShare (s : State) (port : PortNo) (r : RgNo) (v : Word) : State :=
  let t := s.partnerWrite (MEM_HBM_SHARE r.val) v 15
  if 240 < t.fld (MEM_HBM_SHARE r.val) MEM_HBM_SHARE_VEC + t.fld (MEM_HBM_SHARE r.val) MEM_HBM_SHARE_FAIL +
    t.fld (MEM_HBM_SHARE r.val) MEM_HBM_SHARE_ACQ then s.violation 0x01 port.val 0 r.val (MEM_HBM_SHARE r.val)
  else t

theorem exec_hbmShareWrite (port : PortNo) (r : RgNo) (hr : s.reaches (MEM_HBM_SHARE r.val)) :
    exec (.hbmShareWrite port r v 15) s = .next (s.hbmShare port r v) :=
  congrArg Host.Outcome.next (s.reach_open port.val _ (fun s => s.hbmShare port r v) hr.1 hr.2)

theorem State.hbmShare_eq (port : PortNo) (r : RgNo) : s.hbmShare port r v =
    if 240 < getF v MEM_HBM_SHARE_VEC + getF v MEM_HBM_SHARE_FAIL + getF v MEM_HBM_SHARE_ACQ then
      s.violation 0x01 port.val 0 r.val (MEM_HBM_SHARE r.val)
    else s.partnerWrite (MEM_HBM_SHARE r.val) v 15 := by
  obtain ⟨hvec, hfail, hacq⟩ := s.partnerWrite_hbmShare v r
  rw [State.hbmShare, hvec, hfail, hacq]

end

/-- Settles O34: an access of a store is a read, a write or a refusal by the store that it names and by what runs; a patch match register
and a region's shares are plain registers behind one guard each. -/
theorem storesPatchesAndShares : Obligations.StoresPatchesAndShares := by
  unfold Obligations.StoresPatchesAndShares
  refine ⟨fun port c v s hr hgo => ⟨fun hwr hst => ?_, fun hwr hst hfree hheld => ?_, fun hwr hst hbusy => ?_, fun hst => ?_⟩,
    fun port c n r v s => ⟨fun hr hidle => ?_, fun hr hrun => ?_, fun hr => ⟨fun hfit => ?_, fun hover => ?_⟩⟩⟩
  · exact ⟨_, exec_csRead port c v s hr hgo hwr hst, fun k hk => s.putCsData_reg c.val _ hk, s.putCsData_frame c.val _,
      s.putCsData_regsKept c.val _⟩
  · refine ⟨s.csWritten (csTarget c.val v) (s.csData c.val), ?_, s.csWritten_storeWord _ _, s.csWritten_storeBad _ _,
      fun a ha => s.csWritten_others _ ha, s.csWritten_frame _ _⟩
    rw [exec_csWrite port c v s hr hgo hwr (by omega), s.csWriteNow_free c.val port.val hfree hheld]
  · refine ⟨_, ?_, s.csRefuse_refuses c.val port.val (if csStore v < 4 then 4 * c.val + csStore v else c.val) c.isLt⟩
    rw [exec_csWrite port c v s hr hgo hwr hst, s.csWriteNow_busy c.val port.val (s.csBusy_of c.val hbusy)]
  · exact ⟨_, exec_csStoreRefused port c v s hr hgo hst, s.csRefuse_refuses c.val port.val c.val c.isLt⟩
  · obtain ⟨hen, hrom, hpatch⟩ := s.partnerWrite_engPm v c n
    refine ⟨_, ?_, hen, hrom, hpatch, s.partnerWrite_frame (regRow_engPm c n) v 15, s.partnerWrite_regsKept _ v 15⟩
    rw [exec_engPmWrite s v port c n hr, State.engPm, if_neg]
    simpa using hidle
  · rw [exec_engPmWrite s v port c n hr, State.engPm, if_pos]
    simpa [Option.isSome_iff_ne_none] using hrun
  · obtain ⟨hvec, hfail, hacq⟩ := s.partnerWrite_hbmShare v r
    refine ⟨_, ?_, hvec, hfail, hacq, s.partnerWrite_frame (regRow_hbmShare r) v 15, s.partnerWrite_regsKept _ v 15⟩
    rw [exec_hbmShareWrite s v port r hr, State.hbmShare_eq, if_neg (by omega)]
  · rw [exec_hbmShareWrite s v port r hr, State.hbmShare_eq, if_pos hover]

end Sys2Proof.Machine
end

section
namespace Sys2Proof.Machine

/-! A decode lane of an engine is written (R195, R220). -/

section

variable (s : State) (e : Nat) (lane : Lane) (d : Decoder)

theorem EngSt.decoder_withCopyNo (x : EngSt) (n : Nat) : ({ x with copyNo := n } : EngSt).decoder lane = x.decoder lane := by
  cases lane <;> rfl

@[simp] theorem State.setDecoder_decoder : ((s.setDecoder e lane d).eng e).decoder lane = d := by
  rw [State.setDecoder, State.updEng_eng]
  cases lane <;> rfl

@[simp] theorem State.setDecoder_copyNo : ((s.setDecoder e lane d).eng e).copyNo = (s.eng e).copyNo := by
  rw [State.setDecoder, State.updEng_eng]
  cases lane <;> rfl

theorem State.setDecoder_eng_ne {k : Nat} (hk : k ≠ e) : (s.setDecoder e lane d).eng k = s.eng k := State.updEng_eng_ne _ _ _ _ hk

theorem State.setDecoder_reg (a : Nat) : (s.setDecoder e lane d).reg a = s.reg a := State.updEng_reg ..

theorem State.setDecoder_fld (a : Nat) (f : Fld) : (s.setDecoder e lane d).fld a f = s.fld a f := State.updEng_fld ..

/-- A write of a lane leaves the other engines and whatever is no engine. -/
theorem State.setDecoder_frame : s.setDecoder e lane d = { s with engines := (s.setDecoder e lane d).engines } ∧
    ∀ k, k ≠ e → (s.setDecoder e lane d).eng k = s.eng k := ⟨rfl, fun _ hk => s.setDecoder_eng_ne e lane d hk⟩

end

/-! Reads of the stream and of its leaf table do not depend on the line count of a cluster (R53, R349, R487). -/

section

variable (s : State)

theorem State.withRegs_loadLines (r : Tbl Word) (k : Nat) : ∀ a n, ({ s with regs := r } : State).loadLines a n k = s.loadLines a n k := by
  induction k with
  | zero => exact fun _ _ => rfl
  | succ k ih =>
    intro a n
    rw [State.loadLines, State.loadLines]
    dsimp only
    rw [ih]
    rfl

theorem State.withRegs_takeEntry (r : Tbl Word) (d : Decoder) : ({ s with regs := r } : State).takeEntry d = s.takeEntry d := by
  have hentry : ({ s with regs := r } : State).leAt d.entryAddr 8 = s.leAt d.entryAddr 8 :=
    congrArg ofLe (s.withRegs_loadLines r _ d.entryAddr 8)
  rw [State.takeEntry, State.takeEntry, hentry]

/-- A register that decides whether memory can be read is that of a region's repair or that of the packages present. -/
theorem State.setFld_readOk {x : Nat} (f : Fld) (v a n : Nat) (hrepair : ∀ r, MEM_PPR_STAT r ≠ x) (hids : VYN_IDS ≠ x) :
    (s.setFld x f v).readOk a n = s.readOk a n := by
  have hbus (m : Nat) : (s.setFld x f v).busErrorAt m = s.busErrorAt m := by
    have hbusy (r : Nat) : (s.setFld x f v).bit (MEM_PPR_STAT r) MEM_PPR_STAT_BUSY = s.bit (MEM_PPR_STAT r) MEM_PPR_STAT_BUSY :=
      s.setFld_bit_ne x f v _ _ (hrepair r)
    have hthere (h : Nat) : (s.setFld x f v).present h = s.present h := by
      rw [State.present, State.present, State.fbit, State.fbit, s.setFld_fld_ne x f v _ _ hids]
    have hcap (y : Nat) : (s.setFld x f v).expCapOf y = s.expCapOf y := rfl
    simp only [State.busErrorAt, State.setFld_fencedAt, hbusy, hthere, hcap]
  simp only [State.readOk, State.readErrorAt, hbus, State.setFld_cline]

theorem memPprStat_ne_vnrLines (r c : Nat) : MEM_PPR_STAT r ≠ VNR_LINES c := by
  simp only [MEM_PPR_STAT, VNR_LINES, rgBlk, clBlk]
  omega

theorem vynIds_ne_vnrLines (c : Nat) : VYN_IDS ≠ VNR_LINES c := by
  simp only [VYN_IDS, VNR_LINES, clBlk]
  omega

/-- A fetched line is counted (Table 7-4). -/
def State.lineCounted (e : Nat) : State := s.countSat (VNR_LINES (engCl e)) VNR_LINES_LINES 1

theorem State.lineCounted_readOk (e a n : Nat) : (s.lineCounted e).readOk a n = s.readOk a n :=
  s.setFld_readOk _ _ a n (fun r => memPprStat_ne_vnrLines r _) (vynIds_ne_vnrLines _)

theorem State.lineCounted_takeEntry (e : Nat) (d : Decoder) : (s.lineCounted e).takeEntry d = s.takeEntry d := s.withRegs_takeEntry _ d

theorem State.lineCounted_lines (e : Nat) : (s.lineCounted e).fld (VNR_LINES (engCl e)) VNR_LINES_LINES =
    satAdd VNR_LINES_LINES.width (s.fld (VNR_LINES (engCl e)) VNR_LINES_LINES) 1 := s.countSat_fld _ _ 1 (by decide) (by decide)

theorem State.lineCounted_frame (e : Nat) (lane : Lane) (d : Decoder) : (s.lineCounted e).setDecoder e lane d = { s with
    regs := ((s.lineCounted e).setDecoder e lane d).regs, engines := ((s.lineCounted e).setDecoder e lane d).engines } := by
  obtain ⟨r, hr⟩ := s.countSat_frame (VNR_LINES (engCl e)) VNR_LINES_LINES 1
  rw [State.lineCounted, hr]
  rfl

theorem State.lineCounted_regsKept (e : Nat) : s.regsKept (s.lineCounted e) [VNR_LINES (engCl e)] :=
  s.setFld_regsKept _ _ (List.mem_singleton_self _)

end

/-! The three commands of a decoder (R216, R217, R220, R221). -/

section

variable {s : State} {e : EngNo} {lane : Lane}

/-- A lane that begins anew from VADDR v: the leaf of v, with no byte of the stream read yet (R220). -/
def EngSt.restarted (x : EngSt) (lane : Lane) (v : Nat) : Decoder :=
  { active := true, table := x.stream.table, leaves := x.stream.leaves, leaf := v / 4096, from_ := v, filled := (x.decoder lane).filled }

/-- A lane within its stream that has fetched no line waits for its leaf table entry. -/
theorem State.takeEntry_of_unread (d : Decoder) (hleaf : d.leaf < d.leaves) (hlines : d.lines = []) (hbad : d.badLines = []) :
    s.takeEntry d = d := by
  rw [State.takeEntry, hlines, hbad, if_neg (Nat.not_le.mpr hleaf)]
  simp

theorem Decoder.fail_of_unfailed (d : Decoder) (hfault : d.fault = none) (v : Nat) (f : DecoderFault) :
    d.fail v f = { d with fault := some (max v d.from_, f) } := by rw [Decoder.fail, hfault]

theorem Decoder.find?_missing (d : Decoder) {l : List Nat} (hall : ∀ k ∈ l, k ∈ d.lines) :
    l.find? (fun k => !d.lines.contains k) = none := List.find?_eq_none.mpr (by simpa using hall)

theorem exec_decoderRestart {v : Nat} (hdec : s.decodes e.val = true) (hv : v / 4096 < (s.eng e.val).stream.leaves) :
    exec (.decoderRestart e lane v) s = .next (s.setDecoder e.val lane ((s.eng e.val).restarted lane v)) := by
  change execDecoderRestart e lane v s = _
  rw [execDecoderRestart, if_pos hdec]
  exact congrArg (fun d => Host.Outcome.next (s.setDecoder e.val lane d))
    (State.takeEntry_of_unread ((s.eng e.val).restarted lane v) hv rfl rfl)

variable {d : Decoder} (hdec : s.decodes e.val = true) (hd : (s.eng e.val).decoder lane = d) (hact : d.active = true)
include hdec hd hact

/-- A line that can be read, and in which error correction finds nothing, is taken in (R220, R335). Only its number is kept, and no
byte of memory changes (log entry 43). -/
theorem exec_vectorLineFetch_good {addr : Nat} (hwants : d.wants (addr / 64) = true) (hnew : addr / 64 ∉ d.lines)
    (hgood : addr / 64 ∉ d.badLines) (hok : s.readOk (64 * (addr / 64)) 64 = true) (hclean : s.poisoned (64 * (addr / 64)) = false) :
    exec (.vectorLineFetch e lane addr []) s =
      .next ((s.lineCounted e.val).setDecoder e.val lane (s.takeEntry { d with lines := addr / 64 :: d.lines })) := by
  have hgo : d.active ∧ s.decodes e.val = true ∧ d.wants (addr / 64) ∧ ¬ d.lines.contains (addr / 64) ∧
      ¬ d.badLines.contains (addr / 64) :=
    ⟨hact, hdec, hwants, by simpa using hnew, by simpa using hgood⟩
  have hread : ¬ (!(s.lineCounted e.val).readOk (64 * (addr / 64)) 64) = true := by simp [State.lineCounted_readOk, hok]
  have hpure : ¬ (s.lineCounted e.val).poisoned (64 * (addr / 64)) = true := by simp [State.lineCounted, hclean]
  change execVectorLineFetch e lane addr [] s = _
  rw [execVectorLineFetch, hd]
  refine (if_pos hgo).trans ((if_neg hread).trans ((if_neg hpure).trans ?_))
  exact congrArg (fun x => Host.Outcome.next ((s.lineCounted e.val).setDecoder e.val lane x)) (s.lineCounted_takeEntry e.val _)

variable (hfault : d.fault = none) {a : Nat} (haddr : d.addr = some a)
include hfault haddr

theorem exec_frameDecode_got {fs : List SymFrame} {n : Nat}
    (hparse : parseFrame d.prevFrame d.frame (s.eng e.val).copyNo (s.bytesAt a 1029) = .got fs n)
    (hall : ∀ k ∈ linesOf a n, k ∈ d.lines) (hin : d.frame + fs.length < 64) :
    exec (.frameDecode e lane) s = .next ((s.setDecoder e.val lane { d with
      frames := d.frames ++ numberFrames (64 * d.leaf + d.frame) fs, prevFrame := fs.getLastD {}, frame := d.frame + fs.length,
      addr := some (a + n) }).updEng e.val (fun x => { x with copyNo := x.copyNo + 1 })) := by
  have hgo : d.active ∧ d.fault = none ∧ s.decodes e.val = true := ⟨hact, hfault, hdec⟩
  change execFrameDecode e lane s = _
  simp only [execFrameDecode, hd, haddr, if_pos hgo, hparse, d.find?_missing hall, if_neg (Nat.not_le.mpr hin)]

theorem exec_frameDecode_malformed {n : Nat}
    (hparse : parseFrame d.prevFrame d.frame (s.eng e.val).copyNo (s.bytesAt a 1029) = .malformed n)
    (hall : ∀ k ∈ linesOf a n, k ∈ d.lines) :
    exec (.frameDecode e lane) s = .next (s.setDecoder e.val lane
      { d with fault := some (max (64 * (64 * d.leaf + d.frame)) d.from_, .stream a) }) := by
  have hgo : d.active ∧ d.fault = none ∧ s.decodes e.val = true := ⟨hact, hfault, hdec⟩
  change execFrameDecode e lane s = _
  simp only [execFrameDecode, hd, haddr, if_pos hgo, hparse, d.find?_missing hall, d.fail_of_unfailed hfault]

end

/-- Settles O18: each command writes the lane of its engine, and a fetch counts its line before. -/
theorem decodersFollowTheStream : Obligations.DecodersFollowTheStream := by
  unfold Obligations.DecodersFollowTheStream
  intro e lane v addr s hdec
  refine ⟨fun hv => ?_, fun d hd hact hwants hnew hgood hok hclean => ?_,
    fun d a fs n hd hact hfault haddr hparse hall hin => ?_, fun d a n hd hact hfault haddr hparse hall => ?_⟩
  · exact ⟨_, exec_decoderRestart hdec hv, s.setDecoder_decoder .., s.setDecoder_frame ..⟩
  · exact ⟨_, exec_vectorLineFetch_good hdec hd hact hwants hnew hgood hok hclean, State.setDecoder_decoder ..,
      (State.setDecoder_fld ..).trans (s.lineCounted_lines e.val), s.lineCounted_frame ..,
      fun k hk => (State.setDecoder_reg ..).trans (s.lineCounted_regsKept e.val k hk)⟩
  · refine ⟨_, exec_frameDecode_got hdec hd hact hfault haddr hparse hall hin, ?_, ?_, rfl, fun k hk => ?_⟩
    · rw [State.updEng_eng, EngSt.decoder_withCopyNo, State.setDecoder_decoder]
    · rw [State.updEng_eng, State.setDecoder_copyNo]
    · rw [State.updEng_eng_ne _ _ _ _ hk, s.setDecoder_eng_ne e.val lane _ hk]
  · exact ⟨_, exec_frameDecode_malformed hdec hd hact hfault haddr hparse hall, s.setDecoder_decoder .., s.setDecoder_frame ..⟩

end Sys2Proof.Machine
end

section
namespace Sys2Proof.Machine

/-! Where a record lies, and what a device write of one leaves (R50, R244). -/

theorem length_leBytes (k v : Nat) : (leBytes k v).length = k := by
  induction k generalizing v with
  | zero => rfl
  | succ k ih => rw [leBytes, List.length_cons, ih]

theorem recordAddr_mod {c i j : Nat} (h : i % 65536 = j % 65536) : recordAddr c i = recordAddr c j := by
  rw [recordAddr, recordAddr, h]

/-- Two records in different places of the buffer share no byte. -/
theorem recordAddr_apart {c i j : Nat} (h : i % 65536 ≠ j % 65536) {k : Nat} (hk : k < 16) :
    recordAddr c i + k < recordAddr c j ∨ recordAddr c j + 16 ≤ recordAddr c i + k := by
  unfold recordAddr
  omega

theorem addrKind_recordAddr {c : Nat} (hc : c < 64) (i : Nat) : addrKind (recordAddr c i) = .scratch c := by
  have hlow : 0x30000000000 + c * 0x400000 + 0x300000 ≤ recordAddr c i := Nat.le_add_right ..
  have hhigh : recordAddr c i < 0x30000000000 + c * 0x400000 + 0x400000 := by unfold recordAddr; omega
  unfold addrKind
  rw [if_neg (by omega), if_neg (by omega), if_pos (by omega)]
  exact congrArg AddrKind.scratch (by omega)

theorem isFlow_recordAddr {c : Nat} (hc : c < 64) (i : Nat) : isFlow (recordAddr c i) = false := by
  rw [isFlow, addrKind_recordAddr hc]

section

variable (s : State)

/-- The fail capture buffer lies above the segment store of its cluster. -/
theorem State.segTouch_recordAddr {c : Nat} (hc : c < 64) (i : Nat) (l : List Byte) : s.segTouch (recordAddr c i) l = s := by
  rw [State.segTouch, addrKind_recordAddr hc]
  refine if_neg fun h => ?_
  have := h.1
  unfold recordAddr segAddr at this
  omega

theorem State.store_recordAddr {c : Nat} (hc : c < 64) (i : Nat) (l : List Byte) :
    s.store (recordAddr c i) l = (s.putBytes (recordAddr c i) l).unpoison (recordAddr c i) l.length := by
  have hdict : inDictionary (recordAddr c i) = false := by
    rw [inDictionary, addrKind_recordAddr hc]
    unfold recordAddr
    simp only [Bool.and_eq_false_imp, decide_eq_true_eq, decide_eq_false_iff_not]
    omega
  rw [State.store, hdict, isFlow_recordAddr hc]
  rfl

theorem State.unpoison_frame (a n : Nat) : s.unpoison a n = { s with poison := (s.unpoison a n).poison } :=
  foldl_rel (fun t u => u = { t with poison := u.poison }) (fun _ => rfl) (fun t u v h k => by rw [h] at k; exact k) _
    (fun t k => by split <;> rfl) _ s

theorem State.store_recordAddr_frame {c : Nat} (hc : c < 64) (i : Nat) (l : List Byte) :
    s.store (recordAddr c i) l =
      { s with mem := (s.store (recordAddr c i) l).mem, poison := (s.store (recordAddr c i) l).poison } := by
  rw [s.store_recordAddr hc, State.unpoison_frame, State.putBytes, s.segTouch_recordAddr hc]

theorem State.store_recordAddr_byteAt {c : Nat} (hc : c < 64) (i : Nat) (l : List Byte) {k : Nat} (hk : k < l.length) :
    (s.store (recordAddr c i) l).byteAt (recordAddr c i + k) = l.getD k 0 := by
  rw [s.store_recordAddr hc, State.unpoison_byteAt, State.byteAt, State.putBytes_mem, tget_tputs _ l 0, if_pos (by omega),
    Nat.add_sub_cancel_left]

end

end Sys2Proof.Machine
end

section
namespace Sys2Proof.Machine

/-! Records move from the crossing queue into the buffer (R244, R245). -/

/-- From s to t the first n records of a cluster's crossing queue have moved into its buffer, and nothing else has changed. -/
structure RecordsMoved (c n : Nat) (s t : State) : Prop where
  count : n ≤ (s.cl c).scr.queue.length
  wptr : t.reg (SCR_WPTR c) = s.reg (SCR_WPTR c) + BitVec.ofNat 32 n
  regs : s.regsKept t [SCR_WPTR c]
  scr : (t.cl c).scr = { (s.cl c).scr with queue := (s.cl c).scr.queue.drop n }
  others : ∀ k, k ≠ c → t.cl k = s.cl k
  frame : t = { s with regs := t.regs, clusters := t.clusters, mem := t.mem, poison := t.poison }
  written : ∀ i r, i < n → (s.cl c).scr.queue[i]? = some r → ∀ k, k < 16 →
    t.byteAt (recordAddr c ((s.reg (SCR_WPTR c)).toNat + i) + k) = (leBytes 16 r.bits.toNat).getD k 0
  kept : ∀ a, (∀ i, i < n → a < recordAddr c ((s.reg (SCR_WPTR c)).toNat + i) ∨
    recordAddr c ((s.reg (SCR_WPTR c)).toNat + i) + 16 ≤ a) → t.byteAt a = s.byteAt a

/-- The first record of the queue, with those after it, moves into the buffer. -/
def State.moveRecord (s : State) (c : Nat) (r : QueuedRecord) (q : List QueuedRecord) : State :=
  (s.updScr c (fun x => { x with queue := q })).scribeWriteOne c r

namespace RecordsMoved

variable {c n : Nat} {s t u : State}

theorem refl (c : Nat) (s : State) : RecordsMoved c 0 s s where
  count := Nat.zero_le _
  wptr := (BitVec.add_zero _).symm
  regs _ _ := rfl
  scr := rfl
  others _ _ := rfl
  frame := rfl
  written i _ hi := absurd hi (Nat.not_lt_zero i)
  kept _ _ := rfl

/-- The place after n records more is n places on, whether or not the pointer has wrapped (R244). -/
theorem recordAddr_wptr (h : RecordsMoved c n s t) (i : Nat) :
    recordAddr c ((t.reg (SCR_WPTR c)).toNat + i) = recordAddr c ((s.reg (SCR_WPTR c)).toNat + (n + i)) := by
  refine recordAddr_mod ?_
  rw [h.wptr, BitVec.toNat_add, BitVec.toNat_ofNat]
  omega

/-- One record moves, then n that find other places. -/
theorem cons (h : RecordsMoved c 1 s t) (k : RecordsMoved c n t u) (hn : n < 65536) : RecordsMoved c (n + 1) s u where
  count := by
    have hlen := k.count
    have hone := h.count
    rw [h.scr, List.length_drop] at hlen
    omega
  wptr := by rw [k.wptr, h.wptr, BitVec.add_assoc, ← BitVec.ofNat_add, Nat.add_comm]
  regs := State.regsKept_trans h.regs k.regs
  scr := by rw [k.scr, h.scr, List.drop_drop, Nat.add_comm]
  others j hj := (k.others j hj).trans (h.others j hj)
  frame := by
    have hu := k.frame
    rw [h.frame] at hu
    exact hu
  written i r hi hr j hj := by
    cases i with
    | zero =>
      rw [k.kept _ fun m hm => ?_, h.written 0 r Nat.one_pos hr j hj]
      rw [h.recordAddr_wptr]
      exact recordAddr_apart (by omega) hj
    | succ i =>
      have hq : (t.cl c).scr.queue[i]? = some r := by rw [h.scr, List.getElem?_drop, Nat.add_comm 1 i, hr]
      have hbyte := k.written i r (by omega) hq j hj
      rwa [h.recordAddr_wptr, Nat.add_comm 1 i] at hbyte
  kept a ha := by
    rw [k.kept a fun i hi => ?_, h.kept a fun i hi => ha i (by omega)]
    rw [h.recordAddr_wptr, Nat.add_comm 1 i]
    exact ha (i + 1) (by omega)

/-- The buffer of a cluster holds n records more. -/
theorem scrHeld (h : RecordsMoved c n s t) : t.scrHeld c = (s.scrHeld c + n) % 2 ^ 32 := by
  have hr : t.reg (SCR_RPTR c) = s.reg (SCR_RPTR c) := h.regs _ (by simp [SCR_RPTR, SCR_WPTR])
  rw [State.scrHeld, State.scrHeld, h.wptr, hr]
  simp only [BitVec.toNat_sub, BitVec.toNat_add, BitVec.toNat_ofNat]
  omega

/-- No pin has changed, and so no window of one (R242). -/
theorem countBefore (h : RecordsMoved c n s t) (r : QueuedRecord) : t.countBefore c r = s.countBefore c r := by
  rw [h.frame]
  rfl

end RecordsMoved

section

variable (s : State) {c : Nat} {r : QueuedRecord} {q : List QueuedRecord}

theorem State.setReg_byteAt (a : Nat) (w : Word) (m : Nat) : (s.setReg a w).byteAt m = s.byteAt m := by rfl

theorem State.updScr_byteAt (k : Nat) (f : Scribe → Scribe) (m : Nat) : (s.updScr k f).byteAt m = s.byteAt m := by rfl

theorem State.moveRecord_eq : s.moveRecord c r q =
    ((s.updScr c (fun x => { x with queue := q })).store (recordAddr c (s.reg (SCR_WPTR c)).toNat) (leBytes 16 r.bits.toNat)).setReg
      (SCR_WPTR c) (s.reg (SCR_WPTR c) + 1) := by
  rfl

/-- A frame for any address and cluster: with those of Scribe written out the kernel would compute with them. -/
theorem State.frame_of_updScr_setReg (f : Scribe → Scribe) (a : Nat) (w : Word) {u t : State}
    (hu : u = { s.updScr c f with mem := u.mem, poison := u.poison }) (ht : t = u.setReg a w) :
    t = { s with regs := t.regs, clusters := t.clusters, mem := t.mem, poison := t.poison } := by
  rw [ht, hu]
  rfl

theorem State.moveRecord_recordsMoved (hc : c < 64) (hq : (s.cl c).scr.queue = r :: q) : RecordsMoved c 1 s (s.moveRecord c r q) where
  count := by rw [hq, List.length_cons]; omega
  wptr := by
    rw [State.moveRecord_eq, State.setReg_reg]
    rfl
  regs a ha := by
    rw [State.moveRecord_eq, State.setReg_reg_ne _ _ _ _ (by simpa using ha), State.store_reg, State.updScr, State.updCl_reg]
  scr := by rw [State.moveRecord_eq, State.setReg_cl, State.store_cl, State.updScr, State.updCl_cl, hq, List.drop_one, List.tail_cons]
  others k hk := by rw [State.moveRecord_eq, State.setReg_cl, State.store_cl, State.updScr, State.updCl_cl_ne _ _ _ _ hk]
  frame := s.frame_of_updScr_setReg _ _ _ (State.store_recordAddr_frame _ hc _ _) s.moveRecord_eq
  written i x hi hx k hk := by
    obtain rfl : i = 0 := by omega
    obtain rfl : r = x := by simpa [hq] using hx
    rw [State.moveRecord_eq, State.setReg_byteAt, Nat.add_zero]
    exact State.store_recordAddr_byteAt _ hc _ _ (by rwa [length_leBytes])
  kept a ha := by
    have haway := ha 0 Nat.one_pos
    rw [Nat.add_zero] at haway
    rw [State.moveRecord_eq, State.setReg_byteAt,
      State.store_byteAt_outside _ (isFlow_recordAddr hc _) (by rwa [length_leBytes]), State.updScr_byteAt]

/-- Up to m records move, and none stays that has room and no COUNT record before it (R242, R244, R245). -/
theorem State.scribeMove_recordsMoved (hc : c < 64) (m : Nat) (hm : m ≤ 65536) : ∃ n, n ≤ m ∧ RecordsMoved c n s (s.scribeMove c m) ∧
    (n = m ∨ n = (s.cl c).scr.queue.length ∨ 65536 ≤ s.scrHeld c + n ∨
      ∃ r l, (s.cl c).scr.queue.drop n = r :: l ∧ s.countBefore c r = true) := by
  induction m generalizing s with
  | zero => exact ⟨0, Nat.le_refl _, RecordsMoved.refl c s, .inl rfl⟩
  | succ m ih =>
    rw [State.scribeMove]
    split
    · next hq => exact ⟨0, Nat.zero_le _, RecordsMoved.refl c s, .inr (.inl (by rw [hq]; rfl))⟩
    · next r q hq =>
      by_cases hgo : s.scrHeld c < 65536 ∧ s.countBefore c r = false
      · rw [if_pos hgo]
        have hone := s.moveRecord_recordsMoved hc hq
        obtain ⟨n, hn, hmoved, hstop⟩ := ih (s.moveRecord c r q) (by omega)
        refine ⟨n + 1, by omega, hone.cons hmoved (by omega), ?_⟩
        rw [hone.scr, List.length_drop, List.drop_drop, Nat.add_comm 1 n, hone.scrHeld] at hstop
        simp only [hone.countBefore] at hstop
        have hlen := hone.count
        rcases hstop with hall | hempty | hfull | hcount
        · exact .inl (by omega)
        · exact .inr (.inl (by omega))
        · exact .inr (.inr (.inl (by omega)))
        · exact .inr (.inr (.inr hcount))
      · rw [if_neg hgo]
        refine ⟨0, Nat.zero_le _, RecordsMoved.refl c s, ?_⟩
        rcases not_and_or.mp hgo with hfull | hcount
        · exact .inr (.inr (.inl (by omega)))
        · exact .inr (.inr (.inr ⟨r, q, hq, by simpa using hcount⟩))

end

end Sys2Proof.Machine
end

section
namespace Sys2Proof.Machine

/-! The drain request that follows, and the end of flush (R246). -/

/-- Scribe leaves flush when the buffer and the queue are empty. -/
def State.flushSettled (s : State) (c : Nat) : State :=
  if s.scrHeld c = 0 ∧ (s.cl c).scr.queue = [] then s.updScr c (fun x => { x with flush := false }) else s

/-- A request of a device source leaves the clusters, the engines, the runs, the values in force, the registers of the clusters and the
pins but for their players. -/
structure RequestOnly (s t : State) : Prop where
  clusters : t.clusters = s.clusters
  engines : t.engines = s.engines
  runs : t.runs = s.runs
  force : t.force = s.force
  regs : ∀ a, a < rgBlk 0 0 → t.reg a = s.reg a
  pins : s.pinsKept t

theorem RequestOnly.refl (s : State) : RequestOnly s s := ⟨rfl, rfl, rfl, rfl, fun _ _ => rfl, fun _ => rfl⟩

section

variable (s : State) (c : Nat)

theorem State.setBit_requestOnly {a : Nat} (f : Fld) (b : Bool) (ha : rgBlk 0 0 ≤ a) : RequestOnly s (s.setBit a f b) where
  clusters := rfl
  engines := rfl
  runs := rfl
  force := rfl
  regs m hm := State.setBit_reg_ne _ _ _ _ _ (by omega)
  pins _ := rfl

theorem rgBlk_le_ringStat (n : Nat) : rgBlk 0 0 ≤ ringStat n := by
  simp only [rgBlk, ringStat, RING_STAT]
  omega

theorem State.violation_requestOnly (cause port pkg inst addr : Nat) : RequestOnly s (s.violation cause port pkg inst addr) :=
  have honly := s.violation_portsOnly cause port pkg inst addr
  { clusters := (congrArg (fun x : State => x.clusters) honly.rest :)
    engines := (congrArg (fun x : State => x.engines) honly.rest :)
    runs := (congrArg (fun x : State => x.runs) honly.rest :)
    force := (congrArg (fun x : State => x.force) honly.rest :)
    regs a ha := honly.regs a (.inl (by unfold rgBlk hubBlk at *; omega))
    pins := State.pinsKept_of_pinView (s.violation_pinView ..) }

theorem State.sourceRequest_requestOnly (n : Nat) : RequestOnly s (s.sourceRequest n) := by
  unfold State.sourceRequest
  split
  · exact s.violation_requestOnly ..
  · exact s.setBit_requestOnly _ _ (rgBlk_le_ringStat n)

/-! What leaving flush leaves. -/

theorem State.flushSettled_frame : s.flushSettled c = { s with clusters := (s.flushSettled c).clusters } := by
  unfold State.flushSettled
  split <;> rfl

theorem State.flushSettled_scr : ((s.flushSettled c).cl c).scr = { (s.cl c).scr with
    flush := !decide (s.scrHeld c = 0 ∧ (s.cl c).scr.queue = []) && (s.cl c).scr.flush } := by
  unfold State.flushSettled
  split
  · next h => simp only [h, State.updScr, State.updCl_cl, and_self, decide_true, Bool.not_true, Bool.false_and]
  · next h => simp only [h, decide_false, Bool.not_false, Bool.true_and]

theorem State.flushSettled_cl_ne {k : Nat} (hk : k ≠ c) : (s.flushSettled c).cl k = s.cl k := by
  unfold State.flushSettled
  split
  · exact State.updCl_cl_ne _ _ _ _ hk
  · rfl

theorem State.flushSettled_reg (a : Nat) : (s.flushSettled c).reg a = s.reg a := by
  rw [State.flushSettled_frame]
  rfl

theorem State.flushSettled_pin (p : Nat) : (s.flushSettled c).pin p = s.pin p := by
  rw [State.flushSettled_frame]
  rfl

theorem State.flushSettled_byteAt (a : Nat) : (s.flushSettled c).byteAt a = s.byteAt a := by
  rw [State.flushSettled_frame]
  rfl

theorem State.scrDrains_congr {s t : State} {c : Nat} (hforce : t.force = s.force)
    (hbad : (t.cl c).scr.ringBad = (s.cl c).scr.ringBad) : t.scrDrains c = s.scrDrains c := by
  simp only [State.scrDrains, State.fbitF, State.ffld, State.inForce, hforce, hbad]

theorem State.scribeDrain_of_not_drains (h : s.scrDrains c = false) : s.scribeDrain c = s.flushSettled c := by
  have hforce : (s.flushSettled c).force = s.force := by rw [State.flushSettled_frame]
  have hsettled : (s.flushSettled c).scrDrains c = false :=
    (State.scrDrains_congr hforce (by rw [State.flushSettled_scr])).trans h
  exact if_neg (by rw [← State.flushSettled, hsettled]; decide)

theorem State.scribeDrain_requestOnly : RequestOnly (s.flushSettled c) (s.scribeDrain c) := by
  unfold State.scribeDrain
  rw [← State.flushSettled]
  dsimp only
  split
  · split
    · exact State.sourceRequest_requestOnly _ _
    · exact RequestOnly.refl _
  · exact RequestOnly.refl _

/-- What Scribe leaves as it settles its flush and requests a drain: but for the flush of its cluster, the clusters, the engines, the runs,
the values in force, the registers of the clusters and the pins but for their players (R246). -/
structure DrainOnly (c : Nat) (s t : State) : Prop where
  scr : (t.cl c).scr = { (s.cl c).scr with flush := !decide (s.scrHeld c = 0 ∧ (s.cl c).scr.queue = []) && (s.cl c).scr.flush }
  others : ∀ k, k ≠ c → t.cl k = s.cl k
  engines : t.engines = s.engines
  runs : t.runs = s.runs
  force : t.force = s.force
  regs : ∀ a, a < rgBlk 0 0 → t.reg a = s.reg a
  pins : s.pinsKept t

theorem State.scribeDrain_drainOnly : DrainOnly c s (s.scribeDrain c) :=
  have honly := s.scribeDrain_requestOnly c
  have hcl (k : Nat) : (s.scribeDrain c).cl k = (s.flushSettled c).cl k := by rw [State.cl, State.cl, honly.clusters]
  { scr := by rw [hcl, State.flushSettled_scr]
    others k hk := by rw [hcl, s.flushSettled_cl_ne c hk]
    engines := by rw [honly.engines, State.flushSettled_frame]
    runs := by rw [honly.runs, State.flushSettled_frame]
    force := by rw [honly.force, State.flushSettled_frame]
    regs a ha := by rw [honly.regs a ha, State.flushSettled_reg]
    pins p := by rw [honly.pins p, State.flushSettled_pin] }

end

end Sys2Proof.Machine
end

section
namespace Sys2Proof.Machine

/-! The commands of Scribe (R244-R246, R257). -/

/-- A frame for any address and cluster: with those of Scribe written out the kernel would compute with them. -/
theorem State.frame_of_setReg_sendPin_settled (s : State) (a c : Nat) (w : Word) {t : State}
    (h : t = ((s.setReg a w).sendPin a w).flushSettled c) : t = { s with
      regs := t.regs, clusters := t.clusters
      inFlight := s.inFlight ++ [{ addr := a, value := t.reg a, port := 0, sent := s.gt }] } := by
  have hreg : t.reg a = w := by rw [h, State.flushSettled_reg, State.sendPin_reg, State.setReg_reg]
  rw [hreg, h, State.flushSettled_frame]
  rfl

theorem State.setReg_sendPin_scrDrains (s : State) (a c : Nat) (w : Word) : ((s.setReg a w).sendPin a w).scrDrains c = s.scrDrains c := by
  rfl

/-- A change of the clusters alone stays within the frame of what moves records. -/
theorem RecordsMoved.frame_of_clusters {c n : Nat} {s t u : State} (h : RecordsMoved c n s t) (k : u = { t with clusters := u.clusters }) :
    u = { s with regs := u.regs, clusters := u.clusters, mem := u.mem, poison := u.poison } := by
  rw [k, h.frame]

theorem scrWptr_lt (c : ClNo) : SCR_WPTR c.val < rgBlk 0 0 := by
  have := c.isLt
  unfold SCR_WPTR clBlk rgBlk
  omega

theorem RecordsMoved.scrDrains {c n : Nat} {s t : State} (h : RecordsMoved c n s t) : t.scrDrains c = s.scrDrains c :=
  State.scrDrains_congr (by rw [h.frame]) (by rw [h.scr])

section

variable (port : PortNo) (c : ClNo) (drain : Bool) (value : Word) (be : BitVec 4) (s : State)

theorem exec_scribeLineWrite : exec (.scribeLineWrite c) s = .next ((s.scribeMove c.val 4).scribeDrain c.val) := by rfl

/-- Scribe is told to flush (R246). -/
def State.flushBegun (c : Nat) : State := s.updScr c (fun x => { x with flush := true })

theorem exec_scrFlush (h : s.reaches (SCR_FLUSH c.val)) :
    exec (.scrFlush port c) s = .next ((s.flushBegun c.val).scribeDrain c.val) :=
  congrArg Host.Outcome.next (s.reach_open port.val _ (fun s => (s.flushBegun c.val).scribeDrain c.val) h.1 h.2)

theorem State.flushBegun_scr (k : Nat) : ((s.flushBegun k).cl k).scr = { (s.cl k).scr with flush := true } := by
  rw [State.flushBegun, State.updScr, State.updCl_cl]

theorem exec_scrRptrWrite (h : s.reaches (SCR_RPTR c.val)) :
    exec (.scrRptrWrite port c value) s = .next (s.scrConsume c.val value) :=
  congrArg Host.Outcome.next (s.reach_open port.val _ (fun s => s.scrConsume c.val value) h.1 h.2)

/-- What a release to a value moves SCR_RPTR to: a value ahead of WPTR acts as WPTR (R244). -/
def State.releaseTo (s : State) (c : Nat) (value : Word) : Word :=
  if (value - s.reg (SCR_RPTR c)).toNat ≤ (s.reg (SCR_WPTR c) - s.reg (SCR_RPTR c)).toNat then value else s.reg (SCR_WPTR c)

theorem State.scrConsume_of_drains (k : Nat) (h : s.scrDrains k = true) : s.scrConsume k value = s := if_pos h

theorem State.scrConsume_of_not_drains (k : Nat) (h : s.scrDrains k = false) : s.scrConsume k value =
    ((s.setReg (SCR_RPTR k) (s.releaseTo k value)).sendPin (SCR_RPTR k) (s.releaseTo k value)).flushSettled k := by
  rw [← State.scribeDrain_of_not_drains _ _ ((s.setReg_sendPin_scrDrains _ k _).trans h)]
  exact if_neg (by rw [h]; decide)

theorem exec_scrRptrWrite_releases (h : s.reaches (SCR_RPTR c.val)) (hno : s.scrDrains c.val = false) :
    exec (.scrRptrWrite port c value) s = .next (((s.setReg (SCR_RPTR c.val) (s.releaseTo c.val value)).sendPin (SCR_RPTR c.val)
      (s.releaseTo c.val value)).flushSettled c.val) := by
  rw [exec_scrRptrWrite port c value s h, s.scrConsume_of_not_drains value c.val hno]

theorem exec_scribeConfigWrite (h : s.reaches (if drain then SCR_DRAIN c.val else SCR_CTRL c.val)) :
    exec (.scribeConfigWrite port c drain value be) s =
      .next (s.scribeConfig c.val (if drain then SCR_DRAIN c.val else SCR_CTRL c.val) value be) :=
  congrArg Host.Outcome.next (s.reach_open port.val _
    (fun s => s.scribeConfig c.val (if drain then SCR_DRAIN c.val else SCR_CTRL c.val) value be) h.1 h.2)

/-- SCR_CTRL and SCR_DRAIN have a row (Table 8-4). -/
theorem regRow_scribeSetting : ∃ x, regRow (if drain then SCR_DRAIN c.val else SCR_CTRL c.val) = some x := by
  have hctrl : ((regRows 0 9).find? (fun x => x.hit 0)).isSome = true := by decide
  have hdrain : ((regRows 0 9).find? (fun x => x.hit 8)).isSome = true := by decide
  cases drain with
  | true =>
    rw [if_pos rfl, regRow, SCR_DRAIN, regLoc_clBlk c.isLt (by decide) (by decide)]
    exact Option.isSome_iff_exists.mp hdrain
  | false =>
    rw [if_neg (by decide), regRow, SCR_CTRL, ← Nat.add_zero (clBlk c.val 9), regLoc_clBlk c.isLt (by decide) (by decide)]
    exact Option.isSome_iff_exists.mp hctrl

section

variable {a : Nat} {x : RegRow} (hrow : regRow a = some x)
include hrow

theorem State.scribeConfig_eq (k : Nat) : s.scribeConfig k a value be =
    if (s.cl k).scr.active then s.setReg a (writeWord x (s.reg a) value be)
    else (s.setReg a (writeWord x (s.reg a) value be)).sendPin a (writeWord x (s.reg a) value be) := by
  rw [State.scribeConfig, s.partnerWrite_of_row hrow, State.setReg_reg]

theorem State.scribeConfig_reg (k : Nat) : (s.scribeConfig k a value be).reg a = writeWord x (s.reg a) value be := by
  rw [s.scribeConfig_eq value be hrow]
  split
  · exact State.setReg_reg ..
  · rw [State.sendPin_reg, State.setReg_reg]

theorem State.scribeConfig_regsKept (k : Nat) : s.regsKept (s.scribeConfig k a value be) [a] := fun m hm => by
  rw [s.scribeConfig_eq value be hrow]
  have hne : m ≠ a := by simpa using hm
  split
  · exact State.setReg_reg_ne _ _ _ _ hne
  · rw [State.sendPin_reg, State.setReg_reg_ne _ _ _ _ hne]

theorem State.scribeConfig_frame (k : Nat) : s.scribeConfig k a value be =
    { s with regs := (s.scribeConfig k a value be).regs, inFlight := (s.scribeConfig k a value be).inFlight } := by
  rw [s.scribeConfig_eq value be hrow]
  split <;> rfl

theorem State.scribeConfig_inFlight (k : Nat) : (s.scribeConfig k a value be).inFlight =
    if (s.cl k).scr.active then s.inFlight
    else s.inFlight ++ [{ addr := a, value := (s.scribeConfig k a value be).reg a, port := 0, sent := s.gt }] := by
  rw [s.scribeConfig_reg value be hrow, s.scribeConfig_eq value be hrow]
  split
  · rfl
  · exact State.sendPin_inFlight ..

end

end

/-- Settles O26: a line write moves records one by one and then settles flush and drain, as a flush and a release do; a setting is a
register behind a message. -/
theorem scribeMovesAndReleasesRecords : Obligations.ScribeMovesAndReleasesRecords := by
  unfold Obligations.ScribeMovesAndReleasesRecords
  intro port c drain value be s
  refine ⟨?_, fun hr => ?_, fun hr hno => ?_, fun hr hdrains => ?_, fun a ha hr => ?_⟩
  · obtain ⟨n, hn, hmoved, hstop⟩ := s.scribeMove_recordsMoved c.isLt 4 (by decide)
    have honly := (s.scribeMove c.val 4).scribeDrain_drainOnly c.val
    refine ⟨_, n, exec_scribeLineWrite c s, hn, hmoved.count, ?_, ?_, hstop, fun k hk => ?_, fun p => ?_, ?_, ?_, ?_, fun hno => ?_⟩
    · rw [honly.regs _ (scrWptr_lt c), hmoved.wptr]
    · rw [honly.scr, hmoved.scr]
    · rw [honly.others k hk, hmoved.others k hk]
    · rw [honly.pins p, hmoved.frame]
      rfl
    · rw [honly.engines, hmoved.frame]
    · rw [honly.runs, hmoved.frame]
    · rw [honly.force, hmoved.frame]
    · rw [State.scribeDrain_of_not_drains _ _ (hmoved.scrDrains.trans hno)]
      refine ⟨fun i r hi hq k hk => ?_, hmoved.frame_of_clusters (State.flushSettled_frame _ _), fun a ha => ?_⟩
      · rw [State.flushSettled_byteAt, hmoved.written i r hi hq k hk]
      · rw [State.flushSettled_reg, hmoved.regs a ha]
  · have honly := (s.flushBegun c.val).scribeDrain_drainOnly c.val
    have hscr := honly.scr
    rw [s.flushBegun_scr] at hscr
    refine ⟨_, exec_scrFlush port c s hr, fun hsome => ?_, fun hheld hq => ?_, fun k hk => ?_, fun p => ?_, honly.engines, honly.runs⟩
    · have hnot : ¬ ((s.flushBegun c.val).scrHeld c.val = 0 ∧ (s.cl c.val).scr.queue = []) := fun h =>
        hsome.elim (fun k => absurd h.1 (Nat.ne_of_gt k)) (fun k => k h.2)
      rw [hscr, decide_eq_false hnot]
      rfl
    · have hboth : (s.flushBegun c.val).scrHeld c.val = 0 ∧ (s.cl c.val).scr.queue = [] := ⟨hheld, hq⟩
      rw [hscr, decide_eq_true hboth]
      rfl
    · rw [honly.others k hk]
      exact State.updCl_cl_ne _ _ _ _ hk
    · exact honly.pins p
  · refine ⟨_, exec_scrRptrWrite_releases port c value s hr hno, ?_, fun k hk => ?_,
      s.frame_of_setReg_sendPin_settled _ _ _ rfl, fun a ha => ?_⟩
    · rw [State.flushSettled_reg, State.sendPin_reg, State.setReg_reg, State.releaseTo]
    · rw [State.flushSettled_cl_ne _ _ hk, State.sendPin_cl, State.setReg_cl]
    · rw [State.flushSettled_reg, State.sendPin_reg, State.setReg_reg_ne _ _ _ _ (by simpa using ha)]
  · rw [exec_scrRptrWrite port c value s hr, s.scrConsume_of_drains value c.val hdrains]
  · subst ha
    obtain ⟨x, hrow⟩ := regRow_scribeSetting c drain
    have hflight := s.scribeConfig_inFlight value be hrow c.val
    exact ⟨_, exec_scribeConfigWrite port c drain value be s hr, ⟨x, hrow, s.scribeConfig_reg value be hrow c.val⟩,
      fun hon => by rw [hflight, if_pos hon], fun hoff => by rw [hflight, if_neg (by rw [hoff]; decide)],
      s.scribeConfig_frame value be hrow c.val, s.scribeConfig_regsKept value be hrow c.val⟩

end Sys2Proof.Machine
end

section
namespace Sys2Proof.Machine

/-! What the operations of one digitiser touch (R259-R280): its record, its ACQ_STAT, the request flags of DMA rings and what an event
touches. -/

/-- The state but for the digitisers and what an event touches. -/
def State.sansDigs (s : State) : State := { s.sansMem with regs := [], ports := [], digs := [] }

/-- From s to t nothing but digitiser d, registers and what an event touches has changed. -/
structure DigOnly (d : Nat) (s t : State) : Prop where
  rest : t.sansDigs = s.sansDigs
  pins : t.pinView = s.pinView
  others : ∀ k, k ≠ d → t.dig k = s.dig k

namespace DigOnly

variable {d : Nat} {s t u : State}

theorem refl (d : Nat) (s : State) : DigOnly d s s := ⟨rfl, rfl, fun _ _ => rfl⟩

theorem trans (h : DigOnly d s t) (k : DigOnly d t u) : DigOnly d s u :=
  ⟨k.rest.trans h.rest, k.pins.trans h.pins, fun m hm => (k.others m hm).trans (h.others m hm)⟩

theorem setReg (d : Nat) (s : State) (a : Nat) (w : Word) : DigOnly d s (s.setReg a w) := ⟨rfl, rfl, fun _ _ => rfl⟩

theorem setFld (d : Nat) (s : State) (a : Nat) (f : Fld) (v : Nat) : DigOnly d s (s.setFld a f v) := setReg d s a _

theorem setBit (d : Nat) (s : State) (a : Nat) (f : Fld) (b : Bool) : DigOnly d s (s.setBit a f b) := setReg d s a _

theorem updDig (d : Nat) (s : State) (f : DigSt → DigSt) : DigOnly d s (s.updDig d f) :=
  ⟨rfl, rfl, fun k hk => s.updDig_dig_ne d f k hk⟩

theorem withFree (d : Nat) (s : State) (n : Nat) : DigOnly d s { s with free := n } := ⟨rfl, rfl, fun _ _ => rfl⟩

theorem engines (h : DigOnly d s t) : t.engines = s.engines := (congrArg (fun x : State => x.engines) h.rest :)
theorem clusters (h : DigOnly d s t) : t.clusters = s.clusters := (congrArg (fun x : State => x.clusters) h.rest :)
theorem flags (h : DigOnly d s t) : t.flags = s.flags := (congrArg (fun x : State => x.flags) h.rest :)
theorem gt (h : DigOnly d s t) : t.gt = s.gt := (congrArg (fun x : State => x.gt) h.rest :)
theorem pinsKept (h : DigOnly d s t) : s.pinsKept t := State.pinsKept_of_pinView h.pins

end DigOnly

/-- A digitiser but for its rings and the mark of its record's overflow event. -/
def DigSt.sansRings (x : DigSt) : DigSt := { x with raw := {}, minMax := {}, mean := {}, ovfEvent := false }

/-- From s to t an operation on a ring of digitiser d has changed of the digitiser its rings alone, the raw ring only when it is on that
one, and of ACQ_STAT the marks GAP and OVF alone. -/
structure RingsOnly (d ring : Nat) (s t : State) : Prop extends DigOnly d s t where
  dig : (t.dig d).sansRings = (s.dig d).sansRings
  raw : ring ≠ 0 → (t.dig d).raw = (s.dig d).raw
  stat : ∀ f, ACQ_STAT_GAP.apart f = true → ACQ_STAT_OVF.apart f = true → t.fld (acqStat d) f = s.fld (acqStat d) f

/-- ACQ_STAT lies in a cluster's block, below the DMA rings and the hub. -/
theorem acqStat_lt {d : Nat} (hd : d < 128) : acqStat d < rgBlk 0 0 := by
  unfold acqStat ACQ_STAT clBlk digCl rgBlk
  omega

theorem acqStat_ne_ringStat {d : Nat} (hd : d < 128) (n : Nat) : acqStat d ≠ ringStat n :=
  Nat.ne_of_lt (Nat.lt_of_lt_of_le (acqStat_lt hd) (rgBlk_le_ringStat n))

namespace RingsOnly

variable {d ring : Nat} {s t u : State}

theorem refl (d ring : Nat) (s : State) : RingsOnly d ring s s := ⟨DigOnly.refl d s, rfl, fun _ => rfl, fun _ _ _ => rfl⟩

theorem trans (h : RingsOnly d ring s t) (k : RingsOnly d ring t u) : RingsOnly d ring s u where
  toDigOnly := h.toDigOnly.trans k.toDigOnly
  dig := k.dig.trans h.dig
  raw hr := (k.raw hr).trans (h.raw hr)
  stat f hg ho := (k.stat f hg ho).trans (h.stat f hg ho)

/-- An operation on any ring leaves what one on the raw ring leaves. -/
theorem toRaw (h : RingsOnly d ring s t) : RingsOnly d 0 s t := ⟨h.toDigOnly, h.dig, fun hr => absurd rfl hr, h.stat⟩

/-- An operation on each of the three rings. -/
theorem rings {f : State → Nat → State} (h : ∀ t r, RingsOnly d r t (f t r)) (s : State) : RingsOnly d 0 s ([0, 1, 2].foldl f s) :=
  (h s 0).trans ((h _ 1).toRaw.trans (h _ 2).toRaw)

/-- Of an operation on each of the three rings the one on the raw ring alone acts on it. -/
theorem rings_raw {f : State → Nat → State} (h : ∀ t r, RingsOnly d r t (f t r)) (s : State) :
    (([0, 1, 2].foldl f s).dig d).raw = ((f s 0).dig d).raw :=
  ((h _ 2).raw (by decide)).trans ((h _ 1).raw (by decide))

/-- What leaves the digitiser as it is and registers but those of the hub block PRT, as an event does. -/
theorem ofPorts (hd : d < 128) (h : PortsOnly s t) (hp : t.pinView = s.pinView) : RingsOnly d ring s t :=
  have hdig : t.dig = s.dig := (congrArg State.dig h.rest :)
  { rest := congrArg (fun x : State => ({ x with digs := [] } : State)) h.rest
    pins := hp
    others k _ := congrFun hdig k
    dig := congrArg (fun f => (f d).sansRings) hdig
    raw _ := congrArg (fun f => (f d).raw) hdig
    stat f _ _ := State.fld_of_reg f (h.regs _ (.inl (Nat.lt_trans (acqStat_lt hd) (by decide)))) }

theorem setBit_elsewhere (s : State) {a : Nat} (f : Fld) (b : Bool) (ha : acqStat d ≠ a) : RingsOnly d ring s (s.setBit a f b) where
  toDigOnly := DigOnly.setBit d s a f b
  dig := rfl
  raw _ := rfl
  stat g _ _ := State.setBit_fld_ne _ _ _ _ _ g ha

theorem mark (s : State) {a : Nat} {f : Fld} (b : Bool) (ha : a = acqStat d) (hf : f = ACQ_STAT_GAP ∨ f = ACQ_STAT_OVF) :
    RingsOnly d ring s (s.setBit a f b) where
  toDigOnly := DigOnly.setBit d s a f b
  dig := rfl
  raw _ := rfl
  stat g hg ho := ha ▸ State.setBit_fld_apart s a f g b (by rcases hf with rfl | rfl <;> assumption)

theorem updDig (s : State) {f : DigSt → DigSt} (hf : (f (s.dig d)).sansRings = (s.dig d).sansRings)
    (hr : ring ≠ 0 → (f (s.dig d)).raw = (s.dig d).raw) : RingsOnly d ring s (s.updDig d f) where
  toDigOnly := DigOnly.updDig d s f
  dig := by rw [State.updDig_dig, hf]
  raw h := by rw [State.updDig_dig, hr h]
  stat _ _ _ := rfl

theorem updAcqRing (s : State) (f : AcqRing → AcqRing) : RingsOnly d ring s (s.updAcqRing d ring f) := by
  refine updDig s ?_ fun hr => ?_
  · unfold DigSt.setRingOf
    split <;> rfl
  · unfold DigSt.setRingOf
    split
    · exact absurd rfl hr
    · rfl
    · rfl

theorem phase (h : RingsOnly d ring s t) : (t.dig d).phase = (s.dig d).phase := (congrArg DigSt.phase h.dig :)
theorem cfg (h : RingsOnly d ring s t) : (t.dig d).cfg = (s.dig d).cfg := (congrArg DigSt.cfg h.dig :)
theorem samples (h : RingsOnly d ring s t) : (t.dig d).samples = (s.dig d).samples := (congrArg DigSt.samples h.dig :)
theorem flagDue (h : RingsOnly d ring s t) : (t.dig d).flagDue = (s.dig d).flagDue := (congrArg DigSt.flagDue h.dig :)
theorem rangeHold (h : RingsOnly d ring s t) : (t.dig d).rangeHold = (s.dig d).rangeHold := (congrArg DigSt.rangeHold h.dig :)

theorem recordSeq (h : RingsOnly d ring s t) : t.recordSeq d = s.recordSeq d := by
  rw [State.recordSeq, State.recordSeq, h.stat _ (by decide) (by decide)]

end RingsOnly

/-! The operations on the rings (R272-R279, R360). -/

section

variable (s : State) {d : Nat} (hd : d < 128) (ring : Nat)
include hd

theorem State.violation_ringsOnly (cause port pkg inst addr : Nat) : RingsOnly d ring s (s.violation cause port pkg inst addr) :=
  RingsOnly.ofPorts hd (s.violation_portsOnly ..) (s.violation_pinView ..)

theorem State.event_ringsOnly (code src unit arg value : Nat) : RingsOnly d ring s (s.event code src unit arg value) :=
  RingsOnly.ofPorts hd (s.event_portsOnly ..) (s.event_pinView ..)

theorem State.sourceRequest_ringsOnly (n : Nat) : RingsOnly d ring s (s.sourceRequest n) := by
  unfold State.sourceRequest
  split
  · exact s.violation_ringsOnly hd ring ..
  · exact RingsOnly.setBit_elsewhere s _ _ (acqStat_ne_ringStat hd n)

theorem State.acqRequest_ringsOnly (b : Bool) : RingsOnly d ring s (s.acqRequest d ring b) := by
  unfold State.acqRequest
  dsimp only
  split
  · exact (RingsOnly.updAcqRing s _).trans (State.sourceRequest_ringsOnly _ hd ring _)
  · exact RingsOnly.refl d ring s

theorem State.checkAcqRing_ringsOnly (x : AcqCfg) : RingsOnly d ring s (s.checkAcqRing d x ring) := by
  unfold State.checkAcqRing
  refine RingsOnly.trans ?_ (RingsOnly.updAcqRing _ _)
  unfold State.checkRing
  split
  · exact RingsOnly.refl d ring s
  · dsimp only
    split
    · exact RingsOnly.refl d ring s
    · exact s.violation_ringsOnly hd ring ..

theorem State.stageData_ringsOnly (n : Nat) (body : List Byte) : RingsOnly d ring s (s.stageData d ring n body) := by
  unfold State.stageData
  dsimp only
  split
  · exact (RingsOnly.updAcqRing s _).trans ((RingsOnly.updAcqRing _ _).trans (State.acqRequest_ringsOnly _ hd ring _))
  · exact (RingsOnly.updAcqRing s _).trans (RingsOnly.mark _ _ rfl (.inl rfl))

omit ring in
theorem State.meanOvf_ringsOnly (n : Nat) (x : AcqCfg) (j k : Nat) (l : List Byte) : RingsOnly d 2 s (s.meanOvf d n x j k l) := by
  unfold State.meanOvf
  split
  · exact RingsOnly.refl d 2 s
  · have hmark := (RingsOnly.mark (d := d) (ring := 2) s true rfl (.inr rfl)).trans (RingsOnly.updAcqRing _ fun r => { r with ovf := true })
    dsimp only
    split
    · exact hmark
    · exact hmark.trans ((RingsOnly.updDig _ rfl fun _ => rfl).trans (State.event_ringsOnly _ hd 2 ..))

theorem State.nextLine_ringsOnly (n : Nat) (x : AcqCfg) (units : Nat) (l : List Byte) :
    RingsOnly d ring s (s.nextLine d n x ring units l) := by
  unfold State.nextLine
  dsimp only
  split
  · exact RingsOnly.refl d ring s
  · split
    · next h =>
      subst h
      exact (s.meanOvf_ringsOnly hd ..).trans (State.stageData_ringsOnly _ hd 2 ..)
    · exact s.stageData_ringsOnly hd ring ..

theorem State.restLines_ringsOnly (n : Nat) (x : AcqCfg) (units : Nat) (l : List Byte) (k : Nat) :
    RingsOnly d ring s (State.restLines d n x ring units l k s) := by
  induction k generalizing s with
  | zero => exact RingsOnly.refl d ring s
  | succ k ih => exact (s.nextLine_ringsOnly hd ring ..).trans (ih _)

theorem State.beginRing_ringsOnly (n : Nat) (forced : Bool) (x : AcqCfg) (seq : Nat) :
    RingsOnly d ring s (s.beginRing d n forced x seq ring) := by
  unfold State.beginRing
  split
  · exact (RingsOnly.updAcqRing s _).trans ((RingsOnly.updAcqRing _ _).trans (State.acqRequest_ringsOnly _ hd ring _))
  · exact RingsOnly.refl d ring s

theorem State.endRing_ringsOnly (n : Nat) (x : AcqCfg) (l : List Byte) (aborted : Bool) :
    RingsOnly d ring s (s.endRing d n x l aborted ring) := by
  unfold State.endRing
  dsimp only
  split
  · exact (s.restLines_ringsOnly hd ring ..).trans ((RingsOnly.updAcqRing _ _).trans ((RingsOnly.updAcqRing _ _).trans
      (State.acqRequest_ringsOnly _ hd ring _)))
  · exact RingsOnly.refl d ring s

end

end Sys2Proof.Machine
end

section
namespace Sys2Proof.Machine

/-! The raw ring (R273, R276-R279): a line is staged or its units are dropped, and END counts every unit of the record. -/

/-- n units of a ring are dropped into its gap (R278). -/
def AcqRing.dropUnits (r : AcqRing) (n : Nat) : AcqRing :=
  { r with dropped := r.dropped + n, gap := min (r.gap + n) (2 ^ 40 - 1), gapSat := r.gapSat || decide (2 ^ 40 - 1 < r.gap + n) }

/-- The END line of a raw ring whose record has ended with its last sample (Tables 9-2, 9-3). -/
def AcqRing.endLine (r : AcqRing) (seq : Nat) : List Byte :=
  acqLine 4 0 seq 0 (leBytes 8 r.kept ++ leBytes 8 r.dropped ++ leBytes 4 0 ++ leBytes 1 (if r.ovf then 1 else 0))

section

variable (s : State) (d : Nat)

theorem DigSt.ringOf_raw (x : DigSt) : x.ringOf 0 = x.raw := rfl
theorem stagingCap_raw : stagingCap 0 = 256 := rfl
theorem lineCap_raw : lineCap 0 = 60 := rfl

theorem State.updAcqRing_raw (f : AcqRing → AcqRing) : ((s.updAcqRing d 0 f).dig d).raw = f (s.dig d).raw := by
  rw [State.updAcqRing, State.updDig_dig]
  rfl

theorem State.sourceRequest_dig (n k : Nat) : (s.sourceRequest n).dig k = s.dig k := by
  unfold State.sourceRequest
  split
  · rw [State.violation_dig]
  · rw [State.raise, State.setBit_dig]

/-- A request changes of the ring only the requests that no burst has served. -/
theorem State.acqRequest_raw (b : Bool) : ∃ l, ((s.acqRequest d 0 b).dig d).raw = { (s.dig d).raw with asked := l } := by
  unfold State.acqRequest
  dsimp only
  split
  · exact ⟨_, by rw [State.sourceRequest_dig, State.updAcqRing_raw]⟩
  · exact ⟨_, rfl⟩

theorem State.gapLines_eq_nil (ring : Nat) (h : ((s.dig d).ringOf ring).gap = 0) : s.gapLines d ring = [] := if_pos h

/-- A line that finds room is staged after the pending gap (R278). -/
theorem State.stageData_raw_room (n : Nat) (body : List Byte) (h : (s.dig d).raw.staged.length + (s.gapLines d 0).length + 1 + 3 ≤ 256) :
    ∃ l, ((s.stageData d 0 n body).dig d).raw = { (s.dig d).raw with
      staged := (s.dig d).raw.staged ++ (s.gapLines d 0 ++ [acqLine 2 0 (s.recordSeq d) n body])
      kept := (s.dig d).raw.kept + n, gap := 0, gapSat := false, asked := l } := by
  unfold State.stageData
  dsimp only
  rw [DigSt.ringOf_raw, stagingCap_raw, if_pos h]
  obtain ⟨l, hl⟩ := State.acqRequest_raw ((s.stageLines d 0 (s.gapLines d 0 ++ [acqLine 2 0 (s.recordSeq d) n body])).updAcqRing d 0
    (fun r => { r with kept := r.kept + n, gap := 0, gapSat := false })) d false
  rw [State.updAcqRing_raw, State.stageLines, State.updAcqRing_raw] at hl
  exact ⟨l, hl⟩

/-- A line that finds none is dropped, and GAP sets (R278). -/
theorem State.stageData_full (n : Nat) (body : List Byte) (h : ¬(s.dig d).raw.staged.length + (s.gapLines d 0).length + 1 + 3 ≤ 256) :
    s.stageData d 0 n body = (s.updAcqRing d 0 (AcqRing.dropUnits · n)).setBit (acqStat d) ACQ_STAT_GAP true := by
  unfold State.stageData
  dsimp only
  rw [DigSt.ringOf_raw, stagingCap_raw, if_neg h]
  rfl

/-- Either way the units of the line are counted. -/
theorem State.stageData_raw_units (n : Nat) (body : List Byte) :
    ((s.stageData d 0 n body).dig d).raw.kept + ((s.stageData d 0 n body).dig d).raw.dropped =
      (s.dig d).raw.kept + (s.dig d).raw.dropped + n := by
  by_cases h : (s.dig d).raw.staged.length + (s.gapLines d 0).length + 1 + 3 ≤ 256
  · obtain ⟨l, hl⟩ := s.stageData_raw_room d n body h
    rw [hl]
    exact Nat.add_right_comm ..
  · rw [s.stageData_full d n body h, State.setBit_dig, State.updAcqRing_raw]
    exact (Nat.add_assoc ..).symm

theorem AcqCfg.flatMap_unitBytes_raw (x : AcqCfg) (j : Nat) (l : List Byte) (r : List Nat) :
    r.flatMap (fun i => x.unitBytes 0 (j + i) l) = r.map fun i => l.getD (x.rawIndex (j + i)) 0 :=
  List.flatMap_pure_eq_map ..

variable (n : Nat) (x : AcqCfg) (units : Nat) (l : List Byte)

/-- The next line of the raw ring holds the next units, one byte each (R273). -/
theorem State.nextLine_raw (h : min 60 (units - ((s.dig d).raw.kept + (s.dig d).raw.dropped)) ≠ 0) :
    s.nextLine d n x 0 units l = s.stageData d 0 (min 60 (units - ((s.dig d).raw.kept + (s.dig d).raw.dropped)))
      ((List.range (min 60 (units - ((s.dig d).raw.kept + (s.dig d).raw.dropped)))).map fun i =>
        l.getD (x.rawIndex ((s.dig d).raw.kept + (s.dig d).raw.dropped + i)) 0) := by
  unfold State.nextLine
  dsimp only
  rw [DigSt.ringOf_raw, lineCap_raw, if_neg h, if_neg (show ¬(0 : Nat) = 2 by decide), AcqCfg.flatMap_unitBytes_raw]

theorem State.nextLine_raw_units :
    ((s.nextLine d n x 0 units l).dig d).raw.kept + ((s.nextLine d n x 0 units l).dig d).raw.dropped =
      (s.dig d).raw.kept + (s.dig d).raw.dropped + min 60 (units - ((s.dig d).raw.kept + (s.dig d).raw.dropped)) := by
  by_cases h : min 60 (units - ((s.dig d).raw.kept + (s.dig d).raw.dropped)) = 0
  · have hnone : s.nextLine d n x 0 units l = s := if_pos h
    rw [hnone, h]
    rfl
  · rw [s.nextLine_raw d n x units l h, State.stageData_raw_units]

/-- k lines of 60 units that are still to come count every unit. -/
theorem State.restLines_raw_units (k : Nat) (hle : (s.dig d).raw.kept + (s.dig d).raw.dropped ≤ units)
    (hk : units ≤ (s.dig d).raw.kept + (s.dig d).raw.dropped + 60 * k) :
    ((State.restLines d n x 0 units l k s).dig d).raw.kept + ((State.restLines d n x 0 units l k s).dig d).raw.dropped = units := by
  induction k generalizing s with
  | zero => exact Nat.le_antisymm hle hk
  | succ k ih =>
    have hnext := s.nextLine_raw_units d n x units l
    exact ih (s.nextLine d n x 0 units l) (by omega) (by omega)

variable {d} (hd : d < 128) (hon : x.enabled 0 = true)
include hd hon

/-- The raw ring ends with an END line that counts its units (R279), and all of them are counted. -/
theorem State.endRing_raw :
    ((s.endRing d n x l false 0).dig d).raw.staged.getLast? = some (((s.endRing d n x l false 0).dig d).raw.endLine (s.recordSeq d)) ∧
    ((s.dig d).raw.kept + (s.dig d).raw.dropped ≤ x.unitsOf 0 l.length →
      ((s.endRing d n x l false 0).dig d).raw.kept + ((s.endRing d n x l false 0).dig d).raw.dropped = x.unitsOf 0 l.length) := by
  unfold State.endRing
  rw [if_pos hon]
  extract_lets u r s' r' body t
  obtain ⟨asked, hraw⟩ := (t.updAcqRing d 0 (fun r => { r with gap := 0, gapSat := false })).acqRequest_raw d true
  have hseq : s'.recordSeq d = s.recordSeq d := (s.restLines_ringsOnly hd 0 n x u l _).recordSeq
  have hunits : (s.dig d).raw.kept + (s.dig d).raw.dropped ≤ u → r'.kept + r'.dropped = u := fun hle =>
    s.restLines_raw_units d n x u l ((u - r.kept - r.dropped) / lineCap 0 + 1) hle (by
      have hr : r = (s.dig d).raw := rfl
      rw [hr, lineCap_raw]
      omega)
  have hstaged : (t.dig d).raw = { r' with staged := r'.staged ++ (s'.gapLines d 0 ++ [acqLine 4 0 (s'.recordSeq d) 0 body]) } :=
    s'.updAcqRing_raw d _
  rw [State.updAcqRing_raw, hstaged] at hraw
  rw [hraw]
  refine ⟨?_, hunits⟩
  dsimp only
  rw [← List.append_assoc, List.getLast?_concat, hseq]
  rfl

omit hd in
/-- A record begins with the HEAD line, and no unit is counted yet (R272, R276). -/
theorem State.beginRing_raw (forced : Bool) (seq : Nat) :
    ((s.beginRing d n forced x seq 0).dig d).raw.staged.length = (s.dig d).raw.staged.length + 1 ∧
    ((s.beginRing d n forced x seq 0).dig d).raw.kept = 0 := by
  unfold State.beginRing
  rw [if_pos hon]
  extract_lets t
  obtain ⟨asked, hraw⟩ := (t.stageLines d 0 [acqLine 1 0 seq 0 (s.headBody d n forced x)]).acqRequest_raw d false
  rw [State.stageLines, State.updAcqRing_raw, State.updAcqRing_raw] at hraw
  rw [State.stageLines, hraw]
  exact ⟨List.length_append .., rfl⟩

end

end Sys2Proof.Machine
end

section
namespace Sys2Proof.Machine

/-! Arming, aborting and a write of ACQ_RANGE (R263, R264, R267, R268). -/

/-- The row of ACQ_RANGE. -/
def acqRangeRow : RegRow := ⟨0x28, [(256, 2)], 0x10000, 0x3ffff, 0, 0, 0, 0⟩

theorem regRow_acqRange (d : DigNo) : regRow (ACQ_RANGE (digCl d.val) (d.val % 2)) = some acqRangeRow := by
  have hrow : ∀ k : Fin 2, (regRows 0 10).find? (fun x => x.hit (0x28 + k.val * 256)) = some acqRangeRow := by decide
  have hcl : digCl d.val < 64 := Nat.div_lt_of_lt_mul d.isLt
  rw [regRow, ACQ_RANGE, Nat.add_assoc, regLoc_clBlk hcl (by decide) (by omega)]
  exact hrow ⟨d.val % 2, Nat.mod_lt _ (by decide)⟩

theorem acqRange_ne_acqStat (d : Nat) : ACQ_RANGE (digCl d) (d % 2) ≠ acqStat d := by
  unfold acqStat ACQ_RANGE ACQ_STAT
  omega

section

variable (s : State) (d a : Nat)

/-- One bit more set leaves a frame of digitisers and registers as it is; for any register, as the kernel would compute with one written
out. -/
theorem State.setBit_digsRegs {t : State} (m : Nat) (f : Fld) (b : Bool) (h : t = { s with digs := t.digs, regs := t.regs }) :
    t.setBit m f b = { s with digs := (t.setBit m f b).digs, regs := (t.setBit m f b).regs } :=
  congrArg (fun u : State => ({ u with regs := (t.setBit m f b).regs } : State)) h

/-- The digitiser is armed with the settings as they stand, before its rings are checked. -/
def State.armSettings : State :=
  (s.updDig d (fun y => { y with phase := .armed a, cfg := some (s.acqSnapshot d), samples := [], rangeDue := none })).setBit
    (acqStat d) ACQ_STAT_ARMED true

theorem State.armSettings_digOnly : DigOnly d s (s.armSettings d a) := (DigOnly.updDig d s _).trans (DigOnly.setBit d _ _ _ _)

theorem State.armSettings_dig : (s.armSettings d a).dig d =
    { s.dig d with phase := .armed a, cfg := some (s.acqSnapshot d), samples := [], rangeDue := none } := by
  rw [State.armSettings, State.setBit_dig, State.updDig_dig]

theorem State.armNow_ringsOnly {d : Nat} (hd : d < 128) : RingsOnly d 0 (s.armSettings d a) (s.armNow d a) :=
  RingsOnly.rings (fun t r => t.checkAcqRing_ringsOnly hd r _) _

theorem State.armNow_digOnly {d : Nat} (hd : d < 128) : DigOnly d s (s.armNow d a) :=
  (s.armSettings_digOnly d a).trans (s.armNow_ringsOnly a hd).toDigOnly

theorem State.armNow_phase {d : Nat} (hd : d < 128) : ((s.armNow d a).dig d).phase = .armed a := by
  rw [(s.armNow_ringsOnly a hd).phase, State.armSettings_dig]

theorem State.armNow_cfg {d : Nat} (hd : d < 128) : ((s.armNow d a).dig d).cfg = some (s.acqSnapshot d) := by
  rw [(s.armNow_ringsOnly a hd).cfg, State.armSettings_dig]

theorem State.armNow_armed {d : Nat} (hd : d < 128) : (s.armNow d a).bit (acqStat d) ACQ_STAT_ARMED = true := by
  rw [State.bit, (s.armNow_ringsOnly a hd).stat _ (by decide) (by decide)]
  exact State.setBit_bit _ _ _ _ rfl (by decide)

theorem State.armNow_acquiring {d : Nat} (hd : d < 128) :
    (s.armNow d a).bit (acqStat d) ACQ_STAT_ACQUIRING = s.bit (acqStat d) ACQ_STAT_ACQUIRING := by
  rw [State.bit, (s.armNow_ringsOnly a hd).stat _ (by decide) (by decide)]
  exact State.setBit_bit_apart _ _ _ _ _ (by decide)

/-! The digitiser becomes idle (R267). -/

theorem State.digIdle_digOnly : DigOnly d s (s.digIdle d a) :=
  (DigOnly.updDig d s _).trans ((DigOnly.setBit d _ _ _ _).trans (DigOnly.setBit d _ _ _ _))

theorem State.digIdle_dig : (s.digIdle d a).dig d =
    { s.dig d with phase := .idle, rangeDue := if (s.dig d).rangeHold.isSome then some (boundaryAfter a) else none } := by
  rw [State.digIdle, State.setBit_dig, State.setBit_dig, State.updDig_dig]

theorem State.digIdle_armed : (s.digIdle d a).bit (acqStat d) ACQ_STAT_ARMED = false := by
  rw [State.digIdle, State.setBit_bit_apart _ _ _ _ _ (by decide), State.setBit_bit _ _ _ _ rfl (by decide)]

theorem State.digIdle_acquiring : (s.digIdle d a).bit (acqStat d) ACQ_STAT_ACQUIRING = false := by
  rw [State.digIdle, State.setBit_bit _ _ _ _ rfl (by decide)]

theorem State.digIdle_regsKept : s.regsKept (s.digIdle d a) [acqStat d] := fun m hm => by
  have hne : m ≠ acqStat d := by simpa using hm
  rw [State.digIdle, State.setBit_reg_ne _ _ _ _ _ hne, State.setBit_reg_ne _ _ _ _ _ hne, State.updDig_reg]

theorem State.digIdle_frame : s.digIdle d a = { s with digs := (s.digIdle d a).digs, regs := (s.digIdle d a).regs } :=
  s.setBit_digsRegs _ _ _ (s.setBit_digsRegs _ _ _ rfl)

/-! An arm and an abort of a digitiser that has no held range due, by its phase. -/

variable {d} {b : Nat}

theorem State.settleRange_none (h : (s.dig d).rangeDue = none) : s.settleRange d a = s := by
  rw [State.settleRange, h]

theorem State.armDig_idle (hdue : (s.dig d).rangeDue = none) (hph : (s.dig d).phase = .idle) (hm : s.hasMode (digCl d) 2 = true) :
    s.armDig d a = s.armNow d a := by
  rw [State.armDig, s.settleRange_none a hdue]
  simp only [hph, hm, if_true]

theorem State.armDig_again (hdue : (s.dig d).rangeDue = none) (hph : (s.dig d).phase = .armed a) : s.armDig d a = s := by
  rw [State.armDig, s.settleRange_none a hdue]
  simp only [hph, if_true]

/-- Any other arm is ignored (R263, R264). -/
theorem State.armDig_ignored (hdue : (s.dig d).rangeDue = none) (h : (∃ k, (s.dig d).phase = .armed k ∧ k ≠ a) ∨
      (∃ k n f, (s.dig d).phase = .acquiring k n f) ∨ ((s.dig d).phase = .idle ∧ s.hasMode (digCl d) 2 = false)) :
    s.armDig d a = s.setBit (acqStat d) ACQ_STAT_ARM_IGNORED true := by
  rw [State.armDig, s.settleRange_none a hdue]
  rcases h with ⟨k, hph, hne⟩ | ⟨k, n, f, hph⟩ | ⟨hph, hm⟩
  · simp only [hph, if_neg (Ne.symm hne)]
  · simp only [hph]
  · simp only [hph, hm, Bool.false_eq_true, if_false]

theorem State.abortDig_armed (h : (s.dig d).phase = .armed a) : s.abortDig d b = s.digIdle d b := by
  simp only [State.abortDig, h]

theorem State.abortDig_idle (h : (s.dig d).phase = .idle) : s.abortDig d b = s := by
  simp only [State.abortDig, h]

/-! A written range reaches its boundary (R268). -/

variable (w : Word)

theorem State.acqRangeDue_idle (hdue : (s.dig d).rangeDue = none) (hph : (s.dig d).phase = .idle) :
    s.acqRangeDue d w b = s.updDig d (fun x => { x with rangeForce := w }) := by
  rw [State.acqRangeDue, s.settleRange_none b hdue]
  exact if_pos ⟨hph, hdue⟩

theorem State.acqRangeDue_held (hdue : (s.dig d).rangeDue = none) (hph : (s.dig d).phase ≠ .idle) :
    s.acqRangeDue d w b =
      (s.updDig d (fun x => { x with rangeHold := some w })).setBit (acqStat d) ACQ_STAT_RANGE_HELD true := by
  rw [State.acqRangeDue, s.settleRange_none b hdue]
  exact if_neg fun h => hph h.1

/-- A written range touches of the registers at most ACQ_STAT, and besides the digitiser nothing. -/
theorem State.acqRangeDue_frame (hdue : (s.dig d).rangeDue = none) :
    s.acqRangeDue d w b = { s with digs := (s.acqRangeDue d w b).digs, regs := (s.acqRangeDue d w b).regs } ∧
    (∀ m, m ≠ acqStat d → (s.acqRangeDue d w b).reg m = s.reg m) ∧ ∀ k, k ≠ d → (s.acqRangeDue d w b).dig k = s.dig k := by
  by_cases hph : (s.dig d).phase = .idle
  · rw [s.acqRangeDue_idle w hdue hph]
    exact ⟨rfl, fun _ _ => rfl, fun k hk => s.updDig_dig_ne d _ k hk⟩
  · rw [s.acqRangeDue_held w hdue hph]
    exact ⟨s.setBit_digsRegs _ _ _ rfl, fun m hm => State.setBit_reg_ne _ _ _ _ _ hm,
      fun k hk => (State.setBit_dig ..).trans (s.updDig_dig_ne d _ k hk)⟩

end

/-! The commands. -/

section

variable (port : PortNo) (d : DigNo) (b : Nat) (value : Word) (s : State)

theorem exec_acqArm (h : s.reaches (ACQ_CTRL (digCl d.val) (d.val % 2))) :
    exec (.acqArm port d b) s = .next ((s.atCluster (digCl d.val) b).armDig d.val b) :=
  congrArg Host.Outcome.next (s.reach_open port.val _ (fun s => (s.atCluster (digCl d.val) b).armDig d.val b) h.1 h.2)

theorem exec_acqAbort (h : s.reaches (ACQ_CTRL (digCl d.val) (d.val % 2))) :
    exec (.acqAbort port d b) s = .next ((s.atCluster (digCl d.val) b).abortDig d.val b) :=
  congrArg Host.Outcome.next (s.reach_open port.val _ (fun s => (s.atCluster (digCl d.val) b).abortDig d.val b) h.1 h.2)

theorem exec_acqRangeWrite (h : s.reaches (ACQ_RANGE (digCl d.val) (d.val % 2))) :
    exec (.acqRangeWrite port d value b) s = .next (s.acqRange d.val value b) :=
  congrArg Host.Outcome.next (s.reach_open port.val _ (fun s => s.acqRange d.val value b) h.1 h.2)

/-- A partner's write of ACQ_RANGE: the register holds what was written, and from the boundary on it is in force or held (R268). -/
theorem State.acqRange_spec (hdue : (s.dig d.val).rangeDue = none) :
    (s.acqRange d.val value b).fld (ACQ_RANGE (digCl d.val) (d.val % 2)) ACQ_RANGE_FS = getF value ACQ_RANGE_FS ∧
    (s.acqRange d.val value b).fld (ACQ_RANGE (digCl d.val) (d.val % 2)) ACQ_RANGE_CENTER = getF value ACQ_RANGE_CENTER ∧
    ((s.dig d.val).phase = .idle →
      ((s.acqRange d.val value b).dig d.val).rangeForce = (s.acqRange d.val value b).reg (ACQ_RANGE (digCl d.val) (d.val % 2)) ∧
      s.regsKept (s.acqRange d.val value b) [ACQ_RANGE (digCl d.val) (d.val % 2)]) ∧
    ((s.dig d.val).phase ≠ .idle →
      (s.acqRange d.val value b).dig d.val =
        { s.dig d.val with rangeHold := some ((s.acqRange d.val value b).reg (ACQ_RANGE (digCl d.val) (d.val % 2))) } ∧
      (s.acqRange d.val value b).bit (acqStat d.val) ACQ_STAT_RANGE_HELD = true ∧
      s.regsKept (s.acqRange d.val value b) [ACQ_RANGE (digCl d.val) (d.val % 2), acqStat d.val]) ∧
    (∀ k, k ≠ d.val → (s.acqRange d.val value b).dig k = s.dig k) ∧
    s.acqRange d.val value b = { s.atCluster (digCl d.val) b with
      digs := (s.acqRange d.val value b).digs, regs := (s.acqRange d.val value b).regs } := by
  have hne := acqRange_ne_acqStat d.val
  have hrow := regRow_acqRange d
  generalize hr : ACQ_RANGE (digCl d.val) (d.val % 2) = r at hne hrow ⊢
  have hwr : s.acqRange d.val value b = ((s.atCluster (digCl d.val) b).partnerWrite r value 15).acqRangeDue d.val
    (((s.atCluster (digCl d.val) b).partnerWrite r value 15).reg r) b := by rw [State.acqRange, hr]
  have hkept := (s.atCluster (digCl d.val) b).partnerWrite_regsKept r value 15
  have hfs := (s.atCluster (digCl d.val) b).partnerWrite_fld hrow value 15 (f := ACQ_RANGE_FS) (by decide) (by decide)
  have hcenter := (s.atCluster (digCl d.val) b).partnerWrite_fld hrow value 15 (f := ACQ_RANGE_CENTER) (by decide) (by decide)
  have hframe := (s.atCluster (digCl d.val) b).partnerWrite_frame hrow value 15
  generalize (s.atCluster (digCl d.val) b).partnerWrite r value 15 = t at hwr hkept hfs hcenter hframe
  have hdig : t.dig = s.dig := by rw [hframe]; rfl
  have htdue : (t.dig d.val).rangeDue = none := by rw [hdig, hdue]
  obtain ⟨hrest, hregs, hothers⟩ := t.acqRangeDue_frame (b := b) (t.reg r) htdue
  have hreg := hregs r hne
  rw [hwr]
  refine ⟨by rw [State.fld_of_reg _ hreg, hfs], by rw [State.fld_of_reg _ hreg, hcenter], fun hph => ⟨?_, fun m hm => ?_⟩,
    fun hph => ⟨?_, ?_, fun m hm => ?_⟩, fun k hk => by rw [hothers k hk, hdig], ?_⟩
  · rw [hreg, t.acqRangeDue_idle _ htdue (by rw [hdig, hph]), State.updDig_dig]
  · rw [t.acqRangeDue_idle _ htdue (by rw [hdig, hph]), State.updDig_reg]
    exact hkept m hm
  · rw [hreg, t.acqRangeDue_held _ htdue (by rw [hdig]; exact hph), State.setBit_dig, State.updDig_dig, hdig]
  · rw [t.acqRangeDue_held _ htdue (by rw [hdig]; exact hph), State.setBit_bit _ _ _ _ rfl (by decide)]
  · have hm' : m ≠ r ∧ m ≠ acqStat d.val := by simpa using hm
    rw [hregs m hm'.2]
    exact hkept m (by simpa using hm'.1)
  · rw [hrest, hframe]

end

/-- Settles O35: with no held range due, an arm and an abort act by the phase alone, and of a written range the phase says whether it is in
force or held. -/
theorem digitisersArmAndHoldTheirRange : Obligations.DigitisersArmAndHoldTheirRange := by
  intro port d b value s hdue
  have hudue : ((s.atCluster (digCl d.val) b).dig d.val).rangeDue = none := hdue
  refine ⟨fun hr => ⟨fun hph hm => ?_, fun hph => ?_, fun h => ?_, fun a hph => ?_, fun hph => ?_⟩, fun hr => ?_⟩
  · rw [exec_acqArm port d b s hr, State.armDig_idle (s.atCluster (digCl d.val) b) b hudue hph hm]
    have honly := (s.atCluster (digCl d.val) b).armNow_digOnly b d.isLt
    exact ⟨_, rfl, State.armNow_phase _ b d.isLt, State.armNow_cfg _ b d.isLt, State.armNow_armed _ b d.isLt, honly.others, honly.gt,
      honly.pinsKept, honly.engines, honly.clusters⟩
  · rw [exec_acqArm port d b s hr, State.armDig_again (s.atCluster (digCl d.val) b) b hudue hph]
  · rw [exec_acqArm port d b s hr, State.armDig_ignored (s.atCluster (digCl d.val) b) b hudue h]
  · rw [exec_acqAbort port d b s hr, State.abortDig_armed (s.atCluster (digCl d.val) b) a hph]
    have honly := (s.atCluster (digCl d.val) b).digIdle_digOnly d.val b
    exact ⟨_, rfl, by rw [State.digIdle_dig], State.digIdle_armed _ _ _, honly.others, State.digIdle_frame _ _ _,
      State.digIdle_regsKept _ _ _⟩
  · rw [exec_acqAbort port d b s hr, State.abortDig_idle (s.atCluster (digCl d.val) b) hph]
  · exact ⟨_, exec_acqRangeWrite port d b value s hr, s.acqRange_spec d b value hdue⟩

end Sys2Proof.Machine
end

section
namespace Sys2Proof.Machine

/-! A record begins (R265, R266, R271). -/

section

variable (s : State) (d : Nat) (input : List Int)

theorem State.feed_digOnly : DigOnly d s (s.feed d input) := (DigOnly.updDig d s _).trans (DigOnly.withFree d _ _)

theorem State.feed_dig : (s.feed d input).dig d =
    { s.dig d with samples := (s.dig d).samples ++ acqCodes (s.dig d).rangeForce s.free input } :=
  s.updDig_dig d (fun x => { x with samples := x.samples ++ acqCodes x.rangeForce s.free input })

end

/-- The digitiser acquires, and the flag of its trigger is due (R271). -/
def DigSt.begun (y : DigSt) (d a n : Nat) (forced : Bool) (x : AcqCfg) : DigSt :=
  { y with
    phase := .acquiring a n forced, ovfEvent := false,
    flagDue := if getB x.ctrl 27 then
        y.flagDue ++ [(digCl d * 8 + getF x.ctrl ACQ_CTRL_FLAG, boundaryAt (n + 128))] else y.flagDue }

theorem DigSt.begun_flagDue (y : DigSt) (d a n : Nat) (forced : Bool) (x : AcqCfg) : (y.begun d a n forced x).flagDue =
    y.flagDue ++ (if getB x.ctrl 27 then [(digCl d * 8 + getF x.ctrl ACQ_CTRL_FLAG, boundaryAt (n + 128))] else []) := by
  unfold DigSt.begun
  dsimp only
  split
  · rfl
  · exact (List.append_nil _).symm

section

variable (s : State) (d : Nat)

/-- ACQ_STAT counts a record more, after `seq` of them, and says that the digitiser acquires. -/
def State.acquireStat (seq : Nat) : State :=
  ((s.setFld (acqStat d) ACQ_STAT_SEQ (seq + 1)).setBit (acqStat d) ACQ_STAT_ARMED false).setBit (acqStat d) ACQ_STAT_ACQUIRING true

/-- ACQ_STAT of a digitiser that begins a record. -/
def State.recordStat (seq : Nat) (forced : Bool) : State :=
  if forced then (s.acquireStat d seq).setBit (acqStat d) ACQ_STAT_FORCED true else s.acquireStat d seq

/-- The HEAD lines of a record have entered its rings. -/
def State.ringsBegun (n : Nat) (forced : Bool) (x : AcqCfg) : State :=
  [0, 1, 2].foldl (fun t r => t.beginRing d n forced x (s.fld (acqStat d) ACQ_STAT_SEQ) r) s

variable (seq : Nat) (forced : Bool)

theorem State.recordStat_digOnly : DigOnly d s (s.recordStat d seq forced) := by
  have h : DigOnly d s (s.acquireStat d seq) :=
    (DigOnly.setFld d s _ _ _).trans ((DigOnly.setBit d _ _ _ _).trans (DigOnly.setBit d _ _ _ _))
  cases forced
  · exact h
  · exact h.trans (DigOnly.setBit d _ _ _ _)

theorem State.recordStat_dig (k : Nat) : (s.recordStat d seq forced).dig k = s.dig k := by
  have h : (s.acquireStat d seq).dig k = s.dig k := by
    rw [State.acquireStat, State.setBit_dig, State.setBit_dig, State.setFld_dig]
  cases forced
  · exact h
  · exact (State.setBit_dig ..).trans h

theorem State.recordStat_fld {f : Fld} (hf : ACQ_STAT_FORCED.apart f = true) :
    (s.recordStat d seq forced).fld (acqStat d) f = (s.acquireStat d seq).fld (acqStat d) f := by
  cases forced
  · rfl
  · exact State.setBit_fld_apart _ _ _ _ _ hf

theorem State.recordStat_bit {f : Fld} (hf : ACQ_STAT_FORCED.apart f = true) :
    (s.recordStat d seq forced).bit (acqStat d) f = (s.acquireStat d seq).bit (acqStat d) f :=
  congrArg (· == 1) (s.recordStat_fld d seq forced hf)

theorem State.recordStat_seq : (s.recordStat d seq forced).fld (acqStat d) ACQ_STAT_SEQ = (seq + 1) % 2 ^ ACQ_STAT_SEQ.width := by
  rw [State.recordStat_fld _ _ _ _ (by decide), State.acquireStat, State.setBit_fld_apart _ _ _ _ _ (by decide),
    State.setBit_fld_apart _ _ _ _ _ (by decide), State.setFld_fld _ _ _ _ (by decide) (by decide)]

theorem State.recordStat_armed : (s.recordStat d seq forced).bit (acqStat d) ACQ_STAT_ARMED = false := by
  rw [State.recordStat_bit _ _ _ _ (by decide), State.acquireStat, State.setBit_bit_apart _ _ _ _ _ (by decide),
    State.setBit_bit _ _ _ _ rfl (by decide)]

theorem State.recordStat_acquiring : (s.recordStat d seq forced).bit (acqStat d) ACQ_STAT_ACQUIRING = true := by
  rw [State.recordStat_bit _ _ _ _ (by decide), State.acquireStat, State.setBit_bit _ _ _ _ rfl (by decide)]

theorem State.recordStat_forced : (s.recordStat d seq true).bit (acqStat d) ACQ_STAT_FORCED = true :=
  State.setBit_bit _ _ _ _ rfl (by decide)

variable {d} (n : Nat) (x : AcqCfg)

theorem State.ringsBegun_ringsOnly (hd : d < 128) : RingsOnly d 0 s (s.ringsBegun d n forced x) :=
  RingsOnly.rings (fun t r => t.beginRing_ringsOnly hd r n forced x _) s

theorem State.ringsBegun_raw (hd : d < 128) : ((s.ringsBegun d n forced x).dig d).raw =
    ((s.beginRing d n forced x (s.fld (acqStat d) ACQ_STAT_SEQ) 0).dig d).raw :=
  RingsOnly.rings_raw (fun t r => t.beginRing_ringsOnly hd r n forced x _) s

theorem State.beginRecord_eq (a : Nat) (hdue : (s.dig d).rangeDue = none) : s.beginRecord d a n forced x =
    ((s.ringsBegun d n forced x).recordStat d (s.fld (acqStat d) ACQ_STAT_SEQ) forced).updDig d (·.begun d a n forced x) := by
  rw [State.beginRecord, s.settleRange_none n hdue]
  rfl

/-- From s to t the record of digitiser d, armed at a, with trigger sample n has begun, and `l` are the samples taken by then. -/
structure RecordBegun (d a n : Nat) (forced : Bool) (x : AcqCfg) (l : List Byte) (s t : State) : Prop where
  only : DigOnly d s t
  phase : (t.dig d).phase = .acquiring a n forced
  cfg : (t.dig d).cfg = (s.dig d).cfg
  samples : (t.dig d).samples = l
  seq : t.fld (acqStat d) ACQ_STAT_SEQ = (s.fld (acqStat d) ACQ_STAT_SEQ + 1) % 2 ^ ACQ_STAT_SEQ.width
  armed : t.bit (acqStat d) ACQ_STAT_ARMED = false
  acquiring : t.bit (acqStat d) ACQ_STAT_ACQUIRING = true
  forced : forced = true → t.bit (acqStat d) ACQ_STAT_FORCED = true
  flagDue : (t.dig d).flagDue = (s.dig d).flagDue ++
    (if getB x.ctrl 27 then [(digCl d * 8 + getF x.ctrl ACQ_CTRL_FLAG, boundaryAt (n + 128))] else [])
  rawOff : x.enabled 0 = false → (t.dig d).raw = (s.dig d).raw
  rawOn : x.enabled 0 = true → (t.dig d).raw.staged.length = (s.dig d).raw.staged.length + 1 ∧ (t.dig d).raw.kept = 0

theorem State.beginRecord_begun (hd : d < 128) (a : Nat) (hdue : (s.dig d).rangeDue = none) :
    RecordBegun d a n forced x (s.dig d).samples s (s.beginRecord d a n forced x) := by
  have hrings := s.ringsBegun_ringsOnly forced n x hd
  have hraw := s.ringsBegun_raw forced n x hd
  have hdig : ∀ u : State, ((u.recordStat d (s.fld (acqStat d) ACQ_STAT_SEQ) forced).updDig d (·.begun d a n forced x)).dig d =
      (u.dig d).begun d a n forced x := fun u => by rw [State.updDig_dig, State.recordStat_dig]
  rw [s.beginRecord_eq forced n x a hdue]
  exact {
    only := hrings.toDigOnly.trans ((State.recordStat_digOnly _ d _ forced).trans (DigOnly.updDig d _ _))
    phase := by rw [hdig]; rfl
    cfg := by rw [hdig]; exact hrings.cfg
    samples := by rw [hdig]; exact hrings.samples
    seq := by rw [State.updDig_fld, State.recordStat_seq]
    armed := by rw [State.updDig_bit, State.recordStat_armed]
    acquiring := by rw [State.updDig_bit, State.recordStat_acquiring]
    forced := by
      rintro rfl
      rw [State.updDig_bit, State.recordStat_forced]
    flagDue := by rw [hdig, DigSt.begun_flagDue, hrings.flagDue]
    rawOff := fun hoff => by
      have hnone : s.beginRing d n forced x (s.fld (acqStat d) ACQ_STAT_SEQ) 0 = s :=
        if_neg (by rw [hoff]; exact Bool.false_ne_true)
      rw [hdig]
      exact hraw.trans (by rw [hnone])
    rawOn := fun hon => by
      have hhead := s.beginRing_raw (d := d) n x hon forced (s.fld (acqStat d) ACQ_STAT_SEQ)
      rw [← hraw] at hhead
      rw [hdig]
      exact hhead }

/-- The record of a digitiser that has just taken the samples given. -/
theorem State.beginRecord_fed (hd : d < 128) (a : Nat) (input : List Int) (hdue : (s.dig d).rangeDue = none) :
    RecordBegun d a n forced x ((s.dig d).samples ++ acqCodes (s.dig d).rangeForce s.free input) s
      ((s.feed d input).beginRecord d a n forced x) := by
  have hfed := s.feed_dig d input
  have h := (s.feed d input).beginRecord_begun forced n x hd a (by rw [hfed, hdue])
  exact {
    only := (s.feed_digOnly d input).trans h.only
    phase := h.phase
    cfg := by rw [h.cfg, hfed]
    samples := by rw [h.samples, hfed]
    seq := h.seq
    armed := h.armed
    acquiring := h.acquiring
    forced := h.forced
    flagDue := by rw [h.flagDue, hfed]
    rawOff := fun hoff => by rw [h.rawOff hoff, hfed]
    rawOn := fun hon => by
      have hhead := h.rawOn hon
      rwa [hfed] at hhead }

end

/-! The commands. -/

section

variable (d : DigNo) {n a : Nat} {input : List Int} {l : List Byte} {x : AcqCfg} (s : State)
  (hcfg : (s.dig d.val).cfg = some x) (hph : (s.dig d.val).phase = .armed a)
  (hl : l = (s.dig d.val).samples ++ acqCodes (s.dig d.val).rangeForce s.free input)
include hcfg hph hl

theorem exec_trigger (ha : a ≤ n) (hlen : l.length = n - a + 1) (hhit : (x.hits l).head? = some (n - a))
    (hauto : getB x.ctrl 28 = true → n ≤ a + x.preN + x.auto.toNat) :
    exec (.trigger d n input) s = .next (((s.at n).feed d.val input).beginRecord d.val a n false x) := by
  have hsamples : (((s.at n).feed d.val input).dig d.val).samples = l := by
    rw [State.feed_dig, hl]
    rfl
  have hexec : exec (.trigger d n input) s = execTrigger d n input s := rfl
  rw [hexec, execTrigger, hph, hcfg]
  dsimp only
  rw [hsamples]
  exact if_pos ⟨ha, hlen, hhit, hauto⟩

theorem exec_autoTimeout (hauto : getB x.ctrl 28 = true) (hlen : l.length = x.preN + x.auto.toNat + 1) (hhit : x.hits l = []) :
    exec (.autoTimeout d input) s =
      .next (((s.at (x.autoSample a)).feed d.val input).beginRecord d.val a (x.autoSample a) true x) := by
  have hsamples : (((s.at (x.autoSample a)).feed d.val input).dig d.val).samples = l := by
    rw [State.feed_dig, hl]
    rfl
  have hexec : exec (.autoTimeout d input) s = execAutoTimeout d input s := rfl
  rw [hexec, execAutoTimeout, hph, hcfg]
  dsimp only
  rw [hsamples]
  exact if_pos ⟨hauto, by rw [hlen, AcqCfg.autoSample]; omega, hhit⟩

end

/-! The flag of a trigger sets at its boundary (R271). -/

section

variable (s : State)

theorem State.setBit_digs (a : Nat) (f : Fld) (b : Bool) : (s.setBit a f b).digs = s.digs := rfl

theorem State.waitCheckAt_digs (e g : Nat) : (s.waitCheckAt e g).digs = s.digs := by
  unfold State.waitCheckAt
  split
  · dsimp only
    split
    · rfl
    · rw [State.setBit_digs]
      rfl
  · rfl

theorem State.unwait_digs (e g : Nat) : (s.unwait e g).digs = s.digs := by
  unfold State.unwait
  dsimp only
  split
  · rw [State.setBit_digs]
    rfl
  · rfl

theorem State.recheck_digs (key g e : Nat) : (s.recheck key g e).digs = s.digs := by
  unfold State.recheck
  dsimp only
  split
  · split
    · rw [State.unwait_digs, State.waitCheckAt_digs]
    · rfl
  · split
    · exact s.waitCheckAt_digs e g
    · split <;> rfl
  · split <;> rfl
  · rfl

theorem State.flagSetAt_digs (key g src : Nat) : (s.flagSetAt key g src).digs = s.digs :=
  foldl_obs _ State.digs (fun t e => t.recheck_digs key g e) _ _

/-- Flags that set together at a grain set, and no other does. -/
theorem State.flagsSetAt_flag (g src m : Nat) (l : List (Nat × Nat)) :
    (l.foldl (fun t z => t.flagSetAt z.1 g src) s).flag m = (l.any (fun z => z.1 == m) || s.flag m) := by
  induction l generalizing s with
  | nil => rfl
  | cons z l ih =>
    rw [List.foldl_cons, ih, State.flagSetAt_flag, List.any_cons]
    by_cases h : m = z.1
    · simp [h]
    · rw [if_neg h, beq_false_of_ne (Ne.symm h), Bool.false_or]

variable (d : DigNo) (b : Nat)

/-- Boundary b has come to the triggers of a digitiser: their flags are due no longer. -/
def State.flagsTaken : State := (s.at b).updDig d.val (fun y => { y with flagDue := y.flagDue.filter (fun z => z.2 != b) })

/-- Every trigger whose flag is due at boundary b sets it. -/
def State.dueFlagsSet : State :=
  ((s.dig d.val).flagDue.filter (fun z => z.2 == b)).foldl (fun t z => t.flagSetAt z.1 b (srcDig d.val)) (s.flagsTaken d b)

theorem exec_triggerFlagSet (h : ∃ z ∈ (s.dig d.val).flagDue, z.2 = b) :
    exec (.triggerFlagSet d b) s = .next (s.dueFlagsSet d b) := by
  obtain ⟨z, hz, hb⟩ := h
  have hdue : (s.dig d.val).flagDue.filter (fun z => z.2 == b) ≠ [] :=
    List.ne_nil_of_mem (List.mem_filter.mpr ⟨hz, beq_iff_eq.mpr hb⟩)
  exact if_neg hdue

theorem State.dueFlagsSet_flag (m : Nat) : (s.dueFlagsSet d b).flag m =
    (((s.dig d.val).flagDue.filter (fun z => z.2 == b)).any (fun z => z.1 == m) || s.flag m) :=
  State.flagsSetAt_flag ..

theorem State.dueFlagsSet_digs : (s.dueFlagsSet d b).digs = (s.flagsTaken d b).digs :=
  foldl_obs _ State.digs (fun t (z : Nat × Nat) => t.flagSetAt_digs z.1 b _) _ _

theorem State.dueFlagsSet_dig : (s.dueFlagsSet d b).dig d.val =
    { s.dig d.val with flagDue := (s.dig d.val).flagDue.filter (fun z => z.2 != b) } := by
  rw [State.dig, State.dueFlagsSet_digs, ← State.dig, State.flagsTaken, State.updDig_dig]
  rfl

theorem State.dueFlagsSet_dig_ne {k : Nat} (hk : k ≠ d.val) : (s.dueFlagsSet d b).dig k = s.dig k := by
  rw [State.dig, State.dueFlagsSet_digs, ← State.dig, State.flagsTaken, State.updDig_dig_ne _ _ _ _ hk]
  rfl

theorem State.dueFlagsSet_checkView : (s.dueFlagsSet d b).checkView = s.checkView :=
  (foldl_obs _ State.checkView (fun t (z : Nat × Nat) => t.flagSetAt_checkView z.1 b _) _ _ :)

theorem State.dueFlagsSet_sets {z : Nat × Nat} (hz : z ∈ (s.dig d.val).flagDue) (hb : z.2 = b) : (s.dueFlagsSet d b).flag z.1 = true := by
  have hany : ((s.dig d.val).flagDue.filter (fun z => z.2 == b)).any (fun y => y.1 == z.1) = true :=
    List.any_eq_true.mpr ⟨z, List.mem_filter.mpr ⟨hz, beq_iff_eq.mpr hb⟩, beq_self_eq_true _⟩
  rw [State.dueFlagsSet_flag, hany, Bool.true_or]

theorem State.dueFlagsSet_keeps {m : Nat} (h : (m, b) ∉ (s.dig d.val).flagDue) : (s.dueFlagsSet d b).flag m = s.flag m := by
  have hnone : ((s.dig d.val).flagDue.filter (fun z => z.2 == b)).any (fun y => y.1 == m) = false :=
    List.any_eq_false.mpr fun z hz he => by
      obtain ⟨hmem, hb⟩ := List.mem_filter.mp hz
      have hzm : z = (m, b) := Prod.ext (beq_iff_eq.mp he) (beq_iff_eq.mp hb)
      exact h (hzm ▸ hmem)
  rw [State.dueFlagsSet_flag, hnone, Bool.false_or]

end

end Sys2Proof.Machine
end

section
namespace Sys2Proof.Machine

/-! A record ends (R267, R279), and a line of it is complete (R273, R276, R278). -/

/-- A record whose trigger sample is at least PRE after its arm has PRE + POST samples (R265, R267). -/
theorem recordSamples_length {x : AcqCfg} {a n : Nat} {l : List Byte} (hlen : n + x.postN - a ≤ l.length) (hpre : a + x.preN ≤ n) :
    ((l.take (n + x.postN - a)).drop (n - x.preN - a)).length = x.preN + x.postN := by
  rw [List.length_drop, List.length_take, Nat.min_eq_left hlen]
  omega

theorem AcqCfg.postN_pos (x : AcqCfg) : 0 < x.postN := Nat.succ_pos _

section

variable (s : State) (d n : Nat)

theorem State.feedTo_digOnly : DigOnly d s (s.feedTo d n) := (DigOnly.updDig d s _).trans (DigOnly.withFree d _ _)

theorem State.feedTo_dig : (s.feedTo d n).dig d =
    { s.dig d with samples := (s.dig d).samples ++ Machine.freeBytes s.free (n - (s.dig d).samples.length) } :=
  s.updDig_dig d (fun x => { x with samples := x.samples ++ Machine.freeBytes s.free (n - (s.dig d).samples.length) })

theorem State.le_feedTo_samples : n ≤ ((s.feedTo d n).dig d).samples.length := by
  rw [State.feedTo_dig, List.length_append, Machine.freeBytes, List.length_map, List.length_range]
  omega

variable {d} (x : AcqCfg) (a m : Nat) (hd : d < 128)
include hd

theorem State.endRecord_ringsOnly : RingsOnly d 0 (s.feedTo d (m + 1 - a)) (s.endRecord d a n m x false) :=
  RingsOnly.rings (fun t r => t.endRing_ringsOnly hd r n x _ false) _

theorem State.endRecord_raw (l : List Byte)
    (hl : l = (((s.feedTo d (m + 1 - a)).dig d).samples.take (m + 1 - a)).drop (n - x.preN - a)) :
    ((s.endRecord d a n m x false).dig d).raw = (((s.feedTo d (m + 1 - a)).endRing d n x l false 0).dig d).raw := by
  subst hl
  exact RingsOnly.rings_raw (fun t r => t.endRing_ringsOnly hd r n x _ false) _

end

/-- From s to t the record of digitiser d, armed at a, with trigger sample n and settings x has ended: its lines and END are staged. -/
structure RecordEnded (d a n : Nat) (x : AcqCfg) (s t : State) : Prop where
  only : DigOnly d s t
  rangeHold : (t.dig d).rangeHold = (s.dig d).rangeHold
  endLine : x.enabled 0 = true → (t.dig d).raw.staged.getLast? = some ((t.dig d).raw.endLine (s.recordSeq d))
  units : x.enabled 0 = true → a + x.preN ≤ n → (s.dig d).raw.kept + (s.dig d).raw.dropped ≤ x.unitsOf 0 (x.preN + x.postN) →
    (t.dig d).raw.kept + (t.dig d).raw.dropped = x.unitsOf 0 (x.preN + x.postN)

section

variable (s : State) {d a n m : Nat} {x : AcqCfg} (input : List Int)

theorem State.endRecord_ended (hd : d < 128) (hm : m = n + x.postN - 1) :
    RecordEnded d a n x s ((s.feed d input).endRecord d a n m x false) := by
  have hrings := (s.feed d input).endRecord_ringsOnly n x a m hd
  have hraw := (s.feed d input).endRecord_raw n x a m hd _ rfl
  have hfed : (((s.feed d input).feedTo d (m + 1 - a)).dig d).raw = (s.dig d).raw := by rw [State.feedTo_dig, State.feed_dig]
  have hend : m + 1 - a = n + x.postN - a := by
    have := x.postN_pos
    omega
  refine ⟨(s.feed_digOnly d input).trans ((State.feedTo_digOnly _ d _).trans hrings.toDigOnly), ?_, fun hon => ?_, fun hon hpre hle => ?_⟩
  · rw [hrings.rangeHold, State.feedTo_dig, State.feed_dig]
  · rw [hraw]
    exact (State.endRing_raw _ n x _ hd hon).1
  · have hlen := State.le_feedTo_samples (s.feed d input) d (m + 1 - a)
    rw [hend] at hlen
    have hunits := (State.endRing_raw ((s.feed d input).feedTo d (m + 1 - a)) n x
      (((((s.feed d input).feedTo d (m + 1 - a)).dig d).samples.take (m + 1 - a)).drop (n - x.preN - a)) hd hon).2
    rw [hfed, hend, recordSamples_length hlen hpre] at hunits
    rw [hraw, hend]
    exact hunits hle

/-! REARM (R267). -/

theorem State.rearm_free (h : (s.dig d).rangeDue = none) : s.rearm d n = s.armNow d (n + 1) := by
  rw [State.rearm, h]
  exact if_neg Bool.false_ne_true

theorem State.rearm_held (h : (s.dig d).rangeDue ≠ none) : s.rearm d n =
    (s.updDig d (fun y => { y with phase := .armed (boundaryAfter n), cfg := none })).setBit (acqStat d) ACQ_STAT_ARMED true :=
  if_pos (Option.isSome_iff_ne_none.mpr h)

theorem State.rearm_digOnly (hd : d < 128) : DigOnly d s (s.rearm d n) := by
  by_cases h : (s.dig d).rangeDue = none
  · rw [s.rearm_free h]
    exact s.armNow_digOnly _ hd
  · rw [s.rearm_held h]
    exact (DigOnly.updDig d s _).trans (DigOnly.setBit d _ _ _ _)

theorem State.rearm_armed (hd : d < 128) : (s.rearm d n).bit (acqStat d) ACQ_STAT_ARMED = true := by
  by_cases h : (s.dig d).rangeDue = none
  · rw [s.rearm_free h, s.armNow_armed _ hd]
  · rw [s.rearm_held h, State.setBit_bit _ _ _ _ rfl (by decide)]

theorem State.rearm_acquiring (hd : d < 128) :
    (s.rearm d n).bit (acqStat d) ACQ_STAT_ACQUIRING = s.bit (acqStat d) ACQ_STAT_ACQUIRING := by
  by_cases h : (s.dig d).rangeDue = none
  · rw [s.rearm_free h, s.armNow_acquiring _ hd]
  · rw [s.rearm_held h, State.setBit_bit_apart _ _ _ _ _ (by decide), State.updDig_bit]

/-- After a record the next arm grain is the next sample, or with a held range the boundary at which that takes effect (R267, R268). -/
theorem State.rearm_phase (hd : d < 128) :
    ((s.dig d).rangeHold = none → (((s.digIdle d m).rearm d m).dig d).phase = .armed (m + 1)) ∧
    ((s.dig d).rangeHold ≠ none → (((s.digIdle d m).rearm d m).dig d).phase = .armed (boundaryAfter m)) := by
  have hdue : ((s.digIdle d m).dig d).rangeDue = if (s.dig d).rangeHold.isSome then some (boundaryAfter m) else none := by
    rw [State.digIdle_dig]
  refine ⟨fun h => ?_, fun h => ?_⟩
  · rw [h, if_neg (by decide)] at hdue
    rw [State.rearm_free _ hdue, State.armNow_phase _ _ hd]
  · rw [if_pos (Option.isSome_iff_ne_none.mpr h)] at hdue
    rw [State.rearm_held _ (by rw [hdue]; exact Option.some_ne_none _), State.setBit_dig, State.updDig_dig]

end

/-- The bytes of k units of the raw ring from unit j on of a record whose samples are `l` (R273). -/
def AcqCfg.rawBody (x : AcqCfg) (j k : Nat) (l : List Byte) : List Byte := (List.range k).map fun i => l.getD (x.rawIndex (j + i)) 0

/-! The commands. -/

section

variable (d : DigNo) {a n m : Nat} {f : Bool} {x : AcqCfg} (input : List Int) (s : State)
  (hcfg : (s.dig d.val).cfg = some x) (hph : (s.dig d.val).phase = .acquiring a n f)
include hcfg hph

theorem exec_recordLastSample (hm : m = n + x.postN - 1) : exec (.recordLastSample d m input) s =
    .next (if getB x.ctrl 29 then
        ((((s.at m).feed d.val input).endRecord d.val a n m x false).digIdle d.val m).rearm d.val m
      else (((s.at m).feed d.val input).endRecord d.val a n m x false).digIdle d.val m) := by
  have hexec : exec (.recordLastSample d m input) s = execRecordLastSample d m input s := rfl
  rw [hexec, execRecordLastSample, hph, hcfg]
  exact if_pos hm

theorem exec_recordLastSample_other (hm : m ≠ n + x.postN - 1) : exec (.recordLastSample d m input) s = .next s := by
  have hexec : exec (.recordLastSample d m input) s = execRecordLastSample d m input s := rfl
  rw [hexec, execRecordLastSample, hph, hcfg]
  exact if_neg hm

/-- A line of the raw ring is complete: its k units follow the j counted ones (R273, R276). -/
theorem exec_acqLineStage_raw {l : List Byte} {j k : Nat} (hon : x.enabled 0 = true)
    (hl : l = ((s.dig d.val).samples ++ acqCodes (s.dig d.val).rangeForce s.free input).drop (n - x.preN - a))
    (hj : j = (s.dig d.val).raw.kept + (s.dig d.val).raw.dropped) (hk : k = min 60 (x.unitsOf 0 (x.preN + x.postN) - j)) (hpos : 0 < k)
    (hlast : x.rawIndex (j + k - 1) < l.length) (htotal : l.length ≤ x.preN + x.postN) :
    exec (.acqLineStage d 0 input) s = .next ((s.feed d.val input).stageData d.val 0 k (x.rawBody j k l)) := by
  have hrecord : ((s.feed d.val input).dig d.val).record x a n = l := by
    rw [State.feed_dig, hl]
    rfl
  have hcount : ((s.feed d.val input).dig d.val).raw.kept + ((s.feed d.val input).dig d.val).raw.dropped = j := by
    rw [State.feed_dig, hj]
  have hunits : min 60 (j + k - j) = k := by omega
  have hnext := State.nextLine_raw (s.feed d.val input) d.val n x (j + k) l (by rw [hcount, hunits]; omega)
  rw [hcount, hunits, ← AcqCfg.rawBody] at hnext
  have hexec : exec (.acqLineStage d 0 input) s = execAcqLineStage d 0 input s := rfl
  rw [hexec, execAcqLineStage, hph, hcfg]
  dsimp only
  rw [hrecord, Fin.val_zero, DigSt.ringOf_raw, ← hj, lineCap_raw, ← hk, hnext]
  exact if_pos ⟨hon, hpos, hlast, htotal⟩

end

/-! A line of the raw ring, staged or dropped (R278). -/

section

variable (s : State) {d : Nat} (input : List Int) (k : Nat) (body : List Byte)

theorem State.feed_recordSeq : (s.feed d input).recordSeq d = s.recordSeq d := rfl

theorem State.feed_raw : ((s.feed d input).dig d).raw = (s.dig d).raw := by rw [State.feed_dig]

theorem State.rawLine_digOnly (hd : d < 128) : DigOnly d s ((s.feed d input).stageData d 0 k body) :=
  (s.feed_digOnly d input).trans (State.stageData_ringsOnly _ hd 0 k body).toDigOnly

theorem State.rawLine_staged (hgap : (s.dig d).raw.gap = 0) (hroom : (s.dig d).raw.staged.length + 4 ≤ 256) :
    (((s.feed d input).stageData d 0 k body).dig d).raw.staged = (s.dig d).raw.staged ++ [acqLine 2 0 (s.recordSeq d) k body] ∧
    (((s.feed d input).stageData d 0 k body).dig d).raw.kept = (s.dig d).raw.kept + k ∧
    (((s.feed d input).stageData d 0 k body).dig d).raw.dropped = (s.dig d).raw.dropped := by
  have hraw := s.feed_raw (d := d) input
  have hlines : (s.feed d input).gapLines d 0 = [] := State.gapLines_eq_nil _ _ _ (by rw [DigSt.ringOf_raw, hraw, hgap])
  obtain ⟨asked, h⟩ := (s.feed d input).stageData_raw_room d k body (by rw [hraw, hlines]; exact hroom)
  rw [h, hraw, hlines, State.feed_recordSeq]
  exact ⟨rfl, rfl, rfl⟩

/-- One bit more set leaves a frame of digitisers, registers and free values as it is; for any register, as the kernel would compute with
one written out. -/
theorem State.setBit_digsRegsFree {t : State} (m : Nat) (f : Fld) (b : Bool)
    (h : t = { s with digs := t.digs, regs := t.regs, free := t.free }) :
    t.setBit m f b = { s with digs := (t.setBit m f b).digs, regs := (t.setBit m f b).regs, free := (t.setBit m f b).free } :=
  congrArg (fun u : State => ({ u with regs := (t.setBit m f b).regs } : State)) h

/-- From s to t a line of k units of digitiser d's raw ring has been dropped. -/
structure RawLineDropped (d k : Nat) (s t : State) : Prop where
  raw : (t.dig d).raw = (s.dig d).raw.dropUnits k
  mark : t.bit (acqStat d) ACQ_STAT_GAP = true
  others : ∀ m, m ≠ d → t.dig m = s.dig m
  frame : t = { s with digs := t.digs, regs := t.regs, free := t.free }
  regs : s.regsKept t [acqStat d]

theorem State.rawLine_dropped (hfull : 256 < (s.dig d).raw.staged.length + 4) :
    RawLineDropped d k s ((s.feed d input).stageData d 0 k body) := by
  rw [State.stageData_full (s.feed d input) d k body (by rw [State.feed_raw]; omega)]
  refine ⟨?_, State.setBit_bit _ _ _ _ rfl (by decide), fun m hm => ?_, s.setBit_digsRegsFree _ _ _ rfl, fun m hm => ?_⟩
  · rw [State.setBit_dig, State.updAcqRing_raw, State.feed_raw]
  · rw [State.setBit_dig, State.updAcqRing, State.updDig_dig_ne _ _ _ _ hm, (s.feed_digOnly d input).others m hm]
  · exact State.setBit_reg_ne _ _ _ _ _ (by simpa using hm)

end

end Sys2Proof.Machine
end

section
namespace Sys2Proof.Machine

/-! The statement on acquisition records. -/

/-- Settles O36: a trigger and the time-out of auto mode begin a record on the samples taken by then, and its lines and its last sample act on
what the digitiser holds of it. -/
theorem recordsBeginAndEnd : Obligations.RecordsBeginAndEnd := by
  refine ⟨fun d n a b input l x s hdue hcfg hph hl => ⟨fun y hy hcond => ?_, fun hflag => ?_⟩, fun d a n m j k f input l x s hcfg hph =>
    ⟨fun hm hre => ?_, fun hm hre => ?_, fun hm => ?_, fun hon hl' hj hk hpos hlast htotal => ?_⟩⟩
  · have hexec : exec y.1 s = .next (((s.at y.2.1).feed d.val input).beginRecord d.val a y.2.1 y.2.2.1 x) := by
      simp only [List.mem_cons, List.not_mem_nil, or_false] at hy
      rcases hy with rfl | rfl
      · obtain ⟨ha, hlen, hhit, hauto⟩ := hcond
        exact exec_trigger d s hcfg hph hl ha hlen hhit hauto
      · obtain ⟨hauto, hlen, hhit⟩ := hcond
        exact exec_autoTimeout d s hcfg hph hl hauto hlen hhit
    have h := (s.at y.2.1).beginRecord_fed y.2.2.1 y.2.1 x d.isLt a input hdue
    exact ⟨_, hexec, h.phase, h.cfg.trans hcfg, h.samples.trans hl.symm, h.seq, h.armed, h.acquiring, h.forced, h.flagDue, h.rawOff,
      h.rawOn, h.only.others, h.only.gt, h.only.pinsKept, h.only.engines, h.only.flags⟩
  · have hdig := s.dueFlagsSet_dig d b
    have hview := s.dueFlagsSet_checkView d b
    exact ⟨_, exec_triggerFlagSet s d b hflag, fun z hz hb => s.dueFlagsSet_sets d b hz hb, fun m hm => s.dueFlagsSet_keeps d b hm,
      by rw [hdig], by rw [hdig, ← hph], fun k hk => s.dueFlagsSet_dig_ne d b hk, congrArg (fun v => v.2.1) hview,
      congrArg (fun v => v.2.2.1) hview, congrArg (fun v => v.2.2.2) hview⟩
  · have hended := (s.at m).endRecord_ended (a := a) input d.isLt hm
    have honly := hended.only.trans (State.digIdle_digOnly _ d.val m)
    refine ⟨_, exec_recordLastSample d input s hcfg hph hm, ?_⟩
    rw [hre, if_neg Bool.false_ne_true]
    refine ⟨?_, State.digIdle_acquiring _ _ _, State.digIdle_armed _ _ _, fun hon => ?_, honly.others, honly.gt, honly.pinsKept,
      honly.engines, honly.flags⟩
    · rw [State.digIdle_dig]
    · rw [State.digIdle_dig]
      exact ⟨hended.endLine hon, hended.units hon⟩
  · have hended := (s.at m).endRecord_ended (a := a) input d.isLt hm
    have honly := (hended.only.trans (State.digIdle_digOnly _ d.val m)).trans (State.rearm_digOnly _ (n := m) d.isLt)
    have hphase := State.rearm_phase (((s.at m).feed d.val input).endRecord d.val a n m x false) (m := m) d.isLt
    rw [hended.rangeHold] at hphase
    refine ⟨_, exec_recordLastSample d input s hcfg hph hm, ?_⟩
    rw [hre, if_pos rfl]
    exact ⟨hphase.1, hphase.2, by rw [State.rearm_acquiring _ d.isLt, State.digIdle_acquiring], State.rearm_armed _ d.isLt,
      honly.others, honly.pinsKept, honly.engines, honly.flags⟩
  · exact exec_recordLastSample_other d input s hcfg hph hm
  · have hexec := exec_acqLineStage_raw d input s hcfg hph hon hl' hj hk hpos hlast htotal
    refine ⟨fun hgap _ hroom => ?_, fun hfull => ?_⟩
    · have honly := s.rawLine_digOnly input k (x.rawBody j k l) d.isLt
      obtain ⟨hstaged, hkept, hdropped⟩ := s.rawLine_staged input k (x.rawBody j k l) hgap hroom
      exact ⟨_, hexec, hstaged, hkept, hdropped, honly.others, honly.pinsKept, honly.engines, honly.flags⟩
    · have hdrop := s.rawLine_dropped input k (x.rawBody j k l) hfull
      have hraw := hdrop.raw
      exact ⟨_, hexec, congrArg (·.staged) hraw, congrArg (·.dropped) hraw, congrArg (·.kept) hraw, congrArg (·.gap) hraw, hdrop.mark,
        hdrop.others, hdrop.frame, hdrop.regs⟩

end Sys2Proof.Machine
end

section
namespace Sys2Proof.Machine

/-! Force pulses (R286, R287). -/

section

variable (s : State) (p b g : Nat)

theorem State.showContact_frame (old : State) : s.showContact old p g = { s with outs := (s.showContact old p g).outs } := by
  unfold State.showContact
  split <;> rfl

/-- The force pulse that a request at boundary b gives a pin: its end and its level. -/
def State.pulseAsked (s : State) (p b : Nat) : Nat × Nat :=
  (b + 64 * max 1 (s.ffld (PMU_PULSE (pinCl p) (pinUnit p)) PMU_PULSE_WIDTH), s.ffld (PMU_PULSE (pinCl p) (pinUnit p)) PMU_PULSE_LEVEL)

/-- The pin's pulse becomes x, and its contact is reported. -/
def State.pulseSet (s : State) (p g : Nat) (old : State) (x : Option (Nat × Nat)) : State :=
  (s.updPin p (fun y => { y with pulse := x })).showContact old p g

variable (old : State) (x : Option (Nat × Nat))

theorem State.pulseSet_pin : (s.pulseSet p g old x).pin p = { s.pin p with pulse := x } := by
  rw [State.pulseSet, State.showContact_pin, State.updPin_pin]

theorem State.pulseSet_pin_ne {q : Nat} (hq : q ≠ p) : (s.pulseSet p g old x).pin q = s.pin q := by
  rw [State.pulseSet, State.showContact_pin, State.updPin_pin_ne _ _ _ _ hq]

theorem State.pulseSet_frame :
    s.pulseSet p g old x = { s with pins := (s.pulseSet p g old x).pins, outs := (s.pulseSet p g old x).outs } := by
  rw [State.pulseSet, State.showContact_frame]
  rfl

/-- A unit in a forcing mode without a pulse takes the one that is asked for; with SRC other than 2 it starts no conversion. -/
theorem State.pulsePin_taken (hmode : s.pmuMode p ≠ 0) (hfree : ∀ x, (s.pin p).pulse = some x → x.1 ≤ b)
    (hsrc : s.ffld (ADC_CTRL (pinCl p)) ADC_CTRL_SRC ≠ 2) :
    s.pulsePin p b = s.updPin p (fun x => { x with pulse := some (s.pulseAsked p b) }) := by
  unfold State.pulsePin
  rw [if_neg]
  · exact if_neg fun h => hsrc h.1
  · cases hpulse : (s.pin p).pulse with
    | none => simpa using hmode
    | some x => simpa using ⟨hmode, hfree x hpulse⟩

end

section

variable (port : PortNo) (c : ClNo) (p : PinNo) (b g : Nat) (s : State)

theorem exec_pulseStart {u : Nat} (hu : u < 16) (hr : s.reaches (PMU_PULSE_CMD c.val))
    (hmode : (s.atCluster c.val b).pmuMode (16 * c.val + u) ≠ 0) (hfree : ∀ x, (s.pin (16 * c.val + u)).pulse = some x → x.1 ≤ b)
    (hsrc : s.ffld (ADC_CTRL c.val) ADC_CTRL_SRC ≠ 2) :
    exec (.pulseStart port c (BitVec.ofNat 16 (2 ^ u)) b) s = .next ((s.atCluster c.val b).pulseSet (16 * c.val + u) b
      (s.atCluster c.val b) (some (s.pulseAsked (16 * c.val + u) b))) := by
  have harm : exec (.pulseStart port c (BitVec.ofNat 16 (2 ^ u)) b) s = execPulseStart port c (BitVec.ofNat 16 (2 ^ u)) b s := rfl
  have hmask : (BitVec.ofNat 16 (2 ^ u)).toNat = 2 ^ u := by
    rw [BitVec.toNat_ofNat, Nat.mod_eq_of_lt (Nat.pow_lt_pow_right (by decide) hu)]
  have hcl : pinCl (16 * c.val + u) = c.val := by unfold pinCl; omega
  rw [harm, execPulseStart, s.reach_open _ _ _ hr.1 hr.2, hmask, bitsOf_two_pow u hu, List.foldl_cons, List.foldl_nil,
    State.pulsePin_taken _ _ b hmode hfree (by rw [hcl]; exact hsrc)]
  rfl

theorem exec_pulseEnd {x : Nat × Nat} (hx : (s.pin p.val).pulse = some x) (hg : x.1 = g) :
    exec (.pulseEnd p g) s = .next ((s.at g).pulseSet p.val g s none) := by
  have harm : exec (.pulseEnd p g) s = execPulseEnd p g s := rfl
  rw [harm, execPulseEnd, hx]
  exact if_pos hg

end

end Sys2Proof.Machine
end

section
namespace Sys2Proof.Machine

/-! The start of a cluster's converter (R289-R292). -/

/-- A converter that has no sequence and no start in hand or refused. -/
structure Adc.Idle (a : Adc) : Prop where
  starts : a.starts = []
  seq : a.seq = none
  waiting : a.waiting = none
  refused : a.refused = none

theorem Adc.Idle.not_sameStart {a : Adc} (h : a.Idle) (g : Nat) : a.sameStart g = false := by
  unfold Adc.sameStart
  rw [h.starts, h.seq, h.waiting, h.refused]
  rfl

section

variable (s : State) (c : Nat)

theorem State.updAdc_adc (f : Adc → Adc) : (s.updAdc c f).adc c = f (s.adc c) := by
  rw [State.updAdc, State.adc, State.updCl_cl]
  rfl

theorem State.updAdc_cl_ne (f : Adc → Adc) {k : Nat} (hk : k ≠ c) : (s.updAdc c f).cl k = s.cl k := State.updCl_cl_ne _ _ _ _ hk

theorem State.updAdc_reg (f : Adc → Adc) (a : Nat) : (s.updAdc c f).reg a = s.reg a := by rfl

theorem State.updAdc_fld (f : Adc → Adc) (a : Nat) (g : Fld) : (s.updAdc c f).fld a g = s.fld a g := by rfl

theorem State.updAdc_updAdc (f h : Adc → Adc) : (s.updAdc c f).updAdc c h = s.updAdc c (fun y => h (f y)) := by
  have hcl : ({ (s.updAdc c f).cl c with adc := h ((s.updAdc c f).cl c).adc } : ClSt) = { s.cl c with adc := h (f (s.adc c)) } := by
    rw [State.updAdc, State.updCl_cl]
    rfl
  have htbl := tput_tput_same (fun _ => ({} : ClSt)) s.clusters c { s.cl c with adc := f (s.cl c).adc }
      { s.cl c with adc := h (f (s.adc c)) }
  rw [State.updAdc, State.updCl, hcl]
  exact congrArg (fun t => ({ s with clusters := t } : State)) htbl

theorem State.countSat_one_fld (a : Nat) (f : Fld) (h : f.lo ≤ f.hi) (hf : f.hi < 32) :
    (s.countSat a f 1).fld a f = min (2 ^ f.width - 1) (s.fld a f + 1) := by
  rw [State.countSat_fld _ _ _ _ h hf, satAdd, min_comm]

theorem State.adcMissed_fld : (s.adcMissed c).fld (ADC_QSTAT c) ADC_QSTAT_MISSED =
    min (2 ^ ADC_QSTAT_MISSED.width - 1) (s.fld (ADC_QSTAT c) ADC_QSTAT_MISSED + 1) := by
  rw [State.adcMissed, State.countSat_one_fld _ _ _ (by decide) (by decide)]

theorem State.adcMissed_regsKept : s.regsKept (s.adcMissed c) [ADC_QSTAT c] := s.setFld_regsKept _ _ (List.mem_singleton_self _)

theorem State.adcCatchUp_of_none (g : Nat) (h : (s.adc c).starts = []) : s.adcCatchUp c g = s := by
  unfold State.adcCatchUp
  rw [h]
  rfl

/-- The starts in hand of a converter become l. -/
def State.setStarts (s : State) (c : Nat) (l : List ConvStart) : State := s.updAdc c (fun y => { y with starts := l })

theorem State.setStarts_adc (l : List ConvStart) : (s.setStarts c l).adc c = { s.adc c with starts := l } := s.updAdc_adc c _

/-- A start alone in hand is taken at its grain, and not before. -/
theorem State.adcCatchUp_one (g : Nat) (x : ConvStart) :
    (s.setStarts c [x]).adcCatchUp c g = if x.grain ≤ g then (s.setStarts c []).adcTake c x else s.setStarts c [x] := by
  have hstarts : ((s.setStarts c [x]).adc c).starts = [x] := congrArg Adc.starts (s.setStarts_adc c [x])
  have hclear : (s.setStarts c [x]).updAdc c (fun y => { y with starts := [] }) = s.setStarts c [] := s.updAdc_updAdc c _ _
  unfold State.adcCatchUp
  rw [hstarts, List.length_singleton]
  simp only [State.adcSettle, hstarts, hclear]

theorem State.not_interrupted_of_accepts (h : s.adcAccepts c false = true) :
    s.interrupted c = false ∧ (s.hasMode c 3 || s.hasMode c 4) = true := by
  simp only [State.adcAccepts, Bool.and_eq_true, Bool.not_eq_true', Bool.false_and, Bool.or_false] at h
  exact ⟨h.1.1.1, h.2⟩

theorem State.adcAccepts_of_no_mode (h3 : s.hasMode c 3 = false) (h4 : s.hasMode c 4 = false) : s.adcAccepts c false = false := by
  simp only [State.adcAccepts, h3, h4, Bool.false_and, Bool.or_false, Bool.and_false]

/-- The start that an event at grain e gives (R289). -/
def State.startOf (s : State) (c e : Nat) : ConvStart := { grain := e + 64 * s.ffld (ADC_DELAY c) ADC_DELAY_DELAY }

variable (e : Nat)

/-- The sequence of a start whose grain is e is prepared. -/
def State.adcPrepared (s : State) (c e : Nat) : State := s.updAdc c (fun y =>
  { y with starts := [], seq := some { start := { grain := e }, begin_ := s.adcBegin c e } })

variable (h : (s.adc c).Idle)
include h

/-- An idle converter that accepts starts prepares the sequence of a start that it takes. -/
theorem State.adcTake_idle (hacc : s.adcAccepts c false = true) : (s.setStarts c []).adcTake c { grain := e } = s.adcPrepared c e := by
  obtain ⟨hfree, hmode⟩ := s.not_interrupted_of_accepts c hacc
  have hcl : (s.setStarts c []).cl c = { s.cl c with adc := { s.adc c with starts := [] } } := State.updCl_cl _ _ _
  have hint : (s.setStarts c []).interrupted c = false := by rw [State.interrupted, hcl]; exact hfree
  have hseq : ((s.setStarts c []).adc c).seq = none := by rw [State.setStarts_adc]; exact h.seq
  have hbegin : (s.setStarts c []).adcBegin c e = s.adcBegin c e := by
    unfold State.adcBegin
    rw [State.setStarts_adc]
    rfl
  have hmode' : ((s.setStarts c []).hasMode c 3 || (s.setStarts c []).hasMode c 4) = true := hmode
  unfold State.adcTake
  dsimp only
  rw [hint, hmode', hseq, hbegin, if_neg (by decide)]
  exact s.updAdc_updAdc c _ _

theorem State.adcEvent_idle : s.adcEvent c e = if s.adcAccepts c false then (s.setStarts c [s.startOf c e]).adcCatchUp c e
    else (s.adcMissed c).updAdc c (fun y => { y with refused := some (s.startOf c e).grain }) := by
  have hins : s.updAdc c (fun y => { y with starts := startInsert (s.startOf c e) y.starts }) = s.setStarts c [s.startOf c e] := by
    have hone : startInsert (s.startOf c e) (s.cl c).adc.starts = [s.startOf c e] := congrArg (startInsert _) h.starts
    simp only [State.setStarts, State.updAdc, State.updCl, hone]
  unfold State.adcEvent
  dsimp only
  rw [s.adcCatchUp_of_none c e h.starts, h.not_sameStart, if_neg Bool.false_ne_true]
  cases hacc : s.adcAccepts c false with
  | false => rfl
  | true => exact congrArg (fun t => State.adcCatchUp t c e) hins

theorem State.adcEvent_now (hacc : s.adcAccepts c false = true) (hd : s.ffld (ADC_DELAY c) ADC_DELAY_DELAY = 0) :
    s.adcEvent c e = s.adcPrepared c e := by
  have hx : s.startOf c e = { grain := e } := by rw [State.startOf, hd]; rfl
  rw [s.adcEvent_idle c e h, if_pos hacc, hx, State.adcCatchUp_one, if_pos (le_refl e), s.adcTake_idle c e h hacc]

theorem State.adcEvent_later (hacc : s.adcAccepts c false = true) (hd : 0 < s.ffld (ADC_DELAY c) ADC_DELAY_DELAY) :
    s.adcEvent c e = s.setStarts c [s.startOf c e] := by
  have hlate : ¬ (s.startOf c e).grain ≤ e := by
    rw [State.startOf]
    dsimp only
    omega
  rw [s.adcEvent_idle c e h, if_pos hacc, State.adcCatchUp_one, if_neg hlate]

theorem State.adcEvent_missed (h3 : s.hasMode c 3 = false) (h4 : s.hasMode c 4 = false) :
    s.adcEvent c e = (s.adcMissed c).updAdc c (fun y => { y with refused := some (s.startOf c e).grain }) := by
  rw [s.adcEvent_idle c e h, s.adcAccepts_of_no_mode c h3 h4, if_neg Bool.false_ne_true]

end

/-- For any register, as the kernel would compute with one written out. -/
theorem State.frame_of_countSat_updAdc (s t : State) (a k c : Nat) (f : Fld) (x : Adc → Adc) (h : t = (s.countSat a f k).updAdc c x) :
    t = { s with regs := t.regs, clusters := t.clusters } := by
  subst h
  rfl

/-! The two commands that bring a start event, a partner's and the timer's (R290). -/

section

variable (port : PortNo) (c : ClNo) (g : Nat) (s : State)

/-- The state at grain g in which a start event comes, with the links of the region seen or not. -/
def State.eventAt (s : State) (g : Nat) (rg : Tbl RgSt) : State := { s with gt := max s.gt g, regions := rg }

theorem exec_startEvent {y : Instr × Prop} (hy : y ∈ [(Instr.adcStart port c g, s.reaches (ADC_CMD c.val)),
    (Instr.adcTimerEvent c g, s.ffld (ADC_CTRL c.val) ADC_CTRL_SRC = 1 ∧ (s.adc c.val).timerSince < g ∧
      (g - (s.adc c.val).timerSince) % (64 * max 1 (s.inForce (ADC_TIMER c.val)).toNat) = 0)]) (h : y.2) :
    ∃ rg, exec y.1 s = .next ((s.eventAt g rg).adcEvent c.val g) := by
  simp only [List.mem_cons, List.not_mem_nil, or_false] at hy
  rcases hy with rfl | rfl
  · exact ⟨_, congrArg Host.Outcome.next (s.reach_open port.val (ADC_CMD c.val) _ h.1 h.2)⟩
  · exact ⟨s.regions, if_pos h⟩

end

/-- Settles O37: a request sets the pulse of one pin and an end clears it; an idle converter's event is a sequence at once, a start in hand
or a missed one, for either command. -/
theorem pulsesAndConversionStarts : Obligations.PulsesAndConversionStarts := by
  unfold Obligations.PulsesAndConversionStarts
  intro port c p b g s
  refine ⟨fun u hu hr hmode hfree hsrc => ?_, fun x hx hg => ?_, fun y hy hcond => ?_⟩
  · have hcl : pinCl (16 * c.val + u) = c.val := by unfold pinCl; omega
    have hun : pinUnit (16 * c.val + u) = u := by unfold pinUnit; omega
    refine ⟨_, exec_pulseStart port c b s hu hr hmode hfree hsrc, ?_, fun q hq => State.pulseSet_pin_ne _ _ _ _ _ hq,
      State.pulseSet_frame ..⟩
    rw [State.pulseSet_pin, State.pulseAsked, hcl, hun]
    rfl
  · exact ⟨_, exec_pulseEnd p g s hx hg, State.pulseSet_pin ..,
      fun q hq => State.pulseSet_pin_ne _ _ _ _ _ hq, State.pulseSet_frame ..⟩
  · obtain ⟨rg, hexec⟩ := exec_startEvent port c g s hy hcond
    refine ⟨fun hst hsq hw hre hacc hd => ?_, fun hst hsq hw hre hacc hd => ?_, fun hst hsq hw hre h3 h4 => ?_⟩
    · rw [State.adcEvent_now (s.eventAt g rg) c.val g ⟨hst, hsq, hw, hre⟩ hacc hd] at hexec
      refine ⟨_, _, hexec, by rw [State.adcPrepared, State.updAdc_adc], rfl, rfl, ?_, fun k hk => State.updAdc_cl_ne _ _ _ hk, rfl⟩
      dsimp only
      simp only [State.adcBegin, Bool.or_eq_true, beq_iff_eq, or_assoc]
      rfl
    · rw [State.adcEvent_later (s.eventAt g rg) c.val g ⟨hst, hsq, hw, hre⟩ hacc hd] at hexec
      exact ⟨_, _, hexec, by rw [State.setStarts_adc], rfl, by rw [State.setStarts_adc]; exact hsq,
          fun k hk => State.updAdc_cl_ne _ _ _ hk, rfl⟩
    · rw [State.adcEvent_missed (s.eventAt g rg) c.val g ⟨hst, hsq, hw, hre⟩ h3 h4] at hexec
      refine ⟨_, hexec, ?_, by rw [State.updAdc_adc]; exact hsq, fun k hk => State.updAdc_cl_ne _ _ _ hk,
        State.frame_of_countSat_updAdc (s.eventAt g rg) _ _ _ _ _ _ rfl, fun a ha => ?_⟩
      · rw [State.updAdc_fld, State.adcMissed_fld]
        rfl
      · rw [State.updAdc_reg, State.adcMissed_regsKept _ _ a ha]
        rfl

end Sys2Proof.Machine
end

section
namespace Sys2Proof.Machine

/-! An entry of a converter's queue as a word (Table 10-5). -/

/-- The word of an entry that is written with OVR as `ovr` says. -/
def entryWord (clip clamp lp unver bad ovr : Bool) (tag result : Nat) : Word :=
  BitVec.ofNat 32 (queueEntry clip clamp lp unver bad tag result + (if ovr then 2 ^ 30 else 0))

/-- A flag of a word is a bit of its number. -/
theorem getB_of_toNat {w : Word} {n : Nat} {b : Bool} (h : w.toNat / 2 ^ n % 2 = b.toNat) : getB w n = b := by
  rw [getB, BitVec.getLsbD, ← nbit_eq_testBit, nbit, h]
  cases b <;> rfl

section

variable (clip clamp lp unver bad ovr : Bool) {tag result : Nat} (ht : tag < 2 ^ 8) (hr : result < 2 ^ 16)
include ht hr

/-- The fields of an entry side by side. -/
theorem entryWord_toNat : (entryWord clip clamp lp unver bad ovr tag result).toNat =
    2 ^ 31 + 2 ^ 30 * ovr.toNat + 2 ^ 29 * clip.toNat + 2 ^ 28 * clamp.toNat + 2 ^ 27 * lp.toNat + 2 ^ 26 * unver.toNat +
      2 ^ 25 * bad.toNat + 2 ^ 16 * tag + result := by
  have hflag (b : Bool) (n : Nat) : (if b then 2 ^ n else 0) = 2 ^ n * b.toNat := by cases b <;> simp
  have hle (b : Bool) : b.toNat ≤ 1 := by cases b <;> decide
  have := hle ovr; have := hle clip; have := hle clamp; have := hle lp; have := hle unver; have := hle bad
  rw [entryWord, queueEntry, BitVec.toNat_ofNat, Nat.mod_eq_of_lt] <;> simp only [hflag] <;> omega

theorem entryWord_fields :
    getB (entryWord clip clamp lp unver bad ovr tag result) 31 = true ∧ getB (entryWord clip clamp lp unver bad ovr tag result) 30 = ovr ∧
    getB (entryWord clip clamp lp unver bad ovr tag result) 27 = lp ∧ getB (entryWord clip clamp lp unver bad ovr tag result) 25 = bad ∧
    getF (entryWord clip clamp lp unver bad ovr tag result) ⟨23, 16⟩ = tag ∧
    getF (entryWord clip clamp lp unver bad ovr tag result) ⟨15, 0⟩ = result := by
  have hle (b : Bool) : b.toNat ≤ 1 := by cases b <;> decide
  have := hle ovr; have := hle clip; have := hle clamp; have := hle lp; have := hle unver; have := hle bad
  have hw := entryWord_toNat clip clamp lp unver bad ovr ht hr
  refine ⟨getB_of_toNat ?_, getB_of_toNat ?_,
    getB_of_toNat ?_, getB_of_toNat ?_, ?_, ?_⟩
  all_goals
    simp only [getF, Fld.width, hw, Bool.toNat_true]
    omega

end

/-! The averaged code (R295). -/

theorem sum_codes_le (codes : List (BitVec 12)) : (codes.map (·.toNat)).sum ≤ codes.length * 4095 := by
  have hle : ∀ x ∈ codes.map (·.toNat), x ≤ 4095 := by
    intro x hx
    obtain ⟨k, _, rfl⟩ := List.mem_map.mp hx
    exact Nat.le_of_lt_succ k.isLt
  simpa using List.sum_le_card_nsmul _ _ hle

theorem average_lt {n : Nat} {codes : List (BitVec 12)} (h : codes.length = 2 ^ n) : average n (codes.map (·.toNat)).sum < 2 ^ 12 := by
  have hsum := sum_codes_le codes
  rw [h] at hsum
  unfold average
  split
  · next h0 =>
    rw [h0] at hsum
    omega
  · next h0 =>
    obtain ⟨k, rfl⟩ : ∃ k, n = k + 1 := ⟨n - 1, by omega⟩
    rw [Nat.add_sub_cancel]
    refine Nat.div_lt_of_lt_mul ?_
    rw [pow_succ] at hsum ⊢
    have := Nat.two_pow_pos k
    omega

theorem dcCorrected_of_zero {items : List Int} (bits result : Nat) (h : ∀ y ∈ items, y = 0) :
    dcCorrected items bits result = result := by
  rw [dcCorrected, if_pos]
  simpa using h

end Sys2Proof.Machine
end

section
namespace Sys2Proof.Machine

/-! A sequence begins (R289, R294). -/

section

variable (s : State) (c g : Nat) (q : ConvSeq)

theorem State.updAdc_cl (f : Adc → Adc) : (s.updAdc c f).cl c = { s.cl c with adc := f (s.adc c) } := State.updCl_cl _ _ _

theorem State.updAdc_bit (f : Adc → Adc) (a : Nat) (g : Fld) : (s.updAdc c f).bit a g = s.bit a g := by rfl

/-- The sequence of an ordinary start with the settings that are in force as it begins. -/
def State.begunSeq (s : State) (c : Nat) (q : ConvSeq) : ConvSeq :=
  { q with
    begun := true, lowPower := s.adcLowPower c, chan := s.ffld (ADC_CTRL c) ADC_CTRL_CHAN, avg := s.avgShift c
    mode := s.pmuMode (16 * c + s.ffld (ADC_CTRL c) ADC_CTRL_CHAN)
    range := s.ffld (PMU_CTRL c (s.ffld (ADC_CTRL c) ADC_CTRL_CHAN % 16)) PMU_CTRL_RANGE }

/-- The sequence has begun, and ADC_STAT shows it. -/
def State.sequenceBegun (s : State) (c : Nat) (q : ConvSeq) : State :=
  ((s.updAdc c (fun y => { y with seq := some (s.begunSeq c q) })).setBit (ADC_STAT c) ADC_STAT_BUSY true).setBit
    (ADC_STAT c) ADC_STAT_POWERED true

theorem State.setBit_regsKept (a : Nat) (f : Fld) (b : Bool) : s.regsKept (s.setBit a f b) [a] :=
  s.setFld_regsKept f _ (List.mem_singleton_self a)

theorem State.setBit_adc (a : Nat) (f : Fld) (b : Bool) : (s.setBit a f b).adc c = s.adc c := by rfl

theorem State.sequenceBegun_seq : ((s.sequenceBegun c q).adc c).seq = some (s.begunSeq c q) := by
  rw [State.sequenceBegun, State.setBit_adc, State.setBit_adc, State.updAdc_adc]

theorem State.sequenceBegun_busy : (s.sequenceBegun c q).bit (ADC_STAT c) ADC_STAT_BUSY = true := by
  rw [State.sequenceBegun, State.setBit_bit_apart _ _ _ _ _ (by decide), State.setBit_bit _ _ _ _ rfl (by decide)]

theorem State.sequenceBegun_powered : (s.sequenceBegun c q).bit (ADC_STAT c) ADC_STAT_POWERED = true :=
  State.setBit_bit _ _ _ _ rfl (by decide)

theorem State.sequenceBegun_cl_ne {k : Nat} (hk : k ≠ c) : (s.sequenceBegun c q).cl k = s.cl k := by
  rw [State.sequenceBegun, State.setBit_cl, State.setBit_cl, State.updAdc_cl_ne _ _ _ hk]

/-- A register of the state is written once more; for any register, as the kernel would compute with one written out. -/
theorem State.setBit_rest {t : State} (a : Nat) (f : Fld) (b : Bool) (h : t = { s with regs := t.regs, clusters := t.clusters }) :
    t.setBit a f b = { s with regs := (t.setBit a f b).regs, clusters := (t.setBit a f b).clusters } :=
  congrArg (fun u : State => ({ u with regs := (t.setBit a f b).regs } : State)) h

theorem State.sequenceBegun_frame :
    s.sequenceBegun c q = { s with regs := (s.sequenceBegun c q).regs, clusters := (s.sequenceBegun c q).clusters } :=
  s.setBit_rest _ _ _ (s.setBit_rest _ _ _ rfl)

theorem State.sequenceBegun_regsKept : s.regsKept (s.sequenceBegun c q) [ADC_STAT c] := fun a ha => by
  rw [State.sequenceBegun, State.setBit_regsKept _ _ _ _ a ha, State.setBit_regsKept _ _ _ _ a ha, State.updAdc_reg]

end

theorem exec_adcSequenceBegin (c : ClNo) (g : Nat) (s : State) {q : ConvSeq} (hst : (s.adc c.val).starts = [])
    (hq : (s.adc c.val).seq = some q) (hg : q.begin_ = g) (hb : q.begun = false) (hf : q.start.flow = false)
    (hself : q.start.selfTest = false) : exec (.adcSequenceBegin c g) s = .next ((s.at g).sequenceBegun c.val q) := by
  have harm : exec (.adcSequenceBegin c g) s = execAdcSequenceBegin c g s := rfl
  rw [harm, execAdcSequenceBegin, s.adcCatchUp_of_none c.val g hst]
  dsimp only
  rw [hq]
  dsimp only
  rw [if_pos ⟨hg, hb⟩, hf, hself]
  rfl

end Sys2Proof.Machine
end

section
namespace Sys2Proof.Machine

/-! A sequence ends (R295-R299). -/

section

variable (s : State) (c g : Nat)

/-! What the conversions of the read-back channel note of the DACs (R182). -/

theorem State.latchDacs_other {q : ConvSeq} (hq : (s.adc c).seq = some q) (h : q.chan ≠ 0x87) : s.latchDacs c g = s := by
  unfold State.latchDacs
  rw [hq]
  exact if_neg fun k => h k.2

/-- The DACs are noted with the sequence, and nothing else of the converter, of its cluster or of a register changes. -/
structure DacsNoted (c : Nat) (q : ConvSeq) (s t : State) : Prop where
  own : ∃ l, t.cl c = { s.cl c with adc := { s.adc c with seq := some { q with dacs := l } } }
  rest : t = { s with clusters := t.clusters, free := t.free }

theorem DacsNoted.reg {c : Nat} {q : ConvSeq} {s t : State} (h : DacsNoted c q s t) (a : Nat) : t.reg a = s.reg a := by
  rw [h.rest]
  rfl

theorem State.latchDacs_noted {q : ConvSeq} (hq : (s.adc c).seq = some q) : DacsNoted c q s (s.latchDacs c g) := by
  unfold State.latchDacs
  rw [hq]
  dsimp only
  split
  · exact ⟨⟨_, by rw [State.useFree_cl, State.updAdc_cl]⟩, rfl⟩
  · exact ⟨⟨q.dacs, by rw [← hq]; rfl⟩, rfl⟩

/-! The result enters the queue (R298, R299). -/

/-- For any register, as the kernel would compute with one written out. -/
theorem State.countSat_updAdc_fbitF (a k b : Nat) (f h : Fld) (x : Adc → Adc) :
    ((s.countSat a f k).updAdc c x).fbitF b h = s.fbitF b h := by rfl

theorem State.adcDemand_off (h : s.fbitF (ADC_CTRL c) ADC_CTRL_DMA_EN = false) : s.adcDemand c = s := by
  unfold State.adcDemand
  rw [h]
  rfl

section

variable (entry : Nat) (hdma : s.fbitF (ADC_CTRL c) ADC_CTRL_DMA_EN = false)
include hdma

theorem State.adcPush_room (h : (s.adc c).queue.length < 256) : s.adcPush c entry = s.updAdc c (fun y => { y with
    queue := y.queue ++ [BitVec.ofNat 32 (entry + (if y.overrun then 2 ^ 30 else 0))], overrun := false }) := by
  unfold State.adcPush
  exact (if_neg (Nat.not_le.mpr h)).trans (State.adcDemand_off _ c hdma)

theorem State.adcPush_full (h : 256 ≤ (s.adc c).queue.length) :
    s.adcPush c entry = (s.countSat (ADC_QSTAT c) ADC_QSTAT_DROP 1).updAdc c (fun y => { y with overrun := true }) := by
  unfold State.adcPush
  exact (if_pos h).trans (State.adcDemand_off _ c (by rw [State.countSat_updAdc_fbitF, hdma]))

end

/-! The converter afterwards (R292-R294). -/

/-- The converter is idle after a sequence that ended at grain g with no start pending. -/
structure SequenceOver (c g : Nat) (s t : State) : Prop where
  own : t.cl c = { s.cl c with adc := { s.adc c with seq := none, lastEnd := some g } }
  others : ∀ k, k ≠ c → t.cl k = s.cl k
  rest : t = { s with regs := t.regs, clusters := t.clusters }
  busy : t.bit (ADC_STAT c) ADC_STAT_BUSY = false
  regs : s.regsKept t [ADC_STAT c]

/-- The converter powers down. -/
theorem SequenceOver.powerDown {s t : State} (h : SequenceOver c g s t) :
    SequenceOver c g s (t.setBit (ADC_STAT c) ADC_STAT_POWERED false) where
  own := by rw [State.setBit_cl, h.own]
  others k hk := by rw [State.setBit_cl, h.others k hk]
  rest := s.setBit_rest _ _ _ h.rest
  busy := by rw [State.setBit_bit_apart _ _ _ _ _ (by decide), h.busy]
  regs := State.regsKept_trans h.regs (t.setBit_regsKept _ _ _)

/-- The sequence is over and the converter still powered. -/
def State.sequenceOver (s : State) (c g : Nat) : State :=
  (s.setBit (ADC_STAT c) ADC_STAT_BUSY false).updAdc c (fun y => { y with seq := none, lastEnd := some g })

/-- For any register, as the kernel would compute with one written out. -/
theorem State.frame_of_setBit_updAdc (t : State) (a : Nat) (f : Fld) (b : Bool) (x : Adc → Adc) (h : t = (s.setBit a f b).updAdc c x) :
    t = { s with regs := t.regs, clusters := t.clusters } := by
  subst h
  rfl

theorem State.sequenceOver_over : SequenceOver c g s (s.sequenceOver c g) where
  own := by rw [State.sequenceOver, State.updAdc_cl, State.setBit_cl, State.setBit_adc]
  others k hk := by rw [State.sequenceOver, State.updAdc_cl_ne _ _ _ hk, State.setBit_cl]
  rest := s.frame_of_setBit_updAdc c _ _ _ _ _ rfl
  busy := by rw [State.sequenceOver, State.updAdc_bit, State.setBit_bit _ _ _ _ rfl (by decide)]
  regs a ha := by rw [State.sequenceOver, State.updAdc_reg, s.setBit_regsKept _ _ _ a ha]

theorem State.adcAfter_over (lp : Bool) (h : (s.adc c).waiting = none) : SequenceOver c g s (s.adcAfter c g lp) := by
  unfold State.adcAfter
  dsimp only
  rw [State.setBit_adc, h]
  dsimp only
  split
  · exact s.sequenceOver_over c g
  · exact (s.sequenceOver_over c g).powerDown

theorem SequenceOver.adc {s t : State} (h : SequenceOver c g s t) : t.adc c = { s.adc c with seq := none, lastEnd := some g } :=
  congrArg ClSt.adc h.own

theorem SequenceOver.flow {s t : State} (h : SequenceOver c g s t) (n : Nat) : t.flow n = s.flow n := by
  rw [h.rest]
  rfl

/-! No service command and no MEASURE entry asks for more. -/

theorem State.nextSelfTest_none (h : (s.cl c).svc = none) : s.nextSelfTest c g = s := by
  unfold State.nextSelfTest
  rw [h]

theorem State.flowConvert_none (h : ∀ n, n < 8 → (s.flow n).waiting = .none) : s.flowConvert c g = s := by
  have hdemand : s.flowDemand c g = none := by
    unfold State.flowDemand
    rw [List.findSome?_eq_none_iff]
    intro n hn
    rw [h n (List.mem_range.mp hn)]
  unfold State.flowConvert
  rw [hdemand]

end

/-- The state in which the entry of a sequence that ends at grain g is written. -/
def State.endAt (s : State) (g n : Nat) : State := { s.at g with free := s.free + n }

section

variable (s : State) (g n : Nat)

theorem State.endAt_adc (c : Nat) : (s.endAt g n).adc c = s.adc c := by rfl
theorem State.endAt_cl (c : Nat) : (s.endAt g n).cl c = s.cl c := by rfl
theorem State.endAt_flow (k : Nat) : (s.endAt g n).flow k = s.flow k := by rfl
theorem State.endAt_fld (a : Nat) (f : Fld) : (s.endAt g n).fld a f = s.fld a f := by rfl
theorem State.countSat_adc (a c : Nat) (f : Fld) : (s.countSat a f n).adc c = s.adc c := by rfl
theorem State.updAdc_flow (c : Nat) (f : Adc → Adc) (k : Nat) : (s.updAdc c f).flow k = s.flow k := by rfl

end

/-- The result of a sequence that ends at grain g is pushed. -/
def State.resultPushed (s : State) (c g : Nat) (q : ConvSeq) (codes : List (BitVec 12)) : State :=
  ((s.latchDacs c g).endAt g q.dacs.length).adcPush c
    (((s.latchDacs c g).endAt g q.dacs.length).adcEntry c q (q.codes (s.latchDacs c g).free codes))

/-- An ordinary sequence ends: its entry is pushed and the converter goes on, when nothing else asks for a conversion. -/
theorem exec_adcSequenceEnd (c : ClNo) (g : Nat) (codes : List (BitVec 12)) (s : State) {q : ConvSeq} {u : State}
    (hst : (s.adc c.val).starts = []) (hq : ((s.latchDacs c.val g).adc c.val).seq = some q) (hb : q.begun = true)
    (hf : q.start.flow = false) (hself : q.start.selfTest = false) (hg : g = q.endGrain q.avg q.lowPower) (hlen : codes.length = 2 ^ q.avg)
    (hu : s.resultPushed c.val g q codes = u) (hw : (u.adc c.val).waiting = none) (hsvc : (u.cl c.val).svc = none)
    (hflow : ∀ n, n < 8 → (u.flow n).waiting = .none) :
    exec (.adcSequenceEnd c g codes) s = .next (u.adcAfter c.val g q.lowPower) := by
  have harm : exec (.adcSequenceEnd c g codes) s = execAdcSequenceEnd c g codes s := rfl
  have hover := u.adcAfter_over c.val g q.lowPower hw
  have hsvc' : ((u.adcAfter c.val g q.lowPower).cl c.val).svc = none := by rw [hover.own]; exact hsvc
  have hflow' : ∀ n, n < 8 → ((u.adcAfter c.val g q.lowPower).flow n).waiting = .none := fun n hn =>
      by rw [hover.flow]; exact hflow n hn
  rw [harm, execAdcSequenceEnd, s.adcCatchUp_of_none c.val g hst]
  dsimp only
  rw [hq]
  dsimp only
  rw [if_pos ⟨hb, hg, hlen⟩, hf, State.countSelfTest, hself]
  simp only [Bool.false_eq_true, if_false, false_and]
  rw [State.resultPushed, State.endAt] at hu
  rw [hu, State.nextSelfTest_none _ _ _ hsvc', State.flowConvert_none _ _ _ hflow']

/-- The entry of a pin's sequence with no correction in force. -/
theorem State.adcEntry_pin (s : State) (c : Nat) (q : ConvSeq) (ns : List Nat) (hch : q.chan < 16)
    (hitems : ∀ y ∈ s.dcItems c (some q.chan) q.range, y = 0) :
    ∃ clip clamp unver, s.adcEntry c q ns = queueEntry clip clamp q.lowPower unver false q.chan (average q.avg ns.sum) := by
  have hbad : (!((sarPin c q.chan).isSome || isSupply q.chan)) = false := by
    unfold sarPin
    rw [if_pos hch]
    rfl
  have hres : s.adcResult c q ns = average q.avg ns.sum := by
    unfold State.adcResult
    rw [if_pos hch, dcCorrected_of_zero _ _ hitems]
  unfold State.adcEntry
  dsimp only
  rw [hbad, hres]
  exact ⟨_, _, _, rfl⟩

end Sys2Proof.Machine
end

section
namespace Sys2Proof.Machine

/-! An ordinary sequence with its settings, and no other start or service (R298, R299). -/

/-- An ordinary sequence of a converter is in progress, alone: no start is in hand or pending, DMA does not drain the queue, and neither a
service command nor a flow entry asks for conversions. -/
structure SequenceAlone (s : State) (c : Nat) (q : ConvSeq) : Prop where
  starts : (s.adc c).starts = []
  seq : (s.adc c).seq = some q
  begun : q.begun = true
  flow : q.start.flow = false
  selfTest : q.start.selfTest = false
  svc : (s.cl c).svc = none
  flows : ∀ n, n < 8 → (s.flow n).waiting = .none
  waiting : (s.adc c).waiting = none
  undrained : s.fbitF (ADC_CTRL c) ADC_CTRL_DMA_EN = false

theorem adcQstat_ne_adcStat (c : Nat) : ADC_QSTAT c ≠ ADC_STAT c := by
  unfold ADC_QSTAT ADC_STAT
  omega

section

variable (c : ClNo) (g : Nat) (codes : List (BitVec 12)) (s : State) {q : ConvSeq} (h : SequenceAlone s c.val q)
  (hg : g = q.endGrain q.avg q.lowPower) (hlen : codes.length = 2 ^ q.avg)
include h hg hlen

/-- The result of a pin enters a queue with room. -/
theorem adcSequenceEnd_queued (hroom : (s.adc c.val).queue.length < 256) (hch : q.chan < 16)
    (hitems : ∀ y ∈ s.dcItems c.val (some q.chan) q.range, y = 0) :
    ∃ clip clamp unver t, exec (.adcSequenceEnd c g codes) s = .next t ∧
      SequenceOver c.val g ((s.endAt g q.dacs.length).updAdc c.val (fun y => { y with
        queue := y.queue ++ [entryWord clip clamp q.lowPower unver false y.overrun q.chan (average q.avg (codes.map (·.toNat)).sum)]
        overrun := false })) t := by
  have hother : q.chan ≠ 0x87 := by omega
  have hcodes : q.codes s.free codes = codes.map (·.toNat) := if_neg hother
  have hlatch := s.latchDacs_other c.val g h.seq hother
  obtain ⟨clip, clamp, unver, hentry⟩ := (s.endAt g q.dacs.length).adcEntry_pin c.val q (codes.map (·.toNat)) hch hitems
  have hres : s.resultPushed c.val g q codes = (s.endAt g q.dacs.length).adcPush c.val
      (queueEntry clip clamp q.lowPower unver false q.chan (average q.avg (codes.map (·.toNat)).sum)) := by
    rw [State.resultPushed, hlatch, hcodes, hentry]
  refine ⟨clip, clamp, unver, _, exec_adcSequenceEnd c g codes s h.starts (by rw [hlatch]; exact h.seq) h.begun h.flow h.selfTest hg hlen
    (hres.trans (State.adcPush_room _ _ _ h.undrained hroom)) ?_ ?_ h.flows, State.adcAfter_over _ _ _ _ ?_⟩
  · rw [State.updAdc_adc]
    exact h.waiting
  · rw [State.updAdc_cl]
    exact h.svc
  · rw [State.updAdc_adc]
    exact h.waiting

/-- A result that finds the queue full is dropped and counted. -/
theorem adcSequenceEnd_dropped (hfull : 256 ≤ (s.adc c.val).queue.length) :
    ∃ t, exec (.adcSequenceEnd c g codes) s = .next t ∧
      t.adc c.val = { s.adc c.val with seq := none, lastEnd := some g, overrun := true } ∧
      t.bit (ADC_STAT c.val) ADC_STAT_BUSY = false ∧
      t.fld (ADC_QSTAT c.val) ADC_QSTAT_DROP = min (2 ^ ADC_QSTAT_DROP.width - 1) (s.fld (ADC_QSTAT c.val) ADC_QSTAT_DROP + 1) := by
  have hnoted := s.latchDacs_noted c.val g h.seq
  obtain ⟨l, hown⟩ := hnoted.own
  have hadc : (s.latchDacs c.val g).adc c.val = { s.adc c.val with seq := some { q with dacs := l } } := congrArg ClSt.adc hown
  have hdma : (s.latchDacs c.val g).fbitF (ADC_CTRL c.val) ADC_CTRL_DMA_EN = false := by rw [hnoted.rest]; exact h.undrained
  have hflows (n : Nat) : (s.latchDacs c.val g).flow n = s.flow n := by rw [hnoted.rest]; rfl
  have hpush := ((s.latchDacs c.val g).endAt g l.length).adcPush_full c.val
    (((s.latchDacs c.val g).endAt g l.length).adcEntry c.val { q with dacs := l }
      (({ q with dacs := l } : ConvSeq).codes (s.latchDacs c.val g).free codes)) hdma
    (by rw [State.endAt_adc, hadc]; exact hfull)
  have hwait : ((((s.latchDacs c.val g).endAt g l.length).countSat (ADC_QSTAT c.val) ADC_QSTAT_DROP 1).updAdc c.val (fun y =>
      { y with overrun := true })).adc c.val = { s.adc c.val with seq := some { q with dacs := l }, overrun := true } := by
    rw [State.updAdc_adc, State.countSat_adc, State.endAt_adc, hadc]
  have hover := State.adcAfter_over _ c.val g q.lowPower ((congrArg Adc.waiting hwait).trans h.waiting)
  have hne : ADC_QSTAT c.val ∉ [ADC_STAT c.val] := by simpa using adcQstat_ne_adcStat c.val
  refine ⟨_, exec_adcSequenceEnd c g codes s h.starts (congrArg Adc.seq hadc) h.begun h.flow h.selfTest hg hlen hpush
    ((congrArg Adc.waiting hwait).trans h.waiting) ?_ fun n hn => ?_, ?_, hover.busy, ?_⟩
  · rw [State.updAdc_cl, State.countSat_cl, State.endAt_cl, hown]
    exact h.svc
  · rw [State.updAdc_flow, State.countSat_flow, State.endAt_flow, hflows]
    exact h.flows n hn
  · rw [hover.adc, hwait]
  · rw [State.fld_of_reg _ (hover.regs _ hne), State.updAdc_fld, State.countSat_one_fld _ _ _ (by decide) (by decide), State.endAt_fld,
      State.fld_of_reg _ (hnoted.reg _)]

end

end Sys2Proof.Machine
end

section
namespace Sys2Proof.Machine

/-! Reads of the results (R297). -/

section

variable (port : PortNo) (conv : ConvNo) (s : State) (h : s.fencedAt (convResult conv) = false)
include h

theorem exec_adcResultRead : exec (.adcResultRead port conv) s =
    .next ((s.convRead conv).2.send (.completion port.val 0 (leBytes 4 (s.convRead conv).1.toNat))) :=
  congrArg Host.Outcome.next (s.readReach_open port.val (convResult conv) (s.convRead conv) h)

end

theorem State.convRead_sar (s : State) (d : ClNo) {w : Word} {l : List Word} (hq : (s.adc d.val).queue = w :: l) :
    s.convRead (.sar d) = (w, s.updAdc d.val (fun y => { y with queue := l, popped := y.popped + 1 })) := by
  rw [State.convRead, hq]

theorem State.convRead_sar_empty (s : State) (d : ClNo) (hq : (s.adc d.val).queue = []) : s.convRead (.sar d) = (0, s) := by
  rw [State.convRead, hq]

theorem State.convRead_pc (s : State) (r : RgNo) {w : Word} {l : List Word} (hq : (s.rg r.val).prec.queue = w :: l) :
    s.convRead (.pc r) = (w, s.updPrec r.val (fun y => { y with queue := l, popped := y.popped + 1 })) := by
  rw [State.convRead, hq]

theorem State.updPrec_prec (s : State) (r : Nat) (f : PrecConv → PrecConv) : ((s.updPrec r f).rg r).prec = f (s.rg r).prec := by
  rw [State.updPrec, State.updRg_rg]

theorem State.updPrec_rg_ne (s : State) (r : Nat) (f : PrecConv → PrecConv) {k : Nat} (hk : k ≠ r) : (s.updPrec r f).rg k = s.rg k :=
  State.updRg_rg_ne _ _ _ _ hk

theorem State.send_adc (s : State) (o : Output) (c : Nat) : (s.send o).adc c = s.adc c := by rfl

/-- Settles O38: a sequence that begins takes the settings in force; one that ends is `SequenceOver` after its push, with room or without;
a read takes the head of a queue. -/
theorem conversionsRunAndAreRead : Obligations.ConversionsRunAndAreRead := by
  unfold Obligations.ConversionsRunAndAreRead
  intro port conv c g codes q s hst
  refine ⟨fun hq hg hb hf hself => ?_, fun hq hb hf hself hsvc hflow hg hlen hw hdma => ?_,
      fun d hd hfence => ?_, fun r hr hfence w l hq => ?_⟩
  · exact ⟨_, _, exec_adcSequenceBegin c g s hst hq hg hb hf hself, State.sequenceBegun_seq .., rfl, hg, rfl, rfl, rfl,
      State.sequenceBegun_busy .., State.sequenceBegun_powered .., fun k hk => State.sequenceBegun_cl_ne _ _ _ hk,
      State.sequenceBegun_frame .., State.sequenceBegun_regsKept _ _ _⟩
  · have halone : SequenceAlone s c.val q := ⟨hst, hq, hb, hf, hself, hsvc, hflow, hw, hdma⟩
    refine ⟨fun hroom hch hitems => ?_, fun hfull => ?_⟩
    · obtain ⟨clip, clamp, unver, t, hexec, hover⟩ := adcSequenceEnd_queued c g codes s halone hg hlen hroom hch hitems
      have hlt := average_lt hlen
      have htag : q.chan < 2 ^ 8 := by omega
      have hres : average q.avg (codes.map (·.toNat)).sum < 2 ^ 16 := by omega
      obtain ⟨hvalid, hovr, hlp, -, htagF, -⟩ :=
        entryWord_fields clip clamp q.lowPower unver false (s.adc c.val).overrun htag hres
      have hword := entryWord_toNat clip clamp q.lowPower unver false (s.adc c.val).overrun htag hres
      refine ⟨t, _, hexec, by rw [hover.adc, State.updAdc_adc, State.endAt_adc],
          ?_, htagF, hvalid, hovr, hlp, by rw [hover.adc], hover.busy,
          fun k hk => ?_, ?_, ?_⟩
      · rw [hword, ← average]
        omega
      · rw [hover.others k hk, State.updAdc_cl_ne _ _ _ hk, State.endAt_cl]
      · have hfree : t.free = s.free + q.dacs.length := congrArg State.free hover.rest
        rw [hfree]
        exact hover.rest
      · exact hover.regs
    · obtain ⟨t, hexec, hadc, hbusy, hdrop⟩ := adcSequenceEnd_dropped c g codes s halone hg hlen hfull
      exact ⟨t, hexec, by rw [hadc], by rw [hadc], hdrop, by rw [hadc], hbusy⟩
  · subst hd
    refine ⟨fun w l hq => ?_, fun hq => ?_⟩
    · have hexec := exec_adcResultRead port (.sar d) s hfence
      rw [s.convRead_sar d hq] at hexec
      exact ⟨_, hexec, by rw [State.send_adc, State.updAdc_adc], fun k hk => by rw [State.send_cl, State.updAdc_cl_ne _ _ _ hk], rfl⟩
    · rw [exec_adcResultRead port (.sar d) s hfence, s.convRead_sar_empty d hq]
      rfl
  · subst hr
    have hexec := exec_adcResultRead port (.pc r) s hfence
    rw [s.convRead_pc r hq] at hexec
    exact ⟨_, hexec, by rw [State.send_rg, State.updPrec_prec], fun k hk => by rw [State.send_rg, State.updPrec_rg_ne _ _ _ hk], rfl⟩

end Sys2Proof.Machine
end

section
namespace Sys2Proof.Machine

/-! The registers and the record of a precision converter (R300-R303). -/

theorem pcInterval_ne_pcCtrl (r : Nat) : PC_INTERVAL r ≠ PC_CTRL r := by
  unfold PC_INTERVAL PC_CTRL
  omega

theorem pcInterval_ne_pcLowpwr (r : Nat) : PC_INTERVAL r ≠ PC_LOWPWR r := by
  unfold PC_INTERVAL PC_LOWPWR
  omega

theorem pcCtrl_ne_pcLowpwr (r : Nat) : PC_CTRL r ≠ PC_LOWPWR r := by
  unfold PC_CTRL PC_LOWPWR
  omega

theorem pcQstat_ne_pcLowpwr (r : Nat) : PC_QSTAT r ≠ PC_LOWPWR r := by
  unfold PC_QSTAT PC_LOWPWR
  omega

theorem ringStat_ne_pcLowpwr (n r : Nat) : ringStat n ≠ PC_LOWPWR r := by
  simp only [ringStat, RING_STAT, ringRg, ringLr, PC_LOWPWR, rgBlk]
  omega

theorem pcLowpwr_outside (r : RgNo) : PC_LOWPWR r.val < hubBlk 4 ∨ hubBlk 5 ≤ PC_LOWPWR r.val := by
  have := r.isLt
  unfold PC_LOWPWR rgBlk hubBlk
  omega

/-- The row of PC_CTRL. -/
def pcCtrlRow : RegRow := ⟨0, [], 0x801000, 0xffffffff, 0, 0, 0, 0⟩

theorem regRow_pcCtrl (r : RgNo) : regRow (PC_CTRL r.val) = some pcCtrlRow := by
  have hrow : (regRows 1 3).find? (fun x => x.hit 0) = some pcCtrlRow := by decide
  have hloc := regLoc_rgBlk (blk := 3) (o := 0) r.isLt (by decide) (by decide)
  rw [Nat.add_zero] at hloc
  rw [regRow, PC_CTRL, hloc]
  exact hrow

/-- Every bit of PC_CTRL is RW: a whole write is stored. -/
theorem writeWord_pcCtrl (old v : Word) : writeWord pcCtrlRow old v 15 = v := by
  have hrw : BitVec.ofNat 32 pcCtrlRow.rw &&& beMask 15 = BitVec.allOnes 32 := by decide
  have hw1c : BitVec.ofNat 32 pcCtrlRow.w1c &&& beMask 15 = 0#32 := by decide
  rw [writeWord, hrw, hw1c]
  simp only [BitVec.not_allOnes, BitVec.and_zero, BitVec.zero_or, BitVec.and_allOnes, BitVec.not_zero]

section

variable (s : State) (r : Nat)

theorem State.updPrec_updPrec (f h : PrecConv → PrecConv) : (s.updPrec r f).updPrec r h = s.updPrec r (fun y => h (f y)) := by
  have hrg : ({ (s.updPrec r f).rg r with prec := h ((s.updPrec r f).rg r).prec } : RgSt) =
      { s.rg r with prec := h (f (s.rg r).prec) } := by
    rw [State.updPrec, State.updRg_rg]
  have htbl := tput_tput_same (fun _ => ({} : RgSt)) s.regions r { s.rg r with prec := f (s.rg r).prec }
      { s.rg r with prec := h (f (s.rg r).prec) }
  rw [State.updPrec, State.updRg, hrg]
  exact congrArg (fun t => ({ s with regions := t } : State)) htbl

theorem State.updPrec_reg (f : PrecConv → PrecConv) (a : Nat) : (s.updPrec r f).reg a = s.reg a := by rfl

theorem State.updPrec_inForce (f : PrecConv → PrecConv) (a : Nat) : (s.updPrec r f).inForce a = s.inForce a := by rfl

variable (lp : Bool)

theorem State.precShow_frame : s.precShow r lp = { s with regs := (s.precShow r lp).regs } := s.frame_of_setFld_setBit _ _ _ _ _ _ rfl

theorem State.precShow_rg (k : Nat) : (s.precShow r lp).rg k = s.rg k := by
  rw [State.precShow, State.setBit_rg, State.setFld_rg]

theorem State.precShow_inForce (a : Nat) : (s.precShow r lp).inForce a = s.inForce a := by
  rw [State.precShow, State.setBit_inForce, State.setFld_inForce]

theorem State.precShow_regsKept : s.regsKept (s.precShow r lp) [PC_INTERVAL r] :=
  State.regsKept_trans (s.setFld_regsKept _ _ (List.mem_singleton_self _)) (State.setBit_regsKept _ _ _ _)

end

end Sys2Proof.Machine
end

section
namespace Sys2Proof.Machine

/-! A write of PC_CTRL (R303). -/

section

variable (s : State) (r b : Nat)

theorem State.precDue_none (h : (s.rg r).prec.due = none) : s.precDue r b = s := by
  unfold State.precDue
  rw [h]

/-- The filter of a converter that no interruption holds off, emptied. -/
def State.precEmptied (s : State) (r b : Nat) : State :=
  (s.precShow r (s.bit (PC_LOWPWR r) PC_LOWPWR_LOWPWR)).updPrec r (fun x => { x with
    running := getB (s.inForce (PC_CTRL r)) 31, nextAt := b + 128000, count := 0, integ := [0, 0, 0, 0], comb := [0, 0, 0, 0]
    lowPower := s.bit (PC_LOWPWR r) PC_LOWPWR_LOWPWR, marks := (false, false), oldMarks := [], due := none })

theorem State.precRestart_emptied (hdue : (s.rg r).prec.due = none) (hint : (s.cl (8 * r)).gauge.interruption = none) :
    s.precRestart r b = s.precEmptied r b := by
  unfold State.precRestart
  dsimp only
  rw [hint, s.precDue_none r b hdue, Bool.not_false, Bool.and_true]
  rfl

/-- A converter's record changes besides registers. -/
theorem State.updPrec_frame {u : State} (f : PrecConv → PrecConv) (h : u = { s with regs := u.regs }) :
    u.updPrec r f = { s with regs := (u.updPrec r f).regs, regions := (u.updPrec r f).regions } :=
  congrArg (fun x : State => ({ x with regions := (u.updPrec r f).regions } : State)) h

theorem State.precEmptied_frame : s.precEmptied r b = { s with
    regs := (s.precEmptied r b).regs, regions := (s.precEmptied r b).regions } := s.updPrec_frame r _ (s.precShow_frame r _)

/-- A value comes into force before registers and regions change. -/
theorem State.frame_of_force {t u : State} (hu : u = { s with regs := u.regs, force := u.force })
    (ht : t = { u with regs := t.regs, regions := t.regions }) :
        t = { s with regs := t.regs, force := t.force, regions := t.regions } := by
  have hforce : t.force = u.force := (congrArg (fun x : State => x.force) ht :)
  rw [hu] at ht
  rw [hforce]
  exact ht

theorem State.setReg_setForce_frame (a : Nat) (v w : Word) : (s.setReg a v).setForce a w = { s with
    regs := ((s.setReg a v).setForce a w).regs, force := ((s.setReg a v).setForce a w).force } := by rfl

end

section

variable (port : PortNo) (r : RgNo) (value : Word) (b : Nat) (s : State)

/-- The state after a whole write of PC_CTRL that empties the filter at boundary b. -/
def State.pcCtrlWritten (s : State) (r b : Nat) (value : Word) : State :=
  ((((s.at b).sliceSeen r).setReg (PC_CTRL r) value).setForce (PC_CTRL r) value).precEmptied r b

theorem State.sliceSeen_prec (k : Nat) : ((s.sliceSeen r.val).rg k).prec = (s.rg k).prec := by
  by_cases h : k = r.val
  · rw [h, State.sliceSeen, State.updRg_rg]
  · rw [State.sliceSeen, State.updRg_rg_ne _ _ _ _ h]

theorem exec_pcCtrlWrite (hr : s.reaches (PC_CTRL r.val)) (hen : getB value 31 = true ∨ getB (s.inForce (PC_CTRL r.val)) 31 = true)
    (hint : (s.cl (8 * r.val)).gauge.interruption = none) (hdue : (s.rg r.val).prec.due = none) :
    exec (.pcCtrlWrite port r value 15 b) s = .next (s.pcCtrlWritten r.val b value) := by
  have harm : exec (.pcCtrlWrite port r value 15 b) s = execPcCtrlWrite port r value 15 b s := rfl
  have hcl : s.atCluster (8 * r.val) b = (s.at b).sliceSeen r.val := by rw [State.atCluster, Nat.mul_div_cancel_left _ (by decide)]
  have hdue' : (((((s.at b).sliceSeen r.val).setReg (PC_CTRL r.val) value).setForce (PC_CTRL r.val) value).rg r.val).prec.due = none := by
    rw [State.setForce_rg, State.setReg_rg, State.sliceSeen_prec]
    exact hdue
  have hint' : (((((s.at b).sliceSeen r.val).setReg (PC_CTRL r.val) value).setForce (PC_CTRL r.val) value).cl
      (8 * r.val)).gauge.interruption = none := by
    rw [State.setForce_cl, State.setReg_cl]
    exact hint
  have hen' : (getB value 31 || getB (((s.at b).sliceSeen r.val).inForce (PC_CTRL r.val)) 31) = true := (Bool.or_eq_true ..).mpr hen
  rw [harm, execPcCtrlWrite, s.reach_open _ _ _ hr.1 hr.2, hcl, State.partnerWrite_of_row _ (regRow_pcCtrl r), writeWord_pcCtrl,
    State.precCtrl, State.setReg_reg, State.setReg_inForce, if_pos hen', State.precRestart_emptied _ _ _ hdue' hint', State.pcCtrlWritten]

theorem State.pcCtrlWritten_prec : ((s.pcCtrlWritten r.val b value).rg r.val).prec = { (s.rg r.val).prec with
    running := getB value 31, nextAt := b + 128000, count := 0, integ := [0, 0, 0, 0], comb := [0, 0, 0, 0]
    lowPower := s.bit (PC_LOWPWR r.val) PC_LOWPWR_LOWPWR, marks := (false, false), oldMarks := [], due := none } := by
  rw [State.pcCtrlWritten, State.precEmptied, State.updPrec_prec, State.precShow_rg, State.setForce_rg, State.setReg_rg,
    State.sliceSeen_prec, State.setForce_inForce, State.setForce_bit, State.setReg_bit_ne _ _ _ _ _ (pcCtrl_ne_pcLowpwr r.val).symm,
    State.sliceSeen, State.updRg_bit, State.at_bit, State.at_rg]

theorem State.pcCtrlWritten_rg_ne {k : Nat} (hk : k ≠ r.val) : (s.pcCtrlWritten r.val b value).rg k = s.rg k := by
  rw [State.pcCtrlWritten, State.precEmptied, State.updPrec_rg_ne _ _ _ hk, State.precShow_rg, State.setForce_rg, State.setReg_rg,
    State.sliceSeen, State.updRg_rg_ne _ _ _ _ hk, State.at_rg]

theorem State.pcCtrlWritten_inForce : (s.pcCtrlWritten r.val b value).inForce (PC_CTRL r.val) = value := by
  rw [State.pcCtrlWritten, State.precEmptied, State.updPrec_inForce, State.precShow_inForce, State.setForce_inForce]

theorem State.pcCtrlWritten_reg : (s.pcCtrlWritten r.val b value).reg (PC_CTRL r.val) = value := by
  rw [State.pcCtrlWritten, State.precEmptied, State.updPrec_reg,
    State.precShow_regsKept _ _ _ _ (by simpa using (pcInterval_ne_pcCtrl r.val).symm), State.setForce_reg, State.setReg_reg]

theorem State.pcCtrlWritten_regsKept : s.regsKept (s.pcCtrlWritten r.val b value) [PC_CTRL r.val, PC_INTERVAL r.val] := fun a ha => by
  simp only [List.mem_cons, List.not_mem_nil, or_false, not_or] at ha
  rw [State.pcCtrlWritten, State.precEmptied, State.updPrec_reg, State.precShow_regsKept _ _ _ _ (by simpa using ha.2),
    State.setForce_reg, State.setReg_reg_ne _ _ _ _ ha.1, State.sliceSeen, State.updRg_reg, State.at_reg]

theorem State.pcCtrlWritten_frame : s.pcCtrlWritten r.val b value = { s with
    gt := max s.gt b, regs := (s.pcCtrlWritten r.val b value).regs, regions := (s.pcCtrlWritten r.val b value).regions
    force := (s.pcCtrlWritten r.val b value).force } :=
  State.frame_of_force ((s.at b).sliceSeen r.val) (State.setReg_setForce_frame _ _ _ _) (State.precEmptied_frame _ _ _)

end

end Sys2Proof.Machine
end

section
namespace Sys2Proof.Machine

/-! What the work of one precision converter touches. -/

/-- From s to t nothing but registers other than PC_LOWPWR, region r's record and what an event touches has changed. -/
structure PrecOnly (r : Nat) (s t : State) : Prop where
  others : ∀ k, k ≠ r → t.rg k = s.rg k
  pins : s.pinsKept t
  clusters : t.clusters = s.clusters
  lowPower : t.reg (PC_LOWPWR r) = s.reg (PC_LOWPWR r)

namespace PrecOnly

variable {r : Nat} {s t u : State}

theorem refl (r : Nat) (s : State) : PrecOnly r s s := ⟨fun _ _ => rfl, fun _ => rfl, rfl, rfl⟩

theorem trans (h : PrecOnly r s t) (k : PrecOnly r t u) : PrecOnly r s u :=
  ⟨fun m hm => (k.others m hm).trans (h.others m hm), fun p => (k.pins p).trans (h.pins p), k.clusters.trans h.clusters,
    k.lowPower.trans h.lowPower⟩

theorem updPrec (r : Nat) (s : State) (f : PrecConv → PrecConv) : PrecOnly r s (s.updPrec r f) :=
  ⟨fun _ hm => s.updPrec_rg_ne r f hm, fun _ => rfl, rfl, rfl⟩

theorem setReg (s : State) {a : Nat} (w : Word) (h : a ≠ PC_LOWPWR r) : PrecOnly r s (s.setReg a w) :=
  ⟨fun _ _ => rfl, fun _ => rfl, rfl, s.setReg_reg_ne a w _ h.symm⟩

theorem bit (h : PrecOnly r s t) (f : Fld) : t.bit (PC_LOWPWR r) f = s.bit (PC_LOWPWR r) f :=
  congrArg (fun w => getF w f == 1) h.lowPower

end PrecOnly

section

variable (s : State) (r : RgNo)

theorem State.sourceRequest_rg (n k : Nat) : (s.sourceRequest n).rg k = s.rg k := by
  unfold State.sourceRequest
  split
  · exact s.violation_rg ..
  · exact s.setBit_rg ..

theorem State.sourceRequest_precOnly (n : Nat) : PrecOnly r.val s (s.sourceRequest n) where
  others k _ := s.sourceRequest_rg n k
  pins := (s.sourceRequest_requestOnly n).pins
  clusters := (s.sourceRequest_requestOnly n).clusters
  lowPower := by
    unfold State.sourceRequest
    split
    · exact s.violation_reg _ _ _ _ _ _ (pcLowpwr_outside r)
    · exact s.setBit_reg_ne _ _ _ _ (ringStat_ne_pcLowpwr n r.val).symm

theorem State.precDemand_precOnly : PrecOnly r.val s (s.precDemand r.val) := by
  unfold State.precDemand
  dsimp only
  split
  · exact s.sourceRequest_precOnly r _
  · exact .refl _ s

theorem State.precDemand_rg (n k : Nat) : (s.precDemand n).rg k = s.rg k := by
  unfold State.precDemand
  dsimp only
  split
  · exact s.sourceRequest_rg ..
  · rfl

theorem State.precPush_precOnly (entry : Nat) : PrecOnly r.val s (s.precPush r.val entry) := by
  unfold State.precPush
  dsimp only
  split
  · exact ((PrecOnly.setReg s _ (pcQstat_ne_pcLowpwr r.val)).trans (.updPrec _ _ _)).trans (State.precDemand_precOnly _ r)
  · exact (PrecOnly.updPrec _ s _).trans (State.precDemand_precOnly _ r)

theorem State.precDue_precOnly (g : Nat) : PrecOnly r.val s (s.precDue r.val g) := by
  unfold State.precDue
  split
  · split
    · exact (PrecOnly.updPrec _ s _).trans (State.precPush_precOnly _ r _)
    · exact .refl _ s
  · exact .refl _ s

theorem State.precShow_precOnly (lp : Bool) : PrecOnly r.val s (s.precShow r.val lp) :=
  (PrecOnly.setReg s _ (pcInterval_ne_pcLowpwr r.val)).trans (PrecOnly.setReg _ _ (pcInterval_ne_pcLowpwr r.val))

/-- A result enters a queue with room. -/
theorem State.precPush_prec (n entry : Nat) (h : (s.rg n).prec.queue.length < 256) : ((s.precPush n entry).rg n).prec =
    { (s.rg n).prec with
      queue := (s.rg n).prec.queue ++ [BitVec.ofNat 32 (entry + (if (s.rg n).prec.overrun then 2 ^ 30 else 0))], overrun := false } := by
  unfold State.precPush
  dsimp only
  rw [if_neg (Nat.not_le.mpr h), State.precDemand_rg, State.updPrec_prec]

theorem dcCorrected_lt {items : List Int} {bits result : Nat} (h : result < 2 ^ bits) : dcCorrected items bits result < 2 ^ bits := by
  unfold dcCorrected
  split
  · exact h
  · exact Nat.mod_lt _ (Nat.two_pow_pos bits)

/-- The entry whose last conversion has ended is written (R302). -/
theorem State.precDue_writes (g : Nat) {d : Nat} {e : PrecEntry} (hdue : (s.rg r.val).prec.due = some (d, e)) (hd : d ≤ g)
    (hroom : (s.rg r.val).prec.queue.length < 256) (hres : e.result < 2 ^ 16) :
    ∃ unver result, result < 2 ^ 16 ∧ (e.bad = true → result = 0) ∧ ((s.precDue r.val g).rg r.val).prec.queue =
      (s.rg r.val).prec.queue ++ [entryWord e.clip e.clamp e.lowPower unver e.bad (s.rg r.val).prec.overrun e.tag result] := by
  have hlt (items : List Int) : (if e.bad then 0 else dcCorrected items 16 e.result) < 2 ^ 16 := by
    split
    · decide
    · exact dcCorrected_lt hres
  refine ⟨s.bit (CAL_STAT (8 * r.val)) CAL_STAT_UNVER_DC, _,
      hlt ((s.updPrec r.val (fun y => { y with due := none })).precItems r.val e.tag),
    fun hbad => if_pos hbad, ?_⟩
  unfold State.precDue
  rw [hdue]
  dsimp only
  rw [if_pos hd, State.precWrite, State.precPush_prec _ _ _ (by rw [State.updPrec_prec]; exact hroom), State.updPrec_prec]
  rfl

end

end Sys2Proof.Machine
end

section
namespace Sys2Proof.Machine

/-! A conversion (R301, R302). -/

/-- What a conversion of code k, that starts with x in the filter, makes of its converter: it counts and enters the filter, the next follows
at `next`, and an entry is due then when M divides the count and ORDER + 1 blocks are complete. -/
structure ConversionTakes (w : Word) (x : PrecConv) (next k : Nat) (lp : Bool) (f : PrecConv → PrecConv) : Prop where
  queue : ∀ y, (f y).queue = y.queue
  nextAt : ∀ y, (f y).nextAt = next
  count : ∀ y, (f y).count = x.count + 1
  integ : ∀ y, (f y).integ = integrate (getF w PC_CTRL_ORDER + 1) k x.integ
  between : (x.count + 1) % precDecim w ≠ 0 ∨ x.count + 1 < (getF w PC_CTRL_ORDER + 1) * precDecim w → ∀ y, (f y).due = y.due
  entry : (x.count + 1) % precDecim w = 0 → (getF w PC_CTRL_ORDER + 1) * precDecim w ≤ x.count + 1 →
    ∃ e : PrecEntry, (∀ y, (f y).due = some (next, e)) ∧ e.tag = getF w PC_CTRL_CHAN ∧ e.lowPower = lp ∧
      (0x88 ≤ getF w PC_CTRL_CHAN → e.bad = true)

/-- The mode of the conversion is shown when it is a new one (R303). -/
def State.precShown (s : State) (r : Nat) (was lp : Bool) : State := if lp = was then s else s.precShow r lp

/-- A tag that names neither a pin nor a supply channel is bad (R300). -/
theorem bad_of_high (r : Nat) {tag : Nat} (h : 0x88 ≤ tag) : (!((precPin r tag).isSome || isSupply tag)) = true := by
  have hpin : precPin r tag = none := if_neg (by omega)
  have hsup : decide (tag ≤ 0x87) = false := decide_eq_false (by omega)
  rw [hpin, isSupply, hsup, Bool.and_false]
  rfl

section

variable (r : RgNo) (g : Nat) (code : BitVec 12) (s : State)

/-- The mode that LOWPWR gives the converter (R303). -/
def State.precMode (s : State) (r : Nat) : Bool := s.bit (PC_LOWPWR r) PC_LOWPWR_LOWPWR

theorem exec_pcConversion (hrun : (s.rg r.val).prec.running = true) (hg : g = (s.rg r.val).prec.nextAt)
    (hch : getF (s.inForce (PC_CTRL r.val)) PC_CTRL_CHAN ≠ 0x87) :
    ∃ f, exec (.pcConversion r g code) s =
        .next ((((s.at g).precDue r.val g).precShown r.val (s.rg r.val).prec.lowPower (s.precMode r.val)).updPrec r.val f) ∧
      ConversionTakes (s.inForce (PC_CTRL r.val)) (s.rg r.val).prec
        (g + (precInterval (s.inForce (PC_CTRL r.val)) (s.precMode r.val)).1) code.toNat (s.precMode r.val) f := by
  have harm : exec (.pcConversion r g code) s = execPcConversion r g code s := rfl
  have hlp : ((s.at g).precDue r.val g).bit (PC_LOWPWR r.val) PC_LOWPWR_LOWPWR = s.precMode r.val :=
    ((s.at g).precDue_precOnly r g).bit _
  rw [harm]
  unfold execPcConversion
  dsimp only
  rw [if_pos ⟨hrun, hg⟩, hlp, if_neg hch, State.precCode, if_neg hch]
  by_cases hm : ((s.rg r.val).prec.count + 1) % precDecim (s.inForce (PC_CTRL r.val)) = 0
  · rw [if_pos hm]
    by_cases hn : (getF (s.inForce (PC_CTRL r.val)) PC_CTRL_ORDER + 1) * precDecim (s.inForce (PC_CTRL r.val)) ≤ (s.rg r.val).prec.count + 1
    · rw [if_pos hn, State.updPrec_updPrec, State.updPrec_updPrec]
      exact ⟨_, rfl, fun _ => rfl, fun _ => rfl, fun _ => rfl, fun _ => rfl,
        fun h => absurd h (not_or.mpr ⟨not_not_intro hm, Nat.not_lt.mpr hn⟩),
        fun _ _ => ⟨_, fun _ => rfl, rfl, rfl, bad_of_high r.val⟩⟩
    · rw [if_neg hn, State.updPrec_updPrec]
      exact ⟨_, rfl, fun _ => rfl, fun _ => rfl, fun _ => rfl, fun _ => rfl, fun _ _ => rfl, fun _ h => absurd h hn⟩
  · rw [if_neg hm, State.updPrec_updPrec]
    exact ⟨_, rfl, fun _ => rfl, fun _ => rfl, fun _ => rfl, fun _ => rfl, fun _ _ => rfl, fun h => absurd h hm⟩

theorem State.precShown_rg (n : Nat) (was lp : Bool) (k : Nat) : (s.precShown n was lp).rg k = s.rg k := by
  unfold State.precShown
  split
  · rfl
  · exact s.precShow_rg ..

theorem State.precShown_precOnly (was lp : Bool) : PrecOnly r.val s (s.precShown r.val was lp) := by
  unfold State.precShown
  split
  · exact .refl _ s
  · exact s.precShow_precOnly r lp

theorem State.precShown_frame (n : Nat) (was lp : Bool) : s.precShown n was lp = { s with regs := (s.precShown n was lp).regs } := by
  unfold State.precShown
  split
  · rfl
  · exact s.precShow_frame ..

theorem State.precShown_regsKept (n : Nat) (was lp : Bool) : s.regsKept (s.precShown n was lp) [PC_INTERVAL n] := by
  unfold State.precShown
  split
  · exact fun _ _ => rfl
  · exact s.precShow_regsKept n lp

/-- The first integrator adds up the codes. -/
theorem integrate_headD (n : Nat) (x : Int) {l : List Int} (h : l.length = 4) : (integrate (n + 1) x l).headD 0 = l.headD 0 + x := by
  cases l with
  | nil => exact absurd h (by decide)
  | cons i l => rfl

end

/-- Settles O39: a write of PC_CTRL stores the word and empties the filter; a conversion first writes the entry that is due, touching only what
`PrecOnly` says, and then is a `ConversionTakes` of the converter's record. -/
theorem precisionConvertersFilter : Obligations.PrecisionConvertersFilter := by
  unfold Obligations.PrecisionConvertersFilter
  intro port r value b g code s
  refine ⟨fun hr hen hint hdue => ?_, ?_⟩
  · have hprec := s.pcCtrlWritten_prec r value b
    have hreg := s.pcCtrlWritten_reg r value b
    refine ⟨_, exec_pcCtrlWrite port r value b s hr hen hint hdue, by rw [State.fld, hreg], by rw [State.fld, hreg],
      by rw [hreg, State.pcCtrlWritten_inForce], ?_, ?_, ?_, ?_, ?_, ?_, fun k hk => s.pcCtrlWritten_rg_ne r value b hk,
      s.pcCtrlWritten_frame r value b, s.pcCtrlWritten_regsKept r value b⟩ <;> rw [hprec]
  · rintro x w m n next rfl rfl hrun hg rfl rfl hch rfl
    obtain ⟨f, hexec, htakes⟩ := exec_pcConversion r g code s hrun hg hch
    have hprec := State.updPrec_prec (((s.at g).precDue r.val g).precShown r.val (s.rg r.val).prec.lowPower (s.precMode r.val)) r.val f
    rw [State.precShown_rg] at hprec
    refine ⟨fun hlen => ?_, fun hdue hfew => ?_, fun hm hn => ?_, fun d e hdue hd hroom htag hres => ?_⟩
    · have honly := (((s.at g).precDue_precOnly r g).trans (State.precShown_precOnly r _ (s.rg r.val).prec.lowPower (s.precMode r.val))).trans
        (PrecOnly.updPrec r.val _ f)
      refine ⟨_, hexec, ?_, ?_, ?_, honly.others, honly.pins, honly.clusters⟩
      · rw [hprec, htakes.count]
      · rw [hprec, htakes.integ, integrate_headD _ _ hlen]
      · rw [hprec, htakes.nextAt]
        rfl
    · have hnone : (s.at g).precDue r.val g = s.at g := (s.at g).precDue_none r.val g hdue
      rw [hnone] at hexec hprec
      refine ⟨_, hexec, ?_, ?_, ?_, ?_⟩
      · rw [hprec, htakes.queue, State.at_rg]
      · rw [hprec, htakes.between hfew, State.at_rg, hdue]
      · exact (s.at g).updPrec_frame r.val f (State.precShown_frame ..)
      · exact State.precShown_regsKept (s.at g) r.val _ _
    · obtain ⟨e, hentry, htag, hlp, hbad⟩ := htakes.entry hm hn
      exact ⟨_, e, hexec, by rw [hprec, hentry]; rfl, htag, hlp, hbad⟩
    · obtain ⟨unver, result, hlt, hzero, hqueue⟩ := (s.at g).precDue_writes r g hdue hd hroom hres
      obtain ⟨hvalid, hovr, hlp, hbad, htagF, hresult⟩ :=
        entryWord_fields e.clip e.clamp e.lowPower unver e.bad (s.rg r.val).prec.overrun htag hlt
      exact ⟨_, _, hexec, by rw [hprec, htakes.queue, hqueue]; rfl, hvalid, hovr, htagF, hlp,
        fun h => ⟨hbad.trans h, hresult.trans (hzero h)⟩⟩

end Sys2Proof.Machine
end

section
namespace Sys2Proof.Machine

/-! Registers alone change. -/

/-- From s to t registers alone have changed. -/
def State.regsOnly (s t : State) : Prop := t = { s with regs := t.regs }

section

variable {s t u : State}

theorem State.regsOnly_trans (h : s.regsOnly t) (k : t.regsOnly u) : s.regsOnly u := by
  unfold State.regsOnly at *
  rw [h] at k
  exact k

variable (s)

theorem State.setReg_regsOnly (a : Nat) (w : Word) : s.regsOnly (s.setReg a w) := by
  unfold State.regsOnly
  rfl

theorem State.setFld_regsOnly (a : Nat) (f : Fld) (v : Nat) : s.regsOnly (s.setFld a f v) := s.setReg_regsOnly a _

theorem State.setBit_regsOnly (a : Nat) (f : Fld) (b : Bool) : s.regsOnly (s.setBit a f b) := s.setFld_regsOnly a f _

/-- What boot holds changes besides. -/
theorem State.updBoot_frame_of_regsOnly (f : BootSt → BootSt) (h : s.regsOnly t) :
    t.updBoot f = { s with regs := (t.updBoot f).regs, boot := (t.updBoot f).boot } :=
  congrArg (fun x : State => ({ x with boot := f t.boot } : State)) h

end

/-! Boot goes on with a bank (R433, R434). -/

section

variable (s : State)

/-- What is read of a bank's header depends on the flash alone. -/
theorem State.bankGen_of_flash {s t : State} (h : t.flash = s.flash) (b : Nat) : t.bankGen b = s.bankGen b := by
  simp only [State.bankGen, State.flashNat, State.flashBytes, h]

variable (bank : Nat)

theorem State.bootBank_frame : s.bootBank bank = { s with regs := (s.bootBank bank).regs, boot := (s.bootBank bank).boot } := by
  unfold State.bootBank
  exact s.updBoot_frame_of_regsOnly _ (State.regsOnly_trans (s.setFld_regsOnly _ _ _) (State.setReg_regsOnly _ _ _))

theorem State.bootBank_boot : (s.bootBank bank).boot =
    { s.boot with phase := 3, bank := bank, tried := s.boot.tried ++ [bank], section_ := 8, reports := 0 } := by
  rw [State.bootBank, State.updBoot_boot, State.setReg_boot, State.setFld_boot]

theorem State.bootBank_gen : (s.bootBank bank).reg BOOT_GEN = BitVec.ofNat 32 (s.bankGen bank) := by
  rw [State.bootBank, State.updBoot_reg, State.setReg_reg]

theorem State.bootBank_stat : (s.bootBank bank).reg BOOT_STAT = setF (s.reg BOOT_STAT) BOOT_STAT_ACTIVE_BANK bank := by
  rw [State.bootBank, State.updBoot_reg, State.setReg_reg_ne _ _ _ _ (by decide), State.setFld_reg]

theorem State.bootBank_active (h : bank < 2) : (s.bootBank bank).fld BOOT_STAT BOOT_STAT_ACTIVE_BANK = bank := by
  rw [State.fld, State.bootBank_stat, getF_setF _ _ _ (by decide) (by decide)]
  exact Nat.mod_eq_of_lt h

theorem State.bootBank_others {f : Fld} (h : f.lo ≤ f.hi) (k : f.hi < BOOT_STAT_ACTIVE_BANK.lo ∨ BOOT_STAT_ACTIVE_BANK.hi < f.lo) :
    (s.bootBank bank).fld BOOT_STAT f = s.fld BOOT_STAT f := by
  rw [State.fld, State.bootBank_stat]
  rcases k with k | k
  · exact getF_setF_low _ _ _ _ (by decide) (by decide) h k
  · exact getF_setF_high _ _ _ _ (by decide) (by decide) k

theorem State.bootBank_regsKept : s.regsKept (s.bootBank bank) [BOOT_STAT, BOOT_GEN] := fun a ha => by
  obtain ⟨hstat, hgen⟩ : a ≠ BOOT_STAT ∧ a ≠ BOOT_GEN := by simpa using ha
  rw [State.bootBank, State.updBoot_reg, State.setReg_reg_ne _ _ _ _ hgen, State.setFld_reg_ne _ _ _ _ _ hstat]

/-- The valid bank with the larger GENERATION, bank A when they are equal (R433). -/
theorem State.chooseBank_newer (hb : bank < 2) (hv : s.headerValid bank = true)
    (hnew : s.headerValid (1 - bank) = true →
        s.bankGen (1 - bank) < s.bankGen bank ∨ (s.bankGen (1 - bank) = s.bankGen bank ∧ bank = 0)) :
    s.chooseBank = some bank := by
  unfold State.chooseBank
  obtain rfl | rfl : bank = 0 ∨ bank = 1 := by omega
  · rw [if_pos hv, if_neg]
    rw [Bool.and_eq_true, decide_eq_true_eq]
    rintro ⟨hother, hlt⟩
    have hgen := hnew hother
    rw [Nat.sub_zero] at hgen
    omega
  · by_cases hother : s.headerValid 0 = true
    · have hlt : s.bankGen 0 < s.bankGen 1 := (hnew hother).resolve_right fun h => absurd h.2 (by decide)
      rw [if_pos hother, if_pos]
      rw [hv, decide_eq_true hlt]
      rfl
    · rw [if_neg hother, if_pos hv]

/-- The other bank takes over from one whose header could not be read. -/
def State.fallBack (s : State) (o : Nat) : State :=
  ((s.setBit BOOT_STAT BOOT_STAT_FALLBACK true).updBoot (fun b => { b with tried := b.tried ++ [1 - o] })).bootBank o

/-- For any register, as the kernel would compute with one written out. -/
theorem State.frame_of_setBit_updBoot (a : Nat) (f : Fld) (b : Bool) (h : BootSt → BootSt) {t : State}
    (ht : t = { (s.setBit a f b).updBoot h with regs := t.regs, boot := t.boot }) : t = { s with regs := t.regs, boot := t.boot } := ht

theorem State.fallBack_frame : s.fallBack bank = { s with regs := (s.fallBack bank).regs, boot := (s.fallBack bank).boot } :=
  s.frame_of_setBit_updBoot _ _ _ _ (State.bootBank_frame _ _)

theorem State.fallBack_boot : (s.fallBack bank).boot = { s.boot with
    phase := 3, bank := bank, tried := s.boot.tried ++ [1 - bank] ++ [bank], section_ := 8, reports := 0 } := by
  rw [State.fallBack, State.bootBank_boot, State.updBoot_boot, State.setBit_boot]

theorem State.fallBack_gen : (s.fallBack bank).reg BOOT_GEN = BitVec.ofNat 32 (s.bankGen bank) := by
  rw [State.fallBack, State.bootBank_gen, State.bankGen_of_flash]
  rw [State.updBoot_flash, State.setBit_flash]

theorem State.fallBack_fallback : (s.fallBack bank).bit BOOT_STAT BOOT_STAT_FALLBACK = true := by
  rw [State.bit, State.fallBack, State.bootBank_others _ _ (by decide) (by decide)]
  exact (State.updBoot_bit _ _ _ _).trans (s.setBit_bit _ _ _ rfl (by decide))

theorem State.fallBack_regsKept : s.regsKept (s.fallBack bank) [BOOT_STAT, BOOT_GEN] := fun a ha => by
  have hstat : a ∉ [BOOT_STAT] := fun h => ha (List.mem_cons.mpr (.inl (List.mem_singleton.mp h)))
  rw [State.fallBack, State.bootBank_regsKept _ _ a ha, State.updBoot_reg, State.setBit_regsKept _ _ _ _ a hstat]

end

/-! Boot fails (R434). -/

section

variable (s : State) (sect cause : Nat)

/-- What boot holds changes, and every pin is held, besides registers. -/
theorem State.updBoot_holdAll_frame {t : State} (f : BootSt → BootSt) (h : s.regsOnly t) : (t.updBoot f).holdAll =
    { s with regs := (t.updBoot f).holdAll.regs, boot := (t.updBoot f).holdAll.boot, pins := (t.updBoot f).holdAll.pins } := by
  obtain ⟨p, hp⟩ := (t.updBoot f).holdAll_frame
  rw [hp]
  exact congrArg (fun x : State => ({ x with boot := f t.boot, pins := p } : State)) h

theorem State.bootFailed_frame : s.bootFailed sect cause = { s with
    regs := (s.bootFailed sect cause).regs, boot := (s.bootFailed sect cause).boot, pins := (s.bootFailed sect cause).pins } :=
  s.updBoot_holdAll_frame _ (State.regsOnly_trans (State.regsOnly_trans (s.setBit_regsOnly _ _ _) (State.setBit_regsOnly _ _ _ _))
    (State.regsOnly_trans (State.setFld_regsOnly _ _ _ _) (State.setFld_regsOnly _ _ _ _)))

theorem State.bootFailed_held {p : Nat} (h : p < 1024) : ((s.bootFailed sect cause).pin p).held = true := State.holdAll_held _ p h

theorem State.bootFailed_stat : (s.bootFailed sect cause).reg BOOT_STAT =
    setF (setF (setF (setF (s.reg BOOT_STAT) BOOT_STAT_FAILED 1) BOOT_STAT_BOOTING 0) BOOT_STAT_SECTION sect) BOOT_STAT_CAUSE cause := by
  unfold State.bootFailed
  dsimp only
  rw [State.holdAll_reg, State.updBoot_reg, State.setFld_reg, State.setFld_reg, State.setBit_reg, State.setBit_reg,
    if_pos rfl, if_neg Bool.false_ne_true]

theorem State.bootFailed_regsKept : s.regsKept (s.bootFailed sect cause) [BOOT_STAT] := fun a ha => by
  have hne : a ≠ BOOT_STAT := fun h => ha (List.mem_singleton.mpr h)
  unfold State.bootFailed
  dsimp only
  rw [State.holdAll_reg, State.updBoot_reg, State.setFld_reg_ne _ _ _ _ _ hne, State.setFld_reg_ne _ _ _ _ _ hne,
    State.setBit_reg_ne _ _ _ _ _ hne, State.setBit_reg_ne _ _ _ _ _ hne]

theorem State.bootFailed_failed : (s.bootFailed sect cause).bit BOOT_STAT BOOT_STAT_FAILED = true := by
  rw [State.bit, State.fld, State.bootFailed_stat, getF_setF_apart _ _ _ _ (by decide), getF_setF_apart _ _ _ _ (by decide),
    getF_setF_apart _ _ _ _ (by decide), getF_setF _ _ _ (by decide) (by decide)]
  rfl

theorem State.bootFailed_booting : (s.bootFailed sect cause).bit BOOT_STAT BOOT_STAT_BOOTING = false := by
  rw [State.bit, State.fld, State.bootFailed_stat, getF_setF_apart _ _ _ _ (by decide), getF_setF_apart _ _ _ _ (by decide),
    getF_setF _ _ _ (by decide) (by decide)]
  rfl

theorem State.bootFailed_section : (s.bootFailed sect cause).fld BOOT_STAT BOOT_STAT_SECTION = sect % 2 ^ BOOT_STAT_SECTION.width := by
  rw [State.fld, State.bootFailed_stat, getF_setF_apart _ _ _ _ (by decide), getF_setF _ _ _ (by decide) (by decide)]

theorem State.bootFailed_cause : (s.bootFailed sect cause).fld BOOT_STAT BOOT_STAT_CAUSE = cause % 2 ^ BOOT_STAT_CAUSE.width := by
  rw [State.fld, State.bootFailed_stat, getF_setF _ _ _ (by decide) (by decide)]

end

/-! The headers are read. -/

section

variable (s : State) (h : s.boot.phase = 1)
include h

theorem bootHeadersRead_chosen {b : Nat} (hb : s.chooseBank = some b) : exec (.bootHeadersRead false false) s = .next (s.bootBank b) := by
  have harm : exec (.bootHeadersRead false false) s = execBootHeadersRead false false s := rfl
  rw [harm, execBootHeadersRead, if_pos h, hb]
  rfl

theorem bootHeadersRead_fallBack {o : Nat} (ho : o < 2) (hv : s.headerValid o = true) :
    exec (.bootHeadersRead (o == 1) (o == 0)) s = .next (s.fallBack o) := by
  have harm : exec (.bootHeadersRead (o == 1) (o == 0)) s = execBootHeadersRead (o == 1) (o == 0) s := rfl
  have hgo (b : Nat) (hob : otherBank b = o) (hbo : 1 - o = b) : s.headerFailed b false = s.fallBack o := by
    unfold State.headerFailed
    dsimp only
    rw [hob, hv, if_neg (by decide), State.fallBack, hbo]
  rw [harm, execBootHeadersRead, if_pos h]
  obtain rfl | rfl : o = 0 ∨ o = 1 := by omega
  · exact congrArg Host.Outcome.next (hgo 1 rfl rfl)
  · exact congrArg Host.Outcome.next (hgo 0 rfl rfl)

theorem bootHeadersRead_failed {eA eB : Bool} (hA : eA = true ∨ s.headerValid 0 = false) (hB : eB = true ∨ s.headerValid 1 = false) :
    exec (.bootHeadersRead eA eB) s = .next (s.bootFailed 0 (if eA || eB then 4 else 1)) := by
  have harm : exec (.bootHeadersRead eA eB) s = execBootHeadersRead eA eB s := rfl
  have hfail (b : Nat) (e : Bool) (he : e = true ∨ s.headerValid (otherBank b) = false) : s.headerFailed b e = s.bootFailed 0 4 := by
    unfold State.headerFailed
    exact if_pos (by rw [Bool.or_eq_true, Bool.not_eq_true']; exact he)
  rw [harm, execBootHeadersRead, if_pos h]
  cases eA with
  | true => exact congrArg Host.Outcome.next (hfail 0 eB hB)
  | false =>
    have h0 : s.headerValid 0 = false := hA.resolve_left Bool.false_ne_true
    cases eB with
    | true => exact congrArg Host.Outcome.next (hfail 1 false (.inr h0))
    | false =>
      have h1 : s.headerValid 1 = false := hB.resolve_left Bool.false_ne_true
      have hnone : s.chooseBank = none := by
        unfold State.chooseBank
        rw [h0, h1]
        rfl
      rw [hnone]
      rfl

end

end Sys2Proof.Machine
end

section
namespace Sys2Proof.Machine

/-! The last phase of boot (R294, R408, R437). -/

/-- From s to t only registers, what is in force and what is on its way to pin time has changed. -/
def State.forceOnly (s t : State) : Prop := t = { s with regs := t.regs, force := t.force, inFlight := t.inFlight }

section

variable {s t u : State}

theorem State.forceOnly_refl (s : State) : s.forceOnly s := by
  unfold State.forceOnly
  rfl

theorem State.forceOnly_trans (h : s.forceOnly t) (k : t.forceOnly u) : s.forceOnly u := by
  unfold State.forceOnly at *
  rw [h] at k
  exact k

variable (s)

theorem State.setReg_forceOnly (a : Nat) (w : Word) : s.forceOnly (s.setReg a w) := by
  unfold State.forceOnly
  rfl

theorem State.setFld_forceOnly (a : Nat) (f : Fld) (v : Nat) : s.forceOnly (s.setFld a f v) := s.setReg_forceOnly a _

theorem State.setBit_forceOnly (a : Nat) (f : Fld) (b : Bool) : s.forceOnly (s.setBit a f b) := s.setFld_forceOnly a f _

theorem State.setBoth_forceOnly (a : Nat) (w : Word) : s.forceOnly (s.setBoth a w) := by
  unfold State.forceOnly
  rfl

theorem State.withInFlight_forceOnly (l : List PinMsg) : s.forceOnly { s with inFlight := l } := by
  unfold State.forceOnly
  rfl

theorem State.modReqNow_forceOnly (c w : Nat) : s.forceOnly (s.modReqNow c w) :=
  State.forceOnly_trans (s.withInFlight_forceOnly _) (State.setBoth_forceOnly _ _ _)

theorem State.partnerWrite_forceOnly (a : Nat) (v : Word) (be : BitVec 4) : s.forceOnly (s.partnerWrite a v be) := by
  unfold State.partnerWrite
  split
  · exact s.forceOnly_refl
  · exact s.setReg_forceOnly _ _

theorem State.precPowerWrite_forceOnly (r : Nat) (v : Word) (be : BitVec 4) : s.forceOnly (s.precPowerWrite r v be) := by
  unfold State.precPowerWrite
  dsimp only
  split
  · exact s.partnerWrite_forceOnly _ v be
  · exact State.forceOnly_trans (s.partnerWrite_forceOnly _ v be)
      (State.forceOnly_trans (State.setFld_forceOnly _ _ _ _) (State.setBit_forceOnly _ _ _ _))

theorem State.modReqNow_inForce (c w : Nat) : (s.modReqNow c w).inForce (MOD_REQ c) = BitVec.ofNat 32 w := State.setBoth_inForce _ _ _

theorem State.modReqNow_inForce_ne (c w : Nat) {a : Nat} (h : a ≠ MOD_REQ c) : (s.modReqNow c w).inForce a = s.inForce a :=
  State.setBoth_inForce_ne _ _ _ _ h

theorem State.partnerWrite_inForce (a k : Nat) (v : Word) (be : BitVec 4) : (s.partnerWrite a v be).inForce k = s.inForce k := by
  unfold State.partnerWrite
  split
  · rfl
  · exact s.setReg_inForce _ _ _

theorem State.precPowerWrite_inForce (r k : Nat) (v : Word) (be : BitVec 4) : (s.precPowerWrite r v be).inForce k = s.inForce k := by
  unfold State.precPowerWrite
  dsimp only
  split
  · exact s.partnerWrite_inForce ..
  · rw [State.precShow_inForce, State.partnerWrite_inForce]

theorem modReq_inj {c k : Nat} (h : MOD_REQ c = MOD_REQ k) : c = k := by
  unfold MOD_REQ clBlk at h
  omega

theorem modReq_ne_adcCtrl (c k : Nat) : MOD_REQ c ≠ ADC_CTRL k := by
  unfold MOD_REQ ADC_CTRL clBlk
  omega

/-- Cluster c leaves low power and is asked for the mode w. -/
def State.enterMode (s : State) (c w : Nat) : State :=
  (s.setBoth (ADC_CTRL c) (setF (s.reg (ADC_CTRL c)) ADC_CTRL_LOWPWR 0)).modReqNow c w

theorem State.enterModes_eq : s.enterModes = (List.range 8).foldl (fun t r => t.precPowerWrite r 0 15)
    ((List.range 64).foldl (fun t c => t.enterMode c (s.boot.modes.getD c 0)) s) := by rfl

theorem State.enterModes_forceOnly : s.forceOnly s.enterModes := by
  rw [State.enterModes_eq]
  exact State.forceOnly_trans
    (foldl_rel State.forceOnly State.forceOnly_refl (fun _ _ _ => State.forceOnly_trans) _
      (fun t c => State.forceOnly_trans (t.setBoth_forceOnly _ _) (State.modReqNow_forceOnly _ _ _)) _ s)
    (foldl_rel State.forceOnly State.forceOnly_refl (fun _ _ _ => State.forceOnly_trans) _
      (fun t r => t.precPowerWrite_forceOnly r 0 15) _ _)

theorem State.enterModes_inForce {c : Nat} (hc : c < 64) :
    s.enterModes.inForce (MOD_REQ c) = BitVec.ofNat 32 (s.boot.modes.getD c 0) := by
  rw [State.enterModes_eq]
  refine (foldl_obs _ (fun t : State => t.inForce (MOD_REQ c)) (fun t r => t.precPowerWrite_inForce r _ 0 15) _ _).trans ?_
  refine foldl_set (fun t c => t.enterMode c (s.boot.modes.getD c 0))
      (fun t : State => t.inForce (MOD_REQ c)) c _ (fun t => State.modReqNow_inForce _ _ _)
      (fun t y hy => ?_) _ s
    (List.mem_range.mpr hc)
  exact (State.modReqNow_inForce_ne _ _ _ fun h => hy (modReq_inj h).symm).trans
    (t.setBoth_inForce_ne _ _ _ (modReq_ne_adcCtrl c y))

/-- Boot is done and the clusters have their modes. -/
def State.bootDone (s : State) : State :=
  ((s.enterModes.setBit BOOT_STAT BOOT_STAT_DONE true).setBit BOOT_STAT BOOT_STAT_BOOTING false).updBoot (fun b => { b with phase := 8 })

/-- What boot holds changes besides. -/
theorem State.updBoot_frame_of_forceOnly {t : State} (f : BootSt → BootSt) (h : s.forceOnly t) : t.updBoot f = { s with
    regs := (t.updBoot f).regs, force := (t.updBoot f).force, inFlight := (t.updBoot f).inFlight, boot := (t.updBoot f).boot } :=
  congrArg (fun x : State => ({ x with boot := f t.boot } : State)) h

theorem State.bootDone_frame : s.bootDone = { s with
    regs := s.bootDone.regs, force := s.bootDone.force, inFlight := s.bootDone.inFlight, boot := s.bootDone.boot } :=
  s.updBoot_frame_of_forceOnly _ (State.forceOnly_trans (State.forceOnly_trans s.enterModes_forceOnly (State.setBit_forceOnly _ _ _ _))
    (State.setBit_forceOnly _ _ _ _))

theorem State.bootDone_boot : s.bootDone.boot = { s.boot with phase := 8 } := by
  have hboot : s.enterModes.boot = s.boot := by rw [s.enterModes_forceOnly]
  rw [State.bootDone, State.updBoot_boot, State.setBit_boot, State.setBit_boot, hboot]

theorem State.bootDone_gt : s.bootDone.gt = s.gt := by rw [State.bootDone_frame]

theorem State.bootDone_done : s.bootDone.bit BOOT_STAT BOOT_STAT_DONE = true := by
  rw [State.bootDone, State.updBoot_bit, State.setBit_bit_apart _ _ _ _ _ (by decide), State.setBit_bit _ _ _ _ rfl (by decide)]

theorem State.bootDone_booting : s.bootDone.bit BOOT_STAT BOOT_STAT_BOOTING = false := by
  rw [State.bootDone, State.updBoot_bit, State.setBit_bit _ _ _ _ rfl (by decide)]

theorem State.bootDone_inForce {c : Nat} (hc : c < 64) :
    s.bootDone.inForce (MOD_REQ c) = BitVec.ofNat 32 (s.boot.modes.getD c 0) := by
  rw [State.bootDone, State.updBoot_inForce, State.setBit_inForce, State.setBit_inForce, s.enterModes_inForce hc]

/-- The flow engines that start with boot begin their insertions (R437). -/
def State.bootInsertions (s : State) : State := (List.range 8).foldl (fun t n =>
  if t.fld (FLW_CTRL n) FLW_CTRL_START_SRC = 2 ∧ t.cannotInsert n = false then (t.insertion n).putNewRecords t else t) s

theorem exec_bootPhase8 {g : Nat} (hg : g % 64 = 0) (h : s.boot.phase = 7) (hcal : ∀ c, c < 64 → s.bootCalibrated c = true) :
    exec (.bootPhase8 g) s = .next (s.at g).bootDone.bootInsertions := by
  have harm : exec (.bootPhase8 g) s = execBootPhase8 g s := rfl
  rw [harm, execBootPhase8]
  exact if_pos ⟨hg, h, List.all_eq_true.mpr fun c hc => hcal c (List.mem_range.mp hc)⟩

end

/-- Settles O6: the headers lead to a bank, to the other bank or to a failure, each one state of its own; phase 8 is `State.bootDone` before the
insertions. -/
theorem bootChoosesABankAndEnds : Obligations.BootChoosesABankAndEnds := by
  unfold Obligations.BootChoosesABankAndEnds
  refine ⟨fun s h => ⟨fun b hb hv hnew => ?_, fun o ho hv => ?_, fun eA eB hfail => ?_⟩,
      fun g s => ⟨fun hg h hcal => ?_, rfl⟩⟩
  · exact ⟨_, bootHeadersRead_chosen s h (s.chooseBank_newer b hb hv hnew), s.bootBank_active b hb, s.bootBank_gen b, s.bootBank_boot b,
      s.bootBank_frame b, s.bootBank_regsKept b, fun f hf hapart => s.bootBank_others b hf hapart⟩
  · exact ⟨_, bootHeadersRead_fallBack s h ho hv, s.fallBack_fallback o, State.bootBank_active _ o ho, s.fallBack_gen o, s.fallBack_boot o,
      s.fallBack_frame o, s.fallBack_regsKept o⟩
  · refine ⟨_, bootHeadersRead_failed s h hfail.1 hfail.2, s.bootFailed_failed _ _, s.bootFailed_booting _ _, ?_, s.bootFailed_section _ _,
      fun p hp => s.bootFailed_held _ _ hp, s.bootFailed_frame _ _, s.bootFailed_regsKept _ _⟩
    rw [State.bootFailed_cause]
    cases eA || eB <;> rfl
  · exact ⟨_, exec_bootPhase8 s hg h hcal, (s.at g).bootDone_boot, (s.at g).bootDone_done, (s.at g).bootDone_booting,
      fun c hc => (s.at g).bootDone_inForce hc, (s.at g).bootDone_gt,
      by rw [State.bootDone_gt]; exact (s.at g).bootDone_frame⟩

end Sys2Proof.Machine
end

section
namespace Sys2Proof.Machine

/-! The work beside Gauge at the edges of an interruption (R308, R309, R311, R391): contacts and fills are reported, a precision converter stops
or restarts, an event is raised, and waiting CAL entries and RECOVER are told. -/

/-- From s to t the state has changed in cluster c, in registers, and in what neither the pins, the engines, the runs but for their fill
reports, the flags nor the stores hold. -/
structure CalFrame (c : Nat) (s t : State) : Prop where
  others : ∀ k, k ≠ c → t.cl k = s.cl k
  pins : s.pinsKept t
  runs : ∀ r ∈ t.runs, ∃ q ∈ s.runs, r = { q with reports := r.reports, lastReport := r.lastReport }
  rest : (t.engines, t.flags, t.stores) = (s.engines, s.flags, s.stores)

/-- The registers of the cluster windows, and those of the hub above its PRT block that no ring and no converter has at their place. -/
def gaugeReg (a : Nat) : Prop := a < rgBlk 0 0 ∨ hubBlk 5 ≤ a ∧ a % 0x1000000 < 0x100000

/-- From s to t something beside Gauge of cluster c has been done. -/
structure Aside (c : Nat) (s t : State) : Prop extends CalFrame c s t where
  regs : ∀ a, gaugeReg a → t.reg a = s.reg a
  gauge : (t.cl c).gauge = (s.cl c).gauge
  recovers : (t.cl c).svc.any (fun v => v.op == 5) = (s.cl c).svc.any (fun v => v.op == 5)
  hub : t.hub = s.hub

theorem gaugeReg.ne {a b : Nat} (ha : gaugeReg a) (hb : rgBlk 0 0 ≤ b) (hmod : 0x100000 ≤ b % 0x1000000) : a ≠ b := by
  rintro rfl
  unfold gaugeReg at ha
  omega

theorem gaugeReg.outside {a : Nat} (ha : gaugeReg a) : a < hubBlk 4 ∨ hubBlk 5 ≤ a := by
  simp only [gaugeReg, rgBlk, hubBlk] at *
  omega

theorem rgBlk_inner {r b o : Nat} (hb : b < 14) (h : 0x100000 ≤ b * 0x100000 + o) (ho : o < 0x100000) :
    rgBlk 0 0 ≤ rgBlk r b + o ∧ 0x100000 ≤ (rgBlk r b + o) % 0x1000000 := by
  unfold rgBlk
  omega

section

variable {c : Nat} {s t u : State}

namespace CalFrame

theorem refl (c : Nat) (s : State) : CalFrame c s s := ⟨fun _ _ => rfl, fun _ => rfl, fun r hr => ⟨r, hr, rfl⟩, rfl⟩

theorem trans (h : CalFrame c s t) (k : CalFrame c t u) : CalFrame c s u where
  others m hm := (k.others m hm).trans (h.others m hm)
  pins p := (k.pins p).trans (h.pins p)
  runs r hr := by
    obtain ⟨q, hq, hrq⟩ := k.runs r hr
    obtain ⟨p, hp, hqp⟩ := h.runs q hq
    exact ⟨p, hp, hrq.trans (congrArg (fun x : Run => { x with reports := r.reports, lastReport := r.lastReport }) hqp)⟩
  rest := k.rest.trans h.rest

theorem setReg (c : Nat) (s : State) (a : Nat) (w : Word) : CalFrame c s (s.setReg a w) :=
  ⟨fun _ _ => rfl, fun _ => rfl, fun r hr => ⟨r, hr, rfl⟩, rfl⟩

theorem setFld (h : CalFrame c s t) (a : Nat) (f : Fld) (v : Nat) : CalFrame c s (t.setFld a f v) := h.trans (setReg c t a _)

theorem setBit (h : CalFrame c s t) (a : Nat) (f : Fld) (b : Bool) : CalFrame c s (t.setBit a f b) := h.setFld a f _

theorem countSat (h : CalFrame c s t) (a : Nat) (f : Fld) (k : Nat) : CalFrame c s (t.countSat a f k) := h.setFld a f _

theorem updGauge (h : CalFrame c s t) (f : Gauge → Gauge) : CalFrame c s (t.updGauge c f) :=
  h.trans ⟨fun _ hk => t.updCl_cl_ne c _ _ hk, fun _ => rfl, fun r hr => ⟨r, hr, rfl⟩, rfl⟩

theorem atGrain (c : Nat) (s : State) (g : Nat) : CalFrame c s (s.at g) := ⟨fun _ _ => rfl, fun _ => rfl, fun r hr => ⟨r, hr, rfl⟩, rfl⟩

end CalFrame

namespace Aside

theorem refl (c : Nat) (s : State) : Aside c s s := ⟨.refl c s, fun _ _ => rfl, rfl, rfl, rfl⟩

theorem trans (h : Aside c s t) (k : Aside c t u) : Aside c s u :=
  ⟨h.toCalFrame.trans k.toCalFrame, fun a ha => (k.regs a ha).trans (h.regs a ha), k.gauge.trans h.gauge,
    k.recovers.trans h.recovers, k.hub.trans h.hub⟩

theorem foldl {α : Type} {f : State → α → State} (h : ∀ t x, Aside c t (f t x)) (l : List α) (s : State) : Aside c s (l.foldl f s) :=
  foldl_holds (P := fun t => Aside c s t) (fun t x ht => ht.trans (h t x)) l s (refl c s)

theorem fld (h : Aside c s t) {a : Nat} (ha : gaugeReg a) (f : Fld) : t.fld a f = s.fld a f := State.fld_of_reg f (h.regs a ha)

theorem bit (h : Aside c s t) {a : Nat} (ha : gaugeReg a) (f : Fld) : t.bit a f = s.bit a f := State.bit_of_reg f (h.regs a ha)

/-- What touches the registers and records of the partner ports, and memory. -/
theorem of_portsOnly (h : PortsOnly s t) (hp : s.pinsKept t) : Aside c s t where
  others k _ := (congrArg (State.cl · k) h.rest :)
  pins := hp
  runs r hr := by
    have hruns : t.runs = s.runs := (congrArg State.runs h.rest :)
    exact ⟨r, hruns ▸ hr, rfl⟩
  rest := (congrArg (fun x : State => (x.engines, x.flags, x.stores)) h.rest :)
  regs a ha := h.regs a ha.outside
  gauge := (congrArg (fun x : State => (x.cl c).gauge) h.rest :)
  recovers := (congrArg (fun x : State => (x.cl c).svc.any (fun v => v.op == 5)) h.rest :)
  hub := (congrArg State.hub h.rest :)

theorem event (c : Nat) (s : State) (code src unit arg value : Nat) : Aside c s (s.event code src unit arg value) :=
  of_portsOnly (s.event_portsOnly ..) (State.pinsKept_of_pinView (s.event_pinView ..))

theorem showContact (c : Nat) (s old : State) (p g : Nat) : Aside c s (s.showContact old p g) := by
  rw [State.showContact_frame]
  exact ⟨⟨fun _ _ => rfl, fun _ => rfl, fun r hr => ⟨r, hr, rfl⟩, rfl⟩, fun _ _ => rfl, rfl, rfl, rfl⟩

theorem showCluster (c : Nat) (s old : State) (g : Nat) : Aside c s (s.showCluster old c g) :=
  foldl (fun t _ => showContact c t old _ g) _ s

theorem reportFill (c : Nat) (s : State) : Aside c s (s.reportFill c) := by
  unfold State.reportFill
  split
  · exact refl c s
  · refine ⟨⟨fun _ _ => rfl, fun _ => rfl, fun r hr => ?_, rfl⟩, fun _ _ => rfl, rfl, rfl, rfl⟩
    obtain ⟨q, hq, rfl⟩ := List.mem_map.mp hr
    refine ⟨q, hq, ?_⟩
    split <;> rfl

/-! A precision converter. -/

theorem setReg (c : Nat) (s : State) {a : Nat} (w : Word) (ha : rgBlk 0 0 ≤ a ∧ 0x100000 ≤ a % 0x1000000) : Aside c s (s.setReg a w) :=
  ⟨.setReg c s a w, fun b hb => s.setReg_reg_ne a w b (hb.ne ha.1 ha.2), rfl, rfl, rfl⟩

theorem updPrec (c : Nat) (s : State) (r : Nat) (f : PrecConv → PrecConv) : Aside c s (s.updPrec r f) :=
  ⟨⟨fun _ _ => rfl, fun _ => rfl, fun r hr => ⟨r, hr, rfl⟩, rfl⟩, fun _ _ => rfl, rfl, rfl, rfl⟩

theorem ringStat_inner (n : Nat) : rgBlk 0 0 ≤ ringStat n ∧ 0x100000 ≤ ringStat n % 0x1000000 := by
  simp only [ringStat, RING_STAT, ringRg, ringLr, rgBlk]
  omega

theorem sourceRequest (c : Nat) (s : State) (n : Nat) : Aside c s (s.sourceRequest n) := by
  unfold State.sourceRequest
  split
  · exact of_portsOnly (s.violation_portsOnly ..) (State.pinsKept_of_pinView (s.violation_pinView ..))
  · exact setReg c s _ (ringStat_inner n)

theorem precDemand (c : Nat) (s : State) (r : Nat) : Aside c s (s.precDemand r) := by
  unfold State.precDemand
  dsimp only
  split
  · exact sourceRequest c s _
  · exact refl c s

theorem precPush (c : Nat) (s : State) (r entry : Nat) : Aside c s (s.precPush r entry) := by
  unfold State.precPush
  dsimp only
  split
  · exact ((setReg c s _ (rgBlk_inner (by decide) (by decide) (by decide))).trans (updPrec c _ r _)).trans (precDemand c _ r)
  · exact (updPrec c s r _).trans (precDemand c _ r)

theorem precDue (c : Nat) (s : State) (r g : Nat) : Aside c s (s.precDue r g) := by
  unfold State.precDue
  split
  · split
    · exact (updPrec c s r _).trans (precPush c _ r _)
    · exact refl c s
  · exact refl c s

theorem precStop (c : Nat) (s : State) (r g : Nat) : Aside c s (s.precStop r g) := (precDue c s r g).trans (updPrec c _ r _)

theorem precShow (c : Nat) (s : State) (r : Nat) (lp : Bool) : Aside c s (s.precShow r lp) :=
  have hinner := rgBlk_inner (r := r) (b := 3) (o := 4) (by decide) (by decide) (by decide)
  (setReg c s _ hinner).trans (setReg c _ _ hinner)

theorem precRestart (c : Nat) (s : State) (r g : Nat) : Aside c s (s.precRestart r g) := by
  unfold State.precRestart
  exact ((precDue c s r g).trans (precShow c _ r _)).trans (updPrec c _ r _)

/-! Who waits for the calibration. -/

theorem updFlow (c : Nat) (s : State) (n : Nat) (f : FlowSt → FlowSt) : Aside c s (s.updFlow n f) :=
  ⟨⟨fun _ _ => rfl, fun _ => rfl, fun r hr => ⟨r, hr, rfl⟩, rfl⟩, fun _ _ => rfl, rfl, rfl, rfl⟩

theorem flowCalFailed (c : Nat) (s : State) : Aside c s (s.flowCalFailed c) := foldl (fun t n => updFlow c t n _) _ s

/-- Being told how a calibration ended changes nothing of a service command that says which one it is. -/
theorem svcCal (c : Nat) (s : State) (kind : CalKind) (fail : Option Nat) (g : Nat) : Aside c s (s.svcCal c kind fail g) where
  others _ hk := s.updCl_cl_ne c _ _ hk
  pins _ := rfl
  runs r hr := ⟨r, hr, rfl⟩
  rest := rfl
  regs _ _ := rfl
  gauge := by rw [State.svcCal, State.updCl_cl]
  recovers := by
    rw [State.svcCal, State.updCl_cl]
    cases (s.cl c).svc with
    | none => rfl
    | some v => cases fail <;> cases kind <;> rfl
  hub := rfl

end Aside

end

end Sys2Proof.Machine
end

section
namespace Sys2Proof.Machine

/-! The registers and the record of Gauge. -/

theorem State.updGauge_gauge (s : State) (c : Nat) (f : Gauge → Gauge) : ((s.updGauge c f).cl c).gauge = f (s.cl c).gauge := by
  rw [State.updGauge, State.updCl_cl]

theorem State.updGauge_cl_ne (s : State) (c : Nat) (f : Gauge → Gauge) {k : Nat} (hk : k ≠ c) : (s.updGauge c f).cl k = s.cl k :=
  State.updCl_cl_ne _ _ _ _ hk

theorem State.updGauge_reg (s : State) (c : Nat) (f : Gauge → Gauge) (a : Nat) : (s.updGauge c f).reg a = s.reg a := by rfl

theorem reqFld_apart_apply (kind : CalKind) : (reqFld kind).apart CAL_CTRL_APPLY = true := by cases kind <;> decide

theorem tRefFld_fits (kind : CalKind) : (tRefFld kind).lo ≤ (tRefFld kind).hi ∧ (tRefFld kind).hi < 32 ∧ (tRefFld kind).width = 12 := by
  cases kind <;> decide

end Sys2Proof.Machine
end

section
namespace Sys2Proof.Machine

/-! An interruption begins (R307, R308, R310, R314). -/

section

variable (s : State) (c : Nat) (kind : CalKind) (g : Nat)

/-- The state but for what the beginning of an interruption touches. -/
def State.sansBegin (s : State) : State := { s with regs := [], clusters := [], pins := [], regions := [], hub := {}, outs := [] }

theorem State.eq_of_sansBegin {s t : State} (h : t.sansBegin = s.sansBegin) : t = { s with
    regs := t.regs, clusters := t.clusters, pins := t.pins, regions := t.regions, hub := t.hub, outs := t.outs } :=
  congrArg (fun x : State => { x with
    regs := t.regs, clusters := t.clusters, pins := t.pins, regions := t.regions, hub := t.hub, outs := t.outs }) h

/-- What an interruption of a kind takes as it begins: a converter start that waits, and VSEL. -/
def State.calTaken (s : State) (c : Nat) (kind : CalKind) : State := if kind = .dc then (s.calTakesAdc c).latchVsel else s.calTakesAdc c

/-- BUSY and KIND show an interruption of a kind. -/
def State.calBusy (s : State) (c : Nat) (kind : CalKind) : State :=
  (s.setBit (CAL_STAT c) CAL_STAT_BUSY true).setFld (CAL_STAT c) CAL_STAT_KIND (kindNo kind)

/-- The grain and the temperature at which an interruption of a kind begins. -/
def State.calStamped (s : State) (c : Nat) (kind : CalKind) (g : Nat) : State :=
  (s.setPair (CAL_INT_GT_LO c) (CAL_INT_GT_HI c) (g % 2 ^ 64)).setFld (CAL_TREF c) (tRefFld kind)
    ((s.setPair (CAL_INT_GT_LO c) (CAL_INT_GT_HI c) (g % 2 ^ 64)).fld (CAL_TNOW c) CAL_TNOW_T_NOW)

/-- The registers that show that an interruption of a kind has begun at grain g. -/
def State.calShown (s : State) (c : Nat) (kind : CalKind) (g : Nat) : State :=
  ((s.setBit (CAL_CTRL c) (reqFld kind) false).calBusy c kind).calStamped c kind g

/-- Every pin of a cluster is held from grain g on. -/
def State.holdCluster (s : State) (c g : Nat) : State := (List.range 16).foldl (fun t u => t.holdPin (16 * c + u) g) s

/-- The record of an interruption that begins at grain g. -/
def State.begunGauge (s : State) (c : Nat) (kind : CalKind) (g : Nat) (x : Gauge) : Gauge := { x with
  interruption := some (kind, g, false)
  refSel := match kind with
    | .timing => s.tsel
    | .dc => s.hub.vsel
  excluded := maskOf ((List.range 16).filter (fun u => s.pinMasked (16 * c + u))) }

/-- The pins of a cluster are held at grain g, and the contacts that differ from an older state's are reported. -/
def State.pinsHeld (s old : State) (c g : Nat) : State := (s.holdCluster c g).showCluster old c g

/-- The interruption in the registers and the record of its cluster. -/
def State.gaugeBegun (s : State) (c : Nat) (kind : CalKind) (g : Nat) : State :=
  (s.calShown c kind g).updGauge c (s.begunGauge c kind g)

/-- The interruption but for the precision converter. -/
def State.interruptionHeld (s : State) (c : Nat) (kind : CalKind) (g : Nat) : State :=
  ((s.calTaken c kind).gaugeBegun c kind g).pinsHeld (s.calTaken c kind) c g

theorem State.calBegin_eq : s.calBegin c kind g =
    if kind = .dc ∧ c % 8 = 0 then (s.interruptionHeld c kind g).precStop (c / 8) g else s.interruptionHeld c kind g := by rfl

/-! What it takes. -/

theorem State.calTakesAdc_frame : ∃ r k, s.calTakesAdc c = { s with regs := r, clusters := k } := by
  unfold State.calTakesAdc
  split
  · dsimp only
    split <;> exact ⟨_, _, rfl⟩
  · exact ⟨_, _, rfl⟩

theorem State.calTakesAdc_regsKept : s.regsKept (s.calTakesAdc c) [ADC_QSTAT c] := by
  unfold State.calTakesAdc
  split
  · dsimp only
    have htaken : s.regsKept (s.updAdc c (fun y => { y with seq := none })) [ADC_QSTAT c] := fun a _ => s.updAdc_reg c _ a
    split
    · exact htaken
    · exact State.regsKept_trans htaken (State.adcMissed_regsKept _ c)
  · exact fun _ _ => rfl

theorem State.calTakesAdc_cl_ne {k : Nat} (hk : k ≠ c) : (s.calTakesAdc c).cl k = s.cl k := by
  unfold State.calTakesAdc
  split
  · dsimp only
    split
    · exact s.updAdc_cl_ne c _ hk
    · rw [State.adcMissed, State.countSat_cl, s.updAdc_cl_ne c _ hk]
  · rfl

theorem calRefCtrl_ne_adcQstat (c : Nat) : CAL_REF_CTRL ≠ ADC_QSTAT c := by
  unfold CAL_REF_CTRL ADC_QSTAT clBlk
  omega

/-- What an interruption takes, but for the hub, lies in the registers and the record of its cluster. -/
theorem State.calTaken_frame : ∃ r k h, s.calTaken c kind = { s with regs := r, clusters := k, hub := h } := by
  obtain ⟨r, k, hrk⟩ := s.calTakesAdc_frame c
  unfold State.calTaken
  rw [hrk]
  split <;> exact ⟨_, _, _, rfl⟩

theorem State.calTaken_regsKept : s.regsKept (s.calTaken c kind) [ADC_QSTAT c] := by
  unfold State.calTaken
  split <;> exact s.calTakesAdc_regsKept c

theorem State.calTaken_cl_ne {k : Nat} (hk : k ≠ c) : (s.calTaken c kind).cl k = s.cl k := by
  unfold State.calTaken
  split <;> exact s.calTakesAdc_cl_ne c hk

theorem State.calTaken_hub_timing : (s.calTaken c .timing).hub = s.hub := by
  obtain ⟨r, k, hrk⟩ := s.calTakesAdc_frame c
  rw [State.calTaken, if_neg (by decide), hrk]

theorem State.calTaken_vsel : (s.calTaken c .dc).hub.vsel = s.fld CAL_REF_CTRL CAL_REF_CTRL_VSEL := by
  rw [State.calTaken, if_pos rfl]
  exact State.fld_of_reg _ (s.calTakesAdc_regsKept c _ (by simpa using calRefCtrl_ne_adcQstat c))

/-! What it shows. -/

theorem State.setPair_regsOnly (lo hi v : Nat) : s.regsOnly (s.setPair lo hi v) :=
  State.regsOnly_trans (s.setReg_regsOnly lo _) (State.setReg_regsOnly _ hi _)

theorem State.calShown_regsOnly : s.regsOnly (s.calShown c kind g) :=
  State.regsOnly_trans (State.regsOnly_trans (s.setBit_regsOnly ..)
      (State.regsOnly_trans (State.setBit_regsOnly ..) (State.setFld_regsOnly ..)))
    (State.regsOnly_trans (State.setPair_regsOnly ..) (State.setFld_regsOnly ..))

theorem State.calBusy_regsKept : s.regsKept (s.calBusy c kind) [CAL_STAT c] :=
  State.regsKept_trans (s.setBit_regsKept _ _ _) (State.setFld_regsKept _ _ _ (List.mem_singleton_self _))

theorem State.calStamped_regsKept : s.regsKept (s.calStamped c kind g) [CAL_INT_GT_LO c, CAL_INT_GT_HI c, CAL_TREF c] := by
  intro a ha
  obtain ⟨hlo, hhi, href⟩ : a ≠ CAL_INT_GT_LO c ∧ a ≠ CAL_INT_GT_HI c ∧ a ≠ CAL_TREF c := by simpa using ha
  rw [State.calStamped, State.setFld_reg_ne _ _ _ _ _ href, State.setPair_reg_ne _ _ _ _ _ hlo hhi]

theorem State.calShown_regsKept :
    s.regsKept (s.calShown c kind g) [CAL_CTRL c, CAL_STAT c, CAL_INT_GT_LO c, CAL_INT_GT_HI c, CAL_TREF c] := by
  intro a ha
  simp only [List.mem_cons, List.not_mem_nil, or_false, not_or] at ha
  obtain ⟨hctrl, hstat, hlo, hhi, href⟩ := ha
  rw [State.calShown, State.calStamped_regsKept _ _ _ _ _ (by simp [hlo, hhi, href]), State.calBusy_regsKept _ _ _ _ (by simpa using hstat),
    State.setBit_reg_ne _ _ _ _ _ hctrl]

theorem calCtrl_kept (c : Nat) : CAL_CTRL c ∉ [CAL_INT_GT_LO c, CAL_INT_GT_HI c, CAL_TREF c] ∧ CAL_CTRL c ∉ [CAL_STAT c] := by
  simp [CAL_CTRL, CAL_INT_GT_LO, CAL_INT_GT_HI, CAL_TREF, CAL_STAT]

theorem calStat_kept (c : Nat) : CAL_STAT c ∉ [CAL_INT_GT_LO c, CAL_INT_GT_HI c, CAL_TREF c] := by
  simp [CAL_INT_GT_LO, CAL_INT_GT_HI, CAL_TREF, CAL_STAT]

theorem State.calShown_req : (s.calShown c kind g).bit (CAL_CTRL c) (reqFld kind) = false := by
  rw [State.calShown, State.bit_of_reg _ (State.calStamped_regsKept _ _ _ _ _ (calCtrl_kept c).1),
    State.bit_of_reg _ (State.calBusy_regsKept _ _ _ _ (calCtrl_kept c).2), State.setBit_bit _ _ _ _ (reqFld_bit kind).1 (reqFld_bit kind).2]

theorem State.calShown_busy : (s.calShown c kind g).bit (CAL_STAT c) CAL_STAT_BUSY = true := by
  rw [State.calShown, State.bit_of_reg _ (State.calStamped_regsKept _ _ _ _ _ (calStat_kept c)), State.calBusy,
    State.setFld_bit_apart _ _ _ _ _ (by decide), State.setBit_bit _ _ _ _ (by decide) (by decide)]

theorem State.calShown_kind : (s.calShown c kind g).fld (CAL_STAT c) CAL_STAT_KIND = kindNo kind := by
  rw [State.calShown, State.fld_of_reg _ (State.calStamped_regsKept _ _ _ _ _ (calStat_kept c)), State.calBusy,
    State.setFld_fld _ _ _ _ (by decide) (by decide)]
  cases kind <;> rfl

theorem State.calStamped_tref : (s.calStamped c kind g).fld (CAL_TREF c) (tRefFld kind) = s.fld (CAL_TNOW c) CAL_TNOW_T_NOW := by
  obtain ⟨hle, hlt, hwidth⟩ := tRefFld_fits kind
  have hnow : (s.setPair (CAL_INT_GT_LO c) (CAL_INT_GT_HI c) (g % 2 ^ 64)).reg (CAL_TNOW c) = s.reg (CAL_TNOW c) :=
    State.setPair_reg_ne _ _ _ _ _ (by simp [CAL_TNOW, CAL_INT_GT_LO]) (by simp [CAL_TNOW, CAL_INT_GT_HI])
  rw [State.calStamped, State.setFld_fld _ _ _ _ hle hlt, State.fld_of_reg _ hnow, hwidth]
  exact Nat.mod_eq_of_lt (s.fld_lt ..)

theorem State.calShown_tref : (s.calShown c kind g).fld (CAL_TREF c) (tRefFld kind) = s.fld (CAL_TNOW c) CAL_TNOW_T_NOW := by
  rw [State.calShown, State.calStamped_tref, State.fld_of_reg _ (State.calBusy_regsKept _ _ _ _ (by simp [CAL_TNOW, CAL_STAT])),
    State.fld_of_reg _ (State.setBit_reg_ne _ _ _ _ _ (by simp [CAL_TNOW, CAL_CTRL]))]

/-! The pins are held and the contacts reported. -/

theorem State.showCluster_frame (old : State) : ∃ o, s.showCluster old c g = { s with outs := o } := by
  refine foldl_holds (P := fun t => ∃ o, t = { s with outs := o }) (fun t u ht => ?_) _ s ⟨_, rfl⟩
  obtain ⟨o, rfl⟩ := ht
  exact ⟨_, State.showContact_frame ..⟩

theorem State.holdCluster_frame : ∃ p, s.holdCluster c g = { s with pins := p } := State.updPins_frame (PinSt.hold g) (16 * c) _ s

theorem State.holdCluster_pin {u : Nat} (hu : u < 16) : (s.holdCluster c g).pin (16 * c + u) = (s.pin (16 * c + u)).hold g :=
  (State.updPins_pin (PinSt.hold g) (16 * c) u _ s List.nodup_range).trans (if_pos (List.mem_range.mpr hu))

theorem State.holdCluster_pin_ne {q : Nat} (hq : pinCl q ≠ c) : (s.holdCluster c g).pin q = s.pin q :=
  foldl_obs_mem _ (State.pin · q) _ (fun u hu t => t.updPin_pin_ne _ _ _ fun e => hq (by
    have := List.mem_range.mp hu
    unfold pinCl
    omega)) s

theorem PinSt.hold_kept (x : PinSt) :
    ({ x.hold g with player := none } : PinSt) = { x with held := true, heldFrom := (x.hold g).heldFrom, player := none } := by
  unfold PinSt.hold
  split
  · next h => rw [← h]
  · rfl

theorem PinSt.heldFrom_of_kept {x y : PinSt} (h : ({ x with player := none } : PinSt) = { y with player := none }) :
    x.heldFrom = y.heldFrom := (congrArg PinSt.heldFrom h :)

/-- The pins and the outputs alone change. -/
theorem State.pinsHeld_frame (old : State) : ∃ p o, s.pinsHeld old c g = { s with pins := p, outs := o } := by
  obtain ⟨p, hp⟩ := s.holdCluster_frame c g
  obtain ⟨o, ho⟩ := (s.holdCluster c g).showCluster_frame c g old
  exact ⟨p, o, by rw [State.pinsHeld, ho, hp]⟩

theorem State.pinsHeld_kept (old : State) : (s.pinsHeld old c g).reg = s.reg ∧ (s.pinsHeld old c g).cl = s.cl ∧
    (s.pinsHeld old c g).rg = s.rg ∧ (s.pinsHeld old c g).hub = s.hub ∧ (s.pinsHeld old c g).sansBegin = s.sansBegin := by
  obtain ⟨p, o, h⟩ := s.pinsHeld_frame c g old
  rw [h]
  exact ⟨rfl, rfl, rfl, rfl, rfl⟩

theorem State.showCluster_pin (old : State) (q : Nat) : (s.showCluster old c g).pin q = s.pin q := by
  obtain ⟨o, ho⟩ := s.showCluster_frame c g old
  rw [ho]
  rfl

theorem State.pinsHeld_pin (old : State) {u : Nat} (hu : u < 16) : (s.pinsHeld old c g).pin (16 * c + u) = (s.pin (16 * c + u)).hold g := by
  rw [State.pinsHeld, State.showCluster_pin, State.holdCluster_pin _ _ _ hu]

theorem State.pinsHeld_pin_ne (old : State) {q : Nat} (hq : pinCl q ≠ c) : (s.pinsHeld old c g).pin q = s.pin q := by
  rw [State.pinsHeld, State.showCluster_pin, State.holdCluster_pin_ne _ _ _ hq]

/-! The registers and the record of the cluster. -/

theorem State.kept_of_regsOnly {s t : State} (h : s.regsOnly t) : t.cl = s.cl ∧ t.rg = s.rg ∧ t.hub = s.hub ∧ t.pin = s.pin ∧
    t.sansBegin = s.sansBegin := by
  rw [h]
  exact ⟨rfl, rfl, rfl, rfl, rfl⟩

theorem State.updGauge_kept (f : Gauge → Gauge) : (s.updGauge c f).reg = s.reg ∧ (s.updGauge c f).rg = s.rg ∧
    (s.updGauge c f).hub = s.hub ∧ (s.updGauge c f).pin = s.pin ∧ (s.updGauge c f).sansBegin = s.sansBegin := ⟨rfl, rfl, rfl, rfl, rfl⟩

theorem State.gaugeBegun_kept : (s.gaugeBegun c kind g).reg = (s.calShown c kind g).reg ∧ (s.gaugeBegun c kind g).rg = s.rg ∧
    (s.gaugeBegun c kind g).hub = s.hub ∧ (s.gaugeBegun c kind g).pin = s.pin ∧ (s.gaugeBegun c kind g).sansBegin = s.sansBegin := by
  obtain ⟨-, hrg, hhub, hpin, hsans⟩ := State.kept_of_regsOnly (s.calShown_regsOnly c kind g)
  obtain ⟨hreg', hrg', hhub', hpin', hsans'⟩ := (s.calShown c kind g).updGauge_kept c (s.begunGauge c kind g)
  exact ⟨hreg', hrg'.trans hrg, hhub'.trans hhub, hpin'.trans hpin, hsans'.trans hsans⟩

theorem State.gaugeBegun_cl_ne {k : Nat} (hk : k ≠ c) : (s.gaugeBegun c kind g).cl k = s.cl k := by
  rw [State.gaugeBegun, State.updGauge_cl_ne _ _ _ hk, (State.kept_of_regsOnly (s.calShown_regsOnly c kind g)).1]

theorem State.gaugeBegun_interruption : ((s.gaugeBegun c kind g).cl c).gauge.interruption = some (kind, g, false) := by
  rw [State.gaugeBegun, State.updGauge_gauge]
  rfl

theorem State.calTaken_kept : (s.calTaken c kind).rg = s.rg ∧ (s.calTaken c kind).pin = s.pin ∧
    (s.calTaken c kind).sansBegin = s.sansBegin := by
  obtain ⟨r, k, h, htaken⟩ := s.calTaken_frame c kind
  rw [htaken]
  exact ⟨rfl, rfl, rfl⟩

/-! The interruption but for the precision converter. -/

theorem State.interruptionHeld_kept : (s.interruptionHeld c kind g).reg = ((s.calTaken c kind).calShown c kind g).reg ∧
    (s.interruptionHeld c kind g).rg = s.rg ∧ (s.interruptionHeld c kind g).hub = (s.calTaken c kind).hub ∧
    (s.interruptionHeld c kind g).sansBegin = s.sansBegin := by
  obtain ⟨hreg, -, hrg, hhub, hsans⟩ := ((s.calTaken c kind).gaugeBegun c kind g).pinsHeld_kept c g (s.calTaken c kind)
  obtain ⟨hreg', hrg', hhub', -, hsans'⟩ := (s.calTaken c kind).gaugeBegun_kept c kind g
  obtain ⟨hrg'', -, hsans''⟩ := s.calTaken_kept c kind
  exact ⟨hreg.trans hreg', hrg.trans (hrg'.trans hrg''), hhub.trans hhub', hsans.trans (hsans'.trans hsans'')⟩

theorem State.interruptionHeld_rg : (s.interruptionHeld c kind g).rg = s.rg := (s.interruptionHeld_kept c kind g).2.1

theorem State.interruptionHeld_reg (a : Nat) : (s.interruptionHeld c kind g).reg a = ((s.calTaken c kind).calShown c kind g).reg a :=
  congrFun (s.interruptionHeld_kept c kind g).1 a

theorem State.interruptionHeld_cl (k : Nat) : (s.interruptionHeld c kind g).cl k = ((s.calTaken c kind).gaugeBegun c kind g).cl k := by
  obtain ⟨-, hcl, -⟩ := ((s.calTaken c kind).gaugeBegun c kind g).pinsHeld_kept c g (s.calTaken c kind)
  exact congrFun hcl k

theorem State.interruptionHeld_cl_ne {k : Nat} (hk : k ≠ c) : (s.interruptionHeld c kind g).cl k = s.cl k := by
  rw [State.interruptionHeld_cl, State.gaugeBegun_cl_ne _ _ _ _ hk, s.calTaken_cl_ne c kind hk]

theorem State.interruptionHeld_interruption : ((s.interruptionHeld c kind g).cl c).gauge.interruption = some (kind, g, false) := by
  rw [State.interruptionHeld_cl, State.gaugeBegun_interruption]

theorem State.gaugeBegun_taken_pin : ((s.calTaken c kind).gaugeBegun c kind g).pin = s.pin := by
  obtain ⟨-, -, -, hpin, -⟩ := (s.calTaken c kind).gaugeBegun_kept c kind g
  obtain ⟨-, hpin', -⟩ := s.calTaken_kept c kind
  exact hpin.trans hpin'

theorem State.interruptionHeld_pin {u : Nat} (hu : u < 16) :
    (s.interruptionHeld c kind g).pin (16 * c + u) = (s.pin (16 * c + u)).hold g := by
  rw [State.interruptionHeld, State.pinsHeld_pin _ c g _ hu, State.gaugeBegun_taken_pin]

theorem State.interruptionHeld_pin_ne {q : Nat} (hq : pinCl q ≠ c) : (s.interruptionHeld c kind g).pin q = s.pin q := by
  rw [State.interruptionHeld, State.pinsHeld_pin_ne _ c g _ hq, State.gaugeBegun_taken_pin]

theorem State.interruptionHeld_regsKept : s.regsKept (s.interruptionHeld c kind g)
    [CAL_CTRL c, CAL_STAT c, CAL_INT_GT_LO c, CAL_INT_GT_HI c, CAL_TREF c, ADC_QSTAT c] := by
  intro a ha
  have hshown : a ∉ [CAL_CTRL c, CAL_STAT c, CAL_INT_GT_LO c, CAL_INT_GT_HI c, CAL_TREF c] := fun h => ha (by
    rw [List.mem_cons] at *
    simp_all)
  rw [State.interruptionHeld_reg, State.calShown_regsKept _ _ _ _ _ hshown,
    s.calTaken_regsKept c kind a fun h => ha (by simp [List.mem_singleton.mp h])]

/-! With the precision converter. -/

theorem State.calBegin_aside : Aside c (s.interruptionHeld c kind g) (s.calBegin c kind g) := by
  rw [State.calBegin_eq]
  split
  · exact .precStop c _ _ g
  · exact .refl c _

theorem State.withRegions_sansBegin (x : Tbl RgSt) : ({ s with regions := x } : State).sansBegin = s.sansBegin := by rfl

theorem State.withRegions_reg (x : Tbl RgSt) (a : Nat) : ({ s with regions := x } : State).reg a = s.reg a := by rfl

/-- A precision converter with no entry due stops in its record alone. -/
theorem State.precStop_frame (r : Nat) (h : (s.rg r).prec.due = none) : ∃ x, s.precStop r g = { s with regions := x } := by
  rw [State.precStop, s.precDue_none r g h]
  exact ⟨_, rfl⟩

/-- With no entry due, what the converter does lies in its record. -/
theorem State.calBegin_frame (h : (s.rg (c / 8)).prec.due = none) :
    ∃ x, s.calBegin c kind g = { s.interruptionHeld c kind g with regions := x } := by
  have hdue : ((s.interruptionHeld c kind g).rg (c / 8)).prec.due = none := by rw [s.interruptionHeld_rg]; exact h
  rw [State.calBegin_eq]
  generalize s.interruptionHeld c kind g = t at *
  split
  · exact t.precStop_frame g _ hdue
  · exact ⟨_, rfl⟩

end

end Sys2Proof.Machine
end

section
namespace Sys2Proof.Machine

/-! The commands that request and begin a calibration. -/

section

variable (port : PortNo) (c : ClNo) (kind : CalKind) (g : Nat) (s : State)

/-- What a request of a kind that reaches cluster c at boundary g leaves (R312). -/
theorem State.calRequest_requested : ∃ t, ((s.atCluster c.val g).calRequest c.val kind) = t ∧ t.bit (CAL_CTRL c.val) (reqFld kind) = true ∧
    t = { s.atCluster c.val g with regs := t.regs } ∧ s.regsKept t [CAL_CTRL c.val] ∧
    t.fld (CAL_CTRL c.val) CAL_CTRL_APPLY = s.fld (CAL_CTRL c.val) CAL_CTRL_APPLY :=
  ⟨_, rfl, State.calRequest_bit _ c.val kind, State.setBit_regsOnly _ _ _ _, State.setBit_regsKept _ _ _ _,
    State.setBit_fld_apart _ _ _ _ _ (reqFld_apart_apply kind)⟩

theorem exec_calRequest (h : s.reaches (CAL_CTRL c.val)) :
    exec (.calRequestTiming port c g) s = .next ((s.atCluster c.val g).calRequest c.val .timing) ∧
    exec (.calRequestDc port c g) s = .next ((s.atCluster c.val g).calRequest c.val .dc) :=
  ⟨congrArg Host.Outcome.next (s.reach_open port.val _ (fun s => (s.atCluster c.val g).calRequest c.val .timing) h.1 h.2),
    congrArg Host.Outcome.next (s.reach_open port.val _ (fun s => (s.atCluster c.val g).calRequest c.val .dc) h.1 h.2)⟩

/-- The conditions of R310 do not look at the grain. -/
theorem State.calCan_at (k : CalKind) : (s.at g).calCan c.val k = s.calCan c.val k := by rfl

theorem exec_calStart (hst : (s.adc c.val).starts = []) : exec (.calStart c kind g) s =
    if g % 64 = 0 ∧ s.calCan c.val kind = true ∧ (kind = .dc ∨ s.calCan c.val .dc = false) then .next ((s.at g).calBegin c.val kind g)
    else .next s := by
  have harm : exec (.calStart c kind g) s = execCalStart c kind g s := rfl
  rw [harm, execCalStart, (s.at g).adcCatchUp_of_none c.val g hst]
  simp only [State.calCan_at]

theorem exec_calPass2 {b : Nat} (h : (s.cl c.val).gauge.interruption = some (kind, b, false)) (hg : g = b + calGrains kind / 2) :
    exec (.calPass2 c g) s = .next ((s.at g).updGauge c.val (fun x => { x with interruption := some (kind, b, true) })) := by
  have harm : exec (.calPass2 c g) s = execCalPass2 c g s := rfl
  rw [harm, execCalPass2, h]
  exact if_pos hg

end

end Sys2Proof.Machine
end

section
namespace Sys2Proof.Machine

/-! What the beginning of an interruption comes to (R304, R307, R308). -/

theorem calRegs_gaugeReg (c : ClNo) : gaugeReg (CAL_CTRL c.val) ∧ gaugeReg (CAL_STAT c.val) ∧ gaugeReg (CAL_TREF c.val) := by
  have := c.isLt
  simp only [gaugeReg, CAL_CTRL, CAL_STAT, CAL_TREF, clBlk, rgBlk]
  omega

section

variable (c : ClNo) (kind : CalKind) (g : Nat) (s : State)

theorem State.calBegin_interruption : ((s.calBegin c.val kind g).cl c.val).gauge.interruption = some (kind, g, false) := by
  rw [(s.calBegin_aside c.val kind g).gauge, State.interruptionHeld_interruption]

theorem State.calBegin_cl_ne {k : Nat} (hk : k ≠ c.val) : (s.calBegin c.val kind g).cl k = s.cl k := by
  rw [(s.calBegin_aside c.val kind g).others k hk, State.interruptionHeld_cl_ne _ _ _ _ hk]

theorem State.calBegin_req : (s.calBegin c.val kind g).bit (CAL_CTRL c.val) (reqFld kind) = false := by
  rw [(s.calBegin_aside c.val kind g).bit (calRegs_gaugeReg c).1, State.bit_of_reg _ (State.interruptionHeld_reg ..), State.calShown_req]

theorem State.calBegin_busy : (s.calBegin c.val kind g).bit (CAL_STAT c.val) CAL_STAT_BUSY = true := by
  rw [(s.calBegin_aside c.val kind g).bit (calRegs_gaugeReg c).2.1, State.bit_of_reg _ (State.interruptionHeld_reg ..), State.calShown_busy]

theorem State.calBegin_kind : (s.calBegin c.val kind g).fld (CAL_STAT c.val) CAL_STAT_KIND = kindNo kind := by
  rw [(s.calBegin_aside c.val kind g).fld (calRegs_gaugeReg c).2.1, State.fld_of_reg _ (State.interruptionHeld_reg ..), State.calShown_kind]

theorem calTnow_ne_adcQstat (c : Nat) : CAL_TNOW c ≠ ADC_QSTAT c := by
  unfold CAL_TNOW ADC_QSTAT clBlk
  omega

theorem State.calBegin_tref : (s.calBegin c.val kind g).fld (CAL_TREF c.val) (tRefFld kind) = s.fld (CAL_TNOW c.val) CAL_TNOW_T_NOW := by
  rw [(s.calBegin_aside c.val kind g).fld (calRegs_gaugeReg c).2.2, State.fld_of_reg _ (State.interruptionHeld_reg ..), State.calShown_tref,
    State.fld_of_reg _ (s.calTaken_regsKept c.val kind _ (by simpa using calTnow_ne_adcQstat c.val))]

theorem State.calBegin_pin {u : Nat} (hu : u < 16) : ({ (s.calBegin c.val kind g).pin (16 * c.val + u) with player := none } : PinSt) =
    { s.pin (16 * c.val + u) with
      held := true, heldFrom := ((s.calBegin c.val kind g).pin (16 * c.val + u)).heldFrom, player := none } := by
  have hkept := (s.calBegin_aside c.val kind g).pins (16 * c.val + u)
  have hfrom : ((s.calBegin c.val kind g).pin (16 * c.val + u)).heldFrom = ((s.pin (16 * c.val + u)).hold g).heldFrom := by
    rw [← State.interruptionHeld_pin _ _ kind _ hu]
    exact PinSt.heldFrom_of_kept hkept
  rw [hkept, hfrom, State.interruptionHeld_pin _ _ _ _ hu, PinSt.hold_kept]

theorem State.calBegin_pin_ne {q : Nat} (hq : pinCl q ≠ c.val) :
    ({ (s.calBegin c.val kind g).pin q with player := none } : PinSt) = { s.pin q with player := none } := by
  rw [(s.calBegin_aside c.val kind g).pins q, State.interruptionHeld_pin_ne _ _ _ _ hq]

theorem State.calBegin_hub : (s.calBegin c.val kind g).hub = (s.calTaken c.val kind).hub := by
  obtain ⟨-, -, hhub, -⟩ := s.interruptionHeld_kept c.val kind g
  exact (s.calBegin_aside c.val kind g).hub.trans hhub

variable (hdue : (s.rg (c.val / 8)).prec.due = none)
include hdue

theorem State.calBegin_sansBegin : (s.calBegin c.val kind g).sansBegin = s.sansBegin := by
  obtain ⟨x, hx⟩ := s.calBegin_frame c.val kind g hdue
  obtain ⟨-, -, -, hsans⟩ := s.interruptionHeld_kept c.val kind g
  rw [hx, State.withRegions_sansBegin, hsans]

theorem State.calBegin_regsKept : s.regsKept (s.calBegin c.val kind g) [CAL_CTRL c.val, CAL_STAT c.val, CAL_INT_GT_LO c.val,
    CAL_INT_GT_HI c.val, CAL_TREF c.val, ADC_QSTAT c.val] := by
  obtain ⟨x, hx⟩ := s.calBegin_frame c.val kind g hdue
  rw [hx]
  exact fun a ha => (State.withRegions_reg _ x a).trans (s.interruptionHeld_regsKept c.val kind g a ha)

end

/-- Settles O40: a request is one written bit; at a boundary where R310 holds the command is `calBegin`, which is `interruptionHeld` but for what
the precision converter does aside. -/
theorem calibrationsAreRequestedAndBegin : Obligations.CalibrationsAreRequestedAndBegin := by
  unfold Obligations.CalibrationsAreRequestedAndBegin
  intro port c kind g s
  refine ⟨fun hr => ?_, fun hst hg hcan hfirst => ?_, fun hst hnot => ?_, fun b hint hg => ?_⟩
  · obtain ⟨htiming, hdc⟩ := exec_calRequest port c g s hr
    simp only [List.forall_mem_cons, List.not_mem_nil, false_imp_iff, implies_true, and_true]
    obtain ⟨-, rfl, h⟩ := s.calRequest_requested c .timing g
    obtain ⟨-, rfl, h'⟩ := s.calRequest_requested c .dc g
    exact ⟨⟨_, htiming, h⟩, ⟨_, hdc, h'⟩⟩
  · refine ⟨_, (exec_calStart c kind g s hst).trans (if_pos ⟨hg, hcan, hfirst⟩), State.calBegin_interruption .., State.calBegin_req ..,
      State.calBegin_busy .., (State.calBegin_kind ..).trans (by cases kind <;> rfl), State.calBegin_tref .., fun _ hu => State.calBegin_pin _ _ _ _ hu,
      fun _ hq => State.calBegin_pin_ne _ _ _ _ hq, fun _ hk => State.calBegin_cl_ne _ _ _ _ hk, ?_, ?_, fun hdue => ⟨?_, ?_⟩⟩
    · rintro rfl
      rw [State.calBegin_hub, State.calTaken_hub_timing, State.at_hub]
    · rintro rfl
      rw [State.calBegin_hub, State.calTaken_vsel, State.at_fld]
    · exact State.eq_of_sansBegin ((s.at g).calBegin_sansBegin c kind g hdue)
    · exact (s.at g).calBegin_regsKept c kind g hdue
  · refine (exec_calStart c kind g s hst).trans (if_neg ?_)
    rintro ⟨hg, hcan, hfirst⟩
    obtain h | h | ⟨rfl, h⟩ := hnot
    · exact h hg
    · simp [h] at hcan
    · simp [h] at hfirst
  · refine ⟨_, exec_calPass2 c kind g s hint (hg.trans (by cases kind <;> rfl)), ?_, fun k hk => ?_, rfl⟩
    · rw [State.updGauge_gauge, State.at_cl]
    · rw [State.updGauge_cl_ne _ _ _ hk, State.at_cl]

end Sys2Proof.Machine
end

section
namespace Sys2Proof.Machine

/-! An interruption ends (R306, R307, R309, R311). -/

/-- A cluster is held in a flow step as before when APPLY, the step and what RECOVER does are as before. -/
theorem State.stepHeld_congr {s t : State} {c : Nat} (hreg : t.reg (CAL_CTRL c) = s.reg (CAL_CTRL c))
    (hstep : (t.cl c).gauge.inStep = (s.cl c).gauge.inStep)
    (hsvc : (t.cl c).svc.any (fun v => v.op == 5) = (s.cl c).svc.any (fun v => v.op == 5)) : t.stepHeld c = s.stepHeld c := by
  rw [State.stepHeld, State.fld_of_reg _ hreg, hstep, hsvc]
  rfl

theorem Aside.stepHeld {c : ClNo} {s t : State} (h : Aside c.val s t) : t.stepHeld c.val = s.stepHeld c.val :=
  State.stepHeld_congr (h.regs _ (calRegs_gaugeReg c).1) (congrArg Gauge.inStep h.gauge) h.recovers

section

variable (s : State) (c : Nat) (kind : CalKind) (g : Nat)

/-- BUSY and the record of Gauge show that an interruption of a kind is over. -/
def State.gaugeOver (s : State) (c : Nat) (kind : CalKind) : State :=
  (s.setBit (CAL_STAT c) CAL_STAT_BUSY false).updGauge c (fun x => match kind with
    | .dc => { x with interruption := none, endedDc := x.endedDc + 1 }
    | .timing => { x with interruption := none, endedT := x.endedT + 1 })

theorem State.calOver_eq : s.calOver c kind g =
    if kind = .dc ∧ c % 8 = 0 then ((((s.gaugeOver c kind).showCluster s c g).reportFill c).precRestart (c / 8) g)
    else ((s.gaugeOver c kind).showCluster s c g).reportFill c := by rfl

theorem State.calOver_aside : Aside c (s.gaugeOver c kind) (s.calOver c kind g) := by
  have hshown := (Aside.showCluster c (s.gaugeOver c kind) s g).trans (.reportFill c _)
  rw [State.calOver_eq]
  split
  · exact hshown.trans (.precRestart c _ _ g)
  · exact hshown

theorem State.updGauge_svc (f : Gauge → Gauge) : ((s.updGauge c f).cl c).svc = (s.cl c).svc := by
  rw [State.updGauge, State.updCl_cl]

theorem State.gaugeOver_gauge : ∃ n m, ((s.gaugeOver c kind).cl c).gauge =
    { (s.cl c).gauge with interruption := none, endedDc := n, endedT := m } := by
  rw [State.gaugeOver, State.updGauge_gauge, State.setBit_cl]
  cases kind <;> exact ⟨_, _, rfl⟩

end

/-- From s to u an interruption of cluster c has ended, and its result is not judged yet. -/
structure Ended (c : Nat) (s u : State) : Prop extends CalFrame c s u where
  gauge : ∃ n m, (u.cl c).gauge = { (s.cl c).gauge with interruption := none, endedDc := n, endedT := m }
  busy : u.bit (CAL_STAT c) CAL_STAT_BUSY = false
  regs : ∀ a, gaugeReg a → a ≠ CAL_STAT c → a ≠ CAL_EXCL c → u.reg a = s.reg a
  stepHeld : u.stepHeld c = s.stepHeld c

/-- The state in which the result of an interruption that ends at grain g is judged; a mask of its pins has not taken part. -/
def State.calEnded (s : State) (c : Nat) (kind : CalKind) (g mask : Nat) : State :=
  ((s.at g).setFld (CAL_EXCL c) CAL_EXCL_EXCLUDED mask).calOver c kind g

section

variable (c : ClNo) (kind : CalKind) (g : Nat) (s : State)

theorem State.calEnded_ended (mask : Nat) : Ended c.val s (s.calEnded c.val kind g mask) := by
  have haside := State.calOver_aside ((s.at g).setFld (CAL_EXCL c.val) CAL_EXCL_EXCLUDED mask) c.val kind g
  have hframe : CalFrame c.val s (((s.at g).setFld (CAL_EXCL c.val) CAL_EXCL_EXCLUDED mask).gaugeOver c.val kind) :=
    (((CalFrame.atGrain c.val s g).setFld _ _ _).setBit _ _ _).updGauge _
  obtain ⟨n, m, hgauge⟩ := ((s.at g).setFld (CAL_EXCL c.val) CAL_EXCL_EXCLUDED mask).gaugeOver_gauge c.val kind
  have hreg (a : Nat) (hstat : a ≠ CAL_STAT c.val) (hexcl : a ≠ CAL_EXCL c.val) :
      (((s.at g).setFld (CAL_EXCL c.val) CAL_EXCL_EXCLUDED mask).gaugeOver c.val kind).reg a = s.reg a := by
    rw [State.gaugeOver, State.updGauge_reg, State.setBit_reg_ne _ _ _ _ _ hstat, State.setFld_reg_ne _ _ _ _ _ hexcl, State.at_reg]
  refine ⟨hframe.trans haside.toCalFrame, ⟨n, m, haside.gauge.trans hgauge⟩, ?_, fun a ha hstat hexcl => ?_, ?_⟩
  · rw [State.calEnded, haside.bit (calRegs_gaugeReg c).2.1, State.gaugeOver, State.bit_of_reg _ (State.updGauge_reg ..),
      State.setBit_bit _ _ _ _ (by decide) (by decide)]
  · exact (haside.regs a ha).trans (hreg a hstat hexcl)
  · refine haside.stepHeld.trans (State.stepHeld_congr (hreg _ ?_ ?_) (congrArg Gauge.inStep hgauge :) ?_)
    · simp [CAL_CTRL, CAL_STAT]
    · simp [CAL_CTRL, CAL_EXCL]
    · rw [State.gaugeOver, State.updGauge_svc]
      rfl

theorem exec_calEnd {b : Nat} (res : CalResults) (hst : (s.adc c.val).starts = [])
    (h : (s.cl c.val).gauge.interruption = some (kind, b, true)) (hg : g = b + calGrains kind) :
    ∃ mask, exec (.calEnd c g res) s = .next ((s.calEnded c.val kind g mask).calJudge c.val kind res
      ((List.range 16).filter (fun u => !(nbit (s.cl c.val).gauge.excluded u || s.trippedIn (16 * c.val + u) b (g - 1)))) g) := by
  have harm : exec (.calEnd c g res) s = execCalEnd c g res s := rfl
  rw [harm, execCalEnd, h]
  dsimp only
  rw [if_pos hg, (s.at g).adcCatchUp_of_none c.val (g - 1) hst]
  exact ⟨_, rfl⟩

end

end Sys2Proof.Machine
end

section
namespace Sys2Proof.Machine

/-! The result is judged (R314-R318, R327). -/

/-- From s to t a result of cluster c has been judged, with no interruption of the cluster beginning or ending. -/
structure Judged (c : Nat) (s t : State) : Prop extends CalFrame c s t where
  interruption : (t.cl c).gauge.interruption = (s.cl c).gauge.interruption
  busy : t.bit (CAL_STAT c) CAL_STAT_BUSY = s.bit (CAL_STAT c) CAL_STAT_BUSY

/-- From s to t a result has been counted in REJECT, and none pends that did not. -/
structure Rejected (c : Nat) (s t : State) : Prop extends Judged c s t where
  reject : t.fld (CAL_COUNT c) CAL_COUNT_REJECT = min (2 ^ CAL_COUNT_REJECT.width - 1) (s.fld (CAL_COUNT c) CAL_COUNT_REJECT + 1)
  accept : t.fld (CAL_COUNT c) CAL_COUNT_ACCEPT = s.fld (CAL_COUNT c) CAL_COUNT_ACCEPT
  gauge : (t.cl c).gauge = (s.cl c).gauge

theorem calCount_gaugeReg (c : ClNo) : gaugeReg (CAL_COUNT c.val) := by
  have := c.isLt
  simp only [gaugeReg, CAL_COUNT, clBlk, rgBlk]
  omega

theorem calCount_ne_calStat (c : Nat) : CAL_COUNT c ≠ CAL_STAT c := by simp [CAL_COUNT, CAL_STAT]

theorem State.regsOnly_refl (s : State) : s.regsOnly s := rfl

theorem CalFrame.of_regsOnly {s t : State} (c : Nat) (h : s.regsOnly t) : CalFrame c s t := by
  rw [h]
  exact ⟨fun _ _ => rfl, fun _ => rfl, fun r hr => ⟨r, hr, rfl⟩, rfl⟩

/-- A result is counted in REJECT and then told. -/
theorem Rejected.of_counted {c : ClNo} {s u t : State} (h : s.regsOnly u)
    (hcount : u.fld (CAL_COUNT c.val) CAL_COUNT_REJECT = s.fld (CAL_COUNT c.val) CAL_COUNT_REJECT ∧
      u.fld (CAL_COUNT c.val) CAL_COUNT_ACCEPT = s.fld (CAL_COUNT c.val) CAL_COUNT_ACCEPT)
    (hbusy : u.bit (CAL_STAT c.val) CAL_STAT_BUSY = s.bit (CAL_STAT c.val) CAL_STAT_BUSY)
    (htold : Aside c.val (u.countSat (CAL_COUNT c.val) CAL_COUNT_REJECT 1) t) : Rejected c.val s t := by
  have hgauge : (t.cl c.val).gauge = (s.cl c.val).gauge := by
    rw [htold.gauge, State.countSat_cl, (State.kept_of_regsOnly h).1]
  refine ⟨⟨((CalFrame.of_regsOnly c.val h).countSat _ _ _).trans htold.toCalFrame, congrArg Gauge.interruption hgauge, ?_⟩, ?_, ?_, hgauge⟩
  · rw [htold.bit (calRegs_gaugeReg c).2.1, State.countSat, State.setFld_bit_ne _ _ _ _ _ _ (calCount_ne_calStat c.val).symm, hbusy]
  · rw [htold.fld (calCount_gaugeReg c), State.countSat_one_fld _ _ _ (by decide) (by decide), hcount.1]
  · rw [htold.fld (calCount_gaugeReg c), State.countSat, State.setFld_fld_apart _ _ _ _ _ (by decide), hcount.2]

section

variable (c : ClNo) (kind : CalKind) (g u : Nat) (res : CalResults) (units : List Nat) (s : State)

theorem State.calDiscard_rejected : Rejected c.val s (s.calDiscard c.val kind g) :=
  .of_counted (State.regsOnly_refl s) ⟨rfl, rfl⟩ rfl
    ((Aside.svcCal c.val _ kind _ g).trans (.flowCalFailed c.val _))

/-- DISAGREE with the kind and the pin (R317). -/
def State.disagrees (s : State) (c : Nat) (kind : CalKind) (u : Nat) : State :=
  ((s.setBit (CAL_STAT c) CAL_STAT_DISAGREE true).setFld (CAL_STAT c) CAL_STAT_DIS_KIND (kindNo kind)).setFld (CAL_STAT c) CAL_STAT_DIS_UNIT u

theorem State.disagrees_regsOnly (n : Nat) : s.regsOnly (s.disagrees n kind u) :=
  State.regsOnly_trans (State.regsOnly_trans (s.setBit_regsOnly ..) (State.setFld_regsOnly ..)) (State.setFld_regsOnly ..)

theorem State.disagrees_regsKept (n : Nat) : s.regsKept (s.disagrees n kind u) [CAL_STAT n] :=
  State.regsKept_trans (State.regsKept_trans (s.setBit_regsKept _ _ _) (State.setFld_regsKept _ _ _ (List.mem_singleton_self _)))
    (State.setFld_regsKept _ _ _ (List.mem_singleton_self _))

theorem State.disagrees_stat (n : Nat) : (s.disagrees n kind u).bit (CAL_STAT n) CAL_STAT_DISAGREE = true ∧
    (s.disagrees n kind u).fld (CAL_STAT n) CAL_STAT_DIS_UNIT = u % 16 ∧
    (s.disagrees n kind u).bit (CAL_STAT n) CAL_STAT_BUSY = s.bit (CAL_STAT n) CAL_STAT_BUSY := by
  refine ⟨?_, ?_, ?_⟩
  · rw [State.disagrees, State.setFld_bit_apart _ _ _ _ _ (by decide), State.setFld_bit_apart _ _ _ _ _ (by decide),
      State.setBit_bit _ _ _ _ (by decide) (by decide)]
  · rw [State.disagrees, State.setFld_fld _ _ _ _ (by decide) (by decide)]
    rfl
  · rw [State.disagrees, State.setFld_bit_apart _ _ _ _ _ (by decide), State.setFld_bit_apart _ _ _ _ _ (by decide),
      State.setBit_bit_apart _ _ _ _ _ (by decide)]

theorem State.calReject_aside : Aside c.val ((s.disagrees c.val kind u).countSat (CAL_COUNT c.val) CAL_COUNT_REJECT 1)
    (s.calReject c.val kind u g) :=
  ((Aside.event c.val _ ..).trans (.svcCal c.val _ kind _ g)).trans (.flowCalFailed c.val _)

theorem State.calReject_rejected : Rejected c.val s (s.calReject c.val kind u g) :=
  have hkept := s.disagrees_regsKept kind u c.val _ (by simpa using calCount_ne_calStat c.val)
  .of_counted (s.disagrees_regsOnly kind u c.val) ⟨State.fld_of_reg _ hkept, State.fld_of_reg _ hkept⟩
    (s.disagrees_stat kind u c.val).2.2 (s.calReject_aside c kind g u)

theorem State.calReject_stat : (s.calReject c.val kind u g).bit (CAL_STAT c.val) CAL_STAT_DISAGREE = true ∧
    (s.calReject c.val kind u g).fld (CAL_STAT c.val) CAL_STAT_DIS_UNIT = u % 16 := by
  obtain ⟨hdis, hunit, -⟩ := s.disagrees_stat kind u c.val
  have haside := s.calReject_aside c kind g u
  refine ⟨?_, ?_⟩
  · rw [haside.bit (calRegs_gaugeReg c).2.1, State.countSat, State.setFld_bit_ne _ _ _ _ _ _ (calCount_ne_calStat c.val).symm, hdis]
  · rw [haside.fld (calRegs_gaugeReg c).2.1, State.countSat, State.setFld_fld_ne _ _ _ _ _ _ (calCount_ne_calStat c.val).symm, hunit]

/-! A result is accepted (R315, R316, R318, R319). -/

/-- The result of a kind that waits for its boundary. -/
def State.acceptedCorr (s : State) (kind : CalKind) (res : CalResults) (units : List Nat) : PendingCorr :=
  { values := acceptedValues res kind units, verified := !s.bit CAL_REF_STAT (suspectFld kind) }

/-- A result of a kind pends. -/
def Gauge.pend (x : Gauge) (kind : CalKind) (p : PendingCorr) : Gauge :=
  match kind with
  | .dc => { x with pendDc := some p }
  | .timing => { x with pendT := some p }

/-- An accepted result is counted and pends. -/
def State.accepted (s : State) (c : Nat) (kind : CalKind) (res : CalResults) (units : List Nat) (p : PendingCorr) : State :=
  let t := (s.countSat (CAL_COUNT c) CAL_COUNT_ACCEPT 1).setBit (CAL_STAT c) (pendFld kind) true
  match kind with
  | .dc => t.updGauge c (·.pend .dc p)
  | .timing => (t.updGauge c (·.pend .timing p)).setFld (CAL_EXCL c) CAL_EXCL_RANGE (rangeMask res units)

/-- RESID of a kind. -/
def residFld : CalKind → Fld
  | .dc => CAL_QUAL_RESID_DC
  | .timing => CAL_QUAL_RESID_T

/-- The quality figures of one pin. -/
def State.qualitySet (s : State) (c : Nat) (kind : CalKind) (res : CalResults) (u : Nat) : State :=
  match kind with
  | .dc => s.setFld (CAL_QUAL c u) CAL_QUAL_RESID_DC (residualOf res kind u)
  | .timing => (s.setFld (CAL_QUAL c u) CAL_QUAL_RESID_T (residualOf res kind u)).setFld
      (CAL_QUAL c u) CAL_QUAL_EYE (min 64 (res.eye.getD u 0))

theorem State.calQuality_eq (n : Nat) : s.calQuality n kind res units = units.foldl (fun t u => t.qualitySet n kind res u) s := by
  cases kind <;> rfl

theorem State.calAccept_eq : s.calAccept c.val kind res units g =
    (((s.accepted c.val kind res units (s.acceptedCorr kind res units)).calQuality c.val kind res units).svcCal
      c.val kind none g).calSchedule c.val g := by
  cases kind <;> rfl

end

/-! The accepted result as it is counted and pends. -/

theorem pendFld_shape (kind : CalKind) : (pendFld kind).lo = (pendFld kind).hi ∧ (pendFld kind).hi < 32 ∧
    (pendFld kind).apart CAL_STAT_BUSY = true := by
  cases kind <;> decide

theorem Gauge.pend_rest (x : Gauge) (kind : CalKind) (p : PendingCorr) :
    (x.pend kind p).interruption = x.interruption ∧ (x.pend kind p).inStep = x.inStep := by
  cases kind <;> exact ⟨rfl, rfl⟩

section

variable (c : Nat) (kind : CalKind) (res : CalResults) (units : List Nat) (p : PendingCorr) (s : State)

theorem State.accepted_frame : CalFrame c s (s.accepted c kind res units p) := by
  have hshown := ((CalFrame.refl c s).countSat (CAL_COUNT c) CAL_COUNT_ACCEPT 1).setBit (CAL_STAT c) (pendFld kind) true
  unfold State.accepted
  cases kind with
  | dc => exact hshown.updGauge _
  | timing => exact (hshown.updGauge _).setFld _ _ _

theorem State.accepted_gauge : ((s.accepted c kind res units p).cl c).gauge = (s.cl c).gauge.pend kind p := by
  unfold State.accepted
  cases kind with
  | dc => rw [State.updGauge_gauge, State.setBit_cl, State.countSat_cl]
  | timing => rw [State.setFld_cl, State.updGauge_gauge, State.setBit_cl, State.countSat_cl]

theorem State.accepted_svc : ((s.accepted c kind res units p).cl c).svc = (s.cl c).svc := by
  unfold State.accepted
  cases kind with
  | dc => rw [State.updGauge_svc, State.setBit_cl, State.countSat_cl]
  | timing => rw [State.setFld_cl, State.updGauge_svc, State.setBit_cl, State.countSat_cl]

theorem State.accepted_reg {a : Nat} (ha : a ≠ CAL_EXCL c) : (s.accepted c kind res units p).reg a =
    ((s.countSat (CAL_COUNT c) CAL_COUNT_ACCEPT 1).setBit (CAL_STAT c) (pendFld kind) true).reg a := by
  unfold State.accepted
  cases kind with
  | dc => rw [State.updGauge_reg]
  | timing => rw [State.setFld_reg_ne _ _ _ _ _ ha, State.updGauge_reg]

theorem State.accepted_count : (s.accepted c kind res units p).fld (CAL_COUNT c) CAL_COUNT_ACCEPT =
      min (2 ^ CAL_COUNT_ACCEPT.width - 1) (s.fld (CAL_COUNT c) CAL_COUNT_ACCEPT + 1) ∧
    (s.accepted c kind res units p).fld (CAL_COUNT c) CAL_COUNT_REJECT = s.fld (CAL_COUNT c) CAL_COUNT_REJECT := by
  have hreg (f : Fld) := State.fld_of_reg f (s.accepted_reg c kind res units p (a := CAL_COUNT c) (by simp [CAL_COUNT, CAL_EXCL]))
  refine ⟨?_, ?_⟩
  · rw [hreg, State.setBit_fld_ne _ _ _ _ _ _ (calCount_ne_calStat c), State.countSat_one_fld _ _ _ (by decide) (by decide)]
  · rw [hreg, State.setBit_fld_ne _ _ _ _ _ _ (calCount_ne_calStat c), State.countSat, State.setFld_fld_apart _ _ _ _ _ (by decide)]

theorem State.accepted_stat : (s.accepted c kind res units p).bit (CAL_STAT c) (pendFld kind) = true ∧
    (s.accepted c kind res units p).bit (CAL_STAT c) CAL_STAT_BUSY = s.bit (CAL_STAT c) CAL_STAT_BUSY := by
  obtain ⟨hbit, hlt, hapart⟩ := pendFld_shape kind
  have hreg (f : Fld) := State.bit_of_reg f (s.accepted_reg c kind res units p (a := CAL_STAT c) (by simp [CAL_STAT, CAL_EXCL]))
  refine ⟨?_, ?_⟩
  · rw [hreg, State.setBit_bit _ _ _ _ hbit hlt]
  · rw [hreg, State.setBit_bit_apart _ _ _ _ _ hapart, State.countSat, State.setFld_bit_ne _ _ _ _ _ _ (calCount_ne_calStat c).symm]

theorem State.accepted_stepHeld : (s.accepted c kind res units p).stepHeld c = s.stepHeld c := by
  obtain ⟨-, hstep⟩ := (s.cl c).gauge.pend_rest kind p
  refine State.stepHeld_congr ?_ ?_ ?_
  · rw [State.accepted_reg _ _ _ _ _ _ (by simp [CAL_CTRL, CAL_EXCL]), State.setBit_reg_ne _ _ _ _ _ (by simp [CAL_CTRL, CAL_STAT]),
      State.countSat_reg_ne _ _ _ _ _ (by simp [CAL_CTRL, CAL_COUNT])]
  · rw [State.accepted_gauge, hstep]
  · rw [State.accepted_svc]

/-! The quality figures (R318). -/

theorem State.qualitySet_regsOnly (u : Nat) : s.regsOnly (s.qualitySet c kind res u) := by
  unfold State.qualitySet
  cases kind with
  | dc => exact s.setFld_regsOnly ..
  | timing => exact State.regsOnly_trans (s.setFld_regsOnly ..) (State.setFld_regsOnly ..)

theorem State.qualitySet_reg_ne {u a : Nat} (ha : a ≠ CAL_QUAL c u) : (s.qualitySet c kind res u).reg a = s.reg a := by
  unfold State.qualitySet
  cases kind with
  | dc => exact State.setFld_reg_ne _ _ _ _ _ ha
  | timing => exact (State.setFld_reg_ne _ _ _ _ _ ha).trans (State.setFld_reg_ne _ _ _ _ _ ha)

theorem residualOf_lt (u : Nat) : residualOf res kind u < 2 ^ 8 := by
  unfold residualOf
  omega

theorem State.qualitySet_resid (u : Nat) : (s.qualitySet c kind res u).fld (CAL_QUAL c u) (residFld kind) = residualOf res kind u := by
  unfold State.qualitySet
  cases kind with
  | dc =>
    rw [residFld, State.setFld_fld _ _ _ _ (by decide) (by decide)]
    exact Nat.mod_eq_of_lt (residualOf_lt ..)
  | timing =>
    rw [residFld, State.setFld_fld_apart _ _ _ _ _ (by decide), State.setFld_fld _ _ _ _ (by decide) (by decide)]
    exact Nat.mod_eq_of_lt (residualOf_lt ..)

theorem State.calQuality_regsOnly : s.regsOnly (s.calQuality c kind res units) := by
  rw [State.calQuality_eq]
  exact foldl_holds (P := s.regsOnly) (fun t u ht => State.regsOnly_trans ht (t.qualitySet_regsOnly c kind res u)) _ s (State.regsOnly_refl s)

theorem State.calQuality_reg_ne {a : Nat} (ha : ∀ u, a ≠ CAL_QUAL c u) : (s.calQuality c kind res units).reg a = s.reg a := by
  rw [State.calQuality_eq]
  exact foldl_obs _ (State.reg · a) (fun t u => t.qualitySet_reg_ne c kind res (ha u)) _ s

theorem State.calQuality_resid {u : Nat} (hu : u ∈ units) :
    (s.calQuality c kind res units).fld (CAL_QUAL c u) (residFld kind) = residualOf res kind u := by
  rw [State.calQuality_eq]
  refine foldl_set (fun t v => t.qualitySet c kind res v) (State.fld · (CAL_QUAL c u) (residFld kind)) u _
    (fun t => t.qualitySet_resid c kind res u) (fun t v hv => State.fld_of_reg _ (t.qualitySet_reg_ne c kind res ?_)) _ s hu
  unfold CAL_QUAL
  omega

end

section

variable (c : ClNo) (kind : CalKind) (g : Nat) (res : CalResults) (units : List Nat) (s : State)

/-- The state of an accepted result before RECOVER is told and its boundary set. -/
def State.acceptNoted (s : State) (c : Nat) (kind : CalKind) (res : CalResults) (units : List Nat) : State :=
  (s.accepted c kind res units (s.acceptedCorr kind res units)).calQuality c kind res units

theorem State.acceptNoted_cl (k : Nat) : (s.acceptNoted c.val kind res units).cl k =
    (s.accepted c.val kind res units (s.acceptedCorr kind res units)).cl k :=
  congrFun (State.kept_of_regsOnly (State.calQuality_regsOnly c.val kind res units _)).1 k

theorem State.acceptNoted_reg {a : Nat} (ha : ∀ u, a ≠ CAL_QUAL c.val u) : (s.acceptNoted c.val kind res units).reg a =
    (s.accepted c.val kind res units (s.acceptedCorr kind res units)).reg a := State.calQuality_reg_ne _ _ _ _ _ ha

theorem calQual_apart (c : Nat) :
    (∀ u, CAL_STAT c ≠ CAL_QUAL c u) ∧ (∀ u, CAL_COUNT c ≠ CAL_QUAL c u) ∧ ∀ u, CAL_CTRL c ≠ CAL_QUAL c u := by
  simp only [CAL_STAT, CAL_COUNT, CAL_CTRL, CAL_QUAL]
  refine ⟨fun u => ?_, fun u => ?_, fun u => ?_⟩ <;> omega

theorem State.acceptNoted_stepHeld : (s.acceptNoted c.val kind res units).stepHeld c.val = s.stepHeld c.val := by
  obtain ⟨-, -, hctrl⟩ := calQual_apart c.val
  rw [← s.accepted_stepHeld c.val kind res units (s.acceptedCorr kind res units)]
  exact State.stepHeld_congr (s.acceptNoted_reg c kind res units hctrl) (by rw [State.acceptNoted_cl]) (by rw [State.acceptNoted_cl])

theorem State.calAccept_reg {a : Nat} (ha : gaugeReg a) :
    (s.calAccept c.val kind res units g).reg a = (s.acceptNoted c.val kind res units).reg a := by
  rw [State.calAccept_eq, State.calSchedule, State.updGauge_reg]
  exact (Aside.svcCal c.val _ kind none g).regs a ha

theorem State.calAccept_gauge : ((s.calAccept c.val kind res units g).cl c.val).gauge =
    { (s.cl c.val).gauge.pend kind (s.acceptedCorr kind res units) with applyAt := if s.stepHeld c.val then none else some g } := by
  have htold := Aside.svcCal c.val (s.acceptNoted c.val kind res units) kind none g
  rw [← State.acceptNoted_stepHeld c kind res units s, ← htold.stepHeld, ← State.accepted_gauge c.val kind res units _ s,
    ← State.acceptNoted_cl, ← htold.gauge, State.calAccept_eq, State.calSchedule, State.updGauge_gauge]
  rfl

theorem State.calAccept_judged : Judged c.val s (s.calAccept c.val kind res units g) where
  toCalFrame := by
    rw [State.calAccept_eq]
    exact (((s.accepted_frame c.val kind res units _).trans (.of_regsOnly c.val (State.calQuality_regsOnly ..))).trans
      (Aside.svcCal c.val _ kind none g).toCalFrame).updGauge _
  interruption := by
    rw [State.calAccept_gauge]
    exact ((s.cl c.val).gauge.pend_rest kind _).1
  busy := by
    rw [State.bit_of_reg _ (s.calAccept_reg c kind g res units (calRegs_gaugeReg c).2.1),
      State.bit_of_reg _ (s.acceptNoted_reg c kind res units (calQual_apart c.val).1)]
    exact (s.accepted_stat c.val kind res units _).2

theorem State.calAccept_pend : (s.calAccept c.val kind res units g).bit (CAL_STAT c.val) (pendFld kind) = true := by
  rw [State.bit_of_reg _ (s.calAccept_reg c kind g res units (calRegs_gaugeReg c).2.1),
    State.bit_of_reg _ (s.acceptNoted_reg c kind res units (calQual_apart c.val).1)]
  exact (s.accepted_stat c.val kind res units _).1

theorem State.calAccept_count : (s.calAccept c.val kind res units g).fld (CAL_COUNT c.val) CAL_COUNT_ACCEPT =
      min (2 ^ CAL_COUNT_ACCEPT.width - 1) (s.fld (CAL_COUNT c.val) CAL_COUNT_ACCEPT + 1) ∧
    (s.calAccept c.val kind res units g).fld (CAL_COUNT c.val) CAL_COUNT_REJECT = s.fld (CAL_COUNT c.val) CAL_COUNT_REJECT := by
  have hreg := (s.calAccept_reg c kind g res units (calCount_gaugeReg c)).trans
    (s.acceptNoted_reg c kind res units (calQual_apart c.val).2.1)
  rw [State.fld_of_reg _ hreg, State.fld_of_reg _ hreg]
  exact s.accepted_count c.val kind res units _

theorem State.calAccept_resid {u : Nat} (hu : u ∈ units) (hu16 : u < 16) :
    (s.calAccept c.val kind res units g).fld (CAL_QUAL c.val u) (residFld kind) = residualOf res kind u := by
  have hreg : gaugeReg (CAL_QUAL c.val u) := by
    have := c.isLt
    simp only [gaugeReg, CAL_QUAL, clBlk, rgBlk]
    omega
  rw [State.fld_of_reg _ (s.calAccept_reg c kind g res units hreg)]
  exact State.calQuality_resid c.val kind res units _ hu

end

end Sys2Proof.Machine
end

section
namespace Sys2Proof.Machine

/-! The end of an interruption with its judgement (R306, R314-R318, R327). -/

section

variable (c : ClNo) (kind : CalKind) (g : Nat) (res : CalResults) (units : List Nat) (s : State)

theorem State.calJudge_discards (h : s.bit CAL_REF_STAT (failFld kind) = true) :
    s.calJudge c.val kind res units g = s.calDiscard c.val kind g := by
  rw [State.calJudge, h]
  rfl

theorem State.calJudge_rejects {u : Nat} (h : s.bit CAL_REF_STAT (failFld kind) = false)
    (hu : disagreeing res kind (s.calTol kind) units = some u) : s.calJudge c.val kind res units g = s.calReject c.val kind u g := by
  rw [State.calJudge, h, hu]
  rfl

theorem State.calJudge_accepts (h : s.bit CAL_REF_STAT (failFld kind) = false)
    (hnone : disagreeing res kind (s.calTol kind) units = none) : s.calJudge c.val kind res units g = s.calAccept c.val kind res units g := by
  rw [State.calJudge, h, hnone]
  rfl

theorem State.calJudge_judged : Judged c.val s (s.calJudge c.val kind res units g) := by
  unfold State.calJudge
  split
  · exact (s.calDiscard_rejected c kind g).toJudged
  · split
    · next u _ => exact (s.calReject_rejected c kind g u).toJudged
    · exact s.calAccept_judged c kind g res units

end

theorem disagreeing_mem {res : CalResults} {kind : CalKind} {tol u : Nat} {units : List Nat} (h : disagreeing res kind tol units = some u) :
    u ∈ units := List.mem_of_find?_eq_some h

/-- The registers of the hub that judge a calibration lie above its PRT block. -/
theorem calRef_gaugeReg (c : ClNo) :
    ∀ a ∈ [CAL_REF_STAT, CAL_TOL, CAL_COUNT c.val], gaugeReg a ∧ a ≠ CAL_STAT c.val ∧ a ≠ CAL_EXCL c.val := by
  have := c.isLt
  simp only [List.forall_mem_cons, List.not_mem_nil, false_imp_iff, implies_true, and_true, gaugeReg, CAL_REF_STAT, CAL_TOL, CAL_COUNT,
    CAL_STAT, CAL_EXCL, clBlk, rgBlk, hubBlk]
  omega

section

variable {c : ClNo} {s u : State} (h : Ended c.val s u)
include h

theorem Ended.reg_kept {a : Nat} (ha : a ∈ [CAL_REF_STAT, CAL_TOL, CAL_COUNT c.val]) : u.reg a = s.reg a := by
  obtain ⟨hreg, hstat, hexcl⟩ := calRef_gaugeReg c a ha
  exact h.regs a hreg hstat hexcl

theorem Ended.refStat (f : Fld) : u.bit CAL_REF_STAT f = s.bit CAL_REF_STAT f := State.bit_of_reg f (h.reg_kept (by simp))

theorem Ended.count (f : Fld) : u.fld (CAL_COUNT c.val) f = s.fld (CAL_COUNT c.val) f := State.fld_of_reg f (h.reg_kept (by simp))

theorem Ended.calTol (kind : CalKind) : u.calTol kind = s.calTol kind := by
  cases kind <;> exact State.fld_of_reg _ (h.reg_kept (by simp))

theorem Ended.pending : (u.cl c.val).gauge.pendDc = (s.cl c.val).gauge.pendDc ∧ (u.cl c.val).gauge.pendT = (s.cl c.val).gauge.pendT := by
  obtain ⟨n, m, hgauge⟩ := h.gauge
  rw [hgauge]
  exact ⟨rfl, rfl⟩

theorem Ended.judged {t : State} (k : Judged c.val u t) : CalFrame c.val s t ∧ (t.cl c.val).gauge.interruption = none ∧
    t.bit (CAL_STAT c.val) CAL_STAT_BUSY = false := by
  obtain ⟨n, m, hgauge⟩ := h.gauge
  exact ⟨h.toCalFrame.trans k.toCalFrame, k.interruption.trans (by rw [hgauge]), k.busy.trans h.busy⟩

theorem Ended.rejected {t : State} (k : Rejected c.val u t) :
    t.fld (CAL_COUNT c.val) CAL_COUNT_REJECT = min (2 ^ CAL_COUNT_REJECT.width - 1) (s.fld (CAL_COUNT c.val) CAL_COUNT_REJECT + 1) ∧
    t.fld (CAL_COUNT c.val) CAL_COUNT_ACCEPT = s.fld (CAL_COUNT c.val) CAL_COUNT_ACCEPT ∧
    (t.cl c.val).gauge.pendDc = (s.cl c.val).gauge.pendDc ∧ (t.cl c.val).gauge.pendT = (s.cl c.val).gauge.pendT := by
  obtain ⟨hdc, htiming⟩ := h.pending
  rw [k.reject, k.accept, h.count, h.count, k.gauge]
  exact ⟨rfl, rfl, hdc, htiming⟩

end

end Sys2Proof.Machine
end

section
namespace Sys2Proof.Machine

/-! A pending result comes into force (R319-R322, R326). -/

/-- From s to t only registers of a list and the record of cluster c have changed. -/
structure GaugeOnly (c : Nat) (l : List Nat) (s t : State) : Prop where
  others : ∀ k, k ≠ c → t.cl k = s.cl k
  regs : s.regsKept t l
  rest : t = { s with regs := t.regs, clusters := t.clusters }

namespace GaugeOnly

variable {c : Nat} {l : List Nat} {s t : State}

theorem refl (c : Nat) (l : List Nat) (s : State) : GaugeOnly c l s s := ⟨fun _ _ => rfl, fun _ _ => rfl, rfl⟩

theorem setFld (h : GaugeOnly c l s t) {a : Nat} (ha : a ∈ l) (f : Fld) (v : Nat) : GaugeOnly c l s (t.setFld a f v) where
  others k hk := h.others k hk
  regs := State.regsKept_trans h.regs (t.setFld_regsKept f v ha)
  rest := congrArg (fun u : State => ({ u with regs := (t.setFld a f v).regs } : State)) h.rest

theorem setBit (h : GaugeOnly c l s t) {a : Nat} (ha : a ∈ l) (f : Fld) (b : Bool) : GaugeOnly c l s (t.setBit a f b) := h.setFld ha f _

theorem updGauge (h : GaugeOnly c l s t) (f : Gauge → Gauge) : GaugeOnly c l s (t.updGauge c f) where
  others k hk := (t.updGauge_cl_ne c f hk).trans (h.others k hk)
  regs a ha := (t.updGauge_reg c f a).trans (h.regs a ha)
  rest := congrArg (fun u : State => ({ u with clusters := (t.updGauge c f).clusters } : State)) h.rest

end GaugeOnly

/-- The result of a kind that pends. -/
def Gauge.pending (x : Gauge) : CalKind → Option PendingCorr
  | .dc => x.pendDc
  | .timing => x.pendT

/-- No result of a kind pends. -/
def Gauge.settled (x : Gauge) : CalKind → Gauge
  | .dc => { x with pendDc := none }
  | .timing => { x with pendT := none }

/-- The last verified set of a kind. -/
def Gauge.verify (x : Gauge) (v : Tbl Int) : CalKind → Gauge
  | .dc => { x with verDc := some v }
  | .timing => { x with verT := some v }

section

variable (s : State) (c b : Nat) (kind : CalKind)

/-- A result's values are in force and it pends no more. -/
def State.corrPut (s : State) (c : Nat) (kind : CalKind) (p : PendingCorr) : State :=
  ((s.calPut c kind p.values).setBit (CAL_STAT c) (pendFld kind) false).updGauge c (·.settled kind)

/-- A verified result is in force, with a reference in order. -/
def State.corrVerified (s : State) (c : Nat) (kind : CalKind) (p : PendingCorr) : State :=
  ((s.corrPut c kind p).setBit (CAL_STAT c) (unverFld kind) false).updGauge c (·.verify ((s.corrPut c kind p).calSet c kind) kind)

theorem State.calApplyKind_none (h : (s.cl c).gauge.pending kind = none) : s.calApplyKind c kind = s := by
  unfold State.calApplyKind
  cases kind <;> simp only [Gauge.pending] at h <;> simp only [h]

theorem State.calApplyKind_verified {p : PendingCorr} (h : (s.cl c).gauge.pending kind = some p) (hver : p.verified = true)
    (hsus : s.bit CAL_REF_STAT (suspectFld kind) = false) : s.calApplyKind c kind = s.corrVerified c kind p := by
  unfold State.calApplyKind
  cases kind with
  | dc =>
    simp only [Gauge.pending] at h
    simp only [h]
    rw [if_pos ⟨hver, hsus⟩]
    rfl
  | timing =>
    simp only [Gauge.pending] at h
    simp only [h]
    rw [if_pos ⟨hver, hsus⟩]
    rfl

theorem State.calFallback_running (h : s.bit CAL_REF_STAT (stopFld kind) = false) : s.calFallback c kind = s := by
  unfold State.calFallback
  rw [h]
  rfl

/-- No boundary is known any more at which a result of the cluster is applied. -/
def State.applyCleared (s : State) (c : Nat) : State := s.updGauge c (fun x => { x with applyAt := none, stepEnd := none })

theorem State.calApplyDue_due (h : s.calDueAt c b = true) :
    s.calApplyDue c b = ((s.calApplyKind c .dc).calApplyKind c .timing).applyCleared c := by
  rw [State.calApplyDue, h]
  rfl

end

/-- At a due boundary, while STOP is set for neither quantity. -/
theorem exec_calApply_due (c : ClNo) (b : Nat) (s : State) (hb : b % 64 = 0) (hdue : s.calDueAt c.val b = true)
    (hT : s.bit CAL_REF_STAT CAL_REF_STAT_STOP_T = false) (hV : s.bit CAL_REF_STAT CAL_REF_STAT_STOP_V = false) {t : State}
    (ht : (((s.at b).calApplyKind c.val .dc).calApplyKind c.val .timing).applyCleared c.val = t)
    (href : t.reg CAL_REF_STAT = s.reg CAL_REF_STAT) : exec (.calApply c b) s = .next t := by
  have harm : exec (.calApply c b) s = execCalApply c b s := rfl
  have hmay : s.calMayFall c.val b = true := by rw [State.calMayFall, hdue]; rfl
  have hstop (f : Fld) : t.bit CAL_REF_STAT f = s.bit CAL_REF_STAT f := State.bit_of_reg f href
  rw [harm, execCalApply, if_pos ⟨hb, hmay⟩, (s.at b).calApplyDue_due c.val b hdue, ht, State.calFallback_running t c.val .dc ((hstop _).trans hV),
    State.calFallback_running t c.val .timing ((hstop _).trans hT)]

theorem exec_calApply_idle (c : ClNo) (b : Nat) (s : State) (hdue : s.calDueAt c.val b = false)
    (hT : s.bit CAL_REF_STAT CAL_REF_STAT_STOP_T = false) (hV : s.bit CAL_REF_STAT CAL_REF_STAT_STOP_V = false) :
    ∃ t, exec (.calApply c b) s = .next t ∧ (t = s ∨ t = s.at b) := by
  have harm : exec (.calApply c b) s = execCalApply c b s := rfl
  have hnone : (s.at b).calApplyDue c.val b = s.at b := by
    have hdue' : (s.at b).calDueAt c.val b = false := hdue
    rw [State.calApplyDue, hdue']
    rfl
  rw [harm, execCalApply]
  split
  · rw [hnone, State.calFallback_running (s.at b) c.val .dc hV, State.calFallback_running (s.at b) c.val .timing hT]
    exact ⟨_, rfl, .inr rfl⟩
  · exact ⟨_, rfl, .inl rfl⟩

/-! What a verified result leaves in the registers and the record of its cluster. -/

theorem unverFld_shape (kind : CalKind) : (unverFld kind).lo = (unverFld kind).hi ∧ (unverFld kind).hi < 32 ∧
    (unverFld kind).apart (pendFld kind) = true := by
  cases kind <;> decide

section

variable (s : State) (c : Nat) (kind : CalKind) (p : PendingCorr)

theorem State.corrVerified_stat : (s.corrVerified c kind p).bit (CAL_STAT c) (pendFld kind) = false ∧
    (s.corrVerified c kind p).bit (CAL_STAT c) (unverFld kind) = false := by
  obtain ⟨hbit, hlt, -⟩ := pendFld_shape kind
  obtain ⟨hbit', hlt', hapart⟩ := unverFld_shape kind
  refine ⟨?_, ?_⟩
  · rw [State.corrVerified, State.bit_of_reg _ (State.updGauge_reg ..), State.setBit_bit_apart _ _ _ _ _ hapart, State.corrPut,
      State.bit_of_reg _ (State.updGauge_reg ..), State.setBit_bit _ _ _ _ hbit hlt]
  · rw [State.corrVerified, State.bit_of_reg _ (State.updGauge_reg ..), State.setBit_bit _ _ _ _ hbit' hlt']

theorem State.corrVerified_only {l : List Nat} (hl : CAL_STAT c ∈ l) (hput : GaugeOnly c l s (s.calPut c kind p.values)) :
    GaugeOnly c l s (s.corrVerified c kind p) := (((hput.setBit hl _ _).updGauge _).setBit hl _ _).updGauge _

theorem State.corrVerified_gauge : ((s.corrVerified c kind p).cl c).gauge =
    (((s.calPut c kind p.values).cl c).gauge.settled kind).verify ((s.corrPut c kind p).calSet c kind) kind := by
  rw [State.corrVerified, State.updGauge_gauge, State.setBit_cl, State.corrPut, State.updGauge_gauge, State.setBit_cl]

/-- A register beside CAL_STAT is as the values leave it. -/
theorem State.corrVerified_reg {a : Nat} (ha : a ≠ CAL_STAT c) : (s.corrVerified c kind p).reg a = (s.calPut c kind p.values).reg a := by
  rw [State.corrVerified, State.updGauge_reg, State.setBit_reg_ne _ _ _ _ _ ha, State.corrPut, State.updGauge_reg,
    State.setBit_reg_ne _ _ _ _ _ ha]

end

/-! A DC result (R321). -/

/-- DC corrections with the values of a result. -/
def dcWith (l values : Tbl Int) : Tbl Int := values.foldl (fun u y => tput (fun _ => (0 : Int)) u y.1 y.2) l

section

variable (s : State) (c : Nat) (p : PendingCorr)

theorem State.calPut_dc (values : Tbl Int) :
    s.calPut c .dc values = s.updGauge c (fun x => { x with dcForce := dcWith x.dcForce values }) := by rfl

theorem State.corrVerified_dc_gauge : ((s.corrVerified c .dc p).cl c).gauge = { (s.cl c).gauge with
    dcForce := dcWith (s.cl c).gauge.dcForce p.values, pendDc := none, verDc := some (dcWith (s.cl c).gauge.dcForce p.values) } := by
  have hset : (s.corrPut c .dc p).calSet c .dc = dcWith (s.cl c).gauge.dcForce p.values := by
    rw [State.calSet, State.corrPut, State.updGauge_gauge, State.setBit_cl, State.calPut_dc, State.updGauge_gauge]
    rfl
  rw [State.corrVerified_gauge, hset, State.calPut_dc, State.updGauge_gauge]
  rfl

end

/-! A timing result (R320). -/

/-- Nine bits hold a number from -256 to 255. -/
theorem sx_ux {v : Int} (hlo : -256 ≤ v) (hhi : v ≤ 255) : ux 9 v < 512 ∧ sx 9 (ux 9 v) = v := by
  unfold sx ux
  norm_num
  omega

theorem tmgShim_ne_calStat (c : Nat) {i : Nat} (hi : i < 128) : TMG_SHIM c i ≠ CAL_STAT c := by
  unfold TMG_SHIM CAL_STAT clBlk
  omega

section

variable (s : State) (c i target : Nat)

theorem State.shimSet_stored (hi : i % 8 ≠ 7) : s.shimSet c i target =
    (s.setFld (TMG_SHIM c i) TMG_SHIM_TARGET target).shimMoving c i := by
  rw [State.shimSet, if_neg hi]

theorem State.shimSet_fields (hi : i % 8 ≠ 7) (ht : target < 512) : (s.shimSet c i target).fld (TMG_SHIM c i) TMG_SHIM_TARGET = target ∧
    (s.shimSet c i target).fld (TMG_SHIM c i) TMG_SHIM_ACTIVE = s.fld (TMG_SHIM c i) TMG_SHIM_ACTIVE := by
  rw [State.shimSet_stored _ _ _ _ hi, State.shimMoving]
  refine ⟨?_, ?_⟩
  · rw [State.setBit_fld_apart _ _ _ _ _ (by decide), State.setFld_fld _ _ _ _ (by decide) (by decide)]
    exact Nat.mod_eq_of_lt ht
  · rw [State.setBit_fld_apart _ _ _ _ _ (by decide), State.setFld_fld_apart _ _ _ _ _ (by decide)]

theorem GaugeOnly.shimSet {l : List Nat} (hl : TMG_SHIM c i ∈ l) : GaugeOnly c l s (s.shimSet c i target) := by
  unfold State.shimSet
  split
  · exact .refl c l s
  · exact ((GaugeOnly.refl c l s).setFld hl _ _).setBit hl _ _

end

section

variable (c : ClNo) (b : Nat) (p : PendingCorr) (s : State)

theorem State.applyCleared_gauge (n : Nat) : ((s.applyCleared n).cl n).gauge = { (s.cl n).gauge with applyAt := none, stepEnd := none } :=
  s.updGauge_gauge n _

theorem State.applyCleared_bit (n a : Nat) (f : Fld) : (s.applyCleared n).bit a f = s.bit a f := by rfl

theorem calRefStat_ne (c : Nat) {i : Nat} : CAL_REF_STAT ≠ CAL_STAT c ∧ (i < 128 → CAL_REF_STAT ≠ TMG_SHIM c i) := by
  simp only [CAL_REF_STAT, CAL_STAT, TMG_SHIM, clBlk]
  omega

variable (hb : b % 64 = 0) (hdue : s.calDueAt c.val b = true) (hT : s.bit CAL_REF_STAT CAL_REF_STAT_STOP_T = false)
  (hV : s.bit CAL_REF_STAT CAL_REF_STAT_STOP_V = false)
include hb hdue hT hV

/-- With no result pending the boundary passes. -/
theorem calApply_nothing (hdc : (s.cl c.val).gauge.pendDc = none) (htiming : (s.cl c.val).gauge.pendT = none) :
    exec (.calApply c b) s = .next ((s.at b).applyCleared c.val) := by
  refine exec_calApply_due c b s hb hdue hT hV ?_ rfl
  rw [State.calApplyKind_none (s.at b) c.val .dc hdc, State.calApplyKind_none (s.at b) c.val .timing htiming]

/-- A verified DC result comes into force. -/
theorem calApply_dc (hdc : (s.cl c.val).gauge.pendDc = some p) (htiming : (s.cl c.val).gauge.pendT = none) (hver : p.verified = true)
    (hsus : s.bit CAL_REF_STAT CAL_REF_STAT_SUSPECT_V = false) :
    exec (.calApply c b) s = .next (((s.at b).corrVerified c.val .dc p).applyCleared c.val) := by
  have htiming' : (((s.at b).corrVerified c.val .dc p).cl c.val).gauge.pending .timing = none := by
    rw [State.corrVerified_dc_gauge]
    exact htiming
  refine exec_calApply_due c b s hb hdue hT hV ?_ ?_
  · rw [State.calApplyKind_verified (s.at b) c.val .dc hdc hver hsus, State.calApplyKind_none _ _ _ htiming']
  · rw [State.applyCleared, State.updGauge_reg, State.corrVerified_reg _ _ _ _ (calRefStat_ne c.val (i := 0)).1, State.calPut_dc,
      State.updGauge_reg, State.at_reg]

/-- A verified timing result of one shim comes into force. -/
theorem calApply_timing {i : Nat} {v : Int} (hi : i < 128) (hval : p.values = [(i, v)]) (hdc : (s.cl c.val).gauge.pendDc = none)
    (htiming : (s.cl c.val).gauge.pendT = some p) (hver : p.verified = true) (hsus : s.bit CAL_REF_STAT CAL_REF_STAT_SUSPECT_T = false) :
    exec (.calApply c b) s = .next (((s.at b).corrVerified c.val .timing p).applyCleared c.val) := by
  obtain ⟨hstat, hshim⟩ := calRefStat_ne c.val (i := i)
  have hput : (s.at b).calPut c.val .timing p.values = (s.at b).shimSet c.val i (ux 9 v) := by rw [hval]; rfl
  refine exec_calApply_due c b s hb hdue hT hV ?_ ?_
  · rw [State.calApplyKind_none (s.at b) c.val .dc hdc, State.calApplyKind_verified (s.at b) c.val .timing htiming hver hsus]
  · rw [State.applyCleared, State.updGauge_reg, State.corrVerified_reg _ _ _ _ hstat, hput,
      (GaugeOnly.shimSet (s.at b) c.val i (ux 9 v) (List.mem_singleton_self _)).regs _ (by simpa using hshim hi), State.at_reg]

end

end Sys2Proof.Machine
end

section
namespace Sys2Proof.Machine

/-! The end of an interruption, by how its result is judged. -/

section

variable {c : ClNo} {s u : State} (h : Ended c.val s u) (kind : CalKind) (g : Nat) (res : CalResults) (units : List Nat)
include h

/-- With FAIL set the result is discarded. -/
theorem Ended.calJudge_fail (hfail : s.bit CAL_REF_STAT (failFld kind) = true) :
    Rejected c.val u (u.calJudge c.val kind res units g) := by
  rw [State.calJudge_discards _ _ _ _ _ _ ((h.refStat _).trans hfail)]
  exact State.calDiscard_rejected c kind g u

/-- Passes that differ at a pin reject the result with DISAGREE. -/
theorem Ended.calJudge_disagree {n : Nat} (hfail : s.bit CAL_REF_STAT (failFld kind) = false)
    (hdis : disagreeing res kind (s.calTol kind) units = some n) (hn : n < 16) : Rejected c.val u (u.calJudge c.val kind res units g) ∧
      (u.calJudge c.val kind res units g).bit (CAL_STAT c.val) CAL_STAT_DISAGREE = true ∧
      (u.calJudge c.val kind res units g).fld (CAL_STAT c.val) CAL_STAT_DIS_UNIT = n := by
  rw [← h.calTol] at hdis
  rw [State.calJudge_rejects _ _ _ _ _ _ ((h.refStat _).trans hfail) hdis]
  obtain ⟨hdisagree, hunit⟩ := State.calReject_stat c kind g n u
  exact ⟨State.calReject_rejected c kind g n u, hdisagree, hunit.trans (Nat.mod_eq_of_lt hn)⟩

/-- Otherwise the result is accepted. -/
theorem Ended.calJudge_agree (hfail : s.bit CAL_REF_STAT (failFld kind) = false)
    (hnone : disagreeing res kind (s.calTol kind) units = none) :
    u.calJudge c.val kind res units g = u.calAccept c.val kind res units g := by
  rw [← h.calTol] at hnone
  exact State.calJudge_accepts _ _ _ _ _ _ ((h.refStat _).trans hfail) hnone

/-- An accepted result is counted. -/
theorem Ended.calAccept_count : (u.calAccept c.val kind res units g).fld (CAL_COUNT c.val) CAL_COUNT_ACCEPT =
      min (2 ^ CAL_COUNT_ACCEPT.width - 1) (s.fld (CAL_COUNT c.val) CAL_COUNT_ACCEPT + 1) ∧
    (u.calAccept c.val kind res units g).fld (CAL_COUNT c.val) CAL_COUNT_REJECT = s.fld (CAL_COUNT c.val) CAL_COUNT_REJECT := by
  rw [← h.count, ← h.count]
  exact State.calAccept_count c kind g res units u

/-- An accepted result pends, verified while its reference is in order, and its boundary is set. -/
theorem Ended.calAccept_gauge : ∃ x : Gauge, ((u.calAccept c.val kind res units g).cl c.val).gauge =
    { x.pend kind (s.acceptedCorr kind res units) with applyAt := if s.stepHeld c.val then none else some g } := by
  have hcorr : u.acceptedCorr kind res units = s.acceptedCorr kind res units := by
    rw [State.acceptedCorr, State.acceptedCorr, h.refStat]
  exact ⟨_, by rw [State.calAccept_gauge, hcorr, h.stepHeld]⟩

end

/-! A due boundary, by what pends. -/

section

variable {p : PendingCorr}

/-- What a verified DC result changes. -/
theorem GaugeOnly.corrVerified_dc (c : ClNo) (b : Nat) (p : PendingCorr) (s : State) :
    GaugeOnly c.val [CAL_STAT c.val] (s.at b) (((s.at b).corrVerified c.val .dc p).applyCleared c.val) := by
  have hput : GaugeOnly c.val [CAL_STAT c.val] (s.at b) ((s.at b).calPut c.val .dc p.values) := by
    rw [State.calPut_dc]
    exact (GaugeOnly.refl ..).updGauge _
  exact (State.corrVerified_only (s.at b) c.val .dc p (List.mem_singleton_self _) hput).updGauge _

variable {i : Nat} {v : Int} (hval : p.values = [(i, v)])
include hval

theorem State.calPut_shim (n : Nat) (t : State) : t.calPut n .timing p.values = t.shimSet n i (ux 9 v) := by
  rw [hval]
  rfl

/-- What a verified timing result of one shim changes. -/
theorem GaugeOnly.corrVerified_timing (c : ClNo) (b : Nat) (s : State) : GaugeOnly c.val [CAL_STAT c.val, TMG_SHIM c.val i] (s.at b)
    (((s.at b).corrVerified c.val .timing p).applyCleared c.val) := by
  have hput : GaugeOnly c.val [CAL_STAT c.val, TMG_SHIM c.val i] (s.at b) ((s.at b).calPut c.val .timing p.values) := by
    rw [State.calPut_shim hval]
    exact .shimSet _ _ _ _ (by simp)
  exact (State.corrVerified_only (s.at b) c.val .timing p (by simp) hput).updGauge _

/-- The shim's TARGET is the accepted value and its ACTIVE stays (R320). -/
theorem State.corrVerified_shim (c : ClNo) (b : Nat) (s : State) (hi : i < 128) (hi7 : i % 8 ≠ 7) (hlo : -256 ≤ v) (hhi : v ≤ 255) :
    (((s.at b).corrVerified c.val .timing p).applyCleared c.val).shimTarget c.val i = v ∧
    (((s.at b).corrVerified c.val .timing p).applyCleared c.val).fld (TMG_SHIM c.val i) TMG_SHIM_ACTIVE =
      s.fld (TMG_SHIM c.val i) TMG_SHIM_ACTIVE := by
  obtain ⟨hlt, hsx⟩ := sx_ux hlo hhi
  obtain ⟨htarget, hactive⟩ := (s.at b).shimSet_fields c.val i (ux 9 v) hi7 hlt
  have hreg : (((s.at b).corrVerified c.val .timing p).applyCleared c.val).reg (TMG_SHIM c.val i) =
      ((s.at b).shimSet c.val i (ux 9 v)).reg (TMG_SHIM c.val i) := by
    rw [State.applyCleared, State.updGauge_reg, State.corrVerified_reg _ _ _ _ (tmgShim_ne_calStat c.val hi), State.calPut_shim hval]
  refine ⟨?_, ?_⟩
  · rw [State.shimTarget, State.fld_of_reg _ hreg, htarget, hsx]
  · rw [State.fld_of_reg _ hreg, hactive, State.at_fld]

end

/-- Settles O41: the end of an interruption is an `Ended` state and one of three judgements of it; at a due boundary a verified result is
`corrVerified`. -/
theorem calibrationsEndAndAreApplied : Obligations.CalibrationsEndAndAreApplied := by
  unfold Obligations.CalibrationsEndAndAreApplied
  refine ⟨fun c kind g b res s hst hint hg units hunits => ?_, fun c b p s hb hT hV =>
    ⟨fun hdue => calApply_nothing c b s hb hdue hT hV, fun hdue hdc htiming hver hsus => ?_,
      fun hdue hdc htiming hver hsus i v hi hi7 hlo hhi hval => ?_, fun hdue => exec_calApply_idle c b s hdue hT hV⟩⟩
  · obtain ⟨mask, hexec⟩ := exec_calEnd c kind g s res hst hint (hg.trans (by cases kind <;> rfl))
    rw [← hunits] at hexec
    have hlt (u : Nat) (hu : u ∈ units) : u < 16 := by
      rw [hunits, List.mem_filter] at hu
      exact List.mem_range.mp hu.1
    have hended := s.calEnded_ended c kind g mask
    obtain ⟨hframe, hintr, hbusy⟩ := hended.judged (State.calJudge_judged c kind g res units _)
    obtain ⟨hengines, hflags, hstores⟩ : _ ∧ _ ∧ _ := by simpa only [Prod.mk.injEq] using hframe.rest
    refine ⟨_, hexec, hintr, hbusy, hframe.others, hframe.pins, hengines, hframe.runs, hflags, hstores, fun hfail => ?_,
      fun u hfail hdis => ?_, fun hfail hnone => ?_⟩
    · exact hended.rejected (hended.calJudge_fail kind g res units hfail)
    · obtain ⟨hrejected, hdisagree, hunit⟩ := hended.calJudge_disagree kind g res units hfail hdis (hlt u (disagreeing_mem hdis))
      obtain ⟨hreject, -, hpend⟩ := hended.rejected hrejected
      exact ⟨hdisagree, hunit, hreject, hpend⟩
    · rw [hended.calJudge_agree kind g res units hfail hnone]
      obtain ⟨haccept, hreject⟩ := hended.calAccept_count kind g res units
      obtain ⟨x, hgauge⟩ := hended.calAccept_gauge kind g res units
      refine ⟨State.calAccept_pend .., haccept, hreject, fun u hu => ?_, by rw [hgauge], s.acceptedCorr kind res units, ?_, rfl, rfl⟩
      · have hresid := State.calAccept_resid c kind g res units (s.calEnded c.val kind g mask) hu (hlt u hu)
        cases kind <;> exact hresid
      · rw [hgauge]
        cases kind <;> rfl
  · have honly := GaugeOnly.corrVerified_dc c b p s
    obtain ⟨hpend, hunver⟩ := (s.at b).corrVerified_stat c.val .dc p
    have hgauge := State.applyCleared_gauge ((s.at b).corrVerified c.val .dc p) c.val
    rw [State.corrVerified_dc_gauge] at hgauge
    exact ⟨_, calApply_dc c b p s hb hdue hT hV hdc htiming hver hsus, by rw [hgauge], by rw [hgauge], by rw [hgauge]; rfl, by rw [hgauge],
      (State.applyCleared_bit ..).trans hpend, (State.applyCleared_bit ..).trans hunver, honly.others, honly.rest, honly.regs⟩
  · have honly := GaugeOnly.corrVerified_timing hval c b s
    obtain ⟨hpend, hunver⟩ := (s.at b).corrVerified_stat c.val .timing p
    obtain ⟨htarget, hactive⟩ := State.corrVerified_shim hval c b s hi hi7 hlo hhi
    refine ⟨_, calApply_timing c b p s hb hdue hT hV hi hval hdc htiming hver hsus, by rw [State.applyCleared_gauge], ?_, htarget, hactive,
      (State.applyCleared_bit ..).trans hpend, (State.applyCleared_bit ..).trans hunver, honly.others, honly.rest, honly.regs⟩
    rw [State.applyCleared_gauge, State.corrVerified_gauge]
    rfl

end Sys2Proof.Machine
end

section
/-! A step of the machine and the state after reset (R1, log entry 1). -/

namespace Sys2Proof.Machine

theorem step_front {c : Instr} {rest : List Instr} {s : State} (h : s.pending = c :: rest) :
    step s = exec c { s with pending := rest } := by
  unfold step
  rw [h]

theorem step_idle {s : State} (h : s.pending = []) : step s = .next { s with gt := s.gt + 1 } := by
  unfold step
  rw [h]

/-- Settles O1: by what `step` does with a command waiting and with none. -/
theorem stepRunsTheFrontCommand : Obligations.StepRunsTheFrontCommand :=
  ⟨fun _ _ _ h => step_front h, fun _ h => step_idle h⟩

/-- Every table of the state after reset is empty. -/
theorem reset_canonical : Canonical State.reset := by
  constructor <;> rfl

/-- Settles O2: the tables are empty, and so are memory and the queue. -/
theorem resetIsCanonical : Obligations.ResetIsCanonical :=
  ⟨reset_canonical, rfl, rfl, rfl⟩

end Sys2Proof.Machine
end

section
namespace Sys2Proof.Machine

/-! Every operation of the model leaves the queue and passes on the canonical form of the state in which the step began: the lemmas stand in
the order of the definitions, and each says of one operation what the lemmas of the operations inside it say. -/

section

variable {s0 s : State}

/-! Results that hold a state. -/

/-- The state that an answer carries, if there is one, is kept. -/
def KeptIn {α : Type} (s0 : State) (get : α → State) (o : Option α) : Prop := ∀ r, o = some r → Keep s0 (get r)

theorem KeptIn.none {α : Type} {get : α → State} : KeptIn s0 get none := fun _ h => nomatch h

theorem KeptIn.some {α : Type} {get : α → State} {x : α} (h : Keep s0 (get x)) : KeptIn s0 get (some x) := by
  rintro _ ⟨⟩
  exact h

theorem KeptIn.self (h : Keep s0 s) : KeptIn s0 id (Option.some s) := by
  rintro _ ⟨⟩
  exact h

theorem KeptIn.ite {α : Type} {get : α → State} {a b : Option α} {c : Prop} [Decidable c] (ha : KeptIn s0 get a) (hb : KeptIn s0 get b) :
    KeptIn s0 get (if c then a else b) := by
  split <;> assumption

theorem KeptIn.map {α β : Type} {g : α → State} {g' : β → State} {o : Option α} {f : α → β} (h : KeptIn s0 g o)
    (hf : ∀ x, Keep s0 (g x) → Keep s0 (g' (f x))) : KeptIn s0 g' (o.map f) := by
  cases o with
  | none => exact KeptIn.none
  | some x => exact KeptIn.some (hf x (h x rfl))

theorem KeptIn.bind {α β : Type} {g : α → State} {g' : β → State} {o : Option α} {f : α → Option β} (h : KeptIn s0 g o)
    (hf : ∀ x, Keep s0 (g x) → KeptIn s0 g' (f x)) : KeptIn s0 g' (o.bind f) := by
  cases o with
  | none => exact KeptIn.none
  | some x => exact hf x (h x rfl)

theorem KeptIn.elim {α : Type} {g : α → State} {o : Option α} {d : State} {f : α → State} (h : KeptIn s0 g o) (hd : Keep s0 d)
    (hf : ∀ x, Keep s0 (g x) → Keep s0 (f x)) : Keep s0 (o.elim d f) := by
  cases o with
  | none => exact hd
  | some x => exact hf x (h x rfl)

theorem KeptIn.getD {α : Type} {g : α → State} {o : Option α} {d : α} (h : KeptIn s0 g o) (hd : Keep s0 (g d)) :
    Keep s0 (g (o.getD d)) := by
  cases o with
  | none => exact hd
  | some x => exact h x rfl

/-- An answer about the state that is kept itself. -/
theorem KeptIn.const {α : Type} {o : Option α} (h : Keep s0 s) : KeptIn s0 (fun _ => s) o := fun _ _ => h

/-- A command goes on, with a state that keeps the queue and the canonical form. -/
def Completes (s0 : State) (o : Host.Outcome State Fault Refusal) : Prop := ∃ t, o = .next t ∧ Keep s0 t

theorem Completes.ok {t : State} (h : Keep s0 t) : Completes s0 (ok t) := ⟨t, rfl, h⟩

theorem Completes.ite {a b : Host.Outcome State Fault Refusal} {c : Prop} [Decidable c] (ha : Completes s0 a) (hb : Completes s0 b) :
    Completes s0 (if c then a else b) := by
  split <;> assumption

theorem Keep.snd_eq {α : Type} {p : α × State} {a : α} {t : State} (h : Keep s0 p.2) (e : p = (a, t)) : Keep s0 t := by
  subst e
  exact h

theorem Keep.fst_eq {α : Type} {p : State × α} {a : α} {t : State} (h : Keep s0 p.1) (e : p = (t, a)) : Keep s0 t := by
  subst e
  exact h

end

section
variable {s0 s : State}
/-! One field. -/

theorem Keep.withGt {x} (h : Keep s0 s) : Keep s0 { s with gt := x } := h.same rfl fun c => { c with regs := c.regs }

theorem Keep.withInFlight {x} (h : Keep s0 s) : Keep s0 { s with inFlight := x } := h.same rfl fun c => { c with regs := c.regs }

theorem Keep.withFree {x} (h : Keep s0 s) : Keep s0 { s with free := x } := h.same rfl fun c => { c with regs := c.regs }

theorem Keep.withOuts {x} (h : Keep s0 s) : Keep s0 { s with outs := x } := h.same rfl fun c => { c with regs := c.regs }

theorem Keep.withSysFlagDue {x} (h : Keep s0 s) : Keep s0 { s with sysFlagDue := x } := h.same rfl fun c => { c with regs := c.regs }

theorem Keep.withLateFlags {x} (h : Keep s0 s) : Keep s0 { s with lateFlags := x } := h.same rfl fun c => { c with regs := c.regs }

theorem Keep.withRuns {x} (h : Keep s0 s) : Keep s0 { s with runs := x } := h.same rfl fun c => { c with regs := c.regs }

theorem Keep.withNextRun {x} (h : Keep s0 s) : Keep s0 { s with nextRun := x } := h.same rfl fun c => { c with regs := c.regs }

theorem Keep.withBench {x} (h : Keep s0 s) : Keep s0 { s with bench := x } := h.same rfl fun c => { c with regs := c.regs }

theorem Keep.withPkgBench {x} (h : Keep s0 s) : Keep s0 { s with pkgBench := x } := h.same rfl fun c => { c with regs := c.regs }

theorem Keep.withLogWait {x} (h : Keep s0 s) : Keep s0 { s with logWait := x } := h.same rfl fun c => { c with regs := c.regs }

theorem Keep.withFlowRegs {x} (h : Keep s0 s) : Keep s0 { s with flowRegs := x } := h.same rfl fun c => { c with regs := c.regs }

theorem Keep.withHub {x} (h : Keep s0 s) : Keep s0 { s with hub := x } := h.same rfl fun c => { c with regs := c.regs }

theorem Keep.withBoot {x} (h : Keep s0 s) : Keep s0 { s with boot := x } := h.same rfl fun c => { c with regs := c.regs }

theorem Keep.withVyn {x} (h : Keep s0 s) : Keep s0 { s with vyn := x } := h.same rfl fun c => { c with regs := c.regs }

theorem Keep.withHomeWaits {x} (h : Keep s0 s) : Keep s0 { s with homeWaits := x } := h.same rfl fun c => { c with regs := c.regs }

theorem Keep.withFlowStores {x} (h : Keep s0 s) : Keep s0 { s with flowStores := x } := h.same rfl fun c => { c with regs := c.regs }

theorem Keep.withFuses {x} (h : Keep s0 s) : Keep s0 { s with fuses := x } := h.same rfl fun c => { c with regs := c.regs }

theorem Keep.withResetN {x} (h : Keep s0 s) : Keep s0 { s with resetN := x } := h.same rfl fun c => { c with regs := c.regs }

theorem Keep.withTamperN {x} (h : Keep s0 s) : Keep s0 { s with tamperN := x } := h.same rfl fun c => { c with regs := c.regs }

theorem Keep.putFlagSets {k x} (h : Keep s0 s) : Keep s0 { s with flagSets := tput (fun _ => ((0, 0) : Nat × Nat)) s.flagSets k x } :=
  h.same rfl fun c => { c with flagSets := twf_tput _ _ _ _ c.flagSets }

theorem Keep.putShadows {k x} (h : Keep s0 s) : Keep s0 { s with shadows := tput (fun _ => (0 : Word)) s.shadows k x } :=
  h.same rfl fun c => { c with shadows := twf_tput _ _ _ _ c.shadows }

theorem Keep.putDmaLast {k x} (h : Keep s0 s) : Keep s0 { s with dmaLast := tput (fun _ => 63) s.dmaLast k x } :=
  h.same rfl fun c => { c with dmaLast := twf_tput _ _ _ _ c.dmaLast }

theorem Keep.putExpCap {k x} (h : Keep s0 s) : Keep s0 { s with expCap := tput (fun _ => 0) s.expCap k x } :=
  h.same rfl fun c => { c with expCap := twf_tput _ _ _ _ c.expCap }

theorem Keep.withRunsNextRun {x y} (h : Keep s0 s) : Keep s0 { s with runs := x, nextRun := y } :=
  h.same rfl fun c => { c with regs := c.regs }

theorem Keep.withBootResetN {x y} (h : Keep s0 s) : Keep s0 { s with boot := x, resetN := y } :=
  h.same rfl fun c => { c with regs := c.regs }

theorem Keep.withSysFlagDueLateFlags {x y} (h : Keep s0 s) : Keep s0 { s with sysFlagDue := x, lateFlags := y } :=
  h.same rfl fun c => { c with regs := c.regs }

theorem Keep.withHomeWaitsFlowStores {x y} (h : Keep s0 s) : Keep s0 { s with homeWaits := x, flowStores := y } :=
  h.same rfl fun c => { c with regs := c.regs }

theorem Keep.withOutsVyn {x y} (h : Keep s0 s) : Keep s0 { s with outs := x, vyn := y } :=
  h.same rfl fun c => { c with regs := c.regs }

theorem Keep.withRunsBench {x y} (h : Keep s0 s) : Keep s0 { s with runs := x, bench := y } :=
  h.same rfl fun c => { c with regs := c.regs }

theorem Keep.withHubVyn {x y} (h : Keep s0 s) : Keep s0 { s with hub := x, vyn := y } :=
  h.same rfl fun c => { c with regs := c.regs }

theorem Keep.withGtFree {x y} (h : Keep s0 s) : Keep s0 { s with gt := x, free := y } :=
  h.same rfl fun c => { c with regs := c.regs }

/-- A property of a structural recursion on a number that its functional passes on, whatever the functional is: for functions whose
equations the kernel cannot compare. -/
theorem brecOn_induct {M : Nat → Type} {F : ∀ k, Nat.below (motive := M) k → M k} (P : ∀ k, M k → Prop)
    (zero : ∀ f, P 0 (F 0 f)) (succ : ∀ k f, P k f.1 → P (k + 1) (F (k + 1) f)) (k : Nat) : P k (Nat.brecOn k F) := by
  induction k with
  | zero => exact zero _
  | succ k ih => exact succ k _ ih

/-! The operations of `Machine/Ops.lean`. -/

theorem Keep.partnerWrite {a v be} (h : Keep s0 s) : Keep s0 (s.partnerWrite a v be) := by
  unfold State.partnerWrite
  split
  · exact h
  · exact State.setReg_keep _ _ h

theorem Keep.clearRc {a} (h : Keep s0 s) : Keep s0 (s.clearRc a) := by
  unfold State.clearRc
  split
  · exact h
  · exact Keep.ite h (State.setReg_keep _ _ h)

theorem Keep.sliceSeen {r} (h : Keep s0 s) : Keep s0 (s.sliceSeen r) :=
  State.updRg_keep _ _ h

theorem Keep.atCluster {c b} (h : Keep s0 s) : Keep s0 (s.atCluster c b) :=
  (State.at_keep _ h).sliceSeen

/-! The operations of `Machine/Segment.lean`. -/

theorem Keep.wordTouched {c n a old} (h : Keep s0 s) : Keep s0 (s.wordTouched c n a old) := by
  unfold State.wordTouched
  refine Keep.foldl h fun _ _ h0 => ?_
  split
  · exact Keep.ite (State.updPin_keep _ _ h0) h0
  · exact h0

theorem Keep.segWordWritten {c a} (h : Keep s0 s) : Keep s0 (s.segWordWritten c a) :=
  Keep.ite h ((State.setCoding_keep _ _ h).wordTouched)

/-! The operations of `Machine/Shared.lean`. -/

theorem Keep.putEnabled {a l} (h : Keep s0 s) : Keep s0 (s.putEnabled a l) := by
  induction l generalizing s a with
  | nil => exact h
  | cons x l ih =>
    cases x with
    | none => exact ih h
    | some b => exact ih (State.putBytes_keep _ _ h)

theorem Keep.unpoison {a n} (h : Keep s0 s) : Keep s0 (s.unpoison a n) :=
  Keep.foldl h fun _ _ h0 => Keep.ite (State.setPoison_keep _ _ h0) h0

theorem Keep.setHomeData {l a} (h : Keep s0 s) : Keep s0 (s.setHomeData l a) := by
  unfold State.setHomeData
  split
  · exact State.setPoison_keep _ _ (State.putBytes_keep _ _ h)
  · exact State.setPoison_keep _ _ h
  · exact h

theorem Keep.dropLine {l x} (h : Keep s0 s) : Keep s0 (s.dropLine l x) :=
  State.setPoison_keep _ _ (State.setCline_keep _ _ h)

theorem Keep.evictOwn {l dirty} (h : Keep s0 s) : Keep s0 (s.evictOwn l dirty) :=
  Keep.ite ((State.setDir_keep _ _ (Keep.ite h.setHomeData h)).dropLine) (State.send_keep _ h.dropLine)

theorem Keep.evict {l} (h : Keep s0 s) : Keep s0 (s.evict l) := by
  unfold State.evict
  split
  · exact h.evictOwn
  · exact h.evictOwn
  · exact h.dropLine
  · exact h

theorem Keep.makeRoom {l} (h : Keep s0 s) : Keep s0 (s.makeRoom l) :=
  Keep.ite h (State.useFree_keep h.evict)

theorem Keep.fillLine {l st a} (h : Keep s0 s) : Keep s0 (s.fillLine l st a) := by
  unfold State.fillLine
  split
  · exact State.setPoison_keep _ _ (State.setCline_keep _ _ h.makeRoom)
  · exact State.setPoison_keep _ _ (State.setCline_keep _ _ h.makeRoom)
  · exact h

theorem Keep.flowPut {x} (h : Keep s0 s) : Keep s0 (s.flowPut x) :=
  Keep.ite (State.setPoison_keep _ _ (State.setCline_keep _ _ h)) (Keep.ite (State.setPoison_keep _ _ (State.setCline_keep
    _ _ h)) (State.setCline_keep _ _ h))

theorem Keep.storesGo {l} (h : Keep s0 s) : Keep s0 (s.storesGo l) := by
  unfold State.storesGo
  split
  · exact h
  · exact h
  · exact Keep.foldl h.withFlowStores fun _ _ h1 => h1.flowPut

theorem Keep.grantShared {l r mask} (h : Keep s0 s) : Keep s0 (s.grantShared l r mask) :=
  Keep.ite ((State.setDir_keep _ _ (State.clearBusy_keep _ h)).fillLine) (State.send_keep _ (State.setDir_keep _ _
    (State.clearBusy_keep _ h)))

theorem Keep.grantExclusive {l r upgrade} (h : Keep s0 s) : Keep s0 (s.grantExclusive l r upgrade) :=
  Keep.ite ((Keep.ite (State.setCline_keep _ _ (State.setDir_keep _ _ (State.clearBusy_keep _ h))) ((State.setDir_keep _ _
    (State.clearBusy_keep _ h)).fillLine)).storesGo) (State.send_keep _ (State.setDir_keep _ _ (State.clearBusy_keep _
    h)))

theorem Keep.recallOwn {l keep} (h : Keep s0 s) : Keep s0 (s.recallOwn l keep) :=
  Keep.ite (State.setCline_keep _ _ (Keep.ite h.setHomeData h)) ((Keep.ite h.setHomeData h).dropLine)

theorem Keep.homeReadS {r l} (h : Keep s0 s) : Keep s0 (s.homeReadS r l) := by
  unfold State.homeReadS
  split
  · exact h.grantShared
  · exact h.grantShared
  · exact Keep.ite h.recallOwn.grantShared (State.send_keep _ (State.setBusy_keep _ _ h))

theorem Keep.homeInvalidate {r l mask upgrade} (h : Keep s0 s) : Keep s0 (s.homeInvalidate r l mask upgrade) :=
  Keep.ite ((Keep.ite h.dropLine h).grantExclusive) (Keep.foldl (State.setBusy_keep _ _ (Keep.ite h.dropLine h)) fun _ _
    h0 => State.send_keep _ h0)

theorem Keep.homeReadX {r l} (h : Keep s0 s) : Keep s0 (s.homeReadX r l) := by
  unfold State.homeReadX
  split
  · exact h.grantExclusive
  · exact h.homeInvalidate
  · exact Keep.ite h.recallOwn.grantExclusive (State.send_keep _ (State.setBusy_keep _ _ h))

theorem Keep.homeUpgrade {r l} (h : Keep s0 s) : Keep s0 (s.homeUpgrade r l) := by
  unfold State.homeUpgrade
  split
  · exact Keep.ite h.homeInvalidate h.homeReadX
  · exact h.homeReadX

theorem Keep.homeServe {r l a} (h : Keep s0 s) : Keep s0 (s.homeServe r l a) := by
  unfold State.homeServe
  split
  · exact h.homeReadS
  · exact h.homeReadX
  · exact h.homeUpgrade

theorem Keep.homeRequest {r l q} (h : Keep s0 s) : Keep s0 (s.homeRequest r l q) :=
  Keep.ite (Keep.ite h h.withHomeWaits) h.withHomeWaits.homeServe

theorem Keep.serveWaiting {l n} (h : Keep s0 s) : Keep s0 (s.serveWaiting l n) := by
  induction n generalizing s with
  | zero => exact h
  | succ n ih =>
    unfold State.serveWaiting
    dsimp only
    split
    · exact h
    · split
      · exact ih (State.useFree_keep h).withHomeWaits.homeServe
      · exact h

theorem Keep.flowRead {l} (h : Keep s0 s) : KeptIn s0 id (s.flowRead l) := by
  unfold State.flowRead
  refine KeptIn.ite KeptIn.none ?_
  split
  · refine KeptIn.ite ?_ KeptIn.none
    split
    · exact KeptIn.some h.grantShared
    · exact KeptIn.some h.grantShared
    · exact KeptIn.none
  · exact KeptIn.some h

theorem Keep.flowWrite {l} (h : Keep s0 s) : KeptIn s0 id (s.flowWrite l) := by
  unfold State.flowWrite
  refine KeptIn.ite KeptIn.none ?_
  split
  · exact KeptIn.some h
  · exact KeptIn.some (State.setCline_keep _ _ h)
  · refine KeptIn.ite ?_ KeptIn.none
    split
    · exact KeptIn.some (State.setCline_keep _ _ h.grantExclusive)
    · exact KeptIn.ite (KeptIn.some (State.setCline_keep _ _ h.grantExclusive)) KeptIn.none
    · exact KeptIn.none

theorem Keep.flowAsk {l} (h : Keep s0 s) : Keep s0 (s.flowAsk l) :=
  Keep.ite h.homeRequest (State.send_keep _ h)

theorem Keep.flowStore1 {x} (h : Keep s0 s) : Keep s0 (s.flowStore1 x) := by
  unfold State.flowStore1
  split
  · next e02 =>
      exact (h.flowWrite _ e02).flowPut
  · exact (Keep.ite h h.flowAsk).withFlowStores

theorem Keep.storeOpt {a l bad} (h : Keep s0 s) : Keep s0 (s.storeOpt a l bad) :=
  Keep.ite h (Keep.ite h.flowStore1 (Keep.ite (State.setPoison_keep _ _ h.putEnabled) (Keep.ite (State.setPoison_keep _ _
    h.putEnabled) h.putEnabled)))

theorem Keep.store {a l} (h : Keep s0 s) : Keep s0 (s.store a l) :=
  Keep.ite h (Keep.ite h.flowStore1 ((State.putBytes_keep _ _ h).unpoison))

theorem Keep.storeLines {a l k} (h : Keep s0 s) : Keep s0 (s.storeLines a l k) := by
  induction k generalizing s a l with
  | zero => exact h
  | succ k ih =>
    unfold State.storeLines
    exact Keep.ite h (ih h.store)

theorem Keep.storeAll {a l} (h : Keep s0 s) : Keep s0 (s.storeAll a l) :=
  h.storeLines

theorem Keep.flowTake {a n write} (h : Keep s0 s) : KeptIn s0 id (s.flowTake a n write) := by
  unfold State.flowTake
  refine KeptIn.ite (List.foldlRecOn (motive := KeptIn s0 id) _ _ (KeptIn.some h) fun t ht k _ => ht.bind fun u hu => ?_) (KeptIn.some h)
  exact KeptIn.ite (Keep.flowWrite hu) (Keep.flowRead hu)

/-! The operations of `Machine/Log.lean`. -/

theorem Keep.msix {n} (h : Keep s0 s) : Keep s0 (s.msix n) :=
  Keep.ite (State.setPort_keep _ _ (State.send_keep _ h)) h

theorem Keep.eventPort {code src unit arg value n} (h : Keep s0 s) : Keep s0 (s.eventPort code src unit arg value n) :=
  Keep.ite ((State.setPort_keep _ _ (State.setReg_keep _ _ h.store)).msix) (State.setPort_keep _ _ (State.countSat_keep _
    _ _ h))

theorem Keep.event {code src unit arg value} (h : Keep s0 s) : Keep s0 (s.event code src unit arg value) :=
  Keep.foldl h fun _ _ h0 => h0.eventPort

theorem Keep.violation {cause port pkg inst addr} (h : Keep s0 s) : Keep s0 (s.violation cause port pkg inst addr) :=
  (State.setReg_keep _ _ (State.setReg_keep _ _ (State.setReg_keep _ _ (State.setPair_keep _ _ _ (State.setReg_keep _ _
    (State.setPair_keep _ _ _ (State.setReg_keep _ _ (Keep.ite (State.countSat_keep _ _ _ (State.setReg_keep _ _ h))
    h)))))))).event

theorem Keep.reach {port a act} (h : Keep s0 s) (hact : ∀ t, Keep s0 t → Keep s0 (act t)) : Keep s0 (s.reach port a act) :=
  Keep.ite h.violation (Keep.ite h (hact _ h))

theorem Keep.readReach {port a r} (h : Keep s0 s) (hr : Keep s0 (r).2) : Keep s0 (s.readReach port a r) :=
  Keep.ite (State.send_keep _ h) (State.send_keep _ hr)

/-! The operations of `Machine/Integrity.lean`. -/

theorem Keep.corrected {a} (h : Keep s0 s) : Keep s0 (s.corrected a) := by
  unfold State.corrected
  dsimp only
  split
  · exact State.countSat_keep _ _ _ (Keep.ite (State.countSat_keep _ _ _ h) (State.countSat_keep _ _ _ h))
  · exact Keep.ite (State.countSat_keep _ _ _ h) (State.countSat_keep _ _ _ h)

theorem Keep.errorLog {u addr outcome src} (h : Keep s0 s) : Keep s0 (s.errorLog u addr outcome src) :=
  Keep.ite (State.setReg_keep _ _ (State.setPair_keep _ _ _ (State.setReg_keep _ _ (State.setReg_keep _ _ h))))
    (State.setReg_keep _ _ (State.setPair_keep _ _ _ (State.setReg_keep _ _ (State.setReg_keep _ _ h))))

theorem Keep.repairFromMirror {a x} (h : Keep s0 s) : Keep s0 (s.repairFromMirror a x) :=
  State.setPoison_keep _ _ (State.putBytes_keep _ _ h)

theorem Keep.countUe {a} (h : Keep s0 s) : Keep s0 (s.countUe a) := by
  unfold State.countUe
  split
  · exact State.countSat_keep _ _ _ h
  · exact h

theorem Keep.reportError {a out src} (h : Keep s0 s) : Keep s0 (s.reportError a out src) :=
  h.errorLog.event

theorem Keep.mirrorBad {a} (h : Keep s0 s) : Keep s0 (s.mirrorBad a) :=
  Keep.foldl h fun _ _ h0 => State.setBit_keep _ _ _ h0

theorem Keep.damage {a} (h : Keep s0 s) : Keep s0 (s.damage a) :=
  Keep.foldl h fun _ _ h0 => State.setBit_keep _ _ _ h0

theorem Keep.readMirror {a f src} (h : Keep s0 s) : Keep s0 (s.readMirror a f src).2 := by
  unfold State.readMirror
  dsimp only
  split
  · dsimp only
    exact h
  · split
    · dsimp only
      exact (((State.setPoison_keep _ _ (Keep.foldl h fun t2 x2 h2 => h2.corrected)).countUe).mirrorBad).reportError
    · dsimp only
      exact (Keep.foldl h fun t2 x2 h2 => h2.corrected).repairFromMirror

theorem Keep.dropVectorLine {c} (h : Keep s0 s) : Keep s0 (s.dropVectorLine c) := by
  unfold State.dropVectorLine
  dsimp only
  split
  · exact Keep.foldl (State.useFree_keep h) fun _ _ h1 => State.updEng_keep _ _ h1
  · exact State.useFree_keep h

theorem Keep.poisonOutcome {a f src} (h : Keep s0 s) : Keep s0 (s.poisonOutcome a f src).2 := by
  unfold State.poisonOutcome
  dsimp only
  split
  · split
    · dsimp only
      exact h.mirrorBad
    · split
      · dsimp only
        exact h.dropVectorLine
      · dsimp only
        exact h
  · split
    · dsimp only
      exact h.readMirror
    · split
      · split
        · dsimp only
          exact h.readMirror
        · dsimp only
          exact h.readMirror.mirrorBad
      · dsimp only
        exact h.readMirror.damage
  · split
    · dsimp only
      exact h
    · dsimp only
      exact h.mirrorBad

theorem Keep.uncorrectable {a f src} (h : Keep s0 s) : Keep s0 (s.uncorrectable a f src) :=
  Keep.ite (Keep.ite h (((State.setStoreBad_keep _ _ h).countUe).reportError)) (Keep.ite h ((((State.setPoison_keep _ _
    h).countUe).poisonOutcome).reportError))

theorem Keep.eccRead {a f src} (h : Keep s0 s) : Keep s0 (s.eccRead a f src) := by
  unfold State.eccRead
  refine Keep.foldl h fun _ _ h0 => ?_
  split
  · exact h0
  · exact h0.corrected
  · exact h0.uncorrectable

theorem Keep.meet {a n f src} (h : Keep s0 s) : Keep s0 (s.meet a n f src) := by
  unfold State.meet
  split
  · exact h
  · exact Keep.foldl h fun _ _ h1 => h1.eccRead

theorem Keep.meetWord {a f} (h : Keep s0 s) : Keep s0 (s.meetWord a f) :=
  h.eccRead

/-! The operations of `Machine/Rings.lean`. -/

theorem Keep.raise {n} (h : Keep s0 s) : Keep s0 (s.raise n) :=
  State.setBit_keep _ _ _ h

theorem Keep.sourceRequest {n} (h : Keep s0 s) : Keep s0 (s.sourceRequest n) :=
  Keep.ite h.violation h.raise

theorem Keep.checkRing {r n bad} (h : Keep s0 s) : Keep s0 (s.checkRing r n bad).2 := by
  unfold State.checkRing
  split
  · dsimp only
    exact h
  · dsimp only
    exact Keep.ite h h.violation

theorem Keep.allocAs {r k} (h : Keep s0 s) : Keep s0 (s.allocAs r k).2 := by
  unfold State.allocAs
  split
  · dsimp only
    exact State.setBit_keep _ _ _ h
  · dsimp only
    exact h

theorem Keep.allocRing {r} (h : Keep s0 s) : Keep s0 (s.allocRing r).2 :=
  h.allocAs

theorem Keep.takeBuffer {r} (h : Keep s0 s) : Keep s0 (s.takeBuffer r).2 := by
  unfold State.takeBuffer
  split
  · dsimp only
    exact State.countSat_keep _ _ _ h
  · dsimp only
    exact State.updRg_keep _ _ (State.useFree_keep h)

theorem Keep.poolRead {r} (h : Keep s0 s) : Keep s0 (s.poolRead r).2 := by
  unfold State.poolRead
  split
  · next e03 =>
      dsimp only
      exact h.takeBuffer.snd_eq e03
  · next e02 =>
      dsimp only
      exact h.takeBuffer.snd_eq e02

/-! The operations of `Machine/Scribe.lean`. -/

theorem Keep.updScr {c f} (h : Keep s0 s) : Keep s0 (s.updScr c f) :=
  State.updCl_keep _ _ h

theorem Keep.updFigs {c f} (h : Keep s0 s) : Keep s0 (s.updFigs c f) :=
  State.updCl_keep _ _ h

theorem Keep.updFig {c id f} (h : Keep s0 s) : Keep s0 (s.updFig c id f) :=
  State.updCl_keep _ _ h

theorem Keep.scrRelease {c v} (h : Keep s0 s) : Keep s0 (s.scrRelease c v) :=
  State.sendPin_keep _ _ (State.setReg_keep _ _ h)

theorem Keep.recordFigs {c unit f} (h : Keep s0 s) : Keep s0 (s.recordFigs c unit f) := by
  unfold State.recordFigs
  split
  · exact h.updFigs
  · split
    · exact h.updFig
    · exact h

theorem Keep.queueRecord {c unit grain rank flags vaddr ts kind pin cycle} (h : Keep s0 s) : Keep s0 (s.queueRecord c unit grain
    rank flags vaddr ts kind pin cycle) := by
  unfold State.queueRecord
  refine Keep.ite (Keep.ite (Keep.recordFigs (Keep.updScr ?_)) (Keep.event (Keep.recordFigs (Keep.updScr ?_))))
    (((Keep.ite (State.setBit_keep _ _ _ h) h).updScr).recordFigs)
  · split
    · exact State.countSat_keep _ _ _ (State.setBit_keep _ _ _ (State.countSat_keep _ _ _ (Keep.ite (State.setBit_keep _ _ _
        h) h)))
    · exact State.setBit_keep _ _ _ (State.countSat_keep _ _ _ (Keep.ite (State.setBit_keep _ _ _ h) h))
  · split
    · exact State.countSat_keep _ _ _ (State.setBit_keep _ _ _ (State.countSat_keep _ _ _ (Keep.ite (State.setBit_keep _ _ _
        h) h)))
    · exact State.setBit_keep _ _ _ (State.countSat_keep _ _ _ (Keep.ite (State.setBit_keep _ _ _ h) h))

theorem Keep.emitCount {c u w grain} (h : Keep s0 s) : Keep s0 (s.emitCount c u w grain) :=
  Keep.ite h.queueRecord h

theorem Keep.flushOld {c u g} (h : Keep s0 s) : Keep s0 (s.flushOld c u g) := by
  unfold State.flushOld
  split
  · exact Keep.ite ((State.updPin_keep _ _ h).emitCount) h
  · exact h

theorem Keep.scribePut {c unit grain rank flags vaddr ts kind pin cycle} (h : Keep s0 s) : Keep s0 (s.scribePut c unit grain
    rank flags vaddr ts kind pin cycle) :=
  (Keep.foldl h fun _ _ h0 => h0.flushOld).queueRecord

theorem Keep.scribeMarker {c mtype grain cycle vaddr flags} (h : Keep s0 s) : Keep s0 (s.scribeMarker c mtype grain cycle vaddr
    flags) :=
  h.scribePut

theorem Keep.scribeDrain {c} (h : Keep s0 s) : Keep s0 (s.scribeDrain c) :=
  Keep.ite (Keep.ite ((Keep.ite h.updScr h).sourceRequest) (Keep.ite h.updScr h)) (Keep.ite h.updScr h)

theorem Keep.scribeWriteOne {c r} (h : Keep s0 s) : Keep s0 (s.scribeWriteOne c r) :=
  State.setReg_keep _ _ h.store

theorem Keep.scribeMove {c n} (h : Keep s0 s) : Keep s0 (s.scribeMove c n) := by
  induction n generalizing s with
  | zero => exact h
  | succ n ih =>
    unfold State.scribeMove
    split
    · exact h
    · exact Keep.ite (ih h.updScr.scribeWriteOne) h

theorem Keep.closeWindow {c u g} (h : Keep s0 s) : Keep s0 (s.closeWindow c u g) := by
  unfold State.closeWindow
  dsimp only
  split
  · exact h
  · refine State.updPin_keep _ _ ?_
    split
    · exact (State.updPin_keep _ _ h).emitCount
    · exact h

theorem Keep.closeWindows {c g} (h : Keep s0 s) : Keep s0 (s.closeWindows c g) :=
  Keep.foldl h fun _ _ h0 => h0.closeWindow

theorem Keep.windowCycle {c u n g} (h : Keep s0 s) : Keep s0 (s.windowCycle c u n g) := by
  unfold State.windowCycle
  split
  · exact Keep.ite h (State.updPin_keep _ _ h.closeWindow)
  · exact State.updPin_keep _ _ h

theorem Keep.countedOn {c g} (h : Keep s0 s) : Keep s0 (s.countedOn c g) :=
  Keep.ite ((((State.setBit_keep _ _ _ (State.setBit_keep _ _ _ h.scribeMarker)).updScr).updFigs).event)
    (((State.setBit_keep _ _ _ (State.setBit_keep _ _ _ h.scribeMarker)).updScr).updFigs)

theorem Keep.countedOff {c g} (h : Keep s0 s) : Keep s0 (s.countedOff c g) := by
  unfold State.countedOff
  exact (State.setBit_keep _ _ _ h.scribeMarker.closeWindows).updScr

theorem Keep.countedDecide {c g} (h : Keep s0 s) : Keep s0 (s.countedDecide c g) := by
  unfold State.countedDecide
  refine Keep.ite ?_ h
  split
  · exact Keep.ite h.countedOn h
  · exact Keep.ite h.countedOff h

theorem Keep.scribeResult {p x tag grain lf hf tripped} (h : Keep s0 s) : Keep s0 (s.scribeResult p x tag grain lf hf tripped)
    := by
  unfold State.scribeResult
  refine Keep.ite h ?_
  split
  · exact State.setReg_keep _ _ h
  · refine Keep.ite (Keep.ite ?_ h.scribePut) h
    split
    · refine Keep.ite (State.updPin_keep _ _ (Keep.ite h.scribePut h)) ?_
      split
      · exact State.updPin_keep _ _ (Keep.ite h.scribePut h)
      · exact h
    · split
      · exact State.updPin_keep _ _ (Keep.ite h.scribePut h)
      · exact h
  · exact h

theorem Keep.scribeRing {c} (h : Keep s0 s) : Keep s0 (s.scribeRing c).2 :=
  h.checkRing

theorem Keep.scribeStart {c g id lowEng units} (h : Keep s0 s) : Keep s0 (s.scribeStart c g id lowEng units) :=
  Keep.ite (((Keep.foldl (State.updCl_keep _ _ ((Keep.ite (Keep.foldl (State.setBit_keep _ _ _ (State.setForce_keep _ _
    (State.setForce_keep _ _ (Keep.foldl (State.setReg_keep _ _ h) fun _ _ h0 => State.setReg_keep _ _ h0)))) fun _ _
    h0 => State.setReg_keep _ _ h0) (State.setBit_keep _ _ _ (State.setForce_keep _ _ (State.setForce_keep _ _ (Keep.foldl
    (State.setReg_keep _ _ h) fun _ _ h0 => State.setReg_keep _ _ h0))))).scribeRing)) fun _ _ h0 => State.updPin_keep
    _ _ h0).scribePut).countedOn) ((Keep.foldl (State.updCl_keep _ _ ((Keep.ite (Keep.foldl (State.setBit_keep _ _ _
    (State.setForce_keep _ _ (State.setForce_keep _ _ (Keep.foldl (State.setReg_keep _ _ h) fun _ _ h0 =>
    State.setReg_keep _ _ h0)))) fun _ _ h0 => State.setReg_keep _ _ h0) (State.setBit_keep _ _ _ (State.setForce_keep _
    _ (State.setForce_keep _ _ (Keep.foldl (State.setReg_keep _ _ h) fun _ _ h0 => State.setReg_keep _ _
    h0))))).scribeRing)) fun _ _ h0 => State.updPin_keep _ _ h0).scribePut)

theorem Keep.invalidMarker {c g} (h : Keep s0 s) : Keep s0 (s.invalidMarker c g) := by
  unfold State.invalidMarker
  split
  · exact State.updCl_keep _ _ (Keep.ite h h.scribeMarker)
  · exact h

theorem Keep.endWindows {c u g} (h : Keep s0 s) : Keep s0 (s.endWindows c u g) := by
  unfold State.endWindows
  dsimp only
  split
  · refine Keep.emitCount ?_
    split
    · exact (State.updPin_keep _ _ h).emitCount
    · exact State.updPin_keep _ _ h
  · split
    · exact (State.updPin_keep _ _ h).emitCount
    · exact State.updPin_keep _ _ h

theorem Keep.signature {c g u} (h : Keep s0 s) : Keep s0 (s.signature c g u) :=
  Keep.ite h.scribePut h

theorem Keep.scribeEnd {c g id units more} (h : Keep s0 s) : Keep s0 (s.scribeEnd c g id units more) :=
  (((Keep.ite (Keep.foldl (Keep.foldl h.invalidMarker fun _ _ h0 => h0.endWindows) fun _ _ h0 => h0.signature)
    (Keep.foldl h.invalidMarker fun _ _ h0 => h0.endWindows)).scribePut).updScr).scribeDrain

theorem Keep.execScribeLineWrite {c} (h : Keep s0 s) : Completes s0 (execScribeLineWrite c s) :=
  Completes.ok h.scribeMove.scribeDrain

theorem Keep.execScrFlush {port c} (h : Keep s0 s) : Completes s0 (execScrFlush port c s) :=
  Completes.ok (h.reach (fun _ h0 => h0.updScr.scribeDrain))

theorem Keep.scrConsume {c value} (h : Keep s0 s) : Keep s0 (s.scrConsume c value) :=
  Keep.ite h h.scrRelease.scribeDrain

theorem Keep.execScrRptrWrite {port c value} (h : Keep s0 s) : Completes s0 (execScrRptrWrite port c value s) :=
  Completes.ok (h.reach (fun _ h0 => h0.scrConsume))

theorem Keep.scribeConfig {c a value be} (h : Keep s0 s) : Keep s0 (s.scribeConfig c a value be) :=
  Keep.ite h.partnerWrite (State.sendPin_keep _ _ h.partnerWrite)

theorem Keep.scribeSetting {c a w} (h : Keep s0 s) : Keep s0 (s.scribeSetting c a w) :=
  Keep.ite h (Keep.ite ((((State.setForce_keep _ _ h).scribeRing).updScr).scribeDrain) (State.setForce_keep _ _ h))

theorem Keep.execScribeConfigWrite {port c drain value be} (h : Keep s0 s) : Completes s0 (execScribeConfigWrite port c drain
    value be s) :=
  Completes.ok (h.reach (fun _ h0 => h0.scribeConfig))

/-! The operations of `Machine/Drive.lean`. -/

theorem Keep.pmuSettle {p} (h : Keep s0 s) : Keep s0 (s.pmuSettle p) :=
  State.updPin_keep _ _ h

theorem Keep.holdPin {p g} (h : Keep s0 s) : Keep s0 (s.holdPin p g) :=
  State.updPin_keep _ _ h

theorem Keep.safeHold {p g} (h : Keep s0 s) : Keep s0 (s.safeHold p g) :=
  State.updPin_keep _ _ h

theorem Keep.releaseIdle {p b} (h : Keep s0 s) : Keep s0 (s.releaseIdle p b) :=
  Keep.ite h.holdPin (Keep.ite (State.updPin_keep _ _ h) h)

theorem Keep.shimMoving {c i} (h : Keep s0 s) : Keep s0 (s.shimMoving c i) :=
  State.setBit_keep _ _ _ h

theorem Keep.shimSet {c i target} (h : Keep s0 s) : Keep s0 (s.shimSet c i target) :=
  Keep.ite h ((State.setFld_keep _ _ _ h).shimMoving)

theorem Keep.shimStep {c i} (h : Keep s0 s) : Keep s0 (s.shimStep c i) :=
  Keep.ite h ((State.setFld_keep _ _ _ h).shimMoving)

theorem Keep.stepPin {p} (h : Keep s0 s) : Keep s0 (s.stepPin p) :=
  Keep.foldl h fun _ _ h0 => h0.shimStep

theorem Keep.wordAt {a g} (h : Keep s0 s) : Keep s0 (s.wordAt a g).2 := by
  unfold State.wordAt
  split
  · dsimp only
    exact h
  · dsimp only
    exact State.useFree_keep h

/-! The operations of `Machine/Flags.lean`. -/

theorem Keep.waitCheckAt {e g} (h : Keep s0 s) : Keep s0 (s.waitCheckAt e g) := by
  unfold State.waitCheckAt
  split
  · exact Keep.ite (State.setEng_keep _ _ h) (State.setBit_keep _ _ _ (State.setEng_keep _ _ h))
  · exact h

theorem Keep.unwait {e g} (h : Keep s0 s) : Keep s0 (s.unwait e g) :=
  Keep.ite (State.setBit_keep _ _ _ (State.setEng_keep _ _ h)) h

theorem Keep.recheck {key g e} (h : Keep s0 s) : Keep s0 (s.recheck key g e) := by
  unfold State.recheck
  dsimp only
  split
  · exact Keep.ite h.waitCheckAt.unwait h
  · exact Keep.ite h.waitCheckAt (Keep.ite (State.setEng_keep _ _ h) h)
  · exact Keep.ite (State.setEng_keep _ _ h) h
  · exact h

theorem Keep.flagSetAt {key g src} (h : Keep s0 s) : Keep s0 (s.flagSetAt key g src) :=
  Keep.foldl ((State.setFlag_keep _ _ h).putFlagSets) fun _ _ h0 => h0.recheck

theorem Keep.flagClrAt {key g src} (h : Keep s0 s) : Keep s0 (s.flagClrAt key g src) :=
  Keep.ite h (Keep.foldl (State.setFlag_keep _ _ h) fun _ _ h0 => h0.recheck)

theorem Keep.flagChange {key g src set} (h : Keep s0 s) : Keep s0 (s.flagChange key g src set) :=
  Keep.ite (Keep.ite h.withSysFlagDue (State.send_keep _ h.withSysFlagDue)) (Keep.ite h.flagSetAt h.flagClrAt)

theorem Keep.flagRegWrite {keys set value b} (h : Keep s0 s) : Keep s0 (s.flagRegWrite keys set value b) :=
  Keep.foldl h fun _ _ h0 => Keep.ite h0.flagChange h0

theorem Keep.execFlagSetWrite {port addr value b} (h : Keep s0 s) : Completes s0 (execFlagSetWrite port addr value b s) := by
  unfold Machine.execFlagSetWrite
  split
  · exact Completes.ok (h.reach (fun _ h1 => h1.atCluster.flagRegWrite))
  · exact Completes.ok h

theorem Keep.execFlagClrWrite {port addr value b} (h : Keep s0 s) : Completes s0 (execFlagClrWrite port addr value b s) := by
  unfold Machine.execFlagClrWrite
  split
  · exact Completes.ok (h.reach (fun _ h1 => h1.atCluster.flagRegWrite))
  · exact Completes.ok h

/-! The operations of `Machine/Acq.lean`. -/

theorem Keep.updAcqRing {d ring f} (h : Keep s0 s) : Keep s0 (s.updAcqRing d ring f) :=
  State.updDig_keep _ _ h

theorem Keep.acqRequest {d ring endLine} (h : Keep s0 s) : Keep s0 (s.acqRequest d ring endLine) :=
  Keep.ite h.updAcqRing.sourceRequest h

theorem Keep.stageLines {d ring lines} (h : Keep s0 s) : Keep s0 (s.stageLines d ring lines) :=
  h.updAcqRing

theorem Keep.stageData {d ring n body} (h : Keep s0 s) : Keep s0 (s.stageData d ring n body) :=
  Keep.ite h.stageLines.updAcqRing.acqRequest (State.setBit_keep _ _ _ h.updAcqRing)

theorem Keep.settleRange {d g} (h : Keep s0 s) : Keep s0 (s.settleRange d g) := by
  unfold State.settleRange
  split
  · exact Keep.ite (State.setBit_keep _ _ _ (State.updDig_keep _ _ h)) h
  · exact h

theorem Keep.checkAcqRing {d x ring} (h : Keep s0 s) : Keep s0 (s.checkAcqRing d x ring) := by
  unfold State.checkAcqRing
  exact h.checkRing.updAcqRing

theorem Keep.armNow {d a} (h : Keep s0 s) : Keep s0 (s.armNow d a) :=
  Keep.foldl (State.setBit_keep _ _ _ (State.updDig_keep _ _ h)) fun _ _ h0 => h0.checkAcqRing

theorem Keep.armDue {d b} (h : Keep s0 s) : Keep s0 (s.armDue d b) := by
  unfold State.armDue
  dsimp only
  split
  · exact Keep.ite h.settleRange.armNow h.settleRange
  · exact h.settleRange

theorem Keep.armDig {d a} (h : Keep s0 s) : Keep s0 (s.armDig d a) := by
  unfold State.armDig
  dsimp only
  split
  · exact Keep.ite h.settleRange (State.setBit_keep _ _ _ h.settleRange)
  · exact State.setBit_keep _ _ _ h.settleRange
  · exact Keep.ite h.settleRange.armNow (State.setBit_keep _ _ _ h.settleRange)

theorem Keep.execAcqArm {port d b} (h : Keep s0 s) : Completes s0 (execAcqArm port d b s) :=
  Completes.ok (h.reach (fun _ h0 => h0.atCluster.armDig))

theorem Keep.digIdle {d g} (h : Keep s0 s) : Keep s0 (s.digIdle d g) :=
  State.setBit_keep _ _ _ (State.setBit_keep _ _ _ (State.updDig_keep _ _ h))

theorem Keep.beginRing {d n forced x seq ring} (h : Keep s0 s) : Keep s0 (s.beginRing d n forced x seq ring) :=
  Keep.ite h.updAcqRing.stageLines.acqRequest h

theorem Keep.beginRecord {d a n forced x} (h : Keep s0 s) : Keep s0 (s.beginRecord d a n forced x) := by
  unfold State.beginRecord
  exact State.updDig_keep _ _ (Keep.ite (State.setBit_keep _ _ _ (State.setBit_keep _ _ _ (State.setBit_keep _ _ _
    (State.setFld_keep _ _ _ (Keep.foldl h.settleRange fun t0 x0 h0 => h0.beginRing))))) (State.setBit_keep _ _ _
    (State.setBit_keep _ _ _ (State.setFld_keep _ _ _ (Keep.foldl h.settleRange fun t0 x0 h0 => h0.beginRing)))))

theorem Keep.feed {d input} (h : Keep s0 s) : Keep s0 (s.feed d input) :=
  (State.updDig_keep _ _ h).withFree

theorem Keep.feedTo {d n} (h : Keep s0 s) : Keep s0 (s.feedTo d n) :=
  (State.updDig_keep _ _ h).withFree

theorem Keep.execTrigger {d n input} (h : Keep s0 s) : Completes s0 (execTrigger d n input s) := by
  unfold Machine.execTrigger
  split
  · exact Completes.ite (Completes.ok (((State.at_keep _ h).feed).beginRecord)) (Completes.ok h)
  · exact Completes.ok h

theorem Keep.execAutoTimeout {d input} (h : Keep s0 s) : Completes s0 (execAutoTimeout d input s) := by
  unfold Machine.execAutoTimeout
  split
  · exact Completes.ite (Completes.ok (((State.at_keep _ h).feed).beginRecord)) (Completes.ok h)
  · exact Completes.ok h

theorem Keep.execTriggerFlagSet {d b} (h : Keep s0 s) : Completes s0 (execTriggerFlagSet d b s) :=
  Completes.ite (Completes.ok h) (Completes.ok (Keep.foldl (State.updDig_keep _ _ (State.at_keep _ h)) fun _ _ h0 =>
    h0.flagSetAt))

theorem Keep.meanOvf {d n x j k l} (h : Keep s0 s) : Keep s0 (s.meanOvf d n x j k l) := by
  unfold State.meanOvf
  split
  · exact h
  · exact Keep.ite ((State.setBit_keep _ _ _ h).updAcqRing) ((State.updDig_keep _ _ ((State.setBit_keep _ _ _
      h).updAcqRing)).event)

theorem Keep.nextLine {d n x ring units l} (h : Keep s0 s) : Keep s0 (s.nextLine d n x ring units l) :=
  Keep.ite h ((Keep.ite h.meanOvf h).stageData)

theorem Keep.restLines {d n x ring units l k} (h : Keep s0 s) : Keep s0 (State.restLines d n x ring units l k s) := by
  induction k generalizing s with
  | zero => exact h
  | succ k ih => exact ih h.nextLine

theorem Keep.endRing {d n x l aborted ring} (h : Keep s0 s) : Keep s0 (s.endRing d n x l aborted ring) :=
  Keep.ite h.restLines.stageLines.updAcqRing.acqRequest h

theorem Keep.endRecord {d a n m x aborted} (h : Keep s0 s) : Keep s0 (s.endRecord d a n m x aborted) :=
  Keep.foldl h.feedTo fun _ _ h0 => h0.endRing

theorem Keep.rearm {d n} (h : Keep s0 s) : Keep s0 (s.rearm d n) :=
  Keep.ite (State.setBit_keep _ _ _ (State.updDig_keep _ _ h)) h.armNow

theorem Keep.execRecordLastSample {d n input} (h : Keep s0 s) : Completes s0 (execRecordLastSample d n input s) := by
  unfold Machine.execRecordLastSample
  split
  · exact Completes.ite (Completes.ok (Keep.ite (((((State.at_keep _ h).feed).endRecord).digIdle).rearm) ((((State.at_keep _
      h).feed).endRecord).digIdle))) (Completes.ok h)
  · exact Completes.ok h

theorem Keep.abortDig {d b} (h : Keep s0 s) : Keep s0 (s.abortDig d b) := by
  unfold State.abortDig
  split
  · exact State.setBit_keep _ _ _ h.endRecord.digIdle
  · exact h.digIdle
  · exact h

theorem Keep.execAcqAbort {port d b} (h : Keep s0 s) : Completes s0 (execAcqAbort port d b s) :=
  Completes.ok (h.reach (fun _ h0 => h0.atCluster.abortDig))

theorem Keep.acqRangeDue {d w b} (h : Keep s0 s) : Keep s0 (s.acqRangeDue d w b) :=
  Keep.ite (State.updDig_keep _ _ h.settleRange) (State.setBit_keep _ _ _ (State.updDig_keep _ _ h.settleRange))

theorem Keep.acqRange {d value b} (h : Keep s0 s) : Keep s0 (s.acqRange d value b) :=
  h.atCluster.partnerWrite.acqRangeDue

theorem Keep.execAcqRangeWrite {port d value b} (h : Keep s0 s) : Completes s0 (execAcqRangeWrite port d value b s) :=
  Completes.ok (h.reach (fun _ h0 => h0.acqRange))

theorem Keep.execAcqLineStage {d ring input} (h : Keep s0 s) : Completes s0 (execAcqLineStage d ring input s) := by
  unfold Machine.execAcqLineStage
  split
  · exact Completes.ite (Completes.ok h.feed.nextLine) (Completes.ok h)
  · exact Completes.ok h

/-! The operations of `Machine/Marquetry.lean`. -/

theorem Keep.segWord {y a g} (h : Keep s0 s) : Keep s0 (s.segWord y a g).2 := by
  unfold State.segWord
  split
  · exact h.wordAt
  · dsimp only
    exact State.useFree_keep h.wordAt

theorem Keep.segAt {c n y g} (h : Keep s0 s) : Keep s0 (s.segAt c n y g).2 :=
  h.segWord.segWord.segWord.segWord

theorem Keep.showContact {old p g} (h : Keep s0 s) : Keep s0 (s.showContact old p g) :=
  Keep.ite h (State.send_keep _ h)

theorem Keep.holdInvalid {p k y} (h : Keep s0 s) : Keep s0 (s.holdInvalid p k y) :=
  State.updPin_keep _ _ (State.orBit_keep _ _ _ h)

theorem Keep.playEntry {p n g plays last trig finds} (h : Keep s0 s) : Keep s0 (s.playEntry p n g plays last trig finds) :=
  Keep.ite ((Keep.ite (State.setFld_keep _ _ _ h.segAt) ((State.setFld_keep _ _ _ h.segAt).meet)).holdInvalid)
    (State.updPin_keep _ _ (Keep.ite (State.setFld_keep _ _ _ h.segAt) ((State.setFld_keep _ _ _ h.segAt).meet)))

theorem Keep.playGranule {p g y finds} (h : Keep s0 s) : Keep s0 (s.playGranule p g y finds) :=
  Keep.ite h.meet.holdInvalid h.meet

theorem Keep.settlePlayer {p g finds} (h : Keep s0 s) : Keep s0 (s.settlePlayer p g finds) := by
  unfold State.settlePlayer
  split
  · exact h
  · refine Keep.ite h (Keep.ite (Keep.ite h.playGranule h) ?_)
    split
    · exact h
    · exact State.updPin_keep _ _ h
    · exact h.playEntry

theorem Keep.undoPlay {p g y} (h : Keep s0 s) : Keep s0 (s.undoPlay p g y) := by
  unfold State.undoPlay
  split
  · exact Keep.ite (Keep.ite (State.setFld_keep _ _ _ h) (State.setFld_keep _ _ _ (State.setFld_keep _ _ _ h))) h
  · exact h

theorem Keep.stopPlayer {p g} (h : Keep s0 s) : Keep s0 (s.stopPlayer p g) := by
  unfold State.stopPlayer
  split
  · exact State.setBit_keep _ _ _ h
  · exact State.send_keep _ (State.updPin_keep _ _ (State.updPin_keep _ _ ((State.setBit_keep _ _ _ h).undoPlay)))

theorem Keep.endWave {p b} (h : Keep s0 s) : Keep s0 (s.endWave p b) := by
  unfold State.endWave
  dsimp only
  split
  · exact Keep.ite h.stopPlayer (Keep.ite (State.updPin_keep _ _ h.stopPlayer) (State.updPin_keep _ _ (State.orBit_keep _ _
      _ h.stopPlayer)))
  · exact h.stopPlayer

theorem Keep.execAdvCondSample {p g} (h : Keep s0 s) : Completes s0 (execAdvCondSample p g s) := by
  unfold Machine.execAdvCondSample
  dsimp only
  split
  · exact Completes.ite (Completes.ok (State.updPin_keep _ _ (State.at_keep _ h.settlePlayer))) (Completes.ok h)
  · exact Completes.ok h

theorem Keep.spoiledDelta4 {c n x} (h : Keep s0 s) : Keep s0 (s.spoiledDelta4 c n x).2 :=
  State.setBoth_keep _ _ (State.useFree_keep (State.useFree_keep h.storeAll.withFree))

theorem Keep.toDelta4 {c n x} (h : Keep s0 s) : Keep s0 (s.toDelta4 c n x).2 :=
  State.setBoth_keep _ _ h.storeAll.withFree

theorem Keep.delta4Result {c d} (h : Keep s0 s) : Keep s0 (s.delta4Result c d).2 := by
  unfold State.delta4Result
  refine Keep.withInFlight (Keep.foldl ?_ fun _ _ h0 => State.setPoison_keep _ _ h0)
  split
  · exact h.spoiledDelta4
  · exact h.toDelta4

theorem Keep.delta4Refuse {port c n} (h : Keep s0 s) : Keep s0 (s.delta4Refuse port c n) :=
  (State.setBit_keep _ _ _ h).violation

theorem Keep.delta4Command {port c value} (h : Keep s0 s) : Keep s0 (s.delta4Command port c value) :=
  Keep.ite h (Keep.ite h.delta4Refuse (State.setCoding_keep _ _ (State.setBit_keep _ _ _ h)))

theorem Keep.execDelta4Convert {port c value} (h : Keep s0 s) : Completes s0 (execDelta4Convert port c value s) :=
  Completes.ok (h.reach (fun _ h0 => h0.delta4Command))

theorem Keep.execDelta4Done {c finds} (h : Keep s0 s) : Completes s0 (execDelta4Done c finds s) := by
  unfold Machine.execDelta4Done
  split
  · exact Completes.ok h
  · exact Completes.ok (State.setCoding_keep _ _ (State.setBit_keep _ _ _ (State.setBit_keep _ _ _ (State.setFld_keep _ _ _
      h.meet.delta4Result))))

/-! The operations of `Machine/Clamp.lean`. -/

theorem Keep.setCode {c u b f code} (h : Keep s0 s) : Keep s0 (s.setCode c u b f code) :=
  Keep.ite h (State.setFld_keep _ _ _ (State.updPin_keep _ _ h))

theorem Keep.trip {p g} (h : Keep s0 s) : Keep s0 (s.trip p g) := by
  unfold State.trip
  refine Keep.ite (Keep.event (State.orBit_keep _ _ _ ?_)) ?_
  · split
    · exact (State.countSat_keep _ _ _ (State.updPin_keep _ _ (State.orBit_keep _ _ _ h))).updFig
    · exact State.countSat_keep _ _ _ (State.updPin_keep _ _ (State.orBit_keep _ _ _ h))
  · split
    · exact (State.countSat_keep _ _ _ (State.updPin_keep _ _ (State.orBit_keep _ _ _ h))).updFig
    · exact State.countSat_keep _ _ _ (State.updPin_keep _ _ (State.orBit_keep _ _ _ h))

theorem Keep.clearLatch {p g} (h : Keep s0 s) : Keep s0 (s.clearLatch p g) := by
  unfold State.clearLatch
  split
  · exact Keep.ite (State.updPin_keep _ _ (State.setFld_keep _ _ _ h)) h
  · exact h

theorem Keep.execProtectionSample {p g microvolts} (h : Keep s0 s) : Completes s0 (execProtectionSample p g microvolts s) :=
  Completes.ite (Completes.ok (State.at_keep _ h)) (Completes.ok (Keep.ite (((State.updPin_keep _ _ (State.at_keep _
    h)).trip).showContact) (State.updPin_keep _ _ (State.at_keep _ h))))

theorem Keep.clearLatches {c mask b} (h : Keep s0 s) : Keep s0 (s.clearLatches c mask b) :=
  Keep.foldl (State.at_keep _ h) fun _ _ h0 => Keep.ite h0 (Keep.ite h0.clearLatch.releaseIdle h0.clearLatch)

theorem Keep.execLatchClearWrite {port c mask b} (h : Keep s0 s) : Completes s0 (execLatchClearWrite port c mask b s) :=
  Completes.ok (h.reach (fun _ h0 => h0.atCluster.clearLatches))

/-! The operations of `Machine/Conv.lean`. -/

theorem Keep.updAdc {c f} (h : Keep s0 s) : Keep s0 (s.updAdc c f) :=
  State.updCl_keep _ _ h

theorem Keep.adcMissed {c} (h : Keep s0 s) : Keep s0 (s.adcMissed c) :=
  State.countSat_keep _ _ _ h

theorem Keep.adcPending {c} (h : Keep s0 s) : Keep s0 (s.adcPending c) :=
  State.setBit_keep _ _ _ h

theorem Keep.adcTake {c x} (h : Keep s0 s) : Keep s0 (s.adcTake c x) := by
  unfold State.adcTake
  refine Keep.ite h.adcMissed.updAdc ?_
  split
  · exact h.updAdc
  · exact h.updAdc.adcPending
  · exact h.adcMissed.updAdc

theorem Keep.adcSettle {c g n} (h : Keep s0 s) : Keep s0 (s.adcSettle c g n) := by
  induction n generalizing s with
  | zero => exact h
  | succ n ih =>
    unfold State.adcSettle
    split
    · exact Keep.ite (ih h.updAdc.adcTake) h
    · exact h

theorem Keep.adcCatchUp {c g} (h : Keep s0 s) : Keep s0 (s.adcCatchUp c g) :=
  h.adcSettle

theorem Keep.adcEvent {c e} (h : Keep s0 s) : Keep s0 (s.adcEvent c e) :=
  Keep.ite h.adcCatchUp (Keep.ite h.adcCatchUp.adcMissed.updAdc h.adcCatchUp.updAdc.adcCatchUp)

theorem Keep.execAdcStart {port c b} (h : Keep s0 s) : Completes s0 (execAdcStart port c b s) :=
  Completes.ok (h.reach (fun _ h0 => h0.atCluster.adcEvent))

theorem Keep.execAdcTimerEvent {c g} (h : Keep s0 s) : Completes s0 (execAdcTimerEvent c g s) :=
  Completes.ite (Completes.ok ((State.at_keep _ h).adcEvent)) (Completes.ok h)

theorem Keep.flowConvert {c g} (h : Keep s0 s) : Keep s0 (s.flowConvert c g) := by
  unfold State.flowConvert
  split
  · exact Keep.ite h.updAdc h
  · exact h

theorem Keep.execAdcSequenceBegin {c g} (h : Keep s0 s) : Completes s0 (execAdcSequenceBegin c g s) := by
  unfold Machine.execAdcSequenceBegin
  dsimp only
  split
  · exact Completes.ite (Completes.ok (State.setBit_keep _ _ _ (State.setBit_keep _ _ _ ((State.at_keep _
      h.adcCatchUp).updAdc)))) (Completes.ok h)
  · exact Completes.ok h

theorem Keep.latchDacs {c g} (h : Keep s0 s) : Keep s0 (s.latchDacs c g) := by
  unfold State.latchDacs
  split
  · exact Keep.ite (State.useFree_keep h.updAdc) h
  · exact h

theorem Keep.adcDemand {c} (h : Keep s0 s) : Keep s0 (s.adcDemand c) :=
  Keep.ite h.sourceRequest h

theorem Keep.adcPush {c entry} (h : Keep s0 s) : Keep s0 (s.adcPush c entry) :=
  Keep.ite (((State.countSat_keep _ _ _ h).updAdc).adcDemand) h.updAdc.adcDemand

theorem Keep.adcAfter {c g lowPower} (h : Keep s0 s) : Keep s0 (s.adcAfter c g lowPower) := by
  unfold State.adcAfter
  dsimp only
  split
  · exact ((State.setBit_keep _ _ _ h).updAdc).adcPending
  · exact Keep.ite ((State.setBit_keep _ _ _ h).updAdc) (State.setBit_keep _ _ _ ((State.setBit_keep _ _ _ h).updAdc))

theorem Keep.flowResult {c q ns} (h : Keep s0 s) : Keep s0 (s.flowResult c q ns) :=
  Keep.foldl h fun _ _ h0 => State.updFlow_keep _ _ h0

theorem Keep.countSelfTest {c q} (h : Keep s0 s) : Keep s0 (s.countSelfTest c q) :=
  Keep.ite (State.updCl_keep _ _ h) h

theorem Keep.modReqNow {c w} (h : Keep s0 s) : Keep s0 (s.modReqNow c w) :=
  State.setBoth_keep _ _ h.withInFlight

theorem Keep.nextSelfTest {c g} (h : Keep s0 s) : Keep s0 (s.nextSelfTest c g) := by
  unfold State.nextSelfTest
  split
  · exact Keep.ite (Keep.ite h.updAdc h) h
  · exact h

theorem Keep.selfTestsDone {c} (h : Keep s0 s) : Keep s0 (s.selfTestsDone c) :=
  State.setBit_keep _ _ _ (State.setBit_keep _ _ _ h.modReqNow)

theorem Keep.execAdcSequenceEnd {c g codes} (h : Keep s0 s) : Completes s0 (execAdcSequenceEnd c g codes s) := by
  unfold Machine.execAdcSequenceEnd
  dsimp only
  split
  · exact Completes.ite (Completes.ok (Keep.ite ((((Keep.ite (((State.at_keep _
      h.adcCatchUp.latchDacs).withFree).flowResult) (((State.at_keep _
      h.adcCatchUp.latchDacs).withFree).adcPush)).countSelfTest).adcAfter).selfTestsDone) (((((Keep.ite (((State.at_keep _
      h.adcCatchUp.latchDacs).withFree).flowResult) (((State.at_keep _
      h.adcCatchUp.latchDacs).withFree).adcPush)).countSelfTest).adcAfter).nextSelfTest).flowConvert))) (Completes.ok h)
  · exact Completes.ok h

theorem Keep.pulsePin {p b} (h : Keep s0 s) : Keep s0 (s.pulsePin p b) :=
  Keep.ite h (Keep.ite ((State.updPin_keep _ _ h).adcEvent) (State.updPin_keep _ _ h))

theorem Keep.execPulseStart {port c mask b} (h : Keep s0 s) : Completes s0 (execPulseStart port c mask b s) :=
  Completes.ok (h.reach (fun _ h0 => Keep.foldl h0.atCluster fun _ _ h1 => h1.pulsePin.showContact))

theorem Keep.execPulseEnd {p g} (h : Keep s0 s) : Completes s0 (execPulseEnd p g s) := by
  unfold Machine.execPulseEnd
  split
  · exact Completes.ite (Completes.ok ((State.updPin_keep _ _ (State.at_keep _ h)).showContact)) (Completes.ok h)
  · exact Completes.ok h

theorem Keep.updPrec {r f} (h : Keep s0 s) : Keep s0 (s.updPrec r f) :=
  State.updRg_keep _ _ h

theorem Keep.precShow {r lowPower} (h : Keep s0 s) : Keep s0 (s.precShow r lowPower) :=
  State.setBit_keep _ _ _ (State.setFld_keep _ _ _ h)

theorem Keep.precDemand {r} (h : Keep s0 s) : Keep s0 (s.precDemand r) :=
  Keep.ite h.sourceRequest h

theorem Keep.precPush {r entry} (h : Keep s0 s) : Keep s0 (s.precPush r entry) :=
  Keep.ite (((State.countSat_keep _ _ _ h).updPrec).precDemand) h.updPrec.precDemand

theorem Keep.precWrite {r x} (h : Keep s0 s) : Keep s0 (s.precWrite r x) :=
  h.precPush

theorem Keep.precDue {r g} (h : Keep s0 s) : Keep s0 (s.precDue r g) := by
  unfold State.precDue
  split
  · exact Keep.ite h.updPrec.precWrite h
  · exact h

theorem Keep.precRestart {r b} (h : Keep s0 s) : Keep s0 (s.precRestart r b) := by
  unfold State.precRestart
  exact h.precDue.precShow.updPrec

theorem Keep.precCtrl {r b w} (h : Keep s0 s) : Keep s0 (s.precCtrl r b w) :=
  Keep.ite ((State.setForce_keep _ _ h).precRestart) ((State.setForce_keep _ _ h).precShow)

theorem Keep.execPcCtrlWrite {port r value be b} (h : Keep s0 s) : Completes s0 (execPcCtrlWrite port r value be b s) :=
  Completes.ok (h.reach (fun _ h0 => h0.atCluster.partnerWrite.precCtrl))

theorem Keep.execPcConversion {r g code} (h : Keep s0 s) : Completes s0 (execPcConversion r g code s) :=
  Completes.ite (Completes.ite (Completes.ite (Completes.ok ((((Keep.ite (State.useFree_keep (State.useFree_keep (Keep.ite
    ((State.at_keep _ h).precDue) (((State.at_keep _ h).precDue).precShow)))) (Keep.ite ((State.at_keep _ h).precDue)
    (((State.at_keep _ h).precDue).precShow))).updPrec).updPrec).updPrec)) (Completes.ok (((Keep.ite (State.useFree_keep
    (State.useFree_keep (Keep.ite ((State.at_keep _ h).precDue) (((State.at_keep _ h).precDue).precShow)))) (Keep.ite
    ((State.at_keep _ h).precDue) (((State.at_keep _ h).precDue).precShow))).updPrec).updPrec))) (Completes.ok (((Keep.ite
    (State.useFree_keep (State.useFree_keep (Keep.ite ((State.at_keep _ h).precDue) (((State.at_keep _
    h).precDue).precShow)))) (Keep.ite ((State.at_keep _ h).precDue) (((State.at_keep _
    h).precDue).precShow))).updPrec).updPrec))) (Completes.ok h)

theorem Keep.convRead {x} (h : Keep s0 s) : Keep s0 (s.convRead x).2 := by
  unfold State.convRead
  split
  · split
    · dsimp only
      exact h.updAdc
    · dsimp only
      exact h
  · split
    · dsimp only
      exact h.updPrec
    · dsimp only
      exact h

theorem Keep.execAdcResultRead {port conv} (h : Keep s0 s) : Completes s0 (execAdcResultRead port conv s) :=
  Completes.ok (h.readReach h.convRead)

/-! The operations of `Machine/Pins.lean`. -/

theorem Keep.placeEdge {p x} (h : Keep s0 s) : Keep s0 (s.placeEdge p x) :=
  Keep.ite (State.updPin_keep _ _ h) (Keep.ite (State.send_keep _ (State.send_keep _ (State.updPin_keep _ _ h)))
    (State.send_keep _ (State.updPin_keep _ _ h)))

theorem Keep.flushEdge {p} (h : Keep s0 s) : Keep s0 (s.flushEdge p) := by
  unfold State.flushEdge
  split
  · exact State.updPin_keep _ _ h.placeEdge
  · exact h

theorem Keep.flushEdgeBy {p g} (h : Keep s0 s) : Keep s0 (s.flushEdgeBy p g) := by
  unfold State.flushEdgeBy
  split
  · exact Keep.ite h.flushEdge h
  · exact h

theorem Keep.mergeEdge {p x} (h : Keep s0 s) : Keep s0 (s.mergeEdge p x) := by
  unfold State.mergeEdge
  split
  · exact State.updPin_keep _ _ h
  · exact Keep.ite (Keep.ite (State.updPin_keep _ _ (State.orBit_keep _ _ _ h)) (State.orBit_keep _ _ _ h))
      (State.updPin_keep _ _ h.placeEdge)

theorem Keep.copyEdge {c t u e g stream} (h : Keep s0 s) : Keep s0 (s.copyEdge c t u e g stream).2 :=
  h.wordAt.wordAt

theorem Keep.copyEdges {c t u g stream l} (h : Keep s0 s) : Keep s0 (s.copyEdges c t u g stream l).2 := by
  induction l generalizing s with
  | nil => exact h
  | cons e l ih => exact ih h.copyEdge

theorem Keep.dictCopy {e x finds} (h : Keep s0 s) : Keep s0 (s.dictCopy e x finds).1 := by
  unfold State.dictCopy
  dsimp only
  split
  · dsimp only
    exact h
  · split
    · dsimp only
      exact h
    · split
      · dsimp only
        exact h.meet
      · dsimp only
        exact State.updEng_keep _ _ h.meet

theorem Keep.secretBit {e k} (h : Keep s0 s) : Keep s0 (s.secretBit e k).2 := by
  unfold State.secretBit
  split
  · dsimp only
    exact State.setBit_keep _ _ _ h
  · dsimp only
    exact Keep.ite (State.updEng_keep _ _ (State.setFld_keep _ _ _ h)) (State.setFld_keep _ _ _ h)

theorem Keep.endRun {e code g} (h : Keep s0 s) : Keep s0 (s.endRun e code g) := by
  unfold State.endRun
  split
  · exact State.updRun_keep _ _ h
  · exact h

theorem Keep.meetSecret {e k finds} (h : Keep s0 s) : Keep s0 (s.meetSecret e k finds) :=
  Keep.ite h h.meet

theorem Keep.drawUnits {e k finds l m b} (h : Keep s0 s) : Keep s0 (s.drawUnits e k finds l m b).1 := by
  induction l generalizing s m b with
  | nil => exact h
  | cons u l ih =>
    unfold State.drawUnits
    dsimp only
    split
    · exact h.meetSecret
    · exact ih h.meetSecret.secretBit

theorem Keep.drawNow {e g w code finds} (h : Keep s0 s) : Keep s0 (s.drawNow e g w code finds).1 := by
  unfold State.drawNow
  dsimp only
  split
  · dsimp only
    exact State.updEng_keep _ _ h.drawUnits
  · exact h.drawUnits

theorem Keep.draw {e g w code finds} (h : Keep s0 s) : Keep s0 (s.draw e g w code finds).1 := by
  unfold State.draw
  split
  · dsimp only
    exact h
  · split
    · split
      · dsimp only
        exact h
      · exact h.drawNow
    · exact h.drawNow

theorem Keep.reportCycle {p x raw} (h : Keep s0 s) : Keep s0 (s.reportCycle p x raw) := by
  unfold State.reportCycle
  dsimp only
  refine Keep.ite (Keep.ite (State.useFree_keep (Keep.ite (State.orBit_keep _ _ _ h) h)) (Keep.ite (State.orBit_keep _ _ _
    h) h)) ?_
  split
  · exact Keep.ite (State.orBit_keep _ _ _ (Keep.ite (State.useFree_keep (Keep.ite (State.orBit_keep _ _ _ h) h)) (Keep.ite
      (State.orBit_keep _ _ _ h) h))) (((State.orBit_keep _ _ _ (Keep.ite (State.useFree_keep (Keep.ite (State.orBit_keep _
      _ _ h) h)) (Keep.ite (State.orBit_keep _ _ _ h) h))).updFig).event)
  · exact State.orBit_keep _ _ _ (Keep.ite (State.useFree_keep (Keep.ite (State.orBit_keep _ _ _ h) h)) (Keep.ite
      (State.orBit_keep _ _ _ h) h))

theorem Keep.pushCycle {p x} (h : Keep s0 s) : Keep s0 (s.pushCycle p x) :=
  State.updPin_keep _ _ h

theorem Keep.scribeCycle {p x} (h : Keep s0 s) : Keep s0 (s.scribeCycle p x) :=
  Keep.ite h.flushOld.windowCycle h.flushOld

theorem Keep.beforeCycle {p g} (h : Keep s0 s) : Keep s0 (s.beforeCycle p g) :=
  Keep.ite (((Keep.ite ((Keep.ite h.stepPin h).clearLatch) (Keep.ite h.stepPin h)).flushEdgeBy).holdPin)
    (State.updPin_keep _ _ ((Keep.ite ((Keep.ite h.stepPin h).clearLatch) (Keep.ite h.stepPin h)).flushEdgeBy))

theorem Keep.spoilEngine {e} (h : Keep s0 s) : Keep s0 (s.spoilEngine e) :=
  Keep.foldl (State.updEng_keep _ _ h) fun _ _ h0 => State.updPin_keep _ _ h0

theorem Keep.copyPeriod {e g} (h : Keep s0 s) : Keep s0 (s.copyPeriod e g).2 := by
  unfold State.copyPeriod
  dsimp only
  split
  · split
    · dsimp only
      exact Keep.ite h.wordAt h.wordAt.spoilEngine
    · dsimp only
      exact State.updEng_keep _ _ h.wordAt
  · dsimp only
    exact State.updEng_keep _ _ h.wordAt

theorem Keep.startBare {p e g vaddr missing idle} (h : Keep s0 s) : Keep s0 (s.startBare p e g vaddr missing idle) :=
  Keep.ite ((State.updPin_keep _ _ h.copyPeriod.pushCycle.scribeCycle.flushEdge.stopPlayer).showContact)
    h.copyPeriod.pushCycle.scribeCycle

theorem Keep.startCoded {p e g vaddr raw} (h : Keep s0 s) : Keep s0 (s.startCoded p e g vaddr raw) := by
  unfold State.startCoded
  exact ((State.updPin_keep _ _ ((Keep.ite (State.setBit_keep _ _ _ ((((Keep.ite (State.orBit_keep _ _ _ h)
    h).copyPeriod).wordAt).copyEdges)) (((((Keep.ite (State.orBit_keep _ _ _ h)
    h).copyPeriod).wordAt).copyEdges).stopPlayer)).pushCycle)).reportCycle).scribeCycle

theorem Keep.startFree {p e g vaddr} (h : Keep s0 s) : Keep s0 (s.startFree p e g vaddr) :=
  ((State.updPin_keep _ _ ((Keep.ite h.withFree h.withFree.stopPlayer).pushCycle)).reportCycle).scribeCycle

theorem Keep.lostVector {e v g f} (h : Keep s0 s) : Keep s0 (s.lostVector e v g f) := by
  unfold State.lostVector
  split
  · exact ((State.setPair_keep _ _ _ (State.setBit_keep _ _ _ (State.updEng_keep _ _ h))).endRun).violation
  · exact ((State.updEng_keep _ _ h).endRun).event

theorem Keep.startVector {p e g va v w y finds} (h : Keep s0 s) : Keep s0 (s.startVector p e g va v w y finds) := by
  unfold State.startVector
  dsimp only
  split
  · exact h.lostVector
  · split
    · exact h.dictCopy.lostVector
    · split
      · exact h.dictCopy.beforeCycle.draw.lostVector
      · exact h.dictCopy.beforeCycle.draw.startCoded

theorem Keep.execCycleStart {p g finds} (h : Keep s0 s) : Completes s0 (execCycleStart p g finds s) := by
  unfold Machine.execCycleStart
  split
  · exact Completes.ok h
  · refine Completes.ite (Completes.ok (((State.at_keep _ h).beforeCycle).startFree)) ?_
    split
    · refine Completes.ite (Completes.ok (((State.at_keep _ h).beforeCycle).startBare)) ?_
      split
      · exact Completes.ok (((State.at_keep _ h).beforeCycle).startBare)
      · exact Completes.ok ((State.at_keep _ h).startVector)
      · exact Completes.ok ((State.at_keep _ h).startVector)
      · exact Completes.ok h
    · exact Completes.ok h

theorem Keep.freeEdge {p start} (h : Keep s0 s) : Keep s0 (s.freeEdge p start) := by
  unfold State.freeEdge
  exact (Keep.ite (State.orBit_keep _ _ _ h.withFree) h.withFree).placeEdge

theorem Keep.execDriveEdge {p k start} (h : Keep s0 s) : Completes s0 (execDriveEdge p k start s) := by
  unfold Machine.execDriveEdge
  split
  · exact Completes.ok h
  · refine Completes.ite (Completes.ok h) (Completes.ite (Completes.ok ((State.at_keep _ h).freeEdge)) ?_)
    split
    · exact Completes.ok h
    · exact Completes.ite (Completes.ok h) (Completes.ok ((State.at_keep _ h).mergeEdge))

theorem Keep.collect {p e g fail miss} (h : Keep s0 s) : Keep s0 (s.collect p e g fail miss) := by
  unfold State.collect
  split
  · exact h
  · split
    · exact h
    · exact Keep.foldl h fun _ _ h2 => Keep.ite (State.setEng_keep _ _ h2) h2

theorem Keep.result {p x tag grain lf hf tripped} (h : Keep s0 s) : Keep s0 (s.result p x tag grain lf hf tripped) := by
  unfold State.result
  dsimp only
  refine Keep.collect (Keep.scribeResult (Keep.ite ?_ (Keep.ite (State.orBit_keep _ _ _ (Keep.ite (State.orBit_keep _ _ _
    h) h)) (Keep.ite (State.orBit_keep _ _ _ h) h))))
  split
  · exact (State.countSat_keep _ _ _ (Keep.ite (State.orBit_keep _ _ _ (Keep.ite (State.orBit_keep _ _ _ h) h)) (Keep.ite
      (State.orBit_keep _ _ _ h) h))).updFig
  · exact State.countSat_keep _ _ _ (Keep.ite (State.orBit_keep _ _ _ (Keep.ite (State.orBit_keep _ _ _ h) h)) (Keep.ite
      (State.orBit_keep _ _ _ h) h))

theorem Keep.lostStrobe {p x grain gap miss} (h : Keep s0 s) : Keep s0 (s.lostStrobe p x grain gap miss) :=
  (Keep.ite (State.updPin_keep _ _ h) h).collect

theorem Keep.execStrobeTaken {p tag start microvolts} (h : Keep s0 s) : Completes s0 (execStrobeTaken p tag start microvolts s)
    := by
  unfold Machine.execStrobeTaken
  split
  · exact Completes.ok h
  · refine Completes.ite (Completes.ok h) (Completes.ite (Completes.ok ((State.at_keep _ h).lostStrobe)) (Completes.ite
      (Completes.ok (((State.at_keep _ h).withFree).result)) ?_))
    split
    · exact Completes.ok h
    · exact Completes.ite (Completes.ok h) (Completes.ite (Completes.ok ((State.at_keep _ h).lostStrobe)) (Completes.ite
        (Completes.ok h) (Completes.ok ((State.at_keep _ h).result))))

theorem Keep.execHandoverStart {p b finds} (h : Keep s0 s) : Completes s0 (execHandoverStart p b finds s) := by
  unfold Machine.execHandoverStart
  split
  · exact Completes.ite (Completes.ite (Completes.ok ((State.setBit_keep _ _ _ ((State.at_keep _ h).flushEdge)).playEntry))
      (Completes.ok ((State.updPin_keep _ _ ((State.setBit_keep _ _ _ ((State.at_keep _
      h).flushEdge)).playEntry)).showContact))) (Completes.ok h)
  · exact Completes.ok h

/-! The operations of `Machine/Decoder.lean`. -/

theorem Keep.setDecoder {e l d} (h : Keep s0 s) : Keep s0 (s.setDecoder e l d) :=
  State.updEng_keep _ _ h

theorem Keep.execDecoderRestart {e lane v} (h : Keep s0 s) : Completes s0 (execDecoderRestart e lane v s) :=
  Completes.ite (Completes.ok h.setDecoder) (Completes.ok h)

theorem Keep.execVectorLineFetch {e lane addr finds} (h : Keep s0 s) : Completes s0 (execVectorLineFetch e lane addr finds s) :=
  Completes.ite (Completes.ite (Completes.ok ((State.countSat_keep _ _ _ h).setDecoder)) (Completes.ite (Completes.ok
    (Keep.ite ((((State.countSat_keep _ _ _ h).eccRead).readMirror).setDecoder) ((((State.countSat_keep _ _ _
    h).eccRead).readMirror).setDecoder))) (Completes.ok (((State.countSat_keep _ _ _ h).eccRead).setDecoder))))
    (Completes.ok h)

theorem Keep.execFrameDecode {e lane} (h : Keep s0 s) : Completes s0 (execFrameDecode e lane s) := by
  unfold Machine.execFrameDecode
  dsimp only
  split
  · refine Completes.ite ?_ (Completes.ok h)
    split
    · exact Completes.ite (Completes.ok h.setDecoder) (Completes.ok h)
    · split
      · exact Completes.ok h.setDecoder
      · exact Completes.ok (State.updEng_keep _ _ h.setDecoder)
  · exact Completes.ok h

theorem Keep.noteFilled {c lane l} (h : Keep s0 s) : Keep s0 (s.noteFilled c lane l) := by
  unfold State.noteFilled
  refine Keep.foldl h fun _ _ h0 => ?_
  split
  · exact h0.setDecoder
  · exact h0

theorem Keep.reportFill {c} (h : Keep s0 s) : Keep s0 (s.reportFill c) :=
  Keep.ite h h.withRuns

theorem Keep.enterTenon {c lane t} (h : Keep s0 s) : Keep s0 (s.enterTenon c lane t) :=
  (Keep.ite (State.updCl_keep _ _ h) h).noteFilled

theorem Keep.completeCut {c b lane t} (h : Keep s0 s) : Keep s0 (s.completeCut c b lane t) :=
  Keep.ite ((State.updCl_keep _ _ h.enterTenon).withRuns) h

theorem Keep.storeTenon {c lane t} (h : Keep s0 s) : Keep s0 (s.storeTenon c lane t) := by
  unfold State.storeTenon
  dsimp only
  split
  · exact Keep.ite h.completeCut (Keep.ite h (Keep.ite (State.countSat_keep _ _ _ h) h.enterTenon))
  · exact Keep.ite (State.countSat_keep _ _ _ h) h.enterTenon

theorem Keep.armLead {c} (h : Keep s0 s) : Keep s0 (s.armLead c) :=
  Keep.ite (State.updCl_keep _ _ h) h

theorem Keep.execTenonProduced {c lane stamp slots} (h : Keep s0 s) : Completes s0 (execTenonProduced c lane stamp slots s) := by
  unfold Machine.execTenonProduced
  dsimp only
  split
  · exact Completes.ok h
  · split
    · refine Completes.ite (Completes.ok (Keep.armLead (Keep.reportFill (Keep.noteFilled ?_)))) (Completes.ok (Keep.ite
        h.sliceSeen.storeTenon.armLead h.sliceSeen))
      split
      · exact Keep.ite h.sliceSeen (State.updCl_keep _ _ h.sliceSeen)
      · exact Keep.ite h.sliceSeen (State.updCl_keep _ _ h.sliceSeen)
    · exact Completes.ok (Keep.ite h.sliceSeen.storeTenon.armLead h.sliceSeen)

/-! The operations of `Machine/Tia.lean`. -/

theorem Keep.tiaDrop {c u} (h : Keep s0 s) : Keep s0 (s.tiaDrop c u) :=
  State.countSat_keep _ _ _ h

theorem Keep.tiaPush {c u x} (h : Keep s0 s) : Keep s0 (s.tiaPush c u x) :=
  Keep.ite h.tiaDrop (State.updPin_keep _ _ h)

theorem Keep.tiaStart {c u t} (h : Keep s0 s) : Keep s0 (s.tiaStart c u t) := by
  unfold State.tiaStart
  dsimp only
  split
  · exact (State.updPin_keep _ _ h).tiaPush
  · exact Keep.ite h.tiaDrop (State.updPin_keep _ _ h)

theorem Keep.tiaStop {c u t} (h : Keep s0 s) : Keep s0 (s.tiaStop c u t) := by
  unfold State.tiaStop
  dsimp only
  split
  · exact (State.updPin_keep _ _ h).tiaPush
  · exact Keep.ite h.tiaDrop (State.updPin_keep _ _ h)

theorem Keep.tiaEvent {c src g t rising u} (h : Keep s0 s) : Keep s0 (s.tiaEvent c src g t rising u) :=
  Keep.ite (Keep.ite (Keep.ite h.tiaPush h) (Keep.ite (Keep.ite h.tiaStart h.tiaStop) (Keep.ite h.tiaStart (Keep.ite
    h.tiaStop h)))) h

theorem Keep.execPinEdgeStamped {p rising t16} (h : Keep s0 s) : Completes s0 (execPinEdgeStamped p rising t16 s) :=
  Completes.ite (Completes.ok (Keep.foldl (State.at_keep _ h) fun _ _ h0 => Keep.ite h0.tiaDrop h0)) (Completes.ok
    (Keep.foldl (State.updPin_keep _ _ (State.at_keep _ h)) fun _ _ h0 => h0.tiaEvent))

theorem Keep.tiaWrite {c u value} (h : Keep s0 s) : Keep s0 (s.tiaWrite c u value) :=
  State.sendPin_keep _ _ (Keep.ite h.partnerWrite (State.updPin_keep _ _ h.partnerWrite))

theorem Keep.execTiaModeWrite {port c u value} (h : Keep s0 s) : Completes s0 (execTiaModeWrite port c u value s) :=
  Completes.ok (h.reach (fun _ h0 => h0.tiaWrite))

theorem Keep.tiaRead {c u} (h : Keep s0 s) : Keep s0 (s.tiaRead c u).2 := by
  unfold State.tiaRead
  split
  · dsimp only
    exact State.setReg_keep _ _ (State.setReg_keep _ _ (State.updPin_keep _ _ h))
  · dsimp only
    exact State.setBit_keep _ _ _ h

theorem Keep.execTiaRes0Read {port c u} (h : Keep s0 s) : Completes s0 (execTiaRes0Read port c u s) :=
  Completes.ok (h.readReach h.tiaRead)

theorem Keep.execShimTargetWrite {port c i value} (h : Keep s0 s) : Completes s0 (execShimTargetWrite port c i value s) :=
  Completes.ok (h.reach (fun _ h0 => h0.shimSet))

/-! The operations of `Machine/Reads.lean`. -/

theorem Keep.pairRead {lo hi} (h : Keep s0 s) : Keep s0 (s.pairRead lo hi).2 :=
  h.putShadows

theorem Keep.memtestRead {a} (h : Keep s0 s) : Keep s0 (s.memtestRead a).2 :=
  State.useFree_keep (State.setFld_keep _ _ _ h)

theorem Keep.readSpecial {a l} (h : Keep s0 s) : KeptIn s0 Prod.snd (s.readSpecial a l) :=
  KeptIn.ite (KeptIn.some h.tiaRead) (KeptIn.ite (KeptIn.some h.convRead) (KeptIn.ite (KeptIn.some h.convRead) (KeptIn.ite
    (KeptIn.some h.allocRing) (KeptIn.ite (KeptIn.some h.poolRead) (KeptIn.ite (KeptIn.some h.memtestRead) (KeptIn.map
    (KeptIn.const h) (fun _ _ => h)))))))

theorem Keep.readReg {a} (h : Keep s0 s) : Keep s0 (s.readReg a).2 := by
  unfold State.readReg
  split
  · dsimp only
    exact h
  · split
    · exact h.pairRead
    · split
      · dsimp only
        exact h
      · split
        · next e32 =>
            exact h.readSpecial _ e32
        · dsimp only
          exact h.clearRc

theorem Keep.readRegs {a n} (h : Keep s0 s) : Keep s0 (s.readRegs a n).2 :=
  List.foldlRecOn (motive := fun (r : _ × State) => Keep s0 r.2) _ _ h fun _ h0 _ _ => h0.readReg

theorem Keep.meetFlow {a n finds} (h : Keep s0 s) : Keep s0 (s.meetFlow a n finds) :=
  Keep.ite (Keep.foldl h fun _ _ h0 => Keep.ite h0.eccRead h0) h

theorem Keep.engRead {a n finds} (h : Keep s0 s) : KeptIn s0 Prod.snd (s.engRead a n finds) := by
  unfold State.engRead
  refine KeptIn.ite (KeptIn.some ?_) (KeptIn.ite (KeptIn.ite (KeptIn.some h.meet) (KeptIn.some h)) (KeptIn.ite
    (KeptIn.some h) (KeptIn.map h.meetFlow.flowTake (fun _ h0 => h0.meet))))
  split
  · dsimp only
    exact h
  · dsimp only
    exact h.readRegs

/-! The operations of `Machine/Bundle.lean`. -/

theorem Keep.engReads {finds l} (h : Keep s0 s) : KeptIn s0 Prod.snd (s.engReads finds l) := by
  induction l generalizing s with
  | nil => exact KeptIn.some h
  | cons x l ih => exact h.engRead.bind fun r hr => (ih hr).map fun _ k => k

theorem Keep.admissionReads {r finds} (h : Keep s0 s) : KeptIn s0 Prod.snd (s.admissionReads r finds) :=
  KeptIn.bind h.engReads (fun _ h0 => KeptIn.map h0.engReads (fun _ h1 => h1))

theorem Keep.releaseRun {r} (h : Keep s0 s) : Keep s0 (s.releaseRun r) :=
  State.setFld_keep _ _ _ (Keep.foldl h fun _ _ h0 => State.setFld_keep _ _ _ (State.setFld_keep _ _ _ h0))

theorem Keep.reserveRun {r x} (h : Keep s0 s) : Keep s0 (s.reserveRun r x) :=
  State.updRun_keep _ _ (State.setFld_keep _ _ _ (Keep.foldl h fun _ _ h0 => State.setFld_keep _ _ _ (State.setFld_keep
    _ _ _ h0)))

theorem Keep.keepStreams {x} (h : Keep s0 s) : Keep s0 (s.keepStreams x) :=
  Keep.foldl h fun _ _ h0 => State.updEng_keep _ _ h0

theorem Keep.putImage {c first a l} (h : Keep s0 s) : Keep s0 (s.putImage c first a l) :=
  State.countSat_keep _ _ _ ((State.putBytes_keep _ _ h).unpoison)

theorem Keep.readImage {dir img finds} (h : Keep s0 s) : Keep s0 (s.readImage dir img finds).2 := by
  unfold State.readImage
  dsimp only
  split
  · dsimp only
    split
    · next e12 =>
        dsimp only
        exact h.engRead _ e12
    · dsimp only
      exact h
  · split
    · dsimp only
      split
      · next e22 =>
          dsimp only
          refine (Keep.engRead ?_) _ e22
          split
          · next e22 =>
              dsimp only
              exact h.engRead _ e22
          · dsimp only
            exact h
      · dsimp only
        split
        · next e32 =>
            dsimp only
            exact h.engRead _ e32
        · dsimp only
          exact h
    · dsimp only
      split
      · dsimp only
        split
        · next e32 =>
            dsimp only
            refine (Keep.engRead ?_) _ e32
            split
            · next e32 =>
                dsimp only
                exact h.engRead _ e32
            · dsimp only
              exact h
        · dsimp only
          split
          · next e42 =>
              dsimp only
              exact h.engRead _ e42
          · dsimp only
            exact h
      · split
        · next e32 =>
            dsimp only
            refine (Keep.engRead ?_) _ e32
            split
            · next e32 =>
                dsimp only
                refine (Keep.engRead ?_) _ e32
                split
                · next e32 =>
                    dsimp only
                    exact h.engRead _ e32
                · dsimp only
                  exact h
            · dsimp only
              split
              · next e42 =>
                  dsimp only
                  exact h.engRead _ e42
              · dsimp only
                exact h
        · dsimp only
          split
          · next e42 =>
              dsimp only
              refine (Keep.engRead ?_) _ e42
              split
              · next e42 =>
                  dsimp only
                  exact h.engRead _ e42
              · dsimp only
                exact h
          · dsimp only
            split
            · next e52 =>
                dsimp only
                exact h.engRead _ e52
            · dsimp only
              exact h

theorem Keep.loadDict {e img g finds} (h : Keep s0 s) : Keep s0 (s.loadDict e img g finds) := by
  unfold State.loadDict
  dsimp only
  refine Keep.ite h.violation (Keep.ite h.violation ?_)
  split
  · exact h.readImage.lostVector
  · exact Keep.ite h.readImage.violation (State.setFld_keep _ _ _ (State.setBit_keep _ _ _ h.readImage.putImage))

/-! The operations of `Machine/Engine.lean`. -/

theorem Keep.haltEngine {e g} (h : Keep s0 s) : Keep s0 (s.haltEngine e g) :=
  State.setFld_keep _ _ _ (State.setFld_keep _ _ _ (State.updEng_keep _ _ h))

theorem Keep.storeLost {e g} (h : Keep s0 s) : Keep s0 (s.storeLost e g) :=
  h.haltEngine.endRun.event

theorem Keep.segTrigger {e} (h : Keep s0 s) : Keep s0 (s.segTrigger e) :=
  Keep.foldl h fun _ _ h0 => State.updPin_keep _ _ h0

theorem Keep.sideActions {e g w} (h : Keep s0 s) : Keep s0 (s.sideActions e g w) := by
  unfold State.sideActions
  refine Keep.ite h (Keep.ite ?_ (Keep.foldl (Keep.ite ((Keep.ite h.segTrigger h).adcEvent) (Keep.ite h.segTrigger h)) fun
    _ _ h0 => h0.armDig))
  split
  · exact (Keep.foldl (Keep.ite ((Keep.ite h.segTrigger h).adcEvent) (Keep.ite h.segTrigger h)) fun t1 x1 h1 =>
      h1.armDig).flagChange
  · exact Keep.foldl (Keep.ite ((Keep.ite h.segTrigger h).adcEvent) (Keep.ite h.segTrigger h)) fun t1 x1 h1 => h1.armDig

theorem Keep.sideFields {e g w finds} (h : Keep s0 s) : Keep s0 (s.sideFields e g w finds) :=
  (Keep.ite ((State.updEng_keep _ _ h).loadDict) (State.updEng_keep _ _ h)).sideActions

theorem Keep.openWord {e g w finds} (h : Keep s0 s) : Keep s0 (s.openWord e g w finds) :=
  (State.updEng_keep _ _ h.wordAt).sideFields

theorem Keep.cutPins {e g} (h : Keep s0 s) : Keep s0 (s.cutPins e g) :=
  Keep.foldl h fun _ _ h0 => State.updPin_keep _ _ h0

theorem Keep.waitLeave {e g w} (h : Keep s0 s) : Keep s0 (s.waitLeave e g w) :=
  State.setFld_keep _ _ _ (State.updEng_keep _ _ h.cutPins)

theorem Keep.atOpen {e g} (h : Keep s0 s) : KeptIn s0 id (s.atOpen e g) := by
  unfold State.atOpen
  refine KeptIn.ite KeptIn.none ?_
  split
  · exact KeptIn.ite (KeptIn.some ((State.at_keep _ h).waitLeave)) KeptIn.none
  · exact KeptIn.ite (KeptIn.some (State.at_keep _ h)) KeptIn.none
  · exact KeptIn.ite (KeptIn.some (State.at_keep _ h)) KeptIn.none
  · exact KeptIn.none

theorem Keep.meetFetch {a finds} (h : Keep s0 s) : Keep s0 (s.meetFetch a finds) := by
  unfold State.meetFetch
  split
  · exact h.meetWord
  · exact h

theorem Keep.execWordOpen {e g finds} (h : Keep s0 s) : Completes s0 (execWordOpen e g finds s) := by
  unfold Machine.execWordOpen
  refine Completes.ite (Completes.ok h) ?_
  split
  · exact Completes.ok h
  · next e02 =>
      refine Completes.ite (Completes.ok ((Keep.ite ((State.setEng_keep _ _ (h.atOpen _ e02)).meetFetch) (State.setFld_keep _
        _ _ ((State.setEng_keep _ _ (h.atOpen _ e02)).meetFetch))).storeLost)) ?_
      split
      · exact Completes.ok ((Keep.ite ((State.setEng_keep _ _ (h.atOpen _ e02)).meetFetch) (State.setFld_keep _ _ _
          ((State.setEng_keep _ _ (h.atOpen _ e02)).meetFetch))).openWord)
      · exact Completes.ok ((State.setFld_keep _ _ _ (Keep.ite ((State.setEng_keep _ _ (h.atOpen _ e02)).meetFetch)
          (State.setFld_keep _ _ _ ((State.setEng_keep _ _ (h.atOpen _ e02)).meetFetch)))).openWord)

theorem Keep.closeWord {e g w} (h : Keep s0 s) : Keep s0 (s.closeWord e g w) :=
  State.updEng_keep _ _ (State.at_keep _ h)

theorem Keep.goTo {e target} (h : Keep s0 s) : Keep s0 (s.goTo e target) :=
  State.updEng_keep _ _ h

theorem Keep.fallThrough {e} (h : Keep s0 s) : Keep s0 (s.fallThrough e) :=
  h.goTo

theorem Keep.execNext {e g} (h : Keep s0 s) : Completes s0 (execNext e g s) := by
  unfold Machine.execNext
  split
  · exact Completes.ok h.closeWord.fallThrough
  · exact Completes.ok h

theorem Keep.startBranch {e g cond inv sel target} (h : Keep s0 s) : Keep s0 (s.startBranch e g cond inv sel target) := by
  unfold State.startBranch
  dsimp only
  split
  · exact State.setFld_keep _ _ _ h
  · exact Keep.ite (State.send_keep _ (State.setFld_keep _ _ _ (State.setEng_keep _ _ h))) (State.setFld_keep _ _ _
      (State.setEng_keep _ _ h))

theorem Keep.execJump {e g} (h : Keep s0 s) : Completes s0 (execJump e g s) := by
  unfold Machine.execJump
  split
  · exact Completes.ite (Completes.ok h.closeWord.goTo) (Completes.ok h.closeWord.startBranch.fallThrough)
  · exact Completes.ok h

theorem Keep.stackError {e g} (h : Keep s0 s) : Keep s0 (s.stackError e g) :=
  (State.setFld_keep _ _ _ h.haltEngine).endRun

theorem Keep.pushCall {e g ret sel target} (h : Keep s0 s) : Keep s0 (s.pushCall e g ret sel target) :=
  Keep.ite h.stackError (State.setEng_keep _ _ h)

theorem Keep.execCall {e g} (h : Keep s0 s) : Completes s0 (execCall e g s) := by
  unfold Machine.execCall
  split
  · exact Completes.ok h.closeWord.pushCall
  · exact Completes.ok h

theorem Keep.execRomcall {e g} (h : Keep s0 s) : Completes s0 (execRomcall e g s) := by
  unfold Machine.execRomcall
  split
  · exact Completes.ok h.closeWord.pushCall
  · exact Completes.ok h

theorem Keep.popCall {e g} (h : Keep s0 s) : Keep s0 (s.popCall e g) := by
  unfold State.popCall
  dsimp only
  split
  · exact h.stackError
  · exact State.setEng_keep _ _ h

theorem Keep.execRet {e g} (h : Keep s0 s) : Completes s0 (execRet e g s) := by
  unfold Machine.execRet
  split
  · exact Completes.ok h.closeWord.popCall
  · exact Completes.ok h

theorem Keep.loopTo {e k target next} (h : Keep s0 s) : Keep s0 (s.loopTo e k target next) :=
  State.updEng_keep _ _ h

theorem Keep.execLoop {e g} (h : Keep s0 s) : Completes s0 (execLoop e g s) := by
  unfold Machine.execLoop
  split
  · exact Completes.ok h.closeWord.loopTo
  · exact Completes.ok h

theorem Keep.loadCounter {e k n} (h : Keep s0 s) : Keep s0 (s.loadCounter e k n) :=
  State.updEng_keep _ _ h

theorem Keep.execLdcnt {e g} (h : Keep s0 s) : Completes s0 (execLdcnt e g s) := by
  unfold Machine.execLdcnt
  split
  · exact Completes.ok h.closeWord.loadCounter.fallThrough
  · exact Completes.ok h

theorem Keep.execWait {e g} (h : Keep s0 s) : Completes s0 (execWait e g s) := by
  unfold Machine.execWait
  dsimp only
  split
  · exact Completes.ite (Completes.ok (Keep.ite (State.setEng_keep _ _ (State.at_keep _ h)) ((State.setEng_keep _ _
      (State.at_keep _ h)).waitCheckAt))) (Completes.ok h)
  · exact Completes.ok h

theorem Keep.execWaitCheck {e g} (h : Keep s0 s) : Completes s0 (execWaitCheck e g s) := by
  unfold Machine.execWaitCheck
  dsimp only
  split
  · exact Completes.ite (Completes.ok ((State.at_keep _ h).waitCheckAt)) (Completes.ok h)
  · exact Completes.ok h

theorem Keep.execResume {e g} (h : Keep s0 s) : Completes s0 (execResume e g s) := by
  unfold Machine.execResume
  split
  · exact Completes.ite (Completes.ok (State.updEng_keep _ _ h.closeWord)) (Completes.ok (State.updEng_keep _ _
      (State.useFree_keep h.closeWord)))
  · exact Completes.ok h

theorem Keep.execHalt {e g} (h : Keep s0 s) : Completes s0 (execHalt e g s) := by
  unfold Machine.execHalt
  split
  · exact Completes.ok h.closeWord.haltEngine
  · exact Completes.ok h

theorem Keep.execBadop {e g} (h : Keep s0 s) : Completes s0 (execBadop e g s) := by
  unfold Machine.execBadop
  split
  · exact Completes.ok (State.setFld_keep _ _ _ h.closeWord.haltEngine)
  · exact Completes.ok h

theorem Keep.dropPath {e lane keep} (h : Keep s0 s) : Keep s0 (s.dropPath e lane keep) :=
  (State.updCl_keep _ _ h).setDecoder

theorem Keep.takeBranch {e p} (h : Keep s0 s) : Keep s0 (s.takeBranch e p) :=
  (State.setFld_keep _ _ _ (State.setFld_keep _ _ _ ((State.updEng_keep _ _ h.cutPins).dropPath))).armLead

theorem Keep.leaveBranch {e p} (h : Keep s0 s) : Keep s0 (s.leaveBranch e p) :=
  State.setFld_keep _ _ _ ((State.updEng_keep _ _ h).dropPath)

theorem Keep.execBranchTakeEffect {e g} (h : Keep s0 s) : Completes s0 (execBranchTakeEffect e g s) := by
  unfold Machine.execBranchTakeEffect
  split
  · exact Completes.ite (Completes.ite (Completes.ok (Keep.ite ((State.useFree_keep (State.at_keep _ h)).takeBranch)
      ((State.useFree_keep (State.at_keep _ h)).leaveBranch))) (Completes.ite (Completes.ok ((((State.at_keep _
      h).leaveBranch).endRun).event)) (Completes.ok (Keep.ite ((State.at_keep _ h).takeBranch) ((State.at_keep _
      h).leaveBranch))))) (Completes.ok h)
  · exact Completes.ok h

theorem Keep.vReady {e g} (h : Keep s0 s) : KeptIn s0 id (s.vReady e g) := by
  unfold State.vReady
  refine KeptIn.ite KeptIn.none ?_
  split
  · exact KeptIn.ite (KeptIn.some h.closeWord) h.atOpen
  · exact h.atOpen

theorem Keep.enterPatch {e x} (h : Keep s0 s) : Keep s0 (s.enterPatch e x) :=
  State.updEng_keep _ _ h

theorem Keep.vExpand {e vop operand i act} (h : Keep s0 s) (hact : ∀ y0 t, Keep s0 t → Keep s0 (act y0 t)) : Keep s0 (s.vExpand
    e vop operand i act) := by
  unfold State.vExpand
  split
  · exact h.enterPatch
  · exact hact _ _ h

theorem Keep.vRun {e g finds vop act} (h : Keep s0 s) (hact : ∀ y0 t, Keep s0 t → Keep s0 (act y0 t)) : Keep s0 (s.vRun e g
    finds vop act) := by
  unfold State.vRun
  dsimp only
  split
  · exact h
  · next e02 =>
      split
      · exact Keep.ite ((State.setEng_keep _ _ (h.vReady _ e02)).vExpand hact) h
      · exact Keep.ite ((State.setFld_keep _ _ _ ((h.vReady _ e02).meetWord)).storeLost) (Keep.ite ((State.updEng_keep _ _
          (State.setFld_keep _ _ _ ((h.vReady _ e02).meetWord))).vExpand hact) h)

theorem Keep.execVopNop {e g finds} (h : Keep s0 s) : Completes s0 (execVopNop e g finds s) :=
  Completes.ok (h.vRun (fun _ _ h0 => h0))

theorem Keep.execVopStream {e g finds} (h : Keep s0 s) : Completes s0 (execVopStream e g finds s) :=
  Completes.ok (h.vRun (fun _ _ h0 => h0.openWord))

theorem Keep.execVopTset {e g finds} (h : Keep s0 s) : Completes s0 (execVopTset e g finds s) :=
  Completes.ok (h.vRun (fun _ _ h0 => (State.updEng_keep _ _ h0).sideFields))

theorem Keep.execVopSeek {e g finds} (h : Keep s0 s) : Completes s0 (execVopSeek e g finds s) :=
  Completes.ok (h.vRun (fun _ _ h0 => h0.sideFields))

theorem Keep.execVopLdcnt {e g finds} (h : Keep s0 s) : Completes s0 (execVopLdcnt e g finds s) :=
  Completes.ok (h.vRun (fun _ _ h0 => h0.loadCounter))

theorem Keep.execVopLoopb {e g finds} (h : Keep s0 s) : Completes s0 (execVopLoopb e g finds s) :=
  Completes.ok (h.vRun (fun _ _ h0 => State.updEng_keep _ _ h0))

theorem Keep.execVopCall {e g finds} (h : Keep s0 s) : Completes s0 (execVopCall e g finds s) :=
  Completes.ok (h.vRun (fun _ _ h0 => h0.pushCall))

theorem Keep.execVopRet {e g finds} (h : Keep s0 s) : Completes s0 (execVopRet e g finds s) :=
  Completes.ok (h.vRun (fun _ _ h0 => State.updEng_keep _ _ h0.popCall))

theorem Keep.execVopBrcond {e g finds} (h : Keep s0 s) : Completes s0 (execVopBrcond e g finds s) :=
  Completes.ok (h.vRun (fun _ _ h0 => Keep.ite h0 (Keep.ite (State.setFld_keep _ _ _ h0) h0.startBranch)))

theorem Keep.execVopWaitf {e g finds} (h : Keep s0 s) : Completes s0 (execVopWaitf e g finds s) :=
  Completes.ok (h.vRun (fun _ _ h0 => (State.setEng_keep _ _ h0).openWord))

theorem Keep.execVopSigf {e g finds} (h : Keep s0 s) : Completes s0 (execVopSigf e g finds s) :=
  Completes.ok (h.vRun (fun _ _ h0 => (State.updEng_keep _ _ h0).sideFields))

theorem Keep.execVopAct {e g finds} (h : Keep s0 s) : Completes s0 (execVopAct e g finds s) :=
  Completes.ok (h.vRun (fun _ _ h0 => h0.sideFields))

theorem Keep.execVopDict {e g finds} (h : Keep s0 s) : Completes s0 (execVopDict e g finds s) :=
  Completes.ok (h.vRun (fun _ _ h0 => h0.sideFields))

theorem Keep.execVopSubst {e g finds} (h : Keep s0 s) : Completes s0 (execVopSubst e g finds s) :=
  Completes.ok (h.vRun (fun _ _ h0 => State.updEng_keep _ _ h0))

theorem Keep.execVopHalt {e g finds} (h : Keep s0 s) : Completes s0 (execVopHalt e g finds s) :=
  Completes.ok (h.vRun (fun _ _ h0 => h0.haltEngine))

theorem Keep.execVopBad {e g finds} (h : Keep s0 s) : Completes s0 (execVopBad e g finds s) :=
  Completes.ok (h.vRun (fun _ _ h0 => State.setFld_keep _ _ _ h0))

/-! The operations of `Machine/Runs.lean`. -/

theorem Keep.endCode {e code} (h : Keep s0 s) : Keep s0 (s.endCode e code) :=
  State.setFld_keep _ _ _ h

theorem Keep.refuseStart {port e code} (h : Keep s0 s) : Keep s0 (s.refuseStart port e code) :=
  Keep.ite h.endCode.violation h.endCode

theorem Keep.measureOnly {e} (h : Keep s0 s) : Keep s0 (s.measureOnly e) :=
  Keep.foldl h fun _ _ h0 => State.updPin_keep _ _ h0

theorem Keep.joinRun {e id} (h : Keep s0 s) : Keep s0 (s.joinRun e id) :=
  State.setFld_keep _ _ _ ((State.updEng_keep _ _ h).measureOnly)

theorem Keep.newRun {flow} (h : Keep s0 s) : Keep s0 (s.newRun flow).2 :=
  h.withRunsNextRun

theorem Keep.leaveRun {e} (h : Keep s0 s) : Keep s0 (s.leaveRun e) :=
  State.setFld_keep _ _ _ (State.setFld_keep _ _ _ (State.setFld_keep _ _ _ (State.updEng_keep _ _ h)))

theorem Keep.refuseRun {r code} (h : Keep s0 s) : Keep s0 (s.refuseRun r code) := by
  unfold State.refuseRun
  split
  · exact State.updFlow_keep _ _ ((Keep.foldl (Keep.foldl h.releaseRun fun t1 x1 h1 => h1.endCode.leaveRun) fun t1 x1 h1 =>
      State.updCl_keep _ _ h1).withRuns)
  · exact (Keep.foldl (Keep.foldl h.releaseRun fun t1 x1 h1 => h1.endCode.leaveRun) fun t1 x1 h1 => State.updCl_keep _ _
      h1).withRuns

theorem Keep.refuseForming {port} (h : Keep s0 s) : Keep s0 (s.refuseForming port) := by
  unfold State.refuseForming
  split
  · exact Keep.foldl h.refuseRun fun _ _ h1 => h1.violation
  · exact h

theorem Keep.startNow {port e} (h : Keep s0 s) : Keep s0 (s.startNow port e) := by
  unfold State.startNow
  split
  · exact Keep.ite h.refuseStart h.refuseStart.refuseForming
  · refine Keep.joinRun (State.updRun_keep _ _ ?_)
    split
    · dsimp only
      exact h
    · exact h.newRun

theorem Keep.startCommand {port e value} (h : Keep s0 s) : Keep s0 (s.startCommand port e value) :=
  Keep.ite h.partnerWrite (Keep.ite h.partnerWrite.violation (Keep.ite (State.updEng_keep _ _ (State.setFld_keep _ _ _
    h.partnerWrite)) ((State.setFld_keep _ _ _ h.partnerWrite).startNow)))

theorem Keep.execEngStart {port e value} (h : Keep s0 s) : Completes s0 (execEngStart port e value s) :=
  Completes.ok (h.reach (fun _ h0 => h0.startCommand))

theorem Keep.admitRun {r x} (h : Keep s0 s) : Keep s0 (s.admitRun r x) := by
  unfold State.admitRun
  dsimp only
  split
  · exact (Keep.foldl h.releaseRun.refuseRun fun _ _ h1 => State.setFld_keep _ _ _ (State.setFld_keep _ _ _
      (State.setFld_keep _ _ _ h1))).event
  · exact State.updRun_keep _ _ h.releaseRun.reserveRun.keepStreams

theorem Keep.execRunStart {e finds} (h : Keep s0 s) : Completes s0 (execRunStart e finds s) := by
  unfold Machine.execRunStart
  split
  · exact Completes.ok h
  · refine Completes.ite (Completes.ok h) ?_
    split
    · exact Completes.ok h.refuseRun.event
    · split
      · next e22 =>
          exact Completes.ok ((h.admissionReads _ e22).admitRun)
      · exact Completes.ok h

theorem Keep.startEngine {e g} (h : Keep s0 s) : Keep s0 (s.startEngine e g) :=
  State.updEng_keep _ _ h

theorem Keep.startCluster {r g c} (h : Keep s0 s) : Keep s0 (s.startCluster r g c) :=
  ((State.updCl_keep _ _ (State.setReg_keep _ _ (State.setReg_keep _ _ (State.setReg_keep _ _ h)))).scribeStart).armLead

theorem Keep.execRunStartGrain {e g} (h : Keep s0 s) : Completes s0 (execRunStartGrain e g s) := by
  unfold Machine.execRunStartGrain
  split
  · exact Completes.ok h
  · exact Completes.ite (Completes.ok (Keep.foldl (Keep.foldl (State.updRun_keep _ _ (State.at_keep _ h)) fun t1 x1 h1 =>
      h1.startEngine) fun t1 x1 h1 => h1.startCluster)) (Completes.ok h)

theorem Keep.forceEffect {c b a old w} (h : Keep s0 s) : Keep s0 (s.forceEffect c b a old w) := by
  unfold State.forceEffect
  split
  · exact h
  · exact Keep.ite (Keep.ite h.setCode (Keep.ite h.setCode h)) (Keep.ite (Keep.ite (State.setFld_keep _ _ _ h) (Keep.ite
      (State.setFld_keep _ _ _ h) (Keep.ite (State.updPin_keep _ _ h) h))) (Keep.ite ((Keep.ite h.updAdc h).adcDemand)
      (Keep.ite (State.updPin_keep _ _ h) (Keep.ite (Keep.foldl h fun _ _ h1 => Keep.ite (State.setEng_keep _ _ h1) h1)
      h))))

theorem Keep.beginShutdown {c b m} (h : Keep s0 s) : Keep s0 (s.beginShutdown c b m) := by
  unfold State.beginShutdown
  split
  · exact Keep.foldl h fun _ _ h1 => h1.endWave
  · exact h.abortDig.abortDig
  · exact ((Keep.ite h.adcMissed h).updAdc).adcPending
  · exact h

theorem Keep.stepMode {c b m} (h : Keep s0 s) : Keep s0 (s.stepMode c b m) :=
  Keep.ite (Keep.ite h (Keep.ite (State.setFld_keep _ _ _ h) (State.setFld_keep _ _ _ h))) (Keep.ite ((State.setFld_keep _
    _ _ (State.setFld_keep _ _ _ h)).beginShutdown) (State.setFld_keep _ _ _ h))

theorem Keep.stepModes {c b} (h : Keep s0 s) : Keep s0 (s.stepModes c b) :=
  Keep.foldl h fun _ _ h0 => h0.stepMode

theorem Keep.endPins {e g} (h : Keep s0 s) : Keep s0 (s.endPins e g) :=
  Keep.foldl h.cutPins fun _ _ h0 => Keep.ite h0.flushEdge.stopPlayer.holdPin (State.updPin_keep _ _
    h0.flushEdge.stopPlayer)

theorem Keep.endCluster {r code g c} (h : Keep s0 s) : Keep s0 (s.endCluster r code g c) := by
  unfold State.endCluster
  exact State.updCl_keep _ _ ((Keep.foldl h fun _ _ h0 => h0.endPins).scribeEnd)

theorem Keep.finishRun {r code g} (h : Keep s0 s) : Keep s0 (s.finishRun r code g) :=
  ((Keep.foldl (Keep.foldl (Keep.foldl (Keep.foldl (State.at_keep _ h) fun _ _ h0 => h0.endCluster) fun _ _ h0 =>
    Keep.foldl h0 fun _ _ h1 => h1.showContact) fun _ _ h0 => h0.endCode.leaveRun) fun _ _ h0 =>
    h0.armLead).releaseRun).withRuns

theorem Keep.execRunEnd {e g} (h : Keep s0 s) : Completes s0 (execRunEnd e g s) := by
  unfold Machine.execRunEnd
  split
  · exact Completes.ok h
  · split
    · split
      · exact Completes.ok h.refuseRun
      · exact Completes.ok h
    · split
      · exact Completes.ok h.finishRun
      · exact Completes.ok h

theorem Keep.recordWait {e} (h : Keep s0 s) : Keep s0 (s.recordWait e) :=
  State.setFld_keep _ _ _ (State.setFld_keep _ _ _ (State.setFld_keep _ _ _ (Keep.ite h (State.useFree_keep h))))

theorem Keep.execDeadlock {e g} (h : Keep s0 s) : Completes s0 (execDeadlock e g s) := by
  unfold Machine.execDeadlock
  split
  · exact Completes.ok h
  · exact Completes.ite (Completes.ok (((Keep.foldl (State.at_keep _ h) fun _ _ h1 => h1.recordWait).endRun).event))
      (Completes.ok h)

/-! The operations of `Machine/Stores.lean`. -/

theorem Keep.putCsData {c w} (h : Keep s0 s) : Keep s0 (s.putCsData c w) :=
  Keep.foldl h fun _ _ h0 => State.setReg_keep _ _ h0

theorem Keep.csRefuse {port c inst} (h : Keep s0 s) : Keep s0 (s.csRefuse port c inst) :=
  (State.setFld_keep _ _ _ h).violation

theorem Keep.csReadNow {c v finds} (h : Keep s0 s) : Keep s0 (s.csReadNow c v finds) :=
  Keep.ite h.putCsData (Keep.ite h.meetWord.putCsData h.meetWord.putCsData)

theorem Keep.releaseStart {e} (h : Keep s0 s) : Keep s0 (s.releaseStart e) := by
  unfold State.releaseStart
  split
  · exact Keep.ite h ((State.updEng_keep _ _ h).startNow)
  · exact h

theorem Keep.csWriteNow {port c v} (h : Keep s0 s) : Keep s0 (s.csWriteNow port c v) :=
  Keep.ite h.csRefuse (Keep.foldl (State.setStoreHeld_keep _ _ (State.setStoreBad_keep _ _ (State.setStoreWord_keep _ _
    h))) fun _ _ h0 => h0.releaseStart)

theorem Keep.execCsRead {port c value finds} (h : Keep s0 s) : Completes s0 (execCsRead port c value finds s) :=
  Completes.ok (h.reach (fun _ h0 => Keep.ite h0.csReadNow h0))

theorem Keep.execCsWrite {port c value} (h : Keep s0 s) : Completes s0 (execCsWrite port c value s) :=
  Completes.ok (h.reach (fun _ h0 => Keep.ite h0.csWriteNow h0))

theorem Keep.execCsStoreRefused {port c value} (h : Keep s0 s) : Completes s0 (execCsStoreRefused port c value s) :=
  Completes.ok (h.reach (fun _ h0 => Keep.ite h0.csRefuse h0))

theorem Keep.execEngPmWrite {port c n value} (h : Keep s0 s) : Completes s0 (execEngPmWrite port c n value s) :=
  Completes.ok (h.reach (fun _ h0 => Keep.ite h0.violation h0.partnerWrite))

theorem Keep.execHbmShareWrite {port r value be} (h : Keep s0 s) : Completes s0 (execHbmShareWrite port r value be s) :=
  Completes.ok (h.reach (fun _ h0 => Keep.ite h0.violation h0.partnerWrite))

theorem Keep.execLinkHeartbeat {r die g} (h : Keep s0 s) : Completes s0 (execLinkHeartbeat r die g s) :=
  Completes.ok (State.send_keep _ (State.updRg_keep _ _ (State.at_keep _ h)))

theorem Keep.safeFrom {r g} (h : Keep s0 s) : Keep s0 (s.safeFrom r g) :=
  State.updRg_keep _ _ h

theorem Keep.execLinkSilent {r die g} (h : Keep s0 s) : Completes s0 (execLinkSilent r die g s) :=
  Completes.ite (Completes.ok ((State.updRg_keep _ _ (State.at_keep _ h)).safeFrom)) (Completes.ok h)

theorem Keep.execSafeStateEntry {r g} (h : Keep s0 s) : Completes s0 (execSafeStateEntry r g s) := by
  unfold Machine.execSafeStateEntry
  split
  · exact Completes.ite (Completes.ok (Keep.foldl (State.updRg_keep _ _ (State.at_keep _ h)) fun _ _ h1 =>
      h1.safeHold.showContact)) (Completes.ok h)
  · exact Completes.ok h

theorem Keep.endRunsIf {code g test} (h : Keep s0 s) : Keep s0 (s.endRunsIf code g test) :=
  Keep.foldl h fun _ _ h0 => h0.endRun

theorem Keep.fence {d} (h : Keep s0 s) : Keep s0 (s.fence d) :=
  Keep.ite h (((Keep.foldl h fun _ _ h0 => (State.updRg_keep _ _ h0).safeFrom).endRunsIf).event)

theorem Keep.execSliceDieFence {d} (h : Keep s0 s) : Completes s0 (execSliceDieFence d s) :=
  Completes.ok h.fence

/-! The operations of `Machine/Reference.lean`. -/

theorem Keep.packageReset (h : Keep s0 s) : Keep s0 s.packageReset :=
  Keep.foldl (h.same rfl fun c => { reset_canonical with flash := c.flash }) fun _ _ ht => State.updRg_keep _ _ ht

theorem Keep.loadGt {new} (h : Keep s0 s) : Keep s0 (s.loadGt new) :=
  ⟨h.queue, fun c =>
    { h.canonical c with
      flagSets := rfl
      pins := twf_tmap _ _ s.pins
      clusters := twf_tmap _ _ s.clusters
      digs := twf_tmap _ _ s.digs
      regions := twf_tmap _ _ s.regions
      flows := twf_tmap (fun _ => ({} : FlowSt)) (fun x => { x with waiting := x.waiting.rebase (moved s.gt new) }) s.flows }⟩

theorem Keep.holdAll (h : Keep s0 s) : Keep s0 (s.holdAll) :=
  Keep.foldl h fun _ _ h0 => h0.safeHold

theorem Keep.refSuspect {x quantity cause} (h : Keep s0 s) : Keep s0 (s.refSuspect x quantity cause) :=
  h.event

theorem Keep.endHoldover (h : Keep s0 s) : Keep s0 (s.endHoldover) :=
  State.updHub_keep _ (State.setBit_keep _ _ _ h)

theorem Keep.refSwitch (h : Keep s0 s) : Keep s0 (s.refSwitch) :=
  (Keep.ite (State.updHub_keep _ (State.setBit_keep _ _ _ h.endHoldover)) (State.setBit_keep _ _ _ (State.updHub_keep _
    (State.setBit_keep _ _ _ h.endHoldover)))).holdAll

theorem Keep.bootCalibrate (h : Keep s0 s) : Keep s0 (s.bootCalibrate) := by
  unfold State.bootCalibrate
  exact State.updBoot_keep _ (Keep.foldl h fun _ _ h0 => State.setBit_keep _ _ _ (State.setBit_keep _ _ _
    ((State.updCl_keep _ _ h0).modReqNow)))

theorem Keep.firstLock (h : Keep s0 s) : Keep s0 (s.firstLock) :=
  Keep.ite h (State.updHub_keep _ h.loadGt)

theorem Keep.failoverDone (h : Keep s0 s) : Keep s0 (s.failoverDone) := by
  unfold State.failoverDone
  exact State.updHub_keep _ (State.setBit_keep _ _ _ h)

theorem Keep.execTimebaseLock {g} (h : Keep s0 s) : Completes s0 (execTimebaseLock g s) :=
  Completes.ite (Completes.ok (Keep.ite ((Keep.ite (State.setBit_keep _ _ _ (State.setBit_keep _ _ _ (Keep.ite
    ((State.setBit_keep _ _ _ ((State.at_keep _ h).firstLock)).bootCalibrate) (State.setBit_keep _ _ _ ((State.at_keep _
    h).firstLock))))) (Keep.ite ((State.setBit_keep _ _ _ ((State.at_keep _ h).firstLock)).bootCalibrate)
    (State.setBit_keep _ _ _ ((State.at_keep _ h).firstLock)))).failoverDone) (Keep.ite (State.setBit_keep _ _ _
    (State.setBit_keep _ _ _ (Keep.ite ((State.setBit_keep _ _ _ ((State.at_keep _ h).firstLock)).bootCalibrate)
    (State.setBit_keep _ _ _ ((State.at_keep _ h).firstLock))))) (Keep.ite ((State.setBit_keep _ _ _ ((State.at_keep _
    h).firstLock)).bootCalibrate) (State.setBit_keep _ _ _ ((State.at_keep _ h).firstLock)))))) (Completes.ok h)

theorem Keep.execHoldoverEntry {g} (h : Keep s0 s) : Completes s0 (execHoldoverEntry g s) :=
  Completes.ite (Completes.ok ((State.updHub_keep _ (State.setBit_keep _ _ _ (State.at_keep _ h))).refSuspect))
    (Completes.ok h)

theorem Keep.execRefReturn {g phaseKf} (h : Keep s0 s) : Completes s0 (execRefReturn g phaseKf s) :=
  Completes.ite (Completes.ite (Completes.ok ((State.at_keep _ h).endHoldover)) (Completes.ok (State.updHub_keep _
    (State.at_keep _ h)))) (Completes.ok h)

theorem Keep.alignDone (h : Keep s0 s) : Keep s0 (s.alignDone) := by
  unfold State.alignDone
  exact State.updHub_keep _ (State.setBit_keep _ _ _ h)

theorem Keep.execPhaseSlewStep {g} (h : Keep s0 s) : Completes s0 (execPhaseSlewStep g s) :=
  Completes.ite (Completes.ite (Completes.ok (State.updHub_keep _ (State.at_keep _ h))) (Completes.ok (Keep.ite
    ((State.updHub_keep _ (State.updHub_keep _ (State.at_keep _ h))).endHoldover) (State.updHub_keep _ (State.updHub_keep
    _ (State.at_keep _ h)))))) (Completes.ok h)

theorem Keep.execHoldoverTimeout {g} (h : Keep s0 s) : Completes s0 (execHoldoverTimeout g s) :=
  Completes.ite (Completes.ok (((State.updHub_keep _ (State.at_keep _ h)).holdAll).endRunsIf)) (Completes.ok h)

theorem Keep.refCtrl {port value be} (h : Keep s0 s) : Keep s0 (s.refCtrl port value be) :=
  Keep.ite h (Keep.ite h.violation h.partnerWrite.refSwitch)

theorem Keep.execRefCtrlWrite {port value be} (h : Keep s0 s) : Completes s0 (execRefCtrlWrite port value be s) :=
  Completes.ok (h.reach (fun _ h0 => h0.refCtrl))

theorem Keep.execVcoreMeasure {g replicas} (h : Keep s0 s) : Completes s0 (execVcoreMeasure g replicas s) :=
  Completes.ite (Completes.ok (State.setFld_keep _ _ _ (State.setFld_keep _ _ _ (State.at_keep _ h)))) (Completes.ok h)

theorem Keep.execRailUndervoltage {_rail} (h : Keep s0 s) : Completes s0 (execRailUndervoltage _rail s) :=
  Completes.ok h.packageReset

theorem Keep.execFrontEndRailFault {_rail} (h : Keep s0 s) : Completes s0 (execFrontEndRailFault _rail s) :=
  Completes.ok (Keep.foldl h fun _ _ h0 => h0.fence)

theorem Keep.execHbmRailFault {r} (h : Keep s0 s) : Completes s0 (execHbmRailFault r s) :=
  Completes.ok h.fence

/-! The operations of `Machine/Gauge.lean`. -/

theorem Keep.updGauge {c f} (h : Keep s0 s) : Keep s0 (s.updGauge c f) :=
  State.updCl_keep _ _ h

theorem Keep.calRequest {c kind} (h : Keep s0 s) : Keep s0 (s.calRequest c kind) :=
  State.setBit_keep _ _ _ h

theorem Keep.execCalRequestTiming {port c b} (h : Keep s0 s) : Completes s0 (execCalRequestTiming port c b s) :=
  Completes.ok (h.reach (fun _ h0 => h0.atCluster.calRequest))

theorem Keep.execCalRequestDc {port c b} (h : Keep s0 s) : Completes s0 (execCalRequestDc port c b s) :=
  Completes.ok (h.reach (fun _ h0 => h0.atCluster.calRequest))

theorem Keep.flowCalFailed {c} (h : Keep s0 s) : Keep s0 (s.flowCalFailed c) :=
  Keep.foldl h fun _ _ h0 => State.updFlow_keep _ _ h0

theorem Keep.precStop {r g} (h : Keep s0 s) : Keep s0 (s.precStop r g) :=
  h.precDue.updPrec

theorem Keep.calTakesAdc {c} (h : Keep s0 s) : Keep s0 (s.calTakesAdc c) := by
  unfold State.calTakesAdc
  split
  · exact Keep.ite h.updAdc h.updAdc.adcMissed
  · exact h

theorem Keep.latchVsel (h : Keep s0 s) : Keep s0 (s.latchVsel) :=
  State.updHub_keep _ h

theorem Keep.showCluster {s1 c g} (h : Keep s0 s) : Keep s0 (s.showCluster s1 c g) :=
  Keep.foldl h fun _ _ h0 => h0.showContact

theorem Keep.calBegin {c kind g} (h : Keep s0 s) : Keep s0 (s.calBegin c kind g) :=
  Keep.ite (((Keep.foldl ((State.setFld_keep _ _ _ (State.setPair_keep _ _ _ (State.setFld_keep _ _ _ (State.setBit_keep _
    _ _ (State.setBit_keep _ _ _ (Keep.ite h.calTakesAdc.latchVsel h.calTakesAdc)))))).updGauge) fun _ _ h0 =>
    h0.holdPin).showCluster).precStop) ((Keep.foldl ((State.setFld_keep _ _ _ (State.setPair_keep _ _ _ (State.setFld_keep
    _ _ _ (State.setBit_keep _ _ _ (State.setBit_keep _ _ _ (Keep.ite h.calTakesAdc.latchVsel
    h.calTakesAdc)))))).updGauge) fun _ _ h0 => h0.holdPin).showCluster)

theorem Keep.execCalStart {c kind g} (h : Keep s0 s) : Completes s0 (execCalStart c kind g s) :=
  Completes.ite (Completes.ok (((State.at_keep _ h).adcCatchUp).calBegin)) (Completes.ok h)

theorem Keep.execCalPass2 {c g} (h : Keep s0 s) : Completes s0 (execCalPass2 c g s) := by
  unfold Machine.execCalPass2
  split
  · exact Completes.ite (Completes.ok ((State.at_keep _ h).updGauge)) (Completes.ok h)
  · exact Completes.ok h

theorem Keep.calQuality {c kind res units} (h : Keep s0 s) : Keep s0 (s.calQuality c kind res units) := by
  unfold State.calQuality
  refine Keep.foldl h fun _ _ h0 => ?_
  split
  · exact State.setFld_keep _ _ _ h0
  · exact State.setFld_keep _ _ _ (State.setFld_keep _ _ _ h0)

theorem Keep.svcCal {c kind fail g} (h : Keep s0 s) : Keep s0 (s.svcCal c kind fail g) :=
  State.updCl_keep _ _ h

theorem Keep.calReject {c kind u g} (h : Keep s0 s) : Keep s0 (s.calReject c kind u g) :=
  (((State.countSat_keep _ _ _ (State.setFld_keep _ _ _ (State.setFld_keep _ _ _ (State.setBit_keep _ _ _
    h)))).event).svcCal).flowCalFailed

theorem Keep.calDiscard {c kind g} (h : Keep s0 s) : Keep s0 (s.calDiscard c kind g) :=
  ((State.countSat_keep _ _ _ h).svcCal).flowCalFailed

theorem Keep.calSchedule {c g} (h : Keep s0 s) : Keep s0 (s.calSchedule c g) :=
  h.updGauge

theorem Keep.calAccept {c kind res units g} (h : Keep s0 s) : Keep s0 (s.calAccept c kind res units g) := by
  unfold State.calAccept
  refine Keep.calSchedule (Keep.svcCal (Keep.calQuality ?_))
  split
  · exact (State.setBit_keep _ _ _ (State.countSat_keep _ _ _ h)).updGauge
  · exact State.setFld_keep _ _ _ ((State.setBit_keep _ _ _ (State.countSat_keep _ _ _ h)).updGauge)

theorem Keep.calOver {c kind g} (h : Keep s0 s) : Keep s0 (s.calOver c kind g) :=
  Keep.ite (((((State.setBit_keep _ _ _ h).updGauge).showCluster).reportFill).precRestart) ((((State.setBit_keep _ _ _
    h).updGauge).showCluster).reportFill)

theorem Keep.calJudge {c kind res units g} (h : Keep s0 s) : Keep s0 (s.calJudge c kind res units g) := by
  unfold State.calJudge
  refine Keep.ite h.calDiscard ?_
  split
  · exact h.calReject
  · exact h.calAccept

theorem Keep.execCalEnd {c g res} (h : Keep s0 s) : Completes s0 (execCalEnd c g res s) := by
  unfold Machine.execCalEnd
  split
  · exact Completes.ite (Completes.ok (((State.setFld_keep _ _ _ ((State.at_keep _ h).adcCatchUp)).calOver).calJudge))
      (Completes.ok h)
  · exact Completes.ok h

theorem Keep.calUnverified {c kind} (h : Keep s0 s) : Keep s0 (s.calUnverified c kind) :=
  Keep.ite (State.setBit_keep _ _ _ h) ((State.setBit_keep _ _ _ h).event)

theorem Keep.calPut {c kind values} (h : Keep s0 s) : Keep s0 (s.calPut c kind values) := by
  unfold State.calPut
  split
  · exact Keep.foldl h fun _ _ h1 => h1.shimSet
  · exact h.updGauge

theorem Keep.calApplyKind {c kind} (h : Keep s0 s) : Keep s0 (s.calApplyKind c kind) := by
  unfold State.calApplyKind
  dsimp only
  split
  · exact h
  · exact Keep.ite ((State.setBit_keep _ _ _ ((State.setBit_keep _ _ _ h.calPut).updGauge)).updGauge) (((State.setBit_keep _
      _ _ h.calPut).updGauge).calUnverified)

theorem Keep.calFallback {c kind} (h : Keep s0 s) : Keep s0 (s.calFallback c kind) := by
  unfold State.calFallback
  refine Keep.ite ?_ h
  split
  · split
    · exact h.calPut
    · exact h
  · split
    · exact h.updGauge
    · exact h

theorem Keep.calApplyDue {c b} (h : Keep s0 s) : Keep s0 (s.calApplyDue c b) :=
  Keep.ite h.calApplyKind.calApplyKind.updGauge h

theorem Keep.execCalApply {c b} (h : Keep s0 s) : Completes s0 (execCalApply c b s) :=
  Completes.ite (Completes.ok ((((State.at_keep _ h).calApplyDue).calFallback).calFallback)) (Completes.ok h)

theorem Keep.tempCluster {c code} (h : Keep s0 s) : Keep s0 (s.tempCluster c code) :=
  Keep.foldl (State.setFld_keep _ _ _ h) fun _ _ h0 => Keep.ite h0.calRequest h0

theorem Keep.thermalTrip (h : Keep s0 s) : Keep s0 (s.thermalTrip) :=
  Keep.foldl (Keep.ite (State.setBit_keep _ _ _ h) (State.updHub_keep _ (State.send_keep _ (State.setBit_keep _ _ _ h))))
    fun _ _ h0 => h0.fence

theorem Keep.execTempRead {g codes} (h : Keep s0 s) : Completes s0 (execTempRead g codes s) :=
  Completes.ite (Completes.ok (Keep.ite ((State.setFld_keep _ _ _ (State.setFld_keep _ _ _ (Keep.foldl (State.at_keep _ h)
    fun _ _ h0 => h0.tempCluster))).thermalTrip) (State.setFld_keep _ _ _ (State.setFld_keep _ _ _ (Keep.foldl
    (State.at_keep _ h) fun _ _ h0 => h0.tempCluster))))) (Completes.ok h)

theorem Keep.pushHist {q x v} (h : Keep s0 s) : Keep s0 (s.pushHist q x v) :=
  State.setReg_keep _ _ (Keep.foldl h fun _ _ h0 => State.setReg_keep _ _ h0)

theorem Keep.refFailed {q} (h : Keep s0 s) : Keep s0 (s.refFailed q) :=
  Keep.ite (Keep.ite (State.updHub_keep _ (State.setBit_keep _ _ _ ((State.setBit_keep _ _ _ h).refSuspect)))
    (State.setBit_keep _ _ _ ((State.setBit_keep _ _ _ h).refSuspect))) (Keep.ite (Keep.foldl ((State.setBit_keep _ _ _
    ((State.setFld_keep _ _ _ ((State.setBit_keep _ _ _ h).refSuspect)).latchVsel)).refSuspect) fun _ _ h0 =>
    h0.calRequest) (State.setBit_keep _ _ _ ((State.setBit_keep _ _ _ h).refSuspect)))

theorem Keep.refGood {q fill} (h : Keep s0 s) : Keep s0 (s.refGood q fill) :=
  Keep.ite ((State.setBit_keep _ _ _ (Keep.ite (State.setBit_keep _ _ _ h) (State.setBit_keep _ _ _ (State.setBit_keep _ _
    _ h)))).refSuspect) (Keep.ite (State.setBit_keep _ _ _ h) (State.setBit_keep _ _ _ (State.setBit_keep _ _ _ h)))

theorem Keep.refCheck {q fill} (h : Keep s0 s) : Keep s0 (s.refCheck q fill) :=
  Keep.ite h.refGood h.refFailed

theorem Keep.execDriftMeasure {g refA refB vrefA vrefB} (h : Keep s0 s) : Completes s0 (execDriftMeasure g refA refB vrefA vrefB
    s) :=
  Completes.ite (Completes.ok ((Keep.ite (State.setFld_keep _ _ _ (State.updHub_keep _ (((Keep.ite (State.at_keep _ h)
    (State.updHub_keep _ (((State.at_keep _ h).pushHist).pushHist))).pushHist).pushHist))) ((State.setFld_keep _ _ _
    (State.updHub_keep _ (((Keep.ite (State.at_keep _ h) (State.updHub_keep _ (((State.at_keep _
    h).pushHist).pushHist))).pushHist).pushHist))).refCheck)).refCheck)) (Completes.ok h)

theorem Keep.execTimingFailover {g othersIdle} (h : Keep s0 s) : Completes s0 (execTimingFailover g othersIdle s) :=
  Completes.ite (Completes.ok (Keep.ite (State.send_keep _ (State.updHub_keep _ (Keep.foldl ((State.setBit_keep _ _ _
    ((State.setFld_keep _ _ _ (State.at_keep _ h)).refSwitch)).refSuspect) fun _ _ h0 => h0.calRequest)))
    (State.updHub_keep _ (Keep.foldl ((State.setBit_keep _ _ _ ((State.setFld_keep _ _ _ (State.at_keep _
    h)).refSwitch)).refSuspect) fun _ _ h0 => h0.calRequest)))) (Completes.ok h)

/-! The operations of `Machine/Jig.lean`. -/

theorem Keep.clearStore {a n} (h : Keep s0 s) : Keep s0 (s.clearStore a n) :=
  Keep.same h rfl fun c =>
    { c with stores := twf_filter _ _ _ c.stores, storePoison := twf_filter _ _ _ c.storePoison, storeWritten := twf_filter _ _ _ c.storeWritten }

theorem Keep.loadStore {b n k a cap} (h : Keep s0 s) : Keep s0 (s.loadStore b n k a cap) :=
  Keep.foldl h.clearStore fun _ _ h0 => State.setStoreWord_keep _ _ h0

theorem Keep.loadCstore {b c} (h : Keep s0 s) : Keep s0 (s.loadCstore b c) :=
  State.updCl_keep _ _ (Keep.foldl h fun _ _ h0 => h0.loadStore)

theorem Keep.releaseStarts {c} (h : Keep s0 s) : Keep s0 (s.releaseStarts c) :=
  Keep.foldl h fun _ _ h0 => h0.releaseStart

theorem Keep.loadPatch {b c} (h : Keep s0 s) : Keep s0 (s.loadPatch b c) := by
  unfold State.loadPatch
  exact Keep.ite h.loadStore (Keep.foldl h.loadStore fun _ _ h0 => h0.partnerWrite)

/-! The operations of `Machine/Scrub.lean`. -/

theorem Keep.walkOn {w} (h : Keep s0 s) : Keep s0 (s.walkOn w) := by
  unfold State.walkOn
  split
  · exact State.updRg_keep _ _ h
  · exact State.updRg_keep _ _ h
  · exact State.updHub_keep _ h

theorem Keep.cacheScrub {f} (h : Keep s0 s) : Keep s0 (s.cacheScrub f) := by
  unfold State.cacheScrub
  split
  · exact h
  · split
    · exact h
    · exact h.corrected
    · exact Keep.ite ((State.useFree_keep h).reportError) ((State.useFree_keep h).uncorrectable)

theorem Keep.execScrubRead {w finds} (h : Keep s0 s) : Completes s0 (execScrubRead w finds s) := by
  unfold Machine.execScrubRead
  refine Completes.ite (Completes.ok (Keep.walkOn ?_)) (Completes.ok h)
  split
  · exact h.eccRead
  · exact h.cacheScrub

theorem Keep.reloadFailed {a} (h : Keep s0 s) : Keep s0 (s.reloadFailed a) := by
  unfold State.reloadFailed
  dsimp only
  split
  · exact Keep.ite (State.setFld_keep _ _ _ h) h
  · exact h

theorem Keep.execStoreReload {storeAddr flashError} (h : Keep s0 s) : Completes s0 (execStoreReload storeAddr flashError s) :=
  Completes.ite (Completes.ok (Keep.foldl (Keep.ite ((State.setStoreHeld_keep _ _ h).reloadFailed) (State.setStoreBad_keep
    _ _ (State.setStoreWord_keep _ _ h))) fun _ _ h0 => h0.releaseStart)) (Completes.ok h)

theorem Keep.setTester {t x} (h : Keep s0 s) : Keep s0 (s.setTester t x) := by
  unfold State.setTester
  split
  · exact State.updRg_keep _ _ h
  · exact State.updHub_keep _ h

theorem Keep.execBlockTest {t} (h : Keep s0 s) : Completes s0 (execBlockTest t s) :=
  Completes.ite (Completes.ite (Completes.ok h.setTester) (Completes.ok (State.setBit_keep _ _ _ h.setTester)))
    (Completes.ok h)

theorem Keep.countSpare {array inst bank} (h : Keep s0 s) : Keep s0 (s.countSpare array inst bank) :=
  Keep.ite (State.setFld_keep _ _ _ h) h

theorem Keep.mapRow {array inst bank row spare} (h : Keep s0 s) : Keep s0 (s.mapRow array inst bank row spare) :=
  State.updBoot_keep _ h.countSpare

theorem Keep.repairRow {x nospare bank} (h : Keep s0 s) (hnospare : ∀ t, Keep s0 t → Keep s0 (nospare t)) : Keep s0 (s.repairRow
    x nospare bank) := by
  unfold State.repairRow
  split
  · exact (hnospare _ (Keep.ite (State.setBit_keep _ _ _ h) h)).errorLog
  · exact State.updBoot_keep _ ((State.useFree_keep h).mapRow)

theorem Keep.execBlockTestDone {t faultyRows} (h : Keep s0 s) : Completes s0 (execBlockTestDone t faultyRows s) := by
  unfold Machine.execBlockTestDone
  split
  · exact Completes.ok (Keep.foldl (State.countSat_keep _ _ _ (State.setBit_keep _ _ _ h.setTester)) fun _ _ h1 =>
      h1.repairRow (fun _ h2 => State.setBit_keep _ _ _ h2))
  · exact Completes.ok h

theorem Keep.pprCommand {port r value} (h : Keep s0 s) : Keep s0 (s.pprCommand port r value) :=
  Keep.ite h (Keep.ite (State.updRg_keep _ _ (State.setBit_keep _ _ _ h)) ((State.setBit_keep _ _ _ h).violation))

theorem Keep.execPprGo {port r value} (h : Keep s0 s) : Completes s0 (execPprGo port r value s) :=
  Completes.ok (h.reach (fun _ h0 => h0.pprCommand))

theorem Keep.execPprDone {r resourceLeft} (h : Keep s0 s) : Completes s0 (execPprDone r resourceLeft s) := by
  unfold Machine.execPprDone
  split
  · exact Completes.ok (State.setBit_keep _ _ _ (State.updRg_keep _ _ (State.setBit_keep _ _ _ h)))
  · exact Completes.ok h

theorem Keep.patWritten {r n} (h : Keep s0 s) : Keep s0 (s.patWritten r n) :=
  State.setBit_keep _ _ _ (State.setBit_keep _ _ _ h)

theorem Keep.execMemPatWrite {port r n w value be} (h : Keep s0 s) : Completes s0 (execMemPatWrite port r n w value be s) :=
  Completes.ok (h.reach (fun _ h0 => h0.partnerWrite.patWritten))

theorem Keep.beginWipe (h : Keep s0 s) : Keep s0 (s.beginWipe) :=
  Keep.ite h (Keep.same (State.setBit_keep _ _ _ h) rfl fun c =>
    { c with mem := twf_filter _ _ _ c.mem, poison := twf_filter _ _ _ c.poison })

theorem Keep.execWipe {port} (h : Keep s0 s) : Completes s0 (execWipe port s) :=
  Completes.ok (h.reach (fun _ h0 => h0.beginWipe))

theorem Keep.execWipeEnd (h : Keep s0 s) : Completes s0 (execWipeEnd s) :=
  Completes.ite (Completes.ok (State.countSat_keep _ _ _ (State.setBit_keep _ _ _ h))) (Completes.ok h)

theorem Keep.execTamper (h : Keep s0 s) : Completes s0 (execTamper s) :=
  Completes.ok ((State.setBit_keep _ _ _ h.withTamperN.beginWipe).violation)

theorem Keep.execTamperNHigh (h : Keep s0 s) : Completes s0 (execTamperNHigh s) :=
  Completes.ok h.withTamperN

/-! The operations of `Machine/RingCommands.lean`. -/

theorem Keep.tailWrite {n tail} (h : Keep s0 s) : Keep s0 (s.tailWrite n tail) :=
  Keep.ite ((State.updRing_keep _ _ (State.setFld_keep _ _ _ h)).raise) (State.updRing_keep _ _ (State.setFld_keep _ _ _
    h))

theorem Keep.execRingTailWrite {port ring tail} (h : Keep s0 s) : Completes s0 (execRingTailWrite port ring tail s) :=
  Completes.ok (h.reach (fun _ h0 => h0.tailWrite))

theorem Keep.execDoorbell {port value} (h : Keep s0 s) : Completes s0 (execDoorbell port value s) :=
  Completes.ok (h.reach (fun _ h0 => h0.reach (fun _ h1 => h1.tailWrite)))

theorem Keep.restartRing {n} (h : Keep s0 s) : Keep s0 (s.restartRing n) :=
  State.updRing_keep _ _ (State.setBit_keep _ _ _ h)

theorem Keep.ringEnable {n} (h : Keep s0 s) : Keep s0 (s.ringEnable n) :=
  Keep.ite h.restartRing h

theorem Keep.execRingRestart {port ring} (h : Keep s0 s) : Completes s0 (execRingRestart port ring s) :=
  Completes.ok (h.reach (fun _ h0 => (State.setBit_keep _ _ _ h0).ringEnable))

theorem Keep.execRingAlloc {port r} (h : Keep s0 s) : Completes s0 (execRingAlloc port r s) :=
  Completes.ok (h.readReach h.allocRing)

theorem Keep.freeRing {port r n} (h : Keep s0 s) : Keep s0 (s.freeRing port r n) :=
  Keep.ite (State.setBit_keep _ _ _ (State.setBit_keep _ _ _ h)) h.violation

theorem Keep.execRingFree {port r value} (h : Keep s0 s) : Completes s0 (execRingFree port r value s) :=
  Completes.ok (h.reach (fun _ h0 => h0.freeRing))

theorem Keep.execPoolTake {port r} (h : Keep s0 s) : Completes s0 (execPoolTake port r s) :=
  Completes.ok (h.readReach h.poolRead)

theorem Keep.retryBuffers {r} (h : Keep s0 s) : Keep s0 (s.retryBuffers r) := by
  unfold State.retryBuffers
  exact State.updRg_keep _ _ (Keep.foldl h fun _ _ h0 => State.setBit_keep _ _ _ (State.setChan_keep _ _ h0))

theorem Keep.poolReturn {port r k} (h : Keep s0 s) : Keep s0 (s.poolReturn port r k) :=
  Keep.ite h.violation ((Keep.ite (Keep.ite (State.useFree_keep h) h) (State.updRg_keep _ _ (Keep.ite (State.useFree_keep
    h) h))).retryBuffers)

theorem Keep.execPoolPut {port r value} (h : Keep s0 s) : Completes s0 (execPoolPut port r value s) :=
  Completes.ok (h.reach (fun _ h0 => h0.poolReturn))

theorem Keep.poolConfigured {r} (h : Keep s0 s) : Keep s0 (s.poolConfigured r) :=
  (State.updRg_keep _ _ h).retryBuffers

/-! The operations of `Machine/Flow.lean`. -/

theorem Keep.flowStore {a l} (h : Keep s0 s) : Keep s0 (s.flowStore a l) :=
  Keep.ite h h.storeAll

theorem Keep.logStore {a l} (h : Keep s0 s) : Keep s0 (s.logStore a l) :=
  Keep.ite h (Keep.ite h.withFlowRegs (Keep.ite h.flowStore h))

theorem Keep.nextSeq (h : Keep s0 s) : Keep s0 (s.nextSeq) :=
  Keep.ite (State.setFld_keep _ _ _ (State.setReg_keep _ _ h)) (State.setReg_keep _ _ h)

theorem Keep.logWrite {r} (h : Keep s0 s) : Keep s0 (s.logWrite r) :=
  (State.setReg_keep _ _ h.logStore.logStore).nextSeq

theorem Keep.showLogWait (h : Keep s0 s) : Keep s0 (s.showLogWait) :=
  Keep.foldl h fun _ _ h0 => State.setBit_keep _ _ _ h0

theorem Keep.logPut {r} (h : Keep s0 s) : KeptIn s0 id (s.logPut r) :=
  KeptIn.ite (KeptIn.some h.logWrite) (KeptIn.ite (KeptIn.some (State.countSat_keep _ _ _ h.nextSeq)) KeptIn.none)

theorem Keep.setVal {site k v} (h : Keep s0 s) : Keep s0 (s.setVal site k v) :=
  State.setPair_keep _ _ _ h

theorem Keep.siteReset {site retests} (h : Keep s0 s) : Keep s0 (s.siteReset site retests) :=
  Keep.foldl (State.updSite_keep _ _ (State.setFld_keep _ _ _ (State.setReg_keep _ _ h))) fun _ _ h0 => h0.setVal

theorem Keep.stepHold {site b} (h : Keep s0 s) : Keep s0 (s.stepHold site b) :=
  Keep.foldl h fun _ _ h0 => h0.updGauge

theorem Keep.leaveEntry {n site} (h : Keep s0 s) : Keep s0 (s.leaveEntry n site) :=
  State.updFlow_keep _ _ h

theorem Keep.errorBin {n site} (h : Keep s0 s) : Keep s0 (s.errorBin n site) :=
  State.setBit_keep _ _ _ (State.setFld_keep _ _ _ (State.setFld_keep _ _ _ h))

theorem Keep.siteLeaves {n site test again} (h : Keep s0 s) : Keep s0 (s.siteLeaves n site test again) :=
  Keep.ite h.stepHold.siteReset.withLogWait (State.countSat_keep _ _ _ (State.countSat_keep _ _ _ (State.setBit_keep _ _ _
    h.stepHold)))

theorem Keep.logStep {a} (h : Keep s0 s) : KeptIn s0 id (s.logStep a) := by
  unfold State.logStep
  split
  · exact h.logPut
  · exact h.logPut
  · exact KeptIn.map ((Keep.ite h.errorBin h).logPut) (fun _ h1 => h1.siteLeaves)

theorem Keep.logRun {n} (h : Keep s0 s) : Keep s0 (s.logRun n) := by
  induction n generalizing s with
  | zero => exact h
  | succ n ih =>
    unfold State.logRun
    split
    · exact KeptIn.elim h.withLogWait.logStep h fun _ ht => ih ht
    · exact h

theorem Keep.logDrain (h : Keep s0 s) : Keep s0 (s.logDrain) :=
  h.logRun.showLogWait

theorem Keep.logTask {x} (h : Keep s0 s) : Keep s0 (s.logTask x) :=
  h.withLogWait.logDrain

theorem Keep.logEmit {r} (h : Keep s0 s) : Keep s0 (s.logEmit r) :=
  h.logTask

theorem Keep.startRecord {n site test} (h : Keep s0 s) : Keep s0 (s.startRecord n site test) :=
  h.logTask

theorem Keep.logRelease {value} (h : Keep s0 s) : Keep s0 (s.logRelease value) :=
  (State.setReg_keep _ _ h).logDrain

theorem Keep.siteEnd {n site test err} (h : Keep s0 s) : Keep s0 (s.siteEnd n site test err) :=
  h.leaveEntry.logTask

theorem Keep.siteError {n site test code} (h : Keep s0 s) : Keep s0 (s.siteError n site test code) :=
  (State.setFld_keep _ _ _ h.errorBin).siteEnd

theorem Keep.siteViolation {n site test cause idx} (h : Keep s0 s) : Keep s0 (s.siteViolation n site test cause idx) :=
  h.violation.siteError

theorem Keep.insertion {n} (h : Keep s0 s) : Keep s0 (s.insertion n) :=
  Keep.foldl (Keep.foldl (State.setFlow_keep _ _ (State.setBit_keep _ _ _ h)) fun _ _ h0 => Keep.ite (State.setSite_keep
    _ _ h0.siteReset) h0) fun _ _ h0 => h0.startRecord

theorem Keep.goCommand {port n} (h : Keep s0 s) : Keep s0 (s.goCommand port n) :=
  Keep.ite h.violation h.insertion

theorem Keep.contCommand {n} (h : Keep s0 s) : Keep s0 (s.contCommand n) :=
  State.updFlow_keep _ _ h

theorem Keep.execFlowCont {port n} (h : Keep s0 s) : Completes s0 (execFlowCont port n s) :=
  Completes.ok (h.reach (fun _ h0 => h0.contCommand))

theorem Keep.insertionEnd {n} (h : Keep s0 s) : Keep s0 (s.insertionEnd n) :=
  Keep.ite (Keep.ite (Keep.foldl (State.setBit_keep _ _ _ (State.setReg_keep _ _ h)) fun _ _ h0 => State.updSite_keep _
    _ h0) (Keep.ite ((Keep.foldl (State.setBit_keep _ _ _ (State.setReg_keep _ _ h)) fun _ _ h0 => State.updSite_keep _
    _ h0).withPkgBench) (State.send_keep _ (Keep.foldl (State.setBit_keep _ _ _ (State.setReg_keep _ _ h)) fun _ _ h0 =>
    State.updSite_keep _ _ h0)))) h

theorem Keep.flowCfgWrite {port a value be} (h : Keep s0 s) : Keep s0 (s.flowCfgWrite port a value be) := by
  unfold State.flowCfgWrite
  split
  · exact h.violation
  · exact h.partnerWrite
  · exact h

theorem Keep.execFlowConfigWrite {port addr value be} (h : Keep s0 s) : Completes s0 (execFlowConfigWrite port addr value be s)
    :=
  Completes.ok (h.reach (fun _ h0 => h0.flowCfgWrite))

/-! The operations of `Machine/Modes.lean`. -/

theorem Keep.modReq {port c value be} (h : Keep s0 s) : Keep s0 (s.modReq port c value be) :=
  Keep.ite h.violation (State.sendPin_keep _ _ h.partnerWrite)

theorem Keep.execModReqWrite {port c value be} (h : Keep s0 s) : Completes s0 (execModReqWrite port c value be s) :=
  Completes.ok (h.reach (fun _ h0 => h0.modReq))

theorem Keep.endShutdown {c m} (h : Keep s0 s) : Keep s0 (s.endShutdown c m) :=
  Keep.ite (State.setFld_keep _ _ _ (State.setFld_keep _ _ _ (State.setFld_keep _ _ _ h))) (State.setFld_keep _ _ _ h)

theorem Keep.execModeShutdownDone {c mode b} (h : Keep s0 s) : Completes s0 (execModeShutdownDone c mode b s) :=
  Completes.ite (Completes.ok ((State.at_keep _ h).endShutdown)) (Completes.ok h)

theorem Keep.svcRefuse {port c} (h : Keep s0 s) : Keep s0 (s.svcRefuse port c) :=
  (State.setBit_keep _ _ _ h).violation

theorem Keep.svcBegin {c v} (h : Keep s0 s) : Keep s0 (s.svcBegin c v) :=
  State.updCl_keep _ _ (State.setFld_keep _ _ _ (State.setBit_keep _ _ _ h))

theorem Keep.svcIssue {port c op act} (h : Keep s0 s) (hact : ∀ t, Keep s0 t → Keep s0 (act t)) : Keep s0 (s.svcIssue port c op
    act) :=
  Keep.ite (hact _ h) h.svcRefuse

theorem Keep.abandonSeq {c g} (h : Keep s0 s) : Keep s0 (s.abandonSeq c g) := by
  unfold State.abandonSeq
  split
  · exact h.adcAfter
  · exact h

theorem Keep.cutProduction {c d e} (h : Keep s0 s) : Keep s0 (s.cutProduction c d e) :=
  State.updCl_keep _ _ h

theorem Keep.cutRuns {c d} (h : Keep s0 s) : Keep s0 (s.cutRuns c d) :=
  Keep.ite ((Keep.foldl h fun _ _ h0 => h0.refuseRun).svcBegin) (((Keep.foldl (Keep.foldl h fun _ _ h0 =>
    h0.refuseRun) fun _ _ h0 => h0.endRun).cutProduction).svcBegin)

theorem Keep.drainAt {c cut d} (h : Keep s0 s) : Keep s0 (s.drainAt c cut d) :=
  Keep.ite (((((State.at_keep _ h).modReqNow).stepModes).abandonSeq).cutRuns) (((((State.at_keep _
    h).modReqNow).stepModes).abandonSeq).svcBegin)

theorem Keep.drainMeets {c cut d} (h : Keep s0 s) : Keep s0 (s.drainMeets c cut d) := by
  unfold State.drainMeets
  split
  · exact (State.at_keep _ h).svcBegin
  · exact h.drainAt

theorem Keep.drainDue {c b} (h : Keep s0 s) : Keep s0 (s.drainDue c b) := by
  unfold State.drainDue
  split
  · exact Keep.ite h.drainAt h
  · exact h

theorem Keep.execDrain {port c cut d} (h : Keep s0 s) : Completes s0 (execDrain port c cut d s) :=
  Completes.ok (h.reach (fun _ h0 => h0.svcIssue (fun _ h1 => h1.drainMeets)))

theorem Keep.execDrainEnd {c g} (h : Keep s0 s) : Completes s0 (execDrainEnd c g s) := by
  unfold Machine.execDrainEnd
  split
  · refine Completes.ite (Completes.ok (Keep.foldl h fun _ _ h1 => ?_)) (Completes.ok h)
    split
    · exact h1.finishRun
    · exact h1
  · exact Completes.ok h

theorem Keep.svcEnd {c good code} (h : Keep s0 s) : Keep s0 (s.svcEnd c good code) := by
  unfold State.svcEnd
  exact State.updCl_keep _ _ (State.setBit_keep _ _ _ (State.setFld_keep _ _ _ (State.setBit_keep _ _ _ h)))

theorem Keep.execDrained {c} (h : Keep s0 s) : Completes s0 (execDrained c s) := by
  unfold Machine.execDrained
  split
  · exact Completes.ite (Completes.ok ((State.setBit_keep _ _ _ (State.setPair_keep _ _ _ h)).svcEnd)) (Completes.ok h)
  · exact Completes.ok h

theorem Keep.execReload {port c} (h : Keep s0 s) : Completes s0 (execReload port c s) :=
  Completes.ok (h.reach (fun _ h0 => h0.svcIssue (fun _ h1 => h1.svcBegin)))

theorem Keep.memtestStart {c} (h : Keep s0 s) : Keep s0 (s.memtestStart c) :=
  (State.setFld_keep _ _ _ (State.setBit_keep _ _ _ h)).svcBegin

theorem Keep.execMemtest {port c} (h : Keep s0 s) : Completes s0 (execMemtest port c s) :=
  Completes.ok (h.reach (fun _ h0 => h0.svcIssue (fun _ h1 => h1.memtestStart)))

theorem Keep.execActivate {port c} (h : Keep s0 s) : Completes s0 (execActivate port c s) :=
  Completes.ok (h.reach (fun _ h0 => h0.svcIssue (fun _ h1 => h1.svcBegin)))

theorem Keep.recoverAt {c resume r} (h : Keep s0 s) : Keep s0 (s.recoverAt c resume r) :=
  (State.setBoth_keep _ _ ((State.at_keep _ h).svcBegin)).nextSelfTest

theorem Keep.execRecover {port c resume b} (h : Keep s0 s) : Completes s0 (execRecover port c resume b s) :=
  Completes.ok (h.reach (fun _ h0 => h0.svcIssue (fun _ h1 => h1.recoverAt)))

theorem Keep.svcAct {c op value b} (h : Keep s0 s) : Keep s0 (s.svcAct c op value b) := by
  unfold State.svcAct
  split
  · exact h.drainMeets
  · exact h.memtestStart
  · exact h.recoverAt
  · exact h.svcBegin

theorem Keep.svcWrite {port c value b} (h : Keep s0 s) : Keep s0 (s.svcWrite port c value b) :=
  Keep.ite h (Keep.ite h.svcAct (h.svcIssue (fun _ h0 => h0.svcAct)))

theorem Keep.svcTravel {port c op value} (h : Keep s0 s) : Keep s0 (s.svcTravel port c op value) :=
  State.sendAct_keep _ _ _ (State.setFld_keep _ _ _ h.svcBegin)

theorem Keep.svcSend {port c value} (h : Keep s0 s) : Keep s0 (s.svcSend port c value) :=
  Keep.ite (h.svcIssue (fun _ h0 => h0.svcTravel)) h.svcWrite

theorem Keep.execSvcOpRefused {port c value} (h : Keep s0 s) : Completes s0 (execSvcOpRefused port c value s) :=
  Completes.ok (h.reach (fun _ h0 => Keep.ite h0.svcRefuse h0))

/-! The operations of `Machine/Vyene.lean`. -/

theorem Keep.sendIdentity {links uid tag id el prio} (h : Keep s0 s) : Keep s0 (s.sendIdentity links uid tag id el prio) :=
  Keep.ite h (State.send_keep _ h)

theorem Keep.setPresent {present reserved} (h : Keep s0 s) : Keep s0 (s.setPresent present reserved) :=
  State.setFld_keep _ _ _ (State.setFld_keep _ _ _ (State.setFld_keep _ _ _ h))

theorem Keep.unalign (h : Keep s0 s) : Keep s0 (s.unalign) :=
  State.updHub_keep _ (State.setBit_keep _ _ _ h)

theorem Keep.learn {x} (h : Keep s0 s) : Keep s0 (s.learn x) :=
  Keep.ite ((State.updVyn_keep _ h).setPresent) (State.updVyn_keep _ h)

theorem Keep.learnAt {x w} (h : Keep s0 s) : Keep s0 (s.learnAt x w) :=
  Keep.ite (State.updVyn_keep _ h.learn) h.learn

theorem Keep.setLink {n state lanes up} (h : Keep s0 s) : Keep s0 (s.setLink n state lanes up) :=
  State.setBit_keep _ _ _ (State.setFld_keep _ _ _ (State.setFld_keep _ _ _ h))

theorem Keep.holdLink {n} (h : Keep s0 s) : Keep s0 (s.holdLink n) :=
  h.setLink

theorem Keep.refuseLink {n} (h : Keep s0 s) : Keep s0 (s.refuseLink n) :=
  State.send_keep _ h.holdLink.event

theorem Keep.judgeLink {n peer} (h : Keep s0 s) : Keep s0 (s.judgeLink n peer) :=
  Keep.ite h.setLink h

theorem Keep.judgeLinks (h : Keep s0 s) : Keep s0 (s.judgeLinks) := by
  unfold State.judgeLinks
  refine Keep.foldl h fun _ _ h0 => ?_
  split
  · exact (State.setFld_keep _ _ _ h0).judgeLink
  · exact h0

theorem Keep.sendOwn {links} (h : Keep s0 s) : Keep s0 (s.sendOwn links) :=
  h.sendIdentity

theorem Keep.forwardIdentity {links x} (h : Keep s0 s) : Keep s0 (s.forwardIdentity links x) :=
  h.sendIdentity

theorem Keep.trainLink {link lanes peer peerLink w} (h : Keep s0 s) : Keep s0 (s.trainLink link lanes peer peerLink w) :=
  (Keep.ite (Keep.foldl ((((State.updVyn_keep _ (State.setFld_keep _ _ _ (State.setFld_keep _ _ _
    h.setLink))).learnAt).sendOwn).judgeLink) fun _ _ h0 => h0.forwardIdentity) ((((State.updVyn_keep _
    (State.setFld_keep _ _ _ (State.setFld_keep _ _ _ h.setLink))).learnAt).sendOwn).judgeLink)).forwardIdentity

theorem Keep.hearIdentity {n x w} (h : Keep s0 s) : Keep s0 (s.hearIdentity n x w) :=
  Keep.ite h h.learnAt.judgeLinks.forwardIdentity

theorem Keep.execVyeneLinkTrained {n lanes peer peerLink w} (h : Keep s0 s) : Completes s0 (execVyeneLinkTrained n lanes peer
    peerLink w s) :=
  Completes.ite (Completes.ok h) (Completes.ite (Completes.ok h.trainLink) (Completes.ite (Completes.ok h.hearIdentity)
    (Completes.ok h)))

theorem Keep.dropWaiting (h : Keep s0 s) : Keep s0 (s.dropWaiting) :=
  h.withHomeWaitsFlowStores

theorem Keep.aloneAligned (h : Keep s0 s) : Keep s0 (s.aloneAligned) :=
  Keep.ite (State.updHub_keep _ (State.setBit_keep _ _ _ h)) h

theorem Keep.loseUids {lost} (h : Keep s0 s) : Keep s0 (s.loseUids lost) :=
  (((State.updVyn_keep _ h).setPresent).dropWaiting).aloneAligned

theorem Keep.execVyeneLinkDrop {n lost} (h : Keep s0 s) : Completes s0 (execVyeneLinkDrop n lost s) := by
  unfold Machine.execVyeneLinkDrop
  split
  · exact Completes.ok h.loseUids
  · exact Completes.ite (Completes.ok ((State.updVyn_keep _ (State.countSat_keep _ _ _ h.setLink)).loseUids)) (Completes.ok
      h)

theorem Keep.execFlitResend {n} (h : Keep s0 s) : Completes s0 (execFlitResend n s) :=
  Completes.ite (Completes.ok (State.countSat_keep _ _ _ h)) (Completes.ok h)

theorem Keep.refuseLeftOut {uids} (h : Keep s0 s) : Keep s0 (s.refuseLeftOut uids) :=
  Keep.foldl h fun _ _ h0 => h0.refuseLink

theorem Keep.relabelAll {tag uids} (h : Keep s0 s) : Keep s0 (s.relabelAll tag uids) :=
  (State.updVyn_keep _ h).judgeLinks

theorem Keep.sendAssign {uids declared} (h : Keep s0 s) : Keep s0 (s.sendAssign uids declared) :=
  State.send_keep _ h

theorem Keep.enterSystem {tag id uids reserved declared} (h : Keep s0 s) : Keep s0 (s.enterSystem tag id uids reserved declared)
    :=
  ((State.setBit_keep _ _ _ ((State.updVyn_keep _ ((State.setFld_keep _ _ _ (State.setPair_keep _ _ _
    h.refuseLeftOut)).setPresent)).relabelAll)).unalign).sendAssign

theorem Keep.execSystemDeclare {w} (h : Keep s0 s) : Completes s0 (execSystemDeclare w s) :=
  Completes.ite (Completes.ok h.enterSystem) (Completes.ok h)

theorem Keep.execIdAssignment {tag uids reserved declared} (h : Keep s0 s) : Completes s0 (execIdAssignment tag uids reserved
    declared s) := by
  unfold Machine.execIdAssignment
  refine Completes.ite (Completes.ok h) (Completes.ite (Completes.ok h.setPresent.relabelAll) (Completes.ite ?_
    (Completes.ok h)))
  split
  · exact Completes.ok h.enterSystem
  · exact Completes.ok ((Keep.foldl h fun _ _ h1 => h1.holdLink).relabelAll)

theorem Keep.admitPackage {joiner k} (h : Keep s0 s) : Keep s0 (s.admitPackage joiner k) :=
  (Keep.ite h h.learn.judgeLinks).sendAssign

theorem Keep.execSystemJoin {n joiner refused} (h : Keep s0 s) : Completes s0 (execSystemJoin n joiner refused s) := by
  unfold Machine.execSystemJoin
  refine Completes.ite (Completes.ok h) ?_
  split
  · exact Completes.ok h.event
  · refine Completes.ite (Completes.ok h) ?_
    split
    · exact Completes.ok (Keep.ite h.refuseLink h)
    · exact Completes.ite (Completes.ok h.admitPackage) (Completes.ok (State.send_keep _ h))

theorem Keep.releaseId {port id} (h : Keep s0 s) : Keep s0 (s.releaseId port id) :=
  Keep.ite h.violation (Keep.ite (State.setFld_keep _ _ _ h) ((State.setFld_keep _ _ _ h).sendAssign))

theorem Keep.execRelease {port id} (h : Keep s0 s) : Completes s0 (execRelease port id s) :=
  Completes.ok (h.reach (fun _ h0 => h0.releaseId))

theorem Keep.electNow (h : Keep s0 s) : Keep s0 (s.electNow) :=
  State.send_keep _ (State.updVyn_keep _ (State.setBit_keep _ _ _ h))

theorem Keep.execElect {port} (h : Keep s0 s) : Completes s0 (execElect port s) :=
  Completes.ok (h.reach (fun _ h0 => h0.electNow))

theorem Keep.follow {m epoch} (h : Keep s0 s) : Keep s0 (s.follow m epoch) :=
  Keep.ite ((State.updVyn_keep _ (State.setBit_keep _ _ _ (State.setBit_keep _ _ _ (State.setFld_keep _ _ _
    (State.setReg_keep _ _ h))))).alignDone) (Keep.ite (State.updVyn_keep _ (State.setBit_keep _ _ _ (State.setBit_keep _
    _ _ (State.setFld_keep _ _ _ (State.setReg_keep _ _ h))))) ((State.updVyn_keep _ (State.setBit_keep _ _ _
    (State.setBit_keep _ _ _ (State.setFld_keep _ _ _ (State.setReg_keep _ _ h))))).unalign))

theorem Keep.noMaster (h : Keep s0 s) : Keep s0 (s.noMaster) :=
  (State.updVyn_keep _ (State.setReg_keep _ _ (State.setBit_keep _ _ _ (State.setBit_keep _ _ _ h)))).alignDone

theorem Keep.execElection {others} (h : Keep s0 s) : Completes s0 (execElection others s) := by
  unfold Machine.execElection
  dsimp only
  refine Completes.ite (Completes.ite (Completes.ok ((State.updVyn_keep _ h).alignDone)) ?_) (Completes.ok h)
  split
  · exact Completes.ok ((State.setBit_keep _ _ _ h).follow)
  · exact Completes.ok ((State.setBit_keep _ _ _ h).noMaster)

theorem Keep.execLease {g} (h : Keep s0 s) : Completes s0 (execLease g s) :=
  Completes.ite (Completes.ok (State.send_keep _ (State.at_keep _ h))) (Completes.ok h)

theorem Keep.conflictNow {c claims} (h : Keep s0 s) : Keep s0 (s.conflictNow c claims) :=
  Keep.ite h (Keep.ite ((State.updVyn_keep _ (State.send_keep _ (State.updHub_keep _ ((State.setBit_keep _ _ _
    (State.setBit_keep _ _ _ h)).unalign)))).event) (State.updVyn_keep _ (State.send_keep _ (State.updHub_keep _
    ((State.setBit_keep _ _ _ (State.setBit_keep _ _ _ h)).unalign)))))

theorem Keep.execLeaseReceive {n epoch master _gt} (h : Keep s0 s) : Completes s0 (execLeaseReceive n epoch master _gt s) :=
  Completes.ite (Completes.ok h) (Completes.ite (Completes.ok h.follow) (Completes.ite (Completes.ok h) (Completes.ite
    (Completes.ok (State.updVyn_keep _ h)) (Completes.ok h.conflictNow))))

theorem Keep.execLeaseLapse {g} (h : Keep s0 s) : Completes s0 (execLeaseLapse g s) :=
  Completes.ite (Completes.ok (State.send_keep _ (State.updVyn_keep _ (State.at_keep _ h)))) (Completes.ok h)

theorem Keep.execConflict {g claimant} (h : Keep s0 s) : Completes s0 (execConflict g claimant s) :=
  Completes.ok ((State.at_keep _ h).conflictNow)

theorem Keep.execConflictSafeState {g} (h : Keep s0 s) : Completes s0 (execConflictSafeState g s) := by
  unfold Machine.execConflictSafeState
  split
  · exact Completes.ite (Completes.ok (((State.updHub_keep _ (State.at_keep _ h)).holdAll).endRunsIf)) (Completes.ok h)
  · exact Completes.ok h

theorem Keep.dowelNow (h : Keep s0 s) : Keep s0 (s.dowelNow) :=
  Keep.ite h h.unalign

theorem Keep.execDowel {port} (h : Keep s0 s) : Completes s0 (execDowel port s) := by
  unfold Machine.execDowel
  split
  · exact Completes.ok (h.reach (fun _ h1 => h1.dowelNow))
  · exact Completes.ok (Keep.ite h h.dowelNow)

theorem Keep.alignBy {theta} (h : Keep s0 s) : Keep s0 (s.alignBy theta) :=
  Keep.ite h.alignDone (Keep.ite h.loadGt (State.updHub_keep _ h.loadGt))

theorem Keep.execAlignment {n g pairs far} (h : Keep s0 s) : Completes s0 (execAlignment n g pairs far s) :=
  Completes.ite (Completes.ok h) (Completes.ite (Completes.ok (State.setReg_keep _ _ h)) (Completes.ite (Completes.ok h)
    (Completes.ite (Completes.ok ((State.at_keep _ h).alignDone)) (Completes.ite (Completes.ok ((State.send_keep _
    (State.setReg_keep _ _ (State.setReg_keep _ _ (State.at_keep _ h)))).alignBy)) (Completes.ok h)))))

theorem Keep.execLAdopt {g links} (h : Keep s0 s) : Completes s0 (execLAdopt g links s) :=
  Completes.ite (Completes.ok (Keep.foldl (State.updVyn_keep _ (State.setReg_keep _ _ (State.at_keep _ h))) fun _ _ h0
    => h0.reportFill)) (Completes.ok h)

theorem Keep.forwardCond {src name l} (h : Keep s0 s) : Keep s0 (s.forwardCond src name l) :=
  Keep.ite h (Keep.foldl h fun _ _ h0 => State.send_keep _ h0)

theorem Keep.flagMessage {src f set due g} (h : Keep s0 s) : Keep s0 (s.flagMessage src f set due g) :=
  Keep.ite h.withSysFlagDue h.withSysFlagDueLateFlags

theorem Keep.failMessage {pkg e failed sGrain} (h : Keep s0 s) : Keep s0 (s.failMessage pkg e failed sGrain) := by
  unfold State.failMessage
  split
  · exact Keep.ite (State.updEng_keep _ _ h) h
  · exact h

theorem Keep.execSystemConditionMessage {m g} (h : Keep s0 s) : Completes s0 (execSystemConditionMessage m g s) := by
  unfold Machine.execSystemConditionMessage
  refine Completes.ite (Completes.ok h) ?_
  split
  · exact Completes.ok (((State.at_keep _ h).flagMessage).forwardCond)
  · exact Completes.ok (((State.at_keep _ h).failMessage).forwardCond)

theorem Keep.lateFlag {f t b} (h : Keep s0 s) : Keep s0 (s.lateFlag f t b) :=
  Keep.foldl h fun _ _ h0 => h0.endRun.event

theorem Keep.execSystemFlagTakeEffect {f g} (h : Keep s0 s) : Completes s0 (execSystemFlagTakeEffect f g s) :=
  Completes.ite (Completes.ok h) (Completes.ok (Keep.ite ((Keep.foldl ((State.at_keep _ h).withSysFlagDueLateFlags) fun _
    _ h0 => h0.lateFlag).flagSetAt) ((Keep.foldl ((State.at_keep _ h).withSysFlagDueLateFlags) fun _ _ h0 =>
    h0.lateFlag).flagClrAt)))

theorem Keep.execSyncOutPulse {g} (h : Keep s0 s) : Completes s0 (execSyncOutPulse g s) :=
  Completes.ite (Completes.ok (State.send_keep _ (State.at_keep _ h))) (Completes.ok h)

theorem Keep.execSyncInEdge {g} (h : Keep s0 s) : Completes s0 (execSyncInEdge g s) :=
  Completes.ok (State.setPair_keep _ _ _ (State.at_keep _ h))

theorem Keep.vynCommand {port value} (h : Keep s0 s) : Keep s0 (s.vynCommand port value) :=
  Keep.ite ((Keep.ite ((Keep.ite h.electNow h).dowelNow) (Keep.ite h.electNow h)).releaseId) (Keep.ite ((Keep.ite
    h.electNow h).dowelNow) (Keep.ite h.electNow h))

/-! The operations of `Machine/Coherence.lean`. -/

theorem Keep.meetLine {l finds} (h : Keep s0 s) : Keep s0 (s.meetLine l finds) :=
  Keep.ite (Keep.ite h.eccRead h) ((Keep.ite h.eccRead h).eccRead)

theorem Keep.execReadS {requester line reply finds} (h : Keep s0 s) : Completes s0 (execReadS requester line reply finds s) :=
  Completes.ite (Completes.ok h.meetLine.homeRequest) (Completes.ite (Completes.ok h.fillLine) (Completes.ok h))

theorem Keep.execReadX {requester line reply finds} (h : Keep s0 s) : Completes s0 (execReadX requester line reply finds s) :=
  Completes.ite (Completes.ok h.meetLine.homeRequest) (Completes.ite (Completes.ok h.fillLine.storesGo) (Completes.ok h))

theorem Keep.execUpgrade {requester line finds} (h : Keep s0 s) : Completes s0 (execUpgrade requester line finds s) :=
  Completes.ite (Completes.ok h.meetLine.homeRequest) (Completes.ite (Completes.ok ((State.setCline_keep _ _
    h.meetLine).storesGo)) (Completes.ok h))

theorem Keep.completeSnoop {l mask x} (h : Keep s0 s) : Keep s0 (s.completeSnoop l mask x) :=
  (Keep.ite h.grantExclusive h.grantShared).serveWaiting

theorem Keep.homePut {sender l data} (h : Keep s0 s) : Keep s0 (s.homePut sender l data) := by
  unfold State.homePut
  dsimp only
  refine Keep.ite ?_ h
  split
  · refine Keep.completeSnoop ?_
    split
    · exact h.setHomeData
    · exact h
  · refine State.setDir_keep _ _ ?_
    split
    · exact h.setHomeData
    · exact h

theorem Keep.execPutM {sender line data finds} (h : Keep s0 s) : Completes s0 (execPutM sender line data finds s) :=
  Completes.ite (Completes.ok (Keep.ite h.meetLine.evictOwn h)) (Completes.ite (Completes.ok h.homePut) (Completes.ok h))

theorem Keep.execPutE {sender line finds} (h : Keep s0 s) : Completes s0 (execPutE sender line finds s) :=
  Completes.ite (Completes.ok (Keep.ite h.evictOwn h)) (Completes.ite (Completes.ok h.meetLine.homePut) (Completes.ok h))

theorem Keep.answerSnoop {l shared} (h : Keep s0 s) : Keep s0 (s.answerSnoop l shared) := by
  unfold State.answerSnoop
  dsimp only
  split
  · exact State.send_keep _ h
  · exact State.send_keep _ h
  · exact State.send_keep _ h
  · exact State.send_keep _ (Keep.ite (State.setCline_keep _ _ h) h.dropLine)

theorem Keep.ownerAnswers {target l answer x} (h : Keep s0 s) : Keep s0 (s.ownerAnswers target l answer x) := by
  unfold State.ownerAnswers
  split
  · exact h.setHomeData.completeSnoop
  · exact h.setHomeData.completeSnoop
  · exact h.completeSnoop
  · exact h.completeSnoop

theorem Keep.snoopOwner {target l shared answer} (h : Keep s0 s) : Keep s0 (s.snoopOwner target l shared answer) := by
  unfold State.snoopOwner
  refine Keep.ite ?_ (Keep.ite h.answerSnoop h)
  split
  · exact Keep.ite h.ownerAnswers h
  · exact h

theorem Keep.execFwdS {target line answer finds} (h : Keep s0 s) : Completes s0 (execFwdS target line answer finds s) :=
  Completes.ok h.meetLine.snoopOwner

theorem Keep.execFwdX {target line answer finds} (h : Keep s0 s) : Completes s0 (execFwdX target line answer finds s) :=
  Completes.ok h.meetLine.snoopOwner

theorem Keep.sharerAnswers {target l x} (h : Keep s0 s) : Keep s0 (s.sharerAnswers target l x) :=
  Keep.ite h.completeSnoop (State.setBusy_keep _ _ h)

theorem Keep.dropCopy {l} (h : Keep s0 s) : Keep s0 (s.dropCopy l) := by
  unfold State.dropCopy
  split
  · exact h.answerSnoop
  · exact State.send_keep _ h.dropLine

theorem Keep.execInv {target line finds} (h : Keep s0 s) : Completes s0 (execInv target line finds s) := by
  unfold Machine.execInv
  refine Completes.ite ?_ (Completes.ite (Completes.ok h.dropCopy) (Completes.ok h))
  split
  · exact Completes.ok (Keep.ite h.meetLine.sharerAnswers h)
  · exact Completes.ok h

theorem Keep.loseLine {l} (h : Keep s0 s) : Keep s0 (s.loseLine l) :=
  (State.setDir_keep _ _ (State.clearBusy_keep _ (State.setPoison_keep _ _ h))).event

theorem Keep.execSnoopTargetUnreachable {target} (h : Keep s0 s) : Completes s0 (execSnoopTargetUnreachable target s) :=
  Completes.ok (Keep.foldl h fun _ _ h0 => (Keep.ite h0.loseLine h0.loseLine.homeServe).serveWaiting)

/-! The operations of `Machine/Boot.lean`. -/

theorem Keep.execResetNLow (h : Keep s0 s) : Completes s0 (execResetNLow s) :=
  Completes.ok h.withResetN.packageReset

theorem Keep.execResetNHigh (h : Keep s0 s) : Completes s0 (execResetNHigh s) :=
  Completes.ite (Completes.ok h) (Completes.ok h.withBootResetN)

theorem Keep.execReboot {port} (h : Keep s0 s) : Completes s0 (execReboot port s) :=
  Completes.ok (h.reach (fun _ h0 => h0.packageReset))

theorem Keep.execHbmInitDone {r} (h : Keep s0 s) : Completes s0 (execHbmInitDone r s) :=
  Completes.ok (State.updRg_keep _ _ h)

theorem Keep.bootFailed {sect cause} (h : Keep s0 s) : Keep s0 (s.bootFailed sect cause) :=
  (State.updBoot_keep _ (State.setFld_keep _ _ _ (State.setFld_keep _ _ _ (State.setBit_keep _ _ _ (State.setBit_keep _ _
    _ h))))).holdAll

theorem Keep.bootBank {bank} (h : Keep s0 s) : Keep s0 (s.bootBank bank) := by
  unfold State.bootBank
  exact State.updBoot_keep _ (State.setReg_keep _ _ (State.setFld_keep _ _ _ h))

theorem Keep.headerFailed {bank otherFails} (h : Keep s0 s) : Keep s0 (s.headerFailed bank otherFails) :=
  Keep.ite h.bootFailed ((State.updBoot_keep _ (State.setBit_keep _ _ _ h)).bootBank)

theorem Keep.execBootHeadersRead {errorA errorB} (h : Keep s0 s) : Completes s0 (execBootHeadersRead errorA errorB s) := by
  unfold Machine.execBootHeadersRead
  refine Completes.ite (Completes.ite (Completes.ok h.headerFailed) (Completes.ite (Completes.ok h.headerFailed) ?_))
    (Completes.ok h)
  split
  · exact Completes.ok h.bootBank
  · exact Completes.ok h.bootFailed

theorem Keep.execFetchTimeout (h : Keep s0 s) : Completes s0 (execFetchTimeout s) :=
  Completes.ok (State.updBoot_keep _ h)

theorem Keep.spoilLoads {a n} (h : Keep s0 s) : Keep s0 (s.spoilLoads a n) :=
  Keep.foldl h fun _ _ h0 => Keep.ite (State.updCl_keep _ _ h0) h0

theorem Keep.flTarget {op} (h : Keep s0 s) : Keep s0 (s.flTarget op).2 := by
  unfold State.flTarget
  dsimp only
  split
  · dsimp only
    exact h
  · dsimp only
    exact State.useFree_keep h

theorem Keep.flCommand {port op} (h : Keep s0 s) : Keep s0 (s.flCommand port op) :=
  Keep.ite ((State.setBit_keep _ _ _ h).violation) (State.updBoot_keep _ (State.setBit_keep _ _ _ (Keep.ite h.flTarget
    h.flTarget.spoilLoads)))

theorem Keep.execFlashRead {port} (h : Keep s0 s) : Completes s0 (execFlashRead port s) :=
  Completes.ok (h.reach (fun _ h0 => h0.flCommand))

theorem Keep.execFlashProgram {port} (h : Keep s0 s) : Completes s0 (execFlashProgram port s) :=
  Completes.ok (h.reach (fun _ h0 => h0.flCommand))

theorem Keep.execFlashErase {port} (h : Keep s0 s) : Completes s0 (execFlashErase port s) :=
  Completes.ok (h.reach (fun _ h0 => h0.flCommand))

theorem Keep.execFlashOpRefused {port} (h : Keep s0 s) : Completes s0 (execFlashOpRefused port s) :=
  Completes.ok (h.reach (fun _ h0 => h0.flCommand))

theorem Keep.useFrees {n} (h : Keep s0 s) : Keep s0 (s.useFrees n) :=
  h.withFree

theorem Keep.setFlData {l} (h : Keep s0 s) : Keep s0 (s.setFlData l) :=
  Keep.foldl h fun _ _ h0 => State.setReg_keep _ _ h0

theorem Keep.eraseFlash {a n} (h : Keep s0 s) : Keep s0 (s.eraseFlash a n) :=
  Keep.same h rfl fun c => { c with flash := twf_filter _ _ _ c.flash }

theorem Keep.flEffect {op a error} (h : Keep s0 s) : Keep s0 (s.flEffect op a error) := by
  unfold State.flEffect
  split
  · exact Keep.ite h.setFlData.useFrees h.setFlData
  · exact Keep.ite ((State.putFlash_keep _ _ h).useFrees) ((State.putFlash_keep _ _ h).useFrees)
  · exact Keep.ite ((State.putFlash_keep _ _ h).useFrees) h.eraseFlash

theorem Keep.execFlashCmdDone {error} (h : Keep s0 s) : Completes s0 (execFlashCmdDone error s) := by
  unfold Machine.execFlashCmdDone
  split
  · exact Completes.ok (State.updBoot_keep _ (Keep.ite (State.setBit_keep _ _ _ (Keep.ite (State.setBit_keep _ _ _
      h.flEffect) ((State.setBit_keep _ _ _ h.flEffect).spoilLoads))) (Keep.ite (State.setBit_keep _ _ _ h.flEffect)
      ((State.setBit_keep _ _ _ h.flEffect).spoilLoads))))
  · exact Completes.ok h

theorem Keep.flWrite {port value} (h : Keep s0 s) : Keep s0 (s.flWrite port value) :=
  Keep.ite h.flCommand h

theorem Keep.actHubBegin (h : Keep s0 s) : Keep s0 (s.actHubBegin) :=
  Keep.ite h (State.updBoot_keep _ (State.setBit_keep _ _ _ h))

theorem Keep.execActHub {port} (h : Keep s0 s) : Completes s0 (execActHub port s) :=
  Completes.ok (h.reach (fun _ h0 => h0.actHubBegin))

theorem Keep.bootCtrlWrite {value} (h : Keep s0 s) : Keep s0 (s.bootCtrlWrite value) :=
  Keep.ite ((Keep.ite h.actHubBegin h).packageReset) (Keep.ite h.actHubBegin h)

theorem Keep.lcCommand {port value} (h : Keep s0 s) : Keep s0 (s.lcCommand port value) :=
  Keep.ite h (Keep.ite (State.updBoot_keep _ (State.setBit_keep _ _ _ h)) ((State.setBit_keep _ _ _ h).violation))

theorem Keep.execLcTransition {port value} (h : Keep s0 s) : Completes s0 (execLcTransition port value s) :=
  Completes.ok (h.reach (fun _ h0 => h0.lcCommand))

theorem Keep.programFuses {n} (h : Keep s0 s) : Keep s0 (s.programFuses n) :=
  h.withFuses

theorem Keep.execLcFusesProgrammed (h : Keep s0 s) : Completes s0 (execLcFusesProgrammed s) := by
  unfold Machine.execLcFusesProgrammed
  split
  · exact Completes.ok (State.updBoot_keep _ (((State.setBit_keep _ _ _ h).beginWipe).programFuses))
  · exact Completes.ok h

theorem Keep.execRepairAppend {array inst bank row spare} (h : Keep s0 s) : Completes s0 (execRepairAppend array inst bank row
    spare s) := by
  unfold Machine.execRepairAppend
  refine Completes.ite ?_ (Completes.ok h)
  split
  · exact Completes.ok (State.putFlash_keep _ _ (State.updBoot_keep _ h))
  · exact Completes.ok (State.setBit_keep _ _ _ (State.updBoot_keep _ h))

/-! The operations of `Machine/Boundary.lean`. -/

theorem Keep.arrival {c m} (h : Keep s0 s) : Keep s0 (s.arrival c m) :=
  Keep.ite (State.setForce_keep _ _ h) h.scribeSetting

theorem Keep.execWriteReachesPinTime {addr b} (h : Keep s0 s) : Completes s0 (execWriteReachesPinTime addr b s) := by
  unfold Machine.execWriteReachesPinTime
  split
  · exact Completes.ite (Completes.ok h) (Completes.ok (Keep.ite ((((State.at_keep _ h).sliceSeen).withInFlight).arrival)
      (((State.at_keep _ h).sliceSeen).withInFlight)))
  · exact Completes.ok h

theorem Keep.acqCommand {d b w} (h : Keep s0 s) : Keep s0 (s.acqCommand d b w) :=
  Keep.ite ((Keep.ite h.abortDig h).armDig) (Keep.ite h.abortDig h)

theorem Keep.calCommand {c w} (h : Keep s0 s) : Keep s0 (s.calCommand c w) :=
  Keep.ite ((Keep.ite h.calRequest h).calRequest) (Keep.ite h.calRequest h)

theorem Keep.pulseCommand {c b mask} (h : Keep s0 s) : Keep s0 (s.pulseCommand c b mask) :=
  Keep.foldl h fun _ _ h0 => h0.pulsePin

theorem Keep.boundaryAct {c b m} (h : Keep s0 s) : Keep s0 (s.boundaryAct c b m) := by
  unfold State.boundaryAct
  dsimp only
  split
  · exact h.flagRegWrite
  · exact Keep.ite h.adcEvent (Keep.ite h.clearLatches (Keep.ite h.acqCommand (Keep.ite h.acqCommand (Keep.ite h.acqRangeDue
      (Keep.ite h.acqRangeDue (Keep.ite h.calCommand (Keep.ite h.svcWrite (Keep.ite h.precCtrl h))))))))

theorem Keep.valueAct {c b m} (h : Keep s0 s) : Keep s0 (s.valueAct c b m) := by
  unfold State.valueAct
  split
  · exact State.updPin_keep _ _ ((State.setForce_keep _ _ h).forceEffect)
  · exact (State.setForce_keep _ _ h).forceEffect

theorem Keep.applyValues {c b due} (h : Keep s0 s) : Keep s0 (s.applyValues c b due) :=
  Keep.foldl h fun _ _ h0 => h0.valueAct

theorem Keep.applyCommands {c b due} (h : Keep s0 s) : Keep s0 (s.applyCommands c b due) :=
  Keep.foldl h fun _ _ h0 => h0.boundaryAct

theorem Keep.applyPulses {c b due} (h : Keep s0 s) : Keep s0 (s.applyPulses c b due) :=
  Keep.foldl h fun _ _ h0 => h0.pulseCommand

theorem Keep.dropDue {c b} (h : Keep s0 s) : Keep s0 (s.dropDue c b) :=
  h.withInFlight

theorem Keep.idleOut {p b} (h : Keep s0 s) : Keep s0 (s.idleOut p b) := by
  unfold State.idleOut
  exact State.updPin_keep _ _ h.flushEdge

theorem Keep.underrun {c b} (h : Keep s0 s) : Keep s0 (s.underrun c b) :=
  Keep.foldl (State.updCl_keep _ _ (((Keep.ite (State.setPair_keep _ _ _ (State.setFld_keep _ _ _ h)) (State.setFld_keep _
    _ _ h)).updFigs).withRuns)) fun _ _ h0 => h0.idleOut

theorem Keep.resumePlay {c b} (h : Keep s0 s) : Keep s0 (s.resumePlay c b) :=
  Keep.ite (Keep.foldl (State.updCl_keep _ _ h.invalidMarker) fun _ _ h0 => State.updPin_keep _ _ h0) (State.updCl_keep
    _ _ h.invalidMarker)

theorem Keep.leadTaken {c b before} (h : Keep s0 s) : Keep s0 (s.leadTaken c b before) :=
  Keep.ite (Keep.ite ((State.updCl_keep _ _ ((State.setFld_keep _ _ _ ((State.setFld_keep _ _ _
    h).updFigs)).updFigs)).event) ((State.setFld_keep _ _ _ ((State.setFld_keep _ _ _ h).updFigs)).updFigs))
    ((State.setFld_keep _ _ _ h).updFigs)

theorem Keep.fillMortise {c b} (h : Keep s0 s) : Keep s0 (s.fillMortise c b) :=
  State.updCl_keep _ _ h

theorem Keep.takeTenons {c b} (h : Keep s0 s) : Keep s0 (s.takeTenons c b) :=
  Keep.ite (State.updCl_keep _ _ (State.updCl_keep _ _ h.fillMortise)) ((Keep.ite ((State.updCl_keep _ _
    h.fillMortise).underrun) ((State.updCl_keep _ _ h.fillMortise).resumePlay)).leadTaken)

theorem Keep.idlePin {p b} (h : Keep s0 s) : Keep s0 (s.idlePin p b) :=
  Keep.ite (State.updPin_keep _ _ h.flushEdge.stopPlayer) (Keep.ite (State.updPin_keep _ _ h) h)

theorem Keep.boundaryHold {p b} (h : Keep s0 s) : Keep s0 (s.boundaryHold p b) :=
  Keep.ite h.holdPin (Keep.ite h.releaseIdle h)

theorem Keep.pinBoundary {c b u finds} (h : Keep s0 s) : Keep s0 (s.pinBoundary c b u finds) :=
  (((Keep.ite h.settlePlayer.stepPin h.settlePlayer).idlePin).pmuSettle).boundaryHold

theorem Keep.forceBoundary {c b due} (h : Keep s0 s) : Keep s0 (s.forceBoundary c b due) :=
  h.adcCatchUp.latchDacs.applyValues.stepModes.applyCommands.drainDue.adcCatchUp.nextSelfTest

theorem Keep.boundary {c b finds} (h : Keep s0 s) : Keep s0 (s.boundary c b finds) :=
  Keep.foldl (((((((Keep.foldl h.dropDue.forceBoundary.takeTenons fun _ _ h0 =>
    h0.pinBoundary.flushOld).applyPulses).flowConvert).armDue).armDue).countedDecide).reportFill) fun _ _ h0 =>
    h0.showContact

theorem Keep.execTenonBoundary {c b finds} (h : Keep s0 s) : Completes s0 (execTenonBoundary c b finds s) :=
  Completes.ite (Completes.ok h) (Completes.ok ((State.at_keep _ h).boundary))

/-! The operations of `Machine/Access.lean`. -/

theorem Keep.writeField {a l v be} (h : Keep s0 s) : Keep s0 (s.writeField a l v be) :=
  Keep.ite (State.sendPin_keep _ _ h.partnerWrite) h.partnerWrite

theorem Keep.convRing {a v be r bad} (h : Keep s0 s) : Keep s0 (s.convRing a v be r bad).2 :=
  (State.setBoth_keep _ _ h).checkRing

theorem Keep.adcDmaWrite {c v be} (h : Keep s0 s) : Keep s0 (s.adcDmaWrite c v be) :=
  h.convRing.updAdc.adcDemand

theorem Keep.precDmaWrite {r v be} (h : Keep s0 s) : Keep s0 (s.precDmaWrite r v be) :=
  h.convRing.updPrec.precDemand

theorem Keep.precPowerWrite {r v be} (h : Keep s0 s) : Keep s0 (s.precPowerWrite r v be) := by
  unfold State.precPowerWrite
  exact Keep.ite h.partnerWrite h.partnerWrite.precShow

theorem Keep.commandBits {port a v be cmd} (h : Keep s0 s) : Keep s0 (s.commandBits port a v be cmd) :=
  Keep.ite h.partnerWrite (State.sendAct_keep _ _ _ h.partnerWrite)

theorem Keep.substWrite {c a v be} (h : Keep s0 s) : Keep s0 (s.substWrite c a v be) := by
  unfold State.substWrite
  split
  · exact Keep.ite h.partnerWrite (State.updEng_keep _ _ h.partnerWrite)
  · exact h.partnerWrite

theorem Keep.csCommand {port c v be finds} (h : Keep s0 s) : Keep s0 (s.csCommand port c v be finds) :=
  Keep.ite h.partnerWrite.csReadNow (Keep.ite h.partnerWrite.csWriteNow (Keep.ite h.partnerWrite.csRefuse h.partnerWrite))

theorem Keep.pmWrite {port c a v be} (h : Keep s0 s) : Keep s0 (s.pmWrite port c a v be) :=
  Keep.ite h.violation h.partnerWrite

theorem Keep.shareWrite {port r v be} (h : Keep s0 s) : Keep s0 (s.shareWrite port r v be) :=
  Keep.ite h.violation h.partnerWrite

theorem Keep.acqWrite {port a l v be} (h : Keep s0 s) : Keep s0 (s.acqWrite port a l v be) :=
  Keep.ite h.commandBits (Keep.ite (State.sendAct_keep _ _ _ h.partnerWrite) h.partnerWrite)

theorem Keep.latchWrite {port c v be} (h : Keep s0 s) : Keep s0 (s.latchWrite port c v be) :=
  h.commandBits

theorem Keep.writeCluster {port a l v be finds} (h : Keep s0 s) : Keep s0 (s.writeCluster port a l v be finds) := by
  unfold State.writeCluster
  split
  · exact Keep.ite h.modReq (Keep.ite h.svcSend h.partnerWrite)
  · exact Keep.ite h.shimSet (Keep.ite h.tiaWrite h.writeField)
  · exact Keep.ite h.latchWrite h.writeField
  · exact Keep.ite h.delta4Command h.segWordWritten.writeField
  · exact Keep.ite h.startCommand (Keep.ite h.csCommand (Keep.ite h.pmWrite (Keep.ite h.substWrite (Keep.ite h.commandBits
      h.writeField))))
  · exact Keep.ite (Keep.ite h.updScr.scribeDrain h) (Keep.ite h.scrConsume (Keep.ite h.scribeConfig h.writeField))
  · exact h.acqWrite
  · exact Keep.ite h.commandBits h.writeField
  · exact Keep.ite h.commandBits (Keep.ite h.adcDmaWrite h.writeField)
  · exact Keep.ite h.commandBits h.partnerWrite
  · exact h.writeField

theorem Keep.writeRegion {port a l v be} (h : Keep s0 s) : Keep s0 (s.writeRegion port a l v be) := by
  unfold State.writeRegion
  split
  · exact Keep.ite (Keep.ite h.tailWrite (Keep.ite (Keep.ite h.partnerWrite.ringEnable h.partnerWrite) h.partnerWrite))
      (Keep.ite h.freeRing (Keep.ite h.partnerWrite.poolConfigured (Keep.ite h.poolReturn h.partnerWrite)))
  · exact Keep.ite h.pprCommand (Keep.ite h.shareWrite (Keep.ite h.partnerWrite.patWritten h.partnerWrite))
  · exact Keep.ite (State.sendAct_keep _ _ _ h.partnerWrite) (Keep.ite h.precPowerWrite (Keep.ite h.precDmaWrite
      h.partnerWrite))
  · exact h.partnerWrite

theorem Keep.evtRelease {n value} (h : Keep s0 s) : Keep s0 (s.evtRelease n value) :=
  Keep.ite (State.setPort_keep _ _ (State.setReg_keep _ _ h)) ((State.setPort_keep _ _ (State.setReg_keep _ _ h)).msix)

theorem Keep.vlogRelease {value} (h : Keep s0 s) : Keep s0 (s.vlogRelease value) :=
  State.setReg_keep _ _ h

theorem Keep.flowCtrl {port n v be} (h : Keep s0 s) : Keep s0 (s.flowCtrl port n v be) :=
  Keep.ite ((Keep.ite h.partnerWrite.contCommand h.partnerWrite).goCommand) (Keep.ite h.partnerWrite.contCommand
    h.partnerWrite)

theorem Keep.writeHub {port a l v be} (h : Keep s0 s) : Keep s0 (s.writeHub port a l v be) := by
  unfold State.writeHub
  split
  · exact Keep.ite h.refCtrl h.partnerWrite
  · exact Keep.ite h.flowCtrl (Keep.ite h.logRelease (Keep.ite h.flowCfgWrite h.partnerWrite))
  · exact Keep.ite h.bootCtrlWrite (Keep.ite h.partnerWrite.flWrite (Keep.ite h.partnerWrite.lcCommand h.partnerWrite))
  · exact Keep.ite h.vlogRelease (Keep.ite (h.reach (fun _ h1 => h1.tailWrite)) (Keep.ite h.evtRelease h.partnerWrite))
  · exact Keep.ite (Keep.ite h.beginWipe h) h.partnerWrite
  · exact h.partnerWrite

theorem Keep.writeReg {port a v be finds} (h : Keep s0 s) : Keep s0 (s.writeReg port a v be finds) := by
  unfold State.writeReg
  split
  · refine Keep.ite h ?_
    split
    · exact h.writeCluster
    · exact h.writeRegion
    · exact h.writeHub
    · exact Keep.ite h.vynCommand h.partnerWrite
  · exact h

theorem Keep.portWriteReg {port a v be finds} (h : Keep s0 s) : Keep s0 (s.portWriteReg port a v be finds) :=
  h.reach (fun _ h0 => h0.writeReg)

theorem Keep.writeRegs {a data put} (h : Keep s0 s) (hput : ∀ t y1 y2 y3, Keep s0 t → Keep s0 (put t y1 y2 y3)) : Keep s0
    (s.writeRegs a data put) :=
  Keep.foldl h fun _ _ h0 => Keep.ite h0 (hput _ _ _ _ h0)

theorem Keep.outside {port a} (h : Keep s0 s) : Keep s0 (s.outside port a) :=
  h.violation

theorem Keep.putRecordRegs (h : Keep s0 s) : Keep s0 (s.putRecordRegs) :=
  Keep.foldl h.withFlowRegs fun _ _ h0 => Keep.ite h0 (h0.writeRegs (fun _ _ _ _ h1 => h1.writeReg))

theorem Keep.putNewRecords {s1} (h : Keep s0 s) : Keep s0 (s.putNewRecords s1) :=
  Keep.ite h h.putRecordRegs

theorem Keep.execRegisterWrite {port addr value be finds} (h : Keep s0 s) : Completes s0 (execRegisterWrite port addr value be
    finds s) :=
  Completes.ok (Keep.ite (h.reach (fun _ h0 => h0.writeReg.putNewRecords)) h.outside)

theorem Keep.execUnitMaskWrite {port c value be} (h : Keep s0 s) : Completes s0 (execUnitMaskWrite port c value be s) :=
  Completes.ok (h.reach (fun _ h0 => State.sendPin_keep _ _ h0.partnerWrite))

theorem Keep.execGtLoRead {port addr} (h : Keep s0 s) : Completes s0 (execGtLoRead port addr s) := by
  unfold Machine.execGtLoRead
  split
  · exact Completes.ok (h.readReach h.pairRead)
  · exact Completes.ok h

theorem Keep.execRcFieldRead {port addr be coinciding} (h : Keep s0 s) : Completes s0 (execRcFieldRead port addr be coinciding
    s) :=
  Completes.ite (Completes.ok h) (Completes.ite (Completes.ok (h.readReach h)) (Completes.ok (h.readReach (Keep.ite
    h.readReg (State.setReg_keep _ _ h.readReg)))))

theorem Keep.storePiece {a l bad finds} (h : Keep s0 s) : Keep s0 (s.storePiece a l bad finds) := by
  unfold State.storePiece
  refine Keep.ite ?_ ((Keep.ite h.eccRead h).storeOpt)
  split
  · next e02 =>
      exact (Keep.ite ((h.meetFlow.flowWrite _ e02).eccRead) (h.meetFlow.flowWrite _ e02)).storeOpt
  · exact h.storeOpt

theorem Keep.storeBytes {a l bad finds} (h : Keep s0 s) : Keep s0 (s.storeBytes a l bad finds) :=
  Keep.foldl h fun _ _ h0 => h0.storePiece

theorem Keep.flowFetch {l reply} (h : Keep s0 s) : KeptIn s0 id (s.flowFetch l reply) := by
  unfold State.flowFetch
  split
  · next e02 =>
      exact KeptIn.some (h.flowRead _ e02)
  · refine KeptIn.ite KeptIn.none (KeptIn.ite ?_ (KeptIn.ite (KeptIn.some h) (KeptIn.ite (KeptIn.some h.fillLine)
      KeptIn.none)))
    split
    · exact KeptIn.some h.loseLine.grantShared
    · exact KeptIn.ite (KeptIn.some (State.setDir_keep _ _ h.setHomeData.fillLine)) KeptIn.none
    · exact KeptIn.none

theorem Keep.flowFetchAll {l replies} (h : Keep s0 s) : KeptIn s0 id (s.flowFetchAll l replies) := by
  induction l generalizing s replies with
  | nil => exact KeptIn.some h
  | cons x l ih =>
    unfold State.flowFetchAll
    exact KeptIn.ite (h.flowFetch.bind fun _ ht => ih ht) (h.flowFetch.bind fun _ ht => ih ht)

theorem Keep.readMem {a n finds replies} (h : Keep s0 s) : KeptIn s0 Prod.snd (s.readMem a n finds replies) := by
  unfold State.readMem
  refine KeptIn.ite (KeptIn.some h) (KeptIn.ite KeptIn.none (KeptIn.map (KeptIn.ite h.meetFlow.flowFetchAll (KeptIn.some
    h)) (fun _ h0 => ?_)))
  split
  · dsimp only
    exact h0
  · dsimp only
    exact h0.meet

theorem Keep.localWrite {port a data finds} (h : Keep s0 s) : Keep s0 (s.localWrite port a data finds) := by
  unfold State.localWrite
  split
  · exact Keep.ite h.violation ((h.writeRegs (fun _ _ _ _ h1 => h1.portWriteReg)).putNewRecords)
  · exact h.violation
  · exact h.violation
  · refine Keep.ite h.violation (Keep.ite ?_ h.storeBytes)
    split
    · exact h.violation
    · exact h

theorem Keep.execPartnerMemoryWrite {port offset data finds} (h : Keep s0 s) : Completes s0 (execPartnerMemoryWrite port offset
    data finds s) := by
  unfold Machine.execPartnerMemoryWrite
  refine Completes.ite (Completes.ok h) (Completes.ite (Completes.ok h.violation) ?_)
  split
  · exact Completes.ok h.localWrite
  · exact Completes.ok (Keep.ite h.violation (Keep.ite h.violation (State.send_keep _ h)))
  · exact Completes.ok (Keep.ite h.violation h)

theorem Keep.complete64 {port n r} (h : Keep s0 s) : Keep s0 (s.complete64 port n r) := by
  unfold State.complete64
  split
  · exact State.send_keep _ h
  · exact State.send_keep _ h
  · exact State.send_keep _ h

theorem Keep.localRead {port a n finds replies} (h : Keep s0 s) : Keep s0 (s.localRead port a n finds replies) := by
  unfold State.localRead
  split
  · exact Keep.ite h.violation.complete64 (Keep.ite h.complete64 h.readRegs.complete64)
  · exact h.violation.complete64
  · exact KeptIn.elim h.readMem h (fun _ h1 => h1.complete64)

theorem Keep.execPartnerMemoryRead {port offset len finds remote} (h : Keep s0 s) : Completes s0 (execPartnerMemoryRead port
    offset len finds remote s) := by
  unfold Machine.execPartnerMemoryRead
  refine Completes.ite (Completes.ok h.complete64) (Completes.ite (Completes.ok h.violation.complete64) ?_)
  split
  · exact Completes.ok h.localRead
  · exact Completes.ite (Completes.ok h.violation.complete64) (Completes.ok h.complete64)
  · exact Completes.ok h.complete64

theorem Keep.execPartnerReadTimeout {port addr} (h : Keep s0 s) : Completes s0 (execPartnerReadTimeout port addr s) :=
  Completes.ok h.violation.complete64

theorem Keep.execOversizedRegisterRequest {port addr isWrite} (h : Keep s0 s) : Completes s0 (execOversizedRegisterRequest port
    addr isWrite s) :=
  Completes.ok (Keep.ite h.violation h.violation.complete64)

theorem Keep.execAtomicopRequest {port} (h : Keep s0 s) : Completes s0 (execAtomicopRequest port s) :=
  Completes.ok (State.send_keep _ h)

theorem Keep.execEvtRptrWrite {port n value} (h : Keep s0 s) : Completes s0 (execEvtRptrWrite port n value s) :=
  Completes.ok (h.reach (fun _ h0 => h0.evtRelease))

theorem Keep.execPartnerLinkTrained {port rate width} (h : Keep s0 s) : Completes s0 (execPartnerLinkTrained port rate width s)
    :=
  Completes.ite (Completes.ok (State.setFld_keep _ _ _ (State.setFld_keep _ _ _ (State.setFld_keep _ _ _ h))))
    (Completes.ite (Completes.ok h) (Completes.ok (State.setFld_keep _ _ _ (State.setFld_keep _ _ _ (State.setFld_keep _ _
    _ h)))))

theorem Keep.execExpansionLinkChange {x up bytes} (h : Keep s0 s) : Completes s0 (execExpansionLinkChange x up bytes s) :=
  Completes.ok h.putExpCap

theorem Keep.remoteWriteHere {pkg a data poison finds} (h : Keep s0 s) : Keep s0 (s.remoteWriteHere pkg a data poison finds).2
    := by
  unfold State.remoteWriteHere
  split
  · split
    · dsimp only
      exact h.violation
    · split
      · dsimp only
        exact h
      · dsimp only
        exact (h.writeRegs (fun _ _ _ _ h3 => h3.writeReg)).putNewRecords
  · dsimp only
    exact h.violation
  · dsimp only
    exact h.violation
  · split
    · dsimp only
      exact h
    · dsimp only
      exact h.storeBytes

theorem Keep.remoteReadHere {pkg a n finds} (h : Keep s0 s) : Keep s0 (s.remoteReadHere pkg a n finds).2 := by
  unfold State.remoteReadHere
  split
  · split
    · dsimp only
      exact h.violation
    · split
      · dsimp only
        exact h
      · dsimp only
        exact h.readRegs
  · dsimp only
    exact h.violation
  · dsimp only
    exact h.violation
  · exact KeptIn.getD h.readMem h

theorem Keep.execRemoteAccess {fromPkg addr data len poison finds} (h : Keep s0 s) : Completes s0 (execRemoteAccess fromPkg addr
    data len poison finds s) :=
  Completes.ite (Completes.ok (State.send_keep _ h.remoteReadHere)) (Completes.ok (State.send_keep _ h.remoteWriteHere))

/-! The operations of `Machine/Entries.lean`. -/

theorem Keep.execLogRptrWrite {port value} (h : Keep s0 s) : Completes s0 (execLogRptrWrite port value s) :=
  Completes.ok (h.reach (fun _ h0 => h0.logRelease.putNewRecords))

theorem Keep.execFlowGo {port n} (h : Keep s0 s) : Completes s0 (execFlowGo port n s) :=
  Completes.ok (h.reach (fun _ h0 => h0.goCommand.putNewRecords))

theorem Keep.execFlowStartFlag {n} (h : Keep s0 s) : Completes s0 (execFlowStartFlag n s) :=
  Completes.ite (Completes.ok (((State.setFlag_keep _ _ h).insertion).putNewRecords)) (Completes.ok h)

theorem Keep.eachSite {x act} (h : Keep s0 s) (hact : ∀ t y1, Keep s0 t → Keep s0 (act t y1)) : Keep s0 (s.eachSite x act) :=
  Keep.foldl h fun _ _ h0 => hact _ _ h0

theorem Keep.entryBegin {n x} (h : Keep s0 s) : Keep s0 (s.entryBegin n x) :=
  Keep.foldl (State.setFlow_keep _ _ (State.setFld_keep _ _ _ h)) fun _ _ h0 => (State.updSite_keep _ _ h0).stepHold

theorem Keep.flowEntry {n kind finds good act} (h : Keep s0 s) (hact : ∀ y0 t, Keep s0 t → Keep s0 (act y0 t)) :
    Keep s0 (s.flowEntry n kind finds good act) := by
  have hread : ∀ a, KeptIn s0 Prod.snd (s.engRead a 64 finds) := fun _ => h.engRead
  unfold State.flowEntry
  generalize s.engRead = read at hread ⊢
  as_aux_lemma =>
  have bad : ∀ {t x c i}, Keep s0 t →
      Keep s0 ((t.entryBegin n x).eachSite x fun u k => u.siteViolation n k x.test c i) := fun ht =>
    ht.entryBegin.eachSite fun _ _ hu => hu.siteViolation
  have fails : ∀ {t x c}, Keep s0 t → Keep s0 ((t.entryBegin n x).eachSite x fun u k => u.siteError n k 0 c) := fun ht =>
    ht.entryBegin.eachSite fun _ _ hu => hu.siteError
  refine Keep.ite ?_ h
  cases s.nextEntry n with
  | none => exact h
  | some x =>
    dsimp only
    split
    · exact h
    · next e => exact fails (hread _ _ e)
    · next e => exact fails (hread _ _ e)
    · next e =>
      have ht := hread _ _ e
      exact Keep.ite (bad ht) (Keep.ite h (Keep.ite (hact _ _ ht.entryBegin) (bad ht)))

theorem Keep.flowRun {n kind finds good act} (h : Keep s0 s) (hact : ∀ y0 t, Keep s0 t → Keep s0 (act y0 t)) : Keep s0
    (s.flowRun n kind finds good act) :=
  (h.flowEntry hact).putNewRecords

theorem Keep.flowWaits {n w} (h : Keep s0 s) : Keep s0 (s.flowWaits n w) :=
  State.updFlow_keep _ _ h

theorem Keep.needMode {n x m} (h : Keep s0 s) : Keep s0 (s.needMode n x m) :=
  h.eachSite (fun _ _ h0 => Keep.ite h0 h0.siteViolation)

theorem Keep.needReach {n x} (h : Keep s0 s) : Keep s0 (s.needReach n x) :=
  Keep.foldl h fun _ _ h0 => Keep.ite h0.siteError h0

theorem Keep.patternSetup {x cs} (h : Keep s0 s) : Keep s0 (s.patternSetup x cs) :=
  Keep.foldl h fun _ _ h0 => Keep.foldl h0.partnerWrite.partnerWrite fun _ _ h1 => Keep.ite (State.setFld_keep _ _ _
    (State.setBit_keep _ _ _ (State.setFld_keep _ _ _ h1))) (State.setBit_keep _ _ _ (State.setFld_keep _ _ _ h1))

theorem Keep.patternRun {n x} (h : Keep s0 s) : Keep s0 (s.patternRun n x) := by
  unfold State.patternRun
  dsimp only
  split
  · refine Keep.foldl (Keep.foldl h.patternSetup fun t1 x1 h1 => ?_) fun t1 x1 h1 => h1.siteError
    split
    · exact h1.refuseStart
    · exact h1
  · exact Keep.ite (Keep.foldl (State.updRun_keep _ _ h.patternSetup.newRun) fun t1 x1 h1 => (State.setFld_keep _ _ _
      h1).joinRun) ((Keep.foldl (State.updRun_keep _ _ h.patternSetup.newRun) fun t1 x1 h1 => (State.setFld_keep _ _ _
      h1).joinRun).flowWaits)

theorem Keep.execPattern {n finds} (h : Keep s0 s) : Completes s0 (execPattern n finds s) :=
  Completes.ok (h.flowRun (fun _ _ h0 => Keep.ite h0.needMode.needReach (Keep.ite h h0.needMode.needReach.patternRun)))

theorem Keep.patternDone {n x res} (h : Keep s0 s) : Keep s0 (s.patternDone n x res) := by
  unfold State.patternDone
  dsimp only
  refine Keep.foldl h fun _ _ h0 => ?_
  split
  · exact h0.siteError
  · exact Keep.ite (State.setBit_keep _ _ _ h0.setVal) h0.setVal

theorem Keep.measureSet {x p} (h : Keep s0 s) : Keep s0 (s.measureSet x p) :=
  State.sendAct_keep _ _ _ (State.sendAct_keep _ _ _ (State.setFld_keep _ _ _ (State.setFld_keep _ _ _ (State.setFld_keep
    _ _ _ h))))

theorem Keep.execMeasure {n finds} (h : Keep s0 s) : Completes s0 (execMeasure n finds s) :=
  Completes.ok (h.flowRun (fun _ _ h0 => (Keep.foldl (Keep.foldl h0.needMode.needReach fun _ _ h1 => Keep.ite
    h1.siteViolation h1) fun _ _ h1 => h1.measureSet).flowWaits))

theorem Keep.paramRecord {n site x lo hi flags} (h : Keep s0 s) : Keep s0 (s.paramRecord n site x lo hi flags) :=
  h.logEmit

theorem Keep.measureDone {n x res} (h : Keep s0 s) : Keep s0 (s.measureDone n x res) :=
  Keep.foldl h fun _ _ h0 => Keep.ite h0.setVal.setVal.paramRecord h0.setVal.setVal

theorem Keep.sharedRead {a n write finds} (h : Keep s0 s) : KeptIn s0 Prod.snd (s.sharedRead a n write finds) :=
  KeptIn.ite (KeptIn.some h) (KeptIn.map h.meetFlow.flowTake (fun _ h0 => h0.meet))

theorem Keep.sharedThen {n x r act} (h : Keep s0 (r).2) (hact : ∀ y0 t, Keep s0 t → Keep s0 (act y0 t)) : Keep s0
    (State.sharedThen n x r act) := by
  unfold State.sharedThen
  split
  · exact h.eachSite (fun t1 _ h1 => h1.siteError)
  · exact h.eachSite (fun t1 _ h1 => h1.siteError)
  · exact hact _ _ h

theorem Keep.limitSite {n x lo hi site} (h : Keep s0 s) : Keep s0 (s.limitSite n x lo hi site) :=
  Keep.ite ((Keep.ite (Keep.ite (State.setBit_keep _ _ _ h) (State.setBit_keep _ _ _ (State.setFld_keep _ _ _
    (State.setFld_keep _ _ _ (State.setBit_keep _ _ _ h))))) h).paramRecord) (Keep.ite (Keep.ite (State.setBit_keep _ _ _
    h) (State.setBit_keep _ _ _ (State.setFld_keep _ _ _ (State.setFld_keep _ _ _ (State.setBit_keep _ _ _ h))))) h)

theorem Keep.limitAll {n x lo hi} (h : Keep s0 s) : Keep s0 (s.limitAll n x lo hi) :=
  Keep.ite (Keep.foldl (Keep.foldl h fun _ _ h0 => h0.limitSite) fun _ _ h0 => h0.siteEnd) (Keep.foldl h fun _ _ h0
    => h0.limitSite)

theorem Keep.execLimit {n finds} (h : Keep s0 s) : Completes s0 (execLimit n finds s) :=
  Completes.ok (h.flowRun (fun _ _ h0 => Keep.ite (KeptIn.elim h0.sharedRead h (fun _ h1 => h1.sharedThen (fun _ _ h2
    => h2.limitAll))) h0.limitAll))

theorem Keep.execBranch {n finds} (h : Keep s0 s) : Completes s0 (execBranch n finds s) :=
  Completes.ok (h.flowRun (fun _ _ h0 => h0.eachSite (fun _ _ h1 => Keep.ite (State.updSite_keep _ _ h1) h1)))

theorem Keep.execBin {n finds} (h : Keep s0 s) : Completes s0 (execBin n finds s) :=
  Completes.ok (h.flowRun (fun _ _ h0 => h0.eachSite (fun _ _ h1 => Keep.ite h1 (State.setBit_keep _ _ _
    (State.setFld_keep _ _ _ (State.setFld_keep _ _ _ h1))))))

theorem Keep.execLog {n finds} (h : Keep s0 s) : Completes s0 (execLog n finds s) :=
  Completes.ok (h.flowRun (fun _ _ h0 => h0.eachSite (fun _ _ h1 => h1.logEmit)))

theorem Keep.execCal {n finds} (h : Keep s0 s) : Completes s0 (execCal n finds s) :=
  Completes.ok (h.flowRun (fun _ _ h0 => Keep.ite ((Keep.foldl h0.needReach fun _ _ h1 => Keep.ite ((Keep.ite
    h1.calRequest h1).calRequest) (Keep.ite h1.calRequest h1)).flowWaits) (Keep.foldl h0.needReach fun _ _ h1 =>
    Keep.ite ((Keep.ite h1.calRequest h1).calRequest) (Keep.ite h1.calRequest h1))))

theorem Keep.calDone {x rejects} (h : Keep s0 s) : Keep s0 (s.calDone x rejects) :=
  Keep.foldl h fun _ _ h0 => h0.setVal

theorem Keep.execFlowWait {n finds} (h : Keep s0 s) : Completes s0 (execFlowWait n finds s) :=
  Completes.ok (h.flowRun (fun _ _ h0 => h0.flowWaits))

theorem Keep.shareSite {x a site} (h : Keep s0 s) : Keep s0 (s.shareSite x a site) := by
  unfold State.shareSite
  split
  · exact h.setVal
  · exact h.storeAll
  · exact h.storeAll.setVal

theorem Keep.execShare {n finds} (h : Keep s0 s) : Completes s0 (execShare n finds s) :=
  Completes.ok (h.flowRun (fun _ _ h0 => KeptIn.elim h0.sharedRead h (fun _ h1 => h1.sharedThen (fun _ _ h2 =>
    h2.eachSite (fun _ _ h3 => h3.shareSite)))))

theorem Keep.execEndEntry {n finds} (h : Keep s0 s) : Completes s0 (execEndEntry n finds s) :=
  Completes.ok (h.flowRun (fun _ _ h0 => h0.eachSite (fun _ _ h1 => h1.siteEnd)))

theorem Keep.waitOver {n g x} (h : Keep s0 s) : KeptIn s0 id (s.waitOver n g x) := by
  unfold State.waitOver
  split
  · exact KeptIn.none
  · exact KeptIn.some h
  · exact KeptIn.ite (KeptIn.some h.patternDone) KeptIn.none
  · exact KeptIn.ite (KeptIn.some h.measureDone) KeptIn.none
  · exact KeptIn.ite (KeptIn.some h.calDone) KeptIn.none
  · exact KeptIn.ite (KeptIn.some h) KeptIn.none
  · exact KeptIn.ite (KeptIn.some h) KeptIn.none
  · exact KeptIn.none

theorem Keep.advanceSites {n x} (h : Keep s0 s) : Keep s0 (s.advanceSites n x) :=
  Keep.foldl h fun _ _ h0 => Keep.ite ((State.updSite_keep _ _ h0).stepHold) (State.updSite_keep _ _ h0)

theorem Keep.entryOver {n x} (h : Keep s0 s) : Keep s0 (s.entryOver n x) :=
  Keep.ite h.flowWaits ((State.setFlow_keep _ _ h.advanceSites).insertionEnd)

theorem Keep.execFlowEntryComplete {n g} (h : Keep s0 s) : Completes s0 (execFlowEntryComplete n g s) := by
  unfold Machine.execFlowEntryComplete
  split
  · exact Completes.ok h
  · exact Completes.ok (KeptIn.elim ((State.at_keep _ h).waitOver) h (fun _ h1 => h1.entryOver.putNewRecords))

theorem Keep.execSummaryArrive {c} (h : Keep s0 s) : Completes s0 (execSummaryArrive c s) := by
  unfold Machine.execSummaryArrive
  split
  · exact Completes.ok h
  · exact Completes.ite (Completes.ok ((State.updCl_keep _ _ h.withBench).reportFill)) (Completes.ok (State.updCl_keep _ _
      h))

theorem Keep.deliver {y} (h : Keep s0 s) : Keep s0 (s.deliver y) := by
  unfold State.deliver
  split
  · exact State.updFlow_keep _ _ h
  · exact h

theorem Keep.execBenchTake (h : Keep s0 s) : Completes s0 (execBenchTake s) := by
  unfold Machine.execBenchTake
  split
  · exact Completes.ok h
  · exact Completes.ite (Completes.ok h.withBench.logEmit.deliver.putNewRecords) (Completes.ok h)

theorem Keep.execPackageSummaryTake {arrived} (h : Keep s0 s) : Completes s0 (execPackageSummaryTake arrived s) := by
  unfold Machine.execPackageSummaryTake
  dsimp only
  split
  · exact Completes.ok (Keep.ite h.withPkgBench h)
  · exact Completes.ite (Completes.ok ((((Keep.ite h.withPkgBench h).withPkgBench).logEmit).putNewRecords)) (Completes.ok
      (Keep.ite h.withPkgBench h))

/-! The operations of `Machine/Dma.lean`. -/

theorem Keep.dmaSecure {n a} (h : Keep s0 s) : Keep s0 (s.dmaSecure n a) := by
  unfold State.dmaSecure
  split
  · exact Keep.ite h.violation h
  · exact h

theorem Keep.dmaRead {a k finds remote} (h : Keep s0 s) : Keep s0 (s.dmaRead a k finds remote).2 := by
  unfold State.dmaRead
  split
  · dsimp only
    exact h
  · split
    · dsimp only
      exact h
    · split
      · dsimp only
        exact h
      · dsimp only
        exact h
      · dsimp only
        exact h
    · split
      · split
        · dsimp only
          exact h
        · dsimp only
          exact h.readRegs
      · split
        · next e33 =>
            dsimp only
            exact h.readMem _ e33
        · next e32 =>
            dsimp only
            exact h.readMem _ e32
        · next e32 =>
            dsimp only
            exact h.readMem _ e32
        · dsimp only
          exact h

theorem Keep.dmaWrite {a l finds poison} (h : Keep s0 s) : Keep s0 (s.dmaWrite a l finds poison) := by
  unfold State.dmaWrite
  split
  · exact Keep.ite ((h.writeRegs (fun _ _ _ _ h1 => h1.writeReg)).putNewRecords) h.storeBytes
  · exact State.send_keep _ h
  · exact h

theorem Keep.triedWrite {a l poison} (h : Keep s0 s) : Keep s0 (s.triedWrite a l poison) :=
  Keep.ite h.dmaWrite h

theorem Keep.stopRingAt {n i code} (h : Keep s0 s) : Keep s0 (s.stopRingAt n i code) :=
  (State.setFld_keep _ _ _ (State.setBit_keep _ _ _ h)).event

theorem Keep.stopRing {n code} (h : Keep s0 s) : Keep s0 (s.stopRing n code) :=
  h.stopRingAt

theorem Keep.doneEvent {n d x} (h : Keep s0 s) : Keep s0 (s.doneEvent n d x) :=
  Keep.ite h.eventPort h

theorem Keep.completionWrites {d x finds} (h : Keep s0 s) : Keep s0 (s.completionWrites d x finds) :=
  h.dmaWrite.dmaWrite

theorem Keep.complete {n x finds fails} (h : Keep s0 s) : Keep s0 (s.complete n x finds fails) := by
  unfold State.complete
  split
  · exact h
  · exact Keep.ite ((State.updRing_keep _ _ h.triedWrite).stopRing) (State.countSat_keep _ _ _ (State.setFld_keep _ _ _
      (State.setFld_keep _ _ _ (State.updRing_keep _ _ h.completionWrites.doneEvent))))

theorem Keep.holdDesc {n addr l} (h : Keep s0 s) : Keep s0 (s.holdDesc n addr l) := by
  unfold State.holdDesc
  exact State.updRing_keep _ _ h

theorem Keep.takeDesc {n addr l finds fails} (h : Keep s0 s) : Keep s0 (s.takeDesc n addr l finds fails) :=
  Keep.ite h.holdDesc.complete h.holdDesc

theorem Keep.fetchedDesc {n addr l finds fails} (h : Keep s0 s) : Keep s0 (s.fetchedDesc n addr l finds fails) := by
  unfold State.fetchedDesc
  split
  · exact h.holdDesc.complete
  · exact Keep.ite h.takeDesc (State.updRing_keep _ _ h)

theorem Keep.execDescriptorFetch {ring finds remote fails} (h : Keep s0 s) : Completes s0 (execDescriptorFetch ring finds remote
    fails s) := by
  unfold Machine.execDescriptorFetch
  dsimp only
  refine Completes.ite ?_ (Completes.ok h)
  split
  · exact Completes.ok h
  · next e02 =>
      exact Completes.ok (((h.dmaRead.snd_eq e02).dmaSecure).stopRing)
  · next e03 =>
      exact Completes.ok ((h.dmaRead.snd_eq e03).stopRing)
  · next e03 =>
      exact Completes.ok ((h.dmaRead.snd_eq e03).fetchedDesc)

theorem Keep.roomFrom {n finds k i need replies} (h : Keep s0 s) : Keep s0 (s.roomFrom n finds k i need replies).2 := by
  delta State.roomFrom
  refine brecOn_induct (M := fun _ => State → Nat → Nat → List Payload → Room × State)
    (fun _ next => ∀ s i need replies, Keep s0 s → Keep s0 (next s i need replies).2) (fun _ _ _ _ _ h => h) ?_ k
    s i need replies h
  intro k f ih s i need replies h
  delta State.roomFrom._f
  dsimp only
  split
  · exact h
  · split
    · exact h
    · next e => exact (h.dmaRead.snd_eq e).dmaSecure
    · next e => exact h.dmaRead.snd_eq e
    · next e =>
      split
      · exact ih _ _ _ _ (h.dmaRead.snd_eq e)
      · exact h.dmaRead.snd_eq e

theorem Keep.hasRoom {n need finds replies} (h : Keep s0 s) : Keep s0 (s.hasRoom n need finds replies).2 := by
  unfold State.hasRoom
  split
  · exact h.roomFrom
  · dsimp only
    exact h

theorem Keep.countShare {r g bytes a} (h : Keep s0 s) : Keep s0 (s.countShare r g bytes a) := by
  unfold State.countShare
  split
  · exact State.updRg_keep _ _ h
  · exact State.updRg_keep _ _ h
  · exact h

theorem Keep.readSource {n finds a} (h : Keep s0 s) : Keep s0 (s.readSource n finds a) := by
  unfold State.readSource
  split
  · exact Keep.foldl h fun _ _ h1 => h1.eccRead
  · exact h.updAcqRing
  · exact h

theorem Keep.beginBurst {n g b} (h : Keep s0 s) : Keep s0 (s.beginBurst n g b) :=
  Keep.ite (State.setChan_keep _ _ ((State.setBit_keep _ _ _ (State.setBit_keep _ _ _ h)).countShare)) (State.setFld_keep
    _ _ _ (State.setBit_keep _ _ _ (State.setChan_keep _ _ ((State.setBit_keep _ _ _ (State.setBit_keep _ _ _
    h)).countShare))))

theorem Keep.starve {n} (h : Keep s0 s) : Keep s0 (s.starve n) :=
  State.updRing_keep _ _ (State.setBit_keep _ _ _ h)

theorem Keep.execBurstStart {ring g finds remote} (h : Keep s0 s) : Completes s0 (execBurstStart ring g finds remote s) := by
  unfold Machine.execBurstStart
  refine Completes.ite ?_ (Completes.ok h)
  split
  · refine Completes.ite (Completes.ok ((State.at_keep _ h).beginBurst)) (Completes.ite (Completes.ok (State.at_keep _ h))
      ?_)
    split
    · next e12 =>
        exact Completes.ok (KeptIn.elim (KeptIn.const (((State.at_keep _ h).hasRoom).snd_eq e12)) (((State.at_keep _
          h).hasRoom).snd_eq e12) (fun _ _ => ((((State.at_keep _ h).hasRoom).snd_eq e12).readSource).beginBurst))
    · next e12 =>
        exact Completes.ok (Keep.ite (((State.at_keep _ h).hasRoom).snd_eq e12) ((((State.at_keep _ h).hasRoom).snd_eq
          e12).starve))
    · exact Completes.ok (State.at_keep _ h)
    · next e14 =>
        exact Completes.ok ((((State.at_keep _ h).hasRoom).snd_eq e14).stopRingAt)
  · exact Completes.ok (Keep.ite (State.at_keep _ h) ((State.at_keep _ h).starve))

theorem Keep.markPreempted {e ch} (h : Keep s0 s) : Keep s0 (s.markPreempted e ch) :=
  State.setBit_keep _ _ _ (Keep.foldl h fun _ _ h0 => Keep.ite (State.setBit_keep _ _ _ h0) h0)

theorem Keep.updBurst {ch f} (h : Keep s0 s) : Keep s0 (s.updBurst ch f) :=
  State.setChan_keep _ _ h

theorem Keep.takeTurn {e ch} (h : Keep s0 s) : Keep s0 (s.takeTurn e ch) :=
  (Keep.foldl h fun _ _ h0 => Keep.ite h0.updBurst h0).updBurst

theorem Keep.completeRecv {n result finds fails} (h : Keep s0 s) : Keep s0 (s.completeRecv n result finds fails) :=
  h.complete

theorem Keep.receiveBeat {ch n d b finds fails} (h : Keep s0 s) : Keep s0 (s.receiveBeat ch n d b finds fails) :=
  Keep.ite h.triedWrite.dmaSecure.updBurst.complete (Keep.ite ((State.updRing_keep _ _ h.dmaWrite.updBurst).completeRecv)
    (State.updRing_keep _ _ h.dmaWrite.updBurst))

theorem Keep.poolBeat {ch n d b finds fails} (h : Keep s0 s) : Keep s0 (s.poolBeat ch n d b finds fails) := by
  unfold State.poolBeat
  dsimp only
  split
  · next e03 =>
      exact (State.updRing_keep _ _ (Keep.ite (h.takeBuffer.snd_eq e03) ((h.takeBuffer.snd_eq e03).dmaWrite))).receiveBeat
  · next e02 =>
      exact State.updRg_keep _ _ (State.setBit_keep _ _ _ ((h.takeBuffer.snd_eq e02).updBurst))

theorem Keep.copyError {ch n side a finds fails} (h : Keep s0 s) : Keep s0 (s.copyError ch n side a finds fails) :=
  h.dmaSecure.updBurst.complete

theorem Keep.copyBeat {ch n d finds remote fails} (h : Keep s0 s) : Keep s0 (s.copyBeat ch n d finds remote fails) := by
  unfold State.copyBeat
  dsimp only
  split
  · exact h
  · next e02 =>
      exact (h.dmaRead.snd_eq e02).copyError
  · next e04 =>
      exact Keep.ite (((h.dmaRead.snd_eq e04).triedWrite).copyError) (Keep.ite ((State.updRing_keep _ _ (((h.dmaRead.snd_eq
        e04).dmaWrite).updBurst)).complete) (State.updRing_keep _ _ (((h.dmaRead.snd_eq e04).dmaWrite).updBurst)))

theorem Keep.moveBeat {ch finds remote fails} (h : Keep s0 s) : Keep s0 (s.moveBeat ch finds remote fails) := by
  unfold State.moveBeat
  split
  · split
    · exact Keep.ite h.copyBeat (Keep.ite h.poolBeat h.receiveBeat)
    · exact h
  · exact h

theorem Keep.setDmaLast {e ch} (h : Keep s0 s) : Keep s0 (s.setDmaLast e ch) :=
  h.putDmaLast

theorem Keep.execDmaBeat {e finds remote fails} (h : Keep s0 s) : Completes s0 (execDmaBeat e finds remote fails s) := by
  unfold Machine.execDmaBeat
  split
  · exact Completes.ite (Completes.ok h.markPreempted.setDmaLast.takeTurn.moveBeat) (Completes.ok h)
  · exact Completes.ok h

theorem Keep.releaseBurst {base a} (h : Keep s0 s) : Keep s0 (s.releaseBurst base a) := by
  unfold State.releaseBurst
  split
  · exact (Keep.ite h.scrRelease h).scribeDrain
  · exact h.updAcqRing.acqRequest
  · exact h.updAdc.adcDemand
  · exact h.updPrec.precDemand
  · exact h

theorem Keep.paceRing {n} (h : Keep s0 s) : Keep s0 (s.paceRing n) :=
  Keep.ite h.raise h

theorem Keep.closeDesc {n finds fails} (h : Keep s0 s) : Keep s0 (s.closeDesc n finds fails) := by
  unfold State.closeDesc
  split
  · exact Keep.ite h.completeRecv h
  · exact h

theorem Keep.execBurstComplete {ring finds fails} (h : Keep s0 s) : Completes s0 (execBurstComplete ring finds fails s) := by
  unfold Machine.execBurstComplete
  dsimp only
  split
  · exact Completes.ite (Completes.ite (Completes.ok h.closeDesc) (Completes.ok (((State.setBit_keep _ _ _
      (State.setBit_keep _ _ _ (State.setChan_keep _ _ h.closeDesc))).releaseBurst).paceRing))) (Completes.ok h)
  · exact Completes.ok h

/-! The operations of `Machine/JigLoad.lean`. -/

theorem Keep.reportHead {bank} (h : Keep s0 s) : Keep s0 (s.reportHead bank) :=
  State.putBytes_keep _ _ h

theorem Keep.report {kind inst idx sat addr} (h : Keep s0 s) : Keep s0 (s.report kind inst idx sat addr) := by
  unfold State.report
  exact State.updBoot_keep _ (Keep.ite (State.putBytes_keep _ _ (State.putBytes_keep _ _ h)) (State.putBytes_keep _ _ h))

theorem Keep.applyRepair {b k} (h : Keep s0 s) : Keep s0 (s.applyRepair b k) := by
  unfold State.applyRepair
  dsimp only
  split
  · exact Keep.ite h.mapRow ((State.useFree_keep h).report)
  · exact (State.useFree_keep h).report

theorem Keep.applyRepairs {b n k} (h : Keep s0 s) : Keep s0 (s.applyRepairs b n k) := by
  induction n generalizing s k with
  | zero => exact h
  | succ n ih =>
    unfold State.applyRepairs
    exact Keep.ite h (ih h.applyRepair)

theorem Keep.loadRepair {b} (h : Keep s0 s) : Keep s0 (s.loadRepair b) :=
  Keep.ite h.applyRepairs h

theorem Keep.deviceWrite {a v} (h : Keep s0 s) : Keep s0 (s.deviceWrite a v) :=
  Keep.ite h h.writeReg

theorem Keep.configWrite {b k} (h : Keep s0 s) : Keep s0 (s.configWrite b k) := by
  unfold State.configWrite
  exact Keep.ite h.report h.deviceWrite

theorem Keep.configPrelude {b} (h : Keep s0 s) : Keep s0 (s.configPrelude b) := by
  unfold State.configPrelude
  exact State.updBoot_keep _ (State.setFld_keep _ _ _ (State.setFld_keep _ _ _ ((State.setFld_keep _ _ _
    (State.setFld_keep _ _ _ (State.setFld_keep _ _ _ h))).latchVsel)))

theorem Keep.loadConfig {b} (h : Keep s0 s) : Keep s0 (s.loadConfig b) :=
  Keep.foldl h.configPrelude fun _ _ h0 => h0.configWrite

theorem Keep.storeReached {a l kept} (h : Keep s0 s) : Keep s0 (s.storeReached a l kept) :=
  Keep.foldl h fun _ _ h0 => Keep.ite h0 h0.storeAll

theorem Keep.loadWords {b n off k put} (h : Keep s0 s) (hput : ∀ t y1 y2, Keep s0 t → Keep s0 (put t y1 y2)) : Keep s0
    (s.loadWords b n off k put) :=
  Keep.foldl h fun _ _ h0 => hput _ _ _ h0

theorem Keep.loadReg {a w} (h : Keep s0 s) : Keep s0 (s.loadReg a w) :=
  Keep.ite h (State.setForce_keep _ _ h.partnerWrite)

theorem Keep.codeRecord {x boot} (h : Keep s0 s) : Keep s0 (s.codeRecord x boot).2 := by
  unfold State.codeRecord
  split
  · dsimp only
    exact h.delta4Refuse
  · dsimp only
    exact Keep.ite ((State.setBit_keep _ _ _ (State.setFld_keep _ _ _ h.toDelta4)).report) (State.setBit_keep _ _ _
      (State.setFld_keep _ _ _ h.toDelta4))

theorem Keep.doRecord {b n boot fetchErrors x} (h : Keep s0 s) : Keep s0 (s.doRecord b n boot fetchErrors x).2 := by
  unfold State.doRecord
  split
  · dsimp only
    exact h
  · split
    · dsimp only
      exact h.storeReached
    · dsimp only
      exact Keep.foldl h fun t2 x2 h2 => h2.deviceWrite
    · dsimp only
      exact Keep.foldl h fun t2 x2 h2 => (h2.loadWords (fun _ _ _ h3 => h3.partnerWrite)).patWritten
    · split
      · dsimp only
        exact h.storeReached
      · dsimp only
        exact State.updBoot_keep _ (Keep.ite h.report h)
    · dsimp only
      exact h.loadWords (fun t2 _ _ h2 => h2.loadReg)
    · exact h.codeRecord

theorem Keep.doRecords {b n boot fetchErrors l} (h : Keep s0 s) : Keep s0 (s.doRecords b n boot fetchErrors l).2 := by
  induction l generalizing s with
  | nil => exact h
  | cons x l ih =>
    unfold State.doRecords
    dsimp only
    split
    · exact ih h.doRecord
    · exact h.doRecord

theorem Keep.loaded {r} (h : Keep s0 (r).2) : KeptIn s0 id (loaded r) :=
  KeptIn.ite (KeptIn.some h) KeptIn.none

theorem Keep.damageRange {dest n} (h : Keep s0 s) : Keep s0 (s.damageRange dest n) :=
  Keep.foldl h fun _ _ h0 => Keep.ite (State.setBit_keep _ _ _ h0) h0

theorem Keep.damageLate (h : Keep s0 s) : Keep s0 (s.damageLate) := by
  unfold State.damageLate
  exact State.updBoot_keep _ (Keep.foldl h fun _ _ h0 => h0.damageRange)

theorem Keep.loadCalseed {b c} (h : Keep s0 s) : Keep s0 (s.loadCalseed b c) := by
  unfold State.loadCalseed
  exact Keep.ite (State.setBit_keep _ _ _ (State.setBit_keep _ _ _ ((Keep.foldl h fun _ _ h0 => h0.shimSet).updGauge)))
    h

theorem Keep.loadRoles {b} (h : Keep s0 s) : Keep s0 (s.loadRoles b) :=
  Keep.ite (Keep.foldl (State.setFld_keep _ _ _ (State.setFld_keep _ _ _ (State.setFld_keep _ _ _ h))) fun _ _ h0 =>
    State.setFld_keep _ _ _ h0) h

theorem Keep.takeBoot {t} (h : Keep s0 s) (ht : Keep s0 t) : Keep s0 (State.takeBoot t s) :=
  ⟨ht.queue, fun c => { ht.canonical c with regs := twf_filter _ _ _ (h.canonical c).regs }⟩

theorem Keep.keepFences {s1} (h : Keep s0 s) : Keep s0 (s.keepFences s1) :=
  Keep.foldl h fun _ _ h0 => Keep.ite (Keep.foldl (State.updRg_keep _ _ h0) fun _ _ h1 => h1.safeHold)
    (State.updRg_keep _ _ h0)

theorem Keep.loadFailed {sect cause} (h : Keep s0 s) : Keep s0 (s.loadFailed sect cause) :=
  Keep.ite ((State.setBit_keep _ _ _ ((h.takeBoot h.packageReset).keepFences)).bootBank) (((h.takeBoot
    h.packageReset).keepFences).bootFailed)

theorem Keep.loadSection {b n fetchErrors} (h : Keep s0 s) : KeptIn s0 id (s.loadSection b n fetchErrors) := by
  have recs : ∀ m, KeptIn s0 id ((s.records b m).bind fun l => Machine.loaded (s.doRecords b m true fetchErrors l)) := fun m =>
    KeptIn.bind (g := fun _ => s) (fun _ _ => h) fun _ _ => h.doRecords.loaded
  unfold State.loadSection
  split
  · exact KeptIn.self h.loadConfig
  · exact KeptIn.self (Keep.foldl h fun _ _ ht => State.setFld_keep _ _ _ ht.loadCstore)
  · exact KeptIn.self (Keep.foldl h fun _ _ ht => ht.loadPatch)
  · exact (recs 5).map fun _ ht => Keep.damageLate ht
  · exact KeptIn.self (Keep.foldl h fun _ _ ht => ht.loadCalseed)
  · exact KeptIn.self h.reportHead.loadRepair.loadRepair
  · exact KeptIn.self h.loadRoles
  · exact recs _

theorem Keep.execBootSectionLoad {flashError fetchErrors} (h : Keep s0 s) : Completes s0 (execBootSectionLoad flashError
    fetchErrors s) := by
  unfold Machine.execBootSectionLoad
  refine Completes.ite (Completes.ite (Completes.ok h.loadFailed) (Completes.ite (Completes.ok h.loadFailed)
    (Completes.ite (Completes.ok h) ?_))) (Completes.ok h)
  split
  · next e02 =>
      exact Completes.ok (Keep.ite ((State.updBoot_keep _ (h.loadSection _ e02)).bootCalibrate) (State.updBoot_keep _
        (h.loadSection _ e02)))
  · exact Completes.ok h.loadFailed

theorem Keep.enterModes (h : Keep s0 s) : Keep s0 (s.enterModes) :=
  Keep.foldl (Keep.foldl h fun _ _ h0 => (State.setBoth_keep _ _ h0).modReqNow) fun _ _ h0 => h0.precPowerWrite

theorem Keep.execBootPhase8 {g} (h : Keep s0 s) : Completes s0 (execBootPhase8 g s) :=
  Completes.ite (Completes.ok (Keep.foldl (State.updBoot_keep _ (State.setBit_keep _ _ _ (State.setBit_keep _ _ _
    ((State.at_keep _ h).enterModes)))) fun _ _ h0 => Keep.ite h0.insertion.putNewRecords h0)) (Completes.ok h)

theorem Keep.activateHub {b fetchErrors} (h : Keep s0 s) : KeptIn s0 id (s.activateHub b fetchErrors) := by
  unfold State.activateHub
  refine KeptIn.ite ?_ KeptIn.none
  split
  · exact KeptIn.ite KeptIn.none (KeptIn.bind h.doRecords.loaded (fun _ h1 => KeptIn.map h1.doRecords.loaded (fun _ h2 =>
      h2.damageLate)))
  · exact KeptIn.none

theorem Keep.execActHubDone {flashError fetchErrors} (h : Keep s0 s) : Completes s0 (execActHubDone flashError fetchErrors s) := by
  unfold Machine.execActHubDone
  refine Completes.ite (Completes.ite (Completes.ok h) ?_) (Completes.ok h)
  split
  · next e02 =>
      exact Completes.ok (State.updBoot_keep _ (State.setBit_keep _ _ _ (State.setReg_keep _ _ (State.setFld_keep _ _ _
        ((KeptIn.ite KeptIn.none h.activateHub) _ e02)))))
  · exact Completes.ok (State.updBoot_keep _ (State.setBit_keep _ _ _ (State.setBit_keep _ _ _ h)))

theorem Keep.svcFlashFail {c} (h : Keep s0 s) : Keep s0 (s.svcFlashFail c) :=
  (State.useFree_keep h).svcEnd

theorem Keep.reloadDone {c result} (h : Keep s0 s) : Keep s0 (s.reloadDone c result) :=
  Keep.ite h.svcFlashFail (Keep.ite h.svcEnd h.loadCstore.loadPatch.releaseStarts.svcEnd)

theorem Keep.memtestDone {c faultyRows} (h : Keep s0 s) : Keep s0 (s.memtestDone c faultyRows) :=
  (Keep.foldl (State.setFld_keep _ _ _ (State.setBit_keep _ _ _ h)) fun _ _ h0 => h0.repairRow (fun _ h1 =>
    State.setBit_keep _ _ _ h1)).svcEnd

theorem Keep.clusterConfig {b c} (h : Keep s0 s) : Keep s0 (s.clusterConfig b c) := by
  unfold State.clusterConfig
  dsimp only
  refine Keep.foldl h fun _ _ h0 => ?_
  split
  · exact Keep.ite h0.deviceWrite h0
  · exact h0

theorem Keep.activateParts {b c} (h : Keep s0 s) : Keep s0 (s.activateParts b c).2 := by
  unfold State.activateParts
  dsimp only
  split
  · split
    · dsimp only
      exact State.setFld_keep _ _ _ h.loadCstore.loadPatch.releaseStarts.doRecords.loadCalseed.clusterConfig
    · exact h.loadCstore.loadPatch.releaseStarts.doRecords
  · dsimp only
    exact h

theorem Keep.activateCluster {b c} (h : Keep s0 s) : Keep s0 (s.activateCluster b c).2 := by
  unfold State.activateCluster
  split
  · exact h.activateParts
  · dsimp only
    exact h

theorem Keep.activateSpoilt {b c spoilt} (h : Keep s0 s) : Keep s0 (s.activateSpoilt b c spoilt).2 := by
  unfold State.activateSpoilt
  dsimp only
  have k : Keep s0 (spoilt.foldl (fun t x => (t.putFlash x.1 (t.freeBytes x.2)).useFrees x.2) s) :=
    Keep.foldl h fun _ _ ht => (State.putFlash_keep _ _ ht).useFrees
  have r : ∀ u : Bool × State, Keep s0 u.2 → Keep s0 { u.2 with flash := s.flash } := fun u hu =>
    ⟨hu.queue, fun c => { hu.canonical c with flash := (h.canonical c).flash }⟩
  split
  · exact r (false, _) (State.useFree_keep k)
  · exact r _ (State.useFree_keep k).activateParts

theorem Keep.activateDone {c v result} (h : Keep s0 s) : Keep s0 (s.activateDone c v result) := by
  unfold State.activateDone
  refine Keep.ite h.svcFlashFail (Keep.svcEnd ?_)
  split
  · exact h.activateSpoilt
  · split
    · dsimp only
      exact h
    · exact h.activateCluster

theorem Keep.lowPowerBack {c v} (h : Keep s0 s) : Keep s0 (s.lowPowerBack c v) :=
  State.setBoth_keep _ _ h

theorem Keep.recoverDone {c v} (h : Keep s0 s) : Keep s0 (s.recoverDone c v) := by
  unfold State.recoverDone
  split
  · exact h.lowPowerBack.svcEnd
  · exact Keep.ite ((State.setBit_keep _ _ _ h.lowPowerBack.modReqNow).svcEnd) h

theorem Keep.execSvcCommandDone {c g result faultyRows} (h : Keep s0 s) : Completes s0 (execSvcCommandDone c g result faultyRows
    s) := by
  unfold Machine.execSvcCommandDone
  split
  · refine Completes.ok ?_
    split
    · exact h.reloadDone
    · exact h.memtestDone
    · exact h.activateDone
    · exact Keep.ite ((State.at_keep _ h).recoverDone) h
    · exact h
  · exact Completes.ok h

/-! The operations of `Machine/Dispatch.lean`. -/

theorem Keep.exec {i} (h : Keep s0 s) : Completes s0 (exec i s) := by
  unfold Machine.exec
  split
  · exact h.execResetNLow
  · exact h.execResetNHigh
  · exact h.execBootHeadersRead
  · exact h.execBootSectionLoad
  · exact h.execFetchTimeout
  · exact h.execBootPhase8
  · exact h.execHbmInitDone
  · exact h.execRailUndervoltage
  · exact h.execFrontEndRailFault
  · exact h.execHbmRailFault
  · exact h.execTempRead
  · exact h.execVcoreMeasure
  · exact h.execTimebaseLock
  · exact h.execHoldoverEntry
  · exact h.execRefReturn
  · exact h.execPhaseSlewStep
  · exact h.execHoldoverTimeout
  · exact h.execRefCtrlWrite
  · exact h.execGtLoRead
  · exact h.execRegisterWrite
  · exact h.execRcFieldRead
  · exact h.execWriteReachesPinTime
  · exact h.execUnitMaskWrite
  · exact h.execTenonProduced
  · exact h.execTenonBoundary
  · exact h.execRunStartGrain
  · exact h.execLinkHeartbeat
  · exact h.execLinkSilent
  · exact h.execSafeStateEntry
  · exact h.execSliceDieFence
  · exact h.execEngStart
  · exact h.execRunStart
  · exact h.execCycleStart
  · exact h.execDriveEdge
  · exact h.execStrobeTaken
  · exact h.execScribeLineWrite
  · exact h.execScrFlush
  · exact h.execScrRptrWrite
  · exact h.execScribeConfigWrite
  · exact h.execPinEdgeStamped
  · exact h.execTiaModeWrite
  · exact h.execTiaRes0Read
  · exact h.execShimTargetWrite
  · exact h.execHandoverStart
  · exact h.execAdvCondSample
  · exact h.execDelta4Convert
  · exact h.execDelta4Done
  · exact h.execProtectionSample
  · exact h.execLatchClearWrite
  · exact h.execWordOpen
  · exact h.execNext
  · exact h.execJump
  · exact h.execBranchTakeEffect
  · exact h.execCall
  · exact h.execRet
  · exact h.execLoop
  · exact h.execLdcnt
  · exact h.execWait
  · exact h.execWaitCheck
  · exact h.execResume
  · exact h.execHalt
  · exact h.execRomcall
  · exact h.execBadop
  · exact h.execVopNop
  · exact h.execVopStream
  · exact h.execVopTset
  · exact h.execVopSeek
  · exact h.execVopLdcnt
  · exact h.execVopLoopb
  · exact h.execVopCall
  · exact h.execVopRet
  · exact h.execVopBrcond
  · exact h.execVopWaitf
  · exact h.execVopSigf
  · exact h.execVopAct
  · exact h.execVopDict
  · exact h.execVopSubst
  · exact h.execVopHalt
  · exact h.execVopBad
  · exact h.execSystemFlagTakeEffect
  · exact h.execFlagSetWrite
  · exact h.execFlagClrWrite
  · exact h.execDeadlock
  · exact h.execRunEnd
  · exact h.execCsRead
  · exact h.execCsWrite
  · exact h.execCsStoreRefused
  · exact h.execEngPmWrite
  · exact h.execDecoderRestart
  · exact h.execVectorLineFetch
  · exact h.execFrameDecode
  · exact h.execHbmShareWrite
  · exact h.execAcqArm
  · exact h.execAcqAbort
  · exact h.execTrigger
  · exact h.execAutoTimeout
  · exact h.execTriggerFlagSet
  · exact h.execRecordLastSample
  · exact h.execAcqRangeWrite
  · exact h.execAcqLineStage
  · exact h.execPulseStart
  · exact h.execPulseEnd
  · exact h.execAdcStart
  · exact h.execAdcTimerEvent
  · exact h.execAdcSequenceBegin
  · exact h.execAdcSequenceEnd
  · exact h.execAdcResultRead
  · exact h.execPcCtrlWrite
  · exact h.execPcConversion
  · exact h.execCalRequestTiming
  · exact h.execCalRequestDc
  · exact h.execCalStart
  · exact h.execCalPass2
  · exact h.execCalEnd
  · exact h.execCalApply
  · exact h.execDriftMeasure
  · exact h.execTimingFailover
  · exact h.execScrubRead
  · exact h.execStoreReload
  · exact h.execBlockTest
  · exact h.execBlockTestDone
  · exact h.execPprGo
  · exact h.execPprDone
  · exact h.execMemPatWrite
  · exact h.execWipe
  · exact h.execWipeEnd
  · exact h.execTamper
  · exact h.execRingTailWrite
  · exact h.execDoorbell
  · exact h.execDescriptorFetch
  · exact h.execRingRestart
  · exact h.execBurstStart
  · exact h.execDmaBeat
  · exact h.execBurstComplete
  · exact h.execRingAlloc
  · exact h.execRingFree
  · exact h.execPoolTake
  · exact h.execPoolPut
  · exact h.execFlowGo
  · exact h.execFlowStartFlag
  · exact h.execFlowCont
  · exact h.execPattern
  · exact h.execMeasure
  · exact h.execLimit
  · exact h.execBranch
  · exact h.execBin
  · exact h.execLog
  · exact h.execCal
  · exact h.execFlowWait
  · exact h.execShare
  · exact h.execEndEntry
  · exact h.execFlowEntryComplete
  · exact h.execLogRptrWrite
  · exact h.execFlowConfigWrite
  · exact h.execSummaryArrive
  · exact h.execBenchTake
  · exact h.execPackageSummaryTake
  · exact h.execModReqWrite
  · exact h.execModeShutdownDone
  · exact h.execDrain
  · exact h.execDrainEnd
  · exact h.execDrained
  · exact h.execReload
  · exact h.execMemtest
  · exact h.execActivate
  · exact h.execRecover
  · exact h.execSvcOpRefused
  · exact h.execSvcCommandDone
  · exact h.execFlashRead
  · exact h.execFlashProgram
  · exact h.execFlashErase
  · exact h.execFlashOpRefused
  · exact h.execFlashCmdDone
  · exact h.execReboot
  · exact h.execActHub
  · exact h.execActHubDone
  · exact h.execLcTransition
  · exact h.execLcFusesProgrammed
  · exact h.execRepairAppend
  · exact h.execPartnerLinkTrained
  · exact h.execPartnerMemoryWrite
  · exact h.execPartnerMemoryRead
  · exact h.execPartnerReadTimeout
  · exact h.execOversizedRegisterRequest
  · exact h.execEvtRptrWrite
  · exact h.execExpansionLinkChange
  · exact h.execVyeneLinkTrained
  · exact h.execVyeneLinkDrop
  · exact h.execSystemDeclare
  · exact h.execIdAssignment
  · exact h.execSystemJoin
  · exact h.execElect
  · exact h.execElection
  · exact h.execLease
  · exact h.execLeaseReceive
  · exact h.execLeaseLapse
  · exact h.execConflict
  · exact h.execConflictSafeState
  · exact h.execDowel
  · exact h.execRelease
  · exact h.execAlignment
  · exact h.execLAdopt
  · exact h.execSystemConditionMessage
  · exact h.execSyncOutPulse
  · exact h.execSyncInEdge
  · exact h.execReadS
  · exact h.execReadX
  · exact h.execUpgrade
  · exact h.execPutM
  · exact h.execPutE
  · exact h.execFwdS
  · exact h.execFwdX
  · exact h.execInv
  · exact h.execSnoopTargetUnreachable
  · exact h.execTamperNHigh
  · exact h.execFlitResend
  · exact h.execAtomicopRequest
  · exact h.execRemoteAccess

end

/-- Settles O3: the step runs the front command on the queue's rest (`step_front`) or passes a grain (`step_idle`), and every command keeps
the canonical form and the queue (`Keep.exec`). -/
theorem everyStepKeepsTheCanonicalForm : Obligations.EveryStepKeepsTheCanonicalForm := by
  unfold Obligations.EveryStepKeepsTheCanonicalForm
  intro s hs
  cases hp : s.pending with
  | nil =>
    exact ⟨_, step_idle hp, { hs with regs := hs.regs }, by rw [hp]; rfl⟩
  | cons c rest =>
    have hrest : Keep { s with pending := rest } { s with pending := rest } := ⟨rfl, fun h => h⟩
    obtain ⟨t, ht, hk⟩ := hrest.exec (i := c)
    exact ⟨t, (step_front hp).trans ht, hk.canonical { hs with regs := hs.regs }, hk.queue⟩

end Sys2Proof.Machine
end

section
namespace Sys2Proof.Machine

/-! A bit of a field is set or cleared. -/

/-- The bit of a field that stands for one mode is written. -/
def State.setModeBit (s : State) (a : Nat) (f : Fld) (m : Nat) (v : Bool) : State := s.setFld a f (setNBit (s.fld a f) m v)

section

variable (s : State) (a : Nat) {f g : Fld} (m : Nat) (v : Bool)

theorem State.setModeBit_regsOnly (f : Fld) : s.regsOnly (s.setModeBit a f m v) := s.setFld_regsOnly a f _

theorem State.setModeBit_regsKept (f : Fld) : s.regsKept (s.setModeBit a f m v) [a] := s.setFld_regsKept f _ (List.mem_singleton_self a)

theorem State.setModeBit_fbit_same (n : Nat) (h : f.lo ≤ f.hi) (k : f.hi < 32) (hn : n < f.width) :
    (s.setModeBit a f m v).fbit a f n = if n = m then v else s.fbit a f n :=
  s.setFld_setNBit_fbit a f m n v h k hn

theorem State.setModeBit_fbit_apart (n : Nat) (h : f.apart g = true) : (s.setModeBit a f m v).fbit a g n = s.fbit a g n := by
  unfold State.fbit
  rw [State.setModeBit, s.setFld_fld_apart a f g _ h]

end

/-! Writes of MOD_REQ (R404, R405, R418). -/

/-- The row of MOD_REQ. -/
def modReqRow : RegRow := ⟨0, [], 0, 0x3f, 0, 0, 0, 0⟩

theorem regRow_modReq (c : ClNo) : regRow (MOD_REQ c.val) = some modReqRow := by
  have hrow : (regRows 0 1).find? (fun x => x.hit 0) = some modReqRow := by decide
  have hloc := regLoc_clBlk (blk := 1) (o := 0) c.isLt (by decide) (by decide)
  rw [Nat.add_zero] at hloc
  rw [regRow, MOD_REQ, hloc]
  exact hrow

section

variable {s : State} {c : ClNo} (port : PortNo) (value : Word)

theorem exec_modReqWrite (hreach : s.reaches (MOD_REQ c.val)) :
    exec (.modReqWrite port c value 15) s = .next (s.modReq port.val c.val value 15) :=
  congrArg Host.Outcome.next (s.reach_open port.val _ _ hreach.1 hreach.2)

theorem State.modReq_busy (p : Nat) (h : s.bit (MOD_SVC_STAT c.val) MOD_SVC_STAT_BUSY = true) :
    s.modReq p c.val value 15 = s.violation 0x01 p 0 c.val (MOD_REQ c.val) := if_pos h

theorem State.modReq_idle (p : Nat) (h : s.bit (MOD_SVC_STAT c.val) MOD_SVC_STAT_BUSY = false) :
    s.modReq p c.val value 15 = (s.partnerWrite (MOD_REQ c.val) value 15).sendPin (MOD_REQ c.val)
      ((s.partnerWrite (MOD_REQ c.val) value 15).reg (MOD_REQ c.val)) :=
  if_neg (by rw [State.svcBusy, h]; decide)

/-- A register is written and its value sent to pin time. -/
theorem State.sendPin_of_written {s u : State} {a : Nat} {f : Fld} {x : Nat} (h : s.regsOnly u) (hk : s.regsKept u [a])
    (hf : u.fld a f = x) : (u.sendPin a (u.reg a)).fld a f = x ∧
      (u.sendPin a (u.reg a)).inFlight =
        s.inFlight ++ [{ addr := a, value := (u.sendPin a (u.reg a)).reg a, port := 0, sent := s.gt }] ∧
      u.sendPin a (u.reg a) =
        { s with regs := (u.sendPin a (u.reg a)).regs, inFlight := (u.sendPin a (u.reg a)).inFlight } ∧
      s.regsKept (u.sendPin a (u.reg a)) [a] := by
  obtain ⟨r, rfl⟩ : ∃ r, u = { s with regs := r } := ⟨_, h⟩
  exact ⟨hf, rfl, rfl, hk⟩

theorem State.partnerWrite_modReq_fld :
    (s.partnerWrite (MOD_REQ c.val) value 15).fld (MOD_REQ c.val) MOD_REQ_REQ = getF value MOD_REQ_REQ :=
  s.partnerWrite_fld (regRow_modReq c) value 15 (by decide) (by decide)

end

/-! The end of a shutdown (R407, R416). -/

section

variable (s : State) (c m : Nat)

/-- The mode word of a cluster in which the shutdown of a mode has ended. -/
theorem State.endShutdown_eq : s.endShutdown c m =
    if s.fbit (MOD_ACTIVE c) MOD_ACTIVE_PENDING m then
      ((s.setModeBit (MOD_ACTIVE c) MOD_ACTIVE_STOPPING m false).setModeBit (MOD_ACTIVE c) MOD_ACTIVE_PENDING m false).setModeBit
        (MOD_ACTIVE c) MOD_ACTIVE_ACTIVE m true
    else s.setModeBit (MOD_ACTIVE c) MOD_ACTIVE_STOPPING m false := rfl

theorem State.endShutdown_regsOnly : s.regsOnly (s.endShutdown c m) := by
  rw [s.endShutdown_eq]
  split
  · exact State.regsOnly_trans (State.regsOnly_trans (s.setModeBit_regsOnly ..) (State.setModeBit_regsOnly ..))
      (State.setModeBit_regsOnly ..)
  · exact s.setModeBit_regsOnly ..

theorem State.endShutdown_regsKept : s.regsKept (s.endShutdown c m) [ MOD_ACTIVE c] := by
  rw [s.endShutdown_eq]
  split
  · exact State.regsKept_trans (State.regsKept_trans (s.setModeBit_regsKept _ _ _ _) (State.setModeBit_regsKept _ _ _ _ _))
      (State.setModeBit_regsKept _ _ _ _ _)
  · exact s.setModeBit_regsKept _ _ _ _

variable {n : Nat} (hn : n < 6)
include hn

theorem State.endShutdown_stopping : (s.endShutdown c m).fbit (MOD_ACTIVE c) MOD_ACTIVE_STOPPING n =
    if n = m then false else s.fbit (MOD_ACTIVE c) MOD_ACTIVE_STOPPING n := by
  rw [s.endShutdown_eq]
  split
  · rw [State.setModeBit_fbit_apart _ _ _ _ _ (by decide), State.setModeBit_fbit_apart _ _ _ _ _ (by decide),
      State.setModeBit_fbit_same _ _ _ _ _ (by decide) (by decide) hn]
  · rw [State.setModeBit_fbit_same _ _ _ _ _ (by decide) (by decide) hn]

theorem State.endShutdown_pending : (s.endShutdown c m).fbit (MOD_ACTIVE c) MOD_ACTIVE_PENDING n =
    if n = m then false else s.fbit (MOD_ACTIVE c) MOD_ACTIVE_PENDING n := by
  rw [s.endShutdown_eq]
  split
  · rw [State.setModeBit_fbit_apart _ _ _ _ _ (by decide), State.setModeBit_fbit_same _ _ _ _ _ (by decide) (by decide) hn,
      State.setModeBit_fbit_apart _ _ _ _ _ (by decide)]
  · next h =>
    rw [State.setModeBit_fbit_apart _ _ _ _ _ (by decide)]
    split
    · next e => rw [e, Bool.not_eq_true _ |>.mp h]
    · rfl

theorem State.endShutdown_active : (s.endShutdown c m).fbit (MOD_ACTIVE c) MOD_ACTIVE_ACTIVE n =
    if n = m then s.fbit (MOD_ACTIVE c) MOD_ACTIVE_PENDING m || s.fbit (MOD_ACTIVE c) MOD_ACTIVE_ACTIVE m
    else s.fbit (MOD_ACTIVE c) MOD_ACTIVE_ACTIVE n := by
  rw [s.endShutdown_eq]
  split
  · next h =>
    rw [State.setModeBit_fbit_same _ _ _ _ _ (by decide) (by decide) hn, State.setModeBit_fbit_apart _ _ _ _ _ (by decide),
      State.setModeBit_fbit_apart _ _ _ _ _ (by decide), h, Bool.true_or]
  · next h =>
    rw [State.setModeBit_fbit_apart _ _ _ _ _ (by decide), Bool.not_eq_true _ |>.mp h, Bool.false_or]
    split
    · next e => rw [e]
    · rfl

end

/-- Settles O51: a write of MOD_REQ by its two equations, the end of a shutdown by what `State.endShutdown` makes of each bit of the mode
word. -/
theorem modesAreWantedAndShutDown : Obligations.ModesAreWantedAndShutDown := by
  unfold Obligations.ModesAreWantedAndShutDown
  intro port c m value b s
  refine ⟨fun hreach => ⟨fun hbusy => ?_, fun hbusy => ?_⟩, fun hb hstop hdone => ?_, fun hnot => ?_⟩
  · have hexec := (exec_modReqWrite port value hreach).trans (congrArg _ (State.modReq_idle value _ hbusy))
    exact ⟨_, hexec, State.sendPin_of_written (s.partnerWrite_frame (regRow_modReq c) value 15) (s.partnerWrite_regsKept _ _ _)
      (State.partnerWrite_modReq_fld value)⟩
  · exact (exec_modReqWrite port value hreach).trans (congrArg _ (State.modReq_busy value _ hbusy))
  · refine ⟨(s.at b).endShutdown c.val m.val, if_pos ⟨hb, hstop, hdone⟩, ?_, ?_, ?_, ?_, (s.at b).endShutdown_regsOnly c.val m.val,
      (s.at b).endShutdown_regsKept c.val m.val⟩
    · exact ((s.at b).endShutdown_stopping c.val m.val m.isLt).trans (if_pos rfl)
    · exact ((s.at b).endShutdown_pending c.val m.val m.isLt).trans (if_pos rfl)
    · exact ((s.at b).endShutdown_active c.val m.val m.isLt).trans (if_pos rfl)
    · intro k hk hne f hf
      simp only [List.mem_cons, List.not_mem_nil, or_false] at hf
      obtain rfl | rfl | rfl := hf
      · exact ((s.at b).endShutdown_stopping c.val m.val hk).trans (if_neg hne)
      · exact ((s.at b).endShutdown_pending c.val m.val hk).trans (if_neg hne)
      · exact ((s.at b).endShutdown_active c.val m.val hk).trans (if_neg hne)
  · refine if_neg fun ⟨hb, hstop, hdone⟩ => ?_
    rcases hnot with h | h | h
    · exact h hb
    · exact Bool.false_ne_true (h.symm.trans hstop)
    · exact Bool.false_ne_true (h.symm.trans hdone)

end Sys2Proof.Machine
end

section
namespace Sys2Proof.Machine

/-! A service command begins or is refused (R418, Table 15-4). -/

section

variable {s : State} {c : Nat}

theorem State.svcAccepts_false {op : Nat} (h : s.bit (MOD_SVC_STAT c) MOD_SVC_STAT_BUSY = true ∨ s.svcRequires c op = false) :
    s.svcAccepts c op = false := by
  unfold State.svcAccepts State.svcBusy
  rcases h with h | h
  · rw [h, Bool.not_true, Bool.false_and]
  · rw [h, Bool.and_false]

theorem State.svcAccepts_true {op : Nat} (h : s.bit (MOD_SVC_STAT c) MOD_SVC_STAT_BUSY = false) (k : s.svcRequires c op = true) :
    s.svcAccepts c op = true := by
  rw [State.svcAccepts, State.svcBusy, h, k]
  rfl

theorem State.svcIssue_refused {op : Nat} (port : Nat) (act : State → State) (h : s.svcAccepts c op = false) :
    s.svcIssue port c op act = s.svcRefuse port c := if_neg (Bool.eq_false_iff.mp h)

theorem State.svcIssue_accepted {op : Nat} (port : Nat) (act : State → State) (h : s.svcAccepts c op = true) :
    s.svcIssue port c op act = act s := if_pos h

theorem beq_zero_false {n : Nat} (h : n ≠ 0) : (n == 0) = false := beq_eq_false_iff_ne.mpr h

theorem State.svcRequires_drain (h : s.bit (MOD_SVC_STAT c) MOD_SVC_STAT_DRAINED = true) : s.svcRequires c 1 = false :=
  (congrArg Bool.not h).trans Bool.not_true

theorem State.svcRequires_reload : s.svcRequires c 2 = false ↔ s.hasMode c 5 = false ∨ s.modesHeld c &&& 1 ≠ 0 := by
  simp only [State.svcRequires, Bool.and_eq_false_iff, beq_eq_false_iff_ne]

theorem State.svcRequires_memtest : s.svcRequires c 3 = false ↔ s.hasMode c 5 = false ∨ s.modesHeld c &&& 7 ≠ 0 := by
  simp only [State.svcRequires, Bool.and_eq_false_iff, beq_eq_false_iff_ne]

theorem State.svcRequires_activate : s.svcRequires c 4 = false ↔
    s.active c ≠ 0x20 ∨ s.fld (MOD_ACTIVE c) MOD_ACTIVE_STOPPING ≠ 0 := by
  simp only [State.svcRequires, Bool.and_eq_false_iff, beq_eq_false_iff_ne]

theorem State.svcRequires_recover : s.svcRequires c 5 = false ↔
    s.hasMode c 5 = false ∨ s.bit (MOD_SVC_STAT c) MOD_SVC_STAT_DRAINED = false ∨ s.modesHeld c &&& 0x18 ≠ 0 := by
  simp only [State.svcRequires, Bool.and_eq_false_iff, beq_eq_false_iff_ne, or_assoc]

theorem State.svcRequires_none {op : Nat} (h : op = 0 ∨ op = 6 ∨ op = 7) : s.svcRequires c op = false := by
  obtain rfl | rfl | rfl := h <;> rfl

end

/-! What the beginning of a service command changes. -/

/-- A cluster changes after registers. -/
theorem State.updCl_of_regsOnly {s u : State} (h : s.regsOnly u) (c : Nat) (f : ClSt → ClSt) : u.updCl c f =
    { s with regs := (u.updCl c f).regs, clusters := (u.updCl c f).clusters } := by
  obtain ⟨r, rfl⟩ : ∃ r, u = { s with regs := r } := ⟨_, h⟩
  rfl

section

variable (s : State) (c : Nat) (v : Service)

theorem State.svcBegin_busy : (s.svcBegin c v).bit (MOD_SVC_STAT c) MOD_SVC_STAT_BUSY = true := by
  rw [State.svcBegin, State.updCl_bit, State.setFld_bit_apart _ _ _ _ _ (by decide), s.setBit_bit _ _ _ (by decide) (by decide)]

theorem State.svcBegin_op (h : v.op < 8) : (s.svcBegin c v).fld (MOD_SVC_STAT c) MOD_SVC_STAT_OP = v.op := by
  rw [State.svcBegin, State.updCl_fld, State.setFld_fld _ _ _ _ (by decide) (by decide)]
  exact Nat.mod_eq_of_lt h

theorem State.svcBegin_cl : (s.svcBegin c v).cl c = { s.cl c with svc := some v } := by
  rw [State.svcBegin, State.updCl_cl, State.setFld_cl, State.setBit_cl]

theorem State.svcBegin_cl_ne {k : Nat} (h : k ≠ c) : (s.svcBegin c v).cl k = s.cl k := by
  rw [State.svcBegin, State.updCl_cl_ne _ _ _ _ h, State.setFld_cl, State.setBit_cl]

theorem State.svcBegin_frame : s.svcBegin c v = { s with regs := (s.svcBegin c v).regs, clusters := (s.svcBegin c v).clusters } := by
  exact State.updCl_of_regsOnly (State.regsOnly_trans (s.setBit_regsOnly _ _ _) (State.setFld_regsOnly _ _ _ _)) c _

theorem State.svcBegin_reg {a : Nat} (h : a ≠ MOD_SVC_STAT c) : (s.svcBegin c v).reg a = s.reg a := by
  rw [State.svcBegin, State.updCl_reg, State.setFld_reg_ne _ _ _ _ _ h, s.setBit_reg_ne _ _ _ _ h]

theorem State.svcBegin_regsKept : s.regsKept (s.svcBegin c v) [ MOD_SVC_STAT c] := fun _ ha =>
  s.svcBegin_reg c v fun e => ha (e ▸ List.mem_singleton_self _)

end

/-! The self-test before a recovery asks for a converter that accepts it (R291, R310, R423). -/

/-- The registers on which the acceptance of a conversion or a calibration of a cluster rests. -/
def acceptInputs (c : Nat) : List Nat :=
  [ MOD_ACTIVE c, SYS_UNIT_MASK c, CAL_CTRL c, CAL_REF_STAT, SYS_REF_CTRL] ++ (List.range 128).map (TMG_SHIM c)

section

variable {s t : State} {c : Nat} (hgauge : (t.cl c).gauge = (s.cl c).gauge) (heng : t.eng = s.eng)
  (hreg : ∀ a ∈ acceptInputs c, t.reg a = s.reg a)
include hgauge heng hreg

theorem State.calReady_congr (kind : CalKind) : t.calReady c kind = s.calReady c kind := by
  have hfld : ∀ a ∈ acceptInputs c, ∀ f, t.fld a f = s.fld a f := fun a ha f => congrArg (getF · f) (hreg a ha)
  have hbit : ∀ a ∈ acceptInputs c, ∀ f, t.bit a f = s.bit a f := fun a ha f => congrArg (· == 1) (hfld a ha f)
  have hmoving : t.anyMoving c = s.anyMoving c := by
    unfold State.anyMoving
    rw [Bool.eq_iff_iff, List.any_eq_true, List.any_eq_true]
    refine exists_congr fun i => and_congr_right fun hi => ?_
    rw [hbit _ (List.mem_append_right _ (List.mem_map_of_mem hi))]
  unfold State.calReady State.hasMode State.active State.interrupted
  rw [hmoving, hgauge, heng, hfld (MOD_ACTIVE c) (by simp [acceptInputs]), hfld (SYS_UNIT_MASK c) (by simp [acceptInputs])]
  cases kind with
  | dc =>
    dsimp only
    rw [hbit (CAL_CTRL c) (by simp [acceptInputs]), hbit CAL_REF_STAT (by simp [acceptInputs])]
  | timing =>
    dsimp only
    rw [hbit (CAL_CTRL c) (by simp [acceptInputs]), hbit CAL_REF_STAT (by simp [acceptInputs]),
      hbit SYS_REF_CTRL (by simp [acceptInputs]), hbit SYS_REF_CTRL (by simp [acceptInputs])]

theorem State.adcAccepts_congr (selfTest : Bool) : t.adcAccepts c selfTest = s.adcAccepts c selfTest := by
  have hactive : t.active c = s.active c := congrArg (getF · _) (hreg (MOD_ACTIVE c) (by simp [acceptInputs]))
  unfold State.adcAccepts State.hasMode State.interrupted
  rw [State.calReady_congr hgauge heng hreg, State.calReady_congr hgauge heng hreg, hactive, hgauge]

end

/-! RECOVER begins (R423). -/

section

variable (s : State) (c resume b : Nat)

theorem acceptInputs_ne {a : Nat} (h : a ∈ acceptInputs c) : a ≠ MOD_SVC_STAT c ∧ a ≠ ADC_CTRL c := by
  simp only [acceptInputs, List.mem_append, List.mem_cons, List.not_mem_nil, or_false, List.mem_map, List.mem_range] at h
  obtain (rfl | rfl | rfl | rfl | rfl) | ⟨i, hi, rfl⟩ := h <;>
    simp only [ MOD_ACTIVE, SYS_UNIT_MASK, CAL_CTRL, CAL_REF_STAT, SYS_REF_CTRL, TMG_SHIM, MOD_SVC_STAT, ADC_CTRL, clBlk] <;>
    omega

/-- What RECOVER notes. -/
def State.recovery : Service := { op := 5, resume := resume, rGrain := b, oldLowPower := s.fld (ADC_CTRL c) ADC_CTRL_LOWPWR }

/-- RECOVER has begun, before it asks for a conversion. -/
def State.recovering : State :=
  ((s.at b).svcBegin c (s.recovery c resume b)).setBoth (ADC_CTRL c)
    (setF (((s.at b).svcBegin c (s.recovery c resume b)).reg (ADC_CTRL c)) ADC_CTRL_LOWPWR 1)

theorem State.recoverAt_eq : s.recoverAt c resume b = (s.recovering c resume b).nextSelfTest c b := rfl

theorem State.recovering_cl : (s.recovering c resume b).cl c = { s.cl c with svc := some (s.recovery c resume b) } := by
  rw [State.recovering, State.setBoth_cl, State.svcBegin_cl, State.at_cl]

theorem State.recovering_cl_ne {k : Nat} (h : k ≠ c) : (s.recovering c resume b).cl k = s.cl k := by
  rw [State.recovering, State.setBoth_cl, State.svcBegin_cl_ne _ _ _ h, State.at_cl]

theorem State.recovering_frame : s.recovering c resume b = { s with
    gt := max s.gt b
    regs := (s.recovering c resume b).regs
    force := (s.recovering c resume b).force
    clusters := (s.recovering c resume b).clusters } := by
  obtain ⟨r, l, h⟩ : ∃ r l, (s.at b).svcBegin c (s.recovery c resume b) = { s with gt := max s.gt b, regs := r, clusters := l } :=
    ⟨_, _, (s.at b).svcBegin_frame c _⟩
  obtain ⟨r', f, h'⟩ : ∃ r' f, s.recovering c resume b = { s with gt := max s.gt b, regs := r', force := f, clusters := l } := by
    rw [State.recovering, h]
    exact State.setBoth_frame ..
  rw [h']

theorem State.recovering_lowPower : (s.recovering c resume b).fld (ADC_CTRL c) ADC_CTRL_LOWPWR = 1 ∧
    (s.recovering c resume b).ffld (ADC_CTRL c) ADC_CTRL_LOWPWR = 1 := by
  have hget : ∀ w : Word, getF (setF w ADC_CTRL_LOWPWR 1) ADC_CTRL_LOWPWR = 1 := fun w => getF_setF _ _ _ (by decide) (by decide)
  refine ⟨?_, ?_⟩
  · rw [State.recovering, State.setBoth_fld, hget]
  · rw [State.recovering, State.ffld, State.setBoth_inForce, hget]

theorem State.recovering_adcAccepts : (s.recovering c resume b).adcAccepts c true = s.adcAccepts c true := by
  have heng : (s.recovering c resume b).eng = s.eng := by
    rw [s.recovering_frame c resume b]
    rfl
  refine State.adcAccepts_congr (by rw [State.recovering_cl]) heng (fun a ha => ?_) true
  obtain ⟨hstat, hctrl⟩ := acceptInputs_ne c ha
  rw [State.recovering, State.setBoth_reg_ne _ _ _ _ hctrl, State.svcBegin_reg _ _ _ hstat, State.at_reg]

/-- What the request of a conversion leaves of a state. -/
theorem State.nextSelfTest_rest (g : Nat) : s.nextSelfTest c g = { s with clusters := (s.nextSelfTest c g).clusters } ∧
    ((s.nextSelfTest c g).cl c).svc = (s.cl c).svc ∧ ((s.nextSelfTest c g).adc c).waiting = (s.adc c).waiting ∧
    ∀ k, k ≠ c → (s.nextSelfTest c g).cl k = s.cl k := by
  have hsame : s = { s with clusters := s.clusters } ∧ (s.cl c).svc = (s.cl c).svc ∧ (s.adc c).waiting = (s.adc c).waiting ∧
      ∀ k, k ≠ c → s.cl k = s.cl k := ⟨rfl, rfl, rfl, fun _ _ => rfl⟩
  have hupd : ∀ q, s.updAdc c (fun y => { y with seq := q }) =
        { s with clusters := (s.updAdc c (fun y => { y with seq := q })).clusters } ∧
      ((s.updAdc c (fun y => { y with seq := q })).cl c).svc = (s.cl c).svc ∧
      ((s.updAdc c (fun y => { y with seq := q })).adc c).waiting = (s.adc c).waiting ∧
      ∀ k, k ≠ c → (s.updAdc c (fun y => { y with seq := q })).cl k = s.cl k := fun q => by
    refine ⟨rfl, ?_, ?_, fun k hk => State.updCl_cl_ne _ _ _ _ hk⟩
    · rw [State.updAdc, State.updCl_cl]
    · rw [State.adc, State.updAdc, State.updCl_cl, State.adc]
  unfold State.nextSelfTest
  split
  · split
    · split
      · exact hupd _
      · exact hsame
    · exact hsame
  · exact hsame

/-- The conversion that a recovery asks for. -/
theorem State.nextSelfTest_recovery (g : Nat) {v : Service} (hsvc : (s.cl c).svc = some v) (hop : v.op = 5 ∧ v.selfTests < 7) :
    ((s.nextSelfTest c g).adc c).seq = if (s.adc c).seq.isNone && s.adcAccepts c true then
      some { start := { grain := g, selfTest := true }, begin_ := s.adcBegin c g } else (s.adc c).seq := by
  unfold State.nextSelfTest
  rw [hsvc]
  dsimp only
  rw [if_pos hop]
  split
  · rw [State.adc, State.updAdc, State.updCl_cl]
  · rfl

theorem State.recovering_adcBegin : (s.recovering c resume b).adcBegin c b = b := by
  have hlow : (s.recovering c resume b).adcLowPower c = true := by
    rw [State.adcLowPower, State.fbitF, (s.recovering_lowPower c resume b).2]
    rfl
  rw [State.adcBegin, hlow, Bool.or_true, Bool.true_or]
  rfl

end

section

variable {s : State} (port : PortNo) (c : ClNo) (hreach : s.reaches (MOD_SVC_CMD c.val))
include hreach

theorem exec_drain (cut : Bool) (d : Nat) : exec (.drain port c cut d) s =
    .next (s.svcIssue port.val c.val 1 fun s => s.drainMeets c.val cut d) :=
  congrArg Host.Outcome.next (s.reach_open port.val _ _ hreach.1 hreach.2)

theorem exec_reload : exec (.reload port c) s = .next (s.svcIssue port.val c.val 2 fun s => s.svcBegin c.val { op := 2 }) :=
  congrArg Host.Outcome.next (s.reach_open port.val _ _ hreach.1 hreach.2)

theorem exec_memtest : exec (.memtest port c) s = .next (s.svcIssue port.val c.val 3 fun s => s.memtestStart c.val) :=
  congrArg Host.Outcome.next (s.reach_open port.val _ _ hreach.1 hreach.2)

theorem exec_activate : exec (.activate port c) s = .next (s.svcIssue port.val c.val 4 fun s => s.svcBegin c.val { op := 4 }) :=
  congrArg Host.Outcome.next (s.reach_open port.val _ _ hreach.1 hreach.2)

theorem exec_recover (w : BitVec 6) (b : Nat) : exec (.recover port c w b) s =
    .next (s.svcIssue port.val c.val 5 fun s => s.recoverAt c.val w.toNat b) :=
  congrArg Host.Outcome.next (s.reach_open port.val _ _ hreach.1 hreach.2)

theorem exec_svcOpRefused (value : Word) : exec (.svcOpRefused port c value) s =
    .next (if getF value MOD_SVC_CMD_GO = 1 ∧ s.svcAccepts c.val (getF value MOD_SVC_CMD_OP) = false then s.svcRefuse port.val c.val
      else s) :=
  congrArg Host.Outcome.next (s.reach_open port.val _ _ hreach.1 hreach.2)

/-- MEMTEST begins (Table 15-4, Table 12-5). -/
theorem exec_memtest_begins (hacc : s.svcAccepts c.val 3 = true) : ∃ t, exec (.memtest port c) s = .next t ∧
    t.bit (MOD_SVC_STAT c.val) MOD_SVC_STAT_BUSY = true ∧ t.fld (MOD_SVC_STAT c.val) MOD_SVC_STAT_OP = 3 ∧
    t.bit (MEM_CL_MEMTEST c.val) MEM_CL_MEMTEST_BUSY = true ∧ t.cl c.val = { s.cl c.val with svc := some { op := 3 } } ∧
    (∀ k, k ≠ c.val → t.cl k = s.cl k) ∧ t = { s with regs := t.regs, clusters := t.clusters } ∧
    s.regsKept t [ MOD_SVC_STAT c.val, MEM_CL_MEMTEST c.val] := by
  have hne : MEM_CL_MEMTEST c.val ≠ MOD_SVC_STAT c.val := by
    simp only [MEM_CL_MEMTEST, MOD_SVC_STAT, clBlk]
    omega
  have honly : s.regsOnly ((s.setBit (MEM_CL_MEMTEST c.val) MEM_CL_MEMTEST_BUSY true).setFld (MEM_CL_MEMTEST c.val)
      MEM_CL_MEMTEST_BLOCKS 0) := State.regsOnly_trans (s.setBit_regsOnly _ _ _) (State.setFld_regsOnly _ _ _ _)
  refine ⟨s.memtestStart c.val, (exec_memtest port c hreach).trans (congrArg _ (State.svcIssue_accepted _ _ hacc)), ?_⟩
  unfold State.memtestStart
  refine ⟨State.svcBegin_busy .., State.svcBegin_op _ _ _ (by decide), ?_, ?_, fun k hk => ?_, ?_, fun a ha => ?_⟩
  · rw [State.bit, State.fld, State.svcBegin_reg _ _ _ hne]
    exact (State.setFld_bit_apart _ _ _ _ _ (by decide)).trans (s.setBit_bit _ _ _ (by decide) (by decide))
  · rw [State.svcBegin_cl, State.setFld_cl, State.setBit_cl]
  · rw [State.svcBegin_cl_ne _ _ _ hk, State.setFld_cl, State.setBit_cl]
  · generalize State.setFld _ _ _ _ = u at honly ⊢
    obtain ⟨r, rfl⟩ : ∃ r, u = { s with regs := r } := ⟨_, honly⟩
    exact State.svcBegin_frame ..
  · rw [List.mem_cons, List.mem_singleton, not_or] at ha
    rw [State.svcBegin_reg _ _ _ ha.1, State.setFld_reg_ne _ _ _ _ _ ha.2, s.setBit_reg_ne _ _ _ _ ha.2]

/-- RECOVER begins (R423). -/
theorem exec_recover_begins (w : BitVec 6) (b : Nat) (hacc : s.svcAccepts c.val 5 = true) : ∃ t, exec (.recover port c w b) s = .next t ∧
    t.gt = max s.gt b ∧ t.bit (MOD_SVC_STAT c.val) MOD_SVC_STAT_BUSY = true ∧ t.fld (MOD_SVC_STAT c.val) MOD_SVC_STAT_OP = 5 ∧
    t.fld (ADC_CTRL c.val) ADC_CTRL_LOWPWR = 1 ∧ t.ffld (ADC_CTRL c.val) ADC_CTRL_LOWPWR = 1 ∧
    (t.cl c.val).svc = some (s.recovery c.val w.toNat b) ∧
    ((s.adc c.val).seq = none → s.adcAccepts c.val true = true →
      (t.adc c.val).seq = some { start := { grain := b, selfTest := true }, begin_ := b }) ∧
    (∀ x, (s.adc c.val).seq = some x → (t.adc c.val).seq = some x) ∧ (t.adc c.val).waiting = (s.adc c.val).waiting ∧
    (∀ k, k ≠ c.val → t.cl k = s.cl k) ∧ t.pins = s.pins ∧ t.engines = s.engines ∧ t.runs = s.runs ∧ t.flags = s.flags ∧
    t.mem = s.mem := by
  have hne : MOD_SVC_STAT c.val ≠ ADC_CTRL c.val := by
    simp only [ADC_CTRL, MOD_SVC_STAT, clBlk]
    omega
  have hframe := s.recovering_frame c.val w.toNat b
  have hcl := s.recovering_cl c.val w.toNat b
  have hclne := fun k => s.recovering_cl_ne c.val w.toNat b (k := k)
  have hlow := s.recovering_lowPower c.val w.toNat b
  have hbegin := s.recovering_adcBegin c.val w.toNat b
  have haccepts := s.recovering_adcAccepts c.val w.toNat b
  have hreg : (s.recovering c.val w.toNat b).reg (MOD_SVC_STAT c.val) =
      ((s.at b).svcBegin c.val (s.recovery c.val w.toNat b)).reg (MOD_SVC_STAT c.val) := State.setBoth_reg_ne _ _ _ _ hne
  have hbusy : (s.recovering c.val w.toNat b).bit (MOD_SVC_STAT c.val) MOD_SVC_STAT_BUSY = true := by
    rw [State.bit, State.fld, hreg]
    exact State.svcBegin_busy ..
  have hop : (s.recovering c.val w.toNat b).fld (MOD_SVC_STAT c.val) MOD_SVC_STAT_OP = 5 := by
    rw [State.fld, hreg]
    exact State.svcBegin_op _ _ (s.recovery c.val w.toNat b) (by decide : 5 < 8)
  have hexec := (exec_recover port c hreach w b).trans (congrArg _ (State.svcIssue_accepted _ _ hacc))
  rw [State.recoverAt_eq] at hexec
  generalize s.recovering c.val w.toNat b = u at *
  obtain ⟨hrest, hsvc, hwaiting, hother⟩ := u.nextSelfTest_rest c.val b
  have hadc : u.adc c.val = s.adc c.val := by rw [State.adc, hcl, State.adc]
  have hseq := u.nextSelfTest_recovery c.val b (by rw [hcl]) ⟨rfl, (by decide : 0 < 7)⟩
  rw [hadc, haccepts, hbegin] at hseq
  generalize u.nextSelfTest c.val b = t at *
  have hregs : t.regs = u.regs := by rw [hrest]
  have hforce : t.force = u.force := by rw [hrest]
  refine ⟨t, hexec, by rw [hrest, hframe], ?_, ?_, ?_, ?_, ?_, ?_, ?_, ?_, fun k hk => ?_, ?_⟩
  · rw [← hbusy, State.bit, State.fld, State.reg, hregs]
    rfl
  · rw [← hop, State.fld, State.reg, hregs]
    rfl
  · rw [← hlow.1, State.fld, State.reg, hregs]
    rfl
  · rw [← hlow.2, State.ffld, State.inForce, hforce]
    rfl
  · rw [hsvc, hcl]
  · intro hnone hyes
    rw [hseq, hnone, hyes]
    rfl
  · intro x hx
    rw [hseq, hx]
    rfl
  · rw [hwaiting, hadc]
  · rw [hother k hk, hclne k hk]
  · rw [hrest, hframe]
    exact ⟨rfl, rfl, rfl, rfl, rfl⟩

end

/-- RELOAD and ACTIVATE begin. -/
theorem State.svcBegin_begins (s : State) (c : ClNo) {op : Nat} (hop : op < 8) {i : Instr}
    (hexec : exec i s = .next (s.svcBegin c.val { op := op })) : ∃ t, exec i s = .next t ∧
    t.bit (MOD_SVC_STAT c.val) MOD_SVC_STAT_BUSY = true ∧ t.fld (MOD_SVC_STAT c.val) MOD_SVC_STAT_OP = op ∧
    t.cl c.val = { s.cl c.val with svc := some { op := op } } ∧ (∀ k, k ≠ c.val → t.cl k = s.cl k) ∧
    t = { s with regs := t.regs, clusters := t.clusters } ∧ s.regsKept t [ MOD_SVC_STAT c.val] :=
  ⟨_, hexec, s.svcBegin_busy _ _, s.svcBegin_op _ _ hop, s.svcBegin_cl _ _, fun _ hk => s.svcBegin_cl_ne _ _ hk,
    s.svcBegin_frame _ _, s.svcBegin_regsKept _ _⟩


/-- Settles O52: what is refused by `State.svcAccepts_false` and the requirements of Table 15-4 for each command, what begins by the lemma
of its command. -/
theorem serviceCommandsAreAcceptedOrRefused : Obligations.ServiceCommandsAreAcceptedOrRefused := by
  unfold Obligations.ServiceCommandsAreAcceptedOrRefused
  intro port c cut d b w value s hreach
  refine ⟨fun y hy hnot hgo => ?_, fun hidle => ⟨fun y hy hallow => ?_, fun hmode hheld => ?_, fun hmode hdrained hheld => ?_⟩⟩
  · simp only [List.mem_cons, List.not_mem_nil, or_false] at hy
    obtain rfl | rfl | rfl | rfl | rfl | rfl := hy
    · rw [exec_drain port c hreach, State.svcIssue_refused _ _ (State.svcAccepts_false (hnot.imp_right State.svcRequires_drain))]
      rfl
    · rw [exec_reload port c hreach, State.svcIssue_refused _ _ (State.svcAccepts_false (hnot.imp_right State.svcRequires_reload.mpr))]
      rfl
    · rw [exec_memtest port c hreach, State.svcIssue_refused _ _ (State.svcAccepts_false (hnot.imp_right State.svcRequires_memtest.mpr))]
      rfl
    · rw [exec_activate port c hreach, State.svcIssue_refused _ _ (State.svcAccepts_false (hnot.imp_right State.svcRequires_activate.mpr))]
      rfl
    · rw [exec_recover port c hreach, State.svcIssue_refused _ _ (State.svcAccepts_false (hnot.imp_right State.svcRequires_recover.mpr))]
      rfl
    · rw [exec_svcOpRefused port c hreach, if_pos ⟨hgo rfl, State.svcAccepts_false (hnot.imp_right State.svcRequires_none)⟩]
      rfl
  · simp only [List.mem_cons, List.not_mem_nil, or_false] at hy
    obtain rfl | rfl := hy
    · have hreq : s.svcRequires c.val 2 = true := by
        rw [← Bool.not_eq_false, State.svcRequires_reload]
        exact fun h => h.elim (Bool.false_ne_true ∘ fun e => e.symm.trans hallow.1) fun h => h hallow.2
      exact State.svcBegin_begins s c (by decide : 2 < 8) ((exec_reload port c hreach).trans
        (congrArg _ (State.svcIssue_accepted _ _ (State.svcAccepts_true hidle hreq))))
    · have hreq : s.svcRequires c.val 4 = true := by
        rw [← Bool.not_eq_false, State.svcRequires_activate]
        exact fun h => h.elim (fun h => h hallow.1) fun h => h hallow.2
      exact State.svcBegin_begins s c (by decide : 4 < 8) ((exec_activate port c hreach).trans
        (congrArg _ (State.svcIssue_accepted _ _ (State.svcAccepts_true hidle hreq))))
  · have hreq : s.svcRequires c.val 3 = true := by
      rw [← Bool.not_eq_false, State.svcRequires_memtest]
      exact fun h => h.elim (Bool.false_ne_true ∘ fun e => e.symm.trans hmode) fun h => h hheld
    exact exec_memtest_begins port c hreach (State.svcAccepts_true hidle hreq)
  · have hreq : s.svcRequires c.val 5 = true := by
      rw [← Bool.not_eq_false, State.svcRequires_recover, hmode, hdrained]
      exact fun h => h.elim (Bool.false_ne_true ∘ Eq.symm) fun h => h.elim (Bool.false_ne_true ∘ Eq.symm) fun h => h hheld
    exact exec_recover_begins port c hreach w b (State.svcAccepts_true hidle hreq)

end Sys2Proof.Machine
end

section
namespace Sys2Proof.Machine

/-! Hub activations (R438, R443). -/

/-- No flow engine runs, as the commands of the hub ask it. -/
theorem State.anyFlowOn_eq_false {s : State} : (List.range 8).any s.flowOn = false ↔
    ∀ n, n < 8 → s.bit (FLW_STAT n) FLW_STAT_RUNNING = false := by
  simp only [List.any_eq_false, List.mem_range, Bool.not_eq_true, State.flowOn]

theorem State.anyFlowOn_eq_true {s : State} : (List.range 8).any s.flowOn = true ↔
    ∃ n, n < 8 ∧ s.bit (FLW_STAT n) FLW_STAT_RUNNING = true := by
  simp only [List.any_eq_true, List.mem_range, State.flowOn]

section

variable (s : State)

/-- A hub activation has begun. -/
def State.actHubBegun : State := (s.setBit BOOT_STAT BOOT_STAT_ACTIVATING true).updBoot fun b => { b with actHub := true }

/-- A hub activation has ended. -/
def State.actHubOver : State := (s.setBit BOOT_STAT BOOT_STAT_ACTIVATING false).updBoot fun b => { b with actHub := false }

theorem exec_actHub (port : PortNo) (h : s.reaches BOOT_CTRL) : exec (.actHub port) s = .next (if
    s.bit BOOT_STAT BOOT_STAT_BOOTING || s.bit BOOT_STAT BOOT_STAT_ACTIVATING || (List.range 8).any s.flowOn ||
      !s.headerValid (otherBank (s.fld BOOT_STAT BOOT_STAT_ACTIVE_BANK)) then s else s.actHubBegun) :=
  congrArg Host.Outcome.next (s.reach_open port.val _ _ h.1 h.2)

/-- What BOOT_STAT and boot show once a hub activation is over, and what it leaves. -/
theorem State.actHubOver_spec : s.actHubOver.bit BOOT_STAT BOOT_STAT_ACTIVATING = false ∧
    s.actHubOver.boot = { s.boot with actHub := false } ∧ (∀ a, a ≠ BOOT_STAT → s.actHubOver.reg a = s.reg a) ∧
    (∀ f, BOOT_STAT_ACTIVATING.apart f = true → s.actHubOver.fld BOOT_STAT f = s.fld BOOT_STAT f) := by
  unfold State.actHubOver
  refine ⟨?_, ?_, fun a ha => ?_, fun f hf => ?_⟩
  · rw [State.updBoot_bit, s.setBit_bit _ _ _ (by decide) (by decide)]
  · rw [State.updBoot_boot, State.setBit_boot]
  · rw [State.updBoot_reg, s.setBit_reg_ne _ _ _ a ha]
  · rw [State.updBoot_fld, s.setBit_fld_apart _ _ f _ hf]

/-- Hub activation takes the other bank (R443). -/
def State.actHubTaken (u : State) : State :=
  (u.setFld BOOT_STAT BOOT_STAT_ACTIVE_BANK (otherBank (s.fld BOOT_STAT BOOT_STAT_ACTIVE_BANK))).setReg BOOT_GEN
    (BitVec.ofNat 32 (s.bankGen (otherBank (s.fld BOOT_STAT BOOT_STAT_ACTIVE_BANK))))

/-- A hub activation is over after a change of registers. -/
theorem State.actHubOver_of_regsOnly {u : State} (h : s.regsOnly u) : u.actHubOver =
    { s with regs := u.actHubOver.regs, boot := u.actHubOver.boot } :=
  s.updBoot_frame_of_regsOnly _ (State.regsOnly_trans h (u.setBit_regsOnly _ _ _))

theorem State.actHubTaken_regsOnly (u : State) : u.regsOnly (s.actHubTaken u) :=
  State.regsOnly_trans (u.setFld_regsOnly _ _ _) (State.setReg_regsOnly _ _ _)

end

section

variable {s : State} (e : Bool) (f : List Nat) (h : s.boot.actHub = true)
include h

theorem exec_actHubDone_waits (he : e = false) (hw : s.fetchWaits (otherBank (s.fld BOOT_STAT BOOT_STAT_ACTIVE_BANK)) = true) :
    exec (.actHubDone e f) s = .next s :=
  (if_pos h).trans (if_pos ⟨he, hw⟩)

theorem exec_actHubDone_takes (he : e = false) (hw : s.fetchWaits (otherBank (s.fld BOOT_STAT BOOT_STAT_ACTIVE_BANK)) = false)
    {u : State} (hu : s.activateHub (otherBank (s.fld BOOT_STAT BOOT_STAT_ACTIVE_BANK)) f = some u) :
    exec (.actHubDone e f) s = .next (s.actHubTaken u).actHubOver := by
  refine (if_pos h).trans ((if_neg fun k => Bool.false_ne_true (hw.symm.trans k.2)).trans ?_)
  rw [he, if_neg Bool.false_ne_true, hu]
  rfl

theorem exec_actHubDone_fails (hfail : e = true ∨ (s.fetchWaits (otherBank (s.fld BOOT_STAT BOOT_STAT_ACTIVE_BANK)) = false ∧
      s.activateHub (otherBank (s.fld BOOT_STAT BOOT_STAT_ACTIVE_BANK)) f = none)) :
    exec (.actHubDone e f) s = .next (s.setBit BOOT_STAT BOOT_STAT_ACT_FAILED true).actHubOver := by
  rcases hfail with rfl | ⟨hw, hnone⟩
  · exact (if_pos h).trans (if_neg fun k => Bool.false_ne_true k.1.symm)
  · refine (if_pos h).trans ((if_neg fun k => Bool.false_ne_true (hw.symm.trans k.2)).trans ?_)
    rw [hnone, ite_self]
    rfl

end

/-- Settles O9: the begin by the conditions of R443, the end by its three outcomes. -/
theorem hubActivationBeginsAndEnds : Obligations.HubActivationBeginsAndEnds := by
  unfold Obligations.HubActivationBeginsAndEnds
  intro port e f s
  refine ⟨fun hreach hboot => ⟨fun hact hflow hvalid => ?_, fun hnot => ?_⟩, fun hhub => ⟨?_, fun u he hw hu => ?_, fun hfail => ?_⟩⟩
  · refine ⟨s.actHubBegun, ?_, ?_, ?_, s.updBoot_frame_of_regsOnly _ (s.setBit_regsOnly _ _ _), fun a ha => ?_⟩
    · rw [exec_actHub s port hreach, hboot, hact, State.anyFlowOn_eq_false.mpr hflow, hvalid]
      exact congrArg _ (if_neg Bool.false_ne_true)
    · rw [State.actHubBegun, State.updBoot_bit, s.setBit_bit _ _ _ (by decide) (by decide)]
    · rw [State.actHubBegun, State.updBoot_boot, State.setBit_boot]
    · rw [State.actHubBegun, State.updBoot_reg, s.setBit_regsKept _ _ _ a ha]
  · refine (exec_actHub s port hreach).trans (congrArg _ (if_pos ?_))
    rcases hnot with h | h | h
    · rw [h, Bool.or_true, Bool.true_or, Bool.true_or]
    · rw [State.anyFlowOn_eq_true.mpr h, Bool.or_true, Bool.true_or]
    · rw [h, Bool.not_false, Bool.or_true]
  · exact exec_actHubDone_waits e f hhub
  · obtain ⟨hbit, hbootst, hregs, hflds⟩ := (s.actHubTaken u).actHubOver_spec
    have hother : otherBank (s.fld BOOT_STAT BOOT_STAT_ACTIVE_BANK) < 2 := by
      unfold otherBank
      omega
    refine ⟨_, exec_actHubDone_takes e f hhub he hw hu, hbit, ?_, ?_, ?_, u.actHubOver_of_regsOnly (s.actHubTaken_regsOnly u), fun a ha => ?_⟩
    · rw [hflds _ (by decide), State.actHubTaken, State.setReg_fld_ne _ _ _ _ _ (by decide),
        State.setFld_fld _ _ _ _ (by decide) (by decide)]
      exact Nat.mod_eq_of_lt hother
    · rw [hregs _ (by decide), State.actHubTaken, State.setReg_reg]
    · rw [hbootst, State.actHubTaken, State.setReg_boot, State.setFld_boot]
    · rw [List.mem_cons, List.mem_singleton, not_or] at ha
      rw [hregs a ha.1, State.actHubTaken, State.setReg_reg_ne _ _ _ _ ha.2, State.setFld_reg_ne _ _ _ _ _ ha.1]
  · obtain ⟨hbit, hbootst, hregs, hflds⟩ := (s.setBit BOOT_STAT BOOT_STAT_ACT_FAILED true).actHubOver_spec
    refine ⟨_, exec_actHubDone_fails e f hhub hfail, hbit, ?_, ?_, ?_, s.actHubOver_of_regsOnly (s.setBit_regsOnly _ _ _), fun a ha => ?_⟩
    · rw [State.bit, hflds _ (by decide)]
      exact s.setBit_bit _ _ _ (by decide) (by decide)
    · rw [hflds _ (by decide), s.setBit_fld_apart _ _ _ _ (by decide)]
    · rw [hbootst, State.setBit_boot]
    · rw [List.mem_singleton] at ha
      rw [hregs a ha, s.setBit_reg_ne _ _ _ _ ha]

end Sys2Proof.Machine
end

section
namespace Sys2Proof.Machine

/-! Wipes of the secure scratchpad (R354, R355). -/

section

variable {s : State}

theorem State.setBit_poison (s : State) (a : Nat) (f : Fld) (b : Bool) : (s.setBit a f b).poison = s.poison := by rfl

theorem State.setBit_byteAt (s : State) (a : Nat) (f : Fld) (b : Bool) (m : Nat) : (s.setBit a f b).byteAt m = s.byteAt m := by rfl

/-- A wipe begins. -/
theorem State.beginWipe_eq (h : s.bit SEC_STAT SEC_STAT_WIPING = false) : s.beginWipe = { s.setBit SEC_STAT SEC_STAT_WIPING true with
    mem := (s.setBit SEC_STAT SEC_STAT_WIPING true).mem.filter (fun x => decide (x.1 < 0x3FF00000000) || decide (0x3FF00100000 ≤ x.1))
    poison := (s.setBit SEC_STAT SEC_STAT_WIPING true).poison.filter (fun x => decide (x.1 < 0x3FF00000000 / 64) || decide (0x3FF00100000 / 64 ≤ x.1)) } := by
  unfold State.beginWipe
  rw [h, if_neg Bool.false_ne_true]

theorem State.beginWipe_busy (h : s.bit SEC_STAT SEC_STAT_WIPING = true) : s.beginWipe = s := by
  unfold State.beginWipe
  rw [h, if_pos rfl]

theorem State.beginWipe_sets (h : s.bit SEC_STAT SEC_STAT_WIPING = false) :
    ∃ m p, s.beginWipe = { s.setBit SEC_STAT SEC_STAT_WIPING true with mem := m, poison := p } := ⟨_, _, State.beginWipe_eq h⟩

theorem State.withMemPoison_bit (s : State) (m : Tbl Byte) (p : Tbl Bool) (a : Nat) (f : Fld) :
    ({ s with mem := m, poison := p } : State).bit a f = s.bit a f := by rfl

theorem State.withMemPoison_reg (s : State) (m : Tbl Byte) (p : Tbl Bool) (a : Nat) :
    ({ s with mem := m, poison := p } : State).reg a = s.reg a := by rfl

/-- What is not of the secure scratchpad is left. -/
theorem if_outside {α : Type} (lo hi k : Nat) (a b : α) : (if (decide (k < lo) || decide (hi ≤ k)) = true then a else b) =
    if lo ≤ k ∧ k < hi then b else a := by
  by_cases h : lo ≤ k ∧ k < hi
  · rw [if_pos h, if_neg]
    simp only [Bool.or_eq_true, decide_eq_true_eq]
    omega
  · rw [if_neg h, if_pos]
    simp only [Bool.or_eq_true, decide_eq_true_eq]
    omega

theorem State.beginWipe_byteAt (h : s.bit SEC_STAT SEC_STAT_WIPING = false) (a : Nat) :
    s.beginWipe.byteAt a = if 0x3FF00000000 ≤ a ∧ a < 0x3FF00100000 then 0 else s.byteAt a := by
  rw [State.beginWipe_eq h, State.setBit_mem]
  exact (tget_filter (fun _ => (0 : Byte)) (fun k => decide (k < 0x3FF00000000) || decide (0x3FF00100000 ≤ k)) s.mem a).trans
    (if_outside _ _ _ _ _)

theorem State.beginWipe_poison (h : s.bit SEC_STAT SEC_STAT_WIPING = false) (l : Nat) :
    tget (fun _ => false) s.beginWipe.poison l =
      if 0x3FF00000000 / 64 ≤ l ∧ l < 0x3FF00100000 / 64 then false else tget (fun _ => false) s.poison l := by
  rw [State.beginWipe_eq h, State.setBit_poison]
  exact (tget_filter (fun _ => false) (fun k => decide (k < 0x3FF00000000 / 64) || decide (0x3FF00100000 / 64 ≤ k)) s.poison l).trans
    (if_outside _ _ _ _ _)

variable (s)

theorem State.beginWipe_wiping : s.beginWipe.bit SEC_STAT SEC_STAT_WIPING = true := by
  cases h : s.bit SEC_STAT SEC_STAT_WIPING with
  | true => rw [State.beginWipe_busy h, h]
  | false =>
    obtain ⟨m, p, e⟩ := State.beginWipe_sets h
    rw [e, State.withMemPoison_bit, s.setBit_bit _ _ _ (by decide) (by decide)]

theorem State.beginWipe_reg {a : Nat} (ha : a ≠ SEC_STAT) : s.beginWipe.reg a = s.reg a := by
  cases h : s.bit SEC_STAT SEC_STAT_WIPING with
  | true => rw [State.beginWipe_busy h]
  | false =>
    obtain ⟨m, p, e⟩ := State.beginWipe_sets h
    rw [e, State.withMemPoison_reg, s.setBit_reg_ne _ _ _ a ha]

theorem State.beginWipe_frame : ∃ r m p, s.beginWipe = { s with regs := r, mem := m, poison := p } := by
  cases h : s.bit SEC_STAT SEC_STAT_WIPING with
  | true => exact ⟨s.regs, s.mem, s.poison, State.beginWipe_busy h⟩
  | false =>
    obtain ⟨m, p, e⟩ := State.beginWipe_sets h
    obtain ⟨r, hr⟩ := s.setBit_frame SEC_STAT SEC_STAT_WIPING true
    exact ⟨r, m, p, e.trans (by rw [hr])⟩

theorem State.violation_tamperN (cause port pkg inst addr : Nat) : (s.violation cause port pkg inst addr).tamperN = s.tamperN := by
  have e := congrArg State.tamperN (s.violation_portsOnly cause port pkg inst addr).rest
  exact e

theorem State.setBit_tamperN (a : Nat) (f : Fld) (b : Bool) : (s.setBit a f b).tamperN = s.tamperN := by rfl

/-- A register shows what boot has done. -/
theorem State.setBit_of_bootOnly (g : BootSt → BootSt) (a : Nat) (f : Fld) (b : Bool) : (s.updBoot g).setBit a f b =
    { s with regs := ((s.updBoot g).setBit a f b).regs, boot := ((s.updBoot g).setBit a f b).boot } := by rfl

theorem exec_wipe (port : PortNo) (h : s.reaches SEC_CTRL) : exec (.wipe port) s = .next s.beginWipe :=
  congrArg Host.Outcome.next (s.reach_open port.val _ _ h.1 h.2)

end

/-! Life-cycle transitions (R444). -/

section

variable {s : State} (port : PortNo) {v : Word}

theorem exec_lcTransition (h : s.reaches BOOT_LC_CMD) (hgo : getF v BOOT_LC_CMD_GO = 1) (hconf : getF v BOOT_LC_CMD_CONFIRM = 0x4C43) :
    exec (.lcTransition port v) s = .next (if s.lcAccepts (getF v BOOT_LC_CMD_TARGET) then
      (s.setBit BOOT_LC_CMD BOOT_LC_CMD_BUSY true).updBoot
        (fun b => { b with lcTarget := some (max (getF v BOOT_LC_CMD_TARGET) (b.lcTarget.getD 0)) })
    else (s.setBit BOOT_LC_CMD BOOT_LC_CMD_REFUSED true).violation 0x02 port.val 0 0 BOOT_LC_CMD) := by
  have hreach : exec (.lcTransition port v) s = .next (s.lcCommand port.val v) :=
    congrArg Host.Outcome.next (s.reach_open port.val _ _ h.1 h.2)
  refine hreach.trans (congrArg _ (if_neg ?_))
  rw [hgo, hconf]
  decide

theorem State.lcAccepts_true {n : Nat} (hlt : s.lc < n) (hboot : s.bit BOOT_STAT BOOT_STAT_BOOTING = false) (hruns : s.runs = [])
    (hflow : ∀ n, n < 8 → s.bit (FLW_STAT n) FLW_STAT_RUNNING = false) : s.lcAccepts n = true := by
  rw [State.lcAccepts, decide_eq_true hlt, hboot, hruns, State.anyFlowOn_eq_false.mpr hflow]
  rfl

theorem State.lcAccepts_false {n : Nat} (h : n ≤ s.lc ∨ s.bit BOOT_STAT BOOT_STAT_BOOTING = true ∨ s.runs ≠ [] ∨
    ∃ n, n < 8 ∧ s.bit (FLW_STAT n) FLW_STAT_RUNNING = true) : s.lcAccepts n = false := by
  unfold State.lcAccepts
  rcases h with h | h | h | h
  · rw [decide_eq_false (Nat.not_lt.mpr h)]
    rfl
  · rw [h, Bool.not_true, Bool.and_false]
    rfl
  · rw [List.isEmpty_eq_false_iff.mpr h, Bool.and_false]
    rfl
  · rw [State.anyFlowOn_eq_true.mpr h, Bool.not_true, Bool.and_false]

end

section

variable (s : State)

/-- The fuses of a life-cycle transition are programmed (R444, R354). -/
theorem exec_lcFusesProgrammed {n : Nat} (h : s.boot.lcTarget = some n) : exec .lcFusesProgrammed s =
    .next (((s.setBit BOOT_LC_CMD BOOT_LC_CMD_BUSY false).beginWipe.programFuses n).updBoot fun b => { b with lcTarget := none }) := by
  have harm : exec .lcFusesProgrammed s = execLcFusesProgrammed s := rfl
  rw [harm, execLcFusesProgrammed, h]

/-- What the programming of fuses shows and leaves. -/
theorem State.programFuses_spec (u : State) (n : Nat) (f : BootSt → BootSt) :
    ((u.programFuses n).updBoot f).fuses = u.fuses ||| (2 ^ n - 1) ∧ ((u.programFuses n).updBoot f).bit = u.bit ∧
    ((u.programFuses n).updBoot f).boot = f u.boot ∧ ((u.programFuses n).updBoot f).byteAt = u.byteAt := ⟨rfl, rfl, rfl, rfl⟩

theorem State.beginWipe_kept : s.beginWipe.fuses = s.fuses ∧ s.beginWipe.boot = s.boot := by
  obtain ⟨r, m, p, hframe⟩ := s.beginWipe_frame
  rw [hframe]
  exact ⟨rfl, rfl⟩

theorem State.beginWipe_bit_ne {a : Nat} (ha : a ≠ SEC_STAT) (f : Fld) : s.beginWipe.bit a f = s.bit a f := by
  rw [State.bit, State.fld, s.beginWipe_reg ha, State.bit, State.fld]

theorem lcFusesProgrammed_spec {n : Nat} (h : s.boot.lcTarget = some n) (hw : s.bit SEC_STAT SEC_STAT_WIPING = false) :
    ∃ t, exec .lcFusesProgrammed s = .next t ∧ t.fuses = s.fuses ||| (2 ^ n - 1) ∧ t.bit BOOT_LC_CMD BOOT_LC_CMD_BUSY = false ∧
      t.bit SEC_STAT SEC_STAT_WIPING = true ∧ t.boot = { s.boot with lcTarget := none } ∧
      (∀ a, t.byteAt a = if 0x3FF00000000 ≤ a ∧ a < 0x3FF00100000 then 0 else s.byteAt a) := by
  obtain ⟨hfuses, hbit, hboot, hbyte⟩ := (s.setBit BOOT_LC_CMD BOOT_LC_CMD_BUSY false).beginWipe.programFuses_spec n
    fun b => { b with lcTarget := none }
  obtain ⟨hf, hb⟩ := (s.setBit BOOT_LC_CMD BOOT_LC_CMD_BUSY false).beginWipe_kept
  have hidle : (s.setBit BOOT_LC_CMD BOOT_LC_CMD_BUSY false).bit SEC_STAT SEC_STAT_WIPING = false := by
    rw [s.setBit_bit_ne _ _ _ _ _ (by decide), hw]
  refine ⟨_, exec_lcFusesProgrammed s h, ?_, ?_, ?_, ?_, fun a => ?_⟩
  · rw [hfuses, hf, State.setBit_fuses]
  · rw [hbit, State.beginWipe_bit_ne _ (by decide), s.setBit_bit _ _ _ (by decide) (by decide)]
  · rw [hbit, State.beginWipe_wiping]
  · rw [hboot, hb, State.setBit_boot]
  · rw [hbyte, State.beginWipe_byteAt hidle, State.setBit_byteAt]

end

/-! Repairs go to the flash (R440). -/

section

variable {s : State} (array inst bank row spare : Nat)

theorem repairEntry_length : (repairEntry array inst bank row spare).length = 16 := by
  simp [repairEntry, leBytes]

theorem exec_repairAppend (h : (array, inst, bank, row, spare) ∈ s.boot.appends) :
    exec (.repairAppend array inst bank row spare) s = .next (
      match s.erasedRepair (s.fld BOOT_STAT BOOT_STAT_ACTIVE_BANK) with
      | some a => (s.updBoot (fun b => { b with appends := b.appends.erase (array, inst, bank, row, spare) })).putFlash a
          (repairEntry array inst bank row spare)
      | none => (s.updBoot (fun b => { b with appends := b.appends.erase (array, inst, bank, row, spare) })).setBit BOOT_STAT
          BOOT_STAT_REPAIR_FULL true) := by
  have harm : exec (.repairAppend array inst bank row spare) s = execRepairAppend array inst bank row spare s := rfl
  rw [harm, execRepairAppend, if_pos (List.contains_iff_mem.mpr h)]
  cases s.erasedRepair (s.fld BOOT_STAT BOOT_STAT_ACTIVE_BANK) <;> rfl

theorem State.putFlash_flashByte (u : State) (a : Nat) (l : List Byte) (m : Nat) :
    (u.putFlash a l).flashByte m = if a ≤ m ∧ m < a + l.length then l.getD (m - a) 0 else u.flashByte m :=
  tget_tputs _ l 0 u.flash a m

end

/-- Settles O10: the four commands of the life cycle and the scratchpad by what `State.beginWipe` does, the repair by what a write of the
flash does. -/
theorem lifeCycleRepairsAndWipes : Obligations.LifeCycleRepairsAndWipes := by
  unfold Obligations.LifeCycleRepairsAndWipes
  refine ⟨fun port v s => ⟨fun hreach hgo hconf => ⟨fun hlt hboot hruns hflow => ?_, fun hnot => ?_⟩,
      fun n h hw => lcFusesProgrammed_spec s h hw⟩,
    fun array inst bank row spare s hmem => ⟨fun a ha => ?_, fun hnone => ?_⟩,
    fun port s => ⟨fun hreach hidle => ?_, fun hreach hbusy => ?_, fun hbusy hroom => ?_, ?_, rfl⟩⟩
  · have hexec := exec_lcTransition port hreach hgo hconf
    rw [State.lcAccepts_true hlt hboot hruns hflow, if_pos rfl] at hexec
    refine ⟨_, hexec, ?_, ?_, s.updBoot_frame_of_regsOnly _ (s.setBit_regsOnly _ _ _), fun a ha => ?_⟩
    · rw [State.updBoot_bit, s.setBit_bit _ _ _ (by decide) (by decide)]
    · rw [State.updBoot_boot, State.setBit_boot]
    · rw [State.updBoot_reg, s.setBit_regsKept _ _ _ a ha]
  · have hexec := exec_lcTransition port hreach hgo hconf
    rw [State.lcAccepts_false hnot, if_neg Bool.false_ne_true] at hexec
    refine ⟨_, hexec, ?_, ?_, ?_⟩
    · rw [State.violation_bit _ _ _ _ _ _ _ _ (by decide), s.setBit_bit _ _ _ (by decide) (by decide)]
    · rw [State.violation_boot, State.setBit_boot]
    · rw [State.violation_fuses, State.setBit_fuses]
  · have hexec := exec_repairAppend array inst bank row spare hmem
    rw [ha] at hexec
    refine ⟨_, hexec, fun m => ?_, ?_, ?_⟩
    · rw [State.putFlash_flashByte, repairEntry_length]
      rfl
    · rfl
    · rfl
  · have hexec := exec_repairAppend array inst bank row spare hmem
    rw [hnone] at hexec
    refine ⟨_, hexec, ?_, ?_, State.setBit_of_bootOnly s _ _ _ _, fun a ha => ?_⟩
    · rw [State.setBit_bit _ _ _ _ (by decide) (by decide)]
    · rw [State.setBit_boot, State.updBoot_boot]
    · rw [State.setBit_regsKept _ _ _ _ a ha, State.updBoot_reg]
  · refine ⟨_, exec_wipe s port hreach, s.beginWipe_wiping, State.beginWipe_byteAt hidle, State.beginWipe_poison hidle, ?_, fun a ha => ?_⟩
    · obtain ⟨r, m, p, hframe⟩ := s.beginWipe_frame
      rw [hframe]
    · exact s.beginWipe_reg fun e => ha (e ▸ List.mem_singleton_self _)
  · rw [exec_wipe s port hreach, State.beginWipe_busy hbusy]
  · have hexec : exec .wipeEnd s = .next ((s.setBit SEC_STAT SEC_STAT_WIPING false).countSat SEC_STAT SEC_STAT_WIPES 1) := if_pos hbusy
    refine ⟨_, hexec, ?_, ?_, State.regsOnly_trans (s.setBit_regsOnly _ _ _) (State.setFld_regsOnly _ _ _ _),
      State.regsKept_trans (s.setBit_regsKept _ _ _) (State.setFld_regsKept _ _ _ (List.mem_singleton_self _))⟩
    · rw [State.countSat, State.setFld_bit_apart _ _ _ _ _ (by decide), s.setBit_bit _ _ _ (by decide) (by decide)]
    · rw [State.countSat_one_fld _ _ _ (by decide) (by decide), s.setBit_fld_apart _ _ _ _ (by decide)]
      omega
  · obtain ⟨r, m, p, hframe⟩ := ({ s with tamperN := false } : State).beginWipe_frame
    have hwiping := ({ s with tamperN := false } : State).beginWipe_wiping
    have hnow : ({ s with tamperN := false } : State).beginWipe.tamperN = false := by rw [hframe]
    have hexec : exec .tamper s = .next ((({ s with tamperN := false } : State).beginWipe.setBit SEC_STAT SEC_STAT_TAMPERED true).violation
      0x07 byDevice 0 0 0) := rfl
    refine ⟨_, hexec, ?_, ?_, ?_, rfl⟩
    · rw [State.violation_tamperN, State.setBit_tamperN, hnow]
    · rw [State.violation_bit _ _ _ _ _ _ _ _ (by decide), State.setBit_bit _ _ _ _ (by decide) (by decide)]
    · rw [State.violation_bit _ _ _ _ _ _ _ _ (by decide), State.setBit_bit_apart _ _ _ _ _ (by decide), hwiping]

end Sys2Proof.Machine
end

section
namespace Sys2Proof.Machine

/-! The datalog (R398-R400): what its writers leave. -/

/-- The registers that the datalog writes. -/
def logRegs : List Nat := [ FLW_LOG_WPTR, FLW_LOG_SEQ, FLW_LOG_STAT] ++ (List.range 8).map FLW_STAT

/-- From s to t the datalog has acted: what lies in memory, the waiting writers and the registers of the datalog may have changed, of FLW_STAT
LOGWAIT alone. -/
structure LogKept (s t : State) : Prop where
  pins : t.pinView = s.pinView
  rest : ({ t.sansMem with regs := [], logWait := [] } : State) = { s.sansMem with regs := [], logWait := [] }
  regs : ∀ a, a ∉ logRegs → t.reg a = s.reg a
  stat : ∀ n, n < 8 → ∀ f, FLW_STAT_LOGWAIT.apart f = true → t.fld (FLW_STAT n) f = s.fld (FLW_STAT n) f

theorem flwStat_mem_logRegs {n : Nat} (h : n < 8) : FLW_STAT n ∈ logRegs :=
  List.mem_append_right _ (List.mem_map_of_mem (List.mem_range.mpr h))

theorem flwStat_ne {n : Nat} (h : n < 8) : FLW_STAT n ≠ FLW_LOG_WPTR ∧ FLW_STAT n ≠ FLW_LOG_SEQ ∧ FLW_STAT n ≠ FLW_LOG_STAT := by
  simp only [FLW_STAT, FLW_LOG_WPTR, FLW_LOG_SEQ, FLW_LOG_STAT, hubBlk]
  omega

namespace LogKept

variable {s t u : State}

theorem refl (s : State) : LogKept s s := ⟨rfl, rfl, fun _ _ => rfl, fun _ _ _ _ => rfl⟩

theorem trans (h : LogKept s t) (k : LogKept t u) : LogKept s u :=
  ⟨k.pins.trans h.pins, k.rest.trans h.rest, fun a ha => (k.regs a ha).trans (h.regs a ha),
    fun n hn f hf => (k.stat n hn f hf).trans (h.stat n hn f hf)⟩

/-- Memory alone has changed. -/
theorem of_mem (hsans : t.sansMem = s.sansMem) (hpins : t.pinView = s.pinView) : LogKept s t := by
  have hregs : t.regs = s.regs := by
    have e := congrArg State.regs hsans
    exact e
  exact ⟨hpins, by rw [hsans], fun a _ => congrArg (fun l => tget regReset l a) hregs,
    fun n _ f _ => congrArg (fun l => getF (tget regReset l (FLW_STAT n)) f) hregs⟩

theorem withLogWait (s : State) (l : List LogTask) : LogKept s { s with logWait := l } :=
  ⟨rfl, rfl, fun _ _ => rfl, fun _ _ _ _ => rfl⟩

theorem setReg_rest (s : State) (a : Nat) (w : Word) : ({ (s.setReg a w).sansMem with regs := [], logWait := [] } : State) =
    { s.sansMem with regs := [], logWait := [] } := rfl

/-- A register of the datalog that is no FLW_STAT is written. -/
theorem setReg (s : State) {a : Nat} (w : Word) (ha : a = FLW_LOG_WPTR ∨ a = FLW_LOG_SEQ ∨ a = FLW_LOG_STAT) :
    LogKept s (s.setReg a w) := by
  have hmem : a ∈ logRegs := by
    rcases ha with h | h | h <;> rw [h] <;> simp [logRegs]
  refine ⟨s.setReg_pinView a w, setReg_rest s a w, fun m hm => s.setReg_reg_ne a w m fun e => hm (e ▸ hmem), fun n hn f _ => ?_⟩
  obtain ⟨hw, hs, ht⟩ := flwStat_ne hn
  refine s.setReg_fld_ne a w _ f ?_
  rcases ha with h | h | h <;> rw [h] <;> assumption

theorem setFld (s : State) {a : Nat} (f : Fld) (v : Nat) (ha : a = FLW_LOG_WPTR ∨ a = FLW_LOG_SEQ ∨ a = FLW_LOG_STAT) :
    LogKept s (s.setFld a f v) := setReg s _ ha

/-- LOGWAIT of a flow engine is shown. -/
theorem setLogWait (s : State) {n : Nat} (hn : n < 8) (b : Bool) : LogKept s (s.setBit (FLW_STAT n) FLW_STAT_LOGWAIT b) := by
  refine ⟨s.setReg_pinView _ _, setReg_rest s _ _, fun m hm => s.setBit_reg_ne _ _ b m fun e => hm (e ▸ flwStat_mem_logRegs hn), fun m _ f hf => ?_⟩
  by_cases he : FLW_STAT m = FLW_STAT n
  · rw [he, s.setBit_fld_apart _ _ f b hf]
  · exact s.setBit_fld_ne _ _ b _ f he

theorem foldl {α : Type} {f : State → α → State} {l : List α} (hf : ∀ x ∈ l, ∀ t, LogKept s t → LogKept s (f t x)) (h : LogKept s t) :
    LogKept s (l.foldl f t) :=
  List.foldlRecOn l f h fun u hu x hx => hf x hx u hu

/-! What it leaves, read by read. -/

variable (h : LogKept s t)
include h

theorem pinsKept : s.pinsKept t := State.pinsKept_of_pinView h.pins

theorem flow (n : Nat) : t.flow n = s.flow n := by
  have e := congrArg (fun x : State => x.flow n) h.rest
  exact e

theorem site (k : Nat) : t.site k = s.site k := by
  have e := congrArg (fun x : State => x.site k) h.rest
  exact e

theorem cl (k : Nat) : t.cl k = s.cl k := by
  have e := congrArg (fun x : State => x.cl k) h.rest
  exact e

theorem engines : t.engines = s.engines := by
  have e := congrArg State.engines h.rest
  exact e

theorem runs : t.runs = s.runs := by
  have e := congrArg State.runs h.rest
  exact e

theorem flags : t.flags = s.flags := by
  have e := congrArg State.flags h.rest
  exact e

theorem flowRegs : t.flowRegs = s.flowRegs := by
  have e := congrArg State.flowRegs h.rest
  exact e

theorem bench : t.bench = s.bench := by
  have e := congrArg State.bench h.rest
  exact e

theorem pkgBench : t.pkgBench = s.pkgBench := by
  have e := congrArg State.pkgBench h.rest
  exact e


theorem fld {a : Nat} (ha : a ∉ logRegs) (f : Fld) : t.fld a f = s.fld a f := congrArg (getF · f) (h.regs a ha)
theorem bit {a : Nat} (ha : a ∉ logRegs) (f : Fld) : t.bit a f = s.bit a f := congrArg (· == 1) (h.fld ha f)

theorem logSize : t.logSize = s.logSize := by
  rw [State.logSize, State.logSize, h.fld (by decide)]

theorem logBase : t.logBase = s.logBase := by
  rw [State.logBase, State.logBase, h.fld (by decide), h.fld (by decide)]

end LogKept

/-! A record is written (R398, R399). -/

/-- The datalog ring holds no register. -/
abbrev State.logInMemory (s : State) : Prop := ∀ o, o < s.logSize → addrKind (s.logBase + o) ≠ .register

theorem LogKept.logInMemory {s t : State} (h : LogKept s t) (k : s.logInMemory) : t.logInMemory := fun o ho => by
  rw [h.logBase]
  exact k o (h.logSize ▸ ho)

section

variable (s : State)

theorem State.storeLines_kept (a : Nat) (l : List Byte) (n : Nat) :
    (s.storeLines a l n).sansMem = s.sansMem ∧ (s.storeLines a l n).pinView = s.pinView := by
  induction n generalizing s a l with
  | zero => exact ⟨rfl, rfl⟩
  | succ n ih =>
    unfold State.storeLines
    split
    · exact ⟨rfl, rfl⟩
    · obtain ⟨hsans, hpins⟩ := ih (s.store a (l.take (64 - a % 64))) (a + (64 - a % 64)) (l.drop (64 - a % 64))
      exact ⟨hsans.trans (s.store_sansMem ..), hpins.trans (s.store_pinView ..)⟩

theorem State.logStore_kept {a : Nat} (l : List Byte) (h : addrKind a ≠ .register) :
    (s.logStore a l).sansMem = s.sansMem ∧ (s.logStore a l).pinView = s.pinView := by
  unfold State.logStore
  split
  · exact ⟨rfl, rfl⟩
  · split
    · unfold State.flowStore
      split
      · exact ⟨rfl, rfl⟩
      · exact s.storeLines_kept a l _
    · exact ⟨rfl, rfl⟩

theorem State.nextSeq_kept : LogKept s s.nextSeq := by
  unfold State.nextSeq
  dsimp only
  split
  · exact (LogKept.setReg s _ (.inr (.inl rfl))).trans (LogKept.setFld _ _ _ (.inr (.inr rfl)))
  · exact LogKept.setReg s _ (.inr (.inl rfl))

theorem State.nextSeq_seq : s.nextSeq.reg FLW_LOG_SEQ = s.reg FLW_LOG_SEQ + 1 := by
  unfold State.nextSeq
  dsimp only
  split
  · rw [State.setFld_reg_ne _ _ _ _ _ (by decide), State.setReg_reg]
  · rw [State.setReg_reg]

theorem State.nextSeq_wptr : s.nextSeq.reg FLW_LOG_WPTR = s.reg FLW_LOG_WPTR := by
  unfold State.nextSeq
  dsimp only
  split
  · rw [State.setFld_reg_ne _ _ _ _ _ (by decide), s.setReg_reg_ne _ _ _ (by decide)]
  · rw [s.setReg_reg_ne _ _ _ (by decide)]

theorem State.nextSeq_logWait : s.nextSeq.logWait = s.logWait := by
  unfold State.nextSeq
  dsimp only
  split
  · rw [State.setFld_logWait, State.setReg_logWait]
  · rw [State.setReg_logWait]

theorem State.logSize_pos : 0 < s.logSize := Nat.two_pow_pos _


/-- The rules of a record before it is written: its SEQ and EPOCH, and its place in the ring. -/
theorem State.logWrite_eq (r : List Byte) : ∃ l : List Byte, l.length = (patchList r 4 (leBytes 4 (s.reg FLW_LOG_SEQ).toNat ++
      leBytes 1 (s.fld FLW_LOG_STAT FLW_LOG_STAT_EPOCH))).length ∧ ∃ o k, o < s.logSize ∧
    s.logWrite r = ((((s.logStore (s.logBase + o) (l.take k)).logStore s.logBase (l.drop k)).setReg FLW_LOG_WPTR
      (s.reg FLW_LOG_WPTR + BitVec.ofNat 32 l.length)).nextSeq) :=
  ⟨_, rfl, _, _, Nat.mod_lt _ s.logSize_pos, rfl⟩

/-- What a record that is written shows: it takes its bytes of the ring and one SEQ. -/
structure Logged (s t : State) (n : Nat) : Prop extends LogKept s t where
  wptr : t.reg FLW_LOG_WPTR = s.reg FLW_LOG_WPTR + BitVec.ofNat 32 n
  seq : t.reg FLW_LOG_SEQ = s.reg FLW_LOG_SEQ + 1
  waits : t.logWait = s.logWait

theorem patchList_length {r new : List Byte} (o : Nat) (h : o + new.length ≤ r.length) : (patchList r o new).length = r.length := by
  simp only [patchList, List.length_append, List.length_take, List.length_drop]
  omega

/-- A record lies in memory: WPTR and SEQ go on. -/
theorem State.logged_of_mem {s u : State} (n : Nat) (hsans : u.sansMem = s.sansMem) (hpins : u.pinView = s.pinView) :
    Logged s (u.setReg FLW_LOG_WPTR (s.reg FLW_LOG_WPTR + BitVec.ofNat 32 n)).nextSeq n := by
  have hregs : u.regs = s.regs := by
    have e := congrArg State.regs hsans
    exact e
  have hwait : u.logWait = s.logWait := by
    have e := congrArg State.logWait hsans
    exact e
  have hkept := (LogKept.of_mem hsans hpins).trans (LogKept.setReg u (s.reg FLW_LOG_WPTR + BitVec.ofNat 32 n) (.inl rfl))
  refine ⟨hkept.trans (State.nextSeq_kept _), ?_, ?_, ?_⟩
  · rw [State.nextSeq_wptr, State.setReg_reg]
  · rw [State.nextSeq_seq, State.setReg_reg_ne _ _ _ _ (by decide), State.reg, hregs, State.reg]
  · rw [State.nextSeq_logWait, State.setReg_logWait, hwait]

theorem State.logWrite_logged (r : List Byte) (hmem : s.logInMemory) (hr : 9 ≤ r.length) : Logged s (s.logWrite r) r.length := by
  obtain ⟨l, hl, o, k, ho, e⟩ := s.logWrite_eq r
  have hlen : l.length = r.length := hl.trans (patchList_length 4 (by simpa [leBytes] using hr))
  have hbase := hmem 0 s.logSize_pos
  rw [Nat.add_zero] at hbase
  have hone := s.logStore_kept (l.take k) (hmem o ho)
  have htwo := (s.logStore (s.logBase + o) (l.take k)).logStore_kept (l.drop k) hbase
  rw [e, hlen]
  exact State.logged_of_mem _ (htwo.1.trans hone.1) (htwo.2.trans hone.2)

/-! The writers take their turns (R399, R400). -/

theorem State.showLogWait_kept : LogKept s s.showLogWait :=
  LogKept.foldl (fun _ hn t h => h.trans (LogKept.setLogWait t (List.mem_range.mp hn) _)) (LogKept.refl s)

theorem State.showLogWait_logWait : s.showLogWait.logWait = s.logWait :=
  foldl_obs _ State.logWait (fun t _ => t.setBit_logWait _ _ _) _ s

theorem State.showLogWait_reg {a : Nat} (h : ∀ n, n < 8 → a ≠ FLW_STAT n) : s.showLogWait.reg a = s.reg a :=
  foldl_obs_mem _ (fun t => t.reg a) _ (fun n hn t => t.setBit_reg_ne _ _ _ a (h n (List.mem_range.mp hn))) s

theorem Logged.showLogWait {s t : State} {n : Nat} (h : Logged s t n) : Logged s t.showLogWait n :=
  ⟨h.toLogKept.trans t.showLogWait_kept, (t.showLogWait_reg fun _ hn => (flwStat_ne hn).1.symm).trans h.wptr,
    (t.showLogWait_reg fun _ hn => (flwStat_ne hn).2.1.symm).trans h.seq, t.showLogWait_logWait.trans h.waits⟩

/-- With no other writer waiting, a record that fits is written at once. -/
theorem State.logEmit_logged (r : List Byte) (hfree : s.logFree) (hfits : s.logFits r.length = true) (hr : 9 ≤ r.length) :
    Logged s (s.logEmit r) r.length := by
  obtain ⟨hwait, hmem⟩ := hfree
  have hlog := s.logWrite_logged r hmem hr
  have hself : ({ s with logWait := [] } : State) = s := by
    rw [← hwait]
  have hput : s.logPut r = some (s.logWrite r) := if_pos hfits
  have hrun : ({ s with logWait := [.record r] } : State).logRun 2 = s.logWrite r := by
    unfold State.logRun
    dsimp only
    rw [hself, State.logStep, hput, Option.elim_some]
    unfold State.logRun
    rw [hlog.waits, hwait]
  have hemit : s.logEmit r = (s.logWrite r).showLogWait := by
    rw [State.logEmit, State.logTask, State.logDrain, hwait]
    exact congrArg State.showLogWait hrun
  rw [hemit]
  exact hlog.showLogWait

/-- With no writer waiting there is nothing to do but to say so. -/
theorem State.logDrain_none (h : s.logWait = []) : s.logDrain = s.showLogWait := by
  rw [State.logDrain, h]
  rfl

end
end Sys2Proof.Machine
end

section
namespace Sys2Proof.Machine

/-! The pointer and the configuration of the datalog and of flow engines (R383, R398, R400, Table 14-6). -/

section

variable {s : State}

/-- What a command puts into the datalog over registers is nothing when the datalog is as it was. -/
theorem State.putNewRecords_none {t : State} (h : t.flowRegs = s.flowRegs) : t.putNewRecords s = t := if_pos h

theorem State.showLogWait_regsOnly (t : State) : t.regsOnly t.showLogWait :=
  List.foldlRecOn (motive := fun u => t.regsOnly u) _ _ rfl fun _ h _ _ => State.regsOnly_trans h (State.setBit_regsOnly _ _ _ _)

theorem State.showLogWait_regsKept (t : State) : t.regsKept t.showLogWait ((List.range 8).map FLW_STAT) := fun _ ha =>
  t.showLogWait_reg fun _ hn e => ha (List.mem_map.mpr ⟨_, List.mem_range.mpr hn, e.symm⟩)

/-- The read pointer that a write gives. -/
def State.releasedTo (s : State) (value : Word) : Word :=
  if (value - s.reg FLW_LOG_RPTR).toNat ≤ (s.reg FLW_LOG_WPTR - s.reg FLW_LOG_RPTR).toNat then value else s.reg FLW_LOG_WPTR

theorem State.logRelease_eq (value : Word) (h : s.logWait = []) :
    s.logRelease value = (s.setReg FLW_LOG_RPTR (s.releasedTo value)).showLogWait := by
  have hwait : (s.setReg FLW_LOG_RPTR (s.releasedTo value)).logWait = [] := (State.setReg_logWait ..).trans h
  exact State.logDrain_none _ hwait

theorem exec_logRptrWrite (port : PortNo) (value : Word) (h : s.reaches FLW_LOG_RPTR) :
    exec (.logRptrWrite port value) s = .next ((s.logRelease value).putNewRecords s) :=
  congrArg Host.Outcome.next (s.reach_open port.val _ _ h.1 h.2)

theorem logRptrWrite_releases (port : PortNo) (value : Word) (h : s.reaches FLW_LOG_RPTR) (hwait : s.logWait = []) :
    ∃ t, exec (.logRptrWrite port value) s = .next t ∧ t.reg FLW_LOG_RPTR = s.releasedTo value ∧ t = { s with regs := t.regs } ∧
      s.regsKept t (FLW_LOG_RPTR :: (List.range 8).map FLW_STAT) := by
  have honly := State.regsOnly_trans (s.setReg_regsOnly FLW_LOG_RPTR (s.releasedTo value)) (State.showLogWait_regsOnly _)
  have hnone : ∀ n, n < 8 → FLW_LOG_RPTR ≠ FLW_STAT n := fun n hn => by
    simp only [FLW_LOG_RPTR, FLW_STAT, hubBlk]
    omega
  refine ⟨(s.setReg FLW_LOG_RPTR (s.releasedTo value)).showLogWait, ?_, ?_, honly, fun a ha => ?_⟩
  · rw [exec_logRptrWrite port value h, s.logRelease_eq value hwait, State.putNewRecords_none (by rw [honly])]
  · rw [State.showLogWait_reg _ hnone, State.setReg_reg]
  · rw [List.mem_cons, not_or] at ha
    rw [State.showLogWait_regsKept _ _ ha.2, s.setReg_reg_ne _ _ _ ha.1]

/-- The row of FLW_CFG. -/
def flwCfgRow : RegRow := ⟨0x10, [(64, 8)], 2032639, 253690879, 0, 0, 0, 0⟩

theorem regRow_flwCfg (n : FlowNo) : regRow (FLW_CFG n.val) = some flwCfgRow := by
  revert n
  decide

theorem State.flowCfg_flwCfg (n : FlowNo) : s.flowCfg (FLW_CFG n.val) = some (s.flowOn n.val) := by
  have hfind : ∀ n : FlowNo, (List.range 8).find? (fun k => FLW_CFG n.val == FLW_TABLE_LO k || FLW_CFG n.val == FLW_TABLE_HI k ||
      FLW_CFG n.val == FLW_RETEST k || FLW_CFG n.val == FLW_CFG k) = some n.val := by decide
  rw [State.flowCfg, hfind n]

theorem exec_flowConfigWrite (port : PortNo) (n : FlowNo) (value : Word) (h : s.reaches (FLW_CFG n.val)) :
    exec (.flowConfigWrite port (FLW_CFG n.val) value 15) s = .next (s.flowCfgWrite port.val (FLW_CFG n.val) value 15) :=
  congrArg Host.Outcome.next (s.reach_open port.val _ _ h.1 h.2)

end

/-! Summaries reach Bench (R401, R503). -/

section

variable (s : State) (c : Nat)

theorem State.reportFill_frame : s.reportFill c = { s with runs := (s.reportFill c).runs } := by
  unfold State.reportFill
  split <;> rfl

theorem State.reportFill_runs : ∀ r ∈ (s.reportFill c).runs, ∃ q ∈ s.runs,
    r = { q with reports := r.reports, lastReport := r.lastReport } := by
  unfold State.reportFill
  split
  · exact fun r hr => ⟨r, hr, rfl⟩
  · intro r hr
    obtain ⟨q, hq, rfl⟩ := List.mem_map.mp hr
    refine ⟨q, hq, ?_⟩
    split <;> rfl

/-- A cluster's oldest summary has reached Bench. -/
def State.summaryArrived (y : Summary) (l : List Summary) : State :=
  ({ s with bench := s.bench ++ [y] }).updCl c (fun x => { x with toSend := l, kept := x.kept && !l.isEmpty })

variable {s} {y : Summary} {l : List Summary} (c : ClNo) (h : (s.cl c.val).toSend = y :: l)
include h

theorem exec_summaryArrive : exec (.summaryArrive c) s = .next (if s.bench.length < 256 then (s.summaryArrived c.val y l).reportFill c.val
    else s.updCl c.val (fun x => { x with kept := true })) := by
  have harm : exec (.summaryArrive c) s = execSummaryArrive c s := rfl
  rw [harm, execSummaryArrive, h]
  dsimp only
  split <;> rfl

theorem summaryArrive_arrives (hroom : s.bench.length < 256) : ∃ t, exec (.summaryArrive c) s = .next t ∧ t.bench = s.bench ++ [y] ∧
    (t.cl c.val).toSend = l ∧ (∀ k, k ≠ c.val → t.cl k = s.cl k) ∧
    t = { s with bench := t.bench, clusters := t.clusters, runs := t.runs } ∧
    ∀ r ∈ t.runs, ∃ q ∈ s.runs, r = { q with reports := r.reports, lastReport := r.lastReport } := by
  have hexec := exec_summaryArrive c h
  rw [if_pos hroom] at hexec
  have hframe := (s.summaryArrived c.val y l).reportFill_frame c.val
  have hcl : ∀ k, ((s.summaryArrived c.val y l).reportFill c.val).cl k = (s.summaryArrived c.val y l).cl k := fun k => by
    rw [hframe]
    rfl
  refine ⟨_, hexec, by rw [hframe]; rfl, ?_, fun k hk => ?_, ?_, State.reportFill_runs _ _⟩
  · rw [hcl, State.summaryArrived, State.updCl_cl]
  · rw [hcl, State.summaryArrived, State.updCl_cl_ne _ _ _ _ hk]
    rfl
  · rw [hframe]
    rfl

theorem summaryArrive_kept (hfull : 256 ≤ s.bench.length) : ∃ t, exec (.summaryArrive c) s = .next t ∧ (t.cl c.val).toSend = y :: l ∧
    (t.cl c.val).kept = true ∧ (∀ k, k ≠ c.val → t.cl k = s.cl k) ∧ t = { s with clusters := t.clusters } := by
  have hexec := exec_summaryArrive c h
  rw [if_neg (Nat.not_lt.mpr hfull)] at hexec
  refine ⟨_, hexec, ?_, ?_, fun k hk => State.updCl_cl_ne _ _ _ _ hk, rfl⟩
  · rw [State.updCl_cl, h]
  · rw [State.updCl_cl]

end

/-! The least of those that wait (R402, R403). -/

theorem foldl_least {α : Type} {le : α → α → Prop} {f : α → α → α} (hrefl : ∀ m, le m m)
    (htrans : ∀ a b c, le a b → le b c → le a c) (hf : ∀ m z, le (f m z) m ∧ le (f m z) z) (l : List α) (m : α) :
    le (l.foldl f m) m ∧ ∀ z ∈ l, le (l.foldl f m) z := by
  induction l generalizing m with
  | nil => exact ⟨hrefl m, fun z hz => nomatch hz⟩
  | cons x l ih =>
    obtain ⟨hm, hl⟩ := ih (f m x)
    refine ⟨htrans _ _ _ hm (hf m x).1, fun z hz => ?_⟩
    rcases List.mem_cons.mp hz with rfl | hz
    · exact htrans _ _ _ hm (hf m z).2
    · exact hl z hz

theorem lowestSummary_least {l : List Summary} {y : Summary} (h : lowestSummary l = some y) :
    ∀ z ∈ l, y.cluster < z.cluster ∨ (y.cluster = z.cluster ∧ y.run ≤ z.run) := by
  cases l with
  | nil => exact nomatch h
  | cons x l =>
    obtain ⟨hx, hl⟩ := foldl_least (le := fun a b : Summary => a.cluster < b.cluster ∨ (a.cluster = b.cluster ∧ a.run ≤ b.run))
      (f := fun m z => if z.cluster < m.cluster ∨ (z.cluster = m.cluster ∧ z.run < m.run) then z else m)
      (fun m => .inr ⟨rfl, le_rfl⟩) (fun a b c => by omega) (fun m z => by split <;> constructor <;> omega) l x
    have hy : _ = y := Option.some.inj h
    rw [hy] at hx hl
    intro z hz
    rcases List.mem_cons.mp hz with rfl | hz
    · exact hx
    · exact hl z hz

theorem lowestPackage_least {l : List PkgSummary} {y : PkgSummary} (h : lowestPackage l = some y) : ∀ z ∈ l, y.pkg ≤ z.pkg := by
  cases l with
  | nil => exact nomatch h
  | cons x l =>
    obtain ⟨hx, hl⟩ := foldl_least (le := fun a b : PkgSummary => a.pkg ≤ b.pkg) (f := fun m z => if z.pkg < m.pkg then z else m)
      (fun m => le_rfl) (fun a b c => Nat.le_trans) (fun m z => by split <;> constructor <;> omega) l x
    have hy : _ = y := Option.some.inj h
    rw [hy] at hx hl
    intro z hz
    rcases List.mem_cons.mp hz with rfl | hz
    · exact hx
    · exact hl z hz

/-! Bench takes a summary (R402, R403). -/

section

variable (s : State) (y : Summary)

theorem State.recHead_length (type len n site test : Nat) : (s.recHead type len n site test).length = 16 := by
  simp [State.recHead, length_leBytes]

theorem Summary.bytes_length : y.bytes.length = 64 := by
  simp [Summary.bytes, length_leBytes]

theorem State.summaryRecord_length : (s.summaryRecord y).length = 80 := by
  unfold State.summaryRecord
  split
  · rw [List.length_append, State.recHead_length, Summary.bytes_length]
  · simp [length_leBytes, Summary.bytes_length]

theorem State.deliver_frame : s.deliver y = { s with flows := (s.deliver y).flows } := by
  unfold State.deliver
  split <;> rfl

theorem State.deliver_waiting {m id : Nat} {cs : List Nat} {res : List (Nat × Nat × Nat × Nat)} (hm : y.flow = some m)
    (hrun : (s.flow m).waiting = .run id cs res) (hid : id = y.run) :
    ((s.deliver y).flow m).waiting = .run id cs (res ++ [(y.cluster, y.endCode, y.failPins, y.failResults)]) := by
  unfold State.deliver
  rw [hm]
  dsimp only
  rw [State.updFlow_flow, hrun]
  dsimp only
  rw [if_pos hid]

/-- A summary leaves Bench. -/
def State.benchDrop : State := { s with bench := s.bench.erase y }

variable {s y} {l : List Summary}

theorem exec_benchTake (h : lowestSummary s.bench = some y) (hfree : s.logFree) (hfits : s.logFits 80 = true) : exec .benchTake s =
    .next ((((s.benchDrop y).logEmit ((s.benchDrop y).summaryRecord y)).deliver y).putNewRecords s) := by
  have hready : s.benchReady = true := by
    rw [State.benchReady, hfree.1, hfits]
    exact Bool.or_true _
  have harm : exec .benchTake s = execBenchTake s := rfl
  rw [harm, execBenchTake, h]
  dsimp only
  rw [if_pos hready]
  rfl

theorem benchTaken_reads {u : State} (hbench : u.bench = l) (hflow : u.flow = s.flow) (hwptr : u.reg FLW_LOG_WPTR = s.reg FLW_LOG_WPTR + 80)
    (hseq : u.reg FLW_LOG_SEQ = s.reg FLW_LOG_SEQ + 1) (hflowRegs : u.flowRegs = s.flowRegs) (hpins : s.pinsKept u)
    (heng : u.engines = s.engines) (hflags : u.flags = s.flags) :
    ((u.deliver y).putNewRecords s).bench = l ∧ ((u.deliver y).putNewRecords s).reg FLW_LOG_WPTR = s.reg FLW_LOG_WPTR + 80 ∧
      ((u.deliver y).putNewRecords s).reg FLW_LOG_SEQ = s.reg FLW_LOG_SEQ + 1 ∧
      (∀ m id cs res, y.flow = some m → (s.flow m).waiting = .run id cs res → id = y.run →
        (((u.deliver y).putNewRecords s).flow m).waiting = .run id cs (res ++ [(y.cluster, y.endCode, y.failPins, y.failResults)])) ∧
      s.pinsKept ((u.deliver y).putNewRecords s) ∧ ((u.deliver y).putNewRecords s).engines = s.engines ∧
      ((u.deliver y).putNewRecords s).flags = s.flags := by
  have hframe := u.deliver_frame y
  have hregs : (u.deliver y).reg = u.reg := by
    rw [hframe]
    rfl
  rw [State.putNewRecords_none (by rw [hframe]; exact hflowRegs)]
  refine ⟨?_, ?_, ?_, fun m id cs res hm hrun hid => ?_, ?_, ?_, ?_⟩
  · rw [hframe]
    exact hbench
  · rw [hregs]
    exact hwptr
  · rw [hregs]
    exact hseq
  · exact u.deliver_waiting y hm (hflow ▸ hrun) hid
  · rw [hframe]
    exact hpins
  · rw [hframe]
    exact heng
  · rw [hframe]
    exact hflags

theorem benchDrop_logFits (n : Nat) : (s.benchDrop y).logFits n = s.logFits n := rfl

theorem benchDrop_kept {u : State} {n : Nat} (hlog : Logged (s.benchDrop y) u n) : u.bench = s.bench.erase y ∧ u.flow = s.flow ∧
    u.reg FLW_LOG_WPTR = s.reg FLW_LOG_WPTR + BitVec.ofNat 32 n ∧ u.reg FLW_LOG_SEQ = s.reg FLW_LOG_SEQ + 1 ∧
    u.flowRegs = s.flowRegs ∧ s.pinsKept u ∧ u.engines = s.engines ∧ u.flags = s.flags :=
  ⟨hlog.bench, funext fun n => hlog.flow n, hlog.wptr, hlog.seq, hlog.flowRegs, hlog.pinsKept, hlog.engines, hlog.flags⟩

theorem benchTake_takes (h : lowestSummary s.bench = some y) (hfree : s.logFree) (hfits : s.logFits 80 = true) :
    ∃ t, exec .benchTake s = .next t ∧ t.bench = s.bench.erase y ∧ t.reg FLW_LOG_WPTR = s.reg FLW_LOG_WPTR + 80 ∧
      t.reg FLW_LOG_SEQ = s.reg FLW_LOG_SEQ + 1 ∧
      (∀ m id cs res, y.flow = some m → (s.flow m).waiting = .run id cs res → id = y.run →
        (t.flow m).waiting = .run id cs (res ++ [(y.cluster, y.endCode, y.failPins, y.failResults)])) ∧
      s.pinsKept t ∧ t.engines = s.engines ∧ t.flags = s.flags := by
  have hlen := (s.benchDrop y).summaryRecord_length y
  have hlog := (s.benchDrop y).logEmit_logged _ hfree (by rw [hlen, benchDrop_logFits, hfits]) (by rw [hlen]; decide)
  obtain ⟨hbench, hflow, hwptr, hseq, hregs, hpins, heng, hflags⟩ := benchDrop_kept hlog
  rw [hlen] at hwptr
  exact ⟨_, exec_benchTake h hfree hfits, benchTaken_reads hbench hflow hwptr hseq hregs hpins heng hflags⟩

end

section

variable {s : State} {y : PkgSummary} {arrived : List PkgSummary}

/-- The record of a package summary (R403, Table 14-3). -/
def pkgRecord (y : PkgSummary) : List Byte :=
  leBytes 1 6 ++ leBytes 1 5 ++ leBytes 2 (2 ^ 13 + y.pkg * 2 ^ 6 + y.flow * 2 ^ 10) ++
    leBytes 8 0 ++ leBytes 4 ((y.insert + (2 ^ 32 - 1)) % 2 ^ 32) ++ pkgBytes y

theorem pkgRecord_length (h : y.bins.length = 32) : (pkgRecord y).length = 80 := by
  simp [pkgRecord, pkgBytes, length_leBytes, h]

/-- The package summaries that have arrived wait, but for the one that Bench takes. -/
def State.pkgBenchDrop (s : State) (arrived : List PkgSummary) (y : PkgSummary) : State :=
  { s with pkgBench := (s.pkgBench ++ arrived).erase y }

theorem exec_packageSummaryTake (h : lowestPackage (s.pkgBench ++ arrived) = some y)
    (hmaster : s.bit VYN_SYS_STAT VYN_SYS_STAT_IS_MASTER = true) (hfree : s.logFree) (hfits : s.logFits 80 = true) :
    exec (.packageSummaryTake arrived) s = .next (((s.pkgBenchDrop arrived y).logEmit (pkgRecord y)).putNewRecords
      { s with pkgBench := s.pkgBench ++ arrived }) := by
  have hready : ({ s with pkgBench := s.pkgBench ++ arrived } : State).benchReady = true := by
    have hr : s.benchReady = true := by
      rw [State.benchReady, hfree.1, hfits]
      exact Bool.or_true _
    exact hr
  have hbit : ({ s with pkgBench := s.pkgBench ++ arrived } : State).bit VYN_SYS_STAT VYN_SYS_STAT_IS_MASTER = true := hmaster
  have harm : exec (.packageSummaryTake arrived) s = execPackageSummaryTake arrived s := rfl
  rw [harm, execPackageSummaryTake, if_pos hmaster]
  dsimp only
  rw [h]
  dsimp only
  rw [hready, hbit]
  rfl

theorem packageSummaryTake_takes (h : lowestPackage (s.pkgBench ++ arrived) = some y)
    (hmaster : s.bit VYN_SYS_STAT VYN_SYS_STAT_IS_MASTER = true) (hfree : s.logFree) (hfits : s.logFits 80 = true)
    (hbins : y.bins.length = 32) : ∃ t, exec (.packageSummaryTake arrived) s = .next t ∧ t.pkgBench = (s.pkgBench ++ arrived).erase y ∧
      t.reg FLW_LOG_WPTR = s.reg FLW_LOG_WPTR + 80 ∧ t.reg FLW_LOG_SEQ = s.reg FLW_LOG_SEQ + 1 ∧
      s.pinsKept t ∧ t.engines = s.engines ∧ t.flags = s.flags := by
  have hexec := exec_packageSummaryTake h hmaster hfree hfits
  have hlen := pkgRecord_length hbins
  have hlog := (s.pkgBenchDrop arrived y).logEmit_logged (pkgRecord y) hfree (hlen ▸ hfits) (by rw [hlen]; decide)
  rw [hlen] at hlog
  rw [State.putNewRecords_none (by exact hlog.flowRegs)] at hexec
  exact ⟨_, hexec, hlog.pkgBench, hlog.wptr, hlog.seq, hlog.pinsKept, hlog.engines, hlog.flags⟩

end

/-- Settles O50: the pointer and the configuration by their equations, the summaries by `lowestSummary_least` and `lowestPackage_least` and by
what a record that fits does (`State.logEmit_logged`). -/
theorem datalogAndBench : Obligations.DatalogAndBench := by
  unfold Obligations.DatalogAndBench
  intro port n c value s
  refine ⟨fun h hwait => logRptrWrite_releases port value h hwait, fun h hidle => ?_, fun h hon => ?_, fun y l h =>
    ⟨summaryArrive_arrives c h, summaryArrive_kept c h⟩, fun y h hfree hfits => ?_, fun y arrived h hmaster hfree hfits hbins => ?_⟩
  · have hexec := exec_flowConfigWrite port n value h
    rw [State.flowCfgWrite, State.flowCfg_flwCfg, hidle] at hexec
    exact ⟨_, hexec, s.partnerWrite_fld (regRow_flwCfg n) value 15 (by decide) (by decide),
      s.partnerWrite_fld (regRow_flwCfg n) value 15 (by decide) (by decide), s.partnerWrite_frame (regRow_flwCfg n) value 15,
      s.partnerWrite_regsKept _ _ _⟩
  · rw [exec_flowConfigWrite port n value h, State.flowCfgWrite, State.flowCfg_flwCfg, hon]
  · obtain ⟨t, hexec, hbench, hrest⟩ := benchTake_takes h hfree hfits
    exact ⟨t, hexec, hbench, lowestSummary_least h, hrest⟩
  · obtain ⟨t, hexec, hbench, hrest⟩ := packageSummaryTake_takes h hmaster hfree hfits hbins
    exact ⟨t, hexec, hbench, lowestPackage_least h, hrest⟩

end Sys2Proof.Machine
end

section
/-! SUPPORT. What a device write and an event keep, for every property of a state that the coherence of the shared flow space, poison outside
HBM, bytes, messages, registers and ports leave. With it: an event leaves the poison of HBM (R335, R336, R456), and no output is lost. -/

namespace Sys2Proof.Machine

/-- A property that the steps of a device write and of an event keep. -/
structure WriteInvariant (P : State → Prop) : Prop where
  coherence : ∀ s c d b w f n, P s → P { s with cache := c, dir := d, homeBusy := b, homeWaits := w, flowStores := f, free := n }
  poison : ∀ s a v, 0x3000000000 ≤ a → P s → P (s.setPoison a v)
  bytes : ∀ s a l, P s → P (s.putBytes a l)
  send : ∀ s o, P s → P (s.send o)
  registers : ∀ s r p, P s → P { s with regs := r, ports := p }

/-- A property that the steps of a device write, the writes of the shared flow space among them, and of an event keep. -/
structure DeviceInvariant (P : State → Prop) : Prop where
  flowStore1 : ∀ s x, P s → P (s.flowStore1 x)
  poison : ∀ s a v, 0x3000000000 ≤ a → P s → P (s.setPoison a v)
  bytes : ∀ s a l, P s → P (s.putBytes a l)
  send : ∀ s o, P s → P (s.send o)
  registers : ∀ s r p, P s → P { s with regs := r, ports := p }

/-- A property that the steps keep by which a line of the shared flow space is granted. -/
structure LineInvariant (l : Nat) (P : State → Prop) : Prop where
  tables : ∀ s c d n, P s → P { s with cache := c, dir := d, free := n }
  clearBusy : ∀ s, P s → P (s.clearBusy l)
  stores : ∀ s, P s → P { s with flowStores := s.flowStores.filter (fun x => x.line != l) }
  poison : ∀ s a v, 0x3000000000 ≤ a → P s → P (s.setPoison a v)
  bytes : ∀ s a l, P s → P (s.putBytes a l)
  send : ∀ s o, P s → P (s.send o)

/-- A property that the steps keep by which the home serves a request of a line. -/
structure ServeInvariant (l : Nat) (P : State → Prop) : Prop extends LineInvariant l P where
  setBusy : ∀ s x, P s → P (s.setBusy l x)

theorem homeAddr_above (l : Nat) : 0x3000000000 ≤ homeAddr l := by
  unfold homeAddr
  omega

theorem lineAddr_above (l : Nat) : 0x3000000000 ≤ lineAddr l := by
  unfold lineAddr
  omega

theorem eventBytes_length (pkg code src unit arg value : Nat) (loss : Bool) : (eventBytes pkg code src unit arg value loss).length = 32 := by
  simp [eventBytes, length_leBytes]

theorem foldl_keeps {P : State → Prop} {α : Type} {f : State → α → State} {l : List α} {s : State} (hf : ∀ x ∈ l, ∀ t, P t → P (f t x))
    (h : P s) : P (l.foldl f s) :=
  List.foldlRecOn l f h fun u hu x hx => hf x hx u hu

namespace LineInvariant

variable {l : Nat} {P : State → Prop} (hP : LineInvariant l P) {s t : State}
include hP

section

variable (h : P s)
include h

/-! The steps by which a line changes. -/

theorem setCline (k : Nat) (x : CacheLine) : P (s.setCline k x) := hP.tables s _ _ _ h
theorem setDir (k : Nat) (x : DirEntry) : P (s.setDir k x) := hP.tables s _ _ _ h
theorem useFree : P s.useFree := hP.tables s _ _ _ h

/-! The cache of this package. -/

theorem setHomeData (l : Nat) (d : Payload) : P (s.setHomeData l d) := by
  cases d with
  | data d => exact hP.poison _ _ _ (homeAddr_above l) (hP.bytes _ _ _ h)
  | poisoned => exact hP.poison _ _ _ (homeAddr_above l) h
  | error => exact h

theorem dropLine (l : Nat) (x : CacheLine) : P (s.dropLine l x) := hP.poison _ _ _ (lineAddr_above l) (hP.setCline h l x)

theorem evictOwn (l : Nat) (dirty : Bool) : P (s.evictOwn l dirty) := by
  have hdata : P (if dirty then s.setHomeData l (s.lineData l) else s) := by
    split
    · exact hP.setHomeData h l _
    · exact h
  unfold State.evictOwn
  split
  · exact hP.dropLine (hP.setDir hdata l .i) l {}
  · exact hP.send _ _ (hP.dropLine h l _)

theorem evict (l : Nat) : P (s.evict l) := by
  unfold State.evict
  split
  · exact hP.evictOwn h l true
  · exact hP.evictOwn h l false
  · exact hP.dropLine h l {}
  · exact h

theorem makeRoom (l : Nat) : P (s.makeRoom l) := by
  unfold State.makeRoom
  extract_lets w
  split
  · exact h
  · exact hP.useFree (hP.evict h _)

theorem fillLine (l : Nat) (st : LineState) (d : Payload) : P (s.fillLine l st d) := by
  cases d with
  | data d => exact hP.poison _ _ _ (lineAddr_above l) (hP.setCline (hP.makeRoom h l) l _)
  | poisoned => exact hP.poison _ _ _ (lineAddr_above l) (hP.setCline (hP.makeRoom h l) l _)
  | error => exact h

theorem flowPut (x : FlowStore) : P (s.flowPut x) := by
  unfold State.flowPut
  extract_lets _ t a
  have ht : P t := hP.setCline h _ _
  split
  · exact hP.poison _ _ _ (lineAddr_above _) ht
  · split
    · exact hP.poison _ _ _ (lineAddr_above _) ht
    · exact ht

theorem storesGo : P (s.storesGo l) := by
  unfold State.storesGo
  split
  · exact h
  · exact h
  · exact foldl_keeps (fun x _ t ht => hP.flowPut ht x) (hP.stores _ h)

/-! The home serves requests. -/

theorem grantShared (r mask : Nat) : P (s.grantShared l r mask) := by
  have ht : P ((s.clearBusy l).setDir l (.s (setNBit mask r true))) := hP.setDir (hP.clearBusy _ h) l _
  unfold State.grantShared
  split
  · exact hP.fillLine ht _ _ _
  · exact hP.send _ _ ht

theorem grantExclusive (r : Nat) (upgrade : Bool) : P (s.grantExclusive l r upgrade) := by
  have ht : P ((s.clearBusy l).setDir l (.x r)) := hP.setDir (hP.clearBusy _ h) l _
  unfold State.grantExclusive
  split
  · refine hP.storesGo ?_
    split
    · exact hP.setCline ht _ _
    · exact hP.fillLine ht _ _ _
  · exact hP.send _ _ ht

theorem recallOwn (l : Nat) (keep : Bool) : P (s.recallOwn l keep) := by
  unfold State.recallOwn
  extract_lets x t
  have ht : P t := by
    unfold t
    split
    · exact hP.setHomeData h _ _
    · exact h
  split
  · exact hP.setCline ht _ _
  · exact hP.dropLine ht _ _

theorem flowWrite (ht : s.flowWrite l = some t) : P t := by
  have hown : P ((s.grantExclusive l s.pkgId ((s.cline l).st == .s)).setCline l
      { (s.grantExclusive l s.pkgId ((s.cline l).st == .s)).cline l with st := .m }) := hP.setCline (hP.grantExclusive h _ _) _ _
  unfold State.flowWrite at ht
  split at ht
  · exact nomatch ht
  · split at ht
    · exact Option.some.inj ht ▸ h
    · exact Option.some.inj ht ▸ hP.setCline h _ _
    · dsimp only at ht
      split at ht
      · split at ht
        · exact Option.some.inj ht ▸ hown
        · split at ht
          · exact Option.some.inj ht ▸ hown
          · exact nomatch ht
        · exact nomatch ht
      · exact nomatch ht

end

end LineInvariant

namespace ServeInvariant

variable {l : Nat} {P : State → Prop} (hP : ServeInvariant l P) {s t : State} (h : P s)
include hP h

theorem homeReadS (r : Nat) : P (s.homeReadS r l) := by
  unfold State.homeReadS
  split
  · exact hP.grantShared h _ _
  · exact hP.grantShared h _ _
  · split
    · exact hP.grantShared (hP.recallOwn h _ _) _ _
    · exact hP.send _ _ (hP.setBusy _ _ h)

theorem homeInvalidate (r mask : Nat) (upgrade : Bool) : P (s.homeInvalidate r l mask upgrade) := by
  unfold State.homeInvalidate
  extract_lets t rest
  have ht : P t := by
    unfold t
    split
    · exact hP.dropLine h _ _
    · exact h
  split
  · exact hP.grantExclusive ht _ _
  · exact foldl_keeps (fun _ _ u hu => hP.send _ _ hu) (hP.setBusy _ _ ht)

theorem homeReadX (r : Nat) : P (s.homeReadX r l) := by
  unfold State.homeReadX
  split
  · exact hP.grantExclusive h _ _
  · exact hP.homeInvalidate h _ _ _
  · split
    · exact hP.grantExclusive (hP.recallOwn h _ _) _ _
    · exact hP.send _ _ (hP.setBusy _ _ h)

theorem homeUpgrade (r : Nat) : P (s.homeUpgrade r l) := by
  unfold State.homeUpgrade
  split
  · split
    · exact hP.homeInvalidate h _ _ _
    · exact hP.homeReadX h r
  · exact hP.homeReadX h r

theorem homeServe (r : Nat) (q : HomeReq) : P (s.homeServe r l q) := by
  cases q with
  | readS => exact hP.homeReadS h r
  | readX => exact hP.homeReadX h r
  | upgrade => exact hP.homeUpgrade h r

end ServeInvariant

namespace DeviceInvariant

variable {P : State → Prop} (hP : DeviceInvariant P) {s t : State}
include hP

section

variable (h : P s)
include h

theorem setReg (a : Nat) (w : Word) : P (s.setReg a w) := hP.registers s _ _ h
theorem countSat (a : Nat) (f : Fld) (k : Nat) : P (s.countSat a f k) := hP.registers s _ _ h
theorem setPort (n : Nat) (x : PortSt) : P (s.setPort n x) := hP.registers s _ _ h

/-- A store of less than a line lifts no poison outside the shared flow space. -/
theorem store {l : List Byte} (a : Nat) (hl : l.length < 64) : P (s.store a l) := by
  unfold State.store
  split
  · exact h
  · split
    · exact hP.flowStore1 _ _ h
    · refine foldl_keeps (fun k _ t ht => ?_) (hP.bytes _ a l h)
      rw [if_neg (by omega)]
      exact ht

theorem msix (n : Nat) : P (s.msix n) := by
  unfold State.msix
  split
  · exact hP.setPort (hP.send _ _ h) _ _
  · exact h

end

theorem eventPort (h : P s) (code src unit arg value n : Nat) : P (s.eventPort code src unit arg value n) := by
  unfold State.eventPort
  split
  · refine hP.msix (hP.setPort (hP.setReg (hP.store h _ ?_) _ _) _ _) n
    rw [eventBytes_length]
    decide
  · exact hP.setPort (hP.countSat h _ _ _) _ _

theorem event (h : P s) (code src unit arg value : Nat) : P (s.event code src unit arg value) := by
  unfold State.event
  exact foldl_keeps (fun n _ _ ht => hP.eventPort ht _ _ _ _ _ n) h

end DeviceInvariant

namespace WriteInvariant

variable {P : State → Prop} (hP : WriteInvariant P) {s t : State}
include hP

theorem serve (l : Nat) : ServeInvariant l P where
  tables s _ _ _ h := hP.coherence s _ _ _ _ _ _ h
  setBusy s _ h := hP.coherence s _ _ _ _ _ _ h
  clearBusy s h := hP.coherence s _ _ _ _ _ _ h
  stores s h := hP.coherence s _ _ _ _ _ _ h
  poison := hP.poison
  bytes := hP.bytes
  send := hP.send

theorem homeRequest (h : P s) (r l : Nat) (q : HomeReq) : P (s.homeRequest r l q) := by
  have hwaits : ∀ w, P { s with homeWaits := w } := fun w => hP.coherence s _ _ _ _ _ _ h
  unfold State.homeRequest
  extract_lets w
  split
  · split
    · exact h
    · exact hwaits _
  · exact (hP.serve l).homeServe (hwaits _) _ _

theorem flowAsk (h : P s) (l : Nat) : P (s.flowAsk l) := by
  unfold State.flowAsk
  extract_lets q
  split
  · exact hP.homeRequest h _ _ _
  · exact hP.send _ _ h

theorem flowStore1 (h : P s) (x : FlowStore) : P (s.flowStore1 x) := by
  unfold State.flowStore1
  split
  next t ht => exact (hP.serve x.line).flowPut ((hP.serve x.line).flowWrite h ht) x
  next =>
    extract_lets t
    have ht : P t := by
      unfold t
      split
      · exact h
      · exact hP.flowAsk h _
    exact hP.coherence t _ _ _ _ _ _ ht

theorem device : DeviceInvariant P where
  flowStore1 _ x h := hP.flowStore1 h x
  poison := hP.poison
  bytes := hP.bytes
  send := hP.send
  registers := hP.registers

end WriteInvariant

/-! The poison of HBM. -/

/-- The poison of HBM is as it was. -/
def HbmPoisonKept (s t : State) : Prop := ∀ a, a < 0x3000000000 → t.poisoned a = s.poisoned a

theorem hbmPoison_writeInvariant (s0 : State) : WriteInvariant (HbmPoisonKept s0) where
  coherence _ _ _ _ _ _ _ h := h
  poison _ a v ha h := fun k hk => (tget_tput_ne _ _ v (by omega : a / 64 ≠ k / 64)).trans (h k hk)
  bytes s a l h := fun k hk => (s.putBytes_poisoned a l k).trans (h k hk)
  send _ _ h := h
  registers _ _ _ h := h

theorem State.event_hbmPoison (s : State) (code src unit arg value : Nat) : HbmPoisonKept s (s.event code src unit arg value) :=
  (hbmPoison_writeInvariant s).device.event (fun _ _ => rfl) _ _ _ _ _

/-! Outputs. -/

/-- The outputs hold what they held. -/
def OutsKept (s t : State) : Prop := ∀ o ∈ s.outs, o ∈ t.outs

theorem outs_writeInvariant (s0 : State) : WriteInvariant (OutsKept s0) where
  coherence _ _ _ _ _ _ _ h := h
  poison _ _ _ _ h := h
  bytes s a l h := fun o ho => (s.putBytes_outs a l) ▸ h o ho
  send _ _ h := fun o ho => List.mem_append_left _ (h o ho)
  registers _ _ _ h := h

theorem State.event_outs (s : State) (code src unit arg value : Nat) : OutsKept s (s.event code src unit arg value) :=
  (outs_writeInvariant s).device.event (fun _ h => h) _ _ _ _ _

end Sys2Proof.Machine
end

section
/-! Settles O42: the scrub walkers and the store reloads (R334, R337, R338, R340). -/

namespace Sys2Proof.Machine

/-! Where a walker and a store word stand. -/

theorem addrKind_hbm {a : Nat} (h : a < 0x3000000000) : addrKind a = .hbm (a / 0x600000000) := if_pos h

theorem isStoreAddr_hbm {a : Nat} (h : a < 0x3000000000) : isStoreAddr a = false := by
  rw [isStoreAddr, decide_eq_false (by omega), Bool.false_and]

theorem memUnit_hbm {a : Nat} (h : a < 0x3000000000) : memUnit a = a / 0x600000000 := by
  rw [memUnit, isStoreAddr_hbm h, addrKind_hbm h]
  rfl

theorem memCluster_hbm {a : Nat} (h : a < 0x3000000000) : memCluster a = none := by
  rw [memCluster, isStoreAddr_hbm h, addrKind_hbm h]
  rfl

theorem findsAt_one (a : Nat) (e : EccFind) : findsAt [(a, e)] a = [e] := by
  simp [findsAt]

theorem wsAddr_bounds (e : EngNo) {k : Nat} (h : k < 16384) : 0x3FE00000000 ≤ wsAddr e.val k ∧ wsAddr e.val k < 0x3FE01000000 ∧
    (wsAddr e.val k - 0x3FE00000000) / 0x10000 = e.val := by
  have := e.isLt
  unfold wsAddr
  omega

theorem isStoreAddr_wsAddr (e : EngNo) {k : Nat} (h : k < 16384) : isStoreAddr (wsAddr e.val k) = true := by
  obtain ⟨hlo, hhi, -⟩ := wsAddr_bounds e h
  rw [isStoreAddr, decide_eq_true hlo, decide_eq_true (by omega), Bool.true_and]

theorem storeEngines_wsAddr (e : EngNo) {k : Nat} (h : k < 16384) : storeEngines (wsAddr e.val k) = [e.val] := by
  obtain ⟨-, hhi, he⟩ := wsAddr_bounds e h
  rw [storeEngines, if_pos hhi, he]

theorem memCluster_wsAddr (e : EngNo) {k : Nat} (h : k < 16384) : memCluster (wsAddr e.val k) = some (engCl e.val) := by
  obtain ⟨-, hhi, he⟩ := wsAddr_bounds e h
  rw [memCluster, if_pos (isStoreAddr_wsAddr e h), if_pos hhi, he]
  rfl

variable {s : State}

/-! A walker. -/

theorem exec_scrubRead_of_not_runs {w : Walker} {finds : Finds} (h : s.walkRuns w = false) : exec (.scrubRead w finds) s = .next s := by
  have harm : exec (.scrubRead w finds) s = execScrubRead w finds s := rfl
  rw [harm, execScrubRead, h]
  rfl

theorem State.walkOn_frame (w : Walker) : s.walkOn w = { s with regions := (s.walkOn w).regions, hub := (s.walkOn w).hub } := by
  cases w <;> rfl

theorem State.walkOn_walkPos (w : Walker) : (s.walkOn w).walkPos w = (s.walkPos w + 1) % walkLen w := by
  cases w with
  | hbm r => exact congrArg RgSt.hbmWalk (s.updRg_rg r.val _)
  | sram r => exact congrArg RgSt.sramWalk (s.updRg_rg r.val _)
  | hub => rfl

theorem exec_scrubRead_nothing {w : Walker} (h : s.walkRuns w = true) : exec (.scrubRead w []) s = .next (s.walkOn w) := by
  have harm : exec (.scrubRead w []) s = execScrubRead w [] s := rfl
  rw [harm, execScrubRead, if_pos h]
  dsimp only
  cases s.walkAt w <;> rfl

theorem exec_scrubRead_hbm {r : RgNo} {finds : Finds} (h : s.walkRuns (.hbm r) = true) : exec (.scrubRead (.hbm r) finds) s =
    .next ((s.eccRead (r.val * 0x600000000 + 64 * (s.rg r.val).hbmWalk) finds 0).walkOn (.hbm r)) := by
  have harm : exec (.scrubRead (.hbm r) finds) s = execScrubRead (.hbm r) finds s := rfl
  rw [harm, execScrubRead, if_pos h]
  rfl

section

variable {r : RgNo} (hw : (s.rg r.val).hbmWalk < 402653184)
include hw

theorem hbmWalk_below : r.val * 0x600000000 + 64 * (s.rg r.val).hbmWalk < 0x3000000000 := by
  have := r.isLt
  omega

theorem memUnit_hbmWalk : memUnit (r.val * 0x600000000 + 64 * (s.rg r.val).hbmWalk) = r.val := by
  rw [memUnit_hbm (hbmWalk_below hw)]
  omega

end

theorem State.eccRead_corrected (a src : Nat) : s.eccRead a [(a, .corrected)] src = s.corrected a := by
  rw [State.eccRead, findsAt_one]
  rfl

theorem State.eccRead_uncorrectable (a src : Nat) :
    s.eccRead a [(a, .uncorrectable)] src = s.uncorrectable a [(a, .uncorrectable)] src := by
  rw [State.eccRead, findsAt_one]
  rfl

/-- A corrected error of HBM counts in its region's counter (R334). -/
theorem State.corrected_hbm {a : Nat} (h : a < 0x3000000000) :
    s.corrected a = s.countSat (MEM_CE_COUNT (memUnit a)) MEM_CE_COUNT_COUNT 1 := by
  have hne : memUnit a ≠ 8 := by
    rw [memUnit_hbm h]
    omega
  rw [State.corrected, memCluster_hbm h]
  exact if_neg hne

/-- An uncorrectable error of an HBM line that no pattern entry names poisons it (R338). -/
theorem State.uncorrectable_hbm {a : Nat} (f : Finds) (src : Nat) (h : a < 0x3000000000) (hpats : s.patsAt a = [])
    (hmirrors : s.mirrorsAt a = []) (hp : s.poisoned a = false) :
    s.uncorrectable a f src = (s.setPoison a true).reportError (a / 64 * 64) 0 src := by
  have hpats' : (s.setPoison a true).patsAt a = [] := hpats
  have hmirrors' : (s.setPoison a true).mirrorsAt a = [] := hmirrors
  generalize hu : s.setPoison a true = u at hpats' hmirrors'
  have houtcome : u.poisonOutcome a f src = (0, u) := by
    rw [State.poisonOutcome, addrKind_hbm h]
    dsimp only
    rw [State.readMirror, State.usableMirror, hpats', hmirrors']
    rfl
  rw [State.uncorrectable, isStoreAddr_hbm h, hp]
  simp only [Bool.false_eq_true, if_false]
  rw [hu, State.countUe, memCluster_hbm h]
  dsimp only
  rw [houtcome]


/-! The report of an error of a region (R338). -/

theorem State.errorLog_regsOnly (u addr outcome src : Nat) : s.regsOnly (s.errorLog u addr outcome src) := by
  have hentry : ∀ a b c d e w0 w1 p h, s.regsOnly ((((s.setReg a w0).setReg b w1).setPair c d p).setReg e h) := fun a b c d e w0 w1 p h =>
    State.regsOnly_trans (State.regsOnly_trans (State.regsOnly_trans (State.setReg_regsOnly _ _ _) (State.setReg_regsOnly _ _ _))
      (State.setPair_regsOnly _ _ _ _)) (State.setReg_regsOnly _ _ _)
  rw [State.errorLog]
  split
  · exact hentry _ _ _ _ _ _ _ _ _
  · exact hentry _ _ _ _ _ _ _ _ _

theorem State.errorLog_head {u : Nat} (hu : u < 8) (addr outcome src : Nat) :
    (s.errorLog u addr outcome src).reg (MEM_ERR_HEAD u) = s.reg (MEM_ERR_HEAD u) + 1 := by
  rw [State.errorLog, if_neg (by omega)]
  exact State.setReg_reg _ _ _

theorem State.event_stores (code src unit arg value : Nat) : (s.event code src unit arg value).stores = s.stores := by
  have e := congrArg State.stores (s.event_portsOnly code src unit arg value).rest
  exact e

theorem memErrHead_apart {u : Nat} (hu : u < 8) : MEM_ERR_HEAD u < hubBlk 4 := by
  simp only [MEM_ERR_HEAD, rgBlk, hubBlk]
  omega

theorem State.reportError_reads {a out src : Nat} (hu : memUnit a < 8) :
    HbmPoisonKept s (s.reportError a out src) ∧ (s.reportError a out src).reg (MEM_ERR_HEAD (memUnit a)) = s.reg (MEM_ERR_HEAD (memUnit a)) + 1 ∧
      (s.reportError a out src).runs = s.runs ∧ (s.reportError a out src).pinView = s.pinView ∧ (s.reportError a out src).stores = s.stores := by
  obtain ⟨regs, hregs⟩ : ∃ r, s.errorLog (memUnit a) a out src = { s with regs := r } := ⟨_, s.errorLog_regsOnly _ a out src⟩
  have hhead := s.errorLog_head hu a out src
  unfold State.reportError
  generalize s.errorLog (memUnit a) a out src = u at hregs hhead
  have hpoison : HbmPoisonKept s u := fun k _ => by rw [hregs]; rfl
  refine ⟨fun k hk => (u.event_hbmPoison _ _ _ _ _ k hk).trans (hpoison k hk), ?_, ?_, ?_, ?_⟩
  · rw [State.event_reg _ _ _ _ _ _ _ (.inl (memErrHead_apart hu)), hhead]
  · rw [State.event_runs, hregs]
  · rw [State.event_pinView, hregs]
    rfl
  · rw [State.event_stores, hregs]

/-! The walker of a stack meets an error. -/

section

variable {r : RgNo} (hruns : s.walkRuns (.hbm r) = true) (hw : (s.rg r.val).hbmWalk < 402653184)
include hruns hw

theorem scrubRead_corrected : ∃ t,
    exec (.scrubRead (.hbm r) [(r.val * 0x600000000 + 64 * (s.rg r.val).hbmWalk, .corrected)]) s = .next t ∧
    t.fld (MEM_CE_COUNT r.val) MEM_CE_COUNT_COUNT =
      min (2 ^ MEM_CE_COUNT_COUNT.width - 1) (s.fld (MEM_CE_COUNT r.val) MEM_CE_COUNT_COUNT + 1) ∧
    (t.rg r.val).hbmWalk = ((s.rg r.val).hbmWalk + 1) % 402653184 ∧ (∀ q, q ≠ r.val → t.rg q = s.rg q) ∧
    t = { s with regs := t.regs, regions := t.regions } ∧ s.regsKept t [MEM_CE_COUNT r.val] := by
  have hexec := exec_scrubRead_hbm (finds := [(r.val * 0x600000000 + 64 * (s.rg r.val).hbmWalk, .corrected)]) hruns
  rw [State.eccRead_corrected, State.corrected_hbm (hbmWalk_below hw), memUnit_hbmWalk hw] at hexec
  have hcount := s.countSat_one_fld (MEM_CE_COUNT r.val) MEM_CE_COUNT_COUNT (by decide) (by decide)
  have hkept : s.regsKept (s.countSat (MEM_CE_COUNT r.val) MEM_CE_COUNT_COUNT 1) [MEM_CE_COUNT r.val] :=
    s.setFld_regsKept _ _ (List.mem_singleton_self _)
  obtain ⟨regs, hregs⟩ := s.countSat_frame (MEM_CE_COUNT r.val) MEM_CE_COUNT_COUNT 1
  rw [hregs] at hexec hcount hkept
  exact ⟨_, hexec, hcount, congrArg RgSt.hbmWalk (State.updRg_rg _ _ _), fun q hq => State.updRg_rg_ne _ _ _ _ hq, rfl, hkept⟩

theorem scrubRead_uncorrectable {a : Nat} (ha : a = r.val * 0x600000000 + 64 * (s.rg r.val).hbmWalk) (hpats : s.patsAt a = [])
    (hmirrors : s.mirrorsAt a = []) (hp : s.poisoned a = false) : ∃ t, exec (.scrubRead (.hbm r) [(a, .uncorrectable)]) s = .next t ∧
      t.poisoned a = true ∧ t.reg (MEM_ERR_HEAD r.val) = s.reg (MEM_ERR_HEAD r.val) + 1 ∧ t.runs = s.runs ∧ s.pinsKept t ∧
      t.stores = s.stores := by
  have hlow : a < 0x3000000000 := ha ▸ hbmWalk_below hw
  have hline : a / 64 * 64 = a := by omega
  have hunit : memUnit a = r.val := ha ▸ memUnit_hbmWalk hw
  have hexec := exec_scrubRead_hbm (finds := [(a, .uncorrectable)]) hruns
  rw [← ha, State.eccRead_uncorrectable, State.uncorrectable_hbm _ _ hlow hpats hmirrors hp, hline] at hexec
  have hreads := (s.setPoison a true).reportError_reads (a := a) (out := 0) (src := 0) (by rw [hunit]; exact r.isLt)
  rw [hunit] at hreads
  obtain ⟨hpoison, hhead, hrun, hpin, hstores⟩ := hreads
  have hbad : (s.setPoison a true).poisoned a = true := tget_tput_same (fun _ => false) s.poison (a / 64) true
  have hreg : (s.setPoison a true).reg (MEM_ERR_HEAD r.val) = s.reg (MEM_ERR_HEAD r.val) := State.setPoison_reg _ _ _ _
  exact ⟨_, hexec, (hpoison a hlow).trans hbad, hhead.trans (by rw [hreg]), hrun, State.pinsKept_of_pinView hpin, hstores⟩

end

/-! A store word is read again. -/

theorem State.reloadFailed_kept (a : Nat) : s.regsOnly (s.reloadFailed a) ∧
    s.regsKept (s.reloadFailed a) ((List.range 32).map (MEM_ERR_LOG_W1 (memUnit a))) := by
  unfold State.reloadFailed
  extract_lets u h slot
  split
  next k _ =>
    split
    · refine ⟨s.setFld_regsOnly _ _ _, s.setFld_regsKept _ _ (List.mem_map_of_mem (List.mem_range.mpr ?_))⟩
      unfold slot
      omega
    · exact ⟨rfl, fun _ _ => rfl⟩
  next => exact ⟨rfl, fun _ _ => rfl⟩

section

variable {e : EngNo} {k : Nat} (hk : k < 16384) (hbad : s.storeBad (wsAddr e.val k) = true)
  (hheld : s.storeHeld (wsAddr e.val k) = false) (hrun : (s.eng e.val).run = none) (hstart : (s.eng e.val).heldStart = none)

theorem exec_storeReload_of_good (err : Bool) (h : s.storeBad (wsAddr e.val k) = false) :
    exec (.storeReload (wsAddr e.val k) err) s = .next s := by
  have harm : exec (.storeReload (wsAddr e.val k) err) s = execStoreReload (wsAddr e.val k) err s := rfl
  rw [harm, execStoreReload, h]
  simp only [Bool.and_false, Bool.false_and, Bool.false_eq_true, if_false]

include hk hbad hheld hrun

theorem exec_storeReload (err : Bool) : exec (.storeReload (wsAddr e.val k) err) s = .next (State.releaseStart
    (if err then (s.setStoreHeld (wsAddr e.val k) true).reloadFailed (wsAddr e.val k)
      else (s.setStoreWord (wsAddr e.val k) (s.jigWord (s.cl (engCl e.val)).storeBank (wsAddr e.val k))).setStoreBad (wsAddr e.val k) false)
    e.val) := by
  have harm : exec (.storeReload (wsAddr e.val k) err) s = execStoreReload (wsAddr e.val k) err s := rfl
  rw [harm, execStoreReload, isStoreAddr_wsAddr e hk, storeEngines_wsAddr e hk, hbad, hheld, memCluster_wsAddr e hk]
  simp only [List.all_cons, List.all_nil, hrun, Option.isNone_none, Bool.not_false, Bool.and_self, if_true, List.foldl_cons, List.foldl_nil,
    Option.getD_some]

include hstart

theorem storeReload_reads : ∃ t, exec (.storeReload (wsAddr e.val k) false) s = .next t ∧ t.storeBad (wsAddr e.val k) = false ∧
    t.storeWord (wsAddr e.val k) = s.jigWord (s.cl (engCl e.val)).storeBank (wsAddr e.val k) ∧
    (∀ a, a ≠ wsAddr e.val k → t.storeWord a = s.storeWord a ∧ t.storeBad a = s.storeBad a) ∧
    t = { s with stores := t.stores, storePoison := t.storePoison } := by
  have hexec := exec_storeReload hk hbad hheld hrun false
  rw [if_neg (by decide)] at hexec
  generalize s.jigWord (s.cl (engCl e.val)).storeBank (wsAddr e.val k) = w at hexec
  have hgo : ((s.setStoreWord (wsAddr e.val k) w).setStoreBad (wsAddr e.val k) false).releaseStart e.val = _ := State.releaseStart_none _ hstart
  rw [hgo] at hexec
  exact ⟨_, hexec, tget_tput_same (fun _ => false) s.storePoison _ false, tget_tput_same (fun _ => haltWord) s.stores _ w,
    fun a ha => ⟨tget_tput_ne (fun _ => haltWord) s.stores w ha.symm, tget_tput_ne (fun _ => false) s.storePoison false ha.symm⟩, rfl⟩

theorem storeReload_held : ∃ t, exec (.storeReload (wsAddr e.val k) true) s = .next t ∧ t.storeHeld (wsAddr e.val k) = true ∧
    t = { s with storeWritten := t.storeWritten, regs := t.regs } ∧
    s.regsKept t ((List.range 32).map (MEM_ERR_LOG_W1 (memUnit (wsAddr e.val k)))) := by
  have hexec := exec_storeReload hk hbad hheld hrun true
  rw [if_pos rfl] at hexec
  have hmark : (s.setStoreHeld (wsAddr e.val k) true).storeHeld (wsAddr e.val k) = true := tget_tput_same (fun _ => false) s.storeWritten _ true
  obtain ⟨hregs, hkept⟩ := (s.setStoreHeld (wsAddr e.val k) true).reloadFailed_kept (wsAddr e.val k)
  obtain ⟨regs, hregs⟩ : ∃ r, (s.setStoreHeld (wsAddr e.val k) true).reloadFailed (wsAddr e.val k) =
      { s.setStoreHeld (wsAddr e.val k) true with regs := r } := ⟨_, hregs⟩
  rw [hregs] at hexec hkept
  have hgo : ({ s.setStoreHeld (wsAddr e.val k) true with regs := regs } : State).releaseStart e.val = _ := State.releaseStart_none _ hstart
  rw [hgo] at hexec
  exact ⟨_, hexec, hmark, rfl, hkept⟩

end

/-- Settles O42: a walker by what correction finds at its position, a store word by its reload while nothing holds the engine. -/
theorem walkersScrubAndStoresReload : Obligations.WalkersScrubAndStoresReload := by
  unfold Obligations.WalkersScrubAndStoresReload
  intro w finds err e k r s
  exact ⟨exec_scrubRead_of_not_runs, fun h => ⟨_, exec_scrubRead_nothing h, State.walkOn_walkPos w, State.walkOn_frame w⟩,
    scrubRead_corrected, fun h hw a ha hpats hmirrors hp => scrubRead_uncorrectable h hw ha hpats hmirrors hp,
    fun hk hbad hheld hrun hstart => ⟨storeReload_reads hk hbad hheld hrun hstart, storeReload_held hk hbad hheld hrun hstart⟩,
    exec_storeReload_of_good err⟩

end Sys2Proof.Machine
end

section
/-! Settles O43: block testers, post-package repair and the pattern table (R341, R345-R349). -/

namespace Sys2Proof.Machine

variable (s : State)

/-! The record of a tester. -/

theorem State.setTester_tester (x : Tester) (b : BlockTester) : (s.setTester x b).tester x = b := by
  cases x with
  | region r => exact congrArg RgSt.tester (s.updRg_rg r.val _)
  | hub => rfl

theorem State.setTester_frame (x : Tester) (b : BlockTester) :
    s.setTester x b = { s with regions := (s.setTester x b).regions, hub := (s.setTester x b).hub } := by
  cases x <;> rfl

theorem State.tester_of_kept {s t : State} (x : Tester) (hr : t.regions = s.regions) (hh : t.hub = s.hub) : t.tester x = s.tester x := by
  cases x with
  | region r => exact congrArg (fun l => (tget (fun _ => ({} : RgSt)) l r.val).tester) hr
  | hub => exact congrArg HubSt.tester hh

/-! A tester takes a block (R345, R346). -/

section

variable {s} {x : Tester}

theorem exec_blockTest_idle (h : s.bit (btCtrl x) MEM_BT_CTRL_EN = false ∨ (s.tester x).block ≠ none ∨ s.boot.phase < 4) :
    exec (.blockTest x) s = .next s := by
  have harm : exec (.blockTest x) s = execBlockTest x s := rfl
  rw [harm, execBlockTest, if_neg]
  rintro ⟨hen, hblock, hphase⟩
  rcases h with h | h | h
  · exact nomatch hen.symm.trans h
  · exact h hblock
  · omega

variable (hen : s.bit (btCtrl x) MEM_BT_CTRL_EN = true) (hblock : (s.tester x).block = none) (hphase : 4 ≤ s.boot.phase)
include hen hblock hphase

theorem exec_blockTest : exec (.blockTest x) s =
    .next (if s.blockSkipped (blockAt x (s.tester x).next) then s.setTester x ⟨((s.tester x).next + 1) % blockCount x, none⟩
      else (s.setTester x ⟨((s.tester x).next + 1) % blockCount x, some (s.tester x).next⟩).setBit (btStat x) MEM_BT_STAT_BUSY true) := by
  have harm : exec (.blockTest x) s = execBlockTest x s := rfl
  rw [harm, execBlockTest, if_pos ⟨hen, hblock, hphase⟩]
  dsimp only
  split <;> rfl

theorem blockTest_takes (hskip : s.blockSkipped (blockAt x (s.tester x).next) = false) : ∃ t, exec (.blockTest x) s = .next t ∧
    (t.tester x).block = some (s.tester x).next ∧ (t.tester x).next = ((s.tester x).next + 1) % blockCount x ∧
    t.bit (btStat x) MEM_BT_STAT_BUSY = true ∧ t = { s with regs := t.regs, regions := t.regions, hub := t.hub } ∧
    s.regsKept t [btStat x] := by
  have hexec := exec_blockTest hen hblock hphase
  rw [hskip, if_neg (by decide)] at hexec
  have htester := s.setTester_tester x ⟨((s.tester x).next + 1) % blockCount x, some (s.tester x).next⟩
  have hframe := s.setTester_frame x ⟨((s.tester x).next + 1) % blockCount x, some (s.tester x).next⟩
  generalize s.setTester x ⟨((s.tester x).next + 1) % blockCount x, some (s.tester x).next⟩ = u at hexec htester hframe
  have hregs : u.reg = s.reg := by
    rw [hframe]
    rfl
  have hbusy := u.setBit_bit (btStat x) MEM_BT_STAT_BUSY true rfl (by decide)
  have hkept : u.regsKept (u.setBit (btStat x) MEM_BT_STAT_BUSY true) [btStat x] := u.setBit_regsKept _ _ _
  obtain ⟨regs, hset⟩ := u.setBit_frame (btStat x) MEM_BT_STAT_BUSY true
  rw [hset] at hexec hbusy hkept
  have ht : ({ u with regs := regs } : State).tester x = u.tester x := State.tester_of_kept x rfl rfl
  refine ⟨_, hexec, ?_, ?_, hbusy, ?_, fun m hm => (hkept m hm).trans (congrFun hregs m)⟩
  · rw [ht, htester]
  · rw [ht, htester]
  · rw [hframe]

theorem blockTest_skips (hskip : s.blockSkipped (blockAt x (s.tester x).next) = true) : ∃ t, exec (.blockTest x) s = .next t ∧
    (t.tester x).block = none ∧ (t.tester x).next = ((s.tester x).next + 1) % blockCount x ∧
    t = { s with regions := t.regions, hub := t.hub } := by
  have hexec := exec_blockTest hen hblock hphase
  rw [hskip, if_pos rfl] at hexec
  refine ⟨_, hexec, ?_, ?_, s.setTester_frame x _⟩
  · rw [s.setTester_tester]
  · rw [s.setTester_tester]

end

/-! The test of a block ends (R345, R347). -/

/-- The tester has given its block back and counted it. -/
def State.blockCounted (x : Tester) : State :=
  ((s.setTester x ⟨(s.tester x).next, none⟩).setBit (btStat x) MEM_BT_STAT_BUSY false).countSat (btStat x) MEM_BT_STAT_BLOCKS 1

section

variable (x : Tester)

theorem State.countBlock_reads (u : State) (a : Nat) : ∃ regs,
    (u.setBit a MEM_BT_STAT_BUSY false).countSat a MEM_BT_STAT_BLOCKS 1 = { u with regs := regs } ∧
    ({ u with regs := regs } : State).bit a MEM_BT_STAT_BUSY = false ∧
    ({ u with regs := regs } : State).fld a MEM_BT_STAT_BLOCKS = min (2 ^ MEM_BT_STAT_BLOCKS.width - 1) (u.fld a MEM_BT_STAT_BLOCKS + 1) ∧
    u.regsKept { u with regs := regs } [a] := by
  have hset := u.setBit_bit a MEM_BT_STAT_BUSY false rfl (by decide)
  have hfld := u.setBit_fld_apart a MEM_BT_STAT_BUSY MEM_BT_STAT_BLOCKS false (by decide)
  have hkept := u.setBit_regsKept a MEM_BT_STAT_BUSY false
  obtain ⟨regs, hregs⟩ := u.setBit_frame a MEM_BT_STAT_BUSY false
  rw [hregs] at hset hfld hkept ⊢
  generalize hv : ({ u with regs := regs } : State) = v at hset hfld hkept
  have hcount := v.countSat_one_fld a MEM_BT_STAT_BLOCKS (by decide) (by decide)
  have hbusy : (v.countSat a MEM_BT_STAT_BLOCKS 1).bit a MEM_BT_STAT_BUSY = v.bit a MEM_BT_STAT_BUSY :=
    State.setFld_bit_apart _ _ _ _ _ (by decide)
  have hkept' : v.regsKept (v.countSat a MEM_BT_STAT_BLOCKS 1) [a] := State.setFld_regsKept _ _ _ (List.mem_singleton_self a)
  obtain ⟨regs', hregs'⟩ := v.countSat_frame a MEM_BT_STAT_BLOCKS 1
  rw [hregs'] at hcount hbusy hkept' ⊢
  subst hv
  exact ⟨regs', rfl, hbusy.trans hset, by rw [hcount, hfld], fun m hm => (hkept' m hm).trans (hkept m hm)⟩

theorem State.blockCounted_reads : ((s.blockCounted x).tester x).block = none ∧ (s.blockCounted x).bit (btStat x) MEM_BT_STAT_BUSY = false ∧
    (s.blockCounted x).fld (btStat x) MEM_BT_STAT_BLOCKS = min (2 ^ MEM_BT_STAT_BLOCKS.width - 1) (s.fld (btStat x) MEM_BT_STAT_BLOCKS + 1) ∧
    s.blockCounted x = { s with
      regs := (s.blockCounted x).regs, regions := (s.blockCounted x).regions, hub := (s.blockCounted x).hub } ∧
    s.regsKept (s.blockCounted x) [btStat x] := by
  unfold State.blockCounted
  have htester := s.setTester_tester x ⟨(s.tester x).next, none⟩
  have hframe := s.setTester_frame x ⟨(s.tester x).next, none⟩
  generalize s.setTester x ⟨(s.tester x).next, none⟩ = u at htester hframe
  have hregs : u.regs = s.regs := by rw [hframe]
  have hreg : u.reg = s.reg := funext fun m => congrArg (tget regReset · m) hregs
  have hfld : ∀ f, u.fld (btStat x) f = s.fld (btStat x) f := fun f => congrArg (fun r : Nat → Word => getF (r (btStat x)) f) hreg
  generalize btStat x = a at hfld ⊢
  obtain ⟨regs, hset, hbusy, hcount, hkept⟩ := u.countBlock_reads a
  rw [hfld] at hcount
  rw [hset]
  have ht : ({ u with regs := regs } : State).tester x = u.tester x := State.tester_of_kept x rfl rfl
  refine ⟨?_, hbusy, hcount, ?_, fun m hm => (hkept m hm).trans (congrFun hreg m)⟩
  · rw [ht, htester]
  · rw [hframe]

variable {s x} {i : Nat} (hi : (s.tester x).block = some i)
include hi

theorem exec_blockTestDone_good : exec (.blockTestDone x []) s = .next (s.blockCounted x) := by
  have harm : exec (.blockTestDone x []) s = execBlockTestDone x [] s := rfl
  rw [harm, execBlockTestDone, hi]
  rfl

theorem exec_blockTestDone_faulty {bank : Nat} (hbank : (blockAt x i).hasBank bank = true) : exec (.blockTestDone x [bank]) s =
    .next ((s.blockCounted x).repairRow (blockAt x i) (fun w => w.setBit (btStat x) MEM_BT_STAT_NOSPARE true) bank) := by
  have hone : [bank].eraseDups.filter (blockAt x i).hasBank = [bank] := by
    simp [List.eraseDups_cons, hbank]
  have harm : exec (.blockTestDone x [bank]) s = execBlockTestDone x [bank] s := rfl
  rw [harm, execBlockTestDone, hi]
  dsimp only
  rw [hone]
  rfl

end

/-! A faulty row (R347). -/

theorem List.getD_mod_mem {l : List Nat} (h : l ≠ []) (n : Nat) : l.getD (n % l.length) 0 ∈ l := by
  have hlt : n % l.length < l.length := Nat.mod_lt _ (List.length_pos_iff.mpr h)
  rw [List.getD_eq_getElem _ _ hlt]
  exact List.getElem_mem hlt

section

variable {s} {x : BlockAt} {nospare : State → State} {bank : Nat}

theorem State.countSpare_frame (array inst bank : Nat) : ∃ regs, s.countSpare array inst bank = { s with regs := regs } := by
  unfold State.countSpare
  split
  · exact ⟨_, rfl⟩
  · exact ⟨_, rfl⟩

/-- A row of a bank with a spare row left is mapped to one of these and waits to be appended. -/
theorem State.repairRow_maps (h : s.sparesLeft x.array x.inst bank ≠ []) : ∃ k t, k ∈ s.sparesLeft x.array x.inst bank ∧
    s.repairRow x nospare bank = t ∧ t.boot.repairs = s.boot.repairs ++ [(x.array, x.inst, bank, x.row, k)] ∧
    t.boot.appends = s.boot.appends ++ [(x.array, x.inst, bank, x.row, k)] ∧ t.regions = s.regions ∧ t.hub = s.hub ∧ t.mem = s.mem := by
  have hmem := List.getD_mod_mem h (Config.freeNat s.free)
  refine ⟨_, _, hmem, rfl, ?_⟩
  unfold State.repairRow State.mapRow
  split
  next hnil => exact absurd hnil h
  next =>
    obtain ⟨regs, hregs⟩ := s.useFree.countSpare_frame x.array x.inst bank
    dsimp only
    rw [hregs]
    exact ⟨rfl, rfl, rfl, rfl, rfl⟩

/-- The error logs lie above the first 256 bytes of their blocks. -/
theorem State.errorLog_reg_low (u addr outcome src : Nat) {a : Nat} (h : a % 0x100000 < 0x100) : (s.errorLog u addr outcome src).reg a = s.reg a := by
  unfold State.errorLog
  extract_lets w1 g i g' j
  have hi : i < 32 := Nat.mod_lt _ (by decide)
  have hj : j < 32 := Nat.mod_lt _ (by decide)
  split
  · simp only [State.setPair]
    rw [State.setReg_reg_ne, State.setReg_reg_ne, State.setReg_reg_ne, State.setReg_reg_ne, State.setReg_reg_ne]
    all_goals
      simp only [HD_MEM_ERR_HEAD, HD_MEM_ERR_LOG_W0, HD_MEM_ERR_LOG_W1, HD_MEM_ERR_LOG_W2, HD_MEM_ERR_LOG_W3, hubBlk, ne_eq]
      omega
  · simp only [State.setPair]
    rw [State.setReg_reg_ne, State.setReg_reg_ne, State.setReg_reg_ne, State.setReg_reg_ne, State.setReg_reg_ne]
    all_goals
      simp only [MEM_ERR_HEAD, MEM_ERR_LOG_W0, MEM_ERR_LOG_W1, MEM_ERR_LOG_W2, MEM_ERR_LOG_W3, rgBlk, ne_eq]
      omega

theorem btStat_low (x : Tester) : btStat x % 0x100000 < 0x100 := by
  cases x with
  | region r =>
    simp only [btStat, MEM_BT_STAT, rgBlk]
    omega
  | hub => decide

/-- With no spare row left NOSPARE is set and logged. -/
theorem State.repairRow_nospare {y : Tester} (h : s.sparesLeft x.array x.inst bank = []) : ∃ t,
    s.repairRow x (fun w => w.setBit (btStat y) MEM_BT_STAT_NOSPARE true) bank = t ∧ t.bit (btStat y) MEM_BT_STAT_NOSPARE = true ∧
    t.boot = s.boot ∧ t.regions = s.regions ∧ t.hub = s.hub ∧ t.mem = s.mem := by
  have hlow := btStat_low y
  generalize btStat y = a at hlow
  unfold State.repairRow
  rw [h]
  dsimp only
  obtain ⟨regs, hregs⟩ : ∃ regs, (if x.array = 0 then s.setBit (MEM_CL_MEMTEST x.inst) MEM_CL_MEMTEST_NOSPARE true else s) =
      { s with regs := regs } := by
    split
    · exact ⟨_, rfl⟩
    · exact ⟨_, rfl⟩
  rw [hregs]
  generalize hv : ({ s with regs := regs } : State) = v
  have hbit := v.setBit_bit a MEM_BT_STAT_NOSPARE true rfl (by decide)
  obtain ⟨regs', hregs'⟩ := v.setBit_frame a MEM_BT_STAT_NOSPARE true
  rw [hregs'] at hbit ⊢
  generalize hw : ({ v with regs := regs' } : State) = w at hbit
  generalize (if x.array = 0 then x.inst / 8 else if x.array = 1 then x.inst else 8) = unit
  have hlog := congrArg (fun r : Word => getF r MEM_BT_STAT_NOSPARE == 1) (w.errorLog_reg_low unit x.addr 7 2 hlow)
  obtain ⟨regs'', hregs''⟩ : ∃ r, w.errorLog unit x.addr 7 2 = { w with regs := r } := ⟨_, w.errorLog_regsOnly unit x.addr 7 2⟩
  rw [hregs''] at hlog ⊢
  subst hw hv
  exact ⟨_, rfl, hlog.trans hbit, rfl, rfl, rfl, rfl⟩

end

section

variable {s} {x : Tester} {i bank : Nat} (hi : (s.tester x).block = some i) (hbank : (blockAt x i).hasBank bank = true)
include hi

theorem blockTestDone_good : ∃ t, exec (.blockTestDone x []) s = .next t ∧ (t.tester x).block = none ∧ t.bit (btStat x) MEM_BT_STAT_BUSY = false ∧
    t.fld (btStat x) MEM_BT_STAT_BLOCKS = min (2 ^ MEM_BT_STAT_BLOCKS.width - 1) (s.fld (btStat x) MEM_BT_STAT_BLOCKS + 1) ∧
    t = { s with regs := t.regs, regions := t.regions, hub := t.hub } ∧ s.regsKept t [btStat x] :=
  ⟨_, exec_blockTestDone_good hi, s.blockCounted_reads x⟩

include hbank

theorem blockTestDone_maps (hspare : s.sparesLeft (blockAt x i).array (blockAt x i).inst bank ≠ []) :
    ∃ t k, exec (.blockTestDone x [bank]) s = .next t ∧ k ∈ s.sparesLeft (blockAt x i).array (blockAt x i).inst bank ∧
      t.boot.repairs = s.boot.repairs ++ [((blockAt x i).array, (blockAt x i).inst, bank, (blockAt x i).row, k)] ∧
      t.boot.appends = s.boot.appends ++ [((blockAt x i).array, (blockAt x i).inst, bank, (blockAt x i).row, k)] ∧
      (t.tester x).block = none ∧ t.mem = s.mem := by
  have hexec := exec_blockTestDone_faulty hi hbank
  obtain ⟨hblock, -, -, hframe, -⟩ := s.blockCounted_reads x
  generalize s.blockCounted x = u at hexec hblock hframe
  have hboot : u.boot = s.boot := by rw [hframe]
  have hmem : u.mem = s.mem := by rw [hframe]
  have hleft : u.sparesLeft = s.sparesLeft := by
    unfold State.sparesLeft
    rw [hboot]
  obtain ⟨k, t, hk, ht, hrepairs, happends, hregions, hhub, hm⟩ :=
    u.repairRow_maps (x := blockAt x i) (nospare := fun w => w.setBit (btStat x) MEM_BT_STAT_NOSPARE true) (bank := bank) (hleft ▸ hspare)
  rw [ht] at hexec
  refine ⟨t, k, hexec, hleft ▸ hk, by rw [hrepairs, hboot], by rw [happends, hboot], ?_, hm.trans hmem⟩
  rw [State.tester_of_kept x hregions hhub, hblock]

theorem blockTestDone_nospare (hspare : s.sparesLeft (blockAt x i).array (blockAt x i).inst bank = []) :
    ∃ t, exec (.blockTestDone x [bank]) s = .next t ∧ t.bit (btStat x) MEM_BT_STAT_NOSPARE = true ∧ t.boot = s.boot ∧
      (t.tester x).block = none ∧ t.mem = s.mem := by
  have hexec := exec_blockTestDone_faulty hi hbank
  obtain ⟨hblock, -, -, hframe, -⟩ := s.blockCounted_reads x
  generalize s.blockCounted x = u at hexec hblock hframe
  have hboot : u.boot = s.boot := by rw [hframe]
  have hmem : u.mem = s.mem := by rw [hframe]
  have hleft : u.sparesLeft = s.sparesLeft := by
    unfold State.sparesLeft
    rw [hboot]
  obtain ⟨t, ht, hbit, htboot, hregions, hhub, htmem⟩ := u.repairRow_nospare (x := blockAt x i) (y := x) (bank := bank) (hleft ▸ hspare)
  rw [ht] at hexec
  exact ⟨t, hexec, hbit, htboot.trans hboot, by rw [State.tester_of_kept x hregions hhub, hblock], htmem.trans hmem⟩

end

/-! Post-package repair (R349). -/

section

variable {s} {r : RgNo}

theorem exec_pprGo {value : Word} (port : PortNo) (hreach : s.reaches (MEM_PPR_CMD r.val)) (hgo : getF value MEM_PPR_CMD_GO = 1) :
    exec (.pprGo port r value) s = .next (if s.pprAccepted r.val value then
      (s.setBit (MEM_PPR_STAT r.val) MEM_PPR_STAT_BUSY true).updRg r.val (fun x => { x with
        ppr := some (getF value MEM_PPR_CMD_ADDR * 256, getF value MEM_PPR_CMD_HARD == 1) })
    else (s.setBit (MEM_PPR_STAT r.val) MEM_PPR_STAT_REFUSED true).violation 0x02 port.val 0 0 (MEM_PPR_CMD r.val)) := by
  have harm : exec (.pprGo port r value) s = execPprGo port r value s := rfl
  rw [harm, execPprGo, State.reach_open _ _ _ _ hreach.1 hreach.2, State.pprCommand, if_neg (by omega)]

theorem pprGo_accepted {value : Word} (port : PortNo) (hreach : s.reaches (MEM_PPR_CMD r.val)) (hgo : getF value MEM_PPR_CMD_GO = 1)
    (hok : s.pprAccepted r.val value = true) :
    ∃ t, exec (.pprGo port r value) s = .next t ∧ t.bit (MEM_PPR_STAT r.val) MEM_PPR_STAT_BUSY = true ∧
      (t.rg r.val).ppr = some (getF value MEM_PPR_CMD_ADDR * 256, getF value MEM_PPR_CMD_HARD == 1) ∧
      (∀ k, k ≠ r.val → t.rg k = s.rg k) ∧ t = { s with regs := t.regs, regions := t.regions } ∧ s.regsKept t [MEM_PPR_STAT r.val] := by
  have hexec := exec_pprGo port hreach hgo
  rw [if_pos hok] at hexec
  have hbit := s.setBit_bit (MEM_PPR_STAT r.val) MEM_PPR_STAT_BUSY true rfl (by decide)
  have hkept := s.setBit_regsKept (MEM_PPR_STAT r.val) MEM_PPR_STAT_BUSY true
  obtain ⟨regs, hregs⟩ := s.setBit_frame (MEM_PPR_STAT r.val) MEM_PPR_STAT_BUSY true
  rw [hregs] at hexec hbit hkept
  exact ⟨_, hexec, hbit, congrArg RgSt.ppr (State.updRg_rg _ _ _), fun k hk => State.updRg_rg_ne _ _ _ _ hk, rfl, hkept⟩

theorem State.updRg_setBit (s : State) (k a : Nat) (g : RgSt → RgSt) (f : Fld) (b : Bool) :
    (s.updRg k g).setBit a f b = (s.setBit a f b).updRg k g := rfl

/-- A repair is over: BUSY clears and the outcome's bit sets. -/
theorem State.pprShown_reads (s : State) (a : Nat) (left : Bool) : ∃ regs, (s.setBit a MEM_PPR_STAT_BUSY false).setBit a
      (if left then MEM_PPR_STAT_DONE else MEM_PPR_STAT_NORES) true = { s with regs := regs } ∧
    ({ s with regs := regs } : State).bit a MEM_PPR_STAT_BUSY = false ∧
    ({ s with regs := regs } : State).bit a (if left then MEM_PPR_STAT_DONE else MEM_PPR_STAT_NORES) = true ∧
    s.regsKept { s with regs := regs } [a] := by
  have hfld : ∀ f ∈ [MEM_PPR_STAT_DONE, MEM_PPR_STAT_NORES], f.apart MEM_PPR_STAT_BUSY = true ∧ f.lo = f.hi ∧ f.hi < 32 := by decide
  obtain ⟨hapart, hone, hlow⟩ := hfld (if left then MEM_PPR_STAT_DONE else MEM_PPR_STAT_NORES) (by cases left <;> simp)
  generalize (if left then MEM_PPR_STAT_DONE else MEM_PPR_STAT_NORES) = f at hapart hone hlow ⊢
  have hbusy := s.setBit_bit a MEM_PPR_STAT_BUSY false rfl (by decide)
  have hkept := s.setBit_regsKept a MEM_PPR_STAT_BUSY false
  have hregs := s.setBit_regsOnly a MEM_PPR_STAT_BUSY false
  generalize s.setBit a MEM_PPR_STAT_BUSY false = u at hbusy hkept hregs
  obtain ⟨regs, ht⟩ : ∃ r, u.setBit a f true = { s with regs := r } := ⟨_, State.regsOnly_trans hregs (u.setBit_regsOnly a f true)⟩
  refine ⟨regs, ht, ?_, ?_, ?_⟩
  · rw [← ht, u.setBit_bit_apart a f MEM_PPR_STAT_BUSY true hapart, hbusy]
  · rw [← ht, u.setBit_bit a f true hone hlow]
  · rw [← ht]
    exact State.regsKept_trans hkept (u.setBit_regsKept a f true)

theorem pprDone_ends (left : Bool) (h : (s.rg r.val).ppr ≠ none) : ∃ t, exec (.pprDone r left) s = .next t ∧ (t.rg r.val).ppr = none ∧
    t.bit (MEM_PPR_STAT r.val) MEM_PPR_STAT_BUSY = false ∧
    t.bit (MEM_PPR_STAT r.val) (if left then MEM_PPR_STAT_DONE else MEM_PPR_STAT_NORES) = true ∧
    (∀ k, k ≠ r.val → t.rg k = s.rg k) ∧ t = { s with regs := t.regs, regions := t.regions } ∧ s.regsKept t [MEM_PPR_STAT r.val] := by
  obtain ⟨x, hx⟩ := Option.ne_none_iff_exists'.mp h
  have hexec : exec (.pprDone r left) s = .next
      (((s.setBit (MEM_PPR_STAT r.val) MEM_PPR_STAT_BUSY false).updRg r.val (fun x => { x with ppr := none })).setBit (MEM_PPR_STAT r.val)
        (if left then MEM_PPR_STAT_DONE else MEM_PPR_STAT_NORES) true) := by
    have harm : exec (.pprDone r left) s = execPprDone r left s := rfl
    rw [harm, execPprDone, hx]
  obtain ⟨regs, hset, hbusy, hbit, hkept⟩ := s.pprShown_reads (MEM_PPR_STAT r.val) left
  rw [State.updRg_setBit, hset] at hexec
  exact ⟨_, hexec, congrArg RgSt.ppr (State.updRg_rg _ _ _), hbusy, hbit, fun k hk => State.updRg_rg_ne _ _ _ _ hk, rfl, hkept⟩

end

/-! The pattern table (R341, Table 12-4). -/

/-- The rows of the five words of a pattern entry. -/
def patRow (w : Nat) : RegRow :=
  ⟨0x10000 + 4 * w, [(32, 16)], 0, if w = 1 then 0xC00003FF else if w = 4 then 0x3FF else 0xFFFFFFFF, 0, 0, 0, 0⟩

theorem patReg_eq (r n : Nat) (w : Fin 5) : patReg r n w.val = rgBlk r 2 + (0x10000 + 4 * w.val + n * 32) := by
  match w with
  | 0 => exact Nat.add_assoc _ _ _
  | 1 => exact Nat.add_assoc _ _ _
  | 2 => exact Nat.add_assoc _ _ _
  | 3 => exact Nat.add_assoc _ _ _
  | 4 => exact Nat.add_assoc _ _ _

theorem regRow_patReg (r : RgNo) (n : Fin 16) (w : Fin 5) : regRow (patReg r.val n.val w.val) = some (patRow w.val) := by
  have hrow : ∀ (w : Fin 5) (n : Fin 16), (regRows 1 2).find? (fun x => x.hit (0x10000 + 4 * w.val + n.val * 32)) = some (patRow w.val) := by
    decide
  rw [patReg_eq, regRow, regLoc_rgBlk r.isLt (by decide) (by omega)]
  exact hrow w n

section

variable (r : RgNo) (n : Fin 16)

theorem State.patWritten_frame : s.patWritten r.val n.val = { s with regs := (s.patWritten r.val n.val).regs } := by
  have hframe : s.regsOnly (s.patWritten r.val n.val) := State.regsOnly_trans (s.setBit_regsOnly _ _ _) (State.setBit_regsOnly _ _ _ _)
  exact hframe

theorem State.patWritten_regsKept : s.regsKept (s.patWritten r.val n.val) [MEM_PAT_W1 r.val n.val] :=
  State.regsKept_trans (s.setBit_regsKept _ _ _) (State.setBit_regsKept _ _ _ _)

theorem State.patWritten_cleared : (s.patWritten r.val n.val).bit (MEM_PAT_W1 r.val n.val) MEM_PAT_W1_DAMAGED = false ∧
    (s.patWritten r.val n.val).bit (MEM_PAT_W1 r.val n.val) MEM_PAT_W1_MIRROR_BAD = false := by
  unfold State.patWritten
  constructor
  · rw [State.setBit_bit_apart _ _ _ _ _ (by decide)]
    exact s.setBit_bit _ _ _ rfl (by decide)
  · exact State.setBit_bit _ _ _ _ rfl (by decide)

/-- A field apart from the two marks stays as it was. -/
theorem State.patWritten_fld (a : Nat) {f : Fld} (hd : MEM_PAT_W1_DAMAGED.apart f = true) (hm : MEM_PAT_W1_MIRROR_BAD.apart f = true) :
    (s.patWritten r.val n.val).fld a f = s.fld a f := by
  unfold State.patWritten
  by_cases ha : a = MEM_PAT_W1 r.val n.val
  · rw [ha, State.setBit_fld_apart _ _ _ _ _ hm, State.setBit_fld_apart _ _ _ _ _ hd]
  · rw [State.setBit_fld_ne _ _ _ _ _ _ ha, State.setBit_fld_ne _ _ _ _ _ _ ha]

theorem exec_memPatWrite (port : PortNo) {w : Fin 5} (value : Word) (hreach : s.reaches (patReg r.val n.val w.val)) :
    exec (.memPatWrite port r n w value 15) s = .next ((s.partnerWrite (patReg r.val n.val w.val) value 15).patWritten r.val n.val) := by
  have harm : exec (.memPatWrite port r n w value 15) s = execMemPatWrite port r n w value 15 s := rfl
  rw [harm, execMemPatWrite, State.reach_open _ _ _ _ hreach.1 hreach.2]

/-- A written field of a pattern entry reads as written. -/
theorem State.patEntry_fld (w : Fin 5) (value : Word) {a : Nat} {f : Fld} (ha : a = patReg r.val n.val w.val)
    (hrw : ∀ i, i < f.width → (BitVec.ofNat 32 (patRow w.val).rw &&& beMask 15).getLsbD (f.lo + i) = true)
    (hw1c : ∀ i, i < f.width → (BitVec.ofNat 32 (patRow w.val).w1c &&& beMask 15).getLsbD (f.lo + i) = false)
    (hmarks : w.val = 1 → MEM_PAT_W1_DAMAGED.apart f = true ∧ MEM_PAT_W1_MIRROR_BAD.apart f = true) :
    ((s.partnerWrite (patReg r.val n.val w.val) value 15).patWritten r.val n.val).fld a f = getF value f := by
  subst ha
  rw [← s.partnerWrite_fld (regRow_patReg r n w) value 15 hrw hw1c]
  generalize s.partnerWrite (patReg r.val n.val w.val) value 15 = u
  by_cases hw : w.val = 1
  · exact u.patWritten_fld r n _ (hmarks hw).1 (hmarks hw).2
  · have hne : patReg r.val n.val w.val ≠ MEM_PAT_W1 r.val n.val := by
      rw [patReg_eq, MEM_PAT_W1]
      omega
    exact congrArg (fun x => getF x f) (u.patWritten_regsKept r n _ (by simpa using hne))

theorem memPatWrite_stores (port : PortNo) (w : Fin 5) (value : Word) (hreach : s.reaches (patReg r.val n.val w.val)) :
    ∃ t, exec (.memPatWrite port r n w value 15) s = .next t ∧
      (w.val = 0 → t.fld (MEM_PAT_W0 r.val n.val) MEM_PAT_W0_BASE_LO = getF value MEM_PAT_W0_BASE_LO) ∧
      (w.val = 1 → t.fld (MEM_PAT_W1 r.val n.val) MEM_PAT_W1_BASE_HI = getF value MEM_PAT_W1_BASE_HI ∧
        t.fld (MEM_PAT_W1 r.val n.val) MEM_PAT_W1_VALID = getF value MEM_PAT_W1_VALID) ∧
      (w.val = 2 → t.fld (MEM_PAT_W2 r.val n.val) MEM_PAT_W2_LENGTH = getF value MEM_PAT_W2_LENGTH) ∧
      (w.val = 3 → t.fld (MEM_PAT_W3 r.val n.val) MEM_PAT_W3_MIRROR_LO = getF value MEM_PAT_W3_MIRROR_LO) ∧
      (w.val = 4 → t.fld (MEM_PAT_W4 r.val n.val) MEM_PAT_W4_MIRROR_HI = getF value MEM_PAT_W4_MIRROR_HI) ∧
      t.bit (MEM_PAT_W1 r.val n.val) MEM_PAT_W1_DAMAGED = false ∧ t.bit (MEM_PAT_W1 r.val n.val) MEM_PAT_W1_MIRROR_BAD = false ∧
      t = { s with regs := t.regs } ∧ s.regsKept t [patReg r.val n.val w.val, MEM_PAT_W1 r.val n.val] := by
  have hfld := fun f => s.patEntry_fld r n w value (a := patReg r.val n.val w.val) (f := f) rfl
  have hkept := s.partnerWrite_regsKept (patReg r.val n.val w.val) value 15
  have hframe := s.partnerWrite_frame (regRow_patReg r n w) value 15
  refine ⟨_, exec_memPatWrite s r n port value hreach, ?_⟩
  generalize s.partnerWrite (patReg r.val n.val w.val) value 15 = u at hfld hkept hframe
  have hmarks := u.patWritten_cleared r n
  have hkept' := u.patWritten_regsKept r n
  have hregs : s.regsOnly (u.patWritten r.val n.val) := State.regsOnly_trans hframe (u.patWritten_frame r n)
  generalize u.patWritten r.val n.val = v at hfld hmarks hkept' hregs
  refine ⟨fun hw => ?_, fun hw => ?_, fun hw => ?_, fun hw => ?_, fun hw => ?_, hmarks.1, hmarks.2, hregs, fun m hm => ?_⟩
  · rw [hw] at hfld
    exact hfld _ (by decide) (by decide) (by decide)
  · rw [hw] at hfld
    exact ⟨hfld _ (by decide) (by decide) (by decide), hfld _ (by decide) (by decide) (by decide)⟩
  · rw [hw] at hfld
    exact hfld _ (by decide) (by decide) (by decide)
  · rw [hw] at hfld
    exact hfld _ (by decide) (by decide) (by decide)
  · rw [hw] at hfld
    exact hfld _ (by decide) (by decide) (by decide)
  · rw [List.mem_cons, not_or] at hm
    exact (hkept' m hm.2).trans (hkept m (by simpa using hm.1))

end

/-- Settles O43: the testers by what is read of `State.blockCounted` and `State.repairRow`, the repair and the pattern table by their registers. -/
theorem memoriesAreTestedAndRepaired : Obligations.MemoriesAreTestedAndRepaired := by
  unfold Obligations.MemoriesAreTestedAndRepaired
  refine ⟨fun x i bank s => ⟨fun hen hblock hphase => ⟨blockTest_takes hen hblock hphase, blockTest_skips hen hblock hphase⟩,
    exec_blockTest_idle, fun hi => ⟨blockTestDone_good hi, fun hbank hspare => blockTestDone_maps hi hbank hspare,
      fun hbank hspare => blockTestDone_nospare hi hbank hspare⟩⟩,
    fun port r n w value left s => ⟨fun hreach hgo => ⟨fun hok => pprGo_accepted port hreach hgo hok, fun hno => ?_⟩,
      pprDone_ends left, fun hreach => memPatWrite_stores s r n port w value hreach⟩⟩
  rw [exec_pprGo port hreach hgo, if_neg (by rw [hno]; decide)]

end Sys2Proof.Machine
end

section
/-! Settles O44: rings and buffer pools (R359, R363, R366, R368, R378-R380, R454). -/

namespace Sys2Proof.Machine

/-! The registers of a ring are three. -/

theorem ringPtr_ne_ringStat (m n : Nat) : ringPtr m ≠ ringStat n := by
  simp only [ringPtr, ringStat, RING_PTR, RING_STAT, rgBlk, ne_eq]
  omega

theorem ringCfg_ne_ringStat (m n : Nat) : ringCfg m ≠ ringStat n := by
  simp only [ringCfg, ringStat, RING_CFG, RING_STAT, rgBlk, ne_eq]
  omega

theorem ringCfg_ne_ringPtr (m n : Nat) : ringCfg m ≠ ringPtr n := by
  simp only [ringCfg, ringPtr, RING_CFG, RING_PTR, rgBlk, ne_eq]
  omega

section

variable (s : State) (n a : Nat) (g : RingSt → RingSt) (f : Fld) (b : Bool)

theorem State.updRing_setBit : (s.updRing n g).setBit a f b = (s.setBit a f b).updRing n g := rfl

theorem State.updRing_isCopy (m : Nat) : (s.updRing n g).isCopy m = s.isCopy m := rfl

theorem State.updRing_frame_of_regsOnly {s t : State} (h : s.regsOnly t) :
    t.updRing n g = { s with regs := (t.updRing n g).regs, rings := (t.updRing n g).rings } := by
  obtain ⟨regs, hregs⟩ : ∃ r, t = { s with regs := r } := ⟨_, h⟩
  rw [hregs]
  rfl

theorem State.ring_of_regsOnly {s t : State} (h : s.regsOnly t) : t.ring = s.ring := by
  have e := congrArg State.ring h
  exact e

end

variable {s : State}

/-! TAIL (R359, R363, R368). -/

/-- The registers of a ring after a write of TAIL. -/
def State.tailShown (s : State) (n tail : Nat) : State :=
  if s.isCopy n then (s.setFld (ringPtr n) RING_PTR_TAIL tail).raise n else s.setFld (ringPtr n) RING_PTR_TAIL tail

theorem State.tailWrite_eq (s : State) (n tail : Nat) :
    s.tailWrite n tail = (s.tailShown n tail).updRing n (fun x => { x with waitTail := false, short := false }) := by
  have hcopy : (s.setFld (ringPtr n) RING_PTR_TAIL tail).isCopy n = s.isCopy n := s.setFld_bit_ne _ _ _ _ _ (ringCfg_ne_ringPtr n n)
  unfold State.tailWrite State.tailShown
  dsimp only
  unfold State.raise
  split
  · exact State.updRing_setBit _ _ _ _ _ _
  · rfl

theorem State.tailShown_reads (s : State) (n : Nat) {tail : Nat} (h : tail < 65536) : s.regsOnly (s.tailShown n tail) ∧
    (s.tailShown n tail).ringTail n = tail ∧ (s.tailShown n tail).ringHead n = s.ringHead n ∧
    (s.tailShown n tail).requested n = (s.isCopy n || s.requested n) ∧ s.regsKept (s.tailShown n tail) [ringPtr n, ringStat n] := by
  have hregs := s.setFld_regsOnly (ringPtr n) RING_PTR_TAIL tail
  have htail : (s.setFld (ringPtr n) RING_PTR_TAIL tail).ringTail n = tail := by
    rw [State.ringTail, s.setFld_fld _ _ _ (by decide) (by decide)]
    exact Nat.mod_eq_of_lt h
  have hhead : (s.setFld (ringPtr n) RING_PTR_TAIL tail).ringHead n = s.ringHead n := s.setFld_fld_apart _ _ _ _ (by decide)
  have hreq : (s.setFld (ringPtr n) RING_PTR_TAIL tail).requested n = s.requested n :=
    s.setFld_bit_ne _ _ _ _ _ (ringPtr_ne_ringStat n n).symm
  have hkept : s.regsKept (s.setFld (ringPtr n) RING_PTR_TAIL tail) [ringPtr n, ringStat n] := s.setFld_regsKept _ _ (by simp)
  unfold State.tailShown
  generalize s.setFld (ringPtr n) RING_PTR_TAIL tail = u at hregs htail hhead hreq hkept ⊢
  cases hcopy : s.isCopy n with
  | false => exact ⟨hregs, htail, hhead, hreq, hkept⟩
  | true =>
    have hptr : ∀ f, (u.raise n).fld (ringPtr n) f = u.fld (ringPtr n) f := fun f => u.setBit_fld_ne _ _ _ _ _ (ringPtr_ne_ringStat n n)
    exact ⟨State.regsOnly_trans hregs (u.setBit_regsOnly _ _ _), (hptr _).trans htail, (hptr _).trans hhead,
      u.setBit_bit _ _ _ rfl (by decide), State.regsKept_trans hkept (u.setFld_regsKept _ _ (by simp))⟩

theorem State.tailWrite_reads (s : State) (n : Nat) {tail : Nat} (h : tail < 65536) : (s.tailWrite n tail).ringTail n = tail ∧
    (s.tailWrite n tail).ringHead n = s.ringHead n ∧ ((s.tailWrite n tail).ring n).waitTail = false ∧
    ((s.tailWrite n tail).ring n).short = false ∧ ((s.tailWrite n tail).ring n).desc = (s.ring n).desc ∧
    (s.tailWrite n tail).requested n = (s.isCopy n || s.requested n) ∧ (∀ k, k ≠ n → (s.tailWrite n tail).ring k = s.ring k) ∧
    s.tailWrite n tail = { s with regs := (s.tailWrite n tail).regs, rings := (s.tailWrite n tail).rings } ∧
    s.regsKept (s.tailWrite n tail) [ringPtr n, ringStat n] := by
  rw [s.tailWrite_eq]
  obtain ⟨hregs, htail, hhead, hreq, hkept⟩ := s.tailShown_reads n h
  generalize s.tailShown n tail = u at hregs htail hhead hreq hkept
  have hframe := State.updRing_frame_of_regsOnly n (fun x => { x with waitTail := false, short := false }) hregs
  have hring := State.ring_of_regsOnly hregs
  refine ⟨htail, hhead, ?_, ?_, ?_, hreq, fun k hk => ?_, hframe, hkept⟩
  · rw [State.updRing_ring]
  · rw [State.updRing_ring]
  · rw [State.updRing_ring, hring]
  · rw [State.updRing_ring_ne _ _ _ _ hk, hring]

theorem exec_ringTailWrite (port : PortNo) (ring : RingNo) (tail : BitVec 16) (h : s.reaches (ringPtr ring.val)) :
    exec (.ringTailWrite port ring tail) s = .next (s.tailWrite ring.val tail.toNat) := by
  have harm : exec (.ringTailWrite port ring tail) s = execRingTailWrite port ring tail s := rfl
  rw [harm, execRingTailWrite, State.reach_open _ _ _ _ h.1 h.2]

theorem exec_doorbell (port : PortNo) {value : Word} (h : s.reaches (PRT_DB port.val)) (hptr : s.reaches (ringPtr (getF value PRT_DB_RING))) :
    exec (.doorbell port value) s = .next (s.tailWrite (getF value PRT_DB_RING) (getF value PRT_DB_TAIL)) := by
  have harm : exec (.doorbell port value) s = execDoorbell port value s := rfl
  rw [harm, execDoorbell]
  rw [State.reach_open _ _ _ _ h.1 h.2, State.reach_open _ _ _ _ hptr.1 hptr.2]

/-! Restart (R366). -/

/-- What a ring's record holds after a restart. -/
theorem State.restarted_reads {v : State} (n : Nat) (hregs : s.regsOnly v) {t : State}
    (ht : t = v.updRing n (fun x => { x with waitTail := false, short := false, desc := none })) : t.reg = v.reg ∧ (t.ring n).desc = none ∧
    (t.ring n).waitTail = false ∧ (t.ring n).failed = (s.ring n).failed ∧ (t.ring n).off = (s.ring n).off ∧
    (∀ k, k ≠ n → t.ring k = s.ring k) ∧ t = { s with regs := t.regs, rings := t.rings } := by
  have hring := State.ring_of_regsOnly hregs
  have hframe := State.updRing_frame_of_regsOnly n (fun x => { x with waitTail := false, short := false, desc := none }) hregs
  rw [← ht] at hframe
  refine ⟨?_, ?_, ?_, ?_, ?_, fun k hk => ?_, hframe⟩
  · rw [ht]
    rfl
  · rw [ht, State.updRing_ring]
  · rw [ht, State.updRing_ring]
  · rw [ht, State.updRing_ring, hring]
  · rw [ht, State.updRing_ring, hring]
  · rw [ht, State.updRing_ring_ne _ _ _ _ hk, hring]

theorem State.restartRing_reads (s : State) (n : Nat) {t : State} (ht : t = s.restartRing n) : t.bit (ringStat n) RING_STAT_STOPPED = false ∧
    t.bit (ringCfg n) RING_CFG_EN = s.bit (ringCfg n) RING_CFG_EN ∧ (t.ring n).desc = none ∧ (t.ring n).waitTail = false ∧
    (t.ring n).failed = (s.ring n).failed ∧ (t.ring n).off = (s.ring n).off ∧ (∀ k, k ≠ n → t.ring k = s.ring k) ∧
    t = { s with regs := t.regs, rings := t.rings } ∧ s.regsKept t [ringStat n] := by
  have hclear := s.setBit_bit (ringStat n) RING_STAT_STOPPED false rfl (by decide)
  have hen := s.setBit_bit_ne (ringStat n) RING_STAT_STOPPED false (ringCfg n) RING_CFG_EN (ringCfg_ne_ringStat n n)
  have hkept := s.setBit_regsKept (ringStat n) RING_STAT_STOPPED false
  obtain ⟨hreg, hrest⟩ := State.restarted_reads n (s.setBit_regsOnly (ringStat n) RING_STAT_STOPPED false) ht
  exact ⟨(State.bit_of_reg _ (congrFun hreg _)).trans hclear, (State.bit_of_reg _ (congrFun hreg _)).trans hen, hrest.1, hrest.2.1, hrest.2.2.1, hrest.2.2.2.1,
    hrest.2.2.2.2.1, hrest.2.2.2.2.2, fun m hm => (congrFun hreg m).trans (hkept m hm)⟩

theorem State.ringEnable_reads (s : State) (n : Nat) (hstop : s.bit (ringStat n) RING_STAT_STOPPED = true) {t : State}
    (ht : t = (s.setBit (ringCfg n) RING_CFG_EN true).ringEnable n) : t.bit (ringStat n) RING_STAT_STOPPED = false ∧
    t.bit (ringCfg n) RING_CFG_EN = true ∧ (t.ring n).desc = none ∧ (t.ring n).waitTail = false ∧
    (t.ring n).failed = (s.ring n).failed ∧ (t.ring n).off = (s.ring n).off ∧ (∀ k, k ≠ n → t.ring k = s.ring k) ∧
    t = { s with regs := t.regs, rings := t.rings } ∧ s.regsKept t [ringCfg n, ringStat n] := by
  have hen := s.setBit_bit (ringCfg n) RING_CFG_EN true rfl (by decide)
  have hstop' := s.setBit_bit_ne (ringCfg n) RING_CFG_EN true (ringStat n) RING_STAT_STOPPED (ringCfg_ne_ringStat n n).symm
  have hkept := s.setBit_regsKept (ringCfg n) RING_CFG_EN true
  obtain ⟨regs, hregs⟩ := s.setBit_frame (ringCfg n) RING_CFG_EN true
  rw [hregs] at hen hstop' hkept ht
  rw [State.ringEnable, if_pos (hstop'.trans hstop)] at ht
  obtain ⟨hclear, hen', hdesc, hwait, hfailed, hoff, hring, hframe, hkept'⟩ := ({ s with regs := regs } : State).restartRing_reads n ht
  refine ⟨hclear, hen'.trans hen, hdesc, hwait, hfailed, hoff, hring, hframe, fun m hm => ?_⟩
  rw [List.mem_cons, not_or] at hm
  exact (hkept' m hm.2).trans (hkept m (by simpa using hm.1))

section

variable (port : PortNo) {ring : RingNo} (h : s.reaches (ringCfg ring.val))
include h

theorem exec_ringRestart :
    exec (.ringRestart port ring) s = .next ((s.setBit (ringCfg ring.val) RING_CFG_EN true).ringEnable ring.val) := by
  have harm : exec (.ringRestart port ring) s = execRingRestart port ring s := rfl
  rw [harm, execRingRestart, State.reach_open _ _ _ _ h.1 h.2]

theorem ringRestart_restarts (hstop : s.bit (ringStat ring.val) RING_STAT_STOPPED = true) :
    ∃ t, exec (.ringRestart port ring) s = .next t ∧ t.bit (ringStat ring.val) RING_STAT_STOPPED = false ∧
      t.bit (ringCfg ring.val) RING_CFG_EN = true ∧ (t.ring ring.val).desc = none ∧ (t.ring ring.val).waitTail = false ∧
      (t.ring ring.val).failed = (s.ring ring.val).failed ∧ (t.ring ring.val).off = (s.ring ring.val).off ∧
      (∀ k, k ≠ ring.val → t.ring k = s.ring k) ∧ t = { s with regs := t.regs, rings := t.rings } ∧
      s.regsKept t [ringCfg ring.val, ringStat ring.val] :=
  ⟨_, exec_ringRestart port h, s.ringEnable_reads ring.val hstop rfl⟩

theorem ringRestart_runs (hrun : s.bit (ringStat ring.val) RING_STAT_STOPPED = false) : ∃ t, exec (.ringRestart port ring) s = .next t ∧
    t.bit (ringCfg ring.val) RING_CFG_EN = true ∧ t = { s with regs := t.regs } ∧ s.regsKept t [ringCfg ring.val] := by
  have hexec := exec_ringRestart port h
  have hstop := s.setBit_bit_ne (ringCfg ring.val) RING_CFG_EN true (ringStat ring.val) RING_STAT_STOPPED (ringCfg_ne_ringStat _ _).symm
  rw [State.ringEnable, hstop, hrun, if_neg (by decide)] at hexec
  exact ⟨_, hexec, s.setBit_bit _ _ _ rfl (by decide), s.setBit_regsOnly _ _ _, s.setBit_regsKept _ _ _⟩

end

/-! Allocation (R378). -/

section

variable (port : PortNo) {r : RgNo}

theorem exec_ringAlloc (h : s.fencedAt (DMA_ALLOC r.val) = false) : exec (.ringAlloc port r) s =
    .next ((s.allocRing r.val).2.send (.completion port.val 0 (leBytes 4 (s.allocRing r.val).1.toNat))) := by
  have harm : exec (.ringAlloc port r) s = execRingAlloc port r s := rfl
  rw [harm, execRingAlloc, State.readReach_open _ _ _ _ h]

theorem State.freeRingOf_eq_some {k : Nat} (hk : k < 8192) (hfree : s.bit (RING_CFG r.val k) RING_CFG_ALLOC = false)
    (hbelow : ∀ j, j < k → s.bit (RING_CFG r.val j) RING_CFG_ALLOC = true) : s.freeRingOf r.val = some k := by
  rw [State.freeRingOf, List.find?_range_eq_some]
  exact ⟨by rw [hfree]; rfl, List.mem_range.mpr hk, fun j hj => by rw [hbelow j hj]; rfl⟩

theorem State.freeRingOf_eq_none (hall : ∀ j, j < 8192 → s.bit (RING_CFG r.val j) RING_CFG_ALLOC = true) : s.freeRingOf r.val = none := by
  rw [State.freeRingOf, List.find?_range_eq_none]
  exact fun j hj => by rw [hall j hj]; rfl

theorem ringAlloc_takes (h : s.fencedAt (DMA_ALLOC r.val) = false) {k : Nat} (hk : k < 8192)
    (hfree : s.bit (RING_CFG r.val k) RING_CFG_ALLOC = false)
    (hbelow : ∀ j, j < k → s.bit (RING_CFG r.val j) RING_CFG_ALLOC = true) :
    ∃ t, exec (.ringAlloc port r) s = .next t ∧ t.bit (RING_CFG r.val k) RING_CFG_ALLOC = true ∧
      t = { s with regs := t.regs, outs := s.outs ++ [.completion port.val 0 (leBytes 4 (codeOk * 2 ^ 24 + 8192 * r.val + k))] } ∧
      s.regsKept t [RING_CFG r.val k] := by
  have hexec := exec_ringAlloc port h
  have hword : (BitVec.ofNat 32 (codeOk * 2 ^ 24 + 8192 * r.val + k)).toNat = codeOk * 2 ^ 24 + 8192 * r.val + k := by
    rw [BitVec.toNat_ofNat, codeOk]
    omega
  rw [State.allocRing, State.freeRingOf_eq_some hk hfree hbelow, State.allocAs] at hexec
  dsimp only at hexec
  rw [hword] at hexec
  have hset := s.setBit_bit (RING_CFG r.val k) RING_CFG_ALLOC true rfl (by decide)
  have hkept := s.setBit_regsKept (RING_CFG r.val k) RING_CFG_ALLOC true
  obtain ⟨regs, hregs⟩ := s.setBit_frame (RING_CFG r.val k) RING_CFG_ALLOC true
  rw [hregs] at hexec hset hkept
  exact ⟨_, hexec, hset, rfl, hkept⟩

theorem ringAlloc_none (h : s.fencedAt (DMA_ALLOC r.val) = false)
    (hall : ∀ j, j < 8192 → s.bit (RING_CFG r.val j) RING_CFG_ALLOC = true) :
    exec (.ringAlloc port r) s = .next (s.send (.completion port.val 0 (leBytes 4 (codeNoRing * 2 ^ 24)))) := by
  rw [exec_ringAlloc port h, State.allocRing, State.freeRingOf_eq_none hall]
  rfl

theorem exec_ringFree (value : Word) (h : s.reaches (DMA_FREE r.val)) :
    exec (.ringFree port r value) s = .next (s.freeRing port.val r.val (getF value DMA_FREE_RING)) := by
  have harm : exec (.ringFree port r value) s = execRingFree port r value s := rfl
  rw [harm, execRingFree, State.reach_open _ _ _ _ h.1 h.2]

theorem ringFree_frees {value : Word} (h : s.reaches (DMA_FREE r.val)) {n : Nat} (hn : n = getF value DMA_FREE_RING) (hrg : n / 8192 = r.val)
    (hidle : s.ringIdle n = true) (hdone : s.ringHead n = s.ringTail n) : ∃ t, exec (.ringFree port r value) s = .next t ∧
      t.bit (ringCfg n) RING_CFG_ALLOC = false ∧ t.bit (ringCfg n) RING_CFG_EN = false ∧ t = { s with regs := t.regs } ∧
      s.regsKept t [ringCfg n] := by
  have hexec := exec_ringFree port value h
  rw [← hn, State.freeRing, if_pos ⟨hrg, hidle, hdone⟩] at hexec
  refine ⟨_, hexec, ?_, State.setBit_bit _ _ _ _ rfl (by decide),
    State.regsOnly_trans (s.setBit_regsOnly _ _ _) (State.setBit_regsOnly _ _ _ _),
    State.regsKept_trans (s.setBit_regsKept _ _ _) (State.setBit_regsKept _ _ _ _)⟩
  rw [State.setBit_bit_apart _ _ _ _ _ (by decide), s.setBit_bit _ _ _ rfl (by decide)]

theorem ringFree_refused {value : Word} (h : s.reaches (DMA_FREE r.val)) {n : Nat} (hn : n = getF value DMA_FREE_RING)
    (hno : n / 8192 ≠ r.val ∨ s.ringIdle n = false ∨ s.ringHead n ≠ s.ringTail n) :
    exec (.ringFree port r value) s = .next (s.violation 0x01 port.val 0 n (DMA_FREE r.val)) := by
  rw [exec_ringFree port value h, ← hn, State.freeRing, if_neg]
  rintro ⟨hrg, hidle, hdone⟩
  rcases hno with hno | hno | hno
  · exact hno hrg
  · exact nomatch hno.symm.trans hidle
  · exact hno hdone

end

/-! Buffer pools (R379, R380). -/

section

variable (port : PortNo) {r : RgNo}

theorem exec_poolTake (h : s.fencedAt (DMA_POOL_TAKE r.val) = false) : exec (.poolTake port r) s =
    .next ((s.poolRead r.val).2.send (.completion port.val 0 (leBytes 4 (s.poolRead r.val).1.toNat))) := by
  have harm : exec (.poolTake port r) s = execPoolTake port r s := rfl
  rw [harm, execPoolTake, State.readReach_open _ _ _ _ h]

theorem poolTake_takes (h : s.fencedAt (DMA_POOL_TAKE r.val) = false) (hfree : (s.rg r.val).poolFree ≠ []) :
    ∃ t k, exec (.poolTake port r) s = .next t ∧ k ∈ (s.rg r.val).poolFree ∧
      (t.rg r.val).poolFree = (s.rg r.val).poolFree.erase k ∧ (∀ q, q ≠ r.val → t.rg q = s.rg q) ∧
      t = { s with
        regions := t.regions, free := t.free
        outs := s.outs ++ [.completion port.val 0 (leBytes 4 (BitVec.ofNat 32 (codeOk * 2 ^ 24 + k)).toNat)] } := by
  have hexec := exec_poolTake port h
  obtain ⟨k, hmem, hread⟩ : ∃ k ∈ (s.rg r.val).poolFree, s.poolRead r.val =
      (BitVec.ofNat 32 (codeOk * 2 ^ 24 + k), s.useFree.updRg r.val (fun x => { x with poolFree := x.poolFree.erase k })) := by
    refine ⟨_, List.getD_mod_mem hfree (Config.freeNat s.free), ?_⟩
    unfold State.poolRead State.takeBuffer
    cases hl : (s.rg r.val).poolFree with
    | nil => exact absurd hl hfree
    | cons x l => rfl
  rw [hread] at hexec
  dsimp only at hexec
  exact ⟨_, k, hexec, hmem, by rw [State.send_rg, State.updRg_rg, State.useFree_rg],
    fun q hq => by rw [State.send_rg, State.updRg_rg_ne _ _ _ _ hq, State.useFree_rg], rfl⟩

theorem poolTake_none (h : s.fencedAt (DMA_POOL_TAKE r.val) = false) (hfree : (s.rg r.val).poolFree = []) :
    ∃ t, exec (.poolTake port r) s = .next t ∧ t.fld (DMA_POOL_STAT r.val) DMA_POOL_STAT_NOBUF =
        min (2 ^ DMA_POOL_STAT_NOBUF.width - 1) (s.fld (DMA_POOL_STAT r.val) DMA_POOL_STAT_NOBUF + 1) ∧
      t = { s with regs := t.regs, outs := s.outs ++ [.completion port.val 0 (leBytes 4 (codeNoBuffer * 2 ^ 24))] } ∧
      s.regsKept t [DMA_POOL_STAT r.val] := by
  have hexec := exec_poolTake port h
  rw [State.poolRead, State.takeBuffer, hfree] at hexec
  dsimp only at hexec
  have hcount := s.countSat_one_fld (DMA_POOL_STAT r.val) DMA_POOL_STAT_NOBUF (by decide) (by decide)
  have hkept : s.regsKept (s.countSat (DMA_POOL_STAT r.val) DMA_POOL_STAT_NOBUF 1) [DMA_POOL_STAT r.val] :=
    s.setFld_regsKept _ _ (List.mem_singleton_self _)
  obtain ⟨regs, hregs⟩ := s.countSat_frame (DMA_POOL_STAT r.val) DMA_POOL_STAT_NOBUF 1
  rw [hregs] at hexec hcount hkept
  exact ⟨_, hexec, hcount, rfl, hkept⟩

/-- One ring that waited for a buffer is retried. -/
def State.retryRing (s : State) (n : Nat) : State :=
  (s.setChan (ringCh n) { s.chan (ringCh n) with burst := (s.chan (ringCh n)).burst.map (fun b => { b with noBuf := false }) }).setBit
    (ringStat n) RING_STAT_NOBUF false

theorem State.retryBuffers_eq (s : State) (k : Nat) :
    s.retryBuffers k = ((s.rg k).poolWait.foldl State.retryRing s).updRg k (fun x => { x with poolWait := [] }) := rfl

/-- From s to t, rings of l are retried: registers and channels change, and of the registers their RING_STAT alone. -/
structure Retried (l : List Nat) (s t : State) : Prop where
  frame : t = { s with regs := t.regs, chans := t.chans }
  kept : s.regsKept t (l.map ringStat)
  clear : ∀ n, n ∈ l ∨ s.bit (ringStat n) RING_STAT_NOBUF = false → t.bit (ringStat n) RING_STAT_NOBUF = false

theorem State.retryRing_retried (s : State) (n : Nat) : Retried [n] s (s.retryRing n) := by
  unfold State.retryRing
  obtain ⟨chans, hchans⟩ := s.setChan_frame (ringCh n)
    { s.chan (ringCh n) with burst := (s.chan (ringCh n)).burst.map (fun b => { b with noBuf := false }) }
  rw [hchans]
  generalize hu : ({ s with chans := chans } : State) = u
  have hreg : ∀ a, u.reg a = s.reg a := fun a => by rw [← hu]; rfl
  have hset := u.setBit_bit (ringStat n) RING_STAT_NOBUF false rfl (by decide)
  have hkept := u.setBit_regsKept (ringStat n) RING_STAT_NOBUF false
  obtain ⟨regs, hregs⟩ := u.setBit_frame (ringStat n) RING_STAT_NOBUF false
  rw [hregs] at hset hkept ⊢
  refine ⟨by rw [← hu], fun a ha => (hkept a ha).trans (hreg a), fun m hm => ?_⟩
  by_cases he : ringStat m = ringStat n
  · rw [he, hset]
  · rw [State.bit_of_reg _ (hkept _ (by simpa using he)), State.bit_of_reg _ (hreg _)]
    rcases hm with hm | hm
    · exact absurd (congrArg ringStat (List.mem_singleton.mp hm)) he
    · exact hm

theorem Retried.append {l m : List Nat} {s t u : State} (h : Retried l s t) (k : Retried m t u) : Retried (l ++ m) s u := by
  obtain ⟨hframe, hkept, hclear⟩ := h
  obtain ⟨kframe, kkept, kclear⟩ := k
  refine ⟨?_, fun a ha => ?_, fun n hn => kclear n ?_⟩
  · rw [kframe, hframe]
  · rw [List.map_append, List.mem_append, not_or] at ha
    exact (kkept a ha.2).trans (hkept a ha.1)
  · rcases hn with hn | hn
    · rcases List.mem_append.mp hn with hl | hm
      · exact .inr (hclear n (.inl hl))
      · exact .inl hm
    · exact .inr (hclear n (.inr hn))

theorem State.retryRings_retried (s : State) (l : List Nat) : Retried l s (l.foldl State.retryRing s) := by
  induction l generalizing s with
  | nil => exact ⟨rfl, fun _ _ => rfl, fun n hn => hn.resolve_left List.not_mem_nil⟩
  | cons n l ih => exact (s.retryRing_retried n).append (ih (s.retryRing n))

/-- A buffer is back in the free list and those that waited for one are retried. -/
theorem State.retryBuffers_reads (s : State) (k b : Nat) {t : State}
    (ht : t = (s.updRg k (fun x => { x with poolFree := b :: x.poolFree })).retryBuffers k) : (t.rg k).poolFree = b :: (s.rg k).poolFree ∧
    (t.rg k).poolWait = [] ∧ (∀ n ∈ (s.rg k).poolWait, t.bit (ringStat n) RING_STAT_NOBUF = false) ∧ (∀ q, q ≠ k → t.rg q = s.rg q) ∧
    t = { s with regs := t.regs, regions := t.regions, chans := t.chans } ∧ s.regsKept t ((s.rg k).poolWait.map ringStat) := by
  have hrg := s.updRg_rg k (fun x => { x with poolFree := b :: x.poolFree })
  have hother := s.updRg_rg_ne k (fun x => { x with poolFree := b :: x.poolFree })
  have hwait : ((s.updRg k (fun x => { x with poolFree := b :: x.poolFree })).rg k).poolWait = (s.rg k).poolWait := by rw [hrg]
  rw [State.retryBuffers_eq, hwait] at ht
  obtain ⟨regions, hregions⟩ := s.updRg_frame k (fun x => { x with poolFree := b :: x.poolFree })
  rw [hregions] at ht hrg hother
  obtain ⟨hframe, hkept, hclear⟩ := ({ s with regions := regions } : State).retryRings_retried (s.rg k).poolWait
  generalize (s.rg k).poolWait.foldl State.retryRing { s with regions := regions } = u at ht hframe hkept hclear
  have hrg' : u.rg = ({ s with regions := regions } : State).rg := by
    rw [hframe]
    rfl
  subst ht
  refine ⟨?_, ?_, fun n hn => hclear n (.inl hn), fun q hq => ?_, ?_, hkept⟩
  · rw [State.updRg_rg, hrg', hrg]
  · rw [State.updRg_rg]
  · rw [State.updRg_rg_ne _ _ _ _ hq, hrg', hother q hq]
  · obtain ⟨regions', hupd⟩ := u.updRg_frame k (fun x => { x with poolWait := [] })
    rw [hupd, hframe]

variable {value : Word} (h : s.reaches (DMA_POOL_PUT r.val)) {k : Nat} (hk : k = getF value DMA_POOL_PUT_INDEX)
include h hk

theorem exec_poolPut : exec (.poolPut port r value) s = .next (s.poolReturn port.val r.val k) := by
  have harm : exec (.poolPut port r value) s = execPoolPut port r value s := rfl
  rw [harm, execPoolPut, State.reach_open _ _ _ _ h.1 h.2, hk]

theorem poolPut_returns (hlt : k < s.poolCount r.val) (hnot : k ∉ (s.rg r.val).poolFree) : ∃ t, exec (.poolPut port r value) s = .next t ∧
    (t.rg r.val).poolFree = k :: (s.rg r.val).poolFree ∧ (t.rg r.val).poolWait = [] ∧
    (∀ n ∈ (s.rg r.val).poolWait, t.bit (ringStat n) RING_STAT_NOBUF = false) ∧ (∀ q, q ≠ r.val → t.rg q = s.rg q) ∧
    t = { s with regs := t.regs, regions := t.regions, chans := t.chans } ∧ s.regsKept t ((s.rg r.val).poolWait.map ringStat) := by
  have hagain : (s.rg r.val).poolFree.contains k = false := by
    rw [List.contains_eq_mem]
    exact decide_eq_false hnot
  have hput : s.poolReturn port.val r.val k = (s.updRg r.val (fun x => { x with poolFree := k :: x.poolFree })).retryBuffers r.val := by
    rw [State.poolReturn, if_neg (Nat.not_le.mpr hlt), hagain]
    rfl
  exact ⟨_, exec_poolPut port h hk, s.retryBuffers_reads r.val k hput⟩

theorem poolPut_refused (hge : s.poolCount r.val ≤ k) :
    exec (.poolPut port r value) s = .next (s.violation 0x01 port.val 0 k (DMA_POOL_PUT r.val)) := by
  rw [exec_poolPut port h hk, State.poolReturn, if_pos hge]

end

/-- Settles O44: each command by its equation, and by what is read of the registers and records that it changes. -/
theorem ringsAndPoolsGiveAndTake : Obligations.RingsAndPoolsGiveAndTake := by
  unfold Obligations.RingsAndPoolsGiveAndTake
  refine ⟨fun port ring r tail value s => ⟨fun y hy hhyp => ?_, fun hreach => ⟨ringRestart_restarts port hreach, ringRestart_runs port hreach⟩,
    fun hopen => ⟨fun k hk hfree hbelow => ringAlloc_takes port hopen hk hfree hbelow, ringAlloc_none port hopen⟩,
    fun hreach n hn => ⟨ringFree_frees port hreach hn, ringFree_refused port hreach hn⟩⟩,
    fun port r value s => ⟨fun hopen => ⟨poolTake_takes port hopen, poolTake_none port hopen⟩,
      fun hreach k hk => ⟨poolPut_returns port hreach hk, poolPut_refused port hreach hk⟩⟩⟩
  simp only [List.mem_cons, List.not_mem_nil, or_false] at hy
  rcases hy with rfl | rfl
  · exact ⟨_, exec_ringTailWrite port ring tail hhyp, s.tailWrite_reads ring.val tail.isLt⟩
  · obtain ⟨hdb, hptr, hring, htail⟩ := hhyp
    have hexec := exec_doorbell (value := value) port hdb (hring ▸ hptr)
    rw [hring, htail] at hexec
    exact ⟨_, hexec, s.tailWrite_reads ring.val tail.isLt⟩

end Sys2Proof.Machine
end

section
/-! SUPPORT. What the steps of the VYENE system write: registers, what VYENE and the hub hold, and messages; and the steps that R475-R482
share: who is followed, who is aligned. -/

namespace Sys2Proof.Machine

section

variable (s : State)

@[simp] theorem State.setReg_homeWaits (a : Nat) (w : Word) : (s.setReg a w).homeWaits = s.homeWaits := by rfl
@[simp] theorem State.setFld_homeWaits (a : Nat) (f : Fld) (v : Nat) : (s.setFld a f v).homeWaits = s.homeWaits := by rfl
@[simp] theorem State.setBit_homeWaits (a : Nat) (f : Fld) (b : Bool) : (s.setBit a f b).homeWaits = s.homeWaits := by rfl
@[simp] theorem State.updVyn_homeWaits (f : VynSt → VynSt) : (s.updVyn f).homeWaits = s.homeWaits := by rfl
@[simp] theorem State.updHub_homeWaits (f : HubSt → HubSt) : (s.updHub f).homeWaits = s.homeWaits := by rfl
@[simp] theorem State.send_homeWaits (o : Output) : (s.send o).homeWaits = s.homeWaits := by rfl

end

/-- From s to t registers of l, what VYENE, the hub and the shared flow space wait for, and the outputs alone have changed. -/
structure VynStep (l : List Nat) (s t : State) : Prop where
  frame : t = { s with
    regs := t.regs, vyn := t.vyn, hub := t.hub, outs := t.outs, flowStores := t.flowStores, homeWaits := t.homeWaits }
  kept : s.regsKept t l

namespace VynStep

variable {l : List Nat} {s t u : State}

theorem refl (l : List Nat) (s : State) : VynStep l s s := ⟨rfl, fun _ _ => rfl⟩

theorem trans (h : VynStep l s t) (k : VynStep l t u) : VynStep l s u := by
  refine ⟨?_, State.regsKept_trans h.kept k.kept⟩
  rw [k.frame, h.frame]

theorem foldl {α : Type} {f : State → α → State} {xs : List α} (hf : ∀ x ∈ xs, ∀ t, VynStep l s t → VynStep l s (f t x))
    (h : VynStep l s t) : VynStep l s (xs.foldl f t) :=
  List.foldlRecOn xs f h fun u hu x hx => hf x hx u hu

variable (h : VynStep l s t)
include h

theorem setReg {a : Nat} (w : Word) (ha : a ∈ l) : VynStep l s (t.setReg a w) :=
  h.trans ⟨rfl, fun m hm => t.setReg_reg_ne a w m fun e => hm (e ▸ ha)⟩

theorem setFld {a : Nat} (f : Fld) (v : Nat) (ha : a ∈ l) : VynStep l s (t.setFld a f v) := h.setReg _ ha

theorem setBit {a : Nat} (f : Fld) (b : Bool) (ha : a ∈ l) : VynStep l s (t.setBit a f b) := h.setReg _ ha

theorem countSat {a : Nat} (f : Fld) (k : Nat) (ha : a ∈ l) : VynStep l s (t.countSat a f k) := h.setReg _ ha

theorem setPair {a b : Nat} (v : Nat) (ha : a ∈ l) (hb : b ∈ l) : VynStep l s (t.setPair a b v) := (h.setReg _ ha).setReg _ hb

theorem updVyn (f : VynSt → VynSt) : VynStep l s (t.updVyn f) := h.trans ⟨rfl, fun _ _ => rfl⟩

theorem updHub (f : HubSt → HubSt) : VynStep l s (t.updHub f) := h.trans ⟨rfl, fun _ _ => rfl⟩

theorem send (o : Output) : VynStep l s (t.send o) := h.trans ⟨rfl, fun _ _ => rfl⟩

theorem unalign (ha : VYN_SYS_STAT ∈ l) : VynStep l s t.unalign := by
  unfold State.unalign
  exact (h.setBit _ _ ha).updHub _

theorem alignDone (ha : VYN_SYS_STAT ∈ l) : VynStep l s t.alignDone := by
  unfold State.alignDone
  exact (h.setBit _ _ ha).updHub _

theorem mono {l' : List Nat} (hl : l ⊆ l') : VynStep l' s t := ⟨h.frame, fun m hm => h.kept m fun hk => hm (hl hk)⟩

theorem fld {a : Nat} (f : Fld) (ha : a ∉ l) : t.fld a f = s.fld a f := State.fld_of_reg f (h.kept a ha)

theorem bit {a : Nat} (f : Fld) (ha : a ∉ l) : t.bit a f = s.bit a f := State.bit_of_reg f (h.kept a ha)

end VynStep

/-! Who is followed (R475, R476). -/

section

variable (s : State) (m : Nat) (e : Word)

/-- What VYENE holds of a package that follows a master. -/
def followVyn (gt : Nat) (v : VynSt) : VynSt := { v with electing := false, lastLease := gt }

/-- A package that follows a master, but for its alignment. -/
def State.followed : State :=
  ((((s.setReg VYN_EPOCH e).setFld VYN_SYS_STAT VYN_SYS_STAT_MASTER_ID m).setBit VYN_SYS_STAT VYN_SYS_STAT_NOMASTER false).setBit
    VYN_SYS_STAT VYN_SYS_STAT_IS_MASTER (m == s.pkgId)).updVyn (followVyn s.gt)

theorem State.followed_step : VynStep [VYN_SYS_STAT, VYN_EPOCH] s (s.followed m e) :=
  (((((VynStep.refl _ s).setReg e (by simp)).setFld _ m (by simp)).setBit _ _ (by simp)).setBit _ _ (by simp)).updVyn _

theorem State.followed_reads (hm : m < 16) : (s.followed m e).fld VYN_SYS_STAT VYN_SYS_STAT_MASTER_ID = m ∧
    (s.followed m e).bit VYN_SYS_STAT VYN_SYS_STAT_NOMASTER = false ∧ (s.followed m e).isMaster = (m == s.pkgId) ∧
    (s.followed m e).reg VYN_EPOCH = e ∧
    (s.followed m e).bit VYN_SYS_STAT VYN_SYS_STAT_CONFLICT = s.bit VYN_SYS_STAT VYN_SYS_STAT_CONFLICT := by
  have hmod : m % 2 ^ VYN_SYS_STAT_MASTER_ID.width = m := Nat.mod_eq_of_lt hm
  unfold State.isMaster State.followed
  generalize (m == s.pkgId) = b
  refine ⟨?_, ?_, ?_, ?_, ?_⟩
  · rw [State.updVyn_fld, State.setBit_fld_apart _ _ _ _ _ (by decide), State.setBit_fld_apart _ _ _ _ _ (by decide),
      State.setFld_fld _ _ _ _ (by decide) (by decide), hmod]
  · rw [State.updVyn_bit, State.setBit_bit_apart _ _ _ _ _ (by decide), State.setBit_bit _ _ _ _ rfl (by decide)]
  · rw [State.updVyn_bit, State.setBit_bit _ _ _ _ rfl (by decide)]
  · rw [State.updVyn_reg, State.setBit_reg_ne _ _ _ _ _ (by decide), State.setBit_reg_ne _ _ _ _ _ (by decide),
      State.setFld_reg_ne _ _ _ _ _ (by decide), State.setReg_reg]
  · rw [State.updVyn_bit, State.setBit_bit_apart _ _ _ _ _ (by decide), State.setBit_bit_apart _ _ _ _ _ (by decide),
      State.setFld_bit_apart _ _ _ _ _ (by decide), State.setReg_bit_ne _ _ _ _ _ (by decide)]

theorem State.followed_rest : (s.followed m e).vyn = followVyn s.gt s.vyn ∧ (s.followed m e).outs = s.outs ∧
    (s.followed m e).flowStores = s.flowStores ∧ (s.followed m e).homeWaits = s.homeWaits := by
  unfold State.followed
  simp

/-- Whether a package that follows master m has followed it before. -/
def State.sameMaster : Bool := !s.bit VYN_SYS_STAT VYN_SYS_STAT_NOMASTER && decide (s.fld VYN_SYS_STAT VYN_SYS_STAT_MASTER_ID = m)

theorem State.follow_eq : s.follow m e = (if m = s.pkgId then (s.followed m e).alignDone
    else if s.sameMaster m then s.followed m e else (s.followed m e).unalign) := by
  unfold State.follow
  extract_lets a same t u v
  have hgt : u.gt = s.gt := by
    unfold u t
    simp
  have hu : v = s.followed m e := by
    unfold v
    rw [hgt]
    rfl
  rw [hu]
  rfl

end

/-! Alignment (R480, R482). -/

/-- From s to t ALIGNED alone of the registers, and what the hub holds, have changed. -/
structure AlignStep (s t : State) : Prop where
  step : VynStep [VYN_SYS_STAT] s t
  vyn : t.vyn = s.vyn
  outs : t.outs = s.outs
  flowStores : t.flowStores = s.flowStores
  homeWaits : t.homeWaits = s.homeWaits
  fld : ∀ f, VYN_SYS_STAT_ALIGNED.apart f = true → t.fld VYN_SYS_STAT f = s.fld VYN_SYS_STAT f

namespace AlignStep

variable {s t : State}

theorem refl (s : State) : AlignStep s s := ⟨VynStep.refl _ s, rfl, rfl, rfl, rfl, fun _ _ => rfl⟩

theorem setAligned (s : State) (b : Bool) (f : HubSt → HubSt) :
    AlignStep s ((s.setBit VYN_SYS_STAT VYN_SYS_STAT_ALIGNED b).updHub f) := by
  refine ⟨((VynStep.refl _ s).setBit _ _ (by simp)).updHub _, by simp, by simp, by simp, by simp, fun g hg => ?_⟩
  rw [State.updHub_fld, State.setBit_fld_apart _ _ _ _ _ hg]

theorem bit (h : AlignStep s t) (f : Fld) (hf : VYN_SYS_STAT_ALIGNED.apart f = true) : t.bit VYN_SYS_STAT f = s.bit VYN_SYS_STAT f :=
  congrArg (· == 1) (h.fld f hf)

theorem isMaster (h : AlignStep s t) : t.isMaster = s.isMaster := h.bit _ (by decide)

end AlignStep

section

variable (s : State)

theorem State.alignDone_alignStep : AlignStep s s.alignDone := by
  unfold State.alignDone
  exact AlignStep.setAligned s true _

theorem State.unalign_alignStep : AlignStep s s.unalign := by
  unfold State.unalign
  exact AlignStep.setAligned s false _

theorem State.alignDone_aligned : s.alignDone.bit VYN_SYS_STAT VYN_SYS_STAT_ALIGNED = true := by
  unfold State.alignDone
  rw [State.updHub_bit, State.setBit_bit _ _ _ _ rfl (by decide)]

theorem State.unalign_aligned : s.unalign.bit VYN_SYS_STAT VYN_SYS_STAT_ALIGNED = false := by
  unfold State.unalign
  rw [State.updHub_bit, State.setBit_bit _ _ _ _ rfl (by decide)]

end

end Sys2Proof.Machine
end

section
/-! Settles O57: elections and the lease (R475-R477). -/

namespace Sys2Proof.Machine

variable {s : State}

/-! The winner of an election (R475). -/

theorem foldl_better_mem (l : List (Nat × Nat)) (x : Nat × Nat) : l.foldl better x ∈ x :: l := by
  induction l generalizing x with
  | nil => exact List.mem_singleton_self x
  | cons y l ih =>
    have hb : better x y = x ∨ better x y = y := by
      unfold better
      split
      · exact .inr rfl
      · exact .inl rfl
    rcases hb with hb | hb
    · rw [List.foldl_cons, hb]
      rcases List.mem_cons.mp (ih x) with h | h
      · exact List.mem_cons.mpr (.inl h)
      · exact List.mem_cons_of_mem _ (List.mem_cons_of_mem _ h)
    · rw [List.foldl_cons, hb]
      exact List.mem_cons_of_mem _ (ih y)

theorem elected_of_best {l : List (Nat × Nat)} {k p : Nat} (hmem : (k, p) ∈ l)
    (hbest : ∀ y ∈ l, y = (k, p) ∨ y.2 < p ∨ (y.2 = p ∧ k < y.1)) : elected l = some k := by
  cases l with
  | nil => exact nomatch hmem
  | cons x l =>
    obtain ⟨hx, hl⟩ := foldl_least (le := fun a b : Nat × Nat => b.2 < a.2 ∨ (b.2 = a.2 ∧ a.1 ≤ b.1)) (f := better)
      (fun m => .inr ⟨rfl, le_rfl⟩) (fun a b c => by omega) (fun m z => by unfold better; split <;> constructor <;> omega) l x
    have hwin : l.foldl better x = (k, p) := by
      have hle : p < (l.foldl better x).2 ∨ (p = (l.foldl better x).2 ∧ (l.foldl better x).1 ≤ k) := by
        rcases List.mem_cons.mp hmem with h | h
        · rw [← h] at hx
          rw [← h]
          exact hx
        · exact hl _ h
      rcases hbest _ (foldl_better_mem l x) with h | h | h
      · exact h
      · omega
      · omega
    exact congrArg (fun y : Nat × Nat => some y.1) hwin

/-- The candidates do not depend on VYN_SYS_STAT. -/
theorem State.candidates_of_step {t : State} (h : VynStep [VYN_SYS_STAT] s t) (hvyn : t.vyn = s.vyn) : t.candidates = s.candidates := by
  have htag : t.tag = s.tag := by
    unfold State.tag State.pair
    rw [h.kept VYN_TAG_LO (by decide), h.kept VYN_TAG_HI (by decide)]
  have hpresent : t.present = s.present := funext fun k => congrArg (nbit · k) (h.fld VYN_IDS_PRESENT (by decide))
  have hid : t.pkgId = s.pkgId := h.fld SYS_IDENT_PKG_ID (by decide)
  have heligible : t.eligible = s.eligible := h.bit VYN_ROLES_MASTER_ELIGIBLE (by decide)
  have hpriority : t.priority = s.priority := h.fld VYN_ROLES_ELECT_PRIORITY (by decide)
  rw [State.candidates, htag, hpresent, hid, heligible, hpriority, hvyn]
  rfl

/-! An election (R475). -/

section

variable (s)

/-- What following a master leaves and writes. -/
theorem State.follow_reads {m : Nat} (hm : m < 16) (e : Word) {t : State} (ht : t = s.follow m e) : VynStep [VYN_SYS_STAT, VYN_EPOCH] s t ∧
    t.fld VYN_SYS_STAT VYN_SYS_STAT_MASTER_ID = m ∧ t.bit VYN_SYS_STAT VYN_SYS_STAT_NOMASTER = false ∧ t.isMaster = (m == s.pkgId) ∧
    t.reg VYN_EPOCH = e ∧ t.bit VYN_SYS_STAT VYN_SYS_STAT_CONFLICT = s.bit VYN_SYS_STAT VYN_SYS_STAT_CONFLICT ∧
    t.vyn = followVyn s.gt s.vyn ∧ (m = s.pkgId → t.bit VYN_SYS_STAT VYN_SYS_STAT_ALIGNED = true) ∧
    (m ≠ s.pkgId → s.fld VYN_SYS_STAT VYN_SYS_STAT_MASTER_ID ≠ m → t.bit VYN_SYS_STAT VYN_SYS_STAT_ALIGNED = false) ∧
    t = { s with regs := t.regs, vyn := t.vyn, hub := t.hub } := by
  obtain ⟨hmaster, hno, his, hepoch, hconflict⟩ := s.followed_reads m e hm
  obtain ⟨hvyn, houts, hstores, hwaits⟩ := s.followed_rest m e
  have hstep := s.followed_step m e
  rw [s.follow_eq m e] at ht
  have halign : AlignStep (s.followed m e) t ∧ (m = s.pkgId → t.bit VYN_SYS_STAT VYN_SYS_STAT_ALIGNED = true) ∧
      (m ≠ s.pkgId → s.fld VYN_SYS_STAT VYN_SYS_STAT_MASTER_ID ≠ m → t.bit VYN_SYS_STAT VYN_SYS_STAT_ALIGNED = false) := by
    split at ht
    next he => exact ht ▸ ⟨State.alignDone_alignStep _, fun _ => State.alignDone_aligned _, fun hne => absurd he hne⟩
    next he =>
      split at ht
      next hsame =>
        refine ht ▸ ⟨AlignStep.refl _, fun h => absurd h he, fun _ hne => absurd hsame ?_⟩
        rw [State.sameMaster, decide_eq_false hne, Bool.and_false]
        decide
      next => exact ht ▸ ⟨State.unalign_alignStep _, fun h => absurd h he, fun _ _ => State.unalign_aligned _⟩
  obtain ⟨halign, hyes, hunaligned⟩ := halign
  generalize s.followed m e = u at *
  have hall := hstep.trans (halign.step.mono (by simp))
  refine ⟨hall, (halign.fld _ (by decide)).trans hmaster, (halign.bit _ (by decide)).trans hno, halign.isMaster.trans his,
    (halign.step.kept _ (by decide)).trans hepoch, (halign.bit _ (by decide)).trans hconflict, halign.vyn.trans hvyn, hyes, hunaligned, ?_⟩
  exact hall.frame.trans (by rw [halign.outs, halign.flowStores, halign.homeWaits, houts, hstores, hwaits])

/-- A package that has no master, but for its alignment. -/
def State.unmastered : State :=
  (((s.setBit VYN_SYS_STAT VYN_SYS_STAT_NOMASTER true).setBit VYN_SYS_STAT VYN_SYS_STAT_IS_MASTER false).setReg VYN_L 0).updVyn
    (fun v => { v with electing := false })

theorem State.unmastered_step : VynStep [VYN_SYS_STAT, VYN_L] s s.unmastered :=
  ((((VynStep.refl _ s).setBit _ _ (by simp)).setBit _ _ (by simp)).setReg _ (by simp)).updVyn _

/-- With no reachable package eligible this package is its own domain. -/
theorem State.noMaster_reads {t : State} (ht : t = s.noMaster) : t.bit VYN_SYS_STAT VYN_SYS_STAT_NOMASTER = true ∧
    t.bit VYN_SYS_STAT VYN_SYS_STAT_ALIGNED = true ∧ t.isMaster = false ∧ t.reg VYN_L = 0 ∧ t.vyn.electing = false ∧
    VynStep [VYN_SYS_STAT, VYN_L] s t ∧ t = { s with regs := t.regs, vyn := t.vyn, hub := t.hub } := by
  have hu := s.unmastered_step
  have hno : s.unmastered.bit VYN_SYS_STAT VYN_SYS_STAT_NOMASTER = true := by
    unfold State.unmastered
    rw [State.updVyn_bit, State.setReg_bit_ne _ _ _ _ _ (by decide), State.setBit_bit_apart _ _ _ _ _ (by decide),
      State.setBit_bit _ _ _ _ rfl (by decide)]
  have his : s.unmastered.isMaster = false := by
    unfold State.unmastered State.isMaster
    rw [State.updVyn_bit, State.setReg_bit_ne _ _ _ _ _ (by decide), State.setBit_bit _ _ _ _ rfl (by decide)]
  have hl : s.unmastered.reg VYN_L = 0 := by
    unfold State.unmastered
    rw [State.updVyn_reg, State.setReg_reg]
  have hrest : s.unmastered.vyn.electing = false ∧ s.unmastered.outs = s.outs ∧ s.unmastered.flowStores = s.flowStores ∧
      s.unmastered.homeWaits = s.homeWaits := by
    unfold State.unmastered
    simp
  obtain ⟨hvyn, hrest⟩ := hrest
  have hdone : s.noMaster = s.unmastered.alignDone := rfl
  rw [hdone] at ht
  generalize s.unmastered = v at *
  have halign := v.alignDone_alignStep
  have hyes := v.alignDone_aligned
  rw [← ht] at halign hyes
  have hall := hu.trans (halign.step.mono (by simp))
  refine ⟨(halign.bit _ (by decide)).trans hno, hyes, halign.isMaster.trans his, (halign.step.kept _ (by decide)).trans hl,
    (congrArg VynSt.electing halign.vyn).trans hvyn, hall, ?_⟩
  exact hall.frame.trans (by rw [halign.outs, halign.flowStores, halign.homeWaits, hrest.1, hrest.2.1, hrest.2.2])

end

/-- The conflict that an election ends. -/
theorem State.clearConflict_step (s : State) : VynStep [VYN_SYS_STAT] s (s.setBit VYN_SYS_STAT VYN_SYS_STAT_CONFLICT false) :=
  (VynStep.refl _ s).setBit _ _ (by simp)

theorem exec_election {others : List (BitVec 32)} (h : s.vyn.electing = true ∨ others ≠ []) (htag : s.tag ≠ 0) :
    exec (.election others) s = .next (match elected s.candidates with
      | some m => (s.setBit VYN_SYS_STAT VYN_SYS_STAT_CONFLICT false).follow m (newestEpoch (s.reg VYN_EPOCH) others + 1)
      | none => (s.setBit VYN_SYS_STAT VYN_SYS_STAT_CONFLICT false).noMaster) := by
  have hheld : (s.vyn.electing || !others.isEmpty) = true := by
    rcases h with h | h
    · rw [h, Bool.true_or]
    · rw [List.isEmpty_eq_false_iff.mpr h, Bool.not_false, Bool.or_true]
  have hcand := State.candidates_of_step s.clearConflict_step (by simp)
  have hepoch := s.clearConflict_step.kept VYN_EPOCH (by decide)
  have harm : exec (.election others) s = execElection others s := rfl
  rw [harm, execElection, if_pos hheld, if_neg htag]
  dsimp only
  rw [hcand, hepoch]
  cases elected s.candidates with
  | none => rfl
  | some m => rfl

section

variable {others : List (BitVec 32)} (h : s.vyn.electing = true ∨ others ≠ []) (htag : s.tag ≠ 0)
include h htag

theorem election_elects {k p : Nat} (hmem : (k, p) ∈ s.candidates) (hk : k < 16)
    (hbest : ∀ y ∈ s.candidates, y = (k, p) ∨ y.2 < p ∨ (y.2 = p ∧ k < y.1)) :
    ∃ t, exec (.election others) s = .next t ∧ t.fld VYN_SYS_STAT VYN_SYS_STAT_MASTER_ID = k ∧
      t.reg VYN_EPOCH = newestEpoch (s.reg VYN_EPOCH) others + 1 ∧ t.bit VYN_SYS_STAT VYN_SYS_STAT_NOMASTER = false ∧
      t.isMaster = (k == s.pkgId) ∧ t.vyn.electing = false ∧ t.bit VYN_SYS_STAT VYN_SYS_STAT_CONFLICT = false ∧
      (k = s.pkgId → t.bit VYN_SYS_STAT VYN_SYS_STAT_ALIGNED = true) ∧
      t = { s with regs := t.regs, vyn := t.vyn, hub := t.hub } ∧ s.regsKept t [VYN_SYS_STAT, VYN_EPOCH] := by
  have hexec := exec_election h htag
  rw [elected_of_best hmem hbest] at hexec
  dsimp only at hexec
  have hclear := s.setBit_bit VYN_SYS_STAT VYN_SYS_STAT_CONFLICT false rfl (by decide)
  have hstep := s.clearConflict_step
  have hid : (s.setBit VYN_SYS_STAT VYN_SYS_STAT_CONFLICT false).pkgId = s.pkgId := hstep.fld _ (by decide)
  obtain ⟨regs, hregs⟩ := s.setBit_frame VYN_SYS_STAT VYN_SYS_STAT_CONFLICT false
  rw [hregs] at hexec hclear hstep hid
  obtain ⟨hfollow, hmaster, hno, his, hepoch, hconflict, hvyn, hyes, -, hframe⟩ :=
    ({ s with regs := regs } : State).follow_reads hk (newestEpoch (s.reg VYN_EPOCH) others + 1) rfl
  rw [hid] at his hyes
  exact ⟨_, hexec, hmaster, hepoch, hno, his, congrArg VynSt.electing hvyn, hconflict.trans hclear, hyes, hframe,
    ((hstep.mono (by simp)).trans hfollow).kept⟩

theorem election_fails (hnone : s.candidates = []) : ∃ t, exec (.election others) s = .next t ∧ t.bit VYN_SYS_STAT VYN_SYS_STAT_NOMASTER = true ∧
    t.bit VYN_SYS_STAT VYN_SYS_STAT_ALIGNED = true ∧ t.isMaster = false ∧ t.reg VYN_L = 0 ∧ t.vyn.electing = false ∧
    t = { s with regs := t.regs, vyn := t.vyn, hub := t.hub } ∧ s.regsKept t [VYN_SYS_STAT, VYN_L] := by
  have hexec := exec_election h htag
  rw [hnone] at hexec
  have hstep := s.clearConflict_step
  obtain ⟨regs, hregs⟩ := s.setBit_frame VYN_SYS_STAT VYN_SYS_STAT_CONFLICT false
  rw [hregs] at hexec hstep
  obtain ⟨hno, hyes, his, hl, hvyn, hmaster, hframe⟩ := ({ s with regs := regs } : State).noMaster_reads rfl
  exact ⟨_, hexec, hno, hyes, his, hl, hvyn, hframe, ((hstep.mono (by simp)).trans hmaster).kept⟩

end

/-! ELECT, the lease and its lapse (R476-R478). -/

theorem elect_starts (port : PortNo) (h : s.reaches VYN_CMD) : ∃ t, exec (.elect port) s = .next t ∧
    t.bit VYN_SYS_STAT VYN_SYS_STAT_CONFLICT = false ∧ t.vyn = { s.vyn with electing := true } ∧
    t.outs = s.outs ++ [.vyene "ELECT" 16 []] ∧ t = { s with regs := t.regs, vyn := t.vyn, outs := t.outs } ∧ s.regsKept t [VYN_SYS_STAT] := by
  have hexec : exec (.elect port) s = .next s.electNow := by
    have harm : exec (.elect port) s = execElect port s := rfl
    rw [harm, execElect, State.reach_open _ _ _ _ h.1 h.2]
  have hclear := s.setBit_bit VYN_SYS_STAT VYN_SYS_STAT_CONFLICT false rfl (by decide)
  have hkept := s.setBit_regsKept VYN_SYS_STAT VYN_SYS_STAT_CONFLICT false
  obtain ⟨regs, hregs⟩ := s.setBit_frame VYN_SYS_STAT VYN_SYS_STAT_CONFLICT false
  rw [State.electNow] at hexec
  rw [hregs] at hexec hclear hkept
  exact ⟨_, hexec, hclear, rfl, rfl, rfl, hkept⟩

theorem lease_renews {g : Nat} (h : s.isMaster = true) (hg : g % 2 ^ 24 = 0) : ∃ t, exec (.lease g) s = .next t ∧
    t.outs = s.outs ++ [.vyene "LEASE" 16 [(s.reg VYN_EPOCH).toNat, s.pkgId, g]] ∧ t = { s with gt := max s.gt g, outs := t.outs } := by
  have hexec : exec (.lease g) s = .next ((s.at g).send (.vyene "LEASE" 16 [(s.reg VYN_EPOCH).toNat, s.pkgId, g])) := by
    have harm : exec (.lease g) s = execLease g s := rfl
    rw [harm, execLease, if_pos ⟨h, hg⟩]
  exact ⟨_, hexec, rfl, rfl⟩

theorem leaseLapse_lapses {g : Nat} (htag : s.tag ≠ 0) (his : s.isMaster = false) (hno : s.bit VYN_SYS_STAT VYN_SYS_STAT_NOMASTER = false)
    (hconflict : s.bit VYN_SYS_STAT VYN_SYS_STAT_CONFLICT = false) (hlate : s.vyn.lastLease + 3 * 2 ^ 24 ≤ g) :
    ∃ t, exec (.leaseLapse g) s = .next t ∧ t.vyn = { s.vyn with electing := true } ∧
      t.outs = s.outs ++ [.vyene "ELECT" 16 []] ∧ t = { s with gt := max s.gt g, vyn := t.vyn, outs := t.outs } := by
  have hexec : exec (.leaseLapse g) s = .next (((s.at g).updVyn (fun v => { v with electing := true })).send (.vyene "ELECT" 16 [])) := by
    have harm : exec (.leaseLapse g) s = execLeaseLapse g s := rfl
    rw [harm, execLeaseLapse, if_pos ⟨htag, his, hno, hconflict, hlate⟩]
  exact ⟨_, hexec, rfl, rfl, rfl⟩

section

variable {n : LinkNo} {e : BitVec 32} {m : PkgNo} (gt : Nat) (hup : s.bit (VYN_LINK n.val) VYN_LINK_UP = true)
include hup

theorem leaseReceive_follows (hpos : 0 < (e - s.reg VYN_EPOCH).toNat) (hlt : (e - s.reg VYN_EPOCH).toNat < 2 ^ 31) :
    ∃ t, exec (.leaseReceive n e m gt) s = .next t ∧ t.reg VYN_EPOCH = e ∧ t.fld VYN_SYS_STAT VYN_SYS_STAT_MASTER_ID = m.val ∧
      t.isMaster = (m.val == s.pkgId) ∧ t.vyn.lastLease = s.gt ∧ t.vyn.electing = false ∧
      (m.val ≠ s.pkgId → s.fld VYN_SYS_STAT VYN_SYS_STAT_MASTER_ID ≠ m.val → t.bit VYN_SYS_STAT VYN_SYS_STAT_ALIGNED = false) ∧
      t = { s with regs := t.regs, vyn := t.vyn, hub := t.hub } ∧ s.regsKept t [VYN_SYS_STAT, VYN_EPOCH] := by
  have hnewer : newer e (s.reg VYN_EPOCH) = true := by
    have hne : e - s.reg VYN_EPOCH ≠ 0 := fun h => by
      rw [h] at hpos
      exact absurd hpos (by decide)
    rw [newer, decide_eq_true hlt, Bool.and_true, bne_iff_ne]
    exact hne
  have hexec : exec (.leaseReceive n e m gt) s = .next (s.follow m.val e) := by
    have harm : exec (.leaseReceive n e m gt) s = execLeaseReceive n e m gt s := rfl
    rw [harm, execLeaseReceive, hup, hnewer]
    rfl
  obtain ⟨hstep, hmaster, -, his, hepoch, -, hvyn, -, hunaligned, hframe⟩ := s.follow_reads m.isLt e rfl
  exact ⟨_, hexec, hepoch, hmaster, his, congrArg VynSt.lastLease hvyn, congrArg VynSt.electing hvyn, hunaligned, hframe, hstep.kept⟩

theorem leaseReceive_renews (he : e = s.reg VYN_EPOCH) (hconflict : s.bit VYN_SYS_STAT VYN_SYS_STAT_CONFLICT = false)
    (hno : s.bit VYN_SYS_STAT VYN_SYS_STAT_NOMASTER = false) (hm : m.val = s.fld VYN_SYS_STAT VYN_SYS_STAT_MASTER_ID) :
    exec (.leaseReceive n e m gt) s = .next { s with vyn := { s.vyn with lastLease := s.gt } } := by
  have hnewer : newer e (s.reg VYN_EPOCH) = false := by
    rw [newer, he, BitVec.sub_self]
    rfl
  have hnot : ¬(e ≠ s.reg VYN_EPOCH ∨ s.bit VYN_SYS_STAT VYN_SYS_STAT_NOMASTER = true ∨ s.bit VYN_SYS_STAT VYN_SYS_STAT_CONFLICT = true) := by
    rw [hno, hconflict]
    simp [he]
  have harm : exec (.leaseReceive n e m gt) s = execLeaseReceive n e m gt s := rfl
  rw [harm, execLeaseReceive, hup, hnewer]
  dsimp only
  rw [if_neg (by decide), if_neg (by decide), if_neg hnot, if_pos hm]
  rfl

end

/-- Settles O57: who is followed by `State.follow_reads`, the winner by `elected_of_best`, the lease by its equations. -/
theorem mastersAreElectedAndHoldTheLease : Obligations.MastersAreElectedAndHoldTheLease := by
  unfold Obligations.MastersAreElectedAndHoldTheLease
  intro n port e m gt g others s
  exact ⟨elect_starts port, fun h htag => ⟨fun k p hmem hk hbest => election_elects h htag hmem hk hbest, election_fails h htag⟩,
    lease_renews, fun hup => ⟨leaseReceive_follows gt hup, leaseReceive_renews gt hup⟩, leaseLapse_lapses⟩

end Sys2Proof.Machine
end

section
/-! Settles O58: epoch conflicts, alignment, the link term and the SYNC ports (R478, R480, R482-R484, R486). -/

namespace Sys2Proof.Machine

variable {s : State}

/-! An epoch conflict (R478). -/

section

variable (s) (c : Nat)

/-- What an epoch conflict at grain c makes of a package, but for the event of a claimant. -/
def State.conflicted : State :=
  ((((((s.setBit VYN_SYS_STAT VYN_SYS_STAT_CONFLICT true).setBit VYN_SYS_STAT VYN_SYS_STAT_IS_MASTER false).unalign).updHub
    (fun h => { h with conflictAt := some c })).send (.vyene "CONFLICT" 16 [])).updVyn (fun v => { v with electing := false }))

theorem State.conflicted_step : VynStep [VYN_SYS_STAT] s (s.conflicted c) :=
  (((((((VynStep.refl _ s).setBit _ _ (by simp)).setBit _ _ (by simp)).unalign (by simp)).updHub _).send _).updVyn _)

theorem State.conflicted_bits : (s.conflicted c).bit VYN_SYS_STAT VYN_SYS_STAT_CONFLICT = true ∧ (s.conflicted c).isMaster = false ∧
    (s.conflicted c).bit VYN_SYS_STAT VYN_SYS_STAT_ALIGNED = false := by
  unfold State.isMaster State.conflicted
  refine ⟨?_, ?_, ?_⟩
  · rw [State.updVyn_bit, State.send_bit, State.updHub_bit, (State.unalign_alignStep _).bit _ (by decide),
      State.setBit_bit_apart _ _ _ _ _ (by decide), State.setBit_bit _ _ _ _ rfl (by decide)]
  · rw [State.updVyn_bit, State.send_bit, State.updHub_bit, (State.unalign_alignStep _).bit _ (by decide),
      State.setBit_bit _ _ _ _ rfl (by decide)]
  · rw [State.updVyn_bit, State.send_bit, State.updHub_bit, State.unalign_aligned]

theorem State.conflicted_rest : (s.conflicted c).hub = { s.hub with aligning := false, conflictAt := some c } ∧
    (s.conflicted c).vyn = { s.vyn with electing := false } ∧ (s.conflicted c).outs = s.outs ++ [.vyene "CONFLICT" 16 []] ∧
    (s.conflicted c).flowStores = s.flowStores ∧ (s.conflicted c).homeWaits = s.homeWaits := by
  unfold State.conflicted State.unalign
  simp

theorem State.event_engines (code src unit arg value : Nat) : (s.event code src unit arg value).engines = s.engines := by
  have e := congrArg State.engines (s.event_portsOnly code src unit arg value).rest
  exact e

theorem State.event_flags (code src unit arg value : Nat) : (s.event code src unit arg value).flags = s.flags := by
  have e := congrArg State.flags (s.event_portsOnly code src unit arg value).rest
  exact e

theorem State.event_bit_vyn (code src unit arg value : Nat) (f : Fld) :
    (s.event code src unit arg value).bit VYN_SYS_STAT f = s.bit VYN_SYS_STAT f :=
  s.event_bit code src unit arg value _ f (.inr (by decide))

/-- What VYENE, the hub, the runs and the engines read once a conflict is known. -/
structure InConflict (c : Nat) (s t : State) : Prop where
  conflict : t.bit VYN_SYS_STAT VYN_SYS_STAT_CONFLICT = true
  master : t.isMaster = false
  aligned : t.bit VYN_SYS_STAT VYN_SYS_STAT_ALIGNED = false
  hub : t.hub = { s.hub with aligning := false, conflictAt := some c }
  vyn : t.vyn = { s.vyn with electing := false }
  gt : t.gt = s.gt
  told : Output.vyene "CONFLICT" 16 [] ∈ t.outs
  pins : s.pinsKept t
  runs : t.runs = s.runs
  engines : t.engines = s.engines
  flags : t.flags = s.flags

theorem VynStep.kept_rest {l : List Nat} {s t : State} (h : VynStep l s t) : t.gt = s.gt ∧ s.pinsKept t ∧ t.runs = s.runs ∧
    t.engines = s.engines ∧ t.flags = s.flags := by
  rw [h.frame]
  exact ⟨rfl, fun _ => rfl, rfl, rfl, rfl⟩

theorem VynStep.frame_conflict {l : List Nat} {s t : State} {g : Nat} (h : VynStep l (s.at g) t)
    (hvyn : t.vyn = { (s.at g).vyn with electing := false }) (hstores : t.flowStores = (s.at g).flowStores)
    (hwaits : t.homeWaits = (s.at g).homeWaits) :
    t = { s with gt := t.gt, regs := t.regs, hub := t.hub, outs := t.outs, vyn := { s.vyn with electing := false } } := by
  have hgt := h.kept_rest.1
  refine h.frame.trans ?_
  rw [hvyn, hstores, hwaits, hgt]
  rfl

theorem State.conflicted_inConflict : InConflict c s (s.conflicted c) := by
  obtain ⟨hconflict, hmaster, haligned⟩ := s.conflicted_bits c
  obtain ⟨hhub, hvyn, houts, -, -⟩ := s.conflicted_rest c
  obtain ⟨hgt, hpins, hruns, hengines, hflags⟩ := (s.conflicted_step c).kept_rest
  refine ⟨hconflict, hmaster, haligned, hhub, hvyn, hgt, ?_, hpins, hruns, hengines, hflags⟩
  rw [houts]
  exact List.mem_append_right _ (List.mem_singleton_self _)

theorem InConflict.event {c : Nat} {s t : State} (h : InConflict c s t) (code src unit arg value : Nat) :
    InConflict c s (t.event code src unit arg value) where
  conflict := (t.event_bit_vyn ..).trans h.conflict
  master := (t.event_bit_vyn ..).trans h.master
  aligned := (t.event_bit_vyn ..).trans h.aligned
  hub := (t.event_hub ..).trans h.hub
  vyn := (t.event_vyn ..).trans h.vyn
  gt := (t.event_gt ..).trans h.gt
  told := t.event_outs _ _ _ _ _ _ h.told
  pins := fun p => (State.pinsKept_of_pinView (t.event_pinView code src unit arg value) p).trans (h.pins p)
  runs := (t.event_runs ..).trans h.runs
  engines := (t.event_engines ..).trans h.engines
  flags := (t.event_flags ..).trans h.flags

variable (claims : Bool)

theorem State.conflictNow_eq (h : s.bit VYN_SYS_STAT VYN_SYS_STAT_CONFLICT = false) : s.conflictNow c claims =
    if claims then (s.conflicted c).event codeEpochConflict 7 s.pkgId (s.reg VYN_EPOCH).toNat 0 else s.conflicted c := by
  rw [State.conflictNow, h]
  rfl

theorem State.conflictNow_inConflict (h : s.bit VYN_SYS_STAT VYN_SYS_STAT_CONFLICT = false) : InConflict c s (s.conflictNow c claims) := by
  rw [s.conflictNow_eq c claims h]
  have hc := s.conflicted_inConflict c
  split
  · exact hc.event ..
  · exact hc

end

section

variable (h : s.bit VYN_SYS_STAT VYN_SYS_STAT_CONFLICT = false)
include h

theorem leaseReceive_conflicts {n : LinkNo} {e : BitVec 32} {m : PkgNo} (g : Nat) (hup : s.bit (VYN_LINK n.val) VYN_LINK_UP = true)
    (he : e = s.reg VYN_EPOCH) (hno : s.bit VYN_SYS_STAT VYN_SYS_STAT_NOMASTER = false)
    (hm : m.val ≠ s.fld VYN_SYS_STAT VYN_SYS_STAT_MASTER_ID) : ∃ t, exec (.leaseReceive n e m g) s = .next t ∧ InConflict s.gt s t := by
  have hnewer : newer e (s.reg VYN_EPOCH) = false := by
    rw [newer, he, BitVec.sub_self]
    rfl
  have hnot : ¬(e ≠ s.reg VYN_EPOCH ∨ s.bit VYN_SYS_STAT VYN_SYS_STAT_NOMASTER = true ∨ s.bit VYN_SYS_STAT VYN_SYS_STAT_CONFLICT = true) := by
    rw [hno, h]
    simp [he]
  have harm : exec (.leaseReceive n e m g) s = execLeaseReceive n e m g s := rfl
  rw [harm, execLeaseReceive, hup, hnewer]
  rw [if_neg (by decide), if_neg (by decide), if_neg hnot, if_neg hm]
  exact ⟨_, rfl, s.conflictNow_inConflict s.gt s.isMaster h⟩

theorem conflict_conflicts (g : Nat) (claimant : PkgNo) : ∃ t, exec (.conflict g claimant) s = .next t ∧
    t.bit VYN_SYS_STAT VYN_SYS_STAT_CONFLICT = true ∧ t.isMaster = false ∧ t.bit VYN_SYS_STAT VYN_SYS_STAT_ALIGNED = false ∧
    t.hub = { s.hub with aligning := false, conflictAt := some g } ∧ t.gt = max s.gt g ∧ Output.vyene "CONFLICT" 16 [] ∈ t.outs ∧
    (s.isMaster = false → claimant.val ≠ s.pkgId →
      t = { s with gt := t.gt, regs := t.regs, hub := t.hub, outs := t.outs, vyn := { s.vyn with electing := false } } ∧
      s.regsKept t [VYN_SYS_STAT]) ∧ s.pinsKept t ∧ t.runs = s.runs ∧ t.engines = s.engines ∧ t.flags = s.flags := by
  have hat : (s.at g).bit VYN_SYS_STAT VYN_SYS_STAT_CONFLICT = false := h
  have hin := (s.at g).conflictNow_inConflict g (s.isMaster || s.pkgId == claimant.val) hat
  refine ⟨_, rfl, hin.conflict, hin.master, hin.aligned, hin.hub, hin.gt, hin.told, fun hmaster hclaim => ?_, hin.pins, hin.runs, hin.engines,
    hin.flags⟩
  have hquiet : (s.isMaster || s.pkgId == claimant.val) = false := by
    rw [hmaster, Bool.false_or, beq_eq_false_iff_ne]
    exact hclaim.symm
  rw [hquiet, (s.at g).conflictNow_eq g false hat, if_neg (by decide)]
  have hstep := (s.at g).conflicted_step g
  obtain ⟨-, hvyn, -, hstores, hwaits⟩ := (s.at g).conflicted_rest g
  exact ⟨hstep.frame_conflict hvyn hstores hwaits, hstep.kept⟩

end

/-! Every run ends (R185, R478). -/

section

variable (code g : Nat)

/-- A run with no status yet stands as it was or has ended at grain g with the code. -/
def RunEnds (r : Run) (t : State) : Prop :=
  ∃ q ∈ t.runs, q.id = r.id ∧ (q.endCode = none ∨ (q.endCode = some code ∧ q.endAt = some g))

/-- A run has ended at grain g with the code. -/
def RunEnded (r : Run) (t : State) : Prop := ∃ q ∈ t.runs, q.id = r.id ∧ q.endCode = some code ∧ q.endAt = some g

/-- What the end of the run of an engine makes of a run: its own, with no status or one of this end, ends; another stays. -/
theorem State.endRun_run {s : State} {q : Run} (hq : q ∈ s.runs)
    (hstatus : q.endCode = none ∨ (q.endCode = some code ∧ q.endAt = some g)) (e : Nat) :
    ∃ q' ∈ (s.endRun e code (some g)).runs, q'.id = q.id ∧ (q'.endCode = none ∨ (q'.endCode = some code ∧ q'.endAt = some g)) ∧
      ((q.endCode = some code ∧ q.endAt = some g) ∨ (s.eng e).run = some q.id → q'.endCode = some code ∧ q'.endAt = some g) := by
  unfold State.endRun
  split
  next id hid =>
    refine ⟨_, List.mem_map_of_mem hq, ?_⟩
    by_cases hrun : q.id = id
    · rcases hstatus with h | ⟨h, hat⟩
      · simp [hrun, h]
      · simp [hrun, h, hat]
    · simp only [if_neg hrun]
      refine ⟨trivial, hstatus, fun h => h.resolve_right fun he => hrun ?_⟩
      exact Option.some.inj (he.symm.trans hid)
  next hnone => exact ⟨q, hq, rfl, hstatus, fun h => h.resolve_right fun he => nomatch hnone.symm.trans he⟩

theorem State.endRuns_ended {r : Run} (l : List Run) (s : State) (h : RunEnds code g r s)
    (hr : RunEnded code g r s ∨ (r ∈ l ∧ (s.eng r.lowest).run = some r.id)) :
    RunEnded code g r (l.foldl (fun t r => t.endRun r.lowest code (some g)) s) := by
  induction l generalizing s with
  | nil => exact hr.resolve_right fun hm => nomatch hm.1
  | cons x l ih =>
    rw [List.foldl_cons]
    have hnow : RunEnded code g r s ∨ (s.eng x.lowest).run = some r.id → RunEnded code g r (s.endRun x.lowest code (some g)) := by
      rintro (⟨q, hq, hid, hstatus⟩ | hrun)
      · obtain ⟨q', hq', hid', -, hend⟩ := s.endRun_run code g hq (.inr hstatus) x.lowest
        exact ⟨q', hq', hid'.trans hid, hend (.inl hstatus)⟩
      · obtain ⟨q, hq, hid, hstatus⟩ := h
        obtain ⟨q', hq', hid', -, hend⟩ := s.endRun_run code g hq hstatus x.lowest
        exact ⟨q', hq', hid'.trans hid, hend (.inr (hid ▸ hrun))⟩
    refine ih _ ?_ ?_
    · obtain ⟨q, hq, hid, hstatus⟩ := h
      obtain ⟨q', hq', hid', hstatus', -⟩ := s.endRun_run code g hq hstatus x.lowest
      exact ⟨q', hq', hid'.trans hid, hstatus'⟩
    · rcases hr with hr | ⟨hmem, hrun⟩
      · exact .inl (hnow (.inl hr))
      · rcases List.mem_cons.mp hmem with rfl | hmem
        · exact .inl (hnow (.inr hrun))
        · exact .inr ⟨hmem, by rw [State.endRun_eng, hrun]⟩

theorem State.endRunsIf_ended {r : Run} {s : State} (hr : r ∈ s.runs) (hnone : r.endCode = none) (hrun : (s.eng r.lowest).run = some r.id) :
    RunEnded code g r (s.endRunsIf code (some g) (fun _ => true)) :=
  State.endRuns_ended code g _ s ⟨r, hr, rfl, .inl hnone⟩ (.inr ⟨List.mem_filter.mpr ⟨hr, rfl⟩, hrun⟩)

end

section

variable {g c : Nat} (h : s.hub.conflictAt = some c)
include h

theorem exec_conflictSafeState_off (hg : g ≠ c + 4096) : exec (.conflictSafeState g) s = .next s := by
  have harm : exec (.conflictSafeState g) s = execConflictSafeState g s := rfl
  rw [harm, execConflictSafeState, h]
  exact if_neg hg

theorem conflictSafeState_ends (hg : g = c + 4096) : ∃ t, exec (.conflictSafeState g) s = .next t ∧
    t.hub = { s.hub with
      conflictSafe := s.bit VYN_SYS_STAT VYN_SYS_STAT_CONFLICT || !s.bit VYN_SYS_STAT VYN_SYS_STAT_ALIGNED
      conflictAt := none } ∧
    (∀ p, p < 1024 → (t.pin p).held = true) ∧
    (∀ r ∈ s.runs, r.endCode = none → (s.eng r.lowest).run = some r.id →
      ∃ q ∈ t.runs, q.id = r.id ∧ q.endCode = some codeEpochConflict ∧ q.endAt = some g) := by
  have hpast : (!(!s.bit VYN_SYS_STAT VYN_SYS_STAT_CONFLICT && s.bit VYN_SYS_STAT VYN_SYS_STAT_ALIGNED)) =
      (s.bit VYN_SYS_STAT VYN_SYS_STAT_CONFLICT || !s.bit VYN_SYS_STAT VYN_SYS_STAT_ALIGNED) := by
    rw [Bool.not_and, Bool.not_not]
  have hexec : exec (.conflictSafeState g) s = .next ((((s.at g).updHub (fun h => { h with
      conflictSafe := s.bit VYN_SYS_STAT VYN_SYS_STAT_CONFLICT || !s.bit VYN_SYS_STAT VYN_SYS_STAT_ALIGNED
      conflictAt := none })).holdAll).endRunsIf codeEpochConflict (some g) (fun _ => true)) := by
    have harm : exec (.conflictSafeState g) s = execConflictSafeState g s := rfl
    rw [harm, execConflictSafeState, h, ← hpast]
    exact if_pos hg
  refine ⟨_, hexec, ?_, fun p hp => ?_, fun r hr hnone hrun => ?_⟩
  · rw [State.endRunsIf_hub, State.holdAll_hub, State.updHub_hub, State.at_hub]
  · rw [State.endRunsIf_pin, State.holdAll_held _ p hp]
  · refine State.endRunsIf_ended codeEpochConflict g ?_ hnone ?_
    · rw [State.holdAll_runs, State.updHub_runs, State.at_runs]
      exact hr
    · rw [State.holdAll_eng, State.updHub_eng, State.at_eng]
      exact hrun

end

/-! DOWEL (R482). -/

theorem AlignStep.frame {s t : State} (h : AlignStep s t) : t = { s with regs := t.regs, hub := t.hub } :=
  h.step.frame.trans (by rw [h.vyn, h.outs, h.flowStores, h.homeWaits])

theorem State.unalign_frame (s : State) : s.unalign = { s with regs := s.unalign.regs, hub := s.unalign.hub } :=
  s.unalign_alignStep.frame

theorem exec_dowel {y : Option PortNo} (h : ∀ p, y = some p → s.reaches VYN_CMD) (hnone : y = none → s.isMaster = false) :
    exec (.dowel y) s = .next s.dowelNow := by
  cases y with
  | some p =>
    have harm : exec (.dowel (some p)) s = execDowel (some p) s := rfl
    have hreach := h p rfl
    rw [harm, execDowel, State.reach_open _ _ _ _ hreach.1 hreach.2]
  | none =>
    have harm : exec (.dowel none) s = execDowel none s := rfl
    rw [harm, execDowel, hnone rfl]
    rfl

theorem dowel_unaligns {y : Option PortNo} (hexec : exec (.dowel y) s = .next s.dowelNow) (hdomain : s.domainOthers ≠ 0) :
    ∃ t, exec (.dowel y) s = .next t ∧ t.bit VYN_SYS_STAT VYN_SYS_STAT_ALIGNED = false ∧ t.hub = { s.hub with aligning := false } ∧
      t = { s with regs := t.regs, hub := t.hub } ∧ s.regsKept t [VYN_SYS_STAT] := by
  rw [State.dowelNow, if_neg hdomain] at hexec
  refine ⟨_, hexec, s.unalign_aligned, ?_, s.unalign_frame, s.unalign_alignStep.step.kept⟩
  unfold State.unalign
  rw [State.updHub_hub, State.setBit_hub]

/-! Alignment (R480). -/

theorem State.loadGt_kept (s : State) (new : Nat) : (s.loadGt new).gt = new ∧ (s.loadGt new).regs = s.regs ∧ (s.loadGt new).outs = s.outs ∧
    (s.loadGt new).engines = s.engines ∧ (s.loadGt new).mem = s.mem := ⟨rfl, rfl, rfl, rfl, rfl⟩

/-- What the correction of an offset leaves and changes. -/
structure Corrected (θ : Int) (u t : State) : Prop where
  done : θ = 0 → t.gt = u.gt ∧ t.bit VYN_SYS_STAT VYN_SYS_STAT_ALIGNED = true
  moved : θ ≠ 0 → t.gt = (((u.gt64 : Int) - θ.tdiv 64) % 2 ^ 64).toNat ∧
    t.bit VYN_SYS_STAT VYN_SYS_STAT_ALIGNED = u.bit VYN_SYS_STAT VYN_SYS_STAT_ALIGNED
  slewed : θ.tmod 64 ≠ 0 → t.hub.aligning = true ∧ t.hub.phaseErr = θ.tmod 64
  regs : ∀ a, a ≠ VYN_SYS_STAT → t.reg a = u.reg a
  outs : t.outs = u.outs
  engines : t.engines = u.engines
  mem : t.mem = u.mem

theorem State.alignBy_corrected (u : State) (θ : Int) : Corrected θ u (u.alignBy θ) := by
  unfold State.alignBy
  by_cases hθ : θ = 0
  · rw [if_pos hθ]
    have hstep := u.alignDone_alignStep
    obtain ⟨hgt, -, -, hengines, -⟩ := hstep.step.kept_rest
    have hmem : u.alignDone.mem = u.mem := by rw [hstep.frame]
    exact ⟨fun _ => ⟨hgt, u.alignDone_aligned⟩, fun h => absurd hθ h, fun h => absurd (by rw [hθ]; rfl) h,
      fun a ha => hstep.step.kept a (by simpa using ha), hstep.outs, hengines, hmem⟩
  · rw [if_neg hθ]
    obtain ⟨hgt, hregs, houts, hengines, hmem⟩ := u.loadGt_kept (((u.gt64 : Int) - θ.tdiv 64) % 2 ^ 64).toNat
    generalize u.loadGt (((u.gt64 : Int) - θ.tdiv 64) % 2 ^ 64).toNat = v at *
    have hreg : ∀ a, v.reg a = u.reg a := fun a => congrArg (tget regReset · a) hregs
    have hbit : v.bit VYN_SYS_STAT VYN_SYS_STAT_ALIGNED = u.bit VYN_SYS_STAT VYN_SYS_STAT_ALIGNED := State.bit_of_reg _ (hreg _)
    dsimp only
    split
    next hr => exact ⟨fun h => absurd h hθ, fun _ => ⟨hgt, hbit⟩, fun h => absurd hr h, fun a _ => hreg a, houts, hengines, hmem⟩
    next hr =>
      exact ⟨fun h => absurd h hθ, fun _ => ⟨hgt, (State.updHub_bit ..).trans hbit⟩, fun _ => ⟨rfl, rfl⟩,
        fun a _ => (State.updHub_reg ..).trans (hreg a), houts, hengines, hmem⟩

/-- The stamps' results stand in their registers and the far end is told of the delay. -/
def State.measured (s : State) (n g : Nat) (θ δ : Int) : State :=
  (((s.at g).setReg VYN_OFFSET (BitVec.ofInt 32 θ)).setReg (VYN_LINK_DELAY n) (BitVec.ofInt 32 δ)).send
    (.vyene "DELAY" (s.peerOf n) [s.fld (VYN_LINK n) VYN_LINK_PEER_LINK, δ.toNat])

theorem vynLinkDelay_ne (n : Nat) : VYN_OFFSET ≠ VYN_LINK_DELAY n ∨ 8 ≤ n := by
  by_cases h : n < 8
  · refine .inl ?_
    simp only [VYN_OFFSET, VYN_LINK_DELAY, hubBlk, ne_eq]
    omega
  · exact .inr (Nat.le_of_not_lt h)

theorem State.measured_reads (s : State) (n : LinkNo) (g : Nat) (θ δ : Int) :
    (s.measured n.val g θ δ).gt = max s.gt g ∧ (s.measured n.val g θ δ).reg VYN_OFFSET = BitVec.ofInt 32 θ ∧
    (s.measured n.val g θ δ).reg (VYN_LINK_DELAY n.val) = BitVec.ofInt 32 δ ∧
    (s.measured n.val g θ δ).outs = s.outs ++ [.vyene "DELAY" (s.peerOf n.val) [s.fld (VYN_LINK n.val) VYN_LINK_PEER_LINK, δ.toNat]] ∧
    (s.measured n.val g θ δ).engines = s.engines ∧ (s.measured n.val g θ δ).mem = s.mem ∧
    s.regsKept (s.measured n.val g θ δ) [VYN_OFFSET, VYN_LINK_DELAY n.val] := by
  have hne : VYN_OFFSET ≠ VYN_LINK_DELAY n.val := (vynLinkDelay_ne n.val).resolve_right (by omega)
  unfold State.measured
  refine ⟨rfl, ?_, ?_, rfl, rfl, rfl, fun a ha => ?_⟩
  · rw [State.send_reg, State.setReg_reg_ne _ _ _ _ hne, State.setReg_reg]
  · rw [State.send_reg, State.setReg_reg]
  · simp only [List.mem_cons, List.not_mem_nil, or_false, not_or] at ha
    rw [State.send_reg, State.setReg_reg_ne _ _ _ _ ha.2, State.setReg_reg_ne _ _ _ _ ha.1, State.at_reg]

theorem State.alignDone_frame (s : State) : s.alignDone = { s with regs := s.alignDone.regs, hub := s.alignDone.hub } :=
  s.alignDone_alignStep.frame

section

variable {n : LinkNo} {g : Nat} {pairs : List StampPair} {far : List Neighbour} (hlen : pairs.length = 16)
  (hup : s.bit (VYN_LINK n.val) VYN_LINK_UP = true) (hdomain : s.domainOthers ≠ 0)
include hlen hup hdomain

theorem exec_alignment : exec (.alignment n g pairs far) s =
    if s.bit VYN_SYS_STAT VYN_SYS_STAT_ALIGNED then
      .next (s.setReg (VYN_LINK_DELAY n.val) (BitVec.ofInt 32 (halfAverage (deltaSum pairs))))
    else if g % 64 ≠ 0 ∨ s.running then .next s
    else if s.isMaster then .next (s.at g).alignDone
    else if s.isParent n.val far ∧ s.hub.aligning = false then
      .next ((((((s.at g).setReg VYN_OFFSET (BitVec.ofInt 32 (halfAverage (thetaSum pairs)))).setReg (VYN_LINK_DELAY n.val)
        (BitVec.ofInt 32 (halfAverage (deltaSum pairs))))).send (.vyene "DELAY" (s.peerOf n.val)
          [s.fld (VYN_LINK n.val) VYN_LINK_PEER_LINK, (halfAverage (deltaSum pairs)).toNat])).alignBy (halfAverage (thetaSum pairs)))
    else .next s := by
  have hnot : ¬(pairs.length ≠ 16 ∨ s.bit (VYN_LINK n.val) VYN_LINK_UP = false ∨ s.domainOthers = 0) := by
    rw [hup]
    simp [hlen, hdomain]
  have harm : exec (.alignment n g pairs far) s = execAlignment n g pairs far s := rfl
  rw [harm, execAlignment]
  dsimp only
  rw [if_neg hnot]
  rfl

theorem alignment_delay (haligned : s.bit VYN_SYS_STAT VYN_SYS_STAT_ALIGNED = true) : ∃ t, exec (.alignment n g pairs far) s = .next t ∧
    t.reg (VYN_LINK_DELAY n.val) = BitVec.ofInt 32 (halfAverage (deltaSum pairs)) ∧ t = { s with regs := t.regs } ∧
    s.regsKept t [VYN_LINK_DELAY n.val] := by
  have hexec := exec_alignment (g := g) (far := far) hlen hup hdomain
  rw [if_pos haligned] at hexec
  exact ⟨_, hexec, s.setReg_reg _ _, rfl, fun m hm => s.setReg_reg_ne _ _ _ (by simpa using hm)⟩

variable (haligned : s.bit VYN_SYS_STAT VYN_SYS_STAT_ALIGNED = false) (hg : g % 64 = 0) (hrun : s.running = false)
include haligned hg hrun

theorem alignment_master (hmaster : s.isMaster = true) : ∃ t, exec (.alignment n g pairs far) s = .next t ∧
    t.bit VYN_SYS_STAT VYN_SYS_STAT_ALIGNED = true ∧ t = { s with gt := max s.gt g, regs := t.regs, hub := t.hub } ∧
    s.regsKept t [VYN_SYS_STAT] := by
  have hexec := exec_alignment (g := g) (far := far) hlen hup hdomain
  rw [haligned, if_neg (by decide), if_neg (by simp [hg, hrun]), if_pos hmaster] at hexec
  exact ⟨_, hexec, (s.at g).alignDone_aligned, (s.at g).alignDone_frame, (s.at g).alignDone_alignStep.step.kept⟩

theorem alignment_parent (hmaster : s.isMaster = false) (hidle : s.hub.aligning = false) (hparent : s.isParent n.val far = true) {θ δ : Int}
    (hθ : θ = halfAverage (thetaSum pairs)) (hδ : δ = halfAverage (deltaSum pairs)) : ∃ t, exec (.alignment n g pairs far) s = .next t ∧
      (θ = 0 → t.gt = max s.gt g ∧ t.bit VYN_SYS_STAT VYN_SYS_STAT_ALIGNED = true) ∧
      (θ ≠ 0 → t.gt = ((((max s.gt g % 2 ^ 64 : Nat) : Int) - θ.tdiv 64) % 2 ^ 64).toNat ∧
        t.bit VYN_SYS_STAT VYN_SYS_STAT_ALIGNED = false) ∧
      t.reg VYN_OFFSET = BitVec.ofInt 32 θ ∧ t.reg (VYN_LINK_DELAY n.val) = BitVec.ofInt 32 δ ∧
      t.outs = s.outs ++ [.vyene "DELAY" (s.peerOf n.val) [s.fld (VYN_LINK n.val) VYN_LINK_PEER_LINK, δ.toNat]] ∧
      (θ.tmod 64 ≠ 0 → t.hub.aligning = true ∧ t.hub.phaseErr = θ.tmod 64) ∧
      t.engines = s.engines ∧ t.mem = s.mem ∧ s.regsKept t [VYN_OFFSET, VYN_LINK_DELAY n.val, VYN_SYS_STAT] := by
  have hexec : exec (.alignment n g pairs far) s = .next ((s.measured n.val g θ δ).alignBy θ) := by
    rw [exec_alignment hlen hup hdomain, haligned, if_neg (by decide), if_neg (by simp [hg, hrun]), hmaster, if_neg (by decide),
      if_pos ⟨hparent, hidle⟩, ← hθ, ← hδ]
    rfl
  obtain ⟨hgt, hoffset, hdelay, houts, hengines, hmem, hkept⟩ := s.measured_reads n g θ δ
  have hdelayNe : VYN_LINK_DELAY n.val ≠ VYN_SYS_STAT := by
    simp only [VYN_LINK_DELAY, VYN_SYS_STAT, hubBlk, ne_eq]
    omega
  obtain ⟨hdone, hmoved, hslewed, hregs, touts, tengines, tmem⟩ := (s.measured n.val g θ δ).alignBy_corrected θ
  have hbit : (s.measured n.val g θ δ).bit VYN_SYS_STAT VYN_SYS_STAT_ALIGNED = false := by
    rw [State.bit_of_reg _ (hkept VYN_SYS_STAT _), haligned]
    simp only [List.mem_cons, List.not_mem_nil, or_false, not_or]
    exact ⟨by decide, hdelayNe.symm⟩
  rw [State.gt64, hgt] at hmoved
  refine ⟨_, hexec, fun h => ⟨(hdone h).1.trans hgt, (hdone h).2⟩, fun h => ⟨(hmoved h).1, (hmoved h).2.trans hbit⟩,
    (hregs _ (by decide)).trans hoffset, (hregs _ hdelayNe).trans hdelay, touts.trans houts, hslewed, tengines.trans hengines,
    tmem.trans hmem, fun a ha => ?_⟩
  simp only [List.mem_cons, List.not_mem_nil, or_false, not_or] at ha
  exact (hregs a ha.2.2).trans (hkept a (by simp [ha.1, ha.2.1]))

end

/-! The link term and the SYNC ports (R483, R484, R486). -/

theorem reportFills_reads (l : List Nat) (s : State) : l.foldl State.reportFill s = { s with runs := (l.foldl State.reportFill s).runs } ∧
    ∀ r ∈ (l.foldl State.reportFill s).runs, ∃ q ∈ s.runs, r = { q with reports := r.reports, lastReport := r.lastReport } := by
  induction l generalizing s with
  | nil => exact ⟨rfl, fun r hr => ⟨r, hr, rfl⟩⟩
  | cons c l ih =>
    obtain ⟨hframe, hruns⟩ := ih (s.reportFill c)
    rw [List.foldl_cons]
    refine ⟨?_, fun r hr => ?_⟩
    · have hone := s.reportFill_frame c
      rw [hone] at hframe
      rw [hone]
      exact hframe
    · obtain ⟨q, hq, hrq⟩ := hruns r hr
      obtain ⟨p, hp, hqp⟩ := s.reportFill_runs c q hq
      exact ⟨p, hp, by rw [hrq, hqp]⟩

theorem lAdopt_adopts {g : Nat} {links : List PkgLink} (hrun : s.running = false) (hdomain : s.domainOthers ≠ 0)
    (hknows : s.knowsLinks links = true) : ∃ t, exec (.lAdopt g links) s = .next t ∧ t.reg VYN_L = BitVec.ofNat 32 (linkTerm links) ∧
      t.vyn = { s.vyn with joined := false, links := links } ∧
      (∀ r ∈ t.runs, ∃ q ∈ s.runs, r = { q with reports := r.reports, lastReport := r.lastReport }) ∧
      t = { s with gt := max s.gt g, regs := t.regs, vyn := t.vyn, runs := t.runs } ∧ s.regsKept t [VYN_L] := by
  have hexec : exec (.lAdopt g links) s = .next ((List.range 64).foldl State.reportFill
      (((s.at g).setReg VYN_L (BitVec.ofNat 32 (linkTerm links))).updVyn (fun v => { v with joined := false, links := links }))) := by
    have harm : exec (.lAdopt g links) s = execLAdopt g links s := rfl
    rw [harm, execLAdopt, if_pos ⟨hrun, hdomain, hknows⟩]
  have hl := (s.at g).setReg_reg VYN_L (BitVec.ofNat 32 (linkTerm links))
  have hkept : (s.at g).regsKept ((s.at g).setReg VYN_L (BitVec.ofNat 32 (linkTerm links))) [VYN_L] := fun m hm =>
    (s.at g).setReg_reg_ne _ _ _ (by simpa using hm)
  obtain ⟨regs, hregs⟩ : ∃ r, (s.at g).setReg VYN_L (BitVec.ofNat 32 (linkTerm links)) = { s.at g with regs := r } := ⟨_, rfl⟩
  rw [hregs] at hexec hl hkept
  obtain ⟨hframe, hruns⟩ := reportFills_reads (List.range 64)
    (({ s.at g with regs := regs } : State).updVyn (fun v => { v with joined := false, links := links }))
  generalize (List.range 64).foldl State.reportFill
    (({ s.at g with regs := regs } : State).updVyn (fun v => { v with joined := false, links := links })) = t at hexec hframe hruns
  obtain ⟨runs, ht⟩ : ∃ r, t = { ({ s.at g with regs := regs } : State).updVyn (fun v => { v with joined := false, links := links }) with
    runs := r } := ⟨_, hframe⟩
  subst ht
  exact ⟨_, hexec, hl, rfl, hruns, rfl, hkept⟩

theorem exec_lAdopt_running {g : Nat} {links : List PkgLink} (hrun : s.running = true) : exec (.lAdopt g links) s = .next s := by
  have harm : exec (.lAdopt g links) s = execLAdopt g links s := rfl
  rw [harm, execLAdopt, if_neg (by simp [hrun])]

theorem exec_syncOutPulse {g : Nat} (hg : g % 2 ^ 24 = 0) :
    exec (.syncOutPulse g) s = .next { s with gt := max s.gt g, outs := s.outs ++ [.syncOut g] } := by
  have harm : exec (.syncOutPulse g) s = execSyncOutPulse g s := rfl
  rw [harm, execSyncOutPulse, if_pos hg]
  rfl

theorem State.setPair_pair (s : State) {lo hi v : Nat} (hne : lo ≠ hi) (hv : v < 2 ^ 64) : (s.setPair lo hi v).pair lo hi = v := by
  unfold State.pair State.setPair
  rw [State.setReg_reg_ne _ _ _ _ hne, State.setReg_reg, State.setReg_reg]
  simp only [loHalf, hiHalf, BitVec.toNat_ofNat]
  omega

theorem syncInEdge_stamps (g : Nat) : ∃ t, exec (.syncInEdge g) s = .next t ∧ t.pair VYN_SYNC_GT_LO VYN_SYNC_GT_HI = g % 2 ^ 64 ∧
    t = { s with gt := max s.gt g, regs := t.regs } ∧ s.regsKept t [VYN_SYNC_GT_LO, VYN_SYNC_GT_HI] := by
  have hpair := (s.at g).setPair_pair (lo := VYN_SYNC_GT_LO) (hi := VYN_SYNC_GT_HI) (v := g % 2 ^ 64) (by decide)
    (Nat.mod_lt _ (by decide))
  have hkept : (s.at g).regsKept ((s.at g).setPair VYN_SYNC_GT_LO VYN_SYNC_GT_HI (g % 2 ^ 64)) [VYN_SYNC_GT_LO, VYN_SYNC_GT_HI] :=
    ((VynStep.refl _ (s.at g)).setPair _ (by simp) (by simp)).kept
  have harm : exec (.syncInEdge g) s = execSyncInEdge g s := rfl
  rw [harm, execSyncInEdge]
  obtain ⟨regs, hregs⟩ := (s.at g).setPair_frame VYN_SYNC_GT_LO VYN_SYNC_GT_HI (g % 2 ^ 64)
  rw [hregs] at hpair hkept ⊢
  exact ⟨_, rfl, hpair, rfl, hkept⟩

/-- Settles O58: a conflict by what it leaves (`InConflict`), the end of the runs by `State.endRunsIf_ended`, alignment by `Corrected`. -/
theorem conflictsAndAlignment : Obligations.ConflictsAndAlignment := by
  unfold Obligations.ConflictsAndAlignment
  refine ⟨fun g claimant n e m s => ⟨fun h hup he hno hm => ?_, fun h => conflict_conflicts h g claimant,
    fun c h => ⟨conflictSafeState_ends h, exec_conflictSafeState_off h⟩⟩, fun n port g pairs far links s => ⟨fun y hy hhyp => ?_,
    fun hlen hup hdomain θ δ hθ hδ => ?_, lAdopt_adopts, exec_lAdopt_running, exec_syncOutPulse, syncInEdge_stamps g⟩⟩
  · obtain ⟨t, hexec, hin⟩ := leaseReceive_conflicts h g hup he hno hm
    exact ⟨t, hexec, hin.conflict, hin.master, congrArg HubSt.conflictAt hin.hub, hin.gt, hin.told, congrArg VynSt.electing hin.vyn, hin.pins,
      hin.runs, hin.engines, hin.flags⟩
  · have hexec : exec (.dowel y.1) s = .next s.dowelNow := by
      simp only [List.mem_cons, List.not_mem_nil, or_false] at hy
      rcases hy with rfl | rfl
      · exact exec_dowel (fun _ _ => hhyp) (fun h => nomatch h)
      · exact exec_dowel (fun _ h => nomatch h) (fun _ => hhyp)
    refine ⟨dowel_unaligns hexec, fun hdomain => ?_⟩
    rw [hexec, State.dowelNow, if_pos hdomain]
  · have htheta : θ = halfAverage (thetaSum pairs) := hθ
    have hdelta : δ = halfAverage (deltaSum pairs) := hδ
    refine ⟨fun ha => hdelta ▸ alignment_delay hlen hup hdomain ha, fun ha hg hrun => alignment_master hlen hup hdomain ha hg hrun,
      fun ha hg hrun hmaster hidle hparent => alignment_parent hlen hup hdomain ha hg hrun hmaster hidle hparent htheta hdelta⟩

end Sys2Proof.Machine
end

section
/-! Settles O54: service commands complete (R418, R423, R426, Table 15-4). -/

namespace Sys2Proof.Machine

variable {s t : State}

/-! The end of a service command. -/

/-- The registers of the end of a service command. -/
theorem State.svcShown_reads (s : State) (a : Nat) (good : Bool) (code : Nat) {t : State}
    (ht : t = ((s.setBit a MOD_SVC_STAT_BUSY false).setFld a MOD_SVC_STAT_CODE code).setBit a
      (if good then MOD_SVC_STAT_DONE else MOD_SVC_STAT_FAILED) true) :
    t.bit a MOD_SVC_STAT_BUSY = false ∧ t.bit a (if good then MOD_SVC_STAT_DONE else MOD_SVC_STAT_FAILED) = true ∧
    t.fld a MOD_SVC_STAT_CODE = code % 256 ∧ t.fld a MOD_SVC_STAT_BANK = s.fld a MOD_SVC_STAT_BANK ∧
    t.bit a MOD_SVC_STAT_DRAINED = s.bit a MOD_SVC_STAT_DRAINED ∧ s.regsOnly t ∧ s.regsKept t [a] := by
  have hfld : ∀ f ∈ [ MOD_SVC_STAT_DONE, MOD_SVC_STAT_FAILED], f.apart MOD_SVC_STAT_BUSY = true ∧ f.apart MOD_SVC_STAT_CODE = true ∧
      f.apart MOD_SVC_STAT_BANK = true ∧ f.apart MOD_SVC_STAT_DRAINED = true ∧ f.lo = f.hi ∧ f.hi < 32 := by decide
  obtain ⟨hbusy, hcode, hbank, hdrained, hone, hlow⟩ := hfld (if good then MOD_SVC_STAT_DONE else MOD_SVC_STAT_FAILED) (by cases good <;> simp)
  generalize (if good then MOD_SVC_STAT_DONE else MOD_SVC_STAT_FAILED) = f at *
  subst ht
  refine ⟨?_, State.setBit_bit _ _ _ _ hone hlow, ?_, ?_, ?_, ?_, ?_⟩
  · rw [State.setBit_bit_apart _ _ _ _ _ hbusy, State.setFld_bit_apart _ _ _ _ _ (by decide), State.setBit_bit _ _ _ _ rfl (by decide)]
  · rw [State.setBit_fld_apart _ _ _ _ _ hcode, State.setFld_fld _ _ _ _ (by decide) (by decide)]
    rfl
  · rw [State.setBit_fld_apart _ _ _ _ _ hbank, State.setFld_fld_apart _ _ _ _ _ (by decide), State.setBit_fld_apart _ _ _ _ _ (by decide)]
  · rw [State.setBit_bit_apart _ _ _ _ _ hdrained, State.setFld_bit_apart _ _ _ _ _ (by decide), State.setBit_bit_apart _ _ _ _ _ (by decide)]
  · exact State.regsOnly_trans (State.regsOnly_trans (s.setBit_regsOnly _ _ _) (State.setFld_regsOnly _ _ _ _)) (State.setBit_regsOnly _ _ _ _)
  · exact State.regsKept_trans (State.regsKept_trans (s.setBit_regsKept _ _ _) (State.setFld_regsKept _ _ _ (List.mem_singleton_self a)))
      (State.setBit_regsKept _ _ _ _)

/-- What the end of a service command leaves and writes. -/
structure SvcEnded (c : Nat) (good : Bool) (code : Nat) (s t : State) : Prop where
  busy : t.bit (MOD_SVC_STAT c) MOD_SVC_STAT_BUSY = false
  outcome : t.bit (MOD_SVC_STAT c) (if good then MOD_SVC_STAT_DONE else MOD_SVC_STAT_FAILED) = true
  code : t.fld (MOD_SVC_STAT c) MOD_SVC_STAT_CODE = code % 256
  svc : (t.cl c).svc = none
  others : ∀ k, k ≠ c → t.cl k = s.cl k
  bank : t.fld (MOD_SVC_STAT c) MOD_SVC_STAT_BANK = s.fld (MOD_SVC_STAT c) MOD_SVC_STAT_BANK
  drained : t.bit (MOD_SVC_STAT c) MOD_SVC_STAT_DRAINED = s.bit (MOD_SVC_STAT c) MOD_SVC_STAT_DRAINED
  frame : t = { s with regs := t.regs, clusters := t.clusters }
  kept : s.regsKept t [ MOD_SVC_STAT c]

theorem State.svcEnd_ended (s : State) (c : Nat) (good : Bool) (code : Nat) : SvcEnded c good code s (s.svcEnd c good code) := by
  obtain ⟨hbusy, houtcome, hcode, hbank, hdrained, hregs, hkept⟩ := s.svcShown_reads (MOD_SVC_STAT c) good code rfl
  unfold State.svcEnd
  obtain ⟨regs, ht⟩ : ∃ r, ((s.setBit (MOD_SVC_STAT c) MOD_SVC_STAT_BUSY false).setFld (MOD_SVC_STAT c) MOD_SVC_STAT_CODE code).setBit
    (MOD_SVC_STAT c) (if good then MOD_SVC_STAT_DONE else MOD_SVC_STAT_FAILED) true = { s with regs := r } := ⟨_, hregs⟩
  rw [ht] at hbusy houtcome hcode hbank hdrained hkept
  dsimp only
  rw [ht]
  exact ⟨hbusy, houtcome, hcode, congrArg ClSt.svc (State.updCl_cl _ _ _), fun k hk => State.updCl_cl_ne _ _ _ _ hk, hbank, hdrained, rfl, hkept⟩

theorem SvcEnded.done {c code : Nat} (h : SvcEnded c true code s t) : t.bit (MOD_SVC_STAT c) MOD_SVC_STAT_DONE = true := h.outcome

theorem SvcEnded.failed {c code : Nat} (h : SvcEnded c false code s t) : t.bit (MOD_SVC_STAT c) MOD_SVC_STAT_FAILED = true := h.outcome

/-! What the loading of stores leaves (R340). -/

/-- The state but for what the loading of the stores of a cluster writes. -/
def State.loadView (s : State) : State := { s with stores := [], storePoison := [], storeWritten := [], regs := [], clusters := [] }

section

variable (s)

theorem State.setStoreWord_loadView (a : Nat) (w : HBits) : (s.setStoreWord a w).loadView = s.loadView := by
  simp only [State.loadView, State.setStoreWord]

theorem State.clearStore_loadView (a n : Nat) : (s.clearStore a n).loadView = s.loadView := by
  simp only [State.loadView, State.clearStore]

theorem State.setReg_loadView (a : Nat) (w : Word) : (s.setReg a w).loadView = s.loadView := by
  simp only [State.loadView, State.setReg]

theorem State.updCl_loadView (c : Nat) (f : ClSt → ClSt) : (s.updCl c f).loadView = s.loadView := by
  obtain ⟨x, hx⟩ := s.updCl_frame c f
  rw [hx]
  rfl

theorem State.loadStore_loadView (b n k a cap : Nat) : (s.loadStore b n k a cap).loadView = s.loadView := by
  unfold State.loadStore
  rw [foldl_obs _ State.loadView (fun t i => t.setStoreWord_loadView _ _), s.clearStore_loadView]

theorem State.loadCstore_loadView (b c : Nat) : (s.loadCstore b c).loadView = s.loadView := by
  unfold State.loadCstore
  rw [State.updCl_loadView, foldl_obs _ State.loadView (fun t e => t.loadStore_loadView b 2 e _ _)]

theorem State.partnerWrite_loadView (a : Nat) (v : Word) (be : BitVec 4) : (s.partnerWrite a v be).loadView = s.loadView := by
  unfold State.partnerWrite
  split
  · rfl
  · exact s.setReg_loadView _ _

theorem State.loadPatch_loadView (b c : Nat) : (s.loadPatch b c).loadView = s.loadView := by
  unfold State.loadPatch
  dsimp only
  split
  · exact s.loadStore_loadView _ _ _ _ _
  · rw [foldl_obs _ State.loadView (fun t i => t.partnerWrite_loadView _ _ _), s.loadStore_loadView]

/-! A START that was held writes no store. -/

theorem State.setFld_stores (a : Nat) (f : Fld) (v : Nat) : (s.setFld a f v).stores = s.stores := rfl
theorem State.updCl_stores (c : Nat) (f : ClSt → ClSt) : (s.updCl c f).stores = s.stores := rfl
theorem State.updEng_stores (e : Nat) (f : EngSt → EngSt) : (s.updEng e f).stores = s.stores := rfl
theorem State.updPin_stores (p : Nat) (f : PinSt → PinSt) : (s.updPin p f).stores = s.stores := rfl
theorem State.updFlow_stores (n : Nat) (f : FlowSt → FlowSt) : (s.updFlow n f).stores = s.stores := rfl
theorem State.updRun_stores (id : Nat) (f : Run → Run) : (s.updRun id f).stores = s.stores := rfl

theorem State.violation_stores (cause port pkg inst addr : Nat) : (s.violation cause port pkg inst addr).stores = s.stores := by
  have e := congrArg State.stores (s.violation_portsOnly cause port pkg inst addr).rest
  exact e

theorem State.refuseStart_stores (port e code : Nat) : (s.refuseStart port e code).stores = s.stores := by
  unfold State.refuseStart State.endCode
  dsimp only
  split
  · rw [State.violation_stores, State.setFld_stores]
  · rw [State.setFld_stores]

theorem State.releaseRun_stores (r : Run) : (s.releaseRun r).stores = s.stores := by
  unfold State.releaseRun
  rw [State.setFld_stores, foldl_obs _ State.stores (fun t k => by rw [State.setFld_stores, State.setFld_stores])]

theorem State.leaveRun_stores (e : Nat) : (s.leaveRun e).stores = s.stores := by
  unfold State.leaveRun
  rw [State.setFld_stores, State.setFld_stores, State.setFld_stores, State.updEng_stores]

theorem State.refuseRun_stores (r : Run) (code : Nat) : (s.refuseRun r code).stores = s.stores := by
  have hleave : (r.engines.foldl (fun t e => (t.endCode e code).leaveRun e) (s.releaseRun r)).stores = s.stores := by
    rw [foldl_obs _ State.stores (fun t e => by rw [State.leaveRun_stores, State.endCode, State.setFld_stores]), s.releaseRun_stores]
  have hfill : ∀ t : State, (r.clusters.foldl (fun t c => t.updCl c (fun x => { x with
      fill := x.fill.filter (fun y => y.1 != r.id), fillShadow := x.fillShadow.filter (fun y => y.1 != r.id) })) t).stores = t.stores :=
    foldl_obs _ State.stores (fun t c => t.updCl_stores c _) _
  unfold State.refuseRun
  split
  · exact (State.updFlow_stores _ _ _).trans ((hfill _).trans hleave)
  · exact (hfill _).trans hleave

theorem State.refuseForming_stores (port : Nat) : (s.refuseForming port).stores = s.stores := by
  unfold State.refuseForming
  split
  next r _ => rw [foldl_obs _ State.stores (fun t e => t.violation_stores _ _ _ _ _), s.refuseRun_stores]
  next => rfl

theorem State.joinRun_stores (e id : Nat) : (s.joinRun e id).stores = s.stores := by
  unfold State.joinRun State.measureOnly
  rw [State.setFld_stores, foldl_obs _ State.stores (fun t u => t.updPin_stores _ _), State.updEng_stores]

theorem State.startNow_stores (port e : Nat) : (s.startNow port e).stores = s.stores := by
  unfold State.startNow
  split
  next code _ =>
    dsimp only
    split
    · exact s.refuseStart_stores port e code
    · exact (State.refuseForming_stores _ port).trans (s.refuseStart_stores port e code)
  next =>
    dsimp only
    rw [State.joinRun_stores, State.updRun_stores]
    split
    · rfl
    · rfl

theorem State.releaseStart_stores (e : Nat) : (s.releaseStart e).stores = s.stores := by
  unfold State.releaseStart
  split
  · split
    · rfl
    · exact State.startNow_stores _ _ _
  · rfl

theorem State.releaseStarts_stores (c : Nat) : (s.releaseStarts c).stores = s.stores := by
  unfold State.releaseStarts
  rw [foldl_obs _ State.stores (fun t e => t.releaseStart_stores e)]

end

/-! The commands complete (Table 15-4). -/

section

variable {c : ClNo} {v : Service} (h : (s.cl c.val).svc = some v)
include h

theorem exec_svcCommandDone_reload (g : Nat) (result : SvcEnd) (hop : v.op = 2) :
    exec (.svcCommandDone c g result []) s = .next (s.reloadDone c.val result) := by
  have harm : exec (.svcCommandDone c g result []) s = execSvcCommandDone c g result [] s := rfl
  rw [harm, execSvcCommandDone, h]
  dsimp only
  rw [hop]
  rfl

theorem exec_svcCommandDone_memtest (g : Nat) (result : SvcEnd) (hop : v.op = 3) :
    exec (.svcCommandDone c g result []) s = .next (s.memtestDone c.val []) := by
  have harm : exec (.svcCommandDone c g result []) s = execSvcCommandDone c g result [] s := rfl
  rw [harm, execSvcCommandDone, h]
  dsimp only
  rw [hop]
  rfl

theorem exec_svcCommandDone_activate (g : Nat) (result : SvcEnd) (hop : v.op = 4) :
    exec (.svcCommandDone c g result []) s = .next (s.activateDone c.val v result) := by
  have harm : exec (.svcCommandDone c g result []) s = execSvcCommandDone c g result [] s := rfl
  rw [harm, execSvcCommandDone, h]
  dsimp only
  rw [hop]
  rfl

theorem exec_svcCommandDone_recover (g : Nat) (result : SvcEnd) (hop : v.op = 5) :
    exec (.svcCommandDone c g result []) s = .next (if v.endAt = some g then (s.at g).recoverDone c.val v else s) := by
  have harm : exec (.svcCommandDone c g result []) s = execSvcCommandDone c g result [] s := rfl
  rw [harm, execSvcCommandDone, h]
  dsimp only
  rw [hop]
  rfl

end

section

variable {bank : Nat} {c : ClNo} {result : SvcEnd} (hbank : bank = s.fld (MOD_SVC_STAT c.val) MOD_SVC_STAT_BANK)
include hbank

theorem reloadDone_loads (hflash : result ≠ .flashError) (hdigest : result ≠ .digestMismatch) (h2 : s.secGood bank 2 = true)
    (h3 : s.secGood bank 3 = true) : s.reloadDone c.val result =
      (((s.loadCstore bank c.val).loadPatch bank c.val).releaseStarts c.val).svcEnd c.val true codeOk := by
  unfold State.reloadDone
  rw [← hbank, if_neg hflash, if_neg]
  rw [h2, h3]
  simp [hdigest]

theorem reloadDone_fails (hbad : result = .digestMismatch ∨ (result ≠ .flashError ∧ (s.secGood bank 2 = false ∨ s.secGood bank 3 = false))) :
    s.reloadDone c.val result = s.svcEnd c.val false codeViolation := by
  have hflash : result ≠ .flashError := by
    rcases hbad with h | h
    · rw [h]
      decide
    · exact h.1
  unfold State.reloadDone
  rw [← hbank, if_neg hflash, if_pos]
  rcases hbad with h | h
  · exact .inl h
  · exact .inr h.2

end

theorem State.loaded_kept (s : State) (b c : Nat) (h : ∀ e ∈ clEngines c, (s.eng e).heldStart = none) :
    (((s.loadCstore b c).loadPatch b c).releaseStarts c).mem = s.mem ∧ (((s.loadCstore b c).loadPatch b c).releaseStarts c).pins = s.pins ∧
    (((s.loadCstore b c).loadPatch b c).releaseStarts c).runs = s.runs := by
  have hview : ((s.loadCstore b c).loadPatch b c).loadView = s.loadView :=
    ((s.loadCstore b c).loadPatch_loadView b c).trans (s.loadCstore_loadView b c)
  generalize (s.loadCstore b c).loadPatch b c = u at hview ⊢
  have hmem := congrArg State.mem hview
  have hpins := congrArg State.pins hview
  have hruns := congrArg State.runs hview
  have heng := congrArg State.eng hview
  have hnone : u.releaseStarts c = u := u.releaseStarts_none fun e he => by
    have heq : u.eng e = s.eng e := congrFun heng e
    rw [heq]
    exact h e he
  rw [hnone]
  exact ⟨hmem, hpins, hruns⟩

/-! MEMTEST without a faulty row (R345). -/

/-- What the block tests of a cluster show at their end. -/
def State.memtestShown (s : State) (c : Nat) : State :=
  (s.setBit (MEM_CL_MEMTEST c) MEM_CL_MEMTEST_BUSY false).setFld (MEM_CL_MEMTEST c) MEM_CL_MEMTEST_BLOCKS 1024

theorem State.memtestDone_eq (s : State) (c : Nat) : s.memtestDone c [] = (s.memtestShown c).svcEnd c true codeOk := rfl

theorem memtest_ne (c : Nat) : MEM_CL_MEMTEST c ≠ MOD_SVC_STAT c := by
  simp only [MEM_CL_MEMTEST, MOD_SVC_STAT, clBlk, ne_eq]
  omega

theorem State.memtestShown_reads (s : State) (c : Nat) : (s.memtestShown c).bit (MEM_CL_MEMTEST c) MEM_CL_MEMTEST_BUSY = false ∧
    (s.memtestShown c).fld (MEM_CL_MEMTEST c) MEM_CL_MEMTEST_BLOCKS = 1024 ∧ s.regsOnly (s.memtestShown c) ∧
    s.regsKept (s.memtestShown c) [MEM_CL_MEMTEST c] := by
  unfold State.memtestShown
  refine ⟨?_, State.setFld_fld _ _ _ _ (by decide) (by decide), State.regsOnly_trans (s.setBit_regsOnly _ _ _) (State.setFld_regsOnly _ _ _ _),
    State.regsKept_trans (s.setBit_regsKept _ _ _) (State.setFld_regsKept _ _ _ (List.mem_singleton_self _))⟩
  rw [State.setFld_bit_apart _ _ _ _ _ (by decide), State.setBit_bit _ _ _ _ rfl (by decide)]

theorem SvcEnded.keeps {c code : Nat} {good : Bool} (h : SvcEnded c good code s t) {a : Nat} (ha : a ≠ MOD_SVC_STAT c) : t.reg a = s.reg a :=
  h.kept a (by simpa using ha)

/-- The end of a command after registers alone have changed. -/
theorem SvcEnded.after {c code : Nat} {good : Bool} {u : State} {l : List Nat} (h : SvcEnded c good code u t) (hregs : s.regsOnly u)
    (hkept : s.regsKept u l) : t = { s with regs := t.regs, clusters := t.clusters } ∧ s.regsKept t (MOD_SVC_STAT c :: l) := by
  obtain ⟨regs, hu⟩ : ∃ r, u = { s with regs := r } := ⟨_, hregs⟩
  have hframe := h.frame
  rw [hu] at hframe
  refine ⟨hframe, fun a ha => ?_⟩
  rw [List.mem_cons, not_or] at ha
  exact (h.keeps ha.1).trans (hkept a ha.2)

/-! ACTIVATE (R443). -/

theorem State.activateParts_bank {b c : Nat} {u : State} (h : s.activateParts b c = (true, u)) :
    u.fld (MOD_SVC_STAT c) MOD_SVC_STAT_BANK = b % 2 := by
  unfold State.activateParts at h
  split at h
  next l _ =>
    dsimp only at h
    split at h
    next =>
      rw [← (Prod.mk.inj h).2]
      exact State.setFld_fld _ _ _ _ (by decide) (by decide)
    next hr =>
      rw [h] at hr
      exact absurd rfl hr
  next => exact nomatch (Prod.mk.inj h).1

theorem State.activateCluster_bank {b c : Nat} {u : State} (h : s.activateCluster b c = (true, u)) :
    u.fld (MOD_SVC_STAT c) MOD_SVC_STAT_BANK = b % 2 := by
  unfold State.activateCluster at h
  split at h
  · exact State.activateParts_bank h
  · exact nomatch (Prod.mk.inj h).1

section

variable {bank : Nat} {c : ClNo} {v : Service} {result : SvcEnd} (hbank : bank = s.fld (MOD_SVC_STAT c.val) MOD_SVC_STAT_BANK)
  (hflash : result ≠ .flashError)
include hbank hflash

theorem activateDone_of_cluster (hspoilt : v.spoilt = []) (hdigest : result ≠ .digestMismatch) {b : Bool} {u : State}
    (h : s.activateCluster (otherBank bank) c.val = (b, u)) :
    s.activateDone c.val v result = u.svcEnd c.val b (if b then codeOk else codeViolation) := by
  unfold State.activateDone
  rw [← hbank, if_neg hflash]
  dsimp only
  rw [if_neg (not_not.mpr hspoilt), if_neg hdigest, h]

theorem activateDone_spoilt (hspoilt : v.spoilt ≠ []) : ∃ good code t, s.activateDone c.val v result = t ∧ t.flash = s.flash ∧
    ∃ u, SvcEnded c.val good code u t := by
  unfold State.activateDone
  rw [← hbank, if_neg hflash]
  dsimp only
  rw [if_pos hspoilt]
  have hkeep : (s.activateSpoilt (otherBank bank) c.val v.spoilt).2.flash = s.flash := rfl
  generalize s.activateSpoilt (otherBank bank) c.val v.spoilt = r at hkeep
  have hend := r.2.svcEnd_ended c.val r.1 (if r.1 = true then codeOk else codeViolation)
  exact ⟨_, _, _, rfl, by rw [hend.frame]; exact hkeep, r.2, hend⟩

omit hbank hflash in
theorem activateDone_digest (hspoilt : v.spoilt = []) (hdigest : result = .digestMismatch) :
    s.activateDone c.val v result = s.svcEnd c.val false codeViolation := by
  unfold State.activateDone
  rw [hdigest, if_neg (by decide)]
  dsimp only
  rw [if_neg (not_not.mpr hspoilt), if_pos rfl]
  rfl

end

/-! RECOVER (R423). -/

theorem modReq_ne_modSvcStat (c : Nat) : MOD_REQ c ≠ MOD_SVC_STAT c := by
  simp only [ MOD_REQ, MOD_SVC_STAT, ne_eq]
  omega

theorem adcCtrl_ne (c : Nat) : ADC_CTRL c ≠ MOD_SVC_STAT c ∧ ADC_CTRL c ≠ MOD_REQ c := by
  simp only [ADC_CTRL, MOD_SVC_STAT, MOD_REQ, clBlk, ne_eq]
  omega

theorem State.setBoth_frame_eq (s : State) (a : Nat) (w : Word) :
    s.setBoth a w = { s with regs := (s.setBoth a w).regs, force := (s.setBoth a w).force } := by
  rw [State.setBoth, State.setForce, State.setReg]

theorem State.lowPowerBack_reads (s : State) (c : Nat) (v : Service) :
    (s.lowPowerBack c v).fld (ADC_CTRL c) ADC_CTRL_LOWPWR = v.oldLowPower % 2 ^ ADC_CTRL_LOWPWR.width ∧
    s.lowPowerBack c v = { s with regs := (s.lowPowerBack c v).regs, force := (s.lowPowerBack c v).force } ∧
    s.regsKept (s.lowPowerBack c v) [ADC_CTRL c] := by
  unfold State.lowPowerBack
  refine ⟨?_, State.setBoth_frame_eq _ _ _, fun m hm => State.setBoth_reg_ne _ _ _ _ (by simpa using hm)⟩
  rw [State.setBoth_fld, getF_setF _ _ _ (by decide) (by decide)]

/-- A cluster that recovers resumes its modes. -/
def State.resumed (s : State) (c : Nat) (v : Service) : State :=
  ((s.lowPowerBack c v).modReqNow c v.resume).setBit (MOD_SVC_STAT c) MOD_SVC_STAT_DRAINED false

theorem State.modReqNow_frame (s : State) (c w : Nat) : s.modReqNow c w =
    { s with regs := (s.modReqNow c w).regs, force := (s.modReqNow c w).force, inFlight := (s.modReqNow c w).inFlight } := by
  unfold State.modReqNow
  exact (State.setBoth_frame_eq _ _ _).trans rfl

theorem State.resume_frame {u w : State} (hu : u = { s with regs := u.regs, force := u.force })
    (hw : w = { u with regs := w.regs, force := w.force, inFlight := w.inFlight }) (ht : w.regsOnly t) :
    t = { s with regs := t.regs, force := t.force, inFlight := t.inFlight } := by
  obtain ⟨r, f, hu⟩ : ∃ r f, u = { s with regs := r, force := f } := ⟨_, _, hu⟩
  subst hu
  obtain ⟨r, f, i, hw⟩ : ∃ r f i, w = { s with regs := r, force := f, inFlight := i } := ⟨_, _, _, hw⟩
  subst hw
  obtain ⟨r', ht⟩ : ∃ r', t = { s with regs := r', force := f, inFlight := i } := ⟨_, ht⟩
  subst ht
  rfl

theorem State.resume_reads {u w : State} {c x : Nat} (hreg : ∀ m, m ≠ MOD_REQ c → w.reg m = u.reg m)
    (hkept : ∀ m, m ≠ ADC_CTRL c → u.reg m = s.reg m) (ht : t = w.setBit (MOD_SVC_STAT c) MOD_SVC_STAT_DRAINED false)
    (hlow : u.fld (ADC_CTRL c) ADC_CTRL_LOWPWR = x) :
    t.reg (MOD_REQ c) = w.reg (MOD_REQ c) ∧ t.inForce (MOD_REQ c) = w.inForce (MOD_REQ c) ∧
    t.bit (MOD_SVC_STAT c) MOD_SVC_STAT_DRAINED = false ∧ t.fld (ADC_CTRL c) ADC_CTRL_LOWPWR = x ∧ w.regsOnly t ∧
    s.regsKept t [ MOD_SVC_STAT c, MOD_REQ c, ADC_CTRL c] := by
  subst ht
  refine ⟨State.setBit_reg_ne _ _ _ _ _ (modReq_ne_modSvcStat c), State.setBit_inForce _ _ _ _ _,
    State.setBit_bit _ _ _ _ rfl (by decide), ?_, State.setBit_regsOnly _ _ _ _, fun m hm => ?_⟩
  · rw [State.setBit_fld_ne _ _ _ _ _ _ (adcCtrl_ne c).1, State.fld_of_reg _ (hreg _ (adcCtrl_ne c).2), hlow]
  · simp only [List.mem_cons, List.not_mem_nil, or_false, not_or] at hm
    rw [State.setBit_reg_ne _ _ _ _ _ hm.1, hreg m hm.2.1, hkept m hm.2.2]

theorem State.modReqNow_reg (s : State) (c w : Nat) : (s.modReqNow c w).reg (MOD_REQ c) = BitVec.ofNat 32 w := by
  unfold State.modReqNow
  exact State.setBoth_reg _ _ _

theorem State.modReqNow_reg_ne (s : State) (c w : Nat) {m : Nat} (hm : m ≠ MOD_REQ c) : (s.modReqNow c w).reg m = s.reg m := by
  unfold State.modReqNow
  exact State.setBoth_reg_ne _ _ _ _ hm

theorem State.resumed_reads (s : State) (c : Nat) (v : Service) :
    (s.resumed c v).reg (MOD_REQ c) = BitVec.ofNat 32 v.resume ∧ (s.resumed c v).inForce (MOD_REQ c) = BitVec.ofNat 32 v.resume ∧
    (s.resumed c v).bit (MOD_SVC_STAT c) MOD_SVC_STAT_DRAINED = false ∧
    (s.resumed c v).fld (ADC_CTRL c) ADC_CTRL_LOWPWR = v.oldLowPower % 2 ^ ADC_CTRL_LOWPWR.width ∧
    s.resumed c v = { s with regs := (s.resumed c v).regs, force := (s.resumed c v).force, inFlight := (s.resumed c v).inFlight } ∧
    s.regsKept (s.resumed c v) [ MOD_SVC_STAT c, MOD_REQ c, ADC_CTRL c] := by
  obtain ⟨hlow, hframe, hkept⟩ := s.lowPowerBack_reads c v
  obtain ⟨hreq, hforce, hdrained, hlp, hregs, hk⟩ := State.resume_reads (s := s) (fun m hm => State.modReqNow_reg_ne _ _ _ hm)
    (fun m hm => hkept m (by simpa using hm)) (State.resumed.eq_1 s c v) hlow
  exact ⟨hreq.trans (State.modReqNow_reg _ _ _), hforce.trans (State.modReqNow_inForce _ _ _), hdrained, hlp,
    State.resume_frame hframe (State.modReqNow_frame _ _ _) hregs, hk⟩

theorem SvcEnded.stat {c code : Nat} {good : Bool} (h : SvcEnded c good code s t) {a : Nat} (ha : a ≠ MOD_SVC_STAT c) (f : Fld) :
    t.fld a f = s.fld a f := State.fld_of_reg f (h.keeps ha)

section

variable {c : Nat} {v : Service} {g : Nat}

theorem recoverDone_resumes (hfail : v.calFail = none) (hdc : v.doneDc = true) (ht : v.doneT = true) :
    (s.at g).recoverDone c v = ((s.at g).resumed c v).svcEnd c true codeOk := by
  unfold State.recoverDone
  rw [hfail]
  dsimp only
  rw [if_pos ⟨hdc, ht⟩]
  rfl

theorem recoverDone_fails {code : Nat} (hfail : v.calFail = some code) :
    (s.at g).recoverDone c v = ((s.at g).lowPowerBack c v).svcEnd c false code := by
  unfold State.recoverDone
  rw [hfail]

theorem SvcEnded.after_resume {u : State} {good : Bool} {code : Nat} (h : SvcEnded c good code u t)
    (hu : u = { s.at g with regs := u.regs, force := u.force, inFlight := u.inFlight }) :
    t = { s with gt := max s.gt g, regs := t.regs, force := t.force, inFlight := t.inFlight, clusters := t.clusters } := by
  obtain ⟨r, f, i, hu⟩ : ∃ r f i, u = { s.at g with regs := r, force := f, inFlight := i } := ⟨_, _, _, hu⟩
  subst hu
  obtain ⟨r', cls, ht⟩ : ∃ r' cls, t = { s.at g with regs := r', force := f, inFlight := i, clusters := cls } := ⟨_, _, h.frame⟩
  subst ht
  rfl

theorem SvcEnded.after_low {u : State} {good : Bool} {code : Nat} (h : SvcEnded c good code u t)
    (hu : u = { s.at g with regs := u.regs, force := u.force }) :
    t = { s with gt := max s.gt g, regs := t.regs, force := t.force, clusters := t.clusters } := by
  obtain ⟨r, f, hu⟩ : ∃ r f, u = { s.at g with regs := r, force := f } := ⟨_, _, hu⟩
  subst hu
  obtain ⟨r', cls, ht⟩ : ∃ r' cls, t = { s.at g with regs := r', force := f, clusters := cls } := ⟨_, _, h.frame⟩
  subst ht
  rfl

end

/-! The obligation. -/

theorem SvcEnded.rest {c code : Nat} {good : Bool} (h : SvcEnded c good code s t) :
    t.stores = s.stores ∧ t.mem = s.mem ∧ t.pins = s.pins ∧ t.runs = s.runs ∧ t.inForce = s.inForce := by
  obtain ⟨regs, cls, ht⟩ : ∃ r x, t = { s with regs := r, clusters := x } := ⟨_, _, h.frame⟩
  subst ht
  exact ⟨rfl, rfl, rfl, rfl, rfl⟩

theorem SvcEnded.keptAll {c code : Nat} {good : Bool} {u : State} {l : List Nat} (h : SvcEnded c good code u t)
    (hkept : s.regsKept u l) (hl : MOD_SVC_STAT c ∈ l) : s.regsKept t l := fun a ha =>
  (h.keeps fun e => ha (by rwa [e])).trans (hkept a ha)

theorem State.lowPowerBack_others (s : State) (c : Nat) (v : Service) (k : Nat) : (s.lowPowerBack c v).cl k = s.cl k :=
  s.setBoth_cl _ _ _

theorem modSvcStat_notMem (c : Nat) : MOD_SVC_STAT c ∉ [ADC_CTRL c] := by
  rw [List.mem_singleton]
  exact (adcCtrl_ne c).1.symm

theorem otherBank_mod (b : Nat) : otherBank b % 2 = otherBank b := by
  unfold otherBank
  omega

/-- Settles O54: each of the commands ends by `State.svcEnd`, from the state that its work leaves. -/
theorem serviceCommandsComplete : Obligations.ServiceCommandsComplete := by
  unfold Obligations.ServiceCommandsComplete
  intro c g result v s hsvc a bank ha hbank good hgood bad hbad
  subst ha hgood hbad
  refine ⟨fun hop => ⟨fun hflash hdigest h2 h3 => ?_, fun hfail => ?_⟩, fun hop => ?_, fun hop => ⟨fun u hspoilt hflash hdigest hact => ?_,
    fun u hspoilt hflash hdigest hact => ?_, fun hspoilt hdigest => ?_, fun hspoilt hflash => ?_⟩,
    fun hop hend' => ⟨fun hfail hdc ht => ?_, fun code hfail => ?_⟩, fun hop hend => ?_⟩
  · refine ⟨_, (exec_svcCommandDone_reload hsvc g result hop).trans (congrArg _ (reloadDone_loads hbank hflash hdigest h2 h3)), ?_⟩
    have hend := (((s.loadCstore bank c.val).loadPatch bank c.val).releaseStarts c.val).svcEnd_ended c.val true codeOk
    have hstores := ((s.loadCstore bank c.val).loadPatch bank c.val).releaseStarts_stores c.val
    obtain ⟨hs, hmem, hpins, hruns, -⟩ := hend.rest
    refine ⟨⟨hend.busy, hend.done, hend.code, hend.svc⟩, hs.trans hstores, fun hheld => ?_⟩
    obtain ⟨kmem, kpins, kruns⟩ := s.loaded_kept bank c.val hheld
    exact ⟨hmem.trans kmem, hpins.trans kpins, hruns.trans kruns⟩
  · have hend := s.svcEnd_ended c.val false codeViolation
    exact ⟨_, (exec_svcCommandDone_reload hsvc g result hop).trans (congrArg _ (reloadDone_fails hbank hfail)),
      ⟨hend.busy, hend.failed, hend.code, hend.svc, hend.others⟩, hend.frame, hend.kept⟩
  · obtain ⟨hbusy, hblocks, hregs, hkept⟩ := s.memtestShown_reads c.val
    have hend := (s.memtestShown c.val).svcEnd_ended c.val true codeOk
    refine ⟨_, (exec_svcCommandDone_memtest hsvc g result hop).trans (congrArg _ (s.memtestDone_eq c.val)),
      ⟨hend.busy, hend.done, hend.code, hend.svc⟩, ?_, ?_, hend.after hregs hkept⟩
    · rw [State.bit_of_reg _ (hend.keeps (memtest_ne _)), hbusy]
    · rw [State.fld_of_reg _ (hend.keeps (memtest_ne _)), hblocks]
  · have hend := u.svcEnd_ended c.val true codeOk
    refine ⟨_, (exec_svcCommandDone_activate hsvc g result hop).trans (congrArg _ (activateDone_of_cluster hbank hflash hspoilt hdigest hact)),
      ⟨hend.busy, hend.done, hend.code, hend.svc⟩, ?_, hend.frame, hend.kept⟩
    exact hend.bank.trans ((State.activateCluster_bank hact).trans (otherBank_mod bank))
  · have hend := u.svcEnd_ended c.val false codeViolation
    exact ⟨_, (exec_svcCommandDone_activate hsvc g result hop).trans (congrArg _ (activateDone_of_cluster hbank hflash hspoilt hdigest hact)),
      hend.busy, hend.failed, hend.code, hend.svc, hend.others, hend.frame, hend.kept⟩
  · have hend := s.svcEnd_ended c.val false codeViolation
    exact ⟨_, (exec_svcCommandDone_activate hsvc g result hop).trans (congrArg _ (activateDone_digest hspoilt hdigest)),
      ⟨hend.busy, hend.failed, hend.code, hend.svc, hend.others⟩, hend.frame, hend.kept⟩
  · obtain ⟨ok, code, t, ht, hflash', u, hend⟩ := activateDone_spoilt hbank hflash hspoilt
    exact ⟨t, (exec_svcCommandDone_activate hsvc g result hop).trans (congrArg _ ht), hend.busy, hend.svc, hflash'⟩
  · obtain ⟨hreq, hforce, hdrained, hlow, hframe, hkept⟩ := (s.at g).resumed_reads c.val v
    have hend := ((s.at g).resumed c.val v).svcEnd_ended c.val true codeOk
    refine ⟨_, (exec_svcCommandDone_recover hsvc g result hop).trans (congrArg _ ((if_pos hend').trans (recoverDone_resumes hfail hdc ht))),
      ⟨hend.busy, hend.done, hend.code, hend.svc⟩, (hend.keeps (modReq_ne_modSvcStat _)).trans hreq, (congrFun hend.rest.2.2.2.2 _).trans hforce,
      hend.drained.trans hdrained,
      (hend.stat (adcCtrl_ne _).1 _).trans hlow, hend.after_resume hframe, hend.keptAll hkept (by simp)⟩
  · obtain ⟨hlow, hframe, hkept⟩ := (s.at g).lowPowerBack_reads c.val v
    have hend := ((s.at g).lowPowerBack c.val v).svcEnd_ended c.val false code
    exact ⟨_, (exec_svcCommandDone_recover hsvc g result hop).trans (congrArg _ ((if_pos hend').trans (recoverDone_fails hfail))),
      ⟨hend.busy, hend.failed, hend.code, hend.svc, fun k hk => (hend.others k hk).trans ((s.at g).lowPowerBack_others c.val v k)⟩,
      hend.drained.trans (State.bit_of_reg _ (hkept _ (modSvcStat_notMem _))), hend.after_low hframe,
      hend.keptAll (fun a ha => hkept a fun e => ha (List.mem_cons_of_mem _ e)) (List.mem_cons_self)⟩
  · exact (exec_svcCommandDone_recover hsvc g result hop).trans (congrArg _ (if_neg hend))

end Sys2Proof.Machine
end

section
/-! SUPPORT. The links of VYENE, the present and reserved IDs, and the messages of identities (R465-R473). -/

namespace Sys2Proof.Machine

variable {s t : State}

/-! Masks. -/

theorem nbit_foldl_setNBit (b : Bool) (l : List Nat) (m j : Nat) :
    nbit (l.foldl (fun m n => setNBit m n b) m) j = if j ∈ l then b else nbit m j := by
  induction l generalizing m with
  | nil => simp
  | cons n l ih =>
    rw [List.foldl_cons, ih, nbit_setNBit]
    by_cases hj : j ∈ l
    · simp [hj]
    · by_cases hn : j = n
      · simp [hn]
      · simp [hj, hn]

theorem nbit_maskOf (l : List Nat) (j : Nat) : nbit (maskOf l) j = decide (j ∈ l) := by
  rw [maskOf, nbit_foldl_setNBit, nbit_eq_testBit, Nat.zero_testBit]
  by_cases h : j ∈ l
  · simp [h]
  · simp [h]

theorem nat_ext_nbit {m n : Nat} (h : ∀ j, nbit m j = nbit n j) : m = n :=
  Nat.eq_of_testBit_eq fun j => by rw [← nbit_eq_testBit, ← nbit_eq_testBit, h j]

/-! Where the registers of a link are. -/

theorem vynLink_ne (n : LinkNo) : VYN_LINK n.val ∉ [VYN_TAG_LO, VYN_TAG_HI, HUB_SYS_IDENT, VYN_IDS, VYN_SYS_STAT, VYN_ROLES] := by
  have hn := n.isLt
  simp only [List.mem_cons, List.not_mem_nil, or_false, VYN_LINK, hubBlk, VYN_TAG_LO, VYN_TAG_HI, HUB_SYS_IDENT, VYN_IDS, VYN_SYS_STAT,
    VYN_ROLES]
  omega

theorem vynLinkErr_ne (n : LinkNo) : VYN_LINK_ERR n.val ∉ [VYN_TAG_LO, VYN_TAG_HI, HUB_SYS_IDENT, VYN_IDS, VYN_SYS_STAT, VYN_ROLES] := by
  have hn := n.isLt
  simp only [List.mem_cons, List.not_mem_nil, or_false, VYN_LINK_ERR, hubBlk, VYN_TAG_LO, VYN_TAG_HI, HUB_SYS_IDENT, VYN_IDS, VYN_SYS_STAT,
    VYN_ROLES]
  omega

theorem vynLink_ne_vynLinkErr (n k : LinkNo) : VYN_LINK n.val ≠ VYN_LINK_ERR k.val := by
  simp only [VYN_LINK, VYN_LINK_ERR, hubBlk]
  omega

theorem vynLink_inj {n k : Nat} (h : VYN_LINK n = VYN_LINK k) : n = k := by
  simp only [VYN_LINK] at h
  omega

/-! What the system registers say, kept by a step that does not write them. -/

/-- The registers that say who this package is in its system, but for the IDs and the alignment. -/
def selfRegs : List Nat := [VYN_TAG_LO, VYN_TAG_HI, HUB_SYS_IDENT, VYN_ROLES]

theorem State.tag_of_kept {l : List Nat} (h : s.regsKept t l) (hl : ∀ a ∈ selfRegs, a ∉ l) : t.tag = s.tag := by
  unfold State.tag State.pair
  rw [h _ (hl VYN_TAG_LO (by decide)), h _ (hl VYN_TAG_HI (by decide))]

theorem State.pkgId_of_kept {l : List Nat} (h : s.regsKept t l) (hl : ∀ a ∈ selfRegs, a ∉ l) : t.pkgId = s.pkgId :=
  State.fld_of_reg _ (h _ (hl HUB_SYS_IDENT (by decide)))

theorem State.eligible_of_kept {l : List Nat} (h : s.regsKept t l) (hl : ∀ a ∈ selfRegs, a ∉ l) : t.eligible = s.eligible :=
  State.bit_of_reg _ (h _ (hl VYN_ROLES (by decide)))

theorem State.priority_of_kept {l : List Nat} (h : s.regsKept t l) (hl : ∀ a ∈ selfRegs, a ∉ l) : t.priority = s.priority :=
  State.fld_of_reg _ (h _ (hl VYN_ROLES (by decide)))

theorem State.present_of_reg (h : t.reg VYN_IDS = s.reg VYN_IDS) : t.present = s.present :=
  funext fun k => congrArg (nbit · k) (State.fld_of_reg VYN_IDS_PRESENT h)

/-! The IDs (R471). -/

theorem VynStep.setPresent {l : List Nat} (h : VynStep l s t) (present reserved : Nat) (hi : VYN_IDS ∈ l) (hs : VYN_SYS_STAT ∈ l) :
    VynStep l s (t.setPresent present reserved) := by
  unfold State.setPresent
  exact ((h.setFld _ _ hi).setFld _ _ hi).setFld _ _ hs

theorem State.setPresent_ids (s : State) (present reserved : Nat) : (s.setPresent present reserved).presentIds = present % 2 ^ 16 ∧
    (s.setPresent present reserved).reservedIds = reserved % 2 ^ 16 := by
  unfold State.setPresent State.presentIds State.reservedIds
  dsimp only
  refine ⟨?_, ?_⟩
  · rw [State.setFld_fld_ne _ _ _ _ _ _ (by decide), State.setFld_fld_apart _ _ _ _ _ (by decide), State.setFld_fld _ _ _ _ (by decide) (by decide)]
    rfl
  · rw [State.setFld_fld_ne _ _ _ _ _ _ (by decide), State.setFld_fld _ _ _ _ (by decide) (by decide)]
    rfl

theorem State.setPresent_present (s : State) (present reserved : Nat) {k : Nat} (hk : k < 16) :
    (s.setPresent present reserved).present k = nbit present k ∧ nbit (s.setPresent present reserved).reservedIds k = nbit reserved k := by
  obtain ⟨hp, hr⟩ := s.setPresent_ids present reserved
  refine ⟨?_, ?_⟩
  · have e : (s.setPresent present reserved).present k = nbit (s.setPresent present reserved).presentIds k := rfl
    rw [e, hp, nbit_mod_two_pow _ hk]
  · rw [hr, nbit_mod_two_pow _ hk]

theorem State.setPresent_vyn (s : State) (present reserved : Nat) : (s.setPresent present reserved).vyn = s.vyn := by
  unfold State.setPresent
  simp only [State.setFld_vyn]

theorem State.setPresent_outs (s : State) (present reserved : Nat) : (s.setPresent present reserved).outs = s.outs := by
  unfold State.setPresent
  simp only [State.setFld_outs]

theorem State.setPresent_fld_apart (s : State) (present reserved : Nat) (f : Fld) (hf : VYN_SYS_STAT_PKG_COUNT.apart f = true) :
    (s.setPresent present reserved).fld VYN_SYS_STAT f = s.fld VYN_SYS_STAT f := by
  unfold State.setPresent
  dsimp only
  rw [State.setFld_fld_apart _ _ _ _ _ hf, State.setFld_fld_ne _ _ _ _ _ _ (by decide), State.setFld_fld_ne _ _ _ _ _ _ (by decide)]

/-! What a step of the registers and of VYENE leaves. -/

/-- From s to t registers of l, and what VYENE holds, alone have changed. -/
structure LinkStep (l : List Nat) (s t : State) : Prop where
  frame : t = { s with regs := t.regs, vyn := t.vyn }
  kept : s.regsKept t l

namespace LinkStep

variable {l : List Nat} {s t u : State}

theorem refl (l : List Nat) (s : State) : LinkStep l s s := ⟨rfl, fun _ _ => rfl⟩

theorem trans (h : LinkStep l s t) (k : LinkStep l t u) : LinkStep l s u := by
  refine ⟨?_, State.regsKept_trans h.kept k.kept⟩
  rw [k.frame, h.frame]

theorem foldl {α : Type} {f : State → α → State} {xs : List α} (hf : ∀ x ∈ xs, ∀ t, LinkStep l s t → LinkStep l s (f t x))
    (h : LinkStep l s t) : LinkStep l s (xs.foldl f t) :=
  List.foldlRecOn xs f h fun u hu x hx => hf x hx u hu

variable (h : LinkStep l s t)
include h

theorem setReg {a : Nat} (w : Word) (ha : a ∈ l) : LinkStep l s (t.setReg a w) :=
  h.trans ⟨rfl, fun m hm => t.setReg_reg_ne a w m fun e => hm (e ▸ ha)⟩

theorem setFld {a : Nat} (f : Fld) (v : Nat) (ha : a ∈ l) : LinkStep l s (t.setFld a f v) := h.setReg _ ha

theorem setBit {a : Nat} (f : Fld) (b : Bool) (ha : a ∈ l) : LinkStep l s (t.setBit a f b) := h.setReg _ ha

theorem countSat {a : Nat} (f : Fld) (k : Nat) (ha : a ∈ l) : LinkStep l s (t.countSat a f k) := h.setReg _ ha

theorem updVyn (f : VynSt → VynSt) : LinkStep l s (t.updVyn f) := h.trans ⟨rfl, fun _ _ => rfl⟩

theorem mono {l' : List Nat} (hl : l ⊆ l') : LinkStep l' s t := ⟨h.frame, fun m hm => h.kept m fun hk => hm (hl hk)⟩

theorem outs : t.outs = s.outs := by rw [h.frame]

theorem vynStep : VynStep l s t := by
  refine ⟨?_, h.kept⟩
  obtain ⟨r, v, ht⟩ : ∃ r v, t = { s with regs := r, vyn := v } := ⟨_, _, h.frame⟩
  subst ht
  rfl

theorem fld {a : Nat} (f : Fld) (ha : a ∉ l) : t.fld a f = s.fld a f := State.fld_of_reg f (h.kept a ha)

theorem bit {a : Nat} (f : Fld) (ha : a ∉ l) : t.bit a f = s.bit a f := State.bit_of_reg f (h.kept a ha)

theorem setPresent (present reserved : Nat) (hi : VYN_IDS ∈ l) (hs : VYN_SYS_STAT ∈ l) :
    LinkStep l s (t.setPresent present reserved) := by
  unfold State.setPresent
  exact ((h.setFld _ _ hi).setFld _ _ hi).setFld _ _ hs

theorem setLink {n : Nat} (state lanes : Nat) (up : Bool) (hn : VYN_LINK n ∈ l) : LinkStep l s (t.setLink n state lanes up) := by
  unfold State.setLink
  exact ((h.setFld _ _ hn).setFld _ _ hn).setBit _ _ hn

theorem holdLink {n : Nat} (hn : VYN_LINK n ∈ l) : LinkStep l s (t.holdLink n) := by
  unfold State.holdLink
  exact h.setLink _ _ _ hn

theorem judgeLink {n : Nat} (peer : Identity) (hn : VYN_LINK n ∈ l) : LinkStep l s (t.judgeLink n peer) := by
  unfold State.judgeLink
  split
  · exact h.setLink _ _ _ hn
  · exact h

theorem judgeLinks (hn : ∀ p ∈ t.vyn.peers, VYN_LINK p.1.val ∈ l) : LinkStep l s t.judgeLinks := by
  unfold State.judgeLinks
  refine LinkStep.foldl (fun p hp u hu => ?_) h
  have hl := hn p (List.mem_of_mem_filter hp)
  split
  · exact (hu.setFld _ _ hl).judgeLink _ hl
  · exact hu

theorem learn (x : Identity) (hi : VYN_IDS ∈ l) (hs : VYN_SYS_STAT ∈ l) : LinkStep l s (t.learn x) := by
  unfold State.learn
  dsimp only
  split
  · exact (h.updVyn _).setPresent _ _ hi hs
  · exact h.updVyn _

theorem learnAt (x : Identity) (w : Nat) (hi : VYN_IDS ∈ l) (hs : VYN_SYS_STAT ∈ l) : LinkStep l s (t.learnAt x w) := by
  unfold State.learnAt
  split
  · exact (h.learn x hi hs).updVyn _
  · exact h.learn x hi hs

end LinkStep

/-! What is known of other packages (R467). -/

/-- What VYENE knows once an identity is learned. -/
def learnVyn (x : Identity) (v : VynSt) : VynSt := { v with known := v.known.filter (fun y => y.uid != x.uid) ++ [x] }

theorem State.learn_eq (s : State) (x : Identity) : s.learn x = (if s.tag ≠ 0 ∧ x.tag = s.tag then (s.updVyn (learnVyn x)).setPresent
    (setNBit (s.updVyn (learnVyn x)).presentIds x.id.val true) (setNBit (s.updVyn (learnVyn x)).reservedIds x.id.val false)
    else s.updVyn (learnVyn x)) := by
  rw [State.learn]
  rfl

theorem State.learn_vyn (s : State) (x : Identity) : (s.learn x).vyn = learnVyn x s.vyn := by
  rw [State.learn_eq]
  split
  · rw [State.setPresent_vyn, State.updVyn_vyn]
  · rw [State.updVyn_vyn]

theorem State.learnAt_known (s : State) (x : Identity) (w : Nat) :
    (s.learnAt x w).vyn.known = s.vyn.known.filter (fun y => y.uid != x.uid) ++ [x] ∧ (s.learnAt x w).vyn.peers = s.vyn.peers := by
  unfold State.learnAt
  split
  · rw [State.updVyn_vyn, State.learn_vyn]
    exact ⟨rfl, rfl⟩
  · rw [State.learn_vyn]
    exact ⟨rfl, rfl⟩

/-! Links (R465-R467). -/

theorem State.setLink_reads (s : State) (n state lanes : Nat) (up : Bool) (hstate : state < 8) (hlanes : lanes < 16) :
    (s.setLink n state lanes up).fld (VYN_LINK n) VYN_LINK_STATE = state ∧ (s.setLink n state lanes up).fld (VYN_LINK n) VYN_LINK_LANES = lanes ∧
    (s.setLink n state lanes up).bit (VYN_LINK n) VYN_LINK_UP = up ∧
    (s.setLink n state lanes up).fld (VYN_LINK n) VYN_LINK_PEER_ID = s.fld (VYN_LINK n) VYN_LINK_PEER_ID ∧
    (s.setLink n state lanes up).fld (VYN_LINK n) VYN_LINK_PEER_LINK = s.fld (VYN_LINK n) VYN_LINK_PEER_LINK := by
  have hs : state % 2 ^ VYN_LINK_STATE.width = state := Nat.mod_eq_of_lt hstate
  have hl : lanes % 2 ^ VYN_LINK_LANES.width = lanes := Nat.mod_eq_of_lt hlanes
  unfold State.setLink
  refine ⟨?_, ?_, State.setBit_bit _ _ _ _ rfl (by decide), ?_, ?_⟩
  · rw [State.setBit_fld_apart _ _ _ _ _ (by decide), State.setFld_fld_apart _ _ _ _ _ (by decide),
      State.setFld_fld _ _ _ _ (by decide) (by decide), hs]
  · rw [State.setBit_fld_apart _ _ _ _ _ (by decide), State.setFld_fld _ _ _ _ (by decide) (by decide), hl]
  · rw [State.setBit_fld_apart _ _ _ _ _ (by decide), State.setFld_fld_apart _ _ _ _ _ (by decide),
      State.setFld_fld_apart _ _ _ _ _ (by decide)]
  · rw [State.setBit_fld_apart _ _ _ _ _ (by decide), State.setFld_fld_apart _ _ _ _ _ (by decide),
      State.setFld_fld_apart _ _ _ _ _ (by decide)]

end Sys2Proof.Machine
end

section
/-! Settles O55: links train, drop and send flits again (R465-R467, R471, R473). -/

namespace Sys2Proof.Machine

variable {s t u : State}

/-! Messages of identities. -/

/-- From s to t messages alone have been sent. -/
structure Sends (s t : State) : Prop where
  frame : t = { s with outs := t.outs }
  grows : ∀ o ∈ s.outs, o ∈ t.outs

namespace Sends

theorem refl (s : State) : Sends s s := ⟨rfl, fun _ h => h⟩

theorem trans (h : Sends s t) (k : Sends t u) : Sends s u := by
  refine ⟨?_, fun o ho => k.grows o (h.grows o ho)⟩
  rw [k.frame, h.frame]

theorem sendIdentity (s : State) (links uid tag id : Nat) (el : Bool) (prio : Nat) : Sends s (s.sendIdentity links uid tag id el prio) := by
  unfold State.sendIdentity
  split
  · exact refl s
  · exact ⟨rfl, fun o ho => List.mem_append_left _ ho⟩

theorem reg (h : Sends s t) (a : Nat) : t.reg a = s.reg a := by
  rw [h.frame]
  rfl

theorem vyn (h : Sends s t) : t.vyn = s.vyn := by rw [h.frame]

end Sends

theorem State.sendIdentity_sent (s : State) {links : Nat} (hl : links ≠ 0) (uid tag id : Nat) (el : Bool) (prio : Nat) :
    Output.vyene "IDENTITY" 16 [links, uid, tag, id, if el then 1 else 0, prio] ∈ (s.sendIdentity links uid tag id el prio).outs := by
  rw [State.sendIdentity, if_neg hl]
  exact List.mem_append_right _ (List.mem_singleton_self _)

/-- Identities sent one after the other are all sent. -/
theorem State.forwardAll_sends (links : Nat) (l : List Identity) (s : State) :
    Sends s (l.foldl (fun u x => u.forwardIdentity links x) s) ∧ (links ≠ 0 → ∀ x ∈ l, Output.vyene "IDENTITY" 16
      [links, x.uid, x.tag, x.id.val, if x.eligible then 1 else 0, x.priority] ∈ (l.foldl (fun u x => u.forwardIdentity links x) s).outs) := by
  induction l generalizing s with
  | nil => exact ⟨Sends.refl s, fun _ x hx => nomatch hx⟩
  | cons y l ih =>
    obtain ⟨hsends, hsent⟩ := ih (s.forwardIdentity links y)
    rw [List.foldl_cons]
    refine ⟨(Sends.sendIdentity s _ _ _ _ _ _).trans hsends, fun hl x hx => ?_⟩
    rcases List.mem_cons.mp hx with rfl | hx
    · exact hsends.grows _ (s.sendIdentity_sent hl _ _ _ _ _)
    · exact hsent hl x hx

/-! A link trains. -/

/-- What VYENE holds of the package at the far end of a link that trains. -/
def peerVyn (link : LinkNo) (uid : Nat) (v : VynSt) : VynSt := { v with peers := v.peers.filter (fun x => x.1 != link) ++ [(link, uid)] }

/-- A link has trained; nothing has been told yet. -/
def State.linked (s : State) (link : LinkNo) (lanes : Nat) (peer : Identity) (peerLink : Nat) : State :=
  (((s.setLink link.val 2 lanes true).setFld (VYN_LINK link.val) VYN_LINK_PEER_ID peer.id.val).setFld (VYN_LINK link.val) VYN_LINK_PEER_LINK
    peerLink).updVyn (peerVyn link peer.uid)

/-- What a link shows of its far end. -/
structure Shows (n : LinkNo) (state lanes peer peerLink : Nat) (up : Bool) (t : State) : Prop where
  state : t.fld (VYN_LINK n.val) VYN_LINK_STATE = state
  lanes : t.fld (VYN_LINK n.val) VYN_LINK_LANES = lanes
  peer : t.fld (VYN_LINK n.val) VYN_LINK_PEER_ID = peer
  peerLink : t.fld (VYN_LINK n.val) VYN_LINK_PEER_LINK = peerLink
  up : t.bit (VYN_LINK n.val) VYN_LINK_UP = up

theorem Shows.of_reg {n : LinkNo} {state lanes peer peerLink : Nat} {up : Bool} (h : Shows n state lanes peer peerLink up s)
    (ht : t.reg (VYN_LINK n.val) = s.reg (VYN_LINK n.val)) : Shows n state lanes peer peerLink up t :=
  ⟨(State.fld_of_reg _ ht).trans h.state, (State.fld_of_reg _ ht).trans h.lanes, (State.fld_of_reg _ ht).trans h.peer,
    (State.fld_of_reg _ ht).trans h.peerLink, (State.bit_of_reg _ ht).trans h.up⟩

section

variable (s) (n pl : LinkNo) (lanes : Nat) (peer : Identity) (w : Nat)

theorem State.linked_step : LinkStep [VYN_LINK n.val] s (s.linked n lanes peer pl.val) := by
  unfold State.linked
  exact ((((LinkStep.refl _ s).setLink _ _ _ (by simp)).setFld _ _ (by simp)).setFld _ _ (by simp)).updVyn _

theorem State.linked_vyn : (s.linked n lanes peer pl.val).vyn = peerVyn n peer.uid s.vyn := by
  unfold State.linked
  have h : (s.setLink n.val 2 lanes true).vyn = s.vyn := by
    unfold State.setLink
    rw [State.setBit_vyn, State.setFld_vyn, State.setFld_vyn]
  rw [State.updVyn_vyn, State.setFld_vyn, State.setFld_vyn, h]

theorem State.linked_shows (hl : lanes < 16) : Shows n 2 lanes peer.id.val pl.val true (s.linked n lanes peer pl.val) := by
  obtain ⟨hstate, hlanes, hup, -, -⟩ := s.setLink_reads n.val 2 lanes true (by decide) hl
  have hid : peer.id.val % 2 ^ VYN_LINK_PEER_ID.width = peer.id.val := Nat.mod_eq_of_lt peer.id.isLt
  have hpl : pl.val % 2 ^ VYN_LINK_PEER_LINK.width = pl.val := Nat.mod_eq_of_lt pl.isLt
  unfold State.linked
  refine ⟨?_, ?_, ?_, ?_, ?_⟩
  · rw [State.updVyn_fld, State.setFld_fld_apart _ _ _ _ _ (by decide), State.setFld_fld_apart _ _ _ _ _ (by decide), hstate]
  · rw [State.updVyn_fld, State.setFld_fld_apart _ _ _ _ _ (by decide), State.setFld_fld_apart _ _ _ _ _ (by decide), hlanes]
  · rw [State.updVyn_fld, State.setFld_fld_apart _ _ _ _ _ (by decide), State.setFld_fld _ _ _ _ (by decide) (by decide), hid]
  · rw [State.updVyn_fld, State.setFld_fld _ _ _ _ (by decide) (by decide), hpl]
  · rw [State.updVyn_bit, State.setFld_bit_apart _ _ _ _ _ (by decide), State.setFld_bit_apart _ _ _ _ _ (by decide), hup]

/-- A link that has trained, its peer learned. -/
def State.acquainted : State := (s.linked n lanes peer pl.val).learnAt peer w

/-- Whether two packages belong to different systems (R473). -/
def apartSystems (a b : Nat) : Bool := a != 0 && b != 0 && a != b

theorem apartSystems_iff (a b : Nat) : (a ≠ 0 ∧ b ≠ 0 ∧ a ≠ b) ↔ apartSystems a b = true := by
  simp [apartSystems, and_assoc]

theorem State.judgeLink_shows (hl : lanes < 16) {p l : Nat} (h : Shows n 2 lanes p l true s) :
    Shows n (if apartSystems s.tag peer.tag then 4 else 2) lanes p l (!apartSystems s.tag peer.tag) (s.judgeLink n.val peer) := by
  rw [State.judgeLink]
  by_cases ha : apartSystems s.tag peer.tag = true
  · rw [if_pos ((apartSystems_iff _ _).mpr ha), ha, h.lanes]
    obtain ⟨hstate, hlanes, hup, hpeer, hpl⟩ := s.setLink_reads n.val 4 lanes false (by decide) hl
    exact ⟨hstate, hlanes, hpeer.trans h.peer, hpl.trans h.peerLink, hup⟩
  · rw [if_neg (fun h => ha ((apartSystems_iff _ _).mp h)), Bool.eq_false_iff.mpr ha]
    exact h

theorem State.judgeLink_rest : LinkStep [VYN_LINK n.val] s (s.judgeLink n.val peer) ∧ (s.judgeLink n.val peer).vyn = s.vyn := by
  refine ⟨(LinkStep.refl _ s).judgeLink peer (by simp), ?_⟩
  rw [State.judgeLink]
  split
  · unfold State.setLink
    rw [State.setBit_vyn, State.setFld_vyn, State.setFld_vyn]
  · rfl

end

/-- The other links that are up do not change with one link. -/
theorem State.linksUp_of_kept {n : LinkNo} {l : List Nat} (h : s.regsKept t l) (hl : ∀ k : LinkNo, k ≠ n → VYN_LINK k.val ∉ l) :
    setNBit t.linksUp n.val false = setNBit s.linksUp n.val false := by
  refine nat_ext_nbit fun j => ?_
  rw [nbit_setNBit, nbit_setNBit]
  split
  next => rfl
  next hj =>
    rw [State.linksUp, State.linksUp, nbit_maskOf, nbit_maskOf]
    refine decide_eq_decide.mpr ?_
    rw [List.mem_filter, List.mem_filter, List.mem_range]
    refine and_congr_right fun hj8 => ?_
    have hkeep := h _ (hl ⟨j, hj8⟩ fun e => hj (congrArg Fin.val e))
    rw [State.bit_of_reg VYN_LINK_UP hkeep]

/-- What a link that trains tells: the others to its peer, when it carries traffic, and its peer to the others. -/
def State.tell (s : State) (n : Nat) (others : List Identity) (peer : Identity) : State :=
  let t := if s.bit (VYN_LINK n) VYN_LINK_UP then others.foldl (fun u x => u.forwardIdentity (2 ^ n) x) s else s
  t.forwardIdentity (setNBit t.linksUp n false) peer

theorem State.trainLink_eq (s : State) (n pl : LinkNo) (lanes : Nat) (peer : Identity) (w : Nat) : s.trainLink n lanes peer pl.val w =
    (((s.acquainted n pl lanes peer w).sendOwn (2 ^ n.val)).judgeLink n.val peer).tell n.val
      (s.vyn.known.filter (fun x => x.uid != peer.uid)) peer := rfl

theorem State.tell_sends (s : State) (n : LinkNo) (others : List Identity) (peer : Identity) : Sends s (s.tell n.val others peer) ∧
    (s.bit (VYN_LINK n.val) VYN_LINK_UP = true → ∀ x ∈ others, Output.vyene "IDENTITY" 16
      [2 ^ n.val, x.uid, x.tag, x.id.val, if x.eligible then 1 else 0, x.priority] ∈ (s.tell n.val others peer).outs) ∧
    (setNBit s.linksUp n.val false ≠ 0 → Output.vyene "IDENTITY" 16
      [setNBit s.linksUp n.val false, peer.uid, peer.tag, peer.id.val, if peer.eligible then 1 else 0, peer.priority] ∈
        (s.tell n.val others peer).outs) := by
  obtain ⟨u, hu, hsends, hsent⟩ : ∃ u, u = (if s.bit (VYN_LINK n.val) VYN_LINK_UP then
      others.foldl (fun u x => u.forwardIdentity (2 ^ n.val) x) s else s) ∧ Sends s u ∧
      (s.bit (VYN_LINK n.val) VYN_LINK_UP = true → ∀ x ∈ others, Output.vyene "IDENTITY" 16
        [2 ^ n.val, x.uid, x.tag, x.id.val, if x.eligible then 1 else 0, x.priority] ∈ u.outs) := by
    obtain ⟨hsends, hsent⟩ := State.forwardAll_sends (2 ^ n.val) others s
    by_cases hup : s.bit (VYN_LINK n.val) VYN_LINK_UP = true
    · exact ⟨_, rfl, by rw [if_pos hup]; exact hsends, fun _ => by rw [if_pos hup]; exact hsent (Nat.two_pow_pos _).ne'⟩
    · exact ⟨_, rfl, by rw [if_neg hup]; exact Sends.refl s, fun h => absurd h hup⟩
  have hlast := Sends.sendIdentity u (setNBit u.linksUp n.val false) peer.uid peer.tag peer.id.val peer.eligible peer.priority
  have hlinks : setNBit u.linksUp n.val false = setNBit s.linksUp n.val false :=
    State.linksUp_of_kept (l := []) (fun a _ => hsends.reg a) (fun _ _ => List.not_mem_nil)
  have heq : s.tell n.val others peer = u.forwardIdentity (setNBit u.linksUp n.val false) peer := by
    rw [hu]
    rfl
  rw [heq, State.forwardIdentity]
  refine ⟨hsends.trans hlast, fun hup x hx => hlast.grows _ (hsent hup x hx), fun hne => ?_⟩
  rw [← hlinks] at hne ⊢
  exact u.sendIdentity_sent hne _ _ _ _ _

section

variable (s) (n pl : LinkNo) (lanes : Nat) (peer : Identity) (w : Nat)

theorem State.acquainted_step : LinkStep [VYN_LINK n.val, VYN_IDS, VYN_SYS_STAT] s (s.acquainted n pl lanes peer w) := by
  unfold State.acquainted
  exact ((s.linked_step n pl lanes peer).mono (by simp)).learnAt peer w (by simp) (by simp)

theorem State.acquainted_shows (hl : lanes < 16) : Shows n 2 lanes peer.id.val pl.val true (s.acquainted n pl lanes peer w) := by
  unfold State.acquainted
  have hmem := vynLink_ne n
  simp only [List.mem_cons, not_or] at hmem
  obtain ⟨-, -, -, hids, hsys, -⟩ := hmem
  exact (s.linked_shows n pl lanes peer hl).of_reg (((LinkStep.refl [VYN_IDS, VYN_SYS_STAT] _).learnAt peer w (by simp) (by simp)).kept _
    (by simp [hids, hsys]))

theorem State.acquainted_knows : peer ∈ (s.acquainted n pl lanes peer w).vyn.known ∧
    (n, peer.uid) ∈ (s.acquainted n pl lanes peer w).vyn.peers := by
  unfold State.acquainted
  obtain ⟨hknown, hpeers⟩ := State.learnAt_known (s.linked n lanes peer pl.val) peer w
  rw [hknown, hpeers, State.linked_vyn]
  exact ⟨List.mem_append_right _ (List.mem_singleton_self _), List.mem_append_right _ (List.mem_singleton_self _)⟩

/-- The registers of a link are not those that say who this package is. -/
theorem selfRegs_notMem : ∀ a ∈ selfRegs, a ∉ [VYN_LINK n.val, VYN_IDS, VYN_SYS_STAT] := by
  have hmem := vynLink_ne n
  simp only [List.mem_cons, List.not_mem_nil, or_false, not_or] at hmem
  obtain ⟨hlo, hhi, hident, -, -, hroles⟩ := hmem
  intro a ha
  simp only [selfRegs, List.mem_cons, List.not_mem_nil, or_false] at ha ⊢
  rcases ha with rfl | rfl | rfl | rfl
  · exact fun h => h.elim (fun e => hlo e.symm) (by decide)
  · exact fun h => h.elim (fun e => hhi e.symm) (by decide)
  · exact fun h => h.elim (fun e => hident e.symm) (by decide)
  · exact fun h => h.elim (fun e => hroles e.symm) (by decide)

theorem otherLink_notMem (k : LinkNo) (hk : k ≠ n) : VYN_LINK k.val ∉ [VYN_LINK n.val, VYN_IDS, VYN_SYS_STAT] := by
  have hmem := vynLink_ne k
  simp only [List.mem_cons, List.not_mem_nil, or_false, not_or] at hmem ⊢
  obtain ⟨-, -, -, hids, hsys, -⟩ := hmem
  exact ⟨fun e => hk (Fin.ext (vynLink_inj e)), hids, hsys⟩

end

theorem Sends.kept (h : Sends s t) (l : List Nat) : s.regsKept t l := fun a _ => h.reg a

/-- A link that trained, from what the stages of its training leave. -/
theorem trained_of_stages {n : LinkNo} {a b c d : State} (hstep : LinkStep [VYN_LINK n.val, VYN_IDS, VYN_SYS_STAT] s a) (hab : Sends a b)
    (hbc : LinkStep [VYN_LINK n.val] b c) (hcd : Sends c d) : d = { s with regs := d.regs, vyn := d.vyn, outs := d.outs } ∧
    s.regsKept d [VYN_LINK n.val, VYN_IDS, VYN_SYS_STAT] := by
  refine ⟨?_, fun m hm => ?_⟩
  · obtain ⟨r, v, ha⟩ : ∃ r v, a = { s with regs := r, vyn := v } := ⟨_, _, hstep.frame⟩
    subst ha
    obtain ⟨o, hb⟩ : ∃ o, b = { s with regs := r, vyn := v, outs := o } := ⟨_, hab.frame⟩
    subst hb
    obtain ⟨r', v', hc⟩ : ∃ r' v', c = { s with regs := r', vyn := v', outs := o } := ⟨_, _, hbc.frame⟩
    subst hc
    obtain ⟨o', hd⟩ : ∃ o', d = { s with regs := r', vyn := v', outs := o' } := ⟨_, hcd.frame⟩
    subst hd
    rfl
  · have hm' : m ∉ [VYN_LINK n.val] := fun h => hm (List.mem_cons.mpr (.inl (List.mem_singleton.mp h)))
    rw [hcd.reg, hbc.kept m hm', hab.reg, hstep.kept m hm]

theorem exec_vyeneLinkTrained (n pl : LinkNo) {lanes : Nat} (peer : Identity) (w : Nat)
    (hen : nbit (s.fld VYN_ROLES VYN_ROLES_LINK_EN) n.val = true) (hstate : s.fld (VYN_LINK n.val) VYN_LINK_STATE = 1) (hl : lanes ∈ [4, 8, 12]) :
    exec (.vyeneLinkTrained n lanes peer pl w) s = .next (s.trainLink n lanes peer pl.val w) := by
  have harm : exec (.vyeneLinkTrained n lanes peer pl w) s = execVyeneLinkTrained n lanes peer pl w s := rfl
  have hlanes : lanes = 12 ∨ lanes = 8 ∨ lanes = 4 := by
    simp only [List.mem_cons, List.not_mem_nil, or_false] at hl
    omega
  rw [harm, execVyeneLinkTrained, if_neg (by rw [hen]; decide), if_pos ⟨hstate, hlanes⟩]

theorem State.trainLink_trained (s : State) (n pl : LinkNo) {lanes : Nat} (hl : lanes < 16) (peer : Identity) (w : Nat) {t : State}
    (ht : t = s.trainLink n lanes peer pl.val w) :
    Shows n (if apartSystems s.tag peer.tag then 4 else 2) lanes peer.id.val pl.val (!apartSystems s.tag peer.tag) t ∧
    peer ∈ t.vyn.known ∧ (n, peer.uid) ∈ t.vyn.peers ∧
    Output.vyene "IDENTITY" 16 [2 ^ n.val, Config.uid.toNat, s.tag, s.pkgId, if s.eligible then 1 else 0, s.priority] ∈ t.outs ∧
    (apartSystems s.tag peer.tag = false → ∀ x ∈ s.vyn.known, x.uid ≠ peer.uid →
      Output.vyene "IDENTITY" 16 [2 ^ n.val, x.uid, x.tag, x.id.val, if x.eligible then 1 else 0, x.priority] ∈ t.outs) ∧
    (setNBit s.linksUp n.val false ≠ 0 → Output.vyene "IDENTITY" 16 [setNBit s.linksUp n.val false, peer.uid, peer.tag, peer.id.val,
      if peer.eligible then 1 else 0, peer.priority] ∈ t.outs) ∧
    t = { s with regs := t.regs, vyn := t.vyn, outs := t.outs } ∧ s.regsKept t [VYN_LINK n.val, VYN_IDS, VYN_SYS_STAT] := by
  rw [State.trainLink_eq] at ht
  have hshowsA := s.acquainted_shows n pl lanes peer w hl
  have hstepA := s.acquainted_step n pl lanes peer w
  obtain ⟨hknown, hpeers⟩ := s.acquainted_knows n pl lanes peer w
  generalize s.acquainted n pl lanes peer w = a at ht hshowsA hstepA hknown hpeers
  have hself := selfRegs_notMem n
  have hB : Sends a (a.sendOwn (2 ^ n.val)) := Sends.sendIdentity a _ _ _ _ _ _
  have hown := a.sendIdentity_sent (Nat.two_pow_pos n.val).ne' Config.uid.toNat a.tag a.pkgId a.eligible a.priority
  rw [State.tag_of_kept hstepA.kept hself, State.pkgId_of_kept hstepA.kept hself, State.eligible_of_kept hstepA.kept hself,
    State.priority_of_kept hstepA.kept hself] at hown
  obtain ⟨b, hb⟩ : ∃ b, b = a.sendOwn (2 ^ n.val) := ⟨_, rfl⟩
  have hownB : Output.vyene "IDENTITY" 16 [2 ^ n.val, Config.uid.toNat, s.tag, s.pkgId, if s.eligible then 1 else 0, s.priority] ∈ b.outs := by
    rw [hb, State.sendOwn, State.tag_of_kept hstepA.kept hself, State.pkgId_of_kept hstepA.kept hself,
      State.eligible_of_kept hstepA.kept hself, State.priority_of_kept hstepA.kept hself]
    exact hown
  rw [← hb] at ht hB
  clear hb hown
  have htag : b.tag = s.tag := (State.tag_of_kept (hB.kept []) (fun _ _ => List.not_mem_nil)).trans (State.tag_of_kept hstepA.kept hself)
  have hshowsC := State.judgeLink_shows b n lanes peer hl (hshowsA.of_reg (hB.reg _))
  obtain ⟨hC, hvynC⟩ := b.judgeLink_rest n peer
  rw [htag] at hshowsC
  generalize b.judgeLink n.val peer = c at ht hshowsC hC hvynC
  obtain ⟨hD, hothers, hpeer⟩ := c.tell_sends n (s.vyn.known.filter (fun x => x.uid != peer.uid)) peer
  rw [← ht] at hD hothers hpeer
  obtain ⟨hframe, hkept⟩ := trained_of_stages hstepA hB hC hD
  have hvyn : t.vyn = a.vyn := hD.vyn.trans (hvynC.trans hB.vyn)
  have hlinks : setNBit c.linksUp n.val false = setNBit s.linksUp n.val false := by
    refine (State.linksUp_of_kept hC.kept fun k hk => ?_).trans ((State.linksUp_of_kept (hB.kept []) fun _ _ => List.not_mem_nil).trans
      (State.linksUp_of_kept hstepA.kept (otherLink_notMem n)))
    exact fun h => otherLink_notMem n k hk (List.mem_cons.mpr (.inl (List.mem_singleton.mp h)))
  rw [hlinks] at hpeer
  refine ⟨hshowsC.of_reg (hD.reg _), hvyn ▸ hknown, hvyn ▸ hpeers, ?_, fun hap x hx hne => ?_, hpeer, hframe, hkept⟩
  · refine hD.grows _ ?_
    rw [hC.outs]
    exact hownB
  · refine hothers ?_ x (List.mem_filter.mpr ⟨hx, by simpa using hne⟩)
    rw [hshowsC.up, hap]
    rfl

/-! Packages become unreachable (R471). -/

theorem VynStep.silent {l : List Nat} (h : VynStep l s t) (ho : t.outs = s.outs) :
    t = { s with regs := t.regs, vyn := t.vyn, hub := t.hub, flowStores := t.flowStores, homeWaits := t.homeWaits } := by
  obtain ⟨r, v, x, o, fs, hw, ht⟩ : ∃ r v x o fs hw, t = { s with
    regs := r, vyn := v, hub := x, outs := o, flowStores := fs, homeWaits := hw } := ⟨_, _, _, _, _, _, h.frame⟩
  subst ht
  change o = s.outs at ho
  subst ho
  rfl

theorem State.dropWaiting_step (s : State) : VynStep [VYN_SYS_STAT] s s.dropWaiting := by
  unfold State.dropWaiting
  exact ⟨rfl, fun _ _ => rfl⟩

theorem State.aloneAligned_alignStep (s : State) : AlignStep s s.aloneAligned := by
  unfold State.aloneAligned
  split
  · exact AlignStep.setAligned s true _
  · exact AlignStep.refl s

/-- The IDs of this system that become unreachable with some UIDs. -/
def State.goneIds (s : State) (lost : List Nat) : List Nat :=
  ((s.vyn.known.filter (fun x => lost.contains x.uid && x.tag == s.tag && s.tag != 0)).map (·.id.val)).filter (fun k =>
    s.present k && k != s.pkgId)

/-- Whether an ID becomes unreachable with some UIDs, when it is present. -/
def State.goneId (s : State) (lost : List Nat) (k : Nat) : Bool := s.tag != 0 && k != s.pkgId &&
  s.vyn.known.any (fun x => lost.contains x.uid && x.tag == s.tag && x.id.val == k)

theorem State.mem_goneIds (s : State) (lost : List Nat) (k : Nat) : k ∈ s.goneIds lost ↔ s.present k = true ∧ s.goneId lost k = true := by
  simp only [State.goneIds, State.goneId, List.mem_filter, List.mem_map, List.any_eq_true, Bool.and_eq_true, beq_iff_eq, bne_iff_ne]
  constructor
  · rintro ⟨⟨x, ⟨hx, ⟨hl, ht⟩, h0⟩, hk⟩, hp, hne⟩
    exact ⟨hp, ⟨h0, hne⟩, x, hx, ⟨hl, ht⟩, hk⟩
  · rintro ⟨hp, ⟨h0, hne⟩, x, hx, ⟨hl, ht⟩, hk⟩
    exact ⟨⟨x, ⟨hx, ⟨hl, ht⟩, h0⟩, hk⟩, hp, hne⟩

/-- What VYENE knows without some UIDs. -/
def forgetVyn (lost : List Nat) (v : VynSt) : VynSt := { v with known := v.known.filter (fun x => !lost.contains x.uid) }

theorem State.loseUids_eq (s : State) (lost : List Nat) : s.loseUids lost = (((s.updVyn (forgetVyn lost)).setPresent
    ((s.goneIds lost).foldl (fun m k => setNBit m k false) s.presentIds)
    ((s.goneIds lost).foldl (fun m k => setNBit m k true) s.reservedIds)).dropWaiting).aloneAligned := by
  rw [State.loseUids]
  rfl

theorem State.dropWaiting_rest (s : State) : s.dropWaiting.vyn = s.vyn ∧ s.dropWaiting.outs = s.outs ∧
    s.dropWaiting.reg VYN_IDS = s.reg VYN_IDS := ⟨rfl, rfl, rfl⟩

theorem lost_of_stages {u v w : State} {p r : Nat} (hu : u = v.setPresent p r) (hw : w = u.dropWaiting) (ht : t = w.aloneAligned) :
    (∀ k, k < 16 → t.present k = nbit p k ∧ nbit t.reservedIds k = nbit r k) ∧ t.vyn = v.vyn ∧ VynStep [VYN_IDS, VYN_SYS_STAT] v t ∧
    t.outs = v.outs := by
  have hstep := (VynStep.refl [VYN_IDS, VYN_SYS_STAT] v).setPresent p r (by simp) (by simp)
  have hreads := fun k (hk : k < 16) => v.setPresent_present p r hk
  have hvyn := v.setPresent_vyn p r
  have houts := v.setPresent_outs p r
  rw [← hu] at hstep hreads hvyn houts
  have hdrop := u.dropWaiting_step
  obtain ⟨hvynW, houtsW, hregW⟩ := u.dropWaiting_rest
  rw [← hw] at hdrop hvynW houtsW hregW
  have halign := w.aloneAligned_alignStep
  rw [← ht] at halign
  have hids : t.reg VYN_IDS = u.reg VYN_IDS := (halign.step.kept _ (by decide)).trans hregW
  have hres : t.reservedIds = u.reservedIds := State.fld_of_reg _ hids
  refine ⟨fun k hk => ?_, halign.vyn.trans (hvynW.trans hvyn), (hstep.trans (hdrop.mono (by simp))).trans (halign.step.mono (by simp)),
    halign.outs.trans (houtsW.trans houts)⟩
  rw [State.present_of_reg hids, hres]
  exact hreads k hk

theorem State.loseUids_reads (s : State) (lost : List Nat) :
    (∀ k, k < 16 → (s.loseUids lost).present k = (s.present k && !s.goneId lost k) ∧
      nbit (s.loseUids lost).reservedIds k = (nbit s.reservedIds k || (s.present k && s.goneId lost k))) ∧
    (s.loseUids lost).vyn = forgetVyn lost s.vyn ∧ VynStep [VYN_IDS, VYN_SYS_STAT] s (s.loseUids lost) ∧
    (s.loseUids lost).outs = s.outs := by
  obtain ⟨hreads, hvyn, hstep, houts⟩ := lost_of_stages rfl rfl (s.loseUids_eq lost)
  refine ⟨fun k hk => ?_, hvyn.trans (State.updVyn_vyn _ _), ((VynStep.refl _ s).updVyn _).trans hstep, houts.trans (State.updVyn_outs _ _)⟩
  obtain ⟨hp, hr⟩ := hreads k hk
  have hpres : nbit s.presentIds k = s.present k := rfl
  have hmem := s.mem_goneIds lost k
  rw [hp, hr, nbit_foldl_setNBit, nbit_foldl_setNBit, hpres]
  by_cases hk : k ∈ s.goneIds lost
  · rw [if_pos hk, if_pos hk, (hmem.mp hk).1, (hmem.mp hk).2]
    simp
  · rw [if_neg hk, if_neg hk]
    cases hsp : s.present k
    · simp
    · cases hg : s.goneId lost k
      · simp
      · exact absurd (hmem.mpr ⟨hsp, hg⟩) hk

/-! A link drops (R466). -/

/-- What VYENE holds of the far ends of links without a link. -/
def unpeerVyn (n : LinkNo) (v : VynSt) : VynSt := { v with peers := v.peers.filter (fun x => x.1 != n) }

/-- A link trains again. -/
def State.unlinked (s : State) (n : LinkNo) : State :=
  ((s.setLink n.val 1 0 false).countSat (VYN_LINK_ERR n.val) VYN_LINK_ERR_DOWN 1).updVyn (unpeerVyn n)

theorem State.unlinked_step (s : State) (n : LinkNo) : LinkStep [VYN_LINK n.val, VYN_LINK_ERR n.val] s (s.unlinked n) := by
  unfold State.unlinked
  exact (((LinkStep.refl _ s).setLink _ _ _ (by simp)).countSat _ _ (by simp)).updVyn _

theorem State.unlinked_reads (s : State) (n : LinkNo) : (s.unlinked n).fld (VYN_LINK n.val) VYN_LINK_STATE = 1 ∧
    (s.unlinked n).bit (VYN_LINK n.val) VYN_LINK_UP = false ∧
    (s.unlinked n).fld (VYN_LINK_ERR n.val) VYN_LINK_ERR_DOWN = min (2 ^ 16 - 1) (s.fld (VYN_LINK_ERR n.val) VYN_LINK_ERR_DOWN + 1) ∧
    (s.unlinked n).vyn = unpeerVyn n s.vyn := by
  obtain ⟨hstate, -, hup, -, -⟩ := s.setLink_reads n.val 1 0 false (by decide) (by decide)
  have hne := vynLink_ne_vynLinkErr n n
  have hlink := (LinkStep.refl [VYN_LINK n.val] s).setLink 1 0 false (List.mem_singleton_self _)
  have hdown := hlink.fld VYN_LINK_ERR_DOWN (a := VYN_LINK_ERR n.val) (by simpa using hne.symm)
  have hvyn : (s.setLink n.val 1 0 false).vyn = s.vyn := by
    unfold State.setLink
    rw [State.setBit_vyn, State.setFld_vyn, State.setFld_vyn]
  unfold State.unlinked
  refine ⟨?_, ?_, ?_, ?_⟩
  · rw [State.updVyn_fld, State.countSat_fld_ne _ _ _ _ _ _ hne, hstate]
  · rw [State.updVyn_bit, State.bit_of_reg _ (State.countSat_reg_ne _ _ _ _ _ hne), hup]
  · rw [State.updVyn_fld, State.countSat_one_fld _ _ _ (by decide) (by decide), hdown]
    rfl
  · rw [State.updVyn_vyn, State.countSat_vyn, hvyn]

theorem exec_vyeneLinkDrop_none (lost : List Nat) : exec (.vyeneLinkDrop none lost) s = .next (s.loseUids lost) := rfl

theorem exec_vyeneLinkDrop_some {n : LinkNo} (lost : List Nat) (hstate : s.fld (VYN_LINK n.val) VYN_LINK_STATE = 2 ∨
    s.fld (VYN_LINK n.val) VYN_LINK_STATE = 4) : exec (.vyeneLinkDrop (some n) lost) s = .next ((s.unlinked n).loseUids lost) := by
  have harm : exec (.vyeneLinkDrop (some n) lost) s = execVyeneLinkDrop (some n) lost s := rfl
  rw [harm, execVyeneLinkDrop]
  dsimp only
  rw [if_pos hstate]
  rfl

theorem State.goneId_of_step {l : List Nat} (h : LinkStep l s t) (hl : ∀ a ∈ selfRegs, a ∉ l) (hknown : t.vyn.known = s.vyn.known) :
    t.goneId = s.goneId := by
  unfold State.goneId
  rw [State.tag_of_kept h.kept hl, State.pkgId_of_kept h.kept hl, hknown]

theorem linkRegs_selfRegs (n : LinkNo) : ∀ a ∈ selfRegs, a ∉ [VYN_LINK n.val, VYN_LINK_ERR n.val] := by
  have hlink := vynLink_ne n
  have herr := vynLinkErr_ne n
  simp only [List.mem_cons, List.not_mem_nil, or_false, not_or] at hlink herr
  intro a ha h
  simp only [selfRegs, List.mem_cons, List.not_mem_nil, or_false] at ha h
  rcases h with rfl | rfl
  · omega
  · omega

theorem VynStep.after_link {l l' : List Nat} (k : LinkStep l s t) (h : VynStep l' t u) (ho : u.outs = t.outs) :
    u = { s with regs := u.regs, vyn := u.vyn, hub := u.hub, flowStores := u.flowStores, homeWaits := u.homeWaits } ∧
    s.regsKept u (l ++ l') := by
  refine ⟨((k.vynStep.mono (List.subset_append_left l l')).trans (h.mono (List.subset_append_right l l'))).silent (ho.trans k.outs), ?_⟩
  intro a ha
  rw [List.mem_append, not_or] at ha
  rw [h.kept a ha.2, k.kept a ha.1]

theorem linkDrop_lost (n : LinkNo) (lost : List Nat) {t : State} (ht : t = (s.unlinked n).loseUids lost) :
    (t.fld (VYN_LINK n.val) VYN_LINK_STATE = 1 ∧ t.bit (VYN_LINK n.val) VYN_LINK_UP = false ∧
      t.fld (VYN_LINK_ERR n.val) VYN_LINK_ERR_DOWN = min (2 ^ 16 - 1) (s.fld (VYN_LINK_ERR n.val) VYN_LINK_ERR_DOWN + 1)) ∧
    (∀ k, k < 16 → t.present k = (s.present k && !s.goneId lost k) ∧
      nbit t.reservedIds k = (nbit s.reservedIds k || (s.present k && s.goneId lost k))) ∧
    t.vyn.known = s.vyn.known.filter (fun x => !lost.contains x.uid) ∧
    t = { s with regs := t.regs, vyn := t.vyn, hub := t.hub, flowStores := t.flowStores, homeWaits := t.homeWaits } ∧
    s.regsKept t ([VYN_LINK n.val, VYN_LINK_ERR n.val] ++ [VYN_IDS, VYN_SYS_STAT]) := by
  obtain ⟨hstate, hup, hdown, hvynU⟩ := s.unlinked_reads n
  have hstep := s.unlinked_step n
  obtain ⟨hids, hvyn, hlose, houts⟩ := (s.unlinked n).loseUids_reads lost
  rw [← ht] at hids hvyn hlose houts
  generalize s.unlinked n = u at *
  have hlink := vynLink_ne n
  have herr := vynLinkErr_ne n
  simp only [List.mem_cons, List.not_mem_nil, or_false, not_or] at hlink herr
  have hlinkU := hlose.kept (VYN_LINK n.val) (by simp [hlink])
  have herrU := hlose.kept (VYN_LINK_ERR n.val) (by simp [herr])
  have hgone := State.goneId_of_step hstep (linkRegs_selfRegs n) (by rw [hvynU]; rfl)
  have hidsU : u.reg VYN_IDS = s.reg VYN_IDS := hstep.kept _ (by simpa using ⟨fun e => hlink.2.2.2.1 e.symm, fun e => herr.2.2.2.1 e.symm⟩)
  have hpres := State.present_of_reg hidsU
  have hres : u.reservedIds = s.reservedIds := State.fld_of_reg _ hidsU
  rw [hgone, hpres, hres] at hids
  refine ⟨⟨(State.fld_of_reg _ hlinkU).trans hstate, (State.bit_of_reg _ hlinkU).trans hup, (State.fld_of_reg _ herrU).trans hdown⟩, hids, ?_,
    VynStep.after_link hstep hlose houts⟩
  rw [hvyn, hvynU]
  rfl

/-! The obligation. -/

/-- Settles O55: a link trains in stages, each of which writes its own registers; what is lost with a link that drops is `State.goneIds`. -/
theorem linksTrainDropAndResend : Obligations.LinksTrainDropAndResend := by
  unfold Obligations.LinksTrainDropAndResend
  intro n pl lanes w peer lost s
  refine ⟨fun hen hstate hl ap hap => ?_, fun link hlink gone hgone => ?_, fun hup => ?_⟩
  · have hlanes : lanes < 16 := by
      simp only [List.mem_cons, List.not_mem_nil, or_false] at hl
      omega
    subst hap
    obtain ⟨hshows, hknown, hpeers, hown, hothers, htold, hframe, hkept⟩ := s.trainLink_trained n pl hlanes peer w rfl
    exact ⟨_, exec_vyeneLinkTrained n pl peer w hen hstate hl, hshows.state, hshows.up, hshows.lanes, hshows.peer, hshows.peerLink, hknown,
      hpeers, hown, hothers, htold, hframe, hkept⟩
  · subst hgone
    cases link with
    | none =>
      obtain ⟨hids, hvyn, hstep, houts⟩ := s.loseUids_reads lost
      exact ⟨_, exec_vyeneLinkDrop_none lost, fun k hk => (nomatch hk), hids, congrArg VynSt.known hvyn, hstep.silent houts, hstep.kept⟩
    | some n =>
      obtain ⟨hdown, hids, hknown, hframe, hkept⟩ := linkDrop_lost (s := s) n lost rfl
      refine ⟨_, exec_vyeneLinkDrop_some lost (hlink n rfl), fun k hk => ?_, hids, hknown, hframe, hkept⟩
      rw [← Option.some.inj hk]
      exact hdown
  · have harm : exec (.flitResend n) s = execFlitResend n s := rfl
    refine ⟨_, by rw [harm, execFlitResend, if_pos hup], ?_, ?_, rfl, fun a ha => ?_⟩
    · exact State.countSat_one_fld _ _ _ (by decide) (by decide)
    · exact State.setFld_fld_apart _ _ _ _ _ (by decide)
    · exact State.countSat_reg_ne _ _ _ _ _ (by simpa using ha)

end Sys2Proof.Machine
end

section
/-! Settles O56: packages take, give and release IDs (R468, R470-R472, R482). -/

namespace Sys2Proof.Machine

variable {s t u : State}

/-! Numbers in rising order. -/

theorem insertNat_length (x : Nat) (l : List Nat) : (insertNat x l).length ≤ l.length + 1 := by
  induction l with
  | nil => exact le_rfl
  | cons y l ih =>
    unfold insertNat
    split
    · exact le_rfl
    · split
      · exact Nat.le_succ _
      · rw [List.length_cons, List.length_cons]
        omega

theorem mem_insertNat (x z : Nat) (l : List Nat) : z ∈ insertNat x l ↔ z = x ∨ z ∈ l := by
  induction l with
  | nil => exact List.mem_singleton.trans (or_iff_left List.not_mem_nil).symm
  | cons y l ih =>
    unfold insertNat
    split
    · exact List.mem_cons
    · split
      next h =>
        rw [h, List.mem_cons]
        exact (or_iff_right_of_imp .inl).symm
      next =>
        rw [List.mem_cons, ih, List.mem_cons]
        exact or_left_comm

theorem insertNat_cons {x y : Nat} (h : y < x) (l : List Nat) : insertNat x (y :: l) = y :: insertNat x l := by
  rw [insertNat, if_neg (by omega), if_neg (by omega)]

theorem foldl_insertNat_length (l m : List Nat) : (l.foldl (fun m x => insertNat x m) m).length ≤ m.length + l.length := by
  induction l generalizing m with
  | nil => exact le_rfl
  | cons x l ih =>
    have hx := insertNat_length x m
    have hl := ih (insertNat x m)
    rw [List.foldl_cons, List.length_cons]
    omega

theorem mem_foldl_insertNat (z : Nat) (l m : List Nat) : z ∈ l.foldl (fun m x => insertNat x m) m ↔ z ∈ l ∨ z ∈ m := by
  induction l generalizing m with
  | nil => simp
  | cons x l ih =>
    rw [List.foldl_cons, ih, mem_insertNat, List.mem_cons, or_left_comm, or_assoc]

theorem foldl_insertNat_cons {y : Nat} (l m : List Nat) (h : ∀ x ∈ l, y < x) :
    l.foldl (fun m x => insertNat x m) (y :: m) = y :: l.foldl (fun m x => insertNat x m) m := by
  induction l generalizing m with
  | nil => rfl
  | cons x l ih =>
    rw [List.foldl_cons, List.foldl_cons, insertNat_cons (h x List.mem_cons_self), ih _ fun z hz => h z (List.mem_cons_of_mem _ hz)]

theorem sortNats_least {y : Nat} {l : List Nat} (h : ∀ x ∈ l, y < x) : sortNats (y :: l) = y :: sortNats l :=
  foldl_insertNat_cons l [] h

theorem sortNats_length (l : List Nat) : (sortNats l).length ≤ l.length :=
  (foldl_insertNat_length l []).trans (Nat.zero_add _).le

theorem mem_sortNats {z : Nat} {l : List Nat} : z ∈ sortNats l ↔ z ∈ l :=
  (mem_foldl_insertNat z l []).trans (or_iff_left List.not_mem_nil)

/-! The IDs that an assignment names. -/

theorem maskOf_lt {l : List Nat} {n : Nat} (h : ∀ k ∈ l, k < n) : maskOf l < 2 ^ n := by
  refine Nat.lt_pow_two_of_testBit _ fun j hj => ?_
  rw [← nbit_eq_testBit, nbit_maskOf]
  exact decide_eq_false fun hm => absurd (h j hm) (by omega)

theorem nbit_assigned (uids : List Nat) {j : Nat} (hj : j < 16) : nbit (assigned uids) j = (uids.getD j 0 != 0) := by
  have hmem : j ∈ (List.range 16).filter (fun k => uids.getD k 0 != 0) ↔ (uids.getD j 0 != 0) = true := by
    rw [List.mem_filter, List.mem_range, and_iff_right hj]
  rw [assigned, nbit_maskOf]
  simp only [hmem, Bool.decide_eq_true]

theorem nbit_or (a b j : Nat) : nbit (a ||| b) j = (nbit a j || nbit b j) := by
  rw [nbit_eq_testBit, nbit_eq_testBit, nbit_eq_testBit, Nat.testBit_or]

/-! Links follow what is known (R473). -/

theorem State.judgeLinks_vyn (s : State) : s.judgeLinks.vyn = s.vyn := by
  unfold State.judgeLinks
  refine foldl_obs _ State.vyn (fun t p => ?_) _ s
  split
  · rw [(State.judgeLink_rest _ p.1 _).2, State.setFld_vyn]
  · rfl

/-- What VYENE knows once an assignment has arrived. -/
def relabelVyn (tag : Nat) (uids : List Nat) (v : VynSt) : VynSt := { v with known := v.known.map (relabel tag uids) }

/-- The registers of the links whose far ends are known. -/
def State.peerRegs (s : State) : List Nat := s.vyn.peers.map (fun p => VYN_LINK p.1.val)

theorem State.peerRegs_notMem (s : State) {a : Nat} (ha : a ∈ [VYN_TAG_LO, VYN_TAG_HI, HUB_SYS_IDENT, VYN_IDS, VYN_SYS_STAT, VYN_ROLES]) :
    a ∉ s.peerRegs := by
  intro h
  obtain ⟨p, -, rfl⟩ := List.mem_map.mp h
  exact vynLink_ne p.1 ha

theorem State.judgeLinks_step (s : State) : LinkStep s.peerRegs s s.judgeLinks :=
  (LinkStep.refl _ s).judgeLinks fun p hp => List.mem_map.mpr ⟨p, hp, rfl⟩

theorem State.relabelAll_step (s : State) (tag : Nat) (uids : List Nat) : LinkStep s.peerRegs s (s.relabelAll tag uids) := by
  unfold State.relabelAll
  exact ((LinkStep.refl _ s).updVyn _).judgeLinks fun p hp => List.mem_map.mpr ⟨p, hp, rfl⟩

theorem State.relabelAll_vyn (s : State) (tag : Nat) (uids : List Nat) : (s.relabelAll tag uids).vyn = relabelVyn tag uids s.vyn := by
  unfold State.relabelAll
  rw [State.judgeLinks_vyn, State.updVyn_vyn]
  rfl

/-! A package takes its ID (R468, R482). -/

/-- What VYENE holds of a package that enters a system. -/
def enterVyn (declared : Bool) (v : VynSt) : VynSt := { v with electing := declared, joined := true }

section

variable (s) (tag id : Nat) (uids : List Nat) (reserved : Nat) (declared : Bool)

/-- A package that has taken its ID; the links do not know yet. -/
def State.entering : State :=
  ((((s.setPair VYN_TAG_LO VYN_TAG_HI tag).setFld HUB_SYS_IDENT SYS_IDENT_PKG_ID id).setPresent (assigned uids) reserved).updVyn
    (enterVyn declared))

/-- The registers that a package writes that takes its ID. -/
def idRegs : List Nat := [VYN_TAG_LO, VYN_TAG_HI, HUB_SYS_IDENT, VYN_IDS, VYN_SYS_STAT]

theorem State.entering_step : LinkStep idRegs s (s.entering tag id uids reserved declared) := by
  unfold State.entering State.setPair
  exact ((((((LinkStep.refl _ s).setReg _ (by decide)).setReg _ (by decide)).setFld _ _ (by decide)).setPresent _ _ (by decide)
    (by decide)).updVyn _)

theorem State.entering_vyn : (s.entering tag id uids reserved declared).vyn = enterVyn declared s.vyn := by
  unfold State.entering State.setPair
  rw [State.updVyn_vyn, State.setPresent_vyn, State.setFld_vyn, State.setReg_vyn, State.setReg_vyn]

theorem State.tag_of_regs {a b : State} (hlo : a.reg VYN_TAG_LO = b.reg VYN_TAG_LO) (hhi : a.reg VYN_TAG_HI = b.reg VYN_TAG_HI) :
    a.tag = b.tag := by
  unfold State.tag State.pair
  rw [hlo, hhi]

theorem entering_stages {a b c t : State} {p r : Nat} {f : VynSt → VynSt} (hid : id < 16)
    (hb : b = a.setFld HUB_SYS_IDENT SYS_IDENT_PKG_ID id) (hc : c = b.setPresent p r) (ht : t = c.updVyn f) :
    t.tag = a.tag ∧ t.pkgId = id ∧ (∀ j, j < 16 → t.present j = nbit p j) ∧ t.reservedIds = r % 2 ^ 16 := by
  have hids : id % 2 ^ SYS_IDENT_PKG_ID.width = id := Nat.mod_eq_of_lt (hid.trans_le (by decide))
  have hstep := (LinkStep.refl [VYN_IDS, VYN_SYS_STAT] b).setPresent p r (by simp) (by simp)
  have hpresent := fun j (hj : j < 16) => (b.setPresent_present p r hj).1
  have hreserved := (b.setPresent_ids p r).2
  rw [← hc] at hstep hpresent hreserved
  have hreg : ∀ m, t.reg m = c.reg m := fun m => ht ▸ State.updVyn_reg _ _ _
  have hkeep : ∀ m, m ∉ [VYN_IDS, VYN_SYS_STAT] → m ≠ HUB_SYS_IDENT → t.reg m = a.reg m := fun m hm hi => by
    rw [hreg, hstep.kept m hm, hb, State.setFld_reg_ne _ _ _ _ _ hi]
  refine ⟨State.tag_of_regs (hkeep _ (by decide) (by decide)) (hkeep _ (by decide) (by decide)), ?_, fun j hj => ?_, ?_⟩
  · have hident : t.reg HUB_SYS_IDENT = b.reg HUB_SYS_IDENT := (hreg _).trans (hstep.kept _ (by decide))
    unfold State.pkgId
    rw [State.fld_of_reg _ hident, hb, State.setFld_fld _ _ _ _ (by decide) (by decide), hids]
  · rw [State.present_of_reg (hreg _), hpresent j hj]
  · exact (State.fld_of_reg _ (hreg _)).trans hreserved

theorem State.entering_reads (htag : tag < 2 ^ 64) (hid : id < 16) : (s.entering tag id uids reserved declared).tag = tag ∧
    (s.entering tag id uids reserved declared).pkgId = id ∧
    (∀ j, j < 16 → (s.entering tag id uids reserved declared).present j = (uids.getD j 0 != 0)) ∧
    (s.entering tag id uids reserved declared).reservedIds = reserved % 2 ^ 16 := by
  have hpair : (s.setPair VYN_TAG_LO VYN_TAG_HI tag).tag = tag := State.setPair_pair s (by decide) htag
  obtain ⟨ht, hk, hp, hr⟩ := entering_stages id hid rfl rfl (State.entering.eq_1 s tag id uids reserved declared)
  exact ⟨ht.trans hpair, hk, fun j hj => (hp j hj).trans (nbit_assigned uids hj), hr⟩

/-- A package that has taken its ID, but for its alignment and for what it sends. -/
def State.entered : State :=
  ((s.entering tag id uids reserved declared).relabelAll tag uids).setBit VYN_SYS_STAT VYN_SYS_STAT_IS_MASTER false

theorem State.entered_step : LinkStep (idRegs ++ s.peerRegs) s (s.entered tag id uids reserved declared) := by
  have hpeers : (s.entering tag id uids reserved declared).peerRegs = s.peerRegs := by
    unfold State.peerRegs
    rw [State.entering_vyn]
    rfl
  have hrelabel := (s.entering tag id uids reserved declared).relabelAll_step tag uids
  rw [hpeers] at hrelabel
  unfold State.entered
  exact (((s.entering_step tag id uids reserved declared).mono (List.subset_append_left _ _)).trans
    (hrelabel.mono (List.subset_append_right _ _))).setBit _ _ (List.mem_append_left _ (by decide))

/-- The relabelling of the links keeps what the package knows of itself. -/
theorem State.entered_reg {a : Nat} (ha : a ∈ [VYN_TAG_LO, VYN_TAG_HI, HUB_SYS_IDENT, VYN_IDS]) :
    (s.entered tag id uids reserved declared).reg a = (s.entering tag id uids reserved declared).reg a := by
  have hne : a ≠ VYN_SYS_STAT := by
    intro e
    subst e
    exact absurd ha (by decide)
  unfold State.entered
  rw [State.setBit_reg_ne _ _ _ _ _ hne]
  refine (State.relabelAll_step _ tag uids).kept _ (State.peerRegs_notMem _ ?_)
  simp only [List.mem_cons, List.not_mem_nil, or_false] at ha ⊢
  omega

theorem State.entered_reads (htag : tag < 2 ^ 64) (hid : id < 16) : (s.entered tag id uids reserved declared).tag = tag ∧
    (s.entered tag id uids reserved declared).pkgId = id ∧
    (∀ j, j < 16 → (s.entered tag id uids reserved declared).present j = (uids.getD j 0 != 0)) ∧
    (s.entered tag id uids reserved declared).reservedIds = reserved % 2 ^ 16 ∧
    (s.entered tag id uids reserved declared).vyn.electing = declared ∧
    (s.entered tag id uids reserved declared).bit VYN_SYS_STAT VYN_SYS_STAT_IS_MASTER = false := by
  obtain ⟨ht, hk, hp, hr⟩ := s.entering_reads tag id uids reserved declared htag hid
  have hreg := fun a ha => s.entered_reg tag id uids reserved declared (a := a) ha
  refine ⟨(State.tag_of_regs (hreg _ (by decide)) (hreg _ (by decide))).trans ht, (State.fld_of_reg _ (hreg _ (by decide))).trans hk,
    fun j hj => ?_, (State.fld_of_reg _ (hreg _ (by decide))).trans hr, ?_, ?_⟩
  · rw [State.present_of_reg (hreg _ (by decide)), hp j hj]
  · unfold State.entered
    rw [State.setBit_vyn, State.relabelAll_vyn, State.entering_vyn]
    rfl
  · unfold State.entered
    exact State.setBit_bit _ _ _ _ rfl (by decide)

theorem State.enterSystem_eq (h : s.refuseLeftOut uids = s) :
    s.enterSystem tag id uids reserved declared = (s.entered tag id uids reserved declared).unalign.sendAssign uids declared := by
  rw [State.enterSystem, h]
  rfl

end

theorem entered_frame {l : List Nat} {a b t : State} {o : Output} (ha : LinkStep l s a) (hb : AlignStep a b) (hl : VYN_SYS_STAT ∈ l)
    (ht : t = b.send o) : t = { s with regs := t.regs, vyn := t.vyn, hub := t.hub, outs := t.outs } ∧ s.regsKept t l ∧
    t.outs = s.outs ++ [o] := by
  have hstep := hb.step
  have hkept : s.regsKept t l := fun m hm => by
    rw [ht]
    exact (hstep.kept m fun e => hm (List.mem_singleton.mp e ▸ hl)).trans (ha.kept m hm)
  have hframe := hstep.silent hb.outs
  rw [hb.flowStores, hb.homeWaits] at hframe
  obtain ⟨r, v, hr⟩ : ∃ r v, a = { s with regs := r, vyn := v } := ⟨_, _, ha.frame⟩
  subst hr
  obtain ⟨r', v', x, hr⟩ : ∃ r v x, b = { s with regs := r, vyn := v, hub := x } := ⟨_, _, _, hframe⟩
  subst hr
  subst ht
  exact ⟨rfl, hkept, rfl⟩

/-- What a package shows that has taken its ID (R468, R482). -/
structure Entered (tag id : Nat) (uids : List Nat) (reserved : Nat) (declared : Bool) (s t : State) : Prop where
  hasTag : t.tag = tag
  hasId : t.pkgId = id
  present : ∀ j, j < 16 → t.present j = (uids.getD j 0 != 0)
  hasReserved : t.reservedIds = reserved % 2 ^ 16
  electing : t.vyn.electing = declared
  aligned : t.bit VYN_SYS_STAT VYN_SYS_STAT_ALIGNED = false
  master : t.bit VYN_SYS_STAT VYN_SYS_STAT_IS_MASTER = false
  outs : t.outs = s.outs ++ [.vyene "ASSIGN" 16 (tag :: (if declared then 1 else 0) :: reserved % 2 ^ 16 :: uids)]
  frame : t = { s with regs := t.regs, vyn := t.vyn, hub := t.hub, outs := t.outs }
  kept : s.regsKept t (idRegs ++ s.peerRegs)

theorem Entered.of_stages {tag id : Nat} {uids : List Nat} {reserved : Nat} {declared : Bool} {a b : State}
    (hstep : LinkStep (idRegs ++ s.peerRegs) s a) (htagA : a.tag = tag) (hidA : a.pkgId = id)
    (hpresA : ∀ j, j < 16 → a.present j = (uids.getD j 0 != 0)) (hresA : a.reservedIds = reserved % 2 ^ 16)
    (helecA : a.vyn.electing = declared) (hmastA : a.bit VYN_SYS_STAT VYN_SYS_STAT_IS_MASTER = false) (hb : b = a.unalign)
    (ht : t = b.sendAssign uids declared) : Entered tag id uids reserved declared s t := by
  have halign := a.unalign_alignStep
  have hfalse := a.unalign_aligned
  rw [← hb] at halign hfalse
  have hreg : ∀ m, m ≠ VYN_SYS_STAT → b.reg m = a.reg m := fun m hm => halign.step.kept m (by simpa using hm)
  have htagB : b.tag = tag := (State.tag_of_regs (hreg _ (by decide)) (hreg _ (by decide))).trans htagA
  have hresB : b.reservedIds = reserved % 2 ^ 16 := (State.fld_of_reg _ (hreg _ (by decide))).trans hresA
  have hsend : t = b.send (.vyene "ASSIGN" 16 (tag :: (if declared then 1 else 0) :: reserved % 2 ^ 16 :: uids)) := by
    rw [ht, State.sendAssign, htagB, hresB]
  obtain ⟨hframe, hkept, houts⟩ := entered_frame hstep halign (List.mem_append_left _ (by decide)) hsend
  have hregT : ∀ m, t.reg m = b.reg m := fun m => by
    rw [hsend]
    rfl
  have hvynT : t.vyn = b.vyn := by rw [hsend, State.send_vyn]
  refine ⟨(State.tag_of_regs (hregT _) (hregT _)).trans htagB, (State.fld_of_reg _ ((hregT _).trans (hreg _ (by decide)))).trans hidA,
    fun j hj => ?_, (State.fld_of_reg _ (hregT _)).trans hresB, ?_, (State.bit_of_reg _ (hregT _)).trans hfalse, ?_, houts, hframe, hkept⟩
  · rw [State.present_of_reg ((hregT _).trans (hreg _ (by decide))), hpresA j hj]
  · rw [hvynT, halign.vyn, helecA]
  · exact (State.bit_of_reg _ (hregT _)).trans ((halign.bit _ (by decide)).trans hmastA)

theorem State.enterSystem_entered (s : State) {tag id : Nat} {uids : List Nat} (reserved : Nat) (declared : Bool)
    (h : s.refuseLeftOut uids = s) (htag : tag < 2 ^ 64) (hid : id < 16) :
    Entered tag id uids reserved declared s (s.enterSystem tag id uids reserved declared) := by
  obtain ⟨htagA, hidA, hpresA, hresA, helecA, hmastA⟩ := s.entered_reads tag id uids reserved declared htag hid
  exact Entered.of_stages (s.entered_step tag id uids reserved declared) htagA hidA hpresA hresA helecA hmastA rfl
    (s.enterSystem_eq tag id uids reserved declared h)

/-! An assignment reaches a member (R468). -/

/-- What a member knows of the IDs once an assignment has arrived. -/
def State.assignedIds (s : State) (uids : List Nat) (reserved : BitVec 16) : State :=
  s.setPresent (s.presentIds ||| assigned uids) (maskOf ((bitsOf 16 reserved.toNat).filter (fun k => !nbit (s.presentIds ||| assigned uids) k)))

theorem State.assignedIds_reads (s : State) (uids : List Nat) (reserved : BitVec 16) {j : Nat} (hj : j < 16) :
    (s.assignedIds uids reserved).present j = (s.present j || uids.getD j 0 != 0) ∧
    nbit (s.assignedIds uids reserved).reservedIds j = (reserved.getLsbD j && !(s.present j || uids.getD j 0 != 0)) := by
  have hor : nbit (s.presentIds ||| assigned uids) j = (s.present j || uids.getD j 0 != 0) := by
    rw [nbit_or, nbit_assigned _ hj]
    rfl
  obtain ⟨hp, hr⟩ := s.setPresent_present (s.presentIds ||| assigned uids)
    (maskOf ((bitsOf 16 reserved.toNat).filter (fun k => !nbit (s.presentIds ||| assigned uids) k))) hj
  unfold State.assignedIds
  have hmem : j ∈ (bitsOf 16 reserved.toNat).filter (fun k => !nbit (s.presentIds ||| assigned uids) k) ↔
      (reserved.getLsbD j && !(s.present j || uids.getD j 0 != 0)) = true := by
    rw [List.mem_filter, mem_bitsOf, hor, and_iff_right hj, nbit_eq_testBit, Bool.and_eq_true]
    rfl
  refine ⟨hp.trans hor, hr.trans ?_⟩
  rw [nbit_maskOf]
  simp only [hmem, Bool.decide_eq_true]

/-- What a member shows after an assignment. -/
structure Assigned (uids : List Nat) (reserved : BitVec 16) (s t : State) : Prop where
  present : ∀ j, j < 16 → t.present j = (s.present j || uids.getD j 0 != 0)
  hasReserved : ∀ j, j < 16 → nbit t.reservedIds j = (reserved.getLsbD j && !t.present j)
  frame : t = { s with regs := t.regs, vyn := t.vyn }
  kept : s.regsKept t ([VYN_IDS, VYN_SYS_STAT] ++ s.peerRegs)

theorem Assigned.of_stages {tag : Nat} {uids : List Nat} {reserved : BitVec 16} {a : State} (ha : a = s.assignedIds uids reserved)
    (ht : t = a.relabelAll tag uids) : Assigned uids reserved s t := by
  have hreads := fun j (hj : j < 16) => s.assignedIds_reads uids reserved hj
  have hstep : LinkStep [VYN_IDS, VYN_SYS_STAT] s (s.assignedIds uids reserved) := by
    unfold State.assignedIds
    exact (LinkStep.refl _ s).setPresent _ _ (by simp) (by simp)
  have hvyn : (s.assignedIds uids reserved).vyn = s.vyn := by
    unfold State.assignedIds
    exact State.setPresent_vyn _ _ _
  rw [← ha] at hreads hstep hvyn
  have hrelabel := a.relabelAll_step tag uids
  rw [← ht] at hrelabel
  have hpeers : a.peerRegs = s.peerRegs := by
    unfold State.peerRegs
    rw [hvyn]
  rw [hpeers] at hrelabel
  have hids : t.reg VYN_IDS = a.reg VYN_IDS := hrelabel.kept _ (s.peerRegs_notMem (by decide))
  have hall := (hstep.mono (List.subset_append_left _ s.peerRegs)).trans (hrelabel.mono (List.subset_append_right _ _))
  have hpres : ∀ j, j < 16 → t.present j = (s.present j || uids.getD j 0 != 0) := fun j hj => by
    rw [State.present_of_reg hids, (hreads j hj).1]
  have hres : t.reservedIds = a.reservedIds := State.fld_of_reg _ hids
  refine ⟨hpres, fun j hj => ?_, hall.frame, hall.kept⟩
  rw [hres, (hreads j hj).2, hpres j hj]

/-! Joining (R470). -/

/-- What a package joins as. -/
def joinedAs (x : Identity) (tag k : Nat) : Identity := { x with tag := tag, id := Fin.ofNat 16 k }

theorem State.learn_present (s : State) (x : Identity) (hs : s.tag ≠ 0) (hx : x.tag = s.tag) {j : Nat} (hj : j < 16) :
    (s.learn x).present j = if j = x.id.val then true else s.present j := by
  rw [State.learn_eq, if_pos ⟨hs, hx⟩, (State.setPresent_present _ _ _ hj).1, nbit_setNBit]
  rfl

theorem State.uidsById_send (s : State) (o : Output) : (s.send o).uidsById = s.uidsById := rfl

theorem State.reservedIds_send (s : State) (o : Output) : (s.send o).reservedIds = s.reservedIds := rfl

theorem State.send_frame_of_link {l : List Nat} {a : State} {o : Output} (ha : LinkStep l s a) (ht : t = a.send o) :
    t = { s with regs := t.regs, vyn := t.vyn, outs := t.outs } ∧ s.regsKept t l ∧ t.outs = s.outs ++ [o] := by
  have hkept : s.regsKept t l := fun m hm => by
    rw [ht]
    exact ha.kept m hm
  obtain ⟨r, v, hr⟩ : ∃ r v, a = { s with regs := r, vyn := v } := ⟨_, _, ha.frame⟩
  subst hr
  subst ht
  exact ⟨rfl, hkept, rfl⟩

/-- What the master shows that has given a joiner an ID. -/
structure Admitted (x : Identity) (k : Nat) (s t : State) : Prop where
  present : t.present k = true
  others : ∀ j, j < 16 → j ≠ k → t.present j = s.present j
  known : joinedAs x s.tag k ∈ t.vyn.known
  outs : t.outs = s.outs ++ [.vyene "ASSIGN" 16 (s.tag :: 0 :: t.reservedIds :: t.uidsById)]
  frame : t = { s with regs := t.regs, vyn := t.vyn, outs := t.outs }
  kept : s.regsKept t ([VYN_IDS, VYN_SYS_STAT] ++ s.peerRegs)

theorem Admitted.of_stages {x : Identity} {k : Nat} {a b : State} (hs : s.tag ≠ 0) (hk : k < 16) (ha : a = s.learn (joinedAs x s.tag k))
    (hb : b = a.judgeLinks) (ht : t = b.sendAssign b.uidsById false) : Admitted x k s t := by
  have hid : (joinedAs x s.tag k).id.val = k := Nat.mod_eq_of_lt hk
  have hpresent := fun j (hj : j < 16) => s.learn_present (joinedAs x s.tag k) hs rfl hj
  have hvyn := s.learn_vyn (joinedAs x s.tag k)
  have hlearn := (LinkStep.refl [VYN_IDS, VYN_SYS_STAT] s).learn (joinedAs x s.tag k) (by simp) (by simp)
  rw [← ha] at hpresent hvyn hlearn
  rw [hid] at hpresent
  have hjudge := a.judgeLinks_step
  have hvynB := a.judgeLinks_vyn
  rw [← hb] at hjudge hvynB
  have hpeers : a.peerRegs = s.peerRegs := by
    unfold State.peerRegs
    rw [hvyn]
    rfl
  rw [hpeers] at hjudge
  have hall := (hlearn.mono (List.subset_append_left _ s.peerRegs)).trans (hjudge.mono (List.subset_append_right _ _))
  have htag : b.tag = s.tag := State.tag_of_kept hall.kept fun m hm => by
    simp only [selfRegs, List.mem_cons, List.not_mem_nil, or_false] at hm
    rw [List.mem_append, not_or]
    rcases hm with rfl | rfl | rfl | rfl <;> exact ⟨by decide, s.peerRegs_notMem (by decide)⟩
  have hids : b.reg VYN_IDS = a.reg VYN_IDS := hjudge.kept _ (s.peerRegs_notMem (by decide))
  have hsend : t = b.send (.vyene "ASSIGN" 16 (s.tag :: 0 :: b.reservedIds :: b.uidsById)) := by
    rw [ht, State.sendAssign, htag]
    rfl
  obtain ⟨hframe, hkept, houts⟩ := State.send_frame_of_link hall hsend
  have hregT : ∀ m, t.reg m = b.reg m := fun m => by
    rw [hsend]
    rfl
  have hpresT : ∀ j, j < 16 → t.present j = if j = k then true else s.present j := fun j hj => by
    rw [State.present_of_reg ((hregT _).trans hids), hpresent j hj]
  refine ⟨(hpresT k hk).trans (if_pos rfl), fun j hj hne => (hpresT j hj).trans (if_neg hne), ?_, ?_, hframe, hkept⟩
  · rw [hsend, State.send_vyn, hvynB, hvyn]
    exact List.mem_append_right _ (List.mem_singleton_self _)
  · have hres : t.reservedIds = b.reservedIds := by rw [hsend, State.reservedIds_send]
    have huids : t.uidsById = b.uidsById := by rw [hsend, State.uidsById_send]
    rw [hres, huids, houts]

/-! RELEASE (R471). -/

theorem exec_release (port : PortNo) (id : PkgNo) (h : s.reaches VYN_CMD) : exec (.release port id) s = .next (s.releaseId port.val id.val) :=
  congrArg Host.Outcome.next (s.reach_open port.val _ _ h.1 h.2)

/-- An ID that is no longer reserved. -/
def State.released (s : State) (id : Nat) : State := s.setFld VYN_IDS VYN_IDS_RESERVED (setNBit s.reservedIds id false)

theorem State.released_reads (s : State) (id : Nat) :
    (∀ j, j < 16 → nbit (s.released id).reservedIds j = if j = id then false else nbit s.reservedIds j) ∧
    (s.released id).presentIds = s.presentIds ∧ LinkStep [VYN_IDS] s (s.released id) := by
  unfold State.released
  exact ⟨fun j hj => s.setFld_setNBit_fbit _ VYN_IDS_RESERVED id j false (by decide) (by decide) hj,
    State.setFld_fld_apart _ _ _ _ _ (by decide), (LinkStep.refl _ s).setFld _ _ (by simp)⟩

theorem State.releaseId_present {port id : Nat} (h : s.present id = true) : s.releaseId port id = s.violation 0x01 port 0 id VYN_CMD := by
  rw [State.releaseId, if_pos h]

/-- What RELEASE of an ID that is not present leaves. -/
structure Released (id : Nat) (s t : State) : Prop where
  free : ∀ j, j < 16 → nbit t.reservedIds j = if j = id then false else nbit s.reservedIds j
  present : t.presentIds = s.presentIds
  told : s.tag ≠ 0 → t.outs = s.outs ++ [.vyene "ASSIGN" 16 (s.tag :: 0 :: t.reservedIds :: t.uidsById)]
  quiet : s.tag = 0 → t.outs = s.outs
  frame : t = { s with regs := t.regs, outs := t.outs }
  kept : s.regsKept t [VYN_IDS]

theorem Released.of_stages {port id : Nat} {a : State} (h : s.present id = false) (ha : a = s.released id) (ht : t = s.releaseId port id) :
    Released id s t := by
  obtain ⟨hfree, hpresent, hstep⟩ := s.released_reads id
  have hregs : s.regsOnly (s.released id) := s.setFld_regsOnly _ _ _
  rw [← ha] at hfree hpresent hstep hregs
  have htag : a.tag = s.tag := State.tag_of_kept hstep.kept (by decide)
  have heq : t = if s.tag = 0 then a else a.sendAssign a.uidsById false := by
    rw [ht, State.releaseId, if_neg (by rw [h]; decide), ha]
    rfl
  by_cases h0 : s.tag = 0
  · rw [if_pos h0] at heq
    subst heq
    refine ⟨hfree, hpresent, fun hne => absurd h0 hne, fun _ => hstep.outs, ?_, hstep.kept⟩
    rw [hstep.outs]
    exact hregs
  · rw [if_neg h0, State.sendAssign, htag] at heq
    obtain ⟨r, hr⟩ : ∃ r, a = { s with regs := r } := ⟨_, hregs⟩
    have hres : t.reservedIds = a.reservedIds := by rw [heq, State.reservedIds_send]
    have huids : t.uidsById = a.uidsById := by rw [heq, State.uidsById_send]
    have hpres : t.presentIds = a.presentIds := by
      rw [heq]
      rfl
    obtain ⟨-, hkept, houts⟩ := State.send_frame_of_link hstep heq
    refine ⟨fun j hj => (congrArg (nbit · j) hres).trans (hfree j hj), hpres.trans hpresent, fun _ => ?_, fun h => absurd h h0, ?_, hkept⟩
    · rw [hres, huids, houts]
      rfl
    · subst hr
      subst heq
      rfl

/-! The commands. -/

theorem exec_systemDeclare {others : List Nat} (hothers : others = (s.vyn.known.filter (fun x => x.tag == 0)).map (·.uid)) (w : Nat)
    (hleast : ∀ u ∈ others, Config.uid.toNat < u) (hne : others ≠ []) (htag : s.tag = 0) : exec (.systemDeclare w) s = .next (
    if s.vyn.learnedAt + 1048576 ≤ w then s.enterSystem Config.uid.toNat 0 ((sortNats (Config.uid.toNat :: others)).take 16) 0 true else s) := by
  have harm : exec (.systemDeclare w) s = execSystemDeclare w s := rfl
  rw [harm, execSystemDeclare, ← hothers]
  have hall : others.all (fun u => decide (Config.uid.toNat < u)) = true := List.all_eq_true.mpr fun u hu => decide_eq_true (hleast u hu)
  by_cases hw : s.vyn.learnedAt + 1048576 ≤ w
  · rw [if_pos ⟨htag, hne, hall, hw⟩, if_pos hw]
  · rw [if_neg (fun h => hw h.2.2.2), if_neg hw]

/-- No link is refused when every untagged package that a link leads to is assigned an ID. -/
theorem State.refuseLeftOut_eq {uids : List Nat} (h : ∀ p ∈ s.vyn.peers, ∀ x ∈ s.vyn.known, x.uid = p.2 → x.tag = 0 → p.2 ∈ uids) :
    s.refuseLeftOut uids = s := by
  have hnil : s.vyn.peers.filter (fun p => !uids.contains p.2 && s.vyn.known.any (fun x => x.uid == p.2 && x.tag == 0)) = [] := by
    rw [List.filter_eq_nil_iff]
    intro p hp hbad
    simp only [Bool.and_eq_true, Bool.not_eq_true', List.contains_eq_mem, decide_eq_false_iff_not, List.any_eq_true, beq_iff_eq] at hbad
    obtain ⟨hnot, x, hx, huid, htag⟩ := hbad
    exact hnot (h p hp x hx huid htag)
  rw [State.refuseLeftOut, hnil]
  rfl

theorem exec_idAssignment_enter {tag : Nat} {uids : List Nat} {k : Nat} (reserved : BitVec 16) (declared : Bool) (htag : s.tag = 0)
    (hpos : 0 < tag) (hlen : uids.length = 16) (hk : k < 16) (hown : uids.getD k 0 = Config.uid.toNat)
    (hfirst : ∀ j, j < k → uids.getD j 0 ≠ Config.uid.toNat) :
    exec (.idAssignment tag uids reserved declared) s = .next (s.enterSystem tag k uids reserved.toNat declared) := by
  have harm : exec (.idAssignment tag uids reserved declared) s = execIdAssignment tag uids reserved declared s := rfl
  have hfind : (List.range 16).find? (fun k => uids.getD k 0 == Config.uid.toNat) = some k := by
    rw [List.find?_range_eq_some]
    exact ⟨by simpa using hown, List.mem_range.mpr hk, fun j hj => by simpa using hfirst j hj⟩
  rw [harm, execIdAssignment, if_neg (by omega), if_neg (by omega), if_pos htag, hfind]
  dsimp only
  rw [List.take_of_length_le hlen.le]

theorem exec_idAssignment_member {tag : Nat} (uids : List Nat) (reserved : BitVec 16) (declared : Bool) (hne : s.tag ≠ 0)
    (htag : tag = s.tag) : exec (.idAssignment tag uids reserved declared) s = .next ((s.assignedIds uids reserved).relabelAll tag uids) := by
  have harm : exec (.idAssignment tag uids reserved declared) s = execIdAssignment tag uids reserved declared s := rfl
  rw [harm, execIdAssignment, if_neg (by omega), if_pos htag.symm]
  rfl

section

variable {n : LinkNo} {x : Identity} (htag : s.tag ≠ 0) (hup : s.bit (VYN_LINK n.val) VYN_LINK_UP = true)
include htag hup

theorem exec_systemJoin_refused (m : LinkNo) : exec (.systemJoin n x (some m)) s = .next (s.event codeSystemFull 7 m.val 0 0) := by
  have harm : exec (.systemJoin n x (some m)) s = execSystemJoin n x (some m) s := rfl
  rw [harm, execSystemJoin, if_neg (by rw [hup]; simp [htag])]

variable (hx : x.tag = 0)
include hx

theorem exec_systemJoin_none : exec (.systemJoin n x none) s = .next (if s.freeId = none ∧ s.hasId x.uid = false then
    (if s.vyn.peers.contains (n, x.uid) then s.refuseLink n.val else s)
    else if s.isMaster then s.admitPackage x (s.freeId.getD 0)
    else s.send (.vyene "JOIN" (s.fld VYN_SYS_STAT VYN_SYS_STAT_MASTER_ID) [x.uid, if x.eligible then 1 else 0, x.priority])) := by
  have harm : exec (.systemJoin n x none) s = execSystemJoin n x none s := rfl
  rw [harm, execSystemJoin, if_neg (by rw [hup]; simp [htag])]
  rw [if_neg (not_not.mpr hx)]
  cases s.freeId with
  | some k => cases s.isMaster <;> rfl
  | none =>
    cases s.hasId x.uid with
    | false => rfl
    | true => cases s.isMaster <;> rfl

end

/-! The obligation. -/

/-- Settles O56: who enters a system, takes an assignment or is admitted writes its own registers and those of the links whose far ends it
knows, in stages. -/
theorem packagesTakeTheirIds : Obligations.PackagesTakeTheirIds := by
  unfold Obligations.PackagesTakeTheirIds
  intro n port tag w uids reserved declared x id s
  refine ⟨fun others hothers huid hleast hne hlen htag => ⟨fun hw => ?_, fun hw => ?_⟩,
    fun hpeers htag hpos hlt huid hlen k hk hown hfirst => ?_, fun hne htag => ?_,
    fun hne hup => ⟨fun m => exec_systemJoin_refused hne hup m, fun hx => ⟨fun k hno hfree hm => ?_, fun hhas hm => ?_, fun hfree hm => ?_,
      fun hno hfree hpeer => ?_⟩⟩, fun h => ⟨fun hp => ?_, fun hp => ?_⟩⟩
  · exact (exec_systemDeclare hothers w hleast hne htag).trans (congrArg _ (if_neg (by omega)))
  · have huids : (sortNats (Config.uid.toNat :: others)).take 16 = sortNats (Config.uid.toNat :: others) :=
      List.take_of_length_le ((sortNats_length _).trans (by rw [List.length_cons]; omega))
    have hrefuse : s.refuseLeftOut (sortNats (Config.uid.toNat :: others)) = s := State.refuseLeftOut_eq fun p _ y hy hyu hyt => by
      refine mem_sortNats.mpr (List.mem_cons_of_mem _ ?_)
      rw [hothers]
      exact List.mem_map.mpr ⟨y, List.mem_filter.mpr ⟨hy, by simpa using hyt⟩, hyu⟩
    have hent := s.enterSystem_entered (id := 0) 0 true hrefuse Config.uid.isLt (by decide)
    refine ⟨_, (exec_systemDeclare hothers w hleast hne htag).trans (congrArg _ ((if_pos hw).trans (by rw [huids]))), hent.hasTag, hent.hasId, ?_,
      hent.electing, hent.aligned, hent.outs, hent.frame, hent.kept⟩
    rw [hent.present 0 (by decide), sortNats_least hleast]
    simpa using huid
  · have hent := s.enterSystem_entered reserved.toNat declared (State.refuseLeftOut_eq fun p hp _ _ _ _ => hpeers p hp) hlt hk
    exact ⟨_, exec_idAssignment_enter reserved declared htag hpos hlen hk hown hfirst, hent.hasTag, hent.hasId, hent.present,
      hent.hasReserved.trans (Nat.mod_eq_of_lt reserved.isLt), hent.electing, hent.aligned, hent.master, hent.frame, hent.kept⟩
  · have hass := Assigned.of_stages (s := s) (tag := tag) (uids := uids) (reserved := reserved) rfl rfl
    exact ⟨_, exec_idAssignment_member uids reserved declared hne htag, fun j hj => ⟨hass.present j hj, hass.hasReserved j hj⟩, hass.frame,
      hass.kept⟩
  · have hk : k < 16 := List.mem_range.mp (List.mem_of_find?_eq_some hfree)
    have hadm := Admitted.of_stages (x := x) hne hk rfl rfl rfl
    refine ⟨_, (exec_systemJoin_none hne hup hx).trans (congrArg _ ?_), hadm.present, hadm.others, hadm.known, hadm.outs, hadm.frame, hadm.kept⟩
    rw [hfree, if_neg (by simp), if_pos hm, State.admitPackage, hno]
    rfl
  · refine (exec_systemJoin_none hne hup hx).trans (congrArg _ ?_)
    rw [if_neg (by simp [hhas]), if_pos hm, State.admitPackage, hhas]
    rfl
  · refine (exec_systemJoin_none hne hup hx).trans (congrArg _ ?_)
    rw [if_neg (fun h => by simp [h] at hfree), hm]
    rfl
  · refine (exec_systemJoin_none hne hup hx).trans (congrArg _ ?_)
    rw [if_pos ⟨hfree, hno⟩, hpeer]
    rfl
  · have hrel := Released.of_stages (port := port.val) hp rfl rfl
    exact ⟨_, exec_release port id h, (hrel.free id.val id.isLt).trans (if_pos rfl), fun j hj hne => (hrel.free j hj).trans (if_neg hne),
      hrel.present, hrel.told, hrel.quiet, hrel.frame, hrel.kept⟩
  · exact (exec_release port id h).trans (congrArg _ (State.releaseId_present hp))

end Sys2Proof.Machine
end

section
/-! SUPPORT. The coherence of the shared flow space: the tables of lines, the home's copy, and what serving a request comes to
(R335, R336, R487-R491, Table 18-1). -/

namespace Sys2Proof.Machine

variable {s t : State}

/-! The line that a snoop waits for (R489). -/

theorem tdel_map {α β : Type} (f : α → β) (t : Tbl α) (n : Nat) :
    (tdel t n).map (fun x => (x.1, f x.2)) = tdel (t.map (fun x => (x.1, f x.2))) n := by
  induction t with
  | nil => rfl
  | cons y t ih =>
    obtain ⟨k, v⟩ := y
    rw [List.map_cons, tdel, tdel]
    split
    · exact ih
    · rw [List.map_cons, ih]

theorem tins_map {α β : Type} (f : α → β) (t : Tbl α) (n : Nat) (x : α) :
    (tins t n x).map (fun x => (x.1, f x.2)) = tins (t.map (fun x => (x.1, f x.2))) n (f x) := by
  induction t with
  | nil => rfl
  | cons y t ih =>
    obtain ⟨k, v⟩ := y
    rw [List.map_cons, tins, tins]
    split
    · rw [List.map_cons, ih]
    · rfl

section

variable (s) (l : Nat)

theorem State.clearBusy_busyOf : (s.clearBusy l).busyOf l = none := by
  unfold State.busyOf State.clearBusy
  rw [tdel_map, tget_tdel_same]

theorem State.clearBusy_busyOf_ne {k : Nat} (hk : k ≠ l) : (s.clearBusy l).busyOf k = s.busyOf k := by
  unfold State.busyOf State.clearBusy
  rw [tdel_map, tget_tdel_ne _ _ hk.symm]

theorem State.setBusy_busyOf (x : HomeBusy) : (s.setBusy l x).busyOf l = some x := by
  unfold State.busyOf State.setBusy
  rw [tins_map, tdel_map, tget_tins_same _ _ _ _ (tdel_keys _ _)]

theorem State.setBusy_busyOf_ne (x : HomeBusy) {k : Nat} (hk : k ≠ l) : (s.setBusy l x).busyOf k = s.busyOf k := by
  unfold State.busyOf State.setBusy
  rw [tins_map, tdel_map, tget_tins_ne _ _ _ hk.symm, tget_tdel_ne _ _ hk.symm]

/-! Poison, and the home's copy of a line (R335, R336). -/

theorem State.setPoison_poisoned (a : Nat) (b : Bool) : (s.setPoison a b).poisoned a = b := tget_tput_same _ _ _ _

theorem State.setPoison_poisoned_ne (a : Nat) (b : Bool) {k : Nat} (hk : a / 64 ≠ k / 64) : (s.setPoison a b).poisoned k = s.poisoned k :=
  tget_tput_ne _ _ _ hk

/-- The lines of the shared flow space are not those in which a home holds them. -/
theorem lineAddr_ne_homeAddr (l k : Nat) : lineAddr l / 64 ≠ homeAddr k / 64 := by
  unfold lineAddr homeAddr
  omega

theorem State.homeData_of_kept (hm : t.mem = s.mem) (hp : t.poisoned (homeAddr l) = s.poisoned (homeAddr l)) : t.homeData l = s.homeData l := by
  unfold State.homeData State.bytesAt
  rw [hm, hp]

theorem State.dropLine_homeData (x : CacheLine) (k : Nat) : (s.dropLine l x).homeData k = s.homeData k :=
  State.homeData_of_kept s k rfl (State.setPoison_poisoned_ne _ _ _ (lineAddr_ne_homeAddr l k))

theorem addrKind_homeAddr : addrKind (homeAddr l) = .unmapped := by
  have h : 0x30201A00000 ≤ homeAddr l ∧ homeAddr l < 0x30201E00000 := by
    unfold homeAddr
    omega
  unfold addrKind
  generalize homeAddr l = a at h
  repeat rw [if_neg (by omega)]

theorem State.segTouch_homeAddr (old : List Byte) : s.segTouch (homeAddr l) old = s := by
  rw [State.segTouch, addrKind_homeAddr]

theorem State.setHomeData_data_frame (d : List Byte) :
    s.setHomeData l (.data d) = { s with mem := (s.setHomeData l (.data d)).mem, poison := (s.setHomeData l (.data d)).poison } := by
  rw [State.setHomeData, State.putBytes, State.segTouch_homeAddr]
  rfl

theorem tgets_tputs_self {α : Type} [DecidableEq α] (d : Nat → α) (t : Tbl α) (n : Nat) (l : List α) :
    tgets d (tputs d t n l) n l.length = l := by
  refine List.ext_getElem (tgets_length _ _ _ _) fun i hi hl => ?_
  have hget := tgets_getD d (tputs d t n l) l[i] l.length n i hl
  rw [List.getD_eq_getElem _ _ hi] at hget
  rw [hget, tget_tputs d l l[i], if_pos ⟨by omega, by omega⟩, Nat.add_sub_cancel_left, List.getD_eq_getElem _ _ hl]

theorem State.setHomeData_homeData {d : List Byte} (hd : d.length = 64) : (s.setHomeData l (.data d)).homeData l = .data d := by
  have htake : d.take 64 = d := List.take_of_length_le hd.le
  have hp : (s.setHomeData l (.data d)).poisoned (homeAddr l) = false := by
    unfold State.setHomeData
    exact State.setPoison_poisoned _ _ _
  have hm : (s.setHomeData l (.data d)).mem = tputs (fun _ => (0 : Byte)) s.mem (homeAddr l) d := by
    refine (State.putBytes_mem _ _ _).trans ?_
    rw [htake]
  rw [State.homeData, hp, State.bytesAt, hm, ← hd, tgets_tputs_self]
  rfl

end

/-! Messages. -/

theorem foldl_send {α : Type} (f : α → Output) (l : List α) (s : State) :
    l.foldl (fun u k => u.send (f k)) s = { s with outs := s.outs ++ l.map f } := by
  induction l generalizing s with
  | nil => rw [List.foldl_nil, List.map_nil, List.append_nil]
  | cons k l ih =>
    rw [List.foldl_cons, ih, List.map_cons]
    simp only [State.send, List.append_assoc, List.singleton_append]

/-! The home serves a request of another package (Table 18-1). -/

theorem State.meetLine_nil (s : State) (l : Nat) : s.meetLine l [] = s := by
  have hread : ∀ a, s.eccRead a [] 1 = s := fun a => rfl
  unfold State.meetLine
  dsimp only
  rw [hread, ite_self, hread, ite_self]

section

variable (s) {r l : Nat} (hr : r ≠ s.pkgId)
include hr

theorem State.grantShared_other (mask : Nat) : s.grantShared l r mask =
    ((s.clearBusy l).setDir l (.s (setNBit mask r true))).send (.coherence "DATA_S" r l (s.homeData l)) := by
  rw [State.grantShared, if_neg hr]

theorem State.grantExclusive_other (upgrade : Bool) : s.grantExclusive l r upgrade = ((s.clearBusy l).setDir l (.x r)).send
    (.coherence (if upgrade then "GRANT_X" else "DATA_X") r l (if upgrade then noData else s.homeData l)) := by
  rw [State.grantExclusive, if_neg hr]

theorem State.homeReadS_shared {m : Nat} (h : s.dirOf l = .s m ∨ (s.dirOf l = .i ∧ m = 0)) : s.homeReadS r l =
    ((s.clearBusy l).setDir l (.s (setNBit m r true))).send (.coherence "DATA_S" r l (s.homeData l)) := by
  unfold State.homeReadS
  rcases h with h | ⟨h, rfl⟩
  · rw [h]
    exact s.grantShared_other hr m
  · rw [h]
    exact s.grantShared_other hr 0

omit hr in
theorem State.homeReadS_owned {o : Nat} (h : s.dirOf l = .x o) (ho : o ≠ s.pkgId) : s.homeReadS r l =
    (s.setBusy l { requester := r, exclusive := false, toAnswer := 2 ^ o }).send (.coherence "FWD_S" o l noData) := by
  rw [State.homeReadS, h]
  exact if_neg ho

omit hr in
theorem State.homeReadX_owned {o : Nat} (h : s.dirOf l = .x o) (ho : o ≠ s.pkgId) : s.homeReadX r l =
    (s.setBusy l { requester := r, exclusive := true, toAnswer := 2 ^ o }).send (.coherence "FWD_X" o l noData) := by
  rw [State.homeReadX, h]
  exact if_neg ho

theorem State.homeReadX_free (h : s.dirOf l = .i) : s.homeReadX r l =
    ((s.clearBusy l).setDir l (.x r)).send (.coherence "DATA_X" r l (s.homeData l)) := by
  rw [State.homeReadX, h]
  exact s.grantExclusive_other hr false

omit hr in
theorem State.homeReadX_shared {m : Nat} (h : s.dirOf l = .s m) : s.homeReadX r l = s.homeInvalidate r l m false := by
  rw [State.homeReadX, h]

omit hr in
theorem State.homeUpgrade_shared {m : Nat} (h : s.dirOf l = .s m) (hm : nbit m r = true) :
    s.homeUpgrade r l = s.homeInvalidate r l m true := by
  rw [State.homeUpgrade, h]
  exact if_pos hm

end

/-- The sharers in a mask but the requester and the home. -/
def sharersBut (m r p : Nat) : List Nat := bitsOf 16 (setNBit (setNBit m r false) p false)

theorem sharersBut_eq (m r p : Nat) : sharersBut m r p = (bitsOf 16 m).filter (fun k => k ≠ r ∧ k ≠ p) := by
  unfold sharersBut bitsOf
  rw [List.filter_filter]
  refine List.filter_congr fun k _ => ?_
  rw [nbit_setNBit, nbit_setNBit]
  by_cases hp : k = p
  · simp [hp]
  · by_cases hr : k = r
    · simp [hr]
    · simp [hp, hr]

theorem bitsOf_maskOf_sharersBut (m r p : Nat) : bitsOf 16 (maskOf (sharersBut m r p)) = sharersBut m r p := by
  have hbits : ∀ v, bitsOf 16 (maskOf (bitsOf 16 v)) = bitsOf 16 v := fun v => by
    refine List.filter_congr fun k hk => ?_
    rw [nbit_maskOf]
    have hmem : k ∈ bitsOf 16 v ↔ nbit v k = true := by
      rw [mem_bitsOf, and_iff_right (List.mem_range.mp hk)]
    simp only [hmem, Bool.decide_eq_true]
  exact hbits _

/-- The home drops its own copy of a line that it shares. -/
def State.ownDropped (s : State) (r l m : Nat) : State := if nbit m s.pkgId && r != s.pkgId then s.dropLine l {} else s

theorem State.homeInvalidate_granted (s : State) {r l m : Nat} (hr : r ≠ s.pkgId) (upgrade : Bool) (h : sharersBut m r s.pkgId = []) :
    s.homeInvalidate r l m upgrade = ((((s.ownDropped r l m).clearBusy l).setDir l (.x r)).send
      (.coherence (if upgrade then "GRANT_X" else "DATA_X") r l (if upgrade then noData else s.homeData l))) := by
  have hempty : (sharersBut m r s.pkgId).isEmpty = true := by rw [h, List.isEmpty_nil]
  have hpkg : (s.ownDropped r l m).pkgId = s.pkgId := by
    unfold State.ownDropped
    split
    · rfl
    · rfl
  have hdata : (s.ownDropped r l m).homeData l = s.homeData l := by
    unfold State.ownDropped
    split
    · exact s.dropLine_homeData l {} l
    · rfl
  have hother : r ≠ (s.ownDropped r l m).pkgId := by
    rw [hpkg]
    exact hr
  rw [← hdata]
  exact (if_pos hempty).trans (State.grantExclusive_other _ hother upgrade)

theorem State.homeInvalidate_waits (s : State) {r l m : Nat} (upgrade : Bool) (h : sharersBut m r s.pkgId ≠ []) :
    s.homeInvalidate r l m upgrade = (sharersBut m r s.pkgId).foldl (fun u k => u.send (.coherence "INV" k l noData))
      ((s.ownDropped r l m).setBusy l
        { requester := r, exclusive := true, toAnswer := maskOf (sharersBut m r s.pkgId), upgrade := upgrade }) := by
  refine if_neg ?_
  rw [List.isEmpty_iff]
  exact h

/-! Requests that reach the home. -/

/-- A request no longer waits. -/
def State.unqueued (s : State) (w : HomeWait) : State := { s with homeWaits := s.homeWaits.filter (fun x => x != w) }

theorem State.homeRequest_served (s : State) {r l : Nat} {q : HomeReq} (h : s.busyOf l = none) :
    s.homeRequest r l q = (s.unqueued ⟨l, r, q⟩).homeServe r l q := by
  rw [State.homeRequest, h]
  rfl

theorem State.homeRequest_waits (s : State) {r l : Nat} {q : HomeReq} (h : s.busyOf l ≠ none) : s.homeRequest r l q =
    (if s.homeWaits.contains ⟨l, r, q⟩ then s else { s with homeWaits := s.homeWaits ++ [⟨l, r, q⟩] }) := by
  rw [State.homeRequest]
  exact if_pos (Option.isSome_iff_ne_none.mpr h)

/-! The cache (R336, R488). -/

theorem State.makeRoom_room (s : State) {l : Nat} (h : (s.waysTaken l).length < 16) : s.makeRoom l = s := by
  rw [State.makeRoom]
  exact if_pos h

/-- A line has entered the cache. -/
structure Filled (l : Nat) (st : LineState) (data : List Byte) (poison : Bool) (s t : State) : Prop where
  line : t.cline l = { st := st, data := data }
  isPoisoned : t.poisoned (lineAddr l) = poison
  roomy : (s.waysTaken l).length < 16 → (∀ k, k ≠ l → t.cline k = s.cline k) ∧ t = { s with cache := t.cache, poison := t.poison }
  stores : t.flowStores = s.flowStores

theorem State.setHomeData_flowStores (s : State) (l : Nat) (d : Payload) : (s.setHomeData l d).flowStores = s.flowStores := by
  cases d with
  | data d => exact State.putBytes_flowStores _ _ _
  | poisoned => rfl
  | error => rfl

theorem State.dropLine_flowStores (s : State) (l : Nat) (x : CacheLine) : (s.dropLine l x).flowStores = s.flowStores := rfl

theorem State.evictOwn_flowStores (s : State) (l : Nat) (dirty : Bool) : (s.evictOwn l dirty).flowStores = s.flowStores := by
  unfold State.evictOwn
  split
  · rw [State.dropLine_flowStores, State.setDir_flowStores]
    split
    · exact s.setHomeData_flowStores _ _
    · rfl
  · rw [State.send_flowStores, State.dropLine_flowStores]

theorem State.makeRoom_flowStores (s : State) (l : Nat) : (s.makeRoom l).flowStores = s.flowStores := by
  unfold State.makeRoom
  dsimp only
  split
  · rfl
  · rw [State.useFree_flowStores, State.evict]
    split
    · exact s.evictOwn_flowStores _ _
    · exact s.evictOwn_flowStores _ _
    · exact s.dropLine_flowStores _ _
    · rfl

/-- A line enters the cache with its data and its poison. -/
theorem Filled.of_room {l : Nat} {st : LineState} {d : List Byte} {poison : Bool} (s : State)
    (ht : t = ((s.makeRoom l).setCline l { st := st, data := d }).setPoison (lineAddr l) poison) : Filled l st d poison s t := by
  have hstores := s.makeRoom_flowStores l
  have hroom := s.makeRoom_room (l := l)
  generalize s.makeRoom l = u at ht hstores hroom
  subst ht
  refine ⟨State.setCline_cline u l { st := st, data := d }, State.setPoison_poisoned _ _ _, fun h => ?_, hstores⟩
  rw [hroom h]
  exact ⟨fun k hk => State.setCline_cline_ne s l _ k hk, rfl⟩

theorem State.fillLine_data (s : State) (l : Nat) (st : LineState) {d : List Byte} (hd : d.length = 64) :
    Filled l st d false s (s.fillLine l st (.data d)) := by
  refine Filled.of_room s ?_
  have htake : d.take 64 = d := List.take_of_length_le hd.le
  rw [State.fillLine, htake]

theorem State.fillLine_poisoned (s : State) (l : Nat) (st : LineState) :
    Filled l st (List.replicate 64 0) true s (s.fillLine l st .poisoned) := Filled.of_room s rfl

/-! The writes that wait for a line (R451, R488). -/

theorem State.storesGo_none (s : State) {l : Nat} (h : s.storeWaits l = false) : s.storesGo l = s := by
  have hany : ∀ x ∈ s.flowStores, ¬ (x.line == l) = true := List.any_eq_false.mp h
  have hnone : s.flowStores.filter (fun x => x.line == l) = [] := List.filter_eq_nil_iff.mpr hany
  have hall : s.flowStores.filter (fun x => x.line != l) = s.flowStores :=
    List.filter_eq_self.mpr fun x hx => by simpa using hany x hx
  unfold State.storesGo
  split
  · rfl
  · rfl
  · rw [hnone, hall]
    rfl

theorem State.flowPut_st (s : State) (x : FlowStore) : ((s.flowPut x).cline x.line).st = .m := by
  have hput : ((s.setCline x.line { s.cline x.line with st := .m, data := patchLine (s.cline x.line).data x.off x.data }).cline x.line).st = .m :=
    congrArg CacheLine.st (State.setCline_cline _ _ _)
  unfold State.flowPut
  dsimp only
  split
  · exact hput
  · split
    · exact hput
    · exact hput

theorem State.flowPut_flowStores (s : State) (x : FlowStore) : (s.flowPut x).flowStores = s.flowStores := by
  unfold State.flowPut
  dsimp only
  split
  · rfl
  · split
    · rfl
    · rfl

theorem foldl_flowPut_flowStores (xs : List FlowStore) (s : State) : (xs.foldl State.flowPut s).flowStores = s.flowStores :=
  foldl_obs _ State.flowStores (fun t x => t.flowPut_flowStores x) xs s

theorem foldl_flowPut_st {l : Nat} {xs : List FlowStore} (hxs : ∀ x ∈ xs, x.line = l) (h : xs ≠ []) (s : State) :
    ((xs.foldl State.flowPut s).cline l).st = .m := by
  cases xs with
  | nil => exact absurd rfl h
  | cons x xs =>
    have hput : ∀ y ∈ x :: xs, ∀ u : State, ((u.flowPut y).cline l).st = .m := fun y hy u => by
      have hst := u.flowPut_st y
      rwa [hxs y hy] at hst
    rw [List.foldl_cons]
    exact foldl_keeps (P := fun u => (u.cline l).st = .m) (fun y hy u _ => hput y (List.mem_cons_of_mem _ hy) u)
      (hput x List.mem_cons_self s)

/-- The writes that wait for a line act once this package owns it. -/
theorem State.storesGo_owned (s : State) {l : Nat} (hst : (s.cline l).st = .e) (h : s.storeWaits l = true) :
    ((s.storesGo l).cline l).st = .m ∧ (s.storesGo l).flowStores = s.flowStores.filter (fun x => x.line != l) := by
  have hgo : s.storesGo l = (s.flowStores.filter (fun x => x.line == l)).foldl State.flowPut
      { s with flowStores := s.flowStores.filter (fun x => x.line != l) } := by
    rw [State.storesGo, hst]
  have hne : s.flowStores.filter (fun x => x.line == l) ≠ [] := fun e => by
    obtain ⟨x, hx, hl⟩ := List.any_eq_true.mp h
    exact List.filter_eq_nil_iff.mp e x hx hl
  rw [hgo]
  exact ⟨foldl_flowPut_st (fun x hx => by simpa using (List.mem_filter.mp hx).2) hne _, foldl_flowPut_flowStores _ _⟩

end Sys2Proof.Machine
end

section
/-! Settles O59: the home serves coherence requests, and its replies fill the cache (R336, R488, R489, R491, Table 18-1). -/

namespace Sys2Proof.Machine

variable {s : State}

/-! The commands at the home. -/

section

variable (r : PkgNo) {l : Nat} (hhome : s.isHome l = true)
include hhome

theorem exec_readS_home (reply : Payload) : exec (.readS r l reply []) s = .next (s.homeRequest r.val l .readS) := by
  have harm : exec (.readS r l reply []) s = execReadS r l reply [] s := rfl
  rw [harm, execReadS, if_pos hhome, State.meetLine_nil]

theorem exec_readX_home (reply : Payload) : exec (.readX r l reply []) s = .next (s.homeRequest r.val l .readX) := by
  have harm : exec (.readX r l reply []) s = execReadX r l reply [] s := rfl
  rw [harm, execReadX, if_pos hhome, State.meetLine_nil]

theorem exec_upgrade_home : exec (.upgrade r l []) s = .next (s.homeRequest r.val l .upgrade) := by
  have harm : exec (.upgrade r l []) s = execUpgrade r l [] s := rfl
  rw [harm, execUpgrade, if_pos hhome, State.meetLine_nil]

end

/-! What the home does at once. -/

/-- A line given to its requester. -/
def State.given (s : State) (l : Nat) (e : DirEntry) (o : Output) : State := ((s.clearBusy l).setDir l e).send o

theorem State.given_reads (s : State) (l : Nat) (e : DirEntry) (o : Output) : (s.given l e o).dirOf l = e ∧
    (s.given l e o).outs = s.outs ++ [o] ∧ (s.given l e o).busyOf l = none ∧ (∀ k, k ≠ l → (s.given l e o).dirOf k = s.dirOf k) ∧
    (s.given l e o).cline = s.cline ∧
    s.given l e o = { s with dir := (s.given l e o).dir, homeBusy := (s.given l e o).homeBusy, outs := (s.given l e o).outs } := by
  have hbusy : (s.given l e o).busyOf l = (s.clearBusy l).busyOf l := rfl
  have hdir : ∀ k, (s.given l e o).dirOf k = ((s.clearBusy l).setDir l e).dirOf k := fun _ => rfl
  refine ⟨(hdir l).trans (State.setDir_dirOf _ _ _), rfl, hbusy.trans (State.clearBusy_busyOf _ _), fun k hk => ?_, rfl, rfl⟩
  exact (hdir k).trans (State.setDir_dirOf_ne _ _ _ _ hk)

/-- A snoop of a line sent for a requester. -/
def State.snooped (s : State) (l : Nat) (b : HomeBusy) (os : List Output) : State := { s.setBusy l b with outs := s.outs ++ os }

theorem State.snooped_reads (s : State) (l : Nat) (b : HomeBusy) (os : List Output) : (s.snooped l b os).dirOf = s.dirOf ∧
    (s.snooped l b os).busyOf l = some b ∧ (s.snooped l b os).cline = s.cline :=
  ⟨rfl, State.setBusy_busyOf s l b, rfl⟩

/-- The sharers of a line are invalidated for a requester, or it is granted. -/
structure Invalidated (r l m : Nat) (upgrade : Bool) (s t : State) : Prop where
  own : nbit m s.pkgId = true → (t.cline l).st = .i
  granted : sharersBut m r s.pkgId = [] → t.dirOf l = .x r ∧
    t.outs = s.outs ++ [.coherence (if upgrade then "GRANT_X" else "DATA_X") r l (if upgrade then noData else s.homeData l)] ∧ t.busyOf l = none
  waits : sharersBut m r s.pkgId ≠ [] → t.dirOf l = .s m ∧
    t.outs = s.outs ++ (sharersBut m r s.pkgId).map (fun k => Output.coherence "INV" k l noData) ∧
    ∃ b, t.busyOf l = some b ∧ b.requester = r ∧ b.exclusive = true ∧ b.upgrade = upgrade ∧
      bitsOf 16 b.toAnswer = sharersBut m r s.pkgId
  others : ∀ k, k ≠ l → t.dirOf k = s.dirOf k ∧ t.cline k = s.cline k
  frame : t = { s with
    dir := t.dir, homeBusy := t.homeBusy, homeWaits := t.homeWaits, cache := t.cache, outs := t.outs, poison := t.poison }

theorem State.ownDropped_keeps (s : State) {r l m : Nat} (hr : r ≠ s.pkgId) :
    (nbit m s.pkgId = true → ((s.ownDropped r l m).cline l).st = .i) ∧ (∀ k, k ≠ l → (s.ownDropped r l m).cline k = s.cline k) ∧
    (s.ownDropped r l m).outs = s.outs ∧ (s.ownDropped r l m).dirOf = s.dirOf ∧
    ∃ c p, s.ownDropped r l m = { s with cache := c, poison := p } := by
  have hne : (r != s.pkgId) = true := by simpa using hr
  unfold State.ownDropped
  rw [hne, Bool.and_true]
  by_cases h : nbit m s.pkgId = true
  · rw [if_pos h]
    exact ⟨fun _ => congrArg CacheLine.st (State.setCline_cline s l {}), fun k hk => State.setCline_cline_ne s l {} k hk, rfl, rfl, _, _, rfl⟩
  · rw [if_neg h]
    exact ⟨fun hm => absurd hm h, fun _ _ => rfl, rfl, rfl, _, _, rfl⟩

theorem State.homeInvalidate_invalidated (s : State) {r l m : Nat} (hr : r ≠ s.pkgId) (upgrade : Bool) (hd : s.dirOf l = .s m) :
    Invalidated r l m upgrade s (s.homeInvalidate r l m upgrade) := by
  obtain ⟨hown, hothers, houts, hdir, c, p, hu⟩ := s.ownDropped_keeps (l := l) (m := m) hr
  by_cases hrest : sharersBut m r s.pkgId = []
  · have hgiven := s.homeInvalidate_granted (l := l) hr upgrade hrest
    generalize s.ownDropped r l m = u at hu hown hothers houts hdir hgiven
    obtain ⟨hx, hsent, hbusy, hothersD, hcline, hframe⟩ := u.given_reads l (.x r)
      (.coherence (if upgrade then "GRANT_X" else "DATA_X") r l (if upgrade then noData else s.homeData l))
    rw [houts] at hsent
    refine hgiven ▸ ⟨fun hm => ?_, fun _ => ⟨hx, hsent, hbusy⟩, fun h => absurd hrest h, fun k hk => ⟨?_, ?_⟩, ?_⟩
    · exact (congrArg (fun f => (f l).st) hcline).trans (hown hm)
    · exact (hothersD k hk).trans (congrFun hdir k)
    · exact (congrFun hcline k).trans (hothers k hk)
    · subst hu
      rfl
  · have hwaits := s.homeInvalidate_waits (l := l) upgrade hrest
    rw [foldl_send] at hwaits
    generalize s.ownDropped r l m = u at hu hown hothers houts hdir hwaits
    obtain ⟨hdirS, hbusy, hcline⟩ := u.snooped_reads l { requester := r, exclusive := true, toAnswer := maskOf (sharersBut m r s.pkgId), upgrade := upgrade }
      ((sharersBut m r s.pkgId).map (fun k => Output.coherence "INV" k l noData))
    refine hwaits ▸ ⟨fun hm => ?_, fun h => absurd h hrest, fun _ => ⟨?_, congrArg (· ++ _) houts, _, hbusy, rfl, rfl, rfl,
      bitsOf_maskOf_sharersBut _ _ _⟩, fun k hk => ⟨?_, ?_⟩, ?_⟩
    · exact (congrArg (fun f => (f l).st) hcline).trans (hown hm)
    · exact (congrFun hdirS l).trans ((congrFun hdir l).trans hd)
    · exact (congrFun hdirS k).trans (congrFun hdir k)
    · exact (congrFun hcline k).trans (hothers k hk)
    · subst hu
      rfl

theorem Invalidated.of_unqueued {r l m : Nat} {upgrade : Bool} {w : HomeWait} {t : State} (h : Invalidated r l m upgrade (s.unqueued w) t) :
    Invalidated r l m upgrade s t :=
  ⟨h.own, h.granted, h.waits, h.others, h.frame⟩

/-- A line has been given to its requester. -/
structure Given (l : Nat) (e : DirEntry) (o : Output) (s t : State) : Prop where
  dir : t.dirOf l = e
  outs : t.outs = s.outs ++ [o]
  busy : t.busyOf l = none
  others : ∀ k, k ≠ l → t.dirOf k = s.dirOf k
  frame : t = { s with dir := t.dir, homeBusy := t.homeBusy, homeWaits := t.homeWaits, outs := t.outs }

theorem Given.of_unqueued {l : Nat} {e : DirEntry} {o : Output} {w : HomeWait} {t : State} (ht : t = (s.unqueued w).given l e o) :
    Given l e o s t := by
  obtain ⟨hx, hsent, hfree, hkept, -, hframe⟩ := (s.unqueued w).given_reads l e o
  rw [← ht] at hx hsent hfree hkept hframe
  refine ⟨hx, hsent, hfree, hkept, ?_⟩
  obtain ⟨d, b, os, he⟩ : ∃ d b os, t = { s.unqueued w with dir := d, homeBusy := b, outs := os } := ⟨_, _, _, hframe⟩
  clear hframe ht hx hsent hfree hkept
  subst he
  rfl

/-- A snoop of a line has been sent for a requester. -/
structure Snooped (l : Nat) (b : HomeBusy) (o : Output) (s t : State) : Prop where
  dir : t.dirOf = s.dirOf
  outs : t.outs = s.outs ++ [o]
  busy : t.busyOf l = some b
  frame : t = { s with homeBusy := t.homeBusy, homeWaits := t.homeWaits, outs := t.outs }

theorem Snooped.of_unqueued {l : Nat} {b : HomeBusy} {o : Output} {w : HomeWait} {t : State} (ht : t = ((s.unqueued w).setBusy l b).send o) :
    Snooped l b o s t := by
  have hbusy : t.busyOf l = some b := by
    rw [ht]
    exact State.setBusy_busyOf _ _ _
  subst ht
  exact ⟨rfl, rfl, hbusy, rfl⟩

section

variable (r : PkgNo) {l : Nat} (hhome : s.isHome l = true) (hbusy : s.busyOf l = none) (reply : Payload)
include hhome hbusy

theorem readS_given (hr : r.val ≠ s.pkgId) {m : Nat} (hd : s.dirOf l = .s m ∨ (s.dirOf l = .i ∧ m = 0)) :
    ∃ t, exec (.readS r l reply []) s = .next t ∧ Given l (.s (setNBit m r.val true)) (.coherence "DATA_S" r.val l (s.homeData l)) s t :=
  ⟨_, (exec_readS_home r hhome reply).trans (congrArg _ ((s.homeRequest_served hbusy).trans
    (State.homeReadS_shared (s.unqueued ⟨l, r.val, .readS⟩) hr hd))), Given.of_unqueued rfl⟩

theorem readX_given (hr : r.val ≠ s.pkgId) (hd : s.dirOf l = .i) :
    ∃ t, exec (.readX r l reply []) s = .next t ∧ Given l (.x r.val) (.coherence "DATA_X" r.val l (s.homeData l)) s t :=
  ⟨_, (exec_readX_home r hhome reply).trans (congrArg _ ((s.homeRequest_served hbusy).trans
    (State.homeReadX_free (s.unqueued ⟨l, r.val, .readX⟩) hr hd))), Given.of_unqueued rfl⟩

theorem readS_snooped {o : Nat} (hd : s.dirOf l = .x o) (ho : o ≠ s.pkgId) : ∃ t, exec (.readS r l reply []) s = .next t ∧
    Snooped l { requester := r.val, exclusive := false, toAnswer := 2 ^ o } (.coherence "FWD_S" o l noData) s t :=
  ⟨_, (exec_readS_home r hhome reply).trans (congrArg _ ((s.homeRequest_served hbusy).trans
    (State.homeReadS_owned (s.unqueued ⟨l, r.val, .readS⟩) hd ho))), Snooped.of_unqueued rfl⟩

theorem readX_snooped {o : Nat} (hd : s.dirOf l = .x o) (ho : o ≠ s.pkgId) : ∃ t, exec (.readX r l reply []) s = .next t ∧
    Snooped l { requester := r.val, exclusive := true, toAnswer := 2 ^ o } (.coherence "FWD_X" o l noData) s t :=
  ⟨_, (exec_readX_home r hhome reply).trans (congrArg _ ((s.homeRequest_served hbusy).trans
    (State.homeReadX_owned (s.unqueued ⟨l, r.val, .readX⟩) hd ho))), Snooped.of_unqueued rfl⟩

theorem readX_invalidated (hr : r.val ≠ s.pkgId) {m : Nat} (hd : s.dirOf l = .s m) :
    ∃ t, exec (.readX r l reply []) s = .next t ∧ Invalidated r.val l m false s t :=
  ⟨_, (exec_readX_home r hhome reply).trans (congrArg _ ((s.homeRequest_served hbusy).trans
    (State.homeReadX_shared (s.unqueued ⟨l, r.val, .readX⟩) hd))),
    ((s.unqueued ⟨l, r.val, .readX⟩).homeInvalidate_invalidated hr false hd).of_unqueued⟩

theorem upgrade_invalidated (hr : r.val ≠ s.pkgId) {m : Nat} (hd : s.dirOf l = .s m) (hm : nbit m r.val = true) :
    ∃ t, exec (.upgrade r l []) s = .next t ∧ Invalidated r.val l m true s t :=
  ⟨_, (exec_upgrade_home r hhome).trans (congrArg _ ((s.homeRequest_served hbusy).trans
    (State.homeUpgrade_shared (s.unqueued ⟨l, r.val, .upgrade⟩) hd hm))),
    ((s.unqueued ⟨l, r.val, .upgrade⟩).homeInvalidate_invalidated hr true hd).of_unqueued⟩

end

/-! The replies of a remote home. -/

section

variable {r : PkgNo} {l : Nat} (haway : s.isHome l = false) (hr : r.val = s.pkgId) (hpresent : s.present (lineHome l) = true)
include haway hr hpresent

theorem exec_readS_away {reply : Payload} (hreply : wholeLine reply = true) (hst : (s.cline l).st = .i) :
    exec (.readS r l reply []) s = .next (s.fillLine l .s reply) := by
  have harm : exec (.readS r l reply []) s = execReadS r l reply [] s := rfl
  rw [harm, execReadS, if_neg (by rw [haway]; decide), if_pos ⟨hr, hpresent, hreply, hst⟩]

theorem exec_readX_away {reply : Payload} (hreply : wholeLine reply = true) (hst : (s.cline l).st = .i) :
    exec (.readX r l reply []) s = .next ((s.fillLine l .e reply).storesGo l) := by
  have harm : exec (.readX r l reply []) s = execReadX r l reply [] s := rfl
  rw [harm, execReadX, if_neg (by rw [haway]; decide), if_pos ⟨hr, hpresent, hreply, hst⟩]

theorem exec_upgrade_away (hst : (s.cline l).st = .s) :
    exec (.upgrade r l []) s = .next ((s.setCline l { s.cline l with st := .e }).storesGo l) := by
  have harm : exec (.upgrade r l []) s = execUpgrade r l [] s := rfl
  rw [harm, execUpgrade, if_neg (by rw [haway]; decide), if_pos ⟨hr, hpresent, hst⟩, State.meetLine_nil]

end

theorem Filled.storeWaits {l : Nat} {st : LineState} {d : List Byte} {poison : Bool} {s t : State} (h : Filled l st d poison s t) :
    t.storeWaits l = s.storeWaits l := by
  unfold State.storeWaits
  rw [h.stores]

/-- A reply that fills the cache for reading or for writing, with no write waiting. -/
theorem reply_filled {r : PkgNo} {l : Nat} {reply : Payload} {d : List Byte} {poison : Bool} (haway : s.isHome l = false)
    (hr : r.val = s.pkgId) (hpresent : s.present (lineHome l) = true) (hreply : wholeLine reply = true) (hst : (s.cline l).st = .i)
    (hfill : ∀ st, Filled l st d poison s (s.fillLine l st reply)) (hw : s.storeWaits l = false) :
    ∀ y ∈ [(Instr.readS r l reply [], LineState.s), (.readX r l reply [], .e)], ∃ t, exec y.1 s = .next t ∧ Filled l y.2 d poison s t := by
  intro y hy
  rw [List.mem_cons, List.mem_singleton] at hy
  rcases hy with rfl | rfl
  · exact ⟨_, exec_readS_away haway hr hpresent hreply hst, hfill .s⟩
  · have hx := hfill .e
    have hgo := State.storesGo_none _ (hx.storeWaits.trans hw)
    exact ⟨_, (exec_readX_away haway hr hpresent hreply hst).trans (congrArg _ hgo), hx⟩

/-! The obligation. -/

/-- Settles O59: at the home a request is served by what the directory holds; away from home the reply fills the cache. -/
theorem coherenceRequestsAreServed : Obligations.CoherenceRequestsAreServed := by
  unfold Obligations.CoherenceRequestsAreServed
  intro r l reply d s
  refine ⟨fun hhome hbusy hr => ⟨fun m hd => ?_, fun o hd ho => ?_, fun o hd ho => ?_, fun hd => ?_, fun m hd _ others hothers y hy hup => ?_⟩,
    fun hhome hbusy y hy => ?_, fun haway hr hpresent st hst => ⟨fun hlen hi hw y hy => ?_, fun hi hw y hy => ?_, fun hs hw => ?_,
      fun hw y hy hstate => ?_⟩⟩
  · obtain ⟨t, ht, h⟩ := readS_given r hhome hbusy reply hr hd
    exact ⟨t, ht, h.dir, h.outs, h.busy, h.others, h.frame⟩
  · obtain ⟨t, ht, h⟩ := readS_snooped r hhome hbusy reply hd ho
    exact ⟨t, ht, (congrFun h.dir l).trans hd, h.outs, h.busy, h.frame⟩
  · obtain ⟨t, ht, h⟩ := readX_snooped r hhome hbusy reply hd ho
    exact ⟨t, ht, (congrFun h.dir l).trans hd, h.outs, h.busy, h.frame⟩
  · obtain ⟨t, ht, h⟩ := readX_given r hhome hbusy reply hr hd
    exact ⟨t, ht, h.dir, h.outs, h.others, h.frame⟩
  · have hsharers : others = sharersBut m r.val s.pkgId := hothers.trans (sharersBut_eq m r.val s.pkgId).symm
    have hinv : ∃ t, exec y.1 s = .next t ∧ Invalidated r.val l m y.2.1 s t ∧
        y.2.2 = .coherence (if y.2.1 then "GRANT_X" else "DATA_X") r.val l (if y.2.1 then noData else s.homeData l) := by
      rw [List.mem_cons, List.mem_singleton] at hy
      rcases hy with rfl | rfl
      · obtain ⟨t, ht, h⟩ := readX_invalidated r hhome hbusy reply hr hd
        exact ⟨t, ht, h, rfl⟩
      · obtain ⟨t, ht, h⟩ := upgrade_invalidated r hhome hbusy hr hd (hup rfl)
        exact ⟨t, ht, h, rfl⟩
    obtain ⟨t, ht, h, ho⟩ := hinv
    rw [hsharers, ho]
    exact ⟨t, ht, h.own, h.granted, h.waits, h.others, h.frame⟩
  · have hreq : exec y.1 s = .next (s.homeRequest r.val l y.2) := by
      simp only [List.mem_cons, List.not_mem_nil, or_false] at hy
      rcases hy with rfl | rfl | rfl
      · exact exec_readS_home r hhome reply
      · exact exec_readX_home r hhome reply
      · exact exec_upgrade_home r hhome
    rw [hreq, State.homeRequest_waits s hbusy]
    exact ⟨fun hw => congrArg _ (if_pos (List.contains_iff_mem.mpr hw)), fun hw => congrArg _ (if_neg fun h => hw (List.contains_iff_mem.mp h))⟩
  · subst hst
    obtain ⟨t, ht, h⟩ := reply_filled (reply := .data d) haway hr hpresent (beq_iff_eq.mpr hlen) hi (fun st => s.fillLine_data l st hlen) hw y hy
    exact ⟨t, ht, h.line, h.isPoisoned, h.roomy⟩
  · subst hst
    obtain ⟨t, ht, h⟩ := reply_filled haway hr hpresent rfl hi (fun st => s.fillLine_poisoned l st) hw y hy
    exact ⟨t, ht, congrArg CacheLine.st h.line, h.isPoisoned, h.roomy⟩
  · subst hst
    have hgo : (s.setCline l { s.cline l with st := .e }).storesGo l = s.setCline l { s.cline l with st := .e } := State.storesGo_none _ hw
    exact ⟨_, (exec_upgrade_away haway hr hpresent hs).trans (congrArg _ hgo), State.setCline_cline _ _ _,
      fun k hk => State.setCline_cline_ne _ _ _ _ hk, rfl⟩
  · subst hst
    rw [List.mem_cons, List.mem_singleton] at hy
    rcases hy with rfl | rfl
    · have hfill := s.fillLine_data l .e hstate.2
      obtain ⟨hm, hgone⟩ := State.storesGo_owned _ (congrArg CacheLine.st hfill.line) (hfill.storeWaits.trans hw)
      exact ⟨_, exec_readX_away (reply := .data d) haway hr hpresent (beq_iff_eq.mpr hstate.2) hstate.1, hm, hgone.trans (by rw [hfill.stores])⟩
    · obtain ⟨hm, hgone⟩ := State.storesGo_owned (s.setCline l { s.cline l with st := .e }) (congrArg CacheLine.st (State.setCline_cline _ _ _)) hw
      exact ⟨_, exec_upgrade_away haway hr hpresent hstate, hm, hgone⟩

end Sys2Proof.Machine
end

section
/-! Settles O60: evictions and snoops are answered, and a line whose snoop target is unreachable is lost (R488, R490, R492, Table 18-1). -/

namespace Sys2Proof.Machine

variable {s t : State}

/-! No request waits for a line. -/

/-- No request waits for a line. -/
def State.noneWaits (s : State) (l : Nat) : Prop := ∀ w ∈ s.homeWaits, w.line ≠ l

theorem State.serveWaiting_none {l : Nat} (h : s.noneWaits l) (n : Nat) : s.serveWaiting l n = s := by
  cases n with
  | zero => rfl
  | succ n =>
    have hnone : s.homeWaits.filter (fun x => x.line == l) = [] :=
      List.filter_eq_nil_iff.mpr fun w hw e => h w hw (beq_iff_eq.mp e)
    unfold State.serveWaiting
    rw [hnone]
    dsimp only
    split
    · rfl
    · rfl

theorem noneWaits_serveInvariant (l k : Nat) : ServeInvariant k (fun t => t.noneWaits l) where
  tables _ _ _ _ h := h
  clearBusy _ h := h
  setBusy _ _ h := h
  stores _ h := h
  poison _ _ _ _ h := h
  bytes t a d h := by
    obtain ⟨m, x, p, e⟩ := t.putBytes_frame a d
    rw [e]
    exact h
  send _ _ h := h

/-! A snoop completes (R489, R490). -/

theorem State.given_homeWaits (s : State) (l : Nat) (e : DirEntry) (o : Output) : (s.given l e o).homeWaits = s.homeWaits := rfl

theorem completeSnoop_exclusive {l : Nat} {b : HomeBusy} (mask : Nat) (hw : s.noneWaits l) (hr : b.requester ≠ s.pkgId)
    (hx : b.exclusive = true) (hu : b.upgrade = false) :
    s.completeSnoop l mask b = s.given l (.x b.requester) (.coherence "DATA_X" b.requester l (s.homeData l)) := by
  rw [State.completeSnoop, hx, hu, if_pos rfl, s.grantExclusive_other hr]
  exact State.serveWaiting_none (s := s.given l (.x b.requester) (.coherence "DATA_X" b.requester l (s.homeData l))) hw _

theorem completeSnoop_shared {l : Nat} {b : HomeBusy} (mask : Nat) (hw : s.noneWaits l) (hr : b.requester ≠ s.pkgId)
    (hx : b.exclusive = false) : s.completeSnoop l mask b =
      s.given l (.s (setNBit mask b.requester true)) (.coherence "DATA_S" b.requester l (s.homeData l)) := by
  rw [State.completeSnoop, hx, if_neg (by decide), s.grantShared_other hr]
  exact State.serveWaiting_none (s := s.given l (.s (setNBit mask b.requester true)) (.coherence "DATA_S" b.requester l (s.homeData l))) hw _

/-! The home. -/

section

variable {p : PkgNo} {l : Nat} (hhome : s.isHome l = true)

theorem State.isHome_of_pkgId {u : State} (h : u.pkgId = s.pkgId) (l : Nat) : u.isHome l = s.isHome l := by
  unfold State.isHome
  rw [h]

section

variable (hp : p.val ≠ s.pkgId)
include hp hhome

theorem exec_putM_home (d : Payload) : exec (.putM p l d []) s = .next (s.homePut p.val l (some d)) := by
  have harm : exec (.putM p l d []) s = execPutM p l d [] s := rfl
  rw [harm, execPutM, if_neg hp, if_pos hhome]

theorem exec_putE_home : exec (.putE p l []) s = .next (s.homePut p.val l none) := by
  have harm : exec (.putE p l []) s = execPutE p l [] s := rfl
  rw [harm, execPutE, if_neg hp, if_pos hhome, State.meetLine_nil]

end

theorem State.homePut_foreign {k : Nat} (h : s.dirOf l ≠ .x k) (d : Option Payload) : s.homePut k l d = s := by
  unfold State.homePut
  rw [if_neg h]

theorem State.homePut_none {k : Nat} (h : s.dirOf l = .x k) (hb : s.busyOf l = none) : s.homePut k l none = s.setDir l .i := by
  rw [State.homePut, if_pos h]
  dsimp only
  rw [hb]

theorem State.setHomeData_keeps (s : State) (l : Nat) (d : List Byte) : (s.setHomeData l (.data d)).busyOf = s.busyOf ∧
    (s.setHomeData l (.data d)).dirOf = s.dirOf ∧ (s.setHomeData l (.data d)).outs = s.outs ∧
    (s.setHomeData l (.data d)).cache = s.cache ∧ (s.setHomeData l (.data d)).pins = s.pins ∧
    (s.setHomeData l (.data d)).engines = s.engines ∧ (s.setHomeData l (.data d)).pkgId = s.pkgId ∧
    (s.setHomeData l (.data d)).homeWaits = s.homeWaits := by
  have h := s.setHomeData_data_frame l d
  generalize s.setHomeData l (.data d) = u at h ⊢
  obtain ⟨m, x, h⟩ : ∃ m x, u = { s with mem := m, poison := x } := ⟨_, _, h⟩
  subst h
  exact ⟨rfl, rfl, rfl, rfl, rfl, rfl, rfl, rfl⟩

theorem State.homePut_some {k : Nat} {d : List Byte} (h : s.dirOf l = .x k) (hb : s.busyOf l = none) :
    s.homePut k l (some (.data d)) = (s.setHomeData l (.data d)).setDir l .i := by
  rw [State.homePut, if_pos h]
  dsimp only
  rw [hb]

/-! The answers of snoops. -/

section

variable {b : HomeBusy} (hb : s.busyOf l = some b) (hto : nbit b.toAnswer p.val = true)
include hhome hb hto

theorem exec_inv_home (hx : b.exclusive = true) : exec (.inv p l []) s = .next (s.sharerAnswers p.val l b) := by
  have harm : exec (.inv p l []) s = execInv p l [] s := rfl
  rw [harm, execInv, if_pos hhome, hb]
  dsimp only
  rw [hto, hx, State.meetLine_nil]
  rfl

variable (hd : s.dirOf l = .x p.val) (d : Payload)
include hd

theorem exec_fwdX_home (hx : b.exclusive = true) :
    exec (.fwdX p l (.data d) []) s = .next ((s.setHomeData l d).completeSnoop l (2 ^ p.val) b) := by
  have harm : exec (.fwdX p l (.data d) []) s = execFwdX p l (.data d) [] s := rfl
  rw [harm, execFwdX, State.meetLine_nil, State.snoopOwner, if_pos hhome, hb]
  dsimp only
  rw [hto, hx, hd, beq_self_eq_true]
  rfl

theorem exec_fwdS_home (hx : b.exclusive = false) :
    exec (.fwdS p l (.data d) []) s = .next ((s.setHomeData l d).completeSnoop l (2 ^ p.val) b) := by
  have harm : exec (.fwdS p l (.data d) []) s = execFwdS p l (.data d) [] s := rfl
  rw [harm, execFwdS, State.meetLine_nil, State.snoopOwner, if_pos hhome, hb]
  dsimp only
  rw [hto, hx, hd, beq_self_eq_true]
  rfl

end

end

/-- The data of an owner's answer, written and given to the requester. -/
theorem answered_given {l : Nat} {d : List Byte} (hd : d.length = 64) {e : DirEntry} {o : Payload → Output}
    (ht : t = (s.setHomeData l (.data d)).given l e (o ((s.setHomeData l (.data d)).homeData l))) :
    t.dirOf l = e ∧ t.busyOf l = none ∧ t.homeData l = .data d ∧ t.outs = s.outs ++ [o (.data d)] := by
  have hdata := s.setHomeData_homeData l hd
  obtain ⟨-, -, houts, -⟩ := s.setHomeData_keeps l d
  rw [hdata] at ht
  generalize s.setHomeData l (.data d) = u at ht hdata houts
  obtain ⟨hx, hsent, hfree, -, -, -⟩ := u.given_reads l e (o (.data d))
  rw [← ht] at hx hsent hfree
  refine ⟨hx, hfree, ?_, by rw [hsent, houts]⟩
  rw [← hdata, ht]
  rfl

/-! This package as the target. -/

section

variable {p : PkgNo} {l : Nat} (hp : p.val = s.pkgId) (haway : s.isHome l = false)
include hp

theorem exec_putM_own (d : Payload) (hst : (s.cline l).st = .m) : exec (.putM p l d []) s = .next (s.evictOwn l true) := by
  have harm : exec (.putM p l d []) s = execPutM p l d [] s := rfl
  rw [harm, execPutM, if_pos hp, if_pos hst, State.meetLine_nil]

theorem exec_putE_own (hst : (s.cline l).st = .e) : exec (.putE p l []) s = .next (s.evictOwn l false) := by
  have harm : exec (.putE p l []) s = execPutE p l [] s := rfl
  rw [harm, execPutE, if_pos hp, if_pos hst]

include haway

theorem exec_fwdS_away (a : SnoopAnswer) : exec (.fwdS p l a []) s = .next (s.answerSnoop l true) := by
  have harm : exec (.fwdS p l a []) s = execFwdS p l a [] s := rfl
  rw [harm, execFwdS, State.meetLine_nil, State.snoopOwner, if_neg (by rw [haway]; decide), if_pos hp]

theorem exec_fwdX_away (a : SnoopAnswer) : exec (.fwdX p l a []) s = .next (s.answerSnoop l false) := by
  have harm : exec (.fwdX p l a []) s = execFwdX p l a [] s := rfl
  rw [harm, execFwdX, State.meetLine_nil, State.snoopOwner, if_neg (by rw [haway]; decide), if_pos hp]

theorem exec_inv_away : exec (.inv p l []) s = .next (s.dropCopy l) := by
  have harm : exec (.inv p l []) s = execInv p l [] s := rfl
  rw [harm, execInv, if_neg (by rw [haway]; decide), if_pos hp]

omit hp

theorem State.evictOwn_away (dirty : Bool) : s.evictOwn l dirty = (s.dropLine l { put := some dirty }).send
    (.coherence (if dirty then "PUT_M" else "PUT_E") (lineHome l) l (if dirty then s.lineData l else noData)) := by
  rw [State.evictOwn, if_neg (by rw [haway]; decide)]

end

theorem State.answerSnoop_held {l : Nat} (h : (s.cline l).st ≠ .i) (shared : Bool) : s.answerSnoop l shared =
    (if shared then s.setCline l { s.cline l with st := .s } else s.dropLine l {}).send (.coherence "DATA" (lineHome l) l (s.lineData l)) := by
  unfold State.answerSnoop
  dsimp only
  split
  next hst _ => exact absurd hst h
  next hst _ => exact absurd hst h
  next hst _ => exact absurd hst h
  next => rfl

/-- What a cache without a line tells of its eviction. -/
def putNews : Option Bool → String
  | some true => "WRITEBACK_IN_FLIGHT"
  | some false => "CLEAN_EVICTION_IN_FLIGHT"
  | none => "ACK"

theorem State.answerSnoop_absent {l : Nat} (h : (s.cline l).st = .i) (shared : Bool) :
    s.answerSnoop l shared = s.send (.coherence (putNews (s.cline l).put) (lineHome l) l noData) := by
  unfold State.answerSnoop
  dsimp only
  rw [h]
  cases (s.cline l).put with
  | none => rfl
  | some b => cases b <;> rfl

theorem State.dropCopy_held {l : Nat} (h : (s.cline l).st ≠ .i) :
    s.dropCopy l = (s.dropLine l {}).send (.coherence "ACK" (lineHome l) l noData) := by
  unfold State.dropCopy
  split
  next hst => exact absurd hst h
  next => rfl

theorem State.dropCopy_absent {l : Nat} (h : (s.cline l).st = .i) : s.dropCopy l = s.answerSnoop l false := by
  rw [State.dropCopy, h]

/-- A line that leaves the cache, or changes in it, as a message tells of it. -/
structure Told (l : Nat) (x : CacheLine) (o : Output) (s t : State) : Prop where
  line : t.cline l = x
  outs : t.outs = s.outs ++ [o]
  others : ∀ k, k ≠ l → t.cline k = s.cline k
  frame : t = { s with cache := t.cache, outs := t.outs, poison := t.poison }

theorem Told.setCline (s : State) (l : Nat) (x : CacheLine) (o : Output) : Told l x o s ((s.setCline l x).send o) :=
  ⟨State.setCline_cline s l x, rfl, fun k hk => State.setCline_cline_ne s l x k hk, rfl⟩

theorem Told.dropLine (s : State) (l : Nat) (x : CacheLine) (o : Output) : Told l x o s ((s.dropLine l x).send o) :=
  ⟨State.setCline_cline s l x, rfl, fun k hk => State.setCline_cline_ne s l x k hk, rfl⟩

/-! A snoop target is unreachable (R492). -/

/-- While an event is written: no request waits for line l, and the home serves none but those of this package whose writes wait. -/
structure Settled (l : Nat) (s : State) : Prop where
  unwaited : s.noneWaits l
  busy : ∀ k, s.busyOf k ≠ none → s.storeWaits k = true

/-- The lines but one that the home serves are those that writes of this package wait for. -/
def State.settledBut (s : State) (k : Nat) : Prop := ∀ j, j ≠ k → s.busyOf j ≠ none → s.storeWaits j = true

theorem storeWaits_iff {l : Nat} : s.storeWaits l = true ↔ ∃ x ∈ s.flowStores, x.line = l := by
  simp [State.storeWaits]

theorem settledBut_serveInvariant (k : Nat) : ServeInvariant k (fun t => t.settledBut k) where
  tables _ _ _ _ h := h
  clearBusy t h := fun j hj hb => h j hj (by rwa [t.clearBusy_busyOf_ne k hj] at hb)
  setBusy t x h := fun j hj hb => h j hj (by rwa [t.setBusy_busyOf_ne k x hj] at hb)
  stores t h := fun j hj hb => by
    obtain ⟨x, hx, hl⟩ := storeWaits_iff.mp (h j hj hb)
    exact storeWaits_iff.mpr ⟨x, List.mem_filter.mpr ⟨hx, by simpa [hl] using hj⟩, hl⟩
  poison _ _ _ _ h := h
  bytes t a d h := by
    obtain ⟨m, x, p, e⟩ := t.putBytes_frame a d
    rw [e]
    exact h
  send _ _ h := h

theorem free_lineInvariant (k : Nat) : LineInvariant k (fun t => t.busyOf k = none) where
  tables _ _ _ _ h := h
  clearBusy t _ := t.clearBusy_busyOf k
  stores _ h := h
  poison _ _ _ _ h := h
  bytes t a d h := by
    obtain ⟨m, x, p, e⟩ := t.putBytes_frame a d
    rw [e]
    exact h
  send _ _ h := h

/-- A request of this package for a line that the home serves no request for. -/
theorem flowAsk_settled {l k : Nat} (h : Settled l s) (hw : s.storeWaits k = false) : (s.flowAsk k).noneWaits l ∧ (s.flowAsk k).settledBut k := by
  have hbut : s.settledBut k := fun j _ hb => h.busy j hb
  have hfree : s.busyOf k = none := by
    by_contra hb
    rw [h.busy k hb] at hw
    exact nomatch hw
  have hserved : ∀ q, (s.homeRequest s.pkgId k q).noneWaits l ∧ (s.homeRequest s.pkgId k q).settledBut k := fun q => by
    have hq : s.homeRequest s.pkgId k q = (s.unqueued ⟨k, s.pkgId, q⟩).homeServe s.pkgId k q := s.homeRequest_served hfree
    have hn : (s.unqueued ⟨k, s.pkgId, q⟩).noneWaits l := fun w hm => h.unwaited w (List.mem_of_mem_filter hm)
    have hs : (s.unqueued ⟨k, s.pkgId, q⟩).settledBut k := hbut
    rw [hq]
    exact ⟨(noneWaits_serveInvariant l k).homeServe hn _ _, (settledBut_serveInvariant k).homeServe hs _ _⟩
  unfold State.flowAsk
  dsimp only
  split
  · exact hserved _
  · exact ⟨h.unwaited, hbut⟩

theorem flowWrite_settled {l k : Nat} (h : Settled l s) (ht : s.flowWrite k = some t) : Settled l t := by
  have hw : s.storeWaits k = false := by
    unfold State.flowWrite at ht
    split at ht
    · exact nomatch ht
    next hw => exact Bool.eq_false_iff.mpr hw
  have hfree : s.busyOf k = none := by
    by_contra hb
    rw [h.busy k hb] at hw
    exact nomatch hw
  refine ⟨(noneWaits_serveInvariant l k).flowWrite h.unwaited ht, fun j hb => ?_⟩
  by_cases hj : j = k
  · rw [hj, (free_lineInvariant k).flowWrite hfree ht] at hb
    exact absurd rfl hb
  · exact (settledBut_serveInvariant k).flowWrite (fun j _ hb => h.busy j hb) ht j hj hb

theorem Settled.flowPut {l : Nat} (h : Settled l s) (x : FlowStore) : Settled l (s.flowPut x) := by
  have hbusy : (s.flowPut x).busyOf = s.busyOf ∧ (s.flowPut x).homeWaits = s.homeWaits := by
    unfold State.flowPut
    dsimp only
    split
    · exact ⟨rfl, rfl⟩
    · split
      · exact ⟨rfl, rfl⟩
      · exact ⟨rfl, rfl⟩
  have hstores : (s.flowPut x).storeWaits = s.storeWaits := by
    unfold State.storeWaits
    rw [s.flowPut_flowStores]
  refine ⟨fun w hw => h.unwaited w (hbusy.2 ▸ hw), fun k hb => ?_⟩
  rw [hstores]
  exact h.busy k (hbusy.1 ▸ hb)

/-- A write that waits joins those of its line. -/
theorem Settled.append {l : Nat} {x : FlowStore} (hn : s.noneWaits l) (hb : ∀ j, s.busyOf j ≠ none → j = x.line ∨ s.storeWaits j = true) :
    Settled l { s with flowStores := s.flowStores ++ [x] } := by
  refine ⟨hn, fun j hj => storeWaits_iff.mpr ?_⟩
  rcases hb j hj with hx | hj
  · exact ⟨x, List.mem_append_right _ (List.mem_singleton_self x), hx.symm⟩
  · obtain ⟨y, hy, hl⟩ := storeWaits_iff.mp hj
    exact ⟨y, List.mem_append_left _ hy, hl⟩

theorem settled_flowStore1 {l : Nat} (h : Settled l s) (x : FlowStore) : Settled l (s.flowStore1 x) := by
  unfold State.flowStore1
  split
  next t ht => exact (flowWrite_settled h ht).flowPut x
  next =>
    dsimp only
    by_cases hw : s.storeWaits x.line = true
    · rw [if_pos hw]
      exact Settled.append h.unwaited fun j hb => .inr (h.busy j hb)
    · rw [if_neg hw]
      obtain ⟨hn, hb⟩ := flowAsk_settled h (Bool.eq_false_iff.mpr hw)
      exact Settled.append hn fun j hj => or_iff_not_imp_left.mpr fun hne => hb j hne hj

theorem settled_deviceInvariant (l : Nat) : DeviceInvariant (Settled l) where
  flowStore1 _ x h := settled_flowStore1 h x
  poison _ _ _ _ h := ⟨h.unwaited, h.busy⟩
  bytes t a d h := by
    obtain ⟨m, x, p, e⟩ := t.putBytes_frame a d
    rw [e]
    exact ⟨h.unwaited, h.busy⟩
  send _ _ h := ⟨h.unwaited, h.busy⟩
  registers _ _ _ h := ⟨h.unwaited, h.busy⟩

/-- A line lost to its home, before the event that tells of it. -/
def State.lineLost (s : State) (l : Nat) : State := ((s.setPoison (homeAddr l) true).clearBusy l).setDir l .i

theorem State.lineLost_reads (s : State) (l : Nat) : (s.lineLost l).dirOf l = .i ∧ (s.lineLost l).busyOf l = none ∧
    (s.lineLost l).poisoned (homeAddr l) = true ∧ ∀ k, k ≠ l → (s.lineLost l).dirOf k = s.dirOf k := by
  unfold State.lineLost
  exact ⟨State.setDir_dirOf _ _ _, State.clearBusy_busyOf _ _, State.setPoison_poisoned s (homeAddr l) true, fun k hk => State.setDir_dirOf_ne _ _ _ _ hk⟩

theorem State.lineLost_settled {l : Nat} {b : HomeBusy} (hb : s.homeBusy = [(l, b)]) (hw : s.noneWaits l) : Settled l (s.lineLost l) := by
  have hnone : (s.lineLost l).homeBusy = [] := by
    have hdel : (s.lineLost l).homeBusy = tdel s.homeBusy l := rfl
    rw [hdel, hb, tdel, if_pos rfl]
    rfl
  refine ⟨hw, fun k hk => absurd ?_ hk⟩
  unfold State.busyOf
  rw [hnone]
  rfl

theorem exec_snoopTargetUnreachable {p : PkgNo} {l : Nat} {b : HomeBusy} (hb : s.homeBusy = [(l, b)]) (hto : nbit b.toAnswer p.val = true)
    (hw : s.noneWaits l) : exec (.snoopTargetUnreachable p) s = .next (if b.requester = p.val then
      (s.lineLost l).event codePoison 4 8 0 (lineAddr l)
      else ((s.lineLost l).event codePoison 4 8 0 (lineAddr l)).homeServe b.requester l (if b.exclusive then .readX else .readS)) := by
  have hset := ((settled_deviceInvariant l).event (State.lineLost_settled hb hw) codePoison 4 8 0 (lineAddr l)).unwaited
  have harm : exec (.snoopTargetUnreachable p) s = execSnoopTargetUnreachable p s := rfl
  have hfilter : s.homeBusy.filter (fun x => nbit x.2.toAnswer p.val) = [(l, b)] := by
    rw [hb, List.filter_cons_of_pos (by exact hto), List.filter_nil]
  have hlose : s.loseLine l = (s.lineLost l).event codePoison 4 8 0 (lineAddr l) := rfl
  rw [harm, execSnoopTargetUnreachable, hfilter, List.foldl_cons, List.foldl_nil]
  dsimp only
  rw [hlose]
  refine congrArg Host.Outcome.next (State.serveWaiting_none ?_ _)
  split
  · exact hset
  · exact (noneWaits_serveInvariant l l).homeServe hset _ _

/-! The obligation. -/

/-- The last answer to INV grants the line. -/
theorem inv_grants {p : PkgNo} {l : Nat} {b : HomeBusy} (hhome : s.isHome l = true) (hw : s.noneWaits l) (hb : s.busyOf l = some b)
    (hto : nbit b.toAnswer p.val = true) (hx : b.exclusive = true) (hr : b.requester ≠ s.pkgId) (hu : b.upgrade = false)
    (h0 : setNBit b.toAnswer p.val false = 0) : ∃ t, exec (.inv p l []) s = .next t ∧ t.dirOf l = .x b.requester ∧ t.busyOf l = none ∧
      t.outs = s.outs ++ [.coherence "DATA_X" b.requester l (s.homeData l)] ∧ t = { s with dir := t.dir, homeBusy := t.homeBusy, outs := t.outs } := by
  have hlast : s.sharerAnswers p.val l b = s.completeSnoop l 0 b := by
    rw [State.sharerAnswers]
    exact if_pos h0
  obtain ⟨hdir, hsent, hfree, -, -, hframe⟩ := s.given_reads l (.x b.requester) (.coherence "DATA_X" b.requester l (s.homeData l))
  exact ⟨_, (exec_inv_home hhome hb hto hx).trans (congrArg _ (hlast.trans (completeSnoop_exclusive 0 hw hr hx hu))), hdir, hfree, hsent, hframe⟩

theorem inv_waits {p : PkgNo} {l : Nat} {b : HomeBusy} (hhome : s.isHome l = true) (hb : s.busyOf l = some b)
    (hto : nbit b.toAnswer p.val = true) (hx : b.exclusive = true) (h0 : setNBit b.toAnswer p.val false ≠ 0) :
    ∃ t, exec (.inv p l []) s = .next t ∧ t.busyOf l = some { b with toAnswer := setNBit b.toAnswer p.val false } ∧
      t = { s with homeBusy := t.homeBusy } := by
  have hmore : s.sharerAnswers p.val l b = s.setBusy l { b with toAnswer := setNBit b.toAnswer p.val false } := by
    rw [State.sharerAnswers]
    exact if_neg h0
  exact ⟨_, (exec_inv_home hhome hb hto hx).trans (congrArg _ hmore), State.setBusy_busyOf _ _ _, rfl⟩

theorem setHomeData_noneWaits {l : Nat} (d : List Byte) (hw : s.noneWaits l) : (s.setHomeData l (.data d)).noneWaits l := by
  obtain ⟨-, -, -, -, -, -, -, hwaits⟩ := s.setHomeData_keeps l d
  unfold State.noneWaits
  rw [hwaits]
  exact hw

theorem setHomeData_requester {l : Nat} (d : List Byte) {b : HomeBusy} (hr : b.requester ≠ s.pkgId) :
    b.requester ≠ (s.setHomeData l (.data d)).pkgId := by
  obtain ⟨-, -, -, -, -, -, hpkg, -⟩ := s.setHomeData_keeps l d
  rw [hpkg]
  exact hr

theorem fwdX_grants {p : PkgNo} {l : Nat} {b : HomeBusy} {d : List Byte} (hd : d.length = 64) (hhome : s.isHome l = true) (hw : s.noneWaits l)
    (hb : s.busyOf l = some b) (hto : nbit b.toAnswer p.val = true) (hx : b.exclusive = true) (hr : b.requester ≠ s.pkgId)
    (hu : b.upgrade = false) (hdir : s.dirOf l = .x p.val) : ∃ t, exec (.fwdX p l (.data (.data d)) []) s = .next t ∧
      t.dirOf l = .x b.requester ∧ t.busyOf l = none ∧ t.homeData l = .data d ∧
      t.outs = s.outs ++ [.coherence "DATA_X" b.requester l (.data d)] :=
  ⟨_, (exec_fwdX_home hhome hb hto hdir (.data d) hx).trans (congrArg _ (completeSnoop_exclusive (2 ^ p.val) (setHomeData_noneWaits d hw)
    (setHomeData_requester d hr) hx hu)), answered_given hd (o := fun x => .coherence "DATA_X" b.requester l x) rfl⟩

theorem fwdS_grants {p : PkgNo} {l : Nat} {b : HomeBusy} {d : List Byte} (hd : d.length = 64) (hhome : s.isHome l = true) (hw : s.noneWaits l)
    (hb : s.busyOf l = some b) (hto : nbit b.toAnswer p.val = true) (hx : b.exclusive = false) (hr : b.requester ≠ s.pkgId)
    (hdir : s.dirOf l = .x p.val) : ∃ t, exec (.fwdS p l (.data (.data d)) []) s = .next t ∧
      t.dirOf l = .s (setNBit (2 ^ p.val) b.requester true) ∧ t.busyOf l = none ∧ t.homeData l = .data d ∧
      t.outs = s.outs ++ [.coherence "DATA_S" b.requester l (.data d)] :=
  ⟨_, (exec_fwdS_home hhome hb hto hdir (.data d) hx).trans (congrArg _ (completeSnoop_shared (2 ^ p.val) (setHomeData_noneWaits d hw)
    (setHomeData_requester d hr) hx)), answered_given hd (o := fun x => .coherence "DATA_S" b.requester l x) rfl⟩

theorem putM_written {p : PkgNo} {l : Nat} {d : List Byte} (hd : d.length = 64) (hp : p.val ≠ s.pkgId) (hhome : s.isHome l = true)
    (hdir : s.dirOf l = .x p.val) (hb : s.busyOf l = none) : ∃ t, exec (.putM p l (.data d) []) s = .next t ∧ t.dirOf l = .i ∧
      t.homeData l = .data d ∧ (∀ k, k ≠ l → t.dirOf k = s.dirOf k) ∧ t.outs = s.outs ∧ t.cache = s.cache ∧ t.pins = s.pins ∧
      t.engines = s.engines := by
  have hdata := s.setHomeData_homeData l hd
  obtain ⟨-, hdirs, houts, hcache, hpins, heng, -, -⟩ := s.setHomeData_keeps l d
  have hexec := (exec_putM_home hhome hp (.data d)).trans (congrArg _ (State.homePut_some hdir hb))
  generalize s.setHomeData l (.data d) = u at *
  exact ⟨_, hexec, State.setDir_dirOf _ _ _, hdata, fun k hk => (State.setDir_dirOf_ne _ _ _ _ hk).trans (congrFun hdirs k), houts, hcache,
    hpins, heng⟩

theorem Told.of_exec {i : Instr} {l : Nat} {x : CacheLine} {o : Output} {u : State} (hi : exec i s = .next u) (h : Told l x o s u) :
    ∃ t, exec i s = .next t ∧ t.cline l = x ∧ t.outs = s.outs ++ [o] ∧ (∀ k, k ≠ l → t.cline k = s.cline k) ∧
      t = { s with cache := t.cache, outs := t.outs, poison := t.poison } :=
  ⟨u, hi, h.line, h.outs, h.others, h.frame⟩

/-- Settles O60: at the home an answer completes what waits for it; a package that is not the home tells of what its cache held. -/
theorem evictionsAndSnoopsAreAnswered : Obligations.EvictionsAndSnoopsAreAnswered := by
  unfold Obligations.EvictionsAndSnoopsAreAnswered
  intro p l d answer s
  refine ⟨fun hp hhome hd => ⟨fun hdir hb => ⟨putM_written hd hp hhome hdir hb, ?_⟩, fun hdir => ⟨?_, ?_⟩,
    fun b hw hb hto hx hr hu => ⟨inv_grants hhome hw hb hto hx hr hu, inv_waits hhome hb hto hx,
      fwdX_grants hd hhome hw hb hto hx hr hu⟩,
    fun b hw hb hto hx hr hdir => fwdS_grants hd hhome hw hb hto hx hr hdir⟩,
    fun hp haway x hx => ?_, fun b u hb hto hw hu => ?_⟩
  · exact ⟨_, (exec_putE_home hhome hp).trans (congrArg _ (State.homePut_none hdir hb)), State.setDir_dirOf _ _ _,
      fun k hk => State.setDir_dirOf_ne _ _ _ _ hk, rfl⟩
  · exact (exec_putM_home hhome hp _).trans (congrArg _ (State.homePut_foreign hdir _))
  · exact (exec_putE_home hhome hp).trans (congrArg _ (State.homePut_foreign hdir _))
  · subst hx
    refine ⟨fun hst => ?_, fun hst => ?_, fun hst => ⟨?_, ?_, ?_⟩, fun hst i hi => ?_⟩
    · exact Told.of_exec ((exec_putM_own hp _ hst).trans (congrArg _ (State.evictOwn_away haway true))) (Told.dropLine _ _ _ _)
    · exact Told.of_exec ((exec_putE_own hp hst).trans (congrArg _ (State.evictOwn_away haway false))) (Told.dropLine _ _ _ _)
    · exact Told.of_exec ((exec_fwdS_away hp haway answer).trans (congrArg _ (State.answerSnoop_held hst true))) (Told.setCline _ _ _ _)
    · exact Told.of_exec ((exec_fwdX_away hp haway answer).trans (congrArg _ (State.answerSnoop_held hst false))) (Told.dropLine _ _ _ _)
    · exact Told.of_exec ((exec_inv_away hp haway).trans (congrArg _ (State.dropCopy_held hst))) (Told.dropLine _ _ _ _)
    · have hnews : exec i s = .next (s.send (.coherence (putNews (s.cline l).put) (lineHome l) l noData)) := by
        simp only [List.mem_cons, List.not_mem_nil, or_false] at hi
        rcases hi with rfl | rfl | rfl
        · exact (exec_fwdS_away hp haway answer).trans (congrArg _ (State.answerSnoop_absent hst true))
        · exact (exec_fwdX_away hp haway answer).trans (congrArg _ (State.answerSnoop_absent hst false))
        · exact (exec_inv_away hp haway).trans (congrArg _ ((State.dropCopy_absent hst).trans (State.answerSnoop_absent hst false)))
      rw [hnews]
      cases (s.cline l).put with
      | none => rfl
      | some dirty => cases dirty <;> rfl
  · obtain ⟨hdir, hfree, hpoison, hothers⟩ := s.lineLost_reads l
    have hlost : u = s.lineLost l := hu
    have hexec := exec_snoopTargetUnreachable hb hto hw
    rw [← hlost] at hdir hfree hpoison hothers hexec
    exact ⟨hdir, hfree, hpoison, hothers, fun hr => hexec.trans (congrArg _ (if_pos hr)), fun hr => hexec.trans (congrArg _ (if_neg hr))⟩

end Sys2Proof.Machine
end

section
/-! SUPPORT. Flow engines: the writers of the datalog that keep everything else (R398-R400), and how sites are set, held and sent on
(R384, R386). -/

namespace Sys2Proof.Machine

variable {s t : State}

/-! Writers of records (R399, R400). -/

theorem State.logWrite_kept (s : State) (r : List Byte) (hmem : s.logInMemory) : LogKept s (s.logWrite r) := by
  obtain ⟨l, -, o, k, ho, e⟩ := s.logWrite_eq r
  have hbase := hmem 0 s.logSize_pos
  rw [Nat.add_zero] at hbase
  obtain ⟨hsans, hpins⟩ := s.logStore_kept (l.take k) (hmem o ho)
  obtain ⟨hsans', hpins'⟩ := (s.logStore (s.logBase + o) (l.take k)).logStore_kept (l.drop k) hbase
  rw [e]
  exact (State.logged_of_mem l.length (hsans'.trans hsans) (hpins'.trans hpins)).toLogKept

theorem State.logPut_kept {r : List Byte} (hmem : s.logInMemory) (h : s.logPut r = some t) : LogKept s t := by
  unfold State.logPut at h
  split at h
  · exact Option.some.inj h ▸ s.logWrite_kept r hmem
  · split at h
    · exact Option.some.inj h ▸ s.nextSeq_kept.trans (LogKept.setFld _ _ _ (.inr (.inr rfl)))
    · exact nomatch h

/-- A writer that writes a record alone. -/
def LogTask.plain : LogTask → Prop
  | .record _ => True
  | .start _ _ _ => True
  | .siteEnd _ _ _ _ => False

theorem State.logStep_kept {x : LogTask} (hx : x.plain) (hmem : s.logInMemory) (h : s.logStep x = some t) : LogKept s t := by
  cases x with
  | record r => exact State.logPut_kept hmem h
  | start n site test => exact State.logPut_kept hmem h
  | siteEnd n site test err => exact absurd hx id

theorem State.logPut_logWait {r : List Byte} (h : s.logPut r = some t) : t.logWait = s.logWait := by
  unfold State.logPut at h
  split at h
  · obtain ⟨l, -, o, k, -, e⟩ := s.logWrite_eq r
    have hstore : ∀ (u : State) (a : Nat) (m : List Byte), (u.logStore a m).logWait = u.logWait := fun u a m => by
      unfold State.logStore
      split
      · rfl
      · split
        · rfl
        · split
          · unfold State.flowStore
            split
            · rfl
            · have e := congrArg State.logWait (u.storeLines_kept a m (m.length / 64 + 2)).1
              exact e
          · rfl
    rw [← Option.some.inj h, e, State.nextSeq_logWait, State.setReg_logWait, hstore, hstore]
  · split at h
    · rw [← Option.some.inj h, State.countSat_logWait, State.nextSeq_logWait]
    · exact nomatch h

theorem State.logStep_logWait {x : LogTask} (hx : x.plain) (h : s.logStep x = some t) : t.logWait = s.logWait := by
  cases x with
  | record r => exact State.logPut_logWait h
  | start n site test => exact State.logPut_logWait h
  | siteEnd n site test err => exact absurd hx id

/-- Writers of records that take their turns keep everything but the datalog, and those that still wait are of them. -/
theorem State.logRun_kept (k : Nat) (s : State) (hx : ∀ x ∈ s.logWait, x.plain) (hmem : s.logInMemory) :
    LogKept s (s.logRun k) ∧ ∀ x ∈ (s.logRun k).logWait, x.plain := by
  induction k generalizing s with
  | zero => exact ⟨LogKept.refl s, hx⟩
  | succ k ih =>
    unfold State.logRun
    split
    next x l hl =>
      have hplain : ∀ y ∈ x :: l, y.plain := hl ▸ hx
      have hwith := LogKept.withLogWait s l
      cases hstep : ({ s with logWait := l } : State).logStep x with
      | none => exact ⟨LogKept.refl s, hx⟩
      | some t =>
        have hkept := hwith.trans (State.logStep_kept (hplain x List.mem_cons_self) (hwith.logInMemory hmem) hstep)
        have hwait : t.logWait = l := State.logStep_logWait (hplain x List.mem_cons_self) hstep
        obtain ⟨hrun, hrest⟩ := ih t (fun y hy => hplain y (List.mem_cons_of_mem _ (hwait ▸ hy))) (hkept.logInMemory hmem)
        exact ⟨hkept.trans hrun, hrest⟩
    next => exact ⟨LogKept.refl s, hx⟩

/-- The writers that wait write records alone, in a ring that holds no register. -/
structure LogQuiet (s : State) : Prop where
  tasks : ∀ x ∈ s.logWait, x.plain
  memory : s.logInMemory

theorem State.logTask_kept (h : LogQuiet s) {x : LogTask} (hx : x.plain) : LogKept s (s.logTask x) ∧ LogQuiet (s.logTask x) := by
  have hwith := LogKept.withLogWait s (s.logWait ++ [x])
  have htasks : ∀ y ∈ ({ s with logWait := s.logWait ++ [x] } : State).logWait, y.plain := fun y hy => by
    rcases List.mem_append.mp hy with hy | hy
    · exact h.tasks y hy
    · exact List.mem_singleton.mp hy ▸ hx
  have hmem := hwith.logInMemory h.memory
  unfold State.logTask State.logDrain
  obtain ⟨hrun, hrest⟩ := State.logRun_kept (2 * ({ s with logWait := s.logWait ++ [x] } : State).logWait.length)
    { s with logWait := s.logWait ++ [x] } htasks hmem
  have hall := hwith.trans (hrun.trans (State.showLogWait_kept _))
  refine ⟨hall, fun y hy => ?_, hall.logInMemory h.memory⟩
  rw [State.showLogWait_logWait] at hy
  exact hrest y hy

theorem LogQuiet.of_logFree (h : s.logFree) : LogQuiet s := ⟨fun x hx => (nomatch (h.1 ▸ hx : x ∈ [])), h.2⟩

theorem startRecords_kept (n : Nat) (l : List Nat) (s : State) (h : LogQuiet s) : LogKept s (l.foldl (fun t k => t.startRecord n k 0) s) := by
  induction l generalizing s with
  | nil => exact LogKept.refl s
  | cons k l ih =>
    obtain ⟨hkept, hquiet⟩ := State.logTask_kept h (x := .start n k 0) trivial
    exact hkept.trans (ih _ hquiet)

/-! The registers of a site. -/

section

variable {k j : Nat}

theorem flwSiteStat_inj (h : FLW_SITE_STAT k = FLW_SITE_STAT j) : k = j := by
  simp only [FLW_SITE_STAT] at h
  omega

theorem flwSiteStat_ne_flwStat : FLW_SITE_STAT k ≠ FLW_STAT j := by
  simp only [FLW_SITE_STAT, FLW_STAT, hubBlk]
  omega

theorem flwSiteStat_notMem_logRegs (hk : k < 64) : FLW_SITE_STAT k ∉ logRegs := by
  simp only [logRegs, List.mem_append, List.mem_cons, List.not_mem_nil, or_false, List.mem_map, List.mem_range, not_or, not_exists, not_and,
    FLW_SITE_STAT, FLW_LOG_WPTR, FLW_LOG_SEQ, FLW_LOG_STAT, FLW_STAT, hubBlk]
  exact ⟨by omega, fun x hx => by omega⟩

/-- The registers that the insertion of a site sets. -/
def siteRegs (k : Nat) : List Nat := FLW_SITE_STAT k :: (List.range 16).flatMap (fun i => [FLW_VAL_LO k i, FLW_VAL_HI k i])

theorem mem_siteRegs {a : Nat} : a ∈ siteRegs k ↔ a = FLW_SITE_STAT k ∨ ∃ i, i < 16 ∧ (a = FLW_VAL_LO k i ∨ a = FLW_VAL_HI k i) := by
  simp [siteRegs]

theorem flwSiteStat_ne_val (hk : k < 64) (i : Nat) : FLW_SITE_STAT k ≠ FLW_VAL_LO j i ∧ FLW_SITE_STAT k ≠ FLW_VAL_HI j i := by
  simp only [FLW_SITE_STAT, FLW_VAL_LO, FLW_VAL_HI, hubBlk]
  omega

theorem siteRegs_disjoint (hk : k < 64) (hj : j < 64) (h : k ≠ j) : ∀ a ∈ siteRegs k, a ∉ siteRegs j := by
  intro a ha hb
  rw [mem_siteRegs] at ha hb
  simp only [FLW_SITE_STAT, FLW_VAL_LO, FLW_VAL_HI, hubBlk] at ha hb
  rcases ha with rfl | ⟨i, hi, rfl | rfl⟩ <;> rcases hb with hb | ⟨m, hm, hb | hb⟩ <;> omega

theorem siteRegs_ne_flwStat (hk : k < 64) (hj : j < 8) : FLW_STAT j ∉ siteRegs k := by
  rw [mem_siteRegs]
  simp only [FLW_SITE_STAT, FLW_VAL_LO, FLW_VAL_HI, FLW_STAT, hubBlk]
  rintro (h | ⟨i, hi, h | h⟩) <;> omega

theorem siteRegs_ne_logRegs (hk : k < 64) : ∀ a ∈ siteRegs k, a ∉ logRegs := by
  intro a ha hb
  rw [mem_siteRegs] at ha
  simp only [logRegs, List.mem_append, List.mem_cons, List.not_mem_nil, or_false, List.mem_map, List.mem_range] at hb
  simp only [FLW_SITE_STAT, FLW_VAL_LO, FLW_VAL_HI, FLW_LOG_WPTR, FLW_LOG_SEQ, FLW_LOG_STAT, FLW_STAT, hubBlk] at ha hb
  rcases ha with rfl | ⟨i, hi, rfl | rfl⟩ <;> rcases hb with (hb | hb | hb) | ⟨m, hm, hb⟩ <;> omega

end

/-! VAL of a site (R384). -/

theorem State.setVal_reg_ne (s : State) (k i : Nat) (v : Int) {a : Nat} (hlo : a ≠ FLW_VAL_LO k i) (hhi : a ≠ FLW_VAL_HI k i) :
    (s.setVal k i v).reg a = s.reg a := by
  unfold State.setVal State.setPair
  rw [State.setReg_reg_ne _ _ _ _ hhi, State.setReg_reg_ne _ _ _ _ hlo]

theorem flwVal_ne (k i j : Nat) : FLW_VAL_LO k i ≠ FLW_VAL_HI k j := by
  simp only [FLW_VAL_LO, FLW_VAL_HI]
  omega

theorem State.val_of_regs {k i : Nat} (hlo : t.reg (FLW_VAL_LO k i) = s.reg (FLW_VAL_LO k i))
    (hhi : t.reg (FLW_VAL_HI k i) = s.reg (FLW_VAL_HI k i)) : t.val k i = s.val k i := by
  unfold State.val State.pair
  rw [hlo, hhi]

theorem State.setVal_val_ne (s : State) (k i : Nat) (v : Int) {j : Nat} (h : j ≠ i) : (s.setVal k i v).val k j = s.val k j := by
  have hlo : FLW_VAL_LO k j ≠ FLW_VAL_LO k i := by
    simp only [FLW_VAL_LO]
    omega
  have hhi : FLW_VAL_HI k j ≠ FLW_VAL_HI k i := by
    simp only [FLW_VAL_HI]
    omega
  exact State.val_of_regs (s.setVal_reg_ne k i v hlo (flwVal_ne k j i)) (s.setVal_reg_ne k i v (flwVal_ne k i j).symm hhi)

theorem State.setVal_val (s : State) (k i : Nat) (v : Int) : (s.setVal k i v).val k i = sx 64 (ux 64 v) := by
  have hv : ux 64 v < 2 ^ 64 := by
    unfold ux
    omega
  unfold State.val State.setVal
  rw [State.setPair_pair _ (flwVal_ne k i i) hv]

theorem State.setVal_zero (s : State) (k i : Nat) : (s.setVal k i 0).val k i = 0 := s.setVal_val k i 0

/-- A step of a fold sets what it says of its element, and the other steps keep it. -/
theorem foldl_each {α : Type} {f : State → α → State} {P : α → State → Prop} (l : List α) (hset : ∀ x ∈ l, ∀ t, P x (f t x))
    (hkeep : ∀ x ∈ l, ∀ y ∈ l, ∀ t, P x t → P x (f t y)) (s : State) : ∀ x ∈ l, P x (l.foldl f s) := by
  induction l generalizing s with
  | nil => exact fun x hx => nomatch hx
  | cons y l ih =>
    intro x hx
    rw [List.foldl_cons]
    by_cases hl : x ∈ l
    · exact ih (fun z hz => hset z (List.mem_cons_of_mem _ hz))
        (fun z hz w hw => hkeep z (List.mem_cons_of_mem _ hz) w (List.mem_cons_of_mem _ hw)) (f s y) x hl
    · have hxy : x = y := (List.mem_cons.mp hx).resolve_right hl
      exact List.foldlRecOn l f (motive := P x) (hxy ▸ hset x hx s) fun t ht w hw => hkeep x hx w (List.mem_cons_of_mem _ hw) t ht

/-- The values of a site are zero. -/
def State.zeroVals (s : State) (k : Nat) : State := (List.range 16).foldl (fun t i => t.setVal k i 0) s

theorem State.zeroVals_val (s : State) (k : Nat) : ∀ i, i < 16 → (s.zeroVals k).val k i = 0 := fun i hi =>
  foldl_each (P := fun i t => t.val k i = 0) (List.range 16) (fun i _ t => t.setVal_zero k i)
    (fun i _ j _ t h => by
      by_cases hij : i = j
      · rw [hij]
        exact t.setVal_zero k j
      · rw [t.setVal_val_ne k j 0 hij]
        exact h) s i (List.mem_range.mpr hi)

theorem State.zeroVals_reg (s : State) (k : Nat) {a : Nat} (h : ∀ i, i < 16 → a ≠ FLW_VAL_LO k i ∧ a ≠ FLW_VAL_HI k i) :
    (s.zeroVals k).reg a = s.reg a :=
  foldl_obs_mem _ (fun t => t.reg a) _ (fun i hi t => t.setVal_reg_ne k i 0 (h i (List.mem_range.mp hi)).1 (h i (List.mem_range.mp hi)).2) s

theorem State.setVal_regsOnly (s : State) (k i : Nat) (v : Int) : s.regsOnly (s.setVal k i v) :=
  State.regsOnly_trans (s.setReg_regsOnly _ _) (State.setReg_regsOnly _ _ _)

theorem State.zeroVals_regsOnly (s : State) (k : Nat) : s.regsOnly (s.zeroVals k) :=
  List.foldlRecOn (motive := fun t => s.regsOnly t) _ _ (State.regsOnly_refl s) fun t ht i _ => State.regsOnly_trans ht (t.setVal_regsOnly k i 0)

/-! A site is set (R384, R396). -/

/-- What the setting of a site writes of it: its status and its pointers. -/
def State.siteCleared (s : State) (k retests : Nat) : State :=
  ((s.setReg (FLW_SITE_STAT k) 0).setFld (FLW_SITE_STAT k) FLW_SITE_STAT_RETESTS retests).updSite k (fun x => { x with ptr := 0, next := 0 })

theorem State.siteReset_eq (s : State) (k retests : Nat) : s.siteReset k retests = (s.siteCleared k retests).zeroVals k := rfl

/-- What a site shows once it is set. -/
structure SiteSet (k retests : Nat) (s t : State) : Prop where
  stat : t.reg (FLW_SITE_STAT k) = setF 0 FLW_SITE_STAT_RETESTS retests
  vals : ∀ i, i < 16 → t.val k i = 0
  site : t.site k = { s.site k with ptr := 0, next := 0 }
  others : ∀ j, j ≠ k → t.site j = s.site j
  frame : t = { s with regs := t.regs, sites := t.sites }
  kept : s.regsKept t (siteRegs k)

theorem State.updSite_frame_of_regsOnly {u : State} (hu : s.regsOnly u) (k : Nat) (f : SiteSt → SiteSt) :
    u.updSite k f = { s with regs := (u.updSite k f).regs, sites := (u.updSite k f).sites } := by
  obtain ⟨r, hr⟩ : ∃ r, u = { s with regs := r } := ⟨_, hu⟩
  subst hr
  rfl

theorem State.siteCleared_reads (s : State) (k retests : Nat) :
    (s.siteCleared k retests).reg (FLW_SITE_STAT k) = setF 0 FLW_SITE_STAT_RETESTS retests ∧
    (s.siteCleared k retests).site k = { s.site k with ptr := 0, next := 0 } ∧
    (∀ j, j ≠ k → (s.siteCleared k retests).site j = s.site j) ∧ (∀ a, a ≠ FLW_SITE_STAT k → (s.siteCleared k retests).reg a = s.reg a) ∧
    s.siteCleared k retests = { s with regs := (s.siteCleared k retests).regs, sites := (s.siteCleared k retests).sites } := by
  unfold State.siteCleared
  refine ⟨?_, ?_, fun j hj => ?_, fun a ha => ?_, State.updSite_frame_of_regsOnly
    (State.regsOnly_trans (s.setReg_regsOnly _ _) (State.setFld_regsOnly _ _ _ _)) _ _⟩
  · rw [State.updSite_reg, State.setFld_reg, State.setReg_reg]
  · rw [State.updSite, State.setSite_site, State.setFld_site, State.setReg_site]
  · rw [State.updSite, State.setSite_site_ne _ _ _ _ hj, State.setFld_site, State.setReg_site]
  · rw [State.updSite_reg, State.setFld_reg_ne _ _ _ _ _ ha, State.setReg_reg_ne _ _ _ _ ha]

theorem SiteSet.of_stages {k retests : Nat} (hk : k < 64) {u : State} (hu : u = s.siteCleared k retests) (ht : t = u.zeroVals k) :
    SiteSet k retests s t := by
  have hval : ∀ i, i < 16 → FLW_SITE_STAT k ≠ FLW_VAL_LO k i ∧ FLW_SITE_STAT k ≠ FLW_VAL_HI k i := fun i _ => flwSiteStat_ne_val hk i
  obtain ⟨hstat, hsite, hothers, hkept, hframe⟩ := s.siteCleared_reads k retests
  rw [← hu] at hstat hsite hothers hkept hframe
  have hvals := u.zeroVals_val k
  have hreg := fun a h => u.zeroVals_reg k (a := a) h
  have hregs := u.zeroVals_regsOnly k
  rw [← ht] at hvals hreg hregs
  obtain ⟨r, hr⟩ : ∃ r, t = { u with regs := r } := ⟨_, hregs⟩
  have hsites : t.site = u.site := by rw [hr]; rfl
  refine ⟨(hreg _ hval).trans hstat, hvals, (congrFun hsites k).trans hsite, fun j hj => (congrFun hsites j).trans (hothers j hj), ?_, fun a ha => ?_⟩
  · obtain ⟨r', x, hx⟩ : ∃ r x, u = { s with regs := r, sites := x } := ⟨_, _, hframe⟩
    rw [hr, hx]
  · rw [mem_siteRegs, not_or, not_exists] at ha
    exact (hreg a fun i hi => ⟨fun e => ha.2 i ⟨hi, .inl e⟩, fun e => ha.2 i ⟨hi, .inr e⟩⟩).trans (hkept a ha.1)

theorem State.siteReset_set (s : State) {k : Nat} (hk : k < 64) (retests : Nat) : SiteSet k retests s (s.siteReset k retests) :=
  SiteSet.of_stages hk rfl (s.siteReset_eq k retests)

/-! Sites and clusters alone (R386). -/

/-- From s to t sites and clusters alone have changed. -/
def SitesStep (s t : State) : Prop := t = { s with sites := t.sites, clusters := t.clusters }

namespace SitesStep

variable {u : State}

theorem refl (s : State) : SitesStep s s := rfl

theorem trans (h : SitesStep s t) (k : SitesStep t u) : SitesStep s u := by
  unfold SitesStep at h k ⊢
  rw [k, h]

theorem foldl {α : Type} {f : State → α → State} {xs : List α} (hf : ∀ x ∈ xs, ∀ t, SitesStep t (f t x)) (s : State) :
    SitesStep s (xs.foldl f s) :=
  List.foldlRecOn (motive := SitesStep s) xs f (refl s) fun t ht x hx => ht.trans (hf x hx t)

theorem updSite (s : State) (k : Nat) (f : SiteSt → SiteSt) : SitesStep s (s.updSite k f) := rfl

theorem updCl (s : State) (c : Nat) (f : ClSt → ClSt) : SitesStep s (s.updCl c f) := by
  obtain ⟨x, hx⟩ := s.updCl_frame c f
  rw [hx]
  rfl

theorem stepHold (s : State) (k : Nat) (b : Bool) : SitesStep s (s.stepHold k b) := by
  unfold State.stepHold
  refine foldl (fun c _ t => ?_) s
  unfold State.updGauge
  exact updCl t c _

theorem regs (h : SitesStep s t) : t.regs = s.regs := by rw [h]
theorem flows (h : SitesStep s t) : t.flows = s.flows := by rw [h]

theorem reg (h : SitesStep s t) (a : Nat) : t.reg a = s.reg a := congrArg (fun l => tget regReset l a) h.regs

end SitesStep

theorem State.stepHold_sites (s : State) (k : Nat) (b : Bool) : (s.stepHold k b).sites = s.sites := by
  unfold State.stepHold
  refine foldl_obs _ State.sites (fun t c => ?_) _ s
  unfold State.updGauge
  obtain ⟨x, hx⟩ := t.updCl_frame c fun y => { y with gauge := _ }
  rw [hx]

theorem State.stepHold_site (s : State) (k : Nat) (b : Bool) (j : Nat) : (s.stepHold k b).site j = s.site j :=
  congrArg (fun l => tget (fun _ => ({} : SiteSt)) l j) (s.stepHold_sites k b)

end Sys2Proof.Machine
end

section
/-! Settles O49: insertions begin and end, entries complete (R383, R384, R386, R387, R392, R397, R443). -/

namespace Sys2Proof.Machine

variable {s t u : State} {n : Nat}

/-! The sites of an insertion (R384). -/

/-- What a site is at the start of an insertion. -/
def freshSite (i : Nat) : SiteSt := { ptr := 0, next := 0, insert := i, active := true }

/-- A site begins an insertion. -/
def State.siteBegun (s : State) (i k : Nat) : State := (s.siteReset k 0).setSite k (freshSite i)

/-- Registers of sites, and what is known of sites, alone have changed. -/
structure SitesSet (s t : State) : Prop where
  frame : t = { s with regs := t.regs, sites := t.sites }
  kept : ∀ a, (∀ k, k < 64 → a ∉ siteRegs k) → t.reg a = s.reg a

theorem SitesSet.refl (s : State) : SitesSet s s := ⟨rfl, fun _ _ => rfl⟩

theorem SitesSet.trans (h : SitesSet s t) (k : SitesSet t u) : SitesSet s u := by
  refine ⟨?_, fun a ha => (k.kept a ha).trans (h.kept a ha)⟩
  rw [k.frame, h.frame]

/-- What a site shows at the start of an insertion. -/
structure Begun (i k : Nat) (t : State) : Prop where
  site : t.site k = freshSite i
  stat : t.reg (FLW_SITE_STAT k) = 0
  vals : ∀ m, m < 16 → t.val k m = 0

theorem Begun.of_kept {i k : Nat} (h : Begun i k s) (hsite : t.site k = s.site k) (hregs : ∀ a ∈ siteRegs k, t.reg a = s.reg a) :
    Begun i k t := by
  refine ⟨hsite.trans h.site, (hregs _ (mem_siteRegs.mpr (.inl rfl))).trans h.stat, fun m hm => ?_⟩
  rw [State.val_of_regs (hregs _ (mem_siteRegs.mpr (.inr ⟨m, hm, .inl rfl⟩))) (hregs _ (mem_siteRegs.mpr (.inr ⟨m, hm, .inr rfl⟩)))]
  exact h.vals m hm

/-- A site that begins an insertion, from the reset of it. -/
theorem siteBegun_of_reset {i k : Nat} (hk : k < 64) (hset : SiteSet k 0 s u) (ht : t = u.setSite k (freshSite i)) :
    Begun i k t ∧ SitesSet s t ∧ (∀ j, j ≠ k → t.site j = s.site j) ∧ s.regsKept t (siteRegs k) := by
  have hreg : ∀ a, t.reg a = u.reg a := fun a => by
    rw [ht]
    rfl
  have hkept : s.regsKept t (siteRegs k) := fun a ha => (hreg a).trans (hset.kept a ha)
  refine ⟨⟨?_, ?_, fun m hm => ?_⟩, ⟨?_, fun a ha => ?_⟩, fun j hj => ?_, hkept⟩
  · rw [ht, State.setSite_site]
  · rw [hreg, hset.stat]
    rfl
  · rw [State.val_of_regs (hreg _) (hreg _)]
    exact hset.vals m hm
  · obtain ⟨r, x, hu⟩ : ∃ r x, u = { s with regs := r, sites := x } := ⟨_, _, hset.frame⟩
    rw [ht, hu]
    rfl
  · exact hkept a (ha k hk)
  · rw [ht, State.setSite_site_ne _ _ _ _ hj, hset.others j hj]

theorem State.siteBegun_begun (s : State) (i : Nat) {k : Nat} (hk : k < 64) : Begun i k (s.siteBegun i k) ∧ SitesSet s (s.siteBegun i k) ∧
    (∀ j, j ≠ k → (s.siteBegun i k).site j = s.site j) ∧ s.regsKept (s.siteBegun i k) (siteRegs k) :=
  siteBegun_of_reset hk (s.siteReset_set hk 0) rfl

/-- The sites of an insertion begin it. -/
def State.sitesBegun (s : State) (i : Nat) (l : List Nat) : State := l.foldl (fun t k => t.siteBegun i k) s

theorem State.sitesBegun_begun (s : State) (i : Nat) {l : List Nat} (hl : ∀ k ∈ l, k < 64) : (∀ k ∈ l, Begun i k (s.sitesBegun i l)) ∧
    SitesSet s (s.sitesBegun i l) ∧ (∀ k, k ∉ l → (s.sitesBegun i l).site k = s.site k) := by
  refine ⟨foldl_each l (fun k hk t => (t.siteBegun_begun i (hl k hk)).1) (fun k hk j hj t h => ?_) s, ?_, fun k hk => ?_⟩
  · obtain ⟨hbegun, -, hothers, hkept⟩ := t.siteBegun_begun i (hl j hj)
    by_cases hkj : k = j
    · exact hkj ▸ hbegun
    · exact h.of_kept (hothers k hkj) fun a ha => hkept a (siteRegs_disjoint (hl k hk) (hl j hj) hkj a ha)
  · exact List.foldlRecOn (motive := SitesSet s) l _ (SitesSet.refl s) fun t ht k hk => ht.trans (t.siteBegun_begun i (hl k hk)).2.1
  · refine foldl_obs_mem _ (fun t => t.site k) l (fun j hj t => ?_) s
    exact (t.siteBegun_begun i (hl j hj)).2.2.1 k fun e => hk (e ▸ hj)

/-! An insertion (R384). -/

/-- A flow engine runs, with no entry in progress. -/
def State.engineReady (s : State) (n : Nat) : State := (s.setBit (FLW_STAT n) FLW_STAT_RUNNING true).setFlow n {}

theorem State.insertion_eq (s : State) (n : Nat) : s.insertion n = (s.sitesOf n).foldl (fun t k => t.startRecord n k 0)
    ((s.engineReady n).sitesBegun (s.reg (FLW_INSERT n)).toNat (s.sitesOf n)) := by
  have hsites : (s.engineReady n).sitesBegun (s.reg (FLW_INSERT n)).toNat (s.sitesOf n) = (List.range 64).foldl (fun t k =>
      if s.siteOn k && s.fld (FLW_SITE_CFG k) FLW_SITE_CFG_ENGINE == n then t.siteBegun (s.reg (FLW_INSERT n)).toNat k else t)
        (s.engineReady n) := by
    rw [State.sitesBegun, State.sitesOf, List.foldl_filter]
  rw [hsites]
  rfl

theorem State.sitesOf_lt (s : State) {k : Nat} (h : k ∈ s.sitesOf n) : k < 64 := List.mem_range.mp (List.mem_of_mem_filter h)

theorem State.engineReady_reads (s : State) (n : Nat) : (s.engineReady n).bit (FLW_STAT n) FLW_STAT_RUNNING = true ∧
    (s.engineReady n).flow n = {} ∧ (∀ m, m ≠ n → (s.engineReady n).flow m = s.flow m) ∧
    (∀ a, a ≠ FLW_STAT n → (s.engineReady n).reg a = s.reg a) ∧
    s.engineReady n = { s with regs := (s.engineReady n).regs, flows := (s.engineReady n).flows } := by
  unfold State.engineReady
  obtain ⟨r, hr⟩ := s.setBit_frame (FLW_STAT n) FLW_STAT_RUNNING true
  have hrun : (s.setBit (FLW_STAT n) FLW_STAT_RUNNING true).bit (FLW_STAT n) FLW_STAT_RUNNING = true := s.setBit_bit _ _ _ rfl (by decide)
  have hreg : ∀ a, a ≠ FLW_STAT n → (s.setBit (FLW_STAT n) FLW_STAT_RUNNING true).reg a = s.reg a := fun a ha => s.setBit_reg_ne _ _ _ a ha
  rw [hr] at hrun hreg ⊢
  exact ⟨hrun, State.setFlow_flow _ _ _, fun m hm => State.setFlow_flow_ne _ _ _ _ hm, hreg, rfl⟩

theorem State.logInMemory_of_regs {s u : State} (h : ∀ a ∈ [ FLW_LOG_CFG, FLW_LOG_BASE_LO, FLW_LOG_BASE_HI], u.reg a = s.reg a)
    (k : s.logInMemory) : u.logInMemory := by
  have hsize : u.logSize = s.logSize := by
    unfold State.logSize
    rw [State.fld_of_reg _ (h FLW_LOG_CFG (by simp))]
  have hbase : u.logBase = s.logBase := by
    unfold State.logBase
    rw [State.fld_of_reg _ (h FLW_LOG_BASE_LO (by simp)), State.fld_of_reg _ (h FLW_LOG_BASE_HI (by simp))]
  intro o ho
  rw [hbase]
  exact k o (hsize ▸ ho)

theorem logPlace_notMem : ∀ a ∈ [ FLW_LOG_CFG, FLW_LOG_BASE_LO, FLW_LOG_BASE_HI], (∀ m, m < 8 → a ≠ FLW_STAT m) ∧ ∀ k, k < 64 → a ∉ siteRegs k := by
  intro a ha
  simp only [List.mem_cons, List.not_mem_nil, or_false] at ha
  simp only [mem_siteRegs, FLW_SITE_STAT, FLW_VAL_LO, FLW_VAL_HI, FLW_STAT, hubBlk]
  rcases ha with rfl | rfl | rfl
  · exact ⟨fun m hm => by unfold FLW_LOG_CFG; omega, fun k hk => by unfold FLW_LOG_CFG; rintro (h | ⟨i, hi, h | h⟩) <;> omega⟩
  · exact ⟨fun m hm => by unfold FLW_LOG_BASE_LO; omega, fun k hk => by unfold FLW_LOG_BASE_LO; rintro (h | ⟨i, hi, h | h⟩) <;> omega⟩
  · exact ⟨fun m hm => by unfold FLW_LOG_BASE_HI; omega, fun k hk => by unfold FLW_LOG_BASE_HI; rintro (h | ⟨i, hi, h | h⟩) <;> omega⟩

/-- What an insertion shows at its start. -/
structure Inserted (n : Nat) (s t : State) : Prop where
  running : t.bit (FLW_STAT n) FLW_STAT_RUNNING = true
  flow : t.flow n = {}
  flows : ∀ m, m ≠ n → t.flow m = s.flow m
  begun : ∀ k ∈ s.sitesOf n, Begun (s.reg (FLW_INSERT n)).toNat k t
  others : ∀ k, k ∉ s.sitesOf n → t.site k = s.site k
  flags : t.flags = s.flags
  pins : s.pinsKept t
  engines : t.engines = s.engines
  runs : t.runs = s.runs
  flowRegs : t.flowRegs = s.flowRegs

theorem Inserted.of_stages {a b : State} (hn : n < 8) (hfree : s.logFree) (ha : a = s.engineReady n)
    (hb : b = a.sitesBegun (s.reg (FLW_INSERT n)).toNat (s.sitesOf n))
    (ht : t = (s.sitesOf n).foldl (fun t k => t.startRecord n k 0) b) : Inserted n s t := by
  obtain ⟨hrun, hflow, hflows, hregA, hframeA⟩ := s.engineReady_reads n
  rw [← ha] at hrun hflow hflows hregA hframeA
  obtain ⟨hbegun, hset, hothers⟩ := a.sitesBegun_begun (s.reg (FLW_INSERT n)).toNat (fun k (hk : k ∈ s.sitesOf n) => s.sitesOf_lt hk)
  rw [← hb] at hbegun hset hothers
  obtain ⟨r, f, ha'⟩ : ∃ r f, a = { s with regs := r, flows := f } := ⟨_, _, hframeA⟩
  obtain ⟨r', x, hb'⟩ : ∃ r x, b = { a with regs := r, sites := x } := ⟨_, _, hset.frame⟩
  have hwait : b.logWait = s.logWait := by rw [hb', ha']
  have hmem : b.logInMemory := State.logInMemory_of_regs (fun m hm => (hset.kept m (logPlace_notMem m hm).2).trans
    (hregA m ((logPlace_notMem m hm).1 n hn))) hfree.2
  have hlog := startRecords_kept n (s.sitesOf n) b (LogQuiet.of_logFree ⟨hwait.trans hfree.1, hmem⟩)
  rw [← ht] at hlog
  have hflowsB : b.flow = a.flow := by
    rw [hb']
    rfl
  refine ⟨?_, (hlog.flow n).trans ((congrFun hflowsB n).trans hflow), fun m hm => (hlog.flow m).trans ((congrFun hflowsB m).trans (hflows m hm)),
    fun k hk => (hbegun k hk).of_kept (hlog.site k) fun m hm => hlog.regs m (siteRegs_ne_logRegs (s.sitesOf_lt hk) m hm),
    fun k hk => (hlog.site k).trans ((hothers k hk).trans ?_), hlog.flags.trans ?_, ?_, hlog.engines.trans ?_, hlog.runs.trans ?_,
    hlog.flowRegs.trans ?_⟩
  · have hstat := hlog.stat n hn FLW_STAT_RUNNING (by decide)
    have hreg : b.reg (FLW_STAT n) = a.reg (FLW_STAT n) := hset.kept _ fun k hk => siteRegs_ne_flwStat hk hn
    exact (congrArg (· == 1) hstat).trans ((State.bit_of_reg _ hreg).trans hrun)
  · rw [ha']
    rfl
  · rw [hb', ha']
  · have hpins : b.pins = s.pins := by rw [hb', ha']
    intro p
    have hp := hlog.pinsKept p
    have hpin : b.pin p = s.pin p := by
      unfold State.pin
      rw [hpins]
    rwa [hpin] at hp
  · rw [hb', ha']
  · rw [hb', ha']
  · rw [hb', ha']

theorem State.insertion_inserted (s : State) (hn : n < 8) (hfree : s.logFree) : Inserted n s (s.insertion n) :=
  Inserted.of_stages hn hfree rfl rfl (s.insertion_eq n)

/-! The commands (R383, R384, R392). -/

theorem exec_flowGo (port : PortNo) (n : FlowNo) (h : s.reaches (FLW_CTRL n.val)) :
    exec (.flowGo port n) s = .next ((s.goCommand port.val n.val).putNewRecords s) :=
  congrArg Host.Outcome.next (s.reach_open port.val _ _ h.1 h.2)

theorem exec_flowCont (port : PortNo) (n : FlowNo) (h : s.reaches (FLW_CTRL n.val)) :
    exec (.flowCont port n) s = .next (s.contCommand n.val) :=
  congrArg Host.Outcome.next (s.reach_open port.val _ _ h.1 h.2)

theorem flowGo_inserts (port : PortNo) (n : FlowNo) (hcan : s.cannotInsert n.val = false) (hfree : s.logFree) (h : s.reaches (FLW_CTRL n.val))
    (hact : s.bit BOOT_STAT BOOT_STAT_ACTIVATING = false) : exec (.flowGo port n) s = .next (s.insertion n.val) := by
  have hgo : s.goCommand port.val n.val = s.insertion n.val := by
    rw [State.goCommand, hcan, hact]
    rfl
  rw [exec_flowGo port n h, hgo, State.putNewRecords_none (s.insertion_inserted n.isLt hfree).flowRegs]

theorem flowGo_refused (port : PortNo) (n : FlowNo) (h : s.reaches (FLW_CTRL n.val))
    (hno : s.cannotInsert n.val = true ∨ s.bit BOOT_STAT BOOT_STAT_ACTIVATING = true) :
    exec (.flowGo port n) s = .next (s.violation 0x02 port.val 0 n.val (FLW_CTRL n.val)) := by
  have hgo : s.goCommand port.val n.val = s.violation 0x02 port.val 0 n.val (FLW_CTRL n.val) := by
    unfold State.goCommand
    exact if_pos (by rw [Bool.or_eq_true]; exact hno)
  have hregs : (s.violation 0x02 port.val 0 n.val (FLW_CTRL n.val)).flowRegs = s.flowRegs := by
    have e := congrArg State.flowRegs (s.violation_portsOnly 0x02 port.val 0 n.val (FLW_CTRL n.val)).rest
    exact e
  rw [exec_flowGo port n h, hgo, State.putNewRecords_none hregs]

/-- The package flag that starts an insertion is cleared. -/
def State.flagTaken (s : State) (n : Nat) : State := s.setFlag (2000 + s.fld (FLW_CTRL n) FLW_CTRL_START_FLAG) false

theorem flowStartFlag_inserts (n : FlowNo) (hcan : s.cannotInsert n.val = false) (hfree : s.logFree)
    (hsrc : s.fld (FLW_CTRL n.val) FLW_CTRL_START_SRC = 1) (hflag : s.flag (2000 + s.fld (FLW_CTRL n.val) FLW_CTRL_START_FLAG) = true) :
    exec (.flowStartFlag n) s = .next ((s.flagTaken n.val).insertion n.val) := by
  have harm : exec (.flowStartFlag n) s = execFlowStartFlag n s := rfl
  have hkey : pkgFlag (s.fld (FLW_CTRL n.val) FLW_CTRL_START_FLAG) = 2000 + s.fld (FLW_CTRL n.val) FLW_CTRL_START_FLAG := by
    have hlt : s.fld (FLW_CTRL n.val) FLW_CTRL_START_FLAG < 256 := s.fld_lt _ _
    unfold pkgFlag
    rw [Nat.mod_eq_of_lt hlt]
  have hins := (s.flagTaken n.val).insertion_inserted n.isLt hfree
  rw [harm, execFlowStartFlag, hkey]
  rw [if_pos ⟨hsrc, hflag, hcan⟩]
  exact congrArg Host.Outcome.next (State.putNewRecords_none hins.flowRegs)

/-! Sites go on to their next entries (R386, R387). -/

/-- A site goes on to its next entry, and with STEP_END its flow step ends. -/
def State.sentOn (s : State) (stepEnd : Bool) (k : Nat) : State :=
  let u := s.updSite k (fun y => { y with ptr := y.next })
  if stepEnd then u.stepHold k false else u

theorem State.sentOn_step (s : State) (stepEnd : Bool) (k : Nat) : SitesStep s (s.sentOn stepEnd k) := by
  unfold State.sentOn
  dsimp only
  split
  · exact (SitesStep.updSite s k _).trans (SitesStep.stepHold _ _ _)
  · exact SitesStep.updSite s k _

/-- What is known of a site that has gone on. -/
def wentOn (y : SiteSt) : SiteSt := { y with ptr := y.next }

theorem State.sentOn_site (s : State) (stepEnd : Bool) (k j : Nat) : (s.sentOn stepEnd k).site j = if j = k then wentOn (s.site j) else s.site j := by
  have hupd : (s.updSite k (fun y => { y with ptr := y.next })).site j = if j = k then wentOn (s.site j) else s.site j := by
    by_cases hj : j = k
    · rw [if_pos hj, hj]
      exact State.setSite_site _ _ _
    · rw [if_neg hj]
      exact State.setSite_site_ne _ _ _ _ hj
  unfold State.sentOn
  dsimp only
  split
  · exact (State.stepHold_site _ _ _ _).trans hupd
  · exact hupd

theorem foldl_sentOn_site (stepEnd : Bool) (l : List Nat) (s : State) (j : Nat) :
    (l.foldl (fun t k => t.sentOn stepEnd k) s).site j = if j ∈ l then wentOn (s.site j) else s.site j := by
  induction l generalizing s with
  | nil => rfl
  | cons k l ih =>
    have hhere := s.sentOn_site stepEnd k j
    rw [List.foldl_cons, ih]
    by_cases hk : j = k
    · rw [if_pos hk] at hhere
      rw [if_pos (List.mem_cons.mpr (.inl hk)), hhere]
      split
      · rfl
      · rfl
    · rw [if_neg hk] at hhere
      rw [hhere]
      by_cases hl : j ∈ l
      · rw [if_pos hl, if_pos (List.mem_cons_of_mem _ hl)]
      · rw [if_neg hl, if_neg fun h => (List.mem_cons.mp h).elim hk hl]

theorem State.advanceSites_eq {x : FlowEntry} (h : (s.flow n).entry = some x) :
    s.advanceSites n x = x.sites.foldl (fun t k => t.sentOn x.stepEnd k) s := by
  rw [State.advanceSites, State.servedSites, h]
  rfl

/-! An insertion ends (R397, R403). -/

/-- An insertion is counted, and its engine runs no more. -/
def State.insertionCounted (s : State) (n : Nat) : State :=
  (s.setReg (FLW_INSERT n) (s.reg (FLW_INSERT n) + 1)).setBit (FLW_STAT n) FLW_STAT_RUNNING false

/-- A site leaves its insertion. -/
def State.siteLeft (s : State) (k : Nat) : State := s.updSite k (fun x => { x with active := false })

/-- Sites leave their insertion. -/
def State.sitesLeft (s : State) (l : List Nat) : State := l.foldl State.siteLeft s

/-- The package summary of an insertion goes to Bench of the timing master, when it is asked for. -/
def State.insertionReported (u s : State) (n : Nat) (y : PkgSummary) : State :=
  if !s.bit (FLW_CTRL n) FLW_CTRL_SYS_REPORT then u
  else if s.bit VYN_SYS_STAT VYN_SYS_STAT_IS_MASTER then { u with pkgBench := u.pkgBench ++ [y] }
  else u.send (.vyene "PACKAGE_SUMMARY" (s.fld VYN_SYS_STAT VYN_SYS_STAT_MASTER_ID) ((pkgBytes y).map (·.toNat)))

theorem State.insertionEnd_eq (s : State) (n : Nat) : s.insertionEnd n =
    (if s.flowOn n && (s.inserted n).all (fun k => s.bit (FLW_SITE_STAT k) FLW_SITE_STAT_DONE) then
      ((s.insertionCounted n).sitesLeft (s.inserted n)).insertionReported s n ((s.insertionCounted n).packageSummary n) else s) := by
  unfold State.insertionEnd
  rfl

theorem State.insertionReported_keeps (u s : State) (n : Nat) (y : PkgSummary) : (u.insertionReported s n y).reg = u.reg ∧
    (u.insertionReported s n y).site = u.site ∧ (u.insertionReported s n y).flow = u.flow ∧
    (u.insertionReported s n y).flowRegs = u.flowRegs := by
  unfold State.insertionReported
  split
  · exact ⟨rfl, rfl, rfl, rfl⟩
  · split
    · exact ⟨rfl, rfl, rfl, rfl⟩
    · exact ⟨rfl, rfl, rfl, rfl⟩

theorem State.updSite_site_eq (s : State) (k j : Nat) (f : SiteSt → SiteSt) : (s.updSite k f).site j = if j = k then f (s.site j) else s.site j := by
  by_cases hj : j = k
  · rw [if_pos hj, hj]
    exact State.setSite_site _ _ _
  · rw [if_neg hj]
    exact State.setSite_site_ne _ _ _ _ hj

theorem State.siteLeft_reads (s : State) (k : Nat) : ((s.siteLeft k).site k).active = false ∧
    (∀ j, (s.site j).active = false → ((s.siteLeft k).site j).active = false) ∧ ∀ j, ((s.siteLeft k).site j).ptr = (s.site j).ptr := by
  unfold State.siteLeft
  refine ⟨?_, fun j hj => ?_, fun j => ?_⟩
  · rw [State.updSite_site_eq, if_pos rfl]
  · rw [State.updSite_site_eq]
    split
    · rfl
    · exact hj
  · rw [State.updSite_site_eq]
    split
    · rfl
    · rfl

theorem State.sitesLeft_reads (s : State) (l : List Nat) : (∀ k ∈ l, ((s.sitesLeft l).site k).active = false) ∧
    (∀ k, ((s.sitesLeft l).site k).ptr = (s.site k).ptr) ∧ (s.sitesLeft l).reg = s.reg ∧ (s.sitesLeft l).flow = s.flow ∧
    (s.sitesLeft l).flowRegs = s.flowRegs :=
  ⟨foldl_each (P := fun k t => (t.site k).active = false) l (fun k _ t => (t.siteLeft_reads k).1)
      (fun k _ j _ t h => (t.siteLeft_reads j).2.1 k h) s,
    fun k => foldl_obs State.siteLeft (fun t => (t.site k).ptr) (fun t j => (t.siteLeft_reads j).2.2 k) l s,
    foldl_obs State.siteLeft State.reg (fun _ _ => rfl) l s, foldl_obs State.siteLeft State.flow (fun _ _ => rfl) l s,
    foldl_obs State.siteLeft State.flowRegs (fun _ _ => rfl) l s⟩

/-- What the end of an insertion shows, and keeps. -/
structure EndShown (n : Nat) (s t : State) : Prop where
  running : t.bit (FLW_STAT n) FLW_STAT_RUNNING = false
  count : t.reg (FLW_INSERT n) = s.reg (FLW_INSERT n) + 1
  left : ∀ k ∈ s.inserted n, (t.site k).active = false

structure EndKeeps (s t : State) : Prop where
  flow : t.flow = s.flow
  ptr : ∀ k, (t.site k).ptr = (s.site k).ptr
  flowRegs : t.flowRegs = s.flowRegs

theorem State.insertionCounted_reads (s : State) (n : Nat) : (s.insertionCounted n).bit (FLW_STAT n) FLW_STAT_RUNNING = false ∧
    (s.insertionCounted n).reg (FLW_INSERT n) = s.reg (FLW_INSERT n) + 1 ∧ s.regsOnly (s.insertionCounted n) := by
  have hne : FLW_INSERT n ≠ FLW_STAT n := by
    simp only [FLW_INSERT, FLW_STAT]
    omega
  unfold State.insertionCounted
  refine ⟨State.setBit_bit _ _ _ _ rfl (by decide), ?_, State.regsOnly_trans (s.setReg_regsOnly _ _) (State.setBit_regsOnly _ _ _ _)⟩
  rw [State.setBit_reg_ne _ _ _ _ _ hne, State.setReg_reg]

theorem EndShown.of_stages {a b : State} {y : PkgSummary} (ha : a = s.insertionCounted n) (hb : b = a.sitesLeft (s.inserted n))
    (ht : t = b.insertionReported s n y) : EndShown n s t ∧ EndKeeps s t := by
  obtain ⟨hrun, hcount, hregs⟩ := s.insertionCounted_reads n
  rw [← ha] at hrun hcount hregs
  obtain ⟨hleft, hptr, hreg, hflow, hflowRegs⟩ := a.sitesLeft_reads (s.inserted n)
  rw [← hb] at hleft hptr hreg hflow hflowRegs
  obtain ⟨hregT, hsiteT, hflowT, hflowRegsT⟩ := b.insertionReported_keeps s n y
  rw [← ht] at hregT hsiteT hflowT hflowRegsT
  obtain ⟨r, hr⟩ : ∃ r, a = { s with regs := r } := ⟨_, hregs⟩
  have hsites : a.site = s.site := by
    rw [hr]
    rfl
  have hflows : a.flow = s.flow := by
    rw [hr]
    rfl
  have hall : ∀ m, t.reg m = a.reg m := fun m => (congrFun hregT m).trans (congrFun hreg m)
  refine ⟨⟨(State.bit_of_reg _ (hall _)).trans hrun, (hall _).trans hcount, fun k hk => ?_⟩, ⟨hflowT.trans (hflow.trans hflows), fun k => ?_, ?_⟩⟩
  · rw [hsiteT]
    exact hleft k hk
  · rw [hsiteT, hptr, hsites]
  · rw [hflowRegsT, hflowRegs, hr]

theorem State.insertionEnd_keeps (s : State) (n : Nat) : EndKeeps s (s.insertionEnd n) := by
  rw [State.insertionEnd_eq]
  split
  · exact (EndShown.of_stages rfl rfl rfl).2
  · exact ⟨rfl, fun _ => rfl, rfl⟩

theorem State.insertionEnd_shown (s : State) (hon : s.flowOn n = true)
    (hall : ∀ k ∈ s.inserted n, s.bit (FLW_SITE_STAT k) FLW_SITE_STAT_DONE = true) : EndShown n s (s.insertionEnd n) := by
  have hcond : (s.flowOn n && (s.inserted n).all (fun k => s.bit (FLW_SITE_STAT k) FLW_SITE_STAT_DONE)) = true := by
    rw [hon, Bool.true_and]
    exact List.all_eq_true.mpr hall
  rw [State.insertionEnd_eq, if_pos hcond]
  exact (EndShown.of_stages rfl rfl rfl).1

theorem State.insertionEnd_goesOn (s : State) (hk : ∃ k ∈ s.inserted n, s.bit (FLW_SITE_STAT k) FLW_SITE_STAT_DONE = false) :
    s.insertionEnd n = s := by
  obtain ⟨k, hk, hdone⟩ := hk
  have hcond : ¬ (s.flowOn n && (s.inserted n).all (fun k => s.bit (FLW_SITE_STAT k) FLW_SITE_STAT_DONE)) = true := fun h => by
    rw [Bool.and_eq_true] at h
    have hd := List.all_eq_true.mp h.2 k hk
    rw [hdone] at hd
    exact nomatch hd
  rw [State.insertionEnd_eq, if_neg hcond]

/-! An entry completes (R386, R395, R397). -/

/-- What an entry waits for is over at a grain. -/
def State.entryWaitOver (s : State) (n g : Nat) : Prop := (s.flow n).waiting = .done ∨ (∃ u, (s.flow n).waiting = .gt u ∧ u ≤ g) ∨
  ∃ f, (s.flow n).waiting = .flag f ∧ s.flag f = true

theorem State.waitOver_over {g : Nat} (x : FlowEntry) (h : s.entryWaitOver n g) : s.waitOver n g x = some s := by
  unfold State.waitOver
  rcases h with h | ⟨u, h, hu⟩ | ⟨f, h, hf⟩
  · rw [h]
  · rw [h]
    exact if_pos hu
  · rw [h]
    exact if_pos hf

/-- The sites of an entry have gone on, and no entry is in progress. -/
def State.entryLeft (s : State) (n : Nat) (x : FlowEntry) : State := (s.advanceSites n x).setFlow n {}

theorem State.entryLeft_reads {x : FlowEntry} (h : (s.flow n).entry = some x) {t : State} (ht : t = s.entryLeft n x) :
    t.flow n = {} ∧ (∀ k, t.site k = if k ∈ x.sites then wentOn (s.site k) else s.site k) ∧ t.reg = s.reg ∧
    t = { s with flows := t.flows, sites := t.sites, clusters := t.clusters } := by
  have hadv := State.advanceSites_eq h
  have hsite := fun k => foldl_sentOn_site x.stepEnd x.sites s k
  have hstep := SitesStep.foldl (fun k _ t => t.sentOn_step x.stepEnd k) (xs := x.sites) s
  rw [← hadv] at hsite hstep
  obtain ⟨u, hu⟩ : ∃ u, u = s.advanceSites n x := ⟨_, rfl⟩
  rw [State.entryLeft, ← hu] at ht
  rw [← hu] at hsite hstep
  subst ht
  refine ⟨State.setFlow_flow _ _ _, hsite, funext hstep.reg, ?_⟩
  obtain ⟨c, z, hc⟩ : ∃ c z, u = { s with sites := c, clusters := z } := ⟨_, _, hstep⟩
  clear hsite hstep hadv hu
  subst hc
  rfl

theorem State.inserted_of_left {x : FlowEntry} (hreg : t.reg = s.reg)
    (hsite : ∀ k, t.site k = if k ∈ x.sites then wentOn (s.site k) else s.site k) : t.inserted n = s.inserted n := by
  have hactive : ∀ k, (t.site k).active = (s.site k).active := fun k => by
    rw [hsite]
    split
    · rfl
    · rfl
  have hsites : t.sitesOf n = s.sitesOf n := by
    unfold State.sitesOf State.siteOn State.bit State.fld
    rw [hreg]
  unfold State.inserted
  rw [hsites]
  exact List.filter_congr fun k _ => hactive k

theorem exec_flowEntryComplete {n : FlowNo} {g : Nat} {x : FlowEntry} (h : (s.flow n.val).entry = some x)
    (hlog : s.bit (FLW_STAT n.val) FLW_STAT_LOGWAIT = false) (hover : s.entryWaitOver n.val g) :
    exec (.flowEntryComplete n g) s = .next ((((s.at g).entryLeft n.val x).insertionEnd n.val).putNewRecords s) := by
  have harm : exec (.flowEntryComplete n g) s = execFlowEntryComplete n g s := rfl
  have hwait : (s.at g).waitOver n.val g x = some (s.at g) := State.waitOver_over x hover
  have hbit : (s.at g).bit (FLW_STAT n.val) FLW_STAT_LOGWAIT = false := hlog
  have hend : (s.at g).entryOver n.val x = ((s.at g).entryLeft n.val x).insertionEnd n.val := by
    rw [State.entryOver, hbit]
    rfl
  rw [harm, execFlowEntryComplete, h]
  dsimp only
  rw [hwait, Option.elim_some, hend]

/-- An entry completes: what its engine and its sites show. -/
structure Completed (n g : Nat) (x : FlowEntry) (s t : State) : Prop where
  entry : (t.flow n).entry = none
  gone : ∀ k ∈ x.sites, (t.site k).ptr = (s.site k).next
  stay : ∀ k, k ∉ x.sites → (t.site k).ptr = (s.site k).ptr
  goesOn : (∃ k ∈ s.inserted n, s.bit (FLW_SITE_STAT k) FLW_SITE_STAT_DONE = false) →
    t.bit (FLW_STAT n) FLW_STAT_RUNNING = s.bit (FLW_STAT n) FLW_STAT_RUNNING ∧
    t = { s with gt := max s.gt g, flows := t.flows, sites := t.sites, clusters := t.clusters }
  ends : s.flowOn n = true → (∀ k ∈ s.inserted n, s.bit (FLW_SITE_STAT k) FLW_SITE_STAT_DONE = true) →
    t.bit (FLW_STAT n) FLW_STAT_RUNNING = false ∧ t.reg (FLW_INSERT n) = s.reg (FLW_INSERT n) + 1 ∧
    ∀ k ∈ s.inserted n, (t.site k).active = false
  flowRegs : t.flowRegs = s.flowRegs

theorem Completed.of_stages {g : Nat} {x : FlowEntry} {a b : State} (ha : a = s.at g) (h : (a.flow n).entry = some x)
    (hb : b = a.entryLeft n x) (ht : t = b.insertionEnd n) : Completed n g x s t := by
  obtain ⟨hflow, hsite, hreg, hframe⟩ := State.entryLeft_reads h hb
  have hkeeps := b.insertionEnd_keeps n
  have hgoes := b.insertionEnd_goesOn (n := n)
  have hshown := b.insertionEnd_shown (n := n)
  rw [← ht] at hkeeps hgoes hshown
  have hins : b.inserted n = a.inserted n := State.inserted_of_left hreg hsite
  have hdone : ∀ k, b.bit (FLW_SITE_STAT k) FLW_SITE_STAT_DONE = a.bit (FLW_SITE_STAT k) FLW_SITE_STAT_DONE := fun k =>
    State.bit_of_reg _ (congrFun hreg _)
  have hon : b.flowOn n = a.flowOn n := State.bit_of_reg _ (congrFun hreg _)
  have hsites : a.site = s.site := by rw [ha]; rfl
  have hregs : a.reg = s.reg := by rw [ha]; rfl
  have hinsA : a.inserted n = s.inserted n := by rw [ha]; rfl
  have hdoneA : ∀ k, a.bit (FLW_SITE_STAT k) FLW_SITE_STAT_DONE = s.bit (FLW_SITE_STAT k) FLW_SITE_STAT_DONE := fun k => by rw [ha]; rfl
  have honA : a.flowOn n = s.flowOn n := by rw [ha]; rfl
  simp only [hins, hdone, hon, hinsA, hdoneA, honA] at hgoes hshown
  rw [hsites] at hsite
  refine ⟨?_, fun k hk => ?_, fun k hk => ?_, fun hex => ?_, fun h1 h2 => ?_, ?_⟩
  · rw [hkeeps.flow, hflow]
  · rw [hkeeps.ptr, hsite, if_pos hk]
    rfl
  · rw [hkeeps.ptr, hsite, if_neg hk]
  · rw [hgoes hex]
    refine ⟨State.bit_of_reg _ ((congrFun hreg _).trans (congrFun hregs _)), ?_⟩
    obtain ⟨f, y, z, hb'⟩ : ∃ f y z, b = { a with flows := f, sites := y, clusters := z } := ⟨_, _, _, hframe⟩
    rw [hb', ha]
    rfl
  · have hend := hshown h1 h2
    refine ⟨hend.running, hend.count.trans ?_, fun k hk => hend.left k ?_⟩
    · rw [hreg, hregs]
    · rw [hins, hinsA]
      exact hk
  · rw [hkeeps.flowRegs, hframe, ha]
    rfl

theorem flowEntryComplete_completes {n : FlowNo} {g : Nat} {x : FlowEntry} (h : (s.flow n.val).entry = some x)
    (hlog : s.bit (FLW_STAT n.val) FLW_STAT_LOGWAIT = false) (hover : s.entryWaitOver n.val g) :
    ∃ t, exec (.flowEntryComplete n g) s = .next t ∧ Completed n.val g x s t := by
  have hdone : Completed n.val g x s (((s.at g).entryLeft n.val x).insertionEnd n.val) := Completed.of_stages rfl h rfl rfl
  exact ⟨_, (exec_flowEntryComplete h hlog hover).trans (congrArg _ (State.putNewRecords_none hdone.flowRegs)), hdone⟩

/-! The obligation. -/

/-- Settles O49: an insertion sets its sites one by one and then writes their START records, which keep everything but the datalog; an entry
that completes sends its sites on before its insertion ends. -/
theorem insertionsBeginAndEnd : Obligations.InsertionsBeginAndEnd := by
  unfold Obligations.InsertionsBeginAndEnd
  intro port n g s
  refine ⟨fun hcan hfree y hy hy2 => ?_, fun h hno => flowGo_refused port n h hno, fun h hw => ?_, fun x hx hlog hover _ => ?_⟩
  · have hins : ∃ u, exec y.1 s = .next (u.insertion n.val) ∧ u.flags = y.2.2 ∧ Inserted n.val u (u.insertion n.val) ∧
        u = { s with flags := u.flags } := by
      rw [List.mem_cons, List.mem_singleton] at hy
      rcases hy with rfl | rfl
      · exact ⟨s, flowGo_inserts port n hcan hfree hy2.1 hy2.2, rfl, s.insertion_inserted n.isLt hfree, rfl⟩
      · exact ⟨_, flowStartFlag_inserts n hcan hfree hy2.1 hy2.2, rfl, (s.flagTaken n.val).insertion_inserted n.isLt hfree, rfl⟩
    obtain ⟨u, hexec, hflags, h, hframe⟩ := hins
    obtain ⟨f, hu⟩ : ∃ f, u = { s with flags := f } := ⟨_, hframe⟩
    generalize u.insertion n.val = t at hexec h
    clear hframe
    subst hu
    exact ⟨t, hexec, h.running, h.flow, h.flags.trans hflags, fun k hk => ⟨(h.begun k hk).site, (h.begun k hk).stat, (h.begun k hk).vals⟩,
      h.others, h.flows, h.pins, h.engines, h.runs⟩
  · have hcont : s.contCommand n.val = s.setFlow n.val { s.flow n.val with waiting := .done } := by
      rw [State.contCommand, State.updFlow, hw]
    exact ⟨_, (exec_flowCont port n h).trans (congrArg _ hcont), State.setFlow_flow _ _ _, fun m hm => State.setFlow_flow_ne _ _ _ _ hm, rfl⟩
  · obtain ⟨t, ht, h⟩ := flowEntryComplete_completes hx hlog hover
    exact ⟨t, ht, h.entry, h.gone, h.stay, h.goesOn, h.ends⟩

end Sys2Proof.Machine
end

section
/-! SUPPORT. The entry of a flow table that is due begins for its sites (R385-R387). -/

namespace Sys2Proof.Machine

variable {s t : State} {n : Nat} {x : FlowEntry}

/-- A flow engine reads plain memory (R335, R353). -/
theorem State.engRead_of_plain {a k : Nat} (h : s.plain a k) (hk : 0 < k) :
    s.engRead a k [] = some (payloadOf (s.anyPoison a k) ((List.range k).map (fun i => s.byteAt (a + i))), s) := by
  obtain ⟨hmemLast, hbusLast⟩ := s.plain_last h hk
  have hbus := s.plain_first h hk
  have hrange := oneRange_of_plain h
  obtain ⟨hreg, hsec, -⟩ := (isMemory_iff a).mp h.1
  have hok : s.readOk a k = true := by
    simp only [State.readOk, State.readErrorAt, h.1, hmemLast, hbus, hbusLast, Bool.false_and, Bool.not_false, Bool.and_self]
  have hinsec : inSecure a k = false := by
    simp [inSecure, hsec]
  have hload := s.loadAll_eq_map a k fun i hi => hrange.notFlow (Nat.le_add_right a i) (by omega)
  rw [State.engRead, if_neg hreg, hinsec, if_neg (by decide), hok, if_neg (by decide), State.meetFlow, hrange.flow, if_neg (by decide),
    State.flowTake, hrange.flow, if_neg (by decide), Option.map_some]
  simp only [State.meet, hload]

/-! The sites of an entry that is due. -/

theorem State.nextEntry_sites {i : Nat} {l : List Nat} (h : s.nextEntry n = some (i, l)) : l.Nodup ∧ ∀ k ∈ l, k < 64 := by
  have hsub : l.Sublist (List.range 64) := by
    unfold State.nextEntry at h
    dsimp only at h
    split at h
    · exact nomatch h
    · rw [← (Prod.mk.inj (Option.some.inj h)).2]
      exact List.filter_sublist.trans (List.filter_sublist.trans (List.filter_sublist.trans List.filter_sublist))
  exact ⟨hsub.nodup List.nodup_range, fun k hk => List.mem_range.mp (hsub.subset hk)⟩

/-! An entry begins (R386). -/

/-- A site begins an entry: it goes on with the next one unless the entry says otherwise, and is held in a flow step. -/
def State.siteEnters (s : State) (k : Nat) : State := (s.updSite k (fun y => { y with next := y.ptr + 1 })).stepHold k true

/-- What is known of a site that has begun an entry. -/
def siteEntered (y : SiteSt) : SiteSt := { y with next := y.ptr + 1 }

theorem State.siteEnters_site (s : State) (k j : Nat) : (s.siteEnters k).site j = if j = k then siteEntered (s.site j) else s.site j := by
  unfold State.siteEnters
  rw [State.stepHold_site, State.updSite_site_eq]
  rfl

theorem State.siteEnters_step (s : State) (k : Nat) : SitesStep s (s.siteEnters k) :=
  (SitesStep.updSite s k _).trans (SitesStep.stepHold _ _ _)

theorem foldl_siteEnters_site (l : List Nat) (s : State) (j : Nat) :
    (l.foldl State.siteEnters s).site j = if j ∈ l then siteEntered (s.site j) else s.site j := by
  induction l generalizing s with
  | nil => rfl
  | cons k l ih =>
    have hhere := s.siteEnters_site k j
    rw [List.foldl_cons, ih]
    by_cases hk : j = k
    · rw [if_pos hk] at hhere
      rw [if_pos (List.mem_cons.mpr (.inl hk)), hhere]
      split
      · rfl
      · rfl
    · rw [if_neg hk] at hhere
      rw [hhere]
      by_cases hl : j ∈ l
      · rw [if_pos hl, if_pos (List.mem_cons_of_mem _ hl)]
      · rw [if_neg hl, if_neg fun h => (List.mem_cons.mp h).elim hk hl]

/-- What a flow engine and its sites show once an entry has begun. -/
structure EntryBegun (n : Nat) (x : FlowEntry) (s t : State) : Prop where
  flow : t.flow n = { entry := some x, waiting := .done }
  flows : ∀ m, m ≠ n → t.flow m = s.flow m
  idx : t.fld (FLW_STAT n) FLW_STAT_ENTRY = x.idx % 2 ^ FLW_STAT_ENTRY.width
  stat : ∀ f, FLW_STAT_ENTRY.apart f = true → t.fld (FLW_STAT n) f = s.fld (FLW_STAT n) f
  site : ∀ k, t.site k = if k ∈ x.sites then siteEntered (s.site k) else s.site k
  frame : t = { s with regs := t.regs, flows := t.flows, sites := t.sites, clusters := t.clusters }
  kept : s.regsKept t [ FLW_STAT n]

theorem State.setFlow_frame_of_regsOnly {u : State} (hu : s.regsOnly u) (n : Nat) (y : FlowSt) :
    u.setFlow n y = { s with regs := (u.setFlow n y).regs, flows := (u.setFlow n y).flows } := by
  obtain ⟨r, hr⟩ : ∃ r, u = { s with regs := r } := ⟨_, hu⟩
  subst hr
  rfl

/-- What shows once the entry is in progress. -/
structure EntryShown (n : Nat) (x : FlowEntry) (s t : State) : Prop where
  flow : t.flow n = { entry := some x, waiting := .done }
  flows : ∀ m, m ≠ n → t.flow m = s.flow m
  idx : t.fld (FLW_STAT n) FLW_STAT_ENTRY = x.idx % 2 ^ FLW_STAT_ENTRY.width
  stat : ∀ f, FLW_STAT_ENTRY.apart f = true → t.fld (FLW_STAT n) f = s.fld (FLW_STAT n) f
  sites : ∀ k, t.site k = s.site k
  frame : t = { s with regs := t.regs, flows := t.flows }
  kept : s.regsKept t [ FLW_STAT n]

theorem EntryShown.of_stages {u : State} (hu : u = s.setFld (FLW_STAT n) FLW_STAT_ENTRY x.idx)
    (ht : t = u.setFlow n { entry := some x, waiting := .done }) : EntryShown n x s t := by
  have hregs : s.regsOnly u := hu ▸ s.setFld_regsOnly _ _ _
  have hidx : u.fld (FLW_STAT n) FLW_STAT_ENTRY = x.idx % 2 ^ FLW_STAT_ENTRY.width := by
    rw [hu, State.setFld_fld _ _ _ _ (by decide) (by decide)]
  have hstat : ∀ f, FLW_STAT_ENTRY.apart f = true → u.fld (FLW_STAT n) f = s.fld (FLW_STAT n) f := fun f hf => by
    rw [hu, State.setFld_fld_apart _ _ _ _ _ hf]
  have hkept : s.regsKept u [ FLW_STAT n] := hu ▸ State.setFld_regsKept _ _ _ (List.mem_singleton_self _)
  have hframe := State.setFlow_frame_of_regsOnly hregs n { entry := some x, waiting := .done }
  rw [← ht] at hframe
  refine ⟨?_, fun m hm => ?_, ?_, fun f hf => ?_, fun k => ?_, hframe, fun a ha => ?_⟩
  · rw [ht, State.setFlow_flow]
  · rw [ht, State.setFlow_flow_ne _ _ _ _ hm, hu, State.setFld_flow]
  · rw [ht, State.setFlow_fld, hidx]
  · rw [ht, State.setFlow_fld, hstat f hf]
  · rw [ht, State.setFlow_site, hu, State.setFld_site]
  · rw [ht, State.setFlow_reg, hkept a ha]

theorem EntryBegun.of_stages {a : State} (ha : EntryShown n x s a) (ht : t = x.sites.foldl State.siteEnters a) : EntryBegun n x s t := by
  have hstep : SitesStep a t := ht ▸ SitesStep.foldl (fun k _ t => t.siteEnters_step k) a
  have hsite : ∀ k, t.site k = if k ∈ x.sites then siteEntered (a.site k) else a.site k := fun k => by
    rw [ht]
    exact foldl_siteEnters_site x.sites a k
  have hflow : t.flow = a.flow := by
    unfold State.flow
    rw [hstep.flows]
  refine ⟨(congrFun hflow n).trans ha.flow, fun m hm => (congrFun hflow m).trans (ha.flows m hm), (State.fld_of_reg _ (hstep.reg _)).trans ha.idx,
    fun f hf => (State.fld_of_reg _ (hstep.reg _)).trans (ha.stat f hf), fun k => ?_, ?_, fun m hm => (hstep.reg m).trans (ha.kept m hm)⟩
  · rw [hsite, ha.sites]
  · obtain ⟨r, f, hr⟩ : ∃ r f, a = { s with regs := r, flows := f } := ⟨_, _, ha.frame⟩
    obtain ⟨y, z, hz⟩ : ∃ y z, t = { a with sites := y, clusters := z } := ⟨_, _, hstep⟩
    rw [hz, hr]

theorem State.entryBegin_begun (s : State) (n : Nat) (x : FlowEntry) : EntryBegun n x s (s.entryBegin n x) :=
  EntryBegun.of_stages (EntryShown.of_stages rfl rfl) rfl

/-- A flow engine with an entry at its lowest pointer reads it, and executes it when it is of the KIND that is wanted and its fields are good
(R385). -/
theorem flowEntry_of_read {kind i : Nat} {sites : List Nat} {bytes : List Byte} {good : FlowEntry → Bool} {act : FlowEntry → State → State}
    (hon : (s.flowOn n && (s.flow n).entry.isNone && !s.bit (FLW_STAT n) FLW_STAT_LOGWAIT) = true) (hnext : s.nextEntry n = some (i, sites))
    (hread : s.engRead (s.flowTable n + 64 * i) 64 [] = some (.data bytes, s)) (hx : x = ⟨i, sites, bytes⟩) (hkind : x.kind = kind)
    (hk : ¬ (x.kind = 0 ∨ 10 < x.kind)) (hgood : (x.headGood && good x) = true) :
    s.flowEntry n kind [] good act = act x (s.entryBegin n x) := by
  unfold State.flowEntry
  rw [if_pos hon, hnext]
  -- the read stays closed: the kernel must not evaluate it
  obtain ⟨read, hr⟩ : ∃ r, r = s.engRead := ⟨_, rfl⟩
  rw [← hr] at hread ⊢
  dsimp only
  rw [hread]
  dsimp only
  rw [← hx, if_neg hk, if_neg fun h => h hkind, if_pos hgood]

/-- The read of the entry that is due. -/
theorem engRead_of_due (h : s.entryDue n x) : s.engRead (s.flowTable n + 64 * x.idx) 64 [] = some (.data x.bytes, s) := by
  obtain ⟨-, -, -, -, hplain, hpoison, hbytes⟩ := h
  rw [State.engRead_of_plain hplain (by decide), hpoison, hbytes]
  rfl

/-- A flow engine executes the entry that is due, when it is of the KIND that is wanted and its fields are good (R385). -/
theorem flowRun_of_due {kind : Nat} {good : FlowEntry → Bool} {act : FlowEntry → State → State} (h : s.entryDue n x)
    (hhead : x.headGood = true) (hkind : x.kind = kind) (hk : 0 < kind ∧ kind ≤ 10) (hgood : good x = true) :
    s.flowRun n kind [] good act = (act x (s.entryBegin n x)).putNewRecords s := by
  have hread := engRead_of_due h
  obtain ⟨hon, hnone, hlog, hnext, -⟩ := h
  rw [State.flowRun, flowEntry_of_read (by rw [hon, hnone, hlog]; rfl) hnext hread rfl hkind (by rw [hkind]; omega) (by rw [hhead, hgood]; rfl)]

end Sys2Proof.Machine
end

section
/-! SUPPORT. What the entries of a flow table write of flow engines and their sites (R387, R390-R392). -/

namespace Sys2Proof.Machine

variable {s t u : State} {n : Nat} {x : FlowEntry}

/-! Registers, flow engines, sites and clusters alone. -/

/-- From s to t registers, flow engines, sites and clusters alone have changed. -/
def FlowStep (s t : State) : Prop := t = { s with regs := t.regs, flows := t.flows, sites := t.sites, clusters := t.clusters }

namespace FlowStep

theorem trans (h : FlowStep s t) (k : FlowStep t u) : FlowStep s u := by
  unfold FlowStep at h k ⊢
  rw [k, h]

theorem of_sites (h : SitesStep s t) : FlowStep s t := by
  unfold SitesStep at h
  unfold FlowStep
  rw [h]

theorem of_regs (h : s.regsOnly t) : FlowStep s t := by
  unfold State.regsOnly at h
  unfold FlowStep
  rw [h]

theorem updFlow (s : State) (n : Nat) (f : FlowSt → FlowSt) : FlowStep s (s.updFlow n f) := rfl

theorem flowRegs (h : FlowStep s t) : t.flowRegs = s.flowRegs := by rw [h]

theorem rg (h : FlowStep s t) (r : Nat) : t.rg r = s.rg r := by
  rw [h]
  rfl

theorem gt (h : FlowStep s t) : t.gt = s.gt := by rw [h]

end FlowStep

theorem FlowStep.of_begun (h : EntryBegun n x s t) : FlowStep s t := h.frame

/-- The registers of a site stay when an entry begins (R386). -/
theorem EntryBegun.reg_site (h : EntryBegun n x s t) (hn : n < 8) {k : Nat} (hk : k < 64) : ∀ a ∈ siteRegs k, t.reg a = s.reg a := fun a ha =>
  h.kept a fun hm => siteRegs_ne_flwStat hk hn (List.mem_singleton.mp hm ▸ ha)

theorem flwSiteStat_mem_siteRegs (k : Nat) : FLW_SITE_STAT k ∈ siteRegs k := mem_siteRegs.mpr (.inl rfl)

theorem flwVal_mem_siteRegs {k i : Nat} (hi : i < 16) : FLW_VAL_LO k i ∈ siteRegs k ∧ FLW_VAL_HI k i ∈ siteRegs k :=
  ⟨mem_siteRegs.mpr (.inr ⟨i, hi, .inl rfl⟩), mem_siteRegs.mpr (.inr ⟨i, hi, .inr rfl⟩)⟩

theorem FlowEntry.slot_lt (x : FlowEntry) : x.slot < 16 := Nat.mod_lt _ (by decide)

/-- VAL[SLOT] of a site follows its registers. -/
theorem State.val_slot {k : Nat} (h : ∀ a ∈ siteRegs k, t.reg a = s.reg a) : t.val k x.slot = s.val k x.slot :=
  State.val_of_regs (h _ (flwVal_mem_siteRegs x.slot_lt).1) (h _ (flwVal_mem_siteRegs x.slot_lt).2)

theorem State.stat_bit {k : Nat} (h : ∀ a ∈ siteRegs k, t.reg a = s.reg a) (f : Fld) :
    t.bit (FLW_SITE_STAT k) f = s.bit (FLW_SITE_STAT k) f := State.bit_of_reg f (h _ (flwSiteStat_mem_siteRegs k))

/-! BRANCH (R387). -/

/-- COND of a BRANCH entry is a condition on the registers of its site. -/
theorem State.branchHolds_of_regs {k : Nat} (h : ∀ a ∈ siteRegs k, t.reg a = s.reg a) : t.branchHolds x k = s.branchHolds x k := by
  unfold State.branchHolds
  dsimp only
  rw [State.stat_bit h, State.val_slot h, State.fld_of_reg _ (h _ (flwSiteStat_mem_siteRegs k))]

/-- A site is sent elsewhere by a BRANCH entry. -/
def sentTo (i : Nat) (y : SiteSt) : SiteSt := { y with next := i }

/-- A BRANCH entry acts on one site. -/
def State.branchSite (x : FlowEntry) (s : State) (k : Nat) : State := if s.branchHolds x k then s.updSite k (sentTo (x.num 8 2)) else s

theorem State.branchSite_step (s : State) (x : FlowEntry) (k : Nat) : SitesStep s (s.branchSite x k) := by
  unfold State.branchSite
  split
  · exact SitesStep.updSite s k _
  · exact SitesStep.refl s

theorem State.branchSite_site (s : State) (x : FlowEntry) (k j : Nat) :
    (s.branchSite x k).site j = if j = k ∧ s.branchHolds x j = true then sentTo (x.num 8 2) (s.site j) else s.site j := by
  unfold State.branchSite
  by_cases hk : s.branchHolds x k = true
  · rw [if_pos hk, State.updSite_site_eq]
    by_cases hj : j = k
    · rw [if_pos hj, if_pos ⟨hj, hj ▸ hk⟩]
    · rw [if_neg hj, if_neg fun c => hj c.1]
  · rw [if_neg hk, if_neg fun c : j = k ∧ s.branchHolds x j = true => hk (c.1 ▸ c.2)]

theorem foldl_branchSite_site (l : List Nat) (s : State) (j : Nat) :
    (l.foldl (State.branchSite x) s).site j = if j ∈ l ∧ s.branchHolds x j = true then sentTo (x.num 8 2) (s.site j) else s.site j := by
  induction l generalizing s with
  | nil => rfl
  | cons k l ih =>
    have hholds : (s.branchSite x k).branchHolds x j = s.branchHolds x j :=
      State.branchHolds_of_regs fun a _ => (s.branchSite_step x k).reg a
    rw [List.foldl_cons, ih, hholds, s.branchSite_site]
    by_cases hj : s.branchHolds x j = true
    · simp only [hj, and_true, List.mem_cons]
      by_cases hl : j ∈ l
      · simp only [hl, or_true, if_true]
        split
        · rfl
        · rfl
      · simp only [hl, or_false, if_false]
    · rw [if_neg fun c => hj c.2, if_neg fun c => hj c.2, if_neg fun c => hj c.2]

/-! The bins of a site (R387, R390). -/

/-- The bins of a site are set. -/
def State.binned (s : State) (k hbin sbin : Nat) : State :=
  ((s.setFld (FLW_SITE_STAT k) FLW_SITE_STAT_HBIN hbin).setFld (FLW_SITE_STAT k) FLW_SITE_STAT_SBIN sbin).setBit (FLW_SITE_STAT k)
    FLW_SITE_STAT_BINNED true

section
variable (k hbin sbin : Nat)

theorem State.binned_regsOnly (s : State) : s.regsOnly (s.binned k hbin sbin) :=
  State.regsOnly_trans (State.regsOnly_trans (s.setFld_regsOnly _ _ _) (State.setFld_regsOnly _ _ _ _)) (State.setBit_regsOnly _ _ _ _)

theorem State.binned_reg_ne (s : State) {a : Nat} (h : a ≠ FLW_SITE_STAT k) : (s.binned k hbin sbin).reg a = s.reg a := by
  unfold State.binned
  rw [State.setBit_reg_ne _ _ _ _ _ h, State.setFld_reg_ne _ _ _ _ _ h, State.setFld_reg_ne _ _ _ _ _ h]

theorem State.binned_reads (s : State) (hh : hbin < 32) (hs : sbin < 1024) :
    (s.binned k hbin sbin).bit (FLW_SITE_STAT k) FLW_SITE_STAT_BINNED = true ∧
    (s.binned k hbin sbin).fld (FLW_SITE_STAT k) FLW_SITE_STAT_HBIN = hbin ∧
    (s.binned k hbin sbin).fld (FLW_SITE_STAT k) FLW_SITE_STAT_SBIN = sbin ∧
    (s.binned k hbin sbin).bit (FLW_SITE_STAT k) FLW_SITE_STAT_FAIL = s.bit (FLW_SITE_STAT k) FLW_SITE_STAT_FAIL := by
  unfold State.binned
  refine ⟨State.setBit_bit _ _ _ _ rfl (by decide), ?_, ?_, ?_⟩
  · rw [State.setBit_fld_apart _ _ _ _ _ (by decide), State.setFld_fld_apart _ _ _ _ _ (by decide), State.setFld_fld _ _ _ _ (by decide) (by decide)]
    exact Nat.mod_eq_of_lt hh
  · rw [State.setBit_fld_apart _ _ _ _ _ (by decide), State.setFld_fld _ _ _ _ (by decide) (by decide)]
    exact Nat.mod_eq_of_lt hs
  · rw [State.setBit_bit_apart _ _ _ _ _ (by decide), State.setFld_bit_apart _ _ _ _ _ (by decide), State.setFld_bit_apart _ _ _ _ _ (by decide)]

end

/-! A site's own register. -/

/-- An action on a site writes its FLW_SITE_STAT and nothing else. -/
def OwnStat (f : State → Nat → State) : Prop := ∀ s k, s.regsOnly (f s k) ∧ ∀ a, a ≠ FLW_SITE_STAT k → (f s k).reg a = s.reg a

theorem OwnStat.foldl_regsOnly {f : State → Nat → State} (hf : OwnStat f) (l : List Nat) (s : State) : s.regsOnly (l.foldl f s) :=
  List.foldlRecOn (motive := fun t => s.regsOnly t) l f (State.regsOnly_refl s) fun t ht k _ => State.regsOnly_trans ht (hf t k).1

theorem OwnStat.foldl_reg {f : State → Nat → State} (hf : OwnStat f) (l : List Nat) (s : State) {a : Nat} (h : ∀ k ∈ l, a ≠ FLW_SITE_STAT k) :
    (l.foldl f s).reg a = s.reg a :=
  foldl_obs_mem f (fun t => t.reg a) l (fun k hk t => (hf t k).2 a (h k hk)) s

/-- Each site finds its registers as they were, whatever was done to the sites before it, and keeps what is done to it. -/
theorem OwnStat.foldl_site {f : State → Nat → State} (hf : OwnStat f) (l : List Nat) (hl : l.Nodup ∧ ∀ k ∈ l, k < 64) (s : State) :
    ∀ k ∈ l, ∃ u, (∀ a ∈ siteRegs k, u.reg a = s.reg a) ∧ (l.foldl f s).reg (FLW_SITE_STAT k) = (f u k).reg (FLW_SITE_STAT k) := by
  induction l generalizing s with
  | nil => exact fun k hk => nomatch hk
  | cons y l ih =>
    obtain ⟨hnodup, hlt⟩ := hl
    obtain ⟨hy, hnodup⟩ := List.nodup_cons.mp hnodup
    intro k hk
    rw [List.foldl_cons]
    by_cases hky : k = y
    · refine ⟨s, fun _ _ => rfl, ?_⟩
      have hout : ∀ j ∈ l, FLW_SITE_STAT y ≠ FLW_SITE_STAT j := fun j hj e => by
        rw [flwSiteStat_inj e] at hy
        exact hy hj
      rw [hky, hf.foldl_reg l _ hout]
    · have hkl := (List.mem_cons.mp hk).resolve_left hky
      obtain ⟨u, hu, hreg⟩ := ih ⟨hnodup, fun j hj => hlt j (List.mem_cons_of_mem _ hj)⟩ (f s y) k hkl
      exact ⟨u, fun a ha => (hu a ha).trans ((hf s y).2 a fun e => siteRegs_disjoint (hlt k hk) (hlt y (List.mem_cons_self ..)) hky a ha
        (e ▸ flwSiteStat_mem_siteRegs y)), hreg⟩

/-- A BIN entry acts on one site (R387). -/
def State.binSite (x : FlowEntry) (s : State) (k : Nat) : State :=
  if s.bit (FLW_SITE_STAT k) FLW_SITE_STAT_BINNED && !nbit (x.num 12 1) 0 then s else s.binned k (x.num 8 1) (x.num 10 2)

theorem binSite_ownStat (x : FlowEntry) : OwnStat (State.binSite x) := fun s k => by
  unfold State.binSite
  split
  · exact ⟨State.regsOnly_refl s, fun _ _ => rfl⟩
  · exact ⟨s.binned_regsOnly k _ _, fun a ha => s.binned_reg_ne k _ _ ha⟩

/-- A site fails a LIMIT entry, and takes its bins when it has none (R390). -/
def State.siteFails (s : State) (k hbin sbin : Nat) : State :=
  let t := s.setBit (FLW_SITE_STAT k) FLW_SITE_STAT_FAIL true
  if s.bit (FLW_SITE_STAT k) FLW_SITE_STAT_BINNED then t else t.binned k hbin sbin

/-- VAL[SLOT] of a site lies outside the bounds that a LIMIT entry compares it with (R390). -/
def State.outOfLimits (s : State) (x : FlowEntry) (lo hi : Int) (k : Nat) : Bool :=
  (nbit (x.num 24 1) 0 && decide (s.val k x.slot < lo)) || (nbit (x.num 24 1) 1 && decide (hi < s.val k x.slot))

theorem State.limitSite_eq (s : State) (n : Nat) (lo hi : Int) (k : Nat) (h : x.log = false) : s.limitSite n x lo hi k =
    if s.outOfLimits x lo hi k then s.siteFails k (x.num 25 1) (x.num 26 2) else s := by
  unfold State.limitSite
  rw [h]
  rfl

theorem State.siteFails_regsOnly (s : State) (k hbin sbin : Nat) : s.regsOnly (s.siteFails k hbin sbin) := by
  unfold State.siteFails
  dsimp only
  split
  · exact s.setBit_regsOnly _ _ _
  · exact State.regsOnly_trans (s.setBit_regsOnly _ _ _) (State.binned_regsOnly _ _ _ _)

theorem State.siteFails_reg_ne (s : State) (k hbin sbin : Nat) {a : Nat} (h : a ≠ FLW_SITE_STAT k) : (s.siteFails k hbin sbin).reg a = s.reg a := by
  unfold State.siteFails
  dsimp only
  split
  · exact State.setBit_reg_ne _ _ _ _ _ h
  · rw [State.binned_reg_ne _ _ _ _ h, State.setBit_reg_ne _ _ _ _ _ h]

theorem State.siteFails_reads (s : State) (k hbin sbin : Nat) (hh : hbin < 32) (hs : sbin < 1024) :
    (s.siteFails k hbin sbin).bit (FLW_SITE_STAT k) FLW_SITE_STAT_FAIL = true ∧
    (s.siteFails k hbin sbin).bit (FLW_SITE_STAT k) FLW_SITE_STAT_BINNED = true ∧
    (s.bit (FLW_SITE_STAT k) FLW_SITE_STAT_BINNED = false → (s.siteFails k hbin sbin).fld (FLW_SITE_STAT k) FLW_SITE_STAT_HBIN = hbin ∧
      (s.siteFails k hbin sbin).fld (FLW_SITE_STAT k) FLW_SITE_STAT_SBIN = sbin) := by
  have hfail := s.setBit_bit (FLW_SITE_STAT k) FLW_SITE_STAT_FAIL true rfl (by decide)
  unfold State.siteFails
  dsimp only
  split
  case isTrue h =>
    refine ⟨hfail, ?_, fun hb => absurd (hb.symm.trans h) (by decide)⟩
    rw [State.setBit_bit_apart _ _ _ _ _ (by decide), h]
  case isFalse h =>
    obtain ⟨hb, hhb, hsb, hf⟩ := State.binned_reads k hbin sbin (s.setBit (FLW_SITE_STAT k) FLW_SITE_STAT_FAIL true) hh hs
    exact ⟨hf.trans hfail, hb, fun _ => ⟨hhb, hsb⟩⟩

theorem limitSite_ownStat (n : Nat) (lo hi : Int) (h : x.log = false) : OwnStat (fun t k => t.limitSite n x lo hi k) := fun s k => by
  dsimp only
  rw [s.limitSite_eq n lo hi k h]
  split
  · exact ⟨s.siteFails_regsOnly k _ _, fun a ha => s.siteFails_reg_ne k _ _ ha⟩
  · exact ⟨State.regsOnly_refl s, fun _ _ => rfl⟩

end Sys2Proof.Machine
end

section
/-! O47. BRANCH, BIN, LIMIT, WAIT and CAL entries act on their sites (R385-R387, R390-R392). -/

namespace Sys2Proof.Machine

variable {s t : State} {n : FlowNo} {x : FlowEntry}

theorem nbit_of_lt {v k : Nat} (h : v < 2 ^ k) : nbit v k = false := by
  unfold nbit
  rw [Nat.div_eq_of_lt h]
  rfl

theorem entryDue_sites {m : Nat} (h : s.entryDue m x) : x.sites.Nodup ∧ ∀ k ∈ x.sites, k < 64 :=
  State.nextEntry_sites h.2.2.2.1

/-- The entry that is due is executed; nothing else of it remains to be written. -/
theorem next_of_due {kind : Nat} {good : FlowEntry → Bool} {act : FlowEntry → State → State} (h : s.entryDue n.val x)
    (hhead : x.headGood = true) (hkind : x.kind = kind) (hk : 0 < kind ∧ kind ≤ 10) (hgood : good x = true) {e : State}
    (he : e = s.entryBegin n.val x) (hact : FlowStep e (act x e)) :
    ok (s.flowRun n.val kind [] good act) = .next (act x e) ∧ EntryBegun n.val x s e ∧ FlowStep s (act x e) := by
  have hbegun : EntryBegun n.val x s e := he ▸ s.entryBegin_begun n.val x
  have hstep := (FlowStep.of_begun hbegun).trans hact
  rw [flowRun_of_due h hhead hkind hk hgood, ← he, State.putNewRecords_none hstep.flowRegs]
  exact ⟨rfl, hbegun, hstep⟩

/-! BRANCH. -/

theorem branch_acts (h : s.entryDue n.val x) (hhead : x.headGood = true) (hkind : x.kind = 4) (hgood : x.num 10 1 < 6) :
    ∃ t, exec (.branch n []) s = .next t ∧ (t.flow n.val).entry = some x ∧ (t.flow n.val).waiting = .done ∧
      t.fld (FLW_STAT n.val) FLW_STAT_ENTRY = x.idx % 2 ^ FLW_STAT_ENTRY.width ∧
      (∀ k ∈ x.sites, (t.site k).ptr = (s.site k).ptr ∧
        (t.site k).next = if s.branchHolds x k then x.num 8 2 else (s.site k).ptr + 1) ∧
      (∀ k, k ∉ x.sites → t.site k = s.site k) ∧ (∀ m, m ≠ n.val → t.flow m = s.flow m) ∧
      t = { s with regs := t.regs, flows := t.flows, sites := t.sites, clusters := t.clusters } ∧ s.regsKept t [ FLW_STAT n.val] := by
  obtain ⟨e, he⟩ : ∃ e, e = s.entryBegin n.val x := ⟨_, rfl⟩
  obtain ⟨t, ht⟩ : ∃ t, t = x.sites.foldl (State.branchSite x) e := ⟨_, rfl⟩
  have hsites : SitesStep e t := ht ▸ SitesStep.foldl (fun k _ u => u.branchSite_step x k) e
  obtain ⟨hexec, hbegun, hstep⟩ := next_of_due (act := fun x t => x.sites.foldl (State.branchSite x) t) h hhead hkind (by decide)
    (good := fun x => decide (x.num 10 1 < 6)) (decide_eq_true hgood) he (FlowStep.of_sites (ht ▸ hsites))
  rw [← ht] at hexec hstep
  have hflow : t.flow = e.flow := by
    unfold State.flow
    rw [hsites.flows]
  have hsite := fun k => foldl_branchSite_site (x := x) x.sites e k
  rw [← ht] at hsite
  refine ⟨t, hexec, ?_, ?_, (State.fld_of_reg _ (hsites.reg _)).trans hbegun.idx, fun k hk => ?_, fun k hk => ?_,
    fun m hm => (congrFun hflow m).trans (hbegun.flows m hm), hstep, fun a ha => (hsites.reg a).trans (hbegun.kept a ha)⟩
  · rw [hflow, hbegun.flow]
  · rw [hflow, hbegun.flow]
  · have hholds := State.branchHolds_of_regs (x := x) (hbegun.reg_site n.isLt ((entryDue_sites h).2 k hk))
    simp only [hsite, hk, true_and, hbegun.site, if_true, hholds]
    split
    · exact ⟨rfl, rfl⟩
    · exact ⟨rfl, rfl⟩
  · rw [hsite, if_neg fun c => hk c.1, hbegun.site, if_neg hk]

/-! BIN. -/

/-- What an entry that writes the FLW_SITE_STAT of its sites, each its own, leaves of the rest. -/
theorem OwnStat.entry {f : State → Nat → State} (hf : OwnStat f) {e : State} (hbegun : EntryBegun n.val x s e)
    (ht : t = x.sites.foldl f e) : FlowStep e t ∧ (t.flow n.val).entry = some x ∧ (t.flow n.val).waiting = .done ∧
    s.regsKept t (FLW_STAT n.val :: x.sites.map FLW_SITE_STAT) := by
  have hregs : e.regsOnly t := ht ▸ hf.foldl_regsOnly x.sites e
  have hkept : ∀ a, a ∉ FLW_STAT n.val :: x.sites.map FLW_SITE_STAT → t.reg a = s.reg a := fun a ha => by
    rw [List.mem_cons, not_or] at ha
    rw [ht, hf.foldl_reg x.sites e fun k hk c => ha.2 (List.mem_map.mpr ⟨k, hk, c.symm⟩)]
    exact hbegun.kept a fun c => ha.1 (List.mem_singleton.mp c)
  have hflow : t.flow n.val = e.flow n.val := by
    unfold State.regsOnly at hregs
    rw [hregs]
    rfl
  refine ⟨FlowStep.of_regs hregs, ?_, ?_, hkept⟩
  · rw [hflow, hbegun.flow]
  · rw [hflow, hbegun.flow]

theorem bin_acts (h : s.entryDue n.val x) (hhead : x.headGood = true) (hkind : x.kind = 5) (hhb : x.num 8 1 < 32) (hsb : x.num 10 2 < 1024)
    (hover : x.num 12 1 < 2) : ∃ t, exec (.bin n []) s = .next t ∧
      (∀ k ∈ x.sites, t.bit (FLW_SITE_STAT k) FLW_SITE_STAT_BINNED = true ∧
        (s.bit (FLW_SITE_STAT k) FLW_SITE_STAT_BINNED = false ∨ x.num 12 1 = 1 →
          t.fld (FLW_SITE_STAT k) FLW_SITE_STAT_HBIN = x.num 8 1 ∧ t.fld (FLW_SITE_STAT k) FLW_SITE_STAT_SBIN = x.num 10 2) ∧
        (s.bit (FLW_SITE_STAT k) FLW_SITE_STAT_BINNED = true → x.num 12 1 = 0 → t.reg (FLW_SITE_STAT k) = s.reg (FLW_SITE_STAT k))) ∧
      (t.flow n.val).entry = some x ∧ (t.flow n.val).waiting = .done ∧
      t = { s with regs := t.regs, flows := t.flows, sites := t.sites, clusters := t.clusters } ∧
      s.regsKept t (FLW_STAT n.val :: x.sites.map FLW_SITE_STAT) := by
  have hf := binSite_ownStat x
  obtain ⟨e, he⟩ : ∃ e, e = s.entryBegin n.val x := ⟨_, rfl⟩
  obtain ⟨t, ht⟩ : ∃ t, t = x.sites.foldl (State.binSite x) e := ⟨_, rfl⟩
  obtain ⟨hexec, hbegun, hstep⟩ := next_of_due (act := fun x t => x.sites.foldl (State.binSite x) t) h hhead hkind (by decide)
    (good := fun x => decide (x.num 8 1 < 32) && decide (x.num 10 2 < 1024) && decide (x.num 12 1 < 2))
    (by rw [decide_eq_true hhb, decide_eq_true hsb, decide_eq_true hover]; rfl) he (FlowStep.of_regs (hf.foldl_regsOnly x.sites e))
  rw [← ht] at hexec hstep
  obtain ⟨-, hentry, hwait, hkept⟩ := hf.entry hbegun ht
  refine ⟨t, hexec, fun k hk => ?_, hentry, hwait, hstep, hkept⟩
  obtain ⟨u, hu, hreg⟩ := hf.foldl_site x.sites (entryDue_sites h) e k hk
  have hus := fun a ha => (hu a ha).trans (hbegun.reg_site n.isLt ((entryDue_sites h).2 k hk) a ha)
  have hbinned := State.stat_bit hus FLW_SITE_STAT_BINNED
  rw [← ht] at hreg
  rw [State.bit_of_reg _ hreg, State.fld_of_reg _ hreg, State.fld_of_reg _ hreg, hreg, ← hbinned, ← hus _ (flwSiteStat_mem_siteRegs k)]
  unfold State.binSite
  split
  case isTrue hc =>
    obtain ⟨hb, ho⟩ := Bool.and_eq_true_iff.mp hc
    refine ⟨hb, fun c => ?_, fun _ _ => rfl⟩
    rcases c with c | c
    · exact absurd (hb.symm.trans c) (by decide)
    · rw [c] at ho
      exact absurd ho (by decide)
  case isFalse hc =>
    obtain ⟨hb, hh, hs, -⟩ := State.binned_reads k (x.num 8 1) (x.num 10 2) u hhb hsb
    refine ⟨hb, fun _ => ⟨hh, hs⟩, fun c ho => absurd ?_ hc⟩
    rw [c, ho]
    rfl

/-! LIMIT. -/

theorem State.limitAll_eq (u : State) (lo hi : Int) (h : x.num 24 1 < 4) : u.limitAll n.val x lo hi =
    x.sites.foldl (fun t k => t.limitSite n.val x lo hi k) u := by
  have hstop : nbit (x.num 24 1) 3 = false := nbit_of_lt (by omega)
  unfold State.limitAll
  dsimp only
  rw [hstop, if_neg (by decide)]

/-- LIMIT of an entry whose bounds are its own (R390). -/
def State.limitOwn (x : FlowEntry) (n : Nat) (u : State) : State := x.sites.foldl (fun t k => t.limitSite n x (x.int 8) (x.int 16) k) u

theorem limit_acts (h : s.entryDue n.val x) (hhead : x.headGood = true) (hkind : x.kind = 3) (hflags : x.num 24 1 < 4) (hhb : x.num 25 1 < 32)
    (hsb : x.num 26 2 < 1024) (hlog : x.log = false) : ∃ t, exec (.limit n []) s = .next t ∧
      (∀ k ∈ x.sites, ∀ bad : Bool, bad = s.outOfLimits x (x.int 8) (x.int 16) k →
        (bad = true → t.bit (FLW_SITE_STAT k) FLW_SITE_STAT_FAIL = true ∧ t.bit (FLW_SITE_STAT k) FLW_SITE_STAT_BINNED = true ∧
          (s.bit (FLW_SITE_STAT k) FLW_SITE_STAT_BINNED = false → t.fld (FLW_SITE_STAT k) FLW_SITE_STAT_HBIN = x.num 25 1 ∧
            t.fld (FLW_SITE_STAT k) FLW_SITE_STAT_SBIN = x.num 26 2)) ∧
        (bad = false → t.reg (FLW_SITE_STAT k) = s.reg (FLW_SITE_STAT k))) ∧
      t = { s with regs := t.regs, flows := t.flows, sites := t.sites, clusters := t.clusters } ∧
      s.regsKept t (FLW_STAT n.val :: x.sites.map FLW_SITE_STAT) := by
  have hf := limitSite_ownStat n.val (x.int 8) (x.int 16) hlog
  obtain ⟨e, he⟩ : ∃ e, e = s.entryBegin n.val x := ⟨_, rfl⟩
  obtain ⟨t, ht⟩ : ∃ t, t = x.sites.foldl (fun t k => t.limitSite n.val x (x.int 8) (x.int 16) k) e := ⟨_, rfl⟩
  have hgood : limitGood x = true := by
    unfold limitGood
    rw [decide_eq_true (by omega), decide_eq_true hhb, decide_eq_true hsb]
    rfl
  have hact : (if nbit (x.num 24 1) 2 then (e.sharedRead (x.num 32 8) 16 false []).elim s (fun r => State.sharedThen n.val x r
      (fun b u => u.limitAll n.val x (sx 64 (ofLe (b.take 8))) (sx 64 (ofLe (b.drop 8))))) else e.limitAll n.val x (x.int 8) (x.int 16)) = t := by
    rw [nbit_of_lt (by omega), if_neg (by decide), State.limitAll_eq e _ _ hflags, ht]
  have hlast : FlowStep e t := ht ▸ FlowStep.of_regs (hf.foldl_regsOnly x.sites e)
  obtain ⟨hexec, hbegun, hstep⟩ := next_of_due (act := fun x t => if nbit (x.num 24 1) 2 then
    (t.sharedRead (x.num 32 8) 16 false []).elim s (fun r => State.sharedThen n.val x r
      (fun b u => u.limitAll n.val x (sx 64 (ofLe (b.take 8))) (sx 64 (ofLe (b.drop 8))))) else t.limitAll n.val x (x.int 8) (x.int 16))
    h hhead hkind (by decide) hgood he (hact ▸ hlast)
  rw [hact] at hexec hstep
  obtain ⟨-, -, -, hkept⟩ := hf.entry hbegun ht
  refine ⟨t, hexec, fun k hk bad hbad => ?_, hstep, hkept⟩
  obtain ⟨u, hu, hreg⟩ := hf.foldl_site x.sites (entryDue_sites h) e k hk
  have hus := fun a ha => (hu a ha).trans (hbegun.reg_site n.isLt ((entryDue_sites h).2 k hk) a ha)
  have hout : u.outOfLimits x (x.int 8) (x.int 16) k = bad := by
    unfold State.outOfLimits at hbad ⊢
    rw [State.val_slot hus, hbad]
  rw [← ht, u.limitSite_eq n.val _ _ k hlog, hout] at hreg
  rw [State.bit_of_reg _ hreg, State.bit_of_reg _ hreg, State.fld_of_reg _ hreg, State.fld_of_reg _ hreg, hreg,
    ← State.stat_bit hus FLW_SITE_STAT_BINNED, ← hus _ (flwSiteStat_mem_siteRegs k)]
  refine ⟨fun hb => ?_, fun hb => ?_⟩
  · rw [if_pos hb]
    exact u.siteFails_reads k _ _ hhb hsb
  · rw [if_neg fun c => absurd (hb.symm.trans c) (by decide)]

/-! WAIT. -/

/-- What an entry waits for shows in its flow engine, and nothing else changes. -/
theorem State.flowWaits_shown {u : State} (m : Nat) (w : FlowWaitFor) (h : (u.flow m).entry = some x) :
    ((u.flowWaits m w).flow m).waiting = w ∧ ((u.flowWaits m w).flow m).entry = some x ∧ (u.flowWaits m w).reg = u.reg := by
  unfold State.flowWaits State.updFlow
  refine ⟨?_, ?_, funext fun a => rfl⟩
  · rw [State.setFlow_flow]
  · rw [State.setFlow_flow]
    exact h

/-- What a WAIT entry waits for (R392). -/
def FlowEntry.waitsFor (x : FlowEntry) (g : Nat) : FlowWaitFor :=
  match x.num 8 1 with
  | 0 => .gt (g + x.num 16 8)
  | 1 => .flag (pkgFlag (x.num 9 1))
  | _ => .cont

theorem ofLe_lt (l : List Byte) : ofLe l < 256 ^ l.length := by
  induction l with
  | nil => exact Nat.one_pos
  | cons b l ih =>
    rw [ofLe, List.length_cons, Nat.pow_succ]
    have hb := b.isLt
    omega

/-- A byte of an entry. -/
theorem FlowEntry.num_one_lt (x : FlowEntry) (i : Nat) : x.num i 1 < 256 :=
  Nat.lt_of_lt_of_le (ofLe_lt _) (Nat.pow_le_pow_right (by decide) (List.length_take_le ..))

theorem pkgFlag_num (x : FlowEntry) : pkgFlag (x.num 9 1) = 2000 + x.num 9 1 := by
  rw [pkgFlag, Nat.mod_eq_of_lt (x.num_one_lt 9)]

theorem wait_acts (h : s.entryDue n.val x) (hhead : x.headGood = true) (hkind : x.kind = 8) (hsrc : x.num 8 1 < 3) :
    ∃ t, exec (.flowWait n []) s = .next t ∧
      (x.num 8 1 = 0 → (t.flow n.val).waiting = .gt (s.gt + x.num 16 8)) ∧ (x.num 8 1 = 1 → (t.flow n.val).waiting = .flag (2000 + x.num 9 1)) ∧
      (x.num 8 1 = 2 → (t.flow n.val).waiting = .cont) ∧ (t.flow n.val).entry = some x ∧
      t = { s with regs := t.regs, flows := t.flows, sites := t.sites, clusters := t.clusters } ∧ s.regsKept t [ FLW_STAT n.val] := by
  obtain ⟨e, he⟩ : ∃ e, e = s.entryBegin n.val x := ⟨_, rfl⟩
  obtain ⟨hexec, hbegun, hstep⟩ := next_of_due (act := fun x t => t.flowWaits n.val (x.waitsFor t.gt)) h hhead hkind (by decide)
    (good := fun x => decide (x.num 8 1 < 3)) (decide_eq_true hsrc) he (FlowStep.updFlow e n.val _)
  have hgt := (FlowStep.of_begun hbegun).gt
  obtain ⟨hwait, hentry, hreg⟩ := State.flowWaits_shown n.val (x.waitsFor e.gt) (congrArg FlowSt.entry hbegun.flow)
  refine ⟨_, hexec, fun c => ?_, fun c => ?_, fun c => ?_, hentry, hstep, fun a ha => (congrFun hreg a).trans (hbegun.kept a ha)⟩
  · rw [hwait, FlowEntry.waitsFor, c, hgt]
    rfl
  · rw [hwait, FlowEntry.waitsFor, c, ← pkgFlag_num x]
    rfl
  · rw [hwait, FlowEntry.waitsFor, c]
    rfl

/-! CAL. -/

theorem calCtrl_ne_flwStat {c m : Nat} : CAL_CTRL c ≠ FLW_STAT m := by
  simp only [CAL_CTRL, FLW_STAT, clBlk, hubBlk]
  omega

/-- The clusters of a site follow its configuration. -/
theorem EntryBegun.siteClusters {m : Nat} {e : State} (h : EntryBegun m x s e) (k : Nat) : e.siteClusters k = s.siteClusters k := by
  have hw : ∀ a ∈ [ FLW_SITE_W0 k, FLW_SITE_W1 k], e.reg a = s.reg a := fun a ha => h.kept a fun c => by
    simp only [List.mem_cons, List.not_mem_nil, or_false] at ha c
    simp only [FLW_SITE_W0, FLW_SITE_W1, FLW_STAT, hubBlk] at ha c
    omega
  unfold State.siteClusters State.siteMask State.pair
  rw [hw _ (List.mem_cons_self ..), hw _ (List.mem_cons_of_mem _ (List.mem_singleton_self _))]

/-- No site is in a fenced region (R42). -/
theorem State.needReach_open {u : State} (m : Nat) (h : ∀ k ∈ u.servedSites m, ∀ c ∈ u.siteClusters k, (u.rg (c / 8)).fenced = false) :
    u.needReach m x = u := by
  unfold State.needReach
  refine List.foldlRecOn (motive := fun t => t = u) _ _ rfl fun t ht k hk => ?_
  subst ht
  refine if_neg fun hc => ?_
  obtain ⟨c, hmem, hfenced⟩ := List.any_eq_true.mp hc
  exact absurd (hfenced.symm.trans (h k hk c hmem)) (by decide)

theorem State.servedSites_eq {u : State} {m : Nat} (h : (u.flow m).entry = some x) : u.servedSites m = x.sites := by
  unfold State.servedSites
  rw [h]

/-- The calibrations that a CAL entry asks for of one cluster (R391). -/
def State.calAsked (x : FlowEntry) (u : State) (c : Nat) : State :=
  let u := if nbit (x.num 8 1) 0 then u.calRequest c .timing else u
  if nbit (x.num 8 1) 1 then u.calRequest c .dc else u

theorem State.calAsked_regsOnly (u : State) (c : Nat) : u.regsOnly (u.calAsked x c) := by
  unfold State.calAsked State.calRequest
  dsimp only
  split
  · split
    · exact State.regsOnly_trans (u.setBit_regsOnly _ _ _) (State.setBit_regsOnly _ _ _ _)
    · exact State.setBit_regsOnly _ _ _ _
  · split
    · exact u.setBit_regsOnly _ _ _
    · exact State.regsOnly_refl u

theorem State.calAsked_reg_ne (u : State) (c : Nat) {a : Nat} (h : a ≠ CAL_CTRL c) : (u.calAsked x c).reg a = u.reg a := by
  unfold State.calAsked State.calRequest
  dsimp only
  split
  · split
    · rw [State.setBit_reg_ne _ _ _ _ _ h, State.setBit_reg_ne _ _ _ _ _ h]
    · exact State.setBit_reg_ne _ _ _ _ _ h
  · split
    · exact State.setBit_reg_ne _ _ _ _ _ h
    · rfl

/-- The calibrations that a CAL entry asks for are asked of cluster c. -/
def CalShown (x : FlowEntry) (c : Nat) (t : State) : Prop :=
  (nbit (x.num 8 1) 0 = true → t.bit (CAL_CTRL c) CAL_CTRL_REQ_T = true) ∧ (nbit (x.num 8 1) 1 = true → t.bit (CAL_CTRL c) CAL_CTRL_REQ_DC = true)

theorem State.calAsked_shown (u : State) (c : Nat) : CalShown x c (u.calAsked x c) := by
  unfold CalShown State.calAsked
  dsimp only
  refine ⟨fun ht => ?_, fun hd => ?_⟩
  · rw [if_pos ht]
    have hreq := u.calRequest_bit c .timing
    split
    · rw [State.calRequest, State.setBit_bit_apart _ _ _ _ _ (by decide)]
      exact hreq
    · exact hreq
  · rw [if_pos hd]
    exact State.calRequest_bit _ c .dc

theorem CalShown.calAsked {u : State} {c : Nat} (h : CalShown x c u) (d : Nat) : CalShown x c (u.calAsked x d) := by
  by_cases hd : d = c
  · rw [hd]
    exact u.calAsked_shown c
  · have hreg := u.calAsked_reg_ne (x := x) d fun e => hd (calCtrl_inj e).symm
    unfold CalShown
    rw [State.bit_of_reg _ hreg, State.bit_of_reg _ hreg]
    exact h

/-- A CAL entry asks for the calibrations of its clusters, and with WAIT waits for them (R391). -/
def State.calEntry (x : FlowEntry) (m : Nat) (u : State) : State :=
  let cs := (u.servedSites m).flatMap u.siteClusters
  let v := cs.foldl (State.calAsked x) u
  if nbit (x.num 8 1) 2 then v.flowWaits m (.cal (nbit (x.num 8 1) 0) (nbit (x.num 8 1) 1) cs []) else v

/-- What a CAL entry shows of the clusters that it asks and of its flow engine. -/
structure CalEntered (m : Nat) (x : FlowEntry) (cs : List Nat) (s t : State) : Prop where
  shown : ∀ c ∈ cs, CalShown x c t
  wait : nbit (x.num 8 1) 2 = true → (t.flow m).waiting = .cal (nbit (x.num 8 1) 0) (nbit (x.num 8 1) 1) cs []
  done : nbit (x.num 8 1) 2 = false → (t.flow m).waiting = (s.flow m).waiting
  entry : (t.flow m).entry = (s.flow m).entry
  step : FlowStep s t
  kept : s.regsKept t (cs.map CAL_CTRL)

theorem CalEntered.of_stages {m : Nat} {cs : List Nat} {v : State} (hv : v = cs.foldl (State.calAsked x) s)
    (ht : t = if nbit (x.num 8 1) 2 then v.flowWaits m (.cal (nbit (x.num 8 1) 0) (nbit (x.num 8 1) 1) cs []) else v) :
    CalEntered m x cs s t := by
  have hregs : s.regsOnly v := hv ▸ List.foldlRecOn (motive := fun t => s.regsOnly t) cs _ (State.regsOnly_refl s) fun t h c _ =>
    State.regsOnly_trans h (t.calAsked_regsOnly c)
  have hshown : ∀ c ∈ cs, CalShown x c v := hv ▸ foldl_each (P := fun c t => CalShown x c t) cs (fun c _ t => t.calAsked_shown c)
    (fun c _ d _ t h => h.calAsked d) s
  have hkept : s.regsKept v (cs.map CAL_CTRL) := fun a ha => hv ▸ foldl_obs_mem _ (fun t => t.reg a) cs
    (fun c hc t => t.calAsked_reg_ne c fun e => ha (List.mem_map.mpr ⟨c, hc, e.symm⟩)) s
  have hflow : v.flow m = s.flow m := by
    unfold State.regsOnly at hregs
    rw [hregs]
    rfl
  by_cases hw : nbit (x.num 8 1) 2 = true
  · rw [if_pos hw] at ht
    have hwait : (t.flow m).waiting = .cal (nbit (x.num 8 1) 0) (nbit (x.num 8 1) 1) cs [] ∧ (t.flow m).entry = (v.flow m).entry := by
      rw [ht, State.flowWaits, State.updFlow, State.setFlow_flow]
      exact ⟨rfl, rfl⟩
    have hreg : ∀ a, t.reg a = v.reg a := fun a => by rw [ht, State.flowWaits, State.updFlow_reg]
    refine ⟨fun c hc => ?_, fun _ => hwait.1, fun h => absurd (h.symm.trans hw) (by decide), hwait.2.trans (congrArg _ hflow),
      (FlowStep.of_regs hregs).trans (ht ▸ FlowStep.updFlow v m _), fun a ha => (hreg a).trans (hkept a ha)⟩
    unfold CalShown
    rw [State.bit_of_reg _ (hreg _), State.bit_of_reg _ (hreg _)]
    exact hshown c hc
  · rw [if_neg hw] at ht
    subst ht
    exact ⟨hshown, fun h => absurd h hw, fun _ => congrArg _ hflow, congrArg _ hflow, FlowStep.of_regs hregs, hkept⟩

theorem cal_acts (h : s.entryDue n.val x) (hhead : x.headGood = true) (hkind : x.kind = 7) (hflags : x.num 8 1 < 8)
    (hopen : ∀ k ∈ x.sites, ∀ c ∈ s.siteClusters k, (s.rg (c / 8)).fenced = false) : ∃ t, exec (.cal n []) s = .next t ∧
      (∀ k ∈ x.sites, ∀ c ∈ s.siteClusters k, (nbit (x.num 8 1) 0 = true → t.bit (CAL_CTRL c) CAL_CTRL_REQ_T = true) ∧
        (nbit (x.num 8 1) 1 = true → t.bit (CAL_CTRL c) CAL_CTRL_REQ_DC = true)) ∧
      (nbit (x.num 8 1) 2 = true → (t.flow n.val).waiting =
        .cal (nbit (x.num 8 1) 0) (nbit (x.num 8 1) 1) (x.sites.flatMap s.siteClusters) []) ∧
      (nbit (x.num 8 1) 2 = false → (t.flow n.val).waiting = .done) ∧ (t.flow n.val).entry = some x ∧
      t = { s with regs := t.regs, flows := t.flows, sites := t.sites, clusters := t.clusters } ∧
      s.regsKept t (FLW_STAT n.val :: (List.range 64).map CAL_CTRL) := by
  obtain ⟨e, he⟩ : ∃ e, e = s.entryBegin n.val x := ⟨_, rfl⟩
  have hbegun : EntryBegun n.val x s e := he ▸ s.entryBegin_begun n.val x
  have hclusters : e.siteClusters = s.siteClusters := funext fun k => hbegun.siteClusters k
  have hserved : e.servedSites n.val = x.sites := State.servedSites_eq (congrArg FlowSt.entry hbegun.flow)
  have hreach : e.needReach n.val x = e := State.needReach_open n.val fun k hk c hc => by
    rw [hserved] at hk
    rw [hclusters] at hc
    rw [(FlowStep.of_begun hbegun).rg]
    exact hopen k hk c hc
  have hcal : CalEntered n.val x (x.sites.flatMap s.siteClusters) e (State.calEntry x n.val (e.needReach n.val x)) := by
    rw [hreach]
    unfold State.calEntry
    rw [hserved, hclusters]
    exact CalEntered.of_stages rfl rfl
  obtain ⟨hexec, -, hstep⟩ := next_of_due (act := fun x t => State.calEntry x n.val (t.needReach n.val x)) h hhead hkind (by decide)
    (good := fun x => decide (x.num 8 1 < 8)) (decide_eq_true hflags) he hcal.step
  refine ⟨_, hexec, fun k hk c hc => hcal.shown c (List.mem_flatMap.mpr ⟨k, hk, hc⟩), hcal.wait, fun hw => (hcal.done hw).trans ?_,
    hcal.entry.trans ?_, hstep, fun a ha => (hcal.kept a fun hm => ?_).trans (hbegun.kept a fun hm => ?_)⟩
  · rw [hbegun.flow]
  · rw [hbegun.flow]
  · obtain ⟨c, hc, hac⟩ := List.mem_map.mp hm
    obtain ⟨k, -, hck⟩ := List.mem_flatMap.mp hc
    exact ha (List.mem_cons_of_mem _ (List.mem_map.mpr ⟨c, List.mem_range.mpr (mem_bitsOf.mp hck).1, hac⟩))
  · exact ha (List.mem_cons.mpr (.inl (List.mem_singleton.mp hm)))

/-- Settles O47: the entry that is due begins for its sites and acts on each of them. -/
theorem flowEntriesAct : Obligations.FlowEntriesAct := by
  intro n x s h hhead
  exact ⟨branch_acts h hhead, bin_acts h hhead, limit_acts h hhead, wait_acts h hhead, cal_acts h hhead⟩

end Sys2Proof.Machine
end

section
/-! O48. A PATTERN entry ends the force of a PPMU of its run's pins (R284). -/

namespace Sys2Proof.Machine

open Sys2Proof.Tests

/-- The counterexample: flow engine 0 stands at a PATTERN entry for engine 0 of cluster 0, and the PPMU of pin 0, which engine 0 serves, forces. -/
def patternWhileForcing : State := atPattern.setPin 0 { pmuOn := true }

/-- Whether the PPMU of pin 0 forces after a step. -/
def forcesAfter : Host.Outcome State Fault Refusal → Bool
  | .next t => (t.pin 0).pmuOn
  | _ => true

/-- The run takes the pin: its PPMU acts as MV from the START on (R284). -/
theorem forcesAfter_pattern : forcesAfter (exec (.pattern 0 []) patternWhileForcing) = false := by decide +kernel

theorem patternWhileForcing_due : patternWhileForcing.entryDue 0 (entryOf 1 [(18, 1)]) ∧ (entryOf 1 [(18, 1)]).headGood = true ∧
    (entryOf 1 [(18, 1)]).kind = 1 ∧ patternGood (entryOf 1 [(18, 1)]) = true := by decide +kernel

theorem patternWhileForcing_open : (∀ c ∈ patternWhileForcing.siteClusters 0, patternWhileForcing.hasMode c 0 = true) ∧
    ∀ c ∈ patternWhileForcing.siteClusters 0, (patternWhileForcing.rg (c / 8)).fenced = false := by decide +kernel

/-- Flow engine 0 has begun that entry. -/
def patternBegun : State := patternWhileForcing.entryBegin 0 (entryOf 1 [(18, 1)])

theorem patternBegun_starts : (patternBegun.patternEngines (entryOf 1 [(18, 1)]) [0]).any patternBegun.quiesced = false ∧
    ∀ i ∈ patternBegun.patternEngines (entryOf 1 [(18, 1)]) [0], (patternBegun.eng i).run = none ∧
      (patternBegun.patternSetup (entryOf 1 [(18, 1)]) (patternWhileForcing.siteClusters 0)).startRefusal i = none := by decide +kernel

/-- Refutes O48: a PATTERN entry does not leave the pins as they are, since a PPMU that forces on a pin of the run acts as MV from the START
on (R284). -/
theorem not_flowEntriesOfASite : ¬ Obligations.FlowEntriesOfASite := by
  intro h
  obtain ⟨hdue, hhead, hkind, hgood⟩ := patternWhileForcing_due
  obtain ⟨hmode, hfence⟩ := patternWhileForcing_open
  obtain ⟨hquiet, hstart⟩ := patternBegun_starts
  obtain ⟨hpattern, -⟩ := h 0 (entryOf 1 [(18, 1)]) 0 patternWhileForcing hdue hhead rfl patternBegun rfl
  obtain ⟨t, hexec, -, -, -, -, hpins, -⟩ := hpattern hkind hgood hmode hfence hquiet hstart
  have hoff := forcesAfter_pattern
  rw [hexec] at hoff
  have hpin : t.pin 0 = patternWhileForcing.pin 0 := congrArg (fun l => tget (fun _ => ({} : PinSt)) l 0) hpins
  have hon : (patternWhileForcing.pin 0).pmuOn = true := by decide +kernel
  exact absurd ((congrArg PinSt.pmuOn hpin).trans hon) (ne_true_of_eq_false hoff)

end Sys2Proof.Machine
end

section
/-! SUPPORT. What ends with the modes of a cluster leaves runs, engines, the tenons of the clusters and the mode words (R407, R419). -/

namespace Sys2Proof.Machine

variable {s t u : State} {c d p : Nat}

/-- A register of the block that holds the mode words of a cluster. -/
def modeReg (a : Nat) : Prop := a < rgBlk 0 0 ∧ a % 0x1000000 / 0x100000 = 1

theorem modeReg_modReq {c : Nat} (hc : c < 64) : modeReg (MOD_REQ c) := by
  simp only [modeReg, MOD_REQ, rgBlk, clBlk]
  omega

theorem modeReg_modActive {c : Nat} (hc : c < 64) : modeReg (MOD_ACTIVE c) := by
  simp only [modeReg, MOD_ACTIVE, rgBlk, clBlk]
  omega

/-- A cluster but for its converter. -/
def ClSt.sansAdc (x : ClSt) : ClSt := { x with adc := {} }

/-- From s to t runs, engines, the clusters but for their converters, the mode words and what is in force in pin time have stayed. -/
structure ModeAside (s t : State) : Prop where
  runs : t.runs = s.runs
  engines : t.engines = s.engines
  force : t.force = s.force
  cls : ∀ k, (t.cl k).sansAdc = (s.cl k).sansAdc
  regs : ∀ a, modeReg a → t.reg a = s.reg a

namespace ModeAside

theorem refl (s : State) : ModeAside s s := ⟨rfl, rfl, rfl, fun _ => rfl, fun _ _ => rfl⟩

theorem trans (h : ModeAside s t) (k : ModeAside t u) : ModeAside s u :=
  ⟨k.runs.trans h.runs, k.engines.trans h.engines, k.force.trans h.force, fun j => (k.cls j).trans (h.cls j),
    fun a ha => (k.regs a ha).trans (h.regs a ha)⟩

theorem foldl {α : Type} {f : State → α → State} (h : ∀ t x, ModeAside t (f t x)) (l : List α) (s : State) : ModeAside s (l.foldl f s) :=
  List.foldlRecOn (motive := ModeAside s) l f (refl s) fun t ht x _ => ht.trans (h t x)

/-! Writes of one record or register. -/

theorem setReg (s : State) {a : Nat} (w : Word) (ha : ¬modeReg a) : ModeAside s (s.setReg a w) :=
  ⟨rfl, rfl, rfl, fun _ => rfl, fun b hb => s.setReg_reg_ne a w b fun e => ha (e ▸ hb)⟩

theorem setFld (s : State) {a : Nat} (f : Fld) (v : Nat) (ha : ¬modeReg a) : ModeAside s (s.setFld a f v) := setReg s _ ha
theorem setBit (s : State) {a : Nat} (f : Fld) (b : Bool) (ha : ¬modeReg a) : ModeAside s (s.setBit a f b) := setReg s _ ha
theorem orBit (s : State) {a : Nat} (f : Fld) (n : Nat) (ha : ¬modeReg a) : ModeAside s (s.orBit a f n) := setReg s _ ha
theorem countSat (s : State) {a : Nat} (f : Fld) (n : Nat) (ha : ¬modeReg a) : ModeAside s (s.countSat a f n) := setReg s _ ha
theorem updPin (s : State) (p : Nat) (f : PinSt → PinSt) : ModeAside s (s.updPin p f) := ⟨rfl, rfl, rfl, fun _ => rfl, fun _ _ => rfl⟩
theorem updDig (s : State) (d : Nat) (f : DigSt → DigSt) : ModeAside s (s.updDig d f) := ⟨rfl, rfl, rfl, fun _ => rfl, fun _ _ => rfl⟩
theorem send (s : State) (o : Output) : ModeAside s (s.send o) := ⟨rfl, rfl, rfl, fun _ => rfl, fun _ _ => rfl⟩
theorem withFree (s : State) (n : Nat) : ModeAside s { s with free := n } := ⟨rfl, rfl, rfl, fun _ => rfl, fun _ _ => rfl⟩

theorem updAdc (s : State) (c : Nat) (f : Adc → Adc) : ModeAside s (s.updAdc c f) := by
  refine ⟨rfl, rfl, rfl, fun k => ?_, fun a _ => ?_⟩
  · by_cases hk : k = c
    · rw [hk, State.updAdc, State.updCl_cl]
      rfl
    · rw [State.updAdc_cl_ne _ _ _ hk]
  · rw [State.updAdc_reg]

theorem of_ports (h : PortsOnly s t) : ModeAside s t where
  runs := (congrArg State.runs h.rest :)
  engines := (congrArg State.engines h.rest :)
  force := (congrArg State.force h.rest :)
  cls k := congrArg ClSt.sansAdc (congrArg (State.cl · k) h.rest :)
  regs a ha := h.regs a (.inl (Nat.lt_trans ha.1 (by decide)))

end ModeAside

/-! Registers apart from the mode words. -/

theorem ringStat_notMode (n : Nat) : ¬modeReg (ringStat n) := fun h => absurd h.1 (Nat.not_lt.mpr (rgBlk_le_ringStat n))

theorem acqStat_notMode (d : Nat) : ¬modeReg (acqStat d) := by
  simp only [modeReg, acqStat, ACQ_STAT, rgBlk, clBlk, digCl]
  omega

theorem adcStat_notMode (c : Nat) : ¬modeReg (ADC_STAT c) ∧ ¬modeReg (ADC_QSTAT c) := by
  simp only [modeReg, ADC_STAT, ADC_QSTAT, rgBlk, clBlk]
  omega

theorem segPin_notMode (p : Nat) : ¬modeReg (SEG_PIN (pinCl p) (pinUnit p)) ∧ ¬modeReg (SEG_STAT (pinCl p)) ∧
    ¬modeReg (FMT_STAT (pinCl p)) := by
  simp only [modeReg, SEG_PIN, SEG_STAT, FMT_STAT, rgBlk, clBlk, pinCl, pinUnit]
  omega

/-! Players stop (R140, R407). -/

section

variable (s : State)

theorem State.undoPlay_modeAside (p g : Nat) (y : Player) : ModeAside s (s.undoPlay p g y) := by
  obtain ⟨hpin, hstat, -⟩ := segPin_notMode p
  unfold State.undoPlay
  split
  · split
    · dsimp only
      split
      · exact ModeAside.setFld s _ _ hpin
      · exact (ModeAside.setFld s _ _ hpin).trans (ModeAside.setFld _ _ _ hstat)
    · exact ModeAside.refl s
  · exact ModeAside.refl s

theorem State.stopPlayer_modeAside (p g : Nat) : ModeAside s (s.stopPlayer p g) := by
  have hplaying := ModeAside.setBit s SEG_PIN_PLAYING false (segPin_notMode p).1
  unfold State.stopPlayer
  dsimp only
  split
  · exact hplaying
  · exact (((hplaying.trans (State.undoPlay_modeAside _ p g _)).trans (ModeAside.updPin _ p _)).trans (ModeAside.updPin _ p _)).trans
      (ModeAside.send _ _)

theorem State.endWave_modeAside (p b : Nat) : ModeAside s (s.endWave p b) := by
  have hstop := s.stopPlayer_modeAside p b
  unfold State.endWave
  dsimp only
  split
  · split
    · exact hstop
    · split
      · exact hstop.trans (ModeAside.updPin _ p _)
      · exact hstop.trans ((ModeAside.orBit _ _ _ (segPin_notMode p).2.2).trans (ModeAside.updPin _ p _))
  · exact hstop

/-! Records end (R267, R276-R279). -/

theorem State.updAcqRing_modeAside (d ring : Nat) (f : AcqRing → AcqRing) : ModeAside s (s.updAcqRing d ring f) := ModeAside.updDig s d _

theorem State.sourceRequest_modeAside (n : Nat) : ModeAside s (s.sourceRequest n) := by
  unfold State.sourceRequest
  split
  · exact ModeAside.of_ports (s.violation_portsOnly ..)
  · exact ModeAside.setBit s _ _ (ringStat_notMode n)

theorem State.acqRequest_modeAside (d ring : Nat) (b : Bool) : ModeAside s (s.acqRequest d ring b) := by
  unfold State.acqRequest
  dsimp only
  split
  · exact (s.updAcqRing_modeAside d ring _).trans (State.sourceRequest_modeAside _ _)
  · exact ModeAside.refl s

theorem State.stageData_modeAside (d ring n : Nat) (body : List Byte) : ModeAside s (s.stageData d ring n body) := by
  unfold State.stageData
  dsimp only
  split
  · exact ((s.updAcqRing_modeAside d ring _).trans (State.updAcqRing_modeAside _ d ring _)).trans (State.acqRequest_modeAside _ d ring _)
  · exact (s.updAcqRing_modeAside d ring _).trans (ModeAside.setBit _ _ _ (acqStat_notMode d))

theorem State.meanOvf_modeAside (d n : Nat) (x : AcqCfg) (j k : Nat) (l : List Byte) : ModeAside s (s.meanOvf d n x j k l) := by
  unfold State.meanOvf
  split
  · exact ModeAside.refl s
  · have hmark := (ModeAside.setBit s ACQ_STAT_OVF true (acqStat_notMode d)).trans (State.updAcqRing_modeAside _ d 2 fun r => { r with ovf := true })
    dsimp only
    split
    · exact hmark
    · exact hmark.trans ((ModeAside.updDig _ d _).trans (ModeAside.of_ports (State.event_portsOnly ..)))

theorem State.nextLine_modeAside (d n : Nat) (x : AcqCfg) (ring units : Nat) (l : List Byte) :
    ModeAside s (s.nextLine d n x ring units l) := by
  unfold State.nextLine
  dsimp only
  split
  · exact ModeAside.refl s
  · split
    · exact (s.meanOvf_modeAside ..).trans (State.stageData_modeAside _ ..)
    · exact s.stageData_modeAside ..

theorem State.restLines_modeAside (d n : Nat) (x : AcqCfg) (ring units : Nat) (l : List Byte) (k : Nat) :
    ModeAside s (State.restLines d n x ring units l k s) := by
  induction k generalizing s with
  | zero => exact ModeAside.refl s
  | succ k ih => exact (s.nextLine_modeAside ..).trans (ih _)

theorem State.endRing_modeAside (d n : Nat) (x : AcqCfg) (l : List Byte) (aborted : Bool) (ring : Nat) :
    ModeAside s (s.endRing d n x l aborted ring) := by
  unfold State.endRing
  dsimp only
  split
  · exact (s.restLines_modeAside ..).trans ((State.updAcqRing_modeAside _ d ring _).trans ((State.updAcqRing_modeAside _ d ring _).trans
      (State.acqRequest_modeAside _ d ring _)))
  · exact ModeAside.refl s

theorem State.endRecord_modeAside (d a n m : Nat) (x : AcqCfg) (aborted : Bool) : ModeAside s (s.endRecord d a n m x aborted) := by
  unfold State.endRecord State.feedTo
  exact ((ModeAside.updDig s d _).trans (ModeAside.withFree _ _)).trans (ModeAside.foldl (fun t r => t.endRing_modeAside ..) _ _)

theorem State.digIdle_modeAside (d g : Nat) : ModeAside s (s.digIdle d g) := by
  unfold State.digIdle
  exact ((ModeAside.updDig s d _).trans (ModeAside.setBit _ _ _ (acqStat_notMode d))).trans (ModeAside.setBit _ _ _ (acqStat_notMode d))

theorem State.abortDig_modeAside (d b : Nat) : ModeAside s (s.abortDig d b) := by
  unfold State.abortDig
  split
  · exact ((s.endRecord_modeAside ..).trans (State.digIdle_modeAside _ d _)).trans (ModeAside.setBit _ _ _ (acqStat_notMode d))
  · exact s.digIdle_modeAside d b
  · exact ModeAside.refl s

/-! The converter (R292, R407, R419). -/

theorem State.adcPending_modeAside (c : Nat) : ModeAside s (s.adcPending c) := ModeAside.setBit s _ _ (adcStat_notMode c).1

theorem State.adcAfter_modeAside (c g : Nat) (lp : Bool) : ModeAside s (s.adcAfter c g lp) := by
  obtain ⟨hstat, -⟩ := adcStat_notMode c
  have hbusy := ModeAside.setBit s ADC_STAT_BUSY false hstat
  unfold State.adcAfter
  dsimp only
  split
  · exact (hbusy.trans (ModeAside.updAdc _ c _)).trans (State.adcPending_modeAside _ c)
  · split
    · exact hbusy.trans (ModeAside.updAdc _ c _)
    · exact (hbusy.trans (ModeAside.updAdc _ c _)).trans (ModeAside.setBit _ _ _ hstat)

theorem State.abandonSeq_modeAside (c g : Nat) : ModeAside s (s.abandonSeq c g) := by
  unfold State.abandonSeq
  split
  · exact s.adcAfter_modeAside c g _
  · exact ModeAside.refl s

/-- What the shutdown of a mode does at its boundary (R407). -/
theorem State.beginShutdown_modeAside (c b m : Nat) : ModeAside s (s.beginShutdown c b m) := by
  unfold State.beginShutdown
  split
  · exact ModeAside.foldl (fun t u => t.endWave_modeAside _ b) _ s
  · exact (s.abortDig_modeAside _ b).trans (State.abortDig_modeAside _ _ b)
  · have hmissed : ∀ n : Nat, ModeAside s (if n = 1 then s.adcMissed c else s) := fun n => by
      split
      · exact ModeAside.countSat s _ _ (adcStat_notMode c).2
      · exact ModeAside.refl s
    exact ((hmissed _).trans (ModeAside.updAdc _ c _)).trans (State.adcPending_modeAside _ c)
  · exact ModeAside.refl s

end

end Sys2Proof.Machine
end

section
/-! O53. DRAIN stops the modes, cuts runs if asked, and ends (R419-R421). -/

namespace Sys2Proof.Machine

variable {s t u : State} {c : Nat}

/-! The modes of a cluster step at a boundary (R405, R407). -/

/-- Whether a mode is in ACTIVE, and whether it is in STOPPING. -/
def State.modeBits (s : State) (c m : Nat) : Bool × Bool :=
  (s.fbit (MOD_ACTIVE c) MOD_ACTIVE_ACTIVE m, s.fbit (MOD_ACTIVE c) MOD_ACTIVE_STOPPING m)

/-- A mode that is not wanted: it is in force no more, and what was in force stops. -/
def modeLeft (x : Bool × Bool) : Bool × Bool := (false, x.1 || x.2)

theorem State.modeBits_of_reg (h : t.reg (MOD_ACTIVE c) = s.reg (MOD_ACTIVE c)) (m : Nat) : t.modeBits c m = s.modeBits c m := by
  unfold State.modeBits State.fbit
  rw [State.fld_of_reg _ h, State.fld_of_reg _ h]

/-- From s to t runs, engines, the clusters but for their converters and the wanted mode word have stayed. -/
structure DrainAside (c : Nat) (s t : State) : Prop where
  runs : t.runs = s.runs
  engines : t.engines = s.engines
  cls : ∀ k, (t.cl k).sansAdc = (s.cl k).sansAdc
  force : t.inForce (MOD_REQ c) = s.inForce (MOD_REQ c)
  req : t.reg (MOD_REQ c) = s.reg (MOD_REQ c)

namespace DrainAside

theorem refl (c : Nat) (s : State) : DrainAside c s s := ⟨rfl, rfl, fun _ => rfl, rfl, rfl⟩

theorem trans (h : DrainAside c s t) (k : DrainAside c t u) : DrainAside c s u :=
  ⟨k.runs.trans h.runs, k.engines.trans h.engines, fun j => (k.cls j).trans (h.cls j), k.force.trans h.force, k.req.trans h.req⟩

theorem of_mode (hc : c < 64) (h : ModeAside s t) : DrainAside c s t :=
  ⟨h.runs, h.engines, h.cls, congrArg (fun l => tget regReset l (MOD_REQ c)) h.force, h.regs _ (modeReg_modReq hc)⟩

theorem of_regsOnly (h : s.regsOnly t) (hreq : t.reg (MOD_REQ c) = s.reg (MOD_REQ c)) : DrainAside c s t := by
  obtain ⟨r, ht⟩ : ∃ r, t = { s with regs := r } := ⟨_, h⟩
  refine ⟨?_, ?_, fun k => ?_, ?_, hreq⟩
  · rw [ht]
  · rw [ht]
  · rw [ht]
    rfl
  · rw [ht]
    rfl

theorem setModeBit (c : Nat) (s : State) (f : Fld) (m : Nat) (v : Bool) : DrainAside c s (s.setModeBit (MOD_ACTIVE c) f m v) := by
  have hne : MOD_REQ c ≠ MOD_ACTIVE c := by
    simp only [ MOD_REQ, MOD_ACTIVE]
    omega
  exact of_regsOnly (s.setModeBit_regsOnly _ m v f) (State.setFld_reg_ne _ _ _ _ _ hne)

end DrainAside

/-- From s to t the modes of a list have been left, and the others stand. -/
structure ModesLeft (c : Nat) (l : List Nat) (s t : State) : Prop where
  left : ∀ m ∈ l, m < 5 → t.modeBits c m = modeLeft (s.modeBits c m)
  kept : ∀ m, m < 5 → m ∉ l → t.modeBits c m = s.modeBits c m
  aside : DrainAside c s t

section

variable (s : State) (c b : Nat)

theorem State.setModeBit_modeBits (f : Fld) (m n : Nat) (v : Bool) (hn : n < 5) (h : f = MOD_ACTIVE_PENDING ∨ m ≠ n) (hf : f = MOD_ACTIVE_PENDING ∨
    f = MOD_ACTIVE_ACTIVE ∨ f = MOD_ACTIVE_STOPPING) : (s.setModeBit (MOD_ACTIVE c) f m v).modeBits c n = s.modeBits c n := by
  have hsix : n < 6 := Nat.lt_succ_of_lt hn
  unfold State.modeBits
  rcases hf with rfl | rfl | rfl
  · rw [State.setModeBit_fbit_apart _ _ _ _ _ (by decide), State.setModeBit_fbit_apart _ _ _ _ _ (by decide)]
  · have hne : n ≠ m := (h.resolve_left (by decide)).symm
    rw [State.setModeBit_fbit_same _ _ _ _ _ (by decide) (by decide) hsix, if_neg hne, State.setModeBit_fbit_apart _ _ _ _ _ (by decide)]
  · have hne : n ≠ m := (h.resolve_left (by decide)).symm
    rw [State.setModeBit_fbit_same _ _ _ _ _ (by decide) (by decide) hsix, if_neg hne, State.setModeBit_fbit_apart _ _ _ _ _ (by decide)]

/-- A mode begins to stop. -/
def State.modeStops (m : Nat) : State :=
  (s.setModeBit (MOD_ACTIVE c) MOD_ACTIVE_ACTIVE m false).setModeBit (MOD_ACTIVE c) MOD_ACTIVE_STOPPING m true

theorem State.modeStops_own {m : Nat} (hm : m < 5) : (s.modeStops c m).modeBits c m = (false, true) := by
  have hsix : m < 6 := Nat.lt_succ_of_lt hm
  unfold State.modeBits State.modeStops
  rw [State.setModeBit_fbit_apart _ _ _ _ _ (by decide), State.setModeBit_fbit_same _ _ _ _ _ (by decide) (by decide) hsix, if_pos rfl,
    State.setModeBit_fbit_same _ _ _ _ _ (by decide) (by decide) hsix, if_pos rfl]

theorem State.modeStops_ne {m n : Nat} (hn : n < 5) (h : m ≠ n) : (s.modeStops c m).modeBits c n = s.modeBits c n := by
  unfold State.modeStops
  rw [State.setModeBit_modeBits _ _ _ _ _ _ hn (.inr h) (.inr (.inr rfl)), State.setModeBit_modeBits _ _ _ _ _ _ hn (.inr h) (.inr (.inl rfl))]

variable (hc : c < 64) (hreq : s.inForce (MOD_REQ c) = 0x20)
include hreq

omit hc in
theorem State.drained_req {m : Nat} (hm : m < 5) : nbit (s.ffld (MOD_REQ c) MOD_REQ_REQ) m = false := by
  have hall : ∀ m, m < 5 → nbit (getF 0x20 MOD_REQ_REQ) m = false := by decide
  rw [State.ffld, hreq]
  exact hall m hm

include hc

/-- A mode that DRAIN does not want is left. -/
theorem State.stepMode_left {m : Nat} (hm : m < 5) : ModesLeft c [m] s (s.stepMode c b m) := by
  unfold State.stepMode
  dsimp only
  rw [s.drained_req c hreq hm, if_neg (by decide)]
  by_cases hact : s.fbit (MOD_ACTIVE c) MOD_ACTIVE_ACTIVE m = true
  · rw [if_pos hact]
    have hshut := (s.modeStops c m).beginShutdown_modeAside c b m
    have hbits := fun n => State.modeBits_of_reg (hshut.regs _ (modeReg_modActive hc)) n
    refine ⟨fun n hn h5 => ?_, fun n h5 hn => (hbits n).trans (s.modeStops_ne c h5 fun e => hn (List.mem_singleton.mpr e.symm)),
      ((DrainAside.setModeBit c s _ m false).trans (DrainAside.setModeBit c _ _ m true)).trans (DrainAside.of_mode hc hshut)⟩
    obtain rfl := List.mem_singleton.mp hn
    refine (hbits n).trans ((s.modeStops_own c h5).trans ?_)
    rw [State.modeBits, hact]
    rfl
  · rw [if_neg hact]
    have hbits := fun n h5 => s.setModeBit_modeBits c MOD_ACTIVE_PENDING m n false h5 (.inl rfl) (.inl rfl)
    refine ⟨fun n hn h5 => ?_, fun n h5 _ => hbits n h5, DrainAside.setModeBit c s _ m false⟩
    obtain rfl := List.mem_singleton.mp hn
    refine (hbits n h5).trans ?_
    rw [State.modeBits, Bool.eq_false_iff.mpr hact]
    rfl

omit hreq hc in
/-- SERVICE enters force or waits for its shutdown, and the other modes stand. -/
theorem State.stepMode_service : ModesLeft c [5] s (s.stepMode c b 5) ∨ s.inForce (MOD_REQ c) ≠ 0x20 := by
  by_cases hreq : s.inForce (MOD_REQ c) = 0x20
  · refine .inl ?_
    have hwant : nbit (s.ffld (MOD_REQ c) MOD_REQ_REQ) 5 = true := by
      rw [State.ffld, hreq]
      decide
    have hset : ∀ f, f = MOD_ACTIVE_PENDING ∨ f = MOD_ACTIVE_ACTIVE ∨ f = MOD_ACTIVE_STOPPING →
        ModesLeft c [5] s (s.setModeBit (MOD_ACTIVE c) f 5 true) := fun f hf =>
      ⟨fun n hn h5 => absurd (List.mem_singleton.mp hn) (Nat.ne_of_lt h5),
        fun n h5 _ => s.setModeBit_modeBits c f 5 n true h5 (.inr (Nat.ne_of_gt h5)) hf, DrainAside.setModeBit c s f 5 true⟩
    unfold State.stepMode
    dsimp only
    rw [hwant, if_pos rfl]
    split
    · exact ⟨fun n hn h5 => absurd (List.mem_singleton.mp hn) (Nat.ne_of_lt h5), fun _ _ _ => rfl, DrainAside.refl c s⟩
    · split
      · exact hset _ (.inl rfl)
      · exact hset _ (.inr (.inl rfl))
  · exact .inr hreq

end

theorem ModesLeft.cons {m : Nat} {l : List Nat} (h : ModesLeft c [m] s t) (k : ModesLeft c l t u) (hm : m ∉ l) : ModesLeft c (m :: l) s u where
  left n hn h5 := by
    rcases List.mem_cons.mp hn with rfl | hl
    · rw [k.kept n h5 hm, h.left n (List.mem_singleton_self n) h5]
    · have hne : n ∉ [m] := fun e => hm (List.mem_singleton.mp e ▸ hl)
      rw [k.left n hl h5, h.kept n h5 hne]
  kept n h5 hn := by
    rw [List.mem_cons, not_or] at hn
    rw [k.kept n h5 hn.2, h.kept n h5 fun e => hn.1 (List.mem_singleton.mp e)]
  aside := h.aside.trans k.aside

theorem foldl_stepMode_left (hc : c < 64) (b : Nat) (l : List Nat) (hl : l.Nodup ∧ ∀ m ∈ l, m < 6) (s : State)
    (hreq : s.inForce (MOD_REQ c) = 0x20) : ModesLeft c l s (l.foldl (fun t m => t.stepMode c b m) s) := by
  induction l generalizing s with
  | nil => exact ⟨fun _ hm _ => absurd hm List.not_mem_nil, fun _ _ _ => rfl, DrainAside.refl c s⟩
  | cons m l ih =>
    obtain ⟨hnodup, hlt⟩ := hl
    obtain ⟨hm, hnodup⟩ := List.nodup_cons.mp hnodup
    have hstep : ModesLeft c [m] s (s.stepMode c b m) := by
      by_cases h5 : m < 5
      · exact s.stepMode_left c b hc hreq h5
      · have he : m = 5 := by
          have := hlt m (List.mem_cons_self ..)
          omega
        exact he ▸ (s.stepMode_service c b).resolve_right (not_not.mpr hreq)
    exact hstep.cons (ih ⟨hnodup, fun n hn => hlt n (List.mem_cons_of_mem _ hn)⟩ _ (hstep.aside.force.trans hreq)) hm

theorem State.stepModes_left (hc : c < 64) (s : State) (b : Nat) (hreq : s.inForce (MOD_REQ c) = 0x20) :
    ModesLeft c [0, 1, 2, 3, 4, 5] s (s.stepModes c b) := foldl_stepMode_left hc b _ (by decide) s hreq

/-! DRAIN at its boundary (R419). -/

/-- DRAIN before it looks at the runs. -/
def State.drainStopped (s : State) (c d : Nat) : State := (((s.at d).modReqNow c 0x20).stepModes c d).abandonSeq c d

/-- SERVICE alone is wanted, and the other modes stop. -/
structure ModesStopped (c : Nat) (s t : State) : Prop where
  modes : ∀ m, m < 5 → t.modeBits c m = modeLeft (s.modeBits c m)
  req : t.reg (MOD_REQ c) = 0x20
  force : t.inForce (MOD_REQ c) = 0x20

/-- Besides, runs, engines and tenons stand. -/
structure Stopped (c : Nat) (s t : State) : Prop extends ModesStopped c s t where
  runs : t.runs = s.runs
  engines : t.engines = s.engines
  cls : ∀ k, (t.cl k).sansAdc = (s.cl k).sansAdc

theorem Stopped.of_stages {a b v : State} (hc : c < 64) (ha : a = { s with gt := a.gt })
    (hb : b = { a with regs := b.regs, force := b.force, inFlight := b.inFlight }) (hreq : b.reg (MOD_REQ c) = 0x20)
    (hforce : b.inForce (MOD_REQ c) = 0x20) (hact : b.reg (MOD_ACTIVE c) = a.reg (MOD_ACTIVE c))
    (hv : ModesLeft c [0, 1, 2, 3, 4, 5] b v) (ht : ModeAside v t) : Stopped c s t := by
  obtain ⟨g, ha⟩ : ∃ g, a = { s with gt := g } := ⟨_, ha⟩
  obtain ⟨r, f, i, hb⟩ : ∃ r f i, b = { s with gt := g, regs := r, force := f, inFlight := i } := ⟨_, _, _, ha ▸ hb⟩
  have hactS : b.reg (MOD_ACTIVE c) = s.reg (MOD_ACTIVE c) := hact.trans (by rw [ha]; rfl)
  have haside := hv.aside.trans (DrainAside.of_mode hc ht)
  refine ⟨⟨fun m hm => ?_, haside.req.trans hreq, haside.force.trans hforce⟩, haside.runs.trans (by rw [hb]), haside.engines.trans (by rw [hb]),
    fun k => (haside.cls k).trans (by rw [hb]; rfl)⟩
  have hmem : ∀ m, m < 5 → m ∈ [0, 1, 2, 3, 4, 5] := by decide
  rw [State.modeBits_of_reg (ht.regs _ (modeReg_modActive hc)), hv.left m (hmem m hm) hm, State.modeBits_of_reg hactS]

theorem State.drainStopped_stopped (hc : c < 64) (s : State) (d : Nat) : Stopped c s (s.drainStopped c d) := by
  have hne : MOD_ACTIVE c ≠ MOD_REQ c := by
    simp only [ MOD_ACTIVE, MOD_REQ]
    omega
  exact Stopped.of_stages hc rfl (State.modReqNow_frame _ c 0x20) (State.modReqNow_reg _ c 0x20) (State.modReqNow_inForce _ c 0x20)
    (State.modReqNow_reg_ne _ c 0x20 hne) (State.stepModes_left hc _ d (State.modReqNow_inForce _ c 0x20)) (State.abandonSeq_modeAside _ c d)

theorem Run.any_of_runs (h : t.runs = s.runs) : t.runs.any (fun r => r.hasCluster c) = s.runs.any (fun r => r.hasCluster c) := by rw [h]

/-- What DRAIN shows at its boundary: a service command that stops the modes. -/
structure Drained (c : Nat) (v : Service) (s t : State) : Prop where
  busy : t.bit (MOD_SVC_STAT c) MOD_SVC_STAT_BUSY = true
  op : t.fld (MOD_SVC_STAT c) MOD_SVC_STAT_OP = 1
  req : t.reg (MOD_REQ c) = 0x20
  force : t.inForce (MOD_REQ c) = 0x20
  modes : ∀ m, m < 5 → t.modeBits c m = modeLeft (s.modeBits c m)
  svc : (t.cl c).svc = some v

theorem modActive_ne_modSvcStat (c : Nat) : MOD_ACTIVE c ≠ MOD_SVC_STAT c := by
  simp only [ MOD_ACTIVE, MOD_SVC_STAT]
  omega

theorem ModesStopped.of_regs (h : ModesStopped c s t) (hregs : u.regs = t.regs) (hforce : u.force = t.force) : ModesStopped c s u := by
  have hreg : ∀ a, u.reg a = t.reg a := fun a => congrArg (fun l => tget regReset l a) hregs
  have hin : ∀ a, u.inForce a = t.inForce a := fun a => congrArg (fun l => tget regReset l a) hforce
  exact ⟨fun m hm => (State.modeBits_of_reg (hreg _) m).trans (h.modes m hm), (hreg _).trans h.req, (hin _).trans h.force⟩

theorem ModesStopped.begun {v : Service} (h : ModesStopped c s t) (hv : v.op = 1) : Drained c v s (t.svcBegin c v) := by
  have hforce : (t.svcBegin c v).force = t.force := by rw [t.svcBegin_frame c v]
  have hin : ∀ a, (t.svcBegin c v).inForce a = t.inForce a := fun a => congrArg (fun l => tget regReset l a) hforce
  refine ⟨t.svcBegin_busy c v, ?_, ?_, (hin _).trans h.force, fun m hm => ?_, ?_⟩
  · rw [t.svcBegin_op c v (by omega), hv]
  · rw [t.svcBegin_reg c v (modReq_ne_modSvcStat c), h.req]
  · rw [State.modeBits_of_reg (t.svcBegin_reg c v (modActive_ne_modSvcStat c)), h.modes m hm]
  · rw [t.svcBegin_cl]

theorem State.svcBegin_runs (s : State) (c : Nat) (v : Service) : (s.svcBegin c v).runs = s.runs := by
  rw [s.svcBegin_frame c v]

/-- The runs of a cluster as DRAIN finds them. -/
theorem Stopped.hasCluster (h : Stopped c s t) : t.runs.filter (fun r => r.hasCluster c) = s.runs.filter (fun r => r.hasCluster c) := by
  rw [h.runs]

/-! DRAIN with CUT 0, or with no run (R419, R420). -/

theorem State.drainAt_eq (s : State) (cut : Bool) (d : Nat) : s.drainAt c cut d = if cut then (s.drainStopped c d).cutRuns c d
    else (s.drainStopped c d).svcBegin c { op := 1, dGrain := d, eGrain := if (s.drainStopped c d).runs.any (fun r => r.hasCluster c) then none else some d } :=
  rfl

theorem State.cutRuns_none (d : Nat) (h : s.runs.filter (fun r => r.hasCluster c) = []) :
    s.cutRuns c d = s.svcBegin c { op := 1, cut := true, dGrain := d, eGrain := some d } := by
  unfold State.cutRuns
  rw [h]
  rfl

/-! DRAIN with CUT 1 cuts the run that plays (R420). -/

theorem State.cutRuns_one (d : Nat) {r : Run} (h : s.runs.filter (fun r => r.hasCluster c) = [r]) (hstart : r.start.isSome = true) :
    s.cutRuns c d = ((s.endRun r.lowest codeViolation (some (s.lastTenonEnd c d - 1))).cutProduction c d (s.lastTenonEnd c d)).svcBegin c
      { op := 1, cut := true, dGrain := d, eGrain := some (s.lastTenonEnd c d) } := by
  have hdead : [r].filter (fun r => r.start.isNone) = [] := by
    obtain ⟨g, hg⟩ := Option.isSome_iff_exists.mp hstart
    rw [List.filter_cons, hg]
    rfl
  have hlive : [r].filter (fun r => r.start.isSome) = [r] := by
    rw [List.filter_cons, hstart]
    rfl
  unfold State.cutRuns
  rw [h]
  dsimp only
  rw [hdead, hlive, List.foldl_nil, List.isEmpty_cons, if_neg Bool.false_ne_true, List.foldl_cons, List.foldl_nil]

/-- A run that is to end with a code at a grain. -/
def toEnd (code : Nat) (a : Nat) (q : Run) : Run := { q with endCode := some code, endAt := some a }

theorem State.endRun_runs {r : Run} (code a : Nat) (hnone : r.endCode = none) (hrun : (s.eng r.lowest).run = some r.id)
    (hone : ∀ q ∈ s.runs, q.id = r.id → q = r) :
    (s.endRun r.lowest code (some a)).runs = s.runs.map (fun q => if q.id = r.id then toEnd code a q else q) ∧
    (s.endRun r.lowest code (some a)).regs = s.regs ∧ (s.endRun r.lowest code (some a)).force = s.force ∧
    (s.endRun r.lowest code (some a)).clusters = s.clusters := by
  unfold State.endRun
  rw [hrun]
  refine ⟨List.map_congr_left fun q hq => ?_, rfl, rfl, rfl⟩
  split
  · next hid =>
    obtain rfl := hone q hq hid
    dsimp only
    rw [hnone]
    rfl
  · rfl

theorem State.lastTenonEnd_le (s : State) (c d : Nat) : d ≤ s.lastTenonEnd c d :=
  List.foldlRecOn (motive := fun m => d ≤ m) _ _ (Nat.le_refl d) fun _ hm _ _ => Nat.le_trans hm (Nat.le_max_left ..)

theorem Stopped.lastTenonEnd (h : Stopped c s t) (d : Nat) : t.lastTenonEnd c d = s.lastTenonEnd c d := by
  have heng : t.eng = s.eng := funext fun e => congrArg (fun l => tget (fun _ => ({} : EngSt)) l e) h.engines
  have hrun : t.runOf = s.runOf := funext fun id => by
    unfold State.runOf
    rw [h.runs]
  have hplays : t.playing = s.playing := by
    unfold State.playing
    rw [heng, hrun]
  have hlive : ∀ lane, t.laneLive c d lane = s.laneLive c d lane := fun lane => by
    unfold State.laneLive
    rw [hplays, heng]
  have hcl := h.cls c
  have hmain : (t.cl c).curMain = (s.cl c).curMain := (congrArg ClSt.curMain hcl :)
  have hmortise : (t.cl c).mortise = (s.cl c).mortise := (congrArg ClSt.mortise hcl :)
  have hcur : (t.cl c).curShadow = (s.cl c).curShadow := (congrArg ClSt.curShadow hcl :)
  have hshadow : (t.cl c).shadow = (s.cl c).shadow := (congrArg ClSt.shadow hcl :)
  unfold State.lastTenonEnd
  rw [hlive, hlive]
  dsimp only
  rw [hmain, hmortise, hcur, hshadow]

/-- A cluster whose run is cut: the tenon in production is its last. -/
theorem Stopped.cut {a b : State} {v : Service} {x e : Nat} {l : List Run} (h : Stopped c s t) (hv : v.op = 1) (haruns : a.runs = l)
    (haregs : a.regs = t.regs) (haforce : a.force = t.force) (hb : b = (a.cutProduction c x e).svcBegin c v) :
    Drained c v s b ∧ b.runs = l ∧ (b.cl c).cutEnd = some e := by
  have hstopped : ModesStopped c s (a.cutProduction c x e) := h.toModesStopped.of_regs haregs haforce
  rw [hb]
  refine ⟨hstopped.begun hv, ?_, ?_⟩
  · rw [State.svcBegin_runs, ← haruns]
    rfl
  · rw [State.svcBegin_cl, State.cutProduction, State.updCl_cl]

/-! The command (R418-R421). -/

section

variable {port : PortNo} {c : ClNo} {cut : Bool} {g d : Nat}

theorem exec_drain_accepted (hreach : s.reaches (MOD_SVC_CMD c.val)) (hbusy : s.bit (MOD_SVC_STAT c.val) MOD_SVC_STAT_BUSY = false)
    (hdrained : s.bit (MOD_SVC_STAT c.val) MOD_SVC_STAT_DRAINED = false) :
    exec (.drain port c cut g) s = .next (s.drainMeets c.val cut g) := by
  have hacc : s.svcAccepts c.val 1 = true := State.svcAccepts_true hbusy (by rw [State.svcRequires, hdrained]; rfl)
  rw [exec_drain port c hreach cut g, State.svcIssue_accepted port.val _ hacc]

theorem drain_waits (hexec : exec (.drain port c cut g) s = .next (s.drainMeets c.val cut g)) {kind : CalKind} {start : Nat} {pass2 : Bool}
    (hint : (s.cl c.val).gauge.interruption = some (kind, start, pass2)) : ∃ t, exec (.drain port c cut g) s = .next t ∧
      t.bit (MOD_SVC_STAT c.val) MOD_SVC_STAT_BUSY = true ∧ t.fld (MOD_SVC_STAT c.val) MOD_SVC_STAT_OP = 1 ∧
      t.cl c.val = { s.cl c.val with svc := some { op := 1, cut := cut, waits := true, dGrain := start + calGrains kind } } ∧
      (∀ k, k ≠ c.val → t.cl k = s.cl k) ∧ t = { s with gt := max s.gt g, regs := t.regs, clusters := t.clusters } ∧
      s.regsKept t [ MOD_SVC_STAT c.val] := by
  unfold State.drainMeets at hexec
  rw [hint] at hexec
  exact ⟨_, hexec, State.svcBegin_busy _ _ _, State.svcBegin_op _ _ _ (show 1 < 8 by decide), State.svcBegin_cl _ _ _,
    fun k hk => State.svcBegin_cl_ne _ _ _ hk, State.svcBegin_frame _ _ _, State.svcBegin_regsKept (s.at g) _ _⟩

theorem drainMeets_free (hint : (s.cl c.val).gauge.interruption = none) : s.drainMeets c.val cut g = s.drainAt c.val cut g := by
  unfold State.drainMeets
  rw [hint]

end

/-! What becomes of the runs (R419, R420). -/

/-- From s to t the mode words and what is in force in pin time have stayed. -/
structure WordsKept (s t : State) : Prop where
  regs : ∀ a, modeReg a → t.reg a = s.reg a
  force : t.force = s.force

namespace WordsKept

theorem refl (s : State) : WordsKept s s := ⟨fun _ _ => rfl, rfl⟩

theorem trans (h : WordsKept s t) (k : WordsKept t u) : WordsKept s u :=
  ⟨fun a ha => (k.regs a ha).trans (h.regs a ha), k.force.trans h.force⟩

theorem foldl {α : Type} {f : State → α → State} (h : ∀ t x, WordsKept t (f t x)) (l : List α) (s : State) : WordsKept s (l.foldl f s) :=
  List.foldlRecOn (motive := WordsKept s) l f (refl s) fun t ht x _ => ht.trans (h t x)

theorem setFld (s : State) {a : Nat} (f : Fld) (v : Nat) (ha : ¬modeReg a) : WordsKept s (s.setFld a f v) :=
  ⟨(ModeAside.setFld s f v ha).regs, rfl⟩

theorem updEng (s : State) (e : Nat) (f : EngSt → EngSt) : WordsKept s (s.updEng e f) := ⟨fun _ _ => rfl, rfl⟩
theorem updCl (s : State) (c : Nat) (f : ClSt → ClSt) : WordsKept s (s.updCl c f) := ⟨fun _ _ => rfl, rfl⟩
theorem updFlow (s : State) (n : Nat) (f : FlowSt → FlowSt) : WordsKept s (s.updFlow n f) := ⟨fun _ _ => rfl, rfl⟩

theorem of_runs (h : ∃ r, t = { s with runs := r }) : WordsKept s t := by
  obtain ⟨r, rfl⟩ := h
  exact ⟨fun _ _ => rfl, rfl⟩

end WordsKept

theorem engStat_notMode (e : Nat) : ¬modeReg (engStat e) := by
  simp only [modeReg, engStat, ENG_STAT, rgBlk, clBlk, engCl]
  omega

theorem State.releaseRun_words (s : State) (r : Run) : WordsKept s (s.releaseRun r) := by
  have hvec : ∀ k, ¬modeReg (MEM_VEC_RESV k) ∧ ¬modeReg (MEM_RBUS_RESV k) := fun k => by
    simp only [modeReg, MEM_VEC_RESV, MEM_RBUS_RESV, rgBlk]
    omega
  have hbus : ¬modeReg SYS_PBUS_RESV := fun h => absurd h.1 (by decide)
  unfold State.releaseRun
  exact (WordsKept.foldl (fun t k => (WordsKept.setFld t _ _ (hvec k).1).trans (WordsKept.setFld _ _ _ (hvec k).2)) _ s).trans
    (WordsKept.setFld _ _ _ hbus)

theorem State.leaveRun_words (s : State) (e : Nat) : WordsKept s (s.leaveRun e) := by
  have hstat := engStat_notMode e
  unfold State.leaveRun
  exact (((WordsKept.updEng s e _).trans (WordsKept.setFld _ _ _ hstat)).trans (WordsKept.setFld _ _ _ hstat)).trans
    (WordsKept.setFld _ _ _ hstat)

theorem State.refuseRun_words (s : State) (r : Run) (code : Nat) : WordsKept s (s.refuseRun r code) := by
  have hleave : ∀ t : State, ∀ e, WordsKept t ((t.endCode e code).leaveRun e) := fun t e =>
    (WordsKept.setFld t _ _ (engStat_notMode e)).trans (State.leaveRun_words _ e)
  have hleft := (s.releaseRun_words r).trans (WordsKept.foldl hleave r.engines _)
  have hfill := fun t : State => WordsKept.foldl (fun t c => WordsKept.updCl t c (fun x => { x with
    fill := x.fill.filter (fun y => y.1 != r.id), fillShadow := x.fillShadow.filter (fun y => y.1 != r.id) })) r.clusters t
  have hruns := fun t : State => WordsKept.of_runs (s := t) ⟨t.runs.filter (fun x => x.id != r.id), rfl⟩
  have hout := (hleft.trans (hfill _)).trans (hruns _)
  unfold State.refuseRun
  split
  · exact hout.trans (WordsKept.updFlow _ _ _)
  · exact hout

theorem ModesStopped.words (h : ModesStopped c s t) (hc : c < 64) (k : WordsKept t u) : ModesStopped c s u where
  modes m hm := (State.modeBits_of_reg (k.regs _ (modeReg_modActive hc)) m).trans (h.modes m hm)
  req := (k.regs _ (modeReg_modReq hc)).trans h.req
  force := (congrArg (fun l => tget regReset l (MOD_REQ c)) k.force).trans h.force

/-- DRAIN with CUT 1 shows its command, whatever runs it meets. -/
theorem ModesStopped.cutRuns (h : ModesStopped c s t) (hc : c < 64) (d : Nat) : ∃ v, Drained c v s (t.cutRuns c d) := by
  have hdead := h.words hc (WordsKept.foldl (fun t r => t.refuseRun_words r codeViolation)
    ((t.runs.filter (fun r => r.hasCluster c)).filter (fun r => r.start.isNone)) t)
  unfold State.cutRuns
  dsimp only
  split
  · exact ⟨_, hdead.begun rfl⟩
  · exact ⟨_, ((hdead.words hc (WordsKept.foldl (fun t (r : Run) => WordsKept.of_runs (t.endRun_runsOnly r.lowest codeViolation _)) _ _)).words hc
      (WordsKept.updCl _ c _)).begun rfl⟩

section

variable {c : ClNo} {cut : Bool} {d : Nat}

/-- DRAIN at its boundary, whatever becomes of the runs. -/
theorem State.drainAt_drained (s : State) (c : ClNo) (cut : Bool) (d : Nat) : ∃ v, Drained c.val v s (s.drainAt c.val cut d) := by
  have hst := (s.drainStopped_stopped c.isLt d).toModesStopped
  rw [State.drainAt_eq]
  split
  · exact hst.cutRuns c.isLt d
  · exact ⟨_, hst.begun rfl⟩

theorem drain_uncut (hcut : cut = false) : (s.drainAt c.val cut d).runs = s.runs ∧ ((s.drainAt c.val cut d).cl c.val).svc =
    some (if s.runs.any (fun r => r.hasCluster c.val) then { op := 1, dGrain := d } else { op := 1, dGrain := d, eGrain := some d }) := by
  have hst := s.drainStopped_stopped c.isLt d
  rw [State.drainAt_eq, hcut, if_neg Bool.false_ne_true, State.svcBegin_runs, State.svcBegin_cl, Run.any_of_runs hst.runs]
  refine ⟨hst.runs, congrArg some ?_⟩
  split <;> rfl

theorem drain_cut_none (hcut : cut = true) (hnone : s.runs.filter (fun r => r.hasCluster c.val) = []) :
    (s.drainAt c.val cut d).runs = s.runs ∧ ((s.drainAt c.val cut d).cl c.val).svc =
      some { op := 1, cut := true, dGrain := d, eGrain := some d } := by
  have hst := s.drainStopped_stopped c.isLt d
  rw [State.drainAt_eq, hcut, if_pos rfl, State.cutRuns_none d (hst.hasCluster.trans hnone), State.svcBegin_runs, State.svcBegin_cl]
  exact ⟨hst.runs, rfl⟩

theorem drain_cut_one {r : Run} (hcut : cut = true) (hone : s.runs.filter (fun r => r.hasCluster c.val) = [r])
    (hstart : r.start.isSome = true) (hcode : r.endCode = none) (hrun : (s.eng r.lowest).run = some r.id)
    (huniq : ∀ q ∈ s.runs, q.id = r.id → q = r) :
    (s.drainAt c.val cut d).runs = s.runs.map (fun q => if q.id = r.id then toEnd codeViolation (s.lastTenonEnd c.val d - 1) q else q) ∧
    ((s.drainAt c.val cut d).cl c.val).svc = some { op := 1, cut := true, dGrain := d, eGrain := some (s.lastTenonEnd c.val d) } ∧
    ((s.drainAt c.val cut d).cl c.val).cutEnd = some (s.lastTenonEnd c.val d) := by
  have hst := s.drainStopped_stopped c.isLt d
  have heng : (s.drainStopped c.val d).eng r.lowest = s.eng r.lowest :=
    congrArg (fun l => tget (fun _ => ({} : EngSt)) l r.lowest) hst.engines
  have hlast := hst.lastTenonEnd d
  have hfilter := hst.hasCluster.trans hone
  rw [State.drainAt_eq, hcut, if_pos rfl, State.cutRuns_one d hfilter hstart, hlast]
  obtain ⟨hruns, hregs, hforce, -⟩ := State.endRun_runs codeViolation (s.lastTenonEnd c.val d - 1) hcode (heng ▸ hrun)
    (hst.runs ▸ huniq)
  obtain ⟨hd, hl, hcutEnd⟩ := hst.cut (v := { op := 1, cut := true, dGrain := d, eGrain := some (s.lastTenonEnd c.val d) })
    rfl hruns hregs hforce rfl
  exact ⟨hl.trans (by rw [hst.runs]), hd.svc, hcutEnd⟩

end

/-! The run ends at E, and the cluster is drained (R420, R421). -/

section

variable {c : ClNo} {g : Nat} {v : Service}

/-- The run ends at grain g when it is due. -/
def State.endDue (g : Nat) (t : State) (r : Run) : State :=
  match t.endsAt r g with
  | some code => t.finishRun r code g
  | none => t

theorem exec_drainEnd (hsvc : (s.cl c.val).svc = some v) (hop : v.op = 1 ∧ v.cut = true ∧ v.eGrain = some g) :
    exec (.drainEnd c g) s = .next ((s.runs.filter (fun r => r.hasCluster c.val && r.start.isSome)).foldl (State.endDue g) s) := by
  have harm : exec (.drainEnd c g) s = execDrainEnd c g s := rfl
  rw [harm, execDrainEnd, hsvc]
  dsimp only
  rw [if_pos hop]
  rfl

theorem State.endsAt_of_endAt {r : Run} {code a : Nat} (hcode : r.endCode = some code) (hend : r.endAt = some a)
    (hg : boundaryAfter a = g) (hhalt : s.allHalted r = none) : s.endsAt r g = some code := by
  unfold State.endsAt
  rw [hcode, hhalt, hend]
  dsimp only
  rw [if_pos hg.symm]

theorem drainEnd_ends {r : Run} {a : Nat} (hsvc : (s.cl c.val).svc = some v) (hop : v.op = 1 ∧ v.cut = true ∧ v.eGrain = some g)
    (hone : s.runs.filter (fun r => r.hasCluster c.val && r.start.isSome) = [r]) (hcode : r.endCode = some codeViolation)
    (hend : r.endAt = some a) (hg : boundaryAfter a = g) (hhalt : s.allHalted r = none) :
    exec (.drainEnd c g) s = .next (s.finishRun r codeViolation g) := by
  rw [exec_drainEnd hsvc hop, hone, List.foldl_cons, List.foldl_nil, State.endDue, State.endsAt_of_endAt hcode hend hg hhalt]

/-- DRAINED as the end of the command shows it (R421). -/
def State.drainedAt (s : State) (c e : Nat) : State :=
  ((s.setPair (MOD_DRAIN_GT_LO c) (MOD_DRAIN_GT_HI c) (e % 2 ^ 64)).setBit (MOD_SVC_STAT c) MOD_SVC_STAT_DRAINED true).svcEnd c true codeOk

theorem modDrainGt_ne (c : Nat) : MOD_DRAIN_GT_LO c ≠ MOD_DRAIN_GT_HI c ∧ MOD_DRAIN_GT_LO c ≠ MOD_SVC_STAT c ∧
    MOD_DRAIN_GT_HI c ≠ MOD_SVC_STAT c := by
  simp only [ MOD_DRAIN_GT_LO, MOD_DRAIN_GT_HI, MOD_SVC_STAT]
  omega

/-- R421: what the last step of DRAIN shows. -/
structure DrainDone (c e : Nat) (s t : State) : Prop where
  drained : t.bit (MOD_SVC_STAT c) MOD_SVC_STAT_DRAINED = true
  busy : t.bit (MOD_SVC_STAT c) MOD_SVC_STAT_BUSY = false
  done : t.bit (MOD_SVC_STAT c) MOD_SVC_STAT_DONE = true
  code : t.fld (MOD_SVC_STAT c) MOD_SVC_STAT_CODE = codeOk
  pair : t.pair (MOD_DRAIN_GT_LO c) (MOD_DRAIN_GT_HI c) = e % 2 ^ 64
  cl : t.cl c = { s.cl c with svc := none }
  others : ∀ k, k ≠ c → t.cl k = s.cl k
  frame : t = { s with regs := t.regs, clusters := t.clusters }
  kept : s.regsKept t [ MOD_SVC_STAT c, MOD_DRAIN_GT_LO c, MOD_DRAIN_GT_HI c]

theorem State.svcEnd_cl (s : State) (c : Nat) (good : Bool) (code : Nat) : (s.svcEnd c good code).cl c = { s.cl c with svc := none } := by
  obtain ⟨-, -, -, -, -, hregs, -⟩ := s.svcShown_reads (MOD_SVC_STAT c) good code rfl
  obtain ⟨regs, ht⟩ : ∃ r, ((s.setBit (MOD_SVC_STAT c) MOD_SVC_STAT_BUSY false).setFld (MOD_SVC_STAT c) MOD_SVC_STAT_CODE code).setBit
    (MOD_SVC_STAT c) (if good then MOD_SVC_STAT_DONE else MOD_SVC_STAT_FAILED) true = { s with regs := r } := ⟨_, hregs⟩
  unfold State.svcEnd
  dsimp only
  rw [ht, State.updCl_cl]
  rfl

theorem DrainDone.of_stages {c e : Nat} {s a b t : State} (ha : a = s.setPair (MOD_DRAIN_GT_LO c) (MOD_DRAIN_GT_HI c) (e % 2 ^ 64))
    (hb : b = a.setBit (MOD_SVC_STAT c) MOD_SVC_STAT_DRAINED true) (ht : t = b.svcEnd c true codeOk) : DrainDone c e s t := by
  obtain ⟨hlohi, hlo, hhi⟩ := modDrainGt_ne c
  have hend : SvcEnded c true codeOk b t := ht ▸ b.svcEnd_ended c true codeOk
  have hpair : a.pair (MOD_DRAIN_GT_LO c) (MOD_DRAIN_GT_HI c) = e % 2 ^ 64 := ha ▸ s.setPair_pair hlohi (Nat.mod_lt _ (by decide))
  have hregs : s.regsOnly b := by
    rw [hb, ha]
    exact State.regsOnly_trans (s.setPair_regsOnly _ _ _) (State.setBit_regsOnly _ _ _ _)
  have hbit : ∀ x, x ≠ MOD_SVC_STAT c → b.reg x = a.reg x := fun x hx => hb ▸ State.setFld_reg_ne _ _ _ _ _ hx
  have hkept : s.regsKept b [ MOD_SVC_STAT c, MOD_DRAIN_GT_LO c, MOD_DRAIN_GT_HI c] := fun x hx => by
    simp only [List.mem_cons, List.not_mem_nil, or_false, not_or] at hx
    obtain ⟨hstat, hxlo, hxhi⟩ := hx
    rw [hbit x hstat, ha, State.setPair, State.setReg_reg_ne _ _ _ _ hxhi, State.setReg_reg_ne _ _ _ _ hxlo]
  have hcls : b.clusters = s.clusters := by
    obtain ⟨r, hr⟩ : ∃ r, b = { s with regs := r } := ⟨_, hregs⟩
    rw [hr]
  have hcl : ∀ k, b.cl k = s.cl k := fun k => congrArg (fun l => tget (fun _ => ({} : ClSt)) l k) hcls
  obtain ⟨hframe, hafter⟩ := hend.after hregs hkept
  refine ⟨?_, hend.busy, hend.done, hend.code, ?_, ?_, fun k hk => (hend.others k hk).trans (hcl k), hframe, fun x hx => hafter x ?_⟩
  · rw [hend.drained, hb, State.setBit_bit _ _ _ _ rfl (by decide)]
  · rw [← hpair, State.pair, State.pair, hend.keeps hlo, hend.keeps hhi, hbit _ hlo, hbit _ hhi]
  · rw [ht, b.svcEnd_cl, hcl]
  · simpa using hx

theorem State.drainedAt_done (s : State) (c e : Nat) : DrainDone c e s (s.drainedAt c e) := DrainDone.of_stages rfl rfl rfl

theorem exec_drained (hsvc : (s.cl c.val).svc = some v) : exec (.drained c) s =
    if v.op = 1 ∧ v.waits = false ∧ (clEngines c.val).all (fun k => (s.eng k).run.isNone) = true ∧ v.eGrain.getD v.dGrain ≤ s.gt then
      .next (s.drainedAt c.val (v.eGrain.getD v.dGrain))
    else .next s := by
  have harm : exec (.drained c) s = execDrained c s := rfl
  rw [harm, execDrained, hsvc]
  rfl

theorem exec_drained_done {e : Nat} (hsvc : (s.cl c.val).svc = some v) (hop : v.op = 1) (hwaits : v.waits = false)
    (he : e = v.eGrain.getD v.dGrain) (hgt : e ≤ s.gt) (hfree : ∀ k ∈ clEngines c.val, (s.eng k).run = none) :
    exec (.drained c) s = .next (s.drainedAt c.val e) := by
  have hall : (clEngines c.val).all (fun k => (s.eng k).run.isNone) = true :=
    List.all_eq_true.mpr fun k hk => Option.isNone_iff_eq_none.mpr (hfree k hk)
  rw [exec_drained hsvc, ← he, if_pos ⟨hop, hwaits, hall, hgt⟩]

theorem exec_drained_waits {e : Nat} (hsvc : (s.cl c.val).svc = some v) (he : e = v.eGrain.getD v.dGrain)
    (h : s.gt < e ∨ ∃ k ∈ clEngines c.val, (s.eng k).run ≠ none) : exec (.drained c) s = .next s := by
  rw [exec_drained hsvc, ← he, if_neg]
  rintro ⟨-, -, hall, hgt⟩
  rcases h with hlt | ⟨k, hk, hrun⟩
  · exact absurd hgt (Nat.not_le.mpr hlt)
  · exact hrun (Option.isNone_iff_eq_none.mp (List.all_eq_true.mp hall k hk))

end

/-- Settles O53: the modes by `State.drainStopped_stopped`, the runs by `drain_uncut`, `drain_cut_none` and `drain_cut_one`, the end by
`drainEnd_ends` and `State.drainedAt_done`. -/
theorem drainsStopAndCut : Obligations.DrainsStopAndCut := by
  unfold Obligations.DrainsStopAndCut
  intro port c cut g d s
  refine ⟨fun hreach hbusy hdrained kind start pass2 hint => drain_waits (exec_drain_accepted hreach hbusy hdrained) hint,
    fun hreach hbusy hdrained hint hd => ?_, fun v hsvc hop hcut he => ⟨fun hnone => ?_, fun r a hone hcode hend hg hhalt =>
      drainEnd_ends hsvc ⟨hop, hcut, he⟩ hone hcode hend hg hhalt⟩, fun v e hsvc hop hwaits he => ⟨fun hgt hfree => ?_,
      exec_drained_waits hsvc he⟩⟩
  · subst hd
    obtain ⟨v, hdrain⟩ := s.drainAt_drained c cut d
    have hexec := exec_drain_accepted (port := port) (cut := cut) (g := d) hreach hbusy hdrained
    rw [drainMeets_free hint] at hexec
    refine ⟨_, hexec, hdrain.busy, hdrain.op, hdrain.req, hdrain.force, fun m hm => ?_, drain_uncut, drain_cut_none,
      fun r hcut hone hstart hcode hrun huniq => ?_⟩
    · exact Prod.mk.inj (hdrain.modes m hm)
    · obtain ⟨hruns, hsvc, hend⟩ := drain_cut_one hcut hone hstart hcode hrun huniq
      exact ⟨hruns, hsvc, hend, s.lastTenonEnd_le c.val d⟩
  · rw [exec_drainEnd hsvc ⟨hop, hcut, he⟩, hnone, List.foldl_nil]
  · obtain ⟨hdrained, hbusy, hdone, hcode, hpair, hcl, hothers, hframe, hkept⟩ := s.drainedAt_done c.val e
    exact ⟨_, exec_drained_done hsvc hop hwaits he hgt hfree, hdrained, hbusy, hdone, hcode, hpair, hcl, hothers, hframe, hkept⟩

end Sys2Proof.Machine
end

section
/-! O7. Boot loads the sections in order, falls back to the other bank, or fails (R434, R436-R438). -/

namespace Sys2Proof.Machine

/-! Phase 7 begins (Table 16-5). -/

/-- A cluster enters CALIBRATE and is asked for both calibrations. -/
def State.bootAsked (s : State) (c : Nat) : State :=
  (((s.updCl c (fun x => { x with gauge := { x.gauge with endedT := 0, endedDc := 0 } })).modReqNow c 0x10).setBit (CAL_CTRL c)
    CAL_CTRL_REQ_DC true).setBit (CAL_CTRL c) CAL_CTRL_REQ_T true

/-- Both calibrations of a cluster are asked for. -/
def State.bootAsks (s : State) (c : Nat) : Bool × Bool := (s.bit (CAL_CTRL c) CAL_CTRL_REQ_DC, s.bit (CAL_CTRL c) CAL_CTRL_REQ_T)

theorem State.bootAsks_of_reg {s t : State} {c : Nat} (h : t.reg (CAL_CTRL c) = s.reg (CAL_CTRL c)) : t.bootAsks c = s.bootAsks c := by
  unfold State.bootAsks
  rw [State.bit_of_reg _ h, State.bit_of_reg _ h]

theorem State.bootAsked_boot (s : State) (c : Nat) : (s.bootAsked c).boot = s.boot := by
  unfold State.bootAsked
  rw [State.setBit_boot, State.setBit_boot, State.modReqNow_frame, State.updCl_boot]

theorem State.bootAsked_own (s : State) (c : Nat) : (s.bootAsked c).bootAsks c = (true, true) := by
  unfold State.bootAsks State.bootAsked
  rw [State.setBit_bit_apart _ _ _ _ _ (by decide), State.setBit_bit _ _ _ _ rfl (by decide), State.setBit_bit _ _ _ _ rfl (by decide)]

theorem State.bootAsked_other (s : State) {c k : Nat} (h : k ≠ c) : (s.bootAsked k).bootAsks c = s.bootAsks c := by
  obtain ⟨hcal, hreq⟩ : CAL_CTRL c ≠ CAL_CTRL k ∧ CAL_CTRL c ≠ MOD_REQ k := by
    simp only [ CAL_CTRL, MOD_REQ, clBlk]
    omega
  refine State.bootAsks_of_reg ?_
  unfold State.bootAsked
  rw [State.setBit_reg_ne _ _ _ _ _ hcal, State.setBit_reg_ne _ _ _ _ _ hcal, State.modReqNow_reg_ne _ _ _ hreq, State.updCl_reg]

theorem State.bootCalibrate_eq (s : State) : s.bootCalibrate =
    ((List.range 64).foldl State.bootAsked s).updBoot (fun b => { b with phase := 7 }) := rfl

theorem State.bootCalibrate_asks (s : State) : s.bootCalibrate.boot = { s.boot with phase := 7 } ∧
    ∀ c, c < 64 → s.bootCalibrate.bootAsks c = (true, true) := by
  rw [State.bootCalibrate_eq]
  refine ⟨?_, fun c hc => ?_⟩
  · rw [State.updBoot_boot, foldl_obs State.bootAsked State.boot State.bootAsked_boot]
  · rw [State.bootAsks_of_reg (State.updBoot_reg _ _ _)]
    exact foldl_set_mem State.bootAsked (fun t => t.bootAsks c) c (true, true) (fun t => t.bootAsked_own c) _
      (fun k _ hk t => t.bootAsked_other hk) s (List.mem_range.mpr hc)

/-! What a section load does. -/

section

variable {e : Bool} {f : List Nat} {s u : State} (hphase : 3 ≤ s.boot.phase ∧ s.boot.phase ≤ 5)
include hphase

/-- A load that fails, with the cause that BOOT_STAT is to show. -/
theorem exec_bootSectionLoad_fails {cause : Nat} (h : (e = true ∧ cause = 4) ∨
    (e = false ∧ s.secGood s.boot.bank s.boot.section_ = false ∧ cause = 2) ∨
    (e = false ∧ s.secGood s.boot.bank s.boot.section_ = true ∧ ¬(s.boot.section_ = 5 ∧ s.fetchWaits s.boot.bank = true) ∧
      s.loadSection s.boot.bank s.boot.section_ f = none ∧ cause = 3)) :
    exec (.bootSectionLoad e f) s = .next (s.loadFailed s.boot.section_ cause) := by
  have harm : exec (.bootSectionLoad e f) s = execBootSectionLoad e f s := rfl
  rw [harm, execBootSectionLoad]
  dsimp only
  rw [if_pos hphase]
  rcases h with ⟨rfl, rfl⟩ | ⟨rfl, hbad, rfl⟩ | ⟨rfl, hgood, hready, hnone, rfl⟩
  · rw [if_pos rfl]
  · rw [if_neg Bool.false_ne_true, if_pos hbad]
  · rw [if_neg Bool.false_ne_true, hgood, if_neg Bool.false_ne_true.symm, if_neg hready, hnone]

theorem exec_bootSectionLoad_waits (he : e = false) (hgood : s.secGood s.boot.bank s.boot.section_ = true)
    (hwaits : s.boot.section_ = 5 ∧ s.fetchWaits s.boot.bank = true) : exec (.bootSectionLoad e f) s = .next s := by
  have harm : exec (.bootSectionLoad e f) s = execBootSectionLoad e f s := rfl
  rw [harm, execBootSectionLoad]
  dsimp only
  rw [if_pos hphase, he, if_neg Bool.false_ne_true, hgood, if_neg Bool.false_ne_true.symm, if_pos hwaits]

omit hphase in
/-- Boot goes on after section n. -/
def State.bootNext (u : State) (n : Nat) : State :=
  u.updBoot (fun b => { b with section_ := (nextSection n).1, phase := (nextSection n).2 })

theorem exec_bootSectionLoad_loads (he : e = false) (hgood : s.secGood s.boot.bank s.boot.section_ = true)
    (hready : ¬(s.boot.section_ = 5 ∧ s.fetchWaits s.boot.bank = true)) (hload : s.loadSection s.boot.bank s.boot.section_ f = some u) :
    exec (.bootSectionLoad e f) s = .next (if (nextSection s.boot.section_).2 = 6 ∧ u.bit SYS_REF_CTRL SYS_REF_CTRL_LOCKED = true then
      (u.bootNext s.boot.section_).bootCalibrate else u.bootNext s.boot.section_) := by
  have harm : exec (.bootSectionLoad e f) s = execBootSectionLoad e f s := rfl
  rw [harm, execBootSectionLoad]
  dsimp only
  rw [if_pos hphase, he, if_neg Bool.false_ne_true, hgood, if_neg Bool.false_ne_true.symm, if_neg hready, hload]
  rfl

end

/-- How boot goes on after a section that has loaded. -/
structure BootGoesOn (n : Nat) (u t : State) : Prop where
  next : t.boot.section_ = (nextSection n).1
  load : ((nextSection n).2 ≠ 6 ∨ u.bit SYS_REF_CTRL SYS_REF_CTRL_LOCKED = false) → t = u.bootNext n
  calibrate : (nextSection n).2 = 6 → u.bit SYS_REF_CTRL SYS_REF_CTRL_LOCKED = true → t.boot.phase = 7 ∧
    ∀ c, c < 64 → t.bit (CAL_CTRL c) CAL_CTRL_REQ_DC = true ∧ t.bit (CAL_CTRL c) CAL_CTRL_REQ_T = true

theorem BootGoesOn.of_next (u : State) (n : Nat) : BootGoesOn n u
    (if (nextSection n).2 = 6 ∧ u.bit SYS_REF_CTRL SYS_REF_CTRL_LOCKED = true then (u.bootNext n).bootCalibrate else u.bootNext n) := by
  split
  · next h =>
    obtain ⟨hboot, hcal⟩ := (u.bootNext n).bootCalibrate_asks
    refine ⟨by rw [hboot]; rfl, fun k => ?_, fun _ _ => ⟨by rw [hboot], fun c hc => Prod.mk.inj (hcal c hc)⟩⟩
    rcases k with k | k
    · exact absurd h.1 k
    · exact absurd (k.symm.trans h.2) Bool.false_ne_true
  · next h => exact ⟨rfl, fun _ => rfl, fun h6 hl => absurd ⟨h6, hl⟩ h⟩

theorem BootGoesOn.phase {n : Nat} {u t : State} (h : BootGoesOn n u t) : t.boot.phase = (nextSection n).2 ∨
    ((nextSection n).2 = 6 ∧ t.boot.phase = 7) := by
  by_cases hl : (nextSection n).2 ≠ 6 ∨ u.bit SYS_REF_CTRL SYS_REF_CTRL_LOCKED = false
  · refine .inl ?_
    rw [h.load hl]
    rfl
  · obtain ⟨h6, hlock⟩ := not_or.mp hl
    exact .inr ⟨not_not.mp h6, (h.calibrate (not_not.mp h6) (Bool.not_eq_false _ ▸ hlock)).1⟩

/-! Sections that always load (R436). -/

theorem State.records_absent {s : State} {b n : Nat} (h : s.secHas b n = false) : s.records b n = some [] := by
  unfold State.records
  rw [h]
  rfl

theorem State.fetchWaits_absent {s : State} {b : Nat} (h : s.secHas b 5 = false) : s.fetchWaits b = false := by
  unfold State.fetchWaits
  rw [State.records_absent h]
  exact Bool.and_false _

/-- FLOW and SEGMENT that are absent load nothing. -/
theorem State.loadSection_absent {s : State} {b n : Nat} (hn : n = 4 ∨ n = 6) (f : List Nat) (h : s.secHas b n = false) :
    s.loadSection b n f = some s := by
  rcases hn with rfl | rfl <;>
  · unfold State.loadSection
    rw [State.records_absent h]
    rfl

theorem State.loadSection_some {s : State} {b n : Nat} (f : List Nat)
    (h : n ∈ [1, 2, 3, 7, 8, 9] ∨ (n ∈ [4, 5, 6] ∧ s.secHas b n = false)) : ∃ u, s.loadSection b n f = some u := by
  rcases h with h | ⟨h, habs⟩
  · simp only [List.mem_cons, List.not_mem_nil, or_false] at h
    rcases h with rfl | rfl | rfl | rfl | rfl | rfl <;> exact ⟨_, rfl⟩
  · simp only [List.mem_cons, List.not_mem_nil, or_false] at h
    rcases h with rfl | rfl | rfl
    · exact ⟨_, State.loadSection_absent (.inl rfl) f habs⟩
    · unfold State.loadSection
      rw [State.records_absent habs]
      exact ⟨_, rfl⟩
    · exact ⟨_, State.loadSection_absent (.inr rfl) f habs⟩

theorem nextSection_last {n : Nat} (hn : n ≤ 9) (h : (nextSection n).2 = 6) : n = 9 := by
  have hall : ∀ n, n ≤ 9 → (nextSection n).2 = 6 → n = 9 := by decide
  exact hall n hn h

/-! A load that fails (R434). -/

/-- Everything but the boot controller and the flash has been reset; a fence stands. -/
def State.afresh (s : State) : State := (s.packageReset.takeBoot s).keepFences s

theorem State.loadFailed_eq (s : State) (sect cause : Nat) : s.loadFailed sect cause =
    if s.afresh.headerValid (otherBank s.boot.bank) && !s.boot.tried.contains (otherBank s.boot.bank) then
      (s.afresh.setBit BOOT_STAT BOOT_STAT_FALLBACK true).bootBank (otherBank s.boot.bank)
    else s.afresh.bootFailed sect cause := rfl

theorem State.keepFence_frame (v s : State) (r : Nat) (f : RgSt → RgSt) :
    ∃ rg ps, (if (s.rg r).safe then (regionPins r).foldl (fun v p => v.safeHold p s.gt) (v.updRg r f) else v.updRg r f) =
      { v with regions := rg, pins := ps } := by
  obtain ⟨ps, hps⟩ := State.safeHolds_pinsOnly s.gt (regionPins r) (v.updRg r f)
  split
  · exact ⟨_, ps, hps⟩
  · exact ⟨_, v.pins, rfl⟩

theorem State.keepFences_frame (t s : State) : ∃ rg ps, t.keepFences s = { t with regions := rg, pins := ps } := by
  unfold State.keepFences
  refine List.foldlRecOn (motive := fun u : State => ∃ rg ps, u = { t with regions := rg, pins := ps }) _ _ ⟨t.regions, t.pins, rfl⟩ ?_
  rintro u ⟨rg, ps, rfl⟩ r -
  obtain ⟨rg', ps', h⟩ := State.keepFence_frame { t with regions := rg, pins := ps } s r
    (fun x => { x with fenced := true, safe := (s.rg r).safe, safeDue := (s.rg r).safeDue })
  exact ⟨rg', ps', h⟩

/-- What a failed load finds after the reset. -/
structure Afresh (s t : State) : Prop where
  flash : t.flash = s.flash
  fuses : t.fuses = s.fuses
  mem : t.mem = []
  stores : t.stores = []
  regs : ∀ a, a < hubBlk 3 ∨ hubBlk 4 ≤ a → t.reg a = regReset a

theorem Afresh.of_stages {s a b t : State} (ha : ∃ rg, a = { State.reset with
      pending := s.pending, gt := s.gt64, free := s.free + 1, outs := s.outs, flash := s.flash, fuses := s.fusesLeft,
      resetN := s.resetN, tamperN := s.tamperN, boot := { phase := if s.resetN then 1 else 0 }, regions := rg })
    (hb : b = a.takeBoot s) (ht : ∃ rg ps, t = { b with regions := rg, pins := ps }) : Afresh s t := by
  obtain ⟨rg, rfl⟩ := ha
  obtain ⟨rg', ps, rfl⟩ := ht
  subst hb
  refine ⟨rfl, rfl, rfl, rfl, fun a h => ?_⟩
  refine (tget_filter regReset (fun x => decide (hubBlk 3 ≤ x) && decide (x < hubBlk 4)) s.regs a).trans (if_neg fun k => ?_)
  obtain ⟨hlo, hhi⟩ := (Bool.and_eq_true _ _).mp k
  rcases h with h | h
  · exact absurd (of_decide_eq_true hlo) (Nat.not_le.mpr h)
  · exact absurd (of_decide_eq_true hhi) (Nat.not_lt.mpr h)

theorem State.afresh_afresh (s : State) : Afresh s s.afresh :=
  Afresh.of_stages s.packageReset_eq rfl (State.keepFences_frame _ s)

/-- A header is read from the flash alone. -/
theorem State.headerValid_of_flash {s t : State} (h : t.flash = s.flash) (b : Nat) : t.headerValid b = s.headerValid b := by
  have hbytes : t.flashBytes = s.flashBytes := funext fun a => funext fun n => by
    unfold State.flashBytes
    rw [h]
  have hnat : t.flashNat = s.flashNat := funext fun a => funext fun n => congrArg ofLe (congrFun (congrFun hbytes a) n)
  have hlen : t.secLen = s.secLen := funext fun b => funext fun n => congrFun (congrFun hnat _) 8
  have hoff : t.secOff = s.secOff := funext fun b => funext fun n => congrFun (congrFun hnat _) 8
  have hhas : t.secHas = s.secHas := funext fun b => funext fun n => congrArg (fun g : Nat → Nat → Nat => g b n != 0) hlen
  unfold State.headerValid State.secsInOrder
  rw [hbytes, hnat, hlen, hoff, hhas]

theorem bootStat_in : hubBlk 3 ≤ BOOT_STAT ∧ BOOT_STAT < hubBlk 4 ∧ hubBlk 3 ≤ BOOT_GEN ∧ BOOT_GEN < hubBlk 4 := by decide

/-- A register outside the boot controller's block is none of those that boot shows itself in. -/
theorem ne_bootStat {a : Nat} (h : a < hubBlk 3 ∨ hubBlk 4 ≤ a) : a ≠ BOOT_STAT ∧ a ≠ BOOT_GEN := by
  obtain ⟨h1, h2, h3, h4⟩ := bootStat_in
  omega

theorem Afresh.fallBack {s t : State} {o : Nat} (h : Afresh s t) (ho : o < 2) {v : State} (hv : v = t.setBit BOOT_STAT BOOT_STAT_FALLBACK true) :
    (v.bootBank o).bit BOOT_STAT BOOT_STAT_FALLBACK = true ∧ (v.bootBank o).boot.phase = 3 ∧ (v.bootBank o).boot.bank = o ∧
    (v.bootBank o).fld BOOT_STAT BOOT_STAT_ACTIVE_BANK = o ∧ (v.bootBank o).mem = [] ∧ (v.bootBank o).stores = [] ∧
    (v.bootBank o).flash = s.flash ∧ (v.bootBank o).fuses = s.fuses ∧
    (∀ a, a < hubBlk 3 ∨ hubBlk 4 ≤ a → (v.bootBank o).reg a = regReset a) := by
  obtain ⟨hflash, hfuses, hmem, hstores, hregs⟩ := h
  obtain ⟨r, hr⟩ : ∃ r, v = { t with regs := r } := ⟨_, hv ▸ t.setBit_regsOnly _ _ _⟩
  obtain ⟨r', b, hframe⟩ : ∃ r' b, v.bootBank o = { v with regs := r', boot := b } := ⟨_, _, v.bootBank_frame o⟩
  refine ⟨?_, ?_, ?_, v.bootBank_active o ho, ?_, ?_, ?_, ?_, fun a ha => ?_⟩
  · rw [State.bit, v.bootBank_others o (by decide) (by decide), hv]
    exact State.setBit_bit t BOOT_STAT _ true rfl (by decide)
  · rw [v.bootBank_boot]
  · rw [v.bootBank_boot]
  · rw [hframe, hr, ← hmem]
  · rw [hframe, hr, ← hstores]
  · rw [hframe, hr, ← hflash]
  · rw [hframe, hr, ← hfuses]
  · obtain ⟨hstat, hgen⟩ := ne_bootStat ha
    rw [v.bootBank_regsKept o a (by simp [hstat, hgen]), hv, State.setBit_reg_ne _ _ _ _ _ hstat, hregs a ha]

theorem Afresh.fails {s t : State} {sect cause : Nat} (h : Afresh s t) (hsect : sect ≤ 9) (hcause : cause ≤ 4) :
    (t.bootFailed sect cause).bit BOOT_STAT BOOT_STAT_FAILED = true ∧ (t.bootFailed sect cause).bit BOOT_STAT BOOT_STAT_BOOTING = false ∧
    (t.bootFailed sect cause).fld BOOT_STAT BOOT_STAT_CAUSE = cause ∧ (t.bootFailed sect cause).fld BOOT_STAT BOOT_STAT_SECTION = sect ∧
    (∀ p, p < 1024 → ((t.bootFailed sect cause).pin p).held = true) ∧ (t.bootFailed sect cause).mem = [] ∧
    (t.bootFailed sect cause).flash = s.flash ∧
    (∀ a, a < hubBlk 3 ∨ hubBlk 4 ≤ a → (t.bootFailed sect cause).reg a = regReset a) := by
  obtain ⟨hflash, -, hmem, -, hregs⟩ := h
  have hw : 2 ^ BOOT_STAT_CAUSE.width = 16 ∧ 2 ^ BOOT_STAT_SECTION.width = 16 := by decide
  obtain ⟨hwc, hws⟩ := hw
  refine ⟨t.bootFailed_failed sect cause, t.bootFailed_booting sect cause, ?_, ?_, fun p => t.bootFailed_held sect cause, ?_, ?_,
    fun a ha => ?_⟩
  · rw [t.bootFailed_cause sect cause, hwc, Nat.mod_eq_of_lt (Nat.lt_of_le_of_lt hcause (by decide))]
  · rw [t.bootFailed_section sect cause, hws, Nat.mod_eq_of_lt (Nat.lt_of_le_of_lt hsect (by decide))]
  · rw [t.bootFailed_frame sect cause, ← hmem]
  · rw [t.bootFailed_frame sect cause, ← hflash]
  · rw [t.bootFailed_regsKept sect cause a (by simp [(ne_bootStat ha).1]), hregs a ha]

theorem State.loadFailed_fallBack {s : State} (sect cause : Nat) (hv : s.headerValid (otherBank s.boot.bank) = true)
    (ht : otherBank s.boot.bank ∉ s.boot.tried) : s.loadFailed sect cause =
      (s.afresh.setBit BOOT_STAT BOOT_STAT_FALLBACK true).bootBank (otherBank s.boot.bank) := by
  have hno : s.boot.tried.contains (otherBank s.boot.bank) = false := by simpa using ht
  rw [State.loadFailed_eq, State.headerValid_of_flash s.afresh_afresh.flash, hv, hno, Bool.not_false, Bool.and_self, if_pos rfl]

theorem State.loadFailed_fails {s : State} (sect cause : Nat)
    (h : s.headerValid (otherBank s.boot.bank) = false ∨ otherBank s.boot.bank ∈ s.boot.tried) :
    s.loadFailed sect cause = s.afresh.bootFailed sect cause := by
  rw [State.loadFailed_eq, State.headerValid_of_flash s.afresh_afresh.flash, if_neg]
  intro hboth
  obtain ⟨hv, ht⟩ := (Bool.and_eq_true _ _).mp hboth
  rcases h with h | h
  · exact absurd (h.symm.trans hv) Bool.false_ne_true
  · rw [List.contains_iff_mem.mpr h] at ht
    exact Bool.false_ne_true ht

/-- Settles O7: a section that loads by `BootGoesOn`, one that does not by `Afresh`. -/
theorem bootLoadsSections : Obligations.BootLoadsSections := by
  unfold Obligations.BootLoadsSections
  intro e f s hlo hhi hsect
  have hphase := And.intro hlo hhi
  refine ⟨fun u he hgood hready hload => ?_, fun he hgood hsome => ?_, fun he h5 hgood hwaits => ?_, fun hbad => ?_⟩
  · obtain ⟨hnext, hgo, hcal⟩ := BootGoesOn.of_next u s.boot.section_
    exact ⟨_, exec_bootSectionLoad_loads hphase he hgood hready hload, hnext, hgo, hcal⟩
  · obtain ⟨u, hload⟩ := State.loadSection_some f hsome
    have hready : ¬(s.boot.section_ = 5 ∧ s.fetchWaits s.boot.bank = true) := fun ⟨h5, hwaits⟩ => by
      rw [h5] at hsome
      have habs : s.secHas s.boot.bank 5 = false := (hsome.resolve_left (by decide)).2
      exact absurd ((State.fetchWaits_absent habs).symm.trans hwaits) Bool.false_ne_true
    have hgo := BootGoesOn.of_next u s.boot.section_
    refine ⟨_, exec_bootSectionLoad_loads hphase he hgood hready hload, hgo.next,
      hgo.phase.imp_right fun ⟨h6, h7⟩ => ⟨nextSection_last hsect h6, h7⟩, fun h46 => ?_⟩
    have hn : s.boot.section_ = 4 ∨ s.boot.section_ = 6 := by simpa using h46
    have hne : (nextSection s.boot.section_).2 ≠ 6 := fun h6 => by
      have := nextSection_last hsect h6
      omega
    have habs : s.secHas s.boot.bank s.boot.section_ = false := by
      rcases hn with hn | hn <;>
      · rw [hn] at hsome ⊢
        exact (hsome.resolve_left (by decide)).2
    obtain rfl := Option.some.inj ((State.loadSection_absent hn f habs).symm.trans hload)
    rw [hgo.load (.inl hne)]
    exact ⟨rfl, rfl, rfl, rfl⟩
  · exact exec_bootSectionLoad_waits hphase he (h5 ▸ hgood) ⟨h5, hwaits⟩
  · obtain ⟨cause, hcause, hle, hexec⟩ : ∃ cause, cause = (if e then 4 else if s.secGood s.boot.bank s.boot.section_ = false then 2 else 3) ∧
        cause ≤ 4 ∧ exec (.bootSectionLoad e f) s = .next (s.loadFailed s.boot.section_ cause) := by
      cases he : e with
      | true => exact ⟨4, rfl, by decide, exec_bootSectionLoad_fails hphase (.inl ⟨rfl, rfl⟩)⟩
      | false =>
        cases hgood : s.secGood s.boot.bank s.boot.section_ with
        | false => exact ⟨2, rfl, by decide, exec_bootSectionLoad_fails hphase (.inr (.inl ⟨rfl, hgood, rfl⟩))⟩
        | true =>
          rw [he, hgood] at hbad
          obtain ⟨hready, hnone⟩ := (hbad.resolve_left Bool.false_ne_true).resolve_left Bool.false_ne_true.symm
          exact ⟨3, rfl, by decide, exec_bootSectionLoad_fails hphase (.inr (.inr ⟨rfl, hgood, hready, hnone, rfl⟩))⟩
    rw [← hcause]
    have hother : otherBank s.boot.bank < 2 := by
      unfold otherBank
      omega
    refine ⟨fun hv ht => ?_, fun hno => ?_⟩
    · rw [State.loadFailed_fallBack _ _ hv ht] at hexec
      exact ⟨_, hexec, s.afresh_afresh.fallBack hother rfl⟩
    · rw [State.loadFailed_fails _ _ hno] at hexec
      exact ⟨_, hexec, s.afresh_afresh.fails hsect hle⟩

end Sys2Proof.Machine
end

section
/-! O45. Descriptors are fetched and bursts begin (R362-R364, R368-R370). -/

namespace Sys2Proof.Machine

variable {s : State}

/-! A read by a DMA engine (R53). -/

theorem State.resolve_local {a x : Nat} (h : s.resolve a = .here x) : x = a % 2 ^ 42 := by
  unfold State.resolve at h
  dsimp only at h
  split at h
  · exact (SysAddr.here.inj h).symm
  · split at h
    · exact (SysAddr.here.inj h).symm
    · split at h <;> cases h

theorem isSecureSys_of_memory {a : Nat} (h : isMemory (a % 2 ^ 42) = true) : isSecureSys a = false :=
  beq_eq_false_iff_ne.mpr ((isMemory_iff _).mp h).2.1

theorem State.dmaRead_of_plain {a x n : Nat} (hres : s.resolve a = .here x) (h : s.plain x n) (hn : 0 < n) (hr : s.repairDue x = false)
    (hp : s.anyPoison x n = false) (remote : Payload) :
    s.dmaRead a n [] remote = (.got false ((List.range n).map (fun i => s.byteAt (x + i))), s) := by
  have hsec : isSecureSys a = false := isSecureSys_of_memory (State.resolve_local hres ▸ h.1)
  have hmem := s.readMem_of_plain h hn hr remote
  rw [hp] at hmem
  unfold State.dmaRead
  rw [hsec, if_neg Bool.false_ne_true, hres]
  dsimp only
  rw [if_neg ((isMemory_iff x).mp h.1).1, hmem]
  rfl

/-! The fetch (R362-R364). -/

section

variable {ring : RingNo} {a : Nat} {l : List Byte}

theorem State.toFetch_true {n : Nat} (hne : s.ringHead n ≠ s.ringTail n) (hdesc : (s.ring n).desc = none)
    (hwait : (s.ring n).waitTail = false) : s.toFetch n = true := by
  unfold State.toFetch
  rw [bne_iff_ne.mpr hne, hdesc, hwait]
  rfl

theorem State.toFetch_false {n : Nat} (h : s.ringHead n = s.ringTail n ∨ (s.ring n).waitTail = true) : s.toFetch n = false := by
  unfold State.toFetch
  rcases h with h | h
  · rw [h, bne_self_eq_false, Bool.false_and, Bool.false_and]
  · rw [h, Bool.not_true, Bool.and_false]

theorem exec_descriptorFetch (hserved : s.ringServed ring.val = true) (hfetch : s.toFetch ring.val = true)
    (hread : s.dmaRead (s.descAddr ring.val (s.ringHead ring.val)) 32 [] (.data []) = (.got false l, s)) :
    exec (.descriptorFetch ring [] (.data []) false) s =
      .next (s.fetchedDesc ring.val (s.descAddr ring.val (s.ringHead ring.val)) l [] false) := by
  have harm : exec (.descriptorFetch ring [] (.data []) false) s = execDescriptorFetch ring [] (.data []) false s := rfl
  rw [harm, execDescriptorFetch]
  dsimp only
  rw [hserved, hfetch, Bool.and_self, if_pos rfl, hread]

variable {n addr : Nat} (hfailed : (s.ring n).failed = none)
include hfailed

/-- An owned descriptor that keeps the rules of Table 13-1 is held. -/
theorem State.fetchedDesc_owned (hown : descOwn l = true) (hgood : descBad (s.isCopy n) l = false) (hpool : (descOf 0 l).pool = false) :
    s.fetchedDesc n addr l [] false = s.updRing n (fun x => { x with desc := some { descOf 0 l with addr := addr } }) := by
  have hdesc : descOf addr l = { descOf 0 l with addr := addr } := rfl
  have hnot : ¬((descOf addr l).pool = true ∧ (descOf addr l).copy = false) := fun hboth => Bool.false_ne_true (hpool.symm.trans hboth.1)
  unfold State.fetchedDesc
  rw [hfailed]
  dsimp only
  rw [if_pos hown, State.takeDesc, hgood, if_neg Bool.false_ne_true, State.holdDesc]
  rw [if_neg hnot, hdesc]

theorem State.fetchedDesc_waits (hown : descOwn l = false) :
    s.fetchedDesc n addr l [] false = s.updRing n (fun x => { x with waitTail := true }) := by
  unfold State.fetchedDesc
  rw [hfailed]
  dsimp only
  rw [hown, if_neg Bool.false_ne_true]

end

/-! The start of a burst (R368-R370). -/

theorem chanStat_ne_ringStat (ch n : Nat) : chanStat ch ≠ ringStat n := by
  simp only [chanStat, ringStat, DMA_CH_STAT, RING_STAT, rgBlk, ringRg, ringLr]
  omega

/-- The registers of a burst that begins. -/
def State.burstShown (s : State) (n : Nat) : State :=
  (((s.setBit (ringStat n) RING_STAT_REQ false).setBit (ringStat n) RING_STAT_STARVED false).setBit (chanStat (ringCh n))
    DMA_CH_STAT_BUSY true).setFld (chanStat (ringCh n)) DMA_CH_STAT_RING (n % 64)

theorem State.burstShown_reads (s : State) {n : Nat} {t : State} (ht : t = s.burstShown n) : s.regsOnly t ∧
    t.requested n = false ∧ t.bit (chanStat (ringCh n)) DMA_CH_STAT_BUSY = true ∧ t.fld (chanStat (ringCh n)) DMA_CH_STAT_RING = n % 64 ∧
    s.regsKept t [ringStat n, chanStat (ringCh n)] := by
  have hne : ringStat n ≠ chanStat (ringCh n) := (chanStat_ne_ringStat (ringCh n) n).symm
  have hw : 2 ^ DMA_CH_STAT_RING.width = 64 := by decide
  subst ht
  unfold State.burstShown
  refine ⟨?_, ?_, ?_, ?_, ?_⟩
  · exact State.regsOnly_trans (State.regsOnly_trans (State.regsOnly_trans (s.setBit_regsOnly _ _ _) (State.setBit_regsOnly _ _ _ _))
      (State.setBit_regsOnly _ _ _ _)) (State.setFld_regsOnly _ _ _ _)
  · rw [State.requested, State.setFld_bit_ne _ _ _ _ _ _ hne, State.setBit_bit_ne _ _ _ _ _ _ hne, State.setBit_bit_apart _ _ _ _ _ (by decide),
      State.setBit_bit _ _ _ _ rfl (by decide)]
  · rw [State.setFld_bit_apart _ _ _ _ _ (by decide), State.setBit_bit _ _ _ _ rfl (by decide)]
  · rw [State.setFld_fld _ _ _ _ (by decide) (by decide), hw, Nat.mod_mod]
  · have hstat : ringStat n ∈ [ringStat n, chanStat (ringCh n)] := by simp
    have hchan : chanStat (ringCh n) ∈ [ringStat n, chanStat (ringCh n)] := by simp
    exact State.regsKept_trans (State.regsKept_trans (State.regsKept_trans (State.setFld_regsKept _ _ _ hstat)
      (State.setFld_regsKept _ _ _ hstat)) (State.setFld_regsKept _ _ _ hchan)) (State.setFld_regsKept _ _ _ hchan)

theorem State.setChan_setBit (s : State) (n : Nat) (x : ChanSt) (a : Nat) (f : Fld) (b : Bool) :
    (s.setChan n x).setBit a f b = (s.setBit a f b).setChan n x := rfl

theorem State.setChan_setFld (s : State) (n : Nat) (x : ChanSt) (a : Nat) (f : Fld) (v : Nat) :
    (s.setChan n x).setFld a f v = (s.setFld a f v).setChan n x := rfl

theorem State.beginBurst_copy (s : State) (n g k : Nat) (hk : k ≠ 0) : s.beginBurst n g { ring := n, src := .copy, left := k } =
    (s.burstShown n).setChan (ringCh n) { burst := some { ring := n, src := .copy, left := k }, lastRing := n % 64 } := by
  unfold State.beginBurst State.countShare State.givenUp
  dsimp only
  rw [if_neg fun hempty => hk hempty.2, State.setChan_setBit, State.setChan_setFld]
  rfl

/-- What a COPY burst that begins leaves. -/
theorem State.beginBurst_begins {s t u : State} {n g k : Nat} (ht : t = s.at g) (hk : k ≠ 0)
    (hu : u = t.beginBurst n g { ring := n, src := .copy, left := k }) :
    (u.chan (ringCh n)).burst = some { ring := n, src := .copy, left := k } ∧ u.requested n = false ∧
    u.bit (chanStat (ringCh n)) DMA_CH_STAT_BUSY = true ∧ u.fld (chanStat (ringCh n)) DMA_CH_STAT_RING = n % 64 ∧
    (∀ c, c ≠ ringCh n → u.chan c = s.chan c) ∧ u = { s with gt := max s.gt g, regs := u.regs, chans := u.chans } ∧
    s.regsKept u [ringStat n, chanStat (ringCh n)] := by
  obtain ⟨v, hv⟩ : ∃ v, v = t.burstShown n := ⟨_, rfl⟩
  obtain ⟨hregs, hreq, hbusy, hring, hkept⟩ := t.burstShown_reads hv
  obtain ⟨r, hr⟩ : ∃ r, v = { t with regs := r } := ⟨_, hregs⟩
  rw [t.beginBurst_copy n g k hk, ← hv] at hu
  subst hu
  have hchan : ∀ c, v.chan c = s.chan c := fun c => by
    rw [hr, ht]
    rfl
  refine ⟨by rw [State.setChan_chan], hreq, hbusy, hring, fun c hc => (State.setChan_chan_ne _ _ _ _ hc).trans (hchan c), ?_, ?_⟩
  · rw [hr, ht]
    rfl
  · rw [ht] at hkept
    exact hkept

section

variable {ring : RingNo} {g : Nat}

theorem State.nextBurst_copy {n : Nat} (hcopy : s.isCopy n = true) : s.nextBurst n =
    (s.ring n).desc.map (fun d => { ring := n, src := .copy, left := min 4096 (d.length - (s.ring n).off) }) := by
  unfold State.nextBurst
  rw [if_pos hcopy]

/-- A COPY ring whose request is served at grain g. -/
structure CopyTurn (ring : RingNo) (g : Nat) (s : State) : Prop where
  served : s.ringServed ring.val = true
  copy : s.isCopy ring.val = true
  requested : s.requested ring.val = true
  room : (s.ring ring.val).short = false
  idle : (s.chan (ringCh ring.val)).burst = none
  turn : (s.at g).ringTurn ring.val g = true

theorem CopyTurn.guard (h : CopyTurn ring g s) {t : State} (ht : t = s.at g) :
    (t.ringServed ring.val && t.requested ring.val && !(t.ring ring.val).short && (t.chan (ringCh ring.val)).burst.isNone &&
      t.ringTurn ring.val g) = true := by
  obtain ⟨hserved, -, hreq, hroom, hidle, hturn⟩ := h
  have hserved' : t.ringServed ring.val = true := by
    rw [ht]
    exact hserved
  have hreq' : t.requested ring.val = true := by
    rw [ht]
    exact hreq
  rw [hserved', hreq', ht, hturn, State.at_ring, State.at_chan, hroom, hidle]
  rfl

theorem exec_burstStart_begins (h : CopyTurn ring g s) {d : Desc} (hdesc : (s.ring ring.val).desc = some d) :
    exec (.burstStart ring g [] []) s = .next ((s.at g).beginBurst ring.val g
      { ring := ring.val, src := .copy, left := min 4096 (d.length - (s.ring ring.val).off) }) := by
  have hnext : (s.at g).nextBurst ring.val = some { ring := ring.val, src := .copy, left := min 4096 (d.length - (s.ring ring.val).off) } := by
    rw [State.nextBurst_copy (show (s.at g).isCopy ring.val = true from h.copy), State.at_ring, hdesc]
    rfl
  have harm : exec (.burstStart ring g [] []) s = execBurstStart ring g [] [] s := rfl
  rw [harm, execBurstStart, if_pos (h.guard rfl), hnext]
  rfl

theorem exec_burstStart_starved (h : CopyTurn ring g s) (hdesc : (s.ring ring.val).desc = none) :
    exec (.burstStart ring g [] []) s = .next (if s.toFetch ring.val then s.at g else (s.at g).starve ring.val) := by
  have hnext : (s.at g).nextBurst ring.val = none := by
    rw [State.nextBurst_copy (show (s.at g).isCopy ring.val = true from h.copy), State.at_ring, hdesc]
    rfl
  have harm : exec (.burstStart ring g [] []) s = execBurstStart ring g [] [] s := rfl
  rw [harm, execBurstStart, if_pos (h.guard rfl), hnext]
  rfl

end

theorem State.starve_starves {s t u : State} {n g : Nat} (ht : t = s.at g) (hu : u = t.starve n) :
    u.bit (ringStat n) RING_STAT_STARVED = true ∧ u.requested n = s.requested n ∧ u.ring n = { s.ring n with short := true } ∧
    (∀ k, k ≠ n → u.ring k = s.ring k) ∧ u = { s with gt := max s.gt g, regs := u.regs, rings := u.rings } ∧
    s.regsKept u [ringStat n] := by
  obtain ⟨v, hv⟩ : ∃ v, v = t.setBit (ringStat n) RING_STAT_STARVED true := ⟨_, rfl⟩
  have hregs : t.regsOnly v := hv ▸ t.setBit_regsOnly _ _ _
  have hstarved : v.bit (ringStat n) RING_STAT_STARVED = true := hv ▸ State.setBit_bit _ _ _ _ rfl (by decide)
  have hreq : v.requested n = t.requested n := hv ▸ State.setBit_bit_apart _ _ _ _ _ (by decide)
  have hkept : t.regsKept v [ringStat n] := hv ▸ State.setFld_regsKept _ _ _ (by simp)
  obtain ⟨r, hr⟩ : ∃ r, v = { t with regs := r } := ⟨_, hregs⟩
  have hring : ∀ k, v.ring k = s.ring k := fun k => by
    rw [hr, ht]
    rfl
  rw [State.starve, ← hv] at hu
  subst hu
  refine ⟨hstarved, ?_, ?_, fun k hk => (State.updRing_ring_ne _ _ _ _ hk).trans (hring k), ?_, ?_⟩
  · refine hreq.trans ?_
    rw [ht]
    rfl
  · rw [State.updRing_ring, hring]
  · rw [hr, ht]
    rfl
  · rw [ht] at hkept
    exact hkept

/-- Settles O45: a fetch by `exec_descriptorFetch`, a burst by `State.beginBurst_begins` and `State.starve_starves`. -/
theorem descriptorsAreFetchedAndBurstsBegin : Obligations.DescriptorsAreFetchedAndBurstsBegin := by
  unfold Obligations.DescriptorsAreFetchedAndBurstsBegin
  intro ring g a l s hserved
  refine ⟨fun hne hdesc hwait hfailed hres hplain hrepair hpoison _ hl => ?_, fun hcopy hreq hshort hidle hturn => ?_⟩
  · have hread := State.dmaRead_of_plain hres hplain (by decide) hrepair hpoison (.data [])
    rw [← hl] at hread
    have hexec := exec_descriptorFetch hserved (State.toFetch_true hne hdesc hwait) hread
    refine ⟨fun hown hgood hpool => ?_, fun hown => ?_⟩
    · rw [State.fetchedDesc_owned hfailed hown hgood hpool] at hexec
      exact ⟨_, hexec, by rw [State.updRing_ring], fun k hk => State.updRing_ring_ne _ _ _ _ hk, rfl⟩
    · rw [State.fetchedDesc_waits hfailed hown] at hexec
      exact ⟨_, hexec, by rw [State.updRing_ring], by rw [State.updRing_ring, hdesc], fun k hk => State.updRing_ring_ne _ _ _ _ hk, rfl⟩
  · have hcan : CopyTurn ring g s := ⟨hserved, hcopy, hreq, hshort, hidle, hturn⟩
    refine ⟨fun d hdesc hoff => ?_, fun hdesc hnone => ?_, fun hdesc hne hwait => ?_⟩
    · obtain ⟨hburst, hreq, hbusy, hring, hchan, hframe, hkept⟩ := State.beginBurst_begins rfl
        (show min 4096 (d.length - (s.ring ring.val).off) ≠ 0 by omega) rfl
      exact ⟨_, _, exec_burstStart_begins hcan hdesc, hburst, rfl, rfl, rfl, hreq, hbusy, hring, hchan, hframe, hkept⟩
    · have hexec := exec_burstStart_starved hcan hdesc
      rw [State.toFetch_false hnone, if_neg Bool.false_ne_true] at hexec
      obtain ⟨hstarved, hasked, hring, hothers, hframe, hkept⟩ := State.starve_starves (s := s) (g := g) (n := ring.val) rfl rfl
      exact ⟨_, hexec, hstarved, hasked.trans hreq, hring, hothers, hframe, hkept⟩
    · have hexec := exec_burstStart_starved hcan hdesc
      rw [State.toFetch_true hne hdesc hwait, if_pos rfl] at hexec
      exact hexec

end Sys2Proof.Machine
end

section
/-! O46. Beats move bytes and bursts complete (R368, R369, R371-R374, R377). -/

namespace Sys2Proof.Machine

variable {s t : State}

/-! Where a beat reads and writes (R53, R54). -/

theorem isMemory_lt {a : Nat} (h : isMemory a = true) : a < 2 ^ 42 := by
  by_contra hge
  have hnone : addrKind a = .unmapped := by
    unfold addrKind
    rw [if_neg (by omega), if_neg (by omega), if_neg (by omega), if_neg (by omega), if_neg (by omega), if_neg (by omega), if_neg (by omega),
      if_neg (by omega)]
  exact ((isMemory_iff a).mp h).2.2 hnone

theorem isFlow_of_kind {a b : Nat} (h : addrKind a = addrKind b) : isFlow a = isFlow b := by
  unfold isFlow
  rw [h]

/-- A part of plain memory is plain. -/
theorem State.plain_part {a n i k : Nat} (h : s.plain a n) (hi : i + k ≤ n) (hk : 0 < k) : s.plain (a + i) k := by
  obtain ⟨hmem, hflow, hkind, hbus⟩ := h
  have hsame := hkind i (by omega)
  refine ⟨(isMemory_of_kind hsame).trans hmem, (isFlow_of_kind hsame).trans hflow, fun j hj => ?_, fun j hj => ?_⟩
  · rw [Nat.add_assoc, hkind (i + j) (by omega), hsame]
  · rw [Nat.add_assoc]
    exact hbus (i + j) (by omega)

theorem State.resolve_own {a x : Nat} (hx : x = a % 2 ^ 42) (hflow : isFlow x = false) (hpkg : a / 2 ^ 42 = s.pkgId) (hlt : s.pkgId < 16) :
    s.resolve a = .here x := by
  unfold State.resolve
  dsimp only
  rw [← hx, hflow, if_neg Bool.false_ne_true, hpkg, if_pos (Nat.mod_eq_of_lt hlt)]

theorem State.sysWriteBad_of_plain {a x n : Nat} (hres : s.resolve a = .here x) (h : s.plain x n) (hn : 0 < n) :
    s.sysWriteBad a n false = false := by
  have hsec : isSecureSys a = false := isSecureSys_of_memory (State.resolve_local hres ▸ h.1)
  obtain ⟨hmemLast, hbusLast⟩ := s.plain_last h hn
  unfold State.sysWriteBad
  rw [hres]
  dsimp only
  rw [hsec, State.memOk, h.1, hmemLast, s.plain_first h hn, hbusLast]
  rfl

/-- A beat's place in plain memory of this package takes it. -/
theorem State.dmaWriteBad_of_plain {a x : Nat} (hx : x = a % 2 ^ 42) (h : s.plain x 64) (hpkg : a / 2 ^ 42 = s.pkgId)
    (hlt : s.pkgId < 16) : s.dmaWriteBad a false = false := by
  have hlast := s.plain_part (i := 63) (k := 1) h (by omega) (by decide)
  have hbelow := isMemory_lt hlast.1
  have hfirst := s.plain_part (i := 0) (k := min 64 (64 - a % 64)) h (by omega) (by omega)
  unfold State.dmaWriteBad
  rw [State.sysWriteBad_of_plain (State.resolve_own hx h.2.1 hpkg hlt) hfirst (by omega),
    State.sysWriteBad_of_plain (State.resolve_own (x := x + 63) (by omega) hlast.2.1 (by omega) hlt) hlast (by decide), Bool.or_self]

theorem State.dmaWrite_of_plain {a x : Nat} (hres : s.resolve a = .here x) (h : isMemory x = true) (l : List Byte) :
    s.dmaWrite a l [] false = s.storeBytes x (l.map some) false [] := by
  unfold State.dmaWrite
  rw [hres]
  dsimp only
  rw [if_neg ((isMemory_iff x).mp h).1]

/-! A turn of a channel (R372, R373). -/

/-- A channel's burst is as before, but for its turn that may be over. -/
def TurnOver (x y : ChanSt) : Prop :=
  y = { x with burst := y.burst } ∧ (y.burst = x.burst ∨ ∃ z, x.burst = some z ∧ y.burst = some { z with serving := false })

theorem TurnOver.refl (x : ChanSt) : TurnOver x x := ⟨rfl, .inl rfl⟩

theorem TurnOver.trans {x y z : ChanSt} (h : TurnOver x y) (k : TurnOver y z) : TurnOver x z := by
  obtain ⟨hxy, hburst⟩ := h
  obtain ⟨hyz, kburst⟩ := k
  refine ⟨by rw [hyz, hxy], ?_⟩
  rcases kburst with kburst | ⟨b, hb, kburst⟩
  · rw [kburst]
    exact hburst
  · rcases hburst with hburst | ⟨a, ha, hburst⟩
    · exact .inr ⟨b, hburst ▸ hb, kburst⟩
    · obtain rfl := Option.some.inj (hburst.symm.trans hb)
      exact .inr ⟨a, ha, kburst⟩

theorem State.updBurst_over (s : State) (c k : Nat) : TurnOver (s.chan k) ((s.updBurst c (fun b => { b with serving := false })).chan k) := by
  by_cases h : k = c
  · subst h
    rw [State.updBurst, State.setChan_chan]
    refine ⟨rfl, ?_⟩
    cases hb : (s.chan k).burst with
    | none => exact .inl rfl
    | some b => exact .inr ⟨b, rfl, rfl⟩
  · rw [State.updBurst, State.setChan_chan_ne _ _ _ _ h]
    exact TurnOver.refl _

/-- The registers of the channels. -/
def chanStats : List Nat := (List.range 1024).map chanStat

/-- From s to t the channels' registers, bursts' turns and the channel served last have changed. -/
structure Turned (s t : State) : Prop where
  chans : ∀ k, TurnOver (s.chan k) (t.chan k)
  frame : t = { s with regs := t.regs, dmaLast := t.dmaLast, chans := t.chans }
  kept : s.regsKept t chanStats

namespace Turned

theorem refl (s : State) : Turned s s := ⟨fun _ => TurnOver.refl _, rfl, fun _ _ => rfl⟩

theorem trans {u : State} (h : Turned s t) (k : Turned t u) : Turned s u := by
  refine ⟨fun c => (h.chans c).trans (k.chans c), ?_, fun a ha => (k.kept a ha).trans (h.kept a ha)⟩
  obtain ⟨r, e, c, ht⟩ : ∃ r e c, t = { s with regs := r, dmaLast := e, chans := c } := ⟨_, _, _, h.frame⟩
  have hu := k.frame
  rw [ht] at hu
  exact hu

theorem foldl {α : Type} {f : State → α → State} (l : List α) (h : ∀ x ∈ l, ∀ t, Turned t (f t x)) (s : State) : Turned s (l.foldl f s) :=
  List.foldlRecOn (motive := Turned s) l f (refl s) fun t ht x hx => ht.trans (h x hx t)

theorem of_regsOnly (h : s.regsOnly t) (k : s.regsKept t chanStats) : Turned s t := by
  obtain ⟨r, ht⟩ : ∃ r, t = { s with regs := r } := ⟨_, h⟩
  refine ⟨fun c => ?_, ?_, k⟩
  · rw [ht]
    exact TurnOver.refl _
  · rw [ht]

theorem setBit (s : State) {c : Nat} (hc : c < 1024) (f : Fld) (b : Bool) : Turned s (s.setBit (chanStat c) f b) :=
  of_regsOnly (s.setBit_regsOnly _ _ _) (State.setFld_regsKept _ _ _ (List.mem_map_of_mem (List.mem_range.mpr hc)))

theorem updBurst (s : State) (c : Nat) : Turned s (s.updBurst c (fun b => { b with serving := false })) :=
  ⟨s.updBurst_over c, rfl, fun _ _ => rfl⟩

theorem setDmaLast (s : State) (e ch : Nat) : Turned s (s.setDmaLast e ch) := ⟨fun _ => TurnOver.refl _, rfl, fun _ _ => rfl⟩

end Turned

theorem State.markPreempted_turned (s : State) {e ch : Nat} (he : e < 16) (hch : ch < 1024) : Turned s (s.markPreempted e ch) := by
  unfold State.markPreempted
  refine (Turned.foldl _ (fun k hk t => ?_) s).trans (Turned.setBit _ hch _ _)
  have hlt := List.mem_range.mp hk
  dsimp only
  split
  · exact Turned.setBit t (by omega) _ _
  · exact Turned.refl t

/-- The turns of the other channels of the same PRIO are over. -/
def State.turnsOver (s : State) (e ch : Nat) : State :=
  (List.range 64).foldl (fun t k => if t.inTurn (64 * e + k) && t.prio (64 * e + k) == t.prio ch then
    t.updBurst (64 * e + k) (fun b => { b with serving := false }) else t) s

theorem State.takeTurn_eq (s : State) (e ch : Nat) : s.takeTurn e ch =
    (s.turnsOver e ch).updBurst ch (fun b => { b with moving := true, serving := true }) := rfl

theorem State.turnsOver_turned (s : State) (e ch : Nat) : Turned s (s.turnsOver e ch) := by
  unfold State.turnsOver
  refine Turned.foldl _ (fun k _ t => ?_) s
  split
  · exact Turned.updBurst t _
  · exact Turned.refl t

/-- What a turn leaves: the burst of its channel moves and is in its turn. -/
structure TurnTaken (ch : Nat) (b : Burst) (s t : State) : Prop where
  burst : (t.chan ch).burst = some { b with moving := true, serving := true }
  others : ∀ k, k ≠ ch → TurnOver (s.chan k) (t.chan k)
  frame : t = { s with regs := t.regs, dmaLast := t.dmaLast, chans := t.chans }
  kept : s.regsKept t chanStats

theorem TurnTaken.of_turned {ch : Nat} {b : Burst} {a : State} (h : Turned s a) (hb : (s.chan ch).burst = some b)
    (ht : t = a.updBurst ch (fun b => { b with moving := true, serving := true })) : TurnTaken ch b s t := by
  obtain ⟨hchans, hframe, hkept⟩ := h
  obtain ⟨r, e, c, ha⟩ : ∃ r e c, a = { s with regs := r, dmaLast := e, chans := c } := ⟨_, _, _, hframe⟩
  subst ht
  refine ⟨?_, fun k hk => ?_, ?_, hkept⟩
  · rw [State.updBurst, State.setChan_chan]
    rcases (hchans ch).2 with hsame | ⟨z, hz, hover⟩
    · rw [hsame, hb]
      rfl
    · obtain rfl := Option.some.inj (hb.symm.trans hz)
      rw [hover]
      rfl
  · rw [State.updBurst, State.setChan_chan_ne _ _ _ _ hk]
    exact hchans k
  · rw [ha]
    rfl

/-- The state in which the beat moves. -/
def State.inBeat (s : State) (e ch : Nat) : State := ((s.markPreempted e ch).setDmaLast e (ch % 64)).takeTurn e ch

theorem State.inBeat_taken {e ch : Nat} {b : Burst} (he : e < 16) (hch : ch < 1024) (hb : (s.chan ch).burst = some b) :
    TurnTaken ch b s (s.inBeat e ch) :=
  TurnTaken.of_turned (((s.markPreempted_turned he hch).trans (Turned.setDmaLast _ e (ch % 64))).trans (State.turnsOver_turned _ e ch)) hb
    (State.takeTurn_eq _ e ch)

theorem State.beatChan_lt {e ch : Nat} (he : e < 16) (h : s.beatChan e = some ch) : ch < 1024 := by
  have horder : ∀ k ∈ ((List.range 64).map (fun k => 64 * e + (tget (fun _ => 63) s.dmaLast e + 1 + k) % 64)).filter s.chanRuns, k < 1024 :=
    fun k hk => by
      obtain ⟨j, -, rfl⟩ := List.mem_map.mp (List.mem_of_mem_filter hk)
      omega
  unfold State.beatChan at h
  dsimp only at h
  generalize ((List.range 64).map (fun k => 64 * e + (tget (fun _ => 63) s.dmaLast e + 1 + k) % 64)).filter s.chanRuns = order at h horder
  generalize order.foldl (fun m ch => max m (s.prio ch)) 0 = top at h
  cases hfind : (order.filter (fun ch => s.prio ch == top)).find? s.inTurn with
  | some c =>
    rw [hfind] at h
    obtain rfl := Option.some.inj h
    exact horder _ (List.mem_of_mem_filter (List.mem_of_find?_eq_some hfind))
  | none =>
    rw [hfind] at h
    exact horder _ (List.mem_of_mem_filter (List.mem_of_head? h))

/-! The memory that a beat meets is that of the state before (R42, R51). -/

theorem not_chanStats {a : Nat} (h : ∀ c, c < 1024 → a ≠ chanStat c) : a ∉ chanStats := fun ha => by
  obtain ⟨c, hc, rfl⟩ := List.mem_map.mp ha
  exact h c (List.mem_range.mp hc) rfl

theorem chanStat_lt {c : Nat} (h : c < 1024) : chanStat c < 0x3F200000000 := by
  simp only [chanStat, DMA_CH_STAT, rgBlk]
  omega

theorem pprStat_not_chanStat (r : Nat) : MEM_PPR_STAT r ∉ chanStats := not_chanStats fun c hc => by
  simp only [chanStat, DMA_CH_STAT, MEM_PPR_STAT, rgBlk]
  omega

theorem hub_not_chanStat {a : Nat} (ha : 0x3F200000000 ≤ a) : a ∉ chanStats := not_chanStats fun _ hc e =>
  absurd (chanStat_lt hc) (Nat.not_lt.mpr (e ▸ ha))

section

variable {ch : Nat} {b : Burst} (h : TurnTaken ch b s t)
include h

theorem TurnTaken.sides : t.ring = s.ring ∧ t.byteAt = s.byteAt ∧ t.fencedAt = s.fencedAt ∧ t.expCapOf = s.expCapOf ∧
    t.repairDue = s.repairDue ∧ t.anyPoison = s.anyPoison ∧ t.pinView = s.pinView := by
  obtain ⟨r, e, c, ht⟩ : ∃ r e c, t = { s with regs := r, dmaLast := e, chans := c } := ⟨_, _, _, h.frame⟩
  rw [ht]
  exact ⟨rfl, rfl, rfl, rfl, rfl, rfl, rfl⟩

theorem TurnTaken.busErrorAt (a : Nat) : t.busErrorAt a = s.busErrorAt a := by
  obtain ⟨-, -, hfenced, hexp, -⟩ := h.sides
  have hppr : ∀ r, t.bit (MEM_PPR_STAT r) MEM_PPR_STAT_BUSY = s.bit (MEM_PPR_STAT r) MEM_PPR_STAT_BUSY := fun r =>
    State.bit_of_reg _ (h.kept _ (pprStat_not_chanStat r))
  have hpresent : ∀ k, t.present k = s.present k := fun k => by
    unfold State.present State.fbit
    rw [State.fld_of_reg _ (h.kept _ (hub_not_chanStat (by decide)))]
  unfold State.busErrorAt
  rw [hfenced, hexp]
  split
  · rw [hppr]
  · rfl
  · rw [hpresent]
  · rfl
  · rfl

theorem TurnTaken.plain {a n : Nat} (k : s.plain a n) : t.plain a n :=
  ⟨k.1, k.2.1, k.2.2.1, fun i hi => (h.busErrorAt _).trans (k.2.2.2 i hi)⟩

theorem TurnTaken.pkgId : t.pkgId = s.pkgId := State.fld_of_reg _ (h.kept _ (hub_not_chanStat (by decide)))

end

/-! A COPY beat (R369, R377). -/

theorem State.moveBeat_copy {ch : Nat} {b : Burst} {d : Desc} (hburst : (t.chan ch).burst = some b) (hsrc : b.src = .copy)
    (hdesc : (t.ring b.ring).desc = some d) (remote : Payload) (fails : WriteFails) :
    t.moveBeat ch [] remote fails = t.copyBeat ch b.ring d [] remote fails := by
  unfold State.moveBeat
  rw [hburst]
  dsimp only
  rw [hdesc]
  dsimp only
  rw [if_pos hsrc]

/-- The state after a COPY beat whose 64 bytes l have been read and can be written to y. -/
def State.beatMoved (t : State) (ch n y : Nat) (l : List Byte) : State :=
  ((t.storeBytes y (l.map some) false []).updBurst ch (fun b => { b with left := b.left - 64 })).updRing n
    (fun r => { r with off := (t.ring n).off + 64, poisonAt := (t.ring n).poisonAt })

theorem State.copyBeat_moves {ch n o y : Nat} {d : Desc} {l : List Byte} (ho : o = copyOff d (t.ring n).off)
    (hread : t.dmaRead (d.a + o) 64 [] (.data []) = (.got false l, t)) (hbad : t.dmaWriteBad (d.b + o) false = false)
    (hwrite : t.dmaWrite (d.b + o) l [] false = t.storeBytes y (l.map some) false []) (hmore : (t.ring n).off + 64 < d.length) :
    t.copyBeat ch n d [] (.data []) {} = t.beatMoved ch n y l := by
  subst ho
  unfold State.copyBeat
  dsimp only
  rw [hread]
  dsimp only
  rw [hbad, if_neg Bool.false_ne_true, hwrite, if_neg Bool.false_ne_true, if_neg (Nat.ne_of_lt hmore)]
  rfl

/-- What a COPY beat leaves. -/
structure BeatMoved (ch n x y : Nat) (b : Burst) (d : Desc) (s t : State) : Prop where
  written : ∀ i, i < 64 → inDictionary (y + i) = false → t.byteAt (y + i) = s.byteAt (x + i)
  bytes : ∀ m, (m < y ∨ y + 64 ≤ m ∨ inDictionary m = true) → t.byteAt m = s.byteAt m
  off : (t.ring n).off = (s.ring n).off + 64
  desc : (t.ring n).desc = some d
  burst : (t.chan ch).burst = some { b with moving := true, serving := true, left := b.left - 64 }
  rings : ∀ k, k ≠ n → t.ring k = s.ring k
  chans : ∀ k, k ≠ ch → TurnOver (s.chan k) (t.chan k)
  frame : t = { s with regs := t.regs, dmaLast := t.dmaLast, chans := t.chans, rings := t.rings, mem := t.mem, poison := t.poison,
                       codings := t.codings, pins := t.pins }
  pins : s.pinsKept t
  kept : s.regsKept t chanStats

/-- The bytes of a beat that has been written. -/
theorem State.storeBeat_reads {a w : State} {y : Nat} {f : Nat → Byte} (hplain : a.plain y 64)
    (hw : w = a.storeBytes y (((List.range 64).map f).map some) false []) :
    (∀ i, i < 64 → inDictionary (y + i) = false → w.byteAt (y + i) = f i) ∧
    (∀ m, (m < y ∨ y + 64 ≤ m ∨ inDictionary m = true) → w.byteAt m = a.byteAt m) ∧ a.memOnly w ∧ w.pinView = a.pinView := by
  have hlen : (((List.range 64).map f).map some).length = 64 := by simp
  obtain ⟨l, hl⟩ : ∃ l, l = ((List.range 64).map f).map some := ⟨_, rfl⟩
  have hget : ∀ i, i < 64 → l[i]? = some (some (f i)) := fun i hi => by
    rw [hl, List.getElem?_map, List.getElem?_map, List.getElem?_range hi]
    rfl
  rw [← hl] at hlen hw
  have hrange : OneRange y l.length := hlen ▸ oneRange_of_plain hplain
  have hpos : 0 < l.length := hlen ▸ (by decide)
  subst hw
  refine ⟨fun i hi hd => a.storeBytes_byteAt_written hpos hrange (hget i hi) hd, fun m hm => ?_, a.storeBytes_memOnly hpos hrange,
    a.storeBytes_pinView hpos hrange⟩
  rcases hm with hm | hm | hm
  · exact a.storeBytes_byteAt_outside hpos hrange (.inl hm)
  · exact a.storeBytes_byteAt_outside hpos hrange (.inr (hlen ▸ hm))
  · by_cases hin : y ≤ m
    · have hkept := a.storeBytes_byteAt_kept hpos hrange (i := m - y) (.inr (by rwa [Nat.add_sub_cancel' hin]))
      rwa [Nat.add_sub_cancel' hin] at hkept
    · exact a.storeBytes_byteAt_outside hpos hrange (.inl (Nat.not_le.mp hin))

theorem BeatMoved.of_stages {ch n x y : Nat} {b : Burst} {d : Desc} {a w v : State} (ha : TurnTaken ch b s a) (hdesc : (s.ring n).desc = some d)
    (hplain : a.plain y 64) (hw : w = a.storeBytes y (((List.range 64).map (fun i => a.byteAt (x + i))).map some) false [])
    (hv : v = w.updBurst ch (fun b => { b with left := b.left - 64 }))
    (ht : t = v.updRing n (fun r => { r with off := (a.ring n).off + 64, poisonAt := (a.ring n).poisonAt })) : BeatMoved ch n x y b d s t := by
  obtain ⟨hwritten, hbytes, hmem, hpins⟩ := State.storeBeat_reads hplain hw
  obtain ⟨hring, hbyte, -, -, -, -, hpinA⟩ := ha.sides
  obtain ⟨m, p, c, q, hw'⟩ : ∃ m p c q, w = { a with mem := m, poison := p, codings := c, pins := q } := ⟨_, _, _, _, hmem⟩
  obtain ⟨r, e, k, ha'⟩ : ∃ r e k, a = { s with regs := r, dmaLast := e, chans := k } := ⟨_, _, _, ha.frame⟩
  have hringW : w.ring = s.ring := by
    rw [hw']
    exact hring
  have hchanW : w.chan = a.chan := by
    rw [hw']
    rfl
  have hregsW : w.reg = a.reg := by
    rw [hw']
    rfl
  have hpinW : w.pinView = s.pinView := hpins.trans hpinA
  subst hv
  subst ht
  refine ⟨fun i hi hd => ?_, fun m hm => ?_, ?_, ?_, ?_, fun k hk => ?_, fun k hk => ?_, ?_, State.pinsKept_of_pinView hpinW, fun a ha' => ?_⟩
  · exact (hwritten i hi hd).trans (congrFun hbyte _)
  · exact (hbytes m hm).trans (congrFun hbyte _)
  · rw [State.updRing_ring, hring]
  · rw [State.updRing_ring]
    exact (congrArg RingSt.desc (congrFun hringW n)).trans hdesc
  · have hburst : (w.chan ch).burst = some { b with moving := true, serving := true } := (congrArg ChanSt.burst (congrFun hchanW ch)).trans ha.burst
    rw [State.updRing, State.setRing_chan, State.updBurst, State.setChan_chan, hburst]
    rfl
  · rw [State.updRing_ring_ne _ _ _ _ hk]
    exact congrFun hringW k
  · rw [State.updRing, State.setRing_chan, State.updBurst, State.setChan_chan_ne _ _ _ _ hk, hchanW]
    exact ha.others k hk
  · rw [hw', ha']
    rfl
  · exact (congrFun hregsW a).trans (ha.kept a ha')

/-! The completion of a burst (R368, R374). -/

/-- The registers of a channel whose burst is complete. -/
def State.chanIdle (s : State) (ch : Nat) : State :=
  (s.setBit (chanStat ch) DMA_CH_STAT_BUSY false).setBit (chanStat ch) DMA_CH_STAT_PREEMPTED false

theorem State.paceRing_reads (s : State) (n : Nat) (ht : t = s.paceRing n) : s.regsOnly t ∧ s.regsKept t [ringStat n] ∧
    t.requested n = (s.requested n || (s.isCopy n && s.bit (chanCtrl (ringCh n)) DMA_CH_CTRL_PACE && s.ringHead n != s.ringTail n &&
      !(s.ring n).waitTail)) := by
  subst ht
  unfold State.paceRing
  split
  · next h =>
    rw [h, Bool.or_true]
    exact ⟨s.setBit_regsOnly _ _ _, State.setFld_regsKept _ _ _ (List.mem_singleton_self _), State.setBit_bit _ _ _ _ rfl (by decide)⟩
  · next h =>
    rw [Bool.eq_false_iff.mpr h, Bool.or_false]
    exact ⟨rfl, fun _ _ => rfl, rfl⟩

theorem ring_ne_chanStat (n m : Nat) : ringCfg n ≠ chanStat m ∧ ringPtr n ≠ chanStat m ∧ chanCtrl m ≠ chanStat m := by
  simp only [ringCfg, ringPtr, chanCtrl, chanStat, RING_CFG, RING_PTR, DMA_CH_CTRL, DMA_CH_STAT, rgBlk, ringRg, ringLr]
  omega

/-- What the completion of a COPY burst leaves. -/
theorem State.burstDone_reads {n : Nat} {a v : State} (ha : a = s.setChan (ringCh n) { s.chan (ringCh n) with burst := none })
    (hv : v = a.chanIdle (ringCh n)) (ht : t = v.paceRing n) : (t.chan (ringCh n)).burst = none ∧
    t.bit (chanStat (ringCh n)) DMA_CH_STAT_BUSY = false ∧
    t.requested n = (s.requested n || (s.isCopy n && s.bit (chanCtrl (ringCh n)) DMA_CH_CTRL_PACE && s.ringHead n != s.ringTail n &&
      !(s.ring n).waitTail)) ∧
    (∀ k, k ≠ ringCh n → t.chan k = s.chan k) ∧ t = { s with regs := t.regs, chans := t.chans } ∧
    s.regsKept t [ringStat n, chanStat (ringCh n)] := by
  obtain ⟨hcfg, hptr, hctrl⟩ := ring_ne_chanStat n (ringCh n)
  have hstat := (chanStat_ne_ringStat (ringCh n) n).symm
  have hregA : a.reg = s.reg := by
    rw [ha]
    rfl
  have hregV : ∀ m, m ≠ chanStat (ringCh n) → v.reg m = s.reg m := fun m hm => by
    rw [hv, State.chanIdle, State.setBit_reg_ne _ _ _ _ _ hm, State.setBit_reg_ne _ _ _ _ _ hm, hregA]
  have hregsV : a.regsOnly v := hv ▸ State.regsOnly_trans (a.setBit_regsOnly _ _ _) (State.setBit_regsOnly _ _ _ _)
  have hbusy : v.bit (chanStat (ringCh n)) DMA_CH_STAT_BUSY = false := by
    rw [hv, State.chanIdle, State.setBit_bit_apart _ _ _ _ _ (by decide), State.setBit_bit _ _ _ _ rfl (by decide)]
  obtain ⟨hregsT, hkept, hreq⟩ := State.paceRing_reads v n ht
  obtain ⟨r, hr⟩ : ∃ r, v = { a with regs := r } := ⟨_, hregsV⟩
  obtain ⟨r', hr'⟩ : ∃ r', t = { v with regs := r' } := ⟨_, hregsT⟩
  have hchanT : t.chan = a.chan := by
    rw [hr', hr]
    rfl
  have hringV : v.ring = s.ring := by
    rw [hr, ha]
    rfl
  refine ⟨?_, ?_, ?_, fun k hk => ?_, ?_, fun m hm => ?_⟩
  · rw [hchanT, ha, State.setChan_chan]
  · rw [State.bit_of_reg _ (hkept _ (by simpa using hstat.symm)), hbusy]
  · have hcopy : v.isCopy n = s.isCopy n := State.bit_of_reg _ (hregV _ hcfg)
    have hhead : v.ringHead n = s.ringHead n := State.fld_of_reg _ (hregV _ hptr)
    have htail : v.ringTail n = s.ringTail n := State.fld_of_reg _ (hregV _ hptr)
    have hasked : v.requested n = s.requested n := State.bit_of_reg _ (hregV _ hstat)
    rw [hreq, hcopy, hhead, htail, hasked, hringV, State.bit_of_reg _ (hregV _ hctrl)]
  · rw [hchanT, ha, State.setChan_chan_ne _ _ _ _ hk]
  · rw [hr', hr, ha]
    rfl
  · obtain ⟨hring, hchan⟩ : m ≠ ringStat n ∧ m ≠ chanStat (ringCh n) := by simpa using hm
    rw [hkept m (by simpa using hring), hregV m hchan]

theorem State.closeDesc_copy {n : Nat} (h : ∀ x, (s.ring n).desc = some x → x.copy = true) : s.closeDesc n [] false = s := by
  unfold State.closeDesc
  split
  · next d hd =>
    rw [h d hd, Bool.not_true, Bool.and_false, Bool.false_and, if_neg Bool.false_ne_true]
  · rfl

theorem exec_burstComplete_copy {ring : RingNo} {b : Burst} (hb : s.ringBurst ring.val = some b) (hsrc : b.src = .copy) (hbeats : b.beats = [])
    (hleft : b.left = 0) (hstop : s.bit (ringStat ring.val) RING_STAT_STOPPED = false) (hfailed : (s.ring ring.val).failed = none)
    (hcopy : ∀ x, (s.ring ring.val).desc = some x → x.copy = true) : exec (.burstComplete ring [] false) s = .next
      (((s.setChan (ringCh ring.val) { s.chan (ringCh ring.val) with burst := none }).chanIdle (ringCh ring.val)).paceRing ring.val) := by
  have harm : exec (.burstComplete ring [] false) s = execBurstComplete ring [] false s := rfl
  have hguard : (b.beats.isEmpty && b.left == 0 && !s.bit (ringStat ring.val) RING_STAT_STOPPED && (s.ring ring.val).failed.isNone) = true := by
    rw [hbeats, hleft, hstop, hfailed]
    rfl
  rw [harm, execBurstComplete, hb]
  dsimp only
  rw [if_pos hguard, State.closeDesc_copy hcopy, hstop, if_neg Bool.false_ne_true, hsrc]
  rfl

/-- Settles O46: a beat by `BeatMoved`, the completion by `State.burstDone_reads`. -/
theorem beatsMoveBytesAndBurstsComplete : Obligations.BeatsMoveBytesAndBurstsComplete := by
  unfold Obligations.BeatsMoveBytesAndBurstsComplete
  intro e ring ch b d s
  refine ⟨fun hbeat hburst hsrc hdesc o x y ho hmore _ hpkgA hpkgB hlt hx hy hplainX hplainY hrepair hpoison => ?_,
    fun hb hsrc hbeats hleft hstop hfailed hcopy => ?_⟩
  · have hturn := s.inBeat_taken e.isLt (State.beatChan_lt e.isLt hbeat) hburst
    obtain ⟨a, ha⟩ : ∃ a, a = s.inBeat e.val ch := ⟨_, rfl⟩
    rw [← ha] at hturn
    obtain ⟨hring, -, -, -, hrepairA, hpoisonA, -⟩ := hturn.sides
    have hpkg := hturn.pkgId
    have hplainX := hturn.plain hplainX
    have hplainY := hturn.plain hplainY
    have hresX : a.resolve (d.a + o) = .here x := State.resolve_own hx hplainX.2.1 (hpkgA.trans hpkg.symm) (hpkg ▸ hlt)
    have hresY : a.resolve (d.b + o) = .here y := State.resolve_own hy hplainY.2.1 (hpkgB.trans hpkg.symm) (hpkg ▸ hlt)
    have hread := State.dmaRead_of_plain hresX hplainX (by decide) (by rw [hrepairA, hrepair]) (by rw [hpoisonA, hpoison]) (.data [])
    have hbad := State.dmaWriteBad_of_plain hy hplainY (hpkgB.trans hpkg.symm) (hpkg ▸ hlt)
    have hmove := (State.moveBeat_copy hturn.burst hsrc (by rw [hring]; exact hdesc) (.data []) {}).trans
      (State.copyBeat_moves (by rw [hring]; exact ho) hread hbad (State.dmaWrite_of_plain hresY hplainY.1 _) (by rw [hring]; exact hmore))
    have hexec : exec (.dmaBeat e [] (.data []) {}) s = .next (a.moveBeat ch [] (.data []) {}) := by
      have harm : exec (.dmaBeat e [] (.data []) {}) s = execDmaBeat e [] (.data []) {} s := rfl
      have hand : s.descAtHand ch = true := by
        unfold State.descAtHand
        rw [hburst]
        dsimp only
        rw [hdesc]
        rfl
      rw [harm, execDmaBeat, hbeat]
      dsimp only
      rw [if_pos hand, ha]
      rfl
    rw [hmove] at hexec
    obtain ⟨hwritten, hbytes, hoff, hdescT, hburstT, hrings, hchans, hframe, hpins, hkept⟩ :=
      BeatMoved.of_stages (x := x) hturn hdesc hplainY rfl rfl (show a.beatMoved ch b.ring y _ = _ from rfl)
    exact ⟨_, hexec, hwritten, hbytes, hoff, hdescT, hburstT, hrings, hchans, hframe, hpins, hkept⟩
  · exact ⟨_, exec_burstComplete_copy hb hsrc hbeats hleft hstop hfailed hcopy, State.burstDone_reads rfl rfl rfl⟩

end Sys2Proof.Machine
end
